-- ==== Sys2Proof/Word.lean ====
section
/-!
DEFINITION. The word types of the 5120 and the sparse tables that State is made of: a table is a list of key and value
pairs in one canonical form (keys strictly rising, no entry at its default value), so that equal tables are equal data.
-/
namespace Sys2Proof

/-- A byte of memory or of a frame. -/
abbrev Byte := BitVec 8
/-- A 32-bit instruction word or doubleword half. -/
abbrev Word32 := BitVec 32
/-- A general register, an IO register, a lode value (R232). -/
abbrev Word := BitVec 64
/-- A vector register (R234). -/
abbrev VWord := BitVec 128

/-- A sparse table: keys strictly rising, unlisted keys hold the table's default. -/
abbrev Table (α : Type) := List (Nat × α)

/-- The entry of `k`, or the default `d`. -/
def Table.get {α : Type} (t : Table α) (d : α) (k : Nat) : α :=
  match t with
  | [] => d
  | (k', v) :: rest => if k' = k then v else Table.get rest d k

/-- The table without `k`. -/
def Table.erase {α : Type} (t : Table α) (k : Nat) : Table α := t.filter (fun e => e.1 != k)

/-- Insert an entry before the first larger key. -/
def Table.insert {α : Type} (t : Table α) (k : Nat) (v : α) : Table α :=
  match t with
  | [] => [(k, v)]
  | (k', v') :: rest => if k < k' then (k, v) :: (k', v') :: rest else (k', v') :: Table.insert rest k v

/-- Write `v` at `k`; writing the default removes the entry. -/
def Table.set {α : Type} [DecidableEq α] (t : Table α) (d : α) (k : Nat) (v : α) : Table α :=
  if v = d then t.erase k else (t.erase k).insert k v

/-- Are the keys strictly rising? -/
def Table.sorted {α : Type} (t : Table α) : Bool :=
  match t with
  | [] => true
  | (k, _) :: rest => rest.all (fun e => decide (k < e.1)) && Table.sorted rest

/-- The canonical form: keys strictly rising and no entry at the default of its key. -/
def Table.wf {α : Type} [DecidableEq α] (t : Table α) (d : Nat → α) : Bool :=
  t.sorted && t.all (fun e => decide (e.2 ≠ d e.1))

/-- The keys listed. -/
def Table.keys {α : Type} (t : Table α) : List Nat := t.map Prod.fst

end Sys2Proof
end

