-- ==== Sys2Proof/Syntax.lean ====
section
/-!
DEFINITION. The commands of the block: one constructor for every row of the operation table. A hewer's instruction is a
command that carries the hewer that executes it and the fields of the fetched word.
-/
namespace Sys2Proof

/-- Hewer numbers (R12). -/
abbrev HewerId := Fin 512
/-- Register numbers, general or vector (R272). -/
abbrev RegNo := Fin 32

/-- The loads of R280. -/
inductive LoadKind where
  | b | h | w | d | bs | hs | ws | q
deriving DecidableEq, Repr

/-- The stores of R280. -/
inductive StoreKind where
  | b | h | w | d | q
deriving DecidableEq, Repr

/-- The fields every FP arithmetic word has: format (P of R310) and whether it is the vector form (major 0x34 or 0x35). -/
structure FpForm where
  single : Bool
  vector : Bool
deriving DecidableEq, Repr

/-- The scopes of `xinv` (R317). -/
inductive XScope where
  | loc | gallery | device
deriving DecidableEq, Repr

/-- The two debug paths (R756, R762). -/
inductive DbgPath where
  | jtag | pf
deriving DecidableEq, Repr

/-- Who reads or writes an IO register: a hewer, the manager through BAR0, adit `k` through its own BAR0 (R651), the debug
memory master on a path (R790), or the boot controller (R731). -/
inductive Writer where
  | hewer (h : HewerId)
  | manager
  | adit (k : Fin 64)
  | debug (path : DbgPath)
  | boot
deriving DecidableEq, Repr

/-- What a configuration write of a function sets (R607, R617, R628, R644). -/
inductive CfgWrite where
  | busMaster (on : Bool)
  /-- VF Enable with NumVFs, physical function only -/
  | vfEnable (on : Bool) (numVfs : Fin 64)
  | pmeEn (on : Bool)
  | msixEn (on : Bool)
  | msixMask (on : Bool)
  /-- Max_Payload_Size 128 × 2^code bytes, up to 512, and Max_Read_Request_Size 128 × 2^code, up to 4,096; physical function only -/
  | payload (code : Fin 3)
  | readSize (code : Fin 6)
deriving DecidableEq, Repr

/-- How a completion answers a request of the device (R623, R641). -/
inductive CplStatus where
  | success | unsupported | abort
deriving DecidableEq, Repr

/-- What the decoder finds in one codeword (R492, R514): the erroneous symbols, bit j for data symbol j and bit 32 + i for check
symbol i. -/
inductive CodeResult where
  | clean
  | corrected (symbols : BitVec 36)
  | uncorrectable (symbols : BitVec 36)
deriving DecidableEq, Repr

/-- A debug key of the image (R766): the public key's 97 bytes, MAX_LEVEL, RUN_OK, the device filter (none: any) and
NOT_AFTER. -/
structure DbgKey where
  pub : List Byte
  maxLevel : Fin 4
  runOk : Bool
  device : Option (BitVec 12)
  notAfter : Word
deriving DecidableEq, Repr

/-- One decoded item of a section of the image (R731; the byte formats inside a section are not in the spec, log 20). -/
inductive BootItem where
  /-- an IO write: address, width (1, 2, 4 or 8 bytes as 2^size) and value -/
  | io (addr : Word32) (size : Fin 4) (value : Word)
  /-- a PARTITIONS segment -/
  | segment (addr : BitVec 48) (data : List Byte)
  /-- the role of a port under 802.1AS: 0 by BMCA, 1 master, 2 slave, 3 neither (R73) -/
  | portRole (port : Fin 8) (role : Fin 4)
  /-- CFG_BOOT_ENTRY -/
  | bootEntry (addr : BitVec 48)
  /-- CFG_RECOV_ENTRY -/
  | recovEntry (addr : BitVec 48)
  /-- an ENABLE of a marked task (R177) -/
  | enable (index : BitVec 16)
  /-- a key of a KEYS section -/
  | keyData (data : List Byte)
  /-- a debug key entry (R766) -/
  | debugKey (n : Fin 4) (key : DbgKey)
deriving DecidableEq, Repr

/-- The commands. -/
inductive Instr where
  -- integer, register form (R275): destination, sources
  | add (h : HewerId) (rd ra rb : RegNo)
  | adc (h : HewerId) (rd ra rb : RegNo)
  | sub (h : HewerId) (rd ra rb : RegNo)
  | sbc (h : HewerId) (rd ra rb : RegNo)
  | cmp (h : HewerId) (ra rb : RegNo)
  | and (h : HewerId) (rd ra rb : RegNo)
  | or (h : HewerId) (rd ra rb : RegNo)
  | xor (h : HewerId) (rd ra rb : RegNo)
  | andn (h : HewerId) (rd ra rb : RegNo)
  | test (h : HewerId) (ra rb : RegNo)
  | shl (h : HewerId) (rd ra rb : RegNo)
  | shr (h : HewerId) (rd ra rb : RegNo)
  | sar (h : HewerId) (rd ra rb : RegNo)
  | ror (h : HewerId) (rd ra rb : RegNo)
  | mov (h : HewerId) (rd ra : RegNo)
  | pick (h : HewerId) (cond : Fin 16) (rd ra rb : RegNo)
  | mul (h : HewerId) (rd ra rb : RegNo)
  | mulu (h : HewerId) (rd ra rb : RegNo)
  | mulh (h : HewerId) (rd ra rb : RegNo)
  | mulhu (h : HewerId) (rd ra rb : RegNo)
  | div (h : HewerId) (rd ra rb : RegNo)
  | divu (h : HewerId) (rd ra rb : RegNo)
  | rem (h : HewerId) (rd ra rb : RegNo)
  | remu (h : HewerId) (rd ra rb : RegNo)
  -- integer, immediate form (R277, R278)
  | addi (h : HewerId) (rd ra : RegNo) (imm : BitVec 15)
  | cmpi (h : HewerId) (ra : RegNo) (imm : BitVec 15)
  | andi (h : HewerId) (rd ra : RegNo) (imm : BitVec 15)
  | ori (h : HewerId) (rd ra : RegNo) (imm : BitVec 15)
  | xori (h : HewerId) (rd ra : RegNo) (imm : BitVec 15)
  | shlByImmediate (h : HewerId) (rd ra : RegNo) (count : Fin 64)
  | shrByImmediate (h : HewerId) (rd ra : RegNo) (count : Fin 64)
  | sarByImmediate (h : HewerId) (rd ra : RegNo) (count : Fin 64)
  | rorByImmediate (h : HewerId) (rd ra : RegNo) (count : Fin 64)
  | li (h : HewerId) (rd : RegNo) (imm : BitVec 20)
  | movk (h : HewerId) (rd : RegNo) (k : Fin 4) (imm : BitVec 16)
  -- memory (R279 to R282): `miss` says that the data misses L1 D and the load completes out of order (R341)
  | load (h : HewerId) (kind : LoadKind) (rd ra : RegNo) (up : Bool) (disp : BitVec 14) (miss : Bool)
  | store (h : HewerId) (kind : StoreKind) (rd ra : RegNo) (up : Bool) (disp : BitVec 14)
  | loadIndexed (h : HewerId) (kind : LoadKind) (rd ra rb : RegNo) (scale : Fin 4) (miss : Bool)
  | storeIndexed (h : HewerId) (kind : StoreKind) (rd ra rb : RegNo) (scale : Fin 4)
  /-- the `n`th of the loads still outstanding returns, oldest first -/
  | loadReturn (h : HewerId) (n : Fin 24)
  | push (h : HewerId) (ra : RegNo)
  | pop (h : HewerId) (rd : RegNo)
  -- atomics (R301): 64-bit or 32-bit, .aq, .rl
  | ldx (h : HewerId) (wide aq rl : Bool) (rd ra : RegNo)
  | stx (h : HewerId) (wide aq rl : Bool) (rd ra rb : RegNo)
  | amoAdd (h : HewerId) (wide aq rl : Bool) (rd ra rb : RegNo)
  | amoSwap (h : HewerId) (wide aq rl : Bool) (rd ra rb : RegNo)
  | amoAnd (h : HewerId) (wide aq rl : Bool) (rd ra rb : RegNo)
  | amoOr (h : HewerId) (wide aq rl : Bool) (rd ra rb : RegNo)
  | amoMin (h : HewerId) (wide aq rl : Bool) (rd ra rb : RegNo)
  | amoMax (h : HewerId) (wide aq rl : Bool) (rd ra rb : RegNo)
  | amoMinu (h : HewerId) (wide aq rl : Bool) (rd ra rb : RegNo)
  | amoMaxu (h : HewerId) (wide aq rl : Bool) (rd ra rb : RegNo)
  -- transfers (R289): `a` is the annul bit A
  | bCond (h : HewerId) (a : Bool) (cond : Fin 16) (disp : BitVec 20)
  | jmp (h : HewerId) (a : Bool) (disp : BitVec 24)
  | call (h : HewerId) (a : Bool) (disp : BitVec 24)
  | jmpr (h : HewerId) (a : Bool) (ra : RegNo)
  | callr (h : HewerId) (a : Bool) (ra : RegNo)
  | ret (h : HewerId) (a : Bool)
  -- floating point and vector (R310 to R315)
  | fadd (h : HewerId) (f : FpForm) (vd va vb : RegNo)
  | fsub (h : HewerId) (f : FpForm) (vd va vb : RegNo)
  | fmul (h : HewerId) (f : FpForm) (vd va vb : RegNo)
  | fdiv (h : HewerId) (f : FpForm) (vd va vb : RegNo)
  | fsqrt (h : HewerId) (f : FpForm) (vd va : RegNo)
  | fmin (h : HewerId) (f : FpForm) (vd va vb : RegNo)
  | fmax (h : HewerId) (f : FpForm) (vd va vb : RegNo)
  | fabs (h : HewerId) (f : FpForm) (vd va : RegNo)
  | fneg (h : HewerId) (f : FpForm) (vd va : RegNo)
  | fmadd (h : HewerId) (f : FpForm) (vd va vb vc : RegNo)
  | fmsub (h : HewerId) (f : FpForm) (vd va vb vc : RegNo)
  | fnmsub (h : HewerId) (f : FpForm) (vd va vb vc : RegNo)
  | fnmadd (h : HewerId) (f : FpForm) (vd va vb vc : RegNo)
  | fcmp (h : HewerId) (single : Bool) (va vb : RegNo)
  | fcmpe (h : HewerId) (single : Bool) (va vb : RegNo)
  | fcvtI (h : HewerId) (single : Bool) (wd va : RegNo)
  | fcvtU (h : HewerId) (single : Bool) (wd va : RegNo)
  | icvt (h : HewerId) (single : Bool) (vd wa : RegNo)
  | ucvt (h : HewerId) (single : Bool) (vd wa : RegNo)
  | fcvtSd (h : HewerId) (vd va : RegNo)
  | fcvtDs (h : HewerId) (vd va : RegNo)
  | vmovWv (h : HewerId) (small : Bool) (lane : Fin 4) (vd wa : RegNo)
  | vmovVw (h : HewerId) (small : Bool) (lane : Fin 4) (wd va : RegNo)
  | vadd (h : HewerId) (small : Bool) (vd va vb : RegNo)
  | vsub (h : HewerId) (small : Bool) (vd va vb : RegNo)
  | vand (h : HewerId) (small : Bool) (vd va vb : RegNo)
  | vor (h : HewerId) (small : Bool) (vd va vb : RegNo)
  | vxor (h : HewerId) (small : Bool) (vd va vb : RegNo)
  -- IO space (R832): 64-bit or 32-bit
  | ioIn (h : HewerId) (wide : Bool) (rd ra : RegNo) (disp : BitVec 14)
  | ioOut (h : HewerId) (wide : Bool) (rd ra : RegNo) (disp : BitVec 14)
  -- system (R316, R317)
  | mfs (h : HewerId) (rd : RegNo) (sel : BitVec 12)
  | mts (h : HewerId) (ra : RegNo) (sel : BitVec 12)
  | nop (h : HewerId)
  | sys (h : HewerId)
  | mon (h : HewerId)
  | eret (h : HewerId)
  | tend (h : HewerId) (ra : RegNo)
  | sync (h : HewerId)
  | ifence (h : HewerId)
  | cdtsync (h : HewerId)
  | fenceR (h : HewerId)
  | fenceW (h : HewerId)
  | fenceRw (h : HewerId)
  | xinvA (h : HewerId) (scope : XScope) (rd ra : RegNo)
  | xinvT (h : HewerId) (scope : XScope) (rd : RegNo)
  | xinvAll (h : HewerId) (scope : XScope)
  /-- the xinv of `h` becomes complete at a twin (R429) -/
  | xinvComplete (h : HewerId) (twin : Fin 576)
  /-- `rep` (R296), with the word of the repeated instruction -/
  | rep (h : HewerId) (next : Word32)
  | customerInstruction (h : HewerId) (index : Fin 64) (rd ra rb : RegNo) (func : Fin 64)
  | softwareBreakpoint (h : HewerId)
  /-- the fetched word -/
  | illegalInstruction (h : HewerId) (word : Word32)
  -- the blocks: the draught, the lode, time (R130 to R231, R83 to R129, R48 to R82)
  | cdtBroadcastComplete
  | enable (index : BitVec 16)
  | disable (index : BitVec 16) (flush : Bool)
  | disableComplete
  | update (index staging : BitVec 16)
  | updateCopy
  | periodicRelease (index : BitVec 16)
  | commandedRelease (index : BitVec 16) (loc : BitVec 12)
  | gatherStart
  | packetLanded (index : BitVec 16)
  | noPlacement (index : BitVec 16)
  | deadlineMiss (index : BitVec 16)
  | distributorMove (gallery : Fin 64)
  | taskArrival (h : HewerId)
  | resultAccept (index : BitVec 16)
  | commit (index : BitVec 16)
  | budgetExpiry (h : HewerId)
  | drtEnSet
  | regionLocked
  | drtEnClear
  | tier1Steal (h : HewerId)
  | tier2Request (gallery : Fin 64)
  | tier2Steal
  | tier2CopyDone (index : BitVec 16)
  | threadRestore (h : HewerId)
  | hewerPoolWrite (k : Fin 8) (value : Word)
  | galleryPoolWrite (value : Word)
  | lodeWriteApply
  | softwareWrite (loc : BitVec 12) (value : Word32)
  | forceSet (loc : BitVec 12)
  | forceClear (loc : BitVec 12)
  | lodAdvance
  | epochClose
  | lodWinCommit (mask : Word)
  | windowCommitEffect
  | lodCfgDataWrite (value : Word32)
  | initDone
  | lodeScrub (slot : Fin 262144) (zero : Bool) (uncorrectable : Bool)
  | syncReceived (port : Fin 8) (master : Word) (std : Bool) (seconds : BitVec 64) (ns : Word32) (sub : BitVec 16) (log : BitVec 8) (hops : BitVec 8)
  | bmcaSelection (isSelf : Bool) (master : Word) (port : Fin 8) (hops : BitVec 8)
  | syncTimeout
  | holdoverExpiry
  | syncTransmit (port : Fin 8)
  | pdelayReqTransmit (port : Fin 8)
  | syncEnWrite (value : Word32)
  | timSet (value : Word)
  | compareUnitWrite (n : Fin 64) (which : Fin 3) (value : Word)
  | compareUnitFire (n : Fin 64)
  -- interrupts, canaries, modes (R439 to R470, R737 to R744)
  | interruptEntry (h : HewerId)
  | hwrIhiSet (target : HewerId) (level : Fin 16)
  | hwrXrouteWrite (by' target : HewerId) (value : Word32)
  | canaryKick (writer : Writer) (h : HewerId)
  | canaryPrewarning (h : HewerId)
  | canaryExpiry (h : HewerId)
  | canaryMachineCheck (h : HewerId)
  | expiredClear (by' h : HewerId)
  | deviceCanaryKick (writer : Writer) (value : BitVec 16)
  | canDevCtlWrite (value : Word32)
  | deviceCanaryPrewarning
  | deviceCanaryExpiry
  | forcedMEntry (h : HewerId)
  | requestSelfTest
  | requestRun
  | requestStandby
  | requestMaintenance
  | requestSafeHold
  | requestConfigure
  | runDecision
  -- the fault block, memory (R687 to R718, R490 to R534)
  | twinCompareFailure (h : HewerId) (kind : Fin 4) (failures : Fin 3)
  | twinSubstitution (h : HewerId)
  | hubMismatch (lasting : Bool)
  | retire (cls : Fin 4) (unit : Fin 1024)
  | returnToService (cls : Fin 4) (unit : Fin 1024)
  | retireComplete
  | logRecordWrite
  | memL2PldCtlWrite (value : Word32)
  | preloadDone
  | cachePatrolScrub (l2 : Option (Fin 1024)) (a : BitVec 48) (uncorrectable dirty : Bool)
  | dramRead (a : BitVec 48) (source : BitVec 12) (cw0 cw1 : CodeResult) (checkBad : Bool)
  | dramWrite (a : BitVec 48)
  | dramActivate (c : Fin 32) (b : Fin 16) (row : BitVec 18) (source : BitVec 12)
  | rfm (c : Fin 32) (b : Fin 16)
  | firedampWindowEnd (d4 : Bool)
  | refresh (c : Fin 32) (due reads : Bool)
  | mr4Poll (c : Fin 32) (rate : Fin 5) (mr4 : Byte) (high : Bool)
  | rowIdleClose (c : Fin 32) (b : Fin 16)
  | zqCalibration (c : Fin 32)
  | wck2dqiRetrain (c : Fin 32) (rd wr : BitVec 16)
  -- plant links (R581 to R606, R707, R711)
  | frameReceived (port : Fin 8) (bytes : List Byte) (fcsOk : Bool)
  | partnerFrameReceived (port : Fin 8) (device : BitVec 12) (openB : Word) (mode tim : Fin 8) (ready : Bool)
  | egressRead (n : Fin 64)
  | frameTransmit (port : Fin 8)
  | egressEntryCommit (value : Word)
  | gclCommit (port : Fin 8) (value : Word32)
  | gclInForce (port : Fin 8)
  | plkLinkDown (port : Fin 8) (absent : Bool)
  | plkLinkUp (port : Fin 8)
  | portCtlWrite (port : Fin 8) (value : Word32)
  | partnerFrameSend
  | plkPartnerLost
  | mgmtTxTailWrite (tail : BitVec 16)
  | mgmtTxSend
  | pcsLockLost (port : Fin 8)
  | pcsLockAcquired (port : Fin 8)
  | takeover
  | dualRun
  -- skip engines, adits (R541 to R580, R644 to R670)
  | shadowCommit (n : Fin 64)
  | shadowWithdraw (n : Fin 64)
  | handOver (n : Fin 64)
  | unitReadReturn (n : Fin 64) (u : Fin 8)
  | unitRetry (n : Fin 64)
  | transferComplete (n : Fin 64)
  | skpDisWrite (n : Fin 64)
  | skpHaltClear (n : Fin 64)
  | skpOwnerWrite (n owner : Fin 64)
  | unitWriteIssue (n : Fin 64)
  | create (k : Fin 64)
  | destroy (k : Fin 64)
  | aditCmdComplete
  | adtPoolWrite (value : Word)
  | mailboxWrite (k : Fin 64) (toVf : Bool) (i : Fin 8) (value : Word)
  | ringMgr (k : Fin 64)
  | ackMgr (k : Fin 64)
  | ringVf (k : Fin 64)
  | ackVf (k : Fin 64)
  | queryEnable (k : Fin 64) (q : Fin 256) (value : Word)
  | queryEnableDone (k : Fin 64) (q : Fin 256)
  | queryGo (k : Fin 64) (q : Fin 256)
  | queryRun (outrun : Bool)
  | queryHeadWrite (k : Fin 64) (q : Fin 256) (head : BitVec 16)
  | aditRecordWrite (k : Fin 64) (off : BitVec 15) (data : List Byte) (ep : Bool)
  -- the host endpoint (R607 to R643)
  | bar2Read (f : Fin 64) (off : BitVec 28) (len : Fin 4097)
  | bar2Write (f : Fin 64) (off : BitVec 28) (data : List Byte) (ep : Bool)
  | recordPortWrite (off : BitVec 20) (data : List Byte) (ep : Bool)
  | hostCompletion (tag : Fin 1024) (status : CplStatus) (data : List Byte) (ep : Bool)
  | completionTimeout (tag : Fin 1024)
  | freeze (cause : Fin 4) (f : Fin 64) (header : BitVec 128)
  | hepFreezeRelease (mask : Word)
  | functionLevelReset (f : Fin 64)
  | flrComplete (f : Fin 64)
  | perstNAssert
  | perstNDeassert
  | hepLinkDown
  | hepLinkUp (rate : Fin 6) (width : Fin 9)
  | powerStateChange (f : Fin 64) (target : Fin 3)
  | configurationWrite (f : Fin 64) (w : CfgWrite)
  -- the anemometer (R671 to R685)
  | decimatedSample (conv : List (List (BitVec 18)))
  | encoderTransition (n : Fin 16) (a b z : Bool)
  | digitalEdge (n : Fin 32) (pin : Bool)
  | outputEgressRead (n : Fin 64)
  | pwmPeriodStart (m : Fin 8)
  | anmCalibrationDone
  -- clocks and power (R31, R748 to R754)
  | rootPllLossOfLock
  | refclkStop
  | refclkRestart
  | pllRelock (fails : BitVec 128)
  | pwrDomReqWrite (value : Word32)
  | powerDomainSwitched (fails : BitVec 128)
  | thermalAdjust (temps : List (BitVec 16))
  | thermalTrip (sensor : Fin 9)
  | thermalTripEnd (sensor : Fin 9)
  | cclkStep (shaft : Fin 8)
  -- debug and one-time storage (R756 to R793)
  | haltTakesEffect (h : HewerId)
  | verifyComplete
  | lockoutExpiry
  | rootKeyProgrammed
  -- start-up and self-test (R719 to R739)
  | pornLow
  | pornRise (devnum : BitVec 12) (scanEnN : Bool)
  | porPllLock
  | bootDiscovery (ok : Bool) (octal : Fin 3) (sizeMib : BitVec 16)
  | bootHeader (readError : Bool)
  | bootEarlySections (items : List (List BootItem)) (fails : BitVec 128) (readError : Bool)
  | bootStream (readError : Bool)
  | bootVerify
  | bootApply (items : List (List BootItem))
  | selfTestEnd (twins : BitVec 576) (ways : List (Fin 1024)) (channels : BitVec 32) (hub : Bool)
  -- the tally (R794 to R809)
  | tlyStopWrite (stop : Bool)
  | counterOverflow (h : HewerId) (n : Fin 8) (k : BitVec 48)
  | samplingEnable (h : HewerId) (value : Word)
  | sampleTailWrite (h : HewerId) (tail : BitVec 16)
  | bwWindowEnd (counts : List Word)
  -- the configuration flash (R725)
  | xspiRead
  | xspiProgram
  | xspiErase
  | xspiOperationComplete (fails : Bool)
  -- the debug paths: JTAG instructions and Scesar commands (R757 to R771)
  | extest (value : Word)
  | samplePreload
  | idcode
  | bypass
  | dbgpwr (on : Bool)
  | testLogicReset
  | nopCommand (path : DbgPath)
  | setaddr (path : DbgPath) (size : BitVec 4) (arg : Word)
  | read (path : DbgPath) (size : BitVec 4)
  | write (path : DbgPath) (size : BitVec 4) (arg : Word)
  | vtRead (path : DbgPath) (h : HewerId)
  | vtWrite (path : DbgPath) (h : HewerId) (data : Word32)
  | close (path : DbgPath)
  | challenge (path : DbgPath) (level : Fin 4) (key : Fin 4)
  | verify (path : DbgPath) (level : Fin 4) (key : Fin 4)
  | rootKeyProgram (path : DbgPath) (key : BitVec 16)
  -- register accesses (R5, R255, R393, R609, R771 to R788)
  | bar0Read (f : Fin 64) (off : BitVec 26) (len : Fin 4097)
  | bar0Write (f : Fin 64) (off : BitVec 26) (data : List Byte) (ep : Bool) (header : BitVec 128)
  | registerWrite (writer : Writer) (addr : Word32) (wide : Bool) (value : Word)
  | cfgCdtWordWrite (writer : Writer) (value : Word)
  | cfgCdtEntryWrite (writer : Writer) (n : Fin 64) (value : Word)
  | halt (writer : Writer) (h : HewerId)
  | release (writer : Writer) (h : HewerId)
  | step (writer : Writer) (h : HewerId)
  | clrCheckstop (writer : Writer) (h : HewerId)
  | xtrigHalt (writer : Writer) (all : Bool) (gallery : Fin 64)
  | xtrigRelease (writer : Writer) (all : Bool) (gallery : Fin 64)
  | vtxWrite (h : HewerId) (data : Word32)
  | vrxRead (h : HewerId)
deriving DecidableEq, Repr

end Sys2Proof
end

