-- ==== Sys2Proof/Decode.lean ====
section
/-!
DEFINITION. Words of the operation table: its rows are commands of a block and give no bits, so no word spells one.
-/
namespace Sys2Proof

/-- The command that a word of `nbits` bits spells: none, for the table gives no row bits. -/
def decodeTableWord (_nbits _w : Nat) : Option Instr := none

end Sys2Proof
end

