-- ==== Sys2Proof/Machine/Bits.lean ====
section
/-!
DEFINITION. Bit fields, two's complement codes, byte order and sorted number lists: the helpers every block uses.
-/
namespace Sys2Proof.Machine

/-- Bits `hi` down to `lo` of a number. -/
def bitsOf (v hi lo : Nat) : Nat := (v / 2 ^ lo) % 2 ^ (hi + 1 - lo)

/-- Bit `i` of a number. -/
def bitOf (v i : Nat) : Bool := v.testBit i

/-- `v` with bits `hi` down to `lo` replaced by `x`. -/
def setBits (v hi lo x : Nat) : Nat :=
  v - bitsOf v hi lo * 2 ^ lo + (x % 2 ^ (hi + 1 - lo)) * 2 ^ lo

/-- The value of the `n` low bits of `v` read as two's complement. -/
def signedOf (n v : Nat) : Int :=
  if v % 2 ^ n < 2 ^ (n - 1) then (v % 2 ^ n : Nat) else (v % 2 ^ n : Nat) - (2 ^ n : Nat)

/-- The `n` low bits of the two's complement code of `x`. -/
def codeOf (n : Nat) (x : Int) : Nat := (x % (2 ^ n : Nat)).toNat

/-- Keep bits `hi` to `lo` of a value; the others are reserved and read 0. -/
def keepBits (v : Word) (hi lo : Nat) : Word := BitVec.ofNat 64 (bitsOf v.toNat hi lo * 2 ^ lo)

/-- 1 for true, 0 for false. -/
def b2n (b : Bool) : Nat := if b then 1 else 0

/-- Bring `x` into the range `lo` to `hi`. -/
def clampInt (lo hi x : Int) : Int := if x < lo then lo else if hi < x then hi else x

/-- The `n` bytes of `v`, least significant first (little-endian, R270). -/
def bytesLE (n v : Nat) : List Byte := (List.range n).map (fun i => BitVec.ofNat 8 (v / 2 ^ (8 * i)))

/-- The number whose bytes, least significant first, are `l`. -/
def natLE (l : List Byte) : Nat := l.foldr (fun b acc => acc * 256 + b.toNat) 0

/-- The `n` bytes of `v`, most significant first (wire order). -/
def bytesBE (n v : Nat) : List Byte := (bytesLE n v).reverse

/-- The number whose bytes, most significant first, are `l`. -/
def natBE (l : List Byte) : Nat := l.foldl (fun acc b => acc * 256 + b.toNat) 0

/-- `n` bytes of `l` from position `off`. -/
def sliceBytes (l : List Byte) (off n : Nat) : List Byte := (l.drop off).take n

/-- `l` with the bytes from position `off` replaced by `d`. -/
def pokeBytes (l : List Byte) (off : Nat) (d : List Byte) : List Byte :=
  l.take off ++ d ++ l.drop (off + d.length)

/-- Add to a sorted list of numbers without repeating it. -/
def insertNat (l : List Nat) (k : Nat) : List Nat :=
  match l with
  | [] => [k]
  | x :: rest => if k < x then k :: x :: rest else if k = x then x :: rest else x :: insertNat rest k

/-- Remove from a list of numbers. -/
def eraseNat (l : List Nat) (k : Nat) : List Nat := l.filter (fun x => x != k)

end Sys2Proof.Machine
end

