-- ==== Sys2Proof/Machine/Flags.lean ====
section
/-!
DEFINITION. Integer results and the flags they set (R238, R275, R276), and the conditions of R239. Flags are the number
8N + 4Z + 2C + V. Results are computed exactly and narrowed once.
-/
namespace Sys2Proof.Machine

/-- A result with its flags. -/
structure AluRes where
  val : Word
  nzcv : Nat
deriving DecidableEq, Repr

/-- The flags from their parts. -/
def nzcvOf (n z c v : Bool) : Nat := b2n n * 8 + b2n z * 4 + b2n c * 2 + b2n v

/-- A result whose N and Z follow it. -/
def resFlags (r : Word) (c v : Bool) : AluRes := ⟨r, nzcvOf r.msb (r == 0) c v⟩

/-- Is an exact integer outside the signed 64-bit range? -/
def notSigned64 (x : Int) : Bool := decide (x < -(2 ^ 63 : Nat)) || decide ((2 ^ 63 : Nat) ≤ x)

/-- Add class: wa + wb + carry. -/
def aluAdd (a b : Word) (cin : Bool) : AluRes :=
  resFlags (BitVec.ofNat 64 (a.toNat + b.toNat + b2n cin)) (decide (2 ^ 64 ≤ a.toNat + b.toNat + b2n cin))
    (notSigned64 (a.toInt + b.toInt + b2n cin))

/-- Subtract class: wa − wb − (1 − carry); C is 1 when there is no borrow. -/
def aluSub (a b : Word) (cin : Bool) : AluRes :=
  resFlags (a - b - BitVec.ofNat 64 (b2n (!cin))) (decide (b.toNat + b2n (!cin) ≤ a.toNat))
    (notSigned64 (a.toInt - b.toInt - b2n (!cin)))

/-- Logic class. -/
def aluLogic (r : Word) : AluRes := resFlags r false false

/-- The last bit shifted out, bit `i` of the operand; 0 for a count of 0. -/
def shiftCarry (a : Word) (n i : Nat) : Bool := if n = 0 then false else a.toNat.testBit i

def aluShl (a : Word) (n : Nat) : AluRes := resFlags (a <<< n) (shiftCarry a n (64 - n)) false
def aluShr (a : Word) (n : Nat) : AluRes := resFlags (a >>> n) (shiftCarry a n (n - 1)) false
def aluSar (a : Word) (n : Nat) : AluRes := resFlags (a.sshiftRight n) (shiftCarry a n (n - 1)) false
def aluRor (a : Word) (n : Nat) : AluRes := resFlags (a.rotateRight n) (shiftCarry a n (n - 1)) false

/-- A shift count: wb[5:0]. -/
def shiftCount (b : Word) : Nat := b.toNat % 64

/-- Multiply class, low half; V says that the product does not fit. -/
def aluMul (a b : Word) : AluRes := resFlags (a * b) false (notSigned64 (a.toInt * b.toInt))
def aluMulu (a b : Word) : AluRes := resFlags (a * b) false (decide (2 ^ 64 ≤ a.toNat * b.toNat))
/-- High half of the product (R276). -/
def aluMulh (a b : Word) : AluRes := resFlags (BitVec.ofInt 64 (a.toInt * b.toInt / (2 ^ 64 : Nat))) false false
def aluMulhu (a b : Word) : AluRes := resFlags (BitVec.ofNat 64 (a.toNat * b.toNat / 2 ^ 64)) false false

/-- Divide class; the divisor is not 0. -/
def aluDiv (a b : Word) : AluRes :=
  resFlags (BitVec.ofInt 64 (a.toInt.tdiv b.toInt)) false (notSigned64 (a.toInt.tdiv b.toInt))
def aluDivu (a b : Word) : AluRes := resFlags (BitVec.ofNat 64 (a.toNat / b.toNat)) false false
def aluRem (a b : Word) : AluRes := resFlags (BitVec.ofInt 64 (a.toInt.tmod b.toInt)) false false
def aluRemu (a b : Word) : AluRes := resFlags (BitVec.ofNat 64 (a.toNat % b.toNat)) false false

/-- The condition that bits [2:0] of a code name (R239). -/
def condBase (c nzcv : Nat) : Bool :=
  let n := nzcv.testBit 3
  let z := nzcv.testBit 2
  let cy := nzcv.testBit 1
  let v := nzcv.testBit 0
  match c with
  | 0 => true
  | 1 => z
  | 2 => n
  | 3 => v
  | 4 => cy
  | 5 => cy && !z
  | 6 => n == v
  | _ => !z && (n == v)

/-- Does condition `c` hold on the flags (R239)? Bit 3 inverts. -/
def condHolds (c nzcv : Nat) : Bool := (condBase (c % 8) nzcv) != (decide (8 ≤ c % 16))

end Sys2Proof.Machine
end

