-- ==== Sys2Proof/Machine/Encode.lean ====
section
/-!
DEFINITION. Instruction words (R270 to R274): the word of each format, which EVAL and sampling records hold, and the
test for an illegal word of R273.
-/
namespace Sys2Proof.Machine

/-- Register format. -/
def wReg (major rd ra rb func sub : Nat) : Nat :=
  major * 2 ^ 25 + rd * 2 ^ 20 + ra * 2 ^ 15 + rb * 2 ^ 10 + func * 2 ^ 4 + sub
/-- Fused format. -/
def wFused (major vd va vb vc op p : Nat) : Nat :=
  major * 2 ^ 25 + vd * 2 ^ 20 + va * 2 ^ 15 + vb * 2 ^ 10 + vc * 2 ^ 5 + op * 2 ^ 3 + p
/-- Immediate format. -/
def wImm (major rd ra imm : Nat) : Nat := major * 2 ^ 25 + rd * 2 ^ 20 + ra * 2 ^ 15 + imm
/-- Wide format; for movk the immediate is K and IMM16. -/
def wWide (major rd imm : Nat) : Nat := major * 2 ^ 25 + rd * 2 ^ 20 + imm
/-- Memory format; `up` is W for `in` and `out`. -/
def wMem (major rd ra : Nat) (up : Bool) (disp : Nat) : Nat :=
  major * 2 ^ 25 + rd * 2 ^ 20 + ra * 2 ^ 15 + b2n up * 2 ^ 14 + disp
/-- Branch format. -/
def wBranch (a : Bool) (cond disp : Nat) : Nat := 0x20 * 2 ^ 25 + b2n a * 2 ^ 24 + cond * 2 ^ 20 + disp
/-- Jump format. -/
def wJump (major : Nat) (a : Bool) (disp : Nat) : Nat := major * 2 ^ 25 + b2n a * 2 ^ 24 + disp
/-- Indirect format. -/
def wIndirect (a : Bool) (ra sub : Nat) : Nat := 0x23 * 2 ^ 25 + b2n a * 2 ^ 24 + ra * 2 ^ 15 + sub
/-- System format. -/
def wSystem (rd ra sel op : Nat) : Nat := rd * 2 ^ 20 + ra * 2 ^ 15 + sel * 2 ^ 3 + op
/-- The word of `rep`. -/
def wRep : Nat := 0x01 * 2 ^ 25

/-- Is a major opcode assigned (R274)? -/
def majorAssigned (m : Nat) : Bool :=
  m = 0x00 || m = 0x01 || m = 0x04 || m = 0x05 || (decide (0x08 ≤ m) && decide (m ≤ 0x23))
  || (decide (0x30 ≤ m) && decide (m ≤ 0x36)) || m = 0x38 || m = 0x39 || (decide (0x7C ≤ m) && decide (m ≤ 0x7F))

/-- Is a system-register number defined (R264)? -/
def sysRegDefined (n : Nat) : Bool :=
  decide (n ≤ 0x008) || n = 0x010 || n = 0x018 || (decide (0x020 ≤ n) && decide (n ≤ 0x022)) || n = 0x028
  || (decide (0x030 ≤ n) && decide (n ≤ 0x032)) || n = 0x038 || n = 0x039 || (decide (0x040 ≤ n) && decide (n ≤ 0x042))
  || n = 0x048 || (decide (0x100 ≤ n) && decide (n ≤ 0x13F))

/-- Is a major 0x00 word well formed (R316, R317)? -/
def legalSystem (rd ra sel op : Nat) : Bool :=
  match op with
  | 0 => ra = 0 && sysRegDefined sel
  | 1 => rd = 0 && sysRegDefined sel
  | 2 =>
    if sel = 0x004 then rd = 0
    else rd = 0 && ra = 0 && (decide (sel ≤ 3) || (decide (8 ≤ sel) && decide (sel ≤ 0xA)) || (decide (0x10 ≤ sel) && decide (sel ≤ 0x12)))
  | 3 =>
    sel % 256 = 0 && decide (bitsOf sel 9 8 ≤ 2)
    && (match bitsOf sel 11 10 with
        | 0 => true
        | 1 => ra = 0
        | 2 => rd = 0 && ra = 0
        | _ => false)
  | _ => false

/-- Is a word a legal instruction under R273? -/
def legalWord (w : Nat) : Bool :=
  let m := bitsOf w 31 25
  let rd := bitsOf w 24 20
  let ra := bitsOf w 19 15
  let rb := bitsOf w 14 10
  let f := bitsOf w 9 4
  let sub := bitsOf w 3 0
  let up := bitOf w 14
  match m with
  | 0x00 => legalSystem rd ra (bitsOf w 14 3) (bitsOf w 2 0)
  | 0x01 => bitsOf w 24 0 = 0
  | 0x04 =>
    (f = 0x21) || (sub = 0 && (decide (f ≤ 3) || (f = 4 && rd = 0) || (decide (8 ≤ f) && decide (f ≤ 0xB)) || (f = 0xC && rd = 0)
      || (decide (0x10 ≤ f) && decide (f ≤ 0x13)) || (f = 0x20 && rb = 0)))
  | 0x05 => decide (f ≤ 7) && sub = 0
  | 0x08 => true
  | 0x09 => rd = 0
  | 0x0A => true | 0x0B => true | 0x0C => true
  | 0x0D => decide (bitsOf w 14 12 ≤ 3) && bitsOf w 11 6 = 0
  | 0x0E => true
  | 0x0F => bitsOf w 17 16 = 0
  | 0x1D => (decide (f ≤ 7) || (decide (8 ≤ f) && decide (f ≤ 0xC))) && decide (sub ≤ 3)
  | 0x1E => rb = 0 && sub = 0 && ((f = 0 && rd = 0) || (f = 1 && ra = 0))
  | 0x1F => !bitOf w 1 && ((f = 0 && rb = 0) || f = 1 || (decide (0x10 ≤ f) && decide (f ≤ 0x17)))
  | 0x20 => true | 0x21 => true | 0x22 => true
  | 0x23 => bitsOf w 23 20 = 0 && bitsOf w 14 4 = 0 && (decide (sub ≤ 1) || (sub = 2 && ra = 0))
  | 0x30 => decide (f ≤ 8) && decide (sub ≤ 1) && (!(f = 4 || f = 7 || f = 8) || rb = 0)
  | 0x34 => decide (f ≤ 8) && decide (sub ≤ 1) && (!(f = 4 || f = 7 || f = 8) || rb = 0)
  | 0x31 => bitsOf w 2 1 = 0
  | 0x35 => bitsOf w 2 1 = 0
  | 0x32 => decide (f ≤ 1) && decide (sub ≤ 1) && rd = 0
  | 0x33 =>
    rb = 0 && ((decide (f ≤ 3) && decide (sub ≤ 1)) || ((f = 4 || f = 5) && sub = 0)
      || ((f = 8 || f = 9) && decide (sub ≤ 7) && (bitOf w 2 || decide (sub % 4 ≤ 1))))
  | 0x36 => decide (f ≤ 4) && decide (sub ≤ 1)
  | 0x38 => true | 0x39 => true
  | 0x7C => true | 0x7D => true | 0x7E => true | 0x7F => true
  | _ =>
    -- loads and stores with displacement (R279)
    if 0x10 ≤ m && m ≤ 0x1C then !up || (ra != 0 && !(ra = rd && decide (m ≤ 0x16))) else false

/-- May a word be repeated by `rep` (R297)? -/
def repeatable (w : Nat) : Bool :=
  let m := bitsOf w 31 25
  legalWord w && m != 0x00 && m != 0x01 && !(decide (0x20 ≤ m) && decide (m ≤ 0x23))
  && !(m = 0x1F && decide (bitsOf w 9 4 ≤ 1))

end Sys2Proof.Machine
end

