-- ==== Sys2Proof/Machine/Float.lean ====
section
/-!
DEFINITION. IEEE 754-2019 arithmetic for binary32 and binary64 as R235, R236 and R310 to R314 fix it: every result is
computed exactly on integers and rounded once, every NaN result is the default quiet NaN, tininess is detected after
rounding. Exception flags are a 5-bit number in the order of PSTAT.FX: 16 invalid, 8 divide by zero, 4 overflow,
2 underflow, 1 inexact.
-/
namespace Sys2Proof.Machine

/-- The two formats of R234: `dbl` is FP64 (.d), `sgl` is FP32 (.s). -/
inductive FpFmt where
  | dbl | sgl
deriving DecidableEq, Repr

/-- The four rounding directions of PSTAT.RM. -/
inductive RoundMode where
  | nearestEven | towardZero | towardPos | towardNeg
deriving DecidableEq, Repr

/-- A decoded operand: a NaN, an infinity, or the number (−1)^neg × mant × 2^exp. -/
inductive FpVal where
  | nan (signalling : Bool)
  | inf (neg : Bool)
  | fin (neg : Bool) (mant : Nat) (exp : Int)
deriving DecidableEq, Repr

/-- A result with the exceptions it raises. -/
structure FpRes where
  bits : Nat
  flags : Nat
deriving DecidableEq, Repr

def fpInvalid : Nat := 16
def fpDivZero : Nat := 8
def fpOverflow : Nat := 4
def fpUnderflow : Nat := 2
def fpInexact : Nat := 1

/-- Precision, in bits. -/
def FpFmt.prec : FpFmt → Nat | .dbl => 53 | .sgl => 24
/-- Width of the exponent field. -/
def FpFmt.expBits : FpFmt → Nat | .dbl => 11 | .sgl => 8
/-- Width of the format. -/
def FpFmt.width : FpFmt → Nat | .dbl => 64 | .sgl => 32
/-- Exponent bias. -/
def FpFmt.bias : FpFmt → Int | .dbl => 1023 | .sgl => 127
/-- Exponent of the smallest normal number. -/
def FpFmt.emin : FpFmt → Int | .dbl => -1022 | .sgl => -126

/-- The rounding direction that PSTAT.RM names. -/
def roundModeOf (rm : Nat) : RoundMode :=
  match rm % 4 with
  | 0 => .nearestEven
  | 1 => .towardZero
  | 2 => .towardPos
  | _ => .towardNeg

/-- The default quiet NaN (R235). -/
def FpFmt.qnan : FpFmt → Nat | .dbl => 0x7FF8000000000000 | .sgl => 0x7FC00000
/-- The infinity of a sign. -/
def FpFmt.infBits (f : FpFmt) (neg : Bool) : Nat :=
  b2n neg * 2 ^ (f.width - 1) + (2 ^ f.expBits - 1) * 2 ^ (f.prec - 1)
/-- The largest finite number of a sign. -/
def FpFmt.maxBits (f : FpFmt) (neg : Bool) : Nat := f.infBits neg - 1
/-- The zero of a sign. -/
def FpFmt.zeroBits (f : FpFmt) (neg : Bool) : Nat := b2n neg * 2 ^ (f.width - 1)

/-- Read an encoding. -/
def fpDecode (f : FpFmt) (v : Nat) : FpVal :=
  let neg := v.testBit (f.width - 1)
  let ef := bitsOf v (f.width - 2) (f.prec - 1)
  let mf := v % 2 ^ (f.prec - 1)
  if ef = 2 ^ f.expBits - 1 then
    if mf = 0 then .inf neg else .nan (!mf.testBit (f.prec - 2))
  else if ef = 0 then .fin neg mf (f.emin - (f.prec - 1 : Nat))
  else .fin neg (mf + 2 ^ (f.prec - 1)) ((ef : Int) - f.bias - (f.prec - 1 : Nat))

/-- Should the magnitude be rounded up, given its lowest kept bit, the half bit and whether anything lies below it? -/
def roundUp (rm : RoundMode) (neg odd half rest : Bool) : Bool :=
  match rm with
  | .nearestEven => half && (rest || odd)
  | .towardZero => false
  | .towardPos => !neg && (half || rest)
  | .towardNeg => neg && (half || rest)

/-- Divide a magnitude by 2^`sh`, rounding; `sticky` says that a little more than `m` was there. Answers the rounded
magnitude and whether it is inexact. -/
def roundShift (rm : RoundMode) (neg : Bool) (m : Nat) (sticky : Bool) (sh : Int) : Nat × Bool :=
  if sh ≤ 0 then
    let m' := m * 2 ^ (-sh).toNat
    (m' + b2n (roundUp rm neg (m' % 2 = 1) false sticky), sticky)
  else
    let k := sh.toNat
    let q := m / 2 ^ k
    let half := m.testBit (k - 1)
    let rest := sticky || m % 2 ^ (k - 1) != 0
    (q + b2n (roundUp rm neg (q % 2 = 1) half rest), half || rest)

/-- Round (−1)^neg × (m + sticky) × 2^e to the format (R235). -/
def fpRound (f : FpFmt) (rm : RoundMode) (neg : Bool) (m : Nat) (e : Int) (sticky : Bool) : FpRes :=
  if m = 0 && !sticky then ⟨f.zeroBits neg, 0⟩
  else
    let top : Int := e + Nat.log2 m
    let qmin : Int := f.emin - (f.prec - 1 : Nat)
    let qn : Int := top - (f.prec - 1 : Nat)
    let q := if qn < qmin then qmin else qn
    let r := roundShift rm neg m sticky (q - e)
    let carry := r.1 = 2 ^ f.prec
    let mant := if carry then 2 ^ (f.prec - 1) else r.1
    let q' := if carry then q + 1 else q
    -- the exponent field, 0 for a subnormal
    let ef : Int := if mant < 2 ^ (f.prec - 1) then 0 else q' + (f.prec - 1 : Nat) + f.bias
    if ef ≥ 2 ^ f.expBits - 1 then
      let toInf := match rm with
        | .nearestEven => true
        | .towardZero => false
        | .towardPos => !neg
        | .towardNeg => neg
      ⟨if toInf then f.infBits neg else f.maxBits neg, fpOverflow + fpInexact⟩
    else
      -- tininess after rounding: round with an unbounded exponent
      let u := roundShift rm neg m sticky (qn - e)
      let utop : Int := if u.1 = 2 ^ f.prec then top + 1 else top
      let tiny := utop < f.emin
      let bits := f.zeroBits neg + ef.toNat * 2 ^ (f.prec - 1) + mant % 2 ^ (f.prec - 1)
      ⟨bits, (if r.2 then fpInexact else 0) + (if r.2 && tiny then fpUnderflow else 0)⟩

/-- The invalid operation: the default NaN. -/
def fpInvalidRes (f : FpFmt) : FpRes := ⟨f.qnan, fpInvalid⟩

def FpVal.isNan : FpVal → Bool | .nan _ => true | _ => false
def FpVal.isSnan : FpVal → Bool | .nan s => s | _ => false
def FpVal.negate : FpVal → FpVal
  | .nan s => .nan s
  | .inf n => .inf (!n)
  | .fin n m e => .fin (!n) m e

/-- A NaN operand was met: the default NaN, invalid when one of them signals. -/
def fpNanRes (f : FpFmt) (anySnan : Bool) : FpRes := ⟨f.qnan, if anySnan then fpInvalid else 0⟩

/-- The exact integer (−1)^neg × m × 2^(e − base), for base ≤ e. -/
def scaledInt (neg : Bool) (m : Nat) (e base : Int) : Int :=
  let x : Int := m * 2 ^ (e - base).toNat
  if neg then -x else x

/-- The sum of two finite numbers, rounded once. -/
def fpSumFin (f : FpFmt) (rm : RoundMode) (n1 : Bool) (m1 : Nat) (e1 : Int) (n2 : Bool) (m2 : Nat) (e2 : Int) : FpRes :=
  let base := if e1 < e2 then e1 else e2
  let x := scaledInt n1 m1 e1 base + scaledInt n2 m2 e2 base
  if x = 0 then
    if m1 = 0 && m2 = 0 && n1 == n2 then ⟨f.zeroBits n1, 0⟩
    else ⟨f.zeroBits (rm == .towardNeg), 0⟩
  else fpRound f rm (decide (x < 0)) x.natAbs base false

/-- a + b. -/
def fpAdd (f : FpFmt) (rm : RoundMode) (a b : FpVal) : FpRes :=
  match a, b with
  | .nan s, y => fpNanRes f (s || y.isSnan)
  | _, .nan s => fpNanRes f s
  | .inf n1, .inf n2 => if n1 == n2 then ⟨f.infBits n1, 0⟩ else fpInvalidRes f
  | .inf n, .fin _ _ _ => ⟨f.infBits n, 0⟩
  | .fin _ _ _, .inf n => ⟨f.infBits n, 0⟩
  | .fin n1 m1 e1, .fin n2 m2 e2 => fpSumFin f rm n1 m1 e1 n2 m2 e2

/-- a − b. -/
def fpSub (f : FpFmt) (rm : RoundMode) (a b : FpVal) : FpRes := fpAdd f rm a b.negate

/-- a × b. -/
def fpMul (f : FpFmt) (rm : RoundMode) (a b : FpVal) : FpRes :=
  match a, b with
  | .nan s, y => fpNanRes f (s || y.isSnan)
  | _, .nan s => fpNanRes f s
  | .inf n1, .inf n2 => ⟨f.infBits (n1 != n2), 0⟩
  | .inf n1, .fin n2 m2 _ => if m2 = 0 then fpInvalidRes f else ⟨f.infBits (n1 != n2), 0⟩
  | .fin n1 m1 _, .inf n2 => if m1 = 0 then fpInvalidRes f else ⟨f.infBits (n1 != n2), 0⟩
  | .fin n1 m1 e1, .fin n2 m2 e2 => fpRound f rm (n1 != n2) (m1 * m2) (e1 + e2) false

/-- a ÷ b. -/
def fpDiv (f : FpFmt) (rm : RoundMode) (a b : FpVal) : FpRes :=
  match a, b with
  | .nan s, y => fpNanRes f (s || y.isSnan)
  | _, .nan s => fpNanRes f s
  | .inf _, .inf _ => fpInvalidRes f
  | .inf n1, .fin n2 _ _ => ⟨f.infBits (n1 != n2), 0⟩
  | .fin n1 _ _, .inf n2 => ⟨f.zeroBits (n1 != n2), 0⟩
  | .fin n1 m1 e1, .fin n2 m2 e2 =>
    if m2 = 0 then (if m1 = 0 then fpInvalidRes f else ⟨f.infBits (n1 != n2), fpDivZero⟩)
    else
      let k := f.prec + 3 + Nat.log2 m2
      let num := m1 * 2 ^ k
      fpRound f rm (n1 != n2) (num / m2) (e1 - e2 - (k : Nat)) (num % m2 != 0)

/-- The integer square root of `n`, bit by bit from bit `i − 1` downward, starting from `r`. -/
def isqrtAux (n : Nat) (i r : Nat) : Nat :=
  match i with
  | 0 => r
  | j + 1 => isqrtAux n j (if (r + 2 ^ j) * (r + 2 ^ j) ≤ n then r + 2 ^ j else r)

/-- The largest r with r² ≤ n. -/
def isqrt (n : Nat) : Nat := isqrtAux n (Nat.log2 n / 2 + 1) 0

/-- The square root of a. -/
def fpSqrt (f : FpFmt) (rm : RoundMode) (a : FpVal) : FpRes :=
  match a with
  | .nan s => fpNanRes f s
  | .inf n => if n then fpInvalidRes f else ⟨f.infBits false, 0⟩
  | .fin n m e =>
    if m = 0 then ⟨f.zeroBits n, 0⟩
    else if n then fpInvalidRes f
    else
      let k0 := 2 * f.prec + 4
      let k := if (e - (k0 : Nat)) % 2 = 0 then k0 else k0 + 1
      let x := m * 2 ^ k
      let r := isqrt x
      fpRound f rm false r ((e - (k : Nat)) / 2) (r * r != x)

/-- a × b + c with one rounding (R311). -/
def fpFma (f : FpFmt) (rm : RoundMode) (a b c : FpVal) : FpRes :=
  let zeroInf : Bool := match a, b with
    | .inf _, .fin _ m _ => m == 0
    | .fin _ m _, .inf _ => m == 0
    | _, _ => false
  if zeroInf then fpInvalidRes f
  else if a.isNan || b.isNan || c.isNan then fpNanRes f (a.isSnan || b.isSnan || c.isSnan)
  else
    match a, b with
    | .fin n1 m1 e1, .fin n2 m2 e2 =>
      match c with
      | .inf n => ⟨f.infBits n, 0⟩
      | .nan s => fpNanRes f s
      | .fin n3 m3 e3 => fpSumFin f rm (n1 != n2) (m1 * m2) (e1 + e2) n3 m3 e3
    | x, y =>
      let sg := (match x with | .inf n => n | .fin n _ _ => n | .nan _ => false)
        != (match y with | .inf n => n | .fin n _ _ => n | .nan _ => false)
      fpAdd f rm (.inf sg) c

/-- The order of two numbers: −1, 0, 1, or none when unordered. -/
def fpOrder (a b : FpVal) : Option Int :=
  match a, b with
  | .nan _, _ => none
  | _, .nan _ => none
  | .inf n1, .inf n2 => if n1 == n2 then some 0 else if n1 then some (-1) else some 1
  | .inf n, .fin _ _ _ => if n then some (-1) else some 1
  | .fin _ _ _, .inf n => if n then some 1 else some (-1)
  | .fin n1 m1 e1, .fin n2 m2 e2 =>
    let base := if e1 < e2 then e1 else e2
    let d := scaledInt n1 m1 e1 base - scaledInt n2 m2 e2 base
    if d < 0 then some (-1) else if d = 0 then some 0 else some 1

/-- IEEE 754-2019 minimumNumber (`isMax` false) and maximumNumber (true), with −0 below +0 (R310). -/
def fpMinMax (f : FpFmt) (isMax : Bool) (x y : Nat) : FpRes :=
  let a := fpDecode f x
  let b := fpDecode f y
  let fl := if a.isSnan || b.isSnan then fpInvalid else 0
  if a.isNan && b.isNan then ⟨f.qnan, fl⟩
  else if a.isNan then ⟨y, fl⟩
  else if b.isNan then ⟨x, fl⟩
  else
    match fpOrder a b with
    | some o =>
      let xNeg := x.testBit (f.width - 1)
      let xBelow := decide (o < 0) || (decide (o = 0) && xNeg)
      ⟨if xBelow == isMax then y else x, 0⟩
    | none => ⟨f.qnan, fl⟩

/-- fabs: clear the sign bit, no exception. -/
def fpAbs (f : FpFmt) (x : Nat) : Nat := x % 2 ^ (f.width - 1)
/-- fneg: invert the sign bit, no exception. -/
def fpNeg (f : FpFmt) (x : Nat) : Nat := if x.testBit (f.width - 1) then x - 2 ^ (f.width - 1) else x + 2 ^ (f.width - 1)

/-- A number rounded to an integer; the flag says it differs from the operand. -/
def fpToIntExact (rm : RoundMode) (neg : Bool) (m : Nat) (e : Int) : Int × Bool :=
  let r := roundShift rm neg m false (-e)
  (if neg then -(r.1 : Int) else r.1, r.2)

/-- FP to a 64-bit integer under R314. -/
def fpToInt (rm : RoundMode) (isSigned : Bool) (a : FpVal) : FpRes :=
  let lo : Int := if isSigned then -(2 ^ 63 : Nat) else 0
  let hi : Int := if isSigned then (2 ^ 63 - 1 : Nat) else (2 ^ 64 - 1 : Nat)
  match a with
  | .nan _ => ⟨0, fpInvalid⟩
  | .inf n => ⟨codeOf 64 (if n then lo else hi), fpInvalid⟩
  | .fin n m e =>
    let r := fpToIntExact rm n m e
    if r.1 < lo then ⟨codeOf 64 lo, fpInvalid⟩
    else if hi < r.1 then ⟨codeOf 64 hi, fpInvalid⟩
    else ⟨codeOf 64 r.1, if r.2 then fpInexact else 0⟩

/-- An integer to FP, rounded by RM. -/
def fpFromInt (f : FpFmt) (rm : RoundMode) (x : Int) : FpRes :=
  if x = 0 then ⟨0, 0⟩ else fpRound f rm (decide (x < 0)) x.natAbs 0 false

/-- A number of one format rounded to another; a NaN becomes the default NaN. -/
def fpConvert (dst : FpFmt) (rm : RoundMode) (a : FpVal) : FpRes :=
  match a with
  | .nan s => fpNanRes dst s
  | .inf n => ⟨dst.infBits n, 0⟩
  | .fin n m e => fpRound dst rm n m e false

/-- The flags N, Z, C, V of an FP compare, as the number 8N + 4Z + 2C + V, and its exceptions (R240). -/
def fpCompare (f : FpFmt) (signalling : Bool) (x y : Nat) : Nat × Nat :=
  let a := fpDecode f x
  let b := fpDecode f y
  match fpOrder a b with
  | none => (3, if signalling || a.isSnan || b.isSnan then fpInvalid else 0)
  | some o => (if o < 0 then 8 else if o = 0 then 6 else 2, 0)

end Sys2Proof.Machine
end

