-- ==== Sys2Proof/Config.lean ====
section
/-!
DEFINITION. What one part fixes and the spec leaves open: opaque constants and functions with no body, so that no proof
can see a value of them (assumption log 3 and 4).
-/
namespace Sys2Proof

/-- The free values of the model, one for each count of `State.freeCtr`: nothing constrains them (log 3). -/
opaque Config.freeBits : Nat → Nat
/-- Which of the control-state values that a distance leaves open an instruction sees (log 7). -/
opaque Config.ctlChoice : Nat → Nat → Nat
/-- How many decode-table writes in flight a hewer's copy has reached (log 3). -/
opaque Config.cdtChoice : Nat → Nat → Nat
/-- The bytes of the boot ROM, by offset (log 4: the spec describes the code of R738, not its words). -/
opaque Config.bootRom : Nat → Byte
/-- Where the boot ROM's code waits in a loop (R738; log 4). -/
opaque Config.romLoop : BitVec 20
/-- Kwastad's PCI Express Vendor ID (HEP_ID; the number is not in the spec). -/
opaque Config.vendorId : BitVec 16
/-- The manufacturer field of the JTAG IDCODE of Kwastad (not in the spec). -/
opaque Config.jedecId : BitVec 11
/-- What a byte of DRAM reads as after contents were lost for the nth time and nothing wrote it since (R838, log 2). -/
opaque Config.lostByte : Nat → Nat → Byte
/-- The destination address of PARTNER frames (R601 gives none; log 24). -/
opaque Config.partnerAddr : BitVec 48
/-- SHA-384 of a byte string, as six doublewords, most significant first (R729). -/
opaque Config.sha384 : List Byte → List Word
/-- Does an ECDSA P-384 signature (r then s) verify over a message with a SEC1 public key? (R729, R767) -/
opaque Config.ecdsaVerify : List Byte → List Byte → List Byte → Bool

end Sys2Proof
end

