-- ==== Sys2Proof/Machine/Regs.lean ====
section
/-!
DEFINITION. The IO registers of the 5120: one name, one descriptor and one accessor per field for every register map
of the spec (address, width, reset value, access type of each field: R5, R9, R43 to R45, and the register maps that
close each chapter).
-/
namespace Sys2Proof.Machine

/-- The access types of R5. -/
inductive Access where
  | rw | ro | wo | w1c | rc | rwl
deriving DecidableEq, Repr

/-- Every IO register of the spec's register maps, without its index letters. -/
inductive RegName where
  | TIM_CTL | TIM_STATUS | TIM_NOW | TIM_SET | TIM_EPOCH | TIM_RATE | TIM_OFFSET | TIM_LIMITS | TIM_HOLD | TIM_SERVO
  | TIM_BMCA | TIM_LOSS_COUNT | TIM_GM_ID | TIM_CMP_TARGET | TIM_CMP_PERIOD | TIM_CMP_CTL | TIM_CMP_STAT | LOD_CTL
  | LOD_STATUS | LOD_EPOCH | LOD_OPEN_B | LOD_PEND_B | LOD_HORIZON | LOD_EGRESS_LEAD | LOD_ADVANCE | LOD_COUNTS
  | LOD_AGE_LIMIT | LOD_CFG_INDEX | LOD_CFG_DATA | LOD_SWR_INDEX | LOD_SWR_CTL | LOD_SWR_VALUE | LOD_FRC_INDEX
  | LOD_FRC_CTL | LOD_FRC_VALUE | LOD_FRC_TIME | LOD_WIN_COMMIT | LOD_WIN_MATCH | LOD_WIN_RANGE | LOD_WIN_MAP
  | LOD_ANM_MAP | DRT_CTL | DRT_STATUS | DRT_REGION_BASE | DRT_TABLES | DRT_CMD | DRT_CMD_STATUS | DRT_RELEASE
  | DRT_QUERY_INDEX | DRT_QUERY | DRT_QUERY_NEXT | DRT_EVT_COUNTS | DRT_DSP_CTL | DRT_DSP_STATUS | DRT_GAL_POOL
  | DRT_GAL_EXPORT | DRT_GAL_IMPORT | DRT_PCLASS_LVL | DRT_DSP_COUNTS | DRT_SAVE_BASE | DRT_HWR_POOL
  | DRT_GAL_STATUS | HWR_IOGRANT | CFG_CDT_INDEX | CFG_CDT_STATUS | CFG_CDT_WORD | CFG_CDT_ENTRY | HWR_IPEND
  | HWR_IENA | HWR_ILVL | HWR_PTC_PEND | HWR_IHI_SET | HWR_IHI_PEND | HWR_XROUTE | CAN_GRACE | CAN_DEV_CTL
  | CAN_DEV_KICK | CAN_DEV_STAT | CAN_HWR_CTL | CAN_HWR_KICK | CAN_HWR_STAT | MEM_L2_ALLOC | MEM_L2_LOCK
  | MEM_L2_PLD_ADDR | MEM_L2_PLD_GAL | MEM_L2_PLD_CTL | MEM_L2_PLD_STAT | MEM_CODE_COUNTS | MEM_CTL | MEM_SCHED
  | MEM_STATUS | MEM_TRN_CTL | MEM_FDP_CTL | MEM_FDP_COUNTS | MEM_UE_LOG | MEM_CE_LOG | MEM_CH_STATUS
  | MEM_CH_PP_FORCE | MEM_CH_ERR_COUNTS | MEM_CH_FDP_LOG | MEM_CH_TRAIN | SKP_ACTIVE | SKP_COUNTS | SKP_CH_CTL
  | SKP_CH_STAT | SKP_CH_HANDOVER_COUNT | SKP_CH_SHADOW_VALID | SKP_CH_REM | SKP_CH_BURST | SKP_CH_ERR_ADDR
  | SKP_CH_S_SRC | SKP_CH_S_DST | SKP_CH_S_SIZE | SKP_CH_S_STRIDE | SKP_CH_S_CPL | SKP_CH_S_OPT | PLK_CTL
  | PLK_PARTNER | PLK_PARTNER_STAT | PLK_EGR_INDEX | PLK_EGR_DATA | PLK_MGMT_RX | PLK_MGMT_TX | PLK_MGMT_RX_PTR
  | PLK_MGMT_TX_PTR | PLK_WIN_LAST | PLK_PORT_CTL | PLK_PORT_STATUS | PLK_PORT_MAC | PLK_PORT_GCL_BASE
  | PLK_PORT_GCL_CYCLE | PLK_PORT_GCL_CTL | PLK_PORT_COUNTS | PLK_PORT_GCL | HEP_CTL | HEP_STATUS | HEP_ID
  | HEP_BAR2 | HEP_FREEZE | HEP_FREEZE_RELEASE | HEP_COUNTS | HEP_ERR_LOG_DW0 | HEP_ERR_LOG_DW1 | HEP_ERR_LOG_DW2
  | HEP_ERR_LOG_DW3 | HEP_OSEG | ADT_POOL | ADT_MBX_PEND | ADT_CMD_BUSY | ADT_QUIESCE | ADT_MGR_CTL | ADT_CMD
  | ADT_ASGN_RES | ADT_ASGN_RANGE | ADT_MBX_TOMGR | ADT_MBX_TOVF | ADT_MBX_CTL | ADT_STATUS | ADT_CMD_CREDIT
  | ADT_COUNTS | ADT_Q_CFG | ADT_Q_RING | ADT_Q_PTR | ADT_Q_CTL | ANM_CTL | ANM_STATUS | ANM_AIN_PHASE | ANM_COUNTS
  | ANM_AIN_CFG | ANM_AIN_SCALE | ANM_AIN_OFFSET | ANM_ENC_CFG | ANM_ENC_COUNT | ANM_DIO_CFG | ANM_DIO_SLOT
  | ANM_AOUT_CFG | ANM_PWM_CFG | ANM_AOUT_SAFE | ANM_AOUT_CODE | ANM_PWM_PERIOD | ANM_PWM_SAFE | FLT_CTL
  | FLT_STATUS | FLT_NOTIFY | FLT_LOG_BASE | FLT_LOG_PTR | FLT_COUNTS | FLT_CLASS_WIN | FLT_RETIRE | FLT_PARTNER
  | FLT_PARTNER_STAT | FLT_GAL_MAP | CFG_ID | CFG_MODE | CFG_BOOT_STATUS | CFG_BOOT_ENTRY | CFG_RECOV_ENTRY
  | CFG_IMAGE | CFG_ST_RESULT | CFG_ROOTKEY_HASH | CFG_XSPI_CTL | CFG_XSPI_ADDR | CFG_XSPI_INFO | CFG_XSPI_DATA
  | PWR_DOM_REQ | PWR_DOM_STATE | PWR_STATUS | PWR_THERM | PWR_TRIP_LOG | PWR_SHAFT_CLK | PWR_TEMP | DBG_CTL
  | DBG_SESSION | DBG_AUTH_CTL | DBG_AUTH_CHAL | DBG_AUTH_RESP | DBG_SWBP | DBG_XTRIG | DBG_HALTED | DBG_RKP_DATA
  | DBG_RKP_CTL | DBG_HWR_RC | DBG_HWR_RSTAT | DBG_HWR_VTX | DBG_HWR_VRX | DBG_HWR_VT_STAT | DBG_HWR_CMP_LO
  | DBG_HWR_CMP_HI | DBG_HWR_CMP_CTL | HEP_SCS_ARG | HEP_SCS_RES | HEP_SCS_CMD | TLY_GCTL | TLY_BW_CTL | TLY_BW_SEQ
  | TLY_BW_LAST | TLY_BW_MAX | TLY_HWR_CTR | TLY_HWR_EVT | TLY_HWR_STAT | TLY_HWR_SCTL | TLY_HWR_SBASE
  | TLY_HWR_SPTR | LOD_WIN_MATCH_A | LOD_WIN_RANGE_A | LOD_WIN_MAP_A | SKP_CH_A_SRC | SKP_CH_A_DST | SKP_CH_A_SIZE
  | SKP_CH_A_STRIDE | SKP_CH_A_CPL | SKP_CH_A_OPT | HEP_MSIX_TABLE | HEP_MSIX_CTL | HEP_MSIX_PBA
deriving DecidableEq, Repr

/-- One field of a register: its bits and its access type. -/
structure RegField where
  hi : Nat
  lo : Nat
  acc : Access
deriving DecidableEq, Repr

/-- One register map: `cnt` copies `str` bytes apart, numbered from `fst`, each holding `cnt2` copies `str2` bytes apart. -/
structure RegDesc where
  name : RegName
  base : Nat
  fst : Nat
  cnt : Nat
  str : Nat
  cnt2 : Nat
  str2 : Nat
  width : Nat
  reset : Nat
  fields : List RegField
deriving DecidableEq, Repr

/-- A field of one register of IO space: the register's address and the field's bits. -/
structure IoField where
  addr : Nat
  hi : Nat
  lo : Nat
deriving DecidableEq, Repr

/-- Register maps of the TIM block (02). -/
def descsTIM0 : List RegDesc := [
  ⟨.TIM_CTL, 0x01000000, 0, 1, 0x0, 1, 0x0, 32, 0x3FF0001,
    [⟨26, 24, .rwl⟩, ⟨23, 16, .rwl⟩, ⟨15, 8, .rwl⟩, ⟨1, 1, .rwl⟩, ⟨0, 0, .rwl⟩]⟩,
  ⟨.TIM_STATUS, 0x01000004, 0, 1, 0x0, 1, 0x0, 32, 0xF00,
    [⟨25, 25, .w1c⟩, ⟨24, 24, .w1c⟩, ⟨23, 16, .ro⟩, ⟨11, 8, .ro⟩, ⟨5, 5, .ro⟩, ⟨4, 4, .ro⟩, ⟨2, 0, .ro⟩]⟩,
  ⟨.TIM_NOW, 0x01000008, 0, 1, 0x0, 1, 0x0, 64, 0x0,
    [⟨63, 0, .ro⟩]⟩,
  ⟨.TIM_SET, 0x01000010, 0, 1, 0x0, 1, 0x0, 64, 0x0,
    [⟨63, 0, .wo⟩]⟩,
  ⟨.TIM_EPOCH, 0x01000018, 0, 1, 0x0, 1, 0x0, 64, 0x0,
    [⟨63, 0, .rwl⟩]⟩,
  ⟨.TIM_RATE, 0x01000020, 0, 1, 0x0, 1, 0x0, 32, 0x0,
    [⟨31, 0, .ro⟩]⟩,
  ⟨.TIM_OFFSET, 0x01000024, 0, 1, 0x0, 1, 0x0, 32, 0x0,
    [⟨31, 0, .ro⟩]⟩,
  ⟨.TIM_LIMITS, 0x01000028, 0, 1, 0x0, 1, 0x0, 32, 0x3E80064,
    [⟨31, 16, .rw⟩, ⟨15, 0, .rw⟩]⟩,
  ⟨.TIM_HOLD, 0x0100002C, 0, 1, 0x0, 1, 0x0, 32, 0x2710,
    [⟨31, 0, .rw⟩]⟩,
  ⟨.TIM_SERVO, 0x01000030, 0, 1, 0x0, 1, 0x0, 32, 0x703,
    [⟨12, 8, .rw⟩, ⟨4, 0, .rw⟩]⟩,
  ⟨.TIM_BMCA, 0x01000034, 0, 1, 0x0, 1, 0x0, 32, 0xF8F8,
    [⟨15, 8, .rwl⟩, ⟨7, 0, .rwl⟩]⟩,
  ⟨.TIM_LOSS_COUNT, 0x01000038, 0, 1, 0x0, 1, 0x0, 32, 0x0,
    [⟨31, 0, .rc⟩]⟩,
  ⟨.TIM_GM_ID, 0x01000040, 0, 1, 0x0, 1, 0x0, 64, 0x0,
    [⟨63, 0, .ro⟩]⟩,
  ⟨.TIM_CMP_TARGET, 0x01001000, 0, 64, 0x20, 1, 0x0, 64, 0x0,
    [⟨63, 0, .rw⟩]⟩,
  ⟨.TIM_CMP_PERIOD, 0x01001008, 0, 64, 0x20, 1, 0x0, 64, 0x0,
    [⟨63, 0, .rw⟩]⟩,
  ⟨.TIM_CMP_CTL, 0x01001010, 0, 64, 0x20, 1, 0x0, 32, 0x0,
    [⟨31, 16, .rw⟩, ⟨3, 1, .rw⟩, ⟨0, 0, .rw⟩]⟩,
  ⟨.TIM_CMP_STAT, 0x01001014, 0, 64, 0x20, 1, 0x0, 32, 0x0,
    [⟨17, 17, .w1c⟩, ⟨16, 16, .w1c⟩, ⟨15, 0, .rc⟩]⟩]

/-- All register maps of the TIM block. -/
def descsTIM : List RegDesc := descsTIM0

/-- Register maps of the LOD block (03). -/
def descsLOD0 : List RegDesc := [
  ⟨.LOD_CTL, 0x02000000, 0, 1, 0x0, 1, 0x0, 32, 0x1,
    [⟨1, 1, .rwl⟩, ⟨0, 0, .rw⟩]⟩,
  ⟨.LOD_STATUS, 0x02000004, 0, 1, 0x0, 1, 0x0, 32, 0x0,
    [⟨3, 3, .w1c⟩, ⟨2, 2, .ro⟩, ⟨1, 1, .ro⟩, ⟨0, 0, .ro⟩]⟩,
  ⟨.LOD_EPOCH, 0x02000008, 0, 1, 0x0, 1, 0x0, 64, 0x1,
    [⟨63, 0, .ro⟩]⟩,
  ⟨.LOD_OPEN_B, 0x02000010, 0, 1, 0x0, 1, 0x0, 64, 0x0,
    [⟨63, 0, .ro⟩]⟩,
  ⟨.LOD_PEND_B, 0x02000018, 0, 1, 0x0, 1, 0x0, 64, 0x0,
    [⟨63, 0, .ro⟩]⟩,
  ⟨.LOD_HORIZON, 0x02000020, 0, 1, 0x0, 1, 0x0, 32, 0x3E80,
    [⟨17, 0, .rw⟩]⟩,
  ⟨.LOD_EGRESS_LEAD, 0x02000024, 0, 1, 0x0, 1, 0x0, 32, 0xFA00,
    [⟨19, 0, .rw⟩]⟩,
  ⟨.LOD_ADVANCE, 0x02000028, 0, 1, 0x0, 1, 0x0, 32, 0x0,
    [⟨0, 0, .wo⟩]⟩,
  ⟨.LOD_COUNTS, 0x02000030, 0, 1, 0x0, 1, 0x0, 64, 0x0,
    [⟨63, 48, .rc⟩, ⟨47, 32, .rc⟩, ⟨31, 16, .rc⟩, ⟨15, 0, .rc⟩]⟩,
  ⟨.LOD_AGE_LIMIT, 0x02000100, 1, 15, 0x8, 1, 0x0, 64, 0x0,
    [⟨63, 0, .rw⟩]⟩,
  ⟨.LOD_CFG_INDEX, 0x02000200, 0, 1, 0x0, 1, 0x0, 32, 0x0,
    [⟨31, 31, .rw⟩, ⟨17, 0, .rw⟩]⟩,
  ⟨.LOD_CFG_DATA, 0x02000204, 0, 1, 0x0, 1, 0x0, 32, 0x0,
    [⟨15, 15, .rw⟩, ⟨13, 13, .rw⟩, ⟨7, 4, .rw⟩, ⟨3, 0, .rw⟩]⟩,
  ⟨.LOD_SWR_INDEX, 0x02000210, 0, 1, 0x0, 1, 0x0, 32, 0x0,
    [⟨17, 0, .rw⟩]⟩,
  ⟨.LOD_SWR_CTL, 0x02000214, 0, 1, 0x0, 1, 0x0, 32, 0x0,
    [⟨31, 16, .rw⟩, ⟨7, 4, .rw⟩, ⟨0, 0, .wo⟩]⟩,
  ⟨.LOD_SWR_VALUE, 0x02000218, 0, 1, 0x0, 1, 0x0, 64, 0x0,
    [⟨63, 0, .rw⟩]⟩,
  ⟨.LOD_FRC_INDEX, 0x02000220, 0, 1, 0x0, 1, 0x0, 32, 0x0,
    [⟨17, 0, .rw⟩]⟩,
  ⟨.LOD_FRC_CTL, 0x02000224, 0, 1, 0x0, 1, 0x0, 32, 0x0,
    [⟨1, 1, .wo⟩, ⟨0, 0, .wo⟩]⟩,
  ⟨.LOD_FRC_VALUE, 0x02000228, 0, 1, 0x0, 1, 0x0, 64, 0x0,
    [⟨63, 0, .rw⟩]⟩,
  ⟨.LOD_FRC_TIME, 0x02000230, 0, 1, 0x0, 1, 0x0, 64, 0x0,
    [⟨63, 0, .rw⟩]⟩,
  ⟨.LOD_WIN_COMMIT, 0x02000300, 0, 1, 0x0, 1, 0x0, 64, 0x0,
    [⟨63, 0, .rw⟩]⟩]

/-- Register maps of the LOD block (03). -/
def descsLOD1 : List RegDesc := [
  ⟨.LOD_WIN_MATCH, 0x02001000, 0, 64, 0x20, 1, 0x0, 32, 0x0,
    [⟨31, 30, .rw⟩, ⟨29, 18, .rw⟩, ⟨17, 17, .rw⟩, ⟨16, 9, .rw⟩, ⟨8, 3, .rw⟩]⟩,
  ⟨.LOD_WIN_RANGE, 0x02001004, 0, 64, 0x20, 1, 0x0, 32, 0x0,
    [⟨31, 16, .rw⟩, ⟨15, 0, .rw⟩]⟩,
  ⟨.LOD_WIN_MAP, 0x02001008, 0, 64, 0x20, 1, 0x0, 32, 0x0,
    [⟨31, 31, .rw⟩, ⟨17, 0, .rw⟩]⟩,
  ⟨.LOD_ANM_MAP, 0x02002000, 0, 64, 0x4, 1, 0x0, 32, 0x0,
    [⟨31, 31, .rw⟩, ⟨17, 0, .rw⟩]⟩,
  ⟨.LOD_WIN_MATCH_A, 0x02001010, 0, 64, 0x20, 1, 0x0, 32, 0x0,
    [⟨31, 30, .ro⟩, ⟨29, 18, .ro⟩, ⟨17, 17, .ro⟩, ⟨16, 9, .ro⟩, ⟨8, 3, .ro⟩]⟩,
  ⟨.LOD_WIN_RANGE_A, 0x02001014, 0, 64, 0x20, 1, 0x0, 32, 0x0,
    [⟨31, 16, .ro⟩, ⟨15, 0, .ro⟩]⟩,
  ⟨.LOD_WIN_MAP_A, 0x02001018, 0, 64, 0x20, 1, 0x0, 32, 0x0,
    [⟨31, 31, .ro⟩, ⟨17, 0, .ro⟩]⟩]

/-- All register maps of the LOD block. -/
def descsLOD : List RegDesc := descsLOD0 ++ descsLOD1

/-- Register maps of the DRT block (04, 05). -/
def descsDRT0 : List RegDesc := [
  ⟨.DRT_CTL, 0x03000000, 0, 1, 0x0, 1, 0x0, 32, 0x0,
    [⟨0, 0, .rwl⟩]⟩,
  ⟨.DRT_STATUS, 0x03000004, 0, 1, 0x0, 1, 0x0, 32, 0x4,
    [⟨3, 3, .w1c⟩, ⟨2, 2, .ro⟩, ⟨1, 1, .ro⟩, ⟨0, 0, .w1c⟩]⟩,
  ⟨.DRT_REGION_BASE, 0x03000008, 0, 1, 0x0, 1, 0x0, 64, 0x0,
    [⟨47, 20, .rwl⟩, ⟨4, 0, .rwl⟩]⟩,
  ⟨.DRT_TABLES, 0x03000010, 0, 1, 0x0, 1, 0x0, 32, 0x0,
    [⟨29, 17, .rwl⟩, ⟨16, 0, .rwl⟩]⟩,
  ⟨.DRT_CMD, 0x03000020, 0, 1, 0x0, 1, 0x0, 64, 0x0,
    [⟨47, 32, .rw⟩, ⟨31, 16, .rw⟩, ⟨4, 4, .rw⟩, ⟨3, 1, .rw⟩, ⟨0, 0, .wo⟩]⟩,
  ⟨.DRT_CMD_STATUS, 0x03000028, 0, 1, 0x0, 1, 0x0, 32, 0x0,
    [⟨31, 31, .ro⟩, ⟨7, 0, .ro⟩]⟩,
  ⟨.DRT_RELEASE, 0x03000030, 0, 1, 0x0, 1, 0x0, 32, 0x0,
    [⟨15, 0, .wo⟩]⟩,
  ⟨.DRT_QUERY_INDEX, 0x03000038, 0, 1, 0x0, 1, 0x0, 32, 0x0,
    [⟨15, 0, .rw⟩]⟩,
  ⟨.DRT_QUERY, 0x03000040, 0, 1, 0x0, 1, 0x0, 64, 0x0,
    [⟨31, 16, .ro⟩, ⟨5, 3, .ro⟩, ⟨2, 0, .ro⟩]⟩,
  ⟨.DRT_QUERY_NEXT, 0x03000048, 0, 1, 0x0, 1, 0x0, 64, 0x0,
    [⟨63, 0, .ro⟩]⟩,
  ⟨.DRT_EVT_COUNTS, 0x03000050, 0, 1, 0x0, 1, 0x0, 64, 0x0,
    [⟨63, 52, .rc⟩, ⟨51, 40, .rc⟩, ⟨39, 28, .rc⟩, ⟨27, 16, .rc⟩, ⟨15, 0, .rc⟩]⟩,
  ⟨.DRT_DSP_CTL, 0x03000100, 0, 1, 0x0, 1, 0x0, 32, 0x206,
    [⟨11, 8, .rw⟩, ⟨2, 2, .rw⟩, ⟨1, 1, .rw⟩]⟩,
  ⟨.DRT_DSP_STATUS, 0x03000104, 0, 1, 0x0, 1, 0x0, 32, 0x0,
    [⟨2, 2, .ro⟩, ⟨1, 1, .w1c⟩, ⟨0, 0, .w1c⟩]⟩,
  ⟨.DRT_GAL_POOL, 0x03000108, 0, 1, 0x0, 1, 0x0, 64, 0xFFFFFFFFFFFFFFFF,
    [⟨63, 0, .rw⟩]⟩,
  ⟨.DRT_GAL_EXPORT, 0x03000110, 0, 1, 0x0, 1, 0x0, 64, 0xFFFFFFFFFFFFFFFF,
    [⟨63, 0, .rw⟩]⟩,
  ⟨.DRT_GAL_IMPORT, 0x03000118, 0, 1, 0x0, 1, 0x0, 64, 0xFFFFFFFFFFFFFFFF,
    [⟨63, 0, .rw⟩]⟩,
  ⟨.DRT_PCLASS_LVL, 0x03000120, 0, 1, 0x0, 1, 0x0, 32, 0x9ABC,
    [⟨15, 12, .rw⟩, ⟨11, 8, .rw⟩, ⟨7, 4, .rw⟩, ⟨3, 0, .rw⟩]⟩,
  ⟨.DRT_DSP_COUNTS, 0x03000128, 0, 1, 0x0, 1, 0x0, 64, 0x0,
    [⟨63, 48, .rc⟩, ⟨47, 32, .rc⟩, ⟨31, 16, .rc⟩, ⟨15, 0, .rc⟩]⟩,
  ⟨.DRT_SAVE_BASE, 0x03000130, 0, 1, 0x0, 1, 0x0, 64, 0x0,
    [⟨47, 20, .rwl⟩]⟩,
  ⟨.DRT_HWR_POOL, 0x03000200, 0, 8, 0x8, 1, 0x0, 64, 0xFFFFFFFFFFFFFFFF,
    [⟨63, 0, .rw⟩]⟩]

/-- Register maps of the DRT block (05). -/
def descsDRT1 : List RegDesc := [
  ⟨.DRT_GAL_STATUS, 0x03001000, 0, 64, 0x8, 1, 0x0, 64, 0xFF08000000,
    [⟨47, 40, .ro⟩, ⟨39, 32, .ro⟩, ⟨27, 16, .ro⟩, ⟨8, 0, .ro⟩]⟩]

/-- All register maps of the DRT block. -/
def descsDRT : List RegDesc := descsDRT0 ++ descsDRT1

/-- Register maps of the HWR block (06, 11). -/
def descsHWR0 : List RegDesc := [
  ⟨.HWR_IOGRANT, 0x04000100, 0, 512, 0x1000, 16, 0x8, 64, 0x0,
    [⟨63, 32, .rw⟩, ⟨20, 16, .rw⟩, ⟨2, 2, .rw⟩, ⟨1, 1, .rw⟩, ⟨0, 0, .rw⟩]⟩,
  ⟨.HWR_IPEND, 0x04000000, 0, 512, 0x1000, 1, 0x0, 32, 0x0,
    [⟨7, 7, .ro⟩, ⟨6, 0, .ro⟩]⟩,
  ⟨.HWR_IENA, 0x04000008, 0, 512, 0x1000, 1, 0x0, 32, 0x1000,
    [⟨14, 8, .rw⟩, ⟨6, 0, .rw⟩]⟩,
  ⟨.HWR_ILVL, 0x04000010, 0, 512, 0x1000, 1, 0x0, 32, 0x12F4E,
    [⟨19, 16, .rw⟩, ⟨15, 12, .rw⟩, ⟨11, 8, .rw⟩, ⟨7, 4, .rw⟩, ⟨3, 0, .rw⟩]⟩,
  ⟨.HWR_PTC_PEND, 0x04000018, 0, 512, 0x1000, 1, 0x0, 32, 0x0,
    [⟨15, 0, .w1c⟩]⟩,
  ⟨.HWR_IHI_SET, 0x04000020, 0, 512, 0x1000, 1, 0x0, 32, 0x0,
    [⟨3, 0, .wo⟩]⟩,
  ⟨.HWR_IHI_PEND, 0x04000024, 0, 512, 0x1000, 1, 0x0, 32, 0x0,
    [⟨15, 0, .w1c⟩]⟩,
  ⟨.HWR_XROUTE, 0x04000030, 0, 512, 0x1000, 1, 0x0, 32, 0x1010000,
    [⟨31, 0, .rw⟩]⟩]

/-- All register maps of the HWR block. -/
def descsHWR : List RegDesc := descsHWR0

/-- Register maps of the CFG block (09, 20). -/
def descsCFG0 : List RegDesc := [
  ⟨.CFG_CDT_INDEX, 0x00008000, 0, 1, 0x0, 1, 0x0, 32, 0x0,
    [⟨31, 31, .rw⟩, ⟨11, 0, .rw⟩]⟩,
  ⟨.CFG_CDT_STATUS, 0x00008004, 0, 1, 0x0, 1, 0x0, 32, 0x0,
    [⟨31, 16, .ro⟩, ⟨1, 1, .w1c⟩, ⟨0, 0, .ro⟩]⟩,
  ⟨.CFG_CDT_WORD, 0x00008008, 0, 1, 0x0, 1, 0x0, 64, 0x0,
    [⟨63, 0, .rw⟩]⟩,
  ⟨.CFG_CDT_ENTRY, 0x00008100, 0, 64, 0x8, 1, 0x0, 64, 0x0,
    [⟨63, 63, .rw⟩, ⟨62, 62, .rw⟩, ⟨61, 60, .rw⟩, ⟨59, 58, .rw⟩, ⟨57, 56, .rw⟩, ⟨55, 55, .rw⟩, ⟨23, 12, .rw⟩, ⟨11, 0, .rw⟩]⟩,
  ⟨.CFG_ID, 0x00000000, 0, 1, 0x0, 1, 0x0, 64, 0x5120A10000000000,
    [⟨63, 48, .ro⟩, ⟨47, 40, .ro⟩, ⟨35, 32, .ro⟩, ⟨11, 0, .ro⟩]⟩,
  ⟨.CFG_MODE, 0x00000008, 0, 1, 0x0, 1, 0x0, 32, 0x1,
    [⟨31, 31, .w1c⟩, ⟨30, 30, .ro⟩, ⟨7, 7, .wo⟩, ⟨6, 4, .rw⟩, ⟨2, 0, .ro⟩]⟩,
  ⟨.CFG_BOOT_STATUS, 0x0000000C, 0, 1, 0x0, 1, 0x0, 32, 0x0,
    [⟨31, 31, .ro⟩, ⟨30, 30, .ro⟩, ⟨23, 16, .ro⟩, ⟨15, 8, .ro⟩, ⟨3, 0, .ro⟩]⟩,
  ⟨.CFG_BOOT_ENTRY, 0x00000010, 0, 1, 0x0, 1, 0x0, 64, 0x0,
    [⟨47, 2, .ro⟩]⟩,
  ⟨.CFG_RECOV_ENTRY, 0x00000018, 0, 1, 0x0, 1, 0x0, 64, 0x0,
    [⟨47, 2, .rw⟩]⟩,
  ⟨.CFG_IMAGE, 0x00000020, 0, 1, 0x0, 1, 0x0, 64, 0x0,
    [⟨63, 32, .ro⟩, ⟨31, 0, .ro⟩]⟩,
  ⟨.CFG_ST_RESULT, 0x00000028, 0, 1, 0x0, 1, 0x0, 64, 0x0,
    [⟨63, 63, .ro⟩, ⟨62, 62, .ro⟩, ⟨51, 42, .ro⟩, ⟨41, 32, .ro⟩, ⟨31, 0, .ro⟩]⟩,
  ⟨.CFG_ROOTKEY_HASH, 0x00000200, 0, 6, 0x8, 1, 0x0, 64, 0x0,
    [⟨63, 0, .ro⟩]⟩,
  ⟨.CFG_XSPI_CTL, 0x00000300, 0, 1, 0x0, 1, 0x0, 32, 0x0,
    [⟨31, 31, .ro⟩, ⟨30, 30, .w1c⟩, ⟨3, 1, .rw⟩, ⟨0, 0, .wo⟩]⟩,
  ⟨.CFG_XSPI_ADDR, 0x00000308, 0, 1, 0x0, 1, 0x0, 32, 0x0,
    [⟨31, 0, .rw⟩]⟩,
  ⟨.CFG_XSPI_INFO, 0x00000310, 0, 1, 0x0, 1, 0x0, 32, 0x0,
    [⟨31, 24, .ro⟩, ⟨15, 0, .ro⟩]⟩,
  ⟨.CFG_XSPI_DATA, 0x00000400, 0, 32, 0x8, 1, 0x0, 64, 0x0,
    [⟨63, 0, .rw⟩]⟩]

/-- All register maps of the CFG block. -/
def descsCFG : List RegDesc := descsCFG0

/-- Register maps of the CAN block (11). -/
def descsCAN0 : List RegDesc := [
  ⟨.CAN_GRACE, 0x10000000, 0, 1, 0x0, 1, 0x0, 32, 0x3E8,
    [⟨23, 0, .rw⟩]⟩,
  ⟨.CAN_DEV_CTL, 0x10000010, 0, 1, 0x0, 1, 0x0, 32, 0x0,
    [⟨31, 31, .rwl⟩, ⟨23, 0, .rwl⟩]⟩,
  ⟨.CAN_DEV_KICK, 0x10000014, 0, 1, 0x0, 1, 0x0, 32, 0x0,
    [⟨15, 0, .wo⟩]⟩,
  ⟨.CAN_DEV_STAT, 0x10000018, 0, 1, 0x0, 1, 0x0, 32, 0x0,
    [⟨31, 31, .w1c⟩, ⟨30, 30, .ro⟩, ⟨29, 29, .w1c⟩, ⟨28, 28, .w1c⟩, ⟨23, 0, .ro⟩]⟩,
  ⟨.CAN_HWR_CTL, 0x10001000, 0, 512, 0x10, 1, 0x0, 32, 0x0,
    [⟨31, 31, .rw⟩, ⟨23, 0, .rw⟩]⟩,
  ⟨.CAN_HWR_KICK, 0x10001004, 0, 512, 0x10, 1, 0x0, 32, 0x0,
    [⟨0, 0, .wo⟩]⟩,
  ⟨.CAN_HWR_STAT, 0x10001008, 0, 512, 0x10, 1, 0x0, 32, 0x0,
    [⟨31, 31, .w1c⟩, ⟨30, 30, .ro⟩, ⟨29, 29, .w1c⟩, ⟨28, 28, .w1c⟩, ⟨23, 0, .ro⟩]⟩]

/-- All register maps of the CAN block. -/
def descsCAN : List RegDesc := descsCAN0

/-- Register maps of the MEM block (12, 13). -/
def descsMEM0 : List RegDesc := [
  ⟨.MEM_L2_ALLOC, 0x0600F000, 0, 8, 0x4, 1, 0x0, 32, 0xFFF0,
    [⟨15, 4, .rw⟩]⟩,
  ⟨.MEM_L2_LOCK, 0x0600F020, 0, 1, 0x0, 1, 0x0, 32, 0x0,
    [⟨15, 4, .rw⟩]⟩,
  ⟨.MEM_L2_PLD_ADDR, 0x0600F028, 0, 1, 0x0, 1, 0x0, 64, 0x0,
    [⟨47, 6, .rw⟩]⟩,
  ⟨.MEM_L2_PLD_GAL, 0x0600F030, 0, 1, 0x0, 1, 0x0, 64, 0x0,
    [⟨63, 0, .rw⟩]⟩,
  ⟨.MEM_L2_PLD_CTL, 0x0600F038, 0, 1, 0x0, 1, 0x0, 32, 0x0,
    [⟨31, 16, .rw⟩, ⟨11, 8, .rw⟩, ⟨0, 0, .wo⟩]⟩,
  ⟨.MEM_L2_PLD_STAT, 0x0600F03C, 0, 1, 0x0, 1, 0x0, 32, 0x0,
    [⟨1, 1, .w1c⟩, ⟨0, 0, .ro⟩]⟩,
  ⟨.MEM_CODE_COUNTS, 0x0600F040, 0, 1, 0x0, 1, 0x0, 64, 0x0,
    [⟨63, 32, .rc⟩, ⟨31, 16, .rc⟩, ⟨15, 0, .rc⟩]⟩,
  ⟨.MEM_CTL, 0x06000000, 0, 1, 0x0, 1, 0x0, 32, 0x800311,
    [⟨23, 16, .rw⟩, ⟨11, 8, .rwl⟩, ⟨4, 4, .rwl⟩, ⟨0, 0, .rw⟩]⟩,
  ⟨.MEM_SCHED, 0x06000004, 0, 1, 0x0, 1, 0x0, 32, 0x8200,
    [⟨15, 12, .rw⟩, ⟨9, 0, .rw⟩]⟩,
  ⟨.MEM_STATUS, 0x06000008, 0, 1, 0x0, 1, 0x0, 32, 0x0,
    [⟨3, 3, .w1c⟩, ⟨2, 2, .ro⟩, ⟨1, 1, .ro⟩]⟩,
  ⟨.MEM_TRN_CTL, 0x0600000C, 0, 1, 0x0, 1, 0x0, 32, 0x80000040,
    [⟨31, 31, .rw⟩, ⟨15, 0, .rw⟩]⟩,
  ⟨.MEM_FDP_CTL, 0x06000010, 0, 1, 0x0, 1, 0x0, 32, 0x88000010,
    [⟨31, 31, .rwl⟩, ⟨29, 16, .rwl⟩, ⟨9, 0, .rw⟩]⟩,
  ⟨.MEM_FDP_COUNTS, 0x06000018, 0, 1, 0x0, 1, 0x0, 64, 0x0,
    [⟨63, 32, .rc⟩, ⟨31, 16, .rc⟩, ⟨15, 0, .rc⟩]⟩,
  ⟨.MEM_UE_LOG, 0x06000020, 0, 1, 0x0, 1, 0x0, 64, 0x0,
    [⟨63, 63, .w1c⟩, ⟨62, 62, .ro⟩, ⟨60, 56, .ro⟩, ⟨55, 52, .ro⟩, ⟨51, 34, .ro⟩, ⟨33, 29, .ro⟩, ⟨28, 28, .ro⟩, ⟨27, 16, .ro⟩, ⟨15, 0, .ro⟩]⟩,
  ⟨.MEM_CE_LOG, 0x06000028, 0, 1, 0x0, 1, 0x0, 64, 0x0,
    [⟨63, 63, .w1c⟩, ⟨62, 62, .ro⟩, ⟨60, 56, .ro⟩, ⟨55, 52, .ro⟩, ⟨51, 34, .ro⟩, ⟨33, 29, .ro⟩, ⟨28, 28, .ro⟩, ⟨27, 16, .ro⟩, ⟨15, 0, .ro⟩]⟩,
  ⟨.MEM_CH_STATUS, 0x06010000, 0, 32, 0x100, 1, 0x0, 32, 0x20,
    [⟨31, 31, .ro⟩, ⟨30, 30, .ro⟩, ⟨15, 15, .ro⟩, ⟨14, 8, .ro⟩, ⟨6, 4, .ro⟩, ⟨3, 0, .ro⟩]⟩,
  ⟨.MEM_CH_PP_FORCE, 0x06010004, 0, 32, 0x100, 1, 0x0, 32, 0x0,
    [⟨31, 0, .rw⟩]⟩,
  ⟨.MEM_CH_ERR_COUNTS, 0x06010008, 0, 32, 0x100, 1, 0x0, 64, 0x0,
    [⟨63, 32, .rc⟩, ⟨31, 16, .rc⟩, ⟨15, 0, .rc⟩]⟩,
  ⟨.MEM_CH_FDP_LOG, 0x06010010, 0, 32, 0x100, 1, 0x0, 64, 0x0,
    [⟨63, 63, .w1c⟩, ⟨51, 48, .ro⟩, ⟨47, 30, .ro⟩, ⟨29, 18, .ro⟩, ⟨13, 0, .ro⟩]⟩,
  ⟨.MEM_CH_TRAIN, 0x06010018, 0, 32, 0x100, 1, 0x0, 64, 0x0,
    [⟨55, 48, .ro⟩, ⟨47, 40, .ro⟩, ⟨39, 32, .ro⟩, ⟨31, 16, .ro⟩, ⟨15, 0, .ro⟩]⟩]

/-- All register maps of the MEM block. -/
def descsMEM : List RegDesc := descsMEM0

/-- Register maps of the SKP block (14). -/
def descsSKP0 : List RegDesc := [
  ⟨.SKP_ACTIVE, 0x07000000, 0, 1, 0x0, 1, 0x0, 64, 0x0,
    [⟨63, 0, .ro⟩]⟩,
  ⟨.SKP_COUNTS, 0x07000008, 0, 1, 0x0, 1, 0x0, 64, 0x0,
    [⟨63, 32, .rc⟩, ⟨31, 16, .rc⟩, ⟨15, 0, .rc⟩]⟩,
  ⟨.SKP_CH_CTL, 0x07001000, 0, 64, 0x100, 1, 0x0, 32, 0x1000030,
    [⟨24, 16, .rw⟩, ⟨13, 8, .rw⟩, ⟨6, 4, .rw⟩, ⟨0, 0, .rw⟩]⟩,
  ⟨.SKP_CH_STAT, 0x07001004, 0, 64, 0x100, 1, 0x0, 32, 0x0,
    [⟨31, 24, .ro⟩, ⟨15, 8, .ro⟩, ⟨4, 4, .w1c⟩, ⟨3, 3, .w1c⟩, ⟨1, 0, .ro⟩]⟩,
  ⟨.SKP_CH_HANDOVER_COUNT, 0x07001008, 0, 64, 0x100, 1, 0x0, 32, 0x0,
    [⟨31, 0, .ro⟩]⟩,
  ⟨.SKP_CH_SHADOW_VALID, 0x0700100C, 0, 64, 0x100, 1, 0x0, 32, 0x0,
    [⟨0, 0, .rw⟩]⟩,
  ⟨.SKP_CH_REM, 0x07001010, 0, 64, 0x100, 1, 0x0, 64, 0x0,
    [⟨47, 32, .ro⟩, ⟨23, 0, .ro⟩]⟩,
  ⟨.SKP_CH_BURST, 0x07001018, 0, 64, 0x100, 1, 0x0, 32, 0x1000,
    [⟨16, 0, .rw⟩]⟩,
  ⟨.SKP_CH_ERR_ADDR, 0x07001020, 0, 64, 0x100, 1, 0x0, 64, 0x0,
    [⟨47, 0, .ro⟩]⟩,
  ⟨.SKP_CH_S_SRC, 0x07001040, 0, 64, 0x100, 1, 0x0, 64, 0x0,
    [⟨47, 0, .rw⟩]⟩,
  ⟨.SKP_CH_S_DST, 0x07001048, 0, 64, 0x100, 1, 0x0, 64, 0x0,
    [⟨47, 0, .rw⟩]⟩,
  ⟨.SKP_CH_S_SIZE, 0x07001050, 0, 64, 0x100, 1, 0x0, 64, 0x0,
    [⟨47, 32, .rw⟩, ⟨23, 0, .rw⟩]⟩,
  ⟨.SKP_CH_S_STRIDE, 0x07001058, 0, 64, 0x100, 1, 0x0, 64, 0x0,
    [⟨63, 32, .rw⟩, ⟨31, 0, .rw⟩]⟩,
  ⟨.SKP_CH_S_CPL, 0x07001060, 0, 64, 0x100, 1, 0x0, 64, 0x0,
    [⟨47, 5, .rw⟩]⟩,
  ⟨.SKP_CH_S_OPT, 0x07001068, 0, 64, 0x100, 1, 0x0, 64, 0x0,
    [⟨47, 32, .rw⟩, ⟨15, 8, .rw⟩, ⟨2, 2, .rw⟩, ⟨1, 1, .rw⟩, ⟨0, 0, .rw⟩]⟩,
  ⟨.SKP_CH_A_SRC, 0x07001080, 0, 64, 0x100, 1, 0x0, 64, 0x0,
    [⟨47, 0, .ro⟩]⟩,
  ⟨.SKP_CH_A_DST, 0x07001088, 0, 64, 0x100, 1, 0x0, 64, 0x0,
    [⟨47, 0, .ro⟩]⟩,
  ⟨.SKP_CH_A_SIZE, 0x07001090, 0, 64, 0x100, 1, 0x0, 64, 0x0,
    [⟨47, 32, .ro⟩, ⟨23, 0, .ro⟩]⟩,
  ⟨.SKP_CH_A_STRIDE, 0x07001098, 0, 64, 0x100, 1, 0x0, 64, 0x0,
    [⟨63, 32, .ro⟩, ⟨31, 0, .ro⟩]⟩,
  ⟨.SKP_CH_A_CPL, 0x070010A0, 0, 64, 0x100, 1, 0x0, 64, 0x0,
    [⟨47, 5, .ro⟩]⟩]

/-- Register maps of the SKP block (14). -/
def descsSKP1 : List RegDesc := [
  ⟨.SKP_CH_A_OPT, 0x070010A8, 0, 64, 0x100, 1, 0x0, 64, 0x0,
    [⟨47, 32, .ro⟩, ⟨15, 8, .ro⟩, ⟨2, 2, .ro⟩, ⟨1, 1, .ro⟩, ⟨0, 0, .ro⟩]⟩]

/-- All register maps of the SKP block. -/
def descsSKP : List RegDesc := descsSKP0 ++ descsSKP1

/-- Register maps of the PLK block (15). -/
def descsPLK0 : List RegDesc := [
  ⟨.PLK_CTL, 0x08000000, 0, 1, 0x0, 1, 0x0, 32, 0x88B50000,
    [⟨31, 16, .rwl⟩]⟩,
  ⟨.PLK_PARTNER, 0x08000004, 0, 1, 0x0, 1, 0x0, 32, 0x300FA,
    [⟨31, 24, .rwl⟩, ⟨19, 16, .rw⟩, ⟨15, 0, .rw⟩]⟩,
  ⟨.PLK_PARTNER_STAT, 0x08000008, 0, 1, 0x0, 1, 0x0, 32, 0x0,
    [⟨31, 31, .w1c⟩, ⟨30, 30, .ro⟩, ⟨29, 27, .ro⟩, ⟨15, 0, .rc⟩]⟩,
  ⟨.PLK_EGR_INDEX, 0x08000010, 0, 1, 0x0, 1, 0x0, 32, 0x0,
    [⟨12, 0, .rw⟩]⟩,
  ⟨.PLK_EGR_DATA, 0x08000018, 0, 4, 0x8, 1, 0x0, 64, 0x0,
    [⟨63, 0, .rw⟩]⟩,
  ⟨.PLK_MGMT_RX, 0x08000040, 0, 1, 0x0, 1, 0x0, 64, 0x0,
    [⟨47, 12, .rw⟩, ⟨3, 0, .rw⟩]⟩,
  ⟨.PLK_MGMT_TX, 0x08000050, 0, 1, 0x0, 1, 0x0, 64, 0x0,
    [⟨47, 12, .rw⟩, ⟨3, 0, .rw⟩]⟩,
  ⟨.PLK_MGMT_RX_PTR, 0x08000048, 0, 1, 0x0, 1, 0x0, 32, 0x0,
    [⟨31, 16, .rw⟩, ⟨15, 0, .ro⟩]⟩,
  ⟨.PLK_MGMT_TX_PTR, 0x08000058, 0, 1, 0x0, 1, 0x0, 32, 0x0,
    [⟨31, 16, .rw⟩, ⟨15, 0, .ro⟩]⟩,
  ⟨.PLK_WIN_LAST, 0x08002000, 0, 64, 0x8, 1, 0x0, 64, 0x0,
    [⟨63, 0, .ro⟩]⟩,
  ⟨.PLK_PORT_CTL, 0x08010000, 0, 8, 0x1000, 1, 0x0, 32, 0x8000000,
    [⟨31, 31, .rw⟩, ⟨29, 28, .rwl⟩, ⟨27, 26, .rwl⟩, ⟨25, 25, .rwl⟩, ⟨24, 24, .rwl⟩, ⟨23, 23, .rw⟩, ⟨22, 22, .rw⟩, ⟨21, 19, .rw⟩]⟩,
  ⟨.PLK_PORT_STATUS, 0x08010004, 0, 8, 0x1000, 1, 0x0, 32, 0x0,
    [⟨31, 31, .ro⟩, ⟨30, 30, .w1c⟩, ⟨29, 29, .ro⟩, ⟨28, 28, .w1c⟩]⟩,
  ⟨.PLK_PORT_MAC, 0x08010008, 0, 8, 0x1000, 1, 0x0, 64, 0x0,
    [⟨47, 0, .rwl⟩]⟩,
  ⟨.PLK_PORT_GCL_BASE, 0x08010010, 0, 8, 0x1000, 1, 0x0, 64, 0x0,
    [⟨63, 0, .rw⟩]⟩,
  ⟨.PLK_PORT_GCL_CYCLE, 0x08010018, 0, 8, 0x1000, 1, 0x0, 32, 0x0,
    [⟨31, 0, .rw⟩]⟩,
  ⟨.PLK_PORT_GCL_CTL, 0x0801001C, 0, 8, 0x1000, 1, 0x0, 32, 0x0,
    [⟨31, 31, .wo⟩, ⟨8, 0, .rw⟩]⟩,
  ⟨.PLK_PORT_COUNTS, 0x08010020, 0, 8, 0x1000, 1, 0x0, 64, 0x0,
    [⟨63, 48, .rc⟩, ⟨47, 32, .rc⟩, ⟨31, 16, .rc⟩, ⟨15, 0, .rc⟩]⟩,
  ⟨.PLK_PORT_GCL, 0x08010800, 0, 8, 0x1000, 256, 0x8, 64, 0x0,
    [⟨35, 32, .rw⟩, ⟨23, 0, .rw⟩]⟩]

/-- All register maps of the PLK block. -/
def descsPLK : List RegDesc := descsPLK0

/-- Register maps of the HEP block (16, 21). -/
def descsHEP0 : List RegDesc := [
  ⟨.HEP_CTL, 0x09000000, 0, 1, 0x0, 1, 0x0, 32, 0xC,
    [⟨4, 0, .rw⟩]⟩,
  ⟨.HEP_STATUS, 0x09000004, 0, 1, 0x0, 1, 0x0, 32, 0x0,
    [⟨31, 31, .ro⟩, ⟨30, 28, .ro⟩, ⟨27, 24, .ro⟩, ⟨0, 0, .w1c⟩]⟩,
  ⟨.HEP_ID, 0x09000008, 0, 1, 0x0, 1, 0x0, 32, 0x0,
    [⟨31, 16, .ro⟩, ⟨15, 0, .ro⟩]⟩,
  ⟨.HEP_BAR2, 0x09000010, 0, 1, 0x0, 1, 0x0, 64, 0x0,
    [⟨63, 63, .rw⟩, ⟨47, 20, .rw⟩]⟩,
  ⟨.HEP_FREEZE, 0x09000018, 0, 1, 0x0, 1, 0x0, 64, 0x0,
    [⟨63, 0, .ro⟩]⟩,
  ⟨.HEP_FREEZE_RELEASE, 0x09000020, 0, 1, 0x0, 1, 0x0, 64, 0x0,
    [⟨63, 0, .wo⟩]⟩,
  ⟨.HEP_COUNTS, 0x09000028, 0, 1, 0x0, 1, 0x0, 64, 0x0,
    [⟨63, 48, .rc⟩, ⟨47, 32, .rc⟩, ⟨31, 24, .rc⟩, ⟨23, 12, .rc⟩, ⟨11, 0, .rc⟩]⟩,
  ⟨.HEP_ERR_LOG_DW0, 0x09001000, 0, 64, 0x20, 1, 0x0, 64, 0x0,
    [⟨63, 63, .w1c⟩, ⟨23, 8, .ro⟩, ⟨7, 0, .ro⟩]⟩,
  ⟨.HEP_ERR_LOG_DW1, 0x09001008, 0, 64, 0x20, 1, 0x0, 64, 0x0,
    [⟨63, 0, .ro⟩]⟩,
  ⟨.HEP_ERR_LOG_DW2, 0x09001010, 0, 64, 0x20, 1, 0x0, 64, 0x0,
    [⟨63, 0, .ro⟩]⟩,
  ⟨.HEP_ERR_LOG_DW3, 0x09001018, 0, 64, 0x20, 1, 0x0, 64, 0x0,
    [⟨63, 0, .ro⟩]⟩,
  ⟨.HEP_OSEG, 0x09010000, 0, 64, 0x200, 64, 0x8, 64, 0x0,
    [⟨63, 12, .rw⟩, ⟨1, 1, .rw⟩, ⟨0, 0, .rw⟩]⟩,
  ⟨.HEP_SCS_ARG, 0x09002000, 0, 1, 0x0, 1, 0x0, 64, 0x0,
    [⟨63, 0, .rw⟩]⟩,
  ⟨.HEP_SCS_RES, 0x09002010, 0, 1, 0x0, 1, 0x0, 64, 0x0,
    [⟨63, 0, .ro⟩]⟩,
  ⟨.HEP_SCS_CMD, 0x09002008, 0, 1, 0x0, 1, 0x0, 32, 0x0,
    [⟨31, 31, .ro⟩, ⟨23, 16, .ro⟩, ⟨11, 8, .rw⟩, ⟨7, 4, .rw⟩, ⟨0, 0, .wo⟩]⟩,
  ⟨.HEP_MSIX_TABLE, 0x09F00000, 0, 256, 0x10, 3, 0x4, 32, 0x0,
    [⟨31, 0, .rw⟩]⟩,
  ⟨.HEP_MSIX_CTL, 0x09F0000C, 0, 256, 0x10, 1, 0x0, 32, 0x1,
    [⟨0, 0, .rw⟩]⟩,
  ⟨.HEP_MSIX_PBA, 0x09F01000, 0, 4, 0x8, 1, 0x0, 64, 0x0,
    [⟨63, 0, .ro⟩]⟩]

/-- All register maps of the HEP block. -/
def descsHEP : List RegDesc := descsHEP0

/-- Register maps of the ADT block (17). -/
def descsADT0 : List RegDesc := [
  ⟨.ADT_POOL, 0x0A000000, 0, 1, 0x0, 1, 0x0, 64, 0x0,
    [⟨63, 63, .rwl⟩, ⟨62, 62, .w1c⟩, ⟨47, 26, .rwl⟩]⟩,
  ⟨.ADT_MBX_PEND, 0x0A000008, 0, 1, 0x0, 1, 0x0, 64, 0x0,
    [⟨63, 1, .ro⟩]⟩,
  ⟨.ADT_CMD_BUSY, 0x0A000010, 0, 1, 0x0, 1, 0x0, 64, 0x0,
    [⟨63, 1, .ro⟩]⟩,
  ⟨.ADT_QUIESCE, 0x0A000018, 0, 1, 0x0, 1, 0x0, 64, 0x0,
    [⟨63, 1, .rw⟩]⟩,
  ⟨.ADT_MGR_CTL, 0x0A000020, 0, 1, 0x0, 1, 0x0, 32, 0x0,
    [⟨8, 8, .rw⟩, ⟨7, 0, .rw⟩]⟩,
  ⟨.ADT_CMD, 0x0A000028, 0, 1, 0x0, 1, 0x0, 32, 0x0,
    [⟨31, 31, .ro⟩, ⟨23, 16, .ro⟩, ⟨13, 8, .rw⟩, ⟨2, 1, .rw⟩, ⟨0, 0, .wo⟩]⟩,
  ⟨.ADT_ASGN_RES, 0x0A001000, 1, 63, 0x100, 1, 0x0, 64, 0x0,
    [⟨63, 54, .rw⟩, ⟨53, 45, .rw⟩, ⟨44, 33, .rw⟩, ⟨32, 24, .rw⟩, ⟨18, 9, .rw⟩, ⟨8, 0, .rw⟩]⟩,
  ⟨.ADT_ASGN_RANGE, 0x0A001080, 1, 63, 0x100, 16, 0x8, 64, 0x0,
    [⟨63, 63, .rw⟩, ⟨62, 62, .rw⟩, ⟨49, 32, .rw⟩, ⟨18, 0, .rw⟩]⟩,
  ⟨.ADT_MBX_TOMGR, 0x0A000000, 1, 63, 0x10000, 8, 0x8, 64, 0x0,
    [⟨63, 0, .rw⟩]⟩,
  ⟨.ADT_MBX_TOVF, 0x0A000040, 1, 63, 0x10000, 8, 0x8, 64, 0x0,
    [⟨63, 0, .rw⟩]⟩,
  ⟨.ADT_MBX_CTL, 0x0A000080, 1, 63, 0x10000, 1, 0x0, 32, 0x0,
    [⟨16, 16, .w1c⟩, ⟨9, 9, .ro⟩, ⟨8, 8, .ro⟩, ⟨3, 3, .wo⟩, ⟨2, 2, .wo⟩, ⟨1, 1, .wo⟩, ⟨0, 0, .wo⟩]⟩,
  ⟨.ADT_STATUS, 0x0A000088, 1, 63, 0x10000, 1, 0x0, 32, 0x0,
    [⟨31, 24, .ro⟩, ⟨3, 3, .w1c⟩, ⟨2, 2, .ro⟩, ⟨1, 1, .ro⟩, ⟨0, 0, .ro⟩]⟩,
  ⟨.ADT_CMD_CREDIT, 0x0A000090, 1, 63, 0x10000, 1, 0x0, 32, 0x0,
    [⟨27, 16, .ro⟩, ⟨11, 0, .ro⟩]⟩,
  ⟨.ADT_COUNTS, 0x0A000098, 1, 63, 0x10000, 1, 0x0, 64, 0x0,
    [⟨63, 48, .rc⟩, ⟨47, 32, .rc⟩, ⟨31, 16, .rc⟩, ⟨15, 0, .rc⟩]⟩,
  ⟨.ADT_Q_CFG, 0x0A001000, 1, 63, 0x10000, 256, 0x20, 64, 0x0,
    [⟨63, 63, .rw⟩, ⟨62, 61, .rw⟩, ⟨59, 56, .rw⟩, ⟨55, 40, .rw⟩, ⟨39, 29, .rw⟩, ⟨17, 0, .rw⟩]⟩,
  ⟨.ADT_Q_RING, 0x0A001008, 1, 63, 0x10000, 256, 0x20, 64, 0x0,
    [⟨47, 32, .rw⟩, ⟨12, 0, .rw⟩]⟩,
  ⟨.ADT_Q_PTR, 0x0A001010, 1, 63, 0x10000, 256, 0x20, 64, 0x0,
    [⟨47, 32, .ro⟩, ⟨15, 0, .rw⟩]⟩,
  ⟨.ADT_Q_CTL, 0x0A001018, 1, 63, 0x10000, 256, 0x20, 64, 0x0,
    [⟨31, 16, .rc⟩, ⟨2, 2, .w1c⟩, ⟨1, 1, .w1c⟩, ⟨0, 0, .wo⟩]⟩]

/-- All register maps of the ADT block. -/
def descsADT : List RegDesc := descsADT0

/-- Register maps of the ANM block (18). -/
def descsANM0 : List RegDesc := [
  ⟨.ANM_CTL, 0x0B000000, 0, 1, 0x0, 1, 0x0, 32, 0x10000,
    [⟨25, 16, .rwl⟩]⟩,
  ⟨.ANM_STATUS, 0x0B000004, 0, 1, 0x0, 1, 0x0, 32, 0x0,
    [⟨1, 1, .w1c⟩, ⟨0, 0, .ro⟩]⟩,
  ⟨.ANM_AIN_PHASE, 0x0B000008, 0, 1, 0x0, 1, 0x0, 64, 0x0,
    [⟨63, 0, .rwl⟩]⟩,
  ⟨.ANM_COUNTS, 0x0B000010, 0, 1, 0x0, 1, 0x0, 64, 0x0,
    [⟨63, 48, .rc⟩, ⟨47, 32, .rc⟩, ⟨31, 16, .rc⟩]⟩,
  ⟨.ANM_AIN_CFG, 0x0B000100, 0, 16, 0x20, 1, 0x0, 32, 0x0,
    [⟨31, 31, .rw⟩, ⟨30, 30, .rw⟩]⟩,
  ⟨.ANM_AIN_SCALE, 0x0B000108, 0, 16, 0x20, 1, 0x0, 64, 0x3E84000000000000,
    [⟨63, 0, .rw⟩]⟩,
  ⟨.ANM_AIN_OFFSET, 0x0B000110, 0, 16, 0x20, 1, 0x0, 64, 0x0,
    [⟨63, 0, .rw⟩]⟩,
  ⟨.ANM_ENC_CFG, 0x0B000400, 0, 16, 0x10, 1, 0x0, 32, 0x0,
    [⟨31, 31, .rw⟩, ⟨30, 30, .rw⟩, ⟨29, 28, .rw⟩, ⟨7, 0, .rw⟩]⟩,
  ⟨.ANM_ENC_COUNT, 0x0B000404, 0, 16, 0x10, 1, 0x0, 32, 0x0,
    [⟨31, 0, .ro⟩]⟩,
  ⟨.ANM_DIO_CFG, 0x0B000600, 0, 32, 0x8, 1, 0x0, 32, 0x0,
    [⟨31, 31, .rw⟩, ⟨30, 30, .rw⟩, ⟨29, 28, .rw⟩, ⟨27, 27, .rw⟩, ⟨26, 24, .rw⟩, ⟨23, 23, .rw⟩, ⟨22, 22, .rw⟩, ⟨21, 21, .rw⟩, ⟨7, 0, .rw⟩]⟩,
  ⟨.ANM_DIO_SLOT, 0x0B000604, 0, 32, 0x8, 1, 0x0, 32, 0x0,
    [⟨17, 0, .rw⟩]⟩,
  ⟨.ANM_AOUT_CFG, 0x0B000800, 0, 8, 0x10, 1, 0x0, 32, 0x0,
    [⟨31, 31, .rw⟩, ⟨30, 30, .rw⟩, ⟨29, 29, .rw⟩, ⟨17, 0, .rw⟩]⟩,
  ⟨.ANM_PWM_CFG, 0x0B000900, 0, 8, 0x10, 1, 0x0, 32, 0x0,
    [⟨31, 31, .rw⟩, ⟨30, 30, .rw⟩, ⟨29, 29, .rw⟩, ⟨17, 0, .rw⟩]⟩,
  ⟨.ANM_AOUT_SAFE, 0x0B000804, 0, 8, 0x10, 1, 0x0, 32, 0x0,
    [⟨15, 0, .rw⟩]⟩,
  ⟨.ANM_AOUT_CODE, 0x0B000808, 0, 8, 0x10, 1, 0x0, 32, 0x0,
    [⟨31, 31, .ro⟩, ⟨15, 0, .ro⟩]⟩,
  ⟨.ANM_PWM_PERIOD, 0x0B000904, 0, 8, 0x10, 1, 0x0, 32, 0x0,
    [⟨23, 0, .rw⟩]⟩,
  ⟨.ANM_PWM_SAFE, 0x0B000908, 0, 8, 0x10, 1, 0x0, 32, 0x0,
    [⟨23, 0, .rw⟩]⟩]

/-- All register maps of the ANM block. -/
def descsANM : List RegDesc := descsANM0

/-- Register maps of the FLT block (19). -/
def descsFLT0 : List RegDesc := [
  ⟨.FLT_CTL, 0x0C000000, 0, 1, 0x0, 1, 0x0, 32, 0x0,
    [⟨16, 16, .rw⟩, ⟨15, 8, .rw⟩, ⟨0, 0, .rw⟩]⟩,
  ⟨.FLT_STATUS, 0x0C000004, 0, 1, 0x0, 1, 0x0, 32, 0x20,
    [⟨31, 24, .ro⟩, ⟨5, 5, .ro⟩, ⟨4, 4, .ro⟩, ⟨3, 3, .ro⟩, ⟨2, 2, .ro⟩, ⟨1, 1, .ro⟩, ⟨0, 0, .ro⟩]⟩,
  ⟨.FLT_NOTIFY, 0x0C000008, 0, 1, 0x0, 1, 0x0, 32, 0x0,
    [⟨4, 4, .w1c⟩, ⟨3, 3, .w1c⟩, ⟨2, 2, .w1c⟩, ⟨1, 1, .w1c⟩, ⟨0, 0, .w1c⟩]⟩,
  ⟨.FLT_LOG_BASE, 0x0C000010, 0, 1, 0x0, 1, 0x0, 64, 0x0,
    [⟨47, 12, .rw⟩, ⟨3, 0, .rw⟩]⟩,
  ⟨.FLT_LOG_PTR, 0x0C000018, 0, 1, 0x0, 1, 0x0, 32, 0x0,
    [⟨31, 16, .rw⟩, ⟨15, 0, .ro⟩]⟩,
  ⟨.FLT_COUNTS, 0x0C000020, 0, 1, 0x0, 1, 0x0, 64, 0x0,
    [⟨63, 48, .rc⟩, ⟨47, 32, .rc⟩, ⟨31, 16, .rc⟩]⟩,
  ⟨.FLT_CLASS_WIN, 0x0C000100, 0, 4, 0x4, 1, 0x0, 32, 0x3000018,
    [⟨26, 24, .rw⟩, ⟨15, 0, .rw⟩]⟩,
  ⟨.FLT_RETIRE, 0x0C000200, 0, 1, 0x0, 1, 0x0, 32, 0x0,
    [⟨31, 31, .ro⟩, ⟨30, 28, .ro⟩, ⟨27, 26, .rw⟩, ⟨25, 24, .rw⟩, ⟨10, 1, .rw⟩, ⟨0, 0, .wo⟩]⟩,
  ⟨.FLT_PARTNER, 0x0C000300, 0, 1, 0x0, 1, 0x0, 32, 0x2,
    [⟨1, 1, .rw⟩, ⟨0, 0, .rwl⟩]⟩,
  ⟨.FLT_PARTNER_STAT, 0x0C000304, 0, 1, 0x0, 1, 0x0, 32, 0x0,
    [⟨31, 31, .ro⟩, ⟨30, 30, .w1c⟩, ⟨15, 0, .ro⟩]⟩,
  ⟨.FLT_GAL_MAP, 0x0C001000, 0, 64, 0x8, 1, 0x0, 64, 0x1876543210,
    [⟨63, 52, .ro⟩, ⟨48, 48, .ro⟩, ⟨47, 40, .ro⟩, ⟨36, 36, .ro⟩, ⟨35, 32, .ro⟩, ⟨31, 0, .ro⟩]⟩]

/-- All register maps of the FLT block. -/
def descsFLT : List RegDesc := descsFLT0

/-- Register maps of the PWR block (20). -/
def descsPWR0 : List RegDesc := [
  ⟨.PWR_DOM_REQ, 0x0D000000, 0, 1, 0x0, 1, 0x0, 32, 0x3,
    [⟨19, 1, .rw⟩, ⟨0, 0, .ro⟩]⟩,
  ⟨.PWR_DOM_STATE, 0x0D000004, 0, 1, 0x0, 1, 0x0, 32, 0x3,
    [⟨19, 0, .ro⟩]⟩,
  ⟨.PWR_STATUS, 0x0D000008, 0, 1, 0x0, 1, 0x0, 32, 0x0,
    [⟨31, 31, .w1c⟩, ⟨30, 30, .w1c⟩, ⟨23, 16, .ro⟩, ⟨12, 8, .ro⟩, ⟨7, 4, .ro⟩, ⟨0, 0, .ro⟩]⟩,
  ⟨.PWR_THERM, 0x0D000010, 0, 1, 0x0, 1, 0x0, 32, 0x6E640003,
    [⟨31, 24, .rwl⟩, ⟨23, 16, .rw⟩, ⟨3, 0, .rw⟩]⟩,
  ⟨.PWR_TRIP_LOG, 0x0D000018, 0, 1, 0x0, 1, 0x0, 64, 0x0,
    [⟨63, 0, .ro⟩]⟩,
  ⟨.PWR_SHAFT_CLK, 0x0D000100, 0, 8, 0x8, 1, 0x0, 32, 0x300,
    [⟨11, 10, .ro⟩, ⟨9, 8, .rw⟩, ⟨1, 0, .rw⟩]⟩,
  ⟨.PWR_TEMP, 0x0D000200, 0, 9, 0x4, 1, 0x0, 32, 0x0,
    [⟨15, 0, .ro⟩]⟩]

/-- All register maps of the PWR block. -/
def descsPWR : List RegDesc := descsPWR0

/-- Register maps of the DBG block (21). -/
def descsDBG0 : List RegDesc := [
  ⟨.DBG_CTL, 0x0E000000, 0, 1, 0x0, 1, 0x0, 32, 0x0,
    [⟨1, 1, .rwl⟩, ⟨0, 0, .rw⟩]⟩,
  ⟨.DBG_SESSION, 0x0E000004, 0, 1, 0x0, 1, 0x0, 32, 0x0,
    [⟨31, 30, .ro⟩, ⟨29, 28, .ro⟩, ⟨27, 27, .ro⟩, ⟨26, 26, .ro⟩, ⟨25, 24, .ro⟩, ⟨23, 16, .ro⟩, ⟨0, 0, .w1c⟩]⟩,
  ⟨.DBG_AUTH_CTL, 0x0E000008, 0, 1, 0x0, 1, 0x0, 32, 0x0,
    [⟨31, 31, .ro⟩, ⟨30, 28, .ro⟩, ⟨7, 6, .rw⟩, ⟨5, 4, .rw⟩, ⟨3, 1, .rw⟩, ⟨0, 0, .wo⟩]⟩,
  ⟨.DBG_AUTH_CHAL, 0x0E000100, 0, 6, 0x8, 1, 0x0, 64, 0x0,
    [⟨63, 0, .ro⟩]⟩,
  ⟨.DBG_AUTH_RESP, 0x0E000140, 0, 12, 0x8, 1, 0x0, 64, 0x0,
    [⟨63, 0, .rw⟩]⟩,
  ⟨.DBG_SWBP, 0x0E000010, 0, 1, 0x0, 1, 0x0, 32, 0xF6000000,
    [⟨31, 0, .rw⟩]⟩,
  ⟨.DBG_XTRIG, 0x0E000018, 0, 1, 0x0, 1, 0x0, 64, 0x0,
    [⟨63, 63, .wo⟩, ⟨62, 62, .wo⟩, ⟨61, 61, .rw⟩, ⟨5, 0, .rw⟩]⟩,
  ⟨.DBG_HALTED, 0x0E000020, 0, 8, 0x8, 1, 0x0, 64, 0x0,
    [⟨63, 0, .ro⟩]⟩,
  ⟨.DBG_RKP_DATA, 0x0E000200, 0, 6, 0x8, 1, 0x0, 64, 0x0,
    [⟨63, 0, .rw⟩]⟩,
  ⟨.DBG_RKP_CTL, 0x0E000230, 0, 1, 0x0, 1, 0x0, 32, 0x0,
    [⟨31, 31, .ro⟩, ⟨30, 30, .ro⟩, ⟨29, 29, .w1c⟩, ⟨15, 0, .wo⟩]⟩,
  ⟨.DBG_HWR_RC, 0x0E100000, 0, 512, 0x200, 1, 0x0, 32, 0x0,
    [⟨3, 3, .wo⟩, ⟨2, 2, .wo⟩, ⟨1, 1, .wo⟩, ⟨0, 0, .wo⟩]⟩,
  ⟨.DBG_HWR_RSTAT, 0x0E100004, 0, 512, 0x200, 1, 0x0, 32, 0x0,
    [⟨31, 31, .ro⟩, ⟨30, 30, .ro⟩, ⟨29, 29, .ro⟩, ⟨28, 28, .ro⟩, ⟨27, 24, .ro⟩, ⟨7, 0, .ro⟩]⟩,
  ⟨.DBG_HWR_VTX, 0x0E100010, 0, 512, 0x200, 1, 0x0, 32, 0x0,
    [⟨31, 0, .rw⟩]⟩,
  ⟨.DBG_HWR_VRX, 0x0E100014, 0, 512, 0x200, 1, 0x0, 32, 0x0,
    [⟨31, 0, .ro⟩]⟩,
  ⟨.DBG_HWR_VT_STAT, 0x0E100018, 0, 512, 0x200, 1, 0x0, 32, 0x0,
    [⟨3, 3, .rw⟩, ⟨2, 2, .rw⟩, ⟨1, 1, .ro⟩, ⟨0, 0, .ro⟩]⟩,
  ⟨.DBG_HWR_CMP_LO, 0x0E100100, 0, 512, 0x200, 8, 0x20, 64, 0x0,
    [⟨63, 0, .rw⟩]⟩,
  ⟨.DBG_HWR_CMP_HI, 0x0E100108, 0, 512, 0x200, 8, 0x20, 64, 0x0,
    [⟨63, 0, .rw⟩]⟩,
  ⟨.DBG_HWR_CMP_CTL, 0x0E100110, 0, 512, 0x200, 8, 0x20, 64, 0x0,
    [⟨63, 48, .rw⟩, ⟨47, 32, .rw⟩, ⟨31, 31, .rw⟩, ⟨30, 28, .rw⟩, ⟨27, 26, .rw⟩, ⟨25, 23, .rw⟩, ⟨22, 20, .rw⟩, ⟨19, 19, .rw⟩, ⟨18, 18, .rw⟩]⟩]

/-- All register maps of the DBG block. -/
def descsDBG : List RegDesc := descsDBG0

/-- Register maps of the TLY block (22). -/
def descsTLY0 : List RegDesc := [
  ⟨.TLY_GCTL, 0x0F000000, 0, 1, 0x0, 1, 0x0, 32, 0x0,
    [⟨0, 0, .rw⟩]⟩,
  ⟨.TLY_BW_CTL, 0x0F000010, 0, 1, 0x0, 1, 0x0, 32, 0x3E8,
    [⟨31, 31, .rw⟩, ⟨19, 0, .rw⟩]⟩,
  ⟨.TLY_BW_SEQ, 0x0F000018, 0, 1, 0x0, 1, 0x0, 64, 0x0,
    [⟨63, 0, .ro⟩]⟩,
  ⟨.TLY_BW_LAST, 0x0F001000, 0, 50, 0x10, 1, 0x0, 64, 0x0,
    [⟨63, 32, .ro⟩, ⟨31, 0, .ro⟩]⟩,
  ⟨.TLY_BW_MAX, 0x0F001008, 0, 50, 0x10, 1, 0x0, 64, 0x0,
    [⟨63, 32, .rc⟩, ⟨31, 0, .rc⟩]⟩,
  ⟨.TLY_HWR_CTR, 0x0F100000, 0, 512, 0x100, 8, 0x8, 64, 0x0,
    [⟨47, 0, .rw⟩]⟩,
  ⟨.TLY_HWR_EVT, 0x0F100040, 0, 512, 0x100, 8, 0x4, 32, 0x0,
    [⟨14, 12, .rw⟩, ⟨11, 10, .rw⟩, ⟨9, 0, .rw⟩]⟩,
  ⟨.TLY_HWR_STAT, 0x0F100060, 0, 512, 0x100, 1, 0x0, 32, 0x0,
    [⟨25, 25, .w1c⟩, ⟨24, 24, .w1c⟩, ⟨23, 23, .rw⟩, ⟨16, 16, .rw⟩, ⟨15, 8, .rw⟩, ⟨7, 0, .w1c⟩]⟩,
  ⟨.TLY_HWR_SCTL, 0x0F100080, 0, 512, 0x100, 1, 0x0, 64, 0x0,
    [⟨63, 63, .rw⟩, ⟨62, 60, .rw⟩, ⟨59, 58, .rw⟩, ⟨51, 48, .rw⟩, ⟨47, 44, .rw⟩, ⟨43, 32, .rw⟩, ⟨31, 0, .rw⟩]⟩,
  ⟨.TLY_HWR_SBASE, 0x0F100088, 0, 512, 0x100, 1, 0x0, 64, 0x0,
    [⟨47, 12, .rw⟩]⟩,
  ⟨.TLY_HWR_SPTR, 0x0F100090, 0, 512, 0x100, 1, 0x0, 64, 0x0,
    [⟨63, 48, .rc⟩, ⟨31, 16, .rw⟩, ⟨15, 0, .ro⟩]⟩]

/-- All register maps of the TLY block. -/
def descsTLY : List RegDesc := descsTLY0

/-- The register maps of the block window (R43) that holds an address. -/
def descsAt (addr : Nat) : List RegDesc :=
  match addr / 0x1000000 with
  | 0x00 => descsCFG
  | 0x01 => descsTIM
  | 0x02 => descsLOD
  | 0x03 => descsDRT
  | 0x04 => descsHWR
  | 0x06 => descsMEM
  | 0x07 => descsSKP
  | 0x08 => descsPLK
  | 0x09 => descsHEP
  | 0x0A => descsADT
  | 0x0B => descsANM
  | 0x0C => descsFLT
  | 0x0D => descsPWR
  | 0x0E => descsDBG
  | 0x0F => descsTLY
  | 0x10 => descsCAN
  | _ => []

/-- The first index of the copy of `d` at `addr`. -/
def regIndex (d : RegDesc) (addr : Nat) : Nat := if d.str = 0 then 0 else (addr - d.base) / d.str

/-- The second index of the copy of `d` at `addr`. -/
def regIndex2 (d : RegDesc) (addr : Nat) : Nat :=
  if d.str2 = 0 then 0 else (if d.str = 0 then addr - d.base else (addr - d.base) % d.str) / d.str2

/-- Does a copy of the register lie at `addr`? -/
def regAt (d : RegDesc) (addr : Nat) : Bool :=
  decide (d.base ≤ addr) && decide (d.fst ≤ regIndex d addr) && decide (regIndex d addr < d.fst + d.cnt)
    && decide (regIndex2 d addr < d.cnt2)
    && decide (d.base + regIndex d addr * d.str + regIndex2 d addr * d.str2 = addr)

/-- The register at an IO address, if any is populated there (R46). -/
def findReg (addr : Nat) : Option RegDesc := (descsAt addr).find? (fun d => regAt d addr)

/-- The value after power-on reset of the register at an IO address (R9); 0 where none is populated. -/
def resetAt (addr : Nat) : Nat :=
  match findReg addr with
  | some d => d.reset
  | none => 0

/-! Addresses of the registers, by name. -/
def Adr.TIM_CTL : Nat := 0x01000000
def Adr.TIM_STATUS : Nat := 0x01000004
def Adr.TIM_NOW : Nat := 0x01000008
def Adr.TIM_SET : Nat := 0x01000010
def Adr.TIM_EPOCH : Nat := 0x01000018
def Adr.TIM_RATE : Nat := 0x01000020
def Adr.TIM_OFFSET : Nat := 0x01000024
def Adr.TIM_LIMITS : Nat := 0x01000028
def Adr.TIM_HOLD : Nat := 0x0100002C
def Adr.TIM_SERVO : Nat := 0x01000030
def Adr.TIM_BMCA : Nat := 0x01000034
def Adr.TIM_LOSS_COUNT : Nat := 0x01000038
def Adr.TIM_GM_ID : Nat := 0x01000040
def Adr.TIM_CMP_TARGET (n : Nat) : Nat := 0x01001000 + n * 0x20
def Adr.TIM_CMP_PERIOD (n : Nat) : Nat := 0x01001008 + n * 0x20
def Adr.TIM_CMP_CTL (n : Nat) : Nat := 0x01001010 + n * 0x20
def Adr.TIM_CMP_STAT (n : Nat) : Nat := 0x01001014 + n * 0x20
def Adr.LOD_CTL : Nat := 0x02000000
def Adr.LOD_STATUS : Nat := 0x02000004
def Adr.LOD_EPOCH : Nat := 0x02000008
def Adr.LOD_OPEN_B : Nat := 0x02000010
def Adr.LOD_PEND_B : Nat := 0x02000018
def Adr.LOD_HORIZON : Nat := 0x02000020
def Adr.LOD_EGRESS_LEAD : Nat := 0x02000024
def Adr.LOD_ADVANCE : Nat := 0x02000028
def Adr.LOD_COUNTS : Nat := 0x02000030
def Adr.LOD_AGE_LIMIT (n : Nat) : Nat := 0x02000100 + n * 0x8
def Adr.LOD_CFG_INDEX : Nat := 0x02000200
def Adr.LOD_CFG_DATA : Nat := 0x02000204
def Adr.LOD_SWR_INDEX : Nat := 0x02000210
def Adr.LOD_SWR_CTL : Nat := 0x02000214
def Adr.LOD_SWR_VALUE : Nat := 0x02000218
def Adr.LOD_FRC_INDEX : Nat := 0x02000220
def Adr.LOD_FRC_CTL : Nat := 0x02000224
def Adr.LOD_FRC_VALUE : Nat := 0x02000228
def Adr.LOD_FRC_TIME : Nat := 0x02000230
def Adr.LOD_WIN_COMMIT : Nat := 0x02000300
def Adr.LOD_WIN_MATCH (w : Nat) : Nat := 0x02001000 + w * 0x20
def Adr.LOD_WIN_RANGE (w : Nat) : Nat := 0x02001004 + w * 0x20
def Adr.LOD_WIN_MAP (w : Nat) : Nat := 0x02001008 + w * 0x20
def Adr.LOD_ANM_MAP (n : Nat) : Nat := 0x02002000 + n * 0x4
def Adr.DRT_CTL : Nat := 0x03000000
def Adr.DRT_STATUS : Nat := 0x03000004
def Adr.DRT_REGION_BASE : Nat := 0x03000008
def Adr.DRT_TABLES : Nat := 0x03000010
def Adr.DRT_CMD : Nat := 0x03000020
def Adr.DRT_CMD_STATUS : Nat := 0x03000028
def Adr.DRT_RELEASE : Nat := 0x03000030
def Adr.DRT_QUERY_INDEX : Nat := 0x03000038
def Adr.DRT_QUERY : Nat := 0x03000040
def Adr.DRT_QUERY_NEXT : Nat := 0x03000048
def Adr.DRT_EVT_COUNTS : Nat := 0x03000050
def Adr.DRT_DSP_CTL : Nat := 0x03000100
def Adr.DRT_DSP_STATUS : Nat := 0x03000104
def Adr.DRT_GAL_POOL : Nat := 0x03000108
def Adr.DRT_GAL_EXPORT : Nat := 0x03000110
def Adr.DRT_GAL_IMPORT : Nat := 0x03000118
def Adr.DRT_PCLASS_LVL : Nat := 0x03000120
def Adr.DRT_DSP_COUNTS : Nat := 0x03000128
def Adr.DRT_SAVE_BASE : Nat := 0x03000130
def Adr.DRT_HWR_POOL (k : Nat) : Nat := 0x03000200 + k * 0x8
def Adr.DRT_GAL_STATUS (g : Nat) : Nat := 0x03001000 + g * 0x8
def Adr.HWR_IOGRANT (h n : Nat) : Nat := 0x04000100 + h * 0x1000 + n * 0x8
def Adr.CFG_CDT_INDEX : Nat := 0x00008000
def Adr.CFG_CDT_STATUS : Nat := 0x00008004
def Adr.CFG_CDT_WORD : Nat := 0x00008008
def Adr.CFG_CDT_ENTRY (n : Nat) : Nat := 0x00008100 + n * 0x8
def Adr.HWR_IPEND (h : Nat) : Nat := 0x04000000 + h * 0x1000
def Adr.HWR_IENA (h : Nat) : Nat := 0x04000008 + h * 0x1000
def Adr.HWR_ILVL (h : Nat) : Nat := 0x04000010 + h * 0x1000
def Adr.HWR_PTC_PEND (h : Nat) : Nat := 0x04000018 + h * 0x1000
def Adr.HWR_IHI_SET (h : Nat) : Nat := 0x04000020 + h * 0x1000
def Adr.HWR_IHI_PEND (h : Nat) : Nat := 0x04000024 + h * 0x1000
def Adr.HWR_XROUTE (h : Nat) : Nat := 0x04000030 + h * 0x1000
def Adr.CAN_GRACE : Nat := 0x10000000
def Adr.CAN_DEV_CTL : Nat := 0x10000010
def Adr.CAN_DEV_KICK : Nat := 0x10000014
def Adr.CAN_DEV_STAT : Nat := 0x10000018
def Adr.CAN_HWR_CTL (h : Nat) : Nat := 0x10001000 + h * 0x10
def Adr.CAN_HWR_KICK (h : Nat) : Nat := 0x10001004 + h * 0x10
def Adr.CAN_HWR_STAT (h : Nat) : Nat := 0x10001008 + h * 0x10
def Adr.MEM_L2_ALLOC (c : Nat) : Nat := 0x0600F000 + c * 0x4
def Adr.MEM_L2_LOCK : Nat := 0x0600F020
def Adr.MEM_L2_PLD_ADDR : Nat := 0x0600F028
def Adr.MEM_L2_PLD_GAL : Nat := 0x0600F030
def Adr.MEM_L2_PLD_CTL : Nat := 0x0600F038
def Adr.MEM_L2_PLD_STAT : Nat := 0x0600F03C
def Adr.MEM_CODE_COUNTS : Nat := 0x0600F040
def Adr.MEM_CTL : Nat := 0x06000000
def Adr.MEM_SCHED : Nat := 0x06000004
def Adr.MEM_STATUS : Nat := 0x06000008
def Adr.MEM_TRN_CTL : Nat := 0x0600000C
def Adr.MEM_FDP_CTL : Nat := 0x06000010
def Adr.MEM_FDP_COUNTS : Nat := 0x06000018
def Adr.MEM_UE_LOG : Nat := 0x06000020
def Adr.MEM_CE_LOG : Nat := 0x06000028
def Adr.MEM_CH_STATUS (c : Nat) : Nat := 0x06010000 + c * 0x100
def Adr.MEM_CH_PP_FORCE (c : Nat) : Nat := 0x06010004 + c * 0x100
def Adr.MEM_CH_ERR_COUNTS (c : Nat) : Nat := 0x06010008 + c * 0x100
def Adr.MEM_CH_FDP_LOG (c : Nat) : Nat := 0x06010010 + c * 0x100
def Adr.MEM_CH_TRAIN (c : Nat) : Nat := 0x06010018 + c * 0x100
def Adr.SKP_ACTIVE : Nat := 0x07000000
def Adr.SKP_COUNTS : Nat := 0x07000008
def Adr.SKP_CH_CTL (n : Nat) : Nat := 0x07001000 + n * 0x100
def Adr.SKP_CH_STAT (n : Nat) : Nat := 0x07001004 + n * 0x100
def Adr.SKP_CH_HANDOVER_COUNT (n : Nat) : Nat := 0x07001008 + n * 0x100
def Adr.SKP_CH_SHADOW_VALID (n : Nat) : Nat := 0x0700100C + n * 0x100
def Adr.SKP_CH_REM (n : Nat) : Nat := 0x07001010 + n * 0x100
def Adr.SKP_CH_BURST (n : Nat) : Nat := 0x07001018 + n * 0x100
def Adr.SKP_CH_ERR_ADDR (n : Nat) : Nat := 0x07001020 + n * 0x100
def Adr.SKP_CH_S_SRC (n : Nat) : Nat := 0x07001040 + n * 0x100
def Adr.SKP_CH_S_DST (n : Nat) : Nat := 0x07001048 + n * 0x100
def Adr.SKP_CH_S_SIZE (n : Nat) : Nat := 0x07001050 + n * 0x100
def Adr.SKP_CH_S_STRIDE (n : Nat) : Nat := 0x07001058 + n * 0x100
def Adr.SKP_CH_S_CPL (n : Nat) : Nat := 0x07001060 + n * 0x100
def Adr.SKP_CH_S_OPT (n : Nat) : Nat := 0x07001068 + n * 0x100
def Adr.PLK_CTL : Nat := 0x08000000
def Adr.PLK_PARTNER : Nat := 0x08000004
def Adr.PLK_PARTNER_STAT : Nat := 0x08000008
def Adr.PLK_EGR_INDEX : Nat := 0x08000010
def Adr.PLK_EGR_DATA (k : Nat) : Nat := 0x08000018 + k * 0x8
def Adr.PLK_MGMT_RX : Nat := 0x08000040
def Adr.PLK_MGMT_TX : Nat := 0x08000050
def Adr.PLK_MGMT_RX_PTR : Nat := 0x08000048
def Adr.PLK_MGMT_TX_PTR : Nat := 0x08000058
def Adr.PLK_WIN_LAST (w : Nat) : Nat := 0x08002000 + w * 0x8
def Adr.PLK_PORT_CTL (n : Nat) : Nat := 0x08010000 + n * 0x1000
def Adr.PLK_PORT_STATUS (n : Nat) : Nat := 0x08010004 + n * 0x1000
def Adr.PLK_PORT_MAC (n : Nat) : Nat := 0x08010008 + n * 0x1000
def Adr.PLK_PORT_GCL_BASE (n : Nat) : Nat := 0x08010010 + n * 0x1000
def Adr.PLK_PORT_GCL_CYCLE (n : Nat) : Nat := 0x08010018 + n * 0x1000
def Adr.PLK_PORT_GCL_CTL (n : Nat) : Nat := 0x0801001C + n * 0x1000
def Adr.PLK_PORT_COUNTS (n : Nat) : Nat := 0x08010020 + n * 0x1000
def Adr.PLK_PORT_GCL (n e : Nat) : Nat := 0x08010800 + n * 0x1000 + e * 0x8
def Adr.HEP_CTL : Nat := 0x09000000
def Adr.HEP_STATUS : Nat := 0x09000004
def Adr.HEP_ID : Nat := 0x09000008
def Adr.HEP_BAR2 : Nat := 0x09000010
def Adr.HEP_FREEZE : Nat := 0x09000018
def Adr.HEP_FREEZE_RELEASE : Nat := 0x09000020
def Adr.HEP_COUNTS : Nat := 0x09000028
def Adr.HEP_ERR_LOG_DW0 (f : Nat) : Nat := 0x09001000 + f * 0x20
def Adr.HEP_ERR_LOG_DW1 (f : Nat) : Nat := 0x09001008 + f * 0x20
def Adr.HEP_ERR_LOG_DW2 (f : Nat) : Nat := 0x09001010 + f * 0x20
def Adr.HEP_ERR_LOG_DW3 (f : Nat) : Nat := 0x09001018 + f * 0x20
def Adr.HEP_OSEG (f s : Nat) : Nat := 0x09010000 + f * 0x200 + s * 0x8
def Adr.ADT_POOL : Nat := 0x0A000000
def Adr.ADT_MBX_PEND : Nat := 0x0A000008
def Adr.ADT_CMD_BUSY : Nat := 0x0A000010
def Adr.ADT_QUIESCE : Nat := 0x0A000018
def Adr.ADT_MGR_CTL : Nat := 0x0A000020
def Adr.ADT_CMD : Nat := 0x0A000028
def Adr.ADT_ASGN_RES (k : Nat) : Nat := 0x0A001000 + k * 0x100
def Adr.ADT_ASGN_RANGE (k r : Nat) : Nat := 0x0A001080 + k * 0x100 + r * 0x8
def Adr.ADT_MBX_TOMGR (k i : Nat) : Nat := 0x0A000000 + k * 0x10000 + i * 0x8
def Adr.ADT_MBX_TOVF (k i : Nat) : Nat := 0x0A000040 + k * 0x10000 + i * 0x8
def Adr.ADT_MBX_CTL (k : Nat) : Nat := 0x0A000080 + k * 0x10000
def Adr.ADT_STATUS (k : Nat) : Nat := 0x0A000088 + k * 0x10000
def Adr.ADT_CMD_CREDIT (k : Nat) : Nat := 0x0A000090 + k * 0x10000
def Adr.ADT_COUNTS (k : Nat) : Nat := 0x0A000098 + k * 0x10000
def Adr.ADT_Q_CFG (k q : Nat) : Nat := 0x0A001000 + k * 0x10000 + q * 0x20
def Adr.ADT_Q_RING (k q : Nat) : Nat := 0x0A001008 + k * 0x10000 + q * 0x20
def Adr.ADT_Q_PTR (k q : Nat) : Nat := 0x0A001010 + k * 0x10000 + q * 0x20
def Adr.ADT_Q_CTL (k q : Nat) : Nat := 0x0A001018 + k * 0x10000 + q * 0x20
def Adr.ANM_CTL : Nat := 0x0B000000
def Adr.ANM_STATUS : Nat := 0x0B000004
def Adr.ANM_AIN_PHASE : Nat := 0x0B000008
def Adr.ANM_COUNTS : Nat := 0x0B000010
def Adr.ANM_AIN_CFG (n : Nat) : Nat := 0x0B000100 + n * 0x20
def Adr.ANM_AIN_SCALE (n : Nat) : Nat := 0x0B000108 + n * 0x20
def Adr.ANM_AIN_OFFSET (n : Nat) : Nat := 0x0B000110 + n * 0x20
def Adr.ANM_ENC_CFG (n : Nat) : Nat := 0x0B000400 + n * 0x10
def Adr.ANM_ENC_COUNT (n : Nat) : Nat := 0x0B000404 + n * 0x10
def Adr.ANM_DIO_CFG (n : Nat) : Nat := 0x0B000600 + n * 0x8
def Adr.ANM_DIO_SLOT (n : Nat) : Nat := 0x0B000604 + n * 0x8
def Adr.ANM_AOUT_CFG (m : Nat) : Nat := 0x0B000800 + m * 0x10
def Adr.ANM_PWM_CFG (m : Nat) : Nat := 0x0B000900 + m * 0x10
def Adr.ANM_AOUT_SAFE (m : Nat) : Nat := 0x0B000804 + m * 0x10
def Adr.ANM_AOUT_CODE (m : Nat) : Nat := 0x0B000808 + m * 0x10
def Adr.ANM_PWM_PERIOD (m : Nat) : Nat := 0x0B000904 + m * 0x10
def Adr.ANM_PWM_SAFE (m : Nat) : Nat := 0x0B000908 + m * 0x10
def Adr.FLT_CTL : Nat := 0x0C000000
def Adr.FLT_STATUS : Nat := 0x0C000004
def Adr.FLT_NOTIFY : Nat := 0x0C000008
def Adr.FLT_LOG_BASE : Nat := 0x0C000010
def Adr.FLT_LOG_PTR : Nat := 0x0C000018
def Adr.FLT_COUNTS : Nat := 0x0C000020
def Adr.FLT_CLASS_WIN (c : Nat) : Nat := 0x0C000100 + c * 0x4
def Adr.FLT_RETIRE : Nat := 0x0C000200
def Adr.FLT_PARTNER : Nat := 0x0C000300
def Adr.FLT_PARTNER_STAT : Nat := 0x0C000304
def Adr.FLT_GAL_MAP (g : Nat) : Nat := 0x0C001000 + g * 0x8
def Adr.CFG_ID : Nat := 0x00000000
def Adr.CFG_MODE : Nat := 0x00000008
def Adr.CFG_BOOT_STATUS : Nat := 0x0000000C
def Adr.CFG_BOOT_ENTRY : Nat := 0x00000010
def Adr.CFG_RECOV_ENTRY : Nat := 0x00000018
def Adr.CFG_IMAGE : Nat := 0x00000020
def Adr.CFG_ST_RESULT : Nat := 0x00000028
def Adr.CFG_ROOTKEY_HASH (i : Nat) : Nat := 0x00000200 + i * 0x8
def Adr.CFG_XSPI_CTL : Nat := 0x00000300
def Adr.CFG_XSPI_ADDR : Nat := 0x00000308
def Adr.CFG_XSPI_INFO : Nat := 0x00000310
def Adr.CFG_XSPI_DATA (i : Nat) : Nat := 0x00000400 + i * 0x8
def Adr.PWR_DOM_REQ : Nat := 0x0D000000
def Adr.PWR_DOM_STATE : Nat := 0x0D000004
def Adr.PWR_STATUS : Nat := 0x0D000008
def Adr.PWR_THERM : Nat := 0x0D000010
def Adr.PWR_TRIP_LOG : Nat := 0x0D000018
def Adr.PWR_SHAFT_CLK (s : Nat) : Nat := 0x0D000100 + s * 0x8
def Adr.PWR_TEMP (n : Nat) : Nat := 0x0D000200 + n * 0x4
def Adr.DBG_CTL : Nat := 0x0E000000
def Adr.DBG_SESSION : Nat := 0x0E000004
def Adr.DBG_AUTH_CTL : Nat := 0x0E000008
def Adr.DBG_AUTH_CHAL (i : Nat) : Nat := 0x0E000100 + i * 0x8
def Adr.DBG_AUTH_RESP (i : Nat) : Nat := 0x0E000140 + i * 0x8
def Adr.DBG_SWBP : Nat := 0x0E000010
def Adr.DBG_XTRIG : Nat := 0x0E000018
def Adr.DBG_HALTED (k : Nat) : Nat := 0x0E000020 + k * 0x8
def Adr.DBG_RKP_DATA (i : Nat) : Nat := 0x0E000200 + i * 0x8
def Adr.DBG_RKP_CTL : Nat := 0x0E000230
def Adr.DBG_HWR_RC (h : Nat) : Nat := 0x0E100000 + h * 0x200
def Adr.DBG_HWR_RSTAT (h : Nat) : Nat := 0x0E100004 + h * 0x200
def Adr.DBG_HWR_VTX (h : Nat) : Nat := 0x0E100010 + h * 0x200
def Adr.DBG_HWR_VRX (h : Nat) : Nat := 0x0E100014 + h * 0x200
def Adr.DBG_HWR_VT_STAT (h : Nat) : Nat := 0x0E100018 + h * 0x200
def Adr.DBG_HWR_CMP_LO (h c : Nat) : Nat := 0x0E100100 + h * 0x200 + c * 0x20
def Adr.DBG_HWR_CMP_HI (h c : Nat) : Nat := 0x0E100108 + h * 0x200 + c * 0x20
def Adr.DBG_HWR_CMP_CTL (h c : Nat) : Nat := 0x0E100110 + h * 0x200 + c * 0x20
def Adr.HEP_SCS_ARG : Nat := 0x09002000
def Adr.HEP_SCS_RES : Nat := 0x09002010
def Adr.HEP_SCS_CMD : Nat := 0x09002008
def Adr.TLY_GCTL : Nat := 0x0F000000
def Adr.TLY_BW_CTL : Nat := 0x0F000010
def Adr.TLY_BW_SEQ : Nat := 0x0F000018
def Adr.TLY_BW_LAST (p : Nat) : Nat := 0x0F001000 + p * 0x10
def Adr.TLY_BW_MAX (p : Nat) : Nat := 0x0F001008 + p * 0x10
def Adr.TLY_HWR_CTR (h n : Nat) : Nat := 0x0F100000 + h * 0x100 + n * 0x8
def Adr.TLY_HWR_EVT (h n : Nat) : Nat := 0x0F100040 + h * 0x100 + n * 0x4
def Adr.TLY_HWR_STAT (h : Nat) : Nat := 0x0F100060 + h * 0x100
def Adr.TLY_HWR_SCTL (h : Nat) : Nat := 0x0F100080 + h * 0x100
def Adr.TLY_HWR_SBASE (h : Nat) : Nat := 0x0F100088 + h * 0x100
def Adr.TLY_HWR_SPTR (h : Nat) : Nat := 0x0F100090 + h * 0x100
def Adr.LOD_WIN_MATCH_A (w : Nat) : Nat := 0x02001010 + w * 0x20
def Adr.LOD_WIN_RANGE_A (w : Nat) : Nat := 0x02001014 + w * 0x20
def Adr.LOD_WIN_MAP_A (w : Nat) : Nat := 0x02001018 + w * 0x20
def Adr.SKP_CH_A_SRC (n : Nat) : Nat := 0x07001080 + n * 0x100
def Adr.SKP_CH_A_DST (n : Nat) : Nat := 0x07001088 + n * 0x100
def Adr.SKP_CH_A_SIZE (n : Nat) : Nat := 0x07001090 + n * 0x100
def Adr.SKP_CH_A_STRIDE (n : Nat) : Nat := 0x07001098 + n * 0x100
def Adr.SKP_CH_A_CPL (n : Nat) : Nat := 0x070010A0 + n * 0x100
def Adr.SKP_CH_A_OPT (n : Nat) : Nat := 0x070010A8 + n * 0x100
def Adr.HEP_MSIX_TABLE (v i : Nat) : Nat := 0x09F00000 + v * 0x10 + i * 0x4
def Adr.HEP_MSIX_CTL (v : Nat) : Nat := 0x09F0000C + v * 0x10
def Adr.HEP_MSIX_PBA (j : Nat) : Nat := 0x09F01000 + j * 0x8

/-! Fields of the registers, by name. -/
def F.TIM_CTL.SYNC_EXP : IoField := ⟨Adr.TIM_CTL, 26, 24⟩
def F.TIM_CTL.PORT_EN : IoField := ⟨Adr.TIM_CTL, 23, 16⟩
def F.TIM_CTL.DOMAIN : IoField := ⟨Adr.TIM_CTL, 15, 8⟩
def F.TIM_CTL.GM_CAPABLE : IoField := ⟨Adr.TIM_CTL, 1, 1⟩
def F.TIM_CTL.SYNC_EN : IoField := ⟨Adr.TIM_CTL, 0, 0⟩
def F.TIM_STATUS.RANGE_ERR : IoField := ⟨Adr.TIM_STATUS, 25, 25⟩
def F.TIM_STATUS.SET_REJ : IoField := ⟨Adr.TIM_STATUS, 24, 24⟩
def F.TIM_STATUS.HOPS : IoField := ⟨Adr.TIM_STATUS, 23, 16⟩
def F.TIM_STATUS.SLAVE_PORT : IoField := ⟨Adr.TIM_STATUS, 11, 8⟩
def F.TIM_STATUS.SLEW_SAT : IoField := ⟨Adr.TIM_STATUS, 5, 5⟩
def F.TIM_STATUS.STEPPED : IoField := ⟨Adr.TIM_STATUS, 4, 4⟩
def F.TIM_STATUS.STATE : IoField := ⟨Adr.TIM_STATUS, 2, 0⟩
def F.TIM_NOW.NOW : IoField := ⟨Adr.TIM_NOW, 63, 0⟩
def F.TIM_SET.VALUE : IoField := ⟨Adr.TIM_SET, 63, 0⟩
def F.TIM_EPOCH.SECONDS : IoField := ⟨Adr.TIM_EPOCH, 63, 0⟩
def F.TIM_RATE.RATE : IoField := ⟨Adr.TIM_RATE, 31, 0⟩
def F.TIM_OFFSET.OFFSET : IoField := ⟨Adr.TIM_OFFSET, 31, 0⟩
def F.TIM_LIMITS.LOSS_NS : IoField := ⟨Adr.TIM_LIMITS, 31, 16⟩
def F.TIM_LIMITS.LOCK_NS : IoField := ⟨Adr.TIM_LIMITS, 15, 0⟩
def F.TIM_HOLD.HOLD_MS : IoField := ⟨Adr.TIM_HOLD, 31, 0⟩
def F.TIM_SERVO.KI_SH : IoField := ⟨Adr.TIM_SERVO, 12, 8⟩
def F.TIM_SERVO.KP_SH : IoField := ⟨Adr.TIM_SERVO, 4, 0⟩
def F.TIM_BMCA.PRIORITY1 : IoField := ⟨Adr.TIM_BMCA, 15, 8⟩
def F.TIM_BMCA.PRIORITY2 : IoField := ⟨Adr.TIM_BMCA, 7, 0⟩
def F.TIM_LOSS_COUNT.COUNT : IoField := ⟨Adr.TIM_LOSS_COUNT, 31, 0⟩
def F.TIM_GM_ID.CLOCK_ID : IoField := ⟨Adr.TIM_GM_ID, 63, 0⟩
def F.TIM_CMP_TARGET.TARGET (n : Nat) : IoField := ⟨Adr.TIM_CMP_TARGET n, 63, 0⟩
def F.TIM_CMP_PERIOD.PERIOD (n : Nat) : IoField := ⟨Adr.TIM_CMP_PERIOD n, 63, 0⟩
def F.TIM_CMP_CTL.ARG (n : Nat) : IoField := ⟨Adr.TIM_CMP_CTL n, 31, 16⟩
def F.TIM_CMP_CTL.ACTION (n : Nat) : IoField := ⟨Adr.TIM_CMP_CTL n, 3, 1⟩
def F.TIM_CMP_CTL.ARM (n : Nat) : IoField := ⟨Adr.TIM_CMP_CTL n, 0, 0⟩
def F.TIM_CMP_STAT.CFG_ERR (n : Nat) : IoField := ⟨Adr.TIM_CMP_STAT n, 17, 17⟩
def F.TIM_CMP_STAT.FIRED (n : Nat) : IoField := ⟨Adr.TIM_CMP_STAT n, 16, 16⟩
def F.TIM_CMP_STAT.MISSED (n : Nat) : IoField := ⟨Adr.TIM_CMP_STAT n, 15, 0⟩
def F.LOD_CTL.DRT_ADV_EN : IoField := ⟨Adr.LOD_CTL, 1, 1⟩
def F.LOD_CTL.SW_ADV_EN : IoField := ⟨Adr.LOD_CTL, 0, 0⟩
def F.LOD_STATUS.HOLD_STALL : IoField := ⟨Adr.LOD_STATUS, 3, 3⟩
def F.LOD_STATUS.GATHER_WAIT : IoField := ⟨Adr.LOD_STATUS, 2, 2⟩
def F.LOD_STATUS.CLOSE_PEND : IoField := ⟨Adr.LOD_STATUS, 1, 1⟩
def F.LOD_STATUS.INIT_DONE : IoField := ⟨Adr.LOD_STATUS, 0, 0⟩
def F.LOD_EPOCH.OPEN : IoField := ⟨Adr.LOD_EPOCH, 63, 0⟩
def F.LOD_OPEN_B.BOUNDARY : IoField := ⟨Adr.LOD_OPEN_B, 63, 0⟩
def F.LOD_PEND_B.BOUNDARY : IoField := ⟨Adr.LOD_PEND_B, 63, 0⟩
def F.LOD_HORIZON.HORIZON : IoField := ⟨Adr.LOD_HORIZON, 17, 0⟩
def F.LOD_EGRESS_LEAD.LEAD : IoField := ⟨Adr.LOD_EGRESS_LEAD, 19, 0⟩
def F.LOD_ADVANCE.GO : IoField := ⟨Adr.LOD_ADVANCE, 0, 0⟩
def F.LOD_COUNTS.LATE : IoField := ⟨Adr.LOD_COUNTS, 63, 48⟩
def F.LOD_COUNTS.OLDER : IoField := ⟨Adr.LOD_COUNTS, 47, 32⟩
def F.LOD_COUNTS.DROPPED : IoField := ⟨Adr.LOD_COUNTS, 31, 16⟩
def F.LOD_COUNTS.REFUSED : IoField := ⟨Adr.LOD_COUNTS, 15, 0⟩
def F.LOD_AGE_LIMIT.LIMIT (n : Nat) : IoField := ⟨Adr.LOD_AGE_LIMIT n, 63, 0⟩
def F.LOD_CFG_INDEX.INC : IoField := ⟨Adr.LOD_CFG_INDEX, 31, 31⟩
def F.LOD_CFG_INDEX.SLOT : IoField := ⟨Adr.LOD_CFG_INDEX, 17, 0⟩
def F.LOD_CFG_DATA.DIR : IoField := ⟨Adr.LOD_CFG_DATA, 15, 15⟩
def F.LOD_CFG_DATA.EVT : IoField := ⟨Adr.LOD_CFG_DATA, 13, 13⟩
def F.LOD_CFG_DATA.KIND : IoField := ⟨Adr.LOD_CFG_DATA, 7, 4⟩
def F.LOD_CFG_DATA.AGE : IoField := ⟨Adr.LOD_CFG_DATA, 3, 0⟩
def F.LOD_SWR_INDEX.SLOT : IoField := ⟨Adr.LOD_SWR_INDEX, 17, 0⟩
def F.LOD_SWR_CTL.QUALITY : IoField := ⟨Adr.LOD_SWR_CTL, 31, 16⟩
def F.LOD_SWR_CTL.KIND : IoField := ⟨Adr.LOD_SWR_CTL, 7, 4⟩
def F.LOD_SWR_CTL.GO : IoField := ⟨Adr.LOD_SWR_CTL, 0, 0⟩
def F.LOD_SWR_VALUE.VALUE : IoField := ⟨Adr.LOD_SWR_VALUE, 63, 0⟩
def F.LOD_FRC_INDEX.SLOT : IoField := ⟨Adr.LOD_FRC_INDEX, 17, 0⟩
def F.LOD_FRC_CTL.CLEAR : IoField := ⟨Adr.LOD_FRC_CTL, 1, 1⟩
def F.LOD_FRC_CTL.SET : IoField := ⟨Adr.LOD_FRC_CTL, 0, 0⟩
def F.LOD_FRC_VALUE.VALUE : IoField := ⟨Adr.LOD_FRC_VALUE, 63, 0⟩
def F.LOD_FRC_TIME.TIME : IoField := ⟨Adr.LOD_FRC_TIME, 63, 0⟩
def F.LOD_WIN_COMMIT.MASK : IoField := ⟨Adr.LOD_WIN_COMMIT, 63, 0⟩
def F.LOD_WIN_MATCH.ORIGIN (w : Nat) : IoField := ⟨Adr.LOD_WIN_MATCH w, 31, 30⟩
def F.LOD_WIN_MATCH.DEVICE (w : Nat) : IoField := ⟨Adr.LOD_WIN_MATCH w, 29, 18⟩
def F.LOD_WIN_MATCH.PAIR (w : Nat) : IoField := ⟨Adr.LOD_WIN_MATCH w, 17, 17⟩
def F.LOD_WIN_MATCH.PORTS (w : Nat) : IoField := ⟨Adr.LOD_WIN_MATCH w, 16, 9⟩
def F.LOD_WIN_MATCH.FUNC (w : Nat) : IoField := ⟨Adr.LOD_WIN_MATCH w, 8, 3⟩
def F.LOD_WIN_RANGE.FIRST (w : Nat) : IoField := ⟨Adr.LOD_WIN_RANGE w, 31, 16⟩
def F.LOD_WIN_RANGE.COUNT (w : Nat) : IoField := ⟨Adr.LOD_WIN_RANGE w, 15, 0⟩
def F.LOD_WIN_MAP.EN (w : Nat) : IoField := ⟨Adr.LOD_WIN_MAP w, 31, 31⟩
def F.LOD_WIN_MAP.SLOT_BASE (w : Nat) : IoField := ⟨Adr.LOD_WIN_MAP w, 17, 0⟩
def F.LOD_ANM_MAP.EN (n : Nat) : IoField := ⟨Adr.LOD_ANM_MAP n, 31, 31⟩
def F.LOD_ANM_MAP.SLOT (n : Nat) : IoField := ⟨Adr.LOD_ANM_MAP n, 17, 0⟩
def F.DRT_CTL.EN : IoField := ⟨Adr.DRT_CTL, 0, 0⟩
def F.DRT_STATUS.CMD_REJ : IoField := ⟨Adr.DRT_STATUS, 3, 3⟩
def F.DRT_STATUS.HELD : IoField := ⟨Adr.DRT_STATUS, 2, 2⟩
def F.DRT_STATUS.READY : IoField := ⟨Adr.DRT_STATUS, 1, 1⟩
def F.DRT_STATUS.CFG_ERR : IoField := ⟨Adr.DRT_STATUS, 0, 0⟩
def F.DRT_REGION_BASE.BASE : IoField := ⟨Adr.DRT_REGION_BASE, 47, 20⟩
def F.DRT_REGION_BASE.SIZE_MIB : IoField := ⟨Adr.DRT_REGION_BASE, 4, 0⟩
def F.DRT_TABLES.RSETS : IoField := ⟨Adr.DRT_TABLES, 29, 17⟩
def F.DRT_TABLES.TASKS : IoField := ⟨Adr.DRT_TABLES, 16, 0⟩
def F.DRT_CMD.STAGING : IoField := ⟨Adr.DRT_CMD, 47, 32⟩
def F.DRT_CMD.INDEX : IoField := ⟨Adr.DRT_CMD, 31, 16⟩
def F.DRT_CMD.FLUSH : IoField := ⟨Adr.DRT_CMD, 4, 4⟩
def F.DRT_CMD.OP : IoField := ⟨Adr.DRT_CMD, 3, 1⟩
def F.DRT_CMD.GO : IoField := ⟨Adr.DRT_CMD, 0, 0⟩
def F.DRT_CMD_STATUS.BUSY : IoField := ⟨Adr.DRT_CMD_STATUS, 31, 31⟩
def F.DRT_CMD_STATUS.RESULT : IoField := ⟨Adr.DRT_CMD_STATUS, 7, 0⟩
def F.DRT_RELEASE.INDEX : IoField := ⟨Adr.DRT_RELEASE, 15, 0⟩
def F.DRT_QUERY_INDEX.INDEX : IoField := ⟨Adr.DRT_QUERY_INDEX, 15, 0⟩
def F.DRT_QUERY.SKIPS : IoField := ⟨Adr.DRT_QUERY, 31, 16⟩
def F.DRT_QUERY.ATTEMPT : IoField := ⟨Adr.DRT_QUERY, 5, 3⟩
def F.DRT_QUERY.STATE : IoField := ⟨Adr.DRT_QUERY, 2, 0⟩
def F.DRT_QUERY_NEXT.TIME : IoField := ⟨Adr.DRT_QUERY_NEXT, 63, 0⟩
def F.DRT_EVT_COUNTS.DEADLINE_MISS : IoField := ⟨Adr.DRT_EVT_COUNTS, 63, 52⟩
def F.DRT_EVT_COUNTS.OVERRUN : IoField := ⟨Adr.DRT_EVT_COUNTS, 51, 40⟩
def F.DRT_EVT_COUNTS.SKIPPED : IoField := ⟨Adr.DRT_EVT_COUNTS, 39, 28⟩
def F.DRT_EVT_COUNTS.LATE : IoField := ⟨Adr.DRT_EVT_COUNTS, 27, 16⟩
def F.DRT_EVT_COUNTS.DROPPED : IoField := ⟨Adr.DRT_EVT_COUNTS, 15, 0⟩
def F.DRT_DSP_CTL.LQ_FILL : IoField := ⟨Adr.DRT_DSP_CTL, 11, 8⟩
def F.DRT_DSP_CTL.T2_EN : IoField := ⟨Adr.DRT_DSP_CTL, 2, 2⟩
def F.DRT_DSP_CTL.T1_EN : IoField := ⟨Adr.DRT_DSP_CTL, 1, 1⟩
def F.DRT_DSP_STATUS.LAND_WAIT : IoField := ⟨Adr.DRT_DSP_STATUS, 2, 2⟩
def F.DRT_DSP_STATUS.NO_GAL : IoField := ⟨Adr.DRT_DSP_STATUS, 1, 1⟩
def F.DRT_DSP_STATUS.RQ_FULL : IoField := ⟨Adr.DRT_DSP_STATUS, 0, 0⟩
def F.DRT_GAL_POOL.POOL : IoField := ⟨Adr.DRT_GAL_POOL, 63, 0⟩
def F.DRT_GAL_EXPORT.EXPORT : IoField := ⟨Adr.DRT_GAL_EXPORT, 63, 0⟩
def F.DRT_GAL_IMPORT.IMPORT : IoField := ⟨Adr.DRT_GAL_IMPORT, 63, 0⟩
def F.DRT_PCLASS_LVL.LVL3 : IoField := ⟨Adr.DRT_PCLASS_LVL, 15, 12⟩
def F.DRT_PCLASS_LVL.LVL2 : IoField := ⟨Adr.DRT_PCLASS_LVL, 11, 8⟩
def F.DRT_PCLASS_LVL.LVL1 : IoField := ⟨Adr.DRT_PCLASS_LVL, 7, 4⟩
def F.DRT_PCLASS_LVL.LVL0 : IoField := ⟨Adr.DRT_PCLASS_LVL, 3, 0⟩
def F.DRT_DSP_COUNTS.T1_STEALS : IoField := ⟨Adr.DRT_DSP_COUNTS, 63, 48⟩
def F.DRT_DSP_COUNTS.T2_STEALS : IoField := ⟨Adr.DRT_DSP_COUNTS, 47, 32⟩
def F.DRT_DSP_COUNTS.RETRIES : IoField := ⟨Adr.DRT_DSP_COUNTS, 31, 16⟩
def F.DRT_DSP_COUNTS.EXHAUSTED : IoField := ⟨Adr.DRT_DSP_COUNTS, 15, 0⟩
def F.DRT_SAVE_BASE.BASE : IoField := ⟨Adr.DRT_SAVE_BASE, 47, 20⟩
def F.DRT_HWR_POOL.POOL (k : Nat) : IoField := ⟨Adr.DRT_HWR_POOL k, 63, 0⟩
def F.DRT_GAL_STATUS.SAVED (g : Nat) : IoField := ⟨Adr.DRT_GAL_STATUS g, 47, 40⟩
def F.DRT_GAL_STATUS.IN_POOL (g : Nat) : IoField := ⟨Adr.DRT_GAL_STATUS g, 39, 32⟩
def F.DRT_GAL_STATUS.LAND_FREE (g : Nat) : IoField := ⟨Adr.DRT_GAL_STATUS g, 27, 16⟩
def F.DRT_GAL_STATUS.READY_COUNT (g : Nat) : IoField := ⟨Adr.DRT_GAL_STATUS g, 8, 0⟩
def F.HWR_IOGRANT.BASE (h n : Nat) : IoField := ⟨Adr.HWR_IOGRANT h n, 63, 32⟩
def F.HWR_IOGRANT.SIZE (h n : Nat) : IoField := ⟨Adr.HWR_IOGRANT h n, 20, 16⟩
def F.HWR_IOGRANT.WR (h n : Nat) : IoField := ⟨Adr.HWR_IOGRANT h n, 2, 2⟩
def F.HWR_IOGRANT.RD (h n : Nat) : IoField := ⟨Adr.HWR_IOGRANT h n, 1, 1⟩
def F.HWR_IOGRANT.EN (h n : Nat) : IoField := ⟨Adr.HWR_IOGRANT h n, 0, 0⟩
def F.CFG_CDT_INDEX.INC : IoField := ⟨Adr.CFG_CDT_INDEX, 31, 31⟩
def F.CFG_CDT_INDEX.ADDR : IoField := ⟨Adr.CFG_CDT_INDEX, 11, 0⟩
def F.CFG_CDT_STATUS.GEN : IoField := ⟨Adr.CFG_CDT_STATUS, 31, 16⟩
def F.CFG_CDT_STATUS.REJ : IoField := ⟨Adr.CFG_CDT_STATUS, 1, 1⟩
def F.CFG_CDT_STATUS.BUSY : IoField := ⟨Adr.CFG_CDT_STATUS, 0, 0⟩
def F.CFG_CDT_WORD.WORD : IoField := ⟨Adr.CFG_CDT_WORD, 63, 0⟩
def F.CFG_CDT_ENTRY.V (n : Nat) : IoField := ⟨Adr.CFG_CDT_ENTRY n, 63, 63⟩
def F.CFG_CDT_ENTRY.UOK (n : Nat) : IoField := ⟨Adr.CFG_CDT_ENTRY n, 62, 62⟩
def F.CFG_CDT_ENTRY.DK (n : Nat) : IoField := ⟨Adr.CFG_CDT_ENTRY n, 61, 60⟩
def F.CFG_CDT_ENTRY.AK (n : Nat) : IoField := ⟨Adr.CFG_CDT_ENTRY n, 59, 58⟩
def F.CFG_CDT_ENTRY.BK (n : Nat) : IoField := ⟨Adr.CFG_CDT_ENTRY n, 57, 56⟩
def F.CFG_CDT_ENTRY.MEM (n : Nat) : IoField := ⟨Adr.CFG_CDT_ENTRY n, 55, 55⟩
def F.CFG_CDT_ENTRY.LEN (n : Nat) : IoField := ⟨Adr.CFG_CDT_ENTRY n, 23, 12⟩
def F.CFG_CDT_ENTRY.START (n : Nat) : IoField := ⟨Adr.CFG_CDT_ENTRY n, 11, 0⟩
def F.HWR_IPEND.TA (h : Nat) : IoField := ⟨Adr.HWR_IPEND h, 7, 7⟩
def F.HWR_IPEND.PEND (h : Nat) : IoField := ⟨Adr.HWR_IPEND h, 6, 0⟩
def F.HWR_IENA.ROUTE (h : Nat) : IoField := ⟨Adr.HWR_IENA h, 14, 8⟩
def F.HWR_IENA.EN (h : Nat) : IoField := ⟨Adr.HWR_IENA h, 6, 0⟩
def F.HWR_ILVL.VT (h : Nat) : IoField := ⟨Adr.HWR_ILVL h, 19, 16⟩
def F.HWR_ILVL.TLY (h : Nat) : IoField := ⟨Adr.HWR_ILVL h, 15, 12⟩
def F.HWR_ILVL.FLT (h : Nat) : IoField := ⟨Adr.HWR_ILVL h, 11, 8⟩
def F.HWR_ILVL.ADT (h : Nat) : IoField := ⟨Adr.HWR_ILVL h, 7, 4⟩
def F.HWR_ILVL.CPW (h : Nat) : IoField := ⟨Adr.HWR_ILVL h, 3, 0⟩
def F.HWR_PTC_PEND.LVL (h : Nat) : IoField := ⟨Adr.HWR_PTC_PEND h, 15, 0⟩
def F.HWR_IHI_SET.LEVEL (h : Nat) : IoField := ⟨Adr.HWR_IHI_SET h, 3, 0⟩
def F.HWR_IHI_PEND.LVL (h : Nat) : IoField := ⟨Adr.HWR_IHI_PEND h, 15, 0⟩
def F.HWR_XROUTE.ROUTE (h : Nat) : IoField := ⟨Adr.HWR_XROUTE h, 31, 0⟩
def F.CAN_GRACE.GRACE : IoField := ⟨Adr.CAN_GRACE, 23, 0⟩
def F.CAN_DEV_CTL.EN : IoField := ⟨Adr.CAN_DEV_CTL, 31, 31⟩
def F.CAN_DEV_CTL.TIMEOUT : IoField := ⟨Adr.CAN_DEV_CTL, 23, 0⟩
def F.CAN_DEV_KICK.KEY : IoField := ⟨Adr.CAN_DEV_KICK, 15, 0⟩
def F.CAN_DEV_STAT.EXPIRED : IoField := ⟨Adr.CAN_DEV_STAT, 31, 31⟩
def F.CAN_DEV_STAT.HELD : IoField := ⟨Adr.CAN_DEV_STAT, 30, 30⟩
def F.CAN_DEV_STAT.BADKICK : IoField := ⟨Adr.CAN_DEV_STAT, 29, 29⟩
def F.CAN_DEV_STAT.PREWARN : IoField := ⟨Adr.CAN_DEV_STAT, 28, 28⟩
def F.CAN_DEV_STAT.REMAIN : IoField := ⟨Adr.CAN_DEV_STAT, 23, 0⟩
def F.CAN_HWR_CTL.EN (h : Nat) : IoField := ⟨Adr.CAN_HWR_CTL h, 31, 31⟩
def F.CAN_HWR_CTL.TIMEOUT (h : Nat) : IoField := ⟨Adr.CAN_HWR_CTL h, 23, 0⟩
def F.CAN_HWR_KICK.KICK (h : Nat) : IoField := ⟨Adr.CAN_HWR_KICK h, 0, 0⟩
def F.CAN_HWR_STAT.EXPIRED (h : Nat) : IoField := ⟨Adr.CAN_HWR_STAT h, 31, 31⟩
def F.CAN_HWR_STAT.FROZEN (h : Nat) : IoField := ⟨Adr.CAN_HWR_STAT h, 30, 30⟩
def F.CAN_HWR_STAT.BADKICK (h : Nat) : IoField := ⟨Adr.CAN_HWR_STAT h, 29, 29⟩
def F.CAN_HWR_STAT.PREWARN (h : Nat) : IoField := ⟨Adr.CAN_HWR_STAT h, 28, 28⟩
def F.CAN_HWR_STAT.REMAIN (h : Nat) : IoField := ⟨Adr.CAN_HWR_STAT h, 23, 0⟩
def F.MEM_L2_ALLOC.WAYS (c : Nat) : IoField := ⟨Adr.MEM_L2_ALLOC c, 15, 4⟩
def F.MEM_L2_LOCK.WAYS : IoField := ⟨Adr.MEM_L2_LOCK, 15, 4⟩
def F.MEM_L2_PLD_ADDR.ADDR : IoField := ⟨Adr.MEM_L2_PLD_ADDR, 47, 6⟩
def F.MEM_L2_PLD_GAL.GAL : IoField := ⟨Adr.MEM_L2_PLD_GAL, 63, 0⟩
def F.MEM_L2_PLD_CTL.LINES : IoField := ⟨Adr.MEM_L2_PLD_CTL, 31, 16⟩
def F.MEM_L2_PLD_CTL.WAY : IoField := ⟨Adr.MEM_L2_PLD_CTL, 11, 8⟩
def F.MEM_L2_PLD_CTL.GO : IoField := ⟨Adr.MEM_L2_PLD_CTL, 0, 0⟩
def F.MEM_L2_PLD_STAT.ERR : IoField := ⟨Adr.MEM_L2_PLD_STAT, 1, 1⟩
def F.MEM_L2_PLD_STAT.BUSY : IoField := ⟨Adr.MEM_L2_PLD_STAT, 0, 0⟩
def F.MEM_CODE_COUNTS.CORRECTED : IoField := ⟨Adr.MEM_CODE_COUNTS, 63, 32⟩
def F.MEM_CODE_COUNTS.UNCORRECTED : IoField := ⟨Adr.MEM_CODE_COUNTS, 31, 16⟩
def F.MEM_CODE_COUNTS.POISONED : IoField := ⟨Adr.MEM_CODE_COUNTS, 15, 0⟩
def F.MEM_CTL.PP_IDLE : IoField := ⟨Adr.MEM_CTL, 23, 16⟩
def F.MEM_CTL.GRAIN : IoField := ⟨Adr.MEM_CTL, 11, 8⟩
def F.MEM_CTL.HASH : IoField := ⟨Adr.MEM_CTL, 4, 4⟩
def F.MEM_CTL.REF_PB : IoField := ⟨Adr.MEM_CTL, 0, 0⟩
def F.MEM_SCHED.POSTPONE_MAX : IoField := ⟨Adr.MEM_SCHED, 15, 12⟩
def F.MEM_SCHED.AGE_CAP : IoField := ⟨Adr.MEM_SCHED, 9, 0⟩
def F.MEM_STATUS.TRAIN_FAIL : IoField := ⟨Adr.MEM_STATUS, 3, 3⟩
def F.MEM_STATUS.D4_READY : IoField := ⟨Adr.MEM_STATUS, 2, 2⟩
def F.MEM_STATUS.D3_READY : IoField := ⟨Adr.MEM_STATUS, 1, 1⟩
def F.MEM_TRN_CTL.TRN_EN : IoField := ⟨Adr.MEM_TRN_CTL, 31, 31⟩
def F.MEM_TRN_CTL.INTERVAL_MS : IoField := ⟨Adr.MEM_TRN_CTL, 15, 0⟩
def F.MEM_FDP_CTL.FDP_EN : IoField := ⟨Adr.MEM_FDP_CTL, 31, 31⟩
def F.MEM_FDP_CTL.FDP_THRESH : IoField := ⟨Adr.MEM_FDP_CTL, 29, 16⟩
def F.MEM_FDP_CTL.FDP_INTERVAL : IoField := ⟨Adr.MEM_FDP_CTL, 9, 0⟩
def F.MEM_FDP_COUNTS.THROTTLED_ACTS : IoField := ⟨Adr.MEM_FDP_COUNTS, 63, 32⟩
def F.MEM_FDP_COUNTS.TRIGGERS : IoField := ⟨Adr.MEM_FDP_COUNTS, 31, 16⟩
def F.MEM_FDP_COUNTS.BANK_THROTTLES : IoField := ⟨Adr.MEM_FDP_COUNTS, 15, 0⟩
def F.MEM_UE_LOG.VALID : IoField := ⟨Adr.MEM_UE_LOG, 63, 63⟩
def F.MEM_UE_LOG.MARKED : IoField := ⟨Adr.MEM_UE_LOG, 62, 62⟩
def F.MEM_UE_LOG.CHANNEL : IoField := ⟨Adr.MEM_UE_LOG, 60, 56⟩
def F.MEM_UE_LOG.BANK : IoField := ⟨Adr.MEM_UE_LOG, 55, 52⟩
def F.MEM_UE_LOG.ROW : IoField := ⟨Adr.MEM_UE_LOG, 51, 34⟩
def F.MEM_UE_LOG.COLUMN : IoField := ⟨Adr.MEM_UE_LOG, 33, 29⟩
def F.MEM_UE_LOG.CW : IoField := ⟨Adr.MEM_UE_LOG, 28, 28⟩
def F.MEM_UE_LOG.SOURCE : IoField := ⟨Adr.MEM_UE_LOG, 27, 16⟩
def F.MEM_UE_LOG.PINS : IoField := ⟨Adr.MEM_UE_LOG, 15, 0⟩
def F.MEM_CE_LOG.VALID : IoField := ⟨Adr.MEM_CE_LOG, 63, 63⟩
def F.MEM_CE_LOG.MARKED : IoField := ⟨Adr.MEM_CE_LOG, 62, 62⟩
def F.MEM_CE_LOG.CHANNEL : IoField := ⟨Adr.MEM_CE_LOG, 60, 56⟩
def F.MEM_CE_LOG.BANK : IoField := ⟨Adr.MEM_CE_LOG, 55, 52⟩
def F.MEM_CE_LOG.ROW : IoField := ⟨Adr.MEM_CE_LOG, 51, 34⟩
def F.MEM_CE_LOG.COLUMN : IoField := ⟨Adr.MEM_CE_LOG, 33, 29⟩
def F.MEM_CE_LOG.CW : IoField := ⟨Adr.MEM_CE_LOG, 28, 28⟩
def F.MEM_CE_LOG.SOURCE : IoField := ⟨Adr.MEM_CE_LOG, 27, 16⟩
def F.MEM_CE_LOG.PINS : IoField := ⟨Adr.MEM_CE_LOG, 15, 0⟩
def F.MEM_CH_STATUS.TRAINED (c : Nat) : IoField := ⟨Adr.MEM_CH_STATUS c, 31, 31⟩
def F.MEM_CH_STATUS.SELF_REF (c : Nat) : IoField := ⟨Adr.MEM_CH_STATUS c, 30, 30⟩
def F.MEM_CH_STATUS.BANK_THR (c : Nat) : IoField := ⟨Adr.MEM_CH_STATUS c, 15, 15⟩
def F.MEM_CH_STATUS.THROTTLES (c : Nat) : IoField := ⟨Adr.MEM_CH_STATUS c, 14, 8⟩
def F.MEM_CH_STATUS.RATE (c : Nat) : IoField := ⟨Adr.MEM_CH_STATUS c, 6, 4⟩
def F.MEM_CH_STATUS.DEBT (c : Nat) : IoField := ⟨Adr.MEM_CH_STATUS c, 3, 0⟩
def F.MEM_CH_PP_FORCE.FORCE (c : Nat) : IoField := ⟨Adr.MEM_CH_PP_FORCE c, 31, 0⟩
def F.MEM_CH_ERR_COUNTS.CORRECTED (c : Nat) : IoField := ⟨Adr.MEM_CH_ERR_COUNTS c, 63, 32⟩
def F.MEM_CH_ERR_COUNTS.UNCORRECTED (c : Nat) : IoField := ⟨Adr.MEM_CH_ERR_COUNTS c, 31, 16⟩
def F.MEM_CH_ERR_COUNTS.RFM (c : Nat) : IoField := ⟨Adr.MEM_CH_ERR_COUNTS c, 15, 0⟩
def F.MEM_CH_FDP_LOG.VALID (c : Nat) : IoField := ⟨Adr.MEM_CH_FDP_LOG c, 63, 63⟩
def F.MEM_CH_FDP_LOG.BANK (c : Nat) : IoField := ⟨Adr.MEM_CH_FDP_LOG c, 51, 48⟩
def F.MEM_CH_FDP_LOG.ROW (c : Nat) : IoField := ⟨Adr.MEM_CH_FDP_LOG c, 47, 30⟩
def F.MEM_CH_FDP_LOG.CAND (c : Nat) : IoField := ⟨Adr.MEM_CH_FDP_LOG c, 29, 18⟩
def F.MEM_CH_FDP_LOG.VOTE (c : Nat) : IoField := ⟨Adr.MEM_CH_FDP_LOG c, 13, 0⟩
def F.MEM_CH_TRAIN.VREF_DQ (c : Nat) : IoField := ⟨Adr.MEM_CH_TRAIN c, 55, 48⟩
def F.MEM_CH_TRAIN.VREF_CA (c : Nat) : IoField := ⟨Adr.MEM_CH_TRAIN c, 47, 40⟩
def F.MEM_CH_TRAIN.WCK2CK (c : Nat) : IoField := ⟨Adr.MEM_CH_TRAIN c, 39, 32⟩
def F.MEM_CH_TRAIN.RD_DELAY (c : Nat) : IoField := ⟨Adr.MEM_CH_TRAIN c, 31, 16⟩
def F.MEM_CH_TRAIN.WR_DELAY (c : Nat) : IoField := ⟨Adr.MEM_CH_TRAIN c, 15, 0⟩
def F.SKP_ACTIVE.ACTIVE : IoField := ⟨Adr.SKP_ACTIVE, 63, 0⟩
def F.SKP_COUNTS.POISONED : IoField := ⟨Adr.SKP_COUNTS, 63, 32⟩
def F.SKP_COUNTS.RETRIES : IoField := ⟨Adr.SKP_COUNTS, 31, 16⟩
def F.SKP_COUNTS.HALTS : IoField := ⟨Adr.SKP_COUNTS, 15, 0⟩
def F.SKP_CH_CTL.RATE (n : Nat) : IoField := ⟨Adr.SKP_CH_CTL n, 24, 16⟩
def F.SKP_CH_CTL.OWNER (n : Nat) : IoField := ⟨Adr.SKP_CH_CTL n, 13, 8⟩
def F.SKP_CH_CTL.RETRY_MAX (n : Nat) : IoField := ⟨Adr.SKP_CH_CTL n, 6, 4⟩
def F.SKP_CH_CTL.DIS (n : Nat) : IoField := ⟨Adr.SKP_CH_CTL n, 0, 0⟩
def F.SKP_CH_STAT.GEN (n : Nat) : IoField := ⟨Adr.SKP_CH_STAT n, 31, 24⟩
def F.SKP_CH_STAT.ERR (n : Nat) : IoField := ⟨Adr.SKP_CH_STAT n, 15, 8⟩
def F.SKP_CH_STAT.CFG_REJ (n : Nat) : IoField := ⟨Adr.SKP_CH_STAT n, 4, 4⟩
def F.SKP_CH_STAT.HALT (n : Nat) : IoField := ⟨Adr.SKP_CH_STAT n, 3, 3⟩
def F.SKP_CH_STAT.STATE (n : Nat) : IoField := ⟨Adr.SKP_CH_STAT n, 1, 0⟩
def F.SKP_CH_HANDOVER_COUNT.COUNT (n : Nat) : IoField := ⟨Adr.SKP_CH_HANDOVER_COUNT n, 31, 0⟩
def F.SKP_CH_SHADOW_VALID.VALID (n : Nat) : IoField := ⟨Adr.SKP_CH_SHADOW_VALID n, 0, 0⟩
def F.SKP_CH_REM.ROWS_DONE (n : Nat) : IoField := ⟨Adr.SKP_CH_REM n, 47, 32⟩
def F.SKP_CH_REM.BYTES_DONE (n : Nat) : IoField := ⟨Adr.SKP_CH_REM n, 23, 0⟩
def F.SKP_CH_BURST.BURST (n : Nat) : IoField := ⟨Adr.SKP_CH_BURST n, 16, 0⟩
def F.SKP_CH_ERR_ADDR.ADDR (n : Nat) : IoField := ⟨Adr.SKP_CH_ERR_ADDR n, 47, 0⟩
def F.SKP_CH_S_SRC.ADDR (n : Nat) : IoField := ⟨Adr.SKP_CH_S_SRC n, 47, 0⟩
def F.SKP_CH_S_DST.ADDR (n : Nat) : IoField := ⟨Adr.SKP_CH_S_DST n, 47, 0⟩
def F.SKP_CH_S_SIZE.ROWS (n : Nat) : IoField := ⟨Adr.SKP_CH_S_SIZE n, 47, 32⟩
def F.SKP_CH_S_SIZE.ROW_BYTES (n : Nat) : IoField := ⟨Adr.SKP_CH_S_SIZE n, 23, 0⟩
def F.SKP_CH_S_STRIDE.SRC_STRIDE (n : Nat) : IoField := ⟨Adr.SKP_CH_S_STRIDE n, 63, 32⟩
def F.SKP_CH_S_STRIDE.DST_STRIDE (n : Nat) : IoField := ⟨Adr.SKP_CH_S_STRIDE n, 31, 0⟩
def F.SKP_CH_S_CPL.ADDR (n : Nat) : IoField := ⟨Adr.SKP_CH_S_CPL n, 47, 5⟩
def F.SKP_CH_S_OPT.TAG (n : Nat) : IoField := ⟨Adr.SKP_CH_S_OPT n, 47, 32⟩
def F.SKP_CH_S_OPT.MSIX_VEC (n : Nat) : IoField := ⟨Adr.SKP_CH_S_OPT n, 15, 8⟩
def F.SKP_CH_S_OPT.MSIX_EN (n : Nat) : IoField := ⟨Adr.SKP_CH_S_OPT n, 2, 2⟩
def F.SKP_CH_S_OPT.CPL_EN (n : Nat) : IoField := ⟨Adr.SKP_CH_S_OPT n, 1, 1⟩
def F.SKP_CH_S_OPT.CLASS (n : Nat) : IoField := ⟨Adr.SKP_CH_S_OPT n, 0, 0⟩
def F.PLK_CTL.ETHERTYPE : IoField := ⟨Adr.PLK_CTL, 31, 16⟩
def F.PLK_PARTNER.PORTS : IoField := ⟨Adr.PLK_PARTNER, 31, 24⟩
def F.PLK_PARTNER.LOSS : IoField := ⟨Adr.PLK_PARTNER, 19, 16⟩
def F.PLK_PARTNER.PERIOD_US : IoField := ⟨Adr.PLK_PARTNER, 15, 0⟩
def F.PLK_PARTNER_STAT.LOST : IoField := ⟨Adr.PLK_PARTNER_STAT, 31, 31⟩
def F.PLK_PARTNER_STAT.SEEN : IoField := ⟨Adr.PLK_PARTNER_STAT, 30, 30⟩
def F.PLK_PARTNER_STAT.PEER_MODE : IoField := ⟨Adr.PLK_PARTNER_STAT, 29, 27⟩
def F.PLK_PARTNER_STAT.RX_COUNT : IoField := ⟨Adr.PLK_PARTNER_STAT, 15, 0⟩
def F.PLK_EGR_INDEX.ENTRY : IoField := ⟨Adr.PLK_EGR_INDEX, 12, 0⟩
def F.PLK_EGR_DATA.DATA (k : Nat) : IoField := ⟨Adr.PLK_EGR_DATA k, 63, 0⟩
def F.PLK_MGMT_RX.BASE : IoField := ⟨Adr.PLK_MGMT_RX, 47, 12⟩
def F.PLK_MGMT_RX.SIZE : IoField := ⟨Adr.PLK_MGMT_RX, 3, 0⟩
def F.PLK_MGMT_TX.BASE : IoField := ⟨Adr.PLK_MGMT_TX, 47, 12⟩
def F.PLK_MGMT_TX.SIZE : IoField := ⟨Adr.PLK_MGMT_TX, 3, 0⟩
def F.PLK_MGMT_RX_PTR.TAIL : IoField := ⟨Adr.PLK_MGMT_RX_PTR, 31, 16⟩
def F.PLK_MGMT_RX_PTR.HEAD : IoField := ⟨Adr.PLK_MGMT_RX_PTR, 15, 0⟩
def F.PLK_MGMT_TX_PTR.TAIL : IoField := ⟨Adr.PLK_MGMT_TX_PTR, 31, 16⟩
def F.PLK_MGMT_TX_PTR.HEAD : IoField := ⟨Adr.PLK_MGMT_TX_PTR, 15, 0⟩
def F.PLK_WIN_LAST.TIME (w : Nat) : IoField := ⟨Adr.PLK_WIN_LAST w, 63, 0⟩
def F.PLK_PORT_CTL.EN (n : Nat) : IoField := ⟨Adr.PLK_PORT_CTL n, 31, 31⟩
def F.PLK_PORT_CTL.RATE (n : Nat) : IoField := ⟨Adr.PLK_PORT_CTL n, 29, 28⟩
def F.PLK_PORT_CTL.FEC (n : Nat) : IoField := ⟨Adr.PLK_PORT_CTL n, 27, 26⟩
def F.PLK_PORT_CTL.AN (n : Nat) : IoField := ⟨Adr.PLK_PORT_CTL n, 25, 25⟩
def F.PLK_PORT_CTL.JUMBO (n : Nat) : IoField := ⟨Adr.PLK_PORT_CTL n, 24, 24⟩
def F.PLK_PORT_CTL.PASS (n : Nat) : IoField := ⟨Adr.PLK_PORT_CTL n, 23, 23⟩
def F.PLK_PORT_CTL.FAILOVER (n : Nat) : IoField := ⟨Adr.PLK_PORT_CTL n, 22, 22⟩
def F.PLK_PORT_CTL.ALT_PORT (n : Nat) : IoField := ⟨Adr.PLK_PORT_CTL n, 21, 19⟩
def F.PLK_PORT_STATUS.LINK (n : Nat) : IoField := ⟨Adr.PLK_PORT_STATUS n, 31, 31⟩
def F.PLK_PORT_STATUS.LINK_DOWN (n : Nat) : IoField := ⟨Adr.PLK_PORT_STATUS n, 30, 30⟩
def F.PLK_PORT_STATUS.GCL_PEND (n : Nat) : IoField := ⟨Adr.PLK_PORT_STATUS n, 29, 29⟩
def F.PLK_PORT_STATUS.GCL_ERR (n : Nat) : IoField := ⟨Adr.PLK_PORT_STATUS n, 28, 28⟩
def F.PLK_PORT_MAC.ADDR (n : Nat) : IoField := ⟨Adr.PLK_PORT_MAC n, 47, 0⟩
def F.PLK_PORT_GCL_BASE.BASE (n : Nat) : IoField := ⟨Adr.PLK_PORT_GCL_BASE n, 63, 0⟩
def F.PLK_PORT_GCL_CYCLE.CYCLE_NS (n : Nat) : IoField := ⟨Adr.PLK_PORT_GCL_CYCLE n, 31, 0⟩
def F.PLK_PORT_GCL_CTL.COMMIT (n : Nat) : IoField := ⟨Adr.PLK_PORT_GCL_CTL n, 31, 31⟩
def F.PLK_PORT_GCL_CTL.LEN (n : Nat) : IoField := ⟨Adr.PLK_PORT_GCL_CTL n, 8, 0⟩
def F.PLK_PORT_COUNTS.RX_DROP (n : Nat) : IoField := ⟨Adr.PLK_PORT_COUNTS n, 63, 48⟩
def F.PLK_PORT_COUNTS.OVERRUN (n : Nat) : IoField := ⟨Adr.PLK_PORT_COUNTS n, 47, 32⟩
def F.PLK_PORT_COUNTS.LATE_LAUNCH (n : Nat) : IoField := ⟨Adr.PLK_PORT_COUNTS n, 31, 16⟩
def F.PLK_PORT_COUNTS.EGR_DROP (n : Nat) : IoField := ⟨Adr.PLK_PORT_COUNTS n, 15, 0⟩
def F.PLK_PORT_GCL.GATES (n e : Nat) : IoField := ⟨Adr.PLK_PORT_GCL n e, 35, 32⟩
def F.PLK_PORT_GCL.INTERVAL_NS (n e : Nat) : IoField := ⟨Adr.PLK_PORT_GCL n e, 23, 0⟩
def F.HEP_CTL.SEL : IoField := ⟨Adr.HEP_CTL, 4, 0⟩
def F.HEP_STATUS.LINK_UP : IoField := ⟨Adr.HEP_STATUS, 31, 31⟩
def F.HEP_STATUS.RATE : IoField := ⟨Adr.HEP_STATUS, 30, 28⟩
def F.HEP_STATUS.WIDTH : IoField := ⟨Adr.HEP_STATUS, 27, 24⟩
def F.HEP_STATUS.REL_REJ : IoField := ⟨Adr.HEP_STATUS, 0, 0⟩
def F.HEP_ID.DEVICE : IoField := ⟨Adr.HEP_ID, 31, 16⟩
def F.HEP_ID.VENDOR : IoField := ⟨Adr.HEP_ID, 15, 0⟩
def F.HEP_BAR2.EN : IoField := ⟨Adr.HEP_BAR2, 63, 63⟩
def F.HEP_BAR2.BASE : IoField := ⟨Adr.HEP_BAR2, 47, 20⟩
def F.HEP_FREEZE.FROZEN : IoField := ⟨Adr.HEP_FREEZE, 63, 0⟩
def F.HEP_FREEZE_RELEASE.RELEASE : IoField := ⟨Adr.HEP_FREEZE_RELEASE, 63, 0⟩
def F.HEP_COUNTS.BAR_ERR : IoField := ⟨Adr.HEP_COUNTS, 63, 48⟩
def F.HEP_COUNTS.OUT_DROP : IoField := ⟨Adr.HEP_COUNTS, 47, 32⟩
def F.HEP_COUNTS.POISON_RX : IoField := ⟨Adr.HEP_COUNTS, 31, 24⟩
def F.HEP_COUNTS.UNEXP_CPL : IoField := ⟨Adr.HEP_COUNTS, 23, 12⟩
def F.HEP_COUNTS.FROZEN_WR : IoField := ⟨Adr.HEP_COUNTS, 11, 0⟩
def F.HEP_ERR_LOG_DW0.VALID (f : Nat) : IoField := ⟨Adr.HEP_ERR_LOG_DW0 f, 63, 63⟩
def F.HEP_ERR_LOG_DW0.COUNT (f : Nat) : IoField := ⟨Adr.HEP_ERR_LOG_DW0 f, 23, 8⟩
def F.HEP_ERR_LOG_DW0.CAUSE (f : Nat) : IoField := ⟨Adr.HEP_ERR_LOG_DW0 f, 7, 0⟩
def F.HEP_ERR_LOG_DW1.TIME (f : Nat) : IoField := ⟨Adr.HEP_ERR_LOG_DW1 f, 63, 0⟩
def F.HEP_ERR_LOG_DW2.HEADER (f : Nat) : IoField := ⟨Adr.HEP_ERR_LOG_DW2 f, 63, 0⟩
def F.HEP_ERR_LOG_DW3.HEADER (f : Nat) : IoField := ⟨Adr.HEP_ERR_LOG_DW3 f, 63, 0⟩
def F.HEP_OSEG.HBASE (f s : Nat) : IoField := ⟨Adr.HEP_OSEG f s, 63, 12⟩
def F.HEP_OSEG.CRIT (f s : Nat) : IoField := ⟨Adr.HEP_OSEG f s, 1, 1⟩
def F.HEP_OSEG.V (f s : Nat) : IoField := ⟨Adr.HEP_OSEG f s, 0, 0⟩
def F.ADT_POOL.EN : IoField := ⟨Adr.ADT_POOL, 63, 63⟩
def F.ADT_POOL.ERR : IoField := ⟨Adr.ADT_POOL, 62, 62⟩
def F.ADT_POOL.BASE : IoField := ⟨Adr.ADT_POOL, 47, 26⟩
def F.ADT_MBX_PEND.PEND : IoField := ⟨Adr.ADT_MBX_PEND, 63, 1⟩
def F.ADT_CMD_BUSY.BUSY : IoField := ⟨Adr.ADT_CMD_BUSY, 63, 1⟩
def F.ADT_QUIESCE.QUIESCE : IoField := ⟨Adr.ADT_QUIESCE, 63, 1⟩
def F.ADT_MGR_CTL.MSIX_EN : IoField := ⟨Adr.ADT_MGR_CTL, 8, 8⟩
def F.ADT_MGR_CTL.VEC : IoField := ⟨Adr.ADT_MGR_CTL, 7, 0⟩
def F.ADT_CMD.BUSY : IoField := ⟨Adr.ADT_CMD, 31, 31⟩
def F.ADT_CMD.RESULT : IoField := ⟨Adr.ADT_CMD, 23, 16⟩
def F.ADT_CMD.ADIT : IoField := ⟨Adr.ADT_CMD, 13, 8⟩
def F.ADT_CMD.OP : IoField := ⟨Adr.ADT_CMD, 2, 1⟩
def F.ADT_CMD.GO : IoField := ⟨Adr.ADT_CMD, 0, 0⟩
def F.ADT_ASGN_RES.QBASE (k : Nat) : IoField := ⟨Adr.ADT_ASGN_RES k, 63, 54⟩
def F.ADT_ASGN_RES.QCOUNT (k : Nat) : IoField := ⟨Adr.ADT_ASGN_RES k, 53, 45⟩
def F.ADT_ASGN_RES.CREDITS (k : Nat) : IoField := ⟨Adr.ADT_ASGN_RES k, 44, 33⟩
def F.ADT_ASGN_RES.BW (k : Nat) : IoField := ⟨Adr.ADT_ASGN_RES k, 32, 24⟩
def F.ADT_ASGN_RES.RMEM_OFF (k : Nat) : IoField := ⟨Adr.ADT_ASGN_RES k, 18, 9⟩
def F.ADT_ASGN_RES.RMEM_SIZE (k : Nat) : IoField := ⟨Adr.ADT_ASGN_RES k, 8, 0⟩
def F.ADT_ASGN_RANGE.R (k r : Nat) : IoField := ⟨Adr.ADT_ASGN_RANGE k r, 63, 63⟩
def F.ADT_ASGN_RANGE.W (k r : Nat) : IoField := ⟨Adr.ADT_ASGN_RANGE k r, 62, 62⟩
def F.ADT_ASGN_RANGE.FIRST (k r : Nat) : IoField := ⟨Adr.ADT_ASGN_RANGE k r, 49, 32⟩
def F.ADT_ASGN_RANGE.COUNT (k r : Nat) : IoField := ⟨Adr.ADT_ASGN_RANGE k r, 18, 0⟩
def F.ADT_MBX_TOMGR.DATA (k i : Nat) : IoField := ⟨Adr.ADT_MBX_TOMGR k i, 63, 0⟩
def F.ADT_MBX_TOVF.DATA (k i : Nat) : IoField := ⟨Adr.ADT_MBX_TOVF k i, 63, 0⟩
def F.ADT_MBX_CTL.BUSY (k : Nat) : IoField := ⟨Adr.ADT_MBX_CTL k, 16, 16⟩
def F.ADT_MBX_CTL.VF_READY (k : Nat) : IoField := ⟨Adr.ADT_MBX_CTL k, 9, 9⟩
def F.ADT_MBX_CTL.MGR_READY (k : Nat) : IoField := ⟨Adr.ADT_MBX_CTL k, 8, 8⟩
def F.ADT_MBX_CTL.ACK_MGR (k : Nat) : IoField := ⟨Adr.ADT_MBX_CTL k, 3, 3⟩
def F.ADT_MBX_CTL.RING_VF (k : Nat) : IoField := ⟨Adr.ADT_MBX_CTL k, 2, 2⟩
def F.ADT_MBX_CTL.ACK_VF (k : Nat) : IoField := ⟨Adr.ADT_MBX_CTL k, 1, 1⟩
def F.ADT_MBX_CTL.RING_MGR (k : Nat) : IoField := ⟨Adr.ADT_MBX_CTL k, 0, 0⟩
def F.ADT_STATUS.GEN (k : Nat) : IoField := ⟨Adr.ADT_STATUS k, 31, 24⟩
def F.ADT_STATUS.REJ (k : Nat) : IoField := ⟨Adr.ADT_STATUS k, 3, 3⟩
def F.ADT_STATUS.QUIESCED (k : Nat) : IoField := ⟨Adr.ADT_STATUS k, 2, 2⟩
def F.ADT_STATUS.CMD_BUSY (k : Nat) : IoField := ⟨Adr.ADT_STATUS k, 1, 1⟩
def F.ADT_STATUS.CREATED (k : Nat) : IoField := ⟨Adr.ADT_STATUS k, 0, 0⟩
def F.ADT_CMD_CREDIT.LIMIT (k : Nat) : IoField := ⟨Adr.ADT_CMD_CREDIT k, 27, 16⟩
def F.ADT_CMD_CREDIT.AVAIL (k : Nat) : IoField := ⟨Adr.ADT_CMD_CREDIT k, 11, 0⟩
def F.ADT_COUNTS.CMD_REJ (k : Nat) : IoField := ⟨Adr.ADT_COUNTS k, 63, 48⟩
def F.ADT_COUNTS.RANGE_REJ (k : Nat) : IoField := ⟨Adr.ADT_COUNTS k, 47, 32⟩
def F.ADT_COUNTS.Q_DROPPED (k : Nat) : IoField := ⟨Adr.ADT_COUNTS k, 31, 16⟩
def F.ADT_COUNTS.BAR_WR (k : Nat) : IoField := ⟨Adr.ADT_COUNTS k, 15, 0⟩
def F.ADT_Q_CFG.EN (k q : Nat) : IoField := ⟨Adr.ADT_Q_CFG k q, 63, 63⟩
def F.ADT_Q_CFG.TRIG (k q : Nat) : IoField := ⟨Adr.ADT_Q_CFG k q, 62, 61⟩
def F.ADT_Q_CFG.VEC (k q : Nat) : IoField := ⟨Adr.ADT_Q_CFG k q, 59, 56⟩
def F.ADT_Q_CFG.EVERY (k q : Nat) : IoField := ⟨Adr.ADT_Q_CFG k q, 55, 40⟩
def F.ADT_Q_CFG.COUNT (k q : Nat) : IoField := ⟨Adr.ADT_Q_CFG k q, 39, 29⟩
def F.ADT_Q_CFG.FIRST (k q : Nat) : IoField := ⟨Adr.ADT_Q_CFG k q, 17, 0⟩
def F.ADT_Q_RING.OFF (k q : Nat) : IoField := ⟨Adr.ADT_Q_RING k q, 47, 32⟩
def F.ADT_Q_RING.ENTRIES (k q : Nat) : IoField := ⟨Adr.ADT_Q_RING k q, 12, 0⟩
def F.ADT_Q_PTR.TAIL (k q : Nat) : IoField := ⟨Adr.ADT_Q_PTR k q, 47, 32⟩
def F.ADT_Q_PTR.HEAD (k q : Nat) : IoField := ⟨Adr.ADT_Q_PTR k q, 15, 0⟩
def F.ADT_Q_CTL.DROPPED (k q : Nat) : IoField := ⟨Adr.ADT_Q_CTL k q, 31, 16⟩
def F.ADT_Q_CTL.REJ (k q : Nat) : IoField := ⟨Adr.ADT_Q_CTL k q, 2, 2⟩
def F.ADT_Q_CTL.OVERRUN (k q : Nat) : IoField := ⟨Adr.ADT_Q_CTL k q, 1, 1⟩
def F.ADT_Q_CTL.GO (k q : Nat) : IoField := ⟨Adr.ADT_Q_CTL k q, 0, 0⟩
def F.ANM_CTL.DEC : IoField := ⟨Adr.ANM_CTL, 25, 16⟩
def F.ANM_STATUS.OVERRUN : IoField := ⟨Adr.ANM_STATUS, 1, 1⟩
def F.ANM_STATUS.READY : IoField := ⟨Adr.ANM_STATUS, 0, 0⟩
def F.ANM_AIN_PHASE.PHASE : IoField := ⟨Adr.ANM_AIN_PHASE, 63, 0⟩
def F.ANM_COUNTS.ENC_ERR : IoField := ⟨Adr.ANM_COUNTS, 63, 48⟩
def F.ANM_COUNTS.AIN_DROP : IoField := ⟨Adr.ANM_COUNTS, 47, 32⟩
def F.ANM_COUNTS.DIO_DROP : IoField := ⟨Adr.ANM_COUNTS, 31, 16⟩
def F.ANM_AIN_CFG.EN (n : Nat) : IoField := ⟨Adr.ANM_AIN_CFG n, 31, 31⟩
def F.ANM_AIN_CFG.FMT (n : Nat) : IoField := ⟨Adr.ANM_AIN_CFG n, 30, 30⟩
def F.ANM_AIN_SCALE.VALUE (n : Nat) : IoField := ⟨Adr.ANM_AIN_SCALE n, 63, 0⟩
def F.ANM_AIN_OFFSET.VALUE (n : Nat) : IoField := ⟨Adr.ANM_AIN_OFFSET n, 63, 0⟩
def F.ANM_ENC_CFG.EN (n : Nat) : IoField := ⟨Adr.ANM_ENC_CFG n, 31, 31⟩
def F.ANM_ENC_CFG.DIR (n : Nat) : IoField := ⟨Adr.ANM_ENC_CFG n, 30, 30⟩
def F.ANM_ENC_CFG.ZMODE (n : Nat) : IoField := ⟨Adr.ANM_ENC_CFG n, 29, 28⟩
def F.ANM_ENC_CFG.FILT (n : Nat) : IoField := ⟨Adr.ANM_ENC_CFG n, 7, 0⟩
def F.ANM_ENC_COUNT.COUNT (n : Nat) : IoField := ⟨Adr.ANM_ENC_COUNT n, 31, 0⟩
def F.ANM_DIO_CFG.EN (n : Nat) : IoField := ⟨Adr.ANM_DIO_CFG n, 31, 31⟩
def F.ANM_DIO_CFG.DIR (n : Nat) : IoField := ⟨Adr.ANM_DIO_CFG n, 30, 30⟩
def F.ANM_DIO_CFG.EDGE (n : Nat) : IoField := ⟨Adr.ANM_DIO_CFG n, 29, 28⟩
def F.ANM_DIO_CFG.INV (n : Nat) : IoField := ⟨Adr.ANM_DIO_CFG n, 27, 27⟩
def F.ANM_DIO_CFG.GROUP (n : Nat) : IoField := ⟨Adr.ANM_DIO_CFG n, 26, 24⟩
def F.ANM_DIO_CFG.BADQ (n : Nat) : IoField := ⟨Adr.ANM_DIO_CFG n, 23, 23⟩
def F.ANM_DIO_CFG.SAFE (n : Nat) : IoField := ⟨Adr.ANM_DIO_CFG n, 22, 22⟩
def F.ANM_DIO_CFG.SAFE_EN (n : Nat) : IoField := ⟨Adr.ANM_DIO_CFG n, 21, 21⟩
def F.ANM_DIO_CFG.FILT (n : Nat) : IoField := ⟨Adr.ANM_DIO_CFG n, 7, 0⟩
def F.ANM_DIO_SLOT.SLOT (n : Nat) : IoField := ⟨Adr.ANM_DIO_SLOT n, 17, 0⟩
def F.ANM_AOUT_CFG.EN (m : Nat) : IoField := ⟨Adr.ANM_AOUT_CFG m, 31, 31⟩
def F.ANM_AOUT_CFG.BADQ (m : Nat) : IoField := ⟨Adr.ANM_AOUT_CFG m, 30, 30⟩
def F.ANM_AOUT_CFG.SAFE_EN (m : Nat) : IoField := ⟨Adr.ANM_AOUT_CFG m, 29, 29⟩
def F.ANM_AOUT_CFG.SLOT (m : Nat) : IoField := ⟨Adr.ANM_AOUT_CFG m, 17, 0⟩
def F.ANM_PWM_CFG.EN (m : Nat) : IoField := ⟨Adr.ANM_PWM_CFG m, 31, 31⟩
def F.ANM_PWM_CFG.BADQ (m : Nat) : IoField := ⟨Adr.ANM_PWM_CFG m, 30, 30⟩
def F.ANM_PWM_CFG.SAFE_EN (m : Nat) : IoField := ⟨Adr.ANM_PWM_CFG m, 29, 29⟩
def F.ANM_PWM_CFG.SLOT (m : Nat) : IoField := ⟨Adr.ANM_PWM_CFG m, 17, 0⟩
def F.ANM_AOUT_SAFE.CODE (m : Nat) : IoField := ⟨Adr.ANM_AOUT_SAFE m, 15, 0⟩
def F.ANM_AOUT_CODE.DRIVEN (m : Nat) : IoField := ⟨Adr.ANM_AOUT_CODE m, 31, 31⟩
def F.ANM_AOUT_CODE.CODE (m : Nat) : IoField := ⟨Adr.ANM_AOUT_CODE m, 15, 0⟩
def F.ANM_PWM_PERIOD.CYCLES (m : Nat) : IoField := ⟨Adr.ANM_PWM_PERIOD m, 23, 0⟩
def F.ANM_PWM_SAFE.CYCLES (m : Nat) : IoField := ⟨Adr.ANM_PWM_SAFE m, 23, 0⟩
def F.FLT_CTL.MSIX_EN : IoField := ⟨Adr.FLT_CTL, 16, 16⟩
def F.FLT_CTL.VEC : IoField := ⟨Adr.FLT_CTL, 15, 8⟩
def F.FLT_CTL.LOG_CE : IoField := ⟨Adr.FLT_CTL, 0, 0⟩
def F.FLT_STATUS.SAFE_CAUSE : IoField := ⟨Adr.FLT_STATUS, 31, 24⟩
def F.FLT_STATUS.LOG_OFF : IoField := ⟨Adr.FLT_STATUS, 5, 5⟩
def F.FLT_STATUS.PARTNER_LOST : IoField := ⟨Adr.FLT_STATUS, 4, 4⟩
def F.FLT_STATUS.SHAFT_OFF : IoField := ⟨Adr.FLT_STATUS, 3, 3⟩
def F.FLT_STATUS.GALLERY_LOST : IoField := ⟨Adr.FLT_STATUS, 2, 2⟩
def F.FLT_STATUS.HEWER_REMOVED : IoField := ⟨Adr.FLT_STATUS, 1, 1⟩
def F.FLT_STATUS.DEG : IoField := ⟨Adr.FLT_STATUS, 0, 0⟩
def F.FLT_NOTIFY.PARTNER : IoField := ⟨Adr.FLT_NOTIFY, 4, 4⟩
def F.FLT_NOTIFY.MODE : IoField := ⟨Adr.FLT_NOTIFY, 3, 3⟩
def F.FLT_NOTIFY.ROW : IoField := ⟨Adr.FLT_NOTIFY, 2, 2⟩
def F.FLT_NOTIFY.LASTING : IoField := ⟨Adr.FLT_NOTIFY, 1, 1⟩
def F.FLT_NOTIFY.REC : IoField := ⟨Adr.FLT_NOTIFY, 0, 0⟩
def F.FLT_LOG_BASE.BASE : IoField := ⟨Adr.FLT_LOG_BASE, 47, 12⟩
def F.FLT_LOG_BASE.SIZE : IoField := ⟨Adr.FLT_LOG_BASE, 3, 0⟩
def F.FLT_LOG_PTR.TAIL : IoField := ⟨Adr.FLT_LOG_PTR, 31, 16⟩
def F.FLT_LOG_PTR.HEAD : IoField := ⟨Adr.FLT_LOG_PTR, 15, 0⟩
def F.FLT_COUNTS.TRANSIENT : IoField := ⟨Adr.FLT_COUNTS, 63, 48⟩
def F.FLT_COUNTS.LASTING : IoField := ⟨Adr.FLT_COUNTS, 47, 32⟩
def F.FLT_COUNTS.DROPPED : IoField := ⟨Adr.FLT_COUNTS, 31, 16⟩
def F.FLT_CLASS_WIN.THRESH (c : Nat) : IoField := ⟨Adr.FLT_CLASS_WIN c, 26, 24⟩
def F.FLT_CLASS_WIN.HOURS (c : Nat) : IoField := ⟨Adr.FLT_CLASS_WIN c, 15, 0⟩
def F.FLT_RETIRE.BUSY : IoField := ⟨Adr.FLT_RETIRE, 31, 31⟩
def F.FLT_RETIRE.RESULT : IoField := ⟨Adr.FLT_RETIRE, 30, 28⟩
def F.FLT_RETIRE.CLASS : IoField := ⟨Adr.FLT_RETIRE, 27, 26⟩
def F.FLT_RETIRE.OP : IoField := ⟨Adr.FLT_RETIRE, 25, 24⟩
def F.FLT_RETIRE.UNIT : IoField := ⟨Adr.FLT_RETIRE, 10, 1⟩
def F.FLT_RETIRE.GO : IoField := ⟨Adr.FLT_RETIRE, 0, 0⟩
def F.FLT_PARTNER.TAKE_UNREADY : IoField := ⟨Adr.FLT_PARTNER, 1, 1⟩
def F.FLT_PARTNER.EN : IoField := ⟨Adr.FLT_PARTNER, 0, 0⟩
def F.FLT_PARTNER_STAT.READY : IoField := ⟨Adr.FLT_PARTNER_STAT, 31, 31⟩
def F.FLT_PARTNER_STAT.DUAL_RUN : IoField := ⟨Adr.FLT_PARTNER_STAT, 30, 30⟩
def F.FLT_PARTNER_STAT.TAKEOVERS : IoField := ⟨Adr.FLT_PARTNER_STAT, 15, 0⟩
def F.FLT_GAL_MAP.WAYS_OFF (g : Nat) : IoField := ⟨Adr.FLT_GAL_MAP g, 63, 52⟩
def F.FLT_GAL_MAP.LOST (g : Nat) : IoField := ⟨Adr.FLT_GAL_MAP g, 48, 48⟩
def F.FLT_GAL_MAP.REMOVED (g : Nat) : IoField := ⟨Adr.FLT_GAL_MAP g, 47, 40⟩
def F.FLT_GAL_MAP.SPARE_OK (g : Nat) : IoField := ⟨Adr.FLT_GAL_MAP g, 36, 36⟩
def F.FLT_GAL_MAP.SPARE (g : Nat) : IoField := ⟨Adr.FLT_GAL_MAP g, 35, 32⟩
def F.FLT_GAL_MAP.POS (g : Nat) : IoField := ⟨Adr.FLT_GAL_MAP g, 31, 0⟩
def F.CFG_ID.DEVICE : IoField := ⟨Adr.CFG_ID, 63, 48⟩
def F.CFG_ID.STEPPING : IoField := ⟨Adr.CFG_ID, 47, 40⟩
def F.CFG_ID.VARIANT : IoField := ⟨Adr.CFG_ID, 35, 32⟩
def F.CFG_ID.DEVNUM : IoField := ⟨Adr.CFG_ID, 11, 0⟩
def F.CFG_MODE.REQ_REJ : IoField := ⟨Adr.CFG_MODE, 31, 31⟩
def F.CFG_MODE.ROLE_WAIT : IoField := ⟨Adr.CFG_MODE, 30, 30⟩
def F.CFG_MODE.GO : IoField := ⟨Adr.CFG_MODE, 7, 7⟩
def F.CFG_MODE.REQ : IoField := ⟨Adr.CFG_MODE, 6, 4⟩
def F.CFG_MODE.CUR : IoField := ⟨Adr.CFG_MODE, 2, 0⟩
def F.CFG_BOOT_STATUS.DONE : IoField := ⟨Adr.CFG_BOOT_STATUS, 31, 31⟩
def F.CFG_BOOT_STATUS.UNBOUND : IoField := ⟨Adr.CFG_BOOT_STATUS, 30, 30⟩
def F.CFG_BOOT_STATUS.ERR : IoField := ⟨Adr.CFG_BOOT_STATUS, 23, 16⟩
def F.CFG_BOOT_STATUS.SECTION : IoField := ⟨Adr.CFG_BOOT_STATUS, 15, 8⟩
def F.CFG_BOOT_STATUS.STAGE : IoField := ⟨Adr.CFG_BOOT_STATUS, 3, 0⟩
def F.CFG_BOOT_ENTRY.ENTRY : IoField := ⟨Adr.CFG_BOOT_ENTRY, 47, 2⟩
def F.CFG_RECOV_ENTRY.ENTRY : IoField := ⟨Adr.CFG_RECOV_ENTRY, 47, 2⟩
def F.CFG_IMAGE.VERSION : IoField := ⟨Adr.CFG_IMAGE, 63, 32⟩
def F.CFG_IMAGE.LENGTH_KIB : IoField := ⟨Adr.CFG_IMAGE, 31, 0⟩
def F.CFG_ST_RESULT.RAN : IoField := ⟨Adr.CFG_ST_RESULT, 63, 63⟩
def F.CFG_ST_RESULT.FATAL : IoField := ⟨Adr.CFG_ST_RESULT, 62, 62⟩
def F.CFG_ST_RESULT.TWINS : IoField := ⟨Adr.CFG_ST_RESULT, 51, 42⟩
def F.CFG_ST_RESULT.WAYS : IoField := ⟨Adr.CFG_ST_RESULT, 41, 32⟩
def F.CFG_ST_RESULT.CHANNELS : IoField := ⟨Adr.CFG_ST_RESULT, 31, 0⟩
def F.CFG_ROOTKEY_HASH.HASH (i : Nat) : IoField := ⟨Adr.CFG_ROOTKEY_HASH i, 63, 0⟩
def F.CFG_XSPI_CTL.BUSY : IoField := ⟨Adr.CFG_XSPI_CTL, 31, 31⟩
def F.CFG_XSPI_CTL.ERR : IoField := ⟨Adr.CFG_XSPI_CTL, 30, 30⟩
def F.CFG_XSPI_CTL.OP : IoField := ⟨Adr.CFG_XSPI_CTL, 3, 1⟩
def F.CFG_XSPI_CTL.GO : IoField := ⟨Adr.CFG_XSPI_CTL, 0, 0⟩
def F.CFG_XSPI_ADDR.ADDR : IoField := ⟨Adr.CFG_XSPI_ADDR, 31, 0⟩
def F.CFG_XSPI_INFO.MODE : IoField := ⟨Adr.CFG_XSPI_INFO, 31, 24⟩
def F.CFG_XSPI_INFO.SIZE_MIB : IoField := ⟨Adr.CFG_XSPI_INFO, 15, 0⟩
def F.CFG_XSPI_DATA.DATA (i : Nat) : IoField := ⟨Adr.CFG_XSPI_DATA i, 63, 0⟩
def F.PWR_DOM_REQ.REQ : IoField := ⟨Adr.PWR_DOM_REQ, 19, 1⟩
def F.PWR_DOM_REQ.D0 : IoField := ⟨Adr.PWR_DOM_REQ, 0, 0⟩
def F.PWR_DOM_STATE.ON : IoField := ⟨Adr.PWR_DOM_STATE, 19, 0⟩
def F.PWR_STATUS.REFUSED : IoField := ⟨Adr.PWR_STATUS, 31, 31⟩
def F.PWR_STATUS.TRIP : IoField := ⟨Adr.PWR_STATUS, 30, 30⟩
def F.PWR_STATUS.REF_REASON : IoField := ⟨Adr.PWR_STATUS, 23, 16⟩
def F.PWR_STATUS.REF_DOM : IoField := ⟨Adr.PWR_STATUS, 12, 8⟩
def F.PWR_STATUS.TRIP_SRC : IoField := ⟨Adr.PWR_STATUS, 7, 4⟩
def F.PWR_STATUS.BUSY : IoField := ⟨Adr.PWR_STATUS, 0, 0⟩
def F.PWR_THERM.TRIP_C : IoField := ⟨Adr.PWR_THERM, 31, 24⟩
def F.PWR_THERM.THROTTLE_C : IoField := ⟨Adr.PWR_THERM, 23, 16⟩
def F.PWR_THERM.HYST : IoField := ⟨Adr.PWR_THERM, 3, 0⟩
def F.PWR_TRIP_LOG.TIME : IoField := ⟨Adr.PWR_TRIP_LOG, 63, 0⟩
def F.PWR_SHAFT_CLK.CUR (s : Nat) : IoField := ⟨Adr.PWR_SHAFT_CLK s, 11, 10⟩
def F.PWR_SHAFT_CLK.FLOOR (s : Nat) : IoField := ⟨Adr.PWR_SHAFT_CLK s, 9, 8⟩
def F.PWR_SHAFT_CLK.DIV (s : Nat) : IoField := ⟨Adr.PWR_SHAFT_CLK s, 1, 0⟩
def F.PWR_TEMP.TEMP (n : Nat) : IoField := ⟨Adr.PWR_TEMP n, 15, 0⟩
def F.DBG_CTL.PF_EN : IoField := ⟨Adr.DBG_CTL, 1, 1⟩
def F.DBG_CTL.SWBP_EN : IoField := ⟨Adr.DBG_CTL, 0, 0⟩
def F.DBG_SESSION.PATH : IoField := ⟨Adr.DBG_SESSION, 31, 30⟩
def F.DBG_SESSION.LEVEL : IoField := ⟨Adr.DBG_SESSION, 29, 28⟩
def F.DBG_SESSION.RUN_OK : IoField := ⟨Adr.DBG_SESSION, 27, 27⟩
def F.DBG_SESSION.LOCKOUT : IoField := ⟨Adr.DBG_SESSION, 26, 26⟩
def F.DBG_SESSION.KEY : IoField := ⟨Adr.DBG_SESSION, 25, 24⟩
def F.DBG_SESSION.FAILS : IoField := ⟨Adr.DBG_SESSION, 23, 16⟩
def F.DBG_SESSION.HALT_SUPP : IoField := ⟨Adr.DBG_SESSION, 0, 0⟩
def F.DBG_AUTH_CTL.BUSY : IoField := ⟨Adr.DBG_AUTH_CTL, 31, 31⟩
def F.DBG_AUTH_CTL.RESULT : IoField := ⟨Adr.DBG_AUTH_CTL, 30, 28⟩
def F.DBG_AUTH_CTL.LEVEL : IoField := ⟨Adr.DBG_AUTH_CTL, 7, 6⟩
def F.DBG_AUTH_CTL.KEY : IoField := ⟨Adr.DBG_AUTH_CTL, 5, 4⟩
def F.DBG_AUTH_CTL.OP : IoField := ⟨Adr.DBG_AUTH_CTL, 3, 1⟩
def F.DBG_AUTH_CTL.GO : IoField := ⟨Adr.DBG_AUTH_CTL, 0, 0⟩
def F.DBG_AUTH_CHAL.DATA (i : Nat) : IoField := ⟨Adr.DBG_AUTH_CHAL i, 63, 0⟩
def F.DBG_AUTH_RESP.DATA (i : Nat) : IoField := ⟨Adr.DBG_AUTH_RESP i, 63, 0⟩
def F.DBG_SWBP.WORD : IoField := ⟨Adr.DBG_SWBP, 31, 0⟩
def F.DBG_XTRIG.HALT : IoField := ⟨Adr.DBG_XTRIG, 63, 63⟩
def F.DBG_XTRIG.RELEASE : IoField := ⟨Adr.DBG_XTRIG, 62, 62⟩
def F.DBG_XTRIG.ALL : IoField := ⟨Adr.DBG_XTRIG, 61, 61⟩
def F.DBG_XTRIG.GALLERY : IoField := ⟨Adr.DBG_XTRIG, 5, 0⟩
def F.DBG_HALTED.HALTED (k : Nat) : IoField := ⟨Adr.DBG_HALTED k, 63, 0⟩
def F.DBG_RKP_DATA.HASH (i : Nat) : IoField := ⟨Adr.DBG_RKP_DATA i, 63, 0⟩
def F.DBG_RKP_CTL.BUSY : IoField := ⟨Adr.DBG_RKP_CTL, 31, 31⟩
def F.DBG_RKP_CTL.DONE : IoField := ⟨Adr.DBG_RKP_CTL, 30, 30⟩
def F.DBG_RKP_CTL.ERR : IoField := ⟨Adr.DBG_RKP_CTL, 29, 29⟩
def F.DBG_RKP_CTL.KEY : IoField := ⟨Adr.DBG_RKP_CTL, 15, 0⟩
def F.DBG_HWR_RC.CLR_CHECKSTOP (h : Nat) : IoField := ⟨Adr.DBG_HWR_RC h, 3, 3⟩
def F.DBG_HWR_RC.STEP (h : Nat) : IoField := ⟨Adr.DBG_HWR_RC h, 2, 2⟩
def F.DBG_HWR_RC.RELEASE (h : Nat) : IoField := ⟨Adr.DBG_HWR_RC h, 1, 1⟩
def F.DBG_HWR_RC.HALT (h : Nat) : IoField := ⟨Adr.DBG_HWR_RC h, 0, 0⟩
def F.DBG_HWR_RSTAT.HALTED (h : Nat) : IoField := ⟨Adr.DBG_HWR_RSTAT h, 31, 31⟩
def F.DBG_HWR_RSTAT.CHECKSTOP (h : Nat) : IoField := ⟨Adr.DBG_HWR_RSTAT h, 30, 30⟩
def F.DBG_HWR_RSTAT.BODY_FROZEN (h : Nat) : IoField := ⟨Adr.DBG_HWR_RSTAT h, 29, 29⟩
def F.DBG_HWR_RSTAT.FORCED_PENDING (h : Nat) : IoField := ⟨Adr.DBG_HWR_RSTAT h, 28, 28⟩
def F.DBG_HWR_RSTAT.CAUSE (h : Nat) : IoField := ⟨Adr.DBG_HWR_RSTAT h, 27, 24⟩
def F.DBG_HWR_RSTAT.MATCH (h : Nat) : IoField := ⟨Adr.DBG_HWR_RSTAT h, 7, 0⟩
def F.DBG_HWR_VTX.DATA (h : Nat) : IoField := ⟨Adr.DBG_HWR_VTX h, 31, 0⟩
def F.DBG_HWR_VRX.DATA (h : Nat) : IoField := ⟨Adr.DBG_HWR_VRX h, 31, 0⟩
def F.DBG_HWR_VT_STAT.TXIE (h : Nat) : IoField := ⟨Adr.DBG_HWR_VT_STAT h, 3, 3⟩
def F.DBG_HWR_VT_STAT.RXIE (h : Nat) : IoField := ⟨Adr.DBG_HWR_VT_STAT h, 2, 2⟩
def F.DBG_HWR_VT_STAT.TX_FULL (h : Nat) : IoField := ⟨Adr.DBG_HWR_VT_STAT h, 1, 1⟩
def F.DBG_HWR_VT_STAT.RX_FULL (h : Nat) : IoField := ⟨Adr.DBG_HWR_VT_STAT h, 0, 0⟩
def F.DBG_HWR_CMP_LO.BOUND (h c : Nat) : IoField := ⟨Adr.DBG_HWR_CMP_LO h c, 63, 0⟩
def F.DBG_HWR_CMP_HI.BOUND (h c : Nat) : IoField := ⟨Adr.DBG_HWR_CMP_HI h c, 63, 0⟩
def F.DBG_HWR_CMP_CTL.TASKID (h c : Nat) : IoField := ⟨Adr.DBG_HWR_CMP_CTL h c, 63, 48⟩
def F.DBG_HWR_CMP_CTL.ASID (h c : Nat) : IoField := ⟨Adr.DBG_HWR_CMP_CTL h c, 47, 32⟩
def F.DBG_HWR_CMP_CTL.EN (h c : Nat) : IoField := ⟨Adr.DBG_HWR_CMP_CTL h c, 31, 31⟩
def F.DBG_HWR_CMP_CTL.KIND (h c : Nat) : IoField := ⟨Adr.DBG_HWR_CMP_CTL h c, 30, 28⟩
def F.DBG_HWR_CMP_CTL.LINK (h c : Nat) : IoField := ⟨Adr.DBG_HWR_CMP_CTL h c, 27, 26⟩
def F.DBG_HWR_CMP_CTL.ACTION (h c : Nat) : IoField := ⟨Adr.DBG_HWR_CMP_CTL h c, 25, 23⟩
def F.DBG_HWR_CMP_CTL.PLM (h c : Nat) : IoField := ⟨Adr.DBG_HWR_CMP_CTL h c, 22, 20⟩
def F.DBG_HWR_CMP_CTL.ASID_EN (h c : Nat) : IoField := ⟨Adr.DBG_HWR_CMP_CTL h c, 19, 19⟩
def F.DBG_HWR_CMP_CTL.TASK_EN (h c : Nat) : IoField := ⟨Adr.DBG_HWR_CMP_CTL h c, 18, 18⟩
def F.HEP_SCS_ARG.DATA : IoField := ⟨Adr.HEP_SCS_ARG, 63, 0⟩
def F.HEP_SCS_RES.DATA : IoField := ⟨Adr.HEP_SCS_RES, 63, 0⟩
def F.HEP_SCS_CMD.BUSY : IoField := ⟨Adr.HEP_SCS_CMD, 31, 31⟩
def F.HEP_SCS_CMD.STATUS : IoField := ⟨Adr.HEP_SCS_CMD, 23, 16⟩
def F.HEP_SCS_CMD.SIZE : IoField := ⟨Adr.HEP_SCS_CMD, 11, 8⟩
def F.HEP_SCS_CMD.OP : IoField := ⟨Adr.HEP_SCS_CMD, 7, 4⟩
def F.HEP_SCS_CMD.GO : IoField := ⟨Adr.HEP_SCS_CMD, 0, 0⟩
def F.TLY_GCTL.STOP : IoField := ⟨Adr.TLY_GCTL, 0, 0⟩
def F.TLY_BW_CTL.EN : IoField := ⟨Adr.TLY_BW_CTL, 31, 31⟩
def F.TLY_BW_CTL.WIN_US : IoField := ⟨Adr.TLY_BW_CTL, 19, 0⟩
def F.TLY_BW_SEQ.SEQ : IoField := ⟨Adr.TLY_BW_SEQ, 63, 0⟩
def F.TLY_BW_LAST.IN (p : Nat) : IoField := ⟨Adr.TLY_BW_LAST p, 63, 32⟩
def F.TLY_BW_LAST.OUT (p : Nat) : IoField := ⟨Adr.TLY_BW_LAST p, 31, 0⟩
def F.TLY_BW_MAX.IN (p : Nat) : IoField := ⟨Adr.TLY_BW_MAX p, 63, 32⟩
def F.TLY_BW_MAX.OUT (p : Nat) : IoField := ⟨Adr.TLY_BW_MAX p, 31, 0⟩
def F.TLY_HWR_CTR.COUNT (h n : Nat) : IoField := ⟨Adr.TLY_HWR_CTR h n, 47, 0⟩
def F.TLY_HWR_EVT.PLM (h n : Nat) : IoField := ⟨Adr.TLY_HWR_EVT h n, 14, 12⟩
def F.TLY_HWR_EVT.BODY (h n : Nat) : IoField := ⟨Adr.TLY_HWR_EVT h n, 11, 10⟩
def F.TLY_HWR_EVT.EVENT (h n : Nat) : IoField := ⟨Adr.TLY_HWR_EVT h n, 9, 0⟩
def F.TLY_HWR_STAT.ERR (h : Nat) : IoField := ⟨Adr.TLY_HWR_STAT h, 25, 25⟩
def F.TLY_HWR_STAT.WM (h : Nat) : IoField := ⟨Adr.TLY_HWR_STAT h, 24, 24⟩
def F.TLY_HWR_STAT.WMIE (h : Nat) : IoField := ⟨Adr.TLY_HWR_STAT h, 23, 23⟩
def F.TLY_HWR_STAT.FRZ (h : Nat) : IoField := ⟨Adr.TLY_HWR_STAT h, 16, 16⟩
def F.TLY_HWR_STAT.OVIE (h : Nat) : IoField := ⟨Adr.TLY_HWR_STAT h, 15, 8⟩
def F.TLY_HWR_STAT.OVF (h : Nat) : IoField := ⟨Adr.TLY_HWR_STAT h, 7, 0⟩
def F.TLY_HWR_SCTL.EN (h : Nat) : IoField := ⟨Adr.TLY_HWR_SCTL h, 63, 63⟩
def F.TLY_HWR_SCTL.PLM (h : Nat) : IoField := ⟨Adr.TLY_HWR_SCTL h, 62, 60⟩
def F.TLY_HWR_SCTL.BODY (h : Nat) : IoField := ⟨Adr.TLY_HWR_SCTL h, 59, 58⟩
def F.TLY_HWR_SCTL.SIZE (h : Nat) : IoField := ⟨Adr.TLY_HWR_SCTL h, 51, 48⟩
def F.TLY_HWR_SCTL.RAND (h : Nat) : IoField := ⟨Adr.TLY_HWR_SCTL h, 47, 44⟩
def F.TLY_HWR_SCTL.WATERMARK (h : Nat) : IoField := ⟨Adr.TLY_HWR_SCTL h, 43, 32⟩
def F.TLY_HWR_SCTL.PERIOD (h : Nat) : IoField := ⟨Adr.TLY_HWR_SCTL h, 31, 0⟩
def F.TLY_HWR_SBASE.BASE (h : Nat) : IoField := ⟨Adr.TLY_HWR_SBASE h, 47, 12⟩
def F.TLY_HWR_SPTR.DROPPED (h : Nat) : IoField := ⟨Adr.TLY_HWR_SPTR h, 63, 48⟩
def F.TLY_HWR_SPTR.TAIL (h : Nat) : IoField := ⟨Adr.TLY_HWR_SPTR h, 31, 16⟩
def F.TLY_HWR_SPTR.HEAD (h : Nat) : IoField := ⟨Adr.TLY_HWR_SPTR h, 15, 0⟩
def F.LOD_WIN_MATCH_A.ORIGIN (w : Nat) : IoField := ⟨Adr.LOD_WIN_MATCH_A w, 31, 30⟩
def F.LOD_WIN_MATCH_A.DEVICE (w : Nat) : IoField := ⟨Adr.LOD_WIN_MATCH_A w, 29, 18⟩
def F.LOD_WIN_MATCH_A.PAIR (w : Nat) : IoField := ⟨Adr.LOD_WIN_MATCH_A w, 17, 17⟩
def F.LOD_WIN_MATCH_A.PORTS (w : Nat) : IoField := ⟨Adr.LOD_WIN_MATCH_A w, 16, 9⟩
def F.LOD_WIN_MATCH_A.FUNC (w : Nat) : IoField := ⟨Adr.LOD_WIN_MATCH_A w, 8, 3⟩
def F.LOD_WIN_RANGE_A.FIRST (w : Nat) : IoField := ⟨Adr.LOD_WIN_RANGE_A w, 31, 16⟩
def F.LOD_WIN_RANGE_A.COUNT (w : Nat) : IoField := ⟨Adr.LOD_WIN_RANGE_A w, 15, 0⟩
def F.LOD_WIN_MAP_A.EN (w : Nat) : IoField := ⟨Adr.LOD_WIN_MAP_A w, 31, 31⟩
def F.LOD_WIN_MAP_A.SLOT_BASE (w : Nat) : IoField := ⟨Adr.LOD_WIN_MAP_A w, 17, 0⟩
def F.SKP_CH_A_SRC.ADDR (n : Nat) : IoField := ⟨Adr.SKP_CH_A_SRC n, 47, 0⟩
def F.SKP_CH_A_DST.ADDR (n : Nat) : IoField := ⟨Adr.SKP_CH_A_DST n, 47, 0⟩
def F.SKP_CH_A_SIZE.ROWS (n : Nat) : IoField := ⟨Adr.SKP_CH_A_SIZE n, 47, 32⟩
def F.SKP_CH_A_SIZE.ROW_BYTES (n : Nat) : IoField := ⟨Adr.SKP_CH_A_SIZE n, 23, 0⟩
def F.SKP_CH_A_STRIDE.SRC_STRIDE (n : Nat) : IoField := ⟨Adr.SKP_CH_A_STRIDE n, 63, 32⟩
def F.SKP_CH_A_STRIDE.DST_STRIDE (n : Nat) : IoField := ⟨Adr.SKP_CH_A_STRIDE n, 31, 0⟩
def F.SKP_CH_A_CPL.ADDR (n : Nat) : IoField := ⟨Adr.SKP_CH_A_CPL n, 47, 5⟩
def F.SKP_CH_A_OPT.TAG (n : Nat) : IoField := ⟨Adr.SKP_CH_A_OPT n, 47, 32⟩
def F.SKP_CH_A_OPT.MSIX_VEC (n : Nat) : IoField := ⟨Adr.SKP_CH_A_OPT n, 15, 8⟩
def F.SKP_CH_A_OPT.MSIX_EN (n : Nat) : IoField := ⟨Adr.SKP_CH_A_OPT n, 2, 2⟩
def F.SKP_CH_A_OPT.CPL_EN (n : Nat) : IoField := ⟨Adr.SKP_CH_A_OPT n, 1, 1⟩
def F.SKP_CH_A_OPT.CLASS (n : Nat) : IoField := ⟨Adr.SKP_CH_A_OPT n, 0, 0⟩
def F.HEP_MSIX_TABLE.DATA (v i : Nat) : IoField := ⟨Adr.HEP_MSIX_TABLE v i, 31, 0⟩
def F.HEP_MSIX_CTL.MASK (v : Nat) : IoField := ⟨Adr.HEP_MSIX_CTL v, 0, 0⟩
def F.HEP_MSIX_PBA.PENDING (j : Nat) : IoField := ⟨Adr.HEP_MSIX_PBA j, 63, 0⟩

end Sys2Proof.Machine
end

