-- ==== Sys2Proof/Machine/State.lean ====
section
/-!
DEFINITION. The state of the 5120 as plain data, and the state right after power-on reset. IO registers live in one
sparse table keyed by their IO address (unlisted: the reset value of the register map); everything that no register
shows has a field below. Reset values that the spec does not state are named in the assumption log.
-/
namespace Sys2Proof.Machine

/-- Plant time and its servo (R48 to R73, R833). -/
structure TimeState where
  /-- plant time in pt, below 2^64 (R48) -/
  now : Nat
  /-- plant time in the TCLK cycle before (R81) -/
  prev : Nat
  /-- the 32-bit accumulator of R50 -/
  frac : Nat
  /-- the servo's integral term (R70) -/
  integ : Int
  /-- TCLK cycles since power-on reset; the cycle of each stamp of R60 -/
  cyc : Nat
  /-- TCLK (or REFCLK, or oscillator) cycles since the last microsecond tick (R833) -/
  usPhase : Nat
  /-- microsecond ticks since power-on reset (R833) -/
  us : Nat
  /-- the master followed, by its clock identity (R67) -/
  master : Option Nat
  /-- the master that BMCA has selected, by its clock identity, and the port that it is heard on (R67) -/
  selected : Option (Nat × Nat)
  /-- port roles of the image's CLOCK section: 0 by BMCA, 1 master, 2 slave, 3 neither (R73) -/
  roles : Table Nat
  /-- LOCKED since power-on reset or root-PLL loss (R67) -/
  everLocked : Bool
  /-- consecutive Syncs within LOCK_NS (R67) -/
  within : Nat
  /-- consecutive Syncs beyond LOSS_NS (R67) -/
  beyond : Nat
  /-- TCLK cycle of the last valid Sync of each master, by its clock identity (R70) -/
  lastSync : List (Nat × Nat)
  /-- Sync interval in force, ns (R67) -/
  syncNs : Nat
  /-- microsecond count of the last valid Sync, for the timeout of R67 -/
  lastSyncUs : Nat
  /-- TIM_RATE at the last 16 Syncs in LOCKED, newest first (R66) -/
  rates : List Int
  /-- microsecond count at the entry to HOLDOVER -/
  holdUs : Nat
  /-- TCLK cycle of the last stamp of each local source (R60) -/
  lastStamp : Table Nat
deriving DecidableEq, Repr

/-- Clock root and power switching (R24 to R36, R748 to R754). -/
structure PowerState where
  /-- the root PLL is locked (R28, R31) -/
  pllLocked : Bool
  /-- REFCLK runs (R31) -/
  refclk : Bool
  /-- the level of PORn (R719) -/
  porn : Bool
  /-- sensors 0 to 8 that are tripped (R754) -/
  tripped : List Nat
  /-- CCLK cycles of each shaft since its domain came on, in 120ths (R25, R267) -/
  cclk : Table Nat
  /-- divider code plus 1 that waits for an instruction boundary, by shaft (R753) -/
  step : Table Nat
deriving DecidableEq, Repr

/-- The device canary beyond its registers (R457, R458, R468). -/
structure CanaryState where
  /-- the last kick value written was 0xA5A5 -/
  kickArmed : Bool
  /-- TIMEOUT at the last kick or reload -/
  timeout : Nat
  /-- a tick has brought REMAIN to H or below, and the pre-warning has not been given -/
  warnDue : Bool
  /-- a tick has brought REMAIN to 0, and the expiry has not taken effect -/
  due : Bool
  /-- the TCLK cycle of that tick, while TCLK runs -/
  dueAt : Option Nat
deriving DecidableEq, Repr

/-- One copy of a lode slot (R84), without the configuration that both copies share (R85). -/
structure LodeCopy where
  value : Word
  ptime : Nat
  source : Nat
  quality : Nat
  seq : Nat
  late : Bool
  older : Bool
  tag : Nat
  frz : Bool
deriving DecidableEq, Repr

/-- One slot: two copies, the configuration of R85, and the force intervals of R93. -/
structure LodeSlot where
  c0 : LodeCopy
  c1 : LodeCopy
  kind : Nat
  dirOut : Bool
  evt : Bool
  age : Nat
  /-- the forces set, latest first: effective time of each, and of its clearing (R93) -/
  forces : List (Nat × Option Nat)
deriving DecidableEq, Repr

/-- The writing paths of R88. -/
inductive LodePath where
  | link | host | anemometer | software | commit | force
deriving DecidableEq, Repr

/-- A write on its way to the lode (R88): the stamp's time is absent where it is the counter at acceptance. -/
structure LodeWrite where
  path : LodePath
  slot : Nat
  value : Word
  kind : Nat
  quality : Nat
  time : Option Nat
  source : Nat
  poison : Bool
  /-- port and bytes of the frame whose ingress space this write, its last, frees (R587) -/
  frame : Option (Nat × Nat) := none
  /-- adit whose command credit the write holds (R665) -/
  credit : Option Nat := none
deriving DecidableEq, Repr

/-- What the hold buffer of R102 holds. -/
inductive HoldItem where
  | write (w : LodeWrite)
  | clear (slot : Nat) (time : Nat)
  | config (slot : Nat) (data : Nat)
deriving DecidableEq, Repr

/-- The lode (R83 to R129) beyond its registers. -/
structure LodeState where
  slots : Table LodeSlot
  /-- hold buffer, oldest first (R102) -/
  hold : List HoldItem
  /-- writes that have reached the lode and wait to be applied, oldest first (R95, R102, R124) -/
  inq : List HoldItem
  /-- advances requested before INIT_DONE, with their boundaries, oldest first; true for the draught's own (R124) -/
  waitAdv : List Nat
  /-- the last four recorded boundaries, newest first (R706) -/
  bounds : List Nat
  /-- LATE writes accepted, advances refused and hold stalls since power-on reset (R706) -/
  upsets : Nat
deriving DecidableEq, Repr

/-- A descriptor as the draught reads it (R137). -/
structure Desc where
  trigger : Nat
  pclass : Nat
  retryLimit : Nat
  pin : Bool
  missDiscard : Bool
  inFull : Bool
  adv : Bool
  tclass : Nat
  asid : Nat
  rset : Nat
  trigSlot : Nat
  period : Nat
  phase : Nat
  deadline : Nat
  budget : Nat
  commit : Nat
  minGap : Nat
  entry : Nat
  dstack : Nat
  rsb : Nat
  rsl : Nat
  inList : Nat
  inRuns : Nat
  inCount : Nat
  outList : Nat
  outRuns : Nat
  outCount : Nat
  stateOff : Nat
  stateSize : Nat
  affinity : Nat
  pinHewer : Nat
  user : Nat
deriving DecidableEq, Repr

/-- Where an activation stands on the dispatch path (R132, R181). -/
inductive ActStage where
  /-- in the hub deadline heap, waiting for its snapshot, a gallery or an engine -/
  | heap
  /-- placed and in a gather engine -/
  | gathering
  /-- in its gallery's ready queue -/
  | ready
  /-- in a hewer's local queue -/
  | localQueue (h : Nat)
  /-- in a tier-2 copy to another gallery -/
  | copying (g : Nat)
  /-- its body is active on a hewer -/
  | running (h : Nat)
  /-- its result has been emitted and waits for acceptance -/
  | emitted
  /-- its result has been accepted and waits for its commit point -/
  | accepted
deriving DecidableEq, Repr

/-- One activation (R131). -/
structure Activation where
  relTime : Nat
  relSource : Nat
  attempt : Nat
  deadlineAt : Nat
  /-- the boundary at which its snapshot ends (R101) -/
  snapEnd : Nat
  desc : Desc
  stage : ActStage
  gallery : Option Nat
  epoch : Nat
  boundary : Nat
  /-- packet window, without the result fields of the header (R153) -/
  packet : List Byte
  /-- poisoned aligned 32-byte units of the packet's state block, by number in the state (R155) -/
  packetPoison : List Nat
  /-- result window (R156) -/
  result : List Byte
  /-- poisoned units of the result window's state copy (R155) -/
  resultPoison : List Nat
  /-- bytes of poisoned units stored in this attempt, by offset (R155) -/
  storedBytes : List Nat
  resTime : Nat
  resSource : Nat
  status : Nat
  userStatus : Nat
  disposition : Nat
  commitPoint : Nat
  /-- stolen at tier 2 in this attempt (R208) -/
  stolen : Bool
  /-- re-queued, so ahead of smaller keys (R214) -/
  requeued : Bool
  /-- DEADLINE_MISS has been logged (R172) -/
  missed : Bool
deriving DecidableEq, Repr

/-- One task (R132). -/
structure Task where
  enabled : Bool
  /-- DISABLE without FLUSH waits for the activation in flight (R140) -/
  stopping : Bool
  trigger : Nat
  trigSlot : Nat
  period : Nat
  minGap : Nat
  nextRel : Nat
  lastStamp : Option Nat
  skips : Nat
  act : Option Activation
deriving DecidableEq, Repr

/-- The draught (R130 to R231) beyond its registers. -/
structure DraughtState where
  tasks : Table Task
  /-- event-trigger table: descriptor indices, in order of enabling (R142) -/
  events : List Nat
  /-- gallery ready queues, head first (R181) -/
  ready : Table (List Nat)
  /-- hewers' local queues, head first (R181) -/
  locals : Table (List Nat)
  /-- tier-2 requests at the hub: FCLK cycle and gallery, in order (R207, R210) -/
  t2req : List (Nat × Nat)
  /-- FCLK cycle count before which a gallery may not request again (R208) -/
  t2again : Table Nat
  /-- the draught region is locked (R134) -/
  locked : Bool
deriving DecidableEq, Repr

/-- One set of exception registers (R248). -/
structure ExcSet where
  epc : Word
  ecause : Word
  eval : Word
  vbase : Word
deriving DecidableEq, Repr

/-- A translation entry held by a TLB (R423, R424). -/
structure TlbEntry where
  asid : Nat
  isFetch : Bool
  global : Bool
  va : Nat
  pageBits : Nat
  leaf : Nat
deriving DecidableEq, Repr

/-- A transfer instruction whose delay slot has not completed (R290, R292). -/
structure TransferUnit where
  /-- address of the transfer instruction -/
  addr : Word
  /-- where execution goes after the slot -/
  next : Word
  /-- physical target and value of the return-stack write, for call and callr (R243) -/
  push : Option Word
  /-- cache attribute of that write, and the entry of the full tree that translated it (R429, R477) -/
  ca : Nat
  via : Option TlbEntry
  /-- RSP before the transfer, which an exception of the slot restores (R292) -/
  rsp : Word
deriving DecidableEq, Repr

/-- The control registers whose writes take effect after a distance (R264, R325). -/
inductive CtlReg where
  | pkr | bank | cnt | asid | iroot | droot | xmode | cdtctl
deriving DecidableEq, Repr

/-- A control-state write that may not be in force yet (R325 to R327). -/
structure CtlPending where
  reg : CtlReg
  old : Word
  /-- instructions left of the distance; none: until `sync` or `cdtsync` -/
  left : Option Nat
deriving DecidableEq, Repr

/-- A load that has completed out of order and has not returned: it missed L1 D, or reads a packet or result window (R341,
R342, R344). -/
structure MissedLoad where
  /-- destination register number -/
  rd : Nat
  /-- the destination is a vector register -/
  vec : Bool
  /-- the value of its destination once it returns; the code of its kind while the host has not answered -/
  data : Nat
  poison : Bool
  /-- the tag of the host request, for the host-memory window (R623) -/
  tag : Option Nat
  /-- a window access, served by the landing port (R342) -/
  port : Bool
  /-- the entry of the full tree that translated it (R429) -/
  via : Option TlbEntry
deriving DecidableEq, Repr

/-- An xinv on its way to one twin: `va` none for xinv.t, `asid` none for xinv.all (R426, R429). -/
structure XinvOp where
  twin : Nat
  va : Option Nat
  asid : Option Nat
deriving DecidableEq, Repr

/-- A piece of host memory that an instruction which waits for its data has asked for. -/
structure HostPart where
  pa : Nat
  len : Nat
  /-- the tag of the request; none once it was completed locally -/
  tag : Option Nat
  /-- the bytes with their poison flag, once they have come -/
  data : Option (List Byte × Bool)
  /-- the entry of the full tree that translated the access (R429) -/
  via : Option TlbEntry
deriving DecidableEq, Repr

/-- A checkpoint of the predictor (R354). -/
structure Checkpoint where
  history : Nat
  /-- the prediction return stack's top pointer and top entry -/
  ptr : Nat
  top : Option Nat
deriving DecidableEq, Repr

/-- The prediction structures of one twin (R354 to R363). -/
structure Predictor where
  /-- 2-bit counters of the pattern table -/
  pattern : Table Nat
  history : Nat
  /-- branch target buffer: set to entries (kind, PC, target), most recently used first, at most 4 -/
  btb : Table (List (Nat × Nat × Nat))
  /-- prediction return stack, newest first, at most 16 -/
  prs : List Nat
  /-- its top pointer -/
  ptr : Nat
  /-- stride prefetch table: load PC, last address, stride, misses at that stride; latest first, at most 16 -/
  stride : List (Nat × Nat × Int × Nat)
  /-- checkpoints in use, newest first, at most 4 -/
  cps : List Checkpoint
deriving DecidableEq, Repr

/-- Where an access lands: a physical address, or an offset of the packet or result window (R156). -/
inductive Place where
  | phys (a : Nat)
  | packet (off : Nat)
  | result (off : Nat)
deriving DecidableEq, Repr

/-- A piece of an access that lies in one line: its place and length, its cache attribute (R477, R478) and the entry of the full
tree that translated it. -/
structure Piece where
  place : Place
  len : Nat
  ca : Nat
  via : Option TlbEntry
deriving DecidableEq, Repr

/-- The private operands of one customer instruction in hand (R382), the stores it holds (R390), and how far it has run. -/
structure Micro where
  /-- the instruction's word, and the entry under which it passed DE (R396) -/
  word : Nat
  entry : Nat
  a : Option Nat
  b : Option Nat
  f : Nat
  /-- T0 to T7 at 0 to 7, D at 8 -/
  regs : Table Nat
  flags : Nat
  fx : Nat
  stores : List (List Piece × List Byte)
  /-- the address of the next word, and the number of words from it on -/
  addr : Nat
  left : Nat
deriving DecidableEq, Repr

/-- A hewer's architectural and run state (R232 to R269). -/
structure Hewer where
  /-- executing since stage 7 or the switching on of its shaft (R736) -/
  started : Bool
  pc : Word
  /-- w1 to w31 (R232) -/
  w : Table Word
  /-- v0 to v31 (R234) -/
  v : Table VWord
  /-- general registers that carry the poison mark (R344) -/
  wPoison : List Nat
  /-- vector registers that carry the poison mark (R344) -/
  vPoison : List Nat
  /-- PSTAT without its HEWER field (R265) -/
  pstat : Word
  sSet : ExcSet
  mSet : ExcSet
  asid : Word
  taskid : Word
  iroot : Word
  droot : Word
  xmode : Word
  pkr : Word
  rsp : Word
  rsb : Word
  rsl : Word
  bank : Word
  cnt : Word
  /-- CCLK count of the shaft at which CYCLE was 0, and CYCLE while it stands still (R267) -/
  cycOff : Nat
  cycHold : Option Nat
  budget : Word
  cdtctl : Word
  /-- CRE0 to CRE63 -/
  cre : Table Word
  /-- CRE0, CRE1 loaded by the draught and so live (R407) -/
  live0 : Bool
  live1 : Bool
  ctl : List CtlPending
  /-- the model's own: which free value stands behind the control state that the instruction in hand sees (log 7) -/
  ctlKey : Nat
  unit : Option TransferUnit
  /-- the `rep` in force, by its address (R296) -/
  rep : Option Word
  /-- reserved 64-byte granule, by physical address div 64 (R304) -/
  resv : Option Nat
  missed : List MissedLoad
  /-- host data of the instruction in hand, where it needs all of it to complete (R287, R344) -/
  hostBuf : List HostPart
  /-- the first instruction at the vector of S, and of M, has not committed since its entry (R448) -/
  winS : Bool
  winM : Bool
  checkStopped : Bool
  /-- in Debug state (R253) -/
  halted : Bool
  /-- a halt has been requested, with its cause code (R772) -/
  haltReq : Option Nat
  /-- one step has been requested (R776) -/
  stepping : Bool
  /-- the next instruction is exempt from comparators and the software breakpoint (R777) -/
  exempt : Bool
  /-- comparators armed by LINK 2, bit c (R784) -/
  armed : Nat
  /-- xinv operations not yet complete (R429) -/
  xinv : List XinvOp
  /-- a halt froze a body here (R774) -/
  bodyFrozen : Bool
  /-- descriptor index of the body active here -/
  body : Option Nat
  /-- a thread is saved in the save area (R201) -/
  saved : Bool
  /-- CDTCTL of that thread, as the hardware saved it -/
  savedCdt : Word
  /-- whether it stands in the vector window of S (R448) -/
  savedWin : Bool
  /-- a body has ended, and neither the next packet nor the saved thread has started (R195, R200) -/
  between : Bool
  /-- the `eret` of the handler that runs restores the saved thread (R200, R836): its privilege, and the entries to that
  privilege nested in it -/
  eretRestores : Option (Nat × Nat)
  /-- a forced M entry is due (R737) -/
  forced : Bool
  /-- what the boot ROM's code waits for in SAFE HOLD: 0 nothing, 1 a fault notification at ILVL 14, 2 its handler runs, 3 nothing more,
  at ILVL 15 (R738) -/
  rom : Nat
  /-- the fault block removes the hewer at its next boundary (R695, R836) -/
  removeDue : Bool
  /-- a canary machine check is due (R462) -/
  mcheck : Bool
  /-- lost by a twin failure that replay did not settle, until the fault block returns it (R212) -/
  twinLost : Bool
  /-- the lasting twin that the spare is to replace (R693, R694) -/
  substitute : Option Nat
  /-- countdown of instruction sampling (R800) -/
  smpDown : Nat
  /-- the next matching instruction is tagged (R800, R801) -/
  smpTag : Bool
  /-- sampling records were dropped since the last one written (R802) -/
  smpLost : Bool
  /-- plant-time advance not yet charged to BUDGET, below 256 pt (R161) -/
  budgetAcc : Nat
  /-- its canary's TIMEOUT at the last kick or reload (R457) -/
  canT : Nat
  /-- a tick has brought its canary to H or below, and the pre-warning has not been given (R458) -/
  canWarn : Bool
  /-- the TCLK cycle of the tick that brought its canary to 0, while the expiry has not taken effect (R458, R465) -/
  canDue : Option Nat
  /-- the customer instruction that waits for host bytes (R309, R396) -/
  micro : Option Micro
  /-- entries that this hewer's instructions may have been decoded under and that have changed since: index and old value,
  latest first (R321, R322, R396) -/
  cdtOld : List (Nat × Word)
deriving DecidableEq, Repr

/-- A store that has committed and has not drained to L1 D, so that no other agent sees it (R343, R482): its place and bytes, its
cache attribute and class, and the entry of the full tree that translated it (R429). -/
structure StoreEntry where
  pa : Nat
  data : List Byte
  ca : Nat
  cls : Nat
  via : Option TlbEntry
deriving DecidableEq, Repr

/-- One physical twin: translation and prediction structures, first-level caches, store buffer, and its copy of the decode
table and the microcode store (R14, R343, R354, R376, R423, R472). Caches hold tags: the bytes stand in `MemState`. -/
structure Twin where
  /-- first-level instruction TLB, most recently used first, at most 32 -/
  itlb : List TlbEntry
  /-- first-level data TLB, most recently used first, at most 32 -/
  dtlb : List TlbEntry
  /-- second-level TLB: set to entries, most recently used first, at most 8 each -/
  l2tlb : Table (List TlbEntry)
  /-- walk cache, most recently used first, at most 32; `leaf` holds the table entry, `pageBits` its range -/
  wcache : List TlbEntry
  pred : Predictor
  /-- L1 I: set to line numbers, most recently used first, at most 4 -/
  l1i : Table (List Nat)
  /-- L1 D: set to line numbers with their dirty flag, most recently used first, at most 4 -/
  l1d : Table (List (Nat × Bool))
  /-- store buffer, oldest first, at most 8 -/
  sbuf : List StoreEntry
  /-- this twin's copy of the 64 entries and of the 4,096 words -/
  cdtE : Table Word
  cdtW : Table Word
  /-- how many of the decode-table writes in flight have reached the copy (R394) -/
  cdtSeen : Nat
  /-- the events that the tagged instruction has met so far, one bit for each (R801, R802) -/
  tagEv : Nat
deriving DecidableEq, Repr

/-- A write to the custom decode table that is being broadcast (R394). -/
inductive CdtWrite where
  | word (addr : Nat) (value : Word)
  | entry (n : Nat) (value : Word)
deriving DecidableEq, Repr

/-- Custom decode table and microcode store: the hub's master copy (R375, R394). -/
structure CdtState where
  /-- master copy of the 64 entries -/
  entries : Table Word
  /-- master copy of the 4,096 microcode words -/
  words : Table Word
  /-- accepted writes not yet at every twin, oldest first -/
  inFlight : List CdtWrite
deriving DecidableEq, Repr

/-- DRAM (R38): bytes and poison marks. -/
structure MemState where
  /-- bytes by physical address; an unlisted byte reads 0 until DRAM contents are first lost, then a free value (log 2) -/
  bytes : Table Byte
  /-- how often DRAM contents have been lost (R838) -/
  lost : Nat
  /-- aligned 32-byte units that carry the poison syndrome, by address div 32, rising (R495) -/
  poison : List Nat
  /-- units whose MEM_UE has been logged since a write last cleared their mark (R539) -/
  ueSeen : List Nat
deriving DecidableEq, Repr

/-- One firedamp tracking entry (R525). -/
structure FdpEntry where
  row : Nat
  count : Nat
  cand : Nat
  vote : Nat
deriving DecidableEq, Repr

/-- One bank of a channel (R517, R518, R525, R528). -/
structure BankState where
  openRow : Option Nat
  /-- the last row accessed (R517) -/
  lastRow : Option Nat
  /-- the last outcomes, newest first, at most 4: true for a hit (R517) -/
  history : List Bool
  /-- tracking table, by index, at most 64 entries (R525) -/
  table : List FdpEntry
  /-- throttled sources, at most 4, with the microsecond of their last ACT (R528) -/
  throttled : List (Nat × Nat)
  /-- the whole bank is throttled: the microsecond of the last ACT (R528) -/
  bankThrottle : Option Nat
  /-- a firedamp trigger owes an RFM (R527) -/
  rfmDue : Bool
  /-- TCLK cycle of the last request served (R519) -/
  lastCyc : Nat
deriving DecidableEq, Repr

/-- A request that waits at a controller: a line, its bank and row, the local source it is made for, and the TCLK cycle of its
arrival (R515, R516). -/
structure DramReq where
  line : Nat
  bank : Nat
  row : Nat
  src : Nat
  cyc : Nat
deriving DecidableEq, Repr

/-- One memory channel beyond its registers (R503 to R537). -/
structure Channel where
  banks : Table BankState
  /-- MR4 reports a temperature above the highest rate (R524) -/
  hot : Bool
  /-- microsecond count of the last poll of MR4, and the multiplier it found for the next interval (R521) -/
  mr4Us : Nat
  nextRate : Option Nat
  /-- microsecond count of the last ZQ latch (R505) -/
  zqUs : Nat
  /-- microsecond count of the last WCK2DQI adjustment (R534) -/
  retrainUs : Nat
  /-- read queue and write queue, oldest first: the first 48 and 32; what follows waits to enter (R515) -/
  rq : List DramReq
  wq : List DramReq
  /-- writes left of the burst that is being drained (R515) -/
  burst : Nat
deriving DecidableEq, Repr

/-- A line in an ordinary way of a gallery's L2 (R472). -/
structure L2Line where
  line : Nat
  way : Nat
  /-- false: coherence has invalidated a locked line, whose tag stays (R489) -/
  valid : Bool
  dirty : Bool
deriving DecidableEq, Repr

/-- The directory's state of a line (R475). -/
inductive LineState where
  | modified | exclusive | shared
deriving DecidableEq, Repr

/-- A directory entry: the line's state and the galleries that hold it, as a presence vector (R475). -/
structure DirLine where
  state : LineState
  present : Nat
deriving DecidableEq, Repr

/-- Memory controllers and caches beyond their registers (R476 to R540). -/
structure McState where
  chans : Table Channel
  /-- check-bit caches: group × 64 + set to check lines with their dirty flag, most recently used first (R511) -/
  check : Table (List (Nat × Bool))
  /-- gallery L2s: gallery × 2048 + set to the lines of the ordinary ways, most recently used first (R472) -/
  l2 : Table (List L2Line)
  /-- the directory, by line number (R475) -/
  dir : Table DirLine
  /-- memory-side cache: set to line numbers with their dirty flag, most recently used first; the locked lines of the draught
  region are not listed (R134, R472) -/
  msc : Table (List (Nat × Bool))
  /-- microsecond count at the start of the firedamp window of D3 and of D4 (R529) -/
  windowUs3 : Nat
  windowUs4 : Nat
deriving DecidableEq, Repr

/-- A fault record before it reaches the ring (R712). -/
structure FaultRec where
  time : Nat
  source : Nat
  code : Nat
  cls : Nat
  sev : Nat
  dw2 : Nat
  dw3 : Nat
deriving DecidableEq, Repr

/-- What one accepted PARTNER frame told (R706). -/
structure PartnerSeen where
  /-- it carried TIM state LOCKED or GRANDMASTER and one of the last 4 boundaries recorded here -/
  good : Bool
  /-- `LodeState.upsets` at its acceptance -/
  upsets : Nat
deriving DecidableEq, Repr

/-- The fault block and the partner logic (R687 to R718) beyond their registers. -/
structure FaultState where
  /-- microsecond counts of the events in each unit's window: twins, L2 ways, links (R688) -/
  twinEvents : Table (List Nat)
  wayEvents : Table (List Nat)
  linkEvents : Table (List Nat)
  /-- tracked DRAM rows with their events, at most 256, latest event first (R690) -/
  rowEvents : List (Nat × List Nat)
  lastingRows : List Nat
  retiredTwins : List Nat
  retiredLinks : List Nat
  /-- hub buffer of records, oldest first, at most 64 (R716) -/
  buffer : List FaultRec
  /-- records dropped since the last LOG_OVERRUN (R716) -/
  droppedNow : Nat
  /-- units made lasting since power-on reset (R705) -/
  lasting : Nat
  /-- the last 16 accepted PARTNER frames, newest first (R706) -/
  frames : List PartnerSeen
  /-- mode, readiness and device number reported by the last accepted PARTNER frame (R710, R744) -/
  peerMode : Nat
  peerReady : Bool
  peerDevice : Nat
  /-- a PARTNER frame that asks for a takeover has been accepted and not yet judged (R707) -/
  takeDue : Bool
  /-- dual running has been detected and this member is to change to STANDBY (R711) -/
  dualDue : Bool
deriving DecidableEq, Repr

/-- A unit of a skip transfer (R548). -/
structure SkpUnit where
  row : Nat
  first : Nat
  len : Nat
  /-- the pieces of a source in host memory -/
  parts : List HostPart
  /-- the bytes read, each with its poison flag, once every read has returned -/
  data : Option (List (Byte × Bool))
  /-- halt code of a read that cannot succeed -/
  fail : Option Nat
  retries : Nat
  /-- microsecond count since which the unit waits for a retry (R569) -/
  waitUs : Option Nat
deriving DecidableEq, Repr

/-- A skip channel beyond its registers (R558 to R570). -/
structure SkpChannel where
  /-- quarter bytes that the credit lacks to its cap (R564), at cycle `spentCyc` -/
  spent : Nat
  spentCyc : Nat
  /-- units in flight, in order, at most 8 -/
  units : List SkpUnit
  /-- the next unit to issue -/
  nextRow : Nat
  nextByte : Nat
  /-- bytes written by the transfer (R556) -/
  bytes : Nat
  /-- SKP_POISON has been logged for the transfer (R554) -/
  marked : Bool
  /-- the transfer has ended, its record written (R558) -/
  ended : Bool
deriving DecidableEq, Repr

/-- A frame that waits in a port's queue (R591, R595): its bytes from the destination address on, without the FCS. -/
structure PlkFrame where
  bytes : List Byte
  /-- the port sets the source address (R591) -/
  ownSa : Bool
  /-- the egress entry that built it -/
  entry : Option Nat
  /-- launch instant L, pt -/
  inst : Nat
  /-- the other port of a frame with DUP_EN (R600) -/
  dup : Option Nat
deriving DecidableEq, Repr

/-- A gate list (R596): times in pt. -/
structure GateList where
  base : Nat
  cycle : Nat
  /-- gate bits and interval of each entry -/
  entries : List (Nat × Nat)
deriving DecidableEq, Repr

/-- A plant port beyond its registers (R595 to R599). -/
structure PlkPort where
  /-- the PCS holds block lock or synchronisation -/
  lock : Bool
  /-- microsecond count at the last change of `lock` -/
  lockUs : Nat
  /-- the four queues, oldest frame first -/
  queues : Table (List PlkFrame)
  /-- TCLK cycle at which the transmitter becomes idle -/
  busy : Nat
  gates : Option GateList
  /-- the pending list and the instant at which it comes into force -/
  pend : Option (GateList × Nat)
  /-- 802.1AS messages that wait for a frame in transmission, oldest first: kind and content (R595) -/
  gptp : List (Nat × Nat)
deriving DecidableEq, Repr

/-- An egress read that waits for its launch (R591): the entry's doublewords and its records, with the safe ones. -/
structure EgrRead where
  unit : Nat
  port : Nat
  entry : Nat
  inst : Nat
  dws : List Nat
  recs : List Byte
  safe : List Byte
deriving DecidableEq, Repr

/-- The plant links (R581 to R606) beyond their registers. -/
structure PlkState where
  ports : Table PlkPort
  /-- egress list in force: entry × 4 + doubleword -/
  egress : Table Word
  /-- launches of each egress entry that sent a frame (FRAME_SEQ) -/
  seqs : Table Nat
  reads : List EgrRead
  /-- records of the last egress read of each entry outside MAINTENANCE (R594) -/
  held : Table (List Byte)
  /-- microsecond counts of the last PARTNER send, and of the last PARTNER frame accepted or loss reported -/
  sentUs : Nat
  heardUs : Nat
deriving DecidableEq, Repr

/-- A query context of an adit beyond its registers (R656 to R661). -/
structure QueryCtx where
  /-- EN is 1 -/
  on : Bool
  /-- EN has been set and the ring is being cleared -/
  enabling : Bool
  /-- epoch closes since EN was set -/
  closes : Nat
  /-- TCLK cycle of the trigger that waits for its record -/
  trig : Option Nat
  /-- a record was dropped since the last written one -/
  lost : Bool
deriving DecidableEq, Repr

/-- The adits beyond their registers (R644 to R670). -/
structure AditState where
  /-- query contexts: adit × 256 + context -/
  queries : Table QueryCtx
  /-- generation advances that wait under R668, by adit -/
  waiting : Table Nat
deriving DecidableEq, Repr

/-- An output pin: analog 0 to 7, PWM 8 to 15, digital 16 to 47 (R671, R680 to R683). -/
structure OutPin where
  /-- the value in force: code, high cycles or level -/
  code : Nat
  /-- a usable value has been driven since power-on reset -/
  valid : Bool
  /-- the pin is driven, not high-impedance -/
  driven : Bool
  /-- high cycles of the running PWM period -/
  high : Nat
deriving DecidableEq, Repr

/-- What an output reads before its instant (R679): the configuration in force and the usable value, if any. -/
structure OutVal where
  out : Nat
  badq : Bool
  safe : Nat
  val : Option Nat
deriving DecidableEq, Repr

/-- An egress read of outputs that waits for its instant. -/
structure OutRead where
  unit : Nat
  inst : Nat
  vals : List OutVal
deriving DecidableEq, Repr

/-- An encoder's filtered inputs, and whether an error occurred since the last latch (R675, R676). -/
structure Encoder where
  a : Bool
  b : Bool
  z : Bool
  err : Bool
deriving DecidableEq, Repr

/-- The anemometer (R671 to R685) beyond its registers. -/
structure AnmState where
  /-- plant time from which conversions count: READY or the last step (R678, R685) -/
  since : Nat
  /-- stamp of the last decimated sample -/
  lastStamp : Option Nat
  encs : Table Encoder
  /-- digital inputs whose accepted level is 1 -/
  levels : List Nat
  outs : Table OutPin
  reads : List OutRead
  /-- for each input source, the values that LOD_ANMn_MAP held before its writes and when each ended, newest first (R114) -/
  maps : Table (List (Nat × Word))
deriving DecidableEq, Repr

/-- A non-posted request the endpoint has sent (R622 to R624). -/
structure OutReq where
  tag : Nat
  fn : Nat
  gen : Nat
  /-- requester: hewer number, 0x400 + skip channel, or 0xFFF for the debug memory master -/
  who : Nat
  /-- skip unit, or 0 -/
  unit : Nat
  host : Nat
  len : Nat
  crit : Bool
deriving DecidableEq, Repr

/-- One PCI Express function (R608, R627 to R633). -/
structure PcieFn where
  /-- 0: D0; 3: D3hot; 4: D3cold -/
  power : Nat
  busMaster : Bool
  /-- VF Enable, physical function only -/
  vfEnable : Bool
  pmeEn : Bool
  msixEn : Bool
  msixMask : Bool
  /-- a function-level reset is in progress (R630) -/
  resetting : Bool
  /-- codes of Max_Payload_Size and Max_Read_Request_Size (R607); those of the physical function hold for every function -/
  mps : Nat
  mrrs : Nat
deriving DecidableEq, Repr

/-- The PCI Express endpoint (R607 to R643) beyond its registers. -/
structure HepState where
  fns : Table PcieFn
  /-- NumVFs (R644) -/
  numVfs : Nat
  /-- MSI-X tables of the adits: (k × 16 + vector) × 4 + doubleword (R617, the adit chapter) -/
  vfMsix : Table Word32
  /-- pending vectors of the adits: k × 16 + vector -/
  vfPba : List Nat
  reqs : List OutReq
  nextTag : Nat
  /-- the level of PERST_N and a wake that is asked for -/
  perst : Bool
  wake : Bool
  /-- AER entries: function × 256 + kind, newest first (R641): 0 Unexpected Completion, 1 completion timeout, 2 poisoned TLP -/
  aer : List Nat
  /-- the host read of the debug memory master, and its data once they have come (R620, R790) -/
  dbgHost : Option HostPart
deriving DecidableEq, Repr

/-- What leaves the device, newest first in `State.out`: the model's own record of its outputs. -/
inductive Out where
  /-- MSI-X message of a function (R617) -/
  | msix (fn vec : Nat)
  /-- PME message of a function (R628) -/
  | pme (fn : Nat)
  /-- memory write TLP (R619) -/
  | hostWrite (fn host : Nat) (data : List Byte) (ep : Bool)
  /-- memory read TLP (R619) -/
  | hostRead (fn tag host len : Nat)
  /-- completion with data to a host read -/
  | cplData (data : List Byte) (ep : Bool)
  /-- completion with Unsupported Request -/
  | cplUr
  /-- completion with Completer Abort -/
  | cplCa
  /-- successful completion of a configuration write -/
  | cplOk
  /-- a plant-link frame -/
  | frame (port : Nat) (time : Nat) (data : List Byte)
  /-- an 802.1AS message: 0 Sync, 1 Follow_Up, 2 Pdelay_Req, 3 Pdelay_Resp, 4 Pdelay_Resp_Follow_Up, 5 Announce; its stamp, its
  domainNumber, and logSyncInterval of a Sync or Follow_Up, or priority1 × 256 + priority2 of an Announce -/
  | gptp (port kind time domain info : Nat)
  /-- a TAP's data output -/
  | tdo (value : Nat) (bits : Nat)
deriving DecidableEq, Repr

/-- What a debug path's Scesar commands leave (R758, R759): the address in force, STATUS and RESULT. -/
structure ScsPath where
  /-- 0 D space, 1 IO space, 2 hewer register -/
  space : Nat
  addr : Nat
  hewer : Nat
  /-- bytes of an access as a power of 2 -/
  width : Nat
  status : Nat
  result : Nat
deriving DecidableEq, Repr

/-- Debug (R756 to R793) beyond its registers. -/
structure DebugState where
  /-- the JTAG instruction in force -/
  ir : Nat
  /-- the SCAN_EN_N strap was low at the rising edge of PORn (R757) -/
  scanEn : Bool
  /-- what EXTEST drives (R757) -/
  scan : Option Word
  /-- key entries of the image (R766) -/
  keys : List (Nat × DbgKey)
  /-- keys of the KEYS sections (R731) -/
  keyStore : List (List Byte)
  /-- a challenge is outstanding (R767) -/
  chal : Bool
  /-- the path that wrote VERIFY: 1 JTAG, 2 physical function -/
  verifyPath : Nat
  /-- microsecond count at which LOCKOUT was set (R768) -/
  lockUs : Nat
  jtag : ScsPath
  pf : ScsPath
  /-- the path whose READ waits for host memory (R790) -/
  readPath : Option DbgPath
deriving DecidableEq, Repr

/-- The whole block. -/
structure State where
  /-- IO registers by address; an unlisted register holds its reset value -/
  regs : Table Word
  time : TimeState
  pwr : PowerState
  can : CanaryState
  lode : LodeState
  drt : DraughtState
  hewers : Table Hewer
  twins : Table Twin
  cdt : CdtState
  mem : MemState
  mc : McState
  flt : FaultState
  plk : PlkState
  /-- skip channels beyond their registers -/
  skp : Table SkpChannel
  /-- the last skip channel served, for reads and for writes (R565) -/
  skLast : Nat × Nat
  adt : AditState
  anm : AnmState
  hep : HepState
  dbg : DebugState
  /-- microsecond count at which the bandwidth window in progress began (R807) -/
  bwUs : Nat
  /-- configuration flash by byte address (R722); an unlisted byte reads 0xFF (log 20) -/
  flash : Table Byte
  /-- address and page of the flash operation in progress, as they were at GO (R725) -/
  xspi : Nat × List Byte
  /-- DEVNUM straps (R719) -/
  devnum : Nat
  /-- OL5120-224I rather than 112I -/
  big : Bool
  /-- the model's own: count of free values used (log 3) -/
  freeCtr : Nat
  /-- the model's own: what has left the device, newest first -/
  out : List Out
  /-- the commands that wait, first in first out -/
  pending : List Instr
deriving DecidableEq, Repr

/-- Why the machine stops with a fault. -/
inductive Fault where
  /-- No command raises it: every effect that the spec describes has a next state (safe). -/
  | none
deriving DecidableEq, Repr

/-- Why a command has no meaning. -/
inductive Refusal where
  /-- Raised by an arm of exec whose command is not modelled yet (safe). -/
  | notModelled (mnemonic : String)
deriving DecidableEq, Repr

def ExcSet.reset : ExcSet := ⟨0, 0, 0, 0⟩
def Predictor.cold : Predictor := ⟨[], 0, [], [], 0, [], []⟩
def Twin.reset : Twin := ⟨[], [], [], [], Predictor.cold, [], [], [], [], [], 0, 0⟩
/-- A line that the directory does not list. -/
def DirLine.absent : DirLine := ⟨.shared, 0⟩
def LodeCopy.reset : LodeCopy := ⟨0, 0, 0, 0, 0, false, false, 0, false⟩
def LodeSlot.reset : LodeSlot := ⟨LodeCopy.reset, LodeCopy.reset, 0, false, false, 0, []⟩
def Task.reset : Task := ⟨false, false, 0, 0, 0, 0, 0, none, 0, none⟩
def BankState.reset : BankState := ⟨none, none, [], [], [], none, false, 0⟩
def Channel.reset : Channel := ⟨[], false, 0, none, 0, 0, [], [], 0⟩
def SkpChannel.reset : SkpChannel := ⟨0, 0, [], 0, 0, 0, false, false⟩
def OutPin.reset : OutPin := ⟨0, false, false, 0⟩
def Encoder.reset : Encoder := ⟨false, false, false, false⟩
def AnmState.reset : AnmState := ⟨0, none, [], [], [], [], []⟩
def QueryCtx.reset : QueryCtx := ⟨false, false, 0, none, false⟩
def PlkPort.reset : PlkPort := ⟨false, 0, [], 0, none, none, []⟩
def PlkState.reset : PlkState := ⟨[], [], [], [], [], 0, 0⟩
def ScsPath.reset : ScsPath := ⟨0, 0, 0, 0, 0, 0⟩
def DebugState.reset : DebugState := ⟨2, false, none, [], [], false, 0, 0, ScsPath.reset, ScsPath.reset, none⟩
def PcieFn.reset : PcieFn := ⟨0, false, false, false, false, false, false, 0, 2⟩

/-- A hewer after power-on reset: M, banked, every register at the reset value of R264 and R265, not yet started. -/
def Hewer.reset : Hewer where
  started := false
  pc := 0
  w := []
  v := []
  wPoison := []
  vPoison := []
  pstat := 0x0F00D000
  sSet := ExcSet.reset
  mSet := ExcSet.reset
  asid := 0
  taskid := 0
  iroot := 0
  droot := 0
  xmode := 0
  pkr := 0
  rsp := 0
  rsb := 0
  rsl := 0
  bank := 0x0F2000000F200000
  cnt := 0
  cycOff := 0
  cycHold := none
  budget := 0
  cdtctl := 0
  cre := []
  live0 := false
  live1 := false
  ctl := []
  ctlKey := 0
  unit := none
  rep := none
  resv := none
  missed := []
  hostBuf := []
  winS := false
  winM := false
  checkStopped := false
  halted := false
  haltReq := none
  stepping := false
  exempt := false
  armed := 0
  xinv := []
  bodyFrozen := false
  body := none
  saved := false
  savedCdt := 0
  savedWin := false
  between := false
  eretRestores := none
  forced := false
  rom := 0
  removeDue := false
  mcheck := false
  twinLost := false
  substitute := none
  smpDown := 0
  smpTag := false
  smpLost := false
  budgetAcc := 0
  canT := 0
  canWarn := false
  canDue := none
  micro := none
  cdtOld := []

def TimeState.reset : TimeState where
  now := 0
  prev := 0
  frac := 0
  integ := 0
  cyc := 0
  usPhase := 0
  us := 0
  master := none
  selected := none
  roles := []
  everLocked := false
  within := 0
  beyond := 0
  lastSync := []
  syncNs := 125000000
  lastSyncUs := 0
  rates := []
  holdUs := 0
  lastStamp := []

/-- The block right after power-on reset, with the root PLL locked and CONFIGURE entered (R719); DEVNUM 0 and variant
112I are the model's choice (log 5). -/
def State.reset : State where
  regs := []
  time := TimeState.reset
  pwr := ⟨true, true, true, [], [], []⟩
  can := ⟨false, 0, false, false, none⟩
  lode := ⟨[], [], [], [], [], 0⟩
  drt := ⟨[], [], [], [], [], [], false⟩
  hewers := []
  twins := []
  cdt := ⟨[], [], []⟩
  mem := ⟨[], 0, [], []⟩
  mc := ⟨[], [], [], [], [], 0, 0⟩
  flt := ⟨[], [], [], [], [], [], [], [], 0, 0, [], 0, false, 0, false, false⟩
  plk := PlkState.reset
  skp := []
  skLast := (63, 63)
  adt := ⟨[], []⟩
  anm := AnmState.reset
  hep := ⟨[], 0, [], [], [], 0, false, false, [], none⟩
  dbg := DebugState.reset
  bwUs := 0
  flash := []
  xspi := (0, [])
  devnum := 0
  big := false
  freeCtr := 0
  out := []
  pending := []

end Sys2Proof.Machine
end

