-- ==== Sys2Proof/Machine/Base.lean ====
section
/-!
DEFINITION. The plainest operations over State: IO registers and their fields, modes and power domains, free values, plant
time and stamps, hewers and twins.
-/
namespace Sys2Proof.Machine

/-! ### IO registers -/

/-- The value an IO register holds. -/
def State.reg (s : State) (a : Nat) : Word := s.regs.get (BitVec.ofNat 64 (resetAt a)) a

/-- Set an IO register. -/
def State.setReg (s : State) (a : Nat) (v : Word) : State :=
  { s with regs := s.regs.set (BitVec.ofNat 64 (resetAt a)) a v }

/-- The value of a field of an IO register. -/
def State.fld (s : State) (f : IoField) : Nat := bitsOf (s.reg f.addr).toNat f.hi f.lo

/-- Set a field of an IO register; the value is cut to the field's width. -/
def State.setFld (s : State) (f : IoField) (v : Nat) : State :=
  s.setReg f.addr (BitVec.ofNat 64 (setBits (s.reg f.addr).toNat f.hi f.lo v))

/-- Is any bit of the field 1? -/
def State.flag (s : State) (f : IoField) : Bool := s.fld f != 0

/-- Set every bit of a field to 1 (used for one-bit flags). -/
def State.raise (s : State) (f : IoField) : State := s.setFld f 1

/-- Add to a counter field that saturates at all ones. -/
def State.count (s : State) (f : IoField) (n : Nat) : State :=
  let top := 2 ^ (f.hi + 1 - f.lo) - 1
  s.setFld f (if s.fld f + n > top then top else s.fld f + n)

/-! ### Modes, variants and power domains -/

/-- The eight modes of R741. -/
inductive Mode where
  | off | configure | selfTest | standby | run | degraded | maintenance | safeHold
deriving DecidableEq, Repr

def Mode.code : Mode → Nat
  | .off => 0 | .configure => 1 | .selfTest => 2 | .standby => 3
  | .run => 4 | .degraded => 5 | .maintenance => 6 | .safeHold => 7

def Mode.ofCode (n : Nat) : Mode :=
  match n with
  | 0 => .off | 1 => .configure | 2 => .selfTest | 3 => .standby
  | 4 => .run | 5 => .degraded | 6 => .maintenance | _ => .safeHold

/-- The mode in force (CFG_MODE.CUR). -/
def State.mode (s : State) : Mode := Mode.ofCode (s.fld F.CFG_MODE.CUR)

/-- Is power domain D`d` on (R32)? -/
def State.domainOn (s : State) (d : Nat) : Bool := (s.fld F.PWR_DOM_STATE.ON).testBit d

/-- The power domain of hewer `h`'s shaft (R18). -/
def shaftDomain (h : Nat) : Nat := 12 + h / 64

/-- Bytes of usable DRAM (R38). -/
def State.dramSize (s : State) : Nat := if s.big then 0x3800000000 else 0x1C00000000

/-- The power domain of an IO register (R837). -/
def regDomain (a : Nat) : Nat :=
  if 0x8000 ≤ a && a ≤ 0x82FF then 1
  else match a / 0x1000000 with
    | 0x00 => 0
    | 0x01 => 0
    | 0x02 => 2
    | 0x03 => 2
    | 0x04 => shaftDomain ((a - 0x04000000) / 0x1000)
    | 0x06 => if a < 0x06010000 then 1 else if (a - 0x06010000) / 0x100 < 16 then 3 else 4
    | 0x07 => 9
    | 0x08 => if a < 0x08010000 then 1 else if (a - 0x08010000) / 0x1000 < 4 then 6 else 7
    | 0x09 => if 0x09002000 ≤ a && a < 0x09003000 then 10 else if 0x09F00000 ≤ a then 5 else 0
    | 0x0A => 1
    | 0x0B => 8
    | 0x0E => 10
    | 0x0F => if a < 0x0F100000 then 1 else shaftDomain ((a - 0x0F100000) / 0x100)
    | _ => 0

/-- Does the device take a write of the register at IO address `a`: its clocks run and its domain is on (R47, R838)? -/
def State.takesIo (s : State) (a : Nat) : Bool := s.pwr.pllLocked && s.domainOn (regDomain a)

/-! ### Free values -/

/-- Use one free value (log 3): what the spec leaves open at this point. -/
def State.draw (s : State) : Nat × State := (Config.freeBits s.freeCtr, { s with freeCtr := s.freeCtr + 1 })

/-- `n` bytes of free values (log 3). -/
def State.freeBytes (s : State) (n : Nat) : List Byte × State :=
  ((List.range n).map (fun i => BitVec.ofNat 8 (Config.freeBits (s.freeCtr + i))), { s with freeCtr := s.freeCtr + n })

/-! ### Plant time and stamps -/

/-- TIM_RATE as a signed number (R50). -/
def State.rate (s : State) : Int := signedOf 32 (s.reg Adr.TIM_RATE).toNat

/-- The counter and frac after `n` further TCLK cycles (R50). -/
def State.timeAfter (s : State) (n : Nat) : Nat × Nat :=
  let sum : Int := s.time.frac + n * s.rate
  ((((s.time.now + 20 * n : Nat) : Int) + sum / 2 ^ 32).toNat % 2 ^ 64, (sum % 2 ^ 32).toNat)

/-- Source number of a local source (R57). -/
def State.source (s : State) (loc : Nat) : Nat := s.devnum * 0x1000 + loc

/-- Take a stamp of the counter for a local source: one per TCLK cycle, the next in the cycle after (R60). -/
def State.stamp (s : State) (loc : Nat) : Nat × State :=
  let last := s.time.lastStamp.get 0 loc
  -- `last` holds the cycle of the last stamp plus 1, 0 for none; no cycle follows while the PLL is unlocked
  let c := if last ≤ s.time.cyc || !s.pwr.pllLocked then s.time.cyc else last
  ((s.timeAfter (c - s.time.cyc)).1,
    { s with time := { s.time with lastStamp := s.time.lastStamp.set 0 loc (c + 1) } })

/-- Stamp (a, s) precedes stamp (b, t) (R62). -/
def stampBefore (a sa b sb : Nat) : Bool := decide (a < b) || (decide (a = b) && decide (sa < sb))

/-! ### Hewers and twins -/

def State.hew (s : State) (h : Nat) : Hewer := s.hewers.get Hewer.reset h
def State.setHew (s : State) (h : Nat) (x : Hewer) : State := { s with hewers := s.hewers.set Hewer.reset h x }
/-- Change hewer `h`. -/
def State.modHew (s : State) (h : Nat) (f : Hewer → Hewer) : State := s.setHew h (f (s.hew h))

/-- The twin that backs hewer `h` (R14, FLT_GALg_MAP.POS). -/
def State.twinOf (s : State) (h : Nat) : Nat := h / 8 * 9 + s.fld ⟨Adr.FLT_GAL_MAP (h / 8), 4 * (h % 8) + 3, 4 * (h % 8)⟩
def State.twin (s : State) (t : Nat) : Twin := s.twins.get Twin.reset t
def State.setTwin (s : State) (t : Nat) (x : Twin) : State := { s with twins := s.twins.set Twin.reset t x }
def State.modTwin (s : State) (t : Nat) (f : Twin → Twin) : State := s.setTwin t (f (s.twin t))
/-- Change every twin of the device. -/
def State.mapTwins (s : State) (f : Twin → Twin) : State :=
  let l := (List.range 576).map (fun t => (t, f (s.twin t)))
  { s with twins := l.filter (fun e => decide (e.2 ≠ Twin.reset)) ++ s.twins.filter (fun e => decide (576 ≤ e.1)) }

end Sys2Proof.Machine
end

