-- ==== Sys2Proof/Machine/Dram.lean ====
section
/-!
DEFINITION. The channels of DRAM as every access meets them (R506 to R518): the address map, banks and page policy, the
check-bit caches, and the request queues (R515).
-/
namespace Sys2Proof.Machine

/-! ### Channels (R36, R506, R531) -/

/-- Channel of a physical address (R506). -/
def State.channelOf (s : State) (a : Nat) : Nat :=
  let g := 2 ^ (8 + (if s.fld F.MEM_CTL.GRAIN > 8 then 8 else s.fld F.MEM_CTL.GRAIN))
  (a / g) % 32

/-- Is the channel usable: its power domain on and trained (R36, R531)? -/
def State.channelOn (s : State) (c : Nat) : Bool :=
  if c < 16 then s.domainOn 3 && s.flag F.MEM_STATUS.D3_READY else s.domainOn 4 && s.flag F.MEM_STATUS.D4_READY

/-- Can DRAM at `a` to `a + n - 1` be reached: inside usable DRAM, its domains on? -/
def State.dramReach (s : State) (a n : Nat) : Bool :=
  decide (a + n ≤ s.dramSize) && s.channelOn (s.channelOf a) && s.channelOn (s.channelOf (a + n - 1))

/-! ### The address map (R506, R508) -/

/-- Where a line lies in DRAM. -/
structure DramLoc where
  channel : Nat
  bank : Nat
  row : Nat
  column : Nat
deriving DecidableEq, Repr

/-- The grain in bytes (R506). -/
def State.grain (s : State) : Nat :=
  let n := s.fld F.MEM_CTL.GRAIN
  2 ^ (8 + (if 8 < n then 8 else n))

/-- Bank of a line index after hashing (R506). -/
def State.bankOf (s : State) (li : Nat) : Nat :=
  let row := li / 512
  let b := li / 32 % 16
  if s.flag F.MEM_CTL.HASH then b ^^^ (row % 16) else b

/-- Channel offset of a physical address (R506). -/
def State.chanOffset (s : State) (pa : Nat) : Nat := pa / (32 * s.grain) * s.grain + pa % s.grain

/-- The place of a physical address (R506). -/
def State.dramLoc (s : State) (pa : Nat) : DramLoc :=
  let li := s.chanOffset pa / 64
  ⟨s.channelOf pa, s.bankOf li, li / 512, li % 32⟩

/-- The physical address of channel offset `co` of channel `c` (R506). -/
def State.physOf (s : State) (c co : Nat) : Nat := co / s.grain * (32 * s.grain) + c * s.grain + co % s.grain

/-- The first line of the row of a physical address (R699). -/
def State.rowFirst (s : State) (pa : Nat) : Nat := s.physOf (s.channelOf pa) (s.chanOffset pa / 2048 * 2048)

/-- Raw capacity of a channel (R504). -/
def State.chanRaw (s : State) : Nat := if s.big then 0x200000000 else 0x100000000

/-- Address within the partner channel of the check line of a physical address (R508). -/
def State.checkLine (s : State) (pa : Nat) : Nat := s.chanRaw / 8 * 7 + s.chanOffset pa / 64 / 8 * 64

/-! ### Banks and page policy (R517 to R520) -/

def State.dchan (s : State) (c : Nat) : Channel := s.mc.chans.get Channel.reset c
def State.setDchan (s : State) (c : Nat) (x : Channel) : State :=
  { s with mc := { s.mc with chans := s.mc.chans.set Channel.reset c x } }
def State.bank (s : State) (c b : Nat) : BankState := (s.dchan c).banks.get BankState.reset b
def State.setBank (s : State) (c b : Nat) (x : BankState) : State :=
  s.setDchan c { s.dchan c with banks := (s.dchan c).banks.set BankState.reset b x }
def State.modBank (s : State) (c b : Nat) (f : BankState → BankState) : State := s.setBank c b (f (s.bank c b))

/-- FORCE of a bank, 3 acting as 0 (R518). -/
def State.force (s : State) (c b : Nat) : Nat :=
  let n := bitsOf (s.reg (Adr.MEM_CH_PP_FORCE c)).toNat (2 * b + 1) (2 * b)
  if n = 3 then 0 else n

/-- Does prediction keep the row open (R518)? -/
def predictOpen (h : List Bool) : Bool := decide (h.length < 4) || decide (2 ≤ (h.filter (fun x => x)).length)

/-- An access to a row of a bank: its outcome is recorded and the page policy applies (R517, R518). -/
def State.accessRow (s : State) (c b row : Nat) : State :=
  s.modBank c b (fun x =>
    let h := match x.lastRow with
      | some r => (decide (r = row) :: x.history).take 4
      | none => (false :: x.history).take 4
    let open_ := match s.force c b with
      | 1 => true
      | 2 => false
      | _ => predictOpen h
    { x with lastRow := some row, history := h, openRow := if open_ then some row else none, lastCyc := s.time.cyc })

/-- The banks of a channel close their rows. -/
def State.closeRows (s : State) (c : Nat) : State :=
  s.setDchan c { s.dchan c with banks := (s.dchan c).banks.filterMap (fun e =>
    let x := { e.2 with openRow := none }
    if x = BankState.reset then none else some (e.1, x)) }

/-! ### The check-bit caches (R511 to R513) -/

/-- Group and set of a check line: the set index is the model's choice (log 10). -/
def checkKey (c line : Nat) : Nat := c / 4 * 64 + line / 64 % 64

/-- The tag of a check line of channel `c` in its group's check-bit cache. -/
def checkTag (c line : Nat) : Nat := c * 2 ^ 40 + line

/-- The lines of the set that a check line belongs to, each with its dirty mark, the most recently used first. -/
def State.checkSet (s : State) (c line : Nat) : List (Nat × Bool) := s.mc.check.get [] (checkKey c line)

/-- Does the check-bit cache hold a check line? -/
def State.checkHeld (s : State) (c line : Nat) : Bool := (s.checkSet c line).any (fun e => e.1 = checkTag c line)

/-! ### The request queues (R515, R516) -/

/-- Local source of the device itself, which write-backs carry (R58, R516). -/
def srcDevice : Nat := 0xF00

/-- MCLK cycles since TCLK cycle `cyc`: four for every three of TCLK (R25). -/
def State.mclkSince (s : State) (cyc : Nat) : Nat := (s.time.cyc - cyc) * 4 / 3

/-- A read or a write of a line arrives at its controller, for a local source: it joins the queue, or waits behind a full one (R515). -/
def State.reqPut (s : State) (line src : Nat) (write : Bool) : State :=
  let l := s.dramLoc (line * 64)
  let q : DramReq := ⟨line, l.bank, l.row, src, s.time.cyc⟩
  let x := s.dchan l.channel
  if !(s.channelOn l.channel) then s
  else s.setDchan l.channel (if write then { x with wq := x.wq ++ [q] } else { x with rq := x.rq ++ [q] })

end Sys2Proof.Machine
end

