-- ==== Sys2Proof/Machine/Hub.lean ====
section
/-!
DEFINITION. The caches below the hewers and the directory (R134, R472 to R491, R500, R501): the memory-side cache, the gallery
L2s with their ways, inclusion over the L1 Ds, and accesses made at the hub. Caches hold tags and dirty flags; bytes stand in
`MemState` in the one order of R481, so that no copy ever differs from them.
-/
namespace Sys2Proof.Machine

/-- Line numbers of bytes `a` to `a + n - 1`. -/
def linesOf (a n : Nat) : List Nat :=
  if n = 0 then [] else (List.range ((a + n - 1) / 64 - a / 64 + 1)).map (fun i => i + a / 64)

/-! ### The memory-side cache (R134, R472, R474) -/

/-- First byte of the draught region (DRT_REGION_BASE). -/
def State.regionBase (s : State) : Nat := 0x100000 * s.fld F.DRT_REGION_BASE.BASE
/-- Bytes of the draught region. -/
def State.regionSize (s : State) : Nat := s.fld F.DRT_REGION_BASE.SIZE_MIB * 0x100000

/-- Is a line held locked for the draught (R134)? -/
def State.regionLine (s : State) (line : Nat) : Bool :=
  s.drt.locked && decide (s.regionBase ≤ line * 64) && decide (line * 64 < s.regionBase + s.regionSize)

/-- Ways of set `k` of the memory-side cache that the locked region leaves (R134): its lines stand in consecutive sets. -/
def State.mscRoom (s : State) (k : Nat) : Nat :=
  if !s.drt.locked then 16
  else
    let n := s.regionSize / 64
    let first := s.regionBase / 64 % 32768
    16 - (n / 32768 + b2n (decide ((k + 32768 - first) % 32768 < n % 32768)))

/-- A line of DRAM is used in the memory-side cache, `write` making it dirty and `whole` writing all of it: a miss reads the
line for `src`, a victim that is dirty is written back (R474, R513, R516). Without D11 the request goes to DRAM as it is. -/
def State.mscUse (s : State) (line src : Nat) (write whole : Bool) : State :=
  if s.dramSize ≤ line * 64 || s.regionLine line then s
  else if !(s.domainOn 11) then s.reqPut line src write
  else
    let k := line % 32768
    let l := s.mc.msc.get [] k
    match l.find? (fun e => e.1 = line) with
    | some e =>
      { s with mc := { s.mc with msc := s.mc.msc.set [] k ((line, e.2 || write) :: l.filter (fun y => y.1 != line)) } }
    | none =>
      let s1 := if whole then s else s.reqPut line src false
      let room := s.mscRoom k
      let l1 := ((line, write) :: l).take room
      let out := (((line, write) :: l).drop room).filter (fun e => e.2)
      let s2 := out.foldl (fun t e => t.reqPut e.1 srcDevice true) s1
      { s2 with mc := { s2.mc with msc := s2.mc.msc.set [] k l1 } }

/-- Write back the dirty lines of the memory-side cache that `p` selects, and drop those lines (R501, R535). -/
def State.mscDrop (s : State) (p : Nat → Bool) : State :=
  let out := (s.mc.msc.flatMap Prod.snd).filter (fun e => p e.1)
  let s1 := (out.filter (fun e => e.2)).foldl (fun t e => t.reqPut e.1 srcDevice true) s
  { s1 with mc := { s1.mc with msc := s1.mc.msc.filterMap (fun e =>
      let l := e.2.filter (fun y => !(p y.1))
      if l.isEmpty then none else some (e.1, l)) } }

/-- The memory-side cache takes the draught region: its lines need no other place there, and sets that have less room left write
their oldest lines back (R134, R178). -/
def State.mscLock (s : State) : State :=
  let s1 := { s with drt := { s.drt with locked := true } }
  let rest := fun (e : Nat × List (Nat × Bool)) => e.2.filter (fun y => !(s1.regionLine y.1))
  let out := (s1.mc.msc.flatMap (fun e => (rest e).drop (s1.mscRoom e.1))).filter (fun e => e.2)
  let s2 := out.foldl (fun t e => t.reqPut e.1 srcDevice true) s1
  { s2 with mc := { s2.mc with msc := s2.mc.msc.filterMap (fun e =>
      let l := (rest e).take (s1.mscRoom e.1)
      if l.isEmpty then none else some (e.1, l)) } }

/-! ### L1 D under inclusion (R472) -/

/-- The set of a line in an L1 (R472). -/
def l1Set (line : Nat) : Nat := line % 128

/-- A twin's L1 D gives a line up: answers whether it was dirty. -/
def Twin.l1dDirty (t : Twin) (line : Nat) : Bool := (t.l1d.get [] (l1Set line)).any (fun e => e.1 = line && e.2)
/-- L1 D without a line. -/
def Twin.l1dDrop (t : Twin) (line : Nat) : Twin :=
  { t with l1d := t.l1d.set [] (l1Set line) ((t.l1d.get [] (l1Set line)).filter (fun e => e.1 != line)) }
/-- L1 D with a line that is clean from now on. -/
def Twin.l1dClean (t : Twin) (line : Nat) : Twin :=
  { t with l1d := t.l1d.set [] (l1Set line) ((t.l1d.get [] (l1Set line)).map (fun e => if e.1 = line then (line, false) else e)) }

/-- The nine twins of gallery `g` but `keep`. -/
def galleryTwins (g : Nat) (keep : Option Nat) : List Nat :=
  ((List.range 9).map (fun i => g * 9 + i)).filter (fun t => keep != some t)

/-- Does any L1 D of gallery `g`, but twin `keep`'s, hold the line dirty? -/
def State.galleryDirty (s : State) (g line : Nat) (keep : Option Nat) : Bool :=
  (galleryTwins g keep).any (fun t => (s.twin t).l1dDirty line)
/-- The L1 Ds of gallery `g`, but twin `keep`'s, drop a line. -/
def State.galleryDrop (s : State) (g line : Nat) (keep : Option Nat) : State :=
  (galleryTwins g keep).foldl (fun t i => t.modTwin i (fun x => x.l1dDrop line)) s
/-- The L1 Ds of gallery `g`, but twin `keep`'s, hand a dirty line's data to the L2. -/
def State.galleryClean (s : State) (g line : Nat) (keep : Option Nat) : State :=
  (galleryTwins g keep).foldl (fun t i => t.modTwin i (fun x => x.l1dClean line)) s

/-! ### Gallery L2s and the directory (R472 to R475, R488, R489) -/

/-- The set of a line number in an L2 (R472). -/
def l2Set (line : Nat) : Nat := line % 2048
/-- Where the lines of a gallery's set stand. -/
def l2Key (g line : Nat) : Nat := g * 2048 + l2Set line
/-- The lines in the ordinary ways of the set that a line uses in gallery `g`. -/
def State.l2Lines (s : State) (g line : Nat) : List L2Line := s.mc.l2.get [] (l2Key g line)
def State.setL2 (s : State) (g line : Nat) (l : List L2Line) : State :=
  { s with mc := { s.mc with l2 := s.mc.l2.set [] (l2Key g line) l } }
/-- The line as the L2 of gallery `g` holds it. -/
def State.l2Find (s : State) (g line : Nat) : Option L2Line := (s.l2Lines g line).find? (fun e => e.line = line && e.valid)
/-- Change one line in place. -/
def State.l2Mod (s : State) (g line : Nat) (f : L2Line → L2Line) : State :=
  s.setL2 g line ((s.l2Lines g line).map (fun e => if e.line = line then f e else e))

/-- The directory's entry of a line (R475). -/
def State.dirOf (s : State) (line : Nat) : DirLine := s.mc.dir.get DirLine.absent line
def State.setDir (s : State) (line : Nat) (d : DirLine) : State :=
  { s with mc := { s.mc with dir := s.mc.dir.set DirLine.absent line (if d.present = 0 then DirLine.absent else d) } }

/-- Is way `w` locked (R489)? -/
def State.wayLocked (s : State) (w : Nat) : Bool := decide (4 ≤ w) && (s.fld F.MEM_L2_LOCK.WAYS).testBit (w - 4)
/-- Is way `w` of gallery `g` in service (R697)? -/
def State.wayOn (s : State) (g w : Nat) : Bool := !(s.fld (F.FLT_GAL_MAP.WAYS_OFF g)).testBit (w - 4)

/-- Gallery `g` writes a line that it holds modified back to the hub: the copies stay, clean (R475, R479). -/
def State.l2WriteBack (s : State) (g line src : Nat) : State :=
  let dirty := (match s.l2Find g line with | some e => e.dirty | none => false) || s.galleryDirty g line none
  let s1 := (s.galleryClean g line none).l2Mod g line (fun e => { e with dirty := false })
  if dirty then s1.mscUse line src true true else s1

/-- Gallery `g` loses a line: it is written back where it is modified, its L1 D copies go, and the directory forgets the gallery.
`keepTag` leaves the tag of a locked line (R472, R475, R489). -/
def State.l2Drop (s : State) (g line src : Nat) (keepTag : Bool) : State :=
  let s1 := (s.l2WriteBack g line src).galleryDrop g line none
  let s2 := s1.setL2 g line ((s1.l2Lines g line).filterMap (fun e =>
    if e.line != line then some e
    else if keepTag && s.wayLocked e.way then some { e with valid := false, dirty := false } else none))
  let d := s2.dirOf line
  s2.setDir line { d with present := setBits d.present g g 0 }

/-- The galleries, but `keep`, that hold a line. -/
def State.holders (s : State) (line : Nat) (keep : Option Nat) : List Nat :=
  (List.range 64).filter (fun g => (s.dirOf line).present.testBit g && keep != some g)

/-- Every gallery but `keep` loses a line to coherence (R475, R489). -/
def State.invalidateLine (s : State) (line src : Nat) (keep : Option Nat) : State :=
  (s.holders line keep).foldl (fun t g => t.l2Drop g line src true) s
/-- Every gallery that holds a line modified writes it back, and all hold it shared (R475, R479). -/
def State.shareLine (s : State) (line src : Nat) : State :=
  let s1 := (s.holders line none).foldl (fun t g => t.l2WriteBack g line src) s
  s1.setDir line { s1.dirOf line with state := .shared }

/-- The way that a miss of class `cls` takes in gallery `g`: among the ways in service whose bits are 1 in ALLOCc and not locked, a
free one, else that of the least recently used line (R472, R488). -/
def State.l2Victim (s : State) (g line cls : Nat) : Option Nat :=
  let ok := fun (w : Nat) => (s.fld (F.MEM_L2_ALLOC.WAYS cls)).testBit (w - 4) && !(s.wayLocked w) && s.wayOn g w
  let l := s.l2Lines g line
  let ways := ((List.range 12).map (fun i => i + 4)).filter ok
  match ways.find? (fun w => !(l.any (fun e => e.way = w && e.valid))) with
  | some w => some w
  | none => (l.reverse.find? (fun e => ok e.way)).map L2Line.way

/-- Put a line into way `w` of gallery `g`: the line that stood there is written back and gone (R472, R490). -/
def State.l2Place (s : State) (g line w src : Nat) : State :=
  let s1 := match (s.l2Lines g line).find? (fun e => e.way = w && e.valid && e.line != line) with
    | some e => s.l2Drop g e.line src false
    | none => s
  s1.setL2 g line (⟨line, w, true, false⟩ :: (s1.l2Lines g line).filter (fun e => e.way != w && e.line != line))

/-- How an access was served in a gallery's L2: it hit, the line was refilled into its locked way, it was filled into a way, or no
way qualified. -/
inductive L2Res where
  | hit | refill | fill | none
deriving DecidableEq, Repr

/-- The L2 of gallery `g` obtains a line for an access of class `cls` made for local source `src` (R475, R488, R489). -/
def State.l2Get (s : State) (g line cls src : Nat) (write : Bool) : State × L2Res :=
  let d := s.dirOf line
  let own := fun (t : State) =>
    let e := t.dirOf line
    let p := setBits e.present g g 1
    t.setDir line (if write then ⟨.modified, p⟩ else if e.present = 0 then ⟨.exclusive, p⟩ else ⟨.shared, p⟩)
  match s.l2Find g line with
  | some e =>
    let s1 := s.setL2 g line (e :: (s.l2Lines g line).filter (fun y => y.line != line))
    if write then ((s1.invalidateLine line src (some g)).setDir line ⟨.modified, 2 ^ g⟩, .hit) else (s1, .hit)
  | none =>
    let s1 := if write then s.invalidateLine line src none else if d.present = 0 then s else s.shareLine line src
    let s2 := if d.present = 0 then s1.mscUse line src false false else s1
    match (s.l2Lines g line).find? (fun e => e.line = line && s.wayLocked e.way) with
    | some e => (own (s2.l2Place g line e.way src), .refill)
    | none =>
      match s2.l2Victim g line cls with
      | some w => (own (s2.l2Place g line w src), .fill)
      | none => (if write then s2.mscUse line src true false else s2, .none)

/-! ### Accesses at the hub (R474, R478, R479) -/

/-- An access made at the hub obtains the line from any L2 that holds it modified; a write invalidates every copy. -/
def State.hubUse (s : State) (line src : Nat) (write : Bool) : State :=
  (if write then s.invalidateLine line src none
   else if (s.dirOf line).present = 0 then s else s.shareLine line src).mscUse line src write false

/-- The same for bytes `a` to `a + n - 1`. -/
def State.hubAccess (s : State) (a n src : Nat) (write : Bool) : State :=
  (linesOf a n).foldl (fun t k => t.hubUse k src write) s

/-! ### Galleries that lose their power or a way (R501, R697) -/

/-- Gallery `g` loses the lines that `p` selects: those modified are written back (R501). -/
def State.galleryFlush (s : State) (g : Nat) (p : L2Line → Bool) : State :=
  let l := ((s.mc.l2.filter (fun e => e.1 / 2048 = g)).flatMap Prod.snd).filter p
  l.foldl (fun t e => if e.valid then t.l2Drop g e.line srcDevice false
    else t.setL2 g e.line ((t.l2Lines g e.line).filter (fun y => y.line != e.line))) s

end Sys2Proof.Machine
end

