-- ==== Sys2Proof/Machine/Ops.lean ====
section
/-!
DEFINITION. The named operations over State that every block uses: messages that leave the device, memory with poison marks,
fault records and notification, hewers, twins and their registers.
-/
namespace Sys2Proof.Machine

/-! ### What leaves the device -/

/-- Record an output. -/
def State.emit (s : State) (o : Out) : State := { s with out := o :: s.out }

def State.fn (s : State) (f : Nat) : PcieFn := s.hep.fns.get PcieFn.reset f
def State.setFn (s : State) (f : Nat) (x : PcieFn) : State :=
  { s with hep := { s.hep with fns := s.hep.fns.set PcieFn.reset f x } }

/-- Is function `f` frozen (R636)? -/
def State.frozen (s : State) (f : Nat) : Bool := (s.fld F.HEP_FREEZE.FROZEN).testBit f

/-- Is MSI-X vector `vec` of function `f` masked by its own mask bit? -/
def State.vecMasked (s : State) (f vec : Nat) : Bool :=
  if f = 0 then s.flag (F.HEP_MSIX_CTL.MASK vec)
  else (s.hep.vfMsix.get 1 ((f * 16 + vec) * 4 + 3)).toNat % 2 = 1

/-- Set or clear the pending bit of a vector (R617). -/
def State.setPba (s : State) (f vec : Nat) (on : Bool) : State :=
  if f = 0 then
    let fl := F.HEP_MSIX_PBA.PENDING (vec / 64)
    s.setFld fl (setBits (s.fld fl) (vec % 64) (vec % 64) (b2n on))
  else
    let k := f * 16 + vec
    { s with hep := { s.hep with vfPba := if on then insertNat s.hep.vfPba k else eraseNat s.hep.vfPba k } }

/-- Is the pending bit of a vector set? -/
def State.pba (s : State) (f vec : Nat) : Bool :=
  if f = 0 then (s.fld (F.HEP_MSIX_PBA.PENDING (vec / 64))).testBit (vec % 64)
  else s.hep.vfPba.contains (f * 16 + vec)

/-- Send MSI-X vector `vec` of function `f`, or hold it back as R617, R628 and R637 say. -/
def State.sendMsix (s : State) (f vec : Nat) : State :=
  let x := s.fn f
  if s.frozen f || x.resetting then s
  else if (x.power = 3 || x.power = 4) && x.pmeEn then
    let s1 := s.setPba f vec true
    if x.power = 3 then s1.emit (.pme f) else { s1 with hep := { s1.hep with wake := true } }
  else if !(s.domainOn 5) || x.power != 0 || !x.busMaster || !x.msixEn then s
  else if x.msixMask || s.vecMasked f vec then s.setPba f vec true
  else s.emit (.msix f vec)

/-! ### Fault records and notification (R712 to R718) -/

/-- Severity of an event, from its code and detail (R834). -/
def severityOf (code detail : Nat) : Nat :=
  match code with
  | 0x01 => 1
  | 0x05 => 1
  | 0x40 => 1
  | 0x0B => if detail = 1 then 1 else 2
  | 0x02 => 2 | 0x03 => 2 | 0x04 => 2 | 0x06 => 2 | 0x07 => 2 | 0x08 => 2 | 0x09 => 2 | 0x0A => 2
  | 0x10 => if detail = 2 then 2 else 0
  | 0x11 => 2 | 0x2B => 2 | 0x41 => 2 | 0x44 => 2 | 0x45 => 2
  | 0x0D => if detail = 2 then 3 else 0
  | 0x12 => 3 | 0x13 => 3 | 0x14 => 3 | 0x15 => 3 | 0x52 => 3
  | _ => 0

/-- DW3 with UNIT in [63:48] (R713). -/
def unitDw3 (unit rest : Nat) : Nat := unit % 0x10000 * 2 ^ 48 + rest

/-- What an unlisted byte of DRAM reads as (log 2): 0 after power-on reset, a free value once DRAM contents have been lost. -/
def MemState.base (m : MemState) (a : Nat) : Byte := if m.lost = 0 then 0 else Config.lostByte m.lost a

/-- The byte of DRAM at `a`. -/
def MemState.byte (m : MemState) (a : Nat) : Byte := m.bytes.get (m.base a) a

/-- Write bytes to DRAM without touching poison marks or reservations. -/
def State.rawWrite (s : State) (a : Nat) (l : List Byte) : State :=
  match l with
  | [] => s
  | b :: rest =>
    { s with mem := { s.mem with bytes := s.mem.bytes.set (s.mem.base a) a b } }.rawWrite (a + 1) rest

/-- Poison units that bytes `a` to `a + n - 1` touch (R495). -/
def unitsOf (a n : Nat) : List Nat :=
  if n = 0 then [] else (List.range ((n - 1 + a % 32) / 32 + 1)).map (fun i => i + a / 32)

/-- Units wholly inside bytes `a` to `a + n - 1`. -/
def wholeUnits (a n : Nat) : List Nat := (unitsOf a n).filter (fun u => decide (a ≤ u * 32) && decide (u * 32 + 32 ≤ a + n))

/-- Change every listed hewer; a hewer at its reset values is not listed. -/
def State.mapHewers (s : State) (f : Nat → Hewer → Hewer) : State :=
  { s with hewers := s.hewers.filterMap (fun (e : Nat × Hewer) =>
      let x := f e.1 e.2
      if x = Hewer.reset then none else some (e.1, x)) }

/-- Does granule `g` hold one of bytes `a` to `a + n - 1`? -/
def granuleHit (a n g : Nat) : Bool := n != 0 && decide (a / 64 ≤ g) && decide (g ≤ (a + n - 1) / 64)

/-- The hewer's reservation goes when its granule is written. -/
def Hewer.loseResv (x : Hewer) (a n : Nat) : Hewer :=
  match x.resv with
  | some g => if granuleHit a n g then { x with resv := none } else x
  | none => x

/-- Clear the reservations of every agent but hewer `who` on the granules written (R305). -/
def State.clearResv (s : State) (who : Option Nat) (a n : Nat) : State :=
  s.mapHewers (fun h x => if who = some h then x else x.loseResv a n)

/-- A store of a hewer to DRAM: it merges into poisoned units, which stay poisoned (R497). -/
def State.hewerWrite (s : State) (who : Option Nat) (a : Nat) (l : List Byte) : State :=
  (s.rawWrite a l).clearResv who a l.length

/-- A write of clean data by local source `src`, made at the hub: it clears the mark of every unit it writes whole (R474, R479,
R497). -/
def State.dmaWriteBy (s : State) (src a : Nat) (l : List Byte) : State :=
  let s1 := ((s.hubAccess a l.length src true).rawWrite a l).clearResv none a l.length
  let keep := fun (u : Nat) => !(wholeUnits a l.length).contains u
  { s1 with mem := { s1.mem with poison := s1.mem.poison.filter keep, ueSeen := s1.mem.ueSeen.filter keep } }

/-- A write of clean data by the device itself. -/
def State.dmaWrite (s : State) (a : Nat) (l : List Byte) : State := s.dmaWriteBy srcDevice a l

/-- A write of poisoned data by local source `src`: every unit that receives a byte carries the mark (R496, R625). -/
def State.dmaWritePoison (s : State) (src a : Nat) (l : List Byte) : State :=
  let s1 := ((s.hubAccess a l.length src true).rawWrite a l).clearResv none a l.length
  { s1 with mem := { s1.mem with poison := (unitsOf a l.length).foldl insertNat s1.mem.poison } }

/-- `n` bytes of DRAM from address `a`. -/
def State.readBytes (s : State) (a n : Nat) : List Byte := (List.range n).map (fun i => s.mem.byte (a + i))

/-- Does any unit that bytes `a` to `a + n - 1` touch carry the mark? -/
def State.poisoned (s : State) (a n : Nat) : Bool := (unitsOf a n).any (fun u => s.mem.poison.contains u)

/-- The little-endian doubleword at `a`. -/
def State.readDw (s : State) (a : Nat) : Nat := natLE (s.readBytes a 8)

/-- Bytes of the ring of fault records; 0 while it counts as off (R716). -/
def State.logSize (s : State) : Nat :=
  let z := s.fld F.FLT_LOG_BASE.SIZE
  let base := s.fld F.FLT_LOG_BASE.BASE * 4096
  if z = 0 || s.dramSize < base + 2 ^ z * 32 then 0 else 2 ^ z

/-- Does the ring take one more record now (R716)? -/
def State.logRoom (s : State) : Bool :=
  let n := s.logSize
  let head := s.fld F.FLT_LOG_PTR.HEAD
  let tail := s.fld F.FLT_LOG_PTR.TAIL
  let at_ := s.fld F.FLT_LOG_BASE.BASE * 4096 + head % (if n = 0 then 1 else n) * 32
  n != 0 && (head + 0x10000 - tail) % 0x10000 != n && s.dramReach at_ 32

/-- DW1 of a record (R712). -/
def FaultRec.dw1 (r : FaultRec) (seq : Nat) : Nat :=
  r.source * 2 ^ 40 + r.code * 2 ^ 32 + r.cls * 2 ^ 28 + r.sev * 2 ^ 26 + seq % 0x10000

/-- Write one record to the ring and advance HEAD (R716). -/
def State.logWrite (s : State) (r : FaultRec) : State :=
  let head := s.fld F.FLT_LOG_PTR.HEAD
  let at_ := s.fld F.FLT_LOG_BASE.BASE * 4096 + head % s.logSize * 32
  let body := bytesLE 8 r.time ++ bytesLE 8 (r.dw1 (head + 1)) ++ bytesLE 8 r.dw2 ++ bytesLE 8 r.dw3
  (s.dmaWrite at_ body).setFld F.FLT_LOG_PTR.HEAD ((head + 1) % 0x10000)

/-- Set bits of FLT_NOTIFY; leaving 0 sends the physical function's vector (R718). -/
def State.notify (s : State) (bits : Nat) : State :=
  let old := (s.reg Adr.FLT_NOTIFY).toNat
  let s1 := s.setReg Adr.FLT_NOTIFY (BitVec.ofNat 64 (old ||| bits))
  if old = 0 && bits != 0 && s.flag F.FLT_CTL.MSIX_EN then s1.sendMsix 0 (s.fld F.FLT_CTL.VEC) else s1

/-- The bits of FLT_NOTIFY that a record sets (R718). -/
def notifyBits (code sev : Nat) : Nat :=
  1 + (if sev = 2 then 2 else 0) + (if code = 0x08 then 4 else 0) + (if code = 0x13 then 8 else 0)
    + (if code = 0x14 || code = 0x15 || code = 0x52 then 16 else 0)

/-- Put a record into the hub buffer, or drop and count it when the buffer is full (R716). -/
def State.bufferRecord (s : State) (r : FaultRec) : State :=
  if s.flt.buffer.length < 64 then { s with flt := { s.flt with buffer := s.flt.buffer ++ [r] } }
  else { s.count F.FLT_COUNTS.DROPPED 1 with flt := { s.flt with droppedNow := s.flt.droppedNow + 1 } }

/-- The fault block accepts a record: it notifies, and the record goes to the ring or to the hub buffer (R715, R716, R718). The events of
severity 1 are counted where they are judged (R688, R701). -/
def State.logRecord (s : State) (r : FaultRec) : State :=
  if r.sev = 1 && !(s.flag F.FLT_CTL.LOG_CE) then s
  else
    let s2 := s.notify (notifyBits r.code r.sev)
    if s2.logRoom && s2.flt.buffer.isEmpty && s2.flt.droppedNow = 0 then s2.logWrite r else s2.bufferRecord r

/-- A stamped fault event with an explicit stamp: `cls` is the class of R687 plus 1, or 0. -/
def State.logAt (s : State) (time source code detail cls dw2 dw3 : Nat) : State :=
  s.logRecord ⟨time, source, code, cls, severityOf code detail, dw2, dw3⟩

/-- A stamped fault event whose stamp is the counter, with local source `loc` (R61). -/
def State.log (s : State) (loc code detail cls dw2 dw3 : Nat) : State :=
  let st := s.stamp loc
  st.2.logAt st.1 (s.source loc) code detail cls dw2 dw3

/-! ### Hewers and twins -/

/-- Has the fault block removed hewer `h` (R695)? -/
def State.removed (s : State) (h : Nat) : Bool := (s.fld (F.FLT_GAL_MAP.REMOVED (h / 8))).testBit (h % 8)

/-- General register `r` of a hewer; w0 reads 0 (R232). -/
def Hewer.getW (x : Hewer) (r : Nat) : Word := if r = 0 then 0 else x.w.get 0 r
/-- Write general register `r`: w0 discards the value; a write clears the poison mark (R232, R344). -/
def Hewer.setW (x : Hewer) (r : Nat) (v : Word) : Hewer :=
  if r = 0 then x else { x with w := x.w.set 0 r v, wPoison := eraseNat x.wPoison r }
/-- Vector register `r`. -/
def Hewer.getV (x : Hewer) (r : Nat) : VWord := x.v.get 0 r
/-- Write vector register `r`; a write clears the poison mark (R344). -/
def Hewer.setV (x : Hewer) (r : Nat) (v : VWord) : Hewer :=
  { x with v := x.v.set 0 r v, vPoison := eraseNat x.vPoison r }

/-- The operation's outcome: every effect has a next state. -/
def done (s : State) : Host.Outcome State Fault Refusal := .next s

end Sys2Proof.Machine
end

