-- ==== Sys2Proof/Machine/Lode.lean ====
section
/-!
DEFINITION. The lode (R83 to R129): slots and their two copies, the write procedure, epochs, views and ageing, forces,
peer windows and slot configuration. Notifications to the draught are returned as stamps, since releases belong to it.
-/
namespace Sys2Proof.Machine

def State.slot (s : State) (i : Nat) : LodeSlot := s.lode.slots.get LodeSlot.reset i
def State.setSlot (s : State) (i : Nat) (x : LodeSlot) : State :=
  { s with lode := { s.lode with slots := s.lode.slots.set LodeSlot.reset i x } }

/-- Slots of the lode (R83). -/
def slotCount : Nat := 262144

def qNeverWritten : Nat := 0x00
def qGood : Nat := 0x01
def qStale : Nat := 0x02
def qForced : Nat := 0x04
def qPoisoned : Nat := 0x06
def qOutOfRange : Nat := 0x07

/-- How many epochs ago, modulo 2^32, a copy was last written (R84, R128). -/
def tagAge (openEpoch tag : Nat) : Nat := (openEpoch % 2 ^ 32 + 2 ^ 32 - tag % 2 ^ 32) % 2 ^ 32

/-- Was the copy last written in that epoch? -/
def LodeCopy.inEpoch (c : LodeCopy) (openEpoch : Nat) : Bool := c.tag % 2 ^ 32 == openEpoch % 2 ^ 32

def State.openEpoch (s : State) : Nat := s.fld F.LOD_EPOCH.OPEN

/-- Is copy 0 the copy with the later TAG? At equal TAGs copy 0 is taken (log 8). -/
def LodeSlot.newIsZero (x : LodeSlot) (openEpoch : Nat) : Bool :=
  decide (tagAge openEpoch x.c0.tag ≤ tagAge openEpoch x.c1.tag)

/-- The copy with the later TAG, which is the current view (R118). -/
def LodeSlot.newest (x : LodeSlot) (openEpoch : Nat) : LodeCopy := if x.newIsZero openEpoch then x.c0 else x.c1
/-- The other copy. -/
def LodeSlot.oldest (x : LodeSlot) (openEpoch : Nat) : LodeCopy := if x.newIsZero openEpoch then x.c1 else x.c0
/-- Set the copy with the later TAG. -/
def LodeSlot.setNewest (x : LodeSlot) (openEpoch : Nat) (c : LodeCopy) : LodeSlot :=
  if x.newIsZero openEpoch then { x with c0 := c } else { x with c1 := c }
/-- Set the other copy. -/
def LodeSlot.setOldest (x : LodeSlot) (openEpoch : Nat) (c : LodeCopy) : LodeSlot :=
  if x.newIsZero openEpoch then { x with c1 := c } else { x with c0 := c }

/-- The snapshot view: the copy whose TAG is the latest before the open epoch (R100). -/
def LodeSlot.snapshot (x : LodeSlot) (openEpoch : Nat) : LodeCopy :=
  let n := x.newest openEpoch
  if n.inEpoch openEpoch then x.oldest openEpoch else n

/-- The quality a copy presents at reference time `ref` (R107). -/
def State.presented (s : State) (x : LodeSlot) (c : LodeCopy) (ref : Nat) : Nat :=
  if x.age != 0 && c.quality % 256 = qGood && s.fld (F.LOD_AGE_LIMIT.LIMIT x.age) + c.ptime < ref then
    c.quality - qGood + qStale
  else c.quality

/-- The 32 bytes of a copy as presented (R84). -/
def copyBytes (x : LodeSlot) (c : LodeCopy) (quality : Nat) : List Byte :=
  bytesLE 8 c.value.toNat ++ bytesLE 8 c.ptime
  ++ bytesLE 8 (c.source * 2 ^ 40 + quality % 0x10000 * 2 ^ 24 + c.seq % 0x10000 * 2 ^ 8 + x.kind * 16
      + b2n c.late * 8 + b2n c.older * 4)
  ++ bytesLE 8 (c.tag % 2 ^ 32 * 2 ^ 32 + b2n x.dirOut * 2 ^ 15 + b2n c.frz * 2 ^ 14 + b2n x.evt * 2 ^ 13 + x.age)

/-- The 32 bytes of the snapshot view, aged against LOD_OPEN_B (R108). -/
def State.snapshotBytes (s : State) (i : Nat) : List Byte :=
  let x := s.slot i
  let c := x.snapshot s.openEpoch
  copyBytes x c (s.presented x c (s.fld F.LOD_OPEN_B.BOUNDARY))

/-- The 32 bytes of the current view, aged against the counter (R108). -/
def State.currentBytes (s : State) (i : Nat) : List Byte :=
  let x := s.slot i
  let c := x.newest s.openEpoch
  copyBytes x c (s.presented x c s.time.now)

/-- Slot `i`'s 64 bytes of the lode window (R118). -/
def State.windowBytes (s : State) (i : Nat) : List Byte := s.snapshotBytes i ++ s.currentBytes i

/-- The copy that an egress read at R takes (R115), with the quality it presents (R108). -/
def State.egressCopy (s : State) (i r : Nat) : LodeCopy × Nat :=
  let x := s.slot i
  let cur := x.newest s.openEpoch
  let snap := x.snapshot s.openEpoch
  let c := if cur.ptime ≤ r then cur else if snap.ptime ≤ r then snap else cur
  (c, s.presented x c r)

/-! ### Kinds (R86, R90) -/

/-- The numeric value of a kind as a dyadic number; none for a NaN or an infinity, with its sign where it has one. -/
inductive KindVal where
  | num (neg : Bool) (m : Nat) (e : Int)
  | inf (neg : Bool)
  | nan
deriving DecidableEq, Repr

/-- Read a value of a numeric kind (R86). -/
def kindVal (kind : Nat) (v : Word) : KindVal :=
  let ofInt := fun (i : Int) (e : Int) => KindVal.num (decide (i < 0)) i.natAbs e
  match kind with
  | 0 => match fpDecode .dbl v.toNat with
    | .nan _ => .nan
    | .inf n => .inf n
    | .fin n m e => .num n m e
  | 1 => ofInt (signedOf 64 v.toNat) 0
  | 6 => ofInt (signedOf 64 v.toNat) (-32)
  | _ => ofInt (v.toNat : Int) 0

/-- Is a kind one of those that convert by numeric value (R90)? -/
def kindNumeric (kind : Nat) : Bool := kind = 0 || kind = 1 || kind = 2 || kind = 4 || kind = 6

/-- An integer kept within a range: the code, and whether it saturated. -/
def saturate (lo hi x : Int) : Word × Bool :=
  if x < lo then (BitVec.ofInt 64 lo, true) else if hi < x then (BitVec.ofInt 64 hi, true) else (BitVec.ofInt 64 x, false)

/-- Convert a value between kinds (R90): none when it cannot be; else the value and whether it is out of range. -/
def convertKind (src dst : Nat) (v : Word) : Option (Word × Bool) :=
  if src = dst then some (v, false)
  else if !(kindNumeric src) || !(kindNumeric dst) then none
  else if dst = 0 then
    match kindVal src v with
    | .num n m e =>
      if m = 0 then some (0, false)
      else some (BitVec.ofNat 64 (fpRound .dbl .nearestEven n m e false).bits, false)
    | .inf n => some (BitVec.ofNat 64 (FpFmt.infBits .dbl n), false)
    | .nan => some (0, true)
  else
    let lo : Int := if dst = 1 || dst = 6 then -(2 ^ 63 : Nat) else 0
    let hi : Int := if dst = 1 || dst = 6 then (2 ^ 63 - 1 : Nat) else (2 ^ 64 - 1 : Nat)
    let sh : Int := if dst = 6 then 32 else 0
    match kindVal src v with
    | .num n m e => some (saturate lo hi (fpToIntExact .nearestEven n m (e + sh)).1)
    | .inf n => some (BitVec.ofInt 64 (if n then lo else hi), true)
    | .nan => some (0, true)

/-! ### Writes (R88 to R95) -/

/-- May a path write a slot of that direction (R88)? -/
def pathMayWrite (p : LodePath) (dirOut : Bool) : Bool :=
  match p with
  | .link => !dirOut
  | .host => !dirOut
  | .anemometer => !dirOut
  | .software => true
  | .commit => dirOut
  | .force => true

/-- Is a write stamped `t` under a force of the slot (R93)? -/
def LodeSlot.forcedAt (x : LodeSlot) (t : Nat) : Bool :=
  x.forces.any (fun f => decide (f.1 ≤ t) && (match f.2 with | none => true | some c => decide (t < c)))

/-- A force is set with effective time `t` (R93). -/
def LodeSlot.setForce (x : LodeSlot) (t : Nat) : LodeSlot := { x with forces := (t, none) :: x.forces }

/-- The forces that began by `t` are cleared with effective time `t` (R93). -/
def LodeSlot.clearForce (x : LodeSlot) (t : Nat) : LodeSlot :=
  { x with forces := x.forces.map (fun f =>
      if f.1 ≤ t then (f.1, match f.2 with | none => some t | some c => some (if c < t then c else t)) else f) }

/-- FRZ of a copy that a write stamped `t` takes over for the open epoch (R84, R93). -/
def State.openFrz (s : State) (x : LodeSlot) (t : Nat) : Bool :=
  x.forcedAt (if t < s.fld F.LOD_OPEN_B.BOUNDARY then s.fld F.LOD_OPEN_B.BOUNDARY else t)

/-- What the lode makes of a write's value and quality: none when R89 drops it for its quality or kind. -/
def writeValue (x : LodeSlot) (w : LodeWrite) : Option (Word × Nat) :=
  if w.poison then some (0, qPoisoned)
  else if w.quality % 256 = qNeverWritten || 0x07 < w.quality % 256 then none
  else
    match convertKind w.kind x.kind w.value with
    | none => none
    | some (v, out) => some (v, if out then qOutOfRange else w.quality)

/-- Is the pending boundary passed by a stamp (R92, R98)? -/
def State.beyondPending (s : State) (t : Nat) : Bool :=
  s.flag F.LOD_STATUS.CLOSE_PEND && decide (s.fld F.LOD_PEND_B.BOUNDARY ≤ t)

/-- A write that R89 does not drop, applied to its slot (R92). Answers the stamp to notify the draught with, if any. -/
def State.storeCopy (s : State) (w : LodeWrite) (t : Nat) (v : Word) (q : Nat) : State × Option (Nat × Nat) :=
  let x := s.slot w.slot
  let o := s.openEpoch
  let new := x.newest o
  if t = new.ptime && w.source = new.source then (s, none)
  else
    let frz := s.openFrz x t
    let taken := !(new.inEpoch o)
    let dst := if taken then { new with tag := o % 2 ^ 32, late := false, older := false, frz := frz } else new
    let place := fun (c : LodeCopy) => if taken then x.setOldest o c else x.setNewest o c
    if stampBefore t w.source new.ptime new.source then
      ((s.setSlot w.slot (place { dst with older := true, frz := dst.frz || (frz && w.path = .force) })).count F.LOD_COUNTS.OLDER 1,
        none)
    else
      let late := decide (t < s.fld F.LOD_OPEN_B.BOUNDARY)
      let c : LodeCopy := { dst with value := v, ptime := t, source := w.source, quality := q, seq := (new.seq + 1) % 0x10000, late := late, frz := frz }
      let s1 := s.setSlot w.slot (place c)
      let s2 := if late then
        let s' := s1.count F.LOD_COUNTS.LATE 1
        { s' with lode := { s'.lode with upsets := s'.lode.upsets + 1 } } else s1
      (s2, if x.evt then some (t, w.source) else none)

/-- Apply a write to the lode now, with stamp time `t`: drop it (R89), hold it, or store it (R92). -/
def State.applyWrite (s : State) (w : LodeWrite) (t : Nat) : State × Option (Nat × Nat) :=
  let drop := (s.count F.LOD_COUNTS.DROPPED 1, none)
  if slotCount ≤ w.slot then drop
  else
    let x := s.slot w.slot
    if !(pathMayWrite w.path x.dirOut) then drop
    else if w.path != .force && x.forcedAt t then drop
    else
      match writeValue x w with
      | none => drop
      | some (v, q) =>
        if s.beyondPending t then
          ({ s with lode := { s.lode with hold := s.lode.hold ++ [.write { w with time := some t, frame := none }] } }, none)
        else s.storeCopy w t v q

/-- Clear a force in the open epoch's copy: its FRZ bit reads 0 at once, unless another force stands (R93, log 41). -/
def State.applyClear (s : State) (slot tc : Nat) : State :=
  let x := s.slot slot
  let o := s.openEpoch
  let new := x.newest o
  if new.inEpoch o then s.setSlot slot (x.setNewest o { new with frz := new.frz && x.forcedAt tc }) else s

/-- Put a configuration in force in both copies (R85, R126). -/
def State.applyConfig (s : State) (slot data : Nat) : State :=
  if slotCount ≤ slot then s
  else s.setSlot slot
    { s.slot slot with
      dirOut := bitOf data 15
      evt := bitOf data 13
      kind := bitsOf data 7 4
      age := bitsOf data 3 0 }

/-- Is the hold buffer full (R102)? -/
def State.holdFull (s : State) : Bool := decide (16384 ≤ s.lode.hold.length)

/-- Does the lode accept writes now (R102, R124)? -/
def State.lodeAccepts (s : State) : Bool :=
  s.pwr.pllLocked && s.domainOn 2 && s.flag F.LOD_STATUS.INIT_DONE && !s.holdFull

/-- HOLD_STALL is set when the buffer is full (R102). -/
def State.markStall (s : State) : State :=
  if s.holdFull && !(s.flag F.LOD_STATUS.HOLD_STALL) then
    let s1 := s.raise F.LOD_STATUS.HOLD_STALL
    { s1 with lode := { s1.lode with upsets := s1.lode.upsets + 1 } }
  else s

/-- Queue a write on its way to the lode (R95). -/
def State.queueWrite (s : State) (w : HoldItem) : State := { s with lode := { s.lode with inq := s.lode.inq ++ [w] } }

/-- Set a force of a slot and make its write, of the slot's own kind and quality FORCED (R93). -/
def State.applyForce (s : State) (w : LodeWrite) (t : Nat) : State × Option (Nat × Nat) :=
  if slotCount ≤ w.slot then (s.count F.LOD_COUNTS.DROPPED 1, none)
  else
    let x := s.slot w.slot
    (s.setSlot w.slot (x.setForce t)).applyWrite { w with kind := x.kind, quality := qForced } t

/-- The effective time of a SET or CLEAR that the lode accepts now (R94). -/
def State.forceTime (s : State) (t : Nat) : Nat := if t < s.time.now then s.time.now else t

/-- Apply one item that has reached the lode (R92, R93, R126). -/
def State.applyItem (s : State) (i : HoldItem) : State × Option (Nat × Nat) :=
  match i with
  | .write w =>
    let st := match w.time with
      | some t => (t, s)
      | none => s.stamp (w.source % 0x1000)
    if w.path = .force then st.2.applyForce w (s.forceTime st.1) else st.2.applyWrite w st.1
  | .clear slot tc =>
    let t := s.forceTime tc
    let s1 := s.setSlot slot ((s.slot slot).clearForce t)
    if s1.beyondPending t then ({ s1 with lode := { s1.lode with hold := s1.lode.hold ++ [.clear slot t] } }, none)
    else (s1.applyClear slot t, none)
  | .config slot d =>
    if s.mode = .configure then (s.applyConfig slot d, none)
    else ({ s with lode := { s.lode with hold := s.lode.hold ++ [i] } }, none)

/-- Apply one item of the hold buffer at a close (R99, R126): a write is judged again, with the configuration and the force in force
at the close (log 41). -/
def State.applyHeld (s : State) (i : HoldItem) : State × Option (Nat × Nat × Nat) :=
  match i with
  | .write w =>
    let r := s.applyWrite w (w.time.getD 0)
    (r.1, r.2.map (fun p => (w.slot, p.1, p.2)))
  | .clear slot t => (s.applyClear slot t, none)
  | .config slot d => (s.applyConfig slot d, none)

/-- Apply the held items in order; the notifications follow in order (R99). -/
def State.applyHolds (s : State) (l : List HoldItem) : State × List (Nat × Nat × Nat) :=
  match l with
  | [] => (s, [])
  | i :: rest =>
    let a := s.applyHeld i
    let b := a.1.applyHolds rest
    (b.1, a.2.toList ++ b.2)

/-! ### Epochs (R96 to R101) -/

/-- The last recorded boundary (R97). -/
def State.lastBoundary (s : State) : Nat :=
  if s.flag F.LOD_STATUS.CLOSE_PEND then s.fld F.LOD_PEND_B.BOUNDARY else s.fld F.LOD_OPEN_B.BOUNDARY

/-- An advance request with boundary `b`, accepted or refused (R97); the flag says accepted. -/
def State.advance (s : State) (b : Nat) : State × Bool :=
  if !(s.flag F.LOD_STATUS.CLOSE_PEND) && decide (s.lastBoundary < b) then
    let s1 := (s.setFld F.LOD_PEND_B.BOUNDARY b).raise F.LOD_STATUS.CLOSE_PEND
    ({ s1 with lode := { s1.lode with bounds := (b :: s1.lode.bounds).take 4 } }, true)
  else
    let s1 := (s.count F.LOD_COUNTS.REFUSED 1).log 0xF00 0x10 1 0 0 (2 ^ 40)
    ({ s1 with lode := { s1.lode with upsets := s1.lode.upsets + 1 } }, false)

/-- Request an advance: it waits while the lode initialises (R124). -/
def State.requestAdvance (s : State) (b : Nat) : State × Bool :=
  if s.flag F.LOD_STATUS.INIT_DONE then s.advance b
  else ({ s with lode := { s.lode with waitAdv := s.lode.waitAdv ++ [b] } }, false)

/-! ### Epoch advances by compare units (R79 to R81, R96) -/

/-- The smallest k ≥ 1 with target + k × period above `now` (R80). -/
def periodsPast (target period now : Nat) : Nat := if now < target then 1 else (now - target) / period + 1

/-- Is compare unit `n` due (R79)? -/
def State.cmpDue (s : State) (n : Nat) : Bool :=
  s.flag (F.TIM_CMP_CTL.ARM n) && decide ((s.reg (Adr.TIM_CMP_TARGET n)).toNat ≤ s.time.now)

/-- The unit disarms, or its target advances beyond plant time (R80). -/
def State.cmpAdvance (s : State) (n t : Nat) : State :=
  let period := (s.reg (Adr.TIM_CMP_PERIOD n)).toNat
  let s1 := s.raise (F.TIM_CMP_STAT.FIRED n)
  if period = 0 then s1.setFld (F.TIM_CMP_CTL.ARM n) 0
  else
    let k := periodsPast t period s.time.now
    let s2 := (s1.setReg (Adr.TIM_CMP_TARGET n) (BitVec.ofNat 64 (t + k * period))).count (F.TIM_CMP_STAT.MISSED n) (k - 1)
    if 1 < k then s2.log 0xF00 0x0F 0 0 0 (n * 2 ^ 42 + (if 0xFFFF < k - 1 then 0xFFFF else k - 1) * 2 ^ 26) else s2

/-- Does compare unit `n` owe an epoch advance stamped `t` or earlier? -/
def State.owesAdvance (s : State) (t n : Nat) : Bool :=
  s.cmpDue n && s.fld (F.TIM_CMP_CTL.ACTION n) = 5 && decide ((s.reg (Adr.TIM_CMP_TARGET n)).toNat ≤ t)

/-- Does a compare unit still owe an epoch advance stamped `t` or earlier (R81, R145)? -/
def State.advanceOwed (s : State) (t : Nat) : Bool := (List.range 64).any (s.owesAdvance t)

/-- The unit with the earliest target of a list, the first of equals. -/
def State.earliest (s : State) (l : List Nat) : Option Nat :=
  match l with
  | [] => none
  | n :: rest => match s.earliest rest with
    | none => some n
    | some m => if (s.reg (Adr.TIM_CMP_TARGET m)).toNat < (s.reg (Adr.TIM_CMP_TARGET n)).toNat then some m else some n

/-- Compare units with ACTION 5 fire, `k` of them at most, until none owes an advance stamped `t` or earlier: the lode records them in
the cycle in which plant time reaches them, before a release of that time (R79, R81, R145). -/
def State.advancesFirst (s : State) (t k : Nat) : State :=
  match k with
  | 0 => s
  | j + 1 =>
    if !s.pwr.pllLocked then s
    else match s.earliest ((List.range 64).filter (s.owesAdvance t)) with
      | none => s
      | some n =>
        let b := (s.reg (Adr.TIM_CMP_TARGET n)).toNat
        ((s.requestAdvance b).1.cmpAdvance n b).advancesFirst t j

/-- The boundary at which the snapshot of a release stamped `t` ends (R101). -/
def State.snapshotEnd (s : State) (t : Nat) : Nat :=
  if s.beyondPending t then s.fld F.LOD_PEND_B.BOUNDARY else s.fld F.LOD_OPEN_B.BOUNDARY

/-- Does an activation still gather the snapshot closed now, whose end is LOD_OPEN_B (R99)? -/
def State.gathersOpen (s : State) : Bool :=
  s.drt.tasks.any (fun e => match e.2.act with
    | some a => (a.stage = .heap || a.stage = .gathering) && a.snapEnd = s.fld F.LOD_OPEN_B.BOUNDARY
    | none => false)

/-- Is the pending advance due to close (R99)? -/
def State.closeDue (s : State) : Bool :=
  s.flag F.LOD_STATUS.CLOSE_PEND && decide (s.fld F.LOD_PEND_B.BOUNDARY + s.fld F.LOD_HORIZON.HORIZON ≤ s.time.now)

/-- Change query context `key` (adit × 256 + context). -/
def State.modQuery (s : State) (key : Nat) (f : QueryCtx → QueryCtx) : State :=
  { s with adt := { s.adt with queries := s.adt.queries.set QueryCtx.reset key (f (s.adt.queries.get QueryCtx.reset key)) } }

/-- An epoch close triggers the enabled query contexts with TRIG 1, at every EVERY-th close; a trigger merges with one that
waits (R657). -/
def State.queryClose (s : State) : State :=
  s.adt.queries.keys.foldl (fun s key =>
    let every := s.fld (F.ADT_Q_CFG.EVERY (key / 256) (key % 256))
    if s.flag (F.ADT_Q_CFG.EN (key / 256) (key % 256)) && s.fld (F.ADT_Q_CFG.TRIG (key / 256) (key % 256)) = 1 then
      s.modQuery key (fun x => { x with
        closes := x.closes + 1
        trig := if (x.closes + 1) % (if every = 0 then 1 else every) = 0 && x.trig.isNone then some s.time.cyc else x.trig })
    else s) s

/-- Close the open epoch (R99): the notifications of the held writes follow. -/
def State.closeEpoch (s : State) : State × List (Nat × Nat × Nat) :=
  let b := s.fld F.LOD_PEND_B.BOUNDARY
  let s1 := ((s.setFld F.LOD_EPOCH.OPEN (s.openEpoch + 1)).setFld F.LOD_OPEN_B.BOUNDARY b).setFld F.LOD_STATUS.CLOSE_PEND 0
  let s2 := (s1.setFld F.LOD_STATUS.GATHER_WAIT 0).queryClose
  let held := s2.lode.hold
  { s2 with lode := { s2.lode with hold := [] } }.applyHolds held

/-! ### Initialisation, errors, windows -/

/-- Start the initialisation of the lode (R123). -/
def State.initLode (s : State) : State :=
  let s1 := (s.setFld F.LOD_STATUS.INIT_DONE 0).setFld F.LOD_STATUS.CLOSE_PEND 0
  let s2 := (s1.setFld F.LOD_EPOCH.OPEN 1).setFld F.LOD_OPEN_B.BOUNDARY 0
  { s2 with lode := { s2.lode with slots := [], hold := [] } }

/-- Rewrite a copy whose error cannot be corrected, and log it (R127): LATE, OLDER and FRZ stay as they are (log 41). -/
def State.poisonCopy (s : State) (slot : Nat) (zero : Bool) : State :=
  let x := s.slot slot
  let bad := fun (c : LodeCopy) => { c with value := 0, ptime := s.time.now, source := s.source 0xF00, quality := qPoisoned }
  (s.setSlot slot (if zero then { x with c0 := bad x.c0 } else { x with c1 := bad x.c1 })).log 0xF00 0x10 2 0 0
    (2 * 2 ^ 40 + slot % slotCount * 2 ^ 22)

/-- Keep a TAG within `limit` epochs of the open epoch (R128). -/
def clampTag (openEpoch tag limit : Nat) : Nat :=
  if limit < tagAge openEpoch tag then (openEpoch + 2 ^ 32 - limit) % 2 ^ 32 else tag % 2 ^ 32

/-- Does active window `w` match a plant-link record (R109)? -/
def State.winMatchesLink (s : State) (w port dev idx : Nat) : Bool :=
  let first := s.fld (F.LOD_WIN_RANGE_A.FIRST w)
  let d := s.fld (F.LOD_WIN_MATCH_A.DEVICE w)
  s.flag (F.LOD_WIN_MAP_A.EN w) && s.fld (F.LOD_WIN_MATCH_A.ORIGIN w) = 0
  && (s.fld (F.LOD_WIN_MATCH_A.PORTS w)).testBit port
  && (dev = d || (s.flag (F.LOD_WIN_MATCH_A.PAIR w) && dev = d ^^^ 1))
  && decide (first ≤ idx) && decide (idx < first + s.fld (F.LOD_WIN_RANGE_A.COUNT w))

/-- Does active window `w` match a host record (R109)? -/
def State.winMatchesHost (s : State) (w fn idx : Nat) : Bool :=
  let first := s.fld (F.LOD_WIN_RANGE_A.FIRST w)
  s.flag (F.LOD_WIN_MAP_A.EN w) && s.fld (F.LOD_WIN_MATCH_A.ORIGIN w) = 1 && s.fld (F.LOD_WIN_MATCH_A.FUNC w) = fn
  && decide (first ≤ idx) && decide (idx < first + s.fld (F.LOD_WIN_RANGE_A.COUNT w))

/-- The slot that a window maps a record index onto (R110). -/
def State.winSlot (s : State) (w idx : Nat) : Nat :=
  s.fld (F.LOD_WIN_MAP_A.SLOT_BASE w) + (idx - s.fld (F.LOD_WIN_RANGE_A.FIRST w))

/-- Copy the shadow set of window `w` into its active set (R111). -/
def State.copyWindow (s : State) (w : Nat) : State :=
  ((s.setReg (Adr.LOD_WIN_MATCH_A w) (s.reg (Adr.LOD_WIN_MATCH w))).setReg (Adr.LOD_WIN_RANGE_A w)
    (s.reg (Adr.LOD_WIN_RANGE w))).setReg (Adr.LOD_WIN_MAP_A w) (s.reg (Adr.LOD_WIN_MAP w))

end Sys2Proof.Machine
end

