-- ==== Sys2Proof/Machine/Hewer.lean ====
section
/-!
DEFINITION. What all instructions of a hewer share: PSTAT, the entry to S and M (R249, R437 to R450), control state
inside its distance (R325 to R329), comparators (R782 to R787), and the completion of an instruction.
-/
namespace Sys2Proof.Machine

/-! ### PSTAT (R265) -/

def Hewer.psf (x : Hewer) (hi lo : Nat) : Nat := bitsOf x.pstat.toNat hi lo
def Hewer.setPsf (x : Hewer) (hi lo v : Nat) : Hewer :=
  { x with pstat := BitVec.ofNat 64 (setBits x.pstat.toNat hi lo v) }
/-- Privilege: 0 U, 1 S, 3 M (R247). -/
def Hewer.pl (x : Hewer) : Nat := x.psf 15 14
def Hewer.ilvl (x : Hewer) : Nat := x.psf 27 24
def Hewer.bodyBit (x : Hewer) : Bool := x.psf 13 13 = 1
def Hewer.banked (x : Hewer) : Bool := x.psf 12 12 = 1
def Hewer.flagN (x : Hewer) : Bool := x.psf 31 31 = 1
def Hewer.flagZ (x : Hewer) : Bool := x.psf 30 30 = 1
def Hewer.flagC (x : Hewer) : Bool := x.psf 29 29 = 1
def Hewer.flagV (x : Hewer) : Bool := x.psf 28 28 = 1
/-- N, Z, C, V as the number 8N + 4Z + 2C + V. -/
def Hewer.nzcv (x : Hewer) : Nat := x.psf 31 28
def Hewer.setNzcv (x : Hewer) (v : Nat) : Hewer := x.setPsf 31 28 v

/-! ### Sets and system registers -/

/-- The exception set of S or M (R248). -/
def Hewer.set (x : Hewer) (m : Bool) : ExcSet := if m then x.mSet else x.sSet
def Hewer.putSet (x : Hewer) (m : Bool) (e : ExcSet) : Hewer := if m then { x with mSet := e } else { x with sSet := e }

/-- Clear the prediction structures of the twin that backs `h` (R363). -/
def State.flushPred (s : State) (h : Nat) : State := s.modTwin (s.twinOf h) (fun t => { t with pred := Predictor.cold })

/-- L1 I is invalidated as a whole (R348, R371, R476). -/
def State.l1iDrop (s : State) (h : Nat) : State := s.modTwin (s.twinOf h) (fun t => { t with l1i := [] })

/-- A write of the decode table or the microcode store reaches a twin's copy (R376, R394). -/
def Twin.cdtTake (t : Twin) (w : CdtWrite) : Twin :=
  match w with
  | .word a v => { t with cdtW := t.cdtW.set 0 a v }
  | .entry n v => { t with cdtE := t.cdtE.set 0 n v }

/-- The next `n` of the writes in flight reach a twin's copy, in the order the hub accepted them (R394). -/
def Twin.cdtAdvance (t : Twin) (l : List CdtWrite) (n : Nat) : Twin :=
  { ((l.drop t.cdtSeen).take n).foldl Twin.cdtTake t with cdtSeen := t.cdtSeen + ((l.drop t.cdtSeen).take n).length }

/-- The entry values of a copy that a write in flight may leave behind: an instruction decoded before may still run under them (R396). -/
def Twin.cdtLeaves (t : Twin) (w : CdtWrite) : List (Nat × Word) :=
  match w with
  | .word _ _ => []
  | .entry n v => [(n, t.cdtE.get 0 n), (n, v)]

/-- `n` more of the writes in flight reach the copy of the twin that backs `h`. -/
def State.cdtBring (s : State) (h n : Nat) : State :=
  let t := s.twin (s.twinOf h)
  let l := ((s.cdt.inFlight.drop t.cdtSeen).take n).flatMap t.cdtLeaves
  (s.setTwin (s.twinOf h) (t.cdtAdvance s.cdt.inFlight n)).modHew h (fun x => { x with cdtOld := l ++ x.cdtOld })

/-- Some of the writes in flight, a free number of them, have reached the copy of the twin that backs `h` (R394, log 3). -/
def State.cdtDrift (s : State) (h : Nat) : State :=
  let left := s.cdt.inFlight.length - (s.twin (s.twinOf h)).cdtSeen
  if left = 0 then s else { s.cdtBring h (Config.cdtChoice s.freeCtr h % (left + 1)) with freeCtr := s.freeCtr + 1 }

/-- `cdtsync`: the hewer's copy of the decode table has reached every accepted write, and nothing decoded before is held (R321,
R322). -/
def State.cdtReach (s : State) (h : Nat) : State :=
  (s.cdtBring h s.cdt.inFlight.length).modHew h (fun x => { x with cdtOld := [], micro := none })

/-- The window of the set entered begins (R448). -/
def Hewer.openWindow (x : Hewer) (m : Bool) : Hewer := if m then { x with winM := true } else { x with winS := true }

/-- An instruction commits: the window of the set of its privilege ends (R448). -/
def Hewer.endWindow (x : Hewer) : Hewer :=
  if x.pl = 3 then { x with winM := false } else if x.pl = 1 then { x with winS := false } else x

/-- Put a returned load into its register, with the poison mark where its data carries it (R341, R344). -/
def Hewer.landLoad (x : Hewer) (m : MissedLoad) : Hewer :=
  if m.vec then
    let y := x.setV m.rd (BitVec.ofNat 128 m.data)
    if m.poison then { y with vPoison := insertNat y.vPoison m.rd } else y
  else if m.rd = 0 then x
  else
    let y := x.setW m.rd (BitVec.ofNat 64 m.data)
    if m.poison then { y with wPoison := insertNat y.wPoison m.rd } else y

/-- Does the hewer wait for a host request? -/
def Hewer.waitsHost (x : Hewer) : Bool := x.missed.any (fun m => m.tag.isSome)

/-- Every outstanding load returns, oldest first. -/
def Hewer.landAll (x : Hewer) : Hewer := { x.missed.foldl Hewer.landLoad x with missed := [] }

/-- Every outstanding load that waits for no host request returns, oldest first: what an entry does before its first instruction
(R374). -/
def Hewer.landBack (x : Hewer) : Hewer :=
  { (x.missed.filter (fun m => m.tag.isNone)).foldl Hewer.landLoad x with missed := x.missed.filter (fun m => m.tag.isSome) }

/-- ECAUSE as an `mts` stores it: reserved bits 0, and a PPL of 2 or above the privilege becomes the privilege (R251). -/
def causeWrite (v : Word) (pl : Nat) : Word :=
  let p := bitsOf v.toNat 17 16
  BitVec.ofNat 64 (bitsOf v.toNat 31 28 * 2 ^ 28 + bitsOf v.toNat 27 24 * 2 ^ 24
    + (if p = 2 || pl < p then pl else p) * 2 ^ 16 + bitsOf v.toNat 8 0)

/-- ECAUSE at an entry (R249). -/
def Hewer.causeWord (x : Hewer) (isInt : Bool) (code : Nat) : Word :=
  BitVec.ofNat 64 (x.nzcv * 2 ^ 28 + x.ilvl * 2 ^ 24 + x.pl * 2 ^ 16 + b2n isInt * 2 ^ 8 + code % 256)

/-- Does an exception of cause `code` from privilege `pl` enter M (R440)? -/
def State.routesToM (s : State) (h pl code : Nat) : Bool :=
  if pl = 3 then true
  else if code = 0x0F then false
  else if code = 0x10 || code = 0x18 then true
  else ((s.reg (Adr.HWR_XROUTE h)).toNat ||| 0x01010000).testBit code

/-- EPC of an exception raised by the instruction at the program counter: the transfer in whose slot it stands (R292),
the `rep` that repeats it (R296), or itself (R446). -/
def Hewer.excPc (x : Hewer) : Word :=
  match x.unit with
  | some u => u.addr
  | none => match x.rep with
    | some a => a
    | none => x.pc

/-! ### Control state inside its distance (R325 to R329) -/

def CtlReg.code : CtlReg → Nat
  | .pkr => 0 | .bank => 1 | .cnt => 2 | .asid => 3 | .iroot => 4 | .droot => 5 | .xmode => 6 | .cdtctl => 7

/-- The latest value written. -/
def Hewer.ctlLatest (x : Hewer) (r : CtlReg) : Word :=
  match r with
  | .pkr => x.pkr | .bank => x.bank | .cnt => x.cnt | .asid => x.asid
  | .iroot => x.iroot | .droot => x.droot | .xmode => x.xmode | .cdtctl => x.cdtctl

/-- Set the latest value. -/
def Hewer.ctlPut (x : Hewer) (r : CtlReg) (v : Word) : Hewer :=
  match r with
  | .pkr => { x with pkr := v } | .bank => { x with bank := v } | .cnt => { x with cnt := v } | .asid => { x with asid := v }
  | .iroot => { x with iroot := v } | .droot => { x with droot := v } | .xmode => { x with xmode := v }
  | .cdtctl => { x with cdtctl := v }

/-- The values that an instruction within a distance may see (R327): the latest and those it replaced. -/
def Hewer.ctlChoices (x : Hewer) (r : CtlReg) : List Word :=
  x.ctlLatest r :: (x.ctl.filter (fun p => p.reg = r)).map CtlPending.old

/-- The value that the instruction in hand sees, the same through all of it: a free value picks among the choices (R327, log 7). -/
def State.ctlSeen (s : State) (h : Nat) (r : CtlReg) : Word :=
  let x := s.hew h
  match x.ctlChoices r with
  | [v] => v
  | l => l.getD (Config.ctlChoice x.ctlKey r.code % l.length) (x.ctlLatest r)

/-- A write of control state: the old value may still be seen for `left` instructions, or until `sync`, and so may the values that
writes inside their own distance have replaced (R326, R327). -/
def Hewer.ctlWrite (x : Hewer) (r : CtlReg) (v : Word) (left : Option Nat) : Hewer :=
  { x.ctlPut r v with ctl := ⟨r, x.ctlLatest r, left⟩ :: x.ctl.map (fun p => if p.reg = r then { p with left := left } else p) }

/-- One more instruction of every distance has passed (R325). -/
def Hewer.ctlPass (x : Hewer) : Hewer :=
  { x with ctl := (x.ctl.map (fun p => { p with left := p.left.map (fun n => n - 1) })).filter (fun p => p.left != some 0) }

/-! ### Comparators (R782 to R787) -/

/-- What an instruction shows the comparators: the kinds of R783 that the item serves, and its range. -/
structure CmpItem where
  kinds : List Nat
  lo : Nat
  hi : Nat
deriving DecidableEq, Repr

/-- Does comparator `c` match one of the items (R782)? -/
def State.cmpMatch (s : State) (h c : Nat) (items : List CmpItem) : Bool :=
  if !(s.flag (F.DBG_HWR_CMP_CTL.EN h c)) then false
  else
    let x := s.hew h
    let plBit := if x.pl = 0 then 0 else if x.pl = 1 then 1 else 2
    let kind := s.fld (F.DBG_HWR_CMP_CTL.KIND h c)
    let lo := (s.reg (Adr.DBG_HWR_CMP_LO h c)).toNat
    let hi := (s.reg (Adr.DBG_HWR_CMP_HI h c)).toNat
    (s.fld (F.DBG_HWR_CMP_CTL.PLM h c)).testBit plBit
    && (!(s.flag (F.DBG_HWR_CMP_CTL.ASID_EN h c)) || s.fld (F.DBG_HWR_CMP_CTL.ASID h c) = x.asid.toNat % 0x10000)
    && (!(s.flag (F.DBG_HWR_CMP_CTL.TASK_EN h c))
        || (x.bodyBit && s.fld (F.DBG_HWR_CMP_CTL.TASKID h c) = x.taskid.toNat % 0x10000))
    && items.any (fun i => i.kinds.contains kind && decide (lo ≤ i.hi) && decide (i.lo ≤ hi))

/-- The LINK of comparator `c`: 0 none, 1 AND, 2 SEQ (R784). -/
def State.cmpLink (s : State) (h c : Nat) : Nat :=
  if c = 0 then 0 else
    let l := s.fld (F.DBG_HWR_CMP_CTL.LINK h c)
    if l = 3 then 0 else l

/-- Evaluate the chain upward from comparator `c`, `n` of them left: `prev` says that c − 1 is satisfied; answers the
comparators satisfied and the new arming (R784). -/
def State.cmpChain (s : State) (h : Nat) (items : List CmpItem) (n c : Nat) (prev : Bool) (armed : Nat) : List Nat × Nat :=
  match n with
  | 0 => ([], armed)
  | k + 1 =>
    let m := s.cmpMatch h c items
    let l := s.cmpLink h c
    let sat := m && (l = 0 || (l = 1 && prev) || (l = 2 && armed.testBit c))
    let armed1 := if l = 2 then (if sat then setBits armed c c 0 else if prev then setBits armed c c 1 else armed) else armed
    let r := s.cmpChain h items k (c + 1) sat armed1
    (if sat then c :: r.1 else r.1, r.2)

/-- The comparators that take effect: satisfied, and not the lower member of a link (R784). -/
def State.cmpEffects (s : State) (h : Nat) (items : List CmpItem) : List Nat × Nat :=
  let r := s.cmpChain h items 8 0 false (s.hew h).armed
  (r.1.filter (fun c => c = 7 || s.cmpLink h (c + 1) = 0), r.2)

/-- Has an open session the authority to halt (R763, R765): level INTRUSIVE, and RUN_OK in RUN and DEGRADED? -/
def State.haltAuthority (s : State) : Bool :=
  decide (2 ≤ s.fld F.DBG_SESSION.LEVEL) && (!(s.mode = .run || s.mode = .degraded) || s.flag F.DBG_SESSION.RUN_OK)

/-- Ask for a halt of hewer `h` with a cause (R772); removed and check-stopped hewers and those without power are left
alone (R781). -/
def State.askHalt (s : State) (h cause : Nat) : State :=
  if s.removed h || (s.hew h).checkStopped || (s.hew h).halted || !(s.domainOn (shaftDomain h)) || !(s.hew h).started then s
  else s.modHew h (fun x => { x with haltReq := some (x.haltReq.getD cause) })

/-- Ask for a halt of every hewer from `h` on, `n` of them (R780). -/
def State.askHalts (s : State) (n h cause : Nat) : State :=
  match n with
  | 0 => s
  | k + 1 => (s.askHalt h cause).askHalts k (h + 1) cause

/-- What comparators that take effect do (R785): the new state, and whether the instruction stops. -/
inductive CmpStop where
  | goOn | exception (eval : Nat) | halt
deriving DecidableEq, Repr

/-- Perform the actions of the comparators in `l`; `post` marks an event decided after completion (R785, R786). -/
def State.cmpAct (s : State) (h : Nat) (l : List Nat) (post : Bool) : State × CmpStop :=
  if l.isEmpty then (s, .goOn)
  else
    let mask := l.foldl (fun m c => m + 2 ^ c) 0
    let s1 := s.setFld (F.DBG_HWR_RSTAT.MATCH h) mask
    let act := fun (a : Nat) => l.any (fun c => s.fld (F.DBG_HWR_CMP_CTL.ACTION h c) = a)
    let wantHalt := act 2 || act 3 || act 4
    let s2 := if !wantHalt then s1
      else if !s.haltAuthority then s1.raise F.DBG_SESSION.HALT_SUPP
      else if act 4 then (s1.askHalt h 2).askHalts 512 0 3
      else if act 3 then (s1.askHalt h 2).askHalts 8 (h / 8 * 8) 3
      else s1.askHalt h 2
    if act 1 then (s2, .exception (mask + b2n post * 256))
    else if wantHalt && s.haltAuthority then (s2, .halt)
    else (s2, .goOn)

/-! ### An exception in hand -/

/-- An exception that an instruction raises. -/
structure Exc where
  code : Nat
  eval : Word
deriving DecidableEq, Repr

def mkExc (code : Nat) (eval : Nat) : Exc := ⟨code, BitVec.ofNat 64 eval⟩

/-! ### Running -/

/-- Can the hewer execute now (R449, R695, R736, R838)? -/
def State.canRun (s : State) (h : Nat) : Bool :=
  let x := s.hew h
  s.pwr.pllLocked && s.domainOn (shaftDomain h) && x.started && !x.checkStopped && !(s.removed h)
    && !x.between && !x.twinLost && (!x.halted || x.stepping)

/-! ### Event counters (R794 to R797) -/

/-- Does counter `n` of hewer `h` count an event of kind `e` now (R795)? -/
def State.counts (s : State) (h n e : Nat) : Bool :=
  let x := s.hew h
  let plBit := if x.pl = 0 then 0 else if x.pl = 1 then 1 else 2
  let b := s.fld (F.TLY_HWR_EVT.BODY h n)
  e != 0 && s.fld (F.TLY_HWR_EVT.EVENT h n) = e && (s.fld (F.TLY_HWR_EVT.PLM h n)).testBit plBit
  && (b = 0 || (b = 1 && x.bodyBit) || (b = 2 && !x.bodyBit)) && !x.halted && !(s.flag F.TLY_GCTL.STOP)
  && (!(s.flag (F.TLY_HWR_STAT.FRZ h)) || s.fld (F.TLY_HWR_STAT.OVF h) = 0)

/-- Add to one counter; past 2^48 − 1 it wraps and sets its OVF bit (R796). -/
def State.addCount (s : State) (h n k : Nat) : State :=
  let c := s.fld (F.TLY_HWR_CTR.COUNT h n) + k
  let s1 := s.setFld (F.TLY_HWR_CTR.COUNT h n) (c % 2 ^ 48)
  if c < 2 ^ 48 then s1
  else s1.setFld (F.TLY_HWR_STAT.OVF h) (setBits (s1.fld (F.TLY_HWR_STAT.OVF h)) n n 1)

/-- Count `k` events of kind `e` in the counters of hewer `h` from number `n` on, `m` of them. -/
def State.tallyFrom (s : State) (h e k m n : Nat) : State :=
  match m with
  | 0 => s
  | j + 1 => (if s.counts h n e then s.addCount h n k else s).tallyFrom h e k j (n + 1)

/-- An event of kind `e` is noted for the record of the instruction that is tagged (R801, R802). -/
def State.noteEvent (s : State) (h e : Nat) : State :=
  if s.flag (F.TLY_HWR_SCTL.EN h) && (s.hew h).smpTag then s.modTwin (s.twinOf h) (fun t => { t with tagEv := t.tagEv ||| 2 ^ e })
  else s

/-- Count one event of kind `e` (R797). -/
def State.tally (s : State) (h e : Nat) : State := (s.noteEvent h e).tallyFrom h e 1 8 0

end Sys2Proof.Machine
end

