-- ==== Sys2Proof/Machine/Cache.lean ====
section
/-!
DEFINITION. What a hewer's accesses do to the caches (R343, R371, R472 to R479, R487 to R489): cache attributes, L1 I, L1 D, the
store buffer, walk reads, and the events that count them (R797).
-/
namespace Sys2Proof.Machine

/-- Cache attributes (R477): 0 may be held everywhere, 1 not in L1 D, 2 in the memory-side cache only. -/
def caHub : Nat := 2

/-- A hewer's request for a line below its L1s: at its gallery's L2, or at the hub with CA 2 (R475, R477, R488, R489). Answers
whether the L2 holds the line afterwards. -/
def State.l2Request (s : State) (h line ca cls : Nat) (write : Bool) : State × Bool :=
  if caHub ≤ ca then (s.hubUse line h write, false)
  else
    let r := s.l2Get (h / 8) line cls h write
    match r.2 with
    | .hit => (r.1, true)
    | .refill => ((r.1.tally h 0x00C).tally h 0x011, true)
    | .fill => (r.1.tally h 0x00C, true)
    | .none => (r.1.tally h 0x00C, false)

/-- A walk reads a table entry: CA 1, class 0 (R413, R478, R487). -/
def State.walkRead (s : State) (h pa : Nat) : State := (s.l2Request h (pa / 64) 1 0 false).1

/-- A fetch of the line at `pa` in L1 I: a miss fills it (R371, R472, R476). `wrong` marks the wrong path, whose fills count as
WRONG_PATH_FETCH (R367, R797). -/
def State.l1iUse (s : State) (h pa ca cls : Nat) (wrong : Bool) : State :=
  let tn := s.twinOf h
  let line := pa / 64
  let k := l1Set line
  let l := (s.twin tn).l1i.get [] k
  let put := fun (t : Twin) => { t with l1i := t.l1i.set [] k ((line :: l.filter (fun y => y != line)).take 4) }
  if l.contains line then s.modTwin tn put
  else (((s.tally h (if wrong then 0x009 else 0x00A)).l2Request h line ca cls false).1).modTwin tn put

/-! ### L1 D (R472, R475, R477) -/

/-- The other L1 Ds of the gallery hand a dirty line to the L2; a write takes the line from them. -/
def State.l1dOthers (s : State) (g tn line : Nat) (write : Bool) : State :=
  let s1 := if s.galleryDirty g line (some tn) then s.l2Mod g line (fun e => { e with dirty := true }) else s
  if write then s1.galleryDrop g line (some tn) else s1.galleryClean g line (some tn)

/-- L1 D of twin `tn` allocates a line; the least recently used line of the set goes, to the L2 where it is dirty. -/
def State.l1dFill (s : State) (g tn line : Nat) (dirty : Bool) : State :=
  let k := l1Set line
  let l := (line, dirty) :: ((s.twin tn).l1d.get [] k).filter (fun y => y.1 != line)
  let s1 := (l.drop 4).foldl (fun t e => if e.2 then t.l2Mod g e.1 (fun y => { y with dirty := true }) else t) s
  s1.modTwin tn (fun t => { t with l1d := t.l1d.set [] k (l.take 4) })

/-- A write to a line that the gallery holds takes it from every other gallery (R475). -/
def State.ownLine (s : State) (h line : Nat) : State :=
  (s.invalidateLine line h (some (h / 8))).setDir line ⟨.modified, 2 ^ (h / 8)⟩

/-- A load or store of one line of DRAM or the boot ROM (R472, R475, R477, R488). Answers whether it missed L1 D. The miss of a store
that leaves the store buffer belongs to no instruction in hand (R343, R802). -/
def State.dataLine (s : State) (h line ca cls : Nat) (write : Bool) : State × Bool :=
  let tn := s.twinOf h
  let g := h / 8
  let l := (s.twin tn).l1d.get [] (l1Set line)
  match (if ca < caHub then l.find? (fun e => e.1 = line) else none) with
  | some e =>
    let s1 := (if write then s.ownLine h line else s).l1dOthers g tn line write
    (s1.l1dFill g tn line (e.2 || write), false)
  | none =>
    let r := (if caHub ≤ ca then s else if write then s.tallyFrom h 0x00B 1 8 0 else s.tally h 0x00B).l2Request h line ca cls write
    let s1 := if r.2 then r.1.l1dOthers g tn line write else r.1
    if r.2 && ca = 0 then (s1.l1dFill g tn line write, true)
    else if r.2 && write then (s1.l2Mod g line (fun e => { e with dirty := true }), true)
    else (s1, true)

/-- An `amo` is performed at the gallery L2, or at the hub (R346): no L1 D keeps the line. -/
def State.amoLine (s : State) (h line ca cls : Nat) : State :=
  let r := s.l2Request h line ca cls true
  if r.2 then
    (r.1.galleryDrop (h / 8) line none).l2Mod (h / 8) line
      (fun e => { e with dirty := true })
  else r.1

/-! ### The store buffer (R343) -/

/-- A buffered store reaches L1 D, and every agent sees it. -/
def State.sbPerform (s : State) (h : Nat) (e : StoreEntry) : State :=
  ((linesOf e.pa e.data.length).foldl (fun t k => (t.dataLine h k e.ca e.cls true).1) s).hewerWrite (some h) e.pa e.data

/-- The `n` oldest stores of the buffer drain. -/
def State.sbDrain (s : State) (h n : Nat) : State :=
  let l := (s.twin (s.twinOf h)).sbuf
  (l.take n).foldl (fun t e => t.sbPerform h e) (s.modTwin (s.twinOf h) (fun t => { t with sbuf := l.drop n }))

/-- Every store of the buffer drains. -/
def State.sbFlush (s : State) (h : Nat) : State := s.sbDrain h 8

/-- A store commits into the buffer; it waits for room where the buffer is full. -/
def State.sbPut (s : State) (h : Nat) (e : StoreEntry) : State :=
  let s1 := if 8 ≤ (s.twin (s.twinOf h)).sbuf.length then s.sbDrain h 1 else s
  s1.modTwin (s1.twinOf h) (fun t => { t with sbuf := t.sbuf ++ [e] })

/-- Do bytes `a` to `a + n - 1` and a buffered store share a byte? -/
def StoreEntry.overlaps (e : StoreEntry) (a n : Nat) : Bool := decide (a < e.pa + e.data.length) && decide (e.pa < a + n)
/-- Do they all lie in it? -/
def StoreEntry.covers (e : StoreEntry) (a n : Nat) : Bool := decide (e.pa ≤ a) && decide (a + n ≤ e.pa + e.data.length)

/-- The latest store of a buffer that bytes `a` to `a + n - 1` overlap, with the number of stores up to and with it. -/
def sbLatest (l : List StoreEntry) (a n : Nat) : Option (Nat × StoreEntry) :=
  (((List.range l.length).zip l).reverse.find? (fun e => e.2.overlaps a n)).map (fun e => (e.1 + 1, e.2))

/-- A load searches the buffer: the latest store that it overlaps gives its bytes, or drains first, with every store before it, where
it covers only part of the load. -/
def State.sbSearch (s : State) (h a n : Nat) : State × Option (List Byte) :=
  match sbLatest (s.twin (s.twinOf h)).sbuf a n with
  | none => (s, none)
  | some (k, e) => if e.covers a n then (s, some (sliceBytes e.data (a - e.pa) n)) else (s.sbDrain h k, none)

/-! ### Entries -/

/-- What every entry, `eret`, task arrival and `tend` do to the hewer besides their own effect: the predictor is flushed, every
buffered store is performed, L1 I is invalidated, the reservation is cleared, every distance ends (R305, R322, R329, R363, R447,
R476, R486). -/
def State.breakFlow (s : State) (h : Nat) : State :=
  ((((s.flushPred h).sbFlush h).l1iDrop h).modHew h (fun x => { x with resv := none, ctl := [], unit := none, rep := none })).cdtReach h

/-- Entry to S (`m` false) or M (R249, R445 to R447). `eval` is written for an exception only; `lvl` is the new ILVL
where the entry sets one. -/
def State.enter (s : State) (h : Nat) (m isInt : Bool) (code : Nat) (epc : Word) (eval : Option Word)
    (lvl : Option Nat) : State :=
  let x := s.hew h
  let e := x.set m
  let vec := e.vbase + BitVec.ofNat 64 ((if isInt then 0x800 else 0) + code * 64)
  let x1 := x.putSet m { e with epc := epc, ecause := x.causeWord isInt code, eval := eval.getD e.eval }
  let x2 := x1.setPsf 15 14 (if m then 3 else 1)
  let x3 := match lvl with | some l => x2.setPsf 27 24 l | none => x2
  let nested := match x.eretRestores with
    | some (p, n) => if p = x.pl && p = (if m then 3 else 1) then some (p, n + 1) else some (p, n)
    | none => none
  (s.setHew h { (x3.landBack.openWindow m) with pc := vec, eretRestores := nested, rom := 0 }).breakFlow h

/-! ### The stride prefetcher (R354, R370, R499) -/

/-- One prefetch into L1 D: a free value says whether it arrives, loses its translation, or finds its set refilled. -/
def State.prefetchLine (s : State) (h pa cls : Nat) : State :=
  let d := (s.tally h 0x00F).draw
  if d.1 % 3 = 1 then d.2.tally h 0x010
  else
    let r := d.2.l2Request h (pa / 64) 0 cls false
    if d.1 % 3 = 2 then r.1.tally h 0x010
    else if r.2 && !(r.1.poisoned (pa / 64 * 64) 64) then
      (r.1.l1dOthers (h / 8) (s.twinOf h) (pa / 64) false).l1dFill (h / 8) (s.twinOf h) (pa / 64) false
    else r.1

/-- A load of CA 0 at `ea`, physical `pa`, that missed L1 D: the prefetcher notes it, and from the third miss at one stride on it
reads up to two lines ahead within the 4 KiB page. -/
def State.missNoted (s : State) (h ea pa cls : Nat) : State :=
  let t := s.twinOf h
  let pc := (s.hew h).pc.toNat
  let p := (s.twin t).pred
  let e := p.stride.find? (fun e => e.1 = pc)
  let d : Int := match e with | some (_, last, _, _) => (ea : Int) - last | none => 0
  let n := match e with | some (_, _, st, n) => if st = d then n + 1 else 1 | none => 0
  let l := ((pc, ea, d, n) :: p.stride.filter (fun e => e.1 != pc)).take 16
  let s1 := s.modTwin t (fun x => { x with pred := { p with stride := l } })
  let step : Int := if d < 0 then -64 else 64
  let next := fun (k : Nat) => ((ea : Int) + step * k)
  let ahead := fun (k : Nat) => 2 ≤ n && decide (next k / 4096 = (ea : Int) / 4096)
  let at_ := fun (k : Nat) => ((pa : Int) + step * k).toNat
  let s2 := if ahead 1 then s1.prefetchLine h (at_ 1) cls else s1
  if ahead 2 then s2.prefetchLine h (at_ 2) cls else s2

end Sys2Proof.Machine
end

