-- ==== Sys2Proof/Machine/Translate.lean ====
section
/-!
DEFINITION. Translation and protection (R258 to R262, R401 to R436): banked addressing, compact regions, the full tree
with its TLBs and walk cache, and the checks of R416 and R417 in their order.
-/
namespace Sys2Proof.Machine

/-- The kinds of access of R416; `ldx` and `stx` are atomics for R303 but need what a load or a store needs. -/
inductive AccKind where
  | fetch | load | store | ldx | stx | amo | stackWrite | stackRead
deriving DecidableEq, Repr

def AccKind.isFetch : AccKind → Bool | .fetch => true | _ => false
/-- A write for R421. -/
def AccKind.isWrite : AccKind → Bool | .store => true | .stx => true | .amo => true | .stackWrite => true | _ => false
def AccKind.isAtomic : AccKind → Bool | .ldx => true | .stx => true | .amo => true | _ => false

/-- What a translation gives, in one form for regions and pages: the place, and the attributes that the checks read. -/
structure Leaf where
  place : Place
  r : Bool
  w : Bool
  x : Bool
  u : Bool
  rs : Bool
  se : Bool
  key : Option Nat
  a : Bool
  d : Bool
  /-- cache attribute of the PTE or compact entry (R408, R410) -/
  ca : Nat
  /-- the entry of the full tree that gave it -/
  via : Option TlbEntry
deriving DecidableEq, Repr

/-- Does the access reach the lode window (R118, R120)? -/
def Leaf.inLode (l : Leaf) : Bool :=
  match l.place with
  | .phys a => decide (0xF00000000000 ≤ a) && decide (a ≤ 0xF00000FFFFFF)
  | _ => false

/-- The result of a translation step: the TLBs may have changed either way. -/
structure TrRes where
  s : State
  r : Except Exc Leaf

/-- Is a physical address populated (R38)? Answers 0 no, 1 DRAM, 2 lode window, 3 host window, 4 boot ROM. -/
def State.areaOf (s : State) (a : Nat) : Nat :=
  if a < s.dramSize then 1
  else if 0xF00000000000 ≤ a && a ≤ 0xF00000FFFFFF then 2
  else if 0xF10000000000 ≤ a && a ≤ 0xF10FFFFFFFFF then 3
  else if 0xF20000000000 ≤ a && a ≤ 0xF200000FFFFF then 4
  else 0

/-- Does the physical map permit the access (R39 to R41, R125, R303)? -/
def State.mapPermits (s : State) (k : AccKind) (a : Nat) : Bool :=
  let area := s.areaOf a
  match k with
  | .fetch => area = 1 || area = 4
  | .load => area != 0 && (area != 2 || s.domainOn 2)
  | .stackRead => area != 0 && (area != 2 || s.domainOn 2)
  | .store => area = 1 || area = 3
  | .stackWrite => area = 1 || area = 3
  | .ldx => area = 1
  | .stx => area = 1
  | .amo => area = 1

/-- The permission exception of an access (R416). -/
def AccKind.permCode : AccKind → Nat | .fetch => 0x05 | _ => 0x07
/-- The missing-translation exception of an access (R402, R405, R411). -/
def AccKind.missCode : AccKind → Nat | .fetch => 0x04 | _ => 0x06

/-- The checks of R416 on a translated access, without the physical map. -/
def Leaf.permits (l : Leaf) (k : AccKind) (pl : Nat) (pkr : Word) : Bool :=
  let user := pl = 0
  let uOk := if user then l.u else if k.isFetch then !l.u else true
  let keyRead := match l.key with | some n => pkr.toNat.testBit (2 * n) | none => false
  let keyWrite := match l.key with | some n => pkr.toNat.testBit (2 * n + 1) | none => false
  let rsOk := !(user && l.rs)
  match k with
  | .fetch => l.x && uOk && !l.rs
  | .load => l.r && uOk && rsOk && !keyRead
  | .ldx => l.r && uOk && rsOk && !keyRead
  | .store => l.r && l.w && uOk && rsOk && !keyWrite
  | .stx => l.r && l.w && uOk && rsOk && !keyWrite
  | .amo => l.r && l.w && uOk && rsOk && !keyRead && !keyWrite
  | .stackWrite => l.w && uOk && l.rs && !keyWrite
  | .stackRead => l.r && uOk && l.rs && !keyRead

/-! ### Compact regions (R403 to R409) -/

/-- The number of trailing 1 bits of `v`, at most `n`. -/
def trailingOnes (n v : Nat) : Nat :=
  match n with
  | 0 => 0
  | m + 1 => if v % 2 = 1 then trailingOnes m (v / 2) + 1 else 0

/-- The base and size exponent of a VN field (R403); none for 25 one-bits. -/
def vnRange (vn : Nat) : Option (Nat × Nat) :=
  let k := trailingOnes 25 vn
  if k = 25 then none else some ((vn / 2 ^ (k + 1) * 2 ^ (k + 1)) * 2 ^ 11, k)

/-- Area base of R404; none for the windows and the reserved areas. -/
def areaBase (area : Nat) : Option Nat :=
  match area with
  | 0 => some 0
  | 1 => some 0xF00000000000
  | 2 => some 0xF10000000000
  | 3 => some 0xF20000000000
  | _ => none

/-- What region entry `i` with value `e` makes of virtual address `va`; `live` says that the draught loaded it (R407). -/
def compactEntry (e : Word) (live : Bool) (fetch : Bool) (va : Nat) : Option Leaf :=
  let v := e.toNat
  let i := bitOf v 7
  let d := bitOf v 6
  if !(if fetch then i else d) then none
  else
    match vnRange (bitsOf v 63 39) with
    | none => none
    | some (base, k) =>
      let size := 2 ^ (12 + k)
      if va < base || base + size ≤ va then none
      else
        let area := bitsOf v 38 36
        let off := va % size
        let place := match areaBase area with
          | some b => some (Place.phys (b + bitsOf v 35 10 * 4096 / size * size + off))
          | none => if area = 4 && live then some (.packet off) else if area = 5 && live then some (.result off) else none
        place.map (fun p => ⟨p, d, bitOf v 5, i, bitOf v 4, bitOf v 3, bitOf v 2, none, true, true, bitsOf v 1 0, none⟩)

/-- The first of the entries from `i` on, `n` of them, that matches (R405). -/
def Hewer.compactFind (x : Hewer) (fetch : Bool) (va n i : Nat) : Option Leaf :=
  match n with
  | 0 => none
  | m + 1 =>
    match compactEntry (x.cre.get 0 i) ((i = 0 && x.live0) || (i = 1 && x.live1)) fetch va with
    | some l => some l
    | none => x.compactFind fetch va m (i + 1)

/-- Compact translation (R402, R405, R406). -/
def Hewer.compact (x : Hewer) (k : AccKind) (va : Nat) : Except Exc Leaf :=
  if va / 2 ^ 36 != 0 then .error (mkExc k.missCode va)
  else
    match x.compactFind k.isFetch va (if x.bodyBit && x.pl = 0 then 16 else 64) 0 with
    | some l => .ok l
    | none => .error (mkExc k.missCode va)

/-! ### The full tree (R410 to R424) -/

/-- Does a TLB entry match an access (R424)? -/
def TlbEntry.hits (e : TlbEntry) (fetch : Bool) (asid va : Nat) : Bool :=
  e.isFetch == fetch && decide (e.va / 2 ^ e.pageBits = va / 2 ^ e.pageBits) && (e.global || e.asid = asid)

/-- Find an entry and put it in front (least recently used replacement, R424). -/
def lruFind (l : List TlbEntry) (p : TlbEntry → Bool) : Option (TlbEntry × List TlbEntry) :=
  match l.find? p with
  | some e => some (e, e :: l.erase e)
  | none => none

/-- Put an entry in front, dropping what it replaces and the least recently used beyond `n`. -/
def lruAdd (l : List TlbEntry) (n : Nat) (e : TlbEntry) (p : TlbEntry → Bool) : List TlbEntry :=
  (e :: l.filter (fun x => !(p x))).take n

/-- The set of the second-level TLB that a page of a size uses (R423). -/
def l2set (pageBits va : Nat) : Nat := va / 2 ^ pageBits % 128

/-- The leaf of R410 as the checks read it. -/
def pteLeaf (pte va pageBits : Nat) : Leaf where
  place := .phys (bitsOf pte 47 12 * 4096 / 2 ^ pageBits * 2 ^ pageBits + va % 2 ^ pageBits)
  r := bitOf pte 3
  w := bitOf pte 4
  x := bitOf pte 5
  u := bitOf pte 6
  rs := bitOf pte 49
  se := bitOf pte 9
  key := some (bitsOf pte 63 60)
  a := bitOf pte 7
  d := bitOf pte 8
  ca := bitsOf pte 11 10
  via := none

/-- Is an entry read at a level invalid (R411)? -/
def pteInvalid (pte level : Nat) : Bool :=
  let v := bitOf pte 0
  let l := bitOf pte 1
  !v || (!l && level = 1) || (l && level = 4) || (l && bitOf pte 4 && !bitOf pte 3) || (l && bitsOf pte 11 10 = 3)

/-- The lowest virtual-address bit that a level indexes: 39, 30, 21, 12. -/
def levelBit (level : Nat) : Nat := 12 + 9 * (level - 1)

/-- A walk from `level`, reading the table at `table` (R410 to R415). Answers the leaf's PTE and page bits. `wrong` marks the wrong
path, whose reads count as WRONG_PATH_FETCH (R367, R797). -/
def State.walk (s : State) (h : Nat) (fetch wrong : Bool) (asid va : Nat) (missCode : Nat) (level table : Nat) :
    State × Except Exc (Nat × Nat) :=
  match level with
  | 0 => (s, .error (mkExc missCode va))
  | lv + 1 =>
    let at_ := table + bitsOf va (levelBit level + 8) (levelBit level) * 8
    if s.areaOf at_ != 1 then (s, .error (mkExc 0x0A va))
    else if !(s.channelOn (s.channelOf at_)) then (s, .error (mkExc 0x18 (3 * 2 ^ 56 + at_)))
    else
    let s := (if wrong then s.tally h 0x009 else s).walkRead h at_
    if s.poisoned at_ 8 then (s, .error (mkExc 0x18 (1 * 2 ^ 56 + at_)))
    else
      let pte := s.readDw at_
      if pteInvalid pte level then (s, .error (mkExc missCode va))
      else if bitOf pte 1 then (s, .ok (pte, levelBit level))
      else
        let e : TlbEntry := ⟨asid, fetch, false, va / 2 ^ levelBit level * 2 ^ levelBit level, levelBit level, pte⟩
        let same := fun (y : TlbEntry) => y.hits fetch asid va && y.pageBits = levelBit level
        let s1 := s.modTwin (s.twinOf h) (fun t => { t with wcache := lruAdd t.wcache 32 e same })
        s1.walk h fetch wrong asid va missCode lv (bitsOf pte 47 12 * 4096)

/-- Start a walk at the lowest level that the walk cache covers, else at the root (R415). -/
def State.walkFrom (s : State) (h : Nat) (fetch wrong : Bool) (asid va missCode root : Nat) : State × Except Exc (Nat × Nat) :=
  let t := s.twin (s.twinOf h)
  let hit := fun (b : Nat) => lruFind t.wcache (fun e => e.hits fetch asid va && e.pageBits = b)
  let use := fun (e : TlbEntry) (l : List TlbEntry) (level : Nat) =>
    (s.modTwin (s.twinOf h) (fun t => { t with wcache := l })).walk h fetch wrong asid va missCode level
      (bitsOf e.leaf 47 12 * 4096)
  match hit 21 with
  | some (e, l) => use e l 1
  | none => match hit 30 with
    | some (e, l) => use e l 2
    | none => match hit 39 with
      | some (e, l) => use e l 3
      | none => s.walk h fetch wrong asid va missCode 4 (root / 4096 * 4096)

/-- Put a leaf into the first-level TLB of its side, in the place of any entry that translates `va` (R421). -/
def Twin.fillL1 (t : Twin) (e : TlbEntry) (va : Nat) : Twin :=
  let same := fun (y : TlbEntry) => y.hits e.isFetch e.asid va
  if e.isFetch then { t with itlb := lruAdd t.itlb 32 e same } else { t with dtlb := lruAdd t.dtlb 32 e same }

/-- Put a leaf into the second-level TLB. -/
def Twin.fillL2 (t : Twin) (e : TlbEntry) : Twin :=
  let same := fun (y : TlbEntry) => y.hits e.isFetch e.asid e.va && y.pageBits = e.pageBits
  let k := l2set e.pageBits e.va
  { t with l2tlb := t.l2tlb.set [] k (lruAdd (t.l2tlb.get [] k) 8 e same) }

/-- Look the two TLB levels up; a second-level hit refills the first (R424). -/
def State.tlbFind (s : State) (h : Nat) (fetch wrong : Bool) (asid va : Nat) : State × Option TlbEntry :=
  let tn := s.twinOf h
  let t := s.twin tn
  match lruFind (if fetch then t.itlb else t.dtlb) (fun e => e.hits fetch asid va) with
  | some (e, l) => (s.setTwin tn (if fetch then { t with itlb := l } else { t with dtlb := l }), some e)
  | none =>
    let s := s.tally h 0x00D
    let at_ := fun (b : Nat) => lruFind (t.l2tlb.get [] (l2set b va)) (fun e => e.hits fetch asid va && e.pageBits = b)
    let use := fun (e : TlbEntry) (l : List TlbEntry) =>
      ((if wrong then s.tally h 0x009 else s).setTwin tn ({ t with l2tlb := t.l2tlb.set [] (l2set e.pageBits va) l }.fillL1 e va),
        some e)
    match at_ 12 with
    | some (e, l) => use e l
    | none => match at_ 21 with
      | some (e, l) => use e l
      | none => match at_ 30 with
        | some (e, l) => use e l
        | none => (s, none)

/-- A walk whose leaf is installed in the first level, and in the second unless `onlyL1` (R420, R421). -/
def State.walkFill (s : State) (h : Nat) (k : AccKind) (wrong : Bool) (asid va root : Nat) (onlyL1 : Bool) :
    State × Except Exc (Nat × Nat) :=
  let r := (s.tally h 0x00E).walkFrom h k.isFetch wrong asid va k.missCode root
  match r.2 with
  | .error e => (r.1, .error e)
  | .ok (pte, pb) =>
    if !(bitOf pte 7) then (r.1, .ok (pte, pb))
    else
      let e : TlbEntry := ⟨asid, k.isFetch, bitOf pte 48, va / 2 ^ pb * 2 ^ pb, pb, pte⟩
      ((if wrong then r.1.tally h 0x009 else r.1).modTwin (s.twinOf h)
        (fun t => if onlyL1 then t.fillL1 e va else (t.fillL2 e).fillL1 e va), .ok (pte, pb))

/-- Full translation, up to the marks (R402, R410 to R424). -/
def State.full (s : State) (h : Nat) (k : AccKind) (wrong : Bool) (va : Nat) : State × Except Exc (Nat × Nat) :=
  if va / 2 ^ 48 != 0 then (s, .error (mkExc k.missCode va))
  else
    let asid := (s.ctlSeen h .asid).toNat % 0x10000
    let root := (s.ctlSeen h (if k.isFetch then .iroot else .droot)).toNat % 2 ^ 48
    let f := s.tlbFind h k.isFetch wrong asid va
    match f.2 with
    | some e => (f.1, .ok (e.leaf, e.pageBits))
    | none => f.1.walkFill h k wrong asid va root false

/-- A fetch of poisoned instruction bytes, which comes before its permission (R441, R497): its address. -/
def State.fetchPoison (s : State) (k : AccKind) (p : Place) : Option Nat :=
  match k, p with
  | .fetch, .phys a => if s.areaOf a = 1 && s.channelOn (s.channelOf a) && s.poisoned a 4 then some a else none
  | _, _ => none

/-- Steps 3 to 5 of R417 on a translation: permission with the physical map, alignment in SE memory, the access mark. -/
def State.checkLeaf (s : State) (h : Nat) (k : AccKind) (va : Nat) (aligned : Bool) (l : Leaf) : Except Exc Leaf :=
  let x := s.hew h
  let mapOk := match l.place with
    | .phys a => s.mapPermits k a
    | .packet _ => !k.isWrite && !k.isFetch && !k.isAtomic
    | .result _ => !k.isFetch && !k.isAtomic
  match s.fetchPoison k l.place with
  | some a => .error (mkExc 0x18 (6 * 2 ^ 56 + a))
  | none =>
  if !(l.permits k x.pl (s.ctlSeen h .pkr)) || !mapOk then .error (mkExc k.permCode va)
  else if (l.se || l.inLode) && !aligned then .error (mkExc 0x03 va)
  else if !l.a then .error (mkExc 0x08 va)
  else .ok l

/-- A channel whose domain is off answers with a machine check (R36). -/
def State.checkChannel (s : State) (l : Leaf) : Except Exc Leaf :=
  match l.place with
  | .phys a => if s.areaOf a = 1 && !(s.channelOn (s.channelOf a)) then .error (mkExc 0x18 (3 * 2 ^ 56 + a)) else .ok l
  | _ => .ok l

/-- One access of `n` bytes at `va` that lies in one line: steps 2 to 6 of R417; `aligned` says that the whole access is
naturally aligned (R288). -/
def State.translate (s : State) (h : Nat) (k : AccKind) (va n : Nat) (aligned : Bool) : TrRes :=
  let x := s.hew h
  if x.banked then
    let bank := (s.ctlSeen h .bank).toNat
    let off := va % 2 ^ 20
    let a := (if k.isFetch then bitsOf bank 59 32 else bitsOf bank 27 0) * 2 ^ 20 + off
    if 2 ^ 20 < off + n then ⟨s, .error (mkExc 0x03 va)⟩
    else match s.fetchPoison k (.phys a) with
    | some u => ⟨s, .error (mkExc 0x18 (6 * 2 ^ 56 + u))⟩
    | none =>
    if !(s.mapPermits k a) then ⟨s, .error (mkExc k.permCode va)⟩
    else if s.areaOf a = 2 && !aligned then ⟨s, .error (mkExc 0x03 va)⟩
    else ⟨s, s.checkChannel ⟨.phys a, true, true, true, true, true, false, none, true, true, 0, none⟩⟩
  else
    let xm := (s.ctlSeen h .xmode).toNat
    let isFull := if k.isFetch then bitOf xm 0 else bitOf xm 1
    if !isFull then
      ⟨s, (x.compact k va).bind (fun l => (s.checkLeaf h k va aligned l).bind s.checkChannel)⟩
    else
      let f := s.full h k false va
      let leaf := fun (r : Nat × Nat) => { pteLeaf r.1 va r.2 with
        via := some ⟨(s.ctlSeen h .asid).toNat % 0x10000, k.isFetch, bitOf r.1 48, va / 2 ^ r.2 * 2 ^ r.2, r.2, r.1⟩ }
      match f.2 with
      | .error e => ⟨f.1, .error e⟩
      | .ok r =>
        match f.1.checkLeaf h k va aligned (leaf r) with
        | .error e => ⟨f.1, .error e⟩
        | .ok l =>
          if k.isWrite && !l.d then
            let root := (s.ctlSeen h .droot).toNat % 2 ^ 48
            let g := f.1.walkFill h k false ((s.ctlSeen h .asid).toNat % 0x10000) va root true
            match g.2 with
            | .error e => ⟨g.1, .error e⟩
            | .ok r2 =>
              match g.1.checkLeaf h k va aligned (leaf r2) with
              | .error e => ⟨g.1, .error e⟩
              | .ok l2 => if !l2.d then ⟨g.1, .error (mkExc 0x09 va)⟩ else ⟨g.1, g.1.checkChannel l2⟩
          else ⟨f.1, f.1.checkChannel l⟩

/-- The cache attribute that an access is made with: SE memory and the host-memory window as CA 2, whatever the translation gives
(R422, R478). -/
def State.attr (s : State) (l : Leaf) : Nat :=
  let host := match l.place with | .phys a => s.areaOf a = 3 | _ => false
  if l.se || host then caHub else l.ca

/-- The piece of `n` bytes that a translation gives. -/
def State.pieceOf (s : State) (l : Leaf) (n : Nat) : Piece := ⟨l.place, n, s.attr l, l.via⟩

/-- The pieces of an access: one place, or two for a split access (R284), each with its length. -/
structure AccRes where
  s : State
  r : Except Exc (List Piece)

/-- Translate and check an access of `n` bytes at `va`, both halves before either is performed (R284, R417). -/
def State.access (s : State) (h : Nat) (k : AccKind) (va n : Nat) : AccRes :=
  let n1 := 64 - va % 64
  if n ≤ n1 then
    let t := s.translate h k va n (va % n = 0)
    ⟨t.s, t.r.map (fun l => [s.pieceOf l n])⟩
  else
    let wraps := (s.hew h).banked && decide (2 ^ 20 < va % 2 ^ 20 + n)
    if wraps then ⟨s, .error (mkExc 0x03 va)⟩
    else
    let t1 := s.translate h k va n1 false
    match t1.r with
    | .error e => ⟨t1.s, .error e⟩
    | .ok l1 =>
      let va2 := (va + n1) % 2 ^ 64
      let t2 := t1.s.translate h k va2 (n - n1) false
      match t2.r with
      | .error e => ⟨t2.s, .error e⟩
      | .ok l2 =>
        ⟨t2.s, .ok [s.pieceOf l1 n1, s.pieceOf l2 (n - n1)]⟩

/-! ### Wrong paths (R366 to R368) -/

/-- The translation of a wrong-path fetch: none where it ends silently, for SE memory, a missing or invalid entry, a walk that R42
forbids, or any other cause (R366, R368, R420, R499). -/
def State.wrongLeaf (s : State) (h va : Nat) : State × Option Leaf :=
  let x := s.hew h
  let judge := fun (t : State) (l : Leaf) =>
    match (t.checkLeaf h .fetch va true l).bind t.checkChannel with
    | .ok l => (t, if l.se then none else some l)
    | .error _ => (t, none)
  if x.banked then
    let t := s.translate h .fetch va 4 true
    (t.s, match t.r with | .ok l => some l | .error _ => none)
  else if !(bitOf (s.ctlSeen h .xmode).toNat 0) then
    match x.compact .fetch va with
    | .ok l => judge s l
    | .error _ => (s, none)
  else
    let f := s.full h .fetch true va
    match f.2 with
    | .ok r => judge f.1 (pteLeaf r.1 va r.2)
    | .error _ => (f.1, none)

/-- Fetch `n` aligned 16-byte blocks of a wrong path from `va` on: L1 I fills, I-TLB fills and walks stay behind (R333, R367). -/
def State.wrongFetch (s : State) (h cls n va : Nat) : State :=
  match n with
  | 0 => s
  | k + 1 =>
    let t := s.wrongLeaf h va
    match t.2 with
    | none => t.1
    | some l =>
      match l.place with
      | .phys a => (t.1.l1iUse h a (t.1.attr l) cls true).wrongFetch h cls k (va / 16 * 16 + 16)
      | _ => t.1

/-! ### Invalidation (R426 to R429) -/

/-- Does `xinv` remove a TLB entry: `va` none for `xinv.t`, `asid` none for `xinv.all` (R426)? -/
def TlbEntry.removedBy (e : TlbEntry) (va asid : Option Nat) : Bool :=
  let inPage := match va with
    | some v => e.va / 2 ^ e.pageBits = v / 2 ^ e.pageBits
    | none => true
  match asid with
  | none => true
  | some n => inPage && (if va.isSome then e.asid = n || e.global else e.asid = n && !e.global)

/-- The entries of one twin that an `xinv` removes (R426). -/
def Twin.invalidate (t : Twin) (va asid : Option Nat) : Twin :=
  let inPage := fun (e : TlbEntry) => match va with
    | some v => e.va / 2 ^ e.pageBits = v / 2 ^ e.pageBits
    | none => true
  let tlb := fun (e : TlbEntry) => !(e.removedBy va asid)
  let wc := fun (e : TlbEntry) => match asid with
    | none => false
    | some n => !(inPage e && e.asid = n)
  { t with
    itlb := t.itlb.filter tlb
    dtlb := t.dtlb.filter tlb
    l2tlb := (t.l2tlb.map (fun p => (p.1, p.2.filter tlb))).filter (fun p => !p.2.isEmpty)
    wcache := t.wcache.filter wc }

end Sys2Proof.Machine
end

