-- ==== Sys2Proof/Machine/Draught.lean ====
section
/-!
DEFINITION. The draught's tasks (R130 to R179): descriptors and their checks, releases, the packet, the acceptance and
commit of results. Queues, placement and stealing follow in Dispatching.
-/
namespace Sys2Proof.Machine

def State.task (s : State) (i : Nat) : Task := s.drt.tasks.get Task.reset i
def State.setTask (s : State) (i : Nat) (x : Task) : State :=
  { s with drt := { s.drt with tasks := s.drt.tasks.set Task.reset i x } }
/-- Change task `i`. -/
def State.modTask (s : State) (i : Nat) (f : Task → Task) : State := s.setTask i (f (s.task i))
/-- Change the activation of task `i`. -/
def State.modAct (s : State) (i : Nat) (f : Activation → Activation) : State :=
  s.modTask i (fun t => { t with act := t.act.map f })

/-- The draught's local source (R57). -/
def srcDraught : Nat := 0x800

/-- Does the draught run: its clock and its domain D2 are on (R32, R838)? -/
def State.draughtRuns (s : State) : Bool := s.pwr.pllLocked && s.domainOn 2

/-- Descriptors (R130). -/
def State.taskCount (s : State) : Nat := s.fld F.DRT_TABLES.TASKS
/-- Bytes of the descriptor and region-set tables (R133). -/
def State.tableBytes (s : State) : Nat := (s.taskCount + s.fld F.DRT_TABLES.RSETS) * 128

/-- A draught event with its stamp (R175, R714). -/
def State.drtLog (s : State) (time source code index attempt dw2 : Nat) : State :=
  s.logAt time source code 0 0 dw2 (unitDw3 index (attempt * 2 ^ 45))

/-! ### Descriptors (R137 to R141) -/

/-- Decode the 16 doublewords of a descriptor (R137). -/
def decodeDesc (d : Nat → Nat) : Desc where
  trigger := bitsOf (d 0) 63 62
  pclass := bitsOf (d 0) 61 60
  retryLimit := bitsOf (d 0) 59 57
  pin := bitOf (d 0) 56
  missDiscard := bitOf (d 0) 55
  inFull := bitOf (d 0) 54
  adv := bitOf (d 0) 53
  tclass := bitsOf (d 0) 52 50
  asid := bitsOf (d 0) 47 32
  rset := bitsOf (d 0) 31 20
  trigSlot := bitsOf (d 0) 17 0
  period := d 1
  phase := d 2
  deadline := bitsOf (d 3) 63 32
  budget := bitsOf (d 3) 31 0
  commit := bitsOf (d 4) 63 32
  minGap := bitsOf (d 4) 31 0
  entry := d 5
  dstack := d 6
  rsb := d 7
  rsl := d 8
  inList := bitsOf (d 9) 63 32
  inRuns := bitsOf (d 9) 24 16
  inCount := bitsOf (d 9) 11 0
  outList := bitsOf (d 10) 63 32
  outRuns := bitsOf (d 10) 24 16
  outCount := bitsOf (d 10) 11 0
  stateOff := bitsOf (d 11) 63 32
  stateSize := bitsOf (d 11) 16 0
  affinity := d 12
  pinHewer := bitsOf (d 13) 8 0
  user := d 14

/-- The descriptor at an index, as the region holds it. -/
def State.readDesc (s : State) (i : Nat) : Desc := decodeDesc (fun k => s.readDw (s.regionBase + i * 128 + k * 8))

/-- Bytes of an input entry (R154). -/
def Desc.entrySize (d : Desc) : Nat := if d.inFull then 32 else 16

/-- The runs of a slot list: first slot and count of each (R138). -/
def State.runs (s : State) (list n : Nat) : List (Nat × Nat) :=
  (List.range n).map (fun k =>
    let w := natLE (s.readBytes (s.regionBase + list + k * 4) 4)
    (bitsOf w 17 0, bitsOf w 31 18 + 1))

/-- The slots of a list, in order (R138). -/
def State.slotsOf (s : State) (list n : Nat) : List Nat :=
  (s.runs list n).flatMap (fun r => (List.range r.2).map (fun k => r.1 + k))

/-- Does a range of the region lie outside it, or overlap its tables (R141)? An empty range does neither. -/
def State.badRange (s : State) (off n : Nat) : Bool :=
  n != 0 && (decide (off < s.tableBytes) || decide (s.regionSize < off + n))

/-- Cause 0x05 for one list (R141); the entries can be read where the list lies inside the region. -/
def State.badList (s : State) (list n count : Nat) : Bool :=
  decide (2048 < count) || decide (256 < n)
  || (decide (n = 0 ∨ list + n * 4 ≤ s.regionSize)
      && (let r := s.runs list n
          (r.foldl (fun a x => a + x.2) 0) != count || r.any (fun x => decide (slotCount < x.1 + x.2))))

/-- The entries of a region set (R139). -/
def State.regionSet (s : State) (r : Nat) : List Word :=
  let at_ := s.regionBase + s.taskCount * 128 + r * 128
  (List.range (s.readDw at_ % 16)).map (fun k => BitVec.ofNat 64 (s.readDw (at_ + 8 + k * 8)))

/-- Does a compact region entry overlap the two windows (R141)? -/
def overlapsWindows (e : Word) : Bool :=
  match vnRange (bitsOf e.toNat 63 39) with
  | none => false
  | some (base, k) => decide (base < 0x80000000) && decide (0x7FFC0000 < base + 2 ^ (12 + k))

/-- Is a time of the descriptor out of range (0x04 of R141)? The range of PERIOD is that of a periodic task: in another task the
field is not judged (log 42). -/
def Desc.badTiming (d : Desc) : Bool :=
  (d.trigger = 0 && (decide (d.period < 1600000) || decide (160000000000 < d.period) || decide (d.period < d.deadline * 256)))
  || d.deadline = 0 || d.budget = 0 || decide (d.deadline < d.budget) || decide (d.deadline < d.commit)

/-- Cause 0x07 of R141. -/
def State.badRegion (s : State) (d : Desc) : Bool :=
  s.badRange d.inList (d.inRuns * 4) || s.badRange d.outList (d.outRuns * 4) || s.badRange d.stateOff d.stateSize
  || d.inList % 4 != 0 || d.outList % 4 != 0 || d.stateOff % 32 != 0
  || decide (s.fld F.DRT_TABLES.RSETS ≤ d.rset)
  || decide (14 < (s.regionSet d.rset).length) || (s.regionSet d.rset).any overlapsWindows

/-- The first refusal code of R141 from 0x03 to 0x09 that a descriptor meets, or 0; `needsEvent` says that an entry of the
event-trigger table would have to be found. -/
def State.checkDesc (s : State) (d : Desc) (needsEvent : Bool) : Nat :=
  if d.trigger = 3 then 0x03
  else if d.badTiming then 0x04
  else if s.badList d.inList d.inRuns d.inCount || s.badList d.outList d.outRuns d.outCount then 0x05
  else if 65536 < d.inCount * d.entrySize + d.stateSize || d.stateSize % 32 != 0 then 0x06
  else if s.badRegion d then 0x07
  else if d.affinity = 0 || (d.pin && !(d.affinity.testBit (d.pinHewer / 8))) then 0x08
  else if needsEvent && 4096 ≤ s.drt.events.length then 0x09
  else 0

/-- May the draught run commands (0x0A of R141)? -/
def State.drtReady (s : State) : Bool := s.flag F.DRT_CTL.EN && s.flag F.DRT_STATUS.READY

/-- The first release time PHASE + k × PERIOD later than `now` (R144): k may be negative (log 43). -/
def firstRelease (phase period now : Nat) : Nat :=
  if period = 0 then phase
  else if now < phase then phase - (phase - now - 1) / period * period
  else phase + ((now - phase) / period + 1) * period

/-- The release side of a task, from its descriptor, armed at time `now` (R140, R144): it stays as it was at ENABLE or UPDATE,
whatever software stores into the descriptor (R135, log 44). -/
def Task.arm (t : Task) (d : Desc) (now : Nat) : Task :=
  { t with
    enabled := true
    trigger := d.trigger
    trigSlot := d.trigSlot
    period := d.period
    minGap := d.minGap
    nextRel := if d.trigger = 0 then firstRelease d.phase d.period now else 0 }

/-! ### The end of commands, and UPDATE's copy (R140, R141) -/

/-- End a draught command with its result. -/
def State.cmdEnd (s : State) (result : Nat) : State :=
  (s.setFld F.DRT_CMD_STATUS.RESULT result).setFld F.DRT_CMD_STATUS.BUSY 0

/-- A command waits for its end. -/
def State.cmdWait (s : State) : State := s.setFld F.DRT_CMD_STATUS.BUSY 1

/-- Move a task into or out of the event-trigger table, as its trigger says (R142). -/
def State.eventEntry (s : State) (i : Nat) (isEvent : Bool) : State :=
  let l := s.drt.events.filter (fun x => x != i)
  { s with drt := { s.drt with events := if isEvent then l ++ [i] else l } }

/-- UPDATE's check and copy, once the target is ARMED (R140). -/
def State.drtUpdateCopy (s : State) (i staging : Nat) : State :=
  let d := s.readDesc staging
  let c := s.checkDesc d (d.trigger = 1 && (s.task i).trigger != 1)
  if c != 0 then s.cmdEnd c
  else
    let from_ := s.regionBase + staging * 128
    let at_ := s.regionBase + i * 128
    let bytes := s.readBytes from_ 128
    let s1 := if s.poisoned from_ 128 then s.dmaWritePoison srcDraught at_ bytes else s.dmaWriteBy srcDraught at_ bytes
    ((s1.modTask i (fun t => { t.arm d s.time.now with lastStamp := t.lastStamp })).eventEntry i (d.trigger = 1)).cmdEnd 0

/-- The operation in progress, if it is `op`: its target and staging descriptor. -/
def State.cmdBusy (s : State) (op : Nat) : Option (Nat × Nat) :=
  if s.flag F.DRT_CMD_STATUS.BUSY && s.fld F.DRT_CMD.OP = op then some (s.fld F.DRT_CMD.INDEX, s.fld F.DRT_CMD.STAGING)
  else none

/-- A pending UPDATE goes on once its target is ARMED (R140). -/
def State.updateCopy (s : State) : State :=
  match s.cmdBusy 3 with
  | none => s
  | some (i, staging) =>
    if !(s.drtReady) then s.cmdEnd 0x0A
    else if !(s.task i).enabled then s.cmdEnd 0x02
    else if (s.task i).act.isSome then s
    else s.drtUpdateCopy i staging

/-- A pending UPDATE of task `i`, which is ARMED, copies before any further release of it (R140). -/
def State.updateFirst (s : State) (i : Nat) : State :=
  match s.cmdBusy 3 with
  | some (j, _) => if j = i then s.updateCopy else s
  | none => s

/-! ### Releases (R144 to R151) -/

/-- Does the mode suppress releases (R151)? -/
def State.releasesHeld (s : State) : Bool :=
  match s.mode with
  | .off => true | .configure => true | .selfTest => true | .safeHold => true
  | _ => false

/-- Count a skip for the task and for DRT_EVT_COUNTS, and log it (R144, R147, R149). -/
def State.skipRelease (s : State) (i time source code n : Nat) : State :=
  let s1 := s.modTask i (fun t => { t with skips := if t.skips + n > 0xFFFF then 0xFFFF else t.skips + n })
  (s1.count F.DRT_EVT_COUNTS.SKIPPED n).drtLog time source code i 0 0

/-- The activation of an accepted release (R131, R153). -/
def newActivation (d : Desc) (time source snapEnd : Nat) : Activation where
  relTime := time
  relSource := source
  attempt := 0
  deadlineAt := (time + d.deadline * 256) % 2 ^ 64
  snapEnd := snapEnd
  desc := d
  stage := .heap
  gallery := none
  epoch := 0
  boundary := 0
  packet := []
  packetPoison := []
  result := []
  resultPoison := []
  storedBytes := []
  resTime := 0
  resSource := 0
  status := 0
  userStatus := 0
  disposition := 0
  commitPoint := 0
  stolen := false
  requeued := false
  missed := false

/-- The first poisoned unit among bytes `a` to `a + n - 1`, by its address. -/
def State.poisonAt (s : State) (a n : Nat) : Option Nat :=
  ((unitsOf a n).find? (fun u => s.mem.poison.contains u)).map (fun u => u * 32)

/-- DESC_UE is logged, with the address of the unit read (R179). -/
def State.logDescUe (s : State) (i attempt at_ : Nat) : State :=
  let st := s.stamp srcDraught
  st.2.drtLog st.1 (s.source srcDraught) 0x2B i attempt at_

/-- The draught accepts a release and reads its descriptor; poison there discards it (R131, R146, R179). -/
def State.acceptRelease (s : State) (i time source : Nat) (event : Bool) : State :=
  let at_ := s.regionBase + i * 128
  let s0 := s.hubAccess at_ 128 srcDraught false
  match s.poisonAt at_ 128 with
  | some u => (s0.modTask i (fun t => { t with lastStamp := some time })).logDescUe i 0 u
  | none =>
    let d := s.readDesc i
    let a := if event && d.adv && s0.flag F.LOD_CTL.DRT_ADV_EN then s0.requestAdvance (time + 1) else (s0, false)
    let snap := if a.2 then time + 1 else a.1.snapshotEnd time
    a.1.modTask i (fun t => { t with act := some (newActivation d time source snap), lastStamp := some time })

/-- Release an enabled task with a stamp (R147 to R149, R151): R147 applies to event releases. -/
def State.releaseTask (s : State) (i time source : Nat) (event : Bool) : State :=
  let t := s.task i
  if s.releasesHeld || !(s.drtReady) || t.stopping then s
  else
    let tooSoon := event && (match t.lastStamp with
      | some l => decide (time < l + t.minGap * 256)
      | none => false)
    if tooSoon then s.skipRelease i time source 0x21 1
    else if t.act.isSome then s.skipRelease i time source 0x22 1
    else (s.advancesFirst time 64).acceptRelease i time source event

/-- A commanded release, from a writer or a compare unit (R148). -/
def State.commandRelease (s : State) (i time source : Nat) : State :=
  if s.releasesHeld then s
  else
    let s := s.updateFirst i
    if s.taskCount ≤ i || !(s.task i).enabled || (s.task i).trigger != 2 then s.count F.DRT_EVT_COUNTS.DROPPED 1
    else s.releaseTask i time source false

/-- The release of one event task by the notification of a write to slot `slot` (R146). -/
structure EventRelease where
  task : Nat
  slot : Nat
  time : Nat
  source : Nat
deriving DecidableEq, Repr

/-- The draught meets an event release: the task may have been changed by an UPDATE that waited for it. -/
def State.eventRelease (s : State) (r : EventRelease) : State :=
  let s := s.updateFirst r.task
  if (s.task r.task).enabled && (s.task r.task).trigger = 1 && (s.task r.task).trigSlot = r.slot then
    s.releaseTask r.task r.time r.source true
  else s

/-- The releases that notifications ask for, in their order; of one notification in ascending index (R146). -/
def State.eventReleases (s : State) (l : List (Nat × Nat × Nat)) : List EventRelease :=
  l.flatMap (fun n => ((s.drt.events.foldl insertNat []).filter (fun i => (s.task i).trigSlot = n.1)).map
    (fun i => ⟨i, n.1, n.2.1, n.2.2⟩))

/-- Put a release before a list: releases of equal stamps stand in ascending index (R150). -/
def insertRelease (r : EventRelease) (l : List EventRelease) : List EventRelease :=
  match l with
  | [] => [r]
  | x :: rest =>
    if r.time = x.time && r.source = x.source && decide (x.task < r.task) then x :: insertRelease r rest else r :: x :: rest

/-- Notifications of writes, by slot and stamp, release the event tasks on those slots (R146, R150). -/
def State.notifyAll (s : State) (l : List (Nat × Nat × Nat)) : State :=
  ((s.eventReleases l).foldr insertRelease []).foldl State.eventRelease s

/-- Make a lode write: answers the notifications it raises. -/
def State.lodeMake (s : State) (i : HoldItem) : State × List (Nat × Nat × Nat) :=
  let slot := match i with | .write w => w.slot | .clear n _ => n | .config n _ => n
  let r := s.applyItem i
  (r.1, (r.2.map (fun p => (slot, p.1, p.2))).toList)

/-- Make a lode write and its notification. -/
def State.lodeApply (s : State) (i : HoldItem) : State :=
  let r := s.lodeMake i
  r.1.notifyAll r.2

/-- A write that a hewer, the boot or a host makes to the lode: at once when the lode accepts writes, else it waits in the
order of arrival (R95, R102, R124). -/
def State.lodeSend (s : State) (i : HoldItem) : State :=
  if s.lodeAccepts && s.lode.inq.isEmpty then (s.lodeApply i).markStall else s.markStall.queueWrite i

/-! ### Commands (R140 to R143) -/

/-- The task becomes DISABLED. -/
def State.disableTask (s : State) (i : Nat) : State :=
  { s.setTask i Task.reset with drt := { (s.setTask i Task.reset).drt with events := s.drt.events.filter (fun x => x != i) } }

/-- ENABLE (R140). -/
def State.drtEnable (s : State) (i : Nat) : State :=
  if s.taskCount ≤ i then s.cmdEnd 0x01
  else if !(s.drtReady) then s.cmdEnd 0x0A
  else if (s.task i).enabled then s.cmdEnd 0x02
  else
    let d := s.readDesc i
    let c := s.checkDesc d (d.trigger = 1)
    if c != 0 then s.cmdEnd c
    else ((s.setTask i (Task.reset.arm d s.time.now)).eventEntry i (d.trigger = 1)).cmdEnd 0

/-- UPDATE, up to the wait (R140). -/
def State.drtUpdate (s : State) (i staging : Nat) : State :=
  if s.taskCount ≤ i || s.taskCount ≤ staging then s.cmdEnd 0x01
  else if !(s.drtReady) then s.cmdEnd 0x0A
  else if !(s.task i).enabled || (s.task staging).enabled then s.cmdEnd 0x02
  else s.cmdWait

/-! ### The packet (R152 to R157) -/

/-- A 16-byte input entry (R154). -/
def shortEntry (x : LodeSlot) (c : LodeCopy) (quality boundary : Nat) : List Byte :=
  let age := if boundary < c.ptime then 0 else (boundary - c.ptime) / 1024
  bytesLE 8 c.value.toNat
  ++ bytesLE 8 (quality % 0x10000 * 2 ^ 48 + c.seq % 0x10000 * 2 ^ 32 + x.kind * 2 ^ 28 + b2n c.late * 2 ^ 27
      + (if age > 0xFFFFFF then 0xFFFFFF else age))

/-- The input entry of a slot. -/
def State.inputEntry (s : State) (full : Bool) (slot : Nat) : List Byte :=
  if full then s.snapshotBytes slot
  else
    let x := s.slot slot
    let c := x.snapshot s.openEpoch
    let b := s.fld F.LOD_OPEN_B.BOUNDARY
    shortEntry x c (s.presented x c b) b

/-- The header of a task packet (R153). -/
def Activation.header (a : Activation) (index : Nat) : List Byte :=
  bytesLE 8 a.relTime
  ++ bytesLE 8 (a.relSource * 2 ^ 40 + index * 2 ^ 24 + a.attempt * 2 ^ 21)
  ++ bytesLE 8 a.deadlineAt ++ bytesLE 8 a.epoch ++ bytesLE 8 a.boundary
  ++ bytesLE 8 (a.desc.inCount * 2 ^ 52 + a.desc.outCount * 2 ^ 40 + b2n a.desc.inFull * 2 ^ 39 + a.desc.stateSize)
  ++ bytesLE 8 a.resTime
  ++ bytesLE 8 (a.resSource * 2 ^ 40 + a.status * 2 ^ 32 + a.userStatus * 2 ^ 16 + a.disposition)

/-- Offset of the state block in the packet (R153). -/
def Desc.packetState (d : Desc) : Nat := 0x40 + d.inCount * d.entrySize

/-- Landing units of a packet (R157, R185). -/
def Desc.footprint (d : Desc) : Nat :=
  (d.packetState + d.stateSize + 255) / 256 + (d.stateSize + d.outCount * 16 + 255) / 256

/-- The bytes of the region that the draught reads to gather a release: descriptor, lists and region set. -/
def State.descRanges (s : State) (i : Nat) (d : Desc) : List (Nat × Nat) :=
  let b := s.regionBase
  [(b + i * 128, 128), (b + d.inList, d.inRuns * 4), (b + d.outList, d.outRuns * 4), (b + s.taskCount * 128 + d.rset * 128, 128)]

/-- The first poisoned unit that the draught reads for a release, of descriptor, lists and region set (R179). -/
def State.descPoison (s : State) (i : Nat) (d : Desc) : Option Nat :=
  (s.descRanges i d).findSome? (fun r => s.poisonAt r.1 r.2)

/-- The first poisoned unit of a region set, which is read at dispatch (R179). -/
def State.setPoison (s : State) (d : Desc) : Option Nat := s.poisonAt (s.regionBase + s.taskCount * 128 + d.rset * 128) 128

/-- The result window as the landing logic writes it (R156, R163). -/
def Activation.landResult (a : Activation) : Activation :=
  { a with
    result := a.packet.drop a.desc.packetState ++ List.replicate (a.desc.outCount * 16) 0
    resultPoison := a.packetPoison
    storedBytes := [] }

/-- Build the packet of task `i` from the snapshot closed now (R152 to R156). -/
def State.gather (s : State) (i : Nat) (a : Activation) : Activation :=
  let d := a.desc
  let a1 := { a with epoch := s.openEpoch - 1, boundary := s.fld F.LOD_OPEN_B.BOUNDARY }
  let inputs := (s.slotsOf d.inList d.inRuns).flatMap (s.inputEntry d.inFull)
  let at_ := s.regionBase + d.stateOff
  let marks := (List.range (d.stateSize / 32)).filter (fun u => s.mem.poison.contains (at_ / 32 + u))
  { a1 with packet := a1.header i ++ inputs ++ s.readBytes at_ d.stateSize, packetPoison := marks }.landResult

/-! ### Results and commit (R164 to R173) -/

/-- Fix the commit point of an emitted result, or discard it: RESULT_ACCEPT (R167, R173). -/
def State.acceptResult (s : State) (i : Nat) (a : Activation) : State × Bool :=
  let now := s.time.now
  let fixed := (a.relTime + a.desc.commit * 256) % 2 ^ 64
  let src := s.source srcDraught
  let put := fun (s : State) (p : Nat) => s.modAct i (fun a => { a with stage := .accepted, commitPoint := p })
  let countLate := fun (s : State) => s.count F.DRT_EVT_COUNTS.LATE 1
  if a.deadlineAt < now then
    if a.desc.missDiscard then (countLate (s.drtLog now src 0x25 i a.attempt 0), false)
    else (put s now, true)
  else if a.desc.commit = 0 then (put s now, true)
  else if now ≤ fixed then (put s fixed, true)
  else (put (countLate (s.drtLog now src 0x24 i a.attempt 0)) now, true)

/-- The output writes of a commit, in list order: the slots with the entries that are VALID (R166, R168). -/
def State.outputWrites (s : State) (a : Activation) : List LodeWrite :=
  let slots := s.slotsOf a.desc.outList a.desc.outRuns
  ((List.range slots.length).zip slots).filterMap (fun e =>
    let off := a.desc.stateSize + e.1 * 16
    let w1 := natLE (sliceBytes a.result (off + 8) 8)
    if bitOf w1 0 then
      some { path := .commit, slot := e.2, value := BitVec.ofNat 64 (natLE (sliceBytes a.result off 8)),
             kind := bitsOf w1 31 28, quality := bitsOf w1 63 48, time := some a.commitPoint,
             source := s.source srcDraught, poison := false }
    else none)

/-- Make the writes of a commit in order (R168): answers their notifications. -/
def State.makeWrites (s : State) (l : List LodeWrite) : State × List (Nat × Nat × Nat) :=
  match l with
  | [] => (s, [])
  | w :: rest =>
    let a := s.lodeMake (.write w)
    let b := a.1.makeWrites rest
    (b.1, a.2 ++ b.2)

/-- Apply the writes of a commit; the releases that they notify follow, of equal stamps in ascending index (R150, R168). -/
def State.commitWrites (s : State) (l : List LodeWrite) : State :=
  let r := s.makeWrites l
  r.1.markStall.notifyAll r.2

/-- Write the state of the result window over the state block, unit by unit with its mark (R155, R170). -/
def State.writeUnits (s : State) (at_ : Nat) (bytes : List Byte) (poison : List Nat) (n u : Nat) : State :=
  match n with
  | 0 => s
  | k + 1 =>
    let d := sliceBytes bytes (u * 32) 32
    let s1 := if poison.contains u then s.dmaWritePoison srcDraught (at_ + u * 32) d else s.dmaWriteBy srcDraught (at_ + u * 32) d
    s1.writeUnits at_ bytes poison k (u + 1)

/-- Write the state back when the result commits it (R170). -/
def State.writeBack (s : State) (a : Activation) (disposition : Nat) : State :=
  if disposition = 0 || disposition = 2 then
    s.writeUnits (s.regionBase + a.desc.stateOff) a.result a.resultPoison (a.desc.stateSize / 32) 0
  else s

/-- Does the result commit outputs (R165)? -/
def Activation.commitsOutputs (a : Activation) : Bool :=
  (a.status = 0x00 || a.status = 0x01) && (a.disposition = 0 || a.disposition = 1)

/-- Commit an accepted result: the outputs, then the state; the activation ends (R168 to R171). An output list that cannot be read
discards it (R179). -/
def State.commitResult (s : State) (i : Nat) (a : Activation) : State :=
  let writes := a.status = 0x00 || a.status = 0x01
  let ends := fun (s : State) => s.modTask i (fun t => { t with act := none })
  let at_ := s.regionBase + a.desc.outList
  match (if a.commitsOutputs then s.poisonAt at_ (a.desc.outRuns * 4) else none) with
  | some u => ends (s.logDescUe i a.attempt u)
  | none =>
    let s1 := if a.commitsOutputs then (s.hubAccess at_ (a.desc.outRuns * 4) srcDraught false).commitWrites (s.outputWrites a) else s
    ends (if writes then s1.writeBack a a.disposition else s1)

end Sys2Proof.Machine
end

