-- ==== Sys2Proof/Machine/Dispatching.lean ====
section
/-!
DEFINITION. Dispatch (R180 to R231, R835, R836): the dispatch key, pools, placement, queues, stealing, re-execution, and
what a hewer does at task arrival, at the end of a body and at a thread restore.
-/
namespace Sys2Proof.Machine

/-! ### Keys and queues (R180, R214) -/

/-- The dispatch key: is (i, a) more urgent than (j, b)? -/
def keyBefore (x y : Nat × Activation) : Bool :=
  let a := x.2
  let b := y.2
  decide (a.deadlineAt < b.deadlineAt)
  || (decide (a.deadlineAt = b.deadlineAt)
      && (stampBefore a.relTime a.relSource b.relTime b.relSource
          || (decide (a.relTime = b.relTime) && decide (a.relSource = b.relSource) && decide (x.1 < y.1))))

/-- Queue order: re-queued packets first, then by key. -/
def queueBefore (x y : Nat × Activation) : Bool :=
  if x.2.requeued != y.2.requeued then x.2.requeued else keyBefore x y

/-- The most urgent of a list. -/
def mostUrgent (l : List (Nat × Activation)) : Option (Nat × Activation) :=
  match l with
  | [] => none
  | x :: rest => match mostUrgent rest with
    | none => some x
    | some y => if keyBefore y x then some y else some x

/-- The activations in flight, by task index. -/
def State.activations (s : State) : List (Nat × Activation) :=
  s.drt.tasks.filterMap (fun e => e.2.act.map (fun a => (e.1, a)))

/-- The activation of a task, as an entry. -/
def State.actOf (s : State) (i : Nat) : Option (Nat × Activation) := (s.task i).act.map (fun a => (i, a))

def State.readyQ (s : State) (g : Nat) : List Nat := s.drt.ready.get [] g
def State.setReadyQ (s : State) (g : Nat) (l : List Nat) : State :=
  { s with drt := { s.drt with ready := s.drt.ready.set [] g l } }
def State.localQ (s : State) (h : Nat) : List Nat := s.drt.locals.get [] h
def State.setLocalQ (s : State) (h : Nat) (l : List Nat) : State :=
  { s with drt := { s.drt with locals := s.drt.locals.set [] h l } }

/-- Insert a packet into a queue in queue order. -/
def State.queueInsert (s : State) (l : List Nat) (i : Nat) : List Nat :=
  match l with
  | [] => [i]
  | j :: rest =>
    match s.actOf i, s.actOf j with
    | some x, some y => if queueBefore x y then i :: j :: rest else j :: s.queueInsert rest i
    | _, _ => j :: s.queueInsert rest i

/-- Put a packet into a gallery's ready queue (R181); reaching 248 entries sets RQ_FULL. -/
def State.toReady (s : State) (g i : Nat) : State :=
  let s1 := s.modAct i (fun a => { a with stage := .ready, gallery := some g })
  let s2 := s1.setReadyQ g (s1.queueInsert (s1.readyQ g) i)
  if 248 ≤ (s2.readyQ g).length then s2.raise F.DRT_DSP_STATUS.RQ_FULL else s2

/-- Put a packet at the head of a hewer's local queue. -/
def State.toLocalHead (s : State) (h i : Nat) : State :=
  (s.modAct i (fun a => { a with stage := .localQueue h, gallery := some (h / 8) })).setLocalQ h (i :: s.localQ h)

/-- Put a packet at the tail of a hewer's local queue, in queue order. -/
def State.toLocal (s : State) (h i : Nat) : State :=
  let s1 := s.modAct i (fun a => { a with stage := .localQueue h })
  s1.setLocalQ h (s1.queueInsert (s1.localQ h) i)

/-- Take a packet out of whatever queue holds it. -/
def State.dequeue (s : State) (i : Nat) : State :=
  match s.actOf i with
  | none => s
  | some (_, a) =>
    match a.stage with
    | .ready => match a.gallery with
      | some g => s.setReadyQ g ((s.readyQ g).filter (fun j => j != i))
      | none => s
    | .localQueue h => s.setLocalQ h ((s.localQ h).filter (fun j => j != i))
    | _ => s

/-! ### Pools (R183, R220) -/

/-- Has the fault block removed gallery `g`? -/
def State.galleryLost (s : State) (g : Nat) : Bool := s.flag (F.FLT_GAL_MAP.LOST g)

/-- Is hewer `h` eligible (R220)? -/
def State.eligible (s : State) (h : Nat) : Bool :=
  let x := s.hew h
  (s.fld (F.DRT_HWR_POOL.POOL (h / 64))).testBit (h % 64) && !x.halted && !x.checkStopped && !(s.removed h)
  && !x.twinLost && !(s.flag (F.CAN_HWR_STAT.EXPIRED h))

/-- Is gallery `g` in the dispatch pool (R183)? -/
def State.galleryInPool (s : State) (g : Nat) : Bool :=
  (s.fld F.DRT_GAL_POOL.POOL).testBit g && s.domainOn (shaftDomain (g * 8)) && !(s.galleryLost g)
  && (List.range 8).any (fun k => s.eligible (g * 8 + k))

/-- Is hewer `h` in the hewer pool (R220)? -/
def State.hewerInPool (s : State) (h : Nat) : Bool := s.eligible h && s.galleryInPool (h / 8)

/-- Does hewer `h` run packets placed in its gallery: in the pool, or in a gallery whose bit in DRT_GAL_POOL is 0, where the
packets already placed run to completion (R221)? -/
def State.hewerServes (s : State) (h : Nat) : Bool :=
  s.eligible h && s.domainOn (shaftDomain h) && !(s.galleryLost (h / 8))

/-! ### Placement (R184 to R189) -/

/-- Landing units in use in gallery `g` (R185, R209). -/
def State.landUsed (s : State) (g : Nat) : Nat :=
  s.activations.foldl (fun n x =>
    n + (if x.2.gallery = some g then x.2.desc.footprint else 0)
      + (if x.2.stage = .copying g then x.2.desc.footprint else 0)) 0

/-- Free landing units. -/
def State.landFree (s : State) (g : Nat) : Nat := 2048 - s.landUsed g

/-- Has the activation emitted its result? -/
def Activation.emittedYet (a : Activation) : Bool := a.stage = .emitted || a.stage = .accepted

/-- Backlog of a gallery (R186). -/
def State.backlog (s : State) (g : Nat) : Nat :=
  (s.activations.filter (fun x => x.2.gallery = some g && !x.2.emittedYet)).length

/-- Packets placed in `g` whose gather or landing has not ended. -/
def State.arriving (s : State) (g : Nat) : Nat :=
  (s.activations.filter (fun x => x.2.gallery = some g && x.2.stage = .gathering)).length

/-- Does gallery `g` qualify, space aside (R184)? -/
def State.qualifiesPool (s : State) (a : Activation) (g : Nat) : Bool :=
  a.desc.affinity.testBit g && s.galleryInPool g
  && (!a.desc.pin || (decide (g = a.desc.pinHewer / 8) && s.hewerInPool a.desc.pinHewer))

/-- Does gallery `g` qualify for the packet (R184)? -/
def State.qualifies (s : State) (a : Activation) (g : Nat) : Bool :=
  s.qualifiesPool a g && decide (a.desc.footprint ≤ s.landFree g) && decide ((s.readyQ g).length + s.arriving g < 248)

/-- The qualifying gallery with the smallest backlog, the lowest of equals (R186), of those below `n`. -/
def State.chooseGallery (s : State) (a : Activation) (n : Nat) : Option Nat :=
  match n with
  | 0 => none
  | k + 1 =>
    match s.chooseGallery a k with
    | none => if s.qualifies a k then some k else none
    | some g => if s.qualifies a k && decide (s.backlog k < s.backlog g) then some k else some g

/-- Does AFFINITY select a gallery of the dispatch pool (R189)? -/
def State.affinityInPool (s : State) (a : Activation) : Bool :=
  (List.range 64).any (fun g => a.desc.affinity.testBit g && s.galleryInPool g)

/-- The releases whose snapshot is closed and whose gather has not started; while the lode initialises, gathers wait (R101, R124,
R152). -/
def State.waitingGather (s : State) : List (Nat × Activation) :=
  if !(s.flag F.LOD_STATUS.INIT_DONE) then []
  else s.activations.filter (fun x => x.2.stage = .heap && decide (x.2.snapEnd ≤ s.fld F.LOD_OPEN_B.BOUNDARY))

/-- Is a release passed over for landing space or ready-queue room (R188)? -/
def State.landWait (s : State) : Bool :=
  s.waitingGather.any (fun x =>
    !((List.range 64).any (s.qualifies x.2)) && (List.range 64).any (s.qualifiesPool x.2))

/-! ### The end of an activation -/

/-- The body on hewer `h` ends: the hewer takes the next packet or restores the thread (R195, R200). -/
def Hewer.bodyEnds (x : Hewer) : Hewer :=
  { x.setPsf 13 13 0 with body := none, live0 := false, live1 := false, between := true, unit := none, rep := none, ctl := [] }

/-- The activation of task `i` is gone: it leaves its queue, frees its footprint and a body of it ends. -/
def State.dropActivation (s : State) (i : Nat) : State :=
  let s1 := s.dequeue i
  let s2 := s1.modTask i (fun t => { t with act := none })
  match s.actOf i with
  | some (_, a) => match a.stage with
    | .running h => (s2.modHew h Hewer.bodyEnds).flushPred h
    | _ => s2
  | none => s2

/-- End an activation with STATUS RETRY_EXHAUSTED (R213, R215). -/
def State.exhaust (s : State) (i : Nat) : State :=
  let a := match s.actOf i with | some (_, a) => a.attempt | none => 0
  let st := s.stamp srcDraught
  ((st.2.drtLog st.1 (s.source srcDraught) 0x28 i a 0).count F.DRT_DSP_COUNTS.EXHAUSTED 1).dropActivation i

/-- Discard every activation in flight (R151, R835). -/
def State.discardAll (s : State) : State := (s.activations.map Prod.fst).foldl State.dropActivation s

/-- DEADLINE_MISS is logged and counted once (R172). -/
def State.logMiss (s : State) (i : Nat) (a : Activation) : State :=
  ((s.drtLog a.deadlineAt (s.source srcDraught) 0x23 i a.attempt 0).count F.DRT_EVT_COUNTS.DEADLINE_MISS 1).modAct i
    (fun a => { a with missed := true })

/-- A gallery is lost: every activation placed in it, one on its way to it in a tier-2 copy too, ends with STATUS RETRY_EXHAUSTED
(R211, R219). -/
def State.loseGallery (s : State) (g : Nat) : State :=
  let l := (s.activations.filter (fun x => (x.2.gallery = some g && !(match x.2.stage with | .copying _ => true | _ => false))
    || x.2.stage = .copying g)).map Prod.fst
  l.foldl (fun s i =>
    let a := match s.actOf i with | some (_, a) => a.attempt | none => 0
    let st := s.stamp srcDraught
    ((st.2.logAt st.1 (s.source srcDraught) 0x2A 0 0 0 (unitDw3 i (a * 2 ^ 45 + g * 2 ^ 39))).count F.DRT_DSP_COUNTS.EXHAUSTED
      1).dropActivation i) s

/-! ### Loss of a hewer (R212 to R218, R836) -/

/-- A list of packets in key order (R180, R216): `n` bounds its length. -/
def byKey (n : Nat) (l : List (Nat × Activation)) : List (Nat × Activation) :=
  match n with
  | 0 => []
  | k + 1 => match mostUrgent l with
    | none => []
    | some x => x :: byKey k (l.filter (fun y => y.1 != x.1))

/-- Entries of a ready queue that a return may fill: the others stay free for packets that are re-queued (R184, R214). -/
def returnRoom : Nat := 248

/-- Packets go back to their ready queues, in the order given, as far as they fit (R216). -/
def State.returnPackets (s : State) (l : List (Nat × Activation)) : State :=
  match l with
  | [] => s
  | (i, a) :: rest =>
    match a.gallery with
    | none => s.returnPackets rest
    | some g => (if returnRoom ≤ (s.readyQ g).length then s else (s.dequeue i).toReady g i).returnPackets rest

/-- The packets of a list of tasks, as entries. -/
def State.entries (s : State) (l : List Nat) : List (Nat × Activation) := l.filterMap s.actOf

/-- Hewers have left the pool: the unpinned packets of their local queues return in key order (R216). -/
def State.leaveAll (s : State) (hs : List Nat) : State :=
  let l := (hs.flatMap (fun h => s.entries (s.localQ h))).filter (fun x => !x.2.desc.pin)
  s.returnPackets (byKey l.length l)

/-- A hewer has left the pool: its queue returns (R216). -/
def State.leavePool (s : State) (h : Nat) : State := s.leaveAll [h]

/-- BUDGET_OVERRUN is logged and counted (R174). -/
def State.logOverrun (s : State) (h i : Nat) : State :=
  let a := match s.actOf i with | some (_, a) => a.attempt | none => 0
  let st := s.stamp h
  (st.2.drtLog st.1 (s.source h) 0x26 i a 0).count F.DRT_EVT_COUNTS.OVERRUN 1

/-- Hewer `h` is lost to the activation it runs: it is re-queued or ends (R213, R214); the body is abandoned. A body whose BUDGET
has reached 0 ends as an overrun, which is never executed again (R174). -/
def State.loseBody (s : State) (h : Nat) : State :=
  match (s.hew h).body with
  | none => s
  | some i =>
    match s.actOf i with
    | none => s.modHew h Hewer.bodyEnds
    | some (_, a) =>
      if (s.hew h).bodyBit && (s.hew h).budget = 0 then (s.logOverrun h i).dropActivation i
      else if a.attempt < a.desc.retryLimit then
        let a1 := { a with attempt := a.attempt + 1, stolen := false, requeued := true }
        let a2 := { a1 with packet := pokeBytes a.packet 0 (a1.header i) }.landResult
        let st := s.stamp srcDraught
        let s1 := (st.2.drtLog st.1 (s.source srcDraught) 0x27 i a2.attempt 0).count F.DRT_DSP_COUNTS.RETRIES 1
        let s2 := ((s1.modAct i (fun _ => a2)).modHew h Hewer.bodyEnds).flushPred h
        let g := a.gallery.getD (h / 8)
        if a.desc.pin then s2.toLocalHead a.desc.pinHewer i
        else if (s2.readyQ g).length < 256 then s2.toReady g i
        else s2.toLocalHead h i
      else s.exhaust i

/-! ### Check-stops and exceptions (R440, R446 to R449) -/

/-- The hewer check-stops: it leaves the pool as a removal by the fault block, which logs it and notifies (R212, R448, R449). -/
def State.checkStop (s : State) (h : Nat) : State :=
  let s1 := s.modHew h (fun x => { x with checkStopped := true, winS := false, winM := false })
  ((s1.loseBody h).leavePool h).log 0xF00 0x11 0 0 0 (h % 512 * 2 ^ 39)

/-- Take exception `code` with EPC `epc` (R249, R440, R446 to R448): in the window of M the hewer check-stops, in that of S it takes
a machine check. -/
def State.takeExc (s : State) (h code : Nat) (epc eval : Word) : State :=
  let x := s.hew h
  if x.winM && x.pl = 3 then s.checkStop h
  else if x.winS && x.pl = 1 then s.enter h true false 0x18 epc (some (BitVec.ofNat 64 (4 * 2 ^ 56))) (some 15)
  else s.enter h (s.routesToM h x.pl code) false code epc (some eval) (if code = 0x18 then some 15 else none)

/-! ### Thread save and restore (R197 to R202) -/

/-- Save area of hewer `h` (R197). -/
def State.saveArea (s : State) (h : Nat) : Nat := s.fld F.DRT_SAVE_BASE.BASE * 0x100000 + h * 2048

/-- PSTAT as it reads on hewer `h` (R265). -/
def Hewer.pstatOf (x : Hewer) (h : Nat) : Nat := setBits x.pstat.toNat 56 48 h

/-- The 2,048 bytes of a saved thread (R197, R198). -/
def Hewer.threadBytes (x : Hewer) (h : Nat) : List Byte :=
  (List.range 32).flatMap (fun r => bytesLE 8 (x.getW r).toNat)
  ++ (List.range 32).flatMap (fun r => bytesLE 16 (x.getV r).toNat)
  ++ bytesLE 8 x.excPc.toNat
  ++ ([x.pstatOf h, x.asid.toNat, x.xmode.toNat, x.iroot.toNat, x.droot.toNat, x.pkr.toNat, x.rsp.toNat, x.rsb.toNat,
       x.rsl.toNat, x.cnt.toNat, x.taskid.toNat, x.sSet.epc.toNat, x.sSet.ecause.toNat, x.sSet.eval.toNat,
       x.budget.toNat, x.cdtctl.toNat].flatMap (bytesLE 8))
  ++ List.replicate 0x78 0
  ++ (List.range 16).flatMap (fun n => bytesLE 8 (x.cre.get 0 n).toNat)
  ++ List.replicate 0x380 0

/-- Write the thread of `h` into its save area. -/
def State.saveThread (s : State) (h : Nat) : State := s.dmaWriteBy h (s.saveArea h) ((s.hew h).threadBytes h)

/-- Doubleword `k` of a save area's system registers. -/
def State.savedDw (s : State) (h off : Nat) : Word := BitVec.ofNat 64 (s.readDw (s.saveArea h + off))

/-- PSTAT of a restored thread: a thread was saved in U or S, translated and outside a body, whatever a breach of R201 has put into
its save area (R10, R193, R262). -/
def threadStatus (v : Word) : Word :=
  let n := v.toNat
  BitVec.ofNat 64 (bitsOf n 41 24 * 2 ^ 24 + bitsOf n 19 18 * 2 ^ 18 + (if bitsOf n 15 14 = 0 then 0 else 2 ^ 14))

/-- A region entry as CRE0 to CRE63 hold it: bits [9:8] are reserved (R408). -/
def creWord (v : Word) : Word := BitVec.ofNat 64 (setBits v.toNat 9 8 0)

/-- The hewer with the registers that its save area holds (R200): reserved bits read 0, and no breach of R201 raises privilege
(R10). -/
def State.threadOf (s : State) (h : Nat) : Hewer :=
  let x := s.hew h
  let dw := s.savedDw h
  { x with
    w := (List.range 31).foldl (fun t r => t.set 0 (r + 1) (dw ((r + 1) * 8))) []
    v := (List.range 32).foldl (fun t r =>
      t.set 0 r (BitVec.ofNat 128 (natLE (s.readBytes (s.saveArea h + 0x100 + r * 16) 16)))) []
    wPoison := []
    vPoison := []
    pc := dw 0x300
    pstat := threadStatus (dw 0x308)
    asid := keepBits (dw 0x310) 15 0
    xmode := keepBits (dw 0x318) 1 0
    iroot := keepBits (dw 0x320) 47 12
    droot := keepBits (dw 0x328) 47 12
    pkr := keepBits (dw 0x330) 31 0
    rsp := keepBits (dw 0x338) 63 3
    rsb := keepBits (dw 0x340) 63 3
    rsl := keepBits (dw 0x348) 63 3
    cnt := keepBits (dw 0x350) 31 0
    taskid := keepBits (dw 0x358) 15 0
    sSet := { x.sSet with epc := dw 0x360, ecause := causeWrite (dw 0x368) 1, eval := dw 0x370 }
    budget := keepBits (dw 0x378) 31 0
    cdtctl := dw 0x380 &&& x.savedCdt
    cre := (List.range 16).foldl (fun t n => t.set 0 n (creWord (dw (0x400 + n * 8)))) x.cre
    live0 := false
    live1 := false
    ctl := []
    unit := none
    rep := none
    resv := none
    missed := []
    winS := x.savedWin
    winM := false
    saved := false
    between := false
    eretRestores := none }

/-- Restore the saved thread of `h`, or take the machine check of R202; the EPC of that entry is a free value (log 9). -/
def State.restoreThread (s : State) (h : Nat) : State :=
  let at_ := s.saveArea h
  if !(s.dramReach at_ 2048) || s.poisoned at_ 2048 then
    let d := s.draw
    (d.2.modHew h (fun x => { x with between := false, eretRestores := none })).enter h true false 0x18
      (BitVec.ofNat 64 d.1) (some (BitVec.ofNat 64 (2 * 2 ^ 56 + at_))) (some 15)
  else (((s.hubAccess at_ 2048 h false).setHew h (s.threadOf h)).flushPred h).l1iDrop h

/-! ### Task arrival (R158, R193 to R195, R268) -/

/-- DRT_PCLASS_LVL of a class. -/
def State.arrivalLevel (s : State) (pclass : Nat) : Nat := bitsOf (s.reg Adr.DRT_PCLASS_LVL).toNat (pclass * 4 + 3) (pclass * 4)

/-- CRE0 and CRE1 at dispatch (R158, R407). -/
def packetEntry : Word := 0x07FFCFC000000050
def resultEntry : Word := 0x07FFEFD000000070

/-- The context of a body (R158, R268). -/
def Hewer.bodyContext (x : Hewer) (d : Desc) (i level : Nat) (set : List Word) : Hewer :=
  let w := [(1, 0x7FFC0000), (2, 0x7FFE0000), (3, d.user), (4, i), (30, d.dstack)]
  let cre0 := (List.range 16).foldl (fun t n =>
    t.set 0 n (if n = 0 then packetEntry else if n = 1 then resultEntry else creWord (set.getD (n - 2) 0))) x.cre
  let ps := setBits (setBits (setBits (setBits (setBits (setBits x.pstat.toNat 41 32 0) 31 28 0) 27 24 level) 19 18 0)
    15 14 0) 13 13 1
  { x with
    w := w.foldl (fun t e => t.set 0 e.1 (BitVec.ofNat 64 e.2)) []
    v := []
    wPoison := []
    vPoison := []
    pc := BitVec.ofNat 64 d.entry
    pstat := BitVec.ofNat 64 ps
    asid := BitVec.ofNat 64 d.asid
    xmode := 0
    cre := cre0
    live0 := true
    live1 := true
    budget := BitVec.ofNat 64 d.budget
    budgetAcc := 0
    taskid := BitVec.ofNat 64 i
    rsb := keepBits (BitVec.ofNat 64 d.rsb) 63 3
    rsl := keepBits (BitVec.ofNat 64 d.rsl) 63 3
    rsp := keepBits (BitVec.ofNat 64 d.rsb) 63 3
    pkr := 0
    cnt := 0
    ctl := []
    unit := none
    rep := none
    resv := none
    missed := []
    winS := false
    winM := false
    body := some i
    between := false }

/-- Start the body of task `i` on hewer `h`: predictor and L1 I are cold, and the hewer's copy of the decode table is the newest
(R158, R322, R363, R371). -/
def State.startBody (s : State) (h i : Nat) (d : Desc) : State :=
  let s1 := s.dequeue i
  let s2 := s1.modAct i (fun a => { a with stage := .running h, requeued := false })
  (((s2.modHew h (fun x => x.bodyContext d i (s.arrivalLevel d.pclass) (s.regionSet d.rset))).flushPred h).l1iDrop h).cdtReach h

/-- Can the hewer take events at a boundary now: alive, not halted, outside a transfer unit, and with no long operation in hand that
waits for host data (R285, R309, R442, R444)? -/
def State.atBoundary (s : State) (h : Nat) : Bool :=
  let x := s.hew h
  s.pwr.pllLocked && s.domainOn (shaftDomain h) && x.started && !x.checkStopped && !(s.removed h) && !x.halted
    && !x.twinLost && x.unit.isNone && x.hostBuf.isEmpty

/-- Would the hewer take task arrival at `level` (R193, R201)? -/
def State.takesArrival (s : State) (h level : Nat) : Bool :=
  let x := s.hew h
  s.atBoundary h && (x.pl = 0 || x.pl = 1) && !x.bodyBit && !x.saved && !x.between && !x.forced && decide (x.ilvl < level)

/-- Is hewer `h` free for a packet of level `level` (R204)? -/
def State.freeFor (s : State) (h level : Nat) : Bool :=
  let x := s.hew h
  s.hewerInPool h && x.body.isNone && (s.localQ h).isEmpty && ((x.between && x.saved) || s.takesArrival h level)

/-- Task arrival at hewer `h` with the head of its local queue (R192 to R195, R202). A region set that cannot be read discards the
release instead (R179). -/
def State.taskArrival (s : State) (h : Nat) : State :=
  match s.localQ h with
  | [] => s
  | i :: _ =>
    match s.actOf i with
    | none => s
    | some (_, a) =>
      let x := s.hew h
      let level := s.arrivalLevel a.desc.pclass
      let next := x.between && x.saved && s.atBoundary h
      if !(s.hewerServes h) || !(next || (s.takesArrival h level && !x.waitsHost)) then s
      else match s.setPoison a.desc with
        | some u => (s.logDescUe i a.attempt u).dropActivation i
        | none =>
          if next then s.startBody h i a.desc
          else
            let s1 := (s.modHew h Hewer.landAll).sbFlush h
            let y := s1.hew h
            if !(s.dramReach (s.saveArea h) 2048) || !y.wPoison.isEmpty || !y.vPoison.isEmpty then
              s1.takeExc h 0x18 y.excPc (BitVec.ofNat 64 (2 * 2 ^ 56 + s.saveArea h))
            else
              ((s1.saveThread h).modHew h (fun x => { x with saved := true, savedCdt := x.cdtctl, savedWin := x.winS })).startBody h i a.desc

/-! ### Distribution and stealing (R190 to R191, R203 to R211) -/

/-- The local-queue fill limit (DRT_DSP_CTL.LQ_FILL). -/
def State.lqFill (s : State) : Nat :=
  let n := s.fld F.DRT_DSP_CTL.LQ_FILL
  if n = 0 then 1 else if 8 < n then 8 else n

/-- The hewer of gallery `g` in the pool with the shortest local queue below the limit, of its first `n` slots. -/
def State.shortest (s : State) (g n : Nat) : Option Nat :=
  match n with
  | 0 => none
  | k + 1 =>
    let h := g * 8 + k
    let ok := s.hewerServes h && decide ((s.localQ h).length < s.lqFill)
    match s.shortest g k with
    | none => if ok then some h else none
    | some b => if ok && decide ((s.localQ h).length < (s.localQ b).length) then some h else some b

/-- Where the distributor can move a packet (R190, R191). -/
def State.moveTarget (s : State) (g i : Nat) : Option Nat :=
  match s.actOf i with
  | none => none
  | some (_, a) =>
    if a.desc.pin then
      if s.hewerServes a.desc.pinHewer && decide ((s.localQ a.desc.pinHewer).length < s.lqFill) then some a.desc.pinHewer else none
    else s.shortest g 8

/-- The first packet of a queue that can move, with its target. -/
def State.firstMovable (s : State) (g : Nat) (l : List Nat) : Option (Nat × Nat) :=
  match l with
  | [] => none
  | i :: rest => match s.moveTarget g i with
    | some h => some (i, h)
    | none => s.firstMovable g rest

/-- Unpinned packets left behind in local queues of departed hewers of gallery `g` (R216). -/
def State.stranded (s : State) (g : Nat) : List (Nat × Activation) :=
  ((List.range 8).flatMap (fun k => if s.hewerServes (g * 8 + k) then [] else s.entries (s.localQ (g * 8 + k)))).filter
    (fun x => !x.2.desc.pin)

/-- One move of gallery `g`'s distributor (R190, R191, R216). -/
def State.distribute (s : State) (g : Nat) : State :=
  match (if (s.readyQ g).length < returnRoom then mostUrgent (s.stranded g) else none) with
  | some (i, _) => (s.dequeue i).toReady g i
  | none =>
    match s.firstMovable g (s.readyQ g) with
    | some (i, h) => (s.dequeue i).toLocal h i
    | none => s

/-- The packet that a tier-1 steal gives to hewer `h` (R205): true when it comes from a local queue. -/
def State.tier1Pick (s : State) (h : Nat) : Option (Nat × Bool) :=
  let g := h / 8
  let fits := fun (x : Nat × Activation) => s.freeFor h (s.arrivalLevel x.2.desc.pclass)
  let queues := (List.range 8).flatMap (fun k =>
    let j := g * 8 + k
    if j != h && ((s.hew j).body.isSome || !(s.hewerInPool j)) then s.entries (s.localQ j) else [])
  match mostUrgent (queues.filter (fun x => !x.2.desc.pin && fits x)) with
  | some (i, _) => some (i, true)
  | none =>
    match (s.entries (s.readyQ g)).find? (fun x => (!x.2.desc.pin || decide (x.2.desc.pinHewer = h)) && fits x) with
    | some (i, _) => some (i, false)
    | none => none

/-- A tier-1 take by hewer `h` (R205, R206). -/
def State.tier1 (s : State) (h : Nat) : State :=
  if !(s.flag F.DRT_DSP_CTL.T1_EN) then s
  else match s.tier1Pick h with
    | none => s
    | some (i, counted) =>
      let s1 := (s.dequeue i).toLocalHead h i
      if counted then s1.count F.DRT_DSP_COUNTS.T1_STEALS 1 else s1

/-- May gallery `g` request a tier-2 steal (R207, R208)? -/
def State.tier2Wants (s : State) (g : Nat) : Bool :=
  s.flag F.DRT_DSP_CTL.T2_EN && (s.fld F.DRT_GAL_IMPORT.IMPORT).testBit g && (s.readyQ g).isEmpty
  && (List.range 8).any (fun k => (List.range 4).any (fun c => s.freeFor (g * 8 + k) (s.arrivalLevel c)))
  && !((List.range 8).any (fun k => (s.entries (s.localQ (g * 8 + k))).any (fun x => !x.2.desc.pin)))
  && decide (s.drt.t2again.get 0 g ≤ s.time.cyc) && !(s.drt.t2req.any (fun r => r.2 = g))

/-- Insert a request by cycle, then gallery (R210). -/
def insertReq (l : List (Nat × Nat)) (r : Nat × Nat) : List (Nat × Nat) :=
  match l with
  | [] => [r]
  | x :: rest => if stampBefore r.1 r.2 x.1 x.2 then r :: x :: rest else x :: insertReq rest r

/-- The packets that gallery `g` may steal, within the bounds as they are when the steal is decided (R208, R223, R224). -/
def State.tier2Candidates (s : State) (g : Nat) : List (Nat × Activation) :=
  if !(s.flag F.DRT_DSP_CTL.T2_EN) || !((s.fld F.DRT_GAL_IMPORT.IMPORT).testBit g) || !(s.galleryInPool g) then []
  else s.activations.filter (fun x =>
    (match x.2.stage with | .ready => true | .localQueue _ => true | _ => false)
    && (match x.2.gallery with | some v => v != g && (s.fld F.DRT_GAL_EXPORT.EXPORT).testBit v | none => false)
    && x.2.desc.affinity.testBit g && !x.2.desc.pin && !x.2.stolen && decide (x.2.desc.footprint ≤ s.landFree g))

/-- The hub serves its first tier-2 request (R208 to R210). -/
def State.tier2 (s : State) : State :=
  match s.drt.t2req with
  | [] => s
  | (_, g) :: rest =>
    let s1 := { s with drt := { s.drt with t2req := rest } }
    match mostUrgent (s.tier2Candidates g) with
    | none => { s1 with drt := { s1.drt with t2again := s1.drt.t2again.set 0 g (s.time.cyc + 64) } }
    | some (i, _) =>
      ((s1.dequeue i).modAct i (fun a => { a with stage := .copying g, stolen := true })).count F.DRT_DSP_COUNTS.T2_STEALS 1

/-- The copy of a tier-2 steal completes: the packet goes to the head of the local queue of the lowest-numbered free hewer, else of
the lowest-numbered hewer in the pool, with room in its queue; with none it goes to the ready queue (R181, R209, log 40). -/
def State.tier2Done (s : State) (i : Nat) : State :=
  match s.actOf i with
  | none => s
  | some (_, a) =>
    match a.stage with
    | .copying g =>
      let level := s.arrivalLevel a.desc.pclass
      let hs := (List.range 8).map (fun k => g * 8 + k)
      match hs.find? (fun h => s.freeFor h level), hs.find? (fun h => s.hewerInPool h && decide ((s.localQ h).length < 8)) with
      | some h, _ => s.toLocalHead h i
      | none, some h => s.toLocalHead h i
      | none, none => s.toReady g i
    | _ => s

end Sys2Proof.Machine
end

