-- ==== Sys2Proof/Machine/Events.lean ====
section
/-!
DEFINITION. The asynchronous events of a hewer (R442, R443, R451 to R453): the interrupt sources, and what is due at a boundary.
-/
namespace Sys2Proof.Machine

/-! ### Sources (R451 to R453) -/

/-- The highest bit set of a 16-bit mask. -/
def highBit (v n : Nat) : Nat :=
  match n with
  | 0 => 0
  | k + 1 => if v.testBit k then k else highBit v k

/-- Is source `c` pending on hewer `h` (R451, R452)? -/
def State.srcPending (s : State) (h c : Nat) : Bool :=
  match c with
  | 1 => s.flag (F.HWR_PTC_PEND.LVL h)
  | 2 => s.flag (F.HWR_IHI_PEND.LVL h)
  | 3 => s.flag (F.CAN_HWR_STAT.PREWARN h)
  | 4 => s.reg Adr.ADT_MBX_PEND != 0
  | 5 => s.reg Adr.FLT_NOTIFY != 0
  | 6 => s.fld (F.TLY_HWR_STAT.OVF h) &&& s.fld (F.TLY_HWR_STAT.OVIE h) != 0
      || (s.flag (F.TLY_HWR_STAT.WM h) && s.flag (F.TLY_HWR_STAT.WMIE h))
  | 7 => (s.flag (F.DBG_HWR_VT_STAT.RXIE h) && s.flag (F.DBG_HWR_VT_STAT.RX_FULL h))
      || (s.flag (F.DBG_HWR_VT_STAT.TXIE h) && !(s.flag (F.DBG_HWR_VT_STAT.TX_FULL h)))
  | _ => false

/-- The level of source `c` on hewer `h` (R451, R452). -/
def State.srcLevel (s : State) (h c : Nat) : Nat :=
  match c with
  | 1 => highBit (s.fld (F.HWR_PTC_PEND.LVL h)) 16
  | 2 => highBit (s.fld (F.HWR_IHI_PEND.LVL h)) 16
  | 3 => s.fld (F.HWR_ILVL.CPW h)
  | 4 => s.fld (F.HWR_ILVL.ADT h)
  | 5 => s.fld (F.HWR_ILVL.FLT h)
  | 6 => s.fld (F.HWR_ILVL.TLY h)
  | _ => s.fld (F.HWR_ILVL.VT h)

/-- Is source `c` routed to M (HWR_IENA.ROUTE)? -/
def State.srcToM (s : State) (h c : Nat) : Bool := (s.fld (F.HWR_IENA.ROUTE h)).testBit (c - 1)

/-- Is source `c` eligible on hewer `h` (R453)? -/
def State.srcEligible (s : State) (h c : Nat) : Bool :=
  let x := s.hew h
  s.srcPending h c && (s.fld (F.HWR_IENA.EN h)).testBit (c - 1) && !x.halted && !x.checkStopped
  && (if s.srcToM h c then x.pl != 3 || decide (x.ilvl < s.srcLevel h c) else x.pl != 3 && decide (x.ilvl < s.srcLevel h c))

/-- Does the hewer take source `a` before `b` (R453)? -/
def State.srcBefore (s : State) (h a b : Nat) : Bool :=
  let la := s.srcLevel h a
  let lb := s.srcLevel h b
  decide (lb < la) || (la = lb && ((s.srcToM h a && !(s.srcToM h b)) || (s.srcToM h a = s.srcToM h b && decide (a < b))))

/-- The first of the eligible sources 1 to `n`. -/
def State.srcFirst (s : State) (h n : Nat) : Option Nat :=
  match n with
  | 0 => none
  | k + 1 =>
    match s.srcFirst h k with
    | none => if s.srcEligible h (k + 1) then some (k + 1) else none
    | some c => if s.srcEligible h (k + 1) && s.srcBefore h (k + 1) c then some (k + 1) else some c

/-- Is an event due that comes before interrupts at the boundary (R442, R737)? -/
def State.earlierDue (s : State) (h : Nat) : Bool :=
  let x := s.hew h
  x.mcheck || x.forced || (x.body.isSome && x.bodyBit && x.budget = 0) || x.haltReq.isSome

/-- The level of task arrival at hewer `h`: that of the head of its local queue. -/
def State.headLevel (s : State) (h : Nat) : Option Nat :=
  match s.localQ h with
  | [] => none
  | i :: _ => (s.actOf i).map (fun e => s.arrivalLevel e.2.desc.pclass)

/-- Does task arrival wait at the boundary (R193, R442)? -/
def State.arrivalDue (s : State) (h : Nat) : Bool :=
  match s.headLevel h with
  | none => false
  | some level => s.hewerServes h && s.takesArrival h level

/-- Does the fault block wait for the boundary to move the hewer to the spare twin, or to remove it (R693, R695)? -/
def State.swapDue (s : State) (h : Nat) : Bool := (s.hew h).removeDue || (s.hew h).substitute.isSome

/-- Is an asynchronous event due, so that the hewer takes it before the next instruction (R442, R443)? None is taken inside a transfer
unit, nor while a long operation waits for host data (R285, R293, R444). -/
def State.asyncDue (s : State) (h : Nat) : Bool :=
  s.atBoundary h && (s.swapDue h || s.earlierDue h || (s.srcFirst h 7).isSome || s.arrivalDue h)

/-- Can hewer `h` make an IO access now, which waits for every older instruction and for its stores (R255, R443)? -/
def State.executesIo (s : State) (h : Nat) : Bool :=
  s.canRun h && !(s.asyncDue h) && !(s.hew h).waitsHost && (s.hew h).hostBuf.isEmpty && (s.twin (s.twinOf h)).sbuf.isEmpty

end Sys2Proof.Machine
end

