-- ==== Sys2Proof/Machine/HostPort.lean ====
section
/-!
DEFINITION. The way out to host memory (R618 to R624): the segment tables, the requests that the endpoint sends, and the
requests that complete locally.
-/
namespace Sys2Proof.Machine

/-- Is a request of function `f` through host-window offset `o` kept from being sent (R622)? -/
def State.hostBlocked (s : State) (f o : Nat) : Bool :=
  let x := s.fn f
  !(s.flag (F.HEP_OSEG.V f (o / 2 ^ 30))) || !x.busMaster || x.power != 0 || s.frozen f || x.resetting
    || s.adt.waiting.get 0 f != 0 || !(s.domainOn 5)

/-- The host address of host-window offset `o` for function `f` (R619). -/
def State.hostAddr (s : State) (f o : Nat) : Nat :=
  s.fld (F.HEP_OSEG.HBASE f (o / 2 ^ 30)) * 4096 + o % 2 ^ 30

/-- Offset of a physical address in the host-memory window. -/
def hostOffset (pa : Nat) : Nat := pa - 0xF10000000000

/-- One outbound request completed locally is counted (R622). -/
def State.outDrop (s : State) : State := s.count F.HEP_COUNTS.OUT_DROP 1

/-- The lowest tag from `t` on that no request in flight uses, of `n` (R607). -/
def State.freeTag (s : State) (n t : Nat) : Nat :=
  match n with
  | 0 => t
  | k + 1 => if s.hep.reqs.any (fun r => r.tag = t) then s.freeTag k ((t + 1) % 1024) else t

/-- Send a read request of `len` bytes at host-window offset `o`; answers its tag, or none when it must wait for a free
request of the 256 (R607). The caller has checked R622. -/
def State.hostRead (s : State) (f who unit gen o len : Nat) : State × Option Nat :=
  if 256 ≤ s.hep.reqs.length then (s, none)
  else
    let t := s.freeTag 1024 s.hep.nextTag
    let req : OutReq := ⟨t, f, gen, who, unit, s.hostAddr f o, len, s.flag (F.HEP_OSEG.CRIT f (o / 2 ^ 30))⟩
    (({ s with hep := { s.hep with reqs := s.hep.reqs ++ [req], nextTag := (t + 1) % 1024 } }).emit
      (.hostRead f t (s.hostAddr f o) len), some t)

/-- A write of function `f` to host-window offset `o`: sent, or discarded and counted (R622, R623, R626). -/
def State.hostWrite (s : State) (f o : Nat) (data : List Byte) (ep : Bool) : State :=
  if s.hostBlocked f o then s.outDrop else s.emit (.hostWrite f (s.hostAddr f o) data ep)

end Sys2Proof.Machine
end

