-- ==== Sys2Proof/Machine/Execute.lean ====
section
/-!
DEFINITION. The frame of every instruction of a hewer (R290 to R299, R441): fetch, comparators, decode causes, poisoned
sources, and how the instruction completes, raises its exception or waits. Instruction sampling (R800 to R803) hangs here.
-/
namespace Sys2Proof.Machine

/-- What the frame must know of an instruction before it executes. -/
structure Pre where
  /-- the instruction word -/
  word : Nat
  /-- general and vector registers that it reads -/
  srcW : List Nat
  srcV : List Nat
  /-- general and vector registers that it writes -/
  dstW : List Nat
  dstV : List Nat
  /-- the decode cause that applies (R273, R316, R378): exception 0x01 or 0x02 -/
  bad : Option Nat
  /-- effective data address, 0 for none -/
  ea : Nat
deriving DecidableEq, Repr

/-- How the execution of an instruction's own effect ends. -/
inductive Step where
  /-- the effect is done and the instruction completes; `items` are what the comparators judge after it (R783) -/
  | ok (s : State) (items : List CmpItem)
  /-- the effect is done and it has placed the program counter itself -/
  | jumped (s : State)
  /-- the effect is an entry or the end of a body, which has settled the hewer's flow by itself -/
  | entered (s : State)
  /-- the instruction raises an exception; `s` holds side records (TLBs, counts) only -/
  | exc (s : State) (e : Exc)
  /-- a halt or a wait keeps the instruction from completing now; `s` holds what it has asked for -/
  | held (s : State)

/-- How the frame before the execution ends. -/
inductive Issue where
  | go (s : State)
  | stop (s : State)

/-! ### Sampling (R800 to R805) -/

/-- Do SCTL.EN, PLM and BODY select the hewer's present context (R800)? -/
def State.sampling (s : State) (h : Nat) : Bool :=
  let x := s.hew h
  let plBit := if x.pl = 0 then 0 else if x.pl = 1 then 1 else 2
  let b := s.fld (F.TLY_HWR_SCTL.BODY h)
  s.flag (F.TLY_HWR_SCTL.EN h) && (s.fld (F.TLY_HWR_SCTL.PLM h)).testBit plBit
  && (b = 0 || (b = 1 && x.bodyBit) || (b = 2 && !x.bodyBit))

/-- CYCLE of hewer `h` (R267). -/
def State.cycleOf (s : State) (h : Nat) : Nat :=
  let x := s.hew h
  match x.cycHold with
  | some n => n
  | none => (s.pwr.cclk.get 0 (h / 64) / 120 - x.cycOff) % 2 ^ 64

/-- The flags [7:0] of a sampling record from the events that the instruction met (R802). -/
def sampleFlags (ev : Nat) : Nat :=
  b2n (ev.testBit 0x012) * 128 + b2n (ev.testBit 0x013) * 64 + b2n (ev.testBit 0x005) * 32 + b2n (ev.testBit 0x007) * 16
  + b2n (ev.testBit 0x00E) * 8 + b2n (ev.testBit 0x00D) * 4 + b2n (ev.testBit 0x00B) * 2 + b2n (ev.testBit 0x00A)

/-- The 64 bytes of a sampling record (R802): the latencies are free values, that of memory 0 where nothing is loaded. -/
def State.sampleRecord (s : State) (x : Hewer) (h : Nat) (p : Pre) (exc : Option Nat) : List Byte :=
  let f := Config.freeBits s.freeCtr
  let seq := s.fld (F.TLY_HWR_SPTR.HEAD h) + 1
  let lat := if p.ea = 0 || (p.dstW ++ p.dstV).isEmpty then f % 2 ^ 32 * 2 ^ 32 else f % 2 ^ 48 * 2 ^ 16
  let flags := sampleFlags (s.twin (s.twinOf h)).tagEv + (match exc with | some c => 256 + c * 2 ^ 16 | none => 0) + b2n x.smpLost * 512
  bytesLE 8 s.time.now ++ bytesLE 8 x.pc.toNat
  ++ bytesLE 8 (x.asid.toNat % 65536 * 2 ^ 48 + x.taskid.toNat % 65536 * 2 ^ 32 + h * 2 ^ 23 + x.pl * 2 ^ 21
      + b2n x.bodyBit * 2 ^ 20 + b2n x.banked * 2 ^ 19 + seq % 65536)
  ++ bytesLE 8 p.ea ++ bytesLE 8 lat ++ bytesLE 8 (p.word * 2 ^ 32 + flags)
  ++ bytesLE 8 (s.cycleOf h) ++ bytesLE 8 0

/-- Write a sampling record, or drop it (R803). -/
def State.writeSample (s : State) (x : Hewer) (h : Nat) (p : Pre) (exc : Option Nat) : State :=
  let size := 2 ^ s.fld (F.TLY_HWR_SCTL.SIZE h)
  let head := s.fld (F.TLY_HWR_SPTR.HEAD h)
  let tail := s.fld (F.TLY_HWR_SPTR.TAIL h)
  let at_ := s.fld (F.TLY_HWR_SBASE.BASE h) * 4096 + head % size * 64
  if (head + 65536 - tail) % 65536 = size || !(s.dramReach at_ 64) then
    (s.count (F.TLY_HWR_SPTR.DROPPED h) 1).modHew h (fun y => { y with smpLost := true })
  else
    let d := (s.dmaWriteBy h at_ (s.sampleRecord x h p exc)).draw.2
    let s1 := (d.setFld (F.TLY_HWR_SPTR.HEAD h) ((head + 1) % 65536)).modHew h (fun y => { y with smpLost := false })
    if (head + 1 + 65536 - tail) % 65536 = s.fld (F.TLY_HWR_SCTL.WATERMARK h) then s1.raise (F.TLY_HWR_STAT.WM h) else s1

/-- A new countdown: PERIOD plus a pseudo-random part below 2^RAND, which is a free value (R800). -/
def State.reloadSample (s : State) (h : Nat) : State :=
  let d := s.draw
  d.2.modHew h (fun y => { y with smpDown := s.fld (F.TLY_HWR_SCTL.PERIOD h) + d.1 % 2 ^ s.fld (F.TLY_HWR_SCTL.RAND h) })

/-- Sampling at the end of an instruction that began in state `s0`: a tagged instruction gives its record, and a committed
one counts down (R800, R801). -/
def State.sampled (s s0 : State) (h : Nat) (p : Pre) (exc : Option Nat) : State :=
  if !(s0.flag (F.TLY_HWR_SCTL.EN h)) then s
  else
    let x := s0.hew h
    let r := if x.smpTag && s0.sampling h then (s.writeSample x h p exc).modHew h (fun y => { y with smpTag := false }) else s
    let s1 := r.modTwin (r.twinOf h) (fun t => { t with tagEv := 0 })
    if exc.isSome then s1
    else if x.smpDown ≤ 1 then (s1.modHew h (fun y => { y with smpTag := true })).reloadSample h
    else s1.modHew h (fun y => { y with smpDown := x.smpDown - 1 })

/-! ### Completing -/

/-- A halt between iterations leaves the hewer at the `rep`, which repeats what is left when it runs again (R296, R298). -/
def Hewer.backToRep (x : Hewer) : Hewer :=
  match x.rep with
  | some a => { x with pc := a, rep := none }
  | none => x

/-- The end of a step: the hewer halts again at the boundary (R305, R776). -/
def State.stepEnd (s : State) (h : Nat) : State :=
  let x := s.hew h
  if x.stepping && x.unit.isNone then
    (s.modHew h (fun y => { y.backToRep with stepping := false, exempt := true, resv := none })).setFld (F.DBG_HWR_RSTAT.CAUSE h) 4
  else s

/-- Book-keeping when an instruction completes: distances pass, the vector window and the exemption end. -/
def Hewer.passed (x : Hewer) : Hewer := { x.ctlPass.endWindow with exempt := false, hostBuf := [], micro := none, rom := 0 }

/-- Another free value stands behind the control state that the next instruction sees (R327, log 7). -/
def State.passChoice (s : State) (h : Nat) : State :=
  if (s.hew h).ctl.isEmpty then s
  else { s.modHew h (fun x => { x with ctlKey := s.freeCtr }) with freeCtr := s.freeCtr + 1 }

/-- The class of an access of hewer `h` (R487): that of the running task, else 0. -/
def State.classOf (s : State) (h : Nat) : Nat :=
  let x := s.hew h
  if !x.bodyBit then 0
  else match x.body.bind s.actOf with
    | some (_, a) => a.desc.tclass
    | none => 0

/-- Write the return address of a unit at its place on the return stack (R243, R343). -/
def State.pushReturn (s : State) (h : Nat) (u : TransferUnit) (pa : Nat) : State :=
  let d := bytesLE 8 (u.addr + 8).toNat
  if s.areaOf pa = 3 then s.hostWrite 0 (hostOffset pa) d false else s.sbPut h ⟨pa, d, u.ca, s.classOf h, u.via⟩

/-- An instruction that is neither a transfer nor an entry completes: the program counter moves on, through the delay slot's
unit or the `rep` in force (R290, R296). The return-stack access of the unit happens here (R292). -/
def State.retire (s : State) (h : Nat) : State :=
  let s0 := s.passChoice h
  let x := (s0.hew h).passed
  match x.unit with
  | some u =>
    let s1 := s0.setHew h { x with unit := none, pc := u.next }
    match u.push with
    | some pa => s1.pushReturn h u pa.toNat
    | none => s1
  | none =>
    match x.rep with
    | some a =>
      let n := x.cnt.toNat % 2 ^ 32 - 1
      let x1 := { x with cnt := BitVec.ofNat 64 (setBits x.cnt.toNat 31 0 n) }
      s0.setHew h (if n = 0 then { x1 with rep := none, pc := a + 8 } else { x1 with ctl := (s0.hew h).ctl })
    | none => s0.setHew h { x with pc := x.pc + 4 }

/-- Give up a transfer unit: RSP is as it was before the transfer (R292). -/
def Hewer.undoUnit (x : Hewer) : Hewer :=
  match x.unit with
  | some u => { x with rsp := u.rsp }
  | none => x

/-- An instruction raises an exception: it has no effect, nor has the transfer in whose slot it stands (R292, R446). -/
def State.raiseExc (s : State) (h : Nat) (e : Exc) : State :=
  let x := s.hew h
  ((s.tally h 0x014).modHew h (fun y => { y.undoUnit with hostBuf := [], micro := none })).takeExc h e.code x.excPc e.eval

/-- Comparator events that are decided after completion: exception 0x12 or a halt at the next boundary (R786). -/
def State.cmpPost (s s0 : State) (h : Nat) (items : List CmpItem) : State :=
  if items.isEmpty || (s0.hew h).exempt then s
  else
    let e := s.cmpEffects h items
    let s1 := s.modHew h (fun x => { x with armed := e.2 })
    let r := s1.cmpAct h e.1 true
    match r.2 with
    | .exception v => r.1.raiseExc h (mkExc 0x12 v)
    | _ => r.1

/-- Finish an instruction from how its effect ended; `s0` is the state in which it began. -/
def State.finish (s0 : State) (h : Nat) (p : Pre) (r : Step) : State :=
  match r with
  | .ok s items => ((((s.retire h).tally h 0x002).sampled s0 h p none).cmpPost s0 h items).stepEnd h
  | .jumped s =>
    (((s.passChoice h).modHew h Hewer.passed).tally h 0x002).sampled s0 h p none |>.stepEnd h
  | .entered s => ((s.tally h 0x002).sampled s0 h p none).stepEnd h
  | .exc s e => ((s.raiseExc h e).sampled s0 h p (some e.code)).stepEnd h
  | .held s => s

/-! ### Before execution (R441) -/

/-- Judge the comparators on what an instruction shows before it has any effect (R784 to R786). -/
def State.cmpPoint (s : State) (h : Nat) (items : List CmpItem) : State × CmpStop :=
  if (s.hew h).exempt then (s, .goOn)
  else
    let e := s.cmpEffects h items
    (s.modHew h (fun x => { x with armed := e.2 })).cmpAct h e.1 false

/-- The address that comparators see (R783): physical while BANKED is 1. -/
def State.cmpAddr (s : State) (h : Nat) (fetch : Bool) (ea : Nat) : Nat :=
  if (s.hew h).banked then
    let b := (s.ctlSeen h .bank).toNat
    (if fetch then bitsOf b 59 32 else bitsOf b 27 0) * 2 ^ 20 + ea % 2 ^ 20
  else ea

/-- What the fetch shows. -/
def State.fetchItem (s : State) (h : Nat) : CmpItem :=
  let a := s.cmpAddr h true (s.hew h).pc.toNat
  ⟨[0], a, a + 3⟩

/-- The fetch of the instruction at `va`: translated, and read from L1 I (R371, R472). -/
def State.fetchAt (s : State) (h va : Nat) : TrRes :=
  let f := s.translate h .fetch va 4 true
  match f.r with
  | .error e => ⟨f.s, .error e⟩
  | .ok l => ⟨match l.place with
    | .phys a => f.s.l1iUse h a (f.s.attr l) (f.s.classOf h) false
    | _ => f.s, .ok l⟩

/-- Outstanding loads that an instruction waits for return first: those whose destination it touches, and all of them for a long
operation (R339, R341, R346). None where one of them still waits for the host. -/
def Hewer.settle (x : Hewer) (p : Pre) (long : Bool) : Option Hewer :=
  let hit := fun (m : MissedLoad) =>
    long || (if m.vec then (p.srcV ++ p.dstV).contains m.rd else m.rd != 0 && (p.srcW ++ p.dstW).contains m.rd)
  let now := x.missed.filter hit
  if now.any (fun m => m.tag.isSome) then none
  else some { now.foldl Hewer.landLoad x with missed := x.missed.filter (fun m => !(hit m)) }

/-- Does the first instruction of a handler wait for loads that are still outstanding (R374)? -/
def Hewer.entryWaits (x : Hewer) : Bool := (x.winS || x.winM) && x.waitsHost

/-- The first poisoned source register, as EVAL gives it (R344). -/
def Hewer.poisonedSource (x : Hewer) (p : Pre) : Option Nat :=
  match p.srcW.find? x.wPoison.contains with
  | some r => some r
  | none => (p.srcV.find? x.vPoison.contains).map (fun r => r + 32)

/-- The frame before execution: an event that is due comes first (R443), then the first cause of R441 that applies, or go on. -/
def State.issue (s : State) (h : Nat) (p : Pre) (long : Bool) : Issue :=
  if !(s.canRun h) || s.asyncDue h || (s.hew h).entryWaits then .stop s
  else
    match (s.hew h).settle p long with
    | none => .stop s
    | some x =>
      let stop := fun (t : State) (e : Exc) => Issue.stop (t.finish h p (.exc t e))
      let f := (s.setHew h x).fetchAt h x.pc.toNat
      match f.r with
      | .error e => stop f.s e
      | .ok _ =>
        let c := f.s.cmpPoint h [f.s.fetchItem h]
        match c.2 with
        | .exception v => stop c.1 (mkExc 0x12 v)
        | .halt => .stop c.1
        | .goOn =>
          match p.bad with
          | some code => stop c.1 (mkExc code p.word)
          | none =>
            match x.poisonedSource p with
            | some r => stop c.1 (mkExc 0x0D r)
            | none => .go (if long then c.1.noteEvent h 0x005 else c.1)

/-- Run one instruction: its frame, its effect, its completion. -/
def State.runAs (s : State) (h : Nat) (p : Pre) (long : Bool) (body : State → Step) : State :=
  match s.issue h p long with
  | .stop t => t
  | .go t => t.finish h p (body t)

/-- Run an instruction that is no long operation. -/
def State.run (s : State) (h : Nat) (p : Pre) (body : State → Step) : State := s.runAs h p false body

/-- Run a long operation: it completes every older instruction (R346). -/
def State.runLong (s : State) (h : Nat) (p : Pre) (body : State → Step) : State := s.runAs h p true body

/-- The instruction stands in a delay slot or is repeated by `rep`. -/
def Hewer.inUnit (x : Hewer) : Bool := x.unit.isSome || x.rep.isSome

end Sys2Proof.Machine
end

