-- ==== Sys2Proof/Machine/Operands.lean ====
section
/-!
DEFINITION. Memory operands (R279 to R288, R342 to R344, R389): what each place answers to a load and takes from a store,
the order of checks and effects of a load and of a store, and the effective addresses.
-/
namespace Sys2Proof.Machine

/-- What a place answers to a load. -/
inductive Got where
  /-- its bytes, whether they carry the poison mark, and whether they come from beyond L1 D and the store buffer -/
  | data (bytes : List Byte) (poison late : Bool)
  /-- nothing yet: the lode initialises, or the host has not answered -/
  | wait
deriving DecidableEq, Repr

/-- Bytes of a window's contents; what lies beyond them is a free value, for the spec fills no more. -/
def State.windowRead (s : State) (l : List Byte) (off n : Nat) : List Byte × State :=
  let have_ := sliceBytes l off n
  let f := s.freeBytes (n - have_.length)
  (have_ ++ f.1, if have_.length = n then s else f.2)

/-- The activation whose body is active on hewer `h`. -/
def State.bodyAct (s : State) (h : Nat) : Option (Nat × Activation) := (s.hew h).body.bind s.actOf

/-- Do bytes `off` to `off + n - 1` of a state block touch a poisoned unit (R155)? -/
def touchesMark (marks : List Nat) (off n : Nat) : Bool :=
  marks.any (fun u => decide (off < u * 32 + 32) && decide (u * 32 < off + n))

/-- Ask for host bytes that the instruction must have to complete, once (R620 to R623). -/
def State.hostPart (s : State) (h pa n : Nat) (via : Option TlbEntry) : State × Got :=
  match (s.hew h).hostBuf.find? (fun e => e.pa = pa && e.len = n) with
  | some e => (s, match e.data with | some d => .data d.1 d.2 false | none => .wait)
  | none =>
    let o := hostOffset pa
    if s.hostBlocked 0 o then
      let f := s.outDrop.freeBytes n
      (f.2.modHew h (fun x => { x with hostBuf := x.hostBuf ++ [⟨pa, n, none, some (f.1, true), via⟩] }), .data f.1 true false)
    else
      let r := s.hostRead 0 h 0 0 o n
      match r.2 with
      | none => (s, .wait)
      | some t => (r.1.modHew h (fun x => { x with hostBuf := x.hostBuf ++ [⟨pa, n, some t, none, via⟩] }), .wait)

/-- A load of DRAM or of the boot ROM within one line: from the latest store that it overlaps, else through the caches (R343, R472).
Answers its bytes, whether they are poisoned, and whether they come from beyond L1 D. -/
def State.cachedLoad (s : State) (h pa n ca : Nat) : State × Got :=
  let b := s.sbSearch h pa n
  match b.2 with
  | some d => (b.1, .data d false false)
  | none =>
    let c := b.1.dataLine h (pa / 64) ca (b.1.classOf h) false
    let d := if s.areaOf pa = 1 then b.1.readBytes pa n
      else (List.range n).map (fun i => Config.bootRom (pa - 0xF20000000000 + i))
    (c.1, .data d (s.areaOf pa = 1 && b.1.poisoned pa n) c.2)

/-- A load's bytes from one piece (R118, R156, R342, R344). -/
def State.loadPiece (s : State) (h : Nat) (p : Piece) : State × Got :=
  let n := p.len
  match p.place with
  | .packet off =>
    match s.bodyAct h with
    | none => (s, .wait)
    | some (_, a) =>
      let r := s.windowRead a.packet off n
      let base := a.desc.packetState
      (r.2.tally h 0x012,
        .data r.1 (decide (base < off + n) && touchesMark a.packetPoison (off - base) (off + n - base - (off - base))) true)
  | .result off =>
    match s.bodyAct h with
    | none => (s, .wait)
    | some (_, a) =>
      let r := s.windowRead a.result off n
      (r.2.tally h 0x012, .data r.1 (touchesMark a.resultPoison off n) true)
  | .phys pa =>
    match s.areaOf pa with
    | 2 =>
      if !(s.flag F.LOD_STATUS.INIT_DONE) then (s, .wait)
      else
        let off := pa - 0xF00000000000
        (s, .data (sliceBytes (s.windowBytes (off / 64)) (off % 64) n) false true)
    | 3 => s.hostPart h pa n p.via
    | _ => s.cachedLoad h pa n p.ca

/-- A store's bytes to one piece: marks of the result window clear unit by unit (R155), a store to DRAM goes to the store buffer
(R343). -/
def State.storePiece (s : State) (h : Nat) (p : Piece) (d : List Byte) : State :=
  match p.place with
  | .packet _ => s
  | .result off =>
    match s.bodyAct h with
    | none => s
    | some (i, _) =>
      (s.tally h 0x012).modAct i (fun a =>
        let stored := (List.range d.length).foldl (fun l k => insertNat l (off + k)) a.storedBytes
        let done := fun (u : Nat) => (List.range 32).all (fun k => stored.contains (u * 32 + k))
        { a with
          result := (pokeBytes a.result off d).take a.result.length
          storedBytes := if a.resultPoison.isEmpty then [] else stored
          resultPoison := a.resultPoison.filter (fun u => !(done u)) })
  | .phys pa =>
    if s.areaOf pa = 3 then s.hostWrite 0 (hostOffset pa) d false else s.sbPut h ⟨pa, d, p.ca, s.classOf h, p.via⟩

/-- The bytes of every piece of an access, lowest first: none while a piece is waited for. -/
def State.loadPieces (s : State) (h : Nat) (l : List Piece) : State × Got :=
  match l with
  | [] => (s, .data [] false false)
  | p :: rest =>
    let a := s.loadPiece h p
    let b := a.1.loadPieces h rest
    match a.2, b.2 with
    | .data x p l, .data y q m => (b.1, .data (x ++ y) (p || q) (l || m))
    | _, _ => (b.1, .wait)

/-- Store to every piece of an access, lowest first. -/
def State.storePieces (s : State) (h : Nat) (l : List Piece) (d : List Byte) : State :=
  match l with
  | [] => s
  | p :: rest => (s.storePiece h p (d.take p.len)).storePieces h rest (d.drop p.len)

/-- The items that a data access shows the comparators (R783): its kinds, its bytes and the fetch. -/
def State.dataItems (s : State) (h : Nat) (kinds : List Nat) (ea n : Nat) : List CmpItem :=
  let a := s.cmpAddr h false ea
  [s.fetchItem h, ⟨kinds, a, a + n - 1⟩]

/-- The item of a value. -/
def valueItem (kind v : Nat) : CmpItem := ⟨[kind], v, v⟩

/-- An instruction that waits for the host is stopped before it has any effect (R786): it begins again. -/
def Hewer.abandon (x : Hewer) : Hewer := { x with hostBuf := [], micro := none }

/-- Translate an access, judge the comparators, go on with its pieces (R284, R417, R441). -/
def State.withAccess (s : State) (h : Nat) (k : AccKind) (ea n : Nat) (items : List CmpItem)
    (f : State → List Piece → Step) : Step :=
  let a := s.access h k ea n
  match a.r with
  | .error e => .exc a.s e
  | .ok l =>
    let c := a.s.cmpPoint h items
    match c.2 with
    | .exception v => .exc c.1 (mkExc 0x12 v)
    | .halt => .held (c.1.modHew h Hewer.abandon)
    | .goOn => f c.1 l

/-- EVAL of a poisoned memory read (R437). -/
def poisonEval (ea : Nat) : Nat := 2 ^ 63 + ea % 2 ^ 48

/-- Read memory that the instruction needs before it can complete: poison raises 0x0D (R287, R389, R244). -/
def State.readNow (s : State) (h : Nat) (l : List Piece) (ea : Nat) (f : State → List Byte → Step) : Step :=
  let g := s.loadPieces h l
  match g.2 with
  | .wait => .held g.1
  | .data _ true _ => .exc g.1 (mkExc 0x0D (poisonEval ea))
  | .data b false _ => f g.1 b

/-! ### Loads and stores (R279 to R287) -/

/-- Bytes of a load. -/
def loadSize (k : LoadKind) : Nat :=
  match k with
  | .b => 1 | .h => 2 | .w => 4 | .d => 8 | .bs => 1 | .hs => 2 | .ws => 4 | .q => 16

/-- The value that a load writes: zero- or sign-extended (R280). -/
def loadValue (k : LoadKind) (v : Nat) : Nat :=
  match k with
  | .bs => codeOf 64 (signedOf 8 v)
  | .hs => codeOf 64 (signedOf 16 v)
  | .ws => codeOf 64 (signedOf 32 v)
  | _ => v

/-- Is the destination a vector register? -/
def loadVec (k : LoadKind) : Bool := k = .q

/-- Bytes of a store. -/
def storeSize (k : StoreKind) : Nat :=
  match k with
  | .b => 1 | .h => 2 | .w => 4 | .d => 8 | .q => 16

/-- Put a load that is complete into its register (R344: an unsplit load leaves the poison mark). -/
def Hewer.loaded (x : Hewer) (vec : Bool) (rd v : Nat) (poison : Bool) : Hewer := x.landLoad ⟨rd, vec, v, poison, none, false, none⟩

/-- The base update of UP = 1 (R279). -/
def Hewer.baseUpdate (x : Hewer) (up : Bool) (ra : Nat) (v : Word) : Hewer := if up then x.setW ra v else x

/-- Make room for one more outstanding load of a sort, of which `limit` may be outstanding: the oldest of them that waits for no host
request returns first. None where all of them wait for the host, for the load then waits (R341, R342). -/
def Hewer.missRoom (x : Hewer) (port : Bool) (limit : Nat) : Option Hewer :=
  if (x.missed.filter (fun m => m.port = port)).length < limit then some x
  else match x.missed.find? (fun m => m.port = port && m.tag.isNone) with
    | none => none
    | some m => some { x.landLoad m with missed := x.missed.erase m }

/-- Note an outstanding load (R341, R342): 8 L1 D misses and 16 window accesses at most. -/
def Hewer.addMiss (x : Hewer) (m : MissedLoad) : Option Hewer :=
  (x.missRoom m.port (if m.port then 16 else 8)).map (fun y => { y with missed := y.missed ++ [m] })

/-- Does an unsplit access lie in the host-memory window? -/
def State.hostPiece (s : State) (l : List Piece) : Option (Nat × Option TlbEntry) :=
  match l with
  | [⟨.phys pa, _, _, via⟩] => if s.areaOf pa = 3 then some (pa, via) else none
  | _ => none

/-- What the stride prefetcher makes of an unsplit load that came from beyond L1 D: it notes accesses of CA 0 to DRAM only, so no SE
memory and no window (R121, R342, R370, R422). -/
def State.noteMiss (s : State) (h ea : Nat) (l : List Piece) : State :=
  match l with
  | [⟨.phys pa, _, 0, _⟩] => if s.areaOf pa = 1 then s.missNoted h ea pa (s.classOf h) else s
  | _ => s

/-- A load of a window: its place and the port that serves it. -/
def Piece.window (p : Piece) : Bool := match p.place with | .phys _ => false | _ => true

/-- Is there room for one more outstanding load of these pieces? -/
def State.roomFor (s : State) (h : Nat) (l : List Piece) (upd : Hewer → Hewer) : Option Hewer :=
  let port := l.any Piece.window
  (upd (s.hew h)).missRoom port (if port then 16 else 8)

/-- The end of an unsplit load whose value is known: `late` leaves it outstanding, and it returns at LOAD_RETURN or before an
instruction that touches its destination (R339, R341). -/
def State.loadEnds (s : State) (h : Nat) (l : List Piece) (m : MissedLoad) (upd : Hewer → Hewer) (late : Bool)
    (items : List CmpItem) : Step :=
  if !late then .ok (s.modHew h (fun x => (upd x).landLoad m)) items
  else match (upd (s.hew h)).addMiss { m with port := l.any Piece.window, via := (l.head?.map Piece.via).getD none } with
    | none => .held s
    | some x => .ok (s.setHew h x) items

/-- A load of kind `k` at `ea` into `rd`; `upd` is the hewer's change when the load completes (the base update); `miss` says that one
which comes from beyond L1 D completes out of order (R341). A split load is a long operation (R347). -/
def State.loadStep (s : State) (h : Nat) (k : LoadKind) (rd ea : Nat) (upd : Hewer → Hewer) (miss : Bool) : Step :=
  let n := loadSize k
  let items := s.dataItems h [1, 3] ea n
  s.withAccess h .load ea n items (fun s l =>
    match s.hostPiece l with
    | some (pa, via) =>
      let o := hostOffset pa
      if s.hostBlocked 0 o then
        let f := s.outDrop.freeBytes n
        .ok (f.2.modHew h (fun x => (upd x).loaded (loadVec k) rd (loadValue k (natLE f.1)) true)) items
      else match (upd (s.hew h)).missRoom false 8 with
        | none => .held s
        | some x =>
          let r := s.hostRead 0 h 0 0 o n
          match r.2 with
          | none => .held s
          | some t => .ok (r.1.setHew h { x with missed := x.missed ++ [⟨rd, loadVec k, codeOfKind k, false, some t, false, via⟩] }) items
    | none =>
      if l.length = 2 && (s.hew h).waitsHost then .held s
      else if miss && (s.roomFor h l upd).isNone then .held s
      else
        let g := (if l.length = 2 then (s.noteEvent h 0x005).modHew h Hewer.landAll else s).loadPieces h l
        match g.2 with
        | .wait => .held g.1
        | .data b p far =>
          let v := loadValue k (natLE b)
          let items2 := items ++ [valueItem 4 (v % 2 ^ 64)]
          if l.length = 2 then
            if p then .exc g.1 (mkExc 0x0D (poisonEval ea))
            else .ok (g.1.modHew h (fun x => (upd x).loaded (loadVec k) rd v false)) items2
          else
            (if far then g.1.noteMiss h ea l else g.1).loadEnds h l ⟨rd, loadVec k, v, p, none, false, none⟩ upd (far && miss) items2)
where
  /-- The kind of a load whose data is still to come, kept in the place of its data. -/
  codeOfKind (k : LoadKind) : Nat :=
    match k with
    | .b => 0 | .h => 1 | .w => 2 | .d => 3 | .bs => 4 | .hs => 5 | .ws => 6 | .q => 7

/-- The kind that `codeOfKind` stands for. -/
def kindOfCode (n : Nat) : LoadKind :=
  match n with
  | 0 => .b | 1 => .h | 2 => .w | 3 => .d | 4 => .bs | 5 => .hs | 6 => .ws | _ => .q

/-- A store of bytes `d` at `ea` (R280, R284). A split store is a long operation (R347). -/
def State.storeStep (s : State) (h : Nat) (ea : Nat) (d : List Byte) (upd : Hewer → Hewer) : Step :=
  let items := s.dataItems h [2, 3] ea d.length ++ [valueItem 5 (natLE d % 2 ^ 64)]
  s.withAccess h .store ea d.length items (fun s l =>
    if l.length = 2 && (s.hew h).waitsHost then .held s
    else .ok (((if l.length = 2 then (s.noteEvent h 0x005).modHew h Hewer.landAll else s).storePieces h l d).modHew h upd) items)

/-- The bytes that a store takes from register `r` (R280). -/
def Hewer.storeBytes (x : Hewer) (k : StoreKind) (r : Nat) : List Byte :=
  if k = .q then bytesLE 16 (x.getV r).toNat else bytesLE (storeSize k) (x.getW r).toNat

end Sys2Proof.Machine
end

