-- ==== Sys2Proof/Machine/Integer.lean ====
section
/-!
DEFINITION. The integer instructions (R238, R275 to R278).
-/
namespace Sys2Proof.Machine

/-- What the frame knows of an instruction on general registers only. -/
def preW (word : Nat) (src dst : List Nat) : Pre := ⟨word, src, [], dst, [], none, 0⟩

/-- A result and its flags are written to the hewer (R238). -/
def State.aluStep (s : State) (h rd : Nat) (f : Hewer → AluRes) : Step :=
  .ok (s.modHew h (fun x => (x.setW rd (f x).val).setNzcv (f x).nzcv)) []

/-- A general register is written, the flags are kept. -/
def State.moveStep (s : State) (h rd : Nat) (f : Hewer → Word) : Step := .ok (s.modHew h (fun x => x.setW rd (f x))) []

/-- The register form of majors 0x04 and 0x05: destination, sources and the flag class. -/
def State.aluReg (s : State) (h major func rd ra rb : Nat) (f : Word → Word → Bool → AluRes) : State :=
  s.run h (preW (wReg major rd ra rb func 0) [ra, rb] [rd])
    (fun t => t.aluStep h rd (fun x => f (x.getW ra) (x.getW rb) x.flagC))

/-- The immediate form of majors 0x08 to 0x0D. -/
def State.aluImm (s : State) (h major rd ra imm : Nat) (f : Word → AluRes) : State :=
  s.run h (preW (wImm major rd ra imm) [ra] [rd]) (fun t => t.aluStep h rd (fun x => f (x.getW ra)))

/-- The divide class, a long operation: a divisor of 0 raises 0x17 and leaves flags and destination (R238, R346). -/
def State.divStep (s : State) (h func rd ra rb : Nat) (f : Word → Word → AluRes) : State :=
  s.runLong h (preW (wReg 0x05 rd ra rb func 0) [ra, rb] [rd])
    (fun t => if (t.hew h).getW rb = 0 then .exc t (mkExc 0x17 0)
      else t.aluStep h rd (fun x => f (x.getW ra) (x.getW rb)))

/-- add: wa + wb (R275). -/
def execAdd (h : HewerId) (rd ra rb : RegNo) (s : State) : Host.Outcome State Fault Refusal :=
  done (s.aluReg h 0x04 0x00 rd ra rb (fun a b _ => aluAdd a b false))

/-- adc: wa + wb + C (R275). -/
def execAdc (h : HewerId) (rd ra rb : RegNo) (s : State) : Host.Outcome State Fault Refusal :=
  done (s.aluReg h 0x04 0x01 rd ra rb aluAdd)

/-- sub: wa − wb (R275). -/
def execSub (h : HewerId) (rd ra rb : RegNo) (s : State) : Host.Outcome State Fault Refusal :=
  done (s.aluReg h 0x04 0x02 rd ra rb (fun a b _ => aluSub a b true))

/-- sbc: wa − wb − (1 − C) (R275). -/
def execSbc (h : HewerId) (rd ra rb : RegNo) (s : State) : Host.Outcome State Fault Refusal :=
  done (s.aluReg h 0x04 0x03 rd ra rb aluSub)

/-- cmp: wa − wb, not written (R275). -/
def execCmp (h : HewerId) (ra rb : RegNo) (s : State) : Host.Outcome State Fault Refusal :=
  done (s.aluReg h 0x04 0x04 0 ra rb (fun a b _ => aluSub a b true))

/-- and (R275). -/
def execAnd (h : HewerId) (rd ra rb : RegNo) (s : State) : Host.Outcome State Fault Refusal :=
  done (s.aluReg h 0x04 0x08 rd ra rb (fun a b _ => aluLogic (a &&& b)))

/-- or (R275). -/
def execOr (h : HewerId) (rd ra rb : RegNo) (s : State) : Host.Outcome State Fault Refusal :=
  done (s.aluReg h 0x04 0x09 rd ra rb (fun a b _ => aluLogic (a ||| b)))

/-- xor (R275). -/
def execXor (h : HewerId) (rd ra rb : RegNo) (s : State) : Host.Outcome State Fault Refusal :=
  done (s.aluReg h 0x04 0x0A rd ra rb (fun a b _ => aluLogic (a ^^^ b)))

/-- andn: wa and not wb (R275). -/
def execAndn (h : HewerId) (rd ra rb : RegNo) (s : State) : Host.Outcome State Fault Refusal :=
  done (s.aluReg h 0x04 0x0B rd ra rb (fun a b _ => aluLogic (a &&& ~~~b)))

/-- test: wa and wb, not written (R275). -/
def execTest (h : HewerId) (ra rb : RegNo) (s : State) : Host.Outcome State Fault Refusal :=
  done (s.aluReg h 0x04 0x0C 0 ra rb (fun a b _ => aluLogic (a &&& b)))

/-- shl: the count is wb[5:0] (R275). -/
def execShl (h : HewerId) (rd ra rb : RegNo) (s : State) : Host.Outcome State Fault Refusal :=
  done (s.aluReg h 0x04 0x10 rd ra rb (fun a b _ => aluShl a (shiftCount b)))

/-- shr: the count is wb[5:0] (R275). -/
def execShr (h : HewerId) (rd ra rb : RegNo) (s : State) : Host.Outcome State Fault Refusal :=
  done (s.aluReg h 0x04 0x11 rd ra rb (fun a b _ => aluShr a (shiftCount b)))

/-- sar: the count is wb[5:0] (R275). -/
def execSar (h : HewerId) (rd ra rb : RegNo) (s : State) : Host.Outcome State Fault Refusal :=
  done (s.aluReg h 0x04 0x12 rd ra rb (fun a b _ => aluSar a (shiftCount b)))

/-- ror: the count is wb[5:0] (R275). -/
def execRor (h : HewerId) (rd ra rb : RegNo) (s : State) : Host.Outcome State Fault Refusal :=
  done (s.aluReg h 0x04 0x13 rd ra rb (fun a b _ => aluRor a (shiftCount b)))

/-- mov (R275). -/
def execMov (h : HewerId) (rd ra : RegNo) (s : State) : Host.Outcome State Fault Refusal :=
  done (s.run h (preW (wReg 0x04 rd ra 0 0x20 0) [ra.val] [rd.val]) (fun t => t.moveStep h rd (fun x => x.getW ra)))

/-- pick.cond: wa when the condition holds, else wb (R275). -/
def execPick (h : HewerId) (cond : Fin 16) (rd ra rb : RegNo) (s : State) : Host.Outcome State Fault Refusal :=
  done (s.run h (preW (wReg 0x04 rd ra rb 0x21 cond) [ra.val, rb.val] [rd.val])
    (fun t => t.moveStep h rd (fun x => if condHolds cond x.nzcv then x.getW ra else x.getW rb)))

/-- mul (R276). -/
def execMul (h : HewerId) (rd ra rb : RegNo) (s : State) : Host.Outcome State Fault Refusal :=
  done (s.aluReg h 0x05 0x00 rd ra rb (fun a b _ => aluMul a b))

/-- mulu (R276). -/
def execMulu (h : HewerId) (rd ra rb : RegNo) (s : State) : Host.Outcome State Fault Refusal :=
  done (s.aluReg h 0x05 0x01 rd ra rb (fun a b _ => aluMulu a b))

/-- mulh (R276). -/
def execMulh (h : HewerId) (rd ra rb : RegNo) (s : State) : Host.Outcome State Fault Refusal :=
  done (s.aluReg h 0x05 0x02 rd ra rb (fun a b _ => aluMulh a b))

/-- mulhu (R276). -/
def execMulhu (h : HewerId) (rd ra rb : RegNo) (s : State) : Host.Outcome State Fault Refusal :=
  done (s.aluReg h 0x05 0x03 rd ra rb (fun a b _ => aluMulhu a b))

/-- div (R276). -/
def execDiv (h : HewerId) (rd ra rb : RegNo) (s : State) : Host.Outcome State Fault Refusal :=
  done (s.divStep h 0x04 rd ra rb aluDiv)

/-- divu (R276). -/
def execDivu (h : HewerId) (rd ra rb : RegNo) (s : State) : Host.Outcome State Fault Refusal :=
  done (s.divStep h 0x05 rd ra rb aluDivu)

/-- rem (R276). -/
def execRem (h : HewerId) (rd ra rb : RegNo) (s : State) : Host.Outcome State Fault Refusal :=
  done (s.divStep h 0x06 rd ra rb aluRem)

/-- remu (R276). -/
def execRemu (h : HewerId) (rd ra rb : RegNo) (s : State) : Host.Outcome State Fault Refusal :=
  done (s.divStep h 0x07 rd ra rb aluRemu)

/-- addi: IMM15 sign-extended (R277). -/
def execAddi (h : HewerId) (rd ra : RegNo) (imm : BitVec 15) (s : State) : Host.Outcome State Fault Refusal :=
  done (s.aluImm h 0x08 rd ra imm.toNat (fun a => aluAdd a (imm.signExtend 64) false))

/-- cmpi: IMM15 sign-extended, no register written (R277). -/
def execCmpi (h : HewerId) (ra : RegNo) (imm : BitVec 15) (s : State) : Host.Outcome State Fault Refusal :=
  done (s.aluImm h 0x09 0 ra imm.toNat (fun a => aluSub a (imm.signExtend 64) true))

/-- andi: IMM15 zero-extended (R277). -/
def execAndi (h : HewerId) (rd ra : RegNo) (imm : BitVec 15) (s : State) : Host.Outcome State Fault Refusal :=
  done (s.aluImm h 0x0A rd ra imm.toNat (fun a => aluLogic (a &&& imm.setWidth 64)))

/-- ori: IMM15 zero-extended (R277). -/
def execOri (h : HewerId) (rd ra : RegNo) (imm : BitVec 15) (s : State) : Host.Outcome State Fault Refusal :=
  done (s.aluImm h 0x0B rd ra imm.toNat (fun a => aluLogic (a ||| imm.setWidth 64)))

/-- xori: IMM15 zero-extended (R277). -/
def execXori (h : HewerId) (rd ra : RegNo) (imm : BitVec 15) (s : State) : Host.Outcome State Fault Refusal :=
  done (s.aluImm h 0x0C rd ra imm.toNat (fun a => aluLogic (a ^^^ imm.setWidth 64)))

/-- shl by an immediate count (R277). -/
def execShlByImmediate (h : HewerId) (rd ra : RegNo) (count : Fin 64) (s : State) : Host.Outcome State Fault Refusal :=
  done (s.aluImm h 0x0D rd ra (0 * 4096 + count.val) (fun a => aluShl a count))

/-- shr by an immediate count (R277). -/
def execShrByImmediate (h : HewerId) (rd ra : RegNo) (count : Fin 64) (s : State) : Host.Outcome State Fault Refusal :=
  done (s.aluImm h 0x0D rd ra (1 * 4096 + count.val) (fun a => aluShr a count))

/-- sar by an immediate count (R277). -/
def execSarByImmediate (h : HewerId) (rd ra : RegNo) (count : Fin 64) (s : State) : Host.Outcome State Fault Refusal :=
  done (s.aluImm h 0x0D rd ra (2 * 4096 + count.val) (fun a => aluSar a count))

/-- ror by an immediate count (R277). -/
def execRorByImmediate (h : HewerId) (rd ra : RegNo) (count : Fin 64) (s : State) : Host.Outcome State Fault Refusal :=
  done (s.aluImm h 0x0D rd ra (3 * 4096 + count.val) (fun a => aluRor a count))

/-- li: IMM20 sign-extended (R278). -/
def execLi (h : HewerId) (rd : RegNo) (imm : BitVec 20) (s : State) : Host.Outcome State Fault Refusal :=
  done (s.run h (preW (wWide 0x0E rd imm.toNat) [] [rd.val]) (fun t => t.moveStep h rd (fun _ => imm.signExtend 64)))

/-- movk: IMM16 into bits [16k + 15:16k], the others kept (R278). -/
def execMovk (h : HewerId) (rd : RegNo) (k : Fin 4) (imm : BitVec 16) (s : State) : Host.Outcome State Fault Refusal :=
  done (s.run h (preW (wWide 0x0F rd (k.val * 2 ^ 18 + imm.toNat)) [rd.val] [rd.val])
    (fun t => t.moveStep h rd (fun x => BitVec.ofNat 64 (setBits (x.getW rd).toNat (16 * k.val + 15) (16 * k.val) imm.toNat))))

end Sys2Proof.Machine
end

