-- ==== Sys2Proof/Machine/Memory.lean ====
section
/-!
DEFINITION. Loads, stores and the data stack (R241, R279 to R288, R341 to R344).
-/
namespace Sys2Proof.Machine

/-- A general register once the outstanding loads have returned, as an instruction that reads it sees it (R339). -/
def State.regNow (s : State) (h r : Nat) : Word := (s.hew h).landAll.getW r

/-- Effective address of the displacement form (R279). -/
def dispAddr (base : Word) (up : Bool) (disp : BitVec 14) : Word := if up then base else base + disp.signExtend 64

/-- Effective address of the indexed form (R281). -/
def indexAddr (base index : Word) (scale : Nat) : Word := base + index <<< scale

/-- The code of a load within its majors and FUNC values (R280, R281). -/
def loadCode (k : LoadKind) : Nat := State.loadStep.codeOfKind k
/-- The code of a store within its majors and FUNC values. -/
def storeCode (k : StoreKind) : Nat :=
  match k with
  | .b => 0 | .h => 1 | .w => 2 | .d => 3 | .q => 4

/-- What the frame knows of a load. -/
def loadPre (word : Nat) (k : LoadKind) (src upd : List Nat) (rd : Nat) (bad : Option Nat) (ea : Nat) : Pre :=
  ⟨word, src, [], if loadVec k then upd else rd :: upd, if loadVec k then [rd] else [], bad, ea⟩

/-- What the frame knows of a store. -/
def storePre (word : Nat) (k : StoreKind) (rd : Nat) (src upd : List Nat) (bad : Option Nat) (ea : Nat) : Pre :=
  ⟨word, if k = .q then src else rd :: src, if k = .q then [rd] else [], upd, [], bad, ea⟩

/-- ld.*: the displacement form with optional base update (R279, R280). -/
def execLoad (h : HewerId) (kind : LoadKind) (rd ra : RegNo) (up : Bool) (disp : BitVec 14) (miss : Bool) (s : State) :
    Host.Outcome State Fault Refusal :=
  let base := s.regNow h ra
  let ea := dispAddr base up disp
  let bad := if up && (ra = 0 || (ra = rd && !(loadVec kind))) then some 0x01 else none
  let word := wMem (0x10 + loadCode kind) rd ra up disp.toNat
  done (s.run h (loadPre word kind [ra.val] (if up then [ra.val] else []) rd bad ea.toNat)
    (fun t => t.loadStep h kind rd ea.toNat (fun x => x.baseUpdate up ra (base + disp.signExtend 64)) miss))

/-- st.*: the displacement form with optional base update (R279, R280). -/
def execStore (h : HewerId) (kind : StoreKind) (rd ra : RegNo) (up : Bool) (disp : BitVec 14) (s : State) :
    Host.Outcome State Fault Refusal :=
  let base := s.regNow h ra
  let ea := dispAddr base up disp
  let bad := if up && ra = 0 then some 0x01 else none
  let word := wMem (0x18 + storeCode kind) rd ra up disp.toNat
  done (s.run h (storePre word kind rd [ra.val] (if up then [ra.val] else []) bad ea.toNat)
    (fun t => t.storeStep h ea.toNat ((t.hew h).storeBytes kind rd)
      (fun x => x.baseUpdate up ra (base + disp.signExtend 64))))

/-- Indexed loads (R281). -/
def execLoadIndexed (h : HewerId) (kind : LoadKind) (rd ra rb : RegNo) (scale : Fin 4) (miss : Bool) (s : State) :
    Host.Outcome State Fault Refusal :=
  let ea := indexAddr (s.regNow h ra) (s.regNow h rb) scale
  done (s.run h (loadPre (wReg 0x1D rd ra rb (loadCode kind) scale) kind [ra.val, rb.val] [] rd none ea.toNat)
    (fun t => t.loadStep h kind rd ea.toNat id miss))

/-- Indexed stores (R281). -/
def execStoreIndexed (h : HewerId) (kind : StoreKind) (rd ra rb : RegNo) (scale : Fin 4) (s : State) :
    Host.Outcome State Fault Refusal :=
  let ea := indexAddr (s.regNow h ra) (s.regNow h rb) scale
  done (s.run h (storePre (wReg 0x1D rd ra rb (8 + storeCode kind) scale) kind rd [ra.val, rb.val] [] none ea.toNat)
    (fun t => t.storeStep h ea.toNat ((t.hew h).storeBytes kind rd) id))

/-- LOAD_RETURN: one of the loads still outstanding returns, with its poison mark where it has one (R341, R344). -/
def execLoadReturn (h : HewerId) (n : Fin 24) (s : State) : Host.Outcome State Fault Refusal :=
  let x := s.hew h
  match x.missed.drop n with
  | [] => done s
  | m :: rest =>
    if m.tag.isSome || !s.pwr.pllLocked then done s
    else done (s.setHew h { x.landLoad m with missed := x.missed.take n ++ rest })

/-- push: wa at w30 − 8, then w30 := w30 − 8 (R241). -/
def execPush (h : HewerId) (ra : RegNo) (s : State) : Host.Outcome State Fault Refusal :=
  let sp := s.regNow h 30
  let ea := (sp - 8).toNat
  done (s.run h ⟨wReg 0x1E 0 ra 0 0 0, [ra.val, 30], [], [30], [], none, ea⟩ (fun t =>
    if sp.toNat % 8 != 0 then .exc t (mkExc 0x03 ea)
    else t.storeStep h ea (bytesLE 8 ((t.hew h).getW ra).toNat) (fun x => x.setW 30 (sp - 8))))

/-- pop: the doubleword at w30, w30 := w30 + 8, then wd (R241). -/
def execPop (h : HewerId) (rd : RegNo) (s : State) : Host.Outcome State Fault Refusal :=
  let sp := s.regNow h 30
  done (s.run h ⟨wReg 0x1E rd 0 0 1 0, [30], [], [rd.val, 30], [], none, sp.toNat⟩ (fun t =>
    if sp.toNat % 8 != 0 then .exc t (mkExc 0x03 sp.toNat)
    else t.loadStep h .d rd sp.toNat (fun x => x.setW 30 (sp + 8)) false))

end Sys2Proof.Machine
end

