-- ==== Sys2Proof/Machine/Atomics.lean ====
section
/-!
DEFINITION. Atomics and reservations (R301 to R309). AQ and RL order accesses towards other observers only (R308).
-/
namespace Sys2Proof.Machine

/-- Bytes of an atomic. -/
def atomicSize (wide : Bool) : Nat := if wide then 8 else 4

/-- SUB of an atomic (R301). -/
def atomicSub (wide aq rl : Bool) : Nat := b2n aq * 8 + b2n rl * 4 + b2n wide

/-- An atomic's access: natural alignment first, then the rest of R417; atomics reach DRAM only (R303). -/
def State.atomicAccess (s : State) (h : Nat) (k : AccKind) (ea n : Nat) (items : List CmpItem)
    (f : State → Nat → Piece → Step) : Step :=
  if ea % n != 0 then .exc s (mkExc 0x03 ea)
  else s.withAccess h k ea n items (fun s l =>
    match l with
    | ⟨.phys pa, m, ca, via⟩ :: _ => f s pa ⟨.phys pa, m, ca, via⟩
    | _ => .exc s (mkExc 0x07 ea))

/-- An atomic marked .rl is performed after every earlier access of the hewer: one that waits for the host holds it back, and buffered
stores drain first (R308, R483). -/
def State.afterEarlier (s : State) (h : Nat) (rl : Bool) (f : State → Step) : Step :=
  if !rl then f s
  else if (s.hew h).waitsHost then .held s
  else f (s.sbFlush h)

/-- ldx: load, zero-extended, and reserve the granule (R301, R304). -/
def execLdx (h : HewerId) (wide aq rl : Bool) (rd ra : RegNo) (s : State) : Host.Outcome State Fault Refusal :=
  let ea := (s.regNow h ra).toNat
  let n := atomicSize wide
  done (s.run h ⟨wReg 0x1F rd ra 0 0x00 (atomicSub wide aq rl), [ra.val], [], [rd.val], [], none, ea⟩ (fun t =>
    let items := t.dataItems h [1, 3] ea n
    t.atomicAccess h .ldx ea n items (fun s pa p => s.afterEarlier h rl (fun s =>
      s.readNow h [p] ea (fun s b =>
        let v := natLE b
        .ok (s.modHew h (fun x => { x.setW rd (BitVec.ofNat 64 v) with resv := some (pa / 64) })) (items ++ [valueItem 4 v]))))))

/-- The store of an stx that succeeds, at L1 D after every buffered store (R301, R343). -/
def State.stxWrite (s : State) (h pa ca : Nat) (d : List Byte) : State :=
  let t := s.sbFlush h
  (t.dataLine h (pa / 64) ca (t.classOf h) true).1.hewerWrite (some h) pa d

/-- stx: store when the reservation holds; wd is 0 on success and 1 on failure (R301, R305, R306). -/
def execStx (h : HewerId) (wide aq rl : Bool) (rd ra rb : RegNo) (s : State) : Host.Outcome State Fault Refusal :=
  let ea := (s.regNow h ra).toNat
  let n := atomicSize wide
  done (s.run h ⟨wReg 0x1F rd ra rb 0x01 (atomicSub wide aq rl), [ra.val, rb.val], [], [rd.val], [], none, ea⟩ (fun t =>
    let d := bytesLE n ((t.hew h).getW rb).toNat
    let items := t.dataItems h [2, 3] ea n ++ [valueItem 5 (natLE d)]
    t.atomicAccess h .stx ea n items (fun s pa p => s.afterEarlier h rl (fun s =>
      if (s.hew h).resv = some (pa / 64) then
        .ok ((s.stxWrite h pa p.ca d).modHew h (fun x => { x.setW rd 0 with resv := none })) items
      else .ok ((s.tally h 0x017).modHew h (fun x => { x.setW rd 1 with resv := none })) items))))

/-- The old value of an amo's operand: poison raises 0x0D (R302, R437). -/
def State.amoRead (s : State) (ea pa n : Nat) (f : State → Nat → Step) : Step :=
  if s.poisoned pa n then .exc s (mkExc 0x0D (poisonEval ea)) else f s (natLE (s.readBytes pa n))

/-- An amo: one indivisible read-modify-write at the gallery L2 or the hub, a long operation; wd receives the old value, zero-extended
(R301, R302, R346). -/
def State.amo (s : State) (h func : Nat) (wide aq rl : Bool) (rd ra rb : Nat) (f : Nat → Nat → Nat → Nat) : State :=
  let ea := (s.regNow h ra).toNat
  let n := atomicSize wide
  s.runLong h ⟨wReg 0x1F rd ra rb func (atomicSub wide aq rl), [ra, rb], [], [rd], [], none, ea⟩ (fun t =>
    let b := ((t.hew h).getW rb).toNat % 2 ^ (8 * n)
    let items := t.dataItems h [2, 3] ea n ++ [valueItem 5 b]
    t.atomicAccess h .amo ea n items (fun s pa p =>
      let t := s.sbFlush h
      (t.amoLine h (pa / 64) p.ca (t.classOf h)).amoRead ea pa n (fun s old =>
        .ok (((s.hewerWrite (some h) pa (bytesLE n (f (8 * n) old b))).tally h 0x018).modHew h
          (fun x => x.setW rd (BitVec.ofNat 64 old))) (items ++ [valueItem 4 old]))))

/-- The smaller of two codes of `w` bits, signed. -/
def minSigned (w a b : Nat) : Nat := if signedOf w a ≤ signedOf w b then a else b
/-- The larger of two codes of `w` bits, signed. -/
def maxSigned (w a b : Nat) : Nat := if signedOf w a ≤ signedOf w b then b else a

/-- amo.add: m := m + wb (R301). -/
def execAmoAdd (h : HewerId) (wide aq rl : Bool) (rd ra rb : RegNo) (s : State) : Host.Outcome State Fault Refusal :=
  done (s.amo h 0x10 wide aq rl rd ra rb (fun w a b => (a + b) % 2 ^ w))

/-- amo.swap: m := wb (R301). -/
def execAmoSwap (h : HewerId) (wide aq rl : Bool) (rd ra rb : RegNo) (s : State) : Host.Outcome State Fault Refusal :=
  done (s.amo h 0x11 wide aq rl rd ra rb (fun _ _ b => b))

/-- amo.and: m := m and wb (R301). -/
def execAmoAnd (h : HewerId) (wide aq rl : Bool) (rd ra rb : RegNo) (s : State) : Host.Outcome State Fault Refusal :=
  done (s.amo h 0x12 wide aq rl rd ra rb (fun _ a b => a &&& b))

/-- amo.or: m := m or wb (R301). -/
def execAmoOr (h : HewerId) (wide aq rl : Bool) (rd ra rb : RegNo) (s : State) : Host.Outcome State Fault Refusal :=
  done (s.amo h 0x13 wide aq rl rd ra rb (fun _ a b => a ||| b))

/-- amo.min: signed minimum (R301). -/
def execAmoMin (h : HewerId) (wide aq rl : Bool) (rd ra rb : RegNo) (s : State) : Host.Outcome State Fault Refusal :=
  done (s.amo h 0x14 wide aq rl rd ra rb minSigned)

/-- amo.max: signed maximum (R301). -/
def execAmoMax (h : HewerId) (wide aq rl : Bool) (rd ra rb : RegNo) (s : State) : Host.Outcome State Fault Refusal :=
  done (s.amo h 0x15 wide aq rl rd ra rb maxSigned)

/-- amo.minu: unsigned minimum (R301). -/
def execAmoMinu (h : HewerId) (wide aq rl : Bool) (rd ra rb : RegNo) (s : State) : Host.Outcome State Fault Refusal :=
  done (s.amo h 0x16 wide aq rl rd ra rb (fun _ a b => if a ≤ b then a else b))

/-- amo.maxu: unsigned maximum (R301). -/
def execAmoMaxu (h : HewerId) (wide aq rl : Bool) (rd ra rb : RegNo) (s : State) : Host.Outcome State Fault Refusal :=
  done (s.amo h 0x17 wide aq rl rd ra rb (fun _ a b => if a ≤ b then b else a))

end Sys2Proof.Machine
end

