-- ==== Sys2Proof/Machine/FpVector.lean ====
section
/-!
DEFINITION. Floating-point and vector instructions (R234 to R236, R240, R310 to R315).
-/
namespace Sys2Proof.Machine

/-- The format of P. -/
def fmtOf (single : Bool) : FpFmt := if single then .sgl else .dbl

/-- Lane `k` of width `w`. -/
def laneOf (v : VWord) (w k : Nat) : Nat := bitsOf v.toNat (w * k + w - 1) (w * k)

/-- A register from its lanes of width `w`, lane 0 first; the rest is 0. -/
def ofLanes (w : Nat) (l : List Nat) : VWord := BitVec.ofNat 128 (l.foldr (fun x acc => acc * 2 ^ w + x % 2 ^ w) 0)

/-- Lanes that an instruction works on: one for a scalar (R234). -/
def laneCount (f : FpForm) : Nat := if f.vector then (if f.single then 4 else 2) else 1

/-- Rounding mode in force. -/
def Hewer.rm (x : Hewer) : RoundMode := roundModeOf (x.psf 19 18)
/-- Trap enables FE and sticky flags FX (R265). -/
def Hewer.fe (x : Hewer) : Nat := x.psf 41 37
def Hewer.fx (x : Hewer) : Nat := x.psf 36 32

/-- FP exceptions are noted in FX; an enabled one traps and the instruction writes nothing (R236). -/
def State.fpFlags (s : State) (h flags : Nat) (f : Hewer → Hewer) : Step :=
  let x := s.hew h
  let s1 := s.setHew h (x.setPsf 36 32 (x.fx ||| flags))
  if x.fe &&& flags != 0 then .exc s1 (mkExc 0x16 (x.fe &&& flags)) else .ok (s1.modHew h f) []

/-- Every flag that some lane raises. -/
def allFlags (l : List FpRes) : Nat := l.foldl (fun a r => a ||| r.flags) 0

/-- An FP operation on each lane, written to `vd` (R234, R310). -/
def State.fpLanes (s : State) (h vd : Nat) (f : FpForm) (op : Nat → FpRes) : Step :=
  let l := (List.range (laneCount f)).map op
  s.fpFlags h (allFlags l) (fun x => x.setV vd (ofLanes (fmtOf f.single).width (l.map FpRes.bits)))

/-- Major of an FP instruction: scalar or vector. -/
def fpMajor (f : FpForm) : Nat := if f.vector then 0x34 else 0x30

/-- What the frame knows of an instruction on vector registers. -/
def preV (word : Nat) (src dst : List Nat) : Pre := ⟨word, [], src, [], dst, none, 0⟩

/-- Two-operand arithmetic (R310): a division is a long operation (R346). -/
def State.fp2 (s : State) (h func : Nat) (f : FpForm) (vd va vb : Nat) (op : FpFmt → RoundMode → Nat → Nat → FpRes) : State :=
  s.runAs h (preV (wReg (fpMajor f) vd va vb func (b2n f.single)) [va, vb] [vd]) (decide (func = 0x03)) (fun t =>
    let x := t.hew h
    let w := (fmtOf f.single).width
    t.fpLanes h vd f (fun k => op (fmtOf f.single) x.rm (laneOf (x.getV va) w k) (laneOf (x.getV vb) w k)))

/-- One-operand arithmetic (R310): a square root is a long operation (R346). -/
def State.fp1 (s : State) (h func : Nat) (f : FpForm) (vd va : Nat) (op : FpFmt → RoundMode → Nat → FpRes) : State :=
  s.runAs h (preV (wReg (fpMajor f) vd va 0 func (b2n f.single)) [va] [vd]) (decide (func = 0x04)) (fun t =>
    let x := t.hew h
    t.fpLanes h vd f (fun k => op (fmtOf f.single) x.rm (laneOf (x.getV va) (fmtOf f.single).width k)))

/-- The fused operations: the product and the addend with their signs (R311). -/
def State.fpFused (s : State) (h : Nat) (op : Nat) (f : FpForm) (vd va vb vc : Nat) (negProduct negAddend : Bool) : State :=
  s.run h (preV (wFused (if f.vector then 0x35 else 0x31) vd va vb vc op (b2n f.single)) [va, vb, vc] [vd]) (fun t =>
    let x := t.hew h
    let m := fmtOf f.single
    let sign := fun (n : Bool) (v : FpVal) => if n then v.negate else v
    t.fpLanes h vd f (fun k =>
      let ln := fun (r : Nat) => fpDecode m (laneOf (x.getV r) m.width k)
      fpFma m x.rm (sign negProduct (ln va)) (ln vb) (sign negAddend (ln vc))))

/-- fadd (R310). -/
def execFadd (h : HewerId) (f : FpForm) (vd va vb : RegNo) (s : State) : Host.Outcome State Fault Refusal :=
  done (s.fp2 h 0x00 f vd va vb (fun m r a b => fpAdd m r (fpDecode m a) (fpDecode m b)))

/-- fsub (R310). -/
def execFsub (h : HewerId) (f : FpForm) (vd va vb : RegNo) (s : State) : Host.Outcome State Fault Refusal :=
  done (s.fp2 h 0x01 f vd va vb (fun m r a b => fpSub m r (fpDecode m a) (fpDecode m b)))

/-- fmul (R310). -/
def execFmul (h : HewerId) (f : FpForm) (vd va vb : RegNo) (s : State) : Host.Outcome State Fault Refusal :=
  done (s.fp2 h 0x02 f vd va vb (fun m r a b => fpMul m r (fpDecode m a) (fpDecode m b)))

/-- fdiv (R310). -/
def execFdiv (h : HewerId) (f : FpForm) (vd va vb : RegNo) (s : State) : Host.Outcome State Fault Refusal :=
  done (s.fp2 h 0x03 f vd va vb (fun m r a b => fpDiv m r (fpDecode m a) (fpDecode m b)))

/-- fsqrt (R310). -/
def execFsqrt (h : HewerId) (f : FpForm) (vd va : RegNo) (s : State) : Host.Outcome State Fault Refusal :=
  done (s.fp1 h 0x04 f vd va (fun m r a => fpSqrt m r (fpDecode m a)))

/-- fmin: IEEE 754-2019 minimumNumber (R310). -/
def execFmin (h : HewerId) (f : FpForm) (vd va vb : RegNo) (s : State) : Host.Outcome State Fault Refusal :=
  done (s.fp2 h 0x05 f vd va vb (fun m _ a b => fpMinMax m false a b))

/-- fmax: IEEE 754-2019 maximumNumber (R310). -/
def execFmax (h : HewerId) (f : FpForm) (vd va vb : RegNo) (s : State) : Host.Outcome State Fault Refusal :=
  done (s.fp2 h 0x06 f vd va vb (fun m _ a b => fpMinMax m true a b))

/-- fabs: clears the sign bit (R310). -/
def execFabs (h : HewerId) (f : FpForm) (vd va : RegNo) (s : State) : Host.Outcome State Fault Refusal :=
  done (s.fp1 h 0x07 f vd va (fun m _ a => ⟨fpAbs m a, 0⟩))

/-- fneg: inverts the sign bit (R310). -/
def execFneg (h : HewerId) (f : FpForm) (vd va : RegNo) (s : State) : Host.Outcome State Fault Refusal :=
  done (s.fp1 h 0x08 f vd va (fun m _ a => ⟨fpNeg m a, 0⟩))

/-- fmadd: va × vb + vc (R311). -/
def execFmadd (h : HewerId) (f : FpForm) (vd va vb vc : RegNo) (s : State) : Host.Outcome State Fault Refusal :=
  done (s.fpFused h 0 f vd va vb vc false false)

/-- fmsub: va × vb − vc (R311). -/
def execFmsub (h : HewerId) (f : FpForm) (vd va vb vc : RegNo) (s : State) : Host.Outcome State Fault Refusal :=
  done (s.fpFused h 1 f vd va vb vc false true)

/-- fnmsub: −(va × vb) + vc (R311). -/
def execFnmsub (h : HewerId) (f : FpForm) (vd va vb vc : RegNo) (s : State) : Host.Outcome State Fault Refusal :=
  done (s.fpFused h 2 f vd va vb vc true false)

/-- fnmadd: −(va × vb) − vc (R311). -/
def execFnmadd (h : HewerId) (f : FpForm) (vd va vb vc : RegNo) (s : State) : Host.Outcome State Fault Refusal :=
  done (s.fpFused h 3 f vd va vb vc true true)

/-- An FP compare: the flags of R240. -/
def State.fpCmp (s : State) (h func : Nat) (single signalling : Bool) (va vb : Nat) : State :=
  s.run h (preV (wReg 0x32 0 va vb func (b2n single)) [va, vb] []) (fun t =>
    let x := t.hew h
    let m := fmtOf single
    let r := fpCompare m signalling (laneOf (x.getV va) m.width 0) (laneOf (x.getV vb) m.width 0)
    t.fpFlags h r.2 (fun y => y.setNzcv r.1))

/-- fcmp (R240, R312). -/
def execFcmp (h : HewerId) (single : Bool) (va vb : RegNo) (s : State) : Host.Outcome State Fault Refusal :=
  done (s.fpCmp h 0 single false va vb)

/-- fcmpe: the signalling form (R240, R312). -/
def execFcmpe (h : HewerId) (single : Bool) (va vb : RegNo) (s : State) : Host.Outcome State Fault Refusal :=
  done (s.fpCmp h 1 single true va vb)

/-- A conversion to integer, into a general register (R313, R314). -/
def State.fpToW (s : State) (h func : Nat) (single isSigned : Bool) (wd va : Nat) : State :=
  s.run h ⟨wReg 0x33 wd va 0 func (b2n single), [], [va], [wd], [], none, 0⟩ (fun t =>
    let x := t.hew h
    let m := fmtOf single
    let r := fpToInt x.rm isSigned (fpDecode m (laneOf (x.getV va) m.width 0))
    t.fpFlags h r.flags (fun y => y.setW wd (BitVec.ofNat 64 r.bits)))

/-- fcvt.i: FP to signed 64-bit integer (R313, R314). -/
def execFcvtI (h : HewerId) (single : Bool) (wd va : RegNo) (s : State) : Host.Outcome State Fault Refusal :=
  done (s.fpToW h 0x00 single true wd va)

/-- fcvt.u: FP to unsigned 64-bit integer (R313, R314). -/
def execFcvtU (h : HewerId) (single : Bool) (wd va : RegNo) (s : State) : Host.Outcome State Fault Refusal :=
  done (s.fpToW h 0x01 single false wd va)

/-- A conversion from integer, to the scalar of `vd` (R313). -/
def State.wToFp (s : State) (h func : Nat) (single : Bool) (vd wa : Nat) (val : Word → Int) : State :=
  s.run h ⟨wReg 0x33 vd wa 0 func (b2n single), [wa], [], [], [vd], none, 0⟩ (fun t =>
    let x := t.hew h
    t.fpLanes h vd ⟨single, false⟩ (fun _ => fpFromInt (fmtOf single) x.rm (val (x.getW wa))))

/-- icvt: signed 64-bit integer to FP (R313). -/
def execIcvt (h : HewerId) (single : Bool) (vd wa : RegNo) (s : State) : Host.Outcome State Fault Refusal :=
  done (s.wToFp h 0x02 single vd wa (fun a => a.toInt))

/-- ucvt: unsigned 64-bit integer to FP (R313). -/
def execUcvt (h : HewerId) (single : Bool) (vd wa : RegNo) (s : State) : Host.Outcome State Fault Refusal :=
  done (s.wToFp h 0x03 single vd wa (fun a => (a.toNat : Int)))

/-- fcvt.sd: FP64 to FP32 (R313). -/
def execFcvtSd (h : HewerId) (vd va : RegNo) (s : State) : Host.Outcome State Fault Refusal :=
  done (s.run h (preV (wReg 0x33 vd va 0 0x04 0) [va.val] [vd.val]) (fun t =>
    let x := t.hew h
    t.fpLanes h vd ⟨true, false⟩ (fun _ => fpConvert .sgl x.rm (fpDecode .dbl (laneOf (x.getV va) 64 0)))))

/-- fcvt.ds: FP32 to FP64, exact (R313). -/
def execFcvtDs (h : HewerId) (vd va : RegNo) (s : State) : Host.Outcome State Fault Refusal :=
  done (s.run h (preV (wReg 0x33 vd va 0 0x05 0) [va.val] [vd.val]) (fun t =>
    let x := t.hew h
    t.fpLanes h vd ⟨false, false⟩ (fun _ => fpConvert .dbl x.rm (fpDecode .sgl (laneOf (x.getV va) 32 0)))))

/-- Width of a lane move. -/
def moveWidth (small : Bool) : Nat := if small then 32 else 64
/-- A 64-bit lane number above 1 raises 0x01 (R313). -/
def badLane (small : Bool) (lane : Nat) : Option Nat := if !small && 1 < lane then some 0x01 else none

/-- vmov.wv: writes a lane of vd, the others are kept (R313). -/
def execVmovWv (h : HewerId) (small : Bool) (lane : Fin 4) (vd wa : RegNo) (s : State) : Host.Outcome State Fault Refusal :=
  let w := moveWidth small
  done (s.run h ⟨wReg 0x33 vd wa 0 0x08 (b2n small * 4 + lane), [wa.val], [vd.val], [], [vd.val], badLane small lane, 0⟩ (fun t =>
    .ok (t.modHew h (fun x => x.setV vd (BitVec.ofNat 128
      (setBits (x.getV vd).toNat (w * lane.val + w - 1) (w * lane.val) (x.getW wa).toNat)))) []))

/-- vmov.vw: reads a lane of va, zero-extended (R313). -/
def execVmovVw (h : HewerId) (small : Bool) (lane : Fin 4) (wd va : RegNo) (s : State) : Host.Outcome State Fault Refusal :=
  let w := moveWidth small
  done (s.run h ⟨wReg 0x33 wd va 0 0x09 (b2n small * 4 + lane), [], [va.val], [wd.val], [], badLane small lane, 0⟩ (fun t =>
    .ok (t.modHew h (fun x => x.setW wd (BitVec.ofNat 64 (laneOf (x.getV va) w lane.val)))) []))

/-- An integer operation on every lane; lanes wrap and no flag changes (R315). -/
def State.vecInt (s : State) (h func : Nat) (small : Bool) (vd va vb : Nat) (op : Nat → Nat → Nat → Nat) : State :=
  let w := moveWidth small
  s.run h (preV (wReg 0x36 vd va vb func (b2n small)) [va, vb] [vd]) (fun t =>
    .ok (t.modHew h (fun x => x.setV vd (ofLanes w
      ((List.range (128 / w)).map (fun k => op w (laneOf (x.getV va) w k) (laneOf (x.getV vb) w k)))))) [])

/-- vadd on integer lanes (R315). -/
def execVadd (h : HewerId) (small : Bool) (vd va vb : RegNo) (s : State) : Host.Outcome State Fault Refusal :=
  done (s.vecInt h 0 small vd va vb (fun _ a b => a + b))

/-- vsub on integer lanes (R315). -/
def execVsub (h : HewerId) (small : Bool) (vd va vb : RegNo) (s : State) : Host.Outcome State Fault Refusal :=
  done (s.vecInt h 1 small vd va vb (fun w a b => a + 2 ^ w - b))

/-- vand on integer lanes (R315). -/
def execVand (h : HewerId) (small : Bool) (vd va vb : RegNo) (s : State) : Host.Outcome State Fault Refusal :=
  done (s.vecInt h 2 small vd va vb (fun _ a b => a &&& b))

/-- vor on integer lanes (R315). -/
def execVor (h : HewerId) (small : Bool) (vd va vb : RegNo) (s : State) : Host.Outcome State Fault Refusal :=
  done (s.vecInt h 3 small vd va vb (fun _ a b => a ||| b))

/-- vxor on integer lanes (R315). -/
def execVxor (h : HewerId) (small : Bool) (vd va vb : RegNo) (s : State) : Host.Outcome State Fault Refusal :=
  done (s.vecInt h 4 small vd va vb (fun _ a b => a ^^^ b))

end Sys2Proof.Machine
end

