-- ==== Sys2Proof/Machine/Custom.lean ====
section
/-!
DEFINITION. The custom decode table and its microcode (R375 to R400): decoding and running a customer instruction, and
the writes to the table and the store.
-/
namespace Sys2Proof.Machine

/-! ### Copies of table and store (R375, R376, R394) -/

/-- A write reaches the master copy. -/
def CdtState.put (c : CdtState) (w : CdtWrite) : CdtState :=
  match w with
  | .word a v => { c with words := c.words.set 0 a v }
  | .entry n v => { c with entries := c.entries.set 0 n v }

/-- The entry that hewer `h` decodes index `n` with: its copy's, or one that its instructions may still be decoded under (R396, log 3). -/
def State.cdtEntry (s : State) (h n : Nat) : State × Nat :=
  let now := (s.twin (s.twinOf h)).cdtE.get 0 n
  match ((s.hew h).cdtOld.filter (fun e => e.1 = n)).map Prod.snd with
  | [] => (s, now.toNat)
  | l =>
    let c := now :: l
    ({ s with freeCtr := s.freeCtr + 1 }, (c.getD (Config.cdtChoice s.freeCtr (512 + h) % c.length) now).toNat)

/-! ### Decoding (R378 to R381) -/

def entryV (e : Nat) : Bool := bitOf e 63
def entryUok (e : Nat) : Bool := bitOf e 62
def entryDk (e : Nat) : Nat := bitsOf e 61 60
def entryAk (e : Nat) : Nat := bitsOf e 59 58
def entryBk (e : Nat) : Nat := bitsOf e 57 56
def entryMem (e : Nat) : Bool := bitOf e 55
def entryLen (e : Nat) : Nat := bitsOf e 23 12
def entryStart (e : Nat) : Nat := bitsOf e 11 0

/-- The decode cause of a customer instruction (R378): the first check that fails. -/
def customBad (grpEn index pl e rd ra rb : Nat) : Option Nat :=
  if !(grpEn.testBit (index / 16)) || !(entryV e) then some 0x01
  else if pl = 0 && !(entryUok e) then some 0x02
  else if (entryDk e = 0 && rd != 0) || (entryAk e = 0 && ra != 0) || (entryBk e = 0 && rb != 0) then some 0x01
  else none

/-! ### Microcode (R382 to R386) -/

/-- The operand with a code (R384); none for A or B when the instruction has none. -/
def Micro.operand (m : Micro) (imm : Nat) (code : Nat) : Option Nat :=
  match code with
  | 8 => m.a
  | 9 => m.b
  | 10 => some (m.regs.get 0 8)
  | 11 => some m.f
  | 12 => some imm
  | 13 => some 0
  | _ => some (m.regs.get 0 code)

/-- Is a micro-operation defined (R385)? -/
def uopDefined (u : Nat) : Bool :=
  (decide (1 ≤ u) && decide (u ≤ 0x0E)) || (decide (0x10 ≤ u) && decide (u ≤ 0x18)) || u = 0x20 || u = 0x21 || u = 0x30 || u = 0x31

/-- Does the micro-operation write DST? -/
def uopWrites (u : Nat) : Bool := !(u = 0x0E || u = 0x16 || decide (0x21 ≤ u))

/-- How many of SRC1 to SRC3 the micro-operation reads. -/
def uopSources (u : Nat) : Nat :=
  if u = 0x13 then 3 else if u = 0x17 || u = 0x18 || u = 0x20 then 1 else if u = 0x30 || u = 0x31 then 0 else 2

/-- Bytes of LD and ST by WIDTH (R385). -/
def widthBytes (w : Nat) : Nat := if w = 1 || w = 3 then 4 else if w = 4 || w = 5 then 16 else 8

/-- An integer result at width `n` with the flags of its class. -/
def intFlags (n : Nat) (r : Nat) (c v : Bool) : Nat × Nat :=
  let x := r % 2 ^ n
  (x, nzcvOf (x.testBit (n - 1)) (x = 0) c v)

/-- The integer micro-operations of WIDTH 0 and 1 (R385): the result, with new micro flags where they are set. -/
def intUop (n u a b : Nat) : Nat × Option Nat :=
  let x := a % 2 ^ n
  let y := b % 2 ^ n
  let sx := signedOf n a
  let sy := signedOf n b
  let out := fun (i : Int) => decide (i < -(2 ^ (n - 1) : Nat)) || decide ((2 ^ (n - 1) : Nat) ≤ i)
  let k := b % 64
  match u with
  | 0x01 =>
    let r := intFlags n (x + y) (decide (2 ^ n ≤ x + y)) (out (sx + sy))
    (r.1, some r.2)
  | 0x02 =>
    let r := intFlags n (x + 2 ^ n - y) (decide (y ≤ x)) (out (sx - sy))
    (r.1, some r.2)
  | 0x0E =>
    let r := intFlags n (x + 2 ^ n - y) (decide (y ≤ x)) (out (sx - sy))
    (r.1, some r.2)
  | 0x06 => (x * 2 ^ k % 2 ^ n, none)
  | 0x07 => (x / 2 ^ k, none)
  | 0x08 => (codeOf n (sx / (2 ^ k : Nat)), none)
  | 0x09 => (x * y % 2 ^ n, none)
  | 0x0A => (codeOf n (sx * sy / (2 ^ n : Nat)), none)
  | 0x0B => (if sx ≤ sy then x else y, none)
  | _ => (if sx ≤ sy then y else x, none)

/-- The FP form of WIDTH 2 to 5. -/
def widthForm (w : Nat) : FpForm := ⟨w = 3 || w = 5, decide (4 ≤ w)⟩

/-- One lane of the FP arithmetic micro-operations (R385, R386). -/
def fpUopLane (m : FpFmt) (rm : RoundMode) (u a b c : Nat) : FpRes :=
  let d := fpDecode m
  match u with
  | 0x10 => fpAdd m rm (d a) (d b)
  | 0x11 => fpSub m rm (d a) (d b)
  | 0x12 => fpMul m rm (d a) (d b)
  | 0x13 => fpFma m rm (d a) (d b) (d c)
  | 0x14 => fpMinMax m false a b
  | _ => fpMinMax m true a b

/-- The lanes of an FP micro-operation: the result and every exception raised. -/
def fpUop (f : FpForm) (rm : RoundMode) (u a b c : Nat) : Nat × Nat :=
  let m := fmtOf f.single
  let lane := fun (v k : Nat) => bitsOf v (m.width * k + m.width - 1) (m.width * k)
  let l := (List.range (laneCount f)).map (fun k => fpUopLane m rm u (lane a k) (lane b k) (lane c k))
  ((ofLanes m.width (l.map FpRes.bits)).toNat, allFlags l)

/-- How one micro-operation ends. -/
inductive MicroStep where
  | next (s : State) (m : Micro) (skip : Nat)
  | exc (s : State) (m : Micro) (e : Exc)
  /-- the host has not answered: the instruction goes on from this word -/
  | held (s : State) (m : Micro)
  /-- a comparator halts the hewer before the instruction has any effect (R786) -/
  | stopped (s : State)

/-- Exception 0x15 of a word (R391). -/
def microFault (reason addr imm : Nat) : Exc :=
  mkExc 0x15 ((if reason = 7 then imm % 256 * 2 ^ 24 else 0) + reason * 2 ^ 16 + addr)

/-- Write DST. -/
def Micro.put (m : Micro) (dst v : Nat) : Micro := { m with regs := m.regs.set 0 dst (v % 2 ^ 128) }

/-- The result of FP exceptions: noted, and raised where PSTAT.FE enables them (R386). -/
def State.microFp (s : State) (h : Nat) (m : Micro) (flags : Nat) : MicroStep :=
  let fe := (s.hew h).fe
  if fe &&& flags != 0 then .exc s { m with fx := flags } (mkExc 0x16 (fe &&& flags))
  else .next s { m with fx := m.fx ||| flags } 0

/-- A micro-operation at a WIDTH at which the spec states no result: the destination and the flags are free values. -/
def State.microFree (s : State) (m : Micro) (u dst : Nat) : MicroStep :=
  let d := s.draw
  let m1 := if uopWrites u then m.put dst d.1 else m
  .next d.2 (if u = 0x01 || u = 0x02 || u = 0x0E || u = 0x16 then { m1 with flags := d.1 / 2 ^ 128 % 16 } else m1) 0

/-- Arithmetic, logic and conversion micro-operations (R385, R386). -/
def State.microAlu (s : State) (h : Nat) (m : Micro) (u w dst cond a b c : Nat) : MicroStep :=
  let size := if w = 1 || w = 3 then 32 else if w ≤ 3 then 64 else 128
  let bitwise := fun (r : Nat) => MicroStep.next s (m.put dst (r % 2 ^ size)) 0
  let rm := (s.hew h).rm
  match u with
  | 0x03 => bitwise (a &&& b)
  | 0x04 => bitwise (a ||| b)
  | 0x05 => bitwise (a ^^^ b)
  | 0x0D => bitwise (if condHolds cond m.flags then a else b)
  | _ =>
    if u < 0x10 then
      if 1 < w then s.microFree m u dst
      else
        let r := intUop size u a b
        let m1 := match r.2 with | some f => { m with flags := f } | none => m
        .next s (if uopWrites u then m1.put dst r.1 else m1) 0
    else if w < 2 then s.microFree m u dst
    else
      let f := widthForm w
      let fmt := fmtOf f.single
      if u ≤ 0x15 then
        let r := fpUop f rm u a b c
        s.microFp h (m.put dst r.1) r.2
      else if f.vector then s.microFree m u dst
      else if u = 0x16 then
        let r := fpCompare fmt false (a % 2 ^ fmt.width) (b % 2 ^ fmt.width)
        s.microFp h { m with flags := r.1 } r.2
      else if u = 0x17 then
        let r := fpToInt rm true (fpDecode fmt (a % 2 ^ fmt.width))
        s.microFp h (m.put dst r.bits) r.flags
      else
        let r := fpFromInt fmt rm (signedOf 64 a)
        s.microFp h (m.put dst r.bits) r.flags

/-- An access of a micro-operation: translated and judged as a load or a store is (R389). -/
def State.microAccess (s : State) (h : Nat) (k : AccKind) (m : Micro) (ea n : Nat) (items : List CmpItem)
    (f : State → List Piece → MicroStep) : MicroStep :=
  let a := s.access h k ea n
  match a.r with
  | .error e => .exc a.s m e
  | .ok l =>
    let c := a.s.cmpPoint h items
    match c.2 with
    | .exception v => .exc c.1 m (mkExc 0x12 v)
    | .halt => .stopped (c.1.modHew h Hewer.abandon)
    | .goOn => f c.1 l

/-- LD and ST (R385, R389, R390). -/
def State.microMem (s : State) (h : Nat) (m : Micro) (mem : Bool) (u w dst addr a b imm : Nat) : MicroStep :=
  let n := widthBytes w
  let ea := (a + imm) % 2 ^ 64
  if !mem then .exc s m (microFault 2 addr 0)
  else if ea % n != 0 then .exc s m (microFault 3 addr 0)
  else if u = 0x20 then
    s.microAccess h .load m ea n (s.dataItems h [1, 3] ea n) (fun t l =>
      let g := t.loadPieces h l
      match g.2 with
      | .wait => .held g.1 m
      | .data _ true _ => .exc g.1 m (mkExc 0x0D (poisonEval ea))
      | .data d false _ => .next g.1 (m.put dst (natLE d)) 0)
  else if 4 ≤ m.stores.length then .exc s m (microFault 4 addr 0)
  else
    let d := bytesLE n b
    s.microAccess h .store m ea n (s.dataItems h [2, 3] ea n ++ [valueItem 5 (natLE d % 2 ^ 64)]) (fun t l =>
      .next t { m with stores := m.stores ++ [(l, d)] } 0)

/-- Execute one microcode word; `left` is the number of words after it (R383 to R391). -/
def State.microWord (s : State) (h : Nat) (m : Micro) (e addr left v : Nat) : MicroStep :=
  let u := bitsOf v 63 56
  let dst := bitsOf v 55 52
  let s1 := bitsOf v 51 48
  let s2 := bitsOf v 47 44
  let s3 := bitsOf v 43 40
  let cond := bitsOf v 39 36
  let w := bitsOf v 35 33
  let imm := codeOf 64 (signedOf 32 (bitsOf v 31 0))
  let n := uopSources u
  let a := m.operand imm s1
  let b := m.operand imm s2
  let c := m.operand imm s3
  if !(uopDefined u) || 8 < dst || 13 < s1 || 13 < s2 || 13 < s3 || 5 < w || bitOf v 32 then .exc s m (microFault 1 addr 0)
  else if (1 ≤ n && a.isNone) || (2 ≤ n && b.isNone) || (3 ≤ n && c.isNone) || (uopWrites u && dst = 8 && entryDk e = 0) then
    .exc s m (microFault 5 addr 0)
  else if u = 0x31 then .exc s m (microFault 7 addr (imm % 256))
  else if u = 0x30 then
    if !(condHolds cond m.flags) then .next s m 0
    else if left < imm % 256 then .exc s m (microFault 6 addr 0)
    else .next s m (imm % 256)
  else if u = 0x20 || u = 0x21 then
    s.microMem h m (entryMem e) u w dst addr (a.getD 0 % 2 ^ 64) (b.getD 0) imm
  else s.microAlu h m u w dst cond (a.getD 0) (b.getD 0) (c.getD 0)

/-- What a word answers, followed by `f` where the program goes on. -/
def MicroStep.andThen (r : MicroStep) (f : State → Micro → Nat → MicroStep) : MicroStep :=
  match r with
  | .next t m j => f t m j
  | .exc t m x => .exc t m x
  | .held t m => .held t m
  | .stopped t => .stopped t

/-- Execute `n` words from address `addr` on; `skip` of them are skipped first (R387). Each word is read from the copy when it executes
(R396). -/
def State.microRun (s : State) (h : Nat) (m : Micro) (n addr skip : Nat) : MicroStep :=
  match n with
  | 0 => .next s m 0
  | k + 1 =>
    if skip != 0 then s.microRun h m k (addr + 1) (skip - 1)
    else
      let t := s.cdtDrift h
      let v := ((t.twin (t.twinOf h)).cdtW.get 0 addr).toNat
      (t.microWord h { m with addr := addr, left := k + 1 } m.entry addr k v).andThen
        (fun t m1 j => t.microRun h m1 k (addr + 1) j)

/-- Perform the held stores, in word order (R390). -/
def State.microStores (s : State) (h : Nat) (l : List (List Piece × List Byte)) : State :=
  match l with
  | [] => s
  | d :: rest => (s.storePieces h d.1 d.2).microStores h rest

/-- An operand register by its kind (R379). -/
def Hewer.byKind (x : Hewer) (kind r : Nat) : Option Nat :=
  match kind with
  | 1 => some (x.getW r).toNat
  | 2 => some (x.getV r).toNat
  | _ => none

/-- The destination by its kind (R379, R384). -/
def Hewer.putKind (x : Hewer) (kind r v : Nat) : Hewer :=
  match kind with
  | 1 => x.setW r (BitVec.ofNat 64 v)
  | 2 => x.setV r (BitVec.ofNat 128 v)
  | _ => x

/-- Add FP exceptions to PSTAT.FX. -/
def Hewer.addFx (x : Hewer) (fx : Nat) : Hewer := x.setPsf 36 32 (x.fx ||| fx)

/-- The effect of a customer instruction from where it stands (R387 to R391): one that raises an exception writes nothing, but 0x16
leaves its own flags in PSTAT.FX (R236). -/
def State.customStep (s : State) (h : Nat) (m : Micro) (rd : Nat) : Step :=
  match s.microRun h m m.left m.addr 0 with
  | .held t m1 => .held (t.modHew h (fun y => { y with micro := some m1 }))
  | .stopped t => .held t
  | .exc t m1 ex => .exc (if ex.code = 0x16 then t.modHew h (fun y => y.addFx m1.fx) else t) ex
  | .next t m1 _ =>
    .ok ((t.microStores h m1.stores).modHew h (fun y => (y.addFx m1.fx).putKind (entryDk m.entry) rd (m1.regs.get 0 8))) []

/-- The registers of a kind, for the frame. -/
def kindRegs (want kind r : Nat) : List Nat := if kind = want then [r] else []

/-- The private operands at the start of a customer instruction (R382). -/
def Hewer.microStart (x : Hewer) (word e ra rb func : Nat) : Micro :=
  ⟨word, e, x.byKind (entryAk e) ra, x.byKind (entryBk e) rb, func, [], 0, 0, [], entryStart e, entryLen e⟩

/-- Decode a customer instruction: under the entry it holds since it passed DE, or under one read now (R378, R396). -/
def State.customDecode (s : State) (h word index : Nat) : State × Nat :=
  match (s.hew h).micro with
  | some m => if m.word = word then (s, m.entry) else (s.cdtDrift h).cdtEntry h index
  | none => (s.cdtDrift h).cdtEntry h index

/-- A customer instruction (R330, R331, R378 to R392), a long operation. -/
def execCustomerInstruction (h : HewerId) (index : Fin 64) (rd ra rb : RegNo) (func : Fin 64) (s : State) :
    Host.Outcome State Fault Refusal :=
  let word := wReg (0x7C + index.val / 16) rd.val ra.val rb.val func.val (index.val % 16)
  let d := s.customDecode h word index.val
  let e := d.2
  let grp := (d.1.ctlSeen h .cdtctl).toNat
  let bad := customBad grp index.val (s.hew h).pl e rd.val ra.val rb.val
  let src := fun (k : Nat) => kindRegs k (entryAk e) ra.val ++ kindRegs k (entryBk e) rb.val
  done (d.1.runLong h ⟨word, src 1, src 2, kindRegs 1 (entryDk e) rd.val, kindRegs 2 (entryDk e) rd.val, bad, 0⟩
    (fun t =>
      let fresh := (t.hew h).microStart word e ra.val rb.val func.val
      t.customStep h (match (t.hew h).micro with | some m => if m.word = word then m else fresh | none => fresh) rd.val))

/-! ### Writing the table and the store (R393 to R396) -/

/-- The hub accepts a write into the master copy and broadcasts it (R394). -/
def State.cdtAccept (s : State) (w : CdtWrite) : State :=
  let s1 := { s with cdt := { s.cdt.put w with inFlight := s.cdt.inFlight ++ [w] } }
  (s1.setFld F.CFG_CDT_STATUS.GEN (s.fld F.CFG_CDT_STATUS.GEN + 1)).setFld F.CFG_CDT_STATUS.BUSY 1

/-- CFG_CDT_WORD: the word that ADDR names is written; ADDR increments where INC is 1 (R394). -/
def State.cdtWordWrite (s : State) (v : Word) : State :=
  let a := s.fld F.CFG_CDT_INDEX.ADDR
  let s1 := s.cdtAccept (.word a v)
  if s.flag F.CFG_CDT_INDEX.INC then s1.setFld F.CFG_CDT_INDEX.ADDR (a + 1) else s1

/-- Does the hub refuse an entry (R395)? -/
def entryRefused (v : Nat) : Bool :=
  entryV v && (entryLen v = 0 || 256 < entryLen v || 4096 < entryStart v + entryLen v || entryDk v = 3 || entryAk v = 3
    || entryBk v = 3 || bitsOf v 54 24 != 0)

/-- CFG_CDT_ENTRYn (R394, R395); reserved bits of an invalid entry read 0. -/
def State.cdtEntryWrite (s : State) (n : Nat) (v : Word) : State :=
  if entryRefused v.toNat then s.raise F.CFG_CDT_STATUS.REJ
  else s.cdtAccept (.entry n (BitVec.ofNat 64 (setBits v.toNat 54 24 0)))

/-- The oldest write in flight has reached a twin's copy, there at the latest now (R394). -/
def Twin.cdtArrived (t : Twin) (w : CdtWrite) : Twin :=
  if t.cdtSeen = 0 then t.cdtTake w else { t with cdtSeen := t.cdtSeen - 1 }

/-- CDT_BROADCAST_COMPLETE: the oldest write in flight has reached every copy (R394). -/
def State.cdtBroadcastDone (s : State) : State :=
  match s.cdt.inFlight with
  | [] => s
  | w :: rest =>
    let left := s.mapHewers (fun h x =>
      let t := s.twin (s.twinOf h)
      if t.cdtSeen = 0 then { x with cdtOld := t.cdtLeaves w ++ x.cdtOld } else x)
    let s1 := { left with cdt := { s.cdt with inFlight := rest } }.mapTwins (fun t => t.cdtArrived w)
    if rest.isEmpty then s1.setFld F.CFG_CDT_STATUS.BUSY 0 else s1

/-- A codeword of twin `t`'s copy is taken again from the master: four entries for `k` below 16, else four words (R376, R377). -/
def State.cdtRetake (s : State) (t k : Nat) : State :=
  s.modTwin t (fun x => (List.range 4).foldl (fun x i =>
    if k < 16 then { x with cdtE := x.cdtE.set 0 (4 * k + i) (s.cdt.entries.get 0 (4 * k + i)) }
    else { x with cdtW := x.cdtW.set 0 (4 * (k - 16) + i) (s.cdt.words.get 0 (4 * (k - 16) + i)) }) x)

/-- CDT_BROADCAST_COMPLETE (R394). -/
def execCdtBroadcastComplete (s : State) : Host.Outcome State Fault Refusal := done s.cdtBroadcastDone

end Sys2Proof.Machine
end

