-- ==== Sys2Proof/Machine/Pins.lean ====
section
/-!
DEFINITION. The anemometer's output pins (R671, R680 to R683): their registers and what a mode does to them.
-/
namespace Sys2Proof.Machine

def State.pin (s : State) (o : Nat) : OutPin := s.anm.outs.get OutPin.reset o
def State.setPin (s : State) (o : Nat) (x : OutPin) : State :=
  { s with anm := { s.anm with outs := s.anm.outs.set OutPin.reset o x } }

/-- Is output `o` in use: EN, and DIR for a digital pin? -/
def State.outEn (s : State) (o : Nat) : Bool :=
  s.domainOn 8 &&
  (if o < 8 then s.flag (F.ANM_AOUT_CFG.EN o)
  else if o < 16 then s.flag (F.ANM_PWM_CFG.EN (o - 8))
  else s.flag (F.ANM_DIO_CFG.EN (o - 16)) && s.flag (F.ANM_DIO_CFG.DIR (o - 16)))

/-- BADQ of output `o`. -/
def State.outBadq (s : State) (o : Nat) : Bool :=
  if o < 8 then s.flag (F.ANM_AOUT_CFG.BADQ o)
  else if o < 16 then s.flag (F.ANM_PWM_CFG.BADQ (o - 8)) else s.flag (F.ANM_DIO_CFG.BADQ (o - 16))

/-- SAFE_EN of output `o`. -/
def State.outSafeEn (s : State) (o : Nat) : Bool :=
  if o < 8 then s.flag (F.ANM_AOUT_CFG.SAFE_EN o)
  else if o < 16 then s.flag (F.ANM_PWM_CFG.SAFE_EN (o - 8)) else s.flag (F.ANM_DIO_CFG.SAFE_EN (o - 16))

/-- The safe value of output `o`. -/
def State.outSafe (s : State) (o : Nat) : Nat :=
  if o < 8 then s.fld (F.ANM_AOUT_SAFE.CODE o)
  else if o < 16 then s.fld (F.ANM_PWM_SAFE.CYCLES (o - 8)) else s.fld (F.ANM_DIO_CFG.SAFE (o - 16))

/-- The slot of output `o`. -/
def State.outSlot (s : State) (o : Nat) : Nat :=
  if o < 8 then s.fld (F.ANM_AOUT_CFG.SLOT o)
  else if o < 16 then s.fld (F.ANM_PWM_CFG.SLOT (o - 8)) else s.fld (F.ANM_DIO_SLOT.SLOT (o - 16))

/-- Output `o` becomes high-impedance. -/
def State.pinOff (s : State) (o : Nat) : State := s.setPin o { s.pin o with driven := false }

/-- Output `o` in SAFE HOLD (R682). -/
def State.pinSafe (s : State) (o : Nat) : State :=
  if s.outEn o && s.outSafeEn o then s.setPin o { s.pin o with code := s.outSafe o, driven := true } else s.pinOff o

/-- What a change to a mode does to every output pin (R682, R683). -/
def State.pinsTo (s : State) (m : Mode) : State :=
  match m with
  | .run => s
  | .degraded => s
  | .maintenance => s
  | .safeHold => (List.range 48).foldl State.pinSafe s
  | _ => (List.range 48).foldl State.pinOff s

/-- A pin that its registers have taken out of use becomes high-impedance at once (R682, R684). -/
def State.pinCheck (s : State) (o : Nat) : State := if s.outEn o then s else s.pinOff o

end Sys2Proof.Machine
end

