-- ==== Sys2Proof/Machine/Modes.lean ====
section
/-!
DEFINITION. The operating modes (R736 to R747, R700, R702, R839): what a change of mode does, the changes that the block
makes by itself, requests, and the forced entry to M.
-/
namespace Sys2Proof.Machine

/-- Is the mode one of CONFIGURE, SELF-TEST and SAFE HOLD (R258, R737)? -/
def Mode.banked (m : Mode) : Bool :=
  match m with
  | .configure => true | .selfTest => true | .safeHold => true
  | _ => false

/-- Is the mode in force one of CONFIGURE, SELF-TEST and SAFE HOLD? -/
def State.bankedMode (s : State) : Bool := s.mode.banked

/-- Does a mode hold the device canary (R466)? -/
def Mode.holdsCanary (m : Mode) : Bool :=
  match m with
  | .standby => false | .run => false | .degraded => false
  | _ => true

def State.devCanaryHeld (s : State) : Bool := s.mode.holdsCanary

/-- Is the device in service: STANDBY, RUN or DEGRADED? -/
def Mode.service (m : Mode) : Bool := !m.holdsCanary

/-- FLT_STATUS.DEG: any cause of R700 is set. -/
def State.deg (s : State) : Bool :=
  s.flag F.FLT_STATUS.PARTNER_LOST || s.flag F.FLT_STATUS.SHAFT_OFF || s.flag F.FLT_STATUS.GALLERY_LOST
  || s.flag F.FLT_STATUS.HEWER_REMOVED

/-- RUN, or DEGRADED while DEG is 1 (R700, R744). -/
def State.liveMode (s : State) : Mode := if s.deg then .degraded else .run

/-- The device canary is reloaded (R457, R467, R468). -/
def State.devReload (s : State) : State :=
  let t := s.fld F.CAN_DEV_CTL.TIMEOUT
  { s.setFld F.CAN_DEV_STAT.REMAIN t with can := { s.can with timeout := t, warnDue := false, due := false } }

/-- Every hewer that is neither removed nor check-stopped owes a forced M entry (R737). -/
def State.forceHewers (s : State) : State :=
  s.mapHewers (fun h x => if x.started && !x.checkStopped && !(s.removed h) then { x with forced := true } else x)

/-- A change of mode (R742): it is logged, cancels a waiting RUN decision (R839), discards the activations on entry to SAFE
HOLD (R151, R231), reloads the device canary (R467) and forces the hewers into M (R737). -/
def State.toMode (s : State) (new : Mode) : State :=
  let old := s.mode
  if old = new then s
  else
    let s1 := (s.setFld F.CFG_MODE.CUR new.code).setFld F.CFG_MODE.ROLE_WAIT 0
    let s2 := s1.log 0xF00 0x13 0 0 0 (old.code * 2 ^ 40 + new.code * 2 ^ 32 + s1.fld F.FLT_STATUS.SAFE_CAUSE * 2 ^ 24)
    let s3 := (if new = .safeHold then s2.discardAll else s2).pinsTo new
    let s4 := if old.holdsCanary && !new.holdsCanary then s3.devReload else s3
    if new.banked then s4.forceHewers else s4

/-- A cause of R702, as far as R746 lets it act in the mode in force. -/
def State.safeHold (s : State) (cause : Nat) : State :=
  if s.mode = .off || s.mode = .safeHold then s
  else if (cause = 1 || cause = 4) && !s.mode.service then s
  else (s.setFld F.FLT_STATUS.SAFE_CAUSE cause).toMode .safeHold

/-- Is any gallery in the dispatch pool (R183)? -/
def State.poolLeft (s : State) : Bool := (List.range 64).any s.galleryInPool

/-- DEG as it reads follows its causes (R700). -/
def State.setDeg (s : State) : State := s.setFld F.FLT_STATUS.DEG (b2n s.deg)

/-- The changes that the block makes by itself, in the order of R747: no gallery left (R702), then a change of DEG (R746). -/
def State.settle (s : State) : State :=
  let s1 := s.setDeg
  if s1.mode.service && !s1.poolLeft then s1.safeHold 4
  else if s1.mode = .run && s1.deg then s1.toMode .degraded
  else if s1.mode = .degraded && !s1.deg then s1.toMode .run
  else s1

/-! ### Requests (R740, R743 to R745) -/

/-- A request is refused. -/
def State.refuseMode (s : State) : State := s.raise F.CFG_MODE.REQ_REJ

/-- Has the image been applied without a failure? -/
def State.bootDone (s : State) : Bool := s.flag F.CFG_BOOT_STATUS.DONE && s.fld F.CFG_BOOT_STATUS.ERR = 0

/-- The decision of a request that names RUN (R744). -/
def State.decideRun (s : State) : State :=
  let s1 := s.setFld F.CFG_MODE.ROLE_WAIT 0
  let m := Mode.ofCode s.flt.peerMode
  let peer := s.flag F.PLK_PARTNER_STAT.SEEN
  let standby := peer && (m = .run || m = .degraded || (m = .standby && s.devnum % 2 = 1))
  (s1.toMode (if standby then .standby else s1.liveMode)).settle

/-- Can the decision be made now (R744)? -/
def State.roleKnown (s : State) : Bool :=
  !(s.flag F.FLT_PARTNER.EN) || s.flag F.PLK_PARTNER_STAT.SEEN || s.flag F.PLK_PARTNER_STAT.LOST

/-- A request that names RUN, from a mode that allows it (R744, R745). -/
def State.enterService (s : State) : State :=
  if s.flag F.CFG_MODE.ROLE_WAIT then s.refuseMode
  else if !(s.flag F.FLT_PARTNER.EN) then (s.toMode s.liveMode).settle
  else if s.roleKnown then s.decideRun
  else s.raise F.CFG_MODE.ROLE_WAIT

/-- May SAFE HOLD be left for CONFIGURE (R743)? -/
def State.mayConfigure (s : State) : Bool :=
  s.pwr.pllLocked && !(s.flag F.CAN_DEV_STAT.EXPIRED) && s.fld F.FLT_STATUS.SAFE_CAUSE != 3

/-- A request with GO 1 (R740, R743). -/
def State.requestMode (s : State) (req : Mode) : State :=
  let fatal := s.flag F.CFG_ST_RESULT.FATAL && (req = .run || req = .standby)
  if fatal then s.refuseMode
  else match s.mode, req with
    | .configure, .selfTest => if s.bootDone then s.toMode .selfTest else s.refuseMode
    | .configure, .run => if s.bootDone then s.enterService else s.refuseMode
    | .configure, .standby => if s.bootDone then (s.toMode .standby).settle else s.refuseMode
    | .standby, .maintenance => s.toMode .maintenance
    | .run, .maintenance => s.toMode .maintenance
    | .degraded, .maintenance => s.toMode .maintenance
    | .maintenance, .run => s.enterService
    | .maintenance, .standby => (s.toMode .standby).settle
    | .standby, .safeHold => s.safeHold 5
    | .run, .safeHold => s.safeHold 5
    | .degraded, .safeHold => s.safeHold 5
    | .maintenance, .safeHold => s.safeHold 5
    | .safeHold, .configure => if s.mayConfigure then s.toMode .configure else s.refuseMode
    | _, _ => s.refuseMode

/-- A write of CFG_MODE by M (R743). -/
def State.modeWrite (s : State) (v : Nat) : State :=
  let s1 := s.setFld F.CFG_MODE.REQ (bitsOf v 6 4)
  let s2 := if bitOf v 31 then s1.setFld F.CFG_MODE.REQ_REJ 0 else s1
  if bitOf v 7 then s2.requestMode (Mode.ofCode (bitsOf v 6 4)) else s2

/-- The word of a CFG_MODE write that requests a mode. -/
def modeWord (m : Mode) : Nat := 0x80 + m.code * 16

/-- M requests a mode, where CFG_MODE takes a write (R743, R838). -/
def State.modeCommand (s : State) (m : Mode) : State := if s.takesIo Adr.CFG_MODE then s.modeWrite (modeWord m) else s

/-- REQUEST_SELF_TEST (R743). -/
def execRequestSelfTest (s : State) : Host.Outcome State Fault Refusal := done (s.modeCommand .selfTest)
/-- REQUEST_RUN (R743, R744). -/
def execRequestRun (s : State) : Host.Outcome State Fault Refusal := done (s.modeCommand .run)
/-- REQUEST_STANDBY (R743). -/
def execRequestStandby (s : State) : Host.Outcome State Fault Refusal := done (s.modeCommand .standby)
/-- REQUEST_MAINTENANCE (R743). -/
def execRequestMaintenance (s : State) : Host.Outcome State Fault Refusal := done (s.modeCommand .maintenance)
/-- REQUEST_SAFE_HOLD (R743). -/
def execRequestSafeHold (s : State) : Host.Outcome State Fault Refusal := done (s.modeCommand .safeHold)
/-- REQUEST_CONFIGURE (R743). -/
def execRequestConfigure (s : State) : Host.Outcome State Fault Refusal := done (s.modeCommand .configure)

/-- RUN_DECISION: a waiting request is decided once the partner is seen or lost (R744). -/
def execRunDecision (s : State) : Host.Outcome State Fault Refusal :=
  done (if s.flag F.CFG_MODE.ROLE_WAIT && s.roleKnown then s.decideRun else s)

/-! ### The forced entry (R737) -/

/-- The thread that a body interrupted comes back before the entry (R231). -/
def State.settleThread (s : State) (h : Nat) : State :=
  let x := s.hew h
  if x.between && x.saved then s.restoreThread h else s

/-- Enter M in banked addressing at offset 0 of the boot ROM (R737). -/
def State.forcedEntry (s : State) (h : Nat) : State :=
  let s1 := (s.settleThread h).tally h 0x15
  let s2 := s1.enter h true true 0 (s1.hew h).excPc none (some 15)
  s2.modHew h (fun x => { x.setPsf 12 12 1 with bank := 0x0F2000000F200000, pc := 0, forced := false, between := false })

/-- FORCED_M_ENTRY of a hewer, at its next instruction boundary (R737). -/
def execForcedMEntry (h : HewerId) (s : State) : Host.Outcome State Fault Refusal :=
  done (if (s.hew h).forced && s.atBoundary h then s.forcedEntry h else s)

end Sys2Proof.Machine
end

