-- ==== Sys2Proof/Machine/Faults.lean ====
section
/-!
DEFINITION. The fault block's judgement and retirement (R687 to R701): windows, lasting units, twin substitution, removal
of hewers, ways, galleries, rows, links and the hub.
-/
namespace Sys2Proof.Machine

/-! ### Windows (R688, R690) -/

/-- Microseconds of a class's window. -/
def State.windowUs (s : State) (c : Nat) : Nat :=
  let n := s.fld (F.FLT_CLASS_WIN.HOURS c)
  (if n = 0 then 1 else n) * 3600000000

/-- Events that make a unit of a class lasting. -/
def State.windowThresh (s : State) (c : Nat) : Nat :=
  let n := s.fld (F.FLT_CLASS_WIN.THRESH c)
  if n = 0 then 1 else n

/-- The events of a unit that lie within its class's window, with one more now. -/
def State.windowAdd (s : State) (c : Nat) (l : List Nat) : List Nat :=
  s.time.us :: l.filter (fun t => decide (s.time.us < t + s.windowUs c))

/-- Does a unit with these events become lasting (R688)? -/
def State.isLasting (s : State) (c : Nat) (l : List Nat) : Bool := decide (s.windowThresh c ≤ l.length)

/-- A transient event is counted (FLT_COUNTS). -/
def State.countTransient (s : State) : State := s.count F.FLT_COUNTS.TRANSIENT 1

/-- A unit becomes lasting (FLT_COUNTS, R705). -/
def State.countLasting (s : State) : State :=
  let s1 := s.count F.FLT_COUNTS.LASTING 1
  { s1 with flt := { s1.flt with lasting := s1.flt.lasting + 1 } }

/-- Cut a number to 8 bits, saturating. -/
def sat8 (n : Nat) : Nat := if 255 < n then 255 else n

/-! ### Hewers and twins (R692 to R696) -/

/-- The first of the slots below `n` of gallery `g` that position `p` backs. -/
def State.slotOf (s : State) (g p n : Nat) : Option Nat :=
  match n with
  | 0 => none
  | k + 1 => match s.slotOf g p k with
    | some i => some i
    | none => if s.twinOf (g * 8 + k) = g * 9 + p then some k else none

/-- The hewer that twin `t` backs, one that the fault block has not removed. -/
def State.backedBy (s : State) (t : Nat) : Option Nat :=
  match s.slotOf (t / 9) (t % 9) 8 with
  | some k => if s.removed (t / 9 * 8 + k) then none else some (t / 9 * 8 + k)
  | none => none

/-- The source of records about twin `t` (R713). -/
def State.twinSource (s : State) (t : Nat) : Nat := (s.backedBy t).getD 0xF00

/-- Remove hewer `h` from dispatch (R695): what it has stored is performed, and its save area holds its thread while DRT_CTL.EN is 1. -/
def State.removeHewer (s : State) (h : Nat) : State :=
  let s0 := (s.sbFlush h).loseBody h
  let save := if !(s0.flag F.DRT_CTL.EN) then 3 else if (s0.hew h).saved then 1 else 2
  let s1 := if save = 2 then (s0.modHew h Hewer.landAll).saveThread h else s0
  let s2 := s1.modHew h (fun x =>
    { x with
      twinLost := false, substitute := none, removeDue := false, haltReq := none, forced := false, mcheck := false
      saved := save != 3 })
  let fl := F.FLT_GAL_MAP.REMOVED (h / 8)
  let s3 := (s2.setFld fl (setBits (s2.fld fl) (h % 8) (h % 8) 1)).leavePool h
  ((s3.log h 0x04 0 1 0 (unitDw3 (s.twinOf h) (save * 2 ^ 46))).raise F.FLT_STATUS.HEWER_REMOVED).settle

/-- Does the hewer stand at an instruction boundary, with every older access complete, or execute nothing at all? -/
def State.settled (s : State) (h : Nat) : Bool :=
  let x := s.hew h
  !(s.domainOn (shaftDomain h)) || !x.started || x.checkStopped
  || (x.unit.isNone && x.hostBuf.isEmpty && !x.waitsHost)

/-- Hewer `h` is removed at its next instruction boundary, which is now or TWIN_SUBSTITUTION (R695, R836). -/
def State.removeSoon (s : State) (h : Nat) : State :=
  if s.settled h then s.removeHewer h else s.modHew h (fun x => { x with removeDue := true })

/-- Twin `t` is retired. -/
def State.retireTwin (s : State) (t : Nat) : State :=
  { s with flt := { s.flt with retiredTwins := insertNat s.flt.retiredTwins t } }

/-- Is twin `t` in service? -/
def State.twinServes (s : State) (t : Nat) : Bool := !s.flt.retiredTwins.contains t && !(s.galleryLost (t / 9))

/-- The last agreed state of a hewer whose instruction did not settle: a delay slot goes back to its transfer instruction, and what the
instruction had obtained is given up (R292, R374, R694). -/
def Hewer.replayed (x : Hewer) : Hewer :=
  let y := { x.undoUnit with hostBuf := [], micro := none }
  match x.unit with
  | some u => { y with pc := u.addr, unit := none }
  | none => y

/-- Is twin `t`, which is retired, still the twin of a hewer that waits for its substitution (R693, R696)? -/
def State.substituting (s : State) (t : Nat) : Bool :=
  match s.backedBy t with
  | some h => decide ((s.hew h).substitute = some t)
  | none => false

/-- An instruction of hewer `h` does not settle: the hewer is lost to its activation until the spare takes it over (R689, R694). -/
def State.unsettled (s : State) (h : Nat) : State :=
  (((s.modHew h (fun x => { x with twinLost := true })).loseBody h).leavePool h).settle

/-- Twin `t` becomes lasting; `unsettled` says that replay could not settle a failure (R689, R692 to R695). -/
def State.twinLasting (s : State) (t : Nat) (unsettled : Bool) : State :=
  let g := t / 9
  if !(s.twinServes t) then
    match s.backedBy t with
    | some h => if unsettled && s.substituting t then s.unsettled h else s
    | none => s
  else
    let s1 := s.countLasting.retireTwin t
    match s.backedBy t with
    | none => (s1.setFld (F.FLT_GAL_MAP.SPARE_OK g) 0).log 0xF00 0x01 0 1 0 (unitDw3 t 0)
    | some h =>
      if s.flag (F.FLT_GAL_MAP.SPARE_OK g) then
        let s2 := (s1.setFld (F.FLT_GAL_MAP.SPARE_OK g) 0).modHew h (fun x => { x with substitute := some t })
        if unsettled then s2.unsettled h else s2
      else if unsettled then (s1.modHew h Hewer.replayed).removeHewer h
      else s1.removeSoon h

/-- An event of a twin is counted and logged (R687, R688), during a substitution too (R696). -/
def State.twinEvent (s : State) (t kind : Nat) : State :=
  if !(s.twinServes t) && !(s.substituting t) then s
  else
    let l := s.windowAdd 0 (s.flt.twinEvents.get [] t)
    let s1 := s.countTransient
    let s2 := { s1 with flt := { s1.flt with twinEvents := s1.flt.twinEvents.set [] t l } }
    let s3 := s2.log (s.twinSource t) 0x01 0 1 0 (unitDw3 t (sat8 l.length * 2 ^ 40 + kind * 2 ^ 32))
    if s.isLasting 0 l then s3.twinLasting t false else s3

/-- Count `n` events of one kind on a twin. -/
def State.twinEvents (s : State) (t kind n : Nat) : State :=
  match n with
  | 0 => s
  | k + 1 => (s.twinEvent t kind).twinEvents t kind k

/-- Is hewer `h` executing, so that its twin compares? -/
def State.compares (s : State) (h : Nat) : Bool :=
  let x := s.hew h
  s.pwr.pllLocked && s.domainOn (shaftDomain h) && x.started && !x.checkStopped && !(s.removed h) && !x.twinLost

/-- Tally counts `n` replays of a hewer (R797). -/
def State.tallyReplay (s : State) (h n : Nat) : State := (s.noteEvent h 0x013).tallyFrom h 0x013 n 8 0

/-- Compare failures of one instruction of hewer `h`: `failures` of them, kind 1 for the lockstep compare, 2 for L1, 3 for
the register file, 4 for the decode table; a third compare failure is not settled (R350 to R353). A customer instruction in hand is
replayed from its start (R392). With kind 4 the codeword, which the command does not name and a free value gives, is taken again from the
master copy (R377, log 48). -/
def State.compareFailure (s : State) (h kind failures : Nat) : State :=
  if !(s.compares h) then s
  else
    let t := s.twinOf h
    let s0 := s.modHew h (fun x => { x with micro := none })
    let d := s0.draw
    if kind = 2 then (s0.tallyReplay h 1).twinEvent t kind
    else if kind = 4 then ((d.2.cdtRetake t (d.1 % 1040)).tallyReplay h 1).twinEvent t kind
    else if failures < 3 then (s0.tallyReplay h failures).twinEvents t kind failures
    else
      let body := (s.hew h).body.getD 0xFFFF
      ((s0.tallyReplay h 2).log h 0x02 0 1 0 (unitDw3 t (body * 2 ^ 32))).twinLasting t true

/-- TWIN_COMPARE_FAILURE (R350 to R353, R689). -/
def execTwinCompareFailure (h : HewerId) (kind : Fin 4) (failures : Fin 3) (s : State) : Host.Outcome State Fault Refusal :=
  done (s.compareFailure h (kind + 1) (failures + 1))

/-- The twin powers down: dirty lines of its L1 D go to the L2, and nothing of it is left (R692). -/
def State.twinDown (s : State) (g t : Nat) : State :=
  let dirty := ((s.twin t).l1d.flatMap Prod.snd).filter (fun e => e.2)
  (dirty.foldl (fun u e => u.l2Mod g e.1 (fun y => { y with dirty := true })) s).setTwin t Twin.reset

/-- A twin as a hewer finds it: L1 I, L1 D, TLBs, predictor and store buffer are as after power-on reset, its copy of the decode table
is its own (R374, R376, R435). -/
def Twin.fresh (t : Twin) : Twin := { Twin.reset with cdtE := t.cdtE, cdtW := t.cdtW, cdtSeen := t.cdtSeen }

/-- The hewer as the spare takes it over: returned loads are in its registers, poison marks are clear (R16, R237, R374). -/
def Hewer.carried (x : Hewer) : Hewer :=
  { x.landBack with substitute := none, twinLost := false, wPoison := [], vPoison := [] }

/-- The spare of the gallery backs hewer `h` in place of twin `t` (R16, R374, R693, R694): after a failure that did not settle, it
begins at the failing instruction, and a hewer that lost a body restores its saved thread. -/
def State.substitute (s : State) (h t : Nat) : State :=
  let g := h / 8
  let fl : IoField := ⟨Adr.FLT_GAL_MAP g, 4 * (h % 8) + 3, 4 * (h % 8)⟩
  let new := g * 9 + s.fld (F.FLT_GAL_MAP.SPARE g)
  let lost := (s.hew h).twinLost
  let s0 := ((s.sbFlush h).modHew h (fun x => (if lost then x.replayed else x).carried)).twinDown g t
  let s1 := (s0.setFld fl (s0.fld (F.FLT_GAL_MAP.SPARE g))).modTwin new Twin.fresh
  let s2 := s1.log h 0x03 0 1 0 (unitDw3 t (new * 2 ^ 38))
  if lost && (s.hew h).between && (s.hew h).saved then s2.restoreThread h else s2

/-- TWIN_SUBSTITUTION of hewer `h`, at an instruction boundary (R693 to R695): the spare takes the hewer over, or the fault block
removes it. -/
def execTwinSubstitution (h : HewerId) (s : State) : Host.Outcome State Fault Refusal :=
  let x := s.hew h
  done (if !s.pwr.pllLocked || !(x.twinLost || s.settled h) then s
    else if x.removeDue then s.removeHewer h
    else match x.substitute with
      | none => s
      | some t => s.substitute h t)

/-! ### L2 ways and galleries (R697, R698) -/

/-- Remove every hewer of a gallery, `n` of them from `h` on, that is not removed yet. -/
def State.removeHewers (s : State) (n h : Nat) : State :=
  match n with
  | 0 => s
  | k + 1 => (if s.removed h then s else s.removeSoon h).removeHewers k (h + 1)

/-- A gallery is lost (R219, R698): cause 1 a landing way, 2 a fifth ordinary way, 3 its queues. -/
def State.galleryRemoved (s : State) (g cause : Nat) : State :=
  if s.galleryLost g then s
  else
    let s1 := ((s.raise (F.FLT_GAL_MAP.LOST g)).log 0xF00 0x07 0 0 0 (unitDw3 g (cause * 2 ^ 40))).loseGallery g
    ((s1.raise F.FLT_STATUS.GALLERY_LOST).removeHewers 8 (g * 8)).settle

/-- Bits set in a mask of `n` bits. -/
def popCount (v n : Nat) : Nat := ((List.range n).filter (fun i => v.testBit i)).length

/-- Is way `w` of gallery `g` in service? -/
def State.wayServes (s : State) (g w : Nat) : Bool :=
  !(s.galleryLost g) && (decide (w < 4) || !(s.fld (F.FLT_GAL_MAP.WAYS_OFF g)).testBit (w - 4))

/-- Way `w` of gallery `g` becomes lasting (R692, R697, R698). -/
def State.wayLasting (s : State) (g w : Nat) : State :=
  let s1 := s.countLasting
  if w < 4 then s1.galleryRemoved g 1
  else
    let fl := F.FLT_GAL_MAP.WAYS_OFF g
    let locked := (s.fld F.MEM_L2_LOCK.WAYS).testBit (w - 4)
    let s2 := s1.setFld fl (setBits (s1.fld fl) (w - 4) (w - 4) 1)
    let s3 := s2.galleryFlush g (fun e => e.way = w)
    let s4 := s3.log 0xF00 0x06 0 2 0 (unitDw3 (g * 16 + w) (b2n locked * 2 ^ 47))
    if 5 ≤ popCount (s4.fld fl) 12 then s4.galleryRemoved g 2 else s4

/-- An event of an L2 way is counted and logged (R687, R688). -/
def State.wayEvent (s : State) (g w : Nat) : State :=
  if !(s.wayServes g w) then s
  else
    let u := g * 16 + w
    let l := s.windowAdd 1 (s.flt.wayEvents.get [] u)
    let s1 := s.countTransient
    let s2 := { s1 with flt := { s1.flt with wayEvents := s1.flt.wayEvents.set [] u l } }
    let s3 := s2.log 0xF00 0x05 0 2 0 (unitDw3 u (sat8 l.length * 2 ^ 40))
    if s.isLasting 1 l then s3.wayLasting g w else s3

/-! ### DRAM rows (R690, R699) -/

/-- A DRAM row as one number. -/
def rowKey (c bank row : Nat) : Nat := c * 2 ^ 32 + bank * 2 ^ 24 + row

/-- The row of a tracked table, and the others. -/
def rowFind (l : List (Nat × List Nat)) (k : Nat) : List Nat × List (Nat × List Nat) :=
  (((l.find? (fun e => e.1 = k)).map Prod.snd).getD [], l.filter (fun e => e.1 != k))

/-- An event of a DRAM row is counted (R687, R690); `first` is the physical address of the row's first line (R699). -/
def State.rowEvent (s : State) (c bank row first : Nat) : State :=
  let k := rowKey c bank row
  let f := rowFind s.flt.rowEvents k
  let l := s.windowAdd 2 f.1
  let s1 := s.countTransient
  let s2 := { s1 with flt := { s1.flt with rowEvents := ((k, l) :: f.2).take 256 } }
  if s.isLasting 2 l && !s.flt.lastingRows.contains k then
    let s3 := s2.countLasting
    { s3 with flt := { s3.flt with lastingRows := insertNat s3.flt.lastingRows k } }.log 0xF00 0x08 0 3 first
      (unitDw3 c (bank * 2 ^ 44 + row * 2 ^ 26))
  else s2

/-! ### Links (R692) -/

/-- Is plant port `p` retired? -/
def State.linkRetired (s : State) (p : Nat) : Bool := s.flt.retiredLinks.contains p

/-- Port `p` becomes lasting: it counts as down (R599). -/
def State.linkLasting (s : State) (p : Nat) : State :=
  let s1 := s.countLasting
  { s1 with flt := { s1.flt with retiredLinks := insertNat s1.flt.retiredLinks p } }.log (0x500 + p) 0x09 0 4 0 (unitDw3 p 0)

/-- A link-down event of port `p` is counted (R687). -/
def State.linkEvent (s : State) (p : Nat) : State :=
  if s.linkRetired p then s
  else
    let l := s.windowAdd 3 (s.flt.linkEvents.get [] p)
    let s1 := s.countTransient
    let s2 := { s1 with flt := { s1.flt with linkEvents := s1.flt.linkEvents.set [] p l } }
    if s.isLasting 3 l then s2.linkLasting p else s2

/-! ### The hub (R701, R702) -/

/-- HUB_MISMATCH: a compared pair mismatches; `lasting` says that the repetition mismatched as well, or that an uncorrectable
error struck a control structure of the hub (R701). -/
def execHubMismatch (lasting : Bool) (s : State) : Host.Outcome State Fault Refusal :=
  done (if lasting then (s.countLasting.log 0xF00 0x0B 2 0 0 (2 * 2 ^ 40)).safeHold 3
    else s.countTransient.log 0xF00 0x0B 1 0 0 (1 * 2 ^ 40))

/-! ### FLT_RETIRE (R692) -/

/-- Does the unit of a retire command exist? -/
def retireUnit (cls unit : Nat) : Bool :=
  match cls with
  | 0 => decide (unit < 576)
  | 1 => decide (unit < 1024)
  | 3 => decide (unit < 8)
  | _ => false

/-- Is a unit in service? -/
def State.unitServes (s : State) (cls unit : Nat) : Bool :=
  match cls with
  | 0 => s.twinServes unit
  | 1 => s.wayServes (unit / 16) (unit % 16)
  | _ => !(s.linkRetired unit)

/-- OP 1: the unit retires as a lasting fault. -/
def State.retireNow (s : State) (cls unit : Nat) : State :=
  if !(s.unitServes cls unit) then s
  else match cls with
    | 0 => s.twinLasting unit false
    | 1 => s.wayLasting (unit / 16) (unit % 16)
    | _ => s.linkLasting unit

/-- OP 2: a way or a link returns to service. -/
def State.returnNow (s : State) (cls unit : Nat) : State :=
  match cls with
  | 1 =>
    let fl := F.FLT_GAL_MAP.WAYS_OFF (unit / 16)
    if unit % 16 < 4 then s else s.setFld fl (setBits (s.fld fl) (unit % 16 - 4) (unit % 16 - 4) 0)
  | _ => { s with flt := { s.flt with retiredLinks := eraseNat s.flt.retiredLinks unit } }

/-- A write of FLT_RETIRE: a command that is not refused starts, and one in progress is left alone. -/
def State.retireWrite (s : State) (v : Nat) : State :=
  if s.flag F.FLT_RETIRE.BUSY then s
  else
    let cls := bitsOf v 27 26
    let op := bitsOf v 25 24
    let unit := bitsOf v 10 1
    let s1 := ((s.setFld F.FLT_RETIRE.CLASS cls).setFld F.FLT_RETIRE.OP op).setFld F.FLT_RETIRE.UNIT unit
    if !(bitOf v 0) then s1
    else if !(retireUnit cls unit) || op = 0 || op = 3 then s1.setFld F.FLT_RETIRE.RESULT 1
    else if op = 2 && (cls = 0 || s.unitServes cls unit) then s1.setFld F.FLT_RETIRE.RESULT 2
    else
      let s2 := s1.raise F.FLT_RETIRE.BUSY
      if op = 1 then s2.retireNow cls unit else s2

/-- The word of a FLT_RETIRE command. -/
def retireWord (cls op unit : Nat) : Nat := cls * 2 ^ 26 + op * 2 ^ 24 + unit * 2 + 1

/-- RETIRE: FLT_RETIRE with OP 1 and GO (R692). -/
def execRetire (cls : Fin 4) (unit : Fin 1024) (s : State) : Host.Outcome State Fault Refusal :=
  done (if s.takesIo Adr.FLT_RETIRE then s.retireWrite (retireWord cls 1 unit) else s)

/-- RETURN_TO_SERVICE: FLT_RETIRE with OP 2 and GO (R692). -/
def execReturnToService (cls : Fin 4) (unit : Fin 1024) (s : State) : Host.Outcome State Fault Refusal :=
  done (if s.takesIo Adr.FLT_RETIRE then s.retireWrite (retireWord cls 2 unit) else s)

/-- RETIRE_COMPLETE: the operation in progress ends with RESULT 0 (R692). -/
def execRetireComplete (s : State) : Host.Outcome State Fault Refusal :=
  done (if s.flag F.FLT_RETIRE.BUSY then
      let s1 := if s.fld F.FLT_RETIRE.OP = 2 then s.returnNow (s.fld F.FLT_RETIRE.CLASS) (s.fld F.FLT_RETIRE.UNIT) else s
      (s1.setFld F.FLT_RETIRE.RESULT 0).setFld F.FLT_RETIRE.BUSY 0
    else s)

/-! ### The hub buffer (R716) -/

/-- LOG_RECORD_WRITE: with room in the ring, a buffered record is written, after LOG_OVERRUN where records were dropped. -/
def execLogRecordWrite (s : State) : Host.Outcome State Fault Refusal :=
  done (if !s.logRoom then s
    else match s.flt.buffer with
      | [] => s
      | r :: rest =>
        if s.flt.droppedNow = 0 then { s with flt := { s.flt with buffer := rest } }.logWrite r
        else
          let st := s.stamp 0xF00
          let n := if 0xFFFF < s.flt.droppedNow then 0xFFFF else s.flt.droppedNow
          let s1 := { st.2 with flt := { st.2.flt with droppedNow := 0 } }
          (s1.logWrite ⟨st.1, s.source 0xF00, 0x1F, 0, 0, 0, n * 2 ^ 32⟩).notify (notifyBits 0x1F 0))

end Sys2Proof.Machine
end

