-- ==== Sys2Proof/Machine/System.lean ====
section
/-!
DEFINITION. The system instructions (R246 to R252, R264, R265, R316 to R329, R426 to R429), the end of a body (R162,
R164), the software breakpoint (R787) and illegal words (R273).
-/
namespace Sys2Proof.Machine

/-! ### System registers (R264, R265) -/

/-- How a system register may be accessed at a privilege: 0 not, 1 read only, 2 read and write (R264). -/
def sysAccess (n pl : Nat) : Nat :=
  let byPl := fun (u s m : Nat) => if pl = 0 then u else if pl = 1 then s else m
  if n = 0x000 then 2
  else if n ≤ 0x004 then byPl 0 2 2
  else if n ≤ 0x008 then byPl 0 0 2
  else if n = 0x018 || n = 0x030 then byPl 1 2 2
  else if n = 0x028 || n = 0x039 then 2
  else if n = 0x040 || n = 0x041 then 1
  else if n = 0x042 then byPl 1 1 2
  else if n = 0x048 then byPl 0 0 2
  else byPl 0 2 2

/-- The decode cause of an `mfs` or `mts` (R264): 0x01 for an unlisted number, 0x02 for a right that is missing. -/
def sysBad (n pl need : Nat) : Option Nat :=
  if !(sysRegDefined n) then some 0x01 else if sysAccess n pl < need then some 0x02 else none

/-- What `mfs` reads: the latest value written (R328). -/
def State.sysRead (s : State) (h n : Nat) : Word :=
  let x := s.hew h
  let e := x.set (x.pl = 3)
  match n with
  | 0x000 => BitVec.ofNat 64 (x.pstatOf h)
  | 0x001 => e.epc | 0x002 => e.ecause | 0x003 => e.eval | 0x004 => e.vbase
  | 0x005 => x.sSet.epc | 0x006 => x.sSet.ecause | 0x007 => x.sSet.eval | 0x008 => x.sSet.vbase
  | 0x010 => x.asid | 0x018 => x.taskid | 0x020 => x.iroot | 0x021 => x.droot | 0x022 => x.xmode
  | 0x028 => x.pkr | 0x030 => x.rsp | 0x031 => x.rsb | 0x032 => x.rsl | 0x038 => x.bank | 0x039 => x.cnt
  | 0x040 => BitVec.ofNat 64 (s.cycleOf h) | 0x041 => BitVec.ofNat 64 s.time.now
  | 0x042 => x.budget | 0x048 => x.cdtctl
  | _ => x.cre.get 0 (n - 0x100)

/-- One register of an exception set, `k` 1 to 4. -/
def ExcSet.put (e : ExcSet) (k : Nat) (v : Word) (pl : Nat) : ExcSet :=
  match k with
  | 1 => { e with epc := v }
  | 2 => { e with ecause := causeWrite v pl }
  | 3 => { e with eval := v }
  | _ => { e with vbase := keepBits v 63 12 }

/-- PSTAT after an `mts` at privilege `pl`: FE, FX, the flags and RM, and ILVL from S and M (R265). -/
def pstatWrite (old v : Word) (pl : Nat) : Word :=
  let f := fun (p hi lo : Nat) => setBits p hi lo (bitsOf v.toNat hi lo)
  let p := f (f (f old.toNat 41 32) 31 28) 19 18
  BitVec.ofNat 64 (if pl = 0 then p else f p 27 24)

/-- An `mts` (R264 to R266, R325 to R327): a register with a distance may still be seen with its old value. -/
def Hewer.sysWrite (x : Hewer) (n : Nat) (v : Word) : Hewer :=
  let pl := x.pl
  match n with
  | 0x000 => { x with pstat := pstatWrite x.pstat v pl }
  | 0x010 => x.ctlWrite .asid (keepBits v 15 0) none
  | 0x018 => { x with taskid := keepBits v 15 0 }
  | 0x020 => x.ctlWrite .iroot (keepBits v 47 12) none
  | 0x021 => x.ctlWrite .droot (keepBits v 47 12) none
  | 0x022 => x.ctlWrite .xmode (keepBits v 1 0) none
  | 0x028 => x.ctlWrite .pkr (keepBits v 31 0) (some 3)
  | 0x030 => { x with rsp := keepBits v 63 3 }
  | 0x031 => { x with rsb := keepBits v 63 3 }
  | 0x032 => { x with rsl := keepBits v 63 3 }
  | 0x038 => x.ctlWrite .bank (keepBits v 59 32 + keepBits v 27 0) (some 4)
  | 0x039 => x.ctlWrite .cnt (keepBits v 31 0) (some 2)
  | 0x042 => { x with budget := keepBits v 31 0, budgetAcc := 0 }
  | 0x048 => x.ctlWrite .cdtctl (keepBits v 3 0) none
  | _ =>
    if n ≤ 0x004 then x.putSet (pl = 3) ((x.set (pl = 3)).put n v pl)
    else if n ≤ 0x008 then { x with sSet := x.sSet.put (n - 4) v pl }
    else
      let c := n - 0x100
      { x with
        cre := x.cre.set 0 c (creWord v)
        live0 := x.live0 && c != 0
        live1 := x.live1 && c != 1 }

/-- mfs (R264, R316, R328). -/
def execMfs (h : HewerId) (rd : RegNo) (sel : BitVec 12) (s : State) : Host.Outcome State Fault Refusal :=
  let n := sel.toNat
  done (s.run h ⟨wSystem rd 0 n 0, [], [], [rd.val], [], sysBad n (s.hew h).pl 1, 0⟩
    (fun t => t.moveStep h rd (fun _ => t.sysRead h n)))

/-- mts (R251, R264, R265, R316, R326). -/
def execMts (h : HewerId) (ra : RegNo) (sel : BitVec 12) (s : State) : Host.Outcome State Fault Refusal :=
  let n := sel.toNat
  done (s.run h ⟨wSystem 0 ra n 1, [ra.val], [], [], [], sysBad n (s.hew h).pl 2, 0⟩
    (fun t => .ok (t.modHew h (fun x => x.sysWrite n (x.getW ra))) []))

/-! ### Instructions without operands (R316) -/

/-- The frame of a major 0x00 instruction of OP 2. -/
def preSys (sel : Nat) (bad : Option Nat) : Pre := ⟨wSystem 0 0 sel 2, [], [], [], [], bad, 0⟩

/-- A privileged instruction of S and M (R316). -/
def State.privileged (s : State) (h : Nat) : Option Nat := if (s.hew h).pl = 0 then some 0x02 else none

/-- nop (R316). -/
def execNop (h : HewerId) (s : State) : Host.Outcome State Fault Refusal := done (s.run h (preSys 0 none) (fun t => .ok t []))

/-- sys: from U to S with cause 0x0F (R249, R250). -/
def execSys (h : HewerId) (s : State) : Host.Outcome State Fault Refusal :=
  let x := s.hew h
  done (s.run h (preSys 1 (if x.inUnit || x.pl != 0 then some 0x01 else none))
    (fun t => .entered (((t.modHew h Hewer.passed).tally h 0x014).enter h false false 0x0F ((t.hew h).pc + 4) (some 0) none)))

/-- mon: from S to M with cause 0x10 (R249, R250). -/
def execMon (h : HewerId) (s : State) : Host.Outcome State Fault Refusal :=
  let x := s.hew h
  done (s.run h (preSys 2 (if x.inUnit || x.pl = 3 then some 0x01 else if x.pl = 0 then some 0x02 else none))
    (fun t => .entered (((t.modHew h Hewer.passed).tally h 0x014).enter h true false 0x10 ((t.hew h).pc + 4) (some 0) none)))

/-- Does banked addressing stay in force at an `eret` (R258)? -/
def State.staysBanked (s : State) (h : Nat) : Bool := (s.hew h).banked && s.bankedMode

/-- The registers after a return from the current set (R249, R258). -/
def Hewer.returned (x : Hewer) (banked : Bool) : Hewer :=
  let e := x.set (x.pl = 3)
  let c := e.ecause.toNat
  { ((((x.setPsf 12 12 (b2n banked)).setPsf 31 28 (bitsOf c 31 28)).setPsf 27 24 (bitsOf c 27 24)).setPsf 15 14
      (bitsOf c 17 16)) with pc := e.epc }

/-- The return of `eret`: to the current set's EPC, or to the saved thread when a body was lost or overran (R200, R836). -/
def State.eretTo (s : State) (h : Nat) : State :=
  let x := s.hew h
  let ret := (s.setHew h (x.returned (s.staysBanked h))).breakFlow h
  match x.eretRestores with
  | some (p, n) =>
    if p != x.pl then ret
    else if n = 0 then (s.breakFlow h).restoreThread h
    else ret.modHew h (fun y => { y with eretRestores := some (p, n - 1) })
  | none => ret

/-- eret (R249, R250, R258, R262). -/
def execEret (h : HewerId) (s : State) : Host.Outcome State Fault Refusal :=
  let x := s.hew h
  let ppl := bitsOf (x.set (x.pl = 3)).ecause.toNat 17 16
  let bad := if x.inUnit then some 0x01
    else if x.pl = 0 then some 0x02
    else if s.staysBanked h && ppl != 3 then some 0x02
    else none
  done (s.run h (preSys 3 bad) (fun t => .entered ((t.modHew h Hewer.passed).eretTo h)))

/-! ### tend (R162, R164) -/

/-- The body's result is emitted (R162, R164): the stamp is the counter with the hewer's source. -/
def State.emitResult (s : State) (h status : Nat) (w : Nat) : State :=
  match (s.hew h).body with
  | none => s
  | some i =>
    let st := s.stamp h
    (st.2.modAct i (fun a =>
      { a with
        stage := .emitted
        resTime := st.1
        resSource := s.source h
        status := status
        disposition := bitsOf w 1 0
        userStatus := bitsOf w 31 16 })).modHew h Hewer.bodyEnds

/-- tend: legal in U and S while a body is active, outside a transfer unit; it performs every earlier access of the body first (R162,
R316, R486). -/
def execTend (h : HewerId) (ra : RegNo) (s : State) : Host.Outcome State Fault Refusal :=
  let x := s.hew h
  let bad := if x.pl = 3 || x.body.isNone || x.inUnit then some 0x01 else none
  done (s.runLong h ⟨wSystem 0 ra 4 2, [ra.val], [], [], [], bad, 0⟩ (fun t =>
    .entered ((((t.sbFlush h).modHew h Hewer.passed).emitResult h (if x.pl = 0 then 0x00 else 0x01) ((t.hew h).getW ra).toNat).breakFlow h)))

/-! ### Synchronisation (R318 to R322) -/

/-- A long operation of S and M, or of every privilege, that discards what was fetched beyond it (R346, R348, R476): it ends with
`f`, after every earlier store is performed. -/
def State.refetch (s : State) (h sel : Nat) (bad : Option Nat) (f : State → Step) : State :=
  s.runLong h (preSys sel bad) (fun t => f ((t.sbFlush h).l1iDrop h))

/-- Every write of control state comes into force; one of ASID flushes the predictor (R329, R363). -/
def State.ctlInForce (s : State) (h : Nat) : State :=
  let s1 := if (s.hew h).ctl.any (fun p => p.reg = .asid) then s.flushPred h else s
  (s1.modHew h (fun y => { y with ctl := [] })).cdtReach h

/-- sync: waits for every earlier access and xinv; every control-state write is then in force (R319, R329). -/
def execSync (h : HewerId) (s : State) : Host.Outcome State Fault Refusal :=
  done (s.refetch h 8 (s.privileged h) (fun t =>
    if (t.hew h).xinv.isEmpty then .ok (t.ctlInForce h) [] else .held t))

/-- ifence: what follows is fetched again, after every earlier store (R320). -/
def execIfence (h : HewerId) (s : State) : Host.Outcome State Fault Refusal := done (s.refetch h 9 none (fun t => .ok t []))

/-- cdtsync: every decode-table write accepted before has reached this hewer, and CDTCTL is in force (R321, R326). -/
def execCdtsync (h : HewerId) (s : State) : Host.Outcome State Fault Refusal :=
  done (s.refetch h 0xA none (fun t =>
    .ok ((t.cdtReach h).modHew h (fun y => { y with ctl := y.ctl.filter (fun p => p.reg != .cdtctl) })) []))

/-- fence.r: earlier loads are performed before what follows (R318, R346). -/
def execFenceR (h : HewerId) (s : State) : Host.Outcome State Fault Refusal :=
  done (s.runLong h (preSys 0x10 none) (fun t => .ok t []))

/-- fence.w: earlier stores are performed before what follows (R318, R346). -/
def execFenceW (h : HewerId) (s : State) : Host.Outcome State Fault Refusal :=
  done (s.runLong h (preSys 0x11 none) (fun t => .ok (t.sbFlush h) []))

/-- fence.rw (R318, R346). -/
def execFenceRw (h : HewerId) (s : State) : Host.Outcome State Fault Refusal :=
  done (s.runLong h (preSys 0x12 none) (fun t => .ok (t.sbFlush h) []))

/-! ### xinv (R317, R426 to R429) -/

/-- Code of a scope in SEL[9:8]. -/
def scopeCode (k : XScope) : Nat := match k with | .loc => 0 | .gallery => 1 | .device => 2

/-- The twins that a scope names (R427). -/
def State.scopeTwins (s : State) (h : Nat) (k : XScope) : List Nat :=
  match k with
  | .loc => [s.twinOf h]
  | .gallery => (List.range 9).map (fun i => h / 8 * 9 + i)
  | .device => List.range 576

/-- Every earlier store is performed, then the operation goes to every twin of its scope; it becomes complete at each by itself (R428,
R429). -/
def State.xinvStep (s : State) (h : Nat) (k : XScope) (va asid : Option Nat) : Step :=
  .ok ((s.sbFlush h).modHew h (fun x => { x with xinv := x.xinv ++ (s.scopeTwins h k).map (fun t => ⟨t, va, asid⟩) })) []

/-- SEL of an xinv (R317). -/
def xinvSel (kind : Nat) (k : XScope) : Nat := kind * 2 ^ 10 + scopeCode k * 2 ^ 8

/-- xinv.a wa, wb: the ASID is in the register that the rd field names (R317, R426). -/
def execXinvA (h : HewerId) (scope : XScope) (rd ra : RegNo) (s : State) : Host.Outcome State Fault Refusal :=
  done (s.run h ⟨wSystem rd ra (xinvSel 0 scope) 3, [ra.val, rd.val], [], [], [], s.privileged h, 0⟩ (fun t =>
    let x := t.hew h
    t.xinvStep h scope (some (x.getW ra).toNat) (some ((x.getW rd).toNat % 0x10000))))

/-- xinv.t wb (R317, R426). -/
def execXinvT (h : HewerId) (scope : XScope) (rd : RegNo) (s : State) : Host.Outcome State Fault Refusal :=
  done (s.run h ⟨wSystem rd 0 (xinvSel 1 scope) 3, [rd.val], [], [], [], s.privileged h, 0⟩ (fun t =>
    t.xinvStep h scope none (some (((t.hew h).getW rd).toNat % 0x10000))))

/-- xinv.all (R317, R426). -/
def execXinvAll (h : HewerId) (scope : XScope) (s : State) : Host.Outcome State Fault Refusal :=
  done (s.run h ⟨wSystem 0 0 (xinvSel 2 scope) 3, [], [], [], [], s.privileged h, 0⟩ (fun t => t.xinvStep h scope none none))

/-- The first operation for a twin, and the others. -/
def takeXinv (l : List XinvOp) (t : Nat) : Option (XinvOp × List XinvOp) :=
  match l with
  | [] => none
  | o :: rest => if o.twin = t then some (o, rest) else (takeXinv rest t).map (fun p => (p.1, o :: p.2))

/-- The entries of the full tree behind accesses that remain to be performed at a twin: outstanding loads, parts that the host has not
answered, the return-stack write of a unit, buffered stores (R429). -/
def State.pendingVia (s : State) (t : Nat) : List (Option TlbEntry) :=
  (s.twin t).sbuf.map StoreEntry.via
  ++ match ((List.range 8).map (fun k => t / 9 * 8 + k)).find? (fun h => s.twinOf h = t) with
    | none => []
    | some h =>
      let x := s.hew h
      x.missed.map MissedLoad.via ++ x.hostBuf.map HostPart.via ++ (x.unit.map TransferUnit.via).toList

/-- XINV_COMPLETE: the oldest operation of `h` on its way to the twin removes its entries there, and is complete once no access
translated with a removed entry remains to be performed there (R429). -/
def execXinvComplete (h : HewerId) (twin : Fin 576) (s : State) : Host.Outcome State Fault Refusal :=
  done (match s.pwr.pllLocked, takeXinv (s.hew h).xinv twin with
    | true, some (o, rest) =>
      if (s.pendingVia twin).any (fun v => v.any (fun e => e.removedBy o.va o.asid)) then s
      else (s.modHew h (fun x => { x with xinv := rest })).modTwin twin (fun t => t.invalidate o.va o.asid)
    | _, _ => s)

/-! ### Words that raise exceptions by themselves (R273, R787) -/

/-- Does the fetched word match the software breakpoint here (R777, R787)? -/
def State.swbpHit (s : State) (h w : Nat) : Bool :=
  s.flag F.DBG_CTL.SWBP_EN && !(s.hew h).exempt && decide (s.fld F.DBG_SWBP.WORD = w)

/-- A fetched word that stops at DE: the software breakpoint raises 0x11, an illegal word 0x01. -/
def State.wordStop (s : State) (h w : Nat) : State :=
  s.run h ⟨w, [], [], [], [], some (if s.swbpHit h w then 0x11 else 0x01), 0⟩ (fun t => .held t)

/-- A fetched word equal to DBG_SWBP.WORD, whose major is reserved: 0x11 where breakpoints are enabled, else 0x01 (R787). -/
def execSoftwareBreakpoint (h : HewerId) (s : State) : Host.Outcome State Fault Refusal :=
  let w := s.fld F.DBG_SWBP.WORD
  done (s.wordStop h w)

/-- A fetched word that no instruction has (R273). -/
def execIllegalInstruction (h : HewerId) (word : Word32) (s : State) : Host.Outcome State Fault Refusal :=
  done (if s.swbpHit h word.toNat || !(legalWord word.toNat) then s.wordStop h word.toNat else s)

end Sys2Proof.Machine
end

