-- ==== Sys2Proof/Machine/DraughtCmds.lean ====
section
/-!
DEFINITION. The draught's commands (R140 to R231, R835): task commands, releases, gather and landing, the distributor,
results and commits, budget expiry, the two tiers of stealing, thread restore, and the writes that steer them.
-/
namespace Sys2Proof.Machine

/-! ### DRT_CMD (R140 to R143) -/

/-- May a DISABLE with FLUSH discard the activation: one whose result is emitted is past RUNNING and commits (log 45). -/
def State.flushable (s : State) (i : Nat) : Bool :=
  match s.actOf i with
  | some (_, a) => !a.emittedYet
  | none => false

/-- DISABLE (R140, R165): with FLUSH an activation that has emitted nothing is discarded at once. -/
def State.drtDisable (s : State) (i : Nat) (flush : Bool) : State :=
  if s.taskCount ≤ i then s.cmdEnd 0x01
  else if !(s.drtReady) then s.cmdEnd 0x0A
  else if !(s.task i).enabled then s.cmdEnd 0
  else
    let s1 := if flush && s.flushable i then s.dropActivation i else s
    (s1.modTask i (fun t => { t with stopping := true })).cmdWait

/-- A write of DRT_CMD (R140, R143): refused while BUSY; GO starts the operation. -/
def State.drtCmdWrite (s : State) (v : Word) : State :=
  if s.flag F.DRT_CMD_STATUS.BUSY then s.raise F.DRT_STATUS.CMD_REJ
  else
    let n := v.toNat
    let s1 := s.setReg Adr.DRT_CMD (BitVec.ofNat 64 (bitsOf n 47 16 * 2 ^ 16 + bitsOf n 4 1 * 2))
    let i := bitsOf n 31 16
    if !(bitOf n 0) then s1
    else match bitsOf n 3 1 with
      | 1 => s1.drtEnable i
      | 2 => s1.drtDisable i (bitOf n 4)
      | 3 => s1.drtUpdate i (bitsOf n 47 32)
      | _ => s1.cmdEnd 0x01

/-- DRT_CMD as a command: a write of the register, which its clocks and domain must take (R47, R838). -/
def State.drtCommand (s : State) (v : Nat) : State :=
  if s.takesIo Adr.DRT_CMD then s.drtCmdWrite (BitVec.ofNat 64 v) else s

/-- ENABLE: a DRT_CMD write with OP 1 and GO (R140, R141). -/
def execEnable (index : BitVec 16) (s : State) : Host.Outcome State Fault Refusal :=
  done (s.drtCommand (index.toNat * 2 ^ 16 + 1 * 2 + 1))

/-- DISABLE: a DRT_CMD write with OP 2 and GO (R140). -/
def execDisable (index : BitVec 16) (flush : Bool) (s : State) : Host.Outcome State Fault Refusal :=
  done (s.drtCommand (index.toNat * 2 ^ 16 + b2n flush * 16 + 2 * 2 + 1))

/-- DISABLE_COMPLETE: the task has no activation left and becomes DISABLED (R140). -/
def execDisableComplete (s : State) : Host.Outcome State Fault Refusal :=
  done (match s.cmdBusy 2 with
    | none => s
    | some (i, _) =>
      if (s.task i).act.isSome || !s.draughtRuns then s
      else (s.disableTask i).cmdEnd 0)

/-- UPDATE: a DRT_CMD write with OP 3 and GO (R140). -/
def execUpdate (index staging : BitVec 16) (s : State) : Host.Outcome State Fault Refusal :=
  done (s.drtCommand (staging.toNat * 2 ^ 32 + index.toNat * 2 ^ 16 + 3 * 2 + 1))

/-- UPDATE_COPY: the target is ARMED, so the staging descriptor is checked and copied (R140). -/
def execUpdateCopy (s : State) : Host.Outcome State Fault Refusal := done (if s.draughtRuns then s.updateCopy else s)

/-! ### Releases (R144 to R151) -/

/-- The periodic releases that are due: release time and index (R79, R144). -/
def State.duePeriodic (s : State) : List (Nat × Nat) :=
  s.drt.tasks.filterMap (fun e =>
    if e.2.enabled && e.2.trigger = 0 && decide (e.2.nextRel ≤ s.time.now) then some (e.2.nextRel, e.1) else none)

/-- The first of a list of pairs. -/
def firstPair (l : List (Nat × Nat)) : Option (Nat × Nat) :=
  match l with
  | [] => none
  | x :: rest => match firstPair rest with
    | none => some x
    | some y => if stampBefore y.1 y.2 x.1 x.2 then some y else some x

/-- The release timer fires for task `i` at its release time `t` (R80, R144, R151): a task that is being disabled only moves on
(R140). -/
def State.firePeriodic (s : State) (i t : Nat) : State :=
  let p := (s.task i).period
  let k := periodsPast t p s.time.now
  let next := fun (s : State) => s.modTask i (fun x => { x with nextRel := t + k * p })
  if s.releasesHeld || (s.task i).stopping then next s
  else
    let src := s.source srcDraught
    let s1 := next (s.releaseTask i t src false)
    if k = 1 then s1 else s1.skipRelease i (t + p) src 0x20 (k - 1)

/-- The due task releases of compare units: target and index (R79). -/
def State.dueCommanded (s : State) : List (Nat × Nat) :=
  ((List.range 64).filter (fun n => s.cmpDue n && s.fld (F.TIM_CMP_CTL.ACTION n) = 1)).map
    (fun n => ((s.reg (Adr.TIM_CMP_TARGET n)).toNat, s.fld (F.TIM_CMP_CTL.ARG n)))

/-- May the draught accept a timed release stamped `t` of task `i`: the cycle in which plant time reached `t` has passed (R81), and no
release in `l` comes before it (R150)? -/
def State.releaseTurn (s : State) (t i : Nat) (l : List (Nat × Nat)) : Bool :=
  s.draughtRuns && decide (t ≤ s.time.prev) && l.all (fun x => !(stampBefore x.1 x.2 t i))

/-- PERIODIC_RELEASE of task `i`: releases are accepted in the order of their stamps, then by index (R62, R81, R145, R150). -/
def execPeriodicRelease (index : BitVec 16) (s : State) : Host.Outcome State Fault Refusal :=
  done (match firstPair s.duePeriodic with
    | some (t, i) =>
      if i = index.toNat && s.releaseTurn t i s.dueCommanded then
        let s1 := s.updateFirst i
        if firstPair s1.duePeriodic = some (t, i) then s1.firePeriodic i t else s1
      else s
    | none => s)

/-- COMMANDED_RELEASE: a write of DRT_RELEASE by the writer with local source `loc` (R61, R148). -/
def execCommandedRelease (index : BitVec 16) (loc : BitVec 12) (s : State) : Host.Outcome State Fault Refusal :=
  let st := s.stamp loc.toNat
  done (if s.takesIo Adr.DRT_RELEASE then st.2.commandRelease index.toNat st.1 (s.source loc.toNat) else s)

/-! ### Gather and landing (R152 to R157, R179, R183 to R189) -/

/-- Gather engines in use. -/
def State.enginesBusy (s : State) : Nat := (s.activations.filter (fun x => x.2.stage = .gathering)).length

/-- A release whose descriptor, list or region set cannot be read is discarded (R179). -/
def State.discardDesc (s : State) (i : Nat) (a : Activation) (at_ : Nat) : State :=
  (s.logDescUe i a.attempt at_).dropActivation i

/-- The waiting releases that some gallery qualifies for (R188). -/
def State.servable (s : State) : List (Nat × Activation) :=
  s.waitingGather.filter (fun x => (s.chooseGallery x.2 64).isSome)

/-- The activation gathers in an engine, for gallery `g`. -/
def Activation.gathered (a : Activation) (g : Nat) : Activation := { a with stage := .gathering, gallery := some g }

/-- What a gather engine reads at the hub: descriptor, lists, region set and state block. -/
def State.gatherReads (s : State) (i : Nat) (d : Desc) : State :=
  (s.descRanges i d ++ [(s.regionBase + d.stateOff, d.stateSize)]).foldl (fun t r => t.hubAccess r.1 r.2 srcDraught false) s

/-- An engine takes the release of task `i`: one whose descriptor, list or region set is poisoned is discarded (R179). -/
def State.gatherTask (s : State) (i : Nat) (a : Activation) : State :=
  let s1 := s.gatherReads i a.desc
  match s.descPoison i a.desc with
  | some at_ => s1.discardDesc i a at_
  | none => s1.modAct i (fun _ => (s.gather i a).gathered ((s.chooseGallery a 64).getD 0))

/-- GATHER_START: the first waiting release that a gallery qualifies for is placed and taken by a gather engine (R152,
R186 to R188); one that finds no gallery of its AFFINITY in the pool sets NO_GAL (R189). -/
def State.gatherStart (s : State) : State :=
  let s1 := if s.waitingGather.any (fun x => !(s.affinityInPool x.2)) then s.raise F.DRT_DSP_STATUS.NO_GAL else s
  if 16 ≤ s.enginesBusy then s1
  else
    match mostUrgent s.servable with
    | none => s1
    | some x => s1.gatherTask x.1 x.2

/-- GATHER_START (R152, R186). -/
def execGatherStart (s : State) : Host.Outcome State Fault Refusal := done (if s.draughtRuns then s.gatherStart else s)

/-- PACKET_LANDED: the packet enters its gallery's ready queue (R152, R181). -/
def execPacketLanded (index : BitVec 16) (s : State) : Host.Outcome State Fault Refusal :=
  done (match s.actOf index.toNat with
    | some (i, a) => if a.stage = .gathering && s.draughtRuns then s.toReady (a.gallery.getD 0) i else s
    | none => s)

/-- Has DEADLINE_AT of an activation come? -/
def State.deadlineCome (s : State) (a : Activation) : Bool := decide (a.deadlineAt ≤ s.time.now)

/-- NO_PLACEMENT: a release that waits for placement past DEADLINE_AT is discarded (R189). -/
def execNoPlacement (index : BitVec 16) (s : State) : Host.Outcome State Fault Refusal :=
  done (match s.actOf index.toNat with
    | some (i, a) =>
      if s.draughtRuns && a.stage = .heap && s.deadlineCome a && !(s.affinityInPool a) then
        let s1 := if a.missed then s else s.logMiss i a
        (s1.drtLog a.deadlineAt (s.source srcDraught) 0x29 i a.attempt 0).dropActivation i
      else s
    | none => s)

/-- Does a pinned packet wait for a hewer that is out of the pool (R215)? -/
def State.pinnedWait (s : State) (a : Activation) : Bool :=
  a.desc.pin && !(s.hewerInPool a.desc.pinHewer)
  && (match a.stage with | .heap => true | .ready => true | .localQueue _ => true | _ => false)

/-- DEADLINE_MISS (R172, R215). -/
def execDeadlineMiss (index : BitVec 16) (s : State) : Host.Outcome State Fault Refusal :=
  done (match s.actOf index.toNat with
    | some (i, a) =>
      if !s.draughtRuns || a.stage = .accepted || !(s.deadlineCome a) then s
      else
        let s1 := if a.missed then s else s.logMiss i a
        if s.pinnedWait a then s1.exhaust i else s1
    | none => s)

/-- DISTRIBUTOR_MOVE of a gallery (R190, R191, R216). -/
def execDistributorMove (gallery : Fin 64) (s : State) : Host.Outcome State Fault Refusal :=
  done (if s.draughtRuns then s.distribute gallery else s)

/-! ### Results (R167 to R173) -/

/-- RESULT_ACCEPT (R167, R173). -/
def execResultAccept (index : BitVec 16) (s : State) : Host.Outcome State Fault Refusal :=
  done (match s.actOf index.toNat with
    | some (i, a) =>
      if a.stage = .emitted && s.draughtRuns then
        let r := s.acceptResult i a
        if r.2 then r.1 else r.1.dropActivation i
      else s
    | none => s)

/-- The writes that a commit makes (R165, R168). -/
def State.commitSize (s : State) (a : Activation) : Nat :=
  if (a.status = 0x00 || a.status = 0x01) && (a.disposition = 0 || a.disposition = 1) then (s.outputWrites a).length else 0

/-- Is a commit of lower index due at the same commit point (R169)? -/
def State.commitBefore (s : State) (i p : Nat) : Bool :=
  s.activations.any (fun x => decide (x.1 < i) && x.2.stage = .accepted && x.2.commitPoint = p)

/-- May the commit start now (R103, R124, R167, R169)? -/
def State.commitDue (s : State) (i : Nat) (a : Activation) : Bool :=
  a.stage = .accepted && decide (a.commitPoint ≤ s.time.now) && !(s.commitBefore i a.commitPoint)
  && s.pwr.pllLocked && s.domainOn 2 && s.flag F.LOD_STATUS.INIT_DONE
  && decide (s.lode.hold.length + s.commitSize a ≤ 16384)

/-- COMMIT (R168 to R171). -/
def execCommit (index : BitVec 16) (s : State) : Host.Outcome State Fault Refusal :=
  done (match s.actOf index.toNat with
    | some (i, a) => if s.commitDue i a then s.commitResult i a else s
    | none => s)

/-! ### Budget expiry (R174, R200) -/

/-- The activation ends OVERRUN, and the hewer takes exception 0x0E with the body's context (R174, R200). -/
def State.overrun (s : State) (h i : Nat) : State :=
  let x := s.hew h
  let s2 := ((s.logOverrun h i).dropActivation i).modHew h (fun y => { y with between := false })
  let s3 := (s2.tally h 0x014).takeExc h 0x0E x.excPc (BitVec.ofNat 64 i)
  s3.modHew h (fun y => { y with eretRestores := some (y.pl, 0) })

/-- BUDGET_EXPIRY of hewer `h`, at a boundary after a due canary machine check (R174, R442). -/
def execBudgetExpiry (h : HewerId) (s : State) : Host.Outcome State Fault Refusal :=
  let x := s.hew h
  done (match x.body with
    | some i => if s.atBoundary h && !x.mcheck && !x.forced && x.budget = 0 then s.overrun h i else s
    | none => s)

/-! ### DRT_CTL.EN (R178, R199, R835) -/

/-- Do two ranges of bytes overlap? -/
def overlap (a n b m : Nat) : Bool := n != 0 && m != 0 && decide (a < b + m) && decide (b < a + n)

/-- Does the configuration allow EN (R178, R199)? -/
def State.drtConfigOk (s : State) : Bool :=
  let z := s.fld F.DRT_REGION_BASE.SIZE_MIB
  let save := s.fld F.DRT_SAVE_BASE.BASE * 0x100000
  decide (1 ≤ z) && decide (z ≤ 24) && decide (s.tableBytes ≤ s.regionSize)
  && decide (s.regionBase + s.regionSize ≤ s.dramSize) && decide (save + 0x100000 ≤ s.dramSize)
  && !(overlap save 0x100000 s.regionBase s.regionSize)

/-- A write of 1 to EN in CONFIGURE (R178). -/
def State.drtEnSet (s : State) : State :=
  if s.mode != .configure || s.flag F.DRT_CTL.EN then s
  else if s.drtConfigOk then s.setFld F.DRT_CTL.EN 1
  else s.raise F.DRT_STATUS.CFG_ERR

/-- DRT_EN_SET (R178, R199). -/
def execDrtEnSet (s : State) : Host.Outcome State Fault Refusal := done (if s.takesIo Adr.DRT_CTL then s.drtEnSet else s)

/-- REGION_LOCKED: the memory-side cache holds the region (R134, R178). -/
def execRegionLocked (s : State) : Host.Outcome State Fault Refusal :=
  done (if s.pwr.pllLocked && s.domainOn 11 && s.flag F.DRT_CTL.EN && !(s.flag F.DRT_STATUS.READY) then
      s.mscLock.setFld F.DRT_STATUS.READY 1
    else s)

/-- The draught without tasks, queues and requests; what each hewer has saved stays. -/
def State.emptyDraught (s : State) : State :=
  let s1 := s.discardAll
  { s1 with drt := { s1.drt with tasks := [], events := [], ready := [], locals := [], t2req := [], t2again := [], locked := false } }

/-- A write of 0 to EN in CONFIGURE (R835). -/
def State.drtEnClear (s : State) : State :=
  if s.mode != .configure || !(s.flag F.DRT_CTL.EN) then s
  else (s.emptyDraught.setFld F.DRT_STATUS.READY 0).setFld F.DRT_CTL.EN 0

/-- DRT_EN_CLEAR (R835). -/
def execDrtEnClear (s : State) : Host.Outcome State Fault Refusal := done (if s.takesIo Adr.DRT_CTL then s.drtEnClear else s)

/-! ### Stealing and restore (R195, R200, R203 to R211) -/

/-- TIER1_STEAL for hewer `h` (R205). -/
def execTier1Steal (h : HewerId) (s : State) : Host.Outcome State Fault Refusal :=
  done (if s.draughtRuns then s.tier1 h else s)

/-- TIER2_REQUEST of a gallery (R207, R210). -/
def execTier2Request (gallery : Fin 64) (s : State) : Host.Outcome State Fault Refusal :=
  done (if s.draughtRuns && s.tier2Wants gallery then { s with drt := { s.drt with t2req := insertReq s.drt.t2req (s.time.cyc, gallery.val) } } else s)

/-- TIER2_STEAL: the hub serves its first request (R208, R210). -/
def execTier2Steal (s : State) : Host.Outcome State Fault Refusal :=
  done (if s.draughtRuns then s.tier2 else s)

/-- TIER2_COPY_DONE of the packet of a task (R209). -/
def execTier2CopyDone (index : BitVec 16) (s : State) : Host.Outcome State Fault Refusal :=
  done (if s.draughtRuns then s.tier2Done index.toNat else s)

/-- Is a packet offered to the hewer that has just ended a body (R195)? -/
def State.offered (s : State) (h : Nat) : Bool :=
  !(s.localQ h).isEmpty || (s.flag F.DRT_DSP_CTL.T1_EN && (s.tier1Pick h).isSome)

/-- THREAD_RESTORE: with no packet offered, the hewer resumes its saved thread (R195, R200, R202). -/
def execThreadRestore (h : HewerId) (s : State) : Host.Outcome State Fault Refusal :=
  let x := s.hew h
  done (if x.between && x.saved && s.atBoundary h && !x.mcheck && !(s.hewerInPool h && s.offered h) then s.restoreThread h else s)

/-! ### Pools (R216, R220, R221) -/

/-- A pool register has been written: the queues of the hewers that have left the pool since `old` return, in key order over all of
them (R216). -/
def State.leftSince (s old : State) : State :=
  (s.leaveAll ((List.range 512).filter (fun h => old.hewerInPool h && !(s.hewerInPool h)))).settle

/-- A write of DRT_HWR_POOLk (R221). -/
def State.hewerPoolWrite (s : State) (k : Nat) (v : Word) : State := (s.setReg (Adr.DRT_HWR_POOL k) v).leftSince s

/-- HEWER_POOL_WRITE (R221). -/
def execHewerPoolWrite (k : Fin 8) (value : Word) (s : State) : Host.Outcome State Fault Refusal :=
  done (if s.takesIo (Adr.DRT_HWR_POOL k) then s.hewerPoolWrite k value else s)

/-- GALLERY_POOL_WRITE (R221). -/
def State.galleryPoolWrite (s : State) (v : Word) : State := (s.setReg Adr.DRT_GAL_POOL v).leftSince s

/-- GALLERY_POOL_WRITE (R221). -/
def execGalleryPoolWrite (value : Word) (s : State) : Host.Outcome State Fault Refusal :=
  done (if s.takesIo Adr.DRT_GAL_POOL then s.galleryPoolWrite value else s)

end Sys2Proof.Machine
end

