-- ==== Sys2Proof/Machine/Rom.lean ====
section
/-!
DEFINITION. What the code of the boot ROM does (R736, R738): its bytes are not in the spec, so its effect happens whole at a clock
cycle, on a hewer that stands at its first instruction or in its handler (log 4).
-/
namespace Sys2Proof.Machine

/-- The bank of the boot ROM (R263). -/
def romBank : Nat := 0xF200000

/-- Does hewer `h` stand at offset 0 of the boot ROM, about to execute there (R263, R736, R737)? -/
def State.atRom (s : State) (h : Nat) : Bool :=
  let x := s.hew h
  s.canRun h && !x.halted && !(s.asyncDue h) && x.unit.isNone && x.rep.isNone && x.hostBuf.isEmpty && x.pl = 3 && x.banked
    && bitsOf x.bank.toNat 59 32 = romBank && x.pc.toNat % 2 ^ 20 = 0 && x.rom = 0

/-- The code sets BANK.IB to bits [47:20] of an entry and jumps to its offset (R736). -/
def State.romJump (s : State) (h : Nat) (entry : Nat) : State :=
  s.modHew h (fun x => { x with
    bank := BitVec.ofNat 64 (setBits x.bank.toNat 59 32 (bitsOf entry 47 20))
    pc := BitVec.ofNat 64 (entry % 2 ^ 20)
    rom := 0 })

/-- The code enables fault notification routed to M, sets ILVL to 14 and waits in a loop (R738). -/
def State.romWait (s : State) (h : Nat) : State :=
  let s1 := (s.setFld (F.HWR_IENA.EN h) (setBits (s.fld (F.HWR_IENA.EN h)) 4 4 1)).setFld (F.HWR_IENA.ROUTE h)
    (setBits (s.fld (F.HWR_IENA.ROUTE h)) 4 4 1)
  s1.modHew h (fun x => { x.setPsf 27 24 14 with pc := Config.romLoop.setWidth 64, rom := 1 })

/-- The code at offset 0, by the mode in force (R738); the tests of SELF-TEST end with SELF_TEST_END. -/
def State.romStart (s : State) (h : Nat) : State :=
  let recov := (s.reg Adr.CFG_RECOV_ENTRY).toNat
  match s.mode with
  | .off => s
  | .selfTest => s
  | .safeHold => if recov != 0 then s.romJump h recov else s.romWait h
  | _ => s.romJump h (s.reg Adr.CFG_BOOT_ENTRY).toNat

/-- The handler of a fault notification: it jumps to CFG_RECOV_ENTRY, or waits at ILVL 15 (R738). -/
def State.romHandler (s : State) (h : Nat) : State :=
  let recov := (s.reg Adr.CFG_RECOV_ENTRY).toNat
  if recov != 0 then s.romJump h recov else s.modHew h (fun x => { x.setPsf 27 24 15 with rom := 3 })

/-- One cycle of the boot ROM's code on hewer `h`. -/
def State.romRun (s : State) (h : Nat) : State :=
  if s.atRom h then s.romStart h else if (s.hew h).rom = 2 && s.canRun h && !(s.hew h).halted then s.romHandler h else s

/-- The same on every hewer that has left its reset values. -/
def State.romTick (s : State) : State := s.hewers.keys.foldl State.romRun s

end Sys2Proof.Machine
end

