-- ==== Sys2Proof/Machine/Time.lean ====
section
/-!
DEFINITION. Plant time (R48 to R82, R833): the synchronisation states and the servo, IEEE 802.1AS messages, the writes
of TIM registers, and what one clock cycle does.
-/
namespace Sys2Proof.Machine

/-! ### Synchronisation states (R66, R67, R72) -/

def stFree : Nat := 0
def stAcquire : Nat := 1
def stLocked : Nat := 2
def stHoldover : Nat := 3
def stGrandmaster : Nat := 4

def State.syncState (s : State) : Nat := s.fld F.TIM_STATUS.STATE

/-- Change the state; leaving LOCKED or GRANDMASTER, or ending in FREE, is logged (R72). -/
def State.toSync (s : State) (new : Nat) : State :=
  let old := s.syncState
  let s1 := s.setFld F.TIM_STATUS.STATE new
  if old != new && (old = stLocked || old = stGrandmaster || new = stFree) then
    s1.log 0xF00 0x0E 0 0 0 (old * 2 ^ 45 + new * 2 ^ 42)
  else s1

/-- The servo's rate limit (R51). -/
def rateLimit : Int := 0x01000000

/-- Set TIM_RATE within its limit; SLEW_SAT says that it sits there (R51). -/
def State.setRate (s : State) (r : Int) : State :=
  let c := clampInt (-rateLimit) rateLimit r
  (s.setReg Adr.TIM_RATE (BitVec.ofNat 64 (codeOf 32 c))).setFld F.TIM_STATUS.SLEW_SAT
    (b2n (decide (c = rateLimit) || decide (c = -rateLimit)))

/-- No master is followed: the state becomes FREE or HOLDOVER (R66). -/
def State.unfollow (s : State) (new : Nat) : State :=
  let s1 := (s.toSync new).setFld F.TIM_STATUS.SLAVE_PORT 0xF
  { s1 with time := { s1.time with master := none } }

/-- The first row of R67: root-PLL loss or SYNC_EN written 0. STEPPED goes to 0 in both cases, as the table has it, so that a second
step may follow SYNC_EN 0 (R68, log 49). -/
def State.syncLost (s : State) : State :=
  let s1 := ((s.unfollow stFree).setFld F.TIM_STATUS.STEPPED 0).setRate 0
  { s1 with time := { s1.time with selected := none } }

/-- Does the device take part in 802.1AS (TIM_CTL.SYNC_EN, DOMAIN)? -/
def State.takesPart (s : State) : Bool := s.flag F.TIM_CTL.SYNC_EN && decide (s.fld F.TIM_CTL.DOMAIN < 128)

/-- Does a port carry 802.1AS (TIM_CTL.PORT_EN)? -/
def State.gptpPort (s : State) (p : Nat) : Bool := s.takesPart && (s.fld F.TIM_CTL.PORT_EN).testBit p

/-- Follow a master on a port: the state becomes ACQUIRE and the counts of Syncs start again; the integral term stays (R67). Until the
master's first Sync the timeout goes by the interval of the master before (log 49). -/
def State.acquire (s : State) (m port : Nat) : State :=
  let s1 := (s.toSync stAcquire).setFld F.TIM_STATUS.SLAVE_PORT port
  { s1 with time := { s1.time with master := some m, within := 0, beyond := 0, lastSyncUs := s1.time.us } }

/-- Enter HOLDOVER: TIM_RATE is held at its average over the last 16 Sync intervals in LOCKED (R66, R67, log 49). -/
def State.holdover (s : State) : State :=
  let s1 := s.unfollow stHoldover
  let n := s1.time.rates.length
  let s2 := if n = 0 then s1 else s1.setRate (s1.time.rates.foldl (fun a b => a + b) 0 / (n : Int))
  { s2 with time := { s2.time with holdUs := s2.time.us } }

/-- LOCKED is lost to HOLDOVER, the departure that TIM_LOSS_COUNT counts (R67, log 49). -/
def State.lockLost (s : State) : State := (s.count F.TIM_LOSS_COUNT.COUNT 1).holdover

/-- Set the counter in one cycle (R68). -/
def State.stepTo (s : State) (t : Nat) : State :=
  { s with
    time := { s.time with now := t % 2 ^ 64, frac := 0 }
    anm := { s.anm with since := t % 2 ^ 64, lastStamp := none } }

/-- The servo (R70): `off` in pt, over `n` TCLK cycles since the last valid Sync from the same master. -/
def State.servo (s : State) (off : Int) (n : Nat) : State :=
  let corr := off * 2 ^ 32 / (n : Int)
  let integ := clampInt (-rateLimit) rateLimit (s.time.integ - corr / (2 ^ s.fld F.TIM_SERVO.KI_SH : Nat))
  let s1 := s.setRate (integ - corr / (2 ^ s.fld F.TIM_SERVO.KP_SH : Nat))
  { s1 with time := { s1.time with integ := integ } }

/-- The servo runs when an earlier valid Sync from this master exists (R70). -/
def State.servoRun (s : State) (m : Nat) (off : Int) : State :=
  match s.time.lastSync.find? (fun e => e.1 = m) with
  | some (_, c) => if c < s.time.cyc then s.servo off (s.time.cyc - c) else s
  | none => s

/-- The first offset measurement with STEPPED 0 steps the counter when it is beyond LOCK_NS (R67, R68). -/
def State.firstOffset (s : State) (off : Int) (master : Nat) : State :=
  if s.syncState = stAcquire && !(s.flag F.TIM_STATUS.STEPPED) then
    (if off.natAbs ≤ s.fld F.TIM_LIMITS.LOCK_NS * 16 then s else s.stepTo master).setFld F.TIM_STATUS.STEPPED 1
  else s

/-- The counts of consecutive Syncs, and the transitions into LOCKED and HOLDOVER (R67). The rate set at each Sync in LOCKED is one of
the 16 that HOLDOVER averages (log 49). -/
def State.syncCounts (s : State) (off : Int) : State :=
  let inLock := decide (off.natAbs ≤ s.fld F.TIM_LIMITS.LOCK_NS * 16)
  let out := decide (s.fld F.TIM_LIMITS.LOSS_NS * 16 < off.natAbs)
  let w := if inLock then s.time.within + 1 else 0
  let b := if out then s.time.beyond + 1 else 0
  let s1 := { s with time := { s.time with within := w, beyond := b } }
  if s.syncState = stAcquire then
    if 16 ≤ w then
      let s2 := s1.toSync stLocked
      { s2 with time := { s2.time with everLocked := true, beyond := 0 } }
    else s1
  else
    let s2 := { s1 with time := { s1.time with rates := (s1.rate :: s1.time.rates).take 16 } }
    if 4 ≤ b then s2.lockLost else s2

/-- TIM_OFFSET saturates (TIM_OFFSET map). -/
def State.setOffset (s : State) (off : Int) : State :=
  s.setReg Adr.TIM_OFFSET (BitVec.ofNat 64 (codeOf 32 (clampInt (-(2 ^ 31 - 1)) (2 ^ 31 - 1) off)))

/-- Nanoseconds of a Sync interval from logSyncInterval. -/
def intervalNs (log : Int) : Nat := if 0 ≤ log then 1000000000 * 2 ^ log.toNat else 1000000000 / 2 ^ (-log).toNat

/-- A valid Sync of the master followed is measured (R67, R70). -/
def State.measureSync (s : State) (m masterTime : Nat) (log : Int) : State :=
  let off : Int := (s.time.now : Int) - masterTime
  let s1 := (s.setOffset off).servoRun m off
  let s2 := (s1.firstOffset off masterTime).syncCounts off
  { s2 with time := { s2.time with
    lastSync := (m, s.time.cyc) :: s.time.lastSync.filter (fun e => e.1 != m)
    syncNs := intervalNs log
    lastSyncUs := s.time.us } }

/-- Plant time of a gPTP time (R73): the sub-nanoseconds in units of 2^-16 ns. -/
def State.plantTime (s : State) (seconds ns sub : Nat) : Int :=
  ((seconds : Int) - s.fld F.TIM_EPOCH.SECONDS) * 16000000000 + (ns * 16 : Nat) + (sub * 16 / 2 ^ 16 : Nat)

/-- A Sync of master `m` on a port, with the master's time at the device's timestamp point (R67 to R70): `std` says that it
meets IEEE 802.1AS-2020 for the port and domain. -/
def State.syncReceived (s : State) (port m : Nat) (std : Bool) (t log : Int) (hops : Nat) : State :=
  if !(s.gptpPort port) || !std || !s.pwr.pllLocked then s
  else if t < 0 || (2 ^ 64 : Int) ≤ t then s.raise F.TIM_STATUS.RANGE_ERR
  else if s.time.selected != some (m, port) then s
  else
    let st := s.syncState
    let s1 := if st = stFree || st = stHoldover || st = stGrandmaster then s.acquire m port else s
    if s1.time.master = some m then (s1.measureSync m t.toNat log).setFld F.TIM_STATUS.HOPS hops else s1

/-- SYNC_RECEIVED (R67). -/
def execSyncReceived (port : Fin 8) (master : Word) (std : Bool) (seconds : BitVec 64) (ns : Word32) (sub : BitVec 16)
    (log : BitVec 8) (hops : BitVec 8) (s : State) : Host.Outcome State Fault Refusal :=
  done (s.syncReceived port master.toNat std (s.plantTime seconds.toNat ns.toNat sub.toNat) log.toInt hops.toNat)

/-- A clock section may set a port's role, which BMCA does not change then (R73): may the port be a slave? -/
def State.mayFollow (s : State) (p : Nat) : Bool := let r := s.time.roles.get 0 p; r = 0 || r = 2

/-! ### 802.1AS messages (R73, R595) -/

def State.port (s : State) (p : Nat) : PlkPort := s.plk.ports.get PlkPort.reset p
def State.setPort (s : State) (p : Nat) (x : PlkPort) : State :=
  { s with plk := { s.plk with ports := s.plk.ports.set PlkPort.reset p x } }
/-- Change port `p`. -/
def State.modPort (s : State) (p : Nat) (f : PlkPort → PlkPort) : State := s.setPort p (f (s.port p))

/-- An 802.1AS message leaves a port with the port's stamp (R57, R61); it is lost on the wire while lock is lost (R600). -/
def State.putGptp (s : State) (port kind info : Nat) : State :=
  let st := s.stamp (0x500 + port)
  if (s.port port).lock then st.2.emit (.gptp port kind st.1 (s.fld F.TIM_CTL.DOMAIN) info) else st.2

/-- An 802.1AS message is sent, whatever the gates; it waits for a frame in transmission and for messages before it (R595). -/
def State.sendGptp (s : State) (port kind info : Nat) : State :=
  let x := s.port port
  if s.time.cyc < x.busy || !x.gptp.isEmpty then s.setPort port { x with gptp := x.gptp ++ [(kind, info)] }
  else s.putGptp port kind info

/-- May the port send 802.1AS messages now? -/
def State.gptpSends (s : State) (port : Nat) : Bool :=
  s.gptpPort port && s.pwr.pllLocked && s.flag (F.PLK_PORT_STATUS.LINK port) && s.mode != .off

/-- May the port be a master port (R73)? -/
def State.mayLead (s : State) (p : Nat) : Bool := let r := s.time.roles.get 0 p; r = 0 || r = 1

/-- The grandmaster announces itself on its master ports, with the priorities of TIM_BMCA (R73, log 49). -/
def State.announce (s : State) : State :=
  (List.range 8).foldl (fun t p =>
    if t.gptpSends p && t.mayLead p then t.sendGptp p 5 (t.fld F.TIM_BMCA.PRIORITY1 * 256 + t.fld F.TIM_BMCA.PRIORITY2) else t) s

/-- BMCA_SELECTION of this device: `self`, which needs GM_CAPABLE, or of a master on a port (R67). SLAVE_PORT and HOPS show a master
that is followed; in FREE, HOLDOVER and GRANDMASTER the selection waits for its first valid Sync. -/
def State.bmca (s : State) (isSelf : Bool) (m port hops : Nat) : State :=
  if !s.takesPart || !s.pwr.pllLocked then s
  else if isSelf then
    if !(s.flag F.TIM_CTL.GM_CAPABLE) then s
    else
      let s1 := if s.syncState = stGrandmaster then s else s.toSync stGrandmaster
      let s2 := ((s1.setReg Adr.TIM_GM_ID (BitVec.ofNat 64 m)).setFld F.TIM_STATUS.SLAVE_PORT 0xF).setFld F.TIM_STATUS.HOPS 0
      { s2 with time := { s2.time with master := none, selected := none } }.announce
  else if !(s.gptpPort port) || !(s.mayFollow port) then s
  else
    let st := s.syncState
    let s1 := { s.setReg Adr.TIM_GM_ID (BitVec.ofNat 64 m) with time := { s.time with selected := some (m, port) } }
    if st = stAcquire || st = stLocked then
      (if s.time.master = some m then s1.setFld F.TIM_STATUS.SLAVE_PORT port else s1.acquire m port).setFld F.TIM_STATUS.HOPS hops
    else s1

/-- BMCA_SELECTION (R67): the clock identity of the grandmaster selected. -/
def execBmcaSelection (isSelf : Bool) (master : Word) (port : Fin 8) (hops : BitVec 8) (s : State) :
    Host.Outcome State Fault Refusal := done (s.bmca isSelf master.toNat port hops.toNat)

/-- SYNC_TIMEOUT: no valid Sync for 3 Sync intervals (R67). -/
def execSyncTimeout (s : State) : Host.Outcome State Fault Refusal :=
  let late := decide (3 * s.time.syncNs ≤ (s.time.us - s.time.lastSyncUs) * 1000)
  done (if !late then s
    else if s.syncState = stLocked then s.lockLost
    else if s.syncState = stAcquire then (if s.time.everLocked then s.holdover else s.unfollow stFree)
    else s)

/-- HOLDOVER_EXPIRY: HOLDOVER has lasted longer than TIM_HOLD (R67). -/
def execHoldoverExpiry (s : State) : Host.Outcome State Fault Refusal :=
  done (if s.syncState = stHoldover && decide (s.fld F.TIM_HOLD.HOLD_MS * 1000 < s.time.us - s.time.holdUs) then s.unfollow stFree
    else s)

/-- logSyncInterval as master, one byte in two's complement: −SYNC_EXP (R73). -/
def State.syncLog (s : State) : Nat := (256 - s.fld F.TIM_CTL.SYNC_EXP) % 256

/-- SYNC_TRANSMIT: the grandmaster, or a relay that is LOCKED on another port, sends Sync and Follow_Up (R67, R73). -/
def execSyncTransmit (port : Fin 8) (s : State) : Host.Outcome State Fault Refusal :=
  let isMaster := s.syncState = stGrandmaster || (s.syncState = stLocked && s.fld F.TIM_STATUS.SLAVE_PORT != port.val)
  done (if isMaster && s.gptpSends port && s.mayLead port then (s.sendGptp port 0 s.syncLog).sendGptp port 1 s.syncLog else s)

/-- PDELAY_REQ_TRANSMIT (R73). -/
def execPdelayReqTransmit (port : Fin 8) (s : State) : Host.Outcome State Fault Refusal :=
  done (if s.gptpSends port then s.sendGptp port 2 0 else s)

/-- An 802.1AS frame arrives: a Pdelay_Req (messageType 2) is answered with Pdelay_Resp and Pdelay_Resp_Follow_Up (R73, log 49); what a
Sync or an Announce says comes with the commands SYNC_RECEIVED and BMCA_SELECTION. -/
def State.gptpIn (s : State) (port : Nat) (body : List Byte) (fcsOk : Bool) : State :=
  if fcsOk && s.gptpSends port && natLE (body.take 1) % 16 = 2 then (s.sendGptp port 3 0).sendGptp port 4 0 else s

/-! ### Register writes (R67, R71, R82) -/

/-- A write of TIM_CTL in CONFIGURE; SYNC_EN written 0 ends the synchronisation (R67). -/
def State.timCtlWrite (s : State) (v : Nat) : State :=
  if s.mode != .configure then s
  else
    let s1 := s.setReg Adr.TIM_CTL (BitVec.ofNat 64 (bitsOf v 26 8 * 2 ^ 8 + bitsOf v 1 0))
    if bitOf v 0 then s1 else s1.syncLost

/-- SYNC_EN_WRITE: a write of TIM_CTL (R67). -/
def execSyncEnWrite (value : Word32) (s : State) : Host.Outcome State Fault Refusal := 
  done (if s.takesIo Adr.TIM_CTL then s.timCtlWrite value.toNat else s)

/-- A write of TIM_SET (R71). -/
def State.timSetWrite (s : State) (v : Nat) : State :=
  if s.syncState = stFree && !(s.flag F.TIM_STATUS.STEPPED) then (s.stepTo v).setFld F.TIM_STATUS.STEPPED 1
  else s.raise F.TIM_STATUS.SET_REJ

/-- TIM_SET (R71). -/
def execTimSet (value : Word) (s : State) : Host.Outcome State Fault Refusal := 
  done (if s.takesIo Adr.TIM_SET then s.timSetWrite value.toNat else s)

/-- A write of TARGET or PERIOD of compare unit `n` (R82). -/
def State.cmpWrite (s : State) (n addr : Nat) (v : Word) : State :=
  if s.flag (F.TIM_CMP_CTL.ARM n) then s.raise (F.TIM_CMP_STAT.CFG_ERR n) else s.setReg addr v

/-- A write of CTL of compare unit `n`: a reserved ACTION is not armed (R82). -/
def State.cmpCtlWrite (s : State) (n v : Nat) : State :=
  let action := bitsOf v 3 1
  let base := bitsOf v 31 16 * 2 ^ 16 + action * 2
  if bitOf v 0 && 6 ≤ action then (s.setReg (Adr.TIM_CMP_CTL n) (BitVec.ofNat 64 base)).raise (F.TIM_CMP_STAT.CFG_ERR n)
  else s.setReg (Adr.TIM_CMP_CTL n) (BitVec.ofNat 64 (base + v % 2))

/-- COMPARE_UNIT_WRITE of register 0 TARGET, 1 PERIOD or 2 CTL (R82). -/
def execCompareUnitWrite (n : Fin 64) (which : Fin 3) (value : Word) (s : State) : Host.Outcome State Fault Refusal :=
  done (if !s.takesIo (Adr.TIM_CMP_CTL n) then s else match which with
    | 0 => s.cmpWrite n (Adr.TIM_CMP_TARGET n) value
    | 1 => s.cmpWrite n (Adr.TIM_CMP_PERIOD n) value
    | 2 => s.cmpCtlWrite n (value.toNat % 2 ^ 32))

/-! ### One clock cycle (R25, R50, R161, R267, R457, R833) -/

/-- CCLK cycles in one TCLK cycle, in 120ths, by the divider code (R25). -/
def cclkSteps (code : Nat) : Nat := match code with | 0 => 240 | 1 => 192 | 2 => 160 | _ => 120

/-- Does the CCLK of shaft `k` run? -/
def State.cclkRuns (s : State) (k : Nat) : Bool := s.pwr.pllLocked && s.domainOn (12 + k)

/-- One TCLK cycle of the CCLK counters, shafts `k` on. -/
def State.cclkTick (s : State) (n k : Nat) : State :=
  match n with
  | 0 => s
  | j + 1 =>
    let c := s.pwr.cclk
    let s1 := if s.cclkRuns k then
      { s with pwr := { s.pwr with cclk := c.set 0 k (c.get 0 k + cclkSteps (s.fld (F.PWR_SHAFT_CLK.CUR k))) } } else s
    s1.cclkTick j (k + 1)

/-- BUDGET of a hewer after plant time advanced by `d` pt (R161). -/
def Hewer.chargeBudget (x : Hewer) (d : Nat) : Hewer :=
  if x.body.isNone || !x.bodyBit || x.pl != 0 || x.halted then x
  else
    let a := x.budgetAcc + d
    let b := x.budget.toNat % 2 ^ 32
    { x with budget := BitVec.ofNat 64 (b - a / 256), budgetAcc := a % 256 }

/-- Does hewer `h`'s canary run (R459)? -/
def State.canaryRuns (s : State) (h : Nat) : Bool :=
  let x := s.hew h
  s.flag (F.CAN_HWR_CTL.EN h) && s.mode != .off && s.cclkRuns (h / 64) && !x.halted && !x.checkStopped
  && !(x.bodyBit && x.pl = 0)

/-- A tick brings a canary of that timeout from `r` down by 1: the pre-warning is due (R458). -/
def warnTick (timeout r : Nat) : Bool := timeout / 2 != 0 && decide (timeout / 2 < r) && decide (r - 1 ≤ timeout / 2)

/-- One tick of hewer `h`'s canary, which runs with `r` left (R457, R458). -/
def State.canaryTick (s : State) (h r : Nat) : State :=
  (s.setFld (F.CAN_HWR_STAT.REMAIN h) (r - 1)).modHew h (fun x =>
    { x with canWarn := x.canWarn || warnTick x.canT r, canDue := if r = 1 then some s.time.cyc else x.canDue })

/-- One microsecond tick of the hewers' canaries, from hewer `h` on (R457). -/
def State.canaryTicks (s : State) (n h : Nat) : State :=
  match n with
  | 0 => s
  | k + 1 =>
    let r := s.fld (F.CAN_HWR_STAT.REMAIN h)
    (if r != 0 && s.canaryRuns h then s.canaryTick h r else s).canaryTicks k (h + 1)

/-- One tick of the device canary, which runs with `r` left (R457, R458). -/
def State.devCanaryTick (s : State) (r : Nat) : State :=
  { s.setFld F.CAN_DEV_STAT.REMAIN (r - 1) with
    can := { s.can with
      warnDue := s.can.warnDue || warnTick s.can.timeout r
      due := s.can.due || r = 1
      dueAt := if r = 1 && s.pwr.pllLocked then some s.time.cyc else none } }

/-- One microsecond tick (R457, R466, R833). -/
def State.usTick (s : State) : State :=
  let r := s.fld F.CAN_DEV_STAT.REMAIN
  let s1 := { s with time := { s.time with us := s.time.us + 1, usPhase := 0 } }
  let s2 := if r != 0 && s.flag F.CAN_DEV_CTL.EN && !s.devCanaryHeld then s1.devCanaryTick r else s1
  s2.canaryTicks 512 0

/-- How far the 64-bit counter has moved. -/
def advanced (old new : Nat) : Nat := if old ≤ new then new - old else new + 0x10000000000000000 - old

/-- Stores that wait in a hewer's store buffer drain one per cycle (R343, log 52). -/
def State.drainTick (s : State) : State :=
  s.hewers.foldl (fun t e => if (t.twin (t.twinOf e.1)).sbuf.isEmpty then t else t.sbDrain e.1 1) s

/-- One cycle of the clock that runs: TCLK while the root PLL is locked, else REFCLK or the on-die oscillator. The cycles since the last
microsecond tick count on when the clock changes (R833, log 49). -/
def State.tick (s : State) : State :=
  if s.mode = .off then s
  else if s.pwr.pllLocked then
    let t := s.timeAfter 1
    let s0 := { s with time := { s.time with now := t.1, prev := s.time.now, frac := t.2, cyc := s.time.cyc + 1, usPhase := s.time.usPhase + 1 } }
    let s1 := s0.mapHewers (fun _ x => x.chargeBudget (advanced s.time.now t.1))
    let s2 := (s1.cclkTick 8 0).drainTick.romTick
    (if 800 ≤ s2.time.usPhase then s2.usTick else s2).settle
  else
    let s1 := { s with time := { s.time with usPhase := s.time.usPhase + 1 } }
    if 100 ≤ s1.time.usPhase then s1.usTick else s1

end Sys2Proof.Machine
end

