-- ==== Sys2Proof/Machine/PlantLinks.lean ====
section
/-!
DEFINITION. The plant links (R581 to R606) and the partner logic (R703 to R711): ingress, egress reads and launches, queues
and gate lists, link supervision, PARTNER frames and the management rings.
-/
namespace Sys2Proof.Machine

/-- The power domain of port `p` (R581). -/
def portDomain (p : Nat) : Nat := if p < 4 then 6 else 7

/-- Does port `p` count as up (R599)? -/
def State.portUp (s : State) (p : Nat) : Bool :=
  s.domainOn (portDomain p) && s.flag (F.PLK_PORT_STATUS.LINK p) && !(s.linkRetired p)

/-- Largest frame of port `p`, FCS included (R581). -/
def State.maxFrame (s : State) (p : Nat) : Nat := if s.flag (F.PLK_PORT_CTL.JUMBO p) then 9022 else 1522
/-- Most records of a frame of port `p` (R585). -/
def State.maxRecords (s : State) (p : Nat) : Nat := if s.flag (F.PLK_PORT_CTL.JUMBO p) then 280 else 45

/-! ### Queues and failover (R593, R595, R600) -/

def State.queue (s : State) (p q : Nat) : List PlkFrame := (s.port p).queues.get [] q
def State.setQueue (s : State) (p q : Nat) (l : List PlkFrame) : State :=
  s.modPort p (fun x => { x with queues := x.queues.set [] q l })

/-- PLK_EGR_DROP (R592, R593, R600, R714). -/
def State.logEgrDrop (s : State) (p entry inst cause : Nat) : State :=
  s.log (0x500 + p) 0x54 0 0 inst (p * 2 ^ 61 + entry % 0x2000 * 2 ^ 48 + cause * 2 ^ 45)

/-- A frame of port `p` is discarded: counted, and logged where an egress entry built it. -/
def State.dropFrame (s : State) (p cause : Nat) (f : PlkFrame) : State :=
  let s1 := s.count (F.PLK_PORT_COUNTS.EGR_DROP p) 1
  match f.entry with
  | some e => s1.logEgrDrop p e f.inst cause
  | none => s1

/-- Discard the frames of a list. -/
def State.dropFrames (s : State) (p cause : Nat) (l : List PlkFrame) : State :=
  match l with
  | [] => s
  | f :: rest => (s.dropFrame p cause f).dropFrames p cause rest

/-- Discard the frames of entry `e` that have not started (R593), queues from `q` on. -/
def State.dropStale (s : State) (p e n q : Nat) : State :=
  match n with
  | 0 => s
  | k + 1 =>
    let l := s.queue p q
    let old := l.filter (fun f => f.entry = some e)
    ((s.setQueue p q (l.filter (fun f => f.entry != some e))).dropFrames p 6 old).dropStale p e k (q + 1)

/-- Add a frame to a queue of port `p`, which is up. -/
def State.enqueue (s : State) (p q : Nat) (f : PlkFrame) : State :=
  let s1 := match f.entry with | some e => s.dropStale p e 4 0 | none => s
  s1.setQueue p q (s1.queue p q ++ [f])

/-- The port that takes the frames of port `p`, which is down (R600). -/
def State.failover (s : State) (p : Nat) : Option Nat :=
  let alt := s.fld (F.PLK_PORT_CTL.ALT_PORT p)
  if s.flag (F.PLK_PORT_CTL.FAILOVER p) && s.domainOn (portDomain p) && s.portUp alt then some alt else none

/-- Send a frame into queue `q` of port `p`, or of its failover port (R600). -/
def State.sendFrame (s : State) (p q : Nat) (f : PlkFrame) : State :=
  if s.portUp p then s.enqueue p q f
  else match f.dup with
    | some d => if s.portUp d then s else s.dropFrame p 5 f
    | none =>
      match s.failover p with
      | some alt => s.enqueue alt q f
      | none => s.dropFrame p 5 f

/-- Send every frame of a list into queue `q` of port `p`. -/
def State.sendFrames (s : State) (p q : Nat) (l : List PlkFrame) : State :=
  match l with
  | [] => s
  | f :: rest => (s.sendFrame p q f).sendFrames p q rest

/-- The frames in the queues of port `p`, which has gone down, move or are discarded (R600), queues from `q` on. -/
def State.moveQueues (s : State) (p n q : Nat) : State :=
  match n with
  | 0 => s
  | k + 1 => ((s.setQueue p q []).sendFrames p q (s.queue p q)).moveQueues p k (q + 1)

/-! ### Link supervision (R599) -/

/-- The link of port `p` goes down: cause 0 is EN written 0, for which R714 lists no code (log 21). -/
def State.linkDown (s : State) (p cause : Nat) : State :=
  if !(s.flag (F.PLK_PORT_STATUS.LINK p)) then s
  else
    let s1 := (s.setFld (F.PLK_PORT_STATUS.LINK p) 0).raise (F.PLK_PORT_STATUS.LINK_DOWN p)
    (((s1.log (0x500 + p) 0x50 0 0 0 (p * 2 ^ 61 + cause * 2 ^ 58)).linkEvent p).modPort p (fun x => { x with gptp := [] })).moveQueues p 4 0

/-- The cause for which the link of port `p` must go down now, or 0: 1 ms of lost lock, its domain, its retirement, or its
module (R599). -/
def State.downCause (s : State) (p : Nat) (absent : Bool) : Nat :=
  let x := s.port p
  if !(s.domainOn (portDomain p)) then 2
  else if s.linkRetired p then 3
  else if absent then 4
  else if !x.lock && decide (x.lockUs + 1000 ≤ s.time.us) then 1
  else 0

/-- PLK_LINK_DOWN: `absent` says that the port has no module (R599). -/
def execPlkLinkDown (port : Fin 8) (absent : Bool) (s : State) : Host.Outcome State Fault Refusal :=
  let c := s.downCause port absent
  let s1 := if absent then s.modPort port (fun x => { x with lock := false, lockUs := s.time.us }) else s
  done (if c = 0 then s else s1.linkDown port c)

/-- May the PCS of port `p` run: EN 1, RATE not 3, domain on (R599)? -/
def State.pcsOn (s : State) (p : Nat) : Bool :=
  s.domainOn (portDomain p) && s.flag (F.PLK_PORT_CTL.EN p) && s.fld (F.PLK_PORT_CTL.RATE p) != 3

/-- PLK_LINK_UP: lock has been held for 10 ms (R599). -/
def execPlkLinkUp (port : Fin 8) (s : State) : Host.Outcome State Fault Refusal :=
  let x := s.port port
  done (if x.lock && decide (x.lockUs + 10000 ≤ s.time.us) && s.pcsOn port && !(s.linkRetired port)
      && !(s.flag (F.PLK_PORT_STATUS.LINK port)) then
      (s.raise (F.PLK_PORT_STATUS.LINK port)).log (0x500 + port) 0x51 0 0 0
        (port.val * 2 ^ 61 + s.fld (F.PLK_PORT_CTL.RATE port) * 2 ^ 59)
    else s)

/-- The PCS of port `p` gains or loses lock. -/
def State.setLock (s : State) (p : Nat) (on : Bool) : State :=
  if (s.port p).lock = on then s else s.modPort p (fun x => { x with lock := on, lockUs := s.time.us })

/-- PCS_LOCK_LOST (R599). -/
def execPcsLockLost (port : Fin 8) (s : State) : Host.Outcome State Fault Refusal := done (s.setLock port false)

/-- PCS_LOCK_ACQUIRED (R599). -/
def execPcsLockAcquired (port : Fin 8) (s : State) : Host.Outcome State Fault Refusal :=
  done (if s.pcsOn port then s.setLock port true else s)

/-- A write of PLK_PORTn_CTL: RATE, FEC, AN and JUMBO in CONFIGURE only (R599, R745). -/
def State.portCtlWrite (s : State) (p v : Nat) : State :=
  let old := (s.reg (Adr.PLK_PORT_CTL p)).toNat
  let locked := if s.mode = .configure then v else old
  let new := setBits (setBits (setBits 0 31 31 (bitsOf v 31 31)) 29 24 (bitsOf locked 29 24)) 23 19 (bitsOf v 23 19)
  let s1 := s.setReg (Adr.PLK_PORT_CTL p) (BitVec.ofNat 64 new)
  let s2 := if s1.pcsOn p then s1 else s1.setLock p false
  if bitOf v 31 then s2 else s2.linkDown p 0

/-- PORT_CTL_WRITE (R599). -/
def execPortCtlWrite (port : Fin 8) (value : Word32) (s : State) : Host.Outcome State Fault Refusal :=
  done (if s.takesIo (Adr.PLK_PORT_CTL port) then s.portCtlWrite port value.toNat else s)

/-- The ports of a domain return to their power-up state (R606): the PLK_PORTn registers are reset with their domain. -/
def State.resetPort (s : State) (p : Nat) : State :=
  let s1 := s.setPort p PlkPort.reset
  { s1 with plk := { s1.plk with reads := s1.plk.reads.filter (fun r => r.port != p) } }

/-! ### Management receive ring (R603) -/

/-- Entries of a management ring: SIZE 13 to 15 acts as 12. -/
def ringEntries (size : Nat) : Nat := if size = 0 then 0 else 2 ^ (if 12 < size then 12 else size)

/-- A frame goes to the management receive ring, or is dropped and counted (R603). -/
def State.mgmtReceive (s : State) (p ts : Nat) (bytes : List Byte) : State :=
  let n := ringEntries (s.fld F.PLK_MGMT_RX.SIZE)
  let head := s.fld F.PLK_MGMT_RX_PTR.HEAD
  let used := (head + 0x10000 - s.fld F.PLK_MGMT_RX_PTR.TAIL) % 0x10000
  let at_ := s.fld F.PLK_MGMT_RX.BASE * 4096 + head % (if n = 0 then 1 else n) * 2048
  if n ≤ used || 2032 < bytes.length || !(s.dramReach at_ 2048) then s.count (F.PLK_PORT_COUNTS.OVERRUN p) 1
  else
    let body := bytesLE 8 ts ++ bytesLE 8 (p * 2 ^ 61 + bytes.length) ++ bytes
    (s.dmaWriteBy (0x500 + p) at_ body).setFld F.PLK_MGMT_RX_PTR.HEAD (head + 1)

/-! ### Partner frames (R601, R602, R706 to R711) -/

/-- READY (R706). -/
def State.ready (s : State) : Bool :=
  s.flag F.FLT_PARTNER.EN && s.mode = .standby && s.fld F.TIM_STATUS.STATE = 2 && s.flt.frames.length = 16
  && s.flt.frames.all (fun f => f.good && f.upsets = s.lode.upsets)

/-- LOSS periods of PARTNER frames, in microseconds (R602). -/
def State.lossUs (s : State) : Nat :=
  let n := s.fld F.PLK_PARTNER.LOSS
  (if n < 2 then 2 else n) * s.fld F.PLK_PARTNER.PERIOD_US

/-- The device number of the partner (R602). -/
def State.partnerNum (s : State) : Nat := s.devnum ^^^ 1

/-- A PARTNER frame reaches port `p` (R602, R706, R707, R710, R711). -/
def State.partnerFrame (s : State) (p dev openB mode tim : Nat) (ready : Bool) : State :=
  if !((s.fld F.PLK_PARTNER.PORTS).testBit p) || dev != s.partnerNum then s
  else
    let s1 := ((s.count F.PLK_PARTNER_STAT.RX_COUNT 1).setFld F.PLK_PARTNER_STAT.PEER_MODE mode).raise F.PLK_PARTNER_STAT.SEEN
    let good := (tim = 2 || tim = 4) && s.lode.bounds.contains openB
    let m := Mode.ofCode (mode % 8)
    let live := fun (x : Mode) => x = .run || x = .degraded
    let s2 := { s1 with
      flt := { s1.flt with
        frames := ((⟨good, s.lode.upsets⟩ : PartnerSeen) :: s1.flt.frames).take 16
        peerMode := mode % 8
        peerReady := ready
        peerDevice := dev
        takeDue := s.mode = .standby && (m = .safeHold || m = .configure || m = .selfTest)
        dualDue := s1.flt.dualDue || (live s.mode && live m) }
      plk := { s1.plk with heardUs := s.time.us } }
    if m = .standby && ready then (s2.setFld F.FLT_STATUS.PARTNER_LOST 0).settle else s2

/-- Can port `p` receive a frame now (R599)? -/
def State.receives (s : State) (p : Nat) : Bool := s.portUp p && (s.port p).lock && s.pwr.pllLocked && s.mode != .off

/-- PARTNER_FRAME_RECEIVED: sending device, LOD_OPEN_B, mode, TIM state and READY of the frame (R602). -/
def execPartnerFrameReceived (port : Fin 8) (device : BitVec 12) (openB : Word) (mode : Fin 8) (tim : Fin 8) (ready : Bool)
    (s : State) : Host.Outcome State Fault Refusal :=
  done (if s.receives port then s.partnerFrame port device.toNat openB.toNat mode tim ready else s)

/-- PLK_PARTNER_LOST: LOSS periods have passed without a PARTNER frame (R602, R709), for the first time since the last one. -/
def execPlkPartnerLost (s : State) : Host.Outcome State Fault Refusal :=
  done (if (s.flag F.PLK_PARTNER_STAT.LOST && !(s.flag F.PLK_PARTNER_STAT.SEEN)) || s.fld F.PLK_PARTNER.PORTS = 0 || decide (s.time.us < s.plk.heardUs + s.lossUs) then s
    else
      let s1 := (s.raise F.PLK_PARTNER_STAT.LOST).setFld F.PLK_PARTNER_STAT.SEEN 0
      let s2 := { s1 with plk := { s1.plk with heardUs := s.time.us } }
      let s3 := s2.log 0xF00 0x52 0 0 0 (s.partnerNum * 2 ^ 52 + s.flt.peerMode * 2 ^ 49)
      if s.mode = .run || s.mode = .degraded then (s3.raise F.FLT_STATUS.PARTNER_LOST).settle else s3)

/-- TAKEOVER (R707). -/
def execTakeover (s : State) : Host.Outcome State Fault Refusal :=
  let s1 := { s with flt := { s.flt with takeDue := false } }
  done (if s.mode = .standby && s.flag F.FLT_PARTNER.EN && (s.flag F.PLK_PARTNER_STAT.LOST || s.flt.takeDue) then
      (if s.ready || s.flag F.FLT_PARTNER.TAKE_UNREADY then
        let s2 := (s1.count F.FLT_PARTNER_STAT.TAKEOVERS 1).log 0xF00 0x14 0 0 0 (b2n (!s.ready) * 2 ^ 47)
        (s2.toMode s2.liveMode).settle
      else s)
    else s1)

/-- DUAL_RUN (R711). -/
def execDualRun (s : State) : Host.Outcome State Fault Refusal :=
  let s1 := { s with flt := { s.flt with dualDue := false } }
  done (if !s.flt.dualDue || !(s.mode = .run || s.mode = .degraded) then s1
    else
      let s2 := (s1.raise F.FLT_PARTNER_STAT.DUAL_RUN).log 0xF00 0x15 0 0 0 (s.flt.peerDevice * 2 ^ 36)
      if s.devnum % 2 = 1 then (s2.toMode .standby).settle else s2)

/-! ### Ingress (R582 to R588) -/

/-- Bytes of the ingress buffer of port `p` that frames occupy (R587). -/
def State.ingressUsed (s : State) (p : Nat) : Nat :=
  (s.lode.inq.map (fun i => match i with
    | .write w => (match w.frame with | some (q, n) => if q = p then n else 0 | none => 0)
    | _ => 0)).foldl (fun a b => a + b) 0

/-- The lowest-numbered window, from `w` on, that matches a plant-link record (R110). -/
def State.linkWindow (s : State) (p dev idx n w : Nat) : Option Nat :=
  match n with
  | 0 => none
  | k + 1 => if s.winMatchesLink w p dev idx then some w else s.linkWindow p dev idx k (w + 1)

/-- The lode write of a record (R585, R88), for the slot its window gives. -/
def recordWrite (r : List Byte) (slot : Nat) (frame : Option (Nat × Nat)) : LodeWrite where
  path := .link
  slot := slot
  value := BitVec.ofNat 64 (natBE (sliceBytes r 0 8))
  kind := natBE (sliceBytes r 19 1) / 16
  quality := natBE (sliceBytes r 20 2)
  time := some (natBE (sliceBytes r 8 8))
  source := natBE (sliceBytes r 16 3)
  poison := false
  frame := frame

/-- Does any of the first `n` records of a frame match a window (R110)? -/
def State.anyRecord (s : State) (p dev n : Nat) (l : List Byte) : Bool :=
  (List.range n).any (fun k => (s.linkWindow p dev (natBE (sliceBytes l (k * 32 + 24) 2)) 64 0).isSome)

/-- Decode the records of a SIGNAL frame, in order (R588, R110); the last that reaches the lode frees the frame's space (R587). -/
def State.decodeRecords (s : State) (p dev ts size n : Nat) (l : List Byte) : State :=
  match n with
  | 0 => s
  | k + 1 =>
    let r := l.take 32
    let idx := natBE (sliceBytes r 24 2)
    let s1 := match s.linkWindow p dev idx 64 0 with
      | some w =>
        (s.setReg (Adr.PLK_WIN_LAST w) (BitVec.ofNat 64 ts)).lodeSend
          (.write (recordWrite r (s.winSlot w idx) (if s.anyRecord p dev k (l.drop 32) then none else some (p, size))))
      | none => s.count F.LOD_COUNTS.DROPPED 1
    s1.decodeRecords p dev ts size k (l.drop 32)

/-- A draught frame (R584, R586), from its header on; `bytes` is the whole frame. -/
def State.draughtFrame (s : State) (p ts : Nat) (bytes hd : List Byte) (fcsOk : Bool) : State :=
  let type := natBE (sliceBytes hd 1 1)
  let dev := natBE (sliceBytes hd 2 2) % 0x1000
  let n := natBE (sliceBytes hd 4 2)
  if !fcsOk || natBE (sliceBytes hd 0 1) != 1 || type = 0 || 3 < type || hd.length < 32 + n * 32 then
    s.count (F.PLK_PORT_COUNTS.RX_DROP p) 1
  else if type = 3 then s.mgmtReceive p ts bytes
  else if type = 1 then s.decodeRecords p dev ts (bytes.length + 4) n (hd.drop 32)
  else if n = 0 then s
  else
    let r := hd.drop 32
    s.partnerFrame p dev (natBE (sliceBytes r 8 8)) (natBE (sliceBytes r 16 1) % 8) (natBE (sliceBytes r 17 1))
      (natBE (sliceBytes r 18 1) % 2 = 1)

/-- A frame reaches port `p`, whole and without its FCS, whose check `fcsOk` gives (R581 to R588); its stamp is the port's (R60). -/
def State.frameIn (s0 : State) (p : Nat) (bytes : List Byte) (fcsOk : Bool) : State :=
  let tagged := natBE (sliceBytes bytes 12 2) = 0x8100
  let at_ := if tagged then 16 else 12
  let type := natBE (sliceBytes bytes at_ 2)
  let da := natBE (bytes.take 6)
  let size := bytes.length + 4
  let st := s0.stamp (0x500 + p)
  let s := st.2
  if !(s0.receives p) then s0
  else if type = 0x88F7 then s.gptpIn p (bytes.drop (at_ + 2)) fcsOk
  else if 131072 < s.ingressUsed p + s.maxFrame p then s.count (F.PLK_PORT_COUNTS.OVERRUN p) 1
  else if !(bitOf da 40) && da != s.fld (F.PLK_PORT_MAC.ADDR p) then s
  else if size < 64 || s.maxFrame p < size || (type = 0x8808 && natBE (sliceBytes bytes (at_ + 2) 2) = 1) then
    s.count (F.PLK_PORT_COUNTS.RX_DROP p) 1
  else if type = s.fld F.PLK_CTL.ETHERTYPE then s.draughtFrame p st.1 bytes (bytes.drop (at_ + 2)) fcsOk
  else if fcsOk && s.flag (F.PLK_PORT_CTL.PASS p) then s.mgmtReceive p st.1 bytes
  else s

/-- FRAME_RECEIVED (R586). -/
def execFrameReceived (port : Fin 8) (bytes : List Byte) (fcsOk : Bool) (s : State) : Host.Outcome State Fault Refusal :=
  done (s.frameIn port bytes fcsOk)

/-! ### Egress list (R589, R590) -/

/-- Doubleword `k` of egress entry `e` in force. -/
def State.egrDw (s : State) (e k : Nat) : Nat := (s.plk.egress.get 0 (e * 4 + k)).toNat

/-- Doubleword `k` of an entry without its reserved bits (R8, R589). -/
def egrFields (k : Nat) (v : Word) : Word :=
  BitVec.ofNat 64 (match k with
    | 0 => setBits v.toNat 52 48 0
    | 1 => setBits (setBits v.toNat 63 60 0) 20 16 0
    | 2 => setBits v.toNat 62 18 0
    | _ => 0)

/-- A write of PLK_EGR_DATA3 commits the entry (R590); DATA0 to DATA2 hold the doublewords written before it. -/
def State.egrCommit (s : State) (d3 : Word) : State :=
  let e := s.fld F.PLK_EGR_INDEX.ENTRY
  let put := fun (t : Table Word) (k : Nat) (v : Word) => t.set 0 (e * 4 + k) (egrFields k v)
  let t := put (put (put (put s.plk.egress 0 (s.reg (Adr.PLK_EGR_DATA 0))) 1 (s.reg (Adr.PLK_EGR_DATA 1))) 2
    (s.reg (Adr.PLK_EGR_DATA 2))) 3 d3
  { s with plk := { s.plk with egress := t } }

/-- EGRESS_ENTRY_COMMIT (R590). -/
def execEgressEntryCommit (value : Word) (s : State) : Host.Outcome State Fault Refusal := 
  done (if s.takesIo (Adr.PLK_EGR_DATA 3) then s.egrCommit value else s)

/-! ### Egress reads and launches (R591 to R594) -/

/-- The fields of an entry's doublewords (R589). -/
def egrCount (d : List Nat) : Nat := bitsOf (d.getD 1 0) 29 21
def egrSlot (d : List Nat) : Nat := bitsOf (d.getD 1 0) 47 30
def egrSafeEn (d : List Nat) : Bool := bitOf (d.getD 2 0) 63
def egrSafeSlot (d : List Nat) : Nat := bitsOf (d.getD 2 0) 17 0

/-- Why a launch of an entry on port `p` is dropped, or 0 (R592); `safe` says that it sends its safe slots. -/
def State.egrBad (s : State) (p : Nat) (d : List Nat) (safe : Bool) : Nat :=
  let first := if safe then egrSafeSlot d else egrSlot d
  if !(bitOf (d.getD 0 0) 63) then 1
  else if egrCount d = 0 || s.maxRecords p < egrCount d then 2
  else if slotCount < egrSlot d + egrCount d || slotCount < first + egrCount d then 3
  else if !(s.domainOn (portDomain p)) then 4
  else 0

/-- The second port of a duplicated launch from port `p` (R589, R591). -/
def egrDup (p : Nat) (d : List Nat) : Option Nat :=
  let q := bitsOf (d.getD 0 0) 61 59
  if bitOf (d.getD 0 0) 62 && q != p then some q else none

/-- One record (R585). -/
def egrRecord (kind idx ptime source : Nat) (c : LodeCopy) (quality : Nat) : List Byte :=
  bytesBE 8 c.value.toNat ++ bytesBE 8 ptime ++ bytesBE 3 source ++ bytesBE 1 (kind % 16 * 16) ++ bytesBE 2 quality
  ++ bytesBE 2 c.seq ++ bytesBE 2 idx ++ List.replicate 6 0

/-- The records of `n` slots from `base` on, read at `r` (R591, R115); `stamp` replaces their stamps (R594). -/
def State.egrRun (s : State) (base idx r n : Nat) (stamp : Option (Nat × Nat)) : List Byte :=
  (List.range n).flatMap (fun k =>
    let e := s.egressCopy (base + k) r
    let st := stamp.getD (e.1.ptime, e.1.source)
    egrRecord (s.slot (base + k)).kind (idx + k) st.1 st.2 e.1 e.2)

/-- Does the mode suppress the egress read of an entry (R594)? -/
def State.readSuppressed (s : State) (safeEn : Bool) : Bool :=
  match s.mode with
  | .off => true | .configure => true | .selfTest => true | .maintenance => true
  | .safeHold => !safeEn
  | _ => false

/-- The doublewords of an entry. -/
def State.egrDws (s : State) (e : Nat) : List Nat := (List.range 4).map (s.egrDw e)

/-- The egress read of entry `e` for a launch at `inst` on port `p` by compare unit `unit` (R591): the slots are read where
R592 does not drop the launch, or drops it on a port without power alone. -/
def State.egressRead (s : State) (unit p e inst : Nat) : State :=
  let d := s.egrDws e
  let others := s.plk.reads.filter (fun r => r.unit != unit)
  if s.readSuppressed (egrSafeEn d) then s
  else
    let r := inst - s.fld F.LOD_EGRESS_LEAD.LEAD
    let idx := bitsOf (d.getD 1 0) 15 0
    let reads := fun (safe : Bool) => let bad := s.egrBad p d safe
      bad = 0 || (bad = 4 && (egrDup p d).isSome)
    let ok := reads false
    let recs := if ok then s.egrRun (egrSlot d) idx r (egrCount d) none else []
    let safe := if egrSafeEn d && reads true then
      s.egrRun (egrSafeSlot d) idx r (egrCount d) (some (inst, s.source (0x500 + p))) else []
    { s with plk := { s.plk with
      reads := ⟨unit, p, e, inst, d, recs, safe⟩ :: others
      held := if ok then s.plk.held.set [] e recs else s.plk.held } }

/-- The launch that compare unit `n` is armed for: port, entry and instant (R79). -/
def State.launchOf (s : State) (n : Nat) : Option (Nat × Nat × Nat) :=
  let arg := s.fld (F.TIM_CMP_CTL.ARG n)
  if s.flag (F.TIM_CMP_CTL.ARM n) && s.fld (F.TIM_CMP_CTL.ACTION n) = 2 then
    some (arg % 8, arg / 8, (s.reg (Adr.TIM_CMP_TARGET n)).toNat) else none

/-- The read made for a launch. -/
def State.readFor (s : State) (unit p e inst : Nat) : Option EgrRead :=
  s.plk.reads.find? (fun r => r.unit = unit && r.port = p && r.entry = e && r.inst = inst)

/-- EGRESS_READ for compare unit `n`, once plant time has reached L − LOD_EGRESS_LEAD (R591). -/
def execEgressRead (n : Fin 64) (s : State) : Host.Outcome State Fault Refusal :=
  done (match s.launchOf n with
    | none => s
    | some (p, e, inst) =>
      if !s.pwr.pllLocked || decide (s.time.now + s.fld F.LOD_EGRESS_LEAD.LEAD < inst) || (s.readFor n p e inst).isSome then s
      else s.egressRead n p e inst)

/-- The 32-byte header of a draught frame (R584). -/
def State.draughtHeader (s : State) (type n flags tx seq entry : Nat) : List Byte :=
  bytesBE 1 1 ++ bytesBE 1 type ++ bytesBE 2 s.devnum ++ bytesBE 2 n ++ bytesBE 2 flags ++ bytesBE 8 tx ++ bytesBE 4 seq
  ++ bytesBE 2 entry ++ List.replicate 10 0

/-- Pad a frame to 60 bytes. -/
def padFrame (l : List Byte) : List Byte := l ++ List.replicate (60 - l.length) 0

/-- A frame with its addresses, tag and EtherType; the sending port fills the source address (R591). -/
def State.framed (s : State) (da : Nat) (tag : Option Nat) (payload : List Byte) : List Byte :=
  let t := match tag with | some v => bytesBE 2 0x8100 ++ bytesBE 2 v | none => []
  padFrame (bytesBE 6 da ++ List.replicate 6 0 ++ t ++ bytesBE 2 (s.fld F.PLK_CTL.ETHERTYPE) ++ payload)

/-- Put the frame of a launch into its queue or queues (R591, R600). -/
def State.sendLaunch (s : State) (p q : Nat) (dup : Option Nat) (f : PlkFrame) : State :=
  match dup with
  | none => s.sendFrame p q f
  | some d =>
    match s.portUp p, s.portUp d with
    | true, true => (s.enqueue p q { f with dup := some d }).enqueue d q { f with dup := some p }
    | true, false => s.enqueue p q { f with dup := some d }
    | false, true => s.enqueue d q { f with dup := some p }
    | false, false => s.dropFrame p 5 f

/-- Build and send the frame of a launch whose read is `r`. -/
def State.buildLaunch (s : State) (r : EgrRead) (flags : Nat) (recs : List Byte) : State :=
  let d0 := r.dws.getD 0 0
  let seq := (s.plk.seqs.get 0 r.entry + 1) % 2 ^ 32
  let s1 := { s with plk := { s.plk with seqs := s.plk.seqs.set 0 r.entry seq } }
  let tag := if bitOf d0 58 then some (bitsOf d0 55 53 * 0x2000 + bitsOf (r.dws.getD 1 0) 59 48) else none
  let payload := s.draughtHeader 1 (recs.length / 32) flags r.inst seq r.entry ++ recs
  s1.sendLaunch r.port (bitsOf d0 57 56) (egrDup r.port r.dws) ⟨s.framed (bitsOf d0 47 0) tag payload, true, some r.entry, r.inst, none⟩

/-- A launch that R592 drops. -/
def State.dropLaunch (s : State) (r : EgrRead) (cause : Nat) : State :=
  (s.count (F.PLK_PORT_COUNTS.EGR_DROP r.port) 1).logEgrDrop r.port r.entry r.inst cause

/-- A launch with the finding `bad` of R592: dropped, or sent where there is none. Where only the port's domain is off, the copy of a
duplicated launch is still sent on the other port (R600, log 22). -/
def State.judgeLaunch (s : State) (r : EgrRead) (bad flags : Nat) (recs : List Byte) : State :=
  if bad = 0 then s.buildLaunch r flags recs
  else if bad = 4 && ((egrDup r.port r.dws).map s.portUp).getD false then (s.dropLaunch r bad).buildLaunch r flags recs
  else s.dropLaunch r bad

/-- A launch at L with its read, in the mode in force (R594). -/
def State.launchRead (s : State) (r : EgrRead) : State :=
  let safe := s.mode = .safeHold
  let bad := s.egrBad r.port r.dws safe
  match s.mode with
  | .run => s.judgeLaunch r bad 0 r.recs
  | .degraded => s.judgeLaunch r bad 0 r.recs
  | .maintenance =>
    let recs := s.plk.held.get [] r.entry
    if !recs.isEmpty then s.judgeLaunch r bad 2 recs else if bad = 0 then s else s.dropLaunch r bad
  | .safeHold => if egrSafeEn r.dws then s.judgeLaunch r bad 1 r.safe else s
  | _ => s

/-- A launch of entry `e` on port `p` at instant `inst` by compare unit `unit` (R591 to R594). -/
def State.launch (s : State) (unit p e inst : Nat) : State :=
  let s1 := if (s.readFor unit p e inst).isSome then s else s.egressRead unit p e inst
  let r := (s1.readFor unit p e inst).getD ⟨unit, p, e, inst, s.egrDws e, [], []⟩
  ({ s1 with plk := { s1.plk with reads := s1.plk.reads.filter (fun x => x.unit != unit) } }).launchRead r

/-! ### Gate lists and transmission (R593, R595 to R598) -/

/-- The entries of a list as they run in one cycle of `rem` pt: cut, or the last one held (R596). -/
def gateSpans (l : List (Nat × Nat)) (rem : Nat) : List (Nat × Nat) :=
  match l with
  | [] => []
  | [(g, _)] => if rem = 0 then [] else [(g, rem)]
  | (g, i) :: rest => if rem ≤ i then (if rem = 0 then [] else [(g, rem)]) else (g, i) :: gateSpans rest (rem - i)

/-- The spans that follow position `pos`. -/
def spansFrom (l : List (Nat × Nat)) (pos : Nat) : List (Nat × Nat) :=
  match l with
  | [] => []
  | (g, i) :: rest => if pos < i then (g, i - pos) :: rest else spansFrom rest (pos - i)

/-- How long queue `q` stays open over a run of spans, from its start. -/
def openRun (q : Nat) (l : List (Nat × Nat)) : Nat :=
  match l with
  | [] => 0
  | (g, i) :: rest => if g.testBit q then i + openRun q rest else 0

/-- How long queue `q` stays open from plant time `t` on; none: through a whole cycle and so always (R598). -/
def GateList.openFor (g : GateList) (q t : Nat) : Option Nat :=
  let spans := gateSpans g.entries g.cycle
  let pos := (((t : Int) - g.base) % (if g.cycle = 0 then 1 else g.cycle : Nat)).toNat
  let n := openRun q (spansFrom spans pos ++ spans)
  if g.cycle ≤ n then none else some n

/-- Does a frame of duration `dur` pt fit through the gate of queue `q` now (R595, R596)? -/
def PlkPort.fits (x : PlkPort) (q dur now : Nat) : Bool :=
  let covers := fun (g : Option GateList) (t d : Nat) =>
    match g with
    | none => true
    | some l => match l.openFor q t with | none => true | some n => decide (0 < n) && decide (d ≤ n)
  match x.pend with
  | none => covers x.gates now dur
  | some (l, start) =>
    if start ≤ now then covers (some l) now dur
    else if dur ≤ start - now then covers x.gates now dur
    else covers x.gates now (start - now) && covers (some l) start (dur - (start - now))

/-- Plant time, in hundredths of a pt, that one byte takes at a rate code. -/
def byteTime (rate : Nat) : Nat := match rate with | 0 => 512 | 1 => 1280 | _ => 12800

/-- The first frame that can start, of queues `n - 1` down to 0 (R595). -/
def State.nextFrame (s : State) (p n : Nat) : Option (Nat × PlkFrame × List PlkFrame) :=
  match n with
  | 0 => none
  | q + 1 =>
    match s.queue p q with
    | f :: rest =>
      let dur := ((f.bytes.length + 12) * byteTime (s.fld (F.PLK_PORT_CTL.RATE p)) + 99) / 100
      if (s.port p).fits q dur s.time.now then some (q, f, rest) else s.nextFrame p q
    | [] => s.nextFrame p q

/-- A port starts a frame (R593, R595): an 802.1AS message that waits, else a frame of its queues. It is lost on the wire while lock is
lost (R600). -/
def State.transmit (s : State) (p : Nat) : State :=
  if !(s.portUp p) || !s.pwr.pllLocked || s.mode = .off || s.time.cyc < (s.port p).busy then s
  else match (s.port p).gptp with
  | m :: l => (s.modPort p (fun x => { x with gptp := l })).putGptp p m.1 m.2
  | [] =>
    match s.nextFrame p 4 with
    | none => s
    | some (q, f, rest) =>
      let dur := ((f.bytes.length + 24) * byteTime (s.fld (F.PLK_PORT_CTL.RATE p)) + 1999) / 2000
      let s1 := (s.setQueue p q rest).modPort p (fun x => { x with busy := s.time.cyc + dur })
      let s2 := match f.entry with
        | some e => if f.inst + 32000 < s.time.now then
            (s1.count (F.PLK_PORT_COUNTS.LATE_LAUNCH p) 1).log (0x500 + p) 0x53 0 0 f.inst (p * 2 ^ 61 + e % 0x2000 * 2 ^ 48)
          else s1
        | none => s1
      let bytes := if f.ownSa then pokeBytes f.bytes 6 (bytesBE 6 (s.fld (F.PLK_PORT_MAC.ADDR p))) else f.bytes
      let st := s2.stamp (0x500 + p)
      if (s.port p).lock then st.2.emit (.frame p st.1 bytes) else s2

/-- FRAME_TRANSMIT (R595). -/
def execFrameTransmit (port : Fin 8) (s : State) : Host.Outcome State Fault Refusal := done (s.transmit port)

/-- The gate list that a commit takes (R596). -/
def State.shadowGates (s : State) (p len : Nat) : GateList where
  base := (s.reg (Adr.PLK_PORT_GCL_BASE p)).toNat
  cycle := s.fld (F.PLK_PORT_GCL_CYCLE.CYCLE_NS p) * 16
  entries := (List.range len).map (fun e => (s.fld (F.PLK_PORT_GCL.GATES p e), s.fld (F.PLK_PORT_GCL.INTERVAL_NS p e) * 16))

/-- The first BASE + k × CYCLE at least 1 µs after `now` (R596). -/
def GateList.start (g : GateList) (now : Nat) : Nat :=
  let t := now + 16000
  if t ≤ g.base then g.base else g.base + (t - g.base + g.cycle - 1) / g.cycle * g.cycle

/-- A pending list whose instant has come is in force (R596). -/
def State.gclSettle (s : State) (p : Nat) : State :=
  match (s.port p).pend with
  | some (g, start) =>
    if start ≤ s.time.now then
      (s.setFld (F.PLK_PORT_STATUS.GCL_PEND p) 0).modPort p (fun x => { x with gates := some g, pend := none })
    else s
  | none => s

/-- A write of PLK_PORTn_GCL_CTL (R596, R597); LEN above 256 names entries that do not exist and is refused (log 23). -/
def State.gclWrite (s : State) (p v : Nat) : State :=
  let s1 := (s.gclSettle p).setFld (F.PLK_PORT_GCL_CTL.LEN p) (bitsOf v 8 0)
  if !(bitOf v 31) then s1
  else
    let len := bitsOf v 8 0
    let g := s.shadowGates p len
    if (s1.port p).pend.isSome || len = 0 || 256 < len || g.cycle = 0 || g.entries.any (fun e => e.2 = 0) then
      s1.raise (F.PLK_PORT_STATUS.GCL_ERR p)
    else (s1.raise (F.PLK_PORT_STATUS.GCL_PEND p)).modPort p (fun x => { x with pend := some (g, g.start s.time.now) })

/-- GCL_COMMIT: a write of PLK_PORTn_GCL_CTL (R596). -/
def execGclCommit (port : Fin 8) (value : Word32) (s : State) : Host.Outcome State Fault Refusal :=
  done (if s.takesIo (Adr.PLK_PORT_GCL_CTL port) then s.gclWrite port value.toNat else s)

/-- GCL_IN_FORCE: the instant of the pending list has come (R596). -/
def execGclInForce (port : Fin 8) (s : State) : Host.Outcome State Fault Refusal :=
  done (s.gclSettle port)

/-! ### Sending PARTNER and management frames (R601, R604) -/

/-- The record of a PARTNER frame (R601, R705). -/
def State.partnerRecord (s : State) : List Byte :=
  let tim := s.fld F.TIM_STATUS.STATE
  let live := s.mode = .run || s.mode = .degraded
  bytesBE 8 s.openEpoch ++ bytesBE 8 (s.fld F.LOD_OPEN_B.BOUNDARY) ++ bytesBE 1 s.mode.code ++ bytesBE 1 tim
  ++ bytesBE 1 (b2n s.ready + b2n s.deg * 2 + b2n (tim = 2 || tim = 4) * 4 + b2n live * 8)
  ++ bytesBE 1 (s.fld F.FLT_STATUS.SAFE_CAUSE)
  ++ bytesBE 2 ((List.range 512).filter s.hewerInPool).length ++ bytesBE 2 ((List.range 64).filter s.galleryInPool).length
  ++ bytesBE 4 s.flt.lasting ++ bytesBE 4 (s.fld F.FLT_PARTNER_STAT.TAKEOVERS)

/-- Send one PARTNER frame from each PARTNER port, ports from `p` on. -/
def State.sendPartner (s : State) (bytes : List Byte) (n p : Nat) : State :=
  match n with
  | 0 => s
  | k + 1 =>
    (if (s.fld F.PLK_PARTNER.PORTS).testBit p then s.sendFrame p 2 ⟨bytes, true, none, 0, none⟩ else s).sendPartner bytes k (p + 1)

/-- PARTNER_FRAME_SEND, every PERIOD_US (R601); the spec gives no destination, TX_TIME, FRAME_SEQ or ENTRY for such a frame:
the first is a constant of the configuration, the others are free values (log 24). -/
def execPartnerFrameSend (s : State) : Host.Outcome State Fault Refusal :=
  done (if s.mode = .off || !s.pwr.pllLocked || s.fld F.PLK_PARTNER.PORTS = 0
      || decide (s.time.us < s.plk.sentUs + s.fld F.PLK_PARTNER.PERIOD_US) then s
    else
      let d := s.draw
      let hd := s.draughtHeader 2 1 0 d.1 (d.1 / 2 ^ 64) (d.1 / 2 ^ 96)
      let s1 := { d.2 with plk := { d.2.plk with sentUs := s.time.us } }
      s1.sendPartner (s.framed Config.partnerAddr.toNat none (hd ++ s.partnerRecord)) 8 0)

/-- A write of PLK_PARTNER: PORTS in CONFIGURE only, PERIOD_US clamped. -/
def State.partnerWrite (s : State) (v : Nat) : State :=
  let p := bitsOf v 15 0
  let s1 := (s.setFld F.PLK_PARTNER.PERIOD_US (if p < 100 then 100 else if 10000 < p then 10000 else p)).setFld
    F.PLK_PARTNER.LOSS (bitsOf v 19 16)
  if s.mode = .configure then s1.setFld F.PLK_PARTNER.PORTS (bitsOf v 31 24) else s1

/-- MGMT_TX_TAIL_WRITE (R604). -/
def execMgmtTxTailWrite (tail : BitVec 16) (s : State) : Host.Outcome State Fault Refusal :=
  done (if s.takesIo Adr.PLK_MGMT_TX_PTR then s.setFld F.PLK_MGMT_TX_PTR.TAIL tail.toNat else s)

/-- MGMT_TX_SEND: the next entry of the transmit ring (R604). -/
def execMgmtTxSend (s : State) : Host.Outcome State Fault Refusal :=
  let n := ringEntries (s.fld F.PLK_MGMT_TX.SIZE)
  let head := s.fld F.PLK_MGMT_TX_PTR.HEAD
  let at_ := s.fld F.PLK_MGMT_TX.BASE * 4096 + head % (if n = 0 then 1 else n) * 2048
  done (if n = 0 || head = s.fld F.PLK_MGMT_TX_PTR.TAIL || !s.pwr.pllLocked || s.mode = .off || !(s.dramReach at_ 2048) then s
    else
      let dw := s.readDw at_
      let p := bitsOf dw 63 61
      let len := bitsOf dw 15 0
      let s1 := (s.hubAccess at_ (16 + len) (0x500 + p) false).setFld F.PLK_MGMT_TX_PTR.HEAD (head + 1)
      if len < 60 || 2032 < len then s1.count (F.PLK_PORT_COUNTS.EGR_DROP p) 1
      else s1.sendFrame p 0 ⟨s.readBytes (at_ + 16) len, false, none, 0, none⟩)

end Sys2Proof.Machine
end

