-- ==== Sys2Proof/Machine/Anemometer.lean ====
section
/-!
DEFINITION. The anemometer (R671 to R685): decimated samples, encoders, digital edges, and the outputs' reads and updates.
-/
namespace Sys2Proof.Machine

/-! ### Inputs (R672 to R678) -/

/-- Do the input channels sample (R685)? -/
def State.anmRuns (s : State) : Bool := s.pwr.pllLocked && s.domainOn 8 && s.mode != .off

/-- Does a waiting item come from input source `loc`? -/
def HoldItem.fromSource (i : HoldItem) (src : Nat) : Bool :=
  match i with
  | .write w => w.path = .anemometer && w.source = src
  | _ => false

/-- The value that a register held at an instant, from its value now and its history (R114). -/
def valueAt (now : Word) (hist : List (Nat × Word)) (t : Nat) : Word :=
  match hist with
  | [] => now
  | (done_, old) :: rest => if done_ < t then now else valueAt old rest t

/-- A write of LOD_ANMn_MAP: it holds for samples stamped after it (R114). -/
def State.anmMapWrite (s : State) (n : Nat) (v : Word) : State :=
  let a := Adr.LOD_ANM_MAP n
  { s.setReg a v with anm := { s.anm with maps := s.anm.maps.set [] n ((s.time.now, s.reg a) :: s.anm.maps.get [] n) } }

/-- A write of input channel `n` (0 to 63) through LOD_ANMn_MAP as it stood at the stamp, or its drop when its queue of 16 is full (R114, R678);
`drop` is the count of such drops. -/
def State.anmWrite (s : State) (n : Nat) (drop : IoField) (time kind quality : Nat) (value : Word) : State :=
  let map := (valueAt (s.reg (Adr.LOD_ANM_MAP n)) (s.anm.maps.get [] n) time).toNat
  if !(bitOf map (F.LOD_ANM_MAP.EN n).lo) then s
  else
    let src := s.source (0x600 + n)
    if 16 ≤ (s.lode.inq.filter (fun i => i.fromSource src)).length then (s.count drop 1).raise F.ANM_STATUS.OVERRUN
    else s.lodeSend (.write {
      path := .anemometer, slot := bitsOf map (F.LOD_ANM_MAP.SLOT n).hi (F.LOD_ANM_MAP.SLOT n).lo, value := value, kind := kind, quality := quality,
      time := some time, source := src, poison := false })

/-- DEC in force. -/
def State.decim (s : State) : Nat :=
  let d := s.fld F.ANM_CTL.DEC
  if d = 0 then 1 else if 1000 < d then 1000 else d

/-- `a / b` rounded to the nearest integer, ties to even. -/
def roundDiv (a : Int) (b : Nat) : Int :=
  let q := a / (b : Int)
  let r := (a - q * b) * 2
  if r < b then q else if (b : Int) < r then q + 1 else if q % 2 = 0 then q else q + 1

/-- The 24-bit code of conversions (R673). -/
def anmCode (l : List Int) (dec : Nat) : Int := roundDiv (l.foldl (fun a b => a + b) 0 * 64) dec

/-- Did a conversion reach the end of the range (R674)? -/
def anmSaturated (l : List Int) : Bool := l.any (fun c => c = -131072 || c = 131071)

/-- The stamp of the last decimated instant of the grid that has passed, with the first conversion it averages (R672, R673). -/
def State.lastGrid (s : State) : Option (Nat × Nat) :=
  let phase := s.fld F.ANM_AIN_PHASE.PHASE
  let dec := s.decim
  if s.time.now < phase then none
  else
    let outputs := ((s.time.now - phase) / 16000 + 1) / dec
    if outputs = 0 then none else some (phase + (outputs * dec - 1) * 16000, phase + (outputs - 1) * dec * 16000)

/-- The value an analog channel writes (R674): FP64 code × SCALE + OFFSET, each operation rounded to nearest, ties to even. -/
def State.ainValue (s : State) (n : Nat) (code : Int) : Word :=
  if s.flag (F.ANM_AIN_CFG.FMT n) then
    let c := fpFromInt .dbl .nearestEven code
    let p := fpMul .dbl .nearestEven (fpDecode .dbl c.bits) (fpDecode .dbl (s.reg (Adr.ANM_AIN_SCALE n)).toNat)
    BitVec.ofNat 64 (fpAdd .dbl .nearestEven (fpDecode .dbl p.bits) (fpDecode .dbl (s.reg (Adr.ANM_AIN_OFFSET n)).toNat)).bits
  else BitVec.ofInt 64 code

/-- The sample of analog channel `n` from its conversions (R673, R674). -/
def State.ainSample (s : State) (time n : Nat) (l : List Int) : State :=
  if !(s.flag (F.ANM_AIN_CFG.EN n)) then s
  else
    let q := if anmSaturated l then 0x100 + qOutOfRange else qGood
    s.anmWrite n F.ANM_COUNTS.AIN_DROP time (if s.flag (F.ANM_AIN_CFG.FMT n) then 0 else 1) q (s.ainValue n (anmCode l s.decim))

def State.enc (s : State) (n : Nat) : Encoder := s.anm.encs.get Encoder.reset n
def State.setEnc (s : State) (n : Nat) (x : Encoder) : State :=
  { s with anm := { s.anm with encs := s.anm.encs.set Encoder.reset n x } }

/-- The latch of encoder `n` (R676). -/
def State.encLatch (s : State) (time n : Nat) : State :=
  if !(s.flag (F.ANM_ENC_CFG.EN n)) then s
  else
    let x := s.enc n
    let v := BitVec.ofInt 64 (signedOf 32 (s.fld (F.ANM_ENC_COUNT.COUNT n)))
    (s.setEnc n { x with err := false }).anmWrite (16 + n) F.ANM_COUNTS.AIN_DROP time 1
      (if x.err then 0x105 else qGood) v

/-- The samples of the channels from `n` on; `conv` holds the conversions, oldest first, each with 16 codes. -/
def State.ainSamples (s : State) (conv : List (List (BitVec 18))) (time k n : Nat) : State :=
  match k with
  | 0 => s
  | j + 1 => (s.ainSample time n (conv.map (fun c => (c.getD n 0).toInt))).ainSamples conv time j (n + 1)

/-- The latches of the encoders from `n` on. -/
def State.encLatches (s : State) (time k n : Nat) : State :=
  match k with
  | 0 => s
  | j + 1 => (s.encLatch time n).encLatches time j (n + 1)

/-- DECIMATED_SAMPLE: the last DEC conversions of the grid, oldest first, each with the 16 codes (R673, R676). -/
def execDecimatedSample (conv : List (List (BitVec 18))) (s : State) : Host.Outcome State Fault Refusal :=
  done (match s.lastGrid with
    | none => s
    | some (time, first) =>
      if !s.anmRuns || !(s.flag F.ANM_STATUS.READY) || conv.length != s.decim || first < s.anm.since
          || s.anm.lastStamp = some time then s
      else
        let s1 := { s with anm := { s.anm with lastStamp := some time } }
        (s1.ainSamples conv time 16 0).encLatches time 16 0)

/-- Position of a pair of levels in the quadrature sequence. -/
def quadPhase (a b : Bool) : Nat := match a, b with | false, false => 0 | true, false => 1 | true, true => 2 | false, true => 3

/-- The filtered inputs of encoder `n` change (R675); with DIR 0 the count rises when A leads B (log 25). -/
def State.encMove (s : State) (n : Nat) (a b z : Bool) : State :=
  let x := s.enc n
  let d := (quadPhase a b + 4 - quadPhase x.a x.b) % 4
  let up := s.flag (F.ANM_ENC_CFG.DIR n) = (d != 1)
  let c := s.fld (F.ANM_ENC_COUNT.COUNT n)
  let s1 := s.setEnc n { x with a := a, b := b, z := z, err := x.err || (d = 2 && s.flag (F.ANM_ENC_CFG.EN n)) }
  if !(s.flag (F.ANM_ENC_CFG.EN n)) then s1
  else
    let s2 := if d = 2 then s1.count F.ANM_COUNTS.ENC_ERR 1
      else if d = 0 then s1 else s1.setFld (F.ANM_ENC_COUNT.COUNT n) (if up then c + 1 else c + 0xFFFFFFFF)
    if s.fld (F.ANM_ENC_CFG.ZMODE n) = 1 && z && !x.z then s2.setFld (F.ANM_ENC_COUNT.COUNT n) 0 else s2

/-- ENCODER_TRANSITION: the new filtered levels of encoder `n` (R675). -/
def execEncoderTransition (n : Fin 16) (a b z : Bool) (s : State) : Host.Outcome State Fault Refusal :=
  done (if s.anmRuns then s.encMove n a b z else s)

/-- Plant time `n` TCLK cycles ago, at the present rate. -/
def State.timeBefore (s : State) (n : Nat) : Nat :=
  let t : Int := s.time.now - (20 * n : Nat)
  let sum : Int := s.time.frac - n * s.rate
  (t + sum / (0x100000000 : Int)).toNat

/-- A filtered level of digital input `n`, after INV (R677). -/
def State.edge (s : State) (n : Nat) (level : Bool) : State :=
  let old := s.anm.levels.contains n
  if old = level || !(s.flag (F.ANM_DIO_CFG.EN n)) || s.flag (F.ANM_DIO_CFG.DIR n) then s
  else
    let s1 := { s with anm := { s.anm with levels := if level then insertNat s.anm.levels n else eraseNat s.anm.levels n } }
    let e := s.fld (F.ANM_DIO_CFG.EDGE n)
    if e = 0 || (e = 1 && level) || (e = 2 && !level) then
      s1.anmWrite (32 + n) F.ANM_COUNTS.DIO_DROP (s.timeBefore (s.fld (F.ANM_DIO_CFG.FILT n))) 3 qGood (BitVec.ofNat 64 (b2n level))
    else s1

/-- DIGITAL_EDGE: the pin level that the filter has accepted (R677). -/
def execDigitalEdge (n : Fin 32) (pin : Bool) (s : State) : Host.Outcome State Fault Refusal :=
  done (if s.anmRuns then s.edge n (pin != s.flag (F.ANM_DIO_CFG.INV n)) else s)

/-- ANM_CALIBRATION_DONE (R685). -/
def execAnmCalibrationDone (s : State) : Host.Outcome State Fault Refusal :=
  done (if s.anmRuns && !(s.flag F.ANM_STATUS.READY) then
      { s.raise F.ANM_STATUS.READY with anm := { s.anm with since := s.time.now } }
    else s)

/-! ### Outputs (R679 to R683) -/

/-- A value kept within 0 to `top`. -/
def clampTop (top : Nat) (x : Int) : Nat := if x < 0 then 0 else if (top : Int) < x then top else x.toNat

/-- `m × 2^e × num / den` rounded to the nearest integer, ties to even. -/
def roundScaled (neg : Bool) (m : Nat) (e : Int) (num den : Nat) : Int :=
  let v : Int := if neg then -((m * num : Nat) : Int) else (m * num : Nat)
  if e < 0 then roundDiv v (den * 2 ^ (-e).toNat) else roundDiv (v * (2 ^ e.toNat : Nat)) den

/-- PERIOD in force. -/
def State.pwmPeriod (s : State) (m : Nat) : Nat :=
  let p := s.fld (F.ANM_PWM_PERIOD.CYCLES m)
  if p < 2 then 2 else p

/-- What a numeric kind gives, clamped: FP64 is scaled, the others give their integer part (R680). -/
def outNumber (kind : Nat) (v : Word) (num den top : Nat) : Option Nat :=
  if kind = 0 then
    match kindVal 0 v with
    | .num n m e => some (clampTop top (roundScaled n m e num den))
    | .inf n => some (if n then 0 else top)
    | .nan => none
  else if kind = 6 then some (clampTop top (signedOf 64 v.toNat / (0x100000000 : Int)))
  else if kind = 1 then some (clampTop top (signedOf 64 v.toNat))
  else if kind = 2 || kind = 4 then some (clampTop top (v.toNat : Int))
  else none

/-- What output `o` makes of a value (R680). -/
def State.outConvert (s : State) (o kind : Nat) (v : Word) : Option Nat :=
  if o < 8 then outNumber kind v 131072 5 65535
  else if o < 16 then outNumber kind v (s.pwmPeriod (o - 8)) 1 (s.pwmPeriod (o - 8))
  else if kind = 3 then some (v.toNat % 2) else none

/-- The read of output `o` at `r` (R115, R679, R680). -/
def State.outRead (s : State) (o r : Nat) : OutVal :=
  let e := s.egressCopy (s.outSlot o) r
  let q := e.2 % 256
  let usable := q = qGood || q = 3 || q = qForced
  ⟨o, s.outBadq o, s.outSafe o, if usable then s.outConvert o (s.slot (s.outSlot o)).kind e.1.value else none⟩

/-- The outputs that an action with a mask updates: analog and digital groups for ACTION 3, PWM for ACTION 4 (R679). -/
def State.outsOf (s : State) (action mask : Nat) : List Nat :=
  ((List.range 48).filter (fun o =>
    if o < 8 then action = 3 && mask.testBit o
    else if o < 16 then action = 4 && mask.testBit (o - 8)
    else action = 3 && mask.testBit (s.fld (F.ANM_DIO_CFG.GROUP (o - 16))))).filter s.outEn

/-- The reads of an action for the instant `inst` by compare unit `unit`. -/
def State.outReads (s : State) (unit action mask inst : Nat) : State :=
  let r := inst - s.fld F.LOD_EGRESS_LEAD.LEAD
  let vals := (s.outsOf action mask).map (fun o => s.outRead o r)
  { s with anm := { s.anm with reads := ⟨unit, inst, vals⟩ :: s.anm.reads.filter (fun x => x.unit != unit) } }

/-- The output action that compare unit `n` is armed for: action, mask and instant. -/
def State.outAction (s : State) (n : Nat) : Option (Nat × Nat × Nat) :=
  let a := s.fld (F.TIM_CMP_CTL.ACTION n)
  if s.flag (F.TIM_CMP_CTL.ARM n) && (a = 3 || a = 4) then
    some (a, s.fld (F.TIM_CMP_CTL.ARG n) % 256, (s.reg (Adr.TIM_CMP_TARGET n)).toNat) else none

/-- OUTPUT_EGRESS_READ for compare unit `n`, at L − LOD_EGRESS_LEAD (R679). -/
def execOutputEgressRead (n : Fin 64) (s : State) : Host.Outcome State Fault Refusal :=
  done (match s.outAction n with
    | none => s
    | some (a, mask, inst) =>
      if !s.anmRuns || decide (s.time.now + s.fld F.LOD_EGRESS_LEAD.LEAD < inst)
          || s.anm.reads.any (fun r => r.unit = n.val && r.inst = inst) then s
      else s.outReads n a mask inst)

/-- One output takes its value (R680, R682): in STANDBY its pin stays high-impedance. -/
def State.outUpdate (s : State) (v : OutVal) : State :=
  let x := s.pin v.out
  let code := match v.val with
    | some c => c
    | none => if v.badq || !x.valid then v.safe else x.code
  s.setPin v.out { x with
    code := code
    valid := x.valid || v.val.isSome
    driven := (s.mode = .run || s.mode = .degraded) && s.outEn v.out }

/-- The update of an output action at its instant, where the mode performs it (R679, R682, R683): it takes the values read before, whatever
SLOT names now, and updates its own group only (R684). -/
def State.outputAction (s : State) (unit action mask inst : Nat) : State :=
  let s1 := if s.anm.reads.any (fun r => r.unit = unit && r.inst = inst) then s else s.outReads unit action mask inst
  let vals := ((s1.anm.reads.find? (fun r => r.unit = unit && r.inst = inst)).map OutRead.vals).getD []
  let s2 := { s1 with anm := { s1.anm with reads := s1.anm.reads.filter (fun r => r.unit != unit) } }
  if !(s.domainOn 8) then s2
  else match s.mode with
    | .standby => vals.foldl State.outUpdate s2
    | .run => vals.foldl State.outUpdate s2
    | .degraded => vals.foldl State.outUpdate s2
    | _ => s2

/-- PWM_PERIOD_START of PWM output `m` (R681). -/
def execPwmPeriodStart (m : Fin 8) (s : State) : Host.Outcome State Fault Refusal :=
  let x := s.pin (8 + m)
  done (if s.anmRuns then s.setPin (8 + m) { x with high := x.code } else s)

/-- The anemometer as the switching on of D8 leaves it (R685). -/
def State.anmReset (s : State) : State := { s with anm := { AnmState.reset with maps := s.anm.maps } }

end Sys2Proof.Machine
end

