-- ==== Sys2Proof/Machine/Interrupt.lean ====
section
/-!
DEFINITION. Interrupts, task arrival and the canary timers (R442 to R456, R457 to R471).
-/
namespace Sys2Proof.Machine

/-! ### Entries at a boundary (R442 to R446) -/

/-- INTERRUPT_ENTRY of hewer `h` (R442, R445 to R447, R453); a fault notification ends the wait of the boot ROM's code (R738). -/
def execInterruptEntry (h : HewerId) (s : State) : Host.Outcome State Fault Refusal :=
  let x := s.hew h
  done (if !(s.atBoundary h) || x.between || s.earlierDue h || s.swapDue h then s
    else match s.srcFirst h 7 with
      | none => s
      | some c =>
        let t := (s.tally h 0x15).enter h (s.srcToM h c) true c x.excPc none (some (s.srcLevel h c))
        if x.rom = 1 && c = 5 then t.modHew h (fun y => { y with rom := 2 }) else t)

/-- TASK_ARRIVAL at hewer `h` (R192 to R195, R442): from a thread it follows every other event that is due, an eligible interrupt too;
from a body that has ended it takes the next packet. -/
def execTaskArrival (h : HewerId) (s : State) : Host.Outcome State Fault Refusal :=
  done (if s.earlierDue h || s.swapDue h || (!(s.hew h).between && (s.srcFirst h 7).isSome) then s
    else
      let t := s.taskArrival h
      if (t.hew h).body.isSome && (s.hew h).body.isNone then t.tally h 0x16 else t)

/-! ### Inter-hewer interrupts and routing (R454, R455) -/

/-- A write of HWR_IHI_SET of hewer `target` (R455). -/
def State.ihiSet (s : State) (target level : Nat) : State :=
  if level % 16 = 0 then s
  else s.setFld (F.HWR_IHI_PEND.LVL target) (s.fld (F.HWR_IHI_PEND.LVL target) ||| 2 ^ (level % 16))

/-- HWR_IHI_SET (R455). -/
def execHwrIhiSet (target : HewerId) (level : Fin 16) (s : State) : Host.Outcome State Fault Refusal :=
  done (if s.takesIo (Adr.HWR_IHI_SET target) then s.ihiSet target level else s)

/-- A write of HWR_XROUTE by M: bits 16 and 24 read 1 and bit 15 reads 0. -/
def State.xrouteWrite (s : State) (target v : Nat) : State :=
  s.setReg (Adr.HWR_XROUTE target) (BitVec.ofNat 64 (setBits (setBits (setBits (v % 0x100000000) 16 16 1) 24 24 1) 15 15 0))

/-- Exception 0x14 of hewer `h`: IO space, with its reason and address (R47, R256). -/
def State.ioFault (s : State) (h reason addr : Nat) : State := s.raiseExc h (mkExc 0x14 (reason * 2 ^ 56 + addr))

/-- Does grant `n` of hewer `h` permit an access (R256)? -/
def State.grantPermits (s : State) (h n a size : Nat) (isWrite : Bool) : Bool :=
  let k := s.fld (F.HWR_IOGRANT.SIZE h n)
  let base := s.fld (F.HWR_IOGRANT.BASE h n) / 2 ^ k * 2 ^ k
  s.flag (F.HWR_IOGRANT.EN h n) && decide (2 ≤ k) && decide (k ≤ 24) && decide (base ≤ a) && decide (a + size ≤ base + 2 ^ k)
  && (if isWrite then s.flag (F.HWR_IOGRANT.WR h n) else s.flag (F.HWR_IOGRANT.RD h n))

/-- May hewer `h` make an IO access in its present context (R255, R256)? -/
def State.ioPermitted (s : State) (h a size : Nat) (isWrite : Bool) : Bool :=
  let x := s.hew h
  x.pl != 0 || (!x.bodyBit && (List.range 16).any (fun n => s.grantPermits h n a size isWrite))

/-- A write by hewer `h` of `size` bytes at `a`: `f`, or exception 0x14 with the first reason of R438 that applies (R255, R256). -/
def State.sWrite (s : State) (h a size : Nat) (f : State → State) : State :=
  if !(s.executesIo h) then s
  else if !(s.ioPermitted h a size true) then s.ioFault h 4 a
  else if !(s.domainOn (regDomain a)) then s.ioFault h 5 a
  else f s

/-- The same where a register stands that only M may write. -/
def State.mWrite (s : State) (h a size : Nat) (f : State → State) : State :=
  s.sWrite h a size (fun t => if (t.hew h).pl = 3 then f t else t.ioFault h 6 a)

/-- HWR_XROUTE_WRITE by hewer `by` (R438, R454). -/
def execHwrXrouteWrite (by' target : HewerId) (value : Word32) (s : State) : Host.Outcome State Fault Refusal :=
  done (s.mWrite by' (Adr.HWR_XROUTE target) 4 (fun t => t.xrouteWrite target value.toNat))

/-! ### Per-hewer canaries (R457 to R465) -/

/-- REMAIN takes TIMEOUT (R457). -/
def State.canReload (s : State) (h : Nat) : State :=
  let t := s.fld (F.CAN_HWR_CTL.TIMEOUT h)
  (s.setFld (F.CAN_HWR_STAT.REMAIN h) t).modHew h (fun x => { x with canT := t, canWarn := false, canDue := none })

/-- A kick counts unless an expiry fell due in an earlier cycle: in the cycle of the tick itself the kick wins (R458). -/
def State.beforeExpiry (s : State) (due : Option Nat) : Bool :=
  match due with
  | some c => c = s.time.cyc
  | none => true

/-- A write of 1 to CAN_HWRh_KICK (R458, R460, R462). -/
def State.canKick (s : State) (w : Writer) (h : Nat) : State :=
  match w with
  | .hewer j =>
    if j.val != h then s.raise (F.CAN_HWR_STAT.BADKICK h)
    else if s.flag (F.CAN_HWR_STAT.EXPIRED h) || !(s.beforeExpiry (s.hew h).canDue) then s
    else s.canReload h
  | _ => s

/-- CANARY_KICK (R460). -/
def execCanaryKick (writer : Writer) (h : HewerId) (s : State) : Host.Outcome State Fault Refusal :=
  done (match writer with
    | .hewer j => s.sWrite j (Adr.CAN_HWR_KICK h) 4 (fun t => t.canKick writer h)
    | _ => s)

/-- CANARY_PREWARNING of hewer `h` (R458, R461). -/
def execCanaryPrewarning (h : HewerId) (s : State) : Host.Outcome State Fault Refusal :=
  done (if (s.hew h).canWarn then (s.raise (F.CAN_HWR_STAT.PREWARN h)).modHew h (fun x => { x with canWarn := false }) else s)

/-- The expiry of hewer `h`'s canary (R462): a body in progress ends at the next boundary (R836), at the machine check where that is
not now. -/
def State.canExpire (s : State) (h : Nat) : State :=
  let s1 := (s.raise (F.CAN_HWR_STAT.EXPIRED h)).modHew h (fun x => { x with canDue := none, mcheck := true })
  let s2 := (if s.atBoundary h then s1.loseBody h else s1).leavePool h
  (s2.log 0xF00 0x0C 0 0 0 (h * 2 ^ 39)).settle

/-- CANARY_EXPIRY of hewer `h` (R462). -/
def execCanaryExpiry (h : HewerId) (s : State) : Host.Outcome State Fault Refusal :=
  done (if (s.hew h).canDue.isSome then s.canExpire h else s)

/-- CANARY_MACHINE_CHECK of hewer `h` (R442, R446, R462, R836): a body that is still in progress is lost now; where a body was lost,
the `eret` of the handler restores the saved thread. -/
def execCanaryMachineCheck (h : HewerId) (s : State) : Host.Outcome State Fault Refusal :=
  let x := s.hew h
  done (if !x.mcheck || !(s.atBoundary h) then s
    else
      let s1 := s.loseBody h
      let y := s1.hew h
      let t := (s1.tally h 0x014).enter h true false 0x18 x.excPc (some (BitVec.ofNat 64 (5 * 2 ^ 56))) (some 15)
      t.modHew h (fun z =>
        { z with mcheck := false, between := false, eretRestores := if y.between then some (3, 0) else z.eretRestores }))

/-- A write of 1 to EXPIRED by M (R463). -/
def State.canClear (s : State) (h : Nat) : State :=
  if s.flag (F.CAN_HWR_STAT.EXPIRED h) then (s.setFld (F.CAN_HWR_STAT.EXPIRED h) 0).canReload h else s

/-- EXPIRED_CLEAR by hewer `by` (R438, R460, R463). -/
def execExpiredClear (by' h : HewerId) (s : State) : Host.Outcome State Fault Refusal :=
  done (s.mWrite by' (Adr.CAN_HWR_STAT h) 4 (fun t => t.canClear h))

/-- The canary of hewer `h` leaves a debug halt (R464). -/
def State.canThaw (s : State) (h : Nat) : State :=
  let r := s.fld (F.CAN_HWR_STAT.REMAIN h)
  let g := s.fld F.CAN_GRACE.GRACE
  let r1 := if r < g then g else r
  let hf := (s.hew h).canT / 2
  if s.flag (F.CAN_HWR_STAT.EXPIRED h) then s
  else
    let s1 := s.setFld (F.CAN_HWR_STAT.REMAIN h) r1
    if s.flag (F.CAN_HWR_CTL.EN h) && hf != 0 && decide (r1 ≤ hf) then s1.raise (F.CAN_HWR_STAT.PREWARN h) else s1

/-! ### The device canary (R466 to R470) -/

/-- A write of CAN_DEV_KICK (R458, R468). -/
def State.devKick (s : State) (v : Nat) : State :=
  if v % 0x10000 = 0xA5A5 then { s with can := { s.can with kickArmed := true } }
  else
    let s1 := { s with can := { s.can with kickArmed := false } }
    if v % 0x10000 = 0x5A5A && s.can.kickArmed then
      (if s.flag F.CAN_DEV_STAT.EXPIRED || (s.can.due && s.can.dueAt != some s.time.cyc) then s1 else s1.devReload)
    else s1.raise F.CAN_DEV_STAT.BADKICK

/-- DEVICE_CANARY_KICK: a write of one value to CAN_DEV_KICK (R468). -/
def execDeviceCanaryKick (writer : Writer) (value : BitVec 16) (s : State) : Host.Outcome State Fault Refusal :=
  done (match writer with
    | .hewer j => s.sWrite j Adr.CAN_DEV_KICK 4 (fun t => t.devKick value.toNat)
    | _ => s)

/-- TIMEOUT as it is stored: 1 to 10,000,000 µs. -/
def clampTimeout (t : Nat) : Nat := if t = 0 then 1 else if 10000000 < t then 10000000 else t

/-- A write of CAN_DEV_CTL, in CONFIGURE only; EN stays 1 once it is (R470). -/
def State.canDevCtlWrite (s : State) (v : Nat) : State :=
  if s.mode != .configure then s
  else (s.setFld F.CAN_DEV_CTL.TIMEOUT (clampTimeout (bitsOf v 23 0))).setFld F.CAN_DEV_CTL.EN
    (b2n (bitOf v 31 || s.flag F.CAN_DEV_CTL.EN))

/-- CAN_DEV_CTL_WRITE (R470). -/
def execCanDevCtlWrite (value : Word32) (s : State) : Host.Outcome State Fault Refusal :=
  done (if s.takesIo Adr.CAN_DEV_CTL then s.canDevCtlWrite value.toNat else s)

/-- The prewarning that was due has been raised. -/
def State.warnTaken (s : State) : State := { s with can := { s.can with warnDue := false } }

/-- The expiry that was due has been raised. -/
def State.expiryTaken (s : State) : State := { s with can := { s.can with due := false } }

/-- DEVICE_CANARY_PREWARNING (R458, R469). -/
def execDeviceCanaryPrewarning (s : State) : Host.Outcome State Fault Refusal :=
  done (if s.can.warnDue then
      ((s.raise F.CAN_DEV_STAT.PREWARN).log 0xF00 0x0D 1 0 0 (1 * 2 ^ 40)).warnTaken
    else s)

/-- DEVICE_CANARY_EXPIRY (R469). -/
def execDeviceCanaryExpiry (s : State) : Host.Outcome State Fault Refusal :=
  done (if s.can.due then
      ((s.raise F.CAN_DEV_STAT.EXPIRED).log 0xF00 0x0D 2 0 0 (2 * 2 ^ 40)).expiryTaken.safeHold 1
    else s)

/-! ### Writes of the canary registers (R460) -/

/-- A write of CAN_HWRh_CTL by M. -/
def State.canCtlWrite (s : State) (h v : Nat) : State :=
  (s.setFld (F.CAN_HWR_CTL.TIMEOUT h) (clampTimeout (bitsOf v 23 0))).setFld (F.CAN_HWR_CTL.EN h) (b2n (bitOf v 31))

end Sys2Proof.Machine
end

