-- ==== Sys2Proof/Machine/Compare.lean ====
section
/-!
DEFINITION. The compare units (R78 to R82): which one fires first, its action, and the catch-up of its target.
-/
namespace Sys2Proof.Machine

/-- Local source of the action of compare unit `n` (R79). -/
def State.cmpLoc (s : State) (n : Nat) : Nat :=
  match s.fld (F.TIM_CMP_CTL.ACTION n) with
  | 1 => 0x800
  | 2 => 0x500 + s.fld (F.TIM_CMP_CTL.ARG n) % 8
  | 5 => 0x800
  | _ => 0xF00

/-- Does the action of unit `a` take effect before that of unit `b` (R62, R81)? Task releases of one target go by ascending
descriptor index (R150). -/
def State.cmpBefore (s : State) (a b : Nat) : Bool :=
  let ta := (s.reg (Adr.TIM_CMP_TARGET a)).toNat
  let tb := (s.reg (Adr.TIM_CMP_TARGET b)).toNat
  let act := fun (n : Nat) => s.fld (F.TIM_CMP_CTL.ACTION n)
  let arg := fun (n : Nat) => s.fld (F.TIM_CMP_CTL.ARG n)
  if ta != tb || s.cmpLoc a != s.cmpLoc b then stampBefore ta (s.cmpLoc a) tb (s.cmpLoc b)
  else if (act a = 5) != (act b = 5) then act a = 5
  else if act a = 1 && act b = 1 && arg a != arg b then decide (arg a < arg b)
  else decide (a < b)

/-- Is unit `n` due, and ready to act: the draught accepts a release in the cycle after plant time reaches its stamp, or later (R79,
R81)? -/
def State.cmpReady (s : State) (n : Nat) : Bool :=
  s.cmpDue n && (s.fld (F.TIM_CMP_CTL.ACTION n) != 1 || decide ((s.reg (Adr.TIM_CMP_TARGET n)).toNat ≤ s.time.prev))

/-- Does unit `n` fire now, before every other unit that is ready? A task release also follows the periodic releases that come
before it (R62, R150). -/
def State.cmpFirst (s : State) (n : Nat) : Bool :=
  s.pwr.pllLocked && s.cmpReady n && (List.range 64).all (fun m => m = n || !(s.cmpReady m) || s.cmpBefore n m)
  && (s.fld (F.TIM_CMP_CTL.ACTION n) != 1
      || s.releaseTurn (s.reg (Adr.TIM_CMP_TARGET n)).toNat (s.fld (F.TIM_CMP_CTL.ARG n)) s.duePeriodic)

/-- ACTION 0: the plant-time compare interrupt of a hewer at a level (R79, R451). -/
def State.cmpInterrupt (s : State) (arg : Nat) : State :=
  let h := arg % 512
  if !(s.domainOn (shaftDomain h)) then s
  else s.setFld (F.HWR_PTC_PEND.LVL h) (s.fld (F.HWR_PTC_PEND.LVL h) ||| 2 ^ bitsOf arg 15 12)

/-- The action of unit `n`, stamped with its target `t` (R79). -/
def State.cmpAction (s : State) (n t : Nat) : State :=
  let arg := s.fld (F.TIM_CMP_CTL.ARG n)
  match s.fld (F.TIM_CMP_CTL.ACTION n) with
  | 0 => s.cmpInterrupt arg
  | 1 => s.commandRelease arg t (s.source srcDraught)
  | 2 => s.launch n (arg % 8) (arg / 8) t
  | 3 => s.outputAction n 3 (arg % 256) t
  | 4 => s.outputAction n 4 (arg % 256) t
  | 5 => (s.requestAdvance t).1
  | _ => s

/-- COMPARE_UNIT_FIRE (R79 to R81). -/
def execCompareUnitFire (n : Fin 64) (s : State) : Host.Outcome State Fault Refusal :=
  let t := (s.reg (Adr.TIM_CMP_TARGET n)).toNat
  done (if s.cmpFirst n then (s.cmpAction n t).cmpAdvance n t else s)

end Sys2Proof.Machine
end

