-- ==== Sys2Proof/Machine/Flash.lean ====
section
/-!
DEFINITION. The configuration flash through the CFG_XSPI registers (R722, R725).
-/
namespace Sys2Proof.Machine

/-- The byte of the flash at `a`; an erased byte is 0xFF (log 20). -/
def State.flashByte (s : State) (a : Nat) : Byte := s.flash.get 0xFF a

/-- `n` bytes of the flash from `a` on. -/
def State.flashBytes (s : State) (a n : Nat) : List Byte := (List.range n).map (fun i => s.flashByte (a + i))

/-- The page buffer (CFG_XSPI_DATA). -/
def State.pageBuffer (s : State) : List Byte := (List.range 32).flatMap (fun i => bytesLE 8 (s.reg (Adr.CFG_XSPI_DATA i)).toNat)

/-- Is an operation of CFG_XSPI_CTL refused now (R725)? -/
def State.xspiRefused (s : State) (op : Nat) : Bool :=
  let stage := s.fld F.CFG_BOOT_STATUS.STAGE
  let addr := s.fld F.CFG_XSPI_ADDR.ADDR
  s.flag F.CFG_XSPI_CTL.BUSY || s.mode = .off || s.mode = .selfTest || (decide (1 ≤ stage) && decide (stage ≤ 5))
  || op = 0 || decide (3 < op) || (op = 3 && addr % 0x10000 != 0) || addr % 256 != 0

/-- A write of CFG_XSPI_CTL (R725). -/
def State.xspiWrite (s : State) (v : Nat) : State :=
  let s1 := if bitOf v 30 then s.setFld F.CFG_XSPI_CTL.ERR 0 else s
  if !(bitOf v 0) then (if s.flag F.CFG_XSPI_CTL.BUSY then s1 else s1.setFld F.CFG_XSPI_CTL.OP (bitsOf v 3 1))
  else if s.xspiRefused (bitsOf v 3 1) then s1.raise F.CFG_XSPI_CTL.ERR
  else
    { (s1.setFld F.CFG_XSPI_CTL.OP (bitsOf v 3 1)).raise F.CFG_XSPI_CTL.BUSY with
      xspi := (s.fld F.CFG_XSPI_ADDR.ADDR, if bitsOf v 3 1 = 2 then s.pageBuffer else []) }

/-- XSPI_READ: OP 1 with GO (R725). -/
def execXspiRead (s : State) : Host.Outcome State Fault Refusal := 
  done (if s.takesIo Adr.CFG_XSPI_CTL then s.xspiWrite 0x3 else s)

/-- XSPI_PROGRAM: OP 2 with GO (R725). -/
def execXspiProgram (s : State) : Host.Outcome State Fault Refusal := 
  done (if s.takesIo Adr.CFG_XSPI_CTL then s.xspiWrite 0x5 else s)

/-- XSPI_ERASE: OP 3 with GO (R725). -/
def execXspiErase (s : State) : Host.Outcome State Fault Refusal := 
  done (if s.takesIo Adr.CFG_XSPI_CTL then s.xspiWrite 0x7 else s)

/-- Set bytes of the flash from `a` on. -/
def State.flashPut (s : State) (a : Nat) (l : List Byte) : State :=
  match l with
  | [] => s
  | b :: rest => { s with flash := s.flash.set 0xFF a b }.flashPut (a + 1) rest

/-- What the operation in progress does: programming can only clear bits of an erased page (log 20). -/
def State.xspiDo (s : State) : State :=
  let a := s.xspi.1
  match s.fld F.CFG_XSPI_CTL.OP with
  | 1 => (List.range 32).foldl (fun t i => t.setReg (Adr.CFG_XSPI_DATA i) (BitVec.ofNat 64 (natLE (s.flashBytes (a + 8 * i) 8)))) s
  | 2 => s.flashPut a (List.zipWith (fun x y => x &&& y) (s.flashBytes a 256) s.xspi.2)
  | 3 => { s with flash := s.flash.filter (fun e => decide (e.1 < a) || decide (a + 0x10000 ≤ e.1)) }
  | _ => s

/-- XSPI_OPERATION_COMPLETE: the operation in progress ends; one that the flash fails changes nothing and sets ERR (R725). -/
def execXspiOperationComplete (fails : Bool) (s : State) : Host.Outcome State Fault Refusal :=
  done (if s.flag F.CFG_XSPI_CTL.BUSY then
      { (if fails then s.raise F.CFG_XSPI_CTL.ERR else s.xspiDo).setFld F.CFG_XSPI_CTL.BUSY 0 with xspi := (0, []) }
    else s)

end Sys2Proof.Machine
end

