-- ==== Sys2Proof/Machine/Skip.lean ====
section
/-!
DEFINITION. The skip engines (R540 to R580): hand-overs and their checks, units, credit, completion, halts and retries, and
what adit generations and function resets do to transfers.
-/
namespace Sys2Proof.Machine

def State.chan (s : State) (n : Nat) : SkpChannel := s.skp.get SkpChannel.reset n
def State.setChan (s : State) (n : Nat) (x : SkpChannel) : State := { s with skp := s.skp.set SkpChannel.reset n x }
/-- Change channel `n`. -/
def State.modChan (s : State) (n : Nat) (f : SkpChannel → SkpChannel) : State := s.setChan n (f (s.chan n))

def skIdle : Nat := 0
def skActive : Nat := 1
def skHalted : Nat := 2

def State.skState (s : State) (n : Nat) : Nat := s.fld (F.SKP_CH_STAT.STATE n)
/-- The owner of a channel, and so the function it acts as (R541, R543). -/
def State.skOwner (s : State) (n : Nat) : Nat := s.fld (F.SKP_CH_CTL.OWNER n)
/-- Is a transfer moving on channel `n`? -/
def State.skMoving (s : State) (n : Nat) : Bool := s.skState n = skActive && !(s.chan n).ended
/-- Do the skip engines run? -/
def State.skRuns (s : State) : Bool := s.pwr.pllLocked && s.domainOn 9 && s.mode != .off

/-! ### Addresses of the active set (R545, R546) -/

/-- First byte of row `r` of the source. -/
def State.skSrcRow (s : State) (n r : Nat) : Int :=
  (s.fld (F.SKP_CH_A_SRC.ADDR n) : Int) + r * signedOf 32 (s.fld (F.SKP_CH_A_STRIDE.SRC_STRIDE n))
/-- First byte of row `r` of the destination. -/
def State.skDstRow (s : State) (n r : Nat) : Int :=
  (s.fld (F.SKP_CH_A_DST.ADDR n) : Int) + r * signedOf 32 (s.fld (F.SKP_CH_A_STRIDE.DST_STRIDE n))
def State.skRows (s : State) (n : Nat) : Nat := s.fld (F.SKP_CH_A_SIZE.ROWS n)
def State.skRowBytes (s : State) (n : Nat) : Nat := s.fld (F.SKP_CH_A_SIZE.ROW_BYTES n)
/-- Address of the completion record. -/
def State.skCpl (s : State) (n : Nat) : Nat := s.fld (F.SKP_CH_A_CPL.ADDR n) * 32

/-- The area that holds all of `len` bytes from `a` (R38), or 0. -/
def State.areaRange (s : State) (a : Int) (len : Nat) : Nat :=
  if a < 0 then 0
  else
    let x := a.toNat
    if s.areaOf x = s.areaOf (x + len - 1) then s.areaOf x else 0

/-- Does the moving transfer of channel `n` touch the host window with its data? -/
def State.skHostSrc (s : State) (n : Nat) : Bool := s.areaRange (s.skSrcRow n 0) 1 = 3
def State.skHostDst (s : State) (n : Nat) : Bool := s.areaRange (s.skDstRow n 0) 1 = 3

/-! ### Credit (R564) -/

/-- RATE in force. -/
def rateOf (raw : Nat) : Nat := if raw = 0 then 1 else if 256 < raw then 256 else raw

/-- Quarter bytes that the credit lacks to its cap now. -/
def State.skSpent (s : State) (n : Nat) : Nat :=
  let x := s.chan n
  x.spent - (s.time.cyc - x.spentCyc) * rateOf (s.fld (F.SKP_CH_CTL.RATE n))

/-- The credit in quarter bytes. -/
def State.skCredit (s : State) (n : Nat) : Nat := s.fld (F.SKP_CH_BURST.BURST n) * 4 - s.skSpent n

/-- Bring the credit up to date, so that RATE may change. -/
def State.skSettle (s : State) (n : Nat) : State :=
  let d := s.skSpent n
  s.modChan n (fun x => { x with spent := d, spentCyc := if d = 0 then 0 else s.time.cyc })

/-- Charge `bytes` to the credit. -/
def State.skCharge (s : State) (n bytes : Nat) : State :=
  let d := s.skSpent n + bytes * 4
  s.modChan n (fun x => { x with spent := d, spentCyc := if d = 0 then 0 else s.time.cyc })

/-- A write of SKP_CHn_BURST: the credit stays, up to the new cap. -/
def State.skBurstWrite (s : State) (n v : Nat) : State :=
  let b := if v < 256 then 256 else if 65536 < v then 65536 else v
  let credit := s.skCredit n
  let d := b * 4 - credit
  (s.setFld (F.SKP_CH_BURST.BURST n) b).modChan n (fun x => { x with spent := d, spentCyc := if d = 0 then 0 else s.time.cyc })

/-! ### Records and halts (R556, R557, R568, R570) -/

/-- Why the host window is closed to a channel's owner, as a halt code (R622); 0 when it is open at `pa`. -/
def State.skClosed (s : State) (n pa : Nat) : Nat :=
  let f := s.skOwner n
  if !(s.hostBlocked f (hostOffset pa)) then 0
  else if s.frozen f then 5
  else if (s.fn f).resetting then 6
  else if !(s.domainOn 5) then 7
  else 4

/-- Write the completion record with a status, and send the message (R556, R557). -/
def State.skRecord (s : State) (n status : Nat) (msg : Bool) : State :=
  let st := s.stamp (0x400 + n)
  let dw1 := s.source (0x400 + n) * 2 ^ 40 + status * 2 ^ 32 + s.fld (F.SKP_CH_A_OPT.TAG n) * 2 ^ 16
  let dw2 := s.fld (F.SKP_CH_HANDOVER_COUNT.COUNT n) * 2 ^ 32 + s.fld (F.SKP_CH_REM.ROWS_DONE n)
  let body := bytesLE 8 st.1 ++ bytesLE 8 dw1 ++ bytesLE 8 dw2 ++ bytesLE 8 (s.chan n).bytes
  let at_ := s.skCpl n
  let s1 := if !(s.flag (F.SKP_CH_A_OPT.CPL_EN n)) then s
    else if s.areaOf at_ = 3 then st.2.hostWrite (s.skOwner n) (hostOffset at_) body false
    else if st.2.dramReach at_ 32 then st.2.dmaWriteBy (0x400 + n) at_ body
    else s
  if msg && s.flag (F.SKP_CH_A_OPT.MSIX_EN n) then s1.sendMsix (s.skOwner n) (s.fld (F.SKP_CH_A_OPT.MSIX_VEC n)) else s1

/-- Channel `n` halts with a code at an address (R570); the engine forgets the units in flight. -/
def State.skHalt (s : State) (n code addr : Nat) : State :=
  let s1 := (((s.setFld (F.SKP_CH_STAT.STATE n) skHalted).raise (F.SKP_CH_STAT.HALT n)).setFld (F.SKP_CH_STAT.ERR n) code).setFld
    (F.SKP_CH_ERR_ADDR.ADDR n) addr
  let s2 := s1.modChan n (fun x => { x with units := [], ended := false })
  if 1 ≤ code && code ≤ 7 then
    (s2.count F.SKP_COUNTS.HALTS 1).log (0x400 + n) 0x30 0 0 (addr % 2 ^ 48) (unitDw3 n (code * 2 ^ 40))
  else s2

/-- A transfer that has moved data halts: its record and message follow, except where the halt closes the host path (R557,
R574, R576). -/
def State.skStop (s : State) (n code addr : Nat) : State :=
  let s1 := s.skHalt n code addr
  if code = 8 then s1
  else if code = 5 || code = 6 then
    (if s.areaOf (s.skCpl n) = 3 then s1 else s1.skRecord n code false)
  else s1.skRecord n code true

/-! ### Units and their reads (R548, R549) -/

/-- The source address of a unit. -/
def State.skUnitSrc (s : State) (n : Nat) (u : SkpUnit) : Nat := (s.skSrcRow n u.row + u.first).toNat
/-- The destination address of a unit. -/
def State.skUnitDst (s : State) (n : Nat) (u : SkpUnit) : Nat := (s.skDstRow n u.row + u.first).toNat

/-- The pieces of a host source: a read never crosses a 4 KiB boundary nor exceeds Max_Read_Request_Size, `size` (R607); `k` bounds them. -/
def hostPieces (size pa len k : Nat) : List HostPart :=
  match k with
  | 0 => []
  | j + 1 =>
    if len = 0 then []
    else
      let page := 4096 - pa % 4096
      let m := if len ≤ size then len else size
      let n := if m ≤ page then m else page
      ⟨pa, n, none, none, none⟩ :: hostPieces size (pa + n) (len - n) j

/-- The reads of a unit of `len` bytes from the host address `pa`. -/
def State.skPieces (s : State) (pa len : Nat) : List HostPart := hostPieces (128 * 2 ^ (s.fn 0).mrrs) pa len 8

/-- The unit meets an error: a retried cause waits 10 µs, the others and the last are for the halt (R568, R569). -/
def State.skError (s : State) (n code : Nat) (u : SkpUnit) : SkpUnit :=
  if (code = 3 || code = 4) && decide (u.retries < s.fld (F.SKP_CH_CTL.RETRY_MAX n)) then
    { u with parts := s.skPieces (s.skUnitSrc n u) (if s.skHostSrc n then u.len else 0), data := none, fail := none,
             waitUs := some s.time.us }
  else { u with fail := some code, data := none }

/-- Is a piece still to be asked for? -/
def HostPart.unsent (p : HostPart) : Bool := p.tag.isNone && p.data.isNone

/-- Has a unit a read still to be issued? -/
def SkpUnit.unsent (u : SkpUnit) : Bool :=
  u.waitUs.isNone && u.fail.isNone && u.data.isNone && u.parts.any HostPart.unsent

/-- The first read of channel `n` that is still to be issued: the place of its unit, the unit, the place of the piece and the
piece. -/
def State.skUnsent (s : State) (n : Nat) : Option (Nat × SkpUnit × Nat × HostPart) :=
  let l := (s.chan n).units
  if l.isEmpty || !(s.skMoving n) || !s.skRuns || !(s.skHostSrc n) then none
  else
    let i := l.findIdx SkpUnit.unsent
    match l[i]? with
    | none => none
    | some u =>
      let j := u.parts.findIdx HostPart.unsent
      match u.parts[j]? with
      | none => none
      | some p => some (i, u, j, p)

/-- Is the next read request of channel `n` ready? One that is not blocked (R622) needs a request of the endpoint's 256. -/
def State.skReadReady (s : State) (n : Nat) : Bool :=
  match s.skUnsent n with
  | none => false
  | some (_, _, _, p) => decide (s.hep.reqs.length < 256) || s.skClosed n p.pa != 0

/-- Replace element `i` of a list. -/
def setAt {α : Type} (l : List α) (i : Nat) (x : α) : List α := l.take i ++ x :: l.drop (i + 1)

/-- Issue the next read request of channel `n` (R619, R622); a blocked one fails with its code. -/
def State.skReadOne (s : State) (n : Nat) : State :=
  match s.skUnsent n with
  | none => s
  | some (i, u, j, p) =>
    let c := s.skClosed n p.pa
    if c != 0 then s.outDrop.modChan n (fun x => { x with units := setAt x.units i (s.skError n c u) })
    else
      let q := s.hostRead (s.skOwner n) (0x400 + n) 0 (s.fld (F.SKP_CH_STAT.GEN n)) (hostOffset p.pa) p.len
      q.1.modChan n (fun x => { x with units := setAt x.units i { u with parts := setAt u.parts j { p with tag := q.2 } } })

/-- Channels in the order of service after channel `last`: round-robin in ascending number (R565). -/
def skOrder (last : Nat) : List Nat := (List.range 64).map (fun i => (last + 1 + i) % 64)

/-- Serve the ready read requests, one at a time, round-robin from the last channel served (R565); `k` bounds them. -/
def State.skReads (s : State) (k : Nat) : State :=
  match k with
  | 0 => s
  | j + 1 =>
    match (skOrder s.skLast.1).find? (fun n => s.skReadReady n) with
    | none => s
    | some n => { s.skReadOne n with skLast := (n, s.skLast.2) }.skReads j

/-- The next units of the transfer, at most `k`, with the position that follows them (R548). -/
def State.skNext (s : State) (n k row first : Nat) : List SkpUnit × Nat × Nat :=
  match k with
  | 0 => ([], row, first)
  | j + 1 =>
    if s.skRows n ≤ row then ([], row, first)
    else
      let d := (s.skDstRow n row + first).toNat
      let room := 256 - d % 256
      let len := if s.skRowBytes n - first < room then s.skRowBytes n - first else room
      let u : SkpUnit := ⟨row, first, len, [], none, none, 0, none⟩
      let u1 := { u with parts := s.skPieces (s.skUnitSrc n u) len }
      let last := decide (s.skRowBytes n ≤ first + len)
      let r := s.skNext n j (if last then row + 1 else row) (if last then 0 else first + len)
      (u1 :: r.1, r.2)

/-- Keep up to 8 units in flight, and the reads of all channels issued in turn (R548, R565); DIS stops the issue (R567). -/
def State.skPump (s : State) (n : Nat) : State :=
  if !(s.skMoving n) || !s.skRuns then s
  else
    let x := s.chan n
    let r := if s.flag (F.SKP_CH_CTL.DIS n) then ([], x.nextRow, x.nextByte) else s.skNext n (8 - x.units.length) x.nextRow x.nextByte
    let s1 := s.modChan n (fun y => { y with units := y.units ++ r.1, nextRow := r.2.1, nextByte := r.2.2 })
    if s.skHostSrc n then s1.skReads 1024
    else if r.1.isEmpty then s1 else { s1 with skLast := (n, s1.skLast.2) }

/-! ### Hand-over (R547, R558) -/

/-- The first failed check of R547: code and address; 0 when none fails. -/
def State.skCheck (s : State) (n : Nat) : Nat × Nat :=
  let rows := s.skRows n
  let len := s.skRowBytes n
  let code := fun (a : Int) => codeOf 48 a
  let cpl := s.flag (F.SKP_CH_A_OPT.CPL_EN n)
  let s0 := s.areaRange (s.skSrcRow n 0) len
  let s1 := s.areaRange (s.skSrcRow n (rows - 1)) len
  let d0 := s.areaRange (s.skDstRow n 0) len
  let d1 := s.areaRange (s.skDstRow n (rows - 1)) len
  let vecBad := s.flag (F.SKP_CH_A_OPT.MSIX_EN n) && s.skOwner n != 0 && decide (16 ≤ s.fld (F.SKP_CH_A_OPT.MSIX_VEC n))
  let c := s.areaRange (s.skCpl n) 32
  if len = 0 || rows = 0 || vecBad then (1, 0)
  else if s0 = 0 then (2, code (s.skSrcRow n 0))
  else if s1 != s0 then (2, code (s.skSrcRow n (rows - 1)))
  else if !(d0 = 1 || d0 = 3) then (2, code (s.skDstRow n 0))
  else if d1 != d0 then (2, code (s.skDstRow n (rows - 1)))
  else if cpl && !(c = 1 || c = 3) then (2, s.skCpl n)
  else (0, 0)

/-- Copy the shadow set into the active set (R562). -/
def State.skCopy (s : State) (n : Nat) : State :=
  let l := [(Adr.SKP_CH_A_SRC n, Adr.SKP_CH_S_SRC n), (Adr.SKP_CH_A_DST n, Adr.SKP_CH_S_DST n),
    (Adr.SKP_CH_A_SIZE n, Adr.SKP_CH_S_SIZE n), (Adr.SKP_CH_A_STRIDE n, Adr.SKP_CH_S_STRIDE n),
    (Adr.SKP_CH_A_CPL n, Adr.SKP_CH_S_CPL n), (Adr.SKP_CH_A_OPT n, Adr.SKP_CH_S_OPT n)]
  l.foldl (fun s e => s.setReg e.1 (s.reg e.2)) s

/-- The generation of adit `k`. -/
def State.aditGen (s : State) (k : Nat) : Nat := s.fld (F.ADT_STATUS.GEN k)

/-- The channel samples VALID: the hand-over, or IDLE (R558). -/
def State.skSample (s : State) (n : Nat) : State :=
  if !(s.flag (F.SKP_CH_SHADOW_VALID.VALID n)) then
    (s.setFld (F.SKP_CH_STAT.STATE n) skIdle).modChan n (fun x => { x with units := [], ended := false })
  else
    let k := s.skOwner n
    let s1 := ((s.skCopy n).setFld (F.SKP_CH_SHADOW_VALID.VALID n) 0).setFld (F.SKP_CH_HANDOVER_COUNT.COUNT n)
      (s.fld (F.SKP_CH_HANDOVER_COUNT.COUNT n) + 1)
    let s2 := ((s1.setFld (F.SKP_CH_STAT.STATE n) skActive).setFld (F.SKP_CH_STAT.GEN n) (if k = 0 then 0 else s.aditGen k)).setReg
      (Adr.SKP_CH_REM n) 0
    let s3 := s2.modChan n (fun x => { x with units := [], nextRow := 0, nextByte := 0, bytes := 0, marked := false, ended := false })
    let c := s3.skCheck n
    if c.1 != 0 then s3.skHalt n c.1 c.2 else s3.skPump n

/-- May the channel take a hand-over now (R558)? -/
def State.skMaySample (s : State) (n : Nat) : Bool :=
  s.skRuns && !(s.flag (F.SKP_CH_CTL.DIS n)) && (s.skState n = skIdle || (s.skState n = skActive && (s.chan n).ended))

/-- HAND_OVER (R558): with DIS 1, a transfer that has ended leaves the channel IDLE and nothing is sampled. -/
def execHandOver (n : Fin 64) (s : State) : Host.Outcome State Fault Refusal :=
  done (if s.skMaySample n then s.skSample n
    else if s.skRuns && s.skState n = skActive && (s.chan n).ended then
      (s.setFld (F.SKP_CH_STAT.STATE n) skIdle).modChan n (fun x => { x with ended := false })
    else s)

/-- A write of 1 to VALID: the commit (R559), refused for a command-class transfer of a quiesced adit (R669). -/
def State.skCommit (s : State) (n : Nat) : State :=
  let k := s.skOwner n
  if k != 0 && s.flag (F.SKP_CH_S_OPT.CLASS n) && (s.reg Adr.ADT_QUIESCE).toNat.testBit k then s.raise (F.SKP_CH_STAT.CFG_REJ n)
  else
    let s1 := s.raise (F.SKP_CH_SHADOW_VALID.VALID n)
    if s.skState n = skIdle && s1.skMaySample n then s1.skSample n else s1

/-- SHADOW_COMMIT (R559). -/
def execShadowCommit (n : Fin 64) (s : State) : Host.Outcome State Fault Refusal :=
  done (if s.takesIo (Adr.SKP_CH_SHADOW_VALID n) then s.skCommit n else s)

/-- SHADOW_WITHDRAW (R561). -/
def execShadowWithdraw (n : Fin 64) (s : State) : Host.Outcome State Fault Refusal :=
  done (if s.takesIo (Adr.SKP_CH_SHADOW_VALID n) then s.setFld (F.SKP_CH_SHADOW_VALID.VALID n) 0 else s)

/-! ### Reads return and writes issue (R548 to R554, R564) -/

/-- Bytes of DRAM with the poison flag of their units. -/
def State.dramFlagged (s : State) (a n : Nat) : List (Byte × Bool) :=
  (List.range n).map (fun i => (s.mem.byte (a + i), s.mem.poison.contains ((a + i) / 32)))

/-- Bytes of the lode window (R118). -/
def State.lodeWindow (s : State) (off n : Nat) : List Byte :=
  (List.range n).map (fun i => (s.windowBytes ((off + i) / 64)).getD ((off + i) % 64) 0)

/-- The reads of a unit return now: its bytes, or a halt code; none while something is outstanding (R36, R124, R549). -/
def State.skRead (s : State) (n : Nat) (u : SkpUnit) : Option (Except Nat (List (Byte × Bool))) :=
  let a := s.skUnitSrc n u
  match s.areaOf a with
  | 1 =>
    let first := a / 64 * 64
    let last := (a + u.len + 63) / 64 * 64
    if s.dramReach first (last - first) then some (.ok (s.dramFlagged a u.len)) else some (.error 7)
  | 2 =>
    if !(s.domainOn 2) then some (.error 7)
    else if !(s.flag F.LOD_STATUS.INIT_DONE) then none
    else some (.ok ((s.lodeWindow (a - 0xF00000000000) u.len).map (fun b => (b, false))))
  | 3 =>
    if u.parts.all (fun p => p.data.isSome) then
      some (.ok (u.parts.flatMap (fun p => match p.data with | some (l, bad) => l.map (fun b => (b, bad)) | none => [])))
    else none
  | _ => some (.ok ((List.range u.len).map (fun i => (Config.bootRom (a + i - 0xF20000000000), false))))

/-- Does any unit's data carry poison? -/
def anyPoison (l : List (Byte × Bool)) : Bool := l.any Prod.snd

/-- Count the poisoned destination units of a write at `d`, and log the first of the transfer (R554). -/
def State.skPoison (s : State) (n d : Nat) (l : List (Byte × Bool)) : State :=
  let bad := (unitsOf d l.length).filter (fun u =>
    (List.range l.length).any (fun i => (d + i) / 32 = u && (l.getD i (0, false)).2))
  match bad with
  | [] => s
  | u :: _ =>
    let s1 := s.count F.SKP_COUNTS.POISONED bad.length
    if (s.chan n).marked then s1
    else
      (s1.modChan n (fun x => { x with marked := true })).log (0x400 + n) 0x31 0 0 (u * 32)
        (unitDw3 n (s.fld (F.SKP_CH_A_OPT.TAG n) * 2 ^ 32))

/-- Write bytes to DRAM for local source `src`, one 32-byte unit at a time, with their poison (R551, R554); `k` bounds the pieces. -/
def State.skDram (s : State) (src d : Nat) (l : List (Byte × Bool)) (k : Nat) : State :=
  match k with
  | 0 => s
  | j + 1 =>
    if l.isEmpty then s
    else
      let m := 32 - d % 32
      let c := l.take m
      let b := c.map Prod.fst
      (if anyPoison c then s.dmaWritePoison src d b else s.dmaWriteBy src d b).skDram src (d + m) (l.drop m) j

/-- The write TLPs of a unit to host address `d`: none exceeds Max_Payload_Size, and EP is set on one that carries a poisoned byte
(R551, R554, R607, R626); `k` bounds them. -/
def State.skHost (s : State) (f d : Nat) (l : List (Byte × Bool)) (k : Nat) : State :=
  match k with
  | 0 => s
  | j + 1 =>
    if l.isEmpty then s
    else
      let m := 128 * 2 ^ (s.fn 0).mps
      let c := l.take m
      (s.emit (.hostWrite f d (c.map Prod.fst) (anyPoison c))).skHost f (d + m) (l.drop m) j

/-- Write the bytes of a unit; answers a halt code when its destination cannot take it. -/
def State.skStore (s : State) (n : Nat) (u : SkpUnit) (l : List (Byte × Bool)) : State × Nat :=
  let d := s.skUnitDst n u
  if s.areaOf d = 3 then
    let c := s.skClosed n d
    if c = 0 then ((s.skHost (s.skOwner n) (s.hostAddr (s.skOwner n) (hostOffset d)) l 2).skPoison n d l, 0)
    else if c = 6 && s.skOwner n != 0 && s.flag (F.SKP_CH_A_OPT.CLASS n) then (s.outDrop, 0)
    else (s.outDrop, c)
  else if s.dramReach d l.length then ((s.skDram (0x400 + n) d l 9).skPoison n d l, 0)
  else (s, 7)

/-- After the last unit in flight, a channel with DIS 1 halts (R567). -/
def State.skDisHalt (s : State) (n : Nat) : State :=
  let x := s.chan n
  if s.skMoving n && s.flag (F.SKP_CH_CTL.DIS n) && x.units.isEmpty && decide (x.nextRow < s.skRows n) then s.skStop n 9 0 else s

/-- Are the writes of channel `n`'s first unit ready and covered by its credit (R548, R564)? -/
def State.skWriteReady (s : State) (n : Nat) : Bool :=
  match (s.chan n).units with
  | [] => false
  | u :: _ => s.skMoving n && s.skRuns && u.fail.isNone && u.data.isSome && decide (u.len * 4 ≤ s.skCredit n)

/-- The first unit in flight: its failure halts the channel, and its writes issue once the credit covers them (R564, R570). -/
def State.skFront (s : State) (n : Nat) : State :=
  if !(s.skMoving n) || !s.skRuns then s
  else match (s.chan n).units with
    | [] => s
    | u :: rest =>
      match u.fail, u.data with
      | some c, _ => s.skStop n c (if c = 7 && s.areaOf (s.skUnitSrc n u) != 1 && s.areaOf (s.skUnitSrc n u) != 3 then s.skUnitDst n u else s.skUnitSrc n u)
      | none, none => s
      | none, some l =>
        if s.skCredit n < u.len * 4 then s
        else
          let w := s.skStore n u l
          if w.2 != 0 then
            let v := w.1.skError n w.2 u
            if v.fail.isSome then w.1.skStop n w.2 (s.skUnitDst n u)
            else w.1.modChan n (fun x => { x with units := v :: rest })
          else
            let w1 := { w.1 with skLast := (w.1.skLast.1, n) }
            let s1 := (w1.skCharge n u.len).modChan n (fun x => { x with units := rest, bytes := x.bytes + u.len })
            let rowDone := decide (s.skRowBytes n ≤ u.first + u.len)
            let rem := if rowDone then (u.row + 1) * 2 ^ 32 else u.row * 2 ^ 32 + (u.first + u.len)
            ((s1.setReg (Adr.SKP_CH_REM n) (BitVec.ofNat 64 rem)).skPump n).skDisHalt n

/-- The channels whose turn to write comes from the last one served up to channel `n`, when `n` is ready (R565). -/
def State.skTurns (s : State) (n : Nat) : List Nat := (skOrder s.skLast.2).takeWhile (fun m => m != n)

/-- The engine serves the channels whose writes are ready, in turn, until channel `n` has been served (R564, R565). -/
def State.skServe (s : State) (n : Nat) : State :=
  if s.skWriteReady n then ((s.skTurns n).foldl (fun t m => if t.skWriteReady m then t.skFront m else t) s).skFront n
  else s.skFront n

/-- The reads of unit `u` in flight on channel `n` return (R548); those of DRAM are made at the hub (R474, R481). -/
def State.skReturn (s : State) (n u : Nat) : State :=
  match (s.chan n).units[u]? with
  | none => s
  | some x =>
    if x.data.isSome || x.fail.isSome || x.waitUs.isSome then s
    else match s.skRead n x with
      | none => s
      | some (.ok l) =>
        (if s.areaOf (s.skUnitSrc n x) = 1 then s.hubAccess (s.skUnitSrc n x) x.len (0x400 + n) false else s).modChan n (fun c => { c with units := setAt c.units u { x with data := some l } })
      | some (.error c) => s.modChan n (fun y => { y with units := setAt y.units u (s.skError n c x) })

/-- UNIT_READ_RETURN (R548). -/
def execUnitReadReturn (n : Fin 64) (u : Fin 8) (s : State) : Host.Outcome State Fault Refusal :=
  done (if s.skMoving n && s.skRuns then ((s.skPump n).skReturn n u).skServe n else s)

/-- UNIT_WRITE_ISSUE (R564). -/
def execUnitWriteIssue (n : Fin 64) (s : State) : Host.Outcome State Fault Refusal := done (s.skServe n)

/-- The first unit whose 10 µs have passed, with its place. -/
def State.skRetryDue (s : State) (l : List SkpUnit) (i : Nat) : Option (Nat × SkpUnit) :=
  match l with
  | [] => none
  | u :: rest => match u.waitUs with
    | some t => if t + 10 ≤ s.time.us then some (i, u) else s.skRetryDue rest (i + 1)
    | none => s.skRetryDue rest (i + 1)

/-- UNIT_RETRY: the reads of a unit are issued again (R569). -/
def execUnitRetry (n : Fin 64) (s : State) : Host.Outcome State Fault Refusal :=
  done (if !(s.skMoving n) || !s.skRuns then s
    else match s.skRetryDue (s.chan n).units 0 with
      | none => s
      | some (i, u) =>
        let s1 := (s.count F.SKP_COUNTS.RETRIES 1).modChan n (fun x =>
          { x with units := setAt x.units i { u with retries := u.retries + 1, waitUs := none } })
        (s1.skPump n).skFront n)

/-- TRANSFER_COMPLETE: every unit is written; the record and the message follow (R553, R556, R557). -/
def execTransferComplete (n : Fin 64) (s : State) : Host.Outcome State Fault Refusal :=
  let x := s.chan n
  done (if !(s.skMoving n) || !s.skRuns || !x.units.isEmpty || decide (x.nextRow < s.skRows n) then s
    else
      let at_ := s.skCpl n
      let c := if !(s.flag (F.SKP_CH_A_OPT.CPL_EN n)) then 0
        else if s.areaOf at_ = 3 then s.skClosed n at_ else if s.dramReach at_ 32 then 0 else 7
      if c != 0 && !(c = 6 && s.skOwner n != 0 && s.flag (F.SKP_CH_A_OPT.CLASS n)) then s.skStop n c at_
      else (s.skRecord n 0 true).modChan n (fun x => { x with ended := true }))

/-! ### Control writes (R544, R567, R571, R646) -/

/-- A write of 1 to DIS (R567). -/
def State.skDisable (s : State) (n : Nat) : State := (s.raise (F.SKP_CH_CTL.DIS n)).skDisHalt n

/-- SKP_DIS_WRITE (R567). -/
def execSkpDisWrite (n : Fin 64) (s : State) : Host.Outcome State Fault Refusal :=
  done (if s.takesIo (Adr.SKP_CH_CTL n) then s.skDisable n else s)

/-- A write of 1 to STAT.HALT (R571); the hand-over follows. -/
def State.skHaltClear (s : State) (n : Nat) : State :=
  if s.skState n != skHalted then s
  else
    let s1 := (s.setFld (F.SKP_CH_STAT.STATE n) skIdle).setFld (F.SKP_CH_STAT.HALT n) 0
    if s1.skMaySample n then s1.skSample n else s1

/-- SKP_HALT_CLEAR (R571). -/
def execSkpHaltClear (n : Fin 64) (s : State) : Host.Outcome State Fault Refusal :=
  done (if s.takesIo (Adr.SKP_CH_STAT n) then s.skHaltClear n else s)

/-- The RATE of the channels that adit `k` owns besides `n`. -/
def State.skRateSum (s : State) (k n : Nat) : Nat :=
  ((List.range 64).map (fun m => if m != n && s.skOwner m = k then rateOf (s.fld (F.SKP_CH_CTL.RATE m)) else 0)).foldl
    (fun a b => a + b) 0

/-- May channel `n` take this owner and this RATE (R541, R544, R646)? -/
def State.skMayOwn (s : State) (n owner rate : Nat) : Bool :=
  let idle := s.skState n = skIdle && !(s.flag (F.SKP_CH_SHADOW_VALID.VALID n))
  (owner = s.skOwner n || (decide (16 ≤ n) && idle && (owner = 0 || s.flag (F.ADT_STATUS.CREATED owner))))
  && (owner = 0 || decide (s.skRateSum owner n + rateOf rate ≤ s.fld (F.ADT_ASGN_RES.BW owner)))

/-- A write of SKP_CHn_CTL; OWNER reads 0 for channels 0 to 15, and a write of it there is discarded (R541). -/
def State.skCtlWrite (s : State) (n v : Nat) : State :=
  let owner := if n < 16 then 0 else bitsOf v 13 8
  let rate := bitsOf v 24 16
  if !(s.skMayOwn n owner rate) then s.raise (F.SKP_CH_STAT.CFG_REJ n)
  else
    let s1 := ((((s.skSettle n).setFld (F.SKP_CH_CTL.RATE n) rate).setFld (F.SKP_CH_CTL.OWNER n) owner).setFld
      (F.SKP_CH_CTL.RETRY_MAX n) (bitsOf v 6 4)).setFld (F.SKP_CH_CTL.DIS n) (v % 2)
    if bitOf v 0 then s1.skDisHalt n
    else if s1.skState n = skIdle && s1.skMaySample n && s1.flag (F.SKP_CH_SHADOW_VALID.VALID n) then s1.skSample n
    else s1.skPump n

/-- SKP_OWNER_WRITE: the other fields of SKP_CHn_CTL as they are (R544). -/
def execSkpOwnerWrite (n owner : Fin 64) (s : State) : Host.Outcome State Fault Refusal :=
  done (if s.takesIo (Adr.SKP_CH_CTL n) then s.skCtlWrite n (setBits (s.reg (Adr.SKP_CH_CTL n)).toNat 13 8 owner) else s)

/-! ### Adits and functions (R574 to R576) -/

/-- What the advance of adit `k`'s generation does to channel `n` (R574). -/
def State.skGen1 (s : State) (k n : Nat) : State :=
  if s.skOwner n != k then s
  else
    let s1 := if s.flag (F.SKP_CH_SHADOW_VALID.VALID n) && !(s.flag (F.SKP_CH_S_OPT.CLASS n)) then
      s.setFld (F.SKP_CH_SHADOW_VALID.VALID n) 0 else s
    if s.skMoving n && !(s.flag (F.SKP_CH_A_OPT.CLASS n)) then s1.skStop n 8 0 else s1

/-- What a freeze (code 5) or reset (code 6) of function `f` does to channel `n` (R576). -/
def State.skFn1 (s : State) (f code n : Nat) : State :=
  if s.skOwner n = f && s.skMoving n && (s.skHostSrc n || s.skHostDst n)
      && !(code = 6 && f != 0 && s.flag (F.SKP_CH_A_OPT.CLASS n)) then
    s.skStop n code (if s.skHostSrc n then codeOf 48 (s.skSrcRow n (s.fld (F.SKP_CH_REM.ROWS_DONE n)) + s.fld (F.SKP_CH_REM.BYTES_DONE n))
      else codeOf 48 (s.skDstRow n (s.fld (F.SKP_CH_REM.ROWS_DONE n)) + s.fld (F.SKP_CH_REM.BYTES_DONE n)))
  else s

/-- Apply a change to each of the 64 channels. -/
def State.skEach (s : State) (f : State → Nat → State) : State := (List.range 64).foldl f s

/-- The generation of adit `k` has advanced (R574). -/
def State.skGenAdvance (s : State) (k : Nat) : State := s.skEach (fun s n => s.skGen1 k n)
/-- Function `f` is frozen or reset (R576). -/
def State.skFunction (s : State) (f code : Nat) : State := s.skEach (fun s n => s.skFn1 f code n)

/-- Does a channel of adit `k` hold a command-class transfer (R575)? -/
def State.skCmdBusy (s : State) (k : Nat) : Bool :=
  (List.range 64).any (fun n => s.skOwner n = k
    && ((s.skMoving n && s.flag (F.SKP_CH_A_OPT.CLASS n))
      || (s.flag (F.SKP_CH_SHADOW_VALID.VALID n) && s.flag (F.SKP_CH_S_OPT.CLASS n))))

/-- Host data arrives for the piece of a unit that a tag names (R623). -/
def State.skDeliver (s : State) (n tag : Nat) (data : List Byte) (poison : Bool) : State :=
  s.modChan n (fun x => { x with units := x.units.map (fun u => { u with
    parts := u.parts.map (fun p => if p.tag = some tag then { p with tag := none, data := some (data, poison) } else p) }) })

/-- A read of a unit ends with UR or CA (code 4) or times out (code 3) (R568). -/
def State.skFailRead (s : State) (n tag code : Nat) : State :=
  (s.modChan n (fun x => { x with units := x.units.map (fun u =>
    if u.parts.any (fun p => p.tag = some tag) then s.skError n code u else u) })).skFront n

end Sys2Proof.Machine
end

