-- ==== Sys2Proof/Machine/Adit.lean ====
section
/-!
DEFINITION. The adits (R644 to R670): creation and its shares, signal ranges, mailboxes, queries and their rings, command
records and credits, generations.
-/
namespace Sys2Proof.Machine

/-- Does function `f` exist (R644)? -/
def State.fnExists (s : State) (f : Nat) : Bool := f = 0 || ((s.fn 0).vfEnable && decide (f ≤ s.hep.numVfs))

def State.created (s : State) (k : Nat) : Bool := k != 0 && s.flag (F.ADT_STATUS.CREATED k)

/-- Created adits other than `k`. -/
def State.otherAdits (s : State) (k : Nat) : List Nat := (List.range 64).filter (fun j => j != k && s.created j)

/-! ### Command records and credits (R665, R666) -/

/-- Does an item on its way through the lode hold a credit of adit `k`? -/
def HoldItem.creditOf (i : HoldItem) (k : Nat) : Bool :=
  match i with
  | .write w => w.credit == some k
  | _ => false

/-- Accepted records of adit `k` that the lode has neither applied nor dropped (R665). -/
def State.outstanding (s : State) (k : Nat) : Nat :=
  (s.lode.inq.filter (fun i => i.creditOf k)).length + (s.lode.hold.filter (fun i => i.creditOf k)).length

/-- ADT_CMD_CREDIT.LIMIT: the credits of a created adit. -/
def State.creditLimit (s : State) (k : Nat) : Nat := if s.created k then s.fld (F.ADT_ASGN_RES.CREDITS k) else 0

/-- ADT_CMD_CREDIT.AVAIL. -/
def State.creditAvail (s : State) (k : Nat) : Nat := s.creditLimit k - s.outstanding k

/-- Is adit `k` command-busy (R666)? -/
def State.aditBusy (s : State) (k : Nat) : Bool := s.outstanding k != 0 || s.skCmdBusy k

/-- Is ADT_QUIESCE bit `k` 1? -/
def State.quiesced (s : State) (k : Nat) : Bool := (s.reg Adr.ADT_QUIESCE).toNat.testBit k

/-- Does a range of adit `k` with W (`write`) or R hold the slot (R650)? -/
def State.inRange (s : State) (k slot : Nat) (write : Bool) : Bool :=
  (List.range 16).any (fun r =>
    let first := s.fld (F.ADT_ASGN_RANGE.FIRST k r)
    s.flag (if write then F.ADT_ASGN_RANGE.W k r else F.ADT_ASGN_RANGE.R k r)
    && decide (first ≤ slot) && decide (slot < first + s.fld (F.ADT_ASGN_RANGE.COUNT k r)))

/-- The lowest-numbered window, from `w` on, that matches a host record of function `f` (R109, R110). -/
def State.hostWindow (s : State) (f idx n w : Nat) : Option Nat :=
  match n with
  | 0 => none
  | k + 1 => if s.winMatchesHost w f idx then some w else s.hostWindow f idx k (w + 1)

/-- The lode write of a host record, whose multi-byte fields are little-endian (R615), with the stamp of its acceptance (R88). -/
def State.hostRecord (s : State) (f slot : Nat) (r : List Byte) (ep : Bool) (credit : Option Nat) (time : Nat) : LodeWrite where
  path := .host
  slot := slot
  value := BitVec.ofNat 64 (natLE (sliceBytes r 0 8))
  kind := natLE (sliceBytes r 19 1) / 16
  quality := natLE (sliceBytes r 20 2)
  time := some time
  source := s.source (0x700 + f)
  poison := ep
  credit := credit

/-- Is the mode one in which commands of adits are accepted (R665)? -/
def Mode.takesRecords (m : Mode) : Bool :=
  match m with
  | .standby => true | .run => true | .degraded => true | .maintenance => true
  | _ => false

/-- One record of a record port (R615, R665); function 0 has neither credits nor ranges. -/
def State.recordIn (s : State) (f : Nat) (r : List Byte) (ep : Bool) : State :=
  if f != 0 && (s.creditAvail f = 0 || s.quiesced f || !s.mode.takesRecords) then
    (s.count (F.ADT_COUNTS.CMD_REJ f) 1).raise (F.ADT_STATUS.REJ f)
  else
    let idx := natLE (sliceBytes r 24 2)
    match s.hostWindow f idx 64 0 with
    | none => s.count F.LOD_COUNTS.DROPPED 1
    | some w =>
      let slot := s.winSlot w idx
      if f != 0 && !(s.inRange f slot true) then s.count (F.ADT_COUNTS.RANGE_REJ f) 1
      else
        let st := s.stamp (0x700 + f)
        st.2.lodeSend (.write (s.hostRecord f slot r ep (if f = 0 then none else some f) st.1))

/-- The records of one TLP, in order. -/
def State.recordsIn (s : State) (f n : Nat) (l : List Byte) (ep : Bool) : State :=
  match n with
  | 0 => s
  | k + 1 => (s.recordIn f (l.take 32) ep).recordsIn f k (l.drop 32) ep

/-- One request refused under R612, R613, R616 or R645 is counted. -/
def State.barErr (s : State) : State := s.count F.HEP_COUNTS.BAR_ERR 1

/-- POISON_RX and its event (R625): `at_` is the address at which the data was stored, `type` the TLP's Fmt and Type byte. -/
def State.poisonRx (s : State) (f at_ type : Nat) : State :=
  (s.count F.HEP_COUNTS.POISON_RX 1).log (0x700 + f) 0x64 0 0 at_ (f * 2 ^ 58 + type % 256 * 2 ^ 50)

/-- The Fmt and Type byte of a received memory write: 32-bit or 64-bit addressing, which the command does not tell (log 3). -/
def State.writeType (s : State) : Nat × State := (0x40 + s.draw.1 % 2 * 0x20, s.draw.2)

/-- A write TLP to the record port of function `f` (R615, R616, R625). -/
def State.recordPort (s : State) (f off : Nat) (data : List Byte) (ep : Bool) : State :=
  if off % 32 != 0 || data.length % 32 != 0 || data.isEmpty then s.barErr
  else
    let t := s.writeType
    let s1 := if ep then t.2.poisonRx f 0 t.1 else s
    s1.recordsIn f (data.length / 32) data ep

/-- Does function `f` take memory requests: it exists, is in D0, and is not under reset (R627, R630)? -/
def State.fnOpen (s : State) (f : Nat) : Bool :=
  s.fnExists f && (s.fn f).power = 0 && !(s.fn f).resetting && s.domainOn 5 && !s.hep.perst && s.flag F.HEP_STATUS.LINK_UP

/-- ADIT_RECORD_WRITE: a TLP on adit `k`'s record port, at an offset of the port (R637, R645, R665). -/
def execAditRecordWrite (k : Fin 64) (off : BitVec 15) (data : List Byte) (ep : Bool) (s : State) :
    Host.Outcome State Fault Refusal :=
  done (if k.val = 0 || !(s.fnOpen k) then s
    else if s.frozen k then s.count F.HEP_COUNTS.FROZEN_WR 1
    else if !(s.created k) then s.barErr
    else s.recordPort k off.toNat data ep)

/-! ### Generations (R655, R667, R668) -/

/-- Clear EN of every query context of adit `k` (R667). -/
def State.clearQueries (s : State) (k : Nat) : State :=
  let s1 := (List.range 256).foldl (fun s q =>
    if s.flag (F.ADT_Q_CFG.EN k q) then s.setFld (F.ADT_Q_CFG.EN k q) 0 else s) s
  { s1 with adt := { s1.adt with queries := s1.adt.queries.filter (fun e => e.1 / 256 != k) } }

/-- The advance of adit `k`'s generation takes place (R574, R667). -/
def State.advanceNow (s : State) (k : Nat) : State :=
  ((s.setFld (F.ADT_STATUS.GEN k) (s.aditGen k + 1)).clearQueries k).skGenAdvance k

/-- Is a request of adit `k` that carries the generation it would reach still outstanding (R668)? -/
def State.genHeld (s : State) (k : Nat) : Bool :=
  s.hep.reqs.any (fun r => r.fn = k && r.gen = (s.aditGen k + 1) % 256)

/-- Advance the generation of adit `k`, or wait (R668). -/
def State.advanceGen (s : State) (k : Nat) : State :=
  if s.genHeld k || s.adt.waiting.get 0 k != 0 then
    { s with adt := { s.adt with waiting := s.adt.waiting.set 0 k (s.adt.waiting.get 0 k + 1) } }
  else s.advanceNow k

/-- The advances of adit `k` that wait take place as far as R668 lets them, at most `n`. -/
def State.advanceWaiting (s : State) (k n : Nat) : State :=
  match n with
  | 0 => s
  | j + 1 =>
    let w := s.adt.waiting.get 0 k
    if w = 0 || s.genHeld k then s
    else ({ s with adt := { s.adt with waiting := s.adt.waiting.set 0 k (w - 1) } }.advanceNow k).advanceWaiting k j

/-- What a function-level reset does to adit `k`'s page (R655, R667). -/
def State.aditReset (s : State) (k : Nat) : State :=
  let s1 := (List.range 8).foldl (fun s i => s.setReg (Adr.ADT_MBX_TOVF k i) 0) s
  (s1.setFld (F.ADT_MBX_CTL.VF_READY k) 0).advanceGen k

/-! ### Creation (R646 to R649) -/

/-- Base and bytes of adit `k`'s result memory (R646). -/
def State.rmemBase (s : State) (k : Nat) : Nat := s.fld F.ADT_POOL.BASE * 0x4000000 + s.fld (F.ADT_ASGN_RES.RMEM_OFF k) * 65536
def State.rmemSize (s : State) (k : Nat) : Nat := s.fld (F.ADT_ASGN_RES.RMEM_SIZE k) * 65536

/-- Write zeros over the result memory of adit `k`. -/
def State.zeroRmem (s : State) (k : Nat) : State := s.dmaWriteBy (0x700 + k) (s.rmemBase k) (List.replicate (s.rmemSize k) 0)

/-- Do two ranges overlap? -/
def overlaps (a n b m : Nat) : Bool := decide (a < b + m) && decide (b < a + n) && n != 0 && m != 0

/-- Sum of a share over the created adits other than `k`. -/
def State.shareSum (s : State) (k : Nat) (f : Nat → IoField) : Nat :=
  ((s.otherAdits k).map (fun j => s.fld (f j))).foldl (fun a b => a + b) 0

/-- The first refusal code of CREATE for adit `k` (R647), or 0. -/
def State.createCheck (s : State) (k : Nat) : Nat :=
  let qb := s.fld (F.ADT_ASGN_RES.QBASE k)
  let qc := s.fld (F.ADT_ASGN_RES.QCOUNT k)
  let ro := s.fld (F.ADT_ASGN_RES.RMEM_OFF k)
  let rs := s.fld (F.ADT_ASGN_RES.RMEM_SIZE k)
  let cr := s.fld (F.ADT_ASGN_RES.CREDITS k)
  let bw := s.fld (F.ADT_ASGN_RES.BW k)
  let others := s.otherAdits k
  if s.created k then 2
  else if 256 < qc || 1024 < qb + qc
      || others.any (fun j => overlaps qb qc (s.fld (F.ADT_ASGN_RES.QBASE j)) (s.fld (F.ADT_ASGN_RES.QCOUNT j))) then 3
  else if !(s.flag F.ADT_POOL.EN) || rs = 0 || 256 < rs || 1024 < ro + rs
      || others.any (fun j => overlaps ro rs (s.fld (F.ADT_ASGN_RES.RMEM_OFF j)) (s.fld (F.ADT_ASGN_RES.RMEM_SIZE j))) then 4
  else if 4096 < s.shareSum k F.ADT_ASGN_RES.CREDITS + cr then 5
  else if bw = 0 || 256 < s.shareSum k F.ADT_ASGN_RES.BW + bw then 6
  else if (List.range 16).any (fun r => s.fld (F.ADT_ASGN_RANGE.COUNT k r) != 0
      && decide (slotCount < s.fld (F.ADT_ASGN_RANGE.FIRST k r) + s.fld (F.ADT_ASGN_RANGE.COUNT k r))) then 7
  else 0

/-- The first refusal code of DESTROY for adit `k` (R647), or 0. -/
def State.destroyCheck (s : State) (k : Nat) : Nat :=
  if !(s.created k) then 2
  else if s.fnExists k || (List.range 64).any (fun n => s.skOwner n = k) || s.aditBusy k then 8
  else 0

/-- A write of ADT_CMD (R647, R648); one in progress is left alone. DESTROY acts on the adit at once and zeroes its memory at
the end; CREATE settles at the end. -/
def State.aditCmd (s : State) (v : Nat) : State :=
  if s.flag F.ADT_CMD.BUSY then s
  else
    let k := bitsOf v 13 8
    let op := bitsOf v 2 1
    let s1 := (s.setFld F.ADT_CMD.ADIT k).setFld F.ADT_CMD.OP op
    if !(bitOf v 0) then s1
    else
      let c := if op = 0 || op = 3 || k = 0 then 1 else if op = 1 then s.createCheck k else s.destroyCheck k
      let s2 := s1.setFld F.ADT_CMD.RESULT c
      if c != 0 then s2
      else if op = 1 then s2.raise F.ADT_CMD.BUSY
      else ((s2.advanceGen k).setFld (F.ADT_STATUS.CREATED k) 0).raise F.ADT_CMD.BUSY

/-- CREATE (R648). -/
def execCreate (k : Fin 64) (s : State) : Host.Outcome State Fault Refusal := 
  done (if s.takesIo Adr.ADT_CMD then s.aditCmd (k.val * 2 ^ 8 + 3) else s)
/-- DESTROY (R648). -/
def execDestroy (k : Fin 64) (s : State) : Host.Outcome State Fault Refusal := 
  done (if s.takesIo Adr.ADT_CMD then s.aditCmd (k.val * 2 ^ 8 + 5) else s)

/-- Clear the mailboxes and every query context of adit `k` (R648). -/
def State.clearPage (s : State) (k : Nat) : State :=
  let s1 := (List.range 8).foldl (fun s i => (s.setReg (Adr.ADT_MBX_TOVF k i) 0).setReg (Adr.ADT_MBX_TOMGR k i) 0) s
  let s2 := (s1.setReg (Adr.ADT_MBX_CTL k) 0).setReg Adr.ADT_MBX_PEND
    (BitVec.ofNat 64 (setBits (s1.reg Adr.ADT_MBX_PEND).toNat k k 0))
  let lo := Adr.ADT_Q_CFG k 0
  { s2 with
    regs := s2.regs.filter (fun e => !(decide (lo ≤ e.1) && decide (e.1 < lo + 0x2000)))
    adt := { s2.adt with queries := s2.adt.queries.filter (fun e => e.1 / 256 != k) } }

/-- ADIT_CMD_COMPLETE: the zeroing has ended (R648). -/
def execAditCmdComplete (s : State) : Host.Outcome State Fault Refusal :=
  let k := s.fld F.ADT_CMD.ADIT
  done (if !(s.flag F.ADT_CMD.BUSY) then s
    else
      let s1 := (s.zeroRmem k).setFld F.ADT_CMD.BUSY 0
      if s.fld F.ADT_CMD.OP = 1 then ((s1.advanceGen k).clearPage k).raise (F.ADT_STATUS.CREATED k) else s1)

/-- May the pool lie at `base` (R649)? -/
def State.poolFits (s : State) (base : Nat) : Bool :=
  decide (base + 0x4000000 ≤ s.dramSize) && !(overlaps base 0x4000000 s.regionBase s.regionSize)
  && !(overlaps base 0x4000000 (s.saveArea 0) 0x100000)

/-- A write of ADT_POOL, in CONFIGURE only but for ERR (R649). -/
def State.poolWrite (s : State) (v : Nat) : State :=
  let s1 := if bitOf v 62 then s.setFld F.ADT_POOL.ERR 0 else s
  if s.mode != .configure then s1
  else
    let s2 := s1.setFld F.ADT_POOL.BASE (bitsOf v 47 26)
    if !(bitOf v 63) then s2.setFld F.ADT_POOL.EN 0
    else if s2.poolFits (bitsOf v 47 26 * 0x4000000) then s2.raise F.ADT_POOL.EN
    else (s2.setFld F.ADT_POOL.EN 0).raise F.ADT_POOL.ERR

/-- ADT_POOL_WRITE (R649). -/
def execAdtPoolWrite (value : Word) (s : State) : Host.Outcome State Fault Refusal := 
  done (if s.takesIo Adr.ADT_POOL then s.poolWrite value.toNat else s)

/-- Are the shares of adit `k` fixed: it is created, or a command on it is in progress (R646; log 56)? -/
def State.sharesFixed (s : State) (k : Nat) : Bool :=
  s.created k || (s.flag F.ADT_CMD.BUSY && decide (s.fld F.ADT_CMD.ADIT = k))

/-- A write of ADT_ASGNk_RES: nothing while the shares of adit `k` are fixed (R646); its reserved bits [23:19] keep 0 (R5, R8). -/
def State.asgnWrite (s : State) (k addr : Nat) (v : Word) : State :=
  if s.sharesFixed k then s else s.setReg addr (BitVec.ofNat 64 (setBits v.toNat 23 19 0))

/-! ### Mailboxes (R651 to R654) -/

/-- A write of TOVF by the manager, or of TOMGR by the adit (R652). -/
def State.mailboxWrite (s : State) (k : Nat) (toVf : Bool) (i : Nat) (v : Word) : State :=
  let ready := if toVf then F.ADT_MBX_CTL.VF_READY k else F.ADT_MBX_CTL.MGR_READY k
  if s.flag ready then s.raise (F.ADT_MBX_CTL.BUSY k)
  else s.setReg (if toVf then Adr.ADT_MBX_TOVF k i else Adr.ADT_MBX_TOMGR k i) v

/-- MAILBOX_WRITE (R652); adit 0 does not exist. -/
def execMailboxWrite (k : Fin 64) (toVf : Bool) (i : Fin 8) (value : Word) (s : State) : Host.Outcome State Fault Refusal :=
  done (if k.val ≠ 0 && s.takesIo (Adr.ADT_MBX_CTL k) then s.mailboxWrite k toVf i value else s)

/-- RING_MGR of adit `k` (R652, R653). -/
def State.ringMgr (s : State) (k : Nat) : State :=
  if s.flag (F.ADT_MBX_CTL.MGR_READY k) then s.raise (F.ADT_MBX_CTL.BUSY k)
  else
    let pend := (s.reg Adr.ADT_MBX_PEND).toNat
    let s1 := (s.raise (F.ADT_MBX_CTL.MGR_READY k)).setReg Adr.ADT_MBX_PEND (BitVec.ofNat 64 (setBits pend k k 1))
    if !(pend.testBit k) && s.flag F.ADT_MGR_CTL.MSIX_EN then s1.sendMsix 0 (s.fld F.ADT_MGR_CTL.VEC) else s1

/-- ACK_MGR (R652). -/
def State.ackMgr (s : State) (k : Nat) : State :=
  (s.setFld (F.ADT_MBX_CTL.MGR_READY k) 0).setReg Adr.ADT_MBX_PEND
    (BitVec.ofNat 64 (setBits (s.reg Adr.ADT_MBX_PEND).toNat k k 0))

/-- RING_VF (R652, R653). -/
def State.ringVf (s : State) (k : Nat) : State :=
  if s.flag (F.ADT_MBX_CTL.VF_READY k) then s.raise (F.ADT_MBX_CTL.BUSY k)
  else (s.raise (F.ADT_MBX_CTL.VF_READY k)).sendMsix k 0

/-- ACK_VF (R652). -/
def State.ackVf (s : State) (k : Nat) : State := s.setFld (F.ADT_MBX_CTL.VF_READY k) 0

/-- RING_MGR (R652). -/
def execRingMgr (k : Fin 64) (s : State) : Host.Outcome State Fault Refusal := 
  done (if k.val ≠ 0 && s.takesIo (Adr.ADT_MBX_CTL k) then s.ringMgr k else s)
/-- ACK_MGR (R652). -/
def execAckMgr (k : Fin 64) (s : State) : Host.Outcome State Fault Refusal := 
  done (if k.val ≠ 0 && s.takesIo (Adr.ADT_MBX_CTL k) then s.ackMgr k else s)
/-- RING_VF (R652). -/
def execRingVf (k : Fin 64) (s : State) : Host.Outcome State Fault Refusal := 
  done (if k.val ≠ 0 && s.takesIo (Adr.ADT_MBX_CTL k) then s.ringVf k else s)
/-- ACK_VF (R652). -/
def execAckVf (k : Fin 64) (s : State) : Host.Outcome State Fault Refusal := 
  done (if k.val ≠ 0 && s.takesIo (Adr.ADT_MBX_CTL k) then s.ackVf k else s)

/-- A write of ADT_MBX_CTL: the manager acknowledges TOMGR and rings the adit; the adit does the reverse (R652). -/
def State.mbxCtlWrite (s : State) (k : Nat) (manager : Bool) (v : Nat) : State :=
  let s1 := if bitOf v 16 then s.setFld (F.ADT_MBX_CTL.BUSY k) 0 else s
  if manager then
    let s2 := if bitOf v 3 then s1.ackMgr k else s1
    if bitOf v 2 then s2.ringVf k else s2
  else
    let s2 := if bitOf v 1 then s1.ackVf k else s1
    if bitOf v 0 then s2.ringMgr k else s2

/-! ### Queries (R656 to R664) -/

def queryKey (k q : Nat) : Nat := k * 256 + q
def State.query (s : State) (k q : Nat) : QueryCtx := s.adt.queries.get QueryCtx.reset (queryKey k q)

/-- Does context `q` of adit `k` exist: the adit is created and q < QCOUNT (R656)? -/
def State.queryThere (s : State) (k q : Nat) : Bool := s.created k && decide (q < s.fld (F.ADT_ASGN_RES.QCOUNT k))

/-- A refused write (R656, R661). -/
def State.queryRej (s : State) (k q : Nat) : State := s.raise (F.ADT_Q_CTL.REJ k q)

/-- The entry stride S (R656). -/
def State.queryStride (s : State) (k q : Nat) : Nat := (32 + (s.fld (F.ADT_Q_CFG.COUNT k q) + 1) * 32 + 255) / 256 * 256

/-- Is the setting of EN refused (R656)? -/
def State.queryBad (s : State) (k q : Nat) : Bool :=
  let first := s.fld (F.ADT_Q_CFG.FIRST k q)
  s.fld (F.ADT_Q_CFG.TRIG k q) = 3
  || !((List.range (s.fld (F.ADT_Q_CFG.COUNT k q) + 1)).all (fun i => s.inRange k (first + i) false))
  || decide (s.rmemSize k < s.fld (F.ADT_Q_RING.OFF k q) * 256 + s.fld (F.ADT_Q_RING.ENTRIES k q) * s.queryStride k q)

/-- A write of ADT_Qq_CFG (R656). -/
def State.queryCfgWrite (s : State) (k q v : Nat) : State :=
  let old := (s.reg (Adr.ADT_Q_CFG k q)).toNat
  let x := s.query k q
  let new := setBits (setBits v 60 60 0) 28 18 0
  let s0 := if !(s.queryThere k q) then s
    else if x.on || x.enabling then
      let s1 := if bitsOf new 62 0 != bitsOf old 62 0 then s.queryRej k q else s
      if bitOf v 63 then s1
      else (s1.setFld (F.ADT_Q_CFG.EN k q) 0).modQuery (queryKey k q) (fun _ => QueryCtx.reset)
    else
      let s1 := s.setReg (Adr.ADT_Q_CFG k q) (BitVec.ofNat 64 (bitsOf new 62 0))
      if !(bitOf v 63) then s1
      else if s1.queryBad k q then s1.queryRej k q
      else s1.modQuery (queryKey k q) (fun x => { x with enabling := true })
  s0

/-- QUERY_ENABLE: a write of ADT_Qq_CFG (R656). -/
def execQueryEnable (k : Fin 64) (q : Fin 256) (value : Word) (s : State) : Host.Outcome State Fault Refusal :=
  done (if s.takesIo (Adr.ADT_Q_CFG k q) then s.queryCfgWrite k q value.toNat else s)

/-- A write of ADT_Qq_RING (R656). -/
def State.queryRingWrite (s : State) (k q v : Nat) : State :=
  let new := setBits (bitsOf v 12 0) 47 32 (bitsOf v 47 32)
  if !(s.queryThere k q) then s
  else if (s.query k q).on || (s.query k q).enabling then
    (if BitVec.ofNat 64 new = s.reg (Adr.ADT_Q_RING k q) then s else s.queryRej k q)
  else s.setReg (Adr.ADT_Q_RING k q) (BitVec.ofNat 64 new)

/-- Base of a query's ring. -/
def State.ringBase (s : State) (k q : Nat) : Nat := s.rmemBase k + s.fld (F.ADT_Q_RING.OFF k q) * 256

/-- Clear the SEQ doublewords of the entries from `e` on (R656). -/
def State.clearSeqs (s : State) (src base stride n e : Nat) : State :=
  match n with
  | 0 => s
  | j + 1 => (s.dmaWriteBy src (base + e * stride + 0x10) (List.replicate 8 0)).clearSeqs src base stride j (e + 1)

/-- QUERY_ENABLE_DONE: the ring is cleared and EN reads 1 (R656). -/
def execQueryEnableDone (k : Fin 64) (q : Fin 256) (s : State) : Host.Outcome State Fault Refusal :=
  done (if (s.query k q).enabling then
      let s1 := s.clearSeqs (0x700 + k) (s.ringBase k q) (s.queryStride k q) (s.fld (F.ADT_Q_RING.ENTRIES k q)) 0
      ((s1.setReg (Adr.ADT_Q_PTR k q) 0).raise (F.ADT_Q_CFG.EN k q)).modQuery (queryKey k q) (fun _ => ⟨true, false, 0, none, false⟩)
    else s)

/-- A write of GO (R657). -/
def State.queryGo (s : State) (k q : Nat) : State :=
  if (s.query k q).on && s.fld (F.ADT_Q_CFG.TRIG k q) = 2 then
    s.modQuery (queryKey k q) (fun x => { x with trig := if x.trig.isNone then some s.time.cyc else x.trig })
  else s

/-- QUERY_GO (R657). -/
def execQueryGo (k : Fin 64) (q : Fin 256) (s : State) : Host.Outcome State Fault Refusal := 
  done (if s.takesIo (Adr.ADT_Q_CTL k q) then s.queryGo k q else s)

/-- The context whose trigger is served next: by trigger time, function and context (R658); the table lists functions and
contexts in rising order. -/
def firstTrigger (l : Table QueryCtx) : Option (Nat × Nat) :=
  match l with
  | [] => none
  | (key, x) :: rest =>
    match x.trig, firstTrigger rest with
    | none, r => r
    | some t, none => some (key, t)
    | some t, some (k2, t2) => if t2 < t then some (k2, t2) else some (key, t)

/-- Do queries run now (R664)? -/
def State.queriesRun (s : State) : Bool :=
  s.pwr.pllLocked && s.domainOn 1 && s.domainOn 2 && s.mode != .off && s.mode != .configure && s.mode != .selfTest

/-- Is the ring of a context full (R661)? -/
def State.ringFull (s : State) (k q : Nat) : Bool :=
  (s.fld (F.ADT_Q_PTR.TAIL k q) + 0x10000 - s.fld (F.ADT_Q_PTR.HEAD k q)) % 0x10000 = s.fld (F.ADT_Q_RING.ENTRIES k q)

/-- A trigger is dropped: OVERRUN is set in CTL and in the next record. -/
def State.dropTrigger (s : State) (k q : Nat) : State :=
  (s.raise (F.ADT_Q_CTL.OVERRUN k q)).modQuery (queryKey k q) (fun x => { x with trig := none, lost := true })

/-- The bytes of a result record (R659): before the doubleword at 0x10, that doubleword, and after it. -/
def State.queryRecord (s : State) (k q : Nat) : List Byte × List Byte × List Byte :=
  let tail := s.fld (F.ADT_Q_PTR.TAIL k q)
  let first := s.fld (F.ADT_Q_CFG.FIRST k q)
  let dw := (tail + 1) % 0x10000 * 2 ^ 48 + s.aditGen k * 2 ^ 40 + q * 2 ^ 30 + b2n (s.query k q).lost * 2
  (bytesLE 8 (s.fld F.LOD_OPEN_B.BOUNDARY) ++ bytesLE 8 (s.openEpoch - 1), bytesLE 8 dw,
    bytesLE 8 0 ++ (List.range (s.fld (F.ADT_Q_CFG.COUNT k q) + 1)).flatMap (fun i => s.snapshotBytes (first + i)))

/-- Produce the record of a trigger (R658 to R660). -/
def State.queryProduce (s : State) (k q : Nat) : State :=
  let tail := s.fld (F.ADT_Q_PTR.TAIL k q)
  let n := s.fld (F.ADT_Q_RING.ENTRIES k q)
  let at_ := s.ringBase k q + tail % (if n = 0 then 1 else n) * s.queryStride k q
  let r := s.queryRecord k q
  let s1 := ((s.dmaWriteBy (0x700 + k) at_ r.1).dmaWriteBy (0x700 + k) (at_ + 0x18) r.2.2).dmaWriteBy (0x700 + k) (at_ + 0x10) r.2.1
  let s2 := (s1.setFld (F.ADT_Q_PTR.TAIL k q) (tail + 1)).modQuery (queryKey k q) (fun x => { x with trig := none, lost := false })
  let vec := s.fld (F.ADT_Q_CFG.VEC k q)
  if vec = 0 then s2 else s2.sendMsix k vec

/-- QUERY_RUN: the trigger that comes first is served; `outrun` says that the open epoch advanced during four attempts
(R658). -/
def execQueryRun (outrun : Bool) (s : State) : Host.Outcome State Fault Refusal :=
  done (if !s.queriesRun then s
    else match firstTrigger s.adt.queries with
      | none => s
      | some (key, _) =>
        let k := key / 256
        let q := key % 256
        if outrun then (s.dropTrigger k q).count (F.ADT_COUNTS.Q_DROPPED k) 1
        else if s.ringFull k q then (s.dropTrigger k q).count (F.ADT_Q_CTL.DROPPED k q) 1
        else s.queryProduce k q)

/-- A write of HEAD by the adit (R661). -/
def State.queryHead (s : State) (k q head : Nat) : State :=
  if !(s.queryThere k q) then s
  else if s.fld (F.ADT_Q_RING.ENTRIES k q) < (s.fld (F.ADT_Q_PTR.TAIL k q) + 0x10000 - head % 0x10000) % 0x10000 then s.queryRej k q
  else s.setFld (F.ADT_Q_PTR.HEAD k q) head

/-- QUERY_HEAD_WRITE (R661). -/
def execQueryHeadWrite (k : Fin 64) (q : Fin 256) (head : BitVec 16) (s : State) : Host.Outcome State Fault Refusal :=
  done (if s.takesIo (Adr.ADT_Q_PTR k q) then s.queryHead k q head.toNat else s)

/-- A write of ADT_Qq_CTL: GO, and the two flags that a 1 clears. -/
def State.queryCtlWrite (s : State) (k q v : Nat) : State :=
  if !(s.queryThere k q) then s
  else
    let s1 := if bitOf v 2 then s.setFld (F.ADT_Q_CTL.REJ k q) 0 else s
    let s2 := if bitOf v 1 then s1.setFld (F.ADT_Q_CTL.OVERRUN k q) 0 else s1
    if bitOf v 0 then s2.queryGo k q else s2

end Sys2Proof.Machine
end

