-- ==== Sys2Proof/Machine/Session.lean ====
section
/-!
DEFINITION. Run control and the debug session (R763 to R781, R788): halts, steps and releases of hewers, authentication, the
session and its end, the root-key hash, the virtual terminal, and the DBG registers whose writes act.
-/
namespace Sys2Proof.Machine

/-! ### Halting and release (R772 to R779) -/

/-- May a halt that is due take effect now (R442, R772): the earlier events of R442 come first, and an instruction in hand
that waits for its data is a long operation? -/
def State.haltDue (s : State) (h : Nat) : Bool :=
  let x := s.hew h
  s.atBoundary h && x.hostBuf.isEmpty && !x.mcheck && (match x.canDue with | some c => c = s.time.cyc | none => true)
  && !(x.body.isSome && x.bodyBit && x.budget = 0)

/-- Loads that need no answer of the host return (R341). -/
def Hewer.landLocal (x : Hewer) : Hewer :=
  { (x.missed.filter (fun m => m.tag.isNone)).foldl Hewer.landLoad x with missed := x.missed.filter (fun m => m.tag.isSome) }

/-- Hewer `h` enters Debug state (R464, R773, R774): its stores have been performed, and a `rep` between iterations repeats what is left
when the hewer runs again (R296). -/
def State.haltNow (s : State) (h cause : Nat) : State :=
  let frozen := (s.hew h).body.isSome
  let cyc := s.cycleOf h
  let s1 := ((s.sbFlush h).modHew h (fun x => x.landLocal.backToRep)).loseBody h
  let s2 := s1.modHew h (fun x => { x with
    micro := none
    haltReq := none
    halted := true
    resv := none
    bodyFrozen := frozen
    cycHold := some cyc
    canDue := none })
  (((s2.flushPred h).setFld (F.DBG_HWR_RSTAT.CAUSE h) cause).leavePool h).settle

/-- HALT_TAKES_EFFECT on hewer `h` (R772 to R774). -/
def execHaltTakesEffect (h : HewerId) (s : State) : Host.Outcome State Fault Refusal :=
  done (match (s.hew h).haltReq with
    | some cause => if s.haltDue h then s.haltNow h cause else s
    | none => s)

/-- Hewer `h` leaves Debug state (R464, R737, R777, R778). -/
def State.releaseHewer (s : State) (h : Nat) : State :=
  let x := s.hew h
  if !x.halted then s
  else
    let now := s.pwr.cclk.get 0 (h / 64) / 120
    let s1 := s.modHew h (fun y => { y with
      halted := false
      stepping := false
      haltReq := none
      bodyFrozen := false
      exempt := true
      cycOff := now - y.cycHold.getD now
      cycHold := none })
    let s2 := (s1.flushPred h).canThaw h
    let s3 := if x.bodyFrozen && x.saved then s2.restoreThread h else s2
    (if x.forced then s3.forcedEntry h else s3).settle

/-- Release every halted hewer from `h` on, `n` of them (R781). -/
def State.releaseAll (s : State) (n h : Nat) : State :=
  match n with
  | 0 => s
  | k + 1 => (s.releaseHewer h).releaseAll k (h + 1)

/-- A write of STEP to a halted hewer (R774, R776, R777). -/
def State.stepHewer (s : State) (h : Nat) : State :=
  let x := s.hew h
  if x.halted && !x.bodyFrozen then s.modHew h (fun y => { y with stepping := true, exempt := true }) else s

/-- A check-stopped hewer is placed in Debug state (R779). -/
def State.clearCheckStop (s : State) (h : Nat) : State :=
  if (s.hew h).checkStopped then
    ((s.modHew h (fun x => { x with checkStopped := false, halted := true, resv := none, cycHold := some (s.cycleOf h) })).flushPred h).setFld
      (F.DBG_HWR_RSTAT.CAUSE h) 5
  else s

/-- Do halt, step and CLR_CHECKSTOP act now: outside RUN and DEGRADED always, else with the authority of R765 (R465)? -/
def State.haltAllowed (s : State) : Bool := !(s.mode = .run || s.mode = .degraded) || s.haltAuthority

/-- A write of DBG_HWRh_RC: its bits act from the lowest on (R772, R776, R778, R779). -/
def State.rcWrite (s : State) (h v : Nat) : State :=
  let may := s.haltAllowed
  let s1 := if bitOf v 0 && may then s.askHalt h 1 else s
  let s2 := if bitOf v 1 then s1.releaseHewer h else s1
  let s3 := if bitOf v 2 && may then s2.stepHewer h else s2
  if bitOf v 3 && may then s3.clearCheckStop h else s3

/-- A write of DBG_XTRIG (R780, R781). -/
def State.xtrigWrite (s : State) (v : Nat) : State :=
  let g := bitsOf v 5 0
  let all := bitOf v 61
  let s1 := (s.setFld F.DBG_XTRIG.ALL (b2n all)).setFld F.DBG_XTRIG.GALLERY g
  let first := if all then 0 else g * 8
  let n := if all then 512 else 8
  let s2 := if bitOf v 63 && s.haltAllowed then s1.askHalts n first 3 else s1
  if bitOf v 62 then s2.releaseAll n first else s2

/-! ### The session (R763 to R770) -/

/-- The number of a path in DBG_SESSION.PATH. -/
def pathCode (p : DbgPath) : Nat := match p with | .jtag => 1 | .pf => 2

/-- The session closes (R770, R778, R785). -/
def State.closeSession (s : State) : State :=
  if s.fld F.DBG_SESSION.PATH = 0 then s
  else
    let s1 := s.mapHewers (fun _ x => { x with haltReq := none })
    let s2 := (s1.setFld F.DBG_SESSION.PATH 0).setFld F.DBG_SESSION.LEVEL 0
    ((s2.setFld F.DBG_SESSION.RUN_OK 0).setFld F.DBG_SESSION.KEY 0).releaseAll 512 0

/-- The session closes when the path that holds it is lost (R770). -/
def State.closePath (s : State) (p : DbgPath) : State := if s.fld F.DBG_SESSION.PATH = pathCode p then s.closeSession else s

/-- CFG_ID as it reads. -/
def State.cfgId (s : State) : Nat := 0x5120A10000000000 + (if s.big then 2 else 1) * 0x100000000 + s.devnum

/-- Fill challenge doublewords `i` on, `n` of them, with random bytes: free values (R767, log 3). -/
def State.fillChallenge (s : State) (n i : Nat) : State :=
  match n with
  | 0 => s
  | k + 1 =>
    let d := s.draw
    (d.2.setReg (Adr.DBG_AUTH_CHAL i) (BitVec.ofNat 64 d.1)).fillChallenge k (i + 1)

/-- A write of DBG_AUTH_CTL on a path (R767, R768). -/
def State.authWrite (s : State) (p : DbgPath) (v : Nat) : State :=
  if s.flag F.DBG_AUTH_CTL.BUSY then s
  else
    let op := bitsOf v 3 1
    let s1 := ((s.setFld F.DBG_AUTH_CTL.LEVEL (bitsOf v 7 6)).setFld F.DBG_AUTH_CTL.KEY (bitsOf v 5 4)).setFld F.DBG_AUTH_CTL.OP op
    if !(bitOf v 0) then s1
    else if op = 1 then
      (if s.flag F.DBG_SESSION.LOCKOUT then s1.setFld F.DBG_AUTH_CTL.RESULT 5
      else
        let s2 := s1.fillChallenge 6 0
        { s2 with dbg := { s2.dbg with chal := true } })
    else if op = 2 then
      let s2 := s1.raise F.DBG_AUTH_CTL.BUSY
      { s2 with dbg := { s2.dbg with verifyPath := pathCode p } }
    else s1

/-- What the debugger signs (R767). -/
def State.authMessage (s : State) : List Byte :=
  (List.range 6).flatMap (fun i => bytesLE 8 (s.reg (Adr.DBG_AUTH_CHAL i)).toNat) ++ bytesLE 8 s.cfgId
  ++ [BitVec.ofNat 8 (s.fld F.DBG_AUTH_CTL.LEVEL), BitVec.ofNat 8 (s.fld F.DBG_AUTH_CTL.KEY)]

/-- The response, r then s (R767). -/
def State.authResponse (s : State) : List Byte := (List.range 12).flatMap (fun i => bytesBE 8 (s.reg (Adr.DBG_AUTH_RESP i)).toNat)

/-- Is NOT_AFTER of a key met (R767)? -/
def State.keyInTime (s : State) (k : DbgKey) : Bool :=
  k.notAfter = 0 || (decide (s.time.now < k.notAfter.toNat) && (s.fld F.TIM_STATUS.STATE = 2 || s.fld F.TIM_STATUS.STATE = 4))

/-- The key entry that the VERIFY names. -/
def State.authKey (s : State) : Option DbgKey := (s.dbg.keys.find? (fun e => e.1 = s.fld F.DBG_AUTH_CTL.KEY)).map Prod.snd

/-- RESULT of a VERIFY (R767, R769); the conditions are judged in the order key, filter, signature, level, time (log 29). -/
def State.authResult (s : State) : Nat :=
  if !s.dbg.chal then 6
  else if s.flag F.CFG_BOOT_STATUS.UNBOUND then 0
  else match s.authKey with
    | none => 2
    | some k =>
      let level := s.fld F.DBG_AUTH_CTL.LEVEL
      if !(match k.device with | some d => d.toNat = s.devnum | none => true) then 2
      else if !(Config.ecdsaVerify k.pub s.authMessage s.authResponse) then 1
      else if 2 < level || k.maxLevel.val < level then 3
      else if !(s.keyInTime k) then 4
      else 0

/-- A session opens (R767, R769). -/
def State.openSession (s : State) : State :=
  let free := s.flag F.CFG_BOOT_STATUS.UNBOUND
  let runOk := free || (match s.authKey with | some k => k.runOk | none => false)
  let s1 := (s.setFld F.DBG_SESSION.PATH s.dbg.verifyPath).setFld F.DBG_SESSION.LEVEL
    (if free then 2 else s.fld F.DBG_AUTH_CTL.LEVEL)
  ((s1.setFld F.DBG_SESSION.RUN_OK (b2n runOk)).setFld F.DBG_SESSION.KEY (s.fld F.DBG_AUTH_CTL.KEY)).setFld F.DBG_SESSION.FAILS 0

/-- A VERIFY fails: the third in a row sets LOCKOUT (R768). -/
def State.authFail (s : State) : State :=
  let s1 := s.count F.DBG_SESSION.FAILS 1
  if s1.fld F.DBG_SESSION.FAILS < 3 then s1
  else { s1.raise F.DBG_SESSION.LOCKOUT with dbg := { s1.dbg with lockUs := s.time.us } }

/-- The challenge has been answered: none is outstanding. -/
def State.chalEnd (s : State) : State := { s with dbg := { s.dbg with chal := false } }

/-- VERIFY_COMPLETE: it consumes the challenge, and opens a session or fails (R767 to R769). -/
def execVerifyComplete (s : State) : Host.Outcome State Fault Refusal :=
  done (if s.flag F.DBG_AUTH_CTL.BUSY then
      let r := s.authResult
      let s1 := (s.setFld F.DBG_AUTH_CTL.BUSY 0).setFld F.DBG_AUTH_CTL.RESULT r
      let s2 := if r = 0 then s1.openSession else s1.authFail
      s2.chalEnd
    else s)

/-- LOCKOUT_EXPIRY: 60 s after LOCKOUT was set, challenges are accepted again (R768). -/
def execLockoutExpiry (s : State) : Host.Outcome State Fault Refusal :=
  done (if s.flag F.DBG_SESSION.LOCKOUT && decide (s.dbg.lockUs + 60000000 ≤ s.time.us) then
      (s.setFld F.DBG_SESSION.LOCKOUT 0).setFld F.DBG_SESSION.FAILS 0
    else s)

/-- STATUS and RESULT of a Scesar command of a path (R758, R762). -/
def State.scsResult (s : State) (p : DbgPath) (status result : Nat) : State :=
  match p with
  | .jtag => { s with dbg := { s.dbg with jtag := { s.dbg.jtag with status := status, result := result % 2 ^ 64 } } }
  | .pf =>
    ((s.setFld F.HEP_SCS_CMD.STATUS status).setFld F.HEP_SCS_CMD.BUSY 0).setReg Adr.HEP_SCS_RES (BitVec.ofNat 64 result)

/-- Host data for a READ that waits (R790, R792). -/
def State.scsDeliver (s : State) (tag : Nat) (data : List Byte) (poison : Bool) : State :=
  match s.hep.dbgHost, s.dbg.readPath with
  | some h, some p =>
    if h.tag = some tag then
      { s with hep := { s.hep with dbgHost := none }, dbg := { s.dbg with readPath := none } }.scsResult p (if poison then 4 else 0)
        (natLE data)
    else s
  | _, _ => s

/-! ### The root-key hash (R730, R771) -/

/-- Is the root key not programmed (R730)? -/
def State.rootKeyEmpty (s : State) : Bool := (List.range 6).all (fun i => s.reg (Adr.CFG_ROOTKEY_HASH i) = 0)

/-- A write of DBG_RKP_CTL through a debug path (R771). -/
def State.rkpWrite (s : State) (v : Nat) : State :=
  if v % 0x10000 = 0x5CE5 && s.mode = .configure && s.rootKeyEmpty && !(s.flag F.DBG_RKP_CTL.BUSY) then
    (if bitOf v 29 then s.setFld F.DBG_RKP_CTL.ERR 0 else s).raise F.DBG_RKP_CTL.BUSY
  else if v % 0x10000 = 0 && bitOf v 29 then s.setFld F.DBG_RKP_CTL.ERR 0
  else s.raise F.DBG_RKP_CTL.ERR

/-- ROOT_KEY_PROGRAMMED: the hash is in one-time storage (R771). -/
def execRootKeyProgrammed (s : State) : Host.Outcome State Fault Refusal :=
  done (if s.flag F.DBG_RKP_CTL.BUSY then
      let s1 := (List.range 6).foldl (fun t i => t.setReg (Adr.CFG_ROOTKEY_HASH i) (s.reg (Adr.DBG_RKP_DATA i))) s
      (s1.setFld F.DBG_RKP_CTL.BUSY 0).raise F.DBG_RKP_CTL.DONE
    else s)

/-! ### Registers whose writes act (R784, R787, R788) -/

/-- A write of DBG_SWBP: a word with an assigned major changes nothing (R787). -/
def State.swbpWrite (s : State) (v : Nat) : State :=
  if majorAssigned (bitsOf v 31 25) then s else s.setFld F.DBG_SWBP.WORD (v % 0x100000000)

/-- A write of a comparator's CTL ends the arming of its link and of the next one's (R784). -/
def State.cmpDisarm (s : State) (h c : Nat) : State :=
  s.modHew h (fun x => { x with armed := setBits (setBits x.armed c c 0) (c + 1) (c + 1) 0 })

/-- A hewer's write of VTX (R788). -/
def State.vtxWrite (s : State) (h v : Nat) : State :=
  if s.flag (F.DBG_HWR_VT_STAT.TX_FULL h) then s
  else (s.setFld (F.DBG_HWR_VTX.DATA h) (v % 0x100000000)).raise (F.DBG_HWR_VT_STAT.TX_FULL h)

/-- A hewer's read of VRX clears RX_FULL (R788). -/
def State.vrxTaken (s : State) (h : Nat) : State := s.setFld (F.DBG_HWR_VT_STAT.RX_FULL h) 0

end Sys2Proof.Machine
end

