-- ==== Sys2Proof/Machine/Hep.lean ====
section
/-!
DEFINITION. The PCI Express endpoint (R607 to R643): completions and timeouts of the device's requests, host access to BAR2
and the record port, the freeze, function-level resets, link and power states.
-/
namespace Sys2Proof.Machine

/-! ### Requests of the device (R622 to R624, R641) -/

/-- An AER entry of function `f`. -/
def State.aerLog (s : State) (f kind : Nat) : State := { s with hep := { s.hep with aer := (f * 256 + kind) :: s.hep.aer } }

/-- Host data for hewer `h` (R344, R623). -/
def State.hewDeliver (s : State) (h tag : Nat) (data : List Byte) (poison : Bool) : State :=
  s.modHew h (fun x => { x with
    hostBuf := x.hostBuf.map (fun p => if p.tag = some tag then { p with tag := none, data := some (data, poison) } else p)
    missed := x.missed.map (fun m =>
      if m.tag = some tag then { m with tag := none, data := loadValue (kindOfCode m.data) (natLE data), poison := poison } else m) })

/-- Host data for the requester of a request (R623). -/
def State.deliver (s : State) (r : OutReq) (data : List Byte) (poison : Bool) : State :=
  if r.who < 512 then s.hewDeliver r.who r.tag data poison
  else if r.who = 0xFFF then s.scsDeliver r.tag data poison
  else s.skDeliver (r.who - 0x400) r.tag data poison

/-- A request ends without data: `code` is the cause for a skip channel (R568, R623). -/
def State.deliverError (s : State) (r : OutReq) (code : Nat) : State :=
  if r.who < 512 || r.who = 0xFFF then
    let f := s.freeBytes r.len
    f.2.deliver r f.1 true
  else s.skFailRead (r.who - 0x400) r.tag code

/-- The request is no longer outstanding; a generation advance that waited for it takes place (R668). -/
def State.dropReq (s : State) (r : OutReq) : State :=
  ({ s with hep := { s.hep with reqs := s.hep.reqs.filter (fun q => q.tag != r.tag) } }).advanceWaiting r.fn 256

/-- An Unexpected Completion (R641). -/
def State.unexpected (s : State) (tag f : Nat) : State :=
  ((s.count F.HEP_COUNTS.UNEXP_CPL 1).aerLog f 0).log 0x700 0x65 0 0 0 (tag * 2 ^ 54 + f * 2 ^ 48)

/-- Was the request issued under an older generation of its adit, or before a reset of its function (R631)? -/
def State.staleReq (s : State) (r : OutReq) : Bool := (r.fn != 0 && r.gen != s.aditGen r.fn) || (s.fn r.fn).resetting

/-- Does a skip channel still wait for a request? -/
def State.skipWaits (s : State) (r : OutReq) : Bool :=
  (s.chan (r.who - 0x400)).units.any (fun u => u.parts.any (fun p => p.tag = some r.tag))

/-- A completion (R623, R625, R641); one of another length than its request is unexpected. -/
def State.completion (s : State) (tag : Nat) (st : CplStatus) (data : List Byte) (ep : Bool) : State :=
  match s.hep.reqs.find? (fun r => r.tag = tag) with
  | none => s.unexpected tag 0
  | some r =>
    let s1 := s.dropReq r
    if st = .success && data.length != r.len then s.unexpected tag r.fn
    else if s.staleReq r then s1.unexpected tag r.fn
    else match st with
      | .success =>
        let s2 := if ep then (s1.poisonRx r.fn 0 0x4A).aerLog r.fn 2 else s1
        s2.deliver r data ep
      | _ => if 512 ≤ r.who && r.who != 0xFFF && !(s.skipWaits r) then s1 else s1.deliverError r 4

/-- HOST_COMPLETION (R623); the request that is free again serves the skip channels that waited for one (R565). -/
def execHostCompletion (tag : Fin 1024) (status : CplStatus) (data : List Byte) (ep : Bool) (s : State) :
    Host.Outcome State Fault Refusal :=
  done (if s.flag F.HEP_STATUS.LINK_UP then (s.completion tag status data ep).skReads 1024 else s)

/-! ### The freeze (R636 to R640) -/

/-- Write the error log of function `f` (R639). -/
def State.errLog (s : State) (f cause time header : Nat) : State :=
  if s.flag (F.HEP_ERR_LOG_DW0.VALID f) then
    (if s.frozen f then s.count (F.HEP_ERR_LOG_DW0.COUNT f) 1 else s)
  else
    (((s.setReg (Adr.HEP_ERR_LOG_DW0 f) (BitVec.ofNat 64 (0x8000000000000000 + cause))).setReg (Adr.HEP_ERR_LOG_DW1 f)
      (BitVec.ofNat 64 time)).setReg (Adr.HEP_ERR_LOG_DW2 f) (BitVec.ofNat 64 header)).setReg (Adr.HEP_ERR_LOG_DW3 f)
      (BitVec.ofNat 64 (header / 2 ^ 64))

/-- Freeze the functions of a list with a cause and the first 16 bytes of the TLP header, low byte first (R636, R639). -/
def State.freeze (s : State) (l : List Nat) (cause header : Nat) : State :=
  let mask := l.foldl (fun m f => m + 2 ^ f) 0
  let s1 := l.foldl (fun s f => s.errLog f cause s.time.now header) s
  let s2 := s1.setFld F.HEP_FREEZE.FROZEN (s1.fld F.HEP_FREEZE.FROZEN ||| mask)
  let s3 := s2.log (0x700 + (match l with | [f] => f | _ => 0)) 0x60 0 0 mask (cause * 2 ^ 56)
  l.foldl (fun s f => s.skFunction f 5) s3

/-- The functions that a freeze with a cause at function `f` takes (R636). -/
def freezeSet (cause f : Nat) : List Nat := if cause = 3 && f != 0 then [f] else List.range 64

/-- FREEZE with a cause of R636 at function `f`; the loss of the link has its own command. -/
def execFreeze (cause : Fin 4) (f : Fin 64) (header : BitVec 128) (s : State) : Host.Outcome State Fault Refusal :=
  done (if s.domainOn 5 then s.freeze (freezeSet (cause + 1) f) (cause + 1) header.toNat else s)

/-- May function `f` be released (R640)? -/
def State.mayRelease (s : State) (f : Nat) : Bool :=
  !(s.flag (F.HEP_ERR_LOG_DW0.VALID f)) && s.flag F.HEP_STATUS.LINK_UP && (f = 0 || !(s.frozen 0))

/-- A write of HEP_FREEZE_RELEASE (R640): every bit is judged by the state before the write. -/
def State.releaseWrite (s : State) (v : Nat) : State :=
  let l := (List.range 64).filter (fun f => v.testBit f)
  let ok := l.filter s.mayRelease
  let s1 := s.setFld F.HEP_FREEZE.FROZEN (ok.foldl (fun m f => setBits m f f 0) (s.fld F.HEP_FREEZE.FROZEN))
  if ok.length = l.length then s1 else s1.raise F.HEP_STATUS.REL_REJ

/-- HEP_FREEZE_RELEASE (R640). -/
def execHepFreezeRelease (mask : Word) (s : State) : Host.Outcome State Fault Refusal := 
  done (if s.takesIo Adr.HEP_FREEZE_RELEASE then s.releaseWrite mask.toNat else s)

/-- COMPLETION_TIMEOUT of the request with a tag (R624, R641). -/
def execCompletionTimeout (tag : Fin 1024) (s : State) : Host.Outcome State Fault Refusal :=
  done (match s.hep.reqs.find? (fun r => r.tag = tag.val) with
    | none => s
    | some r =>
      let s1 := s.dropReq r
      let s2 := if s.staleReq r || (512 ≤ r.who && r.who != 0xFFF && !(s.skipWaits r)) then s1 else s1.deliverError r 3
      (if r.crit then s2.freeze (List.range 64) 4 0 else s2.aerLog r.fn 1).skReads 1024)

/-! ### MSI-X (R617, R628) -/

/-- Send the pending messages of function `f` that nothing holds back any longer, vectors from `v` on. -/
def State.flushMsix (s : State) (f n v : Nat) : State :=
  match n with
  | 0 => s
  | k + 1 =>
    let x := s.fn f
    let free := s.pba f v && !(s.frozen f) && !x.resetting && s.domainOn 5 && x.power = 0 && x.busMaster && x.msixEn
      && !x.msixMask && !(s.vecMasked f v)
    (if free then (s.setPba f v false).emit (.msix f v) else s).flushMsix f k (v + 1)

/-- Vectors of function `f` (R617). -/
def vectorsOf (f : Nat) : Nat := if f = 0 then 256 else 16

/-! ### Resets (R630 to R635) -/

/-- The configuration space of a function at its reset values; the power state and Max_Payload_Size stay (log 55). -/
def PcieFn.cold (x : PcieFn) : PcieFn :=
  { x with busMaster := false, vfEnable := false, pmeEn := false, msixEn := false, msixMask := false, mrrs := PcieFn.reset.mrrs }

/-- The functions that exist. -/
def State.fnList (s : State) : List Nat := (List.range 64).filter s.fnExists

/-- Function `f` begins its reset. -/
def State.beginReset (s : State) (f : Nat) : State :=
  let s1 := s.setFn f { (s.fn f).cold with resetting := true }
  let s2 := if f = 0 then s1 else s1.aditReset f
  s2.skFunction f 6

/-- The reset of function 0, with every adit (R632, R667): VF Enable is cleared. An adit that is no function now advances its generation
too. -/
def State.resetAll (s : State) : State :=
  let l := (List.range 64).filter (fun f => f != 0 && (s.fnExists f || s.created f))
  ((l.foldl (fun t f => if s.fnExists f then t.beginReset f else t.aditReset f) s).beginReset 0).closePath .pf

/-- FUNCTION_LEVEL_RESET (R630 to R632). -/
def State.flr (s : State) (f : Nat) : State :=
  if !(s.fnExists f) || (s.fn f).resetting || !(s.domainOn 5) then s
  else
    let busy := if f = 0 then (List.range 64).any (fun k => k != 0 && s.aditBusy k) else s.aditBusy f
    let s1 := s.emit .cplOk
    if busy then s1.log (0x700 + f) 0x62 0 0 0 (f * 2 ^ 58)
    else
      let s2 := s1.log (0x700 + f) 0x61 0 0 0 (f * 2 ^ 58)
      if f = 0 then s2.resetAll else s2.beginReset f

/-- FUNCTION_LEVEL_RESET (R630). -/
def execFunctionLevelReset (f : Fin 64) (s : State) : Host.Outcome State Fault Refusal := done (s.flr f)

/-- FLR_COMPLETE (R630). -/
def execFlrComplete (f : Fin 64) (s : State) : Host.Outcome State Fault Refusal :=
  done (if s.hep.perst then s else s.setFn f { s.fn f with resetting := false })

/-- Every request of the device is given up: its requester gets an error (R622, R634). -/
def State.abortReqs (s : State) (l : List OutReq) : State :=
  match l with
  | [] => s
  | r :: rest =>
    let s1 := s.dropReq r
    (if 512 ≤ r.who && r.who != 0xFFF then s1 else s1.deliverError r 6).abortReqs rest

/-- The registers of D5 at their reset values (R629, R837). -/
def State.clearD5 (s : State) : State :=
  { s with
    regs := s.regs.filter (fun e => regDomain e.1 != 5)
    hep := { s.hep with vfMsix := [], vfPba := [] } }

/-- The link is no longer trained. -/
def State.linkGone (s : State) : State :=
  ((s.setFld F.HEP_STATUS.LINK_UP 0).setFld F.HEP_STATUS.RATE 0).setFld F.HEP_STATUS.WIDTH 0

/-- The reset of D5 and of every function, never refused (R634). -/
def State.hotReset (s : State) : State :=
  let l := s.hep.reqs
  ((s.clearD5.resetAll).abortReqs l).linkGone

/-- The configuration space of every function at its reset values, in D0 (R629). -/
def State.coldFns (s : State) : State :=
  let s1 := (List.range 64).foldl (fun t f => t.setFn f { PcieFn.reset with resetting := s.hep.perst }) s
  { s1 with hep := { s1.hep with numVfs := 0 } }

/-- D5 goes off: its requests are given up and the link is gone (R622, R629, R751). -/
def State.d5Off (s : State) : State :=
  (((s.abortReqs s.hep.reqs).linkGone).closePath .pf).setFld F.PWR_DOM_STATE.ON (setBits (s.fld F.PWR_DOM_STATE.ON) 5 5 0)

/-- D5 comes on (R629, R751). -/
def State.d5On (s : State) : State :=
  let s1 := s.clearD5.coldFns
  s1.setFld F.PWR_DOM_STATE.ON (setBits (s1.fld F.PWR_DOM_STATE.ON) 5 5 1)

/-- PERST_N_ASSERT (R634). -/
def execPerstNAssert (s : State) : Host.Outcome State Fault Refusal :=
  done (if s.hep.perst then s
    else
      let s1 := if s.domainOn 5 then s.hotReset else s
      { s1 with hep := { s1.hep with perst := true } })

/-- PERST_N_DEASSERT (R643): every function completes its reset. -/
def execPerstNDeassert (s : State) : Host.Outcome State Fault Refusal :=
  done (if s.hep.perst then
      let s1 := { s with hep := { s.hep with perst := false } }
      (List.range 64).foldl (fun s f => s.setFn f { s.fn f with resetting := false }) s1
    else s)

/-- HEP_LINK_DOWN (R635). -/
def execHepLinkDown (s : State) : Host.Outcome State Fault Refusal :=
  done (if s.flag F.HEP_STATUS.LINK_UP then
      let s1 := s.freeze (List.range 64) 5 0
      let s2 := s1.log 0x700 0x63 0 0 0 (s.fld F.HEP_STATUS.RATE * 2 ^ 61 + s.fld F.HEP_STATUS.WIDTH * 2 ^ 57)
      s2.hotReset
    else s)

/-- HEP_LINK_UP at a rate code and a width (R628, R643). -/
def execHepLinkUp (rate : Fin 6) (width : Fin 9) (s : State) : Host.Outcome State Fault Refusal :=
  done (if s.domainOn 5 && !s.hep.perst && s.mode != .off && rate.val != 0 && (width.val = 1 || width.val = 2 || width.val = 4 || width.val = 8) then
      let s1 := ((s.raise F.HEP_STATUS.LINK_UP).setFld F.HEP_STATUS.RATE rate).setFld F.HEP_STATUS.WIDTH width
      { s1 with hep := { s1.hep with wake := false } }
    else s)

/-! ### Configuration and power states (R627, R628, R632) -/

/-- Function `f` takes a device state. -/
def State.setPower (s : State) (f code : Nat) : State := s.setFn f { s.fn f with power := code }

/-- The endpoint enters D3cold: every function does, and D5 is off (R627, R751). -/
def State.enterCold (s : State) : State :=
  s.fnList.foldl (fun t f => t.setPower f 4) (if s.domainOn 5 then s.d5Off else s)

/-- The endpoint is woken from D3cold: D5 comes on again where its bit in PWR_DOM_REQ is 1 (R751). -/
def State.wakeUp (s : State) : State :=
  if (s.fld F.PWR_DOM_REQ.REQ).testBit 4 && s.domainOn 1 then s.d5On else s

/-- A change of function `f`'s power state: 0 D0, 1 D3hot, 2 D3cold (R627, R628). -/
def State.powerChange (s : State) (f target : Nat) : State :=
  if !(s.fnExists f) || (s.fn f).resetting then s
  else if target = 2 then s.enterCold
  else if (s.fn f).power = 4 && !(s.domainOn 5) then (if target = 0 then s.wakeUp else s)
  else if !(s.domainOn 5) then s
  else
    let s1 := s.setPower f (if target = 1 then 3 else 0)
    if target = 0 then s1.flushMsix f (vectorsOf f) 0 else s1

/-- POWER_STATE_CHANGE: 0 D0, 1 D3hot, 2 D3cold, which all functions of the endpoint enter together (R627, R628, R751). -/
def execPowerStateChange (f : Fin 64) (target : Fin 3) (s : State) : Host.Outcome State Fault Refusal :=
  done (s.powerChange f target)

/-- A configuration write of function `f` takes effect (R607, R632, R637). -/
def State.cfgWrite (s : State) (f : Nat) (w : CfgWrite) : State :=
  let x := s.fn f
  if !(s.fnExists f) || x.resetting || !(s.domainOn 5) || s.hep.perst then s
  else
    let s1 := s.emit .cplOk
    match w with
    | .busMaster on => (s1.setFn f { x with busMaster := on }).flushMsix f (vectorsOf f) 0
    | .pmeEn on => s1.setFn f { x with pmeEn := on }
    | .msixEn on => (s1.setFn f { x with msixEn := on }).flushMsix f (vectorsOf f) 0
    | .msixMask on => (s1.setFn f { x with msixMask := on }).flushMsix f (vectorsOf f) 0
    | .payload c => if f != 0 then s1 else s1.setFn 0 { x with mps := c }
    | .readSize c => if f != 0 then s1 else s1.setFn 0 { x with mrrs := c }
    | .vfEnable on n =>
      if f != 0 then s1
      else
        let s2 := s1.setFn 0 { x with vfEnable := on }
        let s3 := { s2 with hep := { s2.hep with numVfs := if x.vfEnable then s2.hep.numVfs else n } }
        if on && x.vfEnable then s3 else (List.range 64).foldl (fun s k => if k = 0 then s else s.setFn k PcieFn.reset) s3

/-- CONFIGURATION_WRITE (R632). -/
def execConfigurationWrite (f : Fin 64) (w : CfgWrite) (s : State) : Host.Outcome State Fault Refusal := done (s.cfgWrite f w)

/-! ### BAR2 and the record port (R613 to R616, R663) -/

/-- The physical address of BAR2 offset `off` of function `f` for `n` bytes, where it decodes (R613, R663). -/
def State.bar2Addr (s : State) (f off n : Nat) : Option Nat :=
  if f = 0 then
    let base := s.fld F.HEP_BAR2.BASE * 0x100000
    if s.flag F.HEP_BAR2.EN && decide (base + 0xFF00000 ≤ s.dramSize) && decide (off + n ≤ 0xFF00000) then some (base + off) else none
  else if s.created f && decide (off + n ≤ s.rmemSize f) then some (s.rmemBase f + off)
  else none

/-- The completions of a read of `n` bytes at `a`, one for each 64-byte block, with EP on those that hold poison (R626). -/
def State.emitRead (s : State) (a n k : Nat) : State :=
  match k with
  | 0 => s
  | j + 1 =>
    if n = 0 then s
    else
      let m := if n < 64 - a % 64 then n else 64 - a % 64
      (s.emit (.cplData (s.readBytes a m) (s.poisoned a m))).emitRead (a + m) (n - m) j

/-- A host read of BAR2 (R613, R614, R626, R637, R645, R663). -/
def State.bar2Read (s : State) (f off n : Nat) : State :=
  if !(s.fnExists f) || (s.fn f).power != 0 || (s.fn f).resetting then s.emit .cplUr
  else if s.frozen f then s.emit .cplCa
  else
    let s1 := if f != 0 && !(s.created f) then s.barErr else s
    match s.bar2Addr f off n with
    | none => s1.emit .cplUr
    | some a => if s.dramReach a n then (s.hubAccess a n (0x700 + f) false).emitRead a n 65 else s.emit .cplUr

/-- Can requests reach the endpoint: D5 on, link trained? -/
def State.hostReaches (s : State) : Bool := s.domainOn 5 && !s.hep.perst && s.flag F.HEP_STATUS.LINK_UP && s.pwr.pllLocked

/-- BAR2_READ of `len` bytes by function `f` (R614). -/
def execBar2Read (f : Fin 64) (off : BitVec 28) (len : Fin 4097) (s : State) : Host.Outcome State Fault Refusal :=
  done (if s.hostReaches then s.bar2Read f off.toNat len else s)

/-- A host write of BAR2 (R613 to R616, R625, R637, R645, R663). -/
def State.bar2Write (s : State) (f off : Nat) (data : List Byte) (ep : Bool) : State :=
  if !(s.fnExists f) || (s.fn f).power != 0 || (s.fn f).resetting then s
  else if s.frozen f then s.count F.HEP_COUNTS.FROZEN_WR 1
  else if f != 0 then
    (if s.created f then s.count (F.ADT_COUNTS.BAR_WR f) 1 else s.barErr)
  else if 0xFF00000 ≤ off && s.flag F.HEP_BAR2.EN && decide (s.fld F.HEP_BAR2.BASE * 0x100000 + 0xFF00000 ≤ s.dramSize) then
    s.recordPort 0 (off - 0xFF00000) data ep
  else match s.bar2Addr 0 off data.length with
    | none => s.barErr
    | some a =>
      if !(s.dramReach a data.length) then s.barErr
      else if ep then
        let t := s.writeType
        ((t.2.poisonRx 0 a t.1).aerLog 0 2).dmaWritePoison 0x700 a data
      else s.dmaWriteBy 0x700 a data

/-- BAR2_WRITE by function `f` (R614). -/
def execBar2Write (f : Fin 64) (off : BitVec 28) (data : List Byte) (ep : Bool) (s : State) : Host.Outcome State Fault Refusal :=
  done (if s.hostReaches then s.bar2Write f off.toNat data ep else s)

/-- RECORD_PORT_WRITE: a TLP on the physical function's record port, at an offset of the port (R615). -/
def execRecordPortWrite (off : BitVec 20) (data : List Byte) (ep : Bool) (s : State) : Host.Outcome State Fault Refusal :=
  done (if s.hostReaches then s.bar2Write 0 (0xFF00000 + off.toNat) data ep else s)

end Sys2Proof.Machine
end

