-- ==== Sys2Proof/Machine/LodeCmds.lean ====
section
/-!
DEFINITION. The lode's commands (R88 to R129): writes of every path, forces, epoch advances and closes, peer-window commits,
slot configuration, the end of initialisation, and the scrubber.
-/
namespace Sys2Proof.Machine

/-- LODE_WRITE_APPLY: the oldest write that has reached the lode is applied (R92, R95, R102, R124). -/
def execLodeWriteApply (s : State) : Host.Outcome State Fault Refusal :=
  done (match s.lode.inq with
    | [] => s
    | i :: rest =>
      if s.lodeAccepts then ({ s with lode := { s.lode with inq := rest } }.lodeApply i).markStall else s.markStall)

/-- A write of LOD_SWR_CTL by the agent with local source `loc` (R88). -/
def State.swrCtlWrite (s : State) (loc : Nat) (v : Nat) : State :=
  let s1 := (s.setFld F.LOD_SWR_CTL.QUALITY (bitsOf v 31 16)).setFld F.LOD_SWR_CTL.KIND (bitsOf v 7 4)
  if bitOf v 0 then
    s1.lodeSend (.write {
      path := .software, slot := s.fld F.LOD_SWR_INDEX.SLOT, value := s.reg Adr.LOD_SWR_VALUE, kind := bitsOf v 7 4,
      quality := bitsOf v 31 16, time := none, source := s.source loc, poison := false })
  else s1

/-- SOFTWARE_WRITE: a write of LOD_SWR_CTL (R88). -/
def execSoftwareWrite (loc : BitVec 12) (value : Word32) (s : State) : Host.Outcome State Fault Refusal :=
  done (if s.takesIo Adr.LOD_SWR_CTL then s.swrCtlWrite loc.toNat value.toNat else s)

/-- A write of LOD_FRC_CTL: SET, CLEAR, or nothing for both (R93, R94). -/
def State.frcCtlWrite (s : State) (loc : Nat) (v : Nat) : State :=
  let slot := s.fld F.LOD_FRC_INDEX.SLOT
  let t := s.fld F.LOD_FRC_TIME.TIME
  match bitOf v 1, bitOf v 0 with
  | false, true => s.lodeSend (.write {
      path := .force, slot := slot, value := s.reg Adr.LOD_FRC_VALUE, kind := 0, quality := qForced, time := some t,
      source := s.source loc, poison := false })
  | true, false => s.lodeSend (.clear slot t)
  | _, _ => s

/-- FORCE_SET (R93). -/
def execForceSet (loc : BitVec 12) (s : State) : Host.Outcome State Fault Refusal :=
  done (if s.takesIo Adr.LOD_FRC_CTL then s.frcCtlWrite loc.toNat 1 else s)

/-- FORCE_CLEAR (R93). -/
def execForceClear (loc : BitVec 12) (s : State) : Host.Outcome State Fault Refusal :=
  done (if s.takesIo Adr.LOD_FRC_CTL then s.frcCtlWrite loc.toNat 2 else s)

/-- A write of LOD_ADVANCE: GO requests an advance while SW_ADV_EN is 1 (R96). -/
def State.advanceWrite (s : State) (v : Nat) : State :=
  if bitOf v 0 && s.flag F.LOD_CTL.SW_ADV_EN then (s.requestAdvance s.time.now).1 else s

/-- LOD_ADVANCE: a write of GO (R96, R97). -/
def execLodAdvance (s : State) : Host.Outcome State Fault Refusal :=
  done (if s.takesIo Adr.LOD_ADVANCE then s.advanceWrite 1 else s)

/-- EPOCH_CLOSE: the pending advance closes the open epoch once the horizon has passed and the gathers have finished; the
held writes are applied and their notifications follow (R99, R146). -/
def execEpochClose (s : State) : Host.Outcome State Fault Refusal :=
  done (if s.closeDue && !s.gathersOpen && s.pwr.pllLocked && s.domainOn 2 then
      let r := s.closeEpoch
      r.1.notifyAll r.2
    else s)

/-- A write of LOD_WIN_COMMIT: its bits wait to take effect (R111, R113). -/
def State.winCommitWrite (s : State) (v : Word) : State :=
  s.setReg Adr.LOD_WIN_COMMIT (s.reg Adr.LOD_WIN_COMMIT ||| v)

/-- LOD_WIN_COMMIT (R111). -/
def execLodWinCommit (mask : Word) (s : State) : Host.Outcome State Fault Refusal :=
  done (if s.takesIo Adr.LOD_WIN_COMMIT then s.winCommitWrite mask else s)

/-- Copy every window of a mask, from window `w` on. -/
def State.copyWindows (s : State) (mask : Nat) (n w : Nat) : State :=
  match n with
  | 0 => s
  | k + 1 => (if mask.testBit w then s.copyWindow w else s).copyWindows mask k (w + 1)

/-- WINDOW_COMMIT_EFFECT: the commits take effect and their bits read 0 (R113). -/
def execWindowCommitEffect (s : State) : Host.Outcome State Fault Refusal :=
  done (if s.takesIo Adr.LOD_WIN_COMMIT then
      (s.copyWindows (s.reg Adr.LOD_WIN_COMMIT).toNat 64 0).setReg Adr.LOD_WIN_COMMIT 0
    else s)

/-- A write of LOD_CFG_DATA: a kind of 8 to 15 drops it; SLOT moves on where INC is 1 (R85, R126). -/
def State.cfgDataWrite (s : State) (v : Nat) : State :=
  let slot := s.fld F.LOD_CFG_INDEX.SLOT
  let s1 := if 8 ≤ bitsOf v 7 4 then s else s.lodeSend (.config slot v)
  if s.flag F.LOD_CFG_INDEX.INC then s1.setFld F.LOD_CFG_INDEX.SLOT (slot + 1) else s1

/-- LOD_CFG_DATA_WRITE (R126). -/
def execLodCfgDataWrite (value : Word32) (s : State) : Host.Outcome State Fault Refusal :=
  done (if s.takesIo Adr.LOD_CFG_DATA then s.cfgDataWrite value.toNat else s)

/-- Handle the advances requested during initialisation, in order (R124). -/
def State.lateAdvances (s : State) (l : List Nat) : State :=
  match l with
  | [] => s
  | b :: rest => (s.advance b).1.lateAdvances rest

/-- Initialisation is complete, and waiting advances are handled (R124). -/
def State.initComplete (s : State) : State :=
  if s.flag F.LOD_STATUS.INIT_DONE || !(s.domainOn 2) || !s.pwr.pllLocked then s
  else
    let s1 := s.raise F.LOD_STATUS.INIT_DONE
    { s1 with lode := { s1.lode with waitAdv := [] } }.lateAdvances s1.lode.waitAdv

/-- INIT_DONE (R124). -/
def execInitDone (s : State) : Host.Outcome State Fault Refusal := done s.initComplete

/-- A visit of the scrubber keeps the TAGs of a slot within 2^31 epochs of the open epoch, and the later one the later
(R128). -/
def State.scrubTags (s : State) (slot : Nat) : State :=
  let x := s.slot slot
  let o := s.openEpoch
  let limit := fun (newer : Bool) => 2 ^ 31 - (if newer then 2 else 1)
  let z := x.newIsZero o
  s.setSlot slot { x with
    c0 := { x.c0 with tag := clampTag o x.c0.tag (limit z) }
    c1 := { x.c1 with tag := clampTag o x.c1.tag (limit (!z)) } }

/-- LODE_SCRUB: a check of copy 0 (`zero`) or 1 of a slot; `uncorrectable` says that its error cannot be corrected, and a
correctable one changes nothing (R127, R128). -/
def execLodeScrub (slot : Fin 262144) (zero uncorrectable : Bool) (s : State) : Host.Outcome State Fault Refusal :=
  done (if !(s.domainOn 2) || !s.pwr.pllLocked || !(s.flag F.LOD_STATUS.INIT_DONE) then s
    else if uncorrectable then (s.poisonCopy slot zero).scrubTags slot else s.scrubTags slot)

end Sys2Proof.Machine
end

