-- ==== Sys2Proof/Machine/MemCtl.lean ====
section
/-!
DEFINITION. L2 preloads, the patrol scrubber and the LPDDR5X controllers (R490 to R494, R503 to R539): the address map,
error handling, the check-bit caches, page policy, refresh, the firedamp monitor and training.
-/
namespace Sys2Proof.Machine

/-! ### Preloads (R490, R491) -/

/-- A write of MEM_L2_PLD_CTL (R490, R491). -/
def State.preloadWrite (s : State) (v : Nat) : State :=
  let lines := bitsOf v 31 16
  let way := bitsOf v 11 8
  let a := s.fld F.MEM_L2_PLD_ADDR.ADDR * 64
  let busy := s.flag F.MEM_L2_PLD_STAT.BUSY
  if bitOf v 0 then
    if busy || decide (way < 4) || lines = 0 || decide (2048 < lines) || decide (s.dramSize < a + lines * 64) then
      s.raise F.MEM_L2_PLD_STAT.ERR
    else ((s.setFld F.MEM_L2_PLD_CTL.LINES lines).setFld F.MEM_L2_PLD_CTL.WAY way).raise F.MEM_L2_PLD_STAT.BUSY
  else if busy then s
  else (s.setFld F.MEM_L2_PLD_CTL.LINES lines).setFld F.MEM_L2_PLD_CTL.WAY way

/-- MEM_L2_PLD_CTL_WRITE (R490, R491). -/
def execMemL2PldCtlWrite (value : Word32) (s : State) : Host.Outcome State Fault Refusal :=
  done (if s.takesIo Adr.MEM_L2_PLD_CTL then s.preloadWrite value.toNat else s)

/-- A line comes into way `w` of gallery `g`: from another way of that L2 it moves there as it is, else it is read coherently for the
device itself; what stood in the way is written back first (R475, R490, R516). A disabled way takes none (R697). -/
def State.preloadLine (s : State) (w g line : Nat) : State :=
  if !(s.wayOn g w) then s
  else match s.l2Find g line with
    | some e =>
      if e.way = w then s
      else (s.l2Place g line w srcDevice).l2Mod g line (fun y => { y with dirty := e.dirty })
    | none =>
      let s1 := if (s.dirOf line).present = 0 then s.mscUse line srcDevice false false else s.shareLine line srcDevice
      let s2 := s1.l2Place g line w srcDevice
      let p := setBits (s2.dirOf line).present g g 1
      s2.setDir line (if (s2.dirOf line).present = 0 then ⟨.exclusive, p⟩ else ⟨.shared, p⟩)

/-- PRELOAD_DONE: every line is in place and BUSY clears (R490). -/
def execPreloadDone (s : State) : Host.Outcome State Fault Refusal :=
  done (if s.pwr.pllLocked && s.flag F.MEM_L2_PLD_STAT.BUSY then
      let first := s.fld F.MEM_L2_PLD_ADDR.ADDR
      let lines := (List.range (s.fld F.MEM_L2_PLD_CTL.LINES)).map (fun i => first + i)
      let galleries := (List.range 64).filter (fun g =>
        (s.fld F.MEM_L2_PLD_GAL.GAL).testBit g && s.domainOn (shaftDomain (g * 8)) && !(s.galleryLost g))
      (galleries.foldl (fun t g => lines.foldl (fun u k => u.preloadLine (s.fld F.MEM_L2_PLD_CTL.WAY) g k) t) s).setFld
        F.MEM_L2_PLD_STAT.BUSY 0
    else s)

/-! ### The firedamp monitor (R525 to R530) -/

/-- The entry that an ACT of `r` updates, by index, with COUNT, CAND and VOTE after the first half of R525. -/
def fdpPick (t : List FdpEntry) (r src : Nat) : Nat × FdpEntry :=
  match t.findIdx? (fun e => e.row = r) with
  | some i =>
    let e := t.getD i ⟨r, 0, src, 0⟩
    (i, { e with count := e.count + 1 })
  | none =>
    if t.length < 64 then (t.length, ⟨r, 1, src, 0⟩)
    else
      let least := t.foldl (fun m e => if e.count < m then e.count else m) (t.getD 0 ⟨r, 0, src, 0⟩).count
      match t.findIdx? (fun e => e.count = least) with
      | some i => (i, ⟨r, least + 1, src, 0⟩)
      | none => (0, ⟨r, least + 1, src, 0⟩)

/-- The vote of R525. -/
def FdpEntry.voteFor (e : FdpEntry) (src : Nat) : FdpEntry :=
  if e.cand = src then { e with vote := e.vote + 1 }
  else if e.vote = 0 then { e with cand := src, vote := 1 }
  else { e with vote := e.vote - 1 }

/-- Set entry `i` of a table, or add it at the end. -/
def putEntry (t : List FdpEntry) (i : Nat) (e : FdpEntry) : List FdpEntry := if i < t.length then t.set i e else t ++ [e]

/-- Microseconds between the ACTs of a throttled source (R528). -/
def State.fdpInterval (s : State) : Nat :=
  let n := s.fld F.MEM_FDP_CTL.FDP_INTERVAL
  if n = 0 then 1 else n

/-- The throttle that holds source `src` at a bank: the microsecond of the last ACT it allowed. -/
def BankState.throttleOf (x : BankState) (src : Nat) : Option Nat :=
  match (x.throttled.find? (fun e => e.1 = src)).map Prod.snd, x.bankThrottle with
  | some t, some u => some (if t < u then u else t)
  | some t, none => some t
  | none, some u => if src = 0xF00 then none else some u
  | none, none => none

/-- An ACT by `src` counts against its throttles. -/
def BankState.noteAct (x : BankState) (src us : Nat) : BankState :=
  { x with
    throttled := x.throttled.map (fun e => if e.1 = src then (src, us) else e)
    bankThrottle := x.bankThrottle.map (fun t => if src = 0xF00 then t else us) }

/-- MEM_CHc_STATUS shows the throttles in force. -/
def State.showThrottles (s : State) (c : Nat) : State :=
  let b := (s.dchan c).banks
  (s.setFld (F.MEM_CH_STATUS.THROTTLES c) (b.foldl (fun n e => n + e.2.throttled.length) 0)).setFld
    (F.MEM_CH_STATUS.BANK_THR c) (b2n (b.any (fun e => e.2.bankThrottle.isSome)))

/-- The response to an entry that reaches FDP_THRESH (R527, R528). -/
def State.fdpTrigger (s : State) (c b : Nat) (e : FdpEntry) : State :=
  let x := s.bank c b
  let held := x.throttled.any (fun t => t.1 = e.cand)
  let s1 := s.modBank c b (fun x =>
    let y := { x with rfmDue := true }
    if e.cand = 0xF00 || held then y
    else if x.throttled.length < 4 then { y with throttled := y.throttled ++ [(e.cand, s.time.us)] }
    else { y with bankThrottle := some (y.bankThrottle.getD s.time.us) })
  let whole := e.cand != 0xF00 && !held && 4 ≤ x.throttled.length && x.bankThrottle.isNone
  let s2 := (s1.count F.MEM_FDP_COUNTS.TRIGGERS 1).showThrottles c
  let s3 := if whole then s2.count F.MEM_FDP_COUNTS.BANK_THROTTLES 1 else s2
  let s4 := s3.setReg (Adr.MEM_CH_FDP_LOG c)
    (BitVec.ofNat 64 (2 ^ 63 + b * 2 ^ 48 + e.row * 2 ^ 30 + e.cand % 0x1000 * 2 ^ 18 + e.vote % 0x4000))
  s4.log 0xF00 0x42 0 0 0 (c * 2 ^ 59 + b * 2 ^ 55 + e.row * 2 ^ 37 + e.cand % 0x1000 * 2 ^ 25 + e.vote % 0x4000 * 2 ^ 11)

/-- An ACT is issued (R525). -/
def State.activate (s : State) (c b row src : Nat) : State :=
  let x := s.bank c b
  let s1 := s.setBank c b { x.noteAct src s.time.us with openRow := some row, lastCyc := s.time.cyc }
  if !(s.flag F.MEM_FDP_CTL.FDP_EN) then s1
  else
    let p := fdpPick x.table row src
    let e := p.2.voteFor src
    let hit := decide (s.fld F.MEM_FDP_CTL.FDP_THRESH ≤ e.count)
    let s2 := s1.modBank c b (fun y => { y with table := putEntry x.table p.1 (if hit then { e with count := 0 } else e) })
    if hit then s2.fdpTrigger c b e else s2

/-! ### How a controller serves requests (R512, R513, R515 to R518, R528, R530) -/

/-- May a source use a row now: the row is open, or no throttle holds its ACT back (R528)? -/
def State.rowFree (s : State) (c b row src : Nat) : Bool :=
  decide ((s.bank c b).openRow = some row) ||
    match (s.bank c b).throttleOf src with
    | some t => decide (t + s.fdpInterval ≤ s.time.us)
    | none => true

/-- A row is used for a source: one that is not open needs an ACT first; then the page policy applies (R517, R518, R525). -/
def State.touchRow (s : State) (c b row src : Nat) : State :=
  (if (s.bank c b).openRow = some row then s else s.activate c b row src).accessRow c b row

/-- A check line of channel `c` is used: a miss reads it from DRAM, and the victim of a full set is written back when it is dirty; the
line becomes the most recently used one, and dirty after a write (R511 to R513). -/
def State.useCheck (s : State) (c line src : Nat) (dirty : Bool) : State :=
  let tag := checkTag c line
  let was := (s.checkSet c line).any (fun e => e.1 = tag && e.2)
  let rest := (s.checkSet c line).filter (fun e => e.1 != tag)
  let s1 := if s.checkHeld c line then s else s.touchRow c (s.bankOf (line / 64)) (line / 64 / 512) src
  let s2 := ((rest.drop 15).filter Prod.snd).foldl (fun t e =>
    let li := e.1 % 2 ^ 40 / 64
    t.touchRow (e.1 / 2 ^ 40) (t.bankOf li) (li / 512) srcDevice) s1
  { s2 with mc := { s2.mc with check := s2.mc.check.set [] (checkKey c line) ((tag, was || dirty) :: rest.take 15) } }

/-- The patrol reaches the check line that serves address `a`: a dirty one is written to DRAM and stays clean (R494, R513). -/
def State.cleanCheck (s : State) (a : Nat) : State :=
  let c := s.channelOf a ^^^ 1
  let line := s.checkLine a
  if (s.checkSet c line).any (fun e => e.1 = checkTag c line && e.2) then
    let s1 := s.touchRow c (s.bankOf (line / 64)) (line / 64 / 512) srcDevice
    let l := (s1.checkSet c line).map (fun e => if e.1 = checkTag c line then (e.1, false) else e)
    { s1 with mc := { s1.mc with check := s1.mc.check.set [] (checkKey c line) l } }
  else s

/-- The requests of a controller that stand in one of its queues: 48 reads or 32 writes (R515). -/
def State.reqQueue (s : State) (c : Nat) (write : Bool) : List DramReq :=
  if write then (s.dchan c).wq.take 32 else (s.dchan c).rq.take 48

/-- Does no throttle hold a request back, at its own row or at the row of the check line that it misses (R512, R513, R528)? -/
def State.canServe (s : State) (c : Nat) (q : DramReq) : Bool :=
  let line := s.checkLine (q.line * 64)
  let p := c ^^^ 1
  s.rowFree c q.bank q.row q.src && (s.checkHeld p line || s.rowFree p (s.bankOf (line / 64)) (line / 64 / 512) q.src)

/-- The requests that can issue: a throttle lets a row hit pass, but no request that needs an ACT overtakes an older one of its source
that is held back (R515, R528, R530; log 39). -/
def State.issuable (s : State) (c : Nat) (l : List DramReq) : List DramReq :=
  l.filter (fun q => s.canServe c q && (decide ((s.bank c q.bank).openRow = some q.row) ||
    !((l.takeWhile (fun p => p != q)).any (fun p => p.src = q.src && !(s.canServe c p)))))

/-- The request of a queue that a controller chooses: one older than AGE_CAP, oldest first; a row hit, oldest first; the oldest
(R515). -/
def State.reqChoice (s : State) (c : Nat) (write : Bool) : Option DramReq :=
  let l := s.issuable c (s.reqQueue c write)
  match l.find? (fun q => decide (s.fld F.MEM_SCHED.AGE_CAP < s.mclkSince q.cyc)) with
  | some q => some q
  | none =>
    match l.find? (fun q => (s.bank c q.bank).openRow = some q.row) with
    | some q => some q
    | none => l.head?

/-- A request is served: its row and its check line are used (R512, R513, R517). -/
def State.reqTouch (s : State) (c : Nat) (q : DramReq) (write : Bool) : State :=
  let s1 := s.touchRow c q.bank q.row q.src
  s1.useCheck (c ^^^ 1) (s1.checkLine (q.line * 64)) q.src write

/-- A request leaves its queue and is served. -/
def State.reqServe (s : State) (c : Nat) (q : DramReq) (write : Bool) : State :=
  let x := s.dchan c
  (s.setDchan c (if write then { x with wq := x.wq.erase q, burst := x.burst - 1 } else { x with rq := x.rq.erase q })).reqTouch c q write

/-- Serve the first `n` requests of one queue before its domain goes off: in the controller's order, the oldest when throttles hold all
back until they lapse. -/
def State.reqDrain (s : State) (c : Nat) (write : Bool) (n : Nat) : State :=
  match n with
  | 0 => s
  | k + 1 =>
    match (s.reqChoice c write).or (s.reqQueue c write).head? with
    | none => s
    | some q => (s.reqServe c q write).reqDrain c write k

/-! ### The patrol scrubber (R493, R494) -/

/-- The unit at `a` takes the poison mark in place. -/
def State.markUnit (s : State) (a : Nat) : State :=
  { s with mem := { s.mem with poison := insertNat s.mem.poison (a / 32) } }

/-- CACHE_PATROL_SCRUB: an error that the patrol finds in the unit at `a` of an L2 way (gallery × 16 + way) or, with none, of
the memory-side cache, when it also reaches the check line that serves the unit (R493, R494, R513; log 10). -/
def execCachePatrolScrub (l2 : Option (Fin 1024)) (a : BitVec 48) (uncorrectable dirty : Bool) (s : State) :
    Host.Outcome State Fault Refusal :=
  let on := match l2 with
    | some u => s.domainOn (shaftDomain (u.val / 16 * 8))
    | none => s.domainOn 11
  done (if !on || !s.pwr.pllLocked || s.dramSize ≤ a.toNat then s
    else
      let s1 := match l2 with
        | some u => s.wayEvent (u.val / 16) (u.val % 16)
        | none => s.cleanCheck a.toNat
      if !uncorrectable then s1.count F.MEM_CODE_COUNTS.CORRECTED 1
      else
        let kind := match l2 with | some _ => 2 | none => 3
        let unit := match l2 with | some u => u.val | none => 0
        let s2 := (s1.count F.MEM_CODE_COUNTS.UNCORRECTED 1).log 0xF00 0x0A 0 0 (a.toNat / 32 * 32) (unitDw3 unit (kind * 2 ^ 40))
        if dirty then (s2.markUnit a.toNat).count F.MEM_CODE_COUNTS.POISONED 1 else s2)

/-! ### Reads and writes of lines (R512 to R514, R538, R539) -/

/-- The log word of MEM_UE_LOG and MEM_CE_LOG. -/
def errWord (l : DramLoc) (cw source pins : Nat) (marked : Bool) : Nat :=
  2 ^ 63 + b2n marked * 2 ^ 62 + l.channel * 2 ^ 56 + l.bank * 2 ^ 52 + l.row * 2 ^ 34 + l.column * 2 ^ 29 + cw * 2 ^ 28
    + source % 0x1000 * 2 ^ 16 + pins

/-- DW3 of MEM_CE and MEM_UE (R714). -/
def errDw3 (l : DramLoc) (cw source pins : Nat) (marked : Bool) : Nat :=
  l.channel * 2 ^ 59 + l.bank * 2 ^ 55 + l.row * 2 ^ 37 + l.column * 2 ^ 32 + cw * 2 ^ 31 + pins * 2 ^ 15
    + source % 0x1000 * 2 ^ 3 + b2n marked * 4

/-- A corrected unit (R493, R514, R538). -/
def State.memCe (s : State) (a cw source pins : Nat) : State :=
  let l := s.dramLoc a
  let s1 := (s.count (F.MEM_CH_ERR_COUNTS.CORRECTED l.channel) 1).setReg Adr.MEM_CE_LOG
    (BitVec.ofNat 64 (errWord l cw source pins false))
  (s1.log 0xF00 0x40 0 3 a (errDw3 l cw source pins false)).rowEvent l.channel l.bank l.row (s.rowFirst a)

/-- Unit `u` is poisoned and its uncorrectable error is recorded. -/
def State.ueMark (s : State) (u : Nat) : State :=
  { s with mem := { s.mem with poison := insertNat s.mem.poison u, ueSeen := insertNat s.mem.ueSeen u } }

/-- An uncorrectable or poisoned unit (R514, R538, R539). -/
def State.memUe (s : State) (a cw source pins : Nat) : State :=
  let l := s.dramLoc a
  let u := a / 32
  let marked := s.mem.poison.contains u
  let s1 := s.count (F.MEM_CH_ERR_COUNTS.UNCORRECTED l.channel) 1
  if s.mem.ueSeen.contains u then
    s1.setReg Adr.MEM_UE_LOG (BitVec.ofNat 64 (errWord l cw source pins true))
  else
    let s2 := s1.setReg Adr.MEM_UE_LOG (BitVec.ofNat 64 (errWord l cw source pins marked))
    let s3 := s2.log 0xF00 0x41 0 3 a (errDw3 l cw source pins marked)
    let s4 := s3.ueMark u
    if marked then s4 else s4.rowEvent l.channel l.bank l.row (s.rowFirst a)

/-- The DQ pins of the erroneous symbols of codeword `cw` of line index `li` (R509): data symbols lie in the data burst, check symbols in
the burst of check-line codeword k. -/
def pinMask (li cw symbols : Nat) : Nat :=
  let k := li % 8 * 2 + cw
  let pins := ((List.range 32).filter symbols.testBit).map (fun j => j % 16)
    ++ ((List.range 4).filter (fun i => symbols.testBit (32 + i))).map (fun i => 4 * (k % 4) + i)
  (List.range 16).foldl (fun m p => m + b2n (pins.contains p) * 2 ^ p) 0

/-- The first beat of symbol `j` of a codeword in its burst (R509): data symbols below 32, then check symbols of codeword `k`. -/
def symbolBeat (cw k j : Nat) : Nat := if j < 32 then 16 * cw + 8 * (j / 16) else 8 * (k / 4)

/-- One codeword of a line read: a corrected unit is rewritten, an uncorrectable one is written back poisoned (R514). -/
def State.readCodeword (s : State) (a cw source : Nat) (r : CodeResult) : State :=
  let at_ := a / 64 * 64 + cw * 32
  let pins := fun (m : BitVec 36) => pinMask (s.chanOffset a / 64) cw m.toNat
  let again := fun (t : State) =>
    let l := t.dramLoc a
    t.reqTouch l.channel ⟨a / 64, l.bank, l.row, source, t.time.cyc⟩ true
  if s.mem.poison.contains (at_ / 32) then s.memUe at_ cw source 0
  else match r with
    | .clean => s
    | .corrected m => again (s.memCe at_ cw source (pins m))
    | .uncorrectable m => again (s.memUe at_ cw source (pins m))

/-- Is a line of DRAM within a usable channel? -/
def State.lineReady (s : State) (a : Nat) : Bool := decide (a < s.dramSize) && s.channelOn (s.channelOf a) && s.pwr.pllLocked

/-- An uncorrectable check line: the data codewords that it serves are delivered poisoned (R538). -/
def State.checkUe (s : State) (a : Nat) : State :=
  let c := s.channelOf a
  let line := s.checkLine a
  let s1 := s.log 0xF00 0x45 0 0 0 ((c ^^^ 1) * 2 ^ 59 + line * 2 ^ 26)
  let first := s.chanOffset a / 512 * 512
  ((List.range 8).foldl (fun t i =>
    let p := s.physOf c (first + i * 64)
    (t.markUnit p).markUnit (p + 32)) s1)

/-- Can channel `c` serve a request on the line at `a` now: the line is outside the locked region, and no RFM has become mandatory
(R134, R515)? -/
def State.mayServe (s : State) (a : Nat) : Bool :=
  s.lineReady a && !(s.regionLine (a / 64)) && !((s.dchan (s.channelOf a)).banks.any (fun e => e.2.rfmDue))

/-- The request for the line at `a`: the oldest of its queue, or one that no queue lists, as a patrol or training makes it (R516). -/
def State.reqOf (s : State) (a src : Nat) (write : Bool) : DramReq :=
  let p := s.dramLoc a
  let x := s.dchan p.channel
  ((if write then x.wq else x.rq).find? (fun q => q.line = a / 64)).getD ⟨a / 64, p.bank, p.row, src, s.time.cyc⟩

/-- A request on a line is served in the controller's order: one that waits must be its choice, and leaves its queue; one that no queue
holds is served as it comes. `f` follows with its local source. A request that a throttle holds back counts as a delayed ACT, and one that
is not the choice waits (R515, R516, R530). -/
def State.serveLine (s : State) (a src : Nat) (write : Bool) (f : State → Nat → State) : State :=
  let c := s.channelOf a
  let q := s.reqOf a src write
  let x := s.dchan c
  if !(s.canServe c q) then s.count F.MEM_FDP_COUNTS.THROTTLED_ACTS 1
  else if (if write then x.wq else x.rq).any (fun q => q.line = a / 64) then
    match s.reqChoice c write with
    | some q => if q.line = a / 64 then f (s.reqServe c q write) q.src else s
    | none => s
  else f (s.reqTouch c q write) src

/-- DRAM_READ of the line at `a` for a local source: the findings for its two codewords, and whether its check line is
uncorrectable (R512, R514, R515, R517, R538, R539). -/
def execDramRead (a : BitVec 48) (source : BitVec 12) (cw0 cw1 : CodeResult) (checkBad : Bool) (s : State) :
    Host.Outcome State Fault Refusal :=
  done (if !(s.mayServe a.toNat) || (s.dchan (s.channelOf a.toNat)).burst != 0 then s
    else s.serveLine a.toNat source.toNat false (fun s1 src =>
      if checkBad then s1.checkUe a.toNat
      else (s1.readCodeword a.toNat 0 src cw0).readCodeword a.toNat 1 src cw1))

/-- DRAM_WRITE of the line at `a`: its check line is updated in the check-bit cache (R513, R517). Writes go in bursts of 8, which begin
when the write queue holds 24 entries or no read waits (R515). -/
def execDramWrite (a : BitVec 48) (s : State) : Host.Outcome State Fault Refusal :=
  let c := s.channelOf a.toNat
  let x := s.dchan c
  done (if !(s.mayServe a.toNat) then s
    else if x.burst = 0 && x.wq.length < 24 && !x.rq.isEmpty then s
    else s.serveLine a.toNat srcDevice true (fun s1 _ =>
      if x.burst = 0 && !x.wq.isEmpty then
        s1.setDchan c { s1.dchan c with burst := (if x.wq.length < 8 then x.wq.length else 8) - 1 }
      else s1))

/-! ### Commands of the firedamp monitor (R525 to R530) -/

/-- Rows of a bank that requests can open: data and check rows (R504). -/
def State.rowLimit (s : State) : Nat := if s.big then 258048 else 129024

/-- Is a row held by the draught's locked region, which never reaches DRAM (R134, R516)? A data row lies wholly inside or outside
it. -/
def State.regionRow (s : State) (c b row : Nat) : Bool :=
  let co := (row * 512 + (if s.flag F.MEM_CTL.HASH then b ^^^ (row % 16) else b) * 32) * 64
  decide (co < s.chanRaw / 8 * 7) && s.regionLine (s.physOf c co / 64)

/-- DRAM_ACTIVATE: a request of a local source needs an ACT of a row; a throttled one waits and is counted (R525, R528). -/
def execDramActivate (c : Fin 32) (b : Fin 16) (row : BitVec 18) (source : BitVec 12) (s : State) :
    Host.Outcome State Fault Refusal :=
  done (if !(s.channelOn c) || !s.pwr.pllLocked || s.rowLimit ≤ row.toNat || s.regionRow c b row.toNat then s
    else match (s.bank c b).throttleOf source.toNat with
      | some t =>
        if s.time.us < t + s.fdpInterval then s.count F.MEM_FDP_COUNTS.THROTTLED_ACTS 1
        else s.activate c b row.toNat source.toNat
      | none => s.activate c b row.toNat source.toNat)

/-- RFM: RFMpb is issued to a bank, on a trigger or at the device's own demand (R505, R519, R527). -/
def execRfm (c : Fin 32) (b : Fin 16) (s : State) : Host.Outcome State Fault Refusal :=
  done (if s.channelOn c && s.pwr.pllLocked then
      (s.modBank c b (fun x => { x with rfmDue := false, openRow := none })).count (F.MEM_CH_ERR_COUNTS.RFM c) 1
    else s)

/-- Every table and throttle of a channel is cleared. -/
def State.clearFdp (s : State) (c : Nat) : State :=
  (s.setDchan c { s.dchan c with banks := (s.dchan c).banks.filterMap (fun e =>
    let x := { e.2 with table := [], throttled := [], bankThrottle := none }
    if x = BankState.reset then none else some (e.1, x)) }).showThrottles c

/-- Clear `n` channels from `c` on. -/
def State.clearFdps (s : State) (n c : Nat) : State :=
  match n with
  | 0 => s
  | k + 1 => (s.clearFdp c).clearFdps k (c + 1)

/-- FIREDAMP_WINDOW_END of D3's or D4's controllers, every 32 ms (R529). -/
def execFiredampWindowEnd (d4 : Bool) (s : State) : Host.Outcome State Fault Refusal :=
  done (if d4 then
      (if s.channelOn 16 && decide (s.mc.windowUs4 + 32000 ≤ s.time.us) then
        { s with mc := { s.mc with windowUs4 := s.mc.windowUs4 + 32000 } }.clearFdps 16 16 else s)
    else
      (if s.channelOn 0 && decide (s.mc.windowUs3 + 32000 ≤ s.time.us) then
        { s with mc := { s.mc with windowUs3 := s.mc.windowUs3 + 32000 } }.clearFdps 16 0 else s))

/-! ### Page policy (R519, R520) -/

/-- ROW_IDLE_CLOSE of a bank under FORCE 0: its row closes once PP_IDLE MCLK cycles have passed without a request (R519). -/
def execRowIdleClose (c : Fin 32) (b : Fin 16) (s : State) : Host.Outcome State Fault Refusal :=
  let waits := ((s.dchan c).rq ++ (s.dchan c).wq).any (fun q => q.bank = b.val)
  let idle := decide (s.fld F.MEM_CTL.PP_IDLE ≤ s.mclkSince (s.bank c b).lastCyc)
  done (if s.channelOn c && s.pwr.pllLocked && s.force c b = 0 && !waits && idle then s.modBank c b (fun x => { x with openRow := none }) else s)

/-- A write of MEM_CHc_PP_FORCE: a bank set to 0 forgets its history (R520). -/
def State.ppForceWrite (s : State) (c v : Nat) : State :=
  let s1 := s.setReg (Adr.MEM_CH_PP_FORCE c) (BitVec.ofNat 64 (v % 0x100000000))
  s1.setDchan c { s1.dchan c with banks := (s1.dchan c).banks.filterMap (fun e =>
    let x := if bitsOf v (2 * e.1 + 1) (2 * e.1) = 0 then { e.2 with history := [] } else e.2
    if x = BankState.reset then none else some (e.1, x)) }

/-! ### Refresh, calibration and retraining (R505, R521 to R524, R534) -/

/-- POSTPONE_MAX as it acts (R523). -/
def State.postponeMax (s : State) : Nat :=
  let n := s.fld F.MEM_SCHED.POSTPONE_MAX
  if n = 0 then 1 else if 8 < n then 8 else n

/-- The multiplier that the last poll of MR4 found comes into use with an interval (R521). -/
def State.newRate (s : State) (c : Nat) : State :=
  match (s.dchan c).nextRate with
  | some r => (s.setDchan c { s.dchan c with nextRate := none }).setFld (F.MEM_CH_STATUS.RATE c) r
  | none => s

/-- REFRESH of a channel: `due` says that a tREFI has passed, which a waiting read postpones; otherwise debt is repaid while both queues
are empty (R522, R523). `reads` says that a read waits which the queue does not list: a demand read whose own command is one
step of the model (log 39). -/
def execRefresh (c : Fin 32) (due reads : Bool) (s : State) : Host.Outcome State Fault Refusal :=
  let debt := s.fld (F.MEM_CH_STATUS.DEBT c)
  let x := s.dchan c
  let waits := reads || !x.rq.isEmpty
  done (if !(s.channelOn c) || !s.pwr.pllLocked then s
    else if due then
      (if waits && decide (debt < s.postponeMax) then (s.newRate c).setFld (F.MEM_CH_STATUS.DEBT c) (debt + 1)
        else (s.newRate c).closeRows c)
    else if debt = 0 || waits || !x.wq.isEmpty then s
    else (s.closeRows c).setFld (F.MEM_CH_STATUS.DEBT c) (debt - 1))

/-- MR4_POLL, every 4 ms: the multiplier the devices report, or a temperature above their highest rate, counts from the next interval
(R521, R524). -/
def execMr4Poll (c : Fin 32) (rate : Fin 5) (mr4 : Byte) (high : Bool) (s : State) : Host.Outcome State Fault Refusal :=
  done (if !(s.channelOn c) || !s.pwr.pllLocked || decide (s.time.us < (s.dchan c).mr4Us + 4000) then s
    else
      let s1 := s.setDchan c { s.dchan c with
        hot := high, mr4Us := s.time.us, nextRate := some (if high then 4 else rate) }
      if high then s1.log 0xF00 0x43 0 0 0 (c * 2 ^ 59 + mr4.toNat * 2 ^ 51) else s1)

/-- ZQ_CALIBRATION of a channel, every 32 ms (R505): nothing but its time is kept. -/
def execZqCalibration (c : Fin 32) (s : State) : Host.Outcome State Fault Refusal :=
  done (if s.channelOn c && s.pwr.pllLocked && decide ((s.dchan c).zqUs + 32000 ≤ s.time.us) then
      s.setDchan c { s.dchan c with zqUs := s.time.us } else s)

/-- WCK2DQI_RETRAIN of a channel with the delays it finds, at most one channel of a group in a microsecond (R519, R534). -/
def execWck2dqiRetrain (c : Fin 32) (rd wr : BitVec 16) (s : State) : Host.Outcome State Fault Refusal :=
  let n := s.fld F.MEM_TRN_CTL.INTERVAL_MS
  let due := (s.dchan c).retrainUs + (if n = 0 then 1 else n) * 1000
  let held := (List.range 4).any (fun i => decide ((s.dchan (c / 4 * 4 + i)).retrainUs = s.time.us))
  done (if s.flag F.MEM_TRN_CTL.TRN_EN && s.channelOn c && s.pwr.pllLocked && decide (due ≤ s.time.us) && !held then
      let s1 := s.closeRows c
      ((s1.setDchan c { s1.dchan c with retrainUs := s.time.us }).setFld (F.MEM_CH_TRAIN.RD_DELAY c) rd.toNat).setFld
        (F.MEM_CH_TRAIN.WR_DELAY c) wr.toNat
    else s)

/-! ### Training (R531 to R533, R536) -/

/-- Train `n` channels from `c` on: `fails` holds a failing training step, 1 to 6, in four bits per channel; the results of
the others are free values (log 3). -/
def State.trainChannels (s : State) (fails n c : Nat) : State :=
  match n with
  | 0 => s
  | k + 1 =>
    let step := bitsOf fails (4 * c + 3) (4 * c)
    let s0 := s.setDchan c Channel.reset
    let s1 := (((s0.setFld (F.MEM_CH_STATUS.DEBT c) 0).setFld (F.MEM_CH_STATUS.SELF_REF c) 0).setFld
      (F.MEM_CH_STATUS.RATE c) 2).showThrottles c
    let s2 := if step = 0 then
        let d := s1.draw
        (d.2.setReg (Adr.MEM_CH_TRAIN c) (BitVec.ofNat 64 (d.1 % 2 ^ 56))).raise (F.MEM_CH_STATUS.TRAINED c)
      else
        ((s1.setFld (F.MEM_CH_STATUS.TRAINED c) 0).raise F.MEM_STATUS.TRAIN_FAIL).log 0xF00 0x44 0 0 0
          (c * 2 ^ 59 + step * 2 ^ 55)
    let s3 := s2.setDchan c { s2.dchan c with mr4Us := s.time.us, zqUs := s.time.us, retrainUs := s.time.us }
    s3.trainChannels fails k (c + 1)

/-- Did every one of 16 channels from `c` on train? -/
def trainedAll (fails c : Nat) : Bool := (List.range 16).all (fun i => bitsOf fails (4 * (c + i) + 3) (4 * (c + i)) = 0)

/-- Train the channels of D3 (`d4` false) or D4: they become usable when every one of them trains (R532, R533, R536). -/
def State.trainDomain (s : State) (d4 : Bool) (fails : Nat) : State :=
  let c := if d4 then 16 else 0
  let s1 := s.trainChannels fails 16 c
  let s2 := s1.setFld (if d4 then F.MEM_STATUS.D4_READY else F.MEM_STATUS.D3_READY) (b2n (trainedAll fails c))
  if d4 then { s2 with mc := { s2.mc with windowUs4 := s.time.us } } else { s2 with mc := { s2.mc with windowUs3 := s.time.us } }

/-- The channels of D3 or D4 enter self-refresh and become unavailable (R535, R838). -/
def State.selfRefresh (s : State) (n c : Nat) : State :=
  match n with
  | 0 => s
  | k + 1 => (if s.flag (F.MEM_CH_STATUS.TRAINED c) then s.raise (F.MEM_CH_STATUS.SELF_REF c) else s).selfRefresh k (c + 1)

/-! ### Register writes -/

/-- FDP_THRESH as it is stored: 256 to 8,192. -/
def clampThresh (n : Nat) : Nat := if n < 256 then 256 else if 8192 < n then 8192 else n

/-- A write of MEM_FDP_CTL: FDP_EN and FDP_THRESH in CONFIGURE only. -/
def State.fdpCtlWrite (s : State) (v : Nat) : State :=
  let s1 := s.setFld F.MEM_FDP_CTL.FDP_INTERVAL (bitsOf v 9 0)
  if s.mode != .configure then s1
  else (s1.setFld F.MEM_FDP_CTL.FDP_EN (bitsOf v 31 31)).setFld F.MEM_FDP_CTL.FDP_THRESH (clampThresh (bitsOf v 29 16))

end Sys2Proof.Machine
end

