-- ==== Sys2Proof/Machine/Power.lean ====
section
/-!
DEFINITION. The clock root, the power domains and the core clocks (R24 to R37, R838, R748 to R755).
-/
namespace Sys2Proof.Machine

/-! ### The root PLL and REFCLK (R31, R54, R838) -/

/-- Before MCLK stops, every trained channel enters self-refresh and is unavailable until it has retrained (R838). -/
def State.memStops (s : State) : State :=
  ((s.selfRefresh 32 0).setFld F.MEM_STATUS.D3_READY 0).setFld F.MEM_STATUS.D4_READY 0

/-- DRAM contents are no longer what was written: every byte is a free value until it is written again (R838, log 2). -/
def State.dramGone (s : State) : State :=
  { s with mem := { bytes := [], lost := s.mem.lost + 1, poison := [], ueSeen := [] } }

/-- The effects of R31; `why` is 1 for the PLL and 2 for REFCLK (R834). -/
def State.clockLost (s : State) (why : Nat) : State :=
  let s1 := ((s.log 0xF00 0x12 why 0 0 (why * 2 ^ 40)).safeHold 2).syncLost
  let s2 := if s.pwr.pllLocked then s1.memStops else s1
  { s2 with pwr := { s2.pwr with pllLocked := false }, time := { s2.time with everLocked := false } }

/-- ROOT_PLL_LOSS_OF_LOCK (R31, R54, R838). -/
def execRootPllLossOfLock (s : State) : Host.Outcome State Fault Refusal :=
  done (if s.mode = .off || !s.pwr.pllLocked then s else s.clockLost 1)

/-- REFCLK_STOP (R31, R838): the tick goes on from the on-die oscillator (R833). -/
def execRefclkStop (s : State) : Host.Outcome State Fault Refusal :=
  done (if s.mode = .off || !s.pwr.refclk then s
    else
      let s1 := (s.clockLost 2).dramGone
      { s1 with pwr := { s1.pwr with refclk := false } })

/-- REFCLK_RESTART: the tick moves back to REFCLK (R31, R833). -/
def execRefclkRestart (s : State) : Host.Outcome State Fault Refusal := done { s with pwr := { s.pwr with refclk := true } }

/-- Is any channel from `c` on, of `n`, in self-refresh? -/
def State.inSelfRefresh (s : State) (n c : Nat) : Bool := (List.range n).any (fun i => s.flag (F.MEM_CH_STATUS.SELF_REF (c + i)))

/-- PLL_RELOCK: the clocks restart, channels in self-refresh retrain with the failing steps in `fails`, and every hewer owes
the forced entry (R54, R536, R838). -/
def execPllRelock (fails : BitVec 128) (s : State) : Host.Outcome State Fault Refusal :=
  done (if s.mode = .off || s.pwr.pllLocked || !s.pwr.refclk then s
    else
      let s1 := { s with pwr := { s.pwr with pllLocked := true } }
      let s2 := if s1.domainOn 3 && s1.inSelfRefresh 16 0 then s1.trainDomain false fails.toNat else s1
      let s3 := if s2.domainOn 4 && s2.inSelfRefresh 16 16 then s2.trainDomain true fails.toNat else s2
      s3.forceHewers)

/-! ### Requests to switch domains (R32, R33, R748, R749) -/

/-- The domains that have D1 as their parent (R32); D8 and D10 have only D0. -/
def childOfD1 (d : Nat) : Bool := decide (2 ≤ d) && d != 8 && d != 10

/-- May shaft `k` not go off: a gallery of it is in DRT_GAL_POOL or holds a placed activation, one on its way there in a tier-2 copy too
(R211, R222)? -/
def State.shaftHeld (s : State) (k : Nat) : Bool :=
  (List.range 8).any (fun i => (s.fld F.DRT_GAL_POOL.POOL).testBit (8 * k + i))
  || s.activations.any (fun x =>
    (match x.2.gallery with | some g => g / 8 = k | none => false) || (match x.2.stage with | .copying g => g / 8 = k | _ => false))

/-- May D9 not go off (R578)? -/
def State.skipHeld (s : State) : Bool :=
  s.domainOn 9 && (List.range 64).any (fun n => s.skState n = skActive || s.flag (F.SKP_CH_SHADOW_VALID.VALID n))

/-- Is the mode one that keeps D2 to D4 on (R36, R749)? -/
def Mode.keepsMemory (m : Mode) : Bool := m = .standby || m = .run || m = .degraded || m = .maintenance

/-- REF_REASON of switching domain `d`, with `want` the domains requested on; 0 where it is allowed (R33, R749). -/
def State.switchRefusal (s : State) (want d : Nat) : Nat :=
  let on := (s.fld F.PWR_DOM_REQ.REQ * 2).testBit d
  if want.testBit d = on then 0
  else if want.testBit d then (if childOfD1 d && (!want.testBit 1 || !(s.domainOn 1)) then 1 else 0)
  else if d = 1 && (List.range 20).any (fun c => childOfD1 c && s.domainOn c) then 1
  else if d = 11 && s.flag F.DRT_CTL.EN then 2
  else if 12 ≤ d && s.shaftHeld (d - 12) then 3
  else if d = 9 && s.skipHeld then 4
  else if (d = 2 || d = 3 || d = 4) && s.mode.keepsMemory then 5
  else 0

/-- The domains 1 to 19 that a request changes. -/
def State.switched (s : State) (want : Nat) : List Nat :=
  (List.range 20).filter (fun d => d != 0 && want.testBit d != (s.fld F.PWR_DOM_REQ.REQ * 2).testBit d)

/-- A refused request (R749). -/
def State.refuseSwitch (s : State) (d reason : Nat) : State :=
  ((s.raise F.PWR_STATUS.REFUSED).setFld F.PWR_STATUS.REF_DOM d).setFld F.PWR_STATUS.REF_REASON reason

/-- A write of PWR_DOM_REQ: one switch; the lowest domain that is refused refuses all of it (R748, R749). -/
def State.domReqWrite (s : State) (v : Nat) : State :=
  let want := bitsOf v 19 1 * 2 + 1
  let l := s.switched want
  if s.flag F.PWR_STATUS.BUSY then s.refuseSwitch (l.headD 0) 6
  else match l.find? (fun d => s.switchRefusal want d != 0) with
    | some d => s.refuseSwitch d (s.switchRefusal want d)
    | none => if l.isEmpty then s else (s.setFld F.PWR_DOM_REQ.REQ (want / 2)).raise F.PWR_STATUS.BUSY

/-- PWR_DOM_REQ_WRITE (R748, R749). -/
def execPwrDomReqWrite (value : Word32) (s : State) : Host.Outcome State Fault Refusal :=
  done (if s.takesIo Adr.PWR_DOM_REQ then s.domReqWrite value.toNat else s)

/-! ### The switch (R36, R750) -/

/-- The registers of a domain at their reset values (R750, R837); the HWR control blocks keep theirs (R456). -/
def State.clearRegs (s : State) (d : Nat) : State :=
  { s with regs := s.regs.filter (fun e => regDomain e.1 != d || e.1 / 0x1000000 = 0x04) }

/-- What a shaft without power keeps of a hewer: whether the save area of one that the fault block removed holds its thread (R201,
R695). -/
def Hewer.powered (x : Hewer) (removed : Bool) : Hewer :=
  if removed then { Hewer.reset with saved := x.saved, savedCdt := x.savedCdt, savedWin := x.savedWin } else Hewer.reset

/-- The hewers, twins and L2s of shaft `k` without power; the count behind CYCLE starts again with them. -/
def State.shaftGone (s : State) (k : Nat) : State :=
  { s with
    pwr := { s.pwr with cclk := s.pwr.cclk.set 0 k 0 }
    hewers := s.hewers.filterMap (fun e =>
      let x := if e.1 / 64 = k then e.2.powered (s.removed e.1) else e.2
      if x = Hewer.reset then none else some (e.1, x))
    twins := s.twins.filter (fun e => e.1 / 72 != k)
    mc := { s.mc with l2 := s.mc.l2.filter (fun e => e.1 / 16384 != k) } }

/-- Before shaft `k` goes off, every buffered store is performed and every dirty line is written back; its entries leave the directory
(R501). -/
def State.shaftDrains (s : State) (k : Nat) : State :=
  let hs := (s.hewers.map Prod.fst).filter (fun h => h / 64 = k)
  (List.range 8).foldl (fun t i => t.galleryFlush (8 * k + i) (fun _ => true)) (hs.foldl (fun t h => t.sbFlush h) s)

/-- The twins of shaft `k` take their copies of the decode table from the master when the shaft comes on (R376, log 48). -/
def State.shaftCopies (s : State) (k : Nat) : State :=
  (List.range 72).foldr (fun i t => t.modTwin (72 * k + i) (fun x =>
    { x with cdtE := s.cdt.entries, cdtW := s.cdt.words, cdtSeen := s.cdt.inFlight.length })) s

/-- Start hewer `h` (R736): M, banked, at offset 0 of the boot ROM. -/
def State.startHewer (s : State) (h : Nat) : State :=
  if s.removed h then s
  else s.setHew h { Hewer.reset with started := true }

/-- Start `n` hewers from `h` on. -/
def State.startHewers (s : State) (n h : Nat) : State :=
  match n with
  | 0 => s
  | k + 1 => (s.startHewer h).startHewers k (h + 1)

/-- The lock and allocation registers of the L2s at their reset values (R500). -/
def State.clearL2Regs (s : State) : State :=
  ((List.range 8).foldl (fun t c => t.setReg (Adr.MEM_L2_ALLOC c) 0xFFF0) s).setReg Adr.MEM_L2_LOCK 0

/-- Before the memory domain with channels `c` to `c + 15` goes off: the memory-side cache writes back its dirty lines, every request is
served, the check-bit caches write back theirs, and the channels enter self-refresh (R535). -/
def State.memDrains (s : State) (c : Nat) : State :=
  let s1 := s.mscDrop (fun line => decide (s.channelOf (line * 64) / 16 = c / 16))
  let s2 := (List.range 16).foldl (fun t i => (t.reqDrain (c + i) false (t.dchan (c + i)).rq.length).reqDrain (c + i) true (t.dchan (c + i)).wq.length) s1
  let s3 := { s2 with mc := { s2.mc with check := s2.mc.check.filter (fun e => decide (e.1 / 256 ≠ c / 16)) } }
  s3.selfRefresh 16 c

/-- What goes with domain `d` when it goes off (R501, R535, R599, R750, R770). -/
def State.domainGoes (s : State) (d : Nat) : State :=
  match d with
  | 3 => (s.memDrains 0).setFld F.MEM_STATUS.D3_READY 0
  | 4 => (s.memDrains 16).setFld F.MEM_STATUS.D4_READY 0
  | 5 => s.d5Off
  | 6 => [0, 1, 2, 3].foldl (fun t p => t.linkDown p 2) s
  | 7 => [4, 5, 6, 7].foldl (fun t p => t.linkDown p 2) s
  | 8 => (List.range 48).foldl State.pinOff s
  | 10 => s.closeSession
  | 11 => s.mscDrop (fun _ => true)
  | _ => if 12 ≤ d then (s.shaftDrains (d - 12)).shaftGone (d - 12) else s

/-- What domain `d` brings when it comes on: its blocks in their power-on state (R123, R230, R500, R536, R577, R629, R736,
R750, R793, R808). -/
def State.domainComes (s : State) (d fails : Nat) : State :=
  let s0 := s.clearRegs d
  match d with
  | 1 => { s0 with
      cdt := ⟨[], [], []⟩
      mc := { s0.mc with dir := [] }
      plk := { s0.plk with egress := [], seqs := [], reads := [], held := [] }
      adt := ⟨[], []⟩ }
  | 2 => { s0.emptyDraught.initLode with
      lode := { s0.initLode.lode with waitAdv := [], bounds := [] }
      anm := { s0.anm with maps := [] } }
  | 3 => s0.trainDomain false fails
  | 4 => s0.trainDomain true fails
  | 5 => if (s.fn 0).power = 4 then s else s.d5On
  | 6 => [0, 1, 2, 3].foldl State.resetPort s0
  | 7 => [4, 5, 6, 7].foldl State.resetPort s0
  | 8 => s0.anmReset
  | 9 => { s0 with skp := [], skLast := (63, 63) }
  | 11 => { s0.clearL2Regs with drt := { s0.drt with locked := false }, mc := { s0.mc with msc := [] } }
  | _ =>
    if 12 ≤ d then
      let s1 := ((s0.shaftGone (d - 12)).clearL2Regs).shaftCopies (d - 12)
      if s1.bootDone then s1.startHewers 64 ((d - 12) * 64) else s1
    else s0

/-- PWR_DOM_STATE.ON takes a bit; D5's follows its own rules (R751). -/
def State.setDomain (s : State) (d : Nat) (on : Bool) : State :=
  if d = 5 then s else s.setFld F.PWR_DOM_STATE.ON (setBits (s.fld F.PWR_DOM_STATE.ON) d d (b2n on))

/-- Switch the domains of a list off. -/
def State.switchOff (s : State) (l : List Nat) : State :=
  match l with
  | [] => s
  | d :: rest => ((s.domainGoes d).setDomain d false).switchOff rest

/-- Switch the domains of a list on. -/
def State.switchOn (s : State) (l : List Nat) (fails : Nat) : State :=
  match l with
  | [] => s
  | d :: rest => ((s.setDomain d true).domainComes d fails).switchOn rest fails

/-- The domains whose state differs from their request. -/
def State.toSwitch (s : State) (on : Bool) : List Nat :=
  (List.range 20).filter (fun d => d != 0 && (s.fld F.PWR_DOM_REQ.REQ * 2).testBit d = on && s.domainOn d != on)

/-- SHAFT_OFF: any shaft domain is off (R700). -/
def State.showShafts (s : State) : State :=
  s.setFld F.FLT_STATUS.SHAFT_OFF (b2n ((List.range 8).any (fun k => !(s.domainOn (12 + k)))))

/-- The switch in progress completes: domains go off from the highest down, then come on from the lowest up (R32, R35, R750). -/
def State.switchDone (s : State) (fails : Nat) : State :=
  let s1 := s.switchOff (s.toSwitch false).reverse
  let s2 := s1.switchOn (s.toSwitch true) fails
  ((s2.setFld F.PWR_STATUS.BUSY 0).showShafts).settle

/-- POWER_DOMAIN_SWITCHED, with the failing training steps of channels that retrain (R533, R536, R750). -/
def execPowerDomainSwitched (fails : BitVec 128) (s : State) : Host.Outcome State Fault Refusal :=
  done (if s.flag F.PWR_STATUS.BUSY && s.pwr.pllLocked then s.switchDone fails.toNat else s)

/-! ### Core clocks and temperature (R752 to R754) -/

/-- Does sensor `n` read `c` °C or more? -/
def State.hotter (s : State) (n c : Nat) : Bool := decide ((c * 16 : Int) ≤ signedOf 16 (s.fld (F.PWR_TEMP.TEMP n)))

/-- Does sensor `n` read below `c` °C minus HYST? -/
def State.cooler (s : State) (n c : Nat) : Bool :=
  decide (signedOf 16 (s.fld (F.PWR_TEMP.TEMP n)) < ((c : Int) - s.fld F.PWR_THERM.HYST) * 16)

/-- Is shaft `k` under a thermal trip (R754)? -/
def State.shaftTripped (s : State) (k : Nat) : Bool := s.pwr.tripped.contains k || s.pwr.tripped.contains 8

/-- Is MEM_TEMP_HIGH in force at a channel (R524)? -/
def State.memHot (s : State) : Bool := (List.range 32).any (fun c => s.channelOn c && (s.dchan c).hot)

/-- The code that shaft `k` takes when its pending step is in force. -/
def State.nextCode (s : State) (k : Nat) : Nat :=
  let n := s.pwr.step.get 0 k
  if n = 0 then s.fld (F.PWR_SHAFT_CLK.CUR k) else n - 1

/-- A step of shaft `k` waits for an instruction boundary; 0 for none. -/
def State.setStep (s : State) (k n : Nat) : State := { s with pwr := { s.pwr with step := s.pwr.step.set 0 k n } }

/-- The code that R753 gives shaft `k`, now at `cur`. -/
def State.adjusted (s : State) (k cur : Nat) : Nat :=
  let throttle := s.fld F.PWR_THERM.THROTTLE_C
  if s.hotter k throttle || s.memHot then (if cur < s.fld (F.PWR_SHAFT_CLK.FLOOR k) then cur + 1 else cur)
  else if s.cooler k throttle then (if s.fld (F.PWR_SHAFT_CLK.DIV k) < cur then cur - 1 else cur)
  else cur

/-- R753 for `n` shafts from `k` on. -/
def State.adjustShafts (s : State) (n k : Nat) : State :=
  match n with
  | 0 => s
  | j + 1 =>
    let cur := s.nextCode k
    let new := s.adjusted k cur
    (if s.shaftTripped k || new = cur then s else s.setStep k (new + 1)).adjustShafts j (k + 1)

/-- Take sensor readings, from sensor `n` on. -/
def State.readSensors (s : State) (l : List (BitVec 16)) (n : Nat) : State :=
  match l with
  | [] => s
  | t :: rest => (s.setFld (F.PWR_TEMP.TEMP n) t.toNat).readSensors rest (n + 1)

/-- THERMAL_ADJUST with the nine readings of this millisecond, signed in 1/16 °C (R753). -/
def execThermalAdjust (temps : List (BitVec 16)) (s : State) : Host.Outcome State Fault Refusal :=
  done (if s.mode = .off || !s.pwr.pllLocked then s else (s.readSensors (temps.take 9) 0).adjustShafts 8 0)

/-- Do all hewers of shaft `k` stand at an instruction boundary? -/
def State.shaftAtBoundary (s : State) (k : Nat) : Bool :=
  (List.range 64).all (fun i => let x := s.hew (64 * k + i); x.unit.isNone && x.hostBuf.isEmpty)

/-- CCLK_STEP: the code that waits takes effect at an instruction boundary of the shaft's hewers (R373, R753). -/
def execCclkStep (shaft : Fin 8) (s : State) : Host.Outcome State Fault Refusal :=
  let n := s.pwr.step.get 0 shaft
  done (if n = 0 || !s.pwr.pllLocked || !(s.shaftAtBoundary shaft) then s else (s.setFld (F.PWR_SHAFT_CLK.CUR shaft) (n - 1)).setStep shaft 0)

/-- The shafts that sensor `n` concerns (R754). -/
def sensorShafts (n : Nat) : List Nat := if n = 8 then List.range 8 else [n]

/-- THERMAL_TRIP of a sensor that reads TRIP_C or more (R754). -/
def execThermalTrip (sensor : Fin 9) (s : State) : Host.Outcome State Fault Refusal :=
  done (if s.mode = .off || s.pwr.tripped.contains sensor.val || !(s.hotter sensor (s.fld F.PWR_THERM.TRIP_C)) then s
    else
      let s1 := { s with pwr := { s.pwr with tripped := insertNat s.pwr.tripped sensor } }
      let s2 := (sensorShafts sensor).foldl (fun t k => (t.setFld (F.PWR_SHAFT_CLK.CUR k) 3).setStep k 0) s1
      ((s2.raise F.PWR_STATUS.TRIP).setFld F.PWR_STATUS.TRIP_SRC sensor).setReg Adr.PWR_TRIP_LOG (BitVec.ofNat 64 s.time.now))

/-- THERMAL_TRIP_END of a sensor that reads below TRIP_C − HYST: the shafts that no trip holds any longer return to FLOOR
(R754). -/
def execThermalTripEnd (sensor : Fin 9) (s : State) : Host.Outcome State Fault Refusal :=
  done (if s.mode = .off || !(s.pwr.tripped.contains sensor.val) || !(s.cooler sensor (s.fld F.PWR_THERM.TRIP_C)) then s
    else
      let s1 := { s with pwr := { s.pwr with tripped := eraseNat s.pwr.tripped sensor } }
      (sensorShafts sensor).foldl (fun t k =>
        if t.shaftTripped k then t else t.setFld (F.PWR_SHAFT_CLK.CUR k) (t.fld (F.PWR_SHAFT_CLK.FLOOR k))) s1)

/-- A divider code within the bounds of software (R752). -/
def clampCode (div floor code : Nat) : Nat := if code < div then div else if floor < code then floor else code

/-- A write of PWR_SHAFTs_CLK: FLOOR is at least DIV; outside a trip CUR, and a code that waits, lie between them (R752). -/
def State.shaftClkWrite (s : State) (k v : Nat) : State :=
  let div := bitsOf v 1 0
  let floor := if bitsOf v 9 8 < div then div else bitsOf v 9 8
  let s1 := (s.setFld (F.PWR_SHAFT_CLK.DIV k) div).setFld (F.PWR_SHAFT_CLK.FLOOR k) floor
  let wait := s.pwr.step.get 0 k
  if s.shaftTripped k then s1
  else (s1.setFld (F.PWR_SHAFT_CLK.CUR k) (clampCode div floor (s1.fld (F.PWR_SHAFT_CLK.CUR k)))).setStep k
    (if wait = 0 then 0 else clampCode div floor (wait - 1) + 1)

end Sys2Proof.Machine
end

