-- ==== Sys2Proof/Machine/Tally.lean ====
section
/-!
DEFINITION. Tally (R794 to R809): the writes of its control registers, counting of timing events, sampling control and the
bandwidth windows. The events that instructions cause are counted where they happen.
-/
namespace Sys2Proof.Machine

/-- TLY_STOP_WRITE (R798). -/
def execTlyStopWrite (stop : Bool) (s : State) : Host.Outcome State Fault Refusal := 
  done (if s.takesIo Adr.TLY_GCTL then s.setFld F.TLY_GCTL.STOP (b2n stop) else s)

/-- The events of R797 that count cycles, which the instructions do not count (log 27). -/
def timingEvent (e : Nat) : Bool :=
  e = 0x001 || e = 0x003 || e = 0x004 || e = 0x005

/-- COUNTER_OVERFLOW: `k` events of the timing event that counter `n` of hewer `h` selects; a sum past 2^48 − 1 wraps and sets
the OVF bit (R796). -/
def execCounterOverflow (h : HewerId) (n : Fin 8) (k : BitVec 48) (s : State) : Host.Outcome State Fault Refusal :=
  let e := s.fld (F.TLY_HWR_EVT.EVENT h n)
  done (if timingEvent e && s.counts h n e && s.domainOn (shaftDomain h) && s.pwr.pllLocked && s.mode != .off then
      s.addCount h n k.toNat
    else s)

/-- The PLM field a writer at privilege `pl` leaves: only M writes bit 2 (R809). -/
def plmWrite (old new pl : Nat) : Nat := if pl = 3 then new else new % 4 + old / 4 % 2 * 4

/-- A write of TLY_HWRh_EVTn at privilege `pl` (R809). -/
def State.evtWrite (s : State) (h n pl v : Nat) : State :=
  ((s.setFld (F.TLY_HWR_EVT.PLM h n) (plmWrite (s.fld (F.TLY_HWR_EVT.PLM h n)) (bitsOf v 14 12) pl)).setFld
    (F.TLY_HWR_EVT.BODY h n) (bitsOf v 11 10)).setFld (F.TLY_HWR_EVT.EVENT h n) (bitsOf v 9 0)

/-- May sampling start with rings of 2^`size` records (R805)? -/
def State.samplingOk (s : State) (h size : Nat) : Bool :=
  decide (1 ≤ size) && decide (size ≤ 12)
  && decide (s.fld (F.TLY_HWR_SBASE.BASE h) * 4096 + 2 ^ size * 64 ≤ s.dramSize)

/-- A write of TLY_HWRh_SCTL at privilege `pl`: EN is refused under R805, and SIZE stays while EN is 1. -/
def State.sctlWrite (s : State) (h pl v : Nat) : State :=
  let on := s.flag (F.TLY_HWR_SCTL.EN h)
  let size := if on then s.fld (F.TLY_HWR_SCTL.SIZE h) else bitsOf v 51 48
  let start := bitOf v 63 && !on
  let ok := s.samplingOk h size
  let bad := (on && bitsOf v 51 48 != size) || (start && !ok)
  let plm := plmWrite (s.fld (F.TLY_HWR_SCTL.PLM h)) (bitsOf v 62 60) pl
  let en := if start then ok else bitOf v 63
  let w := setBits (setBits (setBits v 62 60 plm) 51 48 size) 63 63 (b2n en)
  let s1 := s.setReg (Adr.TLY_HWR_SCTL h) (BitVec.ofNat 64 (setBits w 57 52 0))
  let s2 := if bad then s1.raise (F.TLY_HWR_STAT.ERR h) else s1
  if start && ok then (s2.modHew h (fun x => { x with smpTag := false })).reloadSample h else s2

/-- SAMPLING_ENABLE: a write of SCTL by M (R805). -/
def execSamplingEnable (h : HewerId) (value : Word) (s : State) : Host.Outcome State Fault Refusal :=
  done (if s.takesIo (Adr.TLY_HWR_SCTL h) then s.sctlWrite h 3 value.toNat else s)

/-- A write of TLY_HWRh_SBASE: nothing while EN is 1 (R805). -/
def State.sbaseWrite (s : State) (h v : Nat) : State :=
  if s.flag (F.TLY_HWR_SCTL.EN h) then s.raise (F.TLY_HWR_STAT.ERR h)
  else s.setFld (F.TLY_HWR_SBASE.BASE h) (bitsOf v 47 12)

/-- A write of TAIL of the sampling ring (R804). -/
def State.sampleTail (s : State) (h tail : Nat) : State :=
  if 2 ^ s.fld (F.TLY_HWR_SCTL.SIZE h) < (s.fld (F.TLY_HWR_SPTR.HEAD h) + 0x10000 - tail) % 0x10000 then
    s.raise (F.TLY_HWR_STAT.ERR h)
  else s.setFld (F.TLY_HWR_SPTR.TAIL h) tail

/-- SAMPLE_TAIL_WRITE (R804). -/
def execSampleTailWrite (h : HewerId) (tail : BitVec 16) (s : State) : Host.Outcome State Fault Refusal :=
  done (if s.takesIo (Adr.TLY_HWR_SPTR h) then s.sampleTail h tail.toNat else s)

/-! ### Bandwidth windows (R806, R807) -/

/-- WIN_US as it is stored. -/
def clampWindow (n : Nat) : Nat := if n < 10 then 10 else if 1000000 < n then 1000000 else n

/-- A write of TLY_BW_CTL: setting EN begins a window. -/
def State.bwCtlWrite (s : State) (v : Nat) : State :=
  let s1 := (s.setFld F.TLY_BW_CTL.WIN_US (clampWindow (bitsOf v 19 0))).setFld F.TLY_BW_CTL.EN (b2n (bitOf v 31))
  if bitOf v 31 && !(s.flag F.TLY_BW_CTL.EN) then { s1 with bwUs := s.time.us } else s1

/-- Copy the counts of port `p` at the end of a window. -/
def State.bwPort (s : State) (p : Nat) (count : Word) : State :=
  let keep := fun (a b : Nat) => if a < b then b else a
  let s1 := s.setReg (Adr.TLY_BW_LAST p) count
  (s1.setFld (F.TLY_BW_MAX.IN p) (keep (s.fld (F.TLY_BW_MAX.IN p)) (bitsOf count.toNat 63 32))).setFld (F.TLY_BW_MAX.OUT p)
    (keep (s.fld (F.TLY_BW_MAX.OUT p)) (bitsOf count.toNat 31 0))

/-- Copy the counts of `n` ports from `p` on; a port without a count has counted nothing. -/
def State.bwPorts (s : State) (l : List Word) (n p : Nat) : State :=
  match n with
  | 0 => s
  | k + 1 => (s.bwPort p (l.headD 0)).bwPorts l.tail k (p + 1)

/-- BW_WINDOW_END: each port's count of the window, IN in bits 63:32 and OUT in bits 31:0 (R807). -/
def execBwWindowEnd (counts : List Word) (s : State) : Host.Outcome State Fault Refusal :=
  let due := s.bwUs + s.fld F.TLY_BW_CTL.WIN_US
  done (if s.flag F.TLY_BW_CTL.EN && decide (due ≤ s.time.us) && s.domainOn 1 && s.mode != .off then
      let s1 := s.bwPorts counts 50 0
      { s1.setReg Adr.TLY_BW_SEQ (s1.reg Adr.TLY_BW_SEQ + 1) with bwUs := due }
    else s)

end Sys2Proof.Machine
end

