-- ==== Sys2Proof/Machine/IO.lean ====
section
/-!
DEFINITION. IO space (R5 to R8, R43 to R47, R255 to R257, R438, R837): the checks of an access, who may write which register,
what a write of each register does, and what a read returns and clears.
-/
namespace Sys2Proof.Machine

/-! ### Who writes -/

/-- The privilege whose rights a writer has: a hewer in U acts with those of S (R257), the manager and the adits with those of
S where a chapter grants nothing else (R611), a debug session and the boot controller with those of M (R731, R764). -/
def State.writerPl (s : State) (w : Writer) : Nat :=
  match w with
  | .hewer h => if (s.hew h).pl = 3 then 3 else 1
  | .manager => 1
  | .adit _ => 1
  | .debug _ => 3
  | .boot => 3

/-- The local source of a writer (R58). -/
def writerLoc (w : Writer) : Nat :=
  match w with
  | .hewer h => h
  | .manager => 0x700
  | .adit k => 0x700 + k
  | .debug _ => 0xF00
  | .boot => 0xF00

/-- The kind of a writer. -/
def byHewer (w : Writer) : Bool := match w with | .hewer _ => true | _ => false
def byDebug (w : Writer) : Bool := match w with | .debug _ => true | _ => false
def byAdit (w : Writer) : Bool := match w with | .adit _ => true | _ => false
def byHost (w : Writer) : Bool := match w with | .manager => true | .adit _ => true | _ => false

/-! ### The checks of an access (R46, R47, R438) -/

/-- The register that holds an IO address: one that begins there, or the upper half of a 64-bit one. -/
def regCovering (a : Nat) : Option RegDesc :=
  match findReg a with
  | some d => some d
  | none =>
    if a % 8 = 4 then
      match findReg (a - 4) with
      | some d => if d.width = 64 then some d else none
      | none => none
    else none

/-- The IO window ends here (R46). -/
def ioTop : Nat := 0x11000000

/-- The first check of R438 that an aligned access of `size` bytes fails, privilege to write aside. -/
def State.ioReason (s : State) (hewer : Option Nat) (a size : Nat) (isWrite : Bool) : Option Nat :=
  if ioTop ≤ a then some 2
  else match regCovering a with
    | none => some 1
    | some d =>
      if !(match hewer with | some h => s.ioPermitted h a size isWrite | none => true) then some 4
      else if d.width != size * 8 then some 3
      else if !(s.domainOn (regDomain a)) then some 5
      else none

/-! ### Rights to write (R257, R393, R454, R460, R542, R611, R793) -/

/-- How a write is taken. -/
inductive Right where
  | full | ignored | refused
deriving DecidableEq, Repr

/-- Registers whose chapter has them written from M only. -/
def mOnly (name : RegName) (a : Nat) : Bool :=
  match a / 0x1000000 with
  | 0x00 => true
  | 0x06 => true
  | 0x09 => true
  | 0x0A => decide (a < 0x0A010000)
  | 0x0C => true
  | 0x0D => true
  | 0x0E => true
  | _ => name = .CAN_GRACE || name = .CAN_HWR_CTL || name = .HWR_XROUTE

/-- Those of them that the manager writes through BAR0 (the endpoint, the adits' manager page, the flash, R611). -/
def managerToo (name : RegName) (a : Nat) : Bool :=
  a / 0x1000000 = 0x09 || a / 0x1000000 = 0x0A || name = .CFG_XSPI_CTL || name = .CFG_XSPI_ADDR || name = .CFG_XSPI_DATA
  || name = .FLT_LOG_PTR || name = .FLT_NOTIFY

/-- Is the register one of a skip channel's that only M and the manager write while its owner is 0 (R542)? -/
def State.skipM (s : State) (name : RegName) (n v : Nat) : Bool :=
  name = .SKP_CH_BURST
  || (name = .SKP_CH_CTL && (bitsOf v 24 16 != s.fld (F.SKP_CH_CTL.RATE n) || (decide (16 ≤ n) && bitsOf v 13 8 != s.skOwner n)))

/-- How a write of `v` from S, or from U under a grant, is taken. -/
def State.rightOfS (s : State) (h : Option Nat) (d : RegDesc) (a v : Nat) : Right :=
  let i := regIndex d a
  if d.name = .DBG_HWR_VTX || d.name = .DBG_HWR_VRX || d.name = .DBG_HWR_VT_STAT then (if h = some i then .full else .refused)
  else if mOnly d.name a then .refused
  else if d.name = .CAN_HWR_STAT && bitOf v 31 then .refused
  else if a / 0x1000000 = 0x07 && 0x07001000 ≤ a && (s.skOwner i != 0 || s.skipM d.name i v) then .refused
  else .full

/-- How a write of `v` is taken from a writer. -/
def State.writeRight (s : State) (w : Writer) (d : RegDesc) (a v : Nat) : Right :=
  match w with
  | .hewer h =>
    if d.name = .DBG_HWR_VTX && (s.hew h).pl = 3 && regIndex d a != h.val then .ignored
    else if d.name = .DBG_AUTH_CTL || d.name = .DBG_AUTH_RESP || d.name = .DBG_RKP_DATA || d.name = .DBG_RKP_CTL then .ignored
    else if (s.hew h).pl = 3 then .full
    else s.rightOfS (some h.val) d a v
  | .manager => if mOnly d.name a then (if managerToo d.name a then .full else .ignored) else .full
  | .adit k => if a / 0x10000 = 0xA00 + k.val then .full else .ignored
  | .debug _ => if d.name = .DBG_HWR_VTX then .ignored else .full
  | .boot => .full

/-! ### What a write does -/

/-- A register after a write, by the access types of its fields (R5); RW-L where `conf` says CONFIGURE. -/
def fieldsWrite (conf : Bool) (v : Nat) (l : List RegField) (old : Nat) : Nat :=
  match l with
  | [] => old
  | f :: rest =>
    let o := bitsOf old f.hi f.lo
    let n := bitsOf v f.hi f.lo
    let new :=
      match f.acc with
      | .rw => n
      | .rwl => if conf then n else o
      | .w1c => o - (o &&& n)
      | .ro => o
      | .wo => o
      | .rc => o
    fieldsWrite conf v rest (setBits old f.hi f.lo new)

/-- A write that only the access types of the fields rule (R5, R6). -/
def State.fieldWrite (s : State) (d : RegDesc) (a v : Nat) : State :=
  s.setReg a (BitVec.ofNat 64 (fieldsWrite (s.mode = .configure) v d.fields (s.reg a).toNat))

/-- CFG (R393, R725, R743). -/
def State.writeCfg (s : State) (d : RegDesc) (a i v : Nat) : State :=
  match d.name with
  | .CFG_MODE => s.modeWrite v
  | .CFG_CDT_WORD => s.cdtWordWrite (BitVec.ofNat 64 v)
  | .CFG_CDT_ENTRY => s.cdtEntryWrite i (BitVec.ofNat 64 v)
  | .CFG_XSPI_CTL => s.xspiWrite v
  | _ => s.fieldWrite d a v

/-- TIM (R67, R71, R82). -/
def State.writeTim (s : State) (d : RegDesc) (a i v : Nat) : State :=
  match d.name with
  | .TIM_CTL => s.timCtlWrite v
  | .TIM_SET => s.timSetWrite v
  | .TIM_CMP_TARGET => s.cmpWrite i a (BitVec.ofNat 64 v)
  | .TIM_CMP_PERIOD => s.cmpWrite i a (BitVec.ofNat 64 v)
  | .TIM_CMP_CTL => s.cmpCtlWrite i v
  | _ => s.fieldWrite d a v

/-- LOD (R88, R93, R96, R111, R126), with the limits of HORIZON and LEAD. -/
def State.writeLod (s : State) (w : Writer) (d : RegDesc) (a v : Nat) : State :=
  let n := v % 0x100000000
  match d.name with
  | .LOD_HORIZON => s.setFld F.LOD_HORIZON.HORIZON (if 160000 < n then 160000 else n)
  | .LOD_EGRESS_LEAD => s.setFld F.LOD_EGRESS_LEAD.LEAD (if n < 1600 then 1600 else if 800000 < n then 800000 else n)
  | .LOD_ADVANCE => s.advanceWrite v
  | .LOD_CFG_DATA => s.cfgDataWrite v
  | .LOD_SWR_CTL => s.swrCtlWrite (writerLoc w) v
  | .LOD_FRC_CTL => s.frcCtlWrite (writerLoc w) v
  | .LOD_WIN_COMMIT => s.winCommitWrite (BitVec.ofNat 64 v)
  | .LOD_ANM_MAP => s.anmMapWrite (regIndex d a) ((s.fieldWrite d a v).reg a)
  | _ => s.fieldWrite d a v

/-- A write of DRT_RELEASE (R148). -/
def State.releaseCmd (s : State) (w : Writer) (v : Nat) : State :=
  let st := s.stamp (writerLoc w)
  st.2.commandRelease (bitsOf v 15 0) st.1 (s.source (writerLoc w))

/-- DRT (R140, R148, R178, R183, R220, R835). -/
def State.writeDrt (s : State) (w : Writer) (d : RegDesc) (a i v : Nat) : State :=
  match d.name with
  | .DRT_CTL => if bitOf v 0 then s.drtEnSet else s.drtEnClear
  | .DRT_CMD => s.drtCmdWrite (BitVec.ofNat 64 v)
  | .DRT_RELEASE => s.releaseCmd w v
  | .DRT_GAL_POOL => s.galleryPoolWrite (BitVec.ofNat 64 v)
  | .DRT_HWR_POOL => s.hewerPoolWrite i (BitVec.ofNat 64 v)
  | _ => s.fieldWrite d a v

/-- HWR (R454, R455); ROUTE of HWR_IENA only from M. -/
def State.writeHwr (s : State) (pl : Nat) (d : RegDesc) (a i v : Nat) : State :=
  match d.name with
  | .HWR_IENA =>
    let s1 := s.setFld (F.HWR_IENA.EN i) (bitsOf v 6 0)
    if pl = 3 then s1.setFld (F.HWR_IENA.ROUTE i) (bitsOf v 14 8) else s1
  | .HWR_IHI_SET => s.ihiSet i (bitsOf v 3 0)
  | .HWR_XROUTE => s.xrouteWrite i v
  | _ => s.fieldWrite d a v

/-- MEM (R490, R530, R534). -/
def State.writeMem (s : State) (d : RegDesc) (a i v : Nat) : State :=
  match d.name with
  | .MEM_L2_PLD_CTL => s.preloadWrite v
  | .MEM_FDP_CTL => s.fdpCtlWrite v
  | .MEM_CH_PP_FORCE => s.ppForceWrite i v
  | _ => s.fieldWrite d a v

/-- SKP (R544, R559, R561, R564, R567, R571). -/
def State.writeSkp (s : State) (d : RegDesc) (a i v : Nat) : State :=
  match d.name with
  | .SKP_CH_CTL => s.skCtlWrite i v
  | .SKP_CH_STAT =>
    let s1 := if bitOf v 4 then s.setFld (F.SKP_CH_STAT.CFG_REJ i) 0 else s
    if bitOf v 3 then s1.skHaltClear i else s1
  | .SKP_CH_SHADOW_VALID => if bitOf v 0 then s.skCommit i else s.setFld (F.SKP_CH_SHADOW_VALID.VALID i) 0
  | .SKP_CH_BURST => s.skBurstWrite i v
  | _ => s.fieldWrite d a v

/-- PLK (R590, R596, R599, R601, R604). -/
def State.writePlk (s : State) (d : RegDesc) (a i v : Nat) : State :=
  match d.name with
  | .PLK_PARTNER => s.partnerWrite v
  | .PLK_EGR_DATA => if i = 3 then s.egrCommit (BitVec.ofNat 64 v) else s.setReg a (BitVec.ofNat 64 v)
  | .PLK_PORT_CTL => s.portCtlWrite i v
  | .PLK_PORT_GCL_CTL => s.gclWrite i v
  | _ => s.fieldWrite d a v

/-- HEP (R617, R640); GO of HEP_SCS_CMD is taken where the command is carried out (R762). -/
def State.writeHep (s : State) (d : RegDesc) (a v : Nat) : State :=
  match d.name with
  | .HEP_FREEZE_RELEASE => s.releaseWrite v
  | .HEP_MSIX_CTL => (s.fieldWrite d a v).flushMsix 0 256 0
  | .HEP_SCS_CMD => if s.flag F.HEP_SCS_CMD.BUSY then s else s.fieldWrite d a v
  | _ => s.fieldWrite d a v

/-- ADT (R646 to R652, R656, R657, R661). -/
def State.writeAdt (s : State) (w : Writer) (d : RegDesc) (a i j v : Nat) : State :=
  match d.name with
  | .ADT_POOL => s.poolWrite v
  | .ADT_CMD => s.aditCmd v
  | .ADT_ASGN_RES => s.asgnWrite i a (BitVec.ofNat 64 v)
  | .ADT_ASGN_RANGE => if s.sharesFixed i then s else s.fieldWrite d a v
  | .ADT_MBX_TOMGR => if byAdit w then s.mailboxWrite i false j (BitVec.ofNat 64 v) else s
  | .ADT_MBX_TOVF => if byAdit w then s else s.mailboxWrite i true j (BitVec.ofNat 64 v)
  | .ADT_MBX_CTL => s.mbxCtlWrite i (!(byAdit w)) v
  | .ADT_Q_CFG => s.queryCfgWrite i j v
  | .ADT_Q_RING => s.queryRingWrite i j v
  | .ADT_Q_PTR => if byAdit w then s.queryHead i j (bitsOf v 15 0) else s
  | .ADT_Q_CTL => s.queryCtlWrite i j v
  | _ => s.fieldWrite d a v

/-- ANM: an output that leaves use leaves its pin (R682). -/
def State.writeAnm (s : State) (d : RegDesc) (a i v : Nat) : State :=
  let s1 := s.fieldWrite d a v
  match d.name with
  | .ANM_AOUT_CFG => s1.pinCheck i
  | .ANM_PWM_CFG => s1.pinCheck (8 + i)
  | .ANM_DIO_CFG => s1.pinCheck (16 + i)
  | _ => s1

/-- FLT (R708). -/
def State.writeFlt (s : State) (d : RegDesc) (a v : Nat) : State :=
  match d.name with
  | .FLT_RETIRE => s.retireWrite v
  | _ => s.fieldWrite d a v

/-- PWR (R748, R752). -/
def State.writePwr (s : State) (d : RegDesc) (a i v : Nat) : State :=
  match d.name with
  | .PWR_DOM_REQ => s.domReqWrite v
  | .PWR_SHAFT_CLK => s.shaftClkWrite i v
  | _ => s.fieldWrite d a v

/-- DBG (R767, R771, R772 to R781, R784, R787, R788). -/
def State.writeDbg (s : State) (w : Writer) (d : RegDesc) (a i j v : Nat) : State :=
  match d.name with
  | .DBG_AUTH_CTL => (match w with | .debug p => s.authWrite p v | _ => s)
  | .DBG_RKP_CTL => s.rkpWrite v
  | .DBG_SWBP => s.swbpWrite v
  | .DBG_XTRIG => s.xtrigWrite v
  | .DBG_HWR_RC => s.rcWrite i v
  | .DBG_HWR_VTX => s.vtxWrite i v
  | .DBG_HWR_CMP_CTL => (s.fieldWrite d a v).cmpDisarm i j
  | _ => s.fieldWrite d a v

/-- TLY (R798, R804, R805, R807, R809). -/
def State.writeTly (s : State) (pl : Nat) (d : RegDesc) (a i j v : Nat) : State :=
  match d.name with
  | .TLY_BW_CTL => s.bwCtlWrite v
  | .TLY_HWR_EVT => s.evtWrite i j pl v
  | .TLY_HWR_SCTL => s.sctlWrite i pl v
  | .TLY_HWR_SBASE => s.sbaseWrite i v
  | .TLY_HWR_SPTR => s.sampleTail i (bitsOf v 31 16)
  | _ => s.fieldWrite d a v

/-- CAN (R460, R463, R468, R470): the manager and the debug memory master do not kick. -/
def State.writeCan (s : State) (w : Writer) (d : RegDesc) (a i v : Nat) : State :=
  match d.name with
  | .CAN_DEV_CTL => s.canDevCtlWrite v
  | .CAN_DEV_KICK => if byHewer w then s.devKick v else s
  | .CAN_HWR_CTL => s.canCtlWrite i v
  | .CAN_HWR_KICK => if bitOf v 0 then s.canKick w i else s
  | .CAN_HWR_STAT =>
    let s1 := s.fieldWrite d a (setBits v 31 31 0)
    if bitOf v 31 && !(byHost w) then s1.canClear i else s1
  | _ => s.fieldWrite d a v

/-- What a permitted write of register `d` at `a` does. -/
def State.applyWriteIo (s : State) (w : Writer) (d : RegDesc) (a v : Nat) : State :=
  let i := regIndex d a
  let j := regIndex2 d a
  let pl := s.writerPl w
  match a / 0x1000000 with
  | 0x00 => s.writeCfg d a i v
  | 0x01 => s.writeTim d a i v
  | 0x02 => s.writeLod w d a v
  | 0x03 => s.writeDrt w d a i v
  | 0x04 => s.writeHwr pl d a i v
  | 0x06 => s.writeMem d a i v
  | 0x07 => s.writeSkp d a i v
  | 0x08 => s.writePlk d a i v
  | 0x09 => s.writeHep d a v
  | 0x0A => s.writeAdt w d a i j v
  | 0x0B => s.writeAnm d a i v
  | 0x0C => s.writeFlt d a v
  | 0x0D => s.writePwr d a i v
  | 0x0E => s.writeDbg w d a i j v
  | 0x0F => s.writeTly pl d a i j v
  | _ => s.writeCan w d a i v

/-- A write by a writer: none where it raises exception 0x14 with reason 0x06. -/
def State.ioWrite (s : State) (w : Writer) (d : RegDesc) (a v : Nat) : Option State :=
  match s.writeRight w d a v with
  | .full => some (s.applyWriteIo w d a v)
  | .ignored => some s
  | .refused => none

/-! ### What a read returns -/

/-- One bit per number below `n` that a test accepts. -/
def maskOf (n : Nat) (f : Nat → Bool) : Nat := (List.range n).foldl (fun m i => setBits m i i (b2n (f i))) 0

/-- DRT_QUERY.STATE of a task (R132). -/
def taskState (t : Task) : Nat :=
  match t.act with
  | none => b2n t.enabled
  | some a =>
    match a.stage with
    | .heap => 2
    | .gathering => 2
    | .ready => 3
    | .localQueue _ => 3
    | .copying _ => 3
    | .running _ => 4
    | .emitted => 5
    | .accepted => 5

/-- DRT_QUERY of task `i`. -/
def State.queryWord (s : State) (i : Nat) : Nat :=
  let t := s.task i
  t.skips * 0x10000 + (match t.act with | some a => a.attempt % 8 * 8 | none => 0) + taskState t

/-- DRT_GALg_STATUS. -/
def State.galStatus (s : State) (g : Nat) : Nat :=
  maskOf 8 (fun k => (s.hew (g * 8 + k)).saved) * 2 ^ 40 + maskOf 8 (fun k => s.hewerInPool (g * 8 + k)) * 2 ^ 32
  + s.landFree g * 0x10000 + (s.readyQ g).length

/-- LOD_CFG_DATA of the slot addressed (R85). -/
def State.cfgDataWord (s : State) : Nat :=
  let x := s.slot (s.fld F.LOD_CFG_INDEX.SLOT)
  b2n x.dirOut * 0x8000 + b2n x.evt * 0x2000 + x.kind * 16 + x.age

/-- DBG_HWRh_RSTAT. -/
def State.rstatWord (s : State) (h : Nat) : Nat :=
  let x := s.hew h
  setBits (s.reg (Adr.DBG_HWR_RSTAT h)).toNat 31 28
    (b2n x.halted * 8 + b2n x.checkStopped * 4 + b2n x.bodyFrozen * 2 + b2n (x.forced && x.halted))

/-- HWR_IPEND (R451). -/
def State.ipendWord (s : State) (h : Nat) : Nat :=
  maskOf 7 (fun c => s.srcPending h (c + 1)) + b2n (!(s.localQ h).isEmpty) * 128

/-- FLT_GALg_MAP; POS and SPARE read 0 where `hide` says so (R15). -/
def State.galMapWord (s : State) (g : Nat) (hide : Bool) : Nat :=
  let v := (s.reg (Adr.FLT_GAL_MAP g)).toNat
  if hide then v / 2 ^ 36 * 2 ^ 36 else v

/-- What a read returns, without its side effect; `hide` for S and the host. -/
def State.ioValue (s : State) (hide : Bool) (d : RegDesc) (a : Nat) : Word :=
  let i := regIndex d a
  let j := regIndex2 d a
  let v := (s.reg a).toNat
  let n := fun (x : Nat) => BitVec.ofNat 64 x
  match d.name with
  | .CFG_ID => n s.cfgId
  | .CFG_CDT_WORD => s.cdt.words.get 0 (s.fld F.CFG_CDT_INDEX.ADDR)
  | .CFG_CDT_ENTRY => s.cdt.entries.get 0 i
  | .TIM_NOW => n s.time.now
  | .LOD_STATUS => n (setBits v 2 2 (b2n (s.closeDue && s.gathersOpen)))
  | .LOD_CFG_DATA => n s.cfgDataWord
  | .DRT_STATUS => n (setBits v 2 2 (b2n s.releasesHeld))
  | .DRT_DSP_STATUS => n (setBits v 2 2 (b2n s.landWait))
  | .DRT_QUERY => n (s.queryWord (s.fld F.DRT_QUERY_INDEX.INDEX))
  | .DRT_QUERY_NEXT =>
    let t := s.task (s.fld F.DRT_QUERY_INDEX.INDEX)
    n (if t.enabled && t.trigger = 0 then t.nextRel else 0)
  | .DRT_GAL_STATUS => n (s.galStatus i)
  | .HWR_IPEND => n (s.ipendWord i)
  | .SKP_ACTIVE => n (maskOf 64 (fun c => s.skState c = skActive))
  | .PLK_PORT_STATUS => n (setBits v 31 31 (b2n (s.portUp i)))
  | .PLK_EGR_DATA => n (s.egrDw (s.fld F.PLK_EGR_INDEX.ENTRY) i)
  | .HEP_ID => n (0x51200000 + Config.vendorId.toNat)
  | .ADT_CMD_BUSY => n (maskOf 64 (fun k => k != 0 && s.aditBusy k))
  | .ADT_STATUS => n (setBits (setBits v 2 2 (b2n (s.quiesced i && !(s.aditBusy i)))) 1 1 (b2n (s.aditBusy i)))
  | .ADT_CMD_CREDIT => n (s.creditLimit i * 0x10000 + s.creditAvail i)
  | .ADT_Q_CFG => if s.queryThere i j then n v else 0
  | .ADT_Q_RING => if s.queryThere i j then n v else 0
  | .ADT_Q_PTR => if s.queryThere i j then n v else 0
  | .ADT_Q_CTL => if s.queryThere i j then n v else 0
  | .ANM_AOUT_CODE =>
    let p := s.anm.outs.get OutPin.reset i
    n (b2n p.driven * 0x80000000 + p.code % 0x10000)
  | .FLT_STATUS => n (setBits (setBits v 5 5 (b2n (s.logSize = 0))) 0 0 (b2n s.deg))
  | .FLT_PARTNER_STAT => n (setBits v 31 31 (b2n s.ready))
  | .FLT_GAL_MAP => n (s.galMapWord i hide)
  | .CAN_DEV_STAT => n (setBits v 30 30 (b2n s.devCanaryHeld))
  | .CAN_HWR_STAT => n (setBits v 30 30 (b2n (s.hew i).halted))
  | .DBG_HALTED => n (maskOf 64 (fun b => (s.hew (64 * i + b)).halted))
  | .DBG_HWR_RSTAT => n (s.rstatWord i)
  | _ => n v

/-- The RC fields of a register that has been read are cleared (R5). -/
def fieldsRead (l : List RegField) (old : Nat) : Nat :=
  match l with
  | [] => old
  | f :: rest => fieldsRead rest (match f.acc with | .rc => setBits old f.hi f.lo 0 | _ => old)

/-- The side effect of a read by anyone but the debug memory master (R5, R788). -/
def State.readEffect (s : State) (hewer : Bool) (d : RegDesc) (a : Nat) : State :=
  if d.name = .DBG_HWR_VRX then (if hewer then s.vrxTaken (regIndex d a) else s)
  else if d.fields.any (fun f => f.acc = .rc) then s.setReg a (BitVec.ofNat 64 (fieldsRead d.fields (s.reg a).toNat))
  else s

/-- Does a reader see what the maps hide from S (R15, R764)? -/
def State.hidesFrom (s : State) (w : Writer) : Bool := s.writerPl w != 3

/-- A read by a reader: the value and the state after it. -/
def State.ioRead (s : State) (w : Writer) (d : RegDesc) (a : Nat) : Word × State :=
  (s.ioValue (s.hidesFrom w) d a, if byDebug w then s else s.readEffect (byHewer w) d a)

end Sys2Proof.Machine
end

