-- ==== Sys2Proof/Machine/Scesar.lean ====
section
/-!
DEFINITION. Scesar commands (R758 to R764, R788, R790 to R792) and the instructions of the JTAG port (R37, R756, R757, R770).
-/
namespace Sys2Proof.Machine

/-! ### STATUS codes (R760) -/

def scsOk : Nat := 0
def scsBusy : Nat := 1
def scsDenied : Nat := 2
def scsFault : Nat := 3
def scsPoison : Nat := 4
def scsOff : Nat := 5
def scsBad : Nat := 6
def scsRunning : Nat := 7
def scsInUse : Nat := 8

/-! ### Authority (R763, R768) -/

/-- The level of the session that path `p` holds. -/
def State.scsLevel (s : State) (p : DbgPath) : Nat :=
  if s.fld F.DBG_SESSION.PATH = pathCode p then s.fld F.DBG_SESSION.LEVEL else 0

/-- Does the other path hold a session? -/
def State.otherHolds (s : State) (p : DbgPath) : Bool :=
  s.fld F.DBG_SESSION.PATH != 0 && s.fld F.DBG_SESSION.PATH != pathCode p

/-- Registers that need no session (R763, R771). -/
def openReg (name : RegName) : Bool :=
  name = .DBG_SESSION || name = .DBG_AUTH_CTL || name = .DBG_AUTH_CHAL || name = .DBG_AUTH_RESP || name = .DBG_RKP_DATA
  || name = .DBG_RKP_CTL

/-- STATUS of a command that needs `level` on path `p`, before it does anything: 0 where it may go on. -/
def State.scsGate (s : State) (p : DbgPath) (level : Nat) : Nat :=
  if s.otherHolds p then scsInUse else if s.scsLevel p < level then scsDenied else scsOk

/-! ### The path's address register -/

/-- The address, space and width in force on a path; those of the physical function and of JTAG are separate. -/
def State.scsPath (s : State) (p : DbgPath) : ScsPath := match p with | .jtag => s.dbg.jtag | .pf => s.dbg.pf

def State.setScsPath (s : State) (p : DbgPath) (x : ScsPath) : State :=
  match p with
  | .jtag => { s with dbg := { s.dbg with jtag := x } }
  | .pf => { s with dbg := { s.dbg with pf := x } }

/-- Does a command with an access make the address advance (R759)? -/
def State.autoInc (s : State) (p : DbgPath) (size : Nat) : State :=
  let x := s.scsPath p
  if bitOf size 2 then s.setScsPath p { x with addr := x.addr + 2 ^ x.width } else s

/-- SETADDR (R759). -/
def State.scsSetAddr (s : State) (p : DbgPath) (size arg : Nat) : State :=
  let x := s.scsPath p
  match bitsOf arg 63 62 with
  | 0 => (s.setScsPath p { x with space := 0, addr := bitsOf arg 47 0, width := size % 4 }).scsResult p scsOk 0
  | 1 => (s.setScsPath p { x with space := 1, addr := bitsOf arg 31 0, width := size % 4 }).scsResult p scsOk 0
  | 2 =>
    (s.setScsPath p { x with space := 2, hewer := bitsOf arg 56 48, addr := bitsOf arg 11 0, width := size % 4 }).scsResult p scsOk 0
  | _ => s.scsResult p scsBad 0

/-! ### IO space -/

/-- STATUS of an IO access of `size` bytes: R45 to R47. While the root PLL is unlocked the fabric stops (R838), and only the debug
block's own registers are reached; the others answer BUSY (log 30). -/
def State.scsIoStatus (s : State) (a size : Nat) (isWrite : Bool) : Nat :=
  if a % size != 0 then scsFault
  else if !s.pwr.pllLocked && a / 0x1000000 != 0x0E then scsBusy
  else match s.ioReason none a size isWrite with
    | some 5 => scsOff
    | some _ => scsFault
    | none => scsOk

/-- STATUS of a debug write that R765, R774 or R788 restricts. -/
def State.scsHaltStatus (s : State) (d : RegDesc) (a v : Nat) : Nat :=
  if d.name = .DBG_HWR_RC then
    (if (bitOf v 0 || bitOf v 2 || bitOf v 3) && !s.haltAllowed then scsDenied
    else if bitOf v 2 && (s.hew (regIndex d a)).bodyFrozen then scsDenied
    else scsOk)
  else if d.name = .DBG_XTRIG && bitOf v 63 && !s.haltAllowed then scsDenied
  else scsOk

/-- A write of IO space by path `p` (R763, R764). -/
def State.scsIoWrite (s : State) (p : DbgPath) (a size v : Nat) : State :=
  match findReg a with
  | none =>
    let g := s.scsGate p 2
    s.scsResult p (if g != scsOk then g else s.scsIoStatus a size true) 0
  | some d =>
    let g := s.scsGate p (if openReg d.name then 0 else 2)
    let st := if g != scsOk then g else s.scsIoStatus a size true
    let st2 := if st != scsOk then st else s.scsHaltStatus d a v
    if st2 != scsOk then s.scsResult p st2 0
    else ((s.ioWrite (.debug p) d a v).getD s).scsResult p scsOk 0

/-- A read of IO space by path `p`: a peek (R7, R791). -/
def State.scsIoRead (s : State) (p : DbgPath) (a size : Nat) : State :=
  match findReg a with
  | none =>
    let g := s.scsGate p 1
    s.scsResult p (if g != scsOk then g else s.scsIoStatus a size false) 0
  | some d =>
    let g := if d.name = .DBG_SESSION then scsOk else s.scsGate p (if openReg d.name then 0 else 1)
    let st := if g != scsOk then g else s.scsIoStatus a size false
    if st != scsOk then s.scsResult p st 0
    else
      let r := s.ioRead (.debug p) d a
      r.2.scsResult p scsOk r.1.toNat

/-! ### D space (R790, R792) -/

/-- STATUS of a D-space access before it is made. -/
def State.scsMemStatus (s : State) (a n : Nat) (isWrite : Bool) : Nat :=
  let area := s.areaOf a
  if a % n != 0 || area = 0 then scsFault
  else if isWrite && (area = 2 || area = 4) then scsFault
  else if !s.pwr.pllLocked then scsBusy
  else if area = 1 && !(s.channelOn (s.channelOf a)) then scsOff
  else if area = 2 && !(s.domainOn 2) then scsOff
  else if area = 2 && !(s.flag F.LOD_STATUS.INIT_DONE) then scsBusy
  else scsOk

/-- A write of D space. -/
def State.scsMemWrite (s : State) (p : DbgPath) (a n v : Nat) : State :=
  let g := s.scsGate p 2
  let st := if g != scsOk then g else s.scsMemStatus a n true
  if st != scsOk then s.scsResult p st 0
  else if s.areaOf a = 3 then (s.hostWrite 0 (hostOffset a) (bytesLE n v) false).scsResult p scsOk 0
  else ((s.hubAccess a n srcDevice true).hewerWrite none a (bytesLE n v)).scsResult p scsOk 0

/-- A read of host memory waits for its completion (R622, R790). -/
def State.scsHostRead (s : State) (p : DbgPath) (a n : Nat) : State :=
  let o := hostOffset a
  if s.hostBlocked 0 o then
    let f := s.outDrop.freeBytes n
    f.2.scsResult p scsPoison (natLE f.1)
  else
    let r := s.hostRead 0 0xFFF 0 0 o n
    match r.2 with
    | none => s.scsResult p scsBusy 0
    | some t =>
      { r.1 with hep := { r.1.hep with dbgHost := some ⟨a, n, some t, none, none⟩ }, dbg := { r.1.dbg with readPath := some p } }

/-- A read of D space. -/
def State.scsMemRead (s : State) (p : DbgPath) (a n : Nat) : State :=
  let g := s.scsGate p 1
  let st := if g != scsOk then g else s.scsMemStatus a n false
  if st != scsOk then s.scsResult p st 0
  else match s.areaOf a with
    | 1 => (s.hubAccess a n srcDevice false).scsResult p (if s.poisoned a n then scsPoison else scsOk) (natLE (s.readBytes a n))
    | 2 =>
      let off := a - 0xF00000000000
      s.scsResult p scsOk (natLE (sliceBytes (s.windowBytes (off / 64)) (off % 64) n))
    | 3 => s.scsHostRead p a n
    | _ => s.scsResult p scsOk (natLE ((List.range n).map (fun i => Config.bootRom (a - 0xF20000000000 + i))))

/-! ### Hewer registers (R761) -/

/-- Is a hewer-register index assigned? -/
def hewerIndexOk (n : Nat) : Bool := decide (n ≤ 0x60) || (decide (0x400 ≤ n) && sysRegDefined (n - 0x400))

/-- The hewer register with an index. -/
def State.hewerReg (s : State) (h n : Nat) : Word :=
  let x := (s.hew h).landLocal
  if n < 0x20 then x.getW n
  else if n < 0x60 then
    let v := (x.v.get 0 ((n - 0x20) / 2)).toNat
    BitVec.ofNat 64 (if n % 2 = 0 then v else v / 2 ^ 64)
  else if n = 0x60 then x.pc
  else s.sysRead h (n - 0x400)

/-- A vector register with one of its doublewords replaced. -/
def Hewer.putHalf (x : Hewer) (r : Nat) (high : Bool) (v : Nat) : Hewer :=
  let old := (x.v.get 0 r).toNat
  let new := if high then setBits old 127 64 v else setBits old 63 0 v
  { x with v := x.v.set 0 r (BitVec.ofNat 128 new) }

/-- Write a hewer register; PSTAT as if written in M, and control state is in force at once. -/
def Hewer.putIndex (x : Hewer) (n : Nat) (v : Word) : Hewer :=
  if n < 0x20 then x.setW n v
  else if n < 0x60 then x.putHalf ((n - 0x20) / 2) (n % 2 = 1) v.toNat
  else if n = 0x60 then { x with pc := v, rom := 0 }
  else if n = 0x400 then { x with pstat := pstatWrite x.pstat v 3 }
  else { x.sysWrite (n - 0x400) v with ctl := [] }

/-- STATUS of an access to a hewer register. -/
def State.scsHewerStatus (s : State) (p : DbgPath) (level : Nat) (isWrite : Bool) : Nat :=
  let x := s.scsPath p
  let g := s.scsGate p level
  if g != scsOk then g
  else if !(hewerIndexOk x.addr) then scsBad
  else if x.width != 3 then scsFault
  else if !s.pwr.pllLocked then scsBusy
  else if !(s.domainOn (shaftDomain x.hewer)) then scsOff
  else if !(s.hew x.hewer).halted then scsRunning
  else if isWrite && decide (0x400 ≤ x.addr) && decide (sysAccess (x.addr - 0x400) 3 < 2) then scsFault
  else scsOk

/-- A read of a hewer register. -/
def State.scsHewerRead (s : State) (p : DbgPath) : State :=
  let st := s.scsHewerStatus p 1 false
  let x := s.scsPath p
  s.scsResult p st (if st = scsOk then (s.hewerReg x.hewer x.addr).toNat else 0)

/-- A write of a hewer register; discarded while BODY_FROZEN is 1 (R774). -/
def State.scsHewerWrite (s : State) (p : DbgPath) (v : Nat) : State :=
  let st := s.scsHewerStatus p 2 true
  let x := s.scsPath p
  if st != scsOk || (s.hew x.hewer).bodyFrozen then s.scsResult p st 0
  else (s.modHew x.hewer (fun y => y.landLocal.putIndex x.addr (BitVec.ofNat 64 v))).scsResult p st 0

/-! ### The commands (R759) -/

/-- Did the last command of a path make its access? -/
def State.scsDone (s : State) (p : DbgPath) : Bool :=
  let st := match p with | .jtag => s.dbg.jtag.status | .pf => s.fld F.HEP_SCS_CMD.STATUS
  st = scsOk || st = scsPoison || s.dbg.readPath = some p

/-- READ: where it makes its access, AUTOINC advances the address. -/
def State.scsRead (s : State) (p : DbgPath) (size : Nat) : State :=
  let x := s.scsPath p
  let t := match x.space with
    | 0 => s.scsMemRead p x.addr (2 ^ x.width)
    | 1 => s.scsIoRead p x.addr (2 ^ x.width)
    | _ => s.scsHewerRead p
  if t.scsDone p then t.autoInc p size else t

/-- WRITE. -/
def State.scsWrite (s : State) (p : DbgPath) (size arg : Nat) : State :=
  let x := s.scsPath p
  let v := arg % 2 ^ (8 * 2 ^ x.width)
  let t := match x.space with
    | 0 => s.scsMemWrite p x.addr (2 ^ x.width) v
    | 1 => s.scsIoWrite p x.addr (2 ^ x.width) v
    | _ => s.scsHewerWrite p v
  if t.scsDone p then t.autoInc p size else t

/-- VT_READ (R788). -/
def State.scsVtRead (s : State) (p : DbgPath) (arg : Nat) : State :=
  let h := bitsOf arg 40 32
  let g := s.scsGate p 1
  if g != scsOk then s.scsResult p g 0
  else (s.setFld (F.DBG_HWR_VT_STAT.TX_FULL h) 0).scsResult p scsOk (s.fld (F.DBG_HWR_VTX.DATA h))

/-- VT_WRITE (R788). -/
def State.scsVtWrite (s : State) (p : DbgPath) (arg : Nat) : State :=
  let h := bitsOf arg 40 32
  let g := s.scsGate p 1
  if g != scsOk then s.scsResult p g 0
  else if s.flag (F.DBG_HWR_VT_STAT.RX_FULL h) then s.scsResult p scsFault 0
  else ((s.setFld (F.DBG_HWR_VRX.DATA h) (bitsOf arg 31 0)).raise (F.DBG_HWR_VT_STAT.RX_FULL h)).scsResult p scsOk 0

/-- CLOSE (R770). -/
def State.scsClose (s : State) (p : DbgPath) : State :=
  if s.otherHolds p then s.scsResult p scsInUse 0 else (s.closePath p).scsResult p scsOk 0

/-- Carry out a command. -/
def State.scsOp (s : State) (p : DbgPath) (op size arg : Nat) : State :=
  match op with
  | 0 => s.scsResult p scsOk 0
  | 1 => s.scsSetAddr p size arg
  | 2 => s.scsRead p size
  | 3 => s.scsWrite p size arg
  | 4 => s.scsVtRead p arg
  | 5 => s.scsVtWrite p arg
  | 6 => s.scsClose p
  | _ => s.scsResult p scsBad 0

/-- A scan of the SCESAR register: Capture-DR shifts out STATUS and RESULT of the previous command, Update-DR starts the
next one, unless the previous one still runs (R758). -/
def State.scsScan (s : State) (op size arg : Nat) : State :=
  let x := s.dbg.jtag
  let s1 := { s with dbg := { s.dbg with ir := 0x10, scan := none } }
  if s.dbg.readPath = some .jtag then s1.emit (.tdo (scsBusy * 2 ^ 64 + x.result) 72)
  else (s1.emit (.tdo (x.status * 2 ^ 64 + x.result) 72)).scsOp .jtag op size arg

/-- GO of HEP_SCS_CMD with the fields that the write leaves (R762). -/
def State.scsGo (s : State) : State :=
  if s.flag F.HEP_SCS_CMD.BUSY then s
  else if !(s.flag F.DBG_CTL.PF_EN) then s.scsResult .pf scsDenied 0
  else
    let t := s.scsOp .pf (s.fld F.HEP_SCS_CMD.OP) (s.fld F.HEP_SCS_CMD.SIZE) (s.reg Adr.HEP_SCS_ARG).toNat
    if t.dbg.readPath = some .pf then t.raise F.HEP_SCS_CMD.BUSY else t

/-- Does the physical function's debug path take a request now? -/
def State.pfPathOpen (s : State) : Bool := s.hostReaches && (s.fn 0).power = 0 && !(s.fn 0).resetting

/-- A Scesar command on a path: a scan, or the manager's writes of HEP_SCS_ARG and HEP_SCS_CMD (R758, R762). -/
def State.scsCommand (s : State) (p : DbgPath) (op size arg : Nat) : State :=
  if !(s.domainOn 10) || s.mode = .off then s
  else match p with
    | .jtag => s.scsScan op size arg
    | .pf =>
      if !s.pfPathOpen || s.flag F.HEP_SCS_CMD.BUSY then s
      else
        (((s.setReg Adr.HEP_SCS_ARG (BitVec.ofNat 64 arg)).setFld F.HEP_SCS_CMD.OP op).setFld F.HEP_SCS_CMD.SIZE size).scsGo

/-- NOP_COMMAND (R759). -/
def execNopCommand (path : DbgPath) (s : State) : Host.Outcome State Fault Refusal := done (s.scsCommand path 0 0 0)

/-- SETADDR (R759). -/
def execSetaddr (path : DbgPath) (size : BitVec 4) (arg : Word) (s : State) : Host.Outcome State Fault Refusal :=
  done (s.scsCommand path 1 size.toNat arg.toNat)

/-- READ (R759, R790). -/
def execRead (path : DbgPath) (size : BitVec 4) (s : State) : Host.Outcome State Fault Refusal :=
  done (s.scsCommand path 2 size.toNat 0)

/-- WRITE (R759, R790). -/
def execWrite (path : DbgPath) (size : BitVec 4) (arg : Word) (s : State) : Host.Outcome State Fault Refusal :=
  done (s.scsCommand path 3 size.toNat arg.toNat)

/-- VT_READ of hewer `h` (R759, R788). -/
def execVtRead (path : DbgPath) (h : HewerId) (s : State) : Host.Outcome State Fault Refusal :=
  done (s.scsCommand path 4 0 (h.val * 2 ^ 32))

/-- VT_WRITE to hewer `h` (R759, R788). -/
def execVtWrite (path : DbgPath) (h : HewerId) (data : Word32) (s : State) : Host.Outcome State Fault Refusal :=
  done (s.scsCommand path 5 0 (h.val * 2 ^ 32 + data.toNat))

/-- CLOSE (R759, R770). -/
def execClose (path : DbgPath) (s : State) : Host.Outcome State Fault Refusal := done (s.scsCommand path 6 0 0)

/-! ### Writes of debug registers through a path (R767, R771) -/

/-- A write of a register of IO space on a path, without the path's address. -/
def State.scsPoke (s : State) (p : DbgPath) (a size v : Nat) : State :=
  if !(s.domainOn 10) || s.mode = .off then s
  else if p = .pf && (!s.pfPathOpen || !(s.flag F.DBG_CTL.PF_EN)) then s
  else s.scsIoWrite p a size v

/-- CHALLENGE: a write of DBG_AUTH_CTL with OP 1 and GO (R767 to R769). -/
def execChallenge (path : DbgPath) (level key : Fin 4) (s : State) : Host.Outcome State Fault Refusal :=
  done (s.scsPoke path Adr.DBG_AUTH_CTL 4 (level.val * 64 + key.val * 16 + 3))

/-- VERIFY: a write of DBG_AUTH_CTL with OP 2 and GO (R767). -/
def execVerify (path : DbgPath) (level key : Fin 4) (s : State) : Host.Outcome State Fault Refusal :=
  done (s.scsPoke path Adr.DBG_AUTH_CTL 4 (level.val * 64 + key.val * 16 + 5))

/-- ROOT_KEY_PROGRAM: a write of DBG_RKP_CTL.KEY (R771). -/
def execRootKeyProgram (path : DbgPath) (key : BitVec 16) (s : State) : Host.Outcome State Fault Refusal :=
  done (s.scsPoke path Adr.DBG_RKP_CTL 4 key.toNat)

/-! ### The JTAG port (R756, R757, R770) -/

/-- Load an instruction of the TAP; leaving EXTEST ends its drive. -/
def State.loadIr (s : State) (ir : Nat) : State := { s with dbg := { s.dbg with ir := ir, scan := none } }

/-- A scan of the bypass register. -/
def State.bypassScan (s : State) (ir : Nat) : State := (s.loadIr ir).emit (.tdo 0 1)

/-- EXTEST: it drives the pins and captures them where SCAN_EN_N permits, else it acts as BYPASS (R757); what the pins show is
a free value (log 30). -/
def execExtest (value : Word) (s : State) : Host.Outcome State Fault Refusal :=
  done (if s.mode = .off then s
    else if s.dbg.scanEn then
      let d := s.draw
      let t := (d.2.loadIr 0).emit (.tdo (d.1 % 2 ^ 64) 64)
      { t with dbg := { t.dbg with scan := some value } }
    else s.bypassScan 0)

/-- SAMPLE_PRELOAD: it captures the pins where SCAN_EN_N permits, else it acts as BYPASS (R757). -/
def execSamplePreload (s : State) : Host.Outcome State Fault Refusal :=
  done (if s.mode = .off then s
    else if s.dbg.scanEn then
      let d := s.draw
      (d.2.loadIr 1).emit (.tdo (d.1 % 2 ^ 64) 64)
    else s.bypassScan 1)

/-- The identification code (R756). -/
def idCode : Nat := 0x15120000 + Config.jedecId.toNat * 2 + 1

/-- IDCODE: the 32-bit code; while D10 is off it acts as BYPASS (R37, log 30). -/
def execIdcode (s : State) : Host.Outcome State Fault Refusal :=
  done (if s.mode = .off then s
    else if s.domainOn 10 then (s.loadIr 2).emit (.tdo idCode 32) else s.bypassScan 2)

/-- BYPASS (R756). -/
def execBypass (s : State) : Host.Outcome State Fault Refusal := done (if s.mode = .off then s else s.bypassScan 0x3F)

/-- DBGPWR: Update-DR with 1 sets bit 10 of PWR_DOM_REQ (R37, R756). -/
def execDbgpwr (on : Bool) (s : State) : Host.Outcome State Fault Refusal :=
  done (if s.mode = .off then s
    else
      let s1 := s.bypassScan 0x11
      if on then s1.domReqWrite (setBits (s.reg Adr.PWR_DOM_REQ).toNat 10 10 1) else s1)

/-- TEST_LOGIC_RESET: IDCODE is selected, and a session of the JTAG path closes (R756, R770). -/
def execTestLogicReset (s : State) : Host.Outcome State Fault Refusal :=
  done (if s.mode = .off then s else (s.loadIr 2).closePath .jtag)

end Sys2Proof.Machine
end

