-- ==== Sys2Proof/Machine/IoCmds.lean ====
section
/-!
DEFINITION. Accesses to IO space by every writer: `in` and `out` of hewers (R255, R832), BAR0 of the endpoint's functions (R609
to R612, R617, R637, R638, R645), and the commands that are writes of registers.
-/
namespace Sys2Proof.Machine

/-- A write that passed the checks of the access: none where it raises exception 0x14 with reason 0x06. GO of HEP_SCS_CMD
starts the command (R762). -/
def State.ioPerform (s : State) (w : Writer) (d : RegDesc) (a v : Nat) : Option State :=
  match s.ioWrite w d a v with
  | none => none
  | some t => some (if d.name = .HEP_SCS_CMD && bitOf v 0 && !(byDebug w) then t.scsGo else t)

/-! ### Hewers -/

/-- Exception 0x14 (R437, R438). -/
def ioExc (reason a : Nat) : Exc := mkExc 0x14 (reason * 2 ^ 56 + a % 0x100000000)

/-- Does a write of this register wait until the lode accepts writes (R102)? -/
def State.lodeHolds (s : State) (name : RegName) (v : Nat) : Bool :=
  !s.lodeAccepts
  && (name = .LOD_CFG_DATA || (name = .LOD_SWR_CTL && bitOf v 0) || (name = .LOD_FRC_CTL && (bitOf v 0 != bitOf v 1)))

/-- An IO read of `n` bytes at `a` into `rd`. -/
def State.inStep (s : State) (h : HewerId) (rd a n : Nat) : Step :=
  if a % n != 0 then .exc s (mkExc 0x03 a)
  else match s.ioReason (some h) a n false, findReg a with
    | some r, _ => .exc s (ioExc r a)
    | none, none => .exc s (ioExc 1 a)
    | none, some d =>
      let r := s.ioRead (.hewer h) d a
      .ok ((r.2.modHew h (fun x => x.setW rd r.1)).tally h 0x019) []

/-- An IO write of `n` bytes at `a`. -/
def State.outStep (s : State) (h : HewerId) (a n v : Nat) : Step :=
  if a % n != 0 then .exc s (mkExc 0x03 a)
  else match s.ioReason (some h) a n true, findReg a with
    | some r, _ => .exc s (ioExc r a)
    | none, none => .exc s (ioExc 1 a)
    | none, some d =>
      if s.lodeHolds d.name v then .held s
      else match s.ioPerform (.hewer h) d a v with
        | none => .exc s (ioExc 6 a)
        | some t => .ok (t.tally h 0x019) []

/-- in.w and in.d (R255, R832): the IO address is wa + DISP14. They complete every older access of the hewer first. -/
def execIoIn (h : HewerId) (wide : Bool) (rd ra : RegNo) (disp : BitVec 14) (s : State) : Host.Outcome State Fault Refusal :=
  let a := (s.regNow h ra + disp.signExtend 64).toNat
  done (s.runLong h ⟨wMem 0x38 rd ra wide disp.toNat, [ra.val], [], [rd.val], [], none, 0⟩
    (fun t => (t.sbFlush h).inStep h rd a (if wide then 8 else 4)))

/-- out.w and out.d (R255, R832): the low 32 bits or all of the register named in rd. -/
def execIoOut (h : HewerId) (wide : Bool) (rd ra : RegNo) (disp : BitVec 14) (s : State) : Host.Outcome State Fault Refusal :=
  let a := (s.regNow h ra + disp.signExtend 64).toNat
  let v := (s.regNow h rd).toNat
  done (s.runLong h ⟨wMem 0x39 rd ra wide disp.toNat, [ra.val, rd.val], [], [], [], none, 0⟩
    (fun t => (t.sbFlush h).outStep h a (if wide then 8 else 4) (if wide then v else v % 0x100000000)))

/-! ### BAR0 (R609 to R612, R617, R637, R638, R645) -/

/-- The blocks that HEP_CTL.SEL may name (R610). -/
def selNames (b : Nat) : Bool :=
  b = 0x00 || b = 0x01 || b = 0x02 || b = 0x03 || b = 0x06 || b = 0x08 || b = 0x0B || b = 0x0C || b = 0x0D || b = 0x0F || b = 0x10

/-- The IO address behind offset `off` of function `f`'s BAR0 (R609, R610, R651). -/
def State.bar0Addr (s : State) (f off : Nat) : Option Nat :=
  if f != 0 then (if off < 0x8000 then some (0x0A000000 + f * 0x10000 + off) else none)
  else
    let o := off % 0x1000000
    match off / 0x1000000 with
    | 0 => some (0x09000000 + o)
    | 1 => some (0x0A000000 + o)
    | 2 => some (0x07000000 + o)
    | _ =>
      let b := s.fld F.HEP_CTL.SEL
      if selNames b then some (b * 0x1000000 + o) else none

/-- The offset of function `f`'s BAR0 at which an IO address lies. -/
def State.bar0Off (s : State) (f a : Nat) : Option Nat :=
  let o := a % 0x1000000
  if f != 0 then (if a / 0x10000 = 0xA00 + f then some (a % 0x10000) else none)
  else match a / 0x1000000 with
    | 0x09 => some o
    | 0x0A => some (0x1000000 + o)
    | 0x07 => some (0x2000000 + o)
    | b => if selNames b && s.fld F.HEP_CTL.SEL = b then some (0x3000000 + o) else none

/-- Who writes through BAR0 of function `f`. -/
def bar0Writer (f : Fin 64) : Writer := if f = 0 then .manager else .adit f

/-- What the words of an adit's MSI-X table read before anything was written: vector control 1, the others 0. -/
def msixReset (dw : Nat) : Word32 := if dw % 4 = 3 then 1 else 0

/-- The register that a BAR0 request of `n` bytes reaches; none for the requests of R612. -/
def State.bar0Reg (s : State) (f off n : Nat) (isWrite : Bool) : Option (RegDesc × Nat) :=
  match s.bar0Addr f off with
  | none => none
  | some a =>
    if n = 0 || a % n != 0 then none
    else match s.ioReason none a n isWrite, findReg a with
      | none, some d => some (d, a)
      | _, _ => none

/-- A host read of BAR0. -/
def State.bar0Read (s : State) (f : Fin 64) (off n : Nat) : State :=
  if !(s.fnExists f) || (s.fn f).power != 0 || (s.fn f).resetting then s.emit .cplUr
  else if s.frozen f && !(f = 0 && decide (off < 0x1000000)) then s.emit .cplCa
  else if f != 0 && !(s.created f) then s.barErr.emit .cplUr
  else if f != 0 && decide (0x8000 ≤ off) then s.emit .cplUr
  else if f != 0 && decide (0x4000 ≤ off) && decide (off < 0x4100) && n = 4 && off % 4 = 0 then
    let dw := (off - 0x4000) / 4
    s.emit (.cplData (bytesLE 4 (s.hep.vfMsix.get (msixReset dw) (f * 64 + dw)).toNat) false)
  else if f != 0 && off = 0x4100 && n = 8 then s.emit (.cplData (bytesLE 8 (maskOf 16 (fun v => s.pba f v))) false)
  else match s.bar0Reg f off n false with
    | none => s.barErr.emit .cplUr
    | some (d, a) =>
      let r := s.ioRead (bar0Writer f) d a
      r.2.emit (.cplData (bytesLE n r.1.toNat) false)

/-- BAR0_READ of `len` bytes by function `f` (R611). -/
def execBar0Read (f : Fin 64) (off : BitVec 26) (len : Fin 4097) (s : State) : Host.Outcome State Fault Refusal :=
  done (if s.hostReaches then s.bar0Read f off.toNat len else s)

/-- Write a doubleword of an adit's MSI-X table; what its mask held back is sent (R617). -/
def State.vfMsixWrite (s : State) (f dw v : Nat) : State :=
  let w : Word32 := BitVec.ofNat 32 (if dw % 4 = 3 then v % 2 else if dw % 4 = 0 then v / 4 * 4 else v)
  let t := s.hep.vfMsix.set (msixReset dw) (f * 64 + dw) w
  { s with hep := { s.hep with vfMsix := t } }.flushMsix f 16 0

/-- A host write of BAR0. -/
def State.bar0Write (s : State) (f : Fin 64) (off : Nat) (data : List Byte) (ep : Bool) (header : Nat) : State :=
  let n := data.length
  let v := natLE data
  if !(s.fnExists f) || (s.fn f).power != 0 || (s.fn f).resetting then s
  else if s.frozen f && !(f = 0 && decide (off < 0x1000000)) then s.count F.HEP_COUNTS.FROZEN_WR 1
  else if f != 0 && !(s.created f) then s.barErr
  else if f != 0 && decide (0x8000 ≤ off) then s.recordPort f (off - 0x8000) data ep
  else if ep then
    let t := s.writeType
    ((t.2.poisonRx f 0 t.1).aerLog f 2).freeze (freezeSet 3 f) 3 header
  else if f != 0 && decide (0x4000 ≤ off) && decide (off < 0x4100) && n = 4 && off % 4 = 0 then
    s.vfMsixWrite f ((off - 0x4000) / 4) v
  else if f != 0 && off = 0x4100 && n = 8 then s
  else match s.bar0Reg f off n true with
    | none => s.barErr
    | some (d, a) => (s.ioPerform (bar0Writer f) d a v).getD s

/-- BAR0_WRITE by function `f`, with the first 16 bytes of the TLP's header (R611, R625). -/
def execBar0Write (f : Fin 64) (off : BitVec 26) (data : List Byte) (ep : Bool) (header : BitVec 128) (s : State) :
    Host.Outcome State Fault Refusal :=
  done (if s.hostReaches then s.bar0Write f off.toNat data ep header.toNat else s)

/-! ### Writes of registers as commands -/

/-- Does the boot controller write registers now (R731)? -/
def State.bootWrites (s : State) : Bool :=
  s.pwr.pllLocked && s.mode = .configure && decide (1 ≤ s.fld F.CFG_BOOT_STATUS.STAGE) && decide (s.fld F.CFG_BOOT_STATUS.STAGE ≤ 6)

/-- An aligned write of `n` bytes by a hewer outside `out`: the checks, the exception or the write. -/
def State.hewerIo (s : State) (h : HewerId) (a n v : Nat) : State :=
  if !(s.executesIo h) then s
  else if a % n != 0 then (s.tally h 0x014).takeExc h 0x03 (s.hew h).excPc (BitVec.ofNat 64 a)
  else match s.ioReason (some h) a n true, findReg a with
    | some r, _ => s.ioFault h r a
    | none, none => s.ioFault h 1 a
    | none, some d => (s.ioPerform (.hewer h) d a v).getD (s.ioFault h 6 a)

/-- A write of `n` bytes of IO space by any writer. -/
def State.ioCmd (s : State) (w : Writer) (a n v : Nat) : State :=
  match w with
  | .hewer h => s.hewerIo h a n v
  | .manager =>
    match s.bar0Off 0 a with
    | some o => if s.hostReaches then s.bar0Write 0 o (bytesLE n v) false 0 else s
    | none => s
  | .adit k =>
    match s.bar0Off k a with
    | some o => if s.hostReaches && k != 0 then s.bar0Write k o (bytesLE n v) false 0 else s
    | none => s
  | .debug p => s.scsPoke p a n v
  | .boot =>
    if !s.bootWrites || a % n != 0 then s
    else match s.ioReason none a n true, findReg a with
      | none, some d => (s.ioPerform .boot d a v).getD s
      | _, _ => s

/-- REGISTER_WRITE: a 32-bit or 64-bit write (R5, R6). -/
def execRegisterWrite (writer : Writer) (addr : Word32) (wide : Bool) (value : Word) (s : State) :
    Host.Outcome State Fault Refusal :=
  done (s.ioCmd writer addr.toNat (if wide then 8 else 4) (if wide then value.toNat else value.toNat % 0x100000000))

/-- CFG_CDT_WORD_WRITE (R393, R394). -/
def execCfgCdtWordWrite (writer : Writer) (value : Word) (s : State) : Host.Outcome State Fault Refusal :=
  done (s.ioCmd writer Adr.CFG_CDT_WORD 8 value.toNat)

/-- CFG_CDT_ENTRY_WRITE of entry `n` (R393, R395). -/
def execCfgCdtEntryWrite (writer : Writer) (n : Fin 64) (value : Word) (s : State) : Host.Outcome State Fault Refusal :=
  done (s.ioCmd writer (Adr.CFG_CDT_ENTRY n) 8 value.toNat)

/-- HALT: a write of DBG_HWRh_RC.HALT (R772). -/
def execHalt (writer : Writer) (h : HewerId) (s : State) : Host.Outcome State Fault Refusal :=
  done (s.ioCmd writer (Adr.DBG_HWR_RC h) 4 1)

/-- RELEASE: a write of DBG_HWRh_RC.RELEASE (R778). -/
def execRelease (writer : Writer) (h : HewerId) (s : State) : Host.Outcome State Fault Refusal :=
  done (s.ioCmd writer (Adr.DBG_HWR_RC h) 4 2)

/-- STEP: a write of DBG_HWRh_RC.STEP; the next command of the hewer executes its instruction (R776). -/
def execStep (writer : Writer) (h : HewerId) (s : State) : Host.Outcome State Fault Refusal :=
  done (s.ioCmd writer (Adr.DBG_HWR_RC h) 4 4)

/-- CLR_CHECKSTOP: a write of DBG_HWRh_RC.CLR_CHECKSTOP (R779). -/
def execClrCheckstop (writer : Writer) (h : HewerId) (s : State) : Host.Outcome State Fault Refusal :=
  done (s.ioCmd writer (Adr.DBG_HWR_RC h) 4 8)

/-- XTRIG_HALT of a gallery or of the device: a write of DBG_XTRIG.HALT (R780). -/
def execXtrigHalt (writer : Writer) (all : Bool) (gallery : Fin 64) (s : State) : Host.Outcome State Fault Refusal :=
  done (s.ioCmd writer Adr.DBG_XTRIG 8 (2 ^ 63 + b2n all * 2 ^ 61 + gallery.val))

/-- XTRIG_RELEASE of a gallery or of the device: a write of DBG_XTRIG.RELEASE (R781). -/
def execXtrigRelease (writer : Writer) (all : Bool) (gallery : Fin 64) (s : State) : Host.Outcome State Fault Refusal :=
  done (s.ioCmd writer Adr.DBG_XTRIG 8 (2 ^ 62 + b2n all * 2 ^ 61 + gallery.val))

/-- VTX_WRITE by hewer `h` of its own DBG_HWRh_VTX (R788). -/
def execVtxWrite (h : HewerId) (data : Word32) (s : State) : Host.Outcome State Fault Refusal :=
  done (s.ioCmd (.hewer h) (Adr.DBG_HWR_VTX h) 4 data.toNat)

/-- VRX_READ by hewer `h` of its own DBG_HWRh_VRX (R788). -/
def execVrxRead (h : HewerId) (s : State) : Host.Outcome State Fault Refusal :=
  let a := Adr.DBG_HWR_VRX h
  done (if !(s.executesIo h) then s
    else match s.ioReason (some h.val) a 4 false with
      | some r => s.ioFault h r a
      | none => s.vrxTaken h)

end Sys2Proof.Machine
end

