-- ==== Sys2Proof/Machine/Boot.lean ====
section
/-!
DEFINITION. Power-on reset, the boot controller's stages and the end of SELF-TEST (R719 to R736, R739). The items of a
section come decoded with the command (log 20).
-/
namespace Sys2Proof.Machine

/-! ### Power-on reset (R719 to R721, R818) -/

/-- What survives a power-on reset: the flash, the programmed root-key hash, the levels of the pins and clocks outside, and the
model's own counters; DRAM contents are not kept. -/
def State.powerOnReset (s : State) : State :=
  { State.reset with
    regs := s.regs.filter (fun e => decide (0x200 ≤ e.1) && decide (e.1 < 0x230))
    pwr := { State.reset.pwr with pllLocked := false, refclk := s.pwr.refclk, porn := false }
    mem := { State.reset.mem with lost := s.mem.lost + 1 }
    hep := { State.reset.hep with perst := s.hep.perst }
    flash := s.flash
    devnum := s.devnum
    big := s.big
    freeCtr := s.freeCtr
    out := s.out
    pending := s.pending }

/-- PORN_LOW: the mode becomes OFF (R719, R746, R818). -/
def execPornLow (s : State) : Host.Outcome State Fault Refusal :=
  done (s.powerOnReset.setFld F.CFG_MODE.CUR Mode.off.code)

/-- PORN_RISE: the straps are sampled (R719, R757). -/
def execPornRise (devnum : BitVec 12) (scanEnN : Bool) (s : State) : Host.Outcome State Fault Refusal :=
  done (if s.mode != .off || s.pwr.porn then s
    else { s with
      pwr := { s.pwr with porn := true }
      devnum := devnum.toNat
      dbg := { s.dbg with scanEn := !scanEnN } })

/-- CFG_BOOT_STATUS.UNBOUND (R730). -/
def State.showUnbound (s : State) : State := s.setFld F.CFG_BOOT_STATUS.UNBOUND (b2n s.rootKeyEmpty)

/-- POR_PLL_LOCK: the mode becomes CONFIGURE (R719, R746). -/
def execPorPllLock (s : State) : Host.Outcome State Fault Refusal :=
  done (if s.mode != .off || !s.pwr.porn || !s.pwr.refclk || s.pwr.pllLocked then s
    else ({ s with pwr := { s.pwr with pllLocked := true } }.toMode .configure).showUnbound)

/-! ### The stages -/

/-- May stage `n` be worked on now? -/
def State.stageDue (s : State) (n : Nat) : Bool :=
  s.mode = .configure && s.pwr.pllLocked && s.fld F.CFG_BOOT_STATUS.STAGE = n - 1

def State.setStage (s : State) (n : Nat) : State := s.setFld F.CFG_BOOT_STATUS.STAGE n

/-- Has start-up failed? -/
def State.bootFailed (s : State) : Bool := s.fld F.CFG_BOOT_STATUS.STAGE = 8

/-- The configuration registers of the endpoint at their reset values. -/
def State.hepDefault (s : State) : State :=
  { s with regs := s.regs.filter (fun e => e.1 != Adr.HEP_CTL && e.1 != Adr.HEP_BAR2
      && !(decide (Adr.HEP_OSEG 0 0 ≤ e.1) && decide (e.1 ≤ Adr.HEP_OSEG 63 63))) }

/-- D5 comes on, and D1 before it where the image has switched that off: a domain is on only while its parents are (R32, R735,
log 26). -/
def State.bootHost (s : State) : State :=
  let s1 := if s.domainOn 1 then s else ((s.setDomain 1 true).domainComes 1 0)
  let s2 := s1.setFld F.PWR_DOM_REQ.REQ (setBits (setBits (s1.fld F.PWR_DOM_REQ.REQ) 4 4 1) 0 0 1)
  if s2.domainOn 5 then s2 else s2.d5On

/-- Start-up fails with a code at a section (R734, R735). -/
def State.bootFail (s : State) (err section_ : Nat) : State :=
  (((s.setStage 8).setFld F.CFG_BOOT_STATUS.ERR err).setFld F.CFG_BOOT_STATUS.SECTION section_).bootHost.hepDefault

/-! ### The image in the flash (R726 to R728) -/

/-- A little-endian number of `n` bytes in the image. -/
def State.imageNum (s : State) (off n : Nat) : Nat := natLE (s.flashBytes off n)

def State.imageLength (s : State) : Nat := s.imageNum 0x08 8
def State.imageSections (s : State) : Nat := s.imageNum 0x06 2

/-- A section entry (R727). -/
structure ImageSection where
  kind : Nat
  flags : Nat
  device : Nat
  offset : Nat
  size : Nat
  /-- the reserved bytes -/
  rest : Nat
deriving DecidableEq, Repr

/-- Entry `n` of the section table. -/
def State.imageSection (s : State) (n : Nat) : ImageSection :=
  let a := 0x20 + 32 * n
  ⟨s.imageNum a 1, s.imageNum (a + 1) 1, s.imageNum (a + 2) 2, s.imageNum (a + 8) 8, s.imageNum (a + 16) 8,
    s.imageNum (a + 4) 4 + s.imageNum (a + 24) 8⟩

/-- The section types of R731 in their order. -/
def sectionOrder : List Nat := [0x01, 0x02, 0x03, 0x09, 0x04, 0x05, 0x06, 0x07, 0x08, 0x0A, 0x0B]

/-- Does section `x` keep the rules of R727 and R728 that concern it alone? -/
def State.sectionOk (s : State) (x : ImageSection) : Bool :=
  sectionOrder.contains x.kind && decide (x.flags ≤ 1) && decide (x.device < 0x1000) && x.rest = 0
  && x.offset % 64 = 0 && decide (0x1000 ≤ x.offset) && decide (x.offset + x.size ≤ s.imageLength - 256)
  && (2 < x.kind || decide (x.offset + x.size ≤ 0x100000))

/-- Does section `n` overlap one of those before it? -/
def State.sectionOverlaps (s : State) (n : Nat) : Bool :=
  let x := s.imageSection n
  (List.range n).any (fun i => let y := s.imageSection i; overlap x.offset x.size y.offset y.size)

/-- Is section `n` wrong? -/
def State.sectionBad (s : State) (n : Nat) : Bool := !(s.sectionOk (s.imageSection n)) || s.sectionOverlaps n

/-- Is section `n` of a type to be applied here (R727)? -/
def State.sectionApplies (s : State) (kind n : Nat) : Bool :=
  let x := s.imageSection n
  x.kind = kind && (x.flags % 2 = 0 || x.device = s.devnum)

/-- Are the fixed fields of the header right? -/
def State.headerFixed (s : State) : Bool :=
  s.imageNum 0 4 = 0x52424F4C && s.imageNum 4 2 = 1 && s.imageNum 0x14 1 = 0xA1 && s.imageNum 0x15 3 = 0 && s.imageNum 0x1C 4 = 0

/-- Does VARIANTS name this part? -/
def State.variantOk (s : State) : Bool := bitOf (s.imageNum 0x10 4) (if s.big then 1 else 0)

/-- Are LENGTH and SECTIONS in range? -/
def State.lengthOk (s : State) : Bool :=
  let n := s.imageLength
  decide (1 ≤ s.imageSections) && decide (s.imageSections ≤ 64) && decide (0x2000 ≤ n) && decide (n ≤ 0x10000000) && n % 256 = 0
  && decide (n ≤ s.fld F.CFG_XSPI_INFO.SIZE_MIB * 0x100000)

/-- BOOT_DISCOVERY: the flash answers with its size and its octal modes: 0 none, 1 at 100 MHz, 2 at 200 MHz (R723). -/
def execBootDiscovery (ok : Bool) (octal : Fin 3) (sizeMib : BitVec 16) (s : State) : Host.Outcome State Fault Refusal :=
  done (if !(s.stageDue 1) then s
    else if !ok then (s.setStage 1).bootFail 1 0
    else ((s.setStage 1).setFld F.CFG_XSPI_INFO.MODE (octal.val + 1)).setFld F.CFG_XSPI_INFO.SIZE_MIB sizeMib.toNat)

/-- The checks of stage 2 in the order of their codes (R726 to R728). -/
def State.checkHeader (s : State) : State :=
  if !s.headerFixed then s.bootFail 2 0
  else if !s.variantOk then s.bootFail 3 0
  else if !s.lengthOk then s.bootFail 4 0
  else match (List.range s.imageSections).find? s.sectionBad with
    | some n => s.bootFail 5 n
    | none => s

/-- BOOT_HEADER (R726 to R728). -/
def execBootHeader (readError : Bool) (s : State) : Host.Outcome State Fault Refusal :=
  done (if !(s.stageDue 2) then s
    else if readError then (s.setStage 2).bootFail 1 0
    else (s.setStage 2).checkHeader)

/-! ### Sections (R731) -/

/-- May an IO write of a section of this type go to `a`: the limits of its block (ERR 0x09 of R734)? -/
def sectionReaches (kind a : Nat) (d : RegDesc) : Bool :=
  let b := a / 0x1000000
  match kind with
  | 0x01 => b = 0x0D || b = 0x01
  | 0x02 => b = 0x06
  | 0x09 => d.name = .CFG_CDT_INDEX || d.name = .CFG_CDT_WORD || d.name = .CFG_CDT_ENTRY
  | 0x04 => true
  | 0x05 => b = 0x02
  | 0x06 => b = 0x08 || b = 0x0C
  | 0x07 => b = 0x0B
  | 0x08 => b = 0x03
  | 0x0B => b = 0x0E
  | _ => false

/-- What an IO write of a section may end in besides success: MICROCODE refused, EN refused (R399, R734). -/
def State.ioRejected (s : State) (kind : Nat) (d : RegDesc) (a v : Nat) : Nat :=
  if kind = 0x09 && d.name = .CFG_CDT_ENTRY && entryRefused v then 0x0A
  else if d.name = .DRT_CTL && a = Adr.DRT_CTL && bitOf v 0 && !(s.flag F.DRT_CTL.EN) && !s.drtConfigOk then 0x0B
  else 0

/-- The memory-side cache locks the region at once where EN has been set (R134, R178). -/
def State.lockNow (s : State) : State :=
  if s.flag F.DRT_CTL.EN && !(s.flag F.DRT_STATUS.READY) && s.domainOn 11 then (s.setFld F.DRT_STATUS.READY 1).mscLock else s

/-- An IO write of section `n` (R731). -/
def State.bootIo (s : State) (kind n a size v : Nat) : State :=
  match findReg a with
  | none => s.bootFail 9 n
  | some d =>
    if a % size != 0 || (s.ioReason none a size true).isSome || !(sectionReaches kind a d) then s.bootFail 9 n
    else
      let s1 := (s.ioPerform .boot d a v).getD s
      let err := s.ioRejected kind d a v
      if err != 0 then s1.bootFail err n else if kind = 0x08 || kind = 0x04 then s1.lockNow else s1

/-- The staging area: the top LENGTH − 1 MiB bytes of usable DRAM (R732). -/
def State.stagingBase (s : State) : Nat := s.dramSize - (s.imageLength - 0x100000)

/-- A PARTITIONS segment, or one of TASKS, which lies in the draught region or the save area (R731, R734). -/
def State.bootSegment (s : State) (kind n a : Nat) (data : List Byte) : State :=
  let len := data.length
  let save := s.fld F.DRT_SAVE_BASE.BASE * 0x100000
  let inside := fun (base size : Nat) => decide (base ≤ a) && decide (a + len ≤ base + size)
  if kind = 0x08 && !(inside s.regionBase s.regionSize || inside save 0x100000) then s.bootFail 9 n
  else if s.stagingBase < a + len || !(s.dramReach a len) then s.bootFail 0x0C n
  else s.dmaWrite a data

/-- One item of section `n` of a type (R731). -/
def State.bootItem (s : State) (kind n : Nat) (x : BootItem) : State :=
  if s.bootFailed then s
  else match x with
    | .io a z v => s.bootIo kind n a.toNat (2 ^ z.val) (if z.val = 3 then v.toNat else v.toNat % 2 ^ (8 * 2 ^ z.val))
    | .segment a data => if kind = 0x03 || kind = 0x08 then s.bootSegment kind n a.toNat data else s.bootFail 9 n
    | .portRole p r =>
      if kind = 0x01 then { s with time := { s.time with roles := s.time.roles.set 0 p r } } else s.bootFail 9 n
    | .bootEntry a => if kind = 0x03 then s.setFld F.CFG_BOOT_ENTRY.ENTRY (a.toNat / 4) else s.bootFail 9 n
    | .recovEntry a => if kind = 0x03 then s.setFld F.CFG_RECOV_ENTRY.ENTRY (a.toNat / 4) else s.bootFail 9 n
    | .enable i =>
      if kind != 0x08 then s.bootFail 9 n
      else
        let s1 := s.drtCmdWrite (BitVec.ofNat 64 (i.toNat * 2 ^ 16 + 3))
        if s1.fld F.DRT_CMD_STATUS.RESULT = 0 then s1 else s1.bootFail 0x0B n
    | .keyData k =>
      if kind = 0x0A then { s with dbg := { s.dbg with keyStore := s.dbg.keyStore ++ [k] } } else s.bootFail 9 n
    | .debugKey i k =>
      if kind = 0x0B then { s with dbg := { s.dbg with keys := s.dbg.keys.filter (fun e => e.1 != i.val) ++ [(i.val, k)] } }
      else s.bootFail 9 n

/-- The items of section `n`. -/
def State.bootItems (s : State) (kind n : Nat) (l : List BootItem) : State :=
  match l with
  | [] => s
  | x :: rest => (s.bootItem kind n x).bootItems kind n rest

/-- Initialise the lode and wait for it (R123, R733). -/
def State.bootLode (s : State) : State := if s.domainOn 2 then s.initLode.initComplete else s

/-- The sections of one type, in the order of the section table; the first SIGNALS section initialises the lode. -/
def State.bootType (s : State) (items : List (List BootItem)) (kind : Nat) : State :=
  let l := (List.range s.imageSections).filter (s.sectionApplies kind)
  let s1 := if kind = 0x05 && !l.isEmpty then s.bootLode else s
  l.foldl (fun t n => if t.bootFailed then t else t.bootItems kind n (items.getD n [])) s1

/-- Sections of several types, in order. -/
def State.bootTypes (s : State) (items : List (List BootItem)) (kinds : List Nat) : State :=
  match kinds with
  | [] => s
  | k :: rest => if s.bootFailed then s else (s.bootType items k).bootTypes items rest

/-- BOOT_EARLY_SECTIONS: CLOCK and DRAM are applied, the switch that they ask for completes, and the channels train with the
failing steps in `fails` (R532, R728, R731, R734). -/
def execBootEarlySections (items : List (List BootItem)) (fails : BitVec 128) (readError : Bool) (s : State) :
    Host.Outcome State Fault Refusal :=
  done (if !(s.stageDue 3) then s
    else if readError then (s.setStage 3).bootFail 1 0
    else
      let s1 := (s.setStage 3).bootTypes items [0x01, 0x02]
      if s1.bootFailed then s1
      else
        let s2 := if s1.flag F.PWR_STATUS.BUSY then s1.switchDone fails.toNat else s1
        if s2.flag F.MEM_STATUS.TRAIN_FAIL then s2.bootFail 6 0 else s2)

/-- BOOT_STREAM: the bytes beyond the first 1 MiB go to the staging area (R732); DRAM that cannot take them counts as not
trained (log 20). -/
def execBootStream (readError : Bool) (s : State) : Host.Outcome State Fault Refusal :=
  done (if !(s.stageDue 4) then s
    else if readError then (s.setStage 4).bootFail 1 0
    else
      let n := s.imageLength - 0x100000
      if n = 0 then s.setStage 4
      else if !(s.dramReach s.stagingBase n) then (s.setStage 4).bootFail 6 0
      else (s.setStage 4).dmaWrite s.stagingBase (s.flashBytes 0x100000 n))

/-- The public key of the trailer (R729). -/
def State.trailerKey (s : State) : List Byte := s.flashBytes (s.imageLength - 256) 97

/-- Does the signature verify with the trailer key (R729)? -/
def State.imageVerifies (s : State) : Bool :=
  let n := s.imageLength
  Config.ecdsaVerify s.trailerKey (s.flashBytes 0 (n - 256)) (s.flashBytes (n - 128) 96)

/-- Does the hash of the trailer key equal CFG_ROOTKEY_HASH (R729)? -/
def State.rootKeyMatches (s : State) : Bool :=
  Config.sha384 s.trailerKey = (List.range 6).map (fun i => s.reg (Adr.CFG_ROOTKEY_HASH i))

/-- BOOT_VERIFY (R729, R730, R734). -/
def execBootVerify (s : State) : Host.Outcome State Fault Refusal :=
  done (if !(s.stageDue 5) then s
    else
      let s1 := (s.setStage 5).showUnbound
      if !s.imageVerifies then s1.bootFail 7 0
      else if !s.rootKeyEmpty && !s.rootKeyMatches then s1.bootFail 8 0
      else s1)

/-- Start the hewers of the shafts from `k` on, `n` of them, that are on (R736). -/
def State.startShafts (s : State) (n k : Nat) : State :=
  match n with
  | 0 => s
  | j + 1 => (if s.domainOn (12 + k) then s.startHewers 64 (64 * k) else s).startShafts j (k + 1)

/-- Stage 7: DONE, CFG_IMAGE and the start of the hewers (R726, R736). -/
def State.bootFinish (s : State) : State :=
  let s1 := ((s.setStage 7).raise F.CFG_BOOT_STATUS.DONE).setFld F.CFG_IMAGE.VERSION (s.imageNum 0x18 4)
  (s1.setFld F.CFG_IMAGE.LENGTH_KIB (s.imageLength / 1024)).startShafts 8 0

/-- Does a SIGNALS section apply here? -/
def State.hasSignals (s : State) : Bool := (List.range s.imageSections).any (s.sectionApplies 0x05)

/-- BOOT_APPLY: the other sections in the order of R731, then stage 7. -/
def execBootApply (items : List (List BootItem)) (s : State) : Host.Outcome State Fault Refusal :=
  done (if !(s.stageDue 6) then s
    else
      let s1 := s.setStage 6
      let s2 := if s1.hasSignals then s1 else s1.bootLode
      let s3 := s2.bootTypes items (sectionOrder.drop 2)
      if s3.bootFailed then s3 else s3.bootFinish)

/-! ### The end of SELF-TEST (R739) -/

/-- Twins that the tests retire, from twin `t` on, `n` of them. -/
def State.testTwins (s : State) (mask n t : Nat) : State :=
  match n with
  | 0 => s
  | k + 1 => (if mask.testBit t then s.twinLasting t false else s).testTwins mask k (t + 1)

/-- The twins of a mask that serve. -/
def State.testedTwins (s : State) (mask : Nat) : List Nat := (List.range 576).filter (fun t => mask.testBit t && s.twinServes t)

/-- Ways that the tests disable. -/
def State.testWays (s : State) (l : List (Fin 1024)) : State :=
  match l with
  | [] => s
  | u :: rest =>
    let g := u.val / 16
    let w := u.val % 16
    (if s.wayServes g w then (s.wayLasting g w).count F.CFG_ST_RESULT.WAYS 1 else s).testWays rest

/-- SELF_TEST_END with what the tests found: twins, ways (gallery × 16 + way), channels whose reserve rows failed, and the
compared pairs of the hub (R739). -/
def execSelfTestEnd (twins : BitVec 576) (ways : List (Fin 1024)) (channels : BitVec 32) (hub : Bool) (s : State) :
    Host.Outcome State Fault Refusal :=
  done (if s.mode != .selfTest || !s.pwr.pllLocked then s
    else
      let trained := maskOf 32 (fun c => channels.toNat.testBit c && s.channelOn c)
      let s1 := (s.setFld F.CFG_ST_RESULT.WAYS 0).setFld F.CFG_ST_RESULT.TWINS (s.testedTwins twins.toNat).length
      let s2 := (s1.testTwins twins.toNat 576 0).testWays ways
      let s3 := (s2.raise F.CFG_ST_RESULT.RAN).setFld F.CFG_ST_RESULT.CHANNELS trained
      let s4 := if hub || trained != 0 then s3.raise F.CFG_ST_RESULT.FATAL else s3
      (s4.toMode .configure))

end Sys2Proof.Machine
end

