-- ==== Sys2Proof/Machine/Branch.lean ====
section
/-!
DEFINITION. Transfers and their delay slots (R242 to R245, R289 to R295), `rep` (R296 to R300), and the prediction
structures that transfers train (R354 to R363).
-/
namespace Sys2Proof.Machine

/-! ### Prediction (R354 to R360) -/

/-- Kinds of a BTB entry: conditional, jump, call, indirect, return. -/
def kindCond : Nat := 0
def kindJump : Nat := 1
def kindCall : Nat := 2
def kindIndirect : Nat := 3
def kindReturn : Nat := 4

/-- The set of the BTB that a PC uses. -/
def btbSet (pc : Nat) : Nat := bitsOf pc 8 2

/-- The BTB's target for a transfer, if it hits. -/
def Predictor.btbTarget (p : Predictor) (kind pc : Nat) : Option Nat :=
  ((p.btb.get [] (btbSet pc)).find? (fun e => e.1 = kind && e.2.1 = pc)).map (fun e => e.2.2)

/-- Touch or allocate an entry: it becomes the most recently used of its set (R354, R360). -/
def Predictor.btbTouch (p : Predictor) (kind pc target : Nat) : Predictor :=
  let l := (p.btb.get [] (btbSet pc)).filter (fun e => !(e.1 = kind && e.2.1 = pc))
  { p with btb := p.btb.set [] (btbSet pc) (((kind, pc, target) :: l).take 4) }

/-- The counter that a conditional branch reads (R355). -/
def Predictor.counterAt (p : Predictor) (pc : Nat) : Nat := p.pattern.get 1 (bitsOf pc 13 2 ^^^ p.history)

/-- The counter of a conditional branch moves one step towards its outcome, at the history in force when it was predicted (R355). -/
def Predictor.train (p : Predictor) (pc : Nat) (taken : Bool) : Predictor :=
  let i := bitsOf pc 13 2 ^^^ p.history
  let c := p.pattern.get 1 i
  { p with pattern := p.pattern.set 1 i (if taken then (if c < 3 then c + 1 else 3) else c - 1) }

/-- A direction, predicted or actual, is shifted into the history (R357, R359). -/
def Predictor.shift (p : Predictor) (taken : Bool) : Predictor := { p with history := (p.history * 2 + b2n taken) % 4096 }

/-- A return address is pushed onto the prediction return stack (R357). -/
def Predictor.push (p : Predictor) (ret : Nat) : Predictor := { p with prs := (ret :: p.prs).take 16, ptr := (p.ptr + 1) % 16 }

/-- Its top entry is popped. -/
def Predictor.pop (p : Predictor) : Predictor :=
  if p.prs.isEmpty then p else { p with prs := p.prs.drop 1, ptr := (p.ptr + 15) % 16 }

/-- A checkpoint is taken: what stands before the transfer's own shift, push or pop (R357; log 46). -/
def Predictor.checkpoint (p : Predictor) : Predictor := { p with cps := ⟨p.history, p.ptr, p.prs.head?⟩ :: p.cps }

/-- The history and the prediction return stack go back to a checkpoint, which holds the stack's top pointer and top entry (R354,
R359). -/
def Predictor.restore (p : Predictor) (c : Checkpoint) : Predictor :=
  let below := if c.ptr = (p.ptr + 1) % 16 then p.prs else if c.ptr = p.ptr then p.prs.drop 1 else p.prs.drop 2
  { p with history := c.history, ptr := c.ptr, prs := match c.top with | some t => (t :: below).take 16 | none => [] }

/-- The transfer with the newest checkpoint resolves: the checkpoint is freed, after a misprediction has been undone from it (R358,
R359). -/
def Predictor.resolve (p : Predictor) (correct : Bool) : Predictor :=
  match p.cps with
  | [] => p
  | c :: rest => { (if correct then p else p.restore c) with cps := rest }

/-- How a transfer was predicted (R356, R361). -/
structure Prediction where
  correct : Bool
  redirect : Bool
  /-- does it need a checkpoint (R357, R358)? -/
  needs : Bool
  /-- where a wrong path begins (R366, R367) -/
  wrong : Option Nat
  /-- the predictor once the transfer has resolved -/
  pred : Predictor
deriving DecidableEq, Repr

/-- A conditional branch whose direction and target were guessed (R355, R357, R359). -/
def Predictor.guessed (p : Predictor) (pc target : Nat) (guess taken : Bool) (guessTarget : Nat) (redirect : Bool) : Prediction :=
  let ok := guess == taken && (!taken || guessTarget = target)
  let q := ((p.train pc taken).checkpoint.shift guess).resolve ok
  ⟨ok, redirect, true, if ok then none else some (if guess then guessTarget else pc + 8), if ok then q else q.shift taken⟩

/-- A conditional branch (R356, R360). -/
def Predictor.cond (p : Predictor) (c pc target : Nat) (backward taken : Bool) : Prediction :=
  match p.btbTarget kindCond pc with
  | some t =>
    let r := p.guessed pc target (decide (2 ≤ p.counterAt pc)) taken t false
    { r with pred := r.pred.btbTouch kindCond pc t }
  | none =>
    let guess := if c = 0 then true else if c = 8 then false else backward
    let r := p.guessed pc target guess taken target guess
    { r with pred := if taken then r.pred.btbTouch kindCond pc target else r.pred }

/-- jmp and call (R356, R357): they take no checkpoint. -/
def Predictor.direct (p : Predictor) (isCall : Bool) (pc target : Nat) : Prediction :=
  let kind := if isCall then kindCall else kindJump
  let q := (if isCall then p.push (pc + 8) else p).btbTouch kind pc target
  match p.btbTarget kind pc with
  | some t => ⟨t = target, false, false, if t = target then none else some t, q⟩
  | none => ⟨true, true, false, none, q⟩

/-- jmpr and callr (R356, R357, R360): no prediction where the BTB misses. -/
def Predictor.indirect (p : Predictor) (isCall : Bool) (pc target : Nat) : Prediction :=
  let own := fun (q : Predictor) => if isCall then q.push (pc + 8) else q
  match p.btbTarget kindIndirect pc with
  | some t =>
    ⟨t = target, false, true, if t = target then none else some t,
      ((own p.checkpoint).resolve (decide (t = target))).btbTouch kindIndirect pc target⟩
  | none => ⟨false, false, false, none, (own p).btbTouch kindIndirect pc target⟩

/-- ret (R356, R357): no prediction where the prediction return stack is empty. -/
def Predictor.ret (p : Predictor) (pc target : Nat) : Prediction :=
  let hit := (p.btbTarget kindReturn pc).isSome
  match p.prs with
  | [] => ⟨false, false, false, none, p.btbTouch kindReturn pc 0⟩
  | t :: _ =>
    ⟨t = target, !hit, true, if t = target then none else some t,
      (p.checkpoint.pop.resolve (decide (t = target))).btbTouch kindReturn pc 0⟩

/-- What a wrong path leaves behind: it fetches up to four aligned 16-byte blocks, a free number of them (R367, log 47). -/
def State.wrongPath (s : State) (h : Nat) (w : Option Nat) : State :=
  match w with
  | none => s
  | some va =>
    let d := s.draw
    d.2.wrongFetch h (d.2.classOf h) (d.1 % 5) va

/-- The twin's predictor is as the transfer leaves it, and the events are counted (R354, R797). -/
def State.resolved (s : State) (h : Nat) (r : Prediction) : State :=
  let s1 := (s.modTwin (s.twinOf h) (fun x => { x with pred := r.pred })).tally h 0x006
  let s2 := if r.correct then s1 else s1.tally h 0x007
  (if r.redirect then s2.tally h 0x008 else s2).wrongPath h r.wrong

/-- Predict and resolve a transfer, which waits while it needs a checkpoint and none is free (R358). -/
def State.predicted (s : State) (h : Nat) (f : Predictor → Prediction) (k : State → Step) : Step :=
  let p := (s.twin (s.twinOf h)).pred
  let r := f p
  if r.needs && decide (4 ≤ p.cps.length) then .held s else k (s.resolved h r)

/-! ### Transfers (R289 to R295) -/

/-- What the frame knows of a transfer: in a delay slot it is illegal (R295). -/
def State.transferPre (s : State) (h word : Nat) (src : List Nat) (ea : Nat) : Pre :=
  ⟨word, src, [], [], [], if (s.hew h).inUnit then some 0x01 else none, ea⟩

/-- Enter the unit of a transfer and its delay slot (R290): `rsp` is what the transfer leaves in RSP, in force for the slot (R243,
R326). -/
def State.enterUnit (s : State) (h : Nat) (next : Word) (push : Option Piece) (rsp : Word) : Step :=
  let place := push.bind (fun p => match p.place with | .phys pa => some (BitVec.ofNat 64 pa) | _ => none)
  .jumped (s.modHew h (fun x =>
    { x with
      unit := some ⟨x.pc, next, place, (push.map Piece.ca).getD 0, push.bind Piece.via, x.rsp⟩
      rsp := rsp
      pc := x.pc + 4 }))

/-- A misaligned transfer target (R294). -/
def misaligned (target : Word) : Bool := target.toNat % 4 != 0

/-- b.cond (R289 to R291): an annulled slot is passed over. -/
def execBCond (h : HewerId) (a : Bool) (cond : Fin 16) (disp : BitVec 20) (s : State) : Host.Outcome State Fault Refusal :=
  done (s.run h (s.transferPre h (wBranch a cond disp.toNat) [] 0) (fun t =>
    let x := t.hew h
    let target := x.pc + disp.signExtend 64 <<< 2
    let taken := condHolds cond x.nzcv
    t.predicted h (fun p => p.cond cond x.pc.toNat target.toNat disp.msb taken) (fun t =>
      if taken then t.enterUnit h target none x.rsp
      else if a then .jumped (t.modHew h (fun y => { y.ctlPass with pc := y.pc + 8 }))
      else t.enterUnit h (x.pc + 8) none x.rsp)))

/-- jmp (R289). -/
def execJmp (h : HewerId) (a : Bool) (disp : BitVec 24) (s : State) : Host.Outcome State Fault Refusal :=
  done (s.run h (s.transferPre h (wJump 0x21 a disp.toNat) [] 0) (fun t =>
    let x := t.hew h
    let target := x.pc + disp.signExtend 64 <<< 2
    t.predicted h (fun p => p.direct false x.pc.toNat target.toNat) (fun t => t.enterUnit h target none x.rsp)))

/-- jmpr: the target is read before the slot executes (R289, R291, R294). -/
def execJmpr (h : HewerId) (a : Bool) (ra : RegNo) (s : State) : Host.Outcome State Fault Refusal :=
  done (s.run h (s.transferPre h (wIndirect a ra 0) [ra.val] 0) (fun t =>
    let x := t.hew h
    let target := x.getW ra
    if misaligned target then .exc t (mkExc 0x03 target.toNat)
    else t.predicted h (fun p => p.indirect false x.pc.toNat target.toNat) (fun t => t.enterUnit h target none x.rsp)))

/-- The return-stack side of call and callr: overflow, then the checks of the stack write; the write itself follows the
slot (R243, R244, R292). -/
def State.callStep (s : State) (h : Nat) (f : State → Piece → Step) : Step :=
  let x := s.hew h
  if x.rsl.toNat < x.rsp.toNat + 8 then .exc s (mkExc 0x0B x.rsp.toNat)
  else
    let items := s.dataItems h [2, 3] x.rsp.toNat 8 ++ [valueItem 5 (x.pc + 8).toNat]
    s.withAccess h .stackWrite x.rsp.toNat 8 items (fun t l =>
      match l with
      | ⟨.phys pa, n, ca, via⟩ :: _ => f t ⟨.phys pa, n, ca, via⟩
      | _ => .exc t (mkExc 0x07 x.rsp.toNat))

/-- call (R243, R289). -/
def execCall (h : HewerId) (a : Bool) (disp : BitVec 24) (s : State) : Host.Outcome State Fault Refusal :=
  done (s.run h (s.transferPre h (wJump 0x22 a disp.toNat) [] (s.hew h).rsp.toNat) (fun t =>
    let x := t.hew h
    let target := x.pc + disp.signExtend 64 <<< 2
    t.callStep h (fun t w =>
      t.predicted h (fun p => p.direct true x.pc.toNat target.toNat) (fun t => t.enterUnit h target (some w) (x.rsp + 8)))))

/-- callr (R243, R244, R289). -/
def execCallr (h : HewerId) (a : Bool) (ra : RegNo) (s : State) : Host.Outcome State Fault Refusal :=
  done (s.run h (s.transferPre h (wIndirect a ra 1) [ra.val] (s.hew h).rsp.toNat) (fun t =>
    let x := t.hew h
    let target := x.getW ra
    if misaligned target then .exc t (mkExc 0x03 target.toNat)
    else t.callStep h (fun t w =>
      t.predicted h (fun p => p.indirect true x.pc.toNat target.toNat) (fun t => t.enterUnit h target (some w) (x.rsp + 8)))))

/-- ret (R243, R244, R289). -/
def execRet (h : HewerId) (a : Bool) (s : State) : Host.Outcome State Fault Refusal :=
  let ea := ((s.hew h).rsp - 8).toNat
  done (s.run h (s.transferPre h (wIndirect a 0 2) [] ea) (fun t =>
    let x := t.hew h
    if x.rsp.toNat ≤ x.rsb.toNat then .exc t (mkExc 0x0C x.rsp.toNat)
    else
      t.withAccess h .stackRead ea 8 (t.dataItems h [1, 3] ea 8) (fun t l =>
        t.readNow h l ea (fun t b =>
          let target := BitVec.ofNat 64 (natLE b)
          if misaligned target then .exc t (mkExc 0x03 target.toNat)
          else t.predicted h (fun p => p.ret x.pc.toNat target.toNat) (fun t => t.enterUnit h target none (x.rsp - 8))))))

/-! ### rep (R296 to R300) -/

/-- The write of control state ends: CNT is the count that the `rep` has taken (R326, R327). -/
def Hewer.takeCnt (x : Hewer) (seen : Nat) : Hewer :=
  { x with
    cnt := BitVec.ofNat 64 (setBits x.cnt.toNat 31 0 seen)
    ctl := x.ctl.filter (fun p => p.reg != .cnt) }

/-- rep: fetches and judges the repeated instruction, then repeats it CNT[31:0] times or passes it over, which counts as one
instruction of every distance (R296 to R300, R325). -/
def execRep (h : HewerId) (next : Word32) (s : State) : Host.Outcome State Fault Refusal :=
  done (s.run h (s.transferPre h wRep [] 0) (fun t =>
    let f := t.fetchAt h ((t.hew h).pc + 4).toNat
    match f.r with
    | .error e => .exc f.s e
    | .ok _ =>
      if !(repeatable next.toNat) then .exc f.s (mkExc 0x01 wRep)
      else
        let n := (f.s.ctlSeen h .cnt).toNat % 2 ^ 32
        .jumped (f.s.modHew h (fun y =>
          if n = 0 then { y.ctlPass with pc := y.pc + 8 } else { y.takeCnt n with rep := some y.pc, pc := y.pc + 4 }))))

end Sys2Proof.Machine
end

