-- ==== Sys2Proof/Machine/Dispatch.lean ====
section
/-!
DEFINITION. The meaning of every command: one direct call of its own definition.
-/
namespace Sys2Proof.Machine

/-- The effect of a command on everything but the queue. -/
def exec (i : Instr) (s : State) : Host.Outcome State Fault Refusal :=
  match i with
  | .add h rd ra rb => Sys2Proof.Machine.execAdd h rd ra rb s
  | .adc h rd ra rb => Sys2Proof.Machine.execAdc h rd ra rb s
  | .sub h rd ra rb => Sys2Proof.Machine.execSub h rd ra rb s
  | .sbc h rd ra rb => Sys2Proof.Machine.execSbc h rd ra rb s
  | .cmp h ra rb => Sys2Proof.Machine.execCmp h ra rb s
  | .and h rd ra rb => Sys2Proof.Machine.execAnd h rd ra rb s
  | .or h rd ra rb => Sys2Proof.Machine.execOr h rd ra rb s
  | .xor h rd ra rb => Sys2Proof.Machine.execXor h rd ra rb s
  | .andn h rd ra rb => Sys2Proof.Machine.execAndn h rd ra rb s
  | .test h ra rb => Sys2Proof.Machine.execTest h ra rb s
  | .shl h rd ra rb => Sys2Proof.Machine.execShl h rd ra rb s
  | .shr h rd ra rb => Sys2Proof.Machine.execShr h rd ra rb s
  | .sar h rd ra rb => Sys2Proof.Machine.execSar h rd ra rb s
  | .ror h rd ra rb => Sys2Proof.Machine.execRor h rd ra rb s
  | .mov h rd ra => Sys2Proof.Machine.execMov h rd ra s
  | .pick h cond rd ra rb => Sys2Proof.Machine.execPick h cond rd ra rb s
  | .mul h rd ra rb => Sys2Proof.Machine.execMul h rd ra rb s
  | .mulu h rd ra rb => Sys2Proof.Machine.execMulu h rd ra rb s
  | .mulh h rd ra rb => Sys2Proof.Machine.execMulh h rd ra rb s
  | .mulhu h rd ra rb => Sys2Proof.Machine.execMulhu h rd ra rb s
  | .div h rd ra rb => Sys2Proof.Machine.execDiv h rd ra rb s
  | .divu h rd ra rb => Sys2Proof.Machine.execDivu h rd ra rb s
  | .rem h rd ra rb => Sys2Proof.Machine.execRem h rd ra rb s
  | .remu h rd ra rb => Sys2Proof.Machine.execRemu h rd ra rb s
  | .addi h rd ra imm => Sys2Proof.Machine.execAddi h rd ra imm s
  | .cmpi h ra imm => Sys2Proof.Machine.execCmpi h ra imm s
  | .andi h rd ra imm => Sys2Proof.Machine.execAndi h rd ra imm s
  | .ori h rd ra imm => Sys2Proof.Machine.execOri h rd ra imm s
  | .xori h rd ra imm => Sys2Proof.Machine.execXori h rd ra imm s
  | .shlByImmediate h rd ra count => Sys2Proof.Machine.execShlByImmediate h rd ra count s
  | .shrByImmediate h rd ra count => Sys2Proof.Machine.execShrByImmediate h rd ra count s
  | .sarByImmediate h rd ra count => Sys2Proof.Machine.execSarByImmediate h rd ra count s
  | .rorByImmediate h rd ra count => Sys2Proof.Machine.execRorByImmediate h rd ra count s
  | .li h rd imm => Sys2Proof.Machine.execLi h rd imm s
  | .movk h rd k imm => Sys2Proof.Machine.execMovk h rd k imm s
  | .load h kind rd ra up disp miss => Sys2Proof.Machine.execLoad h kind rd ra up disp miss s
  | .store h kind rd ra up disp => Sys2Proof.Machine.execStore h kind rd ra up disp s
  | .loadIndexed h kind rd ra rb scale miss => Sys2Proof.Machine.execLoadIndexed h kind rd ra rb scale miss s
  | .storeIndexed h kind rd ra rb scale => Sys2Proof.Machine.execStoreIndexed h kind rd ra rb scale s
  | .loadReturn h n => Sys2Proof.Machine.execLoadReturn h n s
  | .push h ra => Sys2Proof.Machine.execPush h ra s
  | .pop h rd => Sys2Proof.Machine.execPop h rd s
  | .ldx h wide aq rl rd ra => Sys2Proof.Machine.execLdx h wide aq rl rd ra s
  | .stx h wide aq rl rd ra rb => Sys2Proof.Machine.execStx h wide aq rl rd ra rb s
  | .amoAdd h wide aq rl rd ra rb => Sys2Proof.Machine.execAmoAdd h wide aq rl rd ra rb s
  | .amoSwap h wide aq rl rd ra rb => Sys2Proof.Machine.execAmoSwap h wide aq rl rd ra rb s
  | .amoAnd h wide aq rl rd ra rb => Sys2Proof.Machine.execAmoAnd h wide aq rl rd ra rb s
  | .amoOr h wide aq rl rd ra rb => Sys2Proof.Machine.execAmoOr h wide aq rl rd ra rb s
  | .amoMin h wide aq rl rd ra rb => Sys2Proof.Machine.execAmoMin h wide aq rl rd ra rb s
  | .amoMax h wide aq rl rd ra rb => Sys2Proof.Machine.execAmoMax h wide aq rl rd ra rb s
  | .amoMinu h wide aq rl rd ra rb => Sys2Proof.Machine.execAmoMinu h wide aq rl rd ra rb s
  | .amoMaxu h wide aq rl rd ra rb => Sys2Proof.Machine.execAmoMaxu h wide aq rl rd ra rb s
  | .bCond h a cond disp => Sys2Proof.Machine.execBCond h a cond disp s
  | .jmp h a disp => Sys2Proof.Machine.execJmp h a disp s
  | .call h a disp => Sys2Proof.Machine.execCall h a disp s
  | .jmpr h a ra => Sys2Proof.Machine.execJmpr h a ra s
  | .callr h a ra => Sys2Proof.Machine.execCallr h a ra s
  | .ret h a => Sys2Proof.Machine.execRet h a s
  | .fadd h f vd va vb => Sys2Proof.Machine.execFadd h f vd va vb s
  | .fsub h f vd va vb => Sys2Proof.Machine.execFsub h f vd va vb s
  | .fmul h f vd va vb => Sys2Proof.Machine.execFmul h f vd va vb s
  | .fdiv h f vd va vb => Sys2Proof.Machine.execFdiv h f vd va vb s
  | .fsqrt h f vd va => Sys2Proof.Machine.execFsqrt h f vd va s
  | .fmin h f vd va vb => Sys2Proof.Machine.execFmin h f vd va vb s
  | .fmax h f vd va vb => Sys2Proof.Machine.execFmax h f vd va vb s
  | .fabs h f vd va => Sys2Proof.Machine.execFabs h f vd va s
  | .fneg h f vd va => Sys2Proof.Machine.execFneg h f vd va s
  | .fmadd h f vd va vb vc => Sys2Proof.Machine.execFmadd h f vd va vb vc s
  | .fmsub h f vd va vb vc => Sys2Proof.Machine.execFmsub h f vd va vb vc s
  | .fnmsub h f vd va vb vc => Sys2Proof.Machine.execFnmsub h f vd va vb vc s
  | .fnmadd h f vd va vb vc => Sys2Proof.Machine.execFnmadd h f vd va vb vc s
  | .fcmp h single va vb => Sys2Proof.Machine.execFcmp h single va vb s
  | .fcmpe h single va vb => Sys2Proof.Machine.execFcmpe h single va vb s
  | .fcvtI h single wd va => Sys2Proof.Machine.execFcvtI h single wd va s
  | .fcvtU h single wd va => Sys2Proof.Machine.execFcvtU h single wd va s
  | .icvt h single vd wa => Sys2Proof.Machine.execIcvt h single vd wa s
  | .ucvt h single vd wa => Sys2Proof.Machine.execUcvt h single vd wa s
  | .fcvtSd h vd va => Sys2Proof.Machine.execFcvtSd h vd va s
  | .fcvtDs h vd va => Sys2Proof.Machine.execFcvtDs h vd va s
  | .vmovWv h small lane vd wa => Sys2Proof.Machine.execVmovWv h small lane vd wa s
  | .vmovVw h small lane wd va => Sys2Proof.Machine.execVmovVw h small lane wd va s
  | .vadd h small vd va vb => Sys2Proof.Machine.execVadd h small vd va vb s
  | .vsub h small vd va vb => Sys2Proof.Machine.execVsub h small vd va vb s
  | .vand h small vd va vb => Sys2Proof.Machine.execVand h small vd va vb s
  | .vor h small vd va vb => Sys2Proof.Machine.execVor h small vd va vb s
  | .vxor h small vd va vb => Sys2Proof.Machine.execVxor h small vd va vb s
  | .ioIn h wide rd ra disp => Sys2Proof.Machine.execIoIn h wide rd ra disp s
  | .ioOut h wide rd ra disp => Sys2Proof.Machine.execIoOut h wide rd ra disp s
  | .mfs h rd sel => Sys2Proof.Machine.execMfs h rd sel s
  | .mts h ra sel => Sys2Proof.Machine.execMts h ra sel s
  | .nop h => Sys2Proof.Machine.execNop h s
  | .sys h => Sys2Proof.Machine.execSys h s
  | .mon h => Sys2Proof.Machine.execMon h s
  | .eret h => Sys2Proof.Machine.execEret h s
  | .tend h ra => Sys2Proof.Machine.execTend h ra s
  | .sync h => Sys2Proof.Machine.execSync h s
  | .ifence h => Sys2Proof.Machine.execIfence h s
  | .cdtsync h => Sys2Proof.Machine.execCdtsync h s
  | .fenceR h => Sys2Proof.Machine.execFenceR h s
  | .fenceW h => Sys2Proof.Machine.execFenceW h s
  | .fenceRw h => Sys2Proof.Machine.execFenceRw h s
  | .xinvA h scope rd ra => Sys2Proof.Machine.execXinvA h scope rd ra s
  | .xinvT h scope rd => Sys2Proof.Machine.execXinvT h scope rd s
  | .xinvAll h scope => Sys2Proof.Machine.execXinvAll h scope s
  | .xinvComplete h twin => Sys2Proof.Machine.execXinvComplete h twin s
  | .rep h next => Sys2Proof.Machine.execRep h next s
  | .customerInstruction h index rd ra rb func => Sys2Proof.Machine.execCustomerInstruction h index rd ra rb func s
  | .softwareBreakpoint h => Sys2Proof.Machine.execSoftwareBreakpoint h s
  | .illegalInstruction h word => Sys2Proof.Machine.execIllegalInstruction h word s
  | .cdtBroadcastComplete => Sys2Proof.Machine.execCdtBroadcastComplete s
  | .enable index => Sys2Proof.Machine.execEnable index s
  | .disable index flush => Sys2Proof.Machine.execDisable index flush s
  | .disableComplete => Sys2Proof.Machine.execDisableComplete s
  | .update index staging => Sys2Proof.Machine.execUpdate index staging s
  | .updateCopy => Sys2Proof.Machine.execUpdateCopy s
  | .periodicRelease index => Sys2Proof.Machine.execPeriodicRelease index s
  | .commandedRelease index loc => Sys2Proof.Machine.execCommandedRelease index loc s
  | .gatherStart => Sys2Proof.Machine.execGatherStart s
  | .packetLanded index => Sys2Proof.Machine.execPacketLanded index s
  | .noPlacement index => Sys2Proof.Machine.execNoPlacement index s
  | .deadlineMiss index => Sys2Proof.Machine.execDeadlineMiss index s
  | .distributorMove gallery => Sys2Proof.Machine.execDistributorMove gallery s
  | .taskArrival h => Sys2Proof.Machine.execTaskArrival h s
  | .resultAccept index => Sys2Proof.Machine.execResultAccept index s
  | .commit index => Sys2Proof.Machine.execCommit index s
  | .budgetExpiry h => Sys2Proof.Machine.execBudgetExpiry h s
  | .drtEnSet => Sys2Proof.Machine.execDrtEnSet s
  | .regionLocked => Sys2Proof.Machine.execRegionLocked s
  | .drtEnClear => Sys2Proof.Machine.execDrtEnClear s
  | .tier1Steal h => Sys2Proof.Machine.execTier1Steal h s
  | .tier2Request gallery => Sys2Proof.Machine.execTier2Request gallery s
  | .tier2Steal => Sys2Proof.Machine.execTier2Steal s
  | .tier2CopyDone index => Sys2Proof.Machine.execTier2CopyDone index s
  | .threadRestore h => Sys2Proof.Machine.execThreadRestore h s
  | .hewerPoolWrite k value => Sys2Proof.Machine.execHewerPoolWrite k value s
  | .galleryPoolWrite value => Sys2Proof.Machine.execGalleryPoolWrite value s
  | .lodeWriteApply => Sys2Proof.Machine.execLodeWriteApply s
  | .softwareWrite loc value => Sys2Proof.Machine.execSoftwareWrite loc value s
  | .forceSet loc => Sys2Proof.Machine.execForceSet loc s
  | .forceClear loc => Sys2Proof.Machine.execForceClear loc s
  | .lodAdvance => Sys2Proof.Machine.execLodAdvance s
  | .epochClose => Sys2Proof.Machine.execEpochClose s
  | .lodWinCommit mask => Sys2Proof.Machine.execLodWinCommit mask s
  | .windowCommitEffect => Sys2Proof.Machine.execWindowCommitEffect s
  | .lodCfgDataWrite value => Sys2Proof.Machine.execLodCfgDataWrite value s
  | .initDone => Sys2Proof.Machine.execInitDone s
  | .lodeScrub slot zero uncorrectable => Sys2Proof.Machine.execLodeScrub slot zero uncorrectable s
  | .syncReceived port master std seconds ns sub log hops => Sys2Proof.Machine.execSyncReceived port master std seconds ns sub log hops s
  | .bmcaSelection isSelf master port hops => Sys2Proof.Machine.execBmcaSelection isSelf master port hops s
  | .syncTimeout => Sys2Proof.Machine.execSyncTimeout s
  | .holdoverExpiry => Sys2Proof.Machine.execHoldoverExpiry s
  | .syncTransmit port => Sys2Proof.Machine.execSyncTransmit port s
  | .pdelayReqTransmit port => Sys2Proof.Machine.execPdelayReqTransmit port s
  | .syncEnWrite value => Sys2Proof.Machine.execSyncEnWrite value s
  | .timSet value => Sys2Proof.Machine.execTimSet value s
  | .compareUnitWrite n which value => Sys2Proof.Machine.execCompareUnitWrite n which value s
  | .compareUnitFire n => Sys2Proof.Machine.execCompareUnitFire n s
  | .interruptEntry h => Sys2Proof.Machine.execInterruptEntry h s
  | .hwrIhiSet target level => Sys2Proof.Machine.execHwrIhiSet target level s
  | .hwrXrouteWrite by' target value => Sys2Proof.Machine.execHwrXrouteWrite by' target value s
  | .canaryKick writer h => Sys2Proof.Machine.execCanaryKick writer h s
  | .canaryPrewarning h => Sys2Proof.Machine.execCanaryPrewarning h s
  | .canaryExpiry h => Sys2Proof.Machine.execCanaryExpiry h s
  | .canaryMachineCheck h => Sys2Proof.Machine.execCanaryMachineCheck h s
  | .expiredClear by' h => Sys2Proof.Machine.execExpiredClear by' h s
  | .deviceCanaryKick writer value => Sys2Proof.Machine.execDeviceCanaryKick writer value s
  | .canDevCtlWrite value => Sys2Proof.Machine.execCanDevCtlWrite value s
  | .deviceCanaryPrewarning => Sys2Proof.Machine.execDeviceCanaryPrewarning s
  | .deviceCanaryExpiry => Sys2Proof.Machine.execDeviceCanaryExpiry s
  | .forcedMEntry h => Sys2Proof.Machine.execForcedMEntry h s
  | .requestSelfTest => Sys2Proof.Machine.execRequestSelfTest s
  | .requestRun => Sys2Proof.Machine.execRequestRun s
  | .requestStandby => Sys2Proof.Machine.execRequestStandby s
  | .requestMaintenance => Sys2Proof.Machine.execRequestMaintenance s
  | .requestSafeHold => Sys2Proof.Machine.execRequestSafeHold s
  | .requestConfigure => Sys2Proof.Machine.execRequestConfigure s
  | .runDecision => Sys2Proof.Machine.execRunDecision s
  | .twinCompareFailure h kind failures => Sys2Proof.Machine.execTwinCompareFailure h kind failures s
  | .twinSubstitution h => Sys2Proof.Machine.execTwinSubstitution h s
  | .hubMismatch lasting => Sys2Proof.Machine.execHubMismatch lasting s
  | .retire cls unit => Sys2Proof.Machine.execRetire cls unit s
  | .returnToService cls unit => Sys2Proof.Machine.execReturnToService cls unit s
  | .retireComplete => Sys2Proof.Machine.execRetireComplete s
  | .logRecordWrite => Sys2Proof.Machine.execLogRecordWrite s
  | .memL2PldCtlWrite value => Sys2Proof.Machine.execMemL2PldCtlWrite value s
  | .preloadDone => Sys2Proof.Machine.execPreloadDone s
  | .cachePatrolScrub l2 a uncorrectable dirty => Sys2Proof.Machine.execCachePatrolScrub l2 a uncorrectable dirty s
  | .dramRead a source cw0 cw1 checkBad => Sys2Proof.Machine.execDramRead a source cw0 cw1 checkBad s
  | .dramWrite a => Sys2Proof.Machine.execDramWrite a s
  | .dramActivate c b row source => Sys2Proof.Machine.execDramActivate c b row source s
  | .rfm c b => Sys2Proof.Machine.execRfm c b s
  | .firedampWindowEnd d4 => Sys2Proof.Machine.execFiredampWindowEnd d4 s
  | .refresh c due reads => Sys2Proof.Machine.execRefresh c due reads s
  | .mr4Poll c rate mr4 high => Sys2Proof.Machine.execMr4Poll c rate mr4 high s
  | .rowIdleClose c b => Sys2Proof.Machine.execRowIdleClose c b s
  | .zqCalibration c => Sys2Proof.Machine.execZqCalibration c s
  | .wck2dqiRetrain c rd wr => Sys2Proof.Machine.execWck2dqiRetrain c rd wr s
  | .frameReceived port bytes fcsOk => Sys2Proof.Machine.execFrameReceived port bytes fcsOk s
  | .partnerFrameReceived port device openB mode tim ready => Sys2Proof.Machine.execPartnerFrameReceived port device openB mode tim ready s
  | .egressRead n => Sys2Proof.Machine.execEgressRead n s
  | .frameTransmit port => Sys2Proof.Machine.execFrameTransmit port s
  | .egressEntryCommit value => Sys2Proof.Machine.execEgressEntryCommit value s
  | .gclCommit port value => Sys2Proof.Machine.execGclCommit port value s
  | .gclInForce port => Sys2Proof.Machine.execGclInForce port s
  | .plkLinkDown port absent => Sys2Proof.Machine.execPlkLinkDown port absent s
  | .plkLinkUp port => Sys2Proof.Machine.execPlkLinkUp port s
  | .portCtlWrite port value => Sys2Proof.Machine.execPortCtlWrite port value s
  | .partnerFrameSend => Sys2Proof.Machine.execPartnerFrameSend s
  | .plkPartnerLost => Sys2Proof.Machine.execPlkPartnerLost s
  | .mgmtTxTailWrite tail => Sys2Proof.Machine.execMgmtTxTailWrite tail s
  | .mgmtTxSend => Sys2Proof.Machine.execMgmtTxSend s
  | .pcsLockLost port => Sys2Proof.Machine.execPcsLockLost port s
  | .pcsLockAcquired port => Sys2Proof.Machine.execPcsLockAcquired port s
  | .takeover => Sys2Proof.Machine.execTakeover s
  | .dualRun => Sys2Proof.Machine.execDualRun s
  | .shadowCommit n => Sys2Proof.Machine.execShadowCommit n s
  | .shadowWithdraw n => Sys2Proof.Machine.execShadowWithdraw n s
  | .handOver n => Sys2Proof.Machine.execHandOver n s
  | .unitReadReturn n u => Sys2Proof.Machine.execUnitReadReturn n u s
  | .unitRetry n => Sys2Proof.Machine.execUnitRetry n s
  | .transferComplete n => Sys2Proof.Machine.execTransferComplete n s
  | .skpDisWrite n => Sys2Proof.Machine.execSkpDisWrite n s
  | .skpHaltClear n => Sys2Proof.Machine.execSkpHaltClear n s
  | .skpOwnerWrite n owner => Sys2Proof.Machine.execSkpOwnerWrite n owner s
  | .unitWriteIssue n => Sys2Proof.Machine.execUnitWriteIssue n s
  | .create k => Sys2Proof.Machine.execCreate k s
  | .destroy k => Sys2Proof.Machine.execDestroy k s
  | .aditCmdComplete => Sys2Proof.Machine.execAditCmdComplete s
  | .adtPoolWrite value => Sys2Proof.Machine.execAdtPoolWrite value s
  | .mailboxWrite k toVf idx value => Sys2Proof.Machine.execMailboxWrite k toVf idx value s
  | .ringMgr k => Sys2Proof.Machine.execRingMgr k s
  | .ackMgr k => Sys2Proof.Machine.execAckMgr k s
  | .ringVf k => Sys2Proof.Machine.execRingVf k s
  | .ackVf k => Sys2Proof.Machine.execAckVf k s
  | .queryEnable k q value => Sys2Proof.Machine.execQueryEnable k q value s
  | .queryEnableDone k q => Sys2Proof.Machine.execQueryEnableDone k q s
  | .queryGo k q => Sys2Proof.Machine.execQueryGo k q s
  | .queryRun outrun => Sys2Proof.Machine.execQueryRun outrun s
  | .queryHeadWrite k q head => Sys2Proof.Machine.execQueryHeadWrite k q head s
  | .aditRecordWrite k off data ep => Sys2Proof.Machine.execAditRecordWrite k off data ep s
  | .bar2Read f off len => Sys2Proof.Machine.execBar2Read f off len s
  | .bar2Write f off data ep => Sys2Proof.Machine.execBar2Write f off data ep s
  | .recordPortWrite off data ep => Sys2Proof.Machine.execRecordPortWrite off data ep s
  | .hostCompletion tag status data ep => Sys2Proof.Machine.execHostCompletion tag status data ep s
  | .completionTimeout tag => Sys2Proof.Machine.execCompletionTimeout tag s
  | .freeze cause f header => Sys2Proof.Machine.execFreeze cause f header s
  | .hepFreezeRelease mask => Sys2Proof.Machine.execHepFreezeRelease mask s
  | .functionLevelReset f => Sys2Proof.Machine.execFunctionLevelReset f s
  | .flrComplete f => Sys2Proof.Machine.execFlrComplete f s
  | .perstNAssert => Sys2Proof.Machine.execPerstNAssert s
  | .perstNDeassert => Sys2Proof.Machine.execPerstNDeassert s
  | .hepLinkDown => Sys2Proof.Machine.execHepLinkDown s
  | .hepLinkUp rate width => Sys2Proof.Machine.execHepLinkUp rate width s
  | .powerStateChange f target => Sys2Proof.Machine.execPowerStateChange f target s
  | .configurationWrite f w => Sys2Proof.Machine.execConfigurationWrite f w s
  | .decimatedSample conv => Sys2Proof.Machine.execDecimatedSample conv s
  | .encoderTransition n a b z => Sys2Proof.Machine.execEncoderTransition n a b z s
  | .digitalEdge n pin => Sys2Proof.Machine.execDigitalEdge n pin s
  | .outputEgressRead n => Sys2Proof.Machine.execOutputEgressRead n s
  | .pwmPeriodStart m => Sys2Proof.Machine.execPwmPeriodStart m s
  | .anmCalibrationDone => Sys2Proof.Machine.execAnmCalibrationDone s
  | .rootPllLossOfLock => Sys2Proof.Machine.execRootPllLossOfLock s
  | .refclkStop => Sys2Proof.Machine.execRefclkStop s
  | .refclkRestart => Sys2Proof.Machine.execRefclkRestart s
  | .pllRelock fails => Sys2Proof.Machine.execPllRelock fails s
  | .pwrDomReqWrite value => Sys2Proof.Machine.execPwrDomReqWrite value s
  | .powerDomainSwitched fails => Sys2Proof.Machine.execPowerDomainSwitched fails s
  | .thermalAdjust temps => Sys2Proof.Machine.execThermalAdjust temps s
  | .thermalTrip sensor => Sys2Proof.Machine.execThermalTrip sensor s
  | .thermalTripEnd sensor => Sys2Proof.Machine.execThermalTripEnd sensor s
  | .cclkStep shaft => Sys2Proof.Machine.execCclkStep shaft s
  | .haltTakesEffect h => Sys2Proof.Machine.execHaltTakesEffect h s
  | .verifyComplete => Sys2Proof.Machine.execVerifyComplete s
  | .lockoutExpiry => Sys2Proof.Machine.execLockoutExpiry s
  | .rootKeyProgrammed => Sys2Proof.Machine.execRootKeyProgrammed s
  | .pornLow => Sys2Proof.Machine.execPornLow s
  | .pornRise devnum scanEnN => Sys2Proof.Machine.execPornRise devnum scanEnN s
  | .porPllLock => Sys2Proof.Machine.execPorPllLock s
  | .bootDiscovery ok octal sizeMib => Sys2Proof.Machine.execBootDiscovery ok octal sizeMib s
  | .bootHeader readError => Sys2Proof.Machine.execBootHeader readError s
  | .bootEarlySections items fails readError => Sys2Proof.Machine.execBootEarlySections items fails readError s
  | .bootStream readError => Sys2Proof.Machine.execBootStream readError s
  | .bootVerify => Sys2Proof.Machine.execBootVerify s
  | .bootApply items => Sys2Proof.Machine.execBootApply items s
  | .selfTestEnd twins ways channels hub => Sys2Proof.Machine.execSelfTestEnd twins ways channels hub s
  | .tlyStopWrite stop => Sys2Proof.Machine.execTlyStopWrite stop s
  | .counterOverflow h n k => Sys2Proof.Machine.execCounterOverflow h n k s
  | .samplingEnable h value => Sys2Proof.Machine.execSamplingEnable h value s
  | .sampleTailWrite h tail => Sys2Proof.Machine.execSampleTailWrite h tail s
  | .bwWindowEnd counts => Sys2Proof.Machine.execBwWindowEnd counts s
  | .xspiRead => Sys2Proof.Machine.execXspiRead s
  | .xspiProgram => Sys2Proof.Machine.execXspiProgram s
  | .xspiErase => Sys2Proof.Machine.execXspiErase s
  | .xspiOperationComplete fails => Sys2Proof.Machine.execXspiOperationComplete fails s
  | .extest value => Sys2Proof.Machine.execExtest value s
  | .samplePreload => Sys2Proof.Machine.execSamplePreload s
  | .idcode => Sys2Proof.Machine.execIdcode s
  | .bypass => Sys2Proof.Machine.execBypass s
  | .dbgpwr on => Sys2Proof.Machine.execDbgpwr on s
  | .testLogicReset => Sys2Proof.Machine.execTestLogicReset s
  | .nopCommand path => Sys2Proof.Machine.execNopCommand path s
  | .setaddr path size arg => Sys2Proof.Machine.execSetaddr path size arg s
  | .read path size => Sys2Proof.Machine.execRead path size s
  | .write path size arg => Sys2Proof.Machine.execWrite path size arg s
  | .vtRead path h => Sys2Proof.Machine.execVtRead path h s
  | .vtWrite path h data => Sys2Proof.Machine.execVtWrite path h data s
  | .close path => Sys2Proof.Machine.execClose path s
  | .challenge path level key => Sys2Proof.Machine.execChallenge path level key s
  | .verify path level key => Sys2Proof.Machine.execVerify path level key s
  | .rootKeyProgram path key => Sys2Proof.Machine.execRootKeyProgram path key s
  | .bar0Read f off len => Sys2Proof.Machine.execBar0Read f off len s
  | .bar0Write f off data ep header => Sys2Proof.Machine.execBar0Write f off data ep header s
  | .registerWrite writer addr wide value => Sys2Proof.Machine.execRegisterWrite writer addr wide value s
  | .cfgCdtWordWrite writer value => Sys2Proof.Machine.execCfgCdtWordWrite writer value s
  | .cfgCdtEntryWrite writer n value => Sys2Proof.Machine.execCfgCdtEntryWrite writer n value s
  | .halt writer h => Sys2Proof.Machine.execHalt writer h s
  | .release writer h => Sys2Proof.Machine.execRelease writer h s
  | .step writer h => Sys2Proof.Machine.execStep writer h s
  | .clrCheckstop writer h => Sys2Proof.Machine.execClrCheckstop writer h s
  | .xtrigHalt writer all gallery => Sys2Proof.Machine.execXtrigHalt writer all gallery s
  | .xtrigRelease writer all gallery => Sys2Proof.Machine.execXtrigRelease writer all gallery s
  | .vtxWrite h data => Sys2Proof.Machine.execVtxWrite h data s
  | .vrxRead h => Sys2Proof.Machine.execVrxRead h s

end Sys2Proof.Machine
end

