-- ==== Sys2Proof/Safety.lean ====
section
/-!
DEFINITION. What statements are made in terms of: the canonical form of the tables of a state, a hewer that executes its next
instruction with nothing in its way, and the hewer after an instruction.
-/
namespace Sys2Proof.Machine

/-! ### The canonical form -/

/-- DRAM in its canonical form: addresses strictly rising, no entry equal to what an unlisted address reads as. -/
abbrev MemState.wf (m : MemState) : Bool := m.bytes.wf m.base

/-- What an unlisted IO register holds: its reset value. -/
def regBase (a : Nat) : Word := BitVec.ofNat 64 (resetAt a)

/-- The registers, the hewers, the twins and DRAM are listed canonically: keys strictly rising, nothing listed that equals
what its key reads as unlisted. Equal contents are then equal data. -/
structure State.Canonical (s : State) : Prop where
  regs : s.regs.wf regBase = true
  hewers : s.hewers.wf (fun _ => Hewer.reset) = true
  twins : s.twins.wf (fun _ => Twin.reset) = true
  mem : s.mem.wf = true

/-! ### A hewer with nothing in its way -/

/-- Nothing stands between an effect of hewer `h` that leaves `t` and the end of its instruction: no delay slot, `rep`, distance or
single step, and no comparator enabled. -/
structure State.Ends (t : State) (h : Nat) : Prop where
  canon : t.Canonical
  watch : ∀ c, c < 8 → t.flag (F.DBG_HWR_CMP_CTL.EN h c) = false
  unit : (t.hew h).unit = none
  rep : (t.hew h).rep = none
  ctl : (t.hew h).ctl = []
  stepping : (t.hew h).stepping = false

/-- Hewer `h` executes the instruction at its program counter and nothing stands in the way: it may execute (power, no halt,
no check-stop, no entry due, not between bodies), no event is due at its boundary (R443), it is in no delay slot and no `rep`, no write of control state and no load
is outstanding, no register carries the poison mark, no single step and no sampling is on, no comparator is enabled, and the
fetch answers at once, unpoisoned, from the line used last in its set of L1 I, without changing a translation structure. -/
structure State.Runs (s : State) (h : Nat) : Prop where
  canon : s.Canonical
  can : s.canRun h = true
  quiet : s.asyncDue h = false
  unit : (s.hew h).unit = none
  rep : (s.hew h).rep = none
  ctl : (s.hew h).ctl = []
  missed : (s.hew h).missed = []
  wPoison : (s.hew h).wPoison = []
  vPoison : (s.hew h).vPoison = []
  stepping : (s.hew h).stepping = false
  sampling : s.flag (F.TLY_HWR_SCTL.EN h) = false
  watch : ∀ c, c < 8 → s.flag (F.DBG_HWR_CMP_CTL.EN h c) = false
  fetch : ∃ l, s.fetchAt h (s.hew h).pc.toNat = ⟨s, .ok l⟩

/-- What completing an instruction adds to its effect on the hewer: the vector window of its privilege and the exemption of a
first instruction end, host data and microcode in hand are let go, and the ROM code no longer stands at its wait. The program
counter is not touched. -/
def Hewer.done (x : Hewer) : Hewer := { x.endWindow with exempt := false, hostBuf := [], micro := none, rom := 0 }

/-- The hewer after an instruction in sequence (R235): the program counter has moved on by 4. -/
def Hewer.next (x : Hewer) : Hewer := { x.done with pc := x.pc + 4 }

/-- Hewer `h` is left as `x` by an instruction that completes, which its counters of event 0x002 count (R797). -/
def State.completes (s : State) (h : Nat) (x : Hewer) : State := (s.setHew h x).tally h 0x002

/-- Hewer `h` is left by the instruction at its program counter, which stands in no delay slot and raises exception `code` with
EVAL `eval`: it is counted, host data and microcode in hand are let go, and the entry has EPC at the instruction (R446, R797). -/
def State.traps (s : State) (h code : Nat) (eval : Word) : State :=
  ((s.tally h 0x014).setHew h { s.hew h with hostBuf := [], micro := none }).takeExc h code (s.hew h).pc eval

end Sys2Proof.Machine
end

