-- ==== Sys2Proof/Certificates/Slice0/Obligations.lean ====
section
/-!
DEFINITION. The statements for the provers.
-/
open Sys2Proof Sys2Proof.Machine

/-- A step runs the command at the front of the queue on the rest of the queue. For every command c and state s whose queue
holds c at the front: step answers exactly what exec answers for c on the same state with the queue's rest. Queueing is the
block's own form: the queue is the model's, not the spec's. Rests on: 95_what_each_step_holds.md. -/
def Obligations.StepTakesFront : Prop :=
  ∀ (c : Instr) (rest : List Instr) (s : State), s.pending = c :: rest → step s = exec c { s with pending := rest }

/-- With no command waiting, one TCLK cycle passes: plant time advances by 20 pt plus the rate's share (model's choice, log
6). That a step with an empty queue is a clock cycle is the model's choice (log 6). In OFF nothing changes. With the root PLL
locked in a mode other than OFF, the counter advances by 20 pt plus the carry of frac plus TIM_RATE over 2^32, frac keeps the
remainder, and the cycle count rises by 1. With the PLL unlocked the counter and frac stand. Rests on: 02_plant_time.md R50,
02_plant_time.md R833. -/
def Obligations.EmptyQueueTicks : Prop :=
  ∀ (s : State), s.pending = [] →
    (s.mode = .off → step s = .next s)
    ∧ (s.mode ≠ .off → s.pwr.pllLocked = false → ∃ t : State, step s = .next t ∧ t.time.now = s.time.now ∧ t.time.frac = s.time.frac)
    ∧ (s.mode ≠ .off → s.pwr.pllLocked = true → ∃ t : State, step s = .next t
        ∧ (t.time.now : Int) = ((s.time.now : Int) + 20 + ((s.time.frac : Int) + signedOf 32 (s.reg Adr.TIM_RATE).toNat) / 2 ^ 32).toNat
            % 2 ^ 64
        ∧ (t.time.frac : Int) = ((s.time.frac : Int) + signedOf 32 (s.reg Adr.TIM_RATE).toNat) % 2 ^ 32
        ∧ t.time.cyc = s.time.cyc + 1)

/-- The state after reset holds its tables in canonical form, lists nothing, and is in CONFIGURE with no command waiting.
State.reset meets State.Canonical, the form that the step keeps (CanonicalKept): registers, hewers, twins and DRAM list
nothing. Every IO register reads its reset value, the mode is CONFIGURE, the queue is empty and nothing has left the device.
The canonical form is the model's own. That a DRAM byte nothing has written reads 0 before contents are first lost is the
model's choice (log 2), and so are the empty tables (log 28) and the empty queue (log 6). Rests on: 98_reader.md. -/
def Obligations.CanonicalAfterReset : Prop :=
  State.reset.Canonical ∧ State.reset.mode = .configure ∧ State.reset.pending = [] ∧ State.reset.out = []
  ∧ (∀ a, State.reset.reg a = BitVec.ofNat 64 (resetAt a)) ∧ (∀ h, State.reset.hew h = Hewer.reset)
  ∧ (∀ a, State.reset.mem.byte a = 0) ∧ State.reset.lode.slots = [] ∧ State.reset.drt.tasks = []

/-- Every step keeps the canonical form of the registers, the hewers, the twins and DRAM. For every state in canonical form,
whatever command waits at the front of its queue and whatever its operands: if step answers next t, then t is in canonical
form. So equal contents of the registers, of the hewers' contexts and of DRAM stay equal data. The form is the model's own;
the statement holds in every state, reached or not. Rests on: 98_reader.md, 06_programmers_model.md R232,
12_caches_ordering_code.md R479. -/
def Obligations.CanonicalKept : Prop :=
  ∀ (s t : State), s.Canonical → step s = .next t → t.Canonical

/-- Only the release of power-on reset changes the device number: every other step leaves it as it is. For every state in
canonical form whose front command, if any, is not PORN_RISE (the release of power-on reset, where the device number is
sampled): if step answers next t, then t has the same device number. Rests on: 20_startup_modes_power.md R720, 00_scope.md R2.
-/
def Obligations.DeviceNumberFixed : Prop :=
  ∀ (s t : State), s.Canonical → (∀ dn v, s.pending.head? ≠ some (.pornRise dn v)) → step s = .next t → t.devnum = s.devnum

/-- The add and subtract class writes the exact sum or difference cut to 64 bits, and its four flags. For every hewer h with
nothing in its way (State.Runs): add, adc, sub, sbc, cmp, addi and cmpi complete with the sum or difference in wd (cmp and
cmpi write none; w0 discards its write), N and Z of the result, C the unsigned carry (for the subtract class: no borrow), V
the signed overflow; the program counter moves on by 4 and nothing else of the state changes but the hewer's event counters.
Rests on: 07_instruction_set.md R275, 07_instruction_set.md R277, 06_programmers_model.md R238, 06_programmers_model.md R235.
-/
def Obligations.IntegerAddSubtract : Prop :=
  ∀ (h : HewerId) (rd ra rb : RegNo) (imm : BitVec 15) (s : State), s.Runs h →
    let x := s.hew h
    let a := x.getW ra
    let b := x.getW rb
    let i := imm.signExtend 64
    let flags := fun (r : Word) (c v : Bool) => nzcvOf r.msb (r == 0) c v
    exec (.add h rd ra rb) s = .next (s.completes h ((x.setW rd (a + b)).setNzcv
        (flags (a + b) (a.uaddOverflow b) (a.saddOverflow b))).next)
    ∧ exec (.adc h rd ra rb) s = .next (s.completes h ((x.setW rd (a + b + BitVec.ofNat 64 (b2n x.flagC))).setNzcv
        (flags (a + b + BitVec.ofNat 64 (b2n x.flagC)) (decide (2 ^ 64 ≤ a.toNat + b.toNat + b2n x.flagC))
          (notSigned64 (a.toInt + b.toInt + b2n x.flagC)))).next)
    ∧ exec (.sub h rd ra rb) s = .next (s.completes h ((x.setW rd (a - b)).setNzcv
        (flags (a - b) (!(a.usubOverflow b)) (a.ssubOverflow b))).next)
    ∧ exec (.sbc h rd ra rb) s = .next (s.completes h ((x.setW rd (a - b - BitVec.ofNat 64 (b2n (!x.flagC)))).setNzcv
        (flags (a - b - BitVec.ofNat 64 (b2n (!x.flagC))) (decide (b.toNat + b2n (!x.flagC) ≤ a.toNat))
          (notSigned64 (a.toInt - b.toInt - b2n (!x.flagC))))).next)
    ∧ exec (.cmp h ra rb) s = .next (s.completes h (x.setNzcv
        (flags (a - b) (!(a.usubOverflow b)) (a.ssubOverflow b))).next)
    ∧ exec (.addi h rd ra imm) s = .next (s.completes h ((x.setW rd (a + i)).setNzcv
        (flags (a + i) (a.uaddOverflow i) (a.saddOverflow i))).next)
    ∧ exec (.cmpi h ra imm) s = .next (s.completes h (x.setNzcv
        (flags (a - i) (!(a.usubOverflow i)) (a.ssubOverflow i))).next)

/-- The logic class clears C and V; mov, pick, li and movk write a register and keep the flags; nop only moves on. For every
hewer with nothing in its way: and, or, xor, andn, test, andi, ori and xori set N and Z of the result and clear C and V; mov
copies, pick chooses by the condition, li sign-extends its 20 bits, movk replaces the 16 bits it names and keeps the other 48,
all with the flags kept; nop changes no register. Each moves the program counter on by 4 and leaves the rest of the state but
the event counters. Rests on: 07_instruction_set.md R275, 07_instruction_set.md R277, 07_instruction_set.md R278,
07_instruction_set.md R316, 06_programmers_model.md R239. -/
def Obligations.IntegerLogicAndMoves : Prop :=
  ∀ (h : HewerId) (rd ra rb : RegNo) (i15 : BitVec 15) (i20 : BitVec 20) (i16 : BitVec 16) (k : Fin 4) (cond : Fin 16)
    (s : State), s.Runs h →
    let x := s.hew h
    let a := x.getW ra
    let b := x.getW rb
    let i := i15.setWidth 64
    let logic := fun (r : Word) => State.completes s h ((x.setW rd r).setNzcv (nzcvOf r.msb (r == 0) false false)).next
    exec (.and h rd ra rb) s = .next (logic (a &&& b))
    ∧ exec (.or h rd ra rb) s = .next (logic (a ||| b))
    ∧ exec (.xor h rd ra rb) s = .next (logic (a ^^^ b))
    ∧ exec (.andn h rd ra rb) s = .next (logic (a &&& ~~~b))
    ∧ exec (.test h ra rb) s = .next (s.completes h (x.setNzcv (nzcvOf (a &&& b).msb (a &&& b == 0) false false)).next)
    ∧ exec (.andi h rd ra i15) s = .next (logic (a &&& i))
    ∧ exec (.ori h rd ra i15) s = .next (logic (a ||| i))
    ∧ exec (.xori h rd ra i15) s = .next (logic (a ^^^ i))
    ∧ exec (.mov h rd ra) s = .next (s.completes h (x.setW rd a).next)
    ∧ exec (.pick h cond rd ra rb) s = .next (s.completes h (x.setW rd (if condHolds cond x.nzcv then a else b)).next)
    ∧ exec (.li h rd i20) s = .next (s.completes h (x.setW rd (i20.signExtend 64)).next)
    ∧ (∃ v : Word, exec (.movk h rd k i16) s = .next (s.completes h (x.setW rd v).next)
        ∧ v.extractLsb' (16 * k) 16 = i16
        ∧ ∀ j, (j < 16 * k.val ∨ 16 * k.val + 16 ≤ j) → v.getLsbD j = (x.getW rd).getLsbD j)
    ∧ exec (.nop h) s = .next (s.completes h x.next)

/-- Shifts take their count modulo 64, give N and Z of the result, C the last bit shifted out (0 for count 0) and V 0. For
every hewer with nothing in its way: shl, shr, sar and ror shift wa by wb[5:0], their immediate forms by the count of the
instruction; C is bit 64 - n of wa for shl and bit n - 1 for the others, 0 for n = 0; V is 0; N and Z follow the result. The
program counter moves on by 4 and the rest of the state but the event counters is kept. Rests on: 07_instruction_set.md R275,
07_instruction_set.md R277, 06_programmers_model.md R238. -/
def Obligations.IntegerShifts : Prop :=
  ∀ (h : HewerId) (rd ra rb : RegNo) (count : Fin 64) (s : State), s.Runs h →
    let x := s.hew h
    let a := x.getW ra
    let n := (x.getW rb).toNat % 64
    let out := fun (r : Word) (c : Bool) => State.completes s h ((x.setW rd r).setNzcv (nzcvOf r.msb (r == 0) c false)).next
    let left := fun (n : Nat) => decide (n ≠ 0) && a.getLsbD (64 - n)
    let right := fun (n : Nat) => decide (n ≠ 0) && a.getLsbD (n - 1)
    exec (.shl h rd ra rb) s = .next (out (a <<< n) (left n))
    ∧ exec (.shr h rd ra rb) s = .next (out (a >>> n) (right n))
    ∧ exec (.sar h rd ra rb) s = .next (out (a.sshiftRight n) (right n))
    ∧ exec (.ror h rd ra rb) s = .next (out (a.rotateRight n) (right n))
    ∧ exec (.shlByImmediate h rd ra count) s = .next (out (a <<< count.val) (left count))
    ∧ exec (.shrByImmediate h rd ra count) s = .next (out (a >>> count.val) (right count))
    ∧ exec (.sarByImmediate h rd ra count) s = .next (out (a.sshiftRight count.val) (right count))
    ∧ exec (.rorByImmediate h rd ra count) s = .next (out (a.rotateRight count.val) (right count))

/-- Multiplication and division, their flags, and the trap of a divisor of 0. For every hewer with nothing in its way: mul and
mulu write the low half of the product, V says that the signed or unsigned product does not fit, C is 0; mulh and mulhu write
the high half with C and V 0; div, divu, rem and remu with a divisor other than 0 write the quotient truncated towards 0 or
the remainder, C is 0, and V is 0 but for the one quotient of div that does not fit. With a divisor of 0 each of the four
takes exception 0x17 with EVAL 0 at its own address and writes no register of the program. The rest of the state but the event
counters is kept. Rests on: 07_instruction_set.md R276, 06_programmers_model.md R238, 11_exceptions_canary.md R446,
11_exceptions_canary.md R437. -/
def Obligations.IntegerMultiplyDivide : Prop :=
  ∀ (h : HewerId) (rd ra rb : RegNo) (s : State), s.Runs h →
    let x := s.hew h
    let a := x.getW ra
    let b := x.getW rb
    let out := fun (r : Word) (v : Bool) => State.completes s h ((x.setW rd r).setNzcv (nzcvOf r.msb (r == 0) false v)).next
    exec (.mul h rd ra rb) s = .next (out (a * b) (a.smulOverflow b))
    ∧ exec (.mulu h rd ra rb) s = .next (out (a * b) (a.umulOverflow b))
    ∧ exec (.mulh h rd ra rb) s = .next (out (BitVec.ofInt 64 (a.toInt * b.toInt / (2 ^ 64 : Nat))) false)
    ∧ exec (.mulhu h rd ra rb) s = .next (out (BitVec.ofNat 64 (a.toNat * b.toNat / 2 ^ 64)) false)
    ∧ (b ≠ 0 →
        exec (.div h rd ra rb) s = .next (out (a.sdiv b) (a == BitVec.intMin 64 && b == -1))
        ∧ exec (.divu h rd ra rb) s = .next (out (a / b) false)
        ∧ exec (.rem h rd ra rb) s = .next (out (a.srem b) false)
        ∧ exec (.remu h rd ra rb) s = .next (out (a % b) false))
    ∧ (b = 0 → ∀ i ∈ [Instr.div h rd ra rb, .divu h rd ra rb, .rem h rd ra rb, .remu h rd ra rb],
        exec i s = .next (s.traps h 0x17 0))

/-- Loads write the zero- or sign-extended little-endian value of the bytes at their address, and the base update. For every
hewer with nothing in its way and a load of every kind and form whose access is allowed and answered at once without poison
(one piece or two, in DRAM, the boot ROM, the lode window or a body's windows): ld in the displacement form writes the
extended value and, with UP, the base plus the displacement, addressing by the base alone; the indexed form adds the scaled
index; pop reads the doubleword at w30, adds 8 to w30 and then writes wd. An unsplit load that comes from beyond L1 D is noted
for prefetching, and where it misses completes with the value outstanding. LOAD_RETURN of an outstanding value that is not a
host request writes it into its register and removes it from the list; without such a load, or with the clocks unlocked, it
changes nothing. A load of unpoisoned DRAM reads memory's bytes where no buffered store shares one with it, changing neither
memory nor any hewer, and the bytes of the latest buffered store that covers it where one does. Rests on:
07_instruction_set.md R279, 07_instruction_set.md R280, 07_instruction_set.md R281, 06_programmers_model.md R241,
08_pipeline.md R341, 08_pipeline.md R343, 08_pipeline.md R344, 08_pipeline.md R347. -/
def Obligations.LoadsReadTheirBytes : Prop :=
  (∀ (h : HewerId) (kind : LoadKind) (rd ra rb : RegNo) (up : Bool) (disp : BitVec 14) (scale : Fin 4) (miss : Bool) (s t : State)
      (l : List Piece) (b : List Byte) (late : Bool), s.Runs h →
    let x := s.hew h
    let base := x.getW ra
    let answered := fun (ea : Word) => s.access h .load ea.toNat (loadSize kind) = ⟨s, .ok l⟩ ∧ s.hostPiece l = none
      ∧ s.loadPieces h l = (t, .data b false late)
    let noted := fun (ea : Word) => if late && l.length != 2 then t.noteMiss h ea.toNat l else t
    let v := loadValue kind (natLE b)
    let ends := fun (ea : Word) (y : Hewer) =>
      if miss && late && l.length != 2 then
        (noted ea).completes h { y with missed := [⟨rd, loadVec kind, v, false, none, l.any Piece.window,
          (l.head?.map Piece.via).getD none⟩] }.next
      else (noted ea).completes h (y.loaded (loadVec kind) rd v false).next
    let disp64 := disp.signExtend 64
    (answered (if up then base else base + disp64) → (up = true → ra ≠ 0 ∧ (ra ≠ rd ∨ kind = .q)) →
      exec (.load h kind rd ra up disp miss) s
        = .next (ends (if up then base else base + disp64) (if up then x.setW ra (base + disp64) else x)))
    ∧ (answered (base + x.getW rb <<< scale.val) →
      exec (.loadIndexed h kind rd ra rb scale miss) s = .next (ends (base + x.getW rb <<< scale.val) x))
    ∧ ((x.getW 30).toNat % 8 = 0 → kind = .d → answered (x.getW 30) →
      exec (.pop h rd) s
        = .next ((noted (x.getW 30)).completes h ((x.setW 30 (x.getW 30 + 8)).loaded false rd (natLE b) false).next)))
  ∧ (∀ (h : HewerId) (n : Fin 24) (s : State) (m : MissedLoad) (rest : List MissedLoad),
      ((s.hew h).missed.drop n = m :: rest → m.tag = none → s.pwr.pllLocked = true →
        exec (.loadReturn h n) s = .next (s.setHew h { (s.hew h).landLoad m with missed := (s.hew h).missed.take n ++ rest }))
      ∧ ((s.hew h).missed.drop n = [] ∨ s.pwr.pllLocked = false → exec (.loadReturn h n) s = .next s))
  ∧ (∀ (pa n ca k : Nat) (via : Option TlbEntry) (e : StoreEntry) (h : HewerId) (s : State),
      (s.areaOf pa = 1 → s.poisoned pa n = false → sbLatest (s.twin (s.twinOf h)).sbuf pa n = none →
        ∃ t late, s.loadPieces h [⟨.phys pa, n, ca, via⟩] = (t, .data (s.readBytes pa n) false late) ∧ t.mem = s.mem
          ∧ t.hewers = s.hewers)
      ∧ (s.areaOf pa = 1 → sbLatest (s.twin (s.twinOf h)).sbuf pa n = some (k, e) → e.covers pa n = true →
        s.loadPieces h [⟨.phys pa, n, ca, via⟩] = (s, .data (sliceBytes e.data (pa - e.pa) n) false false)))

/-- A store to DRAM commits its register's low bytes to the store buffer, and draining it writes those bytes and no others.
For every hewer with nothing in its way and a store of every kind and form whose access is allowed and reaches one piece of
DRAM at pa: st (with UP the base alone addresses and is then updated), the indexed form and push (w30 - 8, and w30 becomes it)
complete. The low bytes of the register, little-endian, stand last in the twin's store buffer with pa. Where the buffer had
room, no byte of memory and no other hewer changes; where it held eight, the oldest drains first. A store that drains writes
its byte i at its address plus i, leaves every other byte as it was, the storing hewer whole, and of every other hewer all but
a reservation of a granule written. The storing hewer changes only by the base update and the end of the instruction, and
every register but its event counters is kept. Rests on: 07_instruction_set.md R279, 07_instruction_set.md R280,
07_instruction_set.md R281, 07_instruction_set.md R305, 06_programmers_model.md R241, 08_pipeline.md R343. -/
def Obligations.StoresWriteOnlyTheirBytes : Prop :=
  (∀ (h : HewerId) (kind : StoreKind) (rd ra rb : RegNo) (up : Bool) (disp : BitVec 14) (scale : Fin 4) (s : State) (pa ca : Nat)
      (via : Option TlbEntry), s.Runs h →
    let x := s.hew h
    let base := x.getW ra
    let disp64 := disp.signExtend 64
    let buf := (s.twin (s.twinOf h)).sbuf
    let wrote := fun (d : List Byte) (y : Hewer) (t : State) =>
      t.hew h = y.next
      ∧ (t.twin (t.twinOf h)).sbuf = (if buf.length < 8 then buf else buf.drop 1) ++ [⟨pa, d, ca, s.classOf h, via⟩]
      ∧ (buf.length < 8 → t.mem = s.mem ∧ ∀ k, k ≠ h.val → t.hew k = s.hew k)
      ∧ (8 ≤ buf.length → ∀ e ∈ buf.head?, t.mem = (s.hewerWrite (some h) e.pa e.data).mem
          ∧ ∀ k, k ≠ h.val → t.hew k = (s.hew k).loseResv e.pa e.data.length)
      ∧ ∀ a, (∀ n, n < 8 → a ≠ Adr.TLY_HWR_CTR h n) → a ≠ Adr.TLY_HWR_STAT h → t.reg a = s.reg a
    let reaches := fun (ea : Word) (n : Nat) =>
      s.access h .store ea.toNat n = ⟨s, .ok [⟨.phys pa, n, ca, via⟩]⟩ ∧ s.areaOf pa = 1
    (reaches (if up then base else base + disp64) (storeSize kind) → (up = true → ra ≠ 0) →
      ∃ t, exec (.store h kind rd ra up disp) s = .next t
        ∧ wrote (x.storeBytes kind rd) (if up then x.setW ra (base + disp64) else x) t)
    ∧ (reaches (base + x.getW rb <<< scale.val) (storeSize kind) →
      ∃ t, exec (.storeIndexed h kind rd ra rb scale) s = .next t ∧ wrote (x.storeBytes kind rd) x t)
    ∧ ((x.getW 30).toNat % 8 = 0 → reaches (x.getW 30 - 8) 8 →
      ∃ t, exec (.push h ra) s = .next t
        ∧ wrote (bytesLE 8 base.toNat) (x.setW 30 (x.getW 30 - 8)) t))
  ∧ (∀ (h : HewerId) (e : StoreEntry) (s : State), s.Canonical →
      (∀ i (hi : i < e.data.length), (s.sbPerform h e).mem.byte (e.pa + i) = e.data[i])
      ∧ (∀ a, (a < e.pa ∨ e.pa + e.data.length ≤ a) → (s.sbPerform h e).mem.byte a = s.mem.byte a)
      ∧ (s.sbPerform h e).hew h = s.hew h
      ∧ ∀ k, k ≠ h.val → (s.sbPerform h e).hew k = (s.hew k).loseResv e.pa e.data.length)

/-- ldx reads and reserves its granule; stx stores and answers 0 where the reservation holds, else it stores nothing and
answers 1. For every hewer with nothing in its way and an aligned access that reaches DRAM at pa, answered without poison: ldx
writes the zero-extended word or doubleword and holds the 64-byte granule of pa; stx with that granule reserved drains the
store buffer, writes the low bytes of wb at pa, clears the reservation and writes 0 to wd; with any other or no reservation it
stores nothing, clears the reservation, writes 1 to wd and is counted as event 0x017. RL drains the store buffer first; AQ
changes nothing a single hewer sees. Other bytes are those of memory with the buffer drained. Rests on: 07_instruction_set.md
R301, 07_instruction_set.md R304, 07_instruction_set.md R305, 07_instruction_set.md R306, 07_instruction_set.md R308. -/
def Obligations.ReservationPair : Prop :=
  ∀ (h : HewerId) (wide aq rl : Bool) (rd ra rb : RegNo) (s : State) (pa ca : Nat) (via : Option TlbEntry), s.Runs h →
    let x := s.hew h
    let ea := (x.getW ra).toNat
    let n := if wide then 8 else 4
    let d := bytesLE n (x.getW rb).toNat
    let u := if rl then s.sbFlush h else s
    ea % n = 0 →
    (s.access h .ldx ea n = ⟨s, .ok [⟨.phys pa, n, ca, via⟩]⟩ →
      ∀ t b late, u.loadPieces h [⟨.phys pa, n, ca, via⟩] = (t, .data b false late) →
        exec (.ldx h wide aq rl rd ra) s = .next (t.completes h
          ({ x.setW rd (BitVec.ofNat 64 (natLE b)) with resv := some (pa / 64) }).next))
    ∧ (s.access h .stx ea n = ⟨s, .ok [⟨.phys pa, n, ca, via⟩]⟩ →
        (x.resv = some (pa / 64) →
          exec (.stx h wide aq rl rd ra rb) s
            = .next ((u.stxWrite h pa ca d).completes h ({ x.setW rd 0 with resv := none }).next)
          ∧ (∀ i (hi : i < d.length), (u.stxWrite h pa ca d).mem.byte (pa + i) = d[i])
          ∧ ∀ a, (a < pa ∨ pa + n ≤ a) → (u.stxWrite h pa ca d).mem.byte a = (s.sbFlush h).mem.byte a)
        ∧ (x.resv ≠ some (pa / 64) →
          exec (.stx h wide aq rl rd ra rb) s
            = .next ((u.tally h 0x017).completes h ({ x.setW rd 1 with resv := none }).next)))

/-- Each amo writes its function of the old value and wb at its address and the old value, zero-extended, to wd. For every
hewer with nothing in its way and an aligned access of 4 or 8 bytes that reaches unpoisoned DRAM at pa: amo.add, swap, and,
or, min, max, minu and maxu drain the store buffer and store the sum, wb, the conjunction, the disjunction, the signed or
unsigned minimum or maximum of the value at pa and wb (both cut to the access), write the old value zero-extended to wd, and
complete; the written bytes are those of the access only, and the amo is counted as event 0x018. Rests on:
07_instruction_set.md R301, 07_instruction_set.md R302, 07_instruction_set.md R303, 07_instruction_set.md R308, 08_pipeline.md
R346. -/
def Obligations.AtomicReadModifyWrite : Prop :=
  ∀ (h : HewerId) (wide aq rl : Bool) (rd ra rb : RegNo) (s : State) (pa ca : Nat) (via : Option TlbEntry), s.Runs h →
    let x := s.hew h
    let ea := (x.getW ra).toNat
    let n := if wide then 8 else 4
    let w := 8 * n
    let b := (x.getW rb).toNat % 2 ^ w
    let u := (s.sbFlush h).amoLine h (pa / 64) ca ((s.sbFlush h).classOf h)
    let old := natLE ((s.sbFlush h).readBytes pa n)
    let put := fun (v : Nat) => u.hewerWrite (some h) pa (bytesLE n v)
    let stored := fun (v : Nat) => Host.Outcome.next (φ := Fault) (ρ := Refusal) (((put v).tally h 0x018).completes h
      (x.setW rd (BitVec.ofNat 64 old)).next)
    ea % n = 0 → s.access h .amo ea n = ⟨s, .ok [⟨.phys pa, n, ca, via⟩]⟩ → (s.sbFlush h).poisoned pa n = false →
    (∀ v a, (a < pa ∨ pa + n ≤ a) → (put v).mem.byte a = (s.sbFlush h).mem.byte a)
    ∧ exec (.amoAdd h wide aq rl rd ra rb) s = stored ((old + b) % 2 ^ w)
    ∧ exec (.amoSwap h wide aq rl rd ra rb) s = stored b
    ∧ exec (.amoAnd h wide aq rl rd ra rb) s = stored (old &&& b)
    ∧ exec (.amoOr h wide aq rl rd ra rb) s = stored (old ||| b)
    ∧ exec (.amoMin h wide aq rl rd ra rb) s = stored (if signedOf w old ≤ signedOf w b then old else b)
    ∧ exec (.amoMax h wide aq rl rd ra rb) s = stored (if signedOf w old ≤ signedOf w b then b else old)
    ∧ exec (.amoMinu h wide aq rl rd ra rb) s = stored (min old b)
    ∧ exec (.amoMaxu h wide aq rl rd ra rb) s = stored (max old b)

/-- Taken branches and jumps put their target behind the delay slot; an untaken branch annuls its slot or runs it. For every
hewer with nothing in its way and a checkpoint free: a taken b.cond, jmp and jmpr move the program counter to the slot and
remember the target (pc plus four times the displacement, or wa, read before the slot executes) as where the unit ends; an
untaken b.cond with A passes the slot over (pc + 8), without A it runs the slot and goes on at pc + 8. jmpr with a target that
is no multiple of 4 takes exception 0x03 with the target as EVAL. In each case the predictor and the caches of the twin alone
change besides (training, and what a wrong path fetches), and the events are counted; memory, the other hewers and the other
registers are kept. An instruction that completes in the slot moves the program counter to the remembered target and ends the
unit. Rests on: 07_instruction_set.md R289, 07_instruction_set.md R290, 07_instruction_set.md R291, 07_instruction_set.md
R294, 07_instruction_set.md R295, 06_programmers_model.md R239. -/
def Obligations.TransfersOpenDelaySlot : Prop :=
  (∀ (h : HewerId) (a : Bool) (cond : Fin 16) (d20 : BitVec 20) (d24 : BitVec 24) (ra : RegNo) (s : State), s.Runs h →
    let x := s.hew h
    let opened := fun (t : State) (target : Word) =>
      t.hew h = { x.done with unit := some ⟨x.pc, target, none, 0, none, x.rsp⟩, pc := x.pc + 4 }
    let rest := fun (t : State) => (∀ k, k ≠ h.val → t.hew k = s.hew k) ∧ t.mem = s.mem ∧ t.drt = s.drt ∧ t.lode = s.lode
      ∧ (∀ b, (∀ n, n < 8 → b ≠ Adr.TLY_HWR_CTR h n) → b ≠ Adr.TLY_HWR_STAT h → t.reg b = s.reg b)
    (s.twin (s.twinOf h)).pred.cps.length < 4 →
    (condHolds cond x.nzcv = true →
      ∃ t, exec (.bCond h a cond d20) s = .next t ∧ opened t (x.pc + d20.signExtend 64 <<< 2) ∧ rest t)
    ∧ (condHolds cond x.nzcv = false → a = true →
      ∃ t, exec (.bCond h a cond d20) s = .next t ∧ t.hew h = { x.done with pc := x.pc + 8 } ∧ rest t)
    ∧ (condHolds cond x.nzcv = false → a = false →
      ∃ t, exec (.bCond h a cond d20) s = .next t ∧ opened t (x.pc + 8) ∧ rest t)
    ∧ (∃ t, exec (.jmp h a d24) s = .next t ∧ opened t (x.pc + d24.signExtend 64 <<< 2) ∧ rest t)
    ∧ ((x.getW ra).toNat % 4 = 0 → ∃ t, exec (.jmpr h a ra) s = .next t ∧ opened t (x.getW ra) ∧ rest t)
    ∧ ((x.getW ra).toNat % 4 ≠ 0 → exec (.jmpr h a ra) s = .next (s.traps h 0x03 (x.getW ra))))
  ∧ ∀ (s : State) (h : Nat) (u : TransferUnit), (s.hew h).unit = some u → u.push = none → (s.hew h).ctl = [] →
      s.retire h = s.setHew h { (s.hew h).done with unit := none, pc := u.next }

/-- call, callr and ret use the return stack: its limits are checked first, RSP moves, and the slot's end stores the address.
For every hewer with nothing in its way and a checkpoint free: call and callr with RSP + 8 above RSL take exception 0x0B with
RSP as EVAL; otherwise, with the stack write allowed at pa, RSP goes up by 8, the unit ends at the target and pushes the
call's address plus 8 at pa. ret with RSP at or below RSB takes exception 0x0C with RSP as EVAL; otherwise the doubleword at
RSP - 8, read unpoisoned, is the target, and RSP goes down by 8. callr and ret with a misaligned target take 0x03. An
instruction that completes in the slot of a unit that pushes into DRAM puts the return address into the store buffer for pa;
one that raises an exception there leaves RSP as it was before the transfer. Rests on: 06_programmers_model.md R243,
06_programmers_model.md R244, 07_instruction_set.md R289, 07_instruction_set.md R292, 08_pipeline.md R343, 08_pipeline.md
R358. -/
def Obligations.CallsAndReturns : Prop :=
  (∀ (h : HewerId) (a : Bool) (disp : BitVec 24) (ra : RegNo) (s u : State) (pa ca : Nat) (via : Option TlbEntry) (l : List Piece)
      (b : List Byte) (late : Bool), s.Runs h → (s.twin (s.twinOf h)).pred.cps.length < 4 →
    let x := s.hew h
    let opened := fun (t u : State) (target : Word) (push : Option Word) (ca : Nat) (via : Option TlbEntry) (rsp : Word) =>
      t.hew h = { x.done with unit := some ⟨x.pc, target, push, ca, via, x.rsp⟩, rsp := rsp, pc := x.pc + 4 } ∧ t.mem = u.mem
    let called := fun (t : State) (target : Word) => opened t s target (some (BitVec.ofNat 64 pa)) ca via (x.rsp + 8)
    (x.rsl.toNat < x.rsp.toNat + 8 →
      exec (.call h a disp) s = .next (s.traps h 0x0B x.rsp)
      ∧ ((x.getW ra).toNat % 4 = 0 → exec (.callr h a ra) s = .next (s.traps h 0x0B x.rsp)))
    ∧ ((x.getW ra).toNat % 4 ≠ 0 → exec (.callr h a ra) s = .next (s.traps h 0x03 (x.getW ra)))
    ∧ (x.rsp.toNat + 8 ≤ x.rsl.toNat → s.access h .stackWrite x.rsp.toNat 8 = ⟨s, .ok [⟨.phys pa, 8, ca, via⟩]⟩ →
      (∃ t, exec (.call h a disp) s = .next t ∧ called t (x.pc + disp.signExtend 64 <<< 2))
      ∧ ((x.getW ra).toNat % 4 = 0 → ∃ t, exec (.callr h a ra) s = .next t ∧ called t (x.getW ra)))
    ∧ (x.rsp.toNat ≤ x.rsb.toNat → exec (.ret h a) s = .next (s.traps h 0x0C x.rsp))
    ∧ (x.rsb.toNat < x.rsp.toNat → s.access h .stackRead (x.rsp - 8).toNat 8 = ⟨s, .ok l⟩ →
        s.loadPieces h l = (u, .data b false late) → b.length = 8 →
      (natLE b % 4 = 0 → ∃ t, exec (.ret h a) s = .next t ∧ opened t u (BitVec.ofNat 64 (natLE b)) none 0 none (x.rsp - 8))
      ∧ (natLE b % 4 ≠ 0 → exec (.ret h a) s = .next (u.traps h 0x03 (BitVec.ofNat 64 (natLE b))))))
  ∧ ∀ (s : State) (h : Nat) (u : TransferUnit), (s.hew h).unit = some u → (s.hew h).ctl = [] →
      (s.hew h).undoUnit.rsp = u.rsp
      ∧ (∀ pa, u.push = some pa → s.areaOf pa.toNat = 1 → s.retire h
        = (s.setHew h { (s.hew h).done with unit := none, pc := u.next }).sbPut h
            ⟨pa.toNat, bytesLE 8 (u.addr + 8).toNat, u.ca, s.classOf h, u.via⟩)

/-- rep with CNT 0 passes the instruction over; otherwise the instruction runs until its completions have counted CNT down to
0. For every hewer with nothing in its way whose next word is fetched without a fault and is one that rep may repeat: rep with
CNT[31:0] = 0 goes on at its own address plus 8; otherwise the program counter goes to the repeated instruction and the rep
stays in force. Each completion of the repeated instruction takes 1 off CNT[31:0]; at 0 the rep ends and the program counter
goes to the rep's address plus 8, and before that it stays. A word that may not be repeated takes exception 0x01. Rests on:
07_instruction_set.md R296, 07_instruction_set.md R297, 07_instruction_set.md R298, 07_instruction_set.md R299. -/
def Obligations.RepRepeatsItsInstruction : Prop :=
  (∀ (h : HewerId) (word : Word32) (s u : State) (l : Leaf), s.Runs h →
    let x := s.hew h
    s.fetchAt h (x.pc + 4).toNat = ⟨u, .ok l⟩ →
    (repeatable word.toNat = true →
      (x.cnt.toNat % 2 ^ 32 = 0 → ∃ t, exec (.rep h word) s = .next t ∧ (t.hew h).pc = x.pc + 8 ∧ (t.hew h).rep = none)
      ∧ (x.cnt.toNat % 2 ^ 32 ≠ 0 → ∃ t, exec (.rep h word) s = .next t ∧ (t.hew h).pc = x.pc + 4
          ∧ (t.hew h).rep = some x.pc ∧ (t.hew h).cnt.toNat % 2 ^ 32 = x.cnt.toNat % 2 ^ 32))
    ∧ (repeatable word.toNat = false → exec (.rep h word) s = .next (u.traps h 0x01 (BitVec.ofNat 64 wRep))))
  ∧ ∀ (s : State) (h : Nat) (a : Word), (s.hew h).unit = none → (s.hew h).rep = some a → (s.hew h).ctl = [] →
      let x := s.hew h
      let y := (s.retire h).hew h
      (x.cnt.toNat % 2 ^ 32 = 1 → y.rep = none ∧ y.pc = a + 8 ∧ y.cnt.toNat % 2 ^ 32 = 0)
      ∧ (1 < x.cnt.toNat % 2 ^ 32 → y.rep = some a ∧ y.pc = x.pc ∧ y.cnt.toNat % 2 ^ 32 = x.cnt.toNat % 2 ^ 32 - 1)

/-- Taking an exception saves the address, the cause and the value in the set entered, raises the privilege and goes to the
vector. For every hewer h: an exception of cause c with EPC e and EVAL v, outside the vector window of its privilege, enters M
where the hewer is in M or c is 0x10 or 0x18 or routed to M by HWR_XROUTE (whose bits 16 and 24 count as set), else S (0x0F
always enters S from below M). In the set entered EPC is e, EVAL is v, and ECAUSE holds the cause, the privilege left and the
flags and level left; the other set is kept; the privilege becomes that of the set; ILVL becomes 15 for 0x18 and is kept for
the others; the program counter becomes VBASE plus 64 times the cause; outstanding loads that wait for no host return;
buffered stores are performed; otherwise the registers, the other hewers and DRAM are kept; a transfer unit or rep in force
ends, and the window of the set opens. In the window of S it enters M with cause 0x18, reason 4, and in that of M the hewer
check-stops. Rests on: 06_programmers_model.md R249, 06_programmers_model.md R251, 11_exceptions_canary.md R440,
11_exceptions_canary.md R442, 11_exceptions_canary.md R446, 11_exceptions_canary.md R448, 08_pipeline.md R374,
12_caches_ordering_code.md R486. -/
def Obligations.ExceptionEntry : Prop :=
  ∀ (s : State) (h : Nat) (code : Nat) (epc eval : Word), h < 512 → code < 64 → s.Canonical →
    let x := s.hew h
    let m := s.routesToM h x.pl code
    let t := s.takeExc h code epc eval
    let y := t.hew h
    (¬(x.winM = true ∧ x.pl = 3) → ¬(x.winS = true ∧ x.pl = 1) →
      (m = true ↔ x.pl = 3 ∨ (code ≠ 0x0F ∧ (code = 0x10 ∨ code = 0x18 ∨ (s.reg (Adr.HWR_XROUTE h)).toNat.testBit code = true)))
      ∧ (y.set m).epc = epc ∧ (y.set m).eval = eval ∧ (y.set m).vbase = (x.set m).vbase
      ∧ bitsOf (y.set m).ecause.toNat 8 0 = code ∧ bitsOf (y.set m).ecause.toNat 17 16 = x.pl
      ∧ bitsOf (y.set m).ecause.toNat 31 28 = x.nzcv ∧ bitsOf (y.set m).ecause.toNat 27 24 = x.ilvl
      ∧ y.set (!m) = x.set (!m)
      ∧ y.pl = (if m then 3 else 1) ∧ y.ilvl = (if code = 0x18 then 15 else x.ilvl)
      ∧ y.pc = (x.set m).vbase + BitVec.ofNat 64 (code * 64)
      ∧ y.w = x.landBack.w ∧ y.v = x.landBack.v ∧ y.unit = none ∧ y.rep = none ∧ y.resv = none
      ∧ y.winM = (m || x.winM) ∧ y.winS = (!m || x.winS)
      ∧ (∀ k, k ≠ h → t.hew k = (s.sbFlush h).hew k) ∧ t.mem = (s.sbFlush h).mem
      ∧ ∀ a, (∀ n, n < 8 → a ≠ Adr.TLY_HWR_CTR h n) → a ≠ Adr.TLY_HWR_STAT h → t.reg a = s.reg a)
    ∧ (x.winS = true → x.pl = 1 →
      y.mSet.epc = epc ∧ y.mSet.eval = BitVec.ofNat 64 (4 * 2 ^ 56) ∧ bitsOf y.mSet.ecause.toNat 8 0 = 0x18
      ∧ y.sSet = x.sSet ∧ y.pl = 3 ∧ y.ilvl = 15 ∧ y.pc = x.mSet.vbase + BitVec.ofNat 64 (0x18 * 64))
    ∧ (x.winM = true → x.pl = 3 → t = s.checkStop h)

/-- sys, mon, the software breakpoint and an illegal word take their own exceptions; eret restores from the current set. For
every hewer with nothing in its way: sys in U enters S with cause 0x0F and mon in S enters M with cause 0x10, each with EPC
behind the instruction, the flow in force ended and the interrupt level made 0; sys outside U and mon in M are illegal (0x01),
mon in U is a privilege violation (0x02). A fetched word equal to DBG_SWBP.WORD takes 0x11 where SWBP_EN is 1 and the hewer is
not exempt, and a word that no instruction has takes 0x01, each with EPC at the instruction and the word as EVAL. For every
hewer with nothing in its way, in S or M, with no saved thread to return to, whose return does not stay banked below M: eret
completes with the program counter at EPC of the current set, the privilege of ECAUSE.PPL, the flags of ECAUSE[31:28] and the
level of ECAUSE[27:24]; both exception sets, the general and the vector registers are kept; buffered stores are performed, and
memory and the other hewers are otherwise kept. In U eret takes exception 0x02. Rests on: 06_programmers_model.md R249,
06_programmers_model.md R250, 06_programmers_model.md R258, 06_programmers_model.md R262, 07_instruction_set.md R273,
07_instruction_set.md R316, 21_debug.md R787, 11_exceptions_canary.md R446. -/
def Obligations.SystemEntriesAndReturn : Prop :=
  (∀ (h : HewerId) (word : Word32) (s : State), s.Runs h →
    let x := s.hew h
    let entered := fun (code : Nat) (m : Bool) => Host.Outcome.next (φ := Fault) (ρ := Refusal)
      ((((s.setHew h x.done).tally h 0x014).enter h m false code (x.pc + 4) (some 0) none).tally h 0x002)
    let traps := fun (code : Nat) (w : Nat) => Host.Outcome.next (φ := Fault) (ρ := Refusal) (s.traps h code (BitVec.ofNat 64 w))
    (x.pl = 0 → exec (.sys h) s = entered 0x0F false)
    ∧ (x.pl ≠ 0 → exec (.sys h) s = traps 0x01 (wSystem 0 0 1 2))
    ∧ (x.pl = 1 → exec (.mon h) s = entered 0x10 true)
    ∧ (x.pl = 0 → exec (.mon h) s = traps 0x02 (wSystem 0 0 2 2))
    ∧ (x.pl = 3 → exec (.mon h) s = traps 0x01 (wSystem 0 0 2 2))
    ∧ (s.flag F.DBG_CTL.SWBP_EN = true → x.exempt = false →
        exec (.softwareBreakpoint h) s = traps 0x11 (s.fld F.DBG_SWBP.WORD))
    ∧ (s.flag F.DBG_CTL.SWBP_EN = false → exec (.softwareBreakpoint h) s = traps 0x01 (s.fld F.DBG_SWBP.WORD))
    ∧ (s.flag F.DBG_CTL.SWBP_EN = false → legalWord word.toNat = false →
        exec (.illegalInstruction h word) s = traps 0x01 word.toNat))
  ∧ ∀ (h : HewerId) (s : State), s.Runs h →
    let x := s.hew h
    let e := x.set (x.pl = 3)
    let c := e.ecause.toNat
    (x.pl ≠ 0 → x.eretRestores = none → (s.staysBanked h = true → bitsOf c 17 16 = 3) →
      ∃ t, exec (.eret h) s = .next t
        ∧ (t.hew h).pc = e.epc ∧ (t.hew h).pl = bitsOf c 17 16 ∧ (t.hew h).nzcv = bitsOf c 31 28
        ∧ (t.hew h).psf 27 24 = bitsOf c 27 24 ∧ (t.hew h).sSet = x.sSet ∧ (t.hew h).mSet = x.mSet
        ∧ (t.hew h).w = x.w ∧ (t.hew h).v = x.v ∧ t.mem = (s.sbFlush h).mem ∧ ∀ k, k ≠ h.val → t.hew k = (s.sbFlush h).hew k)
    ∧ (x.pl = 0 → exec (.eret h) s = .next (s.traps h 0x02 (BitVec.ofNat 64 (wSystem 0 0 3 2))))

/-- FP arithmetic works lane by lane, notes every exception in FX, and traps without a result where FE enables one. For every
hewer with nothing in its way and both formats, scalar and vector: fadd, fsub, fmul, fdiv, fsqrt, fmin, fmax, fabs, fneg,
fmadd, fmsub, fnmsub and fnmadd compute each lane with the operation of the format under RM (fused operations with one
rounding and the signs of R311). Where no raised exception is enabled in FE, vd receives the lanes (a scalar clears the bits
above it) and FX gains the exceptions; where one is enabled, FX gains them too and exception 0x16 is taken with the enabled
ones as EVAL, and vd is not written. fabs clears the sign bit of a lane and fneg inverts it; neither raises an exception.
Rests on: 07_instruction_set.md R310, 07_instruction_set.md R311, 06_programmers_model.md R234, 06_programmers_model.md R236,
11_exceptions_canary.md R437. -/
def Obligations.FpArithmeticLanes : Prop :=
  (∀ (h : HewerId) (f : FpForm) (vd va vb vc : RegNo) (s : State), s.Runs h →
    let x := s.hew h
    let m := fmtOf f.single
    let a := fun (k : Nat) => laneOf (x.getV va) m.width k
    let b := fun (k : Nat) => laneOf (x.getV vb) m.width k
    let c := fun (k : Nat) => laneOf (x.getV vc) m.width k
    let works := fun (i : Instr) (op : Nat → FpRes) =>
      let l := (List.range (if f.vector then (if f.single then 4 else 2) else 1)).map op
      let flags := l.foldl (fun acc r => acc ||| r.flags) 0
      let y := x.setPsf 36 32 (x.psf 36 32 ||| flags)
      (x.psf 41 37 &&& flags = 0 →
        exec i s = .next (s.completes h (y.setV vd (ofLanes m.width (l.map FpRes.bits))).next))
      ∧ (x.psf 41 37 &&& flags ≠ 0 →
        exec i s = .next ((s.setHew h y).traps h 0x16 (BitVec.ofNat 64 (x.psf 41 37 &&& flags))))
    let val := fpDecode m
    works (.fadd h f vd va vb) (fun k => fpAdd m x.rm (val (a k)) (val (b k)))
    ∧ works (.fsub h f vd va vb) (fun k => fpAdd m x.rm (val (a k)) (val (b k)).negate)
    ∧ works (.fmul h f vd va vb) (fun k => fpMul m x.rm (val (a k)) (val (b k)))
    ∧ works (.fdiv h f vd va vb) (fun k => fpDiv m x.rm (val (a k)) (val (b k)))
    ∧ works (.fsqrt h f vd va) (fun k => fpSqrt m x.rm (val (a k)))
    ∧ works (.fmin h f vd va vb) (fun k => fpMinMax m false (a k) (b k))
    ∧ works (.fmax h f vd va vb) (fun k => fpMinMax m true (a k) (b k))
    ∧ works (.fabs h f vd va) (fun k => ⟨fpAbs m (a k), 0⟩)
    ∧ works (.fneg h f vd va) (fun k => ⟨fpNeg m (a k), 0⟩)
    ∧ works (.fmadd h f vd va vb vc) (fun k => fpFma m x.rm (val (a k)) (val (b k)) (val (c k)))
    ∧ works (.fmsub h f vd va vb vc) (fun k => fpFma m x.rm (val (a k)) (val (b k)) (val (c k)).negate)
    ∧ works (.fnmsub h f vd va vb vc) (fun k => fpFma m x.rm (val (a k)).negate (val (b k)) (val (c k)))
    ∧ works (.fnmadd h f vd va vb vc) (fun k => fpFma m x.rm (val (a k)).negate (val (b k)) (val (c k)).negate))
  ∧ ∀ (m : FpFmt) (v j : Nat), v < 2 ^ m.width →
      (fpAbs m v).testBit j = (decide (j ≠ m.width - 1) && v.testBit j)
      ∧ (fpNeg m v).testBit j = (v.testBit j != decide (j = m.width - 1))

/-- FP compares set the four flags; conversions write the integer or the number they give, saturating and noting exceptions.
For every hewer with nothing in its way and every exception that an operation raises disabled in FE: fcmp and fcmpe set N for
less, Z and C for equal, C for greater, C and V for unordered; fcvt.i and fcvt.u write the rounded integer to wd, icvt and
ucvt write the number of the signed or unsigned wa to the scalar of vd, fcvt.sd and fcvt.ds convert between the formats; FX
gains what was raised. A NaN converts to 0 with the invalid exception, an infinity to the limit of the range with it. Rests
on: 06_programmers_model.md R240, 07_instruction_set.md R312, 07_instruction_set.md R313, 07_instruction_set.md R314,
06_programmers_model.md R236. -/
def Obligations.FpCompareAndConvert : Prop :=
  (∀ (h : HewerId) (single : Bool) (vd va vb wd wa : RegNo) (s : State), s.Runs h →
    let x := s.hew h
    let m := fmtOf single
    let a := laneOf (x.getV va) m.width 0
    let b := laneOf (x.getV vb) m.width 0
    let noted := fun (flags : Nat) => x.setPsf 36 32 (x.psf 36 32 ||| flags)
    let quiet := fun (flags : Nat) => x.psf 41 37 &&& flags = 0
    let scalar := fun (r : FpRes) (w : Nat) => s.completes h ((noted r.flags).setV vd (BitVec.ofNat 128 (r.bits % 2 ^ w))).next
    let compares := fun (i : Instr) (signalling : Bool) =>
      let invalid := decide (fpOrder (fpDecode m a) (fpDecode m b) = none)
        && (signalling || (fpDecode m a).isSnan || (fpDecode m b).isSnan)
      let flags := if invalid then fpInvalid else 0
      let n := match fpOrder (fpDecode m a) (fpDecode m b) with
        | none => nzcvOf false false true true
        | some o => nzcvOf (decide (o < 0)) (decide (o = 0)) (decide (0 ≤ o)) false
      quiet flags → exec i s = .next (s.completes h ((noted flags).setNzcv n).next)
    let toInt := fun (i : Instr) (isSigned : Bool) =>
      let r := fpToInt x.rm isSigned (fpDecode m a)
      quiet r.flags → exec i s = .next (s.completes h ((noted r.flags).setW wd (BitVec.ofNat 64 r.bits)).next)
    let toFp := fun (i : Instr) (v : Int) =>
      let r := fpFromInt m x.rm v
      quiet r.flags → exec i s = .next (scalar r m.width)
    compares (.fcmp h single va vb) false ∧ compares (.fcmpe h single va vb) true
    ∧ toInt (.fcvtI h single wd va) true ∧ toInt (.fcvtU h single wd va) false
    ∧ toFp (.icvt h single vd wa) (x.getW wa).toInt ∧ toFp (.ucvt h single vd wa) (x.getW wa).toNat
    ∧ (let r := fpConvert .sgl x.rm (fpDecode .dbl (laneOf (x.getV va) 64 0))
       quiet r.flags → exec (.fcvtSd h vd va) s = .next (scalar r 32))
    ∧ (let r := fpConvert .dbl x.rm (fpDecode .sgl (laneOf (x.getV va) 32 0))
       quiet r.flags → exec (.fcvtDs h vd va) s = .next (scalar r 64)))
  ∧ ∀ (rm : RoundMode) (n snan : Bool),
      fpToInt rm true (.nan snan) = ⟨0, fpInvalid⟩ ∧ fpToInt rm false (.nan snan) = ⟨0, fpInvalid⟩
      ∧ fpToInt rm true (.inf n) = ⟨if n then 2 ^ 63 else 2 ^ 63 - 1, fpInvalid⟩
      ∧ fpToInt rm false (.inf n) = ⟨if n then 0 else 2 ^ 64 - 1, fpInvalid⟩

/-- Integer vector operations work on every lane modulo its width; lane moves touch one lane; a lane number that does not
exist is illegal. For every hewer with nothing in its way: vadd, vsub, vand, vor and vxor write each lane of vd from the same
lane of va and vb, wrapping at the lane's width; vmov.wv writes the low bits of wa into one lane of vd and keeps every other
bit; vmov.vw writes one lane of va zero-extended into wd. With 64-bit lanes a lane number above 1 takes exception 0x01. No
flag changes. Rests on: 07_instruction_set.md R313, 07_instruction_set.md R315, 06_programmers_model.md R234,
11_exceptions_canary.md R437. -/
def Obligations.VectorIntegerAndLaneMoves : Prop :=
  ∀ (h : HewerId) (small : Bool) (lane : Fin 4) (vd va vb wd wa : RegNo) (s : State), s.Runs h →
    let x := s.hew h
    let w := if small then 32 else 64
    let lanes := fun (i : Instr) (op : Nat → Nat → Nat) =>
      ∃ r : VWord, exec i s = .next (s.completes h (x.setV vd r).next)
        ∧ ∀ k, k < 128 / w → laneOf r w k = op (laneOf (x.getV va) w k) (laneOf (x.getV vb) w k) % 2 ^ w
    lanes (.vadd h small vd va vb) (fun a b => a + b)
    ∧ lanes (.vsub h small vd va vb) (fun a b => 2 ^ w + a - b)
    ∧ lanes (.vand h small vd va vb) (fun a b => a &&& b)
    ∧ lanes (.vor h small vd va vb) (fun a b => a ||| b)
    ∧ lanes (.vxor h small vd va vb) (fun a b => a ^^^ b)
    ∧ ((small = true ∨ lane.val ≤ 1) →
        (∃ r : VWord, exec (.vmovWv h small lane vd wa) s = .next (s.completes h (x.setV vd r).next)
          ∧ laneOf r w lane = (x.getW wa).toNat % 2 ^ w
          ∧ ∀ j, (j < w * lane.val ∨ w * lane.val + w ≤ j) → r.getLsbD j = (x.getV vd).getLsbD j)
        ∧ exec (.vmovVw h small lane wd va) s
            = .next (s.completes h (x.setW wd (BitVec.ofNat 64 (laneOf (x.getV va) w lane))).next))
    ∧ (small = false → 1 < lane.val → ∃ e e', exec (.vmovWv h small lane vd wa) s = .next (s.traps h 0x01 e)
        ∧ exec (.vmovVw h small lane wd va) s = .next (s.traps h 0x01 e'))

/-- mfs reads and mts writes a system register where the privilege allows it; otherwise each takes its exception. For every
hewer with nothing in its way and every system register: mfs with the right to read completes and writes the register's latest
value to wd; mts with the right to write completes, changes that register alone, and moves the program counter on. An unlisted
number takes 0x01, a missing right 0x02, with the word as EVAL. What was written is what is read for the plain registers
TASKID (low 16 bits), RSP, RSB and RSL (multiples of 8), and PKR, BANK, CNT and ASID keep the old value for the instructions
of their distance beside the new one. Rests on: 06_programmers_model.md R264, 06_programmers_model.md R265,
07_instruction_set.md R316, 07_instruction_set.md R325, 07_instruction_set.md R326, 07_instruction_set.md R328,
06_programmers_model.md R242, 11_exceptions_canary.md R437. -/
def Obligations.SystemRegisterMoves : Prop :=
  ∀ (h : HewerId) (r : RegNo) (sel : BitVec 12) (s : State), s.Runs h →
    let x := s.hew h
    let n := sel.toNat
    let v := x.getW r
    (sysRegDefined n = true → 1 ≤ sysAccess n x.pl →
      exec (.mfs h r sel) s = .next (s.completes h (x.setW r (s.sysRead h n)).next))
    ∧ (sysRegDefined n = true → sysAccess n x.pl = 2 →
      (∃ t key, exec (.mts h r sel) s = .next t ∧ t.hew h = { (x.sysWrite n v).ctlPass.next with ctlKey := key }
        ∧ t.mem = s.mem ∧ ∀ k, k ≠ h.val → t.hew k = s.hew k)
      ∧ ((x.sysWrite n v).ctl = [] → exec (.mts h r sel) s = .next (s.completes h (x.sysWrite n v).next)))
    ∧ (sysRegDefined n = false → exec (.mfs h r sel) s = .next (s.traps h 0x01 (BitVec.ofNat 64 (wSystem r 0 n 0)))
        ∧ exec (.mts h r sel) s = .next (s.traps h 0x01 (BitVec.ofNat 64 (wSystem 0 r n 1))))
    ∧ (sysRegDefined n = true → sysAccess n x.pl = 0 →
        exec (.mfs h r sel) s = .next (s.traps h 0x02 (BitVec.ofNat 64 (wSystem r 0 n 0))))
    ∧ (sysRegDefined n = true → sysAccess n x.pl < 2 →
        exec (.mts h r sel) s = .next (s.traps h 0x02 (BitVec.ofNat 64 (wSystem 0 r n 1))))
    ∧ (x.sysWrite 0x018 v).taskid = BitVec.ofNat 64 (v.toNat % 2 ^ 16)
    ∧ (x.sysWrite 0x030 v).rsp = BitVec.ofNat 64 (v.toNat / 8 * 8)
    ∧ (x.sysWrite 0x031 v).rsb = BitVec.ofNat 64 (v.toNat / 8 * 8)
    ∧ (x.sysWrite 0x032 v).rsl = BitVec.ofNat 64 (v.toNat / 8 * 8)
    ∧ (x.sysWrite 0x028 v).pkr = BitVec.ofNat 64 (v.toNat % 2 ^ 32)
    ∧ (x.sysWrite 0x028 v).ctl = [⟨.pkr, x.pkr, some 3⟩]
    ∧ (x.sysWrite 0x038 v).ctl = [⟨.bank, x.bank, some 4⟩]
    ∧ (x.sysWrite 0x039 v).ctl = [⟨.cnt, x.cnt, some 2⟩]
    ∧ (x.sysWrite 0x010 v).ctl = [⟨.asid, x.asid, none⟩]

/-- Fences drain stores; ifence refetches; sync puts control state in force; cdtsync reaches the decode table; xinv goes to
each twin. For every hewer with nothing in its way: fence.r completes and changes nothing else (no load is outstanding);
fence.w and fence.rw complete with the store buffer drained; ifence completes with it drained and L1 I empty; sync in S or M
with no xinv outstanding does the same and brings the decode table's writes and every control write into force, and with one
outstanding it waits; in U sync and xinv take 0x02; cdtsync completes as ifence does and the twin's copy has every
decode-table write accepted so far. In S and M xinv.a, xinv.t and xinv.all complete with the stores drained and one operation
queued for each twin of the scope: the hewer's own, the nine of the gallery, or all 576. XINV_COMPLETE at a twin removes the
oldest operation queued for it and the matching entries of that twin alone; it changes nothing while an access translated with
a removed entry remains to be performed there. Rests on: 07_instruction_set.md R317, 07_instruction_set.md R318,
07_instruction_set.md R319, 07_instruction_set.md R320, 07_instruction_set.md R321, 08_pipeline.md R346, 08_pipeline.md R348,
12_caches_ordering_code.md R476, 10_translation.md R426, 10_translation.md R427, 10_translation.md R429. -/
def Obligations.SynchronisationAndInvalidation : Prop :=
  (∀ (h : HewerId) (scope : XScope) (rd ra : RegNo) (s : State), s.Runs h →
    let x := s.hew h
    let drained := s.sbFlush h
    let refetched := (s.sbFlush h).l1iDrop h
    let twins := match scope with
      | .loc => [s.twinOf h]
      | .gallery => (List.range 9).map (fun i => h / 8 * 9 + i)
      | .device => List.range 576
    let sent := fun (va asid : Option Nat) =>
      drained.completes h { x with xinv := x.xinv ++ twins.map (fun t => (⟨t, va, asid⟩ : XinvOp)) }.next
    let asid := (x.getW rd).toNat % 0x10000
    exec (.fenceR h) s = .next (s.completes h x.next)
    ∧ exec (.fenceW h) s = .next (drained.completes h x.next)
    ∧ exec (.fenceRw h) s = .next (drained.completes h x.next)
    ∧ exec (.ifence h) s = .next (refetched.completes h x.next)
    ∧ (x.pl ≠ 0 → x.xinv = [] →
        exec (.sync h) s = .next ((refetched.ctlInForce h).completes h { x with cdtOld := [] }.next))
    ∧ (x.pl ≠ 0 → x.xinv ≠ [] → exec (.sync h) s = .next refetched)
    ∧ (x.pl = 0 → exec (.sync h) s = .next (s.traps h 0x02 (BitVec.ofNat 64 (wSystem 0 0 8 2))))
    ∧ exec (.cdtsync h) s = .next ((refetched.cdtReach h).completes h { x with cdtOld := [] }.next)
    ∧ (x.pl ≠ 0 → exec (.xinvA h scope rd ra) s = .next (sent (some (x.getW ra).toNat) (some asid)))
    ∧ (x.pl ≠ 0 → exec (.xinvT h scope rd) s = .next (sent none (some asid)))
    ∧ (x.pl ≠ 0 → exec (.xinvAll h scope) s = .next (sent none none))
    ∧ (x.pl = 0 → exec (.xinvA h scope rd ra) s = .next (s.traps h 0x02 (BitVec.ofNat 64 (wSystem rd ra (xinvSel 0 scope) 3)))
        ∧ exec (.xinvT h scope rd) s = .next (s.traps h 0x02 (BitVec.ofNat 64 (wSystem rd 0 (xinvSel 1 scope) 3)))
        ∧ exec (.xinvAll h scope) s = .next (s.traps h 0x02 (BitVec.ofNat 64 (wSystem 0 0 (xinvSel 2 scope) 3))))
    ∧ (drained.twin (drained.twinOf h)).sbuf = (s.twin (s.twinOf h)).sbuf.drop 8
    ∧ (refetched.twin (refetched.twinOf h)).l1i = []
    ∧ ((s.twin (s.twinOf h)).cdtSeen ≤ s.cdt.inFlight.length →
        ((s.cdtReach h).twin (s.twinOf h)).cdtSeen = s.cdt.inFlight.length))
  ∧ ∀ (h : HewerId) (twin : Fin 576) (s : State) (pre post : List XinvOp) (o : XinvOp), s.pwr.pllLocked = true →
      (s.hew h).xinv = pre ++ o :: post → o.twin = twin → (∀ p ∈ pre, p.twin ≠ twin) →
      let waits := (s.pendingVia twin).any (fun v => v.any (fun e => e.removedBy o.va o.asid))
      (waits = false → exec (.xinvComplete h twin) s
        = .next ((s.setHew h { s.hew h with xinv := pre ++ post }).setTwin twin ((s.twin twin).invalidate o.va o.asid)))
      ∧ (waits = true → exec (.xinvComplete h twin) s = .next s)

/-- in reads and out writes an IO register that the hewer may access; a refused access raises 0x14 with its reason and no
effect. For every hewer with nothing in its way and an IO address of wa plus the displacement that is aligned to the access:
buffered stores are performed first; where the register map answers with a register and no reason to refuse, in writes the
value read to wd with the effects of the read (none for a register without fields that a read changes), and out performs the
write of the low 32 or all 64 bits of the register named in rd, where that write leaves the hewer as it was; each counts event
0x019. With a reason, each takes exception 0x14 whose EVAL holds the reason in [63:56] and the address, and changes no IO
register. A misaligned address takes 0x03. Rests on: 06_programmers_model.md R255, 23_register_map.md R832, 08_pipeline.md
R346, 11_exceptions_canary.md R437, 11_exceptions_canary.md R438. -/
def Obligations.IoInstructions : Prop :=
  ∀ (h : HewerId) (wide : Bool) (rd ra : RegNo) (disp : BitVec 14) (s : State), s.Runs h →
    let x := s.hew h
    let u := s.sbFlush h
    let a := (x.getW ra + disp.signExtend 64).toNat
    let n := if wide then 8 else 4
    let v := if wide then (x.getW rd).toNat else (x.getW rd).toNat % 2 ^ 32
    let reads := fun (t : State) (r : Word) =>
      ((t.setHew h ((t.hew h).setW rd r)).tally h 0x019).completes h ((t.hew h).setW rd r).next
    (a % n = 0 → ∀ d, findReg a = some d → u.ioReason (some h) a n false = none → d.name ≠ .DBG_HWR_VRX →
        d.fields.any (fun f => f.acc = .rc) = false →
        exec (.ioIn h wide rd ra disp) s = .next (reads u (u.ioValue (u.hidesFrom (.hewer h)) d a)))
    ∧ (a % n = 0 → ∀ d t r, findReg a = some d → u.ioReason (some h) a n false = none → u.ioRead (.hewer h) d a = (r, t) →
        t.Ends h → exec (.ioIn h wide rd ra disp) s = .next (reads t r))
    ∧ (a % n = 0 → ∀ r, u.ioReason (some h) a n false = some r →
        exec (.ioIn h wide rd ra disp) s = .next (u.traps h 0x14 (BitVec.ofNat 64 (r * 2 ^ 56 + a % 2 ^ 32))))
    ∧ (a % n = 0 → ∀ d t, findReg a = some d → u.ioReason (some h) a n true = none → u.lodeHolds d.name v = false →
        u.ioPerform (.hewer h) d a v = some t → t.Ends h →
        exec (.ioOut h wide rd ra disp) s = .next ((t.tally h 0x019).completes h (t.hew h).next))
    ∧ (a % n = 0 → ∀ r, u.ioReason (some h) a n true = some r →
        exec (.ioOut h wide rd ra disp) s = .next (u.traps h 0x14 (BitVec.ofNat 64 (r * 2 ^ 56 + a % 2 ^ 32))))
    ∧ (a % n ≠ 0 → exec (.ioIn h wide rd ra disp) s = .next (u.traps h 0x03 (BitVec.ofNat 64 a))
        ∧ exec (.ioOut h wide rd ra disp) s = .next (u.traps h 0x03 (BitVec.ofNat 64 a)))

/-- A hewer at a boundary takes its first eligible interrupt, its canary's machine check, or the forced entry to M. At an
instruction boundary with nothing due before it and no move to a spare twin awaited, the eligible source that comes before
every other eligible one is taken: S or M as routed, the program counter at VBASE + 0x800 + 64 times its number, the
interrupted address in EPC, flags, level, privilege and number in ECAUSE, EVAL kept, the level raised to the source's; with no
eligible source nothing changes. A machine check due at a boundary with no body in progress enters M at VBASE + 0x600 with
EVAL reason 5 and level 15. A forced entry due enters M in banked addressing at address 0 with both bank fields 0x0F200000 and
level 15. A body in progress is lost at the machine check, whose eret restores the saved thread. Outstanding loads that wait
for no host return and buffered stores are performed; otherwise the registers, memory and the other hewers are kept; the
reservation, a delay slot, a rep and all distances end. Rests on: 11_exceptions_canary.md R442, 11_exceptions_canary.md R445,
11_exceptions_canary.md R446, 11_exceptions_canary.md R447, 11_exceptions_canary.md R453, 11_exceptions_canary.md R462,
20_startup_modes_power.md R737, 06_programmers_model.md R249. -/
def Obligations.InterruptEntry : Prop :=
  ∀ (h : HewerId) (s : State), s.Canonical → s.atBoundary h = true →
    let x := s.hew h
    let kept := fun (t : State) => (t.hew h).w = x.landBack.w ∧ (t.hew h).v = x.landBack.v ∧ (t.hew h).rsp = x.rsp
      ∧ t.mem = (s.sbFlush h).mem ∧ t.drt = s.drt
      ∧ (t.hew h).unit = none ∧ (t.hew h).rep = none ∧ (t.hew h).resv = none ∧ (t.hew h).ctl = []
      ∧ ∀ k, k ≠ h.val → t.hew k = (s.sbFlush h).hew k
    (x.between = false → s.earlierDue h = false → s.swapDue h = false →
      (∀ c, 1 ≤ c → c ≤ 7 → s.srcEligible h c = true →
        (∀ d, 1 ≤ d → d ≤ 7 → d ≠ c → s.srcEligible h d = true → s.srcBefore h c d = true) →
        let m := s.srcToM h c
        ∃ t, exec (.interruptEntry h) s = .next t ∧ kept t
          ∧ (t.hew h).pc = (x.set m).vbase + BitVec.ofNat 64 (0x800 + c * 64) ∧ (t.hew h).pl = (if m then 3 else 1)
          ∧ (t.hew h).ilvl = s.srcLevel h c ∧ (t.hew h).nzcv = x.nzcv
          ∧ (t.hew h).set m = { x.set m with
              epc := x.excPc, ecause := BitVec.ofNat 64 (x.nzcv * 2 ^ 28 + x.ilvl * 2 ^ 24 + x.pl * 2 ^ 16 + 2 ^ 8 + c) }
          ∧ (t.hew h).set (!m) = x.set (!m))
      ∧ ((∀ c, 1 ≤ c → c ≤ 7 → s.srcEligible h c = false) → exec (.interruptEntry h) s = .next s))
    ∧ (x.mcheck = true → x.body = none → ∃ t, exec (.canaryMachineCheck h) s = .next t ∧ kept t ∧ (t.hew h).mcheck = false
        ∧ (t.hew h).pc = x.mSet.vbase + 0x600 ∧ (t.hew h).pl = 3 ∧ (t.hew h).ilvl = 15
        ∧ (t.hew h).mSet.epc = x.excPc ∧ (t.hew h).mSet.eval = 0x0500000000000000 ∧ (t.hew h).mSet.ecause.toNat % 512 = 0x18
        ∧ (t.hew h).sSet = x.sSet)
    ∧ (x.mcheck = true → ∀ i e, x.body = some i → s.actOf i = some e → e.2.stage = .running h →
        ∃ t, exec (.canaryMachineCheck h) s = .next t ∧ (t.hew h).mcheck = false ∧ (t.hew h).body = none
        ∧ (t.hew h).pc = x.mSet.vbase + 0x600 ∧ (t.hew h).pl = 3 ∧ (t.hew h).mSet.epc = x.excPc
        ∧ (t.hew h).eretRestores = some (3, 0))
    ∧ (x.mcheck = false → exec (.canaryMachineCheck h) s = .next s)
    ∧ (x.forced = true → x.saved = false → ∃ t, exec (.forcedMEntry h) s = .next t ∧ kept t ∧ (t.hew h).forced = false
        ∧ (t.hew h).pc = 0 ∧ (t.hew h).pl = 3 ∧ (t.hew h).ilvl = 15 ∧ (t.hew h).banked = true
        ∧ (t.hew h).bank = 0x0F2000000F200000 ∧ (t.hew h).mSet.epc = x.excPc ∧ (t.hew h).sSet = x.sSet)
    ∧ (x.forced = false → exec (.forcedMEntry h) s = .next s)

/-- A customer instruction runs its entry's microcode on private operands; a disabled or invalid entry traps; the hub
broadcasts writes. For every hewer with nothing in its way, no table write in flight and none that it may still decode under:
by its twin's copy, an entry whose group is off or that is not valid takes 0x01, one without UOK in U takes 0x02, a register
number in a field of kind 0 takes 0x01. Otherwise, where the words from START run to their end, the held stores are performed
and the instruction completes with D in the destination of its kind and FX or-ed with the words' exceptions; the condition
flags are kept. A single word ADD of A and B into D writes the sum. A single FAULT word raises 0x15 with reason 7, its
immediate and its address, and writes nothing. CFG_CDT_WORD and a well-formed CFG_CDT_ENTRY enter the master copy, go into
flight and count GEN; a malformed entry sets REJ; CDT_BROADCAST_COMPLETE brings the oldest write to every twin's copy that it
had not reached. Rests on: 09_custom_decode.md R376, 09_custom_decode.md R378, 09_custom_decode.md R379, 09_custom_decode.md
R380, 09_custom_decode.md R382, 09_custom_decode.md R385, 09_custom_decode.md R387, 09_custom_decode.md R391,
09_custom_decode.md R394, 09_custom_decode.md R395, 09_custom_decode.md R396. -/
def Obligations.CustomerInstructions : Prop :=
  (∀ (h : HewerId) (index : Fin 64) (rd ra rb : RegNo) (func : Fin 64) (s : State), s.Runs h → s.cdt.inFlight = [] →
    (s.hew h).micro = none → (∀ p ∈ (s.hew h).cdtOld, p.1 ≠ index.val) →
    let x := s.hew h
    let copy := s.twin (s.twinOf h)
    let e := (copy.cdtE.get 0 index.val).toNat
    let c := Instr.customerInstruction h index rd ra rb func
    let word := wReg (0x7C + index.val / 16) rd.val ra.val rb.val func.val (index.val % 16)
    let traps := fun (code : Nat) (eval : Nat) => Host.Outcome.next (φ := Fault) (ρ := Refusal) (s.traps h code (BitVec.ofNat 64 eval))
    let on := x.cdtctl.toNat.testBit (index.val / 16) = true ∧ bitOf e 63 = true
    let free := (bitsOf e 61 60 = 0 → rd = 0) ∧ (bitsOf e 59 58 = 0 → ra = 0) ∧ (bitsOf e 57 56 = 0 → rb = 0)
    let m : Micro := ⟨word, e, x.byKind (bitsOf e 59 58) ra, x.byKind (bitsOf e 57 56) rb, func, [], 0, 0, [], bitsOf e 11 0,
      bitsOf e 23 12⟩
    (¬ on → exec c s = traps 0x01 word)
    ∧ (on → x.pl = 0 → bitOf e 62 = false → exec c s = traps 0x02 word)
    ∧ (on → (x.pl = 0 → bitOf e 62 = true) → ¬ free → exec c s = traps 0x01 word)
    ∧ (on → (x.pl = 0 → bitOf e 62 = true) → free →
      (∀ t y k, s.microRun h m (bitsOf e 23 12) (bitsOf e 11 0) 0 = .next t y k → (t.microStores h y.stores).Ends h →
        let u := t.microStores h y.stores
        exec c s = .next (u.completes h
          (((u.hew h).setPsf 36 32 ((u.hew h).fx ||| y.fx)).putKind (bitsOf e 61 60) rd (y.regs.get 0 8)).next))
      ∧ (bitsOf e 23 12 = 1 → copy.cdtW.get 0 (bitsOf e 11 0) = 0x0188900000000000 →
          bitsOf e 61 60 = 1 → bitsOf e 59 58 = 1 → bitsOf e 57 56 = 1 →
          exec c s = .next (s.completes h ((x.setPsf 36 32 (x.fx ||| 0)).setW rd (x.getW ra + x.getW rb)).next))
      ∧ (∀ imm : BitVec 8, bitsOf e 23 12 = 1 →
          copy.cdtW.get 0 (bitsOf e 11 0) = BitVec.ofNat 64 (0x3100000000000000 + imm.toNat) →
          exec c s = traps 0x15 (imm.toNat * 2 ^ 24 + 7 * 2 ^ 16 + bitsOf e 11 0))))
  ∧ (∀ (j : HewerId) (n : Fin 64) (v : Word) (s : State), s.executesIo j = true → s.domainOn 0 = true →
    let inFlight := fun (y : State) (w : CdtWrite) => y.cdt.inFlight = s.cdt.inFlight ++ [w] ∧ y.flag F.CFG_CDT_STATUS.BUSY = true
      ∧ y.fld F.CFG_CDT_STATUS.GEN = (s.fld F.CFG_CDT_STATUS.GEN + 1) % 2 ^ (F.CFG_CDT_STATUS.GEN.hi + 1 - F.CFG_CDT_STATUS.GEN.lo)
      ∧ y.twins = s.twins ∧ y.mem = s.mem ∧ y.hewers = s.hewers
    ((s.hew j).pl = 3 →
      (∃ y, exec (.cfgCdtWordWrite (.hewer j) v) s = .next y ∧ inFlight y (.word (s.fld F.CFG_CDT_INDEX.ADDR) v)
        ∧ y.cdt.words = s.cdt.words.set 0 (s.fld F.CFG_CDT_INDEX.ADDR) v ∧ y.cdt.entries = s.cdt.entries)
      ∧ (entryRefused v.toNat = true → exec (.cfgCdtEntryWrite (.hewer j) n v) s = .next (s.setFld F.CFG_CDT_STATUS.REJ 1))
      ∧ (entryRefused v.toNat = false → bitsOf v.toNat 54 24 = 0 →
          ∃ y, exec (.cfgCdtEntryWrite (.hewer j) n v) s = .next y ∧ inFlight y (.entry n v)
            ∧ y.cdt.entries = s.cdt.entries.set 0 n v ∧ y.cdt.words = s.cdt.words))
    ∧ ((s.hew j).pl = 1 → exec (.cfgCdtWordWrite (.hewer j) v) s = .next (((s.tally j 0x014).setHew j
        { (s.hew j).undoUnit with hostBuf := [], micro := none }).takeExc j 0x14 (s.hew j).excPc
        (BitVec.ofNat 64 (6 * 2 ^ 56 + Adr.CFG_CDT_WORD)))))
  ∧ (∀ (s : State),
    (s.cdt.inFlight = [] → exec .cdtBroadcastComplete s = .next s)
    ∧ ∀ w rest, s.cdt.inFlight = w :: rest → ∃ y, exec .cdtBroadcastComplete s = .next y ∧ y.cdt.inFlight = rest
        ∧ (∀ k, k < 576 → y.twin k = if (s.twin k).cdtSeen = 0 then (s.twin k).cdtTake w
            else { s.twin k with cdtSeen := (s.twin k).cdtSeen - 1 })
        ∧ (rest = [] → y.flag F.CFG_CDT_STATUS.BUSY = false) ∧ y.mem = s.mem)
  ∧ ∀ (t : Twin) (n : Nat) (v : Word),
    (t.cdtTake (.entry n v)).cdtE.get 0 n = v ∧ (t.cdtTake (.word n v)).cdtW.get 0 n = v

/-- Kicks reload only where they may, pre-warnings and expiries act, M alone clears EXPIRED and writes HWR_XROUTE. Where the
register's domain is on and the clocks run (else no write below changes anything): HWR_IHI_SET adds bit LEVEL to the target's
pending levels, level 0 nothing; HWR_XROUTE takes M's word with its fixed bits, and a hewer that may execute takes 0x14 below
M, with reason 6 in S and reason 4 in U without a grant. A kick by the hewer itself, in S, M or under a grant (else reason 4),
reloads REMAIN with TIMEOUT unless EXPIRED or an expiry fell due in an earlier cycle; one by another hewer only sets BADKICK;
the manager and the debug master change nothing. A due pre-warning sets PREWARN; a due expiry sets EXPIRED and owes the hewer
a machine check. EXPIRED_CLEAR from M reloads; below M it takes 0x14. The device canary reloads on 0xA5A5 directly followed by
0x5A5A; any other value sets BADKICK and ends the sequence. CAN_DEV_CTL is written in CONFIGURE only and EN stays 1. The
device canary's due expiry sets EXPIRED and in STANDBY, RUN or DEGRADED enters SAFE HOLD with cause 1. Rests on:
11_exceptions_canary.md R454, 11_exceptions_canary.md R455, 11_exceptions_canary.md R457, 11_exceptions_canary.md R458,
11_exceptions_canary.md R460, 11_exceptions_canary.md R461, 11_exceptions_canary.md R462, 11_exceptions_canary.md R463,
11_exceptions_canary.md R468, 11_exceptions_canary.md R469, 11_exceptions_canary.md R470. -/
def Obligations.CanaryTimers : Prop :=
  (∀ (by' h : HewerId) (level : Fin 16) (v : Word32) (s : State),
    let faulted := fun (reason a : Nat) => Host.Outcome.next (φ := Fault) (ρ := Refusal)
      (((s.tally by' 0x014).setHew by' { (s.hew by').undoUnit with hostBuf := [], micro := none }).takeExc by' 0x14 (s.hew by').excPc
        (BitVec.ofNat 64 (reason * 2 ^ 56 + a)))
    let may := fun (a : Nat) => s.executesIo by' = true ∧ s.domainOn (regDomain a) = true
    let reloaded := fun (t : State) => t.fld (F.CAN_HWR_STAT.REMAIN h) = s.fld (F.CAN_HWR_CTL.TIMEOUT h) ∧ (t.hew h).canDue = none
      ∧ (t.hew h).canWarn = false ∧ t.mem = s.mem ∧ ∀ k, k ≠ h.val → t.hew k = s.hew k
    exec (.hwrIhiSet h level) s = .next (if level = 0 ∨ s.takesIo (Adr.HWR_IHI_SET h) = false then s else
      s.setFld (F.HWR_IHI_PEND.LVL h) (s.fld (F.HWR_IHI_PEND.LVL h) ||| 2 ^ level.val))
    ∧ ((s.hew by').pl = 3 → may (Adr.HWR_XROUTE h) → ∃ t, exec (.hwrXrouteWrite by' h v) s = .next t ∧ (t.reg (Adr.HWR_XROUTE h)).toNat % 2 ^ 15 = v.toNat % 2 ^ 15
        ∧ (t.reg (Adr.HWR_XROUTE h)).toNat.testBit 15 = false ∧ (t.reg (Adr.HWR_XROUTE h)).toNat.testBit 16 = true
        ∧ (t.reg (Adr.HWR_XROUTE h)).toNat.testBit 24 = true ∧ ∀ a, a ≠ Adr.HWR_XROUTE h → t.reg a = s.reg a)
    ∧ ((s.hew by').pl = 1 → (may (Adr.HWR_XROUTE h) → exec (.hwrXrouteWrite by' h v) s = faulted 6 (Adr.HWR_XROUTE h))
        ∧ (may (Adr.CAN_HWR_STAT h) → exec (.expiredClear by' h) s = faulted 6 (Adr.CAN_HWR_STAT h)))
    ∧ (s.executesIo by' = true → s.ioPermitted by' (Adr.HWR_XROUTE h) 4 true = false →
        exec (.hwrXrouteWrite by' h v) s = faulted 4 (Adr.HWR_XROUTE h))
    ∧ (s.executesIo by' = true → s.ioPermitted by' (Adr.CAN_HWR_STAT h) 4 true = false →
        exec (.expiredClear by' h) s = faulted 4 (Adr.CAN_HWR_STAT h))
    ∧ (s.executesIo by' = false → exec (.hwrXrouteWrite by' h v) s = .next s ∧ exec (.expiredClear by' h) s = .next s)
    ∧ (s.executesIo by' = false → exec (.canaryKick (.hewer by') h) s = .next s)
    ∧ (s.executesIo by' = true → s.ioPermitted by' (Adr.CAN_HWR_KICK h) 4 true = false →
        exec (.canaryKick (.hewer by') h) s = faulted 4 (Adr.CAN_HWR_KICK h))
    ∧ (may (Adr.CAN_HWR_KICK h) → s.ioPermitted by' (Adr.CAN_HWR_KICK h) 4 true = true →
        (by' ≠ h → exec (.canaryKick (.hewer by') h) s = .next (s.setFld (F.CAN_HWR_STAT.BADKICK h) 1))
        ∧ (by' = h → s.flag (F.CAN_HWR_STAT.EXPIRED h) = false → (∀ c, (s.hew h).canDue = some c → c = s.time.cyc) →
            ∃ t, exec (.canaryKick (.hewer by') h) s = .next t ∧ reloaded t)
        ∧ (by' = h → s.flag (F.CAN_HWR_STAT.EXPIRED h) = true → exec (.canaryKick (.hewer by') h) s = .next s)
        ∧ (∀ c, by' = h → (s.hew h).canDue = some c → c ≠ s.time.cyc → exec (.canaryKick (.hewer by') h) s = .next s))
    ∧ exec (.canaryKick .manager h) s = .next s ∧ (∀ p, exec (.canaryKick (.debug p) h) s = .next s)
    ∧ ((s.hew h).canWarn = true → ∃ t, exec (.canaryPrewarning h) s = .next t ∧ t.flag (F.CAN_HWR_STAT.PREWARN h) = true
        ∧ (t.hew h).canWarn = false)
    ∧ ((s.hew h).canDue ≠ none → (s.hew h).body = none → s.localQ h = [] → ∃ t, exec (.canaryExpiry h) s = .next t
        ∧ t.flag (F.CAN_HWR_STAT.EXPIRED h) = true ∧ (t.hew h).mcheck = true ∧ (t.hew h).canDue = none)
    ∧ ((s.hew h).canDue = none → exec (.canaryExpiry h) s = .next s)
    ∧ ((s.hew by').pl = 3 → may (Adr.CAN_HWR_STAT h) → s.flag (F.CAN_HWR_STAT.EXPIRED h) = true → ∃ t, exec (.expiredClear by' h) s = .next t ∧ reloaded t
        ∧ t.flag (F.CAN_HWR_STAT.EXPIRED h) = false))
  ∧ ∀ (j k : HewerId) (v : Word32) (s : State),
    let may := fun (i : HewerId) => s.executesIo i = true ∧ s.ioPermitted i Adr.CAN_DEV_KICK 4 true = true
      ∧ s.domainOn (regDomain Adr.CAN_DEV_KICK) = true
    (s.executesIo j = false → ∀ w, exec (.deviceCanaryKick (.hewer j) w) s = .next s)
    ∧ (may j → may k → ∃ t u, exec (.deviceCanaryKick (.hewer j) 0xA5A5) s = .next t ∧ t.regs = s.regs
      ∧ exec (.deviceCanaryKick (.hewer k) 0x5A5A) t = .next u
      ∧ (s.can.due = false ∨ s.can.dueAt = some s.time.cyc → s.flag F.CAN_DEV_STAT.EXPIRED = false →
          u.fld F.CAN_DEV_STAT.REMAIN = s.fld F.CAN_DEV_CTL.TIMEOUT ∧ u.can.warnDue = false ∧ u.can.due = false)
      ∧ ((s.can.due = true ∧ s.can.dueAt ≠ some s.time.cyc) ∨ s.flag F.CAN_DEV_STAT.EXPIRED = true → u.regs = s.regs))
    ∧ (may j → s.can.kickArmed = false → exec (.deviceCanaryKick (.hewer j) 0x5A5A) s = .next (s.setFld F.CAN_DEV_STAT.BADKICK 1))
    ∧ (may j → ∀ w, w ≠ 0xA5A5 → w ≠ 0x5A5A → ∃ t, exec (.deviceCanaryKick (.hewer j) w) s = .next t ∧ t.can.kickArmed = false
        ∧ t.flag F.CAN_DEV_STAT.BADKICK = true ∧ t.fld F.CAN_DEV_STAT.REMAIN = s.fld F.CAN_DEV_STAT.REMAIN)
    ∧ exec (.deviceCanaryKick .manager 0xA5A5) s = .next s
    ∧ (s.mode ≠ .configure ∨ s.takesIo Adr.CAN_DEV_CTL = false → exec (.canDevCtlWrite v) s = .next s)
    ∧ (s.mode = .configure → s.takesIo Adr.CAN_DEV_CTL = true → ∃ t, exec (.canDevCtlWrite v) s = .next t
        ∧ t.flag F.CAN_DEV_CTL.EN = (bitOf v.toNat 31 || s.flag F.CAN_DEV_CTL.EN)
        ∧ (1 ≤ bitsOf v.toNat 23 0 → bitsOf v.toNat 23 0 ≤ 10000000 → t.fld F.CAN_DEV_CTL.TIMEOUT = bitsOf v.toNat 23 0)
        ∧ ∀ a, a ≠ Adr.CAN_DEV_CTL → t.reg a = s.reg a)
    ∧ (s.can.warnDue = true → ∃ t, exec .deviceCanaryPrewarning s = .next t ∧ t.flag F.CAN_DEV_STAT.PREWARN = true ∧ t.can.warnDue = false)
    ∧ (s.can.due = true → ∃ t, exec .deviceCanaryExpiry s = .next t ∧ t.flag F.CAN_DEV_STAT.EXPIRED = true
        ∧ (s.mode.service = true → s.drt.tasks = [] → t.mode = .safeHold ∧ t.fld F.FLT_STATUS.SAFE_CAUSE = 1)
        ∧ (s.mode.service = false → t.mode = s.mode))

/-- ENABLE, DISABLE and UPDATE check in order, take effect on a ready draught, and a command while BUSY is only noted. Where
the draught's registers take no write (their domain off or the clocks unlocked) nothing changes. While DRT_CMD_STATUS.BUSY is
1 each of the three sets CMD_REJ and nothing else. Otherwise, with the draught ready and an existing index: ENABLE of a
disabled task whose descriptor passes every check arms it with the descriptor's trigger, period and gap, files it in the event
table by its trigger and ends with result 0, and one whose check fails ends with the check's cause; DISABLE of an enabled task
stops its releases and stays BUSY, with FLUSH dropping an activation that has emitted nothing; UPDATE of an enabled task from
a disabled staging descriptor stays BUSY. DISABLE_COMPLETE, once no activation is left, makes the task DISABLED with result 0;
UPDATE_COPY, once the target is armed and the staging descriptor passes, copies the 128 bytes over the target's and arms it
anew with result 0. An index outside the table ends with 0x01. Rests on: 04_draught_tasks.md R140, 04_draught_tasks.md R141,
04_draught_tasks.md R142, 04_draught_tasks.md R143, 04_draught_tasks.md R144. -/
def Obligations.TaskCommands : Prop :=
  (∀ (i g : BitVec 16) (flush : Bool) (s : State),
    let written := fun (op extra : Nat) => s.setReg Adr.DRT_CMD (BitVec.ofNat 64 (extra + i.toNat * 2 ^ 16 + op * 2))
    (s.takesIo Adr.DRT_CMD = false → ∀ c ∈ [Instr.enable i, .disable i flush, .update i g], exec c s = .next s)
    ∧ (s.takesIo Adr.DRT_CMD = true → s.flag F.DRT_CMD_STATUS.BUSY = true →
        ∀ c ∈ [Instr.enable i, .disable i flush, .update i g], exec c s = .next (s.raise F.DRT_STATUS.CMD_REJ))
    ∧ (s.takesIo Adr.DRT_CMD = true → s.flag F.DRT_CMD_STATUS.BUSY = false →
        (s.taskCount ≤ i.toNat → exec (.enable i) s = .next ((written 1 0).cmdEnd 0x01))
        ∧ (i.toNat < s.taskCount → s.drtReady = true →
            ((s.task i.toNat).enabled = false →
              let d := s.readDesc i.toNat
              (s.checkDesc d (d.trigger = 1) = 0 → ∃ t, exec (.enable i) s = .next t
                ∧ t.task i.toNat = { Task.reset with
                    enabled := true, trigger := d.trigger, trigSlot := d.trigSlot, period := d.period, minGap := d.minGap,
                    nextRel := if d.trigger = 0 then firstRelease d.phase d.period s.time.now else 0 }
                ∧ t.drt.events = (s.drt.events.filter (fun x => x != i.toNat)) ++ (if d.trigger = 1 then [i.toNat] else [])
                ∧ t.fld F.DRT_CMD_STATUS.RESULT = 0 ∧ t.flag F.DRT_CMD_STATUS.BUSY = false ∧ t.mem = s.mem ∧ t.hewers = s.hewers
                ∧ ∀ k, k ≠ i.toNat → t.task k = s.task k)
              ∧ (s.checkDesc d (d.trigger = 1) ≠ 0 →
                  exec (.enable i) s = .next ((written 1 0).cmdEnd (s.checkDesc d (d.trigger = 1)))))
            ∧ ((s.task i.toNat).enabled = true →
              exec (.disable i false) s = .next (((written 2 0).modTask i.toNat (fun t => { t with stopping := true })).cmdWait)
              ∧ exec (.disable i true) s = .next (((if s.flushable i.toNat then (written 2 16).dropActivation i.toNat
                  else written 2 16).modTask i.toNat (fun t => { t with stopping := true })).cmdWait)
              ∧ (g.toNat < s.taskCount → (s.task g.toNat).enabled = false →
                  exec (.update i g) s = .next (written 3 (g.toNat * 2 ^ 32)).cmdWait)))))
  ∧ ∀ (s : State) (i k : Nat), s.draughtRuns = true → s.flag F.DRT_CMD_STATUS.BUSY = true → s.fld F.DRT_CMD.INDEX = i → s.fld F.DRT_CMD.STAGING = k →
      (s.task i).act = none →
      (s.fld F.DRT_CMD.OP = 2 → ∃ t, exec .disableComplete s = .next t ∧ t.task i = Task.reset ∧ t.fld F.DRT_CMD_STATUS.RESULT = 0
        ∧ t.flag F.DRT_CMD_STATUS.BUSY = false ∧ i ∉ t.drt.events)
      ∧ (s.fld F.DRT_CMD.OP = 3 → s.drtReady = true → (s.task i).enabled = true → s.poisoned (s.regionBase + k * 128) 128 = false →
          let d := s.readDesc k
          s.checkDesc d (d.trigger = 1 && (s.task i).trigger != 1) = 0 →
        exec .updateCopy s = .next ((((s.dmaWriteBy 0x800 (s.regionBase + i * 128) (s.readBytes (s.regionBase + k * 128) 128)).modTask i
          (fun t => { t.arm d s.time.now with lastStamp := t.lastStamp })).eventEntry i (d.trigger = 1)).cmdEnd 0))

/-- A release of an armed task without an activation makes one; a second is skipped and counted; a held mode releases nothing.
With DRT_RELEASE taking writes, no UPDATE pending for the task, in a mode that does not hold releases and with the draught
ready: a commanded release of an enabled task of the commanded trigger that is not stopping and has no activation first lets
every epoch advance owed for its stamp be recorded, reads the descriptor, and gives the task an activation stamped with the
release time and source and with attempt 0, DEADLINE_AT behind it by DEADLINE times 256, waiting in the heap; a poisoned
descriptor discards the release and logs it; with an activation the release is skipped (0x22). A request for another task
counts as dropped. A periodic release whose turn it is (the first due, in a cycle after plant time reached it, none of a
compare unit before it) does the same with the release time as stamp and moves the next release on; one of a task that is
stopping only moves on. In a mode that holds releases a commanded release changes nothing but the stamp's use. Rests on:
04_draught_tasks.md R144, 04_draught_tasks.md R145, 04_draught_tasks.md R146, 04_draught_tasks.md R147, 04_draught_tasks.md
R148, 04_draught_tasks.md R149, 04_draught_tasks.md R150, 04_draught_tasks.md R151, 04_draught_tasks.md R131,
04_draught_tasks.md R179, 02_plant_time.md R81. -/
def Obligations.ReleasesMakeActivations : Prop :=
  ∀ (i : BitVec 16) (loc : BitVec 12) (s : State), (s.cmdBusy 3).all (fun p => p.1 != i.toNat) = true →
    let u := (s.stamp loc.toNat).2
    let t0 := (s.stamp loc.toNat).1
    let src := s.source loc.toNat
    let task := s.task i.toNat
    let takes := s.takesIo Adr.DRT_RELEASE = true
    let read := fun (w : State) => w.hubAccess (w.regionBase + i.toNat * 128) 128 0x800 false
    let made := fun (w : State) (time source : Nat) => (read w).modTask i.toNat (fun t =>
      { t with act := some (newActivation (w.readDesc i.toNat) time source (w.snapshotEnd time)), lastStamp := some time })
    let clean := fun (w : State) => w.poisonAt (w.regionBase + i.toNat * 128) 128 = none
    let moves := fun (w : State) (t : Nat) => w.modTask i.toNat (fun x => { x with nextRel := t + task.period })
    (s.takesIo Adr.DRT_RELEASE = false → exec (.commandedRelease i loc) s = .next s)
    ∧ (takes → s.releasesHeld = true → exec (.commandedRelease i loc) s = .next u)
    ∧ (s.releasesHeld = false →
        (takes → (s.taskCount ≤ i.toNat ∨ task.enabled = false ∨ task.trigger ≠ 2) →
          exec (.commandedRelease i loc) s = .next (u.count F.DRT_EVT_COUNTS.DROPPED 1))
        ∧ (takes → i.toNat < s.taskCount → task.enabled = true → task.trigger = 2 → s.drtReady = true → task.stopping = false →
          (task.act = none → clean (u.advancesFirst t0 64) →
            exec (.commandedRelease i loc) s = .next (made (u.advancesFirst t0 64) t0 src))
          ∧ (task.act = none → ∀ p, (u.advancesFirst t0 64).poisonAt ((u.advancesFirst t0 64).regionBase + i.toNat * 128) 128 = some p →
            exec (.commandedRelease i loc) s = .next (((read (u.advancesFirst t0 64)).modTask i.toNat (fun t =>
              { t with lastStamp := some t0 })).logDescUe i.toNat 0 p))
          ∧ (task.act ≠ none → exec (.commandedRelease i loc) s = .next (u.skipRelease i.toNat t0 src 0x22 1)))
        ∧ (∀ t, firstPair s.duePeriodic = some (t, i.toNat) → s.releaseTurn t i.toNat s.dueCommanded = true → t ≤ s.time.now →
            s.time.now < t + task.period →
          (s.drtReady = true → task.stopping = false → task.act = none → clean (s.advancesFirst t 64) →
            exec (.periodicRelease i) s = .next (moves (made (s.advancesFirst t 64) t (s.source 0x800)) t))
          ∧ (task.stopping = true → exec (.periodicRelease i) s = .next (moves s t))))
    ∧ (∀ t, firstPair s.duePeriodic = some (t, i.toNat) → s.releaseTurn t i.toNat s.dueCommanded = false →
        exec (.periodicRelease i) s = .next s)
    ∧ (∀ t, (∀ n, n < 64 → s.owesAdvance t n = false) → s.advancesFirst t 64 = s)
    ∧ ∀ (d : Desc) (time source snap : Nat),
        let a := newActivation d time source snap
        a.relTime = time ∧ a.relSource = source ∧ a.attempt = 0 ∧ a.stage = .heap ∧ a.snapEnd = snap
        ∧ a.deadlineAt = (time + d.deadline * 256) % 2 ^ 64

/-- The most urgent placeable release is gathered, lands in its gallery's ready queue, and the distributor moves it to a
hewer. While the draught runs (its clock and D2 on; else each of these changes nothing), with a gather engine free and every
waiting release selecting a pool gallery: GATHER_START takes the most urgent release that a gallery qualifies for and builds
its packet from the closed snapshot for the chosen gallery, or drops it where its descriptor is poisoned; with 16 engines busy
it starts none. PACKET_LANDED puts a gathered packet into the ready queue of its gallery and leaves any other activation
alone. DISTRIBUTOR_MOVE, with nothing stranded, moves the first movable packet of the ready queue to its target's local queue.
NO_PLACEMENT of a release past DEADLINE_AT whose AFFINITY selects no pool gallery logs the miss (once) and 0x29 and drops it.
DEADLINE_MISS past DEADLINE_AT logs and counts the miss once; before DEADLINE_AT it changes nothing, and a packet pinned to a
hewer out of the pool ends RETRY_EXHAUSTED then. Rests on: 04_draught_tasks.md R152, 04_draught_tasks.md R181,
04_draught_tasks.md R189, 05_draught_dispatch.md R188, 05_draught_dispatch.md R190, 05_draught_dispatch.md R191,
04_draught_tasks.md R172, 04_draught_tasks.md R179. -/
def Obligations.GatherLandAndMove : Prop :=
  (∀ (g : Fin 64) (index : BitVec 16) (s : State), s.draughtRuns = false →
    ∀ c ∈ [Instr.gatherStart, .packetLanded index, .noPlacement index, .deadlineMiss index, .distributorMove g], exec c s = .next s)
  ∧ (∀ (s : State), s.draughtRuns = true → (s.waitingGather.any (fun x => !(s.affinityInPool x.2))) = false →
    (16 ≤ s.enginesBusy → exec .gatherStart s = .next s)
    ∧ (s.enginesBusy < 16 → ∀ i a, mostUrgent s.servable = some (i, a) →
        (s.descPoison i a.desc = none → exec .gatherStart s = .next ((s.gatherReads i a.desc).modAct i (fun _ =>
          { s.gather i a with stage := .gathering, gallery := some ((s.chooseGallery a 64).getD 0) })))
        ∧ (∀ at_, s.descPoison i a.desc = some at_ →
          exec .gatherStart s = .next ((s.gatherReads i a.desc).discardDesc i a at_))))
  ∧ (∀ (index : BitVec 16) (s : State) (a : Activation), s.draughtRuns = true → (s.task index.toNat).act = some a →
    let i := index.toNat
    (a.stage = .gathering → exec (.packetLanded index) s = .next (s.toReady (a.gallery.getD 0) i))
    ∧ (a.stage ≠ .gathering → exec (.packetLanded index) s = .next s)
    ∧ (a.stage = .heap → a.deadlineAt ≤ s.time.now → s.affinityInPool a = false → a.missed = true →
        exec (.noPlacement index) s = .next ((s.drtLog a.deadlineAt (s.source 0x800) 0x29 i a.attempt 0).dropActivation i))
    ∧ (a.stage = .heap → a.deadlineAt ≤ s.time.now → s.affinityInPool a = false → a.missed = false →
        exec (.noPlacement index) s
          = .next (((s.logMiss i a).drtLog a.deadlineAt (s.source 0x800) 0x29 i a.attempt 0).dropActivation i))
    ∧ (s.time.now < a.deadlineAt → exec (.deadlineMiss index) s = .next s)
    ∧ (a.stage = .heap → a.deadlineAt ≤ s.time.now → a.missed = false → s.pinnedWait a = false → exec (.deadlineMiss index) s = .next
        (((s.drtLog a.deadlineAt (s.source 0x800) 0x23 i a.attempt 0).count F.DRT_EVT_COUNTS.DEADLINE_MISS 1).modAct i
          (fun a => { a with missed := true })))
    ∧ (a.deadlineAt ≤ s.time.now → a.missed = true → s.pinnedWait a = true →
        exec (.deadlineMiss index) s = .next (s.exhaust i)))
  ∧ (∀ (g : Fin 64) (s : State) (i h : Nat), s.draughtRuns = true → s.stranded g = [] → s.firstMovable g (s.readyQ g) = some (i, h) →
      exec (.distributorMove g) s = .next ((s.dequeue i).toLocal h i))

/-- Task arrival saves the thread, starts the body in its context, and THREAD_RESTORE brings the thread back. For a hewer that
serves packets, with one at the head of its local queue, no earlier event and no move to a spare twin due, and a region set
free of poison: where it can take arrival at the packet's level, no interrupt is eligible, no load is outstanding, its save
area can be reached and no register carries poison, buffered stores are performed, the thread's 2,048 bytes go to the save
area and the body starts; where a body has just ended over a saved thread, the next body starts with no new save. The body
begins in U with BODY 1 at the descriptor's entry, w1 the packet window, w2 the result window, w3 USER, w4 the index, w30 the
stack, every other register 0, flags, FE, FX and RM 0, TASKID the index and the return stack empty. THREAD_RESTORE between
bodies with nothing offered resumes the saved thread, in U or S. Rests on: 05_draught_dispatch.md R192, 05_draught_dispatch.md
R193, 05_draught_dispatch.md R195, 05_draught_dispatch.md R197, 04_draught_tasks.md R158, 06_programmers_model.md R268,
05_draught_dispatch.md R200. -/
def Obligations.TaskArrivalStartsTheBody : Prop :=
  (∀ (h : HewerId) (s : State) (i : Nat) (rest : List Nat) (a : Activation), s.localQ h = i :: rest → (s.task i).act = some a →
    let x := s.hew h
    let level := s.arrivalLevel a.desc.pclass
    s.hewerServes h = true → s.earlierDue h = false → s.swapDue h = false → x.body = none → s.setPoison a.desc = none →
    s.Canonical →
    (s.takesArrival h level = true → s.srcFirst h 7 = none → x.missed = [] → x.wPoison = [] → x.vPoison = [] → s.dramReach (s.saveArea h) 2048 = true →
      ∃ t : State, exec (.taskArrival h) s = .next (t.tally h 0x016)
        ∧ (t.task i).act.map (fun b => b.stage) = some (.running h) ∧ (t.hew h).saved = true
        ∧ (∀ k (hk : k < (x.threadBytes h).length), t.mem.byte (s.saveArea h + k) = (x.threadBytes h)[k])
        ∧ (∀ b, (b < s.saveArea h ∨ s.saveArea h + (x.threadBytes h).length ≤ b) → t.mem.byte b = (s.sbFlush h).mem.byte b))
    ∧ (x.between = true → x.saved = true → s.atBoundary h = true →
      ∃ t : State, exec (.taskArrival h) s = .next (t.tally h 0x016) ∧ t = s.startBody h i a.desc ∧ t.mem = s.mem))
  ∧ (∀ (x : Hewer) (d : Desc) (i level : Nat) (set : List Word), level < 16 →
    let y := x.bodyContext d i level set
    y.pl = 0 ∧ y.bodyBit = true ∧ y.ilvl = level ∧ y.nzcv = 0 ∧ y.psf 41 32 = 0 ∧ y.psf 19 18 = 0
    ∧ y.pc = BitVec.ofNat 64 d.entry ∧ y.getW 1 = 0x7FFC0000 ∧ y.getW 2 = 0x7FFE0000 ∧ y.getW 3 = BitVec.ofNat 64 d.user
    ∧ y.getW 4 = BitVec.ofNat 64 i ∧ y.getW 30 = BitVec.ofNat 64 d.dstack
    ∧ (∀ r, r ∉ [1, 2, 3, 4, 30] → y.getW r = 0) ∧ (∀ r, y.getV r = 0)
    ∧ y.taskid = BitVec.ofNat 64 i ∧ y.rsp = y.rsb
    ∧ y.rsb = BitVec.ofNat 64 (d.rsb % 2 ^ 64 / 8 * 8) ∧ y.rsl = BitVec.ofNat 64 (d.rsl % 2 ^ 64 / 8 * 8)
    ∧ y.budget = BitVec.ofNat 64 d.budget ∧ y.body = some i ∧ y.unit = none ∧ y.rep = none)
  ∧ (∀ (h : HewerId) (s : State),
      let x := s.hew h
      x.between = true → x.saved = true → s.atBoundary h = true → x.mcheck = false → (s.hewerInPool h && s.offered h) = false →
      s.dramReach (s.saveArea h) 2048 = true → s.poisoned (s.saveArea h) 2048 = false →
      exec (.threadRestore h) s
        = .next ((((s.hubAccess (s.saveArea h) 2048 h false).setHew h (s.threadOf h)).flushPred h).l1iDrop h)
      ∧ (s.threadOf h).pl ≤ 1 ∧ (s.threadOf h).bodyBit = false ∧ (s.threadOf h).banked = false
      ∧ (s.threadOf h).pc = s.savedDw h 0x300 ∧ (s.threadOf h).saved = false ∧ (s.threadOf h).between = false
      ∧ ∀ r, 1 ≤ r → r < 32 → (s.threadOf h).getW r = s.savedDw h (r * 8))

/-- tend emits the result, RESULT_ACCEPT fixes the commit point, COMMIT applies it, and an expired budget ends the body. For a
hewer with nothing in its way in U or S with a body of a task with an activation: tend stamps the result, emits it with STATUS
0 from U or 1 from S, the disposition of wa[1:0] and the user status of wa[31:16], and the hewer is between bodies; in M or
without a body it takes 0x01. RESULT_ACCEPT of a result in time fixes the commit point at the release time plus COMMIT times
256 (at once for COMMIT 0); late with a passed commit point it logs 0x24, counts and commits now; past DEADLINE_AT with
MISS_DISCARD it logs 0x25, counts and drops the activation. COMMIT when due applies the VALID output entries in order, then
the releases they notify, and then the state, as status and disposition say, and ends the activation; an output list that
cannot be read discards the result; before it is due nothing changes. BUDGET_EXPIRY at 0 logs 0x26, counts the overrun and
takes 0x0E with the index as EVAL. Rests on: 04_draught_tasks.md R162, 04_draught_tasks.md R164, 04_draught_tasks.md R165,
04_draught_tasks.md R167, 04_draught_tasks.md R168, 04_draught_tasks.md R170, 04_draught_tasks.md R171, 04_draught_tasks.md
R173, 04_draught_tasks.md R174. -/
def Obligations.BodiesEndAndResultsCommit : Prop :=
  (∀ (h : HewerId) (ra : RegNo) (s : State) (i : Nat) (a : Activation), s.Runs h → (s.task i).act = some a →
    let x := s.hew h
    let w := (x.getW ra).toNat
    (x.pl ≠ 3 → x.body = some i →
      ∃ t b, exec (.tend h ra) s = .next t ∧ (t.task i).act = some b
        ∧ b.stage = .emitted ∧ b.status = (if x.pl = 0 then 0 else 1) ∧ b.disposition = bitsOf w 1 0
        ∧ b.userStatus = bitsOf w 31 16 ∧ b.resTime = (s.stamp h).1 ∧ b.resSource = s.source h ∧ b.result = a.result
        ∧ (t.hew h).between = true ∧ (t.hew h).body = none ∧ (t.hew h).bodyBit = false ∧ t.mem = (s.sbFlush h).mem)
    ∧ ((x.pl = 3 ∨ x.body = none) → exec (.tend h ra) s = .next (s.traps h 0x01 (BitVec.ofNat 64 (wSystem 0 ra 4 2)))))
  ∧ (∀ (index : BitVec 16) (s : State) (a : Activation), s.draughtRuns = true → (s.task index.toNat).act = some a →
    let i := index.toNat
    let now := s.time.now
    let fixed := (a.relTime + a.desc.commit * 256) % 2 ^ 64
    let put := fun (u : State) (p : Nat) => Host.Outcome.next (φ := Fault) (ρ := Refusal)
      (u.modAct i (fun a => { a with stage := .accepted, commitPoint := p }))
    (a.stage = .emitted → now ≤ a.deadlineAt →
      (a.desc.commit = 0 → exec (.resultAccept index) s = put s now)
      ∧ (a.desc.commit ≠ 0 → now ≤ fixed → exec (.resultAccept index) s = put s fixed)
      ∧ (a.desc.commit ≠ 0 → fixed < now → exec (.resultAccept index) s
          = put ((s.drtLog now (s.source 0x800) 0x24 i a.attempt 0).count F.DRT_EVT_COUNTS.LATE 1) now))
    ∧ (a.stage = .emitted → a.deadlineAt < now → a.desc.missDiscard = false → exec (.resultAccept index) s = put s now)
    ∧ (a.stage = .emitted → a.deadlineAt < now → a.desc.missDiscard = true → exec (.resultAccept index) s
        = .next (((s.drtLog now (s.source 0x800) 0x25 i a.attempt 0).count F.DRT_EVT_COUNTS.LATE 1).dropActivation i))
    ∧ (s.commitDue i a = false → exec (.commit index) s = .next s)
    ∧ (s.commitDue i a = true → ∀ u, a.commitsOutputs = true → s.poisonAt (s.regionBase + a.desc.outList) (a.desc.outRuns * 4) = some u →
        exec (.commit index) s = .next ((s.logDescUe i a.attempt u).modTask i (fun t => { t with act := none })))
    ∧ (s.commitDue i a = true →
        (a.commitsOutputs = true → s.poisonAt (s.regionBase + a.desc.outList) (a.desc.outRuns * 4) = none) →
        let read := s.hubAccess (s.regionBase + a.desc.outList) (a.desc.outRuns * 4) 0x800 false
        let applied := if (a.status = 0 ∨ a.status = 1) ∧ (a.disposition = 0 ∨ a.disposition = 1)
          then read.commitWrites (s.outputWrites a) else s
        let written := if (a.status = 0 ∨ a.status = 1) ∧ (a.disposition = 0 ∨ a.disposition = 2)
          then applied.writeUnits (applied.regionBase + a.desc.stateOff) a.result a.resultPoison (a.desc.stateSize / 32) 0
          else applied
        exec (.commit index) s = .next (written.modTask i (fun t => { t with act := none }))))
  ∧ (∀ (s : State) (w : LodeWrite) (l : List LodeWrite),
      let a := s.lodeMake (.write w)
      let b := a.1.makeWrites l
      s.makeWrites (w :: l) = (b.1, a.2 ++ b.2) ∧ s.commitWrites (w :: l) = b.1.markStall.notifyAll (a.2 ++ b.2))
  ∧ ∀ (h : HewerId) (s : State) (i : Nat),
      let x := s.hew h
      x.body = some i → x.budget = 0 → s.atBoundary h = true → x.mcheck = false → x.forced = false →
      let attempt := match (s.task i).act with | some a => a.attempt | none => 0
      let logged := ((s.stamp h).2.drtLog (s.stamp h).1 (s.source h) 0x26 i attempt 0).count F.DRT_EVT_COUNTS.OVERRUN 1
      exec (.budgetExpiry h) s = .next ((((((logged.dropActivation i).modHew h (fun y => { y with between := false })).tally h
        0x014).takeExc h 0x0E x.excPc (BitVec.ofNat 64 i))).modHew h (fun y => { y with eretRestores := some (y.pl, 0) }))

/-- Enabling the draught, stealing in two tiers, and the pools. Where DRT_CTL takes writes, in CONFIGURE with EN 0 DRT_EN_SET
raises EN where the configuration allows it and CFG_ERR where it does not; in another mode it changes nothing. REGION_LOCKED
makes an enabled draught READY. DRT_EN_CLEAR in CONFIGURE with EN 1 discards everything in flight, empties tasks, queues and
requests and clears READY and EN. TIER1_STEAL with T1_EN and a packet to take puts it at the head of the hewer's queue and
counts a take from a local queue; without T1_EN nothing changes. TIER2_REQUEST of a gallery that may ask queues its request by
cycle and gallery; TIER2_STEAL serves the first: the most urgent candidate is copied, marked stolen and counted, and without
one the gallery may ask again 64 cycles later. TIER2_COPY_DONE gives the packet to a free hewer of the gallery, else to a pool
hewer with room in its queue, else to its ready queue. The pool writes store the pool, return the queues of hewers that left
in key order, and settle the mode. Rests on: 04_draught_tasks.md R178, 05_draught_dispatch.md R199, 04_draught_tasks.md R134,
05_draught_dispatch.md R205, 05_draught_dispatch.md R207, 05_draught_dispatch.md R208, 05_draught_dispatch.md R209,
05_draught_dispatch.md R210, 05_draught_dispatch.md R221, 05_draught_dispatch.md R835. -/
def Obligations.DraughtControl : Prop :=
  (∀ (s : State),
    let takes := s.takesIo Adr.DRT_CTL = true
    (takes → s.mode = .configure → s.flag F.DRT_CTL.EN = false → s.drtConfigOk = true → exec .drtEnSet s = .next (s.setFld F.DRT_CTL.EN 1))
    ∧ (takes → s.mode = .configure → s.flag F.DRT_CTL.EN = false → s.drtConfigOk = false →
        exec .drtEnSet s = .next (s.raise F.DRT_STATUS.CFG_ERR))
    ∧ ((s.mode ≠ .configure ∨ s.takesIo Adr.DRT_CTL = false) → exec .drtEnSet s = .next s ∧ exec .drtEnClear s = .next s)
    ∧ (s.pwr.pllLocked = true → s.domainOn 11 = true → s.flag F.DRT_CTL.EN = true → s.flag F.DRT_STATUS.READY = false →
        exec .regionLocked s = .next (s.mscLock.setFld F.DRT_STATUS.READY 1)
        ∧ s.mscLock.drt = { s.drt with locked := true } ∧ s.mscLock.mem = s.mem ∧ s.mscLock.regs = s.regs)
    ∧ ((s.pwr.pllLocked = false ∨ s.domainOn 11 = false ∨ s.flag F.DRT_CTL.EN = false) → exec .regionLocked s = .next s)
    ∧ (takes → s.mode = .configure → s.flag F.DRT_CTL.EN = true → ∃ t, exec .drtEnClear s = .next t
        ∧ t.flag F.DRT_CTL.EN = false ∧ t.flag F.DRT_STATUS.READY = false
        ∧ t.drt.tasks = [] ∧ t.drt.events = [] ∧ t.drt.ready = [] ∧ t.drt.locals = [] ∧ t.drt.t2req = []))
  ∧ (∀ (h : HewerId) (s : State),
    (s.flag F.DRT_DSP_CTL.T1_EN = false → exec (.tier1Steal h) s = .next s)
    ∧ (s.draughtRuns = false → exec (.tier1Steal h) s = .next s)
    ∧ (∀ i, s.draughtRuns = true → s.flag F.DRT_DSP_CTL.T1_EN = true → s.tier1Pick h = some (i, true) →
        exec (.tier1Steal h) s = .next (((s.dequeue i).toLocalHead h i).count F.DRT_DSP_COUNTS.T1_STEALS 1))
    ∧ (∀ i, s.draughtRuns = true → s.flag F.DRT_DSP_CTL.T1_EN = true → s.tier1Pick h = some (i, false) →
        exec (.tier1Steal h) s = .next ((s.dequeue i).toLocalHead h i)))
  ∧ (∀ (g : Fin 64) (s : State),
    (s.draughtRuns = true → s.tier2Wants g = true → exec (.tier2Request g) s
        = .next { s with drt := { s.drt with t2req := insertReq s.drt.t2req (s.time.cyc, g.val) } })
    ∧ ((s.draughtRuns = false ∨ s.tier2Wants g = false) → exec (.tier2Request g) s = .next s))
  ∧ (∀ (s : State) (cyc g : Nat) (rest : List (Nat × Nat)), s.draughtRuns = true → s.drt.t2req = (cyc, g) :: rest →
    let u := { s with drt := { s.drt with t2req := rest } }
    (mostUrgent (s.tier2Candidates g) = none → exec .tier2Steal s
        = .next { u with drt := { u.drt with t2again := u.drt.t2again.set 0 g (s.time.cyc + 64) } })
    ∧ ∀ i a, mostUrgent (s.tier2Candidates g) = some (i, a) → exec .tier2Steal s
        = .next (((u.dequeue i).modAct i (fun a => { a with stage := .copying g, stolen := true })).count
            F.DRT_DSP_COUNTS.T2_STEALS 1))
  ∧ (∀ (index : BitVec 16) (s : State) (a : Activation) (g : Nat), s.draughtRuns = true → (s.task index.toNat).act = some a →
    a.stage = .copying g →
    let i := index.toNat
    let hs := (List.range 8).map (fun k => g * 8 + k)
    let pool := hs.find? (fun h => s.hewerInPool h && decide ((s.localQ h).length < 8))
    let free := hs.find? (fun h => s.freeFor h (s.arrivalLevel a.desc.pclass))
    (∀ h, free = some h → exec (.tier2CopyDone index) s = .next (s.toLocalHead h i))
    ∧ (∀ h, free = none → pool = some h → exec (.tier2CopyDone index) s = .next (s.toLocalHead h i))
    ∧ (free = none → pool = none → exec (.tier2CopyDone index) s = .next (s.toReady g i)))
  ∧ ∀ (k : Fin 8) (v : Word) (s : State),
      let returned := fun (t : State) => (t.leaveAll ((List.range 512).filter (fun h => s.hewerInPool h && !(t.hewerInPool h)))).settle
      exec (.hewerPoolWrite k v) s
        = .next (if s.takesIo (Adr.DRT_HWR_POOL k) then returned (s.setReg (Adr.DRT_HWR_POOL k) v) else s)
      ∧ exec (.galleryPoolWrite v) s
        = .next (if s.takesIo Adr.DRT_GAL_POOL then returned (s.setReg Adr.DRT_GAL_POOL v) else s)

/-- The oldest write that has reached the lode is dropped, held, ignored as a duplicate, discarded as older, or stored with
its stamp. For the oldest waiting write with a stamp time and a path other than a force: while the lode accepts nothing it
waits. Otherwise it leaves the queue and is dropped and counted where the slot, the direction, a force, or its quality or kind
forbids it; at or past a pending boundary it goes to the end of the hold buffer; with the newest copy's own stamp it changes
nothing; with an earlier stamp it sets OLDER in the open epoch's copy, keeps the value and is counted; with a later one it
puts value, stamp, quality, the next SEQ, LATE and FRZ (whether a force covers its part of the open epoch) into the open
epoch's copy, and the other copy becomes or stays the snapshot. No other slot, and no register but LOD_COUNTS, changes. Rests
on: 03_lode.md R89, 03_lode.md R90, 03_lode.md R91, 03_lode.md R92, 03_lode.md R95, 03_lode.md R98, 03_lode.md R102,
03_lode.md R124. -/
def Obligations.LodeAppliesWrites : Prop :=
  ∀ (s : State) (w : LodeWrite) (rest : List HoldItem) (t : Nat), s.lode.inq = .write w :: rest → w.time = some t → w.path ≠ .force →
    let u : State := { s with lode := { s.lode with inq := rest } }
    let x := s.slot w.slot
    let o := s.openEpoch
    let new := x.newest o
    let base := if new.inEpoch o then new else { new with tag := o % 2 ^ 32, late := false, older := false, frz := s.openFrz x t }
    let others := fun (y : State) => (∀ i, i ≠ w.slot → y.slot i = s.slot i) ∧ (∀ a, a ≠ Adr.LOD_COUNTS → y.reg a = s.reg a)
      ∧ y.mem = s.mem ∧ y.hewers = s.hewers ∧ y.drt = s.drt ∧ y.lode.inq = rest ∧ y.lode.hold = s.lode.hold
    (s.lodeAccepts = false → ∃ y : State, exec .lodeWriteApply s = .next y ∧ y.lode.inq = s.lode.inq ∧ y.lode.slots = s.lode.slots)
    ∧ (s.lodeAccepts = true →
      ((slotCount ≤ w.slot ∨ pathMayWrite w.path x.dirOut = false ∨ x.forcedAt t = true ∨ writeValue x w = none) →
          exec .lodeWriteApply s = .next (u.count F.LOD_COUNTS.DROPPED 1))
      ∧ ∀ v q, w.slot < slotCount → pathMayWrite w.path x.dirOut = true → x.forcedAt t = false → writeValue x w = some (v, q) →
        (s.beyondPending t = true → ∃ y : State, exec .lodeWriteApply s = .next y ∧ y.lode.inq = rest
          ∧ y.lode.hold = s.lode.hold ++ [.write { w with time := some t, frame := none }] ∧ y.lode.slots = s.lode.slots)
        ∧ (s.beyondPending t = false →
          (t = new.ptime → w.source = new.source → exec .lodeWriteApply s = .next u)
          ∧ (stampBefore t w.source new.ptime new.source = true → ∃ y, exec .lodeWriteApply s = .next y ∧ others y
            ∧ (y.slot w.slot).newest o = { base with older := true } ∧ (y.slot w.slot).snapshot o = x.snapshot o
            ∧ y.fld F.LOD_COUNTS.OLDER = min (s.fld F.LOD_COUNTS.OLDER + 1) 0xFFFF)
          ∧ (stampBefore t w.source new.ptime new.source = false → (t ≠ new.ptime ∨ w.source ≠ new.source) → x.evt = false →
            ∃ y, exec .lodeWriteApply s = .next y ∧ others y
            ∧ (y.slot w.slot).newest o = { base with
                value := v, ptime := t, source := w.source, quality := q, frz := s.openFrz x t
                seq := (new.seq + 1) % 0x10000, late := decide (t < s.fld F.LOD_OPEN_B.BOUNDARY) }
            ∧ (y.slot w.slot).snapshot o = x.snapshot o)))

/-- The writes, forces and configuration writes that reach the lode in an open epoch leave every slot's snapshot copy as it
is. In every state the commands LODE_WRITE_APPLY, SOFTWARE_WRITE, FORCE_SET, FORCE_CLEAR and LOD_CFG_DATA_WRITE leave the open
epoch and the snapshot copy of every slot unchanged, whatever the write, whether it is dropped, held, discarded or stored, and
whatever releases of tasks it causes. Rests on: 03_lode.md R100, 03_lode.md R122, 03_lode.md R92. -/
def Obligations.SnapshotStaysFixed : Prop :=
  ∀ (s t : State) (c : Instr) (loc : BitVec 12) (v : Word32),
    c ∈ [Instr.lodeWriteApply, .softwareWrite loc v, .forceSet loc, .forceClear loc, .lodCfgDataWrite v] → exec c s = .next t →
    t.openEpoch = s.openEpoch ∧ ∀ i, (t.slot i).snapshot t.openEpoch = (s.slot i).snapshot s.openEpoch

/-- SWR_CTL.GO writes a slot with the counter's stamp; SET and CLEAR set and end a force; a configuration write shows at once
in CONFIGURE. While the lode's registers take no write (clocks or D2 off) the four writes change nothing. With the lode
accepting, nothing waiting before it, no close pending, a slot in range without EVT, and the newest copy older than the stamp:
a software write of the slot's own kind with a valid quality on an unforced slot stores LOD_SWR_VALUE with the counter at
acceptance as stamp; FORCE_SET stores LOD_FRC_VALUE with quality FORCED, FRZ set and the effective time, which is LOD_FRC_TIME
or the counter if that is later; FORCE_CLEAR ends, from its effective time on, every force begun by then and leaves earlier
times under it, and clears FRZ in the open epoch's copy. LOD_CFG_DATA_WRITE in CONFIGURE puts KIND, DIR, EVT and AGE in force
at once in the slot of LOD_CFG_INDEX, and INC moves SLOT on; a reserved kind leaves every slot. Rests on: 03_lode.md R88,
03_lode.md R93, 03_lode.md R94, 03_lode.md R126, 03_lode.md R85. -/
def Obligations.SoftwareWritesAndForces : Prop :=
  (∀ (s : State) (loc : BitVec 12) (v : Word32), (s.pwr.pllLocked = false ∨ s.domainOn 2 = false) →
    ∀ c ∈ [Instr.softwareWrite loc v, .forceSet loc, .forceClear loc, .lodCfgDataWrite v], exec c s = .next s)
  ∧ ∀ (s : State) (loc : BitVec 12) (v : Word32), s.lodeAccepts = true → s.lode.inq = [] → s.flag F.LOD_STATUS.CLOSE_PEND = false →
    (let i := s.fld F.LOD_SWR_INDEX.SLOT
     let x := s.slot i
     let new := x.newest s.openEpoch
     let t := (s.stamp loc.toNat).1
     i < slotCount → x.evt = false → bitOf v.toNat 0 = true → bitsOf v.toNat 7 4 = x.kind → bitsOf v.toNat 23 16 ∈ [1, 2, 3, 4, 5, 6, 7] →
     x.forcedAt t = false → new.ptime < t →
      ∃ y : State, exec (.softwareWrite loc v) s = .next y
        ∧ ((y.slot i).newest y.openEpoch).value = s.reg Adr.LOD_SWR_VALUE
        ∧ ((y.slot i).newest y.openEpoch).ptime = t ∧ ((y.slot i).newest y.openEpoch).source = s.source loc.toNat
        ∧ ((y.slot i).newest y.openEpoch).quality = bitsOf v.toNat 31 16
        ∧ (∀ k, k ≠ i → y.slot k = s.slot k))
    ∧ (let i := s.fld F.LOD_FRC_INDEX.SLOT
       let x := s.slot i
       let new := x.newest s.openEpoch
       let t := max (s.fld F.LOD_FRC_TIME.TIME) s.time.now
       i < slotCount → x.evt = false →
       (new.ptime < t → ∃ y : State, exec (.forceSet loc) s = .next y
         ∧ (y.slot i).forces = (t, none) :: x.forces
         ∧ ((y.slot i).newest y.openEpoch).value = s.reg Adr.LOD_FRC_VALUE ∧ ((y.slot i).newest y.openEpoch).ptime = t
         ∧ ((y.slot i).newest y.openEpoch).source = s.source loc.toNat
         ∧ ((y.slot i).newest y.openEpoch).quality = 0x04 ∧ ((y.slot i).newest y.openEpoch).frz = true
         ∧ (∀ k, k ≠ i → y.slot k = s.slot k))
       ∧ ∃ y : State, exec (.forceClear loc) s = .next y
         ∧ (y.slot i).forces = x.forces.map (fun f => if f.1 ≤ t then (f.1, some (min t (f.2.getD t))) else f)
         ∧ ((∀ f, f ∈ x.forces → f.1 ≤ t) → ∀ u, (y.slot i).forcedAt u = (x.forcedAt u && decide (u < t)))
         ∧ ((y.slot i).newest y.openEpoch).value = new.value
         ∧ (new.inEpoch s.openEpoch = true → ((y.slot i).newest y.openEpoch).frz = false)
         ∧ (∀ k, k ≠ i → y.slot k = s.slot k) ∧ y.mem = s.mem)
    ∧ (let i := s.fld F.LOD_CFG_INDEX.SLOT
       let moved := fun (y : State) => y.fld F.LOD_CFG_INDEX.SLOT
         = if s.flag F.LOD_CFG_INDEX.INC then (i + 1) % 2 ^ (F.LOD_CFG_INDEX.SLOT.hi + 1 - F.LOD_CFG_INDEX.SLOT.lo) else i
       (8 ≤ bitsOf v.toNat 7 4 → ∃ y : State, exec (.lodCfgDataWrite v) s = .next y ∧ y.lode = s.lode ∧ moved y)
       ∧ (bitsOf v.toNat 7 4 < 8 → s.mode = .configure → i < slotCount → ∃ y : State, exec (.lodCfgDataWrite v) s = .next y ∧ moved y
         ∧ y.slot i = { s.slot i with
             dirOut := bitOf v.toNat 15, evt := bitOf v.toNat 13, kind := bitsOf v.toNat 7 4, age := bitsOf v.toNat 3 0 }
         ∧ ∀ k, k ≠ i → y.slot k = s.slot k))

/-- The lode accepts an epoch advance when no close is pending and its boundary is later than the last recorded one; else it
refuses it. For LOD_ADVANCE in every state in which its register takes a write (else nothing changes), with SW_ADV_EN 1 and
initialisation complete, with the counter as boundary, and for the advance operation that all three ways of requesting share,
with any boundary: with no close pending and a boundary later than LOD_OPEN_B, the boundary is recorded as pending; otherwise
nothing is recorded, LOD_COUNTS.REFUSED rises by 1 (saturating, as its map says) and a fault event 0x10 stamped by source
0xF00 is logged. Rests on: 03_lode.md R97. -/
def Obligations.AdvanceRecordedOrRefused : Prop :=
  ∀ (s : State) (b : Nat), b < 2 ^ 64 →
    let last := if s.flag F.LOD_STATUS.CLOSE_PEND then s.fld F.LOD_PEND_B.BOUNDARY else s.fld F.LOD_OPEN_B.BOUNDARY
    let accepts := fun (y : State) => y.flag F.LOD_STATUS.CLOSE_PEND = true ∧ y.fld F.LOD_PEND_B.BOUNDARY = b
      ∧ y.fld F.LOD_OPEN_B.BOUNDARY = s.fld F.LOD_OPEN_B.BOUNDARY ∧ y.openEpoch = s.openEpoch ∧ y.reg Adr.LOD_COUNTS = s.reg Adr.LOD_COUNTS
    let counted := s.setFld F.LOD_COUNTS.REFUSED (min (s.fld F.LOD_COUNTS.REFUSED + 1) 0xFFFF)
    let refuses := fun (y : State) =>
      let l := (counted.stamp 0xF00).2.logRecord ⟨(counted.stamp 0xF00).1, counted.source 0xF00, 0x10, 0, severityOf 0x10 1, 0, 2 ^ 40⟩
      y = { l with lode := y.lode } ∧ y.lode.bounds = s.lode.bounds
    (s.takesIo Adr.LOD_ADVANCE = false → exec .lodAdvance s = .next s)
    ∧ (s.flag F.LOD_STATUS.CLOSE_PEND = false → last < b → accepts (s.advance b).1 ∧ (s.advance b).2 = true)
    ∧ ((s.flag F.LOD_STATUS.CLOSE_PEND = true ∨ b ≤ last) → refuses (s.advance b).1 ∧ (s.advance b).2 = false)
    ∧ (b = s.time.now → s.takesIo Adr.LOD_ADVANCE = true → s.flag F.LOD_CTL.SW_ADV_EN = true → s.flag F.LOD_STATUS.INIT_DONE = true →
        (s.flag F.LOD_STATUS.CLOSE_PEND = false → last < b → ∃ y, exec .lodAdvance s = .next y ∧ accepts y)
        ∧ ((s.flag F.LOD_STATUS.CLOSE_PEND = true ∨ b ≤ last) → ∃ y, exec .lodAdvance s = .next y ∧ refuses y))

/-- A close moves the epoch on; window commits copy the shadow set; INIT_DONE opens the lode; the scrubber rewrites damaged
copies. EPOCH_CLOSE with the pending boundary plus the horizon reached, no gather of the closed snapshot running, the clock
and D2 on, no query contexts and nothing held: the open epoch rises by 1, LOD_OPEN_B takes the boundary, no close is pending,
and every slot keeps its copies, so the newest copy written before becomes the snapshot; before the horizon has passed nothing
changes. A commit's bits wait in LOD_WIN_COMMIT; when it takes effect the active set of each of its windows equals its shadow
set, which is kept, and the bits read 0. INIT_DONE sets its flag and handles the waiting advances. LODE_SCRUB of a copy that
cannot be corrected rewrites it as POISONED with value 0, the counter and source 0xF00, keeping SEQ; a correctable copy keeps
all but an overaged TAG. Rests on: 03_lode.md R99, 03_lode.md R100, 03_lode.md R111, 03_lode.md R113, 03_lode.md R123,
03_lode.md R124, 03_lode.md R127, 03_lode.md R128. -/
def Obligations.EpochCloseAndWindows : Prop :=
  (∀ (s : State), s.pwr.pllLocked = true → s.domainOn 2 = true →
    (s.closeDue = true → s.gathersOpen = false → s.adt.queries = [] → s.lode.hold = [] → s.openEpoch + 1 < 2 ^ 64 →
      ∃ y : State, exec .epochClose s = .next y ∧ y.openEpoch = s.openEpoch + 1
        ∧ y.fld F.LOD_OPEN_B.BOUNDARY = s.fld F.LOD_PEND_B.BOUNDARY ∧ y.flag F.LOD_STATUS.CLOSE_PEND = false
        ∧ y.lode = s.lode ∧ y.mem = s.mem ∧ y.drt = s.drt ∧ y.hewers = s.hewers)
    ∧ (s.flag F.LOD_STATUS.CLOSE_PEND = false ∨ s.time.now < s.fld F.LOD_PEND_B.BOUNDARY + s.fld F.LOD_HORIZON.HORIZON →
        exec .epochClose s = .next s)
    ∧ (s.flag F.LOD_STATUS.INIT_DONE = false → s.lode.waitAdv = [] → exec .initDone s = .next (s.raise F.LOD_STATUS.INIT_DONE))
    ∧ (∀ b, s.flag F.LOD_STATUS.INIT_DONE = false → s.lode.waitAdv = [b] → ∃ y : State,
        y.lode.waitAdv = [] ∧ y.flag F.LOD_STATUS.INIT_DONE = true ∧ exec .initDone s = .next (y.advance b).1)
    ∧ (∀ (slot : Fin 262144) (zero : Bool), s.flag F.LOD_STATUS.INIT_DONE = true →
        tagAge s.openEpoch (s.slot slot).c0.tag < 2 ^ 31 - 2 → tagAge s.openEpoch (s.slot slot).c1.tag < 2 ^ 31 - 2 →
        (s.slot slot).c0.tag < 2 ^ 32 → (s.slot slot).c1.tag < 2 ^ 32 →
        let bad := fun (c : LodeCopy) => { c with value := 0, ptime := s.time.now, source := s.source 0xF00, quality := 0x06 }
        (∃ y : State, exec (.lodeScrub slot zero false) s = .next y ∧ y.slot slot = s.slot slot ∧ y.regs = s.regs ∧ y.mem = s.mem)
        ∧ ∃ y : State, exec (.lodeScrub slot zero true) s = .next y ∧ (∀ k, k ≠ slot.val → y.slot k = s.slot k)
          ∧ y.slot slot = if zero then { s.slot slot with c0 := bad (s.slot slot).c0 } else { s.slot slot with c1 := bad (s.slot slot).c1 }))
  ∧ (∀ (s : State) (mask : Word), s.takesIo Adr.LOD_WIN_COMMIT = false →
      exec (.lodWinCommit mask) s = .next s ∧ exec .windowCommitEffect s = .next s)
  ∧ (∀ (s : State) (mask : Word), s.takesIo Adr.LOD_WIN_COMMIT = true → ∃ y z : State, exec (.lodWinCommit mask) s = .next y
      ∧ y = s.setReg Adr.LOD_WIN_COMMIT (s.reg Adr.LOD_WIN_COMMIT ||| mask)
      ∧ exec .windowCommitEffect y = .next z ∧ z.reg Adr.LOD_WIN_COMMIT = 0 ∧ z.mem = s.mem ∧ z.lode = s.lode
      ∧ ∀ w, w < 64 → z.reg (Adr.LOD_WIN_MATCH w) = s.reg (Adr.LOD_WIN_MATCH w) ∧ z.reg (Adr.LOD_WIN_RANGE w) = s.reg (Adr.LOD_WIN_RANGE w)
        ∧ z.reg (Adr.LOD_WIN_MAP w) = s.reg (Adr.LOD_WIN_MAP w)
        ∧ ((y.reg Adr.LOD_WIN_COMMIT).toNat.testBit w = true →
            z.reg (Adr.LOD_WIN_MATCH_A w) = s.reg (Adr.LOD_WIN_MATCH w) ∧ z.reg (Adr.LOD_WIN_RANGE_A w) = s.reg (Adr.LOD_WIN_RANGE w)
            ∧ z.reg (Adr.LOD_WIN_MAP_A w) = s.reg (Adr.LOD_WIN_MAP w))
        ∧ ((y.reg Adr.LOD_WIN_COMMIT).toNat.testBit w = false → z.reg (Adr.LOD_WIN_MATCH_A w) = s.reg (Adr.LOD_WIN_MATCH_A w)))

/-- TIM_SET sets the counter only in FREE before the step; otherwise it only sets SET_REJ. For every state and value, where
the register takes writes: in FREE with STEPPED 0 the counter takes the value in one step, frac is 0 and STEPPED becomes 1
(the step of R68 is used); in any other state TIM_SET changes nothing but TIM_STATUS.SET_REJ, which it sets. While the PLL is
unlocked the write changes nothing. Rests on: 02_plant_time.md R71. -/
def Obligations.TimeIsSetOnlyInFree : Prop :=
  ∀ (s : State) (v : Word),
    (s.takesIo Adr.TIM_SET = false → exec (.timSet v) s = .next s)
    ∧ (s.takesIo Adr.TIM_SET = true → s.fld F.TIM_STATUS.STATE = 0 → s.flag F.TIM_STATUS.STEPPED = false →
      ∃ t : State, exec (.timSet v) s = .next t ∧ t.time.now = v.toNat ∧ t.time.frac = 0 ∧ t.flag F.TIM_STATUS.STEPPED = true
        ∧ t.fld F.TIM_STATUS.STATE = 0 ∧ (∀ a, a ≠ Adr.TIM_STATUS → t.reg a = s.reg a)
        ∧ t.mem = s.mem ∧ t.hewers = s.hewers ∧ t.lode = s.lode ∧ t.drt = s.drt)
    ∧ (s.takesIo Adr.TIM_SET = true → (s.fld F.TIM_STATUS.STATE ≠ 0 ∨ s.flag F.TIM_STATUS.STEPPED = true) →
        exec (.timSet v) s = .next (s.setFld F.TIM_STATUS.SET_REJ 1))

/-- Syncs, selections, timeouts and SYNC_EN move the synchronisation state as the transition table says, and the servo sets
TIM_RATE. A Sync on a port that does not take part, or not to the standard, changes nothing; one with a master time outside
plant time only sets RANGE_ERR. A Sync of the selected master on its port in FREE, HOLDOVER or GRANDMASTER makes ACQUIRE and
follows it there, keeps TIM_RATE when it is the master's first, and with STEPPED 0 and the offset beyond LOCK_NS sets the
counter to the master's time; STEPPED becomes 1. In ACQUIRE after the step the 16th consecutive Sync within LOCK_NS makes
LOCKED; in LOCKED the 4th consecutive one beyond LOSS_NS makes HOLDOVER and counts; in LOCKED within LOSS_NS TIM_RATE takes
the servo's value. Selecting the device itself needs GM_CAPABLE and makes GRANDMASTER with the rate held; selecting another
master than the one followed makes ACQUIRE. A timeout makes HOLDOVER from LOCKED, and from ACQUIRE HOLDOVER or FREE; HOLDOVER
past TIM_HOLD makes FREE; SYNC_EN written 0 in CONFIGURE, while the clocks run, makes FREE with STEPPED and TIM_RATE 0. Rests
on: 02_plant_time.md R66, 02_plant_time.md R67, 02_plant_time.md R68, 02_plant_time.md R70. -/
def Obligations.SynchronisationStates : Prop :=
  (∀ (port : Fin 8) (m : Word) (std : Bool) (sec : BitVec 64) (ns : Word32) (sub : BitVec 16) (log hops : BitVec 8) (s : State),
    let t := s.plantTime sec.toNat ns.toNat sub.toNat
    let off : Int := (s.time.now : Int) - t
    let lock := s.fld F.TIM_LIMITS.LOCK_NS * 16
    let loss := s.fld F.TIM_LIMITS.LOSS_NS * 16
    let c := Instr.syncReceived port m std sec ns sub log hops
    (s.gptpPort port = false ∨ std = false ∨ s.pwr.pllLocked = false → exec c s = .next s)
    ∧ (s.gptpPort port = true → std = true → s.pwr.pllLocked = true →
      (t < 0 ∨ (2 ^ 64 : Int) ≤ t → exec c s = .next (s.setFld F.TIM_STATUS.RANGE_ERR 1))
      ∧ (0 ≤ t → t < (2 ^ 64 : Int) → s.time.selected = some (m.toNat, port.val) →
        (s.fld F.TIM_STATUS.STATE ∈ [0, 3, 4] → ∃ y : State, exec c s = .next y ∧ y.fld F.TIM_STATUS.STATE = 1
          ∧ y.time.master = some m.toNat ∧ y.flag F.TIM_STATUS.STEPPED = true ∧ y.fld F.TIM_STATUS.SLAVE_PORT = port
          ∧ (s.time.lastSync.find? (fun e => e.1 = m.toNat) = none → y.reg Adr.TIM_RATE = s.reg Adr.TIM_RATE)
          ∧ (if s.flag F.TIM_STATUS.STEPPED = false ∧ lock < off.natAbs then y.time.now = t.toNat ∧ y.time.frac = 0
             else y.time.now = s.time.now ∧ y.time.frac = s.time.frac))
        ∧ (s.fld F.TIM_STATUS.STATE = 1 → s.time.master = some m.toNat → s.flag F.TIM_STATUS.STEPPED = true →
            off.natAbs ≤ lock → 15 ≤ s.time.within →
            ∃ y : State, exec c s = .next y ∧ y.fld F.TIM_STATUS.STATE = 2 ∧ y.time.now = s.time.now)
        ∧ (s.fld F.TIM_STATUS.STATE = 2 → s.time.master = some m.toNat →
          (loss < off.natAbs → 3 ≤ s.time.beyond → ∃ y : State, exec c s = .next y ∧ y.fld F.TIM_STATUS.STATE = 3
            ∧ y.fld F.TIM_LOSS_COUNT.COUNT = min (s.fld F.TIM_LOSS_COUNT.COUNT + 1) (2 ^ 32 - 1) ∧ y.time.now = s.time.now)
          ∧ (off.natAbs ≤ loss → ∀ n, 0 < n → s.time.lastSync.find? (fun e => e.1 = m.toNat) = some (m.toNat, s.time.cyc - n) → n ≤ s.time.cyc →
            let corr := off * 2 ^ 32 / (n : Int)
            let integ := clampInt (-0x01000000) 0x01000000 (s.time.integ - corr / (2 ^ s.fld F.TIM_SERVO.KI_SH : Nat))
            ∃ y : State, exec c s = .next y ∧ y.fld F.TIM_STATUS.STATE = 2 ∧ y.time.integ = integ
              ∧ signedOf 32 (y.reg Adr.TIM_RATE).toNat
                = clampInt (-0x01000000) 0x01000000 (integ - corr / (2 ^ s.fld F.TIM_SERVO.KP_SH : Nat)))))))
  ∧ (∀ (m : Word) (port : Fin 8) (hops : BitVec 8) (self : Bool) (s : State),
    (s.takesPart = false ∨ s.pwr.pllLocked = false → exec (.bmcaSelection self m port hops) s = .next s)
    ∧ (s.gptpPort port = false ∨ s.mayFollow port = false → exec (.bmcaSelection false m port hops) s = .next s)
    ∧ (s.flag F.TIM_CTL.GM_CAPABLE = false → exec (.bmcaSelection true m port hops) s = .next s)
    ∧ (s.takesPart = true → s.pwr.pllLocked = true → s.flag F.TIM_CTL.GM_CAPABLE = true → ∃ y : State, exec (.bmcaSelection true m port hops) s = .next y
        ∧ y.fld F.TIM_STATUS.STATE = 4 ∧ y.reg Adr.TIM_RATE = s.reg Adr.TIM_RATE ∧ y.reg Adr.TIM_GM_ID = m
        ∧ y.fld F.TIM_STATUS.SLAVE_PORT = 0xF)
    ∧ (s.gptpPort port = true → s.mayFollow port = true → s.pwr.pllLocked = true →
        ∃ y : State, exec (.bmcaSelection false m port hops) s = .next y
        ∧ y.time.selected = some (m.toNat, port.val) ∧ y.reg Adr.TIM_GM_ID = m
        ∧ y.fld F.TIM_STATUS.SLAVE_PORT
          = (if s.fld F.TIM_STATUS.STATE ∈ [1, 2] then port.val else s.fld F.TIM_STATUS.SLAVE_PORT)
        ∧ y.fld F.TIM_STATUS.STATE
          = if s.fld F.TIM_STATUS.STATE ∈ [1, 2] ∧ s.time.master ≠ some m.toNat then 1 else s.fld F.TIM_STATUS.STATE))
  ∧ ∀ (s : State) (v : Word32),
    let late := decide (3 * s.time.syncNs ≤ (s.time.us - s.time.lastSyncUs) * 1000)
    (late = false → exec .syncTimeout s = .next s)
    ∧ (late = true →
        (s.fld F.TIM_STATUS.STATE = 2 → ∃ y : State, exec .syncTimeout s = .next y ∧ y.fld F.TIM_STATUS.STATE = 3
          ∧ y.fld F.TIM_LOSS_COUNT.COUNT = min (s.fld F.TIM_LOSS_COUNT.COUNT + 1) (2 ^ 32 - 1))
        ∧ (s.fld F.TIM_STATUS.STATE = 1 → ∃ y : State, exec .syncTimeout s = .next y
          ∧ y.fld F.TIM_STATUS.STATE = if s.time.everLocked then 3 else 0))
    ∧ (s.fld F.TIM_STATUS.STATE = 3 → s.fld F.TIM_HOLD.HOLD_MS * 1000 < s.time.us - s.time.holdUs →
        ∃ y : State, exec .holdoverExpiry s = .next y ∧ y.fld F.TIM_STATUS.STATE = 0 ∧ y.reg Adr.TIM_RATE = s.reg Adr.TIM_RATE)
    ∧ (s.mode ≠ .configure ∨ s.takesIo Adr.TIM_CTL = false → exec (.syncEnWrite v) s = .next s)
    ∧ (s.takesIo Adr.TIM_CTL = true → s.mode = .configure → bitOf v.toNat 0 = false → ∃ y : State, exec (.syncEnWrite v) s = .next y
        ∧ y.fld F.TIM_STATUS.STATE = 0 ∧ y.flag F.TIM_STATUS.STEPPED = false ∧ y.reg Adr.TIM_RATE = 0)

/-- A write of TARGET or PERIOD of an armed unit, or arming with a reserved ACTION, sets CFG_ERR and has no other effect on
the unit. For every compare unit n and value, while the clocks run (else a write changes nothing): with ARM 1,
COMPARE_UNIT_WRITE of TARGET or PERIOD changes nothing but CFG_ERR; with ARM 0 it stores the value. A write of CTL with ARM 1
and a reserved ACTION (6 or 7) leaves ARM 0 and sets CFG_ERR; with another ACTION it arms the unit. Rests on: 02_plant_time.md
R82. -/
def Obligations.CompareUnitsRefuseArmedWrites : Prop :=
  ∀ (n : Fin 64) (v : Word) (s : State),
    (s.takesIo (Adr.TIM_CMP_CTL n) = false → ∀ which, exec (.compareUnitWrite n which v) s = .next s)
    ∧ (s.takesIo (Adr.TIM_CMP_CTL n) = true →
    (s.flag (F.TIM_CMP_CTL.ARM n) = true →
      exec (.compareUnitWrite n 0 v) s = .next (s.setFld (F.TIM_CMP_STAT.CFG_ERR n) 1)
      ∧ exec (.compareUnitWrite n 1 v) s = .next (s.setFld (F.TIM_CMP_STAT.CFG_ERR n) 1))
    ∧ (s.flag (F.TIM_CMP_CTL.ARM n) = false →
      exec (.compareUnitWrite n 0 v) s = .next (s.setReg (Adr.TIM_CMP_TARGET n) v)
      ∧ exec (.compareUnitWrite n 1 v) s = .next (s.setReg (Adr.TIM_CMP_PERIOD n) v))
    ∧ (bitOf v.toNat 0 = true →
      ∃ t : State, exec (.compareUnitWrite n 2 v) s = .next t
        ∧ (6 ≤ bitsOf v.toNat 3 1 → t.flag (F.TIM_CMP_CTL.ARM n) = false ∧ t.flag (F.TIM_CMP_STAT.CFG_ERR n) = true)
        ∧ (bitsOf v.toNat 3 1 < 6 → t.flag (F.TIM_CMP_CTL.ARM n) = true ∧ t.fld (F.TIM_CMP_CTL.ACTION n) = bitsOf v.toNat 3 1
            ∧ t.fld (F.TIM_CMP_CTL.ARG n) = bitsOf v.toNat 31 16 ∧ t.reg (Adr.TIM_CMP_STAT n) = s.reg (Adr.TIM_CMP_STAT n))))

/-- The first due compare unit acts and advances its target past plant time or disarms; masters send Sync and Follow_Up. A
unit that is not due, or behind another due unit, does nothing. The first due unit with ACTION 0 adds its level to the
plant-time compare interrupts of its hewer (one without power gets none), and sets FIRED; with PERIOD 0 it disarms and keeps
TARGET; with PERIOD p it stays armed and TARGET moves by the least k of at least 1 with plant time below TARGET + k p, MISSED
counting k - 1. With ACTION 1 it makes a commanded release stamped with the target; with ACTION 5 it requests an advance with
the target as boundary. SYNC_TRANSMIT on a port that may send and may be a master port, by a grandmaster, sends Sync and
Follow_Up with stamps of the port, the domain and the interval, and PDELAY_REQ_TRANSMIT the request, where the port has lock,
transmits nothing and keeps no older such message; while it transmits, the request is kept for later; a port without a link
sends nothing. Rests on: 02_plant_time.md R73, 02_plant_time.md R79, 02_plant_time.md R80, 02_plant_time.md R81,
02_plant_time.md R60. -/
def Obligations.CompareUnitsFire : Prop :=
  (∀ (n : Fin 64) (s : State),
    let t := (s.reg (Adr.TIM_CMP_TARGET n)).toNat
    let p := (s.reg (Adr.TIM_CMP_PERIOD n)).toNat
    let arg := s.fld (F.TIM_CMP_CTL.ARG n)
    (s.cmpFirst n = false → exec (.compareUnitFire n) s = .next s)
    ∧ (s.cmpFirst n = true →
      (s.fld (F.TIM_CMP_CTL.ACTION n) = 0 → ∃ y : State, exec (.compareUnitFire n) s = .next y
        ∧ y.flag (F.TIM_CMP_STAT.FIRED n) = true
        ∧ (s.domainOn (shaftDomain (arg % 512)) = true →
            y.fld (F.HWR_PTC_PEND.LVL (arg % 512)) = s.fld (F.HWR_PTC_PEND.LVL (arg % 512)) ||| 2 ^ bitsOf arg 15 12)
        ∧ (s.domainOn (shaftDomain (arg % 512)) = false →
            y.fld (F.HWR_PTC_PEND.LVL (arg % 512)) = s.fld (F.HWR_PTC_PEND.LVL (arg % 512)))
        ∧ (p = 0 → y.flag (F.TIM_CMP_CTL.ARM n) = false ∧ y.reg (Adr.TIM_CMP_TARGET n) = s.reg (Adr.TIM_CMP_TARGET n))
        ∧ (p ≠ 0 → ∃ k, 1 ≤ k ∧ s.time.now < t + k * p ∧ (∀ j, 1 ≤ j → j < k → t + j * p ≤ s.time.now)
            ∧ y.reg (Adr.TIM_CMP_TARGET n) = BitVec.ofNat 64 (t + k * p) ∧ y.flag (F.TIM_CMP_CTL.ARM n) = true
            ∧ y.fld (F.TIM_CMP_STAT.MISSED n) = min (s.fld (F.TIM_CMP_STAT.MISSED n) + (k - 1)) 0xFFFF))
      ∧ (s.fld (F.TIM_CMP_CTL.ACTION n) = 1 → p = 0 → ∃ y : State, exec (.compareUnitFire n) s = .next y
          ∧ y.drt = (s.commandRelease arg t (s.source 0x800)).drt ∧ y.mem = (s.commandRelease arg t (s.source 0x800)).mem)
      ∧ (s.fld (F.TIM_CMP_CTL.ACTION n) = 5 → p = 0 → ∃ y : State, exec (.compareUnitFire n) s = .next y
          ∧ y.lode = (s.requestAdvance t).1.lode ∧ y.fld F.LOD_PEND_B.BOUNDARY = (s.requestAdvance t).1.fld F.LOD_PEND_B.BOUNDARY)))
  ∧ ∀ (port : Fin 8) (s : State),
    let first := s.stamp (0x500 + port)
    let second := first.2.stamp (0x500 + port)
    let domain := s.fld F.TIM_CTL.DOMAIN
    (s.mayLead port = false → exec (.syncTransmit port) s = .next s)
    ∧ (s.gptpSends port = false → exec (.syncTransmit port) s = .next s ∧ exec (.pdelayReqTransmit port) s = .next s)
    ∧ (s.gptpSends port = true → s.time.cyc < (s.port port).busy → ∃ y : State, exec (.pdelayReqTransmit port) s = .next y ∧ y.out = s.out
          ∧ (y.port port).gptp = (s.port port).gptp ++ [(2, 0)] ∧ y.regs = s.regs ∧ y.mem = s.mem)
    ∧ (s.gptpSends port = true → (s.port port).busy ≤ s.time.cyc → (s.port port).lock = true → (s.port port).gptp = [] →
      (∃ y : State, exec (.pdelayReqTransmit port) s = .next y ∧ y.out = .gptp port 2 first.1 domain 0 :: s.out ∧ y.regs = s.regs ∧ y.mem = s.mem)
      ∧ (s.fld F.TIM_STATUS.STATE = 4 → s.mayLead port = true → ∃ y : State, exec (.syncTransmit port) s = .next y
          ∧ y.out = .gptp port 1 second.1 domain s.syncLog :: .gptp port 0 first.1 domain s.syncLog :: s.out ∧ y.regs = s.regs ∧ y.mem = s.mem))

/-- While FATAL is 1 a request for RUN or STANDBY is refused; power-on reset clears FATAL. For every state with
CFG_ST_RESULT.FATAL 1 in which CFG_MODE takes a write (its clocks and domain on; else the two requests change nothing), in
every mode: REQUEST_RUN and REQUEST_STANDBY leave the mode and every other part of the state as they are, but for CFG_MODE's
own fields REQ, which holds the target, and REQ_REJ, which is set. PORN_LOW, the power-on reset, leaves FATAL 0. Rests on:
20_startup_modes_power.md R740. -/
def Obligations.FatalRefusesService : Prop :=
  ∀ (s : State),
    (s.takesIo Adr.CFG_MODE = false → exec .requestRun s = .next s ∧ exec .requestStandby s = .next s)
    ∧ (s.takesIo Adr.CFG_MODE = true → s.flag F.CFG_ST_RESULT.FATAL = true →
      exec .requestRun s = .next ((s.setFld F.CFG_MODE.REQ 4).setFld F.CFG_MODE.REQ_REJ 1)
      ∧ exec .requestStandby s = .next ((s.setFld F.CFG_MODE.REQ 3).setFld F.CFG_MODE.REQ_REJ 1))
    ∧ ∃ t, exec .pornLow s = .next t ∧ t.flag F.CFG_ST_RESULT.FATAL = false

/-- Mode requests take the transitions of their table and are refused otherwise; RUN may wait for the partner; SELF-TEST ends
in CONFIGURE. With FATAL 0 and CFG_MODE taking a write (else a request changes nothing). SELF-TEST and STANDBY are entered
from CONFIGURE after a boot without error; MAINTENANCE from STANDBY, RUN and DEGRADED; STANDBY from MAINTENANCE; SAFE HOLD
with cause 5 from STANDBY, RUN, DEGRADED and MAINTENANCE; CONFIGURE from SAFE HOLD with the PLL locked, the device canary not
expired and another cause than 3. RUN, from CONFIGURE after boot or from MAINTENANCE, is entered as RUN, or as DEGRADED with a
cause set, when no partner is configured and a gallery is in the pool; with a partner neither seen nor lost it waits, with
ROLE_WAIT 1. Every other request changes only REQ and sets REQ_REJ. RUN_DECISION with the partner seen in RUN or DEGRADED
enters STANDBY; without a waiting request, or before the partner is seen or lost, it changes nothing. SELF_TEST_END in
SELF-TEST enters CONFIGURE, with FATAL set for a hub finding; elsewhere it changes nothing. Rests on:
20_startup_modes_power.md R739, 20_startup_modes_power.md R741, 20_startup_modes_power.md R743, 20_startup_modes_power.md
R744, 20_startup_modes_power.md R745, 20_startup_modes_power.md R746, 19_fault_tolerance.md R700. -/
def Obligations.ModeRequests : Prop :=
  (∀ (s : State), s.takesIo Adr.CFG_MODE = false →
    ∀ c ∈ [Instr.requestSelfTest, .requestRun, .requestStandby, .requestMaintenance, .requestSafeHold, .requestConfigure],
      exec c s = .next s)
  ∧ ∀ (s : State), s.takesIo Adr.CFG_MODE = true → s.flag F.CFG_ST_RESULT.FATAL = false →
    let booted := s.flag F.CFG_BOOT_STATUS.DONE = true ∧ s.fld F.CFG_BOOT_STATUS.ERR = 0
    let m := s.mode
    let refused := fun (c : Mode) => Host.Outcome.next (φ := Fault) (ρ := Refusal)
      ((s.setFld F.CFG_MODE.REQ c.code).setFld F.CFG_MODE.REQ_REJ 1)
    let enters := fun (o : Host.Outcome State Fault Refusal) (c : Mode) => ∃ t : State, o = .next t ∧ t.mode = c
    let pools := s.poolLeft = true
    let live := if s.flag F.FLT_STATUS.PARTNER_LOST ∨ s.flag F.FLT_STATUS.SHAFT_OFF ∨ s.flag F.FLT_STATUS.GALLERY_LOST
      ∨ s.flag F.FLT_STATUS.HEWER_REMOVED then Mode.degraded else Mode.run
    (m = .configure → booted → enters (exec .requestSelfTest s) .selfTest
        ∧ (pools → enters (exec .requestStandby s) .standby))
    ∧ (¬ (m = .configure ∧ booted) → exec .requestSelfTest s = refused .selfTest)
    ∧ (m ∈ [Mode.standby, .run, .degraded] → enters (exec .requestMaintenance s) .maintenance)
    ∧ (m ∉ [Mode.standby, .run, .degraded] → exec .requestMaintenance s = refused .maintenance)
    ∧ (m = .maintenance → pools → enters (exec .requestStandby s) .standby)
    ∧ (m ≠ .maintenance → ¬ (m = .configure ∧ booted) → exec .requestStandby s = refused .standby
        ∧ exec .requestRun s = refused .run)
    ∧ (m ∈ [Mode.standby, .run, .degraded, .maintenance] → ∃ t : State, exec .requestSafeHold s = .next t ∧ t.mode = .safeHold
        ∧ t.fld F.FLT_STATUS.SAFE_CAUSE = 5)
    ∧ (m ∉ [Mode.standby, .run, .degraded, .maintenance] → exec .requestSafeHold s = refused .safeHold)
    ∧ (m = .safeHold → s.pwr.pllLocked = true → s.flag F.CAN_DEV_STAT.EXPIRED = false → s.fld F.FLT_STATUS.SAFE_CAUSE ≠ 3 →
        enters (exec .requestConfigure s) .configure)
    ∧ ((m ≠ .safeHold ∨ s.pwr.pllLocked = false ∨ s.flag F.CAN_DEV_STAT.EXPIRED = true ∨ s.fld F.FLT_STATUS.SAFE_CAUSE = 3) →
        exec .requestConfigure s = refused .configure)
    ∧ ((m = .maintenance ∨ (m = .configure ∧ booted)) → s.flag F.CFG_MODE.ROLE_WAIT = false →
        (s.flag F.FLT_PARTNER.EN = false → pools → enters (exec .requestRun s) live)
        ∧ (s.flag F.FLT_PARTNER.EN = true → s.flag F.PLK_PARTNER_STAT.SEEN = false → s.flag F.PLK_PARTNER_STAT.LOST = false →
            exec .requestRun s = .next ((s.setFld F.CFG_MODE.REQ 4).setFld F.CFG_MODE.ROLE_WAIT 1)))
    ∧ ((m = .maintenance ∨ (m = .configure ∧ booted)) → s.flag F.CFG_MODE.ROLE_WAIT = true → exec .requestRun s = refused .run)
    ∧ (s.flag F.CFG_MODE.ROLE_WAIT = true → s.flag F.PLK_PARTNER_STAT.SEEN = true → s.flt.peerMode = 4 ∨ s.flt.peerMode = 5 → pools →
        m = .configure ∨ m = .maintenance → enters (exec .runDecision s) .standby)
    ∧ (s.flag F.CFG_MODE.ROLE_WAIT = false → exec .runDecision s = .next s)
    ∧ (∀ twins ways channels hub, (m ≠ .selfTest → exec (.selfTestEnd twins ways channels hub) s = .next s)
        ∧ (m = .selfTest → s.pwr.pllLocked = true → enters (exec (.selfTestEnd twins ways channels hub) s) .configure)
        ∧ (m = .selfTest → s.pwr.pllLocked = true → ∃ t : State, exec (.selfTestEnd 0 [] 0 true) s = .next t
            ∧ t.flag F.CFG_ST_RESULT.FATAL = true ∧ t.flag F.CFG_ST_RESULT.RAN = true))

/-- Compare failures count against their twin, a substitution moves the hewer to the spare, and FLT_RETIRE retires and returns
units. A compare failure settled by replay, in a hewer that compares on a twin in service and short of its threshold, counts a
transient event, adds it to the twin's window and logs TWIN_EVENT; a customer instruction in hand starts again; in a hewer
that does not compare it changes nothing. TWIN_SUBSTITUTION of a hewer that owes one, at a boundary with no store waiting,
makes the gallery's spare its twin, its returned loads in its registers; owing neither it nor removal changes nothing. A first
hub mismatch is transient and logged; a lasting one enters SAFE HOLD with cause 3 from any mode but OFF. RETIRE of a link in
service makes it lasting with BUSY 1; RETIRE_COMPLETE ends it with RESULT 0; RETURN_TO_SERVICE of a retired link starts, and
its completion puts it into service; of a twin it ends with RESULT 2; a unit that does not exist ends with RESULT 1; while
BUSY, or where FLT_RETIRE takes no write, a command changes nothing. Rests on: 19_fault_tolerance.md R687,
19_fault_tolerance.md R688, 19_fault_tolerance.md R692, 19_fault_tolerance.md R693, 19_fault_tolerance.md R701,
19_fault_tolerance.md R702, 08_pipeline.md R350, 01_organisation.md R16. -/
def Obligations.TwinsWaysAndRetirement : Prop :=
  (∀ (h : HewerId) (s : State),
    let bare := fun (x : Hewer) => { x with resv := none }
    (s.compares h = false → ∀ k f, exec (.twinCompareFailure h k f) s = .next s)
    ∧ (s.compares h = true → s.twinServes (s.twinOf h) = true →
        let l := s.windowAdd 0 (s.flt.twinEvents.get [] (s.twinOf h))
        s.isLasting 0 l = false → ∃ t, exec (.twinCompareFailure h 0 0) s = .next t
          ∧ t.flt.twinEvents = s.flt.twinEvents.set [] (s.twinOf h) l ∧ t.flt.retiredTwins = s.flt.retiredTwins
          ∧ t.twinOf h = s.twinOf h ∧ t.drt = s.drt
          ∧ (s.Canonical → ∀ i, bare (t.hew i) = if i = h.val then { bare (s.hew i) with micro := none } else bare (s.hew i)))
    ∧ ((s.hew h).substitute = none → (s.hew h).removeDue = false → exec (.twinSubstitution h) s = .next s)
    ∧ (s.settled h = false → (s.hew h).twinLost = false → exec (.twinSubstitution h) s = .next s)
    ∧ (∀ x, (s.hew h).substitute = some x → (s.hew h).removeDue = false → s.pwr.pllLocked = true → s.settled h = true →
        (s.hew h).twinLost = false →
        ∃ t, exec (.twinSubstitution h) s = .next t ∧ t.twinOf h = h / 8 * 9 + s.fld (F.FLT_GAL_MAP.SPARE (h / 8))
          ∧ t.mem.lost = s.mem.lost ∧ t.drt = s.drt
          ∧ (s.Canonical → (s.twin (s.twinOf h)).sbuf = [] → ∀ i, bare (t.hew i) = bare (if i = h.val then (s.hew i).carried else s.hew i))))
  ∧ (∀ (s : State),
    (∃ t, exec (.hubMismatch false) s = .next t ∧ t.mode = s.mode ∧ (s.logSize = 0 → t.hewers = s.hewers) ∧ t.drt = s.drt)
    ∧ (s.mode ≠ .off → s.mode ≠ .safeHold → ∃ t : State, exec (.hubMismatch true) s = .next t ∧ t.mode = .safeHold
        ∧ t.fld F.FLT_STATUS.SAFE_CAUSE = 3)
    ∧ (s.takesIo Adr.FLT_RETIRE = false ∨ s.flag F.FLT_RETIRE.BUSY = true → ∀ c u, exec (.retire c u) s = .next s ∧ exec (.returnToService c u) s = .next s)
    ∧ (s.flag F.FLT_RETIRE.BUSY = false → exec .retireComplete s = .next s)
    ∧ (s.takesIo Adr.FLT_RETIRE = true → s.flag F.FLT_RETIRE.BUSY = false →
        (∀ p : Fin 1024, p.val < 8 →
          (s.linkRetired p = false → ∃ t, exec (.retire 3 p) s = .next t ∧ t.linkRetired p = true ∧ t.flag F.FLT_RETIRE.BUSY = true
              ∧ (s.logSize = 0 → t.hewers = s.hewers))
          ∧ (s.linkRetired p = true → ∃ t u, exec (.returnToService 3 p) s = .next t ∧ t.flag F.FLT_RETIRE.BUSY = true
              ∧ t.linkRetired p = true ∧ exec .retireComplete t = .next u ∧ u.linkRetired p = false
              ∧ u.flag F.FLT_RETIRE.BUSY = false ∧ u.fld F.FLT_RETIRE.RESULT = 0))
        ∧ (∀ p : Fin 1024, 8 ≤ p.val → ∃ t, exec (.retire 3 p) s = .next t ∧ t.fld F.FLT_RETIRE.RESULT = 1
            ∧ t.flag F.FLT_RETIRE.BUSY = false ∧ t.flt = s.flt)
        ∧ (∀ u : Fin 1024, u.val < 576 → ∃ t, exec (.returnToService 0 u) s = .next t ∧ t.fld F.FLT_RETIRE.RESULT = 2
            ∧ t.flag F.FLT_RETIRE.BUSY = false ∧ t.flt = s.flt)))

/-- PARTNER frames, their loss, takeover and dual running move a pair between STANDBY and RUN; waiting records reach the ring.
A PARTNER frame of the partner on a port of the pair is counted, sets SEEN and PEER_MODE and is heard now; one of another
device or on another port changes nothing. After LOSS periods without one, LOST is set, SEEN cleared and the loss logged, and
in RUN or DEGRADED PARTNER_LOST is set. TAKEOVER in STANDBY with EN 1 and LOST set, READY or TAKE_UNREADY, counts and enters
RUN, or DEGRADED with a cause set; not ready it changes nothing. DUAL_RUN when due in RUN or DEGRADED sets its flag, and a
device with an odd number enters STANDBY; when not due the mode stays. LOG_RECORD_WRITE with room writes the oldest waiting
record to the ring and moves HEAD on by 1; with nothing waiting or no room it changes nothing. Rests on: 15_plant_links.md
R601, 15_plant_links.md R602, 19_fault_tolerance.md R706, 19_fault_tolerance.md R707, 19_fault_tolerance.md R709,
19_fault_tolerance.md R710, 19_fault_tolerance.md R711, 19_fault_tolerance.md R716, 20_startup_modes_power.md R743. -/
def Obligations.PartnerAndTakeover : Prop :=
  ∀ (s : State),
    (∀ (port : Fin 8) (dev : BitVec 12) (b : Word) (mode tim : Fin 8) (ready : Bool), s.receives port = true →
      let c := Instr.partnerFrameReceived port dev b mode tim ready
      ((s.fld F.PLK_PARTNER.PORTS).testBit port = false ∨ dev.toNat ≠ s.devnum ^^^ 1 → exec c s = .next s)
      ∧ ((s.fld F.PLK_PARTNER.PORTS).testBit port = true → dev.toNat = s.devnum ^^^ 1 → (mode ≠ 3 ∨ ready = false) →
          ∃ t, exec c s = .next t ∧ t.flag F.PLK_PARTNER_STAT.SEEN = true ∧ t.fld F.PLK_PARTNER_STAT.PEER_MODE = mode
            ∧ t.flt.peerMode = mode ∧ t.flt.peerReady = ready ∧ t.plk.heardUs = s.time.us ∧ t.mode = s.mode
            ∧ t.lode = s.lode ∧ t.mem = s.mem ∧ t.hewers = s.hewers))
    ∧ ((s.flag F.PLK_PARTNER_STAT.LOST = false ∨ s.flag F.PLK_PARTNER_STAT.SEEN = true) → s.fld F.PLK_PARTNER.PORTS ≠ 0 → s.plk.heardUs + s.lossUs ≤ s.time.us →
        ∃ t : State, exec .plkPartnerLost s = .next t ∧ t.flag F.PLK_PARTNER_STAT.LOST = true ∧ t.flag F.PLK_PARTNER_STAT.SEEN = false
          ∧ (s.mode = .run ∨ s.mode = .degraded → t.flag F.FLT_STATUS.PARTNER_LOST = true))
    ∧ (s.time.us < s.plk.heardUs + s.lossUs → exec .plkPartnerLost s = .next s)
    ∧ (s.mode = .standby → s.flag F.FLT_PARTNER.EN = true → s.flag F.PLK_PARTNER_STAT.LOST = true →
        (s.ready = false → s.flag F.FLT_PARTNER.TAKE_UNREADY = false → exec .takeover s = .next s)
        ∧ ((s.ready = true ∨ s.flag F.FLT_PARTNER.TAKE_UNREADY = true) → s.poolLeft = true → ∃ t : State, exec .takeover s = .next t
            ∧ t.mode = (if s.flag F.FLT_STATUS.PARTNER_LOST ∨ s.flag F.FLT_STATUS.SHAFT_OFF ∨ s.flag F.FLT_STATUS.GALLERY_LOST
                ∨ s.flag F.FLT_STATUS.HEWER_REMOVED then Mode.degraded else Mode.run)
            ∧ t.fld F.FLT_PARTNER_STAT.TAKEOVERS
              = min (s.fld F.FLT_PARTNER_STAT.TAKEOVERS + 1)
                (2 ^ (F.FLT_PARTNER_STAT.TAKEOVERS.hi + 1 - F.FLT_PARTNER_STAT.TAKEOVERS.lo) - 1)))
    ∧ (s.flt.dualDue = true → s.mode = .run ∨ s.mode = .degraded → s.poolLeft = true →
        ∃ t : State, exec .dualRun s = .next t ∧ t.flag F.FLT_PARTNER_STAT.DUAL_RUN = true
          ∧ t.mode = (if s.devnum % 2 = 1 then Mode.standby else s.mode))
    ∧ (s.flt.dualDue = false → exec .dualRun s = .next s)
    ∧ (s.logRoom = false ∨ s.flt.buffer = [] → exec .logRecordWrite s = .next s)
    ∧ (∀ r rest, s.logRoom = true → s.flt.buffer = r :: rest → s.flt.droppedNow = 0 →
        ∃ t, exec .logRecordWrite s = .next t ∧ t.flt.buffer = rest
          ∧ t.fld F.FLT_LOG_PTR.HEAD = (s.fld F.FLT_LOG_PTR.HEAD + 1) % 0x10000
          ∧ (let at_ := s.fld F.FLT_LOG_BASE.BASE * 4096 + s.fld F.FLT_LOG_PTR.HEAD % s.logSize * 32
             t.readDw at_ = r.time % 2 ^ 64 ∧ t.readDw (at_ + 16) = r.dw2 % 2 ^ 64 ∧ t.readDw (at_ + 24) = r.dw3 % 2 ^ 64
             ∧ ∀ a, (a < at_ ∨ at_ + 32 ≤ a) → t.mem.byte a = s.mem.byte a))

/-- The fold of physical addresses onto channel, bank, row and column gives no two lines the same place, whatever GRAIN and
HASH. For every state, so for every GRAIN and HASH: the channel and the channel offset of a physical address give the address
back, and two addresses with the same channel, bank, row and column lie in the same 64-byte line. Rests on:
13_memory_controller.md R506, 13_memory_controller.md R507, 13_memory_controller.md R504. -/
def Obligations.AddressMapInjective : Prop :=
  ∀ (s : State) (a b : Nat),
    s.physOf (s.channelOf a) (s.chanOffset a) = a
    ∧ (s.dramLoc a = s.dramLoc b → a / 64 = b / 64)
    ∧ (s.dramLoc a).channel < 32 ∧ (s.dramLoc a).bank < 16 ∧ (s.dramLoc a).column < 32

/-- Reads deliver, correct or poison a line's units, preloads place their lines, and the patrol counts what it finds. A read
or write of a line whose channel is not usable, that lies in the locked draught region or whose channel owes an RFM changes
nothing, nor does a read during a burst of writes, nor a write outside one while fewer than 24 wait and a read waits. A
request whose ACT a throttle holds back only counts as a delayed ACT. A queued request is served, and leaves its queue, only
when it is the controller's choice. A clean read of unmarked units, and a write, record the row access and the check line and,
where they replace no check line and no ACT reaches the firedamp monitor, change no byte, mark or register. An uncorrectable
unit outside the fault ring takes the poison mark; one that carries the mark and was reported before only counts and shows in
MEM_UE_LOG; with the fault ring off every byte stays. A corrected unit counts and keeps bytes and marks. A preload command
with a legal way and range starts where its register takes a write, any other sets ERR; PRELOAD_DONE ends it, a single line
standing in the chosen way of every selected gallery that is on. The patrol in a domain that is on counts a correctable error
as corrected; an uncorrectable one in a dirty unit of the memory-side cache takes the mark; it also cleans the check line that
serves the unit. Rests on: 13_memory_controller.md R512, 13_memory_controller.md R513, 13_memory_controller.md R514,
13_memory_controller.md R517, 13_memory_controller.md R538, 13_memory_controller.md R539, 12_caches_ordering_code.md R490,
12_caches_ordering_code.md R491, 12_caches_ordering_code.md R493, 12_caches_ordering_code.md R494, 13_memory_controller.md
R515, 04_draught_tasks.md R134. -/
def Obligations.DramReadsAndScrubs : Prop :=
  (∀ (a : BitVec 48) (src : BitVec 12) (s : State),
    let l := s.dramLoc a.toNat
    let c := s.channelOf a.toNat
    let x := s.dchan c
    let u := a.toNat / 64 * 2
    let waits := fun (l : List DramReq) => l.any (fun q => q.line = a.toNat / 64)
    let reads := s.mayServe a.toNat = true ∧ x.burst = 0
    let writes := s.mayServe a.toNat = true ∧ (x.burst ≠ 0 ∨ 24 ≤ x.wq.length ∨ x.rq = [])
    let rd := s.canServe c (s.reqOf a.toNat src.toNat false)
    let wr := s.canServe c (s.reqOf a.toNat srcDevice true)
    let calm := fun (q : DramReq) => let k := s.checkLine (q.line * 64)
      ((s.checkSet (c ^^^ 1) k).filter (fun e => e.1 != checkTag (c ^^^ 1) k)).length ≤ 15
      ∧ (s.flag F.MEM_FDP_CTL.FDP_EN = false ∨ ((s.bank c q.bank).openRow = some q.row ∧ s.checkHeld (c ^^^ 1) k = true))
    let bankAfter := fun (t : State) => (t.bank l.channel l.bank).lastRow = some l.row
      ∧ (s.force l.channel l.bank = 1 → (t.bank l.channel l.bank).openRow = some l.row)
      ∧ (s.force l.channel l.bank = 2 → (t.bank l.channel l.bank).openRow = none)
    let same := fun (t : State) => t.mem = s.mem ∧ t.regs = s.regs ∧ t.hewers = s.hewers ∧ t.flt = s.flt
    (s.lineReady a.toNat = false → s.mayServe a.toNat = false)
    ∧ (s.regionLine (a.toNat / 64) = true → s.mayServe a.toNat = false)
    ∧ (¬ reads → ∀ x y k, exec (.dramRead a src x y k) s = .next s)
    ∧ (¬ writes → exec (.dramWrite a) s = .next s)
    ∧ (reads → rd = false → ∀ x y k, exec (.dramRead a src x y k) s = .next (s.count F.MEM_FDP_COUNTS.THROTTLED_ACTS 1))
    ∧ (writes → wr = false → exec (.dramWrite a) s = .next (s.count F.MEM_FDP_COUNTS.THROTTLED_ACTS 1))
    ∧ (reads → rd = true → waits x.rq = true → ∀ q, s.reqChoice c false = some q → q.line ≠ a.toNat / 64 →
        ∀ x y k, exec (.dramRead a src x y k) s = .next s)
    ∧ (writes → wr = true → waits x.wq = false → calm (s.reqOf a.toNat srcDevice true) →
        ∃ t, exec (.dramWrite a) s = .next t ∧ bankAfter t ∧ same t)
    ∧ (writes → wr = true → waits x.wq = true → ∀ q, s.reqChoice c true = some q → q.line = a.toNat / 64 → calm q →
        ∃ t, exec (.dramWrite a) s = .next t ∧ (t.dchan c).wq = x.wq.erase q ∧ (t.bank c q.bank).lastRow = some q.row ∧ same t)
    ∧ (reads → rd = true → waits x.rq = true → s.mem.poison.contains u = false → s.mem.poison.contains (u + 1) = false →
        ∀ q, s.reqChoice c false = some q → q.line = a.toNat / 64 → calm q → ∃ t, exec (.dramRead a src .clean .clean false) s = .next t
          ∧ (t.dchan c).rq = x.rq.erase q ∧ (t.bank c q.bank).lastRow = some q.row ∧ same t)
    ∧ (reads → rd = true → waits x.rq = false →
      (s.mem.poison.contains u = false → s.mem.poison.contains (u + 1) = false →
        (calm (s.reqOf a.toNat src.toNat false) → ∃ t, exec (.dramRead a src .clean .clean false) s = .next t ∧ bankAfter t ∧ same t)
        ∧ (∀ p, s.mem.ueSeen.contains u = false → (∀ i, i < s.logSize → s.fld F.FLT_LOG_BASE.BASE * 128 + i ≠ u) → ∃ t, exec (.dramRead a src (.uncorrectable p) .clean false) s = .next t
            ∧ t.mem.poison.contains u = true ∧ t.mem.poison.contains (u + 1) = false ∧ t.mem.ueSeen.contains u = true
            ∧ (s.logSize = 0 → ∀ b, t.mem.byte b = s.mem.byte b))
        ∧ (∀ p, ∃ t, exec (.dramRead a src (.corrected p) .clean false) s = .next t
            ∧ (s.logSize = 0 → (∀ b, t.mem.byte b = s.mem.byte b) ∧ t.mem.poison = s.mem.poison)))
      ∧ (s.mem.poison.contains u = true → s.mem.ueSeen.contains u = true → s.mem.poison.contains (u + 1) = false →
          calm (s.reqOf a.toNat src.toNat false) →
          ∃ t, exec (.dramRead a src .clean .clean false) s = .next t ∧ t.mem = s.mem
            ∧ t.fld (F.MEM_CH_ERR_COUNTS.UNCORRECTED l.channel)
              = min (s.fld (F.MEM_CH_ERR_COUNTS.UNCORRECTED l.channel) + 1)
                (2 ^ ((F.MEM_CH_ERR_COUNTS.UNCORRECTED l.channel).hi + 1 - (F.MEM_CH_ERR_COUNTS.UNCORRECTED l.channel).lo) - 1)
            ∧ t.flt = s.flt)))
  ∧ (∀ (v : Word32) (s : State), bitOf v.toNat 0 = true →
    let lines := bitsOf v.toNat 31 16
    let way := bitsOf v.toNat 11 8
    let ok := s.flag F.MEM_L2_PLD_STAT.BUSY = false ∧ 4 ≤ way ∧ 1 ≤ lines ∧ lines ≤ 2048
      ∧ s.fld F.MEM_L2_PLD_ADDR.ADDR * 64 + lines * 64 ≤ s.dramSize
    (s.takesIo Adr.MEM_L2_PLD_CTL = false → exec (.memL2PldCtlWrite v) s = .next s)
    ∧ (s.takesIo Adr.MEM_L2_PLD_CTL = true → ¬ ok → exec (.memL2PldCtlWrite v) s = .next (s.setFld F.MEM_L2_PLD_STAT.ERR 1))
    ∧ (s.takesIo Adr.MEM_L2_PLD_CTL = true → ok → ∃ t, exec (.memL2PldCtlWrite v) s = .next t ∧ t.flag F.MEM_L2_PLD_STAT.BUSY = true ∧ t.mem = s.mem
        ∧ t.fld F.MEM_L2_PLD_CTL.LINES = lines ∧ t.fld F.MEM_L2_PLD_CTL.WAY = way))
  ∧ (∀ (s : State),
    (s.pwr.pllLocked = false ∨ s.flag F.MEM_L2_PLD_STAT.BUSY = false → exec .preloadDone s = .next s)
    ∧ (s.pwr.pllLocked = true → s.flag F.MEM_L2_PLD_STAT.BUSY = true → ∃ t, exec .preloadDone s = .next t
        ∧ t.flag F.MEM_L2_PLD_STAT.BUSY = false ∧ t.mem = s.mem ∧ t.hewers = s.hewers
        ∧ ∀ g, g < 64 → (s.fld F.MEM_L2_PLD_GAL.GAL).testBit g = true → s.domainOn (shaftDomain (g * 8)) = true → s.galleryLost g = false →
          s.wayOn g (s.fld F.MEM_L2_PLD_CTL.WAY) = true → s.fld F.MEM_L2_PLD_CTL.LINES = 1 →
          (t.l2Find g (s.fld F.MEM_L2_PLD_ADDR.ADDR)).map L2Line.way = some (s.fld F.MEM_L2_PLD_CTL.WAY)))
  ∧ ∀ (a : BitVec 48) (dirty : Bool) (s : State),
    (s.domainOn 11 = false ∨ s.pwr.pllLocked = false ∨ s.dramSize ≤ a.toNat → ∀ un, exec (.cachePatrolScrub none a un dirty) s = .next s)
    ∧ (s.domainOn 11 = true → s.pwr.pllLocked = true → a.toNat < s.dramSize →
        exec (.cachePatrolScrub none a false dirty) s = .next ((s.cleanCheck a.toNat).count F.MEM_CODE_COUNTS.CORRECTED 1)
        ∧ ∃ t, exec (.cachePatrolScrub none a true true) s = .next t ∧ t.mem.poison.contains (a.toNat / 32) = true
          ∧ (s.logSize = 0 → t.hewers = s.hewers ∧ ∀ b, t.mem.byte b = s.mem.byte b))

/-- ACTs open rows and count in the firedamp table, throttles hold them back, and refresh, RFM, calibration and retraining act
on banks. An ACT on a usable channel, of a row outside the locked draught region (one inside it waits), by a source without a
throttle opens its row; with the monitor on and the row tracked below the threshold its COUNT rises by 1, and an untracked row
takes a free entry with COUNT 1. A throttled source within its interval only counts a throttled ACT. RFM closes the bank's row
and counts. At the window's end every table and throttle of the domain is cleared. A due refresh is postponed with debt + 1
while a read waits (in the read queue, or a demand read the queue does not list, log 39) and debt is below its bound, else the
rows close; a channel where nothing waits repays 1. A due refresh first brings the polled multiplier into use. MR4_POLL, 4 ms
after the last one, keeps the multiplier for the next interval, 4 and logged when too hot. ROW_IDLE_CLOSE closes the row of a
bank under FORCE 0 for which no request waits and none came for PP_IDLE MCLK cycles. ZQ_CALIBRATION and, with TRN_EN and the
interval over, WCK2DQI_RETRAIN keep their time, the latter with its delays and never in the microsecond of another channel of
its group. On an unusable channel none of these changes anything. Rests on: 13_memory_controller.md R505,
13_memory_controller.md R519, 13_memory_controller.md R521, 13_memory_controller.md R522, 13_memory_controller.md R523,
13_memory_controller.md R524, 13_memory_controller.md R525, 13_memory_controller.md R527, 13_memory_controller.md R528,
13_memory_controller.md R529, 13_memory_controller.md R534. -/
def Obligations.BanksRefreshAndFiredamp : Prop :=
  ∀ (c : Fin 32) (b : Fin 16) (s : State),
    let x := s.bank c b
    (s.channelOn c = false → (∀ r q, exec (.dramActivate c b r q) s = .next s) ∧ exec (.rfm c b) s = .next s
      ∧ (∀ d r, exec (.refresh c d r) s = .next s) ∧ (∀ r m k, exec (.mr4Poll c r m k) s = .next s)
      ∧ exec (.rowIdleClose c b) s = .next s ∧ exec (.zqCalibration c) s = .next s ∧ ∀ r w, exec (.wck2dqiRetrain c r w) s = .next s)
    ∧ (s.channelOn c = true → s.pwr.pllLocked = true →
      (∀ (row : BitVec 18) (src : BitVec 12), s.regionRow c b row.toNat = true → exec (.dramActivate c b row src) s = .next s)
      ∧ (∀ (row : BitVec 18) (src : BitVec 12), row.toNat < s.rowLimit → s.regionRow c b row.toNat = false →
        (x.throttleOf src.toNat = none → s.flag F.MEM_FDP_CTL.FDP_EN = false → ∃ t, exec (.dramActivate c b row src) s = .next t
          ∧ (t.bank c b).openRow = some row.toNat ∧ (t.bank c b).table = x.table ∧ t.mem = s.mem ∧ t.regs = s.regs)
        ∧ (x.throttleOf src.toNat = none → s.flag F.MEM_FDP_CTL.FDP_EN = true →
          (∀ i e, x.table.findIdx? (fun e => e.row = row.toNat) = some i → x.table[i]? = some e →
              e.count + 1 < s.fld F.MEM_FDP_CTL.FDP_THRESH →
            ∃ t, exec (.dramActivate c b row src) s = .next t ∧ (t.bank c b).openRow = some row.toNat
              ∧ ((t.bank c b).table[i]?).map (fun y => (y.row, y.count)) = some (row.toNat, e.count + 1)
              ∧ (t.bank c b).throttled = x.throttled ∧ t.regs = s.regs)
          ∧ (x.table.findIdx? (fun e => e.row = row.toNat) = none → x.table.length < 64 → 1 < s.fld F.MEM_FDP_CTL.FDP_THRESH →
            ∃ t, exec (.dramActivate c b row src) s = .next t ∧ t.regs = s.regs
              ∧ (t.bank c b).table = x.table ++ [⟨row.toNat, 1, src.toNat, 1⟩]))
        ∧ (∀ u, x.throttleOf src.toNat = some u → s.time.us < u + s.fdpInterval →
            exec (.dramActivate c b row src) s = .next (s.count F.MEM_FDP_COUNTS.THROTTLED_ACTS 1)))
      ∧ (∃ t, exec (.rfm c b) s = .next t ∧ (t.bank c b).openRow = none ∧ (t.bank c b).rfmDue = false ∧ t.mem = s.mem
          ∧ t.fld (F.MEM_CH_ERR_COUNTS.RFM c) = min (s.fld (F.MEM_CH_ERR_COUNTS.RFM c) + 1)
            (2 ^ ((F.MEM_CH_ERR_COUNTS.RFM c).hi + 1 - (F.MEM_CH_ERR_COUNTS.RFM c).lo) - 1))
      ∧ (let debt := s.fld (F.MEM_CH_STATUS.DEBT c)
         let idle := (s.dchan c).rq = [] ∧ (s.dchan c).wq = []
         ∀ reads : Bool,
          ((reads = true ∨ (s.dchan c).rq ≠ []) → debt < s.postponeMax →
            exec (.refresh c true reads) s = .next ((s.newRate c).setFld (F.MEM_CH_STATUS.DEBT c) (debt + 1)))
          ∧ (((reads = false ∧ (s.dchan c).rq = []) ∨ s.postponeMax ≤ debt) → ∃ t, exec (.refresh c true reads) s = .next t
              ∧ (t.bank c b).openRow = none ∧ t.regs = (s.newRate c).regs ∧ t.mem = s.mem)
          ∧ (∀ r, (s.dchan c).nextRate = some r → r < 5 → (s.newRate c).fld (F.MEM_CH_STATUS.RATE c) = r ∧ ((s.newRate c).dchan c).nextRate = none)
          ∧ ((s.dchan c).nextRate = none → s.newRate c = s)
          ∧ (idle → reads = false → debt ≠ 0 → ∃ t, exec (.refresh c false reads) s = .next t
              ∧ t.fld (F.MEM_CH_STATUS.DEBT c) = debt - 1 ∧ (t.bank c b).openRow = none)
          ∧ (debt = 0 ∨ reads = true ∨ ¬ idle → exec (.refresh c false reads) s = .next s))
      ∧ (s.time.us < (s.dchan c).mr4Us + 4000 → ∀ r m k, exec (.mr4Poll c r m k) s = .next s)
      ∧ ((s.dchan c).mr4Us + 4000 ≤ s.time.us → ∀ (rate : Fin 5) (m : Byte),
          (∃ t, exec (.mr4Poll c rate m false) s = .next t ∧ (t.dchan c).nextRate = some rate.val ∧ (t.dchan c).mr4Us = s.time.us ∧ t.regs = s.regs)
          ∧ ∃ t, exec (.mr4Poll c rate m true) s = .next t ∧ (t.dchan c).nextRate = some 4 ∧ (t.dchan c).hot = true)
      ∧ (let waits := ((s.dchan c).rq ++ (s.dchan c).wq).any (fun q => q.bank = b.val)
        let idle := s.fld F.MEM_CTL.PP_IDLE ≤ s.mclkSince x.lastCyc
        (s.force c b ≠ 0 ∨ waits = true ∨ ¬ idle → exec (.rowIdleClose c b) s = .next s)
        ∧ (s.force c b = 0 → waits = false → idle → ∃ t, exec (.rowIdleClose c b) s = .next t ∧ (t.bank c b).openRow = none ∧ (t.bank c b).history = x.history
          ∧ t.regs = s.regs))
      ∧ ((s.dchan c).zqUs + 32000 ≤ s.time.us → ∃ t, exec (.zqCalibration c) s = .next t ∧ (t.dchan c).zqUs = s.time.us
          ∧ (t.dchan c).banks = (s.dchan c).banks ∧ t.regs = s.regs)
      ∧ (∀ rd wr, s.flag F.MEM_TRN_CTL.TRN_EN = true → 1 ≤ s.fld F.MEM_TRN_CTL.INTERVAL_MS →
          (s.dchan c).retrainUs + s.fld F.MEM_TRN_CTL.INTERVAL_MS * 1000 ≤ s.time.us →
          (∀ i, i < 4 → (s.dchan (c.val / 4 * 4 + i)).retrainUs ≠ s.time.us) → ∃ t, exec (.wck2dqiRetrain c rd wr) s = .next t ∧ (t.dchan c).retrainUs = s.time.us ∧ (t.bank c b).openRow = none
            ∧ t.fld (F.MEM_CH_TRAIN.RD_DELAY c) = rd.toNat ∧ t.fld (F.MEM_CH_TRAIN.WR_DELAY c) = wr.toNat)
      ∧ (∀ i, i < 4 → (s.dchan (c.val / 4 * 4 + i)).retrainUs = s.time.us → ∀ rd wr, exec (.wck2dqiRetrain c rd wr) s = .next s)
      ∧ (c.val < 16 → s.channelOn 0 = true → s.mc.windowUs3 + 32000 ≤ s.time.us → ∃ t, exec (.firedampWindowEnd false) s = .next t
          ∧ (t.bank c b).table = [] ∧ (t.bank c b).throttled = [] ∧ (t.bank c b).bankThrottle = none)
      ∧ (16 ≤ c.val → s.channelOn 16 = true → s.mc.windowUs4 + 32000 ≤ s.time.us → ∃ t, exec (.firedampWindowEnd true) s = .next t
          ∧ (t.bank c b).table = [] ∧ (t.bank c b).throttled = [] ∧ (t.bank c b).bankThrottle = none))

/-- A port comes up after 10 ms of lock and goes down for its causes; gate lists and egress entries take effect when
committed. PCS_LOCK_ACQUIRED with the PCS on starts the lock now and PCS_LOCK_LOST ends it. PLK_LINK_UP after 10 ms of lock on
an enabled, unretired port sets LINK; earlier it changes nothing. PLK_LINK_DOWN of a port that is up, for 1 ms without lock,
its power domain, its retirement or its missing module, clears LINK and sets LINK_DOWN; without a cause it changes nothing. EN
written 0 takes an up port down; RATE, FEC, AN and JUMBO move in CONFIGURE only. A gate-list commit with a pending list, a
zero cycle, or length 0 or above 256 sets GCL_ERR (that a length above 256 is refused is the model's reading, log 23); a good
one waits, with its start at least 1 us away, at BASE plus whole cycles; GCL_IN_FORCE at its start puts it in force, before
that nothing changes. A write of PLK_EGR_DATA3 commits the fields of the entry named, its reserved bits reading 0;
MGMT_TX_TAIL_WRITE stores the tail. Where a register takes no write (its domain or the clocks off) nothing changes. Rests on:
15_plant_links.md R590, 15_plant_links.md R596, 15_plant_links.md R597, 15_plant_links.md R599, 15_plant_links.md R604,
15_plant_links.md R606. -/
def Obligations.PlantLinkSupervision : Prop :=
  ∀ (p : Fin 8) (s : State),
    let x := s.port p
    let up := s.flag (F.PLK_PORT_STATUS.LINK p) = true
    (x.lock = true → ∃ t, exec (.pcsLockLost p) s = .next t ∧ (t.port p).lock = false ∧ (t.port p).lockUs = s.time.us
        ∧ t.regs = s.regs ∧ ∀ q, q ≠ p.val → t.port q = s.port q)
    ∧ (x.lock = false → exec (.pcsLockLost p) s = .next s)
    ∧ (x.lock = false → s.pcsOn p = true → ∃ t, exec (.pcsLockAcquired p) s = .next t ∧ (t.port p).lock = true
        ∧ (t.port p).lockUs = s.time.us ∧ t.regs = s.regs)
    ∧ (s.pcsOn p = false → exec (.pcsLockAcquired p) s = .next s)
    ∧ (x.lock = true → x.lockUs + 10000 ≤ s.time.us → s.pcsOn p = true → s.linkRetired p = false → ¬ up →
        ∃ t, exec (.plkLinkUp p) s = .next t ∧ t.flag (F.PLK_PORT_STATUS.LINK p) = true ∧ (s.logSize = 0 → t.hewers = s.hewers))
    ∧ ((x.lock = false ∨ s.time.us < x.lockUs + 10000) → exec (.plkLinkUp p) s = .next s)
    ∧ (∀ absent, up → (s.domainOn (portDomain p) = false ∨ s.linkRetired p = true ∨ absent = true
          ∨ (x.lock = false ∧ x.lockUs + 1000 ≤ s.time.us)) → (∀ q, q < 4 → s.queue p q = []) →
        ∃ t, exec (.plkLinkDown p absent) s = .next t ∧ t.flag (F.PLK_PORT_STATUS.LINK p) = false
          ∧ t.flag (F.PLK_PORT_STATUS.LINK_DOWN p) = true ∧ (s.logSize = 0 → t.hewers = s.hewers))
    ∧ (s.domainOn (portDomain p) = true → s.linkRetired p = false → (x.lock = true ∨ s.time.us < x.lockUs + 1000) →
        exec (.plkLinkDown p false) s = .next s)
    ∧ (∀ v : Word32, (s.takesIo (Adr.PLK_PORT_CTL p) = false → exec (.portCtlWrite p v) s = .next s)
        ∧ (s.takesIo (Adr.PLK_PORT_GCL_CTL p) = false → exec (.gclCommit p v) s = .next s))
    ∧ (∀ v : Word32, bitOf v.toNat 31 = true → s.takesIo (Adr.PLK_PORT_CTL p) = true →
        ∃ t, exec (.portCtlWrite p v) s = .next t ∧ t.flag (F.PLK_PORT_CTL.EN p) = true
          ∧ (s.mode ≠ .configure → t.fld (F.PLK_PORT_CTL.RATE p) = s.fld (F.PLK_PORT_CTL.RATE p)
              ∧ t.flag (F.PLK_PORT_CTL.JUMBO p) = s.flag (F.PLK_PORT_CTL.JUMBO p))
          ∧ t.fld (F.PLK_PORT_CTL.ALT_PORT p) = bitsOf v.toNat (F.PLK_PORT_CTL.ALT_PORT p).hi (F.PLK_PORT_CTL.ALT_PORT p).lo
          ∧ (∀ a, a ≠ Adr.PLK_PORT_CTL p → t.reg a = s.reg a))
    ∧ (∀ v : Word32, s.takesIo (Adr.PLK_PORT_CTL p) = true → bitOf v.toNat 31 = false → up → (∀ q, q < 4 → s.queue p q = []) →
        ∃ t, exec (.portCtlWrite p v) s = .next t ∧ t.flag (F.PLK_PORT_CTL.EN p) = false
          ∧ t.flag (F.PLK_PORT_STATUS.LINK p) = false ∧ (t.port p).lock = false)
    ∧ (∀ v : Word32, s.takesIo (Adr.PLK_PORT_GCL_CTL p) = true → bitOf v.toNat 31 = true →
        let len := bitsOf v.toNat 8 0
        let cycle := s.fld (F.PLK_PORT_GCL_CYCLE.CYCLE_NS p) * 16
        let base := (s.reg (Adr.PLK_PORT_GCL_BASE p)).toNat
        (∀ g start, x.pend = some (g, start) → s.time.now < start → ∃ t, exec (.gclCommit p v) s = .next t
            ∧ t.flag (F.PLK_PORT_STATUS.GCL_ERR p) = true ∧ t.plk = s.plk)
        ∧ (x.pend = none → len = 0 ∨ 256 < len ∨ cycle = 0 → ∃ t, exec (.gclCommit p v) s = .next t
            ∧ t.flag (F.PLK_PORT_STATUS.GCL_ERR p) = true ∧ t.plk = s.plk)
        ∧ (x.pend = none → 1 ≤ len → len ≤ 256 → cycle ≠ 0 → (∀ e, e < len → s.fld (F.PLK_PORT_GCL.INTERVAL_NS p e) ≠ 0) →
            ∃ t g start, exec (.gclCommit p v) s = .next t ∧ (t.port p).pend = some (g, start) ∧ (t.port p).gates = x.gates
              ∧ g.base = base ∧ g.cycle = cycle ∧ g.entries.length = len
              ∧ s.time.now + 16000 ≤ start ∧ (start = base ∨ start < s.time.now + 16000 + cycle)
              ∧ ∃ k, start = base + k * cycle))
    ∧ (∀ g start, x.pend = some (g, start) →
        (start ≤ s.time.now → ∃ t, exec (.gclInForce p) s = .next t ∧ (t.port p).gates = some g ∧ (t.port p).pend = none
          ∧ t.flag (F.PLK_PORT_STATUS.GCL_PEND p) = false)
        ∧ (s.time.now < start → exec (.gclInForce p) s = .next s))
    ∧ (∀ (v : Word) (tail : BitVec 16),
        (s.takesIo (Adr.PLK_EGR_DATA 3) = false → exec (.egressEntryCommit v) s = .next s)
        ∧ (s.takesIo Adr.PLK_MGMT_TX_PTR = false → exec (.mgmtTxTailWrite tail) s = .next s)
        ∧ (s.takesIo Adr.PLK_MGMT_TX_PTR = true → exec (.mgmtTxTailWrite tail) s = .next (s.setFld F.PLK_MGMT_TX_PTR.TAIL tail.toNat))
        ∧ (s.takesIo (Adr.PLK_EGR_DATA 3) = true → ∃ t, exec (.egressEntryCommit v) s = .next t ∧ t.regs = s.regs
          ∧ (let e := s.fld F.PLK_EGR_INDEX.ENTRY
             (∀ k hi lo, (k, hi, lo) ∈ [(0, 63, 53), (0, 47, 0), (1, 59, 21), (1, 15, 0), (2, 63, 63), (2, 17, 0)] →
                bitsOf (t.egrDw e k) hi lo = bitsOf (s.reg (Adr.PLK_EGR_DATA k)).toNat hi lo)
             ∧ (∀ k hi lo, (k, hi, lo) ∈ [(0, 52, 48), (1, 63, 60), (1, 20, 16), (2, 62, 18), (3, 63, 0)] → bitsOf (t.egrDw e k) hi lo = 0)
             ∧ ∀ f k, f ≠ e → k < 4 → t.egrDw f k = s.egrDw f k)))

/-- Received frames are checked and their records reach the lode; launches, PARTNER and management frames queue and leave by
priority. A frame on a port that does not receive changes nothing, and any other takes one stamp of its port; one too short or
too long is counted in RX_DROP; a SIGNAL frame with one record and a good FCS sends its write to the slot of the lowest window
that matches, or counts DROPPED. An idle port first sends an 802.1AS message that waits; with none and no gate list, it starts
the first frame of its highest queue that holds one, which leaves the port with its own address where the entry asks for it.
EGRESS_READ before the lead changes nothing; at the lead in RUN it reads the entry's slots. PARTNER_FRAME_SEND before its
period changes nothing; when due it queues one frame on a PARTNER port that is up. MGMT_TX_SEND takes the next ring entry: a
legal length queues its bytes in queue 0 of its port, another counts EGR_DROP; an empty ring changes nothing. Rests on:
15_plant_links.md R581, 15_plant_links.md R585, 15_plant_links.md R586, 15_plant_links.md R587, 15_plant_links.md R588,
15_plant_links.md R591, 15_plant_links.md R593, 15_plant_links.md R594, 15_plant_links.md R595, 15_plant_links.md R601,
15_plant_links.md R604, 03_lode.md R110. -/
def Obligations.FramesInAndOut : Prop :=
  (∀ (p : Fin 8) (bytes : List Byte) (ok : Bool) (s : State),
    let type := natBE (sliceBytes bytes 12 2)
    let hd := bytes.drop 14
    let r := (hd.drop 32).take 32
    let dev := natBE (sliceBytes hd 2 2) % 0x1000
    let idx := natBE (sliceBytes r 24 2)
    let ts := (s.stamp (0x500 + p)).1
    let u := (s.stamp (0x500 + p)).2
    (s.receives p = false → exec (.frameReceived p bytes ok) s = .next s)
    ∧ (s.receives p = true → type ≠ 0x88F7 → type ≠ 0x8100 → s.ingressUsed p + s.maxFrame p ≤ 131072 →
        natBE (bytes.take 6) = s.fld (F.PLK_PORT_MAC.ADDR p) → bitOf (natBE (bytes.take 6)) 40 = false →
      (bytes.length + 4 < 64 ∨ s.maxFrame p < bytes.length + 4 →
          exec (.frameReceived p bytes ok) s = .next (u.count (F.PLK_PORT_COUNTS.RX_DROP p) 1))
      ∧ (64 ≤ bytes.length + 4 → bytes.length + 4 ≤ s.maxFrame p → type ≠ 0x8808 → type = s.fld F.PLK_CTL.ETHERTYPE →
          (ok = false → exec (.frameReceived p bytes ok) s = .next (u.count (F.PLK_PORT_COUNTS.RX_DROP p) 1))
          ∧ (ok = true → natBE (sliceBytes hd 0 1) = 1 → natBE (sliceBytes hd 1 1) = 1 → natBE (sliceBytes hd 4 2) = 1 →
              64 ≤ hd.length →
            ((∀ w, w < 64 → s.winMatchesLink w p dev idx = false) →
                exec (.frameReceived p bytes ok) s = .next (u.count F.LOD_COUNTS.DROPPED 1))
            ∧ ∀ w, w < 64 → s.winMatchesLink w p dev idx = true → (∀ k, k < w → s.winMatchesLink k p dev idx = false) →
                exec (.frameReceived p bytes ok) s = .next ((u.setReg (Adr.PLK_WIN_LAST w) (BitVec.ofNat 64 ts)).lodeSend
                  (.write (recordWrite r (s.winSlot w idx) (some (p.val, bytes.length + 4)))))))))
  ∧ (∀ (p : Fin 8) (s : State),
    (s.portUp p = false ∨ s.pwr.pllLocked = false ∨ s.mode = .off ∨ s.time.cyc < (s.port p).busy →
        exec (.frameTransmit p) s = .next s)
    ∧ (∀ m l, s.portUp p = true → s.pwr.pllLocked = true → s.mode ≠ .off → (s.port p).busy ≤ s.time.cyc → (s.port p).lock = true →
        (s.port p).gptp = m :: l → ∃ t, exec (.frameTransmit p) s = .next t ∧ (t.port p).gptp = l ∧ t.regs = s.regs
          ∧ t.out = .gptp p m.1 (s.stamp (0x500 + p)).1 (s.fld F.TIM_CTL.DOMAIN) m.2 :: s.out)
    ∧ ∀ q f rest, q < 4 → s.portUp p = true → s.pwr.pllLocked = true → s.mode ≠ .off → (s.port p).busy ≤ s.time.cyc →
        (s.port p).lock = true → (s.port p).gptp = [] → (s.port p).gates = none → (s.port p).pend = none → s.queue p q = f :: rest →
        (∀ k, q < k → k < 4 → s.queue p k = []) → (f.entry = none ∨ s.time.now ≤ f.inst + 32000) →
        ∃ t, exec (.frameTransmit p) s = .next t ∧ t.queue p q = rest ∧ s.time.cyc ≤ (t.port p).busy ∧ t.regs = s.regs
          ∧ t.out = .frame p (s.stamp (0x500 + p)).1 (if f.ownSa then pokeBytes f.bytes 6 (bytesBE 6 (s.fld (F.PLK_PORT_MAC.ADDR p)))
              else f.bytes) :: s.out)
  ∧ (∀ (n : Fin 64) (s : State),
    (s.launchOf n = none → exec (.egressRead n) s = .next s)
    ∧ ∀ p e inst, s.launchOf n = some (p, e, inst) →
      (s.time.now + s.fld F.LOD_EGRESS_LEAD.LEAD < inst → exec (.egressRead n) s = .next s)
      ∧ (inst ≤ s.time.now + s.fld F.LOD_EGRESS_LEAD.LEAD → s.pwr.pllLocked = true → s.readFor n p e inst = none →
          s.mode = .run → s.egrBad p (s.egrDws e) false = 0 →
          ∃ t r, exec (.egressRead n) s = .next t ∧ t.readFor n p e inst = some r ∧ t.regs = s.regs ∧ t.lode = s.lode
            ∧ r.recs = s.egrRun (egrSlot (s.egrDws e)) (bitsOf (s.egrDw e 1) 15 0) (inst - s.fld F.LOD_EGRESS_LEAD.LEAD)
                (egrCount (s.egrDws e)) none))
  ∧ ∀ (s : State),
    (s.time.us < s.plk.sentUs + s.fld F.PLK_PARTNER.PERIOD_US → exec .partnerFrameSend s = .next s)
    ∧ (∀ p : Fin 8, s.plk.sentUs + s.fld F.PLK_PARTNER.PERIOD_US ≤ s.time.us → s.mode ≠ .off → s.pwr.pllLocked = true →
        s.fld F.PLK_PARTNER.PORTS = 2 ^ p.val → s.portUp p = true →
        ∃ t f, exec .partnerFrameSend s = .next t ∧ t.queue p 2 = s.queue p 2 ++ [f] ∧ t.plk.sentUs = s.time.us ∧ f.entry = none
          ∧ t.regs = s.regs)
    ∧ (let n := ringEntries (s.fld F.PLK_MGMT_TX.SIZE)
       let head := s.fld F.PLK_MGMT_TX_PTR.HEAD
       let at_ := s.fld F.PLK_MGMT_TX.BASE * 4096 + head % n * 2048
       let dw := s.readDw at_
       let p := bitsOf dw 63 61
       let len := bitsOf dw 15 0
       (head = s.fld F.PLK_MGMT_TX_PTR.TAIL → exec .mgmtTxSend s = .next s)
       ∧ (n ≠ 0 → head ≠ s.fld F.PLK_MGMT_TX_PTR.TAIL → s.pwr.pllLocked = true → s.mode ≠ .off → s.dramReach at_ 2048 = true →
          ((len < 60 ∨ 2032 < len) → exec .mgmtTxSend s
            = .next (((s.hubAccess at_ (16 + len) (0x500 + p) false).setFld F.PLK_MGMT_TX_PTR.HEAD (head + 1)).count (F.PLK_PORT_COUNTS.EGR_DROP p) 1))
          ∧ (60 ≤ len → len ≤ 2032 → s.portUp p = true → ∃ t, exec .mgmtTxSend s = .next t
              ∧ t.fld F.PLK_MGMT_TX_PTR.HEAD = (head + 1) % 0x10000
              ∧ t.queue p 0 = s.queue p 0 ++ [⟨s.readBytes (at_ + 16) len, false, none, 0, none⟩] ∧ t.mem = s.mem)))

/-- A commit hands the shadow set over, units copy their bytes when read and paid for, and a transfer ends, halts or is
disabled. Where a channel's register takes no write, the command that writes it changes nothing. A commit on a busy channel
only sets VALID; a withdrawal clears it. A hand-over with VALID 1 clears it, copies the shadow set, counts, and is ACTIVE, or
HALTED with the code and address of the first failed check. When the reads of the last unit of a DRAM copy return, the credit
covers it and no other channel's write is ready, exactly its bytes are written and the unit leaves; with too little credit it
waits, and UNIT_WRITE_ISSUE changes nothing. A unit whose 10 us have passed is retried and counted. TRANSFER_COMPLETE with
every unit written ends the transfer, with a record of status 0 and the TAG where CPL_EN asks for it; with units left it
changes nothing. DIS written on a channel with rows left and no unit in flight halts it with code 9. Clearing HALT of a halted
channel without a commit makes it IDLE. OWNER of channels 0 to 15 stays 0; an uncreated owner sets CFG_REJ. Rests on:
14_skip_engines.md R541, 14_skip_engines.md R544, 14_skip_engines.md R547, 14_skip_engines.md R548, 14_skip_engines.md R553,
14_skip_engines.md R556, 14_skip_engines.md R558, 14_skip_engines.md R559, 14_skip_engines.md R561, 14_skip_engines.md R564,
14_skip_engines.md R567, 14_skip_engines.md R571. -/
def Obligations.SkipTransfers : Prop :=
  ∀ (n : Fin 64) (s : State),
    let x := s.chan n
    let st := s.fld (F.SKP_CH_STAT.STATE n)
    let alone := ∀ m, m < 32 → m ≠ n.val → s.skWriteReady m = false
    (s.takesIo (Adr.SKP_CH_SHADOW_VALID n) = false → ∀ c ∈ [Instr.shadowWithdraw n, .shadowCommit n], exec c s = .next s)
    ∧ (s.takesIo (Adr.SKP_CH_CTL n) = false → ∀ owner, ∀ c ∈ [Instr.skpDisWrite n, .skpOwnerWrite n owner], exec c s = .next s)
    ∧ (s.takesIo (Adr.SKP_CH_STAT n) = false → exec (.skpHaltClear n) s = .next s)
    ∧ (s.takesIo (Adr.SKP_CH_SHADOW_VALID n) = true →
        exec (.shadowWithdraw n) s = .next (s.setFld (F.SKP_CH_SHADOW_VALID.VALID n) 0))
    ∧ (s.takesIo (Adr.SKP_CH_SHADOW_VALID n) = true → s.fld (F.SKP_CH_CTL.OWNER n) = 0 → st ≠ 0 → exec (.shadowCommit n) s = .next (s.setFld (F.SKP_CH_SHADOW_VALID.VALID n) 1))
    ∧ (s.skMaySample n = true →
      (s.flag (F.SKP_CH_SHADOW_VALID.VALID n) = false → ∃ t, exec (.handOver n) s = .next t ∧ t.fld (F.SKP_CH_STAT.STATE n) = 0)
      ∧ (s.flag (F.SKP_CH_SHADOW_VALID.VALID n) = true →
        ∃ t, exec (.handOver n) s = .next t ∧ t.flag (F.SKP_CH_SHADOW_VALID.VALID n) = false
          ∧ t.reg (Adr.SKP_CH_A_SRC n) = s.reg (Adr.SKP_CH_S_SRC n) ∧ t.reg (Adr.SKP_CH_A_DST n) = s.reg (Adr.SKP_CH_S_DST n)
          ∧ t.reg (Adr.SKP_CH_A_SIZE n) = s.reg (Adr.SKP_CH_S_SIZE n) ∧ t.reg (Adr.SKP_CH_S_SRC n) = s.reg (Adr.SKP_CH_S_SRC n)
          ∧ t.fld (F.SKP_CH_HANDOVER_COUNT.COUNT n) = (s.fld (F.SKP_CH_HANDOVER_COUNT.COUNT n) + 1) % 2 ^ 32
          ∧ (let c := (s.skCopy n).skCheck n
             (c.1 = 0 → t.fld (F.SKP_CH_STAT.STATE n) = 1)
             ∧ (c.1 ≠ 0 → t.fld (F.SKP_CH_STAT.STATE n) = 2 ∧ t.flag (F.SKP_CH_STAT.HALT n) = true
                ∧ t.fld (F.SKP_CH_STAT.ERR n) = c.1))))
    ∧ (s.skMaySample n = false → x.ended = false → exec (.handOver n) s = .next s)
    ∧ (st = 1 → x.ended = false → s.skRuns = true →
      (∀ u l, x.units = [u] → s.skRows n ≤ x.nextRow → s.skHostSrc n = false → u.fail = none → u.waitUs = none →
          s.areaOf (s.skUnitSrc n u) = 1 → s.areaOf (s.skUnitDst n u) = 1 → u.len ≤ 256 → 1 ≤ u.len →
          s.dramReach (s.skUnitSrc n u / 64 * 64) ((s.skUnitSrc n u + u.len + 63) / 64 * 64 - s.skUnitSrc n u / 64 * 64) = true →
          s.dramReach (s.skUnitDst n u) u.len = true → s.poisoned (s.skUnitSrc n u) u.len = false →
        (u.data = none → alone → u.len * 4 ≤ s.skCredit n → ∃ t, exec (.unitReadReturn n 0) s = .next t
          ∧ (∀ i, i < u.len → t.mem.byte (s.skUnitDst n u + i) = s.mem.byte (s.skUnitSrc n u + i))
          ∧ (∀ a, (a < s.skUnitDst n u ∨ s.skUnitDst n u + u.len ≤ a) → t.mem.byte a = s.mem.byte a)
          ∧ (t.chan n).units = [] ∧ (t.chan n).bytes = x.bytes + u.len ∧ t.skCredit n = s.skCredit n - u.len * 4)
        ∧ (u.data = none → s.skCredit n < u.len * 4 → ∃ t, exec (.unitReadReturn n 0) s = .next t ∧ t.mem = s.mem
          ∧ (t.chan n).units = [{ u with data := some (s.dramFlagged (s.skUnitSrc n u) u.len) }])
        ∧ (u.data = some l → s.skCredit n < u.len * 4 → exec (.unitWriteIssue n) s = .next s))
      ∧ (∀ u l, x.units = [u] → s.skRows n ≤ x.nextRow → u.fail = none → u.data = some l → l.length = u.len → anyPoison l = false →
          s.areaOf (s.skUnitDst n u) = 1 → 1 ≤ u.len → u.len ≤ 256 → s.dramReach (s.skUnitDst n u) u.len = true →
          u.len * 4 ≤ s.skCredit n → alone → ∃ t, exec (.unitWriteIssue n) s = .next t
          ∧ (∀ i (hi : i < l.length), t.mem.byte (s.skUnitDst n u + i) = l[i].1) ∧ (t.chan n).units = []
          ∧ (∀ a, (a < s.skUnitDst n u ∨ s.skUnitDst n u + u.len ≤ a) → t.mem.byte a = s.mem.byte a))
      ∧ (∀ u w, x.units = [u] → s.skRows n ≤ x.nextRow → s.skHostSrc n = false → u.fail = none → u.data = none → u.waitUs = some w →
          w + 10 ≤ s.time.us → ∃ t, exec (.unitRetry n) s = .next t ∧ t.mem = s.mem
          ∧ (t.chan n).units = [{ u with retries := u.retries + 1, waitUs := none }]
          ∧ ∀ a, a ≠ Adr.SKP_COUNTS → t.reg a = s.reg a)
      ∧ (x.units = [] → exec (.unitRetry n) s = .next s)
      ∧ ((x.units ≠ [] ∨ x.nextRow < s.skRows n) → exec (.transferComplete n) s = .next s)
      ∧ (x.units = [] → s.skRows n ≤ x.nextRow → s.flag (F.SKP_CH_A_OPT.MSIX_EN n) = false →
        (s.flag (F.SKP_CH_A_OPT.CPL_EN n) = false → ∃ t, exec (.transferComplete n) s = .next t ∧ (t.chan n).ended = true
          ∧ t.mem = s.mem ∧ t.regs = s.regs)
        ∧ (s.flag (F.SKP_CH_A_OPT.CPL_EN n) = true → s.areaOf (s.skCpl n) = 1 → s.dramReach (s.skCpl n) 32 = true →
          ∃ t, exec (.transferComplete n) s = .next t ∧ (t.chan n).ended = true
            ∧ bitsOf (t.readDw (s.skCpl n + 8)) 39 32 = 0
            ∧ bitsOf (t.readDw (s.skCpl n + 8)) 31 16 = s.fld (F.SKP_CH_A_OPT.TAG n)
            ∧ t.readDw (s.skCpl n + 24) = x.bytes % 2 ^ 64
            ∧ (∀ a, (a < s.skCpl n ∨ s.skCpl n + 32 ≤ a) → t.mem.byte a = s.mem.byte a)))
      ∧ (x.units = [] → x.nextRow < s.skRows n → s.flag (F.SKP_CH_A_OPT.CPL_EN n) = false → s.flag (F.SKP_CH_A_OPT.MSIX_EN n) = false →
          ∃ t, exec (.skpDisWrite n) s = .next t ∧ t.flag (F.SKP_CH_CTL.DIS n) = true ∧ t.fld (F.SKP_CH_STAT.STATE n) = 2
            ∧ t.fld (F.SKP_CH_STAT.ERR n) = 9 ∧ t.mem = s.mem))
    ∧ (st ≠ 1 → s.takesIo (Adr.SKP_CH_CTL n) = true → exec (.skpDisWrite n) s = .next (s.setFld (F.SKP_CH_CTL.DIS n) 1))
    ∧ (st ≠ 2 → exec (.skpHaltClear n) s = .next s)
    ∧ (st = 2 → s.takesIo (Adr.SKP_CH_STAT n) = true → s.flag (F.SKP_CH_SHADOW_VALID.VALID n) = false → ∃ t, exec (.skpHaltClear n) s = .next t
        ∧ t.fld (F.SKP_CH_STAT.STATE n) = 0 ∧ t.flag (F.SKP_CH_STAT.HALT n) = false ∧ t.mem = s.mem)
    ∧ ∀ owner : Fin 64, s.takesIo (Adr.SKP_CH_CTL n) = true →
      (n.val < 16 → s.fld (F.SKP_CH_CTL.OWNER n) = 0 → st = 2 → ∃ t, exec (.skpOwnerWrite n owner) s = .next t
        ∧ t.fld (F.SKP_CH_CTL.OWNER n) = 0 ∧ t.fld (F.SKP_CH_CTL.RATE n) = s.fld (F.SKP_CH_CTL.RATE n))
      ∧ (16 ≤ n.val → owner ≠ 0 → owner.val ≠ s.fld (F.SKP_CH_CTL.OWNER n) →
          (s.flag (F.ADT_STATUS.CREATED owner) = false ∨ st ≠ 0 ∨ s.flag (F.SKP_CH_SHADOW_VALID.VALID n) = true) →
          exec (.skpOwnerWrite n owner) s = .next (s.setFld (F.SKP_CH_STAT.CFG_REJ n) 1))
      ∧ (16 ≤ n.val → st = 0 → s.flag (F.SKP_CH_SHADOW_VALID.VALID n) = false → ∃ t, exec (.skpOwnerWrite n 0) s = .next t
          ∧ t.fld (F.SKP_CH_CTL.OWNER n) = 0 ∧ t.fld (F.SKP_CH_CTL.RATE n) = s.fld (F.SKP_CH_CTL.RATE n) ∧ t.mem = s.mem)

/-- Creation takes shares or leaves its refusal code, mailboxes ring and are acknowledged, queries fill rings, records take
credits. A command whose register takes no write (its domain or the clocks off) changes nothing. With no command in progress,
CREATE leaves 2 for a created adit, 3 for contexts outside the pool, 4 for result memory outside it or no pool, 5 and 6 for
credits and bandwidth and 7 for ranges, else BUSY; DESTROY leaves 2 or 8, else clears CREATED. ADIT_CMD_COMPLETE of a CREATE
zeroes the result memory, advances the generation, clears mailboxes and contexts and sets CREATED. A pool is enabled only
where it fits, in CONFIGURE. A mailbox under READY keeps its words and BUSY is set; a ring sets READY and PEND, an
acknowledgement clears them. A context enables when it fits; the end clears its ring pointers; GO triggers a TRIG 2 context
once; QUERY_RUN writes the record and TAIL rises by 1, or drops a trigger at a full ring; HEAD moves within the ring. A record
of an adit with no credit, or quiesced, is refused and counted; one outside the writable ranges is counted; one inside goes to
the lode holding a credit. Rests on: 17_adits.md R644, 17_adits.md R646, 17_adits.md R647, 17_adits.md R648, 17_adits.md R649,
17_adits.md R652, 17_adits.md R656, 17_adits.md R657, 17_adits.md R658, 17_adits.md R660, 17_adits.md R661, 17_adits.md R665.
-/
def Obligations.AditsAndTheirPages : Prop :=
  (∀ (k : Fin 64) (q : Fin 256) (i : Fin 8) (up : Bool) (v : Word) (head : BitVec 16) (s : State),
    (s.takesIo Adr.ADT_CMD = false → exec (.create k) s = .next s ∧ exec (.destroy k) s = .next s)
    ∧ (s.takesIo Adr.ADT_POOL = false → exec (.adtPoolWrite v) s = .next s)
    ∧ ((k = 0 ∨ s.takesIo (Adr.ADT_MBX_CTL k) = false) →
        ∀ c ∈ [Instr.mailboxWrite k up i v, .ringMgr k, .ackMgr k, .ringVf k, .ackVf k], exec c s = .next s)
    ∧ (s.takesIo (Adr.ADT_Q_CFG k q) = false → exec (.queryEnable k q v) s = .next s)
    ∧ (s.takesIo (Adr.ADT_Q_CTL k q) = false → exec (.queryGo k q) s = .next s)
    ∧ (s.takesIo (Adr.ADT_Q_PTR k q) = false → exec (.queryHeadWrite k q head) s = .next s))
  ∧ ∀ (k : Fin 64) (s : State), k ≠ 0 →
    let mbx := s.takesIo (Adr.ADT_MBX_CTL k) = true
    (let qb := s.fld (F.ADT_ASGN_RES.QBASE k)
     let qc := s.fld (F.ADT_ASGN_RES.QCOUNT k)
     let ro := s.fld (F.ADT_ASGN_RES.RMEM_OFF k)
     let rs := s.fld (F.ADT_ASGN_RES.RMEM_SIZE k)
     let old := s.created k = true
     let okQ := qc ≤ 256 ∧ qb + qc ≤ 1024 ∧ ∀ j, j < 64 → j ≠ k.val → s.created j = true →
       overlaps qb qc (s.fld (F.ADT_ASGN_RES.QBASE j)) (s.fld (F.ADT_ASGN_RES.QCOUNT j)) = false
     let okM := s.flag F.ADT_POOL.EN = true ∧ 1 ≤ rs ∧ rs ≤ 256 ∧ ro + rs ≤ 1024 ∧ ∀ j, j < 64 → j ≠ k.val → s.created j = true →
       overlaps ro rs (s.fld (F.ADT_ASGN_RES.RMEM_OFF j)) (s.fld (F.ADT_ASGN_RES.RMEM_SIZE j)) = false
     let okC := s.shareSum k F.ADT_ASGN_RES.CREDITS + s.fld (F.ADT_ASGN_RES.CREDITS k) ≤ 4096
     let okB := s.fld (F.ADT_ASGN_RES.BW k) ≠ 0 ∧ s.shareSum k F.ADT_ASGN_RES.BW + s.fld (F.ADT_ASGN_RES.BW k) ≤ 256
     let okR := ∀ r, r < 16 → s.fld (F.ADT_ASGN_RANGE.COUNT k r) = 0
       ∨ s.fld (F.ADT_ASGN_RANGE.FIRST k r) + s.fld (F.ADT_ASGN_RANGE.COUNT k r) ≤ slotCount
     let res := fun (c : Nat) => ∃ t : State, exec (.create k) s = .next t ∧ t.fld F.ADT_CMD.RESULT = c
       ∧ (t.flag F.ADT_CMD.BUSY = true ↔ c = 0) ∧ t.fld F.ADT_CMD.ADIT = k.val ∧ t.mem = s.mem
       ∧ ∀ a, a ≠ Adr.ADT_CMD → t.reg a = s.reg a
     s.takesIo Adr.ADT_CMD = true →
     (s.flag F.ADT_CMD.BUSY = true → exec (.create k) s = .next s ∧ exec (.destroy k) s = .next s)
     ∧ (s.flag F.ADT_CMD.BUSY = false → (old → res 2) ∧ (¬ old → ¬ okQ → res 3) ∧ (¬ old → okQ → ¬ okM → res 4)
        ∧ (¬ old → okQ → okM → ¬ okC → res 5) ∧ (¬ old → okQ → okM → okC → ¬ okB → res 6)
        ∧ (¬ old → okQ → okM → okC → okB → ¬ okR → res 7) ∧ (¬ old → okQ → okM → okC → okB → okR → res 0)
        ∧ (¬ old → ∃ t, exec (.destroy k) s = .next t ∧ t.fld F.ADT_CMD.RESULT = 2 ∧ t.mem = s.mem)
        ∧ (old → (s.fnExists k = true ∨ s.aditBusy k = true ∨ ∃ n, n < 64 ∧ s.skOwner n = k.val) →
            ∃ t, exec (.destroy k) s = .next t ∧ t.fld F.ADT_CMD.RESULT = 8 ∧ t.created k = true)
        ∧ (old → s.fnExists k = false → s.aditBusy k = false → (∀ n, n < 64 → s.skOwner n ≠ k.val) →
            ∃ t, exec (.destroy k) s = .next t ∧ t.fld F.ADT_CMD.RESULT = 0 ∧ t.flag F.ADT_CMD.BUSY = true
              ∧ t.created k = false ∧ t.mem = s.mem)))
    ∧ (s.flag F.ADT_CMD.BUSY = false → exec .aditCmdComplete s = .next s)
    ∧ (s.flag F.ADT_CMD.BUSY = true → s.fld F.ADT_CMD.OP = 1 → s.fld F.ADT_CMD.ADIT = k.val →
        (∀ n, n < 64 → s.skOwner n ≠ k.val) → ∃ t, exec .aditCmdComplete s = .next t ∧ t.flag F.ADT_CMD.BUSY = false
          ∧ t.created k = true ∧ (∀ i, i < s.rmemSize k → t.mem.byte (s.rmemBase k + i) = 0)
          ∧ (∀ a, (a < s.rmemBase k ∨ s.rmemBase k + s.rmemSize k ≤ a) → t.mem.byte a = s.mem.byte a)
          ∧ (∀ i, i < 8 → t.reg (Adr.ADT_MBX_TOVF k i) = 0 ∧ t.reg (Adr.ADT_MBX_TOMGR k i) = 0)
          ∧ t.reg (Adr.ADT_MBX_CTL k) = 0 ∧ (∀ q, q < 256 → t.flag (F.ADT_Q_CFG.EN k q) = false)
          ∧ (s.genHeld k = false → s.adt.waiting.get 0 k = 0 → t.aditGen k = (s.aditGen k + 1) % 256))
    ∧ (∀ v : Word, s.takesIo Adr.ADT_POOL = true → bitOf v.toNat 62 = false →
        (s.mode ≠ .configure → exec (.adtPoolWrite v) s = .next s)
        ∧ (s.mode = .configure → bitOf v.toNat 63 = true → ∃ t, exec (.adtPoolWrite v) s = .next t
            ∧ t.fld F.ADT_POOL.BASE = bitsOf v.toNat 47 26
            ∧ (s.poolFits (bitsOf v.toNat 47 26 * 0x4000000) = true → t.flag F.ADT_POOL.EN = true)
            ∧ (s.poolFits (bitsOf v.toNat 47 26 * 0x4000000) = false → t.flag F.ADT_POOL.EN = false ∧ t.flag F.ADT_POOL.ERR = true)))
    ∧ (∀ (i : Fin 8) (v : Word), mbx →
        (s.flag (F.ADT_MBX_CTL.VF_READY k) = false → exec (.mailboxWrite k true i v) s = .next (s.setReg (Adr.ADT_MBX_TOVF k i) v))
        ∧ (s.flag (F.ADT_MBX_CTL.MGR_READY k) = false → exec (.mailboxWrite k false i v) s = .next (s.setReg (Adr.ADT_MBX_TOMGR k i) v))
        ∧ (s.flag (F.ADT_MBX_CTL.VF_READY k) = true → exec (.mailboxWrite k true i v) s = .next (s.raise (F.ADT_MBX_CTL.BUSY k))))
    ∧ (mbx → s.flag (F.ADT_MBX_CTL.MGR_READY k) = false → ∃ t, exec (.ringMgr k) s = .next t ∧ t.flag (F.ADT_MBX_CTL.MGR_READY k) = true
        ∧ (t.reg Adr.ADT_MBX_PEND).toNat.testBit k = true ∧ (∀ i, i < 8 → t.reg (Adr.ADT_MBX_TOMGR k i) = s.reg (Adr.ADT_MBX_TOMGR k i))
        ∧ (s.flag F.ADT_MGR_CTL.MSIX_EN = false → t.out = s.out))
    ∧ (mbx → s.flag (F.ADT_MBX_CTL.MGR_READY k) = true → exec (.ringMgr k) s = .next (s.raise (F.ADT_MBX_CTL.BUSY k)))
    ∧ (mbx → ∃ t, exec (.ackMgr k) s = .next t ∧ t.flag (F.ADT_MBX_CTL.MGR_READY k) = false
        ∧ (t.reg Adr.ADT_MBX_PEND).toNat.testBit k = false ∧ (∀ j, j ≠ k.val →
            (t.reg Adr.ADT_MBX_PEND).toNat.testBit j = (s.reg Adr.ADT_MBX_PEND).toNat.testBit j))
    ∧ (mbx → s.flag (F.ADT_MBX_CTL.VF_READY k) = false → ∃ t, exec (.ringVf k) s = .next t
        ∧ t.flag (F.ADT_MBX_CTL.VF_READY k) = true ∧ t.mem = s.mem)
    ∧ (mbx → exec (.ackVf k) s = .next (s.setFld (F.ADT_MBX_CTL.VF_READY k) 0))
    ∧ (∀ (q : Fin 256) (v : Word), s.takesIo (Adr.ADT_Q_CFG k q) = true → s.queryThere k q = true → (s.query k q).on = false → (s.query k q).enabling = false →
        bitOf v.toNat 63 = true →
        let c := s.setReg (Adr.ADT_Q_CFG k q) (BitVec.ofNat 64 (bitsOf (setBits (setBits v.toNat 60 60 0) 28 18 0) 62 0))
        (c.queryBad k q = true → ∃ t, exec (.queryEnable k q v) s = .next t ∧ t.flag (F.ADT_Q_CTL.REJ k q) = true
            ∧ (t.query k q).enabling = false)
        ∧ (c.queryBad k q = false → ∃ t, exec (.queryEnable k q v) s = .next t ∧ (t.query k q).enabling = true
            ∧ t.reg (Adr.ADT_Q_CFG k q) = c.reg (Adr.ADT_Q_CFG k q) ∧ t.mem = s.mem))
    ∧ (∀ q : Fin 256, (s.query k q).enabling = true → ∃ t, exec (.queryEnableDone k q) s = .next t
        ∧ t.reg (Adr.ADT_Q_PTR k q) = 0 ∧ t.flag (F.ADT_Q_CFG.EN k q) = true ∧ (t.query k q).on = true ∧ (t.query k q).trig = none)
    ∧ (∀ q : Fin 256, s.takesIo (Adr.ADT_Q_CTL k q) = true → (s.query k q).on = true → s.fld (F.ADT_Q_CFG.TRIG k q) = 2 → ∃ t, exec (.queryGo k q) s = .next t
        ∧ (t.query k q).trig = some ((s.query k q).trig.getD s.time.cyc) ∧ t.regs = s.regs)
    ∧ (∀ q : Fin 256, (s.query k q).on = false → exec (.queryGo k q) s = .next s)
    ∧ (s.queriesRun = false → exec (.queryRun false) s = .next s)
    ∧ (∀ (q : Fin 256) (c : Nat), s.queriesRun = true → firstTrigger s.adt.queries = some (queryKey k q, c) →
        (s.ringFull k q = true → ∃ t, exec (.queryRun false) s = .next t ∧ t.flag (F.ADT_Q_CTL.OVERRUN k q) = true
            ∧ (t.query k q).lost = true ∧ (t.query k q).trig = none ∧ t.mem = s.mem)
        ∧ (s.ringFull k q = false → s.fld (F.ADT_Q_CFG.VEC k q) = 0 → ∃ t, exec (.queryRun false) s = .next t
            ∧ t.fld (F.ADT_Q_PTR.TAIL k q) = (s.fld (F.ADT_Q_PTR.TAIL k q) + 1) % 0x10000
            ∧ t.fld (F.ADT_Q_PTR.HEAD k q) = s.fld (F.ADT_Q_PTR.HEAD k q) ∧ (t.query k q).trig = none
            ∧ (let at_ := s.ringBase k q + s.fld (F.ADT_Q_PTR.TAIL k q) % (max 1 (s.fld (F.ADT_Q_RING.ENTRIES k q))) * s.queryStride k q
               bitsOf (t.readDw (at_ + 0x10)) 63 48 = (s.fld (F.ADT_Q_PTR.TAIL k q) + 1) % 0x10000
               ∧ t.readDw at_ = s.fld F.LOD_OPEN_B.BOUNDARY
               ∧ ∀ a, a < at_ → t.mem.byte a = s.mem.byte a)))
    ∧ (∀ (q : Fin 256) (head : BitVec 16), s.takesIo (Adr.ADT_Q_PTR k q) = true → s.queryThere k q = true →
        let used := (s.fld (F.ADT_Q_PTR.TAIL k q) + 0x10000 - head.toNat) % 0x10000
        (used ≤ s.fld (F.ADT_Q_RING.ENTRIES k q) → exec (.queryHeadWrite k q head) s = .next (s.setFld (F.ADT_Q_PTR.HEAD k q) head.toNat))
        ∧ (s.fld (F.ADT_Q_RING.ENTRIES k q) < used → exec (.queryHeadWrite k q head) s = .next (s.raise (F.ADT_Q_CTL.REJ k q))))
    ∧ ∀ (off : BitVec 15) (r : List Byte), s.fnOpen k = true → s.frozen k = false →
        (s.created k = false → exec (.aditRecordWrite k off r false) s = .next (s.count F.HEP_COUNTS.BAR_ERR 1))
        ∧ (s.created k = true → off.toNat % 32 = 0 → r.length = 32 →
          ((s.creditAvail k = 0 ∨ s.quiesced k = true ∨ s.mode.takesRecords = false) →
            exec (.aditRecordWrite k off r false) s
              = .next ((s.count (F.ADT_COUNTS.CMD_REJ k) 1).raise (F.ADT_STATUS.REJ k)))
          ∧ (s.creditAvail k ≠ 0 → s.quiesced k = false → s.mode.takesRecords = true →
            let idx := natLE (sliceBytes r 24 2)
            ∀ w, w < 64 → s.winMatchesHost w k idx = true → (∀ j, j < w → s.winMatchesHost j k idx = false) →
              (s.inRange k (s.winSlot w idx) true = false →
                exec (.aditRecordWrite k off r false) s = .next (s.count (F.ADT_COUNTS.RANGE_REJ k) 1))
              ∧ (s.inRange k (s.winSlot w idx) true = true → exec (.aditRecordWrite k off r false) s
                = .next ((s.stamp (0x700 + k)).2.lodeSend (.write ⟨.host, s.winSlot w idx, BitVec.ofNat 64 (natLE (sliceBytes r 0 8)),
                    natLE (sliceBytes r 19 1) / 16, natLE (sliceBytes r 20 2), some (s.stamp (0x700 + k)).1, s.source (0x700 + k.val), false, none, some k.val⟩)))))

/-- Host requests reach DRAM and registers, the device's requests end, and freezes, resets and power states act on functions.
BAR2 of the physical function reads and writes exactly the bytes at BASE plus offset; disabled, a read is UR and a write
discarded and counted. A misaligned record-port write is counted; a record no window matches is dropped. BAR0 offset 0 reads
and writes HEP_CTL. A frozen function completes reads with CA and discards and counts writes. A completion hands its bytes to
the hewer's load; a timeout poisons it, and freezes every function when the request is critical; a skip read that waited for
the request then issues, and without one nothing else changes. While D5 is on, a freeze sets the functions' bits and logs
cause and time where no log is valid; a release clears the bits of functions with a clear log while the link is up, others set
REL_REJ. A function-level reset of a busy adit leaves it, else the function resets until FLR_COMPLETE. PERST_N and a lost link
reset the functions and end the link; frozen bits stay. Power states and configuration writes set their fields. Rests on:
16_host_endpoint.md R609, 16_host_endpoint.md R613, 16_host_endpoint.md R614, 16_host_endpoint.md R616, 16_host_endpoint.md
R623, 16_host_endpoint.md R627, 16_host_endpoint.md R630, 16_host_endpoint.md R634, 16_host_endpoint.md R635,
16_host_endpoint.md R639, 16_host_endpoint.md R640, 16_host_endpoint.md R641. -/
def Obligations.HostRequestsAndReset : Prop :=
  (∀ (off : BitVec 28) (len : Fin 4097) (data : List Byte) (s : State),
    let x := s.fn 0
    let base := s.fld F.HEP_BAR2.BASE * 0x100000
    let a := base + off.toNat
    s.hostReaches = true → x.power = 0 → x.resetting = false →
      (s.frozen 0 = true → exec (.bar2Read 0 off len) s = .next (s.emit .cplCa)
        ∧ exec (.bar2Write 0 off data false) s = .next (s.count F.HEP_COUNTS.FROZEN_WR 1))
      ∧ (s.frozen 0 = false → off.toNat < 0xFF00000 →
        (s.flag F.HEP_BAR2.EN = false → exec (.bar2Read 0 off len) s = .next (s.emit .cplUr)
          ∧ exec (.bar2Write 0 off data false) s = .next (s.count F.HEP_COUNTS.BAR_ERR 1))
        ∧ (s.flag F.HEP_BAR2.EN = true → base + 0xFF00000 ≤ s.dramSize →
          (1 ≤ len.val → off.toNat + len.val ≤ 0xFF00000 → a % 64 + len.val ≤ 64 → s.dramReach a len.val = true →
            exec (.bar2Read 0 off len) s
              = .next ((s.hubAccess a len.val 0x700 false).emit (.cplData (s.readBytes a len.val) (s.poisoned a len.val))))
          ∧ (off.toNat + data.length ≤ 0xFF00000 → s.dramReach a data.length = true →
            ∃ t, exec (.bar2Write 0 off data false) s = .next t ∧ t.regs = s.regs
              ∧ (∀ i (hi : i < data.length), t.mem.byte (a + i) = data[i])
              ∧ ∀ b, (b < a ∨ a + data.length ≤ b) → t.mem.byte b = s.mem.byte b)))
      ∧ (∀ po : BitVec 20, s.frozen 0 = false → s.flag F.HEP_BAR2.EN = true → base + 0xFF00000 ≤ s.dramSize →
          ((po.toNat % 32 ≠ 0 ∨ data.length % 32 ≠ 0) →
            exec (.recordPortWrite po data false) s = .next (s.count F.HEP_COUNTS.BAR_ERR 1))
          ∧ (po.toNat % 32 = 0 → data.length = 32 → (∀ w, w < 64 → s.winMatchesHost w 0 (natLE (sliceBytes data 24 2)) = false) →
            exec (.recordPortWrite po data false) s = .next (s.count F.LOD_COUNTS.DROPPED 1)))
      ∧ (s.domainOn 0 = true → exec (.bar0Read 0 0 4) s = .next (s.emit (.cplData (bytesLE 4 (s.reg Adr.HEP_CTL).toNat) false)))
      ∧ (s.domainOn 0 = true → data.length = 4 → ∃ t, exec (.bar0Write 0 0 data false 0) s = .next t ∧ t.fld F.HEP_CTL.SEL = natLE data % 32
          ∧ ∀ b, b ≠ Adr.HEP_CTL → t.reg b = s.reg b))
  ∧ (∀ (f : Fin 64) (off : BitVec 28) (data : List Byte) (s : State), f ≠ 0 → s.hostReaches = true → s.fnExists f = true →
      (s.fn f).power = 0 → (s.fn f).resetting = false → s.frozen f = false → s.created f = true →
      exec (.bar2Write f off data false) s = .next (s.count (F.ADT_COUNTS.BAR_WR f) 1))
  ∧ (∀ (tag : Fin 1024) (data : List Byte) (s : State),
    (s.hep.reqs.find? (fun r => r.tag = tag.val) = none → s.flag F.HEP_STATUS.LINK_UP = true →
      (∃ t : State, exec (.hostCompletion tag .success data false) s = .next (t.skReads 1024) ∧ t.hep.aer = 0 :: s.hep.aer ∧ t.hep.reqs = s.hep.reqs)
      ∧ exec (.completionTimeout tag) s = .next s)
    ∧ ∀ r, s.hep.reqs.find? (fun r => r.tag = tag.val) = some r → r.who < 512 → s.staleReq r = false → s.adt.waiting.get 0 r.fn = 0 →
      (s.flag F.HEP_STATUS.LINK_UP = true → data.length = r.len →
        ∃ t : State, exec (.hostCompletion tag .success data false) s = .next (t.skReads 1024) ∧ t.regs = s.regs ∧ t.mem = s.mem
          ∧ (∀ q ∈ t.hep.reqs, q.tag ≠ tag.val)
          ∧ (t.hew r.who).missed = (s.hew r.who).missed.map (fun m => if m.tag = some tag.val then
              { m with tag := none, data := loadValue (kindOfCode m.data) (natLE data), poison := false } else m))
      ∧ (r.crit = false → ∃ t : State, exec (.completionTimeout tag) s = .next (t.skReads 1024) ∧ t.regs = s.regs ∧ t.mem = s.mem
          ∧ t.hep.aer = (r.fn * 256 + 1) :: s.hep.aer ∧ (∀ q ∈ t.hep.reqs, q.tag ≠ tag.val)
          ∧ ∀ m ∈ (t.hew r.who).missed, m.tag ≠ some tag.val)
      ∧ (r.crit = true → ∃ t, exec (.completionTimeout tag) s = .next t ∧ ∀ f, f < 64 → t.frozen f = true))
  ∧ (∀ t : State, (∀ n, n < 64 → t.skReadReady n = false) → t.skReads 1024 = t)
  ∧ (∀ (c : Fin 4) (f : Fin 64) (header : BitVec 128) (s : State),
    (s.domainOn 5 = false → exec (.freeze c f header) s = .next s)
    ∧ (s.domainOn 5 = true → ∃ t, exec (.freeze c f header) s = .next t ∧ ∀ g, g < 64 →
      (t.frozen g = (s.frozen g || (freezeSet (c + 1) f).contains g))
      ∧ ((freezeSet (c + 1) f).contains g = true → s.flag (F.HEP_ERR_LOG_DW0.VALID g) = false →
          t.flag (F.HEP_ERR_LOG_DW0.VALID g) = true ∧ t.fld (F.HEP_ERR_LOG_DW0.CAUSE g) = c.val + 1
          ∧ t.reg (Adr.HEP_ERR_LOG_DW1 g) = BitVec.ofNat 64 s.time.now)))
  ∧ (∀ (mask : Word) (s : State), s.takesIo Adr.HEP_FREEZE_RELEASE = false → exec (.hepFreezeRelease mask) s = .next s)
  ∧ (∀ (mask : Word) (s : State), s.takesIo Adr.HEP_FREEZE_RELEASE = true → ∃ t, exec (.hepFreezeRelease mask) s = .next t
      ∧ ∀ f, f < 64 →
        let may := s.flag (F.HEP_ERR_LOG_DW0.VALID f) = false ∧ s.flag F.HEP_STATUS.LINK_UP = true ∧ (f = 0 ∨ s.frozen 0 = false)
        (mask.toNat.testBit f = true → may → t.frozen f = false)
        ∧ ((mask.toNat.testBit f = false ∨ ¬ may) → t.frozen f = s.frozen f)
        ∧ (mask.toNat.testBit f = true → ¬ may → t.flag F.HEP_STATUS.REL_REJ = true))
  ∧ (∀ (f : Fin 64) (s : State),
    (s.fnExists f = false → exec (.functionLevelReset f) s = .next s)
    ∧ (s.fnExists f = true → (s.fn f).resetting = false → s.domainOn 5 = true → f ≠ 0 →
        (s.aditBusy f = true → ∃ t, exec (.functionLevelReset f) s = .next t ∧ t.hep.fns = s.hep.fns ∧ t.aditGen f = s.aditGen f)
        ∧ (s.aditBusy f = false → ∃ t, exec (.functionLevelReset f) s = .next t ∧ (t.fn f).resetting = true
            ∧ (t.fn f).busMaster = false ∧ t.flag (F.ADT_MBX_CTL.VF_READY f) = false
            ∧ t.flag (F.ADT_MBX_CTL.MGR_READY f) = s.flag (F.ADT_MBX_CTL.MGR_READY f)
            ∧ (s.genHeld f = false → s.adt.waiting.get 0 f = 0 → t.aditGen f = (s.aditGen f + 1) % 256)))
    ∧ (s.hep.perst = false → exec (.flrComplete f) s = .next (s.setFn f { s.fn f with resetting := false }))
    ∧ (s.fnExists f = true → (s.fn f).resetting = false → s.domainOn 5 = true →
        exec (.powerStateChange f 1) s = .next (s.setPower f 3)
        ∧ (∃ t, exec (.powerStateChange f 0) s = .next t ∧ (t.fn f).power = 0 ∧ t.mem = s.mem)
        ∧ (∃ t, exec (.powerStateChange f 2) s = .next t ∧ (t.fn f).power = 4 ∧ t.domainOn 5 = false
            ∧ t.flag F.HEP_STATUS.LINK_UP = false))
    ∧ (s.fnExists f = true → (s.fn f).resetting = false → s.domainOn 5 = true → s.hep.perst = false →
        (∀ on, exec (.configurationWrite f (.pmeEn on)) s = .next ((s.emit .cplOk).setFn f { s.fn f with pmeEn := on }))
        ∧ (∀ on, ∃ t, exec (.configurationWrite f (.busMaster on)) s = .next t ∧ (t.fn f).busMaster = on
            ∧ (t.fn f).msixEn = (s.fn f).msixEn ∧ t.mem = s.mem)
        ∧ (∀ (c : Fin 3) (d : Fin 6), f = 0 → (∃ t, exec (.configurationWrite f (.payload c)) s = .next t ∧ (t.fn 0).mps = c.val ∧ t.regs = s.regs)
            ∧ ∃ t, exec (.configurationWrite f (.readSize d)) s = .next t ∧ (t.fn 0).mrrs = d.val ∧ t.regs = s.regs)
        ∧ (∀ on (n : Fin 64), f = 0 → (s.fn 0).vfEnable = false → ∃ t, exec (.configurationWrite f (.vfEnable on n)) s = .next t
            ∧ (t.fn 0).vfEnable = on ∧ t.hep.numVfs = n.val ∧ t.regs = s.regs)))
  ∧ ∀ s : State,
    (s.hep.perst = false → s.domainOn 5 = true → ∃ t, exec .perstNAssert s = .next t ∧ t.hep.perst = true
        ∧ (t.fn 0).resetting = true ∧ t.flag F.HEP_STATUS.LINK_UP = false ∧ t.fld F.HEP_FREEZE.FROZEN = s.fld F.HEP_FREEZE.FROZEN)
    ∧ (s.hep.perst = true → ∃ t, exec .perstNDeassert s = .next t ∧ t.hep.perst = false ∧ t.regs = s.regs
        ∧ ∀ f, f < 64 → (t.fn f).resetting = false)
    ∧ (s.flag F.HEP_STATUS.LINK_UP = false → exec .hepLinkDown s = .next s)
    ∧ (s.flag F.HEP_STATUS.LINK_UP = true → ∃ t, exec .hepLinkDown s = .next t ∧ t.flag F.HEP_STATUS.LINK_UP = false
        ∧ (t.fn 0).resetting = true ∧ ∀ f, f < 64 → t.frozen f = true)
    ∧ ∀ (rate : Fin 6) (width : Fin 9),
      (s.domainOn 5 = true → s.hep.perst = false → s.mode ≠ .off → rate ≠ 0 → (width = 1 ∨ width = 2 ∨ width = 4 ∨ width = 8) →
        ∃ t, exec (.hepLinkUp rate width) s = .next t ∧ t.flag F.HEP_STATUS.LINK_UP = true ∧ t.fld F.HEP_STATUS.RATE = rate.val
          ∧ t.fld F.HEP_STATUS.WIDTH = width.val ∧ t.hep.wake = false)
      ∧ ((s.domainOn 5 = false ∨ s.hep.perst = true ∨ s.mode = .off) → exec (.hepLinkUp rate width) s = .next s)

/-- Decimated samples, encoder counts and edges are written through the channel maps, and outputs read before their instant.
Without clock, power or mode, no anemometer command changes anything. A decimated sample with one analog channel enabled and
mapped, integer format, sends the rounded 24-bit mean of its conversions to the slot of its map, as the map stood at the
stamp, with the grid's stamp, kind 1, and GOOD quality unless a conversion reached the end of the range; a stamp taken already
changes nothing. An encoder with EN counts one up or down for a step of its quadrature pair; which way DIR 0 counts is the
model's reading (log 25). A step of two counts ENC_ERR, keeps COUNT and marks the encoder; a rise of Z with ZMODE sets COUNT
to 0. An accepted level change of an enabled input with EDGE 0 sends a kind 3 write stamped FILT cycles back; no change sends
nothing. The outputs of an armed action are read at its instant minus the lead, not before, and once. A PWM period starts with
the value held. The end of calibration sets READY. Rests on: 18_anemometer.md R672, 18_anemometer.md R673, 18_anemometer.md
R674, 18_anemometer.md R675, 18_anemometer.md R676, 18_anemometer.md R677, 18_anemometer.md R678, 18_anemometer.md R679,
18_anemometer.md R681, 18_anemometer.md R685, 03_lode.md R114. -/
def Obligations.AnemometerSamplesAndDrives : Prop :=
  (∀ (conv : List (List (BitVec 18))) (n : Fin 16) (d : Fin 32) (a b z : Bool) (m : Fin 8) (s : State), s.anmRuns = false →
    exec (.encoderTransition n a b z) s = .next s ∧ exec (.digitalEdge d a) s = .next s ∧ exec (.pwmPeriodStart m) s = .next s
    ∧ exec .anmCalibrationDone s = .next s ∧ exec (.decimatedSample conv) s = .next s)
  ∧ (∀ (now old : Word) (d t : Nat), valueAt now [] t = now ∧ valueAt now [(d, old)] t = if d < t then now else old)
  ∧ (∀ (conv : List (List (BitVec 18))) (n : Fin 16) (s : State),
    let time := s.fld F.ANM_AIN_PHASE.PHASE + (((s.time.now - s.fld F.ANM_AIN_PHASE.PHASE) / 16000 + 1) / s.decim * s.decim - 1) * 16000
    let first := s.fld F.ANM_AIN_PHASE.PHASE + (((s.time.now - s.fld F.ANM_AIN_PHASE.PHASE) / 16000 + 1) / s.decim - 1) * s.decim * 16000
    let l := conv.map (fun c => (c.getD n 0).toInt)
    let map := (valueAt (s.reg (Adr.LOD_ANM_MAP n)) (s.anm.maps.get [] n) time).toNat
    s.anmRuns = true → s.flag F.ANM_STATUS.READY = true → conv.length = s.decim → s.fld F.ANM_AIN_PHASE.PHASE ≤ s.time.now →
    s.decim ≤ (s.time.now - s.fld F.ANM_AIN_PHASE.PHASE) / 16000 + 1 → s.anm.since ≤ first →
      (s.anm.lastStamp = some time → exec (.decimatedSample conv) s = .next s)
      ∧ (s.anm.lastStamp ≠ some time → (∀ j, j < n.val → s.flag (F.ANM_AIN_CFG.EN j) = false) →
          s.flag (F.ANM_AIN_CFG.EN n) = true → s.flag (F.ANM_AIN_CFG.FMT n) = false →
          bitOf map (F.LOD_ANM_MAP.EN n).lo = true → (s.lode.inq.filter (fun i => i.fromSource (s.source (0x600 + n.val)))).length < 16 →
          let u := { s with anm := { s.anm with lastStamp := some time } }.lodeSend
            (.write ⟨.anemometer, bitsOf map (F.LOD_ANM_MAP.SLOT n).hi (F.LOD_ANM_MAP.SLOT n).lo, BitVec.ofInt 64 (anmCode l s.decim), 1,
              if anmSaturated l then 0x100 + qOutOfRange else qGood, some time, s.source (0x600 + n.val), false, none, none⟩)
          (∀ j, n.val < j → j < 16 → u.flag (F.ANM_AIN_CFG.EN j) = false) → (∀ j, j < 16 → u.flag (F.ANM_ENC_CFG.EN j) = false) →
          exec (.decimatedSample conv) s = .next u))
  ∧ (∀ (n : Fin 16) (a b z : Bool) (s : State),
    let x := s.enc n
    let d := (quadPhase a b + 4 - quadPhase x.a x.b) % 4
    let count := s.fld (F.ANM_ENC_COUNT.COUNT n)
    s.anmRuns = true → s.flag (F.ANM_ENC_CFG.EN n) = true → ∃ t, exec (.encoderTransition n a b z) s = .next t
      ∧ (t.enc n).a = a ∧ (t.enc n).b = b ∧ (t.enc n).z = z ∧ (t.enc n).err = (x.err || decide (d = 2)) ∧ t.lode = s.lode
      ∧ (s.fld (F.ANM_ENC_CFG.ZMODE n) ≠ 1 ∨ z = x.z →
          (d = 0 ∨ d = 2 → t.fld (F.ANM_ENC_COUNT.COUNT n) = count)
          ∧ (d = 1 → s.flag (F.ANM_ENC_CFG.DIR n) = false → t.fld (F.ANM_ENC_COUNT.COUNT n) = (count + 1) % 2 ^ 32)
          ∧ (d = 3 → s.flag (F.ANM_ENC_CFG.DIR n) = false → t.fld (F.ANM_ENC_COUNT.COUNT n) = (count + (2 ^ 32 - 1)) % 2 ^ 32)
          ∧ (d = 1 → s.flag (F.ANM_ENC_CFG.DIR n) = true → t.fld (F.ANM_ENC_COUNT.COUNT n) = (count + (2 ^ 32 - 1)) % 2 ^ 32)
          ∧ (d = 3 → s.flag (F.ANM_ENC_CFG.DIR n) = true → t.fld (F.ANM_ENC_COUNT.COUNT n) = (count + 1) % 2 ^ 32))
      ∧ (s.fld (F.ANM_ENC_CFG.ZMODE n) = 1 → z = true → x.z = false → t.fld (F.ANM_ENC_COUNT.COUNT n) = 0)
      ∧ (d = 2 → t.fld F.ANM_COUNTS.ENC_ERR = min (s.fld F.ANM_COUNTS.ENC_ERR + 1) (2 ^ 16 - 1)))
  ∧ (∀ (n : Fin 32) (pin : Bool) (s : State),
    let level := pin != s.flag (F.ANM_DIO_CFG.INV n)
    let time := s.timeBefore (s.fld (F.ANM_DIO_CFG.FILT n))
    let map := (valueAt (s.reg (Adr.LOD_ANM_MAP (32 + n.val))) (s.anm.maps.get [] (32 + n.val)) time).toNat
    s.anmRuns = true →
      ((s.anm.levels.contains n.val = level ∨ s.flag (F.ANM_DIO_CFG.EN n) = false ∨ s.flag (F.ANM_DIO_CFG.DIR n) = true) →
        exec (.digitalEdge n pin) s = .next s)
      ∧ (s.anm.levels.contains n.val ≠ level → s.flag (F.ANM_DIO_CFG.EN n) = true → s.flag (F.ANM_DIO_CFG.DIR n) = false →
          s.fld (F.ANM_DIO_CFG.EDGE n) = 0 → bitOf map (F.LOD_ANM_MAP.EN (32 + n.val)).lo = true →
          (s.lode.inq.filter (fun i => i.fromSource (s.source (0x620 + n.val)))).length < 16 →
          ∃ l, exec (.digitalEdge n pin) s = .next ({ s with anm := { s.anm with levels := l } }.lodeSend
            (.write ⟨.anemometer, bitsOf map (F.LOD_ANM_MAP.SLOT (32 + n.val)).hi (F.LOD_ANM_MAP.SLOT (32 + n.val)).lo, BitVec.ofNat 64 (b2n level), 3, qGood,
              some time, s.source (0x620 + n.val), false, none, none⟩))))
  ∧ (∀ (n : Fin 64) (s : State),
    (s.outAction n = none → exec (.outputEgressRead n) s = .next s)
    ∧ ∀ a mask inst, s.outAction n = some (a, mask, inst) →
      (s.time.now + s.fld F.LOD_EGRESS_LEAD.LEAD < inst → exec (.outputEgressRead n) s = .next s)
      ∧ (s.anm.reads.any (fun r => r.unit = n.val && r.inst = inst) = true → exec (.outputEgressRead n) s = .next s)
      ∧ (inst ≤ s.time.now + s.fld F.LOD_EGRESS_LEAD.LEAD → s.anmRuns = true →
          s.anm.reads.any (fun r => r.unit = n.val && r.inst = inst) = false →
          ∃ t rest, exec (.outputEgressRead n) s = .next t ∧ t.regs = s.regs ∧ t.lode = s.lode ∧ t.anm.reads =
            ⟨n.val, inst, (s.outsOf a mask).map (fun o => s.outRead o (inst - s.fld F.LOD_EGRESS_LEAD.LEAD))⟩ :: rest))
  ∧ ∀ (m : Fin 8) (s : State), s.anmRuns = true →
    exec (.pwmPeriodStart m) s = .next (s.setPin (8 + m.val) { s.pin (8 + m.val) with high := (s.pin (8 + m.val)).code })
    ∧ (s.flag F.ANM_STATUS.READY = true → exec .anmCalibrationDone s = .next s)
    ∧ (s.flag F.ANM_STATUS.READY = false → ∃ t, exec .anmCalibrationDone s = .next t ∧ t.flag F.ANM_STATUS.READY = true
        ∧ t.anm.since = s.time.now ∧ ∀ a, a ≠ Adr.ANM_STATUS → t.reg a = s.reg a)

/-- Loss of the PLL or REFCLK stops the clocks, requests switch domains or say why not, and temperature moves the core clocks.
Outside OFF a lost root PLL stops the clocks and takes DRAM out of service; a stopped REFCLK also loses DRAM contents; a
relock needs REFCLK. A domain request is taken when no changed domain is refused, which sets REQ and BUSY; the lowest refused
one leaves REFUSED, its number and its reason, 6 while a switch is in progress, 1 for D1 while a child of it is on and 5 for
D2, D3 or D4 in a mode that keeps them, and REQ stays. In CONFIGURE a switch of D9 on empties the skip engines and one of D8
off leaves every pin undriven; without a switch in progress nothing changes. A reading of THROTTLE_C or more moves a shaft one
code toward FLOOR, one below THROTTLE_C less HYST one toward DIV, to take effect at CCLK_STEP when the shaft's hewers stand at
a boundary. A trip sets the sensor's shafts to code 3 and logs the time; its end, below TRIP_C less HYST, returns a shaft no
trip holds to FLOOR. Rests on: 01_organisation.md R31, 01_organisation.md R32, 20_startup_modes_power.md R748,
20_startup_modes_power.md R749, 20_startup_modes_power.md R750, 20_startup_modes_power.md R752, 20_startup_modes_power.md
R753, 20_startup_modes_power.md R754, 01_organisation.md R838. -/
def Obligations.ClocksDomainsAndTemperature : Prop :=
  (∀ s : State,
    (s.mode ≠ .off → s.pwr.pllLocked = true →
      (∃ t, exec .rootPllLossOfLock s = .next t ∧ t.pwr.pllLocked = false ∧ t.flag F.MEM_STATUS.D3_READY = false
        ∧ t.flag F.MEM_STATUS.D4_READY = false)
      ∧ exec (.pllRelock 0) s = .next s)
    ∧ ((s.mode = .off ∨ s.pwr.pllLocked = false) → exec .rootPllLossOfLock s = .next s)
    ∧ (s.mode ≠ .off → s.pwr.refclk = true → ∃ t, exec .refclkStop s = .next t ∧ t.pwr.refclk = false ∧ t.pwr.pllLocked = false
        ∧ t.mem.bytes = [])
    ∧ ((s.mode = .off ∨ s.pwr.refclk = false) → exec .refclkStop s = .next s)
    ∧ exec .refclkRestart s = .next { s with pwr := { s.pwr with refclk := true } }
    ∧ (s.mode ≠ .off → s.pwr.pllLocked = false → s.pwr.refclk = true → ∀ fails, ∃ t, exec (.pllRelock fails) s = .next t
        ∧ t.pwr.pllLocked = true)
    ∧ (s.pwr.refclk = false → ∀ fails, exec (.pllRelock fails) s = .next s))
  ∧ (∀ (v : Word32) (s : State),
    let want := bitsOf v.toNat 19 1 * 2 + 1
    let l := s.switched want
    (s.takesIo Adr.PWR_DOM_REQ = false → exec (.pwrDomReqWrite v) s = .next s)
    ∧ (s.takesIo Adr.PWR_DOM_REQ = true →
    (s.flag F.PWR_STATUS.BUSY = true → ∃ t, exec (.pwrDomReqWrite v) s = .next t ∧ t.flag F.PWR_STATUS.REFUSED = true
        ∧ t.fld F.PWR_STATUS.REF_REASON = 6 ∧ t.fld F.PWR_DOM_REQ.REQ = s.fld F.PWR_DOM_REQ.REQ)
    ∧ (s.flag F.PWR_STATUS.BUSY = false →
      (l = [] → exec (.pwrDomReqWrite v) s = .next s)
      ∧ (l ≠ [] → (∀ d ∈ l, s.switchRefusal want d = 0) → ∃ t, exec (.pwrDomReqWrite v) s = .next t
          ∧ t.fld F.PWR_DOM_REQ.REQ = bitsOf v.toNat 19 1 ∧ t.flag F.PWR_STATUS.BUSY = true
          ∧ t.fld F.PWR_DOM_STATE.ON = s.fld F.PWR_DOM_STATE.ON)
      ∧ (∀ d, d ∈ l → s.switchRefusal want d ≠ 0 → (∀ e ∈ l, e < d → s.switchRefusal want e = 0) →
          ∃ t, exec (.pwrDomReqWrite v) s = .next t ∧ t.flag F.PWR_STATUS.REFUSED = true ∧ t.fld F.PWR_STATUS.REF_DOM = d
            ∧ t.fld F.PWR_STATUS.REF_REASON = s.switchRefusal want d ∧ ∀ a, a ≠ Adr.PWR_STATUS → t.reg a = s.reg a)
      ∧ (∀ d, (d = 2 ∨ d = 3 ∨ d = 4) → l = [d] → want.testBit d = false → s.mode.keepsMemory = true →
          ∃ t, exec (.pwrDomReqWrite v) s = .next t ∧ t.fld F.PWR_STATUS.REF_DOM = d ∧ t.fld F.PWR_STATUS.REF_REASON = 5)
      ∧ (l = [9] → want.testBit 9 = false → s.skipHeld = true →
          ∃ t, exec (.pwrDomReqWrite v) s = .next t ∧ t.fld F.PWR_STATUS.REF_DOM = 9 ∧ t.fld F.PWR_STATUS.REF_REASON = 4)
      ∧ (l = [1] → want.testBit 1 = false → (∃ c, c < 20 ∧ childOfD1 c = true ∧ s.domainOn c = true) →
          ∃ t, exec (.pwrDomReqWrite v) s = .next t ∧ t.fld F.PWR_STATUS.REF_DOM = 1 ∧ t.fld F.PWR_STATUS.REF_REASON = 1)))
    )
  ∧ (∀ (fails : BitVec 128) (s : State),
    ((s.flag F.PWR_STATUS.BUSY = false ∨ s.pwr.pllLocked = false) → exec (.powerDomainSwitched fails) s = .next s)
    ∧ (s.flag F.PWR_STATUS.BUSY = true → s.pwr.pllLocked = true → s.mode = .configure →
      (s.toSwitch false = [] → s.toSwitch true = [9] → ∃ t, exec (.powerDomainSwitched fails) s = .next t
          ∧ t.flag F.PWR_STATUS.BUSY = false ∧ t.domainOn 9 = true ∧ t.skp = [] ∧ t.mem = s.mem)
      ∧ (s.toSwitch false = [8] → s.toSwitch true = [] → ∃ t, exec (.powerDomainSwitched fails) s = .next t
          ∧ t.flag F.PWR_STATUS.BUSY = false ∧ t.domainOn 8 = false ∧ (∀ o, o < 48 → (t.pin o).driven = false) ∧ t.mem = s.mem)))
  ∧ (∀ (temps : List (BitVec 16)) (s : State), s.mode ≠ .off → s.pwr.pllLocked = true → temps.length = 9 →
    ∃ t, exec (.thermalAdjust temps) s = .next t ∧ (∀ i (hi : i < temps.length), t.fld (F.PWR_TEMP.TEMP i) = temps[i].toNat)
      ∧ ∀ k (hk : k < temps.length), k < 8 →
        let cur := s.nextCode k
        let temp := temps[k].toInt
        let hot := (s.fld F.PWR_THERM.THROTTLE_C : Int) * 16 ≤ temp ∨ s.memHot = true
        let cool := temp < ((s.fld F.PWR_THERM.THROTTLE_C : Int) - s.fld F.PWR_THERM.HYST) * 16
        t.reg (Adr.PWR_SHAFT_CLK k) = s.reg (Adr.PWR_SHAFT_CLK k)
        ∧ (s.shaftTripped k = true → t.pwr.step.get 0 k = s.pwr.step.get 0 k)
        ∧ (s.shaftTripped k = false →
          (hot → cur < s.fld (F.PWR_SHAFT_CLK.FLOOR k) → t.nextCode k = cur + 1)
          ∧ (hot → s.fld (F.PWR_SHAFT_CLK.FLOOR k) ≤ cur → t.nextCode k = cur)
          ∧ (¬ hot → cool → s.fld (F.PWR_SHAFT_CLK.DIV k) < cur → t.nextCode k + 1 = cur)
          ∧ (¬ hot → ¬ cool → t.nextCode k = cur)))
  ∧ ∀ (sensor : Fin 9) (shaft : Fin 8) (s : State), s.mode ≠ .off → s.pwr.pllLocked = true →
    let temp := signedOf 16 (s.fld (F.PWR_TEMP.TEMP sensor))
    (s.pwr.step.get 0 shaft = 0 ∨ s.shaftAtBoundary shaft = false → exec (.cclkStep shaft) s = .next s)
    ∧ (∀ c, c < 4 → s.shaftAtBoundary shaft = true → s.pwr.step.get 0 shaft = c + 1 → ∃ t, exec (.cclkStep shaft) s = .next t
        ∧ t.fld (F.PWR_SHAFT_CLK.CUR shaft) = c ∧ t.pwr.step.get 0 shaft = 0
        ∧ ∀ a, a ≠ Adr.PWR_SHAFT_CLK shaft → t.reg a = s.reg a)
    ∧ (temp < s.fld F.PWR_THERM.TRIP_C * 16 → exec (.thermalTrip sensor) s = .next s)
    ∧ (s.fld F.PWR_THERM.TRIP_C * 16 ≤ temp → s.pwr.tripped.contains sensor.val = false →
        ∃ t, exec (.thermalTrip sensor) s = .next t ∧ t.flag F.PWR_STATUS.TRIP = true ∧ t.fld F.PWR_STATUS.TRIP_SRC = sensor.val
          ∧ t.reg Adr.PWR_TRIP_LOG = BitVec.ofNat 64 s.time.now
          ∧ ∀ k, k < 8 → (sensor.val = k ∨ sensor.val = 8) → t.fld (F.PWR_SHAFT_CLK.CUR k) = 3 ∧ t.pwr.step.get 0 k = 0)
    ∧ (((s.fld F.PWR_THERM.TRIP_C : Int) - s.fld F.PWR_THERM.HYST) * 16 ≤ temp → exec (.thermalTripEnd sensor) s = .next s)
    ∧ (temp < ((s.fld F.PWR_THERM.TRIP_C : Int) - s.fld F.PWR_THERM.HYST) * 16 → s.pwr.tripped = [sensor.val] →
        ∃ t, exec (.thermalTripEnd sensor) s = .next t ∧ t.pwr.tripped = []
          ∧ ∀ k, k < 8 → (sensor.val = k ∨ sensor.val = 8) →
            t.fld (F.PWR_SHAFT_CLK.CUR k) = s.fld (F.PWR_SHAFT_CLK.FLOOR k))

/-- Reset leads from OFF to CONFIGURE, each boot stage ends with its stage or its failure code, and the flash takes
operations. Where a stage is due it ends with STAGE at its number, or with STAGE 8 and the code of the first failed check.
PORN_RISE samples the straps in OFF; POR_PLL_LOCK with REFCLK running makes the mode CONFIGURE and shows UNBOUND. Discovery
records mode and size. The header fails with 2, 3, 4 or, at the first bad section, 5, else ends stage 2. Early sections
without an item end stage 3, with 6 where training failed. The stream copies what lies beyond 1 MiB to the top of DRAM, or
fails with 6. Verification fails with 7 for the signature and 8 for a key that does not match a bound device. With no section
left to apply, stage 6 ends in stage 7 with DONE. While the clocks run a flash operation that is refused sets ERR, another
sets BUSY; at its end a read fills the page buffer, a program clears bits of the page, an erase leaves its 64 KiB at 0xFF, and
a failed one changes no byte and sets ERR. That boot fails at once, and that an erased byte is 0xFF, is the model's choice
(log 20). Rests on: 20_startup_modes_power.md R719, 20_startup_modes_power.md R723, 20_startup_modes_power.md R725,
20_startup_modes_power.md R726, 20_startup_modes_power.md R727, 20_startup_modes_power.md R729, 20_startup_modes_power.md
R730, 20_startup_modes_power.md R731, 20_startup_modes_power.md R732, 20_startup_modes_power.md R734,
20_startup_modes_power.md R736. -/
def Obligations.StartUpAndFlash : Prop :=
  (∀ (devnum : BitVec 12) (scan : Bool) (s : State),
    (s.mode = .off → s.pwr.porn = false → exec (.pornRise devnum scan) s = .next { s with
        pwr := { s.pwr with porn := true }
        devnum := devnum.toNat
        dbg := { s.dbg with scanEn := !scan } })
    ∧ ((s.mode ≠ .off ∨ s.pwr.porn = true) → exec (.pornRise devnum scan) s = .next s)
    ∧ (s.mode = .off → s.pwr.porn = true → s.pwr.refclk = true → s.pwr.pllLocked = false →
        ∃ t, exec .porPllLock s = .next t ∧ t.mode = .configure ∧ t.pwr.pllLocked = true
          ∧ t.flag F.CFG_BOOT_STATUS.UNBOUND = s.rootKeyEmpty)
    ∧ ((s.mode ≠ .off ∨ s.pwr.porn = false ∨ s.pwr.refclk = false) → exec .porPllLock s = .next s))
  ∧ (∀ (items : List (List BootItem)) (fails : BitVec 128) (octal : Fin 3) (size : BitVec 16) (s : State),
    let stage := s.fld F.CFG_BOOT_STATUS.STAGE
    let ended := fun (t : State) (err sec : Nat) => t.fld F.CFG_BOOT_STATUS.STAGE = 8 ∧ t.fld F.CFG_BOOT_STATUS.ERR = err
      ∧ t.fld F.CFG_BOOT_STATUS.SECTION = sec ∧ t.domainOn 5 = true ∧ t.mem = s.mem
    let ends := fun (c : Instr) (err sec : Nat) => ∃ t : State, exec c s = .next t ∧ ended t err sec
    let n := s.imageLength - 0x100000
    (s.mode ≠ .configure → exec (.bootDiscovery true octal size) s = .next s ∧ exec (.bootHeader false) s = .next s
      ∧ exec (.bootEarlySections items fails false) s = .next s ∧ exec (.bootStream false) s = .next s
      ∧ exec .bootVerify s = .next s ∧ exec (.bootApply items) s = .next s)
    ∧ (s.mode = .configure → s.pwr.pllLocked = true →
      (stage = 0 → ends (.bootDiscovery false octal size) 1 0 ∧ ∃ t, exec (.bootDiscovery true octal size) s = .next t
          ∧ t.fld F.CFG_BOOT_STATUS.STAGE = 1 ∧ t.fld F.CFG_XSPI_INFO.MODE = octal.val + 1
          ∧ t.fld F.CFG_XSPI_INFO.SIZE_MIB = size.toNat)
      ∧ (stage = 1 → ends (.bootHeader true) 1 0
          ∧ (s.headerFixed = false → ends (.bootHeader false) 2 0)
          ∧ (s.headerFixed = true → s.variantOk = false → ends (.bootHeader false) 3 0)
          ∧ (s.headerFixed = true → s.variantOk = true → s.lengthOk = false → ends (.bootHeader false) 4 0)
          ∧ (s.headerFixed = true → s.variantOk = true → s.lengthOk = true →
              (∀ k, k < s.imageSections → s.sectionBad k = true → (∀ j, j < k → s.sectionBad j = false) →
                ends (.bootHeader false) 5 k)
              ∧ ((∀ k, k < s.imageSections → s.sectionBad k = false) →
                exec (.bootHeader false) s = .next (s.setFld F.CFG_BOOT_STATUS.STAGE 2))))
      ∧ (stage = 2 → ends (.bootEarlySections items fails true) 1 0
          ∧ ((∀ k, k < s.imageSections → s.sectionApplies 1 k = false ∧ s.sectionApplies 2 k = false) →
              s.flag F.PWR_STATUS.BUSY = false →
              (s.flag F.MEM_STATUS.TRAIN_FAIL = true → ends (.bootEarlySections items fails false) 6 0)
              ∧ (s.flag F.MEM_STATUS.TRAIN_FAIL = false →
                exec (.bootEarlySections items fails false) s = .next (s.setFld F.CFG_BOOT_STATUS.STAGE 3))))
      ∧ (stage = 3 → ends (.bootStream true) 1 0
          ∧ (n = 0 → exec (.bootStream false) s = .next (s.setFld F.CFG_BOOT_STATUS.STAGE 4))
          ∧ (n ≠ 0 → s.dramReach (s.dramSize - n) n = false → ends (.bootStream false) 6 0)
          ∧ (n ≠ 0 → s.dramReach (s.dramSize - n) n = true → ∃ t, exec (.bootStream false) s = .next t
              ∧ t.fld F.CFG_BOOT_STATUS.STAGE = 4 ∧ (∀ i, i < n → t.mem.byte (s.dramSize - n + i) = s.flashByte (0x100000 + i))
              ∧ ∀ a, (a < s.dramSize - n ∨ s.dramSize ≤ a) → t.mem.byte a = s.mem.byte a))
      ∧ (stage = 4 → ∃ t, exec .bootVerify s = .next t ∧ (if s.imageVerifies = false then ended t 7 0
          else if s.rootKeyEmpty = false ∧ s.rootKeyMatches = false then ended t 8 0
          else t.fld F.CFG_BOOT_STATUS.STAGE = 5 ∧ t.flag F.CFG_BOOT_STATUS.UNBOUND = s.rootKeyEmpty
            ∧ ∀ a, a ≠ Adr.CFG_BOOT_STATUS → t.reg a = s.reg a))
      ∧ (stage = 5 → (∀ k kind, k < s.imageSections → kind ∈ sectionOrder → s.sectionApplies kind k = false) →
          s.lode.waitAdv = [] → ∃ t, exec (.bootApply items) s = .next t ∧ t.fld F.CFG_BOOT_STATUS.STAGE = 7
          ∧ t.flag F.CFG_BOOT_STATUS.DONE = true ∧ t.fld F.CFG_IMAGE.VERSION = s.imageNum 0x18 4 ∧ t.mem = s.mem)))
  ∧ ∀ s : State,
    let addr := s.fld F.CFG_XSPI_ADDR.ADDR
    let a := s.xspi.1
    let busy := fun (c : Instr) (op : Nat) (l : List Byte) => ∃ t : State, exec c s = .next t ∧ t.flag F.CFG_XSPI_CTL.BUSY = true
      ∧ t.fld F.CFG_XSPI_CTL.OP = op ∧ t.xspi = (addr, l) ∧ t.flash = s.flash
    let ready := s.flag F.CFG_XSPI_CTL.BUSY = false ∧ s.mode ≠ .off ∧ s.mode ≠ .selfTest
      ∧ (s.fld F.CFG_BOOT_STATUS.STAGE = 0 ∨ 5 < s.fld F.CFG_BOOT_STATUS.STAGE)
    let takes := s.takesIo Adr.CFG_XSPI_CTL = true
    (¬ takes → exec .xspiRead s = .next s ∧ exec .xspiProgram s = .next s ∧ exec .xspiErase s = .next s)
    ∧ (takes → ready → addr % 256 = 0 → busy .xspiRead 1 [] ∧ busy .xspiProgram 2 s.pageBuffer)
    ∧ (takes → ready → addr % 0x10000 = 0 → busy .xspiErase 3 [])
    ∧ (takes → ready → addr % 256 ≠ 0 → exec .xspiRead s = .next (s.raise F.CFG_XSPI_CTL.ERR)
        ∧ exec .xspiProgram s = .next (s.raise F.CFG_XSPI_CTL.ERR))
    ∧ (takes → addr % 0x10000 ≠ 0 → exec .xspiErase s = .next (s.raise F.CFG_XSPI_CTL.ERR))
    ∧ (takes → ¬ ready → exec .xspiRead s = .next (s.raise F.CFG_XSPI_CTL.ERR))
    ∧ (s.flag F.CFG_XSPI_CTL.BUSY = false → ∀ f, exec (.xspiOperationComplete f) s = .next s)
    ∧ (s.flag F.CFG_XSPI_CTL.BUSY = true →
      (∃ t, exec (.xspiOperationComplete true) s = .next t ∧ t.flag F.CFG_XSPI_CTL.BUSY = false
        ∧ t.flag F.CFG_XSPI_CTL.ERR = true ∧ t.flash = s.flash)
      ∧ ∃ t, exec (.xspiOperationComplete false) s = .next t ∧ t.flag F.CFG_XSPI_CTL.BUSY = false
        ∧ (s.fld F.CFG_XSPI_CTL.OP = 1 → t.flash = s.flash ∧ ∀ i, i < 32 →
            t.reg (Adr.CFG_XSPI_DATA i) = BitVec.ofNat 64 (natLE (s.flashBytes (a + 8 * i) 8)))
        ∧ (s.fld F.CFG_XSPI_CTL.OP = 2 → s.xspi.2.length = 256 →
            (∀ i (hi : i < s.xspi.2.length), t.flashByte (a + i) = s.flashByte (a + i) &&& s.xspi.2[i])
            ∧ ∀ b, (b < a ∨ a + 256 ≤ b) → t.flashByte b = s.flashByte b)
        ∧ (s.fld F.CFG_XSPI_CTL.OP = 3 → ∀ b, t.flashByte b =
            if a ≤ b ∧ b < a + 0x10000 then 0xFF else s.flashByte b))

/-- Counters wrap with OVF, sampling starts where its ring fits, windows copy port counts, and writes set a register's fields.
While its register takes writes STOP takes the bit written. COUNTER_OVERFLOW adds the events of a timing event that its
counter counts: the count is the sum modulo 2^48 and OVF of the counter is set exactly when it passed 2^48 - 1; a counter that
does not count stays; which events are timing events is the model's choice (log 27). SAMPLING_ENABLE with EN 0 sets EN where
SIZE is 1 to 12 and the ring lies in DRAM, else ERR. A TAIL write that would exceed the ring sets ERR, another sets TAIL only.
At the end of a window each of the 50 ports' LAST takes its count, MAX the larger per direction, and SEQ rises by 1; before
the end nothing changes. REGISTER_WRITE of HEP_CTL by the manager, by a hewer in M that may execute an IO access, or by the
boot controller during its stages sets SEL to the low five bits and no other register; in other stages the boot controller,
and a hewer that may not execute one, write nothing. Rests on: 22_tally.md R796, 22_tally.md R797, 22_tally.md R798,
22_tally.md R804, 22_tally.md R805, 22_tally.md R806, 22_tally.md R807, 00_scope.md R5, 16_host_endpoint.md R609. -/
def Obligations.TallyAndRegisterWrites : Prop :=
  (∀ (stop : Bool) (s : State), exec (.tlyStopWrite stop) s
    = .next (if s.takesIo Adr.TLY_GCTL = true then s.setFld F.TLY_GCTL.STOP (b2n stop) else s))
  ∧ (∀ (h : HewerId) (n : Fin 8) (k : BitVec 48) (s : State),
    let e := s.fld (F.TLY_HWR_EVT.EVENT h n)
    let sum := s.fld (F.TLY_HWR_CTR.COUNT h n) + k.toNat
    ((timingEvent e = false ∨ s.counts h n e = false) → exec (.counterOverflow h n k) s = .next s)
    ∧ (timingEvent e = true → s.counts h n e = true → s.domainOn (shaftDomain h) = true → s.pwr.pllLocked = true → s.mode ≠ .off →
        ∃ t, exec (.counterOverflow h n k) s = .next t ∧ t.fld (F.TLY_HWR_CTR.COUNT h n) = sum % 2 ^ 48
          ∧ (2 ^ 48 ≤ sum → (t.fld (F.TLY_HWR_STAT.OVF h)).testBit n = true)
          ∧ (sum < 2 ^ 48 → t.fld (F.TLY_HWR_STAT.OVF h) = s.fld (F.TLY_HWR_STAT.OVF h))
          ∧ (∀ m, m ≠ n.val → (t.fld (F.TLY_HWR_STAT.OVF h)).testBit m = (s.fld (F.TLY_HWR_STAT.OVF h)).testBit m)
          ∧ t.hewers = s.hewers ∧ t.mem = s.mem))
  ∧ (∀ (h : HewerId) (v : Word) (s : State),
    let size := bitsOf v.toNat 51 48
    let fits := 1 ≤ size ∧ size ≤ 12 ∧ s.fld (F.TLY_HWR_SBASE.BASE h) * 4096 + 2 ^ size * 64 ≤ s.dramSize
    (s.takesIo (Adr.TLY_HWR_SCTL h) = false → exec (.samplingEnable h v) s = .next s)
    ∧ (s.takesIo (Adr.TLY_HWR_SCTL h) = true → s.flag (F.TLY_HWR_SCTL.EN h) = false → bitOf v.toNat 63 = true →
      (fits → ∃ t, exec (.samplingEnable h v) s = .next t ∧ t.flag (F.TLY_HWR_SCTL.EN h) = true
          ∧ t.fld (F.TLY_HWR_SCTL.SIZE h) = size ∧ t.fld (F.TLY_HWR_SCTL.PERIOD h) = bitsOf v.toNat 31 0
          ∧ bitsOf v.toNat 31 0 ≤ (t.hew h).smpDown)
      ∧ (¬ fits → ∃ t, exec (.samplingEnable h v) s = .next t ∧ t.flag (F.TLY_HWR_SCTL.EN h) = false
          ∧ t.flag (F.TLY_HWR_STAT.ERR h) = true ∧ t.hewers = s.hewers)))
  ∧ (∀ (h : HewerId) (tail : BitVec 16) (s : State),
    let used := (s.fld (F.TLY_HWR_SPTR.HEAD h) + 0x10000 - tail.toNat) % 0x10000
    (s.takesIo (Adr.TLY_HWR_SPTR h) = false → exec (.sampleTailWrite h tail) s = .next s)
    ∧ (s.takesIo (Adr.TLY_HWR_SPTR h) = true → 2 ^ s.fld (F.TLY_HWR_SCTL.SIZE h) < used → exec (.sampleTailWrite h tail) s = .next (s.raise (F.TLY_HWR_STAT.ERR h)))
    ∧ (s.takesIo (Adr.TLY_HWR_SPTR h) = true → used ≤ 2 ^ s.fld (F.TLY_HWR_SCTL.SIZE h) →
        exec (.sampleTailWrite h tail) s = .next (s.setFld (F.TLY_HWR_SPTR.TAIL h) tail.toNat)))
  ∧ (∀ (counts : List Word) (s : State),
    let due := s.bwUs + s.fld F.TLY_BW_CTL.WIN_US
    ((s.flag F.TLY_BW_CTL.EN = false ∨ s.time.us < due ∨ s.mode = .off) → exec (.bwWindowEnd counts) s = .next s)
    ∧ (s.flag F.TLY_BW_CTL.EN = true → due ≤ s.time.us → s.domainOn 1 = true → s.mode ≠ .off →
        ∃ t, exec (.bwWindowEnd counts) s = .next t ∧ t.reg Adr.TLY_BW_SEQ = s.reg Adr.TLY_BW_SEQ + 1 ∧ t.bwUs = due
          ∧ ∀ p, p < 50 → t.reg (Adr.TLY_BW_LAST p) = counts.getD p 0
            ∧ t.fld (F.TLY_BW_MAX.IN p) = max (s.fld (F.TLY_BW_MAX.IN p)) (bitsOf (counts.getD p 0).toNat 63 32)
            ∧ t.fld (F.TLY_BW_MAX.OUT p) = max (s.fld (F.TLY_BW_MAX.OUT p)) (bitsOf (counts.getD p 0).toNat 31 0)))
  ∧ ∀ (v : Word) (s : State),
    let sets := fun (w : Writer) => ∃ t : State, exec (.registerWrite w (BitVec.ofNat 32 Adr.HEP_CTL) false v) s = .next t
      ∧ t.fld F.HEP_CTL.SEL = v.toNat % 32 ∧ (∀ a, a ≠ Adr.HEP_CTL → t.reg a = s.reg a) ∧ t.mem = s.mem ∧ t.hewers = s.hewers
    (s.domainOn 0 = true → s.hostReaches = true → (s.fn 0).power = 0 → (s.fn 0).resetting = false → sets .manager)
    ∧ (∀ h : HewerId, s.domainOn 0 = true → s.executesIo h = true → (s.hew h).pl = 3 → sets (.hewer h))
    ∧ (∀ (h : HewerId) (a : Word32) (wide : Bool), s.executesIo h = false → exec (.registerWrite (.hewer h) a wide v) s = .next s)
    ∧ (s.domainOn 0 = true → s.pwr.pllLocked = true → s.mode = .configure → 1 ≤ s.fld F.CFG_BOOT_STATUS.STAGE → s.fld F.CFG_BOOT_STATUS.STAGE ≤ 6 → sets .boot)
    ∧ ∀ (a : Word32) (wide : Bool), (s.fld F.CFG_BOOT_STATUS.STAGE = 0 ∨ 6 < s.fld F.CFG_BOOT_STATUS.STAGE) →
        exec (.registerWrite .boot a wide v) s = .next s

/-- Debug commands act with the session's authority or say why not, VERIFY opens a session or counts a failure, the TAP
answers. In OFF the TAP does nothing. BYPASS gives one 0 bit; IDCODE its code while D10 is on, else a 0 bit; EXTEST drives
and, like SAMPLE, captures 64 free bits only with SCAN_EN_N low at PORn; DBGPWR with 1 asks for D10; TEST_LOGIC_RESET selects
IDCODE. A command on an open path leaves its status: NOP 0, SETADDR 0 with its address or 6, READ and WRITE of D space 2
without the level, 8 while the other path holds a session, 1 while the PLL is unlocked, else the bytes read or exactly the
bytes written, VT_READ the word of VTX and TX_FULL 0, VT_WRITE 3 under RX_FULL, CLOSE of the own session level 0. CHALLENGE
outstanding unless LOCKOUT, then RESULT 5. VERIFY sets BUSY; its end opens a session where the signature verifies, with
INTRUSIVE on an unbound device, or counts a failure, the third setting LOCKOUT for 60 s. The root-key hash is taken once, in
CONFIGURE. That IDCODE needs D10, and what a scan captures, follow log 30; the order of VERIFY's checks follows log 29. Rests
on: 21_debug.md R756, 21_debug.md R757, 21_debug.md R758, 21_debug.md R759, 21_debug.md R763, 21_debug.md R767, 21_debug.md
R768, 21_debug.md R769, 21_debug.md R770, 21_debug.md R771, 21_debug.md R788, 21_debug.md R790. -/
def Obligations.DebugPathsAndSession : Prop :=
  (∀ (v : Word) (s : State),
    (s.mode = .off → exec .bypass s = .next s ∧ exec .idcode s = .next s ∧ exec .testLogicReset s = .next s
      ∧ exec (.extest v) s = .next s ∧ exec .samplePreload s = .next s ∧ exec (.dbgpwr true) s = .next s)
    ∧ (s.mode ≠ .off →
      (∃ t, exec .bypass s = .next t ∧ t.out = .tdo 0 1 :: s.out ∧ t.regs = s.regs ∧ t.hewers = s.hewers)
      ∧ (∃ t, exec .idcode s = .next t ∧ t.out = (if s.domainOn 10 then .tdo idCode 32 else .tdo 0 1) :: s.out ∧ t.regs = s.regs)
      ∧ (s.dbg.scanEn = false → (∃ t, exec (.extest v) s = .next t ∧ t.out = .tdo 0 1 :: s.out ∧ t.dbg.scan = none)
          ∧ ∃ t, exec .samplePreload s = .next t ∧ t.out = .tdo 0 1 :: s.out)
      ∧ (s.dbg.scanEn = true → (∃ t d, exec (.extest v) s = .next t ∧ t.out = .tdo d 64 :: s.out ∧ t.dbg.scan = some v)
          ∧ ∃ t d, exec .samplePreload s = .next t ∧ t.out = .tdo d 64 :: s.out ∧ t.dbg.scan = none)
      ∧ (∃ t, exec (.dbgpwr false) s = .next t ∧ t.regs = s.regs)
      ∧ (s.flag F.PWR_STATUS.BUSY = false → (s.fld F.PWR_DOM_REQ.REQ).testBit 9 = false →
          ∃ t, exec (.dbgpwr true) s = .next t ∧ t.flag F.PWR_STATUS.BUSY = true
            ∧ ∀ d, (t.fld F.PWR_DOM_REQ.REQ).testBit d = (decide (d = 9) || (s.fld F.PWR_DOM_REQ.REQ).testBit d))
      ∧ (s.fld F.DBG_SESSION.PATH ≠ 1 → ∃ t, exec .testLogicReset s = .next t ∧ t.dbg.ir = 2 ∧ t.regs = s.regs)))
  ∧ (∀ (p : DbgPath) (h : HewerId) (size : BitVec 4) (arg : Word) (data : Word32) (level key : Fin 4) (k : BitVec 16) (s : State),
    let x := s.scsPath p
    let n := 2 ^ x.width
    let stat := fun (t : State) => match p with | .jtag => t.dbg.jtag.status | .pf => t.fld F.HEP_SCS_CMD.STATUS
    let result := fun (t : State) => match p with | .jtag => t.dbg.jtag.result | .pf => (t.reg Adr.HEP_SCS_RES).toNat
    let takes := match p with | .jtag => True | .pf => s.pfPathOpen = true ∧ s.flag F.HEP_SCS_CMD.BUSY = false ∧ s.flag F.DBG_CTL.PF_EN = true
    let mine := s.fld F.DBG_SESSION.PATH = pathCode p
    let lvl := s.fld F.DBG_SESSION.LEVEL
    let dram := x.space = 0 ∧ s.areaOf x.addr = 1 ∧ x.addr % n = 0 ∧ n ≤ 8 ∧ s.pwr.pllLocked = true
      ∧ s.channelOn (s.channelOf x.addr) = true
    s.domainOn 10 = true → s.mode ≠ .off → s.dbg.readPath = none → takes →
      (∃ t, exec (.nopCommand p) s = .next t ∧ stat t = 0 ∧ result t = 0 ∧ t.mem = s.mem)
      ∧ (bitsOf arg.toNat 63 62 = 0 → ∃ t, exec (.setaddr p size arg) s = .next t ∧ stat t = 0
          ∧ (t.scsPath p).space = 0 ∧ (t.scsPath p).addr = bitsOf arg.toNat 47 0 ∧ (t.scsPath p).width = size.toNat % 4)
      ∧ (bitsOf arg.toNat 63 62 = 3 → ∃ t, exec (.setaddr p size arg) s = .next t ∧ stat t = 6
          ∧ (t.scsPath p).addr = x.addr ∧ (t.scsPath p).space = x.space)
      ∧ (s.fld F.DBG_SESSION.PATH ≠ 0 → ¬ mine → x.space = 0 → ∃ t, exec (.write p size arg) s = .next t ∧ stat t = 8 ∧ t.mem = s.mem)
      ∧ ((s.fld F.DBG_SESSION.PATH = 0 ∨ (mine ∧ lvl = 0)) → x.space = 0 → ∃ t, exec (.read p size) s = .next t ∧ stat t = 2)
      ∧ ((s.fld F.DBG_SESSION.PATH = 0 ∨ (mine ∧ lvl < 2)) → x.space = 0 →
          ∃ t, exec (.write p size arg) s = .next t ∧ stat t = 2 ∧ t.mem = s.mem)
      ∧ (mine → 1 ≤ lvl → s.pwr.pllLocked = false → x.space = 0 → s.areaOf x.addr = 1 → x.addr % n = 0 →
          ∃ t, exec (.read p size) s = .next t ∧ stat t = 1 ∧ t.mem = s.mem)
      ∧ (mine → 1 ≤ lvl → dram → ∃ t, exec (.read p size) s = .next t ∧ stat t = (if s.poisoned x.addr n then 4 else 0)
          ∧ result t = natLE (s.readBytes x.addr n) ∧ t.mem = s.mem
          ∧ (t.scsPath p).addr = (if bitOf size.toNat 2 then x.addr + n else x.addr))
      ∧ (mine → 2 ≤ lvl → dram → ∃ t, exec (.write p size arg) s = .next t ∧ stat t = 0
          ∧ (∀ i, i < n → t.mem.byte (x.addr + i) = BitVec.ofNat 8 (arg.toNat / 2 ^ (8 * i)))
          ∧ ∀ a, (a < x.addr ∨ x.addr + n ≤ a) → t.mem.byte a = s.mem.byte a)
      ∧ (mine → 1 ≤ lvl → (∃ t, exec (.vtRead p h) s = .next t ∧ stat t = 0 ∧ result t = s.fld (F.DBG_HWR_VTX.DATA h)
            ∧ t.flag (F.DBG_HWR_VT_STAT.TX_FULL h) = false)
          ∧ (s.flag (F.DBG_HWR_VT_STAT.RX_FULL h) = true → ∃ t, exec (.vtWrite p h data) s = .next t ∧ stat t = 3
              ∧ t.fld (F.DBG_HWR_VRX.DATA h) = s.fld (F.DBG_HWR_VRX.DATA h))
          ∧ (s.flag (F.DBG_HWR_VT_STAT.RX_FULL h) = false → ∃ t, exec (.vtWrite p h data) s = .next t ∧ stat t = 0
              ∧ t.fld (F.DBG_HWR_VRX.DATA h) = data.toNat ∧ t.flag (F.DBG_HWR_VT_STAT.RX_FULL h) = true))
      ∧ (mine → s.Canonical → (∀ j, j < 512 → (s.hew j).halted = false) → ∃ t, exec (.close p) s = .next t ∧ stat t = 0
          ∧ t.fld F.DBG_SESSION.PATH = 0 ∧ t.fld F.DBG_SESSION.LEVEL = 0 ∧ t.mem = s.mem)
      ∧ ((s.fld F.DBG_SESSION.PATH = 0 ∨ mine) → s.flag F.DBG_AUTH_CTL.BUSY = false →
          (s.flag F.DBG_SESSION.LOCKOUT = false → ∃ t, exec (.challenge p level key) s = .next t ∧ t.dbg.chal = true
            ∧ t.fld F.DBG_AUTH_CTL.LEVEL = level.val ∧ t.fld F.DBG_AUTH_CTL.KEY = key.val)
          ∧ (s.flag F.DBG_SESSION.LOCKOUT = true → ∃ t, exec (.challenge p level key) s = .next t
            ∧ t.fld F.DBG_AUTH_CTL.RESULT = 5 ∧ t.dbg.chal = s.dbg.chal)
          ∧ ∃ t, exec (.verify p level key) s = .next t ∧ t.flag F.DBG_AUTH_CTL.BUSY = true ∧ t.dbg.verifyPath = pathCode p)
      ∧ ((s.fld F.DBG_SESSION.PATH = 0 ∨ mine) →
          (k = 0x5CE5 → s.mode = .configure → s.rootKeyEmpty = true → s.flag F.DBG_RKP_CTL.BUSY = false →
            ∃ t, exec (.rootKeyProgram p k) s = .next t ∧ t.flag F.DBG_RKP_CTL.BUSY = true)
          ∧ ((k ≠ 0x5CE5 ∨ s.mode ≠ .configure ∨ s.rootKeyEmpty = false) →
            ∃ t, exec (.rootKeyProgram p k) s = .next t ∧ t.flag F.DBG_RKP_CTL.ERR = true
              ∧ t.flag F.DBG_RKP_CTL.BUSY = s.flag F.DBG_RKP_CTL.BUSY)))
  ∧ ∀ s : State,
    (s.flag F.DBG_AUTH_CTL.BUSY = false → exec .verifyComplete s = .next s)
    ∧ (s.flag F.DBG_AUTH_CTL.BUSY = true →
      (s.dbg.chal = true → s.flag F.CFG_BOOT_STATUS.UNBOUND = true → ∃ t, exec .verifyComplete s = .next t
          ∧ t.fld F.DBG_SESSION.PATH = s.dbg.verifyPath % 4 ∧ t.fld F.DBG_SESSION.LEVEL = 2 ∧ t.flag F.DBG_SESSION.RUN_OK = true
          ∧ t.fld F.DBG_SESSION.FAILS = 0 ∧ t.dbg.chal = false ∧ t.fld F.DBG_AUTH_CTL.RESULT = 0)
      ∧ (∀ key, s.dbg.chal = true → s.flag F.CFG_BOOT_STATUS.UNBOUND = false → s.authKey = some key → key.device = none →
          s.fld F.DBG_AUTH_CTL.LEVEL ≤ 2 → s.fld F.DBG_AUTH_CTL.LEVEL ≤ key.maxLevel.val → s.keyInTime key = true →
          ∃ t, exec .verifyComplete s = .next t ∧ t.dbg.chal = false
          ∧ (if Config.ecdsaVerify key.pub s.authMessage s.authResponse = true then
              t.fld F.DBG_SESSION.PATH = s.dbg.verifyPath % 4 ∧ t.fld F.DBG_SESSION.LEVEL = s.fld F.DBG_AUTH_CTL.LEVEL
              ∧ t.flag F.DBG_SESSION.RUN_OK = key.runOk ∧ t.fld F.DBG_AUTH_CTL.RESULT = 0
            else t.fld F.DBG_SESSION.PATH = s.fld F.DBG_SESSION.PATH ∧ t.fld F.DBG_AUTH_CTL.RESULT = 1))
      ∧ (s.dbg.chal = false ∨ (s.flag F.CFG_BOOT_STATUS.UNBOUND = false ∧ s.authKey = none) →
          ∃ t, exec .verifyComplete s = .next t ∧ t.fld F.DBG_AUTH_CTL.RESULT = (if s.dbg.chal then 2 else 6)
          ∧ t.fld F.DBG_SESSION.PATH = s.fld F.DBG_SESSION.PATH ∧ t.fld F.DBG_SESSION.FAILS = min (s.fld F.DBG_SESSION.FAILS + 1) 255
          ∧ (2 ≤ s.fld F.DBG_SESSION.FAILS → t.flag F.DBG_SESSION.LOCKOUT = true ∧ t.dbg.lockUs = s.time.us)))
    ∧ (s.flag F.DBG_SESSION.LOCKOUT = true → s.dbg.lockUs + 60000000 ≤ s.time.us → ∃ t, exec .lockoutExpiry s = .next t
        ∧ t.flag F.DBG_SESSION.LOCKOUT = false ∧ t.fld F.DBG_SESSION.FAILS = 0)
    ∧ (s.time.us < s.dbg.lockUs + 60000000 → exec .lockoutExpiry s = .next s)
    ∧ (s.flag F.DBG_RKP_CTL.BUSY = false → exec .rootKeyProgrammed s = .next s)
    ∧ (s.flag F.DBG_RKP_CTL.BUSY = true → ∃ t, exec .rootKeyProgrammed s = .next t ∧ t.flag F.DBG_RKP_CTL.BUSY = false
        ∧ t.flag F.DBG_RKP_CTL.DONE = true ∧ ∀ i, i < 6 → t.reg (Adr.CFG_ROOTKEY_HASH i) = s.reg (Adr.DBG_RKP_DATA i))

/-- Run control asks for halts, halts at a boundary, steps, releases and clears check-stops; hewers write and read their
terminal. A session at level 2 on a debug path, in a mode where it may halt, asks a running hewer to halt with cause 1 and
every eligible hewer of a gallery or of the device with cause 3; a request already standing keeps its cause. In RUN or
DEGRADED without RUN_OK these, a step and CLR_CHECKSTOP change no hewer. At a boundary with no body a request takes effect:
the hewer is halted with its cause, at the rep of a rep that is left, and holds no reservation, and buffered stores are
performed first; otherwise it waits. STEP lets a halted hewer execute one instruction unmatched; a frozen body refuses it.
CLR_CHECKSTOP halts a check-stopped hewer with cause 5. Outside the service modes a release ends the halt and the first
instruction goes unmatched, and the cross-trigger releases every hewer of its scope. A hewer above U that may execute an IO
access fills its empty VTX once and, by reading VRX, empties it. Rests on: 21_debug.md R765, 21_debug.md R772, 21_debug.md
R773, 21_debug.md R774, 21_debug.md R776, 21_debug.md R777, 21_debug.md R778, 21_debug.md R779, 21_debug.md R780, 21_debug.md
R781, 21_debug.md R788. -/
def Obligations.RunControlOfHewers : Prop :=
  (∀ (p : DbgPath) (h : HewerId) (all : Bool) (g : Fin 64) (s : State),
    let takes := match p with | .jtag => True | .pf => s.pfPathOpen = true ∧ s.flag F.DBG_CTL.PF_EN = true
    let may := s.mode ≠ .run ∧ s.mode ≠ .degraded ∨ s.flag F.DBG_SESSION.RUN_OK = true
    let x := s.hew h
    let fit := fun (j : Nat) => s.removed j = false ∧ (s.hew j).checkStopped = false ∧ (s.hew j).halted = false
      ∧ s.domainOn (shaftDomain j) = true ∧ (s.hew j).started = true
    let inScope := fun (j : Nat) => j < 512 ∧ (all = true ∨ j / 8 = g.val)
    s.domainOn 10 = true → s.mode ≠ .off → takes → s.fld F.DBG_SESSION.PATH = pathCode p → 2 ≤ s.fld F.DBG_SESSION.LEVEL →
      (may → fit h → ∃ t, exec (.halt (.debug p) h) s = .next t ∧ t.hew h = { x with haltReq := some (x.haltReq.getD 1) }
          ∧ ∀ j, j ≠ h.val → t.hew j = s.hew j)
      ∧ (may → ¬ fit h → ∃ t, exec (.halt (.debug p) h) s = .next t ∧ t.hewers = s.hewers)
      ∧ (may → ∃ t, exec (.xtrigHalt (.debug p) all g) s = .next t
          ∧ (∀ j, inScope j → fit j → t.hew j = { s.hew j with haltReq := some ((s.hew j).haltReq.getD 3) })
          ∧ ∀ j, ¬ (inScope j ∧ fit j) → t.hew j = s.hew j)
      ∧ (may → x.halted = true → x.bodyFrozen = false → ∃ t, exec (.step (.debug p) h) s = .next t
          ∧ t.hew h = { x with stepping := true, exempt := true } ∧ ∀ j, j ≠ h.val → t.hew j = s.hew j)
      ∧ (x.halted = true → x.bodyFrozen = true → ∃ t, exec (.step (.debug p) h) s = .next t ∧ t.hewers = s.hewers)
      ∧ (may → x.checkStopped = true → ∃ t, exec (.clrCheckstop (.debug p) h) s = .next t ∧ (t.hew h).halted = true
          ∧ (t.hew h).checkStopped = false ∧ t.fld (F.DBG_HWR_RSTAT.CAUSE h) = 5 ∧ (t.hew h).pc = x.pc ∧ (t.hew h).w = x.w)
      ∧ (¬ may → (∃ t, exec (.halt (.debug p) h) s = .next t ∧ t.hewers = s.hewers)
          ∧ (∃ t, exec (.step (.debug p) h) s = .next t ∧ t.hewers = s.hewers)
          ∧ (∃ t, exec (.clrCheckstop (.debug p) h) s = .next t ∧ t.hewers = s.hewers)
          ∧ ∃ t, exec (.xtrigHalt (.debug p) all g) s = .next t ∧ t.hewers = s.hewers)
      ∧ (x.halted = false → ∃ t, exec (.release (.debug p) h) s = .next t ∧ t.hewers = s.hewers)
      ∧ (s.mode.service = false → x.halted = true → x.bodyFrozen = false → x.forced = false →
          ∃ t, exec (.release (.debug p) h) s = .next t ∧ (t.hew h).halted = false ∧ (t.hew h).exempt = true
            ∧ (t.hew h).stepping = false ∧ (t.hew h).pc = x.pc ∧ (t.hew h).w = x.w ∧ ∀ j, j ≠ h.val → t.hew j = s.hew j)
      ∧ (s.mode.service = false → (∀ j, j < 512 → (all = true ∨ j / 8 = g.val) → (s.hew j).bodyFrozen = false ∧ (s.hew j).forced = false) →
          ∃ t, exec (.xtrigRelease (.debug p) all g) s = .next t ∧ (∀ j, inScope j → (t.hew j).halted = false)
            ∧ ∀ j, ¬ inScope j → t.hew j = s.hew j))
  ∧ (∀ (h : HewerId) (s : State),
    ((s.hew h).haltReq = none → exec (.haltTakesEffect h) s = .next s)
    ∧ (s.haltDue h = false → exec (.haltTakesEffect h) s = .next s)
    ∧ (∀ c, c < 16 → (s.hew h).haltReq = some c → s.haltDue h = true → (s.hew h).body = none → s.mode.service = false →
        ∃ t, exec (.haltTakesEffect h) s = .next t ∧ (t.hew h).halted = true ∧ (t.hew h).haltReq = none
          ∧ (t.hew h).resv = none ∧ (t.hew h).bodyFrozen = false
          ∧ (t.hew h).pc = (s.hew h).rep.getD (s.hew h).pc ∧ (t.hew h).rep = none ∧ t.fld (F.DBG_HWR_RSTAT.CAUSE h) = c
          ∧ (∀ j, j ≠ h.val → { t.hew j with resv := none } = { s.hew j with resv := none })
          ∧ ((s.twin (s.twinOf h)).sbuf = [] → t.mem = s.mem ∧ ∀ j, j ≠ h.val → t.hew j = s.hew j)))
  ∧ ∀ (h : HewerId) (data : Word32) (s : State), 
    (s.executesIo h = false → exec (.vtxWrite h data) s = .next s ∧ exec (.vrxRead h) s = .next s)
    ∧ (s.executesIo h = true → (s.hew h).pl ≠ 0 → s.domainOn 10 = true →
    (s.flag (F.DBG_HWR_VT_STAT.TX_FULL h) = true → exec (.vtxWrite h data) s = .next s)
    ∧ (s.flag (F.DBG_HWR_VT_STAT.TX_FULL h) = false → ∃ t, exec (.vtxWrite h data) s = .next t
        ∧ t.fld (F.DBG_HWR_VTX.DATA h) = data.toNat ∧ t.flag (F.DBG_HWR_VT_STAT.TX_FULL h) = true ∧ t.hewers = s.hewers)
    ∧ exec (.vrxRead h) s = .next (s.setFld (F.DBG_HWR_VT_STAT.RX_FULL h) 0))
end

