-- ==== Sys2Proof/Laws/Table.lean ====
section
/-!
SUPPORT. The laws of the sparse tables: reading after writing, and that writing keeps the canonical form.
-/
namespace Sys2Proof

variable {α : Type}

@[simp] theorem Table.get_nil (d : α) (k : Nat) : Table.get [] d k = d := rfl

theorem Table.get_erase_same (t : Table α) (d : α) (k : Nat) : (t.erase k).get d k = d := by
  induction t with
  | nil => rfl
  | cons e r ih =>
    simp only [Table.erase, List.filter_cons]
    split
    · rename_i hne
      simp only [Table.get]
      rw [if_neg (by simpa using hne)]
      exact ih
    · exact ih

theorem Table.get_erase_other (t : Table α) (d : α) {k j : Nat} (h : j ≠ k) : (t.erase k).get d j = t.get d j := by
  induction t with
  | nil => rfl
  | cons e r ih =>
    simp only [Table.erase, List.filter_cons]
    split
    · simp only [Table.get]
      split
      · rfl
      · exact ih
    · rename_i hk
      have : e.1 = k := by simpa using hk
      simp only [Table.get]
      rw [if_neg (by omega)]
      exact ih

theorem Table.get_insert_other (t : Table α) (d v : α) {k j : Nat} (h : j ≠ k) : (t.insert k v).get d j = t.get d j := by
  induction t with
  | nil => simp [Table.insert, Table.get, h.symm]
  | cons e r ih =>
    simp only [Table.insert]
    split
    · simp [Table.get, h.symm]
    · simp only [Table.get, ih]

theorem Table.get_insert_same (t : Table α) (d v : α) (k : Nat) (h : ∀ e ∈ t, e.1 ≠ k) : (t.insert k v).get d k = v := by
  induction t with
  | nil => simp [Table.insert, Table.get]
  | cons e r ih =>
    simp only [Table.insert]
    split
    · simp [Table.get]
    · simp only [Table.get]
      rw [if_neg (h e (by simp))]
      exact ih (fun x hx => h x (by simp [hx]))

theorem Table.erase_keys (t : Table α) (k : Nat) : ∀ e ∈ t.erase k, e.1 ≠ k := by
  intro e he
  simpa [Table.erase] using (List.mem_filter.mp he).2

/-- Reading what was written. -/
@[simp] theorem Table.get_set_same [DecidableEq α] (t : Table α) (d : α) (k : Nat) (v : α) : (t.set d k v).get d k = v := by
  unfold Table.set
  split
  · rename_i h; rw [Table.get_erase_same, h]
  · exact Table.get_insert_same _ _ _ _ (Table.erase_keys t k)

/-- Writing leaves every other key alone. -/
theorem Table.get_set_other [DecidableEq α] (t : Table α) (d e : α) {k j : Nat} (v : α) (h : j ≠ k) :
    (t.set d k v).get e j = t.get e j := by
  unfold Table.set
  split
  · exact Table.get_erase_other _ _ h
  · rw [Table.get_insert_other _ _ _ h, Table.get_erase_other _ _ h]

/-! ### The canonical form -/

theorem Table.wf_iff [DecidableEq α] (t : Table α) (d : Nat → α) :
    t.wf d = true ↔ List.Pairwise (fun a b => a.1 < b.1) t ∧ ∀ e ∈ t, e.2 ≠ d e.1 := by
  have hs : ∀ (l : Table α), l.sorted = true ↔ List.Pairwise (fun a b => a.1 < b.1) l := by
    intro l
    induction l with
    | nil => simp [Table.sorted]
    | cons e r ih => obtain ⟨a, b⟩ := e; simp [Table.sorted, ih]
  simp [Table.wf, hs]

theorem Table.wf_filter [DecidableEq α] (t : Table α) (d : Nat → α) (p : Nat × α → Bool) (h : t.wf d = true) :
    Table.wf (t.filter p) d = true := by
  rw [Table.wf_iff] at *
  exact ⟨h.1.filter p, fun e he => h.2 e ((List.mem_filter.mp he).1)⟩

theorem Table.mem_insert (t : Table α) (k : Nat) (v : α) (e : Nat × α) (h : e ∈ t.insert k v) : e = (k, v) ∨ e ∈ t := by
  induction t with
  | nil => simpa [Table.insert] using h
  | cons x r ih =>
    simp only [Table.insert] at h
    split at h
    · simpa using h
    · rcases List.mem_cons.mp h with h | h
      · exact .inr (by simp [h])
      · rcases ih h with h | h
        · exact .inl h
        · exact .inr (by simp [h])

theorem Table.sorted_insert (t : Table α) (k : Nat) (v : α) (hs : List.Pairwise (fun a b => a.1 < b.1) t)
    (hk : ∀ e ∈ t, e.1 ≠ k) : List.Pairwise (fun a b => a.1 < b.1) (t.insert k v) := by
  induction t with
  | nil => simp [Table.insert]
  | cons x r ih =>
    have hx := List.pairwise_cons.mp hs
    have hne := hk x (by simp)
    simp only [Table.insert]
    split
    · rename_i hlt
      refine List.pairwise_cons.mpr ⟨fun e he => ?_, hs⟩
      rcases List.mem_cons.mp he with rfl | he
      · exact hlt
      · exact Nat.lt_trans hlt (hx.1 e he)
    · rename_i hge
      refine List.pairwise_cons.mpr ⟨fun e he => ?_, ih hx.2 (fun e he => hk e (by simp [he]))⟩
      rcases Table.mem_insert r k v e he with rfl | he
      · simp only at hge ⊢; omega
      · exact hx.1 e he

/-- Writing keeps the canonical form. -/
theorem Table.wf_set [DecidableEq α] (t : Table α) (d : Nat → α) (k : Nat) (v : α) (h : t.wf d = true) :
    (t.set (d k) k v).wf d = true := by
  have he : (t.erase k).wf d = true := Table.wf_filter t d _ h
  unfold Table.set
  split
  · exact he
  · rename_i hv
    rw [Table.wf_iff] at *
    refine ⟨Table.sorted_insert _ k v he.1 (Table.erase_keys t k), fun e hm => ?_⟩
    rcases Table.mem_insert _ k v e hm with rfl | hm
    · exact hv
    · exact he.2 e hm

/-- Changing every entry, and dropping those that come to the default, keeps the canonical form. -/
theorem Table.wf_mapKept [DecidableEq α] (t : Table α) (d : α) (f : Nat → α → α) (h : t.wf (fun _ => d) = true) :
    Table.wf (t.filterMap (fun (e : Nat × α) =>
      let x := f e.1 e.2
      if x = d then none else some (e.1, x))) (fun _ => d) = true := by
  rw [Table.wf_iff] at *
  refine ⟨List.pairwise_filterMap.mpr (h.1.imp ?_), fun e he => ?_⟩
  · intro a b hab x hx y hy
    dsimp only at hx hy
    split at hx
    · simp at hx
    · split at hy
      · simp at hy
      · simp only [Option.some.injEq] at hx hy
        rw [← hx, ← hy]; exact hab
  · obtain ⟨a, _, ha⟩ := List.mem_filterMap.mp he
    dsimp only at ha
    split at ha
    · simp at ha
    · rename_i hne
      simp only [Option.some.injEq] at ha
      rw [← ha]; exact hne

/-- Setting every key below `n`, and dropping those that come to the default, keeps the canonical form. -/
theorem Table.wf_mapBelow [DecidableEq α] (t : Table α) (d : α) (n : Nat) (g : Nat → α) (h : t.wf (fun _ => d) = true) :
    Table.wf (((List.range n).map (fun k => (k, g k))).filter (fun e => decide (e.2 ≠ d))
      ++ t.filter (fun e => decide (n ≤ e.1))) (fun _ => d) = true := by
  rw [Table.wf_iff] at *
  have hs : List.Pairwise (fun a b : Nat × α => a.1 < b.1) ((List.range n).map (fun k => (k, g k))) :=
    List.pairwise_map.mpr List.pairwise_lt_range
  refine ⟨List.pairwise_append.mpr ⟨hs.filter _, h.1.filter _, ?_⟩, fun e he => ?_⟩
  · intro a ha b hb
    obtain ⟨k, hk, rfl⟩ := List.mem_map.mp (List.mem_filter.mp ha).1
    have hb := (List.mem_filter.mp hb).2
    have hk := List.mem_range.mp hk
    simp only [decide_eq_true_eq] at hb
    exact Nat.lt_of_lt_of_le hk hb
  · rcases List.mem_append.mp he with he | he
    · simpa using (List.mem_filter.mp he).2
    · exact h.2 e (List.mem_filter.mp he).1

@[simp] theorem Table.wf_nil [DecidableEq α] (d : Nat → α) : Table.wf ([] : Table α) d = true := rfl

/-! ### Writing twice, and writing what is there -/

theorem Table.erase_of_not_mem (t : Table α) (k : Nat) (h : ∀ e ∈ t, e.1 ≠ k) : t.erase k = t := by
  unfold Table.erase
  exact List.filter_eq_self.mpr (fun e he => by simpa using h e he)

theorem Table.erase_insert (t : Table α) (k : Nat) (v : α) (h : ∀ e ∈ t, e.1 ≠ k) : (t.insert k v).erase k = t := by
  induction t with
  | nil => simp [Table.insert, Table.erase]
  | cons x r ih =>
    have hx := h x (by simp)
    have hr : ∀ e ∈ r, e.1 ≠ k := fun e he => h e (by simp [he])
    have h1 : Table.erase r k = r := Table.erase_of_not_mem r k hr
    simp only [Table.insert]
    split
    · simp only [Table.erase, List.filter_cons] at h1 ⊢
      simp [hx, h1]
    · have h2 := ih hr
      simp only [Table.erase, List.filter_cons] at h2 ⊢
      simp [hx, h2]

theorem Table.erase_erase (t : Table α) (k : Nat) : (t.erase k).erase k = t.erase k :=
  Table.erase_of_not_mem _ _ (Table.erase_keys t k)

/-- The later of two writes of one key stands. -/
theorem Table.set_set [DecidableEq α] (t : Table α) (d : α) (k : Nat) (v w : α) : (t.set d k v).set d k w = t.set d k w := by
  have : (t.set d k v).erase k = t.erase k := by
    unfold Table.set
    split
    · exact Table.erase_erase t k
    · exact Table.erase_insert _ _ _ (Table.erase_keys t k)
  unfold Table.set at this ⊢
  rw [this]

theorem Table.get_of_not_mem (t : Table α) (d : α) (k : Nat) (h : ∀ e ∈ t, e.1 ≠ k) : t.get d k = d := by
  induction t with
  | nil => rfl
  | cons x r ih =>
    simp only [Table.get]
    rw [if_neg (h x (by simp))]
    exact ih (fun e he => h e (by simp [he]))

theorem Table.insert_erase_get (t : Table α) (d : α) (k : Nat) (hs : List.Pairwise (fun a b => a.1 < b.1) t)
    (hm : ∃ e ∈ t, e.1 = k) : (t.erase k).insert k (t.get d k) = t := by
  induction t with
  | nil => simp at hm
  | cons x r ih =>
    have hx := List.pairwise_cons.mp hs
    by_cases hk : x.1 = k
    · have hr : ∀ e ∈ r, e.1 ≠ k := fun e he => by have := hx.1 e he; omega
      have h1 : Table.erase r k = r := Table.erase_of_not_mem r k hr
      have hg : Table.get (x :: r) d k = x.2 := by simp only [Table.get]; rw [if_pos hk]
      have he : Table.erase (x :: r) k = r := by
        simp only [Table.erase, List.filter_cons] at h1 ⊢; simp [hk, h1]
      rw [hg, he]
      cases r with
      | nil => simp [Table.insert, ← hk]
      | cons y r' =>
        have := hx.1 y (by simp)
        simp only [Table.insert]
        rw [if_pos (by omega)]
        simp [← hk]
    · have hm' : ∃ e ∈ r, e.1 = k := by
        obtain ⟨e, he, hek⟩ := hm
        rcases List.mem_cons.mp he with rfl | he
        · exact absurd hek hk
        · exact ⟨e, he, hek⟩
      have hg : Table.get (x :: r) d k = Table.get r d k := by simp only [Table.get]; rw [if_neg hk]
      have he : Table.erase (x :: r) k = x :: Table.erase r k := by
        simp only [Table.erase, List.filter_cons]; simp [hk]
      rw [hg, he]
      simp only [Table.insert]
      obtain ⟨e, her, hek⟩ := hm'
      have := hx.1 e her
      rw [if_neg (by omega), ih hx.2 ⟨e, her, hek⟩]

/-- Writing what a key of a canonical table already holds changes nothing. -/
theorem Table.set_get_same [DecidableEq α] (t : Table α) (d : α) (k : Nat) (h : t.wf (fun _ => d) = true) :
    t.set d k (t.get d k) = t := by
  rw [Table.wf_iff] at h
  by_cases hm : ∃ e ∈ t, e.1 = k
  · have hv : t.get d k ≠ d := by
      obtain ⟨e, he, hek⟩ := hm
      have : ∀ (l : Table α), List.Pairwise (fun a b => a.1 < b.1) l → e ∈ l → Table.get l d k = e.2 := by
        intro l hl hel
        induction l with
        | nil => simp at hel
        | cons x r ih =>
          have hx := List.pairwise_cons.mp hl
          simp only [Table.get]
          rcases List.mem_cons.mp hel with rfl | her
          · rw [if_pos hek]
          · have := hx.1 e her
            rw [if_neg (by omega)]
            exact ih hx.2 her
      rw [this t h.1 he]
      exact h.2 e he
    unfold Table.set
    rw [if_neg hv]
    exact Table.insert_erase_get t d k h.1 hm
  · have hn : ∀ e ∈ t, e.1 ≠ k := fun e he hek => hm ⟨e, he, hek⟩
    rw [Table.get_of_not_mem t d k hn]
    unfold Table.set
    rw [if_pos rfl]
    exact Table.erase_of_not_mem t k hn

end Sys2Proof
end

