-- ==== Sys2Proof/Laws/Bits.lean ====
section
/-!
SUPPORT. Bit fields of numbers and of IO registers: what reading and writing them does, bit by bit.
-/
namespace Sys2Proof.Machine

theorem testBit_bitsOf (v hi lo i : Nat) : (bitsOf v hi lo).testBit i = (decide (i < hi + 1 - lo) && v.testBit (lo + i)) := by
  unfold bitsOf
  rw [Nat.testBit_mod_two_pow, Nat.testBit_div_two_pow, Nat.add_comm i lo]

theorem bitsOf_lt (v hi lo : Nat) : bitsOf v hi lo < 2 ^ (hi + 1 - lo) := Nat.mod_lt _ (Nat.two_pow_pos _)

/-- A number with a field replaced, as its three parts. -/
theorem setBits_parts (v hi lo x : Nat) (h : lo ≤ hi + 1) :
    setBits v hi lo x = 2 ^ (hi + 1) * (v / 2 ^ (hi + 1)) + (2 ^ lo * (x % 2 ^ (hi + 1 - lo)) + v % 2 ^ lo) := by
  have e : 2 ^ (hi + 1) = 2 ^ lo * 2 ^ (hi + 1 - lo) := by rw [← Nat.pow_add]; congr 1; omega
  have h1 : v / 2 ^ lo / 2 ^ (hi + 1 - lo) = v / 2 ^ (hi + 1) := by rw [Nat.div_div_eq_div_mul, ← e]
  have h2 := Nat.div_add_mod v (2 ^ lo)
  have h3 := Nat.div_add_mod (v / 2 ^ lo) (2 ^ (hi + 1 - lo))
  have h4 : v = 2 ^ (hi + 1) * (v / 2 ^ (hi + 1)) + 2 ^ lo * bitsOf v hi lo + v % 2 ^ lo := by
    unfold bitsOf
    conv => lhs; rw [← h2, ← h3, h1]
    rw [e, Nat.mul_add, Nat.mul_assoc]
  unfold setBits
  have h5 : bitsOf v hi lo * 2 ^ lo = 2 ^ lo * bitsOf v hi lo := Nat.mul_comm _ _
  have h6 : x % 2 ^ (hi + 1 - lo) * 2 ^ lo = 2 ^ lo * (x % 2 ^ (hi + 1 - lo)) := Nat.mul_comm _ _
  rw [h5, h6]
  generalize 2 ^ lo * bitsOf v hi lo = p at h4 ⊢
  generalize 2 ^ (hi + 1) * (v / 2 ^ (hi + 1)) = q at h4 ⊢
  generalize v % 2 ^ lo = r at h4 ⊢
  omega

theorem testBit_setBits (v hi lo x i : Nat) (h : lo ≤ hi + 1) :
    (setBits v hi lo x).testBit i = if lo ≤ i ∧ i ≤ hi then x.testBit (i - lo) else v.testBit i := by
  have e : 2 ^ (hi + 1) = 2 ^ lo * 2 ^ (hi + 1 - lo) := by rw [← Nat.pow_add]; congr 1; omega
  have hr : v % 2 ^ lo < 2 ^ lo := Nat.mod_lt _ (Nat.two_pow_pos _)
  have hx : x % 2 ^ (hi + 1 - lo) < 2 ^ (hi + 1 - lo) := Nat.mod_lt _ (Nat.two_pow_pos _)
  have hlow : 2 ^ lo * (x % 2 ^ (hi + 1 - lo)) + v % 2 ^ lo < 2 ^ (hi + 1) := by
    rw [e]
    calc 2 ^ lo * (x % 2 ^ (hi + 1 - lo)) + v % 2 ^ lo
        < 2 ^ lo * (x % 2 ^ (hi + 1 - lo)) + 2 ^ lo := Nat.add_lt_add_left hr _
      _ = 2 ^ lo * (x % 2 ^ (hi + 1 - lo) + 1) := by rw [Nat.mul_add, Nat.mul_one]
      _ ≤ 2 ^ lo * 2 ^ (hi + 1 - lo) := Nat.mul_le_mul_left _ hx
  rw [setBits_parts v hi lo x h, Nat.testBit_two_pow_mul_add _ hlow, Nat.testBit_two_pow_mul_add _ hr]
  simp only [Nat.testBit_mod_two_pow, Nat.testBit_div_two_pow]
  by_cases h1 : i < hi + 1
  · by_cases h2 : i < lo
    · have : ¬ (lo ≤ i ∧ i ≤ hi) := by omega
      simp [h1, h2, this]
    · have h3 : lo ≤ i ∧ i ≤ hi := by omega
      have h4 : i - lo < hi + 1 - lo := by omega
      simp [h1, h2, h3, h4]
  · have : ¬ (lo ≤ i ∧ i ≤ hi) := by omega
    have h5 : i - (hi + 1) + (hi + 1) = i := by omega
    simp [h1, this, h5]

/-- Reading the field just written gives the value, cut to its width. -/
theorem bitsOf_setBits_same (v hi lo x : Nat) (h : lo ≤ hi + 1) : bitsOf (setBits v hi lo x) hi lo = x % 2 ^ (hi + 1 - lo) := by
  apply Nat.eq_of_testBit_eq
  intro i
  rw [testBit_bitsOf, testBit_setBits _ _ _ _ _ h, Nat.testBit_mod_two_pow]
  by_cases hi' : i < hi + 1 - lo
  · have : lo ≤ lo + i ∧ lo + i ≤ hi := by omega
    simp [hi', this]
  · simp [hi']

/-- A field that shares no bit with the one written reads as before. -/
theorem bitsOf_setBits_other (v hi lo x hi' lo' : Nat) (h : lo ≤ hi + 1) (hd : hi < lo' ∨ hi' < lo) :
    bitsOf (setBits v hi lo x) hi' lo' = bitsOf v hi' lo' := by
  apply Nat.eq_of_testBit_eq
  intro i
  rw [testBit_bitsOf, testBit_bitsOf, testBit_setBits _ _ _ _ _ h]
  by_cases hi2 : i < hi' + 1 - lo'
  · have : ¬ (lo ≤ lo' + i ∧ lo' + i ≤ hi) := by omega
    simp [this]
  · simp [hi2]

theorem setBits_lt (v hi lo x n : Nat) (h : lo ≤ hi + 1) (hv : v < 2 ^ n) (hn : hi < n) : setBits v hi lo x < 2 ^ n := by
  apply Nat.lt_pow_two_of_testBit
  intro i hi2
  rw [testBit_setBits _ _ _ _ _ h]
  have : ¬ (lo ≤ i ∧ i ≤ hi) := by omega
  rw [if_neg this]
  exact Nat.testBit_lt_two_pow (Nat.lt_of_lt_of_le hv (Nat.pow_le_pow_right (by omega) hi2))

/-! ### Fields of IO registers -/

/-- A field lies in its 64-bit register. -/
def IoField.ok (f : IoField) : Prop := f.lo ≤ f.hi ∧ f.hi < 64

theorem State.reg_setFld (s : State) (f : IoField) (v : Nat) (h : f.ok) :
    ((s.setFld f v).reg f.addr).toNat = setBits (s.reg f.addr).toNat f.hi f.lo v := by
  have hr : (s.setFld f v).reg f.addr = BitVec.ofNat 64 (setBits (s.reg f.addr).toNat f.hi f.lo v) := by
    unfold State.setFld State.reg State.setReg
    exact Table.get_set_same _ _ _ _
  rw [hr, BitVec.toNat_ofNat, Nat.mod_eq_of_lt]
  exact setBits_lt _ _ _ _ 64 (by have := h.1; omega) (BitVec.isLt _) h.2

/-- A field just written reads as the value, cut to its width. -/
theorem State.fld_setFld_same (s : State) (f : IoField) (v : Nat) (h : f.ok) :
    (s.setFld f v).fld f = v % 2 ^ (f.hi + 1 - f.lo) := by
  unfold State.fld
  rw [State.reg_setFld s f v h]
  exact bitsOf_setBits_same _ _ _ _ (by have := h.1; omega)

/-- A field of another register, or one that shares no bit, reads as before. -/
theorem State.fld_setFld_other (s : State) (f g : IoField) (v : Nat) (h : f.ok) (hd : g.addr ≠ f.addr ∨ f.hi < g.lo ∨ g.hi < f.lo) :
    (s.setFld f v).fld g = s.fld g := by
  by_cases ha : g.addr = f.addr
  · have hd' : f.hi < g.lo ∨ g.hi < f.lo := by
      rcases hd with h1 | h1
      · exact absurd ha h1
      · exact h1
    unfold State.fld
    rw [ha, State.reg_setFld s f v h]
    exact bitsOf_setBits_other _ _ _ _ _ _ (by have := h.1; omega) hd'
  · unfold State.fld State.setFld State.reg State.setReg
    rw [Table.get_set_other _ _ _ _ ha]

theorem State.flag_raise (s : State) (f : IoField) (h : f.ok) : (s.raise f).flag f = true := by
  unfold State.flag State.raise
  rw [State.fld_setFld_same s f 1 h]
  have : (1 : Nat) % 2 ^ (f.hi + 1 - f.lo) = 1 := Nat.mod_eq_of_lt (Nat.one_lt_two_pow (by have := h.1; omega))
  rw [this]
  rfl

/-- A counter saturates at all ones of its field. -/
theorem State.fld_count (s : State) (f : IoField) (n : Nat) (h : f.ok) :
    (s.count f n).fld f = min (s.fld f + n) (2 ^ (f.hi + 1 - f.lo) - 1) := by
  have hp := Nat.two_pow_pos (f.hi + 1 - f.lo)
  unfold State.count
  simp only
  rw [State.fld_setFld_same _ _ _ h]
  split
  · rw [Nat.mod_eq_of_lt (by omega)]; omega
  · rw [Nat.mod_eq_of_lt (by omega)]; omega

theorem State.fld_count_other (s : State) (f g : IoField) (n : Nat) (h : f.ok)
    (hd : g.addr ≠ f.addr ∨ f.hi < g.lo ∨ g.hi < f.lo) : (s.count f n).fld g = s.fld g :=
  State.fld_setFld_other s f g _ h hd

end Sys2Proof.Machine
end

