-- ==== Sys2Proof/Laws/Caches.lean ====
section
/-! SUPPORT. The caches and the memory controllers hold tags, rows and queues only: an access changes the two fields `mc` and `twins`
of the state and no other, so that no byte of memory, register or hewer depends on them. -/

namespace Sys2Proof.Machine

/-- The state without what the caches and the memory controllers hold. -/
def State.core (s : State) : State := { s with mc := State.reset.mc, twins := [] }

/-- The states agree but for what the caches and the memory controllers hold. -/
def CachesOf (s0 s : State) : Prop := s.core = s0.core

theorem caches_mc {s0 s : State} {m : McState} (h : CachesOf s0 s) : CachesOf s0 { s with mc := m } := h
theorem caches_twins {s0 s : State} {t : Table Twin} (h : CachesOf s0 s) : CachesOf s0 { s with twins := t } := h

theorem foldl_caches {s0 : State} {β : Type} (f : State → β → State) (l : List β) (s : State)
    (hf : ∀ t x, CachesOf s0 t → CachesOf s0 (f t x)) (h : CachesOf s0 s) : CachesOf s0 (l.foldl f s) := by
  induction l generalizing s with
  | nil => exact h
  | cons x r ih => exact ih _ (hf _ _ h)

theorem State.setTwin_caches {s0 : State} (s : State) (t : Nat) (x : Twin) (h_s : CachesOf s0 s) : CachesOf s0 (State.setTwin s t x) :=
    by
  unfold State.setTwin
  try dsimp only
  repeat' (first | with_reducible assumption | (intro _) | split | with_reducible apply caches_mc | with_reducible apply caches_twins)

theorem State.modTwin_caches {s0 : State} (s : State) (t : Nat) (f : Twin → Twin) (h_s : CachesOf s0 s) : CachesOf s0 (State.modTwin s t
    f) := by
  unfold State.modTwin
  try dsimp only
  repeat' (first | with_reducible assumption | with_reducible apply State.setTwin_caches | (intro _) | split |
                 with_reducible apply caches_mc | with_reducible apply caches_twins)

theorem State.setDchan_caches {s0 : State} (s : State) (c : Nat) (x : Channel) (h_s : CachesOf s0 s) : CachesOf s0 (State.setDchan s c
    x) := by
  unfold State.setDchan
  try dsimp only
  repeat' (first | with_reducible assumption | (intro _) | split | with_reducible apply caches_mc | with_reducible apply caches_twins)

theorem State.setBank_caches {s0 : State} (s : State) (c b : Nat) (x : BankState) (h_s : CachesOf s0 s) : CachesOf s0 (State.setBank s c
    b x) := by
  unfold State.setBank
  try dsimp only
  repeat' (first | with_reducible assumption | with_reducible apply State.setDchan_caches | (intro _) | split |
                 with_reducible apply caches_mc | with_reducible apply caches_twins)

theorem State.modBank_caches {s0 : State} (s : State) (c b : Nat) (f : BankState → BankState) (h_s : CachesOf s0 s) : CachesOf s0
    (State.modBank s c b f) := by
  unfold State.modBank
  try dsimp only
  repeat' (first | with_reducible assumption | with_reducible apply State.setBank_caches | (intro _) | split |
                 with_reducible apply caches_mc | with_reducible apply caches_twins)

theorem State.accessRow_caches {s0 : State} (s : State) (c b row : Nat) (h_s : CachesOf s0 s) : CachesOf s0 (State.accessRow s c b row)
    := by
  unfold State.accessRow
  try dsimp only
  repeat' (first | with_reducible assumption | with_reducible apply State.modBank_caches | (intro _) | split |
                 with_reducible apply caches_mc | with_reducible apply caches_twins)

theorem State.closeRows_caches {s0 : State} (s : State) (c : Nat) (h_s : CachesOf s0 s) : CachesOf s0 (State.closeRows s c) := by
  unfold State.closeRows
  try dsimp only
  repeat' (first | with_reducible assumption | with_reducible apply State.setDchan_caches | (intro _) | split |
                 with_reducible apply caches_mc | with_reducible apply caches_twins)

theorem State.reqPut_caches {s0 : State} (s : State) (line src : Nat) (write : Bool) (h_s : CachesOf s0 s) : CachesOf s0 (State.reqPut s
    line src write) := by
  unfold State.reqPut
  try dsimp only
  repeat' (first | with_reducible assumption | with_reducible apply State.setDchan_caches | (intro _) | split |
                 with_reducible apply caches_mc | with_reducible apply caches_twins)

theorem State.mscUse_caches {s0 : State} (s : State) (line src : Nat) (write whole : Bool) (h_s : CachesOf s0 s) : CachesOf s0
    (State.mscUse s line src write whole) := by
  unfold State.mscUse
  try dsimp only
  repeat' (first | with_reducible assumption | with_reducible apply State.reqPut_caches | with_reducible apply foldl_caches | (intro _)
                 | split | with_reducible apply caches_mc | with_reducible apply caches_twins)

theorem State.mscDrop_caches {s0 : State} (s : State) (p : Nat → Bool) (h_s : CachesOf s0 s) : CachesOf s0 (State.mscDrop s p) := by
  unfold State.mscDrop
  try dsimp only
  repeat' (first | with_reducible assumption | with_reducible apply State.reqPut_caches | with_reducible apply foldl_caches | (intro _)
                 | split | with_reducible apply caches_mc | with_reducible apply caches_twins)

theorem State.galleryDrop_caches {s0 : State} (s : State) (g line : Nat) (keep : Option Nat) (h_s : CachesOf s0 s) : CachesOf s0
    (State.galleryDrop s g line keep) := by
  unfold State.galleryDrop
  try dsimp only
  repeat' (first | with_reducible assumption | with_reducible apply State.modTwin_caches | with_reducible apply foldl_caches | (intro _)
                 | split | with_reducible apply caches_mc | with_reducible apply caches_twins)

theorem State.galleryClean_caches {s0 : State} (s : State) (g line : Nat) (keep : Option Nat) (h_s : CachesOf s0 s) : CachesOf s0
    (State.galleryClean s g line keep) := by
  unfold State.galleryClean
  try dsimp only
  repeat' (first | with_reducible assumption | with_reducible apply State.modTwin_caches | with_reducible apply foldl_caches | (intro _)
                 | split | with_reducible apply caches_mc | with_reducible apply caches_twins)

theorem State.setL2_caches {s0 : State} (s : State) (g line : Nat) (l : List L2Line) (h_s : CachesOf s0 s) : CachesOf s0 (State.setL2 s
    g line l) := by
  unfold State.setL2
  try dsimp only
  repeat' (first | with_reducible assumption | (intro _) | split | with_reducible apply caches_mc | with_reducible apply caches_twins)

theorem State.l2Mod_caches {s0 : State} (s : State) (g line : Nat) (f : L2Line → L2Line) (h_s : CachesOf s0 s) : CachesOf s0
    (State.l2Mod s g line f) := by
  unfold State.l2Mod
  try dsimp only
  repeat' (first | with_reducible assumption | with_reducible apply State.setL2_caches | (intro _) | split |
                 with_reducible apply caches_mc | with_reducible apply caches_twins)

theorem State.setDir_caches {s0 : State} (s : State) (line : Nat) (d : DirLine) (h_s : CachesOf s0 s) : CachesOf s0 (State.setDir s line
    d) := by
  unfold State.setDir
  try dsimp only
  repeat' (first | with_reducible assumption | (intro _) | split | with_reducible apply caches_mc | with_reducible apply caches_twins)

theorem State.l2WriteBack_caches {s0 : State} (s : State) (g line src : Nat) (h_s : CachesOf s0 s) : CachesOf s0 (State.l2WriteBack s g
    line src) := by
  unfold State.l2WriteBack
  try dsimp only
  repeat' (first | with_reducible assumption | with_reducible apply State.mscUse_caches | with_reducible apply State.galleryClean_caches
                 | with_reducible apply State.l2Mod_caches | (intro _) | split | with_reducible apply caches_mc |
                 with_reducible apply caches_twins)

theorem State.l2Drop_caches {s0 : State} (s : State) (g line src : Nat) (keepTag : Bool) (h_s : CachesOf s0 s) : CachesOf s0
    (State.l2Drop s g line src keepTag) := by
  unfold State.l2Drop
  try dsimp only
  repeat' (first | with_reducible assumption | with_reducible apply State.galleryDrop_caches | with_reducible apply State.setL2_caches |
                 with_reducible apply State.setDir_caches | with_reducible apply State.l2WriteBack_caches | (intro _) | split |
                 with_reducible apply caches_mc | with_reducible apply caches_twins)

theorem State.invalidateLine_caches {s0 : State} (s : State) (line src : Nat) (keep : Option Nat) (h_s : CachesOf s0 s) : CachesOf s0
    (State.invalidateLine s line src keep) := by
  unfold State.invalidateLine
  try dsimp only
  repeat' (first | with_reducible assumption | with_reducible apply State.l2Drop_caches | with_reducible apply foldl_caches | (intro _)
                 | split | with_reducible apply caches_mc | with_reducible apply caches_twins)

theorem State.shareLine_caches {s0 : State} (s : State) (line src : Nat) (h_s : CachesOf s0 s) : CachesOf s0 (State.shareLine s line
    src) := by
  unfold State.shareLine
  try dsimp only
  repeat' (first | with_reducible assumption | with_reducible apply State.setDir_caches | with_reducible apply State.l2WriteBack_caches
                 | with_reducible apply foldl_caches | (intro _) | split | with_reducible apply caches_mc |
                 with_reducible apply caches_twins)

theorem State.l2Place_caches {s0 : State} (s : State) (g line w src : Nat) (h_s : CachesOf s0 s) : CachesOf s0 (State.l2Place s g line w
    src) := by
  unfold State.l2Place
  try dsimp only
  repeat' (first | with_reducible assumption | with_reducible apply State.setL2_caches | with_reducible apply State.l2Drop_caches |
                 (intro _) | split | with_reducible apply caches_mc | with_reducible apply caches_twins)

theorem State.l2Get_caches {s0 : State} (s : State) (g line cls src : Nat) (write : Bool) (h_s : CachesOf s0 s) : CachesOf s0
    (State.l2Get s g line cls src write).1 := by
  unfold State.l2Get
  try dsimp only
  repeat' (first | with_reducible assumption | with_reducible apply State.mscUse_caches | with_reducible apply State.setL2_caches |
                 with_reducible apply State.setDir_caches | with_reducible apply State.invalidateLine_caches |
                 with_reducible apply State.shareLine_caches | with_reducible apply State.l2Place_caches | (intro _) | split |
                 with_reducible apply caches_mc | with_reducible apply caches_twins)

theorem State.hubUse_caches {s0 : State} (s : State) (line src : Nat) (write : Bool) (h_s : CachesOf s0 s) : CachesOf s0 (State.hubUse s
    line src write) := by
  unfold State.hubUse
  try dsimp only
  repeat' (first | with_reducible assumption | with_reducible apply State.mscUse_caches |
                 with_reducible apply State.invalidateLine_caches | with_reducible apply State.shareLine_caches | (intro _) | split |
                 with_reducible apply caches_mc | with_reducible apply caches_twins)

theorem State.hubAccess_caches {s0 : State} (s : State) (a n src : Nat) (write : Bool) (h_s : CachesOf s0 s) : CachesOf s0
    (State.hubAccess s a n src write) := by
  unfold State.hubAccess
  try dsimp only
  repeat' (first | with_reducible assumption | with_reducible apply State.hubUse_caches | with_reducible apply foldl_caches | (intro _)
                 | split | with_reducible apply caches_mc | with_reducible apply caches_twins)

theorem State.galleryFlush_caches {s0 : State} (s : State) (g : Nat) (p : L2Line → Bool) (h_s : CachesOf s0 s) : CachesOf s0
    (State.galleryFlush s g p) := by
  unfold State.galleryFlush
  try dsimp only
  repeat' (first | with_reducible assumption | with_reducible apply State.setL2_caches | with_reducible apply State.l2Drop_caches |
                 with_reducible apply foldl_caches | (intro _) | split | with_reducible apply caches_mc |
                 with_reducible apply caches_twins)

/-! States that agree so hold the same everything else. -/

theorem CachesOf.regs {s0 s : State} (h : CachesOf s0 s) : s.regs = s0.regs := (congrArg State.regs (show s.core = s0.core from h) :)
theorem CachesOf.time {s0 s : State} (h : CachesOf s0 s) : s.time = s0.time := (congrArg State.time (show s.core = s0.core from h) :)
theorem CachesOf.pwr {s0 s : State} (h : CachesOf s0 s) : s.pwr = s0.pwr := (congrArg State.pwr (show s.core = s0.core from h) :)
theorem CachesOf.can {s0 s : State} (h : CachesOf s0 s) : s.can = s0.can := (congrArg State.can (show s.core = s0.core from h) :)
theorem CachesOf.lode {s0 s : State} (h : CachesOf s0 s) : s.lode = s0.lode := (congrArg State.lode (show s.core = s0.core from h) :)
theorem CachesOf.drt {s0 s : State} (h : CachesOf s0 s) : s.drt = s0.drt := (congrArg State.drt (show s.core = s0.core from h) :)
theorem CachesOf.hewers {s0 s : State} (h : CachesOf s0 s) : s.hewers = s0.hewers := (congrArg State.hewers (show s.core = s0.core from h) :)
theorem CachesOf.cdt {s0 s : State} (h : CachesOf s0 s) : s.cdt = s0.cdt := (congrArg State.cdt (show s.core = s0.core from h) :)
theorem CachesOf.mem {s0 s : State} (h : CachesOf s0 s) : s.mem = s0.mem := (congrArg State.mem (show s.core = s0.core from h) :)
theorem CachesOf.flt {s0 s : State} (h : CachesOf s0 s) : s.flt = s0.flt := (congrArg State.flt (show s.core = s0.core from h) :)
theorem CachesOf.plk {s0 s : State} (h : CachesOf s0 s) : s.plk = s0.plk := (congrArg State.plk (show s.core = s0.core from h) :)
theorem CachesOf.skp {s0 s : State} (h : CachesOf s0 s) : s.skp = s0.skp := (congrArg State.skp (show s.core = s0.core from h) :)
theorem CachesOf.skLast {s0 s : State} (h : CachesOf s0 s) : s.skLast = s0.skLast := (congrArg State.skLast (show s.core = s0.core from h) :)
theorem CachesOf.adt {s0 s : State} (h : CachesOf s0 s) : s.adt = s0.adt := (congrArg State.adt (show s.core = s0.core from h) :)
theorem CachesOf.anm {s0 s : State} (h : CachesOf s0 s) : s.anm = s0.anm := (congrArg State.anm (show s.core = s0.core from h) :)
theorem CachesOf.hep {s0 s : State} (h : CachesOf s0 s) : s.hep = s0.hep := (congrArg State.hep (show s.core = s0.core from h) :)
theorem CachesOf.dbg {s0 s : State} (h : CachesOf s0 s) : s.dbg = s0.dbg := (congrArg State.dbg (show s.core = s0.core from h) :)
theorem CachesOf.freeCtr {s0 s : State} (h : CachesOf s0 s) : s.freeCtr = s0.freeCtr := (congrArg State.freeCtr (show s.core = s0.core from h) :)
theorem CachesOf.out {s0 s : State} (h : CachesOf s0 s) : s.out = s0.out := (congrArg State.out (show s.core = s0.core from h) :)
theorem CachesOf.pending {s0 s : State} (h : CachesOf s0 s) : s.pending = s0.pending := (congrArg State.pending (show s.core = s0.core from h) :)

/-! What an access at the hub leaves alone. -/

@[simp] theorem State.hubAccess_regs (s : State) (a n src : Nat) (write : Bool) : (s.hubAccess a n src write).regs = s.regs :=
  CachesOf.regs (State.hubAccess_caches s a n src write rfl)
@[simp] theorem State.hubAccess_time (s : State) (a n src : Nat) (write : Bool) : (s.hubAccess a n src write).time = s.time :=
  CachesOf.time (State.hubAccess_caches s a n src write rfl)
@[simp] theorem State.hubAccess_pwr (s : State) (a n src : Nat) (write : Bool) : (s.hubAccess a n src write).pwr = s.pwr :=
  CachesOf.pwr (State.hubAccess_caches s a n src write rfl)
@[simp] theorem State.hubAccess_can (s : State) (a n src : Nat) (write : Bool) : (s.hubAccess a n src write).can = s.can :=
  CachesOf.can (State.hubAccess_caches s a n src write rfl)
@[simp] theorem State.hubAccess_lode (s : State) (a n src : Nat) (write : Bool) : (s.hubAccess a n src write).lode = s.lode :=
  CachesOf.lode (State.hubAccess_caches s a n src write rfl)
@[simp] theorem State.hubAccess_drt (s : State) (a n src : Nat) (write : Bool) : (s.hubAccess a n src write).drt = s.drt :=
  CachesOf.drt (State.hubAccess_caches s a n src write rfl)
@[simp] theorem State.hubAccess_hewers (s : State) (a n src : Nat) (write : Bool) : (s.hubAccess a n src write).hewers = s.hewers :=
  CachesOf.hewers (State.hubAccess_caches s a n src write rfl)
@[simp] theorem State.hubAccess_cdt (s : State) (a n src : Nat) (write : Bool) : (s.hubAccess a n src write).cdt = s.cdt :=
  CachesOf.cdt (State.hubAccess_caches s a n src write rfl)
@[simp] theorem State.hubAccess_mem (s : State) (a n src : Nat) (write : Bool) : (s.hubAccess a n src write).mem = s.mem :=
  CachesOf.mem (State.hubAccess_caches s a n src write rfl)
@[simp] theorem State.hubAccess_flt (s : State) (a n src : Nat) (write : Bool) : (s.hubAccess a n src write).flt = s.flt :=
  CachesOf.flt (State.hubAccess_caches s a n src write rfl)
@[simp] theorem State.hubAccess_plk (s : State) (a n src : Nat) (write : Bool) : (s.hubAccess a n src write).plk = s.plk :=
  CachesOf.plk (State.hubAccess_caches s a n src write rfl)
@[simp] theorem State.hubAccess_skp (s : State) (a n src : Nat) (write : Bool) : (s.hubAccess a n src write).skp = s.skp :=
  CachesOf.skp (State.hubAccess_caches s a n src write rfl)
@[simp] theorem State.hubAccess_skLast (s : State) (a n src : Nat) (write : Bool) : (s.hubAccess a n src write).skLast = s.skLast :=
  CachesOf.skLast (State.hubAccess_caches s a n src write rfl)
@[simp] theorem State.hubAccess_adt (s : State) (a n src : Nat) (write : Bool) : (s.hubAccess a n src write).adt = s.adt :=
  CachesOf.adt (State.hubAccess_caches s a n src write rfl)
@[simp] theorem State.hubAccess_anm (s : State) (a n src : Nat) (write : Bool) : (s.hubAccess a n src write).anm = s.anm :=
  CachesOf.anm (State.hubAccess_caches s a n src write rfl)
@[simp] theorem State.hubAccess_hep (s : State) (a n src : Nat) (write : Bool) : (s.hubAccess a n src write).hep = s.hep :=
  CachesOf.hep (State.hubAccess_caches s a n src write rfl)
@[simp] theorem State.hubAccess_dbg (s : State) (a n src : Nat) (write : Bool) : (s.hubAccess a n src write).dbg = s.dbg :=
  CachesOf.dbg (State.hubAccess_caches s a n src write rfl)
@[simp] theorem State.hubAccess_freeCtr (s : State) (a n src : Nat) (write : Bool) : (s.hubAccess a n src write).freeCtr = s.freeCtr :=
  CachesOf.freeCtr (State.hubAccess_caches s a n src write rfl)
@[simp] theorem State.hubAccess_out (s : State) (a n src : Nat) (write : Bool) : (s.hubAccess a n src write).out = s.out :=
  CachesOf.out (State.hubAccess_caches s a n src write rfl)
@[simp] theorem State.hubAccess_pending (s : State) (a n src : Nat) (write : Bool) : (s.hubAccess a n src write).pending = s.pending :=
  CachesOf.pending (State.hubAccess_caches s a n src write rfl)

end Sys2Proof.Machine
end

