-- ==== Sys2Proof/Laws/Memory.lean ====
section
/-!
SUPPORT. The laws of DRAM: a byte read after a write is the byte written, a write leaves every other byte alone, and every
operation on memory keeps its canonical form.
-/
namespace Sys2Proof.Machine

/-- Writing one byte. -/
theorem MemState.byte_set_same (m : MemState) (a : Nat) (b : Byte) :
    ({ m with bytes := m.bytes.set (m.base a) a b } : MemState).byte a = b := by
  simp [MemState.byte, MemState.base]

theorem MemState.byte_set_other (m : MemState) {a k : Nat} (b : Byte) (h : k ≠ a) :
    ({ m with bytes := m.bytes.set (m.base a) a b } : MemState).byte k = m.byte k := by
  simp only [MemState.byte]
  exact Table.get_set_other _ _ _ _ h

theorem State.rawWrite_rest (s : State) (a : Nat) (l : List Byte) :
    ∃ b, s.rawWrite a l = { s with mem := { s.mem with bytes := b } } := by
  induction l generalizing s a with
  | nil => exact ⟨s.mem.bytes, rfl⟩
  | cons x r ih =>
    obtain ⟨b, hb⟩ := ih { s with mem := { s.mem with bytes := s.mem.bytes.set (s.mem.base a) a x } } (a + 1)
    exact ⟨b, by simp only [State.rawWrite, hb]⟩

/-- A write leaves every byte outside it alone. -/
theorem State.rawWrite_byte_other (s : State) (a : Nat) (l : List Byte) (k : Nat) (h : k < a ∨ a + l.length ≤ k) :
    (s.rawWrite a l).mem.byte k = s.mem.byte k := by
  induction l generalizing s a with
  | nil => rfl
  | cons x r ih =>
    simp only [State.rawWrite]
    rw [ih _ _ (by simp only [List.length_cons] at h; omega)]
    exact MemState.byte_set_other _ _ (by simp only [List.length_cons] at h; omega)

/-- A byte read after a write is the byte written. -/
theorem State.rawWrite_byte_same (s : State) (a : Nat) (l : List Byte) (i : Nat) (h : i < l.length) :
    (s.rawWrite a l).mem.byte (a + i) = l[i] := by
  induction l generalizing s a i with
  | nil => simp at h
  | cons x r ih =>
    simp only [State.rawWrite]
    cases i with
    | zero =>
      rw [State.rawWrite_byte_other _ _ _ _ (by omega)]
      exact MemState.byte_set_same _ _ _
    | succ j =>
      have := ih { s with mem := { s.mem with bytes := s.mem.bytes.set (s.mem.base a) a x } } (a + 1) j (by simpa using h)
      simpa [Nat.add_comm, Nat.add_left_comm] using this

/-- A write keeps the canonical form. -/
theorem State.rawWrite_wf (s : State) (a : Nat) (l : List Byte) (h : s.mem.wf = true) : (s.rawWrite a l).mem.wf = true := by
  induction l generalizing s a with
  | nil => exact h
  | cons x r ih => exact ih _ _ (Table.wf_set _ _ _ _ h)

@[simp] theorem State.clearResv_mem (s : State) (who : Option Nat) (a n : Nat) : (s.clearResv who a n).mem = s.mem := rfl

theorem State.hewerWrite_wf (s : State) (who : Option Nat) (a : Nat) (l : List Byte) (h : s.mem.wf = true) :
    (s.hewerWrite who a l).mem.wf = true := State.rawWrite_wf s a l h

theorem State.dmaWriteBy_wf (s : State) (src a : Nat) (l : List Byte) (h : s.mem.wf = true) :
    (s.dmaWriteBy src a l).mem.wf = true :=
  State.rawWrite_wf (s.hubAccess a l.length src true) a l (by simpa using h)

theorem State.dmaWrite_wf (s : State) (a : Nat) (l : List Byte) (h : s.mem.wf = true) : (s.dmaWrite a l).mem.wf = true :=
  State.dmaWriteBy_wf s srcDevice a l h

theorem State.dmaWritePoison_wf (s : State) (src a : Nat) (l : List Byte) (h : s.mem.wf = true) :
    (s.dmaWritePoison src a l).mem.wf = true :=
  State.rawWrite_wf (s.hubAccess a l.length src true) a l (by simpa using h)

theorem State.hewerWrite_byte_other (s : State) (who : Option Nat) (a : Nat) (l : List Byte) (k : Nat)
    (h : k < a ∨ a + l.length ≤ k) : (s.hewerWrite who a l).mem.byte k = s.mem.byte k := State.rawWrite_byte_other s a l k h

theorem State.hewerWrite_byte_same (s : State) (who : Option Nat) (a : Nat) (l : List Byte) (i : Nat) (h : i < l.length) :
    (s.hewerWrite who a l).mem.byte (a + i) = l[i] := State.rawWrite_byte_same s a l i h

theorem State.dmaWriteBy_byte_other (s : State) (src a : Nat) (l : List Byte) (k : Nat) (h : k < a ∨ a + l.length ≤ k) :
    (s.dmaWriteBy src a l).mem.byte k = s.mem.byte k :=
  (State.rawWrite_byte_other (s.hubAccess a l.length src true) a l k h).trans (by simp)

theorem State.dmaWriteBy_byte_same (s : State) (src a : Nat) (l : List Byte) (i : Nat) (h : i < l.length) :
    (s.dmaWriteBy src a l).mem.byte (a + i) = l[i] :=
  State.rawWrite_byte_same (s.hubAccess a l.length src true) a l i h

theorem State.dmaWritePoison_byte_other (s : State) (src a : Nat) (l : List Byte) (k : Nat) (h : k < a ∨ a + l.length ≤ k) :
    (s.dmaWritePoison src a l).mem.byte k = s.mem.byte k :=
  (State.rawWrite_byte_other (s.hubAccess a l.length src true) a l k h).trans (by simp)

theorem State.dmaWritePoison_byte_same (s : State) (src a : Nat) (l : List Byte) (i : Nat) (h : i < l.length) :
    (s.dmaWritePoison src a l).mem.byte (a + i) = l[i] :=
  State.rawWrite_byte_same (s.hubAccess a l.length src true) a l i h

end Sys2Proof.Machine
end

