-- ==== Sys2Proof/Laws/Kept.lean ====
section
/-! SUPPORT. One lemma per operation: it keeps the memory canonical and the device number: the predicate the lemmas keep, and the operations of Ops, the caches, the lode, the hewers and translation. -/

namespace Sys2Proof.Machine

/-- What every operation keeps, over the parts of a state that it rests on: the device number and the canonical tables. -/
def KeptC (dv n : Nat) (regs : Table Word) (hewers : Table Hewer) (twins : Table Twin) (m : MemState) : Prop :=
  n = dv ∧ regs.wf regBase = true ∧ hewers.wf (fun _ => Hewer.reset) = true ∧ twins.wf (fun _ => Twin.reset) = true ∧ m.wf = true

/-- The device number is `dv` and the tables of the state are canonical. -/
def Kept (dv : Nat) (s : State) : Prop := KeptC dv s.devnum s.regs s.hewers s.twins s.mem

theorem kept_iff (dv : Nat) (s : State) : Kept dv s ↔ s.devnum = dv ∧ s.Canonical :=
  ⟨fun h => ⟨h.1, h.2.1, h.2.2.1, h.2.2.2.1, h.2.2.2.2⟩, fun h => ⟨h.1, h.2.regs, h.2.hewers, h.2.twins, h.2.mem⟩⟩

theorem keptC_of {dv : Nat} {s : State} (h : Kept dv s) : KeptC dv s.devnum s.regs s.hewers s.twins s.mem := h

theorem kept_mk_eq {dv : Nat} (regs time pwr can lode drt hewers twins cdt mem mc flt plk skp skLast adt anm hep dbg bwUs flash
    xspi devnum big freeCtr out pending : _) :
    Kept dv (State.mk regs time pwr can lode drt hewers twins cdt mem mc flt plk skp skLast adt anm hep dbg bwUs flash xspi devnum
      big freeCtr out pending) = KeptC dv devnum regs hewers twins mem := rfl

/-- Poison marks do not touch the bytes. -/
theorem keptC_marks {dv : Nat} {s : State} {p u : List Nat} (h : Kept dv s) :
    KeptC dv s.devnum s.regs s.hewers s.twins ⟨s.mem.bytes, s.mem.lost, p, u⟩ := h

theorem keptC_regs {dv : Nat} {s : State} {p : Nat × Word → Bool} (h : Kept dv s) :
    KeptC dv s.devnum (s.regs.filter p) s.hewers s.twins s.mem :=
  ⟨h.1, Table.wf_filter _ _ _ h.2.1, h.2.2⟩

/-- The same of how a step of an instruction ends. -/
def StepKept (dv : Nat) (r : Step) : Prop :=
  match r with
  | .ok s _ => Kept dv s
  | .jumped s => Kept dv s
  | .entered s => Kept dv s
  | .exc s _ => Kept dv s
  | .held s => Kept dv s

/-- The same of the frame before execution. -/
def IssueKept (dv : Nat) (r : Issue) : Prop :=
  match r with
  | .go s => Kept dv s
  | .stop s => Kept dv s

/-- The same of a microcode word. -/
def MicroKept (dv : Nat) (r : MicroStep) : Prop :=
  match r with
  | .next s _ _ => Kept dv s
  | .exc s _ _ => Kept dv s
  | .held s _ => Kept dv s
  | .stopped s => Kept dv s

/-- The same of a state that may be absent. -/
def OptKept (dv : Nat) (o : Option State) : Prop :=
  match o with
  | some s => Kept dv s
  | none => True

/-- The same of an outcome's next state. -/
def OutKept (dv : Nat) (o : Host.Outcome State Fault Refusal) : Prop :=
  match o with
  | .next s => Kept dv s
  | _ => True

theorem foldl_kept {dv : Nat} {β : Type} (f : State → β → State) (l : List β) (s : State)
    (hf : ∀ t x, Kept dv t → Kept dv (f t x)) (h : Kept dv s) :
    Kept dv (l.foldl f s) := by
  induction l generalizing s with
  | nil => exact h
  | cons x r ih => exact ih _ (hf _ _ h)
theorem getD_kept {dv : Nat} (o : Option State) (s : State) (ho : OptKept dv o) (h : Kept dv s) : Kept dv (o.getD s) := by
  cases o with
  | none => exact h
  | some t => exact ho

theorem foldr_kept {dv : Nat} {β : Type} (f : β → State → State) (l : List β) (s : State)
    (hf : ∀ x t, Kept dv t → Kept dv (f x t)) (h : Kept dv s) :
    Kept dv (l.foldr f s) := by
  induction l with
  | nil => exact h
  | cons x r ih => exact hf _ _ ih

theorem kept_fst {dv : Nat} {α : Type} {r : State × α} {t : State} {a : α} (e : r = (t, a)) (h : Kept dv r.1) : Kept dv t := by
  rw [e] at h
  exact h

theorem State.setReg_kept {dv : Nat} (s : State) (a : Nat) (v : Word) (h_s : Kept dv s) : Kept dv (State.setReg s a v) :=
  ⟨h_s.1, Table.wf_set s.regs regBase a v h_s.2.1, h_s.2.2⟩

theorem State.setFld_kept {dv : Nat} (s : State) (f : IoField) (v : Nat) (h_s : Kept dv s) : Kept dv (State.setFld s f v) := by
  unfold State.setFld
  try dsimp only
  repeat' (first | with_reducible assumption | with_reducible apply State.setReg_kept | (intro _) | split |
                 dsimp only [StepKept, OutKept, IssueKept, MicroKept, OptKept, done] | simp only [kept_mk_eq] |
                 with_reducible apply keptC_of | with_reducible apply keptC_marks | with_reducible apply keptC_regs |
                 with_reducible exact kept_fst (by assumption) (by assumption))

theorem State.raise_kept {dv : Nat} (s : State) (f : IoField) (h_s : Kept dv s) : Kept dv (State.raise s f) := by
  unfold State.raise
  try dsimp only
  repeat' (first | with_reducible assumption | with_reducible apply State.setFld_kept | (intro _) | split |
                 dsimp only [StepKept, OutKept, IssueKept, MicroKept, OptKept, done] | simp only [kept_mk_eq] |
                 with_reducible apply keptC_of | with_reducible apply keptC_marks | with_reducible apply keptC_regs |
                 with_reducible exact kept_fst (by assumption) (by assumption))

theorem State.count_kept {dv : Nat} (s : State) (f : IoField) (n : Nat) (h_s : Kept dv s) : Kept dv (State.count s f n) := by
  unfold State.count
  try dsimp only
  repeat' (first | with_reducible assumption | with_reducible apply State.setFld_kept | (intro _) | split |
                 dsimp only [StepKept, OutKept, IssueKept, MicroKept, OptKept, done] | simp only [kept_mk_eq] |
                 with_reducible apply keptC_of | with_reducible apply keptC_marks | with_reducible apply keptC_regs |
                 with_reducible exact kept_fst (by assumption) (by assumption))

theorem State.draw_kept {dv : Nat} (s : State) (h_s : Kept dv s) : Kept dv (State.draw s).2 := by
  unfold State.draw
  try dsimp only
  repeat' (first | with_reducible assumption | (intro _) | split | dsimp only [StepKept, OutKept, IssueKept, MicroKept, OptKept, done] |
                 simp only [kept_mk_eq] | with_reducible apply keptC_of | with_reducible apply keptC_marks |
                 with_reducible apply keptC_regs | with_reducible exact kept_fst (by assumption) (by assumption))

theorem State.freeBytes_kept {dv : Nat} (s : State) (n : Nat) (h_s : Kept dv s) : Kept dv (State.freeBytes s n).2 := by
  unfold State.freeBytes
  try dsimp only
  repeat' (first | with_reducible assumption | (intro _) | split | dsimp only [StepKept, OutKept, IssueKept, MicroKept, OptKept, done] |
                 simp only [kept_mk_eq] | with_reducible apply keptC_of | with_reducible apply keptC_marks |
                 with_reducible apply keptC_regs | with_reducible exact kept_fst (by assumption) (by assumption))

theorem State.stamp_kept {dv : Nat} (s : State) (loc : Nat) (h_s : Kept dv s) : Kept dv (State.stamp s loc).2 := by
  unfold State.stamp
  try dsimp only
  repeat' (first | with_reducible assumption | (intro _) | split | dsimp only [StepKept, OutKept, IssueKept, MicroKept, OptKept, done] |
                 simp only [kept_mk_eq] | with_reducible apply keptC_of | with_reducible apply keptC_marks |
                 with_reducible apply keptC_regs | with_reducible exact kept_fst (by assumption) (by assumption))

theorem State.setHew_kept {dv : Nat} (s : State) (h : Nat) (x : Hewer) (h_s : Kept dv s) : Kept dv (State.setHew s h x) :=
  ⟨h_s.1, h_s.2.1, Table.wf_set s.hewers (fun _ => Hewer.reset) h x h_s.2.2.1, h_s.2.2.2⟩

theorem State.modHew_kept {dv : Nat} (s : State) (h : Nat) (f : Hewer → Hewer) (h_s : Kept dv s) : Kept dv (State.modHew s h f) := by
  unfold State.modHew
  try dsimp only
  repeat' (first | with_reducible assumption | with_reducible apply State.setHew_kept | (intro _) | split |
                 dsimp only [StepKept, OutKept, IssueKept, MicroKept, OptKept, done] | simp only [kept_mk_eq] |
                 with_reducible apply keptC_of | with_reducible apply keptC_marks | with_reducible apply keptC_regs |
                 with_reducible exact kept_fst (by assumption) (by assumption))

theorem State.setTwin_kept {dv : Nat} (s : State) (t : Nat) (x : Twin) (h_s : Kept dv s) : Kept dv (State.setTwin s t x) :=
  ⟨h_s.1, h_s.2.1, h_s.2.2.1, Table.wf_set s.twins (fun _ => Twin.reset) t x h_s.2.2.2.1, h_s.2.2.2.2⟩

theorem State.modTwin_kept {dv : Nat} (s : State) (t : Nat) (f : Twin → Twin) (h_s : Kept dv s) : Kept dv (State.modTwin s t f) := by
  unfold State.modTwin
  try dsimp only
  repeat' (first | with_reducible assumption | with_reducible apply State.setTwin_kept | (intro _) | split |
                 dsimp only [StepKept, OutKept, IssueKept, MicroKept, OptKept, done] | simp only [kept_mk_eq] |
                 with_reducible apply keptC_of | with_reducible apply keptC_marks | with_reducible apply keptC_regs |
                 with_reducible exact kept_fst (by assumption) (by assumption))

theorem State.mapTwins_kept {dv : Nat} (s : State) (f : Twin → Twin) (h_s : Kept dv s) : Kept dv (State.mapTwins s f) := by
  have h := Table.wf_mapBelow s.twins Twin.reset 576 (fun t => f (s.twin t)) h_s.2.2.2.1
  unfold State.mapTwins
  simp only [kept_mk_eq]
  refine ⟨h_s.1, h_s.2.1, h_s.2.2.1, ?_, h_s.2.2.2.2⟩
  exact h

theorem State.setDchan_kept {dv : Nat} (s : State) (c : Nat) (x : Channel) (h_s : Kept dv s) : Kept dv (State.setDchan s c x) := by
  unfold State.setDchan
  try dsimp only
  repeat' (first | with_reducible assumption | (intro _) | split | dsimp only [StepKept, OutKept, IssueKept, MicroKept, OptKept, done] |
                 simp only [kept_mk_eq] | with_reducible apply keptC_of | with_reducible apply keptC_marks |
                 with_reducible apply keptC_regs | with_reducible exact kept_fst (by assumption) (by assumption))

theorem State.setBank_kept {dv : Nat} (s : State) (c b : Nat) (x : BankState) (h_s : Kept dv s) : Kept dv (State.setBank s c b x) := by
  unfold State.setBank
  try dsimp only
  repeat' (first | with_reducible assumption | with_reducible apply State.setDchan_kept | (intro _) | split |
                 dsimp only [StepKept, OutKept, IssueKept, MicroKept, OptKept, done] | simp only [kept_mk_eq] |
                 with_reducible apply keptC_of | with_reducible apply keptC_marks | with_reducible apply keptC_regs |
                 with_reducible exact kept_fst (by assumption) (by assumption))

theorem State.modBank_kept {dv : Nat} (s : State) (c b : Nat) (f : BankState → BankState) (h_s : Kept dv s) : Kept dv (State.modBank s c
    b f) := by
  unfold State.modBank
  try dsimp only
  repeat' (first | with_reducible assumption | with_reducible apply State.setBank_kept | (intro _) | split |
                 dsimp only [StepKept, OutKept, IssueKept, MicroKept, OptKept, done] | simp only [kept_mk_eq] |
                 with_reducible apply keptC_of | with_reducible apply keptC_marks | with_reducible apply keptC_regs |
                 with_reducible exact kept_fst (by assumption) (by assumption))

theorem State.accessRow_kept {dv : Nat} (s : State) (c b row : Nat) (h_s : Kept dv s) : Kept dv (State.accessRow s c b row) := by
  unfold State.accessRow
  try dsimp only
  repeat' (first | with_reducible assumption | with_reducible apply State.modBank_kept | (intro _) | split |
                 dsimp only [StepKept, OutKept, IssueKept, MicroKept, OptKept, done] | simp only [kept_mk_eq] |
                 with_reducible apply keptC_of | with_reducible apply keptC_marks | with_reducible apply keptC_regs |
                 with_reducible exact kept_fst (by assumption) (by assumption))

theorem State.closeRows_kept {dv : Nat} (s : State) (c : Nat) (h_s : Kept dv s) : Kept dv (State.closeRows s c) := by
  unfold State.closeRows
  try dsimp only
  repeat' (first | with_reducible assumption | with_reducible apply State.setDchan_kept | (intro _) | split |
                 dsimp only [StepKept, OutKept, IssueKept, MicroKept, OptKept, done] | simp only [kept_mk_eq] |
                 with_reducible apply keptC_of | with_reducible apply keptC_marks | with_reducible apply keptC_regs |
                 with_reducible exact kept_fst (by assumption) (by assumption))

theorem State.reqPut_kept {dv : Nat} (s : State) (line src : Nat) (write : Bool) (h_s : Kept dv s) : Kept dv (State.reqPut s line src
    write) := by
  unfold State.reqPut
  try dsimp only
  repeat' (first | with_reducible assumption | with_reducible apply State.setDchan_kept | (intro _) | split |
                 dsimp only [StepKept, OutKept, IssueKept, MicroKept, OptKept, done] | simp only [kept_mk_eq] |
                 with_reducible apply keptC_of | with_reducible apply keptC_marks | with_reducible apply keptC_regs |
                 with_reducible exact kept_fst (by assumption) (by assumption))

theorem State.mscUse_kept {dv : Nat} (s : State) (line src : Nat) (write whole : Bool) (h_s : Kept dv s) : Kept dv (State.mscUse s line
    src write whole) := by
  unfold State.mscUse
  try dsimp only
  repeat' (first | with_reducible assumption | with_reducible apply State.reqPut_kept | with_reducible apply foldl_kept | (intro _) |
                 split | dsimp only [StepKept, OutKept, IssueKept, MicroKept, OptKept, done] | simp only [kept_mk_eq] |
                 with_reducible apply keptC_of | with_reducible apply keptC_marks | with_reducible apply keptC_regs |
                 with_reducible exact kept_fst (by assumption) (by assumption))

theorem State.mscDrop_kept {dv : Nat} (s : State) (p : Nat → Bool) (h_s : Kept dv s) : Kept dv (State.mscDrop s p) := by
  unfold State.mscDrop
  try dsimp only
  repeat' (first | with_reducible assumption | with_reducible apply State.reqPut_kept | with_reducible apply foldl_kept | (intro _) |
                 split | dsimp only [StepKept, OutKept, IssueKept, MicroKept, OptKept, done] | simp only [kept_mk_eq] |
                 with_reducible apply keptC_of | with_reducible apply keptC_marks | with_reducible apply keptC_regs |
                 with_reducible exact kept_fst (by assumption) (by assumption))

theorem State.mscLock_kept {dv : Nat} (s : State) (h_s : Kept dv s) : Kept dv (State.mscLock s) := by
  unfold State.mscLock
  try dsimp only
  repeat' (first | with_reducible assumption | with_reducible apply State.reqPut_kept | with_reducible apply foldl_kept | (intro _) |
                 split | dsimp only [StepKept, OutKept, IssueKept, MicroKept, OptKept, done] | simp only [kept_mk_eq] |
                 with_reducible apply keptC_of | with_reducible apply keptC_marks | with_reducible apply keptC_regs |
                 with_reducible exact kept_fst (by assumption) (by assumption))

theorem State.galleryDrop_kept {dv : Nat} (s : State) (g line : Nat) (keep : Option Nat) (h_s : Kept dv s) : Kept dv (State.galleryDrop
    s g line keep) := by
  unfold State.galleryDrop
  try dsimp only
  repeat' (first | with_reducible assumption | with_reducible apply State.modTwin_kept | with_reducible apply foldl_kept | (intro _) |
                 split | dsimp only [StepKept, OutKept, IssueKept, MicroKept, OptKept, done] | simp only [kept_mk_eq] |
                 with_reducible apply keptC_of | with_reducible apply keptC_marks | with_reducible apply keptC_regs |
                 with_reducible exact kept_fst (by assumption) (by assumption))

theorem State.galleryClean_kept {dv : Nat} (s : State) (g line : Nat) (keep : Option Nat) (h_s : Kept dv s) : Kept dv
    (State.galleryClean s g line keep) := by
  unfold State.galleryClean
  try dsimp only
  repeat' (first | with_reducible assumption | with_reducible apply State.modTwin_kept | with_reducible apply foldl_kept | (intro _) |
                 split | dsimp only [StepKept, OutKept, IssueKept, MicroKept, OptKept, done] | simp only [kept_mk_eq] |
                 with_reducible apply keptC_of | with_reducible apply keptC_marks | with_reducible apply keptC_regs |
                 with_reducible exact kept_fst (by assumption) (by assumption))

theorem State.setL2_kept {dv : Nat} (s : State) (g line : Nat) (l : List L2Line) (h_s : Kept dv s) : Kept dv (State.setL2 s g line l) :=
    by
  unfold State.setL2
  try dsimp only
  repeat' (first | with_reducible assumption | (intro _) | split | dsimp only [StepKept, OutKept, IssueKept, MicroKept, OptKept, done] |
                 simp only [kept_mk_eq] | with_reducible apply keptC_of | with_reducible apply keptC_marks |
                 with_reducible apply keptC_regs | with_reducible exact kept_fst (by assumption) (by assumption))

theorem State.l2Mod_kept {dv : Nat} (s : State) (g line : Nat) (f : L2Line → L2Line) (h_s : Kept dv s) : Kept dv (State.l2Mod s g line
    f) := by
  unfold State.l2Mod
  try dsimp only
  repeat' (first | with_reducible assumption | with_reducible apply State.setL2_kept | (intro _) | split |
                 dsimp only [StepKept, OutKept, IssueKept, MicroKept, OptKept, done] | simp only [kept_mk_eq] |
                 with_reducible apply keptC_of | with_reducible apply keptC_marks | with_reducible apply keptC_regs |
                 with_reducible exact kept_fst (by assumption) (by assumption))

theorem State.setDir_kept {dv : Nat} (s : State) (line : Nat) (d : DirLine) (h_s : Kept dv s) : Kept dv (State.setDir s line d) := by
  unfold State.setDir
  try dsimp only
  repeat' (first | with_reducible assumption | (intro _) | split | dsimp only [StepKept, OutKept, IssueKept, MicroKept, OptKept, done] |
                 simp only [kept_mk_eq] | with_reducible apply keptC_of | with_reducible apply keptC_marks |
                 with_reducible apply keptC_regs | with_reducible exact kept_fst (by assumption) (by assumption))

theorem State.l2WriteBack_kept {dv : Nat} (s : State) (g line src : Nat) (h_s : Kept dv s) : Kept dv (State.l2WriteBack s g line src) :=
    by
  unfold State.l2WriteBack
  try dsimp only
  repeat' (first | with_reducible assumption | with_reducible apply State.mscUse_kept | with_reducible apply State.galleryClean_kept |
                 with_reducible apply State.l2Mod_kept | (intro _) | split |
                 dsimp only [StepKept, OutKept, IssueKept, MicroKept, OptKept, done] | simp only [kept_mk_eq] |
                 with_reducible apply keptC_of | with_reducible apply keptC_marks | with_reducible apply keptC_regs |
                 with_reducible exact kept_fst (by assumption) (by assumption))

theorem State.l2Drop_kept {dv : Nat} (s : State) (g line src : Nat) (keepTag : Bool) (h_s : Kept dv s) : Kept dv (State.l2Drop s g line
    src keepTag) := by
  unfold State.l2Drop
  try dsimp only
  repeat' (first | with_reducible assumption | with_reducible apply State.galleryDrop_kept | with_reducible apply State.setL2_kept |
                 with_reducible apply State.setDir_kept | with_reducible apply State.l2WriteBack_kept | (intro _) | split |
                 dsimp only [StepKept, OutKept, IssueKept, MicroKept, OptKept, done] | simp only [kept_mk_eq] |
                 with_reducible apply keptC_of | with_reducible apply keptC_marks | with_reducible apply keptC_regs |
                 with_reducible exact kept_fst (by assumption) (by assumption))

theorem State.invalidateLine_kept {dv : Nat} (s : State) (line src : Nat) (keep : Option Nat) (h_s : Kept dv s) : Kept dv
    (State.invalidateLine s line src keep) := by
  unfold State.invalidateLine
  try dsimp only
  repeat' (first | with_reducible assumption | with_reducible apply State.l2Drop_kept | with_reducible apply foldl_kept | (intro _) |
                 split | dsimp only [StepKept, OutKept, IssueKept, MicroKept, OptKept, done] | simp only [kept_mk_eq] |
                 with_reducible apply keptC_of | with_reducible apply keptC_marks | with_reducible apply keptC_regs |
                 with_reducible exact kept_fst (by assumption) (by assumption))

theorem State.shareLine_kept {dv : Nat} (s : State) (line src : Nat) (h_s : Kept dv s) : Kept dv (State.shareLine s line src) := by
  unfold State.shareLine
  try dsimp only
  repeat' (first | with_reducible assumption | with_reducible apply State.setDir_kept | with_reducible apply State.l2WriteBack_kept |
                 with_reducible apply foldl_kept | (intro _) | split |
                 dsimp only [StepKept, OutKept, IssueKept, MicroKept, OptKept, done] | simp only [kept_mk_eq] |
                 with_reducible apply keptC_of | with_reducible apply keptC_marks | with_reducible apply keptC_regs |
                 with_reducible exact kept_fst (by assumption) (by assumption))

theorem State.l2Place_kept {dv : Nat} (s : State) (g line w src : Nat) (h_s : Kept dv s) : Kept dv (State.l2Place s g line w src) := by
  unfold State.l2Place
  try dsimp only
  repeat' (first | with_reducible assumption | with_reducible apply State.setL2_kept | with_reducible apply State.l2Drop_kept |
                 (intro _) | split | dsimp only [StepKept, OutKept, IssueKept, MicroKept, OptKept, done] | simp only [kept_mk_eq] |
                 with_reducible apply keptC_of | with_reducible apply keptC_marks | with_reducible apply keptC_regs |
                 with_reducible exact kept_fst (by assumption) (by assumption))

theorem State.l2Get_kept {dv : Nat} (s : State) (g line cls src : Nat) (write : Bool) (h_s : Kept dv s) : Kept dv (State.l2Get s g line
    cls src write).1 := by
  unfold State.l2Get
  try dsimp only
  repeat' (first | with_reducible assumption | with_reducible apply State.mscUse_kept | with_reducible apply State.setL2_kept |
                 with_reducible apply State.setDir_kept | with_reducible apply State.invalidateLine_kept |
                 with_reducible apply State.shareLine_kept | with_reducible apply State.l2Place_kept | (intro _) | split |
                 dsimp only [StepKept, OutKept, IssueKept, MicroKept, OptKept, done] | simp only [kept_mk_eq] |
                 with_reducible apply keptC_of | with_reducible apply keptC_marks | with_reducible apply keptC_regs |
                 with_reducible exact kept_fst (by assumption) (by assumption))

theorem State.hubUse_kept {dv : Nat} (s : State) (line src : Nat) (write : Bool) (h_s : Kept dv s) : Kept dv (State.hubUse s line src
    write) := by
  unfold State.hubUse
  try dsimp only
  repeat' (first | with_reducible assumption | with_reducible apply State.mscUse_kept | with_reducible apply State.invalidateLine_kept |
                 with_reducible apply State.shareLine_kept | (intro _) | split |
                 dsimp only [StepKept, OutKept, IssueKept, MicroKept, OptKept, done] | simp only [kept_mk_eq] |
                 with_reducible apply keptC_of | with_reducible apply keptC_marks | with_reducible apply keptC_regs |
                 with_reducible exact kept_fst (by assumption) (by assumption))

theorem State.hubAccess_kept {dv : Nat} (s : State) (a n src : Nat) (write : Bool) (h_s : Kept dv s) : Kept dv (State.hubAccess s a n
    src write) := by
  unfold State.hubAccess
  try dsimp only
  repeat' (first | with_reducible assumption | with_reducible apply State.hubUse_kept | with_reducible apply foldl_kept | (intro _) |
                 split | dsimp only [StepKept, OutKept, IssueKept, MicroKept, OptKept, done] | simp only [kept_mk_eq] |
                 with_reducible apply keptC_of | with_reducible apply keptC_marks | with_reducible apply keptC_regs |
                 with_reducible exact kept_fst (by assumption) (by assumption))

theorem State.galleryFlush_kept {dv : Nat} (s : State) (g : Nat) (p : L2Line → Bool) (h_s : Kept dv s) : Kept dv (State.galleryFlush s g
    p) := by
  unfold State.galleryFlush
  try dsimp only
  repeat' (first | with_reducible assumption | with_reducible apply State.setL2_kept | with_reducible apply State.l2Drop_kept |
                 with_reducible apply foldl_kept | (intro _) | split |
                 dsimp only [StepKept, OutKept, IssueKept, MicroKept, OptKept, done] | simp only [kept_mk_eq] |
                 with_reducible apply keptC_of | with_reducible apply keptC_marks | with_reducible apply keptC_regs |
                 with_reducible exact kept_fst (by assumption) (by assumption))

theorem State.emit_kept {dv : Nat} (s : State) (o : Out) (h_s : Kept dv s) : Kept dv (State.emit s o) := by
  unfold State.emit
  try dsimp only
  repeat' (first | with_reducible assumption | (intro _) | split | dsimp only [StepKept, OutKept, IssueKept, MicroKept, OptKept, done] |
                 simp only [kept_mk_eq] | with_reducible apply keptC_of | with_reducible apply keptC_marks |
                 with_reducible apply keptC_regs | with_reducible exact kept_fst (by assumption) (by assumption))

theorem State.setFn_kept {dv : Nat} (s : State) (f : Nat) (x : PcieFn) (h_s : Kept dv s) : Kept dv (State.setFn s f x) := by
  unfold State.setFn
  try dsimp only
  repeat' (first | with_reducible assumption | (intro _) | split | dsimp only [StepKept, OutKept, IssueKept, MicroKept, OptKept, done] |
                 simp only [kept_mk_eq] | with_reducible apply keptC_of | with_reducible apply keptC_marks |
                 with_reducible apply keptC_regs | with_reducible exact kept_fst (by assumption) (by assumption))

theorem State.setPba_kept {dv : Nat} (s : State) (f vec : Nat) (on : Bool) (h_s : Kept dv s) : Kept dv (State.setPba s f vec on) := by
  unfold State.setPba
  try dsimp only
  repeat' (first | with_reducible assumption | with_reducible apply State.setFld_kept | (intro _) | split |
                 dsimp only [StepKept, OutKept, IssueKept, MicroKept, OptKept, done] | simp only [kept_mk_eq] |
                 with_reducible apply keptC_of | with_reducible apply keptC_marks | with_reducible apply keptC_regs |
                 with_reducible exact kept_fst (by assumption) (by assumption))

theorem State.sendMsix_kept {dv : Nat} (s : State) (f vec : Nat) (h_s : Kept dv s) : Kept dv (State.sendMsix s f vec) := by
  unfold State.sendMsix
  try dsimp only
  repeat' (first | with_reducible assumption | with_reducible apply State.emit_kept | with_reducible apply State.setPba_kept | (intro _)
                 | split | dsimp only [StepKept, OutKept, IssueKept, MicroKept, OptKept, done] | simp only [kept_mk_eq] |
                 with_reducible apply keptC_of | with_reducible apply keptC_marks | with_reducible apply keptC_regs |
                 with_reducible exact kept_fst (by assumption) (by assumption))

theorem State.rawWrite_kept {dv : Nat} (s : State) (a : Nat) (l : List Byte) (h_s : Kept dv s) : Kept dv (State.rawWrite s a l) := by
  obtain ⟨b, hb⟩ := State.rawWrite_rest s a l
  have := State.rawWrite_wf s a l h_s.2.2.2.2
  rw [hb] at this ⊢
  exact ⟨h_s.1, h_s.2.1, h_s.2.2.1, h_s.2.2.2.1, this⟩

theorem State.mapHewers_kept {dv : Nat} (s : State) (f : Nat → Hewer → Hewer) (h_s : Kept dv s) : Kept dv (State.mapHewers s f) :=
  ⟨h_s.1, h_s.2.1, Table.wf_mapKept s.hewers Hewer.reset f h_s.2.2.1, h_s.2.2.2⟩

theorem State.clearResv_kept {dv : Nat} (s : State) (who : Option Nat) (a n : Nat) (h_s : Kept dv s) : Kept dv (State.clearResv s who a
    n) := by
  unfold State.clearResv
  try dsimp only
  repeat' (first | with_reducible assumption | with_reducible apply State.mapHewers_kept | (intro _) | split |
                 dsimp only [StepKept, OutKept, IssueKept, MicroKept, OptKept, done] | simp only [kept_mk_eq] |
                 with_reducible apply keptC_of | with_reducible apply keptC_marks | with_reducible apply keptC_regs |
                 with_reducible exact kept_fst (by assumption) (by assumption))

theorem State.hewerWrite_kept {dv : Nat} (s : State) (who : Option Nat) (a : Nat) (l : List Byte) (h_s : Kept dv s) : Kept dv
    (State.hewerWrite s who a l) := by
  unfold State.hewerWrite
  try dsimp only
  repeat' (first | with_reducible assumption | with_reducible apply State.rawWrite_kept | with_reducible apply State.clearResv_kept |
                 (intro _) | split | dsimp only [StepKept, OutKept, IssueKept, MicroKept, OptKept, done] | simp only [kept_mk_eq] |
                 with_reducible apply keptC_of | with_reducible apply keptC_marks | with_reducible apply keptC_regs |
                 with_reducible exact kept_fst (by assumption) (by assumption))

theorem State.dmaWriteBy_kept {dv : Nat} (s : State) (src a : Nat) (l : List Byte) (h_s : Kept dv s) : Kept dv (State.dmaWriteBy s src a
    l) := by
  unfold State.dmaWriteBy
  try dsimp only
  repeat' (first | with_reducible assumption | with_reducible apply State.hubAccess_kept | with_reducible apply State.rawWrite_kept |
                 with_reducible apply State.clearResv_kept | (intro _) | split |
                 dsimp only [StepKept, OutKept, IssueKept, MicroKept, OptKept, done] | simp only [kept_mk_eq] |
                 with_reducible apply keptC_of | with_reducible apply keptC_marks | with_reducible apply keptC_regs |
                 with_reducible exact kept_fst (by assumption) (by assumption))

theorem State.dmaWrite_kept {dv : Nat} (s : State) (a : Nat) (l : List Byte) (h_s : Kept dv s) : Kept dv (State.dmaWrite s a l) := by
  unfold State.dmaWrite
  try dsimp only
  repeat' (first | with_reducible assumption | with_reducible apply State.dmaWriteBy_kept | (intro _) | split |
                 dsimp only [StepKept, OutKept, IssueKept, MicroKept, OptKept, done] | simp only [kept_mk_eq] |
                 with_reducible apply keptC_of | with_reducible apply keptC_marks | with_reducible apply keptC_regs |
                 with_reducible exact kept_fst (by assumption) (by assumption))

theorem State.dmaWritePoison_kept {dv : Nat} (s : State) (src a : Nat) (l : List Byte) (h_s : Kept dv s) : Kept dv (State.dmaWritePoison
    s src a l) := by
  unfold State.dmaWritePoison
  try dsimp only
  repeat' (first | with_reducible assumption | with_reducible apply State.hubAccess_kept | with_reducible apply State.rawWrite_kept |
                 with_reducible apply State.clearResv_kept | with_reducible apply foldl_kept | (intro _) | split |
                 dsimp only [StepKept, OutKept, IssueKept, MicroKept, OptKept, done] | simp only [kept_mk_eq] |
                 with_reducible apply keptC_of | with_reducible apply keptC_marks | with_reducible apply keptC_regs |
                 with_reducible exact kept_fst (by assumption) (by assumption))

theorem State.logWrite_kept {dv : Nat} (s : State) (r : FaultRec) (h_s : Kept dv s) : Kept dv (State.logWrite s r) := by
  unfold State.logWrite
  try dsimp only
  repeat' (first | with_reducible assumption | with_reducible apply State.setFld_kept | with_reducible apply State.dmaWrite_kept |
                 (intro _) | split | dsimp only [StepKept, OutKept, IssueKept, MicroKept, OptKept, done] | simp only [kept_mk_eq] |
                 with_reducible apply keptC_of | with_reducible apply keptC_marks | with_reducible apply keptC_regs |
                 with_reducible exact kept_fst (by assumption) (by assumption))

theorem State.notify_kept {dv : Nat} (s : State) (bits : Nat) (h_s : Kept dv s) : Kept dv (State.notify s bits) := by
  unfold State.notify
  try dsimp only
  repeat' (first | with_reducible assumption | with_reducible apply State.setReg_kept | with_reducible apply State.sendMsix_kept |
                 (intro _) | split | dsimp only [StepKept, OutKept, IssueKept, MicroKept, OptKept, done] | simp only [kept_mk_eq] |
                 with_reducible apply keptC_of | with_reducible apply keptC_marks | with_reducible apply keptC_regs |
                 with_reducible exact kept_fst (by assumption) (by assumption))

theorem State.bufferRecord_kept {dv : Nat} (s : State) (r : FaultRec) (h_s : Kept dv s) : Kept dv (State.bufferRecord s r) := by
  unfold State.bufferRecord
  try dsimp only
  repeat' (first | with_reducible assumption | with_reducible apply State.count_kept | (intro _) | split |
                 dsimp only [StepKept, OutKept, IssueKept, MicroKept, OptKept, done] | simp only [kept_mk_eq] |
                 with_reducible apply keptC_of | with_reducible apply keptC_marks | with_reducible apply keptC_regs |
                 with_reducible exact kept_fst (by assumption) (by assumption))

theorem State.logRecord_kept {dv : Nat} (s : State) (r : FaultRec) (h_s : Kept dv s) : Kept dv (State.logRecord s r) := by
  unfold State.logRecord
  try dsimp only
  repeat' (first | with_reducible assumption | with_reducible apply State.logWrite_kept | with_reducible apply State.notify_kept |
                 with_reducible apply State.bufferRecord_kept | (intro _) | split |
                 dsimp only [StepKept, OutKept, IssueKept, MicroKept, OptKept, done] | simp only [kept_mk_eq] |
                 with_reducible apply keptC_of | with_reducible apply keptC_marks | with_reducible apply keptC_regs |
                 with_reducible exact kept_fst (by assumption) (by assumption))

theorem State.logAt_kept {dv : Nat} (s : State) (time source code detail cls dw2 dw3 : Nat) (h_s : Kept dv s) : Kept dv (State.logAt s
    time source code detail cls dw2 dw3) := by
  unfold State.logAt
  try dsimp only
  repeat' (first | with_reducible assumption | with_reducible apply State.logRecord_kept | (intro _) | split |
                 dsimp only [StepKept, OutKept, IssueKept, MicroKept, OptKept, done] | simp only [kept_mk_eq] |
                 with_reducible apply keptC_of | with_reducible apply keptC_marks | with_reducible apply keptC_regs |
                 with_reducible exact kept_fst (by assumption) (by assumption))

theorem State.log_kept {dv : Nat} (s : State) (loc code detail cls dw2 dw3 : Nat) (h_s : Kept dv s) : Kept dv (State.log s loc code
    detail cls dw2 dw3) := by
  unfold State.log
  try dsimp only
  repeat' (first | with_reducible assumption | with_reducible apply State.stamp_kept | with_reducible apply State.logAt_kept | (intro _)
                 | split | dsimp only [StepKept, OutKept, IssueKept, MicroKept, OptKept, done] | simp only [kept_mk_eq] |
                 with_reducible apply keptC_of | with_reducible apply keptC_marks | with_reducible apply keptC_regs |
                 with_reducible exact kept_fst (by assumption) (by assumption))

theorem done_kept {dv : Nat} (s : State) (h_s : Kept dv s) : OutKept dv (done s) := by
  unfold done
  try dsimp only
  repeat' (first | with_reducible assumption | (intro _) | split | dsimp only [StepKept, OutKept, IssueKept, MicroKept, OptKept, done] |
                 simp only [kept_mk_eq] | with_reducible apply keptC_of | with_reducible apply keptC_marks |
                 with_reducible apply keptC_regs | with_reducible exact kept_fst (by assumption) (by assumption))

theorem State.setSlot_kept {dv : Nat} (s : State) (i : Nat) (x : LodeSlot) (h_s : Kept dv s) : Kept dv (State.setSlot s i x) := by
  unfold State.setSlot
  try dsimp only
  repeat' (first | with_reducible assumption | (intro _) | split | dsimp only [StepKept, OutKept, IssueKept, MicroKept, OptKept, done] |
                 simp only [kept_mk_eq] | with_reducible apply keptC_of | with_reducible apply keptC_marks |
                 with_reducible apply keptC_regs | with_reducible exact kept_fst (by assumption) (by assumption))

theorem State.storeCopy_kept {dv : Nat} (s : State) (w : LodeWrite) (t : Nat) (v : Word) (q : Nat) (h_s : Kept dv s) : Kept dv
    (State.storeCopy s w t v q).1 := by
  unfold State.storeCopy
  try dsimp only
  repeat' (first | with_reducible assumption | with_reducible apply State.count_kept | with_reducible apply State.setSlot_kept |
                 (intro _) | split | dsimp only [StepKept, OutKept, IssueKept, MicroKept, OptKept, done] | simp only [kept_mk_eq] |
                 with_reducible apply keptC_of | with_reducible apply keptC_marks | with_reducible apply keptC_regs |
                 with_reducible exact kept_fst (by assumption) (by assumption))

theorem State.applyWrite_kept {dv : Nat} (s : State) (w : LodeWrite) (t : Nat) (h_s : Kept dv s) : Kept dv (State.applyWrite s w t).1 :=
    by
  unfold State.applyWrite
  try dsimp only
  repeat' (first | with_reducible assumption | with_reducible apply State.count_kept | with_reducible apply State.storeCopy_kept |
                 (intro _) | split | dsimp only [StepKept, OutKept, IssueKept, MicroKept, OptKept, done] | simp only [kept_mk_eq] |
                 with_reducible apply keptC_of | with_reducible apply keptC_marks | with_reducible apply keptC_regs |
                 with_reducible exact kept_fst (by assumption) (by assumption))

theorem State.applyClear_kept {dv : Nat} (s : State) (slot tc : Nat) (h_s : Kept dv s) : Kept dv (State.applyClear s slot tc) := by
  unfold State.applyClear
  try dsimp only
  repeat' (first | with_reducible assumption | with_reducible apply State.setSlot_kept | (intro _) | split |
                 dsimp only [StepKept, OutKept, IssueKept, MicroKept, OptKept, done] | simp only [kept_mk_eq] |
                 with_reducible apply keptC_of | with_reducible apply keptC_marks | with_reducible apply keptC_regs |
                 with_reducible exact kept_fst (by assumption) (by assumption))

theorem State.applyConfig_kept {dv : Nat} (s : State) (slot data : Nat) (h_s : Kept dv s) : Kept dv (State.applyConfig s slot data) :=
    by
  unfold State.applyConfig
  try dsimp only
  repeat' (first | with_reducible assumption | with_reducible apply State.setSlot_kept | (intro _) | split |
                 dsimp only [StepKept, OutKept, IssueKept, MicroKept, OptKept, done] | simp only [kept_mk_eq] |
                 with_reducible apply keptC_of | with_reducible apply keptC_marks | with_reducible apply keptC_regs |
                 with_reducible exact kept_fst (by assumption) (by assumption))

theorem State.markStall_kept {dv : Nat} (s : State) (h_s : Kept dv s) : Kept dv (State.markStall s) := by
  unfold State.markStall
  try dsimp only
  repeat' (first | with_reducible assumption | with_reducible apply State.raise_kept | (intro _) | split |
                 dsimp only [StepKept, OutKept, IssueKept, MicroKept, OptKept, done] | simp only [kept_mk_eq] |
                 with_reducible apply keptC_of | with_reducible apply keptC_marks | with_reducible apply keptC_regs |
                 with_reducible exact kept_fst (by assumption) (by assumption))

theorem State.queueWrite_kept {dv : Nat} (s : State) (w : HoldItem) (h_s : Kept dv s) : Kept dv (State.queueWrite s w) := by
  unfold State.queueWrite
  try dsimp only
  repeat' (first | with_reducible assumption | (intro _) | split | dsimp only [StepKept, OutKept, IssueKept, MicroKept, OptKept, done] |
                 simp only [kept_mk_eq] | with_reducible apply keptC_of | with_reducible apply keptC_marks |
                 with_reducible apply keptC_regs | with_reducible exact kept_fst (by assumption) (by assumption))

theorem State.applyForce_kept {dv : Nat} (s : State) (w : LodeWrite) (t : Nat) (h_s : Kept dv s) : Kept dv (State.applyForce s w t).1 :=
    by
  unfold State.applyForce
  try dsimp only
  repeat' (first | with_reducible assumption | with_reducible apply State.count_kept | with_reducible apply State.setSlot_kept |
                 with_reducible apply State.applyWrite_kept | (intro _) | split |
                 dsimp only [StepKept, OutKept, IssueKept, MicroKept, OptKept, done] | simp only [kept_mk_eq] |
                 with_reducible apply keptC_of | with_reducible apply keptC_marks | with_reducible apply keptC_regs |
                 with_reducible exact kept_fst (by assumption) (by assumption))

theorem State.applyItem_kept {dv : Nat} (s : State) (i : HoldItem) (h_s : Kept dv s) : Kept dv (State.applyItem s i).1 := by
  unfold State.applyItem
  try dsimp only
  repeat' (first | with_reducible assumption | with_reducible apply State.stamp_kept | with_reducible apply State.setSlot_kept |
                 with_reducible apply State.applyWrite_kept | with_reducible apply State.applyClear_kept |
                 with_reducible apply State.applyConfig_kept | with_reducible apply State.applyForce_kept | (intro _) | split |
                 dsimp only [StepKept, OutKept, IssueKept, MicroKept, OptKept, done] | simp only [kept_mk_eq] |
                 with_reducible apply keptC_of | with_reducible apply keptC_marks | with_reducible apply keptC_regs |
                 with_reducible exact kept_fst (by assumption) (by assumption))

theorem State.applyHeld_kept {dv : Nat} (s : State) (i : HoldItem) (h_s : Kept dv s) : Kept dv (State.applyHeld s i).1 := by
  unfold State.applyHeld
  try dsimp only
  repeat' (first | with_reducible assumption | with_reducible apply State.applyWrite_kept | with_reducible apply State.applyClear_kept |
                 with_reducible apply State.applyConfig_kept | with_reducible apply getD_kept | (intro _) | split |
                 dsimp only [StepKept, OutKept, IssueKept, MicroKept, OptKept, done] | simp only [kept_mk_eq] |
                 with_reducible apply keptC_of | with_reducible apply keptC_marks | with_reducible apply keptC_regs |
                 with_reducible exact kept_fst (by assumption) (by assumption))

theorem State.applyHolds_kept {dv : Nat} (s : State) (l : List HoldItem) (h_s : Kept dv s) : Kept dv (State.applyHolds s l).1 := by
  fun_induction State.applyHolds s l
  all_goals (repeat' (first | with_reducible assumption | (rename_i ih; with_reducible apply ih) | with_reducible apply State.applyHeld_kept |
                            (intro _) | split | dsimp only [StepKept, OutKept, IssueKept, MicroKept, OptKept, done] |
                            simp only [kept_mk_eq] | with_reducible apply keptC_of | with_reducible apply keptC_marks |
                            with_reducible apply keptC_regs | with_reducible exact kept_fst (by assumption) (by assumption)))
  all_goals first | done | simp_all

theorem State.advance_kept {dv : Nat} (s : State) (b : Nat) (h_s : Kept dv s) : Kept dv (State.advance s b).1 := by
  unfold State.advance
  try dsimp only
  repeat' (first | with_reducible assumption | with_reducible apply State.setFld_kept | with_reducible apply State.raise_kept |
                 with_reducible apply State.count_kept | with_reducible apply State.log_kept | (intro _) | split |
                 dsimp only [StepKept, OutKept, IssueKept, MicroKept, OptKept, done] | simp only [kept_mk_eq] |
                 with_reducible apply keptC_of | with_reducible apply keptC_marks | with_reducible apply keptC_regs |
                 with_reducible exact kept_fst (by assumption) (by assumption))

theorem State.requestAdvance_kept {dv : Nat} (s : State) (b : Nat) (h_s : Kept dv s) : Kept dv (State.requestAdvance s b).1 := by
  unfold State.requestAdvance
  try dsimp only
  repeat' (first | with_reducible assumption | with_reducible apply State.advance_kept | (intro _) | split |
                 dsimp only [StepKept, OutKept, IssueKept, MicroKept, OptKept, done] | simp only [kept_mk_eq] |
                 with_reducible apply keptC_of | with_reducible apply keptC_marks | with_reducible apply keptC_regs |
                 with_reducible exact kept_fst (by assumption) (by assumption))

theorem State.cmpAdvance_kept {dv : Nat} (s : State) (n t : Nat) (h_s : Kept dv s) : Kept dv (State.cmpAdvance s n t) := by
  unfold State.cmpAdvance
  try dsimp only
  repeat' (first | with_reducible assumption | with_reducible apply State.setReg_kept | with_reducible apply State.setFld_kept |
                 with_reducible apply State.raise_kept | with_reducible apply State.count_kept | with_reducible apply State.log_kept |
                 (intro _) | split | dsimp only [StepKept, OutKept, IssueKept, MicroKept, OptKept, done] | simp only [kept_mk_eq] |
                 with_reducible apply keptC_of | with_reducible apply keptC_marks | with_reducible apply keptC_regs |
                 with_reducible exact kept_fst (by assumption) (by assumption))

theorem State.advancesFirst_kept {dv : Nat} (s : State) (t k : Nat) (h_s : Kept dv s) : Kept dv (State.advancesFirst s t k) := by
  fun_induction State.advancesFirst s t k
  all_goals (repeat' (first | with_reducible assumption | (rename_i ih; with_reducible apply ih) | with_reducible apply State.requestAdvance_kept |
                            with_reducible apply State.cmpAdvance_kept | (intro _) | split |
                            dsimp only [StepKept, OutKept, IssueKept, MicroKept, OptKept, done] | simp only [kept_mk_eq] |
                            with_reducible apply keptC_of | with_reducible apply keptC_marks | with_reducible apply keptC_regs |
                            with_reducible exact kept_fst (by assumption) (by assumption)))
  all_goals first | done | simp_all

theorem State.modQuery_kept {dv : Nat} (s : State) (key : Nat) (f : QueryCtx → QueryCtx) (h_s : Kept dv s) : Kept dv (State.modQuery s
    key f) := by
  unfold State.modQuery
  try dsimp only
  repeat' (first | with_reducible assumption | (intro _) | split | dsimp only [StepKept, OutKept, IssueKept, MicroKept, OptKept, done] |
                 simp only [kept_mk_eq] | with_reducible apply keptC_of | with_reducible apply keptC_marks |
                 with_reducible apply keptC_regs | with_reducible exact kept_fst (by assumption) (by assumption))

theorem State.queryClose_kept {dv : Nat} (s : State) (h_s : Kept dv s) : Kept dv (State.queryClose s) := by
  unfold State.queryClose
  try dsimp only
  repeat' (first | with_reducible assumption | with_reducible apply State.modQuery_kept | with_reducible apply foldl_kept | (intro _) |
                 split | dsimp only [StepKept, OutKept, IssueKept, MicroKept, OptKept, done] | simp only [kept_mk_eq] |
                 with_reducible apply keptC_of | with_reducible apply keptC_marks | with_reducible apply keptC_regs |
                 with_reducible exact kept_fst (by assumption) (by assumption))

theorem State.closeEpoch_kept {dv : Nat} (s : State) (h_s : Kept dv s) : Kept dv (State.closeEpoch s).1 := by
  unfold State.closeEpoch
  try dsimp only
  repeat' (first | with_reducible assumption | with_reducible apply State.setFld_kept | with_reducible apply State.applyHolds_kept |
                 with_reducible apply State.queryClose_kept | (intro _) | split |
                 dsimp only [StepKept, OutKept, IssueKept, MicroKept, OptKept, done] | simp only [kept_mk_eq] |
                 with_reducible apply keptC_of | with_reducible apply keptC_marks | with_reducible apply keptC_regs |
                 with_reducible exact kept_fst (by assumption) (by assumption))

theorem State.initLode_kept {dv : Nat} (s : State) (h_s : Kept dv s) : Kept dv (State.initLode s) := by
  unfold State.initLode
  try dsimp only
  repeat' (first | with_reducible assumption | with_reducible apply State.setFld_kept | (intro _) | split |
                 dsimp only [StepKept, OutKept, IssueKept, MicroKept, OptKept, done] | simp only [kept_mk_eq] |
                 with_reducible apply keptC_of | with_reducible apply keptC_marks | with_reducible apply keptC_regs |
                 with_reducible exact kept_fst (by assumption) (by assumption))

theorem State.poisonCopy_kept {dv : Nat} (s : State) (slot : Nat) (zero : Bool) (h_s : Kept dv s) : Kept dv (State.poisonCopy s slot
    zero) := by
  unfold State.poisonCopy
  try dsimp only
  repeat' (first | with_reducible assumption | with_reducible apply State.log_kept | with_reducible apply State.setSlot_kept | (intro _)
                 | split | dsimp only [StepKept, OutKept, IssueKept, MicroKept, OptKept, done] | simp only [kept_mk_eq] |
                 with_reducible apply keptC_of | with_reducible apply keptC_marks | with_reducible apply keptC_regs |
                 with_reducible exact kept_fst (by assumption) (by assumption))

theorem State.copyWindow_kept {dv : Nat} (s : State) (w : Nat) (h_s : Kept dv s) : Kept dv (State.copyWindow s w) := by
  unfold State.copyWindow
  try dsimp only
  repeat' (first | with_reducible assumption | with_reducible apply State.setReg_kept | (intro _) | split |
                 dsimp only [StepKept, OutKept, IssueKept, MicroKept, OptKept, done] | simp only [kept_mk_eq] |
                 with_reducible apply keptC_of | with_reducible apply keptC_marks | with_reducible apply keptC_regs |
                 with_reducible exact kept_fst (by assumption) (by assumption))

theorem State.flushPred_kept {dv : Nat} (s : State) (h : Nat) (h_s : Kept dv s) : Kept dv (State.flushPred s h) := by
  unfold State.flushPred
  try dsimp only
  repeat' (first | with_reducible assumption | with_reducible apply State.modTwin_kept | (intro _) | split |
                 dsimp only [StepKept, OutKept, IssueKept, MicroKept, OptKept, done] | simp only [kept_mk_eq] |
                 with_reducible apply keptC_of | with_reducible apply keptC_marks | with_reducible apply keptC_regs |
                 with_reducible exact kept_fst (by assumption) (by assumption))

theorem State.l1iDrop_kept {dv : Nat} (s : State) (h : Nat) (h_s : Kept dv s) : Kept dv (State.l1iDrop s h) := by
  unfold State.l1iDrop
  try dsimp only
  repeat' (first | with_reducible assumption | with_reducible apply State.modTwin_kept | (intro _) | split |
                 dsimp only [StepKept, OutKept, IssueKept, MicroKept, OptKept, done] | simp only [kept_mk_eq] |
                 with_reducible apply keptC_of | with_reducible apply keptC_marks | with_reducible apply keptC_regs |
                 with_reducible exact kept_fst (by assumption) (by assumption))

theorem State.cdtBring_kept {dv : Nat} (s : State) (h n : Nat) (h_s : Kept dv s) : Kept dv (State.cdtBring s h n) := by
  unfold State.cdtBring
  try dsimp only
  repeat' (first | with_reducible assumption | with_reducible apply State.modHew_kept | with_reducible apply State.setTwin_kept |
                 (intro _) | split | dsimp only [StepKept, OutKept, IssueKept, MicroKept, OptKept, done] | simp only [kept_mk_eq] |
                 with_reducible apply keptC_of | with_reducible apply keptC_marks | with_reducible apply keptC_regs |
                 with_reducible exact kept_fst (by assumption) (by assumption))

theorem State.cdtDrift_kept {dv : Nat} (s : State) (h : Nat) (h_s : Kept dv s) : Kept dv (State.cdtDrift s h) := by
  unfold State.cdtDrift
  try dsimp only
  repeat' (first | with_reducible assumption | with_reducible apply State.cdtBring_kept | (intro _) | split |
                 dsimp only [StepKept, OutKept, IssueKept, MicroKept, OptKept, done] | simp only [kept_mk_eq] |
                 with_reducible apply keptC_of | with_reducible apply keptC_marks | with_reducible apply keptC_regs |
                 with_reducible exact kept_fst (by assumption) (by assumption))

theorem State.cdtReach_kept {dv : Nat} (s : State) (h : Nat) (h_s : Kept dv s) : Kept dv (State.cdtReach s h) := by
  unfold State.cdtReach
  try dsimp only
  repeat' (first | with_reducible assumption | with_reducible apply State.modHew_kept | with_reducible apply State.cdtBring_kept |
                 (intro _) | split | dsimp only [StepKept, OutKept, IssueKept, MicroKept, OptKept, done] | simp only [kept_mk_eq] |
                 with_reducible apply keptC_of | with_reducible apply keptC_marks | with_reducible apply keptC_regs |
                 with_reducible exact kept_fst (by assumption) (by assumption))

theorem State.askHalt_kept {dv : Nat} (s : State) (h cause : Nat) (h_s : Kept dv s) : Kept dv (State.askHalt s h cause) := by
  unfold State.askHalt
  try dsimp only
  repeat' (first | with_reducible assumption | with_reducible apply State.modHew_kept | with_reducible apply getD_kept | (intro _) |
                 split | dsimp only [StepKept, OutKept, IssueKept, MicroKept, OptKept, done] | simp only [kept_mk_eq] |
                 with_reducible apply keptC_of | with_reducible apply keptC_marks | with_reducible apply keptC_regs |
                 with_reducible exact kept_fst (by assumption) (by assumption))

theorem State.askHalts_kept {dv : Nat} (s : State) (n h cause : Nat) (h_s : Kept dv s) : Kept dv (State.askHalts s n h cause) := by
  fun_induction State.askHalts s n h cause
  all_goals (repeat' (first | with_reducible assumption | (rename_i ih; with_reducible apply ih) | with_reducible apply State.askHalt_kept |
                            (intro _) | split | dsimp only [StepKept, OutKept, IssueKept, MicroKept, OptKept, done] |
                            simp only [kept_mk_eq] | with_reducible apply keptC_of | with_reducible apply keptC_marks |
                            with_reducible apply keptC_regs | with_reducible exact kept_fst (by assumption) (by assumption)))
  all_goals first | done | simp_all

theorem State.cmpAct_kept {dv : Nat} (s : State) (h : Nat) (l : List Nat) (post : Bool) (h_s : Kept dv s) : Kept dv (State.cmpAct s h l
    post).1 := by
  unfold State.cmpAct
  try dsimp only
  repeat' (first | with_reducible assumption | with_reducible apply State.setFld_kept | with_reducible apply State.raise_kept |
                 with_reducible apply State.askHalt_kept | with_reducible apply State.askHalts_kept | with_reducible apply foldl_kept |
                 (intro _) | split | dsimp only [StepKept, OutKept, IssueKept, MicroKept, OptKept, done] | simp only [kept_mk_eq] |
                 with_reducible apply keptC_of | with_reducible apply keptC_marks | with_reducible apply keptC_regs |
                 with_reducible exact kept_fst (by assumption) (by assumption))

theorem State.addCount_kept {dv : Nat} (s : State) (h n k : Nat) (h_s : Kept dv s) : Kept dv (State.addCount s h n k) := by
  unfold State.addCount
  try dsimp only
  repeat' (first | with_reducible assumption | with_reducible apply State.setFld_kept | (intro _) | split |
                 dsimp only [StepKept, OutKept, IssueKept, MicroKept, OptKept, done] | simp only [kept_mk_eq] |
                 with_reducible apply keptC_of | with_reducible apply keptC_marks | with_reducible apply keptC_regs |
                 with_reducible exact kept_fst (by assumption) (by assumption))

theorem State.tallyFrom_kept {dv : Nat} (s : State) (h e k m n : Nat) (h_s : Kept dv s) : Kept dv (State.tallyFrom s h e k m n) := by
  fun_induction State.tallyFrom s h e k m n
  all_goals (repeat' (first | with_reducible assumption | (rename_i ih; with_reducible apply ih) | with_reducible apply State.addCount_kept |
                            (intro _) | split | dsimp only [StepKept, OutKept, IssueKept, MicroKept, OptKept, done] |
                            simp only [kept_mk_eq] | with_reducible apply keptC_of | with_reducible apply keptC_marks |
                            with_reducible apply keptC_regs | with_reducible exact kept_fst (by assumption) (by assumption)))
  all_goals first | done | simp_all

theorem State.noteEvent_kept {dv : Nat} (s : State) (h e : Nat) (h_s : Kept dv s) : Kept dv (State.noteEvent s h e) := by
  unfold State.noteEvent
  try dsimp only
  repeat' (first | with_reducible assumption | with_reducible apply State.modTwin_kept | (intro _) | split |
                 dsimp only [StepKept, OutKept, IssueKept, MicroKept, OptKept, done] | simp only [kept_mk_eq] |
                 with_reducible apply keptC_of | with_reducible apply keptC_marks | with_reducible apply keptC_regs |
                 with_reducible exact kept_fst (by assumption) (by assumption))

theorem State.tally_kept {dv : Nat} (s : State) (h e : Nat) (h_s : Kept dv s) : Kept dv (State.tally s h e) := by
  unfold State.tally
  try dsimp only
  repeat' (first | with_reducible assumption | with_reducible apply State.tallyFrom_kept | with_reducible apply State.noteEvent_kept |
                 (intro _) | split | dsimp only [StepKept, OutKept, IssueKept, MicroKept, OptKept, done] | simp only [kept_mk_eq] |
                 with_reducible apply keptC_of | with_reducible apply keptC_marks | with_reducible apply keptC_regs |
                 with_reducible exact kept_fst (by assumption) (by assumption))

theorem State.l2Request_kept {dv : Nat} (s : State) (h line ca cls : Nat) (write : Bool) (h_s : Kept dv s) : Kept dv (State.l2Request s
    h line ca cls write).1 := by
  unfold State.l2Request
  try dsimp only
  repeat' (first | with_reducible assumption | with_reducible apply State.l2Get_kept | with_reducible apply State.hubUse_kept |
                 with_reducible apply State.tally_kept | (intro _) | split |
                 dsimp only [StepKept, OutKept, IssueKept, MicroKept, OptKept, done] | simp only [kept_mk_eq] |
                 with_reducible apply keptC_of | with_reducible apply keptC_marks | with_reducible apply keptC_regs |
                 with_reducible exact kept_fst (by assumption) (by assumption))

theorem State.walkRead_kept {dv : Nat} (s : State) (h pa : Nat) (h_s : Kept dv s) : Kept dv (State.walkRead s h pa) := by
  unfold State.walkRead
  try dsimp only
  repeat' (first | with_reducible assumption | with_reducible apply State.l2Request_kept | (intro _) | split |
                 dsimp only [StepKept, OutKept, IssueKept, MicroKept, OptKept, done] | simp only [kept_mk_eq] |
                 with_reducible apply keptC_of | with_reducible apply keptC_marks | with_reducible apply keptC_regs |
                 with_reducible exact kept_fst (by assumption) (by assumption))

theorem State.l1iUse_kept {dv : Nat} (s : State) (h pa ca cls : Nat) (wrong : Bool) (h_s : Kept dv s) : Kept dv (State.l1iUse s h pa ca
    cls wrong) := by
  unfold State.l1iUse
  try dsimp only
  repeat' (first | with_reducible assumption | with_reducible apply State.modTwin_kept | with_reducible apply State.tally_kept |
                 with_reducible apply State.l2Request_kept | (intro _) | split |
                 dsimp only [StepKept, OutKept, IssueKept, MicroKept, OptKept, done] | simp only [kept_mk_eq] |
                 with_reducible apply keptC_of | with_reducible apply keptC_marks | with_reducible apply keptC_regs |
                 with_reducible exact kept_fst (by assumption) (by assumption))

theorem State.l1dOthers_kept {dv : Nat} (s : State) (g tn line : Nat) (write : Bool) (h_s : Kept dv s) : Kept dv (State.l1dOthers s g tn
    line write) := by
  unfold State.l1dOthers
  try dsimp only
  repeat' (first | with_reducible assumption | with_reducible apply State.galleryDrop_kept |
                 with_reducible apply State.galleryClean_kept | with_reducible apply State.l2Mod_kept | (intro _) | split |
                 dsimp only [StepKept, OutKept, IssueKept, MicroKept, OptKept, done] | simp only [kept_mk_eq] |
                 with_reducible apply keptC_of | with_reducible apply keptC_marks | with_reducible apply keptC_regs |
                 with_reducible exact kept_fst (by assumption) (by assumption))

theorem State.l1dFill_kept {dv : Nat} (s : State) (g tn line : Nat) (dirty : Bool) (h_s : Kept dv s) : Kept dv (State.l1dFill s g tn
    line dirty) := by
  unfold State.l1dFill
  try dsimp only
  repeat' (first | with_reducible assumption | with_reducible apply State.modTwin_kept | with_reducible apply State.l2Mod_kept |
                 with_reducible apply foldl_kept | (intro _) | split |
                 dsimp only [StepKept, OutKept, IssueKept, MicroKept, OptKept, done] | simp only [kept_mk_eq] |
                 with_reducible apply keptC_of | with_reducible apply keptC_marks | with_reducible apply keptC_regs |
                 with_reducible exact kept_fst (by assumption) (by assumption))

theorem State.ownLine_kept {dv : Nat} (s : State) (h line : Nat) (h_s : Kept dv s) : Kept dv (State.ownLine s h line) := by
  unfold State.ownLine
  try dsimp only
  repeat' (first | with_reducible assumption | with_reducible apply State.setDir_kept | with_reducible apply State.invalidateLine_kept |
                 (intro _) | split | dsimp only [StepKept, OutKept, IssueKept, MicroKept, OptKept, done] | simp only [kept_mk_eq] |
                 with_reducible apply keptC_of | with_reducible apply keptC_marks | with_reducible apply keptC_regs |
                 with_reducible exact kept_fst (by assumption) (by assumption))

theorem State.dataLine_kept {dv : Nat} (s : State) (h line ca cls : Nat) (write : Bool) (h_s : Kept dv s) : Kept dv (State.dataLine s h
    line ca cls write).1 := by
  unfold State.dataLine
  try dsimp only
  repeat' (first | with_reducible assumption | with_reducible apply State.l2Mod_kept | with_reducible apply State.tallyFrom_kept |
                 with_reducible apply State.tally_kept | with_reducible apply State.l2Request_kept |
                 with_reducible apply State.l1dOthers_kept | with_reducible apply State.l1dFill_kept |
                 with_reducible apply State.ownLine_kept | (intro _) | split |
                 dsimp only [StepKept, OutKept, IssueKept, MicroKept, OptKept, done] | simp only [kept_mk_eq] |
                 with_reducible apply keptC_of | with_reducible apply keptC_marks | with_reducible apply keptC_regs |
                 with_reducible exact kept_fst (by assumption) (by assumption))

theorem State.amoLine_kept {dv : Nat} (s : State) (h line ca cls : Nat) (h_s : Kept dv s) : Kept dv (State.amoLine s h line ca cls) :=
    by
  unfold State.amoLine
  try dsimp only
  repeat' (first | with_reducible assumption | with_reducible apply State.galleryDrop_kept | with_reducible apply State.l2Mod_kept |
                 with_reducible apply State.l2Request_kept | (intro _) | split |
                 dsimp only [StepKept, OutKept, IssueKept, MicroKept, OptKept, done] | simp only [kept_mk_eq] |
                 with_reducible apply keptC_of | with_reducible apply keptC_marks | with_reducible apply keptC_regs |
                 with_reducible exact kept_fst (by assumption) (by assumption))

theorem State.sbPerform_kept {dv : Nat} (s : State) (h : Nat) (e : StoreEntry) (h_s : Kept dv s) : Kept dv (State.sbPerform s h e) := by
  unfold State.sbPerform
  try dsimp only
  repeat' (first | with_reducible assumption | with_reducible apply State.hewerWrite_kept | with_reducible apply State.dataLine_kept |
                 with_reducible apply foldl_kept | (intro _) | split |
                 dsimp only [StepKept, OutKept, IssueKept, MicroKept, OptKept, done] | simp only [kept_mk_eq] |
                 with_reducible apply keptC_of | with_reducible apply keptC_marks | with_reducible apply keptC_regs |
                 with_reducible exact kept_fst (by assumption) (by assumption))

theorem State.sbDrain_kept {dv : Nat} (s : State) (h n : Nat) (h_s : Kept dv s) : Kept dv (State.sbDrain s h n) := by
  unfold State.sbDrain
  try dsimp only
  repeat' (first | with_reducible assumption | with_reducible apply State.modTwin_kept | with_reducible apply State.sbPerform_kept |
                 with_reducible apply foldl_kept | (intro _) | split |
                 dsimp only [StepKept, OutKept, IssueKept, MicroKept, OptKept, done] | simp only [kept_mk_eq] |
                 with_reducible apply keptC_of | with_reducible apply keptC_marks | with_reducible apply keptC_regs |
                 with_reducible exact kept_fst (by assumption) (by assumption))

theorem State.sbFlush_kept {dv : Nat} (s : State) (h : Nat) (h_s : Kept dv s) : Kept dv (State.sbFlush s h) := by
  unfold State.sbFlush
  try dsimp only
  repeat' (first | with_reducible assumption | with_reducible apply State.sbDrain_kept | (intro _) | split |
                 dsimp only [StepKept, OutKept, IssueKept, MicroKept, OptKept, done] | simp only [kept_mk_eq] |
                 with_reducible apply keptC_of | with_reducible apply keptC_marks | with_reducible apply keptC_regs |
                 with_reducible exact kept_fst (by assumption) (by assumption))

theorem State.sbPut_kept {dv : Nat} (s : State) (h : Nat) (e : StoreEntry) (h_s : Kept dv s) : Kept dv (State.sbPut s h e) := by
  unfold State.sbPut
  try dsimp only
  repeat' (first | with_reducible assumption | with_reducible apply State.modTwin_kept | with_reducible apply State.sbDrain_kept |
                 (intro _) | split | dsimp only [StepKept, OutKept, IssueKept, MicroKept, OptKept, done] | simp only [kept_mk_eq] |
                 with_reducible apply keptC_of | with_reducible apply keptC_marks | with_reducible apply keptC_regs |
                 with_reducible exact kept_fst (by assumption) (by assumption))

theorem State.sbSearch_kept {dv : Nat} (s : State) (h a n : Nat) (h_s : Kept dv s) : Kept dv (State.sbSearch s h a n).1 := by
  unfold State.sbSearch
  try dsimp only
  repeat' (first | with_reducible assumption | with_reducible apply State.sbDrain_kept | (intro _) | split |
                 dsimp only [StepKept, OutKept, IssueKept, MicroKept, OptKept, done] | simp only [kept_mk_eq] |
                 with_reducible apply keptC_of | with_reducible apply keptC_marks | with_reducible apply keptC_regs |
                 with_reducible exact kept_fst (by assumption) (by assumption))

theorem State.breakFlow_kept {dv : Nat} (s : State) (h : Nat) (h_s : Kept dv s) : Kept dv (State.breakFlow s h) := by
  unfold State.breakFlow
  try dsimp only
  repeat' (first | with_reducible assumption | with_reducible apply State.modHew_kept | with_reducible apply State.flushPred_kept |
                 with_reducible apply State.l1iDrop_kept | with_reducible apply State.cdtReach_kept |
                 with_reducible apply State.sbFlush_kept | (intro _) | split |
                 dsimp only [StepKept, OutKept, IssueKept, MicroKept, OptKept, done] | simp only [kept_mk_eq] |
                 with_reducible apply keptC_of | with_reducible apply keptC_marks | with_reducible apply keptC_regs |
                 with_reducible exact kept_fst (by assumption) (by assumption))

theorem State.enter_kept {dv : Nat} (s : State) (h : Nat) (m isInt : Bool) (code : Nat) (epc : Word) (eval : Option Word) (lvl : Option
    Nat) (h_s : Kept dv s) : Kept dv (State.enter s h m isInt code epc eval lvl) := by
  unfold State.enter
  try dsimp only
  repeat' (first | with_reducible assumption | with_reducible apply State.setHew_kept | with_reducible apply State.breakFlow_kept |
                 with_reducible apply getD_kept | (intro _) | split |
                 dsimp only [StepKept, OutKept, IssueKept, MicroKept, OptKept, done] | simp only [kept_mk_eq] |
                 with_reducible apply keptC_of | with_reducible apply keptC_marks | with_reducible apply keptC_regs |
                 with_reducible exact kept_fst (by assumption) (by assumption))

theorem State.prefetchLine_kept {dv : Nat} (s : State) (h pa cls : Nat) (h_s : Kept dv s) : Kept dv (State.prefetchLine s h pa cls) :=
    by
  unfold State.prefetchLine
  try dsimp only
  repeat' (first | with_reducible assumption | with_reducible apply State.draw_kept | with_reducible apply State.tally_kept |
                 with_reducible apply State.l2Request_kept | with_reducible apply State.l1dOthers_kept |
                 with_reducible apply State.l1dFill_kept | (intro _) | split |
                 dsimp only [StepKept, OutKept, IssueKept, MicroKept, OptKept, done] | simp only [kept_mk_eq] |
                 with_reducible apply keptC_of | with_reducible apply keptC_marks | with_reducible apply keptC_regs |
                 with_reducible exact kept_fst (by assumption) (by assumption))

theorem State.missNoted_kept {dv : Nat} (s : State) (h ea pa cls : Nat) (h_s : Kept dv s) : Kept dv (State.missNoted s h ea pa cls) :=
    by
  unfold State.missNoted
  try dsimp only
  repeat' (first | with_reducible assumption | with_reducible apply State.modTwin_kept | with_reducible apply State.prefetchLine_kept |
                 (intro _) | split | dsimp only [StepKept, OutKept, IssueKept, MicroKept, OptKept, done] | simp only [kept_mk_eq] |
                 with_reducible apply keptC_of | with_reducible apply keptC_marks | with_reducible apply keptC_regs |
                 with_reducible exact kept_fst (by assumption) (by assumption))

theorem State.walk_kept {dv : Nat} (s : State) (h : Nat) (fetch wrong : Bool) (asid va missCode level table : Nat)
    (h_s : Kept dv s) : Kept dv (State.walk s h fetch wrong asid va missCode level table).1 := by
  induction level generalizing s table with
  | zero => exact h_s
  | succ n ih =>
    unfold State.walk
    dsimp only
    repeat' (first | with_reducible assumption | apply ih | with_reducible apply State.modTwin_kept
                   | with_reducible apply State.walkRead_kept | with_reducible apply State.tally_kept | split | dsimp only)

theorem State.walkFrom_kept {dv : Nat} (s : State) (h : Nat) (fetch wrong : Bool) (asid va missCode root : Nat) (h_s : Kept dv s) : Kept
    dv (State.walkFrom s h fetch wrong asid va missCode root).1 := by
  unfold State.walkFrom
  try dsimp only
  repeat' (first | with_reducible assumption | with_reducible apply State.modTwin_kept | with_reducible apply State.walk_kept |
                 (intro _) | split | dsimp only [StepKept, OutKept, IssueKept, MicroKept, OptKept, done] | simp only [kept_mk_eq] |
                 with_reducible apply keptC_of | with_reducible apply keptC_marks | with_reducible apply keptC_regs |
                 with_reducible exact kept_fst (by assumption) (by assumption))

theorem State.tlbFind_kept {dv : Nat} (s : State) (h : Nat) (fetch wrong : Bool) (asid va : Nat) (h_s : Kept dv s) : Kept dv
    (State.tlbFind s h fetch wrong asid va).1 := by
  unfold State.tlbFind
  try dsimp only
  repeat' (first | with_reducible assumption | with_reducible apply State.setTwin_kept | with_reducible apply State.tally_kept |
                 (intro _) | split | dsimp only [StepKept, OutKept, IssueKept, MicroKept, OptKept, done] | simp only [kept_mk_eq] |
                 with_reducible apply keptC_of | with_reducible apply keptC_marks | with_reducible apply keptC_regs |
                 with_reducible exact kept_fst (by assumption) (by assumption))

theorem State.walkFill_kept {dv : Nat} (s : State) (h : Nat) (k : AccKind) (wrong : Bool) (asid va root : Nat) (onlyL1 : Bool) (h_s :
    Kept dv s) : Kept dv (State.walkFill s h k wrong asid va root onlyL1).1 := by
  unfold State.walkFill
  try dsimp only
  repeat' (first | with_reducible assumption | with_reducible apply State.modTwin_kept | with_reducible apply State.tally_kept |
                 with_reducible apply State.walkFrom_kept | (intro _) | split |
                 dsimp only [StepKept, OutKept, IssueKept, MicroKept, OptKept, done] | simp only [kept_mk_eq] |
                 with_reducible apply keptC_of | with_reducible apply keptC_marks | with_reducible apply keptC_regs |
                 with_reducible exact kept_fst (by assumption) (by assumption))

theorem State.full_kept {dv : Nat} (s : State) (h : Nat) (k : AccKind) (wrong : Bool) (va : Nat) (h_s : Kept dv s) : Kept dv (State.full
    s h k wrong va).1 := by
  unfold State.full
  try dsimp only
  repeat' (first | with_reducible assumption | with_reducible apply State.tlbFind_kept | with_reducible apply State.walkFill_kept |
                 (intro _) | split | dsimp only [StepKept, OutKept, IssueKept, MicroKept, OptKept, done] | simp only [kept_mk_eq] |
                 with_reducible apply keptC_of | with_reducible apply keptC_marks | with_reducible apply keptC_regs |
                 with_reducible exact kept_fst (by assumption) (by assumption))

theorem State.translate_kept {dv : Nat} (s : State) (h : Nat) (k : AccKind) (va n : Nat) (aligned : Bool) (h_s : Kept dv s) : Kept dv
    (State.translate s h k va n aligned).s := by
  unfold State.translate
  try dsimp only
  repeat' (first | with_reducible assumption | with_reducible apply State.walkFill_kept | with_reducible apply State.full_kept |
                 (intro _) | split | dsimp only [StepKept, OutKept, IssueKept, MicroKept, OptKept, done] | simp only [kept_mk_eq] |
                 with_reducible apply keptC_of | with_reducible apply keptC_marks | with_reducible apply keptC_regs |
                 with_reducible exact kept_fst (by assumption) (by assumption))

theorem State.access_kept {dv : Nat} (s : State) (h : Nat) (k : AccKind) (va n : Nat) (h_s : Kept dv s) : Kept dv (State.access s h k va
    n).s := by
  unfold State.access
  try dsimp only
  repeat' (first | with_reducible assumption | with_reducible apply State.translate_kept | (intro _) | split |
                 dsimp only [StepKept, OutKept, IssueKept, MicroKept, OptKept, done] | simp only [kept_mk_eq] |
                 with_reducible apply keptC_of | with_reducible apply keptC_marks | with_reducible apply keptC_regs |
                 with_reducible exact kept_fst (by assumption) (by assumption))

theorem State.wrongLeaf_kept {dv : Nat} (s : State) (h va : Nat) (h_s : Kept dv s) : Kept dv (State.wrongLeaf s h va).1 := by
  unfold State.wrongLeaf
  try dsimp only
  repeat' (first | with_reducible assumption | with_reducible apply State.full_kept | with_reducible apply State.translate_kept |
                 (intro _) | split | dsimp only [StepKept, OutKept, IssueKept, MicroKept, OptKept, done] | simp only [kept_mk_eq] |
                 with_reducible apply keptC_of | with_reducible apply keptC_marks | with_reducible apply keptC_regs |
                 with_reducible exact kept_fst (by assumption) (by assumption))

theorem State.wrongFetch_kept {dv : Nat} (s : State) (h cls n va : Nat) (h_s : Kept dv s) : Kept dv (State.wrongFetch s h cls n va) :=
    by
  fun_induction State.wrongFetch s h cls n va
  all_goals (repeat' (first | with_reducible assumption | (rename_i ih; with_reducible apply ih) | with_reducible apply State.l1iUse_kept |
                            with_reducible apply State.wrongLeaf_kept | (intro _) | split |
                            dsimp only [StepKept, OutKept, IssueKept, MicroKept, OptKept, done] | simp only [kept_mk_eq] |
                            with_reducible apply keptC_of | with_reducible apply keptC_marks | with_reducible apply keptC_regs |
                            with_reducible exact kept_fst (by assumption) (by assumption)))
  all_goals first | done | simp_all

end Sys2Proof.Machine
end

