-- ==== Sys2Proof/Laws/KeptDraught.lean ====
section
/-! SUPPORT. One lemma per operation: it keeps the memory canonical and the device number: the draught, dispatch and the host port. -/

namespace Sys2Proof.Machine


theorem State.setTask_kept {dv : Nat} (s : State) (i : Nat) (x : Task) (h_s : Kept dv s) : Kept dv (State.setTask s i x) := by
  unfold State.setTask
  try dsimp only
  repeat' (first | with_reducible assumption | (intro _) | split | dsimp only [StepKept, OutKept, IssueKept, MicroKept, OptKept, done] |
                 simp only [kept_mk_eq] | with_reducible apply keptC_of | with_reducible apply keptC_marks |
                 with_reducible apply keptC_regs | with_reducible exact kept_fst (by assumption) (by assumption))

theorem State.modTask_kept {dv : Nat} (s : State) (i : Nat) (f : Task → Task) (h_s : Kept dv s) : Kept dv (State.modTask s i f) := by
  unfold State.modTask
  try dsimp only
  repeat' (first | with_reducible assumption | with_reducible apply State.setTask_kept | (intro _) | split |
                 dsimp only [StepKept, OutKept, IssueKept, MicroKept, OptKept, done] | simp only [kept_mk_eq] |
                 with_reducible apply keptC_of | with_reducible apply keptC_marks | with_reducible apply keptC_regs |
                 with_reducible exact kept_fst (by assumption) (by assumption))

theorem State.modAct_kept {dv : Nat} (s : State) (i : Nat) (f : Activation → Activation) (h_s : Kept dv s) : Kept dv (State.modAct s i
    f) := by
  unfold State.modAct
  try dsimp only
  repeat' (first | with_reducible assumption | with_reducible apply State.modTask_kept | (intro _) | split |
                 dsimp only [StepKept, OutKept, IssueKept, MicroKept, OptKept, done] | simp only [kept_mk_eq] |
                 with_reducible apply keptC_of | with_reducible apply keptC_marks | with_reducible apply keptC_regs |
                 with_reducible exact kept_fst (by assumption) (by assumption))

theorem State.drtLog_kept {dv : Nat} (s : State) (time source code index attempt dw2 : Nat) (h_s : Kept dv s) : Kept dv (State.drtLog s
    time source code index attempt dw2) := by
  unfold State.drtLog
  try dsimp only
  repeat' (first | with_reducible assumption | with_reducible apply State.logAt_kept | (intro _) | split |
                 dsimp only [StepKept, OutKept, IssueKept, MicroKept, OptKept, done] | simp only [kept_mk_eq] |
                 with_reducible apply keptC_of | with_reducible apply keptC_marks | with_reducible apply keptC_regs |
                 with_reducible exact kept_fst (by assumption) (by assumption))

theorem State.cmdEnd_kept {dv : Nat} (s : State) (result : Nat) (h_s : Kept dv s) : Kept dv (State.cmdEnd s result) := by
  unfold State.cmdEnd
  try dsimp only
  repeat' (first | with_reducible assumption | with_reducible apply State.setFld_kept | (intro _) | split |
                 dsimp only [StepKept, OutKept, IssueKept, MicroKept, OptKept, done] | simp only [kept_mk_eq] |
                 with_reducible apply keptC_of | with_reducible apply keptC_marks | with_reducible apply keptC_regs |
                 with_reducible exact kept_fst (by assumption) (by assumption))

theorem State.cmdWait_kept {dv : Nat} (s : State) (h_s : Kept dv s) : Kept dv (State.cmdWait s) := by
  unfold State.cmdWait
  try dsimp only
  repeat' (first | with_reducible assumption | with_reducible apply State.setFld_kept | (intro _) | split |
                 dsimp only [StepKept, OutKept, IssueKept, MicroKept, OptKept, done] | simp only [kept_mk_eq] |
                 with_reducible apply keptC_of | with_reducible apply keptC_marks | with_reducible apply keptC_regs |
                 with_reducible exact kept_fst (by assumption) (by assumption))

theorem State.eventEntry_kept {dv : Nat} (s : State) (i : Nat) (isEvent : Bool) (h_s : Kept dv s) : Kept dv (State.eventEntry s i
    isEvent) := by
  unfold State.eventEntry
  try dsimp only
  repeat' (first | with_reducible assumption | (intro _) | split | dsimp only [StepKept, OutKept, IssueKept, MicroKept, OptKept, done] |
                 simp only [kept_mk_eq] | with_reducible apply keptC_of | with_reducible apply keptC_marks |
                 with_reducible apply keptC_regs | with_reducible exact kept_fst (by assumption) (by assumption))

theorem State.drtUpdateCopy_kept {dv : Nat} (s : State) (i staging : Nat) (h_s : Kept dv s) : Kept dv (State.drtUpdateCopy s i staging)
    := by
  unfold State.drtUpdateCopy
  try dsimp only
  repeat' (first | with_reducible assumption | with_reducible apply State.dmaWriteBy_kept |
                 with_reducible apply State.dmaWritePoison_kept | with_reducible apply State.modTask_kept |
                 with_reducible apply State.cmdEnd_kept | with_reducible apply State.eventEntry_kept | (intro _) | split |
                 dsimp only [StepKept, OutKept, IssueKept, MicroKept, OptKept, done] | simp only [kept_mk_eq] |
                 with_reducible apply keptC_of | with_reducible apply keptC_marks | with_reducible apply keptC_regs |
                 with_reducible exact kept_fst (by assumption) (by assumption))

theorem State.updateCopy_kept {dv : Nat} (s : State) (h_s : Kept dv s) : Kept dv (State.updateCopy s) := by
  unfold State.updateCopy
  try dsimp only
  repeat' (first | with_reducible assumption | with_reducible apply State.cmdEnd_kept | with_reducible apply State.drtUpdateCopy_kept |
                 (intro _) | split | dsimp only [StepKept, OutKept, IssueKept, MicroKept, OptKept, done] | simp only [kept_mk_eq] |
                 with_reducible apply keptC_of | with_reducible apply keptC_marks | with_reducible apply keptC_regs |
                 with_reducible exact kept_fst (by assumption) (by assumption))

theorem State.updateFirst_kept {dv : Nat} (s : State) (i : Nat) (h_s : Kept dv s) : Kept dv (State.updateFirst s i) := by
  unfold State.updateFirst
  try dsimp only
  repeat' (first | with_reducible assumption | with_reducible apply State.updateCopy_kept | (intro _) | split |
                 dsimp only [StepKept, OutKept, IssueKept, MicroKept, OptKept, done] | simp only [kept_mk_eq] |
                 with_reducible apply keptC_of | with_reducible apply keptC_marks | with_reducible apply keptC_regs |
                 with_reducible exact kept_fst (by assumption) (by assumption))

theorem State.skipRelease_kept {dv : Nat} (s : State) (i time source code n : Nat) (h_s : Kept dv s) : Kept dv (State.skipRelease s i
    time source code n) := by
  unfold State.skipRelease
  try dsimp only
  repeat' (first | with_reducible assumption | with_reducible apply State.count_kept | with_reducible apply State.modTask_kept |
                 with_reducible apply State.drtLog_kept | (intro _) | split |
                 dsimp only [StepKept, OutKept, IssueKept, MicroKept, OptKept, done] | simp only [kept_mk_eq] |
                 with_reducible apply keptC_of | with_reducible apply keptC_marks | with_reducible apply keptC_regs |
                 with_reducible exact kept_fst (by assumption) (by assumption))

theorem State.logDescUe_kept {dv : Nat} (s : State) (i attempt at_ : Nat) (h_s : Kept dv s) : Kept dv (State.logDescUe s i attempt at_)
    := by
  unfold State.logDescUe
  try dsimp only
  repeat' (first | with_reducible assumption | with_reducible apply State.stamp_kept | with_reducible apply State.drtLog_kept |
                 (intro _) | split | dsimp only [StepKept, OutKept, IssueKept, MicroKept, OptKept, done] | simp only [kept_mk_eq] |
                 with_reducible apply keptC_of | with_reducible apply keptC_marks | with_reducible apply keptC_regs |
                 with_reducible exact kept_fst (by assumption) (by assumption))

theorem State.acceptRelease_kept {dv : Nat} (s : State) (i time source : Nat) (event : Bool) (h_s : Kept dv s) : Kept dv
    (State.acceptRelease s i time source event) := by
  unfold State.acceptRelease
  try dsimp only
  repeat' (first | with_reducible assumption | with_reducible apply State.hubAccess_kept |
                 with_reducible apply State.requestAdvance_kept | with_reducible apply State.modTask_kept |
                 with_reducible apply State.logDescUe_kept | (intro _) | split |
                 dsimp only [StepKept, OutKept, IssueKept, MicroKept, OptKept, done] | simp only [kept_mk_eq] |
                 with_reducible apply keptC_of | with_reducible apply keptC_marks | with_reducible apply keptC_regs |
                 with_reducible exact kept_fst (by assumption) (by assumption))

theorem State.releaseTask_kept {dv : Nat} (s : State) (i time source : Nat) (event : Bool) (h_s : Kept dv s) : Kept dv
    (State.releaseTask s i time source event) := by
  unfold State.releaseTask
  try dsimp only
  repeat' (first | with_reducible assumption | with_reducible apply State.advancesFirst_kept |
                 with_reducible apply State.skipRelease_kept | with_reducible apply State.acceptRelease_kept | (intro _) | split |
                 dsimp only [StepKept, OutKept, IssueKept, MicroKept, OptKept, done] | simp only [kept_mk_eq] |
                 with_reducible apply keptC_of | with_reducible apply keptC_marks | with_reducible apply keptC_regs |
                 with_reducible exact kept_fst (by assumption) (by assumption))

theorem State.commandRelease_kept {dv : Nat} (s : State) (i time source : Nat) (h_s : Kept dv s) : Kept dv (State.commandRelease s i
    time source) := by
  unfold State.commandRelease
  try dsimp only
  repeat' (first | with_reducible assumption | with_reducible apply State.count_kept | with_reducible apply State.updateFirst_kept |
                 with_reducible apply State.releaseTask_kept | (intro _) | split |
                 dsimp only [StepKept, OutKept, IssueKept, MicroKept, OptKept, done] | simp only [kept_mk_eq] |
                 with_reducible apply keptC_of | with_reducible apply keptC_marks | with_reducible apply keptC_regs |
                 with_reducible exact kept_fst (by assumption) (by assumption))

theorem State.eventRelease_kept {dv : Nat} (s : State) (r : EventRelease) (h_s : Kept dv s) : Kept dv (State.eventRelease s r) := by
  unfold State.eventRelease
  try dsimp only
  repeat' (first | with_reducible assumption | with_reducible apply State.updateFirst_kept | with_reducible apply State.releaseTask_kept
                 | (intro _) | split | dsimp only [StepKept, OutKept, IssueKept, MicroKept, OptKept, done] | simp only [kept_mk_eq] |
                 with_reducible apply keptC_of | with_reducible apply keptC_marks | with_reducible apply keptC_regs |
                 with_reducible exact kept_fst (by assumption) (by assumption))

theorem State.notifyAll_kept {dv : Nat} (s : State) (l : List (Nat × Nat × Nat)) (h_s : Kept dv s) : Kept dv (State.notifyAll s l) := by
  unfold State.notifyAll
  try dsimp only
  repeat' (first | with_reducible assumption | with_reducible apply State.eventRelease_kept | with_reducible apply foldl_kept |
                 with_reducible apply foldr_kept | (intro _) | split |
                 dsimp only [StepKept, OutKept, IssueKept, MicroKept, OptKept, done] | simp only [kept_mk_eq] |
                 with_reducible apply keptC_of | with_reducible apply keptC_marks | with_reducible apply keptC_regs |
                 with_reducible exact kept_fst (by assumption) (by assumption))

theorem State.lodeMake_kept {dv : Nat} (s : State) (i : HoldItem) (h_s : Kept dv s) : Kept dv (State.lodeMake s i).1 := by
  unfold State.lodeMake
  try dsimp only
  repeat' (first | with_reducible assumption | with_reducible apply State.applyItem_kept | (intro _) | split |
                 dsimp only [StepKept, OutKept, IssueKept, MicroKept, OptKept, done] | simp only [kept_mk_eq] |
                 with_reducible apply keptC_of | with_reducible apply keptC_marks | with_reducible apply keptC_regs |
                 with_reducible exact kept_fst (by assumption) (by assumption))

theorem State.lodeApply_kept {dv : Nat} (s : State) (i : HoldItem) (h_s : Kept dv s) : Kept dv (State.lodeApply s i) := by
  unfold State.lodeApply
  try dsimp only
  repeat' (first | with_reducible assumption | with_reducible apply State.notifyAll_kept | with_reducible apply State.lodeMake_kept |
                 (intro _) | split | dsimp only [StepKept, OutKept, IssueKept, MicroKept, OptKept, done] | simp only [kept_mk_eq] |
                 with_reducible apply keptC_of | with_reducible apply keptC_marks | with_reducible apply keptC_regs |
                 with_reducible exact kept_fst (by assumption) (by assumption))

theorem State.lodeSend_kept {dv : Nat} (s : State) (i : HoldItem) (h_s : Kept dv s) : Kept dv (State.lodeSend s i) := by
  unfold State.lodeSend
  try dsimp only
  repeat' (first | with_reducible assumption | with_reducible apply State.markStall_kept | with_reducible apply State.queueWrite_kept |
                 with_reducible apply State.lodeApply_kept | (intro _) | split |
                 dsimp only [StepKept, OutKept, IssueKept, MicroKept, OptKept, done] | simp only [kept_mk_eq] |
                 with_reducible apply keptC_of | with_reducible apply keptC_marks | with_reducible apply keptC_regs |
                 with_reducible exact kept_fst (by assumption) (by assumption))

theorem State.disableTask_kept {dv : Nat} (s : State) (i : Nat) (h_s : Kept dv s) : Kept dv (State.disableTask s i) := by
  unfold State.disableTask
  try dsimp only
  repeat' (first | with_reducible assumption | with_reducible apply State.setTask_kept | (intro _) | split |
                 dsimp only [StepKept, OutKept, IssueKept, MicroKept, OptKept, done] | simp only [kept_mk_eq] |
                 with_reducible apply keptC_of | with_reducible apply keptC_marks | with_reducible apply keptC_regs |
                 with_reducible exact kept_fst (by assumption) (by assumption))

theorem State.drtEnable_kept {dv : Nat} (s : State) (i : Nat) (h_s : Kept dv s) : Kept dv (State.drtEnable s i) := by
  unfold State.drtEnable
  try dsimp only
  repeat' (first | with_reducible assumption | with_reducible apply State.setTask_kept | with_reducible apply State.cmdEnd_kept |
                 with_reducible apply State.eventEntry_kept | (intro _) | split |
                 dsimp only [StepKept, OutKept, IssueKept, MicroKept, OptKept, done] | simp only [kept_mk_eq] |
                 with_reducible apply keptC_of | with_reducible apply keptC_marks | with_reducible apply keptC_regs |
                 with_reducible exact kept_fst (by assumption) (by assumption))

theorem State.drtUpdate_kept {dv : Nat} (s : State) (i staging : Nat) (h_s : Kept dv s) : Kept dv (State.drtUpdate s i staging) := by
  unfold State.drtUpdate
  try dsimp only
  repeat' (first | with_reducible assumption | with_reducible apply State.cmdEnd_kept | with_reducible apply State.cmdWait_kept |
                 (intro _) | split | dsimp only [StepKept, OutKept, IssueKept, MicroKept, OptKept, done] | simp only [kept_mk_eq] |
                 with_reducible apply keptC_of | with_reducible apply keptC_marks | with_reducible apply keptC_regs |
                 with_reducible exact kept_fst (by assumption) (by assumption))

theorem State.acceptResult_kept {dv : Nat} (s : State) (i : Nat) (a : Activation) (h_s : Kept dv s) : Kept dv (State.acceptResult s i
    a).1 := by
  unfold State.acceptResult
  try dsimp only
  repeat' (first | with_reducible assumption | with_reducible apply State.count_kept | with_reducible apply State.modAct_kept |
                 with_reducible apply State.drtLog_kept | (intro _) | split |
                 dsimp only [StepKept, OutKept, IssueKept, MicroKept, OptKept, done] | simp only [kept_mk_eq] |
                 with_reducible apply keptC_of | with_reducible apply keptC_marks | with_reducible apply keptC_regs |
                 with_reducible exact kept_fst (by assumption) (by assumption))

theorem State.makeWrites_kept {dv : Nat} (s : State) (l : List LodeWrite) (h_s : Kept dv s) : Kept dv (State.makeWrites s l).1 := by
  fun_induction State.makeWrites s l
  all_goals (repeat' (first | with_reducible assumption | (rename_i ih; with_reducible apply ih) | with_reducible apply State.lodeMake_kept |
                            (intro _) | split | dsimp only [StepKept, OutKept, IssueKept, MicroKept, OptKept, done] |
                            simp only [kept_mk_eq] | with_reducible apply keptC_of | with_reducible apply keptC_marks |
                            with_reducible apply keptC_regs | with_reducible exact kept_fst (by assumption) (by assumption)))
  all_goals first | done | simp_all

theorem State.commitWrites_kept {dv : Nat} (s : State) (l : List LodeWrite) (h_s : Kept dv s) : Kept dv (State.commitWrites s l) := by
  unfold State.commitWrites
  try dsimp only
  repeat' (first | with_reducible assumption | with_reducible apply State.markStall_kept | with_reducible apply State.notifyAll_kept |
                 with_reducible apply State.makeWrites_kept | (intro _) | split |
                 dsimp only [StepKept, OutKept, IssueKept, MicroKept, OptKept, done] | simp only [kept_mk_eq] |
                 with_reducible apply keptC_of | with_reducible apply keptC_marks | with_reducible apply keptC_regs |
                 with_reducible exact kept_fst (by assumption) (by assumption))

theorem State.writeUnits_kept {dv : Nat} (s : State) (at_ : Nat) (bytes : List Byte) (poison : List Nat) (n u : Nat)
    (h_s : Kept dv s) : Kept dv (State.writeUnits s at_ bytes poison n u) := by
  induction n generalizing s u with
  | zero => exact h_s
  | succ k ih =>
    unfold State.writeUnits
    refine ih _ _ ?_
    split
    · exact State.dmaWritePoison_kept _ _ _ _ h_s
    · exact State.dmaWriteBy_kept _ _ _ _ h_s

theorem State.writeBack_kept {dv : Nat} (s : State) (a : Activation) (disposition : Nat) (h_s : Kept dv s) : Kept dv (State.writeBack s
    a disposition) := by
  unfold State.writeBack
  try dsimp only
  repeat' (first | with_reducible assumption | with_reducible apply State.writeUnits_kept | (intro _) | split |
                 dsimp only [StepKept, OutKept, IssueKept, MicroKept, OptKept, done] | simp only [kept_mk_eq] |
                 with_reducible apply keptC_of | with_reducible apply keptC_marks | with_reducible apply keptC_regs |
                 with_reducible exact kept_fst (by assumption) (by assumption))

theorem State.commitResult_kept {dv : Nat} (s : State) (i : Nat) (a : Activation) (h_s : Kept dv s) : Kept dv (State.commitResult s i a)
    := by
  unfold State.commitResult
  try dsimp only
  repeat' (first | with_reducible assumption | with_reducible apply State.hubAccess_kept | with_reducible apply State.modTask_kept |
                 with_reducible apply State.logDescUe_kept | with_reducible apply State.commitWrites_kept |
                 with_reducible apply State.writeBack_kept | (intro _) | split |
                 dsimp only [StepKept, OutKept, IssueKept, MicroKept, OptKept, done] | simp only [kept_mk_eq] |
                 with_reducible apply keptC_of | with_reducible apply keptC_marks | with_reducible apply keptC_regs |
                 with_reducible exact kept_fst (by assumption) (by assumption))

theorem State.setReadyQ_kept {dv : Nat} (s : State) (g : Nat) (l : List Nat) (h_s : Kept dv s) : Kept dv (State.setReadyQ s g l) := by
  unfold State.setReadyQ
  try dsimp only
  repeat' (first | with_reducible assumption | (intro _) | split | dsimp only [StepKept, OutKept, IssueKept, MicroKept, OptKept, done] |
                 simp only [kept_mk_eq] | with_reducible apply keptC_of | with_reducible apply keptC_marks |
                 with_reducible apply keptC_regs | with_reducible exact kept_fst (by assumption) (by assumption))

theorem State.setLocalQ_kept {dv : Nat} (s : State) (h : Nat) (l : List Nat) (h_s : Kept dv s) : Kept dv (State.setLocalQ s h l) := by
  unfold State.setLocalQ
  try dsimp only
  repeat' (first | with_reducible assumption | (intro _) | split | dsimp only [StepKept, OutKept, IssueKept, MicroKept, OptKept, done] |
                 simp only [kept_mk_eq] | with_reducible apply keptC_of | with_reducible apply keptC_marks |
                 with_reducible apply keptC_regs | with_reducible exact kept_fst (by assumption) (by assumption))

theorem State.toReady_kept {dv : Nat} (s : State) (g i : Nat) (h_s : Kept dv s) : Kept dv (State.toReady s g i) := by
  unfold State.toReady
  try dsimp only
  repeat' (first | with_reducible assumption | with_reducible apply State.raise_kept | with_reducible apply State.modAct_kept |
                 with_reducible apply State.setReadyQ_kept | (intro _) | split |
                 dsimp only [StepKept, OutKept, IssueKept, MicroKept, OptKept, done] | simp only [kept_mk_eq] |
                 with_reducible apply keptC_of | with_reducible apply keptC_marks | with_reducible apply keptC_regs |
                 with_reducible exact kept_fst (by assumption) (by assumption))

theorem State.toLocalHead_kept {dv : Nat} (s : State) (h i : Nat) (h_s : Kept dv s) : Kept dv (State.toLocalHead s h i) := by
  unfold State.toLocalHead
  try dsimp only
  repeat' (first | with_reducible assumption | with_reducible apply State.modAct_kept | with_reducible apply State.setLocalQ_kept |
                 (intro _) | split | dsimp only [StepKept, OutKept, IssueKept, MicroKept, OptKept, done] | simp only [kept_mk_eq] |
                 with_reducible apply keptC_of | with_reducible apply keptC_marks | with_reducible apply keptC_regs |
                 with_reducible exact kept_fst (by assumption) (by assumption))

theorem State.toLocal_kept {dv : Nat} (s : State) (h i : Nat) (h_s : Kept dv s) : Kept dv (State.toLocal s h i) := by
  unfold State.toLocal
  try dsimp only
  repeat' (first | with_reducible assumption | with_reducible apply State.modAct_kept | with_reducible apply State.setLocalQ_kept |
                 (intro _) | split | dsimp only [StepKept, OutKept, IssueKept, MicroKept, OptKept, done] | simp only [kept_mk_eq] |
                 with_reducible apply keptC_of | with_reducible apply keptC_marks | with_reducible apply keptC_regs |
                 with_reducible exact kept_fst (by assumption) (by assumption))

theorem State.dequeue_kept {dv : Nat} (s : State) (i : Nat) (h_s : Kept dv s) : Kept dv (State.dequeue s i) := by
  unfold State.dequeue
  try dsimp only
  repeat' (first | with_reducible assumption | with_reducible apply State.setReadyQ_kept | with_reducible apply State.setLocalQ_kept |
                 (intro _) | split | dsimp only [StepKept, OutKept, IssueKept, MicroKept, OptKept, done] | simp only [kept_mk_eq] |
                 with_reducible apply keptC_of | with_reducible apply keptC_marks | with_reducible apply keptC_regs |
                 with_reducible exact kept_fst (by assumption) (by assumption))

theorem State.dropActivation_kept {dv : Nat} (s : State) (i : Nat) (h_s : Kept dv s) : Kept dv (State.dropActivation s i) := by
  unfold State.dropActivation
  try dsimp only
  repeat' (first | with_reducible assumption | with_reducible apply State.modHew_kept | with_reducible apply State.flushPred_kept |
                 with_reducible apply State.modTask_kept | with_reducible apply State.dequeue_kept | (intro _) | split |
                 dsimp only [StepKept, OutKept, IssueKept, MicroKept, OptKept, done] | simp only [kept_mk_eq] |
                 with_reducible apply keptC_of | with_reducible apply keptC_marks | with_reducible apply keptC_regs |
                 with_reducible exact kept_fst (by assumption) (by assumption))

theorem State.exhaust_kept {dv : Nat} (s : State) (i : Nat) (h_s : Kept dv s) : Kept dv (State.exhaust s i) := by
  unfold State.exhaust
  try dsimp only
  repeat' (first | with_reducible assumption | with_reducible apply State.count_kept | with_reducible apply State.stamp_kept |
                 with_reducible apply State.drtLog_kept | with_reducible apply State.dropActivation_kept | (intro _) | split |
                 dsimp only [StepKept, OutKept, IssueKept, MicroKept, OptKept, done] | simp only [kept_mk_eq] |
                 with_reducible apply keptC_of | with_reducible apply keptC_marks | with_reducible apply keptC_regs |
                 with_reducible exact kept_fst (by assumption) (by assumption))

theorem State.discardAll_kept {dv : Nat} (s : State) (h_s : Kept dv s) : Kept dv (State.discardAll s) := by
  unfold State.discardAll
  try dsimp only
  repeat' (first | with_reducible assumption | with_reducible apply State.dropActivation_kept | with_reducible apply foldl_kept |
                 (intro _) | split | dsimp only [StepKept, OutKept, IssueKept, MicroKept, OptKept, done] | simp only [kept_mk_eq] |
                 with_reducible apply keptC_of | with_reducible apply keptC_marks | with_reducible apply keptC_regs |
                 with_reducible exact kept_fst (by assumption) (by assumption))

theorem State.logMiss_kept {dv : Nat} (s : State) (i : Nat) (a : Activation) (h_s : Kept dv s) : Kept dv (State.logMiss s i a) := by
  unfold State.logMiss
  try dsimp only
  repeat' (first | with_reducible assumption | with_reducible apply State.count_kept | with_reducible apply State.modAct_kept |
                 with_reducible apply State.drtLog_kept | (intro _) | split |
                 dsimp only [StepKept, OutKept, IssueKept, MicroKept, OptKept, done] | simp only [kept_mk_eq] |
                 with_reducible apply keptC_of | with_reducible apply keptC_marks | with_reducible apply keptC_regs |
                 with_reducible exact kept_fst (by assumption) (by assumption))

theorem State.loseGallery_kept {dv : Nat} (s : State) (g : Nat) (h_s : Kept dv s) : Kept dv (State.loseGallery s g) := by
  unfold State.loseGallery
  try dsimp only
  repeat' (first | with_reducible assumption | with_reducible apply State.count_kept | with_reducible apply State.stamp_kept |
                 with_reducible apply State.logAt_kept | with_reducible apply State.dropActivation_kept |
                 with_reducible apply foldl_kept | (intro _) | split |
                 dsimp only [StepKept, OutKept, IssueKept, MicroKept, OptKept, done] | simp only [kept_mk_eq] |
                 with_reducible apply keptC_of | with_reducible apply keptC_marks | with_reducible apply keptC_regs |
                 with_reducible exact kept_fst (by assumption) (by assumption))

theorem State.returnPackets_kept {dv : Nat} (s : State) (l : List (Nat × Activation)) (h_s : Kept dv s) : Kept dv (State.returnPackets s
    l) := by
  fun_induction State.returnPackets s l
  all_goals (repeat' (first | with_reducible assumption | (rename_i ih; with_reducible apply ih) | with_reducible apply State.toReady_kept |
                            with_reducible apply State.dequeue_kept | (intro _) | split |
                            dsimp only [StepKept, OutKept, IssueKept, MicroKept, OptKept, done] | simp only [kept_mk_eq] |
                            with_reducible apply keptC_of | with_reducible apply keptC_marks | with_reducible apply keptC_regs |
                            with_reducible exact kept_fst (by assumption) (by assumption)))
  all_goals first | done | simp_all

theorem State.leaveAll_kept {dv : Nat} (s : State) (hs : List Nat) (h_s : Kept dv s) : Kept dv (State.leaveAll s hs) := by
  unfold State.leaveAll
  try dsimp only
  repeat' (first | with_reducible assumption | with_reducible apply State.returnPackets_kept | (intro _) | split |
                 dsimp only [StepKept, OutKept, IssueKept, MicroKept, OptKept, done] | simp only [kept_mk_eq] |
                 with_reducible apply keptC_of | with_reducible apply keptC_marks | with_reducible apply keptC_regs |
                 with_reducible exact kept_fst (by assumption) (by assumption))

theorem State.leavePool_kept {dv : Nat} (s : State) (h : Nat) (h_s : Kept dv s) : Kept dv (State.leavePool s h) := by
  unfold State.leavePool
  try dsimp only
  repeat' (first | with_reducible assumption | with_reducible apply State.leaveAll_kept | (intro _) | split |
                 dsimp only [StepKept, OutKept, IssueKept, MicroKept, OptKept, done] | simp only [kept_mk_eq] |
                 with_reducible apply keptC_of | with_reducible apply keptC_marks | with_reducible apply keptC_regs |
                 with_reducible exact kept_fst (by assumption) (by assumption))

theorem State.logOverrun_kept {dv : Nat} (s : State) (h i : Nat) (h_s : Kept dv s) : Kept dv (State.logOverrun s h i) := by
  unfold State.logOverrun
  try dsimp only
  repeat' (first | with_reducible assumption | with_reducible apply State.count_kept | with_reducible apply State.stamp_kept |
                 with_reducible apply State.drtLog_kept | (intro _) | split |
                 dsimp only [StepKept, OutKept, IssueKept, MicroKept, OptKept, done] | simp only [kept_mk_eq] |
                 with_reducible apply keptC_of | with_reducible apply keptC_marks | with_reducible apply keptC_regs |
                 with_reducible exact kept_fst (by assumption) (by assumption))

theorem State.loseBody_kept {dv : Nat} (s : State) (h : Nat) (h_s : Kept dv s) : Kept dv (State.loseBody s h) := by
  unfold State.loseBody
  try dsimp only
  repeat' (first | with_reducible assumption | with_reducible apply State.count_kept | with_reducible apply State.stamp_kept |
                 with_reducible apply State.modHew_kept | with_reducible apply State.flushPred_kept |
                 with_reducible apply State.modAct_kept | with_reducible apply State.drtLog_kept |
                 with_reducible apply State.toReady_kept | with_reducible apply State.toLocalHead_kept |
                 with_reducible apply State.dropActivation_kept | with_reducible apply State.exhaust_kept |
                 with_reducible apply State.logOverrun_kept | with_reducible apply getD_kept | (intro _) | split |
                 dsimp only [StepKept, OutKept, IssueKept, MicroKept, OptKept, done] | simp only [kept_mk_eq] |
                 with_reducible apply keptC_of | with_reducible apply keptC_marks | with_reducible apply keptC_regs |
                 with_reducible exact kept_fst (by assumption) (by assumption))

theorem State.checkStop_kept {dv : Nat} (s : State) (h : Nat) (h_s : Kept dv s) : Kept dv (State.checkStop s h) := by
  unfold State.checkStop
  try dsimp only
  repeat' (first | with_reducible assumption | with_reducible apply State.modHew_kept | with_reducible apply State.log_kept |
                 with_reducible apply State.leavePool_kept | with_reducible apply State.loseBody_kept | (intro _) | split |
                 dsimp only [StepKept, OutKept, IssueKept, MicroKept, OptKept, done] | simp only [kept_mk_eq] |
                 with_reducible apply keptC_of | with_reducible apply keptC_marks | with_reducible apply keptC_regs |
                 with_reducible exact kept_fst (by assumption) (by assumption))

theorem State.takeExc_kept {dv : Nat} (s : State) (h code : Nat) (epc eval : Word) (h_s : Kept dv s) : Kept dv (State.takeExc s h code
    epc eval) := by
  unfold State.takeExc
  try dsimp only
  repeat' (first | with_reducible assumption | with_reducible apply State.enter_kept | with_reducible apply State.checkStop_kept |
                 (intro _) | split | dsimp only [StepKept, OutKept, IssueKept, MicroKept, OptKept, done] | simp only [kept_mk_eq] |
                 with_reducible apply keptC_of | with_reducible apply keptC_marks | with_reducible apply keptC_regs |
                 with_reducible exact kept_fst (by assumption) (by assumption))

theorem State.saveThread_kept {dv : Nat} (s : State) (h : Nat) (h_s : Kept dv s) : Kept dv (State.saveThread s h) := by
  unfold State.saveThread
  try dsimp only
  repeat' (first | with_reducible assumption | with_reducible apply State.dmaWriteBy_kept | (intro _) | split |
                 dsimp only [StepKept, OutKept, IssueKept, MicroKept, OptKept, done] | simp only [kept_mk_eq] |
                 with_reducible apply keptC_of | with_reducible apply keptC_marks | with_reducible apply keptC_regs |
                 with_reducible exact kept_fst (by assumption) (by assumption))

theorem State.restoreThread_kept {dv : Nat} (s : State) (h : Nat) (h_s : Kept dv s) : Kept dv (State.restoreThread s h) := by
  unfold State.restoreThread
  try dsimp only
  repeat' (first | with_reducible assumption | with_reducible apply State.draw_kept | with_reducible apply State.setHew_kept |
                 with_reducible apply State.modHew_kept | with_reducible apply State.hubAccess_kept |
                 with_reducible apply State.flushPred_kept | with_reducible apply State.l1iDrop_kept |
                 with_reducible apply State.enter_kept | (intro _) | split |
                 dsimp only [StepKept, OutKept, IssueKept, MicroKept, OptKept, done] | simp only [kept_mk_eq] |
                 with_reducible apply keptC_of | with_reducible apply keptC_marks | with_reducible apply keptC_regs |
                 with_reducible exact kept_fst (by assumption) (by assumption))

theorem State.startBody_kept {dv : Nat} (s : State) (h i : Nat) (d : Desc) (h_s : Kept dv s) : Kept dv (State.startBody s h i d) := by
  unfold State.startBody
  try dsimp only
  repeat' (first | with_reducible assumption | with_reducible apply State.modHew_kept | with_reducible apply State.flushPred_kept |
                 with_reducible apply State.l1iDrop_kept | with_reducible apply State.cdtReach_kept |
                 with_reducible apply State.modAct_kept | with_reducible apply State.dequeue_kept | (intro _) | split |
                 dsimp only [StepKept, OutKept, IssueKept, MicroKept, OptKept, done] | simp only [kept_mk_eq] |
                 with_reducible apply keptC_of | with_reducible apply keptC_marks | with_reducible apply keptC_regs |
                 with_reducible exact kept_fst (by assumption) (by assumption))

theorem State.taskArrival_kept {dv : Nat} (s : State) (h : Nat) (h_s : Kept dv s) : Kept dv (State.taskArrival s h) := by
  unfold State.taskArrival
  try dsimp only
  repeat' (first | with_reducible assumption | with_reducible apply State.modHew_kept | with_reducible apply State.sbFlush_kept |
                 with_reducible apply State.logDescUe_kept | with_reducible apply State.dropActivation_kept |
                 with_reducible apply State.takeExc_kept | with_reducible apply State.saveThread_kept |
                 with_reducible apply State.startBody_kept | (intro _) | split |
                 dsimp only [StepKept, OutKept, IssueKept, MicroKept, OptKept, done] | simp only [kept_mk_eq] |
                 with_reducible apply keptC_of | with_reducible apply keptC_marks | with_reducible apply keptC_regs |
                 with_reducible exact kept_fst (by assumption) (by assumption))

theorem State.distribute_kept {dv : Nat} (s : State) (g : Nat) (h_s : Kept dv s) : Kept dv (State.distribute s g) := by
  unfold State.distribute
  try dsimp only
  repeat' (first | with_reducible assumption | with_reducible apply State.toReady_kept | with_reducible apply State.toLocal_kept |
                 with_reducible apply State.dequeue_kept | (intro _) | split |
                 dsimp only [StepKept, OutKept, IssueKept, MicroKept, OptKept, done] | simp only [kept_mk_eq] |
                 with_reducible apply keptC_of | with_reducible apply keptC_marks | with_reducible apply keptC_regs |
                 with_reducible exact kept_fst (by assumption) (by assumption))

theorem State.tier1_kept {dv : Nat} (s : State) (h : Nat) (h_s : Kept dv s) : Kept dv (State.tier1 s h) := by
  unfold State.tier1
  try dsimp only
  repeat' (first | with_reducible assumption | with_reducible apply State.count_kept | with_reducible apply State.toLocalHead_kept |
                 with_reducible apply State.dequeue_kept | (intro _) | split |
                 dsimp only [StepKept, OutKept, IssueKept, MicroKept, OptKept, done] | simp only [kept_mk_eq] |
                 with_reducible apply keptC_of | with_reducible apply keptC_marks | with_reducible apply keptC_regs |
                 with_reducible exact kept_fst (by assumption) (by assumption))

theorem State.tier2_kept {dv : Nat} (s : State) (h_s : Kept dv s) : Kept dv (State.tier2 s) := by
  unfold State.tier2
  try dsimp only
  repeat' (first | with_reducible assumption | with_reducible apply State.count_kept | with_reducible apply State.modAct_kept |
                 with_reducible apply State.dequeue_kept | (intro _) | split |
                 dsimp only [StepKept, OutKept, IssueKept, MicroKept, OptKept, done] | simp only [kept_mk_eq] |
                 with_reducible apply keptC_of | with_reducible apply keptC_marks | with_reducible apply keptC_regs |
                 with_reducible exact kept_fst (by assumption) (by assumption))

theorem State.tier2Done_kept {dv : Nat} (s : State) (i : Nat) (h_s : Kept dv s) : Kept dv (State.tier2Done s i) := by
  unfold State.tier2Done
  try dsimp only
  repeat' (first | with_reducible assumption | with_reducible apply State.toReady_kept | with_reducible apply State.toLocalHead_kept |
                 (intro _) | split | dsimp only [StepKept, OutKept, IssueKept, MicroKept, OptKept, done] | simp only [kept_mk_eq] |
                 with_reducible apply keptC_of | with_reducible apply keptC_marks | with_reducible apply keptC_regs |
                 with_reducible exact kept_fst (by assumption) (by assumption))

theorem State.outDrop_kept {dv : Nat} (s : State) (h_s : Kept dv s) : Kept dv (State.outDrop s) := by
  unfold State.outDrop
  try dsimp only
  repeat' (first | with_reducible assumption | with_reducible apply State.count_kept | (intro _) | split |
                 dsimp only [StepKept, OutKept, IssueKept, MicroKept, OptKept, done] | simp only [kept_mk_eq] |
                 with_reducible apply keptC_of | with_reducible apply keptC_marks | with_reducible apply keptC_regs |
                 with_reducible exact kept_fst (by assumption) (by assumption))

theorem State.hostRead_kept {dv : Nat} (s : State) (f who unit gen o len : Nat) (h_s : Kept dv s) : Kept dv (State.hostRead s f who unit
    gen o len).1 := by
  unfold State.hostRead
  try dsimp only
  repeat' (first | with_reducible assumption | with_reducible apply State.emit_kept | (intro _) | split |
                 dsimp only [StepKept, OutKept, IssueKept, MicroKept, OptKept, done] | simp only [kept_mk_eq] |
                 with_reducible apply keptC_of | with_reducible apply keptC_marks | with_reducible apply keptC_regs |
                 with_reducible exact kept_fst (by assumption) (by assumption))

theorem State.hostWrite_kept {dv : Nat} (s : State) (f o : Nat) (data : List Byte) (ep : Bool) (h_s : Kept dv s) : Kept dv
    (State.hostWrite s f o data ep) := by
  unfold State.hostWrite
  try dsimp only
  repeat' (first | with_reducible assumption | with_reducible apply State.emit_kept | with_reducible apply State.outDrop_kept |
                 (intro _) | split | dsimp only [StepKept, OutKept, IssueKept, MicroKept, OptKept, done] | simp only [kept_mk_eq] |
                 with_reducible apply keptC_of | with_reducible apply keptC_marks | with_reducible apply keptC_regs |
                 with_reducible exact kept_fst (by assumption) (by assumption))

end Sys2Proof.Machine
end

