-- ==== Sys2Proof/Laws/KeptHewer.lean ====
section
/-! SUPPORT. One lemma per operation: it keeps the memory canonical and the device number: the frame of an instruction, the integer and memory instructions. -/

namespace Sys2Proof.Machine


theorem State.writeSample_kept {dv : Nat} (s : State) (x : Hewer) (h : Nat) (p : Pre) (exc : Option Nat) (h_s : Kept dv s) : Kept dv
    (State.writeSample s x h p exc) := by
  unfold State.writeSample
  try dsimp only
  repeat' (first | with_reducible assumption | with_reducible apply State.setFld_kept | with_reducible apply State.raise_kept |
                 with_reducible apply State.count_kept | with_reducible apply State.draw_kept | with_reducible apply State.modHew_kept |
                 with_reducible apply State.dmaWriteBy_kept | (intro _) | split |
                 dsimp only [StepKept, OutKept, IssueKept, MicroKept, OptKept, done] | simp only [kept_mk_eq] |
                 with_reducible apply keptC_of | with_reducible apply keptC_marks | with_reducible apply keptC_regs |
                 with_reducible exact kept_fst (by assumption) (by assumption))

theorem State.reloadSample_kept {dv : Nat} (s : State) (h : Nat) (h_s : Kept dv s) : Kept dv (State.reloadSample s h) := by
  unfold State.reloadSample
  try dsimp only
  repeat' (first | with_reducible assumption | with_reducible apply State.draw_kept | with_reducible apply State.modHew_kept | (intro _)
                 | split | dsimp only [StepKept, OutKept, IssueKept, MicroKept, OptKept, done] | simp only [kept_mk_eq] |
                 with_reducible apply keptC_of | with_reducible apply keptC_marks | with_reducible apply keptC_regs |
                 with_reducible exact kept_fst (by assumption) (by assumption))

theorem State.sampled_kept {dv : Nat} (s s0 : State) (h : Nat) (p : Pre) (exc : Option Nat) (h_s : Kept dv s) (h_s0 : Kept dv s0) : Kept
    dv (State.sampled s s0 h p exc) := by
  unfold State.sampled
  try dsimp only
  repeat' (first | with_reducible assumption | with_reducible apply State.modHew_kept | with_reducible apply State.modTwin_kept |
                 with_reducible apply State.writeSample_kept | with_reducible apply State.reloadSample_kept | (intro _) | split |
                 dsimp only [StepKept, OutKept, IssueKept, MicroKept, OptKept, done] | simp only [kept_mk_eq] |
                 with_reducible apply keptC_of | with_reducible apply keptC_marks | with_reducible apply keptC_regs |
                 with_reducible exact kept_fst (by assumption) (by assumption))

theorem State.stepEnd_kept {dv : Nat} (s : State) (h : Nat) (h_s : Kept dv s) : Kept dv (State.stepEnd s h) := by
  unfold State.stepEnd
  try dsimp only
  repeat' (first | with_reducible assumption | with_reducible apply State.setFld_kept | with_reducible apply State.modHew_kept |
                 (intro _) | split | dsimp only [StepKept, OutKept, IssueKept, MicroKept, OptKept, done] | simp only [kept_mk_eq] |
                 with_reducible apply keptC_of | with_reducible apply keptC_marks | with_reducible apply keptC_regs |
                 with_reducible exact kept_fst (by assumption) (by assumption))

theorem State.passChoice_kept {dv : Nat} (s : State) (h : Nat) (h_s : Kept dv s) : Kept dv (State.passChoice s h) := by
  unfold State.passChoice
  try dsimp only
  repeat' (first | with_reducible assumption | with_reducible apply State.modHew_kept | (intro _) | split |
                 dsimp only [StepKept, OutKept, IssueKept, MicroKept, OptKept, done] | simp only [kept_mk_eq] |
                 with_reducible apply keptC_of | with_reducible apply keptC_marks | with_reducible apply keptC_regs |
                 with_reducible exact kept_fst (by assumption) (by assumption))

theorem State.pushReturn_kept {dv : Nat} (s : State) (h : Nat) (u : TransferUnit) (pa : Nat) (h_s : Kept dv s) : Kept dv
    (State.pushReturn s h u pa) := by
  unfold State.pushReturn
  try dsimp only
  repeat' (first | with_reducible assumption | with_reducible apply State.sbPut_kept | with_reducible apply State.hostWrite_kept |
                 (intro _) | split | dsimp only [StepKept, OutKept, IssueKept, MicroKept, OptKept, done] | simp only [kept_mk_eq] |
                 with_reducible apply keptC_of | with_reducible apply keptC_marks | with_reducible apply keptC_regs |
                 with_reducible exact kept_fst (by assumption) (by assumption))

theorem State.retire_kept {dv : Nat} (s : State) (h : Nat) (h_s : Kept dv s) : Kept dv (State.retire s h) := by
  unfold State.retire
  try dsimp only
  repeat' (first | with_reducible assumption | with_reducible apply State.setHew_kept | with_reducible apply State.passChoice_kept |
                 with_reducible apply State.pushReturn_kept | (intro _) | split |
                 dsimp only [StepKept, OutKept, IssueKept, MicroKept, OptKept, done] | simp only [kept_mk_eq] |
                 with_reducible apply keptC_of | with_reducible apply keptC_marks | with_reducible apply keptC_regs |
                 with_reducible exact kept_fst (by assumption) (by assumption))

theorem State.raiseExc_kept {dv : Nat} (s : State) (h : Nat) (e : Exc) (h_s : Kept dv s) : Kept dv (State.raiseExc s h e) := by
  unfold State.raiseExc
  try dsimp only
  repeat' (first | with_reducible assumption | with_reducible apply State.modHew_kept | with_reducible apply State.tally_kept |
                 with_reducible apply State.takeExc_kept | (intro _) | split |
                 dsimp only [StepKept, OutKept, IssueKept, MicroKept, OptKept, done] | simp only [kept_mk_eq] |
                 with_reducible apply keptC_of | with_reducible apply keptC_marks | with_reducible apply keptC_regs |
                 with_reducible exact kept_fst (by assumption) (by assumption))

theorem State.cmpPost_kept {dv : Nat} (s s0 : State) (h : Nat) (items : List CmpItem) (h_s : Kept dv s) (h_s0 : Kept dv s0) : Kept dv
    (State.cmpPost s s0 h items) := by
  unfold State.cmpPost
  try dsimp only
  repeat' (first | with_reducible assumption | with_reducible apply State.modHew_kept | with_reducible apply State.cmpAct_kept |
                 with_reducible apply State.raiseExc_kept | (intro _) | split |
                 dsimp only [StepKept, OutKept, IssueKept, MicroKept, OptKept, done] | simp only [kept_mk_eq] |
                 with_reducible apply keptC_of | with_reducible apply keptC_marks | with_reducible apply keptC_regs |
                 with_reducible exact kept_fst (by assumption) (by assumption))

theorem State.finish_kept {dv : Nat} (s0 : State) (h : Nat) (p : Pre) (r : Step) (h_s0 : Kept dv s0) (hr : StepKept dv r) : Kept dv (State.finish
    s0 h p r) := by
  unfold State.finish
  cases r <;> dsimp only [StepKept] at hr ⊢ <;>
  repeat' (first | with_reducible assumption | with_reducible apply State.sampled_kept | with_reducible apply State.retire_kept
                 | with_reducible apply State.tally_kept | with_reducible apply State.cmpPost_kept | with_reducible apply State.stepEnd_kept
                 | with_reducible apply State.passChoice_kept | with_reducible apply State.modHew_kept
                 | with_reducible apply State.raiseExc_kept | dsimp only)

theorem State.cmpPoint_kept {dv : Nat} (s : State) (h : Nat) (items : List CmpItem) (h_s : Kept dv s) : Kept dv (State.cmpPoint s h
    items).1 := by
  unfold State.cmpPoint
  try dsimp only
  repeat' (first | with_reducible assumption | with_reducible apply State.modHew_kept | with_reducible apply State.cmpAct_kept |
                 (intro _) | split | dsimp only [StepKept, OutKept, IssueKept, MicroKept, OptKept, done] | simp only [kept_mk_eq] |
                 with_reducible apply keptC_of | with_reducible apply keptC_marks | with_reducible apply keptC_regs |
                 with_reducible exact kept_fst (by assumption) (by assumption))

theorem State.fetchAt_kept {dv : Nat} (s : State) (h va : Nat) (h_s : Kept dv s) : Kept dv (State.fetchAt s h va).s := by
  unfold State.fetchAt
  try dsimp only
  repeat' (first | with_reducible assumption | with_reducible apply State.l1iUse_kept | with_reducible apply State.translate_kept |
                 (intro _) | split | dsimp only [StepKept, OutKept, IssueKept, MicroKept, OptKept, done] | simp only [kept_mk_eq] |
                 with_reducible apply keptC_of | with_reducible apply keptC_marks | with_reducible apply keptC_regs |
                 with_reducible exact kept_fst (by assumption) (by assumption))

theorem State.issue_kept {dv : Nat} (s : State) (h : Nat) (p : Pre) (long : Bool) (h_s : Kept dv s) : IssueKept dv (State.issue s h p
    long) := by
  unfold State.issue
  try dsimp only
  repeat' (first | with_reducible assumption | with_reducible apply State.setHew_kept | with_reducible apply State.noteEvent_kept |
                 with_reducible apply State.finish_kept | with_reducible apply State.cmpPoint_kept |
                 with_reducible apply State.fetchAt_kept | (intro _) | split |
                 dsimp only [StepKept, OutKept, IssueKept, MicroKept, OptKept, done] | simp only [kept_mk_eq] |
                 with_reducible apply keptC_of | with_reducible apply keptC_marks | with_reducible apply keptC_regs |
                 with_reducible exact kept_fst (by assumption) (by assumption))

theorem State.runAs_kept {dv : Nat} (s : State) (h : Nat) (p : Pre) (long : Bool) (body : State → Step) (h_s : Kept dv s)
    (h_body : ∀ t, Kept dv t → StepKept dv (body t)) : Kept dv (State.runAs s h p long body) := by
  have hi := State.issue_kept (dv := dv) s h p long h_s
  unfold State.runAs
  split <;> rename_i t e <;> rw [e] at hi
  · exact hi
  · exact State.finish_kept _ _ _ _ hi (h_body _ hi)

theorem State.run_kept {dv : Nat} (s : State) (h : Nat) (p : Pre) (body : State → Step) (h_s : Kept dv s) (h_body : ∀ a0, Kept dv a0 →
    StepKept dv (body a0)) : Kept dv (State.run s h p body) := by
  unfold State.run
  try dsimp only
  repeat' (first | with_reducible assumption | with_reducible apply h_body | with_reducible apply State.runAs_kept | (intro _) | split |
                 dsimp only [StepKept, OutKept, IssueKept, MicroKept, OptKept, done] | simp only [kept_mk_eq] |
                 with_reducible apply keptC_of | with_reducible apply keptC_marks | with_reducible apply keptC_regs |
                 with_reducible exact kept_fst (by assumption) (by assumption))

theorem State.runLong_kept {dv : Nat} (s : State) (h : Nat) (p : Pre) (body : State → Step) (h_s : Kept dv s) (h_body : ∀ a0, Kept dv a0
    → StepKept dv (body a0)) : Kept dv (State.runLong s h p body) := by
  unfold State.runLong
  try dsimp only
  repeat' (first | with_reducible assumption | with_reducible apply h_body | with_reducible apply State.runAs_kept | (intro _) | split |
                 dsimp only [StepKept, OutKept, IssueKept, MicroKept, OptKept, done] | simp only [kept_mk_eq] |
                 with_reducible apply keptC_of | with_reducible apply keptC_marks | with_reducible apply keptC_regs |
                 with_reducible exact kept_fst (by assumption) (by assumption))

theorem State.windowRead_kept {dv : Nat} (s : State) (l : List Byte) (off n : Nat) (h_s : Kept dv s) : Kept dv (State.windowRead s l off
    n).2 := by
  unfold State.windowRead
  try dsimp only
  repeat' (first | with_reducible assumption | with_reducible apply State.freeBytes_kept | (intro _) | split |
                 dsimp only [StepKept, OutKept, IssueKept, MicroKept, OptKept, done] | simp only [kept_mk_eq] |
                 with_reducible apply keptC_of | with_reducible apply keptC_marks | with_reducible apply keptC_regs |
                 with_reducible exact kept_fst (by assumption) (by assumption))

theorem State.hostPart_kept {dv : Nat} (s : State) (h pa n : Nat) (via : Option TlbEntry) (h_s : Kept dv s) : Kept dv (State.hostPart s
    h pa n via).1 := by
  unfold State.hostPart
  try dsimp only
  repeat' (first | with_reducible assumption | with_reducible apply State.freeBytes_kept | with_reducible apply State.modHew_kept |
                 with_reducible apply State.outDrop_kept | with_reducible apply State.hostRead_kept | (intro _) | split |
                 dsimp only [StepKept, OutKept, IssueKept, MicroKept, OptKept, done] | simp only [kept_mk_eq] |
                 with_reducible apply keptC_of | with_reducible apply keptC_marks | with_reducible apply keptC_regs |
                 with_reducible exact kept_fst (by assumption) (by assumption))

theorem State.cachedLoad_kept {dv : Nat} (s : State) (h pa n ca : Nat) (h_s : Kept dv s) : Kept dv (State.cachedLoad s h pa n ca).1 :=
    by
  unfold State.cachedLoad
  try dsimp only
  repeat' (first | with_reducible assumption | with_reducible apply State.dataLine_kept | with_reducible apply State.sbSearch_kept |
                 (intro _) | split | dsimp only [StepKept, OutKept, IssueKept, MicroKept, OptKept, done] | simp only [kept_mk_eq] |
                 with_reducible apply keptC_of | with_reducible apply keptC_marks | with_reducible apply keptC_regs |
                 with_reducible exact kept_fst (by assumption) (by assumption))

theorem State.loadPiece_kept {dv : Nat} (s : State) (h : Nat) (p : Piece) (h_s : Kept dv s) : Kept dv (State.loadPiece s h p).1 := by
  unfold State.loadPiece
  try dsimp only
  repeat' (first | with_reducible assumption | with_reducible apply State.tally_kept | with_reducible apply State.windowRead_kept |
                 with_reducible apply State.hostPart_kept | with_reducible apply State.cachedLoad_kept | (intro _) | split |
                 dsimp only [StepKept, OutKept, IssueKept, MicroKept, OptKept, done] | simp only [kept_mk_eq] |
                 with_reducible apply keptC_of | with_reducible apply keptC_marks | with_reducible apply keptC_regs |
                 with_reducible exact kept_fst (by assumption) (by assumption))

theorem State.storePiece_kept {dv : Nat} (s : State) (h : Nat) (p : Piece) (d : List Byte) (h_s : Kept dv s) : Kept dv (State.storePiece
    s h p d) := by
  unfold State.storePiece
  try dsimp only
  repeat' (first | with_reducible assumption | with_reducible apply State.tally_kept | with_reducible apply State.sbPut_kept |
                 with_reducible apply State.modAct_kept | with_reducible apply State.hostWrite_kept | with_reducible apply foldl_kept |
                 (intro _) | split | dsimp only [StepKept, OutKept, IssueKept, MicroKept, OptKept, done] | simp only [kept_mk_eq] |
                 with_reducible apply keptC_of | with_reducible apply keptC_marks | with_reducible apply keptC_regs |
                 with_reducible exact kept_fst (by assumption) (by assumption))

theorem State.loadPieces_kept {dv : Nat} (s : State) (h : Nat) (l : List Piece) (h_s : Kept dv s) : Kept dv (State.loadPieces s h l).1
    := by
  fun_induction State.loadPieces s h l
  all_goals (repeat' (first | with_reducible assumption | (rename_i ih; with_reducible apply ih) | with_reducible apply State.loadPiece_kept |
                            (intro _) | split | dsimp only [StepKept, OutKept, IssueKept, MicroKept, OptKept, done] |
                            simp only [kept_mk_eq] | with_reducible apply keptC_of | with_reducible apply keptC_marks |
                            with_reducible apply keptC_regs | with_reducible exact kept_fst (by assumption) (by assumption)))
  all_goals first | done | simp_all

theorem State.storePieces_kept {dv : Nat} (s : State) (h : Nat) (l : List Piece) (d : List Byte) (h_s : Kept dv s) : Kept dv
    (State.storePieces s h l d) := by
  fun_induction State.storePieces s h l d
  all_goals (repeat' (first | with_reducible assumption | (rename_i ih; with_reducible apply ih) | with_reducible apply State.storePiece_kept |
                            (intro _) | split | dsimp only [StepKept, OutKept, IssueKept, MicroKept, OptKept, done] |
                            simp only [kept_mk_eq] | with_reducible apply keptC_of | with_reducible apply keptC_marks |
                            with_reducible apply keptC_regs | with_reducible exact kept_fst (by assumption) (by assumption)))
  all_goals first | done | simp_all

theorem State.withAccess_kept {dv : Nat} (s : State) (h : Nat) (k : AccKind) (ea n : Nat) (items : List CmpItem) (f : State → List Piece
    → Step) (h_s : Kept dv s) (h_f : ∀ a0 a1, Kept dv a0 → StepKept dv (f a0 a1)) : StepKept dv (State.withAccess s h k ea n items f) :=
    by
  unfold State.withAccess
  try dsimp only
  repeat' (first | with_reducible assumption | with_reducible apply h_f | with_reducible apply State.modHew_kept |
                 with_reducible apply State.access_kept | with_reducible apply State.cmpPoint_kept | (intro _) | split |
                 dsimp only [StepKept, OutKept, IssueKept, MicroKept, OptKept, done] | simp only [kept_mk_eq] |
                 with_reducible apply keptC_of | with_reducible apply keptC_marks | with_reducible apply keptC_regs |
                 with_reducible exact kept_fst (by assumption) (by assumption))

theorem State.readNow_kept {dv : Nat} (s : State) (h : Nat) (l : List Piece) (ea : Nat) (f : State → List Byte → Step) (h_s : Kept dv s)
    (h_f : ∀ a0 a1, Kept dv a0 → StepKept dv (f a0 a1)) : StepKept dv (State.readNow s h l ea f) := by
  unfold State.readNow
  try dsimp only
  repeat' (first | with_reducible assumption | with_reducible apply h_f | with_reducible apply State.loadPieces_kept | (intro _) | split
                 | dsimp only [StepKept, OutKept, IssueKept, MicroKept, OptKept, done] | simp only [kept_mk_eq] |
                 with_reducible apply keptC_of | with_reducible apply keptC_marks | with_reducible apply keptC_regs |
                 with_reducible exact kept_fst (by assumption) (by assumption))

theorem State.noteMiss_kept {dv : Nat} (s : State) (h ea : Nat) (l : List Piece) (h_s : Kept dv s) : Kept dv (State.noteMiss s h ea l)
    := by
  unfold State.noteMiss
  try dsimp only
  repeat' (first | with_reducible assumption | with_reducible apply State.missNoted_kept | (intro _) | split |
                 dsimp only [StepKept, OutKept, IssueKept, MicroKept, OptKept, done] | simp only [kept_mk_eq] |
                 with_reducible apply keptC_of | with_reducible apply keptC_marks | with_reducible apply keptC_regs |
                 with_reducible exact kept_fst (by assumption) (by assumption))

theorem State.loadEnds_kept {dv : Nat} (s : State) (h : Nat) (l : List Piece) (m : MissedLoad) (upd : Hewer → Hewer) (late : Bool)
    (items : List CmpItem) (h_s : Kept dv s) : StepKept dv (State.loadEnds s h l m upd late items) := by
  unfold State.loadEnds
  try dsimp only
  repeat' (first | with_reducible assumption | with_reducible apply State.setHew_kept | with_reducible apply State.modHew_kept |
                 with_reducible apply getD_kept | (intro _) | split |
                 dsimp only [StepKept, OutKept, IssueKept, MicroKept, OptKept, done] | simp only [kept_mk_eq] |
                 with_reducible apply keptC_of | with_reducible apply keptC_marks | with_reducible apply keptC_regs |
                 with_reducible exact kept_fst (by assumption) (by assumption))

theorem State.loadStep_kept {dv : Nat} (s : State) (h : Nat) (k : LoadKind) (rd ea : Nat) (upd : Hewer → Hewer) (miss : Bool) (h_s :
    Kept dv s) : StepKept dv (State.loadStep s h k rd ea upd miss) := by
  unfold State.loadStep
  try dsimp only
  repeat' (first | with_reducible assumption | with_reducible apply State.freeBytes_kept | with_reducible apply State.setHew_kept |
                 with_reducible apply State.modHew_kept | with_reducible apply State.noteEvent_kept |
                 with_reducible apply State.outDrop_kept | with_reducible apply State.hostRead_kept |
                 with_reducible apply State.loadPieces_kept | with_reducible apply State.withAccess_kept |
                 with_reducible apply State.noteMiss_kept | with_reducible apply State.loadEnds_kept | (intro _) | split |
                 dsimp only [StepKept, OutKept, IssueKept, MicroKept, OptKept, done] | simp only [kept_mk_eq] |
                 with_reducible apply keptC_of | with_reducible apply keptC_marks | with_reducible apply keptC_regs |
                 with_reducible exact kept_fst (by assumption) (by assumption))

theorem State.storeStep_kept {dv : Nat} (s : State) (h ea : Nat) (d : List Byte) (upd : Hewer → Hewer) (h_s : Kept dv s) : StepKept dv
    (State.storeStep s h ea d upd) := by
  unfold State.storeStep
  try dsimp only
  repeat' (first | with_reducible assumption | with_reducible apply State.modHew_kept | with_reducible apply State.noteEvent_kept |
                 with_reducible apply State.storePieces_kept | with_reducible apply State.withAccess_kept | (intro _) | split |
                 dsimp only [StepKept, OutKept, IssueKept, MicroKept, OptKept, done] | simp only [kept_mk_eq] |
                 with_reducible apply keptC_of | with_reducible apply keptC_marks | with_reducible apply keptC_regs |
                 with_reducible exact kept_fst (by assumption) (by assumption))

theorem State.aluStep_kept {dv : Nat} (s : State) (h rd : Nat) (f : Hewer → AluRes) (h_s : Kept dv s) : StepKept dv (State.aluStep s h
    rd f) := by
  unfold State.aluStep
  try dsimp only
  repeat' (first | with_reducible assumption | with_reducible apply State.modHew_kept | (intro _) | split |
                 dsimp only [StepKept, OutKept, IssueKept, MicroKept, OptKept, done] | simp only [kept_mk_eq] |
                 with_reducible apply keptC_of | with_reducible apply keptC_marks | with_reducible apply keptC_regs |
                 with_reducible exact kept_fst (by assumption) (by assumption))

theorem State.moveStep_kept {dv : Nat} (s : State) (h rd : Nat) (f : Hewer → Word) (h_s : Kept dv s) : StepKept dv (State.moveStep s h
    rd f) := by
  unfold State.moveStep
  try dsimp only
  repeat' (first | with_reducible assumption | with_reducible apply State.modHew_kept | (intro _) | split |
                 dsimp only [StepKept, OutKept, IssueKept, MicroKept, OptKept, done] | simp only [kept_mk_eq] |
                 with_reducible apply keptC_of | with_reducible apply keptC_marks | with_reducible apply keptC_regs |
                 with_reducible exact kept_fst (by assumption) (by assumption))

theorem State.aluReg_kept {dv : Nat} (s : State) (h major func rd ra rb : Nat) (f : Word → Word → Bool → AluRes) (h_s : Kept dv s) :
    Kept dv (State.aluReg s h major func rd ra rb f) := by
  unfold State.aluReg
  try dsimp only
  repeat' (first | with_reducible assumption | with_reducible apply State.run_kept | with_reducible apply State.aluStep_kept | (intro _)
                 | split | dsimp only [StepKept, OutKept, IssueKept, MicroKept, OptKept, done] | simp only [kept_mk_eq] |
                 with_reducible apply keptC_of | with_reducible apply keptC_marks | with_reducible apply keptC_regs |
                 with_reducible exact kept_fst (by assumption) (by assumption))

theorem State.aluImm_kept {dv : Nat} (s : State) (h major rd ra imm : Nat) (f : Word → AluRes) (h_s : Kept dv s) : Kept dv (State.aluImm
    s h major rd ra imm f) := by
  unfold State.aluImm
  try dsimp only
  repeat' (first | with_reducible assumption | with_reducible apply State.run_kept | with_reducible apply State.aluStep_kept | (intro _)
                 | split | dsimp only [StepKept, OutKept, IssueKept, MicroKept, OptKept, done] | simp only [kept_mk_eq] |
                 with_reducible apply keptC_of | with_reducible apply keptC_marks | with_reducible apply keptC_regs |
                 with_reducible exact kept_fst (by assumption) (by assumption))

theorem State.divStep_kept {dv : Nat} (s : State) (h func rd ra rb : Nat) (f : Word → Word → AluRes) (h_s : Kept dv s) : Kept dv
    (State.divStep s h func rd ra rb f) := by
  unfold State.divStep
  try dsimp only
  repeat' (first | with_reducible assumption | with_reducible apply State.runLong_kept | with_reducible apply State.aluStep_kept |
                 (intro _) | split | dsimp only [StepKept, OutKept, IssueKept, MicroKept, OptKept, done] | simp only [kept_mk_eq] |
                 with_reducible apply keptC_of | with_reducible apply keptC_marks | with_reducible apply keptC_regs |
                 with_reducible exact kept_fst (by assumption) (by assumption))

theorem execAdd_kept {dv : Nat} (h : HewerId) (rd ra rb : RegNo) (s : State) (h_s : Kept dv s) : OutKept dv (execAdd h rd ra rb s) := by
  unfold execAdd
  try dsimp only
  repeat' (first | with_reducible assumption | with_reducible apply done_kept | with_reducible apply State.aluReg_kept | (intro _) |
                 split | dsimp only [StepKept, OutKept, IssueKept, MicroKept, OptKept, done] | simp only [kept_mk_eq] |
                 with_reducible apply keptC_of | with_reducible apply keptC_marks | with_reducible apply keptC_regs |
                 with_reducible exact kept_fst (by assumption) (by assumption))

theorem execAdc_kept {dv : Nat} (h : HewerId) (rd ra rb : RegNo) (s : State) (h_s : Kept dv s) : OutKept dv (execAdc h rd ra rb s) := by
  unfold execAdc
  try dsimp only
  repeat' (first | with_reducible assumption | with_reducible apply done_kept | with_reducible apply State.aluReg_kept | (intro _) |
                 split | dsimp only [StepKept, OutKept, IssueKept, MicroKept, OptKept, done] | simp only [kept_mk_eq] |
                 with_reducible apply keptC_of | with_reducible apply keptC_marks | with_reducible apply keptC_regs |
                 with_reducible exact kept_fst (by assumption) (by assumption))

theorem execSub_kept {dv : Nat} (h : HewerId) (rd ra rb : RegNo) (s : State) (h_s : Kept dv s) : OutKept dv (execSub h rd ra rb s) := by
  unfold execSub
  try dsimp only
  repeat' (first | with_reducible assumption | with_reducible apply done_kept | with_reducible apply State.aluReg_kept | (intro _) |
                 split | dsimp only [StepKept, OutKept, IssueKept, MicroKept, OptKept, done] | simp only [kept_mk_eq] |
                 with_reducible apply keptC_of | with_reducible apply keptC_marks | with_reducible apply keptC_regs |
                 with_reducible exact kept_fst (by assumption) (by assumption))

theorem execSbc_kept {dv : Nat} (h : HewerId) (rd ra rb : RegNo) (s : State) (h_s : Kept dv s) : OutKept dv (execSbc h rd ra rb s) := by
  unfold execSbc
  try dsimp only
  repeat' (first | with_reducible assumption | with_reducible apply done_kept | with_reducible apply State.aluReg_kept | (intro _) |
                 split | dsimp only [StepKept, OutKept, IssueKept, MicroKept, OptKept, done] | simp only [kept_mk_eq] |
                 with_reducible apply keptC_of | with_reducible apply keptC_marks | with_reducible apply keptC_regs |
                 with_reducible exact kept_fst (by assumption) (by assumption))

theorem execCmp_kept {dv : Nat} (h : HewerId) (ra rb : RegNo) (s : State) (h_s : Kept dv s) : OutKept dv (execCmp h ra rb s) := by
  unfold execCmp
  try dsimp only
  repeat' (first | with_reducible assumption | with_reducible apply done_kept | with_reducible apply State.aluReg_kept | (intro _) |
                 split | dsimp only [StepKept, OutKept, IssueKept, MicroKept, OptKept, done] | simp only [kept_mk_eq] |
                 with_reducible apply keptC_of | with_reducible apply keptC_marks | with_reducible apply keptC_regs |
                 with_reducible exact kept_fst (by assumption) (by assumption))

theorem execAnd_kept {dv : Nat} (h : HewerId) (rd ra rb : RegNo) (s : State) (h_s : Kept dv s) : OutKept dv (execAnd h rd ra rb s) := by
  unfold execAnd
  try dsimp only
  repeat' (first | with_reducible assumption | with_reducible apply done_kept | with_reducible apply State.aluReg_kept | (intro _) |
                 split | dsimp only [StepKept, OutKept, IssueKept, MicroKept, OptKept, done] | simp only [kept_mk_eq] |
                 with_reducible apply keptC_of | with_reducible apply keptC_marks | with_reducible apply keptC_regs |
                 with_reducible exact kept_fst (by assumption) (by assumption))

theorem execOr_kept {dv : Nat} (h : HewerId) (rd ra rb : RegNo) (s : State) (h_s : Kept dv s) : OutKept dv (execOr h rd ra rb s) := by
  unfold execOr
  try dsimp only
  repeat' (first | with_reducible assumption | with_reducible apply done_kept | with_reducible apply State.aluReg_kept | (intro _) |
                 split | dsimp only [StepKept, OutKept, IssueKept, MicroKept, OptKept, done] | simp only [kept_mk_eq] |
                 with_reducible apply keptC_of | with_reducible apply keptC_marks | with_reducible apply keptC_regs |
                 with_reducible exact kept_fst (by assumption) (by assumption))

theorem execXor_kept {dv : Nat} (h : HewerId) (rd ra rb : RegNo) (s : State) (h_s : Kept dv s) : OutKept dv (execXor h rd ra rb s) := by
  unfold execXor
  try dsimp only
  repeat' (first | with_reducible assumption | with_reducible apply done_kept | with_reducible apply State.aluReg_kept | (intro _) |
                 split | dsimp only [StepKept, OutKept, IssueKept, MicroKept, OptKept, done] | simp only [kept_mk_eq] |
                 with_reducible apply keptC_of | with_reducible apply keptC_marks | with_reducible apply keptC_regs |
                 with_reducible exact kept_fst (by assumption) (by assumption))

theorem execAndn_kept {dv : Nat} (h : HewerId) (rd ra rb : RegNo) (s : State) (h_s : Kept dv s) : OutKept dv (execAndn h rd ra rb s) :=
    by
  unfold execAndn
  try dsimp only
  repeat' (first | with_reducible assumption | with_reducible apply done_kept | with_reducible apply State.aluReg_kept | (intro _) |
                 split | dsimp only [StepKept, OutKept, IssueKept, MicroKept, OptKept, done] | simp only [kept_mk_eq] |
                 with_reducible apply keptC_of | with_reducible apply keptC_marks | with_reducible apply keptC_regs |
                 with_reducible exact kept_fst (by assumption) (by assumption))

theorem execTest_kept {dv : Nat} (h : HewerId) (ra rb : RegNo) (s : State) (h_s : Kept dv s) : OutKept dv (execTest h ra rb s) := by
  unfold execTest
  try dsimp only
  repeat' (first | with_reducible assumption | with_reducible apply done_kept | with_reducible apply State.aluReg_kept | (intro _) |
                 split | dsimp only [StepKept, OutKept, IssueKept, MicroKept, OptKept, done] | simp only [kept_mk_eq] |
                 with_reducible apply keptC_of | with_reducible apply keptC_marks | with_reducible apply keptC_regs |
                 with_reducible exact kept_fst (by assumption) (by assumption))

theorem execShl_kept {dv : Nat} (h : HewerId) (rd ra rb : RegNo) (s : State) (h_s : Kept dv s) : OutKept dv (execShl h rd ra rb s) := by
  unfold execShl
  try dsimp only
  repeat' (first | with_reducible assumption | with_reducible apply done_kept | with_reducible apply State.aluReg_kept | (intro _) |
                 split | dsimp only [StepKept, OutKept, IssueKept, MicroKept, OptKept, done] | simp only [kept_mk_eq] |
                 with_reducible apply keptC_of | with_reducible apply keptC_marks | with_reducible apply keptC_regs |
                 with_reducible exact kept_fst (by assumption) (by assumption))

theorem execShr_kept {dv : Nat} (h : HewerId) (rd ra rb : RegNo) (s : State) (h_s : Kept dv s) : OutKept dv (execShr h rd ra rb s) := by
  unfold execShr
  try dsimp only
  repeat' (first | with_reducible assumption | with_reducible apply done_kept | with_reducible apply State.aluReg_kept | (intro _) |
                 split | dsimp only [StepKept, OutKept, IssueKept, MicroKept, OptKept, done] | simp only [kept_mk_eq] |
                 with_reducible apply keptC_of | with_reducible apply keptC_marks | with_reducible apply keptC_regs |
                 with_reducible exact kept_fst (by assumption) (by assumption))

theorem execSar_kept {dv : Nat} (h : HewerId) (rd ra rb : RegNo) (s : State) (h_s : Kept dv s) : OutKept dv (execSar h rd ra rb s) := by
  unfold execSar
  try dsimp only
  repeat' (first | with_reducible assumption | with_reducible apply done_kept | with_reducible apply State.aluReg_kept | (intro _) |
                 split | dsimp only [StepKept, OutKept, IssueKept, MicroKept, OptKept, done] | simp only [kept_mk_eq] |
                 with_reducible apply keptC_of | with_reducible apply keptC_marks | with_reducible apply keptC_regs |
                 with_reducible exact kept_fst (by assumption) (by assumption))

theorem execRor_kept {dv : Nat} (h : HewerId) (rd ra rb : RegNo) (s : State) (h_s : Kept dv s) : OutKept dv (execRor h rd ra rb s) := by
  unfold execRor
  try dsimp only
  repeat' (first | with_reducible assumption | with_reducible apply done_kept | with_reducible apply State.aluReg_kept | (intro _) |
                 split | dsimp only [StepKept, OutKept, IssueKept, MicroKept, OptKept, done] | simp only [kept_mk_eq] |
                 with_reducible apply keptC_of | with_reducible apply keptC_marks | with_reducible apply keptC_regs |
                 with_reducible exact kept_fst (by assumption) (by assumption))

theorem execMov_kept {dv : Nat} (h : HewerId) (rd ra : RegNo) (s : State) (h_s : Kept dv s) : OutKept dv (execMov h rd ra s) := by
  unfold execMov
  try dsimp only
  repeat' (first | with_reducible assumption | with_reducible apply done_kept | with_reducible apply State.run_kept |
                 with_reducible apply State.moveStep_kept | (intro _) | split |
                 dsimp only [StepKept, OutKept, IssueKept, MicroKept, OptKept, done] | simp only [kept_mk_eq] |
                 with_reducible apply keptC_of | with_reducible apply keptC_marks | with_reducible apply keptC_regs |
                 with_reducible exact kept_fst (by assumption) (by assumption))

theorem execPick_kept {dv : Nat} (h : HewerId) (cond : Fin 16) (rd ra rb : RegNo) (s : State) (h_s : Kept dv s) : OutKept dv (execPick h
    cond rd ra rb s) := by
  unfold execPick
  try dsimp only
  repeat' (first | with_reducible assumption | with_reducible apply done_kept | with_reducible apply State.run_kept |
                 with_reducible apply State.moveStep_kept | (intro _) | split |
                 dsimp only [StepKept, OutKept, IssueKept, MicroKept, OptKept, done] | simp only [kept_mk_eq] |
                 with_reducible apply keptC_of | with_reducible apply keptC_marks | with_reducible apply keptC_regs |
                 with_reducible exact kept_fst (by assumption) (by assumption))

theorem execMul_kept {dv : Nat} (h : HewerId) (rd ra rb : RegNo) (s : State) (h_s : Kept dv s) : OutKept dv (execMul h rd ra rb s) := by
  unfold execMul
  try dsimp only
  repeat' (first | with_reducible assumption | with_reducible apply done_kept | with_reducible apply State.aluReg_kept | (intro _) |
                 split | dsimp only [StepKept, OutKept, IssueKept, MicroKept, OptKept, done] | simp only [kept_mk_eq] |
                 with_reducible apply keptC_of | with_reducible apply keptC_marks | with_reducible apply keptC_regs |
                 with_reducible exact kept_fst (by assumption) (by assumption))

theorem execMulu_kept {dv : Nat} (h : HewerId) (rd ra rb : RegNo) (s : State) (h_s : Kept dv s) : OutKept dv (execMulu h rd ra rb s) :=
    by
  unfold execMulu
  try dsimp only
  repeat' (first | with_reducible assumption | with_reducible apply done_kept | with_reducible apply State.aluReg_kept | (intro _) |
                 split | dsimp only [StepKept, OutKept, IssueKept, MicroKept, OptKept, done] | simp only [kept_mk_eq] |
                 with_reducible apply keptC_of | with_reducible apply keptC_marks | with_reducible apply keptC_regs |
                 with_reducible exact kept_fst (by assumption) (by assumption))

theorem execMulh_kept {dv : Nat} (h : HewerId) (rd ra rb : RegNo) (s : State) (h_s : Kept dv s) : OutKept dv (execMulh h rd ra rb s) :=
    by
  unfold execMulh
  try dsimp only
  repeat' (first | with_reducible assumption | with_reducible apply done_kept | with_reducible apply State.aluReg_kept | (intro _) |
                 split | dsimp only [StepKept, OutKept, IssueKept, MicroKept, OptKept, done] | simp only [kept_mk_eq] |
                 with_reducible apply keptC_of | with_reducible apply keptC_marks | with_reducible apply keptC_regs |
                 with_reducible exact kept_fst (by assumption) (by assumption))

theorem execMulhu_kept {dv : Nat} (h : HewerId) (rd ra rb : RegNo) (s : State) (h_s : Kept dv s) : OutKept dv (execMulhu h rd ra rb s)
    := by
  unfold execMulhu
  try dsimp only
  repeat' (first | with_reducible assumption | with_reducible apply done_kept | with_reducible apply State.aluReg_kept | (intro _) |
                 split | dsimp only [StepKept, OutKept, IssueKept, MicroKept, OptKept, done] | simp only [kept_mk_eq] |
                 with_reducible apply keptC_of | with_reducible apply keptC_marks | with_reducible apply keptC_regs |
                 with_reducible exact kept_fst (by assumption) (by assumption))

theorem execDiv_kept {dv : Nat} (h : HewerId) (rd ra rb : RegNo) (s : State) (h_s : Kept dv s) : OutKept dv (execDiv h rd ra rb s) := by
  unfold execDiv
  try dsimp only
  repeat' (first | with_reducible assumption | with_reducible apply done_kept | with_reducible apply State.divStep_kept | (intro _) |
                 split | dsimp only [StepKept, OutKept, IssueKept, MicroKept, OptKept, done] | simp only [kept_mk_eq] |
                 with_reducible apply keptC_of | with_reducible apply keptC_marks | with_reducible apply keptC_regs |
                 with_reducible exact kept_fst (by assumption) (by assumption))

theorem execDivu_kept {dv : Nat} (h : HewerId) (rd ra rb : RegNo) (s : State) (h_s : Kept dv s) : OutKept dv (execDivu h rd ra rb s) :=
    by
  unfold execDivu
  try dsimp only
  repeat' (first | with_reducible assumption | with_reducible apply done_kept | with_reducible apply State.divStep_kept | (intro _) |
                 split | dsimp only [StepKept, OutKept, IssueKept, MicroKept, OptKept, done] | simp only [kept_mk_eq] |
                 with_reducible apply keptC_of | with_reducible apply keptC_marks | with_reducible apply keptC_regs |
                 with_reducible exact kept_fst (by assumption) (by assumption))

theorem execRem_kept {dv : Nat} (h : HewerId) (rd ra rb : RegNo) (s : State) (h_s : Kept dv s) : OutKept dv (execRem h rd ra rb s) := by
  unfold execRem
  try dsimp only
  repeat' (first | with_reducible assumption | with_reducible apply done_kept | with_reducible apply State.divStep_kept | (intro _) |
                 split | dsimp only [StepKept, OutKept, IssueKept, MicroKept, OptKept, done] | simp only [kept_mk_eq] |
                 with_reducible apply keptC_of | with_reducible apply keptC_marks | with_reducible apply keptC_regs |
                 with_reducible exact kept_fst (by assumption) (by assumption))

theorem execRemu_kept {dv : Nat} (h : HewerId) (rd ra rb : RegNo) (s : State) (h_s : Kept dv s) : OutKept dv (execRemu h rd ra rb s) :=
    by
  unfold execRemu
  try dsimp only
  repeat' (first | with_reducible assumption | with_reducible apply done_kept | with_reducible apply State.divStep_kept | (intro _) |
                 split | dsimp only [StepKept, OutKept, IssueKept, MicroKept, OptKept, done] | simp only [kept_mk_eq] |
                 with_reducible apply keptC_of | with_reducible apply keptC_marks | with_reducible apply keptC_regs |
                 with_reducible exact kept_fst (by assumption) (by assumption))

theorem execAddi_kept {dv : Nat} (h : HewerId) (rd ra : RegNo) (imm : BitVec 15) (s : State) (h_s : Kept dv s) : OutKept dv (execAddi h
    rd ra imm s) := by
  unfold execAddi
  try dsimp only
  repeat' (first | with_reducible assumption | with_reducible apply done_kept | with_reducible apply State.aluImm_kept | (intro _) |
                 split | dsimp only [StepKept, OutKept, IssueKept, MicroKept, OptKept, done] | simp only [kept_mk_eq] |
                 with_reducible apply keptC_of | with_reducible apply keptC_marks | with_reducible apply keptC_regs |
                 with_reducible exact kept_fst (by assumption) (by assumption))

theorem execCmpi_kept {dv : Nat} (h : HewerId) (ra : RegNo) (imm : BitVec 15) (s : State) (h_s : Kept dv s) : OutKept dv (execCmpi h ra
    imm s) := by
  unfold execCmpi
  try dsimp only
  repeat' (first | with_reducible assumption | with_reducible apply done_kept | with_reducible apply State.aluImm_kept | (intro _) |
                 split | dsimp only [StepKept, OutKept, IssueKept, MicroKept, OptKept, done] | simp only [kept_mk_eq] |
                 with_reducible apply keptC_of | with_reducible apply keptC_marks | with_reducible apply keptC_regs |
                 with_reducible exact kept_fst (by assumption) (by assumption))

theorem execAndi_kept {dv : Nat} (h : HewerId) (rd ra : RegNo) (imm : BitVec 15) (s : State) (h_s : Kept dv s) : OutKept dv (execAndi h
    rd ra imm s) := by
  unfold execAndi
  try dsimp only
  repeat' (first | with_reducible assumption | with_reducible apply done_kept | with_reducible apply State.aluImm_kept | (intro _) |
                 split | dsimp only [StepKept, OutKept, IssueKept, MicroKept, OptKept, done] | simp only [kept_mk_eq] |
                 with_reducible apply keptC_of | with_reducible apply keptC_marks | with_reducible apply keptC_regs |
                 with_reducible exact kept_fst (by assumption) (by assumption))

theorem execOri_kept {dv : Nat} (h : HewerId) (rd ra : RegNo) (imm : BitVec 15) (s : State) (h_s : Kept dv s) : OutKept dv (execOri h rd
    ra imm s) := by
  unfold execOri
  try dsimp only
  repeat' (first | with_reducible assumption | with_reducible apply done_kept | with_reducible apply State.aluImm_kept | (intro _) |
                 split | dsimp only [StepKept, OutKept, IssueKept, MicroKept, OptKept, done] | simp only [kept_mk_eq] |
                 with_reducible apply keptC_of | with_reducible apply keptC_marks | with_reducible apply keptC_regs |
                 with_reducible exact kept_fst (by assumption) (by assumption))

theorem execXori_kept {dv : Nat} (h : HewerId) (rd ra : RegNo) (imm : BitVec 15) (s : State) (h_s : Kept dv s) : OutKept dv (execXori h
    rd ra imm s) := by
  unfold execXori
  try dsimp only
  repeat' (first | with_reducible assumption | with_reducible apply done_kept | with_reducible apply State.aluImm_kept | (intro _) |
                 split | dsimp only [StepKept, OutKept, IssueKept, MicroKept, OptKept, done] | simp only [kept_mk_eq] |
                 with_reducible apply keptC_of | with_reducible apply keptC_marks | with_reducible apply keptC_regs |
                 with_reducible exact kept_fst (by assumption) (by assumption))

theorem execShlByImmediate_kept {dv : Nat} (h : HewerId) (rd ra : RegNo) (count : Fin 64) (s : State) (h_s : Kept dv s) : OutKept dv
    (execShlByImmediate h rd ra count s) := by
  unfold execShlByImmediate
  try dsimp only
  repeat' (first | with_reducible assumption | with_reducible apply done_kept | with_reducible apply State.aluImm_kept | (intro _) |
                 split | dsimp only [StepKept, OutKept, IssueKept, MicroKept, OptKept, done] | simp only [kept_mk_eq] |
                 with_reducible apply keptC_of | with_reducible apply keptC_marks | with_reducible apply keptC_regs |
                 with_reducible exact kept_fst (by assumption) (by assumption))

theorem execShrByImmediate_kept {dv : Nat} (h : HewerId) (rd ra : RegNo) (count : Fin 64) (s : State) (h_s : Kept dv s) : OutKept dv
    (execShrByImmediate h rd ra count s) := by
  unfold execShrByImmediate
  try dsimp only
  repeat' (first | with_reducible assumption | with_reducible apply done_kept | with_reducible apply State.aluImm_kept | (intro _) |
                 split | dsimp only [StepKept, OutKept, IssueKept, MicroKept, OptKept, done] | simp only [kept_mk_eq] |
                 with_reducible apply keptC_of | with_reducible apply keptC_marks | with_reducible apply keptC_regs |
                 with_reducible exact kept_fst (by assumption) (by assumption))

theorem execSarByImmediate_kept {dv : Nat} (h : HewerId) (rd ra : RegNo) (count : Fin 64) (s : State) (h_s : Kept dv s) : OutKept dv
    (execSarByImmediate h rd ra count s) := by
  unfold execSarByImmediate
  try dsimp only
  repeat' (first | with_reducible assumption | with_reducible apply done_kept | with_reducible apply State.aluImm_kept | (intro _) |
                 split | dsimp only [StepKept, OutKept, IssueKept, MicroKept, OptKept, done] | simp only [kept_mk_eq] |
                 with_reducible apply keptC_of | with_reducible apply keptC_marks | with_reducible apply keptC_regs |
                 with_reducible exact kept_fst (by assumption) (by assumption))

theorem execRorByImmediate_kept {dv : Nat} (h : HewerId) (rd ra : RegNo) (count : Fin 64) (s : State) (h_s : Kept dv s) : OutKept dv
    (execRorByImmediate h rd ra count s) := by
  unfold execRorByImmediate
  try dsimp only
  repeat' (first | with_reducible assumption | with_reducible apply done_kept | with_reducible apply State.aluImm_kept | (intro _) |
                 split | dsimp only [StepKept, OutKept, IssueKept, MicroKept, OptKept, done] | simp only [kept_mk_eq] |
                 with_reducible apply keptC_of | with_reducible apply keptC_marks | with_reducible apply keptC_regs |
                 with_reducible exact kept_fst (by assumption) (by assumption))

theorem execLi_kept {dv : Nat} (h : HewerId) (rd : RegNo) (imm : BitVec 20) (s : State) (h_s : Kept dv s) : OutKept dv (execLi h rd imm
    s) := by
  unfold execLi
  try dsimp only
  repeat' (first | with_reducible assumption | with_reducible apply done_kept | with_reducible apply State.run_kept |
                 with_reducible apply State.moveStep_kept | (intro _) | split |
                 dsimp only [StepKept, OutKept, IssueKept, MicroKept, OptKept, done] | simp only [kept_mk_eq] |
                 with_reducible apply keptC_of | with_reducible apply keptC_marks | with_reducible apply keptC_regs |
                 with_reducible exact kept_fst (by assumption) (by assumption))

theorem execMovk_kept {dv : Nat} (h : HewerId) (rd : RegNo) (k : Fin 4) (imm : BitVec 16) (s : State) (h_s : Kept dv s) : OutKept dv
    (execMovk h rd k imm s) := by
  unfold execMovk
  try dsimp only
  repeat' (first | with_reducible assumption | with_reducible apply done_kept | with_reducible apply State.run_kept |
                 with_reducible apply State.moveStep_kept | (intro _) | split |
                 dsimp only [StepKept, OutKept, IssueKept, MicroKept, OptKept, done] | simp only [kept_mk_eq] |
                 with_reducible apply keptC_of | with_reducible apply keptC_marks | with_reducible apply keptC_regs |
                 with_reducible exact kept_fst (by assumption) (by assumption))

theorem execLoad_kept {dv : Nat} (h : HewerId) (kind : LoadKind) (rd ra : RegNo) (up : Bool) (disp : BitVec 14) (miss : Bool) (s :
    State) (h_s : Kept dv s) : OutKept dv (execLoad h kind rd ra up disp miss s) := by
  unfold execLoad
  try dsimp only
  repeat' (first | with_reducible assumption | with_reducible apply done_kept | with_reducible apply State.run_kept |
                 with_reducible apply State.loadStep_kept | (intro _) | split |
                 dsimp only [StepKept, OutKept, IssueKept, MicroKept, OptKept, done] | simp only [kept_mk_eq] |
                 with_reducible apply keptC_of | with_reducible apply keptC_marks | with_reducible apply keptC_regs |
                 with_reducible exact kept_fst (by assumption) (by assumption))

theorem execStore_kept {dv : Nat} (h : HewerId) (kind : StoreKind) (rd ra : RegNo) (up : Bool) (disp : BitVec 14) (s : State) (h_s :
    Kept dv s) : OutKept dv (execStore h kind rd ra up disp s) := by
  unfold execStore
  try dsimp only
  repeat' (first | with_reducible assumption | with_reducible apply done_kept | with_reducible apply State.run_kept |
                 with_reducible apply State.storeStep_kept | (intro _) | split |
                 dsimp only [StepKept, OutKept, IssueKept, MicroKept, OptKept, done] | simp only [kept_mk_eq] |
                 with_reducible apply keptC_of | with_reducible apply keptC_marks | with_reducible apply keptC_regs |
                 with_reducible exact kept_fst (by assumption) (by assumption))

theorem execLoadIndexed_kept {dv : Nat} (h : HewerId) (kind : LoadKind) (rd ra rb : RegNo) (scale : Fin 4) (miss : Bool) (s : State)
    (h_s : Kept dv s) : OutKept dv (execLoadIndexed h kind rd ra rb scale miss s) := by
  unfold execLoadIndexed
  try dsimp only
  repeat' (first | with_reducible assumption | with_reducible apply done_kept | with_reducible apply State.run_kept |
                 with_reducible apply State.loadStep_kept | (intro _) | split |
                 dsimp only [StepKept, OutKept, IssueKept, MicroKept, OptKept, done] | simp only [kept_mk_eq] |
                 with_reducible apply keptC_of | with_reducible apply keptC_marks | with_reducible apply keptC_regs |
                 with_reducible exact kept_fst (by assumption) (by assumption))

theorem execStoreIndexed_kept {dv : Nat} (h : HewerId) (kind : StoreKind) (rd ra rb : RegNo) (scale : Fin 4) (s : State) (h_s : Kept dv
    s) : OutKept dv (execStoreIndexed h kind rd ra rb scale s) := by
  unfold execStoreIndexed
  try dsimp only
  repeat' (first | with_reducible assumption | with_reducible apply done_kept | with_reducible apply State.run_kept |
                 with_reducible apply State.storeStep_kept | (intro _) | split |
                 dsimp only [StepKept, OutKept, IssueKept, MicroKept, OptKept, done] | simp only [kept_mk_eq] |
                 with_reducible apply keptC_of | with_reducible apply keptC_marks | with_reducible apply keptC_regs |
                 with_reducible exact kept_fst (by assumption) (by assumption))

theorem execLoadReturn_kept {dv : Nat} (h : HewerId) (n : Fin 24) (s : State) (h_s : Kept dv s) : OutKept dv (execLoadReturn h n s) :=
    by
  unfold execLoadReturn
  try dsimp only
  repeat' (first | with_reducible assumption | with_reducible apply State.setHew_kept | with_reducible apply done_kept | (intro _) |
                 split | dsimp only [StepKept, OutKept, IssueKept, MicroKept, OptKept, done] | simp only [kept_mk_eq] |
                 with_reducible apply keptC_of | with_reducible apply keptC_marks | with_reducible apply keptC_regs |
                 with_reducible exact kept_fst (by assumption) (by assumption))

theorem execPush_kept {dv : Nat} (h : HewerId) (ra : RegNo) (s : State) (h_s : Kept dv s) : OutKept dv (execPush h ra s) := by
  unfold execPush
  try dsimp only
  repeat' (first | with_reducible assumption | with_reducible apply done_kept | with_reducible apply State.run_kept |
                 with_reducible apply State.storeStep_kept | (intro _) | split |
                 dsimp only [StepKept, OutKept, IssueKept, MicroKept, OptKept, done] | simp only [kept_mk_eq] |
                 with_reducible apply keptC_of | with_reducible apply keptC_marks | with_reducible apply keptC_regs |
                 with_reducible exact kept_fst (by assumption) (by assumption))

theorem execPop_kept {dv : Nat} (h : HewerId) (rd : RegNo) (s : State) (h_s : Kept dv s) : OutKept dv (execPop h rd s) := by
  unfold execPop
  try dsimp only
  repeat' (first | with_reducible assumption | with_reducible apply done_kept | with_reducible apply State.run_kept |
                 with_reducible apply State.loadStep_kept | (intro _) | split |
                 dsimp only [StepKept, OutKept, IssueKept, MicroKept, OptKept, done] | simp only [kept_mk_eq] |
                 with_reducible apply keptC_of | with_reducible apply keptC_marks | with_reducible apply keptC_regs |
                 with_reducible exact kept_fst (by assumption) (by assumption))

theorem State.atomicAccess_kept {dv : Nat} (s : State) (h : Nat) (k : AccKind) (ea n : Nat) (items : List CmpItem) (f : State → Nat →
    Piece → Step) (h_s : Kept dv s) (h_f : ∀ a0 a1 a2, Kept dv a0 → StepKept dv (f a0 a1 a2)) : StepKept dv (State.atomicAccess s h k ea
    n items f) := by
  unfold State.atomicAccess
  try dsimp only
  repeat' (first | with_reducible assumption | with_reducible apply h_f | with_reducible apply State.withAccess_kept | (intro _) | split
                 | dsimp only [StepKept, OutKept, IssueKept, MicroKept, OptKept, done] | simp only [kept_mk_eq] |
                 with_reducible apply keptC_of | with_reducible apply keptC_marks | with_reducible apply keptC_regs |
                 with_reducible exact kept_fst (by assumption) (by assumption))

theorem State.afterEarlier_kept {dv : Nat} (s : State) (h : Nat) (rl : Bool) (f : State → Step) (h_s : Kept dv s) (h_f : ∀ a0, Kept dv
    a0 → StepKept dv (f a0)) : StepKept dv (State.afterEarlier s h rl f) := by
  unfold State.afterEarlier
  try dsimp only
  repeat' (first | with_reducible assumption | with_reducible apply h_f | with_reducible apply State.sbFlush_kept | (intro _) | split |
                 dsimp only [StepKept, OutKept, IssueKept, MicroKept, OptKept, done] | simp only [kept_mk_eq] |
                 with_reducible apply keptC_of | with_reducible apply keptC_marks | with_reducible apply keptC_regs |
                 with_reducible exact kept_fst (by assumption) (by assumption))

theorem execLdx_kept {dv : Nat} (h : HewerId) (wide aq rl : Bool) (rd ra : RegNo) (s : State) (h_s : Kept dv s) : OutKept dv (execLdx h
    wide aq rl rd ra s) := by
  unfold execLdx
  try dsimp only
  repeat' (first | with_reducible assumption | with_reducible apply State.modHew_kept | with_reducible apply done_kept |
                 with_reducible apply State.run_kept | with_reducible apply State.readNow_kept |
                 with_reducible apply State.atomicAccess_kept | with_reducible apply State.afterEarlier_kept | (intro _) | split |
                 dsimp only [StepKept, OutKept, IssueKept, MicroKept, OptKept, done] | simp only [kept_mk_eq] |
                 with_reducible apply keptC_of | with_reducible apply keptC_marks | with_reducible apply keptC_regs |
                 with_reducible exact kept_fst (by assumption) (by assumption))

theorem State.stxWrite_kept {dv : Nat} (s : State) (h pa ca : Nat) (d : List Byte) (h_s : Kept dv s) : Kept dv (State.stxWrite s h pa ca
    d) := by
  unfold State.stxWrite
  try dsimp only
  repeat' (first | with_reducible assumption | with_reducible apply State.hewerWrite_kept | with_reducible apply State.dataLine_kept |
                 with_reducible apply State.sbFlush_kept | (intro _) | split |
                 dsimp only [StepKept, OutKept, IssueKept, MicroKept, OptKept, done] | simp only [kept_mk_eq] |
                 with_reducible apply keptC_of | with_reducible apply keptC_marks | with_reducible apply keptC_regs |
                 with_reducible exact kept_fst (by assumption) (by assumption))

theorem execStx_kept {dv : Nat} (h : HewerId) (wide aq rl : Bool) (rd ra rb : RegNo) (s : State) (h_s : Kept dv s) : OutKept dv (execStx
    h wide aq rl rd ra rb s) := by
  unfold execStx
  try dsimp only
  repeat' (first | with_reducible assumption | with_reducible apply State.modHew_kept | with_reducible apply done_kept |
                 with_reducible apply State.tally_kept | with_reducible apply State.run_kept |
                 with_reducible apply State.atomicAccess_kept | with_reducible apply State.afterEarlier_kept |
                 with_reducible apply State.stxWrite_kept | (intro _) | split |
                 dsimp only [StepKept, OutKept, IssueKept, MicroKept, OptKept, done] | simp only [kept_mk_eq] |
                 with_reducible apply keptC_of | with_reducible apply keptC_marks | with_reducible apply keptC_regs |
                 with_reducible exact kept_fst (by assumption) (by assumption))

theorem State.amoRead_kept {dv : Nat} (s : State) (ea pa n : Nat) (f : State → Nat → Step) (h_s : Kept dv s) (h_f : ∀ a0 a1, Kept dv a0
    → StepKept dv (f a0 a1)) : StepKept dv (State.amoRead s ea pa n f) := by
  unfold State.amoRead
  try dsimp only
  repeat' (first | with_reducible assumption | with_reducible apply h_f | (intro _) | split |
                 dsimp only [StepKept, OutKept, IssueKept, MicroKept, OptKept, done] | simp only [kept_mk_eq] |
                 with_reducible apply keptC_of | with_reducible apply keptC_marks | with_reducible apply keptC_regs |
                 with_reducible exact kept_fst (by assumption) (by assumption))

theorem State.amo_kept {dv : Nat} (s : State) (h func : Nat) (wide aq rl : Bool) (rd ra rb : Nat) (f : Nat → Nat → Nat → Nat) (h_s :
    Kept dv s) : Kept dv (State.amo s h func wide aq rl rd ra rb f) := by
  unfold State.amo
  try dsimp only
  repeat' (first | with_reducible assumption | with_reducible apply State.modHew_kept | with_reducible apply State.hewerWrite_kept |
                 with_reducible apply State.tally_kept | with_reducible apply State.amoLine_kept |
                 with_reducible apply State.sbFlush_kept | with_reducible apply State.runLong_kept |
                 with_reducible apply State.atomicAccess_kept | with_reducible apply State.amoRead_kept | (intro _) | split |
                 dsimp only [StepKept, OutKept, IssueKept, MicroKept, OptKept, done] | simp only [kept_mk_eq] |
                 with_reducible apply keptC_of | with_reducible apply keptC_marks | with_reducible apply keptC_regs |
                 with_reducible exact kept_fst (by assumption) (by assumption))

theorem execAmoAdd_kept {dv : Nat} (h : HewerId) (wide aq rl : Bool) (rd ra rb : RegNo) (s : State) (h_s : Kept dv s) : OutKept dv
    (execAmoAdd h wide aq rl rd ra rb s) := by
  unfold execAmoAdd
  try dsimp only
  repeat' (first | with_reducible assumption | with_reducible apply done_kept | with_reducible apply State.amo_kept | (intro _) | split
                 | dsimp only [StepKept, OutKept, IssueKept, MicroKept, OptKept, done] | simp only [kept_mk_eq] |
                 with_reducible apply keptC_of | with_reducible apply keptC_marks | with_reducible apply keptC_regs |
                 with_reducible exact kept_fst (by assumption) (by assumption))

theorem execAmoSwap_kept {dv : Nat} (h : HewerId) (wide aq rl : Bool) (rd ra rb : RegNo) (s : State) (h_s : Kept dv s) : OutKept dv
    (execAmoSwap h wide aq rl rd ra rb s) := by
  unfold execAmoSwap
  try dsimp only
  repeat' (first | with_reducible assumption | with_reducible apply done_kept | with_reducible apply State.amo_kept | (intro _) | split
                 | dsimp only [StepKept, OutKept, IssueKept, MicroKept, OptKept, done] | simp only [kept_mk_eq] |
                 with_reducible apply keptC_of | with_reducible apply keptC_marks | with_reducible apply keptC_regs |
                 with_reducible exact kept_fst (by assumption) (by assumption))

theorem execAmoAnd_kept {dv : Nat} (h : HewerId) (wide aq rl : Bool) (rd ra rb : RegNo) (s : State) (h_s : Kept dv s) : OutKept dv
    (execAmoAnd h wide aq rl rd ra rb s) := by
  unfold execAmoAnd
  try dsimp only
  repeat' (first | with_reducible assumption | with_reducible apply done_kept | with_reducible apply State.amo_kept | (intro _) | split
                 | dsimp only [StepKept, OutKept, IssueKept, MicroKept, OptKept, done] | simp only [kept_mk_eq] |
                 with_reducible apply keptC_of | with_reducible apply keptC_marks | with_reducible apply keptC_regs |
                 with_reducible exact kept_fst (by assumption) (by assumption))

theorem execAmoOr_kept {dv : Nat} (h : HewerId) (wide aq rl : Bool) (rd ra rb : RegNo) (s : State) (h_s : Kept dv s) : OutKept dv
    (execAmoOr h wide aq rl rd ra rb s) := by
  unfold execAmoOr
  try dsimp only
  repeat' (first | with_reducible assumption | with_reducible apply done_kept | with_reducible apply State.amo_kept | (intro _) | split
                 | dsimp only [StepKept, OutKept, IssueKept, MicroKept, OptKept, done] | simp only [kept_mk_eq] |
                 with_reducible apply keptC_of | with_reducible apply keptC_marks | with_reducible apply keptC_regs |
                 with_reducible exact kept_fst (by assumption) (by assumption))

theorem execAmoMin_kept {dv : Nat} (h : HewerId) (wide aq rl : Bool) (rd ra rb : RegNo) (s : State) (h_s : Kept dv s) : OutKept dv
    (execAmoMin h wide aq rl rd ra rb s) := by
  unfold execAmoMin
  try dsimp only
  repeat' (first | with_reducible assumption | with_reducible apply done_kept | with_reducible apply State.amo_kept | (intro _) | split
                 | dsimp only [StepKept, OutKept, IssueKept, MicroKept, OptKept, done] | simp only [kept_mk_eq] |
                 with_reducible apply keptC_of | with_reducible apply keptC_marks | with_reducible apply keptC_regs |
                 with_reducible exact kept_fst (by assumption) (by assumption))

theorem execAmoMax_kept {dv : Nat} (h : HewerId) (wide aq rl : Bool) (rd ra rb : RegNo) (s : State) (h_s : Kept dv s) : OutKept dv
    (execAmoMax h wide aq rl rd ra rb s) := by
  unfold execAmoMax
  try dsimp only
  repeat' (first | with_reducible assumption | with_reducible apply done_kept | with_reducible apply State.amo_kept | (intro _) | split
                 | dsimp only [StepKept, OutKept, IssueKept, MicroKept, OptKept, done] | simp only [kept_mk_eq] |
                 with_reducible apply keptC_of | with_reducible apply keptC_marks | with_reducible apply keptC_regs |
                 with_reducible exact kept_fst (by assumption) (by assumption))

theorem execAmoMinu_kept {dv : Nat} (h : HewerId) (wide aq rl : Bool) (rd ra rb : RegNo) (s : State) (h_s : Kept dv s) : OutKept dv
    (execAmoMinu h wide aq rl rd ra rb s) := by
  unfold execAmoMinu
  try dsimp only
  repeat' (first | with_reducible assumption | with_reducible apply done_kept | with_reducible apply State.amo_kept | (intro _) | split
                 | dsimp only [StepKept, OutKept, IssueKept, MicroKept, OptKept, done] | simp only [kept_mk_eq] |
                 with_reducible apply keptC_of | with_reducible apply keptC_marks | with_reducible apply keptC_regs |
                 with_reducible exact kept_fst (by assumption) (by assumption))

theorem execAmoMaxu_kept {dv : Nat} (h : HewerId) (wide aq rl : Bool) (rd ra rb : RegNo) (s : State) (h_s : Kept dv s) : OutKept dv
    (execAmoMaxu h wide aq rl rd ra rb s) := by
  unfold execAmoMaxu
  try dsimp only
  repeat' (first | with_reducible assumption | with_reducible apply done_kept | with_reducible apply State.amo_kept | (intro _) | split
                 | dsimp only [StepKept, OutKept, IssueKept, MicroKept, OptKept, done] | simp only [kept_mk_eq] |
                 with_reducible apply keptC_of | with_reducible apply keptC_marks | with_reducible apply keptC_regs |
                 with_reducible exact kept_fst (by assumption) (by assumption))

end Sys2Proof.Machine
end

