-- ==== Sys2Proof/Laws/KeptFloat.lean ====
section
/-! SUPPORT. One lemma per operation: it keeps the memory canonical and the device number: branches, floating point, vectors and customer instructions. -/

namespace Sys2Proof.Machine


theorem State.wrongPath_kept {dv : Nat} (s : State) (h : Nat) (w : Option Nat) (h_s : Kept dv s) : Kept dv (State.wrongPath s h w) := by
  unfold State.wrongPath
  try dsimp only
  repeat' (first | with_reducible assumption | with_reducible apply State.draw_kept | with_reducible apply State.wrongFetch_kept |
                 (intro _) | split | dsimp only [StepKept, OutKept, IssueKept, MicroKept, OptKept, done] | simp only [kept_mk_eq] |
                 with_reducible apply keptC_of | with_reducible apply keptC_marks | with_reducible apply keptC_regs |
                 with_reducible exact kept_fst (by assumption) (by assumption))

theorem State.resolved_kept {dv : Nat} (s : State) (h : Nat) (r : Prediction) (h_s : Kept dv s) : Kept dv (State.resolved s h r) := by
  unfold State.resolved
  try dsimp only
  repeat' (first | with_reducible assumption | with_reducible apply State.modTwin_kept | with_reducible apply State.tally_kept |
                 with_reducible apply State.wrongPath_kept | (intro _) | split |
                 dsimp only [StepKept, OutKept, IssueKept, MicroKept, OptKept, done] | simp only [kept_mk_eq] |
                 with_reducible apply keptC_of | with_reducible apply keptC_marks | with_reducible apply keptC_regs |
                 with_reducible exact kept_fst (by assumption) (by assumption))

theorem State.predicted_kept {dv : Nat} (s : State) (h : Nat) (f : Predictor → Prediction) (k : State → Step) (h_s : Kept dv s) (h_k : ∀
    a0, Kept dv a0 → StepKept dv (k a0)) : StepKept dv (State.predicted s h f k) := by
  unfold State.predicted
  try dsimp only
  repeat' (first | with_reducible assumption | with_reducible apply h_k | with_reducible apply State.resolved_kept | (intro _) | split |
                 dsimp only [StepKept, OutKept, IssueKept, MicroKept, OptKept, done] | simp only [kept_mk_eq] |
                 with_reducible apply keptC_of | with_reducible apply keptC_marks | with_reducible apply keptC_regs |
                 with_reducible exact kept_fst (by assumption) (by assumption))

theorem State.enterUnit_kept {dv : Nat} (s : State) (h : Nat) (next : Word) (push : Option Piece) (rsp : Word) (h_s : Kept dv s) :
    StepKept dv (State.enterUnit s h next push rsp) := by
  unfold State.enterUnit
  try dsimp only
  repeat' (first | with_reducible assumption | with_reducible apply State.modHew_kept | with_reducible apply getD_kept | (intro _) |
                 split | dsimp only [StepKept, OutKept, IssueKept, MicroKept, OptKept, done] | simp only [kept_mk_eq] |
                 with_reducible apply keptC_of | with_reducible apply keptC_marks | with_reducible apply keptC_regs |
                 with_reducible exact kept_fst (by assumption) (by assumption))

theorem execBCond_kept {dv : Nat} (h : HewerId) (a : Bool) (cond : Fin 16) (disp : BitVec 20) (s : State) (h_s : Kept dv s) : OutKept dv
    (execBCond h a cond disp s) := by
  unfold execBCond
  try dsimp only
  repeat' (first | with_reducible assumption | with_reducible apply State.modHew_kept | with_reducible apply done_kept |
                 with_reducible apply State.run_kept | with_reducible apply State.predicted_kept |
                 with_reducible apply State.enterUnit_kept | (intro _) | split |
                 dsimp only [StepKept, OutKept, IssueKept, MicroKept, OptKept, done] | simp only [kept_mk_eq] |
                 with_reducible apply keptC_of | with_reducible apply keptC_marks | with_reducible apply keptC_regs |
                 with_reducible exact kept_fst (by assumption) (by assumption))

theorem execJmp_kept {dv : Nat} (h : HewerId) (a : Bool) (disp : BitVec 24) (s : State) (h_s : Kept dv s) : OutKept dv (execJmp h a disp
    s) := by
  unfold execJmp
  try dsimp only
  repeat' (first | with_reducible assumption | with_reducible apply done_kept | with_reducible apply State.run_kept |
                 with_reducible apply State.predicted_kept | with_reducible apply State.enterUnit_kept | (intro _) | split |
                 dsimp only [StepKept, OutKept, IssueKept, MicroKept, OptKept, done] | simp only [kept_mk_eq] |
                 with_reducible apply keptC_of | with_reducible apply keptC_marks | with_reducible apply keptC_regs |
                 with_reducible exact kept_fst (by assumption) (by assumption))

theorem execJmpr_kept {dv : Nat} (h : HewerId) (a : Bool) (ra : RegNo) (s : State) (h_s : Kept dv s) : OutKept dv (execJmpr h a ra s) :=
    by
  unfold execJmpr
  try dsimp only
  repeat' (first | with_reducible assumption | with_reducible apply done_kept | with_reducible apply State.run_kept |
                 with_reducible apply State.predicted_kept | with_reducible apply State.enterUnit_kept | (intro _) | split |
                 dsimp only [StepKept, OutKept, IssueKept, MicroKept, OptKept, done] | simp only [kept_mk_eq] |
                 with_reducible apply keptC_of | with_reducible apply keptC_marks | with_reducible apply keptC_regs |
                 with_reducible exact kept_fst (by assumption) (by assumption))

theorem State.callStep_kept {dv : Nat} (s : State) (h : Nat) (f : State → Piece → Step) (h_s : Kept dv s) (h_f : ∀ a0 a1, Kept dv a0 →
    StepKept dv (f a0 a1)) : StepKept dv (State.callStep s h f) := by
  unfold State.callStep
  try dsimp only
  repeat' (first | with_reducible assumption | with_reducible apply h_f | with_reducible apply State.withAccess_kept | (intro _) | split
                 | dsimp only [StepKept, OutKept, IssueKept, MicroKept, OptKept, done] | simp only [kept_mk_eq] |
                 with_reducible apply keptC_of | with_reducible apply keptC_marks | with_reducible apply keptC_regs |
                 with_reducible exact kept_fst (by assumption) (by assumption))

theorem execCall_kept {dv : Nat} (h : HewerId) (a : Bool) (disp : BitVec 24) (s : State) (h_s : Kept dv s) : OutKept dv (execCall h a
    disp s) := by
  unfold execCall
  try dsimp only
  repeat' (first | with_reducible assumption | with_reducible apply done_kept | with_reducible apply State.run_kept |
                 with_reducible apply State.predicted_kept | with_reducible apply State.enterUnit_kept |
                 with_reducible apply State.callStep_kept | (intro _) | split |
                 dsimp only [StepKept, OutKept, IssueKept, MicroKept, OptKept, done] | simp only [kept_mk_eq] |
                 with_reducible apply keptC_of | with_reducible apply keptC_marks | with_reducible apply keptC_regs |
                 with_reducible exact kept_fst (by assumption) (by assumption))

theorem execCallr_kept {dv : Nat} (h : HewerId) (a : Bool) (ra : RegNo) (s : State) (h_s : Kept dv s) : OutKept dv (execCallr h a ra s)
    := by
  unfold execCallr
  try dsimp only
  repeat' (first | with_reducible assumption | with_reducible apply done_kept | with_reducible apply State.run_kept |
                 with_reducible apply State.predicted_kept | with_reducible apply State.enterUnit_kept |
                 with_reducible apply State.callStep_kept | (intro _) | split |
                 dsimp only [StepKept, OutKept, IssueKept, MicroKept, OptKept, done] | simp only [kept_mk_eq] |
                 with_reducible apply keptC_of | with_reducible apply keptC_marks | with_reducible apply keptC_regs |
                 with_reducible exact kept_fst (by assumption) (by assumption))

theorem execRet_kept {dv : Nat} (h : HewerId) (a : Bool) (s : State) (h_s : Kept dv s) : OutKept dv (execRet h a s) := by
  unfold execRet
  try dsimp only
  repeat' (first | with_reducible assumption | with_reducible apply done_kept | with_reducible apply State.run_kept |
                 with_reducible apply State.withAccess_kept | with_reducible apply State.readNow_kept |
                 with_reducible apply State.predicted_kept | with_reducible apply State.enterUnit_kept | (intro _) | split |
                 dsimp only [StepKept, OutKept, IssueKept, MicroKept, OptKept, done] | simp only [kept_mk_eq] |
                 with_reducible apply keptC_of | with_reducible apply keptC_marks | with_reducible apply keptC_regs |
                 with_reducible exact kept_fst (by assumption) (by assumption))

theorem execRep_kept {dv : Nat} (h : HewerId) (next : Word32) (s : State) (h_s : Kept dv s) : OutKept dv (execRep h next s) := by
  unfold execRep
  try dsimp only
  repeat' (first | with_reducible assumption | with_reducible apply State.modHew_kept | with_reducible apply done_kept |
                 with_reducible apply State.fetchAt_kept | with_reducible apply State.run_kept | (intro _) | split |
                 dsimp only [StepKept, OutKept, IssueKept, MicroKept, OptKept, done] | simp only [kept_mk_eq] |
                 with_reducible apply keptC_of | with_reducible apply keptC_marks | with_reducible apply keptC_regs |
                 with_reducible exact kept_fst (by assumption) (by assumption))

theorem State.fpFlags_kept {dv : Nat} (s : State) (h flags : Nat) (f : Hewer → Hewer) (h_s : Kept dv s) : StepKept dv (State.fpFlags s h
    flags f) := by
  unfold State.fpFlags
  try dsimp only
  repeat' (first | with_reducible assumption | with_reducible apply State.setHew_kept | with_reducible apply State.modHew_kept |
                 (intro _) | split | dsimp only [StepKept, OutKept, IssueKept, MicroKept, OptKept, done] | simp only [kept_mk_eq] |
                 with_reducible apply keptC_of | with_reducible apply keptC_marks | with_reducible apply keptC_regs |
                 with_reducible exact kept_fst (by assumption) (by assumption))

theorem State.fpLanes_kept {dv : Nat} (s : State) (h vd : Nat) (f : FpForm) (op : Nat → FpRes) (h_s : Kept dv s) : StepKept dv
    (State.fpLanes s h vd f op) := by
  unfold State.fpLanes
  try dsimp only
  repeat' (first | with_reducible assumption | with_reducible apply State.fpFlags_kept | (intro _) | split |
                 dsimp only [StepKept, OutKept, IssueKept, MicroKept, OptKept, done] | simp only [kept_mk_eq] |
                 with_reducible apply keptC_of | with_reducible apply keptC_marks | with_reducible apply keptC_regs |
                 with_reducible exact kept_fst (by assumption) (by assumption))

theorem State.fp2_kept {dv : Nat} (s : State) (h func : Nat) (f : FpForm) (vd va vb : Nat) (op : FpFmt → RoundMode → Nat → Nat → FpRes)
    (h_s : Kept dv s) : Kept dv (State.fp2 s h func f vd va vb op) := by
  unfold State.fp2
  try dsimp only
  repeat' (first | with_reducible assumption | with_reducible apply State.runAs_kept | with_reducible apply State.fpLanes_kept |
                 (intro _) | split | dsimp only [StepKept, OutKept, IssueKept, MicroKept, OptKept, done] | simp only [kept_mk_eq] |
                 with_reducible apply keptC_of | with_reducible apply keptC_marks | with_reducible apply keptC_regs |
                 with_reducible exact kept_fst (by assumption) (by assumption))

theorem State.fp1_kept {dv : Nat} (s : State) (h func : Nat) (f : FpForm) (vd va : Nat) (op : FpFmt → RoundMode → Nat → FpRes) (h_s :
    Kept dv s) : Kept dv (State.fp1 s h func f vd va op) := by
  unfold State.fp1
  try dsimp only
  repeat' (first | with_reducible assumption | with_reducible apply State.runAs_kept | with_reducible apply State.fpLanes_kept |
                 (intro _) | split | dsimp only [StepKept, OutKept, IssueKept, MicroKept, OptKept, done] | simp only [kept_mk_eq] |
                 with_reducible apply keptC_of | with_reducible apply keptC_marks | with_reducible apply keptC_regs |
                 with_reducible exact kept_fst (by assumption) (by assumption))

theorem State.fpFused_kept {dv : Nat} (s : State) (h op : Nat) (f : FpForm) (vd va vb vc : Nat) (negProduct negAddend : Bool) (h_s :
    Kept dv s) : Kept dv (State.fpFused s h op f vd va vb vc negProduct negAddend) := by
  unfold State.fpFused
  try dsimp only
  repeat' (first | with_reducible assumption | with_reducible apply State.run_kept | with_reducible apply State.fpLanes_kept | (intro _)
                 | split | dsimp only [StepKept, OutKept, IssueKept, MicroKept, OptKept, done] | simp only [kept_mk_eq] |
                 with_reducible apply keptC_of | with_reducible apply keptC_marks | with_reducible apply keptC_regs |
                 with_reducible exact kept_fst (by assumption) (by assumption))

theorem execFadd_kept {dv : Nat} (h : HewerId) (f : FpForm) (vd va vb : RegNo) (s : State) (h_s : Kept dv s) : OutKept dv (execFadd h f
    vd va vb s) := by
  unfold execFadd
  try dsimp only
  repeat' (first | with_reducible assumption | with_reducible apply done_kept | with_reducible apply State.fp2_kept | (intro _) | split
                 | dsimp only [StepKept, OutKept, IssueKept, MicroKept, OptKept, done] | simp only [kept_mk_eq] |
                 with_reducible apply keptC_of | with_reducible apply keptC_marks | with_reducible apply keptC_regs |
                 with_reducible exact kept_fst (by assumption) (by assumption))

theorem execFsub_kept {dv : Nat} (h : HewerId) (f : FpForm) (vd va vb : RegNo) (s : State) (h_s : Kept dv s) : OutKept dv (execFsub h f
    vd va vb s) := by
  unfold execFsub
  try dsimp only
  repeat' (first | with_reducible assumption | with_reducible apply done_kept | with_reducible apply State.fp2_kept | (intro _) | split
                 | dsimp only [StepKept, OutKept, IssueKept, MicroKept, OptKept, done] | simp only [kept_mk_eq] |
                 with_reducible apply keptC_of | with_reducible apply keptC_marks | with_reducible apply keptC_regs |
                 with_reducible exact kept_fst (by assumption) (by assumption))

theorem execFmul_kept {dv : Nat} (h : HewerId) (f : FpForm) (vd va vb : RegNo) (s : State) (h_s : Kept dv s) : OutKept dv (execFmul h f
    vd va vb s) := by
  unfold execFmul
  try dsimp only
  repeat' (first | with_reducible assumption | with_reducible apply done_kept | with_reducible apply State.fp2_kept | (intro _) | split
                 | dsimp only [StepKept, OutKept, IssueKept, MicroKept, OptKept, done] | simp only [kept_mk_eq] |
                 with_reducible apply keptC_of | with_reducible apply keptC_marks | with_reducible apply keptC_regs |
                 with_reducible exact kept_fst (by assumption) (by assumption))

theorem execFdiv_kept {dv : Nat} (h : HewerId) (f : FpForm) (vd va vb : RegNo) (s : State) (h_s : Kept dv s) : OutKept dv (execFdiv h f
    vd va vb s) := by
  unfold execFdiv
  try dsimp only
  repeat' (first | with_reducible assumption | with_reducible apply done_kept | with_reducible apply State.fp2_kept | (intro _) | split
                 | dsimp only [StepKept, OutKept, IssueKept, MicroKept, OptKept, done] | simp only [kept_mk_eq] |
                 with_reducible apply keptC_of | with_reducible apply keptC_marks | with_reducible apply keptC_regs |
                 with_reducible exact kept_fst (by assumption) (by assumption))

theorem execFsqrt_kept {dv : Nat} (h : HewerId) (f : FpForm) (vd va : RegNo) (s : State) (h_s : Kept dv s) : OutKept dv (execFsqrt h f
    vd va s) := by
  unfold execFsqrt
  try dsimp only
  repeat' (first | with_reducible assumption | with_reducible apply done_kept | with_reducible apply State.fp1_kept | (intro _) | split
                 | dsimp only [StepKept, OutKept, IssueKept, MicroKept, OptKept, done] | simp only [kept_mk_eq] |
                 with_reducible apply keptC_of | with_reducible apply keptC_marks | with_reducible apply keptC_regs |
                 with_reducible exact kept_fst (by assumption) (by assumption))

theorem execFmin_kept {dv : Nat} (h : HewerId) (f : FpForm) (vd va vb : RegNo) (s : State) (h_s : Kept dv s) : OutKept dv (execFmin h f
    vd va vb s) := by
  unfold execFmin
  try dsimp only
  repeat' (first | with_reducible assumption | with_reducible apply done_kept | with_reducible apply State.fp2_kept | (intro _) | split
                 | dsimp only [StepKept, OutKept, IssueKept, MicroKept, OptKept, done] | simp only [kept_mk_eq] |
                 with_reducible apply keptC_of | with_reducible apply keptC_marks | with_reducible apply keptC_regs |
                 with_reducible exact kept_fst (by assumption) (by assumption))

theorem execFmax_kept {dv : Nat} (h : HewerId) (f : FpForm) (vd va vb : RegNo) (s : State) (h_s : Kept dv s) : OutKept dv (execFmax h f
    vd va vb s) := by
  unfold execFmax
  try dsimp only
  repeat' (first | with_reducible assumption | with_reducible apply done_kept | with_reducible apply State.fp2_kept | (intro _) | split
                 | dsimp only [StepKept, OutKept, IssueKept, MicroKept, OptKept, done] | simp only [kept_mk_eq] |
                 with_reducible apply keptC_of | with_reducible apply keptC_marks | with_reducible apply keptC_regs |
                 with_reducible exact kept_fst (by assumption) (by assumption))

theorem execFabs_kept {dv : Nat} (h : HewerId) (f : FpForm) (vd va : RegNo) (s : State) (h_s : Kept dv s) : OutKept dv (execFabs h f vd
    va s) := by
  unfold execFabs
  try dsimp only
  repeat' (first | with_reducible assumption | with_reducible apply done_kept | with_reducible apply State.fp1_kept | (intro _) | split
                 | dsimp only [StepKept, OutKept, IssueKept, MicroKept, OptKept, done] | simp only [kept_mk_eq] |
                 with_reducible apply keptC_of | with_reducible apply keptC_marks | with_reducible apply keptC_regs |
                 with_reducible exact kept_fst (by assumption) (by assumption))

theorem execFneg_kept {dv : Nat} (h : HewerId) (f : FpForm) (vd va : RegNo) (s : State) (h_s : Kept dv s) : OutKept dv (execFneg h f vd
    va s) := by
  unfold execFneg
  try dsimp only
  repeat' (first | with_reducible assumption | with_reducible apply done_kept | with_reducible apply State.fp1_kept | (intro _) | split
                 | dsimp only [StepKept, OutKept, IssueKept, MicroKept, OptKept, done] | simp only [kept_mk_eq] |
                 with_reducible apply keptC_of | with_reducible apply keptC_marks | with_reducible apply keptC_regs |
                 with_reducible exact kept_fst (by assumption) (by assumption))

theorem execFmadd_kept {dv : Nat} (h : HewerId) (f : FpForm) (vd va vb vc : RegNo) (s : State) (h_s : Kept dv s) : OutKept dv (execFmadd
    h f vd va vb vc s) := by
  unfold execFmadd
  try dsimp only
  repeat' (first | with_reducible assumption | with_reducible apply done_kept | with_reducible apply State.fpFused_kept | (intro _) |
                 split | dsimp only [StepKept, OutKept, IssueKept, MicroKept, OptKept, done] | simp only [kept_mk_eq] |
                 with_reducible apply keptC_of | with_reducible apply keptC_marks | with_reducible apply keptC_regs |
                 with_reducible exact kept_fst (by assumption) (by assumption))

theorem execFmsub_kept {dv : Nat} (h : HewerId) (f : FpForm) (vd va vb vc : RegNo) (s : State) (h_s : Kept dv s) : OutKept dv (execFmsub
    h f vd va vb vc s) := by
  unfold execFmsub
  try dsimp only
  repeat' (first | with_reducible assumption | with_reducible apply done_kept | with_reducible apply State.fpFused_kept | (intro _) |
                 split | dsimp only [StepKept, OutKept, IssueKept, MicroKept, OptKept, done] | simp only [kept_mk_eq] |
                 with_reducible apply keptC_of | with_reducible apply keptC_marks | with_reducible apply keptC_regs |
                 with_reducible exact kept_fst (by assumption) (by assumption))

theorem execFnmsub_kept {dv : Nat} (h : HewerId) (f : FpForm) (vd va vb vc : RegNo) (s : State) (h_s : Kept dv s) : OutKept dv
    (execFnmsub h f vd va vb vc s) := by
  unfold execFnmsub
  try dsimp only
  repeat' (first | with_reducible assumption | with_reducible apply done_kept | with_reducible apply State.fpFused_kept | (intro _) |
                 split | dsimp only [StepKept, OutKept, IssueKept, MicroKept, OptKept, done] | simp only [kept_mk_eq] |
                 with_reducible apply keptC_of | with_reducible apply keptC_marks | with_reducible apply keptC_regs |
                 with_reducible exact kept_fst (by assumption) (by assumption))

theorem execFnmadd_kept {dv : Nat} (h : HewerId) (f : FpForm) (vd va vb vc : RegNo) (s : State) (h_s : Kept dv s) : OutKept dv
    (execFnmadd h f vd va vb vc s) := by
  unfold execFnmadd
  try dsimp only
  repeat' (first | with_reducible assumption | with_reducible apply done_kept | with_reducible apply State.fpFused_kept | (intro _) |
                 split | dsimp only [StepKept, OutKept, IssueKept, MicroKept, OptKept, done] | simp only [kept_mk_eq] |
                 with_reducible apply keptC_of | with_reducible apply keptC_marks | with_reducible apply keptC_regs |
                 with_reducible exact kept_fst (by assumption) (by assumption))

theorem State.fpCmp_kept {dv : Nat} (s : State) (h func : Nat) (single signalling : Bool) (va vb : Nat) (h_s : Kept dv s) : Kept dv
    (State.fpCmp s h func single signalling va vb) := by
  unfold State.fpCmp
  try dsimp only
  repeat' (first | with_reducible assumption | with_reducible apply State.run_kept | with_reducible apply State.fpFlags_kept | (intro _)
                 | split | dsimp only [StepKept, OutKept, IssueKept, MicroKept, OptKept, done] | simp only [kept_mk_eq] |
                 with_reducible apply keptC_of | with_reducible apply keptC_marks | with_reducible apply keptC_regs |
                 with_reducible exact kept_fst (by assumption) (by assumption))

theorem execFcmp_kept {dv : Nat} (h : HewerId) (single : Bool) (va vb : RegNo) (s : State) (h_s : Kept dv s) : OutKept dv (execFcmp h
    single va vb s) := by
  unfold execFcmp
  try dsimp only
  repeat' (first | with_reducible assumption | with_reducible apply done_kept | with_reducible apply State.fpCmp_kept | (intro _) |
                 split | dsimp only [StepKept, OutKept, IssueKept, MicroKept, OptKept, done] | simp only [kept_mk_eq] |
                 with_reducible apply keptC_of | with_reducible apply keptC_marks | with_reducible apply keptC_regs |
                 with_reducible exact kept_fst (by assumption) (by assumption))

theorem execFcmpe_kept {dv : Nat} (h : HewerId) (single : Bool) (va vb : RegNo) (s : State) (h_s : Kept dv s) : OutKept dv (execFcmpe h
    single va vb s) := by
  unfold execFcmpe
  try dsimp only
  repeat' (first | with_reducible assumption | with_reducible apply done_kept | with_reducible apply State.fpCmp_kept | (intro _) |
                 split | dsimp only [StepKept, OutKept, IssueKept, MicroKept, OptKept, done] | simp only [kept_mk_eq] |
                 with_reducible apply keptC_of | with_reducible apply keptC_marks | with_reducible apply keptC_regs |
                 with_reducible exact kept_fst (by assumption) (by assumption))

theorem State.fpToW_kept {dv : Nat} (s : State) (h func : Nat) (single isSigned : Bool) (wd va : Nat) (h_s : Kept dv s) : Kept dv
    (State.fpToW s h func single isSigned wd va) := by
  unfold State.fpToW
  try dsimp only
  repeat' (first | with_reducible assumption | with_reducible apply State.run_kept | with_reducible apply State.fpFlags_kept | (intro _)
                 | split | dsimp only [StepKept, OutKept, IssueKept, MicroKept, OptKept, done] | simp only [kept_mk_eq] |
                 with_reducible apply keptC_of | with_reducible apply keptC_marks | with_reducible apply keptC_regs |
                 with_reducible exact kept_fst (by assumption) (by assumption))

theorem execFcvtI_kept {dv : Nat} (h : HewerId) (single : Bool) (wd va : RegNo) (s : State) (h_s : Kept dv s) : OutKept dv (execFcvtI h
    single wd va s) := by
  unfold execFcvtI
  try dsimp only
  repeat' (first | with_reducible assumption | with_reducible apply done_kept | with_reducible apply State.fpToW_kept | (intro _) |
                 split | dsimp only [StepKept, OutKept, IssueKept, MicroKept, OptKept, done] | simp only [kept_mk_eq] |
                 with_reducible apply keptC_of | with_reducible apply keptC_marks | with_reducible apply keptC_regs |
                 with_reducible exact kept_fst (by assumption) (by assumption))

theorem execFcvtU_kept {dv : Nat} (h : HewerId) (single : Bool) (wd va : RegNo) (s : State) (h_s : Kept dv s) : OutKept dv (execFcvtU h
    single wd va s) := by
  unfold execFcvtU
  try dsimp only
  repeat' (first | with_reducible assumption | with_reducible apply done_kept | with_reducible apply State.fpToW_kept | (intro _) |
                 split | dsimp only [StepKept, OutKept, IssueKept, MicroKept, OptKept, done] | simp only [kept_mk_eq] |
                 with_reducible apply keptC_of | with_reducible apply keptC_marks | with_reducible apply keptC_regs |
                 with_reducible exact kept_fst (by assumption) (by assumption))

theorem State.wToFp_kept {dv : Nat} (s : State) (h func : Nat) (single : Bool) (vd wa : Nat) (val : Word → Int) (h_s : Kept dv s) : Kept
    dv (State.wToFp s h func single vd wa val) := by
  unfold State.wToFp
  try dsimp only
  repeat' (first | with_reducible assumption | with_reducible apply State.run_kept | with_reducible apply State.fpLanes_kept | (intro _)
                 | split | dsimp only [StepKept, OutKept, IssueKept, MicroKept, OptKept, done] | simp only [kept_mk_eq] |
                 with_reducible apply keptC_of | with_reducible apply keptC_marks | with_reducible apply keptC_regs |
                 with_reducible exact kept_fst (by assumption) (by assumption))

theorem execIcvt_kept {dv : Nat} (h : HewerId) (single : Bool) (vd wa : RegNo) (s : State) (h_s : Kept dv s) : OutKept dv (execIcvt h
    single vd wa s) := by
  unfold execIcvt
  try dsimp only
  repeat' (first | with_reducible assumption | with_reducible apply done_kept | with_reducible apply State.wToFp_kept | (intro _) |
                 split | dsimp only [StepKept, OutKept, IssueKept, MicroKept, OptKept, done] | simp only [kept_mk_eq] |
                 with_reducible apply keptC_of | with_reducible apply keptC_marks | with_reducible apply keptC_regs |
                 with_reducible exact kept_fst (by assumption) (by assumption))

theorem execUcvt_kept {dv : Nat} (h : HewerId) (single : Bool) (vd wa : RegNo) (s : State) (h_s : Kept dv s) : OutKept dv (execUcvt h
    single vd wa s) := by
  unfold execUcvt
  try dsimp only
  repeat' (first | with_reducible assumption | with_reducible apply done_kept | with_reducible apply State.wToFp_kept | (intro _) |
                 split | dsimp only [StepKept, OutKept, IssueKept, MicroKept, OptKept, done] | simp only [kept_mk_eq] |
                 with_reducible apply keptC_of | with_reducible apply keptC_marks | with_reducible apply keptC_regs |
                 with_reducible exact kept_fst (by assumption) (by assumption))

theorem execFcvtSd_kept {dv : Nat} (h : HewerId) (vd va : RegNo) (s : State) (h_s : Kept dv s) : OutKept dv (execFcvtSd h vd va s) := by
  unfold execFcvtSd
  try dsimp only
  repeat' (first | with_reducible assumption | with_reducible apply done_kept | with_reducible apply State.run_kept |
                 with_reducible apply State.fpLanes_kept | (intro _) | split |
                 dsimp only [StepKept, OutKept, IssueKept, MicroKept, OptKept, done] | simp only [kept_mk_eq] |
                 with_reducible apply keptC_of | with_reducible apply keptC_marks | with_reducible apply keptC_regs |
                 with_reducible exact kept_fst (by assumption) (by assumption))

theorem execFcvtDs_kept {dv : Nat} (h : HewerId) (vd va : RegNo) (s : State) (h_s : Kept dv s) : OutKept dv (execFcvtDs h vd va s) := by
  unfold execFcvtDs
  try dsimp only
  repeat' (first | with_reducible assumption | with_reducible apply done_kept | with_reducible apply State.run_kept |
                 with_reducible apply State.fpLanes_kept | (intro _) | split |
                 dsimp only [StepKept, OutKept, IssueKept, MicroKept, OptKept, done] | simp only [kept_mk_eq] |
                 with_reducible apply keptC_of | with_reducible apply keptC_marks | with_reducible apply keptC_regs |
                 with_reducible exact kept_fst (by assumption) (by assumption))

theorem execVmovWv_kept {dv : Nat} (h : HewerId) (small : Bool) (lane : Fin 4) (vd wa : RegNo) (s : State) (h_s : Kept dv s) : OutKept
    dv (execVmovWv h small lane vd wa s) := by
  unfold execVmovWv
  try dsimp only
  repeat' (first | with_reducible assumption | with_reducible apply State.modHew_kept | with_reducible apply done_kept |
                 with_reducible apply State.run_kept | (intro _) | split |
                 dsimp only [StepKept, OutKept, IssueKept, MicroKept, OptKept, done] | simp only [kept_mk_eq] |
                 with_reducible apply keptC_of | with_reducible apply keptC_marks | with_reducible apply keptC_regs |
                 with_reducible exact kept_fst (by assumption) (by assumption))

theorem execVmovVw_kept {dv : Nat} (h : HewerId) (small : Bool) (lane : Fin 4) (wd va : RegNo) (s : State) (h_s : Kept dv s) : OutKept
    dv (execVmovVw h small lane wd va s) := by
  unfold execVmovVw
  try dsimp only
  repeat' (first | with_reducible assumption | with_reducible apply State.modHew_kept | with_reducible apply done_kept |
                 with_reducible apply State.run_kept | (intro _) | split |
                 dsimp only [StepKept, OutKept, IssueKept, MicroKept, OptKept, done] | simp only [kept_mk_eq] |
                 with_reducible apply keptC_of | with_reducible apply keptC_marks | with_reducible apply keptC_regs |
                 with_reducible exact kept_fst (by assumption) (by assumption))

theorem State.vecInt_kept {dv : Nat} (s : State) (h func : Nat) (small : Bool) (vd va vb : Nat) (op : Nat → Nat → Nat → Nat) (h_s : Kept
    dv s) : Kept dv (State.vecInt s h func small vd va vb op) := by
  unfold State.vecInt
  try dsimp only
  repeat' (first | with_reducible assumption | with_reducible apply State.modHew_kept | with_reducible apply State.run_kept | (intro _)
                 | split | dsimp only [StepKept, OutKept, IssueKept, MicroKept, OptKept, done] | simp only [kept_mk_eq] |
                 with_reducible apply keptC_of | with_reducible apply keptC_marks | with_reducible apply keptC_regs |
                 with_reducible exact kept_fst (by assumption) (by assumption))

theorem execVadd_kept {dv : Nat} (h : HewerId) (small : Bool) (vd va vb : RegNo) (s : State) (h_s : Kept dv s) : OutKept dv (execVadd h
    small vd va vb s) := by
  unfold execVadd
  try dsimp only
  repeat' (first | with_reducible assumption | with_reducible apply done_kept | with_reducible apply State.vecInt_kept | (intro _) |
                 split | dsimp only [StepKept, OutKept, IssueKept, MicroKept, OptKept, done] | simp only [kept_mk_eq] |
                 with_reducible apply keptC_of | with_reducible apply keptC_marks | with_reducible apply keptC_regs |
                 with_reducible exact kept_fst (by assumption) (by assumption))

theorem execVsub_kept {dv : Nat} (h : HewerId) (small : Bool) (vd va vb : RegNo) (s : State) (h_s : Kept dv s) : OutKept dv (execVsub h
    small vd va vb s) := by
  unfold execVsub
  try dsimp only
  repeat' (first | with_reducible assumption | with_reducible apply done_kept | with_reducible apply State.vecInt_kept | (intro _) |
                 split | dsimp only [StepKept, OutKept, IssueKept, MicroKept, OptKept, done] | simp only [kept_mk_eq] |
                 with_reducible apply keptC_of | with_reducible apply keptC_marks | with_reducible apply keptC_regs |
                 with_reducible exact kept_fst (by assumption) (by assumption))

theorem execVand_kept {dv : Nat} (h : HewerId) (small : Bool) (vd va vb : RegNo) (s : State) (h_s : Kept dv s) : OutKept dv (execVand h
    small vd va vb s) := by
  unfold execVand
  try dsimp only
  repeat' (first | with_reducible assumption | with_reducible apply done_kept | with_reducible apply State.vecInt_kept | (intro _) |
                 split | dsimp only [StepKept, OutKept, IssueKept, MicroKept, OptKept, done] | simp only [kept_mk_eq] |
                 with_reducible apply keptC_of | with_reducible apply keptC_marks | with_reducible apply keptC_regs |
                 with_reducible exact kept_fst (by assumption) (by assumption))

theorem execVor_kept {dv : Nat} (h : HewerId) (small : Bool) (vd va vb : RegNo) (s : State) (h_s : Kept dv s) : OutKept dv (execVor h
    small vd va vb s) := by
  unfold execVor
  try dsimp only
  repeat' (first | with_reducible assumption | with_reducible apply done_kept | with_reducible apply State.vecInt_kept | (intro _) |
                 split | dsimp only [StepKept, OutKept, IssueKept, MicroKept, OptKept, done] | simp only [kept_mk_eq] |
                 with_reducible apply keptC_of | with_reducible apply keptC_marks | with_reducible apply keptC_regs |
                 with_reducible exact kept_fst (by assumption) (by assumption))

theorem execVxor_kept {dv : Nat} (h : HewerId) (small : Bool) (vd va vb : RegNo) (s : State) (h_s : Kept dv s) : OutKept dv (execVxor h
    small vd va vb s) := by
  unfold execVxor
  try dsimp only
  repeat' (first | with_reducible assumption | with_reducible apply done_kept | with_reducible apply State.vecInt_kept | (intro _) |
                 split | dsimp only [StepKept, OutKept, IssueKept, MicroKept, OptKept, done] | simp only [kept_mk_eq] |
                 with_reducible apply keptC_of | with_reducible apply keptC_marks | with_reducible apply keptC_regs |
                 with_reducible exact kept_fst (by assumption) (by assumption))

theorem State.cdtEntry_kept {dv : Nat} (s : State) (h n : Nat) (h_s : Kept dv s) : Kept dv (State.cdtEntry s h n).1 := by
  unfold State.cdtEntry
  try dsimp only
  repeat' (first | with_reducible assumption | (intro _) | split | dsimp only [StepKept, OutKept, IssueKept, MicroKept, OptKept, done] |
                 simp only [kept_mk_eq] | with_reducible apply keptC_of | with_reducible apply keptC_marks |
                 with_reducible apply keptC_regs | with_reducible exact kept_fst (by assumption) (by assumption))

theorem State.microFp_kept {dv : Nat} (s : State) (h : Nat) (m : Micro) (flags : Nat) (h_s : Kept dv s) : MicroKept dv (State.microFp s
    h m flags) := by
  unfold State.microFp
  try dsimp only
  repeat' (first | with_reducible assumption | (intro _) | split | dsimp only [StepKept, OutKept, IssueKept, MicroKept, OptKept, done] |
                 simp only [kept_mk_eq] | with_reducible apply keptC_of | with_reducible apply keptC_marks |
                 with_reducible apply keptC_regs | with_reducible exact kept_fst (by assumption) (by assumption))

theorem State.microFree_kept {dv : Nat} (s : State) (m : Micro) (u dst : Nat) (h_s : Kept dv s) : MicroKept dv (State.microFree s m u
    dst) := by
  unfold State.microFree
  try dsimp only
  repeat' (first | with_reducible assumption | with_reducible apply State.draw_kept | (intro _) | split |
                 dsimp only [StepKept, OutKept, IssueKept, MicroKept, OptKept, done] | simp only [kept_mk_eq] |
                 with_reducible apply keptC_of | with_reducible apply keptC_marks | with_reducible apply keptC_regs |
                 with_reducible exact kept_fst (by assumption) (by assumption))

theorem State.microAlu_kept {dv : Nat} (s : State) (h : Nat) (m : Micro) (u w dst cond a b c : Nat) (h_s : Kept dv s) : MicroKept dv
    (State.microAlu s h m u w dst cond a b c) := by
  unfold State.microAlu
  try dsimp only
  repeat' (first | with_reducible assumption | with_reducible apply State.microFp_kept | with_reducible apply State.microFree_kept |
                 (intro _) | split | dsimp only [StepKept, OutKept, IssueKept, MicroKept, OptKept, done] | simp only [kept_mk_eq] |
                 with_reducible apply keptC_of | with_reducible apply keptC_marks | with_reducible apply keptC_regs |
                 with_reducible exact kept_fst (by assumption) (by assumption))

theorem State.microAccess_kept {dv : Nat} (s : State) (h : Nat) (k : AccKind) (m : Micro) (ea n : Nat) (items : List CmpItem) (f : State
    → List Piece → MicroStep) (h_s : Kept dv s) (h_f : ∀ a0 a1, Kept dv a0 → MicroKept dv (f a0 a1)) : MicroKept dv (State.microAccess s
    h k m ea n items f) := by
  unfold State.microAccess
  try dsimp only
  repeat' (first | with_reducible assumption | with_reducible apply h_f | with_reducible apply State.modHew_kept |
                 with_reducible apply State.access_kept | with_reducible apply State.cmpPoint_kept | (intro _) | split |
                 dsimp only [StepKept, OutKept, IssueKept, MicroKept, OptKept, done] | simp only [kept_mk_eq] |
                 with_reducible apply keptC_of | with_reducible apply keptC_marks | with_reducible apply keptC_regs |
                 with_reducible exact kept_fst (by assumption) (by assumption))

theorem State.microMem_kept {dv : Nat} (s : State) (h : Nat) (m : Micro) (mem : Bool) (u w dst addr a b imm : Nat) (h_s : Kept dv s) :
    MicroKept dv (State.microMem s h m mem u w dst addr a b imm) := by
  unfold State.microMem
  try dsimp only
  repeat' (first | with_reducible assumption | with_reducible apply State.loadPieces_kept | with_reducible apply State.microAccess_kept
                 | (intro _) | split | dsimp only [StepKept, OutKept, IssueKept, MicroKept, OptKept, done] | simp only [kept_mk_eq] |
                 with_reducible apply keptC_of | with_reducible apply keptC_marks | with_reducible apply keptC_regs |
                 with_reducible exact kept_fst (by assumption) (by assumption))

theorem State.microWord_kept {dv : Nat} (s : State) (h : Nat) (m : Micro) (e addr left v : Nat) (h_s : Kept dv s) : MicroKept dv
    (State.microWord s h m e addr left v) := by
  unfold State.microWord
  try dsimp only
  repeat' (first | with_reducible assumption | with_reducible apply State.microAlu_kept | with_reducible apply State.microMem_kept |
                 with_reducible apply getD_kept | (intro _) | split |
                 dsimp only [StepKept, OutKept, IssueKept, MicroKept, OptKept, done] | simp only [kept_mk_eq] |
                 with_reducible apply keptC_of | with_reducible apply keptC_marks | with_reducible apply keptC_regs |
                 with_reducible exact kept_fst (by assumption) (by assumption))

theorem MicroStep.andThen_kept {dv : Nat} (r : MicroStep) (f : State → Micro → Nat → MicroStep) (h_r : MicroKept dv r)
    (h_f : ∀ t m k, Kept dv t → MicroKept dv (f t m k)) : MicroKept dv (MicroStep.andThen r f) := by
  cases r with
  | next t m k => exact h_f _ _ _ h_r
  | exc t m e => exact h_r
  | held t m => exact h_r
  | stopped t => exact h_r

theorem State.microRun_kept {dv : Nat} (s : State) (h : Nat) (m : Micro) (n addr skip : Nat) (h_s : Kept dv s) :
    MicroKept dv (State.microRun s h m n addr skip) := by
  induction n generalizing s m addr skip with
  | zero => exact h_s
  | succ k ih =>
    unfold State.microRun
    split
    · exact ih _ _ _ _ h_s
    · exact MicroStep.andThen_kept _ _ (State.microWord_kept _ _ _ _ _ _ _ (State.cdtDrift_kept _ _ h_s)) (fun _ _ _ ht => ih _ _ _ _ ht)

theorem State.microStores_kept {dv : Nat} (s : State) (h : Nat) (l : List (List Piece × List Byte)) (h_s : Kept dv s) : Kept dv
    (State.microStores s h l) := by
  fun_induction State.microStores s h l
  all_goals (repeat' (first | with_reducible assumption | (rename_i ih; with_reducible apply ih) | with_reducible apply State.storePieces_kept |
                            (intro _) | split | dsimp only [StepKept, OutKept, IssueKept, MicroKept, OptKept, done] |
                            simp only [kept_mk_eq] | with_reducible apply keptC_of | with_reducible apply keptC_marks |
                            with_reducible apply keptC_regs | with_reducible exact kept_fst (by assumption) (by assumption)))
  all_goals first | done | simp_all

theorem State.customStep_kept {dv : Nat} (s : State) (h : Nat) (m : Micro) (rd : Nat) (h_s : Kept dv s) :
    StepKept dv (State.customStep s h m rd) := by
  have hr := State.microRun_kept (dv := dv) s h m m.left m.addr 0 h_s
  unfold State.customStep
  split <;> rename_i e <;> rw [e] at hr
  · exact State.modHew_kept _ _ _ hr
  · exact hr
  · dsimp only [StepKept]
    split
    · exact State.modHew_kept _ _ _ hr
    · exact hr
  · exact State.modHew_kept _ _ _ (State.microStores_kept _ _ _ hr)

theorem State.customDecode_kept {dv : Nat} (s : State) (h word index : Nat) (h_s : Kept dv s) : Kept dv (State.customDecode s h word
    index).1 := by
  unfold State.customDecode
  try dsimp only
  repeat' (first | with_reducible assumption | with_reducible apply State.cdtDrift_kept | with_reducible apply State.cdtEntry_kept |
                 (intro _) | split | dsimp only [StepKept, OutKept, IssueKept, MicroKept, OptKept, done] | simp only [kept_mk_eq] |
                 with_reducible apply keptC_of | with_reducible apply keptC_marks | with_reducible apply keptC_regs |
                 with_reducible exact kept_fst (by assumption) (by assumption))

theorem execCustomerInstruction_kept {dv : Nat} (h : HewerId) (index : Fin 64) (rd ra rb : RegNo) (func : Fin 64) (s : State) (h_s :
    Kept dv s) : OutKept dv (execCustomerInstruction h index rd ra rb func s) := by
  unfold execCustomerInstruction
  try dsimp only
  repeat' (first | with_reducible assumption | with_reducible apply done_kept | with_reducible apply State.runLong_kept |
                 with_reducible apply State.customStep_kept | with_reducible apply State.customDecode_kept | (intro _) | split |
                 dsimp only [StepKept, OutKept, IssueKept, MicroKept, OptKept, done] | simp only [kept_mk_eq] |
                 with_reducible apply keptC_of | with_reducible apply keptC_marks | with_reducible apply keptC_regs |
                 with_reducible exact kept_fst (by assumption) (by assumption))

theorem State.cdtAccept_kept {dv : Nat} (s : State) (w : CdtWrite) (h_s : Kept dv s) : Kept dv (State.cdtAccept s w) := by
  unfold State.cdtAccept
  try dsimp only
  repeat' (first | with_reducible assumption | with_reducible apply State.setFld_kept | (intro _) | split |
                 dsimp only [StepKept, OutKept, IssueKept, MicroKept, OptKept, done] | simp only [kept_mk_eq] |
                 with_reducible apply keptC_of | with_reducible apply keptC_marks | with_reducible apply keptC_regs |
                 with_reducible exact kept_fst (by assumption) (by assumption))

theorem State.cdtWordWrite_kept {dv : Nat} (s : State) (v : Word) (h_s : Kept dv s) : Kept dv (State.cdtWordWrite s v) := by
  unfold State.cdtWordWrite
  try dsimp only
  repeat' (first | with_reducible assumption | with_reducible apply State.setFld_kept | with_reducible apply State.cdtAccept_kept |
                 (intro _) | split | dsimp only [StepKept, OutKept, IssueKept, MicroKept, OptKept, done] | simp only [kept_mk_eq] |
                 with_reducible apply keptC_of | with_reducible apply keptC_marks | with_reducible apply keptC_regs |
                 with_reducible exact kept_fst (by assumption) (by assumption))

theorem State.cdtEntryWrite_kept {dv : Nat} (s : State) (n : Nat) (v : Word) (h_s : Kept dv s) : Kept dv (State.cdtEntryWrite s n v) :=
    by
  unfold State.cdtEntryWrite
  try dsimp only
  repeat' (first | with_reducible assumption | with_reducible apply State.raise_kept | with_reducible apply State.cdtAccept_kept |
                 (intro _) | split | dsimp only [StepKept, OutKept, IssueKept, MicroKept, OptKept, done] | simp only [kept_mk_eq] |
                 with_reducible apply keptC_of | with_reducible apply keptC_marks | with_reducible apply keptC_regs |
                 with_reducible exact kept_fst (by assumption) (by assumption))

theorem State.cdtBroadcastDone_kept {dv : Nat} (s : State) (h_s : Kept dv s) : Kept dv (State.cdtBroadcastDone s) := by
  unfold State.cdtBroadcastDone
  try dsimp only
  repeat' (first | with_reducible assumption | with_reducible apply State.setFld_kept | with_reducible apply State.mapTwins_kept |
                 with_reducible apply State.mapHewers_kept | (intro _) | split |
                 dsimp only [StepKept, OutKept, IssueKept, MicroKept, OptKept, done] | simp only [kept_mk_eq] |
                 with_reducible apply keptC_of | with_reducible apply keptC_marks | with_reducible apply keptC_regs |
                 with_reducible exact kept_fst (by assumption) (by assumption))

theorem State.cdtRetake_kept {dv : Nat} (s : State) (t k : Nat) (h_s : Kept dv s) : Kept dv (State.cdtRetake s t k) := by
  unfold State.cdtRetake
  try dsimp only
  repeat' (first | with_reducible assumption | with_reducible apply State.modTwin_kept | with_reducible apply foldl_kept | (intro _) |
                 split | dsimp only [StepKept, OutKept, IssueKept, MicroKept, OptKept, done] | simp only [kept_mk_eq] |
                 with_reducible apply keptC_of | with_reducible apply keptC_marks | with_reducible apply keptC_regs |
                 with_reducible exact kept_fst (by assumption) (by assumption))

theorem execCdtBroadcastComplete_kept {dv : Nat} (s : State) (h_s : Kept dv s) : OutKept dv (execCdtBroadcastComplete s) := by
  unfold execCdtBroadcastComplete
  try dsimp only
  repeat' (first | with_reducible assumption | with_reducible apply done_kept | with_reducible apply State.cdtBroadcastDone_kept |
                 (intro _) | split | dsimp only [StepKept, OutKept, IssueKept, MicroKept, OptKept, done] | simp only [kept_mk_eq] |
                 with_reducible apply keptC_of | with_reducible apply keptC_marks | with_reducible apply keptC_regs |
                 with_reducible exact kept_fst (by assumption) (by assumption))

end Sys2Proof.Machine
end

