-- ==== Sys2Proof/Laws/KeptModes.lean ====
section
/-! SUPPORT. One lemma per operation: it keeps the memory canonical and the device number: modes, system instructions and the commands of the draught and the lode. -/

namespace Sys2Proof.Machine


theorem State.setPin_kept {dv : Nat} (s : State) (o : Nat) (x : OutPin) (h_s : Kept dv s) : Kept dv (State.setPin s o x) := by
  unfold State.setPin
  try dsimp only
  repeat' (first | with_reducible assumption | (intro _) | split | dsimp only [StepKept, OutKept, IssueKept, MicroKept, OptKept, done] |
                 simp only [kept_mk_eq] | with_reducible apply keptC_of | with_reducible apply keptC_marks |
                 with_reducible apply keptC_regs | with_reducible exact kept_fst (by assumption) (by assumption))

theorem State.pinOff_kept {dv : Nat} (s : State) (o : Nat) (h_s : Kept dv s) : Kept dv (State.pinOff s o) := by
  unfold State.pinOff
  try dsimp only
  repeat' (first | with_reducible assumption | with_reducible apply State.setPin_kept | (intro _) | split |
                 dsimp only [StepKept, OutKept, IssueKept, MicroKept, OptKept, done] | simp only [kept_mk_eq] |
                 with_reducible apply keptC_of | with_reducible apply keptC_marks | with_reducible apply keptC_regs |
                 with_reducible exact kept_fst (by assumption) (by assumption))

theorem State.pinSafe_kept {dv : Nat} (s : State) (o : Nat) (h_s : Kept dv s) : Kept dv (State.pinSafe s o) := by
  unfold State.pinSafe
  try dsimp only
  repeat' (first | with_reducible assumption | with_reducible apply State.setPin_kept | with_reducible apply State.pinOff_kept |
                 (intro _) | split | dsimp only [StepKept, OutKept, IssueKept, MicroKept, OptKept, done] | simp only [kept_mk_eq] |
                 with_reducible apply keptC_of | with_reducible apply keptC_marks | with_reducible apply keptC_regs |
                 with_reducible exact kept_fst (by assumption) (by assumption))

theorem State.pinsTo_kept {dv : Nat} (s : State) (m : Mode) (h_s : Kept dv s) : Kept dv (State.pinsTo s m) := by
  unfold State.pinsTo
  try dsimp only
  repeat' (first | with_reducible assumption | with_reducible apply State.pinOff_kept | with_reducible apply State.pinSafe_kept |
                 with_reducible apply foldl_kept | (intro _) | split |
                 dsimp only [StepKept, OutKept, IssueKept, MicroKept, OptKept, done] | simp only [kept_mk_eq] |
                 with_reducible apply keptC_of | with_reducible apply keptC_marks | with_reducible apply keptC_regs |
                 with_reducible exact kept_fst (by assumption) (by assumption))

theorem State.pinCheck_kept {dv : Nat} (s : State) (o : Nat) (h_s : Kept dv s) : Kept dv (State.pinCheck s o) := by
  unfold State.pinCheck
  try dsimp only
  repeat' (first | with_reducible assumption | with_reducible apply State.pinOff_kept | (intro _) | split |
                 dsimp only [StepKept, OutKept, IssueKept, MicroKept, OptKept, done] | simp only [kept_mk_eq] |
                 with_reducible apply keptC_of | with_reducible apply keptC_marks | with_reducible apply keptC_regs |
                 with_reducible exact kept_fst (by assumption) (by assumption))

theorem State.devReload_kept {dv : Nat} (s : State) (h_s : Kept dv s) : Kept dv (State.devReload s) := by
  unfold State.devReload
  try dsimp only
  repeat' (first | with_reducible assumption | with_reducible apply State.setFld_kept | (intro _) | split |
                 dsimp only [StepKept, OutKept, IssueKept, MicroKept, OptKept, done] | simp only [kept_mk_eq] |
                 with_reducible apply keptC_of | with_reducible apply keptC_marks | with_reducible apply keptC_regs |
                 with_reducible exact kept_fst (by assumption) (by assumption))

theorem State.forceHewers_kept {dv : Nat} (s : State) (h_s : Kept dv s) : Kept dv (State.forceHewers s) := by
  unfold State.forceHewers
  try dsimp only
  repeat' (first | with_reducible assumption | with_reducible apply State.mapHewers_kept | (intro _) | split |
                 dsimp only [StepKept, OutKept, IssueKept, MicroKept, OptKept, done] | simp only [kept_mk_eq] |
                 with_reducible apply keptC_of | with_reducible apply keptC_marks | with_reducible apply keptC_regs |
                 with_reducible exact kept_fst (by assumption) (by assumption))

theorem State.toMode_kept {dv : Nat} (s : State) (new : Mode) (h_s : Kept dv s) : Kept dv (State.toMode s new) := by
  unfold State.toMode
  try dsimp only
  repeat' (first | with_reducible assumption | with_reducible apply State.setFld_kept | with_reducible apply State.log_kept |
                 with_reducible apply State.discardAll_kept | with_reducible apply State.pinsTo_kept |
                 with_reducible apply State.devReload_kept | with_reducible apply State.forceHewers_kept | (intro _) | split |
                 dsimp only [StepKept, OutKept, IssueKept, MicroKept, OptKept, done] | simp only [kept_mk_eq] |
                 with_reducible apply keptC_of | with_reducible apply keptC_marks | with_reducible apply keptC_regs |
                 with_reducible exact kept_fst (by assumption) (by assumption))

theorem State.safeHold_kept {dv : Nat} (s : State) (cause : Nat) (h_s : Kept dv s) : Kept dv (State.safeHold s cause) := by
  unfold State.safeHold
  try dsimp only
  repeat' (first | with_reducible assumption | with_reducible apply State.setFld_kept | with_reducible apply State.toMode_kept |
                 (intro _) | split | dsimp only [StepKept, OutKept, IssueKept, MicroKept, OptKept, done] | simp only [kept_mk_eq] |
                 with_reducible apply keptC_of | with_reducible apply keptC_marks | with_reducible apply keptC_regs |
                 with_reducible exact kept_fst (by assumption) (by assumption))

theorem State.setDeg_kept {dv : Nat} (s : State) (h_s : Kept dv s) : Kept dv (State.setDeg s) := by
  unfold State.setDeg
  try dsimp only
  repeat' (first | with_reducible assumption | with_reducible apply State.setFld_kept | (intro _) | split |
                 dsimp only [StepKept, OutKept, IssueKept, MicroKept, OptKept, done] | simp only [kept_mk_eq] |
                 with_reducible apply keptC_of | with_reducible apply keptC_marks | with_reducible apply keptC_regs |
                 with_reducible exact kept_fst (by assumption) (by assumption))

theorem State.settle_kept {dv : Nat} (s : State) (h_s : Kept dv s) : Kept dv (State.settle s) := by
  unfold State.settle
  try dsimp only
  repeat' (first | with_reducible assumption | with_reducible apply State.toMode_kept | with_reducible apply State.safeHold_kept |
                 with_reducible apply State.setDeg_kept | (intro _) | split |
                 dsimp only [StepKept, OutKept, IssueKept, MicroKept, OptKept, done] | simp only [kept_mk_eq] |
                 with_reducible apply keptC_of | with_reducible apply keptC_marks | with_reducible apply keptC_regs |
                 with_reducible exact kept_fst (by assumption) (by assumption))

theorem State.refuseMode_kept {dv : Nat} (s : State) (h_s : Kept dv s) : Kept dv (State.refuseMode s) := by
  unfold State.refuseMode
  try dsimp only
  repeat' (first | with_reducible assumption | with_reducible apply State.raise_kept | (intro _) | split |
                 dsimp only [StepKept, OutKept, IssueKept, MicroKept, OptKept, done] | simp only [kept_mk_eq] |
                 with_reducible apply keptC_of | with_reducible apply keptC_marks | with_reducible apply keptC_regs |
                 with_reducible exact kept_fst (by assumption) (by assumption))

theorem State.decideRun_kept {dv : Nat} (s : State) (h_s : Kept dv s) : Kept dv (State.decideRun s) := by
  unfold State.decideRun
  try dsimp only
  repeat' (first | with_reducible assumption | with_reducible apply State.setFld_kept | with_reducible apply State.toMode_kept |
                 with_reducible apply State.settle_kept | (intro _) | split |
                 dsimp only [StepKept, OutKept, IssueKept, MicroKept, OptKept, done] | simp only [kept_mk_eq] |
                 with_reducible apply keptC_of | with_reducible apply keptC_marks | with_reducible apply keptC_regs |
                 with_reducible exact kept_fst (by assumption) (by assumption))

theorem State.enterService_kept {dv : Nat} (s : State) (h_s : Kept dv s) : Kept dv (State.enterService s) := by
  unfold State.enterService
  try dsimp only
  repeat' (first | with_reducible assumption | with_reducible apply State.raise_kept | with_reducible apply State.toMode_kept |
                 with_reducible apply State.settle_kept | with_reducible apply State.refuseMode_kept |
                 with_reducible apply State.decideRun_kept | (intro _) | split |
                 dsimp only [StepKept, OutKept, IssueKept, MicroKept, OptKept, done] | simp only [kept_mk_eq] |
                 with_reducible apply keptC_of | with_reducible apply keptC_marks | with_reducible apply keptC_regs |
                 with_reducible exact kept_fst (by assumption) (by assumption))

theorem State.requestMode_kept {dv : Nat} (s : State) (req : Mode) (h_s : Kept dv s) : Kept dv (State.requestMode s req) := by
  unfold State.requestMode
  try dsimp only
  repeat' (first | with_reducible assumption | with_reducible apply State.toMode_kept | with_reducible apply State.safeHold_kept |
                 with_reducible apply State.settle_kept | with_reducible apply State.refuseMode_kept |
                 with_reducible apply State.enterService_kept | (intro _) | split |
                 dsimp only [StepKept, OutKept, IssueKept, MicroKept, OptKept, done] | simp only [kept_mk_eq] |
                 with_reducible apply keptC_of | with_reducible apply keptC_marks | with_reducible apply keptC_regs |
                 with_reducible exact kept_fst (by assumption) (by assumption))

theorem State.modeWrite_kept {dv : Nat} (s : State) (v : Nat) (h_s : Kept dv s) : Kept dv (State.modeWrite s v) := by
  unfold State.modeWrite
  try dsimp only
  repeat' (first | with_reducible assumption | with_reducible apply State.setFld_kept | with_reducible apply State.requestMode_kept |
                 (intro _) | split | dsimp only [StepKept, OutKept, IssueKept, MicroKept, OptKept, done] | simp only [kept_mk_eq] |
                 with_reducible apply keptC_of | with_reducible apply keptC_marks | with_reducible apply keptC_regs |
                 with_reducible exact kept_fst (by assumption) (by assumption))

theorem State.modeCommand_kept {dv : Nat} (s : State) (m : Mode) (h_s : Kept dv s) : Kept dv (State.modeCommand s m) := by
  unfold State.modeCommand
  try dsimp only
  repeat' (first | with_reducible assumption | with_reducible apply State.modeWrite_kept | (intro _) | split |
                 dsimp only [StepKept, OutKept, IssueKept, MicroKept, OptKept, done] | simp only [kept_mk_eq] |
                 with_reducible apply keptC_of | with_reducible apply keptC_marks | with_reducible apply keptC_regs |
                 with_reducible exact kept_fst (by assumption) (by assumption))

theorem execRequestSelfTest_kept {dv : Nat} (s : State) (h_s : Kept dv s) : OutKept dv (execRequestSelfTest s) := by
  unfold execRequestSelfTest
  try dsimp only
  repeat' (first | with_reducible assumption | with_reducible apply done_kept | with_reducible apply State.modeCommand_kept | (intro _)
                 | split | dsimp only [StepKept, OutKept, IssueKept, MicroKept, OptKept, done] | simp only [kept_mk_eq] |
                 with_reducible apply keptC_of | with_reducible apply keptC_marks | with_reducible apply keptC_regs |
                 with_reducible exact kept_fst (by assumption) (by assumption))

theorem execRequestRun_kept {dv : Nat} (s : State) (h_s : Kept dv s) : OutKept dv (execRequestRun s) := by
  unfold execRequestRun
  try dsimp only
  repeat' (first | with_reducible assumption | with_reducible apply done_kept | with_reducible apply State.modeCommand_kept | (intro _)
                 | split | dsimp only [StepKept, OutKept, IssueKept, MicroKept, OptKept, done] | simp only [kept_mk_eq] |
                 with_reducible apply keptC_of | with_reducible apply keptC_marks | with_reducible apply keptC_regs |
                 with_reducible exact kept_fst (by assumption) (by assumption))

theorem execRequestStandby_kept {dv : Nat} (s : State) (h_s : Kept dv s) : OutKept dv (execRequestStandby s) := by
  unfold execRequestStandby
  try dsimp only
  repeat' (first | with_reducible assumption | with_reducible apply done_kept | with_reducible apply State.modeCommand_kept | (intro _)
                 | split | dsimp only [StepKept, OutKept, IssueKept, MicroKept, OptKept, done] | simp only [kept_mk_eq] |
                 with_reducible apply keptC_of | with_reducible apply keptC_marks | with_reducible apply keptC_regs |
                 with_reducible exact kept_fst (by assumption) (by assumption))

theorem execRequestMaintenance_kept {dv : Nat} (s : State) (h_s : Kept dv s) : OutKept dv (execRequestMaintenance s) := by
  unfold execRequestMaintenance
  try dsimp only
  repeat' (first | with_reducible assumption | with_reducible apply done_kept | with_reducible apply State.modeCommand_kept | (intro _)
                 | split | dsimp only [StepKept, OutKept, IssueKept, MicroKept, OptKept, done] | simp only [kept_mk_eq] |
                 with_reducible apply keptC_of | with_reducible apply keptC_marks | with_reducible apply keptC_regs |
                 with_reducible exact kept_fst (by assumption) (by assumption))

theorem execRequestSafeHold_kept {dv : Nat} (s : State) (h_s : Kept dv s) : OutKept dv (execRequestSafeHold s) := by
  unfold execRequestSafeHold
  try dsimp only
  repeat' (first | with_reducible assumption | with_reducible apply done_kept | with_reducible apply State.modeCommand_kept | (intro _)
                 | split | dsimp only [StepKept, OutKept, IssueKept, MicroKept, OptKept, done] | simp only [kept_mk_eq] |
                 with_reducible apply keptC_of | with_reducible apply keptC_marks | with_reducible apply keptC_regs |
                 with_reducible exact kept_fst (by assumption) (by assumption))

theorem execRequestConfigure_kept {dv : Nat} (s : State) (h_s : Kept dv s) : OutKept dv (execRequestConfigure s) := by
  unfold execRequestConfigure
  try dsimp only
  repeat' (first | with_reducible assumption | with_reducible apply done_kept | with_reducible apply State.modeCommand_kept | (intro _)
                 | split | dsimp only [StepKept, OutKept, IssueKept, MicroKept, OptKept, done] | simp only [kept_mk_eq] |
                 with_reducible apply keptC_of | with_reducible apply keptC_marks | with_reducible apply keptC_regs |
                 with_reducible exact kept_fst (by assumption) (by assumption))

theorem execRunDecision_kept {dv : Nat} (s : State) (h_s : Kept dv s) : OutKept dv (execRunDecision s) := by
  unfold execRunDecision
  try dsimp only
  repeat' (first | with_reducible assumption | with_reducible apply done_kept | with_reducible apply State.decideRun_kept | (intro _) |
                 split | dsimp only [StepKept, OutKept, IssueKept, MicroKept, OptKept, done] | simp only [kept_mk_eq] |
                 with_reducible apply keptC_of | with_reducible apply keptC_marks | with_reducible apply keptC_regs |
                 with_reducible exact kept_fst (by assumption) (by assumption))

theorem State.settleThread_kept {dv : Nat} (s : State) (h : Nat) (h_s : Kept dv s) : Kept dv (State.settleThread s h) := by
  unfold State.settleThread
  try dsimp only
  repeat' (first | with_reducible assumption | with_reducible apply State.restoreThread_kept | (intro _) | split |
                 dsimp only [StepKept, OutKept, IssueKept, MicroKept, OptKept, done] | simp only [kept_mk_eq] |
                 with_reducible apply keptC_of | with_reducible apply keptC_marks | with_reducible apply keptC_regs |
                 with_reducible exact kept_fst (by assumption) (by assumption))

theorem State.forcedEntry_kept {dv : Nat} (s : State) (h : Nat) (h_s : Kept dv s) : Kept dv (State.forcedEntry s h) := by
  unfold State.forcedEntry
  try dsimp only
  repeat' (first | with_reducible assumption | with_reducible apply State.modHew_kept | with_reducible apply State.tally_kept |
                 with_reducible apply State.enter_kept | with_reducible apply State.settleThread_kept | (intro _) | split |
                 dsimp only [StepKept, OutKept, IssueKept, MicroKept, OptKept, done] | simp only [kept_mk_eq] |
                 with_reducible apply keptC_of | with_reducible apply keptC_marks | with_reducible apply keptC_regs |
                 with_reducible exact kept_fst (by assumption) (by assumption))

theorem execForcedMEntry_kept {dv : Nat} (h : HewerId) (s : State) (h_s : Kept dv s) : OutKept dv (execForcedMEntry h s) := by
  unfold execForcedMEntry
  try dsimp only
  repeat' (first | with_reducible assumption | with_reducible apply done_kept | with_reducible apply State.forcedEntry_kept | (intro _)
                 | split | dsimp only [StepKept, OutKept, IssueKept, MicroKept, OptKept, done] | simp only [kept_mk_eq] |
                 with_reducible apply keptC_of | with_reducible apply keptC_marks | with_reducible apply keptC_regs |
                 with_reducible exact kept_fst (by assumption) (by assumption))

theorem execMfs_kept {dv : Nat} (h : HewerId) (rd : RegNo) (sel : BitVec 12) (s : State) (h_s : Kept dv s) : OutKept dv (execMfs h rd
    sel s) := by
  unfold execMfs
  try dsimp only
  repeat' (first | with_reducible assumption | with_reducible apply done_kept | with_reducible apply State.run_kept |
                 with_reducible apply State.moveStep_kept | (intro _) | split |
                 dsimp only [StepKept, OutKept, IssueKept, MicroKept, OptKept, done] | simp only [kept_mk_eq] |
                 with_reducible apply keptC_of | with_reducible apply keptC_marks | with_reducible apply keptC_regs |
                 with_reducible exact kept_fst (by assumption) (by assumption))

theorem execMts_kept {dv : Nat} (h : HewerId) (ra : RegNo) (sel : BitVec 12) (s : State) (h_s : Kept dv s) : OutKept dv (execMts h ra
    sel s) := by
  unfold execMts
  try dsimp only
  repeat' (first | with_reducible assumption | with_reducible apply State.modHew_kept | with_reducible apply done_kept |
                 with_reducible apply State.run_kept | (intro _) | split |
                 dsimp only [StepKept, OutKept, IssueKept, MicroKept, OptKept, done] | simp only [kept_mk_eq] |
                 with_reducible apply keptC_of | with_reducible apply keptC_marks | with_reducible apply keptC_regs |
                 with_reducible exact kept_fst (by assumption) (by assumption))

theorem execNop_kept {dv : Nat} (h : HewerId) (s : State) (h_s : Kept dv s) : OutKept dv (execNop h s) := by
  unfold execNop
  try dsimp only
  repeat' (first | with_reducible assumption | with_reducible apply done_kept | with_reducible apply State.run_kept | (intro _) | split
                 | dsimp only [StepKept, OutKept, IssueKept, MicroKept, OptKept, done] | simp only [kept_mk_eq] |
                 with_reducible apply keptC_of | with_reducible apply keptC_marks | with_reducible apply keptC_regs |
                 with_reducible exact kept_fst (by assumption) (by assumption))

theorem execSys_kept {dv : Nat} (h : HewerId) (s : State) (h_s : Kept dv s) : OutKept dv (execSys h s) := by
  unfold execSys
  try dsimp only
  repeat' (first | with_reducible assumption | with_reducible apply State.modHew_kept | with_reducible apply done_kept |
                 with_reducible apply State.tally_kept | with_reducible apply State.enter_kept | with_reducible apply State.run_kept |
                 (intro _) | split | dsimp only [StepKept, OutKept, IssueKept, MicroKept, OptKept, done] | simp only [kept_mk_eq] |
                 with_reducible apply keptC_of | with_reducible apply keptC_marks | with_reducible apply keptC_regs |
                 with_reducible exact kept_fst (by assumption) (by assumption))

theorem execMon_kept {dv : Nat} (h : HewerId) (s : State) (h_s : Kept dv s) : OutKept dv (execMon h s) := by
  unfold execMon
  try dsimp only
  repeat' (first | with_reducible assumption | with_reducible apply State.modHew_kept | with_reducible apply done_kept |
                 with_reducible apply State.tally_kept | with_reducible apply State.enter_kept | with_reducible apply State.run_kept |
                 (intro _) | split | dsimp only [StepKept, OutKept, IssueKept, MicroKept, OptKept, done] | simp only [kept_mk_eq] |
                 with_reducible apply keptC_of | with_reducible apply keptC_marks | with_reducible apply keptC_regs |
                 with_reducible exact kept_fst (by assumption) (by assumption))

theorem State.eretTo_kept {dv : Nat} (s : State) (h : Nat) (h_s : Kept dv s) : Kept dv (State.eretTo s h) := by
  unfold State.eretTo
  try dsimp only
  repeat' (first | with_reducible assumption | with_reducible apply State.setHew_kept | with_reducible apply State.modHew_kept |
                 with_reducible apply State.breakFlow_kept | with_reducible apply State.restoreThread_kept | (intro _) | split |
                 dsimp only [StepKept, OutKept, IssueKept, MicroKept, OptKept, done] | simp only [kept_mk_eq] |
                 with_reducible apply keptC_of | with_reducible apply keptC_marks | with_reducible apply keptC_regs |
                 with_reducible exact kept_fst (by assumption) (by assumption))

theorem execEret_kept {dv : Nat} (h : HewerId) (s : State) (h_s : Kept dv s) : OutKept dv (execEret h s) := by
  unfold execEret
  try dsimp only
  repeat' (first | with_reducible assumption | with_reducible apply State.modHew_kept | with_reducible apply done_kept |
                 with_reducible apply State.run_kept | with_reducible apply State.eretTo_kept | (intro _) | split |
                 dsimp only [StepKept, OutKept, IssueKept, MicroKept, OptKept, done] | simp only [kept_mk_eq] |
                 with_reducible apply keptC_of | with_reducible apply keptC_marks | with_reducible apply keptC_regs |
                 with_reducible exact kept_fst (by assumption) (by assumption))

theorem State.emitResult_kept {dv : Nat} (s : State) (h status w : Nat) (h_s : Kept dv s) : Kept dv (State.emitResult s h status w) :=
    by
  unfold State.emitResult
  try dsimp only
  repeat' (first | with_reducible assumption | with_reducible apply State.stamp_kept | with_reducible apply State.modHew_kept |
                 with_reducible apply State.modAct_kept | (intro _) | split |
                 dsimp only [StepKept, OutKept, IssueKept, MicroKept, OptKept, done] | simp only [kept_mk_eq] |
                 with_reducible apply keptC_of | with_reducible apply keptC_marks | with_reducible apply keptC_regs |
                 with_reducible exact kept_fst (by assumption) (by assumption))

theorem execTend_kept {dv : Nat} (h : HewerId) (ra : RegNo) (s : State) (h_s : Kept dv s) : OutKept dv (execTend h ra s) := by
  unfold execTend
  try dsimp only
  repeat' (first | with_reducible assumption | with_reducible apply State.modHew_kept | with_reducible apply done_kept |
                 with_reducible apply State.sbFlush_kept | with_reducible apply State.breakFlow_kept |
                 with_reducible apply State.runLong_kept | with_reducible apply State.emitResult_kept | (intro _) | split |
                 dsimp only [StepKept, OutKept, IssueKept, MicroKept, OptKept, done] | simp only [kept_mk_eq] |
                 with_reducible apply keptC_of | with_reducible apply keptC_marks | with_reducible apply keptC_regs |
                 with_reducible exact kept_fst (by assumption) (by assumption))

theorem State.refetch_kept {dv : Nat} (s : State) (h sel : Nat) (bad : Option Nat) (f : State → Step) (h_s : Kept dv s) (h_f : ∀ a0,
    Kept dv a0 → StepKept dv (f a0)) : Kept dv (State.refetch s h sel bad f) := by
  unfold State.refetch
  try dsimp only
  repeat' (first | with_reducible assumption | with_reducible apply h_f | with_reducible apply State.l1iDrop_kept |
                 with_reducible apply State.sbFlush_kept | with_reducible apply State.runLong_kept | (intro _) | split |
                 dsimp only [StepKept, OutKept, IssueKept, MicroKept, OptKept, done] | simp only [kept_mk_eq] |
                 with_reducible apply keptC_of | with_reducible apply keptC_marks | with_reducible apply keptC_regs |
                 with_reducible exact kept_fst (by assumption) (by assumption))

theorem State.ctlInForce_kept {dv : Nat} (s : State) (h : Nat) (h_s : Kept dv s) : Kept dv (State.ctlInForce s h) := by
  unfold State.ctlInForce
  try dsimp only
  repeat' (first | with_reducible assumption | with_reducible apply State.modHew_kept | with_reducible apply State.flushPred_kept |
                 with_reducible apply State.cdtReach_kept | (intro _) | split |
                 dsimp only [StepKept, OutKept, IssueKept, MicroKept, OptKept, done] | simp only [kept_mk_eq] |
                 with_reducible apply keptC_of | with_reducible apply keptC_marks | with_reducible apply keptC_regs |
                 with_reducible exact kept_fst (by assumption) (by assumption))

theorem execSync_kept {dv : Nat} (h : HewerId) (s : State) (h_s : Kept dv s) : OutKept dv (execSync h s) := by
  unfold execSync
  try dsimp only
  repeat' (first | with_reducible assumption | with_reducible apply done_kept | with_reducible apply State.refetch_kept |
                 with_reducible apply State.ctlInForce_kept | (intro _) | split |
                 dsimp only [StepKept, OutKept, IssueKept, MicroKept, OptKept, done] | simp only [kept_mk_eq] |
                 with_reducible apply keptC_of | with_reducible apply keptC_marks | with_reducible apply keptC_regs |
                 with_reducible exact kept_fst (by assumption) (by assumption))

theorem execIfence_kept {dv : Nat} (h : HewerId) (s : State) (h_s : Kept dv s) : OutKept dv (execIfence h s) := by
  unfold execIfence
  try dsimp only
  repeat' (first | with_reducible assumption | with_reducible apply done_kept | with_reducible apply State.refetch_kept | (intro _) |
                 split | dsimp only [StepKept, OutKept, IssueKept, MicroKept, OptKept, done] | simp only [kept_mk_eq] |
                 with_reducible apply keptC_of | with_reducible apply keptC_marks | with_reducible apply keptC_regs |
                 with_reducible exact kept_fst (by assumption) (by assumption))

theorem execCdtsync_kept {dv : Nat} (h : HewerId) (s : State) (h_s : Kept dv s) : OutKept dv (execCdtsync h s) := by
  unfold execCdtsync
  try dsimp only
  repeat' (first | with_reducible assumption | with_reducible apply State.modHew_kept | with_reducible apply done_kept |
                 with_reducible apply State.cdtReach_kept | with_reducible apply State.refetch_kept | (intro _) | split |
                 dsimp only [StepKept, OutKept, IssueKept, MicroKept, OptKept, done] | simp only [kept_mk_eq] |
                 with_reducible apply keptC_of | with_reducible apply keptC_marks | with_reducible apply keptC_regs |
                 with_reducible exact kept_fst (by assumption) (by assumption))

theorem execFenceR_kept {dv : Nat} (h : HewerId) (s : State) (h_s : Kept dv s) : OutKept dv (execFenceR h s) := by
  unfold execFenceR
  try dsimp only
  repeat' (first | with_reducible assumption | with_reducible apply done_kept | with_reducible apply State.runLong_kept | (intro _) |
                 split | dsimp only [StepKept, OutKept, IssueKept, MicroKept, OptKept, done] | simp only [kept_mk_eq] |
                 with_reducible apply keptC_of | with_reducible apply keptC_marks | with_reducible apply keptC_regs |
                 with_reducible exact kept_fst (by assumption) (by assumption))

theorem execFenceW_kept {dv : Nat} (h : HewerId) (s : State) (h_s : Kept dv s) : OutKept dv (execFenceW h s) := by
  unfold execFenceW
  try dsimp only
  repeat' (first | with_reducible assumption | with_reducible apply done_kept | with_reducible apply State.sbFlush_kept |
                 with_reducible apply State.runLong_kept | (intro _) | split |
                 dsimp only [StepKept, OutKept, IssueKept, MicroKept, OptKept, done] | simp only [kept_mk_eq] |
                 with_reducible apply keptC_of | with_reducible apply keptC_marks | with_reducible apply keptC_regs |
                 with_reducible exact kept_fst (by assumption) (by assumption))

theorem execFenceRw_kept {dv : Nat} (h : HewerId) (s : State) (h_s : Kept dv s) : OutKept dv (execFenceRw h s) := by
  unfold execFenceRw
  try dsimp only
  repeat' (first | with_reducible assumption | with_reducible apply done_kept | with_reducible apply State.sbFlush_kept |
                 with_reducible apply State.runLong_kept | (intro _) | split |
                 dsimp only [StepKept, OutKept, IssueKept, MicroKept, OptKept, done] | simp only [kept_mk_eq] |
                 with_reducible apply keptC_of | with_reducible apply keptC_marks | with_reducible apply keptC_regs |
                 with_reducible exact kept_fst (by assumption) (by assumption))

theorem State.xinvStep_kept {dv : Nat} (s : State) (h : Nat) (k : XScope) (va asid : Option Nat) (h_s : Kept dv s) : StepKept dv
    (State.xinvStep s h k va asid) := by
  unfold State.xinvStep
  try dsimp only
  repeat' (first | with_reducible assumption | with_reducible apply State.modHew_kept | with_reducible apply State.sbFlush_kept |
                 (intro _) | split | dsimp only [StepKept, OutKept, IssueKept, MicroKept, OptKept, done] | simp only [kept_mk_eq] |
                 with_reducible apply keptC_of | with_reducible apply keptC_marks | with_reducible apply keptC_regs |
                 with_reducible exact kept_fst (by assumption) (by assumption))

theorem execXinvA_kept {dv : Nat} (h : HewerId) (scope : XScope) (rd ra : RegNo) (s : State) (h_s : Kept dv s) : OutKept dv (execXinvA h
    scope rd ra s) := by
  unfold execXinvA
  try dsimp only
  repeat' (first | with_reducible assumption | with_reducible apply done_kept | with_reducible apply State.run_kept |
                 with_reducible apply State.xinvStep_kept | (intro _) | split |
                 dsimp only [StepKept, OutKept, IssueKept, MicroKept, OptKept, done] | simp only [kept_mk_eq] |
                 with_reducible apply keptC_of | with_reducible apply keptC_marks | with_reducible apply keptC_regs |
                 with_reducible exact kept_fst (by assumption) (by assumption))

theorem execXinvT_kept {dv : Nat} (h : HewerId) (scope : XScope) (rd : RegNo) (s : State) (h_s : Kept dv s) : OutKept dv (execXinvT h
    scope rd s) := by
  unfold execXinvT
  try dsimp only
  repeat' (first | with_reducible assumption | with_reducible apply done_kept | with_reducible apply State.run_kept |
                 with_reducible apply State.xinvStep_kept | (intro _) | split |
                 dsimp only [StepKept, OutKept, IssueKept, MicroKept, OptKept, done] | simp only [kept_mk_eq] |
                 with_reducible apply keptC_of | with_reducible apply keptC_marks | with_reducible apply keptC_regs |
                 with_reducible exact kept_fst (by assumption) (by assumption))

theorem execXinvAll_kept {dv : Nat} (h : HewerId) (scope : XScope) (s : State) (h_s : Kept dv s) : OutKept dv (execXinvAll h scope s) :=
    by
  unfold execXinvAll
  try dsimp only
  repeat' (first | with_reducible assumption | with_reducible apply done_kept | with_reducible apply State.run_kept |
                 with_reducible apply State.xinvStep_kept | (intro _) | split |
                 dsimp only [StepKept, OutKept, IssueKept, MicroKept, OptKept, done] | simp only [kept_mk_eq] |
                 with_reducible apply keptC_of | with_reducible apply keptC_marks | with_reducible apply keptC_regs |
                 with_reducible exact kept_fst (by assumption) (by assumption))

theorem execXinvComplete_kept {dv : Nat} (h : HewerId) (twin : Fin 576) (s : State) (h_s : Kept dv s) : OutKept dv (execXinvComplete h
    twin s) := by
  unfold execXinvComplete
  try dsimp only
  repeat' (first | with_reducible assumption | with_reducible apply State.modHew_kept | with_reducible apply State.modTwin_kept |
                 with_reducible apply done_kept | (intro _) | split |
                 dsimp only [StepKept, OutKept, IssueKept, MicroKept, OptKept, done] | simp only [kept_mk_eq] |
                 with_reducible apply keptC_of | with_reducible apply keptC_marks | with_reducible apply keptC_regs |
                 with_reducible exact kept_fst (by assumption) (by assumption))

theorem State.wordStop_kept {dv : Nat} (s : State) (h w : Nat) (h_s : Kept dv s) : Kept dv (State.wordStop s h w) := by
  unfold State.wordStop
  try dsimp only
  repeat' (first | with_reducible assumption | with_reducible apply State.run_kept | (intro _) | split |
                 dsimp only [StepKept, OutKept, IssueKept, MicroKept, OptKept, done] | simp only [kept_mk_eq] |
                 with_reducible apply keptC_of | with_reducible apply keptC_marks | with_reducible apply keptC_regs |
                 with_reducible exact kept_fst (by assumption) (by assumption))

theorem execSoftwareBreakpoint_kept {dv : Nat} (h : HewerId) (s : State) (h_s : Kept dv s) : OutKept dv (execSoftwareBreakpoint h s) :=
    by
  unfold execSoftwareBreakpoint
  try dsimp only
  repeat' (first | with_reducible assumption | with_reducible apply done_kept | with_reducible apply State.wordStop_kept | (intro _) |
                 split | dsimp only [StepKept, OutKept, IssueKept, MicroKept, OptKept, done] | simp only [kept_mk_eq] |
                 with_reducible apply keptC_of | with_reducible apply keptC_marks | with_reducible apply keptC_regs |
                 with_reducible exact kept_fst (by assumption) (by assumption))

theorem execIllegalInstruction_kept {dv : Nat} (h : HewerId) (word : Word32) (s : State) (h_s : Kept dv s) : OutKept dv
    (execIllegalInstruction h word s) := by
  unfold execIllegalInstruction
  try dsimp only
  repeat' (first | with_reducible assumption | with_reducible apply done_kept | with_reducible apply State.wordStop_kept | (intro _) |
                 split | dsimp only [StepKept, OutKept, IssueKept, MicroKept, OptKept, done] | simp only [kept_mk_eq] |
                 with_reducible apply keptC_of | with_reducible apply keptC_marks | with_reducible apply keptC_regs |
                 with_reducible exact kept_fst (by assumption) (by assumption))

theorem State.drtDisable_kept {dv : Nat} (s : State) (i : Nat) (flush : Bool) (h_s : Kept dv s) : Kept dv (State.drtDisable s i flush)
    := by
  unfold State.drtDisable
  try dsimp only
  repeat' (first | with_reducible assumption | with_reducible apply State.modTask_kept | with_reducible apply State.cmdEnd_kept |
                 with_reducible apply State.cmdWait_kept | with_reducible apply State.dropActivation_kept | (intro _) | split |
                 dsimp only [StepKept, OutKept, IssueKept, MicroKept, OptKept, done] | simp only [kept_mk_eq] |
                 with_reducible apply keptC_of | with_reducible apply keptC_marks | with_reducible apply keptC_regs |
                 with_reducible exact kept_fst (by assumption) (by assumption))

theorem State.drtCmdWrite_kept {dv : Nat} (s : State) (v : Word) (h_s : Kept dv s) : Kept dv (State.drtCmdWrite s v) := by
  unfold State.drtCmdWrite
  try dsimp only
  repeat' (first | with_reducible assumption | with_reducible apply State.setReg_kept | with_reducible apply State.raise_kept |
                 with_reducible apply State.cmdEnd_kept | with_reducible apply State.drtEnable_kept |
                 with_reducible apply State.drtUpdate_kept | with_reducible apply State.drtDisable_kept | (intro _) | split |
                 dsimp only [StepKept, OutKept, IssueKept, MicroKept, OptKept, done] | simp only [kept_mk_eq] |
                 with_reducible apply keptC_of | with_reducible apply keptC_marks | with_reducible apply keptC_regs |
                 with_reducible exact kept_fst (by assumption) (by assumption))

theorem State.drtCommand_kept {dv : Nat} (s : State) (v : Nat) (h_s : Kept dv s) : Kept dv (State.drtCommand s v) := by
  unfold State.drtCommand
  try dsimp only
  repeat' (first | with_reducible assumption | with_reducible apply State.drtCmdWrite_kept | (intro _) | split |
                 dsimp only [StepKept, OutKept, IssueKept, MicroKept, OptKept, done] | simp only [kept_mk_eq] |
                 with_reducible apply keptC_of | with_reducible apply keptC_marks | with_reducible apply keptC_regs |
                 with_reducible exact kept_fst (by assumption) (by assumption))

theorem execEnable_kept {dv : Nat} (index : BitVec 16) (s : State) (h_s : Kept dv s) : OutKept dv (execEnable index s) := by
  unfold execEnable
  try dsimp only
  repeat' (first | with_reducible assumption | with_reducible apply done_kept | with_reducible apply State.drtCommand_kept | (intro _) |
                 split | dsimp only [StepKept, OutKept, IssueKept, MicroKept, OptKept, done] | simp only [kept_mk_eq] |
                 with_reducible apply keptC_of | with_reducible apply keptC_marks | with_reducible apply keptC_regs |
                 with_reducible exact kept_fst (by assumption) (by assumption))

theorem execDisable_kept {dv : Nat} (index : BitVec 16) (flush : Bool) (s : State) (h_s : Kept dv s) : OutKept dv (execDisable index
    flush s) := by
  unfold execDisable
  try dsimp only
  repeat' (first | with_reducible assumption | with_reducible apply done_kept | with_reducible apply State.drtCommand_kept | (intro _) |
                 split | dsimp only [StepKept, OutKept, IssueKept, MicroKept, OptKept, done] | simp only [kept_mk_eq] |
                 with_reducible apply keptC_of | with_reducible apply keptC_marks | with_reducible apply keptC_regs |
                 with_reducible exact kept_fst (by assumption) (by assumption))

theorem execDisableComplete_kept {dv : Nat} (s : State) (h_s : Kept dv s) : OutKept dv (execDisableComplete s) := by
  unfold execDisableComplete
  try dsimp only
  repeat' (first | with_reducible assumption | with_reducible apply done_kept | with_reducible apply State.cmdEnd_kept |
                 with_reducible apply State.disableTask_kept | (intro _) | split |
                 dsimp only [StepKept, OutKept, IssueKept, MicroKept, OptKept, done] | simp only [kept_mk_eq] |
                 with_reducible apply keptC_of | with_reducible apply keptC_marks | with_reducible apply keptC_regs |
                 with_reducible exact kept_fst (by assumption) (by assumption))

theorem execUpdate_kept {dv : Nat} (index staging : BitVec 16) (s : State) (h_s : Kept dv s) : OutKept dv (execUpdate index staging s)
    := by
  unfold execUpdate
  try dsimp only
  repeat' (first | with_reducible assumption | with_reducible apply done_kept | with_reducible apply State.drtCommand_kept | (intro _) |
                 split | dsimp only [StepKept, OutKept, IssueKept, MicroKept, OptKept, done] | simp only [kept_mk_eq] |
                 with_reducible apply keptC_of | with_reducible apply keptC_marks | with_reducible apply keptC_regs |
                 with_reducible exact kept_fst (by assumption) (by assumption))

theorem execUpdateCopy_kept {dv : Nat} (s : State) (h_s : Kept dv s) : OutKept dv (execUpdateCopy s) := by
  unfold execUpdateCopy
  try dsimp only
  repeat' (first | with_reducible assumption | with_reducible apply done_kept | with_reducible apply State.updateCopy_kept | (intro _) |
                 split | dsimp only [StepKept, OutKept, IssueKept, MicroKept, OptKept, done] | simp only [kept_mk_eq] |
                 with_reducible apply keptC_of | with_reducible apply keptC_marks | with_reducible apply keptC_regs |
                 with_reducible exact kept_fst (by assumption) (by assumption))

theorem State.firePeriodic_kept {dv : Nat} (s : State) (i t : Nat) (h_s : Kept dv s) : Kept dv (State.firePeriodic s i t) := by
  unfold State.firePeriodic
  try dsimp only
  repeat' (first | with_reducible assumption | with_reducible apply State.modTask_kept | with_reducible apply State.skipRelease_kept |
                 with_reducible apply State.releaseTask_kept | (intro _) | split |
                 dsimp only [StepKept, OutKept, IssueKept, MicroKept, OptKept, done] | simp only [kept_mk_eq] |
                 with_reducible apply keptC_of | with_reducible apply keptC_marks | with_reducible apply keptC_regs |
                 with_reducible exact kept_fst (by assumption) (by assumption))

theorem execPeriodicRelease_kept {dv : Nat} (index : BitVec 16) (s : State) (h_s : Kept dv s) : OutKept dv (execPeriodicRelease index s)
    := by
  unfold execPeriodicRelease
  try dsimp only
  repeat' (first | with_reducible assumption | with_reducible apply done_kept | with_reducible apply State.updateFirst_kept |
                 with_reducible apply State.firePeriodic_kept | (intro _) | split |
                 dsimp only [StepKept, OutKept, IssueKept, MicroKept, OptKept, done] | simp only [kept_mk_eq] |
                 with_reducible apply keptC_of | with_reducible apply keptC_marks | with_reducible apply keptC_regs |
                 with_reducible exact kept_fst (by assumption) (by assumption))

theorem execCommandedRelease_kept {dv : Nat} (index : BitVec 16) (loc : BitVec 12) (s : State) (h_s : Kept dv s) : OutKept dv
    (execCommandedRelease index loc s) := by
  unfold execCommandedRelease
  try dsimp only
  repeat' (first | with_reducible assumption | with_reducible apply State.stamp_kept | with_reducible apply done_kept |
                 with_reducible apply State.commandRelease_kept | (intro _) | split |
                 dsimp only [StepKept, OutKept, IssueKept, MicroKept, OptKept, done] | simp only [kept_mk_eq] |
                 with_reducible apply keptC_of | with_reducible apply keptC_marks | with_reducible apply keptC_regs |
                 with_reducible exact kept_fst (by assumption) (by assumption))

theorem State.discardDesc_kept {dv : Nat} (s : State) (i : Nat) (a : Activation) (at_ : Nat) (h_s : Kept dv s) : Kept dv
    (State.discardDesc s i a at_) := by
  unfold State.discardDesc
  try dsimp only
  repeat' (first | with_reducible assumption | with_reducible apply State.logDescUe_kept |
                 with_reducible apply State.dropActivation_kept | (intro _) | split |
                 dsimp only [StepKept, OutKept, IssueKept, MicroKept, OptKept, done] | simp only [kept_mk_eq] |
                 with_reducible apply keptC_of | with_reducible apply keptC_marks | with_reducible apply keptC_regs |
                 with_reducible exact kept_fst (by assumption) (by assumption))

theorem State.gatherReads_kept {dv : Nat} (s : State) (i : Nat) (d : Desc) (h_s : Kept dv s) : Kept dv (State.gatherReads s i d) := by
  unfold State.gatherReads
  try dsimp only
  repeat' (first | with_reducible assumption | with_reducible apply State.hubAccess_kept | with_reducible apply foldl_kept | (intro _) |
                 split | dsimp only [StepKept, OutKept, IssueKept, MicroKept, OptKept, done] | simp only [kept_mk_eq] |
                 with_reducible apply keptC_of | with_reducible apply keptC_marks | with_reducible apply keptC_regs |
                 with_reducible exact kept_fst (by assumption) (by assumption))

theorem State.gatherTask_kept {dv : Nat} (s : State) (i : Nat) (a : Activation) (h_s : Kept dv s) : Kept dv (State.gatherTask s i a) :=
    by
  unfold State.gatherTask
  try dsimp only
  repeat' (first | with_reducible assumption | with_reducible apply State.modAct_kept | with_reducible apply State.discardDesc_kept |
                 with_reducible apply State.gatherReads_kept | with_reducible apply getD_kept | (intro _) | split |
                 dsimp only [StepKept, OutKept, IssueKept, MicroKept, OptKept, done] | simp only [kept_mk_eq] |
                 with_reducible apply keptC_of | with_reducible apply keptC_marks | with_reducible apply keptC_regs |
                 with_reducible exact kept_fst (by assumption) (by assumption))

theorem State.gatherStart_kept {dv : Nat} (s : State) (h_s : Kept dv s) : Kept dv (State.gatherStart s) := by
  unfold State.gatherStart
  try dsimp only
  repeat' (first | with_reducible assumption | with_reducible apply State.raise_kept | with_reducible apply State.gatherTask_kept |
                 (intro _) | split | dsimp only [StepKept, OutKept, IssueKept, MicroKept, OptKept, done] | simp only [kept_mk_eq] |
                 with_reducible apply keptC_of | with_reducible apply keptC_marks | with_reducible apply keptC_regs |
                 with_reducible exact kept_fst (by assumption) (by assumption))

theorem execGatherStart_kept {dv : Nat} (s : State) (h_s : Kept dv s) : OutKept dv (execGatherStart s) := by
  unfold execGatherStart
  try dsimp only
  repeat' (first | with_reducible assumption | with_reducible apply done_kept | with_reducible apply State.gatherStart_kept | (intro _)
                 | split | dsimp only [StepKept, OutKept, IssueKept, MicroKept, OptKept, done] | simp only [kept_mk_eq] |
                 with_reducible apply keptC_of | with_reducible apply keptC_marks | with_reducible apply keptC_regs |
                 with_reducible exact kept_fst (by assumption) (by assumption))

theorem execPacketLanded_kept {dv : Nat} (index : BitVec 16) (s : State) (h_s : Kept dv s) : OutKept dv (execPacketLanded index s) := by
  unfold execPacketLanded
  try dsimp only
  repeat' (first | with_reducible assumption | with_reducible apply done_kept | with_reducible apply State.toReady_kept |
                 with_reducible apply getD_kept | (intro _) | split |
                 dsimp only [StepKept, OutKept, IssueKept, MicroKept, OptKept, done] | simp only [kept_mk_eq] |
                 with_reducible apply keptC_of | with_reducible apply keptC_marks | with_reducible apply keptC_regs |
                 with_reducible exact kept_fst (by assumption) (by assumption))

theorem execNoPlacement_kept {dv : Nat} (index : BitVec 16) (s : State) (h_s : Kept dv s) : OutKept dv (execNoPlacement index s) := by
  unfold execNoPlacement
  try dsimp only
  repeat' (first | with_reducible assumption | with_reducible apply done_kept | with_reducible apply State.drtLog_kept |
                 with_reducible apply State.dropActivation_kept | with_reducible apply State.logMiss_kept | (intro _) | split |
                 dsimp only [StepKept, OutKept, IssueKept, MicroKept, OptKept, done] | simp only [kept_mk_eq] |
                 with_reducible apply keptC_of | with_reducible apply keptC_marks | with_reducible apply keptC_regs |
                 with_reducible exact kept_fst (by assumption) (by assumption))

theorem execDeadlineMiss_kept {dv : Nat} (index : BitVec 16) (s : State) (h_s : Kept dv s) : OutKept dv (execDeadlineMiss index s) := by
  unfold execDeadlineMiss
  try dsimp only
  repeat' (first | with_reducible assumption | with_reducible apply done_kept | with_reducible apply State.exhaust_kept |
                 with_reducible apply State.logMiss_kept | (intro _) | split |
                 dsimp only [StepKept, OutKept, IssueKept, MicroKept, OptKept, done] | simp only [kept_mk_eq] |
                 with_reducible apply keptC_of | with_reducible apply keptC_marks | with_reducible apply keptC_regs |
                 with_reducible exact kept_fst (by assumption) (by assumption))

theorem execDistributorMove_kept {dv : Nat} (gallery : Fin 64) (s : State) (h_s : Kept dv s) : OutKept dv (execDistributorMove gallery
    s) := by
  unfold execDistributorMove
  try dsimp only
  repeat' (first | with_reducible assumption | with_reducible apply done_kept | with_reducible apply State.distribute_kept | (intro _) |
                 split | dsimp only [StepKept, OutKept, IssueKept, MicroKept, OptKept, done] | simp only [kept_mk_eq] |
                 with_reducible apply keptC_of | with_reducible apply keptC_marks | with_reducible apply keptC_regs |
                 with_reducible exact kept_fst (by assumption) (by assumption))

theorem execResultAccept_kept {dv : Nat} (index : BitVec 16) (s : State) (h_s : Kept dv s) : OutKept dv (execResultAccept index s) := by
  unfold execResultAccept
  try dsimp only
  repeat' (first | with_reducible assumption | with_reducible apply done_kept | with_reducible apply State.acceptResult_kept |
                 with_reducible apply State.dropActivation_kept | (intro _) | split |
                 dsimp only [StepKept, OutKept, IssueKept, MicroKept, OptKept, done] | simp only [kept_mk_eq] |
                 with_reducible apply keptC_of | with_reducible apply keptC_marks | with_reducible apply keptC_regs |
                 with_reducible exact kept_fst (by assumption) (by assumption))

theorem execCommit_kept {dv : Nat} (index : BitVec 16) (s : State) (h_s : Kept dv s) : OutKept dv (execCommit index s) := by
  unfold execCommit
  try dsimp only
  repeat' (first | with_reducible assumption | with_reducible apply done_kept | with_reducible apply State.commitResult_kept | (intro _)
                 | split | dsimp only [StepKept, OutKept, IssueKept, MicroKept, OptKept, done] | simp only [kept_mk_eq] |
                 with_reducible apply keptC_of | with_reducible apply keptC_marks | with_reducible apply keptC_regs |
                 with_reducible exact kept_fst (by assumption) (by assumption))

theorem State.overrun_kept {dv : Nat} (s : State) (h i : Nat) (h_s : Kept dv s) : Kept dv (State.overrun s h i) := by
  unfold State.overrun
  try dsimp only
  repeat' (first | with_reducible assumption | with_reducible apply State.modHew_kept | with_reducible apply State.tally_kept |
                 with_reducible apply State.dropActivation_kept | with_reducible apply State.logOverrun_kept |
                 with_reducible apply State.takeExc_kept | (intro _) | split |
                 dsimp only [StepKept, OutKept, IssueKept, MicroKept, OptKept, done] | simp only [kept_mk_eq] |
                 with_reducible apply keptC_of | with_reducible apply keptC_marks | with_reducible apply keptC_regs |
                 with_reducible exact kept_fst (by assumption) (by assumption))

theorem execBudgetExpiry_kept {dv : Nat} (h : HewerId) (s : State) (h_s : Kept dv s) : OutKept dv (execBudgetExpiry h s) := by
  unfold execBudgetExpiry
  try dsimp only
  repeat' (first | with_reducible assumption | with_reducible apply done_kept | with_reducible apply State.overrun_kept | (intro _) |
                 split | dsimp only [StepKept, OutKept, IssueKept, MicroKept, OptKept, done] | simp only [kept_mk_eq] |
                 with_reducible apply keptC_of | with_reducible apply keptC_marks | with_reducible apply keptC_regs |
                 with_reducible exact kept_fst (by assumption) (by assumption))

theorem State.drtEnSet_kept {dv : Nat} (s : State) (h_s : Kept dv s) : Kept dv (State.drtEnSet s) := by
  unfold State.drtEnSet
  try dsimp only
  repeat' (first | with_reducible assumption | with_reducible apply State.setFld_kept | with_reducible apply State.raise_kept |
                 (intro _) | split | dsimp only [StepKept, OutKept, IssueKept, MicroKept, OptKept, done] | simp only [kept_mk_eq] |
                 with_reducible apply keptC_of | with_reducible apply keptC_marks | with_reducible apply keptC_regs |
                 with_reducible exact kept_fst (by assumption) (by assumption))

theorem execDrtEnSet_kept {dv : Nat} (s : State) (h_s : Kept dv s) : OutKept dv (execDrtEnSet s) := by
  unfold execDrtEnSet
  try dsimp only
  repeat' (first | with_reducible assumption | with_reducible apply done_kept | with_reducible apply State.drtEnSet_kept | (intro _) |
                 split | dsimp only [StepKept, OutKept, IssueKept, MicroKept, OptKept, done] | simp only [kept_mk_eq] |
                 with_reducible apply keptC_of | with_reducible apply keptC_marks | with_reducible apply keptC_regs |
                 with_reducible exact kept_fst (by assumption) (by assumption))

theorem execRegionLocked_kept {dv : Nat} (s : State) (h_s : Kept dv s) : OutKept dv (execRegionLocked s) := by
  unfold execRegionLocked
  try dsimp only
  repeat' (first | with_reducible assumption | with_reducible apply State.setFld_kept | with_reducible apply State.mscLock_kept |
                 with_reducible apply done_kept | (intro _) | split |
                 dsimp only [StepKept, OutKept, IssueKept, MicroKept, OptKept, done] | simp only [kept_mk_eq] |
                 with_reducible apply keptC_of | with_reducible apply keptC_marks | with_reducible apply keptC_regs |
                 with_reducible exact kept_fst (by assumption) (by assumption))

theorem State.emptyDraught_kept {dv : Nat} (s : State) (h_s : Kept dv s) : Kept dv (State.emptyDraught s) := by
  unfold State.emptyDraught
  try dsimp only
  repeat' (first | with_reducible assumption | with_reducible apply State.discardAll_kept | (intro _) | split |
                 dsimp only [StepKept, OutKept, IssueKept, MicroKept, OptKept, done] | simp only [kept_mk_eq] |
                 with_reducible apply keptC_of | with_reducible apply keptC_marks | with_reducible apply keptC_regs |
                 with_reducible exact kept_fst (by assumption) (by assumption))

theorem State.drtEnClear_kept {dv : Nat} (s : State) (h_s : Kept dv s) : Kept dv (State.drtEnClear s) := by
  unfold State.drtEnClear
  try dsimp only
  repeat' (first | with_reducible assumption | with_reducible apply State.setFld_kept | with_reducible apply State.emptyDraught_kept |
                 (intro _) | split | dsimp only [StepKept, OutKept, IssueKept, MicroKept, OptKept, done] | simp only [kept_mk_eq] |
                 with_reducible apply keptC_of | with_reducible apply keptC_marks | with_reducible apply keptC_regs |
                 with_reducible exact kept_fst (by assumption) (by assumption))

theorem execDrtEnClear_kept {dv : Nat} (s : State) (h_s : Kept dv s) : OutKept dv (execDrtEnClear s) := by
  unfold execDrtEnClear
  try dsimp only
  repeat' (first | with_reducible assumption | with_reducible apply done_kept | with_reducible apply State.drtEnClear_kept | (intro _) |
                 split | dsimp only [StepKept, OutKept, IssueKept, MicroKept, OptKept, done] | simp only [kept_mk_eq] |
                 with_reducible apply keptC_of | with_reducible apply keptC_marks | with_reducible apply keptC_regs |
                 with_reducible exact kept_fst (by assumption) (by assumption))

theorem execTier1Steal_kept {dv : Nat} (h : HewerId) (s : State) (h_s : Kept dv s) : OutKept dv (execTier1Steal h s) := by
  unfold execTier1Steal
  try dsimp only
  repeat' (first | with_reducible assumption | with_reducible apply done_kept | with_reducible apply State.tier1_kept | (intro _) |
                 split | dsimp only [StepKept, OutKept, IssueKept, MicroKept, OptKept, done] | simp only [kept_mk_eq] |
                 with_reducible apply keptC_of | with_reducible apply keptC_marks | with_reducible apply keptC_regs |
                 with_reducible exact kept_fst (by assumption) (by assumption))

theorem execTier2Request_kept {dv : Nat} (gallery : Fin 64) (s : State) (h_s : Kept dv s) : OutKept dv (execTier2Request gallery s) :=
    by
  unfold execTier2Request
  try dsimp only
  repeat' (first | with_reducible assumption | with_reducible apply done_kept | (intro _) | split |
                 dsimp only [StepKept, OutKept, IssueKept, MicroKept, OptKept, done] | simp only [kept_mk_eq] |
                 with_reducible apply keptC_of | with_reducible apply keptC_marks | with_reducible apply keptC_regs |
                 with_reducible exact kept_fst (by assumption) (by assumption))

theorem execTier2Steal_kept {dv : Nat} (s : State) (h_s : Kept dv s) : OutKept dv (execTier2Steal s) := by
  unfold execTier2Steal
  try dsimp only
  repeat' (first | with_reducible assumption | with_reducible apply done_kept | with_reducible apply State.tier2_kept | (intro _) |
                 split | dsimp only [StepKept, OutKept, IssueKept, MicroKept, OptKept, done] | simp only [kept_mk_eq] |
                 with_reducible apply keptC_of | with_reducible apply keptC_marks | with_reducible apply keptC_regs |
                 with_reducible exact kept_fst (by assumption) (by assumption))

theorem execTier2CopyDone_kept {dv : Nat} (index : BitVec 16) (s : State) (h_s : Kept dv s) : OutKept dv (execTier2CopyDone index s) :=
    by
  unfold execTier2CopyDone
  try dsimp only
  repeat' (first | with_reducible assumption | with_reducible apply done_kept | with_reducible apply State.tier2Done_kept | (intro _) |
                 split | dsimp only [StepKept, OutKept, IssueKept, MicroKept, OptKept, done] | simp only [kept_mk_eq] |
                 with_reducible apply keptC_of | with_reducible apply keptC_marks | with_reducible apply keptC_regs |
                 with_reducible exact kept_fst (by assumption) (by assumption))

theorem execThreadRestore_kept {dv : Nat} (h : HewerId) (s : State) (h_s : Kept dv s) : OutKept dv (execThreadRestore h s) := by
  unfold execThreadRestore
  try dsimp only
  repeat' (first | with_reducible assumption | with_reducible apply done_kept | with_reducible apply State.restoreThread_kept |
                 (intro _) | split | dsimp only [StepKept, OutKept, IssueKept, MicroKept, OptKept, done] | simp only [kept_mk_eq] |
                 with_reducible apply keptC_of | with_reducible apply keptC_marks | with_reducible apply keptC_regs |
                 with_reducible exact kept_fst (by assumption) (by assumption))

theorem State.leftSince_kept {dv : Nat} (s old : State) (h_s : Kept dv s) (h_old : Kept dv old) : Kept dv (State.leftSince s old) := by
  unfold State.leftSince
  try dsimp only
  repeat' (first | with_reducible assumption | with_reducible apply State.leaveAll_kept | with_reducible apply State.settle_kept |
                 (intro _) | split | dsimp only [StepKept, OutKept, IssueKept, MicroKept, OptKept, done] | simp only [kept_mk_eq] |
                 with_reducible apply keptC_of | with_reducible apply keptC_marks | with_reducible apply keptC_regs |
                 with_reducible exact kept_fst (by assumption) (by assumption))

theorem State.hewerPoolWrite_kept {dv : Nat} (s : State) (k : Nat) (v : Word) (h_s : Kept dv s) : Kept dv (State.hewerPoolWrite s k v)
    := by
  unfold State.hewerPoolWrite
  try dsimp only
  repeat' (first | with_reducible assumption | with_reducible apply State.setReg_kept | with_reducible apply State.leftSince_kept |
                 (intro _) | split | dsimp only [StepKept, OutKept, IssueKept, MicroKept, OptKept, done] | simp only [kept_mk_eq] |
                 with_reducible apply keptC_of | with_reducible apply keptC_marks | with_reducible apply keptC_regs |
                 with_reducible exact kept_fst (by assumption) (by assumption))

theorem execHewerPoolWrite_kept {dv : Nat} (k : Fin 8) (value : Word) (s : State) (h_s : Kept dv s) : OutKept dv (execHewerPoolWrite k
    value s) := by
  unfold execHewerPoolWrite
  try dsimp only
  repeat' (first | with_reducible assumption | with_reducible apply done_kept | with_reducible apply State.hewerPoolWrite_kept |
                 (intro _) | split | dsimp only [StepKept, OutKept, IssueKept, MicroKept, OptKept, done] | simp only [kept_mk_eq] |
                 with_reducible apply keptC_of | with_reducible apply keptC_marks | with_reducible apply keptC_regs |
                 with_reducible exact kept_fst (by assumption) (by assumption))

theorem State.galleryPoolWrite_kept {dv : Nat} (s : State) (v : Word) (h_s : Kept dv s) : Kept dv (State.galleryPoolWrite s v) := by
  unfold State.galleryPoolWrite
  try dsimp only
  repeat' (first | with_reducible assumption | with_reducible apply State.setReg_kept | with_reducible apply State.leftSince_kept |
                 (intro _) | split | dsimp only [StepKept, OutKept, IssueKept, MicroKept, OptKept, done] | simp only [kept_mk_eq] |
                 with_reducible apply keptC_of | with_reducible apply keptC_marks | with_reducible apply keptC_regs |
                 with_reducible exact kept_fst (by assumption) (by assumption))

theorem execGalleryPoolWrite_kept {dv : Nat} (value : Word) (s : State) (h_s : Kept dv s) : OutKept dv (execGalleryPoolWrite value s) :=
    by
  unfold execGalleryPoolWrite
  try dsimp only
  repeat' (first | with_reducible assumption | with_reducible apply done_kept | with_reducible apply State.galleryPoolWrite_kept |
                 (intro _) | split | dsimp only [StepKept, OutKept, IssueKept, MicroKept, OptKept, done] | simp only [kept_mk_eq] |
                 with_reducible apply keptC_of | with_reducible apply keptC_marks | with_reducible apply keptC_regs |
                 with_reducible exact kept_fst (by assumption) (by assumption))

theorem execLodeWriteApply_kept {dv : Nat} (s : State) (h_s : Kept dv s) : OutKept dv (execLodeWriteApply s) := by
  unfold execLodeWriteApply
  try dsimp only
  repeat' (first | with_reducible assumption | with_reducible apply done_kept | with_reducible apply State.markStall_kept |
                 with_reducible apply State.lodeApply_kept | (intro _) | split |
                 dsimp only [StepKept, OutKept, IssueKept, MicroKept, OptKept, done] | simp only [kept_mk_eq] |
                 with_reducible apply keptC_of | with_reducible apply keptC_marks | with_reducible apply keptC_regs |
                 with_reducible exact kept_fst (by assumption) (by assumption))

theorem State.swrCtlWrite_kept {dv : Nat} (s : State) (loc v : Nat) (h_s : Kept dv s) : Kept dv (State.swrCtlWrite s loc v) := by
  unfold State.swrCtlWrite
  try dsimp only
  repeat' (first | with_reducible assumption | with_reducible apply State.setFld_kept | with_reducible apply State.lodeSend_kept |
                 (intro _) | split | dsimp only [StepKept, OutKept, IssueKept, MicroKept, OptKept, done] | simp only [kept_mk_eq] |
                 with_reducible apply keptC_of | with_reducible apply keptC_marks | with_reducible apply keptC_regs |
                 with_reducible exact kept_fst (by assumption) (by assumption))

theorem execSoftwareWrite_kept {dv : Nat} (loc : BitVec 12) (value : Word32) (s : State) (h_s : Kept dv s) : OutKept dv
    (execSoftwareWrite loc value s) := by
  unfold execSoftwareWrite
  try dsimp only
  repeat' (first | with_reducible assumption | with_reducible apply done_kept | with_reducible apply State.swrCtlWrite_kept | (intro _)
                 | split | dsimp only [StepKept, OutKept, IssueKept, MicroKept, OptKept, done] | simp only [kept_mk_eq] |
                 with_reducible apply keptC_of | with_reducible apply keptC_marks | with_reducible apply keptC_regs |
                 with_reducible exact kept_fst (by assumption) (by assumption))

theorem State.frcCtlWrite_kept {dv : Nat} (s : State) (loc v : Nat) (h_s : Kept dv s) : Kept dv (State.frcCtlWrite s loc v) := by
  unfold State.frcCtlWrite
  try dsimp only
  repeat' (first | with_reducible assumption | with_reducible apply State.lodeSend_kept | (intro _) | split |
                 dsimp only [StepKept, OutKept, IssueKept, MicroKept, OptKept, done] | simp only [kept_mk_eq] |
                 with_reducible apply keptC_of | with_reducible apply keptC_marks | with_reducible apply keptC_regs |
                 with_reducible exact kept_fst (by assumption) (by assumption))

theorem execForceSet_kept {dv : Nat} (loc : BitVec 12) (s : State) (h_s : Kept dv s) : OutKept dv (execForceSet loc s) := by
  unfold execForceSet
  try dsimp only
  repeat' (first | with_reducible assumption | with_reducible apply done_kept | with_reducible apply State.frcCtlWrite_kept | (intro _)
                 | split | dsimp only [StepKept, OutKept, IssueKept, MicroKept, OptKept, done] | simp only [kept_mk_eq] |
                 with_reducible apply keptC_of | with_reducible apply keptC_marks | with_reducible apply keptC_regs |
                 with_reducible exact kept_fst (by assumption) (by assumption))

theorem execForceClear_kept {dv : Nat} (loc : BitVec 12) (s : State) (h_s : Kept dv s) : OutKept dv (execForceClear loc s) := by
  unfold execForceClear
  try dsimp only
  repeat' (first | with_reducible assumption | with_reducible apply done_kept | with_reducible apply State.frcCtlWrite_kept | (intro _)
                 | split | dsimp only [StepKept, OutKept, IssueKept, MicroKept, OptKept, done] | simp only [kept_mk_eq] |
                 with_reducible apply keptC_of | with_reducible apply keptC_marks | with_reducible apply keptC_regs |
                 with_reducible exact kept_fst (by assumption) (by assumption))

theorem State.advanceWrite_kept {dv : Nat} (s : State) (v : Nat) (h_s : Kept dv s) : Kept dv (State.advanceWrite s v) := by
  unfold State.advanceWrite
  try dsimp only
  repeat' (first | with_reducible assumption | with_reducible apply State.requestAdvance_kept | (intro _) | split |
                 dsimp only [StepKept, OutKept, IssueKept, MicroKept, OptKept, done] | simp only [kept_mk_eq] |
                 with_reducible apply keptC_of | with_reducible apply keptC_marks | with_reducible apply keptC_regs |
                 with_reducible exact kept_fst (by assumption) (by assumption))

theorem execLodAdvance_kept {dv : Nat} (s : State) (h_s : Kept dv s) : OutKept dv (execLodAdvance s) := by
  unfold execLodAdvance
  try dsimp only
  repeat' (first | with_reducible assumption | with_reducible apply done_kept | with_reducible apply State.advanceWrite_kept | (intro _)
                 | split | dsimp only [StepKept, OutKept, IssueKept, MicroKept, OptKept, done] | simp only [kept_mk_eq] |
                 with_reducible apply keptC_of | with_reducible apply keptC_marks | with_reducible apply keptC_regs |
                 with_reducible exact kept_fst (by assumption) (by assumption))

theorem execEpochClose_kept {dv : Nat} (s : State) (h_s : Kept dv s) : OutKept dv (execEpochClose s) := by
  unfold execEpochClose
  try dsimp only
  repeat' (first | with_reducible assumption | with_reducible apply done_kept | with_reducible apply State.closeEpoch_kept |
                 with_reducible apply State.notifyAll_kept | (intro _) | split |
                 dsimp only [StepKept, OutKept, IssueKept, MicroKept, OptKept, done] | simp only [kept_mk_eq] |
                 with_reducible apply keptC_of | with_reducible apply keptC_marks | with_reducible apply keptC_regs |
                 with_reducible exact kept_fst (by assumption) (by assumption))

theorem State.winCommitWrite_kept {dv : Nat} (s : State) (v : Word) (h_s : Kept dv s) : Kept dv (State.winCommitWrite s v) := by
  unfold State.winCommitWrite
  try dsimp only
  repeat' (first | with_reducible assumption | with_reducible apply State.setReg_kept | (intro _) | split |
                 dsimp only [StepKept, OutKept, IssueKept, MicroKept, OptKept, done] | simp only [kept_mk_eq] |
                 with_reducible apply keptC_of | with_reducible apply keptC_marks | with_reducible apply keptC_regs |
                 with_reducible exact kept_fst (by assumption) (by assumption))

theorem execLodWinCommit_kept {dv : Nat} (mask : Word) (s : State) (h_s : Kept dv s) : OutKept dv (execLodWinCommit mask s) := by
  unfold execLodWinCommit
  try dsimp only
  repeat' (first | with_reducible assumption | with_reducible apply done_kept | with_reducible apply State.winCommitWrite_kept |
                 (intro _) | split | dsimp only [StepKept, OutKept, IssueKept, MicroKept, OptKept, done] | simp only [kept_mk_eq] |
                 with_reducible apply keptC_of | with_reducible apply keptC_marks | with_reducible apply keptC_regs |
                 with_reducible exact kept_fst (by assumption) (by assumption))

theorem State.copyWindows_kept {dv : Nat} (s : State) (mask n w : Nat) (h_s : Kept dv s) : Kept dv (State.copyWindows s mask n w) := by
  fun_induction State.copyWindows s mask n w
  all_goals (repeat' (first | with_reducible assumption | (rename_i ih; with_reducible apply ih) | with_reducible apply State.copyWindow_kept |
                            (intro _) | split | dsimp only [StepKept, OutKept, IssueKept, MicroKept, OptKept, done] |
                            simp only [kept_mk_eq] | with_reducible apply keptC_of | with_reducible apply keptC_marks |
                            with_reducible apply keptC_regs | with_reducible exact kept_fst (by assumption) (by assumption)))
  all_goals first | done | simp_all

theorem execWindowCommitEffect_kept {dv : Nat} (s : State) (h_s : Kept dv s) : OutKept dv (execWindowCommitEffect s) := by
  unfold execWindowCommitEffect
  try dsimp only
  repeat' (first | with_reducible assumption | with_reducible apply State.setReg_kept | with_reducible apply done_kept |
                 with_reducible apply State.copyWindows_kept | (intro _) | split |
                 dsimp only [StepKept, OutKept, IssueKept, MicroKept, OptKept, done] | simp only [kept_mk_eq] |
                 with_reducible apply keptC_of | with_reducible apply keptC_marks | with_reducible apply keptC_regs |
                 with_reducible exact kept_fst (by assumption) (by assumption))

theorem State.cfgDataWrite_kept {dv : Nat} (s : State) (v : Nat) (h_s : Kept dv s) : Kept dv (State.cfgDataWrite s v) := by
  unfold State.cfgDataWrite
  try dsimp only
  repeat' (first | with_reducible assumption | with_reducible apply State.setFld_kept | with_reducible apply State.lodeSend_kept |
                 (intro _) | split | dsimp only [StepKept, OutKept, IssueKept, MicroKept, OptKept, done] | simp only [kept_mk_eq] |
                 with_reducible apply keptC_of | with_reducible apply keptC_marks | with_reducible apply keptC_regs |
                 with_reducible exact kept_fst (by assumption) (by assumption))

theorem execLodCfgDataWrite_kept {dv : Nat} (value : Word32) (s : State) (h_s : Kept dv s) : OutKept dv (execLodCfgDataWrite value s) :=
    by
  unfold execLodCfgDataWrite
  try dsimp only
  repeat' (first | with_reducible assumption | with_reducible apply done_kept | with_reducible apply State.cfgDataWrite_kept | (intro _)
                 | split | dsimp only [StepKept, OutKept, IssueKept, MicroKept, OptKept, done] | simp only [kept_mk_eq] |
                 with_reducible apply keptC_of | with_reducible apply keptC_marks | with_reducible apply keptC_regs |
                 with_reducible exact kept_fst (by assumption) (by assumption))

theorem State.lateAdvances_kept {dv : Nat} (s : State) (l : List Nat) (h_s : Kept dv s) : Kept dv (State.lateAdvances s l) := by
  fun_induction State.lateAdvances s l
  all_goals (repeat' (first | with_reducible assumption | (rename_i ih; with_reducible apply ih) | with_reducible apply State.advance_kept |
                            (intro _) | split | dsimp only [StepKept, OutKept, IssueKept, MicroKept, OptKept, done] |
                            simp only [kept_mk_eq] | with_reducible apply keptC_of | with_reducible apply keptC_marks |
                            with_reducible apply keptC_regs | with_reducible exact kept_fst (by assumption) (by assumption)))
  all_goals first | done | simp_all

theorem State.initComplete_kept {dv : Nat} (s : State) (h_s : Kept dv s) : Kept dv (State.initComplete s) := by
  unfold State.initComplete
  try dsimp only
  repeat' (first | with_reducible assumption | with_reducible apply State.raise_kept | with_reducible apply State.lateAdvances_kept |
                 (intro _) | split | dsimp only [StepKept, OutKept, IssueKept, MicroKept, OptKept, done] | simp only [kept_mk_eq] |
                 with_reducible apply keptC_of | with_reducible apply keptC_marks | with_reducible apply keptC_regs |
                 with_reducible exact kept_fst (by assumption) (by assumption))

theorem execInitDone_kept {dv : Nat} (s : State) (h_s : Kept dv s) : OutKept dv (execInitDone s) := by
  unfold execInitDone
  try dsimp only
  repeat' (first | with_reducible assumption | with_reducible apply done_kept | with_reducible apply State.initComplete_kept | (intro _)
                 | split | dsimp only [StepKept, OutKept, IssueKept, MicroKept, OptKept, done] | simp only [kept_mk_eq] |
                 with_reducible apply keptC_of | with_reducible apply keptC_marks | with_reducible apply keptC_regs |
                 with_reducible exact kept_fst (by assumption) (by assumption))

theorem State.scrubTags_kept {dv : Nat} (s : State) (slot : Nat) (h_s : Kept dv s) : Kept dv (State.scrubTags s slot) := by
  unfold State.scrubTags
  try dsimp only
  repeat' (first | with_reducible assumption | with_reducible apply State.setSlot_kept | (intro _) | split |
                 dsimp only [StepKept, OutKept, IssueKept, MicroKept, OptKept, done] | simp only [kept_mk_eq] |
                 with_reducible apply keptC_of | with_reducible apply keptC_marks | with_reducible apply keptC_regs |
                 with_reducible exact kept_fst (by assumption) (by assumption))

theorem execLodeScrub_kept {dv : Nat} (slot : Fin 262144) (zero uncorrectable : Bool) (s : State) (h_s : Kept dv s) : OutKept dv
    (execLodeScrub slot zero uncorrectable s) := by
  unfold execLodeScrub
  try dsimp only
  repeat' (first | with_reducible assumption | with_reducible apply done_kept | with_reducible apply State.poisonCopy_kept |
                 with_reducible apply State.scrubTags_kept | (intro _) | split |
                 dsimp only [StepKept, OutKept, IssueKept, MicroKept, OptKept, done] | simp only [kept_mk_eq] |
                 with_reducible apply keptC_of | with_reducible apply keptC_marks | with_reducible apply keptC_regs |
                 with_reducible exact kept_fst (by assumption) (by assumption))

theorem State.romJump_kept {dv : Nat} (s : State) (h entry : Nat) (h_s : Kept dv s) : Kept dv (State.romJump s h entry) := by
  unfold State.romJump
  try dsimp only
  repeat' (first | with_reducible assumption | with_reducible apply State.modHew_kept | (intro _) | split |
                 dsimp only [StepKept, OutKept, IssueKept, MicroKept, OptKept, done] | simp only [kept_mk_eq] |
                 with_reducible apply keptC_of | with_reducible apply keptC_marks | with_reducible apply keptC_regs |
                 with_reducible exact kept_fst (by assumption) (by assumption))

theorem State.romWait_kept {dv : Nat} (s : State) (h : Nat) (h_s : Kept dv s) : Kept dv (State.romWait s h) := by
  unfold State.romWait
  try dsimp only
  repeat' (first | with_reducible assumption | with_reducible apply State.setFld_kept | with_reducible apply State.modHew_kept |
                 (intro _) | split | dsimp only [StepKept, OutKept, IssueKept, MicroKept, OptKept, done] | simp only [kept_mk_eq] |
                 with_reducible apply keptC_of | with_reducible apply keptC_marks | with_reducible apply keptC_regs |
                 with_reducible exact kept_fst (by assumption) (by assumption))

theorem State.romStart_kept {dv : Nat} (s : State) (h : Nat) (h_s : Kept dv s) : Kept dv (State.romStart s h) := by
  unfold State.romStart
  try dsimp only
  repeat' (first | with_reducible assumption | with_reducible apply State.romJump_kept | with_reducible apply State.romWait_kept |
                 (intro _) | split | dsimp only [StepKept, OutKept, IssueKept, MicroKept, OptKept, done] | simp only [kept_mk_eq] |
                 with_reducible apply keptC_of | with_reducible apply keptC_marks | with_reducible apply keptC_regs |
                 with_reducible exact kept_fst (by assumption) (by assumption))

theorem State.romHandler_kept {dv : Nat} (s : State) (h : Nat) (h_s : Kept dv s) : Kept dv (State.romHandler s h) := by
  unfold State.romHandler
  try dsimp only
  repeat' (first | with_reducible assumption | with_reducible apply State.modHew_kept | with_reducible apply State.romJump_kept |
                 (intro _) | split | dsimp only [StepKept, OutKept, IssueKept, MicroKept, OptKept, done] | simp only [kept_mk_eq] |
                 with_reducible apply keptC_of | with_reducible apply keptC_marks | with_reducible apply keptC_regs |
                 with_reducible exact kept_fst (by assumption) (by assumption))

theorem State.romRun_kept {dv : Nat} (s : State) (h : Nat) (h_s : Kept dv s) : Kept dv (State.romRun s h) := by
  unfold State.romRun
  try dsimp only
  repeat' (first | with_reducible assumption | with_reducible apply State.romStart_kept | with_reducible apply State.romHandler_kept |
                 (intro _) | split | dsimp only [StepKept, OutKept, IssueKept, MicroKept, OptKept, done] | simp only [kept_mk_eq] |
                 with_reducible apply keptC_of | with_reducible apply keptC_marks | with_reducible apply keptC_regs |
                 with_reducible exact kept_fst (by assumption) (by assumption))

theorem State.romTick_kept {dv : Nat} (s : State) (h_s : Kept dv s) : Kept dv (State.romTick s) := by
  unfold State.romTick
  try dsimp only
  repeat' (first | with_reducible assumption | with_reducible apply State.romRun_kept | with_reducible apply foldl_kept | (intro _) |
                 split | dsimp only [StepKept, OutKept, IssueKept, MicroKept, OptKept, done] | simp only [kept_mk_eq] |
                 with_reducible apply keptC_of | with_reducible apply keptC_marks | with_reducible apply keptC_regs |
                 with_reducible exact kept_fst (by assumption) (by assumption))

end Sys2Proof.Machine
end

