-- ==== Sys2Proof/Laws/KeptTime.lean ====
section
/-! SUPPORT. One lemma per operation: it keeps the memory canonical and the device number: plant time, interrupts, canaries and faults. -/

namespace Sys2Proof.Machine


theorem State.toSync_kept {dv : Nat} (s : State) (new : Nat) (h_s : Kept dv s) : Kept dv (State.toSync s new) := by
  unfold State.toSync
  try dsimp only
  repeat' (first | with_reducible assumption | with_reducible apply State.setFld_kept | with_reducible apply State.log_kept | (intro _)
                 | split | dsimp only [StepKept, OutKept, IssueKept, MicroKept, OptKept, done] | simp only [kept_mk_eq] |
                 with_reducible apply keptC_of | with_reducible apply keptC_marks | with_reducible apply keptC_regs |
                 with_reducible exact kept_fst (by assumption) (by assumption))

theorem State.setRate_kept {dv : Nat} (s : State) (r : Int) (h_s : Kept dv s) : Kept dv (State.setRate s r) := by
  unfold State.setRate
  try dsimp only
  repeat' (first | with_reducible assumption | with_reducible apply State.setReg_kept | with_reducible apply State.setFld_kept |
                 (intro _) | split | dsimp only [StepKept, OutKept, IssueKept, MicroKept, OptKept, done] | simp only [kept_mk_eq] |
                 with_reducible apply keptC_of | with_reducible apply keptC_marks | with_reducible apply keptC_regs |
                 with_reducible exact kept_fst (by assumption) (by assumption))

theorem State.unfollow_kept {dv : Nat} (s : State) (new : Nat) (h_s : Kept dv s) : Kept dv (State.unfollow s new) := by
  unfold State.unfollow
  try dsimp only
  repeat' (first | with_reducible assumption | with_reducible apply State.setFld_kept | with_reducible apply State.toSync_kept |
                 (intro _) | split | dsimp only [StepKept, OutKept, IssueKept, MicroKept, OptKept, done] | simp only [kept_mk_eq] |
                 with_reducible apply keptC_of | with_reducible apply keptC_marks | with_reducible apply keptC_regs |
                 with_reducible exact kept_fst (by assumption) (by assumption))

theorem State.syncLost_kept {dv : Nat} (s : State) (h_s : Kept dv s) : Kept dv (State.syncLost s) := by
  unfold State.syncLost
  try dsimp only
  repeat' (first | with_reducible assumption | with_reducible apply State.setFld_kept | with_reducible apply State.setRate_kept |
                 with_reducible apply State.unfollow_kept | (intro _) | split |
                 dsimp only [StepKept, OutKept, IssueKept, MicroKept, OptKept, done] | simp only [kept_mk_eq] |
                 with_reducible apply keptC_of | with_reducible apply keptC_marks | with_reducible apply keptC_regs |
                 with_reducible exact kept_fst (by assumption) (by assumption))

theorem State.acquire_kept {dv : Nat} (s : State) (m port : Nat) (h_s : Kept dv s) : Kept dv (State.acquire s m port) := by
  unfold State.acquire
  try dsimp only
  repeat' (first | with_reducible assumption | with_reducible apply State.setFld_kept | with_reducible apply State.toSync_kept |
                 (intro _) | split | dsimp only [StepKept, OutKept, IssueKept, MicroKept, OptKept, done] | simp only [kept_mk_eq] |
                 with_reducible apply keptC_of | with_reducible apply keptC_marks | with_reducible apply keptC_regs |
                 with_reducible exact kept_fst (by assumption) (by assumption))

theorem State.holdover_kept {dv : Nat} (s : State) (h_s : Kept dv s) : Kept dv (State.holdover s) := by
  unfold State.holdover
  try dsimp only
  repeat' (first | with_reducible assumption | with_reducible apply State.setRate_kept | with_reducible apply State.unfollow_kept |
                 with_reducible apply foldl_kept | (intro _) | split |
                 dsimp only [StepKept, OutKept, IssueKept, MicroKept, OptKept, done] | simp only [kept_mk_eq] |
                 with_reducible apply keptC_of | with_reducible apply keptC_marks | with_reducible apply keptC_regs |
                 with_reducible exact kept_fst (by assumption) (by assumption))

theorem State.lockLost_kept {dv : Nat} (s : State) (h_s : Kept dv s) : Kept dv (State.lockLost s) := by
  unfold State.lockLost
  try dsimp only
  repeat' (first | with_reducible assumption | with_reducible apply State.count_kept | with_reducible apply State.holdover_kept |
                 (intro _) | split | dsimp only [StepKept, OutKept, IssueKept, MicroKept, OptKept, done] | simp only [kept_mk_eq] |
                 with_reducible apply keptC_of | with_reducible apply keptC_marks | with_reducible apply keptC_regs |
                 with_reducible exact kept_fst (by assumption) (by assumption))

theorem State.stepTo_kept {dv : Nat} (s : State) (t : Nat) (h_s : Kept dv s) : Kept dv (State.stepTo s t) := by
  unfold State.stepTo
  try dsimp only
  repeat' (first | with_reducible assumption | (intro _) | split | dsimp only [StepKept, OutKept, IssueKept, MicroKept, OptKept, done] |
                 simp only [kept_mk_eq] | with_reducible apply keptC_of | with_reducible apply keptC_marks |
                 with_reducible apply keptC_regs | with_reducible exact kept_fst (by assumption) (by assumption))

theorem State.servo_kept {dv : Nat} (s : State) (off : Int) (n : Nat) (h_s : Kept dv s) : Kept dv (State.servo s off n) := by
  unfold State.servo
  try dsimp only
  repeat' (first | with_reducible assumption | with_reducible apply State.setRate_kept | (intro _) | split |
                 dsimp only [StepKept, OutKept, IssueKept, MicroKept, OptKept, done] | simp only [kept_mk_eq] |
                 with_reducible apply keptC_of | with_reducible apply keptC_marks | with_reducible apply keptC_regs |
                 with_reducible exact kept_fst (by assumption) (by assumption))

theorem State.servoRun_kept {dv : Nat} (s : State) (m : Nat) (off : Int) (h_s : Kept dv s) : Kept dv (State.servoRun s m off) := by
  unfold State.servoRun
  try dsimp only
  repeat' (first | with_reducible assumption | with_reducible apply State.servo_kept | (intro _) | split |
                 dsimp only [StepKept, OutKept, IssueKept, MicroKept, OptKept, done] | simp only [kept_mk_eq] |
                 with_reducible apply keptC_of | with_reducible apply keptC_marks | with_reducible apply keptC_regs |
                 with_reducible exact kept_fst (by assumption) (by assumption))

theorem State.firstOffset_kept {dv : Nat} (s : State) (off : Int) (master : Nat) (h_s : Kept dv s) : Kept dv (State.firstOffset s off
    master) := by
  unfold State.firstOffset
  try dsimp only
  repeat' (first | with_reducible assumption | with_reducible apply State.setFld_kept | with_reducible apply State.stepTo_kept |
                 (intro _) | split | dsimp only [StepKept, OutKept, IssueKept, MicroKept, OptKept, done] | simp only [kept_mk_eq] |
                 with_reducible apply keptC_of | with_reducible apply keptC_marks | with_reducible apply keptC_regs |
                 with_reducible exact kept_fst (by assumption) (by assumption))

theorem State.syncCounts_kept {dv : Nat} (s : State) (off : Int) (h_s : Kept dv s) : Kept dv (State.syncCounts s off) := by
  unfold State.syncCounts
  try dsimp only
  repeat' (first | with_reducible assumption | with_reducible apply State.toSync_kept | with_reducible apply State.lockLost_kept |
                 (intro _) | split | dsimp only [StepKept, OutKept, IssueKept, MicroKept, OptKept, done] | simp only [kept_mk_eq] |
                 with_reducible apply keptC_of | with_reducible apply keptC_marks | with_reducible apply keptC_regs |
                 with_reducible exact kept_fst (by assumption) (by assumption))

theorem State.setOffset_kept {dv : Nat} (s : State) (off : Int) (h_s : Kept dv s) : Kept dv (State.setOffset s off) := by
  unfold State.setOffset
  try dsimp only
  repeat' (first | with_reducible assumption | with_reducible apply State.setReg_kept | (intro _) | split |
                 dsimp only [StepKept, OutKept, IssueKept, MicroKept, OptKept, done] | simp only [kept_mk_eq] |
                 with_reducible apply keptC_of | with_reducible apply keptC_marks | with_reducible apply keptC_regs |
                 with_reducible exact kept_fst (by assumption) (by assumption))

theorem State.measureSync_kept {dv : Nat} (s : State) (m masterTime : Nat) (log : Int) (h_s : Kept dv s) : Kept dv (State.measureSync s
    m masterTime log) := by
  unfold State.measureSync
  try dsimp only
  repeat' (first | with_reducible assumption | with_reducible apply State.servoRun_kept | with_reducible apply State.firstOffset_kept |
                 with_reducible apply State.syncCounts_kept | with_reducible apply State.setOffset_kept | (intro _) | split |
                 dsimp only [StepKept, OutKept, IssueKept, MicroKept, OptKept, done] | simp only [kept_mk_eq] |
                 with_reducible apply keptC_of | with_reducible apply keptC_marks | with_reducible apply keptC_regs |
                 with_reducible exact kept_fst (by assumption) (by assumption))

theorem State.syncReceived_kept {dv : Nat} (s : State) (port m : Nat) (std : Bool) (t log : Int) (hops : Nat) (h_s : Kept dv s) : Kept
    dv (State.syncReceived s port m std t log hops) := by
  unfold State.syncReceived
  try dsimp only
  repeat' (first | with_reducible assumption | with_reducible apply State.setFld_kept | with_reducible apply State.raise_kept |
                 with_reducible apply State.acquire_kept | with_reducible apply State.measureSync_kept | (intro _) | split |
                 dsimp only [StepKept, OutKept, IssueKept, MicroKept, OptKept, done] | simp only [kept_mk_eq] |
                 with_reducible apply keptC_of | with_reducible apply keptC_marks | with_reducible apply keptC_regs |
                 with_reducible exact kept_fst (by assumption) (by assumption))

theorem execSyncReceived_kept {dv : Nat} (port : Fin 8) (master : Word) (std : Bool) (seconds : BitVec 64) (ns : Word32) (sub : BitVec
    16) (log hops : BitVec 8) (s : State) (h_s : Kept dv s) : OutKept dv (execSyncReceived port master std seconds ns sub log hops s) :=
    by
  unfold execSyncReceived
  try dsimp only
  repeat' (first | with_reducible assumption | with_reducible apply done_kept | with_reducible apply State.syncReceived_kept | (intro _)
                 | split | dsimp only [StepKept, OutKept, IssueKept, MicroKept, OptKept, done] | simp only [kept_mk_eq] |
                 with_reducible apply keptC_of | with_reducible apply keptC_marks | with_reducible apply keptC_regs |
                 with_reducible exact kept_fst (by assumption) (by assumption))

theorem State.setPort_kept {dv : Nat} (s : State) (p : Nat) (x : PlkPort) (h_s : Kept dv s) : Kept dv (State.setPort s p x) := by
  unfold State.setPort
  try dsimp only
  repeat' (first | with_reducible assumption | (intro _) | split | dsimp only [StepKept, OutKept, IssueKept, MicroKept, OptKept, done] |
                 simp only [kept_mk_eq] | with_reducible apply keptC_of | with_reducible apply keptC_marks |
                 with_reducible apply keptC_regs | with_reducible exact kept_fst (by assumption) (by assumption))

theorem State.modPort_kept {dv : Nat} (s : State) (p : Nat) (f : PlkPort → PlkPort) (h_s : Kept dv s) : Kept dv (State.modPort s p f) :=
    by
  unfold State.modPort
  try dsimp only
  repeat' (first | with_reducible assumption | with_reducible apply State.setPort_kept | (intro _) | split |
                 dsimp only [StepKept, OutKept, IssueKept, MicroKept, OptKept, done] | simp only [kept_mk_eq] |
                 with_reducible apply keptC_of | with_reducible apply keptC_marks | with_reducible apply keptC_regs |
                 with_reducible exact kept_fst (by assumption) (by assumption))

theorem State.putGptp_kept {dv : Nat} (s : State) (port kind info : Nat) (h_s : Kept dv s) : Kept dv (State.putGptp s port kind info) :=
    by
  unfold State.putGptp
  try dsimp only
  repeat' (first | with_reducible assumption | with_reducible apply State.stamp_kept | with_reducible apply State.emit_kept | (intro _)
                 | split | dsimp only [StepKept, OutKept, IssueKept, MicroKept, OptKept, done] | simp only [kept_mk_eq] |
                 with_reducible apply keptC_of | with_reducible apply keptC_marks | with_reducible apply keptC_regs |
                 with_reducible exact kept_fst (by assumption) (by assumption))

theorem State.sendGptp_kept {dv : Nat} (s : State) (port kind info : Nat) (h_s : Kept dv s) : Kept dv (State.sendGptp s port kind info)
    := by
  unfold State.sendGptp
  try dsimp only
  repeat' (first | with_reducible assumption | with_reducible apply State.setPort_kept | with_reducible apply State.putGptp_kept |
                 (intro _) | split | dsimp only [StepKept, OutKept, IssueKept, MicroKept, OptKept, done] | simp only [kept_mk_eq] |
                 with_reducible apply keptC_of | with_reducible apply keptC_marks | with_reducible apply keptC_regs |
                 with_reducible exact kept_fst (by assumption) (by assumption))

theorem State.announce_kept {dv : Nat} (s : State) (h_s : Kept dv s) : Kept dv (State.announce s) := by
  unfold State.announce
  try dsimp only
  repeat' (first | with_reducible assumption | with_reducible apply State.sendGptp_kept | with_reducible apply foldl_kept | (intro _) |
                 split | dsimp only [StepKept, OutKept, IssueKept, MicroKept, OptKept, done] | simp only [kept_mk_eq] |
                 with_reducible apply keptC_of | with_reducible apply keptC_marks | with_reducible apply keptC_regs |
                 with_reducible exact kept_fst (by assumption) (by assumption))

theorem State.bmca_kept {dv : Nat} (s : State) (isSelf : Bool) (m port hops : Nat) (h_s : Kept dv s) : Kept dv (State.bmca s isSelf m
    port hops) := by
  unfold State.bmca
  try dsimp only
  repeat' (first | with_reducible assumption | with_reducible apply State.setReg_kept | with_reducible apply State.setFld_kept |
                 with_reducible apply State.toSync_kept | with_reducible apply State.acquire_kept |
                 with_reducible apply State.announce_kept | (intro _) | split |
                 dsimp only [StepKept, OutKept, IssueKept, MicroKept, OptKept, done] | simp only [kept_mk_eq] |
                 with_reducible apply keptC_of | with_reducible apply keptC_marks | with_reducible apply keptC_regs |
                 with_reducible exact kept_fst (by assumption) (by assumption))

theorem execBmcaSelection_kept {dv : Nat} (isSelf : Bool) (master : Word) (port : Fin 8) (hops : BitVec 8) (s : State) (h_s : Kept dv s)
    : OutKept dv (execBmcaSelection isSelf master port hops s) := by
  unfold execBmcaSelection
  try dsimp only
  repeat' (first | with_reducible assumption | with_reducible apply done_kept | with_reducible apply State.bmca_kept | (intro _) | split
                 | dsimp only [StepKept, OutKept, IssueKept, MicroKept, OptKept, done] | simp only [kept_mk_eq] |
                 with_reducible apply keptC_of | with_reducible apply keptC_marks | with_reducible apply keptC_regs |
                 with_reducible exact kept_fst (by assumption) (by assumption))

theorem execSyncTimeout_kept {dv : Nat} (s : State) (h_s : Kept dv s) : OutKept dv (execSyncTimeout s) := by
  unfold execSyncTimeout
  try dsimp only
  repeat' (first | with_reducible assumption | with_reducible apply done_kept | with_reducible apply State.unfollow_kept |
                 with_reducible apply State.holdover_kept | with_reducible apply State.lockLost_kept | (intro _) | split |
                 dsimp only [StepKept, OutKept, IssueKept, MicroKept, OptKept, done] | simp only [kept_mk_eq] |
                 with_reducible apply keptC_of | with_reducible apply keptC_marks | with_reducible apply keptC_regs |
                 with_reducible exact kept_fst (by assumption) (by assumption))

theorem execHoldoverExpiry_kept {dv : Nat} (s : State) (h_s : Kept dv s) : OutKept dv (execHoldoverExpiry s) := by
  unfold execHoldoverExpiry
  try dsimp only
  repeat' (first | with_reducible assumption | with_reducible apply done_kept | with_reducible apply State.unfollow_kept | (intro _) |
                 split | dsimp only [StepKept, OutKept, IssueKept, MicroKept, OptKept, done] | simp only [kept_mk_eq] |
                 with_reducible apply keptC_of | with_reducible apply keptC_marks | with_reducible apply keptC_regs |
                 with_reducible exact kept_fst (by assumption) (by assumption))

theorem execSyncTransmit_kept {dv : Nat} (port : Fin 8) (s : State) (h_s : Kept dv s) : OutKept dv (execSyncTransmit port s) := by
  unfold execSyncTransmit
  try dsimp only
  repeat' (first | with_reducible assumption | with_reducible apply done_kept | with_reducible apply State.sendGptp_kept | (intro _) |
                 split | dsimp only [StepKept, OutKept, IssueKept, MicroKept, OptKept, done] | simp only [kept_mk_eq] |
                 with_reducible apply keptC_of | with_reducible apply keptC_marks | with_reducible apply keptC_regs |
                 with_reducible exact kept_fst (by assumption) (by assumption))

theorem execPdelayReqTransmit_kept {dv : Nat} (port : Fin 8) (s : State) (h_s : Kept dv s) : OutKept dv (execPdelayReqTransmit port s)
    := by
  unfold execPdelayReqTransmit
  try dsimp only
  repeat' (first | with_reducible assumption | with_reducible apply done_kept | with_reducible apply State.sendGptp_kept | (intro _) |
                 split | dsimp only [StepKept, OutKept, IssueKept, MicroKept, OptKept, done] | simp only [kept_mk_eq] |
                 with_reducible apply keptC_of | with_reducible apply keptC_marks | with_reducible apply keptC_regs |
                 with_reducible exact kept_fst (by assumption) (by assumption))

theorem State.gptpIn_kept {dv : Nat} (s : State) (port : Nat) (body : List Byte) (fcsOk : Bool) (h_s : Kept dv s) : Kept dv
    (State.gptpIn s port body fcsOk) := by
  unfold State.gptpIn
  try dsimp only
  repeat' (first | with_reducible assumption | with_reducible apply State.sendGptp_kept | (intro _) | split |
                 dsimp only [StepKept, OutKept, IssueKept, MicroKept, OptKept, done] | simp only [kept_mk_eq] |
                 with_reducible apply keptC_of | with_reducible apply keptC_marks | with_reducible apply keptC_regs |
                 with_reducible exact kept_fst (by assumption) (by assumption))

theorem State.timCtlWrite_kept {dv : Nat} (s : State) (v : Nat) (h_s : Kept dv s) : Kept dv (State.timCtlWrite s v) := by
  unfold State.timCtlWrite
  try dsimp only
  repeat' (first | with_reducible assumption | with_reducible apply State.setReg_kept | with_reducible apply State.syncLost_kept |
                 (intro _) | split | dsimp only [StepKept, OutKept, IssueKept, MicroKept, OptKept, done] | simp only [kept_mk_eq] |
                 with_reducible apply keptC_of | with_reducible apply keptC_marks | with_reducible apply keptC_regs |
                 with_reducible exact kept_fst (by assumption) (by assumption))

theorem execSyncEnWrite_kept {dv : Nat} (value : Word32) (s : State) (h_s : Kept dv s) : OutKept dv (execSyncEnWrite value s) := by
  unfold execSyncEnWrite
  try dsimp only
  repeat' (first | with_reducible assumption | with_reducible apply done_kept | with_reducible apply State.timCtlWrite_kept | (intro _)
                 | split | dsimp only [StepKept, OutKept, IssueKept, MicroKept, OptKept, done] | simp only [kept_mk_eq] |
                 with_reducible apply keptC_of | with_reducible apply keptC_marks | with_reducible apply keptC_regs |
                 with_reducible exact kept_fst (by assumption) (by assumption))

theorem State.timSetWrite_kept {dv : Nat} (s : State) (v : Nat) (h_s : Kept dv s) : Kept dv (State.timSetWrite s v) := by
  unfold State.timSetWrite
  try dsimp only
  repeat' (first | with_reducible assumption | with_reducible apply State.setFld_kept | with_reducible apply State.raise_kept |
                 with_reducible apply State.stepTo_kept | (intro _) | split |
                 dsimp only [StepKept, OutKept, IssueKept, MicroKept, OptKept, done] | simp only [kept_mk_eq] |
                 with_reducible apply keptC_of | with_reducible apply keptC_marks | with_reducible apply keptC_regs |
                 with_reducible exact kept_fst (by assumption) (by assumption))

theorem execTimSet_kept {dv : Nat} (value : Word) (s : State) (h_s : Kept dv s) : OutKept dv (execTimSet value s) := by
  unfold execTimSet
  try dsimp only
  repeat' (first | with_reducible assumption | with_reducible apply done_kept | with_reducible apply State.timSetWrite_kept | (intro _)
                 | split | dsimp only [StepKept, OutKept, IssueKept, MicroKept, OptKept, done] | simp only [kept_mk_eq] |
                 with_reducible apply keptC_of | with_reducible apply keptC_marks | with_reducible apply keptC_regs |
                 with_reducible exact kept_fst (by assumption) (by assumption))

theorem State.cmpWrite_kept {dv : Nat} (s : State) (n addr : Nat) (v : Word) (h_s : Kept dv s) : Kept dv (State.cmpWrite s n addr v) :=
    by
  unfold State.cmpWrite
  try dsimp only
  repeat' (first | with_reducible assumption | with_reducible apply State.setReg_kept | with_reducible apply State.raise_kept |
                 (intro _) | split | dsimp only [StepKept, OutKept, IssueKept, MicroKept, OptKept, done] | simp only [kept_mk_eq] |
                 with_reducible apply keptC_of | with_reducible apply keptC_marks | with_reducible apply keptC_regs |
                 with_reducible exact kept_fst (by assumption) (by assumption))

theorem State.cmpCtlWrite_kept {dv : Nat} (s : State) (n v : Nat) (h_s : Kept dv s) : Kept dv (State.cmpCtlWrite s n v) := by
  unfold State.cmpCtlWrite
  try dsimp only
  repeat' (first | with_reducible assumption | with_reducible apply State.setReg_kept | with_reducible apply State.raise_kept |
                 (intro _) | split | dsimp only [StepKept, OutKept, IssueKept, MicroKept, OptKept, done] | simp only [kept_mk_eq] |
                 with_reducible apply keptC_of | with_reducible apply keptC_marks | with_reducible apply keptC_regs |
                 with_reducible exact kept_fst (by assumption) (by assumption))

theorem execCompareUnitWrite_kept {dv : Nat} (n : Fin 64) (which : Fin 3) (value : Word) (s : State) (h_s : Kept dv s) : OutKept dv
    (execCompareUnitWrite n which value s) := by
  unfold execCompareUnitWrite
  try dsimp only
  repeat' (first | with_reducible assumption | with_reducible apply done_kept | with_reducible apply State.cmpWrite_kept |
                 with_reducible apply State.cmpCtlWrite_kept | (intro _) | split |
                 dsimp only [StepKept, OutKept, IssueKept, MicroKept, OptKept, done] | simp only [kept_mk_eq] |
                 with_reducible apply keptC_of | with_reducible apply keptC_marks | with_reducible apply keptC_regs |
                 with_reducible exact kept_fst (by assumption) (by assumption))

theorem State.cclkTick_kept {dv : Nat} (s : State) (n k : Nat) (h_s : Kept dv s) : Kept dv (State.cclkTick s n k) := by
  induction n generalizing s k with
  | zero => exact h_s
  | succ j ih =>
    unfold State.cclkTick
    refine ih _ _ ?_
    split
    · exact h_s
    · exact h_s

theorem State.canaryTick_kept {dv : Nat} (s : State) (h r : Nat) (h_s : Kept dv s) : Kept dv (State.canaryTick s h r) := by
  unfold State.canaryTick
  try dsimp only
  repeat' (first | with_reducible assumption | with_reducible apply State.setFld_kept | with_reducible apply State.modHew_kept |
                 (intro _) | split | dsimp only [StepKept, OutKept, IssueKept, MicroKept, OptKept, done] | simp only [kept_mk_eq] |
                 with_reducible apply keptC_of | with_reducible apply keptC_marks | with_reducible apply keptC_regs |
                 with_reducible exact kept_fst (by assumption) (by assumption))

theorem State.canaryTicks_kept {dv : Nat} (s : State) (n h : Nat) (h_s : Kept dv s) : Kept dv (State.canaryTicks s n h) := by
  fun_induction State.canaryTicks s n h
  all_goals (repeat' (first | with_reducible assumption | (rename_i ih; with_reducible apply ih) | with_reducible apply State.canaryTick_kept |
                            (intro _) | split | dsimp only [StepKept, OutKept, IssueKept, MicroKept, OptKept, done] |
                            simp only [kept_mk_eq] | with_reducible apply keptC_of | with_reducible apply keptC_marks |
                            with_reducible apply keptC_regs | with_reducible exact kept_fst (by assumption) (by assumption)))
  all_goals first | done | simp_all

theorem State.devCanaryTick_kept {dv : Nat} (s : State) (r : Nat) (h_s : Kept dv s) : Kept dv (State.devCanaryTick s r) := by
  unfold State.devCanaryTick
  try dsimp only
  repeat' (first | with_reducible assumption | with_reducible apply State.setFld_kept | (intro _) | split |
                 dsimp only [StepKept, OutKept, IssueKept, MicroKept, OptKept, done] | simp only [kept_mk_eq] |
                 with_reducible apply keptC_of | with_reducible apply keptC_marks | with_reducible apply keptC_regs |
                 with_reducible exact kept_fst (by assumption) (by assumption))

theorem State.usTick_kept {dv : Nat} (s : State) (h_s : Kept dv s) : Kept dv (State.usTick s) := by
  unfold State.usTick
  try dsimp only
  repeat' (first | with_reducible assumption | with_reducible apply State.canaryTicks_kept |
                 with_reducible apply State.devCanaryTick_kept | (intro _) | split |
                 dsimp only [StepKept, OutKept, IssueKept, MicroKept, OptKept, done] | simp only [kept_mk_eq] |
                 with_reducible apply keptC_of | with_reducible apply keptC_marks | with_reducible apply keptC_regs |
                 with_reducible exact kept_fst (by assumption) (by assumption))

theorem State.drainTick_kept {dv : Nat} (s : State) (h_s : Kept dv s) : Kept dv (State.drainTick s) := by
  unfold State.drainTick
  try dsimp only
  repeat' (first | with_reducible assumption | with_reducible apply State.sbDrain_kept | with_reducible apply foldl_kept | (intro _) |
                 split | dsimp only [StepKept, OutKept, IssueKept, MicroKept, OptKept, done] | simp only [kept_mk_eq] |
                 with_reducible apply keptC_of | with_reducible apply keptC_marks | with_reducible apply keptC_regs |
                 with_reducible exact kept_fst (by assumption) (by assumption))

theorem State.tick_kept {dv : Nat} (s : State) (h_s : Kept dv s) : Kept dv (State.tick s) := by
  unfold State.tick
  try dsimp only
  repeat' (first | with_reducible assumption | with_reducible apply State.mapHewers_kept | with_reducible apply State.settle_kept |
                 with_reducible apply State.romTick_kept | with_reducible apply State.cclkTick_kept |
                 with_reducible apply State.usTick_kept | with_reducible apply State.drainTick_kept | (intro _) | split |
                 dsimp only [StepKept, OutKept, IssueKept, MicroKept, OptKept, done] | simp only [kept_mk_eq] |
                 with_reducible apply keptC_of | with_reducible apply keptC_marks | with_reducible apply keptC_regs |
                 with_reducible exact kept_fst (by assumption) (by assumption))

theorem execInterruptEntry_kept {dv : Nat} (h : HewerId) (s : State) (h_s : Kept dv s) : OutKept dv (execInterruptEntry h s) := by
  unfold execInterruptEntry
  try dsimp only
  repeat' (first | with_reducible assumption | with_reducible apply State.modHew_kept | with_reducible apply done_kept |
                 with_reducible apply State.tally_kept | with_reducible apply State.enter_kept | (intro _) | split |
                 dsimp only [StepKept, OutKept, IssueKept, MicroKept, OptKept, done] | simp only [kept_mk_eq] |
                 with_reducible apply keptC_of | with_reducible apply keptC_marks | with_reducible apply keptC_regs |
                 with_reducible exact kept_fst (by assumption) (by assumption))

theorem execTaskArrival_kept {dv : Nat} (h : HewerId) (s : State) (h_s : Kept dv s) : OutKept dv (execTaskArrival h s) := by
  unfold execTaskArrival
  try dsimp only
  repeat' (first | with_reducible assumption | with_reducible apply done_kept | with_reducible apply State.tally_kept |
                 with_reducible apply State.taskArrival_kept | (intro _) | split |
                 dsimp only [StepKept, OutKept, IssueKept, MicroKept, OptKept, done] | simp only [kept_mk_eq] |
                 with_reducible apply keptC_of | with_reducible apply keptC_marks | with_reducible apply keptC_regs |
                 with_reducible exact kept_fst (by assumption) (by assumption))

theorem State.ihiSet_kept {dv : Nat} (s : State) (target level : Nat) (h_s : Kept dv s) : Kept dv (State.ihiSet s target level) := by
  unfold State.ihiSet
  try dsimp only
  repeat' (first | with_reducible assumption | with_reducible apply State.setFld_kept | (intro _) | split |
                 dsimp only [StepKept, OutKept, IssueKept, MicroKept, OptKept, done] | simp only [kept_mk_eq] |
                 with_reducible apply keptC_of | with_reducible apply keptC_marks | with_reducible apply keptC_regs |
                 with_reducible exact kept_fst (by assumption) (by assumption))

theorem execHwrIhiSet_kept {dv : Nat} (target : HewerId) (level : Fin 16) (s : State) (h_s : Kept dv s) : OutKept dv (execHwrIhiSet
    target level s) := by
  unfold execHwrIhiSet
  try dsimp only
  repeat' (first | with_reducible assumption | with_reducible apply done_kept | with_reducible apply State.ihiSet_kept | (intro _) |
                 split | dsimp only [StepKept, OutKept, IssueKept, MicroKept, OptKept, done] | simp only [kept_mk_eq] |
                 with_reducible apply keptC_of | with_reducible apply keptC_marks | with_reducible apply keptC_regs |
                 with_reducible exact kept_fst (by assumption) (by assumption))

theorem State.xrouteWrite_kept {dv : Nat} (s : State) (target v : Nat) (h_s : Kept dv s) : Kept dv (State.xrouteWrite s target v) := by
  unfold State.xrouteWrite
  try dsimp only
  repeat' (first | with_reducible assumption | with_reducible apply State.setReg_kept | (intro _) | split |
                 dsimp only [StepKept, OutKept, IssueKept, MicroKept, OptKept, done] | simp only [kept_mk_eq] |
                 with_reducible apply keptC_of | with_reducible apply keptC_marks | with_reducible apply keptC_regs |
                 with_reducible exact kept_fst (by assumption) (by assumption))

theorem State.ioFault_kept {dv : Nat} (s : State) (h reason addr : Nat) (h_s : Kept dv s) : Kept dv (State.ioFault s h reason addr) :=
    by
  unfold State.ioFault
  try dsimp only
  repeat' (first | with_reducible assumption | with_reducible apply State.raiseExc_kept | (intro _) | split |
                 dsimp only [StepKept, OutKept, IssueKept, MicroKept, OptKept, done] | simp only [kept_mk_eq] |
                 with_reducible apply keptC_of | with_reducible apply keptC_marks | with_reducible apply keptC_regs |
                 with_reducible exact kept_fst (by assumption) (by assumption))

theorem State.sWrite_kept {dv : Nat} (s : State) (h a size : Nat) (f : State → State) (h_s : Kept dv s) (h_f : ∀ a0, Kept dv a0 → Kept
    dv (f a0)) : Kept dv (State.sWrite s h a size f) := by
  unfold State.sWrite
  try dsimp only
  repeat' (first | with_reducible assumption | with_reducible apply h_f | with_reducible apply State.ioFault_kept | (intro _) | split |
                 dsimp only [StepKept, OutKept, IssueKept, MicroKept, OptKept, done] | simp only [kept_mk_eq] |
                 with_reducible apply keptC_of | with_reducible apply keptC_marks | with_reducible apply keptC_regs |
                 with_reducible exact kept_fst (by assumption) (by assumption))

theorem State.mWrite_kept {dv : Nat} (s : State) (h a size : Nat) (f : State → State) (h_s : Kept dv s) (h_f : ∀ a0, Kept dv a0 → Kept
    dv (f a0)) : Kept dv (State.mWrite s h a size f) := by
  unfold State.mWrite
  try dsimp only
  repeat' (first | with_reducible assumption | with_reducible apply h_f | with_reducible apply State.ioFault_kept |
                 with_reducible apply State.sWrite_kept | (intro _) | split |
                 dsimp only [StepKept, OutKept, IssueKept, MicroKept, OptKept, done] | simp only [kept_mk_eq] |
                 with_reducible apply keptC_of | with_reducible apply keptC_marks | with_reducible apply keptC_regs |
                 with_reducible exact kept_fst (by assumption) (by assumption))

theorem execHwrXrouteWrite_kept {dv : Nat} (by' target : HewerId) (value : Word32) (s : State) (h_s : Kept dv s) : OutKept dv
    (execHwrXrouteWrite by' target value s) := by
  unfold execHwrXrouteWrite
  try dsimp only
  repeat' (first | with_reducible assumption | with_reducible apply done_kept | with_reducible apply State.xrouteWrite_kept |
                 with_reducible apply State.mWrite_kept | (intro _) | split |
                 dsimp only [StepKept, OutKept, IssueKept, MicroKept, OptKept, done] | simp only [kept_mk_eq] |
                 with_reducible apply keptC_of | with_reducible apply keptC_marks | with_reducible apply keptC_regs |
                 with_reducible exact kept_fst (by assumption) (by assumption))

theorem State.canReload_kept {dv : Nat} (s : State) (h : Nat) (h_s : Kept dv s) : Kept dv (State.canReload s h) := by
  unfold State.canReload
  try dsimp only
  repeat' (first | with_reducible assumption | with_reducible apply State.setFld_kept | with_reducible apply State.modHew_kept |
                 (intro _) | split | dsimp only [StepKept, OutKept, IssueKept, MicroKept, OptKept, done] | simp only [kept_mk_eq] |
                 with_reducible apply keptC_of | with_reducible apply keptC_marks | with_reducible apply keptC_regs |
                 with_reducible exact kept_fst (by assumption) (by assumption))

theorem State.canKick_kept {dv : Nat} (s : State) (w : Writer) (h : Nat) (h_s : Kept dv s) : Kept dv (State.canKick s w h) := by
  unfold State.canKick
  try dsimp only
  repeat' (first | with_reducible assumption | with_reducible apply State.raise_kept | with_reducible apply State.canReload_kept |
                 (intro _) | split | dsimp only [StepKept, OutKept, IssueKept, MicroKept, OptKept, done] | simp only [kept_mk_eq] |
                 with_reducible apply keptC_of | with_reducible apply keptC_marks | with_reducible apply keptC_regs |
                 with_reducible exact kept_fst (by assumption) (by assumption))

theorem execCanaryKick_kept {dv : Nat} (writer : Writer) (h : HewerId) (s : State) (h_s : Kept dv s) : OutKept dv (execCanaryKick writer
    h s) := by
  unfold execCanaryKick
  try dsimp only
  repeat' (first | with_reducible assumption | with_reducible apply done_kept | with_reducible apply State.sWrite_kept |
                 with_reducible apply State.canKick_kept | (intro _) | split |
                 dsimp only [StepKept, OutKept, IssueKept, MicroKept, OptKept, done] | simp only [kept_mk_eq] |
                 with_reducible apply keptC_of | with_reducible apply keptC_marks | with_reducible apply keptC_regs |
                 with_reducible exact kept_fst (by assumption) (by assumption))

theorem execCanaryPrewarning_kept {dv : Nat} (h : HewerId) (s : State) (h_s : Kept dv s) : OutKept dv (execCanaryPrewarning h s) := by
  unfold execCanaryPrewarning
  try dsimp only
  repeat' (first | with_reducible assumption | with_reducible apply State.raise_kept | with_reducible apply State.modHew_kept |
                 with_reducible apply done_kept | (intro _) | split |
                 dsimp only [StepKept, OutKept, IssueKept, MicroKept, OptKept, done] | simp only [kept_mk_eq] |
                 with_reducible apply keptC_of | with_reducible apply keptC_marks | with_reducible apply keptC_regs |
                 with_reducible exact kept_fst (by assumption) (by assumption))

theorem State.canExpire_kept {dv : Nat} (s : State) (h : Nat) (h_s : Kept dv s) : Kept dv (State.canExpire s h) := by
  unfold State.canExpire
  try dsimp only
  repeat' (first | with_reducible assumption | with_reducible apply State.raise_kept | with_reducible apply State.modHew_kept |
                 with_reducible apply State.log_kept | with_reducible apply State.leavePool_kept |
                 with_reducible apply State.loseBody_kept | with_reducible apply State.settle_kept | (intro _) | split |
                 dsimp only [StepKept, OutKept, IssueKept, MicroKept, OptKept, done] | simp only [kept_mk_eq] |
                 with_reducible apply keptC_of | with_reducible apply keptC_marks | with_reducible apply keptC_regs |
                 with_reducible exact kept_fst (by assumption) (by assumption))

theorem execCanaryExpiry_kept {dv : Nat} (h : HewerId) (s : State) (h_s : Kept dv s) : OutKept dv (execCanaryExpiry h s) := by
  unfold execCanaryExpiry
  try dsimp only
  repeat' (first | with_reducible assumption | with_reducible apply done_kept | with_reducible apply State.canExpire_kept | (intro _) |
                 split | dsimp only [StepKept, OutKept, IssueKept, MicroKept, OptKept, done] | simp only [kept_mk_eq] |
                 with_reducible apply keptC_of | with_reducible apply keptC_marks | with_reducible apply keptC_regs |
                 with_reducible exact kept_fst (by assumption) (by assumption))

theorem execCanaryMachineCheck_kept {dv : Nat} (h : HewerId) (s : State) (h_s : Kept dv s) : OutKept dv (execCanaryMachineCheck h s) :=
    by
  unfold execCanaryMachineCheck
  try dsimp only
  repeat' (first | with_reducible assumption | with_reducible apply State.modHew_kept | with_reducible apply done_kept |
                 with_reducible apply State.tally_kept | with_reducible apply State.enter_kept |
                 with_reducible apply State.loseBody_kept | (intro _) | split |
                 dsimp only [StepKept, OutKept, IssueKept, MicroKept, OptKept, done] | simp only [kept_mk_eq] |
                 with_reducible apply keptC_of | with_reducible apply keptC_marks | with_reducible apply keptC_regs |
                 with_reducible exact kept_fst (by assumption) (by assumption))

theorem State.canClear_kept {dv : Nat} (s : State) (h : Nat) (h_s : Kept dv s) : Kept dv (State.canClear s h) := by
  unfold State.canClear
  try dsimp only
  repeat' (first | with_reducible assumption | with_reducible apply State.setFld_kept | with_reducible apply State.canReload_kept |
                 (intro _) | split | dsimp only [StepKept, OutKept, IssueKept, MicroKept, OptKept, done] | simp only [kept_mk_eq] |
                 with_reducible apply keptC_of | with_reducible apply keptC_marks | with_reducible apply keptC_regs |
                 with_reducible exact kept_fst (by assumption) (by assumption))

theorem execExpiredClear_kept {dv : Nat} (by' h : HewerId) (s : State) (h_s : Kept dv s) : OutKept dv (execExpiredClear by' h s) := by
  unfold execExpiredClear
  try dsimp only
  repeat' (first | with_reducible assumption | with_reducible apply done_kept | with_reducible apply State.mWrite_kept |
                 with_reducible apply State.canClear_kept | (intro _) | split |
                 dsimp only [StepKept, OutKept, IssueKept, MicroKept, OptKept, done] | simp only [kept_mk_eq] |
                 with_reducible apply keptC_of | with_reducible apply keptC_marks | with_reducible apply keptC_regs |
                 with_reducible exact kept_fst (by assumption) (by assumption))

theorem State.canThaw_kept {dv : Nat} (s : State) (h : Nat) (h_s : Kept dv s) : Kept dv (State.canThaw s h) := by
  unfold State.canThaw
  try dsimp only
  repeat' (first | with_reducible assumption | with_reducible apply State.setFld_kept | with_reducible apply State.raise_kept |
                 (intro _) | split | dsimp only [StepKept, OutKept, IssueKept, MicroKept, OptKept, done] | simp only [kept_mk_eq] |
                 with_reducible apply keptC_of | with_reducible apply keptC_marks | with_reducible apply keptC_regs |
                 with_reducible exact kept_fst (by assumption) (by assumption))

theorem State.devKick_kept {dv : Nat} (s : State) (v : Nat) (h_s : Kept dv s) : Kept dv (State.devKick s v) := by
  unfold State.devKick
  try dsimp only
  repeat' (first | with_reducible assumption | with_reducible apply State.raise_kept | with_reducible apply State.devReload_kept |
                 (intro _) | split | dsimp only [StepKept, OutKept, IssueKept, MicroKept, OptKept, done] | simp only [kept_mk_eq] |
                 with_reducible apply keptC_of | with_reducible apply keptC_marks | with_reducible apply keptC_regs |
                 with_reducible exact kept_fst (by assumption) (by assumption))

theorem execDeviceCanaryKick_kept {dv : Nat} (writer : Writer) (value : BitVec 16) (s : State) (h_s : Kept dv s) : OutKept dv
    (execDeviceCanaryKick writer value s) := by
  unfold execDeviceCanaryKick
  try dsimp only
  repeat' (first | with_reducible assumption | with_reducible apply done_kept | with_reducible apply State.sWrite_kept |
                 with_reducible apply State.devKick_kept | (intro _) | split |
                 dsimp only [StepKept, OutKept, IssueKept, MicroKept, OptKept, done] | simp only [kept_mk_eq] |
                 with_reducible apply keptC_of | with_reducible apply keptC_marks | with_reducible apply keptC_regs |
                 with_reducible exact kept_fst (by assumption) (by assumption))

theorem State.canDevCtlWrite_kept {dv : Nat} (s : State) (v : Nat) (h_s : Kept dv s) : Kept dv (State.canDevCtlWrite s v) := by
  unfold State.canDevCtlWrite
  try dsimp only
  repeat' (first | with_reducible assumption | with_reducible apply State.setFld_kept | (intro _) | split |
                 dsimp only [StepKept, OutKept, IssueKept, MicroKept, OptKept, done] | simp only [kept_mk_eq] |
                 with_reducible apply keptC_of | with_reducible apply keptC_marks | with_reducible apply keptC_regs |
                 with_reducible exact kept_fst (by assumption) (by assumption))

theorem execCanDevCtlWrite_kept {dv : Nat} (value : Word32) (s : State) (h_s : Kept dv s) : OutKept dv (execCanDevCtlWrite value s) :=
    by
  unfold execCanDevCtlWrite
  try dsimp only
  repeat' (first | with_reducible assumption | with_reducible apply done_kept | with_reducible apply State.canDevCtlWrite_kept |
                 (intro _) | split | dsimp only [StepKept, OutKept, IssueKept, MicroKept, OptKept, done] | simp only [kept_mk_eq] |
                 with_reducible apply keptC_of | with_reducible apply keptC_marks | with_reducible apply keptC_regs |
                 with_reducible exact kept_fst (by assumption) (by assumption))

theorem State.warnTaken_kept {dv : Nat} (s : State) (h_s : Kept dv s) : Kept dv (State.warnTaken s) := by
  unfold State.warnTaken
  try dsimp only
  repeat' (first | with_reducible assumption | (intro _) | split | dsimp only [StepKept, OutKept, IssueKept, MicroKept, OptKept, done] |
                 simp only [kept_mk_eq] | with_reducible apply keptC_of | with_reducible apply keptC_marks |
                 with_reducible apply keptC_regs | with_reducible exact kept_fst (by assumption) (by assumption))

theorem State.expiryTaken_kept {dv : Nat} (s : State) (h_s : Kept dv s) : Kept dv (State.expiryTaken s) := by
  unfold State.expiryTaken
  try dsimp only
  repeat' (first | with_reducible assumption | (intro _) | split | dsimp only [StepKept, OutKept, IssueKept, MicroKept, OptKept, done] |
                 simp only [kept_mk_eq] | with_reducible apply keptC_of | with_reducible apply keptC_marks |
                 with_reducible apply keptC_regs | with_reducible exact kept_fst (by assumption) (by assumption))

theorem execDeviceCanaryPrewarning_kept {dv : Nat} (s : State) (h_s : Kept dv s) : OutKept dv (execDeviceCanaryPrewarning s) := by
  unfold execDeviceCanaryPrewarning
  try dsimp only
  repeat' (first | with_reducible assumption | with_reducible apply State.raise_kept | with_reducible apply State.log_kept |
                 with_reducible apply done_kept | with_reducible apply State.warnTaken_kept | (intro _) | split |
                 dsimp only [StepKept, OutKept, IssueKept, MicroKept, OptKept, done] | simp only [kept_mk_eq] |
                 with_reducible apply keptC_of | with_reducible apply keptC_marks | with_reducible apply keptC_regs |
                 with_reducible exact kept_fst (by assumption) (by assumption))

theorem execDeviceCanaryExpiry_kept {dv : Nat} (s : State) (h_s : Kept dv s) : OutKept dv (execDeviceCanaryExpiry s) := by
  unfold execDeviceCanaryExpiry
  try dsimp only
  repeat' (first | with_reducible assumption | with_reducible apply State.raise_kept | with_reducible apply State.log_kept |
                 with_reducible apply done_kept | with_reducible apply State.safeHold_kept | with_reducible apply State.expiryTaken_kept
                 | (intro _) | split | dsimp only [StepKept, OutKept, IssueKept, MicroKept, OptKept, done] | simp only [kept_mk_eq] |
                 with_reducible apply keptC_of | with_reducible apply keptC_marks | with_reducible apply keptC_regs |
                 with_reducible exact kept_fst (by assumption) (by assumption))

theorem State.canCtlWrite_kept {dv : Nat} (s : State) (h v : Nat) (h_s : Kept dv s) : Kept dv (State.canCtlWrite s h v) := by
  unfold State.canCtlWrite
  try dsimp only
  repeat' (first | with_reducible assumption | with_reducible apply State.setFld_kept | (intro _) | split |
                 dsimp only [StepKept, OutKept, IssueKept, MicroKept, OptKept, done] | simp only [kept_mk_eq] |
                 with_reducible apply keptC_of | with_reducible apply keptC_marks | with_reducible apply keptC_regs |
                 with_reducible exact kept_fst (by assumption) (by assumption))

theorem State.countTransient_kept {dv : Nat} (s : State) (h_s : Kept dv s) : Kept dv (State.countTransient s) := by
  unfold State.countTransient
  try dsimp only
  repeat' (first | with_reducible assumption | with_reducible apply State.count_kept | (intro _) | split |
                 dsimp only [StepKept, OutKept, IssueKept, MicroKept, OptKept, done] | simp only [kept_mk_eq] |
                 with_reducible apply keptC_of | with_reducible apply keptC_marks | with_reducible apply keptC_regs |
                 with_reducible exact kept_fst (by assumption) (by assumption))

theorem State.countLasting_kept {dv : Nat} (s : State) (h_s : Kept dv s) : Kept dv (State.countLasting s) := by
  unfold State.countLasting
  try dsimp only
  repeat' (first | with_reducible assumption | with_reducible apply State.count_kept | (intro _) | split |
                 dsimp only [StepKept, OutKept, IssueKept, MicroKept, OptKept, done] | simp only [kept_mk_eq] |
                 with_reducible apply keptC_of | with_reducible apply keptC_marks | with_reducible apply keptC_regs |
                 with_reducible exact kept_fst (by assumption) (by assumption))

theorem State.removeHewer_kept {dv : Nat} (s : State) (h : Nat) (h_s : Kept dv s) : Kept dv (State.removeHewer s h) := by
  unfold State.removeHewer
  try dsimp only
  repeat' (first | with_reducible assumption | with_reducible apply State.setFld_kept | with_reducible apply State.raise_kept |
                 with_reducible apply State.modHew_kept | with_reducible apply State.log_kept | with_reducible apply State.sbFlush_kept
                 | with_reducible apply State.leavePool_kept | with_reducible apply State.loseBody_kept |
                 with_reducible apply State.saveThread_kept | with_reducible apply State.settle_kept | (intro _) | split |
                 dsimp only [StepKept, OutKept, IssueKept, MicroKept, OptKept, done] | simp only [kept_mk_eq] |
                 with_reducible apply keptC_of | with_reducible apply keptC_marks | with_reducible apply keptC_regs |
                 with_reducible exact kept_fst (by assumption) (by assumption))

theorem State.removeSoon_kept {dv : Nat} (s : State) (h : Nat) (h_s : Kept dv s) : Kept dv (State.removeSoon s h) := by
  unfold State.removeSoon
  try dsimp only
  repeat' (first | with_reducible assumption | with_reducible apply State.modHew_kept | with_reducible apply State.removeHewer_kept |
                 (intro _) | split | dsimp only [StepKept, OutKept, IssueKept, MicroKept, OptKept, done] | simp only [kept_mk_eq] |
                 with_reducible apply keptC_of | with_reducible apply keptC_marks | with_reducible apply keptC_regs |
                 with_reducible exact kept_fst (by assumption) (by assumption))

theorem State.retireTwin_kept {dv : Nat} (s : State) (t : Nat) (h_s : Kept dv s) : Kept dv (State.retireTwin s t) := by
  unfold State.retireTwin
  try dsimp only
  repeat' (first | with_reducible assumption | (intro _) | split | dsimp only [StepKept, OutKept, IssueKept, MicroKept, OptKept, done] |
                 simp only [kept_mk_eq] | with_reducible apply keptC_of | with_reducible apply keptC_marks |
                 with_reducible apply keptC_regs | with_reducible exact kept_fst (by assumption) (by assumption))

theorem State.unsettled_kept {dv : Nat} (s : State) (h : Nat) (h_s : Kept dv s) : Kept dv (State.unsettled s h) := by
  unfold State.unsettled
  try dsimp only
  repeat' (first | with_reducible assumption | with_reducible apply State.modHew_kept | with_reducible apply State.leavePool_kept |
                 with_reducible apply State.loseBody_kept | with_reducible apply State.settle_kept | (intro _) | split |
                 dsimp only [StepKept, OutKept, IssueKept, MicroKept, OptKept, done] | simp only [kept_mk_eq] |
                 with_reducible apply keptC_of | with_reducible apply keptC_marks | with_reducible apply keptC_regs |
                 with_reducible exact kept_fst (by assumption) (by assumption))

theorem State.twinLasting_kept {dv : Nat} (s : State) (t : Nat) (unsettled : Bool) (h_s : Kept dv s) : Kept dv (State.twinLasting s t
    unsettled) := by
  unfold State.twinLasting
  try dsimp only
  repeat' (first | with_reducible assumption | with_reducible apply State.setFld_kept | with_reducible apply State.modHew_kept |
                 with_reducible apply State.log_kept | with_reducible apply State.countLasting_kept |
                 with_reducible apply State.removeHewer_kept | with_reducible apply State.removeSoon_kept |
                 with_reducible apply State.retireTwin_kept | with_reducible apply State.unsettled_kept | (intro _) | split |
                 dsimp only [StepKept, OutKept, IssueKept, MicroKept, OptKept, done] | simp only [kept_mk_eq] |
                 with_reducible apply keptC_of | with_reducible apply keptC_marks | with_reducible apply keptC_regs |
                 with_reducible exact kept_fst (by assumption) (by assumption))

theorem State.twinEvent_kept {dv : Nat} (s : State) (t kind : Nat) (h_s : Kept dv s) : Kept dv (State.twinEvent s t kind) := by
  unfold State.twinEvent
  try dsimp only
  repeat' (first | with_reducible assumption | with_reducible apply State.log_kept | with_reducible apply State.countTransient_kept |
                 with_reducible apply State.twinLasting_kept | (intro _) | split |
                 dsimp only [StepKept, OutKept, IssueKept, MicroKept, OptKept, done] | simp only [kept_mk_eq] |
                 with_reducible apply keptC_of | with_reducible apply keptC_marks | with_reducible apply keptC_regs |
                 with_reducible exact kept_fst (by assumption) (by assumption))

theorem State.twinEvents_kept {dv : Nat} (s : State) (t kind n : Nat) (h_s : Kept dv s) : Kept dv (State.twinEvents s t kind n) := by
  fun_induction State.twinEvents s t kind n
  all_goals (repeat' (first | with_reducible assumption | (rename_i ih; with_reducible apply ih) | with_reducible apply State.twinEvent_kept |
                            (intro _) | split | dsimp only [StepKept, OutKept, IssueKept, MicroKept, OptKept, done] |
                            simp only [kept_mk_eq] | with_reducible apply keptC_of | with_reducible apply keptC_marks |
                            with_reducible apply keptC_regs | with_reducible exact kept_fst (by assumption) (by assumption)))
  all_goals first | done | simp_all

theorem State.tallyReplay_kept {dv : Nat} (s : State) (h n : Nat) (h_s : Kept dv s) : Kept dv (State.tallyReplay s h n) := by
  unfold State.tallyReplay
  try dsimp only
  repeat' (first | with_reducible assumption | with_reducible apply State.tallyFrom_kept | with_reducible apply State.noteEvent_kept |
                 (intro _) | split | dsimp only [StepKept, OutKept, IssueKept, MicroKept, OptKept, done] | simp only [kept_mk_eq] |
                 with_reducible apply keptC_of | with_reducible apply keptC_marks | with_reducible apply keptC_regs |
                 with_reducible exact kept_fst (by assumption) (by assumption))

theorem State.compareFailure_kept {dv : Nat} (s : State) (h kind failures : Nat) (h_s : Kept dv s) : Kept dv (State.compareFailure s h
    kind failures) := by
  unfold State.compareFailure
  try dsimp only
  repeat' (first | with_reducible assumption | with_reducible apply State.draw_kept | with_reducible apply State.modHew_kept |
                 with_reducible apply State.log_kept | with_reducible apply State.cdtRetake_kept |
                 with_reducible apply State.twinLasting_kept | with_reducible apply State.twinEvent_kept |
                 with_reducible apply State.twinEvents_kept | with_reducible apply State.tallyReplay_kept |
                 with_reducible apply getD_kept | (intro _) | split |
                 dsimp only [StepKept, OutKept, IssueKept, MicroKept, OptKept, done] | simp only [kept_mk_eq] |
                 with_reducible apply keptC_of | with_reducible apply keptC_marks | with_reducible apply keptC_regs |
                 with_reducible exact kept_fst (by assumption) (by assumption))

theorem execTwinCompareFailure_kept {dv : Nat} (h : HewerId) (kind : Fin 4) (failures : Fin 3) (s : State) (h_s : Kept dv s) : OutKept
    dv (execTwinCompareFailure h kind failures s) := by
  unfold execTwinCompareFailure
  try dsimp only
  repeat' (first | with_reducible assumption | with_reducible apply done_kept | with_reducible apply State.compareFailure_kept |
                 (intro _) | split | dsimp only [StepKept, OutKept, IssueKept, MicroKept, OptKept, done] | simp only [kept_mk_eq] |
                 with_reducible apply keptC_of | with_reducible apply keptC_marks | with_reducible apply keptC_regs |
                 with_reducible exact kept_fst (by assumption) (by assumption))

theorem State.twinDown_kept {dv : Nat} (s : State) (g t : Nat) (h_s : Kept dv s) : Kept dv (State.twinDown s g t) := by
  unfold State.twinDown
  try dsimp only
  repeat' (first | with_reducible assumption | with_reducible apply State.setTwin_kept | with_reducible apply State.l2Mod_kept |
                 with_reducible apply foldl_kept | (intro _) | split |
                 dsimp only [StepKept, OutKept, IssueKept, MicroKept, OptKept, done] | simp only [kept_mk_eq] |
                 with_reducible apply keptC_of | with_reducible apply keptC_marks | with_reducible apply keptC_regs |
                 with_reducible exact kept_fst (by assumption) (by assumption))

theorem State.substitute_kept {dv : Nat} (s : State) (h t : Nat) (h_s : Kept dv s) : Kept dv (State.substitute s h t) := by
  unfold State.substitute
  try dsimp only
  repeat' (first | with_reducible assumption | with_reducible apply State.setFld_kept | with_reducible apply State.modHew_kept |
                 with_reducible apply State.modTwin_kept | with_reducible apply State.log_kept | with_reducible apply State.sbFlush_kept
                 | with_reducible apply State.restoreThread_kept | with_reducible apply State.twinDown_kept | (intro _) | split |
                 dsimp only [StepKept, OutKept, IssueKept, MicroKept, OptKept, done] | simp only [kept_mk_eq] |
                 with_reducible apply keptC_of | with_reducible apply keptC_marks | with_reducible apply keptC_regs |
                 with_reducible exact kept_fst (by assumption) (by assumption))

theorem execTwinSubstitution_kept {dv : Nat} (h : HewerId) (s : State) (h_s : Kept dv s) : OutKept dv (execTwinSubstitution h s) := by
  unfold execTwinSubstitution
  try dsimp only
  repeat' (first | with_reducible assumption | with_reducible apply done_kept | with_reducible apply State.removeHewer_kept |
                 with_reducible apply State.substitute_kept | (intro _) | split |
                 dsimp only [StepKept, OutKept, IssueKept, MicroKept, OptKept, done] | simp only [kept_mk_eq] |
                 with_reducible apply keptC_of | with_reducible apply keptC_marks | with_reducible apply keptC_regs |
                 with_reducible exact kept_fst (by assumption) (by assumption))

theorem State.removeHewers_kept {dv : Nat} (s : State) (n h : Nat) (h_s : Kept dv s) : Kept dv (State.removeHewers s n h) := by
  fun_induction State.removeHewers s n h
  all_goals (repeat' (first | with_reducible assumption | (rename_i ih; with_reducible apply ih) | with_reducible apply State.removeSoon_kept |
                            (intro _) | split | dsimp only [StepKept, OutKept, IssueKept, MicroKept, OptKept, done] |
                            simp only [kept_mk_eq] | with_reducible apply keptC_of | with_reducible apply keptC_marks |
                            with_reducible apply keptC_regs | with_reducible exact kept_fst (by assumption) (by assumption)))
  all_goals first | done | simp_all

theorem State.galleryRemoved_kept {dv : Nat} (s : State) (g cause : Nat) (h_s : Kept dv s) : Kept dv (State.galleryRemoved s g cause) :=
    by
  unfold State.galleryRemoved
  try dsimp only
  repeat' (first | with_reducible assumption | with_reducible apply State.raise_kept | with_reducible apply State.log_kept |
                 with_reducible apply State.loseGallery_kept | with_reducible apply State.settle_kept |
                 with_reducible apply State.removeHewers_kept | (intro _) | split |
                 dsimp only [StepKept, OutKept, IssueKept, MicroKept, OptKept, done] | simp only [kept_mk_eq] |
                 with_reducible apply keptC_of | with_reducible apply keptC_marks | with_reducible apply keptC_regs |
                 with_reducible exact kept_fst (by assumption) (by assumption))

theorem State.wayLasting_kept {dv : Nat} (s : State) (g w : Nat) (h_s : Kept dv s) : Kept dv (State.wayLasting s g w) := by
  unfold State.wayLasting
  try dsimp only
  repeat' (first | with_reducible assumption | with_reducible apply State.setFld_kept | with_reducible apply State.galleryFlush_kept |
                 with_reducible apply State.log_kept | with_reducible apply State.countLasting_kept |
                 with_reducible apply State.galleryRemoved_kept | (intro _) | split |
                 dsimp only [StepKept, OutKept, IssueKept, MicroKept, OptKept, done] | simp only [kept_mk_eq] |
                 with_reducible apply keptC_of | with_reducible apply keptC_marks | with_reducible apply keptC_regs |
                 with_reducible exact kept_fst (by assumption) (by assumption))

theorem State.wayEvent_kept {dv : Nat} (s : State) (g w : Nat) (h_s : Kept dv s) : Kept dv (State.wayEvent s g w) := by
  unfold State.wayEvent
  try dsimp only
  repeat' (first | with_reducible assumption | with_reducible apply State.log_kept | with_reducible apply State.countTransient_kept |
                 with_reducible apply State.wayLasting_kept | (intro _) | split |
                 dsimp only [StepKept, OutKept, IssueKept, MicroKept, OptKept, done] | simp only [kept_mk_eq] |
                 with_reducible apply keptC_of | with_reducible apply keptC_marks | with_reducible apply keptC_regs |
                 with_reducible exact kept_fst (by assumption) (by assumption))

theorem State.rowEvent_kept {dv : Nat} (s : State) (c bank row first : Nat) (h_s : Kept dv s) : Kept dv (State.rowEvent s c bank row
    first) := by
  unfold State.rowEvent
  try dsimp only
  repeat' (first | with_reducible assumption | with_reducible apply State.log_kept | with_reducible apply State.countTransient_kept |
                 with_reducible apply State.countLasting_kept | (intro _) | split |
                 dsimp only [StepKept, OutKept, IssueKept, MicroKept, OptKept, done] | simp only [kept_mk_eq] |
                 with_reducible apply keptC_of | with_reducible apply keptC_marks | with_reducible apply keptC_regs |
                 with_reducible exact kept_fst (by assumption) (by assumption))

theorem State.linkLasting_kept {dv : Nat} (s : State) (p : Nat) (h_s : Kept dv s) : Kept dv (State.linkLasting s p) := by
  unfold State.linkLasting
  try dsimp only
  repeat' (first | with_reducible assumption | with_reducible apply State.log_kept | with_reducible apply State.countLasting_kept |
                 (intro _) | split | dsimp only [StepKept, OutKept, IssueKept, MicroKept, OptKept, done] | simp only [kept_mk_eq] |
                 with_reducible apply keptC_of | with_reducible apply keptC_marks | with_reducible apply keptC_regs |
                 with_reducible exact kept_fst (by assumption) (by assumption))

theorem State.linkEvent_kept {dv : Nat} (s : State) (p : Nat) (h_s : Kept dv s) : Kept dv (State.linkEvent s p) := by
  unfold State.linkEvent
  try dsimp only
  repeat' (first | with_reducible assumption | with_reducible apply State.countTransient_kept |
                 with_reducible apply State.linkLasting_kept | (intro _) | split |
                 dsimp only [StepKept, OutKept, IssueKept, MicroKept, OptKept, done] | simp only [kept_mk_eq] |
                 with_reducible apply keptC_of | with_reducible apply keptC_marks | with_reducible apply keptC_regs |
                 with_reducible exact kept_fst (by assumption) (by assumption))

theorem execHubMismatch_kept {dv : Nat} (lasting : Bool) (s : State) (h_s : Kept dv s) : OutKept dv (execHubMismatch lasting s) := by
  unfold execHubMismatch
  try dsimp only
  repeat' (first | with_reducible assumption | with_reducible apply State.log_kept | with_reducible apply done_kept |
                 with_reducible apply State.safeHold_kept | with_reducible apply State.countTransient_kept |
                 with_reducible apply State.countLasting_kept | (intro _) | split |
                 dsimp only [StepKept, OutKept, IssueKept, MicroKept, OptKept, done] | simp only [kept_mk_eq] |
                 with_reducible apply keptC_of | with_reducible apply keptC_marks | with_reducible apply keptC_regs |
                 with_reducible exact kept_fst (by assumption) (by assumption))

theorem State.retireNow_kept {dv : Nat} (s : State) (cls unit : Nat) (h_s : Kept dv s) : Kept dv (State.retireNow s cls unit) := by
  unfold State.retireNow
  try dsimp only
  repeat' (first | with_reducible assumption | with_reducible apply State.twinLasting_kept | with_reducible apply State.wayLasting_kept
                 | with_reducible apply State.linkLasting_kept | (intro _) | split |
                 dsimp only [StepKept, OutKept, IssueKept, MicroKept, OptKept, done] | simp only [kept_mk_eq] |
                 with_reducible apply keptC_of | with_reducible apply keptC_marks | with_reducible apply keptC_regs |
                 with_reducible exact kept_fst (by assumption) (by assumption))

theorem State.returnNow_kept {dv : Nat} (s : State) (cls unit : Nat) (h_s : Kept dv s) : Kept dv (State.returnNow s cls unit) := by
  unfold State.returnNow
  try dsimp only
  repeat' (first | with_reducible assumption | with_reducible apply State.setFld_kept | (intro _) | split |
                 dsimp only [StepKept, OutKept, IssueKept, MicroKept, OptKept, done] | simp only [kept_mk_eq] |
                 with_reducible apply keptC_of | with_reducible apply keptC_marks | with_reducible apply keptC_regs |
                 with_reducible exact kept_fst (by assumption) (by assumption))

theorem State.retireWrite_kept {dv : Nat} (s : State) (v : Nat) (h_s : Kept dv s) : Kept dv (State.retireWrite s v) := by
  unfold State.retireWrite
  try dsimp only
  repeat' (first | with_reducible assumption | with_reducible apply State.setFld_kept | with_reducible apply State.raise_kept |
                 with_reducible apply State.retireNow_kept | (intro _) | split |
                 dsimp only [StepKept, OutKept, IssueKept, MicroKept, OptKept, done] | simp only [kept_mk_eq] |
                 with_reducible apply keptC_of | with_reducible apply keptC_marks | with_reducible apply keptC_regs |
                 with_reducible exact kept_fst (by assumption) (by assumption))

theorem execRetire_kept {dv : Nat} (cls : Fin 4) (unit : Fin 1024) (s : State) (h_s : Kept dv s) : OutKept dv (execRetire cls unit s) :=
    by
  unfold execRetire
  try dsimp only
  repeat' (first | with_reducible assumption | with_reducible apply done_kept | with_reducible apply State.retireWrite_kept | (intro _)
                 | split | dsimp only [StepKept, OutKept, IssueKept, MicroKept, OptKept, done] | simp only [kept_mk_eq] |
                 with_reducible apply keptC_of | with_reducible apply keptC_marks | with_reducible apply keptC_regs |
                 with_reducible exact kept_fst (by assumption) (by assumption))

theorem execReturnToService_kept {dv : Nat} (cls : Fin 4) (unit : Fin 1024) (s : State) (h_s : Kept dv s) : OutKept dv
    (execReturnToService cls unit s) := by
  unfold execReturnToService
  try dsimp only
  repeat' (first | with_reducible assumption | with_reducible apply done_kept | with_reducible apply State.retireWrite_kept | (intro _)
                 | split | dsimp only [StepKept, OutKept, IssueKept, MicroKept, OptKept, done] | simp only [kept_mk_eq] |
                 with_reducible apply keptC_of | with_reducible apply keptC_marks | with_reducible apply keptC_regs |
                 with_reducible exact kept_fst (by assumption) (by assumption))

theorem execRetireComplete_kept {dv : Nat} (s : State) (h_s : Kept dv s) : OutKept dv (execRetireComplete s) := by
  unfold execRetireComplete
  try dsimp only
  repeat' (first | with_reducible assumption | with_reducible apply State.setFld_kept | with_reducible apply done_kept |
                 with_reducible apply State.returnNow_kept | (intro _) | split |
                 dsimp only [StepKept, OutKept, IssueKept, MicroKept, OptKept, done] | simp only [kept_mk_eq] |
                 with_reducible apply keptC_of | with_reducible apply keptC_marks | with_reducible apply keptC_regs |
                 with_reducible exact kept_fst (by assumption) (by assumption))

theorem execLogRecordWrite_kept {dv : Nat} (s : State) (h_s : Kept dv s) : OutKept dv (execLogRecordWrite s) := by
  unfold execLogRecordWrite
  try dsimp only
  repeat' (first | with_reducible assumption | with_reducible apply State.stamp_kept | with_reducible apply State.logWrite_kept |
                 with_reducible apply State.notify_kept | with_reducible apply done_kept | (intro _) | split |
                 dsimp only [StepKept, OutKept, IssueKept, MicroKept, OptKept, done] | simp only [kept_mk_eq] |
                 with_reducible apply keptC_of | with_reducible apply keptC_marks | with_reducible apply keptC_regs |
                 with_reducible exact kept_fst (by assumption) (by assumption))

end Sys2Proof.Machine
end

