-- ==== Sys2Proof/Laws/KeptLinks.lean ====
section
/-! SUPPORT. One lemma per operation: it keeps the memory canonical and the device number: the plant links and the anemometer. -/

namespace Sys2Proof.Machine


theorem State.setQueue_kept {dv : Nat} (s : State) (p q : Nat) (l : List PlkFrame) (h_s : Kept dv s) : Kept dv (State.setQueue s p q l)
    := by
  unfold State.setQueue
  try dsimp only
  repeat' (first | with_reducible assumption | with_reducible apply State.modPort_kept | (intro _) | split |
                 dsimp only [StepKept, OutKept, IssueKept, MicroKept, OptKept, done] | simp only [kept_mk_eq] |
                 with_reducible apply keptC_of | with_reducible apply keptC_marks | with_reducible apply keptC_regs |
                 with_reducible exact kept_fst (by assumption) (by assumption))

theorem State.logEgrDrop_kept {dv : Nat} (s : State) (p entry inst cause : Nat) (h_s : Kept dv s) : Kept dv (State.logEgrDrop s p entry
    inst cause) := by
  unfold State.logEgrDrop
  try dsimp only
  repeat' (first | with_reducible assumption | with_reducible apply State.log_kept | (intro _) | split |
                 dsimp only [StepKept, OutKept, IssueKept, MicroKept, OptKept, done] | simp only [kept_mk_eq] |
                 with_reducible apply keptC_of | with_reducible apply keptC_marks | with_reducible apply keptC_regs |
                 with_reducible exact kept_fst (by assumption) (by assumption))

theorem State.dropFrame_kept {dv : Nat} (s : State) (p cause : Nat) (f : PlkFrame) (h_s : Kept dv s) : Kept dv (State.dropFrame s p
    cause f) := by
  unfold State.dropFrame
  try dsimp only
  repeat' (first | with_reducible assumption | with_reducible apply State.count_kept | with_reducible apply State.logEgrDrop_kept |
                 (intro _) | split | dsimp only [StepKept, OutKept, IssueKept, MicroKept, OptKept, done] | simp only [kept_mk_eq] |
                 with_reducible apply keptC_of | with_reducible apply keptC_marks | with_reducible apply keptC_regs |
                 with_reducible exact kept_fst (by assumption) (by assumption))

theorem State.dropFrames_kept {dv : Nat} (s : State) (p cause : Nat) (l : List PlkFrame) (h_s : Kept dv s) : Kept dv (State.dropFrames s
    p cause l) := by
  fun_induction State.dropFrames s p cause l
  all_goals (repeat' (first | with_reducible assumption | (rename_i ih; with_reducible apply ih) | with_reducible apply State.dropFrame_kept |
                            (intro _) | split | dsimp only [StepKept, OutKept, IssueKept, MicroKept, OptKept, done] |
                            simp only [kept_mk_eq] | with_reducible apply keptC_of | with_reducible apply keptC_marks |
                            with_reducible apply keptC_regs | with_reducible exact kept_fst (by assumption) (by assumption)))
  all_goals first | done | simp_all

theorem State.dropStale_kept {dv : Nat} (s : State) (p e n q : Nat) (h_s : Kept dv s) : Kept dv (State.dropStale s p e n q) := by
  fun_induction State.dropStale s p e n q
  all_goals (repeat' (first | with_reducible assumption | (rename_i ih; with_reducible apply ih) | with_reducible apply State.setQueue_kept |
                            with_reducible apply State.dropFrames_kept | (intro _) | split |
                            dsimp only [StepKept, OutKept, IssueKept, MicroKept, OptKept, done] | simp only [kept_mk_eq] |
                            with_reducible apply keptC_of | with_reducible apply keptC_marks | with_reducible apply keptC_regs |
                            with_reducible exact kept_fst (by assumption) (by assumption)))
  all_goals first | done | simp_all

theorem State.enqueue_kept {dv : Nat} (s : State) (p q : Nat) (f : PlkFrame) (h_s : Kept dv s) : Kept dv (State.enqueue s p q f) := by
  unfold State.enqueue
  try dsimp only
  repeat' (first | with_reducible assumption | with_reducible apply State.setQueue_kept | with_reducible apply State.dropStale_kept |
                 (intro _) | split | dsimp only [StepKept, OutKept, IssueKept, MicroKept, OptKept, done] | simp only [kept_mk_eq] |
                 with_reducible apply keptC_of | with_reducible apply keptC_marks | with_reducible apply keptC_regs |
                 with_reducible exact kept_fst (by assumption) (by assumption))

theorem State.sendFrame_kept {dv : Nat} (s : State) (p q : Nat) (f : PlkFrame) (h_s : Kept dv s) : Kept dv (State.sendFrame s p q f) :=
    by
  unfold State.sendFrame
  try dsimp only
  repeat' (first | with_reducible assumption | with_reducible apply State.dropFrame_kept | with_reducible apply State.enqueue_kept |
                 (intro _) | split | dsimp only [StepKept, OutKept, IssueKept, MicroKept, OptKept, done] | simp only [kept_mk_eq] |
                 with_reducible apply keptC_of | with_reducible apply keptC_marks | with_reducible apply keptC_regs |
                 with_reducible exact kept_fst (by assumption) (by assumption))

theorem State.sendFrames_kept {dv : Nat} (s : State) (p q : Nat) (l : List PlkFrame) (h_s : Kept dv s) : Kept dv (State.sendFrames s p q
    l) := by
  fun_induction State.sendFrames s p q l
  all_goals (repeat' (first | with_reducible assumption | (rename_i ih; with_reducible apply ih) | with_reducible apply State.sendFrame_kept |
                            (intro _) | split | dsimp only [StepKept, OutKept, IssueKept, MicroKept, OptKept, done] |
                            simp only [kept_mk_eq] | with_reducible apply keptC_of | with_reducible apply keptC_marks |
                            with_reducible apply keptC_regs | with_reducible exact kept_fst (by assumption) (by assumption)))
  all_goals first | done | simp_all

theorem State.moveQueues_kept {dv : Nat} (s : State) (p n q : Nat) (h_s : Kept dv s) : Kept dv (State.moveQueues s p n q) := by
  fun_induction State.moveQueues s p n q
  all_goals (repeat' (first | with_reducible assumption | (rename_i ih; with_reducible apply ih) | with_reducible apply State.setQueue_kept |
                            with_reducible apply State.sendFrames_kept | (intro _) | split |
                            dsimp only [StepKept, OutKept, IssueKept, MicroKept, OptKept, done] | simp only [kept_mk_eq] |
                            with_reducible apply keptC_of | with_reducible apply keptC_marks | with_reducible apply keptC_regs |
                            with_reducible exact kept_fst (by assumption) (by assumption)))
  all_goals first | done | simp_all

theorem State.linkDown_kept {dv : Nat} (s : State) (p cause : Nat) (h_s : Kept dv s) : Kept dv (State.linkDown s p cause) := by
  unfold State.linkDown
  try dsimp only
  repeat' (first | with_reducible assumption | with_reducible apply State.setFld_kept | with_reducible apply State.raise_kept |
                 with_reducible apply State.log_kept | with_reducible apply State.modPort_kept |
                 with_reducible apply State.linkEvent_kept | with_reducible apply State.moveQueues_kept | (intro _) | split |
                 dsimp only [StepKept, OutKept, IssueKept, MicroKept, OptKept, done] | simp only [kept_mk_eq] |
                 with_reducible apply keptC_of | with_reducible apply keptC_marks | with_reducible apply keptC_regs |
                 with_reducible exact kept_fst (by assumption) (by assumption))

theorem execPlkLinkDown_kept {dv : Nat} (port : Fin 8) (absent : Bool) (s : State) (h_s : Kept dv s) : OutKept dv (execPlkLinkDown port
    absent s) := by
  unfold execPlkLinkDown
  try dsimp only
  repeat' (first | with_reducible assumption | with_reducible apply done_kept | with_reducible apply State.modPort_kept |
                 with_reducible apply State.linkDown_kept | (intro _) | split |
                 dsimp only [StepKept, OutKept, IssueKept, MicroKept, OptKept, done] | simp only [kept_mk_eq] |
                 with_reducible apply keptC_of | with_reducible apply keptC_marks | with_reducible apply keptC_regs |
                 with_reducible exact kept_fst (by assumption) (by assumption))

theorem execPlkLinkUp_kept {dv : Nat} (port : Fin 8) (s : State) (h_s : Kept dv s) : OutKept dv (execPlkLinkUp port s) := by
  unfold execPlkLinkUp
  try dsimp only
  repeat' (first | with_reducible assumption | with_reducible apply State.raise_kept | with_reducible apply State.log_kept |
                 with_reducible apply done_kept | (intro _) | split |
                 dsimp only [StepKept, OutKept, IssueKept, MicroKept, OptKept, done] | simp only [kept_mk_eq] |
                 with_reducible apply keptC_of | with_reducible apply keptC_marks | with_reducible apply keptC_regs |
                 with_reducible exact kept_fst (by assumption) (by assumption))

theorem State.setLock_kept {dv : Nat} (s : State) (p : Nat) (on : Bool) (h_s : Kept dv s) : Kept dv (State.setLock s p on) := by
  unfold State.setLock
  try dsimp only
  repeat' (first | with_reducible assumption | with_reducible apply State.modPort_kept | (intro _) | split |
                 dsimp only [StepKept, OutKept, IssueKept, MicroKept, OptKept, done] | simp only [kept_mk_eq] |
                 with_reducible apply keptC_of | with_reducible apply keptC_marks | with_reducible apply keptC_regs |
                 with_reducible exact kept_fst (by assumption) (by assumption))

theorem execPcsLockLost_kept {dv : Nat} (port : Fin 8) (s : State) (h_s : Kept dv s) : OutKept dv (execPcsLockLost port s) := by
  unfold execPcsLockLost
  try dsimp only
  repeat' (first | with_reducible assumption | with_reducible apply done_kept | with_reducible apply State.setLock_kept | (intro _) |
                 split | dsimp only [StepKept, OutKept, IssueKept, MicroKept, OptKept, done] | simp only [kept_mk_eq] |
                 with_reducible apply keptC_of | with_reducible apply keptC_marks | with_reducible apply keptC_regs |
                 with_reducible exact kept_fst (by assumption) (by assumption))

theorem execPcsLockAcquired_kept {dv : Nat} (port : Fin 8) (s : State) (h_s : Kept dv s) : OutKept dv (execPcsLockAcquired port s) := by
  unfold execPcsLockAcquired
  try dsimp only
  repeat' (first | with_reducible assumption | with_reducible apply done_kept | with_reducible apply State.setLock_kept | (intro _) |
                 split | dsimp only [StepKept, OutKept, IssueKept, MicroKept, OptKept, done] | simp only [kept_mk_eq] |
                 with_reducible apply keptC_of | with_reducible apply keptC_marks | with_reducible apply keptC_regs |
                 with_reducible exact kept_fst (by assumption) (by assumption))

theorem State.portCtlWrite_kept {dv : Nat} (s : State) (p v : Nat) (h_s : Kept dv s) : Kept dv (State.portCtlWrite s p v) := by
  unfold State.portCtlWrite
  try dsimp only
  repeat' (first | with_reducible assumption | with_reducible apply State.setReg_kept | with_reducible apply State.linkDown_kept |
                 with_reducible apply State.setLock_kept | (intro _) | split |
                 dsimp only [StepKept, OutKept, IssueKept, MicroKept, OptKept, done] | simp only [kept_mk_eq] |
                 with_reducible apply keptC_of | with_reducible apply keptC_marks | with_reducible apply keptC_regs |
                 with_reducible exact kept_fst (by assumption) (by assumption))

theorem execPortCtlWrite_kept {dv : Nat} (port : Fin 8) (value : Word32) (s : State) (h_s : Kept dv s) : OutKept dv (execPortCtlWrite
    port value s) := by
  unfold execPortCtlWrite
  try dsimp only
  repeat' (first | with_reducible assumption | with_reducible apply done_kept | with_reducible apply State.portCtlWrite_kept | (intro _)
                 | split | dsimp only [StepKept, OutKept, IssueKept, MicroKept, OptKept, done] | simp only [kept_mk_eq] |
                 with_reducible apply keptC_of | with_reducible apply keptC_marks | with_reducible apply keptC_regs |
                 with_reducible exact kept_fst (by assumption) (by assumption))

theorem State.resetPort_kept {dv : Nat} (s : State) (p : Nat) (h_s : Kept dv s) : Kept dv (State.resetPort s p) := by
  unfold State.resetPort
  try dsimp only
  repeat' (first | with_reducible assumption | with_reducible apply State.setPort_kept | (intro _) | split |
                 dsimp only [StepKept, OutKept, IssueKept, MicroKept, OptKept, done] | simp only [kept_mk_eq] |
                 with_reducible apply keptC_of | with_reducible apply keptC_marks | with_reducible apply keptC_regs |
                 with_reducible exact kept_fst (by assumption) (by assumption))

theorem State.mgmtReceive_kept {dv : Nat} (s : State) (p ts : Nat) (bytes : List Byte) (h_s : Kept dv s) : Kept dv (State.mgmtReceive s
    p ts bytes) := by
  unfold State.mgmtReceive
  try dsimp only
  repeat' (first | with_reducible assumption | with_reducible apply State.setFld_kept | with_reducible apply State.count_kept |
                 with_reducible apply State.dmaWriteBy_kept | (intro _) | split |
                 dsimp only [StepKept, OutKept, IssueKept, MicroKept, OptKept, done] | simp only [kept_mk_eq] |
                 with_reducible apply keptC_of | with_reducible apply keptC_marks | with_reducible apply keptC_regs |
                 with_reducible exact kept_fst (by assumption) (by assumption))

theorem State.partnerFrame_kept {dv : Nat} (s : State) (p dev openB mode tim : Nat) (ready : Bool) (h_s : Kept dv s) : Kept dv
    (State.partnerFrame s p dev openB mode tim ready) := by
  unfold State.partnerFrame
  try dsimp only
  repeat' (first | with_reducible assumption | with_reducible apply State.setFld_kept | with_reducible apply State.raise_kept |
                 with_reducible apply State.count_kept | with_reducible apply State.settle_kept | (intro _) | split |
                 dsimp only [StepKept, OutKept, IssueKept, MicroKept, OptKept, done] | simp only [kept_mk_eq] |
                 with_reducible apply keptC_of | with_reducible apply keptC_marks | with_reducible apply keptC_regs |
                 with_reducible exact kept_fst (by assumption) (by assumption))

theorem execPartnerFrameReceived_kept {dv : Nat} (port : Fin 8) (device : BitVec 12) (openB : Word) (mode tim : Fin 8) (ready : Bool) (s
    : State) (h_s : Kept dv s) : OutKept dv (execPartnerFrameReceived port device openB mode tim ready s) := by
  unfold execPartnerFrameReceived
  try dsimp only
  repeat' (first | with_reducible assumption | with_reducible apply done_kept | with_reducible apply State.partnerFrame_kept | (intro _)
                 | split | dsimp only [StepKept, OutKept, IssueKept, MicroKept, OptKept, done] | simp only [kept_mk_eq] |
                 with_reducible apply keptC_of | with_reducible apply keptC_marks | with_reducible apply keptC_regs |
                 with_reducible exact kept_fst (by assumption) (by assumption))

theorem execPlkPartnerLost_kept {dv : Nat} (s : State) (h_s : Kept dv s) : OutKept dv (execPlkPartnerLost s) := by
  unfold execPlkPartnerLost
  try dsimp only
  repeat' (first | with_reducible assumption | with_reducible apply State.setFld_kept | with_reducible apply State.raise_kept |
                 with_reducible apply State.log_kept | with_reducible apply done_kept | with_reducible apply State.settle_kept |
                 (intro _) | split | dsimp only [StepKept, OutKept, IssueKept, MicroKept, OptKept, done] | simp only [kept_mk_eq] |
                 with_reducible apply keptC_of | with_reducible apply keptC_marks | with_reducible apply keptC_regs |
                 with_reducible exact kept_fst (by assumption) (by assumption))

theorem execTakeover_kept {dv : Nat} (s : State) (h_s : Kept dv s) : OutKept dv (execTakeover s) := by
  unfold execTakeover
  try dsimp only
  repeat' (first | with_reducible assumption | with_reducible apply State.count_kept | with_reducible apply State.log_kept |
                 with_reducible apply done_kept | with_reducible apply State.toMode_kept | with_reducible apply State.settle_kept |
                 (intro _) | split | dsimp only [StepKept, OutKept, IssueKept, MicroKept, OptKept, done] | simp only [kept_mk_eq] |
                 with_reducible apply keptC_of | with_reducible apply keptC_marks | with_reducible apply keptC_regs |
                 with_reducible exact kept_fst (by assumption) (by assumption))

theorem execDualRun_kept {dv : Nat} (s : State) (h_s : Kept dv s) : OutKept dv (execDualRun s) := by
  unfold execDualRun
  try dsimp only
  repeat' (first | with_reducible assumption | with_reducible apply State.raise_kept | with_reducible apply State.log_kept |
                 with_reducible apply done_kept | with_reducible apply State.toMode_kept | with_reducible apply State.settle_kept |
                 (intro _) | split | dsimp only [StepKept, OutKept, IssueKept, MicroKept, OptKept, done] | simp only [kept_mk_eq] |
                 with_reducible apply keptC_of | with_reducible apply keptC_marks | with_reducible apply keptC_regs |
                 with_reducible exact kept_fst (by assumption) (by assumption))

theorem State.decodeRecords_kept {dv : Nat} (s : State) (p dev ts size n : Nat) (l : List Byte) (h_s : Kept dv s) :
    Kept dv (State.decodeRecords s p dev ts size n l) := by
  induction n generalizing s l with
  | zero => exact h_s
  | succ k ih =>
    unfold State.decodeRecords
    refine ih _ _ ?_
    split
    · exact State.lodeSend_kept _ _ (State.setReg_kept _ _ _ h_s)
    · exact State.count_kept _ _ _ h_s

theorem State.draughtFrame_kept {dv : Nat} (s : State) (p ts : Nat) (bytes hd : List Byte) (fcsOk : Bool) (h_s : Kept dv s) : Kept dv
    (State.draughtFrame s p ts bytes hd fcsOk) := by
  unfold State.draughtFrame
  try dsimp only
  repeat' (first | with_reducible assumption | with_reducible apply State.count_kept | with_reducible apply State.mgmtReceive_kept |
                 with_reducible apply State.partnerFrame_kept | with_reducible apply State.decodeRecords_kept | (intro _) | split |
                 dsimp only [StepKept, OutKept, IssueKept, MicroKept, OptKept, done] | simp only [kept_mk_eq] |
                 with_reducible apply keptC_of | with_reducible apply keptC_marks | with_reducible apply keptC_regs |
                 with_reducible exact kept_fst (by assumption) (by assumption))

theorem State.frameIn_kept {dv : Nat} (s0 : State) (p : Nat) (bytes : List Byte) (fcsOk : Bool) (h_s0 : Kept dv s0) : Kept dv
    (State.frameIn s0 p bytes fcsOk) := by
  unfold State.frameIn
  try dsimp only
  repeat' (first | with_reducible assumption | with_reducible apply State.count_kept | with_reducible apply State.stamp_kept |
                 with_reducible apply State.gptpIn_kept | with_reducible apply State.mgmtReceive_kept |
                 with_reducible apply State.draughtFrame_kept | (intro _) | split |
                 dsimp only [StepKept, OutKept, IssueKept, MicroKept, OptKept, done] | simp only [kept_mk_eq] |
                 with_reducible apply keptC_of | with_reducible apply keptC_marks | with_reducible apply keptC_regs |
                 with_reducible exact kept_fst (by assumption) (by assumption))

theorem execFrameReceived_kept {dv : Nat} (port : Fin 8) (bytes : List Byte) (fcsOk : Bool) (s : State) (h_s : Kept dv s) : OutKept dv
    (execFrameReceived port bytes fcsOk s) := by
  unfold execFrameReceived
  try dsimp only
  repeat' (first | with_reducible assumption | with_reducible apply done_kept | with_reducible apply State.frameIn_kept | (intro _) |
                 split | dsimp only [StepKept, OutKept, IssueKept, MicroKept, OptKept, done] | simp only [kept_mk_eq] |
                 with_reducible apply keptC_of | with_reducible apply keptC_marks | with_reducible apply keptC_regs |
                 with_reducible exact kept_fst (by assumption) (by assumption))

theorem State.egrCommit_kept {dv : Nat} (s : State) (d3 : Word) (h_s : Kept dv s) : Kept dv (State.egrCommit s d3) := by
  unfold State.egrCommit
  try dsimp only
  repeat' (first | with_reducible assumption | (intro _) | split | dsimp only [StepKept, OutKept, IssueKept, MicroKept, OptKept, done] |
                 simp only [kept_mk_eq] | with_reducible apply keptC_of | with_reducible apply keptC_marks |
                 with_reducible apply keptC_regs | with_reducible exact kept_fst (by assumption) (by assumption))

theorem execEgressEntryCommit_kept {dv : Nat} (value : Word) (s : State) (h_s : Kept dv s) : OutKept dv (execEgressEntryCommit value s)
    := by
  unfold execEgressEntryCommit
  try dsimp only
  repeat' (first | with_reducible assumption | with_reducible apply done_kept | with_reducible apply State.egrCommit_kept | (intro _) |
                 split | dsimp only [StepKept, OutKept, IssueKept, MicroKept, OptKept, done] | simp only [kept_mk_eq] |
                 with_reducible apply keptC_of | with_reducible apply keptC_marks | with_reducible apply keptC_regs |
                 with_reducible exact kept_fst (by assumption) (by assumption))

theorem State.egressRead_kept {dv : Nat} (s : State) (unit p e inst : Nat) (h_s : Kept dv s) : Kept dv (State.egressRead s unit p e
    inst) := by
  unfold State.egressRead
  try dsimp only
  repeat' (first | with_reducible assumption | (intro _) | split | dsimp only [StepKept, OutKept, IssueKept, MicroKept, OptKept, done] |
                 simp only [kept_mk_eq] | with_reducible apply keptC_of | with_reducible apply keptC_marks |
                 with_reducible apply keptC_regs | with_reducible exact kept_fst (by assumption) (by assumption))

theorem execEgressRead_kept {dv : Nat} (n : Fin 64) (s : State) (h_s : Kept dv s) : OutKept dv (execEgressRead n s) := by
  unfold execEgressRead
  try dsimp only
  repeat' (first | with_reducible assumption | with_reducible apply done_kept | with_reducible apply State.egressRead_kept | (intro _) |
                 split | dsimp only [StepKept, OutKept, IssueKept, MicroKept, OptKept, done] | simp only [kept_mk_eq] |
                 with_reducible apply keptC_of | with_reducible apply keptC_marks | with_reducible apply keptC_regs |
                 with_reducible exact kept_fst (by assumption) (by assumption))

theorem State.sendLaunch_kept {dv : Nat} (s : State) (p q : Nat) (dup : Option Nat) (f : PlkFrame) (h_s : Kept dv s) : Kept dv
    (State.sendLaunch s p q dup f) := by
  unfold State.sendLaunch
  try dsimp only
  repeat' (first | with_reducible assumption | with_reducible apply State.dropFrame_kept | with_reducible apply State.enqueue_kept |
                 with_reducible apply State.sendFrame_kept | (intro _) | split |
                 dsimp only [StepKept, OutKept, IssueKept, MicroKept, OptKept, done] | simp only [kept_mk_eq] |
                 with_reducible apply keptC_of | with_reducible apply keptC_marks | with_reducible apply keptC_regs |
                 with_reducible exact kept_fst (by assumption) (by assumption))

theorem State.buildLaunch_kept {dv : Nat} (s : State) (r : EgrRead) (flags : Nat) (recs : List Byte) (h_s : Kept dv s) : Kept dv
    (State.buildLaunch s r flags recs) := by
  unfold State.buildLaunch
  try dsimp only
  repeat' (first | with_reducible assumption | with_reducible apply State.sendLaunch_kept | (intro _) | split |
                 dsimp only [StepKept, OutKept, IssueKept, MicroKept, OptKept, done] | simp only [kept_mk_eq] |
                 with_reducible apply keptC_of | with_reducible apply keptC_marks | with_reducible apply keptC_regs |
                 with_reducible exact kept_fst (by assumption) (by assumption))

theorem State.dropLaunch_kept {dv : Nat} (s : State) (r : EgrRead) (cause : Nat) (h_s : Kept dv s) : Kept dv (State.dropLaunch s r
    cause) := by
  unfold State.dropLaunch
  try dsimp only
  repeat' (first | with_reducible assumption | with_reducible apply State.count_kept | with_reducible apply State.logEgrDrop_kept |
                 (intro _) | split | dsimp only [StepKept, OutKept, IssueKept, MicroKept, OptKept, done] | simp only [kept_mk_eq] |
                 with_reducible apply keptC_of | with_reducible apply keptC_marks | with_reducible apply keptC_regs |
                 with_reducible exact kept_fst (by assumption) (by assumption))

theorem State.judgeLaunch_kept {dv : Nat} (s : State) (r : EgrRead) (bad flags : Nat) (recs : List Byte) (h_s : Kept dv s) : Kept dv
    (State.judgeLaunch s r bad flags recs) := by
  unfold State.judgeLaunch
  try dsimp only
  repeat' (first | with_reducible assumption | with_reducible apply State.buildLaunch_kept | with_reducible apply State.dropLaunch_kept
                 | with_reducible apply getD_kept | (intro _) | split |
                 dsimp only [StepKept, OutKept, IssueKept, MicroKept, OptKept, done] | simp only [kept_mk_eq] |
                 with_reducible apply keptC_of | with_reducible apply keptC_marks | with_reducible apply keptC_regs |
                 with_reducible exact kept_fst (by assumption) (by assumption))

theorem State.launchRead_kept {dv : Nat} (s : State) (r : EgrRead) (h_s : Kept dv s) : Kept dv (State.launchRead s r) := by
  unfold State.launchRead
  try dsimp only
  repeat' (first | with_reducible assumption | with_reducible apply State.dropLaunch_kept | with_reducible apply State.judgeLaunch_kept
                 | (intro _) | split | dsimp only [StepKept, OutKept, IssueKept, MicroKept, OptKept, done] | simp only [kept_mk_eq] |
                 with_reducible apply keptC_of | with_reducible apply keptC_marks | with_reducible apply keptC_regs |
                 with_reducible exact kept_fst (by assumption) (by assumption))

theorem State.launch_kept {dv : Nat} (s : State) (unit p e inst : Nat) (h_s : Kept dv s) : Kept dv (State.launch s unit p e inst) := by
  unfold State.launch
  try dsimp only
  repeat' (first | with_reducible assumption | with_reducible apply State.egressRead_kept | with_reducible apply State.launchRead_kept |
                 with_reducible apply getD_kept | (intro _) | split |
                 dsimp only [StepKept, OutKept, IssueKept, MicroKept, OptKept, done] | simp only [kept_mk_eq] |
                 with_reducible apply keptC_of | with_reducible apply keptC_marks | with_reducible apply keptC_regs |
                 with_reducible exact kept_fst (by assumption) (by assumption))

theorem State.transmit_kept {dv : Nat} (s : State) (p : Nat) (h_s : Kept dv s) : Kept dv (State.transmit s p) := by
  unfold State.transmit
  try dsimp only
  repeat' (first | with_reducible assumption | with_reducible apply State.count_kept | with_reducible apply State.stamp_kept |
                 with_reducible apply State.emit_kept | with_reducible apply State.log_kept | with_reducible apply State.modPort_kept |
                 with_reducible apply State.putGptp_kept | with_reducible apply State.setQueue_kept | (intro _) | split |
                 dsimp only [StepKept, OutKept, IssueKept, MicroKept, OptKept, done] | simp only [kept_mk_eq] |
                 with_reducible apply keptC_of | with_reducible apply keptC_marks | with_reducible apply keptC_regs |
                 with_reducible exact kept_fst (by assumption) (by assumption))

theorem execFrameTransmit_kept {dv : Nat} (port : Fin 8) (s : State) (h_s : Kept dv s) : OutKept dv (execFrameTransmit port s) := by
  unfold execFrameTransmit
  try dsimp only
  repeat' (first | with_reducible assumption | with_reducible apply done_kept | with_reducible apply State.transmit_kept | (intro _) |
                 split | dsimp only [StepKept, OutKept, IssueKept, MicroKept, OptKept, done] | simp only [kept_mk_eq] |
                 with_reducible apply keptC_of | with_reducible apply keptC_marks | with_reducible apply keptC_regs |
                 with_reducible exact kept_fst (by assumption) (by assumption))

theorem State.gclSettle_kept {dv : Nat} (s : State) (p : Nat) (h_s : Kept dv s) : Kept dv (State.gclSettle s p) := by
  unfold State.gclSettle
  try dsimp only
  repeat' (first | with_reducible assumption | with_reducible apply State.setFld_kept | with_reducible apply State.modPort_kept |
                 (intro _) | split | dsimp only [StepKept, OutKept, IssueKept, MicroKept, OptKept, done] | simp only [kept_mk_eq] |
                 with_reducible apply keptC_of | with_reducible apply keptC_marks | with_reducible apply keptC_regs |
                 with_reducible exact kept_fst (by assumption) (by assumption))

theorem State.gclWrite_kept {dv : Nat} (s : State) (p v : Nat) (h_s : Kept dv s) : Kept dv (State.gclWrite s p v) := by
  unfold State.gclWrite
  try dsimp only
  repeat' (first | with_reducible assumption | with_reducible apply State.setFld_kept | with_reducible apply State.raise_kept |
                 with_reducible apply State.modPort_kept | with_reducible apply State.gclSettle_kept | (intro _) | split |
                 dsimp only [StepKept, OutKept, IssueKept, MicroKept, OptKept, done] | simp only [kept_mk_eq] |
                 with_reducible apply keptC_of | with_reducible apply keptC_marks | with_reducible apply keptC_regs |
                 with_reducible exact kept_fst (by assumption) (by assumption))

theorem execGclCommit_kept {dv : Nat} (port : Fin 8) (value : Word32) (s : State) (h_s : Kept dv s) : OutKept dv (execGclCommit port
    value s) := by
  unfold execGclCommit
  try dsimp only
  repeat' (first | with_reducible assumption | with_reducible apply done_kept | with_reducible apply State.gclWrite_kept | (intro _) |
                 split | dsimp only [StepKept, OutKept, IssueKept, MicroKept, OptKept, done] | simp only [kept_mk_eq] |
                 with_reducible apply keptC_of | with_reducible apply keptC_marks | with_reducible apply keptC_regs |
                 with_reducible exact kept_fst (by assumption) (by assumption))

theorem execGclInForce_kept {dv : Nat} (port : Fin 8) (s : State) (h_s : Kept dv s) : OutKept dv (execGclInForce port s) := by
  unfold execGclInForce
  try dsimp only
  repeat' (first | with_reducible assumption | with_reducible apply done_kept | with_reducible apply State.gclSettle_kept | (intro _) |
                 split | dsimp only [StepKept, OutKept, IssueKept, MicroKept, OptKept, done] | simp only [kept_mk_eq] |
                 with_reducible apply keptC_of | with_reducible apply keptC_marks | with_reducible apply keptC_regs |
                 with_reducible exact kept_fst (by assumption) (by assumption))

theorem State.sendPartner_kept {dv : Nat} (s : State) (bytes : List Byte) (n p : Nat) (h_s : Kept dv s) : Kept dv (State.sendPartner s
    bytes n p) := by
  fun_induction State.sendPartner s bytes n p
  all_goals (repeat' (first | with_reducible assumption | (rename_i ih; with_reducible apply ih) | with_reducible apply State.sendFrame_kept |
                            (intro _) | split | dsimp only [StepKept, OutKept, IssueKept, MicroKept, OptKept, done] |
                            simp only [kept_mk_eq] | with_reducible apply keptC_of | with_reducible apply keptC_marks |
                            with_reducible apply keptC_regs | with_reducible exact kept_fst (by assumption) (by assumption)))
  all_goals first | done | simp_all

theorem execPartnerFrameSend_kept {dv : Nat} (s : State) (h_s : Kept dv s) : OutKept dv (execPartnerFrameSend s) := by
  unfold execPartnerFrameSend
  try dsimp only
  repeat' (first | with_reducible assumption | with_reducible apply State.draw_kept | with_reducible apply done_kept |
                 with_reducible apply State.sendPartner_kept | (intro _) | split |
                 dsimp only [StepKept, OutKept, IssueKept, MicroKept, OptKept, done] | simp only [kept_mk_eq] |
                 with_reducible apply keptC_of | with_reducible apply keptC_marks | with_reducible apply keptC_regs |
                 with_reducible exact kept_fst (by assumption) (by assumption))

theorem State.partnerWrite_kept {dv : Nat} (s : State) (v : Nat) (h_s : Kept dv s) : Kept dv (State.partnerWrite s v) := by
  unfold State.partnerWrite
  try dsimp only
  repeat' (first | with_reducible assumption | with_reducible apply State.setFld_kept | (intro _) | split |
                 dsimp only [StepKept, OutKept, IssueKept, MicroKept, OptKept, done] | simp only [kept_mk_eq] |
                 with_reducible apply keptC_of | with_reducible apply keptC_marks | with_reducible apply keptC_regs |
                 with_reducible exact kept_fst (by assumption) (by assumption))

theorem execMgmtTxTailWrite_kept {dv : Nat} (tail : BitVec 16) (s : State) (h_s : Kept dv s) : OutKept dv (execMgmtTxTailWrite tail s)
    := by
  unfold execMgmtTxTailWrite
  try dsimp only
  repeat' (first | with_reducible assumption | with_reducible apply State.setFld_kept | with_reducible apply done_kept | (intro _) |
                 split | dsimp only [StepKept, OutKept, IssueKept, MicroKept, OptKept, done] | simp only [kept_mk_eq] |
                 with_reducible apply keptC_of | with_reducible apply keptC_marks | with_reducible apply keptC_regs |
                 with_reducible exact kept_fst (by assumption) (by assumption))

theorem execMgmtTxSend_kept {dv : Nat} (s : State) (h_s : Kept dv s) : OutKept dv (execMgmtTxSend s) := by
  unfold execMgmtTxSend
  try dsimp only
  repeat' (first | with_reducible assumption | with_reducible apply State.setFld_kept | with_reducible apply State.count_kept |
                 with_reducible apply State.hubAccess_kept | with_reducible apply done_kept | with_reducible apply State.sendFrame_kept
                 | (intro _) | split | dsimp only [StepKept, OutKept, IssueKept, MicroKept, OptKept, done] | simp only [kept_mk_eq] |
                 with_reducible apply keptC_of | with_reducible apply keptC_marks | with_reducible apply keptC_regs |
                 with_reducible exact kept_fst (by assumption) (by assumption))

theorem State.anmMapWrite_kept {dv : Nat} (s : State) (n : Nat) (v : Word) (h_s : Kept dv s) : Kept dv (State.anmMapWrite s n v) := by
  unfold State.anmMapWrite
  try dsimp only
  repeat' (first | with_reducible assumption | with_reducible apply State.setReg_kept | (intro _) | split |
                 dsimp only [StepKept, OutKept, IssueKept, MicroKept, OptKept, done] | simp only [kept_mk_eq] |
                 with_reducible apply keptC_of | with_reducible apply keptC_marks | with_reducible apply keptC_regs |
                 with_reducible exact kept_fst (by assumption) (by assumption))

theorem State.anmWrite_kept {dv : Nat} (s : State) (n : Nat) (drop : IoField) (time kind quality : Nat) (value : Word) (h_s : Kept dv s)
    : Kept dv (State.anmWrite s n drop time kind quality value) := by
  unfold State.anmWrite
  try dsimp only
  repeat' (first | with_reducible assumption | with_reducible apply State.raise_kept | with_reducible apply State.count_kept |
                 with_reducible apply State.lodeSend_kept | (intro _) | split |
                 dsimp only [StepKept, OutKept, IssueKept, MicroKept, OptKept, done] | simp only [kept_mk_eq] |
                 with_reducible apply keptC_of | with_reducible apply keptC_marks | with_reducible apply keptC_regs |
                 with_reducible exact kept_fst (by assumption) (by assumption))

theorem State.ainSample_kept {dv : Nat} (s : State) (time n : Nat) (l : List Int) (h_s : Kept dv s) : Kept dv (State.ainSample s time n
    l) := by
  unfold State.ainSample
  try dsimp only
  repeat' (first | with_reducible assumption | with_reducible apply State.anmWrite_kept | (intro _) | split |
                 dsimp only [StepKept, OutKept, IssueKept, MicroKept, OptKept, done] | simp only [kept_mk_eq] |
                 with_reducible apply keptC_of | with_reducible apply keptC_marks | with_reducible apply keptC_regs |
                 with_reducible exact kept_fst (by assumption) (by assumption))

theorem State.setEnc_kept {dv : Nat} (s : State) (n : Nat) (x : Encoder) (h_s : Kept dv s) : Kept dv (State.setEnc s n x) := by
  unfold State.setEnc
  try dsimp only
  repeat' (first | with_reducible assumption | (intro _) | split | dsimp only [StepKept, OutKept, IssueKept, MicroKept, OptKept, done] |
                 simp only [kept_mk_eq] | with_reducible apply keptC_of | with_reducible apply keptC_marks |
                 with_reducible apply keptC_regs | with_reducible exact kept_fst (by assumption) (by assumption))

theorem State.encLatch_kept {dv : Nat} (s : State) (time n : Nat) (h_s : Kept dv s) : Kept dv (State.encLatch s time n) := by
  unfold State.encLatch
  try dsimp only
  repeat' (first | with_reducible assumption | with_reducible apply State.anmWrite_kept | with_reducible apply State.setEnc_kept |
                 (intro _) | split | dsimp only [StepKept, OutKept, IssueKept, MicroKept, OptKept, done] | simp only [kept_mk_eq] |
                 with_reducible apply keptC_of | with_reducible apply keptC_marks | with_reducible apply keptC_regs |
                 with_reducible exact kept_fst (by assumption) (by assumption))

theorem State.ainSamples_kept {dv : Nat} (s : State) (conv : List (List (BitVec 18))) (time k n : Nat) (h_s : Kept dv s) : Kept dv
    (State.ainSamples s conv time k n) := by
  fun_induction State.ainSamples s conv time k n
  all_goals (repeat' (first | with_reducible assumption | (rename_i ih; with_reducible apply ih) | with_reducible apply State.ainSample_kept |
                            (intro _) | split | dsimp only [StepKept, OutKept, IssueKept, MicroKept, OptKept, done] |
                            simp only [kept_mk_eq] | with_reducible apply keptC_of | with_reducible apply keptC_marks |
                            with_reducible apply keptC_regs | with_reducible exact kept_fst (by assumption) (by assumption)))
  all_goals first | done | simp_all

theorem State.encLatches_kept {dv : Nat} (s : State) (time k n : Nat) (h_s : Kept dv s) : Kept dv (State.encLatches s time k n) := by
  fun_induction State.encLatches s time k n
  all_goals (repeat' (first | with_reducible assumption | (rename_i ih; with_reducible apply ih) | with_reducible apply State.encLatch_kept |
                            (intro _) | split | dsimp only [StepKept, OutKept, IssueKept, MicroKept, OptKept, done] |
                            simp only [kept_mk_eq] | with_reducible apply keptC_of | with_reducible apply keptC_marks |
                            with_reducible apply keptC_regs | with_reducible exact kept_fst (by assumption) (by assumption)))
  all_goals first | done | simp_all

theorem execDecimatedSample_kept {dv : Nat} (conv : List (List (BitVec 18))) (s : State) (h_s : Kept dv s) : OutKept dv
    (execDecimatedSample conv s) := by
  unfold execDecimatedSample
  try dsimp only
  repeat' (first | with_reducible assumption | with_reducible apply done_kept | with_reducible apply State.ainSamples_kept |
                 with_reducible apply State.encLatches_kept | (intro _) | split |
                 dsimp only [StepKept, OutKept, IssueKept, MicroKept, OptKept, done] | simp only [kept_mk_eq] |
                 with_reducible apply keptC_of | with_reducible apply keptC_marks | with_reducible apply keptC_regs |
                 with_reducible exact kept_fst (by assumption) (by assumption))

theorem State.encMove_kept {dv : Nat} (s : State) (n : Nat) (a b z : Bool) (h_s : Kept dv s) : Kept dv (State.encMove s n a b z) := by
  unfold State.encMove
  try dsimp only
  repeat' (first | with_reducible assumption | with_reducible apply State.setFld_kept | with_reducible apply State.count_kept |
                 with_reducible apply State.setEnc_kept | (intro _) | split |
                 dsimp only [StepKept, OutKept, IssueKept, MicroKept, OptKept, done] | simp only [kept_mk_eq] |
                 with_reducible apply keptC_of | with_reducible apply keptC_marks | with_reducible apply keptC_regs |
                 with_reducible exact kept_fst (by assumption) (by assumption))

theorem execEncoderTransition_kept {dv : Nat} (n : Fin 16) (a b z : Bool) (s : State) (h_s : Kept dv s) : OutKept dv
    (execEncoderTransition n a b z s) := by
  unfold execEncoderTransition
  try dsimp only
  repeat' (first | with_reducible assumption | with_reducible apply done_kept | with_reducible apply State.encMove_kept | (intro _) |
                 split | dsimp only [StepKept, OutKept, IssueKept, MicroKept, OptKept, done] | simp only [kept_mk_eq] |
                 with_reducible apply keptC_of | with_reducible apply keptC_marks | with_reducible apply keptC_regs |
                 with_reducible exact kept_fst (by assumption) (by assumption))

theorem State.edge_kept {dv : Nat} (s : State) (n : Nat) (level : Bool) (h_s : Kept dv s) : Kept dv (State.edge s n level) := by
  unfold State.edge
  try dsimp only
  repeat' (first | with_reducible assumption | with_reducible apply State.anmWrite_kept | (intro _) | split |
                 dsimp only [StepKept, OutKept, IssueKept, MicroKept, OptKept, done] | simp only [kept_mk_eq] |
                 with_reducible apply keptC_of | with_reducible apply keptC_marks | with_reducible apply keptC_regs |
                 with_reducible exact kept_fst (by assumption) (by assumption))

theorem execDigitalEdge_kept {dv : Nat} (n : Fin 32) (pin : Bool) (s : State) (h_s : Kept dv s) : OutKept dv (execDigitalEdge n pin s)
    := by
  unfold execDigitalEdge
  try dsimp only
  repeat' (first | with_reducible assumption | with_reducible apply done_kept | with_reducible apply State.edge_kept | (intro _) | split
                 | dsimp only [StepKept, OutKept, IssueKept, MicroKept, OptKept, done] | simp only [kept_mk_eq] |
                 with_reducible apply keptC_of | with_reducible apply keptC_marks | with_reducible apply keptC_regs |
                 with_reducible exact kept_fst (by assumption) (by assumption))

theorem execAnmCalibrationDone_kept {dv : Nat} (s : State) (h_s : Kept dv s) : OutKept dv (execAnmCalibrationDone s) := by
  unfold execAnmCalibrationDone
  try dsimp only
  repeat' (first | with_reducible assumption | with_reducible apply State.raise_kept | with_reducible apply done_kept | (intro _) |
                 split | dsimp only [StepKept, OutKept, IssueKept, MicroKept, OptKept, done] | simp only [kept_mk_eq] |
                 with_reducible apply keptC_of | with_reducible apply keptC_marks | with_reducible apply keptC_regs |
                 with_reducible exact kept_fst (by assumption) (by assumption))

theorem State.outReads_kept {dv : Nat} (s : State) (unit action mask inst : Nat) (h_s : Kept dv s) : Kept dv (State.outReads s unit
    action mask inst) := by
  unfold State.outReads
  try dsimp only
  repeat' (first | with_reducible assumption | (intro _) | split | dsimp only [StepKept, OutKept, IssueKept, MicroKept, OptKept, done] |
                 simp only [kept_mk_eq] | with_reducible apply keptC_of | with_reducible apply keptC_marks |
                 with_reducible apply keptC_regs | with_reducible exact kept_fst (by assumption) (by assumption))

theorem execOutputEgressRead_kept {dv : Nat} (n : Fin 64) (s : State) (h_s : Kept dv s) : OutKept dv (execOutputEgressRead n s) := by
  unfold execOutputEgressRead
  try dsimp only
  repeat' (first | with_reducible assumption | with_reducible apply done_kept | with_reducible apply State.outReads_kept | (intro _) |
                 split | dsimp only [StepKept, OutKept, IssueKept, MicroKept, OptKept, done] | simp only [kept_mk_eq] |
                 with_reducible apply keptC_of | with_reducible apply keptC_marks | with_reducible apply keptC_regs |
                 with_reducible exact kept_fst (by assumption) (by assumption))

theorem State.outUpdate_kept {dv : Nat} (s : State) (v : OutVal) (h_s : Kept dv s) : Kept dv (State.outUpdate s v) := by
  unfold State.outUpdate
  try dsimp only
  repeat' (first | with_reducible assumption | with_reducible apply State.setPin_kept | (intro _) | split |
                 dsimp only [StepKept, OutKept, IssueKept, MicroKept, OptKept, done] | simp only [kept_mk_eq] |
                 with_reducible apply keptC_of | with_reducible apply keptC_marks | with_reducible apply keptC_regs |
                 with_reducible exact kept_fst (by assumption) (by assumption))

theorem State.outputAction_kept {dv : Nat} (s : State) (unit action mask inst : Nat) (h_s : Kept dv s) : Kept dv (State.outputAction s
    unit action mask inst) := by
  unfold State.outputAction
  try dsimp only
  repeat' (first | with_reducible assumption | with_reducible apply State.outReads_kept | with_reducible apply State.outUpdate_kept |
                 with_reducible apply foldl_kept | with_reducible apply getD_kept | (intro _) | split |
                 dsimp only [StepKept, OutKept, IssueKept, MicroKept, OptKept, done] | simp only [kept_mk_eq] |
                 with_reducible apply keptC_of | with_reducible apply keptC_marks | with_reducible apply keptC_regs |
                 with_reducible exact kept_fst (by assumption) (by assumption))

theorem execPwmPeriodStart_kept {dv : Nat} (m : Fin 8) (s : State) (h_s : Kept dv s) : OutKept dv (execPwmPeriodStart m s) := by
  unfold execPwmPeriodStart
  try dsimp only
  repeat' (first | with_reducible assumption | with_reducible apply done_kept | with_reducible apply State.setPin_kept | (intro _) |
                 split | dsimp only [StepKept, OutKept, IssueKept, MicroKept, OptKept, done] | simp only [kept_mk_eq] |
                 with_reducible apply keptC_of | with_reducible apply keptC_marks | with_reducible apply keptC_regs |
                 with_reducible exact kept_fst (by assumption) (by assumption))

theorem State.anmReset_kept {dv : Nat} (s : State) (h_s : Kept dv s) : Kept dv (State.anmReset s) := by
  unfold State.anmReset
  try dsimp only
  repeat' (first | with_reducible assumption | (intro _) | split | dsimp only [StepKept, OutKept, IssueKept, MicroKept, OptKept, done] |
                 simp only [kept_mk_eq] | with_reducible apply keptC_of | with_reducible apply keptC_marks |
                 with_reducible apply keptC_regs | with_reducible exact kept_fst (by assumption) (by assumption))

end Sys2Proof.Machine
end

