-- ==== Sys2Proof/Laws/KeptUnits.lean ====
section
/-! SUPPORT. One lemma per operation: it keeps the memory canonical and the device number: the skip engines, the adits and the debug session. -/

namespace Sys2Proof.Machine


theorem State.setChan_kept {dv : Nat} (s : State) (n : Nat) (x : SkpChannel) (h_s : Kept dv s) : Kept dv (State.setChan s n x) := by
  unfold State.setChan
  try dsimp only
  repeat' (first | with_reducible assumption | (intro _) | split | dsimp only [StepKept, OutKept, IssueKept, MicroKept, OptKept, done] |
                 simp only [kept_mk_eq] | with_reducible apply keptC_of | with_reducible apply keptC_marks |
                 with_reducible apply keptC_regs | with_reducible exact kept_fst (by assumption) (by assumption))

theorem State.modChan_kept {dv : Nat} (s : State) (n : Nat) (f : SkpChannel → SkpChannel) (h_s : Kept dv s) : Kept dv (State.modChan s n
    f) := by
  unfold State.modChan
  try dsimp only
  repeat' (first | with_reducible assumption | with_reducible apply State.setChan_kept | (intro _) | split |
                 dsimp only [StepKept, OutKept, IssueKept, MicroKept, OptKept, done] | simp only [kept_mk_eq] |
                 with_reducible apply keptC_of | with_reducible apply keptC_marks | with_reducible apply keptC_regs |
                 with_reducible exact kept_fst (by assumption) (by assumption))

theorem State.skSettle_kept {dv : Nat} (s : State) (n : Nat) (h_s : Kept dv s) : Kept dv (State.skSettle s n) := by
  unfold State.skSettle
  try dsimp only
  repeat' (first | with_reducible assumption | with_reducible apply State.modChan_kept | (intro _) | split |
                 dsimp only [StepKept, OutKept, IssueKept, MicroKept, OptKept, done] | simp only [kept_mk_eq] |
                 with_reducible apply keptC_of | with_reducible apply keptC_marks | with_reducible apply keptC_regs |
                 with_reducible exact kept_fst (by assumption) (by assumption))

theorem State.skCharge_kept {dv : Nat} (s : State) (n bytes : Nat) (h_s : Kept dv s) : Kept dv (State.skCharge s n bytes) := by
  unfold State.skCharge
  try dsimp only
  repeat' (first | with_reducible assumption | with_reducible apply State.modChan_kept | (intro _) | split |
                 dsimp only [StepKept, OutKept, IssueKept, MicroKept, OptKept, done] | simp only [kept_mk_eq] |
                 with_reducible apply keptC_of | with_reducible apply keptC_marks | with_reducible apply keptC_regs |
                 with_reducible exact kept_fst (by assumption) (by assumption))

theorem State.skBurstWrite_kept {dv : Nat} (s : State) (n v : Nat) (h_s : Kept dv s) : Kept dv (State.skBurstWrite s n v) := by
  unfold State.skBurstWrite
  try dsimp only
  repeat' (first | with_reducible assumption | with_reducible apply State.setFld_kept | with_reducible apply State.modChan_kept |
                 (intro _) | split | dsimp only [StepKept, OutKept, IssueKept, MicroKept, OptKept, done] | simp only [kept_mk_eq] |
                 with_reducible apply keptC_of | with_reducible apply keptC_marks | with_reducible apply keptC_regs |
                 with_reducible exact kept_fst (by assumption) (by assumption))

theorem State.skRecord_kept {dv : Nat} (s : State) (n status : Nat) (msg : Bool) (h_s : Kept dv s) : Kept dv (State.skRecord s n status
    msg) := by
  unfold State.skRecord
  try dsimp only
  repeat' (first | with_reducible assumption | with_reducible apply State.stamp_kept | with_reducible apply State.sendMsix_kept |
                 with_reducible apply State.dmaWriteBy_kept | with_reducible apply State.hostWrite_kept | (intro _) | split |
                 dsimp only [StepKept, OutKept, IssueKept, MicroKept, OptKept, done] | simp only [kept_mk_eq] |
                 with_reducible apply keptC_of | with_reducible apply keptC_marks | with_reducible apply keptC_regs |
                 with_reducible exact kept_fst (by assumption) (by assumption))

theorem State.skHalt_kept {dv : Nat} (s : State) (n code addr : Nat) (h_s : Kept dv s) : Kept dv (State.skHalt s n code addr) := by
  unfold State.skHalt
  try dsimp only
  repeat' (first | with_reducible assumption | with_reducible apply State.setFld_kept | with_reducible apply State.raise_kept |
                 with_reducible apply State.count_kept | with_reducible apply State.log_kept | with_reducible apply State.modChan_kept |
                 (intro _) | split | dsimp only [StepKept, OutKept, IssueKept, MicroKept, OptKept, done] | simp only [kept_mk_eq] |
                 with_reducible apply keptC_of | with_reducible apply keptC_marks | with_reducible apply keptC_regs |
                 with_reducible exact kept_fst (by assumption) (by assumption))

theorem State.skStop_kept {dv : Nat} (s : State) (n code addr : Nat) (h_s : Kept dv s) : Kept dv (State.skStop s n code addr) := by
  unfold State.skStop
  try dsimp only
  repeat' (first | with_reducible assumption | with_reducible apply State.skRecord_kept | with_reducible apply State.skHalt_kept |
                 (intro _) | split | dsimp only [StepKept, OutKept, IssueKept, MicroKept, OptKept, done] | simp only [kept_mk_eq] |
                 with_reducible apply keptC_of | with_reducible apply keptC_marks | with_reducible apply keptC_regs |
                 with_reducible exact kept_fst (by assumption) (by assumption))

theorem State.skReadOne_kept {dv : Nat} (s : State) (n : Nat) (h_s : Kept dv s) : Kept dv (State.skReadOne s n) := by
  unfold State.skReadOne
  try dsimp only
  repeat' (first | with_reducible assumption | with_reducible apply State.outDrop_kept | with_reducible apply State.hostRead_kept |
                 with_reducible apply State.modChan_kept | (intro _) | split |
                 dsimp only [StepKept, OutKept, IssueKept, MicroKept, OptKept, done] | simp only [kept_mk_eq] |
                 with_reducible apply keptC_of | with_reducible apply keptC_marks | with_reducible apply keptC_regs |
                 with_reducible exact kept_fst (by assumption) (by assumption))

theorem State.skReads_kept {dv : Nat} (s : State) (k : Nat) (h_s : Kept dv s) : Kept dv (State.skReads s k) := by
  fun_induction State.skReads s k
  all_goals (repeat' (first | with_reducible assumption | (rename_i ih; with_reducible apply ih) | with_reducible apply State.skReadOne_kept |
                            (intro _) | split | dsimp only [StepKept, OutKept, IssueKept, MicroKept, OptKept, done] |
                            simp only [kept_mk_eq] | with_reducible apply keptC_of | with_reducible apply keptC_marks |
                            with_reducible apply keptC_regs | with_reducible exact kept_fst (by assumption) (by assumption)))
  all_goals first | done | simp_all

theorem State.skPump_kept {dv : Nat} (s : State) (n : Nat) (h_s : Kept dv s) : Kept dv (State.skPump s n) := by
  unfold State.skPump
  try dsimp only
  repeat' (first | with_reducible assumption | with_reducible apply State.modChan_kept | with_reducible apply State.skReads_kept |
                 (intro _) | split | dsimp only [StepKept, OutKept, IssueKept, MicroKept, OptKept, done] | simp only [kept_mk_eq] |
                 with_reducible apply keptC_of | with_reducible apply keptC_marks | with_reducible apply keptC_regs |
                 with_reducible exact kept_fst (by assumption) (by assumption))

theorem State.skCopy_kept {dv : Nat} (s : State) (n : Nat) (h_s : Kept dv s) : Kept dv (State.skCopy s n) := by
  unfold State.skCopy
  try dsimp only
  repeat' (first | with_reducible assumption | with_reducible apply State.setReg_kept | with_reducible apply foldl_kept | (intro _) |
                 split | dsimp only [StepKept, OutKept, IssueKept, MicroKept, OptKept, done] | simp only [kept_mk_eq] |
                 with_reducible apply keptC_of | with_reducible apply keptC_marks | with_reducible apply keptC_regs |
                 with_reducible exact kept_fst (by assumption) (by assumption))

theorem State.skSample_kept {dv : Nat} (s : State) (n : Nat) (h_s : Kept dv s) : Kept dv (State.skSample s n) := by
  unfold State.skSample
  try dsimp only
  repeat' (first | with_reducible assumption | with_reducible apply State.setReg_kept | with_reducible apply State.setFld_kept |
                 with_reducible apply State.modChan_kept | with_reducible apply State.skHalt_kept |
                 with_reducible apply State.skPump_kept | with_reducible apply State.skCopy_kept | (intro _) | split |
                 dsimp only [StepKept, OutKept, IssueKept, MicroKept, OptKept, done] | simp only [kept_mk_eq] |
                 with_reducible apply keptC_of | with_reducible apply keptC_marks | with_reducible apply keptC_regs |
                 with_reducible exact kept_fst (by assumption) (by assumption))

theorem execHandOver_kept {dv : Nat} (n : Fin 64) (s : State) (h_s : Kept dv s) : OutKept dv (execHandOver n s) := by
  unfold execHandOver
  try dsimp only
  repeat' (first | with_reducible assumption | with_reducible apply State.setFld_kept | with_reducible apply done_kept |
                 with_reducible apply State.modChan_kept | with_reducible apply State.skSample_kept | (intro _) | split |
                 dsimp only [StepKept, OutKept, IssueKept, MicroKept, OptKept, done] | simp only [kept_mk_eq] |
                 with_reducible apply keptC_of | with_reducible apply keptC_marks | with_reducible apply keptC_regs |
                 with_reducible exact kept_fst (by assumption) (by assumption))

theorem State.skCommit_kept {dv : Nat} (s : State) (n : Nat) (h_s : Kept dv s) : Kept dv (State.skCommit s n) := by
  unfold State.skCommit
  try dsimp only
  repeat' (first | with_reducible assumption | with_reducible apply State.raise_kept | with_reducible apply State.skSample_kept |
                 (intro _) | split | dsimp only [StepKept, OutKept, IssueKept, MicroKept, OptKept, done] | simp only [kept_mk_eq] |
                 with_reducible apply keptC_of | with_reducible apply keptC_marks | with_reducible apply keptC_regs |
                 with_reducible exact kept_fst (by assumption) (by assumption))

theorem execShadowCommit_kept {dv : Nat} (n : Fin 64) (s : State) (h_s : Kept dv s) : OutKept dv (execShadowCommit n s) := by
  unfold execShadowCommit
  try dsimp only
  repeat' (first | with_reducible assumption | with_reducible apply done_kept | with_reducible apply State.skCommit_kept | (intro _) |
                 split | dsimp only [StepKept, OutKept, IssueKept, MicroKept, OptKept, done] | simp only [kept_mk_eq] |
                 with_reducible apply keptC_of | with_reducible apply keptC_marks | with_reducible apply keptC_regs |
                 with_reducible exact kept_fst (by assumption) (by assumption))

theorem execShadowWithdraw_kept {dv : Nat} (n : Fin 64) (s : State) (h_s : Kept dv s) : OutKept dv (execShadowWithdraw n s) := by
  unfold execShadowWithdraw
  try dsimp only
  repeat' (first | with_reducible assumption | with_reducible apply State.setFld_kept | with_reducible apply done_kept | (intro _) |
                 split | dsimp only [StepKept, OutKept, IssueKept, MicroKept, OptKept, done] | simp only [kept_mk_eq] |
                 with_reducible apply keptC_of | with_reducible apply keptC_marks | with_reducible apply keptC_regs |
                 with_reducible exact kept_fst (by assumption) (by assumption))

theorem State.skPoison_kept {dv : Nat} (s : State) (n d : Nat) (l : List (Byte × Bool)) (h_s : Kept dv s) : Kept dv (State.skPoison s n
    d l) := by
  unfold State.skPoison
  try dsimp only
  repeat' (first | with_reducible assumption | with_reducible apply State.count_kept | with_reducible apply State.log_kept |
                 with_reducible apply State.modChan_kept | (intro _) | split |
                 dsimp only [StepKept, OutKept, IssueKept, MicroKept, OptKept, done] | simp only [kept_mk_eq] |
                 with_reducible apply keptC_of | with_reducible apply keptC_marks | with_reducible apply keptC_regs |
                 with_reducible exact kept_fst (by assumption) (by assumption))

theorem State.skDram_kept {dv : Nat} (s : State) (src d : Nat) (l : List (Byte × Bool)) (k : Nat) (h_s : Kept dv s) : Kept dv
    (State.skDram s src d l k) := by
  fun_induction State.skDram s src d l k
  all_goals (repeat' (first | with_reducible assumption | (rename_i ih; with_reducible apply ih) | with_reducible apply State.dmaWriteBy_kept |
                            with_reducible apply State.dmaWritePoison_kept | (intro _) | split |
                            dsimp only [StepKept, OutKept, IssueKept, MicroKept, OptKept, done] | simp only [kept_mk_eq] |
                            with_reducible apply keptC_of | with_reducible apply keptC_marks | with_reducible apply keptC_regs |
                            with_reducible exact kept_fst (by assumption) (by assumption)))
  all_goals first | done | simp_all

theorem State.skHost_kept {dv : Nat} (s : State) (f d : Nat) (l : List (Byte × Bool)) (k : Nat) (h_s : Kept dv s) : Kept dv
    (State.skHost s f d l k) := by
  fun_induction State.skHost s f d l k
  all_goals (repeat' (first | with_reducible assumption | (rename_i ih; with_reducible apply ih) | with_reducible apply State.emit_kept | (intro _) |
                            split | dsimp only [StepKept, OutKept, IssueKept, MicroKept, OptKept, done] | simp only [kept_mk_eq] |
                            with_reducible apply keptC_of | with_reducible apply keptC_marks | with_reducible apply keptC_regs |
                            with_reducible exact kept_fst (by assumption) (by assumption)))
  all_goals first | done | simp_all

theorem State.skStore_kept {dv : Nat} (s : State) (n : Nat) (u : SkpUnit) (l : List (Byte × Bool)) (h_s : Kept dv s) : Kept dv
    (State.skStore s n u l).1 := by
  unfold State.skStore
  try dsimp only
  repeat' (first | with_reducible assumption | with_reducible apply State.outDrop_kept | with_reducible apply State.skPoison_kept |
                 with_reducible apply State.skDram_kept | with_reducible apply State.skHost_kept | (intro _) | split |
                 dsimp only [StepKept, OutKept, IssueKept, MicroKept, OptKept, done] | simp only [kept_mk_eq] |
                 with_reducible apply keptC_of | with_reducible apply keptC_marks | with_reducible apply keptC_regs |
                 with_reducible exact kept_fst (by assumption) (by assumption))

theorem State.skDisHalt_kept {dv : Nat} (s : State) (n : Nat) (h_s : Kept dv s) : Kept dv (State.skDisHalt s n) := by
  unfold State.skDisHalt
  try dsimp only
  repeat' (first | with_reducible assumption | with_reducible apply State.skStop_kept | (intro _) | split |
                 dsimp only [StepKept, OutKept, IssueKept, MicroKept, OptKept, done] | simp only [kept_mk_eq] |
                 with_reducible apply keptC_of | with_reducible apply keptC_marks | with_reducible apply keptC_regs |
                 with_reducible exact kept_fst (by assumption) (by assumption))

theorem State.skFront_kept {dv : Nat} (s : State) (n : Nat) (h_s : Kept dv s) : Kept dv (State.skFront s n) := by
  unfold State.skFront
  try dsimp only
  repeat' (first | with_reducible assumption | with_reducible apply State.setReg_kept | with_reducible apply State.modChan_kept |
                 with_reducible apply State.skCharge_kept | with_reducible apply State.skStop_kept |
                 with_reducible apply State.skPump_kept | with_reducible apply State.skStore_kept |
                 with_reducible apply State.skDisHalt_kept | (intro _) | split |
                 dsimp only [StepKept, OutKept, IssueKept, MicroKept, OptKept, done] | simp only [kept_mk_eq] |
                 with_reducible apply keptC_of | with_reducible apply keptC_marks | with_reducible apply keptC_regs |
                 with_reducible exact kept_fst (by assumption) (by assumption))

theorem State.skServe_kept {dv : Nat} (s : State) (n : Nat) (h_s : Kept dv s) : Kept dv (State.skServe s n) := by
  unfold State.skServe
  try dsimp only
  repeat' (first | with_reducible assumption | with_reducible apply State.skFront_kept | with_reducible apply foldl_kept | (intro _) |
                 split | dsimp only [StepKept, OutKept, IssueKept, MicroKept, OptKept, done] | simp only [kept_mk_eq] |
                 with_reducible apply keptC_of | with_reducible apply keptC_marks | with_reducible apply keptC_regs |
                 with_reducible exact kept_fst (by assumption) (by assumption))

theorem State.skReturn_kept {dv : Nat} (s : State) (n u : Nat) (h_s : Kept dv s) : Kept dv (State.skReturn s n u) := by
  unfold State.skReturn
  try dsimp only
  repeat' (first | with_reducible assumption | with_reducible apply State.hubAccess_kept | with_reducible apply State.modChan_kept |
                 (intro _) | split | dsimp only [StepKept, OutKept, IssueKept, MicroKept, OptKept, done] | simp only [kept_mk_eq] |
                 with_reducible apply keptC_of | with_reducible apply keptC_marks | with_reducible apply keptC_regs |
                 with_reducible exact kept_fst (by assumption) (by assumption))

theorem execUnitReadReturn_kept {dv : Nat} (n : Fin 64) (u : Fin 8) (s : State) (h_s : Kept dv s) : OutKept dv (execUnitReadReturn n u
    s) := by
  unfold execUnitReadReturn
  try dsimp only
  repeat' (first | with_reducible assumption | with_reducible apply done_kept | with_reducible apply State.skPump_kept |
                 with_reducible apply State.skServe_kept | with_reducible apply State.skReturn_kept | (intro _) | split |
                 dsimp only [StepKept, OutKept, IssueKept, MicroKept, OptKept, done] | simp only [kept_mk_eq] |
                 with_reducible apply keptC_of | with_reducible apply keptC_marks | with_reducible apply keptC_regs |
                 with_reducible exact kept_fst (by assumption) (by assumption))

theorem execUnitWriteIssue_kept {dv : Nat} (n : Fin 64) (s : State) (h_s : Kept dv s) : OutKept dv (execUnitWriteIssue n s) := by
  unfold execUnitWriteIssue
  try dsimp only
  repeat' (first | with_reducible assumption | with_reducible apply done_kept | with_reducible apply State.skServe_kept | (intro _) |
                 split | dsimp only [StepKept, OutKept, IssueKept, MicroKept, OptKept, done] | simp only [kept_mk_eq] |
                 with_reducible apply keptC_of | with_reducible apply keptC_marks | with_reducible apply keptC_regs |
                 with_reducible exact kept_fst (by assumption) (by assumption))

theorem execUnitRetry_kept {dv : Nat} (n : Fin 64) (s : State) (h_s : Kept dv s) : OutKept dv (execUnitRetry n s) := by
  unfold execUnitRetry
  try dsimp only
  repeat' (first | with_reducible assumption | with_reducible apply State.count_kept | with_reducible apply done_kept |
                 with_reducible apply State.modChan_kept | with_reducible apply State.skPump_kept |
                 with_reducible apply State.skFront_kept | (intro _) | split |
                 dsimp only [StepKept, OutKept, IssueKept, MicroKept, OptKept, done] | simp only [kept_mk_eq] |
                 with_reducible apply keptC_of | with_reducible apply keptC_marks | with_reducible apply keptC_regs |
                 with_reducible exact kept_fst (by assumption) (by assumption))

theorem execTransferComplete_kept {dv : Nat} (n : Fin 64) (s : State) (h_s : Kept dv s) : OutKept dv (execTransferComplete n s) := by
  unfold execTransferComplete
  try dsimp only
  repeat' (first | with_reducible assumption | with_reducible apply done_kept | with_reducible apply State.modChan_kept |
                 with_reducible apply State.skRecord_kept | with_reducible apply State.skStop_kept | (intro _) | split |
                 dsimp only [StepKept, OutKept, IssueKept, MicroKept, OptKept, done] | simp only [kept_mk_eq] |
                 with_reducible apply keptC_of | with_reducible apply keptC_marks | with_reducible apply keptC_regs |
                 with_reducible exact kept_fst (by assumption) (by assumption))

theorem State.skDisable_kept {dv : Nat} (s : State) (n : Nat) (h_s : Kept dv s) : Kept dv (State.skDisable s n) := by
  unfold State.skDisable
  try dsimp only
  repeat' (first | with_reducible assumption | with_reducible apply State.raise_kept | with_reducible apply State.skDisHalt_kept |
                 (intro _) | split | dsimp only [StepKept, OutKept, IssueKept, MicroKept, OptKept, done] | simp only [kept_mk_eq] |
                 with_reducible apply keptC_of | with_reducible apply keptC_marks | with_reducible apply keptC_regs |
                 with_reducible exact kept_fst (by assumption) (by assumption))

theorem execSkpDisWrite_kept {dv : Nat} (n : Fin 64) (s : State) (h_s : Kept dv s) : OutKept dv (execSkpDisWrite n s) := by
  unfold execSkpDisWrite
  try dsimp only
  repeat' (first | with_reducible assumption | with_reducible apply done_kept | with_reducible apply State.skDisable_kept | (intro _) |
                 split | dsimp only [StepKept, OutKept, IssueKept, MicroKept, OptKept, done] | simp only [kept_mk_eq] |
                 with_reducible apply keptC_of | with_reducible apply keptC_marks | with_reducible apply keptC_regs |
                 with_reducible exact kept_fst (by assumption) (by assumption))

theorem State.skHaltClear_kept {dv : Nat} (s : State) (n : Nat) (h_s : Kept dv s) : Kept dv (State.skHaltClear s n) := by
  unfold State.skHaltClear
  try dsimp only
  repeat' (first | with_reducible assumption | with_reducible apply State.setFld_kept | with_reducible apply State.skSample_kept |
                 (intro _) | split | dsimp only [StepKept, OutKept, IssueKept, MicroKept, OptKept, done] | simp only [kept_mk_eq] |
                 with_reducible apply keptC_of | with_reducible apply keptC_marks | with_reducible apply keptC_regs |
                 with_reducible exact kept_fst (by assumption) (by assumption))

theorem execSkpHaltClear_kept {dv : Nat} (n : Fin 64) (s : State) (h_s : Kept dv s) : OutKept dv (execSkpHaltClear n s) := by
  unfold execSkpHaltClear
  try dsimp only
  repeat' (first | with_reducible assumption | with_reducible apply done_kept | with_reducible apply State.skHaltClear_kept | (intro _)
                 | split | dsimp only [StepKept, OutKept, IssueKept, MicroKept, OptKept, done] | simp only [kept_mk_eq] |
                 with_reducible apply keptC_of | with_reducible apply keptC_marks | with_reducible apply keptC_regs |
                 with_reducible exact kept_fst (by assumption) (by assumption))

theorem State.skCtlWrite_kept {dv : Nat} (s : State) (n v : Nat) (h_s : Kept dv s) : Kept dv (State.skCtlWrite s n v) := by
  unfold State.skCtlWrite
  try dsimp only
  repeat' (first | with_reducible assumption | with_reducible apply State.setFld_kept | with_reducible apply State.raise_kept |
                 with_reducible apply State.skSettle_kept | with_reducible apply State.skPump_kept |
                 with_reducible apply State.skSample_kept | with_reducible apply State.skDisHalt_kept | (intro _) | split |
                 dsimp only [StepKept, OutKept, IssueKept, MicroKept, OptKept, done] | simp only [kept_mk_eq] |
                 with_reducible apply keptC_of | with_reducible apply keptC_marks | with_reducible apply keptC_regs |
                 with_reducible exact kept_fst (by assumption) (by assumption))

theorem execSkpOwnerWrite_kept {dv : Nat} (n owner : Fin 64) (s : State) (h_s : Kept dv s) : OutKept dv (execSkpOwnerWrite n owner s) :=
    by
  unfold execSkpOwnerWrite
  try dsimp only
  repeat' (first | with_reducible assumption | with_reducible apply done_kept | with_reducible apply State.skCtlWrite_kept | (intro _) |
                 split | dsimp only [StepKept, OutKept, IssueKept, MicroKept, OptKept, done] | simp only [kept_mk_eq] |
                 with_reducible apply keptC_of | with_reducible apply keptC_marks | with_reducible apply keptC_regs |
                 with_reducible exact kept_fst (by assumption) (by assumption))

theorem State.skGen1_kept {dv : Nat} (s : State) (k n : Nat) (h_s : Kept dv s) : Kept dv (State.skGen1 s k n) := by
  unfold State.skGen1
  try dsimp only
  repeat' (first | with_reducible assumption | with_reducible apply State.setFld_kept | with_reducible apply State.skStop_kept |
                 (intro _) | split | dsimp only [StepKept, OutKept, IssueKept, MicroKept, OptKept, done] | simp only [kept_mk_eq] |
                 with_reducible apply keptC_of | with_reducible apply keptC_marks | with_reducible apply keptC_regs |
                 with_reducible exact kept_fst (by assumption) (by assumption))

theorem State.skFn1_kept {dv : Nat} (s : State) (f code n : Nat) (h_s : Kept dv s) : Kept dv (State.skFn1 s f code n) := by
  unfold State.skFn1
  try dsimp only
  repeat' (first | with_reducible assumption | with_reducible apply State.skStop_kept | (intro _) | split |
                 dsimp only [StepKept, OutKept, IssueKept, MicroKept, OptKept, done] | simp only [kept_mk_eq] |
                 with_reducible apply keptC_of | with_reducible apply keptC_marks | with_reducible apply keptC_regs |
                 with_reducible exact kept_fst (by assumption) (by assumption))

theorem State.skEach_kept {dv : Nat} (s : State) (f : State → Nat → State) (hf : ∀ t x, Kept dv t → Kept dv (f t x))
    (h_s : Kept dv s) : Kept dv (State.skEach s f) :=
  foldl_kept f _ s hf h_s

theorem State.skGenAdvance_kept {dv : Nat} (s : State) (k : Nat) (h_s : Kept dv s) : Kept dv (State.skGenAdvance s k) := by
  unfold State.skGenAdvance
  try dsimp only
  repeat' (first | with_reducible assumption | with_reducible apply State.skGen1_kept | with_reducible apply State.skEach_kept |
                 (intro _) | split | dsimp only [StepKept, OutKept, IssueKept, MicroKept, OptKept, done] | simp only [kept_mk_eq] |
                 with_reducible apply keptC_of | with_reducible apply keptC_marks | with_reducible apply keptC_regs |
                 with_reducible exact kept_fst (by assumption) (by assumption))

theorem State.skFunction_kept {dv : Nat} (s : State) (f code : Nat) (h_s : Kept dv s) : Kept dv (State.skFunction s f code) := by
  unfold State.skFunction
  try dsimp only
  repeat' (first | with_reducible assumption | with_reducible apply State.skFn1_kept | with_reducible apply State.skEach_kept |
                 (intro _) | split | dsimp only [StepKept, OutKept, IssueKept, MicroKept, OptKept, done] | simp only [kept_mk_eq] |
                 with_reducible apply keptC_of | with_reducible apply keptC_marks | with_reducible apply keptC_regs |
                 with_reducible exact kept_fst (by assumption) (by assumption))

theorem State.skDeliver_kept {dv : Nat} (s : State) (n tag : Nat) (data : List Byte) (poison : Bool) (h_s : Kept dv s) : Kept dv
    (State.skDeliver s n tag data poison) := by
  unfold State.skDeliver
  try dsimp only
  repeat' (first | with_reducible assumption | with_reducible apply State.modChan_kept | (intro _) | split |
                 dsimp only [StepKept, OutKept, IssueKept, MicroKept, OptKept, done] | simp only [kept_mk_eq] |
                 with_reducible apply keptC_of | with_reducible apply keptC_marks | with_reducible apply keptC_regs |
                 with_reducible exact kept_fst (by assumption) (by assumption))

theorem State.skFailRead_kept {dv : Nat} (s : State) (n tag code : Nat) (h_s : Kept dv s) : Kept dv (State.skFailRead s n tag code) :=
    by
  unfold State.skFailRead
  try dsimp only
  repeat' (first | with_reducible assumption | with_reducible apply State.modChan_kept | with_reducible apply State.skFront_kept |
                 (intro _) | split | dsimp only [StepKept, OutKept, IssueKept, MicroKept, OptKept, done] | simp only [kept_mk_eq] |
                 with_reducible apply keptC_of | with_reducible apply keptC_marks | with_reducible apply keptC_regs |
                 with_reducible exact kept_fst (by assumption) (by assumption))

theorem State.recordIn_kept {dv : Nat} (s : State) (f : Nat) (r : List Byte) (ep : Bool) (h_s : Kept dv s) : Kept dv (State.recordIn s f
    r ep) := by
  unfold State.recordIn
  try dsimp only
  repeat' (first | with_reducible assumption | with_reducible apply State.raise_kept | with_reducible apply State.count_kept |
                 with_reducible apply State.stamp_kept | with_reducible apply State.lodeSend_kept | (intro _) | split |
                 dsimp only [StepKept, OutKept, IssueKept, MicroKept, OptKept, done] | simp only [kept_mk_eq] |
                 with_reducible apply keptC_of | with_reducible apply keptC_marks | with_reducible apply keptC_regs |
                 with_reducible exact kept_fst (by assumption) (by assumption))

theorem State.recordsIn_kept {dv : Nat} (s : State) (f n : Nat) (l : List Byte) (ep : Bool) (h_s : Kept dv s) : Kept dv (State.recordsIn
    s f n l ep) := by
  fun_induction State.recordsIn s f n l ep
  all_goals (repeat' (first | with_reducible assumption | (rename_i ih; with_reducible apply ih) | with_reducible apply State.recordIn_kept |
                            (intro _) | split | dsimp only [StepKept, OutKept, IssueKept, MicroKept, OptKept, done] |
                            simp only [kept_mk_eq] | with_reducible apply keptC_of | with_reducible apply keptC_marks |
                            with_reducible apply keptC_regs | with_reducible exact kept_fst (by assumption) (by assumption)))
  all_goals first | done | simp_all

theorem State.barErr_kept {dv : Nat} (s : State) (h_s : Kept dv s) : Kept dv (State.barErr s) := by
  unfold State.barErr
  try dsimp only
  repeat' (first | with_reducible assumption | with_reducible apply State.count_kept | (intro _) | split |
                 dsimp only [StepKept, OutKept, IssueKept, MicroKept, OptKept, done] | simp only [kept_mk_eq] |
                 with_reducible apply keptC_of | with_reducible apply keptC_marks | with_reducible apply keptC_regs |
                 with_reducible exact kept_fst (by assumption) (by assumption))

theorem State.poisonRx_kept {dv : Nat} (s : State) (f at_ type : Nat) (h_s : Kept dv s) : Kept dv (State.poisonRx s f at_ type) := by
  unfold State.poisonRx
  try dsimp only
  repeat' (first | with_reducible assumption | with_reducible apply State.count_kept | with_reducible apply State.log_kept | (intro _) |
                 split | dsimp only [StepKept, OutKept, IssueKept, MicroKept, OptKept, done] | simp only [kept_mk_eq] |
                 with_reducible apply keptC_of | with_reducible apply keptC_marks | with_reducible apply keptC_regs |
                 with_reducible exact kept_fst (by assumption) (by assumption))

theorem State.writeType_kept {dv : Nat} (s : State) (h_s : Kept dv s) : Kept dv (State.writeType s).2 := by
  unfold State.writeType
  try dsimp only
  repeat' (first | with_reducible assumption | with_reducible apply State.draw_kept | (intro _) | split |
                 dsimp only [StepKept, OutKept, IssueKept, MicroKept, OptKept, done] | simp only [kept_mk_eq] |
                 with_reducible apply keptC_of | with_reducible apply keptC_marks | with_reducible apply keptC_regs |
                 with_reducible exact kept_fst (by assumption) (by assumption))

theorem State.recordPort_kept {dv : Nat} (s : State) (f off : Nat) (data : List Byte) (ep : Bool) (h_s : Kept dv s) : Kept dv
    (State.recordPort s f off data ep) := by
  unfold State.recordPort
  try dsimp only
  repeat' (first | with_reducible assumption | with_reducible apply State.recordsIn_kept | with_reducible apply State.barErr_kept |
                 with_reducible apply State.poisonRx_kept | with_reducible apply State.writeType_kept | (intro _) | split |
                 dsimp only [StepKept, OutKept, IssueKept, MicroKept, OptKept, done] | simp only [kept_mk_eq] |
                 with_reducible apply keptC_of | with_reducible apply keptC_marks | with_reducible apply keptC_regs |
                 with_reducible exact kept_fst (by assumption) (by assumption))

theorem execAditRecordWrite_kept {dv : Nat} (k : Fin 64) (off : BitVec 15) (data : List Byte) (ep : Bool) (s : State) (h_s : Kept dv s)
    : OutKept dv (execAditRecordWrite k off data ep s) := by
  unfold execAditRecordWrite
  try dsimp only
  repeat' (first | with_reducible assumption | with_reducible apply State.count_kept | with_reducible apply done_kept |
                 with_reducible apply State.barErr_kept | with_reducible apply State.recordPort_kept | (intro _) | split |
                 dsimp only [StepKept, OutKept, IssueKept, MicroKept, OptKept, done] | simp only [kept_mk_eq] |
                 with_reducible apply keptC_of | with_reducible apply keptC_marks | with_reducible apply keptC_regs |
                 with_reducible exact kept_fst (by assumption) (by assumption))

theorem State.clearQueries_kept {dv : Nat} (s : State) (k : Nat) (h_s : Kept dv s) : Kept dv (State.clearQueries s k) := by
  unfold State.clearQueries
  try dsimp only
  repeat' (first | with_reducible assumption | with_reducible apply State.setFld_kept | with_reducible apply foldl_kept | (intro _) |
                 split | dsimp only [StepKept, OutKept, IssueKept, MicroKept, OptKept, done] | simp only [kept_mk_eq] |
                 with_reducible apply keptC_of | with_reducible apply keptC_marks | with_reducible apply keptC_regs |
                 with_reducible exact kept_fst (by assumption) (by assumption))

theorem State.advanceNow_kept {dv : Nat} (s : State) (k : Nat) (h_s : Kept dv s) : Kept dv (State.advanceNow s k) := by
  unfold State.advanceNow
  try dsimp only
  repeat' (first | with_reducible assumption | with_reducible apply State.setFld_kept | with_reducible apply State.skGenAdvance_kept |
                 with_reducible apply State.clearQueries_kept | (intro _) | split |
                 dsimp only [StepKept, OutKept, IssueKept, MicroKept, OptKept, done] | simp only [kept_mk_eq] |
                 with_reducible apply keptC_of | with_reducible apply keptC_marks | with_reducible apply keptC_regs |
                 with_reducible exact kept_fst (by assumption) (by assumption))

theorem State.advanceGen_kept {dv : Nat} (s : State) (k : Nat) (h_s : Kept dv s) : Kept dv (State.advanceGen s k) := by
  unfold State.advanceGen
  try dsimp only
  repeat' (first | with_reducible assumption | with_reducible apply State.advanceNow_kept | (intro _) | split |
                 dsimp only [StepKept, OutKept, IssueKept, MicroKept, OptKept, done] | simp only [kept_mk_eq] |
                 with_reducible apply keptC_of | with_reducible apply keptC_marks | with_reducible apply keptC_regs |
                 with_reducible exact kept_fst (by assumption) (by assumption))

theorem State.advanceWaiting_kept {dv : Nat} (s : State) (k n : Nat) (h_s : Kept dv s) : Kept dv (State.advanceWaiting s k n) := by
  fun_induction State.advanceWaiting s k n
  all_goals (repeat' (first | with_reducible assumption | (rename_i ih; with_reducible apply ih) | with_reducible apply State.advanceNow_kept |
                            (intro _) | split | dsimp only [StepKept, OutKept, IssueKept, MicroKept, OptKept, done] |
                            simp only [kept_mk_eq] | with_reducible apply keptC_of | with_reducible apply keptC_marks |
                            with_reducible apply keptC_regs | with_reducible exact kept_fst (by assumption) (by assumption)))
  all_goals first | done | simp_all

theorem State.aditReset_kept {dv : Nat} (s : State) (k : Nat) (h_s : Kept dv s) : Kept dv (State.aditReset s k) := by
  unfold State.aditReset
  try dsimp only
  repeat' (first | with_reducible assumption | with_reducible apply State.setReg_kept | with_reducible apply State.setFld_kept |
                 with_reducible apply State.advanceGen_kept | with_reducible apply foldl_kept | (intro _) | split |
                 dsimp only [StepKept, OutKept, IssueKept, MicroKept, OptKept, done] | simp only [kept_mk_eq] |
                 with_reducible apply keptC_of | with_reducible apply keptC_marks | with_reducible apply keptC_regs |
                 with_reducible exact kept_fst (by assumption) (by assumption))

theorem State.zeroRmem_kept {dv : Nat} (s : State) (k : Nat) (h_s : Kept dv s) : Kept dv (State.zeroRmem s k) := by
  unfold State.zeroRmem
  try dsimp only
  repeat' (first | with_reducible assumption | with_reducible apply State.dmaWriteBy_kept | (intro _) | split |
                 dsimp only [StepKept, OutKept, IssueKept, MicroKept, OptKept, done] | simp only [kept_mk_eq] |
                 with_reducible apply keptC_of | with_reducible apply keptC_marks | with_reducible apply keptC_regs |
                 with_reducible exact kept_fst (by assumption) (by assumption))

theorem State.aditCmd_kept {dv : Nat} (s : State) (v : Nat) (h_s : Kept dv s) : Kept dv (State.aditCmd s v) := by
  unfold State.aditCmd
  try dsimp only
  repeat' (first | with_reducible assumption | with_reducible apply State.setFld_kept | with_reducible apply State.raise_kept |
                 with_reducible apply State.advanceGen_kept | (intro _) | split |
                 dsimp only [StepKept, OutKept, IssueKept, MicroKept, OptKept, done] | simp only [kept_mk_eq] |
                 with_reducible apply keptC_of | with_reducible apply keptC_marks | with_reducible apply keptC_regs |
                 with_reducible exact kept_fst (by assumption) (by assumption))

theorem execCreate_kept {dv : Nat} (k : Fin 64) (s : State) (h_s : Kept dv s) : OutKept dv (execCreate k s) := by
  unfold execCreate
  try dsimp only
  repeat' (first | with_reducible assumption | with_reducible apply done_kept | with_reducible apply State.aditCmd_kept | (intro _) |
                 split | dsimp only [StepKept, OutKept, IssueKept, MicroKept, OptKept, done] | simp only [kept_mk_eq] |
                 with_reducible apply keptC_of | with_reducible apply keptC_marks | with_reducible apply keptC_regs |
                 with_reducible exact kept_fst (by assumption) (by assumption))

theorem execDestroy_kept {dv : Nat} (k : Fin 64) (s : State) (h_s : Kept dv s) : OutKept dv (execDestroy k s) := by
  unfold execDestroy
  try dsimp only
  repeat' (first | with_reducible assumption | with_reducible apply done_kept | with_reducible apply State.aditCmd_kept | (intro _) |
                 split | dsimp only [StepKept, OutKept, IssueKept, MicroKept, OptKept, done] | simp only [kept_mk_eq] |
                 with_reducible apply keptC_of | with_reducible apply keptC_marks | with_reducible apply keptC_regs |
                 with_reducible exact kept_fst (by assumption) (by assumption))

theorem State.clearPage_kept {dv : Nat} (s : State) (k : Nat) (h_s : Kept dv s) : Kept dv (State.clearPage s k) := by
  unfold State.clearPage
  try dsimp only
  repeat' (first | with_reducible assumption | with_reducible apply State.setReg_kept | with_reducible apply foldl_kept | (intro _) |
                 split | dsimp only [StepKept, OutKept, IssueKept, MicroKept, OptKept, done] | simp only [kept_mk_eq] |
                 with_reducible apply keptC_of | with_reducible apply keptC_marks | with_reducible apply keptC_regs |
                 with_reducible exact kept_fst (by assumption) (by assumption))

theorem execAditCmdComplete_kept {dv : Nat} (s : State) (h_s : Kept dv s) : OutKept dv (execAditCmdComplete s) := by
  unfold execAditCmdComplete
  try dsimp only
  repeat' (first | with_reducible assumption | with_reducible apply State.setFld_kept | with_reducible apply State.raise_kept |
                 with_reducible apply done_kept | with_reducible apply State.advanceGen_kept | with_reducible apply State.zeroRmem_kept
                 | with_reducible apply State.clearPage_kept | (intro _) | split |
                 dsimp only [StepKept, OutKept, IssueKept, MicroKept, OptKept, done] | simp only [kept_mk_eq] |
                 with_reducible apply keptC_of | with_reducible apply keptC_marks | with_reducible apply keptC_regs |
                 with_reducible exact kept_fst (by assumption) (by assumption))

theorem State.poolWrite_kept {dv : Nat} (s : State) (v : Nat) (h_s : Kept dv s) : Kept dv (State.poolWrite s v) := by
  unfold State.poolWrite
  try dsimp only
  repeat' (first | with_reducible assumption | with_reducible apply State.setFld_kept | with_reducible apply State.raise_kept |
                 (intro _) | split | dsimp only [StepKept, OutKept, IssueKept, MicroKept, OptKept, done] | simp only [kept_mk_eq] |
                 with_reducible apply keptC_of | with_reducible apply keptC_marks | with_reducible apply keptC_regs |
                 with_reducible exact kept_fst (by assumption) (by assumption))

theorem execAdtPoolWrite_kept {dv : Nat} (value : Word) (s : State) (h_s : Kept dv s) : OutKept dv (execAdtPoolWrite value s) := by
  unfold execAdtPoolWrite
  try dsimp only
  repeat' (first | with_reducible assumption | with_reducible apply done_kept | with_reducible apply State.poolWrite_kept | (intro _) |
                 split | dsimp only [StepKept, OutKept, IssueKept, MicroKept, OptKept, done] | simp only [kept_mk_eq] |
                 with_reducible apply keptC_of | with_reducible apply keptC_marks | with_reducible apply keptC_regs |
                 with_reducible exact kept_fst (by assumption) (by assumption))

theorem State.asgnWrite_kept {dv : Nat} (s : State) (k addr : Nat) (v : Word) (h_s : Kept dv s) : Kept dv (State.asgnWrite s k addr v)
    := by
  unfold State.asgnWrite
  try dsimp only
  repeat' (first | with_reducible assumption | with_reducible apply State.setReg_kept | (intro _) | split |
                 dsimp only [StepKept, OutKept, IssueKept, MicroKept, OptKept, done] | simp only [kept_mk_eq] |
                 with_reducible apply keptC_of | with_reducible apply keptC_marks | with_reducible apply keptC_regs |
                 with_reducible exact kept_fst (by assumption) (by assumption))

theorem State.mailboxWrite_kept {dv : Nat} (s : State) (k : Nat) (toVf : Bool) (i : Nat) (v : Word) (h_s : Kept dv s) : Kept dv
    (State.mailboxWrite s k toVf i v) := by
  unfold State.mailboxWrite
  try dsimp only
  repeat' (first | with_reducible assumption | with_reducible apply State.setReg_kept | with_reducible apply State.raise_kept |
                 (intro _) | split | dsimp only [StepKept, OutKept, IssueKept, MicroKept, OptKept, done] | simp only [kept_mk_eq] |
                 with_reducible apply keptC_of | with_reducible apply keptC_marks | with_reducible apply keptC_regs |
                 with_reducible exact kept_fst (by assumption) (by assumption))

theorem execMailboxWrite_kept {dv : Nat} (k : Fin 64) (toVf : Bool) (i : Fin 8) (value : Word) (s : State) (h_s : Kept dv s) : OutKept
    dv (execMailboxWrite k toVf i value s) := by
  unfold execMailboxWrite
  try dsimp only
  repeat' (first | with_reducible assumption | with_reducible apply done_kept | with_reducible apply State.mailboxWrite_kept | (intro _)
                 | split | dsimp only [StepKept, OutKept, IssueKept, MicroKept, OptKept, done] | simp only [kept_mk_eq] |
                 with_reducible apply keptC_of | with_reducible apply keptC_marks | with_reducible apply keptC_regs |
                 with_reducible exact kept_fst (by assumption) (by assumption))

theorem State.ringMgr_kept {dv : Nat} (s : State) (k : Nat) (h_s : Kept dv s) : Kept dv (State.ringMgr s k) := by
  unfold State.ringMgr
  try dsimp only
  repeat' (first | with_reducible assumption | with_reducible apply State.setReg_kept | with_reducible apply State.raise_kept |
                 with_reducible apply State.sendMsix_kept | (intro _) | split |
                 dsimp only [StepKept, OutKept, IssueKept, MicroKept, OptKept, done] | simp only [kept_mk_eq] |
                 with_reducible apply keptC_of | with_reducible apply keptC_marks | with_reducible apply keptC_regs |
                 with_reducible exact kept_fst (by assumption) (by assumption))

theorem State.ackMgr_kept {dv : Nat} (s : State) (k : Nat) (h_s : Kept dv s) : Kept dv (State.ackMgr s k) := by
  unfold State.ackMgr
  try dsimp only
  repeat' (first | with_reducible assumption | with_reducible apply State.setReg_kept | with_reducible apply State.setFld_kept |
                 (intro _) | split | dsimp only [StepKept, OutKept, IssueKept, MicroKept, OptKept, done] | simp only [kept_mk_eq] |
                 with_reducible apply keptC_of | with_reducible apply keptC_marks | with_reducible apply keptC_regs |
                 with_reducible exact kept_fst (by assumption) (by assumption))

theorem State.ringVf_kept {dv : Nat} (s : State) (k : Nat) (h_s : Kept dv s) : Kept dv (State.ringVf s k) := by
  unfold State.ringVf
  try dsimp only
  repeat' (first | with_reducible assumption | with_reducible apply State.raise_kept | with_reducible apply State.sendMsix_kept |
                 (intro _) | split | dsimp only [StepKept, OutKept, IssueKept, MicroKept, OptKept, done] | simp only [kept_mk_eq] |
                 with_reducible apply keptC_of | with_reducible apply keptC_marks | with_reducible apply keptC_regs |
                 with_reducible exact kept_fst (by assumption) (by assumption))

theorem State.ackVf_kept {dv : Nat} (s : State) (k : Nat) (h_s : Kept dv s) : Kept dv (State.ackVf s k) := by
  unfold State.ackVf
  try dsimp only
  repeat' (first | with_reducible assumption | with_reducible apply State.setFld_kept | (intro _) | split |
                 dsimp only [StepKept, OutKept, IssueKept, MicroKept, OptKept, done] | simp only [kept_mk_eq] |
                 with_reducible apply keptC_of | with_reducible apply keptC_marks | with_reducible apply keptC_regs |
                 with_reducible exact kept_fst (by assumption) (by assumption))

theorem execRingMgr_kept {dv : Nat} (k : Fin 64) (s : State) (h_s : Kept dv s) : OutKept dv (execRingMgr k s) := by
  unfold execRingMgr
  try dsimp only
  repeat' (first | with_reducible assumption | with_reducible apply done_kept | with_reducible apply State.ringMgr_kept | (intro _) |
                 split | dsimp only [StepKept, OutKept, IssueKept, MicroKept, OptKept, done] | simp only [kept_mk_eq] |
                 with_reducible apply keptC_of | with_reducible apply keptC_marks | with_reducible apply keptC_regs |
                 with_reducible exact kept_fst (by assumption) (by assumption))

theorem execAckMgr_kept {dv : Nat} (k : Fin 64) (s : State) (h_s : Kept dv s) : OutKept dv (execAckMgr k s) := by
  unfold execAckMgr
  try dsimp only
  repeat' (first | with_reducible assumption | with_reducible apply done_kept | with_reducible apply State.ackMgr_kept | (intro _) |
                 split | dsimp only [StepKept, OutKept, IssueKept, MicroKept, OptKept, done] | simp only [kept_mk_eq] |
                 with_reducible apply keptC_of | with_reducible apply keptC_marks | with_reducible apply keptC_regs |
                 with_reducible exact kept_fst (by assumption) (by assumption))

theorem execRingVf_kept {dv : Nat} (k : Fin 64) (s : State) (h_s : Kept dv s) : OutKept dv (execRingVf k s) := by
  unfold execRingVf
  try dsimp only
  repeat' (first | with_reducible assumption | with_reducible apply done_kept | with_reducible apply State.ringVf_kept | (intro _) |
                 split | dsimp only [StepKept, OutKept, IssueKept, MicroKept, OptKept, done] | simp only [kept_mk_eq] |
                 with_reducible apply keptC_of | with_reducible apply keptC_marks | with_reducible apply keptC_regs |
                 with_reducible exact kept_fst (by assumption) (by assumption))

theorem execAckVf_kept {dv : Nat} (k : Fin 64) (s : State) (h_s : Kept dv s) : OutKept dv (execAckVf k s) := by
  unfold execAckVf
  try dsimp only
  repeat' (first | with_reducible assumption | with_reducible apply done_kept | with_reducible apply State.ackVf_kept | (intro _) |
                 split | dsimp only [StepKept, OutKept, IssueKept, MicroKept, OptKept, done] | simp only [kept_mk_eq] |
                 with_reducible apply keptC_of | with_reducible apply keptC_marks | with_reducible apply keptC_regs |
                 with_reducible exact kept_fst (by assumption) (by assumption))

theorem State.mbxCtlWrite_kept {dv : Nat} (s : State) (k : Nat) (manager : Bool) (v : Nat) (h_s : Kept dv s) : Kept dv
    (State.mbxCtlWrite s k manager v) := by
  unfold State.mbxCtlWrite
  try dsimp only
  repeat' (first | with_reducible assumption | with_reducible apply State.setFld_kept | with_reducible apply State.ringMgr_kept |
                 with_reducible apply State.ackMgr_kept | with_reducible apply State.ringVf_kept | with_reducible apply State.ackVf_kept
                 | (intro _) | split | dsimp only [StepKept, OutKept, IssueKept, MicroKept, OptKept, done] | simp only [kept_mk_eq] |
                 with_reducible apply keptC_of | with_reducible apply keptC_marks | with_reducible apply keptC_regs |
                 with_reducible exact kept_fst (by assumption) (by assumption))

theorem State.queryRej_kept {dv : Nat} (s : State) (k q : Nat) (h_s : Kept dv s) : Kept dv (State.queryRej s k q) := by
  unfold State.queryRej
  try dsimp only
  repeat' (first | with_reducible assumption | with_reducible apply State.raise_kept | (intro _) | split |
                 dsimp only [StepKept, OutKept, IssueKept, MicroKept, OptKept, done] | simp only [kept_mk_eq] |
                 with_reducible apply keptC_of | with_reducible apply keptC_marks | with_reducible apply keptC_regs |
                 with_reducible exact kept_fst (by assumption) (by assumption))

theorem State.queryCfgWrite_kept {dv : Nat} (s : State) (k q v : Nat) (h_s : Kept dv s) : Kept dv (State.queryCfgWrite s k q v) := by
  unfold State.queryCfgWrite
  try dsimp only
  repeat' (first | with_reducible assumption | with_reducible apply State.setReg_kept | with_reducible apply State.setFld_kept |
                 with_reducible apply State.modQuery_kept | with_reducible apply State.queryRej_kept | (intro _) | split |
                 dsimp only [StepKept, OutKept, IssueKept, MicroKept, OptKept, done] | simp only [kept_mk_eq] |
                 with_reducible apply keptC_of | with_reducible apply keptC_marks | with_reducible apply keptC_regs |
                 with_reducible exact kept_fst (by assumption) (by assumption))

theorem execQueryEnable_kept {dv : Nat} (k : Fin 64) (q : Fin 256) (value : Word) (s : State) (h_s : Kept dv s) : OutKept dv
    (execQueryEnable k q value s) := by
  unfold execQueryEnable
  try dsimp only
  repeat' (first | with_reducible assumption | with_reducible apply done_kept | with_reducible apply State.queryCfgWrite_kept |
                 (intro _) | split | dsimp only [StepKept, OutKept, IssueKept, MicroKept, OptKept, done] | simp only [kept_mk_eq] |
                 with_reducible apply keptC_of | with_reducible apply keptC_marks | with_reducible apply keptC_regs |
                 with_reducible exact kept_fst (by assumption) (by assumption))

theorem State.queryRingWrite_kept {dv : Nat} (s : State) (k q v : Nat) (h_s : Kept dv s) : Kept dv (State.queryRingWrite s k q v) := by
  unfold State.queryRingWrite
  try dsimp only
  repeat' (first | with_reducible assumption | with_reducible apply State.setReg_kept | with_reducible apply State.queryRej_kept |
                 (intro _) | split | dsimp only [StepKept, OutKept, IssueKept, MicroKept, OptKept, done] | simp only [kept_mk_eq] |
                 with_reducible apply keptC_of | with_reducible apply keptC_marks | with_reducible apply keptC_regs |
                 with_reducible exact kept_fst (by assumption) (by assumption))

theorem State.clearSeqs_kept {dv : Nat} (s : State) (src base stride n e : Nat) (h_s : Kept dv s) : Kept dv (State.clearSeqs s src base
    stride n e) := by
  fun_induction State.clearSeqs s src base stride n e
  all_goals (repeat' (first | with_reducible assumption | (rename_i ih; with_reducible apply ih) | with_reducible apply State.dmaWriteBy_kept |
                            (intro _) | split | dsimp only [StepKept, OutKept, IssueKept, MicroKept, OptKept, done] |
                            simp only [kept_mk_eq] | with_reducible apply keptC_of | with_reducible apply keptC_marks |
                            with_reducible apply keptC_regs | with_reducible exact kept_fst (by assumption) (by assumption)))
  all_goals first | done | simp_all

theorem execQueryEnableDone_kept {dv : Nat} (k : Fin 64) (q : Fin 256) (s : State) (h_s : Kept dv s) : OutKept dv (execQueryEnableDone k
    q s) := by
  unfold execQueryEnableDone
  try dsimp only
  repeat' (first | with_reducible assumption | with_reducible apply State.setReg_kept | with_reducible apply State.raise_kept |
                 with_reducible apply done_kept | with_reducible apply State.modQuery_kept | with_reducible apply State.clearSeqs_kept |
                 (intro _) | split | dsimp only [StepKept, OutKept, IssueKept, MicroKept, OptKept, done] | simp only [kept_mk_eq] |
                 with_reducible apply keptC_of | with_reducible apply keptC_marks | with_reducible apply keptC_regs |
                 with_reducible exact kept_fst (by assumption) (by assumption))

theorem State.queryGo_kept {dv : Nat} (s : State) (k q : Nat) (h_s : Kept dv s) : Kept dv (State.queryGo s k q) := by
  unfold State.queryGo
  try dsimp only
  repeat' (first | with_reducible assumption | with_reducible apply State.modQuery_kept | (intro _) | split |
                 dsimp only [StepKept, OutKept, IssueKept, MicroKept, OptKept, done] | simp only [kept_mk_eq] |
                 with_reducible apply keptC_of | with_reducible apply keptC_marks | with_reducible apply keptC_regs |
                 with_reducible exact kept_fst (by assumption) (by assumption))

theorem execQueryGo_kept {dv : Nat} (k : Fin 64) (q : Fin 256) (s : State) (h_s : Kept dv s) : OutKept dv (execQueryGo k q s) := by
  unfold execQueryGo
  try dsimp only
  repeat' (first | with_reducible assumption | with_reducible apply done_kept | with_reducible apply State.queryGo_kept | (intro _) |
                 split | dsimp only [StepKept, OutKept, IssueKept, MicroKept, OptKept, done] | simp only [kept_mk_eq] |
                 with_reducible apply keptC_of | with_reducible apply keptC_marks | with_reducible apply keptC_regs |
                 with_reducible exact kept_fst (by assumption) (by assumption))

theorem State.dropTrigger_kept {dv : Nat} (s : State) (k q : Nat) (h_s : Kept dv s) : Kept dv (State.dropTrigger s k q) := by
  unfold State.dropTrigger
  try dsimp only
  repeat' (first | with_reducible assumption | with_reducible apply State.raise_kept | with_reducible apply State.modQuery_kept |
                 (intro _) | split | dsimp only [StepKept, OutKept, IssueKept, MicroKept, OptKept, done] | simp only [kept_mk_eq] |
                 with_reducible apply keptC_of | with_reducible apply keptC_marks | with_reducible apply keptC_regs |
                 with_reducible exact kept_fst (by assumption) (by assumption))

theorem State.queryProduce_kept {dv : Nat} (s : State) (k q : Nat) (h_s : Kept dv s) : Kept dv (State.queryProduce s k q) := by
  unfold State.queryProduce
  try dsimp only
  repeat' (first | with_reducible assumption | with_reducible apply State.setFld_kept | with_reducible apply State.sendMsix_kept |
                 with_reducible apply State.dmaWriteBy_kept | with_reducible apply State.modQuery_kept | (intro _) | split |
                 dsimp only [StepKept, OutKept, IssueKept, MicroKept, OptKept, done] | simp only [kept_mk_eq] |
                 with_reducible apply keptC_of | with_reducible apply keptC_marks | with_reducible apply keptC_regs |
                 with_reducible exact kept_fst (by assumption) (by assumption))

theorem execQueryRun_kept {dv : Nat} (outrun : Bool) (s : State) (h_s : Kept dv s) : OutKept dv (execQueryRun outrun s) := by
  unfold execQueryRun
  try dsimp only
  repeat' (first | with_reducible assumption | with_reducible apply State.count_kept | with_reducible apply done_kept |
                 with_reducible apply State.dropTrigger_kept | with_reducible apply State.queryProduce_kept | (intro _) | split |
                 dsimp only [StepKept, OutKept, IssueKept, MicroKept, OptKept, done] | simp only [kept_mk_eq] |
                 with_reducible apply keptC_of | with_reducible apply keptC_marks | with_reducible apply keptC_regs |
                 with_reducible exact kept_fst (by assumption) (by assumption))

theorem State.queryHead_kept {dv : Nat} (s : State) (k q head : Nat) (h_s : Kept dv s) : Kept dv (State.queryHead s k q head) := by
  unfold State.queryHead
  try dsimp only
  repeat' (first | with_reducible assumption | with_reducible apply State.setFld_kept | with_reducible apply State.queryRej_kept |
                 (intro _) | split | dsimp only [StepKept, OutKept, IssueKept, MicroKept, OptKept, done] | simp only [kept_mk_eq] |
                 with_reducible apply keptC_of | with_reducible apply keptC_marks | with_reducible apply keptC_regs |
                 with_reducible exact kept_fst (by assumption) (by assumption))

theorem execQueryHeadWrite_kept {dv : Nat} (k : Fin 64) (q : Fin 256) (head : BitVec 16) (s : State) (h_s : Kept dv s) : OutKept dv
    (execQueryHeadWrite k q head s) := by
  unfold execQueryHeadWrite
  try dsimp only
  repeat' (first | with_reducible assumption | with_reducible apply done_kept | with_reducible apply State.queryHead_kept | (intro _) |
                 split | dsimp only [StepKept, OutKept, IssueKept, MicroKept, OptKept, done] | simp only [kept_mk_eq] |
                 with_reducible apply keptC_of | with_reducible apply keptC_marks | with_reducible apply keptC_regs |
                 with_reducible exact kept_fst (by assumption) (by assumption))

theorem State.queryCtlWrite_kept {dv : Nat} (s : State) (k q v : Nat) (h_s : Kept dv s) : Kept dv (State.queryCtlWrite s k q v) := by
  unfold State.queryCtlWrite
  try dsimp only
  repeat' (first | with_reducible assumption | with_reducible apply State.setFld_kept | with_reducible apply State.queryGo_kept |
                 (intro _) | split | dsimp only [StepKept, OutKept, IssueKept, MicroKept, OptKept, done] | simp only [kept_mk_eq] |
                 with_reducible apply keptC_of | with_reducible apply keptC_marks | with_reducible apply keptC_regs |
                 with_reducible exact kept_fst (by assumption) (by assumption))

theorem State.haltNow_kept {dv : Nat} (s : State) (h cause : Nat) (h_s : Kept dv s) : Kept dv (State.haltNow s h cause) := by
  unfold State.haltNow
  try dsimp only
  repeat' (first | with_reducible assumption | with_reducible apply State.setFld_kept | with_reducible apply State.modHew_kept |
                 with_reducible apply State.flushPred_kept | with_reducible apply State.sbFlush_kept |
                 with_reducible apply State.leavePool_kept | with_reducible apply State.loseBody_kept |
                 with_reducible apply State.settle_kept | (intro _) | split |
                 dsimp only [StepKept, OutKept, IssueKept, MicroKept, OptKept, done] | simp only [kept_mk_eq] |
                 with_reducible apply keptC_of | with_reducible apply keptC_marks | with_reducible apply keptC_regs |
                 with_reducible exact kept_fst (by assumption) (by assumption))

theorem execHaltTakesEffect_kept {dv : Nat} (h : HewerId) (s : State) (h_s : Kept dv s) : OutKept dv (execHaltTakesEffect h s) := by
  unfold execHaltTakesEffect
  try dsimp only
  repeat' (first | with_reducible assumption | with_reducible apply done_kept | with_reducible apply State.haltNow_kept | (intro _) |
                 split | dsimp only [StepKept, OutKept, IssueKept, MicroKept, OptKept, done] | simp only [kept_mk_eq] |
                 with_reducible apply keptC_of | with_reducible apply keptC_marks | with_reducible apply keptC_regs |
                 with_reducible exact kept_fst (by assumption) (by assumption))

theorem State.releaseHewer_kept {dv : Nat} (s : State) (h : Nat) (h_s : Kept dv s) : Kept dv (State.releaseHewer s h) := by
  unfold State.releaseHewer
  try dsimp only
  repeat' (first | with_reducible assumption | with_reducible apply State.modHew_kept | with_reducible apply State.flushPred_kept |
                 with_reducible apply State.restoreThread_kept | with_reducible apply State.settle_kept |
                 with_reducible apply State.forcedEntry_kept | with_reducible apply State.canThaw_kept | with_reducible apply getD_kept
                 | (intro _) | split | dsimp only [StepKept, OutKept, IssueKept, MicroKept, OptKept, done] | simp only [kept_mk_eq] |
                 with_reducible apply keptC_of | with_reducible apply keptC_marks | with_reducible apply keptC_regs |
                 with_reducible exact kept_fst (by assumption) (by assumption))

theorem State.releaseAll_kept {dv : Nat} (s : State) (n h : Nat) (h_s : Kept dv s) : Kept dv (State.releaseAll s n h) := by
  fun_induction State.releaseAll s n h
  all_goals (repeat' (first | with_reducible assumption | (rename_i ih; with_reducible apply ih) | with_reducible apply State.releaseHewer_kept |
                            (intro _) | split | dsimp only [StepKept, OutKept, IssueKept, MicroKept, OptKept, done] |
                            simp only [kept_mk_eq] | with_reducible apply keptC_of | with_reducible apply keptC_marks |
                            with_reducible apply keptC_regs | with_reducible exact kept_fst (by assumption) (by assumption)))
  all_goals first | done | simp_all

theorem State.stepHewer_kept {dv : Nat} (s : State) (h : Nat) (h_s : Kept dv s) : Kept dv (State.stepHewer s h) := by
  unfold State.stepHewer
  try dsimp only
  repeat' (first | with_reducible assumption | with_reducible apply State.modHew_kept | (intro _) | split |
                 dsimp only [StepKept, OutKept, IssueKept, MicroKept, OptKept, done] | simp only [kept_mk_eq] |
                 with_reducible apply keptC_of | with_reducible apply keptC_marks | with_reducible apply keptC_regs |
                 with_reducible exact kept_fst (by assumption) (by assumption))

theorem State.clearCheckStop_kept {dv : Nat} (s : State) (h : Nat) (h_s : Kept dv s) : Kept dv (State.clearCheckStop s h) := by
  unfold State.clearCheckStop
  try dsimp only
  repeat' (first | with_reducible assumption | with_reducible apply State.setFld_kept | with_reducible apply State.modHew_kept |
                 with_reducible apply State.flushPred_kept | (intro _) | split |
                 dsimp only [StepKept, OutKept, IssueKept, MicroKept, OptKept, done] | simp only [kept_mk_eq] |
                 with_reducible apply keptC_of | with_reducible apply keptC_marks | with_reducible apply keptC_regs |
                 with_reducible exact kept_fst (by assumption) (by assumption))

theorem State.rcWrite_kept {dv : Nat} (s : State) (h v : Nat) (h_s : Kept dv s) : Kept dv (State.rcWrite s h v) := by
  unfold State.rcWrite
  try dsimp only
  repeat' (first | with_reducible assumption | with_reducible apply State.askHalt_kept | with_reducible apply State.releaseHewer_kept |
                 with_reducible apply State.stepHewer_kept | with_reducible apply State.clearCheckStop_kept | (intro _) | split |
                 dsimp only [StepKept, OutKept, IssueKept, MicroKept, OptKept, done] | simp only [kept_mk_eq] |
                 with_reducible apply keptC_of | with_reducible apply keptC_marks | with_reducible apply keptC_regs |
                 with_reducible exact kept_fst (by assumption) (by assumption))

theorem State.xtrigWrite_kept {dv : Nat} (s : State) (v : Nat) (h_s : Kept dv s) : Kept dv (State.xtrigWrite s v) := by
  unfold State.xtrigWrite
  try dsimp only
  repeat' (first | with_reducible assumption | with_reducible apply State.setFld_kept | with_reducible apply State.askHalts_kept |
                 with_reducible apply State.releaseAll_kept | (intro _) | split |
                 dsimp only [StepKept, OutKept, IssueKept, MicroKept, OptKept, done] | simp only [kept_mk_eq] |
                 with_reducible apply keptC_of | with_reducible apply keptC_marks | with_reducible apply keptC_regs |
                 with_reducible exact kept_fst (by assumption) (by assumption))

theorem State.closeSession_kept {dv : Nat} (s : State) (h_s : Kept dv s) : Kept dv (State.closeSession s) := by
  unfold State.closeSession
  try dsimp only
  repeat' (first | with_reducible assumption | with_reducible apply State.setFld_kept | with_reducible apply State.mapHewers_kept |
                 with_reducible apply State.releaseAll_kept | (intro _) | split |
                 dsimp only [StepKept, OutKept, IssueKept, MicroKept, OptKept, done] | simp only [kept_mk_eq] |
                 with_reducible apply keptC_of | with_reducible apply keptC_marks | with_reducible apply keptC_regs |
                 with_reducible exact kept_fst (by assumption) (by assumption))

theorem State.closePath_kept {dv : Nat} (s : State) (p : DbgPath) (h_s : Kept dv s) : Kept dv (State.closePath s p) := by
  unfold State.closePath
  try dsimp only
  repeat' (first | with_reducible assumption | with_reducible apply State.closeSession_kept | (intro _) | split |
                 dsimp only [StepKept, OutKept, IssueKept, MicroKept, OptKept, done] | simp only [kept_mk_eq] |
                 with_reducible apply keptC_of | with_reducible apply keptC_marks | with_reducible apply keptC_regs |
                 with_reducible exact kept_fst (by assumption) (by assumption))

theorem State.fillChallenge_kept {dv : Nat} (s : State) (n i : Nat) (h_s : Kept dv s) : Kept dv (State.fillChallenge s n i) := by
  fun_induction State.fillChallenge s n i
  all_goals (repeat' (first | with_reducible assumption | (rename_i ih; with_reducible apply ih) | with_reducible apply State.setReg_kept |
                            with_reducible apply State.draw_kept | (intro _) | split |
                            dsimp only [StepKept, OutKept, IssueKept, MicroKept, OptKept, done] | simp only [kept_mk_eq] |
                            with_reducible apply keptC_of | with_reducible apply keptC_marks | with_reducible apply keptC_regs |
                            with_reducible exact kept_fst (by assumption) (by assumption)))
  all_goals first | done | simp_all

theorem State.authWrite_kept {dv : Nat} (s : State) (p : DbgPath) (v : Nat) (h_s : Kept dv s) : Kept dv (State.authWrite s p v) := by
  unfold State.authWrite
  try dsimp only
  repeat' (first | with_reducible assumption | with_reducible apply State.setFld_kept | with_reducible apply State.raise_kept |
                 with_reducible apply State.fillChallenge_kept | (intro _) | split |
                 dsimp only [StepKept, OutKept, IssueKept, MicroKept, OptKept, done] | simp only [kept_mk_eq] |
                 with_reducible apply keptC_of | with_reducible apply keptC_marks | with_reducible apply keptC_regs |
                 with_reducible exact kept_fst (by assumption) (by assumption))

theorem State.openSession_kept {dv : Nat} (s : State) (h_s : Kept dv s) : Kept dv (State.openSession s) := by
  unfold State.openSession
  try dsimp only
  repeat' (first | with_reducible assumption | with_reducible apply State.setFld_kept | (intro _) | split |
                 dsimp only [StepKept, OutKept, IssueKept, MicroKept, OptKept, done] | simp only [kept_mk_eq] |
                 with_reducible apply keptC_of | with_reducible apply keptC_marks | with_reducible apply keptC_regs |
                 with_reducible exact kept_fst (by assumption) (by assumption))

theorem State.authFail_kept {dv : Nat} (s : State) (h_s : Kept dv s) : Kept dv (State.authFail s) := by
  unfold State.authFail
  try dsimp only
  repeat' (first | with_reducible assumption | with_reducible apply State.raise_kept | with_reducible apply State.count_kept | (intro _)
                 | split | dsimp only [StepKept, OutKept, IssueKept, MicroKept, OptKept, done] | simp only [kept_mk_eq] |
                 with_reducible apply keptC_of | with_reducible apply keptC_marks | with_reducible apply keptC_regs |
                 with_reducible exact kept_fst (by assumption) (by assumption))

theorem State.chalEnd_kept {dv : Nat} (s : State) (h_s : Kept dv s) : Kept dv (State.chalEnd s) := by
  unfold State.chalEnd
  try dsimp only
  repeat' (first | with_reducible assumption | (intro _) | split | dsimp only [StepKept, OutKept, IssueKept, MicroKept, OptKept, done] |
                 simp only [kept_mk_eq] | with_reducible apply keptC_of | with_reducible apply keptC_marks |
                 with_reducible apply keptC_regs | with_reducible exact kept_fst (by assumption) (by assumption))

theorem execVerifyComplete_kept {dv : Nat} (s : State) (h_s : Kept dv s) : OutKept dv (execVerifyComplete s) := by
  unfold execVerifyComplete
  try dsimp only
  repeat' (first | with_reducible assumption | with_reducible apply State.setFld_kept | with_reducible apply done_kept |
                 with_reducible apply State.openSession_kept | with_reducible apply State.authFail_kept |
                 with_reducible apply State.chalEnd_kept | (intro _) | split |
                 dsimp only [StepKept, OutKept, IssueKept, MicroKept, OptKept, done] | simp only [kept_mk_eq] |
                 with_reducible apply keptC_of | with_reducible apply keptC_marks | with_reducible apply keptC_regs |
                 with_reducible exact kept_fst (by assumption) (by assumption))

theorem execLockoutExpiry_kept {dv : Nat} (s : State) (h_s : Kept dv s) : OutKept dv (execLockoutExpiry s) := by
  unfold execLockoutExpiry
  try dsimp only
  repeat' (first | with_reducible assumption | with_reducible apply State.setFld_kept | with_reducible apply done_kept | (intro _) |
                 split | dsimp only [StepKept, OutKept, IssueKept, MicroKept, OptKept, done] | simp only [kept_mk_eq] |
                 with_reducible apply keptC_of | with_reducible apply keptC_marks | with_reducible apply keptC_regs |
                 with_reducible exact kept_fst (by assumption) (by assumption))

theorem State.scsResult_kept {dv : Nat} (s : State) (p : DbgPath) (status result : Nat) (h_s : Kept dv s) : Kept dv (State.scsResult s p
    status result) := by
  unfold State.scsResult
  try dsimp only
  repeat' (first | with_reducible assumption | with_reducible apply State.setReg_kept | with_reducible apply State.setFld_kept |
                 (intro _) | split | dsimp only [StepKept, OutKept, IssueKept, MicroKept, OptKept, done] | simp only [kept_mk_eq] |
                 with_reducible apply keptC_of | with_reducible apply keptC_marks | with_reducible apply keptC_regs |
                 with_reducible exact kept_fst (by assumption) (by assumption))

theorem State.scsDeliver_kept {dv : Nat} (s : State) (tag : Nat) (data : List Byte) (poison : Bool) (h_s : Kept dv s) : Kept dv
    (State.scsDeliver s tag data poison) := by
  unfold State.scsDeliver
  try dsimp only
  repeat' (first | with_reducible assumption | with_reducible apply State.scsResult_kept | (intro _) | split |
                 dsimp only [StepKept, OutKept, IssueKept, MicroKept, OptKept, done] | simp only [kept_mk_eq] |
                 with_reducible apply keptC_of | with_reducible apply keptC_marks | with_reducible apply keptC_regs |
                 with_reducible exact kept_fst (by assumption) (by assumption))

theorem State.rkpWrite_kept {dv : Nat} (s : State) (v : Nat) (h_s : Kept dv s) : Kept dv (State.rkpWrite s v) := by
  unfold State.rkpWrite
  try dsimp only
  repeat' (first | with_reducible assumption | with_reducible apply State.setFld_kept | with_reducible apply State.raise_kept |
                 (intro _) | split | dsimp only [StepKept, OutKept, IssueKept, MicroKept, OptKept, done] | simp only [kept_mk_eq] |
                 with_reducible apply keptC_of | with_reducible apply keptC_marks | with_reducible apply keptC_regs |
                 with_reducible exact kept_fst (by assumption) (by assumption))

theorem execRootKeyProgrammed_kept {dv : Nat} (s : State) (h_s : Kept dv s) : OutKept dv (execRootKeyProgrammed s) := by
  unfold execRootKeyProgrammed
  try dsimp only
  repeat' (first | with_reducible assumption | with_reducible apply State.setReg_kept | with_reducible apply State.setFld_kept |
                 with_reducible apply State.raise_kept | with_reducible apply done_kept | with_reducible apply foldl_kept | (intro _) |
                 split | dsimp only [StepKept, OutKept, IssueKept, MicroKept, OptKept, done] | simp only [kept_mk_eq] |
                 with_reducible apply keptC_of | with_reducible apply keptC_marks | with_reducible apply keptC_regs |
                 with_reducible exact kept_fst (by assumption) (by assumption))

theorem State.swbpWrite_kept {dv : Nat} (s : State) (v : Nat) (h_s : Kept dv s) : Kept dv (State.swbpWrite s v) := by
  unfold State.swbpWrite
  try dsimp only
  repeat' (first | with_reducible assumption | with_reducible apply State.setFld_kept | (intro _) | split |
                 dsimp only [StepKept, OutKept, IssueKept, MicroKept, OptKept, done] | simp only [kept_mk_eq] |
                 with_reducible apply keptC_of | with_reducible apply keptC_marks | with_reducible apply keptC_regs |
                 with_reducible exact kept_fst (by assumption) (by assumption))

theorem State.cmpDisarm_kept {dv : Nat} (s : State) (h c : Nat) (h_s : Kept dv s) : Kept dv (State.cmpDisarm s h c) := by
  unfold State.cmpDisarm
  try dsimp only
  repeat' (first | with_reducible assumption | with_reducible apply State.modHew_kept | (intro _) | split |
                 dsimp only [StepKept, OutKept, IssueKept, MicroKept, OptKept, done] | simp only [kept_mk_eq] |
                 with_reducible apply keptC_of | with_reducible apply keptC_marks | with_reducible apply keptC_regs |
                 with_reducible exact kept_fst (by assumption) (by assumption))

theorem State.vtxWrite_kept {dv : Nat} (s : State) (h v : Nat) (h_s : Kept dv s) : Kept dv (State.vtxWrite s h v) := by
  unfold State.vtxWrite
  try dsimp only
  repeat' (first | with_reducible assumption | with_reducible apply State.setFld_kept | with_reducible apply State.raise_kept |
                 (intro _) | split | dsimp only [StepKept, OutKept, IssueKept, MicroKept, OptKept, done] | simp only [kept_mk_eq] |
                 with_reducible apply keptC_of | with_reducible apply keptC_marks | with_reducible apply keptC_regs |
                 with_reducible exact kept_fst (by assumption) (by assumption))

theorem State.vrxTaken_kept {dv : Nat} (s : State) (h : Nat) (h_s : Kept dv s) : Kept dv (State.vrxTaken s h) := by
  unfold State.vrxTaken
  try dsimp only
  repeat' (first | with_reducible assumption | with_reducible apply State.setFld_kept | (intro _) | split |
                 dsimp only [StepKept, OutKept, IssueKept, MicroKept, OptKept, done] | simp only [kept_mk_eq] |
                 with_reducible apply keptC_of | with_reducible apply keptC_marks | with_reducible apply keptC_regs |
                 with_reducible exact kept_fst (by assumption) (by assumption))

end Sys2Proof.Machine
end

