-- ==== Sys2Proof/Laws/KeptMemory.lean ====
section
/-! SUPPORT. One lemma per operation: it keeps the memory canonical and the device number: the host endpoint, memory control, power, tally and the flash. -/

namespace Sys2Proof.Machine


theorem State.aerLog_kept {dv : Nat} (s : State) (f kind : Nat) (h_s : Kept dv s) : Kept dv (State.aerLog s f kind) := by
  unfold State.aerLog
  try dsimp only
  repeat' (first | with_reducible assumption | (intro _) | split | dsimp only [StepKept, OutKept, IssueKept, MicroKept, OptKept, done] |
                 simp only [kept_mk_eq] | with_reducible apply keptC_of | with_reducible apply keptC_marks |
                 with_reducible apply keptC_regs | with_reducible exact kept_fst (by assumption) (by assumption))

theorem State.hewDeliver_kept {dv : Nat} (s : State) (h tag : Nat) (data : List Byte) (poison : Bool) (h_s : Kept dv s) : Kept dv
    (State.hewDeliver s h tag data poison) := by
  unfold State.hewDeliver
  try dsimp only
  repeat' (first | with_reducible assumption | with_reducible apply State.modHew_kept | (intro _) | split |
                 dsimp only [StepKept, OutKept, IssueKept, MicroKept, OptKept, done] | simp only [kept_mk_eq] |
                 with_reducible apply keptC_of | with_reducible apply keptC_marks | with_reducible apply keptC_regs |
                 with_reducible exact kept_fst (by assumption) (by assumption))

theorem State.deliver_kept {dv : Nat} (s : State) (r : OutReq) (data : List Byte) (poison : Bool) (h_s : Kept dv s) : Kept dv
    (State.deliver s r data poison) := by
  unfold State.deliver
  try dsimp only
  repeat' (first | with_reducible assumption | with_reducible apply State.skDeliver_kept | with_reducible apply State.scsDeliver_kept |
                 with_reducible apply State.hewDeliver_kept | (intro _) | split |
                 dsimp only [StepKept, OutKept, IssueKept, MicroKept, OptKept, done] | simp only [kept_mk_eq] |
                 with_reducible apply keptC_of | with_reducible apply keptC_marks | with_reducible apply keptC_regs |
                 with_reducible exact kept_fst (by assumption) (by assumption))

theorem State.deliverError_kept {dv : Nat} (s : State) (r : OutReq) (code : Nat) (h_s : Kept dv s) : Kept dv (State.deliverError s r
    code) := by
  unfold State.deliverError
  try dsimp only
  repeat' (first | with_reducible assumption | with_reducible apply State.freeBytes_kept | with_reducible apply State.skFailRead_kept |
                 with_reducible apply State.deliver_kept | (intro _) | split |
                 dsimp only [StepKept, OutKept, IssueKept, MicroKept, OptKept, done] | simp only [kept_mk_eq] |
                 with_reducible apply keptC_of | with_reducible apply keptC_marks | with_reducible apply keptC_regs |
                 with_reducible exact kept_fst (by assumption) (by assumption))

theorem State.dropReq_kept {dv : Nat} (s : State) (r : OutReq) (h_s : Kept dv s) : Kept dv (State.dropReq s r) := by
  unfold State.dropReq
  try dsimp only
  repeat' (first | with_reducible assumption | with_reducible apply State.advanceWaiting_kept | (intro _) | split |
                 dsimp only [StepKept, OutKept, IssueKept, MicroKept, OptKept, done] | simp only [kept_mk_eq] |
                 with_reducible apply keptC_of | with_reducible apply keptC_marks | with_reducible apply keptC_regs |
                 with_reducible exact kept_fst (by assumption) (by assumption))

theorem State.unexpected_kept {dv : Nat} (s : State) (tag f : Nat) (h_s : Kept dv s) : Kept dv (State.unexpected s tag f) := by
  unfold State.unexpected
  try dsimp only
  repeat' (first | with_reducible assumption | with_reducible apply State.count_kept | with_reducible apply State.log_kept |
                 with_reducible apply State.aerLog_kept | (intro _) | split |
                 dsimp only [StepKept, OutKept, IssueKept, MicroKept, OptKept, done] | simp only [kept_mk_eq] |
                 with_reducible apply keptC_of | with_reducible apply keptC_marks | with_reducible apply keptC_regs |
                 with_reducible exact kept_fst (by assumption) (by assumption))

theorem State.completion_kept {dv : Nat} (s : State) (tag : Nat) (st : CplStatus) (data : List Byte) (ep : Bool) (h_s : Kept dv s) :
    Kept dv (State.completion s tag st data ep) := by
  unfold State.completion
  try dsimp only
  repeat' (first | with_reducible assumption | with_reducible apply State.poisonRx_kept | with_reducible apply State.aerLog_kept |
                 with_reducible apply State.deliver_kept | with_reducible apply State.deliverError_kept |
                 with_reducible apply State.dropReq_kept | with_reducible apply State.unexpected_kept | (intro _) | split |
                 dsimp only [StepKept, OutKept, IssueKept, MicroKept, OptKept, done] | simp only [kept_mk_eq] |
                 with_reducible apply keptC_of | with_reducible apply keptC_marks | with_reducible apply keptC_regs |
                 with_reducible exact kept_fst (by assumption) (by assumption))

theorem execHostCompletion_kept {dv : Nat} (tag : Fin 1024) (status : CplStatus) (data : List Byte) (ep : Bool) (s : State) (h_s : Kept
    dv s) : OutKept dv (execHostCompletion tag status data ep s) := by
  unfold execHostCompletion
  try dsimp only
  repeat' (first | with_reducible assumption | with_reducible apply done_kept | with_reducible apply State.skReads_kept |
                 with_reducible apply State.completion_kept | (intro _) | split |
                 dsimp only [StepKept, OutKept, IssueKept, MicroKept, OptKept, done] | simp only [kept_mk_eq] |
                 with_reducible apply keptC_of | with_reducible apply keptC_marks | with_reducible apply keptC_regs |
                 with_reducible exact kept_fst (by assumption) (by assumption))

theorem State.errLog_kept {dv : Nat} (s : State) (f cause time header : Nat) (h_s : Kept dv s) : Kept dv (State.errLog s f cause time
    header) := by
  unfold State.errLog
  try dsimp only
  repeat' (first | with_reducible assumption | with_reducible apply State.setReg_kept | with_reducible apply State.count_kept |
                 (intro _) | split | dsimp only [StepKept, OutKept, IssueKept, MicroKept, OptKept, done] | simp only [kept_mk_eq] |
                 with_reducible apply keptC_of | with_reducible apply keptC_marks | with_reducible apply keptC_regs |
                 with_reducible exact kept_fst (by assumption) (by assumption))

theorem State.freeze_kept {dv : Nat} (s : State) (l : List Nat) (cause header : Nat) (h_s : Kept dv s) : Kept dv (State.freeze s l cause
    header) := by
  unfold State.freeze
  try dsimp only
  repeat' (first | with_reducible assumption | with_reducible apply State.setFld_kept | with_reducible apply State.log_kept |
                 with_reducible apply State.skFunction_kept | with_reducible apply State.errLog_kept | with_reducible apply foldl_kept |
                 (intro _) | split | dsimp only [StepKept, OutKept, IssueKept, MicroKept, OptKept, done] | simp only [kept_mk_eq] |
                 with_reducible apply keptC_of | with_reducible apply keptC_marks | with_reducible apply keptC_regs |
                 with_reducible exact kept_fst (by assumption) (by assumption))

theorem execFreeze_kept {dv : Nat} (cause : Fin 4) (f : Fin 64) (header : BitVec 128) (s : State) (h_s : Kept dv s) : OutKept dv
    (execFreeze cause f header s) := by
  unfold execFreeze
  try dsimp only
  repeat' (first | with_reducible assumption | with_reducible apply done_kept | with_reducible apply State.freeze_kept | (intro _) |
                 split | dsimp only [StepKept, OutKept, IssueKept, MicroKept, OptKept, done] | simp only [kept_mk_eq] |
                 with_reducible apply keptC_of | with_reducible apply keptC_marks | with_reducible apply keptC_regs |
                 with_reducible exact kept_fst (by assumption) (by assumption))

theorem State.releaseWrite_kept {dv : Nat} (s : State) (v : Nat) (h_s : Kept dv s) : Kept dv (State.releaseWrite s v) := by
  unfold State.releaseWrite
  try dsimp only
  repeat' (first | with_reducible assumption | with_reducible apply State.setFld_kept | with_reducible apply State.raise_kept |
                 with_reducible apply foldl_kept | (intro _) | split |
                 dsimp only [StepKept, OutKept, IssueKept, MicroKept, OptKept, done] | simp only [kept_mk_eq] |
                 with_reducible apply keptC_of | with_reducible apply keptC_marks | with_reducible apply keptC_regs |
                 with_reducible exact kept_fst (by assumption) (by assumption))

theorem execHepFreezeRelease_kept {dv : Nat} (mask : Word) (s : State) (h_s : Kept dv s) : OutKept dv (execHepFreezeRelease mask s) :=
    by
  unfold execHepFreezeRelease
  try dsimp only
  repeat' (first | with_reducible assumption | with_reducible apply done_kept | with_reducible apply State.releaseWrite_kept | (intro _)
                 | split | dsimp only [StepKept, OutKept, IssueKept, MicroKept, OptKept, done] | simp only [kept_mk_eq] |
                 with_reducible apply keptC_of | with_reducible apply keptC_marks | with_reducible apply keptC_regs |
                 with_reducible exact kept_fst (by assumption) (by assumption))

theorem execCompletionTimeout_kept {dv : Nat} (tag : Fin 1024) (s : State) (h_s : Kept dv s) : OutKept dv (execCompletionTimeout tag s)
    := by
  unfold execCompletionTimeout
  try dsimp only
  repeat' (first | with_reducible assumption | with_reducible apply done_kept | with_reducible apply State.skReads_kept |
                 with_reducible apply State.aerLog_kept | with_reducible apply State.deliverError_kept |
                 with_reducible apply State.dropReq_kept | with_reducible apply State.freeze_kept | (intro _) | split |
                 dsimp only [StepKept, OutKept, IssueKept, MicroKept, OptKept, done] | simp only [kept_mk_eq] |
                 with_reducible apply keptC_of | with_reducible apply keptC_marks | with_reducible apply keptC_regs |
                 with_reducible exact kept_fst (by assumption) (by assumption))

theorem State.flushMsix_kept {dv : Nat} (s : State) (f n v : Nat) (h_s : Kept dv s) : Kept dv (State.flushMsix s f n v) := by
  fun_induction State.flushMsix s f n v
  all_goals (repeat' (first | with_reducible assumption | (rename_i ih; with_reducible apply ih) | with_reducible apply State.emit_kept |
                            with_reducible apply State.setPba_kept | (intro _) | split |
                            dsimp only [StepKept, OutKept, IssueKept, MicroKept, OptKept, done] | simp only [kept_mk_eq] |
                            with_reducible apply keptC_of | with_reducible apply keptC_marks | with_reducible apply keptC_regs |
                            with_reducible exact kept_fst (by assumption) (by assumption)))
  all_goals first | done | simp_all

theorem State.beginReset_kept {dv : Nat} (s : State) (f : Nat) (h_s : Kept dv s) : Kept dv (State.beginReset s f) := by
  unfold State.beginReset
  try dsimp only
  repeat' (first | with_reducible assumption | with_reducible apply State.setFn_kept | with_reducible apply State.skFunction_kept |
                 with_reducible apply State.aditReset_kept | (intro _) | split |
                 dsimp only [StepKept, OutKept, IssueKept, MicroKept, OptKept, done] | simp only [kept_mk_eq] |
                 with_reducible apply keptC_of | with_reducible apply keptC_marks | with_reducible apply keptC_regs |
                 with_reducible exact kept_fst (by assumption) (by assumption))

theorem State.resetAll_kept {dv : Nat} (s : State) (h_s : Kept dv s) : Kept dv (State.resetAll s) := by
  unfold State.resetAll
  try dsimp only
  repeat' (first | with_reducible assumption | with_reducible apply State.aditReset_kept | with_reducible apply State.closePath_kept |
                 with_reducible apply State.beginReset_kept | with_reducible apply foldl_kept | (intro _) | split |
                 dsimp only [StepKept, OutKept, IssueKept, MicroKept, OptKept, done] | simp only [kept_mk_eq] |
                 with_reducible apply keptC_of | with_reducible apply keptC_marks | with_reducible apply keptC_regs |
                 with_reducible exact kept_fst (by assumption) (by assumption))

theorem State.flr_kept {dv : Nat} (s : State) (f : Nat) (h_s : Kept dv s) : Kept dv (State.flr s f) := by
  unfold State.flr
  try dsimp only
  repeat' (first | with_reducible assumption | with_reducible apply State.emit_kept | with_reducible apply State.log_kept |
                 with_reducible apply State.beginReset_kept | with_reducible apply State.resetAll_kept | (intro _) | split |
                 dsimp only [StepKept, OutKept, IssueKept, MicroKept, OptKept, done] | simp only [kept_mk_eq] |
                 with_reducible apply keptC_of | with_reducible apply keptC_marks | with_reducible apply keptC_regs |
                 with_reducible exact kept_fst (by assumption) (by assumption))

theorem execFunctionLevelReset_kept {dv : Nat} (f : Fin 64) (s : State) (h_s : Kept dv s) : OutKept dv (execFunctionLevelReset f s) :=
    by
  unfold execFunctionLevelReset
  try dsimp only
  repeat' (first | with_reducible assumption | with_reducible apply done_kept | with_reducible apply State.flr_kept | (intro _) | split
                 | dsimp only [StepKept, OutKept, IssueKept, MicroKept, OptKept, done] | simp only [kept_mk_eq] |
                 with_reducible apply keptC_of | with_reducible apply keptC_marks | with_reducible apply keptC_regs |
                 with_reducible exact kept_fst (by assumption) (by assumption))

theorem execFlrComplete_kept {dv : Nat} (f : Fin 64) (s : State) (h_s : Kept dv s) : OutKept dv (execFlrComplete f s) := by
  unfold execFlrComplete
  try dsimp only
  repeat' (first | with_reducible assumption | with_reducible apply State.setFn_kept | with_reducible apply done_kept | (intro _) |
                 split | dsimp only [StepKept, OutKept, IssueKept, MicroKept, OptKept, done] | simp only [kept_mk_eq] |
                 with_reducible apply keptC_of | with_reducible apply keptC_marks | with_reducible apply keptC_regs |
                 with_reducible exact kept_fst (by assumption) (by assumption))

theorem State.abortReqs_kept {dv : Nat} (s : State) (l : List OutReq) (h_s : Kept dv s) : Kept dv (State.abortReqs s l) := by
  fun_induction State.abortReqs s l
  all_goals (repeat' (first | with_reducible assumption | (rename_i ih; with_reducible apply ih) | with_reducible apply State.deliverError_kept |
                            with_reducible apply State.dropReq_kept | (intro _) | split |
                            dsimp only [StepKept, OutKept, IssueKept, MicroKept, OptKept, done] | simp only [kept_mk_eq] |
                            with_reducible apply keptC_of | with_reducible apply keptC_marks | with_reducible apply keptC_regs |
                            with_reducible exact kept_fst (by assumption) (by assumption)))
  all_goals first | done | simp_all

theorem State.clearD5_kept {dv : Nat} (s : State) (h_s : Kept dv s) : Kept dv (State.clearD5 s) := by
  unfold State.clearD5
  try dsimp only
  repeat' (first | with_reducible assumption | (intro _) | split | dsimp only [StepKept, OutKept, IssueKept, MicroKept, OptKept, done] |
                 simp only [kept_mk_eq] | with_reducible apply keptC_of | with_reducible apply keptC_marks |
                 with_reducible apply keptC_regs | with_reducible exact kept_fst (by assumption) (by assumption))

theorem State.linkGone_kept {dv : Nat} (s : State) (h_s : Kept dv s) : Kept dv (State.linkGone s) := by
  unfold State.linkGone
  try dsimp only
  repeat' (first | with_reducible assumption | with_reducible apply State.setFld_kept | (intro _) | split |
                 dsimp only [StepKept, OutKept, IssueKept, MicroKept, OptKept, done] | simp only [kept_mk_eq] |
                 with_reducible apply keptC_of | with_reducible apply keptC_marks | with_reducible apply keptC_regs |
                 with_reducible exact kept_fst (by assumption) (by assumption))

theorem State.hotReset_kept {dv : Nat} (s : State) (h_s : Kept dv s) : Kept dv (State.hotReset s) := by
  unfold State.hotReset
  try dsimp only
  repeat' (first | with_reducible assumption | with_reducible apply State.resetAll_kept | with_reducible apply State.abortReqs_kept |
                 with_reducible apply State.clearD5_kept | with_reducible apply State.linkGone_kept | (intro _) | split |
                 dsimp only [StepKept, OutKept, IssueKept, MicroKept, OptKept, done] | simp only [kept_mk_eq] |
                 with_reducible apply keptC_of | with_reducible apply keptC_marks | with_reducible apply keptC_regs |
                 with_reducible exact kept_fst (by assumption) (by assumption))

theorem State.coldFns_kept {dv : Nat} (s : State) (h_s : Kept dv s) : Kept dv (State.coldFns s) := by
  unfold State.coldFns
  try dsimp only
  repeat' (first | with_reducible assumption | with_reducible apply State.setFn_kept | with_reducible apply foldl_kept | (intro _) |
                 split | dsimp only [StepKept, OutKept, IssueKept, MicroKept, OptKept, done] | simp only [kept_mk_eq] |
                 with_reducible apply keptC_of | with_reducible apply keptC_marks | with_reducible apply keptC_regs |
                 with_reducible exact kept_fst (by assumption) (by assumption))

theorem State.d5Off_kept {dv : Nat} (s : State) (h_s : Kept dv s) : Kept dv (State.d5Off s) := by
  unfold State.d5Off
  try dsimp only
  repeat' (first | with_reducible assumption | with_reducible apply State.setFld_kept | with_reducible apply State.closePath_kept |
                 with_reducible apply State.abortReqs_kept | with_reducible apply State.linkGone_kept | (intro _) | split |
                 dsimp only [StepKept, OutKept, IssueKept, MicroKept, OptKept, done] | simp only [kept_mk_eq] |
                 with_reducible apply keptC_of | with_reducible apply keptC_marks | with_reducible apply keptC_regs |
                 with_reducible exact kept_fst (by assumption) (by assumption))

theorem State.d5On_kept {dv : Nat} (s : State) (h_s : Kept dv s) : Kept dv (State.d5On s) := by
  unfold State.d5On
  try dsimp only
  repeat' (first | with_reducible assumption | with_reducible apply State.setFld_kept | with_reducible apply State.clearD5_kept |
                 with_reducible apply State.coldFns_kept | (intro _) | split |
                 dsimp only [StepKept, OutKept, IssueKept, MicroKept, OptKept, done] | simp only [kept_mk_eq] |
                 with_reducible apply keptC_of | with_reducible apply keptC_marks | with_reducible apply keptC_regs |
                 with_reducible exact kept_fst (by assumption) (by assumption))

theorem execPerstNAssert_kept {dv : Nat} (s : State) (h_s : Kept dv s) : OutKept dv (execPerstNAssert s) := by
  unfold execPerstNAssert
  try dsimp only
  repeat' (first | with_reducible assumption | with_reducible apply done_kept | with_reducible apply State.hotReset_kept | (intro _) |
                 split | dsimp only [StepKept, OutKept, IssueKept, MicroKept, OptKept, done] | simp only [kept_mk_eq] |
                 with_reducible apply keptC_of | with_reducible apply keptC_marks | with_reducible apply keptC_regs |
                 with_reducible exact kept_fst (by assumption) (by assumption))

theorem execPerstNDeassert_kept {dv : Nat} (s : State) (h_s : Kept dv s) : OutKept dv (execPerstNDeassert s) := by
  unfold execPerstNDeassert
  try dsimp only
  repeat' (first | with_reducible assumption | with_reducible apply State.setFn_kept | with_reducible apply done_kept |
                 with_reducible apply foldl_kept | (intro _) | split |
                 dsimp only [StepKept, OutKept, IssueKept, MicroKept, OptKept, done] | simp only [kept_mk_eq] |
                 with_reducible apply keptC_of | with_reducible apply keptC_marks | with_reducible apply keptC_regs |
                 with_reducible exact kept_fst (by assumption) (by assumption))

theorem execHepLinkDown_kept {dv : Nat} (s : State) (h_s : Kept dv s) : OutKept dv (execHepLinkDown s) := by
  unfold execHepLinkDown
  try dsimp only
  repeat' (first | with_reducible assumption | with_reducible apply State.log_kept | with_reducible apply done_kept |
                 with_reducible apply State.freeze_kept | with_reducible apply State.hotReset_kept | (intro _) | split |
                 dsimp only [StepKept, OutKept, IssueKept, MicroKept, OptKept, done] | simp only [kept_mk_eq] |
                 with_reducible apply keptC_of | with_reducible apply keptC_marks | with_reducible apply keptC_regs |
                 with_reducible exact kept_fst (by assumption) (by assumption))

theorem execHepLinkUp_kept {dv : Nat} (rate : Fin 6) (width : Fin 9) (s : State) (h_s : Kept dv s) : OutKept dv (execHepLinkUp rate
    width s) := by
  unfold execHepLinkUp
  try dsimp only
  repeat' (first | with_reducible assumption | with_reducible apply State.setFld_kept | with_reducible apply State.raise_kept |
                 with_reducible apply done_kept | (intro _) | split |
                 dsimp only [StepKept, OutKept, IssueKept, MicroKept, OptKept, done] | simp only [kept_mk_eq] |
                 with_reducible apply keptC_of | with_reducible apply keptC_marks | with_reducible apply keptC_regs |
                 with_reducible exact kept_fst (by assumption) (by assumption))

theorem State.setPower_kept {dv : Nat} (s : State) (f code : Nat) (h_s : Kept dv s) : Kept dv (State.setPower s f code) := by
  unfold State.setPower
  try dsimp only
  repeat' (first | with_reducible assumption | with_reducible apply State.setFn_kept | (intro _) | split |
                 dsimp only [StepKept, OutKept, IssueKept, MicroKept, OptKept, done] | simp only [kept_mk_eq] |
                 with_reducible apply keptC_of | with_reducible apply keptC_marks | with_reducible apply keptC_regs |
                 with_reducible exact kept_fst (by assumption) (by assumption))

theorem State.enterCold_kept {dv : Nat} (s : State) (h_s : Kept dv s) : Kept dv (State.enterCold s) := by
  unfold State.enterCold
  try dsimp only
  repeat' (first | with_reducible assumption | with_reducible apply State.d5Off_kept | with_reducible apply State.setPower_kept |
                 with_reducible apply foldl_kept | (intro _) | split |
                 dsimp only [StepKept, OutKept, IssueKept, MicroKept, OptKept, done] | simp only [kept_mk_eq] |
                 with_reducible apply keptC_of | with_reducible apply keptC_marks | with_reducible apply keptC_regs |
                 with_reducible exact kept_fst (by assumption) (by assumption))

theorem State.wakeUp_kept {dv : Nat} (s : State) (h_s : Kept dv s) : Kept dv (State.wakeUp s) := by
  unfold State.wakeUp
  try dsimp only
  repeat' (first | with_reducible assumption | with_reducible apply State.d5On_kept | (intro _) | split |
                 dsimp only [StepKept, OutKept, IssueKept, MicroKept, OptKept, done] | simp only [kept_mk_eq] |
                 with_reducible apply keptC_of | with_reducible apply keptC_marks | with_reducible apply keptC_regs |
                 with_reducible exact kept_fst (by assumption) (by assumption))

theorem State.powerChange_kept {dv : Nat} (s : State) (f target : Nat) (h_s : Kept dv s) : Kept dv (State.powerChange s f target) := by
  unfold State.powerChange
  try dsimp only
  repeat' (first | with_reducible assumption | with_reducible apply State.flushMsix_kept | with_reducible apply State.setPower_kept |
                 with_reducible apply State.enterCold_kept | with_reducible apply State.wakeUp_kept | (intro _) | split |
                 dsimp only [StepKept, OutKept, IssueKept, MicroKept, OptKept, done] | simp only [kept_mk_eq] |
                 with_reducible apply keptC_of | with_reducible apply keptC_marks | with_reducible apply keptC_regs |
                 with_reducible exact kept_fst (by assumption) (by assumption))

theorem execPowerStateChange_kept {dv : Nat} (f : Fin 64) (target : Fin 3) (s : State) (h_s : Kept dv s) : OutKept dv
    (execPowerStateChange f target s) := by
  unfold execPowerStateChange
  try dsimp only
  repeat' (first | with_reducible assumption | with_reducible apply done_kept | with_reducible apply State.powerChange_kept | (intro _)
                 | split | dsimp only [StepKept, OutKept, IssueKept, MicroKept, OptKept, done] | simp only [kept_mk_eq] |
                 with_reducible apply keptC_of | with_reducible apply keptC_marks | with_reducible apply keptC_regs |
                 with_reducible exact kept_fst (by assumption) (by assumption))

theorem State.cfgWrite_kept {dv : Nat} (s : State) (f : Nat) (w : CfgWrite) (h_s : Kept dv s) : Kept dv (State.cfgWrite s f w) := by
  unfold State.cfgWrite
  try dsimp only
  repeat' (first | with_reducible assumption | with_reducible apply State.emit_kept | with_reducible apply State.setFn_kept |
                 with_reducible apply State.flushMsix_kept | with_reducible apply foldl_kept | (intro _) | split |
                 dsimp only [StepKept, OutKept, IssueKept, MicroKept, OptKept, done] | simp only [kept_mk_eq] |
                 with_reducible apply keptC_of | with_reducible apply keptC_marks | with_reducible apply keptC_regs |
                 with_reducible exact kept_fst (by assumption) (by assumption))

theorem execConfigurationWrite_kept {dv : Nat} (f : Fin 64) (w : CfgWrite) (s : State) (h_s : Kept dv s) : OutKept dv
    (execConfigurationWrite f w s) := by
  unfold execConfigurationWrite
  try dsimp only
  repeat' (first | with_reducible assumption | with_reducible apply done_kept | with_reducible apply State.cfgWrite_kept | (intro _) |
                 split | dsimp only [StepKept, OutKept, IssueKept, MicroKept, OptKept, done] | simp only [kept_mk_eq] |
                 with_reducible apply keptC_of | with_reducible apply keptC_marks | with_reducible apply keptC_regs |
                 with_reducible exact kept_fst (by assumption) (by assumption))

theorem State.emitRead_kept {dv : Nat} (s : State) (a n k : Nat) (h_s : Kept dv s) : Kept dv (State.emitRead s a n k) := by
  fun_induction State.emitRead s a n k
  all_goals (repeat' (first | with_reducible assumption | (rename_i ih; with_reducible apply ih) | with_reducible apply State.emit_kept | (intro _) |
                            split | dsimp only [StepKept, OutKept, IssueKept, MicroKept, OptKept, done] | simp only [kept_mk_eq] |
                            with_reducible apply keptC_of | with_reducible apply keptC_marks | with_reducible apply keptC_regs |
                            with_reducible exact kept_fst (by assumption) (by assumption)))
  all_goals first | done | simp_all

theorem State.bar2Read_kept {dv : Nat} (s : State) (f off n : Nat) (h_s : Kept dv s) : Kept dv (State.bar2Read s f off n) := by
  unfold State.bar2Read
  try dsimp only
  repeat' (first | with_reducible assumption | with_reducible apply State.hubAccess_kept | with_reducible apply State.emit_kept |
                 with_reducible apply State.barErr_kept | with_reducible apply State.emitRead_kept | (intro _) | split |
                 dsimp only [StepKept, OutKept, IssueKept, MicroKept, OptKept, done] | simp only [kept_mk_eq] |
                 with_reducible apply keptC_of | with_reducible apply keptC_marks | with_reducible apply keptC_regs |
                 with_reducible exact kept_fst (by assumption) (by assumption))

theorem execBar2Read_kept {dv : Nat} (f : Fin 64) (off : BitVec 28) (len : Fin 4097) (s : State) (h_s : Kept dv s) : OutKept dv
    (execBar2Read f off len s) := by
  unfold execBar2Read
  try dsimp only
  repeat' (first | with_reducible assumption | with_reducible apply done_kept | with_reducible apply State.bar2Read_kept | (intro _) |
                 split | dsimp only [StepKept, OutKept, IssueKept, MicroKept, OptKept, done] | simp only [kept_mk_eq] |
                 with_reducible apply keptC_of | with_reducible apply keptC_marks | with_reducible apply keptC_regs |
                 with_reducible exact kept_fst (by assumption) (by assumption))

theorem State.bar2Write_kept {dv : Nat} (s : State) (f off : Nat) (data : List Byte) (ep : Bool) (h_s : Kept dv s) : Kept dv
    (State.bar2Write s f off data ep) := by
  unfold State.bar2Write
  try dsimp only
  repeat' (first | with_reducible assumption | with_reducible apply State.count_kept | with_reducible apply State.dmaWriteBy_kept |
                 with_reducible apply State.dmaWritePoison_kept | with_reducible apply State.barErr_kept |
                 with_reducible apply State.poisonRx_kept | with_reducible apply State.writeType_kept |
                 with_reducible apply State.recordPort_kept | with_reducible apply State.aerLog_kept | (intro _) | split |
                 dsimp only [StepKept, OutKept, IssueKept, MicroKept, OptKept, done] | simp only [kept_mk_eq] |
                 with_reducible apply keptC_of | with_reducible apply keptC_marks | with_reducible apply keptC_regs |
                 with_reducible exact kept_fst (by assumption) (by assumption))

theorem execBar2Write_kept {dv : Nat} (f : Fin 64) (off : BitVec 28) (data : List Byte) (ep : Bool) (s : State) (h_s : Kept dv s) :
    OutKept dv (execBar2Write f off data ep s) := by
  unfold execBar2Write
  try dsimp only
  repeat' (first | with_reducible assumption | with_reducible apply done_kept | with_reducible apply State.bar2Write_kept | (intro _) |
                 split | dsimp only [StepKept, OutKept, IssueKept, MicroKept, OptKept, done] | simp only [kept_mk_eq] |
                 with_reducible apply keptC_of | with_reducible apply keptC_marks | with_reducible apply keptC_regs |
                 with_reducible exact kept_fst (by assumption) (by assumption))

theorem execRecordPortWrite_kept {dv : Nat} (off : BitVec 20) (data : List Byte) (ep : Bool) (s : State) (h_s : Kept dv s) : OutKept dv
    (execRecordPortWrite off data ep s) := by
  unfold execRecordPortWrite
  try dsimp only
  repeat' (first | with_reducible assumption | with_reducible apply done_kept | with_reducible apply State.bar2Write_kept | (intro _) |
                 split | dsimp only [StepKept, OutKept, IssueKept, MicroKept, OptKept, done] | simp only [kept_mk_eq] |
                 with_reducible apply keptC_of | with_reducible apply keptC_marks | with_reducible apply keptC_regs |
                 with_reducible exact kept_fst (by assumption) (by assumption))

theorem State.cmpInterrupt_kept {dv : Nat} (s : State) (arg : Nat) (h_s : Kept dv s) : Kept dv (State.cmpInterrupt s arg) := by
  unfold State.cmpInterrupt
  try dsimp only
  repeat' (first | with_reducible assumption | with_reducible apply State.setFld_kept | (intro _) | split |
                 dsimp only [StepKept, OutKept, IssueKept, MicroKept, OptKept, done] | simp only [kept_mk_eq] |
                 with_reducible apply keptC_of | with_reducible apply keptC_marks | with_reducible apply keptC_regs |
                 with_reducible exact kept_fst (by assumption) (by assumption))

theorem State.cmpAction_kept {dv : Nat} (s : State) (n t : Nat) (h_s : Kept dv s) : Kept dv (State.cmpAction s n t) := by
  unfold State.cmpAction
  try dsimp only
  repeat' (first | with_reducible assumption | with_reducible apply State.requestAdvance_kept |
                 with_reducible apply State.commandRelease_kept | with_reducible apply State.launch_kept |
                 with_reducible apply State.outputAction_kept | with_reducible apply State.cmpInterrupt_kept | (intro _) | split |
                 dsimp only [StepKept, OutKept, IssueKept, MicroKept, OptKept, done] | simp only [kept_mk_eq] |
                 with_reducible apply keptC_of | with_reducible apply keptC_marks | with_reducible apply keptC_regs |
                 with_reducible exact kept_fst (by assumption) (by assumption))

theorem execCompareUnitFire_kept {dv : Nat} (n : Fin 64) (s : State) (h_s : Kept dv s) : OutKept dv (execCompareUnitFire n s) := by
  unfold execCompareUnitFire
  try dsimp only
  repeat' (first | with_reducible assumption | with_reducible apply done_kept | with_reducible apply State.cmpAdvance_kept |
                 with_reducible apply State.cmpAction_kept | (intro _) | split |
                 dsimp only [StepKept, OutKept, IssueKept, MicroKept, OptKept, done] | simp only [kept_mk_eq] |
                 with_reducible apply keptC_of | with_reducible apply keptC_marks | with_reducible apply keptC_regs |
                 with_reducible exact kept_fst (by assumption) (by assumption))

theorem State.preloadWrite_kept {dv : Nat} (s : State) (v : Nat) (h_s : Kept dv s) : Kept dv (State.preloadWrite s v) := by
  unfold State.preloadWrite
  try dsimp only
  repeat' (first | with_reducible assumption | with_reducible apply State.setFld_kept | with_reducible apply State.raise_kept |
                 (intro _) | split | dsimp only [StepKept, OutKept, IssueKept, MicroKept, OptKept, done] | simp only [kept_mk_eq] |
                 with_reducible apply keptC_of | with_reducible apply keptC_marks | with_reducible apply keptC_regs |
                 with_reducible exact kept_fst (by assumption) (by assumption))

theorem execMemL2PldCtlWrite_kept {dv : Nat} (value : Word32) (s : State) (h_s : Kept dv s) : OutKept dv (execMemL2PldCtlWrite value s)
    := by
  unfold execMemL2PldCtlWrite
  try dsimp only
  repeat' (first | with_reducible assumption | with_reducible apply done_kept | with_reducible apply State.preloadWrite_kept | (intro _)
                 | split | dsimp only [StepKept, OutKept, IssueKept, MicroKept, OptKept, done] | simp only [kept_mk_eq] |
                 with_reducible apply keptC_of | with_reducible apply keptC_marks | with_reducible apply keptC_regs |
                 with_reducible exact kept_fst (by assumption) (by assumption))

theorem State.preloadLine_kept {dv : Nat} (s : State) (w g line : Nat) (h_s : Kept dv s) : Kept dv (State.preloadLine s w g line) := by
  unfold State.preloadLine
  try dsimp only
  repeat' (first | with_reducible assumption | with_reducible apply State.mscUse_kept | with_reducible apply State.l2Mod_kept |
                 with_reducible apply State.setDir_kept | with_reducible apply State.shareLine_kept |
                 with_reducible apply State.l2Place_kept | (intro _) | split |
                 dsimp only [StepKept, OutKept, IssueKept, MicroKept, OptKept, done] | simp only [kept_mk_eq] |
                 with_reducible apply keptC_of | with_reducible apply keptC_marks | with_reducible apply keptC_regs |
                 with_reducible exact kept_fst (by assumption) (by assumption))

theorem execPreloadDone_kept {dv : Nat} (s : State) (h_s : Kept dv s) : OutKept dv (execPreloadDone s) := by
  unfold execPreloadDone
  try dsimp only
  repeat' (first | with_reducible assumption | with_reducible apply State.setFld_kept | with_reducible apply done_kept |
                 with_reducible apply State.preloadLine_kept | with_reducible apply foldl_kept | (intro _) | split |
                 dsimp only [StepKept, OutKept, IssueKept, MicroKept, OptKept, done] | simp only [kept_mk_eq] |
                 with_reducible apply keptC_of | with_reducible apply keptC_marks | with_reducible apply keptC_regs |
                 with_reducible exact kept_fst (by assumption) (by assumption))

theorem State.showThrottles_kept {dv : Nat} (s : State) (c : Nat) (h_s : Kept dv s) : Kept dv (State.showThrottles s c) := by
  unfold State.showThrottles
  try dsimp only
  repeat' (first | with_reducible assumption | with_reducible apply State.setFld_kept | with_reducible apply foldl_kept | (intro _) |
                 split | dsimp only [StepKept, OutKept, IssueKept, MicroKept, OptKept, done] | simp only [kept_mk_eq] |
                 with_reducible apply keptC_of | with_reducible apply keptC_marks | with_reducible apply keptC_regs |
                 with_reducible exact kept_fst (by assumption) (by assumption))

theorem State.fdpTrigger_kept {dv : Nat} (s : State) (c b : Nat) (e : FdpEntry) (h_s : Kept dv s) : Kept dv (State.fdpTrigger s c b e)
    := by
  unfold State.fdpTrigger
  try dsimp only
  repeat' (first | with_reducible assumption | with_reducible apply State.setReg_kept | with_reducible apply State.count_kept |
                 with_reducible apply State.modBank_kept | with_reducible apply State.log_kept |
                 with_reducible apply State.showThrottles_kept | with_reducible apply getD_kept | (intro _) | split |
                 dsimp only [StepKept, OutKept, IssueKept, MicroKept, OptKept, done] | simp only [kept_mk_eq] |
                 with_reducible apply keptC_of | with_reducible apply keptC_marks | with_reducible apply keptC_regs |
                 with_reducible exact kept_fst (by assumption) (by assumption))

theorem State.activate_kept {dv : Nat} (s : State) (c b row src : Nat) (h_s : Kept dv s) : Kept dv (State.activate s c b row src) := by
  unfold State.activate
  try dsimp only
  repeat' (first | with_reducible assumption | with_reducible apply State.setBank_kept | with_reducible apply State.modBank_kept |
                 with_reducible apply State.fdpTrigger_kept | (intro _) | split |
                 dsimp only [StepKept, OutKept, IssueKept, MicroKept, OptKept, done] | simp only [kept_mk_eq] |
                 with_reducible apply keptC_of | with_reducible apply keptC_marks | with_reducible apply keptC_regs |
                 with_reducible exact kept_fst (by assumption) (by assumption))

theorem State.touchRow_kept {dv : Nat} (s : State) (c b row src : Nat) (h_s : Kept dv s) : Kept dv (State.touchRow s c b row src) := by
  unfold State.touchRow
  try dsimp only
  repeat' (first | with_reducible assumption | with_reducible apply State.accessRow_kept | with_reducible apply State.activate_kept |
                 (intro _) | split | dsimp only [StepKept, OutKept, IssueKept, MicroKept, OptKept, done] | simp only [kept_mk_eq] |
                 with_reducible apply keptC_of | with_reducible apply keptC_marks | with_reducible apply keptC_regs |
                 with_reducible exact kept_fst (by assumption) (by assumption))

theorem State.useCheck_kept {dv : Nat} (s : State) (c line src : Nat) (dirty : Bool) (h_s : Kept dv s) : Kept dv (State.useCheck s c
    line src dirty) := by
  unfold State.useCheck
  try dsimp only
  repeat' (first | with_reducible assumption | with_reducible apply State.touchRow_kept | with_reducible apply foldl_kept | (intro _) |
                 split | dsimp only [StepKept, OutKept, IssueKept, MicroKept, OptKept, done] | simp only [kept_mk_eq] |
                 with_reducible apply keptC_of | with_reducible apply keptC_marks | with_reducible apply keptC_regs |
                 with_reducible exact kept_fst (by assumption) (by assumption))

theorem State.cleanCheck_kept {dv : Nat} (s : State) (a : Nat) (h_s : Kept dv s) : Kept dv (State.cleanCheck s a) := by
  unfold State.cleanCheck
  try dsimp only
  repeat' (first | with_reducible assumption | with_reducible apply State.touchRow_kept | (intro _) | split |
                 dsimp only [StepKept, OutKept, IssueKept, MicroKept, OptKept, done] | simp only [kept_mk_eq] |
                 with_reducible apply keptC_of | with_reducible apply keptC_marks | with_reducible apply keptC_regs |
                 with_reducible exact kept_fst (by assumption) (by assumption))

theorem State.reqTouch_kept {dv : Nat} (s : State) (c : Nat) (q : DramReq) (write : Bool) (h_s : Kept dv s) : Kept dv (State.reqTouch s
    c q write) := by
  unfold State.reqTouch
  try dsimp only
  repeat' (first | with_reducible assumption | with_reducible apply State.touchRow_kept | with_reducible apply State.useCheck_kept |
                 (intro _) | split | dsimp only [StepKept, OutKept, IssueKept, MicroKept, OptKept, done] | simp only [kept_mk_eq] |
                 with_reducible apply keptC_of | with_reducible apply keptC_marks | with_reducible apply keptC_regs |
                 with_reducible exact kept_fst (by assumption) (by assumption))

theorem State.reqServe_kept {dv : Nat} (s : State) (c : Nat) (q : DramReq) (write : Bool) (h_s : Kept dv s) : Kept dv (State.reqServe s
    c q write) := by
  unfold State.reqServe
  try dsimp only
  repeat' (first | with_reducible assumption | with_reducible apply State.setDchan_kept | with_reducible apply State.reqTouch_kept |
                 (intro _) | split | dsimp only [StepKept, OutKept, IssueKept, MicroKept, OptKept, done] | simp only [kept_mk_eq] |
                 with_reducible apply keptC_of | with_reducible apply keptC_marks | with_reducible apply keptC_regs |
                 with_reducible exact kept_fst (by assumption) (by assumption))

theorem State.reqDrain_kept {dv : Nat} (s : State) (c : Nat) (write : Bool) (n : Nat) (h_s : Kept dv s) : Kept dv (State.reqDrain s c
    write n) := by
  fun_induction State.reqDrain s c write n
  all_goals (repeat' (first | with_reducible assumption | (rename_i ih; with_reducible apply ih) | with_reducible apply State.reqServe_kept |
                            (intro _) | split | dsimp only [StepKept, OutKept, IssueKept, MicroKept, OptKept, done] |
                            simp only [kept_mk_eq] | with_reducible apply keptC_of | with_reducible apply keptC_marks |
                            with_reducible apply keptC_regs | with_reducible exact kept_fst (by assumption) (by assumption)))
  all_goals first | done | simp_all

theorem State.markUnit_kept {dv : Nat} (s : State) (a : Nat) (h_s : Kept dv s) : Kept dv (State.markUnit s a) := by
  unfold State.markUnit
  try dsimp only
  repeat' (first | with_reducible assumption | (intro _) | split | dsimp only [StepKept, OutKept, IssueKept, MicroKept, OptKept, done] |
                 simp only [kept_mk_eq] | with_reducible apply keptC_of | with_reducible apply keptC_marks |
                 with_reducible apply keptC_regs | with_reducible exact kept_fst (by assumption) (by assumption))

theorem execCachePatrolScrub_kept {dv : Nat} (l2 : Option (Fin 1024)) (a : BitVec 48) (uncorrectable dirty : Bool) (s : State) (h_s :
    Kept dv s) : OutKept dv (execCachePatrolScrub l2 a uncorrectable dirty s) := by
  unfold execCachePatrolScrub
  try dsimp only
  repeat' (first | with_reducible assumption | with_reducible apply State.count_kept | with_reducible apply State.log_kept |
                 with_reducible apply done_kept | with_reducible apply State.wayEvent_kept | with_reducible apply State.cleanCheck_kept
                 | with_reducible apply State.markUnit_kept | (intro _) | split |
                 dsimp only [StepKept, OutKept, IssueKept, MicroKept, OptKept, done] | simp only [kept_mk_eq] |
                 with_reducible apply keptC_of | with_reducible apply keptC_marks | with_reducible apply keptC_regs |
                 with_reducible exact kept_fst (by assumption) (by assumption))

theorem State.memCe_kept {dv : Nat} (s : State) (a cw source pins : Nat) (h_s : Kept dv s) : Kept dv (State.memCe s a cw source pins) :=
    by
  unfold State.memCe
  try dsimp only
  repeat' (first | with_reducible assumption | with_reducible apply State.setReg_kept | with_reducible apply State.count_kept |
                 with_reducible apply State.log_kept | with_reducible apply State.rowEvent_kept | (intro _) | split |
                 dsimp only [StepKept, OutKept, IssueKept, MicroKept, OptKept, done] | simp only [kept_mk_eq] |
                 with_reducible apply keptC_of | with_reducible apply keptC_marks | with_reducible apply keptC_regs |
                 with_reducible exact kept_fst (by assumption) (by assumption))

theorem State.ueMark_kept {dv : Nat} (s : State) (u : Nat) (h_s : Kept dv s) : Kept dv (State.ueMark s u) := by
  unfold State.ueMark
  try dsimp only
  repeat' (first | with_reducible assumption | (intro _) | split | dsimp only [StepKept, OutKept, IssueKept, MicroKept, OptKept, done] |
                 simp only [kept_mk_eq] | with_reducible apply keptC_of | with_reducible apply keptC_marks |
                 with_reducible apply keptC_regs | with_reducible exact kept_fst (by assumption) (by assumption))

theorem State.memUe_kept {dv : Nat} (s : State) (a cw source pins : Nat) (h_s : Kept dv s) : Kept dv (State.memUe s a cw source pins) :=
    by
  unfold State.memUe
  try dsimp only
  repeat' (first | with_reducible assumption | with_reducible apply State.setReg_kept | with_reducible apply State.count_kept |
                 with_reducible apply State.log_kept | with_reducible apply State.rowEvent_kept | with_reducible apply State.ueMark_kept
                 | (intro _) | split | dsimp only [StepKept, OutKept, IssueKept, MicroKept, OptKept, done] | simp only [kept_mk_eq] |
                 with_reducible apply keptC_of | with_reducible apply keptC_marks | with_reducible apply keptC_regs |
                 with_reducible exact kept_fst (by assumption) (by assumption))

theorem State.readCodeword_kept {dv : Nat} (s : State) (a cw source : Nat) (r : CodeResult) (h_s : Kept dv s) : Kept dv
    (State.readCodeword s a cw source r) := by
  unfold State.readCodeword
  try dsimp only
  repeat' (first | with_reducible assumption | with_reducible apply State.reqTouch_kept | with_reducible apply State.memCe_kept |
                 with_reducible apply State.memUe_kept | (intro _) | split |
                 dsimp only [StepKept, OutKept, IssueKept, MicroKept, OptKept, done] | simp only [kept_mk_eq] |
                 with_reducible apply keptC_of | with_reducible apply keptC_marks | with_reducible apply keptC_regs |
                 with_reducible exact kept_fst (by assumption) (by assumption))

theorem State.checkUe_kept {dv : Nat} (s : State) (a : Nat) (h_s : Kept dv s) : Kept dv (State.checkUe s a) := by
  unfold State.checkUe
  try dsimp only
  repeat' (first | with_reducible assumption | with_reducible apply State.log_kept | with_reducible apply State.markUnit_kept |
                 with_reducible apply foldl_kept | (intro _) | split |
                 dsimp only [StepKept, OutKept, IssueKept, MicroKept, OptKept, done] | simp only [kept_mk_eq] |
                 with_reducible apply keptC_of | with_reducible apply keptC_marks | with_reducible apply keptC_regs |
                 with_reducible exact kept_fst (by assumption) (by assumption))

theorem State.serveLine_kept {dv : Nat} (s : State) (a src : Nat) (write : Bool) (f : State → Nat → State) (h_s : Kept dv s) (h_f : ∀ a0
    a1, Kept dv a0 → Kept dv (f a0 a1)) : Kept dv (State.serveLine s a src write f) := by
  unfold State.serveLine
  try dsimp only
  repeat' (first | with_reducible assumption | with_reducible apply h_f | with_reducible apply State.count_kept |
                 with_reducible apply State.reqTouch_kept | with_reducible apply State.reqServe_kept | (intro _) | split |
                 dsimp only [StepKept, OutKept, IssueKept, MicroKept, OptKept, done] | simp only [kept_mk_eq] |
                 with_reducible apply keptC_of | with_reducible apply keptC_marks | with_reducible apply keptC_regs |
                 with_reducible exact kept_fst (by assumption) (by assumption))

theorem execDramRead_kept {dv : Nat} (a : BitVec 48) (source : BitVec 12) (cw0 cw1 : CodeResult) (checkBad : Bool) (s : State) (h_s :
    Kept dv s) : OutKept dv (execDramRead a source cw0 cw1 checkBad s) := by
  unfold execDramRead
  try dsimp only
  repeat' (first | with_reducible assumption | with_reducible apply done_kept | with_reducible apply State.readCodeword_kept |
                 with_reducible apply State.checkUe_kept | with_reducible apply State.serveLine_kept | (intro _) | split |
                 dsimp only [StepKept, OutKept, IssueKept, MicroKept, OptKept, done] | simp only [kept_mk_eq] |
                 with_reducible apply keptC_of | with_reducible apply keptC_marks | with_reducible apply keptC_regs |
                 with_reducible exact kept_fst (by assumption) (by assumption))

theorem execDramWrite_kept {dv : Nat} (a : BitVec 48) (s : State) (h_s : Kept dv s) : OutKept dv (execDramWrite a s) := by
  unfold execDramWrite
  try dsimp only
  repeat' (first | with_reducible assumption | with_reducible apply State.setDchan_kept | with_reducible apply done_kept |
                 with_reducible apply State.serveLine_kept | (intro _) | split |
                 dsimp only [StepKept, OutKept, IssueKept, MicroKept, OptKept, done] | simp only [kept_mk_eq] |
                 with_reducible apply keptC_of | with_reducible apply keptC_marks | with_reducible apply keptC_regs |
                 with_reducible exact kept_fst (by assumption) (by assumption))

theorem execDramActivate_kept {dv : Nat} (c : Fin 32) (b : Fin 16) (row : BitVec 18) (source : BitVec 12) (s : State) (h_s : Kept dv s)
    : OutKept dv (execDramActivate c b row source s) := by
  unfold execDramActivate
  try dsimp only
  repeat' (first | with_reducible assumption | with_reducible apply State.count_kept | with_reducible apply done_kept |
                 with_reducible apply State.activate_kept | (intro _) | split |
                 dsimp only [StepKept, OutKept, IssueKept, MicroKept, OptKept, done] | simp only [kept_mk_eq] |
                 with_reducible apply keptC_of | with_reducible apply keptC_marks | with_reducible apply keptC_regs |
                 with_reducible exact kept_fst (by assumption) (by assumption))

theorem execRfm_kept {dv : Nat} (c : Fin 32) (b : Fin 16) (s : State) (h_s : Kept dv s) : OutKept dv (execRfm c b s) := by
  unfold execRfm
  try dsimp only
  repeat' (first | with_reducible assumption | with_reducible apply State.count_kept | with_reducible apply State.modBank_kept |
                 with_reducible apply done_kept | (intro _) | split |
                 dsimp only [StepKept, OutKept, IssueKept, MicroKept, OptKept, done] | simp only [kept_mk_eq] |
                 with_reducible apply keptC_of | with_reducible apply keptC_marks | with_reducible apply keptC_regs |
                 with_reducible exact kept_fst (by assumption) (by assumption))

theorem State.clearFdp_kept {dv : Nat} (s : State) (c : Nat) (h_s : Kept dv s) : Kept dv (State.clearFdp s c) := by
  unfold State.clearFdp
  try dsimp only
  repeat' (first | with_reducible assumption | with_reducible apply State.setDchan_kept | with_reducible apply State.showThrottles_kept
                 | (intro _) | split | dsimp only [StepKept, OutKept, IssueKept, MicroKept, OptKept, done] | simp only [kept_mk_eq] |
                 with_reducible apply keptC_of | with_reducible apply keptC_marks | with_reducible apply keptC_regs |
                 with_reducible exact kept_fst (by assumption) (by assumption))

theorem State.clearFdps_kept {dv : Nat} (s : State) (n c : Nat) (h_s : Kept dv s) : Kept dv (State.clearFdps s n c) := by
  fun_induction State.clearFdps s n c
  all_goals (repeat' (first | with_reducible assumption | (rename_i ih; with_reducible apply ih) | with_reducible apply State.clearFdp_kept |
                            (intro _) | split | dsimp only [StepKept, OutKept, IssueKept, MicroKept, OptKept, done] |
                            simp only [kept_mk_eq] | with_reducible apply keptC_of | with_reducible apply keptC_marks |
                            with_reducible apply keptC_regs | with_reducible exact kept_fst (by assumption) (by assumption)))
  all_goals first | done | simp_all

theorem execFiredampWindowEnd_kept {dv : Nat} (d4 : Bool) (s : State) (h_s : Kept dv s) : OutKept dv (execFiredampWindowEnd d4 s) := by
  unfold execFiredampWindowEnd
  try dsimp only
  repeat' (first | with_reducible assumption | with_reducible apply done_kept | with_reducible apply State.clearFdps_kept | (intro _) |
                 split | dsimp only [StepKept, OutKept, IssueKept, MicroKept, OptKept, done] | simp only [kept_mk_eq] |
                 with_reducible apply keptC_of | with_reducible apply keptC_marks | with_reducible apply keptC_regs |
                 with_reducible exact kept_fst (by assumption) (by assumption))

theorem execRowIdleClose_kept {dv : Nat} (c : Fin 32) (b : Fin 16) (s : State) (h_s : Kept dv s) : OutKept dv (execRowIdleClose c b s)
    := by
  unfold execRowIdleClose
  try dsimp only
  repeat' (first | with_reducible assumption | with_reducible apply State.modBank_kept | with_reducible apply done_kept | (intro _) |
                 split | dsimp only [StepKept, OutKept, IssueKept, MicroKept, OptKept, done] | simp only [kept_mk_eq] |
                 with_reducible apply keptC_of | with_reducible apply keptC_marks | with_reducible apply keptC_regs |
                 with_reducible exact kept_fst (by assumption) (by assumption))

theorem State.ppForceWrite_kept {dv : Nat} (s : State) (c v : Nat) (h_s : Kept dv s) : Kept dv (State.ppForceWrite s c v) := by
  unfold State.ppForceWrite
  try dsimp only
  repeat' (first | with_reducible assumption | with_reducible apply State.setReg_kept | with_reducible apply State.setDchan_kept |
                 (intro _) | split | dsimp only [StepKept, OutKept, IssueKept, MicroKept, OptKept, done] | simp only [kept_mk_eq] |
                 with_reducible apply keptC_of | with_reducible apply keptC_marks | with_reducible apply keptC_regs |
                 with_reducible exact kept_fst (by assumption) (by assumption))

theorem State.newRate_kept {dv : Nat} (s : State) (c : Nat) (h_s : Kept dv s) : Kept dv (State.newRate s c) := by
  unfold State.newRate
  try dsimp only
  repeat' (first | with_reducible assumption | with_reducible apply State.setFld_kept | with_reducible apply State.setDchan_kept |
                 (intro _) | split | dsimp only [StepKept, OutKept, IssueKept, MicroKept, OptKept, done] | simp only [kept_mk_eq] |
                 with_reducible apply keptC_of | with_reducible apply keptC_marks | with_reducible apply keptC_regs |
                 with_reducible exact kept_fst (by assumption) (by assumption))

theorem execRefresh_kept {dv : Nat} (c : Fin 32) (due reads : Bool) (s : State) (h_s : Kept dv s) : OutKept dv (execRefresh c due reads
    s) := by
  unfold execRefresh
  try dsimp only
  repeat' (first | with_reducible assumption | with_reducible apply State.setFld_kept | with_reducible apply State.closeRows_kept |
                 with_reducible apply done_kept | with_reducible apply State.newRate_kept | (intro _) | split |
                 dsimp only [StepKept, OutKept, IssueKept, MicroKept, OptKept, done] | simp only [kept_mk_eq] |
                 with_reducible apply keptC_of | with_reducible apply keptC_marks | with_reducible apply keptC_regs |
                 with_reducible exact kept_fst (by assumption) (by assumption))

theorem execMr4Poll_kept {dv : Nat} (c : Fin 32) (rate : Fin 5) (mr4 : Byte) (high : Bool) (s : State) (h_s : Kept dv s) : OutKept dv
    (execMr4Poll c rate mr4 high s) := by
  unfold execMr4Poll
  try dsimp only
  repeat' (first | with_reducible assumption | with_reducible apply State.setDchan_kept | with_reducible apply State.log_kept |
                 with_reducible apply done_kept | (intro _) | split |
                 dsimp only [StepKept, OutKept, IssueKept, MicroKept, OptKept, done] | simp only [kept_mk_eq] |
                 with_reducible apply keptC_of | with_reducible apply keptC_marks | with_reducible apply keptC_regs |
                 with_reducible exact kept_fst (by assumption) (by assumption))

theorem execZqCalibration_kept {dv : Nat} (c : Fin 32) (s : State) (h_s : Kept dv s) : OutKept dv (execZqCalibration c s) := by
  unfold execZqCalibration
  try dsimp only
  repeat' (first | with_reducible assumption | with_reducible apply State.setDchan_kept | with_reducible apply done_kept | (intro _) |
                 split | dsimp only [StepKept, OutKept, IssueKept, MicroKept, OptKept, done] | simp only [kept_mk_eq] |
                 with_reducible apply keptC_of | with_reducible apply keptC_marks | with_reducible apply keptC_regs |
                 with_reducible exact kept_fst (by assumption) (by assumption))

theorem execWck2dqiRetrain_kept {dv : Nat} (c : Fin 32) (rd wr : BitVec 16) (s : State) (h_s : Kept dv s) : OutKept dv
    (execWck2dqiRetrain c rd wr s) := by
  unfold execWck2dqiRetrain
  try dsimp only
  repeat' (first | with_reducible assumption | with_reducible apply State.setFld_kept | with_reducible apply State.setDchan_kept |
                 with_reducible apply State.closeRows_kept | with_reducible apply done_kept | (intro _) | split |
                 dsimp only [StepKept, OutKept, IssueKept, MicroKept, OptKept, done] | simp only [kept_mk_eq] |
                 with_reducible apply keptC_of | with_reducible apply keptC_marks | with_reducible apply keptC_regs |
                 with_reducible exact kept_fst (by assumption) (by assumption))

theorem State.trainChannels_kept {dv : Nat} (s : State) (fails n c : Nat) (h_s : Kept dv s) :
    Kept dv (State.trainChannels s fails n c) := by
  induction n generalizing s c with
  | zero => exact h_s
  | succ k ih =>
    unfold State.trainChannels
    dsimp only
    refine ih _ _ (State.setDchan_kept _ _ _ ?_)
    have h1 := State.showThrottles_kept (dv := dv) ((((s.setDchan c Channel.reset).setFld (F.MEM_CH_STATUS.DEBT c) 0).setFld
      (F.MEM_CH_STATUS.SELF_REF c) 0).setFld (F.MEM_CH_STATUS.RATE c) 2) c
      (State.setFld_kept _ _ _ (State.setFld_kept _ _ _ (State.setFld_kept _ _ _ (State.setDchan_kept _ _ _ h_s))))
    split
    · exact State.raise_kept _ _ (State.setReg_kept _ _ _ (State.draw_kept _ h1))
    · exact State.log_kept _ _ _ _ _ _ _ (State.raise_kept _ _ (State.setFld_kept _ _ _ h1))

theorem State.trainDomain_kept {dv : Nat} (s : State) (d4 : Bool) (fails : Nat) (h_s : Kept dv s) : Kept dv (State.trainDomain s d4
    fails) := by
  unfold State.trainDomain
  try dsimp only
  repeat' (first | with_reducible assumption | with_reducible apply State.setFld_kept | with_reducible apply State.trainChannels_kept |
                 (intro _) | split | dsimp only [StepKept, OutKept, IssueKept, MicroKept, OptKept, done] | simp only [kept_mk_eq] |
                 with_reducible apply keptC_of | with_reducible apply keptC_marks | with_reducible apply keptC_regs |
                 with_reducible exact kept_fst (by assumption) (by assumption))

theorem State.selfRefresh_kept {dv : Nat} (s : State) (n c : Nat) (h_s : Kept dv s) : Kept dv (State.selfRefresh s n c) := by
  fun_induction State.selfRefresh s n c
  all_goals (repeat' (first | with_reducible assumption | (rename_i ih; with_reducible apply ih) | with_reducible apply State.raise_kept | (intro _)
                            | split | dsimp only [StepKept, OutKept, IssueKept, MicroKept, OptKept, done] | simp only [kept_mk_eq] |
                            with_reducible apply keptC_of | with_reducible apply keptC_marks | with_reducible apply keptC_regs |
                            with_reducible exact kept_fst (by assumption) (by assumption)))
  all_goals first | done | simp_all

theorem State.fdpCtlWrite_kept {dv : Nat} (s : State) (v : Nat) (h_s : Kept dv s) : Kept dv (State.fdpCtlWrite s v) := by
  unfold State.fdpCtlWrite
  try dsimp only
  repeat' (first | with_reducible assumption | with_reducible apply State.setFld_kept | (intro _) | split |
                 dsimp only [StepKept, OutKept, IssueKept, MicroKept, OptKept, done] | simp only [kept_mk_eq] |
                 with_reducible apply keptC_of | with_reducible apply keptC_marks | with_reducible apply keptC_regs |
                 with_reducible exact kept_fst (by assumption) (by assumption))

theorem State.memStops_kept {dv : Nat} (s : State) (h_s : Kept dv s) : Kept dv (State.memStops s) := by
  unfold State.memStops
  try dsimp only
  repeat' (first | with_reducible assumption | with_reducible apply State.setFld_kept | with_reducible apply State.selfRefresh_kept |
                 (intro _) | split | dsimp only [StepKept, OutKept, IssueKept, MicroKept, OptKept, done] | simp only [kept_mk_eq] |
                 with_reducible apply keptC_of | with_reducible apply keptC_marks | with_reducible apply keptC_regs |
                 with_reducible exact kept_fst (by assumption) (by assumption))

theorem State.dramGone_kept {dv : Nat} (s : State) (h_s : Kept dv s) : Kept dv (State.dramGone s) :=
  ⟨h_s.1, h_s.2.1, h_s.2.2.1, h_s.2.2.2.1, rfl⟩

theorem State.clockLost_kept {dv : Nat} (s : State) (why : Nat) (h_s : Kept dv s) : Kept dv (State.clockLost s why) := by
  unfold State.clockLost
  try dsimp only
  repeat' (first | with_reducible assumption | with_reducible apply State.log_kept | with_reducible apply State.safeHold_kept |
                 with_reducible apply State.syncLost_kept | with_reducible apply State.memStops_kept | (intro _) | split |
                 dsimp only [StepKept, OutKept, IssueKept, MicroKept, OptKept, done] | simp only [kept_mk_eq] |
                 with_reducible apply keptC_of | with_reducible apply keptC_marks | with_reducible apply keptC_regs |
                 with_reducible exact kept_fst (by assumption) (by assumption))

theorem execRootPllLossOfLock_kept {dv : Nat} (s : State) (h_s : Kept dv s) : OutKept dv (execRootPllLossOfLock s) := by
  unfold execRootPllLossOfLock
  try dsimp only
  repeat' (first | with_reducible assumption | with_reducible apply done_kept | with_reducible apply State.clockLost_kept | (intro _) |
                 split | dsimp only [StepKept, OutKept, IssueKept, MicroKept, OptKept, done] | simp only [kept_mk_eq] |
                 with_reducible apply keptC_of | with_reducible apply keptC_marks | with_reducible apply keptC_regs |
                 with_reducible exact kept_fst (by assumption) (by assumption))

theorem execRefclkStop_kept {dv : Nat} (s : State) (h_s : Kept dv s) : OutKept dv (execRefclkStop s) := by
  unfold execRefclkStop
  try dsimp only
  repeat' (first | with_reducible assumption | with_reducible apply done_kept | with_reducible apply State.dramGone_kept |
                 with_reducible apply State.clockLost_kept | (intro _) | split |
                 dsimp only [StepKept, OutKept, IssueKept, MicroKept, OptKept, done] | simp only [kept_mk_eq] |
                 with_reducible apply keptC_of | with_reducible apply keptC_marks | with_reducible apply keptC_regs |
                 with_reducible exact kept_fst (by assumption) (by assumption))

theorem execRefclkRestart_kept {dv : Nat} (s : State) (h_s : Kept dv s) : OutKept dv (execRefclkRestart s) := by
  unfold execRefclkRestart
  try dsimp only
  repeat' (first | with_reducible assumption | with_reducible apply done_kept | (intro _) | split |
                 dsimp only [StepKept, OutKept, IssueKept, MicroKept, OptKept, done] | simp only [kept_mk_eq] |
                 with_reducible apply keptC_of | with_reducible apply keptC_marks | with_reducible apply keptC_regs |
                 with_reducible exact kept_fst (by assumption) (by assumption))

theorem execPllRelock_kept {dv : Nat} (fails : BitVec 128) (s : State) (h_s : Kept dv s) : OutKept dv (execPllRelock fails s) := by
  unfold execPllRelock
  try dsimp only
  repeat' (first | with_reducible assumption | with_reducible apply done_kept | with_reducible apply State.forceHewers_kept |
                 with_reducible apply State.trainDomain_kept | (intro _) | split |
                 dsimp only [StepKept, OutKept, IssueKept, MicroKept, OptKept, done] | simp only [kept_mk_eq] |
                 with_reducible apply keptC_of | with_reducible apply keptC_marks | with_reducible apply keptC_regs |
                 with_reducible exact kept_fst (by assumption) (by assumption))

theorem State.refuseSwitch_kept {dv : Nat} (s : State) (d reason : Nat) (h_s : Kept dv s) : Kept dv (State.refuseSwitch s d reason) :=
    by
  unfold State.refuseSwitch
  try dsimp only
  repeat' (first | with_reducible assumption | with_reducible apply State.setFld_kept | with_reducible apply State.raise_kept |
                 (intro _) | split | dsimp only [StepKept, OutKept, IssueKept, MicroKept, OptKept, done] | simp only [kept_mk_eq] |
                 with_reducible apply keptC_of | with_reducible apply keptC_marks | with_reducible apply keptC_regs |
                 with_reducible exact kept_fst (by assumption) (by assumption))

theorem State.domReqWrite_kept {dv : Nat} (s : State) (v : Nat) (h_s : Kept dv s) : Kept dv (State.domReqWrite s v) := by
  unfold State.domReqWrite
  try dsimp only
  repeat' (first | with_reducible assumption | with_reducible apply State.setFld_kept | with_reducible apply State.raise_kept |
                 with_reducible apply State.refuseSwitch_kept | (intro _) | split |
                 dsimp only [StepKept, OutKept, IssueKept, MicroKept, OptKept, done] | simp only [kept_mk_eq] |
                 with_reducible apply keptC_of | with_reducible apply keptC_marks | with_reducible apply keptC_regs |
                 with_reducible exact kept_fst (by assumption) (by assumption))

theorem execPwrDomReqWrite_kept {dv : Nat} (value : Word32) (s : State) (h_s : Kept dv s) : OutKept dv (execPwrDomReqWrite value s) :=
    by
  unfold execPwrDomReqWrite
  try dsimp only
  repeat' (first | with_reducible assumption | with_reducible apply done_kept | with_reducible apply State.domReqWrite_kept | (intro _)
                 | split | dsimp only [StepKept, OutKept, IssueKept, MicroKept, OptKept, done] | simp only [kept_mk_eq] |
                 with_reducible apply keptC_of | with_reducible apply keptC_marks | with_reducible apply keptC_regs |
                 with_reducible exact kept_fst (by assumption) (by assumption))

theorem State.clearRegs_kept {dv : Nat} (s : State) (d : Nat) (h_s : Kept dv s) : Kept dv (State.clearRegs s d) := by
  unfold State.clearRegs
  try dsimp only
  repeat' (first | with_reducible assumption | (intro _) | split | dsimp only [StepKept, OutKept, IssueKept, MicroKept, OptKept, done] |
                 simp only [kept_mk_eq] | with_reducible apply keptC_of | with_reducible apply keptC_marks |
                 with_reducible apply keptC_regs | with_reducible exact kept_fst (by assumption) (by assumption))

theorem State.shaftGone_kept {dv : Nat} (s : State) (k : Nat) (h_s : Kept dv s) : Kept dv (State.shaftGone s k) :=
  ⟨h_s.1, h_s.2.1,
    Table.wf_mapKept s.hewers Hewer.reset (fun n x => if n / 64 = k then x.powered (s.removed n) else x) h_s.2.2.1,
    Table.wf_filter _ _ _ h_s.2.2.2.1, h_s.2.2.2.2⟩

theorem State.shaftDrains_kept {dv : Nat} (s : State) (k : Nat) (h_s : Kept dv s) : Kept dv (State.shaftDrains s k) := by
  unfold State.shaftDrains
  try dsimp only
  repeat' (first | with_reducible assumption | with_reducible apply State.galleryFlush_kept | with_reducible apply State.sbFlush_kept |
                 with_reducible apply foldl_kept | (intro _) | split |
                 dsimp only [StepKept, OutKept, IssueKept, MicroKept, OptKept, done] | simp only [kept_mk_eq] |
                 with_reducible apply keptC_of | with_reducible apply keptC_marks | with_reducible apply keptC_regs |
                 with_reducible exact kept_fst (by assumption) (by assumption))

theorem State.shaftCopies_kept {dv : Nat} (s : State) (k : Nat) (h_s : Kept dv s) : Kept dv (State.shaftCopies s k) := by
  unfold State.shaftCopies
  try dsimp only
  repeat' (first | with_reducible assumption | with_reducible apply State.modTwin_kept | with_reducible apply foldr_kept | (intro _) |
                 split | dsimp only [StepKept, OutKept, IssueKept, MicroKept, OptKept, done] | simp only [kept_mk_eq] |
                 with_reducible apply keptC_of | with_reducible apply keptC_marks | with_reducible apply keptC_regs |
                 with_reducible exact kept_fst (by assumption) (by assumption))

theorem State.startHewer_kept {dv : Nat} (s : State) (h : Nat) (h_s : Kept dv s) : Kept dv (State.startHewer s h) := by
  unfold State.startHewer
  try dsimp only
  repeat' (first | with_reducible assumption | with_reducible apply State.setHew_kept | (intro _) | split |
                 dsimp only [StepKept, OutKept, IssueKept, MicroKept, OptKept, done] | simp only [kept_mk_eq] |
                 with_reducible apply keptC_of | with_reducible apply keptC_marks | with_reducible apply keptC_regs |
                 with_reducible exact kept_fst (by assumption) (by assumption))

theorem State.startHewers_kept {dv : Nat} (s : State) (n h : Nat) (h_s : Kept dv s) : Kept dv (State.startHewers s n h) := by
  fun_induction State.startHewers s n h
  all_goals (repeat' (first | with_reducible assumption | (rename_i ih; with_reducible apply ih) | with_reducible apply State.startHewer_kept |
                            (intro _) | split | dsimp only [StepKept, OutKept, IssueKept, MicroKept, OptKept, done] |
                            simp only [kept_mk_eq] | with_reducible apply keptC_of | with_reducible apply keptC_marks |
                            with_reducible apply keptC_regs | with_reducible exact kept_fst (by assumption) (by assumption)))
  all_goals first | done | simp_all

theorem State.clearL2Regs_kept {dv : Nat} (s : State) (h_s : Kept dv s) : Kept dv (State.clearL2Regs s) := by
  unfold State.clearL2Regs
  try dsimp only
  repeat' (first | with_reducible assumption | with_reducible apply State.setReg_kept | with_reducible apply foldl_kept | (intro _) |
                 split | dsimp only [StepKept, OutKept, IssueKept, MicroKept, OptKept, done] | simp only [kept_mk_eq] |
                 with_reducible apply keptC_of | with_reducible apply keptC_marks | with_reducible apply keptC_regs |
                 with_reducible exact kept_fst (by assumption) (by assumption))

theorem State.memDrains_kept {dv : Nat} (s : State) (c : Nat) (h_s : Kept dv s) : Kept dv (State.memDrains s c) := by
  unfold State.memDrains
  try dsimp only
  repeat' (first | with_reducible assumption | with_reducible apply State.mscDrop_kept | with_reducible apply State.reqDrain_kept |
                 with_reducible apply State.selfRefresh_kept | with_reducible apply foldl_kept | (intro _) | split |
                 dsimp only [StepKept, OutKept, IssueKept, MicroKept, OptKept, done] | simp only [kept_mk_eq] |
                 with_reducible apply keptC_of | with_reducible apply keptC_marks | with_reducible apply keptC_regs |
                 with_reducible exact kept_fst (by assumption) (by assumption))

theorem State.domainGoes_kept {dv : Nat} (s : State) (d : Nat) (h_s : Kept dv s) : Kept dv (State.domainGoes s d) := by
  unfold State.domainGoes
  try dsimp only
  repeat' (first | with_reducible assumption | with_reducible apply State.setFld_kept | with_reducible apply State.mscDrop_kept |
                 with_reducible apply State.pinOff_kept | with_reducible apply State.linkDown_kept |
                 with_reducible apply State.closeSession_kept | with_reducible apply State.d5Off_kept |
                 with_reducible apply State.shaftGone_kept | with_reducible apply State.shaftDrains_kept |
                 with_reducible apply State.memDrains_kept | with_reducible apply foldl_kept | (intro _) | split |
                 dsimp only [StepKept, OutKept, IssueKept, MicroKept, OptKept, done] | simp only [kept_mk_eq] |
                 with_reducible apply keptC_of | with_reducible apply keptC_marks | with_reducible apply keptC_regs |
                 with_reducible exact kept_fst (by assumption) (by assumption))

theorem State.domainComes_kept {dv : Nat} (s : State) (d fails : Nat) (h_s : Kept dv s) : Kept dv (State.domainComes s d fails) := by
  unfold State.domainComes
  try dsimp only
  repeat' (first | with_reducible assumption | with_reducible apply State.initLode_kept | with_reducible apply State.emptyDraught_kept |
                 with_reducible apply State.resetPort_kept | with_reducible apply State.anmReset_kept |
                 with_reducible apply State.d5On_kept | with_reducible apply State.trainDomain_kept |
                 with_reducible apply State.clearRegs_kept | with_reducible apply State.shaftGone_kept |
                 with_reducible apply State.shaftCopies_kept | with_reducible apply State.startHewers_kept |
                 with_reducible apply State.clearL2Regs_kept | with_reducible apply foldl_kept | (intro _) | split |
                 dsimp only [StepKept, OutKept, IssueKept, MicroKept, OptKept, done] | simp only [kept_mk_eq] |
                 with_reducible apply keptC_of | with_reducible apply keptC_marks | with_reducible apply keptC_regs |
                 with_reducible exact kept_fst (by assumption) (by assumption))

theorem State.setDomain_kept {dv : Nat} (s : State) (d : Nat) (on : Bool) (h_s : Kept dv s) : Kept dv (State.setDomain s d on) := by
  unfold State.setDomain
  try dsimp only
  repeat' (first | with_reducible assumption | with_reducible apply State.setFld_kept | (intro _) | split |
                 dsimp only [StepKept, OutKept, IssueKept, MicroKept, OptKept, done] | simp only [kept_mk_eq] |
                 with_reducible apply keptC_of | with_reducible apply keptC_marks | with_reducible apply keptC_regs |
                 with_reducible exact kept_fst (by assumption) (by assumption))

theorem State.switchOff_kept {dv : Nat} (s : State) (l : List Nat) (h_s : Kept dv s) : Kept dv (State.switchOff s l) := by
  fun_induction State.switchOff s l
  all_goals (repeat' (first | with_reducible assumption | (rename_i ih; with_reducible apply ih) | with_reducible apply State.domainGoes_kept |
                            with_reducible apply State.setDomain_kept | (intro _) | split |
                            dsimp only [StepKept, OutKept, IssueKept, MicroKept, OptKept, done] | simp only [kept_mk_eq] |
                            with_reducible apply keptC_of | with_reducible apply keptC_marks | with_reducible apply keptC_regs |
                            with_reducible exact kept_fst (by assumption) (by assumption)))
  all_goals first | done | simp_all

theorem State.switchOn_kept {dv : Nat} (s : State) (l : List Nat) (fails : Nat) (h_s : Kept dv s) : Kept dv (State.switchOn s l fails)
    := by
  fun_induction State.switchOn s l fails
  all_goals (repeat' (first | with_reducible assumption | (rename_i ih; with_reducible apply ih) | with_reducible apply State.domainComes_kept |
                            with_reducible apply State.setDomain_kept | (intro _) | split |
                            dsimp only [StepKept, OutKept, IssueKept, MicroKept, OptKept, done] | simp only [kept_mk_eq] |
                            with_reducible apply keptC_of | with_reducible apply keptC_marks | with_reducible apply keptC_regs |
                            with_reducible exact kept_fst (by assumption) (by assumption)))
  all_goals first | done | simp_all

theorem State.showShafts_kept {dv : Nat} (s : State) (h_s : Kept dv s) : Kept dv (State.showShafts s) := by
  unfold State.showShafts
  try dsimp only
  repeat' (first | with_reducible assumption | with_reducible apply State.setFld_kept | (intro _) | split |
                 dsimp only [StepKept, OutKept, IssueKept, MicroKept, OptKept, done] | simp only [kept_mk_eq] |
                 with_reducible apply keptC_of | with_reducible apply keptC_marks | with_reducible apply keptC_regs |
                 with_reducible exact kept_fst (by assumption) (by assumption))

theorem State.switchDone_kept {dv : Nat} (s : State) (fails : Nat) (h_s : Kept dv s) : Kept dv (State.switchDone s fails) := by
  unfold State.switchDone
  try dsimp only
  repeat' (first | with_reducible assumption | with_reducible apply State.setFld_kept | with_reducible apply State.settle_kept |
                 with_reducible apply State.switchOff_kept | with_reducible apply State.switchOn_kept |
                 with_reducible apply State.showShafts_kept | (intro _) | split |
                 dsimp only [StepKept, OutKept, IssueKept, MicroKept, OptKept, done] | simp only [kept_mk_eq] |
                 with_reducible apply keptC_of | with_reducible apply keptC_marks | with_reducible apply keptC_regs |
                 with_reducible exact kept_fst (by assumption) (by assumption))

theorem execPowerDomainSwitched_kept {dv : Nat} (fails : BitVec 128) (s : State) (h_s : Kept dv s) : OutKept dv (execPowerDomainSwitched
    fails s) := by
  unfold execPowerDomainSwitched
  try dsimp only
  repeat' (first | with_reducible assumption | with_reducible apply done_kept | with_reducible apply State.switchDone_kept | (intro _) |
                 split | dsimp only [StepKept, OutKept, IssueKept, MicroKept, OptKept, done] | simp only [kept_mk_eq] |
                 with_reducible apply keptC_of | with_reducible apply keptC_marks | with_reducible apply keptC_regs |
                 with_reducible exact kept_fst (by assumption) (by assumption))

theorem State.setStep_kept {dv : Nat} (s : State) (k n : Nat) (h_s : Kept dv s) : Kept dv (State.setStep s k n) := by
  unfold State.setStep
  try dsimp only
  repeat' (first | with_reducible assumption | (intro _) | split | dsimp only [StepKept, OutKept, IssueKept, MicroKept, OptKept, done] |
                 simp only [kept_mk_eq] | with_reducible apply keptC_of | with_reducible apply keptC_marks |
                 with_reducible apply keptC_regs | with_reducible exact kept_fst (by assumption) (by assumption))

theorem State.adjustShafts_kept {dv : Nat} (s : State) (n k : Nat) (h_s : Kept dv s) : Kept dv (State.adjustShafts s n k) := by
  fun_induction State.adjustShafts s n k
  all_goals (repeat' (first | with_reducible assumption | (rename_i ih; with_reducible apply ih) | with_reducible apply State.setStep_kept |
                            (intro _) | split | dsimp only [StepKept, OutKept, IssueKept, MicroKept, OptKept, done] |
                            simp only [kept_mk_eq] | with_reducible apply keptC_of | with_reducible apply keptC_marks |
                            with_reducible apply keptC_regs | with_reducible exact kept_fst (by assumption) (by assumption)))
  all_goals first | done | simp_all

theorem State.readSensors_kept {dv : Nat} (s : State) (l : List (BitVec 16)) (n : Nat) (h_s : Kept dv s) : Kept dv (State.readSensors s
    l n) := by
  fun_induction State.readSensors s l n
  all_goals (repeat' (first | with_reducible assumption | (rename_i ih; with_reducible apply ih) | with_reducible apply State.setFld_kept | (intro _)
                            | split | dsimp only [StepKept, OutKept, IssueKept, MicroKept, OptKept, done] | simp only [kept_mk_eq] |
                            with_reducible apply keptC_of | with_reducible apply keptC_marks | with_reducible apply keptC_regs |
                            with_reducible exact kept_fst (by assumption) (by assumption)))
  all_goals first | done | simp_all

theorem execThermalAdjust_kept {dv : Nat} (temps : List (BitVec 16)) (s : State) (h_s : Kept dv s) : OutKept dv (execThermalAdjust temps
    s) := by
  unfold execThermalAdjust
  try dsimp only
  repeat' (first | with_reducible assumption | with_reducible apply done_kept | with_reducible apply State.adjustShafts_kept |
                 with_reducible apply State.readSensors_kept | (intro _) | split |
                 dsimp only [StepKept, OutKept, IssueKept, MicroKept, OptKept, done] | simp only [kept_mk_eq] |
                 with_reducible apply keptC_of | with_reducible apply keptC_marks | with_reducible apply keptC_regs |
                 with_reducible exact kept_fst (by assumption) (by assumption))

theorem execCclkStep_kept {dv : Nat} (shaft : Fin 8) (s : State) (h_s : Kept dv s) : OutKept dv (execCclkStep shaft s) := by
  unfold execCclkStep
  try dsimp only
  repeat' (first | with_reducible assumption | with_reducible apply State.setFld_kept | with_reducible apply done_kept |
                 with_reducible apply State.setStep_kept | (intro _) | split |
                 dsimp only [StepKept, OutKept, IssueKept, MicroKept, OptKept, done] | simp only [kept_mk_eq] |
                 with_reducible apply keptC_of | with_reducible apply keptC_marks | with_reducible apply keptC_regs |
                 with_reducible exact kept_fst (by assumption) (by assumption))

theorem execThermalTrip_kept {dv : Nat} (sensor : Fin 9) (s : State) (h_s : Kept dv s) : OutKept dv (execThermalTrip sensor s) := by
  unfold execThermalTrip
  try dsimp only
  repeat' (first | with_reducible assumption | with_reducible apply State.setReg_kept | with_reducible apply State.setFld_kept |
                 with_reducible apply State.raise_kept | with_reducible apply done_kept | with_reducible apply State.setStep_kept |
                 with_reducible apply foldl_kept | (intro _) | split |
                 dsimp only [StepKept, OutKept, IssueKept, MicroKept, OptKept, done] | simp only [kept_mk_eq] |
                 with_reducible apply keptC_of | with_reducible apply keptC_marks | with_reducible apply keptC_regs |
                 with_reducible exact kept_fst (by assumption) (by assumption))

theorem execThermalTripEnd_kept {dv : Nat} (sensor : Fin 9) (s : State) (h_s : Kept dv s) : OutKept dv (execThermalTripEnd sensor s) :=
    by
  unfold execThermalTripEnd
  try dsimp only
  repeat' (first | with_reducible assumption | with_reducible apply State.setFld_kept | with_reducible apply done_kept |
                 with_reducible apply foldl_kept | (intro _) | split |
                 dsimp only [StepKept, OutKept, IssueKept, MicroKept, OptKept, done] | simp only [kept_mk_eq] |
                 with_reducible apply keptC_of | with_reducible apply keptC_marks | with_reducible apply keptC_regs |
                 with_reducible exact kept_fst (by assumption) (by assumption))

theorem State.shaftClkWrite_kept {dv : Nat} (s : State) (k v : Nat) (h_s : Kept dv s) : Kept dv (State.shaftClkWrite s k v) := by
  unfold State.shaftClkWrite
  try dsimp only
  repeat' (first | with_reducible assumption | with_reducible apply State.setFld_kept | with_reducible apply State.setStep_kept |
                 (intro _) | split | dsimp only [StepKept, OutKept, IssueKept, MicroKept, OptKept, done] | simp only [kept_mk_eq] |
                 with_reducible apply keptC_of | with_reducible apply keptC_marks | with_reducible apply keptC_regs |
                 with_reducible exact kept_fst (by assumption) (by assumption))

theorem execTlyStopWrite_kept {dv : Nat} (stop : Bool) (s : State) (h_s : Kept dv s) : OutKept dv (execTlyStopWrite stop s) := by
  unfold execTlyStopWrite
  try dsimp only
  repeat' (first | with_reducible assumption | with_reducible apply State.setFld_kept | with_reducible apply done_kept | (intro _) |
                 split | dsimp only [StepKept, OutKept, IssueKept, MicroKept, OptKept, done] | simp only [kept_mk_eq] |
                 with_reducible apply keptC_of | with_reducible apply keptC_marks | with_reducible apply keptC_regs |
                 with_reducible exact kept_fst (by assumption) (by assumption))

theorem execCounterOverflow_kept {dv : Nat} (h : HewerId) (n : Fin 8) (k : BitVec 48) (s : State) (h_s : Kept dv s) : OutKept dv
    (execCounterOverflow h n k s) := by
  unfold execCounterOverflow
  try dsimp only
  repeat' (first | with_reducible assumption | with_reducible apply done_kept | with_reducible apply State.addCount_kept | (intro _) |
                 split | dsimp only [StepKept, OutKept, IssueKept, MicroKept, OptKept, done] | simp only [kept_mk_eq] |
                 with_reducible apply keptC_of | with_reducible apply keptC_marks | with_reducible apply keptC_regs |
                 with_reducible exact kept_fst (by assumption) (by assumption))

theorem State.evtWrite_kept {dv : Nat} (s : State) (h n pl v : Nat) (h_s : Kept dv s) : Kept dv (State.evtWrite s h n pl v) := by
  unfold State.evtWrite
  try dsimp only
  repeat' (first | with_reducible assumption | with_reducible apply State.setFld_kept | (intro _) | split |
                 dsimp only [StepKept, OutKept, IssueKept, MicroKept, OptKept, done] | simp only [kept_mk_eq] |
                 with_reducible apply keptC_of | with_reducible apply keptC_marks | with_reducible apply keptC_regs |
                 with_reducible exact kept_fst (by assumption) (by assumption))

theorem State.sctlWrite_kept {dv : Nat} (s : State) (h pl v : Nat) (h_s : Kept dv s) : Kept dv (State.sctlWrite s h pl v) := by
  unfold State.sctlWrite
  try dsimp only
  repeat' (first | with_reducible assumption | with_reducible apply State.setReg_kept | with_reducible apply State.raise_kept |
                 with_reducible apply State.modHew_kept | with_reducible apply State.reloadSample_kept | (intro _) | split |
                 dsimp only [StepKept, OutKept, IssueKept, MicroKept, OptKept, done] | simp only [kept_mk_eq] |
                 with_reducible apply keptC_of | with_reducible apply keptC_marks | with_reducible apply keptC_regs |
                 with_reducible exact kept_fst (by assumption) (by assumption))

theorem execSamplingEnable_kept {dv : Nat} (h : HewerId) (value : Word) (s : State) (h_s : Kept dv s) : OutKept dv (execSamplingEnable h
    value s) := by
  unfold execSamplingEnable
  try dsimp only
  repeat' (first | with_reducible assumption | with_reducible apply done_kept | with_reducible apply State.sctlWrite_kept | (intro _) |
                 split | dsimp only [StepKept, OutKept, IssueKept, MicroKept, OptKept, done] | simp only [kept_mk_eq] |
                 with_reducible apply keptC_of | with_reducible apply keptC_marks | with_reducible apply keptC_regs |
                 with_reducible exact kept_fst (by assumption) (by assumption))

theorem State.sbaseWrite_kept {dv : Nat} (s : State) (h v : Nat) (h_s : Kept dv s) : Kept dv (State.sbaseWrite s h v) := by
  unfold State.sbaseWrite
  try dsimp only
  repeat' (first | with_reducible assumption | with_reducible apply State.setFld_kept | with_reducible apply State.raise_kept |
                 (intro _) | split | dsimp only [StepKept, OutKept, IssueKept, MicroKept, OptKept, done] | simp only [kept_mk_eq] |
                 with_reducible apply keptC_of | with_reducible apply keptC_marks | with_reducible apply keptC_regs |
                 with_reducible exact kept_fst (by assumption) (by assumption))

theorem State.sampleTail_kept {dv : Nat} (s : State) (h tail : Nat) (h_s : Kept dv s) : Kept dv (State.sampleTail s h tail) := by
  unfold State.sampleTail
  try dsimp only
  repeat' (first | with_reducible assumption | with_reducible apply State.setFld_kept | with_reducible apply State.raise_kept |
                 (intro _) | split | dsimp only [StepKept, OutKept, IssueKept, MicroKept, OptKept, done] | simp only [kept_mk_eq] |
                 with_reducible apply keptC_of | with_reducible apply keptC_marks | with_reducible apply keptC_regs |
                 with_reducible exact kept_fst (by assumption) (by assumption))

theorem execSampleTailWrite_kept {dv : Nat} (h : HewerId) (tail : BitVec 16) (s : State) (h_s : Kept dv s) : OutKept dv
    (execSampleTailWrite h tail s) := by
  unfold execSampleTailWrite
  try dsimp only
  repeat' (first | with_reducible assumption | with_reducible apply done_kept | with_reducible apply State.sampleTail_kept | (intro _) |
                 split | dsimp only [StepKept, OutKept, IssueKept, MicroKept, OptKept, done] | simp only [kept_mk_eq] |
                 with_reducible apply keptC_of | with_reducible apply keptC_marks | with_reducible apply keptC_regs |
                 with_reducible exact kept_fst (by assumption) (by assumption))

theorem State.bwCtlWrite_kept {dv : Nat} (s : State) (v : Nat) (h_s : Kept dv s) : Kept dv (State.bwCtlWrite s v) := by
  unfold State.bwCtlWrite
  try dsimp only
  repeat' (first | with_reducible assumption | with_reducible apply State.setFld_kept | (intro _) | split |
                 dsimp only [StepKept, OutKept, IssueKept, MicroKept, OptKept, done] | simp only [kept_mk_eq] |
                 with_reducible apply keptC_of | with_reducible apply keptC_marks | with_reducible apply keptC_regs |
                 with_reducible exact kept_fst (by assumption) (by assumption))

theorem State.bwPort_kept {dv : Nat} (s : State) (p : Nat) (count : Word) (h_s : Kept dv s) : Kept dv (State.bwPort s p count) := by
  unfold State.bwPort
  try dsimp only
  repeat' (first | with_reducible assumption | with_reducible apply State.setReg_kept | with_reducible apply State.setFld_kept |
                 (intro _) | split | dsimp only [StepKept, OutKept, IssueKept, MicroKept, OptKept, done] | simp only [kept_mk_eq] |
                 with_reducible apply keptC_of | with_reducible apply keptC_marks | with_reducible apply keptC_regs |
                 with_reducible exact kept_fst (by assumption) (by assumption))

theorem State.bwPorts_kept {dv : Nat} (s : State) (l : List Word) (n p : Nat) (h_s : Kept dv s) : Kept dv (State.bwPorts s l n p) := by
  fun_induction State.bwPorts s l n p
  all_goals (repeat' (first | with_reducible assumption | (rename_i ih; with_reducible apply ih) | with_reducible apply State.bwPort_kept | (intro _)
                            | split | dsimp only [StepKept, OutKept, IssueKept, MicroKept, OptKept, done] | simp only [kept_mk_eq] |
                            with_reducible apply keptC_of | with_reducible apply keptC_marks | with_reducible apply keptC_regs |
                            with_reducible exact kept_fst (by assumption) (by assumption)))
  all_goals first | done | simp_all

theorem execBwWindowEnd_kept {dv : Nat} (counts : List Word) (s : State) (h_s : Kept dv s) : OutKept dv (execBwWindowEnd counts s) := by
  unfold execBwWindowEnd
  try dsimp only
  repeat' (first | with_reducible assumption | with_reducible apply State.setReg_kept | with_reducible apply done_kept |
                 with_reducible apply State.bwPorts_kept | (intro _) | split |
                 dsimp only [StepKept, OutKept, IssueKept, MicroKept, OptKept, done] | simp only [kept_mk_eq] |
                 with_reducible apply keptC_of | with_reducible apply keptC_marks | with_reducible apply keptC_regs |
                 with_reducible exact kept_fst (by assumption) (by assumption))

theorem State.xspiWrite_kept {dv : Nat} (s : State) (v : Nat) (h_s : Kept dv s) : Kept dv (State.xspiWrite s v) := by
  unfold State.xspiWrite
  try dsimp only
  repeat' (first | with_reducible assumption | with_reducible apply State.setFld_kept | with_reducible apply State.raise_kept |
                 (intro _) | split | dsimp only [StepKept, OutKept, IssueKept, MicroKept, OptKept, done] | simp only [kept_mk_eq] |
                 with_reducible apply keptC_of | with_reducible apply keptC_marks | with_reducible apply keptC_regs |
                 with_reducible exact kept_fst (by assumption) (by assumption))

theorem execXspiRead_kept {dv : Nat} (s : State) (h_s : Kept dv s) : OutKept dv (execXspiRead s) := by
  unfold execXspiRead
  try dsimp only
  repeat' (first | with_reducible assumption | with_reducible apply done_kept | with_reducible apply State.xspiWrite_kept | (intro _) |
                 split | dsimp only [StepKept, OutKept, IssueKept, MicroKept, OptKept, done] | simp only [kept_mk_eq] |
                 with_reducible apply keptC_of | with_reducible apply keptC_marks | with_reducible apply keptC_regs |
                 with_reducible exact kept_fst (by assumption) (by assumption))

theorem execXspiProgram_kept {dv : Nat} (s : State) (h_s : Kept dv s) : OutKept dv (execXspiProgram s) := by
  unfold execXspiProgram
  try dsimp only
  repeat' (first | with_reducible assumption | with_reducible apply done_kept | with_reducible apply State.xspiWrite_kept | (intro _) |
                 split | dsimp only [StepKept, OutKept, IssueKept, MicroKept, OptKept, done] | simp only [kept_mk_eq] |
                 with_reducible apply keptC_of | with_reducible apply keptC_marks | with_reducible apply keptC_regs |
                 with_reducible exact kept_fst (by assumption) (by assumption))

theorem execXspiErase_kept {dv : Nat} (s : State) (h_s : Kept dv s) : OutKept dv (execXspiErase s) := by
  unfold execXspiErase
  try dsimp only
  repeat' (first | with_reducible assumption | with_reducible apply done_kept | with_reducible apply State.xspiWrite_kept | (intro _) |
                 split | dsimp only [StepKept, OutKept, IssueKept, MicroKept, OptKept, done] | simp only [kept_mk_eq] |
                 with_reducible apply keptC_of | with_reducible apply keptC_marks | with_reducible apply keptC_regs |
                 with_reducible exact kept_fst (by assumption) (by assumption))

theorem State.flashPut_kept {dv : Nat} (s : State) (a : Nat) (l : List Byte) (h_s : Kept dv s) : Kept dv (State.flashPut s a l) := by
  induction l generalizing s a with
  | nil => exact h_s
  | cons b rest ih =>
    unfold State.flashPut
    exact ih _ _ h_s

theorem State.xspiDo_kept {dv : Nat} (s : State) (h_s : Kept dv s) : Kept dv (State.xspiDo s) := by
  unfold State.xspiDo
  try dsimp only
  repeat' (first | with_reducible assumption | with_reducible apply State.setReg_kept | with_reducible apply State.flashPut_kept |
                 with_reducible apply foldl_kept | (intro _) | split |
                 dsimp only [StepKept, OutKept, IssueKept, MicroKept, OptKept, done] | simp only [kept_mk_eq] |
                 with_reducible apply keptC_of | with_reducible apply keptC_marks | with_reducible apply keptC_regs |
                 with_reducible exact kept_fst (by assumption) (by assumption))

theorem execXspiOperationComplete_kept {dv : Nat} (fails : Bool) (s : State) (h_s : Kept dv s) : OutKept dv (execXspiOperationComplete
    fails s) := by
  unfold execXspiOperationComplete
  try dsimp only
  repeat' (first | with_reducible assumption | with_reducible apply State.setFld_kept | with_reducible apply State.raise_kept |
                 with_reducible apply done_kept | with_reducible apply State.xspiDo_kept | (intro _) | split |
                 dsimp only [StepKept, OutKept, IssueKept, MicroKept, OptKept, done] | simp only [kept_mk_eq] |
                 with_reducible apply keptC_of | with_reducible apply keptC_marks | with_reducible apply keptC_regs |
                 with_reducible exact kept_fst (by assumption) (by assumption))

end Sys2Proof.Machine
end

