-- ==== Sys2Proof/Laws/KeptIo.lean ====
section
/-! SUPPORT. One lemma per operation: it keeps the memory canonical and the device number: IO space and the debug commands. -/

namespace Sys2Proof.Machine


theorem State.fieldWrite_kept {dv : Nat} (s : State) (d : RegDesc) (a v : Nat) (h_s : Kept dv s) : Kept dv (State.fieldWrite s d a v) :=
    by
  unfold State.fieldWrite
  try dsimp only
  repeat' (first | with_reducible assumption | with_reducible apply State.setReg_kept | (intro _) | split |
                 dsimp only [StepKept, OutKept, IssueKept, MicroKept, OptKept, done] | simp only [kept_mk_eq] |
                 with_reducible apply keptC_of | with_reducible apply keptC_marks | with_reducible apply keptC_regs |
                 with_reducible exact kept_fst (by assumption) (by assumption))

theorem State.writeCfg_kept {dv : Nat} (s : State) (d : RegDesc) (a i v : Nat) (h_s : Kept dv s) : Kept dv (State.writeCfg s d a i v) :=
    by
  unfold State.writeCfg
  try dsimp only
  repeat' (first | with_reducible assumption | with_reducible apply State.cdtWordWrite_kept |
                 with_reducible apply State.cdtEntryWrite_kept | with_reducible apply State.modeWrite_kept |
                 with_reducible apply State.xspiWrite_kept | with_reducible apply State.fieldWrite_kept | (intro _) | split |
                 dsimp only [StepKept, OutKept, IssueKept, MicroKept, OptKept, done] | simp only [kept_mk_eq] |
                 with_reducible apply keptC_of | with_reducible apply keptC_marks | with_reducible apply keptC_regs |
                 with_reducible exact kept_fst (by assumption) (by assumption))

theorem State.writeTim_kept {dv : Nat} (s : State) (d : RegDesc) (a i v : Nat) (h_s : Kept dv s) : Kept dv (State.writeTim s d a i v) :=
    by
  unfold State.writeTim
  try dsimp only
  repeat' (first | with_reducible assumption | with_reducible apply State.timCtlWrite_kept | with_reducible apply State.timSetWrite_kept
                 | with_reducible apply State.cmpWrite_kept | with_reducible apply State.cmpCtlWrite_kept |
                 with_reducible apply State.fieldWrite_kept | (intro _) | split |
                 dsimp only [StepKept, OutKept, IssueKept, MicroKept, OptKept, done] | simp only [kept_mk_eq] |
                 with_reducible apply keptC_of | with_reducible apply keptC_marks | with_reducible apply keptC_regs |
                 with_reducible exact kept_fst (by assumption) (by assumption))

theorem State.writeLod_kept {dv : Nat} (s : State) (w : Writer) (d : RegDesc) (a v : Nat) (h_s : Kept dv s) : Kept dv (State.writeLod s
    w d a v) := by
  unfold State.writeLod
  try dsimp only
  repeat' (first | with_reducible assumption | with_reducible apply State.setFld_kept | with_reducible apply State.swrCtlWrite_kept |
                 with_reducible apply State.frcCtlWrite_kept | with_reducible apply State.advanceWrite_kept |
                 with_reducible apply State.winCommitWrite_kept | with_reducible apply State.cfgDataWrite_kept |
                 with_reducible apply State.anmMapWrite_kept | with_reducible apply State.fieldWrite_kept | (intro _) | split |
                 dsimp only [StepKept, OutKept, IssueKept, MicroKept, OptKept, done] | simp only [kept_mk_eq] |
                 with_reducible apply keptC_of | with_reducible apply keptC_marks | with_reducible apply keptC_regs |
                 with_reducible exact kept_fst (by assumption) (by assumption))

theorem State.releaseCmd_kept {dv : Nat} (s : State) (w : Writer) (v : Nat) (h_s : Kept dv s) : Kept dv (State.releaseCmd s w v) := by
  unfold State.releaseCmd
  try dsimp only
  repeat' (first | with_reducible assumption | with_reducible apply State.stamp_kept | with_reducible apply State.commandRelease_kept |
                 (intro _) | split | dsimp only [StepKept, OutKept, IssueKept, MicroKept, OptKept, done] | simp only [kept_mk_eq] |
                 with_reducible apply keptC_of | with_reducible apply keptC_marks | with_reducible apply keptC_regs |
                 with_reducible exact kept_fst (by assumption) (by assumption))

theorem State.writeDrt_kept {dv : Nat} (s : State) (w : Writer) (d : RegDesc) (a i v : Nat) (h_s : Kept dv s) : Kept dv (State.writeDrt
    s w d a i v) := by
  unfold State.writeDrt
  try dsimp only
  repeat' (first | with_reducible assumption | with_reducible apply State.drtCmdWrite_kept | with_reducible apply State.drtEnSet_kept |
                 with_reducible apply State.drtEnClear_kept | with_reducible apply State.hewerPoolWrite_kept |
                 with_reducible apply State.galleryPoolWrite_kept | with_reducible apply State.fieldWrite_kept |
                 with_reducible apply State.releaseCmd_kept | (intro _) | split |
                 dsimp only [StepKept, OutKept, IssueKept, MicroKept, OptKept, done] | simp only [kept_mk_eq] |
                 with_reducible apply keptC_of | with_reducible apply keptC_marks | with_reducible apply keptC_regs |
                 with_reducible exact kept_fst (by assumption) (by assumption))

theorem State.writeHwr_kept {dv : Nat} (s : State) (pl : Nat) (d : RegDesc) (a i v : Nat) (h_s : Kept dv s) : Kept dv (State.writeHwr s
    pl d a i v) := by
  unfold State.writeHwr
  try dsimp only
  repeat' (first | with_reducible assumption | with_reducible apply State.setFld_kept | with_reducible apply State.ihiSet_kept |
                 with_reducible apply State.xrouteWrite_kept | with_reducible apply State.fieldWrite_kept | (intro _) | split |
                 dsimp only [StepKept, OutKept, IssueKept, MicroKept, OptKept, done] | simp only [kept_mk_eq] |
                 with_reducible apply keptC_of | with_reducible apply keptC_marks | with_reducible apply keptC_regs |
                 with_reducible exact kept_fst (by assumption) (by assumption))

theorem State.writeMem_kept {dv : Nat} (s : State) (d : RegDesc) (a i v : Nat) (h_s : Kept dv s) : Kept dv (State.writeMem s d a i v) :=
    by
  unfold State.writeMem
  try dsimp only
  repeat' (first | with_reducible assumption | with_reducible apply State.preloadWrite_kept |
                 with_reducible apply State.ppForceWrite_kept | with_reducible apply State.fdpCtlWrite_kept |
                 with_reducible apply State.fieldWrite_kept | (intro _) | split |
                 dsimp only [StepKept, OutKept, IssueKept, MicroKept, OptKept, done] | simp only [kept_mk_eq] |
                 with_reducible apply keptC_of | with_reducible apply keptC_marks | with_reducible apply keptC_regs |
                 with_reducible exact kept_fst (by assumption) (by assumption))

theorem State.writeSkp_kept {dv : Nat} (s : State) (d : RegDesc) (a i v : Nat) (h_s : Kept dv s) : Kept dv (State.writeSkp s d a i v) :=
    by
  unfold State.writeSkp
  try dsimp only
  repeat' (first | with_reducible assumption | with_reducible apply State.setFld_kept | with_reducible apply State.skBurstWrite_kept |
                 with_reducible apply State.skCommit_kept | with_reducible apply State.skHaltClear_kept |
                 with_reducible apply State.skCtlWrite_kept | with_reducible apply State.fieldWrite_kept | (intro _) | split |
                 dsimp only [StepKept, OutKept, IssueKept, MicroKept, OptKept, done] | simp only [kept_mk_eq] |
                 with_reducible apply keptC_of | with_reducible apply keptC_marks | with_reducible apply keptC_regs |
                 with_reducible exact kept_fst (by assumption) (by assumption))

theorem State.writePlk_kept {dv : Nat} (s : State) (d : RegDesc) (a i v : Nat) (h_s : Kept dv s) : Kept dv (State.writePlk s d a i v) :=
    by
  unfold State.writePlk
  try dsimp only
  repeat' (first | with_reducible assumption | with_reducible apply State.setReg_kept | with_reducible apply State.portCtlWrite_kept |
                 with_reducible apply State.egrCommit_kept | with_reducible apply State.gclWrite_kept |
                 with_reducible apply State.partnerWrite_kept | with_reducible apply State.fieldWrite_kept | (intro _) | split |
                 dsimp only [StepKept, OutKept, IssueKept, MicroKept, OptKept, done] | simp only [kept_mk_eq] |
                 with_reducible apply keptC_of | with_reducible apply keptC_marks | with_reducible apply keptC_regs |
                 with_reducible exact kept_fst (by assumption) (by assumption))

theorem State.writeHep_kept {dv : Nat} (s : State) (d : RegDesc) (a v : Nat) (h_s : Kept dv s) : Kept dv (State.writeHep s d a v) := by
  unfold State.writeHep
  try dsimp only
  repeat' (first | with_reducible assumption | with_reducible apply State.releaseWrite_kept | with_reducible apply State.flushMsix_kept
                 | with_reducible apply State.fieldWrite_kept | (intro _) | split |
                 dsimp only [StepKept, OutKept, IssueKept, MicroKept, OptKept, done] | simp only [kept_mk_eq] |
                 with_reducible apply keptC_of | with_reducible apply keptC_marks | with_reducible apply keptC_regs |
                 with_reducible exact kept_fst (by assumption) (by assumption))

theorem State.writeAdt_kept {dv : Nat} (s : State) (w : Writer) (d : RegDesc) (a i j v : Nat) (h_s : Kept dv s) : Kept dv
    (State.writeAdt s w d a i j v) := by
  unfold State.writeAdt
  try dsimp only
  repeat' (first | with_reducible assumption | with_reducible apply State.aditCmd_kept | with_reducible apply State.poolWrite_kept |
                 with_reducible apply State.asgnWrite_kept | with_reducible apply State.mailboxWrite_kept |
                 with_reducible apply State.mbxCtlWrite_kept | with_reducible apply State.queryCfgWrite_kept |
                 with_reducible apply State.queryRingWrite_kept | with_reducible apply State.queryHead_kept |
                 with_reducible apply State.queryCtlWrite_kept | with_reducible apply State.fieldWrite_kept | (intro _) | split |
                 dsimp only [StepKept, OutKept, IssueKept, MicroKept, OptKept, done] | simp only [kept_mk_eq] |
                 with_reducible apply keptC_of | with_reducible apply keptC_marks | with_reducible apply keptC_regs |
                 with_reducible exact kept_fst (by assumption) (by assumption))

theorem State.writeAnm_kept {dv : Nat} (s : State) (d : RegDesc) (a i v : Nat) (h_s : Kept dv s) : Kept dv (State.writeAnm s d a i v) :=
    by
  unfold State.writeAnm
  try dsimp only
  repeat' (first | with_reducible assumption | with_reducible apply State.pinCheck_kept | with_reducible apply State.fieldWrite_kept |
                 (intro _) | split | dsimp only [StepKept, OutKept, IssueKept, MicroKept, OptKept, done] | simp only [kept_mk_eq] |
                 with_reducible apply keptC_of | with_reducible apply keptC_marks | with_reducible apply keptC_regs |
                 with_reducible exact kept_fst (by assumption) (by assumption))

theorem State.writeFlt_kept {dv : Nat} (s : State) (d : RegDesc) (a v : Nat) (h_s : Kept dv s) : Kept dv (State.writeFlt s d a v) := by
  unfold State.writeFlt
  try dsimp only
  repeat' (first | with_reducible assumption | with_reducible apply State.retireWrite_kept | with_reducible apply State.fieldWrite_kept
                 | (intro _) | split | dsimp only [StepKept, OutKept, IssueKept, MicroKept, OptKept, done] | simp only [kept_mk_eq] |
                 with_reducible apply keptC_of | with_reducible apply keptC_marks | with_reducible apply keptC_regs |
                 with_reducible exact kept_fst (by assumption) (by assumption))

theorem State.writePwr_kept {dv : Nat} (s : State) (d : RegDesc) (a i v : Nat) (h_s : Kept dv s) : Kept dv (State.writePwr s d a i v) :=
    by
  unfold State.writePwr
  try dsimp only
  repeat' (first | with_reducible assumption | with_reducible apply State.domReqWrite_kept |
                 with_reducible apply State.shaftClkWrite_kept | with_reducible apply State.fieldWrite_kept | (intro _) | split |
                 dsimp only [StepKept, OutKept, IssueKept, MicroKept, OptKept, done] | simp only [kept_mk_eq] |
                 with_reducible apply keptC_of | with_reducible apply keptC_marks | with_reducible apply keptC_regs |
                 with_reducible exact kept_fst (by assumption) (by assumption))

theorem State.writeDbg_kept {dv : Nat} (s : State) (w : Writer) (d : RegDesc) (a i j v : Nat) (h_s : Kept dv s) : Kept dv
    (State.writeDbg s w d a i j v) := by
  unfold State.writeDbg
  try dsimp only
  repeat' (first | with_reducible assumption | with_reducible apply State.rcWrite_kept | with_reducible apply State.xtrigWrite_kept |
                 with_reducible apply State.authWrite_kept | with_reducible apply State.rkpWrite_kept |
                 with_reducible apply State.swbpWrite_kept | with_reducible apply State.cmpDisarm_kept |
                 with_reducible apply State.vtxWrite_kept | with_reducible apply State.fieldWrite_kept | (intro _) | split |
                 dsimp only [StepKept, OutKept, IssueKept, MicroKept, OptKept, done] | simp only [kept_mk_eq] |
                 with_reducible apply keptC_of | with_reducible apply keptC_marks | with_reducible apply keptC_regs |
                 with_reducible exact kept_fst (by assumption) (by assumption))

theorem State.writeTly_kept {dv : Nat} (s : State) (pl : Nat) (d : RegDesc) (a i j v : Nat) (h_s : Kept dv s) : Kept dv (State.writeTly
    s pl d a i j v) := by
  unfold State.writeTly
  try dsimp only
  repeat' (first | with_reducible assumption | with_reducible apply State.evtWrite_kept | with_reducible apply State.sctlWrite_kept |
                 with_reducible apply State.sbaseWrite_kept | with_reducible apply State.sampleTail_kept |
                 with_reducible apply State.bwCtlWrite_kept | with_reducible apply State.fieldWrite_kept | (intro _) | split |
                 dsimp only [StepKept, OutKept, IssueKept, MicroKept, OptKept, done] | simp only [kept_mk_eq] |
                 with_reducible apply keptC_of | with_reducible apply keptC_marks | with_reducible apply keptC_regs |
                 with_reducible exact kept_fst (by assumption) (by assumption))

theorem State.writeCan_kept {dv : Nat} (s : State) (w : Writer) (d : RegDesc) (a i v : Nat) (h_s : Kept dv s) : Kept dv (State.writeCan
    s w d a i v) := by
  unfold State.writeCan
  try dsimp only
  repeat' (first | with_reducible assumption | with_reducible apply State.canKick_kept | with_reducible apply State.canClear_kept |
                 with_reducible apply State.devKick_kept | with_reducible apply State.canDevCtlWrite_kept |
                 with_reducible apply State.canCtlWrite_kept | with_reducible apply State.fieldWrite_kept | (intro _) | split |
                 dsimp only [StepKept, OutKept, IssueKept, MicroKept, OptKept, done] | simp only [kept_mk_eq] |
                 with_reducible apply keptC_of | with_reducible apply keptC_marks | with_reducible apply keptC_regs |
                 with_reducible exact kept_fst (by assumption) (by assumption))

theorem State.applyWriteIo_kept {dv : Nat} (s : State) (w : Writer) (d : RegDesc) (a v : Nat) (h_s : Kept dv s) : Kept dv
    (State.applyWriteIo s w d a v) := by
  unfold State.applyWriteIo
  try dsimp only
  repeat' (first | with_reducible assumption | with_reducible apply State.writeCfg_kept | with_reducible apply State.writeTim_kept |
                 with_reducible apply State.writeLod_kept | with_reducible apply State.writeDrt_kept |
                 with_reducible apply State.writeHwr_kept | with_reducible apply State.writeMem_kept |
                 with_reducible apply State.writeSkp_kept | with_reducible apply State.writePlk_kept |
                 with_reducible apply State.writeHep_kept | with_reducible apply State.writeAdt_kept |
                 with_reducible apply State.writeAnm_kept | with_reducible apply State.writeFlt_kept |
                 with_reducible apply State.writePwr_kept | with_reducible apply State.writeDbg_kept |
                 with_reducible apply State.writeTly_kept | with_reducible apply State.writeCan_kept | (intro _) | split |
                 dsimp only [StepKept, OutKept, IssueKept, MicroKept, OptKept, done] | simp only [kept_mk_eq] |
                 with_reducible apply keptC_of | with_reducible apply keptC_marks | with_reducible apply keptC_regs |
                 with_reducible exact kept_fst (by assumption) (by assumption))

theorem State.ioWrite_kept {dv : Nat} (s : State) (w : Writer) (d : RegDesc) (a v : Nat) (h_s : Kept dv s) : OptKept dv (State.ioWrite s
    w d a v) := by
  unfold State.ioWrite
  try dsimp only
  repeat' (first | with_reducible assumption | with_reducible apply State.applyWriteIo_kept | (intro _) | split |
                 dsimp only [StepKept, OutKept, IssueKept, MicroKept, OptKept, done] | simp only [kept_mk_eq] |
                 with_reducible apply keptC_of | with_reducible apply keptC_marks | with_reducible apply keptC_regs |
                 with_reducible exact kept_fst (by assumption) (by assumption))

theorem State.readEffect_kept {dv : Nat} (s : State) (hewer : Bool) (d : RegDesc) (a : Nat) (h_s : Kept dv s) : Kept dv
    (State.readEffect s hewer d a) := by
  unfold State.readEffect
  try dsimp only
  repeat' (first | with_reducible assumption | with_reducible apply State.setReg_kept | with_reducible apply State.vrxTaken_kept |
                 (intro _) | split | dsimp only [StepKept, OutKept, IssueKept, MicroKept, OptKept, done] | simp only [kept_mk_eq] |
                 with_reducible apply keptC_of | with_reducible apply keptC_marks | with_reducible apply keptC_regs |
                 with_reducible exact kept_fst (by assumption) (by assumption))

theorem State.ioRead_kept {dv : Nat} (s : State) (w : Writer) (d : RegDesc) (a : Nat) (h_s : Kept dv s) : Kept dv (State.ioRead s w d
    a).2 := by
  unfold State.ioRead
  try dsimp only
  repeat' (first | with_reducible assumption | with_reducible apply State.readEffect_kept | (intro _) | split |
                 dsimp only [StepKept, OutKept, IssueKept, MicroKept, OptKept, done] | simp only [kept_mk_eq] |
                 with_reducible apply keptC_of | with_reducible apply keptC_marks | with_reducible apply keptC_regs |
                 with_reducible exact kept_fst (by assumption) (by assumption))

theorem State.setScsPath_kept {dv : Nat} (s : State) (p : DbgPath) (x : ScsPath) (h_s : Kept dv s) : Kept dv (State.setScsPath s p x) :=
    by
  unfold State.setScsPath
  try dsimp only
  repeat' (first | with_reducible assumption | (intro _) | split | dsimp only [StepKept, OutKept, IssueKept, MicroKept, OptKept, done] |
                 simp only [kept_mk_eq] | with_reducible apply keptC_of | with_reducible apply keptC_marks |
                 with_reducible apply keptC_regs | with_reducible exact kept_fst (by assumption) (by assumption))

theorem State.autoInc_kept {dv : Nat} (s : State) (p : DbgPath) (size : Nat) (h_s : Kept dv s) : Kept dv (State.autoInc s p size) := by
  unfold State.autoInc
  try dsimp only
  repeat' (first | with_reducible assumption | with_reducible apply State.setScsPath_kept | (intro _) | split |
                 dsimp only [StepKept, OutKept, IssueKept, MicroKept, OptKept, done] | simp only [kept_mk_eq] |
                 with_reducible apply keptC_of | with_reducible apply keptC_marks | with_reducible apply keptC_regs |
                 with_reducible exact kept_fst (by assumption) (by assumption))

theorem State.scsSetAddr_kept {dv : Nat} (s : State) (p : DbgPath) (size arg : Nat) (h_s : Kept dv s) : Kept dv (State.scsSetAddr s p
    size arg) := by
  unfold State.scsSetAddr
  try dsimp only
  repeat' (first | with_reducible assumption | with_reducible apply State.scsResult_kept | with_reducible apply State.setScsPath_kept |
                 (intro _) | split | dsimp only [StepKept, OutKept, IssueKept, MicroKept, OptKept, done] | simp only [kept_mk_eq] |
                 with_reducible apply keptC_of | with_reducible apply keptC_marks | with_reducible apply keptC_regs |
                 with_reducible exact kept_fst (by assumption) (by assumption))

theorem State.scsIoWrite_kept {dv : Nat} (s : State) (p : DbgPath) (a size v : Nat) (h_s : Kept dv s) :
    Kept dv (State.scsIoWrite s p a size v) := by
  unfold State.scsIoWrite
  dsimp only
  repeat' (first | with_reducible assumption | with_reducible apply State.scsResult_kept | with_reducible apply getD_kept
                 | with_reducible apply State.ioWrite_kept | split)

theorem State.scsIoRead_kept {dv : Nat} (s : State) (p : DbgPath) (a size : Nat) (h_s : Kept dv s) : Kept dv (State.scsIoRead s p a
    size) := by
  unfold State.scsIoRead
  try dsimp only
  repeat' (first | with_reducible assumption | with_reducible apply State.scsResult_kept | with_reducible apply State.ioRead_kept |
                 (intro _) | split | dsimp only [StepKept, OutKept, IssueKept, MicroKept, OptKept, done] | simp only [kept_mk_eq] |
                 with_reducible apply keptC_of | with_reducible apply keptC_marks | with_reducible apply keptC_regs |
                 with_reducible exact kept_fst (by assumption) (by assumption))

theorem State.scsMemWrite_kept {dv : Nat} (s : State) (p : DbgPath) (a n v : Nat) (h_s : Kept dv s) : Kept dv (State.scsMemWrite s p a n
    v) := by
  unfold State.scsMemWrite
  try dsimp only
  repeat' (first | with_reducible assumption | with_reducible apply State.hubAccess_kept | with_reducible apply State.hewerWrite_kept |
                 with_reducible apply State.hostWrite_kept | with_reducible apply State.scsResult_kept | (intro _) | split |
                 dsimp only [StepKept, OutKept, IssueKept, MicroKept, OptKept, done] | simp only [kept_mk_eq] |
                 with_reducible apply keptC_of | with_reducible apply keptC_marks | with_reducible apply keptC_regs |
                 with_reducible exact kept_fst (by assumption) (by assumption))

theorem State.scsHostRead_kept {dv : Nat} (s : State) (p : DbgPath) (a n : Nat) (h_s : Kept dv s) : Kept dv (State.scsHostRead s p a n)
    := by
  unfold State.scsHostRead
  try dsimp only
  repeat' (first | with_reducible assumption | with_reducible apply State.freeBytes_kept | with_reducible apply State.outDrop_kept |
                 with_reducible apply State.hostRead_kept | with_reducible apply State.scsResult_kept | (intro _) | split |
                 dsimp only [StepKept, OutKept, IssueKept, MicroKept, OptKept, done] | simp only [kept_mk_eq] |
                 with_reducible apply keptC_of | with_reducible apply keptC_marks | with_reducible apply keptC_regs |
                 with_reducible exact kept_fst (by assumption) (by assumption))

theorem State.scsMemRead_kept {dv : Nat} (s : State) (p : DbgPath) (a n : Nat) (h_s : Kept dv s) : Kept dv (State.scsMemRead s p a n) :=
    by
  unfold State.scsMemRead
  try dsimp only
  repeat' (first | with_reducible assumption | with_reducible apply State.hubAccess_kept | with_reducible apply State.scsResult_kept |
                 with_reducible apply State.scsHostRead_kept | (intro _) | split |
                 dsimp only [StepKept, OutKept, IssueKept, MicroKept, OptKept, done] | simp only [kept_mk_eq] |
                 with_reducible apply keptC_of | with_reducible apply keptC_marks | with_reducible apply keptC_regs |
                 with_reducible exact kept_fst (by assumption) (by assumption))

theorem State.scsHewerRead_kept {dv : Nat} (s : State) (p : DbgPath) (h_s : Kept dv s) : Kept dv (State.scsHewerRead s p) := by
  unfold State.scsHewerRead
  try dsimp only
  repeat' (first | with_reducible assumption | with_reducible apply State.scsResult_kept | (intro _) | split |
                 dsimp only [StepKept, OutKept, IssueKept, MicroKept, OptKept, done] | simp only [kept_mk_eq] |
                 with_reducible apply keptC_of | with_reducible apply keptC_marks | with_reducible apply keptC_regs |
                 with_reducible exact kept_fst (by assumption) (by assumption))

theorem State.scsHewerWrite_kept {dv : Nat} (s : State) (p : DbgPath) (v : Nat) (h_s : Kept dv s) : Kept dv (State.scsHewerWrite s p v)
    := by
  unfold State.scsHewerWrite
  try dsimp only
  repeat' (first | with_reducible assumption | with_reducible apply State.modHew_kept | with_reducible apply State.scsResult_kept |
                 (intro _) | split | dsimp only [StepKept, OutKept, IssueKept, MicroKept, OptKept, done] | simp only [kept_mk_eq] |
                 with_reducible apply keptC_of | with_reducible apply keptC_marks | with_reducible apply keptC_regs |
                 with_reducible exact kept_fst (by assumption) (by assumption))

theorem State.scsRead_kept {dv : Nat} (s : State) (p : DbgPath) (size : Nat) (h_s : Kept dv s) : Kept dv (State.scsRead s p size) := by
  unfold State.scsRead
  try dsimp only
  repeat' (first | with_reducible assumption | with_reducible apply State.autoInc_kept | with_reducible apply State.scsIoRead_kept |
                 with_reducible apply State.scsMemRead_kept | with_reducible apply State.scsHewerRead_kept | (intro _) | split |
                 dsimp only [StepKept, OutKept, IssueKept, MicroKept, OptKept, done] | simp only [kept_mk_eq] |
                 with_reducible apply keptC_of | with_reducible apply keptC_marks | with_reducible apply keptC_regs |
                 with_reducible exact kept_fst (by assumption) (by assumption))

theorem State.scsWrite_kept {dv : Nat} (s : State) (p : DbgPath) (size arg : Nat) (h_s : Kept dv s) : Kept dv (State.scsWrite s p size
    arg) := by
  unfold State.scsWrite
  try dsimp only
  repeat' (first | with_reducible assumption | with_reducible apply State.autoInc_kept | with_reducible apply State.scsIoWrite_kept |
                 with_reducible apply State.scsMemWrite_kept | with_reducible apply State.scsHewerWrite_kept | (intro _) | split |
                 dsimp only [StepKept, OutKept, IssueKept, MicroKept, OptKept, done] | simp only [kept_mk_eq] |
                 with_reducible apply keptC_of | with_reducible apply keptC_marks | with_reducible apply keptC_regs |
                 with_reducible exact kept_fst (by assumption) (by assumption))

theorem State.scsVtRead_kept {dv : Nat} (s : State) (p : DbgPath) (arg : Nat) (h_s : Kept dv s) : Kept dv (State.scsVtRead s p arg) :=
    by
  unfold State.scsVtRead
  try dsimp only
  repeat' (first | with_reducible assumption | with_reducible apply State.setFld_kept | with_reducible apply State.scsResult_kept |
                 (intro _) | split | dsimp only [StepKept, OutKept, IssueKept, MicroKept, OptKept, done] | simp only [kept_mk_eq] |
                 with_reducible apply keptC_of | with_reducible apply keptC_marks | with_reducible apply keptC_regs |
                 with_reducible exact kept_fst (by assumption) (by assumption))

theorem State.scsVtWrite_kept {dv : Nat} (s : State) (p : DbgPath) (arg : Nat) (h_s : Kept dv s) : Kept dv (State.scsVtWrite s p arg) :=
    by
  unfold State.scsVtWrite
  try dsimp only
  repeat' (first | with_reducible assumption | with_reducible apply State.setFld_kept | with_reducible apply State.raise_kept |
                 with_reducible apply State.scsResult_kept | (intro _) | split |
                 dsimp only [StepKept, OutKept, IssueKept, MicroKept, OptKept, done] | simp only [kept_mk_eq] |
                 with_reducible apply keptC_of | with_reducible apply keptC_marks | with_reducible apply keptC_regs |
                 with_reducible exact kept_fst (by assumption) (by assumption))

theorem State.scsClose_kept {dv : Nat} (s : State) (p : DbgPath) (h_s : Kept dv s) : Kept dv (State.scsClose s p) := by
  unfold State.scsClose
  try dsimp only
  repeat' (first | with_reducible assumption | with_reducible apply State.closePath_kept | with_reducible apply State.scsResult_kept |
                 (intro _) | split | dsimp only [StepKept, OutKept, IssueKept, MicroKept, OptKept, done] | simp only [kept_mk_eq] |
                 with_reducible apply keptC_of | with_reducible apply keptC_marks | with_reducible apply keptC_regs |
                 with_reducible exact kept_fst (by assumption) (by assumption))

theorem State.scsOp_kept {dv : Nat} (s : State) (p : DbgPath) (op size arg : Nat) (h_s : Kept dv s) : Kept dv (State.scsOp s p op size
    arg) := by
  unfold State.scsOp
  try dsimp only
  repeat' (first | with_reducible assumption | with_reducible apply State.scsResult_kept | with_reducible apply State.scsSetAddr_kept |
                 with_reducible apply State.scsRead_kept | with_reducible apply State.scsWrite_kept |
                 with_reducible apply State.scsVtRead_kept | with_reducible apply State.scsVtWrite_kept |
                 with_reducible apply State.scsClose_kept | (intro _) | split |
                 dsimp only [StepKept, OutKept, IssueKept, MicroKept, OptKept, done] | simp only [kept_mk_eq] |
                 with_reducible apply keptC_of | with_reducible apply keptC_marks | with_reducible apply keptC_regs |
                 with_reducible exact kept_fst (by assumption) (by assumption))

theorem State.scsScan_kept {dv : Nat} (s : State) (op size arg : Nat) (h_s : Kept dv s) : Kept dv (State.scsScan s op size arg) := by
  unfold State.scsScan
  try dsimp only
  repeat' (first | with_reducible assumption | with_reducible apply State.emit_kept | with_reducible apply State.scsOp_kept | (intro _)
                 | split | dsimp only [StepKept, OutKept, IssueKept, MicroKept, OptKept, done] | simp only [kept_mk_eq] |
                 with_reducible apply keptC_of | with_reducible apply keptC_marks | with_reducible apply keptC_regs |
                 with_reducible exact kept_fst (by assumption) (by assumption))

theorem State.scsGo_kept {dv : Nat} (s : State) (h_s : Kept dv s) : Kept dv (State.scsGo s) := by
  unfold State.scsGo
  try dsimp only
  repeat' (first | with_reducible assumption | with_reducible apply State.raise_kept | with_reducible apply State.scsResult_kept |
                 with_reducible apply State.scsOp_kept | (intro _) | split |
                 dsimp only [StepKept, OutKept, IssueKept, MicroKept, OptKept, done] | simp only [kept_mk_eq] |
                 with_reducible apply keptC_of | with_reducible apply keptC_marks | with_reducible apply keptC_regs |
                 with_reducible exact kept_fst (by assumption) (by assumption))

theorem State.scsCommand_kept {dv : Nat} (s : State) (p : DbgPath) (op size arg : Nat) (h_s : Kept dv s) : Kept dv (State.scsCommand s p
    op size arg) := by
  unfold State.scsCommand
  try dsimp only
  repeat' (first | with_reducible assumption | with_reducible apply State.setReg_kept | with_reducible apply State.setFld_kept |
                 with_reducible apply State.scsScan_kept | with_reducible apply State.scsGo_kept | (intro _) | split |
                 dsimp only [StepKept, OutKept, IssueKept, MicroKept, OptKept, done] | simp only [kept_mk_eq] |
                 with_reducible apply keptC_of | with_reducible apply keptC_marks | with_reducible apply keptC_regs |
                 with_reducible exact kept_fst (by assumption) (by assumption))

theorem execNopCommand_kept {dv : Nat} (path : DbgPath) (s : State) (h_s : Kept dv s) : OutKept dv (execNopCommand path s) := by
  unfold execNopCommand
  try dsimp only
  repeat' (first | with_reducible assumption | with_reducible apply done_kept | with_reducible apply State.scsCommand_kept | (intro _) |
                 split | dsimp only [StepKept, OutKept, IssueKept, MicroKept, OptKept, done] | simp only [kept_mk_eq] |
                 with_reducible apply keptC_of | with_reducible apply keptC_marks | with_reducible apply keptC_regs |
                 with_reducible exact kept_fst (by assumption) (by assumption))

theorem execSetaddr_kept {dv : Nat} (path : DbgPath) (size : BitVec 4) (arg : Word) (s : State) (h_s : Kept dv s) : OutKept dv
    (execSetaddr path size arg s) := by
  unfold execSetaddr
  try dsimp only
  repeat' (first | with_reducible assumption | with_reducible apply done_kept | with_reducible apply State.scsCommand_kept | (intro _) |
                 split | dsimp only [StepKept, OutKept, IssueKept, MicroKept, OptKept, done] | simp only [kept_mk_eq] |
                 with_reducible apply keptC_of | with_reducible apply keptC_marks | with_reducible apply keptC_regs |
                 with_reducible exact kept_fst (by assumption) (by assumption))

theorem execRead_kept {dv : Nat} (path : DbgPath) (size : BitVec 4) (s : State) (h_s : Kept dv s) : OutKept dv (execRead path size s) :=
    by
  unfold execRead
  try dsimp only
  repeat' (first | with_reducible assumption | with_reducible apply done_kept | with_reducible apply State.scsCommand_kept | (intro _) |
                 split | dsimp only [StepKept, OutKept, IssueKept, MicroKept, OptKept, done] | simp only [kept_mk_eq] |
                 with_reducible apply keptC_of | with_reducible apply keptC_marks | with_reducible apply keptC_regs |
                 with_reducible exact kept_fst (by assumption) (by assumption))

theorem execWrite_kept {dv : Nat} (path : DbgPath) (size : BitVec 4) (arg : Word) (s : State) (h_s : Kept dv s) : OutKept dv (execWrite
    path size arg s) := by
  unfold execWrite
  try dsimp only
  repeat' (first | with_reducible assumption | with_reducible apply done_kept | with_reducible apply State.scsCommand_kept | (intro _) |
                 split | dsimp only [StepKept, OutKept, IssueKept, MicroKept, OptKept, done] | simp only [kept_mk_eq] |
                 with_reducible apply keptC_of | with_reducible apply keptC_marks | with_reducible apply keptC_regs |
                 with_reducible exact kept_fst (by assumption) (by assumption))

theorem execVtRead_kept {dv : Nat} (path : DbgPath) (h : HewerId) (s : State) (h_s : Kept dv s) : OutKept dv (execVtRead path h s) := by
  unfold execVtRead
  try dsimp only
  repeat' (first | with_reducible assumption | with_reducible apply done_kept | with_reducible apply State.scsCommand_kept | (intro _) |
                 split | dsimp only [StepKept, OutKept, IssueKept, MicroKept, OptKept, done] | simp only [kept_mk_eq] |
                 with_reducible apply keptC_of | with_reducible apply keptC_marks | with_reducible apply keptC_regs |
                 with_reducible exact kept_fst (by assumption) (by assumption))

theorem execVtWrite_kept {dv : Nat} (path : DbgPath) (h : HewerId) (data : Word32) (s : State) (h_s : Kept dv s) : OutKept dv
    (execVtWrite path h data s) := by
  unfold execVtWrite
  try dsimp only
  repeat' (first | with_reducible assumption | with_reducible apply done_kept | with_reducible apply State.scsCommand_kept | (intro _) |
                 split | dsimp only [StepKept, OutKept, IssueKept, MicroKept, OptKept, done] | simp only [kept_mk_eq] |
                 with_reducible apply keptC_of | with_reducible apply keptC_marks | with_reducible apply keptC_regs |
                 with_reducible exact kept_fst (by assumption) (by assumption))

theorem execClose_kept {dv : Nat} (path : DbgPath) (s : State) (h_s : Kept dv s) : OutKept dv (execClose path s) := by
  unfold execClose
  try dsimp only
  repeat' (first | with_reducible assumption | with_reducible apply done_kept | with_reducible apply State.scsCommand_kept | (intro _) |
                 split | dsimp only [StepKept, OutKept, IssueKept, MicroKept, OptKept, done] | simp only [kept_mk_eq] |
                 with_reducible apply keptC_of | with_reducible apply keptC_marks | with_reducible apply keptC_regs |
                 with_reducible exact kept_fst (by assumption) (by assumption))

theorem State.scsPoke_kept {dv : Nat} (s : State) (p : DbgPath) (a size v : Nat) (h_s : Kept dv s) : Kept dv (State.scsPoke s p a size
    v) := by
  unfold State.scsPoke
  try dsimp only
  repeat' (first | with_reducible assumption | with_reducible apply State.scsIoWrite_kept | (intro _) | split |
                 dsimp only [StepKept, OutKept, IssueKept, MicroKept, OptKept, done] | simp only [kept_mk_eq] |
                 with_reducible apply keptC_of | with_reducible apply keptC_marks | with_reducible apply keptC_regs |
                 with_reducible exact kept_fst (by assumption) (by assumption))

theorem execChallenge_kept {dv : Nat} (path : DbgPath) (level key : Fin 4) (s : State) (h_s : Kept dv s) : OutKept dv (execChallenge
    path level key s) := by
  unfold execChallenge
  try dsimp only
  repeat' (first | with_reducible assumption | with_reducible apply done_kept | with_reducible apply State.scsPoke_kept | (intro _) |
                 split | dsimp only [StepKept, OutKept, IssueKept, MicroKept, OptKept, done] | simp only [kept_mk_eq] |
                 with_reducible apply keptC_of | with_reducible apply keptC_marks | with_reducible apply keptC_regs |
                 with_reducible exact kept_fst (by assumption) (by assumption))

theorem execVerify_kept {dv : Nat} (path : DbgPath) (level key : Fin 4) (s : State) (h_s : Kept dv s) : OutKept dv (execVerify path
    level key s) := by
  unfold execVerify
  try dsimp only
  repeat' (first | with_reducible assumption | with_reducible apply done_kept | with_reducible apply State.scsPoke_kept | (intro _) |
                 split | dsimp only [StepKept, OutKept, IssueKept, MicroKept, OptKept, done] | simp only [kept_mk_eq] |
                 with_reducible apply keptC_of | with_reducible apply keptC_marks | with_reducible apply keptC_regs |
                 with_reducible exact kept_fst (by assumption) (by assumption))

theorem execRootKeyProgram_kept {dv : Nat} (path : DbgPath) (key : BitVec 16) (s : State) (h_s : Kept dv s) : OutKept dv
    (execRootKeyProgram path key s) := by
  unfold execRootKeyProgram
  try dsimp only
  repeat' (first | with_reducible assumption | with_reducible apply done_kept | with_reducible apply State.scsPoke_kept | (intro _) |
                 split | dsimp only [StepKept, OutKept, IssueKept, MicroKept, OptKept, done] | simp only [kept_mk_eq] |
                 with_reducible apply keptC_of | with_reducible apply keptC_marks | with_reducible apply keptC_regs |
                 with_reducible exact kept_fst (by assumption) (by assumption))

theorem State.loadIr_kept {dv : Nat} (s : State) (ir : Nat) (h_s : Kept dv s) : Kept dv (State.loadIr s ir) := by
  unfold State.loadIr
  try dsimp only
  repeat' (first | with_reducible assumption | (intro _) | split | dsimp only [StepKept, OutKept, IssueKept, MicroKept, OptKept, done] |
                 simp only [kept_mk_eq] | with_reducible apply keptC_of | with_reducible apply keptC_marks |
                 with_reducible apply keptC_regs | with_reducible exact kept_fst (by assumption) (by assumption))

theorem State.bypassScan_kept {dv : Nat} (s : State) (ir : Nat) (h_s : Kept dv s) : Kept dv (State.bypassScan s ir) := by
  unfold State.bypassScan
  try dsimp only
  repeat' (first | with_reducible assumption | with_reducible apply State.emit_kept | with_reducible apply State.loadIr_kept | (intro _)
                 | split | dsimp only [StepKept, OutKept, IssueKept, MicroKept, OptKept, done] | simp only [kept_mk_eq] |
                 with_reducible apply keptC_of | with_reducible apply keptC_marks | with_reducible apply keptC_regs |
                 with_reducible exact kept_fst (by assumption) (by assumption))

theorem execExtest_kept {dv : Nat} (value : Word) (s : State) (h_s : Kept dv s) : OutKept dv (execExtest value s) := by
  unfold execExtest
  try dsimp only
  repeat' (first | with_reducible assumption | with_reducible apply State.draw_kept | with_reducible apply State.emit_kept |
                 with_reducible apply done_kept | with_reducible apply State.loadIr_kept | with_reducible apply State.bypassScan_kept |
                 (intro _) | split | dsimp only [StepKept, OutKept, IssueKept, MicroKept, OptKept, done] | simp only [kept_mk_eq] |
                 with_reducible apply keptC_of | with_reducible apply keptC_marks | with_reducible apply keptC_regs |
                 with_reducible exact kept_fst (by assumption) (by assumption))

theorem execSamplePreload_kept {dv : Nat} (s : State) (h_s : Kept dv s) : OutKept dv (execSamplePreload s) := by
  unfold execSamplePreload
  try dsimp only
  repeat' (first | with_reducible assumption | with_reducible apply State.draw_kept | with_reducible apply State.emit_kept |
                 with_reducible apply done_kept | with_reducible apply State.loadIr_kept | with_reducible apply State.bypassScan_kept |
                 (intro _) | split | dsimp only [StepKept, OutKept, IssueKept, MicroKept, OptKept, done] | simp only [kept_mk_eq] |
                 with_reducible apply keptC_of | with_reducible apply keptC_marks | with_reducible apply keptC_regs |
                 with_reducible exact kept_fst (by assumption) (by assumption))

theorem execIdcode_kept {dv : Nat} (s : State) (h_s : Kept dv s) : OutKept dv (execIdcode s) := by
  unfold execIdcode
  try dsimp only
  repeat' (first | with_reducible assumption | with_reducible apply State.emit_kept | with_reducible apply done_kept |
                 with_reducible apply State.loadIr_kept | with_reducible apply State.bypassScan_kept | (intro _) | split |
                 dsimp only [StepKept, OutKept, IssueKept, MicroKept, OptKept, done] | simp only [kept_mk_eq] |
                 with_reducible apply keptC_of | with_reducible apply keptC_marks | with_reducible apply keptC_regs |
                 with_reducible exact kept_fst (by assumption) (by assumption))

theorem execBypass_kept {dv : Nat} (s : State) (h_s : Kept dv s) : OutKept dv (execBypass s) := by
  unfold execBypass
  try dsimp only
  repeat' (first | with_reducible assumption | with_reducible apply done_kept | with_reducible apply State.bypassScan_kept | (intro _) |
                 split | dsimp only [StepKept, OutKept, IssueKept, MicroKept, OptKept, done] | simp only [kept_mk_eq] |
                 with_reducible apply keptC_of | with_reducible apply keptC_marks | with_reducible apply keptC_regs |
                 with_reducible exact kept_fst (by assumption) (by assumption))

theorem execDbgpwr_kept {dv : Nat} (on : Bool) (s : State) (h_s : Kept dv s) : OutKept dv (execDbgpwr on s) := by
  unfold execDbgpwr
  try dsimp only
  repeat' (first | with_reducible assumption | with_reducible apply done_kept | with_reducible apply State.domReqWrite_kept |
                 with_reducible apply State.bypassScan_kept | (intro _) | split |
                 dsimp only [StepKept, OutKept, IssueKept, MicroKept, OptKept, done] | simp only [kept_mk_eq] |
                 with_reducible apply keptC_of | with_reducible apply keptC_marks | with_reducible apply keptC_regs |
                 with_reducible exact kept_fst (by assumption) (by assumption))

theorem execTestLogicReset_kept {dv : Nat} (s : State) (h_s : Kept dv s) : OutKept dv (execTestLogicReset s) := by
  unfold execTestLogicReset
  try dsimp only
  repeat' (first | with_reducible assumption | with_reducible apply done_kept | with_reducible apply State.closePath_kept |
                 with_reducible apply State.loadIr_kept | (intro _) | split |
                 dsimp only [StepKept, OutKept, IssueKept, MicroKept, OptKept, done] | simp only [kept_mk_eq] |
                 with_reducible apply keptC_of | with_reducible apply keptC_marks | with_reducible apply keptC_regs |
                 with_reducible exact kept_fst (by assumption) (by assumption))

theorem State.ioPerform_kept {dv : Nat} (s : State) (w : Writer) (d : RegDesc) (a v : Nat) (h_s : Kept dv s) :
    OptKept dv (State.ioPerform s w d a v) := by
  have h := State.ioWrite_kept (dv := dv) s w d a v h_s
  unfold State.ioPerform
  split <;> rename_i e
  · trivial
  · rw [e] at h
    dsimp only [OptKept]
    split
    · exact State.scsGo_kept _ h
    · exact h

theorem State.inStep_kept {dv : Nat} (s : State) (h : HewerId) (rd a n : Nat) (h_s : Kept dv s) : StepKept dv (State.inStep s h rd a n)
    := by
  unfold State.inStep
  try dsimp only
  repeat' (first | with_reducible assumption | with_reducible apply State.modHew_kept | with_reducible apply State.tally_kept |
                 with_reducible apply State.ioRead_kept | (intro _) | split |
                 dsimp only [StepKept, OutKept, IssueKept, MicroKept, OptKept, done] | simp only [kept_mk_eq] |
                 with_reducible apply keptC_of | with_reducible apply keptC_marks | with_reducible apply keptC_regs |
                 with_reducible exact kept_fst (by assumption) (by assumption))

theorem State.outStep_kept {dv : Nat} (s : State) (h : HewerId) (a n v : Nat) (h_s : Kept dv s) :
    StepKept dv (State.outStep s h a n v) := by
  unfold State.outStep
  split
  · exact h_s
  · split
    · exact h_s
    · exact h_s
    · rename_i d _ _
      split
      · exact h_s
      · have hp := State.ioPerform_kept (dv := dv) s (.hewer h) d a v h_s
        split <;> rename_i e
        · exact h_s
        · rw [e] at hp
          exact State.tally_kept _ _ _ hp

theorem execIoIn_kept {dv : Nat} (h : HewerId) (wide : Bool) (rd ra : RegNo) (disp : BitVec 14) (s : State) (h_s : Kept dv s) : OutKept
    dv (execIoIn h wide rd ra disp s) := by
  unfold execIoIn
  try dsimp only
  repeat' (first | with_reducible assumption | with_reducible apply done_kept | with_reducible apply State.sbFlush_kept |
                 with_reducible apply State.runLong_kept | with_reducible apply State.inStep_kept | (intro _) | split |
                 dsimp only [StepKept, OutKept, IssueKept, MicroKept, OptKept, done] | simp only [kept_mk_eq] |
                 with_reducible apply keptC_of | with_reducible apply keptC_marks | with_reducible apply keptC_regs |
                 with_reducible exact kept_fst (by assumption) (by assumption))

theorem execIoOut_kept {dv : Nat} (h : HewerId) (wide : Bool) (rd ra : RegNo) (disp : BitVec 14) (s : State) (h_s : Kept dv s) : OutKept
    dv (execIoOut h wide rd ra disp s) := by
  unfold execIoOut
  try dsimp only
  repeat' (first | with_reducible assumption | with_reducible apply done_kept | with_reducible apply State.sbFlush_kept |
                 with_reducible apply State.runLong_kept | with_reducible apply State.outStep_kept | (intro _) | split |
                 dsimp only [StepKept, OutKept, IssueKept, MicroKept, OptKept, done] | simp only [kept_mk_eq] |
                 with_reducible apply keptC_of | with_reducible apply keptC_marks | with_reducible apply keptC_regs |
                 with_reducible exact kept_fst (by assumption) (by assumption))

theorem State.bar0Read_kept {dv : Nat} (s : State) (f : Fin 64) (off n : Nat) (h_s : Kept dv s) : Kept dv (State.bar0Read s f off n) :=
    by
  unfold State.bar0Read
  try dsimp only
  repeat' (first | with_reducible assumption | with_reducible apply State.emit_kept | with_reducible apply State.barErr_kept |
                 with_reducible apply State.ioRead_kept | (intro _) | split |
                 dsimp only [StepKept, OutKept, IssueKept, MicroKept, OptKept, done] | simp only [kept_mk_eq] |
                 with_reducible apply keptC_of | with_reducible apply keptC_marks | with_reducible apply keptC_regs |
                 with_reducible exact kept_fst (by assumption) (by assumption))

theorem execBar0Read_kept {dv : Nat} (f : Fin 64) (off : BitVec 26) (len : Fin 4097) (s : State) (h_s : Kept dv s) : OutKept dv
    (execBar0Read f off len s) := by
  unfold execBar0Read
  try dsimp only
  repeat' (first | with_reducible assumption | with_reducible apply done_kept | with_reducible apply State.bar0Read_kept | (intro _) |
                 split | dsimp only [StepKept, OutKept, IssueKept, MicroKept, OptKept, done] | simp only [kept_mk_eq] |
                 with_reducible apply keptC_of | with_reducible apply keptC_marks | with_reducible apply keptC_regs |
                 with_reducible exact kept_fst (by assumption) (by assumption))

theorem State.vfMsixWrite_kept {dv : Nat} (s : State) (f dw v : Nat) (h_s : Kept dv s) : Kept dv (State.vfMsixWrite s f dw v) := by
  unfold State.vfMsixWrite
  try dsimp only
  repeat' (first | with_reducible assumption | with_reducible apply State.flushMsix_kept | (intro _) | split |
                 dsimp only [StepKept, OutKept, IssueKept, MicroKept, OptKept, done] | simp only [kept_mk_eq] |
                 with_reducible apply keptC_of | with_reducible apply keptC_marks | with_reducible apply keptC_regs |
                 with_reducible exact kept_fst (by assumption) (by assumption))

theorem State.bar0Write_kept {dv : Nat} (s : State) (f : Fin 64) (off : Nat) (data : List Byte) (ep : Bool) (header : Nat)
    (h_s : Kept dv s) : Kept dv (State.bar0Write s f off data ep header) := by
  unfold State.bar0Write
  dsimp only
  repeat' (first | with_reducible assumption | with_reducible apply State.writeType_kept | with_reducible apply State.recordPort_kept
                 | with_reducible apply State.barErr_kept | with_reducible apply State.count_kept | with_reducible apply State.freeze_kept
                 | with_reducible apply State.aerLog_kept | with_reducible apply State.poisonRx_kept
                 | with_reducible apply State.vfMsixWrite_kept | with_reducible apply getD_kept | with_reducible apply State.ioPerform_kept
                 | split)

theorem execBar0Write_kept {dv : Nat} (f : Fin 64) (off : BitVec 26) (data : List Byte) (ep : Bool) (header : BitVec 128) (s : State)
    (h_s : Kept dv s) : OutKept dv (execBar0Write f off data ep header s) := by
  unfold execBar0Write
  try dsimp only
  repeat' (first | with_reducible assumption | with_reducible apply done_kept | with_reducible apply State.bar0Write_kept | (intro _) |
                 split | dsimp only [StepKept, OutKept, IssueKept, MicroKept, OptKept, done] | simp only [kept_mk_eq] |
                 with_reducible apply keptC_of | with_reducible apply keptC_marks | with_reducible apply keptC_regs |
                 with_reducible exact kept_fst (by assumption) (by assumption))

theorem State.hewerIo_kept {dv : Nat} (s : State) (h : HewerId) (a n v : Nat) (h_s : Kept dv s) :
    Kept dv (State.hewerIo s h a n v) := by
  unfold State.hewerIo
  split
  · exact h_s
  · split
    · exact State.takeExc_kept _ _ _ _ _ (State.tally_kept _ _ _ h_s)
    · split
      · exact State.ioFault_kept _ _ _ _ h_s
      · exact State.ioFault_kept _ _ _ _ h_s
      · exact getD_kept _ _ (State.ioPerform_kept _ _ _ _ _ h_s) (State.ioFault_kept _ _ _ _ h_s)

theorem State.ioCmd_kept {dv : Nat} (s : State) (w : Writer) (a n v : Nat) (h_s : Kept dv s) :
    Kept dv (State.ioCmd s w a n v) := by
  unfold State.ioCmd
  repeat' (first | with_reducible assumption | with_reducible apply State.hewerIo_kept | with_reducible apply State.bar0Write_kept
                 | with_reducible apply State.scsPoke_kept | with_reducible apply getD_kept | with_reducible apply State.ioPerform_kept
                 | split)

theorem execRegisterWrite_kept {dv : Nat} (writer : Writer) (addr : Word32) (wide : Bool) (value : Word) (s : State) (h_s : Kept dv s) :
    OutKept dv (execRegisterWrite writer addr wide value s) := by
  unfold execRegisterWrite
  try dsimp only
  repeat' (first | with_reducible assumption | with_reducible apply done_kept | with_reducible apply State.ioCmd_kept | (intro _) |
                 split | dsimp only [StepKept, OutKept, IssueKept, MicroKept, OptKept, done] | simp only [kept_mk_eq] |
                 with_reducible apply keptC_of | with_reducible apply keptC_marks | with_reducible apply keptC_regs |
                 with_reducible exact kept_fst (by assumption) (by assumption))

theorem execCfgCdtWordWrite_kept {dv : Nat} (writer : Writer) (value : Word) (s : State) (h_s : Kept dv s) : OutKept dv
    (execCfgCdtWordWrite writer value s) := by
  unfold execCfgCdtWordWrite
  try dsimp only
  repeat' (first | with_reducible assumption | with_reducible apply done_kept | with_reducible apply State.ioCmd_kept | (intro _) |
                 split | dsimp only [StepKept, OutKept, IssueKept, MicroKept, OptKept, done] | simp only [kept_mk_eq] |
                 with_reducible apply keptC_of | with_reducible apply keptC_marks | with_reducible apply keptC_regs |
                 with_reducible exact kept_fst (by assumption) (by assumption))

theorem execCfgCdtEntryWrite_kept {dv : Nat} (writer : Writer) (n : Fin 64) (value : Word) (s : State) (h_s : Kept dv s) : OutKept dv
    (execCfgCdtEntryWrite writer n value s) := by
  unfold execCfgCdtEntryWrite
  try dsimp only
  repeat' (first | with_reducible assumption | with_reducible apply done_kept | with_reducible apply State.ioCmd_kept | (intro _) |
                 split | dsimp only [StepKept, OutKept, IssueKept, MicroKept, OptKept, done] | simp only [kept_mk_eq] |
                 with_reducible apply keptC_of | with_reducible apply keptC_marks | with_reducible apply keptC_regs |
                 with_reducible exact kept_fst (by assumption) (by assumption))

theorem execHalt_kept {dv : Nat} (writer : Writer) (h : HewerId) (s : State) (h_s : Kept dv s) : OutKept dv (execHalt writer h s) := by
  unfold execHalt
  try dsimp only
  repeat' (first | with_reducible assumption | with_reducible apply done_kept | with_reducible apply State.ioCmd_kept | (intro _) |
                 split | dsimp only [StepKept, OutKept, IssueKept, MicroKept, OptKept, done] | simp only [kept_mk_eq] |
                 with_reducible apply keptC_of | with_reducible apply keptC_marks | with_reducible apply keptC_regs |
                 with_reducible exact kept_fst (by assumption) (by assumption))

theorem execRelease_kept {dv : Nat} (writer : Writer) (h : HewerId) (s : State) (h_s : Kept dv s) : OutKept dv (execRelease writer h s)
    := by
  unfold execRelease
  try dsimp only
  repeat' (first | with_reducible assumption | with_reducible apply done_kept | with_reducible apply State.ioCmd_kept | (intro _) |
                 split | dsimp only [StepKept, OutKept, IssueKept, MicroKept, OptKept, done] | simp only [kept_mk_eq] |
                 with_reducible apply keptC_of | with_reducible apply keptC_marks | with_reducible apply keptC_regs |
                 with_reducible exact kept_fst (by assumption) (by assumption))

theorem execStep_kept {dv : Nat} (writer : Writer) (h : HewerId) (s : State) (h_s : Kept dv s) : OutKept dv (execStep writer h s) := by
  unfold execStep
  try dsimp only
  repeat' (first | with_reducible assumption | with_reducible apply done_kept | with_reducible apply State.ioCmd_kept | (intro _) |
                 split | dsimp only [StepKept, OutKept, IssueKept, MicroKept, OptKept, done] | simp only [kept_mk_eq] |
                 with_reducible apply keptC_of | with_reducible apply keptC_marks | with_reducible apply keptC_regs |
                 with_reducible exact kept_fst (by assumption) (by assumption))

theorem execClrCheckstop_kept {dv : Nat} (writer : Writer) (h : HewerId) (s : State) (h_s : Kept dv s) : OutKept dv (execClrCheckstop
    writer h s) := by
  unfold execClrCheckstop
  try dsimp only
  repeat' (first | with_reducible assumption | with_reducible apply done_kept | with_reducible apply State.ioCmd_kept | (intro _) |
                 split | dsimp only [StepKept, OutKept, IssueKept, MicroKept, OptKept, done] | simp only [kept_mk_eq] |
                 with_reducible apply keptC_of | with_reducible apply keptC_marks | with_reducible apply keptC_regs |
                 with_reducible exact kept_fst (by assumption) (by assumption))

theorem execXtrigHalt_kept {dv : Nat} (writer : Writer) (all : Bool) (gallery : Fin 64) (s : State) (h_s : Kept dv s) : OutKept dv
    (execXtrigHalt writer all gallery s) := by
  unfold execXtrigHalt
  try dsimp only
  repeat' (first | with_reducible assumption | with_reducible apply done_kept | with_reducible apply State.ioCmd_kept | (intro _) |
                 split | dsimp only [StepKept, OutKept, IssueKept, MicroKept, OptKept, done] | simp only [kept_mk_eq] |
                 with_reducible apply keptC_of | with_reducible apply keptC_marks | with_reducible apply keptC_regs |
                 with_reducible exact kept_fst (by assumption) (by assumption))

theorem execXtrigRelease_kept {dv : Nat} (writer : Writer) (all : Bool) (gallery : Fin 64) (s : State) (h_s : Kept dv s) : OutKept dv
    (execXtrigRelease writer all gallery s) := by
  unfold execXtrigRelease
  try dsimp only
  repeat' (first | with_reducible assumption | with_reducible apply done_kept | with_reducible apply State.ioCmd_kept | (intro _) |
                 split | dsimp only [StepKept, OutKept, IssueKept, MicroKept, OptKept, done] | simp only [kept_mk_eq] |
                 with_reducible apply keptC_of | with_reducible apply keptC_marks | with_reducible apply keptC_regs |
                 with_reducible exact kept_fst (by assumption) (by assumption))

theorem execVtxWrite_kept {dv : Nat} (h : HewerId) (data : Word32) (s : State) (h_s : Kept dv s) : OutKept dv (execVtxWrite h data s) :=
    by
  unfold execVtxWrite
  try dsimp only
  repeat' (first | with_reducible assumption | with_reducible apply done_kept | with_reducible apply State.ioCmd_kept | (intro _) |
                 split | dsimp only [StepKept, OutKept, IssueKept, MicroKept, OptKept, done] | simp only [kept_mk_eq] |
                 with_reducible apply keptC_of | with_reducible apply keptC_marks | with_reducible apply keptC_regs |
                 with_reducible exact kept_fst (by assumption) (by assumption))

theorem execVrxRead_kept {dv : Nat} (h : HewerId) (s : State) (h_s : Kept dv s) : OutKept dv (execVrxRead h s) := by
  unfold execVrxRead
  try dsimp only
  repeat' (first | with_reducible assumption | with_reducible apply done_kept | with_reducible apply State.ioFault_kept |
                 with_reducible apply State.vrxTaken_kept | (intro _) | split |
                 dsimp only [StepKept, OutKept, IssueKept, MicroKept, OptKept, done] | simp only [kept_mk_eq] |
                 with_reducible apply keptC_of | with_reducible apply keptC_marks | with_reducible apply keptC_regs |
                 with_reducible exact kept_fst (by assumption) (by assumption))

end Sys2Proof.Machine
end

