-- ==== Sys2Proof/Laws/KeptStep.lean ====
section
/-! SUPPORT. One lemma per operation: it keeps the memory canonical and the device number: the boot and the queue. -/

namespace Sys2Proof.Machine


theorem State.powerOnReset_kept {dv : Nat} (s : State) (h_s : Kept dv s) : Kept dv (State.powerOnReset s) :=
  ⟨h_s.1, Table.wf_filter _ _ _ h_s.2.1, rfl, rfl, rfl⟩

theorem execPornLow_kept {dv : Nat} (s : State) (h_s : Kept dv s) : OutKept dv (execPornLow s) := by
  unfold execPornLow
  try dsimp only
  repeat' (first | with_reducible assumption | with_reducible apply State.setFld_kept | with_reducible apply done_kept |
                 with_reducible apply State.powerOnReset_kept | (intro _) | split |
                 dsimp only [StepKept, OutKept, IssueKept, MicroKept, OptKept, done] | simp only [kept_mk_eq] |
                 with_reducible apply keptC_of | with_reducible apply keptC_marks | with_reducible apply keptC_regs |
                 with_reducible exact kept_fst (by assumption) (by assumption))

theorem State.showUnbound_kept {dv : Nat} (s : State) (h_s : Kept dv s) : Kept dv (State.showUnbound s) := by
  unfold State.showUnbound
  try dsimp only
  repeat' (first | with_reducible assumption | with_reducible apply State.setFld_kept | (intro _) | split |
                 dsimp only [StepKept, OutKept, IssueKept, MicroKept, OptKept, done] | simp only [kept_mk_eq] |
                 with_reducible apply keptC_of | with_reducible apply keptC_marks | with_reducible apply keptC_regs |
                 with_reducible exact kept_fst (by assumption) (by assumption))

theorem execPorPllLock_kept {dv : Nat} (s : State) (h_s : Kept dv s) : OutKept dv (execPorPllLock s) := by
  unfold execPorPllLock
  try dsimp only
  repeat' (first | with_reducible assumption | with_reducible apply done_kept | with_reducible apply State.toMode_kept |
                 with_reducible apply State.showUnbound_kept | (intro _) | split |
                 dsimp only [StepKept, OutKept, IssueKept, MicroKept, OptKept, done] | simp only [kept_mk_eq] |
                 with_reducible apply keptC_of | with_reducible apply keptC_marks | with_reducible apply keptC_regs |
                 with_reducible exact kept_fst (by assumption) (by assumption))

theorem State.setStage_kept {dv : Nat} (s : State) (n : Nat) (h_s : Kept dv s) : Kept dv (State.setStage s n) := by
  unfold State.setStage
  try dsimp only
  repeat' (first | with_reducible assumption | with_reducible apply State.setFld_kept | (intro _) | split |
                 dsimp only [StepKept, OutKept, IssueKept, MicroKept, OptKept, done] | simp only [kept_mk_eq] |
                 with_reducible apply keptC_of | with_reducible apply keptC_marks | with_reducible apply keptC_regs |
                 with_reducible exact kept_fst (by assumption) (by assumption))

theorem State.hepDefault_kept {dv : Nat} (s : State) (h_s : Kept dv s) : Kept dv (State.hepDefault s) := by
  unfold State.hepDefault
  try dsimp only
  repeat' (first | with_reducible assumption | (intro _) | split | dsimp only [StepKept, OutKept, IssueKept, MicroKept, OptKept, done] |
                 simp only [kept_mk_eq] | with_reducible apply keptC_of | with_reducible apply keptC_marks |
                 with_reducible apply keptC_regs | with_reducible exact kept_fst (by assumption) (by assumption))

theorem State.bootHost_kept {dv : Nat} (s : State) (h_s : Kept dv s) : Kept dv (State.bootHost s) := by
  unfold State.bootHost
  try dsimp only
  repeat' (first | with_reducible assumption | with_reducible apply State.setFld_kept | with_reducible apply State.d5On_kept |
                 with_reducible apply State.domainComes_kept | with_reducible apply State.setDomain_kept | (intro _) | split |
                 dsimp only [StepKept, OutKept, IssueKept, MicroKept, OptKept, done] | simp only [kept_mk_eq] |
                 with_reducible apply keptC_of | with_reducible apply keptC_marks | with_reducible apply keptC_regs |
                 with_reducible exact kept_fst (by assumption) (by assumption))

theorem State.bootFail_kept {dv : Nat} (s : State) (err section_ : Nat) (h_s : Kept dv s) : Kept dv (State.bootFail s err section_) :=
    by
  unfold State.bootFail
  try dsimp only
  repeat' (first | with_reducible assumption | with_reducible apply State.setFld_kept | with_reducible apply State.setStage_kept |
                 with_reducible apply State.hepDefault_kept | with_reducible apply State.bootHost_kept | (intro _) | split |
                 dsimp only [StepKept, OutKept, IssueKept, MicroKept, OptKept, done] | simp only [kept_mk_eq] |
                 with_reducible apply keptC_of | with_reducible apply keptC_marks | with_reducible apply keptC_regs |
                 with_reducible exact kept_fst (by assumption) (by assumption))

theorem execBootDiscovery_kept {dv : Nat} (ok : Bool) (octal : Fin 3) (sizeMib : BitVec 16) (s : State) (h_s : Kept dv s) : OutKept dv
    (execBootDiscovery ok octal sizeMib s) := by
  unfold execBootDiscovery
  try dsimp only
  repeat' (first | with_reducible assumption | with_reducible apply State.setFld_kept | with_reducible apply done_kept |
                 with_reducible apply State.setStage_kept | with_reducible apply State.bootFail_kept | (intro _) | split |
                 dsimp only [StepKept, OutKept, IssueKept, MicroKept, OptKept, done] | simp only [kept_mk_eq] |
                 with_reducible apply keptC_of | with_reducible apply keptC_marks | with_reducible apply keptC_regs |
                 with_reducible exact kept_fst (by assumption) (by assumption))

theorem State.checkHeader_kept {dv : Nat} (s : State) (h_s : Kept dv s) : Kept dv (State.checkHeader s) := by
  unfold State.checkHeader
  try dsimp only
  repeat' (first | with_reducible assumption | with_reducible apply State.bootFail_kept | (intro _) | split |
                 dsimp only [StepKept, OutKept, IssueKept, MicroKept, OptKept, done] | simp only [kept_mk_eq] |
                 with_reducible apply keptC_of | with_reducible apply keptC_marks | with_reducible apply keptC_regs |
                 with_reducible exact kept_fst (by assumption) (by assumption))

theorem execBootHeader_kept {dv : Nat} (readError : Bool) (s : State) (h_s : Kept dv s) : OutKept dv (execBootHeader readError s) := by
  unfold execBootHeader
  try dsimp only
  repeat' (first | with_reducible assumption | with_reducible apply done_kept | with_reducible apply State.setStage_kept |
                 with_reducible apply State.bootFail_kept | with_reducible apply State.checkHeader_kept | (intro _) | split |
                 dsimp only [StepKept, OutKept, IssueKept, MicroKept, OptKept, done] | simp only [kept_mk_eq] |
                 with_reducible apply keptC_of | with_reducible apply keptC_marks | with_reducible apply keptC_regs |
                 with_reducible exact kept_fst (by assumption) (by assumption))

theorem State.lockNow_kept {dv : Nat} (s : State) (h_s : Kept dv s) : Kept dv (State.lockNow s) := by
  unfold State.lockNow
  try dsimp only
  repeat' (first | with_reducible assumption | with_reducible apply State.setFld_kept | with_reducible apply State.mscLock_kept |
                 (intro _) | split | dsimp only [StepKept, OutKept, IssueKept, MicroKept, OptKept, done] | simp only [kept_mk_eq] |
                 with_reducible apply keptC_of | with_reducible apply keptC_marks | with_reducible apply keptC_regs |
                 with_reducible exact kept_fst (by assumption) (by assumption))

theorem State.bootIo_kept {dv : Nat} (s : State) (kind n a size v : Nat) (h_s : Kept dv s) :
    Kept dv (State.bootIo s kind n a size v) := by
  unfold State.bootIo
  dsimp only
  repeat' (first | with_reducible assumption | with_reducible apply State.bootFail_kept | with_reducible apply State.lockNow_kept
                 | with_reducible apply getD_kept | with_reducible apply State.ioPerform_kept | split)

theorem State.bootSegment_kept {dv : Nat} (s : State) (kind n a : Nat) (data : List Byte) (h_s : Kept dv s) : Kept dv (State.bootSegment
    s kind n a data) := by
  unfold State.bootSegment
  try dsimp only
  repeat' (first | with_reducible assumption | with_reducible apply State.dmaWrite_kept | with_reducible apply State.bootFail_kept |
                 (intro _) | split | dsimp only [StepKept, OutKept, IssueKept, MicroKept, OptKept, done] | simp only [kept_mk_eq] |
                 with_reducible apply keptC_of | with_reducible apply keptC_marks | with_reducible apply keptC_regs |
                 with_reducible exact kept_fst (by assumption) (by assumption))

theorem State.bootItem_kept {dv : Nat} (s : State) (kind n : Nat) (x : BootItem) (h_s : Kept dv s) : Kept dv (State.bootItem s kind n x)
    := by
  unfold State.bootItem
  try dsimp only
  repeat' (first | with_reducible assumption | with_reducible apply State.setFld_kept | with_reducible apply State.drtCmdWrite_kept |
                 with_reducible apply State.bootFail_kept | with_reducible apply State.bootIo_kept |
                 with_reducible apply State.bootSegment_kept | (intro _) | split |
                 dsimp only [StepKept, OutKept, IssueKept, MicroKept, OptKept, done] | simp only [kept_mk_eq] |
                 with_reducible apply keptC_of | with_reducible apply keptC_marks | with_reducible apply keptC_regs |
                 with_reducible exact kept_fst (by assumption) (by assumption))

theorem State.bootItems_kept {dv : Nat} (s : State) (kind n : Nat) (l : List BootItem) (h_s : Kept dv s) : Kept dv (State.bootItems s
    kind n l) := by
  fun_induction State.bootItems s kind n l
  all_goals (repeat' (first | with_reducible assumption | (rename_i ih; with_reducible apply ih) | with_reducible apply State.bootItem_kept |
                            (intro _) | split | dsimp only [StepKept, OutKept, IssueKept, MicroKept, OptKept, done] |
                            simp only [kept_mk_eq] | with_reducible apply keptC_of | with_reducible apply keptC_marks |
                            with_reducible apply keptC_regs | with_reducible exact kept_fst (by assumption) (by assumption)))
  all_goals first | done | simp_all

theorem State.bootLode_kept {dv : Nat} (s : State) (h_s : Kept dv s) : Kept dv (State.bootLode s) := by
  unfold State.bootLode
  try dsimp only
  repeat' (first | with_reducible assumption | with_reducible apply State.initLode_kept | with_reducible apply State.initComplete_kept |
                 (intro _) | split | dsimp only [StepKept, OutKept, IssueKept, MicroKept, OptKept, done] | simp only [kept_mk_eq] |
                 with_reducible apply keptC_of | with_reducible apply keptC_marks | with_reducible apply keptC_regs |
                 with_reducible exact kept_fst (by assumption) (by assumption))

theorem State.bootType_kept {dv : Nat} (s : State) (items : List (List BootItem)) (kind : Nat) (h_s : Kept dv s) : Kept dv
    (State.bootType s items kind) := by
  unfold State.bootType
  try dsimp only
  repeat' (first | with_reducible assumption | with_reducible apply State.bootItems_kept | with_reducible apply State.bootLode_kept |
                 with_reducible apply foldl_kept | (intro _) | split |
                 dsimp only [StepKept, OutKept, IssueKept, MicroKept, OptKept, done] | simp only [kept_mk_eq] |
                 with_reducible apply keptC_of | with_reducible apply keptC_marks | with_reducible apply keptC_regs |
                 with_reducible exact kept_fst (by assumption) (by assumption))

theorem State.bootTypes_kept {dv : Nat} (s : State) (items : List (List BootItem)) (kinds : List Nat) (h_s : Kept dv s) : Kept dv
    (State.bootTypes s items kinds) := by
  fun_induction State.bootTypes s items kinds
  all_goals (repeat' (first | with_reducible assumption | (rename_i ih; with_reducible apply ih) | with_reducible apply State.bootType_kept |
                            (intro _) | split | dsimp only [StepKept, OutKept, IssueKept, MicroKept, OptKept, done] |
                            simp only [kept_mk_eq] | with_reducible apply keptC_of | with_reducible apply keptC_marks |
                            with_reducible apply keptC_regs | with_reducible exact kept_fst (by assumption) (by assumption)))
  all_goals first | done | simp_all

theorem execBootEarlySections_kept {dv : Nat} (items : List (List BootItem)) (fails : BitVec 128) (readError : Bool) (s : State) (h_s :
    Kept dv s) : OutKept dv (execBootEarlySections items fails readError s) := by
  unfold execBootEarlySections
  try dsimp only
  repeat' (first | with_reducible assumption | with_reducible apply done_kept | with_reducible apply State.switchDone_kept |
                 with_reducible apply State.setStage_kept | with_reducible apply State.bootFail_kept |
                 with_reducible apply State.bootTypes_kept | (intro _) | split |
                 dsimp only [StepKept, OutKept, IssueKept, MicroKept, OptKept, done] | simp only [kept_mk_eq] |
                 with_reducible apply keptC_of | with_reducible apply keptC_marks | with_reducible apply keptC_regs |
                 with_reducible exact kept_fst (by assumption) (by assumption))

theorem execBootStream_kept {dv : Nat} (readError : Bool) (s : State) (h_s : Kept dv s) : OutKept dv (execBootStream readError s) := by
  unfold execBootStream
  try dsimp only
  repeat' (first | with_reducible assumption | with_reducible apply State.dmaWrite_kept | with_reducible apply done_kept |
                 with_reducible apply State.setStage_kept | with_reducible apply State.bootFail_kept | (intro _) | split |
                 dsimp only [StepKept, OutKept, IssueKept, MicroKept, OptKept, done] | simp only [kept_mk_eq] |
                 with_reducible apply keptC_of | with_reducible apply keptC_marks | with_reducible apply keptC_regs |
                 with_reducible exact kept_fst (by assumption) (by assumption))

theorem execBootVerify_kept {dv : Nat} (s : State) (h_s : Kept dv s) : OutKept dv (execBootVerify s) := by
  unfold execBootVerify
  try dsimp only
  repeat' (first | with_reducible assumption | with_reducible apply done_kept | with_reducible apply State.showUnbound_kept |
                 with_reducible apply State.setStage_kept | with_reducible apply State.bootFail_kept | (intro _) | split |
                 dsimp only [StepKept, OutKept, IssueKept, MicroKept, OptKept, done] | simp only [kept_mk_eq] |
                 with_reducible apply keptC_of | with_reducible apply keptC_marks | with_reducible apply keptC_regs |
                 with_reducible exact kept_fst (by assumption) (by assumption))

theorem State.startShafts_kept {dv : Nat} (s : State) (n k : Nat) (h_s : Kept dv s) : Kept dv (State.startShafts s n k) := by
  fun_induction State.startShafts s n k
  all_goals (repeat' (first | with_reducible assumption | (rename_i ih; with_reducible apply ih) | with_reducible apply State.startHewers_kept |
                            (intro _) | split | dsimp only [StepKept, OutKept, IssueKept, MicroKept, OptKept, done] |
                            simp only [kept_mk_eq] | with_reducible apply keptC_of | with_reducible apply keptC_marks |
                            with_reducible apply keptC_regs | with_reducible exact kept_fst (by assumption) (by assumption)))
  all_goals first | done | simp_all

theorem State.bootFinish_kept {dv : Nat} (s : State) (h_s : Kept dv s) : Kept dv (State.bootFinish s) := by
  unfold State.bootFinish
  try dsimp only
  repeat' (first | with_reducible assumption | with_reducible apply State.setFld_kept | with_reducible apply State.raise_kept |
                 with_reducible apply State.setStage_kept | with_reducible apply State.startShafts_kept | (intro _) | split |
                 dsimp only [StepKept, OutKept, IssueKept, MicroKept, OptKept, done] | simp only [kept_mk_eq] |
                 with_reducible apply keptC_of | with_reducible apply keptC_marks | with_reducible apply keptC_regs |
                 with_reducible exact kept_fst (by assumption) (by assumption))

theorem execBootApply_kept {dv : Nat} (items : List (List BootItem)) (s : State) (h_s : Kept dv s) : OutKept dv (execBootApply items s)
    := by
  unfold execBootApply
  try dsimp only
  repeat' (first | with_reducible assumption | with_reducible apply done_kept | with_reducible apply State.setStage_kept |
                 with_reducible apply State.bootLode_kept | with_reducible apply State.bootTypes_kept |
                 with_reducible apply State.bootFinish_kept | (intro _) | split |
                 dsimp only [StepKept, OutKept, IssueKept, MicroKept, OptKept, done] | simp only [kept_mk_eq] |
                 with_reducible apply keptC_of | with_reducible apply keptC_marks | with_reducible apply keptC_regs |
                 with_reducible exact kept_fst (by assumption) (by assumption))

theorem State.testTwins_kept {dv : Nat} (s : State) (mask n t : Nat) (h_s : Kept dv s) : Kept dv (State.testTwins s mask n t) := by
  fun_induction State.testTwins s mask n t
  all_goals (repeat' (first | with_reducible assumption | (rename_i ih; with_reducible apply ih) | with_reducible apply State.twinLasting_kept |
                            (intro _) | split | dsimp only [StepKept, OutKept, IssueKept, MicroKept, OptKept, done] |
                            simp only [kept_mk_eq] | with_reducible apply keptC_of | with_reducible apply keptC_marks |
                            with_reducible apply keptC_regs | with_reducible exact kept_fst (by assumption) (by assumption)))
  all_goals first | done | simp_all

theorem State.testWays_kept {dv : Nat} (s : State) (l : List (Fin 1024)) (h_s : Kept dv s) : Kept dv (State.testWays s l) := by
  fun_induction State.testWays s l
  all_goals (repeat' (first | with_reducible assumption | (rename_i ih; with_reducible apply ih) | with_reducible apply State.count_kept |
                            with_reducible apply State.wayLasting_kept | (intro _) | split |
                            dsimp only [StepKept, OutKept, IssueKept, MicroKept, OptKept, done] | simp only [kept_mk_eq] |
                            with_reducible apply keptC_of | with_reducible apply keptC_marks | with_reducible apply keptC_regs |
                            with_reducible exact kept_fst (by assumption) (by assumption)))
  all_goals first | done | simp_all

theorem execSelfTestEnd_kept {dv : Nat} (twins : BitVec 576) (ways : List (Fin 1024)) (channels : BitVec 32) (hub : Bool) (s : State)
    (h_s : Kept dv s) : OutKept dv (execSelfTestEnd twins ways channels hub s) := by
  unfold execSelfTestEnd
  try dsimp only
  repeat' (first | with_reducible assumption | with_reducible apply State.setFld_kept | with_reducible apply State.raise_kept |
                 with_reducible apply done_kept | with_reducible apply State.toMode_kept | with_reducible apply State.testTwins_kept |
                 with_reducible apply State.testWays_kept | (intro _) | split |
                 dsimp only [StepKept, OutKept, IssueKept, MicroKept, OptKept, done] | simp only [kept_mk_eq] |
                 with_reducible apply keptC_of | with_reducible apply keptC_marks | with_reducible apply keptC_regs |
                 with_reducible exact kept_fst (by assumption) (by assumption))

theorem State.withFetchWord_kept {dv : Nat} (s : State) (nbits w : Nat) (h_s : Kept dv s) : Kept dv (State.withFetchWord s nbits w) :=
    by
  unfold State.withFetchWord
  try dsimp only
  repeat' (first | with_reducible assumption | (intro _) | split | dsimp only [StepKept, OutKept, IssueKept, MicroKept, OptKept, done] |
                 simp only [kept_mk_eq] | with_reducible apply keptC_of | with_reducible apply keptC_marks |
                 with_reducible apply keptC_regs | with_reducible exact kept_fst (by assumption) (by assumption))

end Sys2Proof.Machine
end

