-- ==== Sys2Proof/WellFormed.lean ====
section
/-!
DEFINITION. The operands that a command of the table can have beyond their types: lengths of frames, of requests and of
lists of readings. `exec` is total; an ill-formed command stands for nothing that happens.
-/
namespace Sys2Proof

/-- Bytes of a host request's data: 1 to 4,096 (R607, R611). -/
def dataOk (l : List Byte) : Bool := decide (1 ≤ l.length) && decide (l.length ≤ 4096)

/-- The sections of an image: at most 64 (R726), each IO write of 4 or 8 bytes (R5). -/
def itemsOk (l : List (List BootItem)) : Bool :=
  decide (l.length ≤ 64) && l.all (fun s => s.all (fun i => match i with | .io _ z _ => decide (2 ≤ z.val) | _ => true))

/-- The code corrects errors of one or two symbols of a codeword (R492). -/
def codeOk (r : CodeResult) : Bool :=
  match r with
  | .corrected m =>
    let n := ((List.range 36).filter (fun i => m.getLsbD i)).length
    n = 1 || n = 2
  | _ => true

/-- Can the command occur? -/
def Instr.wellFormed : Instr → Bool
  | .decimatedSample conv => decide (1 ≤ conv.length) && conv.all (fun c => decide (c.length = 16))
  | .thermalAdjust temps => decide (temps.length = 9)
  | .bwWindowEnd counts => decide (counts.length = 50)
  | .frameReceived _ bytes _ => decide (14 ≤ bytes.length)
  | .bar0Read _ _ len => decide (1 ≤ len.val)
  | .bar2Read _ _ len => decide (1 ≤ len.val)
  | .bar0Write _ _ data _ _ => dataOk data
  | .bar2Write _ _ data _ => dataOk data
  | .recordPortWrite _ data _ => dataOk data
  | .aditRecordWrite _ _ data _ => dataOk data
  | .bootEarlySections items _ _ => itemsOk items
  | .bootApply items => itemsOk items
  | .dramRead _ _ cw0 cw1 _ => codeOk cw0 && codeOk cw1
  | _ => true

end Sys2Proof
end

