-- ==== Sys2Proof/Laws/PerInstr.lean ====
section
/-!
SUPPORT. Well-formedness, command by command: the commands that carry a length are well formed exactly for the lengths their
rules give, and every other command is well formed whatever its operands.
-/
namespace Sys2Proof.Laws.WellFormed

/-- What well-formedness says of a command. -/
def Statement (i : Instr) : Prop :=
  match i with
  | .decimatedSample conv => i.wellFormed = true ↔ 1 ≤ conv.length ∧ ∀ c ∈ conv, c.length = 16
  | .thermalAdjust temps => i.wellFormed = true ↔ temps.length = 9
  | .bwWindowEnd counts => i.wellFormed = true ↔ counts.length = 50
  | .frameReceived _ bytes _ => i.wellFormed = true ↔ 14 ≤ bytes.length
  | .bar0Read _ _ len => i.wellFormed = true ↔ 1 ≤ len.val
  | .bar2Read _ _ len => i.wellFormed = true ↔ 1 ≤ len.val
  | .bar0Write _ _ data _ _ => i.wellFormed = true ↔ 1 ≤ data.length ∧ data.length ≤ 4096
  | .bar2Write _ _ data _ => i.wellFormed = true ↔ 1 ≤ data.length ∧ data.length ≤ 4096
  | .recordPortWrite _ data _ => i.wellFormed = true ↔ 1 ≤ data.length ∧ data.length ≤ 4096
  | .aditRecordWrite _ _ data _ => i.wellFormed = true ↔ 1 ≤ data.length ∧ data.length ≤ 4096
  | .bootEarlySections items _ _ => i.wellFormed = true ↔ items.length ≤ 64 ∧ ∀ l ∈ items, ∀ a z v, BootItem.io a z v ∈ l → 2 ≤ z.val
  | .bootApply items => i.wellFormed = true ↔ items.length ≤ 64 ∧ ∀ l ∈ items, ∀ a z v, BootItem.io a z v ∈ l → 2 ≤ z.val
  | .dramRead _ _ cw0 cw1 _ => i.wellFormed = true ↔ ∀ m, CodeResult.corrected m = cw0 ∨ CodeResult.corrected m = cw1 →
      ((List.range 36).filter (fun k => m.getLsbD k)).length = 1 ∨ ((List.range 36).filter (fun k => m.getLsbD k)).length = 2
  | _ => i.wellFormed = true

theorem code_ok (r : CodeResult) : codeOk r = true ↔ ∀ m, CodeResult.corrected m = r →
    ((List.range 36).filter (fun k => m.getLsbD k)).length = 1 ∨ ((List.range 36).filter (fun k => m.getLsbD k)).length = 2 := by
  cases r <;> simp [codeOk]

theorem items_ok (l : List (List BootItem)) :
    itemsOk l = true ↔ l.length ≤ 64 ∧ ∀ x ∈ l, ∀ a z v, BootItem.io a z v ∈ x → 2 ≤ z.val := by
  unfold itemsOk
  simp only [Bool.and_eq_true, decide_eq_true_eq, List.all_eq_true]
  constructor
  · rintro ⟨h1, h2⟩
    refine ⟨h1, fun x hx a z v hi => ?_⟩
    have h3 := h2 x hx _ hi
    simpa using h3
  · rintro ⟨h1, h2⟩
    refine ⟨h1, fun x hx i hi => ?_⟩
    cases i with
    | io a z v => simpa using h2 x hx a z v hi
    | _ => rfl

theorem add x0 x1 x2 x3 : Statement (.add x0 x1 x2 x3) := rfl
theorem adc x0 x1 x2 x3 : Statement (.adc x0 x1 x2 x3) := rfl
theorem sub x0 x1 x2 x3 : Statement (.sub x0 x1 x2 x3) := rfl
theorem sbc x0 x1 x2 x3 : Statement (.sbc x0 x1 x2 x3) := rfl
theorem cmp x0 x1 x2 : Statement (.cmp x0 x1 x2) := rfl
theorem and x0 x1 x2 x3 : Statement (.and x0 x1 x2 x3) := rfl
theorem or x0 x1 x2 x3 : Statement (.or x0 x1 x2 x3) := rfl
theorem xor x0 x1 x2 x3 : Statement (.xor x0 x1 x2 x3) := rfl
theorem andn x0 x1 x2 x3 : Statement (.andn x0 x1 x2 x3) := rfl
theorem test x0 x1 x2 : Statement (.test x0 x1 x2) := rfl
theorem shl x0 x1 x2 x3 : Statement (.shl x0 x1 x2 x3) := rfl
theorem shr x0 x1 x2 x3 : Statement (.shr x0 x1 x2 x3) := rfl
theorem sar x0 x1 x2 x3 : Statement (.sar x0 x1 x2 x3) := rfl
theorem ror x0 x1 x2 x3 : Statement (.ror x0 x1 x2 x3) := rfl
theorem mov x0 x1 x2 : Statement (.mov x0 x1 x2) := rfl
theorem pick x0 x1 x2 x3 x4 : Statement (.pick x0 x1 x2 x3 x4) := rfl
theorem mul x0 x1 x2 x3 : Statement (.mul x0 x1 x2 x3) := rfl
theorem mulu x0 x1 x2 x3 : Statement (.mulu x0 x1 x2 x3) := rfl
theorem mulh x0 x1 x2 x3 : Statement (.mulh x0 x1 x2 x3) := rfl
theorem mulhu x0 x1 x2 x3 : Statement (.mulhu x0 x1 x2 x3) := rfl
theorem div x0 x1 x2 x3 : Statement (.div x0 x1 x2 x3) := rfl
theorem divu x0 x1 x2 x3 : Statement (.divu x0 x1 x2 x3) := rfl
theorem rem x0 x1 x2 x3 : Statement (.rem x0 x1 x2 x3) := rfl
theorem remu x0 x1 x2 x3 : Statement (.remu x0 x1 x2 x3) := rfl
theorem addi x0 x1 x2 x3 : Statement (.addi x0 x1 x2 x3) := rfl
theorem cmpi x0 x1 x2 : Statement (.cmpi x0 x1 x2) := rfl
theorem andi x0 x1 x2 x3 : Statement (.andi x0 x1 x2 x3) := rfl
theorem ori x0 x1 x2 x3 : Statement (.ori x0 x1 x2 x3) := rfl
theorem xori x0 x1 x2 x3 : Statement (.xori x0 x1 x2 x3) := rfl
theorem shlByImmediate x0 x1 x2 x3 : Statement (.shlByImmediate x0 x1 x2 x3) := rfl
theorem shrByImmediate x0 x1 x2 x3 : Statement (.shrByImmediate x0 x1 x2 x3) := rfl
theorem sarByImmediate x0 x1 x2 x3 : Statement (.sarByImmediate x0 x1 x2 x3) := rfl
theorem rorByImmediate x0 x1 x2 x3 : Statement (.rorByImmediate x0 x1 x2 x3) := rfl
theorem li x0 x1 x2 : Statement (.li x0 x1 x2) := rfl
theorem movk x0 x1 x2 x3 : Statement (.movk x0 x1 x2 x3) := rfl
theorem load x0 x1 x2 x3 x4 x5 x6 : Statement (.load x0 x1 x2 x3 x4 x5 x6) := rfl
theorem store x0 x1 x2 x3 x4 x5 : Statement (.store x0 x1 x2 x3 x4 x5) := rfl
theorem loadIndexed x0 x1 x2 x3 x4 x5 x6 : Statement (.loadIndexed x0 x1 x2 x3 x4 x5 x6) := rfl
theorem storeIndexed x0 x1 x2 x3 x4 x5 : Statement (.storeIndexed x0 x1 x2 x3 x4 x5) := rfl
theorem loadReturn x0 x1 : Statement (.loadReturn x0 x1) := rfl
theorem push x0 x1 : Statement (.push x0 x1) := rfl
theorem pop x0 x1 : Statement (.pop x0 x1) := rfl
theorem ldx x0 x1 x2 x3 x4 x5 : Statement (.ldx x0 x1 x2 x3 x4 x5) := rfl
theorem stx x0 x1 x2 x3 x4 x5 x6 : Statement (.stx x0 x1 x2 x3 x4 x5 x6) := rfl
theorem amoAdd x0 x1 x2 x3 x4 x5 x6 : Statement (.amoAdd x0 x1 x2 x3 x4 x5 x6) := rfl
theorem amoSwap x0 x1 x2 x3 x4 x5 x6 : Statement (.amoSwap x0 x1 x2 x3 x4 x5 x6) := rfl
theorem amoAnd x0 x1 x2 x3 x4 x5 x6 : Statement (.amoAnd x0 x1 x2 x3 x4 x5 x6) := rfl
theorem amoOr x0 x1 x2 x3 x4 x5 x6 : Statement (.amoOr x0 x1 x2 x3 x4 x5 x6) := rfl
theorem amoMin x0 x1 x2 x3 x4 x5 x6 : Statement (.amoMin x0 x1 x2 x3 x4 x5 x6) := rfl
theorem amoMax x0 x1 x2 x3 x4 x5 x6 : Statement (.amoMax x0 x1 x2 x3 x4 x5 x6) := rfl
theorem amoMinu x0 x1 x2 x3 x4 x5 x6 : Statement (.amoMinu x0 x1 x2 x3 x4 x5 x6) := rfl
theorem amoMaxu x0 x1 x2 x3 x4 x5 x6 : Statement (.amoMaxu x0 x1 x2 x3 x4 x5 x6) := rfl
theorem bCond x0 x1 x2 x3 : Statement (.bCond x0 x1 x2 x3) := rfl
theorem jmp x0 x1 x2 : Statement (.jmp x0 x1 x2) := rfl
theorem call x0 x1 x2 : Statement (.call x0 x1 x2) := rfl
theorem jmpr x0 x1 x2 : Statement (.jmpr x0 x1 x2) := rfl
theorem callr x0 x1 x2 : Statement (.callr x0 x1 x2) := rfl
theorem ret x0 x1 : Statement (.ret x0 x1) := rfl
theorem fadd x0 x1 x2 x3 x4 : Statement (.fadd x0 x1 x2 x3 x4) := rfl
theorem fsub x0 x1 x2 x3 x4 : Statement (.fsub x0 x1 x2 x3 x4) := rfl
theorem fmul x0 x1 x2 x3 x4 : Statement (.fmul x0 x1 x2 x3 x4) := rfl
theorem fdiv x0 x1 x2 x3 x4 : Statement (.fdiv x0 x1 x2 x3 x4) := rfl
theorem fsqrt x0 x1 x2 x3 : Statement (.fsqrt x0 x1 x2 x3) := rfl
theorem fmin x0 x1 x2 x3 x4 : Statement (.fmin x0 x1 x2 x3 x4) := rfl
theorem fmax x0 x1 x2 x3 x4 : Statement (.fmax x0 x1 x2 x3 x4) := rfl
theorem fabs x0 x1 x2 x3 : Statement (.fabs x0 x1 x2 x3) := rfl
theorem fneg x0 x1 x2 x3 : Statement (.fneg x0 x1 x2 x3) := rfl
theorem fmadd x0 x1 x2 x3 x4 x5 : Statement (.fmadd x0 x1 x2 x3 x4 x5) := rfl
theorem fmsub x0 x1 x2 x3 x4 x5 : Statement (.fmsub x0 x1 x2 x3 x4 x5) := rfl
theorem fnmsub x0 x1 x2 x3 x4 x5 : Statement (.fnmsub x0 x1 x2 x3 x4 x5) := rfl
theorem fnmadd x0 x1 x2 x3 x4 x5 : Statement (.fnmadd x0 x1 x2 x3 x4 x5) := rfl
theorem fcmp x0 x1 x2 x3 : Statement (.fcmp x0 x1 x2 x3) := rfl
theorem fcmpe x0 x1 x2 x3 : Statement (.fcmpe x0 x1 x2 x3) := rfl
theorem fcvtI x0 x1 x2 x3 : Statement (.fcvtI x0 x1 x2 x3) := rfl
theorem fcvtU x0 x1 x2 x3 : Statement (.fcvtU x0 x1 x2 x3) := rfl
theorem icvt x0 x1 x2 x3 : Statement (.icvt x0 x1 x2 x3) := rfl
theorem ucvt x0 x1 x2 x3 : Statement (.ucvt x0 x1 x2 x3) := rfl
theorem fcvtSd x0 x1 x2 : Statement (.fcvtSd x0 x1 x2) := rfl
theorem fcvtDs x0 x1 x2 : Statement (.fcvtDs x0 x1 x2) := rfl
theorem vmovWv x0 x1 x2 x3 x4 : Statement (.vmovWv x0 x1 x2 x3 x4) := rfl
theorem vmovVw x0 x1 x2 x3 x4 : Statement (.vmovVw x0 x1 x2 x3 x4) := rfl
theorem vadd x0 x1 x2 x3 x4 : Statement (.vadd x0 x1 x2 x3 x4) := rfl
theorem vsub x0 x1 x2 x3 x4 : Statement (.vsub x0 x1 x2 x3 x4) := rfl
theorem vand x0 x1 x2 x3 x4 : Statement (.vand x0 x1 x2 x3 x4) := rfl
theorem vor x0 x1 x2 x3 x4 : Statement (.vor x0 x1 x2 x3 x4) := rfl
theorem vxor x0 x1 x2 x3 x4 : Statement (.vxor x0 x1 x2 x3 x4) := rfl
theorem ioIn x0 x1 x2 x3 x4 : Statement (.ioIn x0 x1 x2 x3 x4) := rfl
theorem ioOut x0 x1 x2 x3 x4 : Statement (.ioOut x0 x1 x2 x3 x4) := rfl
theorem mfs x0 x1 x2 : Statement (.mfs x0 x1 x2) := rfl
theorem mts x0 x1 x2 : Statement (.mts x0 x1 x2) := rfl
theorem nop x0 : Statement (.nop x0) := rfl
theorem sys x0 : Statement (.sys x0) := rfl
theorem mon x0 : Statement (.mon x0) := rfl
theorem eret x0 : Statement (.eret x0) := rfl
theorem tend x0 x1 : Statement (.tend x0 x1) := rfl
theorem sync x0 : Statement (.sync x0) := rfl
theorem ifence x0 : Statement (.ifence x0) := rfl
theorem cdtsync x0 : Statement (.cdtsync x0) := rfl
theorem fenceR x0 : Statement (.fenceR x0) := rfl
theorem fenceW x0 : Statement (.fenceW x0) := rfl
theorem fenceRw x0 : Statement (.fenceRw x0) := rfl
theorem xinvA x0 x1 x2 x3 : Statement (.xinvA x0 x1 x2 x3) := rfl
theorem xinvT x0 x1 x2 : Statement (.xinvT x0 x1 x2) := rfl
theorem xinvAll x0 x1 : Statement (.xinvAll x0 x1) := rfl
theorem xinvComplete x0 x1 : Statement (.xinvComplete x0 x1) := rfl
theorem rep x0 x1 : Statement (.rep x0 x1) := rfl
theorem customerInstruction x0 x1 x2 x3 x4 x5 : Statement (.customerInstruction x0 x1 x2 x3 x4 x5) := rfl
theorem softwareBreakpoint x0 : Statement (.softwareBreakpoint x0) := rfl
theorem illegalInstruction x0 x1 : Statement (.illegalInstruction x0 x1) := rfl
theorem cdtBroadcastComplete : Statement .cdtBroadcastComplete := rfl
theorem enable x0 : Statement (.enable x0) := rfl
theorem disable x0 x1 : Statement (.disable x0 x1) := rfl
theorem disableComplete : Statement .disableComplete := rfl
theorem update x0 x1 : Statement (.update x0 x1) := rfl
theorem updateCopy : Statement .updateCopy := rfl
theorem periodicRelease x0 : Statement (.periodicRelease x0) := rfl
theorem commandedRelease x0 x1 : Statement (.commandedRelease x0 x1) := rfl
theorem gatherStart : Statement .gatherStart := rfl
theorem packetLanded x0 : Statement (.packetLanded x0) := rfl
theorem noPlacement x0 : Statement (.noPlacement x0) := rfl
theorem deadlineMiss x0 : Statement (.deadlineMiss x0) := rfl
theorem distributorMove x0 : Statement (.distributorMove x0) := rfl
theorem taskArrival x0 : Statement (.taskArrival x0) := rfl
theorem resultAccept x0 : Statement (.resultAccept x0) := rfl
theorem commit x0 : Statement (.commit x0) := rfl
theorem budgetExpiry x0 : Statement (.budgetExpiry x0) := rfl
theorem drtEnSet : Statement .drtEnSet := rfl
theorem regionLocked : Statement .regionLocked := rfl
theorem drtEnClear : Statement .drtEnClear := rfl
theorem tier1Steal x0 : Statement (.tier1Steal x0) := rfl
theorem tier2Request x0 : Statement (.tier2Request x0) := rfl
theorem tier2Steal : Statement .tier2Steal := rfl
theorem tier2CopyDone x0 : Statement (.tier2CopyDone x0) := rfl
theorem threadRestore x0 : Statement (.threadRestore x0) := rfl
theorem hewerPoolWrite x0 x1 : Statement (.hewerPoolWrite x0 x1) := rfl
theorem galleryPoolWrite x0 : Statement (.galleryPoolWrite x0) := rfl
theorem lodeWriteApply : Statement .lodeWriteApply := rfl
theorem softwareWrite x0 x1 : Statement (.softwareWrite x0 x1) := rfl
theorem forceSet x0 : Statement (.forceSet x0) := rfl
theorem forceClear x0 : Statement (.forceClear x0) := rfl
theorem lodAdvance : Statement .lodAdvance := rfl
theorem epochClose : Statement .epochClose := rfl
theorem lodWinCommit x0 : Statement (.lodWinCommit x0) := rfl
theorem windowCommitEffect : Statement .windowCommitEffect := rfl
theorem lodCfgDataWrite x0 : Statement (.lodCfgDataWrite x0) := rfl
theorem initDone : Statement .initDone := rfl
theorem lodeScrub x0 x1 x2 : Statement (.lodeScrub x0 x1 x2) := rfl
theorem syncReceived x0 x1 x2 x3 x4 x5 x6 x7 : Statement (.syncReceived x0 x1 x2 x3 x4 x5 x6 x7) := rfl
theorem bmcaSelection x0 x1 x2 x3 : Statement (.bmcaSelection x0 x1 x2 x3) := rfl
theorem syncTimeout : Statement .syncTimeout := rfl
theorem holdoverExpiry : Statement .holdoverExpiry := rfl
theorem syncTransmit x0 : Statement (.syncTransmit x0) := rfl
theorem pdelayReqTransmit x0 : Statement (.pdelayReqTransmit x0) := rfl
theorem syncEnWrite x0 : Statement (.syncEnWrite x0) := rfl
theorem timSet x0 : Statement (.timSet x0) := rfl
theorem compareUnitWrite x0 x1 x2 : Statement (.compareUnitWrite x0 x1 x2) := rfl
theorem compareUnitFire x0 : Statement (.compareUnitFire x0) := rfl
theorem interruptEntry x0 : Statement (.interruptEntry x0) := rfl
theorem hwrIhiSet x0 x1 : Statement (.hwrIhiSet x0 x1) := rfl
theorem hwrXrouteWrite x0 x1 x2 : Statement (.hwrXrouteWrite x0 x1 x2) := rfl
theorem canaryKick x0 x1 : Statement (.canaryKick x0 x1) := rfl
theorem canaryPrewarning x0 : Statement (.canaryPrewarning x0) := rfl
theorem canaryExpiry x0 : Statement (.canaryExpiry x0) := rfl
theorem canaryMachineCheck x0 : Statement (.canaryMachineCheck x0) := rfl
theorem expiredClear x0 x1 : Statement (.expiredClear x0 x1) := rfl
theorem deviceCanaryKick x0 x1 : Statement (.deviceCanaryKick x0 x1) := rfl
theorem canDevCtlWrite x0 : Statement (.canDevCtlWrite x0) := rfl
theorem deviceCanaryPrewarning : Statement .deviceCanaryPrewarning := rfl
theorem deviceCanaryExpiry : Statement .deviceCanaryExpiry := rfl
theorem forcedMEntry x0 : Statement (.forcedMEntry x0) := rfl
theorem requestSelfTest : Statement .requestSelfTest := rfl
theorem requestRun : Statement .requestRun := rfl
theorem requestStandby : Statement .requestStandby := rfl
theorem requestMaintenance : Statement .requestMaintenance := rfl
theorem requestSafeHold : Statement .requestSafeHold := rfl
theorem requestConfigure : Statement .requestConfigure := rfl
theorem runDecision : Statement .runDecision := rfl
theorem twinCompareFailure x0 x1 x2 : Statement (.twinCompareFailure x0 x1 x2) := rfl
theorem twinSubstitution x0 : Statement (.twinSubstitution x0) := rfl
theorem hubMismatch x0 : Statement (.hubMismatch x0) := rfl
theorem retire x0 x1 : Statement (.retire x0 x1) := rfl
theorem returnToService x0 x1 : Statement (.returnToService x0 x1) := rfl
theorem retireComplete : Statement .retireComplete := rfl
theorem logRecordWrite : Statement .logRecordWrite := rfl
theorem memL2PldCtlWrite x0 : Statement (.memL2PldCtlWrite x0) := rfl
theorem preloadDone : Statement .preloadDone := rfl
theorem cachePatrolScrub x0 x1 x2 x3 : Statement (.cachePatrolScrub x0 x1 x2 x3) := rfl
theorem dramRead x0 x1 x2 x3 x4 : Statement (.dramRead x0 x1 x2 x3 x4) := by
  simp only [Statement, Instr.wellFormed, Bool.and_eq_true, code_ok]
  exact ⟨fun h m e => e.elim (h.1 m) (h.2 m), fun h => ⟨fun m e => h m (.inl e), fun m e => h m (.inr e)⟩⟩
theorem dramWrite x0 : Statement (.dramWrite x0) := rfl
theorem dramActivate x0 x1 x2 x3 : Statement (.dramActivate x0 x1 x2 x3) := rfl
theorem rfm x0 x1 : Statement (.rfm x0 x1) := rfl
theorem firedampWindowEnd x0 : Statement (.firedampWindowEnd x0) := rfl
theorem refresh x0 x1 x2 : Statement (.refresh x0 x1 x2) := rfl
theorem mr4Poll x0 x1 x2 x3 : Statement (.mr4Poll x0 x1 x2 x3) := rfl
theorem rowIdleClose x0 x1 : Statement (.rowIdleClose x0 x1) := rfl
theorem zqCalibration x0 : Statement (.zqCalibration x0) := rfl
theorem wck2dqiRetrain x0 x1 x2 : Statement (.wck2dqiRetrain x0 x1 x2) := rfl
theorem frameReceived x0 x1 x2 : Statement (.frameReceived x0 x1 x2) := by simp [Statement, Instr.wellFormed]
theorem partnerFrameReceived x0 x1 x2 x3 x4 x5 : Statement (.partnerFrameReceived x0 x1 x2 x3 x4 x5) := rfl
theorem egressRead x0 : Statement (.egressRead x0) := rfl
theorem frameTransmit x0 : Statement (.frameTransmit x0) := rfl
theorem egressEntryCommit x0 : Statement (.egressEntryCommit x0) := rfl
theorem gclCommit x0 x1 : Statement (.gclCommit x0 x1) := rfl
theorem gclInForce x0 : Statement (.gclInForce x0) := rfl
theorem plkLinkDown x0 x1 : Statement (.plkLinkDown x0 x1) := rfl
theorem plkLinkUp x0 : Statement (.plkLinkUp x0) := rfl
theorem portCtlWrite x0 x1 : Statement (.portCtlWrite x0 x1) := rfl
theorem partnerFrameSend : Statement .partnerFrameSend := rfl
theorem plkPartnerLost : Statement .plkPartnerLost := rfl
theorem mgmtTxTailWrite x0 : Statement (.mgmtTxTailWrite x0) := rfl
theorem mgmtTxSend : Statement .mgmtTxSend := rfl
theorem pcsLockLost x0 : Statement (.pcsLockLost x0) := rfl
theorem pcsLockAcquired x0 : Statement (.pcsLockAcquired x0) := rfl
theorem takeover : Statement .takeover := rfl
theorem dualRun : Statement .dualRun := rfl
theorem shadowCommit x0 : Statement (.shadowCommit x0) := rfl
theorem shadowWithdraw x0 : Statement (.shadowWithdraw x0) := rfl
theorem handOver x0 : Statement (.handOver x0) := rfl
theorem unitReadReturn x0 x1 : Statement (.unitReadReturn x0 x1) := rfl
theorem unitRetry x0 : Statement (.unitRetry x0) := rfl
theorem transferComplete x0 : Statement (.transferComplete x0) := rfl
theorem skpDisWrite x0 : Statement (.skpDisWrite x0) := rfl
theorem skpHaltClear x0 : Statement (.skpHaltClear x0) := rfl
theorem skpOwnerWrite x0 x1 : Statement (.skpOwnerWrite x0 x1) := rfl
theorem unitWriteIssue x0 : Statement (.unitWriteIssue x0) := rfl
theorem create x0 : Statement (.create x0) := rfl
theorem destroy x0 : Statement (.destroy x0) := rfl
theorem aditCmdComplete : Statement .aditCmdComplete := rfl
theorem adtPoolWrite x0 : Statement (.adtPoolWrite x0) := rfl
theorem mailboxWrite x0 x1 x2 x3 : Statement (.mailboxWrite x0 x1 x2 x3) := rfl
theorem ringMgr x0 : Statement (.ringMgr x0) := rfl
theorem ackMgr x0 : Statement (.ackMgr x0) := rfl
theorem ringVf x0 : Statement (.ringVf x0) := rfl
theorem ackVf x0 : Statement (.ackVf x0) := rfl
theorem queryEnable x0 x1 x2 : Statement (.queryEnable x0 x1 x2) := rfl
theorem queryEnableDone x0 x1 : Statement (.queryEnableDone x0 x1) := rfl
theorem queryGo x0 x1 : Statement (.queryGo x0 x1) := rfl
theorem queryRun x0 : Statement (.queryRun x0) := rfl
theorem queryHeadWrite x0 x1 x2 : Statement (.queryHeadWrite x0 x1 x2) := rfl
theorem aditRecordWrite x0 x1 x2 x3 : Statement (.aditRecordWrite x0 x1 x2 x3) := by simp [Statement, Instr.wellFormed, dataOk]
theorem bar2Read x0 x1 x2 : Statement (.bar2Read x0 x1 x2) := by simp [Statement, Instr.wellFormed]
theorem bar2Write x0 x1 x2 x3 : Statement (.bar2Write x0 x1 x2 x3) := by simp [Statement, Instr.wellFormed, dataOk]
theorem recordPortWrite x0 x1 x2 : Statement (.recordPortWrite x0 x1 x2) := by simp [Statement, Instr.wellFormed, dataOk]
theorem hostCompletion x0 x1 x2 x3 : Statement (.hostCompletion x0 x1 x2 x3) := rfl
theorem completionTimeout x0 : Statement (.completionTimeout x0) := rfl
theorem freeze x0 x1 x2 : Statement (.freeze x0 x1 x2) := rfl
theorem hepFreezeRelease x0 : Statement (.hepFreezeRelease x0) := rfl
theorem functionLevelReset x0 : Statement (.functionLevelReset x0) := rfl
theorem flrComplete x0 : Statement (.flrComplete x0) := rfl
theorem perstNAssert : Statement .perstNAssert := rfl
theorem perstNDeassert : Statement .perstNDeassert := rfl
theorem hepLinkDown : Statement .hepLinkDown := rfl
theorem hepLinkUp x0 x1 : Statement (.hepLinkUp x0 x1) := rfl
theorem powerStateChange x0 x1 : Statement (.powerStateChange x0 x1) := rfl
theorem configurationWrite x0 x1 : Statement (.configurationWrite x0 x1) := rfl
theorem decimatedSample x0 : Statement (.decimatedSample x0) := by simp [Statement, Instr.wellFormed]
theorem encoderTransition x0 x1 x2 x3 : Statement (.encoderTransition x0 x1 x2 x3) := rfl
theorem digitalEdge x0 x1 : Statement (.digitalEdge x0 x1) := rfl
theorem outputEgressRead x0 : Statement (.outputEgressRead x0) := rfl
theorem pwmPeriodStart x0 : Statement (.pwmPeriodStart x0) := rfl
theorem anmCalibrationDone : Statement .anmCalibrationDone := rfl
theorem rootPllLossOfLock : Statement .rootPllLossOfLock := rfl
theorem refclkStop : Statement .refclkStop := rfl
theorem refclkRestart : Statement .refclkRestart := rfl
theorem pllRelock x0 : Statement (.pllRelock x0) := rfl
theorem pwrDomReqWrite x0 : Statement (.pwrDomReqWrite x0) := rfl
theorem powerDomainSwitched x0 : Statement (.powerDomainSwitched x0) := rfl
theorem thermalAdjust x0 : Statement (.thermalAdjust x0) := by simp [Statement, Instr.wellFormed]
theorem thermalTrip x0 : Statement (.thermalTrip x0) := rfl
theorem thermalTripEnd x0 : Statement (.thermalTripEnd x0) := rfl
theorem cclkStep x0 : Statement (.cclkStep x0) := rfl
theorem haltTakesEffect x0 : Statement (.haltTakesEffect x0) := rfl
theorem verifyComplete : Statement .verifyComplete := rfl
theorem lockoutExpiry : Statement .lockoutExpiry := rfl
theorem rootKeyProgrammed : Statement .rootKeyProgrammed := rfl
theorem pornLow : Statement .pornLow := rfl
theorem pornRise x0 x1 : Statement (.pornRise x0 x1) := rfl
theorem porPllLock : Statement .porPllLock := rfl
theorem bootDiscovery x0 x1 x2 : Statement (.bootDiscovery x0 x1 x2) := rfl
theorem bootHeader x0 : Statement (.bootHeader x0) := rfl
theorem bootEarlySections x0 x1 x2 : Statement (.bootEarlySections x0 x1 x2) := items_ok _
theorem bootStream x0 : Statement (.bootStream x0) := rfl
theorem bootVerify : Statement .bootVerify := rfl
theorem bootApply x0 : Statement (.bootApply x0) := items_ok _
theorem selfTestEnd x0 x1 x2 x3 : Statement (.selfTestEnd x0 x1 x2 x3) := rfl
theorem tlyStopWrite x0 : Statement (.tlyStopWrite x0) := rfl
theorem counterOverflow x0 x1 x2 : Statement (.counterOverflow x0 x1 x2) := rfl
theorem samplingEnable x0 x1 : Statement (.samplingEnable x0 x1) := rfl
theorem sampleTailWrite x0 x1 : Statement (.sampleTailWrite x0 x1) := rfl
theorem bwWindowEnd x0 : Statement (.bwWindowEnd x0) := by simp [Statement, Instr.wellFormed]
theorem xspiRead : Statement .xspiRead := rfl
theorem xspiProgram : Statement .xspiProgram := rfl
theorem xspiErase : Statement .xspiErase := rfl
theorem xspiOperationComplete x0 : Statement (.xspiOperationComplete x0) := rfl
theorem extest x0 : Statement (.extest x0) := rfl
theorem samplePreload : Statement .samplePreload := rfl
theorem idcode : Statement .idcode := rfl
theorem bypass : Statement .bypass := rfl
theorem dbgpwr x0 : Statement (.dbgpwr x0) := rfl
theorem testLogicReset : Statement .testLogicReset := rfl
theorem nopCommand x0 : Statement (.nopCommand x0) := rfl
theorem setaddr x0 x1 x2 : Statement (.setaddr x0 x1 x2) := rfl
theorem read x0 x1 : Statement (.read x0 x1) := rfl
theorem write x0 x1 x2 : Statement (.write x0 x1 x2) := rfl
theorem vtRead x0 x1 : Statement (.vtRead x0 x1) := rfl
theorem vtWrite x0 x1 x2 : Statement (.vtWrite x0 x1 x2) := rfl
theorem close x0 : Statement (.close x0) := rfl
theorem challenge x0 x1 x2 : Statement (.challenge x0 x1 x2) := rfl
theorem verify x0 x1 x2 : Statement (.verify x0 x1 x2) := rfl
theorem rootKeyProgram x0 x1 : Statement (.rootKeyProgram x0 x1) := rfl
theorem bar0Read x0 x1 x2 : Statement (.bar0Read x0 x1 x2) := by simp [Statement, Instr.wellFormed]
theorem bar0Write x0 x1 x2 x3 x4 : Statement (.bar0Write x0 x1 x2 x3 x4) := by simp [Statement, Instr.wellFormed, dataOk]
theorem registerWrite x0 x1 x2 x3 : Statement (.registerWrite x0 x1 x2 x3) := rfl
theorem cfgCdtWordWrite x0 x1 : Statement (.cfgCdtWordWrite x0 x1) := rfl
theorem cfgCdtEntryWrite x0 x1 x2 : Statement (.cfgCdtEntryWrite x0 x1 x2) := rfl
theorem halt x0 x1 : Statement (.halt x0 x1) := rfl
theorem release x0 x1 : Statement (.release x0 x1) := rfl
theorem step x0 x1 : Statement (.step x0 x1) := rfl
theorem clrCheckstop x0 x1 : Statement (.clrCheckstop x0 x1) := rfl
theorem xtrigHalt x0 x1 x2 : Statement (.xtrigHalt x0 x1 x2) := rfl
theorem xtrigRelease x0 x1 x2 : Statement (.xtrigRelease x0 x1 x2) := rfl
theorem vtxWrite x0 x1 : Statement (.vtxWrite x0 x1) := rfl
theorem vrxRead x0 : Statement (.vrxRead x0) := rfl

end Sys2Proof.Laws.WellFormed
end

