-- ==== Sys2Proof/Laws/State.lean ====
section
/-!
SUPPORT. What each update of the state leaves of each part of it.
-/
namespace Sys2Proof.Machine

@[simp] theorem State.hew_setHew_same (s : State) (h : Nat) (x : Hewer) : (s.setHew h x).hew h = x :=
  Table.get_set_same _ _ _ _

theorem State.hew_setHew_other (s : State) {h k : Nat} (x : Hewer) (hk : k ≠ h) : (s.setHew h x).hew k = s.hew k :=
  Table.get_set_other _ _ _ _ hk

theorem State.setHew_setHew (s : State) (h : Nat) (x y : Hewer) (_ : s.Canonical) : (s.setHew h x).setHew h y = s.setHew h y := by
  unfold State.setHew
  simp only [Table.set_set]

@[simp] theorem State.reg_setReg_same (s : State) (a : Nat) (v : Word) : (s.setReg a v).reg a = v := Table.get_set_same _ _ _ _

theorem State.reg_setReg_other (s : State) {a b : Nat} (v : Word) (h : b ≠ a) : (s.setReg a v).reg b = s.reg b :=
  Table.get_set_other _ _ _ _ h

theorem State.setFld_reg_other (s : State) (f : IoField) (v : Nat) {a : Nat} (h : a ≠ f.addr) : (s.setFld f v).reg a = s.reg a :=
  State.reg_setReg_other s _ h

/-! ### What each update leaves alone: one lemma a field -/

/-! ### setReg -/

@[simp] theorem State.setReg_time (s : State) (a : Nat) (v : Word) : (s.setReg a v).time = s.time := rfl
@[simp] theorem State.setReg_pwr (s : State) (a : Nat) (v : Word) : (s.setReg a v).pwr = s.pwr := rfl
@[simp] theorem State.setReg_can (s : State) (a : Nat) (v : Word) : (s.setReg a v).can = s.can := rfl
@[simp] theorem State.setReg_lode (s : State) (a : Nat) (v : Word) : (s.setReg a v).lode = s.lode := rfl
@[simp] theorem State.setReg_drt (s : State) (a : Nat) (v : Word) : (s.setReg a v).drt = s.drt := rfl
@[simp] theorem State.setReg_hewers (s : State) (a : Nat) (v : Word) : (s.setReg a v).hewers = s.hewers := rfl
@[simp] theorem State.setReg_twins (s : State) (a : Nat) (v : Word) : (s.setReg a v).twins = s.twins := rfl
@[simp] theorem State.setReg_cdt (s : State) (a : Nat) (v : Word) : (s.setReg a v).cdt = s.cdt := rfl
@[simp] theorem State.setReg_mem (s : State) (a : Nat) (v : Word) : (s.setReg a v).mem = s.mem := rfl
@[simp] theorem State.setReg_mc (s : State) (a : Nat) (v : Word) : (s.setReg a v).mc = s.mc := rfl
@[simp] theorem State.setReg_flt (s : State) (a : Nat) (v : Word) : (s.setReg a v).flt = s.flt := rfl
@[simp] theorem State.setReg_plk (s : State) (a : Nat) (v : Word) : (s.setReg a v).plk = s.plk := rfl
@[simp] theorem State.setReg_skp (s : State) (a : Nat) (v : Word) : (s.setReg a v).skp = s.skp := rfl
@[simp] theorem State.setReg_skLast (s : State) (a : Nat) (v : Word) : (s.setReg a v).skLast = s.skLast := rfl
@[simp] theorem State.setReg_adt (s : State) (a : Nat) (v : Word) : (s.setReg a v).adt = s.adt := rfl
@[simp] theorem State.setReg_anm (s : State) (a : Nat) (v : Word) : (s.setReg a v).anm = s.anm := rfl
@[simp] theorem State.setReg_hep (s : State) (a : Nat) (v : Word) : (s.setReg a v).hep = s.hep := rfl
@[simp] theorem State.setReg_dbg (s : State) (a : Nat) (v : Word) : (s.setReg a v).dbg = s.dbg := rfl
@[simp] theorem State.setReg_bwUs (s : State) (a : Nat) (v : Word) : (s.setReg a v).bwUs = s.bwUs := rfl
@[simp] theorem State.setReg_flash (s : State) (a : Nat) (v : Word) : (s.setReg a v).flash = s.flash := rfl
@[simp] theorem State.setReg_xspi (s : State) (a : Nat) (v : Word) : (s.setReg a v).xspi = s.xspi := rfl
@[simp] theorem State.setReg_devnum (s : State) (a : Nat) (v : Word) : (s.setReg a v).devnum = s.devnum := rfl
@[simp] theorem State.setReg_big (s : State) (a : Nat) (v : Word) : (s.setReg a v).big = s.big := rfl
@[simp] theorem State.setReg_freeCtr (s : State) (a : Nat) (v : Word) : (s.setReg a v).freeCtr = s.freeCtr := rfl
@[simp] theorem State.setReg_out (s : State) (a : Nat) (v : Word) : (s.setReg a v).out = s.out := rfl
@[simp] theorem State.setReg_pending (s : State) (a : Nat) (v : Word) : (s.setReg a v).pending = s.pending := rfl

/-! ### setFld -/

@[simp] theorem State.setFld_time (s : State) (f : IoField) (v : Nat) : (s.setFld f v).time = s.time := rfl
@[simp] theorem State.setFld_pwr (s : State) (f : IoField) (v : Nat) : (s.setFld f v).pwr = s.pwr := rfl
@[simp] theorem State.setFld_can (s : State) (f : IoField) (v : Nat) : (s.setFld f v).can = s.can := rfl
@[simp] theorem State.setFld_lode (s : State) (f : IoField) (v : Nat) : (s.setFld f v).lode = s.lode := rfl
@[simp] theorem State.setFld_drt (s : State) (f : IoField) (v : Nat) : (s.setFld f v).drt = s.drt := rfl
@[simp] theorem State.setFld_hewers (s : State) (f : IoField) (v : Nat) : (s.setFld f v).hewers = s.hewers := rfl
@[simp] theorem State.setFld_twins (s : State) (f : IoField) (v : Nat) : (s.setFld f v).twins = s.twins := rfl
@[simp] theorem State.setFld_cdt (s : State) (f : IoField) (v : Nat) : (s.setFld f v).cdt = s.cdt := rfl
@[simp] theorem State.setFld_mem (s : State) (f : IoField) (v : Nat) : (s.setFld f v).mem = s.mem := rfl
@[simp] theorem State.setFld_mc (s : State) (f : IoField) (v : Nat) : (s.setFld f v).mc = s.mc := rfl
@[simp] theorem State.setFld_flt (s : State) (f : IoField) (v : Nat) : (s.setFld f v).flt = s.flt := rfl
@[simp] theorem State.setFld_plk (s : State) (f : IoField) (v : Nat) : (s.setFld f v).plk = s.plk := rfl
@[simp] theorem State.setFld_skp (s : State) (f : IoField) (v : Nat) : (s.setFld f v).skp = s.skp := rfl
@[simp] theorem State.setFld_skLast (s : State) (f : IoField) (v : Nat) : (s.setFld f v).skLast = s.skLast := rfl
@[simp] theorem State.setFld_adt (s : State) (f : IoField) (v : Nat) : (s.setFld f v).adt = s.adt := rfl
@[simp] theorem State.setFld_anm (s : State) (f : IoField) (v : Nat) : (s.setFld f v).anm = s.anm := rfl
@[simp] theorem State.setFld_hep (s : State) (f : IoField) (v : Nat) : (s.setFld f v).hep = s.hep := rfl
@[simp] theorem State.setFld_dbg (s : State) (f : IoField) (v : Nat) : (s.setFld f v).dbg = s.dbg := rfl
@[simp] theorem State.setFld_bwUs (s : State) (f : IoField) (v : Nat) : (s.setFld f v).bwUs = s.bwUs := rfl
@[simp] theorem State.setFld_flash (s : State) (f : IoField) (v : Nat) : (s.setFld f v).flash = s.flash := rfl
@[simp] theorem State.setFld_xspi (s : State) (f : IoField) (v : Nat) : (s.setFld f v).xspi = s.xspi := rfl
@[simp] theorem State.setFld_devnum (s : State) (f : IoField) (v : Nat) : (s.setFld f v).devnum = s.devnum := rfl
@[simp] theorem State.setFld_big (s : State) (f : IoField) (v : Nat) : (s.setFld f v).big = s.big := rfl
@[simp] theorem State.setFld_freeCtr (s : State) (f : IoField) (v : Nat) : (s.setFld f v).freeCtr = s.freeCtr := rfl
@[simp] theorem State.setFld_out (s : State) (f : IoField) (v : Nat) : (s.setFld f v).out = s.out := rfl
@[simp] theorem State.setFld_pending (s : State) (f : IoField) (v : Nat) : (s.setFld f v).pending = s.pending := rfl

/-! ### raise -/

@[simp] theorem State.raise_time (s : State) (f : IoField) : (s.raise f).time = s.time := rfl
@[simp] theorem State.raise_pwr (s : State) (f : IoField) : (s.raise f).pwr = s.pwr := rfl
@[simp] theorem State.raise_can (s : State) (f : IoField) : (s.raise f).can = s.can := rfl
@[simp] theorem State.raise_lode (s : State) (f : IoField) : (s.raise f).lode = s.lode := rfl
@[simp] theorem State.raise_drt (s : State) (f : IoField) : (s.raise f).drt = s.drt := rfl
@[simp] theorem State.raise_hewers (s : State) (f : IoField) : (s.raise f).hewers = s.hewers := rfl
@[simp] theorem State.raise_twins (s : State) (f : IoField) : (s.raise f).twins = s.twins := rfl
@[simp] theorem State.raise_cdt (s : State) (f : IoField) : (s.raise f).cdt = s.cdt := rfl
@[simp] theorem State.raise_mem (s : State) (f : IoField) : (s.raise f).mem = s.mem := rfl
@[simp] theorem State.raise_mc (s : State) (f : IoField) : (s.raise f).mc = s.mc := rfl
@[simp] theorem State.raise_flt (s : State) (f : IoField) : (s.raise f).flt = s.flt := rfl
@[simp] theorem State.raise_plk (s : State) (f : IoField) : (s.raise f).plk = s.plk := rfl
@[simp] theorem State.raise_skp (s : State) (f : IoField) : (s.raise f).skp = s.skp := rfl
@[simp] theorem State.raise_skLast (s : State) (f : IoField) : (s.raise f).skLast = s.skLast := rfl
@[simp] theorem State.raise_adt (s : State) (f : IoField) : (s.raise f).adt = s.adt := rfl
@[simp] theorem State.raise_anm (s : State) (f : IoField) : (s.raise f).anm = s.anm := rfl
@[simp] theorem State.raise_hep (s : State) (f : IoField) : (s.raise f).hep = s.hep := rfl
@[simp] theorem State.raise_dbg (s : State) (f : IoField) : (s.raise f).dbg = s.dbg := rfl
@[simp] theorem State.raise_bwUs (s : State) (f : IoField) : (s.raise f).bwUs = s.bwUs := rfl
@[simp] theorem State.raise_flash (s : State) (f : IoField) : (s.raise f).flash = s.flash := rfl
@[simp] theorem State.raise_xspi (s : State) (f : IoField) : (s.raise f).xspi = s.xspi := rfl
@[simp] theorem State.raise_devnum (s : State) (f : IoField) : (s.raise f).devnum = s.devnum := rfl
@[simp] theorem State.raise_big (s : State) (f : IoField) : (s.raise f).big = s.big := rfl
@[simp] theorem State.raise_freeCtr (s : State) (f : IoField) : (s.raise f).freeCtr = s.freeCtr := rfl
@[simp] theorem State.raise_out (s : State) (f : IoField) : (s.raise f).out = s.out := rfl
@[simp] theorem State.raise_pending (s : State) (f : IoField) : (s.raise f).pending = s.pending := rfl

/-! ### count -/

@[simp] theorem State.count_time (s : State) (f : IoField) (n : Nat) : (s.count f n).time = s.time := rfl
@[simp] theorem State.count_pwr (s : State) (f : IoField) (n : Nat) : (s.count f n).pwr = s.pwr := rfl
@[simp] theorem State.count_can (s : State) (f : IoField) (n : Nat) : (s.count f n).can = s.can := rfl
@[simp] theorem State.count_lode (s : State) (f : IoField) (n : Nat) : (s.count f n).lode = s.lode := rfl
@[simp] theorem State.count_drt (s : State) (f : IoField) (n : Nat) : (s.count f n).drt = s.drt := rfl
@[simp] theorem State.count_hewers (s : State) (f : IoField) (n : Nat) : (s.count f n).hewers = s.hewers := rfl
@[simp] theorem State.count_twins (s : State) (f : IoField) (n : Nat) : (s.count f n).twins = s.twins := rfl
@[simp] theorem State.count_cdt (s : State) (f : IoField) (n : Nat) : (s.count f n).cdt = s.cdt := rfl
@[simp] theorem State.count_mem (s : State) (f : IoField) (n : Nat) : (s.count f n).mem = s.mem := rfl
@[simp] theorem State.count_mc (s : State) (f : IoField) (n : Nat) : (s.count f n).mc = s.mc := rfl
@[simp] theorem State.count_flt (s : State) (f : IoField) (n : Nat) : (s.count f n).flt = s.flt := rfl
@[simp] theorem State.count_plk (s : State) (f : IoField) (n : Nat) : (s.count f n).plk = s.plk := rfl
@[simp] theorem State.count_skp (s : State) (f : IoField) (n : Nat) : (s.count f n).skp = s.skp := rfl
@[simp] theorem State.count_skLast (s : State) (f : IoField) (n : Nat) : (s.count f n).skLast = s.skLast := rfl
@[simp] theorem State.count_adt (s : State) (f : IoField) (n : Nat) : (s.count f n).adt = s.adt := rfl
@[simp] theorem State.count_anm (s : State) (f : IoField) (n : Nat) : (s.count f n).anm = s.anm := rfl
@[simp] theorem State.count_hep (s : State) (f : IoField) (n : Nat) : (s.count f n).hep = s.hep := rfl
@[simp] theorem State.count_dbg (s : State) (f : IoField) (n : Nat) : (s.count f n).dbg = s.dbg := rfl
@[simp] theorem State.count_bwUs (s : State) (f : IoField) (n : Nat) : (s.count f n).bwUs = s.bwUs := rfl
@[simp] theorem State.count_flash (s : State) (f : IoField) (n : Nat) : (s.count f n).flash = s.flash := rfl
@[simp] theorem State.count_xspi (s : State) (f : IoField) (n : Nat) : (s.count f n).xspi = s.xspi := rfl
@[simp] theorem State.count_devnum (s : State) (f : IoField) (n : Nat) : (s.count f n).devnum = s.devnum := rfl
@[simp] theorem State.count_big (s : State) (f : IoField) (n : Nat) : (s.count f n).big = s.big := rfl
@[simp] theorem State.count_freeCtr (s : State) (f : IoField) (n : Nat) : (s.count f n).freeCtr = s.freeCtr := rfl
@[simp] theorem State.count_out (s : State) (f : IoField) (n : Nat) : (s.count f n).out = s.out := rfl
@[simp] theorem State.count_pending (s : State) (f : IoField) (n : Nat) : (s.count f n).pending = s.pending := rfl

/-! ### setHew -/

@[simp] theorem State.setHew_regs (s : State) (h : Nat) (x : Hewer) : (s.setHew h x).regs = s.regs := rfl
@[simp] theorem State.setHew_time (s : State) (h : Nat) (x : Hewer) : (s.setHew h x).time = s.time := rfl
@[simp] theorem State.setHew_pwr (s : State) (h : Nat) (x : Hewer) : (s.setHew h x).pwr = s.pwr := rfl
@[simp] theorem State.setHew_can (s : State) (h : Nat) (x : Hewer) : (s.setHew h x).can = s.can := rfl
@[simp] theorem State.setHew_lode (s : State) (h : Nat) (x : Hewer) : (s.setHew h x).lode = s.lode := rfl
@[simp] theorem State.setHew_drt (s : State) (h : Nat) (x : Hewer) : (s.setHew h x).drt = s.drt := rfl
@[simp] theorem State.setHew_twins (s : State) (h : Nat) (x : Hewer) : (s.setHew h x).twins = s.twins := rfl
@[simp] theorem State.setHew_cdt (s : State) (h : Nat) (x : Hewer) : (s.setHew h x).cdt = s.cdt := rfl
@[simp] theorem State.setHew_mem (s : State) (h : Nat) (x : Hewer) : (s.setHew h x).mem = s.mem := rfl
@[simp] theorem State.setHew_mc (s : State) (h : Nat) (x : Hewer) : (s.setHew h x).mc = s.mc := rfl
@[simp] theorem State.setHew_flt (s : State) (h : Nat) (x : Hewer) : (s.setHew h x).flt = s.flt := rfl
@[simp] theorem State.setHew_plk (s : State) (h : Nat) (x : Hewer) : (s.setHew h x).plk = s.plk := rfl
@[simp] theorem State.setHew_skp (s : State) (h : Nat) (x : Hewer) : (s.setHew h x).skp = s.skp := rfl
@[simp] theorem State.setHew_skLast (s : State) (h : Nat) (x : Hewer) : (s.setHew h x).skLast = s.skLast := rfl
@[simp] theorem State.setHew_adt (s : State) (h : Nat) (x : Hewer) : (s.setHew h x).adt = s.adt := rfl
@[simp] theorem State.setHew_anm (s : State) (h : Nat) (x : Hewer) : (s.setHew h x).anm = s.anm := rfl
@[simp] theorem State.setHew_hep (s : State) (h : Nat) (x : Hewer) : (s.setHew h x).hep = s.hep := rfl
@[simp] theorem State.setHew_dbg (s : State) (h : Nat) (x : Hewer) : (s.setHew h x).dbg = s.dbg := rfl
@[simp] theorem State.setHew_bwUs (s : State) (h : Nat) (x : Hewer) : (s.setHew h x).bwUs = s.bwUs := rfl
@[simp] theorem State.setHew_flash (s : State) (h : Nat) (x : Hewer) : (s.setHew h x).flash = s.flash := rfl
@[simp] theorem State.setHew_xspi (s : State) (h : Nat) (x : Hewer) : (s.setHew h x).xspi = s.xspi := rfl
@[simp] theorem State.setHew_devnum (s : State) (h : Nat) (x : Hewer) : (s.setHew h x).devnum = s.devnum := rfl
@[simp] theorem State.setHew_big (s : State) (h : Nat) (x : Hewer) : (s.setHew h x).big = s.big := rfl
@[simp] theorem State.setHew_freeCtr (s : State) (h : Nat) (x : Hewer) : (s.setHew h x).freeCtr = s.freeCtr := rfl
@[simp] theorem State.setHew_out (s : State) (h : Nat) (x : Hewer) : (s.setHew h x).out = s.out := rfl
@[simp] theorem State.setHew_pending (s : State) (h : Nat) (x : Hewer) : (s.setHew h x).pending = s.pending := rfl

/-! ### modHew -/

@[simp] theorem State.modHew_regs (s : State) (h : Nat) (f : Hewer → Hewer) : (s.modHew h f).regs = s.regs := rfl
@[simp] theorem State.modHew_time (s : State) (h : Nat) (f : Hewer → Hewer) : (s.modHew h f).time = s.time := rfl
@[simp] theorem State.modHew_pwr (s : State) (h : Nat) (f : Hewer → Hewer) : (s.modHew h f).pwr = s.pwr := rfl
@[simp] theorem State.modHew_can (s : State) (h : Nat) (f : Hewer → Hewer) : (s.modHew h f).can = s.can := rfl
@[simp] theorem State.modHew_lode (s : State) (h : Nat) (f : Hewer → Hewer) : (s.modHew h f).lode = s.lode := rfl
@[simp] theorem State.modHew_drt (s : State) (h : Nat) (f : Hewer → Hewer) : (s.modHew h f).drt = s.drt := rfl
@[simp] theorem State.modHew_twins (s : State) (h : Nat) (f : Hewer → Hewer) : (s.modHew h f).twins = s.twins := rfl
@[simp] theorem State.modHew_cdt (s : State) (h : Nat) (f : Hewer → Hewer) : (s.modHew h f).cdt = s.cdt := rfl
@[simp] theorem State.modHew_mem (s : State) (h : Nat) (f : Hewer → Hewer) : (s.modHew h f).mem = s.mem := rfl
@[simp] theorem State.modHew_mc (s : State) (h : Nat) (f : Hewer → Hewer) : (s.modHew h f).mc = s.mc := rfl
@[simp] theorem State.modHew_flt (s : State) (h : Nat) (f : Hewer → Hewer) : (s.modHew h f).flt = s.flt := rfl
@[simp] theorem State.modHew_plk (s : State) (h : Nat) (f : Hewer → Hewer) : (s.modHew h f).plk = s.plk := rfl
@[simp] theorem State.modHew_skp (s : State) (h : Nat) (f : Hewer → Hewer) : (s.modHew h f).skp = s.skp := rfl
@[simp] theorem State.modHew_skLast (s : State) (h : Nat) (f : Hewer → Hewer) : (s.modHew h f).skLast = s.skLast := rfl
@[simp] theorem State.modHew_adt (s : State) (h : Nat) (f : Hewer → Hewer) : (s.modHew h f).adt = s.adt := rfl
@[simp] theorem State.modHew_anm (s : State) (h : Nat) (f : Hewer → Hewer) : (s.modHew h f).anm = s.anm := rfl
@[simp] theorem State.modHew_hep (s : State) (h : Nat) (f : Hewer → Hewer) : (s.modHew h f).hep = s.hep := rfl
@[simp] theorem State.modHew_dbg (s : State) (h : Nat) (f : Hewer → Hewer) : (s.modHew h f).dbg = s.dbg := rfl
@[simp] theorem State.modHew_bwUs (s : State) (h : Nat) (f : Hewer → Hewer) : (s.modHew h f).bwUs = s.bwUs := rfl
@[simp] theorem State.modHew_flash (s : State) (h : Nat) (f : Hewer → Hewer) : (s.modHew h f).flash = s.flash := rfl
@[simp] theorem State.modHew_xspi (s : State) (h : Nat) (f : Hewer → Hewer) : (s.modHew h f).xspi = s.xspi := rfl
@[simp] theorem State.modHew_devnum (s : State) (h : Nat) (f : Hewer → Hewer) : (s.modHew h f).devnum = s.devnum := rfl
@[simp] theorem State.modHew_big (s : State) (h : Nat) (f : Hewer → Hewer) : (s.modHew h f).big = s.big := rfl
@[simp] theorem State.modHew_freeCtr (s : State) (h : Nat) (f : Hewer → Hewer) : (s.modHew h f).freeCtr = s.freeCtr := rfl
@[simp] theorem State.modHew_out (s : State) (h : Nat) (f : Hewer → Hewer) : (s.modHew h f).out = s.out := rfl
@[simp] theorem State.modHew_pending (s : State) (h : Nat) (f : Hewer → Hewer) : (s.modHew h f).pending = s.pending := rfl

/-! ### mapHewers -/

@[simp] theorem State.mapHewers_regs (s : State) (f : Nat → Hewer → Hewer) : (s.mapHewers f).regs = s.regs := rfl
@[simp] theorem State.mapHewers_time (s : State) (f : Nat → Hewer → Hewer) : (s.mapHewers f).time = s.time := rfl
@[simp] theorem State.mapHewers_pwr (s : State) (f : Nat → Hewer → Hewer) : (s.mapHewers f).pwr = s.pwr := rfl
@[simp] theorem State.mapHewers_can (s : State) (f : Nat → Hewer → Hewer) : (s.mapHewers f).can = s.can := rfl
@[simp] theorem State.mapHewers_lode (s : State) (f : Nat → Hewer → Hewer) : (s.mapHewers f).lode = s.lode := rfl
@[simp] theorem State.mapHewers_drt (s : State) (f : Nat → Hewer → Hewer) : (s.mapHewers f).drt = s.drt := rfl
@[simp] theorem State.mapHewers_twins (s : State) (f : Nat → Hewer → Hewer) : (s.mapHewers f).twins = s.twins := rfl
@[simp] theorem State.mapHewers_cdt (s : State) (f : Nat → Hewer → Hewer) : (s.mapHewers f).cdt = s.cdt := rfl
@[simp] theorem State.mapHewers_mem (s : State) (f : Nat → Hewer → Hewer) : (s.mapHewers f).mem = s.mem := rfl
@[simp] theorem State.mapHewers_mc (s : State) (f : Nat → Hewer → Hewer) : (s.mapHewers f).mc = s.mc := rfl
@[simp] theorem State.mapHewers_flt (s : State) (f : Nat → Hewer → Hewer) : (s.mapHewers f).flt = s.flt := rfl
@[simp] theorem State.mapHewers_plk (s : State) (f : Nat → Hewer → Hewer) : (s.mapHewers f).plk = s.plk := rfl
@[simp] theorem State.mapHewers_skp (s : State) (f : Nat → Hewer → Hewer) : (s.mapHewers f).skp = s.skp := rfl
@[simp] theorem State.mapHewers_skLast (s : State) (f : Nat → Hewer → Hewer) : (s.mapHewers f).skLast = s.skLast := rfl
@[simp] theorem State.mapHewers_adt (s : State) (f : Nat → Hewer → Hewer) : (s.mapHewers f).adt = s.adt := rfl
@[simp] theorem State.mapHewers_anm (s : State) (f : Nat → Hewer → Hewer) : (s.mapHewers f).anm = s.anm := rfl
@[simp] theorem State.mapHewers_hep (s : State) (f : Nat → Hewer → Hewer) : (s.mapHewers f).hep = s.hep := rfl
@[simp] theorem State.mapHewers_dbg (s : State) (f : Nat → Hewer → Hewer) : (s.mapHewers f).dbg = s.dbg := rfl
@[simp] theorem State.mapHewers_bwUs (s : State) (f : Nat → Hewer → Hewer) : (s.mapHewers f).bwUs = s.bwUs := rfl
@[simp] theorem State.mapHewers_flash (s : State) (f : Nat → Hewer → Hewer) : (s.mapHewers f).flash = s.flash := rfl
@[simp] theorem State.mapHewers_xspi (s : State) (f : Nat → Hewer → Hewer) : (s.mapHewers f).xspi = s.xspi := rfl
@[simp] theorem State.mapHewers_devnum (s : State) (f : Nat → Hewer → Hewer) : (s.mapHewers f).devnum = s.devnum := rfl
@[simp] theorem State.mapHewers_big (s : State) (f : Nat → Hewer → Hewer) : (s.mapHewers f).big = s.big := rfl
@[simp] theorem State.mapHewers_freeCtr (s : State) (f : Nat → Hewer → Hewer) : (s.mapHewers f).freeCtr = s.freeCtr := rfl
@[simp] theorem State.mapHewers_out (s : State) (f : Nat → Hewer → Hewer) : (s.mapHewers f).out = s.out := rfl
@[simp] theorem State.mapHewers_pending (s : State) (f : Nat → Hewer → Hewer) : (s.mapHewers f).pending = s.pending := rfl

/-! ### setTwin -/

@[simp] theorem State.setTwin_regs (s : State) (t : Nat) (x : Twin) : (s.setTwin t x).regs = s.regs := rfl
@[simp] theorem State.setTwin_time (s : State) (t : Nat) (x : Twin) : (s.setTwin t x).time = s.time := rfl
@[simp] theorem State.setTwin_pwr (s : State) (t : Nat) (x : Twin) : (s.setTwin t x).pwr = s.pwr := rfl
@[simp] theorem State.setTwin_can (s : State) (t : Nat) (x : Twin) : (s.setTwin t x).can = s.can := rfl
@[simp] theorem State.setTwin_lode (s : State) (t : Nat) (x : Twin) : (s.setTwin t x).lode = s.lode := rfl
@[simp] theorem State.setTwin_drt (s : State) (t : Nat) (x : Twin) : (s.setTwin t x).drt = s.drt := rfl
@[simp] theorem State.setTwin_hewers (s : State) (t : Nat) (x : Twin) : (s.setTwin t x).hewers = s.hewers := rfl
@[simp] theorem State.setTwin_cdt (s : State) (t : Nat) (x : Twin) : (s.setTwin t x).cdt = s.cdt := rfl
@[simp] theorem State.setTwin_mem (s : State) (t : Nat) (x : Twin) : (s.setTwin t x).mem = s.mem := rfl
@[simp] theorem State.setTwin_mc (s : State) (t : Nat) (x : Twin) : (s.setTwin t x).mc = s.mc := rfl
@[simp] theorem State.setTwin_flt (s : State) (t : Nat) (x : Twin) : (s.setTwin t x).flt = s.flt := rfl
@[simp] theorem State.setTwin_plk (s : State) (t : Nat) (x : Twin) : (s.setTwin t x).plk = s.plk := rfl
@[simp] theorem State.setTwin_skp (s : State) (t : Nat) (x : Twin) : (s.setTwin t x).skp = s.skp := rfl
@[simp] theorem State.setTwin_skLast (s : State) (t : Nat) (x : Twin) : (s.setTwin t x).skLast = s.skLast := rfl
@[simp] theorem State.setTwin_adt (s : State) (t : Nat) (x : Twin) : (s.setTwin t x).adt = s.adt := rfl
@[simp] theorem State.setTwin_anm (s : State) (t : Nat) (x : Twin) : (s.setTwin t x).anm = s.anm := rfl
@[simp] theorem State.setTwin_hep (s : State) (t : Nat) (x : Twin) : (s.setTwin t x).hep = s.hep := rfl
@[simp] theorem State.setTwin_dbg (s : State) (t : Nat) (x : Twin) : (s.setTwin t x).dbg = s.dbg := rfl
@[simp] theorem State.setTwin_bwUs (s : State) (t : Nat) (x : Twin) : (s.setTwin t x).bwUs = s.bwUs := rfl
@[simp] theorem State.setTwin_flash (s : State) (t : Nat) (x : Twin) : (s.setTwin t x).flash = s.flash := rfl
@[simp] theorem State.setTwin_xspi (s : State) (t : Nat) (x : Twin) : (s.setTwin t x).xspi = s.xspi := rfl
@[simp] theorem State.setTwin_devnum (s : State) (t : Nat) (x : Twin) : (s.setTwin t x).devnum = s.devnum := rfl
@[simp] theorem State.setTwin_big (s : State) (t : Nat) (x : Twin) : (s.setTwin t x).big = s.big := rfl
@[simp] theorem State.setTwin_freeCtr (s : State) (t : Nat) (x : Twin) : (s.setTwin t x).freeCtr = s.freeCtr := rfl
@[simp] theorem State.setTwin_out (s : State) (t : Nat) (x : Twin) : (s.setTwin t x).out = s.out := rfl
@[simp] theorem State.setTwin_pending (s : State) (t : Nat) (x : Twin) : (s.setTwin t x).pending = s.pending := rfl

/-! ### modTwin -/

@[simp] theorem State.modTwin_regs (s : State) (t : Nat) (f : Twin → Twin) : (s.modTwin t f).regs = s.regs := rfl
@[simp] theorem State.modTwin_time (s : State) (t : Nat) (f : Twin → Twin) : (s.modTwin t f).time = s.time := rfl
@[simp] theorem State.modTwin_pwr (s : State) (t : Nat) (f : Twin → Twin) : (s.modTwin t f).pwr = s.pwr := rfl
@[simp] theorem State.modTwin_can (s : State) (t : Nat) (f : Twin → Twin) : (s.modTwin t f).can = s.can := rfl
@[simp] theorem State.modTwin_lode (s : State) (t : Nat) (f : Twin → Twin) : (s.modTwin t f).lode = s.lode := rfl
@[simp] theorem State.modTwin_drt (s : State) (t : Nat) (f : Twin → Twin) : (s.modTwin t f).drt = s.drt := rfl
@[simp] theorem State.modTwin_hewers (s : State) (t : Nat) (f : Twin → Twin) : (s.modTwin t f).hewers = s.hewers := rfl
@[simp] theorem State.modTwin_cdt (s : State) (t : Nat) (f : Twin → Twin) : (s.modTwin t f).cdt = s.cdt := rfl
@[simp] theorem State.modTwin_mem (s : State) (t : Nat) (f : Twin → Twin) : (s.modTwin t f).mem = s.mem := rfl
@[simp] theorem State.modTwin_mc (s : State) (t : Nat) (f : Twin → Twin) : (s.modTwin t f).mc = s.mc := rfl
@[simp] theorem State.modTwin_flt (s : State) (t : Nat) (f : Twin → Twin) : (s.modTwin t f).flt = s.flt := rfl
@[simp] theorem State.modTwin_plk (s : State) (t : Nat) (f : Twin → Twin) : (s.modTwin t f).plk = s.plk := rfl
@[simp] theorem State.modTwin_skp (s : State) (t : Nat) (f : Twin → Twin) : (s.modTwin t f).skp = s.skp := rfl
@[simp] theorem State.modTwin_skLast (s : State) (t : Nat) (f : Twin → Twin) : (s.modTwin t f).skLast = s.skLast := rfl
@[simp] theorem State.modTwin_adt (s : State) (t : Nat) (f : Twin → Twin) : (s.modTwin t f).adt = s.adt := rfl
@[simp] theorem State.modTwin_anm (s : State) (t : Nat) (f : Twin → Twin) : (s.modTwin t f).anm = s.anm := rfl
@[simp] theorem State.modTwin_hep (s : State) (t : Nat) (f : Twin → Twin) : (s.modTwin t f).hep = s.hep := rfl
@[simp] theorem State.modTwin_dbg (s : State) (t : Nat) (f : Twin → Twin) : (s.modTwin t f).dbg = s.dbg := rfl
@[simp] theorem State.modTwin_bwUs (s : State) (t : Nat) (f : Twin → Twin) : (s.modTwin t f).bwUs = s.bwUs := rfl
@[simp] theorem State.modTwin_flash (s : State) (t : Nat) (f : Twin → Twin) : (s.modTwin t f).flash = s.flash := rfl
@[simp] theorem State.modTwin_xspi (s : State) (t : Nat) (f : Twin → Twin) : (s.modTwin t f).xspi = s.xspi := rfl
@[simp] theorem State.modTwin_devnum (s : State) (t : Nat) (f : Twin → Twin) : (s.modTwin t f).devnum = s.devnum := rfl
@[simp] theorem State.modTwin_big (s : State) (t : Nat) (f : Twin → Twin) : (s.modTwin t f).big = s.big := rfl
@[simp] theorem State.modTwin_freeCtr (s : State) (t : Nat) (f : Twin → Twin) : (s.modTwin t f).freeCtr = s.freeCtr := rfl
@[simp] theorem State.modTwin_out (s : State) (t : Nat) (f : Twin → Twin) : (s.modTwin t f).out = s.out := rfl
@[simp] theorem State.modTwin_pending (s : State) (t : Nat) (f : Twin → Twin) : (s.modTwin t f).pending = s.pending := rfl

/-! ### emit -/

@[simp] theorem State.emit_regs (s : State) (o : Out) : (s.emit o).regs = s.regs := rfl
@[simp] theorem State.emit_time (s : State) (o : Out) : (s.emit o).time = s.time := rfl
@[simp] theorem State.emit_pwr (s : State) (o : Out) : (s.emit o).pwr = s.pwr := rfl
@[simp] theorem State.emit_can (s : State) (o : Out) : (s.emit o).can = s.can := rfl
@[simp] theorem State.emit_lode (s : State) (o : Out) : (s.emit o).lode = s.lode := rfl
@[simp] theorem State.emit_drt (s : State) (o : Out) : (s.emit o).drt = s.drt := rfl
@[simp] theorem State.emit_hewers (s : State) (o : Out) : (s.emit o).hewers = s.hewers := rfl
@[simp] theorem State.emit_twins (s : State) (o : Out) : (s.emit o).twins = s.twins := rfl
@[simp] theorem State.emit_cdt (s : State) (o : Out) : (s.emit o).cdt = s.cdt := rfl
@[simp] theorem State.emit_mem (s : State) (o : Out) : (s.emit o).mem = s.mem := rfl
@[simp] theorem State.emit_mc (s : State) (o : Out) : (s.emit o).mc = s.mc := rfl
@[simp] theorem State.emit_flt (s : State) (o : Out) : (s.emit o).flt = s.flt := rfl
@[simp] theorem State.emit_plk (s : State) (o : Out) : (s.emit o).plk = s.plk := rfl
@[simp] theorem State.emit_skp (s : State) (o : Out) : (s.emit o).skp = s.skp := rfl
@[simp] theorem State.emit_skLast (s : State) (o : Out) : (s.emit o).skLast = s.skLast := rfl
@[simp] theorem State.emit_adt (s : State) (o : Out) : (s.emit o).adt = s.adt := rfl
@[simp] theorem State.emit_anm (s : State) (o : Out) : (s.emit o).anm = s.anm := rfl
@[simp] theorem State.emit_hep (s : State) (o : Out) : (s.emit o).hep = s.hep := rfl
@[simp] theorem State.emit_dbg (s : State) (o : Out) : (s.emit o).dbg = s.dbg := rfl
@[simp] theorem State.emit_bwUs (s : State) (o : Out) : (s.emit o).bwUs = s.bwUs := rfl
@[simp] theorem State.emit_flash (s : State) (o : Out) : (s.emit o).flash = s.flash := rfl
@[simp] theorem State.emit_xspi (s : State) (o : Out) : (s.emit o).xspi = s.xspi := rfl
@[simp] theorem State.emit_devnum (s : State) (o : Out) : (s.emit o).devnum = s.devnum := rfl
@[simp] theorem State.emit_big (s : State) (o : Out) : (s.emit o).big = s.big := rfl
@[simp] theorem State.emit_freeCtr (s : State) (o : Out) : (s.emit o).freeCtr = s.freeCtr := rfl
@[simp] theorem State.emit_pending (s : State) (o : Out) : (s.emit o).pending = s.pending := rfl

/-! ### setFn -/

@[simp] theorem State.setFn_regs (s : State) (f : Nat) (x : PcieFn) : (s.setFn f x).regs = s.regs := rfl
@[simp] theorem State.setFn_time (s : State) (f : Nat) (x : PcieFn) : (s.setFn f x).time = s.time := rfl
@[simp] theorem State.setFn_pwr (s : State) (f : Nat) (x : PcieFn) : (s.setFn f x).pwr = s.pwr := rfl
@[simp] theorem State.setFn_can (s : State) (f : Nat) (x : PcieFn) : (s.setFn f x).can = s.can := rfl
@[simp] theorem State.setFn_lode (s : State) (f : Nat) (x : PcieFn) : (s.setFn f x).lode = s.lode := rfl
@[simp] theorem State.setFn_drt (s : State) (f : Nat) (x : PcieFn) : (s.setFn f x).drt = s.drt := rfl
@[simp] theorem State.setFn_hewers (s : State) (f : Nat) (x : PcieFn) : (s.setFn f x).hewers = s.hewers := rfl
@[simp] theorem State.setFn_twins (s : State) (f : Nat) (x : PcieFn) : (s.setFn f x).twins = s.twins := rfl
@[simp] theorem State.setFn_cdt (s : State) (f : Nat) (x : PcieFn) : (s.setFn f x).cdt = s.cdt := rfl
@[simp] theorem State.setFn_mem (s : State) (f : Nat) (x : PcieFn) : (s.setFn f x).mem = s.mem := rfl
@[simp] theorem State.setFn_mc (s : State) (f : Nat) (x : PcieFn) : (s.setFn f x).mc = s.mc := rfl
@[simp] theorem State.setFn_flt (s : State) (f : Nat) (x : PcieFn) : (s.setFn f x).flt = s.flt := rfl
@[simp] theorem State.setFn_plk (s : State) (f : Nat) (x : PcieFn) : (s.setFn f x).plk = s.plk := rfl
@[simp] theorem State.setFn_skp (s : State) (f : Nat) (x : PcieFn) : (s.setFn f x).skp = s.skp := rfl
@[simp] theorem State.setFn_skLast (s : State) (f : Nat) (x : PcieFn) : (s.setFn f x).skLast = s.skLast := rfl
@[simp] theorem State.setFn_adt (s : State) (f : Nat) (x : PcieFn) : (s.setFn f x).adt = s.adt := rfl
@[simp] theorem State.setFn_anm (s : State) (f : Nat) (x : PcieFn) : (s.setFn f x).anm = s.anm := rfl
@[simp] theorem State.setFn_dbg (s : State) (f : Nat) (x : PcieFn) : (s.setFn f x).dbg = s.dbg := rfl
@[simp] theorem State.setFn_bwUs (s : State) (f : Nat) (x : PcieFn) : (s.setFn f x).bwUs = s.bwUs := rfl
@[simp] theorem State.setFn_flash (s : State) (f : Nat) (x : PcieFn) : (s.setFn f x).flash = s.flash := rfl
@[simp] theorem State.setFn_xspi (s : State) (f : Nat) (x : PcieFn) : (s.setFn f x).xspi = s.xspi := rfl
@[simp] theorem State.setFn_devnum (s : State) (f : Nat) (x : PcieFn) : (s.setFn f x).devnum = s.devnum := rfl
@[simp] theorem State.setFn_big (s : State) (f : Nat) (x : PcieFn) : (s.setFn f x).big = s.big := rfl
@[simp] theorem State.setFn_freeCtr (s : State) (f : Nat) (x : PcieFn) : (s.setFn f x).freeCtr = s.freeCtr := rfl
@[simp] theorem State.setFn_out (s : State) (f : Nat) (x : PcieFn) : (s.setFn f x).out = s.out := rfl
@[simp] theorem State.setFn_pending (s : State) (f : Nat) (x : PcieFn) : (s.setFn f x).pending = s.pending := rfl

/-! ### setPin -/

@[simp] theorem State.setPin_regs (s : State) (o : Nat) (x : OutPin) : (s.setPin o x).regs = s.regs := rfl
@[simp] theorem State.setPin_time (s : State) (o : Nat) (x : OutPin) : (s.setPin o x).time = s.time := rfl
@[simp] theorem State.setPin_pwr (s : State) (o : Nat) (x : OutPin) : (s.setPin o x).pwr = s.pwr := rfl
@[simp] theorem State.setPin_can (s : State) (o : Nat) (x : OutPin) : (s.setPin o x).can = s.can := rfl
@[simp] theorem State.setPin_lode (s : State) (o : Nat) (x : OutPin) : (s.setPin o x).lode = s.lode := rfl
@[simp] theorem State.setPin_drt (s : State) (o : Nat) (x : OutPin) : (s.setPin o x).drt = s.drt := rfl
@[simp] theorem State.setPin_hewers (s : State) (o : Nat) (x : OutPin) : (s.setPin o x).hewers = s.hewers := rfl
@[simp] theorem State.setPin_twins (s : State) (o : Nat) (x : OutPin) : (s.setPin o x).twins = s.twins := rfl
@[simp] theorem State.setPin_cdt (s : State) (o : Nat) (x : OutPin) : (s.setPin o x).cdt = s.cdt := rfl
@[simp] theorem State.setPin_mem (s : State) (o : Nat) (x : OutPin) : (s.setPin o x).mem = s.mem := rfl
@[simp] theorem State.setPin_mc (s : State) (o : Nat) (x : OutPin) : (s.setPin o x).mc = s.mc := rfl
@[simp] theorem State.setPin_flt (s : State) (o : Nat) (x : OutPin) : (s.setPin o x).flt = s.flt := rfl
@[simp] theorem State.setPin_plk (s : State) (o : Nat) (x : OutPin) : (s.setPin o x).plk = s.plk := rfl
@[simp] theorem State.setPin_skp (s : State) (o : Nat) (x : OutPin) : (s.setPin o x).skp = s.skp := rfl
@[simp] theorem State.setPin_skLast (s : State) (o : Nat) (x : OutPin) : (s.setPin o x).skLast = s.skLast := rfl
@[simp] theorem State.setPin_adt (s : State) (o : Nat) (x : OutPin) : (s.setPin o x).adt = s.adt := rfl
@[simp] theorem State.setPin_hep (s : State) (o : Nat) (x : OutPin) : (s.setPin o x).hep = s.hep := rfl
@[simp] theorem State.setPin_dbg (s : State) (o : Nat) (x : OutPin) : (s.setPin o x).dbg = s.dbg := rfl
@[simp] theorem State.setPin_bwUs (s : State) (o : Nat) (x : OutPin) : (s.setPin o x).bwUs = s.bwUs := rfl
@[simp] theorem State.setPin_flash (s : State) (o : Nat) (x : OutPin) : (s.setPin o x).flash = s.flash := rfl
@[simp] theorem State.setPin_xspi (s : State) (o : Nat) (x : OutPin) : (s.setPin o x).xspi = s.xspi := rfl
@[simp] theorem State.setPin_devnum (s : State) (o : Nat) (x : OutPin) : (s.setPin o x).devnum = s.devnum := rfl
@[simp] theorem State.setPin_big (s : State) (o : Nat) (x : OutPin) : (s.setPin o x).big = s.big := rfl
@[simp] theorem State.setPin_freeCtr (s : State) (o : Nat) (x : OutPin) : (s.setPin o x).freeCtr = s.freeCtr := rfl
@[simp] theorem State.setPin_out (s : State) (o : Nat) (x : OutPin) : (s.setPin o x).out = s.out := rfl
@[simp] theorem State.setPin_pending (s : State) (o : Nat) (x : OutPin) : (s.setPin o x).pending = s.pending := rfl

/-! ### setEnc -/

@[simp] theorem State.setEnc_regs (s : State) (n : Nat) (x : Encoder) : (s.setEnc n x).regs = s.regs := rfl
@[simp] theorem State.setEnc_time (s : State) (n : Nat) (x : Encoder) : (s.setEnc n x).time = s.time := rfl
@[simp] theorem State.setEnc_pwr (s : State) (n : Nat) (x : Encoder) : (s.setEnc n x).pwr = s.pwr := rfl
@[simp] theorem State.setEnc_can (s : State) (n : Nat) (x : Encoder) : (s.setEnc n x).can = s.can := rfl
@[simp] theorem State.setEnc_lode (s : State) (n : Nat) (x : Encoder) : (s.setEnc n x).lode = s.lode := rfl
@[simp] theorem State.setEnc_drt (s : State) (n : Nat) (x : Encoder) : (s.setEnc n x).drt = s.drt := rfl
@[simp] theorem State.setEnc_hewers (s : State) (n : Nat) (x : Encoder) : (s.setEnc n x).hewers = s.hewers := rfl
@[simp] theorem State.setEnc_twins (s : State) (n : Nat) (x : Encoder) : (s.setEnc n x).twins = s.twins := rfl
@[simp] theorem State.setEnc_cdt (s : State) (n : Nat) (x : Encoder) : (s.setEnc n x).cdt = s.cdt := rfl
@[simp] theorem State.setEnc_mem (s : State) (n : Nat) (x : Encoder) : (s.setEnc n x).mem = s.mem := rfl
@[simp] theorem State.setEnc_mc (s : State) (n : Nat) (x : Encoder) : (s.setEnc n x).mc = s.mc := rfl
@[simp] theorem State.setEnc_flt (s : State) (n : Nat) (x : Encoder) : (s.setEnc n x).flt = s.flt := rfl
@[simp] theorem State.setEnc_plk (s : State) (n : Nat) (x : Encoder) : (s.setEnc n x).plk = s.plk := rfl
@[simp] theorem State.setEnc_skp (s : State) (n : Nat) (x : Encoder) : (s.setEnc n x).skp = s.skp := rfl
@[simp] theorem State.setEnc_skLast (s : State) (n : Nat) (x : Encoder) : (s.setEnc n x).skLast = s.skLast := rfl
@[simp] theorem State.setEnc_adt (s : State) (n : Nat) (x : Encoder) : (s.setEnc n x).adt = s.adt := rfl
@[simp] theorem State.setEnc_hep (s : State) (n : Nat) (x : Encoder) : (s.setEnc n x).hep = s.hep := rfl
@[simp] theorem State.setEnc_dbg (s : State) (n : Nat) (x : Encoder) : (s.setEnc n x).dbg = s.dbg := rfl
@[simp] theorem State.setEnc_bwUs (s : State) (n : Nat) (x : Encoder) : (s.setEnc n x).bwUs = s.bwUs := rfl
@[simp] theorem State.setEnc_flash (s : State) (n : Nat) (x : Encoder) : (s.setEnc n x).flash = s.flash := rfl
@[simp] theorem State.setEnc_xspi (s : State) (n : Nat) (x : Encoder) : (s.setEnc n x).xspi = s.xspi := rfl
@[simp] theorem State.setEnc_devnum (s : State) (n : Nat) (x : Encoder) : (s.setEnc n x).devnum = s.devnum := rfl
@[simp] theorem State.setEnc_big (s : State) (n : Nat) (x : Encoder) : (s.setEnc n x).big = s.big := rfl
@[simp] theorem State.setEnc_freeCtr (s : State) (n : Nat) (x : Encoder) : (s.setEnc n x).freeCtr = s.freeCtr := rfl
@[simp] theorem State.setEnc_out (s : State) (n : Nat) (x : Encoder) : (s.setEnc n x).out = s.out := rfl
@[simp] theorem State.setEnc_pending (s : State) (n : Nat) (x : Encoder) : (s.setEnc n x).pending = s.pending := rfl

/-! ### setSlot -/

@[simp] theorem State.setSlot_regs (s : State) (i : Nat) (x : LodeSlot) : (s.setSlot i x).regs = s.regs := rfl
@[simp] theorem State.setSlot_time (s : State) (i : Nat) (x : LodeSlot) : (s.setSlot i x).time = s.time := rfl
@[simp] theorem State.setSlot_pwr (s : State) (i : Nat) (x : LodeSlot) : (s.setSlot i x).pwr = s.pwr := rfl
@[simp] theorem State.setSlot_can (s : State) (i : Nat) (x : LodeSlot) : (s.setSlot i x).can = s.can := rfl
@[simp] theorem State.setSlot_drt (s : State) (i : Nat) (x : LodeSlot) : (s.setSlot i x).drt = s.drt := rfl
@[simp] theorem State.setSlot_hewers (s : State) (i : Nat) (x : LodeSlot) : (s.setSlot i x).hewers = s.hewers := rfl
@[simp] theorem State.setSlot_twins (s : State) (i : Nat) (x : LodeSlot) : (s.setSlot i x).twins = s.twins := rfl
@[simp] theorem State.setSlot_cdt (s : State) (i : Nat) (x : LodeSlot) : (s.setSlot i x).cdt = s.cdt := rfl
@[simp] theorem State.setSlot_mem (s : State) (i : Nat) (x : LodeSlot) : (s.setSlot i x).mem = s.mem := rfl
@[simp] theorem State.setSlot_mc (s : State) (i : Nat) (x : LodeSlot) : (s.setSlot i x).mc = s.mc := rfl
@[simp] theorem State.setSlot_flt (s : State) (i : Nat) (x : LodeSlot) : (s.setSlot i x).flt = s.flt := rfl
@[simp] theorem State.setSlot_plk (s : State) (i : Nat) (x : LodeSlot) : (s.setSlot i x).plk = s.plk := rfl
@[simp] theorem State.setSlot_skp (s : State) (i : Nat) (x : LodeSlot) : (s.setSlot i x).skp = s.skp := rfl
@[simp] theorem State.setSlot_skLast (s : State) (i : Nat) (x : LodeSlot) : (s.setSlot i x).skLast = s.skLast := rfl
@[simp] theorem State.setSlot_adt (s : State) (i : Nat) (x : LodeSlot) : (s.setSlot i x).adt = s.adt := rfl
@[simp] theorem State.setSlot_anm (s : State) (i : Nat) (x : LodeSlot) : (s.setSlot i x).anm = s.anm := rfl
@[simp] theorem State.setSlot_hep (s : State) (i : Nat) (x : LodeSlot) : (s.setSlot i x).hep = s.hep := rfl
@[simp] theorem State.setSlot_dbg (s : State) (i : Nat) (x : LodeSlot) : (s.setSlot i x).dbg = s.dbg := rfl
@[simp] theorem State.setSlot_bwUs (s : State) (i : Nat) (x : LodeSlot) : (s.setSlot i x).bwUs = s.bwUs := rfl
@[simp] theorem State.setSlot_flash (s : State) (i : Nat) (x : LodeSlot) : (s.setSlot i x).flash = s.flash := rfl
@[simp] theorem State.setSlot_xspi (s : State) (i : Nat) (x : LodeSlot) : (s.setSlot i x).xspi = s.xspi := rfl
@[simp] theorem State.setSlot_devnum (s : State) (i : Nat) (x : LodeSlot) : (s.setSlot i x).devnum = s.devnum := rfl
@[simp] theorem State.setSlot_big (s : State) (i : Nat) (x : LodeSlot) : (s.setSlot i x).big = s.big := rfl
@[simp] theorem State.setSlot_freeCtr (s : State) (i : Nat) (x : LodeSlot) : (s.setSlot i x).freeCtr = s.freeCtr := rfl
@[simp] theorem State.setSlot_out (s : State) (i : Nat) (x : LodeSlot) : (s.setSlot i x).out = s.out := rfl
@[simp] theorem State.setSlot_pending (s : State) (i : Nat) (x : LodeSlot) : (s.setSlot i x).pending = s.pending := rfl

/-! ### setTask -/

@[simp] theorem State.setTask_regs (s : State) (i : Nat) (x : Task) : (s.setTask i x).regs = s.regs := rfl
@[simp] theorem State.setTask_time (s : State) (i : Nat) (x : Task) : (s.setTask i x).time = s.time := rfl
@[simp] theorem State.setTask_pwr (s : State) (i : Nat) (x : Task) : (s.setTask i x).pwr = s.pwr := rfl
@[simp] theorem State.setTask_can (s : State) (i : Nat) (x : Task) : (s.setTask i x).can = s.can := rfl
@[simp] theorem State.setTask_lode (s : State) (i : Nat) (x : Task) : (s.setTask i x).lode = s.lode := rfl
@[simp] theorem State.setTask_hewers (s : State) (i : Nat) (x : Task) : (s.setTask i x).hewers = s.hewers := rfl
@[simp] theorem State.setTask_twins (s : State) (i : Nat) (x : Task) : (s.setTask i x).twins = s.twins := rfl
@[simp] theorem State.setTask_cdt (s : State) (i : Nat) (x : Task) : (s.setTask i x).cdt = s.cdt := rfl
@[simp] theorem State.setTask_mem (s : State) (i : Nat) (x : Task) : (s.setTask i x).mem = s.mem := rfl
@[simp] theorem State.setTask_mc (s : State) (i : Nat) (x : Task) : (s.setTask i x).mc = s.mc := rfl
@[simp] theorem State.setTask_flt (s : State) (i : Nat) (x : Task) : (s.setTask i x).flt = s.flt := rfl
@[simp] theorem State.setTask_plk (s : State) (i : Nat) (x : Task) : (s.setTask i x).plk = s.plk := rfl
@[simp] theorem State.setTask_skp (s : State) (i : Nat) (x : Task) : (s.setTask i x).skp = s.skp := rfl
@[simp] theorem State.setTask_skLast (s : State) (i : Nat) (x : Task) : (s.setTask i x).skLast = s.skLast := rfl
@[simp] theorem State.setTask_adt (s : State) (i : Nat) (x : Task) : (s.setTask i x).adt = s.adt := rfl
@[simp] theorem State.setTask_anm (s : State) (i : Nat) (x : Task) : (s.setTask i x).anm = s.anm := rfl
@[simp] theorem State.setTask_hep (s : State) (i : Nat) (x : Task) : (s.setTask i x).hep = s.hep := rfl
@[simp] theorem State.setTask_dbg (s : State) (i : Nat) (x : Task) : (s.setTask i x).dbg = s.dbg := rfl
@[simp] theorem State.setTask_bwUs (s : State) (i : Nat) (x : Task) : (s.setTask i x).bwUs = s.bwUs := rfl
@[simp] theorem State.setTask_flash (s : State) (i : Nat) (x : Task) : (s.setTask i x).flash = s.flash := rfl
@[simp] theorem State.setTask_xspi (s : State) (i : Nat) (x : Task) : (s.setTask i x).xspi = s.xspi := rfl
@[simp] theorem State.setTask_devnum (s : State) (i : Nat) (x : Task) : (s.setTask i x).devnum = s.devnum := rfl
@[simp] theorem State.setTask_big (s : State) (i : Nat) (x : Task) : (s.setTask i x).big = s.big := rfl
@[simp] theorem State.setTask_freeCtr (s : State) (i : Nat) (x : Task) : (s.setTask i x).freeCtr = s.freeCtr := rfl
@[simp] theorem State.setTask_out (s : State) (i : Nat) (x : Task) : (s.setTask i x).out = s.out := rfl
@[simp] theorem State.setTask_pending (s : State) (i : Nat) (x : Task) : (s.setTask i x).pending = s.pending := rfl

/-! ### modTask -/

@[simp] theorem State.modTask_regs (s : State) (i : Nat) (f : Task → Task) : (s.modTask i f).regs = s.regs := rfl
@[simp] theorem State.modTask_time (s : State) (i : Nat) (f : Task → Task) : (s.modTask i f).time = s.time := rfl
@[simp] theorem State.modTask_pwr (s : State) (i : Nat) (f : Task → Task) : (s.modTask i f).pwr = s.pwr := rfl
@[simp] theorem State.modTask_can (s : State) (i : Nat) (f : Task → Task) : (s.modTask i f).can = s.can := rfl
@[simp] theorem State.modTask_lode (s : State) (i : Nat) (f : Task → Task) : (s.modTask i f).lode = s.lode := rfl
@[simp] theorem State.modTask_hewers (s : State) (i : Nat) (f : Task → Task) : (s.modTask i f).hewers = s.hewers := rfl
@[simp] theorem State.modTask_twins (s : State) (i : Nat) (f : Task → Task) : (s.modTask i f).twins = s.twins := rfl
@[simp] theorem State.modTask_cdt (s : State) (i : Nat) (f : Task → Task) : (s.modTask i f).cdt = s.cdt := rfl
@[simp] theorem State.modTask_mem (s : State) (i : Nat) (f : Task → Task) : (s.modTask i f).mem = s.mem := rfl
@[simp] theorem State.modTask_mc (s : State) (i : Nat) (f : Task → Task) : (s.modTask i f).mc = s.mc := rfl
@[simp] theorem State.modTask_flt (s : State) (i : Nat) (f : Task → Task) : (s.modTask i f).flt = s.flt := rfl
@[simp] theorem State.modTask_plk (s : State) (i : Nat) (f : Task → Task) : (s.modTask i f).plk = s.plk := rfl
@[simp] theorem State.modTask_skp (s : State) (i : Nat) (f : Task → Task) : (s.modTask i f).skp = s.skp := rfl
@[simp] theorem State.modTask_skLast (s : State) (i : Nat) (f : Task → Task) : (s.modTask i f).skLast = s.skLast := rfl
@[simp] theorem State.modTask_adt (s : State) (i : Nat) (f : Task → Task) : (s.modTask i f).adt = s.adt := rfl
@[simp] theorem State.modTask_anm (s : State) (i : Nat) (f : Task → Task) : (s.modTask i f).anm = s.anm := rfl
@[simp] theorem State.modTask_hep (s : State) (i : Nat) (f : Task → Task) : (s.modTask i f).hep = s.hep := rfl
@[simp] theorem State.modTask_dbg (s : State) (i : Nat) (f : Task → Task) : (s.modTask i f).dbg = s.dbg := rfl
@[simp] theorem State.modTask_bwUs (s : State) (i : Nat) (f : Task → Task) : (s.modTask i f).bwUs = s.bwUs := rfl
@[simp] theorem State.modTask_flash (s : State) (i : Nat) (f : Task → Task) : (s.modTask i f).flash = s.flash := rfl
@[simp] theorem State.modTask_xspi (s : State) (i : Nat) (f : Task → Task) : (s.modTask i f).xspi = s.xspi := rfl
@[simp] theorem State.modTask_devnum (s : State) (i : Nat) (f : Task → Task) : (s.modTask i f).devnum = s.devnum := rfl
@[simp] theorem State.modTask_big (s : State) (i : Nat) (f : Task → Task) : (s.modTask i f).big = s.big := rfl
@[simp] theorem State.modTask_freeCtr (s : State) (i : Nat) (f : Task → Task) : (s.modTask i f).freeCtr = s.freeCtr := rfl
@[simp] theorem State.modTask_out (s : State) (i : Nat) (f : Task → Task) : (s.modTask i f).out = s.out := rfl
@[simp] theorem State.modTask_pending (s : State) (i : Nat) (f : Task → Task) : (s.modTask i f).pending = s.pending := rfl

/-! ### setReadyQ -/

@[simp] theorem State.setReadyQ_regs (s : State) (g : Nat) (l : List Nat) : (s.setReadyQ g l).regs = s.regs := rfl
@[simp] theorem State.setReadyQ_time (s : State) (g : Nat) (l : List Nat) : (s.setReadyQ g l).time = s.time := rfl
@[simp] theorem State.setReadyQ_pwr (s : State) (g : Nat) (l : List Nat) : (s.setReadyQ g l).pwr = s.pwr := rfl
@[simp] theorem State.setReadyQ_can (s : State) (g : Nat) (l : List Nat) : (s.setReadyQ g l).can = s.can := rfl
@[simp] theorem State.setReadyQ_lode (s : State) (g : Nat) (l : List Nat) : (s.setReadyQ g l).lode = s.lode := rfl
@[simp] theorem State.setReadyQ_hewers (s : State) (g : Nat) (l : List Nat) : (s.setReadyQ g l).hewers = s.hewers := rfl
@[simp] theorem State.setReadyQ_twins (s : State) (g : Nat) (l : List Nat) : (s.setReadyQ g l).twins = s.twins := rfl
@[simp] theorem State.setReadyQ_cdt (s : State) (g : Nat) (l : List Nat) : (s.setReadyQ g l).cdt = s.cdt := rfl
@[simp] theorem State.setReadyQ_mem (s : State) (g : Nat) (l : List Nat) : (s.setReadyQ g l).mem = s.mem := rfl
@[simp] theorem State.setReadyQ_mc (s : State) (g : Nat) (l : List Nat) : (s.setReadyQ g l).mc = s.mc := rfl
@[simp] theorem State.setReadyQ_flt (s : State) (g : Nat) (l : List Nat) : (s.setReadyQ g l).flt = s.flt := rfl
@[simp] theorem State.setReadyQ_plk (s : State) (g : Nat) (l : List Nat) : (s.setReadyQ g l).plk = s.plk := rfl
@[simp] theorem State.setReadyQ_skp (s : State) (g : Nat) (l : List Nat) : (s.setReadyQ g l).skp = s.skp := rfl
@[simp] theorem State.setReadyQ_skLast (s : State) (g : Nat) (l : List Nat) : (s.setReadyQ g l).skLast = s.skLast := rfl
@[simp] theorem State.setReadyQ_adt (s : State) (g : Nat) (l : List Nat) : (s.setReadyQ g l).adt = s.adt := rfl
@[simp] theorem State.setReadyQ_anm (s : State) (g : Nat) (l : List Nat) : (s.setReadyQ g l).anm = s.anm := rfl
@[simp] theorem State.setReadyQ_hep (s : State) (g : Nat) (l : List Nat) : (s.setReadyQ g l).hep = s.hep := rfl
@[simp] theorem State.setReadyQ_dbg (s : State) (g : Nat) (l : List Nat) : (s.setReadyQ g l).dbg = s.dbg := rfl
@[simp] theorem State.setReadyQ_bwUs (s : State) (g : Nat) (l : List Nat) : (s.setReadyQ g l).bwUs = s.bwUs := rfl
@[simp] theorem State.setReadyQ_flash (s : State) (g : Nat) (l : List Nat) : (s.setReadyQ g l).flash = s.flash := rfl
@[simp] theorem State.setReadyQ_xspi (s : State) (g : Nat) (l : List Nat) : (s.setReadyQ g l).xspi = s.xspi := rfl
@[simp] theorem State.setReadyQ_devnum (s : State) (g : Nat) (l : List Nat) : (s.setReadyQ g l).devnum = s.devnum := rfl
@[simp] theorem State.setReadyQ_big (s : State) (g : Nat) (l : List Nat) : (s.setReadyQ g l).big = s.big := rfl
@[simp] theorem State.setReadyQ_freeCtr (s : State) (g : Nat) (l : List Nat) : (s.setReadyQ g l).freeCtr = s.freeCtr := rfl
@[simp] theorem State.setReadyQ_out (s : State) (g : Nat) (l : List Nat) : (s.setReadyQ g l).out = s.out := rfl
@[simp] theorem State.setReadyQ_pending (s : State) (g : Nat) (l : List Nat) : (s.setReadyQ g l).pending = s.pending := rfl

/-! ### setLocalQ -/

@[simp] theorem State.setLocalQ_regs (s : State) (h : Nat) (l : List Nat) : (s.setLocalQ h l).regs = s.regs := rfl
@[simp] theorem State.setLocalQ_time (s : State) (h : Nat) (l : List Nat) : (s.setLocalQ h l).time = s.time := rfl
@[simp] theorem State.setLocalQ_pwr (s : State) (h : Nat) (l : List Nat) : (s.setLocalQ h l).pwr = s.pwr := rfl
@[simp] theorem State.setLocalQ_can (s : State) (h : Nat) (l : List Nat) : (s.setLocalQ h l).can = s.can := rfl
@[simp] theorem State.setLocalQ_lode (s : State) (h : Nat) (l : List Nat) : (s.setLocalQ h l).lode = s.lode := rfl
@[simp] theorem State.setLocalQ_hewers (s : State) (h : Nat) (l : List Nat) : (s.setLocalQ h l).hewers = s.hewers := rfl
@[simp] theorem State.setLocalQ_twins (s : State) (h : Nat) (l : List Nat) : (s.setLocalQ h l).twins = s.twins := rfl
@[simp] theorem State.setLocalQ_cdt (s : State) (h : Nat) (l : List Nat) : (s.setLocalQ h l).cdt = s.cdt := rfl
@[simp] theorem State.setLocalQ_mem (s : State) (h : Nat) (l : List Nat) : (s.setLocalQ h l).mem = s.mem := rfl
@[simp] theorem State.setLocalQ_mc (s : State) (h : Nat) (l : List Nat) : (s.setLocalQ h l).mc = s.mc := rfl
@[simp] theorem State.setLocalQ_flt (s : State) (h : Nat) (l : List Nat) : (s.setLocalQ h l).flt = s.flt := rfl
@[simp] theorem State.setLocalQ_plk (s : State) (h : Nat) (l : List Nat) : (s.setLocalQ h l).plk = s.plk := rfl
@[simp] theorem State.setLocalQ_skp (s : State) (h : Nat) (l : List Nat) : (s.setLocalQ h l).skp = s.skp := rfl
@[simp] theorem State.setLocalQ_skLast (s : State) (h : Nat) (l : List Nat) : (s.setLocalQ h l).skLast = s.skLast := rfl
@[simp] theorem State.setLocalQ_adt (s : State) (h : Nat) (l : List Nat) : (s.setLocalQ h l).adt = s.adt := rfl
@[simp] theorem State.setLocalQ_anm (s : State) (h : Nat) (l : List Nat) : (s.setLocalQ h l).anm = s.anm := rfl
@[simp] theorem State.setLocalQ_hep (s : State) (h : Nat) (l : List Nat) : (s.setLocalQ h l).hep = s.hep := rfl
@[simp] theorem State.setLocalQ_dbg (s : State) (h : Nat) (l : List Nat) : (s.setLocalQ h l).dbg = s.dbg := rfl
@[simp] theorem State.setLocalQ_bwUs (s : State) (h : Nat) (l : List Nat) : (s.setLocalQ h l).bwUs = s.bwUs := rfl
@[simp] theorem State.setLocalQ_flash (s : State) (h : Nat) (l : List Nat) : (s.setLocalQ h l).flash = s.flash := rfl
@[simp] theorem State.setLocalQ_xspi (s : State) (h : Nat) (l : List Nat) : (s.setLocalQ h l).xspi = s.xspi := rfl
@[simp] theorem State.setLocalQ_devnum (s : State) (h : Nat) (l : List Nat) : (s.setLocalQ h l).devnum = s.devnum := rfl
@[simp] theorem State.setLocalQ_big (s : State) (h : Nat) (l : List Nat) : (s.setLocalQ h l).big = s.big := rfl
@[simp] theorem State.setLocalQ_freeCtr (s : State) (h : Nat) (l : List Nat) : (s.setLocalQ h l).freeCtr = s.freeCtr := rfl
@[simp] theorem State.setLocalQ_out (s : State) (h : Nat) (l : List Nat) : (s.setLocalQ h l).out = s.out := rfl
@[simp] theorem State.setLocalQ_pending (s : State) (h : Nat) (l : List Nat) : (s.setLocalQ h l).pending = s.pending := rfl

/-! ### setPort -/

@[simp] theorem State.setPort_regs (s : State) (p : Nat) (x : PlkPort) : (s.setPort p x).regs = s.regs := rfl
@[simp] theorem State.setPort_time (s : State) (p : Nat) (x : PlkPort) : (s.setPort p x).time = s.time := rfl
@[simp] theorem State.setPort_pwr (s : State) (p : Nat) (x : PlkPort) : (s.setPort p x).pwr = s.pwr := rfl
@[simp] theorem State.setPort_can (s : State) (p : Nat) (x : PlkPort) : (s.setPort p x).can = s.can := rfl
@[simp] theorem State.setPort_lode (s : State) (p : Nat) (x : PlkPort) : (s.setPort p x).lode = s.lode := rfl
@[simp] theorem State.setPort_drt (s : State) (p : Nat) (x : PlkPort) : (s.setPort p x).drt = s.drt := rfl
@[simp] theorem State.setPort_hewers (s : State) (p : Nat) (x : PlkPort) : (s.setPort p x).hewers = s.hewers := rfl
@[simp] theorem State.setPort_twins (s : State) (p : Nat) (x : PlkPort) : (s.setPort p x).twins = s.twins := rfl
@[simp] theorem State.setPort_cdt (s : State) (p : Nat) (x : PlkPort) : (s.setPort p x).cdt = s.cdt := rfl
@[simp] theorem State.setPort_mem (s : State) (p : Nat) (x : PlkPort) : (s.setPort p x).mem = s.mem := rfl
@[simp] theorem State.setPort_mc (s : State) (p : Nat) (x : PlkPort) : (s.setPort p x).mc = s.mc := rfl
@[simp] theorem State.setPort_flt (s : State) (p : Nat) (x : PlkPort) : (s.setPort p x).flt = s.flt := rfl
@[simp] theorem State.setPort_skp (s : State) (p : Nat) (x : PlkPort) : (s.setPort p x).skp = s.skp := rfl
@[simp] theorem State.setPort_skLast (s : State) (p : Nat) (x : PlkPort) : (s.setPort p x).skLast = s.skLast := rfl
@[simp] theorem State.setPort_adt (s : State) (p : Nat) (x : PlkPort) : (s.setPort p x).adt = s.adt := rfl
@[simp] theorem State.setPort_anm (s : State) (p : Nat) (x : PlkPort) : (s.setPort p x).anm = s.anm := rfl
@[simp] theorem State.setPort_hep (s : State) (p : Nat) (x : PlkPort) : (s.setPort p x).hep = s.hep := rfl
@[simp] theorem State.setPort_dbg (s : State) (p : Nat) (x : PlkPort) : (s.setPort p x).dbg = s.dbg := rfl
@[simp] theorem State.setPort_bwUs (s : State) (p : Nat) (x : PlkPort) : (s.setPort p x).bwUs = s.bwUs := rfl
@[simp] theorem State.setPort_flash (s : State) (p : Nat) (x : PlkPort) : (s.setPort p x).flash = s.flash := rfl
@[simp] theorem State.setPort_xspi (s : State) (p : Nat) (x : PlkPort) : (s.setPort p x).xspi = s.xspi := rfl
@[simp] theorem State.setPort_devnum (s : State) (p : Nat) (x : PlkPort) : (s.setPort p x).devnum = s.devnum := rfl
@[simp] theorem State.setPort_big (s : State) (p : Nat) (x : PlkPort) : (s.setPort p x).big = s.big := rfl
@[simp] theorem State.setPort_freeCtr (s : State) (p : Nat) (x : PlkPort) : (s.setPort p x).freeCtr = s.freeCtr := rfl
@[simp] theorem State.setPort_out (s : State) (p : Nat) (x : PlkPort) : (s.setPort p x).out = s.out := rfl
@[simp] theorem State.setPort_pending (s : State) (p : Nat) (x : PlkPort) : (s.setPort p x).pending = s.pending := rfl

/-! ### modPort -/

@[simp] theorem State.modPort_regs (s : State) (p : Nat) (f : PlkPort → PlkPort) : (s.modPort p f).regs = s.regs := rfl
@[simp] theorem State.modPort_time (s : State) (p : Nat) (f : PlkPort → PlkPort) : (s.modPort p f).time = s.time := rfl
@[simp] theorem State.modPort_pwr (s : State) (p : Nat) (f : PlkPort → PlkPort) : (s.modPort p f).pwr = s.pwr := rfl
@[simp] theorem State.modPort_can (s : State) (p : Nat) (f : PlkPort → PlkPort) : (s.modPort p f).can = s.can := rfl
@[simp] theorem State.modPort_lode (s : State) (p : Nat) (f : PlkPort → PlkPort) : (s.modPort p f).lode = s.lode := rfl
@[simp] theorem State.modPort_drt (s : State) (p : Nat) (f : PlkPort → PlkPort) : (s.modPort p f).drt = s.drt := rfl
@[simp] theorem State.modPort_hewers (s : State) (p : Nat) (f : PlkPort → PlkPort) : (s.modPort p f).hewers = s.hewers := rfl
@[simp] theorem State.modPort_twins (s : State) (p : Nat) (f : PlkPort → PlkPort) : (s.modPort p f).twins = s.twins := rfl
@[simp] theorem State.modPort_cdt (s : State) (p : Nat) (f : PlkPort → PlkPort) : (s.modPort p f).cdt = s.cdt := rfl
@[simp] theorem State.modPort_mem (s : State) (p : Nat) (f : PlkPort → PlkPort) : (s.modPort p f).mem = s.mem := rfl
@[simp] theorem State.modPort_mc (s : State) (p : Nat) (f : PlkPort → PlkPort) : (s.modPort p f).mc = s.mc := rfl
@[simp] theorem State.modPort_flt (s : State) (p : Nat) (f : PlkPort → PlkPort) : (s.modPort p f).flt = s.flt := rfl
@[simp] theorem State.modPort_skp (s : State) (p : Nat) (f : PlkPort → PlkPort) : (s.modPort p f).skp = s.skp := rfl
@[simp] theorem State.modPort_skLast (s : State) (p : Nat) (f : PlkPort → PlkPort) : (s.modPort p f).skLast = s.skLast := rfl
@[simp] theorem State.modPort_adt (s : State) (p : Nat) (f : PlkPort → PlkPort) : (s.modPort p f).adt = s.adt := rfl
@[simp] theorem State.modPort_anm (s : State) (p : Nat) (f : PlkPort → PlkPort) : (s.modPort p f).anm = s.anm := rfl
@[simp] theorem State.modPort_hep (s : State) (p : Nat) (f : PlkPort → PlkPort) : (s.modPort p f).hep = s.hep := rfl
@[simp] theorem State.modPort_dbg (s : State) (p : Nat) (f : PlkPort → PlkPort) : (s.modPort p f).dbg = s.dbg := rfl
@[simp] theorem State.modPort_bwUs (s : State) (p : Nat) (f : PlkPort → PlkPort) : (s.modPort p f).bwUs = s.bwUs := rfl
@[simp] theorem State.modPort_flash (s : State) (p : Nat) (f : PlkPort → PlkPort) : (s.modPort p f).flash = s.flash := rfl
@[simp] theorem State.modPort_xspi (s : State) (p : Nat) (f : PlkPort → PlkPort) : (s.modPort p f).xspi = s.xspi := rfl
@[simp] theorem State.modPort_devnum (s : State) (p : Nat) (f : PlkPort → PlkPort) : (s.modPort p f).devnum = s.devnum := rfl
@[simp] theorem State.modPort_big (s : State) (p : Nat) (f : PlkPort → PlkPort) : (s.modPort p f).big = s.big := rfl
@[simp] theorem State.modPort_freeCtr (s : State) (p : Nat) (f : PlkPort → PlkPort) : (s.modPort p f).freeCtr = s.freeCtr := rfl
@[simp] theorem State.modPort_out (s : State) (p : Nat) (f : PlkPort → PlkPort) : (s.modPort p f).out = s.out := rfl
@[simp] theorem State.modPort_pending (s : State) (p : Nat) (f : PlkPort → PlkPort) : (s.modPort p f).pending = s.pending := rfl

/-! ### setChan -/

@[simp] theorem State.setChan_regs (s : State) (n : Nat) (x : SkpChannel) : (s.setChan n x).regs = s.regs := rfl
@[simp] theorem State.setChan_time (s : State) (n : Nat) (x : SkpChannel) : (s.setChan n x).time = s.time := rfl
@[simp] theorem State.setChan_pwr (s : State) (n : Nat) (x : SkpChannel) : (s.setChan n x).pwr = s.pwr := rfl
@[simp] theorem State.setChan_can (s : State) (n : Nat) (x : SkpChannel) : (s.setChan n x).can = s.can := rfl
@[simp] theorem State.setChan_lode (s : State) (n : Nat) (x : SkpChannel) : (s.setChan n x).lode = s.lode := rfl
@[simp] theorem State.setChan_drt (s : State) (n : Nat) (x : SkpChannel) : (s.setChan n x).drt = s.drt := rfl
@[simp] theorem State.setChan_hewers (s : State) (n : Nat) (x : SkpChannel) : (s.setChan n x).hewers = s.hewers := rfl
@[simp] theorem State.setChan_twins (s : State) (n : Nat) (x : SkpChannel) : (s.setChan n x).twins = s.twins := rfl
@[simp] theorem State.setChan_cdt (s : State) (n : Nat) (x : SkpChannel) : (s.setChan n x).cdt = s.cdt := rfl
@[simp] theorem State.setChan_mem (s : State) (n : Nat) (x : SkpChannel) : (s.setChan n x).mem = s.mem := rfl
@[simp] theorem State.setChan_mc (s : State) (n : Nat) (x : SkpChannel) : (s.setChan n x).mc = s.mc := rfl
@[simp] theorem State.setChan_flt (s : State) (n : Nat) (x : SkpChannel) : (s.setChan n x).flt = s.flt := rfl
@[simp] theorem State.setChan_plk (s : State) (n : Nat) (x : SkpChannel) : (s.setChan n x).plk = s.plk := rfl
@[simp] theorem State.setChan_skLast (s : State) (n : Nat) (x : SkpChannel) : (s.setChan n x).skLast = s.skLast := rfl
@[simp] theorem State.setChan_adt (s : State) (n : Nat) (x : SkpChannel) : (s.setChan n x).adt = s.adt := rfl
@[simp] theorem State.setChan_anm (s : State) (n : Nat) (x : SkpChannel) : (s.setChan n x).anm = s.anm := rfl
@[simp] theorem State.setChan_hep (s : State) (n : Nat) (x : SkpChannel) : (s.setChan n x).hep = s.hep := rfl
@[simp] theorem State.setChan_dbg (s : State) (n : Nat) (x : SkpChannel) : (s.setChan n x).dbg = s.dbg := rfl
@[simp] theorem State.setChan_bwUs (s : State) (n : Nat) (x : SkpChannel) : (s.setChan n x).bwUs = s.bwUs := rfl
@[simp] theorem State.setChan_flash (s : State) (n : Nat) (x : SkpChannel) : (s.setChan n x).flash = s.flash := rfl
@[simp] theorem State.setChan_xspi (s : State) (n : Nat) (x : SkpChannel) : (s.setChan n x).xspi = s.xspi := rfl
@[simp] theorem State.setChan_devnum (s : State) (n : Nat) (x : SkpChannel) : (s.setChan n x).devnum = s.devnum := rfl
@[simp] theorem State.setChan_big (s : State) (n : Nat) (x : SkpChannel) : (s.setChan n x).big = s.big := rfl
@[simp] theorem State.setChan_freeCtr (s : State) (n : Nat) (x : SkpChannel) : (s.setChan n x).freeCtr = s.freeCtr := rfl
@[simp] theorem State.setChan_out (s : State) (n : Nat) (x : SkpChannel) : (s.setChan n x).out = s.out := rfl
@[simp] theorem State.setChan_pending (s : State) (n : Nat) (x : SkpChannel) : (s.setChan n x).pending = s.pending := rfl

/-! ### modChan -/

@[simp] theorem State.modChan_regs (s : State) (n : Nat) (f : SkpChannel → SkpChannel) : (s.modChan n f).regs = s.regs := rfl
@[simp] theorem State.modChan_time (s : State) (n : Nat) (f : SkpChannel → SkpChannel) : (s.modChan n f).time = s.time := rfl
@[simp] theorem State.modChan_pwr (s : State) (n : Nat) (f : SkpChannel → SkpChannel) : (s.modChan n f).pwr = s.pwr := rfl
@[simp] theorem State.modChan_can (s : State) (n : Nat) (f : SkpChannel → SkpChannel) : (s.modChan n f).can = s.can := rfl
@[simp] theorem State.modChan_lode (s : State) (n : Nat) (f : SkpChannel → SkpChannel) : (s.modChan n f).lode = s.lode := rfl
@[simp] theorem State.modChan_drt (s : State) (n : Nat) (f : SkpChannel → SkpChannel) : (s.modChan n f).drt = s.drt := rfl
@[simp] theorem State.modChan_hewers (s : State) (n : Nat) (f : SkpChannel → SkpChannel) : (s.modChan n f).hewers = s.hewers := rfl
@[simp] theorem State.modChan_twins (s : State) (n : Nat) (f : SkpChannel → SkpChannel) : (s.modChan n f).twins = s.twins := rfl
@[simp] theorem State.modChan_cdt (s : State) (n : Nat) (f : SkpChannel → SkpChannel) : (s.modChan n f).cdt = s.cdt := rfl
@[simp] theorem State.modChan_mem (s : State) (n : Nat) (f : SkpChannel → SkpChannel) : (s.modChan n f).mem = s.mem := rfl
@[simp] theorem State.modChan_mc (s : State) (n : Nat) (f : SkpChannel → SkpChannel) : (s.modChan n f).mc = s.mc := rfl
@[simp] theorem State.modChan_flt (s : State) (n : Nat) (f : SkpChannel → SkpChannel) : (s.modChan n f).flt = s.flt := rfl
@[simp] theorem State.modChan_plk (s : State) (n : Nat) (f : SkpChannel → SkpChannel) : (s.modChan n f).plk = s.plk := rfl
@[simp] theorem State.modChan_skLast (s : State) (n : Nat) (f : SkpChannel → SkpChannel) : (s.modChan n f).skLast = s.skLast := rfl
@[simp] theorem State.modChan_adt (s : State) (n : Nat) (f : SkpChannel → SkpChannel) : (s.modChan n f).adt = s.adt := rfl
@[simp] theorem State.modChan_anm (s : State) (n : Nat) (f : SkpChannel → SkpChannel) : (s.modChan n f).anm = s.anm := rfl
@[simp] theorem State.modChan_hep (s : State) (n : Nat) (f : SkpChannel → SkpChannel) : (s.modChan n f).hep = s.hep := rfl
@[simp] theorem State.modChan_dbg (s : State) (n : Nat) (f : SkpChannel → SkpChannel) : (s.modChan n f).dbg = s.dbg := rfl
@[simp] theorem State.modChan_bwUs (s : State) (n : Nat) (f : SkpChannel → SkpChannel) : (s.modChan n f).bwUs = s.bwUs := rfl
@[simp] theorem State.modChan_flash (s : State) (n : Nat) (f : SkpChannel → SkpChannel) : (s.modChan n f).flash = s.flash := rfl
@[simp] theorem State.modChan_xspi (s : State) (n : Nat) (f : SkpChannel → SkpChannel) : (s.modChan n f).xspi = s.xspi := rfl
@[simp] theorem State.modChan_devnum (s : State) (n : Nat) (f : SkpChannel → SkpChannel) : (s.modChan n f).devnum = s.devnum := rfl
@[simp] theorem State.modChan_big (s : State) (n : Nat) (f : SkpChannel → SkpChannel) : (s.modChan n f).big = s.big := rfl
@[simp] theorem State.modChan_freeCtr (s : State) (n : Nat) (f : SkpChannel → SkpChannel) : (s.modChan n f).freeCtr = s.freeCtr := rfl
@[simp] theorem State.modChan_out (s : State) (n : Nat) (f : SkpChannel → SkpChannel) : (s.modChan n f).out = s.out := rfl
@[simp] theorem State.modChan_pending (s : State) (n : Nat) (f : SkpChannel → SkpChannel) : (s.modChan n f).pending = s.pending := rfl

/-! ### modQuery -/

@[simp] theorem State.modQuery_regs (s : State) (k : Nat) (f : QueryCtx → QueryCtx) : (s.modQuery k f).regs = s.regs := rfl
@[simp] theorem State.modQuery_time (s : State) (k : Nat) (f : QueryCtx → QueryCtx) : (s.modQuery k f).time = s.time := rfl
@[simp] theorem State.modQuery_pwr (s : State) (k : Nat) (f : QueryCtx → QueryCtx) : (s.modQuery k f).pwr = s.pwr := rfl
@[simp] theorem State.modQuery_can (s : State) (k : Nat) (f : QueryCtx → QueryCtx) : (s.modQuery k f).can = s.can := rfl
@[simp] theorem State.modQuery_lode (s : State) (k : Nat) (f : QueryCtx → QueryCtx) : (s.modQuery k f).lode = s.lode := rfl
@[simp] theorem State.modQuery_drt (s : State) (k : Nat) (f : QueryCtx → QueryCtx) : (s.modQuery k f).drt = s.drt := rfl
@[simp] theorem State.modQuery_hewers (s : State) (k : Nat) (f : QueryCtx → QueryCtx) : (s.modQuery k f).hewers = s.hewers := rfl
@[simp] theorem State.modQuery_twins (s : State) (k : Nat) (f : QueryCtx → QueryCtx) : (s.modQuery k f).twins = s.twins := rfl
@[simp] theorem State.modQuery_cdt (s : State) (k : Nat) (f : QueryCtx → QueryCtx) : (s.modQuery k f).cdt = s.cdt := rfl
@[simp] theorem State.modQuery_mem (s : State) (k : Nat) (f : QueryCtx → QueryCtx) : (s.modQuery k f).mem = s.mem := rfl
@[simp] theorem State.modQuery_mc (s : State) (k : Nat) (f : QueryCtx → QueryCtx) : (s.modQuery k f).mc = s.mc := rfl
@[simp] theorem State.modQuery_flt (s : State) (k : Nat) (f : QueryCtx → QueryCtx) : (s.modQuery k f).flt = s.flt := rfl
@[simp] theorem State.modQuery_plk (s : State) (k : Nat) (f : QueryCtx → QueryCtx) : (s.modQuery k f).plk = s.plk := rfl
@[simp] theorem State.modQuery_skp (s : State) (k : Nat) (f : QueryCtx → QueryCtx) : (s.modQuery k f).skp = s.skp := rfl
@[simp] theorem State.modQuery_skLast (s : State) (k : Nat) (f : QueryCtx → QueryCtx) : (s.modQuery k f).skLast = s.skLast := rfl
@[simp] theorem State.modQuery_anm (s : State) (k : Nat) (f : QueryCtx → QueryCtx) : (s.modQuery k f).anm = s.anm := rfl
@[simp] theorem State.modQuery_hep (s : State) (k : Nat) (f : QueryCtx → QueryCtx) : (s.modQuery k f).hep = s.hep := rfl
@[simp] theorem State.modQuery_dbg (s : State) (k : Nat) (f : QueryCtx → QueryCtx) : (s.modQuery k f).dbg = s.dbg := rfl
@[simp] theorem State.modQuery_bwUs (s : State) (k : Nat) (f : QueryCtx → QueryCtx) : (s.modQuery k f).bwUs = s.bwUs := rfl
@[simp] theorem State.modQuery_flash (s : State) (k : Nat) (f : QueryCtx → QueryCtx) : (s.modQuery k f).flash = s.flash := rfl
@[simp] theorem State.modQuery_xspi (s : State) (k : Nat) (f : QueryCtx → QueryCtx) : (s.modQuery k f).xspi = s.xspi := rfl
@[simp] theorem State.modQuery_devnum (s : State) (k : Nat) (f : QueryCtx → QueryCtx) : (s.modQuery k f).devnum = s.devnum := rfl
@[simp] theorem State.modQuery_big (s : State) (k : Nat) (f : QueryCtx → QueryCtx) : (s.modQuery k f).big = s.big := rfl
@[simp] theorem State.modQuery_freeCtr (s : State) (k : Nat) (f : QueryCtx → QueryCtx) : (s.modQuery k f).freeCtr = s.freeCtr := rfl
@[simp] theorem State.modQuery_out (s : State) (k : Nat) (f : QueryCtx → QueryCtx) : (s.modQuery k f).out = s.out := rfl
@[simp] theorem State.modQuery_pending (s : State) (k : Nat) (f : QueryCtx → QueryCtx) : (s.modQuery k f).pending = s.pending := rfl

/-! ### setDchan -/

@[simp] theorem State.setDchan_regs (s : State) (c : Nat) (x : Channel) : (s.setDchan c x).regs = s.regs := rfl
@[simp] theorem State.setDchan_time (s : State) (c : Nat) (x : Channel) : (s.setDchan c x).time = s.time := rfl
@[simp] theorem State.setDchan_pwr (s : State) (c : Nat) (x : Channel) : (s.setDchan c x).pwr = s.pwr := rfl
@[simp] theorem State.setDchan_can (s : State) (c : Nat) (x : Channel) : (s.setDchan c x).can = s.can := rfl
@[simp] theorem State.setDchan_lode (s : State) (c : Nat) (x : Channel) : (s.setDchan c x).lode = s.lode := rfl
@[simp] theorem State.setDchan_drt (s : State) (c : Nat) (x : Channel) : (s.setDchan c x).drt = s.drt := rfl
@[simp] theorem State.setDchan_hewers (s : State) (c : Nat) (x : Channel) : (s.setDchan c x).hewers = s.hewers := rfl
@[simp] theorem State.setDchan_twins (s : State) (c : Nat) (x : Channel) : (s.setDchan c x).twins = s.twins := rfl
@[simp] theorem State.setDchan_cdt (s : State) (c : Nat) (x : Channel) : (s.setDchan c x).cdt = s.cdt := rfl
@[simp] theorem State.setDchan_mem (s : State) (c : Nat) (x : Channel) : (s.setDchan c x).mem = s.mem := rfl
@[simp] theorem State.setDchan_flt (s : State) (c : Nat) (x : Channel) : (s.setDchan c x).flt = s.flt := rfl
@[simp] theorem State.setDchan_plk (s : State) (c : Nat) (x : Channel) : (s.setDchan c x).plk = s.plk := rfl
@[simp] theorem State.setDchan_skp (s : State) (c : Nat) (x : Channel) : (s.setDchan c x).skp = s.skp := rfl
@[simp] theorem State.setDchan_skLast (s : State) (c : Nat) (x : Channel) : (s.setDchan c x).skLast = s.skLast := rfl
@[simp] theorem State.setDchan_adt (s : State) (c : Nat) (x : Channel) : (s.setDchan c x).adt = s.adt := rfl
@[simp] theorem State.setDchan_anm (s : State) (c : Nat) (x : Channel) : (s.setDchan c x).anm = s.anm := rfl
@[simp] theorem State.setDchan_hep (s : State) (c : Nat) (x : Channel) : (s.setDchan c x).hep = s.hep := rfl
@[simp] theorem State.setDchan_dbg (s : State) (c : Nat) (x : Channel) : (s.setDchan c x).dbg = s.dbg := rfl
@[simp] theorem State.setDchan_bwUs (s : State) (c : Nat) (x : Channel) : (s.setDchan c x).bwUs = s.bwUs := rfl
@[simp] theorem State.setDchan_flash (s : State) (c : Nat) (x : Channel) : (s.setDchan c x).flash = s.flash := rfl
@[simp] theorem State.setDchan_xspi (s : State) (c : Nat) (x : Channel) : (s.setDchan c x).xspi = s.xspi := rfl
@[simp] theorem State.setDchan_devnum (s : State) (c : Nat) (x : Channel) : (s.setDchan c x).devnum = s.devnum := rfl
@[simp] theorem State.setDchan_big (s : State) (c : Nat) (x : Channel) : (s.setDchan c x).big = s.big := rfl
@[simp] theorem State.setDchan_freeCtr (s : State) (c : Nat) (x : Channel) : (s.setDchan c x).freeCtr = s.freeCtr := rfl
@[simp] theorem State.setDchan_out (s : State) (c : Nat) (x : Channel) : (s.setDchan c x).out = s.out := rfl
@[simp] theorem State.setDchan_pending (s : State) (c : Nat) (x : Channel) : (s.setDchan c x).pending = s.pending := rfl

/-! ### setBank -/

@[simp] theorem State.setBank_regs (s : State) (c b : Nat) (x : BankState) : (s.setBank c b x).regs = s.regs := rfl
@[simp] theorem State.setBank_time (s : State) (c b : Nat) (x : BankState) : (s.setBank c b x).time = s.time := rfl
@[simp] theorem State.setBank_pwr (s : State) (c b : Nat) (x : BankState) : (s.setBank c b x).pwr = s.pwr := rfl
@[simp] theorem State.setBank_can (s : State) (c b : Nat) (x : BankState) : (s.setBank c b x).can = s.can := rfl
@[simp] theorem State.setBank_lode (s : State) (c b : Nat) (x : BankState) : (s.setBank c b x).lode = s.lode := rfl
@[simp] theorem State.setBank_drt (s : State) (c b : Nat) (x : BankState) : (s.setBank c b x).drt = s.drt := rfl
@[simp] theorem State.setBank_hewers (s : State) (c b : Nat) (x : BankState) : (s.setBank c b x).hewers = s.hewers := rfl
@[simp] theorem State.setBank_twins (s : State) (c b : Nat) (x : BankState) : (s.setBank c b x).twins = s.twins := rfl
@[simp] theorem State.setBank_cdt (s : State) (c b : Nat) (x : BankState) : (s.setBank c b x).cdt = s.cdt := rfl
@[simp] theorem State.setBank_mem (s : State) (c b : Nat) (x : BankState) : (s.setBank c b x).mem = s.mem := rfl
@[simp] theorem State.setBank_flt (s : State) (c b : Nat) (x : BankState) : (s.setBank c b x).flt = s.flt := rfl
@[simp] theorem State.setBank_plk (s : State) (c b : Nat) (x : BankState) : (s.setBank c b x).plk = s.plk := rfl
@[simp] theorem State.setBank_skp (s : State) (c b : Nat) (x : BankState) : (s.setBank c b x).skp = s.skp := rfl
@[simp] theorem State.setBank_skLast (s : State) (c b : Nat) (x : BankState) : (s.setBank c b x).skLast = s.skLast := rfl
@[simp] theorem State.setBank_adt (s : State) (c b : Nat) (x : BankState) : (s.setBank c b x).adt = s.adt := rfl
@[simp] theorem State.setBank_anm (s : State) (c b : Nat) (x : BankState) : (s.setBank c b x).anm = s.anm := rfl
@[simp] theorem State.setBank_hep (s : State) (c b : Nat) (x : BankState) : (s.setBank c b x).hep = s.hep := rfl
@[simp] theorem State.setBank_dbg (s : State) (c b : Nat) (x : BankState) : (s.setBank c b x).dbg = s.dbg := rfl
@[simp] theorem State.setBank_bwUs (s : State) (c b : Nat) (x : BankState) : (s.setBank c b x).bwUs = s.bwUs := rfl
@[simp] theorem State.setBank_flash (s : State) (c b : Nat) (x : BankState) : (s.setBank c b x).flash = s.flash := rfl
@[simp] theorem State.setBank_xspi (s : State) (c b : Nat) (x : BankState) : (s.setBank c b x).xspi = s.xspi := rfl
@[simp] theorem State.setBank_devnum (s : State) (c b : Nat) (x : BankState) : (s.setBank c b x).devnum = s.devnum := rfl
@[simp] theorem State.setBank_big (s : State) (c b : Nat) (x : BankState) : (s.setBank c b x).big = s.big := rfl
@[simp] theorem State.setBank_freeCtr (s : State) (c b : Nat) (x : BankState) : (s.setBank c b x).freeCtr = s.freeCtr := rfl
@[simp] theorem State.setBank_out (s : State) (c b : Nat) (x : BankState) : (s.setBank c b x).out = s.out := rfl
@[simp] theorem State.setBank_pending (s : State) (c b : Nat) (x : BankState) : (s.setBank c b x).pending = s.pending := rfl

/-! ### setStep -/

@[simp] theorem State.setStep_regs (s : State) (k n : Nat) : (s.setStep k n).regs = s.regs := rfl
@[simp] theorem State.setStep_time (s : State) (k n : Nat) : (s.setStep k n).time = s.time := rfl
@[simp] theorem State.setStep_can (s : State) (k n : Nat) : (s.setStep k n).can = s.can := rfl
@[simp] theorem State.setStep_lode (s : State) (k n : Nat) : (s.setStep k n).lode = s.lode := rfl
@[simp] theorem State.setStep_drt (s : State) (k n : Nat) : (s.setStep k n).drt = s.drt := rfl
@[simp] theorem State.setStep_hewers (s : State) (k n : Nat) : (s.setStep k n).hewers = s.hewers := rfl
@[simp] theorem State.setStep_twins (s : State) (k n : Nat) : (s.setStep k n).twins = s.twins := rfl
@[simp] theorem State.setStep_cdt (s : State) (k n : Nat) : (s.setStep k n).cdt = s.cdt := rfl
@[simp] theorem State.setStep_mem (s : State) (k n : Nat) : (s.setStep k n).mem = s.mem := rfl
@[simp] theorem State.setStep_mc (s : State) (k n : Nat) : (s.setStep k n).mc = s.mc := rfl
@[simp] theorem State.setStep_flt (s : State) (k n : Nat) : (s.setStep k n).flt = s.flt := rfl
@[simp] theorem State.setStep_plk (s : State) (k n : Nat) : (s.setStep k n).plk = s.plk := rfl
@[simp] theorem State.setStep_skp (s : State) (k n : Nat) : (s.setStep k n).skp = s.skp := rfl
@[simp] theorem State.setStep_skLast (s : State) (k n : Nat) : (s.setStep k n).skLast = s.skLast := rfl
@[simp] theorem State.setStep_adt (s : State) (k n : Nat) : (s.setStep k n).adt = s.adt := rfl
@[simp] theorem State.setStep_anm (s : State) (k n : Nat) : (s.setStep k n).anm = s.anm := rfl
@[simp] theorem State.setStep_hep (s : State) (k n : Nat) : (s.setStep k n).hep = s.hep := rfl
@[simp] theorem State.setStep_dbg (s : State) (k n : Nat) : (s.setStep k n).dbg = s.dbg := rfl
@[simp] theorem State.setStep_bwUs (s : State) (k n : Nat) : (s.setStep k n).bwUs = s.bwUs := rfl
@[simp] theorem State.setStep_flash (s : State) (k n : Nat) : (s.setStep k n).flash = s.flash := rfl
@[simp] theorem State.setStep_xspi (s : State) (k n : Nat) : (s.setStep k n).xspi = s.xspi := rfl
@[simp] theorem State.setStep_devnum (s : State) (k n : Nat) : (s.setStep k n).devnum = s.devnum := rfl
@[simp] theorem State.setStep_big (s : State) (k n : Nat) : (s.setStep k n).big = s.big := rfl
@[simp] theorem State.setStep_freeCtr (s : State) (k n : Nat) : (s.setStep k n).freeCtr = s.freeCtr := rfl
@[simp] theorem State.setStep_out (s : State) (k n : Nat) : (s.setStep k n).out = s.out := rfl
@[simp] theorem State.setStep_pending (s : State) (k n : Nat) : (s.setStep k n).pending = s.pending := rfl

end Sys2Proof.Machine
end

