-- ==== Sys2Proof/Laws/Run.lean ====
section
/-!
SUPPORT. What a hewer with nothing in its way does with an instruction: the frame before execution goes on in the same state,
and completing writes the hewer and counts.
-/
namespace Sys2Proof.Machine

theorem State.setHew_hew (s : State) (h : Nat) (hc : s.Canonical) : s.setHew h (s.hew h) = s := by
  unfold State.setHew State.hew
  rw [Table.set_get_same s.hewers Hewer.reset h hc.hewers]

/-! ### Comparators that are off -/

theorem State.cmpChain_off (s : State) (h : Nat) (items : List CmpItem) (armed : Nat)
    (hw : ∀ c, c < 8 → s.flag (F.DBG_HWR_CMP_CTL.EN h c) = false) :
    ∀ n c, c + n ≤ 8 → s.cmpChain h items n c false armed = ([], armed) := by
  intro n
  induction n with
  | zero => intro c _; rfl
  | succ k ih =>
    intro c hc
    have hm : s.cmpMatch h c items = false := by
      unfold State.cmpMatch
      rw [hw c (by omega)]; rfl
    unfold State.cmpChain
    simp only [hm, Bool.false_and, Bool.false_eq_true, if_false]
    rw [show (if s.cmpLink h c = 2 then armed else armed) = armed by split <;> rfl, ih (c + 1) (by omega)]

theorem State.cmpEffects_off (s : State) (h : Nat) (items : List CmpItem)
    (hw : ∀ c, c < 8 → s.flag (F.DBG_HWR_CMP_CTL.EN h c) = false) : s.cmpEffects h items = ([], (s.hew h).armed) := by
  unfold State.cmpEffects
  rw [State.cmpChain_off s h items _ hw 8 0 (by omega)]
  rfl

theorem State.modHew_armed (s : State) (h : Nat) (hc : s.Canonical) :
    s.modHew h (fun x => { x with armed := (s.hew h).armed }) = s := by
  unfold State.modHew
  exact State.setHew_hew s h hc

theorem State.cmpPoint_off (s : State) (h : Nat) (items : List CmpItem) (hc : s.Canonical)
    (hw : ∀ c, c < 8 → s.flag (F.DBG_HWR_CMP_CTL.EN h c) = false) : s.cmpPoint h items = (s, .goOn) := by
  unfold State.cmpPoint
  split
  · rfl
  · rw [State.cmpEffects_off s h items hw]
    simp only
    rw [State.modHew_armed s h hc]
    rfl

theorem State.cmpPost_off (s s0 : State) (h : Nat) (items : List CmpItem) (hc : s.Canonical)
    (hw : ∀ c, c < 8 → s.flag (F.DBG_HWR_CMP_CTL.EN h c) = false) : s.cmpPost s0 h items = s := by
  unfold State.cmpPost
  split
  · rfl
  · rw [State.cmpEffects_off s h items hw]
    simp only
    rw [State.modHew_armed s h hc]
    rfl

/-! ### The frame before execution -/

theorem Hewer.settle_none (x : Hewer) (p : Pre) (long : Bool) (h : x.missed = []) : x.settle p long = some x := by
  cases x
  simp only at h
  subst h
  rfl

theorem Hewer.entryWaits_none (x : Hewer) (h : x.missed = []) : x.entryWaits = false := by
  unfold Hewer.entryWaits Hewer.waitsHost
  simp [h]

/-- Nothing is noted while the hewer is not sampled. -/
theorem State.noteEvent_off (s : State) (h e : Nat) (hs : s.flag (F.TLY_HWR_SCTL.EN h) = false) : s.noteEvent h e = s := by
  unfold State.noteEvent; simp [hs]

/-- Nothing in the way: the frame goes on in the same state. -/
theorem State.issue_runs (s : State) (h : Nat) (p : Pre) (long : Bool) (hr : s.Runs h) (hp : p.bad = none) :
    s.issue h p long = .go s := by
  obtain ⟨l, hf⟩ := hr.fetch
  have hsrc : (s.hew h).poisonedSource p = none := by
    have he : ∀ l : List Nat, List.find? ([] : List Nat).contains l = none := fun l => List.find?_eq_none.mpr (by simp)
    unfold Hewer.poisonedSource
    rw [hr.wPoison, hr.vPoison, he, he]
    rfl
  unfold State.issue
  simp only [hr.can, hr.quiet, Hewer.entryWaits_none _ hr.missed, Bool.not_true, Bool.or_self, Bool.false_eq_true, if_false,
    Hewer.settle_none _ p long hr.missed, State.setHew_hew s h hr.canon, hf, State.cmpPoint_off s h _ hr.canon hr.watch, hp, hsrc, State.noteEvent_off s h _ hr.sampling, ite_self]

/-- Nothing in the way: an instruction is its own effect and its end. -/
theorem State.runAs_runs (s : State) (h : Nat) (p : Pre) (long : Bool) (body : State → Step) (hr : s.Runs h)
    (hp : p.bad = none) : s.runAs h p long body = s.finish h p (body s) := by
  unfold State.runAs
  rw [State.issue_runs s h p long hr hp]

theorem State.run_runs (s : State) (h : Nat) (p : Pre) (body : State → Step) (hr : s.Runs h) (hp : p.bad = none) :
    s.run h p body = s.finish h p (body s) := State.runAs_runs s h p false body hr hp

theorem State.runLong_runs (s : State) (h : Nat) (p : Pre) (body : State → Step) (hr : s.Runs h) (hp : p.bad = none) :
    s.runLong h p body = s.finish h p (body s) := State.runAs_runs s h p true body hr hp

/-! ### Completing -/

@[simp] theorem Hewer.done_unit (x : Hewer) : x.done.unit = x.unit := by
  unfold Hewer.done Hewer.endWindow; dsimp only; split
  · rfl
  · split <;> rfl

@[simp] theorem Hewer.next_unit (x : Hewer) : x.next.unit = x.unit := Hewer.done_unit x

@[simp] theorem Hewer.done_rep (x : Hewer) : x.done.rep = x.rep := by
  unfold Hewer.done Hewer.endWindow; dsimp only; split
  · rfl
  · split <;> rfl

@[simp] theorem Hewer.next_rep (x : Hewer) : x.next.rep = x.rep := Hewer.done_rep x

@[simp] theorem Hewer.done_pc (x : Hewer) : x.done.pc = x.pc := by
  unfold Hewer.done Hewer.endWindow; dsimp only; split
  · rfl
  · split <;> rfl

@[simp] theorem Hewer.done_stepping (x : Hewer) : x.done.stepping = x.stepping := by
  unfold Hewer.done Hewer.endWindow; dsimp only; split
  · rfl
  · split <;> rfl

@[simp] theorem Hewer.next_stepping (x : Hewer) : x.next.stepping = x.stepping := Hewer.done_stepping x

@[simp] theorem Hewer.done_ctl (x : Hewer) : x.done.ctl = x.ctl := by
  unfold Hewer.done Hewer.endWindow; dsimp only; split
  · rfl
  · split <;> rfl

@[simp] theorem Hewer.next_ctl (x : Hewer) : x.next.ctl = x.ctl := Hewer.done_ctl x

@[simp] theorem Hewer.done_w (x : Hewer) : x.done.w = x.w := by
  unfold Hewer.done Hewer.endWindow; dsimp only; split
  · rfl
  · split <;> rfl

@[simp] theorem Hewer.next_w (x : Hewer) : x.next.w = x.w := Hewer.done_w x

@[simp] theorem Hewer.done_v (x : Hewer) : x.done.v = x.v := by
  unfold Hewer.done Hewer.endWindow; dsimp only; split
  · rfl
  · split <;> rfl

@[simp] theorem Hewer.next_v (x : Hewer) : x.next.v = x.v := Hewer.done_v x

@[simp] theorem Hewer.done_pstat (x : Hewer) : x.done.pstat = x.pstat := by
  unfold Hewer.done Hewer.endWindow; dsimp only; split
  · rfl
  · split <;> rfl

@[simp] theorem Hewer.next_pstat (x : Hewer) : x.next.pstat = x.pstat := Hewer.done_pstat x

@[simp] theorem Hewer.next_pc (x : Hewer) : x.next.pc = x.pc + 4 := rfl

theorem Hewer.passed_eq (x : Hewer) (h : x.ctl = []) : x.passed = x.done := by
  unfold Hewer.passed Hewer.done Hewer.ctlPass
  cases x
  simp only at h
  subst h
  rfl

theorem State.retire_plain (s : State) (h : Nat) (hu : (s.hew h).unit = none) (hr : (s.hew h).rep = none)
    (hc : (s.hew h).ctl = []) : s.retire h = s.setHew h (s.hew h).next := by
  have hp : s.passChoice h = s := by unfold State.passChoice; simp [hc]
  unfold State.retire
  simp only [hp, Hewer.passed_eq _ hc]
  have hU : (s.hew h).done.unit = none := by simp [hu]
  have hR : (s.hew h).done.rep = none := by simp [hr]
  split
  · rename_i e; rw [hU] at e; cases e
  · split
    · rename_i e; rw [hR] at e; cases e
    · rw [Hewer.done_pc]; rfl

@[simp] theorem State.noteEvent_hewers (s : State) (h e : Nat) : (s.noteEvent h e).hewers = s.hewers := by
  unfold State.noteEvent; split <;> rfl

@[simp] theorem State.noteEvent_reg (s : State) (h e a : Nat) : (s.noteEvent h e).reg a = s.reg a := by
  unfold State.noteEvent; split <;> rfl

theorem State.tally_hewers (s : State) (h e : Nat) : (s.tally h e).hewers = s.hewers := by
  unfold State.tally
  suffices ∀ m n (t : State), t.hewers = s.hewers → (t.tallyFrom h e 1 m n).hewers = s.hewers from this 8 0 _ (by simp)
  intro m
  induction m with
  | zero => intro n t ht; exact ht
  | succ j ih =>
    intro n t ht
    unfold State.tallyFrom
    refine ih _ _ ?_
    split
    · unfold State.addCount
      simp only
      split
      · exact ht
      · exact ht
    · exact ht

@[simp] theorem State.tally_hew (s : State) (h e k : Nat) : (s.tally h e).hew k = s.hew k := by
  unfold State.hew; rw [State.tally_hewers]

/-- A tally changes no register outside the tally counters and their status. -/
theorem State.tally_reg (s : State) (h e a : Nat) (ha : ∀ n, n < 8 → a ≠ Adr.TLY_HWR_CTR h n) (hs : a ≠ Adr.TLY_HWR_STAT h) :
    (s.tally h e).reg a = s.reg a := by
  unfold State.tally
  suffices ∀ m n (t : State), n + m ≤ 8 → t.reg a = s.reg a → (t.tallyFrom h e 1 m n).reg a = s.reg a from this 8 0 _ (by omega) (by simp)
  intro m
  induction m with
  | zero => intro n t _ ht; exact ht
  | succ j ih =>
    intro n t hn ht
    unfold State.tallyFrom
    refine ih _ _ (by omega) ?_
    split
    · unfold State.addCount
      simp only
      have h1 : ∀ v, (t.setFld (F.TLY_HWR_CTR.COUNT h n) v).reg a = s.reg a := by
        intro v
        rw [State.setFld_reg_other _ _ _ (ha n (by omega)), ht]
      split
      · exact h1 _
      · rw [State.setFld_reg_other _ _ _ hs]
        exact h1 _
    · exact ht

theorem State.tally_watch (s : State) (h e c : Nat) (hh : h < 512) (hc : c < 8) :
    (s.tally h e).flag (F.DBG_HWR_CMP_CTL.EN h c) = s.flag (F.DBG_HWR_CMP_CTL.EN h c) := by
  unfold State.flag State.fld
  rw [State.tally_reg]
  · intro n hn
    simp only [F.DBG_HWR_CMP_CTL.EN, Adr.DBG_HWR_CMP_CTL, Adr.TLY_HWR_CTR]
    omega
  · simp only [F.DBG_HWR_CMP_CTL.EN, Adr.DBG_HWR_CMP_CTL, Adr.TLY_HWR_STAT]
    omega

theorem State.tally_canonical (s : State) (h e : Nat) (hc : s.Canonical) : (s.tally h e).Canonical :=
  ((kept_iff _ _).mp (State.tally_kept (dv := s.devnum) s h e ((kept_iff _ _).mpr ⟨rfl, hc⟩))).2

theorem State.setHew_canonical (s : State) (h : Nat) (x : Hewer) (hc : s.Canonical) : (s.setHew h x).Canonical :=
  ((kept_iff _ _).mp (State.setHew_kept (dv := s.devnum) s h x ((kept_iff _ _).mpr ⟨rfl, hc⟩))).2

/-- An instruction whose effect left the state `t` completes in sequence. -/
theorem State.finish_ok (s t : State) (h : Nat) (p : Pre) (items : List CmpItem) (hh : h < 512)
    (hs : s.flag (F.TLY_HWR_SCTL.EN h) = false) (hc : t.Canonical)
    (hw : ∀ c, c < 8 → t.flag (F.DBG_HWR_CMP_CTL.EN h c) = false)
    (hu : (t.hew h).unit = none) (hr : (t.hew h).rep = none) (hl : (t.hew h).ctl = [])
    (hst : (t.hew h).stepping = false) : s.finish h p (.ok t items) = t.completes h (t.hew h).next := by
  unfold State.finish State.completes
  simp only [State.retire_plain t h hu hr hl]
  have hsm : ∀ u : State, u.sampled s h p none = u := by
    intro u; unfold State.sampled; simp [hs]
  rw [hsm, State.cmpPost_off]
  · unfold State.stepEnd
    have : (((t.setHew h (t.hew h).next).tally h 2).hew h).stepping = false := by
      rw [State.tally_hew, State.hew_setHew_same, Hewer.next_stepping]; exact hst
    simp only [this, Bool.false_and, Bool.false_eq_true, if_false]
  · exact State.tally_canonical _ _ _ (State.setHew_canonical _ _ _ hc)
  · intro c hc8
    rw [State.tally_watch _ _ _ _ hh hc8]
    exact hw c hc8

/-- The same of an instruction that has changed the hewer alone. -/
theorem State.finish_hew (s : State) (h : Nat) (p : Pre) (f : Hewer → Hewer) (items : List CmpItem) (hh : h < 512)
    (hr : s.Runs h) (hu : (f (s.hew h)).unit = none) (hrep : (f (s.hew h)).rep = none) (hl : (f (s.hew h)).ctl = [])
    (hst : (f (s.hew h)).stepping = false) :
    s.finish h p (.ok (s.modHew h f) items) = s.completes h (f (s.hew h)).next := by
  have hx : (s.modHew h f).hew h = f (s.hew h) := State.hew_setHew_same _ _ _
  rw [State.finish_ok s (s.modHew h f) h p items hh hr.sampling (State.setHew_canonical _ _ _ hr.canon) hr.watch
    (by rw [hx]; exact hu) (by rw [hx]; exact hrep) (by rw [hx]; exact hl) (by rw [hx]; exact hst), hx]
  unfold State.completes State.modHew
  rw [State.setHew_setHew _ _ _ _ hr.canon]

end Sys2Proof.Machine
end

