-- ==== Sys2Proof/Laws/Step.lean ====
section
/-!
SUPPORT. Every command and every step answers a next state.
-/
namespace Sys2Proof.Machine
/-- Every command answers a next state: no meaning ends in a fault or a refusal. -/
theorem exec_next (c : Instr) (s : State) : ∃ t, exec c s = .next t := by
  cases c
  case loadReturn h n =>
    show ∃ t, execLoadReturn h n s = .next t
    unfold execLoadReturn
    simp only
    split
    · exact ⟨_, rfl⟩
    · split <;> exact ⟨_, rfl⟩
  all_goals exact ⟨_, rfl⟩

/-- A step always answers a next state. -/
theorem step_next (s : State) : ∃ t, step s = .next t := by
  unfold step
  split
  · exact ⟨_, rfl⟩
  · exact exec_next _ _
end Sys2Proof.Machine
end

