-- ==== Sys2Proof/Tests/Slice0.lean ====
section
/-!
SUPPORT. The model's own tests: ill-formed commands are refused, the spec's worked examples come out as written, and for
every obligation with hypotheses a state that meets them.
-/
namespace Sys2Proof.Tests
set_option Elab.async false
set_option maxRecDepth 5000
open Sys2Proof.Machine

/-! ### Deciding the hypotheses that carry no decision procedure of their own -/

/-- `State.Canonical`, computed. -/
def canonOk (s : State) : Bool :=
  s.regs.wf regBase && s.hewers.wf (fun _ => Hewer.reset) && s.twins.wf (fun _ => Twin.reset) && s.mem.wf

theorem canonical_of_ok {s : State} (h : canonOk s = true) : s.Canonical := by
  unfold canonOk at h
  rw [Bool.and_eq_true, Bool.and_eq_true, Bool.and_eq_true] at h
  exact ⟨h.1.1.1, h.1.1.2, h.1.2, h.2⟩

/-- What `State.Runs` asks of the fetch, computed. -/
def fetchOk (s : State) (h : Nat) : Bool :=
  match s.fetchAt h (s.hew h).pc.toNat with
  | ⟨t, .ok _⟩ => decide (t = s)
  | _ => false

theorem fetch_of_ok {s : State} {h : Nat} (k : fetchOk s h = true) :
    ∃ l, s.fetchAt h (s.hew h).pc.toNat = ⟨s, .ok l⟩ := by
  unfold fetchOk at k
  split at k
  · next t l e => exact ⟨l, by rw [e, of_decide_eq_true k]⟩
  · cases k

/-- No comparator is enabled, computed. -/
def watchOk (s : State) (h : Nat) : Bool := (List.range 8).all (fun c => !(s.flag (F.DBG_HWR_CMP_CTL.EN h c)))

theorem watch_of_ok {s : State} {h : Nat} (k : watchOk s h = true) (c : Nat) (hc : c < 8) :
    s.flag (F.DBG_HWR_CMP_CTL.EN h c) = false := by
  have e := List.all_eq_true.mp k c (List.mem_range.mpr hc)
  rwa [Bool.not_eq_true'] at e

/-- `State.Runs`, computed. -/
def runsOk (s : State) (h : Nat) : Bool :=
  canonOk s && (s.canRun h && (!(s.asyncDue h) && ((s.hew h).unit.isNone && ((s.hew h).rep.isNone && ((s.hew h).ctl.isEmpty
    && ((s.hew h).missed.isEmpty && ((s.hew h).wPoison.isEmpty && ((s.hew h).vPoison.isEmpty && (!(s.hew h).stepping
    && (!(s.flag (F.TLY_HWR_SCTL.EN h)) && (watchOk s h
    && fetchOk s h)))))))))))

theorem runs_of_ok {s : State} {h : Nat} (k : runsOk s h = true) : s.Runs h := by
  unfold runsOk at k
  simp only [Bool.and_eq_true, Option.isNone_iff_eq_none, List.isEmpty_iff, Bool.not_eq_true'] at k
  obtain ⟨a, b, q, c, d, e, f, g, i, j, l, m, n⟩ := k
  exact ⟨canonical_of_ok a, b, q, c, d, e, f, g, i, j, l, watch_of_ok m, fetch_of_ok n⟩

/-- `State.Ends`, computed. -/
def endsOk (t : State) (h : Nat) : Bool :=
  canonOk t && (watchOk t h && ((t.hew h).unit.isNone && ((t.hew h).rep.isNone && ((t.hew h).ctl.isEmpty && !(t.hew h).stepping))))

theorem ends_of_ok {t : State} {h : Nat} (k : endsOk t h = true) : t.Ends h := by
  unfold endsOk at k
  simp only [Bool.and_eq_true, Option.isNone_iff_eq_none, List.isEmpty_iff, Bool.not_eq_true'] at k
  obtain ⟨a, b, c, d, e, f⟩ := k
  exact ⟨canonical_of_ok a, watch_of_ok b, c, d, e, f⟩

/-- `s.fetchAt` answers the leaf `l` and leaves `u`, computed. -/
def fetchAtOk (s : State) (h pc : Nat) (u : State) (l : Leaf) : Bool :=
  match s.fetchAt h pc with
  | ⟨t, .ok m⟩ => decide (t = u) && decide (m = l)
  | _ => false

theorem fetchAt_of_ok {s u : State} {h pc : Nat} {l : Leaf} (e : fetchAtOk s h pc u l = true) :
    s.fetchAt h pc = ⟨u, .ok l⟩ := by
  unfold fetchAtOk at e
  split at e
  · next t m x => rw [Bool.and_eq_true, decide_eq_true_iff, decide_eq_true_iff] at e; rw [x, e.1, e.2]
  · cases e

/-- `s.access` answers the pieces `l` and leaves `u`, computed. -/
def accessOk (s : State) (h : Nat) (k : AccKind) (va n : Nat) (u : State) (l : List Piece) : Bool :=
  match s.access h k va n with
  | ⟨t, .ok m⟩ => decide (t = u) && decide (m = l)
  | _ => false

theorem access_of_ok {s u : State} {h : Nat} {k : AccKind} {va n : Nat} {l : List Piece}
    (e : accessOk s h k va n u l = true) : s.access h k va n = ⟨u, .ok l⟩ := by
  unfold accessOk at e
  split at e
  · next t m x => rw [Bool.and_eq_true, decide_eq_true_iff, decide_eq_true_iff] at e; rw [x, e.1, e.2]
  · cases e

/-- `s.translate` answers the leaf `l` and changes nothing, computed. -/
def translateOk (s : State) (h : Nat) (k : AccKind) (va n : Nat) (al : Bool) (l : Leaf) : Bool :=
  match s.translate h k va n al with
  | ⟨t, .ok m⟩ => decide (t = s) && decide (m = l)
  | _ => false

theorem translate_of_ok {s : State} {h : Nat} {k : AccKind} {va n : Nat} {al : Bool} {l : Leaf}
    (e : translateOk s h k va n al l = true) : s.translate h k va n al = ⟨s, .ok l⟩ := by
  unfold translateOk at e
  split at e
  · next t m x => rw [Bool.and_eq_true, decide_eq_true_iff, decide_eq_true_iff] at e; rw [x, e.1, e.2]
  · cases e

/-- The operand state a micro-operation run goes on with. -/
def microNext : MicroStep → Micro
  | .next _ y _ => y
  | _ => ⟨0, 0, none, none, 0, [], 0, 0, [], 0, 0⟩

/-- The run goes on in state `s` with `k` words to skip, computed. -/
def microOk (r : MicroStep) (s : State) (k : Nat) : Bool :=
  match r with
  | .next t _ j => decide (t = s) && decide (j = k)
  | _ => false

theorem micro_of_ok {r : MicroStep} {s : State} {k : Nat} (e : microOk r s k = true) : r = .next s (microNext r) k := by
  unfold microOk at e
  split at e
  · rw [Bool.and_eq_true, decide_eq_true_iff, decide_eq_true_iff] at e; rw [e.1, e.2]; rfl
  · cases e

/-! ### States -/

/-- The state an outcome goes on in. -/
def nextOf : Host.Outcome State Fault Refusal → State
  | .next t => t
  | _ => State.reset

/-- Reset with these registers written. -/
def st (l : List (Nat × Word)) : State := l.foldl (fun s p => s.setReg p.1 p.2) State.reset
/-- The state once hewer 0's next word has been fetched, so that its code is near. -/
def fetched (s : State) : State := (s.fetchAt 0 (s.hew 0).pc.toNat).s
/-- Every domain on, hewer 0 as given, started. -/
def run0 (x : Hewer) : State :=
  fetched { State.reset with regs := [(Adr.PWR_DOM_STATE, 0xFFFFF)], hewers := [(0, { x with started := true })] }
/-- Every domain on and the DRAM ready. -/
def on0 : State := (st [(Adr.PWR_DOM_STATE, 0xFFFFF)]).raise F.MEM_STATUS.D3_READY |>.raise F.MEM_STATUS.D4_READY
/-- The hewer started, its bank fields selecting DRAM. -/
def hD (x : Hewer) : Hewer := { x with started := true, bank := 0x0f20000000000000 }
/-- Every domain on, the DRAM ready, hewer 0 as given. -/
def runD (x : Hewer) : State := fetched { on0 with hewers := [(0, hD x)] }
/-- Bytes placed in memory. -/
def wr (s : State) (a : Nat) (l : List Byte) : State := s.rawWrite a l
/-- The same in another mode. -/
def inMode (m : Mode) (s : State) : State := s.setFld F.CFG_MODE.CUR m.code
/-- Hewer 0 with two registers that address DRAM. -/
def hw (f : Hewer → Hewer) : State := runD (f {Hewer.reset with w := [(2,0x400),(3,0x403)]})
/-- The pieces of an access of hewer 0. -/
def pcs (s : State) (k : AccKind) (ea n : Nat) : List Piece := match (s.access 0 k ea n).r with | .ok l => l | _ => []
/-- The state after hewer 0's access is translated once. -/
def seen (s : State) (k : AccKind) (ea n : Nat) : State := (s.access 0 k ea n).s
/-- The state after hewer 0 loads the pieces. -/
def ldT (s : State) (l : List Piece) : State := (s.loadPieces 0 l).1
/-- The bytes hewer 0 loads from the pieces. -/
def ldB (s : State) (l : List Piece) : List Byte := match (s.loadPieces 0 l).2 with | .data b _ _ => b | _ => []
/-- The load is served late. -/
def ldL (s : State) (l : List Piece) : Bool := match (s.loadPieces 0 l).2 with | .data _ _ x => x | _ => false

/-! ### Well-formed commands: an ill-formed term for each check, and its well-formed neighbour -/

theorem test_sample_empty : (Instr.decimatedSample []).wellFormed = false := by decide
theorem test_sample_short_row : (Instr.decimatedSample [[0, 0]]).wellFormed = false := by decide
theorem test_sample_ok : (Instr.decimatedSample [List.replicate 16 0]).wellFormed = true := by decide
theorem test_thermal_eight : (Instr.thermalAdjust (List.replicate 8 0)).wellFormed = false := by decide
theorem test_thermal_nine : (Instr.thermalAdjust (List.replicate 9 0)).wellFormed = true := by decide
theorem test_window_counts : (Instr.bwWindowEnd [1, 2]).wellFormed = false := by decide
theorem test_frame_short : (Instr.frameReceived 0 (List.replicate 13 0) true).wellFormed = false := by decide
theorem test_frame_ok : (Instr.frameReceived 0 (List.replicate 14 0) true).wellFormed = true := by decide
theorem test_bar0_read_none : (Instr.bar0Read 0 0 0).wellFormed = false := by decide
theorem test_bar2_read_none : (Instr.bar2Read 0 0 0).wellFormed = false := by decide
theorem test_bar0_write_none : (Instr.bar0Write 0 0 [] false 0).wellFormed = false := by decide
theorem test_bar2_write_none : (Instr.bar2Write 0 0 [] false).wellFormed = false := by decide
theorem test_record_port_none : (Instr.recordPortWrite 0 [] false).wellFormed = false := by decide
theorem test_adit_record_none : (Instr.aditRecordWrite 0 0 [] false).wellFormed = false := by decide
theorem test_boot_item_width : (Instr.bootEarlySections [[.io 0 1 0]] 0 false).wellFormed = false := by decide
theorem test_boot_items_many : (Instr.bootApply (List.replicate 65 [])).wellFormed = false := by decide
theorem test_boot_items_ok : (Instr.bootApply [[.io 0 2 0]]).wellFormed = true := by decide

/-! ### Instruction words: the worked examples of 07_instruction_set.md and 09_custom_decode.md -/

theorem test_word_load : wMem 0x13 5 1 false 0x40 = 0x26508040 := by decide
theorem test_word_cmp : wReg 0x04 0 5 6 4 0 = 0x08029840 := by decide
theorem test_word_branch : wBranch true 7 5 = 0x41700005 := by decide
theorem test_word_addi : wImm 0x08 7 5 0x7FFF = 0x1072FFFF := by decide
theorem test_word_call : wJump 0x22 false 0xFFFFC0 = 0x44FFFFC0 := by decide
theorem test_word_nop : wSystem 0 0 0 2 = 0x00000002 := by decide
theorem test_word_li : wWide 0x0E 9 32 = 0x1C900020 := by decide
theorem test_word_rep : wRep = 0x02000000 := by decide
theorem test_word_store_up : wMem 0x1B 0 8 true 8 = 0x36044008 := by decide
theorem test_word_pidstep : wReg 0x7C 9 12 8 0 0 = 0xF8962000 := by decide
theorem test_words_legal : [0x26508040, 0x08029840, 0x41700005, 0x1072FFFF, 0x44FFFFC0, 2, 0x1C900020, 0x000481C9, 0x08A40200,
    0x02000000, 0x36044008, 0xF8962000].all legalWord = true := by decide +kernel
theorem test_word_reserved : legalWord 0x06000000 = false := by decide +kernel

/-! ### Hewers. Hewer 0 in banked DRAM; the expected values are worked by hand from the rules named -/

/-- Hewer 0 with w2 and w3, at address 0x10C. -/
def two (a b : Word) : State := hw (fun x => { x with w := [(2, a), (3, b)], pc := 0x10C })
/-- Register r of hewer 0 after a command. -/
def wAfter (o : Host.Outcome State Fault Refusal) (r : Nat) : Word := ((nextOf o).hew 0).getW r
/-- The flags N, Z, C and V of hewer 0 after a command. -/
def fAfter (o : Host.Outcome State Fault Refusal) : Nat := ((nextOf o).hew 0).nzcv

/-- R275: signed overflow into the sign sets N and V. -/
theorem test_add_overflow : wAfter (exec (.add 0 5 2 3) (two 0x7FFFFFFFFFFFFFFF 1)) 5 = 0x8000000000000000
    ∧ fAfter (exec (.add 0 5 2 3) (two 0x7FFFFFFFFFFFFFFF 1)) = 9 := by decide +kernel
/-- R275: equal operands leave no borrow: Z and C. -/
theorem test_sub_equal : wAfter (exec (.sub 0 5 2 3) (two 7 7)) 5 = 0
    ∧ fAfter (exec (.sub 0 5 2 3) (two 7 7)) = 6 := by decide +kernel
/-- R232: w0 discards a write. -/
theorem test_add_w0 : wAfter (exec (.add 0 0 2 3) (two 4 5)) 0 = 0 := by decide +kernel
/-- The source is also the destination. -/
theorem test_sub_same : wAfter (exec (.sub 0 2 3 2) (two 4 9)) 2 = 5 := by decide +kernel
/-- The upper half of a signed product. -/
theorem test_mulh : wAfter (exec (.mulh 0 5 2 3) (two 0xFFFFFFFFFFFFFFFF 5)) 5 = 0xFFFFFFFFFFFFFFFF := by decide +kernel
theorem test_mulhu : wAfter (exec (.mulhu 0 5 2 3) (two 0xFFFFFFFFFFFFFFFF 5)) 5 = 4 := by decide +kernel
/-- Shifts take the count from the low six bits. -/
theorem test_sar : wAfter (exec (.sar 0 5 2 3) (two 0x8000000000000000 0x43)) 5 = 0xF000000000000000 := by decide +kernel
theorem test_movk : wAfter (exec (.movk 0 2 1 0xBEEF) (two 0x1111222233334444 0)) 2 = 0x11112222BEEF4444 := by decide +kernel
/-- The addi of the worked example: the immediate is signed. -/
theorem test_addi : wAfter (exec (.addi 0 7 2 0x7FFF) (two 10 0)) 7 = 9 := by decide +kernel
/-- The b.sgt.a +5 of the worked example at offset 0x10C targets 0x120, and its slot is open; the branch was predicted. -/
def trained : State := (two 0 0).modTwin 0 (fun t => { t with pred := (t.pred.train 0x10C true).btbTouch kindCond 0x10C 0x120 })
theorem test_branch_target : ((nextOf (exec (.bCond 0 true 7 5) trained)).hew 0).unit.map (fun u => (u.addr, u.next))
    = some (0x10C, 0x120) := by decide +kernel
/-- A load reads its bytes least significant first, and a signed load extends. -/
theorem test_load_signed : wAfter (exec (.load 0 .hs 5 2 false 2 false) (wr (two 0x400 0) 0x402 [0xCD, 0xAB])) 5
    = 0xFFFFFFFFFFFFABCD := by decide +kernel
/-- The st.d with UP of the worked example: the base moves on by DISP14 and the old base is the address. -/
theorem test_store_up : wAfter (exec (.store 0 .d 3 2 true 8) (two 0x400 0x1122334455667788)) 2 = 0x408
    ∧ ((nextOf (exec (.store 0 .d 3 2 true 8) (two 0x400 0x1122334455667788))).sbFlush 0).mem.byte 0x407 = 0x11 := by decide +kernel
/-- R301: a store-conditional without a reservation writes nothing and returns 1. -/
theorem test_stx_fails : wAfter (exec (.stx 0 true false false 6 3 2) (two 0x400 0x400)) 6 = 1 := by decide +kernel
/-- The looper's return stack of 06_programmers_model.md: a call at RSP = RSL stores nothing and takes 0x0B. -/
def fullStack : State := hw (fun x => { x with pc := 0x10C, rsb := 0x400, rsl := 0x430, rsp := 0x430 })
theorem test_call_full : bitsOf ((nextOf (exec (.call 0 false 4) fullStack)).hew 0).mSet.ecause.toNat 7 0 = 0x0B
    ∧ ((nextOf (exec (.call 0 false 4) fullStack)).hew 0).rsp = 0x430 := by decide +kernel
/-- With the S set's VBASE = 0x4800_0000 a dirty-mark trap enters at 0x4800_0240 (the example of 11_exceptions_canary.md). -/
theorem test_dirty_vector :
    ((State.takeExc (hw (fun x => { x.setPsf 15 14 0 with sSet := { x.sSet with vbase := 0x48000000 } })) 0 0x09 0 0).hew 0).pc
      = 0x48000240 := by decide +kernel
/-- The page walk of 10_translation.md: 0x5200_0400 translates to 0x9A40_0400 for a load. -/
def paged : State :=
  let s := hw (fun x => { (x.setPsf 15 14 1).setPsf 12 12 0 with xmode := 2, droot := 0x100000, asid := 7 })
  wr (wr (wr s 0x100000 (bytesLE 8 0x101001)) 0x101008 (bytesLE 8 0x102001)) 0x102480 (bytesLE 8 0x9A40009B)
theorem test_walk : (pcs paged .load 0x52000400 8).map (fun p => (p.place, p.len)) = [(.phys 0x9A400400, 8)] := by
  decide +kernel
/-- The same page is not dirty: the first store takes the dirty-mark trap 0x09. -/
theorem test_walk_store : (match paged.access 0 .store 0x52000400 8 with | ⟨_, .error e⟩ => e.code | _ => 0) = 0x09 := by
  decide +kernel
/-- The body starts with the region entries that 10_translation.md gives for the two windows. -/
theorem test_windows : packetEntry = 0x07FFCFC000000050 ∧ resultEntry = 0x07FFEFD000000070 := by decide
/-- Hewer 300 of 01_organisation.md: its twin 337, its power domain D16, its control block at 0x0412_C000. -/
theorem test_hewer_300 : State.reset.twinOf 300 = 337 ∧ shaftDomain 300 = 16
    ∧ Adr.HWR_IENA 300 - Adr.HWR_IENA 0 = 0x0412C000 - 0x04000000 := by decide +kernel

/-! ### Floating point: IEEE 754 results -/

theorem test_fp_add : (fpAdd .dbl .nearestEven (fpDecode .dbl 0x3FB999999999999A) (fpDecode .dbl 0x3FC999999999999A)).bits
    = 0x3FD3333333333334 := by decide +kernel
theorem test_fp_div : (fpDiv .dbl .nearestEven (fpDecode .dbl 0x3FF0000000000000) (fpDecode .dbl 0x4008000000000000)).bits
    = 0x3FD5555555555555 := by decide +kernel
theorem test_fp_sqrt : (fpSqrt .dbl .nearestEven (fpDecode .dbl 0x4000000000000000)).bits = 0x3FF6A09E667F3BCD := by
  decide +kernel
/-- Word 7 of pidstep (09_custom_decode.md): 0.05 × 0.50 + 0.30 = 0.325. -/
theorem test_fp_fma : (fpFma .dbl .nearestEven (fpDecode .dbl 0x3FA999999999999A) (fpDecode .dbl 0x3FE0000000000000)
    (fpDecode .dbl 0x3FD3333333333333)).bits = 0x3FD4CCCCCCCCCCCD := by decide +kernel

/-! ### The units -/

/-- The example of 02_plant_time.md: unit 5 fires late, TARGET becomes the first multiple above the counter, two are missed. -/
def looper : State :=
  let s := inMode .run (hw id)
  let s := ((s.setReg (Adr.TIM_CMP_TARGET 5) 4008000000).setReg (Adr.TIM_CMP_PERIOD 5) 8000000).setReg (Adr.TIM_CMP_CTL 5) 1
  { s with time := { s.time with now := 4029700000 } }
theorem test_compare_fire : (nextOf (exec (.compareUnitFire 5) looper)).reg (Adr.TIM_CMP_TARGET 5) = 4032000000
    ∧ (nextOf (exec (.compareUnitFire 5) looper)).fld (F.TIM_CMP_STAT.MISSED 5) = 2 := by decide +kernel
/-- The example of 03_lode.md: w4 is older than w3 and discarded, which counts in OLDER. -/
def tension : State :=
  let s := ((hw id).raise F.LOD_STATUS.INIT_DONE).setFld F.LOD_EPOCH.OPEN 4
  let w3 : LodeCopy := { LodeCopy.reset with ptime := 8000003200, source := 0x016402, tag := 4, seq := 0x3EA }
  let s := (s.setFld F.LOD_OPEN_B.BOUNDARY 8000000000).setSlot 0x1A40 { LodeSlot.reset with c0 := w3 }
  let w4 : LodeWrite := { path := .link, slot := 0x1A40, value := 9, kind := 0, quality := 1, time := some 7999998400,
                          source := 0x016402, poison := false }
  { s with lode := { s.lode with inq := [.write w4] }, time := { s.time with now := 8000024000 } }
theorem test_lode_older : (nextOf (exec .lodeWriteApply tension)).fld F.LOD_COUNTS.OLDER = 1
    ∧ ((nextOf (exec .lodeWriteApply tension)).slot 0x1A40).c0.seq = 0x3EA := by decide +kernel
/-- The activation of 04_draught_tasks.md: released at B, its deadline is B + 3,200,000. -/
theorem test_deadline : (newActivation ⟨0, 0, 0, false, false, false, false, 0, 0, 0, 0, 8000000, 0, 12500, 3125, 6250, 0, 0, 0, 0,
    0, 0, 0, 0, 0, 0, 0, 0, 0, 0, 0, 0⟩ 8000000000 0x14800 0).deadlineAt = 8003200000 := by decide +kernel
/-- The memory map example of 13_memory_controller.md. -/
theorem test_dram_location : State.reset.dramLoc 0x3A100040 = ⟨0, 1, 929, 1⟩
    ∧ State.reset.checkLine 0x3A100040 = 0xE03A1000 := by decide +kernel
/-- The analog sample of 18_anemometer.md: the code sum 524,301 over 10 gives 3,355,526. -/
theorem test_anm_code : anmCode [524301] 10 = 3355526 := by decide +kernel
/-- The valve reference of 18_anemometer.md: FP64 1.8 V gives the code 47,186. -/
theorem test_anm_output : State.reset.outConvert 0 0 0x3FFCCCCCCCCCCCCD = some 47186 := by decide +kernel
/-- The counter example of 22_tally.md: the millionth miss wraps CTR0 to 0 and sets OVF bit 0. -/
def misses : State :=
  let s := inMode .run (hw id)
  (s.setFld (F.TLY_HWR_EVT.EVENT 0 0) 0x00B |>.setFld (F.TLY_HWR_EVT.PLM 0 0) 7).setFld (F.TLY_HWR_CTR.COUNT 0 0) 0xFFFFFFF0BDC0
theorem test_counter_wraps : (misses.addCount 0 0 1000000).fld (F.TLY_HWR_CTR.COUNT 0 0) = 0
    ∧ (misses.addCount 0 0 1000000).fld (F.TLY_HWR_STAT.OVF 0) = 1 := by decide +kernel
/-- Kicking the canary reloads REMAIN with TIMEOUT (the first row of the example of 11_exceptions_canary.md). -/
theorem test_kick : (nextOf (exec (.canaryKick (.hewer 0) 0) ((hw id).setReg (Adr.CAN_HWR_CTL 0) (2000 + 2 ^ 31)))).fld
    (F.CAN_HWR_STAT.REMAIN 0) = 2000 := by decide +kernel
/-- An empty queue ticks: with TIM_RATE 0 plant time moves on by 20 pt in one TCLK cycle (R48). -/
theorem test_tick : (nextOf (step on0)).time.now = 20 := by decide +kernel
/-- The step takes the front command and leaves the rest. -/
theorem test_queue : (nextOf (step { on0 with pending := [.nop 0, .sync 1] })).pending = [.sync 1] := by decide +kernel
/-- The table gives no command bits. -/
theorem test_no_word : decodeTableWord 32 0x26508040 = none := by decide

/-! ### Witnesses: the hypotheses of every statement that has some, met by concrete states

One theorem per obligation (two where the statement's parts need different families of states, or where it has very many
clauses). Each group of conjuncts is about one state: the hypotheses of the clauses which that state makes active. -/

namespace Invariant

/-- Reset with a command waiting. -/
def queued : State := { State.reset with pending := [.nop 0] }

/-- The hypotheses of `Obligations.CanonicalKept` hold together. -/
theorem witness_CanonicalKept : queued.Canonical ∧ ∃ t, step queued = .next t :=
  ⟨canonical_of_ok (by decide +kernel), step_next queued⟩

/-- The hypotheses of `Obligations.DeviceNumberFixed` hold together. -/
theorem witness_DeviceNumberFixed : queued.Canonical ∧ (∀ dn v, queued.pending.head? ≠ some (.pornRise dn v))
    ∧ ∃ t, step queued = .next t :=
  ⟨canonical_of_ok (by decide +kernel), by intro dn v h; injection h; contradiction, step_next queued⟩

/-- The hypotheses of `Obligations.SnapshotStaysFixed` hold together. -/
theorem witness_SnapshotStaysFixed : Instr.lodeWriteApply ∈ [Instr.lodeWriteApply, .softwareWrite 0x805 1, .forceSet 0x805,
    .forceClear 0x805, .lodCfgDataWrite 1] ∧ ∃ t, exec .lodeWriteApply tension = .next t :=
  ⟨List.mem_cons_self, exec_next _ _⟩

end Invariant

namespace Block

def stopped : State := st [(Adr.CFG_MODE, 0)]
def unlocked : State := { State.reset with pwr := { State.reset.pwr with pllLocked := false } }
def slowest : State := { (st [(Adr.TIM_RATE, 0xFFFFFFFF)]) with time := { State.reset.time with now := 100, frac := 0 } }
def queued : State := {State.reset with pending := [.nop 0, .nop 1]}
def twoRegs : State := run0 {Hewer.reset with w := [(2,0x8000000000000000),(3,0xFFFFFFFFFFFFFFFF),(4, 64)]}

/-- The hypotheses of the clauses of `Obligations.StepTakesFront` hold together, each group of one state. -/
theorem witness_StepTakesFront :
    (queued.pending = [Instr.nop 0, Instr.nop 1]) :=
  by decide +kernel

/-- The hypotheses of the clauses of `Obligations.EmptyQueueTicks` hold together, each group of one state. -/
theorem witness_EmptyQueueTicks :
    (stopped.pending = []
      ∧ stopped.mode = Mode.off)
    ∧ (unlocked.pending = []
      ∧ unlocked.mode ≠ Mode.off
      ∧ unlocked.pwr.pllLocked = false)
    ∧ (slowest.pending = []
      ∧ slowest.mode ≠ Mode.off
      ∧ slowest.pwr.pllLocked = true) :=
  by decide +kernel

/-- The hypotheses of the clauses of `Obligations.IntegerAddSubtract` hold together, each group of one state. -/
theorem witness_IntegerAddSubtract :
    (twoRegs.Runs 0) :=
  runs_of_ok (by decide +kernel)

/-- The hypotheses of the clauses of `Obligations.IntegerLogicAndMoves` hold together, each group of one state. -/
theorem witness_IntegerLogicAndMoves :
    (twoRegs.Runs 0) :=
  runs_of_ok (by decide +kernel)

/-- The hypotheses of the clauses of `Obligations.IntegerShifts` hold together, each group of one state. -/
theorem witness_IntegerShifts :
    (twoRegs.Runs 0) :=
  runs_of_ok (by decide +kernel)

/-- The hypotheses of the clauses of `Obligations.IntegerMultiplyDivide` hold together, each group of one state. -/
theorem witness_IntegerMultiplyDivide :
    (twoRegs.Runs 0
      ∧ (twoRegs.hew 0).getW 3 ≠ 0)
    ∧ (twoRegs.Runs 0
      ∧ (twoRegs.hew 0).getW 0 = 0) :=
  ⟨⟨runs_of_ok (by decide +kernel), by decide +kernel⟩,
    ⟨runs_of_ok (by decide +kernel), by decide +kernel⟩⟩

end Block

namespace LoadStore

def based : Hewer := {Hewer.reset with w := [(2,0x100),(3,0x8877665544332211),(4, 1), (30, 0x200)]}
def filled : State := wr (runD based) 0x100 [0x81,0x82,0x83,0x84,0x85,0x86,0x87,0x88,0x99]
def top : Hewer := {based with w := [(2,0x3FFFFFFFF8),(3,0x8877665544332211),(4, 1), (30, 0x200)]}
def edge : State := wr (runD top) 0x3FFFFFFFF8 [0x81,0x82,0x83,0x84,0x85,0x86,0x87,0x88]
def stacked : State := wr (runD {based with w := [(30,0x100)]}) 0x100 [0x81,0x82,0x83,0x84,0x85,0x86,0x87,0x88,0x99]
def theMiss : MissedLoad := ⟨5, false, 77, false, none, false, none⟩
def missing : State := runD {based with missed := [theMiss]}
def reserved : State := {filled with hewers := [(0, {hD based with resv := some 4})]}
def L1 := pcs edge .load 0x3FFFFFFFF8 8
def L3 := pcs filled .load 0x102 2
def L4 := pcs filled .load 0x100 8
def L6 := pcs stacked .load 0x100 8
def entry : StoreEntry := ⟨0x104, [1, 2, 3, 4], 0, 0, none⟩
def buffered (n : Nat) (s : State) : State := s.modTwin 0 (fun t => { t with sbuf := (List.range n).map (fun k => ⟨0x104 + 0x40 * k, [1, 2, 3, 4], 0, 0, none⟩) })
def buf1 : State := buffered 1 filled
def buf8 : State := (buffered 8 filled).modHew 5 (fun x => { x with resv := some 4 })

/-- The hypotheses of the clauses of `Obligations.LoadsReadTheirBytes` hold together, each group of one state. -/
theorem witness_LoadsReadTheirBytes :
    (edge.Runs 0
      ∧ edge.access 0 AccKind.load (BitVec.toNat (if false = true then (edge.hew 0).getW 2 else (edge.hew 0).getW 2 + BitVec.signExtend 64 0#14)) (loadSize LoadKind.d) = { s := edge, r := Except.ok L1 }
      ∧ edge.hostPiece L1 = Option.none
      ∧ edge.loadPieces 0 L1 = (ldT edge L1, Got.data (ldB edge L1) false (ldL edge L1))
      ∧ (false = true → 2 ≠ 0 ∧ (2 ≠ 5 ∨ LoadKind.d = LoadKind.q)))
    ∧ (filled.Runs 0
      ∧ filled.access 0 AccKind.load (BitVec.toNat ((filled.hew 0).getW 2 + (filled.hew 0).getW 4 <<< 1)) (loadSize LoadKind.h) = { s := filled, r := Except.ok L3 }
      ∧ filled.hostPiece L3 = Option.none
      ∧ filled.loadPieces 0 L3 = (ldT filled L3, Got.data (ldB filled L3) false (ldL filled L3)))
    ∧ (stacked.Runs 0
      ∧ stacked.access 0 AccKind.load (BitVec.toNat ((stacked.hew 0).getW 30)) (loadSize LoadKind.d) = { s := stacked, r := Except.ok L6 }
      ∧ BitVec.toNat ((stacked.hew 0).getW 30) % 8 = 0
      ∧ stacked.hostPiece L6 = Option.none
      ∧ stacked.loadPieces 0 L6 = (ldT stacked L6, Got.data (ldB stacked L6) false (ldL stacked L6)))
    ∧ (List.drop 0 (missing.hew 0).missed = [theMiss]
      ∧ theMiss.tag = Option.none
      ∧ missing.pwr.pllLocked = true)
    ∧ ((List.drop 1 (missing.hew 0).missed = [] ∨ missing.pwr.pllLocked = false))
    ∧ (filled.areaOf 256 = 1
      ∧ filled.poisoned 256 8 = false
      ∧ sbLatest (filled.twin (filled.twinOf 0)).sbuf 256 8 = Option.none)
    ∧ (buf1.areaOf 260 = 1
      ∧ sbLatest (buf1.twin (buf1.twinOf 0)).sbuf 260 2 = Option.some (1, entry)
      ∧ entry.covers 260 2 = true) :=
  ⟨⟨runs_of_ok (by decide +kernel), access_of_ok (by decide +kernel), by decide +kernel⟩,
    ⟨runs_of_ok (by decide +kernel), access_of_ok (by decide +kernel), by decide +kernel⟩,
    ⟨runs_of_ok (by decide +kernel), access_of_ok (by decide +kernel), by decide +kernel⟩,
    by decide +kernel⟩

/-- The hypotheses of the clauses of `Obligations.StoresWriteOnlyTheirBytes` hold together, each group of one state. -/
theorem witness_StoresWriteOnlyTheirBytes :
    (filled.Runs 0
      ∧ filled.access 0 AccKind.store (BitVec.toNat (if false = true then (filled.hew 0).getW 2 else (filled.hew 0).getW 2 + BitVec.signExtend 64 1#14)) (storeSize StoreKind.w) = { s := filled, r := Except.ok [{ place := Place.phys 257, len := storeSize StoreKind.w, ca := 0, via := Option.none }] }
      ∧ filled.access 0 AccKind.store (BitVec.toNat ((filled.hew 0).getW 2 + (filled.hew 0).getW 4 <<< 0)) (storeSize StoreKind.w) = { s := filled, r := Except.ok [{ place := Place.phys 257, len := storeSize StoreKind.w, ca := 0, via := Option.none }] }
      ∧ filled.areaOf 257 = 1
      ∧ (false = true → 2 ≠ 0)
      ∧ (filled.twin (filled.twinOf 0)).sbuf.length < 8
      ∧ (∀ (n : Nat), n < 8 → 0 ≠ Adr.TLY_HWR_CTR 0 n)
      ∧ 0 ≠ Adr.TLY_HWR_STAT 0)
    ∧ (filled.Runs 0
      ∧ filled.access 0 AccKind.store (BitVec.toNat ((filled.hew 0).getW 30 - 8)) 8 = { s := filled, r := Except.ok [{ place := Place.phys 504, len := 8, ca := 0, via := Option.none }] }
      ∧ BitVec.toNat ((filled.hew 0).getW 30) % 8 = 0
      ∧ filled.areaOf 504 = 1
      ∧ (filled.twin (filled.twinOf 0)).sbuf.length < 8
      ∧ (∀ (n : Nat), n < 8 → 0 ≠ Adr.TLY_HWR_CTR 0 n)
      ∧ 0 ≠ Adr.TLY_HWR_STAT 0)
    ∧ (buf8.Runs 0
      ∧ buf8.access 0 AccKind.store (BitVec.toNat ((buf8.hew 0).getW 2 + (buf8.hew 0).getW 4 <<< 2)) (storeSize StoreKind.b) = { s := buf8, r := Except.ok [{ place := Place.phys 260, len := storeSize StoreKind.b, ca := 0, via := Option.none }] }
      ∧ buf8.areaOf 260 = 1
      ∧ 8 ≤ (buf8.twin (buf8.twinOf 0)).sbuf.length
      ∧ entry ∈ (buf8.twin (buf8.twinOf 0)).sbuf.head?)
    ∧ (buf8.Runs 0
      ∧ buf8.access 0 AccKind.store (BitVec.toNat ((buf8.hew 0).getW 30 - 8)) 8 = { s := buf8, r := Except.ok [{ place := Place.phys 504, len := 8, ca := 0, via := Option.none }] }
      ∧ BitVec.toNat ((buf8.hew 0).getW 30) % 8 = 0
      ∧ buf8.areaOf 504 = 1
      ∧ 8 ≤ (buf8.twin (buf8.twinOf 0)).sbuf.length)
    ∧ (buf8.Runs 0
      ∧ buf8.access 0 AccKind.store (BitVec.toNat (if false = true then (buf8.hew 0).getW 2 else (buf8.hew 0).getW 2 + BitVec.signExtend 64 1#14)) (storeSize StoreKind.w) = { s := buf8, r := Except.ok [{ place := Place.phys 257, len := storeSize StoreKind.w, ca := 0, via := Option.none }] }
      ∧ buf8.areaOf 257 = 1
      ∧ (false = true → 2 ≠ 0)
      ∧ 8 ≤ (buf8.twin (buf8.twinOf 0)).sbuf.length)
    ∧ (buf8.Canonical
      ∧ (0 < entry.pa ∨ entry.pa + entry.data.length ≤ 0)) :=
  ⟨⟨runs_of_ok (by decide +kernel), access_of_ok (by decide +kernel), access_of_ok (by decide +kernel), by decide +kernel⟩,
    ⟨runs_of_ok (by decide +kernel), access_of_ok (by decide +kernel), by decide +kernel⟩,
    ⟨runs_of_ok (by decide +kernel), access_of_ok (by decide +kernel), by decide +kernel⟩,
    ⟨runs_of_ok (by decide +kernel), access_of_ok (by decide +kernel), by decide +kernel⟩,
    ⟨runs_of_ok (by decide +kernel), access_of_ok (by decide +kernel), by decide +kernel⟩,
    ⟨canonical_of_ok (by decide +kernel), by decide +kernel⟩⟩

/-- The hypotheses of the clauses of `Obligations.ReservationPair` hold together, each group of one state. -/
theorem witness_ReservationPair :
    (filled.Runs 0
      ∧ filled.access 0 AccKind.ldx (BitVec.toNat ((filled.hew 0).getW 2)) (if true = true then 8 else 4) = { s := filled, r := Except.ok [{ place := Place.phys 256, len := if true = true then 8 else 4, ca := 0, via := Option.none }] }
      ∧ filled.access 0 AccKind.stx (BitVec.toNat ((filled.hew 0).getW 2)) (if true = true then 8 else 4) = { s := filled, r := Except.ok [{ place := Place.phys 256, len := if true = true then 8 else 4, ca := 0, via := Option.none }] }
      ∧ (BitVec.toNat ((filled.hew 0).getW 2) % if true = true then 8 else 4) = 0
      ∧ (if true = true then filled.sbFlush 0 else filled).loadPieces 0 [{ place := Place.phys 256, len := if true = true then 8 else 4, ca := 0, via := Option.none }] = (ldT filled L4, Got.data (ldB filled L4) false (ldL filled L4))
      ∧ (filled.hew 0).resv ≠ Option.some (256 / 64))
    ∧ (reserved.Runs 0
      ∧ reserved.access 0 AccKind.stx (BitVec.toNat ((reserved.hew 0).getW 2)) (if false = true then 8 else 4) = { s := reserved, r := Except.ok [{ place := Place.phys 256, len := if false = true then 8 else 4, ca := 0, via := Option.none }] }
      ∧ (BitVec.toNat ((reserved.hew 0).getW 2) % if false = true then 8 else 4) = 0
      ∧ (reserved.hew 0).resv = Option.some (256 / 64)
      ∧ (0 < 256 ∨ (256 + if false = true then 8 else 4) ≤ 0)) :=
  ⟨⟨runs_of_ok (by decide +kernel), access_of_ok (by decide +kernel), access_of_ok (by decide +kernel), by decide +kernel⟩,
    ⟨runs_of_ok (by decide +kernel), access_of_ok (by decide +kernel), by decide +kernel⟩⟩

/-- The hypotheses of the clauses of `Obligations.AtomicReadModifyWrite` hold together, each group of one state. -/
theorem witness_AtomicReadModifyWrite :
    (buf8.Runs 0
      ∧ buf8.access 0 AccKind.amo (BitVec.toNat ((buf8.hew 0).getW 2)) (if true = true then 8 else 4) = { s := buf8, r := Except.ok [{ place := Place.phys 256, len := if true = true then 8 else 4, ca := 0, via := Option.none }] }
      ∧ (BitVec.toNat ((buf8.hew 0).getW 2) % if true = true then 8 else 4) = 0
      ∧ (buf8.sbFlush 0).poisoned 256 (if true = true then 8 else 4) = false
      ∧ (0 < 256 ∨ (256 + if true = true then 8 else 4) ≤ 0)) :=
  ⟨runs_of_ok (by decide +kernel), access_of_ok (by decide +kernel), by decide +kernel⟩

end LoadStore

namespace Flow

def at200 : State := hw (fun x => {x with pc := 0x200})
def neg : State := hw (fun x => {x with pc := 0x200, pstat := 0x40000000#64 ||| x.pstat})
def stk (r : Word) : State := wr (hw (fun x => {x with pc := 0x200, rsp := r, rsb := 0x1000, rsl := 0x1010})) 0x1000 [0x44,0x10]
def inSlot (u : TransferUnit) : State := hw (fun x => {x with pc := 0x204, rsp := 0x1008, unit := some u})
def uJump : TransferUnit := ⟨0x200, 0x500, none, 0, none, 0x1008⟩
def uCall : TransferUnit := ⟨0x200, 0x500, some 0x1008, 0, none, 0x1008⟩
def full : State := stk 0x1010
def one : State := stk 0x1008
def empty : State := stk 0x1000
def slotJump : State := inSlot uJump
def slotCall : State := inSlot uCall
def lr (s : State) : List Piece := pcs s .stackRead ((s.hew 0).rsp - 8).toNat 8
def odd : State := wr one 0x1000 [0x46]
def rt (s : State) : State := ldT s (lr s)
def repeated (c : Word) : State := hw (fun x => {x with pc := 0x200, cnt := c})
def rep0 : State := repeated 0xFFFFFFFF00000000
def rep1 : State := repeated 1
def leafAt (s : State) (a : Nat) : Leaf := match (s.fetchAt 0 a).r with | .ok l => l | _ => ⟨.phys 0, false, false, false, false, false, false, none, false, false, 0, none⟩
def ftT (s : State) (a : Nat) : State := (s.fetchAt 0 a).s
def inRep (c : Word) : State := hw (fun x => {x with pc := 0x204, cnt := c, rep := some 0x200})
def last : State := inRep 0x7700000001
def more : State := inRep 0xFFFFFFFF
def inM : State := hw (fun x => {x with pc := 0x200})
def lvl (n : Nat) : State := hw (fun x => {x.setPsf 15 14 n with pc := 0x200})
def inU : State := lvl 0
def inS : State := lvl 1
def swbp : State := (lvl 1).raise F.DBG_CTL.SWBP_EN
def mRet : State := hw (fun x => {x.setPsf 15 14 3 with pc := 0x200, mSet := {x.mSet with vbase := 0x5000, epc := 0x88, ecause := 0x50030001}})
def winOpen : State := inS.modHew 0 (fun x => { x with winS := true })
def winOpenM : State := inM.modHew 0 (fun x => { x.setPsf 15 14 3 with winM := true })
def inS1 := lvl 1

/-- The hypotheses of the clauses of `Obligations.TransfersOpenDelaySlot` hold together, each group of one state. -/
theorem witness_TransfersOpenDelaySlot :
    (neg.Runs 0
      ∧ (neg.twin (neg.twinOf 0)).pred.cps.length < 4
      ∧ condHolds 1 (neg.hew 0).nzcv = true
      ∧ (∀ (n : Nat), n < 8 → 0 ≠ Adr.TLY_HWR_CTR 0 n)
      ∧ 0 ≠ Adr.TLY_HWR_STAT 0
      ∧ BitVec.toNat ((neg.hew 0).getW 3) % 4 ≠ 0)
    ∧ (at200.Runs 0
      ∧ (at200.twin (at200.twinOf 0)).pred.cps.length < 4
      ∧ condHolds 1 (at200.hew 0).nzcv = false
      ∧ (∀ (n : Nat), n < 8 → 0 ≠ Adr.TLY_HWR_CTR 0 n)
      ∧ 0 ≠ Adr.TLY_HWR_STAT 0
      ∧ BitVec.toNat ((at200.hew 0).getW 2) % 4 = 0)
    ∧ (at200.Runs 0
      ∧ (at200.twin (at200.twinOf 0)).pred.cps.length < 4
      ∧ condHolds 1 (at200.hew 0).nzcv = false
      ∧ (∀ (n : Nat), n < 8 → 0 ≠ Adr.TLY_HWR_CTR 0 n)
      ∧ 0 ≠ Adr.TLY_HWR_STAT 0)
    ∧ ((slotJump.hew 0).unit = Option.some uJump
      ∧ uJump.push = Option.none
      ∧ (slotJump.hew 0).ctl = []) :=
  ⟨⟨runs_of_ok (by decide +kernel), by decide +kernel⟩,
    ⟨runs_of_ok (by decide +kernel), by decide +kernel⟩,
    ⟨runs_of_ok (by decide +kernel), by decide +kernel⟩,
    by decide +kernel⟩

/-- The hypotheses of the clauses of `Obligations.CallsAndReturns` hold together, each group of one state. -/
theorem witness_CallsAndReturns :
    (full.Runs 0
      ∧ full.access 0 AccKind.stackRead (BitVec.toNat ((full.hew 0).rsp - 8)) 8 = { s := full, r := Except.ok (lr full) }
      ∧ (full.twin (full.twinOf 0)).pred.cps.length < 4
      ∧ BitVec.toNat (full.hew 0).rsl < BitVec.toNat (full.hew 0).rsp + 8
      ∧ BitVec.toNat ((full.hew 0).getW 2) % 4 = 0
      ∧ BitVec.toNat (full.hew 0).rsb < BitVec.toNat (full.hew 0).rsp
      ∧ full.loadPieces 0 (lr full) = (rt full, Got.data (ldB full (lr full)) false (ldL full (lr full)))
      ∧ (ldB full (lr full)).length = 8
      ∧ natLE (ldB full (lr full)) % 4 = 0)
    ∧ (one.Runs 0
      ∧ one.access 0 AccKind.stackWrite (BitVec.toNat (one.hew 0).rsp) 8 = { s := one, r := Except.ok [{ place := Place.phys 4104, len := 8, ca := 0, via := Option.none }] }
      ∧ (one.twin (one.twinOf 0)).pred.cps.length < 4
      ∧ BitVec.toNat (one.hew 0).rsp + 8 ≤ BitVec.toNat (one.hew 0).rsl
      ∧ BitVec.toNat ((one.hew 0).getW 2) % 4 = 0)
    ∧ (one.Runs 0
      ∧ (one.twin (one.twinOf 0)).pred.cps.length < 4
      ∧ BitVec.toNat ((one.hew 0).getW 3) % 4 ≠ 0)
    ∧ (odd.Runs 0
      ∧ odd.access 0 AccKind.stackRead (BitVec.toNat ((odd.hew 0).rsp - 8)) 8 = { s := odd, r := Except.ok (lr odd) }
      ∧ (odd.twin (odd.twinOf 0)).pred.cps.length < 4
      ∧ BitVec.toNat (odd.hew 0).rsb < BitVec.toNat (odd.hew 0).rsp
      ∧ odd.loadPieces 0 (lr odd) = (rt odd, Got.data (ldB odd (lr odd)) false (ldL odd (lr odd)))
      ∧ (ldB odd (lr odd)).length = 8
      ∧ natLE (ldB odd (lr odd)) % 4 ≠ 0)
    ∧ (empty.Runs 0
      ∧ (empty.twin (empty.twinOf 0)).pred.cps.length < 4
      ∧ BitVec.toNat (empty.hew 0).rsp ≤ BitVec.toNat (empty.hew 0).rsb)
    ∧ ((slotCall.hew 0).unit = Option.some uCall
      ∧ (slotCall.hew 0).ctl = []
      ∧ uCall.push = Option.some 4104
      ∧ slotCall.areaOf 4104 = 1) :=
  ⟨⟨runs_of_ok (by decide +kernel), access_of_ok (by decide +kernel), by decide +kernel⟩,
    ⟨runs_of_ok (by decide +kernel), access_of_ok (by decide +kernel), by decide +kernel⟩,
    ⟨runs_of_ok (by decide +kernel), by decide +kernel⟩,
    ⟨runs_of_ok (by decide +kernel), access_of_ok (by decide +kernel), by decide +kernel⟩,
    ⟨runs_of_ok (by decide +kernel), by decide +kernel⟩,
    by and_intros <;> decide +kernel⟩

/-- The hypotheses of the clauses of `Obligations.RepRepeatsItsInstruction` hold together, each group of one state. -/
theorem witness_RepRepeatsItsInstruction :
    (rep0.Runs 0
      ∧ rep0.fetchAt 0 (BitVec.toNat ((rep0.hew 0).pc + 4)) = { s := ftT rep0 516, r := Except.ok (leafAt rep0 516) }
      ∧ repeatable 134217728 = true
      ∧ BitVec.toNat (rep0.hew 0).cnt % 2 ^ 32 = 0)
    ∧ (rep1.Runs 0
      ∧ rep1.fetchAt 0 (BitVec.toNat ((rep1.hew 0).pc + 4)) = { s := ftT rep1 516, r := Except.ok (leafAt rep1 516) }
      ∧ repeatable 134217728 = true
      ∧ BitVec.toNat (rep1.hew 0).cnt % 2 ^ 32 ≠ 0)
    ∧ (rep1.Runs 0
      ∧ rep1.fetchAt 0 (BitVec.toNat ((rep1.hew 0).pc + 4)) = { s := ftT rep1 516, r := Except.ok (leafAt rep1 516) }
      ∧ repeatable 0 = false)
    ∧ ((last.hew 0).unit = Option.none
      ∧ (last.hew 0).rep = Option.some 512
      ∧ (last.hew 0).ctl = []
      ∧ BitVec.toNat (last.hew 0).cnt % 2 ^ 32 = 1)
    ∧ ((more.hew 0).unit = Option.none
      ∧ (more.hew 0).rep = Option.some 512
      ∧ (more.hew 0).ctl = []
      ∧ 1 < BitVec.toNat (more.hew 0).cnt % 2 ^ 32) :=
  ⟨⟨runs_of_ok (by decide +kernel), fetchAt_of_ok (by decide +kernel), by decide +kernel⟩,
    ⟨runs_of_ok (by decide +kernel), fetchAt_of_ok (by decide +kernel), by decide +kernel⟩,
    ⟨runs_of_ok (by decide +kernel), fetchAt_of_ok (by decide +kernel), by decide +kernel⟩,
    by decide +kernel⟩

/-- The hypotheses of the clauses of `Obligations.ExceptionEntry` hold together, each group of one state. -/
theorem witness_ExceptionEntry :
    (inU.Canonical
      ∧ (¬((inU.hew 0).winM = true ∧ (inU.hew 0).pl = 3))
      ∧ (¬((inU.hew 0).winS = true ∧ (inU.hew 0).pl = 1))
      ∧ (∀ (n : Nat), n < 8 → 0 ≠ Adr.TLY_HWR_CTR 0 n)
      ∧ 0 ≠ Adr.TLY_HWR_STAT 0)
    ∧ (winOpen.Canonical
      ∧ (winOpen.hew 0).winS = true
      ∧ (winOpen.hew 0).pl = 1)
    ∧ (winOpenM.Canonical
      ∧ (winOpenM.hew 0).winM = true
      ∧ (winOpenM.hew 0).pl = 3) :=
  ⟨⟨canonical_of_ok (by decide +kernel), by decide +kernel⟩,
    ⟨canonical_of_ok (by decide +kernel), by decide +kernel⟩,
    ⟨canonical_of_ok (by decide +kernel), by decide +kernel⟩⟩

/-- The hypotheses of the clauses of `Obligations.SystemEntriesAndReturn` hold together, each group of one state. -/
theorem witness_SystemEntriesAndReturn :
    (inU.Runs 0
      ∧ (inU.hew 0).pl = 0
      ∧ inU.flag F.DBG_CTL.SWBP_EN = false)
    ∧ (inS.Runs 0
      ∧ (inS.hew 0).pl ≠ 0
      ∧ (inS.hew 0).pl = 1)
    ∧ (inM.Runs 0
      ∧ (inM.hew 0).pl = 3)
    ∧ (swbp.Runs 0
      ∧ swbp.flag F.DBG_CTL.SWBP_EN = true
      ∧ (swbp.hew 0).exempt = false)
    ∧ (inS1.Runs 0
      ∧ inS1.flag F.DBG_CTL.SWBP_EN = false
      ∧ legalWord 201326592 = false)
    ∧ (mRet.Runs 0
      ∧ (mRet.hew 0).pl ≠ 0
      ∧ (mRet.hew 0).eretRestores = Option.none
      ∧ (mRet.staysBanked 0 = true → bitsOf (BitVec.toNat ((mRet.hew 0).set (decide ((mRet.hew 0).pl = 3))).ecause) 17 16 = 3))
    ∧ (inU.Runs 0
      ∧ (inU.hew 0).pl = 0) :=
  ⟨⟨runs_of_ok (by decide +kernel), by decide +kernel⟩,
    ⟨runs_of_ok (by decide +kernel), by decide +kernel⟩,
    ⟨runs_of_ok (by decide +kernel), by decide +kernel⟩,
    ⟨runs_of_ok (by decide +kernel), by decide +kernel⟩,
    ⟨runs_of_ok (by decide +kernel), by decide +kernel⟩,
    ⟨runs_of_ok (by decide +kernel), by decide +kernel⟩,
    ⟨runs_of_ok (by decide +kernel), by decide +kernel⟩⟩

end Flow

namespace Float

def P3 := hw (fun x => {x.setPsf 15 14 3 with pc := 0x200, mSet := {x.mSet with vbase := 0x5000, epc := 0x88, ecause := 0x50030001}})
def fpS (p : Word) : State := hw (fun x => {x with pc := 0x200, pstat := x.pstat ||| p, v := [(1, 0x3FF00000000000004000000000000000), (2, 0x7FF00000000000003FF8000000000000),(3,0x00000000000000007FF0000000000001),(4,0x7F80000100000000C0000000BF800000)]})
def F0 := fpS 0
def FE := fpS 0x3E000000000
def fd : FpForm := ⟨false, true⟩
def VI := hw (fun x => {x with pc := 0x200, w := [(2,0x8877665544332211)], v := [(1, 0x3FF00000000000004000000000000000), (2, 0x7FF00000000000003FF8000000000001)]})
def VS (n : Nat) := hw (fun x => {x.setPsf 15 14 n with pc := 0x200, w := [(2,0x8877665544332211)]})
def VS0 := VS 0
def VS1 := VS 1
def VS3 := VS 3

/-- The hypotheses of the clauses of `Obligations.SystemEntriesAndReturn` hold together, each group of one state. -/
theorem witness_SystemEntriesAndReturn :
    (P3.Runs 0
      ∧ (P3.hew 0).pl ≠ 0
      ∧ (P3.hew 0).eretRestores = Option.none
      ∧ (P3.staysBanked 0 = true → bitsOf (BitVec.toNat ((P3.hew 0).set (decide ((P3.hew 0).pl = 3))).ecause) 17 16 = 3)) :=
  ⟨runs_of_ok (by decide +kernel), by decide +kernel⟩

/-- The hypotheses of the clauses of `Obligations.FpArithmeticLanes` hold together, each group of one state. -/
theorem witness_FpArithmeticLanes :
    (F0.Runs 0
      ∧ (F0.hew 0).psf 41 37 &&& List.foldl (fun acc (r : FpRes) => acc ||| r.flags) 0 (List.map (fun k => fpAdd (fmtOf fd.single) (F0.hew 0).rm (fpDecode (fmtOf fd.single) (laneOf ((F0.hew 0).getV 1) (fmtOf fd.single).width k)) (fpDecode (fmtOf fd.single) (laneOf ((F0.hew 0).getV 2) (fmtOf fd.single).width k))) (List.range (if fd.vector = true then if fd.single = true then 4 else 2 else 1))) = 0
      ∧ (F0.hew 0).psf 41 37 &&& List.foldl (fun acc (r : FpRes) => acc ||| r.flags) 0 (List.map (fun k => fpAdd (fmtOf fd.single) (F0.hew 0).rm (fpDecode (fmtOf fd.single) (laneOf ((F0.hew 0).getV 1) (fmtOf fd.single).width k)) (fpDecode (fmtOf fd.single) (laneOf ((F0.hew 0).getV 2) (fmtOf fd.single).width k)).negate) (List.range (if fd.vector = true then if fd.single = true then 4 else 2 else 1))) = 0
      ∧ (F0.hew 0).psf 41 37 &&& List.foldl (fun acc (r : FpRes) => acc ||| r.flags) 0 (List.map (fun k => fpMul (fmtOf fd.single) (F0.hew 0).rm (fpDecode (fmtOf fd.single) (laneOf ((F0.hew 0).getV 1) (fmtOf fd.single).width k)) (fpDecode (fmtOf fd.single) (laneOf ((F0.hew 0).getV 2) (fmtOf fd.single).width k))) (List.range (if fd.vector = true then if fd.single = true then 4 else 2 else 1))) = 0
      ∧ (F0.hew 0).psf 41 37 &&& List.foldl (fun acc (r : FpRes) => acc ||| r.flags) 0 (List.map (fun k => fpDiv (fmtOf fd.single) (F0.hew 0).rm (fpDecode (fmtOf fd.single) (laneOf ((F0.hew 0).getV 1) (fmtOf fd.single).width k)) (fpDecode (fmtOf fd.single) (laneOf ((F0.hew 0).getV 2) (fmtOf fd.single).width k))) (List.range (if fd.vector = true then if fd.single = true then 4 else 2 else 1))) = 0
      ∧ (F0.hew 0).psf 41 37 &&& List.foldl (fun acc (r : FpRes) => acc ||| r.flags) 0 (List.map (fun k => fpSqrt (fmtOf fd.single) (F0.hew 0).rm (fpDecode (fmtOf fd.single) (laneOf ((F0.hew 0).getV 1) (fmtOf fd.single).width k))) (List.range (if fd.vector = true then if fd.single = true then 4 else 2 else 1))) = 0
      ∧ (F0.hew 0).psf 41 37 &&& List.foldl (fun acc (r : FpRes) => acc ||| r.flags) 0 (List.map (fun k => fpMinMax (fmtOf fd.single) false (laneOf ((F0.hew 0).getV 1) (fmtOf fd.single).width k) (laneOf ((F0.hew 0).getV 2) (fmtOf fd.single).width k)) (List.range (if fd.vector = true then if fd.single = true then 4 else 2 else 1))) = 0
      ∧ (F0.hew 0).psf 41 37 &&& List.foldl (fun acc (r : FpRes) => acc ||| r.flags) 0 (List.map (fun k => fpMinMax (fmtOf fd.single) true (laneOf ((F0.hew 0).getV 1) (fmtOf fd.single).width k) (laneOf ((F0.hew 0).getV 2) (fmtOf fd.single).width k)) (List.range (if fd.vector = true then if fd.single = true then 4 else 2 else 1))) = 0
      ∧ (F0.hew 0).psf 41 37 &&& List.foldl (fun acc (r : FpRes) => acc ||| r.flags) 0 (List.map (fun k => FpRes.mk (fpAbs (fmtOf fd.single) (laneOf ((F0.hew 0).getV 1) (fmtOf fd.single).width k)) 0) (List.range (if fd.vector = true then if fd.single = true then 4 else 2 else 1))) = 0
      ∧ (F0.hew 0).psf 41 37 &&& List.foldl (fun acc (r : FpRes) => acc ||| r.flags) 0 (List.map (fun k => FpRes.mk (fpNeg (fmtOf fd.single) (laneOf ((F0.hew 0).getV 1) (fmtOf fd.single).width k)) 0) (List.range (if fd.vector = true then if fd.single = true then 4 else 2 else 1))) = 0
      ∧ (F0.hew 0).psf 41 37 &&& List.foldl (fun acc (r : FpRes) => acc ||| r.flags) 0 (List.map (fun k => fpFma (fmtOf fd.single) (F0.hew 0).rm (fpDecode (fmtOf fd.single) (laneOf ((F0.hew 0).getV 1) (fmtOf fd.single).width k)) (fpDecode (fmtOf fd.single) (laneOf ((F0.hew 0).getV 2) (fmtOf fd.single).width k)) (fpDecode (fmtOf fd.single) (laneOf ((F0.hew 0).getV 3) (fmtOf fd.single).width k))) (List.range (if fd.vector = true then if fd.single = true then 4 else 2 else 1))) = 0
      ∧ (F0.hew 0).psf 41 37 &&& List.foldl (fun acc (r : FpRes) => acc ||| r.flags) 0 (List.map (fun k => fpFma (fmtOf fd.single) (F0.hew 0).rm (fpDecode (fmtOf fd.single) (laneOf ((F0.hew 0).getV 1) (fmtOf fd.single).width k)) (fpDecode (fmtOf fd.single) (laneOf ((F0.hew 0).getV 2) (fmtOf fd.single).width k)) (fpDecode (fmtOf fd.single) (laneOf ((F0.hew 0).getV 3) (fmtOf fd.single).width k)).negate) (List.range (if fd.vector = true then if fd.single = true then 4 else 2 else 1))) = 0
      ∧ (F0.hew 0).psf 41 37 &&& List.foldl (fun acc (r : FpRes) => acc ||| r.flags) 0 (List.map (fun k => fpFma (fmtOf fd.single) (F0.hew 0).rm (fpDecode (fmtOf fd.single) (laneOf ((F0.hew 0).getV 1) (fmtOf fd.single).width k)).negate (fpDecode (fmtOf fd.single) (laneOf ((F0.hew 0).getV 2) (fmtOf fd.single).width k)) (fpDecode (fmtOf fd.single) (laneOf ((F0.hew 0).getV 3) (fmtOf fd.single).width k))) (List.range (if fd.vector = true then if fd.single = true then 4 else 2 else 1))) = 0
      ∧ (F0.hew 0).psf 41 37 &&& List.foldl (fun acc (r : FpRes) => acc ||| r.flags) 0 (List.map (fun k => fpFma (fmtOf fd.single) (F0.hew 0).rm (fpDecode (fmtOf fd.single) (laneOf ((F0.hew 0).getV 1) (fmtOf fd.single).width k)).negate (fpDecode (fmtOf fd.single) (laneOf ((F0.hew 0).getV 2) (fmtOf fd.single).width k)) (fpDecode (fmtOf fd.single) (laneOf ((F0.hew 0).getV 3) (fmtOf fd.single).width k)).negate) (List.range (if fd.vector = true then if fd.single = true then 4 else 2 else 1))) = 0)
    ∧ (FE.Runs 0
      ∧ (FE.hew 0).psf 41 37 &&& List.foldl (fun acc (r : FpRes) => acc ||| r.flags) 0 (List.map (fun k => fpDiv (fmtOf fd.single) (FE.hew 0).rm (fpDecode (fmtOf fd.single) (laneOf ((FE.hew 0).getV 3) (fmtOf fd.single).width k)) (fpDecode (fmtOf fd.single) (laneOf ((FE.hew 0).getV 3) (fmtOf fd.single).width k))) (List.range (if fd.vector = true then if fd.single = true then 4 else 2 else 1))) ≠ 0
      ∧ (FE.hew 0).psf 41 37 &&& List.foldl (fun acc (r : FpRes) => acc ||| r.flags) 0 (List.map (fun k => fpSqrt (fmtOf fd.single) (FE.hew 0).rm (fpDecode (fmtOf fd.single) (laneOf ((FE.hew 0).getV 3) (fmtOf fd.single).width k))) (List.range (if fd.vector = true then if fd.single = true then 4 else 2 else 1))) ≠ 0
      ∧ (FE.hew 0).psf 41 37 &&& List.foldl (fun acc (r : FpRes) => acc ||| r.flags) 0 (List.map (fun k => fpFma (fmtOf fd.single) (FE.hew 0).rm (fpDecode (fmtOf fd.single) (laneOf ((FE.hew 0).getV 3) (fmtOf fd.single).width k)) (fpDecode (fmtOf fd.single) (laneOf ((FE.hew 0).getV 3) (fmtOf fd.single).width k)) (fpDecode (fmtOf fd.single) (laneOf ((FE.hew 0).getV 3) (fmtOf fd.single).width k))) (List.range (if fd.vector = true then if fd.single = true then 4 else 2 else 1))) ≠ 0
      ∧ (FE.hew 0).psf 41 37 &&& List.foldl (fun acc (r : FpRes) => acc ||| r.flags) 0 (List.map (fun k => fpFma (fmtOf fd.single) (FE.hew 0).rm (fpDecode (fmtOf fd.single) (laneOf ((FE.hew 0).getV 3) (fmtOf fd.single).width k)) (fpDecode (fmtOf fd.single) (laneOf ((FE.hew 0).getV 3) (fmtOf fd.single).width k)) (fpDecode (fmtOf fd.single) (laneOf ((FE.hew 0).getV 3) (fmtOf fd.single).width k)).negate) (List.range (if fd.vector = true then if fd.single = true then 4 else 2 else 1))) ≠ 0
      ∧ (FE.hew 0).psf 41 37 &&& List.foldl (fun acc (r : FpRes) => acc ||| r.flags) 0 (List.map (fun k => fpFma (fmtOf fd.single) (FE.hew 0).rm (fpDecode (fmtOf fd.single) (laneOf ((FE.hew 0).getV 3) (fmtOf fd.single).width k)).negate (fpDecode (fmtOf fd.single) (laneOf ((FE.hew 0).getV 3) (fmtOf fd.single).width k)) (fpDecode (fmtOf fd.single) (laneOf ((FE.hew 0).getV 3) (fmtOf fd.single).width k))) (List.range (if fd.vector = true then if fd.single = true then 4 else 2 else 1))) ≠ 0
      ∧ (FE.hew 0).psf 41 37 &&& List.foldl (fun acc (r : FpRes) => acc ||| r.flags) 0 (List.map (fun k => fpFma (fmtOf fd.single) (FE.hew 0).rm (fpDecode (fmtOf fd.single) (laneOf ((FE.hew 0).getV 3) (fmtOf fd.single).width k)).negate (fpDecode (fmtOf fd.single) (laneOf ((FE.hew 0).getV 3) (fmtOf fd.single).width k)) (fpDecode (fmtOf fd.single) (laneOf ((FE.hew 0).getV 3) (fmtOf fd.single).width k)).negate) (List.range (if fd.vector = true then if fd.single = true then 4 else 2 else 1))) ≠ 0
      ∧ (FE.hew 0).psf 41 37 &&& List.foldl (fun acc (r : FpRes) => acc ||| r.flags) 0 (List.map (fun k => fpAdd (fmtOf fd.single) (FE.hew 0).rm (fpDecode (fmtOf fd.single) (laneOf ((FE.hew 0).getV 3) (fmtOf fd.single).width k)) (fpDecode (fmtOf fd.single) (laneOf ((FE.hew 0).getV 3) (fmtOf fd.single).width k))) (List.range (if fd.vector = true then if fd.single = true then 4 else 2 else 1))) ≠ 0
      ∧ (FE.hew 0).psf 41 37 &&& List.foldl (fun acc (r : FpRes) => acc ||| r.flags) 0 (List.map (fun k => fpAdd (fmtOf fd.single) (FE.hew 0).rm (fpDecode (fmtOf fd.single) (laneOf ((FE.hew 0).getV 3) (fmtOf fd.single).width k)) (fpDecode (fmtOf fd.single) (laneOf ((FE.hew 0).getV 3) (fmtOf fd.single).width k)).negate) (List.range (if fd.vector = true then if fd.single = true then 4 else 2 else 1))) ≠ 0
      ∧ (FE.hew 0).psf 41 37 &&& List.foldl (fun acc (r : FpRes) => acc ||| r.flags) 0 (List.map (fun k => fpMul (fmtOf fd.single) (FE.hew 0).rm (fpDecode (fmtOf fd.single) (laneOf ((FE.hew 0).getV 3) (fmtOf fd.single).width k)) (fpDecode (fmtOf fd.single) (laneOf ((FE.hew 0).getV 3) (fmtOf fd.single).width k))) (List.range (if fd.vector = true then if fd.single = true then 4 else 2 else 1))) ≠ 0
      ∧ (FE.hew 0).psf 41 37 &&& List.foldl (fun acc (r : FpRes) => acc ||| r.flags) 0 (List.map (fun k => fpMinMax (fmtOf fd.single) false (laneOf ((FE.hew 0).getV 3) (fmtOf fd.single).width k) (laneOf ((FE.hew 0).getV 3) (fmtOf fd.single).width k)) (List.range (if fd.vector = true then if fd.single = true then 4 else 2 else 1))) ≠ 0
      ∧ (FE.hew 0).psf 41 37 &&& List.foldl (fun acc (r : FpRes) => acc ||| r.flags) 0 (List.map (fun k => fpMinMax (fmtOf fd.single) true (laneOf ((FE.hew 0).getV 3) (fmtOf fd.single).width k) (laneOf ((FE.hew 0).getV 3) (fmtOf fd.single).width k)) (List.range (if fd.vector = true then if fd.single = true then 4 else 2 else 1))) ≠ 0) :=
  ⟨⟨runs_of_ok (by decide +kernel), by decide +kernel⟩,
    ⟨runs_of_ok (by decide +kernel), by decide +kernel⟩⟩

/-- The hypotheses of the clauses of `Obligations.FpCompareAndConvert` hold together, each group of one state. -/
theorem witness_FpCompareAndConvert :
    (F0.Runs 0
      ∧ ((F0.hew 0).psf 41 37 &&& if (decide (fpOrder (fpDecode (fmtOf true) (laneOf ((F0.hew 0).getV 4) (fmtOf true).width 0)) (fpDecode (fmtOf true) (laneOf ((F0.hew 0).getV 2) (fmtOf true).width 0)) = Option.none) && (false || (fpDecode (fmtOf true) (laneOf ((F0.hew 0).getV 4) (fmtOf true).width 0)).isSnan || (fpDecode (fmtOf true) (laneOf ((F0.hew 0).getV 2) (fmtOf true).width 0)).isSnan)) = true then fpInvalid else 0) = 0
      ∧ ((F0.hew 0).psf 41 37 &&& if (decide (fpOrder (fpDecode (fmtOf true) (laneOf ((F0.hew 0).getV 4) (fmtOf true).width 0)) (fpDecode (fmtOf true) (laneOf ((F0.hew 0).getV 2) (fmtOf true).width 0)) = Option.none) && (true || (fpDecode (fmtOf true) (laneOf ((F0.hew 0).getV 4) (fmtOf true).width 0)).isSnan || (fpDecode (fmtOf true) (laneOf ((F0.hew 0).getV 2) (fmtOf true).width 0)).isSnan)) = true then fpInvalid else 0) = 0
      ∧ (F0.hew 0).psf 41 37 &&& (fpToInt (F0.hew 0).rm true (fpDecode (fmtOf true) (laneOf ((F0.hew 0).getV 4) (fmtOf true).width 0))).flags = 0
      ∧ (F0.hew 0).psf 41 37 &&& (fpToInt (F0.hew 0).rm false (fpDecode (fmtOf true) (laneOf ((F0.hew 0).getV 4) (fmtOf true).width 0))).flags = 0
      ∧ (F0.hew 0).psf 41 37 &&& (fpFromInt (fmtOf true) (F0.hew 0).rm (BitVec.toInt ((F0.hew 0).getW 3))).flags = 0
      ∧ (F0.hew 0).psf 41 37 &&& (fpFromInt (fmtOf true) (F0.hew 0).rm ↑(BitVec.toNat ((F0.hew 0).getW 3))).flags = 0
      ∧ (F0.hew 0).psf 41 37 &&& (fpConvert FpFmt.sgl (F0.hew 0).rm (fpDecode FpFmt.dbl (laneOf ((F0.hew 0).getV 4) 64 0))).flags = 0
      ∧ (F0.hew 0).psf 41 37 &&& (fpConvert FpFmt.dbl (F0.hew 0).rm (fpDecode FpFmt.sgl (laneOf ((F0.hew 0).getV 4) 32 0))).flags = 0) :=
  ⟨runs_of_ok (by decide +kernel), by decide +kernel⟩

/-- The hypotheses of the clauses of `Obligations.VectorIntegerAndLaneMoves` hold together, each group of one state. -/
theorem witness_VectorIntegerAndLaneMoves :
    (VI.Runs 0
      ∧ (true = true ∨ 3 ≤ 1))
    ∧ (VI.Runs 0) :=
  ⟨⟨runs_of_ok (by decide +kernel), by decide +kernel⟩,
    runs_of_ok (by decide +kernel)⟩

/-- The hypotheses of the clauses of `Obligations.SystemRegisterMoves` hold together, each group of one state. -/
theorem witness_SystemRegisterMoves :
    (VS3.Runs 0
      ∧ sysRegDefined 0 = true
      ∧ 1 ≤ sysAccess 0 (VS3.hew 0).pl
      ∧ sysAccess 0 (VS3.hew 0).pl = 2
      ∧ ((VS3.hew 0).sysWrite 0 ((VS3.hew 0).getW 2)).ctl = [])
    ∧ (VS1.Runs 0
      ∧ sysRegDefined 4095 = false)
    ∧ (VS0.Runs 0
      ∧ sysRegDefined 16 = true
      ∧ sysAccess 16 (VS0.hew 0).pl = 0
      ∧ sysAccess 16 (VS0.hew 0).pl < 2) :=
  ⟨⟨runs_of_ok (by decide +kernel), by decide +kernel⟩,
    ⟨runs_of_ok (by decide +kernel), by decide +kernel⟩,
    ⟨runs_of_ok (by decide +kernel), by decide +kernel⟩⟩

end Float

namespace Sync

def X0 := hw (fun x => {x with pc := 0x200})
def XU := hw (fun x => {x.setPsf 15 14 0 with pc := 0x200})
def XX := hw (fun x => {x.setPsf 15 14 1 with pc := 0x200, xinv := [⟨4, some 3, none⟩]})
def o1 : XinvOp := ⟨4, some 3, none⟩
def o2 : XinvOp := ⟨5, some 3, none⟩
def XY := hw (fun x => {x.setPsf 15 14 1 with pc := 0x200, xinv := [o2, o1, o2, o1]})
def pr := [o2]
def po := [o2, o1]
def XW := XY.modTwin 4 (fun t => { t with sbuf := [⟨0x104, [1], 0, 0, some ⟨3, false, false, 0x5000, 12, 0x77⟩⟩] })
def o3 : XinvOp := ⟨4, none, some 3⟩
def XV := XW.modHew 0 (fun x => { x with xinv := [o2, o3, o2] })
def pq := [o2]

/-- The hypotheses of the clauses of `Obligations.SynchronisationAndInvalidation` hold together, each group of one state. -/
theorem witness_SynchronisationAndInvalidation :
    (X0.Runs 0
      ∧ (X0.hew 0).pl ≠ 0
      ∧ (X0.hew 0).xinv = []
      ∧ (X0.twin (X0.twinOf 0)).cdtSeen ≤ X0.cdt.inFlight.length)
    ∧ (XU.Runs 0
      ∧ (XU.hew 0).pl = 0)
    ∧ (XX.Runs 0
      ∧ (XX.hew 0).pl ≠ 0
      ∧ (XX.hew 0).xinv ≠ [])
    ∧ (XY.pwr.pllLocked = true
      ∧ (XY.hew 0).xinv = pr ++ o1 :: po
      ∧ o1.twin = 4
      ∧ (∀ (p : XinvOp), p ∈ pr → p.twin ≠ 4)
      ∧ ((XY.pendingVia 4).any fun v => Option.any (fun e => e.removedBy o1.va o1.asid) v) = false)
    ∧ (XV.pwr.pllLocked = true
      ∧ (XV.hew 0).xinv = pr ++ o3 :: pq
      ∧ o3.twin = 4
      ∧ (∀ (p : XinvOp), p ∈ pr → p.twin ≠ 4)
      ∧ ((XV.pendingVia 4).any fun v => Option.any (fun e => e.removedBy o3.va o3.asid) v) = true) :=
  ⟨⟨runs_of_ok (by decide +kernel), by decide +kernel⟩,
    ⟨runs_of_ok (by decide +kernel), by decide +kernel⟩,
    ⟨runs_of_ok (by decide +kernel), by decide +kernel⟩,
    by decide +kernel⟩

end Sync

namespace Entries

def ib (f : Hewer → Hewer) : State :=
  let s := hw (fun x => f {x.setPsf 15 14 0 |>.setPsf 27 24 3 with pc := 0x200, resv := some 5, ctl := [⟨.pkr, 7, some 2⟩], rep := some 0x1fc})
  (((s.setFld (F.HWR_IENA.EN 0) 0x7F).setFld (F.HWR_IENA.ROUTE 0) 0x04).setFld (F.HWR_ILVL.CPW 0) 11).setFld (F.HWR_ILVL.TLY 0) 2
def I0 := ib id
def I1 := I0.setFld (F.HWR_IHI_PEND.LVL 0) (2^9 + 2^4)
def I3 := I1.setFld (F.HWR_IHI_PEND.LVL 0) (2^3)
def I4 := ib (fun x => {x with mcheck := true})
def I5 := ib (fun x => {x with forced := true})

/-- The hypotheses of the clauses of `Obligations.InterruptEntry` hold together, each group of one state. -/
theorem witness_InterruptEntry :
    (I1.Canonical
      ∧ (∀ (d : Nat), 1 ≤ d → d ≤ 7 → d ≠ 2 → I1.srcEligible 0 d = true → I1.srcBefore 0 2 d = true)
      ∧ I1.atBoundary 0 = true
      ∧ (I1.hew 0).between = false
      ∧ I1.earlierDue 0 = false
      ∧ I1.swapDue 0 = false
      ∧ I1.srcEligible 0 2 = true
      ∧ (I1.hew 0).mcheck = false
      ∧ (I1.hew 0).forced = false)
    ∧ (I3.Canonical
      ∧ (∀ (c : Nat), 1 ≤ c → c ≤ 7 → I3.srcEligible 0 c = false)
      ∧ I3.atBoundary 0 = true
      ∧ (I3.hew 0).between = false
      ∧ I3.earlierDue 0 = false
      ∧ I3.swapDue 0 = false)
    ∧ (I4.Canonical
      ∧ I4.atBoundary 0 = true
      ∧ (I4.hew 0).mcheck = true
      ∧ (I4.hew 0).body = Option.none)
    ∧ (I5.Canonical
      ∧ I5.atBoundary 0 = true
      ∧ (I5.hew 0).forced = true
      ∧ (I5.hew 0).saved = false) :=
  ⟨⟨canonical_of_ok (by decide +kernel), by intro j h1 h2; interval_cases j <;> decide +kernel, by decide +kernel⟩,
    ⟨canonical_of_ok (by decide +kernel), by intro j h1 h2; interval_cases j <;> decide +kernel, by decide +kernel⟩,
    ⟨canonical_of_ok (by decide +kernel), by decide +kernel⟩,
    ⟨canonical_of_ok (by decide +kernel), by decide +kernel⟩⟩

end Entries

namespace Custom

def cst (e w : Word) (c : Word) (pl : Nat) : State :=
  let s := hw (fun x => {x.setPsf 15 14 pl with pc := 0x200, cdtctl := c})
  s.modTwin 0 (fun t => { t with cdtE := [(5, e)], cdtW := [(0x10, w)] })
def E1 : Word := 0xD500000000001010#64
def C0 : State := cst E1 0x0188900000000000 0 0
def C1 : State := cst E1 0x0188900000000000 1 0
def C4 : State := cst 0x9500000000001010#64 0x0188900000000000 1 0
def C5 : State := cst 0x8000000000001010#64 0x0188900000000000 1 3
def C6 : State := cst E1 0x31000000000000A5 1 3
def micro (s : State) : Micro := ⟨wReg 0x7C 4 2 3 9 5, ((s.twin 0).cdtE.get 0 5).toNat, (s.hew 0).byKind 1 2, (s.hew 0).byKind 1 3, 9, [], 0, 0, [], 0x10, 1⟩
def ranIn (s : State) : MicroStep := s.microRun 0 (micro s) 1 0x10 0
def ran : Micro := microNext (ranIn C1)
def ranT : State := match ranIn C1 with | .next t _ _ => t | _ => C1
def hubOf (f : State → State) (pl : Nat) : State := (f (hw (fun x => x.setPsf 15 14 pl))).setFld F.CFG_CDT_INDEX.ADDR 0x17
def hubM : State := hubOf (fun s => s.setFld F.CFG_CDT_STATUS.GEN 0xFFFF) 3
def hubS : State := hubOf id 1
def oneLeft : State := hubOf (fun s => {(s.raise F.CFG_CDT_STATUS.BUSY) with cdt := {s.cdt with inFlight := [.entry 4 7]}}) 3
def kh (f : Hewer → Hewer) : State := (({hw f with hewers := [(0, hD (f Hewer.reset)), (3, hD Hewer.reset)]}).setFld (F.CAN_HWR_CTL.TIMEOUT 0) 77)
def warned : State := kh (fun x => {x with canWarn := true})
def inS : State := kh (fun x => (x.setPsf 15 14 1))
def expired : State := (kh id).raise (F.CAN_HWR_STAT.EXPIRED 0)
def dv (m : Mode) (f : CanaryState → CanaryState) : State := let s := inMode m ((hw id).setFld F.CAN_DEV_CTL.TIMEOUT 99); {s with can := f s.can}
def quiet : State := dv .configure id
def dueInRun : State := dv .run (fun c => {c with due := true, warnDue := true})
def dueInHold : State := dv .safeHold (fun c => {c with due := true, kickArmed := true})
def io (a : Word) : State := hw (fun x => {x with pc := 0x200, w := [(2, a), (3, 0x7)]})
def theId : State := io 0
def noReg : State := io 0x00FFFFF8
def idDesc : RegDesc := (findReg 0).getD ⟨.TIM_CTL, 0, 0, 1, 0, 1, 0, 64, 0, []⟩
def idValue : Word := (theId.ioRead (.hewer 0) idDesc 0).1
def idAfter : State := (theId.ioRead (.hewer 0) idDesc 0).2
def inU : State := kh (fun x => (x.setPsf 15 14 0))
def halted : State := {dueInHold with pwr := {dueInHold.pwr with pllLocked := false}}
def skewed : State := io 0x0E000002
def spent : State := expired
def onTick : State := kh (fun x => {x with canDue := some (hw id).time.cyc})
def calm0 : State := dv .run id
def armed0 : State := dv .run (fun c => {c with kickArmed := true, due := true, dueAt := some 3})

/-- The hypotheses of the clauses of `Obligations.CustomerInstructions` hold together, each group of one state. -/
theorem witness_CustomerInstructions :
    (C0.Runs 0
      ∧ C0.cdt.inFlight = []
      ∧ (C0.hew 0).micro = Option.none
      ∧ (∀ (p : Nat × Word), p ∈ (C0.hew 0).cdtOld → p.fst ≠ 5)
      ∧ (¬((BitVec.toNat (C0.hew 0).cdtctl).testBit (5 / 16) = true ∧ bitOf (BitVec.toNat ((C0.twin (C0.twinOf 0)).cdtE.get 0 5)) 63 = true)))
    ∧ (C1.Runs 0
      ∧ (ranT.microStores 0 ran.stores).Ends 0
      ∧ C1.microRun 0 { word := wReg (124 + 5 / 16) 4 2 3 9 (5 % 16), entry := BitVec.toNat ((C1.twin (C1.twinOf 0)).cdtE.get 0 5), a := (C1.hew 0).byKind (bitsOf (BitVec.toNat ((C1.twin (C1.twinOf 0)).cdtE.get 0 5)) 59 58) 2, b := (C1.hew 0).byKind (bitsOf (BitVec.toNat ((C1.twin (C1.twinOf 0)).cdtE.get 0 5)) 57 56) 3, f := 9, regs := [], flags := 0, fx := 0, stores := [], addr := bitsOf (BitVec.toNat ((C1.twin (C1.twinOf 0)).cdtE.get 0 5)) 11 0, left := bitsOf (BitVec.toNat ((C1.twin (C1.twinOf 0)).cdtE.get 0 5)) 23 12 } (bitsOf (BitVec.toNat ((C1.twin (C1.twinOf 0)).cdtE.get 0 5)) 23 12) (bitsOf (BitVec.toNat ((C1.twin (C1.twinOf 0)).cdtE.get 0 5)) 11 0) 0 = MicroStep.next ranT ran 0
      ∧ C1.cdt.inFlight = []
      ∧ (C1.hew 0).micro = Option.none
      ∧ (∀ (p : Nat × Word), p ∈ (C1.hew 0).cdtOld → p.fst ≠ 5)
      ∧ (BitVec.toNat (C1.hew 0).cdtctl).testBit (5 / 16) = true
      ∧ bitOf (BitVec.toNat ((C1.twin (C1.twinOf 0)).cdtE.get 0 5)) 63 = true
      ∧ ((C1.hew 0).pl = 0 → bitOf (BitVec.toNat ((C1.twin (C1.twinOf 0)).cdtE.get 0 5)) 62 = true)
      ∧ (bitsOf (BitVec.toNat ((C1.twin (C1.twinOf 0)).cdtE.get 0 5)) 61 60 = 0 → 4 = 0)
      ∧ (bitsOf (BitVec.toNat ((C1.twin (C1.twinOf 0)).cdtE.get 0 5)) 59 58 = 0 → 2 = 0)
      ∧ (bitsOf (BitVec.toNat ((C1.twin (C1.twinOf 0)).cdtE.get 0 5)) 57 56 = 0 → 3 = 0)
      ∧ bitsOf (BitVec.toNat ((C1.twin (C1.twinOf 0)).cdtE.get 0 5)) 23 12 = 1
      ∧ (C1.twin (C1.twinOf 0)).cdtW.get 0 (bitsOf (BitVec.toNat ((C1.twin (C1.twinOf 0)).cdtE.get 0 5)) 11 0) = 110496520544976896
      ∧ bitsOf (BitVec.toNat ((C1.twin (C1.twinOf 0)).cdtE.get 0 5)) 61 60 = 1
      ∧ bitsOf (BitVec.toNat ((C1.twin (C1.twinOf 0)).cdtE.get 0 5)) 59 58 = 1
      ∧ bitsOf (BitVec.toNat ((C1.twin (C1.twinOf 0)).cdtE.get 0 5)) 57 56 = 1)
    ∧ (C4.Runs 0
      ∧ C4.cdt.inFlight = []
      ∧ (C4.hew 0).micro = Option.none
      ∧ (∀ (p : Nat × Word), p ∈ (C4.hew 0).cdtOld → p.fst ≠ 5)
      ∧ (BitVec.toNat (C4.hew 0).cdtctl).testBit (5 / 16) = true
      ∧ bitOf (BitVec.toNat ((C4.twin (C4.twinOf 0)).cdtE.get 0 5)) 63 = true
      ∧ (C4.hew 0).pl = 0
      ∧ bitOf (BitVec.toNat ((C4.twin (C4.twinOf 0)).cdtE.get 0 5)) 62 = false)
    ∧ (C5.Runs 0
      ∧ C5.cdt.inFlight = []
      ∧ (C5.hew 0).micro = Option.none
      ∧ (∀ (p : Nat × Word), p ∈ (C5.hew 0).cdtOld → p.fst ≠ 5)
      ∧ (BitVec.toNat (C5.hew 0).cdtctl).testBit (5 / 16) = true
      ∧ bitOf (BitVec.toNat ((C5.twin (C5.twinOf 0)).cdtE.get 0 5)) 63 = true
      ∧ ((C5.hew 0).pl = 0 → bitOf (BitVec.toNat ((C5.twin (C5.twinOf 0)).cdtE.get 0 5)) 62 = true)
      ∧ (¬((bitsOf (BitVec.toNat ((C5.twin (C5.twinOf 0)).cdtE.get 0 5)) 61 60 = 0 → 4 = 0) ∧ (bitsOf (BitVec.toNat ((C5.twin (C5.twinOf 0)).cdtE.get 0 5)) 59 58 = 0 → 2 = 0) ∧ (bitsOf (BitVec.toNat ((C5.twin (C5.twinOf 0)).cdtE.get 0 5)) 57 56 = 0 → 3 = 0))))
    ∧ (C6.Runs 0
      ∧ C6.cdt.inFlight = []
      ∧ (C6.hew 0).micro = Option.none
      ∧ (∀ (p : Nat × Word), p ∈ (C6.hew 0).cdtOld → p.fst ≠ 5)
      ∧ (BitVec.toNat (C6.hew 0).cdtctl).testBit (5 / 16) = true
      ∧ bitOf (BitVec.toNat ((C6.twin (C6.twinOf 0)).cdtE.get 0 5)) 63 = true
      ∧ ((C6.hew 0).pl = 0 → bitOf (BitVec.toNat ((C6.twin (C6.twinOf 0)).cdtE.get 0 5)) 62 = true)
      ∧ (bitsOf (BitVec.toNat ((C6.twin (C6.twinOf 0)).cdtE.get 0 5)) 61 60 = 0 → 4 = 0)
      ∧ (bitsOf (BitVec.toNat ((C6.twin (C6.twinOf 0)).cdtE.get 0 5)) 59 58 = 0 → 2 = 0)
      ∧ (bitsOf (BitVec.toNat ((C6.twin (C6.twinOf 0)).cdtE.get 0 5)) 57 56 = 0 → 3 = 0)
      ∧ bitsOf (BitVec.toNat ((C6.twin (C6.twinOf 0)).cdtE.get 0 5)) 23 12 = 1
      ∧ (C6.twin (C6.twinOf 0)).cdtW.get 0 (bitsOf (BitVec.toNat ((C6.twin (C6.twinOf 0)).cdtE.get 0 5)) 11 0) = BitVec.ofNat 64 (3530822107858468864 + 165))
    ∧ (hubM.executesIo 0 = true
      ∧ hubM.domainOn 0 = true
      ∧ (hubM.hew 0).pl = 3
      ∧ entryRefused 15348267530078654480 = false
      ∧ bitsOf 15348267530078654480 54 24 = 0)
    ∧ (hubM.executesIo 0 = true
      ∧ hubM.domainOn 0 = true
      ∧ (hubM.hew 0).pl = 3
      ∧ entryRefused 15420324024604954640 = true)
    ∧ (hubS.executesIo 0 = true
      ∧ hubS.domainOn 0 = true
      ∧ (hubS.hew 0).pl = 1)
    ∧ (hubM.cdt.inFlight = [])
    ∧ (oneLeft.cdt.inFlight = [CdtWrite.entry 4 7]) :=
  ⟨⟨runs_of_ok (by decide +kernel), by decide +kernel⟩,
    ⟨runs_of_ok (by decide +kernel), ends_of_ok (by decide +kernel), micro_of_ok (by decide +kernel), by decide +kernel⟩,
    ⟨runs_of_ok (by decide +kernel), by decide +kernel⟩,
    ⟨runs_of_ok (by decide +kernel), by decide +kernel⟩,
    ⟨runs_of_ok (by decide +kernel), by decide +kernel⟩,
    by and_intros <;> decide +kernel⟩

/-- The hypotheses of the clauses of `Obligations.CanaryTimers` hold together, each group of one state. -/
theorem witness_CanaryTimers :
    ((spent.hew 0).pl = 3
      ∧ spent.executesIo 0 = true
      ∧ spent.domainOn (regDomain (Adr.HWR_XROUTE 0)) = true
      ∧ 0 ≠ Adr.HWR_XROUTE 0
      ∧ spent.domainOn (regDomain (Adr.CAN_HWR_STAT 0)) = true
      ∧ spent.flag (F.CAN_HWR_STAT.EXPIRED 0) = true
      ∧ spent.domainOn (regDomain (Adr.CAN_HWR_KICK 0)) = true
      ∧ spent.ioPermitted 0 (Adr.CAN_HWR_KICK 0) 4 true = true)
    ∧ (inS.executesIo 0 = true
      ∧ inS.domainOn (regDomain (Adr.CAN_HWR_KICK 0)) = true
      ∧ inS.ioPermitted 0 (Adr.CAN_HWR_KICK 0) 4 true = true
      ∧ inS.flag (F.CAN_HWR_STAT.EXPIRED 0) = false
      ∧ (∀ (c : Nat), (inS.hew 0).canDue = Option.some c → c = inS.time.cyc)
      ∧ (inS.hew 0).pl = 1
      ∧ inS.domainOn (regDomain (Adr.HWR_XROUTE 0)) = true
      ∧ inS.domainOn (regDomain (Adr.CAN_HWR_STAT 0)) = true)
    ∧ ((warned.hew 0).canWarn = true
      ∧ (warned.hew 0).canDue = Option.none)
    ∧ (warned.executesIo 3 = true
      ∧ warned.domainOn (regDomain (Adr.CAN_HWR_KICK 0)) = true
      ∧ warned.ioPermitted 3 (Adr.CAN_HWR_KICK 0) 4 true = true)
    ∧ ((onTick.hew 0).canDue ≠ Option.none
      ∧ (onTick.hew 0).body = Option.none
      ∧ onTick.localQ 0 = []
      ∧ onTick.executesIo 0 = true
      ∧ onTick.domainOn (regDomain (Adr.CAN_HWR_KICK 0)) = true
      ∧ onTick.ioPermitted 0 (Adr.CAN_HWR_KICK 0) 4 true = true
      ∧ (onTick.hew 0).canDue = Option.some 0)
    ∧ (inU.executesIo 0 = true
      ∧ inU.ioPermitted 0 (Adr.HWR_XROUTE 0) 4 true = false
      ∧ inU.ioPermitted 0 (Adr.CAN_HWR_STAT 0) 4 true = false
      ∧ inU.ioPermitted 0 (Adr.CAN_HWR_KICK 0) 4 true = false)
    ∧ (inU.executesIo 5 = false)
    ∧ (quiet.executesIo 0 = true
      ∧ quiet.ioPermitted 0 Adr.CAN_DEV_KICK 4 true = true
      ∧ quiet.domainOn (regDomain Adr.CAN_DEV_KICK) = true
      ∧ quiet.can.kickArmed = false
      ∧ quiet.mode = Mode.configure
      ∧ quiet.takesIo Adr.CAN_DEV_CTL = true
      ∧ 1 ≤ bitsOf 2147483649 23 0
      ∧ bitsOf 2147483649 23 0 ≤ 10000000
      ∧ 0 ≠ Adr.CAN_DEV_CTL)
    ∧ (armed0.executesIo 0 = true
      ∧ armed0.ioPermitted 0 Adr.CAN_DEV_KICK 4 true = true
      ∧ armed0.domainOn (regDomain Adr.CAN_DEV_KICK) = true
      ∧ (armed0.can.due = true ∧ armed0.can.dueAt ≠ Option.some armed0.time.cyc ∨ armed0.flag F.CAN_DEV_STAT.EXPIRED = true)
      ∧ (armed0.mode ≠ Mode.configure ∨ armed0.takesIo Adr.CAN_DEV_CTL = false))
    ∧ (dueInRun.can.warnDue = true
      ∧ dueInRun.can.due = true
      ∧ dueInRun.mode.service = true
      ∧ dueInRun.drt.tasks = [])
    ∧ (halted.can.due = true
      ∧ halted.mode.service = false
      ∧ halted.executesIo 0 = false)
    ∧ (calm0.executesIo 0 = true
      ∧ calm0.ioPermitted 0 Adr.CAN_DEV_KICK 4 true = true
      ∧ calm0.domainOn (regDomain Adr.CAN_DEV_KICK) = true
      ∧ (calm0.can.due = false ∨ calm0.can.dueAt = Option.some calm0.time.cyc)
      ∧ calm0.flag F.CAN_DEV_STAT.EXPIRED = false) :=
  by and_intros <;> decide +kernel

/-- The hypotheses of the clauses of `Obligations.IoInstructions` hold together, each group of one state. -/
theorem witness_IoInstructions :
    (theId.Runs 0
      ∧ idAfter.Ends 0
      ∧ (BitVec.toNat ((theId.hew 0).getW 2 + BitVec.signExtend 64 0#14) % if true = true then 8 else 4) = 0
      ∧ findReg (BitVec.toNat ((theId.hew 0).getW 2 + BitVec.signExtend 64 0#14)) = Option.some idDesc
      ∧ (theId.sbFlush 0).ioReason (Option.some 0) (BitVec.toNat ((theId.hew 0).getW 2 + BitVec.signExtend 64 0#14)) (if true = true then 8 else 4) false = Option.none
      ∧ idDesc.name ≠ RegName.DBG_HWR_VRX
      ∧ (idDesc.fields.any fun f => decide (f.acc = Access.rc)) = false
      ∧ (theId.sbFlush 0).ioRead (Writer.hewer 0) idDesc (BitVec.toNat ((theId.hew 0).getW 2 + BitVec.signExtend 64 0#14)) = (idValue, idAfter)
      ∧ (theId.sbFlush 0).ioReason (Option.some 0) (BitVec.toNat ((theId.hew 0).getW 2 + BitVec.signExtend 64 0#14)) (if true = true then 8 else 4) true = Option.none
      ∧ (theId.sbFlush 0).lodeHolds idDesc.name (if true = true then BitVec.toNat ((theId.hew 0).getW 3) else BitVec.toNat ((theId.hew 0).getW 3) % 2 ^ 32) = false
      ∧ (theId.sbFlush 0).ioPerform (Writer.hewer 0) idDesc (BitVec.toNat ((theId.hew 0).getW 2 + BitVec.signExtend 64 0#14)) (if true = true then BitVec.toNat ((theId.hew 0).getW 3) else BitVec.toNat ((theId.hew 0).getW 3) % 2 ^ 32) = Option.some idAfter)
    ∧ (noReg.Runs 0
      ∧ (BitVec.toNat ((noReg.hew 0).getW 2 + BitVec.signExtend 64 0#14) % if true = true then 8 else 4) = 0
      ∧ (noReg.sbFlush 0).ioReason (Option.some 0) (BitVec.toNat ((noReg.hew 0).getW 2 + BitVec.signExtend 64 0#14)) (if true = true then 8 else 4) false = Option.some 1
      ∧ (noReg.sbFlush 0).ioReason (Option.some 0) (BitVec.toNat ((noReg.hew 0).getW 2 + BitVec.signExtend 64 0#14)) (if true = true then 8 else 4) true = Option.some 1)
    ∧ (skewed.Runs 0
      ∧ (BitVec.toNat ((skewed.hew 0).getW 2 + BitVec.signExtend 64 0#14) % if true = true then 8 else 4) ≠ 0) :=
  ⟨⟨runs_of_ok (by decide +kernel), ends_of_ok (by decide +kernel), by decide +kernel⟩,
    ⟨runs_of_ok (by decide +kernel), by decide +kernel⟩,
    ⟨runs_of_ok (by decide +kernel), by decide +kernel⟩⟩

end Custom

namespace Release

def dw (l : List Nat) : List Byte := l.flatMap (bytesLE 8)
def d0 : List Nat := [2*2^62 + 1*2^60 + 3*2^57, 0, 0, 1000*2^32+500, 700*2^32, 0x4000, 0x5000, 0x6000, 0x6100, 0, 0x300*2^32+1*2^16+1, 0x400*2^32+32, 1, 0, 0x77, 0]
def d1 : List Nat := [1*2^62 + 9, 0, 0, 1000*2^32+500, 0, 0x4000, 0x5000, 0x6000, 0x6100, 0, 0, 0x400*2^32, 1, 0, 0x77, 0]
def d2 : List Nat := [0, 1600000, 100, 1000*2^32+500, 0, 0x4000, 0x5000, 0x6000, 0x6100, 0, 0, 0x400*2^32, 1, 0, 0x77, 0]
def d3 : List Nat := [2*2^62, 0, 0, 0*2^32+500, 0, 0x4000, 0x5000, 0x6000, 0x6100, 0, 0, 0x400*2^32, 1, 0, 0x77, 0]
def dbase : State :=
  let s := wr (wr (hw id) 0x100000 (dw (d0 ++ d1 ++ d2 ++ d3))) 0x100300 [5,0,0,0]
  let s := ((((s.setFld F.DRT_REGION_BASE.BASE 1).setFld F.DRT_REGION_BASE.SIZE_MIB 1).setFld F.DRT_TABLES.TASKS 4).setFld F.DRT_TABLES.RSETS 1).setFld F.DRT_SAVE_BASE.BASE 2
  let s := ((s.setReg (Adr.DRT_HWR_POOL 0) 0xFF).setReg Adr.DRT_GAL_POOL 1).setReg Adr.DRT_PCLASS_LVL 0x4321
  { s with time := { s.time with now := 5000000 } }
def drun : State := (inMode .run dbase).raise F.DRT_CTL.EN |>.raise F.DRT_STATUS.READY
def dsc0 : Desc := ⟨2, 1, 3, false, false, false, false, 0, 0, 0, 0, 0, 0, 1000, 500, 700, 0, 0x4000, 0x5000, 0x6000, 0x6100,
  0, 0, 0, 0x300, 1, 1, 0x400, 32, 1, 0, 0x77⟩
def task0 : Task := { Task.reset with enabled := true, trigger := 2 }
def task1 : Task := { Task.reset with enabled := true, trigger := 1, trigSlot := 9 }
def task2 : Task := { Task.reset with enabled := true, period := 1600000, nextRel := 6400100 }
def tasked (t0 t1 t2 : Task) (s : State) : State :=
  { s with drt := { s.drt with tasks := [(0, t0), (1, t1), (2, t2)], events := [1] } }
def T1 : State := tasked task0 task1 task2 drun
def hold0 (a : Activation) : State := tasked { task0 with act := some a, lastStamp := some 5000000 } task1 task2 drun
def G0 : State := hold0 (newActivation dsc0 5000000 0x805 0)
def T0 := drun
def T2 := drun.raise F.DRT_CMD_STATUS.BUSY
def T3 := tasked task0 { task1 with enabled := false } task2 drun
def T5 := wr T1 0x100180 (dw d1)
def busy (op i k : Nat) (s : State) : State := (s.setReg Adr.DRT_CMD (BitVec.ofNat 64 (k * 2^32 + i * 2^16 + op * 2))).raise F.DRT_CMD_STATUS.BUSY
def T8 := busy 3 2 3 T5
def T9 := busy 2 1 0 T3
def lost (s : State) : State := {s with pwr := {s.pwr with pllLocked := false}}
def T1x := lost T1
def T6 : State := G0
def T1c := inMode .configure T1
def T7 := {T1 with time := {T1.time with now := 6400100 + 5, prev := 6400103}}
def T1p := {T1 with mem := {T1.mem with poison := [0x100020/32]}}
def T7s := tasked task0 task1 {task2 with stopping := true} T7
def T7w := {T7 with time := {T7.time with prev := 6400000}}

/-- The hypotheses of the clauses of `Obligations.TaskCommands` hold together, each group of one state. -/
theorem witness_TaskCommands :
    (T0.takesIo Adr.DRT_CMD = true
      ∧ T0.flag F.DRT_CMD_STATUS.BUSY = false
      ∧ 0 < T0.taskCount
      ∧ T0.drtReady = true
      ∧ (T0.task 0).enabled = false
      ∧ T0.checkDesc (T0.readDesc 0) (decide ((T0.readDesc 0).trigger = 1)) = 0)
    ∧ (T0.takesIo Adr.DRT_CMD = true
      ∧ T0.flag F.DRT_CMD_STATUS.BUSY = false
      ∧ 3 < T0.taskCount
      ∧ T0.drtReady = true
      ∧ (T0.task 3).enabled = false
      ∧ T0.checkDesc (T0.readDesc 3) (decide ((T0.readDesc 3).trigger = 1)) ≠ 0)
    ∧ (T1.takesIo Adr.DRT_CMD = true
      ∧ T1.flag F.DRT_CMD_STATUS.BUSY = false
      ∧ 0 < T1.taskCount
      ∧ T1.drtReady = true
      ∧ (T1.task 0).enabled = true
      ∧ 3 < T1.taskCount
      ∧ (T1.task 3).enabled = false)
    ∧ (T2.takesIo Adr.DRT_CMD = true
      ∧ T2.flag F.DRT_CMD_STATUS.BUSY = true)
    ∧ (T1.takesIo Adr.DRT_CMD = true
      ∧ T1.flag F.DRT_CMD_STATUS.BUSY = false
      ∧ T1.taskCount ≤ 4)
    ∧ (T1x.takesIo Adr.DRT_CMD = false)
    ∧ (T8.draughtRuns = true
      ∧ T8.flag F.DRT_CMD_STATUS.BUSY = true
      ∧ T8.fld F.DRT_CMD.INDEX = 2
      ∧ T8.fld F.DRT_CMD.STAGING = 3
      ∧ (T8.task 2).act = Option.none
      ∧ T8.fld F.DRT_CMD.OP = 3
      ∧ T8.drtReady = true
      ∧ (T8.task 2).enabled = true
      ∧ T8.poisoned (T8.regionBase + 3 * 128) 128 = false
      ∧ T8.checkDesc (T8.readDesc 3) (decide ((T8.readDesc 3).trigger = 1) && (T8.task 2).trigger != 1) = 0)
    ∧ (T9.draughtRuns = true
      ∧ T9.flag F.DRT_CMD_STATUS.BUSY = true
      ∧ T9.fld F.DRT_CMD.INDEX = 1
      ∧ T9.fld F.DRT_CMD.STAGING = 0
      ∧ (T9.task 1).act = Option.none
      ∧ T9.fld F.DRT_CMD.OP = 2) :=
  by and_intros <;> decide +kernel

/-- The hypotheses of the clauses of `Obligations.ReleasesMakeActivations` hold together, each group of one state. -/
theorem witness_ReleasesMakeActivations :
    (Option.all (fun p => p.fst != 0) (T1x.cmdBusy 3) = true
      ∧ T1x.takesIo Adr.DRT_RELEASE = false
      ∧ (∀ (n : Nat), n < 64 → T1x.owesAdvance 0 n = false))
    ∧ (Option.all (fun p => p.fst != 0) (T1.cmdBusy 3) = true
      ∧ T1.releasesHeld = false
      ∧ T1.takesIo Adr.DRT_RELEASE = true
      ∧ 0 < T1.taskCount
      ∧ (T1.task 0).enabled = true
      ∧ (T1.task 0).trigger = 2
      ∧ T1.drtReady = true
      ∧ (T1.task 0).stopping = false
      ∧ (T1.task 0).act = Option.none
      ∧ ((T1.stamp 2048).snd.advancesFirst (T1.stamp 2048).fst 64).poisonAt (((T1.stamp 2048).snd.advancesFirst (T1.stamp 2048).fst 64).regionBase + 0 * 128) 128 = Option.none)
    ∧ (Option.all (fun p => p.fst != 0) (T6.cmdBusy 3) = true
      ∧ T6.releasesHeld = false
      ∧ T6.takesIo Adr.DRT_RELEASE = true
      ∧ 0 < T6.taskCount
      ∧ (T6.task 0).enabled = true
      ∧ (T6.task 0).trigger = 2
      ∧ T6.drtReady = true
      ∧ (T6.task 0).stopping = false
      ∧ (T6.task 0).act ≠ Option.none)
    ∧ (Option.all (fun p => p.fst != 1) (T6.cmdBusy 3) = true
      ∧ T6.releasesHeld = false
      ∧ T6.takesIo Adr.DRT_RELEASE = true
      ∧ (T6.taskCount ≤ 1 ∨ (T6.task 1).enabled = false ∨ (T6.task 1).trigger ≠ 2))
    ∧ (Option.all (fun p => p.fst != 0) (T1c.cmdBusy 3) = true
      ∧ T1c.takesIo Adr.DRT_RELEASE = true
      ∧ T1c.releasesHeld = true)
    ∧ (Option.all (fun p => p.fst != 2) (T7.cmdBusy 3) = true
      ∧ T7.releasesHeld = false
      ∧ firstPair T7.duePeriodic = Option.some (6400100, 2)
      ∧ T7.releaseTurn 6400100 2 T7.dueCommanded = true
      ∧ 6400100 ≤ T7.time.now
      ∧ T7.time.now < 6400100 + (T7.task 2).period
      ∧ T7.drtReady = true
      ∧ (T7.task 2).stopping = false
      ∧ (T7.task 2).act = Option.none
      ∧ (T7.advancesFirst 6400100 64).poisonAt ((T7.advancesFirst 6400100 64).regionBase + 2 * 128) 128 = Option.none)
    ∧ (Option.all (fun p => p.fst != 0) (T1p.cmdBusy 3) = true
      ∧ T1p.releasesHeld = false
      ∧ T1p.takesIo Adr.DRT_RELEASE = true
      ∧ 0 < T1p.taskCount
      ∧ (T1p.task 0).enabled = true
      ∧ (T1p.task 0).trigger = 2
      ∧ T1p.drtReady = true
      ∧ (T1p.task 0).stopping = false
      ∧ (T1p.task 0).act = Option.none
      ∧ ((T1p.stamp 2053).snd.advancesFirst (T1p.stamp 2053).fst 64).poisonAt (((T1p.stamp 2053).snd.advancesFirst (T1p.stamp 2053).fst 64).regionBase + 0 * 128) 128 = Option.some 1048608)
    ∧ (Option.all (fun p => p.fst != 2) (T7s.cmdBusy 3) = true
      ∧ T7s.releasesHeld = false
      ∧ firstPair T7s.duePeriodic = Option.some (6400100, 2)
      ∧ T7s.releaseTurn 6400100 2 T7s.dueCommanded = true
      ∧ 6400100 ≤ T7s.time.now
      ∧ T7s.time.now < 6400100 + (T7s.task 2).period
      ∧ (T7s.task 2).stopping = true)
    ∧ (Option.all (fun p => p.fst != 2) (T7w.cmdBusy 3) = true
      ∧ firstPair T7w.duePeriodic = Option.some (6400100, 2)
      ∧ T7w.releaseTurn 6400100 2 T7w.dueCommanded = false) :=
  by and_intros <;> decide +kernel

end Release

namespace Gather

def dw (l : List Nat) : List Byte := l.flatMap (bytesLE 8)
def d0 : List Nat := [2*2^62 + 1*2^60 + 3*2^57, 0, 0, 1000*2^32+500, 700*2^32, 0x4000, 0x5000, 0x6000, 0x6100, 0, 0x300*2^32+1*2^16+1, 0x400*2^32+32, 1, 0, 0x77, 0]
def d1 : List Nat := [1*2^62 + 9, 0, 0, 1000*2^32+500, 0, 0x4000, 0x5000, 0x6000, 0x6100, 0, 0, 0x400*2^32, 1, 0, 0x77, 0]
def d2 : List Nat := [0, 1600000, 100, 1000*2^32+500, 0, 0x4000, 0x5000, 0x6000, 0x6100, 0, 0, 0x400*2^32, 1, 0, 0x77, 0]
def d3 : List Nat := [2*2^62, 0, 0, 0*2^32+500, 0, 0x4000, 0x5000, 0x6000, 0x6100, 0, 0, 0x400*2^32, 1, 0, 0x77, 0]
def dbase : State :=
  let s := wr (wr (hw id) 0x100000 (dw (d0 ++ d1 ++ d2 ++ d3))) 0x100300 [5,0,0,0]
  let s := ((((s.setFld F.DRT_REGION_BASE.BASE 1).setFld F.DRT_REGION_BASE.SIZE_MIB 1).setFld F.DRT_TABLES.TASKS 4).setFld F.DRT_TABLES.RSETS 1).setFld F.DRT_SAVE_BASE.BASE 2
  let s := ((s.setReg (Adr.DRT_HWR_POOL 0) 0xFF).setReg Adr.DRT_GAL_POOL 1).setReg Adr.DRT_PCLASS_LVL 0x4321
  { s with time := { s.time with now := 5000000 } }
def drun : State := (inMode .run dbase).raise F.DRT_CTL.EN |>.raise F.DRT_STATUS.READY
def dsc0 : Desc := ⟨2, 1, 3, false, false, false, false, 0, 0, 0, 0, 0, 0, 1000, 500, 700, 0, 0x4000, 0x5000, 0x6000, 0x6100,
  0, 0, 0, 0x300, 1, 1, 0x400, 32, 1, 0, 0x77⟩
def task0 : Task := { Task.reset with enabled := true, trigger := 2 }
def task1 : Task := { Task.reset with enabled := true, trigger := 1, trigSlot := 9 }
def task2 : Task := { Task.reset with enabled := true, period := 1600000, nextRel := 6400100 }
def tasked (t0 t1 t2 : Task) (s : State) : State :=
  { s with drt := { s.drt with tasks := [(0, t0), (1, t1), (2, t2)], events := [1] } }
def act0 (st : ActStage) : Activation :=
  { newActivation dsc0 5000000 0x805 0 with
    stage := st, gallery := some 0, boundary := 6000000, packet := List.replicate 96 0, result := List.replicate 48 0 }
def hold0 (a : Activation) : State := tasked { task0 with act := some a, lastStamp := some 5000000 } task1 task2 drun
def G0 : State := hold0 (newActivation dsc0 5000000 0x805 0)
def queued (r l : Table (List Nat)) (s : State) : State := { s with drt := { s.drt with ready := r, locals := l } }
def fixOpen (s : State) : State := (s.setFld F.LOD_OPEN_B.BOUNDARY 6000000).raise F.LOD_STATUS.INIT_DONE
def G1 := fixOpen G0
def G2 : State := hold0 (act0 .gathering)
def G3 : State := queued [(0, [0])] [] (hold0 (act0 .ready))
def G4 : State := queued [] [(0, [0])] (hold0 (act0 (.localQueue 0)))
def fz (i : Nat) (s : State) : Activation := ((s.task i).act).getD (newActivation (s.readDesc i) 0 0 0)
def G1x : State := {G1 with pwr := {G1.pwr with pllLocked := false}}
def G1p := {G1 with mem := {G1.mem with poison := [0x100020/32]}}
def late (s : State) : State := {s with time := {s.time with now := 5000000+256001}}
def G1l := late G1
def G1n := late (G1.setReg Adr.DRT_GAL_POOL 0)
def G1m := late ((hold0 { newActivation dsc0 5000000 0x805 0 with missed := true }).setReg Adr.DRT_GAL_POOL 0)
def inU (s : State) : State := s.modHew 0 (fun x => (((x.setPsf 15 14 0).setPsf 27 24 0).setPsf 12 12 0))
def G5 := inU G4
def busy16 : State := { G1 with drt := { G1.drt with tasks := (List.range 16).map (fun k => (k, { task0 with act := some (act0 .gathering) })) } }
def G1q := late (hold0 { newActivation { dsc0 with pin := true, pinHewer := 9 } 5000000 0x805 0 with missed := true })

/-- The hypotheses of the clauses of `Obligations.GatherLandAndMove` hold together, each group of one state. -/
theorem witness_GatherLandAndMove :
    (G1x.draughtRuns = false)
    ∧ (G1.draughtRuns = true
      ∧ (G1.waitingGather.any fun x => !G1.affinityInPool x.snd) = false
      ∧ G1.enginesBusy < 16
      ∧ mostUrgent G1.servable = Option.some (0, fz 0 G1)
      ∧ G1.descPoison 0 (fz 0 G1).desc = Option.none)
    ∧ (G1p.draughtRuns = true
      ∧ (G1p.waitingGather.any fun x => !G1p.affinityInPool x.snd) = false
      ∧ G1p.enginesBusy < 16
      ∧ mostUrgent G1p.servable = Option.some (0, fz 0 G1p)
      ∧ G1p.descPoison 0 (fz 0 G1p).desc = Option.some 1048608)
    ∧ (busy16.draughtRuns = true
      ∧ (busy16.waitingGather.any fun x => !busy16.affinityInPool x.snd) = false
      ∧ 16 ≤ busy16.enginesBusy)
    ∧ (G1.draughtRuns = true
      ∧ (G1.task 0).act = Option.some (fz 0 G1)
      ∧ (fz 0 G1).stage ≠ ActStage.gathering
      ∧ G1.time.now < (fz 0 G1).deadlineAt)
    ∧ (G2.draughtRuns = true
      ∧ (G2.task 0).act = Option.some (fz 0 G2)
      ∧ (fz 0 G2).stage = ActStage.gathering)
    ∧ (G1l.draughtRuns = true
      ∧ (G1l.task 0).act = Option.some (fz 0 G1l)
      ∧ (fz 0 G1l).stage = ActStage.heap
      ∧ (fz 0 G1l).deadlineAt ≤ G1l.time.now
      ∧ (fz 0 G1l).missed = false
      ∧ G1l.pinnedWait (fz 0 G1l) = false)
    ∧ (G1n.draughtRuns = true
      ∧ (G1n.task 0).act = Option.some (fz 0 G1n)
      ∧ (fz 0 G1n).stage = ActStage.heap
      ∧ (fz 0 G1n).deadlineAt ≤ G1n.time.now
      ∧ G1n.affinityInPool (fz 0 G1n) = false
      ∧ (fz 0 G1n).missed = false)
    ∧ (G1m.draughtRuns = true
      ∧ (G1m.task 0).act = Option.some (fz 0 G1m)
      ∧ (fz 0 G1m).stage = ActStage.heap
      ∧ (fz 0 G1m).deadlineAt ≤ G1m.time.now
      ∧ G1m.affinityInPool (fz 0 G1m) = false
      ∧ (fz 0 G1m).missed = true)
    ∧ (G1q.draughtRuns = true
      ∧ (G1q.task 0).act = Option.some (fz 0 G1q)
      ∧ (fz 0 G1q).deadlineAt ≤ G1q.time.now
      ∧ (fz 0 G1q).missed = true
      ∧ G1q.pinnedWait (fz 0 G1q) = true)
    ∧ (G3.draughtRuns = true
      ∧ G3.stranded 0 = []
      ∧ G3.firstMovable 0 (G3.readyQ 0) = Option.some (0, 0)) :=
  by and_intros <;> decide +kernel

/-- The hypotheses of the clauses of `Obligations.TaskArrivalStartsTheBody` hold together, each group of one state. -/
theorem witness_TaskArrivalStartsTheBody :
    (G5.Canonical
      ∧ G5.localQ 0 = [0]
      ∧ (G5.task 0).act = Option.some (fz 0 G5)
      ∧ G5.hewerServes 0 = true
      ∧ G5.earlierDue 0 = false
      ∧ G5.swapDue 0 = false
      ∧ (G5.hew 0).body = Option.none
      ∧ G5.setPoison (fz 0 G5).desc = Option.none
      ∧ G5.takesArrival 0 (G5.arrivalLevel (fz 0 G5).desc.pclass) = true
      ∧ G5.srcFirst 0 7 = Option.none
      ∧ (G5.hew 0).missed = []
      ∧ (G5.hew 0).wPoison = []
      ∧ (G5.hew 0).vPoison = []
      ∧ G5.dramReach (G5.saveArea 0) 2048 = true
      ∧ (0 < G5.saveArea 0 ∨ G5.saveArea 0 + ((G5.hew 0).threadBytes 0).length ≤ 0))
    ∧ ((¬0 ∈ [1, 2, 3, 4, 30])) :=
  ⟨⟨canonical_of_ok (by decide +kernel), by decide +kernel⟩,
    by decide +kernel⟩

end Gather

namespace Bodies

def dw (l : List Nat) : List Byte := l.flatMap (bytesLE 8)
def d0 : List Nat := [2*2^62 + 1*2^60 + 3*2^57, 0, 0, 1000*2^32+500, 700*2^32, 0x4000, 0x5000, 0x6000, 0x6100, 0, 0x300*2^32+1*2^16+1, 0x400*2^32+32, 1, 0, 0x77, 0]
def d1 : List Nat := [1*2^62 + 9, 0, 0, 1000*2^32+500, 0, 0x4000, 0x5000, 0x6000, 0x6100, 0, 0, 0x400*2^32, 1, 0, 0x77, 0]
def d2 : List Nat := [0, 1600000, 100, 1000*2^32+500, 0, 0x4000, 0x5000, 0x6000, 0x6100, 0, 0, 0x400*2^32, 1, 0, 0x77, 0]
def d3 : List Nat := [2*2^62, 0, 0, 0*2^32+500, 0, 0x4000, 0x5000, 0x6000, 0x6100, 0, 0, 0x400*2^32, 1, 0, 0x77, 0]
def dbase : State :=
  let s := wr (wr (hw id) 0x100000 (dw (d0 ++ d1 ++ d2 ++ d3))) 0x100300 [5,0,0,0]
  let s := ((((s.setFld F.DRT_REGION_BASE.BASE 1).setFld F.DRT_REGION_BASE.SIZE_MIB 1).setFld F.DRT_TABLES.TASKS 4).setFld F.DRT_TABLES.RSETS 1).setFld F.DRT_SAVE_BASE.BASE 2
  let s := ((s.setReg (Adr.DRT_HWR_POOL 0) 0xFF).setReg Adr.DRT_GAL_POOL 1).setReg Adr.DRT_PCLASS_LVL 0x4321
  { s with time := { s.time with now := 5000000 } }
def drun : State := (inMode .run dbase).raise F.DRT_CTL.EN |>.raise F.DRT_STATUS.READY
def dsc0 : Desc := ⟨2, 1, 3, false, false, false, false, 0, 0, 0, 0, 0, 0, 1000, 500, 700, 0, 0x4000, 0x5000, 0x6000, 0x6100,
  0, 0, 0, 0x300, 1, 1, 0x400, 32, 1, 0, 0x77⟩
def dsc2 : Desc := ⟨0, 0, 0, false, false, false, false, 0, 0, 0, 0, 1600000, 100, 1000, 500, 0, 0, 0x4000, 0x5000, 0x6000, 0x6100,
  0, 0, 0, 0, 0, 0, 0x400, 0, 1, 0, 0x77⟩
def task0 : Task := { Task.reset with enabled := true, trigger := 2 }
def task1 : Task := { Task.reset with enabled := true, trigger := 1, trigSlot := 9 }
def task2 : Task := { Task.reset with enabled := true, period := 1600000, nextRel := 6400100 }
def tasked (t0 t1 t2 : Task) (s : State) : State :=
  { s with drt := { s.drt with tasks := [(0, t0), (1, t1), (2, t2)], events := [1] } }
def act0 (st : ActStage) : Activation :=
  { newActivation dsc0 5000000 0x805 0 with
    stage := st, gallery := some 0, boundary := 6000000, packet := List.replicate 96 0, result := List.replicate 48 0 }
def hold0 (a : Activation) : State := tasked { task0 with act := some a, lastStamp := some 5000000 } task1 task2 drun
def G0 : State := hold0 (newActivation dsc0 5000000 0x805 0)
def queued (r l : Table (List Nat)) (s : State) : State := { s with drt := { s.drt with ready := r, locals := l } }
def T6 : State := G0
def G3 : State := queued [(0, [0])] [] (hold0 (act0 .ready))
def G4 : State := queued [] [(0, [0])] (hold0 (act0 (.localQueue 0)))
def fz (i : Nat) (s : State) : Activation := ((s.task i).act).getD (newActivation (s.readDesc i) 0 0 0)
def late (s : State) : State := {s with time := {s.time with now := 5000000+256001}}
def G7 : State := (hold0 (act0 (.running 0))).modHew 0 (fun x =>
  { (x.setPsf 15 14 0).setPsf 12 12 1 with body := some 0, budget := 500, between := false, saved := true })
def G7m := G7.modHew 0 (fun x => x.setPsf 15 14 3)
def G8 : State := (hold0 (act0 .emitted)).modHew 0 (fun x => { x.setPsf 15 14 0 with body := none, between := true, saved := true })
def G8o := G8.modAct 0 (fun a => {a with result := (List.range 32).map (fun n => BitVec.ofNat 8 (n+1)) ++ bytesLE 8 0x4444 ++ bytesLE 8 (1 + 0x33*2^48 + 1*2^28)})
def G8a := {G8o with time := {G8o.time with now := 5000000 + 700*256 + 1}}
def G8b := late G8o
def G8c := late (G8o.modAct 0 (fun a => {a with desc := {a.desc with missDiscard := true}}))
def G8d := (G8o.modAct 0 (fun a => {a with desc := {a.desc with commit := 0}}))
def G8o0 : Activation := fz 0 G8o
def G9 : State := (hold0 { G8o0 with stage := .accepted, commitPoint := 4999999 }).raise F.LOD_STATUS.INIT_DONE
def GB := G7.modHew 0 (fun x => {x with budget := 0})
def GN := (G8.modHew 0 (fun x => x.setPsf 12 12 0))
def GN2 : State :=
  queued [] [(0, [2])] (tasked { task0 with lastStamp := some 5000000 } task1
    { task2 with
      act := some { newActivation dsc2 6400100 0x800 6000000 with
        stage := .localQueue 0, gallery := some 0, boundary := 6000000, packet := List.replicate 64 0 } } GN)
def THX := GN.raise F.MEM_STATUS.D3_READY
def C0 := inMode .configure dbase
def C1 := C0.setFld F.DRT_REGION_BASE.SIZE_MIB 0
def C2 := C0.raise F.DRT_CTL.EN
def S0 := (G4.setFld F.DRT_DSP_CTL.T1_EN 1)
def G4n := G4.setFld F.DRT_DSP_CTL.T1_EN 0
def G4x := {G4 with pwr := {G4.pwr with pllLocked := false}}
def S2 := (G3.setFld F.DRT_DSP_CTL.T1_EN 1)
def S2u := (List.range 8).foldl (fun s h => s.setHew h ((((hD Hewer.reset).setPsf 15 14 0).setPsf 27 24 0).setPsf 12 12 0)) S2
def GM := (hold0 (act0 (.running 0))).modHew 0 (fun x => { (x.setPsf 15 14 0).setPsf 12 12 1 with body := some 0, mcheck := true, saved := true })
def G9o : State := {G9 with mem := {G9.mem with poison := [(0x100000 + 0x6100)/32, (0x100000 + (fz 0 G9).desc.outList)/32]}}

/-- The hypotheses of the clauses of `Obligations.BodiesEndAndResultsCommit` hold together, each group of one state. -/
theorem witness_BodiesEndAndResultsCommit :
    (G7.Runs 0
      ∧ (G7.task 0).act = Option.some (fz 0 G7)
      ∧ (G7.hew 0).pl ≠ 3
      ∧ (G7.hew 0).body = Option.some 0)
    ∧ (G7m.Runs 0
      ∧ (G7m.task 0).act = Option.some (fz 0 G7m)
      ∧ ((G7m.hew 0).pl = 3 ∨ (G7m.hew 0).body = Option.none))
    ∧ (G8o.draughtRuns = true
      ∧ (G8o.task 0).act = Option.some (fz 0 G8o)
      ∧ (fz 0 G8o).stage = ActStage.emitted
      ∧ G8o.time.now ≤ (fz 0 G8o).deadlineAt
      ∧ (fz 0 G8o).desc.commit ≠ 0
      ∧ G8o.time.now ≤ ((fz 0 G8o).relTime + (fz 0 G8o).desc.commit * 256) % 2 ^ 64
      ∧ G8o.commitDue 0 (fz 0 G8o) = false)
    ∧ (G8a.draughtRuns = true
      ∧ (G8a.task 0).act = Option.some (fz 0 G8a)
      ∧ (fz 0 G8a).stage = ActStage.emitted
      ∧ G8a.time.now ≤ (fz 0 G8a).deadlineAt
      ∧ (fz 0 G8a).desc.commit ≠ 0
      ∧ ((fz 0 G8a).relTime + (fz 0 G8a).desc.commit * 256) % 2 ^ 64 < G8a.time.now)
    ∧ (G8b.draughtRuns = true
      ∧ (G8b.task 0).act = Option.some (fz 0 G8b)
      ∧ (fz 0 G8b).stage = ActStage.emitted
      ∧ (fz 0 G8b).deadlineAt < G8b.time.now
      ∧ (fz 0 G8b).desc.missDiscard = false)
    ∧ (G8c.draughtRuns = true
      ∧ (G8c.task 0).act = Option.some (fz 0 G8c)
      ∧ (fz 0 G8c).stage = ActStage.emitted
      ∧ (fz 0 G8c).deadlineAt < G8c.time.now
      ∧ (fz 0 G8c).desc.missDiscard = true)
    ∧ (G8d.draughtRuns = true
      ∧ (G8d.task 0).act = Option.some (fz 0 G8d)
      ∧ (fz 0 G8d).stage = ActStage.emitted
      ∧ G8d.time.now ≤ (fz 0 G8d).deadlineAt
      ∧ (fz 0 G8d).desc.commit = 0)
    ∧ (G9.draughtRuns = true
      ∧ (G9.task 0).act = Option.some (fz 0 G9)
      ∧ G9.commitDue 0 (fz 0 G9) = true
      ∧ ((fz 0 G9).commitsOutputs = true → G9.poisonAt (G9.regionBase + (fz 0 G9).desc.outList) ((fz 0 G9).desc.outRuns * 4) = Option.none))
    ∧ (G9o.draughtRuns = true
      ∧ (G9o.task 0).act = Option.some (fz 0 G9o)
      ∧ G9o.commitDue 0 (fz 0 G9o) = true
      ∧ (fz 0 G9o).commitsOutputs = true
      ∧ G9o.poisonAt (G9o.regionBase + (fz 0 G9o).desc.outList) ((fz 0 G9o).desc.outRuns * 4) = Option.some (1048576 + (fz 0 G9).desc.outList))
    ∧ ((GB.hew 0).body = Option.some 0
      ∧ (GB.hew 0).budget = 0
      ∧ GB.atBoundary 0 = true
      ∧ (GB.hew 0).mcheck = false
      ∧ (GB.hew 0).forced = false) :=
  ⟨⟨runs_of_ok (by decide +kernel), by decide +kernel⟩,
    ⟨runs_of_ok (by decide +kernel), by decide +kernel⟩,
    by and_intros <;> decide +kernel⟩

/-- The hypotheses of the clauses of `Obligations.TaskArrivalStartsTheBody` hold together, each group of one state. -/
theorem witness_TaskArrivalStartsTheBody :
    (GN2.Canonical
      ∧ GN2.localQ 0 = [2]
      ∧ (GN2.task 2).act = Option.some (fz 2 GN2)
      ∧ GN2.hewerServes 0 = true
      ∧ GN2.earlierDue 0 = false
      ∧ GN2.swapDue 0 = false
      ∧ (GN2.hew 0).body = Option.none
      ∧ GN2.setPoison (fz 2 GN2).desc = Option.none
      ∧ (GN2.hew 0).between = true
      ∧ (GN2.hew 0).saved = true
      ∧ GN2.atBoundary 0 = true)
    ∧ ((THX.hew 0).between = true
      ∧ (THX.hew 0).saved = true
      ∧ THX.atBoundary 0 = true
      ∧ (THX.hew 0).mcheck = false
      ∧ (THX.hewerInPool 0 && THX.offered 0) = false
      ∧ THX.dramReach (THX.saveArea 0) 2048 = true
      ∧ THX.poisoned (THX.saveArea 0) 2048 = false) :=
  ⟨⟨canonical_of_ok (by decide +kernel), by decide +kernel⟩,
    by decide +kernel⟩

/-- The hypotheses of the clauses of `Obligations.DraughtControl` hold together, each group of one state. -/
theorem witness_DraughtControl :
    (C0.takesIo Adr.DRT_CTL = true
      ∧ C0.mode = Mode.configure
      ∧ C0.flag F.DRT_CTL.EN = false
      ∧ C0.drtConfigOk = true
      ∧ (C0.pwr.pllLocked = false ∨ C0.domainOn 11 = false ∨ C0.flag F.DRT_CTL.EN = false))
    ∧ (C1.takesIo Adr.DRT_CTL = true
      ∧ C1.mode = Mode.configure
      ∧ C1.flag F.DRT_CTL.EN = false
      ∧ C1.drtConfigOk = false)
    ∧ (C2.pwr.pllLocked = true
      ∧ C2.domainOn 11 = true
      ∧ C2.flag F.DRT_CTL.EN = true
      ∧ C2.flag F.DRT_STATUS.READY = false
      ∧ C2.takesIo Adr.DRT_CTL = true
      ∧ C2.mode = Mode.configure)
    ∧ ((T6.mode ≠ Mode.configure ∨ T6.takesIo Adr.DRT_CTL = false))
    ∧ (G4n.flag F.DRT_DSP_CTL.T1_EN = false)
    ∧ (G4x.draughtRuns = false)
    ∧ (S0.draughtRuns = true
      ∧ S0.flag F.DRT_DSP_CTL.T1_EN = true)
    ∧ (S2u.draughtRuns = true
      ∧ S2u.flag F.DRT_DSP_CTL.T1_EN = true
      ∧ S2u.tier1Pick 3 = Option.some (0, false)) :=
  by decide +kernel

/-- The hypotheses of the clauses of `Obligations.InterruptEntry` hold together, each group of one state. -/
theorem witness_InterruptEntry :
    (GM.Canonical
      ∧ GM.atBoundary 0 = true
      ∧ (GM.hew 0).between = false
      ∧ (GM.hew 0).mcheck = true
      ∧ (GM.hew 0).body = Option.some 0
      ∧ GM.actOf 0 = Option.some (0, fz 0 GM)
      ∧ (0, fz 0 GM).snd.stage = ActStage.running 0
      ∧ (GM.hew 0).forced = false) :=
  ⟨canonical_of_ok (by decide +kernel), by decide +kernel⟩

end Bodies

namespace Control

def dw (l : List Nat) : List Byte := l.flatMap (bytesLE 8)
def d0 : List Nat := [2*2^62 + 1*2^60 + 3*2^57, 0, 0, 1000*2^32+500, 700*2^32, 0x4000, 0x5000, 0x6000, 0x6100, 0, 0x300*2^32+1*2^16+1, 0x400*2^32+32, 1, 0, 0x77, 0]
def d1 : List Nat := [1*2^62 + 9, 0, 0, 1000*2^32+500, 0, 0x4000, 0x5000, 0x6000, 0x6100, 0, 0, 0x400*2^32, 1, 0, 0x77, 0]
def d2 : List Nat := [0, 1600000, 100, 1000*2^32+500, 0, 0x4000, 0x5000, 0x6000, 0x6100, 0, 0, 0x400*2^32, 1, 0, 0x77, 0]
def d3 : List Nat := [2*2^62, 0, 0, 0*2^32+500, 0, 0x4000, 0x5000, 0x6000, 0x6100, 0, 0, 0x400*2^32, 1, 0, 0x77, 0]
def dbase : State :=
  let s := wr (wr (hw id) 0x100000 (dw (d0 ++ d1 ++ d2 ++ d3))) 0x100300 [5,0,0,0]
  let s := ((((s.setFld F.DRT_REGION_BASE.BASE 1).setFld F.DRT_REGION_BASE.SIZE_MIB 1).setFld F.DRT_TABLES.TASKS 4).setFld F.DRT_TABLES.RSETS 1).setFld F.DRT_SAVE_BASE.BASE 2
  let s := ((s.setReg (Adr.DRT_HWR_POOL 0) 0xFF).setReg Adr.DRT_GAL_POOL 1).setReg Adr.DRT_PCLASS_LVL 0x4321
  { s with time := { s.time with now := 5000000 } }
def drun : State := (inMode .run dbase).raise F.DRT_CTL.EN |>.raise F.DRT_STATUS.READY
def dsc0 : Desc := ⟨2, 1, 3, false, false, false, false, 0, 0, 0, 0, 0, 0, 1000, 500, 700, 0, 0x4000, 0x5000, 0x6000, 0x6100,
  0, 0, 0, 0x300, 1, 1, 0x400, 32, 1, 0, 0x77⟩
def task0 : Task := { Task.reset with enabled := true, trigger := 2 }
def task1 : Task := { Task.reset with enabled := true, trigger := 1, trigSlot := 9 }
def task2 : Task := { Task.reset with enabled := true, period := 1600000, nextRel := 6400100 }
def tasked (t0 t1 t2 : Task) (s : State) : State :=
  { s with drt := { s.drt with tasks := [(0, t0), (1, t1), (2, t2)], events := [1] } }
def act0 (st : ActStage) : Activation :=
  { newActivation dsc0 5000000 0x805 0 with
    stage := st, gallery := some 0, boundary := 6000000, packet := List.replicate 96 0, result := List.replicate 48 0 }
def hold0 (a : Activation) : State := tasked { task0 with act := some a, lastStamp := some 5000000 } task1 task2 drun
def queued (r l : Table (List Nat)) (s : State) : State := { s with drt := { s.drt with ready := r, locals := l } }
def nx' (i : Instr) (s : State) : State := nextOf (exec i s)
def G3 : State := queued [(0, [0])] [] (hold0 (act0 .ready))
def G4 : State := queued [] [(0, [0])] (hold0 (act0 (.localQueue 0)))
def fz (i : Nat) (s : State) : Activation := ((s.task i).act).getD (newActivation (s.readDesc i) 0 0 0)
def S0 := (G4.setFld F.DRT_DSP_CTL.T1_EN 1)
def S2 := (G3.setFld F.DRT_DSP_CTL.T1_EN 1)
def S4u := (List.range 8).foldl (fun s h => s.setHew h ((((hD Hewer.reset).setPsf 15 14 0).setPsf 27 24 0).setPsf 12 12 0)) S0
def S5u := S4u.modHew 0 (fun x => {x with body := some 1})
def t2 (s : State) : State := ((List.range 8).foldl (fun s h => s.setHew (8+h) ((((hD Hewer.reset).setPsf 15 14 0).setPsf 27 24 0).setPsf 12 12 0)) (((((s.setFld F.DRT_DSP_CTL.T2_EN 1).setReg Adr.DRT_GAL_IMPORT 2).setReg Adr.DRT_GAL_EXPORT 1).setReg (Adr.DRT_HWR_POOL 0) 0xFFFF).setReg Adr.DRT_GAL_POOL 3)).modAct 0 (fun a => {a with desc := {a.desc with affinity := 3}})
def U0 := t2 S2
def U1 := nx' (.tier2Request 1) U0
def U1n := nx' (.tier2Request 1) (t2 (G3.setReg Adr.DRT_GAL_EXPORT 0)) |>.setReg Adr.DRT_GAL_EXPORT 0
def U2 := nx' .tier2Steal U1
def U3 := (List.range 8).foldl (fun s h => s.modHew (8+h) (fun x => x.setPsf 15 14 3)) U2
def U4 := U2.setReg (Adr.DRT_HWR_POOL 0) 0xFF

/-- The hypotheses of the clauses of `Obligations.DraughtControl` hold together, each group of one state. -/
theorem witness_DraughtControl :
    (S5u.draughtRuns = true
      ∧ S5u.flag F.DRT_DSP_CTL.T1_EN = true
      ∧ S5u.tier1Pick 3 = Option.some (0, true))
    ∧ (U0.draughtRuns = true
      ∧ U0.tier2Wants 1 = true)
    ∧ ((U0.draughtRuns = false ∨ U0.tier2Wants 0 = false))
    ∧ (U1.draughtRuns = true
      ∧ U1.drt.t2req = [(U1.time.cyc, 1)]
      ∧ mostUrgent (U1.tier2Candidates 1) = Option.some (0, fz 0 U1))
    ∧ (U1n.draughtRuns = true
      ∧ U1n.drt.t2req = [(U1n.time.cyc, 1)]
      ∧ mostUrgent (U1n.tier2Candidates 1) = Option.none)
    ∧ (U2.draughtRuns = true
      ∧ (U2.task 0).act = Option.some (fz 0 U2)
      ∧ (fz 0 U2).stage = ActStage.copying 1
      ∧ List.find? (fun h => U2.freeFor h (U2.arrivalLevel (fz 0 U2).desc.pclass)) (List.map (fun k => 1 * 8 + k) (List.range 8)) = Option.some 8)
    ∧ (U3.draughtRuns = true
      ∧ (U3.task 0).act = Option.some (fz 0 U3)
      ∧ (fz 0 U3).stage = ActStage.copying 1
      ∧ List.find? (fun h => U3.freeFor h (U3.arrivalLevel (fz 0 U3).desc.pclass)) (List.map (fun k => 1 * 8 + k) (List.range 8)) = Option.none
      ∧ List.find? (fun h => U3.hewerInPool h && decide ((U3.localQ h).length < 8)) (List.map (fun k => 1 * 8 + k) (List.range 8)) = Option.some 8)
    ∧ (U4.draughtRuns = true
      ∧ (U4.task 0).act = Option.some (fz 0 U4)
      ∧ (fz 0 U4).stage = ActStage.copying 1
      ∧ List.find? (fun h => U4.freeFor h (U4.arrivalLevel (fz 0 U4).desc.pclass)) (List.map (fun k => 1 * 8 + k) (List.range 8)) = Option.none
      ∧ List.find? (fun h => U4.hewerInPool h && decide ((U4.localQ h).length < 8)) (List.map (fun k => 1 * 8 + k) (List.range 8)) = Option.none) :=
  by and_intros <;> decide +kernel

end Control

namespace LodeW

def lw (t : Option Nat) (src : Nat) (path : LodePath := .link) (slot : Nat := 5) (q : Nat := 1) (k : Nat := 0) : LodeWrite :=
  { path := path, slot := slot, value := 0x1234, kind := k, quality := q, time := t, source := src, poison := false }
def sl (o : Nat) (x : LodeSlot) (f : State → State) (w : List HoldItem) : State :=
  let s := f (((hw id).raise F.LOD_STATUS.INIT_DONE).setFld F.LOD_EPOCH.OPEN o)
  let s := s.setSlot 5 x
  {s with lode := {s.lode with inq := w}, time := {s.time with now := 900}}
def X1 : LodeSlot := {LodeSlot.reset with c0 := {LodeCopy.reset with ptime := 500, source := 7, tag := 3, seq := 0xFFFF}, c1 := {LodeCopy.reset with ptime := 400, tag := 2, late := true}}
def W (t : Nat) (src : Nat) : LodeWrite := lw (some t) src
def wA := W 500 7
def wB := W 500 6
def wC := W 500 8
def wD := W 700 8
def wE := lw (some 700) 8 .link 5 8
def rest0 : List HoldItem := [.clear 4 4]
def mk (o : Nat) (w : LodeWrite) (f : State → State := id) : State := sl o X1 f (.write w :: rest0)
def sA := mk 3 wA
def sB := mk 3 wB
def sC := mk 3 wC
def sE := mk 4 wE
def sH := mk 4 wD (fun s => (s.raise F.LOD_STATUS.CLOSE_PEND).setFld F.LOD_PEND_B.BOUNDARY 600)
def sJ := mk 4 wC (fun s => (s.setFld F.LOD_STATUS.INIT_DONE 0))
def vq (s : State) (w : LodeWrite) : Word × Nat := (writeValue (s.slot 5) w).getD (0,0)
def F1 (f : State → State) : State := sl 4 X1 (fun s => f (((((s.setFld F.LOD_SWR_INDEX.SLOT 5).setFld F.LOD_FRC_INDEX.SLOT 5).setReg Adr.LOD_SWR_VALUE 0x99).setReg Adr.LOD_FRC_VALUE 0x88).setFld F.LOD_CFG_INDEX.SLOT 5)) []
def F1a := F1 id
def F1b := F1 (fun s => (s.setReg Adr.LOD_FRC_TIME 2000).raise F.LOD_CFG_INDEX.INC)
def F1c := (F1b.modHew 0 id).setSlot 5 {X1 with c0 := {X1.c0 with tag := 4, frz := true}, forces := [(300, none)]}
def A1 := sl 4 X1 (fun s => (s.raise F.LOD_CTL.SW_ADV_EN).setFld F.LOD_OPEN_B.BOUNDARY 800) []
def A2 := sl 4 X1 (fun s => ((s.raise F.LOD_CTL.SW_ADV_EN).raise F.LOD_STATUS.CLOSE_PEND).setFld F.LOD_OPEN_B.BOUNDARY 800) []
def E1 := sl 4 X1 (fun s => (((s.raise F.LOD_STATUS.CLOSE_PEND).setFld F.LOD_PEND_B.BOUNDARY 600).setFld F.LOD_HORIZON.HORIZON 300)) []
def E2 := sl 4 X1 (fun s => (((s.raise F.LOD_STATUS.CLOSE_PEND).setFld F.LOD_PEND_B.BOUNDARY 600).setFld F.LOD_HORIZON.HORIZON 301)) []
def E3 := sl 4 X1 (fun s => s.setFld F.LOD_STATUS.INIT_DONE 0) []
def E5 := {E3 with lode := {E3.lode with waitAdv := [0]}}
def WN := ((sl 4 X1 id []).setReg (Adr.LOD_WIN_MATCH 7) 5).setReg Adr.LOD_WIN_COMMIT 0x100
def lost (s : State) : State := {s with pwr := {s.pwr with pllLocked := false}}
def F1x := lost F1c
def A1x := lost A1
def WNx := lost WN

/-- The hypotheses of the clauses of `Obligations.LodeAppliesWrites` hold together, each group of one state. -/
theorem witness_LodeAppliesWrites :
    (sA.lode.inq = HoldItem.write wA :: rest0
      ∧ wA.time = Option.some 500
      ∧ wA.path ≠ LodePath.force
      ∧ sA.lodeAccepts = true
      ∧ wA.slot < slotCount
      ∧ pathMayWrite wA.path (sA.slot wA.slot).dirOut = true
      ∧ (sA.slot wA.slot).forcedAt 500 = false
      ∧ writeValue (sA.slot wA.slot) wA = Option.some ((vq sA wA).fst, (vq sA wA).snd)
      ∧ sA.beyondPending 500 = false
      ∧ 500 = ((sA.slot wA.slot).newest sA.openEpoch).ptime
      ∧ wA.source = ((sA.slot wA.slot).newest sA.openEpoch).source)
    ∧ (sB.lode.inq = HoldItem.write wB :: rest0
      ∧ wB.time = Option.some 500
      ∧ wB.path ≠ LodePath.force
      ∧ sB.lodeAccepts = true
      ∧ wB.slot < slotCount
      ∧ pathMayWrite wB.path (sB.slot wB.slot).dirOut = true
      ∧ (sB.slot wB.slot).forcedAt 500 = false
      ∧ writeValue (sB.slot wB.slot) wB = Option.some ((vq sA wA).fst, (vq sA wA).snd)
      ∧ sB.beyondPending 500 = false
      ∧ stampBefore 500 wB.source ((sB.slot wB.slot).newest sB.openEpoch).ptime ((sB.slot wB.slot).newest sB.openEpoch).source = true
      ∧ (vq sA wA).snd ≠ wB.slot
      ∧ (vq sA wA).snd ≠ Adr.LOD_COUNTS)
    ∧ (sC.lode.inq = HoldItem.write wC :: rest0
      ∧ wC.time = Option.some 500
      ∧ wC.path ≠ LodePath.force
      ∧ sC.lodeAccepts = true
      ∧ wC.slot < slotCount
      ∧ pathMayWrite wC.path (sC.slot wC.slot).dirOut = true
      ∧ (sC.slot wC.slot).forcedAt 500 = false
      ∧ writeValue (sC.slot wC.slot) wC = Option.some ((vq sA wA).fst, (vq sA wA).snd)
      ∧ sC.beyondPending 500 = false
      ∧ stampBefore 500 wC.source ((sC.slot wC.slot).newest sC.openEpoch).ptime ((sC.slot wC.slot).newest sC.openEpoch).source = false
      ∧ (500 ≠ ((sC.slot wC.slot).newest sC.openEpoch).ptime ∨ wC.source ≠ ((sC.slot wC.slot).newest sC.openEpoch).source)
      ∧ (sC.slot wC.slot).evt = false
      ∧ (vq sA wA).snd ≠ wC.slot
      ∧ (vq sA wA).snd ≠ Adr.LOD_COUNTS)
    ∧ (sE.lode.inq = HoldItem.write wE :: rest0
      ∧ wE.time = Option.some 700
      ∧ wE.path ≠ LodePath.force
      ∧ sE.lodeAccepts = true
      ∧ (slotCount ≤ wE.slot ∨ pathMayWrite wE.path (sE.slot wE.slot).dirOut = false ∨ (sE.slot wE.slot).forcedAt 700 = true ∨ writeValue (sE.slot wE.slot) wE = Option.none))
    ∧ (sH.lode.inq = HoldItem.write wD :: rest0
      ∧ wD.time = Option.some 700
      ∧ wD.path ≠ LodePath.force
      ∧ sH.lodeAccepts = true
      ∧ wD.slot < slotCount
      ∧ pathMayWrite wD.path (sH.slot wD.slot).dirOut = true
      ∧ (sH.slot wD.slot).forcedAt 700 = false
      ∧ writeValue (sH.slot wD.slot) wD = Option.some ((vq sA wA).fst, (vq sA wA).snd)
      ∧ sH.beyondPending 700 = true)
    ∧ (sJ.lode.inq = HoldItem.write wC :: rest0
      ∧ wC.time = Option.some 500
      ∧ wC.path ≠ LodePath.force
      ∧ sJ.lodeAccepts = false) :=
  by and_intros <;> decide +kernel

/-- The hypotheses of the clauses of `Obligations.SoftwareWritesAndForces` hold together, each group of one state. -/
theorem witness_SoftwareWritesAndForces :
    (F1a.lodeAccepts = true
      ∧ F1a.lode.inq = []
      ∧ F1a.flag F.LOD_STATUS.CLOSE_PEND = false
      ∧ F1a.fld F.LOD_SWR_INDEX.SLOT < slotCount
      ∧ (F1a.slot (F1a.fld F.LOD_SWR_INDEX.SLOT)).evt = false
      ∧ bitOf 131073 0 = true
      ∧ bitsOf 131073 7 4 = (F1a.slot (F1a.fld F.LOD_SWR_INDEX.SLOT)).kind
      ∧ bitsOf 131073 23 16 ∈ [1, 2, 3, 4, 5, 6, 7]
      ∧ (F1a.slot (F1a.fld F.LOD_SWR_INDEX.SLOT)).forcedAt (F1a.stamp 2053).fst = false
      ∧ ((F1a.slot (F1a.fld F.LOD_SWR_INDEX.SLOT)).newest F1a.openEpoch).ptime < (F1a.stamp 2053).fst
      ∧ 0 ≠ F1a.fld F.LOD_SWR_INDEX.SLOT
      ∧ F1a.fld F.LOD_FRC_INDEX.SLOT < slotCount
      ∧ (F1a.slot (F1a.fld F.LOD_FRC_INDEX.SLOT)).evt = false
      ∧ ((F1a.slot (F1a.fld F.LOD_FRC_INDEX.SLOT)).newest F1a.openEpoch).ptime < Max.max (F1a.fld F.LOD_FRC_TIME.TIME) F1a.time.now
      ∧ 0 ≠ F1a.fld F.LOD_FRC_INDEX.SLOT
      ∧ (∀ (f : Nat × Option Nat), f ∈ (F1a.slot (F1a.fld F.LOD_FRC_INDEX.SLOT)).forces → f.fst ≤ Max.max (F1a.fld F.LOD_FRC_TIME.TIME) F1a.time.now)
      ∧ bitsOf 131073 7 4 < 8
      ∧ F1a.mode = Mode.configure
      ∧ F1a.fld F.LOD_CFG_INDEX.SLOT < slotCount
      ∧ 0 ≠ F1a.fld F.LOD_CFG_INDEX.SLOT)
    ∧ (F1a.lodeAccepts = true
      ∧ F1a.lode.inq = []
      ∧ F1a.flag F.LOD_STATUS.CLOSE_PEND = false
      ∧ 8 ≤ bitsOf 2882380021 7 4)
    ∧ (F1c.lodeAccepts = true
      ∧ F1c.lode.inq = []
      ∧ F1c.flag F.LOD_STATUS.CLOSE_PEND = false
      ∧ F1c.fld F.LOD_FRC_INDEX.SLOT < slotCount
      ∧ (F1c.slot (F1c.fld F.LOD_FRC_INDEX.SLOT)).evt = false
      ∧ ((F1c.slot (F1c.fld F.LOD_FRC_INDEX.SLOT)).newest F1c.openEpoch).inEpoch F1c.openEpoch = true)
    ∧ ((F1x.pwr.pllLocked = false ∨ F1x.domainOn 2 = false)) :=
  by and_intros <;> decide +kernel

/-- The hypotheses of the clauses of `Obligations.AdvanceRecordedOrRefused` hold together, each group of one state. -/
theorem witness_AdvanceRecordedOrRefused :
    (900 < 2 ^ 64
      ∧ A1.flag F.LOD_STATUS.CLOSE_PEND = false
      ∧ (if A1.flag F.LOD_STATUS.CLOSE_PEND = true then A1.fld F.LOD_PEND_B.BOUNDARY else A1.fld F.LOD_OPEN_B.BOUNDARY) < 900
      ∧ 900 = A1.time.now
      ∧ A1.takesIo Adr.LOD_ADVANCE = true
      ∧ A1.flag F.LOD_CTL.SW_ADV_EN = true
      ∧ A1.flag F.LOD_STATUS.INIT_DONE = true)
    ∧ (800 < 2 ^ 64
      ∧ (A1.flag F.LOD_STATUS.CLOSE_PEND = true ∨ 800 ≤ if A1.flag F.LOD_STATUS.CLOSE_PEND = true then A1.fld F.LOD_PEND_B.BOUNDARY else A1.fld F.LOD_OPEN_B.BOUNDARY))
    ∧ (900 < 2 ^ 64
      ∧ 900 = A2.time.now
      ∧ A2.takesIo Adr.LOD_ADVANCE = true
      ∧ A2.flag F.LOD_CTL.SW_ADV_EN = true
      ∧ A2.flag F.LOD_STATUS.INIT_DONE = true
      ∧ (A2.flag F.LOD_STATUS.CLOSE_PEND = true ∨ 900 ≤ if A2.flag F.LOD_STATUS.CLOSE_PEND = true then A2.fld F.LOD_PEND_B.BOUNDARY else A2.fld F.LOD_OPEN_B.BOUNDARY))
    ∧ (900 < 2 ^ 64
      ∧ A1x.takesIo Adr.LOD_ADVANCE = false) :=
  by decide +kernel

/-- The hypotheses of the clauses of `Obligations.EpochCloseAndWindows` hold together, each group of one state. -/
theorem witness_EpochCloseAndWindows :
    (E1.pwr.pllLocked = true
      ∧ E1.domainOn 2 = true
      ∧ E1.closeDue = true
      ∧ E1.gathersOpen = false
      ∧ E1.adt.queries = []
      ∧ E1.lode.hold = []
      ∧ E1.openEpoch + 1 < 2 ^ 64
      ∧ E1.flag F.LOD_STATUS.INIT_DONE = true
      ∧ tagAge E1.openEpoch (E1.slot 5).c0.tag < 2 ^ 31 - 2
      ∧ tagAge E1.openEpoch (E1.slot 5).c1.tag < 2 ^ 31 - 2
      ∧ (E1.slot 5).c0.tag < 2 ^ 32
      ∧ (E1.slot 5).c1.tag < 2 ^ 32)
    ∧ (E2.pwr.pllLocked = true
      ∧ E2.domainOn 2 = true
      ∧ (E2.flag F.LOD_STATUS.CLOSE_PEND = false ∨ E2.time.now < E2.fld F.LOD_PEND_B.BOUNDARY + E2.fld F.LOD_HORIZON.HORIZON))
    ∧ (E3.pwr.pllLocked = true
      ∧ E3.domainOn 2 = true
      ∧ E3.flag F.LOD_STATUS.INIT_DONE = false
      ∧ E3.lode.waitAdv = [])
    ∧ (E5.pwr.pllLocked = true
      ∧ E5.domainOn 2 = true
      ∧ E5.flag F.LOD_STATUS.INIT_DONE = false
      ∧ E5.lode.waitAdv = [0])
    ∧ (WN.takesIo Adr.LOD_WIN_COMMIT = true)
    ∧ (WNx.takesIo Adr.LOD_WIN_COMMIT = false) :=
  by and_intros <;> decide +kernel

end LodeW

namespace TimeW

def ts (st : Nat) (f : State → State) (g : TimeState → TimeState) : State :=
  let s := f ((((((hw id).setFld F.TIM_STATUS.STATE st).setFld F.TIM_CTL.SYNC_EN 1).setFld F.TIM_CTL.PORT_EN 0x0F).setFld F.TIM_STATUS.SLAVE_PORT 2).setFld F.TIM_LIMITS.LOCK_NS 1 |>.setFld F.TIM_LIMITS.LOSS_NS 2)
  {s with time := g {s.time with now := 160000, prev := 160000, cyc := 5000, selected := some (9, 2), master := some 9, lastSync := [(9, 4000)], within := 15, beyond := 3}}
def q0 := ts 0 id id
def q1 := ts 1 (fun s => s.raise F.TIM_STATUS.STEPPED) id
def q2 := ts 2 (fun s => s.raise F.TIM_STATUS.STEPPED) id
def q3 := ts 3 id id
def q4 := ts 4 id id
def q2g := q2.raise F.TIM_CTL.GM_CAPABLE
def q1l := {q1 with time := {q1.time with everLocked := true, us := 100000, lastSyncUs := 5, syncNs := 1000}}
def q2l := {q2 with time := {q2.time with us := 100000, lastSyncUs := 5, syncNs := 1000}}
def q3x := {q3 with time := {q3.time with us := 100000000000}}
def q2r := inMode .run q2
def cu (ctl : Nat) (t p : Word) (f : State → State := id) : State := let s := f (((ts 4 id id).setReg (Adr.TIM_CMP_CTL 5) (BitVec.ofNat 64 ctl)).setReg (Adr.TIM_CMP_TARGET 5) t |>.setReg (Adr.TIM_CMP_PERIOD 5) p)
  s
def k0 := cu 0 0 0
def k1 := cu (0xA0030001) 100 0
def k2 := cu (0xA0030001) 100 7
def k3 := cu (0x00030001) 160000 40000000000000000
def k4 := cu (0x00030003) 160000 0
def k5 := cu (0x0003000B) 160000 0 (fun s => s.raise F.LOD_STATUS.INIT_DONE)
def pp := q4.raise (F.PLK_PORT_STATUS.LINK 2) |> inMode .run
def lost (s : State) : State := {s with pwr := {s.pwr with pllLocked := false}}
def q0x := lost q0
def k0x := lost k0
def q3n := {q3 with time := {q3.time with lastSync := []}}
def k9 := k3.setReg Adr.PWR_DOM_STATE 0xF
def pp3 := {pp with time := {pp.time with roles := [(2, 2)]}}
def q0r := {q0 with time := {q0.time with roles := [(2, 1)]}}
def pp4 := {pp with plk := {pp.plk with ports := pp.plk.ports.set PlkPort.reset 2 {pp.port 2 with lock := true}}}
def pp5 := {pp4 with time := {pp4.time with roles := [(2, 2)]}}
def pp6 := pp5.modPort 2 (fun x => {x with busy := pp5.time.cyc + 9})

/-- The hypotheses of the clauses of `Obligations.TimeIsSetOnlyInFree` hold together, each group of one state. -/
theorem witness_TimeIsSetOnlyInFree :
    (q0.takesIo Adr.TIM_SET = true
      ∧ q0.fld F.TIM_STATUS.STATE = 0
      ∧ q0.flag F.TIM_STATUS.STEPPED = false
      ∧ 0 ≠ Adr.TIM_STATUS)
    ∧ (q2.takesIo Adr.TIM_SET = true
      ∧ (q2.fld F.TIM_STATUS.STATE ≠ 0 ∨ q2.flag F.TIM_STATUS.STEPPED = true))
    ∧ (q0x.takesIo Adr.TIM_SET = false) :=
  by decide +kernel

/-- The hypotheses of the clauses of `Obligations.SynchronisationStates` hold together, each group of one state. -/
theorem witness_SynchronisationStates :
    (q1.gptpPort 2 = true
      ∧ q1.pwr.pllLocked = true
      ∧ 0 ≤ q1.plantTime 0 10000 0
      ∧ q1.plantTime 0 10000 0 < 2 ^ 64
      ∧ q1.time.selected = Option.some (9, 2)
      ∧ q1.fld F.TIM_STATUS.STATE = 1
      ∧ q1.time.master = Option.some 9
      ∧ q1.flag F.TIM_STATUS.STEPPED = true
      ∧ (↑q1.time.now - q1.plantTime 0 10000 0).natAbs ≤ q1.fld F.TIM_LIMITS.LOCK_NS * 16
      ∧ 15 ≤ q1.time.within)
    ∧ (q2.gptpPort 2 = true
      ∧ q2.pwr.pllLocked = true
      ∧ 0 ≤ q2.plantTime 0 9998 0
      ∧ q2.plantTime 0 9998 0 < 2 ^ 64
      ∧ q2.time.selected = Option.some (9, 2)
      ∧ q2.fld F.TIM_STATUS.STATE = 2
      ∧ q2.time.master = Option.some 9
      ∧ (↑q2.time.now - q2.plantTime 0 9998 0).natAbs ≤ q2.fld F.TIM_LIMITS.LOSS_NS * 16
      ∧ List.find? (fun e => decide (e.fst = 9)) q2.time.lastSync = Option.some (9, q2.time.cyc - 1000)
      ∧ 1000 ≤ q2.time.cyc)
    ∧ (q2.gptpPort 2 = true
      ∧ q2.pwr.pllLocked = true
      ∧ 0 ≤ q2.plantTime 0 9000 0
      ∧ q2.plantTime 0 9000 0 < 2 ^ 64
      ∧ q2.time.selected = Option.some (9, 2)
      ∧ q2.fld F.TIM_STATUS.STATE = 2
      ∧ q2.time.master = Option.some 9
      ∧ q2.fld F.TIM_LIMITS.LOSS_NS * 16 < (↑q2.time.now - q2.plantTime 0 9000 0).natAbs
      ∧ 3 ≤ q2.time.beyond)
    ∧ ((q2.gptpPort 5 = false ∨ true = false ∨ q2.pwr.pllLocked = false))
    ∧ (q2.gptpPort 2 = true
      ∧ q2.pwr.pllLocked = true
      ∧ (q2.plantTime 1152921504606846975 10000 0 < 0 ∨ 2 ^ 64 ≤ q2.plantTime 1152921504606846975 10000 0))
    ∧ (q3n.gptpPort 2 = true
      ∧ q3n.pwr.pllLocked = true
      ∧ 0 ≤ q3n.plantTime 0 10000 0
      ∧ q3n.plantTime 0 10000 0 < 2 ^ 64
      ∧ q3n.time.selected = Option.some (9, 2)
      ∧ q3n.fld F.TIM_STATUS.STATE ∈ [0, 3, 4]
      ∧ List.find? (fun e => decide (e.fst = 9)) q3n.time.lastSync = Option.none)
    ∧ (q0.flag F.TIM_CTL.GM_CAPABLE = false
      ∧ q0.gptpPort 2 = true
      ∧ q0.mayFollow 2 = true
      ∧ q0.pwr.pllLocked = true)
    ∧ (q2g.takesPart = true
      ∧ q2g.pwr.pllLocked = true
      ∧ q2g.flag F.TIM_CTL.GM_CAPABLE = true)
    ∧ ((q0x.takesPart = false ∨ q0x.pwr.pllLocked = false))
    ∧ ((q0r.gptpPort 2 = false ∨ q0r.mayFollow 2 = false))
    ∧ (decide (3 * q1l.time.syncNs ≤ (q1l.time.us - q1l.time.lastSyncUs) * 1000) = true
      ∧ q1l.fld F.TIM_STATUS.STATE = 1
      ∧ q1l.takesIo Adr.TIM_CTL = true
      ∧ q1l.mode = Mode.configure
      ∧ bitOf 65280 0 = false)
    ∧ (decide (3 * q2l.time.syncNs ≤ (q2l.time.us - q2l.time.lastSyncUs) * 1000) = true
      ∧ q2l.fld F.TIM_STATUS.STATE = 2)
    ∧ (q3x.fld F.TIM_STATUS.STATE = 3
      ∧ q3x.fld F.TIM_HOLD.HOLD_MS * 1000 < q3x.time.us - q3x.time.holdUs)
    ∧ (decide (3 * q2r.time.syncNs ≤ (q2r.time.us - q2r.time.lastSyncUs) * 1000) = false
      ∧ (q2r.mode ≠ Mode.configure ∨ q2r.takesIo Adr.TIM_CTL = false)) :=
  by and_intros <;> decide +kernel

/-- The hypotheses of the clauses of `Obligations.CompareUnitsRefuseArmedWrites` hold together, each group of one state. -/
theorem witness_CompareUnitsRefuseArmedWrites :
    (k0.takesIo (Adr.TIM_CMP_CTL 5) = true
      ∧ k0.flag (F.TIM_CMP_CTL.ARM 5) = false
      ∧ bitOf 5 0 = true
      ∧ bitsOf 5 3 1 < 6)
    ∧ (k0.takesIo (Adr.TIM_CMP_CTL 5) = true
      ∧ bitOf 15 0 = true
      ∧ 6 ≤ bitsOf 15 3 1)
    ∧ (k1.takesIo (Adr.TIM_CMP_CTL 5) = true
      ∧ k1.flag (F.TIM_CMP_CTL.ARM 5) = true)
    ∧ (k0x.takesIo (Adr.TIM_CMP_CTL 5) = false) :=
  by decide +kernel

/-- The hypotheses of the clauses of `Obligations.CompareUnitsFire` hold together, each group of one state. -/
theorem witness_CompareUnitsFire :
    (k0.cmpFirst 5 = false)
    ∧ (k1.cmpFirst 5 = true
      ∧ k1.fld (F.TIM_CMP_CTL.ACTION 5) = 0
      ∧ k1.domainOn (shaftDomain (k1.fld (F.TIM_CMP_CTL.ARG 5) % 512)) = true
      ∧ BitVec.toNat (k1.reg (Adr.TIM_CMP_PERIOD 5)) = 0)
    ∧ (k2.cmpFirst 5 = true
      ∧ k2.fld (F.TIM_CMP_CTL.ACTION 5) = 0
      ∧ BitVec.toNat (k2.reg (Adr.TIM_CMP_PERIOD 5)) ≠ 0
      ∧ 1 < (160000 - 100) / 7 + 1)
    ∧ (k4.cmpFirst 5 = true
      ∧ k4.fld (F.TIM_CMP_CTL.ACTION 5) = 1
      ∧ BitVec.toNat (k4.reg (Adr.TIM_CMP_PERIOD 5)) = 0)
    ∧ (k5.cmpFirst 5 = true
      ∧ k5.fld (F.TIM_CMP_CTL.ACTION 5) = 5
      ∧ BitVec.toNat (k5.reg (Adr.TIM_CMP_PERIOD 5)) = 0)
    ∧ (k9.cmpFirst 5 = true
      ∧ k9.fld (F.TIM_CMP_CTL.ACTION 5) = 0
      ∧ k9.domainOn (shaftDomain (k9.fld (F.TIM_CMP_CTL.ARG 5) % 512)) = false)
    ∧ (pp.gptpSends 3 = false)
    ∧ (pp3.mayLead 2 = false)
    ∧ (pp4.gptpSends 2 = true
      ∧ (pp4.port 2).busy ≤ pp4.time.cyc
      ∧ (pp4.port 2).lock = true
      ∧ (pp4.port 2).gptp = []
      ∧ pp4.fld F.TIM_STATUS.STATE = 4
      ∧ pp4.mayLead 2 = true)
    ∧ (pp6.gptpSends 2 = true
      ∧ pp6.time.cyc < (pp6.port 2).busy) :=
  by and_intros <;> decide +kernel

end TimeW

namespace ModeW

def mb (m : Mode) (f : State → State := id) : State := inMode m (f (((hw id).setReg (Adr.DRT_HWR_POOL 0) 0xFF).setReg Adr.DRT_GAL_POOL 1))
def bt (s : State) : State := s.raise F.CFG_BOOT_STATUS.DONE
def fatal (s : State) : State := s.raise F.CFG_ST_RESULT.FATAL
def s_off_id := mb .off id
def s_configure_bt := mb .configure bt
def s_configure_en := mb .configure (fun s => (bt s).raise F.FLT_PARTNER.EN)
def s_configure_wt := mb .configure (fun s => ((bt s).raise F.FLT_PARTNER.EN).raise F.CFG_MODE.ROLE_WAIT)
def s_configure_pm := mb .configure (fun s => let t := ((((bt s).raise F.FLT_PARTNER.EN).raise F.CFG_MODE.ROLE_WAIT).raise F.PLK_PARTNER_STAT.SEEN); {t with flt := {t.flt with peerMode := 4}})
def s_selfTest_id := mb .selfTest id
def s_run_id := mb .run id
def s_maintenance_id := mb .maintenance id
def s_safeHold_id := mb .safeHold id
def s_lost : State := {s_run_id with pwr := {s_run_id.pwr with pllLocked := false}}

/-- The hypotheses of the clauses of `Obligations.FatalRefusesService` hold together, each group of one state. -/
theorem witness_FatalRefusesService :
    ((fatal s_off_id).takesIo Adr.CFG_MODE = true
      ∧ (fatal s_off_id).flag F.CFG_ST_RESULT.FATAL = true)
    ∧ (s_lost.takesIo Adr.CFG_MODE = false) :=
  by decide +kernel

/-- The hypotheses of the clauses of `Obligations.ModeRequests` hold together, each group of one state. -/
theorem witness_ModeRequests :
    (s_off_id.takesIo Adr.CFG_MODE = true
      ∧ s_off_id.flag F.CFG_ST_RESULT.FATAL = false
      ∧ (¬(s_off_id.mode = Mode.configure ∧ s_off_id.flag F.CFG_BOOT_STATUS.DONE = true ∧ s_off_id.fld F.CFG_BOOT_STATUS.ERR = 0))
      ∧ (¬s_off_id.mode ∈ [Mode.standby, Mode.run, Mode.degraded])
      ∧ s_off_id.mode ≠ Mode.maintenance
      ∧ (¬s_off_id.mode ∈ [Mode.standby, Mode.run, Mode.degraded, Mode.maintenance])
      ∧ (s_off_id.mode ≠ Mode.safeHold ∨ s_off_id.pwr.pllLocked = false ∨ s_off_id.flag F.CAN_DEV_STAT.EXPIRED = true ∨ s_off_id.fld F.FLT_STATUS.SAFE_CAUSE = 3)
      ∧ s_off_id.flag F.CFG_MODE.ROLE_WAIT = false)
    ∧ (s_configure_bt.takesIo Adr.CFG_MODE = true
      ∧ s_configure_bt.flag F.CFG_ST_RESULT.FATAL = false
      ∧ s_configure_bt.mode = Mode.configure
      ∧ s_configure_bt.flag F.CFG_BOOT_STATUS.DONE = true
      ∧ s_configure_bt.fld F.CFG_BOOT_STATUS.ERR = 0
      ∧ s_configure_bt.poolLeft = true
      ∧ (s_configure_bt.mode = Mode.maintenance ∨ s_configure_bt.mode = Mode.configure ∧ s_configure_bt.flag F.CFG_BOOT_STATUS.DONE = true ∧ s_configure_bt.fld F.CFG_BOOT_STATUS.ERR = 0)
      ∧ s_configure_bt.flag F.CFG_MODE.ROLE_WAIT = false
      ∧ s_configure_bt.flag F.FLT_PARTNER.EN = false)
    ∧ (s_configure_en.takesIo Adr.CFG_MODE = true
      ∧ s_configure_en.flag F.CFG_ST_RESULT.FATAL = false
      ∧ (s_configure_en.mode = Mode.maintenance ∨ s_configure_en.mode = Mode.configure ∧ s_configure_en.flag F.CFG_BOOT_STATUS.DONE = true ∧ s_configure_en.fld F.CFG_BOOT_STATUS.ERR = 0)
      ∧ s_configure_en.flag F.CFG_MODE.ROLE_WAIT = false
      ∧ s_configure_en.flag F.FLT_PARTNER.EN = true
      ∧ s_configure_en.flag F.PLK_PARTNER_STAT.SEEN = false
      ∧ s_configure_en.flag F.PLK_PARTNER_STAT.LOST = false)
    ∧ (s_configure_wt.takesIo Adr.CFG_MODE = true
      ∧ s_configure_wt.flag F.CFG_ST_RESULT.FATAL = false
      ∧ (s_configure_wt.mode = Mode.maintenance ∨ s_configure_wt.mode = Mode.configure ∧ s_configure_wt.flag F.CFG_BOOT_STATUS.DONE = true ∧ s_configure_wt.fld F.CFG_BOOT_STATUS.ERR = 0)
      ∧ s_configure_wt.flag F.CFG_MODE.ROLE_WAIT = true)
    ∧ (s_configure_pm.takesIo Adr.CFG_MODE = true
      ∧ s_configure_pm.flag F.CFG_ST_RESULT.FATAL = false
      ∧ s_configure_pm.flag F.CFG_MODE.ROLE_WAIT = true
      ∧ s_configure_pm.flag F.PLK_PARTNER_STAT.SEEN = true
      ∧ (s_configure_pm.flt.peerMode = 4 ∨ s_configure_pm.flt.peerMode = 5)
      ∧ s_configure_pm.poolLeft = true
      ∧ (s_configure_pm.mode = Mode.configure ∨ s_configure_pm.mode = Mode.maintenance))
    ∧ (s_selfTest_id.takesIo Adr.CFG_MODE = true
      ∧ s_selfTest_id.flag F.CFG_ST_RESULT.FATAL = false
      ∧ s_selfTest_id.mode = Mode.selfTest
      ∧ s_selfTest_id.pwr.pllLocked = true)
    ∧ (s_run_id.takesIo Adr.CFG_MODE = true
      ∧ s_run_id.flag F.CFG_ST_RESULT.FATAL = false
      ∧ s_run_id.mode ∈ [Mode.standby, Mode.run, Mode.degraded]
      ∧ s_run_id.mode ∈ [Mode.standby, Mode.run, Mode.degraded, Mode.maintenance])
    ∧ (s_maintenance_id.takesIo Adr.CFG_MODE = true
      ∧ s_maintenance_id.flag F.CFG_ST_RESULT.FATAL = false
      ∧ s_maintenance_id.mode = Mode.maintenance
      ∧ s_maintenance_id.poolLeft = true)
    ∧ (s_safeHold_id.takesIo Adr.CFG_MODE = true
      ∧ s_safeHold_id.flag F.CFG_ST_RESULT.FATAL = false
      ∧ s_safeHold_id.mode = Mode.safeHold
      ∧ s_safeHold_id.pwr.pllLocked = true
      ∧ s_safeHold_id.flag F.CAN_DEV_STAT.EXPIRED = false
      ∧ s_safeHold_id.fld F.FLT_STATUS.SAFE_CAUSE ≠ 3)
    ∧ (s_lost.takesIo Adr.CFG_MODE = false) :=
  by and_intros <;> decide +kernel

end ModeW

namespace TwinW

def mb (m : Mode) (f : State → State := id) : State := inMode m (f (((hw id).setReg (Adr.DRT_HWR_POOL 0) 0xFF).setReg Adr.DRT_GAL_POOL 1))
def a1 := mb .run
def a2 := mb .off
def a3 := mb .run (fun s => s.modHew 0 (fun x => {x with substitute := some 0}))
def a4 := mb .run (fun s => {s with flt := {s.flt with retiredLinks := [2,3]}})
def a5 := mb .run (fun s => s.raise F.FLT_RETIRE.BUSY)
def pt (m : Mode) (f : State → State) : State := mb m (fun s => f (
  let t := ((((s.setFld F.PLK_PARTNER.PORTS 0x0C).setFld F.PLK_PARTNER.LOSS 3).setFld F.PLK_PARTNER.PERIOD_US 100).raise F.FLT_PARTNER.EN)
  {t with time := {t.time with us := 1000}, plk := {t.plk with heardUs := 650}}))
def lk (s : State) : State := (s.raise (F.PLK_PORT_STATUS.LINK 2)).modPort 2 (fun p => {p with lock := true})
def p1 := pt .run lk
def p2 := pt .standby (fun s => lk ((s.raise F.PLK_PARTNER_STAT.LOST).raise F.FLT_PARTNER.TAKE_UNREADY))
def p4 := pt .degraded (fun s => lk {s with time := {s.time with us := 900}, flt := {s.flt with dualDue := true}})
def lg (f : State → State) : State := mb .run (fun s => f ((s.setFld F.FLT_LOG_BASE.SIZE 2).setFld F.FLT_LOG_BASE.BASE 3))
def rec1 : FaultRec := ⟨0x1122334455667788, 0x801, 0x13, 2, 1, 0x99, 0xFFFFFFFFFFFFFFFF⟩
def l3 := lg (fun s => {(s.setFld F.FLT_LOG_PTR.HEAD 3) with flt := {s.flt with buffer := [rec1]}})
def p8 := pt .standby (fun s => (lk ((s.raise F.PLK_PARTNER_STAT.LOST))).setFld F.FLT_PARTNER.TAKE_UNREADY 0)
def a7 := mb .run (fun s => s.modHew 0 (fun x => {x with substitute := some 0, unit := some ⟨0x200, 0x500, none, 0, none, 0x1008⟩}))

/-- The hypotheses of the clauses of `Obligations.TwinsWaysAndRetirement` hold together, each group of one state. -/
theorem witness_TwinsWaysAndRetirement :
    (a1.Canonical
      ∧ a1.compares 0 = true
      ∧ a1.twinServes (a1.twinOf 0) = true
      ∧ a1.isLasting 0 (a1.windowAdd 0 (a1.flt.twinEvents.get [] (a1.twinOf 0))) = false
      ∧ (a1.hew 0).substitute = Option.none
      ∧ (a1.hew 0).removeDue = false)
    ∧ (a3.Canonical
      ∧ (a3.hew 0).substitute = Option.some 0
      ∧ (a3.hew 0).removeDue = false
      ∧ a3.pwr.pllLocked = true
      ∧ a3.settled 0 = true
      ∧ (a3.hew 0).twinLost = false
      ∧ (a3.twin (a3.twinOf 0)).sbuf = [])
    ∧ (a2.compares 9 = false)
    ∧ (a7.settled 0 = false
      ∧ (a7.hew 0).twinLost = false)
    ∧ (a1.logSize = 0
      ∧ a1.mode ≠ Mode.off
      ∧ a1.mode ≠ Mode.safeHold
      ∧ a1.flag F.FLT_RETIRE.BUSY = false
      ∧ a1.takesIo Adr.FLT_RETIRE = true
      ∧ a1.linkRetired 2 = false)
    ∧ (a4.takesIo Adr.FLT_RETIRE = true
      ∧ a4.flag F.FLT_RETIRE.BUSY = false
      ∧ a4.linkRetired 2 = true)
    ∧ ((a5.takesIo Adr.FLT_RETIRE = false ∨ a5.flag F.FLT_RETIRE.BUSY = true)) :=
  ⟨⟨canonical_of_ok (by decide +kernel), by decide +kernel⟩,
    ⟨canonical_of_ok (by decide +kernel), by decide +kernel⟩,
    by and_intros <;> decide +kernel⟩

/-- The hypotheses of the clauses of `Obligations.PartnerAndTakeover` hold together, each group of one state. -/
theorem witness_PartnerAndTakeover :
    (p1.receives 2 = true
      ∧ (p1.fld F.PLK_PARTNER.PORTS).testBit 2 = true
      ∧ 1 = p1.devnum ^^^ 1
      ∧ (2 ≠ 3 ∨ true = false)
      ∧ (p1.flag F.PLK_PARTNER_STAT.LOST = false ∨ p1.flag F.PLK_PARTNER_STAT.SEEN = true)
      ∧ p1.fld F.PLK_PARTNER.PORTS ≠ 0
      ∧ p1.plk.heardUs + p1.lossUs ≤ p1.time.us
      ∧ (p1.mode = Mode.run ∨ p1.mode = Mode.degraded)
      ∧ p1.flt.dualDue = false
      ∧ (p1.logRoom = false ∨ p1.flt.buffer = []))
    ∧ (p1.receives 2 = true
      ∧ ((p1.fld F.PLK_PARTNER.PORTS).testBit 2 = false ∨ 4 ≠ p1.devnum ^^^ 1))
    ∧ (p2.mode = Mode.standby
      ∧ p2.flag F.FLT_PARTNER.EN = true
      ∧ p2.flag F.PLK_PARTNER_STAT.LOST = true
      ∧ (p2.ready = true ∨ p2.flag F.FLT_PARTNER.TAKE_UNREADY = true)
      ∧ p2.poolLeft = true)
    ∧ (p4.time.us < p4.plk.heardUs + p4.lossUs
      ∧ p4.flt.dualDue = true
      ∧ (p4.mode = Mode.run ∨ p4.mode = Mode.degraded)
      ∧ p4.poolLeft = true)
    ∧ (l3.logRoom = true
      ∧ l3.flt.buffer = [rec1]
      ∧ l3.flt.droppedNow = 0
      ∧ (0 < l3.fld F.FLT_LOG_BASE.BASE * 4096 + l3.fld F.FLT_LOG_PTR.HEAD % l3.logSize * 32 ∨ l3.fld F.FLT_LOG_BASE.BASE * 4096 + l3.fld F.FLT_LOG_PTR.HEAD % l3.logSize * 32 + 32 ≤ 0))
    ∧ (p8.mode = Mode.standby
      ∧ p8.flag F.FLT_PARTNER.EN = true
      ∧ p8.flag F.PLK_PARTNER_STAT.LOST = true
      ∧ p8.ready = false
      ∧ p8.flag F.FLT_PARTNER.TAKE_UNREADY = false) :=
  by and_intros <;> decide +kernel

end TwinW

namespace MemoryW

def m0 (f : State → State := id) : State := inMode .run (f (hw id))
def ma := m0
def A0 : BitVec 48 := 0x123456789
def u0 : Nat := 0x123456789 / 64 * 2
def md := m0 (fun s => {s with mem := {s.mem with poison := [u0], ueSeen := [u0]}})
def mf := m0 (fun s => s.setFld F.MEM_STATUS.D3_READY 0 |>.setFld F.MEM_STATUS.D4_READY 0)
def pl (f : State → State) : State := m0 (fun s => f ((s.setFld F.MEM_L2_PLD_ADDR.ADDR 0x100).setFld F.MEM_L2_PLD_GAL.GAL 1))
def pa := pl id
def pd := m0 (fun s => s.setFld F.PWR_DOM_STATE.ON 0xFF7FF)
def bk (f : State → State) (g : BankState → BankState) : State := let s := m0 (fun s => f s); (s.modBank 5 3 g).modBank 20 3 g
def ba := bk id (fun x => {x with openRow := some 77, history := [true], rfmDue := true})
def bb := bk (fun s => (s.raise F.MEM_FDP_CTL.FDP_EN).setFld F.MEM_FDP_CTL.FDP_THRESH 100) (fun x => {x with openRow := some 77, table := [⟨9,50,0,1⟩,⟨5,98,0x805,1⟩]})
def bc := bk (fun s => (s.raise F.MEM_FDP_CTL.FDP_EN).setFld F.MEM_FDP_CTL.FDP_THRESH 99) (fun x => {x with table := [⟨9,50,0,1⟩,⟨5,98,0x805,1⟩], throttled := [(0x805, 0)], bankThrottle := some 3})
def bd := bk (fun s => {((s.setFld (F.MEM_CH_STATUS.DEBT 5) 8).setFld (F.MEM_CH_STATUS.DEBT 20) 2).setFld F.MEM_SCHED.POSTPONE_MAX 8 |>.raise F.MEM_TRN_CTL.TRN_EN |>.setFld F.MEM_TRN_CTL.INTERVAL_MS 3 with time := {s.time with us := 40000}}) (fun x => {x with openRow := some 3, table := [⟨9,50,0,1⟩], throttled := [(0x805, 39999)], bankThrottle := none})
def be := m0 (fun s => s.setFld F.PWR_DOM_STATE.ON 0xFFFE7)
def e98 : FdpEntry := ⟨5,98,0x805,1⟩
def mLock (s : State) : State := {((s.setFld F.DRT_REGION_BASE.BASE 0x1234).setFld F.DRT_REGION_BASE.SIZE_MIB 1).raise F.DRT_CTL.EN with drt := {s.drt with locked := true}}
def mh := m0 mLock
def qA : DramReq := ⟨0x123456789/64, (ma.dramLoc 0x123456789).bank, (ma.dramLoc 0x123456789).row, 0x805, 0⟩
def cA : Nat := ma.channelOf 0x123456789
def mi := ma.setDchan cA {ma.dchan cA with rq := [qA]}
def mj := ma.setDchan cA {ma.dchan cA with wq := [qA]}
def forced (n : Nat) (s : State) : State := s.setFld (F.MEM_CH_PP_FORCE.FORCE cA) (n * 2 ^ (2 * (ma.dramLoc 0x123456789).bank))
def mo := forced 1 ma
def mp := forced 2 ma
def q5 : DramReq := ⟨5, qA.bank, qA.row + 1, 0x805, 0⟩
def mq := ma.setDchan cA {ma.dchan cA with rq := [q5, qA]}
def pe := {pa with pwr := {pa.pwr with pllLocked := false}}
def pf := pl (fun s => (s.raise F.MEM_L2_PLD_STAT.BUSY).setFld F.MEM_L2_PLD_CTL.LINES 1)
def bg := bk (fun s => s.setFld F.MEM_FDP_CTL.FDP_EN 0) id
def bh1 := bk (fun s => {((s.setFld F.DRT_REGION_BASE.BASE 0).setFld F.DRT_REGION_BASE.SIZE_MIB 16).raise F.DRT_CTL.EN with drt := {s.drt with locked := true}}) id
def n0 (s : State) : State := s.setFld F.MEM_FDP_CTL.FDP_EN 0
def thr (s : State) : State := s.modBank cA qA.bank (fun x => {x with throttled := [(0x805, s.time.us), (0xF00, s.time.us)]})
def bi := bk (fun s => {s with time := {s.time with us := 40000, cyc := 1000000}}) id
def bj := bi.setDchan 5 {bi.dchan 5 with nextRate := some 3}

/-- The hypotheses of the clauses of `Obligations.AddressMapInjective` hold together, each group of one state. -/
theorem witness_AddressMapInjective :
    (ma.dramLoc 4886718345 = ma.dramLoc 4886718336) :=
  by decide +kernel

/-- The hypotheses of the clauses of `Obligations.DramReadsAndScrubs` hold together, each group of one state. -/
theorem witness_DramReadsAndScrubs :
    (ma.mayServe A0.toNat = true
      ∧ (ma.dchan (ma.channelOf A0.toNat)).burst = 0
      ∧ ma.canServe (ma.channelOf A0.toNat) (ma.reqOf A0.toNat 2053 false) = true
      ∧ ((ma.dchan (ma.channelOf A0.toNat)).rq.any fun q => decide (q.line = A0.toNat / 64)) = false
      ∧ ma.mem.poison.contains (A0.toNat / 64 * 2) = false
      ∧ ma.mem.poison.contains (A0.toNat / 64 * 2 + 1) = false
      ∧ ma.mem.ueSeen.contains (A0.toNat / 64 * 2) = false
      ∧ (∀ (i : Nat), i < ma.logSize → ma.fld F.FLT_LOG_BASE.BASE * 128 + i ≠ A0.toNat / 64 * 2)
      ∧ ma.logSize = 0)
    ∧ (mf.lineReady A0.toNat = false
      ∧ (¬(mf.mayServe A0.toNat = true ∧ (mf.dchan (mf.channelOf A0.toNat)).burst = 0))
      ∧ (¬(mf.mayServe A0.toNat = true ∧ ((mf.dchan (mf.channelOf A0.toNat)).burst ≠ 0 ∨ 24 ≤ (mf.dchan (mf.channelOf A0.toNat)).wq.length ∨ (mf.dchan (mf.channelOf A0.toNat)).rq = []))))
    ∧ (mh.regionLine (A0.toNat / 64) = true)
    ∧ (mq.mayServe A0.toNat = true
      ∧ (mq.dchan (mq.channelOf A0.toNat)).burst = 0
      ∧ mq.canServe (mq.channelOf A0.toNat) (mq.reqOf A0.toNat 2053 false) = true
      ∧ ((mq.dchan (mq.channelOf A0.toNat)).rq.any fun q => decide (q.line = A0.toNat / 64)) = true
      ∧ mq.reqChoice (mq.channelOf A0.toNat) false = Option.some q5
      ∧ q5.line ≠ A0.toNat / 64)
    ∧ ((n0 md).mayServe A0.toNat = true
      ∧ ((n0 md).dchan ((n0 md).channelOf A0.toNat)).burst = 0
      ∧ (n0 md).canServe ((n0 md).channelOf A0.toNat) ((n0 md).reqOf A0.toNat 2053 false) = true
      ∧ (((n0 md).dchan ((n0 md).channelOf A0.toNat)).rq.any fun q => decide (q.line = A0.toNat / 64)) = false
      ∧ (n0 md).mem.poison.contains (A0.toNat / 64 * 2) = true
      ∧ (n0 md).mem.ueSeen.contains (A0.toNat / 64 * 2) = true
      ∧ (n0 md).mem.poison.contains (A0.toNat / 64 * 2 + 1) = false
      ∧ (have k := (n0 md).checkLine (((n0 md).reqOf A0.toNat 2053 false).line * 64); (List.filter (fun e => e.fst != checkTag ((n0 md).channelOf A0.toNat ^^^ 1) k) ((n0 md).checkSet ((n0 md).channelOf A0.toNat ^^^ 1) k)).length ≤ 15 ∧ ((n0 md).flag F.MEM_FDP_CTL.FDP_EN = false ∨ ((n0 md).bank ((n0 md).channelOf A0.toNat) ((n0 md).reqOf A0.toNat 2053 false).bank).openRow = Option.some ((n0 md).reqOf A0.toNat 2053 false).row ∧ (n0 md).checkHeld ((n0 md).channelOf A0.toNat ^^^ 1) k = true)))
    ∧ ((n0 mi).mayServe A0.toNat = true
      ∧ ((n0 mi).dchan ((n0 mi).channelOf A0.toNat)).burst = 0
      ∧ (n0 mi).canServe ((n0 mi).channelOf A0.toNat) ((n0 mi).reqOf A0.toNat 2053 false) = true
      ∧ (((n0 mi).dchan ((n0 mi).channelOf A0.toNat)).rq.any fun q => decide (q.line = A0.toNat / 64)) = true
      ∧ (n0 mi).mem.poison.contains (A0.toNat / 64 * 2) = false
      ∧ (n0 mi).mem.poison.contains (A0.toNat / 64 * 2 + 1) = false
      ∧ (n0 mi).reqChoice ((n0 mi).channelOf A0.toNat) false = Option.some qA
      ∧ qA.line = A0.toNat / 64
      ∧ (have k := (n0 mi).checkLine (qA.line * 64); (List.filter (fun e => e.fst != checkTag ((n0 mi).channelOf A0.toNat ^^^ 1) k) ((n0 mi).checkSet ((n0 mi).channelOf A0.toNat ^^^ 1) k)).length ≤ 15 ∧ ((n0 mi).flag F.MEM_FDP_CTL.FDP_EN = false ∨ ((n0 mi).bank ((n0 mi).channelOf A0.toNat) qA.bank).openRow = Option.some qA.row ∧ (n0 mi).checkHeld ((n0 mi).channelOf A0.toNat ^^^ 1) k = true)))
    ∧ ((n0 mj).mayServe A0.toNat = true
      ∧ (((n0 mj).dchan ((n0 mj).channelOf A0.toNat)).burst ≠ 0 ∨ 24 ≤ ((n0 mj).dchan ((n0 mj).channelOf A0.toNat)).wq.length ∨ ((n0 mj).dchan ((n0 mj).channelOf A0.toNat)).rq = [])
      ∧ (n0 mj).canServe ((n0 mj).channelOf A0.toNat) ((n0 mj).reqOf A0.toNat srcDevice true) = true
      ∧ (((n0 mj).dchan ((n0 mj).channelOf A0.toNat)).wq.any fun q => decide (q.line = A0.toNat / 64)) = true
      ∧ (n0 mj).reqChoice ((n0 mj).channelOf A0.toNat) true = Option.some qA
      ∧ qA.line = A0.toNat / 64
      ∧ (have k := (n0 mj).checkLine (qA.line * 64); (List.filter (fun e => e.fst != checkTag ((n0 mj).channelOf A0.toNat ^^^ 1) k) ((n0 mj).checkSet ((n0 mj).channelOf A0.toNat ^^^ 1) k)).length ≤ 15 ∧ ((n0 mj).flag F.MEM_FDP_CTL.FDP_EN = false ∨ ((n0 mj).bank ((n0 mj).channelOf A0.toNat) qA.bank).openRow = Option.some qA.row ∧ (n0 mj).checkHeld ((n0 mj).channelOf A0.toNat ^^^ 1) k = true)))
    ∧ ((n0 mo).mayServe A0.toNat = true
      ∧ (((n0 mo).dchan ((n0 mo).channelOf A0.toNat)).burst ≠ 0 ∨ 24 ≤ ((n0 mo).dchan ((n0 mo).channelOf A0.toNat)).wq.length ∨ ((n0 mo).dchan ((n0 mo).channelOf A0.toNat)).rq = [])
      ∧ (n0 mo).canServe ((n0 mo).channelOf A0.toNat) ((n0 mo).reqOf A0.toNat srcDevice true) = true
      ∧ (((n0 mo).dchan ((n0 mo).channelOf A0.toNat)).wq.any fun q => decide (q.line = A0.toNat / 64)) = false
      ∧ (have k := (n0 mo).checkLine (((n0 mo).reqOf A0.toNat srcDevice true).line * 64); (List.filter (fun e => e.fst != checkTag ((n0 mo).channelOf A0.toNat ^^^ 1) k) ((n0 mo).checkSet ((n0 mo).channelOf A0.toNat ^^^ 1) k)).length ≤ 15 ∧ ((n0 mo).flag F.MEM_FDP_CTL.FDP_EN = false ∨ ((n0 mo).bank ((n0 mo).channelOf A0.toNat) ((n0 mo).reqOf A0.toNat srcDevice true).bank).openRow = Option.some ((n0 mo).reqOf A0.toNat srcDevice true).row ∧ (n0 mo).checkHeld ((n0 mo).channelOf A0.toNat ^^^ 1) k = true))
      ∧ (n0 mo).force ((n0 mo).dramLoc A0.toNat).channel ((n0 mo).dramLoc A0.toNat).bank = 1
      ∧ ((n0 mo).dchan ((n0 mo).channelOf A0.toNat)).burst = 0
      ∧ (n0 mo).canServe ((n0 mo).channelOf A0.toNat) ((n0 mo).reqOf A0.toNat 2053 false) = true
      ∧ (((n0 mo).dchan ((n0 mo).channelOf A0.toNat)).rq.any fun q => decide (q.line = A0.toNat / 64)) = false
      ∧ (n0 mo).mem.poison.contains (A0.toNat / 64 * 2) = false
      ∧ (n0 mo).mem.poison.contains (A0.toNat / 64 * 2 + 1) = false
      ∧ (have k := (n0 mo).checkLine (((n0 mo).reqOf A0.toNat 2053 false).line * 64); (List.filter (fun e => e.fst != checkTag ((n0 mo).channelOf A0.toNat ^^^ 1) k) ((n0 mo).checkSet ((n0 mo).channelOf A0.toNat ^^^ 1) k)).length ≤ 15 ∧ ((n0 mo).flag F.MEM_FDP_CTL.FDP_EN = false ∨ ((n0 mo).bank ((n0 mo).channelOf A0.toNat) ((n0 mo).reqOf A0.toNat 2053 false).bank).openRow = Option.some ((n0 mo).reqOf A0.toNat 2053 false).row ∧ (n0 mo).checkHeld ((n0 mo).channelOf A0.toNat ^^^ 1) k = true)))
    ∧ ((n0 mp).mayServe A0.toNat = true
      ∧ (((n0 mp).dchan ((n0 mp).channelOf A0.toNat)).burst ≠ 0 ∨ 24 ≤ ((n0 mp).dchan ((n0 mp).channelOf A0.toNat)).wq.length ∨ ((n0 mp).dchan ((n0 mp).channelOf A0.toNat)).rq = [])
      ∧ (n0 mp).canServe ((n0 mp).channelOf A0.toNat) ((n0 mp).reqOf A0.toNat srcDevice true) = true
      ∧ (((n0 mp).dchan ((n0 mp).channelOf A0.toNat)).wq.any fun q => decide (q.line = A0.toNat / 64)) = false
      ∧ (have k := (n0 mp).checkLine (((n0 mp).reqOf A0.toNat srcDevice true).line * 64); (List.filter (fun e => e.fst != checkTag ((n0 mp).channelOf A0.toNat ^^^ 1) k) ((n0 mp).checkSet ((n0 mp).channelOf A0.toNat ^^^ 1) k)).length ≤ 15 ∧ ((n0 mp).flag F.MEM_FDP_CTL.FDP_EN = false ∨ ((n0 mp).bank ((n0 mp).channelOf A0.toNat) ((n0 mp).reqOf A0.toNat srcDevice true).bank).openRow = Option.some ((n0 mp).reqOf A0.toNat srcDevice true).row ∧ (n0 mp).checkHeld ((n0 mp).channelOf A0.toNat ^^^ 1) k = true))
      ∧ (n0 mp).force ((n0 mp).dramLoc A0.toNat).channel ((n0 mp).dramLoc A0.toNat).bank = 2
      ∧ ((n0 mp).dchan ((n0 mp).channelOf A0.toNat)).burst = 0
      ∧ (n0 mp).canServe ((n0 mp).channelOf A0.toNat) ((n0 mp).reqOf A0.toNat 2053 false) = true
      ∧ (((n0 mp).dchan ((n0 mp).channelOf A0.toNat)).rq.any fun q => decide (q.line = A0.toNat / 64)) = false
      ∧ (n0 mp).mem.poison.contains (A0.toNat / 64 * 2) = false
      ∧ (n0 mp).mem.poison.contains (A0.toNat / 64 * 2 + 1) = false
      ∧ (have k := (n0 mp).checkLine (((n0 mp).reqOf A0.toNat 2053 false).line * 64); (List.filter (fun e => e.fst != checkTag ((n0 mp).channelOf A0.toNat ^^^ 1) k) ((n0 mp).checkSet ((n0 mp).channelOf A0.toNat ^^^ 1) k)).length ≤ 15 ∧ ((n0 mp).flag F.MEM_FDP_CTL.FDP_EN = false ∨ ((n0 mp).bank ((n0 mp).channelOf A0.toNat) ((n0 mp).reqOf A0.toNat 2053 false).bank).openRow = Option.some ((n0 mp).reqOf A0.toNat 2053 false).row ∧ (n0 mp).checkHeld ((n0 mp).channelOf A0.toNat ^^^ 1) k = true)))
    ∧ ((thr ma).mayServe A0.toNat = true
      ∧ ((thr ma).dchan ((thr ma).channelOf A0.toNat)).burst = 0
      ∧ (thr ma).canServe ((thr ma).channelOf A0.toNat) ((thr ma).reqOf A0.toNat 2053 false) = false
      ∧ (((thr ma).dchan ((thr ma).channelOf A0.toNat)).burst ≠ 0 ∨ 24 ≤ ((thr ma).dchan ((thr ma).channelOf A0.toNat)).wq.length ∨ ((thr ma).dchan ((thr ma).channelOf A0.toNat)).rq = [])
      ∧ (thr ma).canServe ((thr ma).channelOf A0.toNat) ((thr ma).reqOf A0.toNat srcDevice true) = false)
    ∧ (bitOf 263169 0 = true
      ∧ pa.takesIo Adr.MEM_L2_PLD_CTL = true
      ∧ pa.flag F.MEM_L2_PLD_STAT.BUSY = false
      ∧ 4 ≤ bitsOf 263169 11 8
      ∧ 1 ≤ bitsOf 263169 31 16
      ∧ bitsOf 263169 31 16 ≤ 2048
      ∧ pa.fld F.MEM_L2_PLD_ADDR.ADDR * 64 + bitsOf 263169 31 16 * 64 ≤ pa.dramSize)
    ∧ (bitOf 1025 0 = true
      ∧ pa.takesIo Adr.MEM_L2_PLD_CTL = true
      ∧ (¬(pa.flag F.MEM_L2_PLD_STAT.BUSY = false ∧ 4 ≤ bitsOf 1025 11 8 ∧ 1 ≤ bitsOf 1025 31 16 ∧ bitsOf 1025 31 16 ≤ 2048 ∧ pa.fld F.MEM_L2_PLD_ADDR.ADDR * 64 + bitsOf 1025 31 16 * 64 ≤ pa.dramSize)))
    ∧ (bitOf 263169 0 = true
      ∧ pe.takesIo Adr.MEM_L2_PLD_CTL = false)
    ∧ ((pa.pwr.pllLocked = false ∨ pa.flag F.MEM_L2_PLD_STAT.BUSY = false))
    ∧ (pf.pwr.pllLocked = true
      ∧ pf.flag F.MEM_L2_PLD_STAT.BUSY = true
      ∧ (pf.fld F.MEM_L2_PLD_GAL.GAL).testBit 0 = true
      ∧ pf.domainOn (shaftDomain (0 * 8)) = true
      ∧ pf.galleryLost 0 = false
      ∧ pf.wayOn 0 (pf.fld F.MEM_L2_PLD_CTL.WAY) = true
      ∧ pf.fld F.MEM_L2_PLD_CTL.LINES = 1)
    ∧ (ma.domainOn 11 = true
      ∧ ma.pwr.pllLocked = true
      ∧ A0.toNat < ma.dramSize
      ∧ ma.logSize = 0)
    ∧ ((pd.domainOn 11 = false ∨ pd.pwr.pllLocked = false ∨ pd.dramSize ≤ A0.toNat)) :=
  by and_intros <;> decide +kernel

/-- The hypotheses of the clauses of `Obligations.BanksRefreshAndFiredamp` hold together, each group of one state. -/
theorem witness_BanksRefreshAndFiredamp :
    (ba.channelOn 5 = true
      ∧ ba.pwr.pllLocked = true
      ∧ 5 < ba.rowLimit
      ∧ ba.regionRow 5 3 5 = false
      ∧ (ba.bank 5 3).throttleOf 2053 = Option.none
      ∧ ba.flag F.MEM_FDP_CTL.FDP_EN = true
      ∧ List.findIdx? (fun e => decide (e.row = 5)) (ba.bank 5 3).table = Option.none
      ∧ (ba.bank 5 3).table.length < 64
      ∧ 1 < ba.fld F.MEM_FDP_CTL.FDP_THRESH
      ∧ ba.time.us < (ba.dchan 5).mr4Us + 4000
      ∧ (ba.force 5 3 ≠ 0 ∨ (((ba.dchan 5).rq ++ (ba.dchan 5).wq).any fun q => decide (q.bank = 3)) = true ∨ ¬ba.fld F.MEM_CTL.PP_IDLE ≤ ba.mclkSince (ba.bank 5 3).lastCyc)
      ∧ (ba.dchan (5 / 4 * 4 + 0)).retrainUs = ba.time.us)
    ∧ (bb.channelOn 5 = true
      ∧ bb.pwr.pllLocked = true
      ∧ 5 < bb.rowLimit
      ∧ bb.regionRow 5 3 5 = false
      ∧ (bb.bank 5 3).throttleOf 2053 = Option.none
      ∧ bb.flag F.MEM_FDP_CTL.FDP_EN = true
      ∧ List.findIdx? (fun e => decide (e.row = 5)) (bb.bank 5 3).table = Option.some 1
      ∧ (bb.bank 5 3).table[1]? = Option.some e98
      ∧ e98.count + 1 < bb.fld F.MEM_FDP_CTL.FDP_THRESH)
    ∧ (bc.channelOn 5 = true
      ∧ bc.pwr.pllLocked = true
      ∧ 5 < bc.rowLimit
      ∧ bc.regionRow 5 3 5 = false
      ∧ (bc.bank 5 3).throttleOf 2053 = Option.some 3
      ∧ bc.time.us < 3 + bc.fdpInterval)
    ∧ (bd.channelOn 5 = true
      ∧ bd.pwr.pllLocked = true
      ∧ (bd.dchan 5).rq = []
      ∧ (bd.dchan 5).wq = []
      ∧ bd.fld (F.MEM_CH_STATUS.DEBT 5) ≠ 0
      ∧ (bd.dchan 5).mr4Us + 4000 ≤ bd.time.us
      ∧ (bd.dchan 5).zqUs + 32000 ≤ bd.time.us
      ∧ bd.flag F.MEM_TRN_CTL.TRN_EN = true
      ∧ 1 ≤ bd.fld F.MEM_TRN_CTL.INTERVAL_MS
      ∧ (bd.dchan 5).retrainUs + bd.fld F.MEM_TRN_CTL.INTERVAL_MS * 1000 ≤ bd.time.us
      ∧ (∀ (i : Nat), i < 4 → (bd.dchan (5 / 4 * 4 + i)).retrainUs ≠ bd.time.us)
      ∧ bd.channelOn 0 = true
      ∧ bd.mc.windowUs3 + 32000 ≤ bd.time.us)
    ∧ (bd.channelOn 20 = true
      ∧ bd.pwr.pllLocked = true
      ∧ bd.channelOn 16 = true
      ∧ bd.mc.windowUs4 + 32000 ≤ bd.time.us)
    ∧ (be.channelOn 5 = false)
    ∧ (bg.channelOn 5 = true
      ∧ bg.pwr.pllLocked = true
      ∧ 5 < bg.rowLimit
      ∧ bg.regionRow 5 3 5 = false
      ∧ (bg.bank 5 3).throttleOf 2053 = Option.none
      ∧ bg.flag F.MEM_FDP_CTL.FDP_EN = false)
    ∧ (bh1.channelOn 5 = true
      ∧ bh1.pwr.pllLocked = true
      ∧ bh1.regionRow 5 3 0 = true)
    ∧ (bi.channelOn 5 = true
      ∧ bi.pwr.pllLocked = true
      ∧ bi.force 5 3 = 0
      ∧ (((bi.dchan 5).rq ++ (bi.dchan 5).wq).any fun q => decide (q.bank = 3)) = false
      ∧ bi.fld F.MEM_CTL.PP_IDLE ≤ bi.mclkSince (bi.bank 5 3).lastCyc)
    ∧ (bj.channelOn 5 = true
      ∧ bj.pwr.pllLocked = true
      ∧ (bj.dchan 5).nextRate = Option.some 3) :=
  by and_intros <;> decide +kernel

end MemoryW

namespace Supervision

def pb (m : Mode) (g : PlkPort → PlkPort) (f : State → State := id) : State := (inMode m (f {(hw id).raise (F.PLK_PORT_CTL.EN 2) with time := {State.reset.time with us := 20000, now := 1000000, cyc := 500}})).modPort 2 g
def a1 := pb .run (fun p => {p with lock := true, lockUs := 10000})
def a2 := pb .configure (fun p => {p with lock := true, lockUs := 10001})
def a3 := pb .run (fun p => {p with lock := true, lockUs := 10000}) (fun s => s.raise (F.PLK_PORT_STATUS.LINK 2))
def a4 := pb .run (fun p => {p with lock := false, lockUs := 19000}) (fun s => s.raise (F.PLK_PORT_STATUS.LINK 2))
def a6 := pb .run id (fun s => s.setFld F.PWR_DOM_STATE.ON 0xFFFBF)
def gc (s : State) : State := (((((s.setFld (F.PLK_PORT_GCL_CYCLE.CYCLE_NS 2) 1000).setReg (Adr.PLK_PORT_GCL_BASE 2) 77).setFld (F.PLK_PORT_GCL.INTERVAL_NS 2 0) 5).setFld (F.PLK_PORT_GCL.INTERVAL_NS 2 1) 6).setFld (F.PLK_PORT_GCL.GATES 2 1) 6)
def G0 : GateList := ⟨5, 100, [(1,50)]⟩
def a7 := pb .run id gc
def a8 := pb .run (fun p => {p with pend := some (G0, 1000000)}) gc
def a9 := pb .run (fun p => {p with pend := some (G0, 1000001)}) (fun s => (gc s).setReg (Adr.PLK_PORT_GCL_BASE 2) 1016001)
def mac : List Byte := [0x02,0,0,0,0,0x11]
def fr (type n idx : Nat) (pad : Nat) : List Byte := mac ++ List.replicate 6 0x22 ++ bytesBE 2 0x88B5 ++ bytesBE 1 1 ++ bytesBE 1 type ++ bytesBE 2 7 ++ bytesBE 2 n ++ List.replicate 26 0 ++ (bytesBE 8 0x1234 ++ bytesBE 8 999 ++ bytesBE 3 0x7005 ++ bytesBE 1 0x20 ++ bytesBE 2 1 ++ bytesBE 2 5 ++ bytesBE 2 idx ++ List.replicate 6 0) ++ List.replicate pad 0
def rs (f : State → State) : State := pb .run (fun p => {p with lock := true}) (fun s => f ((((s.raise (F.PLK_PORT_STATUS.LINK 2)).setFld (F.PLK_PORT_MAC.ADDR 2) 0x020000000011).setFld F.PLK_CTL.ETHERTYPE 0x88B5).raise F.LOD_STATUS.INIT_DONE))
def r1 := rs id
def f1 := fr 1 1 9 0
def f2 := fr 1 1 9 2000
def rLost := {r1 with pwr := {r1.pwr with pllLocked := false}}

/-- The hypotheses of the clauses of `Obligations.PlantLinkSupervision` hold together, each group of one state. -/
theorem witness_PlantLinkSupervision :
    ((a1.port 2).lock = true
      ∧ (a1.port 2).lockUs + 10000 ≤ a1.time.us
      ∧ a1.pcsOn 2 = true
      ∧ a1.linkRetired 2 = false
      ∧ (¬a1.flag (F.PLK_PORT_STATUS.LINK 2) = true)
      ∧ a1.logSize = 0
      ∧ a1.domainOn (portDomain 2) = true
      ∧ ((a1.port 2).lock = true ∨ a1.time.us < (a1.port 2).lockUs + 1000)
      ∧ bitOf 2147483650 31 = true
      ∧ a1.takesIo (Adr.PLK_PORT_CTL 2) = true
      ∧ a1.mode ≠ Mode.configure
      ∧ 1000000 ≠ Adr.PLK_PORT_CTL 2
      ∧ a1.takesIo (Adr.PLK_PORT_GCL_CTL 2) = true
      ∧ (a1.port 2).pend = Option.none
      ∧ (bitsOf 2147483650 8 0 = 0 ∨ 256 < bitsOf 2147483650 8 0 ∨ a1.fld (F.PLK_PORT_GCL_CYCLE.CYCLE_NS 2) * 16 = 0)
      ∧ a1.takesIo (Adr.PLK_EGR_DATA 3) = true
      ∧ 1000000 ≠ a1.fld F.PLK_EGR_INDEX.ENTRY)
    ∧ (((a2.port 2).lock = false ∨ a2.time.us < (a2.port 2).lockUs + 10000))
    ∧ (a3.flag (F.PLK_PORT_STATUS.LINK 2) = true
      ∧ (a3.domainOn (portDomain 2) = false ∨ a3.linkRetired 2 = true ∨ true = true ∨ (a3.port 2).lock = false ∧ (a3.port 2).lockUs + 1000 ≤ a3.time.us)
      ∧ (∀ (q : Nat), q < 4 → a3.queue 2 q = [])
      ∧ a3.logSize = 0)
    ∧ (a3.takesIo (Adr.PLK_PORT_CTL 2) = true
      ∧ bitOf 1 31 = false
      ∧ a3.flag (F.PLK_PORT_STATUS.LINK 2) = true
      ∧ (∀ (q : Nat), q < 4 → a3.queue 2 q = []))
    ∧ ((a4.port 2).lock = false
      ∧ a4.pcsOn 2 = true)
    ∧ (a6.pcsOn 2 = false
      ∧ a6.takesIo (Adr.PLK_PORT_CTL 2) = false)
    ∧ (a7.takesIo (Adr.PLK_PORT_GCL_CTL 2) = true
      ∧ bitOf 2147483650 31 = true
      ∧ (a7.port 2).pend = Option.none
      ∧ 1 ≤ bitsOf 2147483650 8 0
      ∧ bitsOf 2147483650 8 0 ≤ 256
      ∧ a7.fld (F.PLK_PORT_GCL_CYCLE.CYCLE_NS 2) * 16 ≠ 0
      ∧ (∀ (e : Nat), e < bitsOf 2147483650 8 0 → a7.fld (F.PLK_PORT_GCL.INTERVAL_NS 2 e) ≠ 0))
    ∧ ((a8.port 2).pend = Option.some (G0, 1000000)
      ∧ 1000000 ≤ a8.time.now)
    ∧ (a9.takesIo (Adr.PLK_PORT_GCL_CTL 2) = true
      ∧ bitOf 2147483650 31 = true
      ∧ (a9.port 2).pend = Option.some (G0, 1000001)
      ∧ a9.time.now < 1000001) :=
  by and_intros <;> decide +kernel

/-- The hypotheses of the clauses of `Obligations.FramesInAndOut` hold together, each group of one state. -/
theorem witness_FramesInAndOut :
    (r1.receives 2 = true
      ∧ natBE (sliceBytes f1 12 2) ≠ 35063
      ∧ natBE (sliceBytes f1 12 2) ≠ 33024
      ∧ r1.ingressUsed 2 + r1.maxFrame 2 ≤ 131072
      ∧ natBE (List.take 6 f1) = r1.fld (F.PLK_PORT_MAC.ADDR 2)
      ∧ bitOf (natBE (List.take 6 f1)) 40 = false
      ∧ 64 ≤ f1.length + 4
      ∧ f1.length + 4 ≤ r1.maxFrame 2
      ∧ natBE (sliceBytes f1 12 2) ≠ 34824
      ∧ natBE (sliceBytes f1 12 2) = r1.fld F.PLK_CTL.ETHERTYPE
      ∧ natBE (sliceBytes (List.drop 14 f1) 0 1) = 1
      ∧ natBE (sliceBytes (List.drop 14 f1) 1 1) = 1
      ∧ natBE (sliceBytes (List.drop 14 f1) 4 2) = 1
      ∧ 64 ≤ (List.drop 14 f1).length
      ∧ (∀ (w : Nat), w < 64 → r1.winMatchesLink w 2 (natBE (sliceBytes (List.drop 14 f1) 2 2) % 4096) (natBE (sliceBytes (List.take 32 (List.drop 32 (List.drop 14 f1))) 24 2)) = false))
    ∧ (r1.receives 2 = true
      ∧ natBE (sliceBytes f1 12 2) ≠ 35063
      ∧ natBE (sliceBytes f1 12 2) ≠ 33024
      ∧ r1.ingressUsed 2 + r1.maxFrame 2 ≤ 131072
      ∧ natBE (List.take 6 f1) = r1.fld (F.PLK_PORT_MAC.ADDR 2)
      ∧ bitOf (natBE (List.take 6 f1)) 40 = false
      ∧ 64 ≤ f1.length + 4
      ∧ f1.length + 4 ≤ r1.maxFrame 2
      ∧ natBE (sliceBytes f1 12 2) ≠ 34824
      ∧ natBE (sliceBytes f1 12 2) = r1.fld F.PLK_CTL.ETHERTYPE)
    ∧ (r1.receives 2 = true
      ∧ natBE (sliceBytes f2 12 2) ≠ 35063
      ∧ natBE (sliceBytes f2 12 2) ≠ 33024
      ∧ r1.ingressUsed 2 + r1.maxFrame 2 ≤ 131072
      ∧ natBE (List.take 6 f2) = r1.fld (F.PLK_PORT_MAC.ADDR 2)
      ∧ bitOf (natBE (List.take 6 f2)) 40 = false
      ∧ (f2.length + 4 < 64 ∨ r1.maxFrame 2 < f2.length + 4))
    ∧ (rLost.receives 2 = false) :=
  by and_intros <;> decide +kernel

end Supervision

namespace Frames

def pb (m : Mode) (g : PlkPort → PlkPort) (f : State → State := id) : State := (inMode m (f {(hw id).raise (F.PLK_PORT_CTL.EN 2) with time := {State.reset.time with us := 20000, now := 1000000, cyc := 500}})).modPort 2 g
def mac : List Byte := [0x02,0,0,0,0,0x11]
def fr (type n idx : Nat) (pad : Nat) : List Byte := mac ++ List.replicate 6 0x22 ++ bytesBE 2 0x88B5 ++ bytesBE 1 1 ++ bytesBE 1 type ++ bytesBE 2 7 ++ bytesBE 2 n ++ List.replicate 26 0 ++ (bytesBE 8 0x1234 ++ bytesBE 8 999 ++ bytesBE 3 0x7005 ++ bytesBE 1 0x20 ++ bytesBE 2 1 ++ bytesBE 2 5 ++ bytesBE 2 idx ++ List.replicate 6 0) ++ List.replicate pad 0
def rs (f : State → State) : State := pb .run (fun p => {p with lock := true}) (fun s => f ((((s.raise (F.PLK_PORT_STATUS.LINK 2)).setFld (F.PLK_PORT_MAC.ADDR 2) 0x020000000011).setFld F.PLK_CTL.ETHERTYPE 0x88B5).raise F.LOD_STATUS.INIT_DONE))
def f1 := fr 1 1 9 0
def r3 := rs (fun s => ((s.setReg (Adr.LOD_WIN_MATCH_A 6) 0x8000000000000000).setReg (Adr.LOD_WIN_RANGE_A 6) 0).setReg (Adr.LOD_WIN_MAP_A 6) 0)
def r5 := rs (fun s => ((((((s.raise (F.LOD_WIN_MAP_A.EN 6)).setFld (F.LOD_WIN_MATCH_A.ORIGIN 6) 0).setFld (F.LOD_WIN_MATCH_A.PORTS 6) 4).setFld (F.LOD_WIN_MATCH_A.DEVICE 6) 7).setFld (F.LOD_WIN_RANGE_A.FIRST 6) 5).setFld (F.LOD_WIN_RANGE_A.COUNT 6) 5))
def tf (q : Nat) (own : Bool) (e : Option Nat) (lock : Bool) : State := (rs id).modPort 2 (fun p => {p with lock := lock, queues := [(q, [⟨[1,2,3,4,5,6,7,8,9,10,11,12,13], own, e, 5, none⟩, ⟨[1], false, none, 0, none⟩])]})
def t1 := tf 2 true none true
def ff : PlkFrame := ⟨[1,2,3,4,5,6,7,8,9,10,11,12,13], true, none, 5, none⟩
def el (inst : Nat) : State := rs (fun s => (((((s.setFld (F.TIM_CMP_CTL.ARG 5) (2 + 9*8)).setFld (F.TIM_CMP_CTL.ACTION 5) 2).raise (F.TIM_CMP_CTL.ARM 5)).setReg (Adr.TIM_CMP_TARGET 5) (BitVec.ofNat 64 inst))))
def e1 := el 2000000000
def e2 := el 1000010
def e3 := rs id
def m0 (len port : Nat) (head tail : Nat) : State := rs (fun s => (((((s.setFld F.PLK_PARTNER.PORTS 4).setFld F.PLK_MGMT_TX.SIZE 3).setFld F.PLK_MGMT_TX.BASE 0x10).setFld F.PLK_MGMT_TX_PTR.HEAD head).setFld F.PLK_MGMT_TX_PTR.TAIL tail).rawWrite (0x10000 + head % 8 * 2048) (bytesLE 8 (port * 2^61 + len) ++ bytesLE 8 0 ++ List.replicate len 7))
def m1 := m0 70 2 9 10
def m2 := m0 59 2 9 10
def m3 := m0 70 2 10 10
def m4 := {m0 70 2 0xffff 0 with time := {State.reset.time with us := 5}}
def e5 := {e2 with plk := {e2.plk with egress := [(36, 0x8000000000000000), (37, 0x0000000000600003)]}}

/-- The hypotheses of the clauses of `Obligations.FramesInAndOut` hold together, each group of one state. -/
theorem witness_FramesInAndOut :
    ((∀ (k : Nat), 2 < k → k < 4 → t1.queue 2 k = [])
      ∧ t1.portUp 2 = true
      ∧ t1.pwr.pllLocked = true
      ∧ t1.mode ≠ Mode.off
      ∧ (t1.port 2).busy ≤ t1.time.cyc
      ∧ (t1.port 2).lock = true
      ∧ (t1.port 2).gptp = []
      ∧ (t1.port 2).gates = Option.none
      ∧ (t1.port 2).pend = Option.none
      ∧ t1.queue 2 2 = [ff, { bytes := [1], ownSa := false, entry := Option.none, inst := 0, dup := Option.none }]
      ∧ (ff.entry = Option.none ∨ t1.time.now ≤ ff.inst + 32000))
    ∧ (r5.receives 2 = true
      ∧ natBE (sliceBytes f1 12 2) ≠ 35063
      ∧ natBE (sliceBytes f1 12 2) ≠ 33024
      ∧ r5.ingressUsed 2 + r5.maxFrame 2 ≤ 131072
      ∧ natBE (List.take 6 f1) = r5.fld (F.PLK_PORT_MAC.ADDR 2)
      ∧ bitOf (natBE (List.take 6 f1)) 40 = false
      ∧ 64 ≤ f1.length + 4
      ∧ f1.length + 4 ≤ r5.maxFrame 2
      ∧ natBE (sliceBytes f1 12 2) ≠ 34824
      ∧ natBE (sliceBytes f1 12 2) = r5.fld F.PLK_CTL.ETHERTYPE
      ∧ natBE (sliceBytes (List.drop 14 f1) 0 1) = 1
      ∧ natBE (sliceBytes (List.drop 14 f1) 1 1) = 1
      ∧ natBE (sliceBytes (List.drop 14 f1) 4 2) = 1
      ∧ 64 ≤ (List.drop 14 f1).length
      ∧ r5.winMatchesLink 6 2 (natBE (sliceBytes (List.drop 14 f1) 2 2) % 4096) (natBE (sliceBytes (List.take 32 (List.drop 32 (List.drop 14 f1))) 24 2)) = true
      ∧ (∀ (k : Nat), k < 6 → r5.winMatchesLink k 2 (natBE (sliceBytes (List.drop 14 f1) 2 2) % 4096) (natBE (sliceBytes (List.take 32 (List.drop 32 (List.drop 14 f1))) 24 2)) = false))
    ∧ (r3.receives 2 = true
      ∧ natBE (sliceBytes f1 12 2) ≠ 35063
      ∧ natBE (sliceBytes f1 12 2) ≠ 33024
      ∧ r3.ingressUsed 2 + r3.maxFrame 2 ≤ 131072
      ∧ natBE (List.take 6 f1) = r3.fld (F.PLK_PORT_MAC.ADDR 2)
      ∧ bitOf (natBE (List.take 6 f1)) 40 = false
      ∧ 64 ≤ f1.length + 4
      ∧ f1.length + 4 ≤ r3.maxFrame 2
      ∧ natBE (sliceBytes f1 12 2) ≠ 34824
      ∧ natBE (sliceBytes f1 12 2) = r3.fld F.PLK_CTL.ETHERTYPE
      ∧ natBE (sliceBytes (List.drop 14 f1) 0 1) = 1
      ∧ natBE (sliceBytes (List.drop 14 f1) 1 1) = 1
      ∧ natBE (sliceBytes (List.drop 14 f1) 4 2) = 1
      ∧ 64 ≤ (List.drop 14 f1).length
      ∧ (∀ (w : Nat), w < 64 → r3.winMatchesLink w 2 (natBE (sliceBytes (List.drop 14 f1) 2 2) % 4096) (natBE (sliceBytes (List.take 32 (List.drop 32 (List.drop 14 f1))) 24 2)) = false))
    ∧ ((t1.portUp 3 = false ∨ t1.pwr.pllLocked = false ∨ t1.mode = Mode.off ∨ t1.time.cyc < (t1.port 3).busy))
    ∧ (e1.launchOf 5 = Option.some (2, 9, 2000000000)
      ∧ e1.time.now + e1.fld F.LOD_EGRESS_LEAD.LEAD < 2000000000)
    ∧ (e3.launchOf 5 = Option.none)
    ∧ (e5.launchOf 5 = Option.some (2, 9, 1000010)
      ∧ 1000010 ≤ e5.time.now + e5.fld F.LOD_EGRESS_LEAD.LEAD
      ∧ e5.pwr.pllLocked = true
      ∧ e5.readFor 5 2 9 1000010 = Option.none
      ∧ e5.mode = Mode.run
      ∧ e5.egrBad 2 (e5.egrDws 9) false = 0)
    ∧ (m1.plk.sentUs + m1.fld F.PLK_PARTNER.PERIOD_US ≤ m1.time.us
      ∧ m1.mode ≠ Mode.off
      ∧ m1.pwr.pllLocked = true
      ∧ m1.fld F.PLK_PARTNER.PORTS = 2 ^ 2
      ∧ m1.portUp 2 = true
      ∧ ringEntries (m1.fld F.PLK_MGMT_TX.SIZE) ≠ 0
      ∧ m1.fld F.PLK_MGMT_TX_PTR.HEAD ≠ m1.fld F.PLK_MGMT_TX_PTR.TAIL
      ∧ m1.dramReach (m1.fld F.PLK_MGMT_TX.BASE * 4096 + m1.fld F.PLK_MGMT_TX_PTR.HEAD % ringEntries (m1.fld F.PLK_MGMT_TX.SIZE) * 2048) 2048 = true
      ∧ 60 ≤ bitsOf (m1.readDw (m1.fld F.PLK_MGMT_TX.BASE * 4096 + m1.fld F.PLK_MGMT_TX_PTR.HEAD % ringEntries (m1.fld F.PLK_MGMT_TX.SIZE) * 2048)) 15 0
      ∧ bitsOf (m1.readDw (m1.fld F.PLK_MGMT_TX.BASE * 4096 + m1.fld F.PLK_MGMT_TX_PTR.HEAD % ringEntries (m1.fld F.PLK_MGMT_TX.SIZE) * 2048)) 15 0 ≤ 2032
      ∧ m1.portUp (bitsOf (m1.readDw (m1.fld F.PLK_MGMT_TX.BASE * 4096 + m1.fld F.PLK_MGMT_TX_PTR.HEAD % ringEntries (m1.fld F.PLK_MGMT_TX.SIZE) * 2048)) 63 61) = true)
    ∧ (ringEntries (m2.fld F.PLK_MGMT_TX.SIZE) ≠ 0
      ∧ m2.fld F.PLK_MGMT_TX_PTR.HEAD ≠ m2.fld F.PLK_MGMT_TX_PTR.TAIL
      ∧ m2.pwr.pllLocked = true
      ∧ m2.mode ≠ Mode.off
      ∧ m2.dramReach (m2.fld F.PLK_MGMT_TX.BASE * 4096 + m2.fld F.PLK_MGMT_TX_PTR.HEAD % ringEntries (m2.fld F.PLK_MGMT_TX.SIZE) * 2048) 2048 = true
      ∧ (bitsOf (m2.readDw (m2.fld F.PLK_MGMT_TX.BASE * 4096 + m2.fld F.PLK_MGMT_TX_PTR.HEAD % ringEntries (m2.fld F.PLK_MGMT_TX.SIZE) * 2048)) 15 0 < 60 ∨ 2032 < bitsOf (m2.readDw (m2.fld F.PLK_MGMT_TX.BASE * 4096 + m2.fld F.PLK_MGMT_TX_PTR.HEAD % ringEntries (m2.fld F.PLK_MGMT_TX.SIZE) * 2048)) 15 0))
    ∧ (m3.fld F.PLK_MGMT_TX_PTR.HEAD = m3.fld F.PLK_MGMT_TX_PTR.TAIL)
    ∧ (m4.time.us < m4.plk.sentUs + m4.fld F.PLK_PARTNER.PERIOD_US) :=
  ⟨⟨by intro j h1 h2; interval_cases j <;> decide +kernel, by decide +kernel⟩,
    by and_intros <;> decide +kernel⟩

end Frames

namespace SkipW

def sk (n : Nat) (st : Nat) (f : State → State) (g : SkpChannel → SkpChannel) : State :=
  let s := f ((inMode .run (hw id)).setFld (F.SKP_CH_STAT.STATE n) st)
  let s := s.setReg (Adr.SKP_CH_A_SRC n) 0x10003 |>.setReg (Adr.SKP_CH_A_DST n) 0x20070 |>.setFld (F.SKP_CH_A_SIZE.ROWS n) 1 |>.setFld (F.SKP_CH_A_SIZE.ROW_BYTES n) 300
  let s := s.setReg (Adr.SKP_CH_S_SRC n) 0x11003 |>.setReg (Adr.SKP_CH_S_DST n) 0x21070 |>.setFld (F.SKP_CH_S_SIZE.ROWS n) 2 |>.setFld (F.SKP_CH_S_SIZE.ROW_BYTES n) 300
  let s := {s with time := {State.reset.time with us := 15, cyc := 50}}
  s.setChan n (g (s.chan n))
def U : SkpUnit := ⟨0,0,0x90,[],none,none,0,none⟩
def v1 (n) := sk n 0 id id
def v2 (n) := sk n 0 (fun s => s.raise (F.SKP_CH_SHADOW_VALID.VALID n)) id
def v3 (n) := sk n 1 (fun s => s.raise (F.SKP_CH_SHADOW_VALID.VALID n)) (fun x => {x with ended := true})
def v4 (n) := (sk n 0 (fun s => s.raise (F.SKP_CH_SHADOW_VALID.VALID n)) id).setFld (F.SKP_CH_S_SIZE.ROWS n) 0
def v5 (n) := sk n 1 id (fun x => {x with units := [U], nextRow := 1, bytes := 6})
def v6 (n) := sk n 1 id (fun x => {x with units := [U], nextRow := 1, spent := 0x4000-0x90*4+3, spentCyc := 50})
def dd : List (Byte × Bool) := List.replicate 0x90 (0x5A, false)
def Ud : SkpUnit := {U with data := some dd}
def Uw : SkpUnit := {U with waitUs := some 5}
def v7 (n) := sk n 1 id (fun x => {x with units := [Ud], nextRow := 1, spent := 0x4000-0x90*4+3, spentCyc := 50})
def v8 (n) := sk n 1 id (fun x => {x with units := [Ud], nextRow := 1})
def v9 (n) := sk n 1 id (fun x => {x with units := [Uw], nextRow := 1})
def v10 (n) := sk n 1 id (fun x => {x with units := [], nextRow := 1, bytes := 300})
def v11 (n) := sk n 1 (fun s => (((s.raise (F.SKP_CH_A_OPT.CPL_EN n)).setFld (F.SKP_CH_A_OPT.TAG n) 0x1234).setFld (F.SKP_CH_A_CPL.ADDR n) 0x3001)) (fun x => {x with units := [], nextRow := 1, bytes := 300})
def v12 (n) := sk n 1 id (fun x => {x with units := [], nextRow := 0, bytes := 300})
def v13 (n) := sk n 2 id id
def vLost : State := let s := v1 2; {s with pwr := {s.pwr with pllLocked := false}}

/-- The hypotheses of the clauses of `Obligations.SkipTransfers` hold together, each group of one state. -/
theorem witness_SkipTransfers_1 :
    ((v1 2).takesIo (Adr.SKP_CH_SHADOW_VALID 2) = true
      ∧ (v1 2).skMaySample 2 = true
      ∧ (v1 2).flag (F.SKP_CH_SHADOW_VALID.VALID 2) = false
      ∧ (v1 2).fld (F.SKP_CH_STAT.STATE 2) ≠ 1
      ∧ (v1 2).takesIo (Adr.SKP_CH_CTL 2) = true
      ∧ (v1 2).fld (F.SKP_CH_STAT.STATE 2) ≠ 2)
    ∧ ((v1 20).takesIo (Adr.SKP_CH_CTL 20) = true
      ∧ (v1 20).fld (F.SKP_CH_STAT.STATE 20) = 0
      ∧ (v1 20).flag (F.SKP_CH_SHADOW_VALID.VALID 20) = false
      ∧ 5 ≠ (v1 20).fld (F.SKP_CH_CTL.OWNER 20)
      ∧ ((v1 20).flag (F.ADT_STATUS.CREATED 5) = false ∨ (v1 20).fld (F.SKP_CH_STAT.STATE 20) ≠ 0 ∨ (v1 20).flag (F.SKP_CH_SHADOW_VALID.VALID 20) = true))
    ∧ ((v2 2).skMaySample 2 = true
      ∧ (v2 2).flag (F.SKP_CH_SHADOW_VALID.VALID 2) = true
      ∧ (((v2 2).skCopy 2).skCheck 2).fst = 0)
    ∧ ((v3 2).takesIo (Adr.SKP_CH_SHADOW_VALID 2) = true
      ∧ (v3 2).fld (F.SKP_CH_CTL.OWNER 2) = 0
      ∧ (v3 2).fld (F.SKP_CH_STAT.STATE 2) ≠ 0)
    ∧ ((v4 2).skMaySample 2 = true
      ∧ (v4 2).flag (F.SKP_CH_SHADOW_VALID.VALID 2) = true
      ∧ (((v4 2).skCopy 2).skCheck 2).fst ≠ 0)
    ∧ (vLost.skMaySample 2 = false
      ∧ (vLost.chan 2).ended = false
      ∧ vLost.takesIo (Adr.SKP_CH_SHADOW_VALID 2) = false
      ∧ vLost.takesIo (Adr.SKP_CH_CTL 2) = false
      ∧ vLost.takesIo (Adr.SKP_CH_STAT 2) = false)
    ∧ ((v5 2).fld (F.SKP_CH_STAT.STATE 2) = 1
      ∧ ((v5 2).chan 2).ended = false
      ∧ (v5 2).skRuns = true
      ∧ ((v5 2).chan 2).units = [U]
      ∧ (v5 2).skRows 2 ≤ ((v5 2).chan 2).nextRow
      ∧ (v5 2).skHostSrc 2 = false
      ∧ U.fail = Option.none
      ∧ U.waitUs = Option.none
      ∧ (v5 2).areaOf ((v5 2).skUnitSrc 2 U) = 1
      ∧ (v5 2).areaOf ((v5 2).skUnitDst 2 U) = 1
      ∧ U.len ≤ 256
      ∧ 1 ≤ U.len
      ∧ (v5 2).dramReach ((v5 2).skUnitSrc 2 U / 64 * 64) (((v5 2).skUnitSrc 2 U + U.len + 63) / 64 * 64 - (v5 2).skUnitSrc 2 U / 64 * 64) = true
      ∧ (v5 2).dramReach ((v5 2).skUnitDst 2 U) U.len = true
      ∧ (v5 2).poisoned ((v5 2).skUnitSrc 2 U) U.len = false
      ∧ U.data = Option.none
      ∧ (∀ (m : Nat), m < 32 → m ≠ 2 → (v5 2).skWriteReady m = false)
      ∧ U.len * 4 ≤ (v5 2).skCredit 2
      ∧ 0 < U.len
      ∧ (0 < (v5 2).skUnitDst 2 U ∨ (v5 2).skUnitDst 2 U + U.len ≤ 0)
      ∧ (((v5 2).chan 2).units ≠ [] ∨ ((v5 2).chan 2).nextRow < (v5 2).skRows 2))
    ∧ ((v6 2).fld (F.SKP_CH_STAT.STATE 2) = 1
      ∧ ((v6 2).chan 2).ended = false
      ∧ (v6 2).skRuns = true
      ∧ ((v6 2).chan 2).units = [U]
      ∧ (v6 2).skRows 2 ≤ ((v6 2).chan 2).nextRow
      ∧ (v6 2).skHostSrc 2 = false
      ∧ U.fail = Option.none
      ∧ U.waitUs = Option.none
      ∧ (v6 2).areaOf ((v6 2).skUnitSrc 2 U) = 1
      ∧ (v6 2).areaOf ((v6 2).skUnitDst 2 U) = 1
      ∧ U.len ≤ 256
      ∧ 1 ≤ U.len
      ∧ (v6 2).dramReach ((v6 2).skUnitSrc 2 U / 64 * 64) (((v6 2).skUnitSrc 2 U + U.len + 63) / 64 * 64 - (v6 2).skUnitSrc 2 U / 64 * 64) = true
      ∧ (v6 2).dramReach ((v6 2).skUnitDst 2 U) U.len = true
      ∧ (v6 2).poisoned ((v6 2).skUnitSrc 2 U) U.len = false
      ∧ U.data = Option.none
      ∧ (v6 2).skCredit 2 < U.len * 4) :=
  by and_intros <;> decide +kernel

/-- The hypotheses of the clauses of `Obligations.SkipTransfers` hold together, each group of one state. -/
theorem witness_SkipTransfers_2 :
    ((v7 2).fld (F.SKP_CH_STAT.STATE 2) = 1
      ∧ ((v7 2).chan 2).ended = false
      ∧ (v7 2).skRuns = true
      ∧ ((v7 2).chan 2).units = [Ud]
      ∧ (v7 2).skRows 2 ≤ ((v7 2).chan 2).nextRow
      ∧ (v7 2).skHostSrc 2 = false
      ∧ Ud.fail = Option.none
      ∧ Ud.waitUs = Option.none
      ∧ (v7 2).areaOf ((v7 2).skUnitSrc 2 Ud) = 1
      ∧ (v7 2).areaOf ((v7 2).skUnitDst 2 Ud) = 1
      ∧ Ud.len ≤ 256
      ∧ 1 ≤ Ud.len
      ∧ (v7 2).dramReach ((v7 2).skUnitSrc 2 Ud / 64 * 64) (((v7 2).skUnitSrc 2 Ud + Ud.len + 63) / 64 * 64 - (v7 2).skUnitSrc 2 Ud / 64 * 64) = true
      ∧ (v7 2).dramReach ((v7 2).skUnitDst 2 Ud) Ud.len = true
      ∧ (v7 2).poisoned ((v7 2).skUnitSrc 2 Ud) Ud.len = false
      ∧ Ud.data = Option.some dd
      ∧ (v7 2).skCredit 2 < Ud.len * 4)
    ∧ ((v8 2).fld (F.SKP_CH_STAT.STATE 2) = 1
      ∧ ((v8 2).chan 2).ended = false
      ∧ (v8 2).skRuns = true
      ∧ ((v8 2).chan 2).units = [Ud]
      ∧ (v8 2).skRows 2 ≤ ((v8 2).chan 2).nextRow
      ∧ Ud.fail = Option.none
      ∧ Ud.data = Option.some dd
      ∧ dd.length = Ud.len
      ∧ anyPoison dd = false
      ∧ (v8 2).areaOf ((v8 2).skUnitDst 2 Ud) = 1
      ∧ 1 ≤ Ud.len
      ∧ Ud.len ≤ 256
      ∧ (v8 2).dramReach ((v8 2).skUnitDst 2 Ud) Ud.len = true
      ∧ Ud.len * 4 ≤ (v8 2).skCredit 2
      ∧ (∀ (m : Nat), m < 32 → m ≠ 2 → (v8 2).skWriteReady m = false)
      ∧ 0 < dd.length
      ∧ (0 < (v8 2).skUnitDst 2 Ud ∨ (v8 2).skUnitDst 2 Ud + Ud.len ≤ 0))
    ∧ ((v9 2).fld (F.SKP_CH_STAT.STATE 2) = 1
      ∧ ((v9 2).chan 2).ended = false
      ∧ (v9 2).skRuns = true
      ∧ ((v9 2).chan 2).units = [Uw]
      ∧ (v9 2).skRows 2 ≤ ((v9 2).chan 2).nextRow
      ∧ (v9 2).skHostSrc 2 = false
      ∧ Uw.fail = Option.none
      ∧ Uw.data = Option.none
      ∧ Uw.waitUs = Option.some 5
      ∧ 5 + 10 ≤ (v9 2).time.us
      ∧ 0 ≠ Adr.SKP_COUNTS)
    ∧ ((v10 2).fld (F.SKP_CH_STAT.STATE 2) = 1
      ∧ ((v10 2).chan 2).ended = false
      ∧ (v10 2).skRuns = true
      ∧ ((v10 2).chan 2).units = []
      ∧ (v10 2).skRows 2 ≤ ((v10 2).chan 2).nextRow
      ∧ (v10 2).flag (F.SKP_CH_A_OPT.MSIX_EN 2) = false
      ∧ (v10 2).flag (F.SKP_CH_A_OPT.CPL_EN 2) = false)
    ∧ ((v11 2).fld (F.SKP_CH_STAT.STATE 2) = 1
      ∧ ((v11 2).chan 2).ended = false
      ∧ (v11 2).skRuns = true
      ∧ ((v11 2).chan 2).units = []
      ∧ (v11 2).skRows 2 ≤ ((v11 2).chan 2).nextRow
      ∧ (v11 2).flag (F.SKP_CH_A_OPT.MSIX_EN 2) = false
      ∧ (v11 2).flag (F.SKP_CH_A_OPT.CPL_EN 2) = true
      ∧ (v11 2).areaOf ((v11 2).skCpl 2) = 1
      ∧ (v11 2).dramReach ((v11 2).skCpl 2) 32 = true
      ∧ (0 < (v11 2).skCpl 2 ∨ (v11 2).skCpl 2 + 32 ≤ 0)) :=
  by and_intros <;> decide +kernel

/-- The hypotheses of the clauses of `Obligations.SkipTransfers` hold together, each group of one state. -/
theorem witness_SkipTransfers_3 :
    ((v12 2).fld (F.SKP_CH_STAT.STATE 2) = 1
      ∧ ((v12 2).chan 2).ended = false
      ∧ (v12 2).skRuns = true
      ∧ ((v12 2).chan 2).units = []
      ∧ ((v12 2).chan 2).nextRow < (v12 2).skRows 2
      ∧ (v12 2).flag (F.SKP_CH_A_OPT.CPL_EN 2) = false
      ∧ (v12 2).flag (F.SKP_CH_A_OPT.MSIX_EN 2) = false)
    ∧ ((v13 2).fld (F.SKP_CH_STAT.STATE 2) = 2
      ∧ (v13 2).takesIo (Adr.SKP_CH_STAT 2) = true
      ∧ (v13 2).flag (F.SKP_CH_SHADOW_VALID.VALID 2) = false
      ∧ (v13 2).takesIo (Adr.SKP_CH_CTL 2) = true
      ∧ (v13 2).fld (F.SKP_CH_CTL.OWNER 2) = 0) :=
  by decide +kernel

end SkipW

namespace AditW

def ad (m : Mode) (f : State → State) : State := f ((inMode m (hw id)).setFld (F.ADT_ASGN_RES.QCOUNT 5) 4 |>.setFld (F.ADT_ASGN_RES.RMEM_SIZE 5) 1 |>.setFld (F.ADT_ASGN_RES.CREDITS 5) 3 |>.setFld (F.ADT_ASGN_RES.BW 5) 7 |>.raise F.ADT_POOL.EN |>.setFld F.ADT_POOL.BASE 3)
def p (s : State) : State := s.raise (F.ADT_STATUS.CREATED 5)
def b1 := ad .run id
def b2 := ad .run p
def b3 := ad .run (fun s => s.setFld (F.ADT_ASGN_RES.QCOUNT 5) 257)
def b6 := ad .run (fun s => s.setFld (F.ADT_ASGN_RES.BW 5) 0)
def b8 := ad .run (fun s => (p s).setFld (F.SKP_CH_CTL.OWNER 20) 5)
def b9 := ad .run (fun s => s.setFld F.ADT_CMD.ADIT 5 |>.setFld F.ADT_CMD.OP 1 |>.raise F.ADT_CMD.BUSY |>.setFld (F.ADT_ASGN_RES.RMEM_SIZE 5) 0 |>.setReg (Adr.ADT_MBX_TOVF 5 3) 7 |>.raise (F.ADT_Q_CFG.EN 5 200) |>.setFld (F.ADT_STATUS.GEN 5) 255 |>.raise (F.ADT_MBX_CTL.VF_READY 5))
def b10 := ad .configure id
def b11 := ad .run (fun s => s.raise (F.ADT_MBX_CTL.VF_READY 5) |>.raise (F.ADT_MBX_CTL.MGR_READY 5) |>.setReg Adr.ADT_MBX_PEND 0xffffffff)
def b12 := ad .run (fun s => (p s).raise (F.ADT_ASGN_RANGE.R 5 2) |>.raise (F.ADT_ASGN_RANGE.W 5 2) |>.setFld (F.ADT_ASGN_RANGE.FIRST 5 2) 100 |>.setFld (F.ADT_ASGN_RANGE.COUNT 5 2) 20)
def q (x : QueryCtx) (s : State) : State := {s with adt := {s.adt with queries := s.adt.queries.set QueryCtx.reset 1283 x}}
def b13 := ad .run (fun s => q ⟨false,true,0,none,false⟩ ((p s).setFld (F.ADT_Q_RING.ENTRIES 5 3) 4))
def b14 := ad .run (fun s => q ⟨true,false,0,none,false⟩ ((p s).setFld (F.ADT_Q_CFG.TRIG 5 3) 2))
def b15 := ad .run (fun s => q ⟨true,false,0,some 7,true⟩ ((p s).setFld (F.ADT_Q_RING.ENTRIES 5 3) 4 |>.setFld (F.ADT_Q_CFG.TRIG 5 3) 2 |>.setFld (F.ADT_Q_PTR.TAIL 5 3) 0x0002 |>.setFld (F.ADT_Q_PTR.HEAD 5 3) 0xfffe))
def b16 := ad .run (fun s => q ⟨true,false,0,some 7,true⟩ ((p s).setFld (F.ADT_Q_RING.ENTRIES 5 3) 4 |>.setFld (F.ADT_Q_CFG.TRIG 5 3) 2 |>.setFld (F.ADT_Q_PTR.TAIL 5 3) 0x0002 |>.setFld (F.ADT_Q_PTR.HEAD 5 3) 0xffff |>.raise (F.LOD_STATUS.INIT_DONE)))
def rb : List Byte := bytesLE 8 77 ++ List.replicate 11 0 ++ [0x20] ++ [1,0] ++ [0,0] ++ [9,0] ++ List.replicate 6 0
def op (s : State) : State := {s with hep := {s.hep with numVfs := 8, fns := [(0, {s.fn 0 with vfEnable := true})]}}.raise F.HEP_STATUS.LINK_UP
def win (s : State) : State := s.raise (F.LOD_WIN_MAP_A.EN 6) |>.setFld (F.LOD_WIN_MATCH_A.ORIGIN 6) 1 |>.setFld (F.LOD_WIN_MATCH_A.FUNC 6) 5 |>.setFld (F.LOD_WIN_RANGE_A.COUNT 6) 20
def b17 := ad .run op
def b19 := ad .run (fun s => op (p s) |>.setReg Adr.ADT_QUIESCE 0x20)
def b20 := ad .run (fun s => win (op (p s)))
def b21 := ad .run (fun s => win (op (p s)) |>.raise (F.ADT_ASGN_RANGE.W 5 2) |>.setFld (F.ADT_ASGN_RANGE.FIRST 5 2) 0 |>.setFld (F.ADT_ASGN_RANGE.COUNT 5 2) 20)
def cf1 : Word := BitVec.ofNat 64 (2^63 + 0)
def bLost : State := {b1 with pwr := {b1.pwr with pllLocked := false}}
def b22 := ad .run (fun s => s.setFld (F.ADT_ASGN_RES.RMEM_OFF 5) 1023 |>.setFld (F.ADT_ASGN_RES.RMEM_SIZE 5) 2)
def b23 := ad .run (fun s => s.raise (F.ADT_STATUS.CREATED 6) |>.setFld (F.ADT_ASGN_RES.CREDITS 6) 2048 |>.setFld (F.ADT_ASGN_RES.CREDITS 5) 2049 |>.setFld (F.ADT_ASGN_RES.RMEM_OFF 6) 500 |>.setFld (F.ADT_ASGN_RES.QBASE 6) 500)
def b24 := ad .run (fun s => s.setFld (F.ADT_ASGN_RANGE.COUNT 5 15) 2 |>.setFld (F.ADT_ASGN_RANGE.FIRST 5 15) 0x3ffff)

/-- The hypotheses of the clauses of `Obligations.AditsAndTheirPages` hold together, each group of one state. -/
theorem witness_AditsAndTheirPages_1 :
    (b1.takesIo Adr.ADT_CMD = true
      ∧ b1.flag F.ADT_CMD.BUSY = false
      ∧ (¬b1.created 5 = true)
      ∧ b1.fld (F.ADT_ASGN_RES.QCOUNT 5) ≤ 256
      ∧ b1.fld (F.ADT_ASGN_RES.QBASE 5) + b1.fld (F.ADT_ASGN_RES.QCOUNT 5) ≤ 1024
      ∧ (∀ (j : Nat), j < 64 → j ≠ 5 → b1.created j = true → overlaps (b1.fld (F.ADT_ASGN_RES.QBASE 5)) (b1.fld (F.ADT_ASGN_RES.QCOUNT 5)) (b1.fld (F.ADT_ASGN_RES.QBASE j)) (b1.fld (F.ADT_ASGN_RES.QCOUNT j)) = false)
      ∧ b1.flag F.ADT_POOL.EN = true
      ∧ 1 ≤ b1.fld (F.ADT_ASGN_RES.RMEM_SIZE 5)
      ∧ b1.fld (F.ADT_ASGN_RES.RMEM_SIZE 5) ≤ 256
      ∧ b1.fld (F.ADT_ASGN_RES.RMEM_OFF 5) + b1.fld (F.ADT_ASGN_RES.RMEM_SIZE 5) ≤ 1024
      ∧ (∀ (j : Nat), j < 64 → j ≠ 5 → b1.created j = true → overlaps (b1.fld (F.ADT_ASGN_RES.RMEM_OFF 5)) (b1.fld (F.ADT_ASGN_RES.RMEM_SIZE 5)) (b1.fld (F.ADT_ASGN_RES.RMEM_OFF j)) (b1.fld (F.ADT_ASGN_RES.RMEM_SIZE j)) = false)
      ∧ b1.shareSum 5 F.ADT_ASGN_RES.CREDITS + b1.fld (F.ADT_ASGN_RES.CREDITS 5) ≤ 4096
      ∧ b1.fld (F.ADT_ASGN_RES.BW 5) ≠ 0
      ∧ b1.shareSum 5 F.ADT_ASGN_RES.BW + b1.fld (F.ADT_ASGN_RES.BW 5) ≤ 256
      ∧ (∀ (r : Nat), r < 16 → b1.fld (F.ADT_ASGN_RANGE.COUNT 5 r) = 0 ∨ b1.fld (F.ADT_ASGN_RANGE.FIRST 5 r) + b1.fld (F.ADT_ASGN_RANGE.COUNT 5 r) ≤ slotCount)
      ∧ 0 ≠ Adr.ADT_CMD
      ∧ b1.takesIo Adr.ADT_POOL = true
      ∧ bitOf (BitVec.toNat cf1) 62 = false
      ∧ b1.mode ≠ Mode.configure
      ∧ b1.takesIo (Adr.ADT_MBX_CTL 5) = true
      ∧ b1.flag (F.ADT_MBX_CTL.VF_READY 5) = false
      ∧ b1.flag (F.ADT_MBX_CTL.MGR_READY 5) = false
      ∧ b1.flag F.ADT_MGR_CTL.MSIX_EN = false
      ∧ (b1.query 5 3).on = false)
    ∧ (b2.takesIo Adr.ADT_CMD = true
      ∧ b2.flag F.ADT_CMD.BUSY = false
      ∧ b2.created 5 = true
      ∧ 0 ≠ Adr.ADT_CMD
      ∧ b2.fnExists 5 = false
      ∧ b2.aditBusy 5 = false
      ∧ (∀ (n : Nat), n < 64 → b2.skOwner n ≠ 5)
      ∧ b2.takesIo (Adr.ADT_Q_CFG 5 3) = true
      ∧ b2.queryThere 5 3 = true
      ∧ (b2.query 5 3).on = false
      ∧ (b2.query 5 3).enabling = false
      ∧ bitOf (BitVec.toNat cf1) 63 = true
      ∧ (b2.setReg (Adr.ADT_Q_CFG 5 3) (BitVec.ofNat 64 (bitsOf (setBits (setBits (BitVec.toNat cf1) 60 60 0) 28 18 0) 62 0))).queryBad 5 3 = true
      ∧ b2.takesIo (Adr.ADT_Q_PTR 5 3) = true
      ∧ b2.fld (F.ADT_Q_RING.ENTRIES 5 3) < (b2.fld (F.ADT_Q_PTR.TAIL 5 3) + 65536 - 65535) % 65536)
    ∧ (b3.takesIo Adr.ADT_CMD = true
      ∧ b3.flag F.ADT_CMD.BUSY = false
      ∧ (¬b3.created 5 = true)
      ∧ (¬(b3.fld (F.ADT_ASGN_RES.QCOUNT 5) ≤ 256 ∧ b3.fld (F.ADT_ASGN_RES.QBASE 5) + b3.fld (F.ADT_ASGN_RES.QCOUNT 5) ≤ 1024 ∧ ∀ (j : Nat), j < 64 → j ≠ 5 → b3.created j = true → overlaps (b3.fld (F.ADT_ASGN_RES.QBASE 5)) (b3.fld (F.ADT_ASGN_RES.QCOUNT 5)) (b3.fld (F.ADT_ASGN_RES.QBASE j)) (b3.fld (F.ADT_ASGN_RES.QCOUNT j)) = false))
      ∧ 0 ≠ Adr.ADT_CMD)
    ∧ (b6.takesIo Adr.ADT_CMD = true
      ∧ b6.flag F.ADT_CMD.BUSY = false
      ∧ (¬b6.created 5 = true)
      ∧ b6.fld (F.ADT_ASGN_RES.QCOUNT 5) ≤ 256
      ∧ b6.fld (F.ADT_ASGN_RES.QBASE 5) + b6.fld (F.ADT_ASGN_RES.QCOUNT 5) ≤ 1024
      ∧ (∀ (j : Nat), j < 64 → j ≠ 5 → b6.created j = true → overlaps (b6.fld (F.ADT_ASGN_RES.QBASE 5)) (b6.fld (F.ADT_ASGN_RES.QCOUNT 5)) (b6.fld (F.ADT_ASGN_RES.QBASE j)) (b6.fld (F.ADT_ASGN_RES.QCOUNT j)) = false)
      ∧ b6.flag F.ADT_POOL.EN = true
      ∧ 1 ≤ b6.fld (F.ADT_ASGN_RES.RMEM_SIZE 5)
      ∧ b6.fld (F.ADT_ASGN_RES.RMEM_SIZE 5) ≤ 256
      ∧ b6.fld (F.ADT_ASGN_RES.RMEM_OFF 5) + b6.fld (F.ADT_ASGN_RES.RMEM_SIZE 5) ≤ 1024
      ∧ (∀ (j : Nat), j < 64 → j ≠ 5 → b6.created j = true → overlaps (b6.fld (F.ADT_ASGN_RES.RMEM_OFF 5)) (b6.fld (F.ADT_ASGN_RES.RMEM_SIZE 5)) (b6.fld (F.ADT_ASGN_RES.RMEM_OFF j)) (b6.fld (F.ADT_ASGN_RES.RMEM_SIZE j)) = false)
      ∧ b6.shareSum 5 F.ADT_ASGN_RES.CREDITS + b6.fld (F.ADT_ASGN_RES.CREDITS 5) ≤ 4096
      ∧ (¬(b6.fld (F.ADT_ASGN_RES.BW 5) ≠ 0 ∧ b6.shareSum 5 F.ADT_ASGN_RES.BW + b6.fld (F.ADT_ASGN_RES.BW 5) ≤ 256))
      ∧ 0 ≠ Adr.ADT_CMD)
    ∧ (b8.takesIo Adr.ADT_CMD = true
      ∧ b8.flag F.ADT_CMD.BUSY = false
      ∧ b8.created 5 = true
      ∧ (b8.fnExists 5 = true ∨ b8.aditBusy 5 = true ∨ ∃ n, n < 64 ∧ b8.skOwner n = 5)) :=
  by and_intros <;> decide +kernel

/-- The hypotheses of the clauses of `Obligations.AditsAndTheirPages` hold together, each group of one state. -/
theorem witness_AditsAndTheirPages_2 :
    (b9.takesIo Adr.ADT_CMD = true
      ∧ b9.flag F.ADT_CMD.BUSY = true
      ∧ b9.fld F.ADT_CMD.OP = 1
      ∧ b9.fld F.ADT_CMD.ADIT = 5
      ∧ (∀ (n : Nat), n < 64 → b9.skOwner n ≠ 5)
      ∧ (0 < b9.rmemBase 5 ∨ b9.rmemBase 5 + b9.rmemSize 5 ≤ 0)
      ∧ b9.genHeld 5 = false
      ∧ b9.adt.waiting.get 0 5 = 0
      ∧ b9.takesIo (Adr.ADT_MBX_CTL 5) = true
      ∧ b9.flag (F.ADT_MBX_CTL.VF_READY 5) = true)
    ∧ (b10.takesIo Adr.ADT_POOL = true
      ∧ bitOf (BitVec.toNat cf1) 62 = false
      ∧ b10.mode = Mode.configure
      ∧ bitOf (BitVec.toNat cf1) 63 = true
      ∧ b10.poolFits (bitsOf (BitVec.toNat cf1) 47 26 * 67108864) = false
      ∧ bitOf 9223372036921884672 62 = false
      ∧ bitOf 9223372036921884672 63 = true
      ∧ b10.poolFits (bitsOf 9223372036921884672 47 26 * 67108864) = true
      ∧ b10.queriesRun = false)
    ∧ (b11.takesIo (Adr.ADT_MBX_CTL 5) = true
      ∧ b11.flag (F.ADT_MBX_CTL.MGR_READY 5) = true)
    ∧ ((b13.query 5 3).enabling = true
      ∧ b13.takesIo (Adr.ADT_Q_PTR 5 3) = true
      ∧ b13.queryThere 5 3 = true
      ∧ (b13.fld (F.ADT_Q_PTR.TAIL 5 3) + 65536 - 65535) % 65536 ≤ b13.fld (F.ADT_Q_RING.ENTRIES 5 3))
    ∧ (b14.takesIo (Adr.ADT_Q_CTL 5 3) = true
      ∧ (b14.query 5 3).on = true
      ∧ b14.fld (F.ADT_Q_CFG.TRIG 5 3) = 2)
    ∧ (b15.queriesRun = true
      ∧ firstTrigger b15.adt.queries = Option.some (queryKey 5 3, 7)
      ∧ b15.ringFull 5 3 = true)
    ∧ (b16.queriesRun = true
      ∧ firstTrigger b16.adt.queries = Option.some (queryKey 5 3, 7)
      ∧ b16.ringFull 5 3 = false
      ∧ b16.fld (F.ADT_Q_CFG.VEC 5 3) = 0
      ∧ 0 < b16.ringBase 5 3 + b16.fld (F.ADT_Q_PTR.TAIL 5 3) % Max.max 1 (b16.fld (F.ADT_Q_RING.ENTRIES 5 3)) * b16.queryStride 5 3)
    ∧ (b17.fnOpen 5 = true
      ∧ b17.frozen 5 = false
      ∧ b17.created 5 = false)
    ∧ (b19.fnOpen 5 = true
      ∧ b19.frozen 5 = false
      ∧ b19.created 5 = true
      ∧ 0 % 32 = 0
      ∧ rb.length = 32
      ∧ (b19.creditAvail 5 = 0 ∨ b19.quiesced 5 = true ∨ b19.mode.takesRecords = false))
    ∧ (b20.fnOpen 5 = true
      ∧ b20.frozen 5 = false
      ∧ b20.created 5 = true
      ∧ 0 % 32 = 0
      ∧ rb.length = 32
      ∧ b20.creditAvail 5 ≠ 0
      ∧ b20.quiesced 5 = false
      ∧ b20.mode.takesRecords = true
      ∧ b20.winMatchesHost 6 5 (natLE (sliceBytes rb 24 2)) = true
      ∧ (∀ (j : Nat), j < 6 → b20.winMatchesHost j 5 (natLE (sliceBytes rb 24 2)) = false)
      ∧ b20.inRange 5 (b20.winSlot 6 (natLE (sliceBytes rb 24 2))) true = false)
    ∧ (b21.fnOpen 5 = true
      ∧ b21.frozen 5 = false
      ∧ b21.created 5 = true
      ∧ 0 % 32 = 0
      ∧ rb.length = 32
      ∧ b21.creditAvail 5 ≠ 0
      ∧ b21.quiesced 5 = false
      ∧ b21.mode.takesRecords = true
      ∧ b21.winMatchesHost 6 5 (natLE (sliceBytes rb 24 2)) = true
      ∧ (∀ (j : Nat), j < 6 → b21.winMatchesHost j 5 (natLE (sliceBytes rb 24 2)) = false)
      ∧ b21.inRange 5 (b21.winSlot 6 (natLE (sliceBytes rb 24 2))) true = true) :=
  by and_intros <;> decide +kernel

/-- The hypotheses of the clauses of `Obligations.AditsAndTheirPages` hold together, each group of one state. -/
theorem witness_AditsAndTheirPages_3 :
    (b22.takesIo Adr.ADT_CMD = true
      ∧ b22.flag F.ADT_CMD.BUSY = false
      ∧ (¬b22.created 5 = true)
      ∧ b22.fld (F.ADT_ASGN_RES.QCOUNT 5) ≤ 256
      ∧ b22.fld (F.ADT_ASGN_RES.QBASE 5) + b22.fld (F.ADT_ASGN_RES.QCOUNT 5) ≤ 1024
      ∧ (∀ (j : Nat), j < 64 → j ≠ 5 → b22.created j = true → overlaps (b22.fld (F.ADT_ASGN_RES.QBASE 5)) (b22.fld (F.ADT_ASGN_RES.QCOUNT 5)) (b22.fld (F.ADT_ASGN_RES.QBASE j)) (b22.fld (F.ADT_ASGN_RES.QCOUNT j)) = false)
      ∧ (¬(b22.flag F.ADT_POOL.EN = true ∧ 1 ≤ b22.fld (F.ADT_ASGN_RES.RMEM_SIZE 5) ∧ b22.fld (F.ADT_ASGN_RES.RMEM_SIZE 5) ≤ 256 ∧ b22.fld (F.ADT_ASGN_RES.RMEM_OFF 5) + b22.fld (F.ADT_ASGN_RES.RMEM_SIZE 5) ≤ 1024 ∧ ∀ (j : Nat), j < 64 → j ≠ 5 → b22.created j = true → overlaps (b22.fld (F.ADT_ASGN_RES.RMEM_OFF 5)) (b22.fld (F.ADT_ASGN_RES.RMEM_SIZE 5)) (b22.fld (F.ADT_ASGN_RES.RMEM_OFF j)) (b22.fld (F.ADT_ASGN_RES.RMEM_SIZE j)) = false))
      ∧ 0 ≠ Adr.ADT_CMD)
    ∧ (b23.takesIo Adr.ADT_CMD = true
      ∧ b23.flag F.ADT_CMD.BUSY = false
      ∧ (¬b23.created 5 = true)
      ∧ b23.fld (F.ADT_ASGN_RES.QCOUNT 5) ≤ 256
      ∧ b23.fld (F.ADT_ASGN_RES.QBASE 5) + b23.fld (F.ADT_ASGN_RES.QCOUNT 5) ≤ 1024
      ∧ (∀ (j : Nat), j < 64 → j ≠ 5 → b23.created j = true → overlaps (b23.fld (F.ADT_ASGN_RES.QBASE 5)) (b23.fld (F.ADT_ASGN_RES.QCOUNT 5)) (b23.fld (F.ADT_ASGN_RES.QBASE j)) (b23.fld (F.ADT_ASGN_RES.QCOUNT j)) = false)
      ∧ b23.flag F.ADT_POOL.EN = true
      ∧ 1 ≤ b23.fld (F.ADT_ASGN_RES.RMEM_SIZE 5)
      ∧ b23.fld (F.ADT_ASGN_RES.RMEM_SIZE 5) ≤ 256
      ∧ b23.fld (F.ADT_ASGN_RES.RMEM_OFF 5) + b23.fld (F.ADT_ASGN_RES.RMEM_SIZE 5) ≤ 1024
      ∧ (∀ (j : Nat), j < 64 → j ≠ 5 → b23.created j = true → overlaps (b23.fld (F.ADT_ASGN_RES.RMEM_OFF 5)) (b23.fld (F.ADT_ASGN_RES.RMEM_SIZE 5)) (b23.fld (F.ADT_ASGN_RES.RMEM_OFF j)) (b23.fld (F.ADT_ASGN_RES.RMEM_SIZE j)) = false)
      ∧ (¬b23.shareSum 5 F.ADT_ASGN_RES.CREDITS + b23.fld (F.ADT_ASGN_RES.CREDITS 5) ≤ 4096)
      ∧ 0 ≠ Adr.ADT_CMD)
    ∧ (b24.takesIo Adr.ADT_CMD = true
      ∧ b24.flag F.ADT_CMD.BUSY = false
      ∧ (¬b24.created 5 = true)
      ∧ b24.fld (F.ADT_ASGN_RES.QCOUNT 5) ≤ 256
      ∧ b24.fld (F.ADT_ASGN_RES.QBASE 5) + b24.fld (F.ADT_ASGN_RES.QCOUNT 5) ≤ 1024
      ∧ (∀ (j : Nat), j < 64 → j ≠ 5 → b24.created j = true → overlaps (b24.fld (F.ADT_ASGN_RES.QBASE 5)) (b24.fld (F.ADT_ASGN_RES.QCOUNT 5)) (b24.fld (F.ADT_ASGN_RES.QBASE j)) (b24.fld (F.ADT_ASGN_RES.QCOUNT j)) = false)
      ∧ b24.flag F.ADT_POOL.EN = true
      ∧ 1 ≤ b24.fld (F.ADT_ASGN_RES.RMEM_SIZE 5)
      ∧ b24.fld (F.ADT_ASGN_RES.RMEM_SIZE 5) ≤ 256
      ∧ b24.fld (F.ADT_ASGN_RES.RMEM_OFF 5) + b24.fld (F.ADT_ASGN_RES.RMEM_SIZE 5) ≤ 1024
      ∧ (∀ (j : Nat), j < 64 → j ≠ 5 → b24.created j = true → overlaps (b24.fld (F.ADT_ASGN_RES.RMEM_OFF 5)) (b24.fld (F.ADT_ASGN_RES.RMEM_SIZE 5)) (b24.fld (F.ADT_ASGN_RES.RMEM_OFF j)) (b24.fld (F.ADT_ASGN_RES.RMEM_SIZE j)) = false)
      ∧ b24.shareSum 5 F.ADT_ASGN_RES.CREDITS + b24.fld (F.ADT_ASGN_RES.CREDITS 5) ≤ 4096
      ∧ b24.fld (F.ADT_ASGN_RES.BW 5) ≠ 0
      ∧ b24.shareSum 5 F.ADT_ASGN_RES.BW + b24.fld (F.ADT_ASGN_RES.BW 5) ≤ 256
      ∧ (¬∀ (r : Nat), r < 16 → b24.fld (F.ADT_ASGN_RANGE.COUNT 5 r) = 0 ∨ b24.fld (F.ADT_ASGN_RANGE.FIRST 5 r) + b24.fld (F.ADT_ASGN_RANGE.COUNT 5 r) ≤ slotCount)
      ∧ 0 ≠ Adr.ADT_CMD)
    ∧ (b12.takesIo (Adr.ADT_Q_CFG 5 3) = true
      ∧ b12.queryThere 5 3 = true
      ∧ (b12.query 5 3).on = false
      ∧ (b12.query 5 3).enabling = false
      ∧ bitOf 9223372036854775908 63 = true
      ∧ (b12.setReg (Adr.ADT_Q_CFG 5 3) (BitVec.ofNat 64 (bitsOf (setBits (setBits 9223372036854775908 60 60 0) 28 18 0) 62 0))).queryBad 5 3 = false)
    ∧ (bLost.takesIo Adr.ADT_CMD = false
      ∧ bLost.takesIo Adr.ADT_POOL = false
      ∧ (5 = 0 ∨ bLost.takesIo (Adr.ADT_MBX_CTL 5) = false)
      ∧ bLost.takesIo (Adr.ADT_Q_CFG 5 3) = false
      ∧ bLost.takesIo (Adr.ADT_Q_CTL 5 3) = false
      ∧ bLost.takesIo (Adr.ADT_Q_PTR 5 3) = false) :=
  by and_intros <;> decide +kernel

end AditW

namespace HostW

def hp (f : State → State) : State := f ({((inMode .run (hw id)).setFld (F.ADT_ASGN_RES.QCOUNT 5) 4 |>.setFld F.HEP_BAR2.BASE 3) with hep := {State.reset.hep with numVfs := 8, fns := [(0, {State.reset.fn 0 with vfEnable := true, busMaster := true})]}, time := {State.reset.time with now := 777}}.raise F.HEP_STATUS.LINK_UP)
def b1 := hp id
def b2 := hp (fun s => s.raise F.HEP_BAR2.EN |>.raise (F.ADT_STATUS.CREATED 5))
def b3 := hp (fun s => s.setFld F.HEP_FREEZE.FROZEN 0x8000000000000021 |>.raise (F.HEP_ERR_LOG_DW0.VALID 5))
def rq (c : Bool) (w : Nat) : OutReq := ⟨9, 0, 0, w, 0, 0x1000, 8, c⟩
def b4 (c : Bool) := hp (fun s => {s with hep := {s.hep with reqs := [⟨8,0,0,0,0,0,4,false⟩, rq c 0]}, hewers := [(0, {s.hew 0 with missed := [⟨3,false,3,false,some 9,false,none⟩, ⟨4,false,3,false,some 8,false,none⟩]})]})
def b5 := {hp id with hep := {(hp id).hep with perst := true}}
def b6 := {hp id with hep := {(hp id).hep with fns := []}}
def b7 := hp (fun s => s.setFld F.HEP_STATUS.LINK_UP 0)
def b8 := hp (fun s => s.raise (F.ADT_STATUS.CREATED 5) |>.setFld (F.SKP_CH_CTL.OWNER 20) 5 |>.setFld (F.SKP_CH_STAT.STATE 20) 1 |>.raise (F.SKP_CH_A_OPT.CLASS 20))
def bLost := {b1 with pwr := {b1.pwr with pllLocked := false}}
def r32 : List Byte := List.replicate 32 7
def n4 : List Byte := [0x1f,0,0,0x80]
def bOff := b1.setFld F.PWR_DOM_STATE.ON 0xFFFDF

/-- The hypotheses of the clauses of `Obligations.HostRequestsAndReset` hold together, each group of one state. -/
theorem witness_HostRequestsAndReset :
    (b1.hostReaches = true
      ∧ (b1.fn 0).power = 0
      ∧ (b1.fn 0).resetting = false
      ∧ b1.frozen 0 = false
      ∧ b1.flag F.HEP_BAR2.EN = false
      ∧ b1.domainOn 0 = true
      ∧ n4.length = 4
      ∧ 3146240 ≠ Adr.HEP_CTL)
    ∧ (b2.hostReaches = true
      ∧ (b2.fn 0).power = 0
      ∧ (b2.fn 0).resetting = false
      ∧ b2.frozen 0 = false
      ∧ b2.flag F.HEP_BAR2.EN = true
      ∧ b2.fld F.HEP_BAR2.BASE * 1048576 + 267386880 ≤ b2.dramSize
      ∧ 510 + n4.length ≤ 267386880
      ∧ b2.dramReach (b2.fld F.HEP_BAR2.BASE * 1048576 + 510) n4.length = true
      ∧ 0 < n4.length
      ∧ (3146237 < b2.fld F.HEP_BAR2.BASE * 1048576 + 510 ∨ b2.fld F.HEP_BAR2.BASE * 1048576 + 510 + n4.length ≤ 3146237)
      ∧ (32 % 32 ≠ 0 ∨ n4.length % 32 ≠ 0))
    ∧ (b2.hostReaches = true
      ∧ (b2.fn 0).power = 0
      ∧ (b2.fn 0).resetting = false
      ∧ b2.frozen 0 = false
      ∧ b2.flag F.HEP_BAR2.EN = true
      ∧ b2.fld F.HEP_BAR2.BASE * 1048576 + 267386880 ≤ b2.dramSize
      ∧ 510 + 2 ≤ 267386880
      ∧ (b2.fld F.HEP_BAR2.BASE * 1048576 + 510) % 64 + 2 ≤ 64
      ∧ b2.dramReach (b2.fld F.HEP_BAR2.BASE * 1048576 + 510) 2 = true)
    ∧ (b2.hostReaches = true
      ∧ (b2.fn 0).power = 0
      ∧ (b2.fn 0).resetting = false
      ∧ b2.frozen 0 = false
      ∧ b2.flag F.HEP_BAR2.EN = true
      ∧ b2.fld F.HEP_BAR2.BASE * 1048576 + 267386880 ≤ b2.dramSize
      ∧ 32 % 32 = 0
      ∧ r32.length = 32
      ∧ (∀ (w : Nat), w < 64 → b2.winMatchesHost w 0 (natLE (sliceBytes r32 24 2)) = false))
    ∧ (b3.hostReaches = true
      ∧ (b3.fn 0).power = 0
      ∧ (b3.fn 0).resetting = false
      ∧ b3.frozen 0 = true)
    ∧ (b1.takesIo Adr.HEP_FREEZE_RELEASE = true
      ∧ Nat.testBit 9223372036854775841 0 = true
      ∧ b1.flag (F.HEP_ERR_LOG_DW0.VALID 0) = false
      ∧ b1.flag F.HEP_STATUS.LINK_UP = true
      ∧ (0 = 0 ∨ b1.frozen 0 = false)
      ∧ (Nat.testBit 9223372036854775841 4 = false ∨ ¬(b1.flag (F.HEP_ERR_LOG_DW0.VALID 4) = false ∧ b1.flag F.HEP_STATUS.LINK_UP = true ∧ (4 = 0 ∨ b1.frozen 0 = false))))
    ∧ (b3.takesIo Adr.HEP_FREEZE_RELEASE = true
      ∧ Nat.testBit 9223372036854775841 5 = true
      ∧ (¬(b3.flag (F.HEP_ERR_LOG_DW0.VALID 5) = false ∧ b3.flag F.HEP_STATUS.LINK_UP = true ∧ (5 = 0 ∨ b3.frozen 0 = false))))
    ∧ (b1.domainOn 5 = true
      ∧ (freezeSet (0 + 1) 0).contains 0 = true
      ∧ b1.flag (F.HEP_ERR_LOG_DW0.VALID 0) = false)
    ∧ (bOff.domainOn 5 = false)
    ∧ (b2.hostReaches = true
      ∧ b2.fnExists 5 = true
      ∧ (b2.fn 5).power = 0
      ∧ (b2.fn 5).resetting = false
      ∧ b2.frozen 5 = false
      ∧ b2.created 5 = true)
    ∧ (List.find? (fun r => decide (r.tag = 9)) (b4 true).hep.reqs = Option.some (rq true 0)
      ∧ (rq true 0).who < 512
      ∧ (b4 true).staleReq (rq true 0) = false
      ∧ (b4 true).adt.waiting.get 0 (rq true 0).fn = 0
      ∧ (b4 true).flag F.HEP_STATUS.LINK_UP = true
      ∧ [1, 2, 3, 4, 5, 6, 7, 8].length = (rq true 0).len
      ∧ (rq true 0).crit = true)
    ∧ (List.find? (fun r => decide (r.tag = 9)) (b4 false).hep.reqs = Option.some (rq false 0)
      ∧ (rq false 0).who < 512
      ∧ (b4 false).staleReq (rq false 0) = false
      ∧ (b4 false).adt.waiting.get 0 (rq false 0).fn = 0
      ∧ (rq false 0).crit = false)
    ∧ (List.find? (fun r => decide (r.tag = 9)) b1.hep.reqs = Option.none
      ∧ b1.flag F.HEP_STATUS.LINK_UP = true)
    ∧ (b1.hep.perst = false
      ∧ b1.fnExists 0 = true
      ∧ (b1.fn 0).resetting = false
      ∧ b1.domainOn 5 = true)
    ∧ (b1.fnExists 5 = true
      ∧ (b1.fn 5).resetting = false
      ∧ b1.domainOn 5 = true
      ∧ b1.aditBusy 5 = false
      ∧ b1.genHeld 5 = false
      ∧ b1.adt.waiting.get 0 5 = 0)
    ∧ (b6.fnExists 0 = true
      ∧ (b6.fn 0).resetting = false
      ∧ b6.domainOn 5 = true
      ∧ b6.hep.perst = false
      ∧ (b6.fn 0).vfEnable = false)
    ∧ (b6.fnExists 5 = false)
    ∧ (b8.fnExists 5 = true
      ∧ (b8.fn 5).resetting = false
      ∧ b8.domainOn 5 = true
      ∧ b8.aditBusy 5 = true)
    ∧ (b1.hep.perst = false
      ∧ b1.domainOn 5 = true
      ∧ b1.flag F.HEP_STATUS.LINK_UP = true
      ∧ b1.mode ≠ Mode.off
      ∧ (8 = 1 ∨ 8 = 2 ∨ 8 = 4 ∨ 8 = 8))
    ∧ (b5.hep.perst = true)
    ∧ (b7.flag F.HEP_STATUS.LINK_UP = false)
    ∧ ((∀ (n : Nat), n < 64 → b1.skReadReady n = false))
    ∧ (bLost.takesIo Adr.HEP_FREEZE_RELEASE = false) :=
  by and_intros <;> decide +kernel

end HostW

namespace PowerW

def md (m : Mode) (f : State → State) : State := f (inMode m (hw id))
def T0 : List (BitVec 16) := [0x640, 0x500, 0x100, 0xFFF0, 0x640, 0x100, 0x500, 0x640, 0x10]
def p1 := md .run (fun s => s.setFld F.PWR_THERM.THROTTLE_C 100 |>.setFld F.PWR_THERM.HYST 5 |>.setFld F.PWR_THERM.TRIP_C 110 |>.setFld (F.PWR_SHAFT_CLK.FLOOR 0) 3 |>.setFld (F.PWR_SHAFT_CLK.CUR 2) 1 |>.setStep 5 3 |>.setStep 7 2)
def p2 := {p1 with pwr := {p1.pwr with tripped := [4]}}.setFld (F.PWR_TEMP.TEMP 4) 0x690 |>.setFld (F.PWR_TEMP.TEMP 3) 0x6E0 |>.setFld (F.PWR_TEMP.TEMP 8) 0x6E0 |>.setFld (F.PWR_TEMP.TEMP 5) 0x6DF
def p3 := {p2 with pwr := {p2.pwr with tripped := [8]}}.setFld (F.PWR_TEMP.TEMP 8) 0x60 |>.setFld (F.PWR_TEMP.TEMP 4) 0x6
def p5 := {p1 with pwr := {p1.pwr with pllLocked := false}}
def p6 := inMode .off p1
def p7 := {p5 with pwr := {p5.pwr with refclk := false}}
def p8 := p1.setFld F.PWR_DOM_REQ.REQ 0x7FFFF
def p9 := p8.raise F.PWR_STATUS.BUSY
def p10 := (p8.setFld (F.SKP_CH_STAT.STATE 9) 1)
def p11 := (inMode .configure p8)
def p12 := (inMode .configure p9).setFld F.PWR_DOM_STATE.ON 0xFFDFF
def p13 := (inMode .configure p9).setFld F.PWR_DOM_REQ.REQ 0x7FF7F
def p14 := {p11 with pwr := {p11.pwr with pllLocked := false}}
def p15 := p1.setFld (F.PWR_SHAFT_CLK.FLOOR 7) 1
def T1 : List (BitVec 16) := [0x640, 0x500, 0x100, 0xFFF0, 0x640, 0x600, 0x500, 0x640, 0x10]

/-- The hypotheses of the clauses of `Obligations.ClocksDomainsAndTemperature` hold together, each group of one state. -/
theorem witness_ClocksDomainsAndTemperature :
    (p1.mode ≠ Mode.off
      ∧ p1.pwr.pllLocked = true
      ∧ p1.pwr.refclk = true)
    ∧ ((p5.mode = Mode.off ∨ p5.pwr.pllLocked = false)
      ∧ p5.mode ≠ Mode.off
      ∧ p5.pwr.pllLocked = false
      ∧ p5.pwr.refclk = true)
    ∧ ((p6.mode = Mode.off ∨ p6.pwr.refclk = false))
    ∧ (p7.pwr.refclk = false)
    ∧ (p8.takesIo Adr.PWR_DOM_REQ = true
      ∧ p8.flag F.PWR_STATUS.BUSY = false
      ∧ p8.switched (bitsOf 1048574 19 1 * 2 + 1) = [])
    ∧ (p8.takesIo Adr.PWR_DOM_REQ = true
      ∧ p8.flag F.PWR_STATUS.BUSY = false
      ∧ p8.switched (bitsOf 1048062 19 1 * 2 + 1) ≠ []
      ∧ (∀ (d : Nat), d ∈ p8.switched (bitsOf 1048062 19 1 * 2 + 1) → p8.switchRefusal (bitsOf 1048062 19 1 * 2 + 1) d = 0))
    ∧ (p8.takesIo Adr.PWR_DOM_REQ = true
      ∧ p8.flag F.PWR_STATUS.BUSY = false
      ∧ 1 ∈ p8.switched (bitsOf 0 19 1 * 2 + 1)
      ∧ p8.switchRefusal (bitsOf 0 19 1 * 2 + 1) 1 ≠ 0
      ∧ (∀ (e : Nat), e ∈ p8.switched (bitsOf 0 19 1 * 2 + 1) → e < 1 → p8.switchRefusal (bitsOf 0 19 1 * 2 + 1) e = 0)
      ∧ 2 ≠ Adr.PWR_STATUS)
    ∧ (p8.takesIo Adr.PWR_DOM_REQ = true
      ∧ p8.flag F.PWR_STATUS.BUSY = false
      ∧ (2 = 2 ∨ 2 = 3 ∨ 2 = 4)
      ∧ p8.switched (bitsOf 1048570 19 1 * 2 + 1) = [2]
      ∧ (bitsOf 1048570 19 1 * 2 + 1).testBit 2 = false
      ∧ p8.mode.keepsMemory = true)
    ∧ (p8.takesIo Adr.PWR_DOM_REQ = true
      ∧ p8.flag F.PWR_STATUS.BUSY = false
      ∧ p8.switched (bitsOf 1048572 19 1 * 2 + 1) = [1]
      ∧ (bitsOf 1048572 19 1 * 2 + 1).testBit 1 = false
      ∧ (∃ c, c < 20 ∧ childOfD1 c = true ∧ p8.domainOn c = true))
    ∧ (p9.takesIo Adr.PWR_DOM_REQ = true
      ∧ p9.flag F.PWR_STATUS.BUSY = true)
    ∧ (p10.takesIo Adr.PWR_DOM_REQ = true
      ∧ p10.flag F.PWR_STATUS.BUSY = false
      ∧ p10.switched (bitsOf 1048062 19 1 * 2 + 1) = [9]
      ∧ (bitsOf 1048062 19 1 * 2 + 1).testBit 9 = false
      ∧ p10.skipHeld = true)
    ∧ (p14.takesIo Adr.PWR_DOM_REQ = false)
    ∧ (p12.flag F.PWR_STATUS.BUSY = true
      ∧ p12.pwr.pllLocked = true
      ∧ p12.mode = Mode.configure
      ∧ p12.toSwitch false = []
      ∧ p12.toSwitch true = [9])
    ∧ (p13.flag F.PWR_STATUS.BUSY = true
      ∧ p13.pwr.pllLocked = true
      ∧ p13.mode = Mode.configure
      ∧ p13.toSwitch false = [8]
      ∧ p13.toSwitch true = [])
    ∧ ((p11.flag F.PWR_STATUS.BUSY = false ∨ p11.pwr.pllLocked = false))
    ∧ (p1.mode ≠ Mode.off
      ∧ p1.pwr.pllLocked = true
      ∧ T0.length = 9
      ∧ 0 < T0.length
      ∧ p1.shaftTripped 0 = false
      ∧ (↑(p1.fld F.PWR_THERM.THROTTLE_C) * 16 ≤ T0[0].toInt ∨ p1.memHot = true)
      ∧ p1.nextCode 0 < p1.fld (F.PWR_SHAFT_CLK.FLOOR 0)
      ∧ 2 < T0.length
      ∧ p1.shaftTripped 2 = false
      ∧ (¬(↑(p1.fld F.PWR_THERM.THROTTLE_C) * 16 ≤ T0[2].toInt ∨ p1.memHot = true))
      ∧ T0[2].toInt < (↑(p1.fld F.PWR_THERM.THROTTLE_C) - ↑(p1.fld F.PWR_THERM.HYST)) * 16
      ∧ p1.fld (F.PWR_SHAFT_CLK.DIV 2) < p1.nextCode 2)
    ∧ (p2.mode ≠ Mode.off
      ∧ p2.pwr.pllLocked = true
      ∧ T0.length = 9
      ∧ 4 < T0.length
      ∧ p2.shaftTripped 4 = true)
    ∧ (p15.mode ≠ Mode.off
      ∧ p15.pwr.pllLocked = true
      ∧ T1.length = 9
      ∧ 5 < T1.length
      ∧ p15.shaftTripped 5 = false
      ∧ (¬(↑(p15.fld F.PWR_THERM.THROTTLE_C) * 16 ≤ T1[5].toInt ∨ p15.memHot = true))
      ∧ (¬T1[5].toInt < (↑(p15.fld F.PWR_THERM.THROTTLE_C) - ↑(p15.fld F.PWR_THERM.HYST)) * 16)
      ∧ 7 < T1.length
      ∧ p15.shaftTripped 7 = false
      ∧ (↑(p15.fld F.PWR_THERM.THROTTLE_C) * 16 ≤ T1[7].toInt ∨ p15.memHot = true)
      ∧ p15.fld (F.PWR_SHAFT_CLK.FLOOR 7) ≤ p15.nextCode 7)
    ∧ (p1.mode ≠ Mode.off
      ∧ p1.pwr.pllLocked = true
      ∧ p1.shaftAtBoundary 5 = true
      ∧ p1.pwr.step.get 0 5 = 2 + 1
      ∧ 0 ≠ Adr.PWR_SHAFT_CLK 5
      ∧ signedOf 16 (p1.fld (F.PWR_TEMP.TEMP 3)) < ↑(p1.fld F.PWR_THERM.TRIP_C) * 16)
    ∧ (p2.mode ≠ Mode.off
      ∧ p2.pwr.pllLocked = true
      ∧ ↑(p2.fld F.PWR_THERM.TRIP_C) * 16 ≤ signedOf 16 (p2.fld (F.PWR_TEMP.TEMP 3))
      ∧ p2.pwr.tripped.contains 3 = false
      ∧ (3 = 3 ∨ 3 = 8)
      ∧ (↑(p2.fld F.PWR_THERM.TRIP_C) - ↑(p2.fld F.PWR_THERM.HYST)) * 16 ≤ signedOf 16 (p2.fld (F.PWR_TEMP.TEMP 3)))
    ∧ (p3.mode ≠ Mode.off
      ∧ p3.pwr.pllLocked = true
      ∧ signedOf 16 (p3.fld (F.PWR_TEMP.TEMP 8)) < (↑(p3.fld F.PWR_THERM.TRIP_C) - ↑(p3.fld F.PWR_THERM.HYST)) * 16
      ∧ p3.pwr.tripped = [8]
      ∧ (8 = 0 ∨ 8 = 8))
    ∧ (p1.mode ≠ Mode.off
      ∧ p1.pwr.pllLocked = true
      ∧ (p1.pwr.step.get 0 4 = 0 ∨ p1.shaftAtBoundary 4 = false)) :=
  by and_intros <;> decide +kernel

end PowerW

namespace StartUpW

def md (m : Mode) (f : State → State) : State := f (inMode m (hw id))
def off (porn refclk : Bool) : State := inMode .off {on0 with pwr := {on0.pwr with porn := porn, pllLocked := false, refclk := refclk}}
def o1 := off false true
def o2 := off true true
def stg (n : Nat) (fl : State → State) : State := (fl (inMode .configure (st [(Adr.PWR_DOM_STATE, 0xFFFDF)]))).setFld F.CFG_BOOT_STATUS.STAGE n |>.raise F.MEM_STATUS.D3_READY |>.raise F.MEM_STATUS.D4_READY |>.setFld F.CFG_XSPI_INFO.SIZE_MIB 8
def img (len sections : Nat) (bad : Nat) (s : State) : State :=
  (s.flashPut 0 (bytesLE 4 0x52424F4C ++ bytesLE 2 1 ++ bytesLE 2 sections ++ bytesLE 8 len ++ bytesLE 4 (if bad = 3 then 2 else 1) ++ [0xA1,0,0,0] ++ bytesLE 4 0x1234 ++ bytesLE 4 (if bad = 2 then 1 else 0)
   ++ (List.range sections).flatMap (fun i => [BitVec.ofNat 8 (if bad = 5 && i = 1 then 0x77 else 0x05), 1] ++ bytesLE 2 5 ++ bytesLE 4 0 ++ bytesLE 8 (0x1000 + 64*i) ++ bytesLE 8 64 ++ bytesLE 8 0)))
def g0 := stg 0 id
def g1 := stg 1 (img 0x2000 2 0)
def g2 := stg 1 (img 0x2000 2 2)
def g3 := stg 1 (img 0x2000 2 3)
def g4 := stg 1 (img 0x2001 2 0)
def g5 := stg 1 (img 0x2000 3 5)
def g6 := stg 2 (img 0x2000 2 0)
def g7 := stg 2 (fun s => (img 0x2000 2 0 s).raise F.MEM_STATUS.TRAIN_FAIL)
def g8 := stg 3 (img 0x2000 2 0)
def g9 := stg 3 (fun s => (img 0x100020 2 0 s).flashPut 0x100000 [1,2,3,4,5,6])
def g10 := (stg 3 (img 0x100100 2 0)).setFld F.MEM_STATUS.D4_READY 0
def g11 := stg 4 (img 0x2000 2 0)
def g12 := stg 5 (img 0x2000 2 0)
def x0 (op : Nat) (st : Nat) (addr : Nat) (busy : Bool) (m : Mode) : State :=
  let s := (((md m (fun s => s.flashPut 0x20000 [1,2,3,0xF0] |>.flashPut 0x2FFFE [9,9,9,9])).setFld F.CFG_BOOT_STATUS.STAGE st).setFld F.CFG_XSPI_ADDR.ADDR addr).setReg (Adr.CFG_XSPI_DATA 0) 0x1122334455667788
  let s := if busy then (s.setFld F.CFG_XSPI_CTL.OP op).raise F.CFG_XSPI_CTL.BUSY else s
  {s with xspi := (addr, [0xFE,2,0,0x3F] ++ List.replicate 252 0xAA)}
def x1 := x0 0 0 0x20000 false .run
def x2 := x0 0 7 0x20100 false .run
def x3 := x0 0 7 0x20180 false .run
def x4 := x0 0 3 0x20000 false .configure
def x5 := x0 1 7 0x20000 true .run
def x6 := x0 2 7 0x20000 true .run
def x7 := x0 3 7 0x20000 true .run
def lost (s : State) : State := {s with pwr := {s.pwr with pllLocked := false}}

/-- The hypotheses of the clauses of `Obligations.StartUpAndFlash` hold together, each group of one state. -/
theorem witness_StartUpAndFlash :
    ((∀ (k kind : Nat), k < g12.imageSections → kind ∈ sectionOrder → g12.sectionApplies kind k = false)
      ∧ g12.mode = Mode.configure
      ∧ g12.pwr.pllLocked = true
      ∧ g12.fld F.CFG_BOOT_STATUS.STAGE = 5
      ∧ g12.lode.waitAdv = [])
    ∧ (o1.mode = Mode.off
      ∧ o1.pwr.porn = false
      ∧ (o1.mode ≠ Mode.off ∨ o1.pwr.porn = false ∨ o1.pwr.refclk = false))
    ∧ ((o2.mode ≠ Mode.off ∨ o2.pwr.porn = true)
      ∧ o2.mode = Mode.off
      ∧ o2.pwr.porn = true
      ∧ o2.pwr.refclk = true
      ∧ o2.pwr.pllLocked = false)
    ∧ (g0.mode = Mode.configure
      ∧ g0.pwr.pllLocked = true
      ∧ g0.fld F.CFG_BOOT_STATUS.STAGE = 0)
    ∧ (g1.mode = Mode.configure
      ∧ g1.pwr.pllLocked = true
      ∧ g1.fld F.CFG_BOOT_STATUS.STAGE = 1
      ∧ g1.headerFixed = true
      ∧ g1.variantOk = true
      ∧ g1.lengthOk = true
      ∧ (∀ (k : Nat), k < g1.imageSections → g1.sectionBad k = false))
    ∧ (g2.mode = Mode.configure
      ∧ g2.pwr.pllLocked = true
      ∧ g2.fld F.CFG_BOOT_STATUS.STAGE = 1
      ∧ g2.headerFixed = false)
    ∧ (g3.mode = Mode.configure
      ∧ g3.pwr.pllLocked = true
      ∧ g3.fld F.CFG_BOOT_STATUS.STAGE = 1
      ∧ g3.headerFixed = true
      ∧ g3.variantOk = false)
    ∧ (g4.mode = Mode.configure
      ∧ g4.pwr.pllLocked = true
      ∧ g4.fld F.CFG_BOOT_STATUS.STAGE = 1
      ∧ g4.headerFixed = true
      ∧ g4.variantOk = true
      ∧ g4.lengthOk = false)
    ∧ (g5.mode = Mode.configure
      ∧ g5.pwr.pllLocked = true
      ∧ g5.fld F.CFG_BOOT_STATUS.STAGE = 1
      ∧ g5.headerFixed = true
      ∧ g5.variantOk = true
      ∧ g5.lengthOk = true
      ∧ 1 < g5.imageSections
      ∧ g5.sectionBad 1 = true
      ∧ (∀ (j : Nat), j < 1 → g5.sectionBad j = false))
    ∧ (g6.mode = Mode.configure
      ∧ g6.pwr.pllLocked = true
      ∧ g6.fld F.CFG_BOOT_STATUS.STAGE = 2
      ∧ (∀ (k : Nat), k < g6.imageSections → g6.sectionApplies 1 k = false ∧ g6.sectionApplies 2 k = false)
      ∧ g6.flag F.PWR_STATUS.BUSY = false
      ∧ g6.flag F.MEM_STATUS.TRAIN_FAIL = false)
    ∧ (g7.mode = Mode.configure
      ∧ g7.pwr.pllLocked = true
      ∧ g7.fld F.CFG_BOOT_STATUS.STAGE = 2
      ∧ (∀ (k : Nat), k < g7.imageSections → g7.sectionApplies 1 k = false ∧ g7.sectionApplies 2 k = false)
      ∧ g7.flag F.PWR_STATUS.BUSY = false
      ∧ g7.flag F.MEM_STATUS.TRAIN_FAIL = true)
    ∧ (g8.mode = Mode.configure
      ∧ g8.pwr.pllLocked = true
      ∧ g8.fld F.CFG_BOOT_STATUS.STAGE = 3
      ∧ g8.imageLength - 1048576 = 0)
    ∧ (g9.mode = Mode.configure
      ∧ g9.pwr.pllLocked = true
      ∧ g9.fld F.CFG_BOOT_STATUS.STAGE = 3
      ∧ g9.imageLength - 1048576 ≠ 0
      ∧ g9.dramReach (g9.dramSize - (g9.imageLength - 1048576)) (g9.imageLength - 1048576) = true
      ∧ 0 < g9.imageLength - 1048576
      ∧ (0 < g9.dramSize - (g9.imageLength - 1048576) ∨ g9.dramSize ≤ 0))
    ∧ (g10.mode = Mode.configure
      ∧ g10.pwr.pllLocked = true
      ∧ g10.fld F.CFG_BOOT_STATUS.STAGE = 3
      ∧ g10.imageLength - 1048576 ≠ 0
      ∧ g10.dramReach (g10.dramSize - (g10.imageLength - 1048576)) (g10.imageLength - 1048576) = false)
    ∧ (g11.mode = Mode.configure
      ∧ g11.pwr.pllLocked = true
      ∧ g11.fld F.CFG_BOOT_STATUS.STAGE = 4)
    ∧ ((md Mode.run id).mode ≠ Mode.configure)
    ∧ (x1.takesIo Adr.CFG_XSPI_CTL = true
      ∧ x1.flag F.CFG_XSPI_CTL.BUSY = false
      ∧ x1.mode ≠ Mode.off
      ∧ x1.mode ≠ Mode.selfTest
      ∧ (x1.fld F.CFG_BOOT_STATUS.STAGE = 0 ∨ 5 < x1.fld F.CFG_BOOT_STATUS.STAGE)
      ∧ x1.fld F.CFG_XSPI_ADDR.ADDR % 256 = 0
      ∧ x1.fld F.CFG_XSPI_ADDR.ADDR % 65536 = 0)
    ∧ (x2.takesIo Adr.CFG_XSPI_CTL = true
      ∧ x2.fld F.CFG_XSPI_ADDR.ADDR % 65536 ≠ 0)
    ∧ (x3.takesIo Adr.CFG_XSPI_CTL = true
      ∧ x3.flag F.CFG_XSPI_CTL.BUSY = false
      ∧ x3.mode ≠ Mode.off
      ∧ x3.mode ≠ Mode.selfTest
      ∧ (x3.fld F.CFG_BOOT_STATUS.STAGE = 0 ∨ 5 < x3.fld F.CFG_BOOT_STATUS.STAGE)
      ∧ x3.fld F.CFG_XSPI_ADDR.ADDR % 256 ≠ 0)
    ∧ (x4.takesIo Adr.CFG_XSPI_CTL = true
      ∧ (¬(x4.flag F.CFG_XSPI_CTL.BUSY = false ∧ x4.mode ≠ Mode.off ∧ x4.mode ≠ Mode.selfTest ∧ (x4.fld F.CFG_BOOT_STATUS.STAGE = 0 ∨ 5 < x4.fld F.CFG_BOOT_STATUS.STAGE))))
    ∧ (x5.flag F.CFG_XSPI_CTL.BUSY = true
      ∧ x5.fld F.CFG_XSPI_CTL.OP = 1)
    ∧ (x6.flag F.CFG_XSPI_CTL.BUSY = true
      ∧ x6.fld F.CFG_XSPI_CTL.OP = 2
      ∧ x6.xspi.snd.length = 256
      ∧ 0 < x6.xspi.snd.length
      ∧ (0 < x6.xspi.fst ∨ x6.xspi.fst + 256 ≤ 0))
    ∧ (x7.flag F.CFG_XSPI_CTL.BUSY = true
      ∧ x7.fld F.CFG_XSPI_CTL.OP = 3)
    ∧ ((¬(lost x1).takesIo Adr.CFG_XSPI_CTL = true)) :=
  ⟨⟨fun k kind hk hm => (by decide +kernel : ∀ k, k < g12.imageSections → ∀ kind ∈ sectionOrder, g12.sectionApplies kind k = false) k hk kind hm, by decide +kernel⟩,
    by and_intros <;> decide +kernel⟩

end StartUpW

namespace AnemometerW

def md (m : Mode) (f : State → State) : State := f (inMode m (hw id))
def t1 := md .run (fun s => s.setFld (F.TLY_HWR_EVT.EVENT 0 3) 1 |>.setFld (F.TLY_HWR_EVT.PLM 0 3) 7 |>.setFld (F.TLY_HWR_CTR.COUNT 0 3) 0xFFFFFFFFFFFE |>.setFld (F.TLY_HWR_STAT.OVF 0) 5)
def t2 := md .run (fun s => s.setFld (F.TLY_HWR_EVT.EVENT 0 3) 2 |>.setFld (F.TLY_HWR_EVT.PLM 0 3) 7)
def t3 := md .run (fun s => s.setFld (F.TLY_HWR_SBASE.BASE 0) 0x100)
def t4 := md .run (fun s => s.setFld (F.TLY_HWR_SBASE.BASE 0) 0xFFFFFFFFF)
def t5 := md .run (fun s => s.setFld (F.TLY_HWR_SCTL.SIZE 0) 3 |>.setFld (F.TLY_HWR_SPTR.HEAD 0) 5)
def t6 := md .run (fun s => {(s.setFld F.TLY_BW_CTL.WIN_US 20 |>.setFld F.TLY_BW_CTL.EN 1 |>.setFld (F.TLY_BW_MAX.IN 1) 0x7 |>.setFld (F.TLY_BW_MAX.OUT 1) 0x70000000 |>.setReg Adr.TLY_BW_SEQ 0xFFFFFFFFFFFFFFFF) with bwUs := 5, time := {s.time with us := 25}})
def t7 := {t6 with time := {t6.time with us := 24}}
def t8 := (md .run id).raise F.HEP_STATUS.LINK_UP |>.setFld F.HEP_FREEZE.FROZEN 1
def t9 := (inMode .configure t8).setFld F.CFG_BOOT_STATUS.STAGE 3
def n0 (f : State → State) : State := f ({(md .run id) with time := {State.reset.time with now := 16000*9+100, cyc := 3000}} |>.raise F.ANM_STATUS.READY |>.setFld F.ANM_CTL.DEC 3 |>.setFld F.ANM_AIN_PHASE.PHASE 50 |>.raise F.LOD_STATUS.INIT_DONE)
def n1 := n0 (fun s => s.raise (F.ANM_AIN_CFG.EN 4) |>.raise (F.LOD_ANM_MAP.EN 4) |>.setFld (F.LOD_ANM_MAP.SLOT 4) 33)
def n2 := {n1 with anm := {n1.anm with lastStamp := some (50 + (9-1)*16000)}}
def n3 := inMode .off n1
def cv : List (List (BitVec 18)) := [[0,0,0,0,5],[0,0,0,0,0x3FFFF],[0,0,0,0,7]]
def e1 := n0 (fun s => s.raise (F.ANM_ENC_CFG.EN 4) |>.setFld (F.ANM_ENC_COUNT.COUNT 4) 0xFFFFFFFF)
def e2 := n0 (fun s => s.raise (F.ANM_ENC_CFG.EN 4) |>.raise (F.ANM_ENC_CFG.DIR 4) |>.setFld (F.ANM_ENC_CFG.ZMODE 4) 1 |>.setFld F.ANM_COUNTS.ENC_ERR 0xFFFF)
def d1 := n0 (fun s => s.raise (F.ANM_DIO_CFG.EN 9) |>.raise (F.LOD_ANM_MAP.EN 41) |>.setFld (F.LOD_ANM_MAP.SLOT 41) 33 |>.setFld (F.ANM_DIO_CFG.FILT 9) 100)
def w (inst : Nat) : State := n0 (fun s => s.setFld (F.TIM_CMP_CTL.ARG 5) 0x81 |>.setFld (F.TIM_CMP_CTL.ACTION 5) 3 |>.raise (F.TIM_CMP_CTL.ARM 5) |>.setReg (Adr.TIM_CMP_TARGET 5) (BitVec.ofNat 64 inst))
def w1 := w 200000
def w2 := w 20000000
def w3 := {w1 with anm := {w1.anm with reads := [⟨5, 200000, []⟩]}}
def w4 := {w1 with anm := {w1.anm with reads := [⟨5, 1, []⟩]}}
def lost (s : State) : State := {s with pwr := {s.pwr with pllLocked := false}}

/-- The hypotheses of the clauses of `Obligations.TallyAndRegisterWrites` hold together, each group of one state. -/
theorem witness_TallyAndRegisterWrites :
    (timingEvent (t1.fld (F.TLY_HWR_EVT.EVENT 0 3)) = true
      ∧ t1.counts 0 3 (t1.fld (F.TLY_HWR_EVT.EVENT 0 3)) = true
      ∧ t1.domainOn (shaftDomain 0) = true
      ∧ t1.pwr.pllLocked = true
      ∧ t1.mode ≠ Mode.off
      ∧ t1.fld (F.TLY_HWR_CTR.COUNT 0 3) + 1 < 2 ^ 48)
    ∧ (timingEvent (t1.fld (F.TLY_HWR_EVT.EVENT 0 3)) = true
      ∧ t1.counts 0 3 (t1.fld (F.TLY_HWR_EVT.EVENT 0 3)) = true
      ∧ t1.domainOn (shaftDomain 0) = true
      ∧ t1.pwr.pllLocked = true
      ∧ t1.mode ≠ Mode.off
      ∧ 2 ^ 48 ≤ t1.fld (F.TLY_HWR_CTR.COUNT 0 3) + 2)
    ∧ ((timingEvent (t2.fld (F.TLY_HWR_EVT.EVENT 0 3)) = false ∨ t2.counts 0 3 (t2.fld (F.TLY_HWR_EVT.EVENT 0 3)) = false))
    ∧ (t3.takesIo (Adr.TLY_HWR_SCTL 0) = true
      ∧ t3.flag (F.TLY_HWR_SCTL.EN 0) = false
      ∧ bitOf 11526681771583493752 63 = true
      ∧ 1 ≤ bitsOf 11526681771583493752 51 48
      ∧ bitsOf 11526681771583493752 51 48 ≤ 12
      ∧ t3.fld (F.TLY_HWR_SBASE.BASE 0) * 4096 + 2 ^ bitsOf 11526681771583493752 51 48 * 64 ≤ t3.dramSize)
    ∧ (t4.takesIo (Adr.TLY_HWR_SCTL 0) = true
      ∧ t4.flag (F.TLY_HWR_SCTL.EN 0) = false
      ∧ bitOf 11526681771583493752 63 = true
      ∧ (¬(1 ≤ bitsOf 11526681771583493752 51 48 ∧ bitsOf 11526681771583493752 51 48 ≤ 12 ∧ t4.fld (F.TLY_HWR_SBASE.BASE 0) * 4096 + 2 ^ bitsOf 11526681771583493752 51 48 * 64 ≤ t4.dramSize)))
    ∧ ((lost t3).takesIo (Adr.TLY_HWR_SCTL 0) = false)
    ∧ (t5.takesIo (Adr.TLY_HWR_SPTR 0) = true
      ∧ (t5.fld (F.TLY_HWR_SPTR.HEAD 0) + 65536 - 65533) % 65536 ≤ 2 ^ t5.fld (F.TLY_HWR_SCTL.SIZE 0))
    ∧ (t5.takesIo (Adr.TLY_HWR_SPTR 0) = true
      ∧ 2 ^ t5.fld (F.TLY_HWR_SCTL.SIZE 0) < (t5.fld (F.TLY_HWR_SPTR.HEAD 0) + 65536 - 6) % 65536)
    ∧ ((lost t5).takesIo (Adr.TLY_HWR_SPTR 0) = false)
    ∧ (t6.flag F.TLY_BW_CTL.EN = true
      ∧ t6.bwUs + t6.fld F.TLY_BW_CTL.WIN_US ≤ t6.time.us
      ∧ t6.domainOn 1 = true
      ∧ t6.mode ≠ Mode.off)
    ∧ ((t7.flag F.TLY_BW_CTL.EN = false ∨ t7.time.us < t7.bwUs + t7.fld F.TLY_BW_CTL.WIN_US ∨ t7.mode = Mode.off))
    ∧ (t8.domainOn 0 = true
      ∧ t8.hostReaches = true
      ∧ (t8.fn 0).power = 0
      ∧ (t8.fn 0).resetting = false
      ∧ 0 ≠ Adr.HEP_CTL
      ∧ t8.executesIo 0 = true
      ∧ (t8.hew 0).pl = 3)
    ∧ (t9.domainOn 0 = true
      ∧ t9.pwr.pllLocked = true
      ∧ t9.mode = Mode.configure
      ∧ 1 ≤ t9.fld F.CFG_BOOT_STATUS.STAGE
      ∧ t9.fld F.CFG_BOOT_STATUS.STAGE ≤ 6
      ∧ 0 ≠ Adr.HEP_CTL) :=
  by and_intros <;> decide +kernel

/-- The hypotheses of the clauses of `Obligations.AnemometerSamplesAndDrives` hold together, each group of one state. -/
theorem witness_AnemometerSamplesAndDrives :
    ((∀ (j : Nat), 4 < j → j < 16 → ({ n1 with anm := { n1.anm with lastStamp := Option.some (n1.fld F.ANM_AIN_PHASE.PHASE + (((n1.time.now - n1.fld F.ANM_AIN_PHASE.PHASE) / 16000 + 1) / n1.decim * n1.decim - 1) * 16000) } }.lodeSend (HoldItem.write { path := LodePath.anemometer, slot := bitsOf (BitVec.toNat (valueAt (n1.reg (Adr.LOD_ANM_MAP 4)) (n1.anm.maps.get [] 4) (n1.fld F.ANM_AIN_PHASE.PHASE + (((n1.time.now - n1.fld F.ANM_AIN_PHASE.PHASE) / 16000 + 1) / n1.decim * n1.decim - 1) * 16000))) (F.LOD_ANM_MAP.SLOT 4).hi (F.LOD_ANM_MAP.SLOT 4).lo, value := BitVec.ofInt 64 (anmCode (List.map (fun (c : List (BitVec 18)) => (c.getD 4 0).toInt) cv) n1.decim), kind := 1, quality := if anmSaturated (List.map (fun (c : List (BitVec 18)) => (c.getD 4 0).toInt) cv) = true then 256 + qOutOfRange else qGood, time := Option.some (n1.fld F.ANM_AIN_PHASE.PHASE + (((n1.time.now - n1.fld F.ANM_AIN_PHASE.PHASE) / 16000 + 1) / n1.decim * n1.decim - 1) * 16000), source := n1.source (1536 + 4), poison := false })).flag (F.ANM_AIN_CFG.EN j) = false)
      ∧ n1.anmRuns = true
      ∧ n1.flag F.ANM_STATUS.READY = true
      ∧ cv.length = n1.decim
      ∧ n1.fld F.ANM_AIN_PHASE.PHASE ≤ n1.time.now
      ∧ n1.decim ≤ (n1.time.now - n1.fld F.ANM_AIN_PHASE.PHASE) / 16000 + 1
      ∧ n1.anm.since ≤ n1.fld F.ANM_AIN_PHASE.PHASE + (((n1.time.now - n1.fld F.ANM_AIN_PHASE.PHASE) / 16000 + 1) / n1.decim - 1) * n1.decim * 16000
      ∧ n1.anm.lastStamp ≠ Option.some (n1.fld F.ANM_AIN_PHASE.PHASE + (((n1.time.now - n1.fld F.ANM_AIN_PHASE.PHASE) / 16000 + 1) / n1.decim * n1.decim - 1) * 16000)
      ∧ (∀ (j : Nat), j < 4 → n1.flag (F.ANM_AIN_CFG.EN j) = false)
      ∧ n1.flag (F.ANM_AIN_CFG.EN 4) = true
      ∧ n1.flag (F.ANM_AIN_CFG.FMT 4) = false
      ∧ bitOf (BitVec.toNat (valueAt (n1.reg (Adr.LOD_ANM_MAP 4)) (n1.anm.maps.get [] 4) (n1.fld F.ANM_AIN_PHASE.PHASE + (((n1.time.now - n1.fld F.ANM_AIN_PHASE.PHASE) / 16000 + 1) / n1.decim * n1.decim - 1) * 16000))) (F.LOD_ANM_MAP.EN 4).lo = true
      ∧ (List.filter (fun i => i.fromSource (n1.source (1536 + 4))) n1.lode.inq).length < 16
      ∧ (∀ (j : Nat), j < 16 → ({ n1 with anm := { n1.anm with lastStamp := Option.some (n1.fld F.ANM_AIN_PHASE.PHASE + (((n1.time.now - n1.fld F.ANM_AIN_PHASE.PHASE) / 16000 + 1) / n1.decim * n1.decim - 1) * 16000) } }.lodeSend (HoldItem.write { path := LodePath.anemometer, slot := bitsOf (BitVec.toNat (valueAt (n1.reg (Adr.LOD_ANM_MAP 4)) (n1.anm.maps.get [] 4) (n1.fld F.ANM_AIN_PHASE.PHASE + (((n1.time.now - n1.fld F.ANM_AIN_PHASE.PHASE) / 16000 + 1) / n1.decim * n1.decim - 1) * 16000))) (F.LOD_ANM_MAP.SLOT 4).hi (F.LOD_ANM_MAP.SLOT 4).lo, value := BitVec.ofInt 64 (anmCode (List.map (fun (c : List (BitVec 18)) => (c.getD 4 0).toInt) cv) n1.decim), kind := 1, quality := if anmSaturated (List.map (fun (c : List (BitVec 18)) => (c.getD 4 0).toInt) cv) = true then 256 + qOutOfRange else qGood, time := Option.some (n1.fld F.ANM_AIN_PHASE.PHASE + (((n1.time.now - n1.fld F.ANM_AIN_PHASE.PHASE) / 16000 + 1) / n1.decim * n1.decim - 1) * 16000), source := n1.source (1536 + 4), poison := false })).flag (F.ANM_ENC_CFG.EN j) = false))
    ∧ (n3.anmRuns = false)
    ∧ (n2.anmRuns = true
      ∧ n2.flag F.ANM_STATUS.READY = true
      ∧ cv.length = n2.decim
      ∧ n2.fld F.ANM_AIN_PHASE.PHASE ≤ n2.time.now
      ∧ n2.decim ≤ (n2.time.now - n2.fld F.ANM_AIN_PHASE.PHASE) / 16000 + 1
      ∧ n2.anm.since ≤ n2.fld F.ANM_AIN_PHASE.PHASE + (((n2.time.now - n2.fld F.ANM_AIN_PHASE.PHASE) / 16000 + 1) / n2.decim - 1) * n2.decim * 16000
      ∧ n2.anm.lastStamp = Option.some (n2.fld F.ANM_AIN_PHASE.PHASE + (((n2.time.now - n2.fld F.ANM_AIN_PHASE.PHASE) / 16000 + 1) / n2.decim * n2.decim - 1) * 16000))
    ∧ (e1.anmRuns = true
      ∧ e1.flag (F.ANM_ENC_CFG.EN 4) = true
      ∧ (e1.fld (F.ANM_ENC_CFG.ZMODE 4) ≠ 1 ∨ true = (e1.enc 4).z)
      ∧ ((quadPhase true true + 4 - quadPhase (e1.enc 4).a (e1.enc 4).b) % 4 = 0 ∨ (quadPhase true true + 4 - quadPhase (e1.enc 4).a (e1.enc 4).b) % 4 = 2)
      ∧ (quadPhase true true + 4 - quadPhase (e1.enc 4).a (e1.enc 4).b) % 4 = 2)
    ∧ (e1.anmRuns = true
      ∧ e1.flag (F.ANM_ENC_CFG.EN 4) = true
      ∧ (e1.fld (F.ANM_ENC_CFG.ZMODE 4) ≠ 1 ∨ true = (e1.enc 4).z)
      ∧ (quadPhase true false + 4 - quadPhase (e1.enc 4).a (e1.enc 4).b) % 4 = 1
      ∧ e1.flag (F.ANM_ENC_CFG.DIR 4) = false)
    ∧ (e1.anmRuns = true
      ∧ e1.flag (F.ANM_ENC_CFG.EN 4) = true
      ∧ (e1.fld (F.ANM_ENC_CFG.ZMODE 4) ≠ 1 ∨ true = (e1.enc 4).z)
      ∧ (quadPhase false true + 4 - quadPhase (e1.enc 4).a (e1.enc 4).b) % 4 = 3
      ∧ e1.flag (F.ANM_ENC_CFG.DIR 4) = false)
    ∧ (e2.anmRuns = true
      ∧ e2.flag (F.ANM_ENC_CFG.EN 4) = true
      ∧ e2.fld (F.ANM_ENC_CFG.ZMODE 4) = 1
      ∧ (e2.enc 4).z = false)
    ∧ (e2.anmRuns = true
      ∧ e2.flag (F.ANM_ENC_CFG.EN 4) = true
      ∧ (e2.fld (F.ANM_ENC_CFG.ZMODE 4) ≠ 1 ∨ false = (e2.enc 4).z)
      ∧ (quadPhase true false + 4 - quadPhase (e2.enc 4).a (e2.enc 4).b) % 4 = 1
      ∧ e2.flag (F.ANM_ENC_CFG.DIR 4) = true)
    ∧ (e2.anmRuns = true
      ∧ e2.flag (F.ANM_ENC_CFG.EN 4) = true
      ∧ (e2.fld (F.ANM_ENC_CFG.ZMODE 4) ≠ 1 ∨ false = (e2.enc 4).z)
      ∧ (quadPhase false true + 4 - quadPhase (e2.enc 4).a (e2.enc 4).b) % 4 = 3
      ∧ e2.flag (F.ANM_ENC_CFG.DIR 4) = true)
    ∧ (d1.anmRuns = true
      ∧ d1.anm.levels.contains 9 ≠ (true != d1.flag (F.ANM_DIO_CFG.INV 9))
      ∧ d1.flag (F.ANM_DIO_CFG.EN 9) = true
      ∧ d1.flag (F.ANM_DIO_CFG.DIR 9) = false
      ∧ d1.fld (F.ANM_DIO_CFG.EDGE 9) = 0
      ∧ bitOf (BitVec.toNat (valueAt (d1.reg (Adr.LOD_ANM_MAP (32 + 9))) (d1.anm.maps.get [] (32 + 9)) (d1.timeBefore (d1.fld (F.ANM_DIO_CFG.FILT 9))))) (F.LOD_ANM_MAP.EN (32 + 9)).lo = true
      ∧ (List.filter (fun i => i.fromSource (d1.source (1568 + 9))) d1.lode.inq).length < 16)
    ∧ (d1.anmRuns = true
      ∧ (d1.anm.levels.contains 9 = (false != d1.flag (F.ANM_DIO_CFG.INV 9)) ∨ d1.flag (F.ANM_DIO_CFG.EN 9) = false ∨ d1.flag (F.ANM_DIO_CFG.DIR 9) = true))
    ∧ (w1.outAction 5 = Option.some (3, 129, 200000)
      ∧ 200000 ≤ w1.time.now + w1.fld F.LOD_EGRESS_LEAD.LEAD
      ∧ w1.anmRuns = true
      ∧ (w1.anm.reads.any fun r => decide (r.unit = 5) && decide (r.inst = 200000)) = false)
    ∧ (w2.outAction 5 = Option.some (3, 129, 20000000)
      ∧ w2.time.now + w2.fld F.LOD_EGRESS_LEAD.LEAD < 20000000)
    ∧ (w3.outAction 5 = Option.some (3, 129, 200000)
      ∧ (w3.anm.reads.any fun r => decide (r.unit = 5) && decide (r.inst = 200000)) = true)
    ∧ (n1.outAction 5 = Option.none)
    ∧ (w4.anmRuns = true
      ∧ w4.flag F.ANM_STATUS.READY = true)
    ∧ ((w4.setFld F.ANM_STATUS.READY 0).anmRuns = true
      ∧ (w4.setFld F.ANM_STATUS.READY 0).flag F.ANM_STATUS.READY = false
      ∧ 0 ≠ Adr.ANM_STATUS) :=
  ⟨⟨by intro j h1 h2; interval_cases j <;> decide +kernel, by decide +kernel⟩,
    by and_intros <;> decide +kernel⟩

end AnemometerW

namespace DebugW

def md (m : Mode) (f : State → State) : State := f (inMode m (hw id))
def ses (path level : Nat) (ok : Nat) (s : State) : State := s.setFld F.DBG_SESSION.PATH path |>.setFld F.DBG_SESSION.LEVEL level |>.setFld F.DBG_SESSION.RUN_OK ok |>.raise F.HEP_STATUS.LINK_UP |>.raise F.DBG_CTL.PF_EN
def scan (b : Bool) (s : State) : State := {s with dbg := {s.dbg with scanEn := b, scan := some 3, ir := 5}}
def j1 := scan false (md .configure id)
def j2 := scan true (md .configure (fun s => s.setFld F.PWR_DOM_REQ.REQ 0x7FDFF))
def j3 := md .off id
def pth (sp ad wd : Nat) (s : State) : State := {s with dbg := {s.dbg with jtag := ⟨sp,ad,0,wd,7,7⟩, pf := ⟨sp,ad,0,wd,7,7⟩}}
def base (m : Mode) (path level : Nat) (f : State → State) : State := f (pth 0 0x10008 3 (ses path level 0 (md m (fun s => s.rawWrite 0x10004 [1,2,3,4,5,6,7,8,9,10,11,12,13,14,15]))))
def s1 (p) := base .run p 2 id
def s2 (p) := base .run p 1 (fun s => s.raise (F.DBG_HWR_VT_STAT.TX_FULL 3) |>.setFld (F.DBG_HWR_VTX.DATA 3) 0x1234 |>.raise (F.DBG_HWR_VT_STAT.RX_FULL 3))
def s3 (p) := base .configure p 0 (fun s => s.raise F.DBG_SESSION.LOCKOUT)
def s6 (p : Nat) := {(base .run p 2 id) with mem := {(base .run p 2 id).mem with poison := [0x800]}}
def K : DbgKey := {pub := [], device := none, maxLevel := 2, runOk := true, notAfter := 0}
def u (chal : Bool) (ub : Nat) (fails : Nat) : State := let s := base .run 0 0 (fun s => s.raise F.DBG_AUTH_CTL.BUSY |>.setFld F.CFG_BOOT_STATUS.UNBOUND ub |>.setFld F.DBG_SESSION.FAILS fails |>.setFld F.DBG_AUTH_CTL.LEVEL 1); {s with dbg := {s.dbg with chal := chal, verifyPath := 2, keys := []}}
def u1 := u true 1 3
def u3 := u false 0 2
def u5 := (base .run 0 0 id).raise F.DBG_SESSION.LOCKOUT |>.raise F.DBG_RKP_CTL.BUSY |>.setReg (Adr.DBG_RKP_DATA 5) 77
def u6 := {u5 with time := {u5.time with us := 60000000}}
def u7 : State := let s := u true 0 1; {s with dbg := {s.dbg with keys := [(0, K)]}}
def s7 := let s := s6 1; {s with pwr := {s.pwr with pllLocked := false}}

/-- The hypotheses of the clauses of `Obligations.DebugPathsAndSession` hold together, each group of one state. -/
theorem witness_DebugPathsAndSession :
    ((s1 2).Canonical
      ∧ (s1 2).domainOn 10 = true
      ∧ (s1 2).mode ≠ Mode.off
      ∧ (s1 2).dbg.readPath = Option.none
      ∧ (match DbgPath.pf with | DbgPath.jtag => True | DbgPath.pf => (s1 2).pfPathOpen = true ∧ (s1 2).flag F.HEP_SCS_CMD.BUSY = false ∧ (s1 2).flag F.DBG_CTL.PF_EN = true)
      ∧ (s1 2).fld F.DBG_SESSION.PATH = pathCode DbgPath.pf
      ∧ 1 ≤ (s1 2).fld F.DBG_SESSION.LEVEL
      ∧ ((s1 2).scsPath DbgPath.pf).space = 0
      ∧ (s1 2).areaOf ((s1 2).scsPath DbgPath.pf).addr = 1
      ∧ ((s1 2).scsPath DbgPath.pf).addr % 2 ^ ((s1 2).scsPath DbgPath.pf).width = 0
      ∧ 2 ^ ((s1 2).scsPath DbgPath.pf).width ≤ 8
      ∧ (s1 2).pwr.pllLocked = true
      ∧ (s1 2).channelOn ((s1 2).channelOf ((s1 2).scsPath DbgPath.pf).addr) = true
      ∧ 2 ≤ (s1 2).fld F.DBG_SESSION.LEVEL
      ∧ 0 < 2 ^ ((s1 2).scsPath DbgPath.pf).width
      ∧ (0 < ((s1 2).scsPath DbgPath.pf).addr ∨ ((s1 2).scsPath DbgPath.pf).addr + 2 ^ ((s1 2).scsPath DbgPath.pf).width ≤ 0)
      ∧ (s1 2).flag (F.DBG_HWR_VT_STAT.RX_FULL 3) = false
      ∧ (∀ (j : Nat), j < 512 → ((s1 2).hew j).halted = false)
      ∧ ((s1 2).fld F.DBG_SESSION.PATH = 0 ∨ (s1 2).fld F.DBG_SESSION.PATH = pathCode DbgPath.pf)
      ∧ (s1 2).flag F.DBG_AUTH_CTL.BUSY = false
      ∧ (s1 2).flag F.DBG_SESSION.LOCKOUT = false
      ∧ (23781 ≠ 23781 ∨ (s1 2).mode ≠ Mode.configure ∨ (s1 2).rootKeyEmpty = false))
    ∧ (j1.mode ≠ Mode.off
      ∧ j1.dbg.scanEn = false
      ∧ j1.flag F.PWR_STATUS.BUSY = false
      ∧ (j1.fld F.PWR_DOM_REQ.REQ).testBit 9 = false
      ∧ j1.fld F.DBG_SESSION.PATH ≠ 1)
    ∧ (j2.mode ≠ Mode.off
      ∧ j2.dbg.scanEn = true)
    ∧ (j3.mode = Mode.off)
    ∧ ((s1 1).domainOn 10 = true
      ∧ (s1 1).mode ≠ Mode.off
      ∧ (s1 1).dbg.readPath = Option.none
      ∧ (match DbgPath.pf with | DbgPath.jtag => True | DbgPath.pf => (s1 1).pfPathOpen = true ∧ (s1 1).flag F.HEP_SCS_CMD.BUSY = false ∧ (s1 1).flag F.DBG_CTL.PF_EN = true)
      ∧ bitsOf 65535 63 62 = 0
      ∧ (s1 1).fld F.DBG_SESSION.PATH ≠ 0
      ∧ (¬(s1 1).fld F.DBG_SESSION.PATH = pathCode DbgPath.pf)
      ∧ ((s1 1).scsPath DbgPath.pf).space = 0)
    ∧ (s7.domainOn 10 = true
      ∧ s7.mode ≠ Mode.off
      ∧ s7.dbg.readPath = Option.none
      ∧ (match DbgPath.jtag with | DbgPath.jtag => True | DbgPath.pf => s7.pfPathOpen = true ∧ s7.flag F.HEP_SCS_CMD.BUSY = false ∧ s7.flag F.DBG_CTL.PF_EN = true)
      ∧ bitsOf 13835058055587583608 63 62 = 3
      ∧ s7.fld F.DBG_SESSION.PATH = pathCode DbgPath.jtag
      ∧ 1 ≤ s7.fld F.DBG_SESSION.LEVEL
      ∧ s7.pwr.pllLocked = false
      ∧ (s7.scsPath DbgPath.jtag).space = 0
      ∧ s7.areaOf (s7.scsPath DbgPath.jtag).addr = 1
      ∧ (s7.scsPath DbgPath.jtag).addr % 2 ^ (s7.scsPath DbgPath.jtag).width = 0)
    ∧ ((s2 2).domainOn 10 = true
      ∧ (s2 2).mode ≠ Mode.off
      ∧ (s2 2).dbg.readPath = Option.none
      ∧ (match DbgPath.pf with | DbgPath.jtag => True | DbgPath.pf => (s2 2).pfPathOpen = true ∧ (s2 2).flag F.HEP_SCS_CMD.BUSY = false ∧ (s2 2).flag F.DBG_CTL.PF_EN = true)
      ∧ ((s2 2).fld F.DBG_SESSION.PATH = 0 ∨ (s2 2).fld F.DBG_SESSION.PATH = pathCode DbgPath.pf ∧ (s2 2).fld F.DBG_SESSION.LEVEL < 2)
      ∧ ((s2 2).scsPath DbgPath.pf).space = 0
      ∧ (s2 2).fld F.DBG_SESSION.PATH = pathCode DbgPath.pf
      ∧ 1 ≤ (s2 2).fld F.DBG_SESSION.LEVEL
      ∧ (s2 2).flag (F.DBG_HWR_VT_STAT.RX_FULL 3) = true)
    ∧ ((s3 2).domainOn 10 = true
      ∧ (s3 2).mode ≠ Mode.off
      ∧ (s3 2).dbg.readPath = Option.none
      ∧ (match DbgPath.pf with | DbgPath.jtag => True | DbgPath.pf => (s3 2).pfPathOpen = true ∧ (s3 2).flag F.HEP_SCS_CMD.BUSY = false ∧ (s3 2).flag F.DBG_CTL.PF_EN = true)
      ∧ ((s3 2).fld F.DBG_SESSION.PATH = 0 ∨ (s3 2).fld F.DBG_SESSION.PATH = pathCode DbgPath.pf ∧ (s3 2).fld F.DBG_SESSION.LEVEL = 0)
      ∧ ((s3 2).scsPath DbgPath.pf).space = 0
      ∧ ((s3 2).fld F.DBG_SESSION.PATH = 0 ∨ (s3 2).fld F.DBG_SESSION.PATH = pathCode DbgPath.pf)
      ∧ (s3 2).flag F.DBG_AUTH_CTL.BUSY = false
      ∧ (s3 2).flag F.DBG_SESSION.LOCKOUT = true
      ∧ (s3 2).mode = Mode.configure
      ∧ (s3 2).rootKeyEmpty = true
      ∧ (s3 2).flag F.DBG_RKP_CTL.BUSY = false)
    ∧ (u1.flag F.DBG_AUTH_CTL.BUSY = true
      ∧ u1.dbg.chal = true
      ∧ u1.flag F.CFG_BOOT_STATUS.UNBOUND = true
      ∧ u1.time.us < u1.dbg.lockUs + 60000000
      ∧ u1.flag F.DBG_RKP_CTL.BUSY = false)
    ∧ (u3.flag F.DBG_AUTH_CTL.BUSY = true
      ∧ (u3.dbg.chal = false ∨ u3.flag F.CFG_BOOT_STATUS.UNBOUND = false ∧ u3.authKey = Option.none)
      ∧ 2 ≤ u3.fld F.DBG_SESSION.FAILS)
    ∧ (u5.flag F.DBG_AUTH_CTL.BUSY = false
      ∧ u5.flag F.DBG_RKP_CTL.BUSY = true)
    ∧ (u6.flag F.DBG_SESSION.LOCKOUT = true
      ∧ u6.dbg.lockUs + 60000000 ≤ u6.time.us)
    ∧ (u7.flag F.DBG_AUTH_CTL.BUSY = true
      ∧ u7.dbg.chal = true
      ∧ u7.flag F.CFG_BOOT_STATUS.UNBOUND = false
      ∧ u7.authKey = Option.some K
      ∧ K.device = Option.none
      ∧ u7.fld F.DBG_AUTH_CTL.LEVEL ≤ 2
      ∧ u7.fld F.DBG_AUTH_CTL.LEVEL ≤ ↑K.maxLevel
      ∧ u7.keyInTime K = true) :=
  ⟨⟨canonical_of_ok (by decide +kernel), by decide +kernel⟩,
    by and_intros <;> decide +kernel⟩

end DebugW

namespace RunControlW

def md (m : Mode) (f : State → State) : State := f (inMode m (hw id))
def ses (path level : Nat) (ok : Nat) (s : State) : State := s.setFld F.DBG_SESSION.PATH path |>.setFld F.DBG_SESSION.LEVEL level |>.setFld F.DBG_SESSION.RUN_OK ok |>.raise F.HEP_STATUS.LINK_UP |>.raise F.DBG_CTL.PF_EN
def rc (m : Mode) (p ok : Nat) (f : Hewer → Hewer) : State := 
  let s := (md m (ses p 2 ok))
  {s with hewers := [(3, f {(s.hew 0) with haltReq := none}), (4, {s.hew 0 with haltReq := some 2}), (9, s.hew 0), (12, {s.hew 0 with halted := true})]}
def h1 (m p ok) := rc m p ok id
def h2 (m p ok) := rc m p ok (fun x => {x with halted := true, cycHold := some 5, pc := 0x40})
def h3 (m p ok) := rc m p ok (fun x => {x with halted := true, bodyFrozen := true})
def h4 (m p ok) := rc m p ok (fun x => {x with checkStopped := true, pc := 0x44})
def g (m : Mode) (f : Hewer → Hewer) : State := rc m 1 0 (fun x => f {x with haltReq := some 7, resv := some 5, pc := 0x80})
def g1 := g .configure id
def g3 := g .configure (fun x => {x with mcheck := true})
def g4 := {g3 with pwr := {g3.pwr with pllLocked := false}}

/-- The hypotheses of the clauses of `Obligations.RunControlOfHewers` hold together, each group of one state. -/
theorem witness_RunControlOfHewers :
    ((h1 Mode.run 2 1).domainOn 10 = true
      ∧ (h1 Mode.run 2 1).mode ≠ Mode.off
      ∧ (match DbgPath.pf with | DbgPath.jtag => True | DbgPath.pf => (h1 Mode.run 2 1).pfPathOpen = true ∧ (h1 Mode.run 2 1).flag F.DBG_CTL.PF_EN = true)
      ∧ (h1 Mode.run 2 1).fld F.DBG_SESSION.PATH = pathCode DbgPath.pf
      ∧ 2 ≤ (h1 Mode.run 2 1).fld F.DBG_SESSION.LEVEL
      ∧ ((h1 Mode.run 2 1).mode ≠ Mode.run ∧ (h1 Mode.run 2 1).mode ≠ Mode.degraded ∨ (h1 Mode.run 2 1).flag F.DBG_SESSION.RUN_OK = true)
      ∧ (h1 Mode.run 2 1).removed 3 = false
      ∧ ((h1 Mode.run 2 1).hew 3).checkStopped = false
      ∧ ((h1 Mode.run 2 1).hew 3).halted = false
      ∧ (h1 Mode.run 2 1).domainOn (shaftDomain 3) = true
      ∧ ((h1 Mode.run 2 1).hew 3).started = true
      ∧ (true = true ∨ 3 / 8 = 0)
      ∧ (¬((12 < 512 ∧ (true = true ∨ 12 / 8 = 0)) ∧ (h1 Mode.run 2 1).removed 12 = false ∧ ((h1 Mode.run 2 1).hew 12).checkStopped = false ∧ ((h1 Mode.run 2 1).hew 12).halted = false ∧ (h1 Mode.run 2 1).domainOn (shaftDomain 12) = true ∧ ((h1 Mode.run 2 1).hew 12).started = true)))
    ∧ ((h1 Mode.safeHold 2 0).domainOn 10 = true
      ∧ (h1 Mode.safeHold 2 0).mode ≠ Mode.off
      ∧ (match DbgPath.pf with | DbgPath.jtag => True | DbgPath.pf => (h1 Mode.safeHold 2 0).pfPathOpen = true ∧ (h1 Mode.safeHold 2 0).flag F.DBG_CTL.PF_EN = true)
      ∧ (h1 Mode.safeHold 2 0).fld F.DBG_SESSION.PATH = pathCode DbgPath.pf
      ∧ 2 ≤ (h1 Mode.safeHold 2 0).fld F.DBG_SESSION.LEVEL
      ∧ (h1 Mode.safeHold 2 0).mode.service = false
      ∧ (∀ (j : Nat), j < 512 → true = true ∨ j / 8 = 0 → ((h1 Mode.safeHold 2 0).hew j).bodyFrozen = false ∧ ((h1 Mode.safeHold 2 0).hew j).forced = false)
      ∧ (true = true ∨ 3 / 8 = 0)
      ∧ (¬(600 < 512 ∧ (true = true ∨ 600 / 8 = 0))))
    ∧ ((h1 Mode.run 2 0).domainOn 10 = true
      ∧ (h1 Mode.run 2 0).mode ≠ Mode.off
      ∧ (match DbgPath.pf with | DbgPath.jtag => True | DbgPath.pf => (h1 Mode.run 2 0).pfPathOpen = true ∧ (h1 Mode.run 2 0).flag F.DBG_CTL.PF_EN = true)
      ∧ (h1 Mode.run 2 0).fld F.DBG_SESSION.PATH = pathCode DbgPath.pf
      ∧ 2 ≤ (h1 Mode.run 2 0).fld F.DBG_SESSION.LEVEL
      ∧ (¬((h1 Mode.run 2 0).mode ≠ Mode.run ∧ (h1 Mode.run 2 0).mode ≠ Mode.degraded ∨ (h1 Mode.run 2 0).flag F.DBG_SESSION.RUN_OK = true)))
    ∧ ((h2 Mode.run 2 1).domainOn 10 = true
      ∧ (h2 Mode.run 2 1).mode ≠ Mode.off
      ∧ (match DbgPath.pf with | DbgPath.jtag => True | DbgPath.pf => (h2 Mode.run 2 1).pfPathOpen = true ∧ (h2 Mode.run 2 1).flag F.DBG_CTL.PF_EN = true)
      ∧ (h2 Mode.run 2 1).fld F.DBG_SESSION.PATH = pathCode DbgPath.pf
      ∧ 2 ≤ (h2 Mode.run 2 1).fld F.DBG_SESSION.LEVEL
      ∧ ((h2 Mode.run 2 1).mode ≠ Mode.run ∧ (h2 Mode.run 2 1).mode ≠ Mode.degraded ∨ (h2 Mode.run 2 1).flag F.DBG_SESSION.RUN_OK = true)
      ∧ (¬((h2 Mode.run 2 1).removed 3 = false ∧ ((h2 Mode.run 2 1).hew 3).checkStopped = false ∧ ((h2 Mode.run 2 1).hew 3).halted = false ∧ (h2 Mode.run 2 1).domainOn (shaftDomain 3) = true ∧ ((h2 Mode.run 2 1).hew 3).started = true))
      ∧ ((h2 Mode.run 2 1).hew 3).halted = true
      ∧ ((h2 Mode.run 2 1).hew 3).bodyFrozen = false)
    ∧ ((h2 Mode.safeHold 2 0).domainOn 10 = true
      ∧ (h2 Mode.safeHold 2 0).mode ≠ Mode.off
      ∧ (match DbgPath.pf with | DbgPath.jtag => True | DbgPath.pf => (h2 Mode.safeHold 2 0).pfPathOpen = true ∧ (h2 Mode.safeHold 2 0).flag F.DBG_CTL.PF_EN = true)
      ∧ (h2 Mode.safeHold 2 0).fld F.DBG_SESSION.PATH = pathCode DbgPath.pf
      ∧ 2 ≤ (h2 Mode.safeHold 2 0).fld F.DBG_SESSION.LEVEL
      ∧ (h2 Mode.safeHold 2 0).mode.service = false
      ∧ ((h2 Mode.safeHold 2 0).hew 3).halted = true
      ∧ ((h2 Mode.safeHold 2 0).hew 3).bodyFrozen = false
      ∧ ((h2 Mode.safeHold 2 0).hew 3).forced = false)
    ∧ ((h3 Mode.run 2 0).domainOn 10 = true
      ∧ (h3 Mode.run 2 0).mode ≠ Mode.off
      ∧ (match DbgPath.pf with | DbgPath.jtag => True | DbgPath.pf => (h3 Mode.run 2 0).pfPathOpen = true ∧ (h3 Mode.run 2 0).flag F.DBG_CTL.PF_EN = true)
      ∧ (h3 Mode.run 2 0).fld F.DBG_SESSION.PATH = pathCode DbgPath.pf
      ∧ 2 ≤ (h3 Mode.run 2 0).fld F.DBG_SESSION.LEVEL
      ∧ ((h3 Mode.run 2 0).hew 3).halted = true
      ∧ ((h3 Mode.run 2 0).hew 3).bodyFrozen = true)
    ∧ ((h4 Mode.run 2 1).domainOn 10 = true
      ∧ (h4 Mode.run 2 1).mode ≠ Mode.off
      ∧ (match DbgPath.pf with | DbgPath.jtag => True | DbgPath.pf => (h4 Mode.run 2 1).pfPathOpen = true ∧ (h4 Mode.run 2 1).flag F.DBG_CTL.PF_EN = true)
      ∧ (h4 Mode.run 2 1).fld F.DBG_SESSION.PATH = pathCode DbgPath.pf
      ∧ 2 ≤ (h4 Mode.run 2 1).fld F.DBG_SESSION.LEVEL
      ∧ ((h4 Mode.run 2 1).mode ≠ Mode.run ∧ (h4 Mode.run 2 1).mode ≠ Mode.degraded ∨ (h4 Mode.run 2 1).flag F.DBG_SESSION.RUN_OK = true)
      ∧ ((h4 Mode.run 2 1).hew 3).checkStopped = true)
    ∧ ((g1.hew 3).haltReq = Option.some 7
      ∧ g1.haltDue 3 = true
      ∧ (g1.hew 3).body = Option.none
      ∧ g1.mode.service = false
      ∧ (g1.twin (g1.twinOf 3)).sbuf = [])
    ∧ (g3.haltDue 3 = false)
    ∧ ((g3.hew 9).haltReq = Option.none)
    ∧ (g3.executesIo 9 = true
      ∧ (g3.hew 9).pl ≠ 0
      ∧ g3.domainOn 10 = true
      ∧ g3.flag (F.DBG_HWR_VT_STAT.TX_FULL 9) = false)
    ∧ ((g3.raise (F.DBG_HWR_VT_STAT.TX_FULL 9)).executesIo 9 = true
      ∧ ((g3.raise (F.DBG_HWR_VT_STAT.TX_FULL 9)).hew 9).pl ≠ 0
      ∧ (g3.raise (F.DBG_HWR_VT_STAT.TX_FULL 9)).domainOn 10 = true
      ∧ (g3.raise (F.DBG_HWR_VT_STAT.TX_FULL 9)).flag (F.DBG_HWR_VT_STAT.TX_FULL 9) = true)
    ∧ (g4.executesIo 9 = false) :=
  by and_intros <;> decide +kernel

end RunControlW

end Sys2Proof.Tests
end

/-!
PROOFS. The clock root, the power domains and the core clocks (R31, R32, R748 to R754): what the field reads of Laws/Bits give
for the registers concerned, what each operation of Machine/Power leaves alone, and the settled statement.
-/
namespace Sys2Proof

/-- A filter that keeps every entry of a key leaves what the key reads. -/
theorem Table.get_filter_of_keeps {α : Type} (t : Table α) (d : α) (p : Nat × α → Bool) (k : Nat)
    (h : ∀ v, p (k, v) = true) : Table.get (t.filter p) d k = t.get d k := by
  induction t with
  | nil => rfl
  | cons e r ih =>
    obtain ⟨j, v⟩ := e
    by_cases hj : j = k
    · subst hj
      rw [List.filter_cons_of_pos (h v)]
      simp [Table.get]
    · rw [List.filter_cons]
      split
      · simp only [Table.get, if_neg hj, ih]
      · simp only [Table.get, if_neg hj, ih]

end Sys2Proof

namespace Sys2Proof.Machine

/-! ### Reads and folds -/

theorem State.fld_of_reg {s t : State} {f : IoField} (h : t.reg f.addr = s.reg f.addr) : t.fld f = s.fld f := by
  unfold State.fld
  rw [h]

theorem State.flag_of_reg {s t : State} {f : IoField} (h : t.reg f.addr = s.reg f.addr) : t.flag f = s.flag f := by
  unfold State.flag
  rw [State.fld_of_reg h]

theorem State.reg_of_regs {s t : State} (h : t.regs = s.regs) (a : Nat) : t.reg a = s.reg a := by
  unfold State.reg
  rw [h]

/-- A field of the register table lies in its register; the bounds are numerals, whatever index the register has. -/
theorem IoField.fits {f : IoField} (h : decide (f.lo ≤ f.hi ∧ f.hi < 64) = true := by rfl) : f.ok :=
  (of_decide_eq_true h : f.lo ≤ f.hi ∧ f.hi < 64)

theorem State.flag_setFld_zero (s : State) (f : IoField) (h : f.ok) : (s.setFld f 0).flag f = false := by
  unfold State.flag
  rw [State.fld_setFld_same s f 0 h, Nat.zero_mod]
  rfl

theorem State.flag_setFld_other (s : State) (f g : IoField) (v : Nat) (h : f.ok)
    (hd : g.addr ≠ f.addr ∨ f.hi < g.lo ∨ g.hi < f.lo) : (s.setFld f v).flag g = s.flag g := by
  unfold State.flag
  rw [State.fld_setFld_other s f g v h hd]

/-- What every step of a fold leaves alone, the fold leaves alone. -/
theorem foldl_leaves {β γ : Type} (g : State → γ) (f : State → β → State) (hf : ∀ t x, g (f t x) = g t) (l : List β)
    (s : State) : g (l.foldl f s) = g s := by
  induction l generalizing s with
  | nil => rfl
  | cons x r ih => exact (ih (f s x)).trans (hf s x)

/-- Where the step at `j` brings about `P` of `j` and undoes it for no other, the fold brings it about for every member of its
list. -/
theorem foldl_brings {β : Type} (P : State → β → Prop) (f : State → β → State)
    (hf : ∀ t j k, k = j ∨ P t k → P (f t j) k) (l : List β) (s : State) (k : β) (h : k ∈ l ∨ P s k) :
    P (l.foldl f s) k := by
  induction l generalizing s with
  | nil => exact h.resolve_left List.not_mem_nil
  | cons j r ih =>
    apply ih
    rcases h with h | h
    · rcases List.mem_cons.mp h with h | h
      · exact .inr (hf s j k (.inl h))
      · exact .inl h
    · exact .inr (hf s j k (.inr h))

/-- In a rising list the first match is the lowest one. -/
theorem find?_lowest {l : List Nat} {p : Nat → Bool} {d : Nat} (hs : l.Pairwise (· < ·)) (hd : d ∈ l) (hp : p d = true)
    (hl : ∀ e ∈ l, e < d → p e = false) : l.find? p = some d := by
  induction l with
  | nil => exact absurd hd List.not_mem_nil
  | cons x r ih =>
    obtain ⟨hx, hr⟩ := List.pairwise_cons.mp hs
    rcases List.mem_cons.mp hd with rfl | hd
    · exact List.find?_cons_of_pos hp
    · have hpx : p x = false := hl x List.mem_cons_self (hx d hd)
      rw [List.find?_cons_of_neg (by simp [hpx])]
      exact ih hr hd (fun e he => hl e (List.mem_cons_of_mem x he))

/-! ### The power state that a fault record leaves alone -/

@[simp] theorem State.stamp_pwr (s : State) (loc : Nat) : (s.stamp loc).2.pwr = s.pwr := rfl

@[simp] theorem State.rawWrite_pwr (s : State) (a : Nat) (l : List Byte) : (s.rawWrite a l).pwr = s.pwr := by
  obtain ⟨b, hb⟩ := State.rawWrite_rest s a l
  rw [hb]

@[simp] theorem State.dmaWrite_pwr (s : State) (a : Nat) (l : List Byte) : (s.dmaWrite a l).pwr = s.pwr := by
  simp [State.dmaWrite, State.dmaWriteBy, State.clearResv]

@[simp] theorem State.setPba_pwr (s : State) (f vec : Nat) (on : Bool) : (s.setPba f vec on).pwr = s.pwr := by
  unfold State.setPba
  split <;> rfl

@[simp] theorem State.sendMsix_pwr (s : State) (f vec : Nat) : (s.sendMsix f vec).pwr = s.pwr := by
  unfold State.sendMsix
  simp only
  split
  · rfl
  · split
    · split <;> simp
    · split
      · rfl
      · split <;> simp

@[simp] theorem State.notify_pwr (s : State) (bits : Nat) : (s.notify bits).pwr = s.pwr := by
  unfold State.notify
  simp only
  split <;> simp

@[simp] theorem State.bufferRecord_pwr (s : State) (r : FaultRec) : (s.bufferRecord r).pwr = s.pwr := by
  unfold State.bufferRecord
  split <;> rfl

@[simp] theorem State.logRecord_pwr (s : State) (r : FaultRec) : (s.logRecord r).pwr = s.pwr := by
  unfold State.logRecord
  split
  · rfl
  · simp only
    split
    · simp [State.logWrite]
    · simp

@[simp] theorem State.log_pwr (s : State) (loc code detail cls dw2 dw3 : Nat) :
    (s.log loc code detail cls dw2 dw3).pwr = s.pwr := by
  simp [State.log, State.logAt]

/-! ### The root PLL and REFCLK (R31, R54, R838) -/

theorem State.memStops_d3 (s : State) : s.memStops.flag F.MEM_STATUS.D3_READY = false := by
  unfold State.memStops
  rw [State.flag_setFld_other _ _ _ _ IoField.fits (by decide)]
  exact State.flag_setFld_zero _ _ IoField.fits

theorem State.memStops_d4 (s : State) : s.memStops.flag F.MEM_STATUS.D4_READY = false :=
  State.flag_setFld_zero _ _ IoField.fits

theorem State.clockLost_regs (s : State) (why : Nat) (h : s.pwr.pllLocked = true) :
    ∃ u : State, (s.clockLost why).regs = u.memStops.regs :=
  ⟨((s.log 0xF00 0x12 why 0 0 (why * 2 ^ 40)).safeHold 2).syncLost, by unfold State.clockLost; simp only [h, if_true]⟩

/-- MCLK stops with the root PLL: neither memory domain is ready (R838). -/
theorem State.clockLost_not_ready (s : State) (why : Nat) (h : s.pwr.pllLocked = true) :
    (s.clockLost why).flag F.MEM_STATUS.D3_READY = false ∧ (s.clockLost why).flag F.MEM_STATUS.D4_READY = false := by
  obtain ⟨u, hu⟩ := s.clockLost_regs why h
  exact ⟨(State.flag_of_reg (State.reg_of_regs hu _)).trans u.memStops_d3,
    (State.flag_of_reg (State.reg_of_regs hu _)).trans u.memStops_d4⟩

theorem rootPllLossOfLock_of_locked {s : State} (hm : s.mode ≠ .off) (hl : s.pwr.pllLocked = true) :
    exec .rootPllLossOfLock s = .next (s.clockLost 1) := by
  show execRootPllLossOfLock s = _
  simp [execRootPllLossOfLock, done, hm, hl]

theorem rootPllLossOfLock_idle {s : State} (h : s.mode = .off ∨ s.pwr.pllLocked = false) :
    exec .rootPllLossOfLock s = .next s := by
  show execRootPllLossOfLock s = _
  rcases h with h | h <;> simp [execRootPllLossOfLock, done, h]

theorem refclkStop_of_running {s : State} (hm : s.mode ≠ .off) (hr : s.pwr.refclk = true) :
    exec .refclkStop s = .next { (s.clockLost 2).dramGone with pwr := { (s.clockLost 2).pwr with refclk := false } } := by
  show execRefclkStop s = _
  simp [execRefclkStop, done, hm, hr, State.dramGone]

theorem refclkStop_idle {s : State} (h : s.mode = .off ∨ s.pwr.refclk = false) : exec .refclkStop s = .next s := by
  show execRefclkStop s = _
  rcases h with h | h <;> simp [execRefclkStop, done, h]

@[simp] theorem State.showThrottles_pwr (s : State) (c : Nat) : (s.showThrottles c).pwr = s.pwr := rfl

@[simp] theorem State.draw_pwr (s : State) : s.draw.2.pwr = s.pwr := rfl

@[simp] theorem State.trainChannels_pwr (s : State) (fails n c : Nat) : (s.trainChannels fails n c).pwr = s.pwr := by
  induction n generalizing s c with
  | zero => rfl
  | succ k ih =>
    rw [State.trainChannels]
    simp only
    rw [ih, State.setDchan_pwr]
    split
    · rw [State.raise_pwr, State.setReg_pwr, State.draw_pwr, State.showThrottles_pwr, State.setFld_pwr, State.setFld_pwr,
        State.setFld_pwr, State.setDchan_pwr]
    · rw [State.log_pwr, State.raise_pwr, State.setFld_pwr, State.showThrottles_pwr, State.setFld_pwr, State.setFld_pwr,
        State.setFld_pwr, State.setDchan_pwr]

@[simp] theorem State.trainDomain_pwr (s : State) (d4 : Bool) (fails : Nat) : (s.trainDomain d4 fails).pwr = s.pwr := by
  cases d4 <;> simp [State.trainDomain]

@[simp] theorem State.forceHewers_pwr (s : State) : s.forceHewers.pwr = s.pwr := rfl

/-- The state in which the clocks run again, with the channels in self-refresh retrained. -/
def State.retrained (s : State) (fails : Nat) : State :=
  let s2 := if s.domainOn 3 && s.inSelfRefresh 16 0 then s.trainDomain false fails else s
  if s2.domainOn 4 && s2.inSelfRefresh 16 16 then s2.trainDomain true fails else s2

@[simp] theorem State.retrained_pwr (s : State) (fails : Nat) : (s.retrained fails).pwr = s.pwr := by
  unfold State.retrained
  simp only
  repeat' split
  all_goals simp

theorem pllRelock_of_lost {s : State} (hm : s.mode ≠ .off) (hl : s.pwr.pllLocked = false) (hr : s.pwr.refclk = true)
    (fails : BitVec 128) : exec (.pllRelock fails) s
      = .next ({ s with pwr := { s.pwr with pllLocked := true } }.retrained fails.toNat).forceHewers := by
  show execPllRelock fails s = _
  simp [execPllRelock, State.retrained, done, hm, hl, hr]

theorem pllRelock_idle {s : State} (h : s.pwr.pllLocked = true ∨ s.pwr.refclk = false) (fails : BitVec 128) :
    exec (.pllRelock fails) s = .next s := by
  show execPllRelock fails s = _
  rcases h with h | h <;> simp [execPllRelock, done, h]

/-! ### Requests to switch domains (R32, R33, R748, R749) -/

theorem State.switched_rising (s : State) (want : Nat) : (s.switched want).Pairwise (· < ·) :=
  List.pairwise_lt_range.filter _

theorem State.mem_switched {s : State} {want d : Nat} (h : d ∈ s.switched want) :
    d < 20 ∧ (s.fld F.PWR_DOM_REQ.REQ * 2).testBit d = !want.testBit d := by
  obtain ⟨hr, hp⟩ := List.mem_filter.mp h
  rw [Bool.and_eq_true, bne_iff_ne] at hp
  exact ⟨List.mem_range.mp hr, by rw [Bool.eq_not]; exact (bne_iff_ne.mp hp.2).symm⟩

/-- Every reason fits REF_REASON. -/
theorem State.switchRefusal_lt (s : State) (want d : Nat) : s.switchRefusal want d < 256 := by
  unfold State.switchRefusal
  simp only
  repeat' split
  all_goals decide

theorem State.switchRefusal_memory {s : State} {want d : Nat} (hd : d = 2 ∨ d = 3 ∨ d = 4) (hs : d ∈ s.switched want)
    (hw : want.testBit d = false) (hm : s.mode.keepsMemory = true) : s.switchRefusal want d = 5 := by
  have hreq := (State.mem_switched hs).2
  unfold State.switchRefusal
  rcases hd with rfl | rfl | rfl <;> simp [hreq, hw, hm]

theorem State.switchRefusal_skip {s : State} {want : Nat} (hs : 9 ∈ s.switched want) (hw : want.testBit 9 = false)
    (hk : s.skipHeld = true) : s.switchRefusal want 9 = 4 := by
  have hreq := (State.mem_switched hs).2
  unfold State.switchRefusal
  simp [hreq, hw, hk]

theorem State.switchRefusal_parent {s : State} {want : Nat} (hs : 1 ∈ s.switched want) (hw : want.testBit 1 = false)
    (hc : ∃ c, c < 20 ∧ childOfD1 c = true ∧ s.domainOn c = true) : s.switchRefusal want 1 = 1 := by
  have hreq := (State.mem_switched hs).2
  have hany : (List.range 20).any (fun c => childOfD1 c && s.domainOn c) = true := by
    obtain ⟨c, hlt, hch, hon⟩ := hc
    exact List.any_eq_true.mpr ⟨c, List.mem_range.mpr hlt, by simp [hch, hon]⟩
  unfold State.switchRefusal
  simp only [hany]
  simp [hreq, hw]

theorem State.refuseSwitch_reg (s : State) (d r : Nat) {a : Nat} (h : a ≠ Adr.PWR_STATUS) :
    (s.refuseSwitch d r).reg a = s.reg a := by
  unfold State.refuseSwitch State.raise
  simp only [State.setFld_reg_other _ F.PWR_STATUS.REF_REASON _ h, State.setFld_reg_other _ F.PWR_STATUS.REF_DOM _ h,
    State.setFld_reg_other _ F.PWR_STATUS.REFUSED _ h]

theorem State.refuseSwitch_flag (s : State) (d r : Nat) : (s.refuseSwitch d r).flag F.PWR_STATUS.REFUSED = true := by
  unfold State.refuseSwitch
  rw [State.flag_setFld_other _ _ _ _ IoField.fits (by decide), State.flag_setFld_other _ _ _ _ IoField.fits (by decide)]
  exact State.flag_raise _ _ IoField.fits

theorem State.refuseSwitch_dom (s : State) {d : Nat} (r : Nat) (h : d < 20) :
    (s.refuseSwitch d r).fld F.PWR_STATUS.REF_DOM = d := by
  unfold State.refuseSwitch
  rw [State.fld_setFld_other _ _ _ _ IoField.fits (by decide), State.fld_setFld_same _ _ _ IoField.fits]
  exact Nat.mod_eq_of_lt (Nat.lt_trans h (by decide))

theorem State.refuseSwitch_reason (s : State) (d : Nat) {r : Nat} (h : r < 256) :
    (s.refuseSwitch d r).fld F.PWR_STATUS.REF_REASON = r := by
  unfold State.refuseSwitch
  rw [State.fld_setFld_same _ _ _ IoField.fits]
  exact Nat.mod_eq_of_lt h

/-! What a write does, in each of its cases. -/

theorem State.domReqWrite_busy {s : State} (v : Nat) (h : s.flag F.PWR_STATUS.BUSY = true) :
    s.domReqWrite v = s.refuseSwitch ((s.switched (bitsOf v 19 1 * 2 + 1)).headD 0) 6 := by
  simp [State.domReqWrite, h]

theorem State.domReqWrite_unchanged {s : State} {v : Nat} (h : s.flag F.PWR_STATUS.BUSY = false)
    (hl : s.switched (bitsOf v 19 1 * 2 + 1) = []) : s.domReqWrite v = s := by
  simp [State.domReqWrite, h, hl]

theorem State.domReqWrite_granted {s : State} {v : Nat} (h : s.flag F.PWR_STATUS.BUSY = false)
    (hl : s.switched (bitsOf v 19 1 * 2 + 1) ≠ [])
    (hr : ∀ d ∈ s.switched (bitsOf v 19 1 * 2 + 1), s.switchRefusal (bitsOf v 19 1 * 2 + 1) d = 0) :
    s.domReqWrite v = (s.setFld F.PWR_DOM_REQ.REQ (bitsOf v 19 1)).raise F.PWR_STATUS.BUSY := by
  have hnone : (s.switched (bitsOf v 19 1 * 2 + 1)).find? (fun d => s.switchRefusal (bitsOf v 19 1 * 2 + 1) d != 0) = none :=
    List.find?_eq_none.mpr (fun d hd => by simp [hr d hd])
  have hhalf : (bitsOf v 19 1 * 2 + 1) / 2 = bitsOf v 19 1 := by omega
  simp [State.domReqWrite, h, hnone, hl, hhalf]

theorem State.domReqWrite_refused {s : State} {v d : Nat} (h : s.flag F.PWR_STATUS.BUSY = false)
    (hd : d ∈ s.switched (bitsOf v 19 1 * 2 + 1)) (hr : s.switchRefusal (bitsOf v 19 1 * 2 + 1) d ≠ 0)
    (hlow : ∀ e ∈ s.switched (bitsOf v 19 1 * 2 + 1), e < d → s.switchRefusal (bitsOf v 19 1 * 2 + 1) e = 0) :
    s.domReqWrite v = s.refuseSwitch d (s.switchRefusal (bitsOf v 19 1 * 2 + 1) d) := by
  have hsome : (s.switched (bitsOf v 19 1 * 2 + 1)).find? (fun d => s.switchRefusal (bitsOf v 19 1 * 2 + 1) d != 0) = some d :=
    find?_lowest (s.switched_rising _) hd (by simp [hr]) (fun e he hlt => by simp [hlow e he hlt])
  simp [State.domReqWrite, h, hsome]

theorem pwrDomReqWrite_taken {s : State} (v : Word32) (h : s.takesIo Adr.PWR_DOM_REQ = true) :
    exec (.pwrDomReqWrite v) s = .next (s.domReqWrite v.toNat) := by
  show execPwrDomReqWrite v s = _
  simp [execPwrDomReqWrite, done, h]

theorem pwrDomReqWrite_not_taken {s : State} (v : Word32) (h : s.takesIo Adr.PWR_DOM_REQ = false) :
    exec (.pwrDomReqWrite v) s = .next s := by
  show execPwrDomReqWrite v s = _
  simp [execPwrDomReqWrite, done, h]

/-- A single changed domain that is refused is the one reported, with its reason. -/
theorem State.domReqWrite_refused_alone {s : State} {v d r : Nat} (h : s.flag F.PWR_STATUS.BUSY = false)
    (hl : s.switched (bitsOf v 19 1 * 2 + 1) = [d]) (hr : s.switchRefusal (bitsOf v 19 1 * 2 + 1) d = r) (hne : r ≠ 0) :
    (s.domReqWrite v).fld F.PWR_STATUS.REF_DOM = d ∧ (s.domReqWrite v).fld F.PWR_STATUS.REF_REASON = r := by
  have hd : d ∈ s.switched (bitsOf v 19 1 * 2 + 1) := by simp [hl]
  rw [State.domReqWrite_refused h hd (by rwa [hr]) (fun e he hlt => by rw [hl, List.mem_singleton] at he; omega), hr]
  exact ⟨State.refuseSwitch_dom _ _ (State.mem_switched hd).1,
    State.refuseSwitch_reason _ _ (hr ▸ State.switchRefusal_lt _ _ _)⟩

theorem State.granted_reads (s : State) (v : Nat) :
    let t := (s.setFld F.PWR_DOM_REQ.REQ (bitsOf v 19 1)).raise F.PWR_STATUS.BUSY
    t.fld F.PWR_DOM_REQ.REQ = bitsOf v 19 1 ∧ t.flag F.PWR_STATUS.BUSY = true
      ∧ t.fld F.PWR_DOM_STATE.ON = s.fld F.PWR_DOM_STATE.ON := by
  refine ⟨?_, State.flag_raise _ _ IoField.fits, ?_⟩
  · unfold State.raise
    rw [State.fld_setFld_other _ _ _ _ IoField.fits (by decide), State.fld_setFld_same _ _ _ IoField.fits]
    exact Nat.mod_eq_of_lt (bitsOf_lt v 19 1)
  · unfold State.raise
    rw [State.fld_setFld_other _ _ _ _ IoField.fits (by decide), State.fld_setFld_other _ _ _ _ IoField.fits (by decide)]

/-! ### The switch (R36, R750) -/

/-- Only the registers of the domain itself go back to their reset values. -/
theorem State.clearRegs_reg (s : State) {d a : Nat} (h : regDomain a ≠ d) : (s.clearRegs d).reg a = s.reg a :=
  Table.get_filter_of_keeps _ _ _ _ (fun v => by simp [h])

@[simp] theorem State.clearRegs_mem (s : State) (d : Nat) : (s.clearRegs d).mem = s.mem := rfl

@[simp] theorem State.setDomain_mem (s : State) (d : Nat) (on : Bool) : (s.setDomain d on).mem = s.mem := by
  unfold State.setDomain
  split
  · rfl
  · rw [State.setFld_mem]

@[simp] theorem State.setDomain_anm (s : State) (d : Nat) (on : Bool) : (s.setDomain d on).anm = s.anm := by
  unfold State.setDomain
  split
  · rfl
  · rw [State.setFld_anm]

theorem State.setDomain_reg (s : State) (d : Nat) (on : Bool) {a : Nat} (h : a ≠ Adr.PWR_DOM_STATE) :
    (s.setDomain d on).reg a = s.reg a := by
  unfold State.setDomain
  split
  · rfl
  · exact State.setFld_reg_other _ _ _ h

theorem State.setDomain_domainOn (s : State) {d : Nat} (on : Bool) (h5 : d ≠ 5) (hd : d < 20) :
    (s.setDomain d on).domainOn d = on := by
  unfold State.setDomain State.domainOn
  rw [if_neg h5, State.fld_setFld_same _ _ _ IoField.fits, Nat.testBit_mod_two_pow, testBit_setBits _ _ _ _ _ (by omega)]
  have hlt : d < F.PWR_DOM_STATE.ON.hi + 1 - F.PWR_DOM_STATE.ON.lo := hd
  cases on <;> simp [hlt, b2n]

theorem State.domainOn_of_reg {s t : State} (h : t.reg Adr.PWR_DOM_STATE = s.reg Adr.PWR_DOM_STATE) (d : Nat) :
    t.domainOn d = s.domainOn d := by
  unfold State.domainOn
  rw [State.fld_of_reg (f := F.PWR_DOM_STATE.ON) h]

theorem State.mode_of_reg {s t : State} (h : t.reg Adr.CFG_MODE = s.reg Adr.CFG_MODE) : t.mode = s.mode := by
  unfold State.mode
  rw [State.fld_of_reg (f := F.CFG_MODE.CUR) h]

@[simp] theorem State.setDeg_reg (s : State) {a : Nat} (h : a ≠ Adr.FLT_STATUS) : s.setDeg.reg a = s.reg a :=
  State.setFld_reg_other _ F.FLT_STATUS.DEG _ h

@[simp] theorem State.showShafts_reg (s : State) {a : Nat} (h : a ≠ Adr.FLT_STATUS) : s.showShafts.reg a = s.reg a :=
  State.setFld_reg_other _ F.FLT_STATUS.SHAFT_OFF _ h

/-- In CONFIGURE no change of mode follows by itself (R747). -/
theorem State.settle_of_configure {s : State} (h : s.mode = .configure) : s.settle = s.setDeg := by
  have hm : s.setDeg.mode = .configure := (State.mode_of_reg (s.setDeg_reg (by decide))).trans h
  simp [State.settle, hm, Mode.service, Mode.holdsCanary]

/-- What ends a switch in CONFIGURE: BUSY goes and the causes of DEG are shown. -/
def State.switchShown (s : State) : State := ((s.setFld F.PWR_STATUS.BUSY 0).showShafts).setDeg

theorem State.switchShown_reg (s : State) {a : Nat} (hp : a ≠ Adr.PWR_STATUS) (hf : a ≠ Adr.FLT_STATUS) :
    s.switchShown.reg a = s.reg a := by
  unfold State.switchShown
  rw [State.setDeg_reg _ hf, State.showShafts_reg _ hf]
  exact State.setFld_reg_other _ F.PWR_STATUS.BUSY _ hp

theorem State.switchShown_not_busy (s : State) : s.switchShown.flag F.PWR_STATUS.BUSY = false := by
  unfold State.switchShown
  rw [State.flag_of_reg (State.setDeg_reg _ (by decide)), State.flag_of_reg (State.showShafts_reg _ (by decide))]
  exact State.flag_setFld_zero _ _ IoField.fits

theorem State.switchShown_domainOn (s : State) (d : Nat) : s.switchShown.domainOn d = s.domainOn d :=
  State.domainOn_of_reg (s.switchShown_reg (by decide) (by decide)) d

@[simp] theorem State.switchShown_mem (s : State) : s.switchShown.mem = s.mem := by
  unfold State.switchShown State.setDeg State.showShafts
  rw [State.setFld_mem, State.setFld_mem, State.setFld_mem]

@[simp] theorem State.switchShown_skp (s : State) : s.switchShown.skp = s.skp := by
  unfold State.switchShown State.setDeg State.showShafts
  rw [State.setFld_skp, State.setFld_skp, State.setFld_skp]

@[simp] theorem State.switchShown_anm (s : State) : s.switchShown.anm = s.anm := by
  unfold State.switchShown State.setDeg State.showShafts
  rw [State.setFld_anm, State.setFld_anm, State.setFld_anm]

theorem State.switchDone_of_configure {s u : State} {fails : Nat}
    (hu : (s.switchOff (s.toSwitch false).reverse).switchOn (s.toSwitch true) fails = u) (hm : u.mode = .configure) :
    s.switchDone fails = u.switchShown := by
  have hc : ((u.setFld F.PWR_STATUS.BUSY 0).showShafts).mode = .configure := by
    rw [State.mode_of_reg (State.showShafts_reg _ (by decide)),
      State.mode_of_reg (State.setFld_reg_other u F.PWR_STATUS.BUSY 0 (by decide)), hm]
  unfold State.switchDone
  simp only [hu]
  exact State.settle_of_configure hc

theorem powerDomainSwitched_of_busy {s : State} (hb : s.flag F.PWR_STATUS.BUSY = true) (hl : s.pwr.pllLocked = true)
    (fails : BitVec 128) : exec (.powerDomainSwitched fails) s = .next (s.switchDone fails.toNat) := by
  show execPowerDomainSwitched fails s = _
  simp [execPowerDomainSwitched, done, hb, hl]

theorem powerDomainSwitched_idle {s : State} (h : s.flag F.PWR_STATUS.BUSY = false ∨ s.pwr.pllLocked = false)
    (fails : BitVec 128) : exec (.powerDomainSwitched fails) s = .next s := by
  show execPowerDomainSwitched fails s = _
  rcases h with h | h <;> simp [execPowerDomainSwitched, done, h]

/-! D9 on: its registers and its engines are as after power-on, the rest as it was. -/

/-- The skip engines without a transfer. -/
def State.skipEmptied (s : State) : State := { s with skp := [], skLast := (63, 63) }

@[simp] theorem State.skipEmptied_regs (s : State) : s.skipEmptied.regs = s.regs := rfl
@[simp] theorem State.skipEmptied_mem (s : State) : s.skipEmptied.mem = s.mem := rfl
@[simp] theorem State.skipEmptied_skp (s : State) : s.skipEmptied.skp = [] := rfl

/-- The state with D9 just switched on. -/
def State.skipComes (s : State) : State := ((s.setDomain 9 true).clearRegs 9).skipEmptied

theorem State.skipComes_reg (s : State) {a : Nat} (h9 : regDomain a ≠ 9) : s.skipComes.reg a = (s.setDomain 9 true).reg a := by
  unfold State.skipComes
  rw [State.reg_of_regs (State.skipEmptied_regs _), State.clearRegs_reg _ h9]

theorem State.skipComes_mode (s : State) : s.skipComes.mode = s.mode := by
  refine State.mode_of_reg ?_
  rw [State.skipComes_reg _ (by decide), State.setDomain_reg _ _ _ (by decide)]

theorem State.skipComes_domainOn (s : State) : s.skipComes.domainOn 9 = true := by
  rw [State.domainOn_of_reg (s.skipComes_reg (by decide)), State.setDomain_domainOn _ _ (by decide) (by decide)]

theorem State.skipComes_skp (s : State) : s.skipComes.skp = [] := State.skipEmptied_skp _

theorem State.skipComes_mem (s : State) : s.skipComes.mem = s.mem := by
  unfold State.skipComes
  rw [State.skipEmptied_mem, State.clearRegs_mem, State.setDomain_mem]

theorem State.switchDone_skipOn {s : State} (hm : s.mode = .configure) (hoff : s.toSwitch false = [])
    (hon : s.toSwitch true = [9]) (fails : Nat) : s.switchDone fails = s.skipComes.switchShown := by
  refine State.switchDone_of_configure ?_ (s.skipComes_mode.trans hm)
  rw [hoff, hon]
  rfl

/-! D8 off: every pin is undriven. -/

theorem State.pin_of_anm {s t : State} (h : t.anm = s.anm) (o : Nat) : t.pin o = s.pin o := by
  unfold State.pin
  rw [h]

theorem State.pinOff_driven (s : State) (o p : Nat) (h : p = o ∨ (s.pin p).driven = false) :
    ((s.pinOff o).pin p).driven = false := by
  unfold State.pinOff State.setPin State.pin at *
  by_cases hp : p = o
  · subst hp
    simp
  · simp only [Table.get_set_other _ _ _ _ hp]
    exact h.resolve_left hp

/-- The state with D8 just switched off. -/
def State.pinsGo (s : State) : State := ((List.range 48).foldl State.pinOff s).setDomain 8 false

theorem State.pinsGo_reg (s : State) {a : Nat} (h : a ≠ Adr.PWR_DOM_STATE) : s.pinsGo.reg a = s.reg a := by
  unfold State.pinsGo
  rw [State.setDomain_reg _ _ _ h]
  exact foldl_leaves (fun t => t.reg a) State.pinOff (fun _ _ => rfl) _ s

theorem State.pinsGo_domainOn (s : State) : s.pinsGo.domainOn 8 = false :=
  State.setDomain_domainOn _ false (by decide) (by decide)

theorem State.pinsGo_mem (s : State) : s.pinsGo.mem = s.mem := by
  unfold State.pinsGo
  rw [State.setDomain_mem]
  exact foldl_leaves State.mem State.pinOff (fun _ _ => rfl) _ s

theorem State.pinsGo_undriven (s : State) {o : Nat} (h : o < 48) : (s.pinsGo.pin o).driven = false := by
  unfold State.pinsGo
  rw [State.pin_of_anm (State.setDomain_anm _ _ _)]
  exact foldl_brings (fun t p => (t.pin p).driven = false) State.pinOff State.pinOff_driven _ s o (.inl (List.mem_range.mpr h))

theorem State.switchDone_pinsOff {s : State} (hm : s.mode = .configure) (hoff : s.toSwitch false = [8])
    (hon : s.toSwitch true = []) (fails : Nat) : s.switchDone fails = s.pinsGo.switchShown := by
  refine State.switchDone_of_configure ?_ ((State.mode_of_reg (s.pinsGo_reg (by decide))).trans hm)
  rw [hoff, hon]
  rfl

/-! ### Sensor readings and the adjustment of the core clocks (R753) -/

theorem signedOf_toNat (x : BitVec 16) : signedOf 16 x.toNat = x.toInt := by
  have hx : x.toNat % 2 ^ 16 = x.toNat := Nat.mod_eq_of_lt x.isLt
  rw [signedOf, hx, BitVec.toInt_eq_toNat_cond]
  by_cases h : x.toNat < 2 ^ (16 - 1)
  · rw [if_pos h, if_pos (by omega)]
  · rw [if_neg h, if_neg (by omega)]

theorem State.readSensors_reg_below (s : State) (l : List (BitVec 16)) (n : Nat) {a : Nat} (h : a < Adr.PWR_TEMP n) :
    (s.readSensors l n).reg a = s.reg a := by
  induction l generalizing s n with
  | nil => rfl
  | cons t rest ih =>
    have hnext : a < Adr.PWR_TEMP (n + 1) := by unfold Adr.PWR_TEMP at *; omega
    exact (ih _ _ hnext).trans (State.setFld_reg_other _ _ _ (Nat.ne_of_lt h))

theorem State.readSensors_temp (s : State) (l : List (BitVec 16)) (n i : Nat) (h : i < l.length) :
    (s.readSensors l n).fld (F.PWR_TEMP.TEMP (n + i)) = l[i].toNat := by
  induction l generalizing s n i with
  | nil => exact absurd h (Nat.not_lt_zero i)
  | cons t rest ih =>
    cases i with
    | zero =>
      have hbelow : (F.PWR_TEMP.TEMP n).addr < Adr.PWR_TEMP (n + 1) := by simp only [F.PWR_TEMP.TEMP, Adr.PWR_TEMP]; omega
      refine (State.fld_of_reg (State.readSensors_reg_below _ rest (n + 1) hbelow)).trans ?_
      exact (State.fld_setFld_same s _ _ IoField.fits).trans (Nat.mod_eq_of_lt t.isLt)
    | succ j =>
      have hj := ih (s.setFld (F.PWR_TEMP.TEMP n) t.toNat) (n + 1) j (Nat.lt_of_succ_lt_succ h)
      rwa [Nat.add_assoc, Nat.add_comm 1 j] at hj

theorem State.readSensors_temp_of_all (s : State) {l : List (BitVec 16)} {i : Nat} (h : i < l.length) :
    (s.readSensors l 0).fld (F.PWR_TEMP.TEMP i) = l[i].toNat := by
  have ht := s.readSensors_temp l 0 i h
  rwa [Nat.zero_add] at ht

theorem State.readSensors_signed (s : State) {l : List (BitVec 16)} {i : Nat} (h : i < l.length) :
    signedOf 16 ((s.readSensors l 0).fld (F.PWR_TEMP.TEMP i)) = l[i].toInt := by
  rw [s.readSensors_temp_of_all h, signedOf_toNat]

@[simp] theorem State.readSensors_pwr (s : State) (l : List (BitVec 16)) (n : Nat) : (s.readSensors l n).pwr = s.pwr := by
  induction l generalizing s n with
  | nil => rfl
  | cons t rest ih => exact ih _ _

@[simp] theorem State.readSensors_mc (s : State) (l : List (BitVec 16)) (n : Nat) : (s.readSensors l n).mc = s.mc := by
  induction l generalizing s n with
  | nil => rfl
  | cons t rest ih => exact ih _ _

theorem State.memHot_of_parts {s t : State} (hd : t.reg Adr.PWR_DOM_STATE = s.reg Adr.PWR_DOM_STATE)
    (hr : t.reg Adr.MEM_STATUS = s.reg Adr.MEM_STATUS) (hm : t.mc = s.mc) : t.memHot = s.memHot := by
  have h3 : t.flag F.MEM_STATUS.D3_READY = s.flag F.MEM_STATUS.D3_READY := State.flag_of_reg hr
  have h4 : t.flag F.MEM_STATUS.D4_READY = s.flag F.MEM_STATUS.D4_READY := State.flag_of_reg hr
  simp only [State.memHot, State.channelOn, State.dchan, State.domainOn_of_reg hd, h3, h4, hm]

theorem State.readSensors_shaftClk (s : State) (l : List (BitVec 16)) {k : Nat} (h : k < 8) :
    (s.readSensors l 0).reg (Adr.PWR_SHAFT_CLK k) = s.reg (Adr.PWR_SHAFT_CLK k) :=
  s.readSensors_reg_below l 0 (by unfold Adr.PWR_SHAFT_CLK Adr.PWR_TEMP; omega)

/-- A shaft is hot after the readings by its own reading or by a hot memory channel. -/
theorem State.readSensors_hot (s : State) {l : List (BitVec 16)} {k : Nat} (h : k < l.length) :
    (s.readSensors l 0).hotter k ((s.readSensors l 0).fld F.PWR_THERM.THROTTLE_C) = true ∨ (s.readSensors l 0).memHot = true ↔
      (s.fld F.PWR_THERM.THROTTLE_C : Int) * 16 ≤ l[k].toInt ∨ s.memHot = true := by
  have hmem : (s.readSensors l 0).memHot = s.memHot := State.memHot_of_parts (s.readSensors_reg_below l 0 (by decide))
    (s.readSensors_reg_below l 0 (by decide)) (s.readSensors_mc l 0)
  rw [hmem, State.hotter, decide_eq_true_eq, s.readSensors_signed h,
    State.fld_of_reg (f := F.PWR_THERM.THROTTLE_C) (s.readSensors_reg_below l 0 (by decide))]

theorem State.readSensors_cool (s : State) {l : List (BitVec 16)} {k : Nat} (h : k < l.length) :
    (s.readSensors l 0).cooler k ((s.readSensors l 0).fld F.PWR_THERM.THROTTLE_C) = true ↔
      l[k].toInt < ((s.fld F.PWR_THERM.THROTTLE_C : Int) - s.fld F.PWR_THERM.HYST) * 16 := by
  rw [State.cooler, decide_eq_true_eq, s.readSensors_signed h,
    State.fld_of_reg (f := F.PWR_THERM.THROTTLE_C) (s.readSensors_reg_below l 0 (by decide)),
    State.fld_of_reg (f := F.PWR_THERM.HYST) (s.readSensors_reg_below l 0 (by decide))]

theorem State.nextCode_of_parts {s t : State} {k : Nat} (hr : t.reg (Adr.PWR_SHAFT_CLK k) = s.reg (Adr.PWR_SHAFT_CLK k))
    (hs : t.pwr.step.get 0 k = s.pwr.step.get 0 k) : t.nextCode k = s.nextCode k := by
  unfold State.nextCode
  rw [hs, State.fld_of_reg (f := F.PWR_SHAFT_CLK.CUR k) hr]

@[simp] theorem State.setStep_step_same (s : State) (k n : Nat) : (s.setStep k n).pwr.step.get 0 k = n :=
  Table.get_set_same _ _ _ _

theorem State.setStep_step_other (s : State) {k j : Nat} (n : Nat) (h : j ≠ k) :
    (s.setStep k n).pwr.step.get 0 j = s.pwr.step.get 0 j :=
  Table.get_set_other _ _ _ _ h

/-- R753 for one shaft. -/
def State.adjustShaft (s : State) (k : Nat) : State :=
  if s.shaftTripped k || s.adjusted k (s.nextCode k) = s.nextCode k then s else s.setStep k (s.adjusted k (s.nextCode k) + 1)

theorem State.adjustShafts_succ (s : State) (n k : Nat) :
    s.adjustShafts (n + 1) k = (s.adjustShaft k).adjustShafts n (k + 1) := rfl

/-- The adjustment of a shaft leaves the state or makes that shaft's step wait. -/
theorem State.adjustShaft_cases (s : State) (k : Nat) : s.adjustShaft k = s ∨ ∃ n, s.adjustShaft k = s.setStep k n := by
  unfold State.adjustShaft
  split
  · exact .inl rfl
  · exact .inr ⟨_, rfl⟩

@[simp] theorem State.adjustShaft_regs (s : State) (k : Nat) : (s.adjustShaft k).regs = s.regs := by
  rcases s.adjustShaft_cases k with h | ⟨n, h⟩ <;> rw [h]
  rfl

@[simp] theorem State.adjustShaft_tripped (s : State) (k j : Nat) : (s.adjustShaft k).shaftTripped j = s.shaftTripped j := by
  rcases s.adjustShaft_cases k with h | ⟨n, h⟩ <;> rw [h]
  rfl

@[simp] theorem State.adjustShaft_adjusted (s : State) (k j cur : Nat) :
    (s.adjustShaft k).adjusted j cur = s.adjusted j cur := by
  rcases s.adjustShaft_cases k with h | ⟨n, h⟩ <;> rw [h]
  rfl

theorem State.adjustShaft_step_of_tripped (s : State) {k : Nat} (h : s.shaftTripped k = true) : s.adjustShaft k = s := by
  simp [State.adjustShaft, h]

theorem State.adjustShaft_step_other (s : State) {k j : Nat} (h : j ≠ k) :
    (s.adjustShaft k).pwr.step.get 0 j = s.pwr.step.get 0 j := by
  rcases s.adjustShaft_cases k with hs | ⟨n, hs⟩ <;> rw [hs]
  exact s.setStep_step_other n h

/-- A shaft under no trip comes to the code that R753 gives it. -/
theorem State.adjustShaft_nextCode (s : State) {k : Nat} (h : s.shaftTripped k = false) :
    (s.adjustShaft k).nextCode k = s.adjusted k (s.nextCode k) := by
  unfold State.adjustShaft
  by_cases hn : s.adjusted k (s.nextCode k) = s.nextCode k
  · simp [hn]
  · simp only [h, hn, decide_false, Bool.or_self, Bool.false_eq_true, if_false]
    rw [State.nextCode, State.setStep_step_same]
    simp

@[simp] theorem State.adjustShafts_regs (s : State) (n k : Nat) : (s.adjustShafts n k).regs = s.regs := by
  induction n generalizing s k with
  | zero => rfl
  | succ j ih => rw [State.adjustShafts_succ, ih, State.adjustShaft_regs]

/-- Shafts below the first one adjusted and shafts under a trip keep the step that waits. -/
theorem State.adjustShafts_step (s : State) (n k : Nat) {j : Nat} (h : j < k ∨ s.shaftTripped j = true) :
    (s.adjustShafts n k).pwr.step.get 0 j = s.pwr.step.get 0 j := by
  induction n generalizing s k with
  | zero => rfl
  | succ m ih =>
    rw [State.adjustShafts_succ, ih _ _ (h.imp Nat.lt_succ_of_lt (fun ht => by rwa [State.adjustShaft_tripped]))]
    by_cases hj : j = k
    · subst hj
      rw [State.adjustShaft_step_of_tripped s (h.resolve_left (Nat.lt_irrefl j))]
    · exact s.adjustShaft_step_other hj

theorem State.adjustShafts_nextCode (s : State) (n k : Nat) {j : Nat} (hk : k ≤ j) (hj : j < k + n)
    (ht : s.shaftTripped j = false) : (s.adjustShafts n k).nextCode j = s.adjusted j (s.nextCode j) := by
  induction n generalizing s k with
  | zero => omega
  | succ m ih =>
    rw [State.adjustShafts_succ]
    rcases Nat.eq_or_lt_of_le hk with rfl | hlt
    · rw [← s.adjustShaft_nextCode ht]
      exact State.nextCode_of_parts (State.reg_of_regs (State.adjustShafts_regs _ _ _) _)
        (State.adjustShafts_step _ _ _ (.inl (Nat.lt_succ_self k)))
    · rw [ih _ _ hlt (by omega) (by rwa [State.adjustShaft_tripped]), State.adjustShaft_adjusted,
        State.nextCode_of_parts (State.reg_of_regs (s.adjustShaft_regs k) _) (s.adjustShaft_step_other (Nat.ne_of_gt hlt))]

/-! The code that R753 gives, case by case. -/

theorem State.adjusted_hot {s : State} {k cur : Nat} (h : s.hotter k (s.fld F.PWR_THERM.THROTTLE_C) = true ∨ s.memHot = true) :
    s.adjusted k cur = if cur < s.fld (F.PWR_SHAFT_CLK.FLOOR k) then cur + 1 else cur := by
  unfold State.adjusted
  rcases h with h | h <;> simp [h]

theorem State.adjusted_not_hot {s : State} {k cur : Nat}
    (h : ¬ (s.hotter k (s.fld F.PWR_THERM.THROTTLE_C) = true ∨ s.memHot = true)) : s.adjusted k cur =
      if s.cooler k (s.fld F.PWR_THERM.THROTTLE_C) = true ∧ s.fld (F.PWR_SHAFT_CLK.DIV k) < cur then cur - 1 else cur := by
  unfold State.adjusted
  rw [not_or, Bool.not_eq_true, Bool.not_eq_true] at h
  by_cases hc : s.cooler k (s.fld F.PWR_THERM.THROTTLE_C) = true <;> simp [h.1, h.2, hc]

theorem thermalAdjust_of_running {s : State} (hm : s.mode ≠ .off) (hl : s.pwr.pllLocked = true) {temps : List (BitVec 16)}
    (hn : temps.length = 9) : exec (.thermalAdjust temps) s = .next ((s.readSensors temps 0).adjustShafts 8 0) := by
  show execThermalAdjust temps s = _
  simp [execThermalAdjust, done, hm, hl, List.take_of_length_le (Nat.le_of_eq hn)]

/-! ### Steps and trips (R373, R754) -/

@[simp] theorem State.setStep_reg (s : State) (k n a : Nat) : (s.setStep k n).reg a = s.reg a := State.reg_of_regs rfl a

/-- Shaft `k` at code `c`, with no step waiting. -/
def State.stepTaken (s : State) (k c : Nat) : State := (s.setFld (F.PWR_SHAFT_CLK.CUR k) c).setStep k 0

theorem State.stepTaken_cur (s : State) (k : Nat) {c : Nat} (h : c < 4) :
    (s.stepTaken k c).fld (F.PWR_SHAFT_CLK.CUR k) = c := by
  unfold State.stepTaken
  rw [State.fld_of_reg (State.setStep_reg _ _ _ _), State.fld_setFld_same _ _ _ IoField.fits]
  exact Nat.mod_eq_of_lt h

theorem State.stepTaken_step (s : State) (k c : Nat) : (s.stepTaken k c).pwr.step.get 0 k = 0 := State.setStep_step_same _ _ _

theorem State.stepTaken_reg_other (s : State) (k c : Nat) {a : Nat} (h : a ≠ Adr.PWR_SHAFT_CLK k) :
    (s.stepTaken k c).reg a = s.reg a := by
  unfold State.stepTaken
  rw [State.setStep_reg, State.setFld_reg_other _ (F.PWR_SHAFT_CLK.CUR k) _ h]

theorem State.stepTaken_step_other (s : State) {k j : Nat} (c : Nat) (h : j ≠ k) :
    (s.stepTaken k c).pwr.step.get 0 j = s.pwr.step.get 0 j := by
  unfold State.stepTaken
  rw [State.setStep_step_other _ _ h, State.setFld_pwr]

theorem cclkStep_idle {s : State} {shaft : Fin 8} (h : s.pwr.step.get 0 shaft = 0 ∨ s.shaftAtBoundary shaft = false) :
    exec (.cclkStep shaft) s = .next s := by
  show execCclkStep shaft s = _
  rcases h with h | h <;> simp [execCclkStep, done, h]

theorem cclkStep_of_waiting {s : State} {shaft : Fin 8} {c : Nat} (hl : s.pwr.pllLocked = true)
    (hb : s.shaftAtBoundary shaft = true) (hs : s.pwr.step.get 0 shaft = c + 1) :
    exec (.cclkStep shaft) s = .next (s.stepTaken shaft c) := by
  show execCclkStep shaft s = _
  simp [execCclkStep, State.stepTaken, done, hl, hb, hs]

theorem mem_sensorShafts {n k : Nat} (hk : k < 8) (h : n = k ∨ n = 8) : k ∈ sensorShafts n := by
  unfold sensorShafts
  split
  · exact List.mem_range.mpr hk
  · next h8 => exact List.mem_singleton.mpr (h.resolve_right h8).symm

theorem shaftClk_injective {j k : Nat} (h : Adr.PWR_SHAFT_CLK j = Adr.PWR_SHAFT_CLK k) : j = k := by
  unfold Adr.PWR_SHAFT_CLK at h
  omega

/-- Shaft `k` runs at the slowest code, its waiting step gone. -/
def State.Slowest (s : State) (k : Nat) : Prop := s.fld (F.PWR_SHAFT_CLK.CUR k) = 3 ∧ s.pwr.step.get 0 k = 0

theorem State.stepTaken_slowest (t : State) (j k : Nat) (h : k = j ∨ t.Slowest k) : (t.stepTaken j 3).Slowest k := by
  by_cases hk : k = j
  · subst hk
    exact ⟨t.stepTaken_cur k (by decide), t.stepTaken_step k 3⟩
  · obtain ⟨hcur, hstep⟩ := h.resolve_left hk
    have hreg := t.stepTaken_reg_other j 3 (fun ha => hk (shaftClk_injective ha))
    exact ⟨(State.fld_of_reg (f := F.PWR_SHAFT_CLK.CUR k) hreg).trans hcur, (t.stepTaken_step_other 3 hk).trans hstep⟩

/-- The shafts of sensor `n` are slowed and the sensor counts as tripped. -/
def State.tripShafts (s : State) (n : Nat) : State :=
  (sensorShafts n).foldl (fun t k => t.stepTaken k 3) { s with pwr := { s.pwr with tripped := insertNat s.pwr.tripped n } }

/-- The trip of sensor `n` is shown and its time logged. -/
def State.tripShown (s : State) (n now : Nat) : State :=
  ((s.raise F.PWR_STATUS.TRIP).setFld F.PWR_STATUS.TRIP_SRC n).setReg Adr.PWR_TRIP_LOG (BitVec.ofNat 64 now)

theorem State.tripShown_reg (s : State) (n now : Nat) {a : Nat} (hp : a ≠ Adr.PWR_STATUS) (hl : a ≠ Adr.PWR_TRIP_LOG) :
    (s.tripShown n now).reg a = s.reg a := by
  unfold State.tripShown State.raise
  rw [State.reg_setReg_other _ _ hl, State.setFld_reg_other _ F.PWR_STATUS.TRIP_SRC _ hp,
    State.setFld_reg_other _ F.PWR_STATUS.TRIP _ hp]

theorem State.tripShown_status (s : State) {n : Nat} (now : Nat) (h : n < 16) :
    (s.tripShown n now).flag F.PWR_STATUS.TRIP = true ∧ (s.tripShown n now).fld F.PWR_STATUS.TRIP_SRC = n := by
  have hreg : (s.tripShown n now).reg Adr.PWR_STATUS
      = ((s.raise F.PWR_STATUS.TRIP).setFld F.PWR_STATUS.TRIP_SRC n).reg Adr.PWR_STATUS := State.reg_setReg_other _ _ (by decide)
  constructor
  · rw [State.flag_of_reg (f := F.PWR_STATUS.TRIP) hreg, State.flag_setFld_other _ _ _ _ IoField.fits (by decide)]
    exact State.flag_raise _ _ IoField.fits
  · rw [State.fld_of_reg (f := F.PWR_STATUS.TRIP_SRC) hreg, State.fld_setFld_same _ _ _ IoField.fits]
    exact Nat.mod_eq_of_lt h

@[simp] theorem State.tripShown_pwr (s : State) (n now : Nat) : (s.tripShown n now).pwr = s.pwr := by
  unfold State.tripShown
  rw [State.setReg_pwr, State.setFld_pwr, State.raise_pwr]

theorem State.tripShafts_slowest (s : State) {n k : Nat} (hk : k < 8) (h : n = k ∨ n = 8) : (s.tripShafts n).Slowest k :=
  foldl_brings State.Slowest (fun t k => t.stepTaken k 3) State.stepTaken_slowest _ _ k (.inl (mem_sensorShafts hk h))

theorem State.tripShown_slowest {s : State} {k : Nat} (n now : Nat) (h : s.Slowest k) : (s.tripShown n now).Slowest k := by
  have hreg : (s.tripShown n now).reg (Adr.PWR_SHAFT_CLK k) = s.reg (Adr.PWR_SHAFT_CLK k) :=
    State.tripShown_reg _ _ _ (by simp only [Adr.PWR_SHAFT_CLK, Adr.PWR_STATUS]; omega)
      (by simp only [Adr.PWR_SHAFT_CLK, Adr.PWR_TRIP_LOG]; omega)
  obtain ⟨hcur, hstep⟩ := h
  exact ⟨(State.fld_of_reg (f := F.PWR_SHAFT_CLK.CUR k) hreg).trans hcur, by rwa [State.tripShown_pwr]⟩

theorem thermalTrip_idle {s : State} {sensor : Fin 9} (h : s.hotter sensor (s.fld F.PWR_THERM.TRIP_C) = false) :
    exec (.thermalTrip sensor) s = .next s := by
  show execThermalTrip sensor s = _
  simp [execThermalTrip, done, h]

theorem thermalTrip_of_hot {s : State} {sensor : Fin 9} (hm : s.mode ≠ .off)
    (ht : s.pwr.tripped.contains sensor.val = false) (h : s.hotter sensor (s.fld F.PWR_THERM.TRIP_C) = true) :
    exec (.thermalTrip sensor) s = .next ((s.tripShafts sensor).tripShown sensor s.time.now) := by
  show execThermalTrip sensor s = _
  unfold execThermalTrip
  rw [if_neg (by simp only [hm, ht, h]; decide)]
  rfl

/-- A shaft that no trip holds returns to FLOOR. -/
def State.returned (s : State) (k : Nat) : State :=
  if s.shaftTripped k then s else s.setFld (F.PWR_SHAFT_CLK.CUR k) (s.fld (F.PWR_SHAFT_CLK.FLOOR k))

@[simp] theorem State.returned_pwr (s : State) (k : Nat) : (s.returned k).pwr = s.pwr := by
  unfold State.returned
  split <;> rfl

theorem State.returned_floor (s : State) (j k : Nat) :
    (s.returned j).fld (F.PWR_SHAFT_CLK.FLOOR k) = s.fld (F.PWR_SHAFT_CLK.FLOOR k) := by
  unfold State.returned
  split
  · rfl
  · exact State.fld_setFld_other _ _ _ _ IoField.fits (.inr (.inr (by show 9 < 10; decide)))

/-- With no trip left, shaft `k` stands at FLOOR. -/
def State.AtFloor (s : State) (k : Nat) : Prop :=
  s.pwr.tripped = [] → s.fld (F.PWR_SHAFT_CLK.CUR k) = s.fld (F.PWR_SHAFT_CLK.FLOOR k)

theorem State.returned_atFloor (t : State) (j k : Nat) (h : k = j ∨ t.AtFloor k) : (t.returned j).AtFloor k := by
  intro ht
  rw [State.returned_pwr] at ht
  rw [State.returned_floor]
  have hj : t.returned j = t.setFld (F.PWR_SHAFT_CLK.CUR j) (t.fld (F.PWR_SHAFT_CLK.FLOOR j)) := by
    simp [State.returned, State.shaftTripped, ht]
  rw [hj]
  by_cases hk : k = j
  · subst hk
    rw [State.fld_setFld_same _ _ _ IoField.fits]
    exact Nat.mod_eq_of_lt (bitsOf_lt _ _ _)
  · refine (State.fld_of_reg ?_).trans (h.resolve_left hk ht)
    exact State.setFld_reg_other _ _ _ (fun ha => hk (shaftClk_injective ha))

/-- The trip of sensor `n` ends. -/
def State.tripEnded (s : State) (n : Nat) : State :=
  (sensorShafts n).foldl State.returned { s with pwr := { s.pwr with tripped := eraseNat s.pwr.tripped n } }

theorem State.tripEnded_tripped (s : State) (n : Nat) : (s.tripEnded n).pwr.tripped = eraseNat s.pwr.tripped n :=
  foldl_leaves (fun t => t.pwr.tripped) State.returned (fun t k => by rw [State.returned_pwr]) _ _

theorem State.tripEnded_floor (s : State) (n k : Nat) :
    (s.tripEnded n).fld (F.PWR_SHAFT_CLK.FLOOR k) = s.fld (F.PWR_SHAFT_CLK.FLOOR k) :=
  foldl_leaves (fun t => t.fld (F.PWR_SHAFT_CLK.FLOOR k)) State.returned (fun t j => t.returned_floor j k) _ _

theorem State.tripEnded_none {s : State} {n : Nat} (h : s.pwr.tripped = [n]) : (s.tripEnded n).pwr.tripped = [] := by
  simp [State.tripEnded_tripped, h, eraseNat]

theorem State.tripEnded_cur {s : State} {n k : Nat} (ht : s.pwr.tripped = [n]) (hk : k < 8) (h : n = k ∨ n = 8) :
    (s.tripEnded n).fld (F.PWR_SHAFT_CLK.CUR k) = s.fld (F.PWR_SHAFT_CLK.FLOOR k) := by
  rw [← s.tripEnded_floor n k]
  exact foldl_brings State.AtFloor State.returned State.returned_atFloor _ _ k (.inl (mem_sensorShafts hk h))
    (State.tripEnded_none ht)

theorem thermalTripEnd_idle {s : State} {sensor : Fin 9} (h : s.cooler sensor (s.fld F.PWR_THERM.TRIP_C) = false) :
    exec (.thermalTripEnd sensor) s = .next s := by
  show execThermalTripEnd sensor s = _
  simp [execThermalTripEnd, done, h]

theorem thermalTripEnd_of_cool {s : State} {sensor : Fin 9} (hm : s.mode ≠ .off)
    (ht : s.pwr.tripped.contains sensor.val = true) (h : s.cooler sensor (s.fld F.PWR_THERM.TRIP_C) = true) :
    exec (.thermalTripEnd sensor) s = .next (s.tripEnded sensor) := by
  show execThermalTripEnd sensor s = _
  unfold execThermalTripEnd
  rw [if_neg (by simp only [hm, ht, h]; decide)]
  rfl

/-! ### The statement -/

theorem domReqWrite_cases {s : State} (v : Word32) (hio : s.takesIo Adr.PWR_DOM_REQ = true)
    (hb : s.flag F.PWR_STATUS.BUSY = false) :
    let want := bitsOf v.toNat 19 1 * 2 + 1
    let l := s.switched want
    (l = [] → exec (.pwrDomReqWrite v) s = .next s)
      ∧ (l ≠ [] → (∀ d ∈ l, s.switchRefusal want d = 0) → ∃ t, exec (.pwrDomReqWrite v) s = .next t
          ∧ t.fld F.PWR_DOM_REQ.REQ = bitsOf v.toNat 19 1 ∧ t.flag F.PWR_STATUS.BUSY = true
          ∧ t.fld F.PWR_DOM_STATE.ON = s.fld F.PWR_DOM_STATE.ON)
      ∧ (∀ d, d ∈ l → s.switchRefusal want d ≠ 0 → (∀ e ∈ l, e < d → s.switchRefusal want e = 0) →
          ∃ t, exec (.pwrDomReqWrite v) s = .next t ∧ t.flag F.PWR_STATUS.REFUSED = true ∧ t.fld F.PWR_STATUS.REF_DOM = d
            ∧ t.fld F.PWR_STATUS.REF_REASON = s.switchRefusal want d ∧ ∀ a, a ≠ Adr.PWR_STATUS → t.reg a = s.reg a)
      ∧ (∀ d r, l = [d] → s.switchRefusal want d = r → r ≠ 0 → ∃ t, exec (.pwrDomReqWrite v) s = .next t
            ∧ t.fld F.PWR_STATUS.REF_DOM = d ∧ t.fld F.PWR_STATUS.REF_REASON = r) := by
  intro want l
  have hexec := pwrDomReqWrite_taken v hio
  refine ⟨fun hl => ?_, fun hl hr => ?_, fun d hd hr hlow => ?_, fun d r hl hr hne => ?_⟩
  · rw [hexec, State.domReqWrite_unchanged hb hl]
  · exact ⟨_, hexec, by rw [State.domReqWrite_granted hb hl hr]; exact s.granted_reads v.toNat⟩
  · refine ⟨_, hexec, ?_⟩
    rw [State.domReqWrite_refused hb hd hr hlow]
    exact ⟨s.refuseSwitch_flag _ _, s.refuseSwitch_dom _ (State.mem_switched hd).1,
      s.refuseSwitch_reason _ (s.switchRefusal_lt _ _), fun a ha => s.refuseSwitch_reg _ _ ha⟩
  · exact ⟨_, hexec, State.domReqWrite_refused_alone hb hl hr hne⟩

theorem domReqWrite_while_busy {s : State} (v : Word32) (hio : s.takesIo Adr.PWR_DOM_REQ = true)
    (hb : s.flag F.PWR_STATUS.BUSY = true) : ∃ t, exec (.pwrDomReqWrite v) s = .next t
      ∧ t.flag F.PWR_STATUS.REFUSED = true ∧ t.fld F.PWR_STATUS.REF_REASON = 6
      ∧ t.fld F.PWR_DOM_REQ.REQ = s.fld F.PWR_DOM_REQ.REQ := by
  refine ⟨_, pwrDomReqWrite_taken v hio, ?_⟩
  rw [State.domReqWrite_busy _ hb]
  exact ⟨s.refuseSwitch_flag _ _, s.refuseSwitch_reason _ (by decide), State.fld_of_reg (s.refuseSwitch_reg _ _ (by decide))⟩

theorem powerDomainSwitched_in_configure {s : State} (fails : BitVec 128) (hb : s.flag F.PWR_STATUS.BUSY = true)
    (hl : s.pwr.pllLocked = true) (hm : s.mode = .configure) :
    (s.toSwitch false = [] → s.toSwitch true = [9] → ∃ t, exec (.powerDomainSwitched fails) s = .next t
        ∧ t.flag F.PWR_STATUS.BUSY = false ∧ t.domainOn 9 = true ∧ t.skp = [] ∧ t.mem = s.mem)
    ∧ (s.toSwitch false = [8] → s.toSwitch true = [] → ∃ t, exec (.powerDomainSwitched fails) s = .next t
        ∧ t.flag F.PWR_STATUS.BUSY = false ∧ t.domainOn 8 = false ∧ (∀ o, o < 48 → (t.pin o).driven = false)
        ∧ t.mem = s.mem) := by
  have hexec := powerDomainSwitched_of_busy hb hl fails
  refine ⟨fun hoff hon => ?_, fun hoff hon => ?_⟩
  · rw [State.switchDone_skipOn hm hoff hon] at hexec
    exact ⟨_, hexec, State.switchShown_not_busy _, (State.switchShown_domainOn _ 9).trans s.skipComes_domainOn,
      (State.switchShown_skp _).trans s.skipComes_skp, (State.switchShown_mem _).trans s.skipComes_mem⟩
  · rw [State.switchDone_pinsOff hm hoff hon] at hexec
    exact ⟨_, hexec, State.switchShown_not_busy _, (State.switchShown_domainOn _ 8).trans s.pinsGo_domainOn,
      fun o ho => by rw [State.pin_of_anm (State.switchShown_anm _), s.pinsGo_undriven ho],
      (State.switchShown_mem _).trans s.pinsGo_mem⟩

/-- What the adjustment does to shaft `k`, by the reading of its sensor. -/
theorem thermalAdjust_shaft (s : State) {temps : List (BitVec 16)} {k : Nat} (hk : k < temps.length) (h8 : k < 8) :
    let cur := s.nextCode k
    let hot := (s.fld F.PWR_THERM.THROTTLE_C : Int) * 16 ≤ temps[k].toInt ∨ s.memHot = true
    let cool := temps[k].toInt < ((s.fld F.PWR_THERM.THROTTLE_C : Int) - s.fld F.PWR_THERM.HYST) * 16
    s.shaftTripped k = false → ((s.readSensors temps 0).adjustShafts 8 0).nextCode k =
      if hot then (if cur < s.fld (F.PWR_SHAFT_CLK.FLOOR k) then cur + 1 else cur)
      else if cool ∧ s.fld (F.PWR_SHAFT_CLK.DIV k) < cur then cur - 1 else cur := by
  intro cur hot cool ht
  have hclk := s.readSensors_shaftClk temps h8
  have htrip : (s.readSensors temps 0).shaftTripped k = false := by rwa [State.shaftTripped, State.readSensors_pwr]
  rw [State.adjustShafts_nextCode _ 8 0 (Nat.zero_le k) (by omega) htrip,
    State.nextCode_of_parts hclk (by rw [State.readSensors_pwr])]
  by_cases h : hot
  · rw [if_pos h, State.adjusted_hot ((s.readSensors_hot hk).mpr h), State.fld_of_reg (f := F.PWR_SHAFT_CLK.FLOOR k) hclk]
  · rw [if_neg h, State.adjusted_not_hot (fun hh => h ((s.readSensors_hot hk).mp hh)),
      State.fld_of_reg (f := F.PWR_SHAFT_CLK.DIV k) hclk]
    simp only [s.readSensors_cool hk, cool, cur]

theorem clockRoot_commands (s : State) :
    (s.mode ≠ .off → s.pwr.pllLocked = true →
      (∃ t, exec .rootPllLossOfLock s = .next t ∧ t.pwr.pllLocked = false ∧ t.flag F.MEM_STATUS.D3_READY = false
        ∧ t.flag F.MEM_STATUS.D4_READY = false)
      ∧ exec (.pllRelock 0) s = .next s)
    ∧ ((s.mode = .off ∨ s.pwr.pllLocked = false) → exec .rootPllLossOfLock s = .next s)
    ∧ (s.mode ≠ .off → s.pwr.refclk = true → ∃ t, exec .refclkStop s = .next t ∧ t.pwr.refclk = false
        ∧ t.pwr.pllLocked = false ∧ t.mem.bytes = [])
    ∧ ((s.mode = .off ∨ s.pwr.refclk = false) → exec .refclkStop s = .next s)
    ∧ exec .refclkRestart s = .next { s with pwr := { s.pwr with refclk := true } }
    ∧ (s.mode ≠ .off → s.pwr.pllLocked = false → s.pwr.refclk = true → ∀ fails, ∃ t,
        exec (.pllRelock fails) s = .next t ∧ t.pwr.pllLocked = true)
    ∧ (s.pwr.refclk = false → ∀ fails, exec (.pllRelock fails) s = .next s) := by
  refine ⟨fun hm hl => ⟨⟨_, rootPllLossOfLock_of_locked hm hl, rfl, s.clockLost_not_ready 1 hl⟩, pllRelock_idle (.inl hl) 0⟩,
    rootPllLossOfLock_idle, fun hm hr => ⟨_, refclkStop_of_running hm hr, rfl, rfl, rfl⟩, refclkStop_idle, rfl,
    fun hm hl hr fails => ⟨_, pllRelock_of_lost hm hl hr fails, ?_⟩, fun hr fails => pllRelock_idle (.inr hr) fails⟩
  rw [State.forceHewers_pwr, State.retrained_pwr]

theorem thermalAdjust_reads {s : State} (hm : s.mode ≠ .off) (hl : s.pwr.pllLocked = true) {temps : List (BitVec 16)}
    (hn : temps.length = 9) : ∃ t, exec (.thermalAdjust temps) s = .next t
      ∧ (∀ i (hi : i < temps.length), t.fld (F.PWR_TEMP.TEMP i) = temps[i].toNat)
      ∧ ∀ k (hk : k < temps.length), k < 8 →
        let cur := s.nextCode k
        let temp := temps[k].toInt
        let hot := (s.fld F.PWR_THERM.THROTTLE_C : Int) * 16 ≤ temp ∨ s.memHot = true
        let cool := temp < ((s.fld F.PWR_THERM.THROTTLE_C : Int) - s.fld F.PWR_THERM.HYST) * 16
        t.reg (Adr.PWR_SHAFT_CLK k) = s.reg (Adr.PWR_SHAFT_CLK k)
        ∧ (s.shaftTripped k = true → t.pwr.step.get 0 k = s.pwr.step.get 0 k)
        ∧ (s.shaftTripped k = false →
          (hot → cur < s.fld (F.PWR_SHAFT_CLK.FLOOR k) → t.nextCode k = cur + 1)
          ∧ (hot → s.fld (F.PWR_SHAFT_CLK.FLOOR k) ≤ cur → t.nextCode k = cur)
          ∧ (¬ hot → cool → s.fld (F.PWR_SHAFT_CLK.DIV k) < cur → t.nextCode k + 1 = cur)
          ∧ (¬ hot → ¬ cool → t.nextCode k = cur)) := by
  have hregs (a : Nat) : ((s.readSensors temps 0).adjustShafts 8 0).reg a = (s.readSensors temps 0).reg a :=
    State.reg_of_regs (State.adjustShafts_regs _ _ _) a
  refine ⟨_, thermalAdjust_of_running hm hl hn, fun i hi => ?_, fun k hk h8 => ?_⟩
  · rw [State.fld_of_reg (hregs _), s.readSensors_temp_of_all hi]
  · refine ⟨(hregs _).trans (s.readSensors_shaftClk temps h8), fun ht => ?_, fun ht => ?_⟩
    · rw [State.adjustShafts_step _ _ _ (.inr (by rwa [State.shaftTripped, State.readSensors_pwr])), State.readSensors_pwr]
    · have hnext := thermalAdjust_shaft s hk h8 ht
      refine ⟨fun hh hf => ?_, fun hh hf => ?_, fun hh hc hd => ?_, fun hh hc => ?_⟩
      · rw [hnext, if_pos hh, if_pos hf]
      · rw [hnext, if_pos hh, if_neg (Nat.not_lt.mpr hf)]
      · rw [hnext, if_neg hh, if_pos ⟨hc, hd⟩]
        exact Nat.sub_add_cancel (Nat.one_le_of_lt hd)
      · rw [hnext, if_neg hh, if_neg (fun h => hc h.1)]

theorem thermalTrip_of_reading {s : State} {sensor : Fin 9} (hm : s.mode ≠ .off)
    (h : (s.fld F.PWR_THERM.TRIP_C : Int) * 16 ≤ signedOf 16 (s.fld (F.PWR_TEMP.TEMP sensor)))
    (ht : s.pwr.tripped.contains sensor.val = false) : ∃ t, exec (.thermalTrip sensor) s = .next t
      ∧ t.flag F.PWR_STATUS.TRIP = true ∧ t.fld F.PWR_STATUS.TRIP_SRC = sensor.val
      ∧ t.reg Adr.PWR_TRIP_LOG = BitVec.ofNat 64 s.time.now
      ∧ ∀ k, k < 8 → (sensor.val = k ∨ sensor.val = 8) → t.fld (F.PWR_SHAFT_CLK.CUR k) = 3 ∧ t.pwr.step.get 0 k = 0 := by
  obtain ⟨hflag, hsrc⟩ := (s.tripShafts sensor).tripShown_status s.time.now (Nat.lt_trans sensor.isLt (by decide))
  exact ⟨_, thermalTrip_of_hot hm ht (decide_eq_true h), hflag, hsrc, State.reg_setReg_same _ _ _,
    fun k hk hs => State.tripShown_slowest _ _ (s.tripShafts_slowest hk hs)⟩

/-- Settles O56: each clause by the lemma on its command; the lowest refused domain is found because the changed domains
stand in rising order, and a shaft's code after THERMAL_ADJUST depends on that shaft alone. -/
theorem clocksDomainsAndTemperature : Obligations.ClocksDomainsAndTemperature := by
  refine ⟨clockRoot_commands, fun v s => ⟨pwrDomReqWrite_not_taken v, fun hio => ⟨domReqWrite_while_busy v hio, fun hb => ?_⟩⟩,
    fun fails s => ⟨fun h => powerDomainSwitched_idle h fails, powerDomainSwitched_in_configure fails⟩,
    fun temps s hm hl hn => thermalAdjust_reads hm hl hn, fun sensor shaft s hm hl => ?_⟩
  · obtain ⟨hsame, hgranted, hlowest, halone⟩ := domReqWrite_cases v hio hb
    refine ⟨hsame, hgranted, hlowest, fun d hd hs hw hk => ?_, fun hs hw hk => ?_, fun hs hw hc => ?_⟩
    · exact halone d 5 hs (State.switchRefusal_memory hd (by simp [hs]) hw hk) (by decide)
    · exact halone 9 4 hs (State.switchRefusal_skip (by simp [hs]) hw hk) (by decide)
    · exact halone 1 1 hs (State.switchRefusal_parent (by simp [hs]) hw hc) (by decide)
  · refine ⟨cclkStep_idle, fun c hc hb hs => ?_, fun h => ?_, fun h ht => thermalTrip_of_reading hm h ht, fun h => ?_,
      fun h ht => ?_⟩
    · exact ⟨_, cclkStep_of_waiting hl hb hs, s.stepTaken_cur _ hc, s.stepTaken_step _ _,
        fun a ha => s.stepTaken_reg_other _ _ ha⟩
    · exact thermalTrip_idle (decide_eq_false (Int.not_le.mpr h))
    · exact thermalTripEnd_idle (decide_eq_false (Int.not_lt.mpr h))
    · exact ⟨_, thermalTripEnd_of_cool hm (by simp [ht]) (decide_eq_true h), State.tripEnded_none ht,
        fun k hk hs => State.tripEnded_cur ht hk hs⟩

end Sys2Proof.Machine

/-!
PROOFS. What a fault record, and what each part of a clock cycle, leave alone of the IO registers and of plant time.
-/
namespace Sys2Proof.Machine

/-! ### The registers that a fault record leaves alone -/

/-- The first IO address that a fault record may write: the pending bits of MSI-X (R617) and the registers of the fault block (R712 to
R718) lie from here on. -/
def recordRegs : Nat := 0x09F01000

theorem State.rawWrite_regs (s : State) (a : Nat) (l : List Byte) : (s.rawWrite a l).regs = s.regs := by
  obtain ⟨b, hb⟩ := State.rawWrite_rest s a l
  rw [hb]

theorem State.dmaWriteBy_regs (s : State) (src a : Nat) (l : List Byte) : (s.dmaWriteBy src a l).regs = s.regs :=
  (State.rawWrite_regs (s.hubAccess a l.length src true) a l).trans (State.hubAccess_regs _ _ _ _ _)

theorem State.dmaWrite_regs (s : State) (a : Nat) (l : List Byte) : (s.dmaWrite a l).regs = s.regs :=
  State.dmaWriteBy_regs s srcDevice a l

theorem State.dmaWritePoison_regs (s : State) (src a : Nat) (l : List Byte) : (s.dmaWritePoison src a l).regs = s.regs :=
  (State.rawWrite_regs (s.hubAccess a l.length src true) a l).trans (State.hubAccess_regs _ _ _ _ _)

theorem State.setPba_reg (s : State) (f vec : Nat) (on : Bool) {a : Nat} (h : a < recordRegs) :
    (s.setPba f vec on).reg a = s.reg a := by
  unfold State.setPba
  split
  · exact State.setFld_reg_other _ _ _ (Nat.ne_of_lt (Nat.lt_of_lt_of_le h (Nat.le_add_right _ _)))
  · rfl

theorem State.sendMsix_reg (s : State) (f vec : Nat) {a : Nat} (h : a < recordRegs) :
    (s.sendMsix f vec).reg a = s.reg a := by
  have hp := s.setPba_reg f vec true h
  unfold State.sendMsix
  simp only
  split
  · rfl
  · split
    · split <;> exact hp
    · split
      · rfl
      · split
        · exact hp
        · rfl

theorem ne_of_lt_recordRegs {a b : Nat} (h : a < recordRegs) (hb : recordRegs ≤ b) : a ≠ b := by omega

theorem State.notify_reg (s : State) (bits : Nat) {a : Nat} (h : a < recordRegs) : (s.notify bits).reg a = s.reg a := by
  have hs := fun v => s.reg_setReg_other v (ne_of_lt_recordRegs (b := Adr.FLT_NOTIFY) h (by decide))
  unfold State.notify
  simp only
  split
  · rw [State.sendMsix_reg _ _ _ h, hs]
  · rw [hs]

theorem State.logWrite_reg (s : State) (r : FaultRec) {a : Nat} (h : a < recordRegs) : (s.logWrite r).reg a = s.reg a :=
  (State.setFld_reg_other _ _ _ (ne_of_lt_recordRegs h (by decide))).trans (State.reg_of_regs (s.dmaWrite_regs _ _) a)

theorem State.count_reg_other (s : State) (f : IoField) (n : Nat) {a : Nat} (h : a ≠ f.addr) : (s.count f n).reg a = s.reg a := by
  unfold State.count
  exact State.setFld_reg_other _ _ _ h

theorem State.bufferRecord_regs (s : State) (r : FaultRec) :
    (s.bufferRecord r).regs = if s.flt.buffer.length < 64 then s.regs else (s.count F.FLT_COUNTS.DROPPED 1).regs := by
  unfold State.bufferRecord
  split <;> rfl

theorem State.bufferRecord_reg (s : State) (r : FaultRec) {a : Nat} (h : a < recordRegs) : (s.bufferRecord r).reg a = s.reg a := by
  have hregs := s.bufferRecord_regs r
  split at hregs
  · exact State.reg_of_regs hregs a
  · exact (State.reg_of_regs hregs a).trans (s.count_reg_other _ _ (ne_of_lt_recordRegs h (by decide)))

theorem State.logRecord_reg (s : State) (r : FaultRec) {a : Nat} (h : a < recordRegs) : (s.logRecord r).reg a = s.reg a := by
  have hn := s.notify_reg (notifyBits r.code r.sev) h
  unfold State.logRecord
  split
  · rfl
  · generalize s.notify (notifyBits r.code r.sev) = u at *
    simp only
    split
    · exact (u.logWrite_reg r h).trans hn
    · exact (u.bufferRecord_reg r h).trans hn

/-- A fault record leaves every register below those of MSI-X and of the fault block alone. -/
theorem State.log_reg (s : State) (loc code detail cls dw2 dw3 : Nat) {a : Nat} (h : a < recordRegs) :
    (s.log loc code detail cls dw2 dw3).reg a = s.reg a := State.logRecord_reg _ _ h

theorem State.log_fld (s : State) (loc code detail cls dw2 dw3 : Nat) {f : IoField} (h : f.addr < recordRegs) :
    (s.log loc code detail cls dw2 dw3).fld f = s.fld f := State.fld_of_reg (s.log_reg _ _ _ _ _ _ h)

/-! ### Plant time but for the stamps -/

/-- Plant time and its servo without the cycles of the latest stamps: what an operation leaves alone that only takes stamps. -/
def TimeState.unstamped (t : TimeState) : TimeState := { t with lastStamp := [] }

@[simp] theorem State.stamp_unstamped (s : State) (loc : Nat) : (s.stamp loc).2.time.unstamped = s.time.unstamped := rfl

@[simp] theorem State.rawWrite_time (s : State) (a : Nat) (l : List Byte) : (s.rawWrite a l).time = s.time := by
  obtain ⟨b, hb⟩ := State.rawWrite_rest s a l
  rw [hb]

@[simp] theorem State.dmaWriteBy_time (s : State) (src a : Nat) (l : List Byte) : (s.dmaWriteBy src a l).time = s.time :=
  (State.rawWrite_time (s.hubAccess a l.length src true) a l).trans (State.hubAccess_time _ _ _ _ _)

@[simp] theorem State.setPba_time (s : State) (f vec : Nat) (on : Bool) : (s.setPba f vec on).time = s.time := by
  unfold State.setPba
  split <;> rfl

@[simp] theorem State.sendMsix_time (s : State) (f vec : Nat) : (s.sendMsix f vec).time = s.time := by
  have hp := s.setPba_time f vec true
  unfold State.sendMsix
  simp only
  split
  · rfl
  · split
    · split <;> exact hp
    · split
      · rfl
      · split
        · exact hp
        · rfl

@[simp] theorem State.notify_time (s : State) (bits : Nat) : (s.notify bits).time = s.time := by
  unfold State.notify
  simp only
  split <;> simp

@[simp] theorem State.logWrite_time (s : State) (r : FaultRec) : (s.logWrite r).time = s.time := by
  unfold State.logWrite State.dmaWrite
  rw [State.setFld_time, State.dmaWriteBy_time]

@[simp] theorem State.bufferRecord_time (s : State) (r : FaultRec) : (s.bufferRecord r).time = s.time := by
  have hc := s.count_time F.FLT_COUNTS.DROPPED 1
  unfold State.bufferRecord
  generalize s.count F.FLT_COUNTS.DROPPED 1 = u at *
  split
  · rfl
  · exact hc

@[simp] theorem State.logRecord_time (s : State) (r : FaultRec) : (s.logRecord r).time = s.time := by
  have hn := s.notify_time (notifyBits r.code r.sev)
  unfold State.logRecord
  split
  · rfl
  · generalize s.notify (notifyBits r.code r.sev) = u at *
    simp only
    split
    · rw [State.logWrite_time, hn]
    · rw [State.bufferRecord_time, hn]

/-- A fault record takes one stamp and leaves the rest of plant time alone. -/
@[simp] theorem State.log_unstamped (s : State) (loc code detail cls dw2 dw3 : Nat) :
    (s.log loc code detail cls dw2 dw3).time.unstamped = s.time.unstamped :=
  (congrArg TimeState.unstamped (State.logRecord_time _ _)).trans (s.stamp_unstamped loc)

/-! ### What a change of mode leaves alone of plant time -/

@[simp] theorem State.dequeue_time (s : State) (i : Nat) : (s.dequeue i).time = s.time := by
  unfold State.dequeue
  split
  · rfl
  · split
    · split <;> simp
    · simp
    · rfl

@[simp] theorem State.dropActivation_time (s : State) (i : Nat) : (s.dropActivation i).time = s.time := by
  unfold State.dropActivation
  simp only
  split
  · split
    · simp [State.flushPred]
    · simp
  · simp

@[simp] theorem State.discardAll_time (s : State) : s.discardAll.time = s.time :=
  foldl_leaves State.time _ State.dropActivation_time _ s

@[simp] theorem State.pinSafe_time (s : State) (o : Nat) : (s.pinSafe o).time = s.time := by
  unfold State.pinSafe
  split <;> rfl

@[simp] theorem State.pinsTo_time (s : State) (m : Mode) : (s.pinsTo m).time = s.time := by
  unfold State.pinsTo
  split
  case h_4 => exact foldl_leaves State.time _ State.pinSafe_time _ s
  case h_5 => exact foldl_leaves State.time State.pinOff (fun _ _ => rfl) _ s
  all_goals rfl

@[simp] theorem State.toMode_unstamped (s : State) (new : Mode) : (s.toMode new).time.unstamped = s.time.unstamped := by
  unfold State.toMode
  simp only
  split
  · rfl
  · have hd (t : State) : (if s.mode.holdsCanary && !new.holdsCanary then t.devReload else t).time = t.time := by
      split <;> rfl
    have hf (t : State) : (if new.banked then t.forceHewers else t).time = t.time := by
      split <;> rfl
    have hx (t : State) : (if new = .safeHold then t.discardAll else t).time = t.time := by
      split <;> simp
    rw [hf, hd, State.pinsTo_time, hx, State.log_unstamped, State.setFld_time, State.setFld_time]

@[simp] theorem State.safeHold_unstamped (s : State) (cause : Nat) : (s.safeHold cause).time.unstamped = s.time.unstamped := by
  unfold State.safeHold
  split
  · rfl
  · split
    · rfl
    · rw [State.toMode_unstamped, State.setFld_time]

@[simp] theorem State.settle_unstamped (s : State) : s.settle.time.unstamped = s.time.unstamped := by
  have hd : s.setDeg.time = s.time := rfl
  unfold State.settle
  simp only
  split
  · rw [State.safeHold_unstamped, hd]
  · split
    · rw [State.toMode_unstamped, hd]
    · split
      · rw [State.toMode_unstamped, hd]
      · rw [hd]

/-! ### What a draining store leaves alone of plant time -/

@[simp] theorem State.tallyFrom_time (s : State) (h e k m n : Nat) : (s.tallyFrom h e k m n).time = s.time := by
  induction m generalizing s n with
  | zero => rfl
  | succ j ih =>
    rw [State.tallyFrom, ih]
    split
    · unfold State.addCount
      simp only
      split <;> rfl
    · rfl

@[simp] theorem State.tally_time (s : State) (h e : Nat) : (s.tally h e).time = s.time := by
  unfold State.tally State.noteEvent
  rw [State.tallyFrom_time]
  split <;> rfl

@[simp] theorem State.l2Request_time (s : State) (h line ca cls : Nat) (write : Bool) :
    (s.l2Request h line ca cls write).1.time = s.time := by
  have hg := CachesOf.time (State.l2Get_caches s (h / 8) line cls h write rfl)
  unfold State.l2Request
  split
  · exact CachesOf.time (State.hubUse_caches s line h write rfl)
  · simp only
    split <;> simp [hg]

@[simp] theorem State.l2Mod_time (s : State) (g line : Nat) (f : L2Line → L2Line) : (s.l2Mod g line f).time = s.time :=
  CachesOf.time (State.l2Mod_caches s g line f rfl)

@[simp] theorem State.l1dOthers_time (s : State) (g tn line : Nat) (write : Bool) : (s.l1dOthers g tn line write).time = s.time := by
  have hd (t : State) := CachesOf.time (State.galleryDrop_caches t g line (some tn) rfl)
  have hc (t : State) := CachesOf.time (State.galleryClean_caches t g line (some tn) rfl)
  unfold State.l1dOthers
  simp only
  split <;> simp only [hd, hc] <;> split <;> simp

@[simp] theorem State.l1dFill_time (s : State) (g tn line : Nat) (dirty : Bool) : (s.l1dFill g tn line dirty).time = s.time := by
  unfold State.l1dFill
  rw [State.modTwin_time]
  refine foldl_leaves State.time _ (fun t e => ?_) _ s
  split <;> simp

@[simp] theorem State.ownLine_time (s : State) (h line : Nat) : (s.ownLine h line).time = s.time :=
  CachesOf.time (State.setDir_caches _ _ _ (State.invalidateLine_caches s line h _ rfl))

@[simp] theorem State.dataLine_time (s : State) (h line ca cls : Nat) (write : Bool) :
    (s.dataLine h line ca cls write).1.time = s.time := by
  unfold State.dataLine
  simp only
  split
  · cases write <;> simp
  · simp [apply_ite Prod.fst, apply_ite State.time]

@[simp] theorem State.sbPerform_time (s : State) (h : Nat) (e : StoreEntry) : (s.sbPerform h e).time = s.time := by
  have hf := foldl_leaves State.time (fun t k => (t.dataLine h k e.ca e.cls true).1) (fun t k => t.dataLine_time h k e.ca e.cls true)
    (linesOf e.pa e.data.length) s
  exact (State.rawWrite_time _ e.pa e.data).trans hf

@[simp] theorem State.sbDrain_time (s : State) (h n : Nat) : (s.sbDrain h n).time = s.time := by
  unfold State.sbDrain
  exact (foldl_leaves State.time _ (fun t e => t.sbPerform_time h e) _ _).trans (State.modTwin_time _ _ _)

/-! ### What the parts of a clock cycle leave alone of plant time -/

@[simp] theorem State.drainTick_time (s : State) : s.drainTick.time = s.time := by
  refine foldl_leaves State.time _ (fun t e => ?_) _ s
  split <;> simp

@[simp] theorem State.romRun_time (s : State) (h : Nat) : (s.romRun h).time = s.time := by
  unfold State.romRun
  split
  · unfold State.romStart
    simp only
    split
    case h_3 => split <;> rfl
    all_goals rfl
  · split
    · unfold State.romHandler
      simp only
      split <;> rfl
    · rfl

@[simp] theorem State.romTick_time (s : State) : s.romTick.time = s.time := foldl_leaves State.time _ State.romRun_time _ s

@[simp] theorem State.cclkTick_time (s : State) (n k : Nat) : (s.cclkTick n k).time = s.time := by
  induction n generalizing s k with
  | zero => rfl
  | succ j ih =>
    rw [State.cclkTick, ih]
    split <;> rfl

@[simp] theorem State.canaryTicks_time (s : State) (n h : Nat) : (s.canaryTicks n h).time = s.time := by
  induction n generalizing s h with
  | zero => rfl
  | succ k ih =>
    rw [State.canaryTicks, ih]
    split <;> rfl

/-- A microsecond tick counts one microsecond and starts its phase again (R833). -/
theorem State.usTick_time (s : State) : s.usTick.time = { s.time with us := s.time.us + 1, usPhase := 0 } := by
  simp only [State.usTick, State.canaryTicks_time]
  split <;> rfl

/-! ### One clock cycle (R50, R833) -/

theorem step_of_empty {s : State} (h : s.pending = []) : step s = .next s.tick := by
  simp only [step, h]

theorem State.tick_of_off {s : State} (h : s.mode = .off) : s.tick = s := by
  simp only [State.tick, h, if_true]

/-- Without TCLK only the microsecond tick goes on (R833, R838). -/
theorem State.tick_of_unlocked {s : State} (hm : s.mode ≠ .off) (hl : s.pwr.pllLocked = false) :
    s.tick.time.now = s.time.now ∧ s.tick.time.frac = s.time.frac := by
  simp only [State.tick, hm, if_false, hl, Bool.false_eq_true]
  split
  · rw [State.usTick_time]
    exact ⟨rfl, rfl⟩
  · exact ⟨rfl, rfl⟩

/-- A TCLK cycle moves plant time by one cycle's share and counts itself; the rest of the cycle leaves both alone (R50). -/
theorem State.tick_of_locked {s : State} (hm : s.mode ≠ .off) (hl : s.pwr.pllLocked = true) :
    s.tick.time.now = (s.timeAfter 1).1 ∧ s.tick.time.frac = (s.timeAfter 1).2 ∧ s.tick.time.cyc = s.time.cyc + 1 := by
  simp only [State.tick, hm, if_false, hl, if_true]
  generalize hs : State.romTick _ = s2
  have ht : s2.time = { s.time with
      now := (s.timeAfter 1).1, prev := s.time.now, frac := (s.timeAfter 1).2, cyc := s.time.cyc + 1,
      usPhase := s.time.usPhase + 1 } := by
    rw [← hs, State.romTick_time, State.drainTick_time, State.cclkTick_time, State.mapHewers_time]
  generalize hc : (if 800 ≤ s2.time.usPhase then s2.usTick else s2) = s3
  obtain ⟨u, p, hu⟩ : ∃ u p, s3.time = { s2.time with us := u, usPhase := p } := by
    rw [← hc]
    split
    · exact ⟨_, _, s2.usTick_time⟩
    · exact ⟨_, _, rfl⟩
  have he := s3.settle_unstamped
  rw [hu, ht] at he
  exact ⟨congrArg TimeState.now he, congrArg TimeState.frac he, congrArg TimeState.cyc he⟩

/-- Settles O2: by the three cases of the tick; a TCLK cycle moves the counter by the sum of R50. -/
theorem emptyQueueTicks : Obligations.EmptyQueueTicks := by
  intro s hp
  rw [step_of_empty hp]
  refine ⟨fun h => by rw [State.tick_of_off h], fun hm hl => ⟨_, rfl, State.tick_of_unlocked hm hl⟩, fun hm hl => ?_⟩
  obtain ⟨hnow, hfrac, hcyc⟩ := State.tick_of_locked hm hl
  refine ⟨_, rfl, ?_, ?_, hcyc⟩
  · rw [hnow]
    simp [State.timeAfter, State.rate]
  · rw [hfrac]
    simp only [State.timeAfter, State.rate, Nat.cast_one, one_mul]
    exact Int.toNat_of_nonneg (Int.emod_nonneg _ (by decide))

end Sys2Proof.Machine

/-!
PROOFS. The writes of TIM_SET and of the compare units (R71, R82).
-/
namespace Sys2Proof.Machine

/-! ### TIM_SET (R71) -/

theorem timSet_not_taken {s : State} (v : Word) (h : s.takesIo Adr.TIM_SET = false) : exec (.timSet v) s = .next s := by
  show execTimSet v s = _
  simp [execTimSet, done, h]

theorem timSet_taken {s : State} (v : Word) (h : s.takesIo Adr.TIM_SET = true) :
    exec (.timSet v) s = .next (s.timSetWrite v.toNat) := by
  show execTimSet v s = _
  simp [execTimSet, done, h]

theorem State.timSetWrite_of_free {s : State} (v : Nat) (hst : s.fld F.TIM_STATUS.STATE = 0)
    (hs : s.flag F.TIM_STATUS.STEPPED = false) : s.timSetWrite v = (s.stepTo v).raise F.TIM_STATUS.STEPPED := by
  simp [State.timSetWrite, State.syncState, stFree, hst, hs, State.raise]

theorem State.timSetWrite_rejected {s : State} (v : Nat)
    (h : s.fld F.TIM_STATUS.STATE ≠ 0 ∨ s.flag F.TIM_STATUS.STEPPED = true) :
    s.timSetWrite v = s.setFld F.TIM_STATUS.SET_REJ 1 := by
  rcases h with h | h <;> simp [State.timSetWrite, State.syncState, stFree, h, State.raise]

/-- Settles O39: the write by its three cases; a word is below 2^64, so the counter takes it whole. -/
theorem timeIsSetOnlyInFree : Obligations.TimeIsSetOnlyInFree := by
  refine fun s v => ⟨timSet_not_taken v, fun hio hst hs => ?_, fun hio h => ?_⟩
  · refine ⟨_, (timSet_taken v hio).trans (by rw [State.timSetWrite_of_free _ hst hs]), Nat.mod_eq_of_lt v.isLt, rfl,
      State.flag_raise _ _ IoField.fits, ?_, fun a ha => State.setFld_reg_other (s.stepTo v.toNat) _ _ ha, rfl, rfl, rfl, rfl⟩
    exact (State.fld_setFld_other _ _ _ _ IoField.fits (by decide)).trans hst
  · rw [timSet_taken v hio, State.timSetWrite_rejected _ h]

/-! ### The writes of a compare unit (R82) -/

theorem compareUnitWrite_not_taken {s : State} {n : Fin 64} (h : s.takesIo (Adr.TIM_CMP_CTL n) = false) (which : Fin 3) (v : Word) :
    exec (.compareUnitWrite n which v) s = .next s := by
  show execCompareUnitWrite n which v s = _
  simp [execCompareUnitWrite, done, h]

/-- What a write of register 0 TARGET, 1 PERIOD or 2 CTL does, where it is taken. -/
theorem compareUnitWrite_taken {s : State} {n : Fin 64} (h : s.takesIo (Adr.TIM_CMP_CTL n) = true) (v : Word) :
    exec (.compareUnitWrite n 0 v) s = .next (s.cmpWrite n (Adr.TIM_CMP_TARGET n) v)
      ∧ exec (.compareUnitWrite n 1 v) s = .next (s.cmpWrite n (Adr.TIM_CMP_PERIOD n) v)
      ∧ exec (.compareUnitWrite n 2 v) s = .next (s.cmpCtlWrite n (v.toNat % 2 ^ 32)) := by
  refine ⟨?_, ?_, ?_⟩
  · show execCompareUnitWrite n 0 v s = _
    simp [execCompareUnitWrite, done, h]
  · show execCompareUnitWrite n 1 v s = _
    simp [execCompareUnitWrite, done, h]
  · show execCompareUnitWrite n 2 v s = _
    simp [execCompareUnitWrite, done, h]

theorem State.cmpWrite_armed {s : State} {n : Nat} (a : Nat) (v : Word) (h : s.flag (F.TIM_CMP_CTL.ARM n) = true) :
    s.cmpWrite n a v = s.setFld (F.TIM_CMP_STAT.CFG_ERR n) 1 := by
  rw [State.cmpWrite, if_pos h, State.raise]

theorem State.cmpWrite_disarmed {s : State} {n : Nat} (a : Nat) (v : Word) (h : s.flag (F.TIM_CMP_CTL.ARM n) = false) :
    s.cmpWrite n a v = s.setReg a v := by
  simp [State.cmpWrite, h]

theorem bitsOf_mod_two_pow (v : Nat) {n hi lo : Nat} (h : hi < n) : bitsOf (v % 2 ^ n) hi lo = bitsOf v hi lo := by
  apply Nat.eq_of_testBit_eq
  intro i
  rw [testBit_bitsOf, testBit_bitsOf, Nat.testBit_mod_two_pow]
  by_cases hi' : i < hi + 1 - lo
  · have : lo + i < n := by omega
    simp [this]
  · simp [hi']

/-- The word that a write of CTL leaves in the register: ARG in [31:16], ACTION in [3:1], ARM in [0]. -/
def ctlWord (arg action arm : Nat) : Word := BitVec.ofNat 64 (arg * 2 ^ 16 + action * 2 + arm)

/-- The fields of CTL after a write of its word. -/
theorem State.setReg_ctlWord (s : State) (n : Nat) {arg action arm : Nat} (ha : arg < 2 ^ 16) (hc : action < 8) (hr : arm < 2) :
    (s.setReg (Adr.TIM_CMP_CTL n) (ctlWord arg action arm)).fld (F.TIM_CMP_CTL.ARM n) = arm
      ∧ (s.setReg (Adr.TIM_CMP_CTL n) (ctlWord arg action arm)).fld (F.TIM_CMP_CTL.ACTION n) = action
      ∧ (s.setReg (Adr.TIM_CMP_CTL n) (ctlWord arg action arm)).fld (F.TIM_CMP_CTL.ARG n) = arg := by
  have hw : (ctlWord arg action arm).toNat = arg * 2 ^ 16 + action * 2 + arm := by
    rw [ctlWord, BitVec.toNat_ofNat]
    exact Nat.mod_eq_of_lt (by omega)
  simp only [State.fld, F.TIM_CMP_CTL.ARM, F.TIM_CMP_CTL.ACTION, F.TIM_CMP_CTL.ARG, State.reg_setReg_same, hw, bitsOf]
  omega

theorem cmpStat_ne_cmpCtl (m n : Nat) : Adr.TIM_CMP_STAT m ≠ Adr.TIM_CMP_CTL n := by
  unfold Adr.TIM_CMP_STAT Adr.TIM_CMP_CTL
  omega

/-- A reserved ACTION is not armed. -/
theorem State.cmpCtlWrite_reserved (s : State) (n : Nat) {v : Nat} (hr : bitOf v 0 = true) (h : 6 ≤ bitsOf v 3 1) :
    (s.cmpCtlWrite n v).flag (F.TIM_CMP_CTL.ARM n) = false ∧ (s.cmpCtlWrite n v).flag (F.TIM_CMP_STAT.CFG_ERR n) = true := by
  have hw : s.cmpCtlWrite n v
      = (s.setReg (Adr.TIM_CMP_CTL n) (ctlWord (bitsOf v 31 16) (bitsOf v 3 1) 0)).raise (F.TIM_CMP_STAT.CFG_ERR n) := by
    simp [State.cmpCtlWrite, hr, h, ctlWord]
  obtain ⟨harm, -, -⟩ := s.setReg_ctlWord n (bitsOf_lt v 31 16) (bitsOf_lt v 3 1) (arm := 0) (by decide)
  rw [hw]
  refine ⟨?_, State.flag_raise _ _ IoField.fits⟩
  rw [State.raise, State.flag_setFld_other _ _ _ _ IoField.fits (.inl (cmpStat_ne_cmpCtl n n).symm), State.flag, harm]
  rfl

/-- Another ACTION is armed, with ACTION and ARG as written. -/
theorem State.cmpCtlWrite_armed (s : State) (n : Nat) {v : Nat} (hr : bitOf v 0 = true) (h : bitsOf v 3 1 < 6) :
    (s.cmpCtlWrite n v).flag (F.TIM_CMP_CTL.ARM n) = true ∧ (s.cmpCtlWrite n v).fld (F.TIM_CMP_CTL.ACTION n) = bitsOf v 3 1
      ∧ (s.cmpCtlWrite n v).fld (F.TIM_CMP_CTL.ARG n) = bitsOf v 31 16
      ∧ (s.cmpCtlWrite n v).reg (Adr.TIM_CMP_STAT n) = s.reg (Adr.TIM_CMP_STAT n) := by
  have h2 : v % 2 = 1 := by
    rw [bitOf, Nat.testBit_zero] at hr
    exact of_decide_eq_true hr
  have hw : s.cmpCtlWrite n v = s.setReg (Adr.TIM_CMP_CTL n) (ctlWord (bitsOf v 31 16) (bitsOf v 3 1) 1) := by
    simp [State.cmpCtlWrite, Nat.not_le.mpr h, ctlWord, h2]
  obtain ⟨harm, haction, harg⟩ := s.setReg_ctlWord n (bitsOf_lt v 31 16) (bitsOf_lt v 3 1) (arm := 1) (by decide)
  rw [hw]
  exact ⟨by rw [State.flag, harm]; rfl, haction, harg, State.reg_setReg_other _ _ (cmpStat_ne_cmpCtl n n)⟩

/-- Settles O41: each register's write by the lemma on its case; CTL takes the low 32 bits of the value. -/
theorem compareUnitsRefuseArmedWrites : Obligations.CompareUnitsRefuseArmedWrites := by
  refine fun n v s => ⟨fun hio which => compareUnitWrite_not_taken hio which v, fun hio => ?_⟩
  obtain ⟨htarget, hperiod, hctl⟩ := compareUnitWrite_taken hio v
  have hlow (hi lo : Nat) (h : hi < 32) : bitsOf (v.toNat % 2 ^ 32) hi lo = bitsOf v.toNat hi lo := bitsOf_mod_two_pow _ h
  refine ⟨fun h => ?_, fun h => ?_, fun hr => ⟨_, hctl, fun h => ?_, fun h => ?_⟩⟩
  · rw [htarget, hperiod, State.cmpWrite_armed _ _ h, State.cmpWrite_armed _ _ h]
    exact ⟨rfl, rfl⟩
  · rw [htarget, hperiod, State.cmpWrite_disarmed _ _ h, State.cmpWrite_disarmed _ _ h]
    exact ⟨rfl, rfl⟩
  all_goals
    have hr32 : bitOf (v.toNat % 2 ^ 32) 0 = true := by
      rw [bitOf, Nat.testBit_mod_two_pow]
      simpa [bitOf] using hr
  · exact s.cmpCtlWrite_reserved n hr32 (by rwa [hlow 3 1 (by decide)])
  · have ha := s.cmpCtlWrite_armed n hr32 (by rwa [hlow 3 1 (by decide)])
    rwa [hlow 3 1 (by decide), hlow 31 16 (by decide)] at ha

end Sys2Proof.Machine

/-!
PROOFS. The synchronisation states (R66 to R73): what each operation of Machine/Time does to TIM_STATUS, TIM_RATE and plant time
and what it leaves alone, a Sync measured state by state, and the settled statement.
-/
namespace Sys2Proof.Machine

/-! ### A change of state -/

theorem State.toSync_reg (s : State) (new : Nat) {a : Nat} (h : a ≠ Adr.TIM_STATUS) (hb : a < recordRegs) :
    (s.toSync new).reg a = s.reg a := by
  have hs := s.setFld_reg_other F.TIM_STATUS.STATE new h
  unfold State.toSync
  simp only
  split
  · rw [State.log_reg _ _ _ _ _ _ _ hb, hs]
  · exact hs

theorem State.toSync_fld (s : State) (new : Nat) {f : IoField} (hd : f.addr ≠ Adr.TIM_STATUS ∨ 2 < f.lo)
    (hb : f.addr < recordRegs) : (s.toSync new).fld f = s.fld f := by
  have hs := s.fld_setFld_other F.TIM_STATUS.STATE f new IoField.fits (hd.imp_right .inl)
  unfold State.toSync
  simp only
  split
  · rw [State.log_fld _ _ _ _ _ _ _ hb, hs]
  · exact hs

theorem State.toSync_state (s : State) {new : Nat} (h : new < 8) : (s.toSync new).fld F.TIM_STATUS.STATE = new := by
  have hs : (s.setFld F.TIM_STATUS.STATE new).fld F.TIM_STATUS.STATE = new :=
    (s.fld_setFld_same _ _ IoField.fits).trans (Nat.mod_eq_of_lt h)
  unfold State.toSync
  simp only
  split
  · rw [State.log_fld _ _ _ _ _ _ _ (by decide), hs]
  · exact hs

@[simp] theorem State.toSync_unstamped (s : State) (new : Nat) : (s.toSync new).time.unstamped = s.time.unstamped := by
  unfold State.toSync
  simp only
  split <;> simp

/-- The state and the port that TIM_STATUS shows: what `unfollow` and `acquire` write there. -/
def State.toSyncOn (s : State) (new port : Nat) : State := (s.toSync new).setFld F.TIM_STATUS.SLAVE_PORT port

theorem State.toSyncOn_reg (s : State) (new port : Nat) {a : Nat} (h : a ≠ Adr.TIM_STATUS) (hb : a < recordRegs) :
    (s.toSyncOn new port).reg a = s.reg a :=
  (State.setFld_reg_other _ _ _ h).trans (s.toSync_reg new h hb)

theorem State.toSyncOn_fld (s : State) (new port : Nat) {f : IoField}
    (hd : f.addr ≠ Adr.TIM_STATUS ∨ 11 < f.lo ∨ (2 < f.lo ∧ f.hi < 8)) (hb : f.addr < recordRegs) :
    (s.toSyncOn new port).fld f = s.fld f := by
  have h1 : f.addr ≠ Adr.TIM_STATUS ∨ 11 < f.lo ∨ f.hi < 8 := hd.imp_right (.imp_right And.right)
  have h2 : f.addr ≠ Adr.TIM_STATUS ∨ 2 < f.lo := hd.imp_right (Or.rec (Nat.lt_trans (by decide)) And.left)
  exact (State.fld_setFld_other _ _ _ _ IoField.fits h1).trans (s.toSync_fld new h2 hb)

theorem State.toSyncOn_state (s : State) {new : Nat} (port : Nat) (h : new < 8) :
    (s.toSyncOn new port).fld F.TIM_STATUS.STATE = new :=
  (State.fld_setFld_other _ _ _ _ IoField.fits (by decide)).trans (s.toSync_state h)

theorem State.toSyncOn_port (s : State) (new : Nat) {port : Nat} (h : port < 16) :
    (s.toSyncOn new port).fld F.TIM_STATUS.SLAVE_PORT = port :=
  (State.fld_setFld_same _ _ _ IoField.fits).trans (Nat.mod_eq_of_lt h)

theorem State.unfollow_regs (s : State) (new : Nat) : (s.unfollow new).regs = (s.toSyncOn new 0xF).regs := by
  simp only [State.unfollow, State.toSyncOn]

theorem State.unfollow_reg (s : State) (new : Nat) {a : Nat} (h : a ≠ Adr.TIM_STATUS) (hb : a < recordRegs) :
    (s.unfollow new).reg a = s.reg a :=
  (State.reg_of_regs (s.unfollow_regs new) a).trans (s.toSyncOn_reg new 0xF h hb)

theorem State.unfollow_state (s : State) {new : Nat} (h : new < 8) : (s.unfollow new).fld F.TIM_STATUS.STATE = new :=
  (State.fld_of_reg (State.reg_of_regs (s.unfollow_regs new) _)).trans (s.toSyncOn_state 0xF h)

theorem State.unfollow_unstamped (s : State) (new : Nat) :
    (s.unfollow new).time.unstamped = { s.time with master := none }.unstamped :=
  congrArg (fun t : TimeState => { t with master := none }) (s.toSync_unstamped new)

theorem State.acquire_regs (s : State) (m port : Nat) : (s.acquire m port).regs = (s.toSyncOn stAcquire port).regs := rfl

theorem State.acquire_reg (s : State) (m port : Nat) {a : Nat} (h : a ≠ Adr.TIM_STATUS) (hb : a < recordRegs) :
    (s.acquire m port).reg a = s.reg a :=
  (State.reg_of_regs (s.acquire_regs m port) a).trans (s.toSyncOn_reg _ _ h hb)

theorem State.acquire_fld (s : State) (m port : Nat) {f : IoField}
    (hd : f.addr ≠ Adr.TIM_STATUS ∨ 11 < f.lo ∨ (2 < f.lo ∧ f.hi < 8)) (hb : f.addr < recordRegs) :
    (s.acquire m port).fld f = s.fld f :=
  (State.fld_of_reg (State.reg_of_regs (s.acquire_regs m port) _)).trans (s.toSyncOn_fld _ _ hd hb)

theorem State.acquire_state (s : State) (m port : Nat) : (s.acquire m port).fld F.TIM_STATUS.STATE = 1 :=
  (State.fld_of_reg (State.reg_of_regs (s.acquire_regs m port) _)).trans (s.toSyncOn_state port (by decide))

theorem State.acquire_port (s : State) (m : Nat) {port : Nat} (h : port < 16) :
    (s.acquire m port).fld F.TIM_STATUS.SLAVE_PORT = port :=
  (State.fld_of_reg (State.reg_of_regs (s.acquire_regs m port) _)).trans (s.toSyncOn_port _ h)

theorem State.acquire_unstamped (s : State) (m port : Nat) : (s.acquire m port).time.unstamped
    = { s.time with master := some m, within := 0, beyond := 0, lastSyncUs := s.time.us }.unstamped :=
  congrArg (fun t : TimeState => { t with master := some m, within := 0, beyond := 0, lastSyncUs := t.us })
    (s.toSync_unstamped stAcquire)

/-! ### TIM_RATE (R51) -/

theorem clampInt_mem {lo hi : Int} (h : lo ≤ hi) (x : Int) : lo ≤ clampInt lo hi x ∧ clampInt lo hi x ≤ hi := by
  unfold clampInt
  split
  · omega
  · split <;> omega

/-- The 32-bit code of a number in range reads as the number. -/
theorem signedOf_codeOf {x : Int} (hlo : -2 ^ 31 ≤ x) (hhi : x < 2 ^ 31) :
    signedOf 32 (BitVec.ofNat 64 (codeOf 32 x)).toNat = x := by
  norm_num [signedOf, codeOf] at *
  omega

theorem State.setRate_reg (s : State) (r : Int) {a : Nat} (hr : a ≠ Adr.TIM_RATE) (hs : a ≠ Adr.TIM_STATUS) :
    (s.setRate r).reg a = s.reg a :=
  (State.setFld_reg_other _ _ _ hs).trans (s.reg_setReg_other _ hr)

theorem State.setRate_fld (s : State) (r : Int) {f : IoField} (hr : f.addr ≠ Adr.TIM_RATE)
    (hd : f.addr ≠ Adr.TIM_STATUS ∨ 5 < f.lo ∨ f.hi < 5) : (s.setRate r).fld f = s.fld f :=
  (State.fld_setFld_other _ F.TIM_STATUS.SLEW_SAT _ _ IoField.fits hd).trans (State.fld_of_reg (s.reg_setReg_other _ hr))

theorem State.setRate_rate (s : State) (r : Int) :
    (s.setRate r).reg Adr.TIM_RATE = BitVec.ofNat 64 (codeOf 32 (clampInt (-rateLimit) rateLimit r)) :=
  (State.setFld_reg_other _ _ _ (by decide)).trans (State.reg_setReg_same _ _ _)

theorem State.setRate_signed (s : State) (r : Int) :
    signedOf 32 ((s.setRate r).reg Adr.TIM_RATE).toNat = clampInt (-rateLimit) rateLimit r := by
  obtain ⟨hlo, hhi⟩ := clampInt_mem (lo := -rateLimit) (hi := rateLimit) (by decide) r
  rw [State.setRate_rate]
  exact signedOf_codeOf (le_trans (by decide) hlo) (lt_of_le_of_lt hhi (by decide))

/-! ### HOLDOVER and the loss of LOCKED (R66, R67) -/

/-- HOLDOVER holds the average rate, where LOCKED has set one: no master is followed, and TIM_RATE is set or stands. -/
theorem State.holdover_cases (s : State) : ∃ u : State, (u = s.unfollow stHoldover ∨ ∃ r, u = (s.unfollow stHoldover).setRate r)
    ∧ s.holdover.regs = u.regs ∧ s.holdover.time.now = u.time.now := by
  obtain ⟨u, hu, he⟩ : ∃ u : State, (u = s.unfollow stHoldover ∨ ∃ r, u = (s.unfollow stHoldover).setRate r)
      ∧ s.holdover = { u with time := { u.time with holdUs := u.time.us } } := by
    refine ⟨_, ?_, rfl⟩
    split
    · exact .inl rfl
    · exact .inr ⟨_, rfl⟩
  exact ⟨u, hu, by rw [he], by rw [he]⟩

/-- It changes no register but TIM_STATUS and TIM_RATE. -/
theorem State.holdover_reg (s : State) {a : Nat} (hr : a ≠ Adr.TIM_RATE) (hs : a ≠ Adr.TIM_STATUS) (hb : a < recordRegs) :
    s.holdover.reg a = s.reg a := by
  have hu := s.unfollow_reg stHoldover hs hb
  obtain ⟨u, h, hregs, -⟩ := s.holdover_cases
  rw [State.reg_of_regs hregs]
  rcases h with rfl | ⟨r, rfl⟩
  · exact hu
  · exact (State.setRate_reg _ _ hr hs).trans hu

theorem State.holdover_state (s : State) : s.holdover.fld F.TIM_STATUS.STATE = 3 := by
  have hu : (s.unfollow stHoldover).fld F.TIM_STATUS.STATE = 3 := s.unfollow_state (by decide)
  obtain ⟨u, h, hregs, -⟩ := s.holdover_cases
  rw [State.fld_of_reg (State.reg_of_regs hregs _)]
  rcases h with rfl | ⟨r, rfl⟩
  · exact hu
  · exact (State.setRate_fld _ _ (by decide) (by decide)).trans hu

theorem State.holdover_now (s : State) : s.holdover.time.now = s.time.now := by
  have hu : (s.unfollow stHoldover).time.now = s.time.now := (congrArg TimeState.now (s.unfollow_unstamped stHoldover) :)
  obtain ⟨u, h, -, hnow⟩ := s.holdover_cases
  rw [hnow]
  rcases h with rfl | ⟨r, rfl⟩ <;> exact hu

theorem State.lockLost_state (s : State) : s.lockLost.fld F.TIM_STATUS.STATE = 3 := State.holdover_state _

/-- The loss of LOCKED is counted, saturating (R67). -/
theorem State.lockLost_count (s : State) :
    s.lockLost.fld F.TIM_LOSS_COUNT.COUNT = min (s.fld F.TIM_LOSS_COUNT.COUNT + 1) (2 ^ 32 - 1) :=
  (State.fld_of_reg (State.holdover_reg _ (by decide) (by decide) (by decide))).trans (s.fld_count _ _ IoField.fits)

theorem State.lockLost_now (s : State) : s.lockLost.time.now = s.time.now := State.holdover_now _

/-! ### The parts of a measured Sync (R67 to R70) -/

/-- TIM_OFFSET is set and the servo runs: the first part of a measured Sync. -/
def State.measured (s : State) (m : Nat) (off : Int) : State := (s.setOffset off).servoRun m off

/-- The servo changes TIM_RATE, SLEW_SAT and its integral term. -/
theorem State.servoRun_cases (s : State) (m : Nat) (off : Int) : s.servoRun m off = s ∨ ∃ n, s.servoRun m off = s.servo off n := by
  unfold State.servoRun
  split
  · split
    · exact .inr ⟨_, rfl⟩
    · exact .inl rfl
  · exact .inl rfl

theorem State.measured_fld (s : State) (m : Nat) (off : Int) {f : IoField} (ho : f.addr ≠ Adr.TIM_OFFSET) (hr : f.addr ≠ Adr.TIM_RATE)
    (hd : f.addr ≠ Adr.TIM_STATUS ∨ 5 < f.lo ∨ f.hi < 5) : (s.measured m off).fld f = s.fld f := by
  have hs : (s.setOffset off).fld f = s.fld f := State.fld_of_reg (s.reg_setReg_other _ ho)
  unfold State.measured
  rcases (s.setOffset off).servoRun_cases m off with h | ⟨n, h⟩
  · rw [h, hs]
  · rw [h]
    exact (State.setRate_fld _ _ hr hd).trans hs

theorem State.measured_time (s : State) (m : Nat) (off : Int) : ∃ i, (s.measured m off).time = { s.time with integ := i } := by
  unfold State.measured
  rcases (s.setOffset off).servoRun_cases m off with h | ⟨n, h⟩
  · exact ⟨_, by rw [h]; rfl⟩
  · exact ⟨_, by rw [h]; rfl⟩

/-- The first valid Sync of a master leaves the rate alone (R70). -/
theorem State.measured_of_first {s : State} {m : Nat} (off : Int) (h : s.time.lastSync.find? (fun e => e.1 = m) = none) :
    s.measured m off = s.setOffset off := by
  have h' : (s.setOffset off).time.lastSync.find? (fun e => e.1 = m) = none := h
  rw [State.measured, State.servoRun, h']

/-- A later one runs the servo over the cycles since the one before (R70). -/
theorem State.measured_of_earlier {s : State} {m n : Nat} (off : Int) (hn : 0 < n) (hc : n ≤ s.time.cyc)
    (h : s.time.lastSync.find? (fun e => e.1 = m) = some (m, s.time.cyc - n)) :
    s.measured m off = (s.setOffset off).servo off n := by
  have h' : (s.setOffset off).time.lastSync.find? (fun e => e.1 = m) = some (m, (s.setOffset off).time.cyc - n) := h
  have hc' : n ≤ (s.setOffset off).time.cyc := hc
  rw [State.measured, State.servoRun, h']
  simp only
  rw [if_pos (by omega)]
  congr 1
  omega

/-- Once STEPPED is 1, and outside ACQUIRE, an offset steps nothing (R68). -/
theorem State.firstOffset_idle {s : State} (off : Int) (t : Nat)
    (h : s.fld F.TIM_STATUS.STATE ≠ 1 ∨ s.flag F.TIM_STATUS.STEPPED = true) : s.firstOffset off t = s := by
  rcases h with h | h <;> simp [State.firstOffset, State.syncState, stAcquire, h]

/-- In ACQUIRE with STEPPED 0 the counter steps where the offset is beyond LOCK_NS, and STEPPED becomes 1 (R67, R68). -/
theorem State.firstOffset_of_acquire {s : State} (off : Int) (t : Nat) (h : s.fld F.TIM_STATUS.STATE = 1)
    (hs : s.flag F.TIM_STATUS.STEPPED = false) : s.firstOffset off t
      = (if off.natAbs ≤ s.fld F.TIM_LIMITS.LOCK_NS * 16 then s else s.stepTo t).raise F.TIM_STATUS.STEPPED := by
  simp only [State.firstOffset, State.syncState, stAcquire, h, hs, decide_true, Bool.not_false, Bool.and_self, if_true, State.raise]

theorem State.syncCounts_acquiring {s : State} (off : Int) (h : s.fld F.TIM_STATUS.STATE = 1) (hw : s.time.within < 15) :
    ∃ w b, s.syncCounts off = { s with time := { s.time with within := w, beyond := b } } := by
  simp only [State.syncCounts, State.syncState, stAcquire, h, if_true]
  rw [if_neg (by split <;> omega)]
  exact ⟨_, _, rfl⟩

/-- The 16th consecutive Sync within LOCK_NS makes LOCKED (R67). -/
theorem State.syncCounts_locks {s : State} {off : Int} (h : s.fld F.TIM_STATUS.STATE = 1) (hw : 15 ≤ s.time.within)
    (ho : off.natAbs ≤ s.fld F.TIM_LIMITS.LOCK_NS * 16) :
    (s.syncCounts off).fld F.TIM_STATUS.STATE = 2 ∧ (s.syncCounts off).time.now = s.time.now := by
  have hw' : 16 ≤ s.time.within + 1 := by omega
  simp only [State.syncCounts, State.syncState, stAcquire, h, if_true, ho, decide_true, hw']
  exact ⟨State.toSync_state _ (by decide), (congrArg TimeState.now (State.toSync_unstamped _ _) :)⟩

/-- The 4th consecutive Sync beyond LOSS_NS loses LOCKED (R67). -/
theorem State.syncCounts_loses {s : State} {off : Int} (h : s.fld F.TIM_STATUS.STATE = 2) (hb : 3 ≤ s.time.beyond)
    (ho : s.fld F.TIM_LIMITS.LOSS_NS * 16 < off.natAbs) : ∃ w b r,
      s.syncCounts off = State.lockLost { s with time := { s.time with within := w, beyond := b, rates := r } } := by
  have hb' : 4 ≤ s.time.beyond + 1 := by omega
  simp only [State.syncCounts, State.syncState, stAcquire, h, ho, decide_true, if_true, hb', OfNat.ofNat_ne_one, if_false]
  exact ⟨_, _, _, rfl⟩

theorem State.syncCounts_stays {s : State} {off : Int} (h : s.fld F.TIM_STATUS.STATE = 2)
    (ho : off.natAbs ≤ s.fld F.TIM_LIMITS.LOSS_NS * 16) : ∃ w b r,
      s.syncCounts off = { s with time := { s.time with within := w, beyond := b, rates := r } } := by
  simp only [State.syncCounts, State.syncState, stAcquire, h, Nat.not_lt.mpr ho, decide_false, Bool.false_eq_true, if_false,
    OfNat.ofNat_ne_one]
  rw [if_neg (by decide)]
  exact ⟨_, _, _, rfl⟩

/-! ### A Sync, state by state (R67 to R70) -/

/-- The three parts of a measured Sync in turn: the servo, the first offset, and the counts with their transitions. -/
def State.judged (s : State) (m t : Nat) (off : Int) : State := ((s.measured m off).firstOffset off t).syncCounts off

/-- The state after a measured Sync, with its HOPS. -/
def State.synced (s : State) (m t : Nat) (log : Int) (hops : Nat) : State :=
  (s.measureSync m t log).setFld F.TIM_STATUS.HOPS hops

/-- Besides HOPS and its three parts a measured Sync notes when and at what interval it came. -/
theorem State.synced_reads (s : State) (m : Nat) {t : Int} (ht : 0 ≤ t) (log : Int) (hops : Nat) :
    (∀ f : IoField, f.addr ≠ Adr.TIM_STATUS ∨ 23 < f.lo ∨ f.hi < 16 →
        (s.synced m t.toNat log hops).fld f = (s.judged m t.toNat ((s.time.now : Int) - t)).fld f)
      ∧ (∀ a, a ≠ Adr.TIM_STATUS → (s.synced m t.toNat log hops).reg a = (s.judged m t.toNat ((s.time.now : Int) - t)).reg a)
      ∧ ∃ l, (s.synced m t.toNat log hops).time = { (s.judged m t.toNat ((s.time.now : Int) - t)).time with
          lastSync := l, syncNs := intervalNs log, lastSyncUs := s.time.us } := by
  obtain ⟨l, h⟩ : ∃ l, s.measureSync m t.toNat log
      = { s.judged m t.toNat ((s.time.now : Int) - t) with time := { (s.judged m t.toNat ((s.time.now : Int) - t)).time with
          lastSync := l, syncNs := intervalNs log, lastSyncUs := s.time.us } } := by
    simp only [State.measureSync, Int.toNat_of_nonneg ht]
    exact ⟨_, rfl⟩
  have hregs : (s.measureSync m t.toNat log).regs = (s.judged m t.toNat ((s.time.now : Int) - t)).regs := by rw [h]
  have htime : (s.synced m t.toNat log hops).time = (s.measureSync m t.toNat log).time := rfl
  refine ⟨fun f hf => ?_, fun a ha => ?_, l, by rw [htime, h]⟩
  · exact (State.fld_setFld_other _ _ _ _ IoField.fits hf).trans (State.fld_of_reg (State.reg_of_regs hregs _))
  · exact (State.setFld_reg_other _ _ _ ha).trans (State.reg_of_regs hregs a)

/-- A Sync within plant time, of the selected master on its port (R67, R73). -/
structure State.Hears (s : State) (port m : Nat) (t : Int) : Prop where
  carries : s.gptpPort port = true
  locked : s.pwr.pllLocked = true
  nonneg : 0 ≤ t
  below : t < 2 ^ 64
  selected : s.time.selected = some (m, port)

theorem State.syncReceived_of_heard {s : State} {port m : Nat} {t : Int} (h : s.Hears port m t) (log : Int) (hops : Nat) :
    s.syncReceived port m true t log hops =
      let s1 := if s.syncState = stFree || s.syncState = stHoldover || s.syncState = stGrandmaster then s.acquire m port else s
      if s1.time.master = some m then s1.synced m t.toNat log hops else s1 := by
  have hlo : ¬ t < 0 := not_lt.mpr h.nonneg
  have hhi : ¬ 18446744073709551616 ≤ t := not_le.mpr h.below
  simp [State.syncReceived, State.synced, h.carries, h.locked, h.selected, hlo, hhi]

theorem State.syncReceived_follows {s : State} {port m : Nat} {t : Int} (h : s.Hears port m t) (log : Int) (hops : Nat)
    (hst : s.fld F.TIM_STATUS.STATE = 1 ∨ s.fld F.TIM_STATUS.STATE = 2) (hm : s.time.master = some m) :
    s.syncReceived port m true t log hops = s.synced m t.toNat log hops := by
  rw [State.syncReceived_of_heard h]
  rcases hst with hst | hst <;> simp [State.syncState, stFree, stHoldover, stGrandmaster, hst, hm]

/-- In FREE, HOLDOVER and GRANDMASTER a Sync makes ACQUIRE of its master and is measured there (R67). -/
theorem State.syncReceived_acquires {s : State} {port m : Nat} {t : Int} (h : s.Hears port m t) (log : Int) (hops : Nat)
    (hst : s.fld F.TIM_STATUS.STATE ∈ [0, 3, 4]) :
    s.syncReceived port m true t log hops
      = (s.acquire m port).synced m t.toNat log hops := by
  have hm : (s.acquire m port).time.master = some m := rfl
  rw [State.syncReceived_of_heard h]
  simp only [List.mem_cons, List.not_mem_nil, or_false] at hst
  rcases hst with hst | hst | hst <;> simp [State.syncState, stFree, stHoldover, stGrandmaster, hst, hm]

/-- The first offset in ACQUIRE: STEPPED is 1 after it, and it changes nothing else but the counter, which it sets where STEPPED was 0
and the offset is beyond LOCK_NS (R67, R68). -/
theorem State.firstOffset_acquiring {s : State} (off : Int) (t : Nat) (h : s.fld F.TIM_STATUS.STATE = 1) :
    (s.firstOffset off t).flag F.TIM_STATUS.STEPPED = true
      ∧ (∀ f : IoField, f.addr ≠ Adr.TIM_STATUS ∨ 4 < f.lo ∨ f.hi < 4 → (s.firstOffset off t).fld f = s.fld f)
      ∧ (∀ a, a ≠ Adr.TIM_STATUS → (s.firstOffset off t).reg a = s.reg a)
      ∧ (s.firstOffset off t).time = if s.flag F.TIM_STATUS.STEPPED = false ∧ s.fld F.TIM_LIMITS.LOCK_NS * 16 < off.natAbs
          then { s.time with now := t % 2 ^ 64, frac := 0 } else s.time := by
  cases hs : s.flag F.TIM_STATUS.STEPPED
  · rw [State.firstOffset_of_acquire off t h hs]
    have hregs : (if off.natAbs ≤ s.fld F.TIM_LIMITS.LOCK_NS * 16 then s else s.stepTo t).regs = s.regs := by split <;> rfl
    refine ⟨State.flag_raise _ _ IoField.fits, fun f hf => ?_, fun a ha => ?_, ?_⟩
    · exact (State.fld_setFld_other _ _ _ _ IoField.fits hf).trans (State.fld_of_reg (State.reg_of_regs hregs _))
    · exact (State.setFld_reg_other _ _ _ ha).trans (State.reg_of_regs hregs a)
    · by_cases ho : off.natAbs ≤ s.fld F.TIM_LIMITS.LOCK_NS * 16
      · simp [ho, Nat.not_lt.mpr ho]
      · simp [ho, Nat.lt_of_not_le ho, State.stepTo]
  · rw [State.firstOffset_idle off t (.inr hs)]
    exact ⟨hs, fun _ _ => rfl, fun _ _ => rfl, by simp⟩

/-- What the measured offset leaves alone of the fields that the rest of a Sync goes by. -/
theorem State.measured_reads (s : State) (m : Nat) (off : Int) :
    (s.measured m off).fld F.TIM_STATUS.STATE = s.fld F.TIM_STATUS.STATE
      ∧ (s.measured m off).flag F.TIM_STATUS.STEPPED = s.flag F.TIM_STATUS.STEPPED
      ∧ (s.measured m off).fld F.TIM_LIMITS.LOCK_NS = s.fld F.TIM_LIMITS.LOCK_NS
      ∧ (s.measured m off).fld F.TIM_LIMITS.LOSS_NS = s.fld F.TIM_LIMITS.LOSS_NS := by
  have hf (f : IoField) := s.measured_fld m off (f := f)
  exact ⟨hf _ (by decide) (by decide) (by decide), congrArg (· != 0) (hf F.TIM_STATUS.STEPPED (by decide) (by decide) (by decide)),
    hf _ (by decide) (by decide) (by decide), hf _ (by decide) (by decide) (by decide)⟩

/-- A Sync in ACQUIRE that does not complete the 16 (R67, R68, R70). -/
theorem State.judged_acquiring {s : State} (m t : Nat) (off : Int) (hst : s.fld F.TIM_STATUS.STATE = 1)
    (hw : s.time.within < 15) :
    (s.judged m t off).fld F.TIM_STATUS.STATE = 1 ∧ (s.judged m t off).flag F.TIM_STATUS.STEPPED = true
      ∧ (s.judged m t off).fld F.TIM_STATUS.SLAVE_PORT = s.fld F.TIM_STATUS.SLAVE_PORT
      ∧ (s.judged m t off).time.master = s.time.master
      ∧ (s.time.lastSync.find? (fun e => e.1 = m) = none → (s.judged m t off).reg Adr.TIM_RATE = s.reg Adr.TIM_RATE)
      ∧ (if s.flag F.TIM_STATUS.STEPPED = false ∧ s.fld F.TIM_LIMITS.LOCK_NS * 16 < off.natAbs
          then (s.judged m t off).time.now = t % 2 ^ 64 ∧ (s.judged m t off).time.frac = 0
          else (s.judged m t off).time.now = s.time.now ∧ (s.judged m t off).time.frac = s.time.frac) := by
  obtain ⟨i, hbt⟩ := s.measured_time m off
  obtain ⟨hbst, hstepped, hlock, -⟩ := s.measured_reads m off
  have hb1 := hbst.trans hst
  obtain ⟨hcs, hcf, hcr, hct⟩ := State.firstOffset_acquiring off t hb1
  rw [hstepped, hlock, hbt] at hct
  have hc1 := (hcf F.TIM_STATUS.STATE (by decide)).trans hb1
  have hcw : ((s.measured m off).firstOffset off t).time.within < 15 := by
    rw [hct]
    split <;> exact hw
  obtain ⟨w, b, hd⟩ := State.syncCounts_acquiring off hc1 hcw
  have hregs : (s.judged m t off).regs = ((s.measured m off).firstOffset off t).regs := by rw [State.judged, hd]
  have htime : (s.judged m t off).time
      = { ((s.measured m off).firstOffset off t).time with within := w, beyond := b } := by rw [State.judged, hd]
  have hreg := State.reg_of_regs hregs
  refine ⟨(State.fld_of_reg (hreg _)).trans hc1, (State.flag_of_reg (hreg _)).trans hcs,
    (State.fld_of_reg (hreg _)).trans ((hcf _ (by decide)).trans
      (s.measured_fld m off (by decide) (by decide) (by decide))), ?_, fun hf => ?_, ?_⟩
  · rw [htime, hct]
    split <;> rfl
  · rw [hreg, hcr _ (by decide), State.measured_of_first off hf]
    exact State.reg_setReg_other _ _ (by decide)
  · rw [htime, hct]
    split <;> exact ⟨rfl, rfl⟩

theorem State.judged_of_stepped {s : State} (m t : Nat) (off : Int)
    (h : s.fld F.TIM_STATUS.STATE ≠ 1 ∨ s.flag F.TIM_STATUS.STEPPED = true) :
    s.judged m t off = (s.measured m off).syncCounts off := by
  obtain ⟨hst, hs, -, -⟩ := s.measured_reads m off
  rw [State.judged, State.firstOffset_idle off t (by rwa [hst, hs])]

/-- The 16th consecutive Sync within LOCK_NS in ACQUIRE (R67). -/
theorem State.judged_locks {s : State} (m t : Nat) {off : Int} (hst : s.fld F.TIM_STATUS.STATE = 1)
    (hs : s.flag F.TIM_STATUS.STEPPED = true) (ho : off.natAbs ≤ s.fld F.TIM_LIMITS.LOCK_NS * 16) (hw : 15 ≤ s.time.within) :
    (s.judged m t off).fld F.TIM_STATUS.STATE = 2 ∧ (s.judged m t off).time.now = s.time.now := by
  obtain ⟨i, ht⟩ := s.measured_time m off
  obtain ⟨hbst, -, hlock, -⟩ := s.measured_reads m off
  obtain ⟨hstate, hnow⟩ := State.syncCounts_locks (hbst.trans hst) (by rwa [ht]) (hlock.symm ▸ ho)
  rw [State.judged_of_stepped m t off (.inr hs)]
  exact ⟨hstate, hnow.trans (by rw [ht])⟩

/-- The 4th consecutive Sync beyond LOSS_NS in LOCKED (R67). -/
theorem State.judged_loses {s : State} (m t : Nat) {off : Int} (hst : s.fld F.TIM_STATUS.STATE = 2)
    (ho : s.fld F.TIM_LIMITS.LOSS_NS * 16 < off.natAbs) (hb : 3 ≤ s.time.beyond) :
    (s.judged m t off).fld F.TIM_STATUS.STATE = 3
      ∧ (s.judged m t off).fld F.TIM_LOSS_COUNT.COUNT = min (s.fld F.TIM_LOSS_COUNT.COUNT + 1) (2 ^ 32 - 1)
      ∧ (s.judged m t off).time.now = s.time.now := by
  obtain ⟨i, ht⟩ := s.measured_time m off
  obtain ⟨hbst, -, -, hloss⟩ := s.measured_reads m off
  obtain ⟨w, b, r, hl⟩ := State.syncCounts_loses (hbst.trans hst) (by rwa [ht]) (hloss.symm ▸ ho)
  rw [State.judged_of_stepped m t off (.inl (by rw [hst]; decide)), hl]
  refine ⟨State.lockLost_state _, (State.lockLost_count _).trans ?_, (State.lockLost_now _).trans (by rw [ht])⟩
  exact congrArg (fun c => min (c + 1) (2 ^ 32 - 1))
    (s.measured_fld m off (f := F.TIM_LOSS_COUNT.COUNT) (by decide) (by decide) (by decide))

/-- A later Sync within LOSS_NS in LOCKED: the servo sets TIM_RATE (R70). -/
theorem State.judged_servo {s : State} {m n : Nat} (t : Nat) {off : Int} (hst : s.fld F.TIM_STATUS.STATE = 2)
    (ho : off.natAbs ≤ s.fld F.TIM_LIMITS.LOSS_NS * 16) (hn : 0 < n) (hc : n ≤ s.time.cyc)
    (hl : s.time.lastSync.find? (fun e => e.1 = m) = some (m, s.time.cyc - n)) :
    (s.judged m t off).fld F.TIM_STATUS.STATE = 2
      ∧ (s.judged m t off).time.integ
        = clampInt (-rateLimit) rateLimit (s.time.integ - off * 2 ^ 32 / (n : Int) / (2 ^ s.fld F.TIM_SERVO.KI_SH : Nat))
      ∧ signedOf 32 ((s.judged m t off).reg Adr.TIM_RATE).toNat = clampInt (-rateLimit) rateLimit
          ((s.judged m t off).time.integ - off * 2 ^ 32 / (n : Int) / (2 ^ s.fld F.TIM_SERVO.KP_SH : Nat)) := by
  obtain ⟨hbst, -, -, hloss⟩ := s.measured_reads m off
  obtain ⟨w, b, r, hk⟩ := State.syncCounts_stays (hbst.trans hst) (hloss.symm ▸ ho)
  have hshift {f : IoField} (hf : f.addr ≠ Adr.TIM_OFFSET) : (s.setOffset off).fld f = s.fld f :=
    State.fld_of_reg (s.reg_setReg_other _ hf)
  rw [State.judged_of_stepped m t off (.inl (by rw [hst]; decide)), hk, ← hshift (f := F.TIM_SERVO.KI_SH) (by decide),
    ← hshift (f := F.TIM_SERVO.KP_SH) (by decide)]
  refine ⟨hbst.trans hst, ?_⟩
  rw [State.measured_of_earlier off hn hc hl]
  exact ⟨rfl, State.setRate_signed _ _⟩

theorem syncReceived_next (port : Fin 8) (m : Word) (std : Bool) (sec : BitVec 64) (ns : Word32) (sub : BitVec 16)
    (log hops : BitVec 8) (s : State) : exec (.syncReceived port m std sec ns sub log hops) s
      = .next (s.syncReceived port m.toNat std (s.plantTime sec.toNat ns.toNat sub.toNat) log.toInt hops.toNat) := rfl

theorem State.syncReceived_ignored {s : State} {port : Nat} {std : Bool}
    (h : s.gptpPort port = false ∨ std = false ∨ s.pwr.pllLocked = false) (m : Nat) (t log : Int) (hops : Nat) :
    s.syncReceived port m std t log hops = s := by
  rcases h with h | h | h <;> simp [State.syncReceived, h]

theorem State.syncReceived_outOfRange {s : State} {port : Nat} (hp : s.gptpPort port = true) (hl : s.pwr.pllLocked = true) {t : Int}
    (ht : t < 0 ∨ 2 ^ 64 ≤ t) (m : Nat) (log : Int) (hops : Nat) :
    s.syncReceived port m true t log hops = s.setFld F.TIM_STATUS.RANGE_ERR 1 := by
  norm_num at ht
  simp [State.syncReceived, hp, hl, ht, State.raise]

theorem State.gptpPort_lt {s : State} {p : Nat} (h : s.gptpPort p = true) : p < 8 := by
  have hp : (s.fld F.TIM_CTL.PORT_EN).testBit p = true := by
    simp only [State.gptpPort, Bool.and_eq_true] at h
    exact h.2
  have hlt : s.fld F.TIM_CTL.PORT_EN < 2 ^ 8 := bitsOf_lt _ _ _
  by_contra hn
  have := Nat.testBit_lt_two_pow (Nat.lt_of_lt_of_le hlt (Nat.pow_le_pow_right (by decide) (Nat.le_of_not_lt hn)))
  simp [this] at hp

/-- A Sync of the selected master in FREE, HOLDOVER or GRANDMASTER (R67, R68, R70). -/
theorem State.Hears.acquires {s : State} {port m : Nat} {t : Int} (h : s.Hears port m t) (log : Int) (hops : Nat)
    (hst : s.fld F.TIM_STATUS.STATE ∈ [0, 3, 4]) {y : State} (hy : s.syncReceived port m true t log hops = y) :
    y.fld F.TIM_STATUS.STATE = 1 ∧ y.time.master = some m ∧ y.flag F.TIM_STATUS.STEPPED = true
      ∧ y.fld F.TIM_STATUS.SLAVE_PORT = port
      ∧ (s.time.lastSync.find? (fun e => e.1 = m) = none → y.reg Adr.TIM_RATE = s.reg Adr.TIM_RATE)
      ∧ (if s.flag F.TIM_STATUS.STEPPED = false ∧ s.fld F.TIM_LIMITS.LOCK_NS * 16 < ((s.time.now : Int) - t).natAbs
          then y.time.now = t.toNat ∧ y.time.frac = 0 else y.time.now = s.time.now ∧ y.time.frac = s.time.frac) := by
  have htime := s.acquire_unstamped m port
  have hnow : (s.acquire m port).time.now = s.time.now := (congrArg TimeState.now htime :)
  have hfrac : (s.acquire m port).time.frac = s.time.frac := (congrArg TimeState.frac htime :)
  have hlast : (s.acquire m port).time.lastSync = s.time.lastSync := (congrArg TimeState.lastSync htime :)
  have hstepped : (s.acquire m port).flag F.TIM_STATUS.STEPPED = s.flag F.TIM_STATUS.STEPPED :=
    congrArg (· != 0) (s.acquire_fld m port (f := F.TIM_STATUS.STEPPED) (by decide) (by decide))
  have ht : t.toNat % 2 ^ 64 = t.toNat := Nat.mod_eq_of_lt ((Int.toNat_lt h.nonneg).mpr h.below)
  obtain ⟨hstate, hstep, hslave, hmaster, hrate, hclock⟩ :=
    State.judged_acquiring m t.toNat ((s.time.now : Int) - t) (s.acquire_state m port) (Nat.zero_lt_succ 14)
  obtain ⟨hfld, hreg, l, hl⟩ := (s.acquire m port).synced_reads m h.nonneg log hops
  rw [hnow] at hfld hreg hl
  rw [hstepped, s.acquire_fld m port (by decide) (by decide), hnow, hfrac, ht] at hclock
  rw [hlast] at hrate
  rw [← hy, State.syncReceived_acquires h log hops hst]
  refine ⟨(hfld _ (by decide)).trans hstate, ?_, ?_, ?_, fun hf => ?_, ?_⟩
  · rw [hl]
    exact hmaster.trans rfl
  · exact (congrArg (· != 0) (hfld F.TIM_STATUS.STEPPED (by decide))).trans hstep
  · rw [hfld _ (by decide), hslave]
    exact s.acquire_port m (Nat.lt_trans (State.gptpPort_lt h.carries) (by decide))
  · rw [hreg _ (by decide), hrate hf]
    exact s.acquire_reg m port (by decide) (by decide)
  · rw [hl]
    exact hclock

/-- A Sync of the master followed, in ACQUIRE or LOCKED: what the state after it shows is what the three parts leave. -/
theorem State.Hears.follows {s : State} {port m : Nat} {t : Int} (h : s.Hears port m t) (log : Int) (hops : Nat)
    (hst : s.fld F.TIM_STATUS.STATE = 1 ∨ s.fld F.TIM_STATUS.STATE = 2) (hm : s.time.master = some m)
    {y : State} (hy : s.syncReceived port m true t log hops = y) {off : Int} (ho : off = (s.time.now : Int) - t) :
    y.fld F.TIM_STATUS.STATE = (s.judged m t.toNat off).fld F.TIM_STATUS.STATE
      ∧ (∀ a, a ≠ Adr.TIM_STATUS → y.reg a = (s.judged m t.toNat off).reg a)
      ∧ y.time.now = (s.judged m t.toNat off).time.now ∧ y.time.integ = (s.judged m t.toNat off).time.integ := by
  obtain ⟨hfld, hreg, l, hl⟩ := s.synced_reads m h.nonneg log hops
  rw [← hy, State.syncReceived_follows h log hops hst hm, ho]
  exact ⟨hfld _ (by decide), hreg, by rw [hl], by rw [hl]⟩

/-! ### BMCA_SELECTION (R67, R73) -/

theorem bmcaSelection_next (isSelf : Bool) (m : Word) (port : Fin 8) (hops : BitVec 8) (s : State) :
    exec (.bmcaSelection isSelf m port hops) s = .next (s.bmca isSelf m.toNat port hops.toNat) := rfl

theorem State.bmca_ignored {s : State} (h : s.takesPart = false ∨ s.pwr.pllLocked = false) (isSelf : Bool) (m port hops : Nat) :
    s.bmca isSelf m port hops = s := by
  rcases h with h | h <;> simp [State.bmca, h]

theorem State.bmca_self_incapable {s : State} (h : s.flag F.TIM_CTL.GM_CAPABLE = false) (m port hops : Nat) :
    s.bmca true m port hops = s := by
  simp [State.bmca, h]

theorem State.bmca_port_refused {s : State} {port : Nat} (h : s.gptpPort port = false ∨ s.mayFollow port = false) (m hops : Nat) :
    s.bmca false m port hops = s := by
  rcases h with h | h <;> simp [State.bmca, h]

@[simp] theorem State.putGptp_regs (s : State) (port kind info : Nat) : (s.putGptp port kind info).regs = s.regs := by
  unfold State.putGptp
  simp only
  split <;> rfl

@[simp] theorem State.sendGptp_regs (s : State) (port kind info : Nat) : (s.sendGptp port kind info).regs = s.regs := by
  unfold State.sendGptp
  simp only
  split
  · rfl
  · exact s.putGptp_regs port kind info

@[simp] theorem State.announce_regs (s : State) : s.announce.regs = s.regs :=
  foldl_leaves State.regs _ (fun t p => by split <;> simp) _ s

/-- What TIM_STATUS and TIM_GM_ID show of the device itself as grandmaster. -/
def State.selfShown (s : State) (m : Nat) : State :=
  (((if s.syncState = stGrandmaster then s else s.toSync stGrandmaster).setReg Adr.TIM_GM_ID (BitVec.ofNat 64 m)).setFld
    F.TIM_STATUS.SLAVE_PORT 0xF).setFld F.TIM_STATUS.HOPS 0

theorem State.bmca_self_regs {s : State} (hp : s.takesPart = true) (hl : s.pwr.pllLocked = true)
    (hg : s.flag F.TIM_CTL.GM_CAPABLE = true) (m port hops : Nat) : (s.bmca true m port hops).regs = (s.selfShown m).regs := by
  simp only [State.bmca, hp, hl, hg, Bool.not_true, Bool.or_self, Bool.false_eq_true, if_false, if_true, State.announce_regs,
    State.selfShown]

/-- The device is grandmaster with its rate held (R67). -/
theorem State.selfShown_reads (s : State) (m : Nat) :
    (s.selfShown m).fld F.TIM_STATUS.STATE = 4 ∧ (s.selfShown m).reg Adr.TIM_RATE = s.reg Adr.TIM_RATE
      ∧ (s.selfShown m).reg Adr.TIM_GM_ID = BitVec.ofNat 64 m ∧ (s.selfShown m).fld F.TIM_STATUS.SLAVE_PORT = 0xF := by
  obtain ⟨u, hu, hst, hrate⟩ : ∃ u, (if s.syncState = stGrandmaster then s else s.toSync stGrandmaster) = u
      ∧ u.fld F.TIM_STATUS.STATE = 4 ∧ u.reg Adr.TIM_RATE = s.reg Adr.TIM_RATE := by
    refine ⟨_, rfl, ?_⟩
    split
    case isTrue h => exact ⟨h, rfl⟩
    case isFalse h => exact ⟨s.toSync_state (by decide), s.toSync_reg _ (by decide) (by decide)⟩
  unfold State.selfShown
  rw [hu]
  refine ⟨?_, ?_, ?_, ?_⟩
  · rw [State.fld_setFld_other _ _ _ _ IoField.fits (by decide), State.fld_setFld_other _ _ _ _ IoField.fits (by decide),
      State.fld_of_reg (State.reg_setReg_other _ _ (by decide)), hst]
  · rw [State.setFld_reg_other _ _ _ (by decide), State.setFld_reg_other _ _ _ (by decide), State.reg_setReg_other _ _ (by decide),
      hrate]
  · rw [State.setFld_reg_other _ _ _ (by decide), State.setFld_reg_other _ _ _ (by decide), State.reg_setReg_same]
  · rw [State.fld_setFld_other _ _ _ _ IoField.fits (by decide), State.fld_setFld_same _ _ _ IoField.fits]
    rfl

/-- A selected master: TIM_GM_ID shows it, and its port is noted. -/
def State.selects (s : State) (m port : Nat) : State :=
  { s.setReg Adr.TIM_GM_ID (BitVec.ofNat 64 m) with time := { s.time with selected := some (m, port) } }

theorem State.selects_fld (s : State) (m port : Nat) {f : IoField} (h : f.addr ≠ Adr.TIM_GM_ID) :
    (s.selects m port).fld f = s.fld f := State.fld_of_reg (s.reg_setReg_other _ h)

theorem State.bmca_port {s : State} {port : Nat} (hp : s.gptpPort port = true) (hf : s.mayFollow port = true)
    (hl : s.pwr.pllLocked = true) (m hops : Nat) : s.bmca false m port hops
      = if s.fld F.TIM_STATUS.STATE = 1 ∨ s.fld F.TIM_STATUS.STATE = 2 then
          (if s.time.master = some m then (s.selects m port).setFld F.TIM_STATUS.SLAVE_PORT port
            else (s.selects m port).acquire m port).setFld F.TIM_STATUS.HOPS hops
        else s.selects m port := by
  have ht : s.takesPart = true := by
    simp only [State.gptpPort, Bool.and_eq_true] at hp
    exact hp.1
  by_cases h1 : s.fld F.TIM_STATUS.STATE = 1
  · simp [State.bmca, ht, hl, hp, hf, State.selects, State.syncState, stAcquire, stLocked, h1]
  · by_cases h2 : s.fld F.TIM_STATUS.STATE = 2 <;>
      simp [State.bmca, ht, hl, hp, hf, State.selects, State.syncState, stAcquire, stLocked, h1, h2]

/-- A selected master is noted, and in ACQUIRE and LOCKED it is followed from now on (R67). -/
theorem State.bmca_port_reads {s : State} {port : Nat} (hp : s.gptpPort port = true) (hf : s.mayFollow port = true)
    (hl : s.pwr.pllLocked = true) (m hops : Nat) {y : State} (hy : s.bmca false m port hops = y) :
    y.time.selected = some (m, port) ∧ y.reg Adr.TIM_GM_ID = BitVec.ofNat 64 m
      ∧ y.fld F.TIM_STATUS.SLAVE_PORT
        = (if s.fld F.TIM_STATUS.STATE ∈ [1, 2] then port else s.fld F.TIM_STATUS.SLAVE_PORT)
      ∧ y.fld F.TIM_STATUS.STATE
        = if s.fld F.TIM_STATUS.STATE ∈ [1, 2] ∧ s.time.master ≠ some m then 1 else s.fld F.TIM_STATUS.STATE := by
  have hport : port < 16 := Nat.lt_trans (State.gptpPort_lt hp) (by decide)
  have hid : (s.selects m port).reg Adr.TIM_GM_ID = BitVec.ofNat 64 m := State.reg_setReg_same _ _ _
  have hst := s.selects_fld m port (f := F.TIM_STATUS.STATE) (by decide)
  have hmem : s.fld F.TIM_STATUS.STATE ∈ [1, 2] ↔ s.fld F.TIM_STATUS.STATE = 1 ∨ s.fld F.TIM_STATUS.STATE = 2 := by simp
  rw [← hy, State.bmca_port hp hf hl]
  simp only [hmem]
  by_cases h : s.fld F.TIM_STATUS.STATE = 1 ∨ s.fld F.TIM_STATUS.STATE = 2
  · rw [if_pos h, if_pos h]
    have hhops (u : State) {f : IoField} (h : f.addr ≠ Adr.TIM_STATUS ∨ 23 < f.lo ∨ f.hi < 16) :=
      u.fld_setFld_other F.TIM_STATUS.HOPS f hops IoField.fits h
    by_cases hm : s.time.master = some m
    · rw [if_pos hm, if_neg (fun hn => hn.2 hm)]
      refine ⟨rfl, ?_, ?_, ?_⟩
      · rw [State.setFld_reg_other _ _ _ (by decide), State.setFld_reg_other _ _ _ (by decide), hid]
      · rw [hhops _ (by decide), State.fld_setFld_same _ _ _ IoField.fits]
        exact Nat.mod_eq_of_lt hport
      · rw [hhops _ (by decide), State.fld_setFld_other _ _ _ _ IoField.fits (by decide), hst]
    · rw [if_neg hm, if_pos ⟨h, hm⟩]
      refine ⟨?_, ?_, ?_, ?_⟩
      · exact (congrArg TimeState.selected ((s.selects m port).acquire_unstamped m port) :)
      · rw [State.setFld_reg_other _ _ _ (by decide), State.acquire_reg _ _ _ (by decide) (by decide), hid]
      · rw [hhops _ (by decide), State.acquire_port _ _ hport]
      · rw [hhops _ (by decide), State.acquire_state]
  · rw [if_neg h, if_neg h, if_neg (fun hn => h hn.1)]
    exact ⟨rfl, hid, s.selects_fld m port (by decide), hst⟩

/-! ### Timeouts and SYNC_EN (R66, R67) -/

theorem syncTimeout_early {s : State} (h : decide (3 * s.time.syncNs ≤ (s.time.us - s.time.lastSyncUs) * 1000) = false) :
    exec .syncTimeout s = .next s := by
  show execSyncTimeout s = _
  simp only [execSyncTimeout, done, h, Bool.not_false, if_true]

theorem syncTimeout_late {s : State} (h : decide (3 * s.time.syncNs ≤ (s.time.us - s.time.lastSyncUs) * 1000) = true) :
    (s.fld F.TIM_STATUS.STATE = 2 → exec .syncTimeout s = .next s.lockLost)
      ∧ (s.fld F.TIM_STATUS.STATE = 1 →
        exec .syncTimeout s = .next (if s.time.everLocked then s.holdover else s.unfollow stFree)) := by
  have hx : exec .syncTimeout s = execSyncTimeout s := rfl
  simp only [hx, execSyncTimeout, done, h, Bool.not_true, Bool.false_eq_true, if_false]
  constructor
  · intro hst
    have hl : s.syncState = stLocked := hst
    rw [if_pos hl]
  · intro hst
    have ha : s.syncState = stAcquire := hst
    rw [if_neg (by rw [ha]; decide), if_pos ha]

theorem holdoverExpiry_over {s : State} (hst : s.fld F.TIM_STATUS.STATE = 3)
    (h : s.fld F.TIM_HOLD.HOLD_MS * 1000 < s.time.us - s.time.holdUs) : exec .holdoverExpiry s = .next (s.unfollow stFree) := by
  show execHoldoverExpiry s = _
  simp [execHoldoverExpiry, done, State.syncState, stHoldover, hst, h]

theorem syncEnWrite_ignored {s : State} (h : s.mode ≠ .configure ∨ s.takesIo Adr.TIM_CTL = false) (v : Word32) :
    exec (.syncEnWrite v) s = .next s := by
  show execSyncEnWrite v s = _
  rcases h with h | h <;> simp [execSyncEnWrite, done, State.timCtlWrite, h]

theorem syncEnWrite_zero {s : State} {v : Word32} (hio : s.takesIo Adr.TIM_CTL = true) (hm : s.mode = .configure)
    (hv : bitOf v.toNat 0 = false) : exec (.syncEnWrite v) s
      = .next (s.setReg Adr.TIM_CTL (BitVec.ofNat 64 (bitsOf v.toNat 26 8 * 2 ^ 8 + bitsOf v.toNat 1 0))).syncLost := by
  show execSyncEnWrite v s = _
  simp only [execSyncEnWrite, done, State.timCtlWrite, hio, hm, hv, if_true, bne_self_eq_false, Bool.false_eq_true, if_false]

/-- The end of the synchronisation: FREE, STEPPED 0 and a rate of 0 (R67). -/
theorem State.syncLost_reads (s : State) : s.syncLost.fld F.TIM_STATUS.STATE = 0
    ∧ s.syncLost.flag F.TIM_STATUS.STEPPED = false ∧ s.syncLost.reg Adr.TIM_RATE = 0 := by
  have hregs : s.syncLost.regs = (((s.unfollow stFree).setFld F.TIM_STATUS.STEPPED 0).setRate 0).regs := rfl
  have hreg := State.reg_of_regs hregs
  refine ⟨?_, ?_, ?_⟩
  · rw [State.fld_of_reg (hreg _), State.setRate_fld _ _ (by decide) (by decide),
      State.fld_setFld_other _ _ _ _ IoField.fits (by decide)]
    exact s.unfollow_state (by decide)
  · have hf := (State.setRate_fld ((s.unfollow stFree).setFld F.TIM_STATUS.STEPPED 0) 0 (f := F.TIM_STATUS.STEPPED)
      (by decide) (by decide))
    rw [State.flag_of_reg (hreg _), State.flag, hf]
    exact State.flag_setFld_zero _ _ IoField.fits
  · rw [hreg, State.setRate_rate]
    rfl

/-! ### The statement -/


/-- Settles O40: a Sync by the state that it meets, through what its three parts leave; the other commands by the lemma on each. -/
theorem synchronisationStates : Obligations.SynchronisationStates := by
  refine ⟨fun port m std sec ns sub log hops s => ⟨fun h => ?_, fun hp hstd hl => ?_⟩, fun m port hops self s => ?_, fun s v => ?_⟩
  · rw [syncReceived_next, State.syncReceived_ignored h]
  · subst hstd
    rw [syncReceived_next]
    refine ⟨fun ht => ?_, fun hlo hhi hsel => ?_⟩
    · rw [State.syncReceived_outOfRange hp hl ht]
    have h : s.Hears port m.toNat _ := ⟨hp, hl, hlo, hhi, hsel⟩
    refine ⟨fun hst => ⟨_, rfl, h.acquires log.toInt hops.toNat hst rfl⟩, fun hst hm hs ho hw => ⟨_, rfl, ?_⟩,
      fun hst hm => ⟨fun ho hb => ⟨_, rfl, ?_⟩, fun ho n hn hf hc => ⟨_, rfl, ?_⟩⟩⟩
    · obtain ⟨hstate, hnow⟩ := State.judged_locks m.toNat (s.plantTime sec.toNat ns.toNat sub.toNat).toNat hst hs ho hw
      obtain ⟨hfst, -, hfnow, -⟩ := h.follows log.toInt hops.toNat (.inl hst) hm rfl rfl
      exact ⟨hfst.trans hstate, hfnow.trans hnow⟩
    · obtain ⟨hstate, hcount, hnow⟩ := State.judged_loses m.toNat (s.plantTime sec.toNat ns.toNat sub.toNat).toNat hst ho hb
      obtain ⟨hfst, hfreg, hfnow, -⟩ := h.follows log.toInt hops.toNat (.inr hst) hm rfl rfl
      exact ⟨hfst.trans hstate, (State.fld_of_reg (hfreg _ (by decide))).trans hcount, hfnow.trans hnow⟩
    · obtain ⟨hstate, hinteg, hrate⟩ := State.judged_servo (s.plantTime sec.toNat ns.toNat sub.toNat).toNat hst ho hn hc hf
      obtain ⟨hfst, hfreg, -, hfinteg⟩ := h.follows log.toInt hops.toNat (.inr hst) hm rfl rfl
      rw [hinteg] at hrate
      exact ⟨hfst.trans hstate, hfinteg.trans hinteg, by rw [hfreg _ (by decide)]; exact hrate⟩
  · simp only [bmcaSelection_next]
    refine ⟨fun h => by rw [State.bmca_ignored h], fun h => by rw [State.bmca_port_refused h],
      fun h => by rw [State.bmca_self_incapable h], fun hp hl hg => ⟨_, rfl, ?_⟩, fun hp hf hl => ⟨_, rfl, ?_⟩⟩
    · obtain ⟨hst, hrate, hid, hport⟩ := s.selfShown_reads m.toNat
      have hreg := State.reg_of_regs (State.bmca_self_regs hp hl hg m.toNat port hops.toNat)
      rw [BitVec.ofNat_toNat, BitVec.setWidth_eq] at hid
      exact ⟨(State.fld_of_reg (hreg _)).trans hst, (hreg _).trans hrate, (hreg _).trans hid, (State.fld_of_reg (hreg _)).trans hport⟩
    · have hr := State.bmca_port_reads hp hf hl m.toNat hops.toNat rfl
      rwa [BitVec.ofNat_toNat, BitVec.setWidth_eq] at hr
  · refine ⟨syncTimeout_early, fun h => ⟨fun hst => ?_, fun hst => ?_⟩, fun hst h => ?_, fun h => syncEnWrite_ignored h v,
      fun hio hm hv => ⟨_, syncEnWrite_zero hio hm hv, State.syncLost_reads _⟩⟩
    · exact ⟨_, (syncTimeout_late h).1 hst, s.lockLost_state, s.lockLost_count⟩
    · refine ⟨_, (syncTimeout_late h).2 hst, ?_⟩
      split
      · exact s.holdover_state
      · exact s.unfollow_state (by decide)
    · exact ⟨_, holdoverExpiry_over hst h, s.unfollow_state (by decide), s.unfollow_reg _ (by decide) (by decide)⟩

end Sys2Proof.Machine

/-!
PROOFS. The compare units that fire and the 802.1AS messages that leave (R60, R73, R79 to R82): what a release and an advance leave
alone of the registers of plant time, the catch-up of a target, and the settled statement.
-/
namespace Sys2Proof.Machine

/-! ### The registers of plant time under a release and an advance (R96, R140, R147) -/

/-- The first IO address of the lode: the registers of plant time lie below it, those of the lode and the draught from it on. -/
def lodeRegs : Nat := 0x02000000

theorem lt_recordRegs_of_lt_lodeRegs {a : Nat} (h : a < lodeRegs) : a < recordRegs := Nat.lt_trans h (by decide)

theorem State.setFld_reg_below (s : State) {f : IoField} (v : Nat) {a : Nat} (h : a < lodeRegs) (hf : lodeRegs ≤ f.addr) :
    (s.setFld f v).reg a = s.reg a := s.setFld_reg_other f v (Nat.ne_of_lt (Nat.lt_of_lt_of_le h hf))

theorem State.advance_reg (s : State) (b : Nat) {a : Nat} (h : a < lodeRegs) : (s.advance b).1.reg a = s.reg a := by
  unfold State.advance
  split
  · exact (State.setFld_reg_below _ _ h (by decide)).trans (s.setFld_reg_below b h (by decide))
  · exact (State.log_reg _ _ _ _ _ _ _ (lt_recordRegs_of_lt_lodeRegs h)).trans (s.setFld_reg_below _ h (by decide))

theorem State.requestAdvance_reg (s : State) (b : Nat) {a : Nat} (h : a < lodeRegs) :
    (s.requestAdvance b).1.reg a = s.reg a := by
  unfold State.requestAdvance
  split
  · exact s.advance_reg b h
  · rfl

theorem State.drtLog_reg (s : State) (time source code index attempt dw2 : Nat) {a : Nat} (h : a < lodeRegs) :
    (s.drtLog time source code index attempt dw2).reg a = s.reg a :=
  State.logRecord_reg _ _ (lt_recordRegs_of_lt_lodeRegs h)

theorem State.cmdEnd_reg (s : State) (result : Nat) {a : Nat} (h : a < lodeRegs) : (s.cmdEnd result).reg a = s.reg a :=
  (State.setFld_reg_below _ _ h (by decide)).trans (s.setFld_reg_below _ h (by decide))

theorem State.drtUpdateCopy_reg (s : State) (i staging : Nat) {a : Nat} (h : a < lodeRegs) :
    (s.drtUpdateCopy i staging).reg a = s.reg a := by
  unfold State.drtUpdateCopy
  simp only
  split
  · exact s.cmdEnd_reg _ h
  · refine (State.cmdEnd_reg _ _ h).trans (State.reg_of_regs (s := s) ?_ a)
    show State.regs (ite _ _ _) = _
    split
    · exact s.dmaWritePoison_regs _ _ _
    · exact s.dmaWriteBy_regs _ _ _

theorem State.updateFirst_reg (s : State) (i : Nat) {a : Nat} (h : a < lodeRegs) : (s.updateFirst i).reg a = s.reg a := by
  have hc : s.updateCopy.reg a = s.reg a := by
    unfold State.updateCopy
    split
    · rfl
    · split
      · exact s.cmdEnd_reg _ h
      · split
        · exact s.cmdEnd_reg _ h
        · split
          · rfl
          · exact s.drtUpdateCopy_reg _ _ h
  unfold State.updateFirst
  split
  · split
    · exact hc
    · rfl
  · rfl

theorem State.skipRelease_reg (s : State) (i time source code n : Nat) {a : Nat} (h : a < lodeRegs) :
    (s.skipRelease i time source code n).reg a = s.reg a :=
  (State.drtLog_reg _ _ _ _ _ _ _ h).trans
    (State.setFld_reg_below (s.modTask i _) (f := F.DRT_EVT_COUNTS.SKIPPED) _ h (by decide))

theorem State.acceptRelease_reg (s : State) (i time source : Nat) (event : Bool) {a : Nat} (h : a < lodeRegs) :
    (s.acceptRelease i time source event).reg a = s.reg a := by
  have hh (b n : Nat) : (s.hubAccess b n srcDraught false).reg a = s.reg a := State.reg_of_regs (s.hubAccess_regs _ _ _ _) a
  unfold State.acceptRelease
  simp only
  split
  · exact (State.drtLog_reg _ _ _ _ _ _ _ h).trans (hh _ _)
  · show State.reg (Prod.fst (ite _ _ _)) a = _
    split
    · exact (State.requestAdvance_reg _ _ h).trans (hh _ _)
    · exact hh _ _

/-! ### The target of a compare unit that has fired (R80) -/

theorem periodsPast_of_due {t p now : Nat} (h : t ≤ now) : periodsPast t p now = (now - t) / p + 1 :=
  if_neg (Nat.not_lt.mpr h)

/-- The least number of periods, at least 1, that brings a due target beyond plant time (R80). -/
theorem periodsPast_least {t p now : Nat} (h : t ≤ now) (hp : 0 < p) : 1 ≤ periodsPast t p now
    ∧ now < t + periodsPast t p now * p ∧ ∀ j, 1 ≤ j → j < periodsPast t p now → t + j * p ≤ now := by
  rw [periodsPast_of_due h]
  refine ⟨Nat.le_add_left 1 _, ?_, fun j _ hj => ?_⟩
  · have := (Nat.div_lt_iff_lt_mul hp).mp (Nat.lt_succ_self ((now - t) / p))
    rw [Nat.succ_eq_add_one] at this
    omega
  · have := (Nat.le_div_iff_mul_le hp).mp (Nat.le_of_lt_succ hj)
    omega

theorem State.cmpAdvance_disarms {s : State} {n : Nat} (t : Nat) (h : s.reg (Adr.TIM_CMP_PERIOD n) = 0) :
    s.cmpAdvance n t = (s.raise (F.TIM_CMP_STAT.FIRED n)).setFld (F.TIM_CMP_CTL.ARM n) 0 := by
  simp [State.cmpAdvance, h]

/-- A periodic unit that has fired: FIRED, its target moved by `k` periods, and the periods missed counted. -/
def State.cmpMoved (s : State) (n t k : Nat) : State :=
  ((s.raise (F.TIM_CMP_STAT.FIRED n)).setReg (Adr.TIM_CMP_TARGET n)
    (BitVec.ofNat 64 (t + k * (s.reg (Adr.TIM_CMP_PERIOD n)).toNat))).count (F.TIM_CMP_STAT.MISSED n) (k - 1)

theorem State.cmpAdvance_reg_of_period {s : State} {n : Nat} (t : Nat) (h : (s.reg (Adr.TIM_CMP_PERIOD n)).toNat ≠ 0)
    {a : Nat} (ha : a < recordRegs) : (s.cmpAdvance n t).reg a
      = (s.cmpMoved n t (periodsPast t (s.reg (Adr.TIM_CMP_PERIOD n)).toNat s.time.now)).reg a := by
  simp only [State.cmpAdvance, h, if_false]
  split
  · exact State.log_reg _ _ _ _ _ _ _ ha
  · rfl

theorem State.cmpAdvance_reg (s : State) {n : Nat} (t : Nat) {a : Nat} (hs : a ≠ Adr.TIM_CMP_STAT n) (hc : a ≠ Adr.TIM_CMP_CTL n)
    (ht : a ≠ Adr.TIM_CMP_TARGET n) (ha : a < recordRegs) : (s.cmpAdvance n t).reg a = s.reg a := by
  by_cases h : (s.reg (Adr.TIM_CMP_PERIOD n)).toNat = 0
  · rw [State.cmpAdvance_disarms t (BitVec.eq_of_toNat_eq h), State.setFld_reg_other _ _ _ hc]
    exact State.setFld_reg_other _ _ _ hs
  · rw [State.cmpAdvance_reg_of_period t h ha]
    exact (State.setFld_reg_other _ _ _ hs).trans ((State.reg_setReg_other _ _ ht).trans (State.setFld_reg_other _ _ _ hs))

theorem State.advancesFirst_period (s : State) (t k m : Nat) (hm : m < 64) :
    (s.advancesFirst t k).reg (Adr.TIM_CMP_PERIOD m) = s.reg (Adr.TIM_CMP_PERIOD m) := by
  have ha : Adr.TIM_CMP_PERIOD m < lodeRegs := by unfold Adr.TIM_CMP_PERIOD lodeRegs; omega
  induction k generalizing s with
  | zero => rfl
  | succ j ih =>
    rw [State.advancesFirst]
    split
    · rfl
    · split
      · rfl
      · simp only
        rw [ih, State.cmpAdvance_reg, s.requestAdvance_reg _ ha]
        · unfold Adr.TIM_CMP_PERIOD Adr.TIM_CMP_STAT; omega
        · unfold Adr.TIM_CMP_PERIOD Adr.TIM_CMP_CTL; omega
        · unfold Adr.TIM_CMP_PERIOD Adr.TIM_CMP_TARGET; omega
        · exact lt_recordRegs_of_lt_lodeRegs ha

/-- A commanded release writes no PERIOD of a compare unit: those with an advance that comes first move their targets only. -/
theorem State.commandRelease_period (s : State) (i time source : Nat) {m : Nat} (hm : m < 64) :
    (s.commandRelease i time source).reg (Adr.TIM_CMP_PERIOD m) = s.reg (Adr.TIM_CMP_PERIOD m) := by
  have ha : Adr.TIM_CMP_PERIOD m < lodeRegs := by unfold Adr.TIM_CMP_PERIOD lodeRegs; omega
  have hr (u : State) : (u.releaseTask i time source false).reg (Adr.TIM_CMP_PERIOD m) = u.reg (Adr.TIM_CMP_PERIOD m) := by
    unfold State.releaseTask
    simp only [Bool.false_and, Bool.false_eq_true, if_false]
    split
    · rfl
    · split
      · exact u.skipRelease_reg _ _ _ _ _ ha
      · exact (State.acceptRelease_reg _ _ _ _ _ ha).trans (u.advancesFirst_period _ _ _ hm)
  unfold State.commandRelease
  split
  · rfl
  · simp only
    split
    · exact (State.setFld_reg_below _ (f := F.DRT_EVT_COUNTS.DROPPED) _ ha (by decide)).trans (s.updateFirst_reg i ha)
    · exact (hr _).trans (s.updateFirst_reg i ha)

/-! ### COMPARE_UNIT_FIRE (R79 to R81) -/

theorem compareUnitFire_idle {s : State} {n : Fin 64} (h : s.cmpFirst n = false) : exec (.compareUnitFire n) s = .next s := by
  show execCompareUnitFire n s = _
  simp [execCompareUnitFire, done, h]

theorem compareUnitFire_first {s : State} {n : Fin 64} (h : s.cmpFirst n = true) : exec (.compareUnitFire n) s
    = .next ((s.cmpAction n (s.reg (Adr.TIM_CMP_TARGET n)).toNat).cmpAdvance n (s.reg (Adr.TIM_CMP_TARGET n)).toNat) := by
  show execCompareUnitFire n s = _
  simp [execCompareUnitFire, done, h]

/-- The first due unit is armed and its target is reached. -/
theorem State.cmpFirst_due {s : State} {n : Nat} (h : s.cmpFirst n = true) :
    s.flag (F.TIM_CMP_CTL.ARM n) = true ∧ (s.reg (Adr.TIM_CMP_TARGET n)).toNat ≤ s.time.now := by
  simp only [State.cmpFirst, State.cmpReady, State.cmpDue, Bool.and_eq_true, decide_eq_true_eq] at h
  obtain ⟨⟨⟨-, hdue, -⟩, -⟩, -⟩ := h
  exact hdue

/-- A unit that fires with PERIOD 0 changes FIRED and ARM only. -/
theorem State.cmpAdvance_once {s : State} {n : Nat} (t : Nat) (h : (s.reg (Adr.TIM_CMP_PERIOD n)).toNat = 0) :
    (s.cmpAdvance n t).flag (F.TIM_CMP_STAT.FIRED n) = true ∧ (s.cmpAdvance n t).flag (F.TIM_CMP_CTL.ARM n) = false
      ∧ (∀ a, a ≠ Adr.TIM_CMP_STAT n → a ≠ Adr.TIM_CMP_CTL n → (s.cmpAdvance n t).reg a = s.reg a)
      ∧ (s.cmpAdvance n t).drt = s.drt ∧ (s.cmpAdvance n t).mem = s.mem ∧ (s.cmpAdvance n t).lode = s.lode := by
  rw [State.cmpAdvance_disarms t (BitVec.eq_of_toNat_eq h)]
  have hfired : (s.raise (F.TIM_CMP_STAT.FIRED n)).flag (F.TIM_CMP_STAT.FIRED n) = true := State.flag_raise _ _ IoField.fits
  have hreg {a : Nat} (ha : a ≠ Adr.TIM_CMP_STAT n) : (s.raise (F.TIM_CMP_STAT.FIRED n)).reg a = s.reg a :=
    State.setFld_reg_other _ _ _ ha
  refine ⟨?_, State.flag_setFld_zero _ _ IoField.fits, fun a hs hc => ?_, ?_, ?_, ?_⟩
  · rw [State.flag_setFld_other _ _ _ _ IoField.fits (.inl (cmpStat_ne_cmpCtl n n)), hfired]
  · rw [State.setFld_reg_other _ _ _ hc, hreg hs]
  · rw [State.setFld_drt, State.raise_drt]
  · rw [State.setFld_mem, State.raise_mem]
  · rw [State.setFld_lode, State.raise_lode]

theorem cmpStat_ne_cmpTarget (m n : Nat) : Adr.TIM_CMP_STAT m ≠ Adr.TIM_CMP_TARGET n := by
  unfold Adr.TIM_CMP_STAT Adr.TIM_CMP_TARGET
  omega

theorem cmpCtl_ne_cmpTarget (m n : Nat) : Adr.TIM_CMP_CTL m ≠ Adr.TIM_CMP_TARGET n := by
  unfold Adr.TIM_CMP_CTL Adr.TIM_CMP_TARGET
  omega

theorem State.cmpMoved_reads (s : State) (n t k : Nat) :
    (s.cmpMoved n t k).flag (F.TIM_CMP_STAT.FIRED n) = true
      ∧ (s.cmpMoved n t k).reg (Adr.TIM_CMP_TARGET n) = BitVec.ofNat 64 (t + k * (s.reg (Adr.TIM_CMP_PERIOD n)).toNat)
      ∧ (s.cmpMoved n t k).reg (Adr.TIM_CMP_CTL n) = s.reg (Adr.TIM_CMP_CTL n)
      ∧ (s.cmpMoved n t k).fld (F.TIM_CMP_STAT.MISSED n) = min (s.fld (F.TIM_CMP_STAT.MISSED n) + (k - 1)) 0xFFFF := by
  have hstat (u : State) (v : Word) {f : IoField} (hf : f.addr = Adr.TIM_CMP_STAT n) :
      (u.setReg (Adr.TIM_CMP_TARGET n) v).fld f = u.fld f :=
    State.fld_of_reg (u.reg_setReg_other v (hf ▸ cmpStat_ne_cmpTarget n n))
  refine ⟨?_, ?_, ?_, ?_⟩
  · have hf : (s.cmpMoved n t k).fld (F.TIM_CMP_STAT.FIRED n) = (s.raise (F.TIM_CMP_STAT.FIRED n)).fld (F.TIM_CMP_STAT.FIRED n) :=
      (State.fld_count_other _ _ _ _ IoField.fits (.inr (.inl (show 15 < 16 by decide)))).trans (hstat _ _ rfl)
    rw [State.flag, hf]
    exact State.flag_raise _ _ IoField.fits
  · exact (State.setFld_reg_other _ _ _ (cmpStat_ne_cmpTarget n n).symm).trans (State.reg_setReg_same _ _ _)
  · exact (State.setFld_reg_other _ _ _ (cmpStat_ne_cmpCtl n n).symm).trans
      ((State.reg_setReg_other _ _ (cmpCtl_ne_cmpTarget n n)).trans (State.setFld_reg_other _ _ _ (cmpStat_ne_cmpCtl n n).symm))
  · refine (State.fld_count _ _ _ IoField.fits).trans ?_
    rw [hstat _ _ rfl, State.raise, State.fld_setFld_other _ _ _ _ IoField.fits (.inr (.inr (show 15 < 16 by decide)))]
    rfl

/-- The registers of a compare unit lie below those of the hewers and of a fault record. -/
theorem cmpRegs_below {n : Nat} (h : n < 64) : Adr.TIM_CMP_TARGET n < lodeRegs ∧ Adr.TIM_CMP_PERIOD n < lodeRegs
    ∧ Adr.TIM_CMP_CTL n < lodeRegs ∧ Adr.TIM_CMP_STAT n < lodeRegs := by
  unfold Adr.TIM_CMP_TARGET Adr.TIM_CMP_PERIOD Adr.TIM_CMP_CTL Adr.TIM_CMP_STAT lodeRegs
  omega

/-- A due periodic unit that fires stays armed, and its target moves beyond plant time (R80). -/
theorem State.cmpAdvance_periodic {s : State} {n t p : Nat} (hn : n < 64) (hreg : (s.reg (Adr.TIM_CMP_PERIOD n)).toNat = p)
    (hp : p ≠ 0) (hd : t ≤ s.time.now) (ha : s.flag (F.TIM_CMP_CTL.ARM n) = true) :
    ∃ k, 1 ≤ k ∧ s.time.now < t + k * p ∧ (∀ j, 1 ≤ j → j < k → t + j * p ≤ s.time.now)
      ∧ (s.cmpAdvance n t).reg (Adr.TIM_CMP_TARGET n) = BitVec.ofNat 64 (t + k * p)
      ∧ (s.cmpAdvance n t).flag (F.TIM_CMP_CTL.ARM n) = true
      ∧ (s.cmpAdvance n t).fld (F.TIM_CMP_STAT.MISSED n) = min (s.fld (F.TIM_CMP_STAT.MISSED n) + (k - 1)) 0xFFFF := by
  subst hreg
  obtain ⟨htarget, -, hctl, hstat⟩ := cmpRegs_below hn
  obtain ⟨hpos, hpast, hleast⟩ := periodsPast_least hd (Nat.pos_of_ne_zero hp)
  have hmoved {a : Nat} (h : a < lodeRegs) := State.cmpAdvance_reg_of_period t hp (lt_recordRegs_of_lt_lodeRegs h)
  generalize periodsPast t (s.reg (Adr.TIM_CMP_PERIOD n)).toNat s.time.now = k at *
  obtain ⟨-, hk, harm, hmissed⟩ := s.cmpMoved_reads n t k
  refine ⟨k, hpos, hpast, hleast, (hmoved htarget).trans hk, ?_,
    (State.fld_of_reg (f := F.TIM_CMP_STAT.MISSED n) (hmoved hstat)).trans hmissed⟩
  exact (State.flag_of_reg (f := F.TIM_CMP_CTL.ARM n) ((hmoved hctl).trans harm)).trans ha

theorem State.cmpAdvance_fired {s : State} {n t : Nat} (hn : n < 64) :
    (s.cmpAdvance n t).flag (F.TIM_CMP_STAT.FIRED n) = true := by
  obtain ⟨-, -, -, hstat⟩ := cmpRegs_below hn
  by_cases hp : (s.reg (Adr.TIM_CMP_PERIOD n)).toNat = 0
  · exact (State.cmpAdvance_once t hp).1
  · have hmoved := State.cmpAdvance_reg_of_period t hp (lt_recordRegs_of_lt_lodeRegs hstat)
    exact (State.flag_of_reg (f := F.TIM_CMP_STAT.FIRED n) hmoved).trans (s.cmpMoved_reads n t _).1

/-- The catch-up of the first due unit after an action that leaves plant time and the unit's registers alone (R80). -/
theorem State.cmpAdvance_of_action {s u : State} {n : Nat} (hn : n < 64) (hfirst : s.cmpFirst n = true)
    (hreg : ∀ a, a < lodeRegs → u.reg a = s.reg a) (htime : u.time = s.time) {t p : Nat}
    (ht : (s.reg (Adr.TIM_CMP_TARGET n)).toNat = t) (hperiod : (s.reg (Adr.TIM_CMP_PERIOD n)).toNat = p) :
    (p = 0 → (u.cmpAdvance n t).flag (F.TIM_CMP_CTL.ARM n) = false
        ∧ (u.cmpAdvance n t).reg (Adr.TIM_CMP_TARGET n) = s.reg (Adr.TIM_CMP_TARGET n))
      ∧ (p ≠ 0 → ∃ k, 1 ≤ k ∧ s.time.now < t + k * p ∧ (∀ j, 1 ≤ j → j < k → t + j * p ≤ s.time.now)
        ∧ (u.cmpAdvance n t).reg (Adr.TIM_CMP_TARGET n) = BitVec.ofNat 64 (t + k * p)
        ∧ (u.cmpAdvance n t).flag (F.TIM_CMP_CTL.ARM n) = true
        ∧ (u.cmpAdvance n t).fld (F.TIM_CMP_STAT.MISSED n) = min (s.fld (F.TIM_CMP_STAT.MISSED n) + (k - 1)) 0xFFFF) := by
  obtain ⟨harm, hdue⟩ := State.cmpFirst_due hfirst
  obtain ⟨hbt, hbp, hbc, hbs⟩ := cmpRegs_below hn
  have hup : (u.reg (Adr.TIM_CMP_PERIOD n)).toNat = p := (congrArg BitVec.toNat (hreg _ hbp)).trans hperiod
  refine ⟨fun hp => ?_, fun hp => ?_⟩
  · obtain ⟨-, hdis, hrest, -⟩ := State.cmpAdvance_once t (hup.trans hp)
    exact ⟨hdis, (hrest _ (cmpStat_ne_cmpTarget n n).symm (cmpCtl_ne_cmpTarget n n).symm).trans (hreg _ hbt)⟩
  · have hcatch := State.cmpAdvance_periodic (t := t) hn hup hp (by rw [htime]; exact ht ▸ hdue)
      ((State.flag_of_reg (f := F.TIM_CMP_CTL.ARM n) (hreg _ hbc)).trans harm)
    rwa [htime, State.fld_of_reg (f := F.TIM_CMP_STAT.MISSED n) (hreg _ hbs)] at hcatch

/-! ### The action of a unit (R79) -/

theorem State.cmpInterrupt_reg (s : State) (arg : Nat) {a : Nat} (h : a ≠ Adr.HWR_PTC_PEND (arg % 512)) :
    (s.cmpInterrupt arg).reg a = s.reg a := by
  unfold State.cmpInterrupt
  simp only
  split
  · rfl
  · exact State.setFld_reg_other _ _ _ h

theorem State.cmpInterrupt_time (s : State) (arg : Nat) : (s.cmpInterrupt arg).time = s.time := by
  unfold State.cmpInterrupt
  simp only
  split <;> rfl

theorem State.cmpInterrupt_off {s : State} {arg : Nat} (h : s.domainOn (shaftDomain (arg % 512)) = false) : s.cmpInterrupt arg = s := by
  simp [State.cmpInterrupt, h]

/-- The level is added to those that wait (R451). -/
theorem State.cmpInterrupt_level {s : State} {arg : Nat} (h : s.domainOn (shaftDomain (arg % 512)) = true) :
    (s.cmpInterrupt arg).fld (F.HWR_PTC_PEND.LVL (arg % 512))
      = s.fld (F.HWR_PTC_PEND.LVL (arg % 512)) ||| 2 ^ bitsOf arg 15 12 := by
  have hold : s.fld (F.HWR_PTC_PEND.LVL (arg % 512)) < 2 ^ 16 := bitsOf_lt _ _ _
  have hlvl : 2 ^ bitsOf arg 15 12 < 2 ^ 16 := Nat.pow_lt_pow_right (by decide) (bitsOf_lt arg 15 12)
  simp only [State.cmpInterrupt, h, Bool.not_true, Bool.false_eq_true, if_false]
  rw [State.fld_setFld_same _ _ _ IoField.fits]
  exact Nat.mod_eq_of_lt (Nat.or_lt_two_pow hold hlvl)

theorem pend_above {h : Nat} : lodeRegs ≤ Adr.HWR_PTC_PEND h := by
  unfold Adr.HWR_PTC_PEND lodeRegs
  omega

/-- The catch-up of a unit leaves the pending interrupts of the hewers alone. -/
theorem State.cmpAdvance_pend (s : State) {n : Nat} (hn : n < 64) (t : Nat) {h : Nat} (hh : h < 512) :
    (s.cmpAdvance n t).reg (Adr.HWR_PTC_PEND h) = s.reg (Adr.HWR_PTC_PEND h) := by
  obtain ⟨htarget, -, hctl, hstat⟩ := cmpRegs_below hn
  have hne {a : Nat} (ha : a < lodeRegs) : Adr.HWR_PTC_PEND h ≠ a := Nat.ne_of_gt (Nat.lt_of_lt_of_le ha pend_above)
  refine s.cmpAdvance_reg t (hne hstat) (hne hctl) (hne htarget) ?_
  unfold Adr.HWR_PTC_PEND recordRegs
  omega

theorem State.cmpAction_interrupt {s : State} {n : Nat} (t : Nat) (h : s.fld (F.TIM_CMP_CTL.ACTION n) = 0) :
    s.cmpAction n t = s.cmpInterrupt (s.fld (F.TIM_CMP_CTL.ARG n)) := by
  simp only [State.cmpAction, h]

theorem State.cmpAction_release {s : State} {n : Nat} (t : Nat) (h : s.fld (F.TIM_CMP_CTL.ACTION n) = 1) :
    s.cmpAction n t = s.commandRelease (s.fld (F.TIM_CMP_CTL.ARG n)) t (s.source srcDraught) := by
  simp only [State.cmpAction, h]

theorem State.cmpAction_advance {s : State} {n : Nat} (t : Nat) (h : s.fld (F.TIM_CMP_CTL.ACTION n) = 5) :
    s.cmpAction n t = (s.requestAdvance t).1 := by
  simp only [State.cmpAction, h]

/-! ### 802.1AS messages (R60, R73, R595) -/

theorem syncTransmit_idle {s : State} {port : Fin 8} (h : s.mayLead port = false ∨ s.gptpSends port = false) :
    exec (.syncTransmit port) s = .next s := by
  show execSyncTransmit port s = _
  rcases h with h | h <;> simp [execSyncTransmit, done, h]

theorem pdelayReqTransmit_idle {s : State} {port : Fin 8} (h : s.gptpSends port = false) :
    exec (.pdelayReqTransmit port) s = .next s := by
  show execPdelayReqTransmit port s = _
  simp [execPdelayReqTransmit, done, h]

theorem pdelayReqTransmit_sends {s : State} {port : Fin 8} (h : s.gptpSends port = true) :
    exec (.pdelayReqTransmit port) s = .next (s.sendGptp port 2 0) := by
  show execPdelayReqTransmit port s = _
  simp [execPdelayReqTransmit, done, h]

theorem syncTransmit_grandmaster {s : State} {port : Fin 8} (h : s.gptpSends port = true) (hst : s.fld F.TIM_STATUS.STATE = 4)
    (hl : s.mayLead port = true) :
    exec (.syncTransmit port) s = .next ((s.sendGptp port 0 s.syncLog).sendGptp port 1 s.syncLog) := by
  show execSyncTransmit port s = _
  simp [execSyncTransmit, done, h, hl, State.syncState, stGrandmaster, hst]

/-- Behind a frame in transmission a message waits. -/
theorem State.sendGptp_waits {s : State} {port : Nat} (h : s.time.cyc < (s.port port).busy) (kind info : Nat) :
    s.sendGptp port kind info = s.setPort port { s.port port with gptp := (s.port port).gptp ++ [(kind, info)] } := by
  simp [State.sendGptp, h]

/-- With nothing before it and lock a message leaves with the port's stamp. -/
theorem State.sendGptp_leaves {s : State} {port : Nat} (hb : (s.port port).busy ≤ s.time.cyc) (hl : (s.port port).lock = true)
    (hg : (s.port port).gptp = []) (kind info : Nat) : s.sendGptp port kind info
      = (s.stamp (0x500 + port)).2.emit (.gptp port kind (s.stamp (0x500 + port)).1 (s.fld F.TIM_CTL.DOMAIN) info) := by
  simp [State.sendGptp, State.putGptp, Nat.not_lt.mpr hb, hl, hg]

/-- A second message of a free port follows with the stamp after the first one's (R60). -/
theorem State.sendGptp_twice {s : State} {port : Nat} (hb : (s.port port).busy ≤ s.time.cyc) (hl : (s.port port).lock = true)
    (hg : (s.port port).gptp = []) (kind kind' info : Nat) :
    ((s.sendGptp port kind info).sendGptp port kind' info).out
        = .gptp port kind' ((s.stamp (0x500 + port)).2.stamp (0x500 + port)).1 (s.fld F.TIM_CTL.DOMAIN) info
          :: .gptp port kind (s.stamp (0x500 + port)).1 (s.fld F.TIM_CTL.DOMAIN) info :: s.out
      ∧ ((s.sendGptp port kind info).sendGptp port kind' info).regs = s.regs
      ∧ ((s.sendGptp port kind info).sendGptp port kind' info).mem = s.mem := by
  have hfirst := State.sendGptp_leaves hb hl hg kind info
  generalize s.sendGptp port kind info = u at *
  rw [State.sendGptp_leaves (s := u) (by rw [hfirst]; exact hb) (by rw [hfirst]; exact hl) (by rw [hfirst]; exact hg), hfirst]
  exact ⟨rfl, rfl, rfl⟩

/-! ### The statement -/

/-- Settles O42: the action and the catch-up of a unit by the lemma on each, where neither touches the registers that the other goes
by; a message by whether the port is free. -/
theorem compareUnitsFire : Obligations.CompareUnitsFire := by
  refine ⟨fun n s => ⟨compareUnitFire_idle, fun hfirst => ⟨fun hact => ?_, fun hact hp => ?_, fun hact hp => ?_⟩⟩,
    fun port s => ⟨fun h => syncTransmit_idle (.inl h), fun h => ⟨syncTransmit_idle (.inr h), pdelayReqTransmit_idle h⟩,
      fun h hb => ?_, fun h hb hl hg => ⟨?_, fun hst hlead => ?_⟩⟩⟩
  · have hlevel := (s.cmpInterrupt (s.fld (F.TIM_CMP_CTL.ARG n))).cmpAdvance_pend n.isLt
      (s.reg (Adr.TIM_CMP_TARGET n)).toNat (Nat.mod_lt (s.fld (F.TIM_CMP_CTL.ARG n)) (by decide : 0 < 512))
    have hfld := State.fld_of_reg (f := F.HWR_PTC_PEND.LVL (s.fld (F.TIM_CMP_CTL.ARG n) % 512)) hlevel
    refine ⟨_, (compareUnitFire_first hfirst).trans (by rw [State.cmpAction_interrupt _ hact]), State.cmpAdvance_fired n.isLt,
      fun hon => hfld.trans (State.cmpInterrupt_level hon),
      fun hoff => hfld.trans (by rw [State.cmpInterrupt_off hoff]), ?_⟩
    exact State.cmpAdvance_of_action n.isLt hfirst (fun a ha => s.cmpInterrupt_reg _ (Nat.ne_of_lt (Nat.lt_of_lt_of_le ha pend_above)))
      (s.cmpInterrupt_time _) rfl rfl
  · obtain ⟨-, -, -, hdrt, hmem, -⟩ := State.cmpAdvance_once (s.reg (Adr.TIM_CMP_TARGET n)).toNat
      ((congrArg BitVec.toNat (s.commandRelease_period (s.fld (F.TIM_CMP_CTL.ARG n)) (s.reg (Adr.TIM_CMP_TARGET n)).toNat
        (s.source srcDraught) n.isLt)).trans hp)
    exact ⟨_, (compareUnitFire_first hfirst).trans (by rw [State.cmpAction_release _ hact]), hdrt, hmem⟩
  · obtain ⟨-, hperiod, hctl, hstat⟩ := cmpRegs_below n.isLt
    obtain ⟨-, -, hrest, -, -, hlode⟩ := State.cmpAdvance_once (s.reg (Adr.TIM_CMP_TARGET n)).toNat
      ((congrArg BitVec.toNat (s.requestAdvance_reg (s.reg (Adr.TIM_CMP_TARGET n)).toNat hperiod)).trans hp)
    refine ⟨_, (compareUnitFire_first hfirst).trans (by rw [State.cmpAction_advance _ hact]), hlode,
      State.fld_of_reg (f := F.LOD_PEND_B.BOUNDARY) (hrest _ ?_ ?_)⟩
    · exact Nat.ne_of_gt (Nat.lt_of_lt_of_le hstat (by decide))
    · exact Nat.ne_of_gt (Nat.lt_of_lt_of_le hctl (by decide))
  · rw [pdelayReqTransmit_sends h, State.sendGptp_waits hb]
    exact ⟨_, rfl, rfl, congrArg PlkPort.gptp (Table.get_set_same _ _ _ _), rfl, rfl⟩
  · rw [pdelayReqTransmit_sends h, State.sendGptp_leaves hb hl hg]
    exact ⟨_, rfl, rfl, rfl, rfl⟩
  · exact ⟨_, syncTransmit_grandmaster h hst hlead, State.sendGptp_twice hb hl hg 0 1 s.syncLog⟩

end Sys2Proof.Machine

/-!
PROOFS. What fault records and the releases of tasks leave alone of the lode: its slots and its open epoch (R96, R100, R146).
-/
namespace Sys2Proof.Machine

/-! ### The lode under a fault record -/

@[simp] theorem State.rawWrite_lode (s : State) (a : Nat) (l : List Byte) : (s.rawWrite a l).lode = s.lode := by
  obtain ⟨b, hb⟩ := State.rawWrite_rest s a l
  rw [hb]

@[simp] theorem State.dmaWriteBy_lode (s : State) (src a : Nat) (l : List Byte) : (s.dmaWriteBy src a l).lode = s.lode :=
  (State.rawWrite_lode (s.hubAccess a l.length src true) a l).trans (State.hubAccess_lode _ _ _ _ _)

@[simp] theorem State.dmaWritePoison_lode (s : State) (src a : Nat) (l : List Byte) : (s.dmaWritePoison src a l).lode = s.lode :=
  (State.rawWrite_lode (s.hubAccess a l.length src true) a l).trans (State.hubAccess_lode _ _ _ _ _)

@[simp] theorem State.setPba_lode (s : State) (f vec : Nat) (on : Bool) : (s.setPba f vec on).lode = s.lode := by
  unfold State.setPba
  split <;> rfl

@[simp] theorem State.sendMsix_lode (s : State) (f vec : Nat) : (s.sendMsix f vec).lode = s.lode := by
  have hp := s.setPba_lode f vec true
  unfold State.sendMsix
  simp only
  split
  · rfl
  · split
    · split <;> exact hp
    · split
      · rfl
      · split
        · exact hp
        · rfl

@[simp] theorem State.notify_lode (s : State) (bits : Nat) : (s.notify bits).lode = s.lode := by
  unfold State.notify
  simp only
  split
  · exact State.sendMsix_lode _ _ _
  · rfl

@[simp] theorem State.bufferRecord_lode (s : State) (r : FaultRec) : (s.bufferRecord r).lode = s.lode := by
  unfold State.bufferRecord
  split <;> rfl

@[simp] theorem State.logRecord_lode (s : State) (r : FaultRec) : (s.logRecord r).lode = s.lode := by
  unfold State.logRecord
  split
  · rfl
  · simp only
    split
    · exact (State.dmaWriteBy_lode _ _ _ _).trans (s.notify_lode _)
    · exact (State.bufferRecord_lode _ _).trans (s.notify_lode _)

@[simp] theorem State.log_lode (s : State) (loc code detail cls dw2 dw3 : Nat) :
    (s.log loc code detail cls dw2 dw3).lode = s.lode := State.logRecord_lode _ _

/-! ### The copies under the releases of tasks -/

/-- What every view of the lode goes by: its slots and the open epoch. -/
def State.copies (s : State) : Table LodeSlot × Nat := (s.lode.slots, s.openEpoch)

theorem State.copies_of {s t : State} (hl : t.lode.slots = s.lode.slots) (hr : t.reg Adr.LOD_EPOCH = s.reg Adr.LOD_EPOCH) :
    t.copies = s.copies := by
  unfold State.copies State.openEpoch
  rw [hl, State.fld_of_reg (f := F.LOD_EPOCH.OPEN) hr]

theorem epoch_lt_recordRegs : Adr.LOD_EPOCH < recordRegs := by decide

theorem State.setFld_copies (s : State) {f : IoField} (v : Nat) (h : Adr.LOD_EPOCH ≠ f.addr) : (s.setFld f v).copies = s.copies :=
  State.copies_of rfl (s.setFld_reg_other f v h)

theorem State.logRecord_copies (s : State) (r : FaultRec) : (s.logRecord r).copies = s.copies :=
  State.copies_of (by rw [State.logRecord_lode]) (s.logRecord_reg r epoch_lt_recordRegs)

theorem State.log_copies (s : State) (loc code detail cls dw2 dw3 : Nat) : (s.log loc code detail cls dw2 dw3).copies = s.copies :=
  State.logRecord_copies _ _

theorem State.advance_copies (s : State) (b : Nat) : (s.advance b).1.copies = s.copies := by
  unfold State.advance
  split
  · exact (State.setFld_copies _ _ (by decide)).trans (s.setFld_copies _ (by decide))
  · exact (State.log_copies _ _ _ _ _ _ _).trans (s.setFld_copies _ (by decide))

theorem State.requestAdvance_copies (s : State) (b : Nat) : (s.requestAdvance b).1.copies = s.copies := by
  unfold State.requestAdvance
  split
  · exact s.advance_copies b
  · rfl

theorem State.cmpAdvance_copies (s : State) {n : Nat} (t : Nat) (h : n < 64) : (s.cmpAdvance n t).copies = s.copies := by
  refine State.copies_of ?_ (s.cmpAdvance_reg t ?_ ?_ ?_ epoch_lt_recordRegs)
  · unfold State.cmpAdvance
    simp only
    split
    · rfl
    · split
      · rw [State.log_lode]; rfl
      · rfl
  · unfold Adr.LOD_EPOCH Adr.TIM_CMP_STAT; omega
  · unfold Adr.LOD_EPOCH Adr.TIM_CMP_CTL; omega
  · unfold Adr.LOD_EPOCH Adr.TIM_CMP_TARGET; omega

theorem State.earliest_mem {s : State} {l : List Nat} {n : Nat} (h : s.earliest l = some n) : n ∈ l := by
  induction l generalizing n with
  | nil => cases h
  | cons m r ih =>
    rw [State.earliest] at h
    split at h
    · exact Option.some.inj h ▸ List.mem_cons_self
    · next k hk =>
      split at h
      · exact List.mem_cons_of_mem m (ih (hk.trans h))
      · exact Option.some.inj h ▸ List.mem_cons_self

theorem State.advancesFirst_copies (s : State) (t k : Nat) : (s.advancesFirst t k).copies = s.copies := by
  induction k generalizing s with
  | zero => rfl
  | succ j ih =>
    rw [State.advancesFirst]
    split
    · rfl
    · split
      · rfl
      · next n hn =>
        have hlt : n < 64 := List.mem_range.mp (List.mem_filter.mp (State.earliest_mem hn)).1
        exact ((ih _).trans (State.cmpAdvance_copies _ _ hlt)).trans (s.requestAdvance_copies _)

theorem State.hubAccess_copies (s : State) (a n src : Nat) (write : Bool) : (s.hubAccess a n src write).copies = s.copies :=
  State.copies_of (by rw [State.hubAccess_lode]) (State.reg_of_regs (s.hubAccess_regs a n src write) _)

theorem State.cmdEnd_copies (s : State) (result : Nat) : (s.cmdEnd result).copies = s.copies :=
  (State.setFld_copies _ _ (by decide)).trans (s.setFld_copies _ (by decide))

theorem State.drtUpdateCopy_copies (s : State) (i staging : Nat) : (s.drtUpdateCopy i staging).copies = s.copies := by
  unfold State.drtUpdateCopy
  simp only
  split
  · exact s.cmdEnd_copies _
  · refine (State.cmdEnd_copies _ _).trans ?_
    show State.copies (ite _ _ _) = _
    split
    · exact State.copies_of (by rw [State.dmaWritePoison_lode]) (State.reg_of_regs (s.dmaWritePoison_regs _ _ _) _)
    · exact State.copies_of (by rw [State.dmaWriteBy_lode]) (State.reg_of_regs (s.dmaWriteBy_regs _ _ _) _)

theorem State.updateFirst_copies (s : State) (i : Nat) : (s.updateFirst i).copies = s.copies := by
  have hc : s.updateCopy.copies = s.copies := by
    unfold State.updateCopy
    split
    · rfl
    · split
      · exact s.cmdEnd_copies _
      · split
        · exact s.cmdEnd_copies _
        · split
          · rfl
          · exact s.drtUpdateCopy_copies _ _
  unfold State.updateFirst
  split
  · split
    · exact hc
    · rfl
  · rfl

theorem State.skipRelease_copies (s : State) (i time source code n : Nat) : (s.skipRelease i time source code n).copies = s.copies :=
  (State.logRecord_copies _ _).trans (State.setFld_copies (s.modTask i _) (f := F.DRT_EVT_COUNTS.SKIPPED) _ (by decide))

theorem State.acceptRelease_copies (s : State) (i time source : Nat) (event : Bool) :
    (s.acceptRelease i time source event).copies = s.copies := by
  have hh (b n : Nat) : (s.hubAccess b n srcDraught false).copies = s.copies := s.hubAccess_copies _ _ _ _
  unfold State.acceptRelease
  simp only
  split
  · exact (State.logRecord_copies _ _).trans (hh _ _)
  · show State.copies (Prod.fst (ite _ _ _)) = _
    split
    · exact (State.requestAdvance_copies _ _).trans (hh _ _)
    · exact hh _ _

theorem State.releaseTask_copies (s : State) (i time source : Nat) (event : Bool) :
    (s.releaseTask i time source event).copies = s.copies := by
  unfold State.releaseTask
  simp only
  split_ifs
  · rfl
  · exact s.skipRelease_copies _ _ _ _ _
  · exact s.skipRelease_copies _ _ _ _ _
  · exact (State.acceptRelease_copies _ _ _ _ _).trans (s.advancesFirst_copies _ _)

theorem State.eventRelease_copies (s : State) (r : EventRelease) : (s.eventRelease r).copies = s.copies := by
  unfold State.eventRelease
  simp only
  split
  · exact (State.releaseTask_copies _ _ _ _ _).trans (s.updateFirst_copies _)
  · exact s.updateFirst_copies _

/-- The releases that notifications cause write no slot and leave the open epoch (R146). -/
theorem State.notifyAll_copies (s : State) (l : List (Nat × Nat × Nat)) : (s.notifyAll l).copies = s.copies :=
  foldl_leaves State.copies _ State.eventRelease_copies _ s

theorem State.markStall_copies (s : State) : s.markStall.copies = s.copies := by
  unfold State.markStall
  split
  · exact s.setFld_copies (f := F.LOD_STATUS.HOLD_STALL) _ (by decide)
  · rfl

end Sys2Proof.Machine

/-!
PROOFS. The write procedure of the lode (R92, R93, R126): the copy that a write takes over for the open epoch, what an applied item does
in each of its cases, and that none of them touches a snapshot.
-/
namespace Sys2Proof.Machine

/-! ### The two copies of a slot (R84, R100) -/

theorem tagAge_eq_zero {o tag : Nat} : tagAge o tag = 0 ↔ tag % 2 ^ 32 = o % 2 ^ 32 := by
  unfold tagAge
  omega

theorem LodeCopy.inEpoch_iff {c : LodeCopy} {o : Nat} : c.inEpoch o = true ↔ tagAge o c.tag = 0 := by
  rw [tagAge_eq_zero, LodeCopy.inEpoch, beq_iff_eq]

/-- Set the copy of the open epoch: the newest one where it was written in that epoch, else the other one, which it takes over (R92). -/
def LodeSlot.setOpen (x : LodeSlot) (o : Nat) (c : LodeCopy) : LodeSlot :=
  if (x.newest o).inEpoch o then x.setNewest o c else x.setOldest o c

/-- The copy set for the open epoch is the newest, and the other one is the snapshot from before. -/
theorem LodeSlot.setOpen_views (x : LodeSlot) {o : Nat} {c : LodeCopy} (hc : c.inEpoch o = true) :
    (x.setOpen o c).newest o = c ∧ (x.setOpen o c).oldest o = x.snapshot o := by
  have hage := LodeCopy.inEpoch_iff.mp hc
  have hfirst : LodeSlot.newIsZero { x with c0 := c } o = true := by simp [LodeSlot.newIsZero, hage]
  have hsecond (h : tagAge o x.c0.tag ≠ 0) : LodeSlot.newIsZero { x with c1 := c } o = false := by simp [LodeSlot.newIsZero, hage, h]
  cases hz : x.newIsZero o with
  | true =>
    cases he : x.c0.inEpoch o with
    | true => simp [LodeSlot.setOpen, LodeSlot.snapshot, LodeSlot.setNewest, LodeSlot.newest, LodeSlot.oldest, hz, he, hfirst]
    | false =>
      have hpos : tagAge o x.c0.tag ≠ 0 := fun h => by rw [LodeCopy.inEpoch_iff.mpr h] at he; cases he
      simp [LodeSlot.setOpen, LodeSlot.snapshot, LodeSlot.setOldest, LodeSlot.newest, LodeSlot.oldest, hz, he, hsecond hpos]
  | false =>
    cases he : x.c1.inEpoch o with
    | true =>
      have hlater : ¬ tagAge o x.c0.tag ≤ tagAge o x.c1.tag := of_decide_eq_false hz
      have hpos : tagAge o x.c0.tag ≠ 0 := by omega
      simp [LodeSlot.setOpen, LodeSlot.snapshot, LodeSlot.setNewest, LodeSlot.newest, LodeSlot.oldest, hz, he, hsecond hpos]
    | false => simp [LodeSlot.setOpen, LodeSlot.snapshot, LodeSlot.setOldest, LodeSlot.newest, LodeSlot.oldest, hz, he, hfirst]

theorem LodeSlot.newest_setOpen (x : LodeSlot) {o : Nat} {c : LodeCopy} (hc : c.inEpoch o = true) : (x.setOpen o c).newest o = c :=
  (x.setOpen_views hc).1

/-- A write into the open epoch leaves the snapshot as it was (R100). -/
theorem LodeSlot.snapshot_setOpen (x : LodeSlot) {o : Nat} {c : LodeCopy} (hc : c.inEpoch o = true) :
    (x.setOpen o c).snapshot o = x.snapshot o := by
  obtain ⟨hnew, hold⟩ := x.setOpen_views hc
  conv_lhs => unfold LodeSlot.snapshot
  rw [hnew, if_pos hc, hold]

/-! ### Slots of the state -/

@[simp] theorem State.slot_setSlot_same (s : State) (i : Nat) (x : LodeSlot) : (s.setSlot i x).slot i = x := Table.get_set_same _ _ _ _

theorem State.slot_setSlot_other (s : State) {i k : Nat} (x : LodeSlot) (h : k ≠ i) : (s.setSlot i x).slot k = s.slot k :=
  Table.get_set_other _ _ _ _ h

@[simp] theorem State.setSlot_reg (s : State) (i : Nat) (x : LodeSlot) (a : Nat) : (s.setSlot i x).reg a = s.reg a := rfl

@[simp] theorem State.setSlot_openEpoch (s : State) (i : Nat) (x : LodeSlot) : (s.setSlot i x).openEpoch = s.openEpoch := rfl

theorem State.slot_of_slots {s t : State} (h : t.lode.slots = s.lode.slots) (i : Nat) : t.slot i = s.slot i := by
  unfold State.slot
  rw [h]

theorem State.openEpoch_of_copies {s t : State} (h : t.copies = s.copies) : t.openEpoch = s.openEpoch := congrArg Prod.snd h

theorem State.slot_of_copies {s t : State} (h : t.copies = s.copies) (i : Nat) : t.slot i = s.slot i :=
  State.slot_of_slots (congrArg Prod.fst h) i

/-! ### Storing a write (R92) -/

/-- The copy of the open epoch that a write stamped `t` changes: the newest one, or the other one taken over with its TAG and flags. -/
def State.openCopy (s : State) (x : LodeSlot) (t : Nat) : LodeCopy :=
  if (x.newest s.openEpoch).inEpoch s.openEpoch then x.newest s.openEpoch
  else { x.newest s.openEpoch with tag := s.openEpoch % 2 ^ 32, late := false, older := false, frz := s.openFrz x t }

/-- The copy that a write stamped `t` makes of the copy it changes, with SEQ, LATE and FRZ. -/
def LodeCopy.store (c : LodeCopy) (w : LodeWrite) (t : Nat) (v : Word) (q seq : Nat) (late frz : Bool) : LodeCopy :=
  { c with value := v, ptime := t, source := w.source, quality := q, seq := seq, late := late, frz := frz }

/-- The copy that a discarded write makes of the copy it changes. -/
def LodeCopy.markOlder (c : LodeCopy) (frz : Bool) : LodeCopy := { c with older := true, frz := c.frz || frz }

/-- A copy whose force has ended. -/
def LodeCopy.setFrz (c : LodeCopy) (frz : Bool) : LodeCopy := { c with frz := frz }

theorem LodeCopy.inEpoch_of_tag {c d : LodeCopy} (h : d.tag = c.tag) (o : Nat) : d.inEpoch o = c.inEpoch o := by
  unfold LodeCopy.inEpoch
  rw [h]

theorem LodeCopy.store_inEpoch (c : LodeCopy) (w : LodeWrite) (t : Nat) (v : Word) (q seq : Nat) (late frz : Bool) (o : Nat) :
    (c.store w t v q seq late frz).inEpoch o = c.inEpoch o := LodeCopy.inEpoch_of_tag rfl o

theorem LodeCopy.markOlder_inEpoch (c : LodeCopy) (frz : Bool) (o : Nat) : (c.markOlder frz).inEpoch o = c.inEpoch o :=
  LodeCopy.inEpoch_of_tag rfl o

theorem LodeCopy.setFrz_inEpoch (c : LodeCopy) (frz : Bool) (o : Nat) : (c.setFrz frz).inEpoch o = c.inEpoch o :=
  LodeCopy.inEpoch_of_tag rfl o

/-- Is a write stamped `t` LATE (R92)? -/
def State.isLate (s : State) (t : Nat) : Bool := decide (t < s.fld F.LOD_OPEN_B.BOUNDARY)

/-- The copy that a write with a later stamp leaves. -/
def State.storedCopy (s : State) (w : LodeWrite) (t : Nat) (v : Word) (q : Nat) : LodeCopy :=
  (s.openCopy (s.slot w.slot) t).store w t v q ((((s.slot w.slot).newest s.openEpoch).seq + 1) % 0x10000) (s.isLate t)
    (s.openFrz (s.slot w.slot) t)

/-- The copy that a write with an earlier stamp leaves: a force shows in FRZ all the same. -/
def State.olderCopy (s : State) (w : LodeWrite) (t : Nat) : LodeCopy :=
  (s.openCopy (s.slot w.slot) t).markOlder (s.openFrz (s.slot w.slot) t && w.path = .force)

/-- A LATE write is counted, in its register and as an upset. -/
def State.noteLate (s : State) (late : Bool) : State :=
  if late then
    let u := s.count F.LOD_COUNTS.LATE 1
    { u with lode := { u.lode with upsets := u.lode.upsets + 1 } } else s

theorem State.openCopy_inEpoch (s : State) (x : LodeSlot) (t : Nat) : (s.openCopy x t).inEpoch s.openEpoch = true := by
  unfold State.openCopy
  split
  · assumption
  · simp [LodeCopy.inEpoch]

theorem State.storedCopy_inEpoch (s : State) (w : LodeWrite) (t : Nat) (v : Word) (q : Nat) :
    (s.storedCopy w t v q).inEpoch s.openEpoch = true := by
  rw [State.storedCopy, LodeCopy.store_inEpoch]
  exact s.openCopy_inEpoch _ t

theorem State.olderCopy_inEpoch (s : State) (w : LodeWrite) (t : Nat) : (s.olderCopy w t).inEpoch s.openEpoch = true := by
  rw [State.olderCopy, LodeCopy.markOlder_inEpoch]
  exact s.openCopy_inEpoch _ t

/-! The model's own form of the two: a copy is `taken` over where the newest is not of the open epoch. -/

theorem State.openCopy_of_taken {s : State} {x : LodeSlot} {t : Nat} {taken : Bool}
    (h : taken = !((x.newest s.openEpoch).inEpoch s.openEpoch)) :
    (if taken then { x.newest s.openEpoch with tag := s.openEpoch % 2 ^ 32, late := false, older := false, frz := s.openFrz x t }
      else x.newest s.openEpoch) = s.openCopy x t := by
  unfold State.openCopy
  generalize (x.newest s.openEpoch).inEpoch s.openEpoch = e at *
  subst h
  cases e <;> simp

theorem LodeSlot.setOpen_of_taken {x : LodeSlot} {o : Nat} {taken : Bool} (h : taken = !((x.newest o).inEpoch o)) (c : LodeCopy) :
    (if taken then x.setOldest o c else x.setNewest o c) = x.setOpen o c := by
  unfold LodeSlot.setOpen
  generalize (x.newest o).inEpoch o = e at *
  subst h
  cases e <;> simp

theorem stampBefore_ne {a sa b sb : Nat} (h : stampBefore a sa b sb = true) : ¬(a = b ∧ sa = sb) := by
  simp only [stampBefore, Bool.or_eq_true, Bool.and_eq_true, decide_eq_true_eq] at h
  omega

/-- The newest copy's own stamp: nothing changes. -/
theorem State.storeCopy_same {s : State} {w : LodeWrite} {t : Nat} (v : Word) (q : Nat)
    (ht : t = ((s.slot w.slot).newest s.openEpoch).ptime) (hs : w.source = ((s.slot w.slot).newest s.openEpoch).source) :
    s.storeCopy w t v q = (s, none) := by
  unfold State.storeCopy
  dsimp only
  rw [if_pos (by simp [← ht, ← hs])]

/-- An earlier stamp: OLDER is set in the open epoch's copy and counted. -/
theorem State.storeCopy_older {s : State} {w : LodeWrite} {t : Nat} (v : Word) (q : Nat)
    (hb : stampBefore t w.source ((s.slot w.slot).newest s.openEpoch).ptime ((s.slot w.slot).newest s.openEpoch).source = true) :
    s.storeCopy w t v q
      = ((s.setSlot w.slot ((s.slot w.slot).setOpen s.openEpoch (s.olderCopy w t))).count F.LOD_COUNTS.OLDER 1, none) := by
  have hne := stampBefore_ne hb
  unfold State.storeCopy State.olderCopy LodeCopy.markOlder
  dsimp only
  rw [if_neg (by simpa using hne), if_pos hb, LodeSlot.setOpen_of_taken rfl, State.openCopy_of_taken rfl]

/-- A later stamp: the write is stored, and a slot with EVT notifies. -/
theorem State.storeCopy_later {s : State} {w : LodeWrite} {t : Nat} (v : Word) (q : Nat)
    (hb : stampBefore t w.source ((s.slot w.slot).newest s.openEpoch).ptime ((s.slot w.slot).newest s.openEpoch).source = false)
    (hne : ¬(t = ((s.slot w.slot).newest s.openEpoch).ptime ∧ w.source = ((s.slot w.slot).newest s.openEpoch).source)) :
    s.storeCopy w t v q
      = ((s.setSlot w.slot ((s.slot w.slot).setOpen s.openEpoch (s.storedCopy w t v q))).noteLate (s.isLate t),
        if (s.slot w.slot).evt then some (t, w.source) else none) := by
  unfold State.storeCopy State.storedCopy LodeCopy.store State.noteLate State.isLate
  dsimp only
  rw [if_neg (by simpa using hne), if_neg (by simp [hb]), LodeSlot.setOpen_of_taken rfl, State.openCopy_of_taken rfl]

theorem State.noteLate_regs (s : State) (late : Bool) :
    (s.noteLate late).regs = if late then (s.count F.LOD_COUNTS.LATE 1).regs else s.regs := by
  unfold State.noteLate
  split <;> rfl

theorem State.noteLate_reg (s : State) (late : Bool) {a : Nat} (h : a ≠ Adr.LOD_COUNTS) : (s.noteLate late).reg a = s.reg a := by
  have hregs := s.noteLate_regs late
  split at hregs
  · exact (State.reg_of_regs hregs a).trans (s.count_reg_other F.LOD_COUNTS.LATE 1 h)
  · exact State.reg_of_regs hregs a

/-- The slots and everything but the counts stay as they are when a LATE write is counted. -/
theorem State.noteLate_leaves (s : State) (late : Bool) : (s.noteLate late).lode.slots = s.lode.slots
    ∧ (s.noteLate late).lode.inq = s.lode.inq ∧ (s.noteLate late).lode.hold = s.lode.hold
    ∧ (s.noteLate late).mem = s.mem ∧ (s.noteLate late).hewers = s.hewers ∧ (s.noteLate late).drt = s.drt := by
  have hslots := congrArg LodeState.slots (s.count_lode F.LOD_COUNTS.LATE 1)
  have hinq := congrArg LodeState.inq (s.count_lode F.LOD_COUNTS.LATE 1)
  have hhold := congrArg LodeState.hold (s.count_lode F.LOD_COUNTS.LATE 1)
  have hm := s.count_mem F.LOD_COUNTS.LATE 1
  have hh := s.count_hewers F.LOD_COUNTS.LATE 1
  have hd := s.count_drt F.LOD_COUNTS.LATE 1
  unfold State.noteLate
  generalize s.count F.LOD_COUNTS.LATE 1 = u at *
  split
  · exact ⟨hslots, hinq, hhold, hm, hh, hd⟩
  · exact ⟨rfl, rfl, rfl, rfl, rfl, rfl⟩

theorem State.noteLate_copies (s : State) (late : Bool) : (s.noteLate late).copies = s.copies :=
  State.copies_of (s.noteLate_leaves late).1 (s.noteLate_reg late (by decide))

theorem State.count_copies (s : State) {f : IoField} (n : Nat) (h : Adr.LOD_EPOCH ≠ f.addr) : (s.count f n).copies = s.copies :=
  s.setFld_copies _ h

/-! ### Snapshots (R100) -/

/-- The open epoch and the snapshot view of every slot. -/
def State.snapshots (s : State) : Nat × (Nat → LodeCopy) := (s.openEpoch, fun i => (s.slot i).snapshot s.openEpoch)

theorem State.snapshots_of_copies {s t : State} (h : t.copies = s.copies) : t.snapshots = s.snapshots := by
  unfold State.snapshots
  rw [State.openEpoch_of_copies h]
  exact congrArg _ (funext (fun i => by rw [State.slot_of_copies h]))

theorem State.setSlot_snapshots (s : State) {i : Nat} {x : LodeSlot} (h : x.snapshot s.openEpoch = (s.slot i).snapshot s.openEpoch) :
    (s.setSlot i x).snapshots = s.snapshots := by
  refine congrArg (Prod.mk s.openEpoch) (funext (fun k => ?_))
  by_cases hk : k = i
  · subst hk
    rw [State.slot_setSlot_same]
    exact h
  · rw [State.slot_setSlot_other _ _ hk]
    rfl

theorem State.setOpen_snapshots (s : State) (i : Nat) {c : LodeCopy} (hc : c.inEpoch s.openEpoch = true) :
    (s.setSlot i ((s.slot i).setOpen s.openEpoch c)).snapshots = s.snapshots :=
  s.setSlot_snapshots (LodeSlot.snapshot_setOpen _ hc)

/-- What the hold buffer holds is in no view (R92). -/
theorem State.hold_snapshots (s : State) (l : List HoldItem) :
    State.snapshots { s with lode := { s.lode with hold := l } } = s.snapshots := State.snapshots_of_copies (State.copies_of rfl rfl)

theorem State.storeCopy_snapshots (s : State) (w : LodeWrite) (t : Nat) (v : Word) (q : Nat) :
    (s.storeCopy w t v q).1.snapshots = s.snapshots := by
  cases hb : stampBefore t w.source ((s.slot w.slot).newest s.openEpoch).ptime ((s.slot w.slot).newest s.openEpoch).source with
  | true =>
    rw [State.storeCopy_older v q hb]
    exact (State.snapshots_of_copies (State.count_copies _ 1 (by decide))).trans
      (s.setOpen_snapshots w.slot (s.olderCopy_inEpoch w t))
  | false =>
    by_cases hne : t = ((s.slot w.slot).newest s.openEpoch).ptime ∧ w.source = ((s.slot w.slot).newest s.openEpoch).source
    · rw [State.storeCopy_same v q hne.1 hne.2]
    · rw [State.storeCopy_later v q hb hne]
      exact (State.snapshots_of_copies (State.noteLate_copies _ _)).trans
        (s.setOpen_snapshots w.slot (s.storedCopy_inEpoch w t v q))

theorem State.applyWrite_snapshots (s : State) (w : LodeWrite) (t : Nat) : (s.applyWrite w t).1.snapshots = s.snapshots := by
  have hdrop : (s.count F.LOD_COUNTS.DROPPED 1).snapshots = s.snapshots := State.snapshots_of_copies (s.count_copies 1 (by decide))
  unfold State.applyWrite
  simp only
  split
  · exact hdrop
  · split
    · exact hdrop
    · split
      · exact hdrop
      · split
        · exact hdrop
        · split
          · exact s.hold_snapshots _
          · exact s.storeCopy_snapshots _ _ _ _

theorem State.applyForce_snapshots (s : State) (w : LodeWrite) (t : Nat) : (s.applyForce w t).1.snapshots = s.snapshots := by
  unfold State.applyForce
  split
  · exact State.snapshots_of_copies (s.count_copies 1 (by decide))
  · exact (State.applyWrite_snapshots _ _ _).trans (s.setSlot_snapshots rfl)

/-- FRZ of the open epoch's copy goes, unless another force stands (R93, log 41). -/
theorem State.applyClear_open {s : State} {slot : Nat} (tc : Nat)
    (h : ((s.slot slot).newest s.openEpoch).inEpoch s.openEpoch = true) : s.applyClear slot tc
      = s.setSlot slot ((s.slot slot).setOpen s.openEpoch (((s.slot slot).newest s.openEpoch).setFrz
          (((s.slot slot).newest s.openEpoch).frz && (s.slot slot).forcedAt tc))) := by
  unfold State.applyClear LodeSlot.setOpen LodeCopy.setFrz
  dsimp only
  rw [if_pos h, if_pos h]

/-- A slot without a copy of the open epoch shows no FRZ to clear. -/
theorem State.applyClear_older {s : State} {slot : Nat} (tc : Nat)
    (h : ((s.slot slot).newest s.openEpoch).inEpoch s.openEpoch = false) : s.applyClear slot tc = s := by
  unfold State.applyClear
  dsimp only
  rw [if_neg (by simp [h])]

theorem State.applyClear_snapshots (s : State) (slot tc : Nat) : (s.applyClear slot tc).snapshots = s.snapshots := by
  cases he : ((s.slot slot).newest s.openEpoch).inEpoch s.openEpoch with
  | true =>
    rw [State.applyClear_open tc he]
    exact s.setOpen_snapshots slot (by rw [LodeCopy.setFrz_inEpoch, he])
  | false => rw [State.applyClear_older tc he]

theorem State.applyConfig_snapshots (s : State) (slot data : Nat) : (s.applyConfig slot data).snapshots = s.snapshots := by
  unfold State.applyConfig
  split
  · rfl
  · exact s.setSlot_snapshots rfl

/-- A write with a stamp is judged with it. -/
theorem State.applyItem_stamped {s : State} {w : LodeWrite} {t : Nat} (h : w.time = some t) : s.applyItem (.write w)
    = if w.path = .force then s.applyForce w (s.forceTime t) else s.applyWrite w t := by
  simp only [State.applyItem, h]

/-- A write without a stamp takes the counter's at acceptance (R88). -/
theorem State.applyItem_unstamped {s : State} {w : LodeWrite} (h : w.time = none) : s.applyItem (.write w)
    = if w.path = .force then (s.stamp (w.source % 0x1000)).2.applyForce w (s.forceTime (s.stamp (w.source % 0x1000)).1)
      else (s.stamp (w.source % 0x1000)).2.applyWrite w (s.stamp (w.source % 0x1000)).1 := by
  simp only [State.applyItem, h]

theorem State.stamp_copies (s : State) (loc : Nat) : (s.stamp loc).2.copies = s.copies := State.copies_of rfl rfl

theorem State.clearForce_snapshots (s : State) (slot t : Nat) :
    (s.setSlot slot ((s.slot slot).clearForce t)).snapshots = s.snapshots := s.setSlot_snapshots rfl

theorem State.applyItem_snapshots (s : State) (i : HoldItem) : (s.applyItem i).1.snapshots = s.snapshots := by
  cases i with
  | write w =>
    cases ht : w.time with
    | none =>
      have hstamp := State.snapshots_of_copies (s.stamp_copies (w.source % 0x1000))
      rw [State.applyItem_unstamped ht]
      split
      · exact (State.applyForce_snapshots _ _ _).trans hstamp
      · exact (State.applyWrite_snapshots _ _ _).trans hstamp
    | some t =>
      rw [State.applyItem_stamped ht]
      split
      · exact s.applyForce_snapshots _ _
      · exact s.applyWrite_snapshots _ _
  | clear slot tc =>
    rw [State.applyItem]
    dsimp only
    split
    · exact (State.hold_snapshots _ _).trans (s.clearForce_snapshots _ _)
    · exact (State.applyClear_snapshots _ _ _).trans (s.clearForce_snapshots _ _)
  | config slot d =>
    rw [State.applyItem]
    split
    · exact s.applyConfig_snapshots _ _
    · exact s.hold_snapshots _

theorem State.lodeApply_snapshots (s : State) (i : HoldItem) : (s.lodeApply i).snapshots = s.snapshots :=
  (State.snapshots_of_copies (State.notifyAll_copies _ _)).trans (s.applyItem_snapshots i)

theorem State.markStall_snapshots (s : State) : s.markStall.snapshots = s.snapshots := State.snapshots_of_copies s.markStall_copies

theorem State.lodeSend_snapshots (s : State) (i : HoldItem) : (s.lodeSend i).snapshots = s.snapshots := by
  unfold State.lodeSend
  split
  · exact (State.markStall_snapshots _).trans (s.lodeApply_snapshots i)
  · exact s.markStall_snapshots

/-! ### The commands, and the statement -/

/-- The waiting writes that stay when the oldest is taken. -/
def State.inqTo (s : State) (rest : List HoldItem) : State := { s with lode := { s.lode with inq := rest } }

theorem State.inqTo_copies (s : State) (rest : List HoldItem) : (s.inqTo rest).copies = s.copies := State.copies_of rfl rfl

theorem lodeWriteApply_none {s : State} (h : s.lode.inq = []) : exec .lodeWriteApply s = .next s := by
  show execLodeWriteApply s = _
  rw [execLodeWriteApply, h]
  rfl

theorem lodeWriteApply_oldest {s : State} {i : HoldItem} {rest : List HoldItem} (h : s.lode.inq = i :: rest) : exec .lodeWriteApply s
    = .next (if s.lodeAccepts then ((s.inqTo rest).lodeApply i).markStall else s.markStall) := by
  show execLodeWriteApply s = _
  rw [execLodeWriteApply, h]
  rfl

theorem softwareWrite_eq (loc : BitVec 12) (v : Word32) (s : State) : exec (.softwareWrite loc v) s
    = .next (if s.takesIo Adr.LOD_SWR_CTL then s.swrCtlWrite loc.toNat v.toNat else s) := rfl

/-- The write of LOD_FRC_VALUE that SET makes (R93). -/
def State.forceWrite (s : State) (loc : BitVec 12) : LodeWrite :=
  { path := .force, slot := s.fld F.LOD_FRC_INDEX.SLOT, value := s.reg Adr.LOD_FRC_VALUE, kind := 0, quality := qForced
    time := some (s.fld F.LOD_FRC_TIME.TIME), source := s.source loc.toNat, poison := false }

theorem forceSet_eq (loc : BitVec 12) (s : State) : exec (.forceSet loc) s
    = .next (if s.takesIo Adr.LOD_FRC_CTL then s.lodeSend (.write (s.forceWrite loc)) else s) := rfl

theorem forceClear_eq (loc : BitVec 12) (s : State) : exec (.forceClear loc) s = .next (if s.takesIo Adr.LOD_FRC_CTL
    then s.lodeSend (.clear (s.fld F.LOD_FRC_INDEX.SLOT) (s.fld F.LOD_FRC_TIME.TIME)) else s) := rfl

theorem lodCfgDataWrite_eq (v : Word32) (s : State) : exec (.lodCfgDataWrite v) s
    = .next (if s.takesIo Adr.LOD_CFG_DATA then s.cfgDataWrite v.toNat else s) := rfl

theorem State.snapshots_ite {s u : State} {p : Bool} (h : u.snapshots = s.snapshots) :
    (if p then u else s).snapshots = s.snapshots := by
  split
  · exact h
  · rfl

theorem lodeWriteApply_snapshots (s : State) : ∃ t, exec .lodeWriteApply s = .next t ∧ t.snapshots = s.snapshots := by
  cases h : s.lode.inq with
  | nil => exact ⟨s, lodeWriteApply_none h, rfl⟩
  | cons i rest =>
    refine ⟨_, lodeWriteApply_oldest h, ?_⟩
    split
    · exact ((State.markStall_snapshots _).trans (State.lodeApply_snapshots _ _)).trans
        (State.snapshots_of_copies (s.inqTo_copies rest))
    · exact s.markStall_snapshots

theorem State.swrCtlWrite_snapshots (s : State) (loc v : Nat) : (s.swrCtlWrite loc v).snapshots = s.snapshots := by
  have hset : ((s.setFld F.LOD_SWR_CTL.QUALITY (bitsOf v 31 16)).setFld F.LOD_SWR_CTL.KIND (bitsOf v 7 4)).snapshots = s.snapshots :=
    State.snapshots_of_copies ((State.setFld_copies _ _ (by decide)).trans (s.setFld_copies _ (by decide)))
  unfold State.swrCtlWrite
  simp only
  split
  · exact (State.lodeSend_snapshots _ _).trans hset
  · exact hset

theorem State.cfgDataWrite_snapshots (s : State) (v : Nat) : (s.cfgDataWrite v).snapshots = s.snapshots := by
  have hsent : (if 8 ≤ bitsOf v 7 4 then s else s.lodeSend (.config (s.fld F.LOD_CFG_INDEX.SLOT) v)).snapshots = s.snapshots := by
    split
    · rfl
    · exact s.lodeSend_snapshots _
  unfold State.cfgDataWrite
  simp only
  split
  · exact (State.snapshots_of_copies (State.setFld_copies _ _ (by decide))).trans hsent
  · exact hsent

/-- Settles O35: every item that the lode applies writes the open epoch's copy or no copy, and releases write none. -/
theorem snapshotStaysFixed : Obligations.SnapshotStaysFixed := by
  intro s t c loc v hc hexec
  have hkept : ∃ u, exec c s = .next u ∧ u.snapshots = s.snapshots := by
    simp only [List.mem_cons, List.not_mem_nil, or_false] at hc
    rcases hc with rfl | rfl | rfl | rfl | rfl
    · exact lodeWriteApply_snapshots s
    · exact ⟨_, softwareWrite_eq loc v s, State.snapshots_ite (s.swrCtlWrite_snapshots _ _)⟩
    · exact ⟨_, forceSet_eq loc s, State.snapshots_ite (s.lodeSend_snapshots _)⟩
    · exact ⟨_, forceClear_eq loc s, State.snapshots_ite (s.lodeSend_snapshots _)⟩
    · exact ⟨_, lodCfgDataWrite_eq v s, State.snapshots_ite (s.cfgDataWrite_snapshots _)⟩
  obtain ⟨u, hu, hsnap⟩ := hkept
  obtain rfl : u = t := Host.Outcome.next.inj (hu.symm.trans hexec)
  exact ⟨congrArg Prod.fst hsnap, congrFun (congrArg Prod.snd hsnap)⟩

end Sys2Proof.Machine

/-!
PROOFS. The oldest write at the lode (R89 to R92, R102): an item that notifies nobody is applied with no further effect, what a write
does in each of its cases, and the settled statement.
-/
namespace Sys2Proof.Machine

/-! ### Acceptance (R102, R124) -/

theorem State.lodeAccepts_parts {s : State} (h : s.lodeAccepts = true) : s.pwr.pllLocked = true ∧ s.domainOn 2 = true
    ∧ s.flag F.LOD_STATUS.INIT_DONE = true ∧ s.holdFull = false := by
  simpa [State.lodeAccepts, and_assoc] using h

theorem State.holdFull_of_hold {s t : State} (h : t.lode.hold = s.lode.hold) : t.holdFull = s.holdFull := by
  unfold State.holdFull
  rw [h]

theorem State.markStall_of_room {s : State} (h : s.holdFull = false) : s.markStall = s := by
  unfold State.markStall
  rw [if_neg (by simp [h])]

theorem State.markStall_leaves (s : State) : s.markStall.lode.slots = s.lode.slots ∧ s.markStall.lode.inq = s.lode.inq
    ∧ s.markStall.lode.hold = s.lode.hold := by
  unfold State.markStall
  split
  · exact ⟨rfl, rfl, rfl⟩
  · exact ⟨rfl, rfl, rfl⟩

/-- An item that raises no notification releases no task. -/
theorem State.lodeApply_quiet {s y : State} {i : HoldItem} (h : s.applyItem i = (y, none)) : s.lodeApply i = y := by
  unfold State.lodeApply State.lodeMake
  rw [h]
  rfl

theorem lodeWriteApply_refused {s : State} {i : HoldItem} {rest : List HoldItem} (hq : s.lode.inq = i :: rest)
    (ha : s.lodeAccepts = false) : exec .lodeWriteApply s = .next s.markStall := by
  rw [lodeWriteApply_oldest hq, if_neg (by simp [ha])]

theorem lodeWriteApply_taken {s y : State} {i : HoldItem} {rest : List HoldItem} (hq : s.lode.inq = i :: rest)
    (ha : s.lodeAccepts = true) (h : (s.inqTo rest).applyItem i = (y, none)) : exec .lodeWriteApply s = .next y.markStall := by
  rw [lodeWriteApply_oldest hq, if_pos ha, State.lodeApply_quiet h]

/-- Where nothing is put into the hold buffer, no stall follows. -/
theorem lodeWriteApply_quiet {s y : State} {i : HoldItem} {rest : List HoldItem} (hq : s.lode.inq = i :: rest)
    (ha : s.lodeAccepts = true) (h : (s.inqTo rest).applyItem i = (y, none)) (hh : y.lode.hold = s.lode.hold) :
    exec .lodeWriteApply s = .next y := by
  obtain ⟨-, -, -, hroom⟩ := State.lodeAccepts_parts ha
  rw [lodeWriteApply_taken hq ha h, State.markStall_of_room ((State.holdFull_of_hold hh).trans hroom)]

/-! ### A write, case by case (R89 to R92) -/

/-- R89: a write that the slot, the direction, a force, or its quality or kind forbids is dropped. -/
theorem State.applyWrite_dropped {s : State} {w : LodeWrite} {t : Nat} (hp : w.path ≠ .force)
    (h : slotCount ≤ w.slot ∨ pathMayWrite w.path (s.slot w.slot).dirOut = false ∨ (s.slot w.slot).forcedAt t = true
      ∨ writeValue (s.slot w.slot) w = none) : s.applyWrite w t = (s.count F.LOD_COUNTS.DROPPED 1, none) := by
  unfold State.applyWrite
  dsimp only
  by_cases hslot : slotCount ≤ w.slot
  · rw [if_pos hslot]
  · rw [if_neg hslot]
    rcases h.resolve_left hslot with h | h | h
    · rw [if_pos (by simp [h])]
    · rw [if_pos (show (w.path != .force && (s.slot w.slot).forcedAt t) = true by simp [hp, h]), ite_self]
    · rw [h, ite_self, ite_self]

/-- R89 lets the write `w` stamped `t` pass, with value `v` and quality `q`. -/
structure State.Passes (s : State) (w : LodeWrite) (t : Nat) (v : Word) (q : Nat) : Prop where
  inRange : w.slot < slotCount
  path : pathMayWrite w.path (s.slot w.slot).dirOut = true
  unforced : w.path = .force ∨ (s.slot w.slot).forcedAt t = false
  value : writeValue (s.slot w.slot) w = some (v, q)

/-- An item more at the end of the hold buffer. -/
def State.holdBack (s : State) (i : HoldItem) : State := { s with lode := { s.lode with hold := s.lode.hold ++ [i] } }

/-- A write that passes waits for the close at or past a pending boundary, and else is stored. -/
theorem State.Passes.applyWrite {s : State} {w : LodeWrite} {t : Nat} {v : Word} {q : Nat} (h : s.Passes w t v q) : s.applyWrite w t
    = if s.beyondPending t then (s.holdBack (.write { w with time := some t, frame := none }), none) else s.storeCopy w t v q := by
  obtain ⟨hslot, hpath, hforce, hv⟩ := h
  unfold State.applyWrite State.holdBack
  dsimp only
  rw [if_neg (Nat.not_le.mpr hslot), if_neg (by simp [hpath]), if_neg (by rcases hforce with h | h <;> simp [h]), hv]

theorem State.Passes.held {s : State} {w : LodeWrite} {t : Nat} {v : Word} {q : Nat} (h : s.Passes w t v q)
    (hb : s.beyondPending t = true) : s.applyWrite w t = (s.holdBack (.write { w with time := some t, frame := none }), none) := by
  rw [h.applyWrite, if_pos hb]

theorem State.Passes.judged {s : State} {w : LodeWrite} {t : Nat} {v : Word} {q : Nat} (h : s.Passes w t v q)
    (hb : s.beyondPending t = false) : s.applyWrite w t = s.storeCopy w t v q := by
  rw [h.applyWrite, if_neg (by simp [hb])]

/-- A stored write of a slot without EVT. -/
theorem State.Passes.stored {s : State} {w : LodeWrite} {t : Nat} {v : Word} {q : Nat} (h : s.Passes w t v q)
    (hb : s.beyondPending t = false)
    (hlater : stampBefore t w.source ((s.slot w.slot).newest s.openEpoch).ptime ((s.slot w.slot).newest s.openEpoch).source = false)
    (hne : ¬(t = ((s.slot w.slot).newest s.openEpoch).ptime ∧ w.source = ((s.slot w.slot).newest s.openEpoch).source))
    (hevt : (s.slot w.slot).evt = false) : s.applyWrite w t
      = ((s.setSlot w.slot ((s.slot w.slot).setOpen s.openEpoch (s.storedCopy w t v q))).noteLate (s.isLate t), none) := by
  rw [h.judged hb, State.storeCopy_later v q hlater hne, if_neg (by simp [hevt])]

/-! The copies that a write leaves go by the slot, the open epoch and its boundary. -/

theorem State.openCopy_of {s u : State} (ho : u.openEpoch = s.openEpoch)
    (hb : u.fld F.LOD_OPEN_B.BOUNDARY = s.fld F.LOD_OPEN_B.BOUNDARY) (x : LodeSlot) (t : Nat) : u.openCopy x t = s.openCopy x t := by
  unfold State.openCopy State.openFrz
  rw [ho, hb]

theorem State.storedCopy_of {s u : State} (ho : u.openEpoch = s.openEpoch)
    (hb : u.fld F.LOD_OPEN_B.BOUNDARY = s.fld F.LOD_OPEN_B.BOUNDARY) {w : LodeWrite} (hs : u.slot w.slot = s.slot w.slot)
    (t : Nat) (v : Word) (q : Nat) : u.storedCopy w t v q = s.storedCopy w t v q := by
  unfold State.storedCopy State.isLate State.openFrz
  rw [State.openCopy_of ho hb, ho, hb, hs]

theorem State.olderCopy_of_path {s : State} {w : LodeWrite} (t : Nat) (hp : w.path ≠ .force) :
    s.olderCopy w t = { s.openCopy (s.slot w.slot) t with older := true } := by
  unfold State.olderCopy LodeCopy.markOlder
  simp [hp]

/-! ### What a write of one slot leaves alone -/

/-- `y` is `s` with the waiting writes `rest` and another slot `i`; its counts may differ. -/
def State.OnlySlot (s : State) (i : Nat) (rest : List HoldItem) (y : State) : Prop :=
  (∀ k, k ≠ i → y.slot k = s.slot k) ∧ (∀ a, a ≠ Adr.LOD_COUNTS → y.reg a = s.reg a)
    ∧ y.mem = s.mem ∧ y.hewers = s.hewers ∧ y.drt = s.drt ∧ y.lode.inq = rest ∧ y.lode.hold = s.lode.hold

theorem State.OnlySlot.hold {s y : State} {i : Nat} {rest : List HoldItem} (h : s.OnlySlot i rest y) : y.lode.hold = s.lode.hold := by
  obtain ⟨-, -, -, -, -, -, hhold⟩ := h
  exact hhold

theorem State.onlySlot_setSlot (s : State) (i : Nat) (rest : List HoldItem) (x : LodeSlot) :
    s.OnlySlot i rest ((s.inqTo rest).setSlot i x) :=
  ⟨fun _ hk => State.slot_setSlot_other _ _ hk, fun _ _ => rfl, rfl, rfl, rfl, rfl, rfl⟩

theorem State.OnlySlot.count {s u : State} {i : Nat} {rest : List HoldItem} (h : s.OnlySlot i rest u) {f : IoField}
    (hf : f.addr = Adr.LOD_COUNTS) (n : Nat) : s.OnlySlot i rest (u.count f n) := by
  obtain ⟨hslot, hreg, hmem, hhew, hdrt, hinq, hhold⟩ := h
  refine ⟨fun k hk => ?_, fun a ha => ?_, (u.count_mem f n).trans hmem, (u.count_hewers f n).trans hhew, (u.count_drt f n).trans hdrt,
    (congrArg LodeState.inq (u.count_lode f n)).trans hinq, (congrArg LodeState.hold (u.count_lode f n)).trans hhold⟩
  · rw [State.slot_of_slots (congrArg LodeState.slots (u.count_lode f n)), hslot k hk]
  · rw [u.count_reg_other f n (hf ▸ ha), hreg a ha]

theorem State.OnlySlot.noteLate {s u : State} {i : Nat} {rest : List HoldItem} (h : s.OnlySlot i rest u) (late : Bool) :
    s.OnlySlot i rest (u.noteLate late) := by
  obtain ⟨hslot, hreg, hmem, hhew, hdrt, hinq, hhold⟩ := h
  obtain ⟨lslots, linq, lhold, lmem, lhew, ldrt⟩ := u.noteLate_leaves late
  refine ⟨fun k hk => ?_, fun a ha => ?_, lmem.trans hmem, lhew.trans hhew, ldrt.trans hdrt, linq.trans hinq, lhold.trans hhold⟩
  · rw [State.slot_of_slots lslots, hslot k hk]
  · rw [u.noteLate_reg late ha, hreg a ha]

/-! ### The oldest write, case by case -/

/-- The copies of a slot that has been set for the open epoch. -/
theorem State.views_of_setOpen {s y : State} {i : Nat} {c : LodeCopy} (hc : c.inEpoch s.openEpoch = true)
    (hy : y.slot i = (s.slot i).setOpen s.openEpoch c) : (y.slot i).newest s.openEpoch = c
      ∧ (y.slot i).snapshot s.openEpoch = (s.slot i).snapshot s.openEpoch := by
  rw [hy]
  exact ⟨(s.slot i).newest_setOpen hc, (s.slot i).snapshot_setOpen hc⟩

theorem State.inqTo_openEpoch (s : State) (rest : List HoldItem) : (s.inqTo rest).openEpoch = s.openEpoch := rfl

theorem State.inqTo_slot (s : State) (rest : List HoldItem) (i : Nat) : (s.inqTo rest).slot i = s.slot i := rfl

theorem State.inqTo_fld (s : State) (rest : List HoldItem) (f : IoField) : (s.inqTo rest).fld f = s.fld f := rfl

theorem State.Passes.inqTo {s : State} {w : LodeWrite} {t : Nat} {v : Word} {q : Nat} (h : s.Passes w t v q) (rest : List HoldItem) :
    (s.inqTo rest).Passes w t v q := ⟨h.inRange, h.path, h.unforced, h.value⟩

section
variable {s : State} {w : LodeWrite} {rest : List HoldItem} {t : Nat}

/-- The oldest write, with its stamp, is judged in a state without it in the queue. -/
theorem State.applyItem_oldest (ht : w.time = some t) (hp : w.path ≠ .force) :
    (s.inqTo rest).applyItem (.write w) = (s.inqTo rest).applyWrite w t := by
  rw [State.applyItem_stamped ht, if_neg hp]

variable (hq : s.lode.inq = .write w :: rest) (ht : w.time = some t) (hp : w.path ≠ .force) (ha : s.lodeAccepts = true)
include hq ht hp ha

theorem lodeWriteApply_dropped (h : slotCount ≤ w.slot ∨ pathMayWrite w.path (s.slot w.slot).dirOut = false
    ∨ (s.slot w.slot).forcedAt t = true ∨ writeValue (s.slot w.slot) w = none) :
    exec .lodeWriteApply s = .next ((s.inqTo rest).count F.LOD_COUNTS.DROPPED 1) :=
  lodeWriteApply_quiet hq ha ((State.applyItem_oldest ht hp).trans (State.applyWrite_dropped (s := s.inqTo rest) hp h))
    (by rw [State.count_lode]; rfl)

variable {v : Word} {q : Nat} (h : s.Passes w t v q)
include h

theorem lodeWriteApply_held (hb : s.beyondPending t = true) : ∃ y : State, exec .lodeWriteApply s = .next y ∧ y.lode.inq = rest
    ∧ y.lode.hold = s.lode.hold ++ [.write { w with time := some t, frame := none }] ∧ y.lode.slots = s.lode.slots := by
  obtain ⟨hslots, hinq, hhold⟩ := State.markStall_leaves ((s.inqTo rest).holdBack (.write { w with time := some t, frame := none }))
  exact ⟨_, lodeWriteApply_taken hq ha ((State.applyItem_oldest ht hp).trans ((h.inqTo rest).held hb)), hinq, hhold, hslots⟩

variable (hb : s.beyondPending t = false)
include hb

theorem lodeWriteApply_same (hpt : t = ((s.slot w.slot).newest s.openEpoch).ptime)
    (hsrc : w.source = ((s.slot w.slot).newest s.openEpoch).source) : exec .lodeWriteApply s = .next (s.inqTo rest) :=
  lodeWriteApply_quiet hq ha (((State.applyItem_oldest ht hp).trans ((h.inqTo rest).judged hb)).trans
    (State.storeCopy_same v q (by rw [s.inqTo_slot, s.inqTo_openEpoch]; exact hpt)
      (by rw [s.inqTo_slot, s.inqTo_openEpoch]; exact hsrc))) rfl

theorem lodeWriteApply_older
    (hold : stampBefore t w.source ((s.slot w.slot).newest s.openEpoch).ptime ((s.slot w.slot).newest s.openEpoch).source = true) :
    ∃ y, exec .lodeWriteApply s = .next y ∧ s.OnlySlot w.slot rest y
      ∧ y.slot w.slot = (s.slot w.slot).setOpen s.openEpoch (s.olderCopy w t)
      ∧ y.fld F.LOD_COUNTS.OLDER = min (s.fld F.LOD_COUNTS.OLDER + 1) 0xFFFF := by
  have hcopy : (s.inqTo rest).olderCopy w t = s.olderCopy w t := by
    unfold State.olderCopy State.openFrz
    rw [State.openCopy_of (s.inqTo_openEpoch rest) (s.inqTo_fld rest _), s.inqTo_slot, s.inqTo_fld]
  have hstore := State.storeCopy_older (s := s.inqTo rest) (w := w) (t := t) v q
    (by rw [s.inqTo_slot, s.inqTo_openEpoch]; exact hold)
  rw [hcopy, s.inqTo_slot, s.inqTo_openEpoch] at hstore
  have honly := (s.onlySlot_setSlot w.slot rest ((s.slot w.slot).setOpen s.openEpoch (s.olderCopy w t))).count
    (f := F.LOD_COUNTS.OLDER) rfl 1
  have hslot := State.slot_of_slots (congrArg LodeState.slots (State.count_lode ((s.inqTo rest).setSlot w.slot
    ((s.slot w.slot).setOpen s.openEpoch (s.olderCopy w t))) F.LOD_COUNTS.OLDER 1)) w.slot
  refine ⟨_, lodeWriteApply_quiet hq ha (((State.applyItem_oldest ht hp).trans ((h.inqTo rest).judged hb)).trans hstore)
    honly.hold, honly, hslot.trans (State.slot_setSlot_same _ _ _), ?_⟩
  rw [State.fld_count _ _ _ IoField.fits, State.fld_of_reg (f := F.LOD_COUNTS.OLDER) (State.setSlot_reg _ _ _ _), s.inqTo_fld]
  exact congrArg (min _) (by decide)

theorem lodeWriteApply_stored
    (hlater : stampBefore t w.source ((s.slot w.slot).newest s.openEpoch).ptime ((s.slot w.slot).newest s.openEpoch).source = false)
    (hne : t ≠ ((s.slot w.slot).newest s.openEpoch).ptime ∨ w.source ≠ ((s.slot w.slot).newest s.openEpoch).source)
    (hevt : (s.slot w.slot).evt = false) : ∃ y, exec .lodeWriteApply s = .next y ∧ s.OnlySlot w.slot rest y
      ∧ y.slot w.slot = (s.slot w.slot).setOpen s.openEpoch (s.storedCopy w t v q) := by
  have hstore := (h.inqTo rest).stored hb (by rw [s.inqTo_slot, s.inqTo_openEpoch]; exact hlater)
    (by rw [s.inqTo_slot, s.inqTo_openEpoch]; exact fun hsame => hne.elim (· hsame.1) (· hsame.2)) hevt
  rw [State.storedCopy_of (s.inqTo_openEpoch rest) (s.inqTo_fld rest _) (s.inqTo_slot rest _), s.inqTo_slot, s.inqTo_openEpoch] at hstore
  have honly := (s.onlySlot_setSlot w.slot rest ((s.slot w.slot).setOpen s.openEpoch (s.storedCopy w t v q))).noteLate
    ((s.inqTo rest).isLate t)
  have hslot := State.slot_of_slots (State.noteLate_leaves ((s.inqTo rest).setSlot w.slot
    ((s.slot w.slot).setOpen s.openEpoch (s.storedCopy w t v q))) ((s.inqTo rest).isLate t)).1 w.slot
  exact ⟨_, lodeWriteApply_quiet hq ha ((State.applyItem_oldest ht hp).trans hstore) honly.hold, honly,
    hslot.trans (State.slot_setSlot_same _ _ _)⟩

end

/-! ### The statement -/

/-- Settles O34: the chain of R89, R91 and R92, each case by its lemma, and the views of a slot whose open copy was set. -/
theorem lodeAppliesWrites : Obligations.LodeAppliesWrites := by
  intro s w rest t hq ht hp u x o new base others
  refine ⟨fun ha => ?_, fun ha => ⟨lodeWriteApply_dropped hq ht hp ha, fun v q hslot hpath hforce hv => ?_⟩⟩
  · obtain ⟨hslots, hinq, -⟩ := s.markStall_leaves
    exact ⟨_, lodeWriteApply_refused hq ha, hinq, hslots⟩
  · have h : s.Passes w t v q := ⟨hslot, hpath, .inr hforce, hv⟩
    have hbase : base = s.openCopy (s.slot w.slot) t := by simp only [base, State.openCopy, new, x, o]
    clear_value base
    refine ⟨lodeWriteApply_held hq ht hp ha h, fun hb => ⟨lodeWriteApply_same hq ht hp ha h hb, fun hold => ?_,
      fun hlater hne hevt => ?_⟩⟩
    · obtain ⟨y, hexec, honly, hslot, hcount⟩ := lodeWriteApply_older hq ht hp ha h hb hold
      obtain ⟨hnew, hsnap⟩ := State.views_of_setOpen (s.olderCopy_inEpoch w t) hslot
      rw [State.olderCopy_of_path t hp, ← hbase] at hnew
      exact ⟨y, hexec, honly, hnew, hsnap, hcount⟩
    · obtain ⟨y, hexec, honly, hslot⟩ := lodeWriteApply_stored hq ht hp ha h hb hlater hne hevt
      obtain ⟨hnew, hsnap⟩ := State.views_of_setOpen (s.storedCopy_inEpoch w t v q) hslot
      rw [State.storedCopy, ← hbase, LodeCopy.store] at hnew
      exact ⟨y, hexec, honly, hnew, hsnap⟩

end Sys2Proof.Machine

/-!
PROOFS. Software writes, forces and configuration writes (R88, R93, R94, R126): what SET and CLEAR make of a slot's forces, the write of
each register with nothing before it at the lode, and the settled statement.
-/
namespace Sys2Proof.Machine

/-! ### The registers of the lode's writes (R47, R838) -/

theorem State.takesIo_lode (s : State) {a : Nat} (h : regDomain a = 2) : s.takesIo a = (s.pwr.pllLocked && s.domainOn 2) := by
  unfold State.takesIo
  rw [h]

theorem State.takesIo_of_accepts {s : State} (ha : s.lodeAccepts = true) {a : Nat} (h : regDomain a = 2) : s.takesIo a = true := by
  obtain ⟨hpll, hdom, -, -⟩ := State.lodeAccepts_parts ha
  rw [s.takesIo_lode h, hpll, hdom]
  rfl

theorem State.takesIo_of_stopped {s : State} (hoff : s.pwr.pllLocked = false ∨ s.domainOn 2 = false) {a : Nat} (h : regDomain a = 2) :
    s.takesIo a = false := by
  rw [s.takesIo_lode h]
  rcases hoff with hoff | hoff <;> simp [hoff]

/-- While the clocks or D2 are off, the four writes change nothing. -/
theorem lodeRegisters_stopped {s : State} (hoff : s.pwr.pllLocked = false ∨ s.domainOn 2 = false) {c : Instr}
    {loc : BitVec 12} {v : Word32}
    (hc : c ∈ [Instr.softwareWrite loc v, .forceSet loc, .forceClear loc, .lodCfgDataWrite v]) : exec c s = .next s := by
  have hio {a : Nat} (h : regDomain a = 2) : ¬ s.takesIo a = true := by simp [State.takesIo_of_stopped hoff h]
  simp only [List.mem_cons, List.not_mem_nil, or_false] at hc
  rcases hc with rfl | rfl | rfl | rfl
  · rw [softwareWrite_eq, if_neg (hio (by decide))]
  · rw [forceSet_eq, if_neg (hio (by decide))]
  · rw [forceClear_eq, if_neg (hio (by decide))]
  · rw [lodCfgDataWrite_eq, if_neg (hio (by decide))]

/-! ### An item sent with nothing before it (R95) -/

/-- An item that is neither held nor notified is applied, and no more. -/
theorem State.lodeSend_quiet {s y : State} {i : HoldItem} (ha : s.lodeAccepts = true) (hq : s.lode.inq = [])
    (h : s.applyItem i = (y, none)) (hh : y.lode.hold = s.lode.hold) : s.lodeSend i = y := by
  obtain ⟨-, -, -, hroom⟩ := State.lodeAccepts_parts ha
  unfold State.lodeSend
  rw [if_pos (by simp [ha, hq]), State.lodeApply_quiet h, State.markStall_of_room ((State.holdFull_of_hold hh).trans hroom)]

theorem State.beyondPending_of_open {s : State} (h : s.flag F.LOD_STATUS.CLOSE_PEND = false) (t : Nat) : s.beyondPending t = false := by
  unfold State.beyondPending
  rw [h, Bool.false_and]

theorem stampBefore_of_lt {a b : Nat} (h : b < a) (sa sb : Nat) : stampBefore a sa b sb = false := by
  simp only [stampBefore, Bool.or_eq_false_iff, Bool.and_eq_false_iff, decide_eq_false_iff_not]
  omega

/-- A write of the slot's own kind with a valid quality is stored as it is. -/
theorem writeValue_own_kind {x : LodeSlot} {w : LodeWrite} (hp : w.poison = false) (hk : w.kind = x.kind)
    (hq : w.quality % 256 ∈ [1, 2, 3, 4, 5, 6, 7]) : writeValue x w = some (w.value, w.quality) := by
  have hvalid : ¬ (w.quality % 256 = qNeverWritten ∨ 0x07 < w.quality % 256) := by
    simp only [List.mem_cons, List.not_mem_nil, or_false] at hq
    unfold qNeverWritten
    omega
  simp [writeValue, convertKind, hp, hk, hvalid]

theorem LodeSlot.setOpen_forces (x : LodeSlot) (o : Nat) (c : LodeCopy) : (x.setOpen o c).forces = x.forces := by
  unfold LodeSlot.setOpen LodeSlot.setNewest LodeSlot.setOldest
  split_ifs <;> rfl

theorem LodeCopy.store_holds (c : LodeCopy) (w : LodeWrite) (t : Nat) (v : Word) (q seq : Nat) (late frz : Bool) :
    (c.store w t v q seq late frz).value = v ∧ (c.store w t v q seq late frz).ptime = t
      ∧ (c.store w t v q seq late frz).source = w.source ∧ (c.store w t v q seq late frz).quality = q
      ∧ (c.store w t v q seq late frz).frz = frz := ⟨rfl, rfl, rfl, rfl, rfl⟩

/-- The stored copy holds the write and its stamp. -/
theorem State.storedCopy_holds (s : State) (w : LodeWrite) (t : Nat) (v : Word) (q : Nat) : (s.storedCopy w t v q).value = v
    ∧ (s.storedCopy w t v q).ptime = t ∧ (s.storedCopy w t v q).source = w.source ∧ (s.storedCopy w t v q).quality = q
    ∧ (s.storedCopy w t v q).frz = s.openFrz (s.slot w.slot) t := by
  rw [State.storedCopy]
  exact LodeCopy.store_holds _ w t v q _ _ _

theorem State.setSlot_hold (s : State) (i : Nat) (x : LodeSlot) : (s.setSlot i x).lode.hold = s.lode.hold := rfl

/-- What a stored write of a slot without EVT leaves, where its stamp is later than the newest copy's. -/
theorem State.Passes.stored_views {s : State} {w : LodeWrite} {t : Nat} {v : Word} {q : Nat} (h : s.Passes w t v q)
    (hpend : s.flag F.LOD_STATUS.CLOSE_PEND = false) (hlt : ((s.slot w.slot).newest s.openEpoch).ptime < t)
    (hevt : (s.slot w.slot).evt = false) : ∃ y : State, s.applyWrite w t = (y, none) ∧ y.lode.hold = s.lode.hold
      ∧ (y.slot w.slot).newest y.openEpoch = s.storedCopy w t v q ∧ (y.slot w.slot).forces = (s.slot w.slot).forces
      ∧ ∀ k, k ≠ w.slot → y.slot k = s.slot k := by
  have hstore := h.stored (State.beyondPending_of_open hpend t) (stampBefore_of_lt hlt _ _) (fun hsame => by omega) hevt
  have hcopies := State.noteLate_copies (s.setSlot w.slot ((s.slot w.slot).setOpen s.openEpoch (s.storedCopy w t v q))) (s.isLate t)
  obtain ⟨-, -, hhold, -, -, -⟩ := State.noteLate_leaves
    (s.setSlot w.slot ((s.slot w.slot).setOpen s.openEpoch (s.storedCopy w t v q))) (s.isLate t)
  have hslot := (State.slot_of_copies hcopies w.slot).trans (State.slot_setSlot_same _ _ _)
  refine ⟨_, hstore, hhold.trans (s.setSlot_hold _ _), ?_, ?_,
    fun k hk => (State.slot_of_copies hcopies k).trans (State.slot_setSlot_other _ _ hk)⟩
  · rw [hslot, State.openEpoch_of_copies hcopies, State.setSlot_openEpoch]
    exact LodeSlot.newest_setOpen _ (s.storedCopy_inEpoch w t v q)
  · rw [hslot, LodeSlot.setOpen_forces]

/-! ### SOFTWARE_WRITE (R88) -/

theorem State.lodeAccepts_of {s u : State} (hp : u.pwr = s.pwr) (hl : u.lode = s.lode)
    (hd : u.reg Adr.PWR_DOM_STATE = s.reg Adr.PWR_DOM_STATE) (hs : u.reg Adr.LOD_STATUS = s.reg Adr.LOD_STATUS) :
    u.lodeAccepts = s.lodeAccepts := by
  unfold State.lodeAccepts
  rw [hp, State.domainOn_of_reg hd, State.flag_of_reg (f := F.LOD_STATUS.INIT_DONE) hs,
    State.holdFull_of_hold (congrArg LodeState.hold hl)]

theorem State.stamp_time_of {s u : State} (ht : u.time = s.time) (hp : u.pwr = s.pwr)
    (hr : u.reg Adr.TIM_RATE = s.reg Adr.TIM_RATE) (loc : Nat) : (u.stamp loc).1 = (s.stamp loc).1 := by
  unfold State.stamp State.timeAfter State.rate
  simp only [ht, hp, hr]

theorem State.stamp_reg (s : State) (loc a : Nat) : (s.stamp loc).2.reg a = s.reg a := rfl

theorem State.stamp_lode (s : State) (loc : Nat) : (s.stamp loc).2.lode = s.lode := rfl

theorem State.source_mod (s : State) (loc : BitVec 12) : s.source loc.toNat % 0x1000 = loc.toNat := by
  have := loc.isLt
  unfold State.source
  omega

/-- LOD_SWR_CTL with what was written to it. -/
def State.swrShown (s : State) (v : Nat) : State :=
  (s.setFld F.LOD_SWR_CTL.QUALITY (bitsOf v 31 16)).setFld F.LOD_SWR_CTL.KIND (bitsOf v 7 4)

theorem State.swrShown_reg (s : State) (v : Nat) {a : Nat} (h : a ≠ Adr.LOD_SWR_CTL) : (s.swrShown v).reg a = s.reg a :=
  (State.setFld_reg_other _ F.LOD_SWR_CTL.KIND _ h).trans (State.setFld_reg_other _ F.LOD_SWR_CTL.QUALITY _ h)

theorem State.swrShown_leaves (s : State) (v : Nat) : (s.swrShown v).lode = s.lode ∧ (s.swrShown v).pwr = s.pwr
    ∧ (s.swrShown v).time = s.time :=
  ⟨(State.setFld_lode _ _ _).trans (s.setFld_lode _ _), (State.setFld_pwr _ _ _).trans (s.setFld_pwr _ _),
    (State.setFld_time _ _ _).trans (s.setFld_time _ _)⟩

/-- The write that GO makes: its stamp is the counter at acceptance. -/
def State.goWrite (s : State) (loc : BitVec 12) (v : Nat) : LodeWrite :=
  { path := .software, slot := s.fld F.LOD_SWR_INDEX.SLOT, value := s.reg Adr.LOD_SWR_VALUE, kind := bitsOf v 7 4
    quality := bitsOf v 31 16, time := none, source := s.source loc.toNat, poison := false }

theorem softwareWrite_go {s : State} (ha : s.lodeAccepts = true) (loc : BitVec 12) {v : Word32} (hgo : bitOf v.toNat 0 = true) :
    exec (.softwareWrite loc v) s = .next ((s.swrShown v.toNat).lodeSend (.write (s.goWrite loc v.toNat))) := by
  rw [softwareWrite_eq, if_pos (State.takesIo_of_accepts ha (by decide)), State.swrCtlWrite, if_pos hgo]
  rfl

/-- The state in which the lode judges GO's write: the stamp of the local source is taken. -/
def State.goStamped (s : State) (loc : BitVec 12) (v : Nat) : State := ((s.swrShown v).stamp loc.toNat).2

theorem State.goStamped_reg (s : State) (loc : BitVec 12) (v : Nat) {a : Nat} (h : a ≠ Adr.LOD_SWR_CTL) :
    (s.goStamped loc v).reg a = s.reg a := (State.stamp_reg _ _ a).trans (s.swrShown_reg v h)

theorem State.goStamped_lode (s : State) (loc : BitVec 12) (v : Nat) : (s.goStamped loc v).lode = s.lode :=
  (State.stamp_lode _ _).trans (s.swrShown_leaves v).1

theorem State.goStamped_copies (s : State) (loc : BitVec 12) (v : Nat) : (s.goStamped loc v).copies = s.copies :=
  State.copies_of (congrArg LodeState.slots (s.goStamped_lode loc v)) (s.goStamped_reg loc v (by decide))

theorem State.applyItem_go (s : State) (loc : BitVec 12) (v : Nat) : (s.swrShown v).applyItem (.write (s.goWrite loc v))
    = (s.goStamped loc v).applyWrite (s.goWrite loc v) (s.stamp loc.toNat).1 := by
  obtain ⟨-, hpwr, htime⟩ := s.swrShown_leaves v
  have hstamp := State.stamp_time_of htime hpwr (s.swrShown_reg v (by decide)) loc.toNat
  have hloc : (s.goWrite loc v).source % 0x1000 = loc.toNat := s.source_mod loc
  have hpath : (s.goWrite loc v).path ≠ .force := LodePath.noConfusion
  rw [State.applyItem_unstamped rfl, if_neg hpath, hloc, hstamp, State.goStamped]

/-- What GO's write leaves of its slot: the newest copy is the one stored. -/
theorem softwareWrite_stores {s : State} {loc : BitVec 12} {v : Word32} (ha : s.lodeAccepts = true) (hq : s.lode.inq = [])
    (hpend : s.flag F.LOD_STATUS.CLOSE_PEND = false) {i t : Nat} (hi : i = s.fld F.LOD_SWR_INDEX.SLOT)
    (ht : t = (s.stamp loc.toNat).1) (hslot : i < slotCount) (hevt : (s.slot i).evt = false) (hgo : bitOf v.toNat 0 = true)
    (hkind : bitsOf v.toNat 7 4 = (s.slot i).kind) (hqual : bitsOf v.toNat 23 16 ∈ [1, 2, 3, 4, 5, 6, 7])
    (hforce : (s.slot i).forcedAt t = false) (hlt : ((s.slot i).newest s.openEpoch).ptime < t) :
    ∃ y : State, exec (.softwareWrite loc v) s = .next y
      ∧ (y.slot i).newest y.openEpoch = (s.goStamped loc v.toNat).storedCopy (s.goWrite loc v.toNat) t
          (s.reg Adr.LOD_SWR_VALUE) (bitsOf v.toNat 31 16)
      ∧ ∀ k, k ≠ i → y.slot k = s.slot k := by
  subst hi ht
  have hcopies := s.goStamped_copies loc v.toNat
  have hsame : (s.goStamped loc v.toNat).slot (s.goWrite loc v.toNat).slot = s.slot (s.fld F.LOD_SWR_INDEX.SLOT) :=
    State.slot_of_copies hcopies _
  have hvalid : (s.goWrite loc v.toNat).quality % 256 ∈ [1, 2, 3, 4, 5, 6, 7] := by
    have : bitsOf v.toNat 31 16 % 256 = bitsOf v.toNat 23 16 := by unfold bitsOf; omega
    exact this ▸ hqual
  have hpass : (s.goStamped loc v.toNat).Passes (s.goWrite loc v.toNat) (s.stamp loc.toNat).1 (s.reg Adr.LOD_SWR_VALUE)
      (bitsOf v.toNat 31 16) := by
    refine ⟨hslot, rfl, .inr ?_, ?_⟩
    · rw [hsame, hforce]
    · rw [hsame]
      exact writeValue_own_kind rfl hkind hvalid
  obtain ⟨y, hy, hhold, hnew, -, hothers⟩ := hpass.stored_views
    ((State.flag_of_reg (s.goStamped_reg loc v.toNat (by decide))).trans hpend)
    (by rw [hsame, State.openEpoch_of_copies hcopies]; exact hlt) (by rw [hsame]; exact hevt)
  obtain ⟨hlode, hpwr, -⟩ := s.swrShown_leaves v.toNat
  have haccepts := (State.lodeAccepts_of hpwr hlode (s.swrShown_reg _ (by decide)) (s.swrShown_reg _ (by decide))).trans ha
  exact ⟨y, (softwareWrite_go ha loc hgo).trans
      (congrArg _ (State.lodeSend_quiet haccepts ((congrArg LodeState.inq hlode).trans hq)
        ((s.applyItem_go loc v.toNat).trans hy)
        (hhold.trans (congrArg LodeState.hold ((s.goStamped_lode loc v.toNat).trans hlode.symm))))), hnew,
    fun k hk => (hothers k hk).trans (State.slot_of_copies hcopies k)⟩

/-! ### Forces (R93, R94) -/

theorem LodeSlot.newest_of_copies {x y : LodeSlot} (h0 : y.c0 = x.c0) (h1 : y.c1 = x.c1) (o : Nat) : y.newest o = x.newest o := by
  unfold LodeSlot.newest LodeSlot.newIsZero
  rw [h0, h1]

theorem LodeSlot.setForce_newest (x : LodeSlot) (t o : Nat) : (x.setForce t).newest o = x.newest o :=
  LodeSlot.newest_of_copies rfl rfl o

theorem LodeSlot.clearForce_newest (x : LodeSlot) (t o : Nat) : (x.clearForce t).newest o = x.newest o :=
  LodeSlot.newest_of_copies rfl rfl o

/-- A force that begins by `t` is in force at every later time while it is not cleared. -/
theorem LodeSlot.setForce_forcedAt (x : LodeSlot) {t u : Nat} (h : t ≤ u) : (x.setForce t).forcedAt u = true := by
  simp [LodeSlot.setForce, LodeSlot.forcedAt, h]

theorem State.forceTime_eq (s : State) (t : Nat) : s.forceTime t = max t s.time.now := by
  unfold State.forceTime
  split <;> omega

/-- A cleared force ends at the earlier of its two ends. -/
theorem LodeSlot.clearForce_forces (x : LodeSlot) (t : Nat) : (x.clearForce t).forces
    = x.forces.map (fun f => if f.1 ≤ t then (f.1, some (min t (f.2.getD t))) else f) := by
  refine List.map_congr_left (fun f _ => ?_)
  obtain ⟨b, e⟩ := f
  cases e with
  | none => simp
  | some c =>
    have hmin : (if c < t then c else t) = min t c := by split <;> omega
    simp [hmin]

theorem LodeSlot.forcedAt_of_forces {x y : LodeSlot} (h : y.forces = x.forces) (u : Nat) : y.forcedAt u = x.forcedAt u := by
  unfold LodeSlot.forcedAt
  rw [h]

/-- Is the time `u` within a force, given by its two ends? -/
def withinForce (u : Nat) (f : Nat × Option Nat) : Bool :=
  decide (f.1 ≤ u) && (match f.2 with | none => true | some c => decide (u < c))

theorem LodeSlot.forcedAt_eq (x : LodeSlot) (u : Nat) : x.forcedAt u = x.forces.any (withinForce u) := rfl

theorem withinForce_cleared {t u : Nat} {f : Nat × Option Nat} (h : f.1 ≤ t) :
    withinForce u (f.1, some (min t (f.2.getD t))) = (withinForce u f && decide (u < t)) := by
  obtain ⟨b, e⟩ := f
  cases e with
  | none => simp [withinForce]
  | some c =>
    simp [withinForce, Bool.and_assoc, Bool.and_comm (decide (u < t))]

/-- Where every force has begun by the clearing, none is in force from it on, and before it they stand as they did. -/
theorem LodeSlot.clearForce_forcedAt {x : LodeSlot} {t : Nat} (h : ∀ f, f ∈ x.forces → f.1 ≤ t) (u : Nat) :
    (x.clearForce t).forcedAt u = (x.forcedAt u && decide (u < t)) := by
  rw [LodeSlot.forcedAt_eq, LodeSlot.forcedAt_eq, LodeSlot.clearForce_forces, List.any_map]
  generalize x.forces = l at h
  induction l with
  | nil => rfl
  | cons f r ih =>
    obtain ⟨hf, hr⟩ := List.forall_mem_cons.mp h
    rw [List.any_cons, List.any_cons, ih hr, Function.comp, if_pos hf, withinForce_cleared hf, Bool.and_or_distrib_right]

/-- At its own time a clearing leaves no force. -/
theorem LodeSlot.clearForce_free (x : LodeSlot) (t : Nat) : (x.clearForce t).forcedAt t = false := by
  rw [LodeSlot.forcedAt_eq, LodeSlot.clearForce_forces, List.any_map, List.any_eq_false]
  intro f _
  rw [Function.comp]
  split
  · next hf => simp [withinForce_cleared hf]
  · next hf => simp [withinForce, hf]

/-- A force set on a slot without EVT whose newest copy is older: a force more, and its value with its time and FRZ. -/
theorem State.applyForce_stores {s : State} {w : LodeWrite} {t : Nat} (hp : w.path = .force) (hpoison : w.poison = false)
    (hpend : s.flag F.LOD_STATUS.CLOSE_PEND = false) (hslot : w.slot < slotCount) (hevt : (s.slot w.slot).evt = false)
    (hlt : ((s.slot w.slot).newest s.openEpoch).ptime < t) : ∃ (y : State) (c : LodeCopy), s.applyForce w t = (y, none)
      ∧ y.lode.hold = s.lode.hold ∧ (y.slot w.slot).forces = (t, none) :: (s.slot w.slot).forces
      ∧ (y.slot w.slot).newest y.openEpoch = c ∧ c.value = w.value ∧ c.ptime = t ∧ c.source = w.source ∧ c.quality = qForced
      ∧ c.frz = true ∧ ∀ k, k ≠ w.slot → y.slot k = s.slot k := by
  have hu := s.slot_setSlot_same w.slot ((s.slot w.slot).setForce t)
  have hpass : (s.setSlot w.slot ((s.slot w.slot).setForce t)).Passes { w with kind := (s.slot w.slot).kind, quality := qForced } t
      w.value qForced :=
    ⟨hslot, congrArg (pathMayWrite · _) hp, .inl hp, by
      rw [hu]
      exact writeValue_own_kind hpoison rfl (by decide : qForced % 256 ∈ _)⟩
  obtain ⟨y, hy, hhold, hnew, hforces, hothers⟩ := hpass.stored_views ((State.flag_of_reg (s.setSlot_reg _ _ _)).trans hpend)
    (by rw [hu, LodeSlot.setForce_newest]; exact hlt) (by rw [hu]; exact hevt)
  obtain ⟨hvalue, hptime, hsource, hquality, hfrz⟩ := (s.setSlot w.slot ((s.slot w.slot).setForce t)).storedCopy_holds
    { w with kind := (s.slot w.slot).kind, quality := qForced } t w.value qForced
  rw [hu] at hforces hfrz
  refine ⟨y, _, ?_, hhold.trans (s.setSlot_hold _ _), hforces, hnew, hvalue, hptime, hsource, hquality, hfrz.trans ?_,
    fun k hk => (hothers k hk).trans (s.slot_setSlot_other _ hk)⟩
  · rw [State.applyForce, if_neg (Nat.not_le.mpr hslot)]
    exact hy
  · exact LodeSlot.setForce_forcedAt _ (by split <;> omega)

theorem forceSet_sent {s : State} {loc : BitVec 12} (ha : s.lodeAccepts = true) (hq : s.lode.inq = []) {y : State}
    (h : s.applyForce (s.forceWrite loc) (max (s.fld F.LOD_FRC_TIME.TIME) s.time.now) = (y, none))
    (hhold : y.lode.hold = s.lode.hold) : exec (.forceSet loc) s = .next y := by
  have hitem : s.applyItem (.write (s.forceWrite loc)) = (y, none) := by
    rw [State.applyItem_stamped (t := s.fld F.LOD_FRC_TIME.TIME) rfl, if_pos (show (s.forceWrite loc).path = .force from rfl),
      s.forceTime_eq, h]
  rw [forceSet_eq, if_pos (State.takesIo_of_accepts ha (by decide)), State.lodeSend_quiet ha hq hitem hhold]

/-- What the clearing of FRZ leaves of the slot, and of the rest. -/
theorem State.applyClear_leaves (s : State) (slot tc : Nat) : (s.applyClear slot tc).lode.hold = s.lode.hold
    ∧ (s.applyClear slot tc).mem = s.mem ∧ (s.applyClear slot tc).openEpoch = s.openEpoch
    ∧ ((s.applyClear slot tc).slot slot).forces = (s.slot slot).forces
    ∧ ∀ k, k ≠ slot → (s.applyClear slot tc).slot k = s.slot k := by
  cases he : ((s.slot slot).newest s.openEpoch).inEpoch s.openEpoch with
  | true =>
    rw [State.applyClear_open tc he]
    exact ⟨s.setSlot_hold _ _, s.setSlot_mem _ _, s.setSlot_openEpoch _ _, by rw [s.slot_setSlot_same, LodeSlot.setOpen_forces],
      fun k hk => s.slot_setSlot_other _ hk⟩
  | false =>
    rw [State.applyClear_older tc he]
    exact ⟨rfl, rfl, rfl, rfl, fun _ _ => rfl⟩

theorem LodeCopy.setFrz_value (c : LodeCopy) (frz : Bool) : (c.setFrz frz).value = c.value := rfl

theorem LodeCopy.setFrz_frz (c : LodeCopy) (frz : Bool) : (c.setFrz frz).frz = frz := rfl

theorem State.applyClear_newest (s : State) (slot tc : Nat) :
    (((s.applyClear slot tc).slot slot).newest s.openEpoch).value = ((s.slot slot).newest s.openEpoch).value
    ∧ (((s.slot slot).newest s.openEpoch).inEpoch s.openEpoch = true →
        (((s.applyClear slot tc).slot slot).newest s.openEpoch).frz
          = (((s.slot slot).newest s.openEpoch).frz && (s.slot slot).forcedAt tc)) := by
  cases he : ((s.slot slot).newest s.openEpoch).inEpoch s.openEpoch with
  | true =>
    rw [State.applyClear_open tc he, s.slot_setSlot_same, LodeSlot.newest_setOpen _ (by rw [LodeCopy.setFrz_inEpoch, he])]
    exact ⟨LodeCopy.setFrz_value _ _, fun _ => LodeCopy.setFrz_frz _ _⟩
  | false =>
    rw [State.applyClear_older tc he]
    exact ⟨rfl, fun h => nomatch h⟩

/-- What CLEAR leaves: the forces with their new ends, and the newest copy but for FRZ. -/
theorem forceClear_clears {s : State} {loc : BitVec 12} (ha : s.lodeAccepts = true) (hq : s.lode.inq = [])
    (hpend : s.flag F.LOD_STATUS.CLOSE_PEND = false) {i t : Nat} (hi : i = s.fld F.LOD_FRC_INDEX.SLOT)
    (ht : t = max (s.fld F.LOD_FRC_TIME.TIME) s.time.now) : ∃ y : State, exec (.forceClear loc) s = .next y
      ∧ (y.slot i).forces = ((s.slot i).clearForce t).forces
      ∧ ((y.slot i).newest y.openEpoch).value = ((s.slot i).newest s.openEpoch).value
      ∧ (((s.slot i).newest s.openEpoch).inEpoch s.openEpoch = true → ((y.slot i).newest y.openEpoch).frz = false)
      ∧ (∀ k, k ≠ i → y.slot k = s.slot k) ∧ y.mem = s.mem := by
  have hu := s.slot_setSlot_same i ((s.slot i).clearForce t)
  have hitem : s.applyItem (.clear i (s.fld F.LOD_FRC_TIME.TIME))
      = ((s.setSlot i ((s.slot i).clearForce t)).applyClear i t, none) := by
    rw [State.applyItem]
    dsimp only
    rw [s.forceTime_eq, ← ht, State.beyondPending_of_open ((State.flag_of_reg (s.setSlot_reg _ _ _)).trans hpend),
      if_neg Bool.false_ne_true]
  obtain ⟨hhold, hmem, hopen, hforces, hothers⟩ := (s.setSlot i ((s.slot i).clearForce t)).applyClear_leaves i t
  obtain ⟨hvalue, hfrz⟩ := (s.setSlot i ((s.slot i).clearForce t)).applyClear_newest i t
  rw [hu] at hforces hvalue hfrz
  rw [s.setSlot_openEpoch, LodeSlot.clearForce_newest] at hvalue hfrz
  rw [s.setSlot_openEpoch] at hopen
  rw [LodeSlot.clearForce_free, Bool.and_false] at hfrz
  refine ⟨_, ?_, hforces, by rw [hopen]; exact hvalue, by rw [hopen]; exact hfrz,
    fun k hk => (hothers k hk).trans (s.slot_setSlot_other _ hk), hmem.trans (s.setSlot_mem _ _)⟩
  rw [forceClear_eq, if_pos (State.takesIo_of_accepts ha (by decide)), ← hi]
  exact congrArg _ (State.lodeSend_quiet ha hq hitem (hhold.trans (s.setSlot_hold _ _)))

/-! ### LOD_CFG_DATA_WRITE (R85, R126) -/

/-- SLOT moves on where INC is 1. -/
def State.cfgMoved (s u : State) : State :=
  if s.flag F.LOD_CFG_INDEX.INC then u.setFld F.LOD_CFG_INDEX.SLOT (s.fld F.LOD_CFG_INDEX.SLOT + 1) else u

theorem State.cfgMoved_lode (s u : State) : (s.cfgMoved u).lode = u.lode := by
  unfold State.cfgMoved
  split
  · exact u.setFld_lode _ _
  · rfl

theorem State.cfgMoved_slot (s : State) {u : State} (h : u.reg Adr.LOD_CFG_INDEX = s.reg Adr.LOD_CFG_INDEX) :
    (s.cfgMoved u).fld F.LOD_CFG_INDEX.SLOT = if s.flag F.LOD_CFG_INDEX.INC
      then (s.fld F.LOD_CFG_INDEX.SLOT + 1) % 2 ^ (F.LOD_CFG_INDEX.SLOT.hi + 1 - F.LOD_CFG_INDEX.SLOT.lo)
      else s.fld F.LOD_CFG_INDEX.SLOT := by
  unfold State.cfgMoved
  split
  · exact State.fld_setFld_same _ _ _ IoField.fits
  · exact State.fld_of_reg h

theorem lodCfgDataWrite_taken {s : State} (ha : s.lodeAccepts = true) (v : Word32) : exec (.lodCfgDataWrite v) s
    = .next (s.cfgMoved (if 8 ≤ bitsOf v.toNat 7 4 then s else s.lodeSend (.config (s.fld F.LOD_CFG_INDEX.SLOT) v.toNat))) := by
  rw [lodCfgDataWrite_eq, if_pos (State.takesIo_of_accepts ha (by decide)), State.cfgDataWrite, State.cfgMoved]

/-- The configuration that a write of LOD_CFG_DATA gives a slot. -/
def LodeSlot.configured (x : LodeSlot) (d : Nat) : LodeSlot :=
  { x with dirOut := bitOf d 15, evt := bitOf d 13, kind := bitsOf d 7 4, age := bitsOf d 3 0 }

theorem State.lodeSend_config {s : State} (ha : s.lodeAccepts = true) (hq : s.lode.inq = []) (hm : s.mode = .configure) {i : Nat}
    (hi : i < slotCount) (d : Nat) : s.lodeSend (.config i d) = s.setSlot i ((s.slot i).configured d) := by
  refine State.lodeSend_quiet ha hq ?_ (s.setSlot_hold _ _)
  rw [State.applyItem, if_pos hm, State.applyConfig, if_neg (Nat.not_le.mpr hi), LodeSlot.configured]

/-! ### The statement -/

/-- Settles O36: each write with nothing before it is applied at once, and its slot is read back by the lemma on it. -/
theorem softwareWritesAndForces : Obligations.SoftwareWritesAndForces := by
  refine ⟨fun s loc v hoff c hc => lodeRegisters_stopped hoff hc, fun s loc v ha hq hpend => ⟨?_, ?_, ?_⟩⟩
  · dsimp only
    intro hslot hevt hgo hkind hqual hforce hlt
    obtain ⟨y, hexec, hnew, hothers⟩ := softwareWrite_stores ha hq hpend rfl rfl hslot hevt hgo hkind hqual hforce hlt
    obtain ⟨hvalue, hptime, hsource, hquality, -⟩ := (s.goStamped loc v.toNat).storedCopy_holds (s.goWrite loc v.toNat)
      (s.stamp loc.toNat).1 (s.reg Adr.LOD_SWR_VALUE) (bitsOf v.toNat 31 16)
    rw [← hnew] at hvalue hptime hsource hquality
    exact ⟨y, hexec, hvalue, hptime, hsource, hquality, hothers⟩
  · dsimp only
    intro hslot hevt
    refine ⟨fun hlt => ?_, ?_⟩
    · obtain ⟨y, c, happly, hhold, hforces, hnew, hvalue, hptime, hsource, hquality, hfrz, hothers⟩ :=
        State.applyForce_stores (w := s.forceWrite loc) rfl rfl hpend hslot hevt hlt
      subst hnew
      exact ⟨y, forceSet_sent ha hq happly hhold, hforces, hvalue, hptime, hsource, hquality, hfrz, hothers⟩
    · obtain ⟨y, hexec, hforces, hvalue, hfrz, hothers, hmem⟩ := forceClear_clears (s := s) (loc := loc) ha hq hpend rfl rfl
      exact ⟨y, hexec, hforces.trans (LodeSlot.clearForce_forces _ _),
        fun hall u => (LodeSlot.forcedAt_of_forces hforces u).trans (LodeSlot.clearForce_forcedAt hall u), hvalue, hfrz, hothers, hmem⟩
  · intro i moved
    refine ⟨fun h8 => ⟨_, lodCfgDataWrite_taken ha v, ?_, ?_⟩,
      fun h8 hm hslot => ⟨_, lodCfgDataWrite_taken ha v, ?_, ?_, fun k hk => ?_⟩⟩
    · rw [if_pos h8, State.cfgMoved_lode]
    · rw [if_pos h8]
      exact s.cfgMoved_slot rfl
    · rw [if_neg (Nat.not_le.mpr h8), State.lodeSend_config ha hq hm hslot]
      exact s.cfgMoved_slot (s.setSlot_reg _ _ _)
    · rw [if_neg (Nat.not_le.mpr h8), State.lodeSend_config ha hq hm hslot,
        State.slot_of_slots (congrArg LodeState.slots (s.cfgMoved_lode _)), s.slot_setSlot_same, LodeSlot.configured]
    · rw [if_neg (Nat.not_le.mpr h8), State.lodeSend_config ha hq hm hslot,
        State.slot_of_slots (congrArg LodeState.slots (s.cfgMoved_lode _)), s.slot_setSlot_other _ hk]

end Sys2Proof.Machine

/-!
PROOFS. Epoch advances (R96, R97): an advance is recorded as pending or refused and logged, and the settled statement.
-/
namespace Sys2Proof.Machine

theorem State.count_eq_min (s : State) (f : IoField) (n : Nat) :
    s.count f n = s.setFld f (min (s.fld f + n) (2 ^ (f.hi + 1 - f.lo) - 1)) := by
  unfold State.count
  dsimp only
  congr 1
  split <;> omega

/-! ### The advance that all requests share (R97) -/

/-- The registers of a recorded boundary. -/
def State.recorded (s : State) (b : Nat) : State := (s.setFld F.LOD_PEND_B.BOUNDARY b).raise F.LOD_STATUS.CLOSE_PEND

theorem State.recorded_reg (s : State) (b : Nat) {a : Nat} (hp : a ≠ Adr.LOD_PEND_B) (hs : a ≠ Adr.LOD_STATUS) :
    (s.recorded b).reg a = s.reg a :=
  (State.setFld_reg_other _ F.LOD_STATUS.CLOSE_PEND _ hs).trans (State.setFld_reg_other _ F.LOD_PEND_B.BOUNDARY _ hp)

theorem State.recorded_pending (s : State) {b : Nat} (h : b < 2 ^ 64) :
    (s.recorded b).flag F.LOD_STATUS.CLOSE_PEND = true ∧ (s.recorded b).fld F.LOD_PEND_B.BOUNDARY = b := by
  refine ⟨State.flag_raise _ _ IoField.fits, ?_⟩
  unfold State.recorded State.raise
  rw [State.fld_setFld_other _ _ _ _ IoField.fits (by decide), State.fld_setFld_same _ _ _ IoField.fits]
  exact Nat.mod_eq_of_lt h

theorem State.advance_accepted {s : State} {b : Nat} (hp : s.flag F.LOD_STATUS.CLOSE_PEND = false) (hb : s.lastBoundary < b) :
    (s.advance b).1.regs = (s.recorded b).regs ∧ (s.advance b).2 = true := by
  unfold State.advance
  rw [if_pos (by simp [hp, hb])]
  exact ⟨rfl, rfl⟩

/-- The state of a refusal but for the lode's count of upsets: REFUSED rises, and a stamped event is logged. -/
def State.refused (s : State) : State := (s.count F.LOD_COUNTS.REFUSED 1).log 0xF00 0x10 1 0 0 (2 ^ 40)

theorem State.refused_lode (s : State) : s.refused.lode = s.lode := (State.log_lode _ _ _ _ _ _ _).trans (s.count_lode _ _)

theorem State.advance_refused {s : State} {b : Nat} (h : s.flag F.LOD_STATUS.CLOSE_PEND = true ∨ b ≤ s.lastBoundary) :
    s.advance b = ({ s.refused with lode := { s.refused.lode with upsets := s.refused.lode.upsets + 1 } }, false) := by
  unfold State.advance
  rw [if_neg (by rcases h with h | h <;> simp [h])]
  rfl

theorem lodAdvance_not_taken {s : State} (h : s.takesIo Adr.LOD_ADVANCE = false) : exec .lodAdvance s = .next s := by
  show execLodAdvance s = _
  simp [execLodAdvance, done, h]

/-- LOD_ADVANCE requests an advance with the counter as its boundary (R96). -/
theorem lodAdvance_requests {s : State} (hio : s.takesIo Adr.LOD_ADVANCE = true) (hen : s.flag F.LOD_CTL.SW_ADV_EN = true)
    (hinit : s.flag F.LOD_STATUS.INIT_DONE = true) : exec .lodAdvance s = .next (s.advance s.time.now).1 := by
  have hgo : bitOf 1 0 = true := by decide
  show execLodAdvance s = _
  rw [execLodAdvance, done, if_pos hio, State.advanceWrite, if_pos (by simp [hgo, hen]), State.requestAdvance, if_pos hinit]

/-! ### The statement -/

/-- What the statement asks of an accepted advance. -/
theorem State.advance_records {s : State} {b : Nat} (hb : b < 2 ^ 64) (hp : s.flag F.LOD_STATUS.CLOSE_PEND = false)
    (hl : s.lastBoundary < b) : (s.advance b).1.flag F.LOD_STATUS.CLOSE_PEND = true ∧ (s.advance b).1.fld F.LOD_PEND_B.BOUNDARY = b
      ∧ (s.advance b).1.fld F.LOD_OPEN_B.BOUNDARY = s.fld F.LOD_OPEN_B.BOUNDARY ∧ (s.advance b).1.openEpoch = s.openEpoch
      ∧ (s.advance b).1.reg Adr.LOD_COUNTS = s.reg Adr.LOD_COUNTS := by
  obtain ⟨hflag, hfld⟩ := s.recorded_pending hb
  have hreg := State.reg_of_regs (State.advance_accepted hp hl).1
  exact ⟨(State.flag_of_reg (hreg _)).trans hflag, (State.fld_of_reg (hreg _)).trans hfld,
    State.fld_of_reg ((hreg _).trans (s.recorded_reg b (by decide) (by decide))),
    State.openEpoch_of_copies (s.advance_copies b), (hreg _).trans (s.recorded_reg b (by decide) (by decide))⟩

/-- What the statement asks of a refused one: the count, the stamp and the record are those of `State.refused`. -/
theorem State.advance_refuses {s : State} {b : Nat} (h : s.flag F.LOD_STATUS.CLOSE_PEND = true ∨ b ≤ s.lastBoundary) :
    let counted := s.setFld F.LOD_COUNTS.REFUSED (min (s.fld F.LOD_COUNTS.REFUSED + 1) 0xFFFF)
    let l := (counted.stamp 0xF00).2.logRecord ⟨(counted.stamp 0xF00).1, counted.source 0xF00, 0x10, 0, severityOf 0x10 1, 0, 2 ^ 40⟩
    (s.advance b).1 = { l with lode := (s.advance b).1.lode } ∧ (s.advance b).1.lode.bounds = s.lode.bounds := by
  intro counted l
  have hcount : s.count F.LOD_COUNTS.REFUSED 1 = counted := s.count_eq_min F.LOD_COUNTS.REFUSED 1
  have hl : s.refused = l := by
    unfold State.refused
    rw [hcount]
    rfl
  have hlode := congrArg LodeState.bounds s.refused_lode
  rw [State.advance_refused h]
  rw [hl] at hlode ⊢
  clear_value l
  exact ⟨rfl, hlode⟩

/-- Settles O37: the register's request is the operation `State.advance`, whose two outcomes are the lemmas above. -/
theorem advanceRecordedOrRefused : Obligations.AdvanceRecordedOrRefused := by
  intro s b hb last accepts counted refuses
  refine ⟨lodAdvance_not_taken, fun hp hl => ⟨State.advance_records hb hp hl, (State.advance_accepted hp hl).2⟩,
    fun h => ⟨State.advance_refuses h, congrArg Prod.snd (State.advance_refused h)⟩, fun hnow hio hen hinit => ?_⟩
  have hexec := lodAdvance_requests hio hen hinit
  rw [← hnow] at hexec
  exact ⟨fun hp hl => ⟨_, hexec, State.advance_records hb hp hl⟩, fun h => ⟨_, hexec, State.advance_refuses h⟩⟩

end Sys2Proof.Machine

/-!
PROOFS. Epoch closes, peer-window commits, the end of initialisation and the scrubber (R99, R111, R113, R123, R127, R128), and the
settled statement.
-/
namespace Sys2Proof.Machine

/-! ### EPOCH_CLOSE (R99) -/

/-- The registers of a close: the next epoch is open from the pending boundary on, and no close is pending. -/
def State.moveEpoch (s : State) : State :=
  (((s.setFld F.LOD_EPOCH.OPEN (s.openEpoch + 1)).setFld F.LOD_OPEN_B.BOUNDARY (s.fld F.LOD_PEND_B.BOUNDARY)).setFld
    F.LOD_STATUS.CLOSE_PEND 0).setFld F.LOD_STATUS.GATHER_WAIT 0

theorem State.moveEpoch_reads (s : State) : s.moveEpoch.openEpoch = (s.openEpoch + 1) % 2 ^ 64
    ∧ s.moveEpoch.fld F.LOD_OPEN_B.BOUNDARY = s.fld F.LOD_PEND_B.BOUNDARY ∧ s.moveEpoch.flag F.LOD_STATUS.CLOSE_PEND = false := by
  refine ⟨?_, ?_, ?_⟩
  · unfold State.openEpoch State.moveEpoch
    rw [State.fld_setFld_other _ _ _ _ IoField.fits (by decide), State.fld_setFld_other _ _ _ _ IoField.fits (by decide),
      State.fld_setFld_other _ _ _ _ IoField.fits (by decide)]
    exact State.fld_setFld_same _ _ _ IoField.fits
  · unfold State.moveEpoch
    rw [State.fld_setFld_other _ _ _ _ IoField.fits (by decide), State.fld_setFld_other _ _ _ _ IoField.fits (by decide),
      State.fld_setFld_same _ _ _ IoField.fits]
    exact Nat.mod_eq_of_lt (bitsOf_lt _ _ _)
  · unfold State.moveEpoch
    rw [State.flag_setFld_other _ _ _ _ IoField.fits (by decide)]
    exact State.flag_setFld_zero _ _ IoField.fits

theorem State.moveEpoch_leaves (s : State) : s.moveEpoch.lode = s.lode ∧ s.moveEpoch.mem = s.mem ∧ s.moveEpoch.drt = s.drt
    ∧ s.moveEpoch.hewers = s.hewers ∧ s.moveEpoch.adt = s.adt := by
  unfold State.moveEpoch
  refine ⟨?_, ?_, ?_, ?_, ?_⟩
  · rw [State.setFld_lode, State.setFld_lode, State.setFld_lode, State.setFld_lode]
  · rw [State.setFld_mem, State.setFld_mem, State.setFld_mem, State.setFld_mem]
  · rw [State.setFld_drt, State.setFld_drt, State.setFld_drt, State.setFld_drt]
  · rw [State.setFld_hewers, State.setFld_hewers, State.setFld_hewers, State.setFld_hewers]
  · rw [State.setFld_adt, State.setFld_adt, State.setFld_adt, State.setFld_adt]

theorem State.queryClose_of_none {s : State} (h : s.adt.queries = []) : s.queryClose = s := by
  unfold State.queryClose
  rw [h]
  rfl

theorem State.hold_of_empty {s : State} (h : s.lode.hold = []) : { s with lode := { s.lode with hold := [] } } = s := by
  rw [← h]

/-- With nothing held and no query context, a close moves the epoch on, and no more. -/
theorem State.closeEpoch_empty {s : State} (hq : s.adt.queries = []) (hh : s.lode.hold = []) : s.closeEpoch = (s.moveEpoch, []) := by
  obtain ⟨hlode, -, -, -, hadt⟩ := s.moveEpoch_leaves
  unfold State.closeEpoch
  dsimp only
  rw [← State.moveEpoch, State.queryClose_of_none ((congrArg (·.queries) hadt).trans hq), hlode, hh, State.applyHolds,
    ← hlode, State.hold_of_empty ((congrArg LodeState.hold hlode).trans hh)]

theorem epochClose_eq (s : State) : exec .epochClose s
    = .next (if s.closeDue && !s.gathersOpen && s.pwr.pllLocked && s.domainOn 2 then s.closeEpoch.1.notifyAll s.closeEpoch.2
      else s) := rfl

theorem epochClose_moves {s : State} (hpll : s.pwr.pllLocked = true) (hdom : s.domainOn 2 = true) (hdue : s.closeDue = true)
    (hgather : s.gathersOpen = false) (hq : s.adt.queries = []) (hh : s.lode.hold = []) : exec .epochClose s = .next s.moveEpoch := by
  rw [epochClose_eq, if_pos (by simp [hpll, hdom, hdue, hgather]), State.closeEpoch_empty hq hh]
  rfl

/-- Before the horizon has passed, or with no advance pending, nothing closes. -/
theorem epochClose_waits {s : State} (h : s.flag F.LOD_STATUS.CLOSE_PEND = false
    ∨ s.time.now < s.fld F.LOD_PEND_B.BOUNDARY + s.fld F.LOD_HORIZON.HORIZON) : exec .epochClose s = .next s := by
  have hdue : s.closeDue = false := by
    unfold State.closeDue
    rcases h with h | h <;> simp [h]
  rw [epochClose_eq, if_neg (by simp [hdue])]

/-! ### INIT_DONE (R123, R124) -/

/-- The waiting advances are taken for handling. -/
def State.noWaiting (s : State) : State := { s with lode := { s.lode with waitAdv := [] } }

theorem State.noWaiting_of_empty {s : State} (h : s.lode.waitAdv = []) : s.noWaiting = s := by
  unfold State.noWaiting
  rw [← h]

theorem initDone_completes {s : State} (hpll : s.pwr.pllLocked = true) (hdom : s.domainOn 2 = true)
    (hinit : s.flag F.LOD_STATUS.INIT_DONE = false) :
    exec .initDone s = .next ((s.raise F.LOD_STATUS.INIT_DONE).noWaiting.lateAdvances s.lode.waitAdv) := by
  show execInitDone s = _
  rw [execInitDone, done, State.initComplete, if_neg (by simp [hpll, hdom, hinit])]
  rfl

/-! ### LODE_SCRUB (R127, R128) -/

theorem clampTag_of_young {o tag limit : Nat} (hage : tagAge o tag ≤ limit) (ht : tag < 2 ^ 32) : clampTag o tag limit = tag := by
  unfold clampTag
  rw [if_neg (Nat.not_lt.mpr hage), Nat.mod_eq_of_lt ht]

/-- Both TAGs of a slot are young: the scrubber leaves them (R128). -/
def LodeSlot.Young (x : LodeSlot) (o : Nat) : Prop :=
  (tagAge o x.c0.tag < 2 ^ 31 - 2 ∧ x.c0.tag < 2 ^ 32) ∧ tagAge o x.c1.tag < 2 ^ 31 - 2 ∧ x.c1.tag < 2 ^ 32

theorem State.scrubTags_of_young {s : State} {i : Nat} (h : (s.slot i).Young s.openEpoch) :
    s.scrubTags i = s.setSlot i (s.slot i) := by
  obtain ⟨⟨h0, ht0⟩, h1, ht1⟩ := h
  have hlimit (b : Bool) : 2 ^ 31 - 2 ≤ 2 ^ 31 - (if b = true then 2 else 1) := by cases b <;> decide
  unfold State.scrubTags
  dsimp only
  rw [clampTag_of_young (Nat.le_trans (Nat.le_of_lt h0) (hlimit _)) ht0,
    clampTag_of_young (Nat.le_trans (Nat.le_of_lt h1) (hlimit _)) ht1]

theorem lodeScrub_checks {s : State} (hpll : s.pwr.pllLocked = true) (hdom : s.domainOn 2 = true)
    (hinit : s.flag F.LOD_STATUS.INIT_DONE = true) (slot : Fin 262144) (zero bad : Bool) : exec (.lodeScrub slot zero bad) s
      = .next (if bad then (s.poisonCopy slot zero).scrubTags slot else s.scrubTags slot) := by
  show execLodeScrub slot zero bad s = _
  rw [execLodeScrub, done, if_neg (by simp [hpll, hdom, hinit])]

/-- A copy as R127 rewrites it: POISONED with value 0, the counter and the lode's source. -/
def State.rewritten (s : State) (c : LodeCopy) : LodeCopy :=
  { c with value := 0, ptime := s.time.now, source := s.source 0xF00, quality := qPoisoned }

/-- A slot with the copy rewritten whose error cannot be corrected. -/
def State.rewrittenSlot (s : State) (x : LodeSlot) (zero : Bool) : LodeSlot :=
  if zero then { x with c0 := s.rewritten x.c0 } else { x with c1 := s.rewritten x.c1 }

theorem State.rewrittenSlot_young (s : State) {x : LodeSlot} {o : Nat} (h : x.Young o) (zero : Bool) :
    (s.rewrittenSlot x zero).Young o := by
  unfold State.rewrittenSlot
  split
  · exact h
  · exact h

theorem State.poisonCopy_copies (s : State) (i : Nat) (zero : Bool) :
    (s.poisonCopy i zero).copies = (s.setSlot i (s.rewrittenSlot (s.slot i) zero)).copies := State.log_copies _ _ _ _ _ _ _

/-! ### Peer windows (R111, R113) -/

/-- The shadow set of window `w`, which software writes. -/
def State.window (s : State) (w : Nat) : Word × Word × Word :=
  (s.reg (Adr.LOD_WIN_MATCH w), s.reg (Adr.LOD_WIN_RANGE w), s.reg (Adr.LOD_WIN_MAP w))

/-- Its active set. -/
def State.activeWindow (s : State) (w : Nat) : Word × Word × Word :=
  (s.reg (Adr.LOD_WIN_MATCH_A w), s.reg (Adr.LOD_WIN_RANGE_A w), s.reg (Adr.LOD_WIN_MAP_A w))

/-- Registers that are in no active set. -/
def notActive (a : Nat) : Prop := ∀ w, a ≠ Adr.LOD_WIN_MATCH_A w ∧ a ≠ Adr.LOD_WIN_RANGE_A w ∧ a ≠ Adr.LOD_WIN_MAP_A w

theorem notActive_shadow (w : Nat) : notActive (Adr.LOD_WIN_MATCH w) ∧ notActive (Adr.LOD_WIN_RANGE w)
    ∧ notActive (Adr.LOD_WIN_MAP w) := by
  unfold notActive Adr.LOD_WIN_MATCH Adr.LOD_WIN_RANGE Adr.LOD_WIN_MAP Adr.LOD_WIN_MATCH_A Adr.LOD_WIN_RANGE_A Adr.LOD_WIN_MAP_A
  refine ⟨fun k => ?_, fun k => ?_, fun k => ?_⟩ <;> omega

theorem State.copyWindow_reg (s : State) (w : Nat) {a : Nat} (h : notActive a) : (s.copyWindow w).reg a = s.reg a := by
  obtain ⟨hmatch, hrange, hmap⟩ := h w
  unfold State.copyWindow
  rw [State.reg_setReg_other _ _ hmap, State.reg_setReg_other _ _ hrange, State.reg_setReg_other _ _ hmatch]

theorem State.copyWindow_window (s : State) (w j : Nat) : (s.copyWindow w).window j = s.window j := by
  obtain ⟨hmatch, hrange, hmap⟩ := notActive_shadow j
  unfold State.window
  rw [s.copyWindow_reg w hmatch, s.copyWindow_reg w hrange, s.copyWindow_reg w hmap]

theorem State.copyWindow_same (s : State) (w : Nat) : (s.copyWindow w).activeWindow w = s.window w := by
  have h1 : Adr.LOD_WIN_MATCH_A w ≠ Adr.LOD_WIN_RANGE_A w := by unfold Adr.LOD_WIN_MATCH_A Adr.LOD_WIN_RANGE_A; omega
  have h2 : Adr.LOD_WIN_MATCH_A w ≠ Adr.LOD_WIN_MAP_A w := by unfold Adr.LOD_WIN_MATCH_A Adr.LOD_WIN_MAP_A; omega
  have h3 : Adr.LOD_WIN_RANGE_A w ≠ Adr.LOD_WIN_MAP_A w := by unfold Adr.LOD_WIN_RANGE_A Adr.LOD_WIN_MAP_A; omega
  unfold State.activeWindow State.window State.copyWindow
  rw [State.reg_setReg_other _ _ h2, State.reg_setReg_other _ _ h1, State.reg_setReg_same, State.reg_setReg_other _ _ h3,
    State.reg_setReg_same, State.reg_setReg_same]

theorem State.copyWindow_other (s : State) {w j : Nat} (h : j ≠ w) : (s.copyWindow w).activeWindow j = s.activeWindow j := by
  have hreg {a : Nat} (h1 : a ≠ Adr.LOD_WIN_MATCH_A w) (h2 : a ≠ Adr.LOD_WIN_RANGE_A w) (h3 : a ≠ Adr.LOD_WIN_MAP_A w) :
      (s.copyWindow w).reg a = s.reg a := by
    unfold State.copyWindow
    rw [State.reg_setReg_other _ _ h3, State.reg_setReg_other _ _ h2, State.reg_setReg_other _ _ h1]
  unfold State.activeWindow
  unfold Adr.LOD_WIN_MATCH_A Adr.LOD_WIN_RANGE_A Adr.LOD_WIN_MAP_A at *
  rw [hreg (by omega) (by omega) (by omega), hreg (by omega) (by omega) (by omega), hreg (by omega) (by omega) (by omega)]

/-- One step of the copying: the window's own bit decides. -/
theorem State.copyWindow_if (s : State) (mask w j : Nat) : (if mask.testBit w then s.copyWindow w else s).activeWindow j
    = if j = w ∧ mask.testBit j = true then s.window j else s.activeWindow j := by
  by_cases hj : j = w
  · subst hj
    by_cases hb : mask.testBit j = true
    · rw [if_pos hb, if_pos ⟨rfl, hb⟩, State.copyWindow_same]
    · rw [if_neg hb, if_neg (fun h : _ ∧ _ => hb h.2)]
  · rw [if_neg (fun h : j = w ∧ _ => hj h.1)]
    split
    · exact s.copyWindow_other hj
    · rfl

theorem State.copyWindows_leaves (s : State) (mask n w : Nat) : (s.copyWindows mask n w).lode = s.lode
    ∧ (s.copyWindows mask n w).mem = s.mem ∧ ∀ a, notActive a → (s.copyWindows mask n w).reg a = s.reg a := by
  induction n generalizing s w with
  | zero => exact ⟨rfl, rfl, fun _ _ => rfl⟩
  | succ k ih =>
    rw [State.copyWindows]
    obtain ⟨hlode, hmem, hreg⟩ := ih (if mask.testBit w then s.copyWindow w else s) (w + 1)
    refine ⟨hlode.trans ?_, hmem.trans ?_, fun a ha => (hreg a ha).trans ?_⟩
    · split
      · rfl
      · rfl
    · split
      · rfl
      · rfl
    · split
      · exact s.copyWindow_reg w ha
      · rfl

/-- Exactly the windows of the mask take their shadow sets (R111). -/
theorem State.copyWindows_active (s : State) (mask n w j : Nat) : (s.copyWindows mask n w).activeWindow j
    = if (w ≤ j ∧ j < w + n) ∧ mask.testBit j = true then s.window j else s.activeWindow j := by
  induction n generalizing s w with
  | zero => rw [State.copyWindows, if_neg (by omega)]
  | succ k ih =>
    have hwindow : (if mask.testBit w then s.copyWindow w else s).window j = s.window j := by
      split
      · exact s.copyWindow_window w j
      · rfl
    have hrange : (w ≤ j ∧ j < w + (k + 1)) ↔ (w + 1 ≤ j ∧ j < w + 1 + k) ∨ j = w := by omega
    rw [State.copyWindows, ih, hwindow, State.copyWindow_if]
    simp only [hrange, or_and_right, ite_or]

/-! ### The statement -/

/-- A slot of young TAGs whose copies are good, or could be corrected, is as it was. -/
theorem lodeScrub_correctable {s : State} (hpll : s.pwr.pllLocked = true) (hdom : s.domainOn 2 = true)
    (hinit : s.flag F.LOD_STATUS.INIT_DONE = true) {slot : Fin 262144} (hy : (s.slot slot).Young s.openEpoch) (zero : Bool) :
    ∃ y : State, exec (.lodeScrub slot zero false) s = .next y ∧ y.slot slot = s.slot slot ∧ y.regs = s.regs ∧ y.mem = s.mem := by
  refine ⟨s.setSlot slot (s.slot slot), ?_, s.slot_setSlot_same _ _, s.setSlot_regs _ _, s.setSlot_mem _ _⟩
  rw [lodeScrub_checks hpll hdom hinit, if_neg Bool.false_ne_true, State.scrubTags_of_young hy]

theorem lodeScrub_uncorrectable {s : State} (hpll : s.pwr.pllLocked = true) (hdom : s.domainOn 2 = true)
    (hinit : s.flag F.LOD_STATUS.INIT_DONE = true) {slot : Fin 262144} (hy : (s.slot slot).Young s.openEpoch) (zero : Bool) :
    ∃ y : State, exec (.lodeScrub slot zero true) s = .next y ∧ (∀ k, k ≠ slot.val → y.slot k = s.slot k)
      ∧ y.slot slot = s.rewrittenSlot (s.slot slot) zero := by
  have hcopies := s.poisonCopy_copies slot zero
  have hslot := (State.slot_of_copies hcopies slot).trans (s.slot_setSlot_same _ _)
  have hopen := (State.openEpoch_of_copies hcopies).trans (s.setSlot_openEpoch _ _)
  have hyoung : ((s.poisonCopy slot zero).slot slot).Young (s.poisonCopy slot zero).openEpoch := by
    rw [hslot, hopen]
    exact s.rewrittenSlot_young hy zero
  refine ⟨(s.poisonCopy slot zero).setSlot slot ((s.poisonCopy slot zero).slot slot), ?_, fun k hk => ?_, ?_⟩
  · rw [lodeScrub_checks hpll hdom hinit, if_pos rfl, State.scrubTags_of_young hyoung]
  · rw [State.slot_setSlot_other _ _ hk, State.slot_of_copies hcopies k, s.slot_setSlot_other _ hk]
  · rw [State.slot_setSlot_same, hslot]

theorem lodWinCommit_eq (mask : Word) (s : State) : exec (.lodWinCommit mask) s
    = .next (if s.takesIo Adr.LOD_WIN_COMMIT then s.winCommitWrite mask else s) := rfl

theorem windowCommitEffect_eq (s : State) : exec .windowCommitEffect s = .next (if s.takesIo Adr.LOD_WIN_COMMIT
    then (s.copyWindows (s.reg Adr.LOD_WIN_COMMIT).toNat 64 0).setReg Adr.LOD_WIN_COMMIT 0 else s) := rfl

/-- LOD_WIN_COMMIT lies below the registers of the windows. -/
theorem winCommit_below (w : Nat) : (Adr.LOD_WIN_COMMIT < Adr.LOD_WIN_MATCH w ∧ Adr.LOD_WIN_COMMIT < Adr.LOD_WIN_RANGE w
    ∧ Adr.LOD_WIN_COMMIT < Adr.LOD_WIN_MAP w) ∧ Adr.LOD_WIN_COMMIT < Adr.LOD_WIN_MATCH_A w
    ∧ Adr.LOD_WIN_COMMIT < Adr.LOD_WIN_RANGE_A w ∧ Adr.LOD_WIN_COMMIT < Adr.LOD_WIN_MAP_A w := by
  unfold Adr.LOD_WIN_COMMIT Adr.LOD_WIN_MATCH Adr.LOD_WIN_RANGE Adr.LOD_WIN_MAP Adr.LOD_WIN_MATCH_A Adr.LOD_WIN_RANGE_A Adr.LOD_WIN_MAP_A
  omega

theorem State.setReg_commit_windows (s : State) (v : Word) (w : Nat) : (s.setReg Adr.LOD_WIN_COMMIT v).window w = s.window w
    ∧ (s.setReg Adr.LOD_WIN_COMMIT v).activeWindow w = s.activeWindow w := by
  have hreg {a : Nat} (h : Adr.LOD_WIN_COMMIT < a) : (s.setReg Adr.LOD_WIN_COMMIT v).reg a = s.reg a :=
    s.reg_setReg_other v (Nat.ne_of_gt h)
  obtain ⟨⟨hmatch, hrange, hmap⟩, hmatchA, hrangeA, hmapA⟩ := winCommit_below w
  unfold State.window State.activeWindow
  rw [hreg hmatch, hreg hrange, hreg hmap, hreg hmatchA, hreg hrangeA, hreg hmapA]
  exact ⟨rfl, rfl⟩

/-- The commits of `y` take effect: the windows of the mask are active as their shadow sets stand, which stay, and the bits read 0. -/
theorem windowCommitEffect_copies {y : State} (hio : y.takesIo Adr.LOD_WIN_COMMIT = true) : ∃ z : State,
    exec .windowCommitEffect y = .next z ∧ z.reg Adr.LOD_WIN_COMMIT = 0 ∧ z.mem = y.mem ∧ z.lode = y.lode
      ∧ ∀ w, w < 64 → z.window w = y.window w ∧ z.activeWindow w
          = if (y.reg Adr.LOD_WIN_COMMIT).toNat.testBit w = true then y.window w else y.activeWindow w := by
  obtain ⟨hlode, hmem, hreg⟩ := y.copyWindows_leaves (y.reg Adr.LOD_WIN_COMMIT).toNat 64 0
  refine ⟨_, (windowCommitEffect_eq y).trans (congrArg _ (if_pos hio)), State.reg_setReg_same _ _ _,
    (State.setReg_mem _ _ _).trans hmem, (State.setReg_lode _ _ _).trans hlode, fun w hw => ?_⟩
  obtain ⟨hshadow, hactive⟩ := State.setReg_commit_windows (y.copyWindows (y.reg Adr.LOD_WIN_COMMIT).toNat 64 0) 0 w
  obtain ⟨hmatch, hrange, hmap⟩ := notActive_shadow w
  refine ⟨hshadow.trans ?_, ?_⟩
  · unfold State.window
    rw [hreg _ hmatch, hreg _ hrange, hreg _ hmap]
  · have hin : (0 ≤ w ∧ w < 0 + 64) := by omega
    rw [hactive, State.copyWindows_active]
    simp only [hin, and_self, true_and]

/-- Settles O38: each command is what its lemma says, read register by register and slot by slot. -/
theorem epochCloseAndWindows : Obligations.EpochCloseAndWindows := by
  refine ⟨fun s hpll hdom => ⟨fun hdue hgather hq hh hmax => ?_, epochClose_waits, fun hinit hnone => ?_, fun b hinit hone => ?_,
    fun slot zero hinit h0 h1 ht0 ht1 => ?_⟩, fun s mask hio => ⟨?_, ?_⟩, fun s mask hio => ?_⟩
  · obtain ⟨hopen, hbound, hpend⟩ := s.moveEpoch_reads
    obtain ⟨hlode, hmem, hdrt, hhew, -⟩ := s.moveEpoch_leaves
    exact ⟨_, epochClose_moves hpll hdom hdue hgather hq hh, hopen.trans (Nat.mod_eq_of_lt hmax), hbound, hpend, hlode, hmem, hdrt,
      hhew⟩
  · rw [initDone_completes hpll hdom hinit, hnone, State.lateAdvances,
      State.noWaiting_of_empty ((congrArg LodeState.waitAdv (s.raise_lode _)).trans hnone)]
  · refine ⟨(s.raise F.LOD_STATUS.INIT_DONE).noWaiting, rfl, ?_, ?_⟩
    · exact (State.flag_of_reg (State.reg_of_regs rfl _)).trans (State.flag_raise s F.LOD_STATUS.INIT_DONE IoField.fits)
    · rw [initDone_completes hpll hdom hinit, hone, State.lateAdvances, State.lateAdvances]
  · have hyoung : (s.slot slot).Young s.openEpoch := ⟨⟨h0, ht0⟩, h1, ht1⟩
    refine ⟨lodeScrub_correctable hpll hdom hinit hyoung zero, ?_⟩
    obtain ⟨y, hexec, hothers, hslot⟩ := lodeScrub_uncorrectable hpll hdom hinit hyoung zero
    unfold State.rewrittenSlot State.rewritten qPoisoned at hslot
    exact ⟨y, hexec, hothers, hslot⟩
  · rw [lodWinCommit_eq, if_neg (by simp [hio])]
  · rw [windowCommitEffect_eq, if_neg (by simp [hio])]
  · have hio' : (s.winCommitWrite mask).takesIo Adr.LOD_WIN_COMMIT = true := by
      unfold State.takesIo State.winCommitWrite at *
      rw [s.setReg_pwr, State.domainOn_of_reg (s.reg_setReg_other _ (by decide))]
      exact hio
    obtain ⟨z, hz, hzero, hmem, hlode, hwin⟩ := windowCommitEffect_copies hio'
    refine ⟨s.winCommitWrite mask, z, ?_, rfl, hz, hzero, hmem.trans (s.setReg_mem _ _), hlode.trans (s.setReg_lode _ _),
      fun w hw => ?_⟩
    · rw [lodWinCommit_eq, if_pos hio]
    · obtain ⟨hshadow, hactive⟩ := hwin w hw
      have hkept : (s.winCommitWrite mask).window w = s.window w := (s.setReg_commit_windows _ w).1
      have hwas : (s.winCommitWrite mask).activeWindow w = s.activeWindow w := (s.setReg_commit_windows _ w).2
      rw [hkept] at hshadow hactive
      rw [hwas] at hactive
      refine ⟨congrArg (·.1) hshadow, congrArg (·.2.1) hshadow, congrArg (·.2.2) hshadow, fun hbit => ?_, fun hbit => ?_⟩
      · rw [if_pos hbit] at hactive
        exact ⟨congrArg (·.1) hactive, congrArg (·.2.1) hactive, congrArg (·.2.2) hactive⟩
      · rw [if_neg (by simp [hbit])] at hactive
        exact congrArg (·.1) hactive

end Sys2Proof.Machine

/-!
PROOFS. The task commands (R140 to R144): what a write of DRT_CMD holds, what the checks of a descriptor depend on, the end of
DISABLE and UPDATE, and the settled statement.
-/
namespace Sys2Proof.Machine

/-! ### Tasks of the state -/

@[simp] theorem State.task_setTask_same (s : State) (i : Nat) (x : Task) : (s.setTask i x).task i = x := Table.get_set_same _ _ _ _

theorem State.task_setTask_other (s : State) {i k : Nat} (x : Task) (h : k ≠ i) : (s.setTask i x).task k = s.task k :=
  Table.get_set_other _ _ _ _ h

theorem State.task_of_drt {s t : State} (h : t.drt.tasks = s.drt.tasks) (i : Nat) : t.task i = s.task i := by
  unfold State.task
  rw [h]

theorem State.actOf_of_some {s : State} {i : Nat} {a : Activation} (h : (s.task i).act = some a) : s.actOf i = some (i, a) := by
  unfold State.actOf
  rw [h]
  rfl

/-! ### What the draught reads of a descriptor (R137 to R141) -/

/-- `t` shows the draught the descriptors of `s`: DRAM, the place of the region and the sizes of its tables are the same. -/
structure State.SameRegion (s t : State) : Prop where
  mem : t.mem = s.mem
  base : t.reg Adr.DRT_REGION_BASE = s.reg Adr.DRT_REGION_BASE
  tables : t.reg Adr.DRT_TABLES = s.reg Adr.DRT_TABLES

section
variable {s t : State} (h : s.SameRegion t)
include h

theorem State.SameRegion.taskCount : t.taskCount = s.taskCount := State.fld_of_reg h.tables

theorem State.SameRegion.regionBase : t.regionBase = s.regionBase :=
  congrArg (0x100000 * ·) (State.fld_of_reg (f := F.DRT_REGION_BASE.BASE) h.base)

theorem State.SameRegion.regionSize : t.regionSize = s.regionSize :=
  congrArg (· * 0x100000) (State.fld_of_reg (f := F.DRT_REGION_BASE.SIZE_MIB) h.base)

theorem State.SameRegion.rsets : t.fld F.DRT_TABLES.RSETS = s.fld F.DRT_TABLES.RSETS := State.fld_of_reg h.tables

theorem State.SameRegion.readBytes (a n : Nat) : t.readBytes a n = s.readBytes a n := by
  unfold State.readBytes
  rw [h.mem]

theorem State.SameRegion.readDw (a : Nat) : t.readDw a = s.readDw a := congrArg natLE (h.readBytes a 8)

theorem State.SameRegion.readDesc (i : Nat) : t.readDesc i = s.readDesc i := by
  unfold State.readDesc
  simp only [h.readDw, h.regionBase]

theorem State.SameRegion.runs (list n : Nat) : t.runs list n = s.runs list n := by
  unfold State.runs
  simp only [h.readBytes, h.regionBase]

theorem State.SameRegion.badRange (off n : Nat) : t.badRange off n = s.badRange off n := by
  unfold State.badRange State.tableBytes
  rw [h.regionSize, h.taskCount, h.rsets]

theorem State.SameRegion.badList (list n count : Nat) : t.badList list n count = s.badList list n count := by
  unfold State.badList
  rw [h.regionSize, h.runs]

theorem State.SameRegion.badRegion (d : Desc) : t.badRegion d = s.badRegion d := by
  unfold State.badRegion State.regionSet
  simp only [h.badRange, h.rsets, h.regionBase, h.taskCount, h.readDw]

/-- The checks of R141 go by the region and by the room in the event table. -/
theorem State.SameRegion.checkDesc (he : t.drt.events = s.drt.events) (d : Desc) (event : Bool) :
    t.checkDesc d event = s.checkDesc d event := by
  unfold State.checkDesc
  simp only [h.badList, h.badRegion, he]

end

/-! ### A write of DRT_CMD (R140, R143) -/

/-- The state with an operation written to DRT_CMD: `extra` holds FLUSH or the staging index. -/
def State.cmdWritten (s : State) (op extra i : Nat) : State :=
  s.setReg Adr.DRT_CMD (BitVec.ofNat 64 (extra + i * 2 ^ 16 + op * 2))

theorem State.cmdWritten_reg (s : State) (op extra i : Nat) {a : Nat} (h : a ≠ Adr.DRT_CMD) :
    (s.cmdWritten op extra i).reg a = s.reg a := s.reg_setReg_other _ h

theorem State.cmdWritten_sameRegion (s : State) (op extra i : Nat) : s.SameRegion (s.cmdWritten op extra i) :=
  ⟨s.setReg_mem _ _, s.cmdWritten_reg _ _ _ (by decide), s.cmdWritten_reg _ _ _ (by decide)⟩

theorem State.cmdWritten_drtReady (s : State) (op extra i : Nat) : (s.cmdWritten op extra i).drtReady = s.drtReady := by
  unfold State.drtReady
  rw [State.flag_of_reg (s.cmdWritten_reg _ _ _ (by decide)), State.flag_of_reg (s.cmdWritten_reg _ _ _ (by decide))]

theorem State.cmdWritten_task (s : State) (op extra i k : Nat) : (s.cmdWritten op extra i).task k = s.task k := rfl

theorem State.cmdWritten_flushable (s : State) (op extra i k : Nat) : (s.cmdWritten op extra i).flushable k = s.flushable k := rfl

theorem drtCommand_not_taken {s : State} (h : s.takesIo Adr.DRT_CMD = false) (v : Nat) : s.drtCommand v = s := by
  unfold State.drtCommand
  simp [h]

theorem drtCommand_busy {s : State} (h : s.takesIo Adr.DRT_CMD = true) (hb : s.flag F.DRT_CMD_STATUS.BUSY = true) (v : Nat) :
    s.drtCommand v = s.raise F.DRT_STATUS.CMD_REJ := by
  unfold State.drtCommand State.drtCmdWrite
  simp [h, hb]

/-- The fields of a word written to DRT_CMD with GO. -/
theorem cmdWord_fields {i op flush g extra v : Nat} (hx : extra = g * 2 ^ 32 + flush * 16) (hi : i < 2 ^ 16) (ho : op < 8)
    (hf : flush < 2) (hg : g < 2 ^ 16) (hv : v = g * 2 ^ 32 + i * 2 ^ 16 + flush * 16 + op * 2 + 1) :
    (BitVec.ofNat 64 v).toNat = v ∧ bitOf v 0 = true
      ∧ bitsOf v 3 1 = op ∧ bitOf v 4 = decide (flush = 1) ∧ bitsOf v 31 16 = i ∧ bitsOf v 47 32 = g
      ∧ bitsOf v 47 16 * 2 ^ 16 + bitsOf v 4 1 * 2 = extra + i * 2 ^ 16 + op * 2 := by
  unfold bitOf bitsOf
  simp only [BitVec.toNat_ofNat, Nat.testBit_eq_decide_div_mod_eq, decide_eq_true_eq, decide_eq_decide]
  refine ⟨?_, ?_, ?_, ?_, ?_, ?_, ?_⟩ <;> omega

section
variable {s : State} (hio : s.takesIo Adr.DRT_CMD = true) (hb : s.flag F.DRT_CMD_STATUS.BUSY = false) (i : BitVec 16)
include hio hb

theorem enable_go : exec (.enable i) s = .next ((s.cmdWritten 1 0 i.toNat).drtEnable i.toNat) := by
  obtain ⟨hn, hgo, hop, -, hindex, -, hkept⟩ := cmdWord_fields (extra := 0) (g := 0) (flush := 0) rfl i.isLt (op := 1)
    (by decide) (by decide) (by decide) (v := i.toNat * 2 ^ 16 + 1 * 2 + 1) (by omega)
  show Host.Outcome.next (s.drtCommand _) = _
  rw [State.drtCommand, if_pos hio, State.drtCmdWrite, if_neg (by simp [hb])]
  simp only [hn, hgo, hop, hindex, hkept, State.cmdWritten, Bool.not_true, Bool.false_eq_true, if_false]

theorem disable_go (flush : Bool) : exec (.disable i flush) s
    = .next ((s.cmdWritten 2 (b2n flush * 16) i.toNat).drtDisable i.toNat flush) := by
  obtain ⟨hn, hgo, hop, hflush, hindex, -, hkept⟩ := cmdWord_fields (g := 0) (flush := b2n flush)
    (extra := b2n flush * 16) (by omega) i.isLt (op := 2) (by decide) (by cases flush <;> decide) (by decide)
    (v := i.toNat * 2 ^ 16 + b2n flush * 16 + 2 * 2 + 1) (by omega)
  have hb2n : decide (b2n flush = 1) = flush := by cases flush <;> rfl
  show Host.Outcome.next (s.drtCommand _) = _
  rw [State.drtCommand, if_pos hio, State.drtCmdWrite, if_neg (by simp [hb])]
  simp only [hn, hgo, hop, hflush, hb2n, hindex, hkept, State.cmdWritten, Bool.not_true, Bool.false_eq_true, if_false]

theorem update_go (g : BitVec 16) : exec (.update i g) s
    = .next ((s.cmdWritten 3 (g.toNat * 2 ^ 32) i.toNat).drtUpdate i.toNat g.toNat) := by
  obtain ⟨hn, hgo, hop, -, hindex, hstaging, hkept⟩ := cmdWord_fields (flush := 0) (extra := g.toNat * 2 ^ 32)
    (by omega) i.isLt (op := 3) (by decide) (by decide) g.isLt (v := g.toNat * 2 ^ 32 + i.toNat * 2 ^ 16 + 3 * 2 + 1) (by omega)
  show Host.Outcome.next (s.drtCommand _) = _
  rw [State.drtCommand, if_pos hio, State.drtCmdWrite, if_neg (by simp [hb])]
  simp only [hn, hgo, hop, hindex, hstaging, hkept, State.cmdWritten, Bool.not_true, Bool.false_eq_true, if_false]

end

/-! ### ENABLE (R140, R141) -/

theorem State.drtEnable_outside {s : State} {i : Nat} (h : s.taskCount ≤ i) : s.drtEnable i = s.cmdEnd 0x01 := if_pos h

section
variable {s : State} {i : Nat} (hi : i < s.taskCount) (hr : s.drtReady = true) (he : (s.task i).enabled = false)
include hi hr he

theorem State.drtEnable_refused (hc : s.checkDesc (s.readDesc i) ((s.readDesc i).trigger = 1) ≠ 0) :
    s.drtEnable i = s.cmdEnd (s.checkDesc (s.readDesc i) ((s.readDesc i).trigger = 1)) := by
  unfold State.drtEnable
  simp [Nat.not_le.mpr hi, hr, he, hc]

theorem State.drtEnable_arms (hc : s.checkDesc (s.readDesc i) ((s.readDesc i).trigger = 1) = 0) : s.drtEnable i
    = ((s.setTask i (Task.reset.arm (s.readDesc i) s.time.now)).eventEntry i ((s.readDesc i).trigger = 1)).cmdEnd 0 := by
  unfold State.drtEnable
  simp [Nat.not_le.mpr hi, hr, he, hc]

end

/-! ### DISABLE and UPDATE up to their wait (R140) -/

section
variable {s : State} {i : Nat} (hi : i < s.taskCount) (hr : s.drtReady = true) (he : (s.task i).enabled = true)
include hi hr he

theorem State.drtDisable_waits (flush : Bool) : s.drtDisable i flush
    = ((if flush && s.flushable i then s.dropActivation i else s).modTask i (fun t => { t with stopping := true })).cmdWait := by
  unfold State.drtDisable
  simp [Nat.not_le.mpr hi, hr, he]

theorem State.drtUpdate_waits {g : Nat} (hg : g < s.taskCount) (hd : (s.task g).enabled = false) : s.drtUpdate i g = s.cmdWait := by
  unfold State.drtUpdate
  simp [Nat.not_le.mpr hi, Nat.not_le.mpr hg, hr, he, hd]

end

/-! ### The ends (R140, R142) -/

theorem State.cmdEnd_result (s : State) (r : Nat) : (s.cmdEnd r).fld F.DRT_CMD_STATUS.RESULT = r % 2 ^ 8 := by
  unfold State.cmdEnd
  rw [State.fld_setFld_other _ _ _ _ IoField.fits (by decide)]
  exact State.fld_setFld_same _ _ _ IoField.fits

theorem State.cmdEnd_idle (s : State) (r : Nat) : (s.cmdEnd r).flag F.DRT_CMD_STATUS.BUSY = false :=
  State.flag_setFld_zero _ _ IoField.fits

theorem State.cmdEnd_leaves (s : State) (r : Nat) : (s.cmdEnd r).drt = s.drt ∧ (s.cmdEnd r).mem = s.mem
    ∧ (s.cmdEnd r).hewers = s.hewers := by
  unfold State.cmdEnd
  rw [State.setFld_drt, State.setFld_drt, State.setFld_mem, State.setFld_mem, State.setFld_hewers, State.setFld_hewers]
  exact ⟨rfl, rfl, rfl⟩

theorem State.cmdEnd_task (s : State) (r k : Nat) : (s.cmdEnd r).task k = s.task k :=
  State.task_of_drt (congrArg DraughtState.tasks (s.cmdEnd_leaves r).1) k

theorem State.cmdEnd_events (s : State) (r : Nat) : (s.cmdEnd r).drt.events = s.drt.events :=
  congrArg DraughtState.events (s.cmdEnd_leaves r).1

theorem State.eventEntry_task (s : State) (i : Nat) (event : Bool) (k : Nat) : (s.eventEntry i event).task k = s.task k := rfl

theorem State.eventEntry_events (s : State) (i : Nat) (event : Bool) : (s.eventEntry i event).drt.events
    = (s.drt.events.filter (fun x => x != i)) ++ (if event = true then [i] else []) := by
  cases event
  · exact (List.append_nil _).symm
  · rfl

theorem State.cmdBusy_of {s : State} {op i g : Nat} (hb : s.flag F.DRT_CMD_STATUS.BUSY = true) (ho : s.fld F.DRT_CMD.OP = op)
    (hi : s.fld F.DRT_CMD.INDEX = i) (hg : s.fld F.DRT_CMD.STAGING = g) : s.cmdBusy op = some (i, g) := by
  simp [State.cmdBusy, hb, ho, hi, hg]

theorem disableComplete_ends {s : State} {i g : Nat} (hrun : s.draughtRuns = true) (hc : s.cmdBusy 2 = some (i, g))
    (ha : (s.task i).act = none) : exec .disableComplete s = .next ((s.disableTask i).cmdEnd 0) := by
  show execDisableComplete s = _
  simp [execDisableComplete, done, hc, ha, hrun]

theorem State.disableTask_task (s : State) (i : Nat) : (s.disableTask i).task i = Task.reset := s.task_setTask_same i Task.reset

theorem State.disableTask_not_event (s : State) (i : Nat) : i ∉ (s.disableTask i).drt.events := by
  show i ∉ s.drt.events.filter (fun x => x != i)
  simp

theorem updateCopy_copies {s : State} {i g : Nat} (hrun : s.draughtRuns = true) (hc : s.cmdBusy 3 = some (i, g))
    (hr : s.drtReady = true) (he : (s.task i).enabled = true) (ha : (s.task i).act = none) :
    exec .updateCopy s = .next (s.drtUpdateCopy i g) := by
  show execUpdateCopy s = _
  simp [execUpdateCopy, done, hrun, State.updateCopy, hc, hr, he, ha]

theorem State.drtUpdateCopy_passed {s : State} {i g : Nat} (hp : s.poisoned (s.regionBase + g * 128) 128 = false)
    (hc : s.checkDesc (s.readDesc g) ((s.readDesc g).trigger = 1 && (s.task i).trigger != 1) = 0) : s.drtUpdateCopy i g
      = ((((s.dmaWriteBy 0x800 (s.regionBase + i * 128) (s.readBytes (s.regionBase + g * 128) 128)).modTask i
          (fun t => { t.arm (s.readDesc g) s.time.now with lastStamp := t.lastStamp })).eventEntry i
            ((s.readDesc g).trigger = 1)).cmdEnd 0) := by
  unfold State.drtUpdateCopy
  simp only [hc, hp, bne_self_eq_false, Bool.false_eq_true, if_false, srcDraught]


/-! ### The statement -/

/-- What ENABLE leaves of a task that passed its checks. -/
theorem enable_arms {s : State} (hio : s.takesIo Adr.DRT_CMD = true) (hb : s.flag F.DRT_CMD_STATUS.BUSY = false) {i : BitVec 16}
    (hi : i.toNat < s.taskCount) (hr : s.drtReady = true) (he : (s.task i.toNat).enabled = false)
    (hc : s.checkDesc (s.readDesc i.toNat) ((s.readDesc i.toNat).trigger = 1) = 0) : ∃ t, exec (.enable i) s = .next t
      ∧ t.task i.toNat = Task.reset.arm (s.readDesc i.toNat) s.time.now
      ∧ t.drt.events = (s.drt.events.filter (fun x => x != i.toNat)) ++ (if (s.readDesc i.toNat).trigger = 1 then [i.toNat] else [])
      ∧ t.fld F.DRT_CMD_STATUS.RESULT = 0 ∧ t.flag F.DRT_CMD_STATUS.BUSY = false ∧ t.mem = s.mem ∧ t.hewers = s.hewers
      ∧ ∀ k, k ≠ i.toNat → t.task k = s.task k := by
  have hw := s.cmdWritten_sameRegion 1 0 i.toNat
  have hexec := enable_go hio hb i
  rw [State.drtEnable_arms (hw.taskCount ▸ hi) ((s.cmdWritten_drtReady _ _ _).trans hr) he
    (by rw [hw.readDesc, hw.checkDesc rfl, hc]), hw.readDesc] at hexec
  obtain ⟨-, hmem, hhew⟩ := State.cmdEnd_leaves (((s.cmdWritten 1 0 i.toNat).setTask i.toNat
    (Task.reset.arm (s.readDesc i.toNat) s.time.now)).eventEntry i.toNat ((s.readDesc i.toNat).trigger = 1)) 0
  refine ⟨_, hexec, ?_, ?_, State.cmdEnd_result _ _, State.cmdEnd_idle _ _, hmem, hhew, fun k hk => ?_⟩
  · rw [State.cmdEnd_task, State.eventEntry_task, State.task_setTask_same]
    rfl
  · rw [State.cmdEnd_events, State.eventEntry_events]
    simp only [decide_eq_true_eq]
    rfl
  · rw [State.cmdEnd_task, State.eventEntry_task, State.task_setTask_other _ _ hk, State.cmdWritten_task]

theorem disable_waits {s : State} (hio : s.takesIo Adr.DRT_CMD = true) (hb : s.flag F.DRT_CMD_STATUS.BUSY = false) {i : BitVec 16}
    (hi : i.toNat < s.taskCount) (hr : s.drtReady = true) (he : (s.task i.toNat).enabled = true) (flush : Bool) :
    exec (.disable i flush) s = .next (((if flush && s.flushable i.toNat
      then (s.cmdWritten 2 (b2n flush * 16) i.toNat).dropActivation i.toNat
      else s.cmdWritten 2 (b2n flush * 16) i.toNat).modTask i.toNat (fun t => { t with stopping := true })).cmdWait) := by
  have hw := s.cmdWritten_sameRegion 2 (b2n flush * 16) i.toNat
  rw [disable_go hio hb, State.drtDisable_waits (hw.taskCount ▸ hi) ((s.cmdWritten_drtReady _ _ _).trans hr)
    ((congrArg Task.enabled (s.cmdWritten_task _ _ _ _)).trans he), s.cmdWritten_flushable]

theorem update_waits {s : State} (hio : s.takesIo Adr.DRT_CMD = true) (hb : s.flag F.DRT_CMD_STATUS.BUSY = false) {i g : BitVec 16}
    (hi : i.toNat < s.taskCount) (hr : s.drtReady = true) (he : (s.task i.toNat).enabled = true) (hg : g.toNat < s.taskCount)
    (hd : (s.task g.toNat).enabled = false) :
    exec (.update i g) s = .next (s.cmdWritten 3 (g.toNat * 2 ^ 32) i.toNat).cmdWait := by
  have hw := s.cmdWritten_sameRegion 3 (g.toNat * 2 ^ 32) i.toNat
  rw [update_go hio hb, State.drtUpdate_waits (hw.taskCount ▸ hi) ((s.cmdWritten_drtReady _ _ _).trans hr)
    ((congrArg Task.enabled (s.cmdWritten_task _ _ _ _)).trans he) (hw.taskCount ▸ hg)
    ((congrArg Task.enabled (s.cmdWritten_task _ _ _ _)).trans hd)]

theorem enable_refused {s : State} (hio : s.takesIo Adr.DRT_CMD = true) (hb : s.flag F.DRT_CMD_STATUS.BUSY = false) {i : BitVec 16}
    (hi : i.toNat < s.taskCount) (hr : s.drtReady = true) (he : (s.task i.toNat).enabled = false)
    (hc : s.checkDesc (s.readDesc i.toNat) ((s.readDesc i.toNat).trigger = 1) ≠ 0) : exec (.enable i) s
      = .next ((s.cmdWritten 1 0 i.toNat).cmdEnd (s.checkDesc (s.readDesc i.toNat) ((s.readDesc i.toNat).trigger = 1))) := by
  have hw := s.cmdWritten_sameRegion 1 0 i.toNat
  have hsame : (s.cmdWritten 1 0 i.toNat).checkDesc ((s.cmdWritten 1 0 i.toNat).readDesc i.toNat)
      (((s.cmdWritten 1 0 i.toNat).readDesc i.toNat).trigger = 1)
        = s.checkDesc (s.readDesc i.toNat) ((s.readDesc i.toNat).trigger = 1) := by rw [hw.readDesc, hw.checkDesc rfl]
  rw [enable_go hio hb, State.drtEnable_refused (hw.taskCount ▸ hi) ((s.cmdWritten_drtReady _ _ _).trans hr) he
    (fun h => hc (hsame.symm.trans h)), hsame]

/-- Settles O28: each command by the lemma that says what its write, its checks and its end do. -/
theorem taskCommands : Obligations.TaskCommands := by
  refine ⟨fun i g flush s => ⟨fun hio => ?_, fun hio hb => ?_, fun hio hb => ⟨fun hout => ?_, fun hi hr =>
      ⟨fun he => ⟨enable_arms hio hb hi hr he, enable_refused hio hb hi hr he⟩,
        fun he => ⟨disable_waits hio hb hi hr he false, disable_waits hio hb hi hr he true, update_waits hio hb hi hr he⟩⟩⟩⟩,
    fun s i k hrun hb hindex hstaging ha => ⟨fun hop => ?_, fun hop hr he hp hc => ?_⟩⟩
  · simp only [List.forall_mem_cons]
    exact ⟨congrArg _ (drtCommand_not_taken hio _), congrArg _ (drtCommand_not_taken hio _), congrArg _ (drtCommand_not_taken hio _),
      List.forall_mem_nil _⟩
  · simp only [List.forall_mem_cons]
    exact ⟨congrArg _ (drtCommand_busy hio hb _), congrArg _ (drtCommand_busy hio hb _), congrArg _ (drtCommand_busy hio hb _),
      List.forall_mem_nil _⟩
  · have hw := s.cmdWritten_sameRegion 1 0 i.toNat
    rw [enable_go hio hb, State.drtEnable_outside (hw.taskCount ▸ hout)]
    rfl
  · exact ⟨_, disableComplete_ends hrun (State.cmdBusy_of hb hop hindex hstaging) ha,
      (State.cmdEnd_task _ _ _).trans (s.disableTask_task i), State.cmdEnd_result _ _, State.cmdEnd_idle _ _,
      fun hm => s.disableTask_not_event i (State.cmdEnd_events _ _ ▸ hm)⟩
  · rw [updateCopy_copies hrun (State.cmdBusy_of hb hop hindex hstaging) hr he ha, State.drtUpdateCopy_passed hp hc]

end Sys2Proof.Machine

/-!
PROOFS. The releases (R144 to R151): commanded and periodic, the activation they make, and the settled statement.
-/
namespace Sys2Proof.Machine

/-! ### What the registers alone decide of a release -/

theorem State.stamp_regs (s : State) (loc : Nat) : (s.stamp loc).2.regs = s.regs := rfl

theorem State.stamp_task (s : State) (loc i : Nat) : (s.stamp loc).2.task i = s.task i := State.task_of_drt rfl i

section
variable {s t : State} (h : t.regs = s.regs)
include h

theorem State.releasesHeld_of_regs : t.releasesHeld = s.releasesHeld := by
  unfold State.releasesHeld
  rw [State.mode_of_reg (State.reg_of_regs h _)]

theorem State.drtReady_of_regs : t.drtReady = s.drtReady := by
  unfold State.drtReady
  rw [State.flag_of_reg (State.reg_of_regs h _), State.flag_of_reg (State.reg_of_regs h _)]

theorem State.taskCount_of_regs : t.taskCount = s.taskCount := State.fld_of_reg (State.reg_of_regs h _)

theorem State.cmdBusy_of_regs (op : Nat) : t.cmdBusy op = s.cmdBusy op := by
  unfold State.cmdBusy
  rw [State.flag_of_reg (State.reg_of_regs h _), State.fld_of_reg (f := F.DRT_CMD.OP) (State.reg_of_regs h _),
    State.fld_of_reg (f := F.DRT_CMD.INDEX) (State.reg_of_regs h _), State.fld_of_reg (f := F.DRT_CMD.STAGING) (State.reg_of_regs h _)]

theorem State.snapshotEnd_of_regs (time : Nat) : t.snapshotEnd time = s.snapshotEnd time := by
  unfold State.snapshotEnd State.beyondPending
  rw [State.flag_of_reg (State.reg_of_regs h _), State.fld_of_reg (f := F.LOD_PEND_B.BOUNDARY) (State.reg_of_regs h _),
    State.fld_of_reg (f := F.LOD_OPEN_B.BOUNDARY) (State.reg_of_regs h _)]

end

/-- With no UPDATE of the task pending nothing comes before its release (R140). -/
theorem State.updateFirst_of_other {s : State} {i : Nat} (h : (s.cmdBusy 3).all (fun p => p.1 != i) = true) : s.updateFirst i = s := by
  unfold State.updateFirst
  split
  · next j g hc =>
    rw [hc, Option.all_some, bne_iff_ne] at h
    exact if_neg h
  · rfl

/-! ### The activation (R131, R145, R146) -/

theorem State.advancesFirst_of_none {s : State} {t : Nat} (h : ∀ n, n < 64 → s.owesAdvance t n = false) (k : Nat) :
    s.advancesFirst t k = s := by
  have hnone : (List.range 64).filter (s.owesAdvance t) = [] :=
    List.filter_eq_nil_iff.mpr (fun n hn => by simp [h n (List.mem_range.mp hn)])
  cases k with
  | zero => rfl
  | succ j =>
    rw [State.advancesFirst, hnone]
    exact ite_self _

/-- The descriptor of task `i` is read at the hub. -/
def State.descRead (s : State) (i : Nat) : State := s.hubAccess (s.regionBase + i * 128) 128 0x800 false

/-- The accepted release gives task `i` its activation. -/
def State.activated (s : State) (i time source : Nat) : State := (s.descRead i).modTask i (fun t =>
  { t with act := some (newActivation (s.readDesc i) time source (s.snapshotEnd time)), lastStamp := some time })

theorem State.acceptRelease_clean {s : State} {i : Nat} (h : s.poisonAt (s.regionBase + i * 128) 128 = none) (time source : Nat) :
    s.acceptRelease i time source false = s.activated i time source := by
  have hsnap := State.snapshotEnd_of_regs (s.hubAccess_regs (s.regionBase + i * 128) 128 srcDraught false) time
  unfold State.acceptRelease
  simp only [h, Bool.false_and, Bool.false_eq_true, if_false, hsnap]
  rfl

theorem State.acceptRelease_poisoned {s : State} {i p : Nat} (h : s.poisonAt (s.regionBase + i * 128) 128 = some p)
    (time source : Nat) : s.acceptRelease i time source false
      = ((s.descRead i).modTask i (fun t => { t with lastStamp := some time })).logDescUe i 0 p := by
  unfold State.acceptRelease
  simp only [h]
  rfl

section
variable {s : State} {i : Nat} (hheld : s.releasesHeld = false) (hr : s.drtReady = true) (hstop : (s.task i).stopping = false)
include hheld hr hstop

theorem State.releaseTask_accepts (ha : (s.task i).act = none) (time source : Nat) : s.releaseTask i time source false
    = (s.advancesFirst time 64).acceptRelease i time source false := by
  unfold State.releaseTask
  simp [hheld, hr, hstop, ha]

theorem State.releaseTask_skips (ha : (s.task i).act ≠ none) (time source : Nat) : s.releaseTask i time source false
    = s.skipRelease i time source 0x22 1 := by
  unfold State.releaseTask
  simp [hheld, hr, hstop, Option.isSome_iff_ne_none.mpr ha]

end

/-! ### COMMANDED_RELEASE (R148, R151) -/

theorem commandedRelease_eq (i : BitVec 16) (loc : BitVec 12) (s : State) : exec (.commandedRelease i loc) s
    = .next (if s.takesIo Adr.DRT_RELEASE
        then (s.stamp loc.toNat).2.commandRelease i.toNat (s.stamp loc.toNat).1 (s.source loc.toNat) else s) := rfl

theorem State.commandRelease_held {s : State} (h : s.releasesHeld = true) (i time source : Nat) : s.commandRelease i time source = s :=
  if_pos h

section
variable {s : State} {i : Nat} (hheld : s.releasesHeld = false) (hu : s.updateFirst i = s)
include hheld hu

theorem State.commandRelease_other (h : s.taskCount ≤ i ∨ (s.task i).enabled = false ∨ (s.task i).trigger ≠ 2) (time source : Nat) :
    s.commandRelease i time source = s.count F.DRT_EVT_COUNTS.DROPPED 1 := by
  unfold State.commandRelease
  rw [if_neg (by simp [hheld]), hu]
  refine if_pos ?_
  rcases h with h | h | h <;> simp [h]

theorem State.commandRelease_own (hi : i < s.taskCount) (he : (s.task i).enabled = true) (ht : (s.task i).trigger = 2)
    (time source : Nat) : s.commandRelease i time source = s.releaseTask i time source false := by
  unfold State.commandRelease
  rw [if_neg (by simp [hheld]), hu]
  exact if_neg (by simp [Nat.not_le.mpr hi, he, ht])

end

/-! ### PERIODIC_RELEASE (R80, R81, R144, R150) -/

section
variable {s : State} {i : BitVec 16} {t : Nat} (hfirst : firstPair s.duePeriodic = some (t, i.toNat))
include hfirst

theorem periodicRelease_waits (hturn : s.releaseTurn t i.toNat s.dueCommanded = false) : exec (.periodicRelease i) s = .next s := by
  show execPeriodicRelease i s = _
  simp [execPeriodicRelease, done, hfirst, hturn]

theorem periodicRelease_fires (hturn : s.releaseTurn t i.toNat s.dueCommanded = true) (hu : s.updateFirst i.toNat = s) :
    exec (.periodicRelease i) s = .next (s.firePeriodic i.toNat t) := by
  show execPeriodicRelease i s = _
  simp [execPeriodicRelease, done, hfirst, hturn, hu]

end

theorem periodsPast_once {t p now : Nat} (h : t ≤ now) (hp : now < t + p) : periodsPast t p now = 1 := by
  rw [periodsPast_of_due h, Nat.div_eq_of_lt (by omega)]

section
variable {s : State} {i t : Nat} (hk : periodsPast t (s.task i).period s.time.now = 1)
include hk

theorem State.firePeriodic_moves (hstop : (s.task i).stopping = true) :
    s.firePeriodic i t = s.modTask i (fun x => { x with nextRel := t + (s.task i).period }) := by
  unfold State.firePeriodic
  simp [hk, hstop]

theorem State.firePeriodic_releases (hheld : s.releasesHeld = false) (hstop : (s.task i).stopping = false) : s.firePeriodic i t
    = (s.releaseTask i t (s.source 0x800) false).modTask i (fun x => { x with nextRel := t + (s.task i).period }) := by
  unfold State.firePeriodic
  simp [hk, hstop, hheld, srcDraught]

end

/-! ### The statement -/

/-- A commanded release of the task commanded, in each of its cases. -/
theorem commandedRelease_own {s : State} {i : BitVec 16} {loc : BitVec 12} (hio : s.takesIo Adr.DRT_RELEASE = true)
    (hheld : s.releasesHeld = false) (hu : (s.cmdBusy 3).all (fun p => p.1 != i.toNat) = true) (hi : i.toNat < s.taskCount)
    (he : (s.task i.toNat).enabled = true) (ht : (s.task i.toNat).trigger = 2) (hr : s.drtReady = true)
    (hstop : (s.task i.toNat).stopping = false) :
    let u := (s.stamp loc.toNat).2
    let t0 := (s.stamp loc.toNat).1
    ((s.task i.toNat).act = none → exec (.commandedRelease i loc) s
      = .next ((u.advancesFirst t0 64).acceptRelease i.toNat t0 (s.source loc.toNat) false))
    ∧ ((s.task i.toNat).act ≠ none → exec (.commandedRelease i loc) s
      = .next (u.skipRelease i.toNat t0 (s.source loc.toNat) 0x22 1)) := by
  intro u t0
  have hregs : u.regs = s.regs := s.stamp_regs _
  have htask : u.task i.toNat = s.task i.toNat := s.stamp_task _ _
  have huu : u.updateFirst i.toNat = u := State.updateFirst_of_other (State.cmdBusy_of_regs hregs 3 ▸ hu)
  have hh := (State.releasesHeld_of_regs hregs).trans hheld
  have hrr := (State.drtReady_of_regs hregs).trans hr
  rw [← htask] at he ht hstop ⊢
  rw [commandedRelease_eq, if_pos hio, State.commandRelease_own hh huu (State.taskCount_of_regs hregs ▸ hi) he ht]
  exact ⟨fun ha => congrArg _ (State.releaseTask_accepts hh hrr hstop ha _ _),
    fun ha => congrArg _ (State.releaseTask_skips hh hrr hstop ha _ _)⟩

/-- Settles O29: a release is held, dropped, skipped or accepted as its lemma says, and an accepted one makes the activation. -/
theorem releasesMakeActivations : Obligations.ReleasesMakeActivations := by
  intro i loc s hu u t0 src task takes read made clean moves
  refine ⟨fun hio => ?_, fun hio hheld => ?_, fun hheld => ⟨fun hio h => ?_, fun hio hi he ht hr hstop => ?_, fun t hfirst hturn hnow hp => ?_⟩,
    fun t hfirst hturn => periodicRelease_waits hfirst hturn, fun t h => State.advancesFirst_of_none h 64,
    fun d time source snap => ⟨rfl, rfl, rfl, rfl, rfl, rfl⟩⟩
  · rw [commandedRelease_eq, if_neg (by simp [hio])]
  · rw [commandedRelease_eq, if_pos hio, State.commandRelease_held ((State.releasesHeld_of_regs (s.stamp_regs _)).trans hheld)]
  · have hregs : u.regs = s.regs := s.stamp_regs _
    have htask : u.task i.toNat = s.task i.toNat := s.stamp_task _ _
    rw [commandedRelease_eq, if_pos hio, State.commandRelease_other ((State.releasesHeld_of_regs hregs).trans hheld)
      (State.updateFirst_of_other (State.cmdBusy_of_regs hregs 3 ▸ hu)) (by rwa [State.taskCount_of_regs hregs, htask])]
  · obtain ⟨haccepts, hskips⟩ := commandedRelease_own (loc := loc) hio hheld hu hi he ht hr hstop
    exact ⟨fun ha hclean => (haccepts ha).trans (congrArg _ (State.acceptRelease_clean hclean _ _)),
      fun ha p hp => (haccepts ha).trans (congrArg _ (State.acceptRelease_poisoned hp _ _)), hskips⟩
  · have hk := periodsPast_once hnow hp
    rw [periodicRelease_fires hfirst hturn (State.updateFirst_of_other hu)]
    refine ⟨fun hr hstop ha hclean => ?_, fun hstop => congrArg _ (State.firePeriodic_moves hk hstop)⟩
    rw [State.firePeriodic_releases hk hheld hstop, State.releaseTask_accepts hheld hr hstop ha, State.acceptRelease_clean hclean]
    rfl

end Sys2Proof.Machine

/-!
PROOFS. From the release to the hewer's queue (R152, R172, R179, R181, R188 to R191): gather, landing, the distributor's move, the
deadline, and the settled statement.
-/
namespace Sys2Proof.Machine

/-! ### A draught that stands (R32, R838) -/

theorem draughtCommands_idle {s : State} (h : s.draughtRuns = false) (g : Fin 64) (index : BitVec 16) {c : Instr}
    (hc : c ∈ [Instr.gatherStart, .packetLanded index, .noPlacement index, .deadlineMiss index, .distributorMove g]) :
    exec c s = .next s := by
  simp only [List.mem_cons, List.not_mem_nil, or_false] at hc
  rcases hc with rfl | rfl | rfl | rfl | rfl
  · show execGatherStart s = _
    simp [execGatherStart, done, h]
  · show execPacketLanded index s = _
    cases hact : s.actOf index.toNat <;> simp [execPacketLanded, done, h, hact]
  · show execNoPlacement index s = _
    cases hact : s.actOf index.toNat <;> simp [execNoPlacement, done, h, hact]
  · show execDeadlineMiss index s = _
    cases hact : s.actOf index.toNat <;> simp [execDeadlineMiss, done, h, hact]
  · show execDistributorMove g s = _
    simp [execDistributorMove, done, h]

/-! ### GATHER_START (R152, R179, R186 to R189) -/

section
variable {s : State} (hrun : s.draughtRuns = true) (hall : (s.waitingGather.any (fun x => !(s.affinityInPool x.2))) = false)
include hrun hall

theorem gatherStart_full (h : 16 ≤ s.enginesBusy) : exec .gatherStart s = .next s := by
  show execGatherStart s = _
  simp only [execGatherStart, done, State.gatherStart, hrun, hall, if_pos h, if_true, Bool.false_eq_true, if_false]

theorem gatherStart_takes (h : s.enginesBusy < 16) {i : Nat} {a : Activation} (hm : mostUrgent s.servable = some (i, a)) :
    exec .gatherStart s = .next (s.gatherTask i a) := by
  show execGatherStart s = _
  simp only [execGatherStart, done, State.gatherStart, hrun, hall, if_neg (Nat.not_le.mpr h), hm, if_true, Bool.false_eq_true, if_false]

end

theorem State.gatherTask_clean {s : State} {i : Nat} {a : Activation} (h : s.descPoison i a.desc = none) : s.gatherTask i a
    = (s.gatherReads i a.desc).modAct i (fun _ => (s.gather i a).gathered ((s.chooseGallery a 64).getD 0)) := by
  unfold State.gatherTask
  simp only [h]

theorem State.gatherTask_poisoned {s : State} {i p : Nat} {a : Activation} (h : s.descPoison i a.desc = some p) : s.gatherTask i a
    = (s.gatherReads i a.desc).discardDesc i a p := by
  unfold State.gatherTask
  simp only [h]

/-! ### A packet that lands or misses its deadline (R172, R181, R189, R215) -/

section
variable {s : State} {index : BitVec 16} {a : Activation} (hrun : s.draughtRuns = true) (ha : (s.task index.toNat).act = some a)
include hrun ha

theorem packetLanded_eq : exec (.packetLanded index) s
    = .next (if a.stage = .gathering then s.toReady (a.gallery.getD 0) index.toNat else s) := by
  show execPacketLanded index s = _
  simp [execPacketLanded, done, State.actOf_of_some ha, hrun]

/-- Past DEADLINE_AT a waiting release without a pool gallery is dropped, with its miss logged before where it was not yet. -/
theorem noPlacement_drops (hs : a.stage = .heap) (hd : a.deadlineAt ≤ s.time.now) (hp : s.affinityInPool a = false) :
    exec (.noPlacement index) s = .next (((if a.missed then s else s.logMiss index.toNat a).drtLog a.deadlineAt (s.source 0x800) 0x29
      index.toNat a.attempt 0).dropActivation index.toNat) := by
  show execNoPlacement index s = _
  simp [execNoPlacement, done, State.actOf_of_some ha, hrun, hs, hp, State.deadlineCome, hd, srcDraught]

omit hrun in
theorem deadlineMiss_early (h : s.time.now < a.deadlineAt) : exec (.deadlineMiss index) s = .next s := by
  show execDeadlineMiss index s = _
  simp [execDeadlineMiss, done, State.actOf_of_some ha, State.deadlineCome, Nat.not_le.mpr h]

theorem deadlineMiss_come (hs : a.stage ≠ .accepted) (h : a.deadlineAt ≤ s.time.now) : exec (.deadlineMiss index) s
    = .next (let s1 := if a.missed then s else s.logMiss index.toNat a
        if s.pinnedWait a then s1.exhaust index.toNat else s1) := by
  show execDeadlineMiss index s = _
  simp [execDeadlineMiss, done, State.actOf_of_some ha, hrun, hs, State.deadlineCome, h]

end

/-- A packet that waits for its hewer has not been accepted. -/
theorem State.pinnedWait_not_accepted {s : State} {a : Activation} (h : s.pinnedWait a = true) : a.stage ≠ .accepted := by
  intro hs
  simp [State.pinnedWait, hs] at h

/-! ### DISTRIBUTOR_MOVE (R190, R191) -/

theorem distributorMove_moves {s : State} {g : Fin 64} {i h : Nat} (hrun : s.draughtRuns = true) (hstr : s.stranded g = [])
    (hm : s.firstMovable g (s.readyQ g) = some (i, h)) : exec (.distributorMove g) s = .next ((s.dequeue i).toLocal h i) := by
  have hnone : (if (s.readyQ g).length < returnRoom then mostUrgent (s.stranded g) else none) = none := by
    rw [hstr]
    exact ite_self _
  show execDistributorMove g s = _
  simp only [execDistributorMove, done, hrun, if_true, State.distribute, hnone, hm]

/-! ### The statement -/

/-- Settles O30: each event by the lemma that says what it does with the release or packet it meets. -/
theorem gatherLandAndMove : Obligations.GatherLandAndMove := by
  refine ⟨fun g index s h c hc => draughtCommands_idle h g index hc, fun s hrun hall => ⟨gatherStart_full hrun hall,
    fun h i a hm => ⟨fun hclean => ?_, fun p hp => ?_⟩⟩, fun index s a hrun ha => ⟨fun hs => ?_, fun hs => ?_,
      fun hs hd hp hmiss => ?_, fun hs hd hp hmiss => ?_, deadlineMiss_early ha, fun hs hd hmiss hw => ?_, fun hd hmiss hw => ?_⟩,
    fun g s i h hrun hstr hm => distributorMove_moves hrun hstr hm⟩
  · rw [gatherStart_takes hrun hall h hm, State.gatherTask_clean hclean]
    rfl
  · rw [gatherStart_takes hrun hall h hm, State.gatherTask_poisoned hp]
  · rw [packetLanded_eq hrun ha, if_pos hs]
  · rw [packetLanded_eq hrun ha, if_neg hs]
  · rw [noPlacement_drops hrun ha hs hd hp, if_pos hmiss]
  · rw [noPlacement_drops hrun ha hs hd hp, if_neg (by simp [hmiss])]
  · rw [deadlineMiss_come hrun ha (by simp [hs]) hd]
    simp only [hmiss, hw, Bool.false_eq_true, if_false]
    rfl
  · rw [deadlineMiss_come hrun ha (State.pinnedWait_not_accepted hw) hd]
    simp only [hmiss, hw, if_true]

end Sys2Proof.Machine

/-!
PROOFS. The draught's switch, the two tiers of stealing, and the pools (R134, R178, R199, R205 to R210, R216, R221, R835), and the
settled statement.
-/
namespace Sys2Proof.Machine

/-! ### DRT_CTL.EN (R178, R199, R835) -/

theorem drtEnSet_eq (s : State) : exec .drtEnSet s = .next (if s.takesIo Adr.DRT_CTL then s.drtEnSet else s) := rfl

theorem drtEnClear_eq (s : State) : exec .drtEnClear s = .next (if s.takesIo Adr.DRT_CTL then s.drtEnClear else s) := rfl

theorem State.drtEnSet_of_off {s : State} (hm : s.mode = .configure) (he : s.flag F.DRT_CTL.EN = false) : s.drtEnSet
    = if s.drtConfigOk then s.setFld F.DRT_CTL.EN 1 else s.raise F.DRT_STATUS.CFG_ERR := by
  unfold State.drtEnSet
  simp only [hm, he, bne_self_eq_false, Bool.or_self, Bool.false_eq_true, if_false]

theorem State.drtEnClear_of_on {s : State} (hm : s.mode = .configure) (he : s.flag F.DRT_CTL.EN = true) : s.drtEnClear
    = (s.emptyDraught.setFld F.DRT_STATUS.READY 0).setFld F.DRT_CTL.EN 0 := by
  unfold State.drtEnClear
  simp only [hm, he, bne_self_eq_false, Bool.not_true, Bool.or_self, Bool.false_eq_true, if_false]

/-- Outside CONFIGURE, or where DRT_CTL takes no write, EN stays. -/
theorem drtEn_kept {s : State} (h : s.mode ≠ .configure ∨ s.takesIo Adr.DRT_CTL = false) :
    exec .drtEnSet s = .next s ∧ exec .drtEnClear s = .next s := by
  rw [drtEnSet_eq, drtEnClear_eq, State.drtEnSet, State.drtEnClear]
  rcases h with h | h <;> simp [h]

/-- After EN is cleared the draught is off and holds no task, queue or request. -/
theorem State.emptyDraught_off (s : State) :
    let t := (s.emptyDraught.setFld F.DRT_STATUS.READY 0).setFld F.DRT_CTL.EN 0
    t.flag F.DRT_CTL.EN = false ∧ t.flag F.DRT_STATUS.READY = false
      ∧ t.drt.tasks = [] ∧ t.drt.events = [] ∧ t.drt.ready = [] ∧ t.drt.locals = [] ∧ t.drt.t2req = [] := by
  intro t
  have hdrt : t.drt = s.emptyDraught.drt := (State.setFld_drt _ _ _).trans (State.setFld_drt _ _ _)
  have hready : t.flag F.DRT_STATUS.READY = false :=
    (State.flag_setFld_other _ _ _ _ IoField.fits (by decide)).trans (State.flag_setFld_zero _ _ IoField.fits)
  rw [hdrt]
  exact ⟨State.flag_setFld_zero _ _ IoField.fits, hready, rfl, rfl, rfl, rfl, rfl⟩

/-- Locking the region changes, besides the caches, the mark that it is locked (R134). -/
theorem State.mscLock_caches (s : State) : CachesOf { s with drt := { s.drt with locked := true } } s.mscLock :=
  caches_mc (foldl_caches _ _ _ (fun t e h => State.reqPut_caches t e.1 srcDevice true h) rfl)

theorem regionLocked_ready {s : State} (hl : s.pwr.pllLocked = true) (hd : s.domainOn 11 = true) (he : s.flag F.DRT_CTL.EN = true)
    (hr : s.flag F.DRT_STATUS.READY = false) : exec .regionLocked s = .next (s.mscLock.setFld F.DRT_STATUS.READY 1) := by
  show execRegionLocked s = _
  simp only [execRegionLocked, done, hl, hd, he, hr, Bool.not_false, Bool.and_self, if_true]

theorem regionLocked_idle {s : State} (h : s.pwr.pllLocked = false ∨ s.domainOn 11 = false ∨ s.flag F.DRT_CTL.EN = false) :
    exec .regionLocked s = .next s := by
  show execRegionLocked s = _
  rcases h with h | h | h <;> simp [execRegionLocked, done, h]

/-! ### Tier 1 (R205) -/

theorem tier1Steal_eq (h : HewerId) (s : State) : exec (.tier1Steal h) s = .next (if s.draughtRuns then s.tier1 h else s) := rfl

theorem tier1Steal_idle {s : State} (hoff : s.flag F.DRT_DSP_CTL.T1_EN = false ∨ s.draughtRuns = false) (h : HewerId) :
    exec (.tier1Steal h) s = .next s := by
  rw [tier1Steal_eq, State.tier1]
  rcases hoff with hoff | hoff <;> simp [hoff]

theorem tier1Steal_takes {s : State} {h : HewerId} {i : Nat} {counted : Bool} (hrun : s.draughtRuns = true)
    (he : s.flag F.DRT_DSP_CTL.T1_EN = true) (hp : s.tier1Pick h = some (i, counted)) : exec (.tier1Steal h) s
      = .next (if counted then ((s.dequeue i).toLocalHead h i).count F.DRT_DSP_COUNTS.T1_STEALS 1
          else (s.dequeue i).toLocalHead h i) := by
  rw [tier1Steal_eq, if_pos hrun, State.tier1, if_neg (by simp [he]), hp]

/-! ### Tier 2 (R207 to R210) -/

theorem tier2Request_eq (g : Fin 64) (s : State) : exec (.tier2Request g) s = .next (if s.draughtRuns && s.tier2Wants g
    then { s with drt := { s.drt with t2req := insertReq s.drt.t2req (s.time.cyc, g.val) } } else s) := rfl

/-- The first request has left the queue. -/
def State.requestServed (s : State) (rest : List (Nat × Nat)) : State := { s with drt := { s.drt with t2req := rest } }

section
variable {s : State} {cyc g : Nat} {rest : List (Nat × Nat)} (hrun : s.draughtRuns = true) (hq : s.drt.t2req = (cyc, g) :: rest)
include hrun hq

theorem tier2Steal_none (hm : mostUrgent (s.tier2Candidates g) = none) : exec .tier2Steal s
    = .next { s.requestServed rest with
        drt := { (s.requestServed rest).drt with t2again := (s.requestServed rest).drt.t2again.set 0 g (s.time.cyc + 64) } } := by
  show execTier2Steal s = _
  simp only [execTier2Steal, done, hrun, if_true, State.tier2, hq, hm, State.requestServed]

theorem tier2Steal_copies {i : Nat} {a : Activation} (hm : mostUrgent (s.tier2Candidates g) = some (i, a)) : exec .tier2Steal s
    = .next ((((s.requestServed rest).dequeue i).modAct i (fun a => { a with stage := .copying g, stolen := true })).count
        F.DRT_DSP_COUNTS.T2_STEALS 1) := by
  show execTier2Steal s = _
  simp only [execTier2Steal, done, hrun, if_true, State.tier2, hq, hm, State.requestServed]

end

/-- A completed copy goes to the head of the queue of the free hewer of lowest number, else to a hewer with room, else to the ready
queue (R209, log 40). -/
theorem tier2CopyDone_places {s : State} {index : BitVec 16} {a : Activation} {g : Nat} (hrun : s.draughtRuns = true)
    (ha : (s.task index.toNat).act = some a) (hs : a.stage = .copying g) :
    let i := index.toNat
    let hs := (List.range 8).map (fun k => g * 8 + k)
    let pool := hs.find? (fun h => s.hewerInPool h && decide ((s.localQ h).length < 8))
    let free := hs.find? (fun h => s.freeFor h (s.arrivalLevel a.desc.pclass))
    exec (.tier2CopyDone index) s = .next (((free.orElse (fun _ => pool)).map (fun h => s.toLocalHead h i)).getD (s.toReady g i)) := by
  intro i hs' pool free
  show execTier2CopyDone index s = _
  rw [execTier2CopyDone, done, if_pos hrun, State.tier2Done, State.actOf_of_some ha]
  simp only [hs]
  split
  · next h hf => rw [show free = some h from hf]; rfl
  · next h hf hp => rw [show free = none from hf, show pool = some h from hp]; rfl
  · next hf hp => rw [show free = none from hf, show pool = none from hp]; rfl

/-! ### The statement -/

/-- Settles O33: each command by the lemma that says what it does. -/
theorem draughtControl : Obligations.DraughtControl := by
  refine ⟨fun s => ⟨fun hio hm he hc => ?_, fun hio hm he hc => ?_, drtEn_kept, fun hl hd he hr => ⟨regionLocked_ready hl hd he hr,
      s.mscLock_caches.drt, s.mscLock_caches.mem, s.mscLock_caches.regs⟩, regionLocked_idle, fun hio hm he => ?_⟩,
    fun h s => ⟨fun hoff => tier1Steal_idle (.inl hoff) h, fun hoff => tier1Steal_idle (.inr hoff) h, fun i hrun he hp => ?_,
      fun i hrun he hp => ?_⟩,
    fun g s => ⟨fun hrun hw => ?_, fun hoff => ?_⟩,
    fun s cyc g rest hrun hq => ⟨tier2Steal_none hrun hq, fun i a hm => tier2Steal_copies hrun hq hm⟩,
    fun index s a g hrun ha hs => ?_, fun k v s => ⟨?_, ?_⟩⟩
  · rw [drtEnSet_eq, if_pos hio, State.drtEnSet_of_off hm he, if_pos hc]
  · rw [drtEnSet_eq, if_pos hio, State.drtEnSet_of_off hm he, if_neg (by simp [hc])]
  · exact ⟨_, by rw [drtEnClear_eq, if_pos hio, State.drtEnClear_of_on hm he], s.emptyDraught_off⟩
  · exact (tier1Steal_takes hrun he hp).trans (congrArg _ (if_pos rfl))
  · exact (tier1Steal_takes hrun he hp).trans (congrArg _ (if_neg Bool.false_ne_true))
  · rw [tier2Request_eq, if_pos (by simp [hrun, hw])]
  · rw [tier2Request_eq, if_neg (by rcases hoff with h | h <;> simp [h])]
  · have hplaces := tier2CopyDone_places hrun ha hs
    exact ⟨fun h hf => by simpa [hf] using hplaces, fun h hf hp => by simpa [hf, hp] using hplaces,
      fun hf hp => by simpa [hf, hp] using hplaces⟩
  · rfl
  · rfl

end Sys2Proof.Machine

/-!
PROOFS. A body that ends over more than eight buffered stores (R162, R343, R486): the state, and the refutation.

`tend` performs the stores that its hewer has buffered, and the break of the hewer's flow then performs what the buffer still lists.
Each of the two drains eight stores, which is all of them in a buffer of R343; the type of a twin, and so the statement, bounds the
buffer nowhere.
-/
namespace Sys2Proof.Machine

/-! ### The state -/

/-- Nine one-byte stores, which write 1 to the bytes 0 to 8 of DRAM. -/
def nineStores : List StoreEntry := (List.range 9).map (fun n => { pa := n, data := [1], ca := 0, cls := 0, via := none })

/-- The activation that hewer 0 runs: of a descriptor that holds zeros. -/
def plainActivation : Activation := newActivation (decodeDesc (fun _ => 0)) 0 0 0

/-- After reset with every domain on, hewer 0 runs the body of task 0 in U from the boot ROM, with the nine stores buffered. -/
def nineBufferedCold : State :=
  { State.reset with
    regs := [(Adr.PWR_DOM_STATE, 0xFFFFF)]
    drt := { State.reset.drt with tasks := [(0, { Task.reset with act := some plainActivation })] }
    hewers := [(0, { Hewer.reset.setPsf 15 14 0 with started := true, body := some 0 })]
    twins := [(0, { Twin.reset with sbuf := nineStores })] }

/-- The same once the hewer's next word has been fetched, so that the fetch changes nothing more. -/
def nineBuffered : State := (nineBufferedCold.fetchAt 0 0).s

theorem fetchAt_of_quiet {s : State} {h pc : Nat} (hs : (s.fetchAt h pc).s = s) (hr : (s.fetchAt h pc).r.isOk = true) :
    ∃ l, s.fetchAt h pc = ⟨s, .ok l⟩ := by
  generalize s.fetchAt h pc = f at *
  obtain ⟨t, e | l⟩ := f
  · exact absurd hr Bool.false_ne_true
  · exact ⟨l, by rw [show t = s from hs]⟩

theorem nineBuffered_runs : nineBuffered.Runs 0 where
  canon := ⟨by decide +kernel, by decide +kernel, by decide +kernel, by decide +kernel⟩
  can := by decide +kernel
  quiet := by decide +kernel
  unit := by decide +kernel
  rep := by decide +kernel
  ctl := by decide +kernel
  missed := by decide +kernel
  wPoison := by decide +kernel
  vPoison := by decide +kernel
  stepping := by decide +kernel
  sampling := by decide +kernel
  watch := by decide +kernel
  fetch := fetchAt_of_quiet (by decide +kernel) (by decide +kernel)

theorem nineBuffered_act : (nineBuffered.task 0).act = some plainActivation := by decide +kernel

theorem nineBuffered_hewer : (nineBuffered.hew 0).pl ≠ 3 ∧ (nineBuffered.hew 0).body = some 0 := by decide +kernel

/-! ### What the model makes of it -/

/-- The state that an outcome goes on in. -/
def nextState (o : Host.Outcome State Fault Refusal) : Option State :=
  match o with
  | .next t => some t
  | _ => none

theorem nextState_next (t : State) : nextState (.next t) = some t := rfl

/-- The ninth store is performed once `tend` has ended. -/
theorem tend_performs_ninth : (nextState (exec (.tend 0 0) nineBuffered)).map (fun t => t.mem.byte 8) = some 1 := by decide +kernel

/-- The first draining leaves it in the buffer. -/
theorem sbFlush_leaves_ninth : (nineBuffered.sbFlush (0 : HewerId)).mem.byte 8 = 0 := by decide +kernel

/-- Refutes O32: where a buffer lists nine stores, the memory after `tend` is not that of the eight stores drained first. -/
theorem not_bodiesEndAndResultsCommit : ¬ Obligations.BodiesEndAndResultsCommit := by
  rintro ⟨htend, -⟩
  obtain ⟨hpl, hbody⟩ := nineBuffered_hewer
  obtain ⟨t, b, hexec, -, -, -, -, -, -, -, -, -, -, -, hmem⟩ :=
    (htend 0 0 nineBuffered 0 plainActivation nineBuffered_runs nineBuffered_act).1 hpl hbody
  have hninth := tend_performs_ninth
  rw [hexec, nextState_next, Option.map_some, hmem, sbFlush_leaves_ninth] at hninth
  exact absurd hninth (by decide)

end Sys2Proof.Machine

/-!
SUPPORT. Every command and every step keeps the canonical form of the tables: the dispatch over the lemmas of each command.
-/

namespace Sys2Proof.Machine

/-- Every command but the release of power-on reset keeps the device number and the canonical form of the tables. -/
theorem exec_kept {dv : Nat} (s : State) (hs : Kept dv s) :
    ∀ c : Instr, (∀ dn v, c ≠ .pornRise dn v) → OutKept dv (exec c s)
  | .add h rd ra rb, _ => execAdd_kept h rd ra rb s hs
  | .adc h rd ra rb, _ => execAdc_kept h rd ra rb s hs
  | .sub h rd ra rb, _ => execSub_kept h rd ra rb s hs
  | .sbc h rd ra rb, _ => execSbc_kept h rd ra rb s hs
  | .cmp h ra rb, _ => execCmp_kept h ra rb s hs
  | .and h rd ra rb, _ => execAnd_kept h rd ra rb s hs
  | .or h rd ra rb, _ => execOr_kept h rd ra rb s hs
  | .xor h rd ra rb, _ => execXor_kept h rd ra rb s hs
  | .andn h rd ra rb, _ => execAndn_kept h rd ra rb s hs
  | .test h ra rb, _ => execTest_kept h ra rb s hs
  | .shl h rd ra rb, _ => execShl_kept h rd ra rb s hs
  | .shr h rd ra rb, _ => execShr_kept h rd ra rb s hs
  | .sar h rd ra rb, _ => execSar_kept h rd ra rb s hs
  | .ror h rd ra rb, _ => execRor_kept h rd ra rb s hs
  | .mov h rd ra, _ => execMov_kept h rd ra s hs
  | .pick h cond rd ra rb, _ => execPick_kept h cond rd ra rb s hs
  | .mul h rd ra rb, _ => execMul_kept h rd ra rb s hs
  | .mulu h rd ra rb, _ => execMulu_kept h rd ra rb s hs
  | .mulh h rd ra rb, _ => execMulh_kept h rd ra rb s hs
  | .mulhu h rd ra rb, _ => execMulhu_kept h rd ra rb s hs
  | .div h rd ra rb, _ => execDiv_kept h rd ra rb s hs
  | .divu h rd ra rb, _ => execDivu_kept h rd ra rb s hs
  | .rem h rd ra rb, _ => execRem_kept h rd ra rb s hs
  | .remu h rd ra rb, _ => execRemu_kept h rd ra rb s hs
  | .addi h rd ra imm, _ => execAddi_kept h rd ra imm s hs
  | .cmpi h ra imm, _ => execCmpi_kept h ra imm s hs
  | .andi h rd ra imm, _ => execAndi_kept h rd ra imm s hs
  | .ori h rd ra imm, _ => execOri_kept h rd ra imm s hs
  | .xori h rd ra imm, _ => execXori_kept h rd ra imm s hs
  | .shlByImmediate h rd ra count, _ => execShlByImmediate_kept h rd ra count s hs
  | .shrByImmediate h rd ra count, _ => execShrByImmediate_kept h rd ra count s hs
  | .sarByImmediate h rd ra count, _ => execSarByImmediate_kept h rd ra count s hs
  | .rorByImmediate h rd ra count, _ => execRorByImmediate_kept h rd ra count s hs
  | .li h rd imm, _ => execLi_kept h rd imm s hs
  | .movk h rd k imm, _ => execMovk_kept h rd k imm s hs
  | .load h kind rd ra up disp miss, _ => execLoad_kept h kind rd ra up disp miss s hs
  | .store h kind rd ra up disp, _ => execStore_kept h kind rd ra up disp s hs
  | .loadIndexed h kind rd ra rb scale miss, _ => execLoadIndexed_kept h kind rd ra rb scale miss s hs
  | .storeIndexed h kind rd ra rb scale, _ => execStoreIndexed_kept h kind rd ra rb scale s hs
  | .loadReturn h n, _ => execLoadReturn_kept h n s hs
  | .push h ra, _ => execPush_kept h ra s hs
  | .pop h rd, _ => execPop_kept h rd s hs
  | .ldx h wide aq rl rd ra, _ => execLdx_kept h wide aq rl rd ra s hs
  | .stx h wide aq rl rd ra rb, _ => execStx_kept h wide aq rl rd ra rb s hs
  | .amoAdd h wide aq rl rd ra rb, _ => execAmoAdd_kept h wide aq rl rd ra rb s hs
  | .amoSwap h wide aq rl rd ra rb, _ => execAmoSwap_kept h wide aq rl rd ra rb s hs
  | .amoAnd h wide aq rl rd ra rb, _ => execAmoAnd_kept h wide aq rl rd ra rb s hs
  | .amoOr h wide aq rl rd ra rb, _ => execAmoOr_kept h wide aq rl rd ra rb s hs
  | .amoMin h wide aq rl rd ra rb, _ => execAmoMin_kept h wide aq rl rd ra rb s hs
  | .amoMax h wide aq rl rd ra rb, _ => execAmoMax_kept h wide aq rl rd ra rb s hs
  | .amoMinu h wide aq rl rd ra rb, _ => execAmoMinu_kept h wide aq rl rd ra rb s hs
  | .amoMaxu h wide aq rl rd ra rb, _ => execAmoMaxu_kept h wide aq rl rd ra rb s hs
  | .bCond h a cond disp, _ => execBCond_kept h a cond disp s hs
  | .jmp h a disp, _ => execJmp_kept h a disp s hs
  | .call h a disp, _ => execCall_kept h a disp s hs
  | .jmpr h a ra, _ => execJmpr_kept h a ra s hs
  | .callr h a ra, _ => execCallr_kept h a ra s hs
  | .ret h a, _ => execRet_kept h a s hs
  | .fadd h f vd va vb, _ => execFadd_kept h f vd va vb s hs
  | .fsub h f vd va vb, _ => execFsub_kept h f vd va vb s hs
  | .fmul h f vd va vb, _ => execFmul_kept h f vd va vb s hs
  | .fdiv h f vd va vb, _ => execFdiv_kept h f vd va vb s hs
  | .fsqrt h f vd va, _ => execFsqrt_kept h f vd va s hs
  | .fmin h f vd va vb, _ => execFmin_kept h f vd va vb s hs
  | .fmax h f vd va vb, _ => execFmax_kept h f vd va vb s hs
  | .fabs h f vd va, _ => execFabs_kept h f vd va s hs
  | .fneg h f vd va, _ => execFneg_kept h f vd va s hs
  | .fmadd h f vd va vb vc, _ => execFmadd_kept h f vd va vb vc s hs
  | .fmsub h f vd va vb vc, _ => execFmsub_kept h f vd va vb vc s hs
  | .fnmsub h f vd va vb vc, _ => execFnmsub_kept h f vd va vb vc s hs
  | .fnmadd h f vd va vb vc, _ => execFnmadd_kept h f vd va vb vc s hs
  | .fcmp h single va vb, _ => execFcmp_kept h single va vb s hs
  | .fcmpe h single va vb, _ => execFcmpe_kept h single va vb s hs
  | .fcvtI h single wd va, _ => execFcvtI_kept h single wd va s hs
  | .fcvtU h single wd va, _ => execFcvtU_kept h single wd va s hs
  | .icvt h single vd wa, _ => execIcvt_kept h single vd wa s hs
  | .ucvt h single vd wa, _ => execUcvt_kept h single vd wa s hs
  | .fcvtSd h vd va, _ => execFcvtSd_kept h vd va s hs
  | .fcvtDs h vd va, _ => execFcvtDs_kept h vd va s hs
  | .vmovWv h small lane vd wa, _ => execVmovWv_kept h small lane vd wa s hs
  | .vmovVw h small lane wd va, _ => execVmovVw_kept h small lane wd va s hs
  | .vadd h small vd va vb, _ => execVadd_kept h small vd va vb s hs
  | .vsub h small vd va vb, _ => execVsub_kept h small vd va vb s hs
  | .vand h small vd va vb, _ => execVand_kept h small vd va vb s hs
  | .vor h small vd va vb, _ => execVor_kept h small vd va vb s hs
  | .vxor h small vd va vb, _ => execVxor_kept h small vd va vb s hs
  | .ioIn h wide rd ra disp, _ => execIoIn_kept h wide rd ra disp s hs
  | .ioOut h wide rd ra disp, _ => execIoOut_kept h wide rd ra disp s hs
  | .mfs h rd sel, _ => execMfs_kept h rd sel s hs
  | .mts h ra sel, _ => execMts_kept h ra sel s hs
  | .nop h, _ => execNop_kept h s hs
  | .sys h, _ => execSys_kept h s hs
  | .mon h, _ => execMon_kept h s hs
  | .eret h, _ => execEret_kept h s hs
  | .tend h ra, _ => execTend_kept h ra s hs
  | .sync h, _ => execSync_kept h s hs
  | .ifence h, _ => execIfence_kept h s hs
  | .cdtsync h, _ => execCdtsync_kept h s hs
  | .fenceR h, _ => execFenceR_kept h s hs
  | .fenceW h, _ => execFenceW_kept h s hs
  | .fenceRw h, _ => execFenceRw_kept h s hs
  | .xinvA h scope rd ra, _ => execXinvA_kept h scope rd ra s hs
  | .xinvT h scope rd, _ => execXinvT_kept h scope rd s hs
  | .xinvAll h scope, _ => execXinvAll_kept h scope s hs
  | .xinvComplete h twin, _ => execXinvComplete_kept h twin s hs
  | .rep h next, _ => execRep_kept h next s hs
  | .customerInstruction h index rd ra rb func, _ => execCustomerInstruction_kept h index rd ra rb func s hs
  | .softwareBreakpoint h, _ => execSoftwareBreakpoint_kept h s hs
  | .illegalInstruction h word, _ => execIllegalInstruction_kept h word s hs
  | .cdtBroadcastComplete, _ => execCdtBroadcastComplete_kept s hs
  | .enable index, _ => execEnable_kept index s hs
  | .disable index flush, _ => execDisable_kept index flush s hs
  | .disableComplete, _ => execDisableComplete_kept s hs
  | .update index staging, _ => execUpdate_kept index staging s hs
  | .updateCopy, _ => execUpdateCopy_kept s hs
  | .periodicRelease index, _ => execPeriodicRelease_kept index s hs
  | .commandedRelease index loc, _ => execCommandedRelease_kept index loc s hs
  | .gatherStart, _ => execGatherStart_kept s hs
  | .packetLanded index, _ => execPacketLanded_kept index s hs
  | .noPlacement index, _ => execNoPlacement_kept index s hs
  | .deadlineMiss index, _ => execDeadlineMiss_kept index s hs
  | .distributorMove gallery, _ => execDistributorMove_kept gallery s hs
  | .taskArrival h, _ => execTaskArrival_kept h s hs
  | .resultAccept index, _ => execResultAccept_kept index s hs
  | .commit index, _ => execCommit_kept index s hs
  | .budgetExpiry h, _ => execBudgetExpiry_kept h s hs
  | .drtEnSet, _ => execDrtEnSet_kept s hs
  | .regionLocked, _ => execRegionLocked_kept s hs
  | .drtEnClear, _ => execDrtEnClear_kept s hs
  | .tier1Steal h, _ => execTier1Steal_kept h s hs
  | .tier2Request gallery, _ => execTier2Request_kept gallery s hs
  | .tier2Steal, _ => execTier2Steal_kept s hs
  | .tier2CopyDone index, _ => execTier2CopyDone_kept index s hs
  | .threadRestore h, _ => execThreadRestore_kept h s hs
  | .hewerPoolWrite k value, _ => execHewerPoolWrite_kept k value s hs
  | .galleryPoolWrite value, _ => execGalleryPoolWrite_kept value s hs
  | .lodeWriteApply, _ => execLodeWriteApply_kept s hs
  | .softwareWrite loc value, _ => execSoftwareWrite_kept loc value s hs
  | .forceSet loc, _ => execForceSet_kept loc s hs
  | .forceClear loc, _ => execForceClear_kept loc s hs
  | .lodAdvance, _ => execLodAdvance_kept s hs
  | .epochClose, _ => execEpochClose_kept s hs
  | .lodWinCommit mask, _ => execLodWinCommit_kept mask s hs
  | .windowCommitEffect, _ => execWindowCommitEffect_kept s hs
  | .lodCfgDataWrite value, _ => execLodCfgDataWrite_kept value s hs
  | .initDone, _ => execInitDone_kept s hs
  | .lodeScrub slot zero uncorrectable, _ => execLodeScrub_kept slot zero uncorrectable s hs
  | .syncReceived port master std seconds ns sub log hops, _ => execSyncReceived_kept port master std seconds ns sub log hops s hs
  | .bmcaSelection isSelf master port hops, _ => execBmcaSelection_kept isSelf master port hops s hs
  | .syncTimeout, _ => execSyncTimeout_kept s hs
  | .holdoverExpiry, _ => execHoldoverExpiry_kept s hs
  | .syncTransmit port, _ => execSyncTransmit_kept port s hs
  | .pdelayReqTransmit port, _ => execPdelayReqTransmit_kept port s hs
  | .syncEnWrite value, _ => execSyncEnWrite_kept value s hs
  | .timSet value, _ => execTimSet_kept value s hs
  | .compareUnitWrite n which value, _ => execCompareUnitWrite_kept n which value s hs
  | .compareUnitFire n, _ => execCompareUnitFire_kept n s hs
  | .interruptEntry h, _ => execInterruptEntry_kept h s hs
  | .hwrIhiSet target level, _ => execHwrIhiSet_kept target level s hs
  | .hwrXrouteWrite by' target value, _ => execHwrXrouteWrite_kept by' target value s hs
  | .canaryKick writer h, _ => execCanaryKick_kept writer h s hs
  | .canaryPrewarning h, _ => execCanaryPrewarning_kept h s hs
  | .canaryExpiry h, _ => execCanaryExpiry_kept h s hs
  | .canaryMachineCheck h, _ => execCanaryMachineCheck_kept h s hs
  | .expiredClear by' h, _ => execExpiredClear_kept by' h s hs
  | .deviceCanaryKick writer value, _ => execDeviceCanaryKick_kept writer value s hs
  | .canDevCtlWrite value, _ => execCanDevCtlWrite_kept value s hs
  | .deviceCanaryPrewarning, _ => execDeviceCanaryPrewarning_kept s hs
  | .deviceCanaryExpiry, _ => execDeviceCanaryExpiry_kept s hs
  | .forcedMEntry h, _ => execForcedMEntry_kept h s hs
  | .requestSelfTest, _ => execRequestSelfTest_kept s hs
  | .requestRun, _ => execRequestRun_kept s hs
  | .requestStandby, _ => execRequestStandby_kept s hs
  | .requestMaintenance, _ => execRequestMaintenance_kept s hs
  | .requestSafeHold, _ => execRequestSafeHold_kept s hs
  | .requestConfigure, _ => execRequestConfigure_kept s hs
  | .runDecision, _ => execRunDecision_kept s hs
  | .twinCompareFailure h kind failures, _ => execTwinCompareFailure_kept h kind failures s hs
  | .twinSubstitution h, _ => execTwinSubstitution_kept h s hs
  | .hubMismatch lasting, _ => execHubMismatch_kept lasting s hs
  | .retire cls unit, _ => execRetire_kept cls unit s hs
  | .returnToService cls unit, _ => execReturnToService_kept cls unit s hs
  | .retireComplete, _ => execRetireComplete_kept s hs
  | .logRecordWrite, _ => execLogRecordWrite_kept s hs
  | .memL2PldCtlWrite value, _ => execMemL2PldCtlWrite_kept value s hs
  | .preloadDone, _ => execPreloadDone_kept s hs
  | .cachePatrolScrub l2 a uncorrectable dirty, _ => execCachePatrolScrub_kept l2 a uncorrectable dirty s hs
  | .dramRead a source cw0 cw1 checkBad, _ => execDramRead_kept a source cw0 cw1 checkBad s hs
  | .dramWrite a, _ => execDramWrite_kept a s hs
  | .dramActivate c b row source, _ => execDramActivate_kept c b row source s hs
  | .rfm c b, _ => execRfm_kept c b s hs
  | .firedampWindowEnd d4, _ => execFiredampWindowEnd_kept d4 s hs
  | .refresh c due reads, _ => execRefresh_kept c due reads s hs
  | .mr4Poll c rate mr4 high, _ => execMr4Poll_kept c rate mr4 high s hs
  | .rowIdleClose c b, _ => execRowIdleClose_kept c b s hs
  | .zqCalibration c, _ => execZqCalibration_kept c s hs
  | .wck2dqiRetrain c rd wr, _ => execWck2dqiRetrain_kept c rd wr s hs
  | .frameReceived port bytes fcsOk, _ => execFrameReceived_kept port bytes fcsOk s hs
  | .partnerFrameReceived port device openB mode tim ready, _ => execPartnerFrameReceived_kept port device openB mode tim ready s hs
  | .egressRead n, _ => execEgressRead_kept n s hs
  | .frameTransmit port, _ => execFrameTransmit_kept port s hs
  | .egressEntryCommit value, _ => execEgressEntryCommit_kept value s hs
  | .gclCommit port value, _ => execGclCommit_kept port value s hs
  | .gclInForce port, _ => execGclInForce_kept port s hs
  | .plkLinkDown port absent, _ => execPlkLinkDown_kept port absent s hs
  | .plkLinkUp port, _ => execPlkLinkUp_kept port s hs
  | .portCtlWrite port value, _ => execPortCtlWrite_kept port value s hs
  | .partnerFrameSend, _ => execPartnerFrameSend_kept s hs
  | .plkPartnerLost, _ => execPlkPartnerLost_kept s hs
  | .mgmtTxTailWrite tail, _ => execMgmtTxTailWrite_kept tail s hs
  | .mgmtTxSend, _ => execMgmtTxSend_kept s hs
  | .pcsLockLost port, _ => execPcsLockLost_kept port s hs
  | .pcsLockAcquired port, _ => execPcsLockAcquired_kept port s hs
  | .takeover, _ => execTakeover_kept s hs
  | .dualRun, _ => execDualRun_kept s hs
  | .shadowCommit n, _ => execShadowCommit_kept n s hs
  | .shadowWithdraw n, _ => execShadowWithdraw_kept n s hs
  | .handOver n, _ => execHandOver_kept n s hs
  | .unitReadReturn n u, _ => execUnitReadReturn_kept n u s hs
  | .unitRetry n, _ => execUnitRetry_kept n s hs
  | .transferComplete n, _ => execTransferComplete_kept n s hs
  | .skpDisWrite n, _ => execSkpDisWrite_kept n s hs
  | .skpHaltClear n, _ => execSkpHaltClear_kept n s hs
  | .skpOwnerWrite n owner, _ => execSkpOwnerWrite_kept n owner s hs
  | .unitWriteIssue n, _ => execUnitWriteIssue_kept n s hs
  | .create k, _ => execCreate_kept k s hs
  | .destroy k, _ => execDestroy_kept k s hs
  | .aditCmdComplete, _ => execAditCmdComplete_kept s hs
  | .adtPoolWrite value, _ => execAdtPoolWrite_kept value s hs
  | .mailboxWrite k toVf idx value, _ => execMailboxWrite_kept k toVf idx value s hs
  | .ringMgr k, _ => execRingMgr_kept k s hs
  | .ackMgr k, _ => execAckMgr_kept k s hs
  | .ringVf k, _ => execRingVf_kept k s hs
  | .ackVf k, _ => execAckVf_kept k s hs
  | .queryEnable k q value, _ => execQueryEnable_kept k q value s hs
  | .queryEnableDone k q, _ => execQueryEnableDone_kept k q s hs
  | .queryGo k q, _ => execQueryGo_kept k q s hs
  | .queryRun outrun, _ => execQueryRun_kept outrun s hs
  | .queryHeadWrite k q head, _ => execQueryHeadWrite_kept k q head s hs
  | .aditRecordWrite k off data ep, _ => execAditRecordWrite_kept k off data ep s hs
  | .bar2Read f off len, _ => execBar2Read_kept f off len s hs
  | .bar2Write f off data ep, _ => execBar2Write_kept f off data ep s hs
  | .recordPortWrite off data ep, _ => execRecordPortWrite_kept off data ep s hs
  | .hostCompletion tag status data ep, _ => execHostCompletion_kept tag status data ep s hs
  | .completionTimeout tag, _ => execCompletionTimeout_kept tag s hs
  | .freeze cause f header, _ => execFreeze_kept cause f header s hs
  | .hepFreezeRelease mask, _ => execHepFreezeRelease_kept mask s hs
  | .functionLevelReset f, _ => execFunctionLevelReset_kept f s hs
  | .flrComplete f, _ => execFlrComplete_kept f s hs
  | .perstNAssert, _ => execPerstNAssert_kept s hs
  | .perstNDeassert, _ => execPerstNDeassert_kept s hs
  | .hepLinkDown, _ => execHepLinkDown_kept s hs
  | .hepLinkUp rate width, _ => execHepLinkUp_kept rate width s hs
  | .powerStateChange f target, _ => execPowerStateChange_kept f target s hs
  | .configurationWrite f w, _ => execConfigurationWrite_kept f w s hs
  | .decimatedSample conv, _ => execDecimatedSample_kept conv s hs
  | .encoderTransition n a b z, _ => execEncoderTransition_kept n a b z s hs
  | .digitalEdge n pin, _ => execDigitalEdge_kept n pin s hs
  | .outputEgressRead n, _ => execOutputEgressRead_kept n s hs
  | .pwmPeriodStart m, _ => execPwmPeriodStart_kept m s hs
  | .anmCalibrationDone, _ => execAnmCalibrationDone_kept s hs
  | .rootPllLossOfLock, _ => execRootPllLossOfLock_kept s hs
  | .refclkStop, _ => execRefclkStop_kept s hs
  | .refclkRestart, _ => execRefclkRestart_kept s hs
  | .pllRelock fails, _ => execPllRelock_kept fails s hs
  | .pwrDomReqWrite value, _ => execPwrDomReqWrite_kept value s hs
  | .powerDomainSwitched fails, _ => execPowerDomainSwitched_kept fails s hs
  | .thermalAdjust temps, _ => execThermalAdjust_kept temps s hs
  | .thermalTrip sensor, _ => execThermalTrip_kept sensor s hs
  | .thermalTripEnd sensor, _ => execThermalTripEnd_kept sensor s hs
  | .cclkStep shaft, _ => execCclkStep_kept shaft s hs
  | .haltTakesEffect h, _ => execHaltTakesEffect_kept h s hs
  | .verifyComplete, _ => execVerifyComplete_kept s hs
  | .lockoutExpiry, _ => execLockoutExpiry_kept s hs
  | .rootKeyProgrammed, _ => execRootKeyProgrammed_kept s hs
  | .pornLow, _ => execPornLow_kept s hs
  | .pornRise dn v, hc => absurd rfl (hc dn v)
  | .porPllLock, _ => execPorPllLock_kept s hs
  | .bootDiscovery ok octal sizeMib, _ => execBootDiscovery_kept ok octal sizeMib s hs
  | .bootHeader readError, _ => execBootHeader_kept readError s hs
  | .bootEarlySections items fails readError, _ => execBootEarlySections_kept items fails readError s hs
  | .bootStream readError, _ => execBootStream_kept readError s hs
  | .bootVerify, _ => execBootVerify_kept s hs
  | .bootApply items, _ => execBootApply_kept items s hs
  | .selfTestEnd twins ways channels hub, _ => execSelfTestEnd_kept twins ways channels hub s hs
  | .tlyStopWrite stop, _ => execTlyStopWrite_kept stop s hs
  | .counterOverflow h n k, _ => execCounterOverflow_kept h n k s hs
  | .samplingEnable h value, _ => execSamplingEnable_kept h value s hs
  | .sampleTailWrite h tail, _ => execSampleTailWrite_kept h tail s hs
  | .bwWindowEnd counts, _ => execBwWindowEnd_kept counts s hs
  | .xspiRead, _ => execXspiRead_kept s hs
  | .xspiProgram, _ => execXspiProgram_kept s hs
  | .xspiErase, _ => execXspiErase_kept s hs
  | .xspiOperationComplete fails, _ => execXspiOperationComplete_kept fails s hs
  | .extest value, _ => execExtest_kept value s hs
  | .samplePreload, _ => execSamplePreload_kept s hs
  | .idcode, _ => execIdcode_kept s hs
  | .bypass, _ => execBypass_kept s hs
  | .dbgpwr on, _ => execDbgpwr_kept on s hs
  | .testLogicReset, _ => execTestLogicReset_kept s hs
  | .nopCommand path, _ => execNopCommand_kept path s hs
  | .setaddr path size arg, _ => execSetaddr_kept path size arg s hs
  | .read path size, _ => execRead_kept path size s hs
  | .write path size arg, _ => execWrite_kept path size arg s hs
  | .vtRead path h, _ => execVtRead_kept path h s hs
  | .vtWrite path h data, _ => execVtWrite_kept path h data s hs
  | .close path, _ => execClose_kept path s hs
  | .challenge path level key, _ => execChallenge_kept path level key s hs
  | .verify path level key, _ => execVerify_kept path level key s hs
  | .rootKeyProgram path key, _ => execRootKeyProgram_kept path key s hs
  | .bar0Read f off len, _ => execBar0Read_kept f off len s hs
  | .bar0Write f off data ep header, _ => execBar0Write_kept f off data ep header s hs
  | .registerWrite writer addr wide value, _ => execRegisterWrite_kept writer addr wide value s hs
  | .cfgCdtWordWrite writer value, _ => execCfgCdtWordWrite_kept writer value s hs
  | .cfgCdtEntryWrite writer n value, _ => execCfgCdtEntryWrite_kept writer n value s hs
  | .halt writer h, _ => execHalt_kept writer h s hs
  | .release writer h, _ => execRelease_kept writer h s hs
  | .step writer h, _ => execStep_kept writer h s hs
  | .clrCheckstop writer h, _ => execClrCheckstop_kept writer h s hs
  | .xtrigHalt writer all gallery, _ => execXtrigHalt_kept writer all gallery s hs
  | .xtrigRelease writer all gallery, _ => execXtrigRelease_kept writer all gallery s hs
  | .vtxWrite h data, _ => execVtxWrite_kept h data s hs
  | .vrxRead h, _ => execVrxRead_kept h s hs

/-- The release of power-on reset samples the device number and keeps the canonical form (R719). -/
theorem execPornRise_canonical (dn : BitVec 12) (v : Bool) (s t : State) (hc : s.Canonical)
    (e : execPornRise dn v s = .next t) : t.Canonical := by
  injection e with e
  subst e
  dsimp only
  split
  · exact hc
  · exact ⟨hc.regs, hc.hewers, hc.twins, hc.mem⟩

/-- What the lemmas on the single commands say, read for a next state. -/
theorem canonical_of_outKept {dv : Nat} {o : Host.Outcome State Fault Refusal} {t : State} (h : OutKept dv o)
    (e : o = .next t) : t.Canonical := by
  subst e
  exact ((kept_iff dv t).mp h).2

/-- Every command keeps the canonical form. -/
theorem exec_canonical (c : Instr) (s t : State) (hc : s.Canonical) (e : exec c s = .next t) : t.Canonical := by
  by_cases hp : ∃ dn v, c = .pornRise dn v
  · obtain ⟨dn, v, rfl⟩ := hp
    exact execPornRise_canonical dn v s t hc e
  · have hs : Kept s.devnum s := (kept_iff _ _).mpr ⟨rfl, hc⟩
    exact canonical_of_outKept (exec_kept s hs c fun dn v h => hp ⟨dn, v, h⟩) e

/-- Settles O4: a clock cycle by the lemma on it, a command from the state whose queue it has left. -/
theorem canonicalKept : Obligations.CanonicalKept := by
  unfold Obligations.CanonicalKept
  intro s t hc e
  unfold step at e
  split at e
  · injection e with e
    subst e
    exact ((kept_iff _ _).mp (State.tick_kept (dv := s.devnum) s ((kept_iff _ _).mpr ⟨rfl, hc⟩))).2
  next c rest _ =>
    have hp : State.Canonical { s with pending := rest } := ⟨hc.regs, hc.hewers, hc.twins, hc.mem⟩
    exact exec_canonical c _ t hp e

end Sys2Proof.Machine

/-!
PROOFS. How an instruction of a hewer with nothing in its way ends (R290, R441, R446): what its end reads of the hewer, an effect on
the hewer alone, and the moves to and from the system registers and the floating point that are such effects.
-/
namespace Sys2Proof.Machine

/-! ### What the end of an instruction reads of the hewer -/

/-- The part of a hewer that decides how its instruction ends: unit, `rep`, distances and single step. -/
def Hewer.flow (x : Hewer) : Option TransferUnit × Option Word × List CtlPending × Bool := (x.unit, x.rep, x.ctl, x.stepping)

@[simp] theorem Hewer.setPsf_flow (x : Hewer) (hi lo v : Nat) : (x.setPsf hi lo v).flow = x.flow := by
  simp only [Hewer.flow, Hewer.setPsf]

@[simp] theorem Hewer.setNzcv_flow (x : Hewer) (v : Nat) : (x.setNzcv v).flow = x.flow := Hewer.setPsf_flow x 31 28 v

@[simp] theorem Hewer.setV_flow (x : Hewer) (r : Nat) (v : VWord) : (x.setV r v).flow = x.flow := by
  simp only [Hewer.flow, Hewer.setV]

@[simp] theorem Hewer.setW_flow (x : Hewer) (r : Nat) (v : Word) : (x.setW r v).flow = x.flow := by
  unfold Hewer.setW
  split <;> rfl

theorem State.Runs.flow {s : State} {h : Nat} (hr : s.Runs h) : (s.hew h).flow = (none, none, [], false) := by
  unfold Hewer.flow
  rw [hr.unit, hr.rep, hr.ctl, hr.stepping]

theorem State.Ends.flow {t : State} {h : Nat} (ht : t.Ends h) : (t.hew h).flow = (none, none, [], false) := by
  unfold Hewer.flow
  rw [ht.unit, ht.rep, ht.ctl, ht.stepping]

theorem Hewer.flow_parts {x : Hewer} (hx : x.flow = (none, none, [], false)) :
    x.unit = none ∧ x.rep = none ∧ x.ctl = [] ∧ x.stepping = false := by
  injection hx with hu hx
  injection hx with hr hx
  injection hx with hc hs
  exact ⟨hu, hr, hc, hs⟩

/-- An effect on the hewer alone that leaves its flow completes in sequence. -/
theorem State.finish_flow {s : State} {h : Nat} (p : Pre) (f : Hewer → Hewer) (items : List CmpItem) (hh : h < 512) (hr : s.Runs h)
    (hf : (f (s.hew h)).flow = (s.hew h).flow) :
    s.finish h p (.ok (s.modHew h f) items) = s.completes h (f (s.hew h)).next := by
  obtain ⟨hunit, hrep, hctl, hstep⟩ := Hewer.flow_parts (hf.trans hr.flow)
  exact State.finish_hew s h p f items hh hr hunit hrep hctl hstep

/-- An instruction whose effect is on the hewer alone and leaves its flow is that effect and its end. -/
theorem State.run_flow {s : State} {h : HewerId} {p : Pre} {body : State → Step} {f : Hewer → Hewer} {items : List CmpItem}
    (hr : s.Runs h) (hp : p.bad = none) (hb : body s = .ok (s.modHew h f) items) (hf : (f (s.hew h)).flow = (s.hew h).flow) :
    s.run h p body = s.completes h (f (s.hew h)).next := by
  rw [State.run_runs s h p body hr hp, hb, State.finish_flow p f items h.isLt hr hf]

/-! ### Floating point: an operation whose exceptions are disabled (R236, R240, R312 to R314) -/

/-- FX gains the exceptions that an operation has raised. -/
def Hewer.noted (x : Hewer) (flags : Nat) : Hewer := x.setPsf 36 32 (x.psf 36 32 ||| flags)

@[simp] theorem Hewer.noted_flow (x : Hewer) (flags : Nat) : (x.noted flags).flow = x.flow := Hewer.setPsf_flow x 36 32 _

/-- Where no raised exception is enabled, the operation is noted and writes its result. -/
theorem State.fpFlags_quiet {s : State} {h flags : Nat} (f : Hewer → Hewer) (hc : s.Canonical)
    (hq : (s.hew h).psf 41 37 &&& flags = 0) :
    s.fpFlags h flags f = .ok (s.modHew h (fun y => f (y.noted flags))) [] := by
  have hfe : ((s.hew h).fe &&& flags != 0) = false := bne_eq_false_iff_eq.mpr hq
  unfold State.fpFlags State.modHew
  simp only [hfe, Bool.false_eq_true, if_false, State.hew_setHew_same, State.setHew_setHew _ _ _ _ hc, Hewer.noted, Hewer.fx]

/-- A scalar result is the one lane that is written; the bits above it are cleared (R234). -/
theorem ofLanes_scalar (w n : Nat) : ofLanes w [n] = BitVec.ofNat 128 (n % 2 ^ w) := by
  simp only [ofLanes, List.foldr_cons, List.foldr_nil, Nat.zero_mul, Nat.zero_add]

theorem State.fpLanes_scalar (s : State) (h vd : Nat) (single : Bool) (r : FpRes) :
    s.fpLanes h vd ⟨single, false⟩ (fun _ => r)
      = s.fpFlags h r.flags (fun x => x.setV vd (BitVec.ofNat 128 (r.bits % 2 ^ (fmtOf single).width))) := by
  have hflags : allFlags [r] = r.flags := Nat.zero_or r.flags
  unfold State.fpLanes
  simp only [laneCount, Bool.false_eq_true, if_false, List.range_one, List.map_cons, List.map_nil, ofLanes_scalar, hflags]

section
variable {s : State} {h : HewerId} {p : Pre} (hr : s.Runs h) (hp : p.bad = none)
include hr hp

/-- An instruction that ends in `fpFlags` with quiet exceptions. -/
theorem State.run_quiet {body : State → Step} {flags : Nat} {f : Hewer → Hewer} (hb : body s = s.fpFlags h flags f)
    (hf : (f ((s.hew h).noted flags)).flow = ((s.hew h).noted flags).flow) (hq : (s.hew h).psf 41 37 &&& flags = 0) :
    s.run h p body = s.completes h (f ((s.hew h).noted flags)).next :=
  State.run_flow (f := fun y => f (y.noted flags)) hr hp (hb.trans (State.fpFlags_quiet f hr.canon hq)) (hf.trans (Hewer.noted_flow _ _))

/-- The same with a scalar of `vd` as its result. -/
theorem State.run_scalar {body : State → Step} {vd : Nat} {single : Bool} {r : FpRes}
    (hb : body s = s.fpLanes h vd ⟨single, false⟩ (fun _ => r)) (hq : (s.hew h).psf 41 37 &&& r.flags = 0) :
    s.run h p body
      = s.completes h (((s.hew h).noted r.flags).setV vd (BitVec.ofNat 128 (r.bits % 2 ^ (fmtOf single).width))).next :=
  State.run_quiet (f := fun x => x.setV vd _) hr hp (hb.trans (State.fpLanes_scalar s h vd single r)) (Hewer.setV_flow _ _ _) hq

end

/-- The flags of a compare by the order of its operands (R240). -/
theorem fpCompare_flags (m : FpFmt) (signalling : Bool) (a b : Nat) :
    (fpCompare m signalling a b).1 = (match fpOrder (fpDecode m a) (fpDecode m b) with
      | none => nzcvOf false false true true
      | some o => nzcvOf (decide (o < 0)) (decide (o = 0)) (decide (0 ≤ o)) false) := by
  unfold fpCompare
  dsimp only
  cases fpOrder (fpDecode m a) (fpDecode m b) with
  | none => rfl
  | some o =>
    dsimp only
    rcases lt_trichotomy o 0 with ho | rfl | ho
    · simp [nzcvOf, b2n, ho, ho.ne, Int.not_le.mpr ho]
    · rfl
    · simp [nzcvOf, b2n, ho.le, ho.ne', Int.not_lt.mpr ho.le]

/-- The exceptions of a compare (R240): invalid for an unordered pair where the compare signals or an operand does. -/
theorem fpCompare_exceptions (m : FpFmt) (signalling : Bool) (a b : Nat) :
    (fpCompare m signalling a b).2 = (if decide (fpOrder (fpDecode m a) (fpDecode m b) = none)
      && (signalling || (fpDecode m a).isSnan || (fpDecode m b).isSnan) then fpInvalid else 0) := by
  unfold fpCompare
  dsimp only
  cases fpOrder (fpDecode m a) (fpDecode m b) with
  | none => rw [decide_eq_true rfl, Bool.true_and]
  | some o => rw [decide_eq_false (Option.some_ne_none o), Bool.false_and]; rfl

/-- Infinities convert to the limit of their side (R314). -/
theorem fpToInt_inf (rm : RoundMode) (n : Bool) :
    fpToInt rm true (.inf n) = ⟨if n then 2 ^ 63 else 2 ^ 63 - 1, fpInvalid⟩
      ∧ fpToInt rm false (.inf n) = ⟨if n then 0 else 2 ^ 64 - 1, fpInvalid⟩ := by
  cases n <;> exact ⟨rfl, rfl⟩

/-- A compare whose exceptions are disabled sets the four flags. -/
theorem State.fpCmp_quiet {s : State} {h : HewerId} (hr : s.Runs h) (func : Nat) (single signalling : Bool) (va vb : Nat) :
    let r := fpCompare (fmtOf single) signalling (laneOf ((s.hew h).getV va) (fmtOf single).width 0)
      (laneOf ((s.hew h).getV vb) (fmtOf single).width 0)
    (s.hew h).psf 41 37 &&& r.2 = 0 →
      s.fpCmp h func single signalling va vb = s.completes h (((s.hew h).noted r.2).setNzcv r.1).next :=
  fun hq => State.run_quiet (f := fun y => y.setNzcv _) hr rfl rfl (Hewer.setNzcv_flow _ _) hq

/-- A conversion to an integer whose exceptions are disabled. -/
theorem State.fpToW_quiet {s : State} {h : HewerId} (hr : s.Runs h) (func : Nat) (single isSigned : Bool) (wd va : Nat) :
    let r := fpToInt (s.hew h).rm isSigned (fpDecode (fmtOf single) (laneOf ((s.hew h).getV va) (fmtOf single).width 0))
    (s.hew h).psf 41 37 &&& r.flags = 0 →
      s.fpToW h func single isSigned wd va = s.completes h (((s.hew h).noted r.flags).setW wd (BitVec.ofNat 64 r.bits)).next :=
  fun hq => State.run_quiet (f := fun y => y.setW wd _) hr rfl rfl (Hewer.setW_flow _ _ _) hq

/-- Settles O20: each command is one of the quiet operations above. -/
theorem fpCompareAndConvert : Obligations.FpCompareAndConvert := by
  unfold Obligations.FpCompareAndConvert
  refine ⟨fun h single vd va vb wd wa s hr => ?_, fun rm n snan => ⟨rfl, rfl, fpToInt_inf rm n⟩⟩
  have compares (func : Nat) (signalling : Bool) := State.fpCmp_quiet hr func single signalling va vb
  simp only [fpCompare_flags, fpCompare_exceptions] at compares
  refine ⟨fun hq => congrArg Host.Outcome.next (compares 0 false hq), fun hq => congrArg Host.Outcome.next (compares 1 true hq),
    fun hq => congrArg Host.Outcome.next (State.fpToW_quiet hr 0 single true wd va hq),
    fun hq => congrArg Host.Outcome.next (State.fpToW_quiet hr 1 single false wd va hq),
    fun hq => congrArg Host.Outcome.next (State.run_scalar hr rfl rfl hq),
    fun hq => congrArg Host.Outcome.next (State.run_scalar hr rfl rfl hq),
    fun hq => congrArg Host.Outcome.next (State.run_scalar (single := true) hr rfl rfl hq),
    fun hq => congrArg Host.Outcome.next (State.run_scalar (single := false) hr rfl rfl hq)⟩

end Sys2Proof.Machine

/-!
PROOFS. How an instruction ends that raises an exception, enters S or M, or places the program counter itself (R290, R441, R446 to
R449): no entry and no check-stop sets a single step going, so nothing follows the entry.
-/
namespace Sys2Proof.Machine

/-! ### No single step (R776) -/

/-- Hewer `h` has no single step requested, in any entry that the table holds for it. -/
def State.NoStep (h : Nat) (s : State) : Prop := ∀ e ∈ s.hewers, e.1 = h → e.2.stepping = false

theorem Table.get_default_or_mem {α : Type} (t : Table α) (d : α) (k : Nat) : t.get d k = d ∨ (k, t.get d k) ∈ t := by
  induction t with
  | nil => exact .inl rfl
  | cons e r ih =>
    obtain ⟨j, v⟩ := e
    by_cases hj : j = k
    · subst hj
      exact .inr (by simp [Table.get])
    · simp only [Table.get, if_neg hj]
      exact ih.imp_right (List.mem_cons_of_mem _)

/-- In a table in canonical form an entry is what its key reads. -/
theorem Table.get_of_mem {α : Type} [DecidableEq α] {t : Table α} {d : Nat → α} (hw : t.wf d = true) (c : α) {k : Nat} {v : α}
    (hm : (k, v) ∈ t) : t.get c k = v := by
  have hs := ((Table.wf_iff t d).mp hw).1
  clear hw
  induction t with
  | nil => cases hm
  | cons e r ih =>
    obtain ⟨hlt, hs⟩ := List.pairwise_cons.mp hs
    rcases List.mem_cons.mp hm with rfl | hm
    · simp [Table.get]
    · have hne : e.1 ≠ k := (hlt _ hm).ne
      simp only [Table.get, if_neg hne]
      exact ih hm hs

theorem State.NoStep.hew {s : State} {h : Nat} (hs : s.NoStep h) : (s.hew h).stepping = false := by
  rcases Table.get_default_or_mem s.hewers Hewer.reset h with e | hm
  · unfold State.hew
    rw [e]
    rfl
  · exact hs _ hm rfl

theorem State.NoStep.of_hew {s : State} {h : Nat} (hc : s.Canonical) (hx : (s.hew h).stepping = false) : s.NoStep h := by
  rintro ⟨k, v⟩ hm rfl
  have e : s.hew k = v := Table.get_of_mem hc.hewers Hewer.reset hm
  rwa [e] at hx

theorem State.NoStep.of_hewers {s t : State} {h : Nat} (e : t.hewers = s.hewers) (hs : s.NoStep h) : t.NoStep h := by
  unfold State.NoStep
  rw [e]
  exact hs

theorem State.NoStep.setHew {s : State} {h k : Nat} {x : Hewer} (hs : s.NoStep h) (hx : k = h → x.stepping = false) :
    (s.setHew k x).NoStep h := by
  intro e hm hk
  unfold State.setHew Table.set at hm
  dsimp only at hm
  have herase : e ∈ s.hewers.erase k → e.2.stepping = false := fun hm => hs e (List.mem_filter.mp hm).1 hk
  split at hm
  · exact herase hm
  · rcases Table.mem_insert _ _ _ _ hm with rfl | hm
    · exact hx hk
    · exact herase hm

theorem State.NoStep.modHew {s : State} {h k : Nat} {f : Hewer → Hewer} (hs : s.NoStep h)
    (hf : ∀ x, (f x).stepping = x.stepping) : (s.modHew k f).NoStep h :=
  hs.setHew fun hk => by rw [hf, hk]; exact hs.hew

@[simp] theorem Hewer.loseResv_stepping (x : Hewer) (a n : Nat) : (x.loseResv a n).stepping = x.stepping := by
  unfold Hewer.loseResv
  split
  · split <;> rfl
  · rfl

theorem State.NoStep.clearResv {s : State} {h : Nat} (hs : s.NoStep h) (who : Option Nat) (a n : Nat) :
    (s.clearResv who a n).NoStep h := by
  intro e hm hk
  obtain ⟨⟨j, x⟩, hx, he⟩ := List.mem_filterMap.mp hm
  obtain ⟨-, he⟩ := Option.ite_none_left_eq_some.mp he
  injection he with he
  subst he
  have hstep : x.stepping = false := hs _ hx hk
  dsimp only
  split
  · exact hstep
  · rw [Hewer.loseResv_stepping, hstep]

/-! ### The hewers under a fault record -/

@[simp] theorem State.rawWrite_hewers (s : State) (a : Nat) (l : List Byte) : (s.rawWrite a l).hewers = s.hewers := by
  obtain ⟨b, hb⟩ := State.rawWrite_rest s a l
  rw [hb]

@[simp] theorem State.setPba_hewers (s : State) (f vec : Nat) (on : Bool) : (s.setPba f vec on).hewers = s.hewers := by
  unfold State.setPba
  split <;> rfl

@[simp] theorem State.sendMsix_hewers (s : State) (f vec : Nat) : (s.sendMsix f vec).hewers = s.hewers := by
  have hp := s.setPba_hewers f vec true
  unfold State.sendMsix
  simp only [apply_ite State.hewers, State.emit_hewers, hp, ite_self]

@[simp] theorem State.notify_hewers (s : State) (bits : Nat) : (s.notify bits).hewers = s.hewers := by
  unfold State.notify
  simp only [apply_ite State.hewers, State.sendMsix_hewers, State.setReg_hewers, ite_self]

@[simp] theorem State.bufferRecord_hewers (s : State) (r : FaultRec) : (s.bufferRecord r).hewers = s.hewers := by
  unfold State.bufferRecord
  simp only [apply_ite State.hewers, State.count_hewers, ite_self]

theorem State.NoStep.dmaWriteBy {s : State} {h : Nat} (hs : s.NoStep h) (src a : Nat) (l : List Byte) :
    (s.dmaWriteBy src a l).NoStep h := by
  have hw : ((s.hubAccess a l.length src true).rawWrite a l).NoStep h := hs.of_hewers (by simp)
  exact (hw.clearResv none a l.length).of_hewers rfl

theorem State.NoStep.logRecord {s : State} {h : Nat} (hs : s.NoStep h) (r : FaultRec) : (s.logRecord r).NoStep h := by
  have hn : (s.notify (notifyBits r.code r.sev)).NoStep h := hs.of_hewers (State.notify_hewers _ _)
  unfold State.logRecord
  split
  · exact hs
  · dsimp only
    split
    · exact (hn.dmaWriteBy _ _ _).of_hewers (State.setFld_hewers _ _ _)
    · exact hn.of_hewers (State.bufferRecord_hewers _ _)

theorem State.NoStep.log {s : State} {h : Nat} (hs : s.NoStep h) (loc code detail cls dw2 dw3 : Nat) :
    (s.log loc code detail cls dw2 dw3).NoStep h :=
  State.NoStep.logRecord (s := (s.stamp loc).2) (hs.of_hewers rfl) _

/-! ### A check-stop (R212, R213, R448) -/

@[simp] theorem State.dequeue_hewers (s : State) (i : Nat) : (s.dequeue i).hewers = s.hewers := by
  unfold State.dequeue
  split
  · rfl
  · split
    · split <;> rfl
    · rfl
    · rfl

theorem Hewer.bodyEnds_stepping (x : Hewer) : x.bodyEnds.stepping = x.stepping := rfl

theorem State.NoStep.dropActivation {s : State} {h : Nat} (hs : s.NoStep h) (i : Nat) : (s.dropActivation i).NoStep h := by
  have h2 : ((s.dequeue i).modTask i (fun t => { t with act := none })).NoStep h := hs.of_hewers (by simp)
  unfold State.dropActivation
  dsimp only
  split
  · split
    · exact (h2.modHew Hewer.bodyEnds_stepping).of_hewers rfl
    · exact h2
  · exact h2

@[simp] theorem State.toReady_hewers (s : State) (g i : Nat) : (s.toReady g i).hewers = s.hewers := by
  unfold State.toReady State.modAct
  dsimp only
  split <;> rfl

@[simp] theorem State.toLocalHead_hewers (s : State) (h i : Nat) : (s.toLocalHead h i).hewers = s.hewers := rfl

@[simp] theorem State.returnPackets_hewers (s : State) (l : List (Nat × Activation)) : (s.returnPackets l).hewers = s.hewers := by
  induction l generalizing s with
  | nil => rfl
  | cons x rest ih =>
    unfold State.returnPackets
    split
    · exact ih s
    · rw [ih]
      split <;> simp

/-- A draught event taken with its own stamp, and counted. -/
theorem State.NoStep.stampLog {s : State} {h : Nat} (hs : s.NoStep h) (loc time source code index attempt dw2 : Nat) (f : IoField) :
    (((s.stamp loc).2.drtLog time source code index attempt dw2).count f 1).NoStep h :=
  ((State.NoStep.logRecord (s := (s.stamp loc).2) (hs.of_hewers rfl) _).of_hewers (State.count_hewers _ _ _))

theorem State.NoStep.loseBody {s : State} {h : Nat} (hs : s.NoStep h) (k : Nat) : (s.loseBody k).NoStep h := by
  unfold State.loseBody
  split
  · exact hs
  · next i _ =>
    split
    · exact hs.modHew Hewer.bodyEnds_stepping
    · split
      · exact (hs.stampLog _ _ _ _ _ _ _ _).dropActivation i
      · split
        · have hbody (t : State) (ht : t.NoStep h) (f : Activation → Activation) :
              (((t.modAct i f).modHew k Hewer.bodyEnds).flushPred k).NoStep h :=
            (State.NoStep.modHew (ht.of_hewers (t := t.modAct i f) rfl) Hewer.bodyEnds_stepping).of_hewers rfl
          dsimp only
          split
          · exact (hbody _ (hs.stampLog _ _ _ _ _ _ _ _) _).of_hewers (State.toLocalHead_hewers _ _ _)
          · split
            · exact (hbody _ (hs.stampLog _ _ _ _ _ _ _ _) _).of_hewers (State.toReady_hewers _ _ _)
            · exact (hbody _ (hs.stampLog _ _ _ _ _ _ _ _) _).of_hewers (State.toLocalHead_hewers _ _ _)
        · exact (hs.stampLog _ _ _ _ _ _ _ _).dropActivation i

theorem State.NoStep.checkStop {s : State} {h : Nat} (hs : s.NoStep h) (k : Nat) : (s.checkStop k).NoStep h := by
  have hb := (hs.modHew (k := k) (f := fun x => { x with checkStopped := true, winS := false, winM := false }) fun _ => rfl).loseBody k
  exact State.NoStep.log (hb.of_hewers (State.returnPackets_hewers _ _)) _ _ _ _ _ _

end Sys2Proof.Machine

/-!
PROOFS. What the caches, translation and the event counters leave alone (R343, R413, R472, R796): the hewers, the bytes, the
predictors and every register but the counters of the hewer that they serve.
-/
namespace Sys2Proof.Machine

/-! ### The predictors under the caches -/

/-- The predictor of every twin. -/
def State.preds (s : State) : Nat → Predictor := fun k => (s.twin k).pred

theorem State.preds_of_twins {s t : State} (h : t.twins = s.twins) : t.preds = s.preds := by
  unfold State.preds State.twin
  rw [h]

theorem State.setTwin_preds (s : State) (t : Nat) {x : Twin} (hx : x.pred = (s.twin t).pred) : (s.setTwin t x).preds = s.preds := by
  funext k
  unfold State.preds State.setTwin State.twin
  by_cases hk : k = t
  · subst hk
    rw [Table.get_set_same, hx]
    rfl
  · rw [Table.get_set_other _ _ _ _ hk]

theorem State.modTwin_preds (s : State) (t : Nat) {f : Twin → Twin} (hf : ∀ x, (f x).pred = x.pred) : (s.modTwin t f).preds = s.preds :=
  s.setTwin_preds t (hf _)

@[simp] theorem State.reqPut_twins (s : State) (line src : Nat) (write : Bool) : (s.reqPut line src write).twins = s.twins := by
  unfold State.reqPut
  simp only [apply_ite State.twins, State.setDchan_twins, ite_self]

@[simp] theorem State.mscUse_twins (s : State) (line src : Nat) (write whole : Bool) : (s.mscUse line src write whole).twins = s.twins := by
  have hput (l : List (Nat × Bool)) (u : State) : (l.foldl (fun t e => t.reqPut e.1 srcDevice true) u).twins = u.twins :=
    foldl_leaves State.twins _ (fun t (e : Nat × Bool) => t.reqPut_twins e.1 srcDevice true) l u
  unfold State.mscUse
  split
  · rfl
  · split
    · exact s.reqPut_twins line src write
    · dsimp only
      split
      · rfl
      · refine (hput _ _).trans ?_
        split
        · rfl
        · exact s.reqPut_twins line src false

@[simp] theorem State.mscUse_preds (s : State) (line src : Nat) (write whole : Bool) : (s.mscUse line src write whole).preds = s.preds :=
  State.preds_of_twins (s.mscUse_twins line src write whole)

@[simp] theorem State.galleryDrop_preds (s : State) (g line : Nat) (keep : Option Nat) : (s.galleryDrop g line keep).preds = s.preds :=
  foldl_leaves State.preds (fun t i => t.modTwin i (fun x => x.l1dDrop line)) (fun t i => t.modTwin_preds i fun _ => rfl) _ s

@[simp] theorem State.galleryClean_preds (s : State) (g line : Nat) (keep : Option Nat) : (s.galleryClean g line keep).preds = s.preds :=
  foldl_leaves State.preds (fun t i => t.modTwin i (fun x => x.l1dClean line)) (fun t i => t.modTwin_preds i fun _ => rfl) _ s

@[simp] theorem State.setL2_preds (s : State) (g line : Nat) (l : List L2Line) : (s.setL2 g line l).preds = s.preds :=
  State.preds_of_twins rfl

@[simp] theorem State.l2Mod_preds (s : State) (g line : Nat) (f : L2Line → L2Line) : (s.l2Mod g line f).preds = s.preds :=
  State.preds_of_twins rfl

@[simp] theorem State.setDir_preds (s : State) (line : Nat) (d : DirLine) : (s.setDir line d).preds = s.preds :=
  State.preds_of_twins rfl

@[simp] theorem State.l2WriteBack_preds (s : State) (g line src : Nat) : (s.l2WriteBack g line src).preds = s.preds := by
  unfold State.l2WriteBack
  simp only [apply_ite State.preds, State.mscUse_preds, State.l2Mod_preds, State.galleryClean_preds, ite_self]

@[simp] theorem State.l2Drop_preds (s : State) (g line src : Nat) (keepTag : Bool) : (s.l2Drop g line src keepTag).preds = s.preds := by
  unfold State.l2Drop
  simp

@[simp] theorem State.invalidateLine_preds (s : State) (line src : Nat) (keep : Option Nat) :
    (s.invalidateLine line src keep).preds = s.preds :=
  foldl_leaves State.preds (fun t g => t.l2Drop g line src true) (fun t g => t.l2Drop_preds g line src true) _ s

@[simp] theorem State.shareLine_preds (s : State) (line src : Nat) : (s.shareLine line src).preds = s.preds :=
  (State.setDir_preds _ _ _).trans (foldl_leaves State.preds (fun t g => t.l2WriteBack g line src)
    (fun t g => t.l2WriteBack_preds g line src) _ s)

@[simp] theorem State.l2Place_preds (s : State) (g line w src : Nat) : (s.l2Place g line w src).preds = s.preds := by
  unfold State.l2Place
  dsimp only
  split <;> simp

@[simp] theorem State.l2Get_preds (s : State) (g line cls src : Nat) (write : Bool) : (s.l2Get g line cls src write).1.preds = s.preds := by
  unfold State.l2Get
  dsimp only
  split
  · split <;> simp
  · split
    · simp [apply_ite State.preds]
    · split
      · simp [apply_ite State.preds]
      · simp [apply_ite State.preds]

@[simp] theorem State.hubUse_preds (s : State) (line src : Nat) (write : Bool) : (s.hubUse line src write).preds = s.preds := by
  unfold State.hubUse
  simp [apply_ite State.preds]

/-! ### Beside the hewers, the bytes, the predictors and the other registers -/

/-- The registers that count the events of hewer `h` (R796). -/
def counterReg (h a : Nat) : Bool := decide (a = Adr.TLY_HWR_STAT h) || (List.range 8).any (fun n => decide (a = Adr.TLY_HWR_CTR h n))

theorem counterReg_eq_false {h a : Nat} :
    counterReg h a = false ↔ a ≠ Adr.TLY_HWR_STAT h ∧ ∀ n, n < 8 → a ≠ Adr.TLY_HWR_CTR h n := by
  simp [counterReg]

/-- What an access of hewer `h` to a cache or a translation structure leaves alone. -/
def State.beside (h : Nat) (s : State) : Table Hewer × MemState × (Nat → Predictor) × (Nat → Word) :=
  (s.hewers, s.mem, s.preds, fun a => if counterReg h a then 0 else s.reg a)

theorem State.beside_eq {s t : State} {h : Nat} : t.beside h = s.beside h ↔ t.hewers = s.hewers ∧ t.mem = s.mem ∧ t.preds = s.preds
    ∧ ∀ a, counterReg h a = false → t.reg a = s.reg a := by
  unfold State.beside
  simp only [Prod.mk.injEq]
  refine and_congr_right fun _ => and_congr_right fun _ => and_congr_right fun _ => ⟨fun e a ha => ?_, fun e => funext fun a => ?_⟩
  · have ea := congrFun e a
    simpa only [ha, Bool.false_eq_true, if_false] using ea
  · cases ha : counterReg h a with
    | false => simpa only [ha, Bool.false_eq_true, if_false] using e a ha
    | true => rfl

section
variable {s t : State} {h : Nat} (e : t.beside h = s.beside h)
include e

theorem State.hewers_of_beside : t.hewers = s.hewers := (State.beside_eq.mp e).1
theorem State.hew_of_beside (k : Nat) : t.hew k = s.hew k := by unfold State.hew; rw [State.hewers_of_beside e]
theorem State.mem_of_beside : t.mem = s.mem := (State.beside_eq.mp e).2.1
theorem State.preds_of_beside : t.preds = s.preds := (State.beside_eq.mp e).2.2.1
theorem State.reg_of_beside {a : Nat} (ha : counterReg h a = false) : t.reg a = s.reg a := (State.beside_eq.mp e).2.2.2 a ha

end

theorem State.beside_of_caches {s t : State} (h : Nat) (hc : CachesOf s t) (hp : t.preds = s.preds) : t.beside h = s.beside h :=
  State.beside_eq.mpr ⟨hc.hewers, hc.mem, hp, fun a _ => State.reg_of_regs hc.regs a⟩

theorem State.modTwin_beside (s : State) (h t : Nat) {f : Twin → Twin} (hf : ∀ x, (f x).pred = x.pred) :
    (s.modTwin t f).beside h = s.beside h := State.beside_of_caches h (State.modTwin_caches s t f rfl) (s.modTwin_preds t hf)

theorem State.setTwin_beside (s : State) (h t : Nat) {x : Twin} (hx : x.pred = (s.twin t).pred) :
    (s.setTwin t x).beside h = s.beside h := State.beside_of_caches h (State.setTwin_caches s t x rfl) (s.setTwin_preds t hx)

theorem State.setFld_beside (s : State) {h : Nat} {f : IoField} (v : Nat) (hf : counterReg h f.addr = true) :
    (s.setFld f v).beside h = s.beside h :=
  State.beside_eq.mpr ⟨State.setFld_hewers _ _ _, State.setFld_mem _ _ _, State.preds_of_twins (State.setFld_twins _ _ _), fun a ha =>
    State.setFld_reg_other s f v fun e => by rw [e, hf] at ha; cases ha⟩

@[simp] theorem State.draw_beside (s : State) (h : Nat) : s.draw.2.beside h = s.beside h := rfl

/-! ### Events (R796, R797, R801) -/

@[simp] theorem State.noteEvent_beside (s : State) (h k e : Nat) : (s.noteEvent k e).beside h = s.beside h := by
  unfold State.noteEvent
  split
  · exact s.modTwin_beside h _ fun _ => rfl
  · rfl

theorem State.addCount_beside (s : State) (h k : Nat) {n : Nat} (hn : n < 8) : (s.addCount h n k).beside h = s.beside h := by
  have hctr : counterReg h (Adr.TLY_HWR_CTR h n) = true := by
    unfold counterReg
    rw [List.any_eq_true.mpr ⟨n, List.mem_range.mpr hn, decide_eq_true rfl⟩, Bool.or_true]
  have hstat : counterReg h (Adr.TLY_HWR_STAT h) = true := by
    unfold counterReg
    rw [decide_eq_true rfl, Bool.true_or]
  have hc (v : Nat) : (s.setFld (F.TLY_HWR_CTR.COUNT h n) v).beside h = s.beside h := s.setFld_beside v hctr
  unfold State.addCount
  dsimp only
  split
  · exact hc _
  · exact (State.setFld_beside _ _ hstat).trans (hc _)

theorem State.tallyFrom_beside (s : State) (h e k m n : Nat) (hm : n + m ≤ 8) : (s.tallyFrom h e k m n).beside h = s.beside h := by
  induction m generalizing s n with
  | zero => rfl
  | succ j ih =>
    rw [State.tallyFrom, ih _ _ (by omega)]
    split
    · exact s.addCount_beside h k (by omega)
    · rfl

@[simp] theorem State.tally_beside (s : State) (h e : Nat) : (s.tally h e).beside h = s.beside h :=
  (State.tallyFrom_beside _ h e 1 8 0 (by decide)).trans (s.noteEvent_beside h h e)

/-! ### The caches (R343, R371, R472 to R479) -/

@[simp] theorem State.l2Request_beside (s : State) (h line ca cls : Nat) (write : Bool) :
    (s.l2Request h line ca cls write).1.beside h = s.beside h := by
  have hget : (s.l2Get (h / 8) line cls h write).1.beside h = s.beside h :=
    State.beside_of_caches h (State.l2Get_caches s (h / 8) line cls h write rfl) (s.l2Get_preds _ _ _ _ _)
  unfold State.l2Request
  split
  · exact State.beside_of_caches h (State.hubUse_caches s line h write rfl) (s.hubUse_preds line h write)
  · dsimp only
    split <;> simp [hget]

@[simp] theorem State.walkRead_beside (s : State) (h pa : Nat) : (s.walkRead h pa).beside h = s.beside h :=
  s.l2Request_beside h (pa / 64) 1 0 false

@[simp] theorem State.l1iUse_beside (s : State) (h pa ca cls : Nat) (wrong : Bool) :
    (s.l1iUse h pa ca cls wrong).beside h = s.beside h := by
  unfold State.l1iUse
  dsimp only
  split
  · exact s.modTwin_beside h _ fun _ => rfl
  · refine (State.modTwin_beside _ h _ fun _ => by rfl).trans ?_
    simp

@[simp] theorem State.l2Mod_beside (s : State) (h g line : Nat) (f : L2Line → L2Line) : (s.l2Mod g line f).beside h = s.beside h :=
  State.beside_of_caches h (State.l2Mod_caches s g line f rfl) (s.l2Mod_preds g line f)

@[simp] theorem State.l1dOthers_beside (s : State) (h g tn line : Nat) (write : Bool) :
    (s.l1dOthers g tn line write).beside h = s.beside h := by
  have hdrop (t : State) : (t.galleryDrop g line (some tn)).beside h = t.beside h :=
    State.beside_of_caches h (State.galleryDrop_caches t g line _ rfl) (t.galleryDrop_preds g line _)
  have hclean (t : State) : (t.galleryClean g line (some tn)).beside h = t.beside h :=
    State.beside_of_caches h (State.galleryClean_caches t g line _ rfl) (t.galleryClean_preds g line _)
  unfold State.l1dOthers
  simp only [apply_ite (State.beside h), hdrop, hclean, State.l2Mod_beside, ite_self]

@[simp] theorem State.l1dFill_beside (s : State) (h g tn line : Nat) (dirty : Bool) :
    (s.l1dFill g tn line dirty).beside h = s.beside h := by
  unfold State.l1dFill
  refine (State.modTwin_beside _ h _ fun _ => by rfl).trans (foldl_leaves (State.beside h) _ (fun t e => ?_) _ s)
  split <;> simp

@[simp] theorem State.ownLine_beside (s : State) (h line : Nat) : (s.ownLine h line).beside h = s.beside h :=
  State.beside_of_caches h (State.setDir_caches _ _ _ (State.invalidateLine_caches s line h _ rfl))
    ((State.setDir_preds _ _ _).trans (s.invalidateLine_preds line h _))

@[simp] theorem State.dataLine_beside (s : State) (h line ca cls : Nat) (write : Bool) :
    (s.dataLine h line ca cls write).1.beside h = s.beside h := by
  have htally : (s.tallyFrom h 0x00B 1 8 0).beside h = s.beside h := s.tallyFrom_beside h 0x00B 1 8 0 (by decide)
  unfold State.dataLine
  dsimp only
  split
  · simp [apply_ite (State.beside h)]
  · simp [apply_ite (State.beside h), apply_ite Prod.fst, htally]

end Sys2Proof.Machine

/-!
PROOFS. What a draining store buffer changes (R305, R343): the bytes and the reservations of the other hewers, as the stores say, and
nothing that depends on the registers or the predictor of its own hewer.
-/
namespace Sys2Proof.Machine

/-- What the lemma on an operation says of the canonical form, read for the form alone. -/
theorem State.Canonical.of_kept {s t : State} (hc : s.Canonical) (hk : Kept s.devnum s → Kept s.devnum t) : t.Canonical :=
  ((kept_iff _ _).mp (hk ((kept_iff _ _).mpr ⟨rfl, hc⟩))).2

/-! ### One store (R305) -/

/-- What a key reads after every entry of a table in canonical form has been changed. -/
theorem Table.get_mapKept {α : Type} [DecidableEq α] {t : Table α} {d : α} (hw : t.wf (fun _ => d) = true) (f : Nat → α → α) {k : Nat}
    (hd : f k d = d) :
    Table.get (t.filterMap (fun (e : Nat × α) => if f e.1 e.2 = d then none else some (e.1, f e.1 e.2))) d k = f k (t.get d k) := by
  rcases Table.get_default_or_mem (t.filterMap (fun (e : Nat × α) => if f e.1 e.2 = d then none else some (e.1, f e.1 e.2))) d k
    with e | hm
  · rw [e]
    rcases Table.get_default_or_mem t d k with e' | hm'
    · rw [e', hd]
    · by_contra hne
      have hin : (k, f k (t.get d k)) ∈ t.filterMap (fun (e : Nat × α) => if f e.1 e.2 = d then none else some (e.1, f e.1 e.2)) :=
        List.mem_filterMap.mpr ⟨_, hm', if_neg (Ne.symm hne)⟩
      exact hne (e.symm.trans (Table.get_of_mem (Table.wf_mapKept t d f hw) d hin))
  · obtain ⟨⟨j, x⟩, hx, he⟩ := List.mem_filterMap.mp hm
    obtain ⟨-, he⟩ := Option.ite_none_left_eq_some.mp he
    injection he with he
    injection he with hj hv
    dsimp only at hj hv
    subst hj
    rw [← hv, Table.get_of_mem hw d hx]

/-- A write takes the reservation of every hewer but the writer's. -/
theorem State.clearResv_hew {s : State} (hc : s.Canonical) (who : Option Nat) (a n k : Nat) :
    (s.clearResv who a n).hew k = if who = some k then s.hew k else (s.hew k).loseResv a n := by
  have hreset : (if who = some k then Hewer.reset else Hewer.reset.loseResv a n) = Hewer.reset := by
    split <;> rfl
  exact Table.get_mapKept hc.hewers (fun j x => if who = some j then x else x.loseResv a n) hreset

theorem State.rawWrite_mem_of_mem {s t : State} (e : t.mem = s.mem) (a : Nat) (l : List Byte) :
    (t.rawWrite a l).mem = (s.rawWrite a l).mem := by
  induction l generalizing s t a with
  | nil => exact e
  | cons b r ih =>
    unfold State.rawWrite
    exact ih (by rw [e]) (a + 1)

/-- The caches' part in a store that is performed. -/
def State.linesTaken (s : State) (h : Nat) (e : StoreEntry) : State :=
  (linesOf e.pa e.data.length).foldl (fun t k => (t.dataLine h k e.ca e.cls true).1) s

theorem State.linesTaken_beside (s : State) (h : Nat) (e : StoreEntry) : (s.linesTaken h e).beside h = s.beside h :=
  foldl_leaves (State.beside h) _ (fun t k => t.dataLine_beside h k e.ca e.cls true) _ s

theorem State.sbPerform_eq (s : State) (h : Nat) (e : StoreEntry) :
    s.sbPerform h e = ((s.linesTaken h e).rawWrite e.pa e.data).clearResv (some h) e.pa e.data.length := rfl

theorem State.sbPerform_mem (s : State) (h : Nat) (e : StoreEntry) : (s.sbPerform h e).mem = (s.rawWrite e.pa e.data).mem :=
  State.rawWrite_mem_of_mem (State.mem_of_beside (s.linesTaken_beside h e)) e.pa e.data

theorem State.sbPerform_hew {s : State} (hc : s.Canonical) (h : Nat) (e : StoreEntry) (k : Nat) :
    (s.sbPerform h e).hew k = if k = h then s.hew k else (s.hew k).loseResv e.pa e.data.length := by
  have hw : ((s.linesTaken h e).rawWrite e.pa e.data).hew k = s.hew k := by
    have hl := State.hew_of_beside (s.linesTaken_beside h e) k
    unfold State.hew at *
    rw [State.rawWrite_hewers, hl]
  have hcw : ((s.linesTaken h e).rawWrite e.pa e.data).Canonical :=
    hc.of_kept fun hk => State.rawWrite_kept _ _ _ (foldl_kept _ _ _ (fun t x ht => State.dataLine_kept t _ _ _ _ _ ht) hk)
  rw [State.sbPerform_eq, State.clearResv_hew hcw, hw]
  simp only [Option.some.injEq, eq_comm]

theorem State.sbPerform_reg (s : State) (h : Nat) (e : StoreEntry) {a : Nat} (ha : counterReg h a = false) :
    (s.sbPerform h e).reg a = s.reg a := by
  have hl := State.reg_of_beside (s.linesTaken_beside h e) ha
  unfold State.reg at *
  rw [State.sbPerform_eq]
  exact (congrArg (fun l => Table.get l _ a) (State.rawWrite_regs _ _ _)).trans hl

theorem State.sbPerform_preds (s : State) (h : Nat) (e : StoreEntry) : (s.sbPerform h e).preds = s.preds := by
  obtain ⟨b, hb⟩ := State.rawWrite_rest (s.linesTaken h e) e.pa e.data
  have htwins : (s.sbPerform h e).twins = (s.linesTaken h e).twins := by
    rw [State.sbPerform_eq, hb]
    rfl
  exact (State.preds_of_twins htwins).trans (State.preds_of_beside (s.linesTaken_beside h e))

/-! ### The buffer (R343) -/

/-- The stores of a list are performed. -/
def State.performed (s : State) (h : Nat) (l : List StoreEntry) : State := l.foldl (fun t e => t.sbPerform h e) s

theorem State.performed_canonical {s : State} (hc : s.Canonical) (h : Nat) (l : List StoreEntry) : (s.performed h l).Canonical :=
  hc.of_kept fun hk => foldl_kept _ _ _ (fun t e ht => State.sbPerform_kept t h e ht) hk

theorem State.performed_reg (s : State) (h : Nat) (l : List StoreEntry) {a : Nat} (ha : counterReg h a = false) :
    (s.performed h l).reg a = s.reg a :=
  foldl_leaves (fun t : State => t.reg a) _ (fun t e => t.sbPerform_reg h e ha) l s

theorem State.performed_preds (s : State) (h : Nat) (l : List StoreEntry) : (s.performed h l).preds = s.preds :=
  foldl_leaves State.preds _ (fun t e => t.sbPerform_preds h e) l s

theorem State.performed_hew_self {s : State} (hc : s.Canonical) (h : Nat) (l : List StoreEntry) : (s.performed h l).hew h = s.hew h := by
  induction l generalizing s with
  | nil => rfl
  | cons e r ih =>
    have hcp := hc.of_kept fun hk => State.sbPerform_kept s h e hk
    exact (ih hcp).trans (by rw [State.sbPerform_hew hc, if_pos rfl])

/-- Two states that agree in the bytes and in every hewer but `h`. -/
structure State.Alike (h : Nat) (s t : State) : Prop where
  mem : t.mem = s.mem
  hew : ∀ k, k ≠ h → t.hew k = s.hew k

theorem State.Alike.sbPerform {s t : State} {h : Nat} (ha : s.Alike h t) (hs : s.Canonical) (ht : t.Canonical) (e : StoreEntry) :
    (s.sbPerform h e).Alike h (t.sbPerform h e) where
  mem := by rw [State.sbPerform_mem, State.sbPerform_mem, State.rawWrite_mem_of_mem ha.mem]
  hew k hk := by rw [State.sbPerform_hew hs, State.sbPerform_hew ht, if_neg hk, if_neg hk, ha.hew k hk]

theorem State.Alike.performed {s t : State} {h : Nat} (ha : s.Alike h t) (hs : s.Canonical) (ht : t.Canonical) (l : List StoreEntry) :
    (s.performed h l).Alike h (t.performed h l) := by
  induction l generalizing s t with
  | nil => exact ha
  | cons e r ih =>
    exact ih (ha.sbPerform hs ht e) (hs.of_kept fun hk => State.sbPerform_kept s h e hk)
      (ht.of_kept fun hk => State.sbPerform_kept t h e hk)

/-- The stores of the buffer that backs hewer `h`. -/
def State.buffered (s : State) (h : Nat) : List StoreEntry := (s.twin (s.twinOf h)).sbuf

/-- The buffer without its `n` oldest stores. -/
def State.sbRest (s : State) (h n : Nat) : State := s.modTwin (s.twinOf h) (fun t => { t with sbuf := (s.buffered h).drop n })

theorem State.sbDrain_eq (s : State) (h n : Nat) : s.sbDrain h n = (s.sbRest h n).performed h ((s.buffered h).take n) := rfl

theorem State.sbRest_beside (s : State) (h n k : Nat) : (s.sbRest h n).beside k = s.beside k := s.modTwin_beside k _ fun _ => rfl

theorem State.sbRest_canonical {s : State} (hc : s.Canonical) (h n : Nat) : (s.sbRest h n).Canonical :=
  hc.of_kept fun hk => State.modTwin_kept _ _ _ hk

theorem State.sbDrain_canonical {s : State} (hc : s.Canonical) (h n : Nat) : (s.sbDrain h n).Canonical :=
  State.performed_canonical (State.sbRest_canonical hc h n) h _

theorem State.sbDrain_reg (s : State) (h n : Nat) {a : Nat} (ha : counterReg h a = false) : (s.sbDrain h n).reg a = s.reg a :=
  (State.performed_reg _ h _ ha).trans (State.reg_of_beside (s.sbRest_beside h n h) ha)

theorem State.sbDrain_preds (s : State) (h n : Nat) : (s.sbDrain h n).preds = s.preds :=
  (State.performed_preds _ h _).trans (State.preds_of_beside (s.sbRest_beside h n h))

theorem State.sbDrain_hew_self {s : State} (hc : s.Canonical) (h n : Nat) : (s.sbDrain h n).hew h = s.hew h :=
  (State.performed_hew_self (State.sbRest_canonical hc h n) h _).trans (State.hew_of_beside (s.sbRest_beside h n h) h)

/-- Equal buffers drain alike in states that are alike. -/
theorem State.Alike.sbDrain {s t : State} {h : Nat} (ha : s.Alike h t) (hs : s.Canonical) (ht : t.Canonical)
    (hb : t.buffered h = s.buffered h) (n : Nat) : (s.sbDrain h n).Alike h (t.sbDrain h n) := by
  have hrest : (s.sbRest h n).Alike h (t.sbRest h n) := ⟨ha.mem, ha.hew⟩
  rw [State.sbDrain_eq, State.sbDrain_eq, hb]
  exact hrest.performed (State.sbRest_canonical hs h n) (State.sbRest_canonical ht h n) _

theorem State.sbPerform_noStep {s : State} {k : Nat} (hs : s.NoStep k) (h : Nat) (e : StoreEntry) : (s.sbPerform h e).NoStep k := by
  have hw : ((s.linesTaken h e).rawWrite e.pa e.data).NoStep k :=
    hs.of_hewers ((State.rawWrite_hewers _ _ _).trans (State.hewers_of_beside (s.linesTaken_beside h e)))
  exact hw.clearResv (some h) e.pa e.data.length

theorem State.NoStep.sbDrain {s : State} {k : Nat} (hs : s.NoStep k) (h n : Nat) : (s.sbDrain h n).NoStep k := by
  have hl (l : List StoreEntry) (u : State) (hu : u.NoStep k) : (u.performed h l).NoStep k := by
    induction l generalizing u with
    | nil => exact hu
    | cons e r ih => exact ih _ (State.sbPerform_noStep hu h e)
  exact hl _ _ (hs.of_hewers (State.hewers_of_beside (s.sbRest_beside h n h)))

end Sys2Proof.Machine

/-!
PROOFS. The entry to S and M (R249, R305, R322, R374, R440 to R448): the hewer that it leaves, written out, and what it leaves alone.
-/
namespace Sys2Proof.Machine

/-! ### The status register by its fields (R265) -/

theorem Hewer.psf_setPsf_same (x : Hewer) {hi lo : Nat} (v : Nat) (h : lo ≤ hi) (h64 : hi < 64) :
    (x.setPsf hi lo v).psf hi lo = v % 2 ^ (hi + 1 - lo) := by
  have hlt : setBits x.pstat.toNat hi lo v < 2 ^ 64 := setBits_lt _ _ _ _ _ (by omega) x.pstat.isLt h64
  simp only [Hewer.psf, Hewer.setPsf, BitVec.toNat_ofNat, Nat.mod_eq_of_lt hlt]
  exact bitsOf_setBits_same _ _ _ _ (by omega)

theorem Hewer.psf_setPsf_other (x : Hewer) {hi lo hi' lo' : Nat} (v : Nat) (h : lo ≤ hi) (h64 : hi < 64) (hd : hi < lo' ∨ hi' < lo) :
    (x.setPsf hi lo v).psf hi' lo' = x.psf hi' lo' := by
  have hlt : setBits x.pstat.toNat hi lo v < 2 ^ 64 := setBits_lt _ _ _ _ _ (by omega) x.pstat.isLt h64
  simp only [Hewer.psf, Hewer.setPsf, BitVec.toNat_ofNat, Nat.mod_eq_of_lt hlt]
  exact bitsOf_setBits_other _ _ _ _ _ _ (by omega) hd

/-! ### Loads that return at an entry (R341, R374) -/

/-- The hewer `x` with the registers, marks and outstanding loads of `f`. -/
def Hewer.withFiles (x f : Hewer) : Hewer :=
  { x with w := f.w, v := f.v, wPoison := f.wPoison, vPoison := f.vPoison, missed := f.missed }

theorem Hewer.landLoad_withFiles (x f : Hewer) (m : MissedLoad) : (x.withFiles f).landLoad m = x.withFiles (f.landLoad m) := by
  unfold Hewer.landLoad Hewer.withFiles Hewer.setV Hewer.setW
  split
  · dsimp only
    split <;> rfl
  · split
    · rfl
    · dsimp only
      split <;> rfl

theorem Hewer.landLoads_withFiles (x f : Hewer) (l : List MissedLoad) :
    l.foldl Hewer.landLoad (x.withFiles f) = x.withFiles (l.foldl Hewer.landLoad f) := by
  induction l generalizing f with
  | nil => rfl
  | cons m r ih => exact (congrArg (r.foldl Hewer.landLoad) (x.landLoad_withFiles f m)).trans (ih _)

/-- Loads return into the registers, whatever the rest of the hewer. -/
theorem Hewer.landBack_withFiles (x f : Hewer) : (x.withFiles f).landBack = x.withFiles f.landBack := by
  unfold Hewer.landBack
  rw [Hewer.landLoads_withFiles]
  rfl

/-! ### A break in the flow (R305, R322, R329, R363, R447, R476, R486) -/

/-- What a break in the flow ends of its hewer. -/
def Hewer.broken (x : Hewer) : Hewer := { x with resv := none, ctl := [], unit := none, rep := none, cdtOld := [], micro := none }

section
variable (s : State) {h k : Nat}

theorem State.cdtReach_hew_same (h : Nat) : (s.cdtReach h).hew h = { s.hew h with cdtOld := [], micro := none } := by
  unfold State.cdtReach State.cdtBring State.modHew
  simp only [State.hew_setHew_same]
  rfl

theorem State.cdtReach_hew_other (hk : k ≠ h) : (s.cdtReach h).hew k = s.hew k := by
  unfold State.cdtReach State.cdtBring State.modHew
  simp only [State.hew_setHew_other _ _ hk]
  rfl

theorem State.cdtReach_mem (h : Nat) : (s.cdtReach h).mem = s.mem := rfl

theorem State.cdtReach_regs (h : Nat) : (s.cdtReach h).regs = s.regs := rfl

variable {s} in
theorem State.NoStep.cdtReach (hs : s.NoStep k) : (s.cdtReach h).NoStep k := by
  have ht (x : Twin) : (s.setTwin (s.twinOf h) x).NoStep k := hs.of_hewers (State.setTwin_hewers _ _ _)
  unfold State.cdtReach State.cdtBring
  dsimp only
  exact (State.NoStep.modHew (ht _) fun _ => by rfl).modHew fun _ => by rfl

end

/-- The state in which a break in the flow ends what the hewer has under way: predictor cold, stores performed, no code held. -/
def State.calm (s : State) (h : Nat) : State := ((s.flushPred h).sbFlush h).l1iDrop h

/-- What a break in the flow ends at once. -/
def Hewer.unbound (x : Hewer) : Hewer := { x with resv := none, ctl := [], unit := none, rep := none }

theorem State.breakFlow_eq (s : State) (h : Nat) : s.breakFlow h = ((s.calm h).modHew h Hewer.unbound).cdtReach h := rfl

theorem State.flushPred_canonical {s : State} (hc : s.Canonical) (h : Nat) : (s.flushPred h).Canonical :=
  hc.of_kept fun hk => State.flushPred_kept s h hk

theorem State.flushPred_buffered (s : State) (h : Nat) : (s.flushPred h).buffered h = s.buffered h := by
  have ht : (s.flushPred h).twin (s.twinOf h) = { s.twin (s.twinOf h) with pred := Predictor.cold } := Table.get_set_same _ _ _ _
  show ((s.flushPred h).twin (s.twinOf h)).sbuf = (s.twin (s.twinOf h)).sbuf
  rw [ht]

theorem State.calm_hewers (s : State) (h : Nat) : (s.calm h).hewers = ((s.flushPred h).sbFlush h).hewers := State.modTwin_hewers _ _ _

theorem State.calm_mem (s : State) (h : Nat) : (s.calm h).mem = ((s.flushPred h).sbFlush h).mem := rfl

theorem State.calm_hew (s : State) (h k : Nat) : (s.calm h).hew k = ((s.flushPred h).sbFlush h).hew k :=
  congrArg (fun l => Table.get l Hewer.reset k) (s.calm_hewers h)

theorem State.calm_regs (s : State) (h : Nat) : (s.calm h).regs = ((s.flushPred h).sbFlush h).regs := rfl

section
variable {s : State} {h : Nat}

theorem State.breakFlow_hew_same (hc : s.Canonical) : (s.breakFlow h).hew h = (s.hew h).broken := by
  have hflush : ((s.flushPred h).sbFlush h).hew h = (s.flushPred h).hew h := State.sbDrain_hew_self (State.flushPred_canonical hc h) h 8
  have hcalm : (s.calm h).hew h = s.hew h := (s.calm_hew h h).trans hflush
  rw [State.breakFlow_eq, State.cdtReach_hew_same, State.modHew, State.hew_setHew_same, hcalm]
  rfl

/-- A break performs the buffered stores: the bytes and the other hewers are as after them. -/
theorem State.breakFlow_alike (hc : s.Canonical) : (s.sbFlush h).Alike h (s.breakFlow h) := by
  have hx : s.Alike h (s.flushPred h) := ⟨rfl, fun _ _ => rfl⟩
  obtain ⟨hmem, hhew⟩ := hx.sbDrain hc (State.flushPred_canonical hc h) (s.flushPred_buffered h) 8
  refine ⟨?_, fun k hk => ?_⟩
  · rw [State.breakFlow_eq, State.cdtReach_mem]
    exact (s.calm_mem h).trans hmem
  · rw [State.breakFlow_eq, State.cdtReach_hew_other _ hk, State.modHew, State.hew_setHew_other _ _ hk, State.calm_hew]
    exact hhew k hk

theorem State.breakFlow_regs (s : State) (h : Nat) : (s.breakFlow h).regs = ((s.flushPred h).sbFlush h).regs := by
  rw [State.breakFlow_eq, State.cdtReach_regs]
  exact s.calm_regs h

theorem State.breakFlow_reg {a : Nat} (ha : counterReg h a = false) : (s.breakFlow h).reg a = s.reg a := by
  have hr : ((s.flushPred h).sbFlush h).reg a = s.reg a := State.sbDrain_reg (s.flushPred h) h 8 ha
  unfold State.reg at *
  rw [State.breakFlow_regs]
  exact hr

theorem State.NoStep.breakFlow {k : Nat} (hs : s.NoStep k) : (s.breakFlow h).NoStep k := by
  have hp : (s.flushPred h).NoStep k := hs.of_hewers (State.modTwin_hewers _ _ _)
  have hm : ((s.calm h).modHew h Hewer.unbound).NoStep k := ((hp.sbDrain h 8).of_hewers (s.calm_hewers h)).modHew fun _ => by rfl
  rw [State.breakFlow_eq]
  exact hm.cdtReach

end

/-! ### The hewer after an entry (R249, R374, R446, R447) -/

/-- The entries to the privilege of the handler that is to restore a thread, counted where this entry is one more (R836). -/
def Hewer.nested (x : Hewer) (m : Bool) : Option (Nat × Nat) :=
  match x.eretRestores with
  | some (p, n) => if p = x.pl && p = (if m then 3 else 1) then some (p, n + 1) else some (p, n)
  | none => none

/-- The set entered and the status: what the entry saves and sets. -/
def Hewer.saves (x : Hewer) (m isInt : Bool) (code : Nat) (epc : Word) (eval : Option Word) (lvl : Option Nat) : Hewer :=
  let e := x.set m
  let y := (x.putSet m { e with epc := epc, ecause := x.causeWord isInt code, eval := eval.getD e.eval }).setPsf 15 14
    (if m then 3 else 1)
  match lvl with
  | some l => y.setPsf 27 24 l
  | none => y

/-- The vector of an entry (R446). -/
def Hewer.vector (x : Hewer) (m isInt : Bool) (code : Nat) : Word :=
  (x.set m).vbase + BitVec.ofNat 64 ((if isInt then 0x800 else 0) + code * 64)

/-- The hewer after an entry. -/
def Hewer.entered (x : Hewer) (m isInt : Bool) (code : Nat) (epc : Word) (eval : Option Word) (lvl : Option Nat) : Hewer :=
  { (((x.saves m isInt code epc eval lvl).withFiles x.landBack).openWindow m) with
    pc := x.vector m isInt code, eretRestores := x.nested m, rom := 0 }

theorem Hewer.saves_withFiles (x : Hewer) (m isInt : Bool) (code : Nat) (epc : Word) (eval : Option Word) (lvl : Option Nat) :
    x.saves m isInt code epc eval lvl = (x.saves m isInt code epc eval lvl).withFiles x := by
  unfold Hewer.saves Hewer.setPsf Hewer.putSet Hewer.withFiles
  cases m <;> cases lvl <;> rfl

theorem State.enter_eq (s : State) (h : Nat) (m isInt : Bool) (code : Nat) (epc : Word) (eval : Option Word) (lvl : Option Nat) :
    s.enter h m isInt code epc eval lvl = (s.setHew h ((s.hew h).entered m isInt code epc eval lvl)).breakFlow h := by
  have hl : ((s.hew h).saves m isInt code epc eval lvl).landBack
      = ((s.hew h).saves m isInt code epc eval lvl).withFiles (s.hew h).landBack := by
    conv_lhs => rw [Hewer.saves_withFiles, Hewer.landBack_withFiles]
  unfold Hewer.entered
  rw [← hl]
  rfl

end Sys2Proof.Machine

/-!
PROOFS. Taking an exception (R249, R251, R440 to R448): the fields of the hewer that an entry leaves, and what it leaves alone.
-/
namespace Sys2Proof.Machine

/-! ### The fields of the hewer entered -/

section
variable (x : Hewer) (m isInt : Bool) (code : Nat) (epc : Word) (eval : Option Word) (lvl : Option Nat)

theorem Hewer.saves_set : (x.saves m isInt code epc eval lvl).set m
    = { x.set m with epc := epc, ecause := x.causeWord isInt code, eval := eval.getD (x.set m).eval } := by
  cases m <;> cases lvl <;> rfl

theorem Hewer.saves_set_not : (x.saves m isInt code epc eval lvl).set (!m) = x.set (!m) := by
  cases m <;> cases lvl <;>
    simp only [Hewer.saves, Hewer.setPsf, Hewer.putSet, Hewer.set, Bool.not_true, Bool.not_false, Bool.false_eq_true, if_false, if_true]

theorem Hewer.putSet_pstat (e : ExcSet) : (x.putSet m e).pstat = x.pstat := by
  cases m <;> rfl

theorem Hewer.saves_pl : (x.saves m isInt code epc eval lvl).pl = if m then 3 else 1 := by
  have hpl (y : Hewer) : (y.setPsf 15 14 (if m then 3 else 1)).pl = if m then 3 else 1 := by
    rw [Hewer.pl, Hewer.psf_setPsf_same _ _ (by decide) (by decide)]
    cases m <;> rfl
  cases lvl with
  | none => exact hpl _
  | some l => exact (Hewer.psf_setPsf_other _ _ (by decide) (by decide) (.inr (by decide))).trans (hpl _)

theorem Hewer.saves_ilvl : (x.saves m isInt code epc eval lvl).ilvl = lvl.elim x.ilvl (· % 16) := by
  cases lvl with
  | none =>
    refine (Hewer.psf_setPsf_other _ _ (by decide) (by decide) (.inl (by decide))).trans ?_
    rw [Hewer.psf, Hewer.putSet_pstat]
    rfl
  | some l => exact Hewer.psf_setPsf_same _ _ (by decide) (by decide)

/-- Loads that return and a window that opens leave the sets and the status alone. -/
theorem Hewer.withFiles_openWindow (y f : Hewer) :
    ((y.withFiles f).openWindow m).mSet = y.mSet ∧ ((y.withFiles f).openWindow m).sSet = y.sSet
      ∧ ((y.withFiles f).openWindow m).pstat = y.pstat := by
  cases m <;> exact ⟨rfl, rfl, rfl⟩

theorem Hewer.entered_sets : (x.entered m isInt code epc eval lvl).broken.mSet = (x.saves m isInt code epc eval lvl).mSet
    ∧ (x.entered m isInt code epc eval lvl).broken.sSet = (x.saves m isInt code epc eval lvl).sSet
    ∧ (x.entered m isInt code epc eval lvl).broken.pstat = (x.saves m isInt code epc eval lvl).pstat :=
  Hewer.withFiles_openWindow m _ _

theorem Hewer.entered_set (m' : Bool) :
    (x.entered m isInt code epc eval lvl).broken.set m' = (x.saves m isInt code epc eval lvl).set m' := by
  obtain ⟨hm, hs, -⟩ := x.entered_sets m isInt code epc eval lvl
  unfold Hewer.set
  rw [hm, hs]

theorem Hewer.entered_psf (hi lo : Nat) :
    (x.entered m isInt code epc eval lvl).broken.psf hi lo = (x.saves m isInt code epc eval lvl).psf hi lo := by
  obtain ⟨-, -, hp⟩ := x.entered_sets m isInt code epc eval lvl
  unfold Hewer.psf
  rw [hp]

/-- The set entered holds what R249 says, and the other set is kept. -/
theorem Hewer.entered_saved :
    (x.entered m isInt code epc eval lvl).broken.set m
        = { x.set m with epc := epc, ecause := x.causeWord isInt code, eval := eval.getD (x.set m).eval }
      ∧ (x.entered m isInt code epc eval lvl).broken.set (!m) = x.set (!m) := by
  rw [Hewer.entered_set, Hewer.entered_set]
  exact ⟨Hewer.saves_set .., Hewer.saves_set_not ..⟩

theorem Hewer.entered_pl : (x.entered m isInt code epc eval lvl).broken.pl = if m then 3 else 1 :=
  (x.entered_psf m isInt code epc eval lvl 15 14).trans (x.saves_pl m isInt code epc eval lvl)

theorem Hewer.entered_ilvl : (x.entered m isInt code epc eval lvl).broken.ilvl = lvl.elim x.ilvl (· % 16) :=
  (x.entered_psf m isInt code epc eval lvl 27 24).trans (x.saves_ilvl m isInt code epc eval lvl)

theorem Hewer.saves_windows :
    (x.saves m isInt code epc eval lvl).winM = x.winM ∧ (x.saves m isInt code epc eval lvl).winS = x.winS := by
  cases m <;> cases lvl <;>
    simp only [Hewer.saves, Hewer.setPsf, Hewer.putSet, Bool.false_eq_true, if_false, if_true, and_self]

/-- The registers are those with the loads that return, and the window of the set opens. -/
theorem Hewer.entered_files :
    (x.entered m isInt code epc eval lvl).broken.w = x.landBack.w ∧ (x.entered m isInt code epc eval lvl).broken.v = x.landBack.v
      ∧ (x.entered m isInt code epc eval lvl).broken.winM = (m || x.winM)
      ∧ (x.entered m isInt code epc eval lvl).broken.winS = (!m || x.winS) := by
  obtain ⟨hM, hS⟩ := x.saves_windows m isInt code epc eval lvl
  unfold Hewer.entered
  generalize x.saves m isInt code epc eval lvl = y at hM hS
  rw [← hM, ← hS]
  cases m <;> exact ⟨rfl, rfl, rfl, rfl⟩

/-- The cause, the privilege, the level and the flags in ECAUSE (R249). -/
theorem Hewer.causeWord_bits (hcode : code < 256) :
    bitsOf (x.causeWord false code).toNat 8 0 = code ∧ bitsOf (x.causeWord false code).toNat 17 16 = x.pl
      ∧ bitsOf (x.causeWord false code).toNat 31 28 = x.nzcv ∧ bitsOf (x.causeWord false code).toNat 27 24 = x.ilvl := by
  have hn : x.nzcv < 16 := bitsOf_lt _ _ _
  have hi : x.ilvl < 16 := bitsOf_lt _ _ _
  have hp : x.pl < 4 := bitsOf_lt _ _ _
  have hw : (x.causeWord false code).toNat = x.nzcv * 268435456 + x.ilvl * 16777216 + x.pl * 65536 + code := by
    simp only [Hewer.causeWord, b2n, BitVec.toNat_ofNat, Bool.false_eq_true, if_false]
    omega
  rw [hw]
  simp only [bitsOf]
  omega

end

/-! ### The state after an entry -/

section
variable {s : State} {h : Nat} {m isInt : Bool} {code : Nat} {epc : Word} {eval : Option Word} {lvl : Option Nat}

theorem State.enter_hew_same (hc : s.Canonical) :
    (s.enter h m isInt code epc eval lvl).hew h = ((s.hew h).entered m isInt code epc eval lvl).broken := by
  rw [State.enter_eq, State.breakFlow_hew_same (s.setHew_canonical h _ hc), State.hew_setHew_same]

theorem State.setHew_alike (s : State) (h : Nat) (x : Hewer) : s.Alike h (s.setHew h x) := ⟨rfl, fun _ hk => s.hew_setHew_other x hk⟩

theorem State.setHew_buffered (s : State) (h : Nat) (x : Hewer) : (s.setHew h x).buffered h = s.buffered h := rfl

/-- A break in the flow after a change of the hewer: the bytes and the other hewers are as after the buffered stores. -/
theorem State.breakFlow_setHew_alike (hc : s.Canonical) (x : Hewer) : (s.sbFlush h).Alike h ((s.setHew h x).breakFlow h) := by
  have hcx := s.setHew_canonical h x hc
  obtain ⟨hmem, hhew⟩ := (s.setHew_alike h x).sbDrain hc hcx (s.setHew_buffered h x) 8
  obtain ⟨hmem', hhew'⟩ := State.breakFlow_alike (h := h) hcx
  exact ⟨hmem'.trans hmem, fun k hk => (hhew' k hk).trans (hhew k hk)⟩

theorem State.enter_alike (hc : s.Canonical) : (s.sbFlush h).Alike h (s.enter h m isInt code epc eval lvl) := by
  rw [State.enter_eq]
  exact State.breakFlow_setHew_alike hc _

theorem State.enter_reg {a : Nat} (ha : counterReg h a = false) : (s.enter h m isInt code epc eval lvl).reg a = s.reg a := by
  rw [State.enter_eq]
  exact State.breakFlow_reg ha

end

/-! ### Where an exception goes (R441, R448) -/

theorem State.takeExc_window_m {s : State} {h : Nat} (hw : (s.hew h).winM = true) (hpl : (s.hew h).pl = 3) (code : Nat) (epc eval : Word) :
    s.takeExc h code epc eval = s.checkStop h := by
  unfold State.takeExc
  simp only [hw, hpl, decide_true, Bool.and_self, if_true]

theorem State.takeExc_window_s {s : State} {h : Nat} (hw : (s.hew h).winS = true) (hpl : (s.hew h).pl = 1) (code : Nat) (epc eval : Word) :
    s.takeExc h code epc eval = s.enter h true false 0x18 epc (some (BitVec.ofNat 64 (4 * 2 ^ 56))) (some 15) := by
  have h3 : decide (1 = 3) = false := rfl
  unfold State.takeExc
  simp only [hw, hpl, h3, Bool.and_false, Bool.false_eq_true, if_false, decide_true, Bool.and_self, if_true]

theorem State.takeExc_outside {s : State} {h : Nat} (hm : ¬((s.hew h).winM = true ∧ (s.hew h).pl = 3))
    (hs : ¬((s.hew h).winS = true ∧ (s.hew h).pl = 1)) (code : Nat) (epc eval : Word) :
    s.takeExc h code epc eval
      = s.enter h (s.routesToM h (s.hew h).pl code) false code epc (some eval) (if code = 0x18 then some 15 else none) := by
  unfold State.takeExc
  simp only [Bool.and_eq_true, decide_eq_true_eq, hm, hs, if_false]

/-- The set that an exception enters (R441): bits 16 and 24 of HWR_XROUTE count as set. -/
theorem State.routesToM_iff (s : State) (h pl code : Nat) (hcode : code < 64) :
    s.routesToM h pl code = true
      ↔ pl = 3 ∨ (code ≠ 0x0F ∧ (code = 0x10 ∨ code = 0x18 ∨ (s.reg (Adr.HWR_XROUTE h)).toNat.testBit code = true)) := by
  have hbit : (0x01010000 : Nat).testBit code = true ↔ code = 0x10 ∨ code = 0x18 := by
    interval_cases code <;> decide
  have hroute := Nat.testBit_or (s.reg (Adr.HWR_XROUTE h)).toNat 0x01010000 code
  unfold State.routesToM
  split
  · simp [*]
  · split
    · simp [*]
    · simp only [Bool.or_eq_true, decide_eq_true_eq]
      split
      · simp only [*, ne_eq, not_false_eq_true, true_and, false_or, true_iff]
        tauto
      · rw [hroute, Bool.or_eq_true, hbit]
        tauto

/-- Settles O17: outside the windows by the hewer that the entry leaves, in that of S by its entry to M with reason 4. -/
theorem exceptionEntry : Obligations.ExceptionEntry := by
  unfold Obligations.ExceptionEntry
  intro s h code epc eval _ hcode hc
  dsimp only
  refine ⟨fun hm hs => ?_, fun hw hpl => ?_, fun hw hpl => State.takeExc_window_m hw hpl code epc eval⟩
  · rw [State.takeExc_outside hm hs, State.enter_hew_same hc]
    generalize s.hew h = x
    have hroute := s.routesToM_iff h x.pl code hcode
    generalize s.routesToM h x.pl code = m at *
    obtain ⟨hset, hother⟩ := x.entered_saved m false code epc (some eval) (if code = 0x18 then some 15 else none)
    obtain ⟨hw, hv, hwm, hws⟩ := x.entered_files m false code epc (some eval) (if code = 0x18 then some 15 else none)
    obtain ⟨hcause, hpl, hflags, hlvl⟩ := x.causeWord_bits code (by omega)
    have halike := State.enter_alike (m := m) (isInt := false) (code := code) (epc := epc) (eval := some eval)
      (lvl := if code = 0x18 then some 15 else none) (h := h) hc
    refine ⟨hroute, by rw [hset], by rw [hset]; rfl, by rw [hset], by rw [hset]; exact hcause, by rw [hset]; exact hpl,
      by rw [hset]; exact hflags, by rw [hset]; exact hlvl, hother, x.entered_pl .., ?_, ?_, hw, hv, rfl, rfl, rfl, hwm, hws,
      halike.hew, halike.mem, fun a hctr hstat => State.enter_reg (counterReg_eq_false.mpr ⟨hstat, hctr⟩)⟩
    · rw [Hewer.entered_ilvl]
      split <;> rfl
    · exact congrArg (fun n => (x.set m).vbase + BitVec.ofNat 64 n) (Nat.zero_add _)
  · rw [State.takeExc_window_s hw hpl, State.enter_hew_same hc]
    generalize s.hew h = x
    obtain ⟨hset, hother⟩ := x.entered_saved true false 0x18 epc (some (BitVec.ofNat 64 (4 * 2 ^ 56))) (some 15)
    obtain ⟨hcause, -⟩ := x.causeWord_bits 0x18 (by decide)
    simp only [Hewer.set, Bool.not_true, Bool.false_eq_true, if_true, if_false] at hset hother
    refine ⟨by rw [hset], by rw [hset]; rfl, by rw [hset]; exact hcause, hother, x.entered_pl .., x.entered_ilvl .., ?_⟩
    rfl

end Sys2Proof.Machine

/-!
PROOFS. How an instruction ends that raises an exception, enters S or M, or transfers (R289, R290, R441, R446): neither an entry nor a
check-stop sets a single step going, so nothing follows.
-/
namespace Sys2Proof.Machine

/-! ### No single step after an entry (R776) -/

theorem Hewer.entered_stepping (x : Hewer) (m isInt : Bool) (code : Nat) (epc : Word) (eval : Option Word) (lvl : Option Nat) :
    (x.entered m isInt code epc eval lvl).stepping = x.stepping := by
  unfold Hewer.entered Hewer.openWindow
  cases m <;> cases lvl <;>
    simp only [Hewer.withFiles, Hewer.saves, Hewer.setPsf, Hewer.putSet, Bool.false_eq_true, if_false, if_true]

section
variable {s : State} {h : Nat}

theorem State.NoStep.enter {k : Nat} (hs : s.NoStep k) (h : Nat) (m isInt : Bool) (code : Nat) (epc : Word) (eval : Option Word)
    (lvl : Option Nat) : (s.enter h m isInt code epc eval lvl).NoStep k := by
  have hx : (s.setHew h ((s.hew h).entered m isInt code epc eval lvl)).NoStep k :=
    hs.setHew fun e => by rw [Hewer.entered_stepping, e, hs.hew]
  rw [State.enter_eq]
  exact hx.breakFlow

theorem State.NoStep.takeExc {k : Nat} (hs : s.NoStep k) (h code : Nat) (epc eval : Word) : (s.takeExc h code epc eval).NoStep k := by
  unfold State.takeExc
  dsimp only
  split
  · exact hs.checkStop h
  · split
    · exact hs.enter _ _ _ _ _ _ _
    · exact hs.enter _ _ _ _ _ _ _

theorem State.NoStep.tally {k : Nat} (hs : s.NoStep k) (h e : Nat) : (s.tally h e).NoStep k := hs.of_hewers (State.tally_hewers s h e)

theorem State.NoStep.traps {k : Nat} (hs : s.NoStep k) (h code : Nat) (eval : Word) : (s.traps h code eval).NoStep k :=
  State.NoStep.takeExc ((hs.tally h 0x014).setHew fun e => by rw [e]; exact hs.hew) h code _ eval

theorem State.Runs.noStep (hr : s.Runs h) : s.NoStep h := State.NoStep.of_hew hr.canon hr.stepping

/-! ### The end of an instruction (R290, R441) -/

theorem State.stepEnd_off (hs : (s.hew h).stepping = false) : s.stepEnd h = s := by
  unfold State.stepEnd
  simp only [hs, Bool.false_and, Bool.false_eq_true, if_false]

theorem State.sampled_off {s0 : State} (hs : s0.flag (F.TLY_HWR_SCTL.EN h) = false) (p : Pre) (exc : Option Nat) :
    s.sampled s0 h p exc = s := by
  unfold State.sampled
  simp only [hs, Bool.not_false, if_true]

/-- An instruction that raises an exception takes it at its own address. -/
theorem State.finish_exc {s0 : State} (hs : s0.flag (F.TLY_HWR_SCTL.EN h) = false) (p : Pre) (e : Exc) (hn : s.NoStep h)
    (hu : (s.hew h).unit = none) (hrep : (s.hew h).rep = none) : s0.finish h p (.exc s e) = s.traps h e.code e.eval := by
  have hundo : (s.hew h).undoUnit = s.hew h := by
    unfold Hewer.undoUnit
    rw [hu]
  have hpc : (s.hew h).excPc = (s.hew h).pc := by
    unfold Hewer.excPc
    rw [hu, hrep]
  have hraise : s.raiseExc h e = s.traps h e.code e.eval := by
    unfold State.raiseExc State.traps State.modHew
    simp only [State.tally_hew, hundo, hpc]
  simp only [State.finish, State.sampled_off hs, hraise]
  exact State.stepEnd_off (hn.traps h e.code e.eval).hew

/-- An instruction that has entered S or M, or returned from it, counts as one completed. -/
theorem State.finish_entered {s0 : State} (hs : s0.flag (F.TLY_HWR_SCTL.EN h) = false) (p : Pre) (hn : s.NoStep h) :
    s0.finish h p (.entered s) = s.tally h 0x002 := by
  simp only [State.finish, State.sampled_off hs]
  exact State.stepEnd_off (hn.tally h 0x002).hew

/-- A transfer whose hewer is set up has its own end left: the window, the exemption, the count. -/
theorem State.finish_jumped {s0 : State} (hs : s0.flag (F.TLY_HWR_SCTL.EN h) = false) (p : Pre) (hst : (s.hew h).stepping = false)
    (hctl : (s.hew h).ctl = []) : s0.finish h p (.jumped s) = s.completes h (s.hew h).done := by
  have hpass : s.passChoice h = s := by
    unfold State.passChoice
    simp only [hctl, List.isEmpty_nil, if_true]
  have hend : ((s.completes h (s.hew h).done).hew h).stepping = false := by
    unfold State.completes
    rw [State.tally_hew, State.hew_setHew_same, Hewer.done_stepping, hst]
  simp only [State.finish, State.sampled_off hs, hpass, State.modHew, Hewer.passed_eq _ hctl]
  exact State.stepEnd_off hend

/-! ### An instruction of a hewer with nothing in its way -/

variable {p : Pre}

/-- A word that is illegal here, or that the hewer may not execute, traps with the word as value (R273). -/
theorem State.run_bad {code : Nat} (hr : s.Runs h) (hp : p.bad = some code) (body : State → Step) :
    s.run h p body = s.traps h code (BitVec.ofNat 64 p.word) := by
  obtain ⟨l, hf⟩ := hr.fetch
  have hissue : s.issue h p false = .stop (s.finish h p (.exc s (mkExc code p.word))) := by
    unfold State.issue
    simp only [hr.can, hr.quiet, Hewer.entryWaits_none _ hr.missed, Bool.not_true, Bool.or_self, Bool.false_eq_true, if_false,
      Hewer.settle_none _ p false hr.missed, State.setHew_hew s h hr.canon, hf, State.cmpPoint_off s h _ hr.canon hr.watch, hp]
  unfold State.run State.runAs
  rw [hissue]
  exact State.finish_exc hr.sampling p _ hr.noStep hr.unit hr.rep

/-- An instruction whose body enters S or M, or returns. -/
theorem State.run_entered {t : State} {body : State → Step} (hr : s.Runs h) (hp : p.bad = none) (hb : body s = .entered t)
    (hn : t.NoStep h) : s.run h p body = t.tally h 0x002 := by
  rw [State.run_runs s h p body hr hp, hb, State.finish_entered hr.sampling p hn]

end

end Sys2Proof.Machine

/-!
PROOFS. The entries of `sys` and `mon`, the words that trap, and the return from S and M (R249, R250, R262, R273, R316, R787).
-/
namespace Sys2Proof.Machine

theorem State.Runs.inUnit {s : State} {h : Nat} (hr : s.Runs h) : (s.hew h).inUnit = false := by
  unfold Hewer.inUnit
  rw [hr.unit, hr.rep]
  rfl

/-- The fields that an instruction's completion leaves to the return. -/
theorem Hewer.done_sets (x : Hewer) : x.done.sSet = x.sSet ∧ x.done.mSet = x.mSet ∧ x.done.eretRestores = x.eretRestores := by
  unfold Hewer.done Hewer.endWindow
  split
  · exact ⟨rfl, rfl, rfl⟩
  · split <;> exact ⟨rfl, rfl, rfl⟩

@[simp] theorem Hewer.done_set (x : Hewer) (m : Bool) : x.done.set m = x.set m := by
  obtain ⟨hs, hm, -⟩ := x.done_sets
  unfold Hewer.set
  rw [hs, hm]

@[simp] theorem Hewer.done_pl (x : Hewer) : x.done.pl = x.pl := congrArg (fun v : Word => bitsOf v.toNat 15 14) x.done_pstat

theorem State.tally_mem (s : State) (h e : Nat) : (s.tally h e).mem = s.mem := State.mem_of_beside (s.tally_beside h e)

/-! ### `sys`, `mon` and the words that trap -/

section
variable {s : State} {h : HewerId} (hr : s.Runs h)
include hr

/-- `sys` and `mon` complete, and enter their set behind the instruction. -/
theorem State.run_call {p : Pre} (hp : p.bad = none) (m : Bool) (code : Nat) :
    s.run h p (fun t => .entered (((t.modHew h Hewer.passed).tally h 0x014).enter h m false code ((t.hew h).pc + 4) (some 0) none))
      = (((s.setHew h (s.hew h).done).tally h 0x014).enter h m false code ((s.hew h).pc + 4) (some 0) none).tally h 0x002 := by
  have hdone : s.modHew h Hewer.passed = s.setHew h (s.hew h).done := by
    unfold State.modHew
    rw [Hewer.passed_eq _ hr.ctl]
  have hn : (s.setHew h (s.hew h).done).NoStep h := hr.noStep.setHew fun _ => by rw [Hewer.done_stepping, hr.stepping]
  rw [← hdone] at hn ⊢
  exact State.run_entered hr hp rfl ((hn.tally h 0x014).enter _ _ _ _ _ _ _)

theorem State.wordStop_breakpoint {w : Nat} (hw : s.swbpHit h w = true) : s.wordStop h w = s.traps h 0x11 (BitVec.ofNat 64 w) :=
  State.run_bad (p := ⟨w, [], [], [], [], some (if s.swbpHit h w then 0x11 else 0x01), 0⟩) hr (by simp only [hw, if_true]) _

theorem State.wordStop_illegal {w : Nat} (hw : s.swbpHit h w = false) : s.wordStop h w = s.traps h 0x01 (BitVec.ofNat 64 w) :=
  State.run_bad (p := ⟨w, [], [], [], [], some (if s.swbpHit h w then 0x11 else 0x01), 0⟩) hr
    (by simp only [hw, Bool.false_eq_true, if_false]) _

end

/-! ### `eret` -/

/-- The status after a return: privilege, flags and level of ECAUSE (R250). -/
theorem Hewer.returned_status (x : Hewer) (b : Bool) :
    (x.returned b).pl = bitsOf (x.set (x.pl = 3)).ecause.toNat 17 16
      ∧ (x.returned b).nzcv = bitsOf (x.set (x.pl = 3)).ecause.toNat 31 28
      ∧ (x.returned b).psf 27 24 = bitsOf (x.set (x.pl = 3)).ecause.toNat 27 24 := by
  generalize hcw : (x.set (x.pl = 3)).ecause.toNat = c
  have hf : (x.returned b).pstat = (((((x.setPsf 12 12 (b2n b)).setPsf 31 28 (bitsOf c 31 28)).setPsf 27 24 (bitsOf c 27 24)).setPsf 15 14
      (bitsOf c 17 16))).pstat := by
    rw [← hcw]
    rfl
  have hpsf (hi lo : Nat) : (x.returned b).psf hi lo = (((((x.setPsf 12 12 (b2n b)).setPsf 31 28 (bitsOf c 31 28)).setPsf 27 24
      (bitsOf c 27 24)).setPsf 15 14 (bitsOf c 17 16))).psf hi lo := by
    unfold Hewer.psf
    rw [hf]
  refine ⟨?_, ?_, ?_⟩
  · rw [Hewer.pl, hpsf, Hewer.psf_setPsf_same _ _ (by decide) (by decide)]
    exact Nat.mod_eq_of_lt (bitsOf_lt c 17 16)
  · rw [Hewer.nzcv, hpsf, Hewer.psf_setPsf_other _ _ (by decide) (by decide) (.inl (by decide)),
      Hewer.psf_setPsf_other _ _ (by decide) (by decide) (.inl (by decide)), Hewer.psf_setPsf_same _ _ (by decide) (by decide)]
    exact Nat.mod_eq_of_lt (bitsOf_lt c 31 28)
  · rw [hpsf, Hewer.psf_setPsf_other _ _ (by decide) (by decide) (.inl (by decide)),
      Hewer.psf_setPsf_same _ _ (by decide) (by decide)]
    exact Nat.mod_eq_of_lt (bitsOf_lt c 27 24)

theorem Hewer.returned_pc (x : Hewer) (b : Bool) : (x.returned b).pc = (x.set (x.pl = 3)).epc := rfl

/-- The parts of a hewer that a return keeps. -/
def Hewer.files (x : Hewer) : ExcSet × ExcSet × Table Word × Table VWord × Bool := (x.sSet, x.mSet, x.w, x.v, x.stepping)

theorem Hewer.setPsf_files (x : Hewer) (hi lo v : Nat) : (x.setPsf hi lo v).files = x.files := rfl

theorem Hewer.returned_files (x : Hewer) (b : Bool) : (x.returned b).files = x.files := by
  obtain ⟨y, hy, hf⟩ : ∃ y : Hewer, x.returned b = { y with pc := (x.set (x.pl = 3)).epc } ∧ y.files = x.files :=
    ⟨_, rfl, by rw [Hewer.setPsf_files, Hewer.setPsf_files, Hewer.setPsf_files, Hewer.setPsf_files]⟩
  rw [hy, ← hf]
  rfl

theorem Hewer.done_files (x : Hewer) : x.done.files = x.files := by
  obtain ⟨hs, hm, -⟩ := x.done_sets
  simp only [Hewer.files, hs, hm, Hewer.done_w, Hewer.done_v, Hewer.done_stepping]

theorem Hewer.files_parts {x y : Hewer} (hf : x.files = y.files) :
    x.sSet = y.sSet ∧ x.mSet = y.mSet ∧ x.w = y.w ∧ x.v = y.v ∧ x.stepping = y.stepping := by
  simpa only [Hewer.files, Prod.mk.injEq] using hf

/-- With no thread to restore, a return goes back by the current set and breaks the flow. -/
theorem State.eretTo_plain {s : State} {h : Nat} (hx : (s.hew h).eretRestores = none) :
    s.eretTo h = (s.setHew h ((s.hew h).returned (s.staysBanked h))).breakFlow h := by
  unfold State.eretTo
  dsimp only
  rw [hx]

/-- The state that `eret` leaves where no thread is to be restored. -/
theorem State.eret_leaves {s : State} {h : HewerId} (hr : s.Runs h) (hx : (s.hew h).eretRestores = none) :
    ∃ b, (s.modHew h Hewer.passed).eretTo h = (s.setHew h ((s.hew h).done.returned b)).breakFlow h := by
  obtain ⟨-, -, hres⟩ := (s.hew h).done_sets
  have hsame : (s.setHew h (s.hew h).done).hew h = (s.hew h).done := State.hew_setHew_same _ _ _
  refine ⟨(s.setHew h (s.hew h).done).staysBanked h, ?_⟩
  unfold State.modHew
  rw [Hewer.passed_eq _ hr.ctl, State.eretTo_plain (by rw [hsame, hres, hx]), hsame, State.setHew_setHew _ _ _ _ hr.canon]

/-- Settles O18: the entries and the traps by their ends, the return by the hewer that it leaves and the break in the flow. -/
theorem systemEntriesAndReturn : Obligations.SystemEntriesAndReturn := by
  unfold Obligations.SystemEntriesAndReturn
  refine ⟨fun h word s hr => ?_, fun h s hr => ?_⟩
  · dsimp only
    have hunit := hr.inUnit
    refine ⟨fun hpl => ?_, fun hpl => ?_, fun hpl => ?_, fun hpl => ?_, fun hpl => ?_, fun hen hex => ?_, fun hen => ?_,
      fun hen hword => ?_⟩
    · exact congrArg Host.Outcome.next (State.run_call hr (p := preSys 1 _) (by simp [preSys, hunit, hpl]) false 0x0F)
    · exact congrArg Host.Outcome.next (State.run_bad hr (p := preSys 1 _) (by simp [preSys, hunit, hpl]) _)
    · exact congrArg Host.Outcome.next (State.run_call hr (p := preSys 2 _) (by simp [preSys, hunit, hpl]) true 0x10)
    · exact congrArg Host.Outcome.next (State.run_bad hr (p := preSys 2 _) (by simp [preSys, hunit, hpl]) _)
    · exact congrArg Host.Outcome.next (State.run_bad hr (p := preSys 2 _) (by simp [preSys, hunit, hpl]) _)
    · exact congrArg Host.Outcome.next (State.wordStop_breakpoint hr (by simp [State.swbpHit, hen, hex]))
    · exact congrArg Host.Outcome.next (State.wordStop_illegal hr (by simp [State.swbpHit, hen]))
    · have hhit : s.swbpHit h word.toNat = false := by simp [State.swbpHit, hen]
      show done (if s.swbpHit h word.toNat || !(legalWord word.toNat) then s.wordStop h word.toNat else s) = _
      rw [hhit, hword]
      exact congrArg Host.Outcome.next (State.wordStop_illegal hr hhit)
  · dsimp only
    have hunit := hr.inUnit
    refine ⟨fun hpl hx hbank => ?_, fun hpl =>
      congrArg Host.Outcome.next (State.run_bad hr (p := preSys 3 _) (by simp [preSys, hunit, hpl]) _)⟩
    obtain ⟨b, ht⟩ := State.eret_leaves hr hx
    obtain ⟨hs, hm, hw, hv, hstep⟩ := Hewer.files_parts (((s.hew h).done.returned_files b).trans (s.hew h).done_files)
    obtain ⟨hpl', hflags, hlvl⟩ := (s.hew h).done.returned_status b
    have hn : ((s.setHew h ((s.hew h).done.returned b)).breakFlow h).NoStep h :=
      State.NoStep.breakFlow (hr.noStep.setHew fun _ => by rw [hstep, hr.stepping])
    have hbad : (if s.staysBanked h && bitsOf ((s.hew h).set ((s.hew h).pl = 3)).ecause.toNat 17 16 != 3 then some 0x02 else none)
        = (none : Option Nat) := by
      refine if_neg fun hb => ?_
      obtain ⟨hsb, hne⟩ := (Bool.and_eq_true _ _).mp hb
      exact bne_iff_ne.mp hne (hbank hsb)
    have hrun : exec (.eret h) s = .next (((s.setHew h ((s.hew h).done.returned b)).breakFlow h).tally h 0x002) :=
      congrArg Host.Outcome.next (State.run_entered hr (p := preSys 3 _)
        (by simpa only [preSys, hunit, hpl, Bool.false_eq_true, if_false] using hbad) (congrArg Step.entered ht) hn)
    have hhew : ((s.setHew h ((s.hew h).done.returned b)).breakFlow h).hew h = ((s.hew h).done.returned b).broken := by
      rw [State.breakFlow_hew_same (s.setHew_canonical h _ hr.canon), State.hew_setHew_same]
    have halike := State.breakFlow_setHew_alike hr.canon ((s.hew h).done.returned b) (h := h)
    have hpc := (s.hew h).done.returned_pc b
    rw [Hewer.done_pl, Hewer.done_set] at hpl' hflags hlvl hpc
    refine ⟨_, hrun, ?_⟩
    simp only [State.tally_hew, hhew]
    generalize (s.hew h).done.returned b = y at *
    exact ⟨hpc, hpl', hflags, hlvl, hs, hm, hw, hv, (State.tally_mem _ _ _).trans halike.mem, halike.hew⟩

end Sys2Proof.Machine

/-!
PROOFS. The moves to and from the system registers (R264, R316, R325 to R328).
-/
namespace Sys2Proof.Machine

/-! ### An instruction that starts a distance completes in sequence (R326) -/

section
variable (s : State) (h : Nat)

theorem State.passChoice_hew_same : ∃ key, (s.passChoice h).hew h = { s.hew h with ctlKey := key } := by
  unfold State.passChoice
  split
  · exact ⟨(s.hew h).ctlKey, rfl⟩
  · exact ⟨s.freeCtr, State.hew_setHew_same _ _ _⟩

theorem State.passChoice_hew_other {k : Nat} (hk : k ≠ h) : (s.passChoice h).hew k = s.hew k := by
  unfold State.passChoice
  split
  · rfl
  · exact State.hew_setHew_other _ _ hk

theorem State.passChoice_mem : (s.passChoice h).mem = s.mem := by
  unfold State.passChoice
  split <;> rfl

theorem Hewer.passed_key (x : Hewer) (key : Nat) : ({ x with ctlKey := key } : Hewer).passed = { x.ctlPass.done with ctlKey := key } := by
  unfold Hewer.passed Hewer.done Hewer.endWindow
  split <;> rename_i h3
  · rw [if_pos (show x.ctlPass.pl = 3 from h3)]
    rfl
  · rw [if_neg (show ¬x.ctlPass.pl = 3 from h3)]
    split <;> rename_i h1
    · rw [if_pos (show x.ctlPass.pl = 1 from h1)]
      rfl
    · rw [if_neg (show ¬x.ctlPass.pl = 1 from h1)]
      rfl

/-- Outside a unit and a `rep`, the instruction passes the distances and the program counter moves on. -/
theorem State.retire_sequence (hu : (s.hew h).unit = none) (hr : (s.hew h).rep = none) :
    ∃ key, s.retire h = (s.passChoice h).setHew h { (s.hew h).ctlPass.next with ctlKey := key } := by
  obtain ⟨key, hkey⟩ := s.passChoice_hew_same h
  have hunit : (s.hew h).ctlPass.done.unit = none := (Hewer.done_unit _).trans hu
  have hrep : (s.hew h).ctlPass.done.rep = none := (Hewer.done_rep _).trans hr
  refine ⟨key, ?_⟩
  unfold State.retire
  simp only [hkey, Hewer.passed_key]
  split
  · next hsome => exact absurd (hunit.symm.trans hsome) (Option.some_ne_none _).symm
  · split
    · next hsome => exact absurd (hrep.symm.trans hsome) (Option.some_ne_none _).symm
    · rw [Hewer.done_pc]
      rfl

end

/-- With no access of its own, no comparator acts after an instruction. -/
theorem State.cmpPost_nil (s s0 : State) (h : Nat) : s.cmpPost s0 h [] = s := by
  unfold State.cmpPost
  simp only [List.isEmpty_nil, Bool.true_or, if_true]

/-- What an instruction leaves that may have started a distance: the hewer with the distances passed, the rest as it was. -/
theorem State.run_distance {s : State} {h : HewerId} {p : Pre} {body : State → Step} {f : Hewer → Hewer} (hr : s.Runs h) (hp : p.bad = none)
    (hb : body s = .ok (s.modHew h f) []) (hu : (f (s.hew h)).unit = none) (hrep : (f (s.hew h)).rep = none)
    (hst : (f (s.hew h)).stepping = false) :
    ∃ key, (s.run h p body).hew h = { (f (s.hew h)).ctlPass.next with ctlKey := key } ∧ (s.run h p body).mem = s.mem
      ∧ ∀ k, k ≠ h.val → (s.run h p body).hew k = s.hew k := by
  have hx : (s.modHew h f).hew h = f (s.hew h) := State.hew_setHew_same _ _ _
  obtain ⟨key, hret⟩ := (s.modHew h f).retire_sequence h (by rw [hx]; exact hu) (by rw [hx]; exact hrep)
  rw [hx] at hret
  have hrun : s.run h p body = ((s.modHew h f).retire h).tally h 0x002 := by
    rw [State.run_runs s h p body hr hp, hb]
    simp only [State.finish, State.sampled_off hr.sampling, State.cmpPost_nil]
    refine State.stepEnd_off ?_
    rw [State.tally_hew, hret, State.hew_setHew_same]
    exact (Hewer.next_stepping _).trans hst
  refine ⟨key, ?_, ?_, fun k hk => ?_⟩
  · rw [hrun, State.tally_hew, hret, State.hew_setHew_same]
  · rw [hrun, State.tally_mem, hret]
    exact State.passChoice_mem _ _
  · rw [hrun, State.tally_hew, hret, State.hew_setHew_other _ _ hk, State.passChoice_hew_other _ _ hk]
    exact State.hew_setHew_other _ _ hk

/-! ### A write to a system register (R264, R328) -/

section
variable (x : Hewer) (v : Word)

theorem Hewer.putSet_course (m : Bool) (e : ExcSet) :
    (x.putSet m e).unit = x.unit ∧ (x.putSet m e).rep = x.rep ∧ (x.putSet m e).stepping = x.stepping := by
  cases m <;> exact ⟨rfl, rfl, rfl⟩

theorem Hewer.ctlWrite_course (r : CtlReg) (w : Word) (left : Option Nat) :
    (x.ctlWrite r w left).unit = x.unit ∧ (x.ctlWrite r w left).rep = x.rep ∧ (x.ctlWrite r w left).stepping = x.stepping := by
  unfold Hewer.ctlWrite Hewer.ctlPut
  cases r <;> exact ⟨rfl, rfl, rfl⟩

/-- Unit, `rep` and single step are no system registers. -/
theorem Hewer.sysWrite_course (n : Nat) :
    (x.sysWrite n v).unit = x.unit ∧ (x.sysWrite n v).rep = x.rep ∧ (x.sysWrite n v).stepping = x.stepping := by
  unfold Hewer.sysWrite
  dsimp only
  split
  case h_1 | h_3 | h_8 | h_9 | h_10 | h_13 => exact ⟨rfl, rfl, rfl⟩
  case h_2 | h_4 | h_5 | h_6 | h_7 | h_11 | h_12 | h_14 => exact Hewer.ctlWrite_course x _ _ _
  case h_15 =>
    split
    · exact x.putSet_course _ _
    · split <;> exact ⟨rfl, rfl, rfl⟩

theorem keepBits_low (hi : Nat) : keepBits v hi 0 = BitVec.ofNat 64 (v.toNat % 2 ^ (hi + 1)) := by
  simp only [keepBits, bitsOf, Nat.pow_zero, Nat.div_one, Nat.mul_one, Nat.sub_zero]

theorem keepBits_multiple : keepBits v 63 3 = BitVec.ofNat 64 (v.toNat / 8 * 8) := by
  have hv : v.toNat / 2 ^ 3 < 2 ^ (63 + 1 - 3) := by
    have := v.isLt
    omega
  unfold keepBits bitsOf
  rw [Nat.mod_eq_of_lt hv]
  rfl

/-- The write of a register with a distance keeps the old value beside the new one (R326). -/
theorem Hewer.ctlWrite_ctl (hx : x.ctl = []) (r : CtlReg) (w : Word) (left : Option Nat) :
    (x.ctlWrite r w left).ctl = [⟨r, x.ctlLatest r, left⟩] := by
  simp only [Hewer.ctlWrite, hx, List.map_nil]

end

theorem sysBad_undefined {n pl need : Nat} (hn : sysRegDefined n = false) : sysBad n pl need = some 0x01 := by
  simp only [sysBad, hn, Bool.not_false, if_true]

theorem sysBad_denied {n pl need : Nat} (hn : sysRegDefined n = true) (ha : sysAccess n pl < need) : sysBad n pl need = some 0x02 := by
  simp only [sysBad, hn, Bool.not_true, Bool.false_eq_true, if_false, if_pos ha]

theorem sysBad_allowed {n pl need : Nat} (hn : sysRegDefined n = true) (ha : need ≤ sysAccess n pl) : sysBad n pl need = none := by
  simp only [sysBad, hn, Bool.not_true, Bool.false_eq_true, if_false, if_neg (Nat.not_lt.mpr ha)]

/-- Settles O22: a read is a move, a write an instruction that may start a distance; the values are those of the single registers. -/
theorem systemRegisterMoves : Obligations.SystemRegisterMoves := by
  unfold Obligations.SystemRegisterMoves
  intro h r sel s hr
  dsimp only
  obtain ⟨hunit, hrep, hstep⟩ := (s.hew h).sysWrite_course ((s.hew h).getW r) sel.toNat
  rw [hr.unit] at hunit
  rw [hr.rep] at hrep
  rw [hr.stepping] at hstep
  refine ⟨fun hn ha => ?_, fun hn ha => ⟨?_, fun hctl => ?_⟩, fun hn => ⟨?_, ?_⟩, fun hn ha => ?_, fun hn ha => ?_,
    keepBits_low _ 15, keepBits_multiple _, keepBits_multiple _, keepBits_multiple _, keepBits_low _ 31,
    Hewer.ctlWrite_ctl _ hr.ctl .pkr _ _, Hewer.ctlWrite_ctl _ hr.ctl .bank _ _, Hewer.ctlWrite_ctl _ hr.ctl .cnt _ _,
    Hewer.ctlWrite_ctl _ hr.ctl .asid _ _⟩
  · exact congrArg Host.Outcome.next (State.run_flow (f := fun x => x.setW r (s.sysRead h sel.toNat)) hr (sysBad_allowed hn ha) rfl
      (Hewer.setW_flow _ _ _))
  · obtain ⟨key, hhew, hmem, hother⟩ := State.run_distance (f := fun x => x.sysWrite sel.toNat (x.getW r)) hr
      (p := ⟨wSystem 0 r sel.toNat 1, [r.val], [], [], [], sysBad sel.toNat (s.hew h).pl 2, 0⟩)
      (body := fun t => .ok (t.modHew h (fun x => x.sysWrite sel.toNat (x.getW r))) []) (sysBad_allowed hn ha.ge) rfl
      hunit hrep hstep
    exact ⟨_, key, rfl, hhew, hmem, hother⟩
  · have hflow : ((s.hew h).sysWrite sel.toNat ((s.hew h).getW r)).flow = (s.hew h).flow := by
      rw [hr.flow]
      simp only [Hewer.flow, hunit, hrep, hctl, hstep]
    exact congrArg Host.Outcome.next (State.run_flow (f := fun x => x.sysWrite sel.toNat (x.getW r)) hr (sysBad_allowed hn ha.ge) rfl
      hflow)
  · exact congrArg Host.Outcome.next (State.run_bad hr (sysBad_undefined hn) _)
  · exact congrArg Host.Outcome.next (State.run_bad hr (sysBad_undefined hn) _)
  · exact congrArg Host.Outcome.next (State.run_bad hr (sysBad_denied hn (ha.trans_lt Nat.zero_lt_one)) _)
  · exact congrArg Host.Outcome.next (State.run_bad hr (sysBad_denied hn ha) _)

end Sys2Proof.Machine

/-!
PROOFS. `in` and `out` (R255, R437, R438): performed after the buffered stores, on the registers of the map.
-/
namespace Sys2Proof.Machine

/-! ### The state after the buffered stores -/

section
variable {s : State} {h : Nat}

/-- With no load outstanding, a register reads what the hewer holds. -/
theorem State.Runs.regNow (hr : s.Runs h) (r : Nat) : s.regNow h r = (s.hew h).getW r := by
  have hl : (s.hew h).landAll = { s.hew h with missed := [] } := by
    unfold Hewer.landAll
    rw [hr.missed]
    rfl
  unfold State.regNow
  rw [hl]
  rfl

theorem watch_not_counter (hh : h < 512) {c : Nat} (hc : c < 8) : counterReg h (F.DBG_HWR_CMP_CTL.EN h c).addr = false := by
  refine counterReg_eq_false.mpr ⟨?_, fun n hn => ?_⟩
  · simp only [F.DBG_HWR_CMP_CTL.EN, Adr.DBG_HWR_CMP_CTL, Adr.TLY_HWR_STAT]
    omega
  · simp only [F.DBG_HWR_CMP_CTL.EN, Adr.DBG_HWR_CMP_CTL, Adr.TLY_HWR_CTR]
    omega

/-- Nothing stands in the way of the hewer once its stores are performed. -/
theorem State.Runs.sbFlush_ends (hr : s.Runs h) (hh : h < 512) : (s.sbFlush h).Ends h := by
  have hself : (s.sbFlush h).hew h = s.hew h := State.sbDrain_hew_self hr.canon h 8
  refine ⟨State.sbDrain_canonical hr.canon h 8, fun c hc => ?_, by rw [hself, hr.unit], by rw [hself, hr.rep], by rw [hself, hr.ctl],
    by rw [hself, hr.stepping]⟩
  have hreg := State.sbDrain_reg s h 8 (watch_not_counter hh hc)
  have hw := hr.watch c hc
  unfold State.flag State.fld State.sbFlush at *
  rw [hreg, hw]

/-- A state that an instruction has brought about, and its count of an event: the instruction completes there. -/
theorem State.finish_tallied {t : State} (hr : s.Runs h) (hh : h < 512) (p : Pre) (e : Nat) (ht : t.Ends h) :
    s.finish h p (.ok (t.tally h e) []) = (t.tally h e).completes h (t.hew h).next := by
  rw [State.finish_ok s (t.tally h e) h p [] hh hr.sampling (t.tally_canonical h e ht.canon)
    (fun c hc => by rw [State.tally_watch _ _ _ _ hh hc, ht.watch c hc]) (by rw [State.tally_hew, ht.unit])
    (by rw [State.tally_hew, ht.rep]) (by rw [State.tally_hew, ht.ctl]) (by rw [State.tally_hew, ht.stepping]), State.tally_hew]

theorem State.Ends.setW {t : State} (ht : t.Ends h) (r : Nat) (v : Word) : (t.setHew h ((t.hew h).setW r v)).Ends h := by
  have hsame : (t.setHew h ((t.hew h).setW r v)).hew h = (t.hew h).setW r v := State.hew_setHew_same _ _ _
  obtain ⟨hu, hrep, hctl, hst⟩ := Hewer.flow_parts ((Hewer.setW_flow (t.hew h) r v).trans ht.flow)
  exact ⟨t.setHew_canonical h _ ht.canon, ht.watch, by rw [hsame, hu], by rw [hsame, hrep], by rw [hsame, hctl], by rw [hsame, hst]⟩

/-- An exception that is raised after the buffered stores. -/
theorem State.finish_exc_flushed (hr : s.Runs h) (p : Pre) (e : Exc) :
    s.finish h p (.exc (s.sbFlush h) e) = (s.sbFlush h).traps h e.code e.eval := by
  have hself : (s.sbFlush h).hew h = s.hew h := State.sbDrain_hew_self hr.canon h 8
  exact State.finish_exc hr.sampling p e (hr.noStep.sbDrain h 8) (by rw [hself, hr.unit]) (by rw [hself, hr.rep])

end

/-! ### The steps of `in` and `out` -/

section
variable {u : State} {h : HewerId} {a n : Nat}

theorem State.inStep_misaligned (rd : Nat) (ha : a % n ≠ 0) : u.inStep h rd a n = .exc u (mkExc 0x03 a) := by
  unfold State.inStep
  rw [if_pos (bne_iff_ne.mpr ha)]

theorem State.outStep_misaligned (v : Nat) (ha : a % n ≠ 0) : u.outStep h a n v = .exc u (mkExc 0x03 a) := by
  unfold State.outStep
  rw [if_pos (bne_iff_ne.mpr ha)]

section
variable (ha : a % n = 0)
include ha

theorem State.inStep_refused (rd : Nat) {r : Nat} (hre : u.ioReason (some h) a n false = some r) :
    u.inStep h rd a n = .exc u (ioExc r a) := by
  unfold State.inStep
  simp only [ha, bne_self_eq_false, Bool.false_eq_true, if_false, hre]

theorem State.outStep_refused (v : Nat) {r : Nat} (hre : u.ioReason (some h) a n true = some r) :
    u.outStep h a n v = .exc u (ioExc r a) := by
  unfold State.outStep
  simp only [ha, bne_self_eq_false, Bool.false_eq_true, if_false, hre]

theorem State.inStep_reads (rd : Nat) {d : RegDesc} {r : Word} {t : State} (hd : findReg a = some d)
    (hre : u.ioReason (some h) a n false = none) (hread : u.ioRead (.hewer h) d a = (r, t)) :
    u.inStep h rd a n = .ok ((t.setHew h ((t.hew h).setW rd r)).tally h 0x019) [] := by
  unfold State.inStep
  simp only [ha, bne_self_eq_false, Bool.false_eq_true, if_false, hre, hd, hread]
  rfl

theorem State.outStep_writes {v : Nat} {d : RegDesc} {t : State} (hd : findReg a = some d)
    (hre : u.ioReason (some h) a n true = none) (hheld : u.lodeHolds d.name v = false) (hw : u.ioPerform (.hewer h) d a v = some t) :
    u.outStep h a n v = .ok (t.tally h 0x019) [] := by
  unfold State.outStep
  simp only [ha, bne_self_eq_false, Bool.false_eq_true, if_false, hre, hd, hheld, hw]

end

/-- A register without a field that a read changes is read without effect. -/
theorem State.ioRead_plain {d : RegDesc} (hv : d.name ≠ .DBG_HWR_VRX) (hf : d.fields.any (fun f => f.acc = .rc) = false) :
    u.ioRead (.hewer h) d a = (u.ioValue (u.hidesFrom (.hewer h)) d a, u) := by
  have heff : u.readEffect (byHewer (.hewer h)) d a = u := by
    unfold State.readEffect
    rw [if_neg hv, if_neg (by rw [hf]; exact Bool.false_ne_true)]
  unfold State.ioRead
  rw [heff, ite_self]

end

section
variable {s : State} {h : HewerId} (hr : s.Runs h) (wide : Bool) (rd ra : RegNo) (disp : BitVec 14)
include hr

theorem execIoIn_runs : execIoIn h wide rd ra disp s = .next (s.finish h
    ⟨wMem 0x38 rd ra wide disp.toNat, [ra.val], [], [rd.val], [], none, 0⟩
    ((s.sbFlush h).inStep h rd ((s.hew h).getW ra + disp.signExtend 64).toNat (if wide then 8 else 4))) := by
  unfold execIoIn
  dsimp only
  rw [State.runLong_runs s h _ _ hr rfl, hr.regNow]
  rfl

theorem execIoOut_runs : execIoOut h wide rd ra disp s = .next (s.finish h
    ⟨wMem 0x39 rd ra wide disp.toNat, [ra.val, rd.val], [], [], [], none, 0⟩
    ((s.sbFlush h).outStep h ((s.hew h).getW ra + disp.signExtend 64).toNat (if wide then 8 else 4)
      (if wide then ((s.hew h).getW rd).toNat else ((s.hew h).getW rd).toNat % 2 ^ 32))) := by
  unfold execIoOut
  dsimp only
  rw [State.runLong_runs s h _ _ hr rfl, hr.regNow, hr.regNow]
  rfl

end

/-- Settles O24: each answer of the register map by the step it gives, and that step by its end after the buffered stores. -/
theorem ioInstructions : Obligations.IoInstructions := by
  unfold Obligations.IoInstructions
  intro h wide rd ra disp s hr
  dsimp only
  have hin : exec (.ioIn h wide rd ra disp) s = _ := execIoIn_runs hr wide rd ra disp
  have hout : exec (.ioOut h wide rd ra disp) s = _ := execIoOut_runs hr wide rd ra disp
  rw [hin, hout]
  generalize ((s.hew h).getW ra + disp.signExtend 64).toNat = a
  generalize (if wide then 8 else 4) = n
  generalize (if wide then ((s.hew h).getW rd).toNat else ((s.hew h).getW rd).toNat % 2 ^ 32) = v
  have reads (ha : a % n = 0) (d : RegDesc) (t : State) (r : Word) (hd : findReg a = some d)
      (hre : (s.sbFlush h).ioReason (some h) a n false = none) (hread : (s.sbFlush h).ioRead (.hewer h) d a = (r, t)) (ht : t.Ends h)
      (p : Pre) : s.finish h p ((s.sbFlush h).inStep h rd a n)
        = ((t.setHew h ((t.hew h).setW rd r)).tally h 0x019).completes h ((t.hew h).setW rd r).next := by
    rw [State.inStep_reads ha rd hd hre hread, State.finish_tallied hr h.isLt p 0x019 (ht.setW rd r), State.hew_setHew_same]
  refine ⟨fun ha d hd hre hv hf => ?_, fun ha d t r hd hre hread ht => ?_, fun ha r hre => ?_, fun ha d t hd hre hheld hw ht => ?_,
    fun ha r hre => ?_, fun ha => ⟨?_, ?_⟩⟩
  · exact congrArg Host.Outcome.next (reads ha d _ _ hd hre (State.ioRead_plain hv hf) (hr.sbFlush_ends h.isLt) _)
  · exact congrArg Host.Outcome.next (reads ha d t r hd hre hread ht _)
  · rw [State.inStep_refused ha rd hre, State.finish_exc_flushed hr]
    rfl
  · rw [State.outStep_writes ha hd hre hheld hw, State.finish_tallied hr h.isLt _ _ ht]
  · rw [State.outStep_refused ha v hre, State.finish_exc_flushed hr]
    rfl
  · rw [State.inStep_misaligned rd ha, State.finish_exc_flushed hr]
    rfl
  · rw [State.outStep_misaligned v ha, State.finish_exc_flushed hr]
    rfl

end Sys2Proof.Machine

/-!
PROOFS. Translation and the wrong path (R356, R367, R401 to R425): what they leave alone is what an access to a cache leaves alone.
-/
namespace Sys2Proof.Machine

section
variable (s : State) (h : Nat)

theorem Twin.fillL1_pred (t : Twin) (e : TlbEntry) (va : Nat) : (t.fillL1 e va).pred = t.pred := by
  unfold Twin.fillL1
  dsimp only
  split <;> rfl

theorem Twin.fillL2_pred (t : Twin) (e : TlbEntry) : (t.fillL2 e).pred = t.pred := rfl

theorem State.fetched_beside (wrong : Bool) : (if wrong then s.tally h 0x009 else s).beside h = s.beside h := by
  split
  · exact s.tally_beside h 0x009
  · rfl

/-! ### The walk (R406 to R410) -/

theorem State.walk_beside (fetch wrong : Bool) (asid va missCode level table : Nat) :
    (s.walk h fetch wrong asid va missCode level table).1.beside h = s.beside h := by
  induction level generalizing s table with
  | zero => rfl
  | succ lv ih =>
    unfold State.walk
    dsimp only
    generalize table + bitsOf va (levelBit (lv + 1) + 8) (levelBit (lv + 1)) * 8 = at_
    have hread := (State.walkRead_beside (if wrong then s.tally h 0x009 else s) h at_).trans (s.fetched_beside h wrong)
    generalize (if wrong then s.tally h 0x009 else s).walkRead h at_ = u at *
    split
    · rfl
    · split
      · rfl
      · split
        · exact hread
        · split
          · exact hread
          · split
            · exact hread
            · exact (ih _ _).trans ((u.modTwin_beside h _ fun _ => by rfl).trans hread)

theorem State.walkFrom_beside (fetch wrong : Bool) (asid va missCode root : Nat) :
    (s.walkFrom h fetch wrong asid va missCode root).1.beside h = s.beside h := by
  have hused (l : List TlbEntry) (level table : Nat) :
      ((s.modTwin (s.twinOf h) (fun t => { t with wcache := l })).walk h fetch wrong asid va missCode level table).1.beside h
        = s.beside h := (State.walk_beside _ h fetch wrong asid va missCode level table).trans (s.modTwin_beside h _ fun _ => by rfl)
  unfold State.walkFrom
  dsimp only
  split
  · exact hused _ _ _
  · split
    · exact hused _ _ _
    · split
      · exact hused _ _ _
      · exact s.walk_beside h fetch wrong asid va missCode 4 _

theorem State.walkFill_beside (k : AccKind) (wrong : Bool) (asid va root : Nat) (onlyL1 : Bool) :
    (s.walkFill h k wrong asid va root onlyL1).1.beside h = s.beside h := by
  have hwalk := (State.walkFrom_beside (s.tally h 0x00E) h k.isFetch wrong asid va k.missCode root).trans (s.tally_beside h 0x00E)
  unfold State.walkFill
  dsimp only
  generalize (s.tally h 0x00E).walkFrom h k.isFetch wrong asid va k.missCode root = r at *
  split
  · exact hwalk
  · split
    · exact hwalk
    · refine (State.modTwin_beside _ h _ fun t => ?_).trans ((r.1.fetched_beside h wrong).trans hwalk)
      split
      · exact t.fillL1_pred _ _
      · exact (Twin.fillL1_pred _ _ _).trans (t.fillL2_pred _)

/-! ### The TLBs and the full tree (R403 to R405) -/

theorem State.tlbFind_beside (fetch wrong : Bool) (asid va : Nat) : (s.tlbFind h fetch wrong asid va).1.beside h = s.beside h := by
  have hmiss := s.tally_beside h 0x00D
  have huse (x : Twin) (hx : x.pred = (s.twin (s.twinOf h)).pred) :
      ((if wrong then (s.tally h 0x00D).tally h 0x009 else s.tally h 0x00D).setTwin (s.twinOf h) x).beside h = s.beside h := by
    have hf := ((s.tally h 0x00D).fetched_beside h wrong).trans hmiss
    refine (State.setTwin_beside _ h _ ?_).trans hf
    exact hx.trans (congrFun (State.preds_of_beside hf) (s.twinOf h)).symm
  unfold State.tlbFind
  dsimp only
  split
  · refine s.setTwin_beside h _ ?_
    split <;> rfl
  · split
    · exact huse _ (Twin.fillL1_pred _ _ _)
    · split
      · exact huse _ (Twin.fillL1_pred _ _ _)
      · split
        · exact huse _ (Twin.fillL1_pred _ _ _)
        · exact hmiss

theorem State.full_beside (k : AccKind) (wrong : Bool) (va : Nat) : (s.full h k wrong va).1.beside h = s.beside h := by
  unfold State.full
  dsimp only
  split
  · rfl
  · split
    · exact s.tlbFind_beside h _ _ _ _
    · exact (State.walkFill_beside _ h _ _ _ _ _ _).trans (s.tlbFind_beside h _ _ _ _)

/-- In banked addressing a translation reads no structure. -/
theorem State.translate_banked (hb : (s.hew h).banked = true) (k : AccKind) (va n : Nat) (aligned : Bool) :
    (s.translate h k va n aligned).s = s := by
  unfold State.translate
  dsimp only
  rw [if_pos hb]
  split
  · rfl
  · split
    · rfl
    · simp only [apply_ite TrRes.s, ite_self]

/-! ### The wrong path (R356, R367) -/

theorem State.wrongLeaf_beside (va : Nat) : (s.wrongLeaf h va).1.beside h = s.beside h := by
  unfold State.wrongLeaf
  dsimp only
  split
  · next hb => exact congrArg (State.beside h) (s.translate_banked h hb _ _ _ _)
  · split
    · split
      · split <;> rfl
      · rfl
    · have hfull := s.full_beside h .fetch true va
      split
      · split <;> exact hfull
      · exact hfull

theorem State.wrongFetch_beside (cls n va : Nat) : (s.wrongFetch h cls n va).beside h = s.beside h := by
  induction n generalizing s va with
  | zero => rfl
  | succ k ih =>
    have hleaf := s.wrongLeaf_beside h va
    unfold State.wrongFetch
    dsimp only
    split
    · exact hleaf
    · split
      · exact (ih _ _).trans ((State.l1iUse_beside _ h _ _ _ _).trans hleaf)
      · exact hleaf

theorem State.wrongPath_beside (w : Option Nat) : (s.wrongPath h w).beside h = s.beside h := by
  unfold State.wrongPath
  split
  · rfl
  · exact (State.wrongFetch_beside _ h _ _ _).trans (s.draw_beside h)

end

end Sys2Proof.Machine

/-!
PROOFS. `call`, `callr` and `ret` (R243, R244, R289 to R294, R358): the limits of the return stack, the unit that a transfer opens, and
its end.
-/
namespace Sys2Proof.Machine

/-! ### A transfer opens its unit (R290, R354, R358) -/

/-- The hewer in the delay slot of a transfer. -/
def Hewer.opened (x : Hewer) (target : Word) (push : Option Word) (ca : Nat) (via : Option TlbEntry) (rsp : Word) : Hewer :=
  { x with unit := some ⟨x.pc, target, push, ca, via, x.rsp⟩, rsp := rsp, pc := x.pc + 4 }

section
variable (x : Hewer) (target : Word) (push : Option Word) (ca : Nat) (via : Option TlbEntry) (rsp : Word)

/-- A completion keeps what the unit has of the hewer, and forgets the host data of the instruction. -/
theorem Hewer.opened_done (l : List HostPart) :
    (({ x with hostBuf := l } : Hewer).opened target push ca via rsp).done
      = { x.done with unit := some ⟨x.pc, target, push, ca, via, x.rsp⟩, rsp := rsp, pc := x.pc + 4 } := by
  have hpl : (({ x with hostBuf := l } : Hewer).opened target push ca via rsp).pl = x.pl := rfl
  unfold Hewer.done Hewer.endWindow
  rw [hpl]
  by_cases h3 : x.pl = 3
  · rw [if_pos h3, if_pos h3]
    rfl
  · rw [if_neg h3, if_neg h3]
    by_cases h1 : x.pl = 1
    · rw [if_pos h1, if_pos h1]
      rfl
    · rw [if_neg h1, if_neg h1]
      rfl

end

section
variable (s : State) (h : Nat)

/-- The prediction of a transfer, its events and its wrong path leave the hewers and the bytes alone. -/
theorem State.resolved_rest (r : Prediction) : (s.resolved h r).hewers = s.hewers ∧ (s.resolved h r).mem = s.mem := by
  have hevents (t : State) (c : Prop) [Decidable c] (e : Nat) : (if c then t else t.tally h e).beside h = t.beside h := by
    split
    · rfl
    · exact t.tally_beside h e
  have hredirect (t : State) (c : Prop) [Decidable c] (e : Nat) : (if c then t.tally h e else t).beside h = t.beside h := by
    split
    · exact t.tally_beside h e
    · rfl
  have hb : (s.resolved h r).beside h = (s.modTwin (s.twinOf h) (fun x => { x with pred := r.pred })).beside h := by
    unfold State.resolved
    dsimp only
    exact (State.wrongPath_beside _ h _).trans ((hredirect _ _ _).trans ((hevents _ _ _).trans (State.tally_beside _ h _)))
  exact ⟨(State.hewers_of_beside hb).trans (State.modTwin_hewers _ _ _), (State.mem_of_beside hb).trans (State.modTwin_mem _ _ _)⟩

variable {s h}

/-- A checkpoint is free, so a transfer is predicted and resolved at once. -/
theorem State.predicted_free (hfree : (s.twin (s.twinOf h)).pred.cps.length < 4) (f : Predictor → Prediction) (k : State → Step) :
    s.predicted h f k = k (s.resolved h (f (s.twin (s.twinOf h)).pred)) := by
  have h4 : decide (4 ≤ (s.twin (s.twinOf h)).pred.cps.length) = false := decide_eq_false (Nat.not_le.mpr hfree)
  unfold State.predicted
  dsimp only
  rw [h4, Bool.and_false, if_neg Bool.false_ne_true]

/-- Where the return address of a unit goes. -/
def Piece.dest (p : Piece) : Option Word := match p.place with | .phys pa => some (BitVec.ofNat 64 pa) | _ => none

theorem State.enterUnit_eq (next : Word) (push : Option Piece) (rsp : Word) : s.enterUnit h next push rsp = .jumped (s.setHew h
    ((s.hew h).opened next (push.bind Piece.dest) ((push.map Piece.ca).getD 0) (push.bind Piece.via) rsp)) := rfl

/-- A transfer with a checkpoint free completes, and its unit is open. -/
theorem State.finish_transfer {s0 : State} (hs : s0.flag (F.TLY_HWR_SCTL.EN h) = false) (p : Pre)
    (hfree : (s.twin (s.twinOf h)).pred.cps.length < 4) (hst : (s.hew h).stepping = false) (hctl : (s.hew h).ctl = [])
    (f : Predictor → Prediction) (next : Word) (push : Option Piece) (rsp : Word) :
    ∃ t, s0.finish h p (s.predicted h f (fun t => t.enterUnit h next push rsp)) = t
      ∧ t.hew h = ((s.hew h).opened next (push.bind Piece.dest) ((push.map Piece.ca).getD 0) (push.bind Piece.via) rsp).done
      ∧ t.mem = s.mem := by
  rw [State.predicted_free hfree, State.enterUnit_eq]
  obtain ⟨hhewers, hmem⟩ := s.resolved_rest h (f (s.twin (s.twinOf h)).pred)
  generalize s.resolved h (f (s.twin (s.twinOf h)).pred) = u at *
  have hhew : u.hew h = s.hew h := congrArg (fun l => Table.get l Hewer.reset h) hhewers
  rw [hhew]
  generalize hx : (s.hew h).opened next (push.bind Piece.dest) ((push.map Piece.ca).getD 0) (push.bind Piece.via) rsp = x
  have hxs : x.stepping = false := by rw [← hx]; exact hst
  have hxc : x.ctl = [] := by rw [← hx]; exact hctl
  have hsame : (u.setHew h x).hew h = x := State.hew_setHew_same _ _ _
  refine ⟨_, rfl, ?_, ?_⟩
  · rw [State.finish_jumped hs p (by rw [hsame, hxs]) (by rw [hsame, hxc]), hsame, State.completes, State.tally_hew,
      State.hew_setHew_same]
  · rw [State.finish_jumped hs p (by rw [hsame, hxs]) (by rw [hsame, hxc]), State.completes, State.tally_mem]
    exact hmem

end

/-! ### The load of a return address (R243, R342) -/

/-- What a load of hewer `h` that answers its bytes leaves of the state: the hewer but for its host data, the predictors, the twin. -/
structure State.Loaded (h : Nat) (s t : State) : Prop where
  canon : t.Canonical
  hew : ∃ l, t.hew h = { s.hew h with hostBuf := l }
  preds : t.preds = s.preds
  twin : t.twinOf h = s.twinOf h
  noStep : s.NoStep h → t.NoStep h

theorem galMap_not_counter (h : Nat) : counterReg h (Adr.FLT_GAL_MAP (h / 8)) = false := by
  refine counterReg_eq_false.mpr ⟨?_, fun n hn => ?_⟩
  · simp only [Adr.FLT_GAL_MAP, Adr.TLY_HWR_STAT]
    omega
  · simp only [Adr.FLT_GAL_MAP, Adr.TLY_HWR_CTR]
    omega

section
variable {s t u : State} {h : Nat}

/-- The twin of a hewer is what its gallery's map says. -/
theorem State.twinOf_of_reg (e : t.reg (Adr.FLT_GAL_MAP (h / 8)) = s.reg (Adr.FLT_GAL_MAP (h / 8))) : t.twinOf h = s.twinOf h := by
  unfold State.twinOf State.fld
  rw [e]

theorem State.Loaded.refl (hc : s.Canonical) : s.Loaded h s := ⟨hc, ⟨(s.hew h).hostBuf, rfl⟩, rfl, rfl, id⟩

theorem State.Loaded.trans (ha : s.Loaded h t) (hb : t.Loaded h u) : s.Loaded h u := by
  obtain ⟨l, hl⟩ := ha.hew
  obtain ⟨m, hm⟩ := hb.hew
  exact ⟨hb.canon, ⟨m, by rw [hm, hl]⟩, hb.preds.trans ha.preds, hb.twin.trans ha.twin, fun hn => hb.noStep (ha.noStep hn)⟩

theorem State.Loaded.of_beside (hc : t.Canonical) (e : t.beside h = s.beside h) : s.Loaded h t :=
  ⟨hc, ⟨(s.hew h).hostBuf, State.hew_of_beside e h⟩, State.preds_of_beside e,
    State.twinOf_of_reg (State.reg_of_beside e (galMap_not_counter h)), State.NoStep.of_hewers (State.hewers_of_beside e)⟩

theorem State.sbDrain_loaded (hc : s.Canonical) (n : Nat) : s.Loaded h (s.sbDrain h n) :=
  ⟨s.sbDrain_canonical hc h n, ⟨(s.hew h).hostBuf, State.sbDrain_hew_self hc h n⟩, s.sbDrain_preds h n,
    State.twinOf_of_reg (s.sbDrain_reg h n (galMap_not_counter h)), fun hn => hn.sbDrain h n⟩

theorem State.sbSearch_loaded (hc : s.Canonical) (a n : Nat) : s.Loaded h (s.sbSearch h a n).1 := by
  unfold State.sbSearch
  split
  · exact .refl hc
  · split
    · exact .refl hc
    · exact State.sbDrain_loaded hc _

theorem State.windowRead_beside (s : State) (h : Nat) (l : List Byte) (off n : Nat) : (s.windowRead l off n).2.beside h = s.beside h := by
  unfold State.windowRead
  dsimp only
  split <;> rfl

theorem State.outDrop_loaded (hc : s.Canonical) : s.Loaded h s.outDrop := by
  have haddr : Adr.FLT_GAL_MAP (h / 8) ≠ F.HEP_COUNTS.OUT_DROP.addr := by
    simp only [Adr.FLT_GAL_MAP, F.HEP_COUNTS.OUT_DROP, Adr.HEP_COUNTS]
    omega
  have hhewers : s.outDrop.hewers = s.hewers := State.count_hewers s _ 1
  exact ⟨hc.of_kept fun hk => State.count_kept s _ 1 hk, ⟨(s.hew h).hostBuf, congrArg (fun l => Table.get l Hewer.reset h) hhewers⟩,
    State.preds_of_twins (State.count_twins s _ 1), State.twinOf_of_reg (State.count_reg_other s _ 1 haddr),
    State.NoStep.of_hewers hhewers⟩

theorem State.freeBytes_loaded (hc : s.Canonical) (n : Nat) : s.Loaded h (s.freeBytes n).2 :=
  .of_beside ⟨hc.regs, hc.hewers, hc.twins, hc.mem⟩ rfl

theorem State.hostBuf_loaded (hc : s.Canonical) (f : Hewer → List HostPart) :
    s.Loaded h (s.modHew h (fun x => { x with hostBuf := f x })) :=
  ⟨State.setHew_canonical s h _ hc, ⟨f (s.hew h), State.hew_setHew_same _ _ _⟩, State.preds_of_twins rfl, State.twinOf_of_reg rfl,
    fun hn => hn.modHew fun _ => by rfl⟩

/-- Host bytes that are refused: the refusal is counted, and the answer kept for the instruction. -/
theorem State.hostDrop_loaded (hc : s.Canonical) (f : Hewer → List HostPart) (n : Nat) :
    s.Loaded h ((s.outDrop.freeBytes n).2.modHew h (fun x => { x with hostBuf := f x })) := by
  have hdrop := State.outDrop_loaded (h := h) hc
  have hfree := State.freeBytes_loaded (h := h) hdrop.canon n
  exact hdrop.trans (hfree.trans (State.hostBuf_loaded hfree.canon f))

theorem State.hostPart_loaded (hc : s.Canonical) (pa n : Nat) (via : Option TlbEntry) {b : List Byte} {p l : Bool}
    (hd : (s.hostPart h pa n via).2 = .data b p l) : s.Loaded h (s.hostPart h pa n via).1 := by
  unfold State.hostPart at hd ⊢
  dsimp only at hd ⊢
  split
  · exact .refl hc
  · split
    · exact State.hostDrop_loaded hc (fun x => x.hostBuf ++ [⟨pa, n, none, some ((s.outDrop.freeBytes n).1, true), via⟩]) n
    · next hfind hblock =>
      rw [hfind] at hd
      dsimp only at hd
      rw [if_neg hblock] at hd
      split at hd <;> cases hd

theorem State.cachedLoad_loaded (hc : s.Canonical) (pa n ca : Nat) : s.Loaded h (s.cachedLoad h pa n ca).1 := by
  have hsearch := State.sbSearch_loaded (h := h) hc pa n
  unfold State.cachedLoad
  dsimp only
  split
  · exact hsearch
  · refine hsearch.trans (.of_beside ?_ (State.dataLine_beside _ h _ _ _ _))
    exact hsearch.canon.of_kept fun hk => State.dataLine_kept _ _ _ _ _ _ hk

theorem State.loadPiece_loaded (hc : s.Canonical) (p : Piece) {b : List Byte} {q l : Bool}
    (hd : (s.loadPiece h p).2 = .data b q l) : s.Loaded h (s.loadPiece h p).1 := by
  have hcan : (s.loadPiece h p).1.Canonical := hc.of_kept fun hk => State.loadPiece_kept s h p hk
  have hwindow (w : List Byte) (off : Nat) : ((s.windowRead w off p.len).2.tally h 0x012).beside h = s.beside h :=
    (State.tally_beside _ h 0x012).trans (s.windowRead_beside h w off p.len)
  unfold State.loadPiece at hd hcan ⊢
  dsimp only at hd hcan ⊢
  split
  · next hplace =>
    simp only [hplace] at hd hcan
    split
    · exact .refl hc
    · next hbody =>
      simp only [hbody] at hcan
      exact .of_beside hcan (hwindow _ _)
  · next hplace =>
    simp only [hplace] at hd hcan
    split
    · exact .refl hc
    · next hbody =>
      simp only [hbody] at hcan
      exact .of_beside hcan (hwindow _ _)
  · next hplace =>
    simp only [hplace] at hd
    split
    · split <;> exact .refl hc
    · next harea =>
      simp only [harea] at hd
      exact State.hostPart_loaded hc _ _ _ hd
    · exact State.cachedLoad_loaded hc _ _ _

theorem State.loadPieces_loaded (ps : List Piece) : ∀ {s : State}, s.Canonical → ∀ {b : List Byte} {q l : Bool},
    (s.loadPieces h ps).2 = .data b q l → s.Loaded h (s.loadPieces h ps).1 := by
  induction ps with
  | nil => exact fun hc _ _ _ _ => .refl hc
  | cons p rest ih =>
    intro s hc b q l hd
    unfold State.loadPieces at hd ⊢
    dsimp only at hd ⊢
    split at hd
    · next hp hrest =>
      have hone := State.loadPiece_loaded hc p hp
      exact hone.trans (ih hone.canon hrest)
    · cases hd

end

/-! ### The bodies of the three transfers -/

section
variable {s : State} {h : Nat}

/-- An access that the translation allows, with no comparator armed, goes on with its pieces. -/
theorem State.withAccess_ok (hr : s.Runs h) {k : AccKind} {ea n : Nat} {l : List Piece} (ha : s.access h k ea n = ⟨s, .ok l⟩)
    (items : List CmpItem) (f : State → List Piece → Step) : s.withAccess h k ea n items f = f s l := by
  unfold State.withAccess
  simp only [ha, State.cmpPoint_off s h items hr.canon hr.watch]

theorem State.callStep_overflow (ho : (s.hew h).rsl.toNat < (s.hew h).rsp.toNat + 8) (f : State → Piece → Step) :
    s.callStep h f = .exc s (mkExc 0x0B (s.hew h).rsp.toNat) := by
  unfold State.callStep
  dsimp only
  rw [if_pos ho]

theorem State.callStep_ok (hr : s.Runs h) (ho : (s.hew h).rsp.toNat + 8 ≤ (s.hew h).rsl.toNat) {pa ca : Nat} {via : Option TlbEntry}
    (ha : s.access h .stackWrite (s.hew h).rsp.toNat 8 = ⟨s, .ok [⟨.phys pa, 8, ca, via⟩]⟩) (f : State → Piece → Step) :
    s.callStep h f = f s ⟨.phys pa, 8, ca, via⟩ := by
  unfold State.callStep
  dsimp only
  rw [if_neg (Nat.not_lt.mpr ho), State.withAccess_ok hr ha]

theorem State.readNow_data {u : State} {l : List Piece} {b : List Byte} {late : Bool} (hl : s.loadPieces h l = (u, .data b false late))
    (ea : Nat) (f : State → List Byte → Step) : s.readNow h l ea f = f u b := by
  unfold State.readNow
  simp only [hl]

theorem mkExc_toNat (code : Nat) (v : Word) : mkExc code v.toNat = ⟨code, v⟩ := by
  unfold mkExc
  rw [BitVec.ofNat_toNat, BitVec.setWidth_eq]

theorem misaligned_eq_true {v : Word} (hv : v.toNat % 4 ≠ 0) : misaligned v = true := bne_iff_ne.mpr hv

theorem misaligned_eq_false {v : Word} (hv : v.toNat % 4 = 0) : misaligned v = false := by
  unfold misaligned
  rw [hv]
  rfl

/-- The low bits of a word made of a number are those of the number. -/
theorem ofNat_toNat_mod_four (n : Nat) : (BitVec.ofNat 64 n).toNat % 4 = n % 4 := by
  rw [BitVec.toNat_ofNat]
  omega

/-- Outside a unit a transfer is legal: it is its own effect and its end. -/
theorem State.run_transfer (hr : s.Runs h) (word : Nat) (src : List Nat) (ea : Nat) (body : State → Step) :
    s.run h (s.transferPre h word src ea) body = s.finish h (s.transferPre h word src ea) (body s) :=
  State.run_runs s h _ body hr (by simp only [State.transferPre, hr.inUnit, Bool.false_eq_true, if_false])

/-- A transfer that raises an exception before any effect. -/
theorem State.finish_trap (hr : s.Runs h) (p : Pre) (code : Nat) (v : Word) :
    s.finish h p (.exc s (mkExc code v.toNat)) = s.traps h code v := by
  rw [mkExc_toNat]
  exact State.finish_exc hr.sampling p _ hr.noStep hr.unit hr.rep

/-- A transfer that is predicted in a state that its load has left: the unit is open there. -/
theorem State.finish_opened {u : State} (hr : s.Runs h) (hl : s.Loaded h u) (hfree : (s.twin (s.twinOf h)).pred.cps.length < 4) (p : Pre)
    (f : Predictor → Prediction) (next : Word) (push : Option Piece) (rsp : Word) :
    ∃ t, s.finish h p (u.predicted h f (fun t => t.enterUnit h next push rsp)) = t
      ∧ t.hew h = { (s.hew h).done with
          unit := some ⟨(s.hew h).pc, next, push.bind Piece.dest, (push.map Piece.ca).getD 0, push.bind Piece.via, (s.hew h).rsp⟩
          rsp := rsp
          pc := (s.hew h).pc + 4 }
      ∧ t.mem = u.mem := by
  obtain ⟨l, hhew⟩ := hl.hew
  have hpred : (u.twin (u.twinOf h)).pred = (s.twin (s.twinOf h)).pred := by
    rw [hl.twin]
    exact congrFun hl.preds _
  obtain ⟨t, ht, hx, hmem⟩ := State.finish_transfer (s := u) hr.sampling p (by rw [hpred]; exact hfree) (hl.noStep hr.noStep).hew
    (by rw [hhew]; exact hr.ctl) f next push rsp
  rw [hhew, Hewer.opened_done] at hx
  exact ⟨t, ht, hx, hmem⟩

end

/-! ### The end of the slot (R292) -/

section
variable {s : State} {h : Nat} {u : TransferUnit}

theorem Hewer.done_body (x : Hewer) : x.done.body = x.body := by
  unfold Hewer.done Hewer.endWindow
  split
  · rfl
  · split <;> rfl

/-- The class of a hewer's accesses is that of the body that it runs. -/
theorem State.classOf_setHew {x : Hewer} (hp : x.pstat = (s.hew h).pstat) (hb : x.body = (s.hew h).body) :
    (s.setHew h x).classOf h = s.classOf h := by
  have hbit : x.bodyBit = (s.hew h).bodyBit := by
    unfold Hewer.bodyBit Hewer.psf
    rw [hp]
  unfold State.classOf
  simp only [State.hew_setHew_same, hbit, hb]
  rfl

/-- A return address in DRAM goes into the store buffer, with the class of the body that runs. -/
theorem State.pushReturn_dram {x : Hewer} (hp : x.pstat = (s.hew h).pstat) (hb : x.body = (s.hew h).body) {pa : Nat}
    (ha : s.areaOf pa = 1) : (s.setHew h x).pushReturn h u pa
      = (s.setHew h x).sbPut h ⟨pa, bytesLE 8 (u.addr + 8).toNat, u.ca, s.classOf h, u.via⟩ := by
  have h3 : ¬(s.setHew h x).areaOf pa = 3 := by
    rw [show (s.setHew h x).areaOf pa = 1 from ha]
    decide
  unfold State.pushReturn
  dsimp only
  rw [if_neg h3, State.classOf_setHew hp hb]

/-- The instruction in the slot completes: its unit ends, and the return address goes where it is to go. -/
theorem State.retire_push (hu : (s.hew h).unit = some u) (hc : (s.hew h).ctl = []) {pa : Word} (hp : u.push = some pa) :
    s.retire h = (s.setHew h { (s.hew h).done with unit := none, pc := u.next }).pushReturn h u pa.toNat := by
  have hpass : s.passChoice h = s := by
    unfold State.passChoice
    simp only [hc, List.isEmpty_nil, if_true]
  have hunit : (s.hew h).done.unit = some u := (Hewer.done_unit _).trans hu
  unfold State.retire
  dsimp only
  rw [hpass, Hewer.passed_eq _ hc]
  split
  · next v hv =>
    obtain rfl : v = u := Option.some.inj (hv.symm.trans hunit)
    rw [hp]
  · next hnone => exact absurd (hunit.symm.trans hnone) (Option.some_ne_none _)

end

/-- Settles O15: the limits and the targets by the exceptions, the rest by the unit opened; the push by the end of the slot. -/
theorem callsAndReturns : Obligations.CallsAndReturns := by
  unfold Obligations.CallsAndReturns
  refine ⟨fun h a disp ra s u pa ca via l b late hr hfree => ?_, fun s h u hu hc => ⟨?_, fun pa hp ha => ?_⟩⟩
  · have hcall : exec (.call h a disp) s = _ := congrArg Host.Outcome.next (State.run_transfer hr _ _ _ _)
    have hcallr : exec (.callr h a ra) s = _ := congrArg Host.Outcome.next (State.run_transfer hr _ _ _ _)
    have hret : exec (.ret h a) s = _ := congrArg Host.Outcome.next (State.run_transfer hr _ _ _ _)
    dsimp only at hcall hcallr hret ⊢
    rw [hcall, hcallr, hret]
    refine ⟨fun ho => ⟨?_, fun hal => ?_⟩, fun hal => ?_, fun ho ha => ⟨?_, fun hal => ?_⟩, fun ho => ?_, fun ho ha hl _ => ?_⟩
    · rw [State.callStep_overflow ho, State.finish_trap hr]
    · rw [if_neg (by rw [misaligned_eq_false hal]; exact Bool.false_ne_true), State.callStep_overflow ho, State.finish_trap hr]
    · rw [if_pos (misaligned_eq_true hal), State.finish_trap hr]
    · rw [State.callStep_ok hr ho ha]
      obtain ⟨t, ht, hx, hmem⟩ := State.finish_opened hr (.refl hr.canon) hfree _ _ _ (some ⟨.phys pa, 8, ca, via⟩) _
      exact ⟨t, congrArg Host.Outcome.next ht, hx, hmem⟩
    · rw [if_neg (by rw [misaligned_eq_false hal]; exact Bool.false_ne_true), State.callStep_ok hr ho ha]
      obtain ⟨t, ht, hx, hmem⟩ := State.finish_opened hr (.refl hr.canon) hfree _ _ _ (some ⟨.phys pa, 8, ca, via⟩) _
      exact ⟨t, congrArg Host.Outcome.next ht, hx, hmem⟩
    · rw [if_pos ho, State.finish_trap hr]
    · have hloaded : s.Loaded h u := by
        have hd := State.loadPieces_loaded (h := h) l hr.canon (congrArg Prod.snd hl)
        rwa [hl] at hd
      rw [if_neg (Nat.not_le.mpr ho), State.withAccess_ok hr ha, State.readNow_data hl]
      refine ⟨fun hal => ?_, fun hal => ?_⟩
      · rw [if_neg (by rw [misaligned_eq_false ((ofNat_toNat_mod_four _).trans hal)]; exact Bool.false_ne_true)]
        obtain ⟨t, ht, hx, hmem⟩ := State.finish_opened hr hloaded hfree _ _ _ none _
        exact ⟨t, congrArg Host.Outcome.next ht, hx, hmem⟩
      · obtain ⟨m, hm⟩ := hloaded.hew
        rw [if_pos (misaligned_eq_true (by rw [ofNat_toNat_mod_four]; exact hal)), mkExc_toNat,
          State.finish_exc hr.sampling _ _ (hloaded.noStep hr.noStep) (by rw [hm]; exact hr.unit) (by rw [hm]; exact hr.rep)]
  · unfold Hewer.undoUnit
    rw [hu]
  · rw [State.retire_push hu hc hp]
    refine State.pushReturn_dram ?_ ?_ ha
    · exact Hewer.done_pstat _
    · exact Hewer.done_body _

end Sys2Proof.Machine

/-!
PROOFS. The integer instructions (R238, R275 to R278): the forms that they share, and their results and flags as the library's words have
them.
-/
namespace Sys2Proof.Machine

/-! ### The forms of the integer instructions (R275 to R278) -/

section
variable {s : State} {h : HewerId} (hr : s.Runs h)
include hr

theorem State.aluReg_runs (major func rd ra rb : Nat) (f : Word → Word → Bool → AluRes) :
    let r := f ((s.hew h).getW ra) ((s.hew h).getW rb) (s.hew h).flagC
    s.aluReg h major func rd ra rb f = s.completes h (((s.hew h).setW rd r.val).setNzcv r.nzcv).next :=
  State.run_flow (f := fun x => (x.setW rd (f (x.getW ra) (x.getW rb) x.flagC).val).setNzcv (f (x.getW ra) (x.getW rb) x.flagC).nzcv)
    hr rfl rfl ((Hewer.setNzcv_flow _ _).trans (Hewer.setW_flow _ _ _))

theorem State.aluImm_runs (major rd ra imm : Nat) (f : Word → AluRes) :
    let r := f ((s.hew h).getW ra)
    s.aluImm h major rd ra imm f = s.completes h (((s.hew h).setW rd r.val).setNzcv r.nzcv).next :=
  State.run_flow (f := fun x => (x.setW rd (f (x.getW ra)).val).setNzcv (f (x.getW ra)).nzcv)
    hr rfl rfl ((Hewer.setNzcv_flow _ _).trans (Hewer.setW_flow _ _ _))

/-- A move writes a register and keeps the flags. -/
theorem State.move_runs {p : Pre} (hp : p.bad = none) (rd : Nat) (f : Hewer → Word) :
    s.run h p (fun t => t.moveStep h rd f) = s.completes h ((s.hew h).setW rd (f (s.hew h))).next :=
  State.run_flow (f := fun x => x.setW rd (f x)) hr hp rfl (Hewer.setW_flow _ _ _)

theorem State.divStep_runs {rb : Nat} (hb : (s.hew h).getW rb ≠ 0) (func rd ra : Nat) (f : Word → Word → AluRes) :
    let r := f ((s.hew h).getW ra) ((s.hew h).getW rb)
    s.divStep h func rd ra rb f = s.completes h (((s.hew h).setW rd r.val).setNzcv r.nzcv).next := by
  dsimp only
  unfold State.divStep
  rw [State.runLong_runs s h _ _ hr rfl, if_neg hb]
  exact State.finish_flow _ (fun x => (x.setW rd (f (x.getW ra) (x.getW rb)).val).setNzcv (f (x.getW ra) (x.getW rb)).nzcv) _ h.isLt hr
    ((Hewer.setNzcv_flow _ _).trans (Hewer.setW_flow _ _ _))

/-- An instruction without an effect only moves on. -/
theorem State.run_still {p : Pre} (hp : p.bad = none) {body : State → Step} {items : List CmpItem} (hb : body s = .ok s items) :
    s.run h p body = s.completes h (s.hew h).next :=
  State.run_flow (f := id) hr hp (hb.trans (congrArg (Step.ok · items) (State.setHew_hew s h hr.canon).symm)) rfl

/-- A divisor of 0 traps at the instruction. -/
theorem State.divStep_zero {rb : Nat} (hb : (s.hew h).getW rb = 0) (func rd ra : Nat) (f : Word → Word → AluRes) :
    s.divStep h func rd ra rb f = s.traps h 0x17 0 := by
  unfold State.divStep
  rw [State.runLong_runs s h _ _ hr rfl, if_pos hb]
  exact State.finish_exc hr.sampling _ _ hr.noStep hr.unit hr.rep

end

/-! ### Results and flags as the library's words have them (R238) -/

/-- An exact integer fits where it lies in the range of a signed word. -/
theorem notSigned64_eq (x : Int) : notSigned64 x = (decide (x ≥ 2 ^ 63) || decide (x < -2 ^ 63)) := Bool.or_comm _ _

theorem notSigned64_toInt (a : Word) : notSigned64 a.toInt = false := by
  have hlo : ¬(a.toInt ≥ 2 ^ 63) := not_le.mpr a.toInt_lt
  have hhi : ¬(a.toInt < -2 ^ 63) := not_lt.mpr a.le_toInt
  rw [notSigned64_eq, decide_eq_false hlo, decide_eq_false hhi]
  rfl

section
variable (a b : Word)

/-- add without a carry: the sum, its carry out and its signed overflow. -/
theorem aluAdd_plain : aluAdd a b false = resFlags (a + b) (a.uaddOverflow b) (a.saddOverflow b) := by
  have hsum : BitVec.ofNat 64 (a.toNat + b.toNat) = a + b := by
    rw [BitVec.ofNat_add, BitVec.ofNat_toNat, BitVec.ofNat_toNat, BitVec.setWidth_eq, BitVec.setWidth_eq]
  unfold aluAdd BitVec.uaddOverflow BitVec.saddOverflow
  rw [notSigned64_eq]
  simp only [b2n, Bool.false_eq_true, if_false, Nat.add_zero, Nat.cast_zero, Int.add_zero, hsum, ge_iff_le, Nat.add_one_sub_one]

/-- add with the carry in. -/
theorem aluAdd_carry (c : Bool) : aluAdd a b c = resFlags (a + b + BitVec.ofNat 64 (b2n c)) (decide (2 ^ 64 ≤ a.toNat + b.toNat + b2n c))
    (notSigned64 (a.toInt + b.toInt + b2n c)) := by
  have hsum : BitVec.ofNat 64 (a.toNat + b.toNat + b2n c) = a + b + BitVec.ofNat 64 (b2n c) := by
    rw [BitVec.ofNat_add, BitVec.ofNat_add, BitVec.ofNat_toNat, BitVec.ofNat_toNat, BitVec.setWidth_eq, BitVec.setWidth_eq]
  unfold aluAdd
  rw [hsum]

/-- sub without a borrow: the difference, no borrow out and its signed overflow. -/
theorem aluSub_plain : aluSub a b true = resFlags (a - b) (!(a.usubOverflow b)) (a.ssubOverflow b) := by
  have hborrow : decide (b.toNat ≤ a.toNat) = !(a.usubOverflow b) := by
    unfold BitVec.usubOverflow
    rw [← decide_not, decide_eq_decide, Nat.not_lt]
  unfold aluSub BitVec.ssubOverflow
  rw [notSigned64_eq, ← hborrow]
  simp [b2n]

/-- mul: the low half, and whether the signed product fits. -/
theorem aluMul_eq : aluMul a b = resFlags (a * b) false (a.smulOverflow b) := by
  unfold aluMul BitVec.smulOverflow
  rw [notSigned64_eq]

/-- div: the quotient towards 0; the one that does not fit is that of the least word by -1. -/
theorem aluDiv_eq : aluDiv a b = resFlags (a.sdiv b) false (a == BitVec.intMin 64 && b == -1) := by
  have hval : BitVec.ofInt 64 (a.toInt.tdiv b.toInt) = a.sdiv b :=
    BitVec.eq_of_toInt_eq (by rw [BitVec.toInt_ofInt, BitVec.toInt_sdiv])
  have hfits : notSigned64 (a.toInt.tdiv b.toInt) = (a == BitVec.intMin 64 && b == -1) := by
    by_cases hone : a = BitVec.intMin 64 ∧ b = -1
    · obtain ⟨rfl, rfl⟩ := hone
      decide
    · rw [← BitVec.toInt_sdiv_of_ne_or_ne a b (not_and_or.mp hone), notSigned64_toInt]
      simpa using fun ha => not_and.mp hone ha
  unfold aluDiv
  rw [hval, hfits]

theorem aluDivu_eq : aluDivu a b = resFlags (a / b) false false := by
  have hval : BitVec.ofNat 64 (a.toNat / b.toNat) = a / b := by
    rw [← BitVec.toNat_udiv, BitVec.ofNat_toNat, BitVec.setWidth_eq]
  unfold aluDivu
  rw [hval]

theorem aluRem_eq : aluRem a b = resFlags (a.srem b) false false := by
  unfold aluRem
  rw [← BitVec.toInt_srem, BitVec.ofInt_toInt]

theorem aluRemu_eq : aluRemu a b = resFlags (a % b) false false := by
  unfold aluRemu
  rw [← BitVec.toNat_umod, BitVec.ofNat_toNat, BitVec.setWidth_eq]

/-- The bit that a shift by `n` moves out last. -/
theorem shiftCarry_eq (n i : Nat) : shiftCarry a n i = (decide (n ≠ 0) && a.getLsbD i) := by
  unfold shiftCarry
  split
  · next h0 => rw [decide_eq_false (not_not.mpr h0), Bool.false_and]
  · next h0 => rw [decide_eq_true h0, Bool.true_and, BitVec.testBit_toNat]

end

/-- A field written into a word reads as the value, cut to its width. -/
theorem bitsOf_ofNat_setBits {n : Nat} (v : BitVec n) {hi lo : Nat} (h : lo ≤ hi + 1) (hn : hi < n) (x : Nat) :
    bitsOf (BitVec.ofNat n (setBits v.toNat hi lo x)).toNat hi lo = x % 2 ^ (hi + 1 - lo) := by
  rw [BitVec.toNat_ofNat, Nat.mod_eq_of_lt (setBits_lt _ _ _ _ _ h v.isLt hn), bitsOf_setBits_same _ _ _ _ h]

/-- A field written into a word leaves every other bit. -/
theorem getLsbD_ofNat_setBits_outside {n : Nat} (v : BitVec n) {hi lo j : Nat} (h : lo ≤ hi + 1) (hj : j < lo ∨ hi < j) (x : Nat) :
    (BitVec.ofNat n (setBits v.toNat hi lo x)).getLsbD j = v.getLsbD j := by
  rw [BitVec.getLsbD_ofNat, testBit_setBits _ _ _ _ _ h, if_neg (by omega), BitVec.testBit_toNat]
  by_cases hn : j < n
  · rw [decide_eq_true hn, Bool.true_and]
  · rw [decide_eq_false hn, Bool.false_and, BitVec.getLsbD_of_ge v j (not_lt.mp hn)]

/-- movk replaces the 16 bits that it names (R278). -/
theorem extractLsb'_setBits (v : Word) {k : Nat} (hk : k < 4) (imm : BitVec 16) :
    (BitVec.ofNat 64 (setBits v.toNat (16 * k + 15) (16 * k) imm.toNat)).extractLsb' (16 * k) 16 = imm := by
  have hfield := bitsOf_ofNat_setBits v (hi := 16 * k + 15) (lo := 16 * k) (by omega) (by omega) imm.toNat
  have hwidth : 16 * k + 15 + 1 - 16 * k = 16 := by omega
  apply BitVec.eq_of_toNat_eq
  rw [BitVec.extractLsb'_toNat, Nat.shiftRight_eq_div_pow]
  rw [bitsOf, hwidth, Nat.mod_eq_of_lt imm.isLt] at hfield
  exact hfield

/-! ### The statements -/

/-- Settles O6: the register and the immediate form, with the sums and flags of the class; w0 discards the result of a compare. -/
theorem integerAddSubtract : Obligations.IntegerAddSubtract := by
  unfold Obligations.IntegerAddSubtract
  intro h rd ra rb imm s hr
  have reg (major func rd : Nat) (f) := congrArg (Host.Outcome.next (φ := Fault) (ρ := Refusal)) (State.aluReg_runs hr major func rd ra rb f)
  have immediate (major rd n : Nat) (f) := congrArg (Host.Outcome.next (φ := Fault) (ρ := Refusal))
    (State.aluImm_runs hr major rd ra n f)
  refine ⟨(reg _ _ _ _).trans ?_, (reg _ _ _ _).trans ?_, (reg _ _ _ _).trans ?_, reg _ _ _ _, (reg _ _ 0 _).trans ?_,
    (immediate _ _ _ _).trans ?_, (immediate _ 0 _ _).trans ?_⟩
  · rw [aluAdd_plain]; rfl
  · rw [aluAdd_carry]; rfl
  · rw [aluSub_plain]; rfl
  · rw [aluSub_plain]; rfl
  · rw [aluAdd_plain]; rfl
  · rw [aluSub_plain]; rfl

/-- Settles O7: the two forms of the logic class, and the moves, each an effect on the hewer alone. -/
theorem integerLogicAndMoves : Obligations.IntegerLogicAndMoves := by
  unfold Obligations.IntegerLogicAndMoves
  intro h rd ra rb i15 i20 i16 k cond s hr
  have reg (func rd : Nat) (f) := congrArg (Host.Outcome.next (φ := Fault) (ρ := Refusal)) (State.aluReg_runs hr 0x04 func rd ra rb f)
  have immediate (major : Nat) (f) := congrArg (Host.Outcome.next (φ := Fault) (ρ := Refusal))
    (State.aluImm_runs hr major rd ra i15.toNat f)
  have move (p : Pre) (hp : p.bad = none) (f) := congrArg (Host.Outcome.next (φ := Fault) (ρ := Refusal)) (State.move_runs hr hp rd f)
  refine ⟨reg _ rd _, reg _ rd _, reg _ rd _, reg _ rd _, reg _ 0 _, immediate _ _, immediate _ _, immediate _ _, move _ rfl _, move _ rfl _,
    move _ rfl _, ⟨_, move _ rfl _, extractLsb'_setBits _ k.isLt i16, fun j hj => getLsbD_ofNat_setBits_outside _ (by omega) (by omega) _⟩, ?_⟩
  exact congrArg Host.Outcome.next (State.run_still hr rfl rfl)

/-- Settles O8: the two forms, with the bit that the shift moves out last. -/
theorem integerShifts : Obligations.IntegerShifts := by
  unfold Obligations.IntegerShifts
  intro h rd ra rb count s hr
  have reg (func : Nat) (f) := congrArg (Host.Outcome.next (φ := Fault) (ρ := Refusal)) (State.aluReg_runs hr 0x04 func rd ra rb f)
  have immediate (n : Nat) (f) := congrArg (Host.Outcome.next (φ := Fault) (ρ := Refusal)) (State.aluImm_runs hr 0x0D rd ra n f)
  simp only [← shiftCarry_eq]
  exact ⟨reg _ _, reg _ _, reg _ _, reg _ _, immediate _ _, immediate _ _, immediate _ _, immediate _ _⟩

/-- Settles O9: the multiplications by the register form, the divisions by whether the divisor is 0. -/
theorem integerMultiplyDivide : Obligations.IntegerMultiplyDivide := by
  unfold Obligations.IntegerMultiplyDivide
  intro h rd ra rb s hr
  have reg (func : Nat) (f) := congrArg (Host.Outcome.next (φ := Fault) (ρ := Refusal)) (State.aluReg_runs hr 0x05 func rd ra rb f)
  refine ⟨(reg _ _).trans ?_, reg _ _, reg _ _, reg _ _, fun hb => ?_, fun hb i hi => ?_⟩
  · rw [aluMul_eq]; rfl
  · have divide (func : Nat) (f) := congrArg (Host.Outcome.next (φ := Fault) (ρ := Refusal)) (State.divStep_runs hr hb func rd ra f)
    refine ⟨(divide _ _).trans ?_, (divide _ _).trans ?_, (divide _ _).trans ?_, (divide _ _).trans ?_⟩
    · rw [aluDiv_eq]; rfl
    · rw [aluDivu_eq]; rfl
    · rw [aluRem_eq]; rfl
    · rw [aluRemu_eq]; rfl
  · have zero (func : Nat) (f) := congrArg (Host.Outcome.next (φ := Fault) (ρ := Refusal)) (State.divStep_zero hr hb func rd ra f)
    simp only [List.mem_cons, List.not_mem_nil, or_false] at hi
    rcases hi with rfl | rfl | rfl | rfl
    · exact zero 0x04 aluDiv
    · exact zero 0x05 aluDivu
    · exact zero 0x06 aluRem
    · exact zero 0x07 aluRemu

end Sys2Proof.Machine

/-!
PROOFS. The integer operations on vector registers and the moves to and from a lane (R234, R313, R315).
-/
namespace Sys2Proof.Machine

/-! ### Lanes of a vector register (R234) -/

theorem bitsOf_lane (v : Nat) {w : Nat} (hw : 0 < w) (k : Nat) : bitsOf v (w * k + w - 1) (w * k) = v / 2 ^ (w * k) % 2 ^ w := by
  have hwidth : w * k + w - 1 + 1 - w * k = w := by omega
  rw [bitsOf, hwidth]

/-- The number that lanes of width `w` make, lane 0 in the low bits. -/
def lanesNat (w : Nat) (l : List Nat) : Nat := l.foldr (fun x acc => acc * 2 ^ w + x % 2 ^ w) 0

theorem lanesNat_lt (w : Nat) (l : List Nat) : lanesNat w l < 2 ^ (w * l.length) := by
  induction l with
  | nil => exact Nat.one_pos
  | cons x r ih =>
    have hx : x % 2 ^ w < 2 ^ w := Nat.mod_lt _ (Nat.two_pow_pos w)
    calc lanesNat w r * 2 ^ w + x % 2 ^ w
        < (lanesNat w r + 1) * 2 ^ w := by rw [Nat.add_mul, Nat.one_mul]; omega
      _ ≤ 2 ^ (w * r.length) * 2 ^ w := Nat.mul_le_mul_right _ ih
      _ = 2 ^ (w * (x :: r).length) := by rw [← Nat.pow_add, List.length_cons, Nat.mul_succ]

theorem lanesNat_lane (w : Nat) (l : List Nat) {k : Nat} (hk : k < l.length) : lanesNat w l / 2 ^ (w * k) % 2 ^ w = l[k] % 2 ^ w := by
  induction l generalizing k with
  | nil => exact absurd hk (Nat.not_lt_zero k)
  | cons x r ih =>
    have hx : x % 2 ^ w < 2 ^ w := Nat.mod_lt _ (Nat.two_pow_pos w)
    have hcons : lanesNat w (x :: r) = lanesNat w r * 2 ^ w + x % 2 ^ w := rfl
    cases k with
    | zero => rw [hcons, Nat.mul_zero, Nat.pow_zero, Nat.div_one, Nat.mul_comm, Nat.mul_add_mod, Nat.mod_mod]; rfl
    | succ j =>
      have hrest : lanesNat w (x :: r) / 2 ^ w = lanesNat w r := by
        rw [hcons, Nat.mul_comm, Nat.mul_add_div (Nat.two_pow_pos w), Nat.div_eq_of_lt hx, Nat.add_zero]
      rw [Nat.mul_succ, Nat.add_comm, Nat.pow_add, ← Nat.div_div_eq_div_mul, hrest, ih (Nat.lt_of_succ_lt_succ hk)]
      rfl

/-- A lane of a register made of lanes that fit it. -/
theorem laneOf_ofLanes {w : Nat} (hw : 0 < w) (l : List Nat) (hl : w * l.length ≤ 128) {k : Nat} (hk : k < l.length) :
    laneOf (ofLanes w l) w k = l[k] % 2 ^ w := by
  have hlt : lanesNat w l < 2 ^ 128 := (lanesNat_lt w l).trans_le (Nat.pow_le_pow_right (by decide) hl)
  have hnat : (ofLanes w l).toNat = lanesNat w l := (BitVec.toNat_ofNat _ _).trans (Nat.mod_eq_of_lt hlt)
  rw [laneOf, bitsOf_lane _ hw, hnat, lanesNat_lane w l hk]

/-- A register written lane by lane. -/
theorem laneOf_ofLanes_map {w : Nat} (hw : 0 < w) (f : Nat → Nat) {k : Nat} (hk : k < 128 / w) :
    laneOf (ofLanes w ((List.range (128 / w)).map f)) w k = f k % 2 ^ w := by
  have hlen : ((List.range (128 / w)).map f).length = 128 / w := by rw [List.length_map, List.length_range]
  rw [laneOf_ofLanes hw _ (by rw [hlen]; exact Nat.mul_div_le 128 w) (by rw [hlen]; exact hk), List.getElem_map, List.getElem_range]

theorem moveWidth_pos (small : Bool) : 0 < moveWidth small := by
  cases small <;> decide

section
variable {s : State} {h : HewerId} (hr : s.Runs h)
include hr

/-- An integer operation on vectors writes its lanes and no flag (R315). -/
theorem State.vecInt_runs (func : Nat) (small : Bool) (vd va vb : Nat) (op : Nat → Nat → Nat → Nat) :
    ∃ r : VWord, s.vecInt h func small vd va vb op = s.completes h ((s.hew h).setV vd r).next ∧ ∀ k, k < 128 / moveWidth small →
      laneOf r (moveWidth small) k = op (moveWidth small) (laneOf ((s.hew h).getV va) (moveWidth small) k)
        (laneOf ((s.hew h).getV vb) (moveWidth small) k) % 2 ^ moveWidth small :=
  ⟨_, State.run_flow (f := fun x => x.setV vd _) hr rfl rfl (Hewer.setV_flow _ _ _),
    fun _ hk => laneOf_ofLanes_map (moveWidth_pos small) _ hk⟩

end

theorem badLane_none {small : Bool} {lane : Nat} (hl : small = true ∨ lane ≤ 1) : badLane small lane = none := by
  unfold badLane
  rcases hl with rfl | hl
  · rfl
  · rw [decide_eq_false (not_lt.mpr hl), Bool.and_false]
    rfl

theorem badLane_some {lane : Nat} (hl : 1 < lane) : badLane false lane = some 0x01 := by
  unfold badLane
  rw [decide_eq_true hl]
  rfl

/-- A lane that exists lies in its register. -/
theorem lane_lt {small : Bool} {lane : Fin 4} (hl : small = true ∨ lane.val ≤ 1) :
    moveWidth small * lane.val + moveWidth small - 1 < 128 := by
  have h4 := lane.isLt
  unfold moveWidth
  cases small with
  | true => simp only [if_true]; omega
  | false => simp only [Bool.false_eq_true, false_or] at hl; simp only [Bool.false_eq_true, if_false]; omega

section
variable {s : State} {h : HewerId} (hr : s.Runs h)
include hr

/-- vmov.wv to a lane that exists writes that lane and keeps every other bit (R313). -/
theorem execVmovWv_runs {small : Bool} {lane : Fin 4} (hl : small = true ∨ lane.val ≤ 1) (vd wa : RegNo) :
    ∃ r : VWord, execVmovWv h small lane vd wa s = .next (s.completes h ((s.hew h).setV vd r).next)
      ∧ laneOf r (moveWidth small) lane = ((s.hew h).getW wa).toNat % 2 ^ moveWidth small
      ∧ ∀ j, (j < moveWidth small * lane.val ∨ moveWidth small * lane.val + moveWidth small ≤ j) →
          r.getLsbD j = ((s.hew h).getV vd).getLsbD j := by
  have hpos := moveWidth_pos small
  have hwidth : moveWidth small * lane.val + moveWidth small - 1 + 1 - moveWidth small * lane.val = moveWidth small := by omega
  have hfield := bitsOf_ofNat_setBits ((s.hew h).getV vd) (lo := moveWidth small * lane.val) (by omega) (lane_lt hl) ((s.hew h).getW wa).toNat
  rw [hwidth] at hfield
  exact ⟨_, congrArg Host.Outcome.next (State.run_flow (f := fun x => x.setV vd (BitVec.ofNat 128 (setBits (x.getV vd).toNat _ _ _))) hr
    (badLane_none hl) rfl (Hewer.setV_flow _ _ _)), hfield, fun j hj => getLsbD_ofNat_setBits_outside _ (by omega) (by omega) _⟩

theorem execVmovVw_runs {small : Bool} {lane : Fin 4} (hl : small = true ∨ lane.val ≤ 1) (wd va : RegNo) :
    execVmovVw h small lane wd va s
      = .next (s.completes h ((s.hew h).setW wd (BitVec.ofNat 64 (laneOf ((s.hew h).getV va) (moveWidth small) lane))).next) :=
  congrArg Host.Outcome.next (State.run_flow (f := fun x => x.setW wd (BitVec.ofNat 64 (laneOf (x.getV va) _ _))) hr (badLane_none hl) rfl
    (Hewer.setW_flow _ _ _))

/-- A 64-bit lane above 1 does not exist (R313). -/
theorem State.run_badLane {p : Pre} {lane : Nat} (hl : 1 < lane) (hp : p.bad = badLane false lane) (body : State → Step) :
    s.run h p body = s.traps h 0x01 (BitVec.ofNat 64 p.word) := State.run_bad hr (hp.trans (badLane_some hl)) body

end

/-- Settles O21: the operations lane by lane, the moves by the field of the lane that they name. -/
theorem vectorIntegerAndLaneMoves : Obligations.VectorIntegerAndLaneMoves := by
  unfold Obligations.VectorIntegerAndLaneMoves
  intro h small lane vd va vb wd wa s hr
  have lanes (func : Nat) (op) : ∃ r : VWord, Host.Outcome.next (φ := Fault) (ρ := Refusal) (s.vecInt h func small vd va vb op)
      = .next (s.completes h ((s.hew h).setV vd r).next) ∧ _ :=
    (State.vecInt_runs hr func small vd va vb op).imp fun _ hr => ⟨congrArg _ hr.1, hr.2⟩
  refine ⟨lanes 0 _, ?_, lanes 2 _, lanes 3 _, lanes 4 _, fun hl => ⟨execVmovWv_runs hr hl vd wa, execVmovVw_runs hr hl wd va⟩, ?_⟩
  · obtain ⟨r, hexec, hlanes⟩ := lanes 1 (fun w a b => a + 2 ^ w - b)
    exact ⟨r, hexec, fun k hk => (hlanes k hk).trans (congrArg (fun n => (n - _) % _) (Nat.add_comm _ _))⟩
  · rintro rfl hl
    exact ⟨_, _, congrArg Host.Outcome.next (State.run_badLane hr hl rfl _), congrArg Host.Outcome.next (State.run_badLane hr hl rfl _)⟩

end Sys2Proof.Machine

/-!
PROOFS. Floating-point arithmetic, lane by lane, with the exceptions that it raises (R234, R236, R310, R311).
-/
namespace Sys2Proof.Machine

/-! ### Floating point: every lane, with the exceptions that it raises (R234, R236, R310, R311) -/

section
variable {s : State} {h : HewerId} (hr : s.Runs h)
include hr

/-- Where an exception that is raised is enabled, it is noted, and the instruction traps with the enabled ones as value. -/
theorem State.finish_fpTrap (p : Pre) {flags : Nat} (f : Hewer → Hewer) (hq : (s.hew h).psf 41 37 &&& flags ≠ 0) :
    s.finish h p (s.fpFlags h flags f)
      = (s.setHew h ((s.hew h).noted flags)).traps h 0x16 (BitVec.ofNat 64 ((s.hew h).psf 41 37 &&& flags)) := by
  have hsame : (s.setHew h ((s.hew h).noted flags)).hew h = (s.hew h).noted flags := State.hew_setHew_same _ _ _
  obtain ⟨hunit, hrep, -, hstep⟩ := Hewer.flow_parts ((Hewer.noted_flow (s.hew h) flags).trans hr.flow)
  have htrap : s.fpFlags h flags f = .exc (s.setHew h ((s.hew h).noted flags)) (mkExc 0x16 ((s.hew h).psf 41 37 &&& flags)) :=
    if_pos (bne_iff_ne.mpr hq)
  rw [htrap]
  exact State.finish_exc hr.sampling p _ (hr.noStep.setHew fun _ => hstep) (by rw [hsame, hunit]) (by rw [hsame, hrep])

/-- An instruction that ends in `fpLanes`: its lanes are written where no exception that it raises is enabled, and else it traps. -/
theorem State.fpLanes_ends {p : Pre} (hp : p.bad = none) (long : Bool) (vd : Nat) (f : FpForm) (op : Nat → FpRes) {body : State → Step}
    (hb : body s = s.fpLanes h vd f op) :
    let l := (List.range (laneCount f)).map op
    ((s.hew h).psf 41 37 &&& allFlags l = 0 → s.runAs h p long body
        = s.completes h (((s.hew h).noted (allFlags l)).setV vd (ofLanes (fmtOf f.single).width (l.map FpRes.bits))).next)
      ∧ ((s.hew h).psf 41 37 &&& allFlags l ≠ 0 → s.runAs h p long body
        = (s.setHew h ((s.hew h).noted (allFlags l))).traps h 0x16 (BitVec.ofNat 64 ((s.hew h).psf 41 37 &&& allFlags l))) := by
  intro l
  rw [State.runAs_runs s h p long body hr hp, hb]
  refine ⟨fun hq => ?_, fun hq => State.finish_fpTrap hr p _ hq⟩
  unfold State.fpLanes
  rw [State.fpFlags_quiet _ hr.canon hq]
  exact State.finish_flow p (fun y => (y.noted (allFlags l)).setV vd _) [] h.isLt hr ((Hewer.setV_flow _ _ _).trans (Hewer.noted_flow _ _))

end

/-! ### The sign of a number (R310) -/

theorem FpFmt.width_pos (m : FpFmt) : 0 < m.width := by
  cases m <;> decide

section
variable (m : FpFmt)

/-- An encoding as its sign bit and the rest. -/
theorem FpFmt.sign_split {v : Nat} (hv : v < 2 ^ m.width) : ∃ b r, r < 2 ^ (m.width - 1) ∧ v = 2 ^ (m.width - 1) * b2n b + r := by
  have htwo : 2 ^ m.width = 2 ^ (m.width - 1) + 2 ^ (m.width - 1) := by
    rw [← Nat.two_mul, ← Nat.pow_succ', Nat.succ_eq_add_one, Nat.sub_add_cancel m.width_pos]
  rw [htwo] at hv
  by_cases hs : v < 2 ^ (m.width - 1)
  · exact ⟨false, v, hs, by simp [b2n]⟩
  · exact ⟨true, v - 2 ^ (m.width - 1), by omega, by simp only [b2n, if_true]; omega⟩

/-- The bits of an encoding given by its parts. -/
theorem FpFmt.testBit_parts (b : Bool) {r : Nat} (hr : r < 2 ^ (m.width - 1)) (j : Nat) :
    (2 ^ (m.width - 1) * b2n b + r).testBit j = (if j = m.width - 1 then b else r.testBit j) := by
  rw [Nat.testBit_two_pow_mul_add _ hr]
  rcases lt_trichotomy j (m.width - 1) with hj | rfl | hj
  · rw [if_pos hj, if_neg hj.ne]
  · rw [if_neg (lt_irrefl _), if_pos rfl, Nat.sub_self]
    cases b <;> rfl
  · have hb : b2n b < 2 ^ (j - (m.width - 1)) :=
      lt_of_le_of_lt (by cases b <;> decide) (Nat.one_lt_two_pow (Nat.sub_ne_zero_of_lt hj))
    have hr' : r < 2 ^ j := hr.trans (Nat.pow_lt_pow_right (by decide) hj)
    rw [if_neg hj.not_gt, if_neg hj.ne', Nat.testBit_lt_two_pow hb, Nat.testBit_lt_two_pow hr']

/-- fneg inverts the sign bit. -/
theorem fpNeg_parts (b : Bool) {r : Nat} (hr : r < 2 ^ (m.width - 1)) :
    fpNeg m (2 ^ (m.width - 1) * b2n b + r) = 2 ^ (m.width - 1) * b2n (!b) + r := by
  unfold fpNeg
  rw [m.testBit_parts b hr, if_pos rfl]
  cases b
  · simp [b2n, Nat.add_comm]
  · simp [b2n]

theorem fpNeg_testBit {v : Nat} (hv : v < 2 ^ m.width) (j : Nat) : (fpNeg m v).testBit j = (v.testBit j != decide (j = m.width - 1)) := by
  obtain ⟨b, r, hr, rfl⟩ := m.sign_split hv
  rw [fpNeg_parts m b hr, m.testBit_parts _ hr, m.testBit_parts _ hr]
  split
  · next hj => rw [decide_eq_true hj, Bool.bne_true]
  · next hj => rw [decide_eq_false hj, Bool.bne_false]

/-- fabs clears the sign bit. -/
theorem fpAbs_testBit {v : Nat} (hv : v < 2 ^ m.width) (j : Nat) : (fpAbs m v).testBit j = (decide (j ≠ m.width - 1) && v.testBit j) := by
  obtain ⟨b, r, hr, rfl⟩ := m.sign_split hv
  rw [fpAbs, Nat.mul_add_mod, Nat.mod_eq_of_lt hr, m.testBit_parts _ hr]
  split
  · next hj => rw [hj, decide_eq_false (not_not.mpr rfl), Bool.false_and, Nat.testBit_lt_two_pow hr]
  · next hj => rw [decide_eq_true hj, Bool.true_and]

end

/-- Settles O19: each instruction ends in `fpLanes`; the signs by the two parts of an encoding. -/
theorem fpArithmeticLanes : Obligations.FpArithmeticLanes := by
  unfold Obligations.FpArithmeticLanes
  refine ⟨fun h f vd va vb vc s hr => ?_, fun m v j hv => ⟨fpAbs_testBit m hv j, fpNeg_testBit m hv j⟩⟩
  have lanes (p : Pre) (hp : p.bad = none) (long : Bool) (op : Nat → FpRes) (body : State → Step) (hb : body s = s.fpLanes h vd f op) :=
    (State.fpLanes_ends hr hp long vd f op hb).imp
      (fun quiet hq => congrArg (Host.Outcome.next (φ := Fault) (ρ := Refusal)) (quiet hq))
      (fun trap hq => congrArg (Host.Outcome.next (φ := Fault) (ρ := Refusal)) (trap hq))
  exact ⟨lanes _ rfl _ _ _ rfl, lanes _ rfl _ _ _ rfl, lanes _ rfl _ _ _ rfl, lanes _ rfl _ _ _ rfl, lanes _ rfl _ _ _ rfl,
    lanes _ rfl _ _ _ rfl, lanes _ rfl _ _ _ rfl, lanes _ rfl _ _ _ rfl, lanes _ rfl _ _ _ rfl, lanes _ rfl _ _ _ rfl,
    lanes _ rfl _ _ _ rfl, lanes _ rfl _ _ _ rfl, lanes _ rfl _ _ _ rfl⟩

end Sys2Proof.Machine

/-!
PROOFS. What the caches, translation and the event counters leave alone beside the hewers: everything that reads no cache, no counter
of events and no free value.
-/
namespace Sys2Proof.Machine

/-- `P` reads nothing that an access of hewer `h` to the caches or to a translation structure changes: no cache, no queue of the memory
controllers, of a twin its store buffer only, no counter of the events of `h`, and no count of free values. -/
structure OffCaches {β : Type} (h : Nat) (P : State → β) : Prop where
  mc : ∀ (s : State) m, P { s with mc := m } = P s
  twin : ∀ (s : State) t x, x.sbuf = (s.twin t).sbuf → P (s.setTwin t x) = P s
  counter : ∀ (s : State) f v, counterReg h f.addr = true → P (s.setFld f v) = P s
  free : ∀ (s : State) n, P { s with freeCtr := n } = P s

theorem State.hew_of_hewers {s t : State} (e : t.hewers = s.hewers) (k : Nat) : t.hew k = s.hew k :=
  congrArg (fun l => Table.get l Hewer.reset k) e

/-! ### Readings of the state that are so -/

theorem OffCaches.hewers (h : Nat) : OffCaches h State.hewers := ⟨fun _ _ => rfl, fun _ _ _ _ => rfl, fun _ _ _ _ => rfl, fun _ _ => rfl⟩
theorem OffCaches.hew (h k : Nat) : OffCaches h fun s => s.hew k := ⟨fun _ _ => rfl, fun _ _ _ _ => rfl, fun _ _ _ _ => rfl, fun _ _ => rfl⟩
theorem OffCaches.mem (h : Nat) : OffCaches h State.mem := ⟨fun _ _ => rfl, fun _ _ _ _ => rfl, fun _ _ _ _ => rfl, fun _ _ => rfl⟩
theorem OffCaches.drt (h : Nat) : OffCaches h State.drt := ⟨fun _ _ => rfl, fun _ _ _ _ => rfl, fun _ _ _ _ => rfl, fun _ _ => rfl⟩
theorem OffCaches.lode (h : Nat) : OffCaches h State.lode := ⟨fun _ _ => rfl, fun _ _ _ _ => rfl, fun _ _ _ _ => rfl, fun _ _ => rfl⟩

theorem OffCaches.reg {h a : Nat} (ha : counterReg h a = false) : OffCaches h (fun s => s.reg a) where
  mc _ _ := rfl
  twin _ _ _ _ := rfl
  counter s f v hf := State.setFld_reg_other s f v fun e => by rw [e, hf] at ha; cases ha
  free _ _ := rfl

/-- The store buffers of every twin. -/
def State.sbufs (s : State) : Nat → List StoreEntry := fun k => (s.twin k).sbuf

theorem State.setTwin_sbufs (s : State) (t : Nat) {x : Twin} (hx : x.sbuf = (s.twin t).sbuf) : (s.setTwin t x).sbufs = s.sbufs := by
  funext k
  unfold State.sbufs State.setTwin State.twin
  by_cases hk : k = t
  · subst hk
    rw [Table.get_set_same, hx]
    rfl
  · rw [Table.get_set_other _ _ _ _ hk]

theorem OffCaches.sbufs (h : Nat) : OffCaches h State.sbufs :=
  ⟨fun _ _ => rfl, fun s t _ hx => s.setTwin_sbufs t hx, fun _ _ _ _ => rfl, fun _ _ => rfl⟩

/-- Both branches read the same. -/
theorem reading_ite {β : Type} {P : State → β} (s : State) (c : Prop) [Decidable c] {t u : State} (ht : P t = P s) (hu : P u = P s) :
    P (if c then t else u) = P s := by
  split
  · exact ht
  · exact hu

namespace OffCaches

variable {β : Type} {h : Nat} {P : State → β} (hP : OffCaches h P) (s : State)
include hP

theorem modTwin (t : Nat) {f : Twin → Twin} (hf : ∀ x, (f x).sbuf = x.sbuf) : P (s.modTwin t f) = P s := hP.twin s t _ (hf _)

/-! ### The caches below the hewers -/

theorem reqPut (line src : Nat) (write : Bool) : P (s.reqPut line src write) = P s := by
  unfold State.reqPut
  exact reading_ite s _ rfl (hP.mc s _)

theorem mscUse (line src : Nat) (write whole : Bool) : P (s.mscUse line src write whole) = P s := by
  have hput (l : List (Nat × Bool)) (u : State) : P (l.foldl (fun t e => t.reqPut e.1 srcDevice true) u) = P u :=
    foldl_leaves P _ (fun t (e : Nat × Bool) => hP.reqPut t e.1 srcDevice true) l u
  unfold State.mscUse
  split
  · rfl
  · split
    · exact hP.reqPut s line src write
    · dsimp only
      split
      · exact hP.mc s _
      · exact (hP.mc _ _).trans ((hput _ _).trans (reading_ite s _ rfl (hP.reqPut s _ _ _)))

theorem galleryDrop (g line : Nat) (keep : Option Nat) : P (s.galleryDrop g line keep) = P s :=
  foldl_leaves P _ (fun t i => hP.modTwin t i fun _ => by rfl) _ s

theorem galleryClean (g line : Nat) (keep : Option Nat) : P (s.galleryClean g line keep) = P s :=
  foldl_leaves P _ (fun t i => hP.modTwin t i fun _ => by rfl) _ s

theorem l2Mod (g line : Nat) (f : L2Line → L2Line) : P (s.l2Mod g line f) = P s := hP.mc s _

theorem l2WriteBack (g line src : Nat) : P (s.l2WriteBack g line src) = P s := by
  have hclean := (hP.l2Mod (s.galleryClean g line none) g line fun e => { e with dirty := false }).trans (hP.galleryClean s g line none)
  unfold State.l2WriteBack
  exact reading_ite s _ ((hP.mscUse _ _ _ _ _).trans hclean) hclean

theorem l2Drop (g line src : Nat) (keepTag : Bool) : P (s.l2Drop g line src keepTag) = P s := by
  unfold State.l2Drop
  exact (hP.mc _ _).trans ((hP.mc _ _).trans ((hP.galleryDrop _ _ _ _).trans (hP.l2WriteBack s g line src)))

theorem invalidateLine (line src : Nat) (keep : Option Nat) : P (s.invalidateLine line src keep) = P s :=
  foldl_leaves P _ (fun t g => hP.l2Drop t g line src true) _ s

theorem shareLine (line src : Nat) : P (s.shareLine line src) = P s :=
  (hP.mc _ _).trans (foldl_leaves P _ (fun t g => hP.l2WriteBack t g line src) _ s)

theorem l2Place (g line w src : Nat) : P (s.l2Place g line w src) = P s := by
  unfold State.l2Place
  refine (hP.mc _ _).trans ?_
  split
  · exact hP.l2Drop s _ _ _ _
  · rfl

theorem l2Get (g line cls src : Nat) (write : Bool) : P (s.l2Get g line cls src write).1 = P s := by
  unfold State.l2Get
  dsimp only
  split
  · split
    · exact (hP.mc _ _).trans ((hP.invalidateLine _ _ _ _).trans (hP.mc s _))
    · exact hP.mc s _
  · have hasked (t : State) (ht : P t = P s) (c : Prop) [Decidable c] : P (if c then t.mscUse line src false false else t) = P s :=
      reading_ite s c ((hP.mscUse t _ _ _ _).trans ht) ht
    have hfound : P (if write then s.invalidateLine line src none else if (s.dirOf line).present = 0 then s else s.shareLine line src) = P s :=
      reading_ite s _ (hP.invalidateLine s _ _ _) (reading_ite s _ rfl (hP.shareLine s _ _))
    have hread := hasked _ hfound ((s.dirOf line).present = 0)
    split
    · exact (hP.mc _ _).trans ((hP.l2Place _ _ _ _ _).trans hread)
    · split
      · exact (hP.mc _ _).trans ((hP.l2Place _ _ _ _ _).trans hread)
      · exact reading_ite s _ ((hP.mscUse _ _ _ _ _).trans hread) hread

theorem hubUse (line src : Nat) (write : Bool) : P (s.hubUse line src write) = P s :=
  (hP.mscUse _ _ _ _ _).trans (reading_ite s _ (hP.invalidateLine s _ _ _) (reading_ite s _ rfl (hP.shareLine s _ _)))

/-! ### Events (R796, R797, R801) -/

theorem noteEvent (k e : Nat) : P (s.noteEvent k e) = P s := by
  unfold State.noteEvent
  exact reading_ite s _ (hP.modTwin s _ fun _ => rfl) rfl

theorem addCount (k : Nat) {n : Nat} (hn : n < 8) : P (s.addCount h n k) = P s := by
  have hctr : counterReg h (Adr.TLY_HWR_CTR h n) = true := by
    unfold counterReg
    rw [List.any_eq_true.mpr ⟨n, List.mem_range.mpr hn, decide_eq_true rfl⟩, Bool.or_true]
  have hstat : counterReg h (Adr.TLY_HWR_STAT h) = true := by
    unfold counterReg
    rw [decide_eq_true rfl, Bool.true_or]
  have hc (v : Nat) : P (s.setFld (F.TLY_HWR_CTR.COUNT h n) v) = P s := hP.counter s _ v hctr
  unfold State.addCount
  exact reading_ite s _ (hc _) ((hP.counter _ _ _ hstat).trans (hc _))

theorem tallyFrom (e k m n : Nat) (hm : n + m ≤ 8) : P (s.tallyFrom h e k m n) = P s := by
  induction m generalizing s n with
  | zero => rfl
  | succ j ih =>
    rw [State.tallyFrom, ih _ _ (by omega)]
    exact reading_ite s _ (hP.addCount s k (by omega)) rfl

theorem tally (e : Nat) : P (s.tally h e) = P s := (hP.tallyFrom _ e 1 8 0 (by decide)).trans (hP.noteEvent s h e)

/-! ### The accesses of a hewer (R343, R371, R472 to R479) -/

theorem l2Request (line ca cls : Nat) (write : Bool) : P (s.l2Request h line ca cls write).1 = P s := by
  have hget := hP.l2Get s (h / 8) line cls h write
  unfold State.l2Request
  split
  · exact hP.hubUse s line h write
  · dsimp only
    split
    · exact hget
    · exact (hP.tally _ _).trans ((hP.tally _ _).trans hget)
    · exact (hP.tally _ _).trans hget
    · exact (hP.tally _ _).trans hget

theorem l1iUse (pa ca cls : Nat) (wrong : Bool) : P (s.l1iUse h pa ca cls wrong) = P s := by
  unfold State.l1iUse
  exact reading_ite s _ (hP.modTwin s _ fun _ => by rfl) ((hP.modTwin _ _ fun _ => by rfl).trans ((hP.l2Request _ _ _ _ _).trans (hP.tally s _)))

theorem l1dOthers (g tn line : Nat) (write : Bool) : P (s.l1dOthers g tn line write) = P s := by
  have hdirty : P (if s.galleryDirty g line (some tn) then s.l2Mod g line (fun e => { e with dirty := true }) else s) = P s :=
    reading_ite s _ (hP.l2Mod s _ _ _) rfl
  unfold State.l1dOthers
  exact reading_ite s _ ((hP.galleryDrop _ _ _ _).trans hdirty) ((hP.galleryClean _ _ _ _).trans hdirty)

theorem l1dFill (g tn line : Nat) (dirty : Bool) : P (s.l1dFill g tn line dirty) = P s := by
  unfold State.l1dFill
  refine (hP.modTwin _ _ fun _ => by rfl).trans (foldl_leaves P _ (fun t e => ?_) _ s)
  exact reading_ite t _ (hP.l2Mod t _ _ _) rfl

theorem ownLine (line : Nat) : P (s.ownLine h line) = P s := (hP.mc _ _).trans (hP.invalidateLine s line h _)

theorem dataLine (line ca cls : Nat) (write : Bool) : P (s.dataLine h line ca cls write).1 = P s := by
  unfold State.dataLine
  dsimp only
  split
  · exact (hP.l1dFill _ _ _ _ _).trans ((hP.l1dOthers _ _ _ _ _).trans (reading_ite s _ (hP.ownLine s line) rfl))
  · have hcounted : P (if caHub ≤ ca then s else if write then s.tallyFrom h 0x00B 1 8 0 else s.tally h 0x00B) = P s :=
      reading_ite s _ rfl (reading_ite s _ (hP.tallyFrom s 0x00B 1 8 0 (by decide)) (hP.tally s _))
    have hasked := (hP.l2Request _ line ca cls write).trans hcounted
    generalize (if caHub ≤ ca then s else if write then s.tallyFrom h 0x00B 1 8 0 else s.tally h 0x00B).l2Request h line ca cls write = r
      at hasked ⊢
    have hothers : P (if r.2 then r.1.l1dOthers (h / 8) (s.twinOf h) line write else r.1) = P s :=
      reading_ite s _ ((hP.l1dOthers _ _ _ _ _).trans hasked) hasked
    split
    · exact (hP.l1dFill _ _ _ _ _).trans hothers
    · split
      · exact (hP.l2Mod _ _ _ _).trans hothers
      · exact hothers

/-! ### Translation (R401 to R413) -/

theorem fetched (wrong : Bool) : P (if wrong then s.tally h 0x009 else s) = P s := reading_ite s _ (hP.tally s _) rfl

theorem walkRead (pa : Nat) : P (s.walkRead h pa) = P s := hP.l2Request s (pa / 64) 1 0 false

theorem walk (fetch wrong : Bool) (asid va missCode level table : Nat) : P (s.walk h fetch wrong asid va missCode level table).1 = P s := by
  induction level generalizing s table with
  | zero => rfl
  | succ lv ih =>
    unfold State.walk
    dsimp only
    generalize table + bitsOf va (levelBit (lv + 1) + 8) (levelBit (lv + 1)) * 8 = at_
    have hread := (hP.walkRead (if wrong then s.tally h 0x009 else s) at_).trans (hP.fetched s wrong)
    generalize (if wrong then s.tally h 0x009 else s).walkRead h at_ = u at *
    split
    · rfl
    · split
      · rfl
      · split
        · exact hread
        · split
          · exact hread
          · split
            · exact hread
            · exact (ih _ _).trans ((hP.modTwin u _ fun _ => by rfl).trans hread)

theorem walkFrom (fetch wrong : Bool) (asid va missCode root : Nat) : P (s.walkFrom h fetch wrong asid va missCode root).1 = P s := by
  have hused (l : List TlbEntry) (level table : Nat) :
      P ((s.modTwin (s.twinOf h) (fun t => { t with wcache := l })).walk h fetch wrong asid va missCode level table).1 = P s :=
    (hP.walk _ fetch wrong asid va missCode level table).trans (hP.modTwin s _ fun _ => by rfl)
  unfold State.walkFrom
  dsimp only
  split
  · exact hused _ _ _
  · split
    · exact hused _ _ _
    · split
      · exact hused _ _ _
      · exact hP.walk s fetch wrong asid va missCode 4 _

omit hP in
theorem fillL1_sbuf (t : Twin) (e : TlbEntry) (va : Nat) : (t.fillL1 e va).sbuf = t.sbuf := by
  unfold Twin.fillL1
  dsimp only
  split <;> rfl

theorem walkFill (k : AccKind) (wrong : Bool) (asid va root : Nat) (onlyL1 : Bool) : P (s.walkFill h k wrong asid va root onlyL1).1 = P s := by
  have hwalk := (hP.walkFrom (s.tally h 0x00E) k.isFetch wrong asid va k.missCode root).trans (hP.tally s 0x00E)
  unfold State.walkFill
  dsimp only
  generalize (s.tally h 0x00E).walkFrom h k.isFetch wrong asid va k.missCode root = r at *
  split
  · exact hwalk
  · split
    · exact hwalk
    · dsimp only
      refine (hP.modTwin _ _ fun t => ?_).trans ((hP.fetched r.1 wrong).trans hwalk)
      split
      · exact fillL1_sbuf t _ _
      · exact (fillL1_sbuf _ _ _).trans rfl

theorem tlbFind (fetch wrong : Bool) (asid va : Nat) : P (s.tlbFind h fetch wrong asid va).1 = P s := by
  have huse (x : Twin) (hx : x.sbuf = (s.twin (s.twinOf h)).sbuf) :
      P ((if wrong then (s.tally h 0x00D).tally h 0x009 else s.tally h 0x00D).setTwin (s.twinOf h) x) = P s := by
    have hbuf := ((OffCaches.sbufs h).fetched (s.tally h 0x00D) wrong).trans ((OffCaches.sbufs h).tally s 0x00D)
    exact (hP.twin _ _ _ (hx.trans (congrFun hbuf (s.twinOf h)).symm)).trans ((hP.fetched _ wrong).trans (hP.tally s _))
  unfold State.tlbFind
  dsimp only
  split
  · refine hP.twin s _ _ ?_
    split <;> rfl
  · split
    · exact huse _ (fillL1_sbuf _ _ _)
    · split
      · exact huse _ (fillL1_sbuf _ _ _)
      · split
        · exact huse _ (fillL1_sbuf _ _ _)
        · exact hP.tally s _

theorem full (k : AccKind) (wrong : Bool) (va : Nat) : P (s.full h k wrong va).1 = P s := by
  unfold State.full
  dsimp only
  split
  · rfl
  · split
    · exact hP.tlbFind s _ _ _ _
    · exact (hP.walkFill _ _ _ _ _ _ _).trans (hP.tlbFind s _ _ _ _)

/-! ### The wrong path and the end of a prediction (R354 to R367) -/

theorem wrongLeaf (va : Nat) : P (s.wrongLeaf h va).1 = P s := by
  unfold State.wrongLeaf
  dsimp only
  split
  · next hb => exact congrArg P (s.translate_banked h hb _ _ _ _)
  · split
    · split
      · split <;> rfl
      · rfl
    · have hfull := hP.full s .fetch true va
      split
      · split <;> exact hfull
      · exact hfull

theorem wrongFetch (cls n va : Nat) : P (s.wrongFetch h cls n va) = P s := by
  induction n generalizing s va with
  | zero => rfl
  | succ k ih =>
    have hleaf := hP.wrongLeaf s va
    unfold State.wrongFetch
    dsimp only
    split
    · exact hleaf
    · split
      · exact (ih _ _).trans ((hP.l1iUse _ _ _ _ _).trans hleaf)
      · exact hleaf

theorem wrongPath (w : Option Nat) : P (s.wrongPath h w) = P s := by
  unfold State.wrongPath
  split
  · rfl
  · exact (hP.wrongFetch _ _ _ _).trans (hP.free s _)

theorem resolved (r : Prediction) : P (s.resolved h r) = P s := by
  have hpred := hP.modTwin s (s.twinOf h) (f := fun x => { x with pred := r.pred }) fun _ => rfl
  have hcounted := (hP.tally _ 0x006).trans hpred
  unfold State.resolved
  dsimp only
  generalize (s.modTwin (s.twinOf h) (fun x => { x with pred := r.pred })).tally h 0x006 = t at hcounted ⊢
  have hcorrect : P (if r.correct then t else t.tally h 0x007) = P s := reading_ite s _ hcounted ((hP.tally t _).trans hcounted)
  exact (hP.wrongPath _ _).trans (reading_ite s _ ((hP.tally _ _).trans hcorrect) hcorrect)

/-! ### The stride prefetcher (R354, R370, R499) -/

theorem prefetchLine (pa cls : Nat) : P (s.prefetchLine h pa cls) = P s := by
  have hdraw : P (s.tally h 0x00F).draw.2 = P s := (hP.free _ _).trans (hP.tally s _)
  have hasked := (hP.l2Request _ (pa / 64) 0 cls false).trans hdraw
  unfold State.prefetchLine
  refine reading_ite s _ ((hP.tally _ _).trans hdraw) (reading_ite s _ ((hP.tally _ _).trans hasked) (reading_ite s _ ?_ hasked))
  exact (hP.l1dFill _ _ _ _ _).trans ((hP.l1dOthers _ _ _ _ _).trans hasked)

theorem missNoted (ea pa cls : Nat) : P (s.missNoted h ea pa cls) = P s := by
  have hnoted (l) : P (s.modTwin (s.twinOf h) (fun x => { x with pred := { (s.twin (s.twinOf h)).pred with stride := l } })) = P s :=
    hP.modTwin s _ fun _ => rfl
  unfold State.missNoted
  have hone (c : Prop) [Decidable c] (t : State) (ht : P t = P s) (a : Nat) : P (if c then t.prefetchLine h a cls else t) = P s :=
    reading_ite s c ((hP.prefetchLine t a cls).trans ht) ht
  exact hone _ _ (hone _ _ (hnoted _) _) _

theorem noteMiss (ea : Nat) (l : List Piece) : P (s.noteMiss h ea l) = P s := by
  unfold State.noteMiss
  split
  · exact reading_ite s _ (hP.missNoted s _ _ _) rfl
  · rfl

end OffCaches

/-! ### The store buffers while stores are performed (R343) -/

section
variable (s : State) (h : Nat)

theorem State.sbPerform_sbufs (e : StoreEntry) : (s.sbPerform h e).sbufs = s.sbufs := by
  obtain ⟨b, hb⟩ := State.rawWrite_rest (s.linesTaken h e) e.pa e.data
  have htaken : (s.linesTaken h e).sbufs = s.sbufs :=
    foldl_leaves State.sbufs _ (fun t k => (OffCaches.sbufs h).dataLine t k e.ca e.cls true) _ s
  rw [State.sbPerform_eq, hb]
  exact htaken

theorem State.performed_sbufs (l : List StoreEntry) : (s.performed h l).sbufs = s.sbufs :=
  foldl_leaves State.sbufs _ (fun t e => t.sbPerform_sbufs h e) l s

theorem State.sbDrain_twinOf (n : Nat) : (s.sbDrain h n).twinOf h = s.twinOf h :=
  State.twinOf_of_reg (s.sbDrain_reg h n (galMap_not_counter h))

/-- The stores that leave the buffer are its oldest. -/
theorem State.sbDrain_buffered (n : Nat) : (s.sbDrain h n).buffered h = (s.buffered h).drop n := by
  have hrest : (s.sbRest h n).twin (s.twinOf h) = { s.twin (s.twinOf h) with sbuf := (s.buffered h).drop n } := Table.get_set_same _ _ _ _
  have hdrained := congrFun ((s.sbRest h n).performed_sbufs h ((s.buffered h).take n)) (s.twinOf h)
  unfold State.sbufs at hdrained
  rw [← State.sbDrain_eq, hrest] at hdrained
  show ((s.sbDrain h n).twin ((s.sbDrain h n).twinOf h)).sbuf = _
  rw [State.sbDrain_twinOf, hdrained]

end

end Sys2Proof.Machine

/-!
PROOFS. The fences, `sync`, `ifence`, `cdtsync` and the invalidations (R317 to R321, R426 to R429).
-/
namespace Sys2Proof.Machine

section
variable {s t : State} {h : Nat}

/-! ### The end of an instruction in the state that its effect leaves -/

/-- An instruction whose effect leaves nothing in the way of its end completes there. -/
theorem State.finish_ends (hr : s.Runs h) (hh : h < 512) (p : Pre) (items : List CmpItem) (ht : t.Ends h) :
    s.finish h p (.ok t items) = t.completes h (t.hew h).next :=
  State.finish_ok s t h p items hh hr.sampling ht.canon ht.watch ht.unit ht.rep ht.ctl ht.stepping

/-- A change of state that leaves the flow of the hewer and the enabled comparators. -/
theorem State.Ends.keeps (hs : s.Ends h) (hc : t.Canonical) (hw : ∀ c, c < 8 → t.reg (Adr.DBG_HWR_CMP_CTL h c) = s.reg (Adr.DBG_HWR_CMP_CTL h c))
    (hf : (t.hew h).flow = (s.hew h).flow) : t.Ends h := by
  obtain ⟨hu, hrep, hctl, hst⟩ := Hewer.flow_parts (hf.trans hs.flow)
  refine ⟨hc, fun c h8 => ?_, hu, hrep, hctl, hst⟩
  have hoff := hs.watch c h8
  unfold State.flag State.fld at hoff ⊢
  rw [show t.reg (F.DBG_HWR_CMP_CTL.EN h c).addr = s.reg (F.DBG_HWR_CMP_CTL.EN h c).addr from hw c h8]
  exact hoff

theorem State.Ends.keeps_regs (hs : s.Ends h) (hc : t.Canonical) (hw : t.regs = s.regs) (hf : (t.hew h).flow = (s.hew h).flow) : t.Ends h :=
  hs.keeps hc (fun _ _ => State.reg_of_regs hw _) hf

theorem State.Runs.ends (hr : s.Runs h) : s.Ends h := ⟨hr.canon, hr.watch, hr.unit, hr.rep, hr.ctl, hr.stepping⟩

/-- The effect may change the hewer last. -/
theorem State.Ends.setHew (hs : s.Ends h) {x : Hewer} (hx : x.flow = (s.hew h).flow) : (s.setHew h x).Ends h :=
  hs.keeps_regs (s.setHew_canonical h x hs.canon) rfl (by rw [State.hew_setHew_same, hx])

theorem State.completes_setHew (hc : s.Canonical) (x y : Hewer) : (s.setHew h x).completes h y = s.completes h y := by
  unfold State.completes
  rw [State.setHew_setHew _ _ _ _ hc]

/-- An instruction whose effect ends with the hewer left as `x` completes in the state before that. -/
theorem State.finish_setHew (hr : s.Runs h) (hh : h < 512) (p : Pre) (items : List CmpItem) (ht : t.Ends h) {x : Hewer}
    (hx : x.flow = (t.hew h).flow) : s.finish h p (.ok (t.setHew h x) items) = t.completes h x.next := by
  rw [State.finish_ends hr hh p items (ht.setHew hx), State.hew_setHew_same, State.completes_setHew ht.canon]

/-! ### A word that the hewer may not execute -/

/-- A word that is illegal or not allowed traps, also where it names a long operation. -/
theorem State.runLong_bad {p : Pre} {code : Nat} (hr : s.Runs h) (hp : p.bad = some code) (body : State → Step) :
    s.runLong h p body = s.traps h code (BitVec.ofNat 64 p.word) := by
  obtain ⟨l, hf⟩ := hr.fetch
  have hissue : s.issue h p true = .stop (s.finish h p (.exc s (mkExc code p.word))) := by
    unfold State.issue
    simp only [hr.can, hr.quiet, Hewer.entryWaits_none _ hr.missed, Bool.not_true, Bool.or_self, Bool.false_eq_true, if_false,
      Hewer.settle_none _ p true hr.missed, State.setHew_hew s h hr.canon, hf, State.cmpPoint_off s h _ hr.canon hr.watch, hp]
  unfold State.runLong State.runAs
  rw [hissue]
  exact State.finish_exc hr.sampling p _ hr.noStep hr.unit hr.rep

theorem State.privileged_below (hp : (s.hew h).pl = 0) : s.privileged h = some 0x02 := if_pos hp

theorem State.privileged_allowed (hp : (s.hew h).pl ≠ 0) : s.privileged h = none := if_neg hp

/-! ### The hewer and its twin after the stores, the refetch and the decode table -/

/-- The buffered stores are performed and L1 I is empty (R320, R348). -/
def State.refetched (s : State) (h : Nat) : State := (s.sbFlush h).l1iDrop h

theorem State.sbFlush_hew (hc : s.Canonical) : (s.sbFlush h).hew h = s.hew h := State.sbDrain_hew_self hc h 8

theorem State.refetched_hew (hc : s.Canonical) : (s.refetched h).hew h = s.hew h :=
  (State.hew_of_hewers (State.modTwin_hewers _ _ _) h).trans (State.sbFlush_hew hc)

theorem State.Runs.refetched_ends (hr : s.Runs h) (hh : h < 512) : (s.refetched h).Ends h :=
  (hr.sbFlush_ends hh).keeps_regs ((State.sbDrain_canonical hr.canon h 8).of_kept fun hk => State.l1iDrop_kept _ h hk) rfl
    (congrArg Hewer.flow (State.hew_of_hewers (State.modTwin_hewers _ _ _) h))

theorem State.refetched_l1i (s : State) (h : Nat) : ((s.refetched h).twin ((s.refetched h).twinOf h)).l1i = [] :=
  congrArg Twin.l1i (Table.get_set_same _ _ _ _)

/-- `cdtsync` reaches the end of the writes accepted so far (R321). -/
theorem State.cdtReach_seen (s : State) (h : Nat) (hseen : (s.twin (s.twinOf h)).cdtSeen ≤ s.cdt.inFlight.length) :
    ((s.cdtReach h).twin (s.twinOf h)).cdtSeen = s.cdt.inFlight.length := by
  have htwin : (s.cdtReach h).twin (s.twinOf h) = (s.twin (s.twinOf h)).cdtAdvance s.cdt.inFlight s.cdt.inFlight.length :=
    Table.get_set_same _ _ _ _
  rw [htwin]
  simp only [Twin.cdtAdvance, List.length_take, List.length_drop]
  omega

/-- With no distance open, bringing control state into force reaches the decode table and no more. -/
theorem State.ctlInForce_hew (hc : (s.hew h).ctl = []) : (s.ctlInForce h).hew h = { s.hew h with cdtOld := [], micro := none } := by
  unfold State.ctlInForce
  simp only [hc, List.any_nil, Bool.false_eq_true, if_false]
  rw [State.cdtReach_hew_same, State.modHew, State.hew_setHew_same]

theorem State.ctlInForce_regs (hc : (s.hew h).ctl = []) : (s.ctlInForce h).regs = s.regs := by
  unfold State.ctlInForce
  simp only [hc, List.any_nil, Bool.false_eq_true, if_false]
  rw [State.cdtReach_regs, State.modHew_regs]

end

/-- A completion forgets the host data and the microcode in hand. -/
theorem Hewer.next_hand (x : Hewer) (l : List HostPart) (m : Option Micro) : ({ x with hostBuf := l, micro := m } : Hewer).next = x.next := by
  have hpl : ({ x with hostBuf := l, micro := m } : Hewer).pl = x.pl := rfl
  unfold Hewer.next Hewer.done Hewer.endWindow
  rw [hpl]
  by_cases h3 : x.pl = 3
  · rw [if_pos h3, if_pos h3]
  · rw [if_neg h3, if_neg h3]
    by_cases h1 : x.pl = 1
    · rw [if_pos h1, if_pos h1]
    · rw [if_neg h1, if_neg h1]

section
variable {s : State} {h : HewerId} (hr : s.Runs h)
include hr

/-! ### The instructions (R317 to R321) -/

/-- `fence.w` and `fence.rw` perform the buffered stores. -/
theorem State.runLong_drains {p : Pre} (hp : p.bad = none) :
    s.runLong h p (fun t => .ok (t.sbFlush h) []) = (s.sbFlush h).completes h (s.hew h).next := by
  rw [State.runLong_runs s h p _ hr hp, State.finish_ends hr h.isLt p _ (hr.sbFlush_ends h.isLt), State.sbFlush_hew hr.canon]

theorem State.refetch_runs {bad : Option Nat} (hb : bad = none) (sel : Nat) (f : State → Step) :
    s.refetch h sel bad f = s.finish h (preSys sel bad) (f (s.refetched h)) := State.runLong_runs s h _ _ hr hb

theorem execIfence_runs : execIfence h s = .next ((s.refetched h).completes h (s.hew h).next) := by
  unfold execIfence
  rw [State.refetch_runs hr rfl, State.finish_ends hr h.isLt _ _ (hr.refetched_ends h.isLt), State.refetched_hew hr.canon]
  rfl

/-- `sync` with no xinv outstanding brings control state into force. -/
theorem execSync_completes (hp : (s.hew h).pl ≠ 0) (hx : (s.hew h).xinv = []) :
    execSync h s = .next (((s.refetched h).ctlInForce h).completes h { s.hew h with cdtOld := [] }.next) := by
  have hhew := State.refetched_hew (h := h) hr.canon
  have hctl : ((s.refetched h).hew h).ctl = [] := by rw [hhew, hr.ctl]
  have hforce := State.ctlInForce_hew hctl
  have hends : ((s.refetched h).ctlInForce h).Ends h :=
    (hr.refetched_ends h.isLt).keeps_regs ((hr.refetched_ends h.isLt).canon.of_kept fun hk => State.ctlInForce_kept _ h hk)
      (State.ctlInForce_regs hctl) (by rw [hforce]; rfl)
  have hempty : ((s.refetched h).hew h).xinv.isEmpty = true := by rw [hhew, hx]; rfl
  unfold execSync
  rw [State.refetch_runs hr (State.privileged_allowed hp), if_pos hempty, State.finish_ends hr h.isLt _ _ hends, hforce, hhew]
  exact congrArg (fun x => Host.Outcome.next (((s.refetched h).ctlInForce h).completes h x))
    (Hewer.next_hand { s.hew h with cdtOld := [] } (s.hew h).hostBuf none)

/-- `sync` waits for an outstanding xinv. -/
theorem execSync_waits (hp : (s.hew h).pl ≠ 0) (hx : (s.hew h).xinv ≠ []) : execSync h s = .next (s.refetched h) := by
  have hsome : ((s.refetched h).hew h).xinv.isEmpty = false := by
    rw [State.refetched_hew hr.canon]
    exact List.isEmpty_eq_false_iff.mpr hx
  unfold execSync
  rw [State.refetch_runs hr (State.privileged_allowed hp), hsome]
  rfl

theorem execCdtsync_runs : execCdtsync h s = .next (((s.refetched h).cdtReach h).completes h { s.hew h with cdtOld := [] }.next) := by
  have hhew := State.refetched_hew (h := h) hr.canon
  have hreach : ((s.refetched h).cdtReach h).hew h = { s.hew h with cdtOld := [], micro := none } := by
    rw [State.cdtReach_hew_same, hhew]
  have hends : ((s.refetched h).cdtReach h).Ends h :=
    (hr.refetched_ends h.isLt).keeps_regs ((hr.refetched_ends h.isLt).canon.of_kept fun hk => State.cdtReach_kept _ h hk)
      (State.cdtReach_regs _ _) (by rw [hreach, hhew]; rfl)
  have hctl : (((s.refetched h).cdtReach h).hew h).ctl = [] := by rw [hreach]; exact hr.ctl
  unfold execCdtsync
  rw [State.refetch_runs hr rfl, State.modHew, hctl, List.filter_nil, ← hctl, State.finish_setHew hr h.isLt _ _ hends rfl, hreach]
  exact congrArg (fun x => Host.Outcome.next (((s.refetched h).cdtReach h).completes h x))
    (Hewer.next_hand { s.hew h with cdtOld := [] } (s.hew h).hostBuf none)

/-- An xinv performs the buffered stores and queues its operation for every twin of its scope. -/
theorem State.run_xinv {p : Pre} (hp : p.bad = none) (scope : XScope) (va asid : Option Nat) {body : State → Step}
    (hb : body s = s.xinvStep h scope va asid) : s.run h p body = (s.sbFlush h).completes h
      { s.hew h with xinv := (s.hew h).xinv ++ (s.scopeTwins h scope).map (fun t => (⟨t, va, asid⟩ : XinvOp)) }.next := by
  rw [State.run_runs s h p body hr hp, hb, State.xinvStep, State.modHew, State.sbFlush_hew hr.canon]
  exact State.finish_setHew hr h.isLt p _ (hr.sbFlush_ends h.isLt) (congrArg Hewer.flow (State.sbFlush_hew hr.canon)).symm

end

/-! ### XINV_COMPLETE (R429) -/

/-- The oldest operation for a twin is the first that names it. -/
theorem takeXinv_first {twin : Nat} {o : XinvOp} (ho : o.twin = twin) (pre post : List XinvOp) (hpre : ∀ p ∈ pre, p.twin ≠ twin) :
    takeXinv (pre ++ o :: post) twin = some (o, pre ++ post) := by
  induction pre with
  | nil => exact if_pos ho
  | cons q rest ih =>
    have hrest := ih fun p hp => hpre p (List.mem_cons_of_mem _ hp)
    have hq : q.twin ≠ twin := hpre q List.mem_cons_self
    rw [List.cons_append, takeXinv, if_neg hq, hrest]
    rfl

theorem execXinvComplete_taken {h : HewerId} {twin : Fin 576} {s : State} {o : XinvOp} {rest : List XinvOp} (hpll : s.pwr.pllLocked = true)
    (ht : takeXinv (s.hew h).xinv twin = some (o, rest)) : execXinvComplete h twin s
      = .next (if (s.pendingVia twin).any (fun v => v.any (fun e => e.removedBy o.va o.asid)) then s
        else (s.setHew h { s.hew h with xinv := rest }).setTwin twin ((s.twin twin).invalidate o.va o.asid)) := by
  unfold execXinvComplete
  rw [hpll, ht]
  rfl

/-- Settles O23: each instruction by the state in which it completes; an xinv's end by the oldest operation for the twin. -/
theorem synchronisationAndInvalidation : Obligations.SynchronisationAndInvalidation := by
  unfold Obligations.SynchronisationAndInvalidation
  refine ⟨fun h scope rd ra s hr => ?_, fun h twin s pre post o hpll hx ho hpre => ?_⟩
  · have xinv {p : Pre} (hp : p.bad = none) (va asid : Option Nat) {body : State → Step} (hb : body s = s.xinvStep h scope va asid) :=
      congrArg (Host.Outcome.next (φ := Fault) (ρ := Refusal)) (State.run_xinv hr hp scope va asid hb)
    have denied {p : Pre} (hp : p.bad = some 0x02) (body) :=
      congrArg (Host.Outcome.next (φ := Fault) (ρ := Refusal)) (State.run_bad hr hp body)
    refine ⟨?_, congrArg Host.Outcome.next (State.runLong_drains hr rfl), congrArg Host.Outcome.next (State.runLong_drains hr rfl),
      execIfence_runs hr, execSync_completes hr, execSync_waits hr, fun hp => ?_, execCdtsync_runs hr,
      fun hp => xinv (State.privileged_allowed hp) _ _ rfl, fun hp => xinv (State.privileged_allowed hp) _ _ rfl,
      fun hp => xinv (State.privileged_allowed hp) _ _ rfl,
      fun hp => ⟨denied (State.privileged_below hp) _, denied (State.privileged_below hp) _, denied (State.privileged_below hp) _⟩,
      s.sbDrain_buffered h 8, s.refetched_l1i h, s.cdtReach_seen h⟩
    · refine congrArg Host.Outcome.next ((State.runLong_runs s h _ _ hr rfl).trans ?_)
      exact State.finish_ends hr h.isLt _ _ hr.ends
    · exact congrArg Host.Outcome.next (State.runLong_bad hr (State.privileged_below hp) _)
  · have htaken := execXinvComplete_taken (h := h) (twin := twin) hpll (by rw [hx]; exact takeXinv_first ho pre post hpre)
    refine ⟨fun hw => htaken.trans (congrArg _ (if_neg ?_)), fun hw => htaken.trans (congrArg _ (if_pos hw))⟩
    rw [hw]
    exact Bool.false_ne_true

end Sys2Proof.Machine

/-!
PROOFS. The atomics (R301 to R308): an amo after the buffered stores, and the reservation pair over a buffer of nine stores.
-/
namespace Sys2Proof.Machine

namespace OffCaches

variable {β : Type} {h : Nat} {P : State → β} (hP : OffCaches h P) (s : State)
include hP

theorem amoLine (line ca cls : Nat) : P (s.amoLine h line ca cls) = P s := by
  have hasked := hP.l2Request s line ca cls true
  unfold State.amoLine
  exact reading_ite s _ ((hP.l2Mod _ _ _ _).trans ((hP.galleryDrop _ _ _ _).trans hasked)) hasked

end OffCaches

section
variable {s t : State} {h : Nat}

/-- What the caches and the counters do leaves the end of the instruction free. -/
theorem State.Ends.offCaches (hs : s.Ends h) (hh : h < 512) (hc : t.Canonical)
    (ht : ∀ {β : Type} {P : State → β}, OffCaches h P → P t = P s) : t.Ends h :=
  hs.keeps hc (fun _ h8 => ht (OffCaches.reg (watch_not_counter hh h8)))
    (congrArg Hewer.flow (ht (OffCaches.hew h h)))

theorem State.Ends.tally (hs : s.Ends h) (hh : h < 512) (e : Nat) : (s.tally h e).Ends h :=
  hs.offCaches hh (s.tally_canonical h e hs.canon) fun hP => hP.tally s e

/-! ### A write of the hewer to memory -/

theorem State.hewerWrite_hew_self (hc : s.Canonical) (a : Nat) (l : List Byte) : (s.hewerWrite (some h) a l).hew h = s.hew h := by
  have hw : (s.rawWrite a l).hew h = s.hew h := State.hew_of_hewers (State.rawWrite_hewers s a l) h
  exact (State.clearResv_hew (hc.of_kept fun hk => State.rawWrite_kept _ _ _ hk) _ _ _ _).trans ((if_pos rfl).trans hw)

theorem State.Ends.hewerWrite (hs : s.Ends h) (a : Nat) (l : List Byte) : (s.hewerWrite (some h) a l).Ends h :=
  hs.keeps_regs (hs.canon.of_kept fun hk => State.hewerWrite_kept _ _ _ _ hk) (State.rawWrite_regs s a l)
    (by rw [State.hewerWrite_hew_self hs.canon])

theorem bytesLE_length (n v : Nat) : (bytesLE n v).length = n := by
  unfold bytesLE
  rw [List.length_map, List.length_range]

/-! ### What an amo reads -/

theorem State.poisoned_of_mem (hm : t.mem = s.mem) (a n : Nat) : t.poisoned a n = s.poisoned a n := by
  unfold State.poisoned
  rw [hm]

theorem State.readBytes_of_mem (hm : t.mem = s.mem) (a n : Nat) : t.readBytes a n = s.readBytes a n := by
  unfold State.readBytes
  rw [hm]

theorem State.amoRead_clean {pa n : Nat} (hp : s.poisoned pa n = false) (ea : Nat) (f : State → Nat → Step) :
    s.amoRead ea pa n f = f s (natLE (s.readBytes pa n)) := by
  unfold State.amoRead
  rw [hp]
  rfl

/-- An aligned atomic whose access reaches DRAM goes on there. -/
theorem State.atomicAccess_ok (hr : s.Runs h) {k : AccKind} {ea n pa ca : Nat} {via : Option TlbEntry} (hal : ea % n = 0)
    (ha : s.access h k ea n = ⟨s, .ok [⟨.phys pa, n, ca, via⟩]⟩) (items : List CmpItem) (f : State → Nat → Piece → Step) :
    s.atomicAccess h k ea n items f = f s pa ⟨.phys pa, n, ca, via⟩ := by
  unfold State.atomicAccess
  rw [hal, State.withAccess_ok hr ha]
  rfl

/-- An amo with nothing in its way: the buffered stores, the line at the L2, the old value, the write. -/
theorem State.amo_runs (hr : s.Runs h) (hh : h < 512) {ra rb rd func : Nat} {wide aq rl : Bool} {pa ca : Nat} {via : Option TlbEntry}
    (f : Nat → Nat → Nat → Nat) (hal : ((s.hew h).getW ra).toNat % atomicSize wide = 0)
    (ha : s.access h .amo ((s.hew h).getW ra).toNat (atomicSize wide) = ⟨s, .ok [⟨.phys pa, atomicSize wide, ca, via⟩]⟩)
    (hp : (s.sbFlush h).poisoned pa (atomicSize wide) = false) :
    s.amo h func wide aq rl rd ra rb f
      = ((((s.sbFlush h).amoLine h (pa / 64) ca ((s.sbFlush h).classOf h)).hewerWrite (some h) pa (bytesLE (atomicSize wide)
          (f (8 * atomicSize wide) (natLE ((s.sbFlush h).readBytes pa (atomicSize wide)))
            (((s.hew h).getW rb).toNat % 2 ^ (8 * atomicSize wide))))).tally h 0x018).completes h
          ((s.hew h).setW rd (BitVec.ofNat 64 (natLE ((s.sbFlush h).readBytes pa (atomicSize wide))))).next := by
  have hmem := (OffCaches.mem h).amoLine (s.sbFlush h) (pa / 64) ca ((s.sbFlush h).classOf h)
  have hline : ((s.sbFlush h).amoLine h (pa / 64) ca ((s.sbFlush h).classOf h)).Ends h :=
    (hr.sbFlush_ends hh).offCaches hh ((hr.sbFlush_ends hh).canon.of_kept fun hk => State.amoLine_kept _ _ _ _ _ hk)
      fun hP => hP.amoLine _ _ _ _
  have hhew : ((s.sbFlush h).amoLine h (pa / 64) ca ((s.sbFlush h).classOf h)).hew h = s.hew h :=
    ((OffCaches.hew h h).amoLine _ _ _ _).trans (State.sbFlush_hew hr.canon)
  unfold State.amo
  rw [hr.regNow, State.runLong_runs s h _ _ hr rfl, State.atomicAccess_ok hr hal ha,
    State.amoRead_clean ((State.poisoned_of_mem hmem _ _).trans hp), State.readBytes_of_mem hmem]
  generalize (s.sbFlush h).amoLine h (pa / 64) ca ((s.sbFlush h).classOf h) = u at hline hhew ⊢
  have hput (l : List Byte) := (hline.hewerWrite pa l).tally hh 0x018
  have hself (l : List Byte) : ((u.hewerWrite (some h) pa l).tally h 0x018).hew h = s.hew h :=
    (State.tally_hew _ _ _ _).trans ((State.hewerWrite_hew_self hline.canon _ _).trans hhew)
  rw [State.modHew, State.finish_setHew hr hh _ _ (hput _) (Hewer.setW_flow _ _ _), hself]

end

/-- Settles O13: each amo by the one lemma on their common form. -/
theorem atomicReadModifyWrite : Obligations.AtomicReadModifyWrite := by
  unfold Obligations.AtomicReadModifyWrite
  intro h wide aq rl rd ra rb s pa ca via hr
  dsimp only
  intro hal ha hp
  have hrun (func : Nat) (f : Nat → Nat → Nat → Nat) :=
    congrArg (Host.Outcome.next (φ := Fault) (ρ := Refusal))
      (State.amo_runs (rd := rd.val) (rb := rb.val) (func := func) (aq := aq) (rl := rl) hr h.isLt f hal ha hp)
  refine ⟨fun v a ho => ?_, hrun 0x10 _, hrun 0x11 _, hrun 0x12 _, hrun 0x13 _, hrun 0x14 minSigned, hrun 0x15 maxSigned, ?_, ?_⟩
  · rw [State.hewerWrite_byte_other _ _ _ _ _ (by rw [bytesLE_length]; exact ho)]
    exact congrArg (fun m => m.byte a) ((OffCaches.mem h).amoLine _ _ _ _)
  · rw [Nat.min_def]
    exact hrun 0x16 _
  · rw [Nat.max_def]
    exact hrun 0x17 _

/-! ### The reservation pair over a buffer of nine stores -/

/-- After reset with every domain on and both memory channels ready, hewer 0 in M addresses DRAM, holds granule 0 and has nine one-byte
stores buffered, the last of them to byte 8. -/
def nineReservedCold : State :=
  { ((State.reset.setReg Adr.PWR_DOM_STATE 0xFFFFF).raise F.MEM_STATUS.D3_READY).raise F.MEM_STATUS.D4_READY with
    hewers := [(0, { Hewer.reset with started := true, bank := 0x0F20000000000000, resv := some 0 })]
    twins := [(0, { Twin.reset with sbuf := nineStores })] }

/-- The same once the hewer's next word has been fetched, so that the fetch changes nothing more. -/
def nineReserved : State := (nineReservedCold.fetchAt 0 0).s

theorem nineReserved_runs : nineReserved.Runs 0 where
  canon := ⟨by decide +kernel, by decide +kernel, by decide +kernel, by decide +kernel⟩
  can := by decide +kernel
  quiet := by decide +kernel
  unit := by decide +kernel
  rep := by decide +kernel
  ctl := by decide +kernel
  missed := by decide +kernel
  wPoison := by decide +kernel
  vPoison := by decide +kernel
  stepping := by decide +kernel
  sampling := by decide +kernel
  watch := by decide +kernel
  fetch := fetchAt_of_quiet (by decide +kernel) (by decide +kernel)

theorem access_of_quiet {s : State} {h ea n : Nat} {k : AccKind} {l : List Piece} (hs : (s.access h k ea n).s = s)
    (hr : (s.access h k ea n).r = .ok l) : s.access h k ea n = ⟨s, .ok l⟩ := by
  generalize s.access h k ea n = f at *
  obtain ⟨t, r⟩ := f
  exact congr (congrArg _ hs) hr

theorem nineReserved_access : nineReserved.access 0 .stx 0 8 = ⟨nineReserved, .ok [⟨.phys 0, 8, 0, none⟩]⟩ :=
  access_of_quiet (by decide +kernel) (by decide +kernel)

theorem nineReserved_resv : (nineReserved.hew 0).resv = some 0 := by decide +kernel

/-- The store of the `stx` drains what `.rl` has left in the buffer: the ninth store. -/
theorem stxWrite_performs_ninth : ((nineReserved.sbFlush 0).stxWrite 0 0 0 (bytesLE 8 0)).mem.byte 8 = 1 := by decide +kernel

theorem nineReserved_flush_leaves_ninth : (nineReserved.sbFlush 0).mem.byte 8 = 0 := by decide +kernel

/-- Refutes O12: over a buffer that lists nine stores, which no type of the model excludes, `stx.rl` drains twice, and byte 8, beyond the
doubleword that it writes, is not that of memory with the buffer drained once. -/
theorem not_reservationPair : ¬ Obligations.ReservationPair := by
  intro hpair
  obtain ⟨hheld, -⟩ := (hpair 0 true false true 0 0 0 nineReserved 0 0 none nineReserved_runs rfl).2 nineReserved_access
  obtain ⟨-, -, hother⟩ := hheld nineReserved_resv
  have hbyte : ((nineReserved.sbFlush 0).stxWrite 0 0 0 (bytesLE 8 0)).mem.byte 8 = (nineReserved.sbFlush 0).mem.byte 8 :=
    hother 8 (.inr (Nat.le_refl 8))
  rw [stxWrite_performs_ninth, nineReserved_flush_leaves_ninth] at hbyte
  exact absurd hbyte (by decide)

end Sys2Proof.Machine

/-!
PROOFS. Branches, jumps and `rep` (R289 to R300).
-/
namespace Sys2Proof.Machine

/-! ### What a transfer changes beside its hewer -/

/-- What a transfer of hewer `h` keeps: the other hewers, memory, the task side, the lode, and every register but the event counters. -/
def State.KeptBeside (h : HewerId) (s t : State) : Prop :=
  (∀ k, k ≠ h.val → t.hew k = s.hew k) ∧ t.mem = s.mem ∧ t.drt = s.drt ∧ t.lode = s.lode
    ∧ (∀ b, (∀ n, n < 8 → b ≠ Adr.TLY_HWR_CTR h n) → b ≠ Adr.TLY_HWR_STAT h → t.reg b = s.reg b)

/-- A transfer that is resolved, and leaves its hewer as `x`, completes. -/
theorem State.keptBeside_completes {h : HewerId} {s u : State} (hu : ∀ {β : Type} {P : State → β}, OffCaches h P → P u = P s) (x y : Hewer) :
    s.KeptBeside h ((u.setHew h x).completes h y) := by
  have hall {β : Type} {P : State → β} (hP : OffCaches h P) : P ((u.setHew h x).completes h y) = P ((u.setHew h x).setHew h y) :=
    hP.tally _ _
  refine ⟨fun k hk => ?_, ?_, ?_, ?_, fun b hctr hstat => ?_⟩
  · refine (hall (OffCaches.hew h k)).trans ((State.hew_setHew_other _ _ hk).trans ((State.hew_setHew_other _ _ hk).trans (hu (OffCaches.hew h k))))
  · exact (hall (OffCaches.mem h)).trans (hu (OffCaches.mem h))
  · exact (hall (OffCaches.drt h)).trans (hu (OffCaches.drt h))
  · exact (hall (OffCaches.lode h)).trans (hu (OffCaches.lode h))
  · have hreg := OffCaches.reg (counterReg_eq_false.mpr ⟨hstat, hctr⟩)
    exact (hall hreg).trans (hu hreg)

theorem Hewer.done_at (x : Hewer) (p : Word) : ({ x with pc := p } : Hewer).done = { x.done with pc := p } := by
  have hpl : ({ x with pc := p } : Hewer).pl = x.pl := rfl
  unfold Hewer.done Hewer.endWindow
  rw [hpl]
  by_cases h3 : x.pl = 3
  · rw [if_pos h3, if_pos h3]
  · rw [if_neg h3, if_neg h3]
    by_cases h1 : x.pl = 1
    · rw [if_pos h1, if_pos h1]
    · rw [if_neg h1, if_neg h1]

theorem Hewer.done_rsp (x : Hewer) : x.done.rsp = x.rsp := by
  unfold Hewer.done Hewer.endWindow
  split
  · rfl
  · split <;> rfl

theorem Hewer.ctlPass_eq {x : Hewer} (hx : x.ctl = []) : x.ctlPass = x := by
  unfold Hewer.ctlPass
  rw [hx, List.map_nil, List.filter_nil, ← hx]

section
variable {s : State} {h : HewerId} (hr : s.Runs h) (hfree : (s.twin (s.twinOf h)).pred.cps.length < 4)
include hr hfree

/-- A transfer that its prediction lets go on, and that leaves its hewer as `y`. -/
theorem State.finish_predicted (p : Pre) (f : Predictor → Prediction) {k : State → Step} {y : Hewer}
    (hk : ∀ u : State, u.hew h = s.hew h → k u = .jumped (u.setHew h y)) (hst : y.stepping = false) (hctl : y.ctl = []) :
    ∃ t, s.finish h p (s.predicted h f k) = t ∧ t.hew h = y.done ∧ s.KeptBeside h t := by
  have hu {β : Type} {P : State → β} (hP : OffCaches h P) := hP.resolved s (f (s.twin (s.twinOf h)).pred)
  have hhew : (s.resolved h (f (s.twin (s.twinOf h)).pred)).hew h = s.hew h := hu (OffCaches.hew h h)
  have hsame : ((s.resolved h (f (s.twin (s.twinOf h)).pred)).setHew h y).hew h = y := State.hew_setHew_same _ _ _
  refine ⟨_, rfl, ?_, ?_⟩
  · rw [State.predicted_free hfree, hk _ hhew, State.finish_jumped hr.sampling p (by rw [hsame, hst]) (by rw [hsame, hctl]), hsame,
      State.completes, State.tally_hew, State.hew_setHew_same]
  · rw [State.predicted_free hfree, hk _ hhew, State.finish_jumped hr.sampling p (by rw [hsame, hst]) (by rw [hsame, hctl])]
    exact State.keptBeside_completes hu _ _

/-- A transfer without a return address opens its unit. -/
theorem State.finish_opens (p : Pre) (f : Predictor → Prediction) {k : State → Step} {target : Word}
    (hk : ∀ u : State, k u = u.enterUnit h target none (s.hew h).rsp) :
    ∃ t, s.finish h p (s.predicted h f k) = t
      ∧ t.hew h = { (s.hew h).done with
          unit := some ⟨(s.hew h).pc, target, none, 0, none, (s.hew h).rsp⟩
          pc := (s.hew h).pc + 4 }
      ∧ s.KeptBeside h t := by
  obtain ⟨t, ht, hx, hrest⟩ := State.finish_predicted hr hfree p f
    (y := (s.hew h).opened target none 0 none (s.hew h).rsp)
    (fun u hhew => (hk u).trans (by rw [State.enterUnit_eq, hhew]; rfl)) hr.stepping hr.ctl
  refine ⟨t, ht, hx.trans ((Hewer.opened_done (s.hew h) target none 0 none (s.hew h).rsp (s.hew h).hostBuf).trans ?_), hrest⟩
  rw [← Hewer.done_rsp (s.hew h)]

/-- An annulled slot is passed over. -/
theorem State.finish_annuls (p : Pre) (f : Predictor → Prediction) {k : State → Step}
    (hk : ∀ u : State, k u = .jumped (u.modHew h fun y => { y.ctlPass with pc := y.pc + 8 })) :
    ∃ t, s.finish h p (s.predicted h f k) = t ∧ t.hew h = { (s.hew h).done with pc := (s.hew h).pc + 8 } ∧ s.KeptBeside h t := by
  obtain ⟨t, ht, hx, hrest⟩ := State.finish_predicted hr hfree p f (y := { s.hew h with pc := (s.hew h).pc + 8 })
    (fun u hhew => (hk u).trans (by rw [State.modHew, hhew, Hewer.ctlPass_eq hr.ctl])) hr.stepping hr.ctl
  exact ⟨t, ht, hx.trans (Hewer.done_at _ _), hrest⟩

end

/-- With no distance open nothing is drawn for the control state that the next instruction sees. -/
theorem State.passChoice_idle {s : State} {h : Nat} (hc : (s.hew h).ctl = []) : s.passChoice h = s := by
  unfold State.passChoice
  rw [hc]
  rfl

/-- The instruction in the slot completes: its unit ends (R290). -/
theorem State.retire_unit {s : State} {h : Nat} {u : TransferUnit} (hu : (s.hew h).unit = some u) (hp : u.push = none)
    (hc : (s.hew h).ctl = []) : s.retire h = s.setHew h { (s.hew h).done with unit := none, pc := u.next } := by
  have hunit : (s.hew h).done.unit = some u := (Hewer.done_unit _).trans hu
  unfold State.retire
  dsimp only
  rw [State.passChoice_idle hc, Hewer.passed_eq _ hc]
  split
  · next v hv =>
    obtain rfl : v = u := Option.some.inj (hv.symm.trans hunit)
    rw [hp]
  · next hnone => exact absurd (hunit.symm.trans hnone) (Option.some_ne_none _)

/-- Settles O14: every taken and every delayed transfer opens its unit, an annulled branch passes its slot over. -/
theorem transfersOpenDelaySlot : Obligations.TransfersOpenDelaySlot := by
  unfold Obligations.TransfersOpenDelaySlot
  refine ⟨fun h a cond d20 d24 ra s hr => ?_, fun s h u hu hp hc => State.retire_unit hu hp hc⟩
  dsimp only
  intro hfree
  have hbranch : exec (.bCond h a cond d20) s = _ := congrArg Host.Outcome.next (State.run_transfer hr _ _ _ _)
  have hjmp : exec (.jmp h a d24) s = _ := congrArg Host.Outcome.next (State.run_transfer hr _ _ _ _)
  have hjmpr : exec (.jmpr h a ra) s = _ := congrArg Host.Outcome.next (State.run_transfer hr _ _ _ _)
  dsimp only at hbranch hjmp hjmpr
  refine ⟨fun ht => ?_, fun ht ha => ?_, fun ht ha => ?_, ?_, fun hal => ?_, fun hal => ?_⟩
  · obtain ⟨t, hf, hx, hrest⟩ := State.finish_opens hr hfree _ _ fun u => if_pos ht
    exact ⟨t, hbranch.trans (congrArg Host.Outcome.next hf), hx, hrest⟩
  · obtain ⟨t, hf, hx, hrest⟩ := State.finish_annuls hr hfree _ _ fun u => (if_neg (Bool.eq_false_iff.mp ht)).trans (if_pos ha)
    exact ⟨t, hbranch.trans (congrArg Host.Outcome.next hf), hx, hrest⟩
  · obtain ⟨t, hf, hx, hrest⟩ := State.finish_opens hr hfree _ _ fun u =>
      (if_neg (Bool.eq_false_iff.mp ht)).trans (if_neg (Bool.eq_false_iff.mp ha))
    exact ⟨t, hbranch.trans (congrArg Host.Outcome.next hf), hx, hrest⟩
  · obtain ⟨t, hf, hx, hrest⟩ := State.finish_opens hr hfree _ _ fun u => rfl
    exact ⟨t, hjmp.trans (congrArg Host.Outcome.next hf), hx, hrest⟩
  · rw [if_neg (Bool.eq_false_iff.mp (misaligned_eq_false hal))] at hjmpr
    obtain ⟨t, hf, hx, hrest⟩ := State.finish_opens hr hfree _ _ fun u => rfl
    exact ⟨t, hjmpr.trans (congrArg Host.Outcome.next hf), hx, hrest⟩
  · rw [if_pos (misaligned_eq_true hal), State.finish_trap hr] at hjmpr
    exact hjmpr

/-! ### The fetch of the word that `rep` repeats (R296, R371, R472) -/

namespace OffCaches

variable {β : Type} {h : Nat} {P : State → β} (hP : OffCaches h P) (s : State)
include hP

theorem translate (k : AccKind) (va n : Nat) (aligned : Bool) : P (s.translate h k va n aligned).s = P s := by
  by_cases hb : (s.hew h).banked = true
  · exact congrArg P (s.translate_banked h hb k va n aligned)
  · have hfull := hP.full s k false va
    unfold State.translate
    dsimp only
    rw [if_neg hb]
    generalize (if k.isFetch then bitOf (s.ctlSeen h .xmode).toNat 0 else bitOf (s.ctlSeen h .xmode).toNat 1) = inFull
    split
    · rfl
    · split
      · exact hfull
      · split
        · exact hfull
        · split
          · have hagain (asid root : Nat) (b : Bool) := (hP.walkFill (s.full h k false va).1 k false asid va root b).trans hfull
            split
            · exact hagain _ _ _
            · split
              · exact hagain _ _ _
              · split <;> exact hagain _ _ _
          · exact hfull

theorem fetchAt (va : Nat) : P (s.fetchAt h va).s = P s := by
  have htranslated := hP.translate s .fetch va 4 true
  unfold State.fetchAt
  dsimp only
  split
  · exact htranslated
  · dsimp only
    split
    · exact (hP.l1iUse _ _ _ _ _).trans htranslated
    · exact htranslated

end OffCaches

/-! ### `rep` begins (R296 to R299) -/

/-- No write of control state is inside its distance: its latest value is the one seen. -/
theorem State.ctlSeen_latest {s : State} {h : Nat} (hc : (s.hew h).ctl = []) (r : CtlReg) : s.ctlSeen h r = (s.hew h).ctlLatest r := by
  unfold State.ctlSeen Hewer.ctlChoices
  dsimp only
  rw [hc]
  rfl

/-- CNT[31:0] after a write to those bits. -/
theorem setBits_low_word (v : Word) (n : Nat) : (BitVec.ofNat 64 (setBits v.toNat 31 0 n)).toNat % 2 ^ 32 = n % 2 ^ 32 := by
  have hbits := bitsOf_ofNat_setBits v (hi := 31) (lo := 0) (by decide) (by decide) n
  unfold bitsOf at hbits
  rwa [Nat.pow_zero, Nat.div_one] at hbits

theorem Hewer.done_cnt (x : Hewer) : x.done.cnt = x.cnt := by
  unfold Hewer.done Hewer.endWindow
  split
  · rfl
  · split <;> rfl

/-- `rep`, with the fetch of its word behind it. -/
theorem execRep_fetched {h : HewerId} {word : Word32} {s u : State} {l : Leaf} (hr : s.Runs h)
    (hf : s.fetchAt h ((s.hew h).pc + 4).toNat = ⟨u, .ok l⟩) :
    exec (.rep h word) s = .next (s.finish h (s.transferPre h wRep [] 0)
      (if !(repeatable word.toNat) then .exc u (mkExc 0x01 wRep)
      else .jumped (u.modHew h fun y =>
        if (u.ctlSeen h .cnt).toNat % 2 ^ 32 = 0 then { y.ctlPass with pc := y.pc + 8 }
        else { y.takeCnt ((u.ctlSeen h .cnt).toNat % 2 ^ 32) with rep := some y.pc, pc := y.pc + 4 }))) := by
  refine congrArg Host.Outcome.next ((State.run_transfer hr _ _ _ _).trans ?_)
  rw [hf]

/-- `rep` of a word that may be repeated leaves its hewer as `y`. -/
theorem State.finish_rep {h : HewerId} {s u : State} (hr : s.Runs h) (p : Pre) {y : Hewer} (hst : y.stepping = false) (hctl : y.ctl = []) :
    (s.finish h p (.jumped (u.setHew h y))).hew h = y.done := by
  have hsame : (u.setHew h y).hew h = y := State.hew_setHew_same _ _ _
  rw [State.finish_jumped hr.sampling p (by rw [hsame, hst]) (by rw [hsame, hctl]), hsame, State.completes, State.tally_hew,
    State.hew_setHew_same]

/-! ### A completion under `rep` (R296) -/

/-- The repeated instruction completes: the count goes down, and the `rep` ends at 0. -/
theorem State.retire_rep {s : State} {h : Nat} {a : Word} (hu : (s.hew h).unit = none) (hrep : (s.hew h).rep = some a)
    (hc : (s.hew h).ctl = []) :
    let n := (s.hew h).cnt.toNat % 2 ^ 32 - 1
    let x := { (s.hew h).done with cnt := BitVec.ofNat 64 (setBits (s.hew h).cnt.toNat 31 0 n) }
    (s.retire h).hew h = if n = 0 then { x with rep := none, pc := a + 8 } else { x with ctl := [] } := by
  have hunit : (s.hew h).done.unit = none := (Hewer.done_unit _).trans hu
  have hin : (s.hew h).done.rep = some a := (Hewer.done_rep _).trans hrep
  dsimp only
  unfold State.retire
  dsimp only
  rw [State.passChoice_idle hc, Hewer.passed_eq _ hc]
  split
  · next hsome => exact absurd (hsome.symm.trans hunit) (Option.some_ne_none _)
  · split
    · next b hb =>
      obtain rfl : b = a := Option.some.inj (hb.symm.trans hin)
      rw [State.hew_setHew_same, Hewer.done_cnt, hc]
    · next hnone => exact absurd (hin.symm.trans hnone) (Option.some_ne_none _)

/-- Settles O16: the three ends of `rep` by what the fetch leaves, the count by the completion. -/
theorem repRepeatsItsInstruction : Obligations.RepRepeatsItsInstruction := by
  unfold Obligations.RepRepeatsItsInstruction
  refine ⟨fun h word s u l hr => ?_, fun s h a hu hrep hc => ?_⟩
  · dsimp only
    intro hf
    have hu : u.hewers = s.hewers := by
      have hfetch := (OffCaches.hewers h.val).fetchAt s ((s.hew h).pc + 4).toNat
      rwa [hf] at hfetch
    have hhew : u.hew h = s.hew h := State.hew_of_hewers hu h
    have hcnt : u.ctlSeen h .cnt = (s.hew h).cnt := by
      rw [State.ctlSeen_latest (by rw [hhew]; exact hr.ctl), hhew]
      rfl
    have hrep := execRep_fetched (word := word) hr hf
    rw [hcnt, State.modHew, hhew] at hrep
    refine ⟨fun hw => ?_, fun hw => ?_⟩
    · rw [hw, Bool.not_true, if_neg Bool.false_ne_true] at hrep
      refine ⟨fun h0 => ⟨_, hrep, ?_⟩, fun h0 => ⟨_, hrep, ?_⟩⟩
      · rw [if_pos h0, Hewer.ctlPass_eq hr.ctl]
        have hend := State.finish_rep (u := u) hr (s.transferPre h wRep [] 0) (y := { s.hew h with pc := (s.hew h).pc + 8 }) hr.stepping hr.ctl
        exact ⟨(congrArg Hewer.pc hend).trans (Hewer.done_pc _), (congrArg Hewer.rep hend).trans ((Hewer.done_rep _).trans hr.rep)⟩
      · have hopen : ((s.hew h).takeCnt ((s.hew h).cnt.toNat % 2 ^ 32)).ctl = [] := by
          unfold Hewer.takeCnt
          rw [hr.ctl, List.filter_nil]
        rw [if_neg h0]
        have hend := State.finish_rep (u := u) hr (s.transferPre h wRep [] 0) (y := { (s.hew h).takeCnt ((s.hew h).cnt.toNat % 2 ^ 32) with
          rep := some (s.hew h).pc, pc := (s.hew h).pc + 4 }) hr.stepping hopen
        refine ⟨(congrArg Hewer.pc hend).trans (Hewer.done_pc _), (congrArg Hewer.rep hend).trans (Hewer.done_rep _), ?_⟩
        have hcount := (congrArg Hewer.cnt hend).trans (Hewer.done_cnt _)
        exact (congrArg (fun v : Word => v.toNat % 2 ^ 32) hcount).trans ((setBits_low_word _ _).trans (Nat.mod_mod _ _))
    · rw [hw, Bool.not_false, if_pos rfl] at hrep
      rw [hrep, State.finish_exc hr.sampling _ _ (hr.noStep.of_hewers hu) (by rw [hhew]; exact hr.unit) (by rw [hhew]; exact hr.rep)]
      rfl
  · have hend := State.retire_rep hu hrep hc
    dsimp only at hend ⊢
    refine ⟨fun h1 => ?_, fun h1 => ?_⟩
    · rw [hend, if_pos (by omega)]
      refine ⟨rfl, rfl, (setBits_low_word _ _).trans ?_⟩
      omega
    · rw [hend, if_neg (by omega)]
      refine ⟨(Hewer.done_rep _).trans hrep, Hewer.done_pc _, (setBits_low_word _ _).trans (Nat.mod_eq_of_lt ?_)⟩
      omega

end Sys2Proof.Machine

/-!
PROOFS. Stores and the store buffer (R279 to R281, R305, R343).
-/
namespace Sys2Proof.Machine

theorem OffCaches.buffered (h : Nat) : OffCaches h fun s => s.buffered h where
  mc _ _ := rfl
  twin s t _ hx := congrFun (s.setTwin_sbufs t hx) (s.twinOf h)
  counter s f v hf := congrArg (fun k => (s.twin k).sbuf)
    (State.twinOf_of_reg ((OffCaches.reg (galMap_not_counter h)).counter s f v hf))
  free _ _ := rfl

section
variable {s : State} {h : Nat}

/-! ### A store enters the buffer (R343) -/

/-- The buffer with room for one more store: the oldest leaves a full one. -/
def State.sbRoom (s : State) (h : Nat) : State := if 8 ≤ (s.buffered h).length then s.sbDrain h 1 else s

theorem State.sbPut_eq (e : StoreEntry) :
    s.sbPut h e = (s.sbRoom h).modTwin ((s.sbRoom h).twinOf h) (fun t => { t with sbuf := t.sbuf ++ [e] }) := rfl

theorem State.sbRoom_full (hb : 8 ≤ (s.buffered h).length) : s.sbRoom h = s.sbDrain h 1 := if_pos hb

theorem State.sbRoom_room (hb : (s.buffered h).length < 8) : s.sbRoom h = s := if_neg (Nat.not_le.mpr hb)

/-- What draining a store keeps, making room keeps. -/
theorem State.sbRoom_cases {p : State → Prop} (hdrain : p (s.sbDrain h 1)) (hself : p s) : p (s.sbRoom h) := by
  unfold State.sbRoom
  split
  · exact hdrain
  · exact hself

theorem State.sbPut_hew_self (hc : s.Canonical) (e : StoreEntry) : (s.sbPut h e).hew h = s.hew h := by
  refine Eq.trans ?_ (State.sbRoom_cases (h := h) (p := fun t => t.hew h = s.hew h) (State.sbDrain_hew_self hc h 1) rfl)
  exact State.hew_of_hewers (State.modTwin_hewers _ _ _) h

theorem State.sbPut_reg (e : StoreEntry) {a : Nat} (ha : counterReg h a = false) : (s.sbPut h e).reg a = s.reg a :=
  State.sbRoom_cases (h := h) (p := fun t => t.reg a = s.reg a) (s.sbDrain_reg h 1 ha) rfl

theorem State.sbPut_buffered (e : StoreEntry) :
    (s.sbPut h e).buffered h = (if (s.buffered h).length < 8 then s.buffered h else (s.buffered h).drop 1) ++ [e] := by
  have hroom : (s.sbRoom h).buffered h = if (s.buffered h).length < 8 then s.buffered h else (s.buffered h).drop 1 := by
    split
    · next hb => rw [State.sbRoom_room hb]
    · next hb => rw [State.sbRoom_full (Nat.le_of_not_lt hb), State.sbDrain_buffered]
  have hput : (s.sbPut h e).buffered h = (s.sbRoom h).buffered h ++ [e] := congrArg Twin.sbuf (Table.get_set_same _ _ _ _)
  rw [hput, hroom]

/-- A buffer with room takes a store beside memory and the hewers. -/
theorem State.sbPut_room (hb : (s.buffered h).length < 8) (e : StoreEntry) :
    (s.sbPut h e).mem = s.mem ∧ (s.sbPut h e).hewers = s.hewers := by
  rw [State.sbPut_eq, State.sbRoom_room hb]
  exact ⟨State.modTwin_mem _ _ _, State.modTwin_hewers _ _ _⟩

/-- A full buffer performs its oldest store. -/
theorem State.sbPut_full (hc : s.Canonical) (hb : 8 ≤ (s.buffered h).length) {o : StoreEntry} (ho : o ∈ (s.buffered h).head?)
    (e : StoreEntry) : (s.sbPut h e).mem = (s.hewerWrite (some h) o.pa o.data).mem
      ∧ ∀ k, k ≠ h → (s.sbPut h e).hew k = (s.hew k).loseResv o.pa o.data.length := by
  have hoff := s.sbRest_beside h 1 h
  have htake : (s.buffered h).take 1 = [o] := by
    obtain ⟨rest, hrest⟩ := List.head?_eq_some_iff.mp ho
    rw [hrest]
    rfl
  have hdrain : s.sbDrain h 1 = (s.sbRest h 1).sbPerform h o := by
    rw [State.sbDrain_eq, htake]
    rfl
  rw [State.sbPut_eq, State.sbRoom_full hb, hdrain]
  refine ⟨?_, fun k hk => ?_⟩
  · exact (State.modTwin_mem _ _ _).trans ((State.sbPerform_mem _ _ _).trans (State.rawWrite_mem_of_mem (State.mem_of_beside hoff) _ _))
  · refine (State.hew_of_hewers (State.modTwin_hewers _ _ _) k).trans ((State.sbPerform_hew (State.sbRest_canonical hc h 1) h o k).trans ?_)
    rw [if_neg hk, State.hew_of_beside hoff]

/-! ### A store that completes -/

/-- After a store of hewer `h`: `e` stands last in the buffer, out of a full buffer the oldest store was performed, and the hewer is left
as `y`. -/
def State.Stored (h : HewerId) (s : State) (e : StoreEntry) (y : Hewer) (t : State) : Prop :=
  t.hew h = y
    ∧ t.buffered h = (if (s.buffered h).length < 8 then s.buffered h else (s.buffered h).drop 1) ++ [e]
    ∧ ((s.buffered h).length < 8 → t.mem = s.mem ∧ ∀ k, k ≠ h.val → t.hew k = s.hew k)
    ∧ (8 ≤ (s.buffered h).length → ∀ o ∈ (s.buffered h).head?, t.mem = (s.hewerWrite (some h) o.pa o.data).mem
        ∧ ∀ k, k ≠ h.val → t.hew k = (s.hew k).loseResv o.pa o.data.length)
    ∧ ∀ a, (∀ n, n < 8 → a ≠ Adr.TLY_HWR_CTR h n) → a ≠ Adr.TLY_HWR_STAT h → t.reg a = s.reg a

theorem State.stored_completes {h : HewerId} (hc : s.Canonical) (e : StoreEntry) (y : Hewer) :
    s.Stored h e y ((s.sbPut h e).completes h y) := by
  have hall {β : Type} {P : State → β} (hP : OffCaches h P) : P ((s.sbPut h e).completes h y) = P ((s.sbPut h e).setHew h y) :=
    hP.tally _ _
  have hmem : ((s.sbPut h e).completes h y).mem = (s.sbPut h e).mem := hall (OffCaches.mem h)
  have hother (k : Nat) (hk : k ≠ h.val) : ((s.sbPut h e).completes h y).hew k = (s.sbPut h e).hew k :=
    (State.tally_hew _ _ _ _).trans (State.hew_setHew_other _ _ hk)
  refine ⟨(State.tally_hew _ _ _ _).trans (State.hew_setHew_same _ _ _), (hall (OffCaches.buffered h)).trans (State.sbPut_buffered e),
    fun hb => ?_, fun hb o ho => ?_, fun a hctr hstat => ?_⟩
  · obtain ⟨hm, hh⟩ := State.sbPut_room hb e
    exact ⟨hmem.trans hm, fun k hk => (hother k hk).trans (State.hew_of_hewers hh k)⟩
  · obtain ⟨hm, hh⟩ := State.sbPut_full hc hb ho e
    exact ⟨hmem.trans hm, fun k hk => (hother k hk).trans (hh k hk)⟩
  · have ha := counterReg_eq_false.mpr ⟨hstat, hctr⟩
    exact (hall (OffCaches.reg ha)).trans (State.sbPut_reg e ha)

/-- The effect of a store whose access reaches one piece of DRAM: its bytes enter the buffer, and the hewer is updated. -/
theorem State.storeStep_dram (hr : s.Runs h) {ea n pa ca : Nat} {via : Option TlbEntry} {d : List Byte} (hd : d.length = n)
    (ha : s.access h .store ea n = ⟨s, .ok [⟨.phys pa, n, ca, via⟩]⟩) (harea : s.areaOf pa = 1) (upd : Hewer → Hewer) :
    ∃ items, s.storeStep h ea d upd = .ok ((s.sbPut h ⟨pa, d, ca, s.classOf h, via⟩).modHew h upd) items := by
  subst hd
  refine ⟨s.dataItems h [2, 3] ea d.length ++ [valueItem 5 (natLE d % 2 ^ 64)], ?_⟩
  have hone : s.storePieces h [⟨.phys pa, d.length, ca, via⟩] d = s.sbPut h ⟨pa, d, ca, s.classOf h, via⟩ := by
    unfold State.storePieces State.storePiece State.storePieces
    rw [List.take_length]
    dsimp only
    rw [harea, if_neg (by decide)]
  unfold State.storeStep
  dsimp only
  rw [State.withAccess_ok hr ha]
  exact congrArg (fun t => Step.ok (State.modHew t h upd) _) hone

/-- A store with nothing in its way completes. -/
theorem State.run_store {h : HewerId} (hr : s.Runs h) {p : Pre} (hp : p.bad = none) {ea n pa ca : Nat} {via : Option TlbEntry}
    {d : List Byte} (hd : d.length = n) (ha : s.access h .store ea n = ⟨s, .ok [⟨.phys pa, n, ca, via⟩]⟩) (harea : s.areaOf pa = 1)
    {upd : Hewer → Hewer} (hu : (upd (s.hew h)).flow = (s.hew h).flow) {body : State → Step} (hb : body s = s.storeStep h ea d upd) :
    s.Stored h ⟨pa, d, ca, s.classOf h, via⟩ (upd (s.hew h)).next (s.run h p body) := by
  obtain ⟨items, hstep⟩ := State.storeStep_dram hr hd ha harea upd
  have hself : (s.sbPut h ⟨pa, d, ca, s.classOf h, via⟩).hew h = s.hew h := State.sbPut_hew_self hr.canon _
  have hends : (s.sbPut h ⟨pa, d, ca, s.classOf h, via⟩).Ends h :=
    hr.ends.keeps (hr.canon.of_kept fun hk => State.sbPut_kept _ _ _ hk) (fun c h8 => State.sbPut_reg _ (watch_not_counter h.isLt h8))
      (by rw [hself])
  rw [State.run_runs s h p body hr hp, hb, hstep, State.modHew, hself, State.finish_setHew hr h.isLt p _ hends (by rw [hu, hself])]
  exact State.stored_completes hr.canon _ _

end

theorem Hewer.storeBytes_length (x : Hewer) (kind : StoreKind) (r : Nat) : (x.storeBytes kind r).length = storeSize kind := by
  unfold Hewer.storeBytes
  split
  · next hq => rw [hq, bytesLE_length]; rfl
  · exact bytesLE_length _ _

theorem Hewer.baseUpdate_flow (x : Hewer) (up : Bool) (r : Nat) (v : Word) : (x.baseUpdate up r v).flow = x.flow := by
  unfold Hewer.baseUpdate
  split
  · exact Hewer.setW_flow x r v
  · rfl

/-- Settles O11: each form by the one lemma on stores; a draining store by what `sbPerform` says. -/
theorem storesWriteOnlyTheirBytes : Obligations.StoresWriteOnlyTheirBytes := by
  unfold Obligations.StoresWriteOnlyTheirBytes
  refine ⟨fun h kind rd ra rb up disp scale s pa ca via hr => ?_, fun h e s hc => ⟨fun i hi => ?_, fun a ha => ?_, ?_, fun k hk => ?_⟩⟩
  · dsimp only
    refine ⟨fun ⟨ha, harea⟩ hup => ?_, fun ⟨ha, harea⟩ => ?_, fun hal ⟨ha, harea⟩ => ?_⟩
    · refine ⟨_, rfl, ?_⟩
      have hbad : (if up && decide (ra = 0) then some 0x01 else none : Option Nat) = none := by
        cases up with
        | false => rfl
        | true => rw [Bool.true_and, decide_eq_false (hup rfl), if_neg Bool.false_ne_true]
      rw [hr.regNow]
      exact State.run_store hr hbad (Hewer.storeBytes_length _ _ _) ha harea
        (upd := fun x => x.baseUpdate up ra ((s.hew h).getW ra + disp.signExtend 64)) (Hewer.baseUpdate_flow _ _ _ _) rfl
    · refine ⟨_, rfl, ?_⟩
      rw [hr.regNow, hr.regNow]
      exact State.run_store hr rfl (Hewer.storeBytes_length _ _ _) ha harea (upd := id) rfl rfl
    · refine ⟨_, rfl, ?_⟩
      rw [hr.regNow]
      refine State.run_store hr rfl (bytesLE_length _ _) ha harea (upd := fun x => x.setW 30 ((s.hew h).getW 30 - 8))
        (Hewer.setW_flow _ _ _) ?_
      rw [hal]
      rfl
  · rw [State.sbPerform_mem]
    exact State.rawWrite_byte_same s e.pa e.data i hi
  · rw [State.sbPerform_mem]
    exact State.rawWrite_byte_other s e.pa e.data a ha
  · rw [State.sbPerform_hew hc, if_pos rfl]
  · rw [State.sbPerform_hew hc, if_neg hk]

end Sys2Proof.Machine

/-!
PROOFS. Loads (R279 to R281, R341 to R347).
-/
namespace Sys2Proof.Machine

/-! ### The registers while a load answers (R342, R343) -/

section
variable {s t : State} {h a : Nat} (ha : counterReg h a = false) (hdrop : a ≠ F.HEP_COUNTS.OUT_DROP.addr)
include ha

theorem State.cachedLoad_reg (pa n ca : Nat) : (s.cachedLoad h pa n ca).1.reg a = s.reg a := by
  have hsearch : (s.sbSearch h pa n).1.reg a = s.reg a := by
    unfold State.sbSearch
    split
    · rfl
    · split
      · rfl
      · exact s.sbDrain_reg h _ ha
  unfold State.cachedLoad
  dsimp only
  split
  · exact hsearch
  · exact (State.reg_of_beside (State.dataLine_beside _ h _ _ _ _) ha).trans hsearch

omit ha in
include hdrop in
/-- Host bytes that are there are only read; those that are refused count in OUT_DROP. -/
theorem State.hostPart_reg (pa n : Nat) (via : Option TlbEntry) {b : List Byte} {p l : Bool}
    (hd : (s.hostPart h pa n via).2 = .data b p l) : (s.hostPart h pa n via).1.reg a = s.reg a := by
  unfold State.hostPart at hd ⊢
  dsimp only at hd ⊢
  split
  · rfl
  · split
    · have hregs (u : State) (f : Hewer → Hewer) : ((u.freeBytes n).2.modHew h f).regs = u.regs := State.modHew_regs _ _ _
      have hout : s.outDrop.reg a = s.reg a := State.count_reg_other s _ 1 hdrop
      exact (State.reg_of_regs (hregs _ _) a).trans hout
    · next hfind hblock =>
      rw [hfind] at hd
      dsimp only at hd
      rw [if_neg hblock] at hd
      split at hd <;> cases hd

include hdrop

theorem State.loadPiece_reg (p : Piece) {b : List Byte} {q l : Bool} (hd : (s.loadPiece h p).2 = .data b q l) :
    (s.loadPiece h p).1.reg a = s.reg a := by
  have hwindow (w : List Byte) (off : Nat) : ((s.windowRead w off p.len).2.tally h 0x012).reg a = s.reg a :=
    State.reg_of_beside ((State.tally_beside _ h 0x012).trans (s.windowRead_beside h w off p.len)) ha
  unfold State.loadPiece at hd ⊢
  dsimp only at hd ⊢
  split
  · split
    · rfl
    · exact hwindow _ _
  · split
    · rfl
    · exact hwindow _ _
  · next hplace =>
    simp only [hplace] at hd
    split
    · split <;> rfl
    · next harea =>
      simp only [harea] at hd
      exact State.hostPart_reg hdrop _ _ _ hd
    · exact State.cachedLoad_reg ha _ _ _

theorem State.loadPieces_reg (ps : List Piece) : ∀ {s : State} {b : List Byte} {q l : Bool},
    (s.loadPieces h ps).2 = .data b q l → (s.loadPieces h ps).1.reg a = s.reg a := by
  induction ps with
  | nil => exact fun _ => rfl
  | cons p rest ih =>
    intro s b q l hd
    unfold State.loadPieces at hd ⊢
    dsimp only at hd ⊢
    split at hd
    · next hp hrest => exact (ih hrest).trans (State.loadPiece_reg ha hdrop p hp)
    · cases hd

end

theorem watch_not_drop (h c : Nat) : Adr.DBG_HWR_CMP_CTL h c ≠ F.HEP_COUNTS.OUT_DROP.addr := by
  simp only [Adr.DBG_HWR_CMP_CTL, F.HEP_COUNTS.OUT_DROP, Adr.HEP_COUNTS]
  omega

/-- A load that answers leaves the end of its instruction free. -/
theorem State.Runs.loaded_ends {s t : State} {h : Nat} (hr : s.Runs h) (hh : h < 512) {l : List Piece} {b : List Byte} {q late : Bool}
    (hl : s.loadPieces h l = (t, .data b q late)) : t.Ends h := by
  have hd : (s.loadPieces h l).2 = .data b q late := congrArg Prod.snd hl
  obtain rfl : (s.loadPieces h l).1 = t := congrArg Prod.fst hl
  have hloaded := State.loadPieces_loaded (h := h) l hr.canon hd
  obtain ⟨m, hm⟩ := hloaded.hew
  refine hr.ends.keeps hloaded.canon (fun c h8 => ?_) (by rw [hm]; rfl)
  exact State.loadPieces_reg (watch_not_counter hh h8) (watch_not_drop h c) l hd

/-! ### The hewer without its host data -/

/-- The change neither reads the host data in hand nor alters it, the flow or the outstanding loads. -/
structure Hewer.Updates (f : Hewer → Hewer) : Prop where
  hand : ∀ x l, f { x with hostBuf := l } = { f x with hostBuf := l }
  flow : ∀ x, (f x).flow = x.flow
  missed : ∀ x, (f x).missed = x.missed

theorem Hewer.setW_updates (r : Nat) (v : Word) : Hewer.Updates fun x => x.setW r v where
  hand x l := by
    unfold Hewer.setW
    split <;> rfl
  flow x := Hewer.setW_flow x r v
  missed x := by
    unfold Hewer.setW
    split <;> rfl

theorem Hewer.id_updates : Hewer.Updates id := ⟨fun _ _ => rfl, fun _ => rfl, fun _ => rfl⟩

theorem Hewer.baseUpdate_updates (up : Bool) (r : Nat) (v : Word) : Hewer.Updates fun x => x.baseUpdate up r v := by
  cases up with
  | false => exact Hewer.id_updates
  | true => exact Hewer.setW_updates r v

theorem Hewer.landLoad_hand (x : Hewer) (m : MissedLoad) (l : List HostPart) :
    ({ x with hostBuf := l } : Hewer).landLoad m = { x.landLoad m with hostBuf := l } := by
  unfold Hewer.landLoad Hewer.setV Hewer.setW
  split
  · dsimp only
    split <;> rfl
  · split
    · rfl
    · dsimp only
      split <;> rfl

theorem Hewer.landLoad_flow (x : Hewer) (m : MissedLoad) : (x.landLoad m).flow = x.flow := by
  unfold Hewer.landLoad Hewer.setV Hewer.setW
  split
  · dsimp only
    split <;> rfl
  · split
    · rfl
    · dsimp only
      split <;> rfl

/-! ### The end of a load (R341, R344) -/

/-- The hewer once a load of the pieces `l` has completed: with `out` its value is outstanding, else it is in its register. -/
def Hewer.loadEnd (x : Hewer) (out : Bool) (l : List Piece) (m : MissedLoad) : Hewer :=
  if out then { x with missed := [{ m with port := l.any Piece.window, via := (l.head?.map Piece.via).getD none }] } else x.landLoad m

theorem Hewer.loadEnd_hand (x : Hewer) (out : Bool) (l : List Piece) (m : MissedLoad) (b : List HostPart) :
    ({ x with hostBuf := b } : Hewer).loadEnd out l m = { x.loadEnd out l m with hostBuf := b } := by
  cases out with
  | false => exact Hewer.landLoad_hand x m b
  | true => rfl

theorem Hewer.loadEnd_flow (x : Hewer) (out : Bool) (l : List Piece) (m : MissedLoad) : (x.loadEnd out l m).flow = x.flow := by
  cases out with
  | false => exact Hewer.landLoad_flow x m
  | true => rfl

/-- The state in which a load completes: an unsplit one from beyond L1 D is noted for the prefetcher. -/
def State.loadNoted (t : State) (h ea : Nat) (l : List Piece) (late : Bool) : State :=
  if late && l.length != 2 then t.noteMiss h ea l else t

theorem Hewer.missRoom_none {x : Hewer} (hx : x.missed = []) (port : Bool) {limit : Nat} (h0 : 0 < limit) :
    x.missRoom port limit = some x := by
  unfold Hewer.missRoom
  rw [hx]
  exact if_pos h0

theorem missLimit_pos (port : Bool) : 0 < if port then 16 else 8 := by
  cases port <;> decide

theorem Hewer.addMiss_first {x : Hewer} (hx : x.missed = []) (m : MissedLoad) : x.addMiss m = some { x with missed := [m] } := by
  unfold Hewer.addMiss
  rw [Hewer.missRoom_none hx _ (missLimit_pos _), Option.map_some, hx]
  rfl

section
variable {s t : State} {h : Nat}

theorem State.loadEnds_first {upd : Hewer → Hewer} (hm : (upd (s.hew h)).missed = []) (l : List Piece) (m : MissedLoad) (out : Bool)
    (items : List CmpItem) : s.loadEnds h l m upd out items = .ok (s.setHew h ((upd (s.hew h)).loadEnd out l m)) items := by
  unfold State.loadEnds
  cases out with
  | false => rfl
  | true => rw [Hewer.addMiss_first hm]; rfl

/-- With no load outstanding and no sampling, a split load begins in the state as it is. -/
theorem State.Runs.split_begins (hr : s.Runs h) : (s.noteEvent h 0x005).modHew h Hewer.landAll = s := by
  have hl : (s.hew h).landAll = s.hew h := by
    unfold Hewer.landAll
    rw [hr.missed, List.foldl_nil, ← hr.missed]
  rw [State.noteEvent_off s h _ hr.sampling, State.modHew, hl, State.setHew_hew s h hr.canon]

theorem State.loadNoted_off (t : State) (h ea : Nat) (l : List Piece) (late : Bool) {β : Type} {P : State → β} (hP : OffCaches h P) :
    P (t.loadNoted h ea l late) = P t := reading_ite t _ (hP.noteMiss t ea l) rfl

theorem State.Ends.loadNoted (ht : t.Ends h) (hh : h < 512) (ea : Nat) (l : List Piece) (late : Bool) : (t.loadNoted h ea l late).Ends h := by
  refine ht.offCaches hh (ht.canon.of_kept fun hk => ?_) fun hP => t.loadNoted_off h ea l late hP
  unfold State.loadNoted
  split
  · exact State.noteMiss_kept _ _ _ _ hk
  · exact hk

/-- The effect of a load whose pieces all answer without poison. -/
theorem State.loadStep_answered (hr : s.Runs h) {k : LoadKind} {rd ea : Nat} {l : List Piece} {b : List Byte} {late miss : Bool}
    {upd : Hewer → Hewer} (hu : Hewer.Updates upd) (ha : s.access h .load ea (loadSize k) = ⟨s, .ok l⟩) (hhost : s.hostPiece l = none)
    (hl : s.loadPieces h l = (t, .data b false late)) :
    ∃ items, s.loadStep h k rd ea upd miss = .ok ((t.loadNoted h ea l late).setHew h ((upd (t.hew h)).loadEnd
      (miss && late && l.length != 2) l ⟨rd, loadVec k, loadValue k (natLE b), false, none, false, none⟩)) items := by
  have hwaits : (s.hew h).waitsHost = false := by
    unfold Hewer.waitsHost
    rw [hr.missed]
    rfl
  have hroom : (s.roomFor h l upd).isNone = false := by
    unfold State.roomFor
    dsimp only
    rw [Hewer.missRoom_none ((hu.missed _).trans hr.missed) _ (missLimit_pos _)]
    rfl
  have hmissed : (t.hew h).missed = [] := by
    have hloaded := State.loadPieces_loaded (h := h) l hr.canon (congrArg Prod.snd hl)
    obtain ⟨m, hm⟩ := hloaded.hew
    rw [hl] at hm
    rw [hm]
    exact hr.missed
  unfold State.loadStep
  dsimp only
  rw [State.withAccess_ok hr ha, hhost, hwaits, hroom, hr.split_begins]
  simp only [Bool.and_false, Bool.false_eq_true, if_false, ite_self, hl]
  by_cases h2 : l.length = 2
  · have hne : (l.length != 2) = false := by rw [h2]; rfl
    rw [if_pos h2, hne, Bool.and_false]
    unfold State.loadNoted
    rw [hne, Bool.and_false]
    exact ⟨_, rfl⟩
  · have hne : (l.length != 2) = true := bne_iff_ne.mpr h2
    have hnoted : (if late = true then t.noteMiss h ea l else t) = t.loadNoted h ea l late := by
      unfold State.loadNoted
      rw [hne, Bool.and_true]
    have hsame : (t.loadNoted h ea l late).hew h = t.hew h :=
      t.loadNoted_off h ea l late (OffCaches.hew h h)
    rw [if_neg h2, hnoted, State.loadEnds_first (by rw [hsame]; exact (hu.missed _).trans hmissed), hsame, hne, Bool.and_true,
      Bool.and_comm late miss]
    exact ⟨_, rfl⟩

/-- A load with nothing in its way, and answered at once, completes. -/
theorem State.run_load (hr : s.Runs h) (hh : h < 512) {p : Pre} (hp : p.bad = none) {k : LoadKind} {rd ea : Nat} {l : List Piece}
    {b : List Byte} {late miss : Bool} {upd : Hewer → Hewer} (hu : Hewer.Updates upd)
    (ha : s.access h .load ea (loadSize k) = ⟨s, .ok l⟩) (hhost : s.hostPiece l = none)
    (hl : s.loadPieces h l = (t, .data b false late)) {body : State → Step} (hb : body s = s.loadStep h k rd ea upd miss) :
    s.run h p body = (t.loadNoted h ea l late).completes h ((upd (s.hew h)).loadEnd (miss && late && l.length != 2) l
      ⟨rd, loadVec k, loadValue k (natLE b), false, none, false, none⟩).next := by
  obtain ⟨items, hstep⟩ := State.loadStep_answered (rd := rd) (miss := miss) hr hu ha hhost hl
  have hloaded := State.loadPieces_loaded (h := h) l hr.canon (congrArg Prod.snd hl)
  obtain ⟨m, hm⟩ := hloaded.hew
  rw [hl] at hm
  have hsame : (t.loadNoted h ea l late).hew h = t.hew h :=
    t.loadNoted_off h ea l late (OffCaches.hew h h)
  rw [State.run_runs s h p body hr hp, hb, hstep, State.finish_setHew hr hh p _ ((hr.loaded_ends hh hl).loadNoted hh ea l late)
    ((Hewer.loadEnd_flow _ _ _ _).trans ((hu.flow _).trans (by rw [hsame]))), hm, hu.hand, Hewer.loadEnd_hand]
  exact congrArg _ (Hewer.next_hand _ m _)

end

theorem State.completes_loadEnd (t : State) (h : Nat) (x : Hewer) (out : Bool) (l : List Piece) (m : MissedLoad) :
    t.completes h (x.loadEnd out l m).next = if out then
      t.completes h ({ x with missed := [{ m with port := l.any Piece.window, via := (l.head?.map Piece.via).getD none }] } : Hewer).next
    else t.completes h (x.landLoad m).next := by
  cases out <;> rfl

/-! ### The bytes of a load of DRAM (R343) -/

section
variable {s : State} {h pa n : Nat}

/-- One piece of DRAM answers as the caches do. -/
theorem State.loadPieces_dram (harea : s.areaOf pa = 1) {ca : Nat} {via : Option TlbEntry} {t : State} {b : List Byte} {p l : Bool}
    (hc : s.cachedLoad h pa n ca = (t, .data b p l)) : s.loadPieces h [⟨.phys pa, n, ca, via⟩] = (t, .data b p l) := by
  have hone : s.loadPiece h ⟨.phys pa, n, ca, via⟩ = (t, .data b p l) := by
    unfold State.loadPiece
    dsimp only
    rw [harea]
    exact hc
  unfold State.loadPieces State.loadPieces
  rw [hone]
  dsimp only
  rw [List.append_nil, Bool.or_false, Bool.or_false]

theorem State.cachedLoad_memory (harea : s.areaOf pa = 1) (hp : s.poisoned pa n = false)
    (hsb : sbLatest (s.twin (s.twinOf h)).sbuf pa n = none) (ca : Nat) :
    s.cachedLoad h pa n ca = ((s.dataLine h (pa / 64) ca (s.classOf h) false).1,
      .data (s.readBytes pa n) false (s.dataLine h (pa / 64) ca (s.classOf h) false).2) := by
  have hsearch : s.sbSearch h pa n = (s, none) := by
    unfold State.sbSearch
    rw [hsb]
  unfold State.cachedLoad
  dsimp only
  rw [hsearch]
  dsimp only
  rw [harea, hp, if_pos rfl, Bool.and_false]

theorem State.cachedLoad_buffered {k : Nat} {e : StoreEntry} (hsb : sbLatest (s.twin (s.twinOf h)).sbuf pa n = some (k, e))
    (hcov : e.covers pa n = true) (ca : Nat) :
    s.cachedLoad h pa n ca = (s, .data (sliceBytes e.data (pa - e.pa) n) false false) := by
  have hsearch : s.sbSearch h pa n = (s, some (sliceBytes e.data (pa - e.pa) n)) := by
    unfold State.sbSearch
    rw [hsb]
    exact if_pos hcov
  unfold State.cachedLoad
  dsimp only
  rw [hsearch]

end

/-- A load with UP that is legal: its base is not w0, and not the register that it writes (R279). -/
theorem loadUp_legal {kind : LoadKind} {rd ra : RegNo} {up : Bool} (hup : up = true → ra ≠ 0 ∧ (ra ≠ rd ∨ kind = .q)) :
    (if up && (decide (ra = 0) || (decide (ra = rd) && !(loadVec kind))) then some 0x01 else none : Option Nat) = none := by
  refine if_neg fun hbad => ?_
  rw [Bool.and_eq_true, Bool.or_eq_true, Bool.and_eq_true, decide_eq_true_iff, decide_eq_true_iff] at hbad
  obtain ⟨hu, h0 | ⟨hsame, hvec⟩⟩ := hbad
  · exact (hup hu).1 h0
  · rcases (hup hu).2 with hne | hq
    · exact hne hsame
    · rw [hq] at hvec
      exact Bool.false_ne_true hvec

/-- Settles O10: the three forms by the one lemma on loads, LOAD_RETURN by its definition, DRAM by the search of the buffer. -/
theorem loadsReadTheirBytes : Obligations.LoadsReadTheirBytes := by
  unfold Obligations.LoadsReadTheirBytes
  refine ⟨fun h kind rd ra rb up disp scale miss s t l b late hr => ?_, fun h n s m rest => ⟨fun hdrop htag hpll => ?_, fun hno => ?_⟩,
    fun pa n ca k via e h s => ⟨fun harea hp hsb => ?_, fun harea hsb hcov => ?_⟩⟩
  · dsimp only
    refine ⟨fun ⟨ha, hhost, hl⟩ hup => congrArg Host.Outcome.next ?_, fun ⟨ha, hhost, hl⟩ => congrArg Host.Outcome.next ?_,
      fun hal hkind ⟨ha, hhost, hl⟩ => congrArg Host.Outcome.next ?_⟩
    · rw [hr.regNow]
      refine (State.run_load hr h.isLt (loadUp_legal hup)
        (Hewer.baseUpdate_updates up ra ((s.hew h).getW ra + disp.signExtend 64)) ha hhost hl rfl).trans ?_
      exact State.completes_loadEnd _ _ _ _ _ _
    · rw [hr.regNow, hr.regNow]
      exact (State.run_load hr h.isLt rfl Hewer.id_updates ha hhost hl rfl).trans (State.completes_loadEnd _ _ _ _ _ _)
    · subst hkind
      rw [hr.regNow]
      refine State.run_load (miss := false) hr h.isLt rfl (Hewer.setW_updates 30 ((s.hew h).getW 30 + 8)) ha hhost hl ?_
      rw [hal]
      rfl
  · unfold exec execLoadReturn
    dsimp only
    rw [hdrop]
    dsimp only
    rw [htag, hpll]
    rfl
  · unfold exec execLoadReturn
    dsimp only
    split
    · rfl
    · next m' rest' hcons =>
      rcases hno with hnil | hpll
      · rw [hnil] at hcons
        cases hcons
      · rw [hpll, Bool.not_false, Bool.or_true]
        rfl
  · refine ⟨_, _, State.loadPieces_dram harea (State.cachedLoad_memory harea hp hsb ca), ?_, ?_⟩
    · exact State.mem_of_beside (s.dataLine_beside h _ _ _ _)
    · exact State.hewers_of_beside (s.dataLine_beside h _ _ _ _)
  · exact State.loadPieces_dram harea (State.cachedLoad_buffered hsb hcov ca)

end Sys2Proof.Machine

/-!
PROOFS. A write of the decode table while the hub's fabric is off (R47, R393, R837): the fault that it raises, and the refutation.

The registers of the decode table lie in D1. The statement asks for D0 alone, which R748 never switches, and for a hewer that can make
an IO access, whose shaft is a domain of its own. R749 keeps D1 on while a shaft is on, but no hypothesis of the statement does. With
D1 off the write is refused with reason 5 and does not go into flight.
-/
namespace Sys2Proof.Machine

/-! ### The fault -/

theorem regCovering_cfgCdtWord_width : (regCovering Adr.CFG_CDT_WORD).map RegDesc.width = some 64 := by decide +kernel

/-- Of an access of 8 bytes that the privilege permits, D1 off is the check of R438 that fails. -/
theorem State.ioReason_cfgCdtWord_off {s : State} {h : Nat} {isWrite : Bool} (hpermit : s.ioPermitted h Adr.CFG_CDT_WORD 8 isWrite = true)
    (hoff : s.domainOn 1 = false) : s.ioReason (some h) Adr.CFG_CDT_WORD 8 isWrite = some 5 := by
  obtain ⟨d, hcover, hwidth⟩ := Option.map_eq_some_iff.mp regCovering_cfgCdtWord_width
  have hdomain : s.domainOn (regDomain Adr.CFG_CDT_WORD) = false := hoff
  have hbelow : ¬ ioTop ≤ Adr.CFG_CDT_WORD := by decide
  simp [State.ioReason, hbelow, hcover, hpermit, hwidth, hdomain]

/-- Outside U, a hewer's write of CFG_CDT_WORD while D1 is off raises exception 0x14 with reason 5 (R47, R837). -/
theorem cfgCdtWordWrite_faults_of_off {s : State} {j : HewerId} (v : Word) (hio : s.executesIo j = true) (hpl : (s.hew j).pl ≠ 0)
    (hoff : s.domainOn 1 = false) :
    exec (.cfgCdtWordWrite (.hewer j) v) s = .next (s.ioFault j 5 Adr.CFG_CDT_WORD) := by
  have hpermit : s.ioPermitted j Adr.CFG_CDT_WORD 8 true = true := by simp [State.ioPermitted, hpl]
  have haligned : Adr.CFG_CDT_WORD % 8 = 0 := rfl
  show Host.Outcome.next (s.hewerIo j Adr.CFG_CDT_WORD 8 v.toNat) = _
  simp [State.hewerIo, hio, haligned, State.ioReason_cfgCdtWord_off hpermit hoff]

/-! ### The state -/

/-- After reset with D0 and the shafts D12 to D19 on and every other domain off, hewer 0 executes in M. -/
def fabricOff : State :=
  { State.reset with
    regs := [(Adr.PWR_DOM_STATE, 0xFF001)]
    hewers := [(0, { Hewer.reset with started := true })] }

theorem fabricOff_io : fabricOff.executesIo (0 : HewerId) = true := by decide +kernel

theorem fabricOff_pl : (fabricOff.hew (0 : HewerId)).pl = 3 := by decide +kernel

theorem fabricOff_domains : fabricOff.domainOn 0 = true ∧ fabricOff.domainOn 1 = false := by decide +kernel

/-- The fault brings no write into flight. -/
theorem fabricOff_fault_inFlight : (fabricOff.ioFault (0 : HewerId) 5 Adr.CFG_CDT_WORD).cdt.inFlight = [] := by decide +kernel

/-- Refutes O26: with D0 on and D1 off, a write of CFG_CDT_WORD from M raises exception 0x14 and does not go into flight. -/
theorem not_customerInstructions : ¬ Obligations.CustomerInstructions := by
  rintro ⟨-, hhub, -⟩
  obtain ⟨hon, hoff⟩ := fabricOff_domains
  have hpl : (fabricOff.hew (0 : HewerId)).pl ≠ 0 := by rw [fabricOff_pl]; decide
  obtain ⟨⟨y, hexec, ⟨hflight, -⟩, -⟩, -⟩ := (hhub 0 0 0 fabricOff fabricOff_io hon).1 fabricOff_pl
  rw [cfgCdtWordWrite_faults_of_off 0 fabricOff_io hpl hoff] at hexec
  injection hexec with hy
  rw [← hy, fabricOff_fault_inFlight] at hflight
  exact absurd hflight.symm (List.concat_ne_nil _ _)

end Sys2Proof.Machine

/-!
PROOFS. The fold of physical addresses onto channels, banks, rows and columns (R504, R506, R507): the channel and the channel offset of
an address give it back, and the bank, row and column of a line give its line index back, with the hash or without it.
-/
namespace Sys2Proof.Machine

/-! ### The grain -/

theorem State.grain_pos (s : State) : 0 < s.grain := Nat.two_pow_pos _

/-- A grain holds whole lines. -/
theorem State.line_dvd_grain (s : State) : 64 ∣ s.grain := by
  unfold State.grain
  exact (pow_dvd_pow 2 (by omega : 6 ≤ 8 + _) :)

theorem State.channelOf_eq (s : State) (a : Nat) : s.channelOf a = a / s.grain % 32 := rfl

theorem State.channelOf_lt (s : State) (a : Nat) : s.channelOf a < 32 := Nat.mod_lt _ (by omega)

/-! ### Channel and channel offset -/

theorem State.chanOffset_div_grain (s : State) (a : Nat) : s.chanOffset a / s.grain = a / s.grain / 32 := by
  unfold State.chanOffset
  rw [Nat.add_comm, Nat.add_mul_div_right _ _ s.grain_pos, Nat.div_eq_of_lt (Nat.mod_lt _ s.grain_pos), Nat.zero_add,
    Nat.mul_comm 32, Nat.div_div_eq_div_mul]

theorem State.chanOffset_mod_grain (s : State) (a : Nat) : s.chanOffset a % s.grain = a % s.grain := by
  unfold State.chanOffset
  rw [Nat.mul_add_mod_self_right, Nat.mod_mod]

/-- Grain 32 n + c of the address space is grain n of channel c. -/
theorem State.physOf_channelOf_chanOffset (s : State) (a : Nat) : s.physOf (s.channelOf a) (s.chanOffset a) = a := by
  unfold State.physOf
  rw [s.chanOffset_div_grain, s.chanOffset_mod_grain, s.channelOf_eq]
  calc a / s.grain / 32 * (32 * s.grain) + a / s.grain % 32 * s.grain + a % s.grain
      = (32 * (a / s.grain / 32) + a / s.grain % 32) * s.grain + a % s.grain := by ring
    _ = a := by rw [Nat.div_add_mod, Nat.div_add_mod']

/-- The line of the address space that line `co / 64` of a channel is. -/
theorem State.physOf_line (s : State) (c co : Nat) : s.physOf c co / 64
    = co / 64 / (s.grain / 64) * (32 * (s.grain / 64)) + c * (s.grain / 64) + co / 64 % (s.grain / 64) := by
  obtain ⟨m, hm⟩ := s.line_dvd_grain
  unfold State.physOf
  rw [hm, Nat.mul_div_cancel_left m (by omega), ← Nat.div_div_eq_div_mul,
    show co / 64 / m * (32 * (64 * m)) + c * (64 * m) = 64 * (co / 64 / m * (32 * m) + c * m) by ring,
    Nat.mul_add_div (by omega), Nat.mod_mul_right_div_self]

/-! ### Bank, row and column -/

theorem State.bankOf_lt (s : State) (li : Nat) : s.bankOf li < 16 := by
  have hbank : li / 32 % 16 < 2 ^ 4 := Nat.mod_lt _ (by omega)
  have hrow : li / 512 % 16 < 2 ^ 4 := Nat.mod_lt _ (by omega)
  unfold State.bankOf
  dsimp only
  split
  · exact Nat.xor_lt_two_pow hbank hrow
  · exact hbank

/-- Within one row the bank tells the four bits of the line index that it stands for: the hash is the same on both sides. -/
theorem State.bankOf_injective_in_row (s : State) {i j : Nat} (hrow : i / 512 = j / 512) (hbank : s.bankOf i = s.bankOf j) :
    i / 32 % 16 = j / 32 % 16 := by
  unfold State.bankOf at hbank
  dsimp only at hbank
  rw [hrow] at hbank
  split at hbank
  · exact Nat.xor_left_injective hbank
  · exact hbank

theorem State.lineIndex_injective (s : State) {i j : Nat} (hbank : s.bankOf i = s.bankOf j) (hrow : i / 512 = j / 512)
    (hcolumn : i % 32 = j % 32) : i = j := by
  have hmid := s.bankOf_injective_in_row hrow hbank
  omega

theorem State.line_of_dramLoc (s : State) {a b : Nat} (h : s.dramLoc a = s.dramLoc b) : a / 64 = b / 64 := by
  obtain ⟨hchannel, hbank, hrow, hcolumn⟩ := DramLoc.mk.inj h
  have hline := s.lineIndex_injective hbank hrow hcolumn
  rw [← s.physOf_channelOf_chanOffset a, ← s.physOf_channelOf_chanOffset b, s.physOf_line, s.physOf_line, hchannel, hline]

/-- Settles O47: the offset within a channel and the line index are both recovered by division, and the hash of the bank is undone by
the row that it was made with. -/
theorem addressMapInjective : Obligations.AddressMapInjective := by
  intro s a b
  exact ⟨s.physOf_channelOf_chanOffset a, s.line_of_dramLoc, s.channelOf_lt a, s.bankOf_lt _, Nat.mod_lt _ (by omega)⟩

end Sys2Proof.Machine

/-!
PROOFS. A check-bit cache whose victim names a channel that the device does not have (R511, R513, R527): the record that its write-back
brings about, and the refutation.

The statement speaks of every state, and nothing in it bounds the tags of the check-bit caches. A full set writes its dirty victim back at
the channel that the tag names; where that ACT reaches FDP_THRESH, the response goes to MEM_CHc_FDP_LOG of this channel. For a number above
31 the address is another register: for 0x5FF00 it is FLT_LOG_BASE. The fault ring, off before, is then on, and the firedamp record goes
to DRAM. The commands make tags of channels below 32 only, but no hypothesis of the statement says so, and the canonical form of a
state does not either.
-/
namespace Sys2Proof.Machine

/-- The number for which MEM_CHc_FDP_LOG, at 0x06010010 + c × 0x100, has the address 0x0C000010 of FLT_LOG_BASE. -/
def strayChannel : Nat := 0x5FF00

/-- After reset with D3 on and trained, the firedamp monitor on with FDP_THRESH 2, the check set of line 0 full of dirty lines of the stray
channel, and one ACT of their row in its table. -/
def strayCheck : State :=
  { State.reset with
    regs := [(Adr.MEM_STATUS, 2), (Adr.MEM_FDP_CTL, 0x80020000), (Adr.PWR_DOM_STATE, 8)]
    mc := { State.reset.mc with
      chans := [(strayChannel, { Channel.reset with banks := [(0, { BankState.reset with table := [⟨0, 1, srcDevice, 1⟩] })] })]
      check := [(0, List.replicate 16 (checkTag strayChannel 0, true))] } }

/-- Its fault ring is off. -/
theorem strayCheck_logSize : strayCheck.logSize = 0 := by decide +kernel

/-- Line 0 can be served, and no queue lists it. -/
theorem strayCheck_reads : (strayCheck.mayServe 0 = true ∧ (strayCheck.dchan (strayCheck.channelOf 0)).burst = 0)
    ∧ strayCheck.canServe (strayCheck.channelOf 0) (strayCheck.reqOf 0 0 false) = true
    ∧ (strayCheck.dchan (strayCheck.channelOf 0)).rq = [] := by decide +kernel

/-- Where the ring begins once FLT_LOG_BASE holds the response, the record of the trigger has its code in DW1 [39:32]. -/
theorem strayCheck_record : (nextState (exec (.dramRead 0 0 (.corrected 0) .clean false) strayCheck)).map
    (fun t => t.mem.byte (0x3C000000 + 12)) = some 0x42 := by decide +kernel

/-- Refutes O48: with the fault ring off, a read with a corrected unit writes a fault record to DRAM, where the check line that it replaces
is dirty and its tag names no channel of the device. -/
theorem not_dramReadsAndScrubs : ¬ Obligations.DramReadsAndScrubs := by
  rintro ⟨hlines, -⟩
  obtain ⟨hreads, hserve, hqueue⟩ := strayCheck_reads
  obtain ⟨-, -, -, -, -, -, -, -, -, -, hunlisted⟩ := hlines 0 0 strayCheck
  obtain ⟨hunmarked, -⟩ := hunlisted hreads hserve (congrArg (List.any · _) hqueue)
  obtain ⟨-, -, hcorrected⟩ := hunmarked rfl rfl
  obtain ⟨t, hexec, hkeeps⟩ := hcorrected 0
  obtain ⟨hbytes, -⟩ := hkeeps strayCheck_logSize
  have hrecord := strayCheck_record
  rw [show exec (.dramRead 0 0 (.corrected 0) .clean false) strayCheck = .next t from hexec, nextState_next, Option.map_some,
    hbytes] at hrecord
  exact absurd hrecord (by decide +kernel)

end Sys2Proof.Machine

/-!
PROOFS. The banks of a channel (R505, R517 to R534): what their updates read back and leave alone, and what an access at the hub leaves of
a channel.
-/
namespace Sys2Proof.Machine

/-! ### Channels and banks after an update -/

@[simp] theorem State.setDchan_dchan_same (s : State) (c : Nat) (x : Channel) : (s.setDchan c x).dchan c = x := Table.get_set_same _ _ _ _

theorem State.setDchan_dchan_other (s : State) {c d : Nat} (x : Channel) (h : d ≠ c) : (s.setDchan c x).dchan d = s.dchan d :=
  Table.get_set_other _ _ _ _ h

@[simp] theorem State.setFld_dchan (s : State) (f : IoField) (v c : Nat) : (s.setFld f v).dchan c = s.dchan c := rfl

@[simp] theorem State.setFld_bank (s : State) (f : IoField) (v c b : Nat) : (s.setFld f v).bank c b = s.bank c b := rfl

@[simp] theorem State.count_bank (s : State) (f : IoField) (n c b : Nat) : (s.count f n).bank c b = s.bank c b := rfl

@[simp] theorem State.setBank_bank_same (s : State) (c b : Nat) (x : BankState) : (s.setBank c b x).bank c b = x := by
  unfold State.setBank State.bank
  rw [State.setDchan_dchan_same]
  exact Table.get_set_same _ _ _ _

@[simp] theorem State.modBank_bank_same (s : State) (c b : Nat) (f : BankState → BankState) :
    (s.modBank c b f).bank c b = f (s.bank c b) :=
  State.setBank_bank_same _ _ _ _

/-- What holds of a bank after reset and of every bank that `f` has changed holds of each bank once all are changed. -/
theorem banks_changed {P : BankState → Prop} {f : BankState → BankState} (hreset : P BankState.reset) (hf : ∀ x, P (f x))
    (t : Table BankState) (b : Nat) : P (Table.get (t.filterMap (fun e =>
      let x := f e.2
      if x = BankState.reset then none else some (e.1, x))) BankState.reset b) := by
  rcases Table.get_default_or_mem (t.filterMap (fun e =>
    let x := f e.2
    if x = BankState.reset then none else some (e.1, x))) BankState.reset b with hd | hm
  · rw [hd]
    exact hreset
  · obtain ⟨e, -, he⟩ := List.mem_filterMap.mp hm
    dsimp only at he
    split at he
    · cases he
    · rw [← (Prod.mk.inj (Option.some.inj he)).2]
      exact hf e.2

theorem State.closeRows_bank (s : State) (c b : Nat) : ((s.closeRows c).bank c b).openRow = none := by
  unfold State.closeRows State.bank
  rw [State.setDchan_dchan_same]
  exact banks_changed (P := fun x => x.openRow = none) (f := fun x => { x with openRow := none }) rfl (fun _ => rfl) _ b

/-! ### ACTs and the firedamp table (R525, R528) -/

/-- A source that no throttle holds leaves the throttles as they are. -/
theorem BankState.noteAct_throttled {x : BankState} {src : Nat} (h : x.throttleOf src = none) (us : Nat) :
    (x.noteAct src us).throttled = x.throttled := by
  have hsrc : ∀ e ∈ x.throttled, e.1 ≠ src := by
    have hfind : x.throttled.find? (fun e => e.1 = src) = none := by
      unfold BankState.throttleOf at h
      cases hf : x.throttled.find? (fun e => e.1 = src) with
      | none => rfl
      | some e =>
        rw [hf] at h
        cases hb : x.bankThrottle <;> rw [hb] at h <;> cases h
    intro e he
    simpa using List.find?_eq_none.mp hfind e he
  exact (List.map_congr_left fun e he => if_neg (hsrc e he)).trans (List.map_id _)

/-- The bank once an ACT has opened a row for a source. -/
def State.opened (s : State) (c b row src : Nat) : BankState :=
  { (s.bank c b).noteAct src s.time.us with openRow := some row, lastCyc := s.time.cyc }

theorem State.activate_unmonitored {s : State} (h : s.flag F.MEM_FDP_CTL.FDP_EN = false) (c b row src : Nat) :
    s.activate c b row src = s.setBank c b (s.opened c b row src) := by
  unfold State.activate
  dsimp only
  rw [h]
  rfl

/-- Below the threshold the monitor keeps the entry that the ACT updates, and does nothing else. -/
theorem State.activate_counted {s : State} {c b row src i : Nat} {e : FdpEntry} (hen : s.flag F.MEM_FDP_CTL.FDP_EN = true)
    (hpick : fdpPick (s.bank c b).table row src = (i, e)) (hbelow : (e.voteFor src).count < s.fld F.MEM_FDP_CTL.FDP_THRESH) :
    (s.activate c b row src).bank c b
        = { s.opened c b row src with table := putEntry (s.bank c b).table i (e.voteFor src) }
      ∧ (s.activate c b row src).regs = s.regs := by
  have hit : decide (s.fld F.MEM_FDP_CTL.FDP_THRESH ≤ (e.voteFor src).count) = false := decide_eq_false (by omega)
  unfold State.activate
  dsimp only
  rw [hen, hpick]
  dsimp only
  rw [hit]
  refine ⟨?_, rfl⟩
  simp [State.opened]

theorem FdpEntry.voteFor_row (e : FdpEntry) (src : Nat) : (e.voteFor src).row = e.row := by
  unfold FdpEntry.voteFor
  split
  · rfl
  · split <;> rfl

theorem FdpEntry.voteFor_count (e : FdpEntry) (src : Nat) : (e.voteFor src).count = e.count := by
  unfold FdpEntry.voteFor
  split
  · rfl
  · split <;> rfl

theorem fdpPick_tracked {t : List FdpEntry} {row i : Nat} {e : FdpEntry} (hi : t.findIdx? (fun e => e.row = row) = some i)
    (he : t[i]? = some e) (src : Nat) : fdpPick t row src = (i, { e with count := e.count + 1 }) := by
  unfold fdpPick
  rw [hi]
  simp [List.getD, he]

theorem fdpPick_free {t : List FdpEntry} {row : Nat} (hi : t.findIdx? (fun e => e.row = row) = none) (hroom : t.length < 64) (src : Nat) :
    fdpPick t row src = (t.length, ⟨row, 1, src, 0⟩) := by
  unfold fdpPick
  rw [hi]
  exact if_pos hroom

theorem findIdx?_row {t : List FdpEntry} {row i : Nat} {e : FdpEntry} (hi : t.findIdx? (fun e => e.row = row) = some i)
    (he : t[i]? = some e) : i < t.length ∧ e.row = row := by
  obtain ⟨hlt, hrow, -⟩ := List.findIdx?_eq_some_iff_getElem.mp hi
  rw [List.getElem?_eq_getElem hlt, Option.some.injEq] at he
  exact ⟨hlt, by rw [← he]; exact of_decide_eq_true hrow⟩

/-! ### The end of a firedamp window (R529) -/

/-- A bank without a firedamp entry and without a throttle. -/
def BankState.Cleared (x : BankState) : Prop := x.table = [] ∧ x.throttled = [] ∧ x.bankThrottle = none

theorem State.showThrottles_dchan (s : State) (c d : Nat) : (s.showThrottles c).dchan d = s.dchan d := by
  unfold State.showThrottles
  rw [State.setFld_dchan, State.setFld_dchan]

theorem State.clearFdp_bank (s : State) (c b : Nat) : ((s.clearFdp c).bank c b).Cleared := by
  unfold State.clearFdp State.bank
  rw [State.showThrottles_dchan, State.setDchan_dchan_same]
  exact banks_changed (P := BankState.Cleared) (f := fun x => { x with table := [], throttled := [], bankThrottle := none })
    ⟨rfl, rfl, rfl⟩ (fun _ => ⟨rfl, rfl, rfl⟩) _ b

theorem State.clearFdp_dchan_other (s : State) {c d : Nat} (h : d ≠ c) : (s.clearFdp c).dchan d = s.dchan d := by
  unfold State.clearFdp
  rw [State.showThrottles_dchan, State.setDchan_dchan_other s _ h]

theorem State.clearFdps_dchan_below (s : State) (n c : Nat) {d : Nat} (h : d < c) : (s.clearFdps n c).dchan d = s.dchan d := by
  induction n generalizing s c with
  | zero => rfl
  | succ n ih => exact (ih _ _ (by omega)).trans (s.clearFdp_dchan_other (by omega))

theorem State.clearFdps_bank (s : State) (n c b : Nat) {d : Nat} (hc : c ≤ d) (hd : d < c + n) :
    ((s.clearFdps n c).bank d b).Cleared := by
  induction n generalizing s c with
  | zero => omega
  | succ n ih =>
    rcases Nat.eq_or_lt_of_le hc with heq | hlt
    · subst heq
      have hkept : ((s.clearFdp c).clearFdps n (c + 1)).bank c b = (s.clearFdp c).bank c b :=
        congrArg (fun x : Channel => Table.get x.banks BankState.reset b) (State.clearFdps_dchan_below _ n (c + 1) (Nat.lt_succ_self c))
      exact hkept ▸ s.clearFdp_bank c b
    · exact ih (s.clearFdp c) (c + 1) hlt (by omega)

/-! ### What an access at the hub leaves of a channel -/

/-- A channel without what its queues hold. -/
def Channel.unqueued (x : Channel) : Channel := { x with rq := [], wq := [] }

/-- Every channel without what its queues hold. -/
def State.channels (s : State) : Nat → Channel := fun c => (s.dchan c).unqueued

theorem State.channels_of_chans {s t : State} (h : t.mc.chans = s.mc.chans) : t.channels = s.channels := by
  unfold State.channels State.dchan
  rw [h]

theorem State.setDchan_channels (s : State) (c : Nat) {x : Channel} (h : x.unqueued = (s.dchan c).unqueued) :
    (s.setDchan c x).channels = s.channels := by
  funext d
  unfold State.channels
  by_cases hd : d = c
  · rw [hd, State.setDchan_dchan_same, h]
  · rw [State.setDchan_dchan_other s x hd]

@[simp] theorem State.reqPut_channels (s : State) (line src : Nat) (write : Bool) : (s.reqPut line src write).channels = s.channels := by
  unfold State.reqPut
  dsimp only
  split
  · rfl
  · refine s.setDchan_channels _ ?_
    cases write <;> rfl

@[simp] theorem State.mscUse_channels (s : State) (line src : Nat) (write whole : Bool) :
    (s.mscUse line src write whole).channels = s.channels := by
  have hput (l : List (Nat × Bool)) (u : State) : (l.foldl (fun t e => t.reqPut e.1 srcDevice true) u).channels = u.channels :=
    foldl_leaves State.channels _ (fun t (e : Nat × Bool) => t.reqPut_channels e.1 srcDevice true) l u
  unfold State.mscUse
  split
  · rfl
  · split
    · exact s.reqPut_channels line src write
    · dsimp only
      split
      · rfl
      · refine (hput _ _).trans ?_
        split
        · rfl
        · exact s.reqPut_channels line src false

@[simp] theorem State.galleryDrop_mc (s : State) (g line : Nat) (keep : Option Nat) : (s.galleryDrop g line keep).mc = s.mc :=
  foldl_leaves State.mc (fun t i => t.modTwin i (fun x => x.l1dDrop line)) (fun _ _ => rfl) _ s

@[simp] theorem State.galleryClean_mc (s : State) (g line : Nat) (keep : Option Nat) : (s.galleryClean g line keep).mc = s.mc :=
  foldl_leaves State.mc (fun t i => t.modTwin i (fun x => x.l1dClean line)) (fun _ _ => rfl) _ s

theorem State.galleryDrop_channels (s : State) (g line : Nat) (keep : Option Nat) : (s.galleryDrop g line keep).channels = s.channels :=
  State.channels_of_chans (congrArg McState.chans (s.galleryDrop_mc g line keep))

theorem State.galleryClean_channels (s : State) (g line : Nat) (keep : Option Nat) : (s.galleryClean g line keep).channels = s.channels :=
  State.channels_of_chans (congrArg McState.chans (s.galleryClean_mc g line keep))

theorem State.l2Mod_channels (s : State) (g line : Nat) (f : L2Line → L2Line) : (s.l2Mod g line f).channels = s.channels :=
  State.channels_of_chans rfl

@[simp] theorem State.l2WriteBack_channels (s : State) (g line src : Nat) : (s.l2WriteBack g line src).channels = s.channels := by
  unfold State.l2WriteBack
  simp only [apply_ite State.channels, State.mscUse_channels, State.l2Mod_channels, State.galleryClean_channels, ite_self]

@[simp] theorem State.l2Drop_channels (s : State) (g line src : Nat) (keepTag : Bool) :
    (s.l2Drop g line src keepTag).channels = s.channels :=
  calc (s.l2Drop g line src keepTag).channels
      = ((s.l2WriteBack g line src).galleryDrop g line none).channels := State.channels_of_chans rfl
    _ = s.channels := by rw [State.galleryDrop_channels, State.l2WriteBack_channels]

@[simp] theorem State.invalidateLine_channels (s : State) (line src : Nat) (keep : Option Nat) :
    (s.invalidateLine line src keep).channels = s.channels :=
  foldl_leaves State.channels (fun t g => t.l2Drop g line src true) (fun t g => t.l2Drop_channels g line src true) _ s

@[simp] theorem State.shareLine_channels (s : State) (line src : Nat) : (s.shareLine line src).channels = s.channels :=
  (State.channels_of_chans rfl).trans
    (foldl_leaves State.channels (fun t g => t.l2WriteBack g line src) (fun t g => t.l2WriteBack_channels g line src) _ s)

@[simp] theorem State.hubUse_channels (s : State) (line src : Nat) (write : Bool) : (s.hubUse line src write).channels = s.channels := by
  unfold State.hubUse
  rw [State.mscUse_channels]
  split
  · exact s.invalidateLine_channels line src none
  · split
    · rfl
    · exact s.shareLine_channels line src

@[simp] theorem State.hubAccess_channels (s : State) (a n src : Nat) (write : Bool) : (s.hubAccess a n src write).channels = s.channels :=
  foldl_leaves State.channels (fun t k => t.hubUse k src write) (fun t k => t.hubUse_channels k src write) _ s

/-! ### What a fault record leaves of a channel -/

@[simp] theorem State.rawWrite_mc (s : State) (a : Nat) (l : List Byte) : (s.rawWrite a l).mc = s.mc := by
  induction l generalizing s a with
  | nil => rfl
  | cons b rest ih => exact ih _ _

@[simp] theorem State.setPba_mc (s : State) (f vec : Nat) (on : Bool) : (s.setPba f vec on).mc = s.mc := by
  unfold State.setPba
  split <;> rfl

@[simp] theorem State.sendMsix_mc (s : State) (f vec : Nat) : (s.sendMsix f vec).mc = s.mc := by
  unfold State.sendMsix
  dsimp only
  split
  · rfl
  · split
    · split <;> exact s.setPba_mc f vec true
    · split
      · rfl
      · split
        · exact s.setPba_mc f vec true
        · rfl

@[simp] theorem State.notify_mc (s : State) (bits : Nat) : (s.notify bits).mc = s.mc := by
  unfold State.notify
  dsimp only
  split
  · exact State.sendMsix_mc _ _ _
  · rfl

@[simp] theorem State.bufferRecord_mc (s : State) (r : FaultRec) : (s.bufferRecord r).mc = s.mc := by
  unfold State.bufferRecord
  split
  · rfl
  · exact s.count_mc F.FLT_COUNTS.DROPPED 1

theorem State.setFld_channels (s : State) (f : IoField) (v : Nat) : (s.setFld f v).channels = s.channels := rfl

theorem State.dmaWriteBy_channels (s : State) (src a : Nat) (l : List Byte) : (s.dmaWriteBy src a l).channels = s.channels := by
  have hbytes := State.rawWrite_mc (s.hubAccess a l.length src true) a l
  exact (State.channels_of_chans (congrArg McState.chans hbytes)).trans (s.hubAccess_channels a l.length src true)

@[simp] theorem State.logWrite_channels (s : State) (r : FaultRec) : (s.logWrite r).channels = s.channels := by
  unfold State.logWrite State.dmaWrite
  rw [State.setFld_channels, State.dmaWriteBy_channels]

@[simp] theorem State.logRecord_channels (s : State) (r : FaultRec) : (s.logRecord r).channels = s.channels := by
  have hnotify (bits : Nat) : (s.notify bits).channels = s.channels := State.channels_of_chans (congrArg McState.chans (s.notify_mc bits))
  unfold State.logRecord
  dsimp only
  split
  · rfl
  · split
    · rw [State.logWrite_channels, hnotify]
    · rw [State.channels_of_chans (congrArg McState.chans (State.bufferRecord_mc _ r)), hnotify]

theorem State.log_channels (s : State) (loc code detail cls dw2 dw3 : Nat) : (s.log loc code detail cls dw2 dw3).channels = s.channels :=
  (State.logRecord_channels _ _).trans (State.channels_of_chans rfl)

end Sys2Proof.Machine

/-!
PROOFS. The commands of the memory controllers (R505, R519 to R529, R534): when each changes nothing, what it does otherwise, and the
settled statement.
-/
namespace Sys2Proof.Machine

section
variable {c : Fin 32} {b : Fin 16} {s : State}

/-! ### Channels that are not usable -/

theorem dramActivate_idle {row : BitVec 18} (h : s.channelOn c = false ∨ s.regionRow c b row.toNat = true) (src : BitVec 12) :
    exec (.dramActivate c b row src) s = .next s := by
  refine congrArg Host.Outcome.next (if_pos ?_)
  rcases h with h | h <;> simp [h]

theorem rfm_idle (h : s.channelOn c = false) : exec (.rfm c b) s = .next s :=
  congrArg Host.Outcome.next (if_neg (by simp [h]))

theorem refresh_idle (h : s.channelOn c = false) (due reads : Bool) : exec (.refresh c due reads) s = .next s :=
  congrArg Host.Outcome.next (if_pos (by simp [h]))

theorem mr4Poll_idle (h : s.channelOn c = false ∨ s.time.us < (s.dchan c).mr4Us + 4000) (rate : Fin 5) (mr4 : Byte) (high : Bool) :
    exec (.mr4Poll c rate mr4 high) s = .next s := by
  refine congrArg Host.Outcome.next (if_pos ?_)
  rcases h with h | h <;> simp [h]

theorem rowIdleClose_idle (h : s.channelOn c = false ∨ s.force c b ≠ 0
    ∨ ((s.dchan c).rq ++ (s.dchan c).wq).any (fun q => q.bank = b.val) = true
    ∨ ¬ s.fld F.MEM_CTL.PP_IDLE ≤ s.mclkSince (s.bank c b).lastCyc) : exec (.rowIdleClose c b) s = .next s := by
  refine congrArg Host.Outcome.next (if_neg ?_)
  rcases h with h | h | h | h
  · simp [h]
  · simp [h]
  · rw [h]
    simp
  · simp [h]

theorem zqCalibration_idle (h : s.channelOn c = false) : exec (.zqCalibration c) s = .next s :=
  congrArg Host.Outcome.next (if_neg (by simp [h]))

/-- Another channel of the group has retrained in this microsecond, or the channel is not usable. -/
theorem wck2dqiRetrain_idle (h : s.channelOn c = false ∨ ∃ i, i < 4 ∧ (s.dchan (c.val / 4 * 4 + i)).retrainUs = s.time.us)
    (rd wr : BitVec 16) : exec (.wck2dqiRetrain c rd wr) s = .next s := by
  refine congrArg Host.Outcome.next (if_neg ?_)
  rcases h with h | ⟨i, hi, hus⟩
  · simp [h]
  · have hheld : (List.range 4).any (fun i => decide ((s.dchan (c.val / 4 * 4 + i)).retrainUs = s.time.us)) = true :=
      List.any_eq_true.mpr ⟨i, List.mem_range.mpr hi, decide_eq_true hus⟩
    simp [hheld]

/-! ### ACTs and RFM -/

section
variable {row : BitVec 18} {src : BitVec 12} (hon : s.channelOn c = true) (hpll : s.pwr.pllLocked = true) (hrow : row.toNat < s.rowLimit)
  (hregion : s.regionRow c b row.toNat = false)
include hon hpll hrow hregion

theorem dramActivate_issues (hfree : (s.bank c b).throttleOf src.toNat = none) :
    exec (.dramActivate c b row src) s = .next (s.activate c b row.toNat src.toNat) := by
  refine congrArg Host.Outcome.next ((if_neg ?_).trans ?_)
  · simp [hon, hpll, hregion, hrow]
  · rw [hfree]

theorem dramActivate_throttled {u : Nat} (hheld : (s.bank c b).throttleOf src.toNat = some u) (hus : s.time.us < u + s.fdpInterval) :
    exec (.dramActivate c b row src) s = .next (s.count F.MEM_FDP_COUNTS.THROTTLED_ACTS 1) := by
  refine congrArg Host.Outcome.next ((if_neg ?_).trans ?_)
  · simp [hon, hpll, hregion, hrow]
  · rw [hheld]
    exact if_pos hus

theorem dramActivate_opens (hfree : (s.bank c b).throttleOf src.toNat = none) (hoff : s.flag F.MEM_FDP_CTL.FDP_EN = false) :
    ∃ t, exec (.dramActivate c b row src) s = .next t ∧ (t.bank c b).openRow = some row.toNat ∧ (t.bank c b).table = (s.bank c b).table
      ∧ t.mem = s.mem ∧ t.regs = s.regs := by
  refine ⟨_, dramActivate_issues hon hpll hrow hregion hfree, ?_⟩
  rw [State.activate_unmonitored hoff, State.setBank_bank_same]
  exact ⟨rfl, rfl, rfl, rfl⟩

theorem dramActivate_counts (hfree : (s.bank c b).throttleOf src.toNat = none) (hen : s.flag F.MEM_FDP_CTL.FDP_EN = true) {i : Nat}
    {e : FdpEntry} (hi : (s.bank c b).table.findIdx? (fun e => e.row = row.toNat) = some i) (he : (s.bank c b).table[i]? = some e)
    (hbelow : e.count + 1 < s.fld F.MEM_FDP_CTL.FDP_THRESH) :
    ∃ t, exec (.dramActivate c b row src) s = .next t ∧ (t.bank c b).openRow = some row.toNat
      ∧ ((t.bank c b).table[i]?).map (fun y => (y.row, y.count)) = some (row.toNat, e.count + 1)
      ∧ (t.bank c b).throttled = (s.bank c b).throttled ∧ t.regs = s.regs := by
  obtain ⟨hlt, hrow'⟩ := findIdx?_row hi he
  obtain ⟨hbank, hregs⟩ := State.activate_counted (src := src.toNat) hen (fdpPick_tracked hi he _)
    (by rw [FdpEntry.voteFor_count]; exact hbelow)
  refine ⟨_, dramActivate_issues hon hpll hrow hregion hfree, ?_⟩
  rw [hbank]
  refine ⟨rfl, ?_, BankState.noteAct_throttled hfree _, hregs⟩
  simp [putEntry, hlt, FdpEntry.voteFor_row, FdpEntry.voteFor_count, hrow']

theorem dramActivate_tracks (hfree : (s.bank c b).throttleOf src.toNat = none) (hen : s.flag F.MEM_FDP_CTL.FDP_EN = true)
    (hi : (s.bank c b).table.findIdx? (fun e => e.row = row.toNat) = none) (hroom : (s.bank c b).table.length < 64)
    (hbelow : 1 < s.fld F.MEM_FDP_CTL.FDP_THRESH) :
    ∃ t, exec (.dramActivate c b row src) s = .next t ∧ t.regs = s.regs
      ∧ (t.bank c b).table = (s.bank c b).table ++ [⟨row.toNat, 1, src.toNat, 1⟩] := by
  obtain ⟨hbank, hregs⟩ := State.activate_counted (src := src.toNat) hen (fdpPick_free hi hroom _)
    (by rw [FdpEntry.voteFor_count]; exact hbelow)
  refine ⟨_, dramActivate_issues hon hpll hrow hregion hfree, hregs, ?_⟩
  rw [hbank]
  simp [putEntry, FdpEntry.voteFor]

end

theorem rfm_closes (hon : s.channelOn c = true) (hpll : s.pwr.pllLocked = true) : ∃ t, exec (.rfm c b) s = .next t
    ∧ (t.bank c b).openRow = none ∧ (t.bank c b).rfmDue = false ∧ t.mem = s.mem
    ∧ t.fld (F.MEM_CH_ERR_COUNTS.RFM c) = min (s.fld (F.MEM_CH_ERR_COUNTS.RFM c) + 1)
      (2 ^ ((F.MEM_CH_ERR_COUNTS.RFM c).hi + 1 - (F.MEM_CH_ERR_COUNTS.RFM c).lo) - 1) := by
  refine ⟨_, congrArg Host.Outcome.next (if_pos (by simp [hon, hpll])), ?_⟩
  rw [State.count_bank, State.modBank_bank_same, State.fld_count _ _ _ IoField.fits]
  exact ⟨rfl, rfl, rfl, rfl⟩

/-! ### Refresh -/

/-- A due refresh first brings the polled multiplier into use; it is postponed where a read waits and the debt allows it. -/
theorem refresh_due (hon : s.channelOn c = true) (hpll : s.pwr.pllLocked = true) (reads : Bool) : exec (.refresh c true reads) s = .next
    (if (reads || !(s.dchan c).rq.isEmpty) && decide (s.fld (F.MEM_CH_STATUS.DEBT c) < s.postponeMax)
      then (s.newRate c).setFld (F.MEM_CH_STATUS.DEBT c) (s.fld (F.MEM_CH_STATUS.DEBT c) + 1) else (s.newRate c).closeRows c) :=
  congrArg Host.Outcome.next ((if_neg (by simp [hon, hpll])).trans (if_pos rfl))

theorem refresh_postponed (hon : s.channelOn c = true) (hpll : s.pwr.pllLocked = true) {reads : Bool}
    (hreads : reads = true ∨ (s.dchan c).rq ≠ []) (hdebt : s.fld (F.MEM_CH_STATUS.DEBT c) < s.postponeMax) :
    exec (.refresh c true reads) s
      = .next ((s.newRate c).setFld (F.MEM_CH_STATUS.DEBT c) (s.fld (F.MEM_CH_STATUS.DEBT c) + 1)) := by
  rw [refresh_due hon hpll, if_pos]
  rcases hreads with h | h <;> simp [h, hdebt]

theorem refresh_closes (hon : s.channelOn c = true) (hpll : s.pwr.pllLocked = true) {reads : Bool}
    (h : (reads = false ∧ (s.dchan c).rq = []) ∨ s.postponeMax ≤ s.fld (F.MEM_CH_STATUS.DEBT c)) :
    exec (.refresh c true reads) s = .next ((s.newRate c).closeRows c) := by
  rw [refresh_due hon hpll, if_neg]
  rcases h with ⟨hr, hq⟩ | h
  · simp [hr, hq]
  · simp [h]

theorem State.newRate_some {r : Nat} (hr : (s.dchan c).nextRate = some r) (h5 : r < 5) :
    (s.newRate c).fld (F.MEM_CH_STATUS.RATE c) = r ∧ ((s.newRate c).dchan c).nextRate = none := by
  unfold State.newRate
  rw [hr]
  dsimp only
  rw [State.setFld_dchan, State.setDchan_dchan_same, State.fld_setFld_same _ _ _ IoField.fits]
  exact ⟨Nat.mod_eq_of_lt (Nat.lt_trans h5 (by decide : 5 < 2 ^ 3)), rfl⟩

theorem State.newRate_none (hr : (s.dchan c).nextRate = none) : s.newRate c = s := by
  unfold State.newRate
  rw [hr]

@[simp] theorem State.newRate_mem (s : State) (c : Nat) : (s.newRate c).mem = s.mem := by
  unfold State.newRate
  split <;> rfl

theorem refresh_repays (hon : s.channelOn c = true) (hpll : s.pwr.pllLocked = true) (hrq : (s.dchan c).rq = []) (hwq : (s.dchan c).wq = [])
    (hdebt : s.fld (F.MEM_CH_STATUS.DEBT c) ≠ 0) : exec (.refresh c false false) s
      = .next ((s.closeRows c).setFld (F.MEM_CH_STATUS.DEBT c) (s.fld (F.MEM_CH_STATUS.DEBT c) - 1)) :=
  congrArg Host.Outcome.next ((if_neg (by simp [hon, hpll])).trans
    ((if_neg (by simp)).trans (if_neg (by simp [hrq, hwq, hdebt]))))

theorem refresh_owes_nothing (hon : s.channelOn c = true) (hpll : s.pwr.pllLocked = true) {reads : Bool}
    (h : s.fld (F.MEM_CH_STATUS.DEBT c) = 0 ∨ reads = true ∨ ¬ ((s.dchan c).rq = [] ∧ (s.dchan c).wq = [])) :
    exec (.refresh c false reads) s = .next s := by
  refine congrArg Host.Outcome.next ((if_neg (by simp [hon, hpll])).trans ((if_neg (by simp)).trans (if_pos ?_)))
  rcases h with h | h | h
  · simp [h]
  · simp [h]
  · rw [not_and_or] at h
    rcases h with h | h <;> simp [h]

theorem State.fld_debt_pred (s : State) (c : Nat) (t : State) :
    (t.setFld (F.MEM_CH_STATUS.DEBT c) (s.fld (F.MEM_CH_STATUS.DEBT c) - 1)).fld (F.MEM_CH_STATUS.DEBT c)
      = s.fld (F.MEM_CH_STATUS.DEBT c) - 1 := by
  rw [State.fld_setFld_same _ _ _ IoField.fits]
  exact Nat.mod_eq_of_lt (Nat.lt_of_le_of_lt (Nat.sub_le _ _) (bitsOf_lt _ _ _))

/-! ### Polls, calibration and retraining -/

/-- The channel as a poll of MR4 leaves it. -/
def Channel.polled (x : Channel) (us rate : Nat) (high : Bool) : Channel :=
  { x with hot := high, mr4Us := us, nextRate := some (if high then 4 else rate) }

theorem mr4Poll_takes (hon : s.channelOn c = true) (hpll : s.pwr.pllLocked = true) (hus : (s.dchan c).mr4Us + 4000 ≤ s.time.us)
    (rate : Fin 5) (mr4 : Byte) (high : Bool) : exec (.mr4Poll c rate mr4 high) s = .next
      (let s1 := s.setDchan c ((s.dchan c).polled s.time.us rate high)
       if high then s1.log 0xF00 0x43 0 0 0 (c * 2 ^ 59 + mr4.toNat * 2 ^ 51) else s1) :=
  congrArg Host.Outcome.next (if_neg (by simp [hon, hpll, hus]))

theorem mr4Poll_cool (hon : s.channelOn c = true) (hpll : s.pwr.pllLocked = true) (hus : (s.dchan c).mr4Us + 4000 ≤ s.time.us)
    (rate : Fin 5) (mr4 : Byte) : ∃ t, exec (.mr4Poll c rate mr4 false) s = .next t ∧ (t.dchan c).nextRate = some rate.val
      ∧ (t.dchan c).mr4Us = s.time.us ∧ t.regs = s.regs := by
  refine ⟨_, (mr4Poll_takes hon hpll hus rate mr4 false).trans (congrArg Host.Outcome.next (if_neg (by simp))), ?_⟩
  rw [State.setDchan_dchan_same]
  exact ⟨rfl, rfl, rfl⟩

/-- The record of the temperature goes to DRAM through the hub, which leaves the channel's poll as it is. -/
theorem mr4Poll_hot (hon : s.channelOn c = true) (hpll : s.pwr.pllLocked = true) (hus : (s.dchan c).mr4Us + 4000 ≤ s.time.us)
    (rate : Fin 5) (mr4 : Byte) : ∃ t, exec (.mr4Poll c rate mr4 true) s = .next t ∧ (t.dchan c).nextRate = some 4
      ∧ (t.dchan c).hot = true := by
  refine ⟨_, (mr4Poll_takes hon hpll hus rate mr4 true).trans (congrArg Host.Outcome.next (if_pos rfl)), ?_⟩
  have hchannel := congrFun (State.log_channels (s.setDchan c ((s.dchan c).polled s.time.us rate true)) 0xF00 0x43 0 0 0
    (c * 2 ^ 59 + mr4.toNat * 2 ^ 51)) c
  unfold State.channels at hchannel
  rw [State.setDchan_dchan_same] at hchannel
  exact ⟨congrArg Channel.nextRate hchannel, congrArg Channel.hot hchannel⟩

theorem rowIdleClose_closes (hon : s.channelOn c = true) (hpll : s.pwr.pllLocked = true) (hforce : s.force c b = 0)
    (hwaits : ((s.dchan c).rq ++ (s.dchan c).wq).any (fun q => q.bank = b.val) = false)
    (hidle : s.fld F.MEM_CTL.PP_IDLE ≤ s.mclkSince (s.bank c b).lastCyc) :
    ∃ t, exec (.rowIdleClose c b) s = .next t ∧ (t.bank c b).openRow = none ∧ (t.bank c b).history = (s.bank c b).history
      ∧ t.regs = s.regs := by
  refine ⟨_, congrArg Host.Outcome.next (if_pos ?_), ?_⟩
  · rw [hwaits]
    simp [hon, hpll, hforce, hidle]
  · rw [State.modBank_bank_same]
    exact ⟨rfl, rfl, rfl⟩

theorem zqCalibration_keeps_time (hon : s.channelOn c = true) (hpll : s.pwr.pllLocked = true)
    (hus : (s.dchan c).zqUs + 32000 ≤ s.time.us) : ∃ t, exec (.zqCalibration c) s = .next t ∧ (t.dchan c).zqUs = s.time.us
      ∧ (t.dchan c).banks = (s.dchan c).banks ∧ t.regs = s.regs := by
  refine ⟨_, congrArg Host.Outcome.next (if_pos (by simp [hon, hpll, hus])), ?_⟩
  rw [State.setDchan_dchan_same]
  exact ⟨rfl, rfl, rfl⟩

theorem wck2dqiRetrain_retrains (hon : s.channelOn c = true) (hpll : s.pwr.pllLocked = true) (hen : s.flag F.MEM_TRN_CTL.TRN_EN = true)
    (hn : 1 ≤ s.fld F.MEM_TRN_CTL.INTERVAL_MS)
    (hus : (s.dchan c).retrainUs + s.fld F.MEM_TRN_CTL.INTERVAL_MS * 1000 ≤ s.time.us)
    (hgroup : ∀ i, i < 4 → (s.dchan (c.val / 4 * 4 + i)).retrainUs ≠ s.time.us) (rd wr : BitVec 16) :
    ∃ t, exec (.wck2dqiRetrain c rd wr) s = .next t ∧ (t.dchan c).retrainUs = s.time.us ∧ (t.bank c b).openRow = none
      ∧ t.fld (F.MEM_CH_TRAIN.RD_DELAY c) = rd.toNat ∧ t.fld (F.MEM_CH_TRAIN.WR_DELAY c) = wr.toNat := by
  have hheld : (List.range 4).any (fun i => decide ((s.dchan (c.val / 4 * 4 + i)).retrainUs = s.time.us)) = false :=
    List.any_eq_false.mpr fun i hi => by simpa using hgroup i (List.mem_range.mp hi)
  have hn0 : s.fld F.MEM_TRN_CTL.INTERVAL_MS ≠ 0 := by omega
  refine ⟨_, congrArg Host.Outcome.next (if_pos ?_), ?_⟩
  · rw [hheld]
    simp [hen, hon, hpll, hn0, hus]
  · rw [State.setFld_dchan, State.setFld_dchan, State.setDchan_dchan_same, State.setFld_bank, State.setFld_bank,
      State.fld_setFld_other _ _ _ _ IoField.fits (.inr (.inl (Nat.lt_succ_self 15))), State.fld_setFld_same _ _ _ IoField.fits,
      State.fld_setFld_same _ _ _ IoField.fits]
    refine ⟨rfl, ?_, Nat.mod_eq_of_lt rd.isLt, Nat.mod_eq_of_lt wr.isLt⟩
    unfold State.bank
    rw [State.setDchan_dchan_same]
    exact s.closeRows_bank c b

/-! ### The end of a firedamp window -/

theorem firedampWindowEnd_d3 (h0 : s.channelOn 0 = true) (hus : s.mc.windowUs3 + 32000 ≤ s.time.us) :
    exec (.firedampWindowEnd false) s
      = .next ({ s with mc := { s.mc with windowUs3 := s.mc.windowUs3 + 32000 } }.clearFdps 16 0) :=
  congrArg Host.Outcome.next ((if_neg Bool.false_ne_true).trans (if_pos (by simp [h0, hus])))

theorem firedampWindowEnd_d4 (h16 : s.channelOn 16 = true) (hus : s.mc.windowUs4 + 32000 ≤ s.time.us) :
    exec (.firedampWindowEnd true) s
      = .next ({ s with mc := { s.mc with windowUs4 := s.mc.windowUs4 + 32000 } }.clearFdps 16 16) :=
  congrArg Host.Outcome.next ((if_pos rfl).trans (if_pos (by simp [h16, hus])))

end

/-- Settles O49, command by command: each writes one bank or one channel, which reads back, and a fault record reaches the queues of a
channel only. -/
theorem banksRefreshAndFiredamp : Obligations.BanksRefreshAndFiredamp := by
  intro c b s
  refine ⟨fun hoff => ⟨fun _ => dramActivate_idle (.inl hoff), rfm_idle hoff, refresh_idle hoff, mr4Poll_idle (.inl hoff),
    rowIdleClose_idle (.inl hoff), zqCalibration_idle hoff, wck2dqiRetrain_idle (.inl hoff)⟩, fun hon hpll => ?_⟩
  refine ⟨fun _ src hregion => dramActivate_idle (.inr hregion) src, fun row src hrow hregion => ⟨?_, ?_, ?_⟩, rfm_closes hon hpll,
    fun reads => ⟨?_, ?_, ?_, ?_, ?_, ?_⟩, fun hus => mr4Poll_idle (.inr hus), fun hus rate m => ⟨?_, ?_⟩, ⟨?_, ?_⟩,
    zqCalibration_keeps_time hon hpll, ?_, ?_, ?_, ?_⟩
  · exact dramActivate_opens hon hpll hrow hregion
  · exact fun hfree hen => ⟨fun _ _ => dramActivate_counts hon hpll hrow hregion hfree hen,
      dramActivate_tracks hon hpll hrow hregion hfree hen⟩
  · exact fun _ => dramActivate_throttled hon hpll hrow hregion
  · exact refresh_postponed hon hpll
  · exact fun h => ⟨_, refresh_closes hon hpll h, State.closeRows_bank _ c b, rfl, State.newRate_mem s c⟩
  · exact fun _ => State.newRate_some
  · exact State.newRate_none
  · rintro ⟨hrq, hwq⟩ rfl hdebt
    exact ⟨_, refresh_repays hon hpll hrq hwq hdebt, s.fld_debt_pred c _, s.closeRows_bank c b⟩
  · exact refresh_owes_nothing hon hpll
  · exact mr4Poll_cool hon hpll hus rate m
  · exact mr4Poll_hot hon hpll hus rate m
  · exact fun h => rowIdleClose_idle (.inr h)
  · exact rowIdleClose_closes hon hpll
  · exact fun rd wr hen hn hus hgroup => wck2dqiRetrain_retrains hon hpll hen hn hus hgroup rd wr
  · exact fun i hi hus => wck2dqiRetrain_idle (.inr ⟨i, hi, hus⟩)
  · exact fun hc h0 hus => ⟨_, firedampWindowEnd_d3 h0 hus, State.clearFdps_bank _ 16 0 b (Nat.zero_le c) (by omega)⟩
  · exact fun hc h16 hus => ⟨_, firedampWindowEnd_d4 h16 hus, State.clearFdps_bank _ 16 16 b hc (by omega)⟩

end Sys2Proof.Machine

/-!
PROOFS. A channel of number 32 or above whose write is ready when another channel's write issues (R541, R563, R565): the write that goes
first, and the refutation.

The statement means that no other channel's write is ready, and says so of the channels below 32. There are 64, and R565 serves those
that are ready in ascending number from the last one served, whatever their numbers. A ready channel above 31 that comes first in the
turn writes its unit too, outside the bytes that the statement names.
-/
namespace Sys2Proof.Machine

/-! ### The two channels -/

/-- A unit of one byte whose read has returned. -/
def readUnit (b : Byte) : SkpUnit := ⟨0, 0, 1, [], some [(b, false)], none, 0, none⟩

/-- A channel whose only row is issued, with this unit left to write. -/
def lastUnit (b : Byte) : SkpChannel := { SkpChannel.reset with units := [readUnit b], nextRow := 1 }

/-- After reset with D3 on and trained and D9 on, channel 32 copies one byte to address 64 and channel 40 one byte to address 0, each with
its last unit read. -/
def rivalChannels : State :=
  { State.reset with
    regs := [(Adr.MEM_STATUS, 2), (Adr.SKP_CH_STAT 32, 1), (Adr.SKP_CH_A_DST 32, 64), (Adr.SKP_CH_A_SIZE 32, 0x100000001),
      (Adr.SKP_CH_STAT 40, 1), (Adr.SKP_CH_A_SIZE 40, 0x100000001), (Adr.PWR_DOM_STATE, 0x208)]
    skp := [(32, lastUnit 0x32), (40, lastUnit 0x40)] }

/-- Channel 40 is moving, and has issued every row. -/
theorem rivalChannels_moves : rivalChannels.fld (F.SKP_CH_STAT.STATE (40 : Fin 64)) = 1 ∧ rivalChannels.skRuns = true
    ∧ rivalChannels.skRows (40 : Fin 64) ≤ 1 := by decide +kernel

/-- Its destination is a byte of DRAM that can be reached, and its credit covers the byte. -/
theorem rivalChannels_writable : rivalChannels.areaOf (rivalChannels.skUnitDst (40 : Fin 64) (readUnit 0x40)) = 1
    ∧ rivalChannels.dramReach (rivalChannels.skUnitDst (40 : Fin 64) (readUnit 0x40)) 1 = true
    ∧ 1 * 4 ≤ rivalChannels.skCredit (40 : Fin 64) := by decide +kernel

/-- Address 64 lies beyond it. -/
theorem rivalChannels_beyond : rivalChannels.skUnitDst (40 : Fin 64) (readUnit 0x40) + 1 ≤ 64 := by decide +kernel

/-- A channel with no unit in flight has no write ready. -/
theorem State.skWriteReady_of_no_units {s : State} {n : Nat} (h : (s.chan n).units = []) : s.skWriteReady n = false := by
  simp [State.skWriteReady, h]

/-- No channel below 32 has a write ready. -/
theorem rivalChannels_alone {m : Nat} (hm : m < 32) : rivalChannels.skWriteReady m = false := by
  have h32 : ¬ 32 = m := by omega
  have h40 : ¬ 40 = m := by omega
  exact State.skWriteReady_of_no_units (by simp [State.chan, rivalChannels, Table.get, h32, h40, SkpChannel.reset])

/-! ### The write -/

/-- UNIT_WRITE_ISSUE of channel 40 writes the byte of channel 32 to address 64: the last write served was for channel 63, so the turn
passes channel 32 first. -/
theorem rivalChannels_write : (nextState (exec (.unitWriteIssue 40) rivalChannels)).map (fun t => t.mem.byte 64) = some 0x32 := by
  decide +kernel

/-- Refutes O52: with no channel below 32 ready, UNIT_WRITE_ISSUE of channel 40 writes outside the bytes of its unit, where channel 32 is
ready and comes first in the turn. -/
theorem not_skipTransfers : ¬ Obligations.SkipTransfers := by
  intro hall
  obtain ⟨-, -, -, -, -, -, -, hmoving, -⟩ := hall 40 rivalChannels
  obtain ⟨hactive, hruns, hrows⟩ := rivalChannels_moves
  obtain ⟨-, hissue, -⟩ := hmoving hactive rfl hruns
  obtain ⟨harea, hreach, hcredit⟩ := rivalChannels_writable
  obtain ⟨t, hexec, -, -, hkeeps⟩ := hissue (readUnit 0x40) [(0x40, false)] rfl hrows rfl rfl rfl rfl harea (Nat.le_refl 1)
    (by decide) hreach hcredit (fun m hm _ => rivalChannels_alone hm)
  have hwrite := rivalChannels_write
  rw [hexec, nextState_next, Option.map_some, hkeeps 64 (.inr rivalChannels_beyond)] at hwrite
  exact absurd hwrite (by decide +kernel)

end Sys2Proof.Machine

/-!
PROOFS. Takeover (R707) over a table that lists a hewer twice: the record that TAKEOVER logs takes the first entry away, and with the second
the dispatch pool is empty.
-/
namespace Sys2Proof.Machine

/-- Hewer 0 with a reservation on granule 0 and nothing else beside its reset values, and, in a second entry of the same hewer, which no
type of the model excludes, halted. -/
def hewerTwice : Table Hewer :=
  [(0, { Hewer.reset with resv := some 0 }), (0, { Hewer.reset with halted := true })]

/-- STANDBY with EN and TAKE_UNREADY 1 and the partner lost; hewer 0 alone is in the pools; D3 is on and trained, and the ring of two fault
records begins at address 0. -/
def lastHewerStandby : State :=
  { State.reset with
    regs := [(Adr.CFG_MODE, 3), (Adr.DRT_GAL_POOL, 1), (Adr.DRT_HWR_POOL 0, 1), (Adr.MEM_STATUS, 2), (Adr.PLK_PARTNER_STAT, 0x80000000),
      (Adr.FLT_LOG_BASE, 1), (Adr.FLT_PARTNER, 3), (Adr.PWR_DOM_STATE, 0x1008)]
    hewers := hewerTwice }

/-- It meets every condition of a takeover, with a gallery in the pool. -/
theorem lastHewerStandby_takes : lastHewerStandby.mode = .standby ∧ lastHewerStandby.flag F.FLT_PARTNER.EN = true
    ∧ lastHewerStandby.flag F.PLK_PARTNER_STAT.LOST = true ∧ lastHewerStandby.flag F.FLT_PARTNER.TAKE_UNREADY = true
    ∧ lastHewerStandby.poolLeft = true := by decide +kernel

/-- No gallery is left once the record is written (R305, R702): TAKEOVER ends in SAFE HOLD. -/
theorem lastHewerStandby_takeover : (nextState (exec .takeover lastHewerStandby)).map State.mode = some .safeHold := by
  decide +kernel

/-- Refutes O46: the record of a takeover is written over the reservation of hewer 0, whose entry, then at its reset values, leaves the
table; the second entry, halted, empties the pool, and the device enters SAFE HOLD, neither RUN nor DEGRADED. -/
theorem not_partnerAndTakeover : ¬ Obligations.PartnerAndTakeover := by
  intro hall
  obtain ⟨-, -, -, htakeover, -⟩ := hall lastHewerStandby
  obtain ⟨hmode, hen, hlost, hunready, hpool⟩ := lastHewerStandby_takes
  obtain ⟨t, hexec, hlive, -⟩ := (htakeover hmode hen hlost).2 (.inr hunready) hpool
  have hsafe := lastHewerStandby_takeover
  rw [hexec, nextState_next, Option.map_some, Option.some_inj, hlive] at hsafe
  split at hsafe <;> exact Mode.noConfusion hsafe

end Sys2Proof.Machine

/-!
PROOFS. The plant ports (R595 to R600): what reads back of a port and of its queues, and what a fault record, a link-down event and a link
that goes down leave alone.
-/
namespace Sys2Proof.Machine

/-! ### Ports and their queues -/

@[simp] theorem State.port_setPort_same (s : State) (p : Nat) (x : PlkPort) : (s.setPort p x).port p = x :=
  Table.get_set_same _ _ _ _

theorem State.port_setPort_other (s : State) {p q : Nat} (x : PlkPort) (h : q ≠ p) : (s.setPort p x).port q = s.port q :=
  Table.get_set_other _ _ _ _ h

@[simp] theorem State.port_modPort_same (s : State) (p : Nat) (f : PlkPort → PlkPort) : (s.modPort p f).port p = f (s.port p) :=
  s.port_setPort_same p _

theorem State.port_modPort_other (s : State) {p q : Nat} (f : PlkPort → PlkPort) (h : q ≠ p) : (s.modPort p f).port q = s.port q :=
  s.port_setPort_other _ h

theorem State.port_of_plk {s t : State} (h : t.plk = s.plk) (p : Nat) : t.port p = s.port p := by
  unfold State.port
  rw [h]

theorem State.queue_of_port {s t : State} {p : Nat} (h : (t.port p).queues = (s.port p).queues) (q : Nat) :
    t.queue p q = s.queue p q := by
  unfold State.queue
  rw [h]

theorem State.queue_modPort (s : State) (p : Nat) {f : PlkPort → PlkPort} (h : (f (s.port p)).queues = (s.port p).queues) (q : Nat) :
    (s.modPort p f).queue p q = s.queue p q :=
  State.queue_of_port (by rw [State.port_modPort_same, h]) q

@[simp] theorem State.queue_setQueue_same (s : State) (p q : Nat) (l : List PlkFrame) : (s.setQueue p q l).queue p q = l := by
  unfold State.queue State.setQueue
  rw [State.port_modPort_same]
  exact Table.get_set_same _ _ _ _

theorem State.queue_setQueue_other (s : State) (p : Nat) {q k : Nat} (l : List PlkFrame) (h : k ≠ q) :
    (s.setQueue p q l).queue p k = s.queue p k := by
  unfold State.queue State.setQueue
  rw [State.port_modPort_same]
  exact Table.get_set_other _ _ _ _ h

/-! ### The plant links under a fault record -/

@[simp] theorem State.rawWrite_plk (s : State) (a : Nat) (l : List Byte) : (s.rawWrite a l).plk = s.plk := by
  obtain ⟨b, hb⟩ := State.rawWrite_rest s a l
  rw [hb]

@[simp] theorem State.dmaWriteBy_plk (s : State) (src a : Nat) (l : List Byte) : (s.dmaWriteBy src a l).plk = s.plk :=
  (State.rawWrite_plk (s.hubAccess a l.length src true) a l).trans (State.hubAccess_plk _ _ _ _ _)

@[simp] theorem State.setPba_plk (s : State) (f vec : Nat) (on : Bool) : (s.setPba f vec on).plk = s.plk := by
  unfold State.setPba
  split <;> rfl

@[simp] theorem State.sendMsix_plk (s : State) (f vec : Nat) : (s.sendMsix f vec).plk = s.plk := by
  unfold State.sendMsix
  simp only [apply_ite State.plk, State.emit_plk, State.setPba_plk, ite_self]

@[simp] theorem State.notify_plk (s : State) (bits : Nat) : (s.notify bits).plk = s.plk := by
  unfold State.notify
  simp only [apply_ite State.plk, State.sendMsix_plk, State.setReg_plk, ite_self]

@[simp] theorem State.logWrite_plk (s : State) (r : FaultRec) : (s.logWrite r).plk = s.plk := State.dmaWriteBy_plk _ _ _ _

@[simp] theorem State.bufferRecord_plk (s : State) (r : FaultRec) : (s.bufferRecord r).plk = s.plk := by
  unfold State.bufferRecord
  simp only [apply_ite State.plk, State.count_plk, ite_self]

@[simp] theorem State.logRecord_plk (s : State) (r : FaultRec) : (s.logRecord r).plk = s.plk := by
  unfold State.logRecord
  simp only [apply_ite State.plk, State.logWrite_plk, State.bufferRecord_plk, State.notify_plk, ite_self]

@[simp] theorem State.log_plk (s : State) (loc code detail cls dw2 dw3 : Nat) : (s.log loc code detail cls dw2 dw3).plk = s.plk :=
  State.logRecord_plk _ _

/-! ### Fault records while the ring is off (R716) -/

theorem State.setPba_big (s : State) (f vec : Nat) (on : Bool) : (s.setPba f vec on).big = s.big := by
  unfold State.setPba
  split <;> rfl

theorem State.sendMsix_big (s : State) (f vec : Nat) : (s.sendMsix f vec).big = s.big := by
  unfold State.sendMsix
  simp only [apply_ite State.big, State.emit_big, State.setPba_big, ite_self]

theorem State.notify_big (s : State) (bits : Nat) : (s.notify bits).big = s.big := by
  unfold State.notify
  simp only [apply_ite State.big, State.sendMsix_big, State.setReg_big, ite_self]

/-- The pending bits of the vectors of FLT_CTL lie below the registers of the fault block. -/
theorem State.sendMsix_reg_of_vec (s : State) (f : Nat) {vec a : Nat} (hv : vec < 256) (ha : Adr.FLT_CTL ≤ a) :
    (s.sendMsix f vec).reg a = s.reg a := by
  have hp : (s.setPba f vec true).reg a = s.reg a := by
    unfold State.setPba
    split
    · refine State.setFld_reg_other _ _ _ (Nat.ne_of_gt (Nat.lt_of_lt_of_le ?_ ha))
      simp only [F.HEP_MSIX_PBA.PENDING, Adr.HEP_MSIX_PBA, Adr.FLT_CTL]
      omega
    · rfl
  unfold State.sendMsix
  simp only
  split
  · rfl
  · split
    · split <;> exact hp
    · split
      · rfl
      · split
        · exact hp
        · rfl

theorem State.notify_reg_fault (s : State) (bits : Nat) {a : Nat} (ha : Adr.FLT_CTL ≤ a) (h : a ≠ Adr.FLT_NOTIFY) :
    (s.notify bits).reg a = s.reg a := by
  have hvec : s.fld F.FLT_CTL.VEC < 256 := bitsOf_lt _ _ _
  unfold State.notify
  simp only
  split
  · rw [State.sendMsix_reg_of_vec _ _ hvec ha, State.reg_setReg_other _ _ h]
  · rw [State.reg_setReg_other _ _ h]

theorem State.logSize_of {s t : State} (hr : t.reg Adr.FLT_LOG_BASE = s.reg Adr.FLT_LOG_BASE) (hb : t.big = s.big) :
    t.logSize = s.logSize := by
  unfold State.logSize State.dramSize
  rw [State.fld_of_reg (f := F.FLT_LOG_BASE.SIZE) hr, State.fld_of_reg (f := F.FLT_LOG_BASE.BASE) hr, hb]

@[simp] theorem State.notify_logSize (s : State) (bits : Nat) : (s.notify bits).logSize = s.logSize :=
  State.logSize_of (s.notify_reg_fault bits (by decide) (by decide)) (s.notify_big bits)

theorem State.setFld_logSize (s : State) (f : IoField) (v : Nat) (h : Adr.FLT_LOG_BASE ≠ f.addr) :
    (s.setFld f v).logSize = s.logSize :=
  State.logSize_of (s.setFld_reg_other f v h) rfl

theorem State.bufferRecord_logSize (s : State) (r : FaultRec) : (s.bufferRecord r).logSize = s.logSize := by
  unfold State.bufferRecord
  split
  · rfl
  · exact s.setFld_logSize F.FLT_COUNTS.DROPPED _ (by decide)

/-- A record goes to the hub buffer: no hewer loses a reservation to it, and the ring stays off. -/
theorem State.logRecord_ring_off {s : State} (h : s.logSize = 0) (r : FaultRec) :
    (s.logRecord r).hewers = s.hewers ∧ (s.logRecord r).logSize = 0 := by
  have hnotify : (s.notify (notifyBits r.code r.sev)).logSize = 0 := (s.notify_logSize _).trans h
  have hroom : (s.notify (notifyBits r.code r.sev)).logRoom = false := by simp [State.logRoom, hnotify]
  unfold State.logRecord
  split
  · exact ⟨rfl, h⟩
  · simp only [hroom, Bool.false_and, Bool.false_eq_true, if_false]
    exact ⟨(State.bufferRecord_hewers _ _).trans (State.notify_hewers _ _), (State.bufferRecord_logSize _ _).trans hnotify⟩

theorem State.log_ring_off {s : State} (h : s.logSize = 0) (loc code detail cls dw2 dw3 : Nat) :
    (s.log loc code detail cls dw2 dw3).hewers = s.hewers ∧ (s.log loc code detail cls dw2 dw3).logSize = 0 :=
  State.logRecord_ring_off (s := (s.stamp loc).2) h _

/-! ### A link-down event (R687, R692) -/

/-- What a count and a change of the fault block's own data leave alone. -/
structure State.CountedFrom (t s : State) : Prop where
  plk : t.plk = s.plk
  hewers : t.hewers = s.hewers
  reg : ∀ a, a ≠ Adr.FLT_COUNTS → t.reg a = s.reg a
  logSize : t.logSize = s.logSize

theorem State.countedFrom_count (s : State) {f : IoField} (hf : f.addr = Adr.FLT_COUNTS) (n : Nat) : (s.count f n).CountedFrom s where
  plk := s.count_plk f n
  hewers := s.count_hewers f n
  reg a ha := s.count_reg_other f n (hf ▸ ha)
  logSize := State.logSize_of (s.count_reg_other f n (by rw [hf]; decide)) (s.count_big f n)

theorem State.CountedFrom.withFlt {t s : State} (h : t.CountedFrom s) (x : FaultState) : State.CountedFrom { t with flt := x } s :=
  ⟨h.plk, h.hewers, h.reg, h.logSize⟩

theorem State.countedFrom_countLasting (s : State) : s.countLasting.CountedFrom s :=
  (s.countedFrom_count (f := F.FLT_COUNTS.LASTING) rfl 1).withFlt _

theorem State.countedFrom_countTransient (s : State) : s.countTransient.CountedFrom s :=
  s.countedFrom_count (f := F.FLT_COUNTS.TRANSIENT) rfl 1

theorem State.linkLasting_logs (s : State) (p : Nat) : ∃ u : State, u.CountedFrom s
    ∧ s.linkLasting p = u.log (0x500 + p) 0x09 0 4 0 (unitDw3 p 0) :=
  ⟨_, s.countedFrom_countLasting.withFlt _, rfl⟩

theorem State.linkLasting_leaves (s : State) (p : Nat) : (s.linkLasting p).plk = s.plk
    ∧ (∀ a, a < recordRegs → (s.linkLasting p).reg a = s.reg a)
    ∧ (s.logSize = 0 → (s.linkLasting p).hewers = s.hewers) := by
  obtain ⟨u, hu, heq⟩ := s.linkLasting_logs p
  rw [heq]
  exact ⟨(State.log_plk _ _ _ _ _ _ _).trans hu.plk,
    fun a ha => (State.log_reg _ _ _ _ _ _ _ ha).trans (hu.reg a (ne_of_lt_recordRegs ha (by decide))),
    fun h => (State.log_ring_off (hu.logSize.trans h) _ _ _ _ _ _).1.trans hu.hewers⟩

theorem State.linkEvent_cases (s : State) (p : Nat) : s.linkEvent p = s
    ∨ ∃ u : State, u.CountedFrom s ∧ (s.linkEvent p = u.linkLasting p ∨ s.linkEvent p = u) := by
  unfold State.linkEvent
  split
  · exact .inl rfl
  · simp only
    split
    · exact .inr ⟨_, s.countedFrom_countTransient.withFlt _, .inl rfl⟩
    · exact .inr ⟨_, s.countedFrom_countTransient.withFlt _, .inr rfl⟩

theorem State.linkEvent_leaves (s : State) (p : Nat) : (s.linkEvent p).plk = s.plk
    ∧ (∀ a, a < recordRegs → (s.linkEvent p).reg a = s.reg a)
    ∧ (s.logSize = 0 → (s.linkEvent p).hewers = s.hewers) := by
  rcases s.linkEvent_cases p with heq | ⟨u, hu, heq | heq⟩
  · rw [heq]
    exact ⟨rfl, fun _ _ => rfl, fun _ => rfl⟩
  · obtain ⟨hplk, hregs, hhewers⟩ := u.linkLasting_leaves p
    rw [heq]
    exact ⟨hplk.trans hu.plk, fun a ha => (hregs a ha).trans (hu.reg a (ne_of_lt_recordRegs ha (by decide))),
      fun h => (hhewers (hu.logSize.trans h)).trans hu.hewers⟩
  · rw [heq]
    exact ⟨hu.plk, fun a ha => hu.reg a (ne_of_lt_recordRegs ha (by decide)), fun _ => hu.hewers⟩

/-! ### A link that goes down (R599, R600) -/

theorem State.setQueue_lock (s : State) (p q : Nat) (l : List PlkFrame) : ((s.setQueue p q l).port p).lock = (s.port p).lock := by
  unfold State.setQueue
  rw [State.port_modPort_same]

/-- Where nothing waits nothing moves. -/
theorem State.moveQueues_of_empty {s : State} {p : Nat} (n q : Nat) (h : ∀ k, q ≤ k → k < q + n → s.queue p k = []) :
    (s.moveQueues p n q).regs = s.regs ∧ (s.moveQueues p n q).hewers = s.hewers
      ∧ ((s.moveQueues p n q).port p).lock = (s.port p).lock := by
  induction n generalizing s q with
  | zero => exact ⟨rfl, rfl, rfl⟩
  | succ k ih =>
    have hstep : s.moveQueues p (k + 1) q = (s.setQueue p q []).moveQueues p k (q + 1) := by
      rw [State.moveQueues, h q (Nat.le_refl q) (by omega), State.sendFrames]
    obtain ⟨hregs, hhewers, hlock⟩ := ih (s := s.setQueue p q []) (q + 1) fun j hj hlt => by
      rw [s.queue_setQueue_other p _ (by omega), h j (by omega) (by omega)]
    rw [hstep]
    exact ⟨hregs, hhewers, hlock.trans (s.setQueue_lock p q [])⟩

/-- PLK_PORTn_STATUS of a port that has gone down. -/
def State.downShown (s : State) (p : Nat) : State := (s.setFld (F.PLK_PORT_STATUS.LINK p) 0).raise (F.PLK_PORT_STATUS.LINK_DOWN p)

theorem State.downShown_flags (s : State) (p : Nat) : (s.downShown p).flag (F.PLK_PORT_STATUS.LINK p) = false
    ∧ (s.downShown p).flag (F.PLK_PORT_STATUS.LINK_DOWN p) = true := by
  refine ⟨?_, State.flag_raise _ _ IoField.fits⟩
  exact (State.flag_setFld_other _ _ _ _ IoField.fits (.inr (.inl (by decide : 30 < 31)))).trans (s.flag_setFld_zero _ IoField.fits)

theorem State.downShown_reg (s : State) {p a : Nat} (h : a ≠ Adr.PLK_PORT_STATUS p) : (s.downShown p).reg a = s.reg a :=
  (State.setFld_reg_other _ _ _ h).trans (s.setFld_reg_other _ _ h)

theorem portStatus_below (p : Fin 8) : Adr.PLK_PORT_STATUS p < recordRegs := by
  simp only [Adr.PLK_PORT_STATUS, recordRegs]
  omega

theorem State.downShown_leaves (s : State) (p : Fin 8) : (s.downShown p).plk = s.plk ∧ (s.downShown p).hewers = s.hewers
    ∧ (s.downShown p).logSize = s.logSize := by
  refine ⟨(State.raise_plk _ _).trans (s.setFld_plk _ _), (State.raise_hewers _ _).trans (s.setFld_hewers _ _), ?_⟩
  exact State.logSize_of (s.downShown_reg (Nat.ne_of_gt (Nat.lt_of_lt_of_le (portStatus_below p) (by decide))))
    ((State.raise_big _ _).trans (s.setFld_big _ _))

/-- PLK_LINK_DOWN logged and the event counted. -/
def State.downLogged (s : State) (p cause : Nat) : State :=
  ((s.downShown p).log (0x500 + p) 0x50 0 0 0 (p * 2 ^ 61 + cause * 2 ^ 58)).linkEvent p

theorem State.downLogged_leaves (s : State) (p : Fin 8) (cause : Nat) : (s.downLogged p cause).plk = s.plk
    ∧ (∀ a, a < recordRegs → (s.downLogged p cause).reg a = (s.downShown p).reg a)
    ∧ (s.logSize = 0 → (s.downLogged p cause).hewers = s.hewers) := by
  obtain ⟨hplk, hhewers, hsize⟩ := s.downShown_leaves p
  unfold State.downLogged
  generalize s.downShown p = u at *
  generalize p.val * 2 ^ 61 + cause * 2 ^ 58 = dw3
  obtain ⟨hplk', hregs, hhewers'⟩ := (u.log (0x500 + p) 0x50 0 0 0 dw3).linkEvent_leaves p
  refine ⟨hplk'.trans ((State.log_plk _ _ _ _ _ _ _).trans hplk),
    fun a ha => (hregs a ha).trans (State.log_reg _ _ _ _ _ _ _ ha), fun h => ?_⟩
  obtain ⟨hlog, hoff⟩ := State.log_ring_off (hsize.trans h) (0x500 + p) 0x50 0 0 0 dw3
  exact (hhewers' hoff).trans (hlog.trans hhewers)

/-- The state in which the frames of a port that has gone down move. -/
def State.downCleared (s : State) (p cause : Nat) : State := (s.downLogged p cause).modPort p (fun x => { x with gptp := [] })

theorem State.linkDown_eq {s : State} {p : Nat} (hup : s.flag (F.PLK_PORT_STATUS.LINK p) = true) (cause : Nat) :
    s.linkDown p cause = (s.downCleared p cause).moveQueues p 4 0 :=
  if_neg (by simp [hup])

theorem State.downCleared_port (s : State) (p : Fin 8) (cause : Nat) :
    (s.downCleared p cause).port p = { s.port p with gptp := [] } := by
  obtain ⟨hplk, -, -⟩ := s.downLogged_leaves p cause
  unfold State.downCleared
  rw [State.port_modPort_same, State.port_of_plk hplk]

theorem State.downCleared_leaves (s : State) (p : Fin 8) (cause : Nat) :
    (∀ a, a < recordRegs → (s.downCleared p cause).reg a = (s.downShown p).reg a)
      ∧ (s.logSize = 0 → (s.downCleared p cause).hewers = s.hewers) := by
  obtain ⟨-, hregs, hhewers⟩ := s.downLogged_leaves p cause
  have hmod := (s.downLogged p cause).modPort_regs p (fun x => { x with gptp := [] })
  exact ⟨fun a ha => (State.reg_of_regs hmod a).trans (hregs a ha), fun h => (State.modPort_hewers _ _ _).trans (hhewers h)⟩

/-- What the end of an up link with empty queues leaves. -/
theorem State.linkDown_of_up {s : State} {p : Fin 8} (hup : s.flag (F.PLK_PORT_STATUS.LINK p) = true)
    (hq : ∀ q, q < 4 → s.queue p q = []) (cause : Nat) :
    (s.linkDown p cause).flag (F.PLK_PORT_STATUS.LINK p) = false ∧ (s.linkDown p cause).flag (F.PLK_PORT_STATUS.LINK_DOWN p) = true
      ∧ (∀ a, a < recordRegs → a ≠ Adr.PLK_PORT_STATUS p → (s.linkDown p cause).reg a = s.reg a)
      ∧ ((s.linkDown p cause).port p).lock = (s.port p).lock
      ∧ (s.logSize = 0 → (s.linkDown p cause).hewers = s.hewers) := by
  obtain ⟨hlink, hdown⟩ := s.downShown_flags p
  obtain ⟨hregs, hhewers⟩ := s.downCleared_leaves p cause
  have hport := s.downCleared_port p cause
  rw [State.linkDown_eq hup]
  generalize s.downCleared p cause = u at *
  obtain ⟨hmoved, hmovedHewers, hmovedLock⟩ := State.moveQueues_of_empty (s := u) (p := p) 4 0 fun k _ hk =>
    (State.queue_of_port (by rw [hport]) k).trans (hq k (by omega))
  have hreg {a : Nat} (ha : a < recordRegs) := (State.reg_of_regs hmoved a).trans (hregs a ha)
  exact ⟨(State.flag_of_reg (hreg (portStatus_below p))).trans hlink, (State.flag_of_reg (hreg (portStatus_below p))).trans hdown,
    fun a ha hne => (hreg ha).trans (s.downShown_reg hne), hmovedLock.trans (by rw [hport]), fun h => hmovedHewers.trans (hhewers h)⟩

end Sys2Proof.Machine

/-!
PROOFS. Supervision of the plant links, gate lists and the egress list (R590, R596 to R599, R604): what each write and event does, and the
settled statement.
-/
namespace Sys2Proof.Machine

/-! ### Fields of a number built from fields -/

/-- A field of a number within a part of it that was copied. -/
theorem bitsOf_setBits_within (v w : Nat) {hi lo hi' lo' : Nat} (hl : lo ≤ lo') (hh : hi' ≤ hi) (h : lo ≤ hi + 1) :
    bitsOf (setBits v hi lo (bitsOf w hi lo)) hi' lo' = bitsOf w hi' lo' := by
  apply Nat.eq_of_testBit_eq
  intro i
  simp only [testBit_bitsOf, testBit_setBits _ _ _ _ _ h]
  by_cases hi2 : i < hi' + 1 - lo'
  · have hin : lo ≤ lo' + i ∧ lo' + i ≤ hi := by omega
    have hoff : lo' + i - lo < hi + 1 - lo := by omega
    have hsum : lo + (lo' + i - lo) = lo' + i := by omega
    simp [hin, hoff, hsum]
  · simp [hi2]

theorem bitsOf_single (v i : Nat) : bitsOf v i i = (bitOf v i).toNat := by
  rw [bitOf, Nat.toNat_testBit, bitsOf, Nat.add_sub_cancel_left, Nat.pow_one]

section
variable {p : Fin 8} {s : State}

/-! ### The lock of a port (R599) -/

theorem State.setLock_same {p : Nat} {on : Bool} (h : (s.port p).lock = on) : s.setLock p on = s := if_pos h

theorem State.setLock_changed {p : Nat} {on : Bool} (h : (s.port p).lock ≠ on) :
    s.setLock p on = s.modPort p (fun x => { x with lock := on, lockUs := s.time.us }) := if_neg h

theorem State.setLock_lock (s : State) (p : Nat) (on : Bool) : ((s.setLock p on).port p).lock = on := by
  by_cases h : (s.port p).lock = on
  · rw [State.setLock_same h, h]
  · rw [State.setLock_changed h, State.port_modPort_same]

theorem State.setLock_regs (s : State) (p : Nat) (on : Bool) : (s.setLock p on).regs = s.regs := by
  unfold State.setLock
  split <;> rfl

theorem State.setLock_queue (s : State) (p : Nat) (on : Bool) (q : Nat) : (s.setLock p on).queue p q = s.queue p q := by
  by_cases h : (s.port p).lock = on
  · rw [State.setLock_same h]
  · rw [State.setLock_changed h]
    exact s.queue_modPort p rfl q

theorem pcsLockLost_ends (h : (s.port p).lock = true) :
    exec (.pcsLockLost p) s = .next (s.modPort p (fun x => { x with lock := false, lockUs := s.time.us })) :=
  congrArg Host.Outcome.next (State.setLock_changed (by simp [h]))

theorem pcsLockLost_idle (h : (s.port p).lock = false) : exec (.pcsLockLost p) s = .next s :=
  congrArg Host.Outcome.next (State.setLock_same h)

theorem pcsLockAcquired_starts (h : (s.port p).lock = false) (hon : s.pcsOn p = true) :
    exec (.pcsLockAcquired p) s = .next (s.modPort p (fun x => { x with lock := true, lockUs := s.time.us })) :=
  congrArg Host.Outcome.next ((if_pos hon).trans (State.setLock_changed (by simp [h])))

theorem pcsLockAcquired_idle (h : s.pcsOn p = false) : exec (.pcsLockAcquired p) s = .next s :=
  congrArg Host.Outcome.next (if_neg (by simp [h]))

/-! ### PLK_LINK_UP and PLK_LINK_DOWN (R599) -/

theorem plkLinkUp_idle (h : (s.port p).lock = false ∨ s.time.us < (s.port p).lockUs + 10000) : exec (.plkLinkUp p) s = .next s := by
  refine congrArg Host.Outcome.next (if_neg ?_)
  rcases h with h | h
  · simp [h]
  · simp [Nat.not_le.mpr h]

theorem plkLinkUp_sets (hlock : (s.port p).lock = true) (hus : (s.port p).lockUs + 10000 ≤ s.time.us) (hon : s.pcsOn p = true)
    (hin : s.linkRetired p = false) (hdown : ¬ s.flag (F.PLK_PORT_STATUS.LINK p) = true) :
    ∃ t, exec (.plkLinkUp p) s = .next t ∧ t.flag (F.PLK_PORT_STATUS.LINK p) = true ∧ (s.logSize = 0 → t.hewers = s.hewers) := by
  have hstatus := portStatus_below p
  refine ⟨_, congrArg Host.Outcome.next (if_pos (by simp [hlock, hus, hon, hin, hdown])), ?_, fun h => ?_⟩
  · exact (State.flag_of_reg (State.log_reg _ _ _ _ _ _ _ hstatus)).trans (State.flag_raise _ _ IoField.fits)
  · have hsize : (s.raise (F.PLK_PORT_STATUS.LINK p)).logSize = s.logSize :=
      s.setFld_logSize _ 1 (Nat.ne_of_gt (Nat.lt_of_lt_of_le hstatus (by decide)))
    exact (State.log_ring_off (hsize.trans h) _ _ _ _ _ _).1.trans (s.raise_hewers _)

/-- A cause of R599 stands. -/
theorem State.downCause_ne_zero {p : Nat} {absent : Bool} (h : s.domainOn (portDomain p) = false ∨ s.linkRetired p = true
    ∨ absent = true ∨ ((s.port p).lock = false ∧ (s.port p).lockUs + 1000 ≤ s.time.us)) : s.downCause p absent ≠ 0 := by
  unfold State.downCause
  simp only
  split_ifs with hdom hret habs hlost
  · decide
  · decide
  · decide
  · decide
  · rcases h with h | h | h | ⟨hlock, hus⟩
    · exact absurd (by simp [h]) hdom
    · exact absurd h hret
    · exact absurd h habs
    · exact absurd (by simp [hlock, hus]) hlost

theorem State.downCause_zero {p : Nat} (hdom : s.domainOn (portDomain p) = true) (hin : s.linkRetired p = false)
    (h : (s.port p).lock = true ∨ s.time.us < (s.port p).lockUs + 1000) : s.downCause p false = 0 := by
  unfold State.downCause
  rcases h with h | h
  · simp [hdom, hin, h]
  · simp [hdom, hin, Nat.not_le.mpr h]

theorem plkLinkDown_idle (hdom : s.domainOn (portDomain p) = true) (hin : s.linkRetired p = false)
    (h : (s.port p).lock = true ∨ s.time.us < (s.port p).lockUs + 1000) : exec (.plkLinkDown p false) s = .next s :=
  congrArg Host.Outcome.next (if_pos (State.downCause_zero hdom hin h))

/-- The port as PLK_LINK_DOWN finds it: without its module it has no lock. -/
def State.moduleRead (s : State) (p : Nat) (absent : Bool) : State :=
  if absent then s.modPort p (fun x => { x with lock := false, lockUs := s.time.us }) else s

theorem State.moduleRead_leaves (s : State) (p : Nat) (absent : Bool) : (s.moduleRead p absent).regs = s.regs
    ∧ (s.moduleRead p absent).hewers = s.hewers ∧ (s.moduleRead p absent).logSize = s.logSize
    ∧ ∀ q, (s.moduleRead p absent).queue p q = s.queue p q := by
  unfold State.moduleRead
  split
  · exact ⟨rfl, rfl, rfl, s.queue_modPort p rfl⟩
  · exact ⟨rfl, rfl, rfl, fun _ => rfl⟩

theorem plkLinkDown_ends {absent : Bool} (hup : s.flag (F.PLK_PORT_STATUS.LINK p) = true)
    (hcause : s.domainOn (portDomain p) = false ∨ s.linkRetired p = true ∨ absent = true
      ∨ ((s.port p).lock = false ∧ (s.port p).lockUs + 1000 ≤ s.time.us)) (hq : ∀ q, q < 4 → s.queue p q = []) :
    ∃ t, exec (.plkLinkDown p absent) s = .next t ∧ t.flag (F.PLK_PORT_STATUS.LINK p) = false
      ∧ t.flag (F.PLK_PORT_STATUS.LINK_DOWN p) = true ∧ (s.logSize = 0 → t.hewers = s.hewers) := by
  obtain ⟨hregs, hhewers, hsize, hqueue⟩ := s.moduleRead_leaves p absent
  obtain ⟨hlink, hdown, -, -, hkept⟩ := State.linkDown_of_up (s := s.moduleRead p absent) (p := p)
    ((State.flag_of_reg (State.reg_of_regs hregs _)).trans hup) (fun q h => (hqueue q).trans (hq q h)) (s.downCause p absent)
  exact ⟨_, congrArg Host.Outcome.next (if_neg (State.downCause_ne_zero hcause)), hlink, hdown,
    fun h => (hkept (hsize.trans h)).trans hhewers⟩

/-! ### PORT_CTL_WRITE (R599, R745) -/

theorem portCtlWrite_not_taken (h : s.takesIo (Adr.PLK_PORT_CTL p) = false) (v : Word32) : exec (.portCtlWrite p v) s = .next s :=
  congrArg Host.Outcome.next (if_neg (by simp [h]))

theorem portCtlWrite_taken (h : s.takesIo (Adr.PLK_PORT_CTL p) = true) (v : Word32) :
    exec (.portCtlWrite p v) s = .next (s.portCtlWrite p v.toNat) :=
  congrArg Host.Outcome.next (if_pos h)

/-- What PLK_PORTn_CTL takes of a word: bits 29 to 24 in CONFIGURE only. -/
def State.portCtlWord (s : State) (p v : Nat) : Nat :=
  setBits (setBits (setBits 0 31 31 (bitsOf v 31 31)) 29 24
    (bitsOf (if s.mode = .configure then v else (s.reg (Adr.PLK_PORT_CTL p)).toNat) 29 24)) 23 19 (bitsOf v 23 19)

/-- The PCS keeps its lock while it may run. -/
def State.pcsKept (s : State) (p : Nat) : State := if s.pcsOn p then s else s.setLock p false

theorem State.pcsKept_leaves (s : State) (p : Nat) : (s.pcsKept p).regs = s.regs ∧ ∀ q, (s.pcsKept p).queue p q = s.queue p q := by
  unfold State.pcsKept
  split
  · exact ⟨rfl, fun _ => rfl⟩
  · exact ⟨s.setLock_regs p false, s.setLock_queue p false⟩

/-- The port with the word in its register, and the lock that its PCS keeps. -/
def State.portCtlShown (s : State) (p v : Nat) : State :=
  (s.setReg (Adr.PLK_PORT_CTL p) (BitVec.ofNat 64 (s.portCtlWord p v))).pcsKept p

theorem State.portCtlWrite_eq (s : State) (p v : Nat) :
    s.portCtlWrite p v = if bitOf v 31 then s.portCtlShown p v else (s.portCtlShown p v).linkDown p 0 := rfl

theorem State.portCtlShown_regs (s : State) (p v : Nat) :
    (s.portCtlShown p v).regs = (s.setReg (Adr.PLK_PORT_CTL p) (BitVec.ofNat 64 (s.portCtlWord p v))).regs :=
  (State.pcsKept_leaves _ p).1

theorem State.portCtlShown_reg (s : State) {p a : Nat} (h : a ≠ Adr.PLK_PORT_CTL p) (v : Nat) :
    (s.portCtlShown p v).reg a = s.reg a :=
  (State.reg_of_regs (s.portCtlShown_regs p v) a).trans (s.reg_setReg_other _ h)

theorem State.portCtlShown_queue (s : State) (p v q : Nat) : (s.portCtlShown p v).queue p q = s.queue p q :=
  ((State.pcsKept_leaves _ p).2 q).trans (State.queue_of_port (congrArg PlkPort.queues (State.port_of_plk (s.setReg_plk _ _) p)) q)

/-- Every field of the register reads the word written. -/
theorem State.portCtlShown_bits (s : State) (p v : Nat) {hi lo : Nat} (h : hi < 64) :
    bitsOf ((s.portCtlShown p v).reg (Adr.PLK_PORT_CTL p)).toNat hi lo = bitsOf (s.portCtlWord p v) hi lo := by
  rw [State.reg_of_regs (s.portCtlShown_regs p v), State.reg_setReg_same, BitVec.toNat_ofNat, bitsOf_mod_two_pow _ h]

theorem State.portCtlShown_en (s : State) (p v : Nat) : (s.portCtlShown p v).flag (F.PLK_PORT_CTL.EN p) = bitOf v 31 := by
  have hen : (s.portCtlShown p v).fld (F.PLK_PORT_CTL.EN p) = (bitOf v 31).toNat := by
    refine (s.portCtlShown_bits p v (hi := 31) (lo := 31) (by decide)).trans ?_
    rw [State.portCtlWord, bitsOf_setBits_other _ _ _ _ _ _ (by decide) (by decide),
      bitsOf_setBits_other _ _ _ _ _ _ (by decide) (by decide),
      bitsOf_setBits_within _ _ (Nat.le_refl _) (Nat.le_refl _) (by decide), bitsOf_single]
  unfold State.flag
  rw [hen]
  cases bitOf v 31 <;> rfl

/-- A field of bits 29 to 24 keeps its value outside CONFIGURE. -/
theorem State.portCtlShown_locked (hm : s.mode ≠ .configure) (v : Nat) {hi lo p : Nat} (hl : 24 ≤ lo) (hh : hi ≤ 29) :
    (s.portCtlShown p v).fld ⟨Adr.PLK_PORT_CTL p, hi, lo⟩ = s.fld ⟨Adr.PLK_PORT_CTL p, hi, lo⟩ := by
  refine (s.portCtlShown_bits p v (hi := hi) (lo := lo) (by omega)).trans ?_
  rw [State.portCtlWord, bitsOf_setBits_other _ _ _ _ _ _ (by decide) (by omega), if_neg hm,
    bitsOf_setBits_within _ _ hl hh (by decide)]
  rfl

theorem State.portCtlShown_alt (s : State) (p v : Nat) : (s.portCtlShown p v).fld (F.PLK_PORT_CTL.ALT_PORT p) = bitsOf v 21 19 := by
  refine (s.portCtlShown_bits p v (hi := 21) (lo := 19) (by decide)).trans ?_
  rw [State.portCtlWord, bitsOf_setBits_within _ _ (Nat.le_refl _) (by decide) (by decide)]

/-- With EN 0 the PCS loses its lock. -/
theorem State.portCtlShown_unlocked (s : State) (p : Nat) {v : Nat} (hv : bitOf v 31 = false) :
    ((s.portCtlShown p v).port p).lock = false := by
  have hen := s.portCtlShown_en p v
  have hregs := s.portCtlShown_regs p v
  rw [hv, State.flag_of_reg (State.reg_of_regs hregs _)] at hen
  have hoff : ¬ (s.setReg (Adr.PLK_PORT_CTL p) (BitVec.ofNat 64 (s.portCtlWord p v))).pcsOn p = true := by simp [State.pcsOn, hen]
  rw [State.portCtlShown, State.pcsKept, if_neg hoff]
  exact State.setLock_lock _ _ _

theorem portCtlWrite_enables {v : Word32} (hv : bitOf v.toNat 31 = true) (hio : s.takesIo (Adr.PLK_PORT_CTL p) = true) :
    exec (.portCtlWrite p v) s = .next (s.portCtlShown p v.toNat) := by
  rw [portCtlWrite_taken hio, State.portCtlWrite_eq, if_pos hv]

theorem portStatus_ne_portCtl (p : Nat) : Adr.PLK_PORT_STATUS p ≠ Adr.PLK_PORT_CTL p := by
  simp only [Adr.PLK_PORT_STATUS, Adr.PLK_PORT_CTL]
  omega

theorem portCtl_below (p : Fin 8) : Adr.PLK_PORT_CTL p < recordRegs := by
  simp only [Adr.PLK_PORT_CTL, recordRegs]
  omega

theorem portCtlWrite_disables {v : Word32} (hio : s.takesIo (Adr.PLK_PORT_CTL p) = true) (hv : bitOf v.toNat 31 = false)
    (hup : s.flag (F.PLK_PORT_STATUS.LINK p) = true) (hq : ∀ q, q < 4 → s.queue p q = []) :
    ∃ t, exec (.portCtlWrite p v) s = .next t ∧ t.flag (F.PLK_PORT_CTL.EN p) = false
      ∧ t.flag (F.PLK_PORT_STATUS.LINK p) = false ∧ (t.port p).lock = false := by
  have hen := (s.portCtlShown_en p v.toNat).trans hv
  have hunlocked := s.portCtlShown_unlocked p hv
  have hlinked := (State.flag_of_reg (f := F.PLK_PORT_STATUS.LINK p) (s.portCtlShown_reg (portStatus_ne_portCtl p) v.toNat)).trans hup
  have hqueues (q : Nat) (h : q < 4) := (s.portCtlShown_queue p v.toNat q).trans (hq q h)
  have heq : exec (.portCtlWrite p v) s = .next ((s.portCtlShown p v.toNat).linkDown p 0) := by
    rw [portCtlWrite_taken hio, State.portCtlWrite_eq, hv, if_neg Bool.false_ne_true]
  generalize s.portCtlShown p v.toNat = u at *
  obtain ⟨hlink, -, hregs, hlock, -⟩ := State.linkDown_of_up hlinked hqueues 0
  have hctl := hregs _ (portCtl_below p) (portStatus_ne_portCtl p).symm
  exact ⟨_, heq, (State.flag_of_reg (f := F.PLK_PORT_CTL.EN p) hctl).trans hen, hlink, hlock.trans hunlocked⟩

/-! ### Gate lists (R596, R597) -/

theorem gclCommit_not_taken (h : s.takesIo (Adr.PLK_PORT_GCL_CTL p) = false) (v : Word32) : exec (.gclCommit p v) s = .next s :=
  congrArg Host.Outcome.next (if_neg (by simp [h]))

theorem gclCommit_taken (h : s.takesIo (Adr.PLK_PORT_GCL_CTL p) = true) (v : Word32) :
    exec (.gclCommit p v) s = .next (s.gclWrite p v.toNat) :=
  congrArg Host.Outcome.next (if_pos h)

/-- A list pends whose instant is to come, or none pends. -/
theorem State.gclSettle_idle {p : Nat} (h : ∀ g start, (s.port p).pend = some (g, start) → s.time.now < start) : s.gclSettle p = s := by
  unfold State.gclSettle
  split
  · next g start hp => exact if_neg (Nat.not_le.mpr (h g start hp))
  · rfl

theorem State.gclSettle_due {p : Nat} {g : GateList} {start : Nat} (hp : (s.port p).pend = some (g, start)) (h : start ≤ s.time.now) :
    s.gclSettle p
      = (s.setFld (F.PLK_PORT_STATUS.GCL_PEND p) 0).modPort p (fun x => { x with gates := some g, pend := none }) := by
  unfold State.gclSettle
  rw [hp]
  exact if_pos h

/-- What a commit refuses. -/
def State.gclRefused (s : State) (p len : Nat) : Bool :=
  (s.port p).pend.isSome || len = 0 || 256 < len || (s.shadowGates p len).cycle = 0
    || (s.shadowGates p len).entries.any (fun e => e.2 = 0)

theorem State.gclWrite_eq {p v : Nat} (hidle : s.gclSettle p = s) (hv : bitOf v 31 = true) :
    s.gclWrite p v = if s.gclRefused p (bitsOf v 8 0) then
        (s.setFld (F.PLK_PORT_GCL_CTL.LEN p) (bitsOf v 8 0)).raise (F.PLK_PORT_STATUS.GCL_ERR p)
      else ((s.setFld (F.PLK_PORT_GCL_CTL.LEN p) (bitsOf v 8 0)).raise (F.PLK_PORT_STATUS.GCL_PEND p)).modPort p
        (fun x => { x with pend := some (s.shadowGates p (bitsOf v 8 0), (s.shadowGates p (bitsOf v 8 0)).start s.time.now) }) := by
  have hport : (s.setFld (F.PLK_PORT_GCL_CTL.LEN p) (bitsOf v 8 0)).port p = s.port p := State.port_of_plk (s.setFld_plk _ _) p
  unfold State.gclWrite State.gclRefused
  rw [hidle]
  simp only [hport, hv, Bool.not_true, Bool.false_eq_true, if_false]

theorem gclCommit_refused {v : Word32} (hio : s.takesIo (Adr.PLK_PORT_GCL_CTL p) = true) (hv : bitOf v.toNat 31 = true)
    (hidle : s.gclSettle p = s) (h : s.gclRefused p (bitsOf v.toNat 8 0) = true) :
    ∃ t, exec (.gclCommit p v) s = .next t ∧ t.flag (F.PLK_PORT_STATUS.GCL_ERR p) = true ∧ t.plk = s.plk := by
  refine ⟨_, gclCommit_taken hio v, ?_⟩
  rw [State.gclWrite_eq hidle hv, if_pos h]
  exact ⟨State.flag_raise _ _ IoField.fits, (State.raise_plk _ _).trans (s.setFld_plk _ _)⟩

theorem gclCommit_accepted {v : Word32} (hio : s.takesIo (Adr.PLK_PORT_GCL_CTL p) = true) (hv : bitOf v.toNat 31 = true)
    (hidle : s.gclSettle p = s) (h : s.gclRefused p (bitsOf v.toNat 8 0) = false) :
    ∃ t, exec (.gclCommit p v) s = .next t ∧ t.port p = { s.port p with
      pend := some (s.shadowGates p (bitsOf v.toNat 8 0), (s.shadowGates p (bitsOf v.toNat 8 0)).start s.time.now) } := by
  refine ⟨_, gclCommit_taken hio v, ?_⟩
  rw [State.gclWrite_eq hidle hv, h, if_neg Bool.false_ne_true, State.port_modPort_same,
    State.port_of_plk ((State.raise_plk _ _).trans (s.setFld_plk _ _))]

/-- The start of a list is at least 1 µs away, no more than one cycle later unless it is BASE, and whole cycles after BASE. -/
theorem GateList.start_spec (g : GateList) (now : Nat) (hc : g.cycle ≠ 0) : now + 16000 ≤ g.start now
    ∧ (g.start now = g.base ∨ g.start now < now + 16000 + g.cycle) ∧ ∃ k, g.start now = g.base + k * g.cycle := by
  unfold GateList.start
  simp only
  split
  · next hbase => exact ⟨hbase, .inl rfl, 0, by rw [Nat.zero_mul, Nat.add_zero]⟩
  · next hbase =>
    have hdiv := Nat.div_add_mod' (now + 16000 - g.base + g.cycle - 1) g.cycle
    have hmod := Nat.mod_lt (now + 16000 - g.base + g.cycle - 1) (Nat.pos_of_ne_zero hc)
    exact ⟨by omega, .inr (by omega), _, rfl⟩

/-! ### EGRESS_ENTRY_COMMIT (R590) -/

theorem egressEntryCommit_eq (v : Word) (s : State) :
    exec (.egressEntryCommit v) s = .next (if s.takesIo (Adr.PLK_EGR_DATA 3) then s.egrCommit v else s) := rfl

/-- The doublewords that a commit takes: the three written before it, and its own. -/
def State.egrTaken (s : State) (d3 : Word) (k : Nat) : Word := if k = 3 then d3 else s.reg (Adr.PLK_EGR_DATA k)

theorem State.egrCommit_same (s : State) (d3 : Word) {k : Nat} (hk : k < 4) :
    (s.egrCommit d3).egrDw (s.fld F.PLK_EGR_INDEX.ENTRY) k = (egrFields k (s.egrTaken d3 k)).toNat := by
  have hother {t : Table Word} {j i : Nat} (v : Word) (h : i ≠ j) :
      (t.set 0 (s.fld F.PLK_EGR_INDEX.ENTRY * 4 + j) v).get 0 (s.fld F.PLK_EGR_INDEX.ENTRY * 4 + i)
        = t.get 0 (s.fld F.PLK_EGR_INDEX.ENTRY * 4 + i) := Table.get_set_other _ _ _ _ (by omega)
  unfold State.egrDw State.egrCommit
  dsimp only
  match k, hk with
  | 0, _ => rw [hother _ (by decide), hother _ (by decide), hother _ (by decide), Table.get_set_same]; rfl
  | 1, _ => rw [hother _ (by decide), hother _ (by decide), Table.get_set_same]; rfl
  | 2, _ => rw [hother _ (by decide), Table.get_set_same]; rfl
  | 3, _ => rw [Table.get_set_same]; rfl

theorem State.egrCommit_other (s : State) (d3 : Word) {f k : Nat} (hf : f ≠ s.fld F.PLK_EGR_INDEX.ENTRY) (hk : k < 4) :
    (s.egrCommit d3).egrDw f k = s.egrDw f k := by
  unfold State.egrDw State.egrCommit
  simp only
  rw [Table.get_set_other _ _ _ _ (by omega), Table.get_set_other _ _ _ _ (by omega), Table.get_set_other _ _ _ _ (by omega),
    Table.get_set_other _ _ _ _ (by omega)]

theorem bitsOf_egrFields_dw0 (v : Word) {hi : Nat} (lo : Nat) (h : hi < 64) :
    bitsOf (egrFields 0 v).toNat hi lo = bitsOf (setBits v.toNat 52 48 0) hi lo := by
  simp only [egrFields, BitVec.toNat_ofNat, bitsOf_mod_two_pow _ h]

theorem bitsOf_egrFields_dw1 (v : Word) {hi : Nat} (lo : Nat) (h : hi < 64) :
    bitsOf (egrFields 1 v).toNat hi lo = bitsOf (setBits (setBits v.toNat 63 60 0) 20 16 0) hi lo := by
  simp only [egrFields, BitVec.toNat_ofNat, bitsOf_mod_two_pow _ h]

theorem bitsOf_egrFields_dw2 (v : Word) {hi : Nat} (lo : Nat) (h : hi < 64) :
    bitsOf (egrFields 2 v).toNat hi lo = bitsOf (setBits v.toNat 62 18 0) hi lo := by
  simp only [egrFields, BitVec.toNat_ofNat, bitsOf_mod_two_pow _ h]

/-- The fields of a doubleword are kept. -/
theorem bitsOf_egrFields_kept (v : Word) {k hi lo : Nat}
    (h : (k, hi, lo) ∈ [(0, 63, 53), (0, 47, 0), (1, 59, 21), (1, 15, 0), (2, 63, 63), (2, 17, 0)]) :
    bitsOf (egrFields k v).toNat hi lo = bitsOf v.toNat hi lo := by
  have hdw0 {hi lo : Nat} (h : hi < 64) (hd : 52 < lo ∨ hi < 48) :=
    (bitsOf_egrFields_dw0 v lo h).trans (bitsOf_setBits_other _ _ _ _ hi lo (by decide) hd)
  have hdw1 {hi lo : Nat} (h : hi < 64) (hd : 20 < lo ∨ hi < 16) (hd' : 63 < lo ∨ hi < 60) :=
    ((bitsOf_egrFields_dw1 v lo h).trans (bitsOf_setBits_other _ _ _ _ hi lo (by decide) hd)).trans
      (bitsOf_setBits_other _ _ _ _ hi lo (by decide) hd')
  have hdw2 {hi lo : Nat} (h : hi < 64) (hd : 62 < lo ∨ hi < 18) :=
    (bitsOf_egrFields_dw2 v lo h).trans (bitsOf_setBits_other _ _ _ _ hi lo (by decide) hd)
  simp only [List.mem_cons, Prod.mk.injEq, List.not_mem_nil, or_false] at h
  rcases h with ⟨rfl, rfl, rfl⟩ | ⟨rfl, rfl, rfl⟩ | ⟨rfl, rfl, rfl⟩ | ⟨rfl, rfl, rfl⟩ | ⟨rfl, rfl, rfl⟩ | ⟨rfl, rfl, rfl⟩
  · exact hdw0 (by decide) (by decide)
  · exact hdw0 (by decide) (by decide)
  · exact hdw1 (by decide) (by decide) (by decide)
  · exact hdw1 (by decide) (by decide) (by decide)
  · exact hdw2 (by decide) (by decide)
  · exact hdw2 (by decide) (by decide)

/-- Its reserved bits read 0. -/
theorem bitsOf_egrFields_reserved (v : Word) {k hi lo : Nat}
    (h : (k, hi, lo) ∈ [(0, 52, 48), (1, 63, 60), (1, 20, 16), (2, 62, 18), (3, 63, 0)]) :
    bitsOf (egrFields k v).toNat hi lo = 0 := by
  have hcleared (n hi lo : Nat) (h : lo ≤ hi + 1) : bitsOf (setBits n hi lo 0) hi lo = 0 :=
    (bitsOf_setBits_same n hi lo 0 h).trans (Nat.zero_mod _)
  simp only [List.mem_cons, Prod.mk.injEq, List.not_mem_nil, or_false] at h
  rcases h with ⟨rfl, rfl, rfl⟩ | ⟨rfl, rfl, rfl⟩ | ⟨rfl, rfl, rfl⟩ | ⟨rfl, rfl, rfl⟩ | ⟨rfl, rfl, rfl⟩
  · exact (bitsOf_egrFields_dw0 v 48 (by decide)).trans (hcleared _ _ _ (by decide))
  · exact ((bitsOf_egrFields_dw1 v 60 (by decide)).trans (bitsOf_setBits_other _ _ _ _ _ _ (by decide) (by decide))).trans
      (hcleared _ _ _ (by decide))
  · exact (bitsOf_egrFields_dw1 v 16 (by decide)).trans (hcleared _ _ _ (by decide))
  · exact (bitsOf_egrFields_dw2 v 18 (by decide)).trans (hcleared _ _ _ (by decide))
  · simp [egrFields, bitsOf]

end

/-! ### The statement -/

/-- Settles O50: each event by what the port stands at, each register's write by whether the register takes it, and a commit of a gate list
by whether it is refused. -/
theorem plantLinkSupervision : Obligations.PlantLinkSupervision := by
  intro p s
  refine ⟨fun hlock => ?_, pcsLockLost_idle, fun hlock hon => ?_, pcsLockAcquired_idle, plkLinkUp_sets, plkLinkUp_idle,
    fun absent => plkLinkDown_ends, plkLinkDown_idle, fun v => ⟨fun h => portCtlWrite_not_taken h v, fun h => gclCommit_not_taken h v⟩,
    fun v hv hio => ?_, fun v => portCtlWrite_disables, fun v hio hv => ⟨fun g start hp hlt => ?_, fun hp hbad => ?_,
      fun hp hlen hmax hcycle hint => ?_⟩, fun g start hp => ⟨fun hdue => ?_, fun hlt => ?_⟩, fun v tail => ⟨fun h => ?_, fun h => ?_,
      fun h => ?_, fun h => ?_⟩⟩
  · exact ⟨_, pcsLockLost_ends hlock, by simp, by simp, rfl, fun q hq => s.port_modPort_other _ hq⟩
  · exact ⟨_, pcsLockAcquired_starts hlock hon, by simp, by simp, rfl⟩
  · exact ⟨_, portCtlWrite_enables hv hio, (s.portCtlShown_en p _).trans hv,
      fun hm => ⟨State.portCtlShown_locked hm _ (by decide) (by decide),
        congrArg (· != 0) (State.portCtlShown_locked hm v.toNat (hi := 24) (lo := 24) (p := p) (by decide) (by decide))⟩,
      s.portCtlShown_alt p _, fun a ha => s.portCtlShown_reg ha _⟩
  · have hidle : s.gclSettle p = s := State.gclSettle_idle fun g' start' h' => by
      rw [hp, Option.some_inj, Prod.mk.injEq] at h'
      exact h'.2 ▸ hlt
    exact gclCommit_refused hio hv hidle (by simp [State.gclRefused, hp])
  · refine gclCommit_refused hio hv (State.gclSettle_idle (by simp [hp])) ?_
    rcases hbad with h | h | h
    · simp [State.gclRefused, h]
    · simp [State.gclRefused, h]
    · simp [State.gclRefused, State.shadowGates, h]
  · have hgood : s.gclRefused p (bitsOf v.toNat 8 0) = false := by
      have hany : (s.shadowGates p (bitsOf v.toNat 8 0)).entries.any (fun e => e.2 = 0) = false := by
        simpa [State.shadowGates] using hint
      have hcycle' : (s.shadowGates p (bitsOf v.toNat 8 0)).cycle ≠ 0 := hcycle
      simp [State.gclRefused, hp, hcycle', hany, Nat.not_lt.mpr hmax, Nat.ne_of_gt hlen]
    obtain ⟨t, hexec, hport⟩ := gclCommit_accepted hio hv (State.gclSettle_idle (by simp [hp])) hgood
    refine ⟨t, _, _, hexec, by rw [hport], by rw [hport], rfl, rfl, by simp [State.shadowGates], ?_⟩
    exact GateList.start_spec (s.shadowGates p (bitsOf v.toNat 8 0)) s.time.now hcycle
  · refine ⟨_, congrArg Host.Outcome.next (State.gclSettle_due hp hdue), by simp, by simp, ?_⟩
    exact (State.flag_of_reg (State.reg_of_regs (State.modPort_regs _ _ _) _)).trans (s.flag_setFld_zero _ IoField.fits)
  · exact congrArg Host.Outcome.next (State.gclSettle_idle fun g' start' h' => by
      rw [hp, Option.some_inj, Prod.mk.injEq] at h'
      exact h'.2 ▸ hlt)
  · rw [egressEntryCommit_eq, h, if_neg Bool.false_ne_true]
  · exact congrArg Host.Outcome.next (if_neg (by simp [h]))
  · exact congrArg Host.Outcome.next (if_pos h)
  · refine ⟨_, (egressEntryCommit_eq v s).trans (congrArg Host.Outcome.next (if_pos h)), rfl, fun k hi lo hk => ?_, fun k hi lo hk => ?_,
      fun f k hf hk => s.egrCommit_other v hf hk⟩
    · have hlt : k < 3 := by
        simp only [List.mem_cons, Prod.mk.injEq, List.not_mem_nil, or_false] at hk
        omega
      rw [s.egrCommit_same v (by omega), State.egrTaken, if_neg (by omega), bitsOf_egrFields_kept _ hk]
    · have hlt : k < 4 := by
        simp only [List.mem_cons, Prod.mk.injEq, List.not_mem_nil, or_false] at hk
        omega
      rw [s.egrCommit_same v hlt, bitsOf_egrFields_reserved _ hk]

end Sys2Proof.Machine

/-!
PROOFS. Frames in and out (R581 to R604): which window a record finds, what a port sends next, what an egress read takes, the PARTNER and
management frames, and the settled statement.
-/
namespace Sys2Proof.Machine

/-! ### The window of a record (R110) -/

theorem State.linkWindow_none {s : State} {p dev idx : Nat} (n lo : Nat)
    (h : ∀ w, lo ≤ w → w < lo + n → s.winMatchesLink w p dev idx = false) : s.linkWindow p dev idx n lo = none := by
  induction n generalizing lo with
  | zero => rfl
  | succ k ih =>
    rw [State.linkWindow, h lo (Nat.le_refl lo) (by omega), if_neg Bool.false_ne_true]
    exact ih (lo + 1) fun w hw hlt => h w (by omega) (by omega)

theorem State.linkWindow_lowest {s : State} {p dev idx w : Nat} (n lo : Nat) (hlo : lo ≤ w) (hw : w < lo + n)
    (hm : s.winMatchesLink w p dev idx = true) (hl : ∀ k, lo ≤ k → k < w → s.winMatchesLink k p dev idx = false) :
    s.linkWindow p dev idx n lo = some w := by
  induction n generalizing lo with
  | zero => omega
  | succ k ih =>
    rw [State.linkWindow]
    by_cases heq : lo = w
    · rw [heq, hm, if_pos rfl]
    · rw [hl lo (Nat.le_refl lo) (by omega), if_neg Bool.false_ne_true]
      exact ih (lo + 1) (by omega) (by omega) fun j hj hlt => hl j (by omega) hlt

/-! ### The record of a SIGNAL frame that holds one (R585, R588) -/

/-- A record that no window takes is counted. -/
theorem State.decodeRecords_dropped {s : State} {p dev : Nat} {l : List Byte}
    (h : s.linkWindow p dev (natBE (sliceBytes (l.take 32) 24 2)) 64 0 = none) (ts size : Nat) :
    s.decodeRecords p dev ts size 1 l = s.count F.LOD_COUNTS.DROPPED 1 := by
  simp only [State.decodeRecords, h]

/-- The only record of a frame frees the frame's space. -/
theorem State.decodeRecords_sent {s : State} {p dev w : Nat} {l : List Byte}
    (h : s.linkWindow p dev (natBE (sliceBytes (l.take 32) 24 2)) 64 0 = some w) (ts size : Nat) :
    s.decodeRecords p dev ts size 1 l = (s.setReg (Adr.PLK_WIN_LAST w) (BitVec.ofNat 64 ts)).lodeSend
      (.write (recordWrite (l.take 32) (s.winSlot w (natBE (sliceBytes (l.take 32) 24 2))) (some (p, size)))) := by
  have hlast : s.anyRecord p dev 0 (l.drop 32) = false := rfl
  simp only [State.decodeRecords, h, hlast, Bool.false_eq_true, if_false]

/-! ### A frame that a port receives (R581 to R588) -/

theorem frameReceived_idle {p : Fin 8} {s : State} (h : s.receives p = false) (bytes : List Byte) (ok : Bool) :
    exec (.frameReceived p bytes ok) s = .next s :=
  congrArg Host.Outcome.next (if_pos (by simp [h]))

/-- The port receives the frame: it is untagged, no 802.1AS frame, addressed to the port, and the ingress buffer has room for it. -/
structure State.Takes (s : State) (p : Nat) (bytes : List Byte) : Prop where
  receives : s.receives p = true
  notGptp : natBE (sliceBytes bytes 12 2) ≠ 0x88F7
  untagged : natBE (sliceBytes bytes 12 2) ≠ 0x8100
  room : s.ingressUsed p + s.maxFrame p ≤ 131072
  own : natBE (bytes.take 6) = s.fld (F.PLK_PORT_MAC.ADDR p)

/-- The state with the stamp of a frame of port `p` taken. -/
def State.frameStamped (s : State) (p : Nat) : State := (s.stamp (0x500 + p)).2

theorem State.frameStamped_reads (s : State) (p : Nat) : (s.frameStamped p).ingressUsed p = s.ingressUsed p
    ∧ (s.frameStamped p).maxFrame p = s.maxFrame p
    ∧ (s.frameStamped p).fld (F.PLK_PORT_MAC.ADDR p) = s.fld (F.PLK_PORT_MAC.ADDR p)
    ∧ (s.frameStamped p).fld F.PLK_CTL.ETHERTYPE = s.fld F.PLK_CTL.ETHERTYPE := ⟨rfl, rfl, rfl, rfl⟩

/-- What becomes of the frame, by its size and type. -/
theorem State.Takes.frameIn {s : State} {p : Nat} {bytes : List Byte} (h : s.Takes p bytes) (ok : Bool) : s.frameIn p bytes ok
    = if bytes.length + 4 < 64 || s.maxFrame p < bytes.length + 4
          || (natBE (sliceBytes bytes 12 2) = 0x8808 && natBE (sliceBytes bytes 14 2) = 1) then
        (s.frameStamped p).count (F.PLK_PORT_COUNTS.RX_DROP p) 1
      else if natBE (sliceBytes bytes 12 2) = s.fld F.PLK_CTL.ETHERTYPE then
        (s.frameStamped p).draughtFrame p (s.stamp (0x500 + p)).1 bytes (bytes.drop 14) ok
      else if ok && (s.frameStamped p).flag (F.PLK_PORT_CTL.PASS p) then
        (s.frameStamped p).mgmtReceive p (s.stamp (0x500 + p)).1 bytes
      else s.frameStamped p := by
  obtain ⟨hreceives, hgptp, htag, hroom, hown⟩ := h
  obtain ⟨hused, hmax, haddr, htype⟩ := s.frameStamped_reads p
  have hstamped : (s.stamp (0x500 + p)).2 = s.frameStamped p := rfl
  unfold State.frameIn
  simp only [hstamped, hreceives, htag, hgptp, hused, hmax, haddr, htype, hown, Nat.not_lt.mpr hroom, Bool.not_true, Bool.false_eq_true, if_false,
    bne_self_eq_false, Bool.and_false]

/-- A frame that is too short or too long is counted. -/
theorem State.Takes.frameIn_size {s : State} {p : Nat} {bytes : List Byte} (h : s.Takes p bytes)
    (hsize : bytes.length + 4 < 64 ∨ s.maxFrame p < bytes.length + 4) (ok : Bool) :
    s.frameIn p bytes ok = (s.frameStamped p).count (F.PLK_PORT_COUNTS.RX_DROP p) 1 := by
  rw [h.frameIn, if_pos]
  rcases hsize with hsize | hsize <;> simp [hsize]

/-- A draught frame of a legal size is read. -/
theorem State.Takes.frameIn_draught {s : State} {p : Nat} {bytes : List Byte} (h : s.Takes p bytes) (hmin : 64 ≤ bytes.length + 4)
    (hmax : bytes.length + 4 ≤ s.maxFrame p) (hpause : natBE (sliceBytes bytes 12 2) ≠ 0x8808)
    (htype : natBE (sliceBytes bytes 12 2) = s.fld F.PLK_CTL.ETHERTYPE) (ok : Bool) :
    s.frameIn p bytes ok = (s.frameStamped p).draughtFrame p (s.stamp (0x500 + p)).1 bytes (bytes.drop 14) ok := by
  rw [h.frameIn, if_neg, if_pos htype]
  simp [Nat.not_lt.mpr hmin, Nat.not_lt.mpr hmax, hpause]

theorem State.draughtFrame_bad_fcs (s : State) (p ts : Nat) (bytes hd : List Byte) :
    s.draughtFrame p ts bytes hd false = s.count (F.PLK_PORT_COUNTS.RX_DROP p) 1 := by
  simp [State.draughtFrame]

/-- A SIGNAL frame with one record. -/
theorem State.draughtFrame_signal (s : State) (p ts : Nat) (bytes : List Byte) {hd : List Byte} (hversion : natBE (sliceBytes hd 0 1) = 1)
    (htype : natBE (sliceBytes hd 1 1) = 1) (hcount : natBE (sliceBytes hd 4 2) = 1) (hlen : 64 ≤ hd.length) :
    s.draughtFrame p ts bytes hd true
      = s.decodeRecords p (natBE (sliceBytes hd 2 2) % 0x1000) ts (bytes.length + 4) 1 (hd.drop 32) := by
  have hwhole : ¬ hd.length < 32 + 1 * 32 := by omega
  unfold State.draughtFrame
  simp only [hversion, htype, hcount, hwhole]
  rfl

/-! ### The next frame of a port (R593, R595) -/

theorem PlkPort.fits_ungated {x : PlkPort} (hg : x.gates = none) (hp : x.pend = none) (q dur now : Nat) : x.fits q dur now = true := by
  simp [PlkPort.fits, hg, hp]

/-- Without a gate list the highest queue that holds a frame comes first. -/
theorem State.nextFrame_highest {s : State} {p q : Nat} {f : PlkFrame} {rest : List PlkFrame} (hg : (s.port p).gates = none)
    (hp : (s.port p).pend = none) (hq : s.queue p q = f :: rest) (n : Nat) (hlt : q < n)
    (hempty : ∀ k, q < k → k < n → s.queue p k = []) : s.nextFrame p n = some (q, f, rest) := by
  induction n with
  | zero => omega
  | succ k ih =>
    rw [State.nextFrame]
    by_cases heq : k = q
    · rw [heq, hq]
      exact if_pos (PlkPort.fits_ungated hg hp _ _ _)
    · rw [hempty k (by omega) (by omega)]
      exact ih (by omega) fun j hj hlt => hempty j hj (by omega)

/-- The port may start a frame: it is up, the clocks run and its transmitter is idle. -/
structure State.MaySend (s : State) (p : Nat) : Prop where
  up : s.portUp p = true
  clocks : s.pwr.pllLocked = true
  mode : s.mode ≠ .off
  idle : (s.port p).busy ≤ s.time.cyc

theorem frameTransmit_idle {p : Fin 8} {s : State} (h : s.portUp p = false ∨ s.pwr.pllLocked = false ∨ s.mode = .off
    ∨ s.time.cyc < (s.port p).busy) : exec (.frameTransmit p) s = .next s := by
  refine congrArg Host.Outcome.next (if_pos ?_)
  rcases h with h | h | h | h <;> simp [h]

theorem State.MaySend.passes {s : State} {p : Nat} (h : s.MaySend p) :
    ¬ (!(s.portUp p) || !s.pwr.pllLocked || s.mode = .off || s.time.cyc < (s.port p).busy) = true := by
  simp [h.up, h.clocks, h.mode, Nat.not_lt.mpr h.idle]

/-- A message that waits goes first. -/
theorem State.MaySend.transmit_gptp {s : State} {p : Nat} (h : s.MaySend p) {m : Nat × Nat} {l : List (Nat × Nat)}
    (hg : (s.port p).gptp = m :: l) :
    s.transmit p = (s.modPort p (fun x => { x with gptp := l })).putGptp p m.1 m.2 := by
  unfold State.transmit
  rw [if_neg h.passes, hg]

/-- On a port with lock a message leaves with the port's stamp. -/
theorem State.putGptp_locked {s : State} {p : Nat} (h : (s.port p).lock = true) (kind info : Nat) : s.putGptp p kind info
    = (s.stamp (0x500 + p)).2.emit (.gptp p kind (s.stamp (0x500 + p)).1 (s.fld F.TIM_CTL.DOMAIN) info) :=
  if_pos h

/-- The bytes of a frame as they leave: the port sets the source address where the frame asks for it. -/
def State.sentBytes (s : State) (p : Nat) (f : PlkFrame) : List Byte :=
  if f.ownSa then pokeBytes f.bytes 6 (bytesBE 6 (s.fld (F.PLK_PORT_MAC.ADDR p))) else f.bytes

/-- The port with a frame in transmission, which leaves its queue. -/
def State.frameStarted (s : State) (p q : Nat) (f : PlkFrame) (rest : List PlkFrame) : State :=
  (s.setQueue p q rest).modPort p (fun x => { x with
    busy := s.time.cyc + ((f.bytes.length + 24) * byteTime (s.fld (F.PLK_PORT_CTL.RATE p)) + 1999) / 2000 })

theorem State.frameStarted_port (s : State) (p q : Nat) (f : PlkFrame) (rest : List PlkFrame) :
    (s.frameStarted p q f rest).queue p q = rest ∧ s.time.cyc ≤ ((s.frameStarted p q f rest).port p).busy := by
  unfold State.frameStarted
  refine ⟨((s.setQueue p q rest).queue_modPort p rfl q).trans (s.queue_setQueue_same p q rest), ?_⟩
  rw [State.port_modPort_same]
  exact Nat.le_add_right _ _

/-- A frame that is not late leaves with the port's stamp. -/
theorem State.MaySend.transmit_frame {s : State} {p q : Nat} {f : PlkFrame} {rest : List PlkFrame} (h : s.MaySend p)
    (hg : (s.port p).gptp = []) (hnext : s.nextFrame p 4 = some (q, f, rest)) (hlock : (s.port p).lock = true)
    (hlate : f.entry = none ∨ s.time.now ≤ f.inst + 32000) :
    s.transmit p = ((s.frameStarted p q f rest).stamp (0x500 + p)).2.emit
      (.frame p ((s.frameStarted p q f rest).stamp (0x500 + p)).1 (s.sentBytes p f)) := by
  unfold State.transmit
  rw [if_neg h.passes, hg]
  simp only [hnext, hlock, if_true]
  cases hentry : f.entry with
  | none => rfl
  | some e =>
    have hontime : ¬ f.inst + 32000 < s.time.now := by
      rcases hlate with hlate | hlate
      · rw [hentry] at hlate
        exact absurd hlate (by simp)
      · omega
    simp only [hontime, if_false]
    rfl

/-! ### Egress reads (R591) -/

theorem egressRead_idle {n : Fin 64} {s : State} (h : s.launchOf n = none) : exec (.egressRead n) s = .next s := by
  show execEgressRead n s = _
  simp only [execEgressRead, h, done]

theorem egressRead_early {n : Fin 64} {s : State} {p e inst : Nat} (h : s.launchOf n = some (p, e, inst))
    (hearly : s.time.now + s.fld F.LOD_EGRESS_LEAD.LEAD < inst) : exec (.egressRead n) s = .next s := by
  show execEgressRead n s = _
  simp [execEgressRead, h, done, hearly]

theorem egressRead_due {n : Fin 64} {s : State} {p e inst : Nat} (h : s.launchOf n = some (p, e, inst))
    (hdue : inst ≤ s.time.now + s.fld F.LOD_EGRESS_LEAD.LEAD) (hpll : s.pwr.pllLocked = true) (hnew : s.readFor n p e inst = none) :
    exec (.egressRead n) s = .next (s.egressRead n p e inst) := by
  show execEgressRead n s = _
  simp [execEgressRead, h, done, hpll, hnew, Nat.not_lt.mpr hdue]

/-- In RUN the read of a launch that R592 does not drop takes the entry's slots. -/
theorem State.egressRead_in_run {s : State} {p e : Nat} (hrun : s.mode = .run) (hgood : s.egrBad p (s.egrDws e) false = 0) (n inst : Nat) :
    ∃ r, (s.egressRead n p e inst).readFor n p e inst = some r ∧ (s.egressRead n p e inst).regs = s.regs
      ∧ (s.egressRead n p e inst).lode = s.lode
      ∧ r.recs = s.egrRun (egrSlot (s.egrDws e)) (bitsOf (s.egrDw e 1) 15 0) (inst - s.fld F.LOD_EGRESS_LEAD.LEAD)
          (egrCount (s.egrDws e)) none := by
  have hread : ¬ s.readSuppressed (egrSafeEn (s.egrDws e)) = true := by simp [State.readSuppressed, hrun]
  unfold State.egressRead
  simp only [hread, hgood, decide_true, Bool.true_or, if_true]
  exact ⟨_, List.find?_cons_of_pos (by simp), rfl, rfl, rfl⟩

/-! ### A frame that a port which is up takes (R593, R600) -/

theorem State.sendFrame_up {s : State} {p : Nat} (hup : s.portUp p = true) (q : Nat) {f : PlkFrame} (hf : f.entry = none) :
    s.sendFrame p q f = s.setQueue p q (s.queue p q ++ [f]) := by
  unfold State.sendFrame State.enqueue
  rw [if_pos hup, hf]

theorem State.portUp_of {s t : State} {p : Nat} (hdom : t.reg Adr.PWR_DOM_STATE = s.reg Adr.PWR_DOM_STATE)
    (hstatus : t.reg (Adr.PLK_PORT_STATUS p) = s.reg (Adr.PLK_PORT_STATUS p)) (hflt : t.flt = s.flt) : t.portUp p = s.portUp p := by
  unfold State.portUp State.linkRetired
  rw [State.domainOn_of_reg hdom, State.flag_of_reg (f := F.PLK_PORT_STATUS.LINK p) hstatus, hflt]

/-! ### PARTNER frames (R601) -/

theorem State.sendPartner_none {s : State} (bytes : List Byte) (n lo : Nat)
    (h : ∀ k, lo ≤ k → k < lo + n → (s.fld F.PLK_PARTNER.PORTS).testBit k = false) : s.sendPartner bytes n lo = s := by
  induction n generalizing lo with
  | zero => rfl
  | succ k ih =>
    rw [State.sendPartner, h lo (Nat.le_refl lo) (by omega), if_neg Bool.false_ne_true]
    exact ih (lo + 1) fun j hj hlt => h j (by omega) (by omega)

/-- The frame that PARTNER_FRAME_SEND queues. -/
def partnerPlkFrame (bytes : List Byte) : PlkFrame := ⟨bytes, true, none, 0, none⟩

/-- Of one PARTNER port, which is up, the frame joins queue 2. -/
theorem State.sendPartner_one {s : State} {p : Nat} (hports : s.fld F.PLK_PARTNER.PORTS = 2 ^ p) (hup : s.portUp p = true)
    (bytes : List Byte) (n lo : Nat) (hlo : lo ≤ p) (hlt : p < lo + n) :
    s.sendPartner bytes n lo = s.setQueue p 2 (s.queue p 2 ++ [partnerPlkFrame bytes]) := by
  have hbit {t : State} (ht : t.regs = s.regs) (k : Nat) : (t.fld F.PLK_PARTNER.PORTS).testBit k = decide (p = k) := by
    rw [State.fld_of_reg (State.reg_of_regs ht _), hports, Nat.testBit_two_pow]
  induction n generalizing lo with
  | zero => omega
  | succ k ih =>
    rw [State.sendPartner, hbit rfl]
    by_cases heq : p = lo
    · subst heq
      rw [if_pos (by simp), State.sendFrame_up hup 2 rfl]
      exact State.sendPartner_none bytes k (p + 1) fun j hj _ => (hbit rfl j).trans (decide_eq_false (by omega))
    · rw [if_neg (by simpa using heq)]
      exact ih (lo + 1) (by omega) (by omega)

theorem partnerFrameSend_early {s : State} (h : s.time.us < s.plk.sentUs + s.fld F.PLK_PARTNER.PERIOD_US) :
    exec .partnerFrameSend s = .next s :=
  congrArg Host.Outcome.next (if_pos (by simp [h]))

/-- The state with the send noted: one free value is drawn for what the spec leaves open (log 24). -/
def State.partnerNoted (s : State) : State := { s.draw.2 with plk := { s.draw.2.plk with sentUs := s.time.us } }

theorem partnerFrameSend_due {s : State} (hdue : s.plk.sentUs + s.fld F.PLK_PARTNER.PERIOD_US ≤ s.time.us) (hmode : s.mode ≠ .off)
    (hpll : s.pwr.pllLocked = true) (hports : s.fld F.PLK_PARTNER.PORTS ≠ 0) :
    ∃ bytes, exec .partnerFrameSend s = .next (s.partnerNoted.sendPartner bytes 8 0) :=
  ⟨_, congrArg Host.Outcome.next (if_neg (by simp [hmode, hpll, hports, Nat.not_lt.mpr hdue]))⟩

/-! ### MGMT_TX_SEND (R604) -/

/-- The address of the next entry of the transmit ring. -/
def State.mgmtTxAt (s : State) : Nat :=
  s.fld F.PLK_MGMT_TX.BASE * 4096 + s.fld F.PLK_MGMT_TX_PTR.HEAD % ringEntries (s.fld F.PLK_MGMT_TX.SIZE) * 2048

/-- The state with an entry of `len` bytes for port `p` taken from the ring. -/
def State.mgmtTxTaken (s : State) (p len : Nat) : State :=
  (s.hubAccess s.mgmtTxAt (16 + len) (0x500 + p) false).setFld F.PLK_MGMT_TX_PTR.HEAD (s.fld F.PLK_MGMT_TX_PTR.HEAD + 1)

theorem State.mgmtTxTaken_leaves (s : State) (p len : Nat) : (s.mgmtTxTaken p len).plk = s.plk ∧ (s.mgmtTxTaken p len).flt = s.flt
    ∧ (s.mgmtTxTaken p len).mem = s.mem
    ∧ ∀ a, a ≠ Adr.PLK_MGMT_TX_PTR → (s.mgmtTxTaken p len).reg a = s.reg a := by
  unfold State.mgmtTxTaken
  refine ⟨(State.setFld_plk _ _ _).trans (State.hubAccess_plk _ _ _ _ _), (State.setFld_flt _ _ _).trans (State.hubAccess_flt _ _ _ _ _),
    (State.setFld_mem _ _ _).trans (State.hubAccess_mem _ _ _ _ _), fun a ha => ?_⟩
  exact (State.setFld_reg_other _ _ _ ha).trans (State.reg_of_regs (State.hubAccess_regs _ _ _ _ _) a)

theorem State.mgmtTxTaken_head (s : State) (p len : Nat) :
    (s.mgmtTxTaken p len).fld F.PLK_MGMT_TX_PTR.HEAD = (s.fld F.PLK_MGMT_TX_PTR.HEAD + 1) % 0x10000 :=
  State.fld_setFld_same _ _ _ IoField.fits

theorem mgmtTxSend_empty {s : State} (h : s.fld F.PLK_MGMT_TX_PTR.HEAD = s.fld F.PLK_MGMT_TX_PTR.TAIL) : exec .mgmtTxSend s = .next s :=
  congrArg Host.Outcome.next (if_pos (by simp [h]))

/-- An entry that the ring holds and DRAM gives. -/
structure State.MgmtTxReady (s : State) : Prop where
  entries : ringEntries (s.fld F.PLK_MGMT_TX.SIZE) ≠ 0
  waits : s.fld F.PLK_MGMT_TX_PTR.HEAD ≠ s.fld F.PLK_MGMT_TX_PTR.TAIL
  clocks : s.pwr.pllLocked = true
  mode : s.mode ≠ .off
  reach : s.dramReach s.mgmtTxAt 2048 = true

/-- The entry is taken; its length decides what becomes of it. -/
theorem State.MgmtTxReady.send {s : State} (h : s.MgmtTxReady) {dw p len : Nat} (hdw : s.readDw s.mgmtTxAt = dw) (hp : bitsOf dw 63 61 = p)
    (hlen : bitsOf dw 15 0 = len) : exec .mgmtTxSend s = .next (if len < 60 || 2032 < len then
        (s.mgmtTxTaken p len).count (F.PLK_PORT_COUNTS.EGR_DROP p) 1
      else (s.mgmtTxTaken p len).sendFrame p 0 ⟨s.readBytes (s.mgmtTxAt + 16) len, false, none, 0, none⟩) := by
  obtain ⟨hentries, hwaits, hclocks, hmode, hreach⟩ := h
  subst hdw hp hlen
  unfold State.mgmtTxTaken
  unfold State.mgmtTxAt at *
  show execMgmtTxSend s = _
  simp only [execMgmtTxSend, done, hentries, hwaits, hclocks, hmode, hreach, if_false, decide_false, Bool.not_true, Bool.or_false,
    Bool.false_eq_true]

/-- A length that no frame has is counted. -/
theorem State.MgmtTxReady.send_dropped {s : State} (h : s.MgmtTxReady)
    (hbad : bitsOf (s.readDw s.mgmtTxAt) 15 0 < 60 ∨ 2032 < bitsOf (s.readDw s.mgmtTxAt) 15 0) : exec .mgmtTxSend s
      = .next ((s.mgmtTxTaken (bitsOf (s.readDw s.mgmtTxAt) 63 61) (bitsOf (s.readDw s.mgmtTxAt) 15 0)).count
          (F.PLK_PORT_COUNTS.EGR_DROP (bitsOf (s.readDw s.mgmtTxAt) 63 61)) 1) :=
  (h.send rfl rfl rfl).trans (congrArg Host.Outcome.next (if_pos (by simpa using hbad)))

/-- A frame of a legal length joins queue 0 of its port, which is up. -/
theorem State.MgmtTxReady.send_queued {s : State} (h : s.MgmtTxReady) {dw p len : Nat} (hdw : s.readDw s.mgmtTxAt = dw)
    (hp : bitsOf dw 63 61 = p) (hlen : bitsOf dw 15 0 = len) (hmin : 60 ≤ len) (hmax : len ≤ 2032) (hup : s.portUp p = true) :
    ∃ t, exec .mgmtTxSend s = .next t ∧ t.fld F.PLK_MGMT_TX_PTR.HEAD = (s.fld F.PLK_MGMT_TX_PTR.HEAD + 1) % 0x10000
      ∧ t.queue p 0 = s.queue p 0 ++ [⟨s.readBytes (s.mgmtTxAt + 16) len, false, none, 0, none⟩] ∧ t.mem = s.mem := by
  obtain ⟨hplk, hflt, hmem, hregs⟩ := s.mgmtTxTaken_leaves p len
  have hhead := s.mgmtTxTaken_head p len
  have hsent := h.send hdw hp hlen
  have hlegal : ¬ (decide (len < 60) || decide (2032 < len)) = true := by simp [Nat.not_lt.mpr hmin, Nat.not_lt.mpr hmax]
  have hstatus : Adr.PLK_PORT_STATUS p ≠ Adr.PLK_MGMT_TX_PTR := by
    simp only [Adr.PLK_PORT_STATUS, Adr.PLK_MGMT_TX_PTR]
    omega
  have hqueue : (s.mgmtTxTaken p len).queue p 0 = s.queue p 0 := State.queue_of_port (by rw [State.port_of_plk hplk]) 0
  have hup' := (State.portUp_of (hregs _ (by decide)) (hregs _ hstatus) hflt).trans hup
  rw [if_neg hlegal, State.sendFrame_up hup' 0 rfl, hqueue] at hsent
  exact ⟨_, hsent, hhead, State.queue_setQueue_same _ _ _ _, hmem⟩

/-! ### The statement -/

/-- Settles O51: a received frame by its size and type and by the window of its record; a port's next frame by what waits; an egress read
by the lead; the PARTNER and management frames by the port that takes them. -/
theorem framesInAndOut : Obligations.FramesInAndOut := by
  refine ⟨fun p bytes ok s => ⟨fun h => frameReceived_idle h bytes ok, fun hreceives hgptp htag hroom hown _ => ?_⟩,
    fun p s => ⟨frameTransmit_idle, fun m l hup hclocks hmode hidle hlock hg => ?_,
      fun q f rest hq hup hclocks hmode hidle hlock hg hgates hpend hqueue hempty hlate => ?_⟩,
    fun n s => ⟨egressRead_idle, fun p e inst h => ⟨egressRead_early h, fun hdue hpll hnew hrun hgood => ?_⟩⟩,
    fun s => ⟨partnerFrameSend_early, fun p hdue hmode hpll hports hup => ?_, mgmtTxSend_empty,
      fun hentries hwaits hclocks hmode hreach => ⟨fun hbad => ?_, fun hmin hmax hup => ?_⟩⟩⟩
  · have htakes : s.Takes p bytes := ⟨hreceives, hgptp, htag, hroom, hown⟩
    refine ⟨fun hsize => congrArg Host.Outcome.next (htakes.frameIn_size hsize ok), fun hmin hmax hpause htype => ?_⟩
    have hread := htakes.frameIn_draught hmin hmax hpause htype
    refine ⟨fun hok => ?_, fun hok hversion hsignal hcount hlen => ?_⟩
    · rw [hok]
      exact congrArg Host.Outcome.next ((hread false).trans (State.draughtFrame_bad_fcs _ _ _ _ _))
    · have hrecord := (hread true).trans (State.draughtFrame_signal _ _ _ bytes hversion hsignal hcount hlen)
      rw [hok]
      refine ⟨fun hnone => ?_, fun w hw hm hl => ?_⟩
      · have hwin := State.linkWindow_none (s := s.frameStamped p) 64 0 fun w _ hlt => hnone w (by omega)
        exact congrArg Host.Outcome.next (hrecord.trans (State.decodeRecords_dropped hwin _ _))
      · have hwin := State.linkWindow_lowest (s := s.frameStamped p) 64 0 (Nat.zero_le w) (by omega) hm fun k _ hlt => hl k hlt
        exact congrArg Host.Outcome.next (hrecord.trans (State.decodeRecords_sent hwin _ _))
  · have hsend : s.MaySend p := ⟨hup, hclocks, hmode, hidle⟩
    have hport : (s.modPort p (fun x => { x with gptp := l })).port p = { s.port p with gptp := l } := s.port_modPort_same p _
    have hlocked : ((s.modPort p (fun x => { x with gptp := l })).port p).lock = true := by rw [hport, hlock]
    exact ⟨_, congrArg Host.Outcome.next ((hsend.transmit_gptp hg).trans (State.putGptp_locked hlocked _ _)),
      congrArg PlkPort.gptp hport, rfl, rfl⟩
  · have hsend : s.MaySend p := ⟨hup, hclocks, hmode, hidle⟩
    have hnext := State.nextFrame_highest hgates hpend hqueue 4 hq hempty
    obtain ⟨hleft, hbusy⟩ := s.frameStarted_port p q f rest
    exact ⟨_, congrArg Host.Outcome.next (hsend.transmit_frame hg hnext hlock hlate), hleft, hbusy, rfl, rfl⟩
  · obtain ⟨r, hfound, hregs, hlode, hrecs⟩ := State.egressRead_in_run hrun hgood n inst
    exact ⟨_, r, egressRead_due h hdue hpll hnew, hfound, hregs, hlode, hrecs⟩
  · obtain ⟨bytes, hexec⟩ := partnerFrameSend_due hdue hmode hpll (by rw [hports]; exact Nat.ne_of_gt (Nat.two_pow_pos _))
    have hone := State.sendPartner_one (s := s.partnerNoted) hports hup bytes 8 0 (Nat.zero_le _) (by omega)
    refine ⟨_, partnerPlkFrame bytes, hexec.trans (congrArg Host.Outcome.next hone), ?_, rfl, rfl, rfl⟩
    exact State.queue_setQueue_same _ _ _ _
  · have hready : s.MgmtTxReady := ⟨hentries, hwaits, hclocks, hmode, hreach⟩
    exact hready.send_dropped hbad
  · have hready : s.MgmtTxReady := ⟨hentries, hwaits, hclocks, hmode, hreach⟩
    exact hready.send_queued rfl rfl rfl hmin hmax hup

end Sys2Proof.Machine
